-- ==== Sys2Proof/Word.lean ====
section
/-!
DEFINITION. The plain types every other file uses: word types, the three lanes and a value per lane.
-/
namespace Sys2Proof

/-- A byte of an image, a frame or a host-memory structure. -/
abbrev Byte := BitVec 8

/-- A 32-bit register or program word. -/
abbrev Word32 := BitVec 32

/-- The three safety lanes (R20). Ring A, B and C belong to Lanes A, B and C. -/
inductive Lane where
  | a | b | c
  deriving DecidableEq, Repr

/-- Lane number 0, 1, 2 for A, B, C, as register tables index lanes and rings. -/
def Lane.idx : Lane → Nat
  | .a => 0
  | .b => 1
  | .c => 2

/-- The lanes in the order A, B, C. -/
def Lane.all : List Lane := [.a, .b, .c]

/-- Lane of a number. -/
def Lane.ofIdx : Nat → Lane
  | 0 => .a
  | 1 => .b
  | _ => .c

/-- The other two lanes, in the order A, B, C. -/
def Lane.others : Lane → List Lane
  | .a => [.b, .c]
  | .b => [.a, .c]
  | .c => [.a, .b]

/-- One value for each lane. -/
structure PerLane (α : Type) where
  a : α
  b : α
  c : α
  deriving DecidableEq, Repr

/-- The value of one lane. -/
def PerLane.get {α : Type} (p : PerLane α) : Lane → α
  | .a => p.a
  | .b => p.b
  | .c => p.c

/-- Replace the value of one lane. -/
def PerLane.set {α : Type} (p : PerLane α) (l : Lane) (v : α) : PerLane α :=
  match l with
  | .a => { p with a := v }
  | .b => { p with b := v }
  | .c => { p with c := v }

/-- The same value for every lane. -/
def PerLane.same {α : Type} (v : α) : PerLane α := ⟨v, v, v⟩

end Sys2Proof
end

