-- ==== Sys2Proof/Syntax.lean ====
section
/-!
DEFINITION. The commands of the device: one constructor of `Instr` for each row of the table of operations and events, with
the operands that come from outside the device (an address, a value, a received record), and the types of those operands.
-/
namespace Sys2Proof

/-- A point or displacement in whole units of the quantity's chapter. -/
structure V3 where
  x : Int := 0
  y : Int := 0
  z : Int := 0
  deriving DecidableEq, Repr

/-- A segment with a radius, whole millimetres (envelopes of R281, quantised capsules of R274). -/
structure CapsuleMm where
  p0 : V3 := {}
  p1 : V3 := {}
  r : Int := 0
  deriving DecidableEq, Repr

/-- Parameters of a safety input (Table 10-6, R314 to R317). `filtQ` is SI_FILT in 0.25 ms steps; `stopKind` 0 STO, 1 SS1,
2 SS2 as Table 12-3 codes it. -/
structure InputCfg where
  mode : Nat := 0
  func : Nat := 0
  stopKind : Nat := 1
  slsSel : Nat := 1
  mask : Nat := 0
  ackReq : Bool := true
  filtQ : Nat := 4
  discMs : Nat := 20
  deriving DecidableEq, Repr

/-- A pair of I/O node bits that serves as a safety input (R318). -/
structure NodePairCfg where
  node1 : Nat := 0
  bit1 : Nat := 0
  node2 : Nat := 0
  bit2 : Nat := 0
  input : InputCfg := {}
  deriving DecidableEq, Repr

/-- An analog safety input (Table 12-3). -/
structure AnalogCfg where
  used : Bool := false
  input : InputCfg := { mode := 3 }
  lo : Int := 0
  hi : Int := 0
  filt : Nat := 1
  deriving DecidableEq, Repr

/-- A brake channel: the unit it serves, if any (R137), the limits of Table 4-6 in mA, the times in ms and the scale of AINk
in uA per LSB (R139). -/
structure BrakeCfg where
  unit : Option Nat := none
  iMin : Int := 0
  iMax : Int := 0
  iOff : Int := 0
  relMs : Nat := 50
  setMs : Nat := 20
  scale : Int := 0
  deriving DecidableEq, Repr

/-- Group sense j: scale of AIN(16+j) in uA per LSB and BRK_SUM_TOL in mA (R139, R141). -/
structure SenseCfg where
  scale : Int := 0
  sumTol : Int := 0
  deriving DecidableEq, Repr

/-- An entry of the ring schedule (R188): J is `joints`, P_C is `pc`, P_S is `ps`, the start block of its window `w`. -/
structure SchedEntry where
  id : Nat := 0
  pos : Nat := 0
  vendor : Nat := 0
  product : Nat := 0
  serial : Nat := 0
  profile : Nat := 0
  joints : Nat := 0
  pc : Nat := 1
  ps : Nat := 1
  w : Nat := 2
  deriving DecidableEq, Repr

/-- A joint of an arm model (Table 7-8): DH parameters and scale as FP64 words. -/
structure ModelJoint where
  prismatic : Bool := false
  jointNo : Nat := 0
  a : BitVec 64 := 0
  alpha : BitVec 64 := 0
  dOff : BitVec 64 := 0
  theta : BitVec 64 := 0
  scale : BitVec 64 := 0
  vmax : BitVec 64 := 0
  amax : BitVec 64 := 0
  jmax : BitVec 64 := 0
  deriving DecidableEq, Repr

/-- An arm model (Table 7-8): base and tool as X, Y, Z and a rotation vector, FP64 words. -/
structure ArmModel where
  ikKind : Nat := 0
  base : List (BitVec 64) := []
  tool : List (BitVec 64) := []
  joints : List ModelJoint := []
  deriving DecidableEq, Repr

/-- A capsule entry (Table 9-1), endpoints and radius in um. `link` 255 is the arm base. -/
structure CapsuleCfg where
  arm : Nat := 0
  link : Nat := 0
  used : Bool := false
  inflMm : Nat := 0
  p0 : V3 := {}
  p1 : V3 := {}
  radiusUm : Nat := 0
  deriving DecidableEq, Repr

/-- A person and obstacle sensor (R275, R281, Table 9-5 sensor rows). -/
structure SensorCfg where
  node : Nat := 0
  slotBase : Nat := 0
  slotCnt : Nat := 1
  env : CapsuleMm := {}
  tSensMs : Nat := 0
  cMm : Nat := 0
  zD : Nat := 0
  volTol : Nat := 10
  volLmax : Nat := 2000
  deriving DecidableEq, Repr

/-- The parameters of an arm: stop, SLS, release and separation rows of Tables 10-6 and 9-5, and its envelope. -/
structure ArmCfg where
  rampT0Ms : Nat := 2
  stopTmaxMs : Nat := 1000
  stoDelayMs : Nat := 100
  brkRelMs : Nat := 50
  slsReactSto : Bool := false
  slsCapPct : Nat := 95
  sls : List (Nat × Nat) := []
  sepAuto : Bool := false
  aR : Nat := 0
  tsCMs : Nat := 0
  dS : Nat := 100
  zR : Nat := 0
  vArmMax : Nat := 1
  warnMm : Nat := 300
  hystMm : Nat := 50
  vRed : Nat := 250
  sepSs2 : Bool := false
  env : CapsuleMm := {}
  deriving DecidableEq, Repr

/-- The parameters of a joint (Tables 10-6 and 9-5), in counts. -/
structure JointCfg where
  vMax : Nat := 1
  vTol : Nat := 0
  vZero : Nat := 0
  dMon : Nat := 1
  sosWin : Nat := 0
  slpLo : Int := 0
  slpHi : Int := 0
  posTol : Nat := 0
  deriving DecidableEq, Repr

/-- A local axis entry (R307). -/
structure LocalCfg where
  configured : Bool := false
  stoNode : Nat := 1
  stoBit : Nat := 0
  ss1Ms : Nat := 500
  deriving DecidableEq, Repr

/-- A slot of a group section (Table 16-1). -/
structure GroupSlot where
  kind : Nat := 0
  eligible : Bool := false
  axsets : Nat := 0
  units : Nat := 0
  unitMask : Nat := 0
  ident : Nat := 0
  arms : Nat := 0
  joints : Nat := 0
  localAxes : Nat := 0
  ports : Nat := 0
  deriving DecidableEq, Repr

/-- A group section (Table 16-1); an unused section has group ID 0. -/
structure GroupSection where
  groupId : Nat := 0
  gcyc : Nat := 4
  lossCyc : Nat := 2
  period : Nat := 0
  groupAuto : Bool := false
  unitAddr : Nat := 0
  mac : Nat := 0
  slots : List GroupSlot := []
  deriving DecidableEq, Repr

/-- An entry of the agreement item table (R90, Table 10-5): the item's kind, the safe value of a binary item, the tolerance of a numeric
one and whether its restrictive direction is upward. -/
structure ItemCfg where
  numeric : Bool := false
  safe : Bool := false
  tol : Nat := 0
  upward : Bool := true
  deriving DecidableEq, Repr

/-- The parameters of a safety configuration image (Table 10-5): what its assigned fields say. Tables by index list only the
entries that differ from the entry an unlisted index has. Defaults are those of Tables 4-2, 9-5 and 10-6. -/
structure SafetyConfig where
  period : Nat := 0
  latch : Nat := 1000
  guardNs : Nat := 250
  degLimitMin : Nat := 60
  degSpeedPct : Nat := 100
  degRampMs : Nat := 500
  ptIntervalH : Nat := 8
  ptWarnMin : Nat := 15
  ptPulseFr : Nat := 8
  vHMin : Nat := 1600
  vObsMin : Nat := 0
  tolMm : Nat := 20
  ackMinMs : Nat := 100
  ackMaxMs : Nat := 2000
  spdWin : Nat := 8
  nStill : Nat := 16
  stoAckFr : Nat := 8
  inputs : List (Nat × InputCfg) := []
  nodePairs : List (Nat × NodePairCfg) := []
  analogs : List (Nat × AnalogCfg) := []
  brakes : List (Nat × BrakeCfg) := []
  senses : List (Nat × SenseCfg) := []
  schedule : List SchedEntry := []
  armModels : List (Nat × ArmModel) := []
  capsules : List (Nat × CapsuleCfg) := []
  sensors : List (Nat × SensorCfg) := []
  excluded : List (Nat × Nat) := []
  arms : List (Nat × ArmCfg) := []
  joints : List (Nat × JointCfg) := []
  locals : List (Nat × LocalCfg) := []
  adcTol : List (Nat × Nat) := []
  items : List (Nat × ItemCfg) := []
  adcCorr : List (Nat × Nat) := []
  groups : List (Nat × GroupSection) := []
  deriving DecidableEq, Repr

/-- A safety configuration image: its bytes that are not zero, and what its assigned fields say. -/
structure Image where
  bytes : List (Nat × Byte) := []
  params : SafetyConfig := {}
  deriving DecidableEq, Repr

/-- The masters of the register space (R449): host through BAR0 or BAR2, a Planner core, the debug port, a lane core. -/
inductive Master where
  | hostBar0
  | hostBar2
  | planner
  | debug
  | lane (l : Lane)
  deriving DecidableEq, Repr

/-- A frame record of the cross-lane exchange as received (Table 3-2), with its CRC and arrival judged by the receiver. `adc`
lists mean and maximum of AIN0 to AIN31 as signed codes, -32768 with -32768 being the invalid pair; `nodeSafety` lists the
payload bytes by schedule entry. -/
structure FrameRecord where
  laneId : Nat
  laneState : Nat
  seen : Nat
  flags : Nat
  frameNo : Nat
  digest : Nat
  fwVersion : Nat
  degRemain : Nat
  ch1 : Nat
  ch2 : Nat
  nodeValid : Nat
  decision : Nat
  arbState : Nat
  arbTest : Nat
  arbSuspect : Nat
  arbVerdict : Nat
  arbSig : BitVec 64
  adc : List (Int × Int)
  nodeSafety : List (Nat × List Byte)
  deriving DecidableEq, Repr

/-- A position record (Table 9-3): the joints with a valid position and their extended counts. -/
structure PositionRecord where
  laneId : Nat
  frameNo : Nat
  joints : List (Nat × Int)
  deriving DecidableEq, Repr

/-- One arm's result of a separation pass (R289). -/
structure ArmResult where
  dMin : Int := 0x7FFFFFFF
  sp : Nat := 0
  pair : Nat := 0xFFFF
  reaction : Nat := 0
  flags : Nat := 0
  deriving DecidableEq, Repr

/-- A result record (Table 3-3); the list holds the arms whose result is not that of an arm with no pair. -/
structure ResultRecord where
  laneId : Nat
  status : Nat
  frameNo : Nat
  passNo : Nat
  pairsDone : Nat
  arms : List (Nat × ArmResult)
  deriving DecidableEq, Repr

/-- Who writes toward a safety buffer (R26): the lane's own cores, or a shared block. -/
inductive BufferWriter where
  | lane
  | shared
  deriving DecidableEq, Repr

/-- How a record arrived (R86): whole and in time, with a wrong CRC, or after its deadline. -/
inductive Arrival where
  | good | badCrc | late
  deriving DecidableEq, Repr

/-- A firmware image: its version code, length, bytes that are not zero, and the public key and signature it carries (R502), whose place the
spec does not give. -/
structure FwImage where
  version : Nat
  len : Nat
  bytes : List (Nat × Byte) := []
  pubkey : BitVec 512 := 0
  signature : BitVec 512 := 0
  deriving DecidableEq, Repr

/-- A configuration package (Table 10-7). `zeros` is whether every byte the table marks zero is zero; MAGIC is read
little-endian, keys, hashes and the signature as numbers. -/
structure Package where
  magic : Nat := 0x50434D4E
  format : Nat := 1
  flags : Nat := 0
  serial : Nat := 0
  seq : Nat := 1
  fwMin : Nat := 0
  imageLen : Nat := 262144
  digest : Nat := 0
  imageHash : BitVec 256 := 0
  toolVer : Nat := 0
  pubkey : BitVec 512 := 0
  nextKeyHash : BitVec 256 := 0
  zeros : Bool := true
  image : Image := {}
  signature : BitVec 512 := 0
  deriving DecidableEq, Repr

/-- A block of an Entayr frame as received (R155, R156): its data bytes, its CRC field, whether a code group inside it was not data, and
how many code groups inside it were invalid or of wrong disparity (R175). -/
structure Block where
  data : List Byte
  crc : BitVec 16
  nonData : Bool := false
  codeErr : Nat := 0
  deriving DecidableEq, Repr

/-- A copy of a cycle or enumeration frame that returned: the port it arrived on, the time of its start-of-frame symbol after
launch and of its end block after the tick, ns, and its blocks. -/
structure ReturnedCopy where
  port : Fin 2
  afterLaunch : Nat
  endOffset : Nat
  blocks : List Block
  deriving DecidableEq, Repr

/-- What the supervisor measures each ms (R486, R497, R498): supply voltages in 10 mV, currents in mA, powers in mW, converter
outputs and the shared rail in mV, and the 16 temperatures in 1/8 degree C. -/
structure Measurement where
  vin : PerLane Nat := ⟨0, 0, 0⟩
  iin : PerLane Nat := ⟨0, 0, 0⟩
  pin : PerLane Nat := ⟨0, 0, 0⟩
  conv : PerLane Nat := ⟨0, 0, 0⟩
  railMv : Nat := 0
  railMa : Nat := 0
  powerMw : Nat := 0
  temps : List Int := []
  deriving DecidableEq, Repr

/-- A PTP clock as its Announce messages describe it: the attributes that the default best master clock algorithm of IEEE 1588-2019
compares, and whether its timescale is arbitrary (R62, R63). -/
structure PtpClock where
  prio1 : Nat := 128
  cls : Nat := 248
  accuracy : Nat := 0xFE
  variance : Nat := 0xFFFF
  prio2 : Nat := 128
  identity : Nat := 0
  steps : Nat := 0
  arbitrary : Bool := false
  deriving DecidableEq, Repr

/-- What a debug response or a debug entry is for (R503): the port, or a lane. -/
inductive DebugScope where
  | port
  | lane (l : Lane)
  deriving DecidableEq, Repr

/-- One sample of a converter: the signed 16-bit code before correction, and whether the converter flags its input as beyond range.
For AIN31 the code is the one after its fixed factory correction (R372). -/
structure Sample where
  raw : Int
  beyond : Bool := false
  deriving DecidableEq, Repr

/-- The count of a REP (Table 12-4): N at [11:0], or a data register. -/
inductive RepCount where
  | imm (n : BitVec 12)
  | reg (dm : BitVec 3)
  deriving DecidableEq, Repr

/-- The instructions of a signal processor (Table 12-4). `s` is the saturation bit, `a` the accumulator, `xa`, `ya` and `ad` address
fields (`ad` stands in the X or the Y field by `ms`), `dd` and `dm` data registers, `rnd` the rounding bit. -/
inductive SmyInstr where
  | nop
  | mac (s a : Bool) (xa ya : BitVec 5)
  | msu (s a : Bool) (xa ya : BitVec 5)
  | mpy (s a : Bool) (xa ya : BitVec 5)
  | macd (s a : Bool) (xa : BitVec 5) (dm : BitVec 3)
  | lda (a ms : Bool) (ad : BitVec 5)
  | ada (s a ms : Bool) (ad : BitVec 5)
  | sta (s a ms rnd : Bool) (ad : BitVec 5)
  | ldd (dd : BitVec 3) (ms : Bool) (ad : BitVec 5)
  | std (dd : BitVec 3) (ms : Bool) (ad : BitVec 5)
  | ldi (dd : BitVec 3) (imm : BitVec 16)
  | sha (s a : Bool) (sh : BitVec 6)
  | mvad (s a : Bool) (dd : BitVec 3) (rnd : Bool)
  | adda (s a sub : Bool)
  | clra (a : Bool)
  | mvs (dd : BitVec 3) (sel : BitVec 2)
  | srch (ms : Bool) (ad : BitVec 5)
  | srcl
  | rep (c : RepCount)
  | jmp (addr : BitVec 12)
  | br (a : Bool) (cond : BitVec 2) (addr : BitVec 12)
  | djnz (dd : BitVec 3) (addr : BitVec 12)
  | ldp (tgt : BitVec 4) (imm : BitVec 12)
  | in (a clr : Bool) (port : BitVec 10)
  | out (s a src : Bool) (dd : BitVec 3) (k : BitVec 5)
  | trig (t : Bool)
  | sig (imm : BitVec 16)
  | halt
  deriving DecidableEq, Repr

/-- Where a work item comes from (R400). -/
inductive RveSource where
  | lane (l : Lane)
  | host
  | eth (port : Fin 2)
  | core (c : Fin 4)
  | delay
  deriving DecidableEq, Repr

/-- The completion target of an item (R416). -/
inductive RveTarget where
  | nothing
  | host
  | core (c : Fin 4)
  deriving DecidableEq, Repr

/-- What ENQUEUE is given (Table 13-3): task, flow, 16-byte payload, tag and completion target (R416). -/
structure RveRequest where
  task : Fin 256
  flow : Option (Fin 64) := none
  payload : BitVec 128 := 0
  tag : BitVec 32 := 0
  target : RveTarget := .nothing
  deriving DecidableEq, Repr

/-- The time of a SLEEP (Table 13-3): a number of frames, or an absolute frame. -/
inductive SleepArg where
  | frames (n : Nat)
  | until (f : BitVec 32)
  deriving DecidableEq, Repr

/-- A steward or member frame as it arrives (R466, R467, Table 16-2): LEVEL, SLOT and FLAGS of the sender, GROUP_ID, FRAME_NO, GSTATE,
PRESENT, QUAR, byte 0x0F, T_PREV, the digests for Lanes A, B and C, FW_VERSION, T_RX[0..7], and the length of the payload. -/
structure GroupFrame where
  level : Nat := 0
  slot : Nat := 0
  flags : Nat := 0
  groupId : Nat := 0
  frameNo : Nat := 0
  gstate : Nat := 0
  present : Nat := 0
  quar : Nat := 0
  deputySlot : Nat := 0
  tPrev : Int := 0
  digest : List Nat := []
  fw : Nat := 0
  tRx : List Int := []
  length : Nat := 128
  deriving DecidableEq, Repr

/-- A command or completion frame as it arrives (R467, R482): the sender's LEVEL and SLOT, GROUP_ID, the forwarding tag and the entry. -/
structure GroupEntry where
  level : Nat := 0
  slot : Nat := 0
  groupId : Nat := 0
  tag : Word32 := 0
  entry : List Byte := []
  length : Nat := 128
  deriving DecidableEq, Repr

/-- The commands: rows of the table of operations and events, in the table's order. -/
inductive Instr where
  /-- REGISTER_WRITE (R13). A write to a register field that has no row of its own, judged by access code, change class, BUSY and lock rules. -/
  | registerWrite (m : Master) (addr width value : Nat)
  /-- READ_CLEAR (R459). A read of a word clears those RC fields that it returned as non-zero. -/
  | readClear (m : Master) (addr width : Nat)
  /-- TIME_NS_READ (R51). A read of BLF_TIME_NS returns device time and copies BLF_FRAME_NO into BLF_FRAME_SNAP in the same clock. -/
  | timeNsRead (m : Master)
  /-- POSTED_WRITE_COMPLETE (R451). A posted write completes in its block's clock domain and clears the block's BUSY bit. -/
  | postedWriteComplete (b : Fin 45)
  /-- COMMIT_GO (R452). A write of SYS_COMMIT.GO requests arming of the pending set and opens a new pending set. -/
  | commitGo (m : Master)
  /-- COMMIT_ARM (R452). The requested set arms once every preceding Committed write has completed, choosing its application tick and LATE. -/
  | commitArm
  /-- COMMIT_APPLY (R454). At its tick the armed set is checked and applied by every block in one clock, and SYS_COMMIT_FRAME and COUNT update. -/
  | commitApply
  /-- COMMIT_ABORT (R453). A write of SYS_COMMIT.ABORT discards the pending set. -/
  | commitAbort (m : Master)
  /-- PAIR_FIRST_WORD_WRITE (R457). A write to the first word of a paired field is held in the pair's holding register. -/
  | pairFirstWordWrite (m : Master) (p : Fin 144) (value : Word32)
  /-- PAIR_COMPLETING_WRITE (R457). A write to the completing word checks the pair and applies both words together or refuses them. -/
  | pairCompletingWrite (m : Master) (p : Fin 144) (value : Word32)
  /-- LOCK_WRITE (R458). A write of SYS_LOCK.LOCK sets the lock that closes the SYS_ WL fields until reset. -/
  | lockWrite (m : Master) (value : Bool)
  /-- ADC_REF_EN_WRITE (R374). A write of ADC_REF.EN switches the reference buffer on once and is write-once thereafter. -/
  | adcRefEnWrite (m : Master) (value : Bool)
  /-- ALIAS_READ (R460). A read through the BAR2 bit-alias window returns one bit and clears it if it is an RC bit. -/
  | aliasRead (m : Master) (offset width : Nat)
  /-- ALIAS_WRITE (R460). A write through the BAR2 bit-alias window writes or triggers one bit and is judged as a write of its block. -/
  | aliasWrite (m : Master) (offset width value : Nat)
  /-- REGDIG_GO (R462). A write of SYS_REGDIG_CTRL.GO starts a register set-up check. -/
  | regdigGo (m : Master)
  /-- REGDIG_SNAPSHOT (R462). At the next tick after GO the register values are snapshotted for the CRC-64. -/
  | regdigSnapshot
  /-- REGDIG_DONE (R462). The CRC-64 over the snapshot completes, is stored in SYS_REGDIG and DONE sets. -/
  | regdigDone
  /-- DBG_WINDOW_ACCESS (R329). An access to SAF_DBG_DATA reads or writes a word of one lane's image and advances the address. -/
  | dbgWindowAccess (m : Master) (write : Bool) (value : Word32)
  /-- FRAME_TICK (R49). The frame tick increments BLF_FRAME_NO, ticks delay lists, snapshots safety inputs and closes ADC frame results. -/
  | frameTick (contacts : PerLane (Nat × Nat))
  /-- TICK_LOST (R39). A lane that sees no tick within 1.5 T_F enters its safe state at once. -/
  | tickLost (miss : PerLane Bool)
  /-- PERIOD_CHANGE (R48). A new frame period ends the cycles, restarts the tick grid and rings at the new period and writes EV_PERIOD_CHANGED. -/
  | periodChange (contacts : PerLane (Nat × Nat))
  /-- LATCH_INSTANT (R55). At the common latch instant the local ports latch outputs and sample inputs, and step ports compute their frame's steps. -/
  | latchInstant
  /-- OFFSET_MEASUREMENT (R59). A new offset from the time source is acquired, stepped, servoed, confirmed or discarded by the discipline state. -/
  | offsetMeasurement
  /-- SLEW_END (R60). The slew term returns to zero after working off the confirmed offset and the time base returns to LOCKED. -/
  | slewEnd
  /-- SOURCE_LOSS_TIMEOUT (R57). No valid offset for the loss interval puts the time base into HOLDOVER. -/
  | sourceLossTimeout
  /-- ACQUIRE_GO (R61). A write of BLF_ACQUIRE.GO restarts acquisition. -/
  | acquireGo (m : Master)
  /-- PTP_SYNC_RECEIVED (R62). A received PTP Sync is time-stamped, or discarded and counted if one-step. -/
  | ptpSyncReceived (port : Fin 2) (twoStep : Bool) (domain seq : Nat) (c : PtpClock)
  /-- PTP_FOLLOW_UP_RECEIVED (R62). A received Follow_Up completes a two-step Sync toward an offset. -/
  | ptpFollowUpReceived (port : Fin 2) (domain seq : Nat) (origin : Int)
  /-- PTP_DELAY_RESP_RECEIVED (R62). A received Delay_Resp or Pdelay response completes a delay measurement. -/
  | ptpDelayRespReceived (port : Fin 2) (domain seq : Nat) (receive transmit : Int)
  /-- PTP_DELAY_REQ_RECEIVED (R63). A received delay request is answered by a port acting as master. -/
  | ptpDelayReqReceived (port : Fin 2) (domain seq : Nat)
  /-- PTP_SYNC_TRANSMIT (R63). At each sync interval a master port sends Sync and Follow_Up. -/
  | ptpSyncTransmit (port : Fin 2)
  /-- TT_PULSE_START (R69). A time-triggered output starts its pulse at its programmed device time. -/
  | ttPulseStart (k : Fin 8)
  /-- TT_PULSE_END (R69). A time-triggered output ends its pulse after WIDTH. -/
  | ttPulseEnd (k : Fin 8)
  /-- CLOSE_PHASE (R258). The loop engines update observers and compute each joint's output from the returned feedback. -/
  | closePhase (late : List (Fin 148))
  /-- CLOSE_WINDOW_END (R262). At 2.0 µs any slot without its output misses the frame and repeats its previous output. -/
  | closeWindowEnd
  /-- MARSHALLING (R53). Outputs are delta-coded into the motion buffers and step targets loaded into the step ports. -/
  | marshalling
  /-- PREPARE_PHASE (R247). Each slot evaluates the trajectory store for frame n+2, fetches gains and writes its checkpoint. -/
  | preparePhase (late : List (Fin 148))
  /-- PREPARE_WINDOW_END (R262). A prepare phase unfinished at its window end makes the following close phase a miss. -/
  | prepareWindowEnd
  /-- STORE_DRAIN (R231). A moving axis set reaching the end of its last segment without LAST is stopped by the drain stop. -/
  | storeDrain (a : Fin 36)
  /-- SPARE_KAT (R246). A spare engine runs its known-answer test in the prepare window of every frame. -/
  | spareKat (p : Fin 18) (pass : Bool)
  /-- ENGINE_FAULT (R264). An uncorrectable local memory error, a missed window or a failed test faults a physical engine. -/
  | engineFault (p : Fin 18) (kat : Bool)
  /-- ENGINE_MIGRATION (R266). A healthy spare takes the faulted engine's logical engine from its checkpoint at the next prepare phase. -/
  | engineMigration (e : Fin 16) (bad : Bool)
  /-- TELEMETRY_RECORD (R271). Every 8 frames a telemetry record is written to host memory or dropped when the ring is full. -/
  | telemetryRecord
  /-- GAIN_TABLE_WRITE (R257). A write of MIL_TBL_G stores a point of the bank not in force and advances POINT. -/
  | gainTableWrite (m : Master) (v : Word32)
  /-- CYCLE_LAUNCH (R158). At 3.2 µs each ring MAC launches the cycle frame, or start frame, on both ports, followed by a directory frame. -/
  | cycleLaunch
  /-- CYCLE_RETURN (R170). A returning copy of the cycle is classified and its node inputs, timing reports and claims taken. -/
  | cycleReturn (l : Lane) (c : ReturnedCopy)
  /-- CYCLE_COMPLETION_LIMIT (R170). At T_F − 6.5 µs copies not returned are late and missing node data clear NODE_VALID. -/
  | cycleCompletionLimit
  /-- LATE_COPY_RECEIVED (R177). A copy arriving after its limit is discarded and counted as LATE. -/
  | lateCopyReceived (l : Lane) (port : Fin 2)
  /-- ENT_PORT_DOWN (R152). A ring port losing sync or receiving link-fail goes down and sends link-fail. -/
  | entPortDown (l : Lane) (q : Fin 2)
  /-- ENT_PORT_UP (R152). A ring port in sync for 1 ms without link-fail comes back up. -/
  | entPortUp (l : Lane) (q : Fin 2)
  /-- BYPASS_OPEN (R153). The bypass switch opens after the lane leaves reset and its transmitters have sent idle for 100 µs. -/
  | bypassOpen (l : Lane)
  /-- START_SEQUENCE (R184). The device starts a ring with start frames in 4 consecutive frames. -/
  | startSequence (l : Lane)
  /-- FOREIGN_FRAME_RECEIVED (R183). A frame from another master on a device-mastered ring is discarded and counted. -/
  | foreignFrameReceived (l : Lane) (masterId : Fin 256)
  /-- ENUMERATION_RETURN (R187). Returning enumeration copies are compared until stable and classified against the schedule. -/
  | enumerationReturn (l : Lane) (c : ReturnedCopy)
  /-- ENUM_RETRY (R187). After an unstable enumeration the device repeats enumeration 1 s later. -/
  | enumRetry (l : Lane)
  /-- FRAME_RECORD_SEND (R84). Each lane reads the ADC snapshot and sends its frame record to the other lanes. -/
  | frameRecordSend (l : Lane) (bent : PerLane (Option (BitVec 2)))
  /-- FRAME_RECORD_RECEIVED (R86). A received frame record is validated or discarded and counted. -/
  | frameRecordReceived (rx tx : Lane) (a : Arrival) (r : FrameRecord)
  /-- POSITION_RECORD_SEND (R278). Each lane sends its position record of extended joint counts. -/
  | positionRecordSend (l : Lane)
  /-- POSITION_RECORD_RECEIVED (R278). A received position record is validated for agreement of joint positions. -/
  | positionRecordReceived (rx tx : Lane) (a : Arrival) (r : PositionRecord)
  /-- RESULT_RECORD_RECEIVED (R94). A received separation result record is validated for the vote. -/
  | resultRecordReceived (rx tx : Lane) (a : Arrival) (r : ResultRecord)
  /-- BULK_BLOCK_RECEIVED (R89). A 4 KiB bulk block for reload or resynchronisation arrives with its CRC. -/
  | bulkBlockReceived (x : Lane) (good : Bool)
  /-- AGREE_VALUES (R90). At 2.5 µs each lane computes agreed values from the valid records it holds. -/
  | agreeValues (l : Lane)
  /-- LANE_EVALUATION (R93). Each lane runs the safety functions, checks and votes on the agreed values and acts through its own outputs. -/
  | laneEvaluation (l : Lane)
  /-- EVALUATION_WINDOW_END (R119). An evaluation unfinished at its window end is an overrun and the safety buffer repeats. -/
  | evaluationWindowEnd (l : Lane)
  /-- SAFETY_BUFFER_LOAD (R73). Each lane loads its safety buffer for the next cycle. -/
  | safetyBufferLoad (l : Lane) (w : BufferWriter)
  /-- LOCKSTEP_MISMATCH (R77). A comparator mismatch or code fault sets the lane's fault latch. -/
  | lockstepMismatch (l : Lane)
  /-- FAULT_LATCH_TIMEOUT (R79). After 10 ms with its fault latch set, the lane resets itself. -/
  | faultLatchTimeout (l : Lane)
  /-- MEM_UE (R74). An uncorrectable lane memory error sets MEM_UE and the fault latch. -/
  | memUe (l : Lane)
  /-- MEMORY_SCRUB (R74). The lane memory is scrubbed in the background once every 10 s. -/
  | memoryScrub (l : Lane) (corrected : Nat) (uncorrectable : Bool)
  /-- CMP_TEST (R81). In a lane's test frame one comparator group is tested by injected inversion. -/
  | cmpTest (l : Lane) (ok : Bool)
  /-- DIGEST_PASS (R102). The digest engine completes its CRC-64 pass over the configuration image. -/
  | digestPass (l : Lane)
  /-- ARB_START (R96). An arbitration starts, removes suspects from voting and runs the known-answer test. -/
  | arbStart (sigs : PerLane (BitVec 64))
  /-- ARB_JUDGE (R96). In frame a+1 each lane judges the other lanes' signatures. -/
  | arbJudge (l : Lane)
  /-- ARB_OUTCOME (R97). In frame a+2 each lane applies the arbitration outcome to the verdicts it holds. -/
  | arbOutcome
  /-- RELOAD_CHUNK_SEND (R106). The donor sends one 32 KiB image chunk to a lane in RELOAD. -/
  | reloadChunkSend (x : Lane)
  /-- RELOAD_VERIFY (R106). The reloading lane computes the staging digest and accepts or repeats the reload. -/
  | reloadVerify (x : Lane)
  /-- IMAGE_SWITCH (R105). Lanes switch to a staged image at an agreed monitor-frame boundary. -/
  | imageSwitch
  /-- RESYNC_SNAPSHOT (R107). At a monitor-frame boundary the donor snapshots its dynamic safety state for a rejoining lane. -/
  | resyncSnapshot (x : Lane)
  /-- SNAPSHOT_LOAD (R107). The rejoining lane loads the snapshot, brings it forward and enters SHADOW. -/
  | snapshotLoad (x : Lane)
  /-- LANE_REJOIN (R107). After 16 matching frames the lane enters IN_SERVICE at the next monitor-frame boundary. -/
  | laneRejoin (x : Lane)
  /-- DEBUG_ENTER (R110). Debug entry on a lane breaks lockstep and removes it from voting. -/
  | debugEnter (l : Lane)
  /-- DEG_TIMER_EXPIRED (R124). The degraded-mode timer reaching zero performs SS1, SBC and Safe state. -/
  | degTimerExpired
  /-- DEG_TIMER_STOP (R109). After 10 min of healthy three-lane service the degraded-mode timer stops. -/
  | degTimerStop
  /-- TIGHTENING_RAMP_END (R126). An SLS limit ramp reaches its target after DEG_RAMP_MS. -/
  | tighteningRampEnd
  /-- SEP_PASS_START (R285). A separation pass starts placing capsules, combining volumes and checking envelopes. -/
  | sepPassStart (l : Lane)
  /-- SEP_PASS_END (R285). At 4.0 µs of frame 2k+2 the lane sends its result record, complete or overrun. -/
  | sepPassEnd (l : Lane) (complete : Bool) (done : Nat)
  /-- SI_FILTERED_CHANGE (R315). A contact steady for SI_FILT takes its new filtered value. -/
  | siFilteredChange (i : Fin 24)
  /-- SI_DISCREPANCY (R316). A pair mixed for SI_DISC latches DISC and holds the input active. -/
  | siDiscrepancy (i : Fin 32)
  /-- ACK_PULSE (R313). The return of an ACK pulse within its window acknowledges the units whose demands may end. -/
  | ackPulse (i : Fin 32)
  /-- STANDSTILL_REACHED (R302). All joints below V_ZERO for N_STILL frames end SS1 or SS2 in STO or SOS. -/
  | standstillReached (u : Fin 16)
  /-- STOP_TIME_LIMIT (R302). STOP_TMAX passing without standstill ends SS1 or SS2 in STO. -/
  | stopTimeLimit (u : Fin 16)
  /-- STO_DELAY_EXPIRED (R300). After STO_DELAY_MS in SOS the lanes demand STO. -/
  | stoDelayExpired (u : Fin 16)
  /-- BRAKE_RELEASE_DELAY (R311). After BRK_REL_MS the lanes energise the gate lines and clear brake-set. -/
  | brakeReleaseDelay (u : Fin 32)
  /-- LOCAL_SS1_TIMEOUT (R307). LX_SS1_MS after a local axis SS1 the lanes demand STO. -/
  | localSs1Timeout (k : Fin 16)
  /-- DRIVE_STO_ACK_TIMEOUT (R310). STO_ACK_FR frames without STO engaged end the drive status check. -/
  | driveStoAckTimeout (u : Fin 16)
  /-- PT_LIGHT_TEST_START (R143). A set channel whose light age has run out starts its light test. -/
  | ptLightTestStart (k : Fin 16)
  /-- PT_DARK_TEST_START (R144). A released channel under the stated conditions starts its dark test. -/
  | ptDarkTestStart (k : Fin 16)
  /-- PT_STEP_START (R142). A proof-test step begins at a tick with one lane changing its gate line alone. -/
  | ptStepStart (k : Fin 16)
  /-- PT_STEP_END (R142). A proof-test step ends after PT_PULSE_FR frames and its gap follows. -/
  | ptStepEnd (k : Fin 16)
  /-- PT_DUE (R144). A channel's test age reaching PT_INTERVAL_H − PT_WARN_MIN sets PT_DUE. -/
  | ptDue (k : Fin 16)
  /-- PT_INTERVAL_EXPIRED (R146). A released channel reaching PT_INTERVAL_H stops its arm with SS1 under cause 0x10. -/
  | ptIntervalExpired (k : Fin 16)
  /-- PKG_CHECK_DONE (R326). The lanes finish checking a downloaded package and report its result. -/
  | pkgCheckDone
  /-- PACKAGE_APPLY (R327). An accepted package is applied once every unit is disabled and two lanes are in service. -/
  | packageApply
  /-- IMAGE_VERIFY_DONE (R41). A lane completes verification of both firmware images and configuration slots. -/
  | imageVerifyDone (l : Lane)
  /-- BOOT_TIMEOUT (R41). A lane not done verifying within 2 s counts as finding no valid image and Boot ends. -/
  | bootTimeout
  /-- SELFTEST_DONE (R512). A lane passes SELFTEST and leaves it. -/
  | selftestDone (l : Lane)
  /-- SELFTEST_TIMEOUT (R512). A lane not passing SELFTEST within 20 ms sets its fault latch. -/
  | selftestTimeout (l : Lane)
  /-- SUPERVISOR_POWER_ON (R489). Any VIN_x reaching 18 V starts the supervisor with every block in reset. -/
  | supervisorPowerOn (present : PerLane Bool)
  /-- CONVERTER_START (R488). VIN_x above 31.5 V for 1 ms starts converter x. -/
  | converterStart (l : Lane)
  /-- CONVERTER_REGULATION (R488). Converter x reaches regulation. -/
  | converterRegulation (l : Lane)
  /-- CONVERTER_STOP (R490). VIN_x below 26.0 V stops converter x, and the last stop resets the device. -/
  | converterStop (l : Lane)
  /-- CONV_FAULT (R488). A converter output out of tolerance for 10 µs stops it and holds its lane in reset. -/
  | convFault (l : Lane)
  /-- DEVICE_RESET_RELEASE (R489). The shared blocks leave reset and frame ticks begin. -/
  | deviceResetRelease
  /-- LANE_RESET_RELEASE (R489). Lane x leaves reset and enters BOOT. -/
  | laneResetRelease (l : Lane)
  /-- SUPPLY_WARN (R128). VIN_x below 33.5 V sets SUPPLY_WARN in lane x's records. -/
  | supplyWarn (l : Lane)
  /-- SUPPLY_OK (R128). VIN_x rising above 34.5 V clears SUPPLY_WARN. -/
  | supplyOk (l : Lane)
  /-- SUPPLY_RESET (R490). VIN_x below 30.5 V resets lane x within 10 µs. -/
  | supplyReset (l : Lane)
  /-- SUPPLY_RESET_RELEASE (R491). VIN_x rising above 31.5 V releases lane x's supply reset. -/
  | supplyResetRelease (l : Lane)
  /-- RESET_N_ASSERT (R492). RESET_N held low for 10 µs resets the device. -/
  | resetNAssert
  /-- TRST_N_ASSERT (R492). TRST_N resets only the test access port. -/
  | trstNAssert
  /-- CLK_FAULT (R496). A clock input leaving its window or a PLL losing lock resets its scope. -/
  | clkFault (k : Fin 13) (input : Bool)
  /-- CLK_OK (R496). A clock back in its window and locked for 1 ms releases its reset. -/
  | clkOk (k : Fin 13)
  /-- TEMP_WARN (R499). A sensor at WARN_C sets TEMP_WARN. -/
  | tempWarn (t : Fin 16)
  /-- TEMP_LIMIT (R499). A sensor at 135 °C resets its lane or the shared blocks until 125 °C. -/
  | tempLimit (t : Fin 16)
  /-- SUPERVISOR_MEASUREMENT (R486). Every 1 ms the supervisor updates supply, power and temperature readings. -/
  | supervisorMeasurement (m : Measurement)
  /-- CLR_LOG (R493). A write of PWR_CTRL.CLR_LOG clears the reset history. -/
  | clrLog (m : Master)
  /-- CHALLENGE (R503). The TAP instruction CHALLENGE returns the serial number and a fresh nonce. -/
  | challenge
  /-- RESPONSE (R503). The TAP instruction RESPONSE unlocks the port or a lane, or counts a failure toward lockout. -/
  | response (sc : DebugScope) (value : BitVec 128) (late : Bool)
  /-- IDCODE (R503). The TAP instruction IDCODE returns the device identification code. -/
  | idcode
  /-- BYPASS (R503). The TAP instruction BYPASS selects the bypass register. -/
  | bypass
  /-- FB_EDGE (R334). An accepted edge on a feedback line is stamped, counted, checked for index or tooth reference and repeated. -/
  | fbEdge (k : Fin 16) (a b z : Bool) (stamp : Int)
  /-- FB_OBSERVER_STEP (R348). Every observer step an incremental port updates its observer and edge-interval velocity. -/
  | fbObserverStep (k : Fin 16) (i : Fin 320)
  /-- SSI_TRANSFER_DONE (R343). An SSI transfer started at the latch completes and its word is checked and extended. -/
  | ssiTransferDone (k : Fin 16) (idleHigh : Bool) (w1 : Nat) (sep : Bool) (w2 : Nat)
  /-- BISS_CYCLE_DONE (R344). A BiSS-C cycle started at the latch completes with CRC, error and warning checks. -/
  | bissCycleDone (k : Fin 16) (start : Bool) (delayNs pos : Nat) (nE nW : Bool) (crc : Nat)
  /-- FB_CLR (R351). A write of FBK_k_CTRL.CLR clears CHAN_FAULT at the next latch if no recent error. -/
  | fbClr (m : Master) (k : Fin 16)
  /-- FB_PRESET (R353). A write of FBK_k_CTRL.PRESET loads the preset into y at the next latch, or is refused. -/
  | fbPreset (m : Master) (k : Fin 16)
  /-- STEP_PULSE (R355). A step/pulse port emits a scheduled step edge. -/
  | stepPulse (k : Fin 16)
  /-- STEP_STANDBY (R358). After IDLE_MS without a step the port applies its standby lines. -/
  | stepStandby (k : Fin 16)
  /-- STP_RUN_SET (R356). Setting STP_k_CTRL.RUN starts the port, or is refused with SP_CFG_REJECT. -/
  | stpRunSet (m : Master) (k : Fin 16) (v : Bool)
  /-- REARM (R363). A write of STP_k_CTRL.REARM clears HELD at the next latch and rebases. -/
  | rearm (m : Master) (k : Fin 16)
  /-- REP_OUTPUT (R365). A queued repetition count is issued at the step port once spacing allows. -/
  | repOutput (k : Fin 16)
  /-- ADC_REF_READY (R374). 200 µs after EN the reference is ready and the monitor scan starts at the next tick. -/
  | adcRefReady
  /-- MONITOR_ROUND (R375). A monitor scan round converts the check channel and the monitor inputs and judges the check. -/
  | monitorRound (s0 s1 : List Sample)
  /-- ADC_SEQ_GO (R383). A write of ADC_SEQ_CTRL.GO triggers the user sequence. -/
  | adcSeqGo (m : Master)
  /-- ADC_SEQ_TRIGGER (R384). A trigger from the selected source starts, queues or is dropped for the user sequence. -/
  | adcSeqTrigger
  /-- ADC_SEQ_ENABLE (R382). Setting ADC_SEQ_CTRL.EN enables the sequence or is refused with SEQ_CFG_REJECT. -/
  | adcSeqEnable (m : Master) (v : Bool)
  /-- ADC_ENTRY_END (R385). A user sequence entry ends and its samples enter the user accumulator in one clock. -/
  | adcEntryEnd (v : Fin 2) (samples : List Sample)
  /-- ADC_SEQ_END (R382). The user sequence ends, SEQ_ACTIVE clears and the sequence-end trigger fires. -/
  | adcSeqEnd
  /-- ADC_UA_SUM_READ (R385). A read of ADC_UAu_SUM copies COUNT, MIN, MAX and FULL in the same clock. -/
  | adcUaSumRead (m : Master) (u : Fin 32)
  /-- ADC_UA_CLR (R385). A write of ADC_UAu_CLR clears the user accumulator. -/
  | adcUaClr (m : Master) (u : Fin 32)
  /-- SMY_RUN_START (R395). A trigger starts a signal processor run at ENTRY, or is queued or dropped. -/
  | smyRunStart (n : Fin 2)
  /-- SMY_START (R395). A write of SMY_n_CTRL.START triggers a run. -/
  | smyStart (m : Master) (n : Fin 2)
  /-- SMY_HALT_REQ (R396). A write of SMY_n_CTRL.HALT_REQ ends the run at the next instruction boundary without publishing. -/
  | smyHaltReq (m : Master) (n : Fin 2)
  /-- SMY_BUDGET_EXCEEDED (R395). A run exceeding its budget ends without publishing. -/
  | smyBudgetExceeded (n : Fin 2)
  /-- SMY_PORT_ACCESS (R396). An access to SMY_n_PDATA or SMY_n_DDATA reads or writes a memory word and advances the address. -/
  | smyPortAccess (m : Master) (n : Fin 2) (data : Bool) (write : Option Word32)
  /-- NOP (R390). Does nothing. -/
  | nop (n : Fin 2)
  /-- MAC (R390). Adds the product of an X and a Y word to an accumulator. -/
  | mac (n : Fin 2) (sb a : Bool) (xa ya : BitVec 5)
  /-- MSU (R390). Subtracts the product of an X and a Y word from an accumulator. -/
  | msu (n : Fin 2) (sb a : Bool) (xa ya : BitVec 5)
  /-- MPY (R390). Loads an accumulator with the product of an X and a Y word. -/
  | mpy (n : Fin 2) (sb a : Bool) (xa ya : BitVec 5)
  /-- MACD (R390). Adds the product of a data register and an X word to an accumulator. -/
  | macd (n : Fin 2) (sb a : Bool) (xa : BitVec 5) (dm : BitVec 3)
  /-- LDA (R390). Loads an accumulator from memory into its high word. -/
  | lda (n : Fin 2) (a ms : Bool) (ad : BitVec 5)
  /-- ADA (R390). Adds a memory word into an accumulator's high word. -/
  | ada (n : Fin 2) (sb a ms : Bool) (ad : BitVec 5)
  /-- STA (R388). Stores an accumulator's high word to memory with optional rounding and saturation. -/
  | sta (n : Fin 2) (sb a ms rnd : Bool) (ad : BitVec 5)
  /-- LDD (R390). Loads a data register from memory. -/
  | ldd (n : Fin 2) (dd : BitVec 3) (ms : Bool) (ad : BitVec 5)
  /-- STD (R390). Stores a data register to memory. -/
  | std (n : Fin 2) (dd : BitVec 3) (ms : Bool) (ad : BitVec 5)
  /-- LDI (R390). Loads a data register with an immediate value. -/
  | ldi (n : Fin 2) (dd : BitVec 3) (imm : BitVec 16)
  /-- SHA (R390). Shifts an accumulator arithmetically. -/
  | sha (n : Fin 2) (sb a : Bool) (sh : BitVec 6)
  /-- MVAD (R388). Moves an accumulator's high word to a data register. -/
  | mvad (n : Fin 2) (sb a : Bool) (dd : BitVec 3) (rnd : Bool)
  /-- ADDA (R390). Adds or subtracts the other accumulator. -/
  | adda (n : Fin 2) (sb a sub : Bool)
  /-- CLRA (R390). Clears an accumulator. -/
  | clra (n : Fin 2) (a : Bool)
  /-- MVS (R390). Moves a search register to a data register. -/
  | mvs (n : Fin 2) (dd : BitVec 3) (sel : BitVec 2)
  /-- SRCH (R392). Performs one search step against MAXV and MINV and increments IC. -/
  | srch (n : Fin 2) (ms : Bool) (ad : BitVec 5)
  /-- SRCL (R390). Clears the search registers and IC. -/
  | srcl (n : Fin 2)
  /-- REP (R391). Repeats the next instruction without interruption. -/
  | rep (n : Fin 2) (r : RepCount)
  /-- JMP (R390). Jumps to an address. -/
  | jmp (n : Fin 2) (addr : BitVec 12)
  /-- BR (R390). Branches on an accumulator or SV condition. -/
  | br (n : Fin 2) (a : Bool) (cond : BitVec 2) (addr : BitVec 12)
  /-- DJNZ (R390). Decrements a data register and branches if it is not zero. -/
  | djnz (n : Fin 2) (dd : BitVec 3) (addr : BitVec 12)
  /-- LDP (R389). Loads an address generator register. -/
  | ldp (n : Fin 2) (tgt : BitVec 4) (imm : BitVec 12)
  /-- IN (R393). Reads an input word, optionally clearing a user accumulator. -/
  | smyIn (n : Fin 2) (a clr : Bool) (port : BitVec 10)
  /-- OUT (R394). Writes an output word of the working set. -/
  | smyOut (n : Fin 2) (sb a src : Bool) (dd : BitVec 3) (k : BitVec 5)
  /-- TRIG (R390). Triggers the ADC user sequence or the other core. -/
  | trig (n : Fin 2) (t : Bool)
  /-- SIG (R395). Signals the host with EV_SMY_SIGNAL, once per run. -/
  | sig (n : Fin 2) (imm : BitVec 16)
  /-- HALT (R394). Ends the run and publishes the output words. -/
  | halt (n : Fin 2)
  /-- ILLEGAL_INSTRUCTION (R396). An illegal instruction ends the run without publishing and records PC. -/
  | illegalInstruction (n : Fin 2)
  /-- TAKE (R407). A core starts the highest-priority slot or receives EMPTY. -/
  | take (c : Fin 4)
  /-- DONE (R404). A core ends its run and completes the running item. -/
  | done (c : Fin 4) (success : Bool) (result : BitVec 32)
  /-- YIELD (R404). A core ends its run and the task returns to the tail of its ready list. -/
  | yield (c : Fin 4)
  /-- WAIT (R403). A THREAD waits for an item or signal, or returns at once. -/
  | wait (c : Fin 4) (timeout : BitVec 16)
  /-- SLEEP (R412). A THREAD enters the sleep list until a frame. -/
  | sleep (c : Fin 4) (arg : SleepArg)
  /-- SIGNAL (R403). Sets a task's pending signal. -/
  | signal (c : Fin 4) (t : Fin 256)
  /-- ENQUEUE (R409). Takes a work item from the pool and queues it to a task and flow. -/
  | enqueue (src : RveSource) (q : RveRequest) (i : Fin 2048)
  /-- RVE_CANCEL (R414). Cancels a work item by its state. -/
  | rveCancel (c : Option (Fin 4)) (i : Fin 2048)
  /-- CREATE (R399). Creates a task with its attributes. -/
  | create (c : Fin 4) (t : Fin 256) (thread : Bool) (prio : Fin 8) (affinity : BitVec 4) (flow : Option (Fin 64))
  /-- DELETE (R417). Deletes a task and flushes its items. -/
  | delete (c : Fin 4) (t : Fin 256)
  /-- SLOT_PREFETCH (R405). Reeve fills a free local slot with the oldest highest-priority ready task, displacing if needed. -/
  | slotPrefetch
  /-- FLOW_RELEASE (R410). Reeve releases the next item of a flow and writes its completion. -/
  | flowRelease (f : Fin 64)
  /-- DELAY_EXPIRY (R411). At a tick every expired sleep or timeout entry makes its task ready. -/
  | delayExpiry
  /-- RVE_OVERLONG (R408). A run longer than RUN_MAX_US sets OVERLONG. -/
  | rveOverlong (c : Fin 4)
  /-- DOORBELL_POLL (R424). The device reads the doorbell block and checks tails and heads. -/
  | doorbellPoll (block : List Word32)
  /-- SUBMISSION_FETCH (R428). A submission entry is fetched when its CQ has room and judged for admission. -/
  | submissionFetch (entry : List Byte)
  /-- MOVE_J (R220). Plans a synchronised joint move. -/
  | moveJ (a : Fin 36)
  /-- MOVE_L (R218). Plans a straight-line TCP move with full preview. -/
  | moveL (a : Fin 16)
  /-- MOVE_C (R218). Plans a circular TCP arc through a via point. -/
  | moveC (a : Fin 16)
  /-- MOVE_P (R218). Plans a TCP path through path table points. -/
  | moveP (a : Fin 16)
  /-- GEAR_IN (R239). Couples a joint to a master by a ratio. -/
  | gearIn (a : Fin 36)
  /-- GEAR_OUT (R239). Decouples a geared joint. -/
  | gearOut (a : Fin 36)
  /-- CAM_IN (R241). Couples a joint to a master through a cam table. -/
  | camIn (a : Fin 36)
  /-- CAM_OUT (R241). Decouples a cam follower at a dwell point. -/
  | camOut (a : Fin 36)
  /-- ZONE_RELEASE (R236). Releases zones without motion. -/
  | zoneRelease (a : Fin 16)
  /-- OVERRIDE (R224). Changes SPEED_PCT or LIMSET of the running and queued commands by a splice. -/
  | override (sq : Fin 17) (rsn : Word32)
  /-- STOP_AND_FLUSH (R232). STOP_ARM KIND 0 stops the axis set along its path and flushes its queue. -/
  | stopAndFlush (sq : Fin 17) (rsn : Word32)
  /-- FEED_HOLD (R232). STOP_ARM KIND 1 stops the axis set and holds it. -/
  | feedHold (sq : Fin 17) (rsn : Word32)
  /-- RESUME (R232). STOP_ARM KIND 2 resumes a held arm along its path. -/
  | resume (sq : Fin 17) (rsn : Word32)
  /-- LOAD_TABLE (R214). Loads an arm model, limit sets, path, cam or zone table from host memory. -/
  | loadTable (sq : Fin 17) (rsn : Word32) (bytes : List Byte)
  /-- QUERY_ARM (R209). Returns the state of an axis set. -/
  | queryArm (sq : Fin 17) (rsn : Word32)
  /-- PLANNER_COMMIT (R223). A splice commit reaches the trajectory store and is accepted or refused. -/
  | plannerCommit
  /-- ZONE_GRANT (R235). Requested zones, all free, are granted to a waiting command. -/
  | zoneGrant (a : Fin 16)
  /-- ZONE_TIMEOUT (R235). A zone request waiting past ZONE_WAIT ends its command. -/
  | zoneTimeout (a : Fin 16)
  /-- SYNC_START (R213). COUNT commands with one SYNC_TAG at their queue heads start together. -/
  | syncStart (tag : BitVec 16)
  /-- AT_FRAME_START (R213). A command with AT_FRAME starts at its target frame or completes TOO_LATE. -/
  | atFrameStart (a : Fin 36)
  /-- COMMAND_END_FRAME (R212). A command reaches its end frame and its completion is written. -/
  | commandEndFrame (a : Fin 36)
  /-- SPEED_CAP (R226). A lane speed cap time-scales the remaining plan. -/
  | speedCap (a : Fin 32)
  /-- SAFETY_STOP_DECISION (R233). A lane stop function decision stops the arm by splice and flushes its queue. -/
  | safetyStopDecision (a : Fin 32)
  /-- CANCEL (R434). Cancels one command by SQ and RSN. -/
  | cancel (sq : Fin 17) (rsn : Word32)
  /-- GET_STATUS (R433). Returns device status in the completion. -/
  | getStatus (sq : Fin 17) (rsn : Word32)
  /-- GET_TOPOLOGY (R426). Writes the node tables of the three rings into a host buffer. -/
  | getTopology (sq : Fin 17) (rsn : Word32)
  /-- READ_LOG (R443). Copies records of the internal log into a host buffer. -/
  | readLog (sq : Fin 17) (rsn : Word32)
  /-- MOTION_ENABLE (R309). Grants or withdraws the host's motion enable. -/
  | motionEnable (sq : Fin 17) (rsn : Word32)
  /-- UNIT_ENABLE (R309). Requests enable or disable of units. -/
  | unitEnable (sq : Fin 17) (rsn : Word32)
  /-- BRAKE_TEST (R141). Requests the full proof test of one brake channel. -/
  | brakeTest (sq : Fin 17) (rsn : Word32)
  /-- FW_DOWNLOAD (R435). Writes a firmware image into the flash slot not in use. -/
  | fwDownload (sq : Fin 17) (rsn : Word32) (image : FwImage) (crcOk : Bool)
  /-- FW_ACTIVATE (R435). Has all three lanes verify the downloaded image and mark it bootable. -/
  | fwActivate (sq : Fin 17) (rsn : Word32)
  /-- PKG_DOWNLOAD (R326). Downloads a safety configuration package for checking by the lanes. -/
  | pkgDownload (sq : Fin 17) (rsn : Word32) (p : Package) (crcOk : Bool)
  /-- DEVICE_RESET (R435). Admits a device reset that writes its completion first. -/
  | deviceReset (sq : Fin 17) (rsn : Word32)
  /-- DEVICE_RESET_EXECUTE (R435). 1 ms after its completion an admitted DEVICE_RESET resets the device. -/
  | deviceResetExecute
  /-- SQ_ENABLE (R432). Writing HST_SQq_CFG.EN enables or disables a submission queue, clearing its store on SEQ_RESET. -/
  | sqEnable (m : Master) (q : Fin 16) (en seqReset : Bool)
  /-- CQ_ENABLE (R423). Writing HST_CQq_CFG.EN enables or disables a completion queue, or is refused. -/
  | cqEnable (m : Master) (q : Fin 16) (en : Bool)
  /-- EVQ_ENABLE (R438). Enabling the event queue restarts copying at slot 0 with PHASE 1. -/
  | evqEnable (m : Master) (en : Bool)
  /-- EVENT_COPY (R438). Crier copies the next log record into the event queue when it has room. -/
  | eventCopy
  /-- MSIX_HINT (R436). The device sends its MSI-X message when new entries wait and HINT_US has passed. -/
  | msixHint (unmasked : Bool)
  /-- HST_LINK_DOWN (R437). A PCIe reset or link loss resets HST_ registers and disables every queue. -/
  | hstLinkDown
  /-- HST_LINK_UP (R437). The PCIe link trains again. -/
  | hstLinkUp
  /-- GROUP_CYCLE_START (R474). At a group cycle start the Steward sets G and sends its steward frame. -/
  | groupCycleStart (l : Fin 5)
  /-- MEMBER_FRAME_SEND (R467). A member sends its member frame at frame GCYC/2 of the cycle. -/
  | memberFrameSend (l : Fin 5)
  /-- STEWARD_FRAME_RECEIVED (R468). A member takes a steward frame for time, group state and Quarantine checks. -/
  | stewardFrameReceived (f : GroupFrame)
  /-- MEMBER_FRAME_RECEIVED (R474). The Steward or Deputy records a member frame's local state and stamps. -/
  | memberFrameReceived (f : GroupFrame)
  /-- GROUP_COMMAND_FRAME (R482). A member executes a command forwarded by its Steward. -/
  | groupCommandFrame (f : GroupEntry)
  /-- GROUP_COMPLETION_FRAME (R482). The Steward receives a forwarded command's completion. -/
  | groupCompletionFrame (f : GroupEntry)
  /-- STEWARD_ELECTION (R469). A listening eligible device hearing no steward for its wait becomes Steward. -/
  | stewardElection (l : Fin 5)
  /-- GRP_MEMBER_LOST (R477). No member frame for LOSS_CYC cycles declares the slot lost. -/
  | grpMemberLost (l : Fin 5) (m : Fin 8)
  /-- GRP_STEWARD_LOST (R477). No steward frame for LOSS_CYC cycles declares the Steward lost. -/
  | grpStewardLost (l : Fin 5)
  /-- GRP_FRAME_ALIGN (R471). A member aligns BLF_FRAME_NO to the Steward once every unit is disabled. -/
  | grpFrameAlign (l : Fin 5)
  /-- GRP_QUARANTINE_END (R473). A member leaves Quarantine after 2 matching cycles with every unit disabled. -/
  | grpQuarantineEnd (l : Fin 5)
  /-- GRP_REJOIN (R473). A write of GRP_CTRL.REJOIN starts the Quarantine exit check at once. -/
  | grpRejoin (m : Master)
  /-- SUPERVISOR_POWER_LOSS (R490). Every VIN_x falling below 18 V removes the supervisor's power, losing the reset history, so that the next start is a power-on of cause 0x1. -/
  | supervisorPowerLoss
  /-- RC_FAULT (R496). The supervisor's RC oscillator leaving ±5 % of XIN_S sets RC_FAULT and writes EV_CLK_FAULT with INDEX 12, stopping the supervisor's timers and clock monitoring. -/
  | rcFault
  /-- DEBUG_EXIT (R110). A lane in DEBUG is left through its own reset of cause 0xB, closing its bypass and starting R107. -/
  | debugExit (l : Lane)
  /-- PTP_DELAY_REQ_TRANSMIT (R62). At each delay request interval 2^−LOG_DELAY s a PTP port sends Delay_Req, or Pdelay_Req in peer mode, and stamps it. -/
  | ptpDelayReqTransmit (port : Fin 2)
  /-- MAINTENANCE_PACKET_RECEIVED (R400). A maintenance packet received on an Ethernet port is enqueued as a work item, or dropped and counted in RVE_CNT.ETH_DROP when the pool is empty. -/
  | maintenancePacketReceived (port : Fin 2) (q : RveRequest) (i : Fin 2048)
  /-- FW_ACTIVATE_VERIFIED (R435). The three lanes finish verifying the downloaded firmware image and mark it bootable, or refuse it, and the FW_ACTIVATE completion is written. -/
  | fwActivateVerified
  /-- FW_DOWNLOAD_WRITTEN (R435). The firmware image has been written into the flash slot not in use, with result written, CRC mismatch or flash fault, and any earlier activation is void. -/
  | fwDownloadWritten (flashFault : Bool)
  deriving DecidableEq, Repr

end Sys2Proof
end

