-- ==== Sys2Proof/Machine/Bits.lean ====
section
/-!
DEFINITION. The arithmetic of bit fields: two's complement fields and saturation, byte order (R9: little-endian), rounding of quotients,
square roots, parity and bit counts.
-/
namespace Sys2Proof.Machine

/-- A `w`-bit field read as two's complement (R9). -/
def signedOf (w n : Nat) : Int := if n % 2 ^ w < 2 ^ (w - 1) then ((n % 2 ^ w : Nat) : Int) else ((n % 2 ^ w : Nat) : Int) - 2 ^ w

/-- An integer as a `w`-bit two's complement field (R9). -/
def fieldOf (w : Nat) (x : Int) : Nat := (x % 2 ^ w).toNat

/-- Limit `x` to `lo..hi`. -/
def clampInt (lo hi x : Int) : Int := if x < lo then lo else if hi < x then hi else x

/-- Limit a natural number to `lo..hi`. -/
def clampNat (lo hi x : Nat) : Nat := if x < lo then lo else if hi < x then hi else x

/-- An integer limited to the range of a `w`-bit two's complement field. -/
def saturate (w : Nat) (x : Int) : Int := clampInt (-(2 ^ (w - 1) : Nat)) ((2 ^ (w - 1) : Nat) - 1) x

/-- Bits `hi..lo` of a number. -/
def bits (n hi lo : Nat) : Nat := n / 2 ^ lo % 2 ^ (hi + 1 - lo)

/-- Bit `i` of a number. -/
def bit (n i : Nat) : Bool := n.testBit i

/-- Set or clear bit `i` of a number. -/
def setBit (n i : Nat) (b : Bool) : Nat :=
  if n.testBit i = b then n else if b then n + 2 ^ i else n - 2 ^ i

/-- 1 for true, 0 for false. -/
def bitOf (b : Bool) : Nat := if b then 1 else 0

/-- The low `k` bytes of a number, least significant first (R9). -/
def bytesLE : Nat → Nat → List Byte
  | 0, _ => []
  | k + 1, n => BitVec.ofNat 8 n :: bytesLE k (n / 256)

/-- The number of a list of bytes, least significant first (R9). -/
def natLE : List Byte → Nat
  | [] => 0
  | b :: bs => b.toNat + 256 * natLE bs

/-- Truncate to the 8 ns quantum of the time base (R50, R64). -/
def trunc8 (t : Int) : Int := t - t % 8

/-- Quotient rounded toward minus infinity, 0 for a zero divisor. -/
def floorDiv (a b : Int) : Int := Int.fdiv a b

/-- Quotient rounded to nearest, halves up, for a positive divisor. -/
def roundDiv (a : Int) (b : Nat) : Int := Int.fdiv (2 * a + b) (2 * b)

/-- Quotient rounded up, for natural numbers. -/
def ceilDiv (a b : Nat) : Nat := if b = 0 then 0 else (a + b - 1) / b

/-- Floor of the square root, by `fuel` bits from the top. -/
def isqrtAux : Nat → Nat → Nat → Nat
  | 0, _, r => r
  | k + 1, n, r => if (r + 2 ^ k) * (r + 2 ^ k) ≤ n then isqrtAux k n (r + 2 ^ k) else isqrtAux k n r

/-- Floor of the square root of a number below 2^128. -/
def isqrt (n : Nat) : Nat := isqrtAux 64 n 0

/-- Even parity of a number's bits below 2^`k`: true if an odd number of them are set. -/
def parity : Nat → Nat → Bool
  | 0, _ => false
  | k + 1, n => (n % 2 == 1) != parity k (n / 2)

/-- Number of set bits among the low `k` bits. -/
def popCount : Nat → Nat → Nat
  | 0, _ => 0
  | k + 1, n => n % 2 + popCount k (n / 2)

/-- The low `k` bits in reversed order. -/
def reverseBits : Nat → Nat → Nat
  | 0, _ => 0
  | k + 1, n => n % 2 * 2 ^ k + reverseBits k (n / 2)

end Sys2Proof.Machine
end

