-- ==== Sys2Proof/Machine/Events.lean ====
section
/-!
DEFINITION. The event codes of the records: the groups and orders of Table 14-11 (R441), R485 and R508, and the sources of
Table 14-12 (R442).
-/
namespace Sys2Proof.Machine

/-- The events, named as the spec names them without the prefix EV_. -/
inductive Ev where
  | LOCK_VIOL
  | BUSY_DROP
  | BUSY_REJECT
  | PAIR_REJECT
  | HST_LINK_DOWN
  | HST_LINK_UP
  | HST_QUEUE_ERR
  | PERIOD_CHANGED
  | EPOCH_SET
  | JUMP_REFUSED
  | SOURCE_LOST
  | TIME_DIVERGED
  | TT_REJECT
  | TT_LATE
  | LOCKSTEP_MISMATCH
  | MEM_UE
  | CMP_TEST_FAIL
  | LANE_SILENT
  | ARB_FAULT
  | ARB_CLEAR
  | CONFIG_DIVERGE
  | LANE_RELOADED
  | LANE_REJOIN
  | LANE_DEBUG
  | COM_FAULT
  | TICK_LOST
  | RING_LOST
  | LINK_FAULT
  | LANE_OVERRUN
  | DEG_EXPIRED
  | BRAKE_FAULT
  | SENSE_FAULT
  | PT_DUE
  | PT_FAIL
  | SI_DISCREPANCY
  | ACK_BAD
  | DRIVE_STO_FAIL
  | PKG_RESULT
  | ENT_LINK_DOWN
  | ENT_LINK_UP
  | BYPASS_CLOSED
  | BYPASS_OPEN
  | ENT_ERR_RATE
  | RING_BREAK
  | RING_CLOSED
  | NODE_MISMATCH
  | NODE_UNKNOWN
  | ENUM_UNSTABLE
  | ENUM_DONE
  | NODE_ADMIT
  | NODE_CLAIM
  | CLAIM_CONFLICT
  | SYNC_GUARD
  | NODE_REMOVED
  | DECEL_CLAMPED
  | STORE_LOW
  | STORE_DRAIN
  | MASTER_LOST
  | SEG_BAD
  | MIL_PARAM_REJECT
  | OBS_RESTART
  | MIL_TBL_REJECT
  | DEADLINE_MISS
  | DEADLINE_MISS3
  | ENGINE_SPARED
  | TLM_OVERFLOW
  | SENSOR_FALLBACK
  | ARM_STALE
  | ENVELOPE_EXIT
  | COM_OVERRUN
  | VOTE_SPLIT
  | SEP_STOP
  | QUAD_ERR
  | CHAN_FAULT
  | FB_CFG_REJECT
  | VLIM_HIT
  | STEP_LIMIT
  | LOST_STEP
  | STALL
  | FB_LOST
  | REP_OVF
  | SP_CFG_REJECT
  | ADC_CORR_RESTORE
  | ADC_CHK_FAIL
  | ADC_REF_EARLY
  | ADC_SEQ_REJECT
  | SMY_BUDGET
  | SMY_SIGNAL
  | SMY_ILLEGAL
  | RVE_OVERLONG
  | SUPPLY_WARN
  | SUPPLY_RESET
  | SUPPLY_OK
  | CONV_FAULT
  | CLK_FAULT
  | CLK_OK
  | TEMP_WARN
  | TEMP_LIMIT
  | RESET
  | DBG_UNLOCK
  | DBG_FAIL
  | DBG_LOCKOUT
  | GRP_STEWARD
  | GRP_DEPUTY
  | GRP_JOIN
  | GRP_MEMBER_LOST
  | GRP_STEWARD_LOST
  | GRP_QUARANTINE
  | GRP_QUARANTINE_END
  | GRP_PARTITION
  | GRP_STATE
  | GRP_FRAME_ALIGN
  deriving DecidableEq, Repr

/-- The 16-bit code of an event, R441, R485, R508. -/
def Ev.code : Ev → Nat
  | .LOCK_VIOL => 0x0101
  | .BUSY_DROP => 0x0102
  | .BUSY_REJECT => 0x0103
  | .PAIR_REJECT => 0x0104
  | .HST_LINK_DOWN => 0x0105
  | .HST_LINK_UP => 0x0106
  | .HST_QUEUE_ERR => 0x0107
  | .PERIOD_CHANGED => 0x0201
  | .EPOCH_SET => 0x0202
  | .JUMP_REFUSED => 0x0203
  | .SOURCE_LOST => 0x0204
  | .TIME_DIVERGED => 0x0205
  | .TT_REJECT => 0x0206
  | .TT_LATE => 0x0207
  | .LOCKSTEP_MISMATCH => 0x0301
  | .MEM_UE => 0x0302
  | .CMP_TEST_FAIL => 0x0303
  | .LANE_SILENT => 0x0304
  | .ARB_FAULT => 0x0305
  | .ARB_CLEAR => 0x0306
  | .CONFIG_DIVERGE => 0x0307
  | .LANE_RELOADED => 0x0308
  | .LANE_REJOIN => 0x0309
  | .LANE_DEBUG => 0x030A
  | .COM_FAULT => 0x030B
  | .TICK_LOST => 0x030C
  | .RING_LOST => 0x0401
  | .LINK_FAULT => 0x0402
  | .LANE_OVERRUN => 0x0403
  | .DEG_EXPIRED => 0x0404
  | .BRAKE_FAULT => 0x0405
  | .SENSE_FAULT => 0x0406
  | .PT_DUE => 0x0407
  | .PT_FAIL => 0x0408
  | .SI_DISCREPANCY => 0x0501
  | .ACK_BAD => 0x0502
  | .DRIVE_STO_FAIL => 0x0503
  | .PKG_RESULT => 0x0504
  | .ENT_LINK_DOWN => 0x0601
  | .ENT_LINK_UP => 0x0602
  | .BYPASS_CLOSED => 0x0603
  | .BYPASS_OPEN => 0x0604
  | .ENT_ERR_RATE => 0x0605
  | .RING_BREAK => 0x0606
  | .RING_CLOSED => 0x0607
  | .NODE_MISMATCH => 0x0608
  | .NODE_UNKNOWN => 0x0609
  | .ENUM_UNSTABLE => 0x060A
  | .ENUM_DONE => 0x060B
  | .NODE_ADMIT => 0x060C
  | .NODE_CLAIM => 0x060D
  | .CLAIM_CONFLICT => 0x060E
  | .SYNC_GUARD => 0x060F
  | .NODE_REMOVED => 0x0610
  | .DECEL_CLAMPED => 0x0701
  | .STORE_LOW => 0x0702
  | .STORE_DRAIN => 0x0703
  | .MASTER_LOST => 0x0704
  | .SEG_BAD => 0x0801
  | .MIL_PARAM_REJECT => 0x0802
  | .OBS_RESTART => 0x0803
  | .MIL_TBL_REJECT => 0x0804
  | .DEADLINE_MISS => 0x0805
  | .DEADLINE_MISS3 => 0x0806
  | .ENGINE_SPARED => 0x0807
  | .TLM_OVERFLOW => 0x0808
  | .SENSOR_FALLBACK => 0x0901
  | .ARM_STALE => 0x0902
  | .ENVELOPE_EXIT => 0x0903
  | .COM_OVERRUN => 0x0904
  | .VOTE_SPLIT => 0x0905
  | .SEP_STOP => 0x0906
  | .QUAD_ERR => 0x0A01
  | .CHAN_FAULT => 0x0A02
  | .FB_CFG_REJECT => 0x0A03
  | .VLIM_HIT => 0x0A04
  | .STEP_LIMIT => 0x0A05
  | .LOST_STEP => 0x0A06
  | .STALL => 0x0A07
  | .FB_LOST => 0x0A08
  | .REP_OVF => 0x0A09
  | .SP_CFG_REJECT => 0x0A0A
  | .ADC_CORR_RESTORE => 0x0B01
  | .ADC_CHK_FAIL => 0x0B02
  | .ADC_REF_EARLY => 0x0B03
  | .ADC_SEQ_REJECT => 0x0B04
  | .SMY_BUDGET => 0x0B05
  | .SMY_SIGNAL => 0x0B06
  | .SMY_ILLEGAL => 0x0B07
  | .RVE_OVERLONG => 0x0C01
  | .SUPPLY_WARN => 0x0D01
  | .SUPPLY_RESET => 0x0D02
  | .SUPPLY_OK => 0x0D03
  | .CONV_FAULT => 0x0D04
  | .CLK_FAULT => 0x0D05
  | .CLK_OK => 0x0D06
  | .TEMP_WARN => 0x0D07
  | .TEMP_LIMIT => 0x0D08
  | .RESET => 0x0D09
  | .DBG_UNLOCK => 0x0D0A
  | .DBG_FAIL => 0x0D0B
  | .DBG_LOCKOUT => 0x0D0C
  | .GRP_STEWARD => 0x0E01
  | .GRP_DEPUTY => 0x0E02
  | .GRP_JOIN => 0x0E03
  | .GRP_MEMBER_LOST => 0x0E04
  | .GRP_STEWARD_LOST => 0x0E05
  | .GRP_QUARANTINE => 0x0E06
  | .GRP_QUARANTINE_END => 0x0E07
  | .GRP_PARTITION => 0x0E08
  | .GRP_STATE => 0x0E09
  | .GRP_FRAME_ALIGN => 0x0E0A

/-- Event sources, Table 14-12. -/
def srcSystem : Nat := 0x00
/-- Host interface. -/
def srcHost : Nat := 0x01
/-- Time base. -/
def srcTime : Nat := 0x02
/-- Lane A, B or C. -/
def srcLane (l : Lane) : Nat := 0x03 + l.idx
/-- Safety functions, voted. -/
def srcSafety : Nat := 0x06
/-- Ring A, B or C. -/
def srcRing (l : Lane) : Nat := 0x07 + l.idx
/-- Planner. -/
def srcPlanner : Nat := 0x0A
/-- Scheduler. -/
def srcScheduler : Nat := 0x0B
/-- Separation monitor. -/
def srcSeparation : Nat := 0x0C
/-- ADC subsystem. -/
def srcAdc : Nat := 0x0D
/-- Signal processor `n`. -/
def srcSmithy (n : Nat) : Nat := 0x0E + n
/-- Power and reset supervisor. -/
def srcPower : Nat := 0x10
/-- Group. -/
def srcGroup : Nat := 0x11
/-- Loop engines, joint and setpoint slots. -/
def srcLoop : Nat := 0x12
/-- Physical engine `p`. -/
def srcEngine (p : Nat) : Nat := 0x20 + p
/-- Feedback port `k`. -/
def srcFeedback (k : Nat) : Nat := 0x40 + k
/-- Step/pulse port `k`. -/
def srcStep (k : Nat) : Nat := 0x50 + k
/-- Brake channel `k`. -/
def srcBrake (k : Nat) : Nat := 0x60 + k
/-- Unit `u`. -/
def srcUnit (u : Nat) : Nat := 0x70 + u
/-- Safety input `i`. -/
def srcInput (i : Nat) : Nat := 0x90 + i

end Sys2Proof.Machine
end

