-- ==== Sys2Proof/Machine/Sha.lean ====
section
/-!
DEFINITION. The cryptographic functions the spec names by their standards (R324, R325, R440, R502, R503): SHA-256, HMAC-SHA-256 and the
verification of an ECDSA signature over the curve P-256. A digest is a number, its first byte the most significant.
-/
namespace Sys2Proof.Machine

/-! SHA-256. -/

/-- The eight words of the hash under way. -/
structure ShaState where
  a : Word32
  b : Word32
  c : Word32
  d : Word32
  e : Word32
  f : Word32
  g : Word32
  h : Word32
  deriving DecidableEq, Repr

/-- The hash before the first block. -/
def shaStart : ShaState := ⟨0x6a09e667, 0xbb67ae85, 0x3c6ef372, 0xa54ff53a, 0x510e527f, 0x9b05688c, 0x1f83d9ab, 0x5be0cd19⟩

/-- The constants of rounds 0 to 31. -/
def shaLow : List Word32 :=
  [0x428a2f98, 0x71374491, 0xb5c0fbcf, 0xe9b5dba5, 0x3956c25b, 0x59f111f1, 0x923f82a4, 0xab1c5ed5, 0xd807aa98, 0x12835b01, 0x243185be,
    0x550c7dc3, 0x72be5d74, 0x80deb1fe, 0x9bdc06a7, 0xc19bf174, 0xe49b69c1, 0xefbe4786, 0x0fc19dc6, 0x240ca1cc, 0x2de92c6f, 0x4a7484aa,
    0x5cb0a9dc, 0x76f988da, 0x983e5152, 0xa831c66d, 0xb00327c8, 0xbf597fc7, 0xc6e00bf3, 0xd5a79147, 0x06ca6351, 0x14292967]

/-- The constants of rounds 32 to 63. -/
def shaHigh : List Word32 :=
  [0x27b70a85, 0x2e1b2138, 0x4d2c6dfc, 0x53380d13, 0x650a7354, 0x766a0abb, 0x81c2c92e, 0x92722c85, 0xa2bfe8a1, 0xa81a664b, 0xc24b8b70,
    0xc76c51a3, 0xd192e819, 0xd6990624, 0xf40e3585, 0x106aa070, 0x19a4c116, 0x1e376c08, 0x2748774c, 0x34b0bcb5, 0x391c0cb3, 0x4ed8aa4a,
    0x5b9cca4f, 0x682e6ff3, 0x748f82ee, 0x78a5636f, 0x84c87814, 0x8cc70208, 0x90befffa, 0xa4506ceb, 0xbef9a3f7, 0xc67178f2]

/-- One round: `w` holds the 16 schedule words from this round's on; the next one joins them. -/
def shaRound (x : ShaState × List Word32) (k : Word32) : ShaState × List Word32 :=
  let (s, w) := x
  let at' := fun (i : Nat) => w.getD i 0
  let mix := fun (v : Word32) (i j l : Nat) => v.rotateRight i ^^^ v.rotateRight j ^^^ v.rotateRight l
  let small := fun (v : Word32) (i j n : Nat) => v.rotateRight i ^^^ v.rotateRight j ^^^ (v >>> n)
  let t1 := s.h + mix s.e 6 11 25 + ((s.e &&& s.f) ^^^ (~~~s.e &&& s.g)) + k + at' 0
  let t2 := mix s.a 2 13 22 + ((s.a &&& s.b) ^^^ (s.a &&& s.c) ^^^ (s.b &&& s.c))
  (⟨t1 + t2, s.a, s.b, s.c, s.d + t1, s.e, s.f, s.g⟩,
    w.drop 1 ++ [small (at' 14) 17 19 10 + at' 9 + small (at' 1) 7 18 3 + at' 0])

/-- One block of 16 words. -/
def shaBlock (s : ShaState) (w : List Word32) : ShaState :=
  let t := ((shaLow ++ shaHigh).foldl shaRound (s, w)).1
  ⟨s.a + t.a, s.b + t.b, s.c + t.c, s.d + t.d, s.e + t.e, s.f + t.f, s.g + t.g, s.h + t.h⟩

/-- A number from bytes, most significant first. -/
def natBE (bs : List Byte) : Nat := bs.foldl (fun n b => 256 * n + b.toNat) 0

/-- `n` blocks of 64 bytes. -/
def shaBlocks : Nat → ShaState → List Byte → ShaState
  | 0, s, _ => s
  | n + 1, s, bs =>
    shaBlocks n (shaBlock s ((List.range 16).map fun i => BitVec.ofNat 32 (natBE ((bs.drop (4 * i)).take 4)))) (bs.drop 64)

/-- SHA-256 of a message. -/
def sha256 (bs : List Byte) : BitVec 256 :=
  let n := bs.length
  let zeros := (119 - n % 64) % 64
  let m := bs ++ [0x80] ++ List.replicate zeros 0 ++ (bytesLE 8 (8 * n)).reverse
  let s := shaBlocks (m.length / 64) shaStart m
  s.a ++ s.b ++ s.c ++ s.d ++ s.e ++ s.f ++ s.g ++ s.h

/-- The bytes of a number of `n` bytes, most significant first. -/
def bytesBE (n v : Nat) : List Byte := (bytesLE n v).reverse

/-- HMAC-SHA-256 under a 256-bit key. -/
def hmacSha256 (key : BitVec 256) (bs : List Byte) : BitVec 256 :=
  let k := bytesBE 32 key.toNat ++ List.replicate 32 0
  let pad := fun (x : Byte) => k.map fun b => b ^^^ x
  sha256 (pad 0x5c ++ bytesBE 32 (sha256 (pad 0x36 ++ bs)).toNat)

/-- The `n` bytes of a region from offset `at'` on of which those that are not zero are listed at rising offsets. -/
def denseBytes : Nat → Nat → List (Nat × Byte) → List Byte
  | 0, _, _ => []
  | n + 1, _, [] => List.replicate (n + 1) 0
  | n + 1, at', (a, b) :: rest =>
    if a = at' then b :: denseBytes n (at' + 1) rest else 0 :: denseBytes n (at' + 1) ((a, b) :: rest)

/-! The curve P-256. -/

/-- The prime of the field. -/
def curveP : Nat := 2 ^ 256 - 2 ^ 224 + 2 ^ 192 + 2 ^ 96 - 1

/-- The order of the base point. -/
def curveN : Nat := 0xFFFFFFFF00000000FFFFFFFFFFFFFFFFBCE6FAADA7179E84F3B9CAC2FC632551

/-- The constant of the equation y² = x³ - 3 x + b. -/
def curveB : Nat := 0x5AC635D8AA3A93E7B3EBBD55769886BC651D06B0CC53B0F63BCE3C3E27D2604B

/-- The base point. -/
def curveG : Nat × Nat :=
  (0x6B17D1F2E12C4247F8BCE6E563A440F277037D812DEB33A0F4A13945D898C296,
    0x4FE342E2FE1A7F9B8EE7EB4A7C0F9E162BCE33576B315ECECBB6406837BF51F5)

/-- `b` to the power of the low `n` bits of `e`, modulo `m`. -/
def powMod (m b e : Nat) : Nat → Nat
  | 0 => 1
  | n + 1 => let r := powMod m b (e / 2) n; let q := r * r % m; if e % 2 = 1 then q * b % m else q

/-- The inverse modulo a prime of at most 256 bits. -/
def invMod (m x : Nat) : Nat := powMod m (x % m) (m - 2) 256

/-- The point of the line through a point with slope `l` and the x of another, mirrored. -/
def chord (p : Nat × Nat) (l x2 : Nat) : Nat × Nat :=
  let x := (l * l + 2 * curveP - p.1 - x2) % curveP
  (x, (l * (p.1 + curveP - x) + curveP - p.2) % curveP)

/-- The sum of two points; none is the point at infinity. -/
def addPoints (p q : Option (Nat × Nat)) : Option (Nat × Nat) :=
  match p, q with
  | none, q => q
  | p, none => p
  | some p, some q =>
    if p.1 ≠ q.1 then some (chord p ((q.2 + curveP - p.2) * invMod curveP (q.1 + curveP - p.1) % curveP) q.1)
    else if p.2 ≠ q.2 ∨ p.2 = 0 then none
    else some (chord p ((3 * p.1 * p.1 + curveP - 3) * invMod curveP (2 * p.2) % curveP) p.1)

/-- The multiple of a point by the low `n` bits of `k`. -/
def timesPoint (k : Nat) (p : Option (Nat × Nat)) : Nat → Option (Nat × Nat)
  | 0 => none
  | n + 1 => let r := timesPoint (k / 2) p n; let q := addPoints r r; if k % 2 = 1 then addPoints q p else q

/-- The point is on the curve. -/
def onCurve (p : Nat × Nat) : Bool :=
  decide (p.1 < curveP ∧ p.2 < curveP ∧ p.2 * p.2 % curveP = (p.1 * p.1 * p.1 + 3 * (curveP - p.1) + curveB) % curveP)

/-- An ECDSA signature, r then s, verifies over a hash with a public key, X then Y. -/
def ecdsaVerify (key : BitVec 512) (hash : BitVec 256) (signature : BitVec 512) : Bool :=
  let q := (key.toNat / 2 ^ 256, key.toNat % 2 ^ 256)
  let r := signature.toNat / 2 ^ 256
  let s := signature.toNat % 2 ^ 256
  let w := invMod curveN s
  onCurve q && decide (0 < r ∧ r < curveN ∧ 0 < s ∧ s < curveN) &&
    match addPoints (timesPoint (hash.toNat * w % curveN) (some curveG) 256) (timesPoint (r * w % curveN) (some q) 256) with
    | some x => decide (x.1 % curveN = r)
    | none => false

end Sys2Proof.Machine
end

