-- ==== Sys2Proof/Config.lean ====
section
/-!
DEFINITION. What an implementation fixes and the spec leaves open: per-device constants, keyed functions whose key has no read
path, and the free values. None has a body: nothing proved of the
model rests on a value of one of them.
-/
namespace Sys2Proof

/-- Serial number, per device (SYS_SERIAL_LO, SYS_SERIAL_HI). -/
opaque Config.serialNumber : BitVec 64
/-- Mask ROM version code, per step (SYS_ROM_VERSION). -/
opaque Config.romVersion : BitVec 32
/-- Boots since manufacture at power-on (SYS_BOOT_COUNT). -/
opaque Config.bootCount : BitVec 32
/-- Programmed bits of the one-time-programmable cells (PWR_OTP_STAT.PROGRAMMED). -/
opaque Config.otpProgrammed : BitVec 6
/-- Debug-disable cells (PWR_OTP_STAT.DBG_DISABLE). -/
opaque Config.otpDebugDisable : BitVec 1
/-- A value the spec leaves open, fresh for each count of the model's free-value counter. -/
opaque Config.freeValue : Nat → Nat
/-- Number of devices below a member group this device does not steward, by GROUP_ID; the section does not say it (R481). -/
opaque Config.groupDevices : Nat → Nat
/-- The event log key, which has no read path (R440, R501). -/
opaque Config.eventKey : BitVec 256
/-- The signature the mask ROM expects of known-answer test 0 to 63 (R96). -/
opaque Config.katSignature : Nat → BitVec 64
/-- The hash of the Olquamar image key in mask ROM (R501, R502). -/
opaque Config.romKeyHash : BitVec 256
/-- The debug keys, which have no read path (R501, R503): 0 of the device, 1 to 3 of Lanes A, B and C. -/
opaque Config.debugKey : Nat → BitVec 256
/-- The device identification code the TAP instruction IDCODE returns (R503), which the spec does not state. -/
opaque Config.idcode : BitVec 32
/-- The clock identity PTP messages of the device carry, which the spec does not state (R63). -/
opaque Config.ptpIdentity : Nat
/-- The number of the solution branch of the closed-form solver that joint values (rad or mm, binary64) lie in, for an IK_KIND and the DH
values a, alpha, d, theta of each joint (R217); the spec does not number the branches. -/
opaque Config.ikBranch : Nat → List (BitVec 64) → List (BitVec 64) → Nat
/-- The damping of the numerical solver's least squares (R217), a binary64; the spec states none. -/
opaque Config.ikDamping : BitVec 64
/-- The share of the way to the middle of its Hedge range that one iteration asks of a joint's spare freedom (R217), a binary64; the spec
states none. -/
opaque Config.ikCentring : BitVec 64

end Sys2Proof
end

