-- ==== Sys2Proof/Machine/Float64.lean ====
section
/-!
DEFINITION. FP64 arithmetic of the lane cores, the Planner and the loop engines: IEEE 754 binary64 with round to nearest, ties to
even (the spec names FP64 and binary32 and no rounding mode; see the assumption log). A value is a sign, a whole significand
and a power of two; the elementary functions are rounded once from their exact value.
-/
namespace Sys2Proof.Machine

/-- A binary64 value. `num neg m e` is plus or minus m times 2^e, with m below 2^53. -/
inductive F64 where
  | num (neg : Bool) (m : Nat) (e : Int)
  | inf (neg : Bool)
  | nan
  deriving DecidableEq, Repr

/-- Zero. -/
def f64Zero : F64 := .num false 0 0

/-- Bits of a significand. -/
def bitLen (m : Nat) : Nat := if m = 0 then 0 else Nat.log2 m + 1

/-- Divide by 2^s, rounding to nearest, ties to even. -/
def shiftRound (m s : Nat) : Nat :=
  let q := m / 2 ^ s
  let r := 2 * (m % 2 ^ s)
  if 2 ^ s < r ∨ (r = 2 ^ s ∧ q % 2 = 1) then q + 1 else q

/-- Round an exact value to `p` significant bits with least exponent `emin` and overflow at 2^emax. -/
def roundTo (p : Nat) (emin emax : Int) (neg : Bool) (m : Nat) (e : Int) : F64 :=
  if m = 0 then .num neg 0 0
  else
    let k : Int := bitLen m
    let s := max (max (k - p) (emin - e)) 0
    let q := shiftRound m s.toNat
    let e' := e + s
    if q = 0 then .num neg 0 0
    else if emax < bitLen q + e' then .inf neg
    else .num neg q e'

/-- Round an exact value to binary64. -/
def roundF64 (neg : Bool) (m : Nat) (e : Int) : F64 := roundTo 53 (-1074) 1024 neg m e

/-- An integer. -/
def f64OfInt (x : Int) : F64 := roundF64 (decide (x < 0)) x.natAbs 0

/-- A quotient of integers, correctly rounded: the divisor is positive. -/
def f64OfRatio (x : Int) (y : Nat) : F64 :=
  if y = 0 then .nan
  else
    let sh := 66 + bitLen y
    let q := x.natAbs * 2 ^ sh / y
    let sticky := if x.natAbs * 2 ^ sh % y = 0 then 0 else 1
    roundF64 (decide (x < 0)) (2 * q + sticky) (-(sh : Int) - 1)

/-- Signed significand. -/
def signedM (neg : Bool) (m : Nat) : Int := if neg then -(m : Int) else m

/-- Negation. -/
def f64Neg : F64 → F64
  | .num s m e => .num (!s) m e
  | .inf s => .inf (!s)
  | .nan => .nan

/-- Magnitude. -/
def f64Abs : F64 → F64
  | .num _ m e => .num false m e
  | .inf _ => .inf false
  | .nan => .nan

/-- Sum. -/
def f64Add : F64 → F64 → F64
  | .num s m e, .num t n f =>
    let g := min e f
    let x := signedM s m * 2 ^ (e - g).toNat + signedM t n * 2 ^ (f - g).toNat
    if x = 0 then .num (s && t) 0 0 else roundF64 (decide (x < 0)) x.natAbs g
  | .inf s, .inf t => if s = t then .inf s else .nan
  | .inf s, .num _ _ _ => .inf s
  | .num _ _ _, .inf t => .inf t
  | _, _ => .nan

/-- Difference. -/
def f64Sub (x y : F64) : F64 := f64Add x (f64Neg y)

/-- Product. -/
def f64Mul : F64 → F64 → F64
  | .num s m e, .num t n f => roundF64 (s != t) (m * n) (e + f)
  | .inf s, .inf t => .inf (s != t)
  | .inf s, .num t n _ => if n = 0 then .nan else .inf (s != t)
  | .num s m _, .inf t => if m = 0 then .nan else .inf (s != t)
  | _, _ => .nan

/-- Quotient. -/
def f64Div : F64 → F64 → F64
  | .num s m e, .num t n f =>
    if n = 0 then (if m = 0 then .nan else .inf (s != t))
    else
      let sh := 66 + bitLen n
      let q := m * 2 ^ sh / n
      let sticky := if m * 2 ^ sh % n = 0 then 0 else 1
      roundF64 (s != t) (2 * q + sticky) (e - f - sh - 1)
  | .inf s, .num t _ _ => .inf (s != t)
  | .num s _ _, .inf t => .num (s != t) 0 0
  | _, _ => .nan

/-- Square root. -/
def f64Sqrt : F64 → F64
  | .num s m e =>
    if m = 0 then .num s 0 0
    else if s then .nan
    else
      let odd := e % 2
      let big := m * 2 ^ (110 + odd.toNat)
      let r := isqrtAux 96 big 0
      let sticky := if r * r = big then 0 else 1
      roundF64 false (2 * r + sticky) ((e - odd - 110) / 2 - 1)
  | .inf false => .inf false
  | _ => .nan

/-- The order of two values as exact numbers: less than. A comparison with NaN is false. -/
def f64Lt : F64 → F64 → Bool
  | .num s m e, .num t n f =>
    let g := min e f
    decide (signedM s m * 2 ^ (e - g).toNat < signedM t n * 2 ^ (f - g).toNat)
  | .inf true, .num _ _ _ => true
  | .inf true, .inf false => true
  | .num _ _ _, .inf false => true
  | _, _ => false

/-- Less than or equal. -/
def f64Le (x y : F64) : Bool :=
  match x, y with
  | .nan, _ => false
  | _, .nan => false
  | x, y => !f64Lt y x

/-- The smaller of two. -/
def f64Min (x y : F64) : F64 := if f64Lt y x then y else x

/-- The larger of two. -/
def f64Max (x y : F64) : F64 := if f64Lt x y then y else x

/-- Limit to `lo..hi`. -/
def f64Clamp (lo hi x : F64) : F64 := f64Max lo (f64Min hi x)

/-- A finite value. -/
def f64Finite : F64 → Bool
  | .num _ _ _ => true
  | _ => false

/-- Floor of a finite value; 0 of any other. -/
def f64Floor : F64 → Int
  | .num s m e => if 0 ≤ e then signedM s m * 2 ^ e.toNat else Int.fdiv (signedM s m) (2 ^ (-e).toNat)
  | _ => 0

/-- Ceiling of a finite value. -/
def f64Ceil (x : F64) : Int := -(f64Floor (f64Neg x))

/-- Nearest integer, halves away from zero. -/
def f64RoundAway (x : F64) : Int :=
  match x with
  | .num s m e =>
    let h := if 0 ≤ e then (m : Int) * 2 ^ e.toNat else Int.fdiv (2 * (m : Int) + 2 ^ (-e).toNat) (2 * 2 ^ (-e).toNat)
    if s then -h else h
  | _ => 0

/-- Nearest integer, ties to even. -/
def f64RoundEven (x : F64) : Int :=
  match x with
  | .num s m e => signedM s (if 0 ≤ e then m * 2 ^ e.toNat else shiftRound m (-e).toNat)
  | _ => 0

/-- A value from the parts of an IEEE encoding with `p` fraction bits and bias `bias`. -/
def f64OfParts (p bias : Nat) (neg : Bool) (ex fr top : Nat) : F64 :=
  if ex = top then (if fr = 0 then .inf neg else .nan)
  else if ex = 0 then (if fr = 0 then .num neg 0 0 else .num neg fr (1 - (bias : Int) - p))
  else .num neg (2 ^ p + fr) ((ex : Int) - bias - p)

/-- Encode with `p` fraction bits; the value fits the format. -/
def f64ToParts (p bias top : Nat) : F64 → Nat
  | .num s m e =>
    let sign := bitOf s * (top + 1) * 2 ^ p
    if m = 0 then sign
    else
      let k : Int := bitLen m
      let ex := k - 1 + e + bias
      if ex ≤ 0 then sign + (if 0 ≤ e + bias + p - 1 then m * 2 ^ (e + bias + p - 1).toNat else m / 2 ^ (-(e + bias + p - 1)).toNat)
      else
        let fr := if k ≤ p + 1 then m * 2 ^ (p + 1 - k).toNat else m / 2 ^ (k - (p + 1)).toNat
        sign + ex.toNat * 2 ^ p + (fr - 2 ^ p)
  | .inf s => (bitOf s * (top + 1) + top) * 2 ^ p
  | .nan => top * 2 ^ p + 2 ^ (p - 1)

/-- Read a binary64 word. -/
def f64OfBits (w : BitVec 64) : F64 :=
  f64OfParts 52 1023 (w.toNat.testBit 63) (bits w.toNat 62 52) (bits w.toNat 51 0) 2047

/-- Write a binary64 word. -/
def f64ToBits (x : F64) : BitVec 64 := BitVec.ofNat 64 (f64ToParts 52 1023 2047 x)

/-- Read a binary32 word. -/
def f64OfBits32 (n : Nat) : F64 := f64OfParts 23 127 (n.testBit 31) (bits n 30 23) (bits n 22 0) 255

/-- Round to binary32 and write its word. -/
def f64ToBits32 (x : F64) : Nat :=
  match x with
  | .num s m e => f64ToParts 23 127 255 (roundTo 24 (-149) 128 s m e)
  | x => f64ToParts 23 127 255 x

/-! Elementary functions: their exact value by series in fixed point, rounded once. -/

/-- π in units of 2^-384. -/
def fixPi : Int := 0x3243f6a8885a308d313198a2e03707344a4093822299f31d0082efa98ec4e6c89452821e638d01377be5466cf34e90c6c
/-- The natural logarithm of 2 in units of 2^-384. -/
def fixLn2 : Int := 0xb17217f7d1cf79abc9e3b39803f2f6af40f343267298b62d8a0d175b8baafa2be7b876206debac98559552fb4afa1b10

/-- A finite value in units of 2^-384. -/
def fixOf : F64 → Int
  | .num s m e => if 0 ≤ e + 384 then signedM s m * 2 ^ (e + 384).toNat else Int.fdiv (signedM s m) (2 ^ (-(e + 384)).toNat)
  | _ => 0

/-- `n` terms of a power series in units of 2^-256: each term is the one before times `q`, over the product of the next `by'` whole
numbers from `k` on. -/
def fixSeries (by' : Nat) (q : Int) : Nat → Nat → Int → Int
  | 0, _, _ => 0
  | n + 1, k, t => t + fixSeries by' q n (k + by') (Int.fdiv (t * q) (2 ^ 256 * (if by' = 1 then k else k * (k + 1))))

/-- Sine of `x` plus `turn` quarter turns, `x` in units of 2^-384 and the result in units of 2^-256. -/
def fixSin (turn x : Int) : Int :=
  let n := Int.fdiv (4 * x + fixPi) (2 * fixPi)
  let r := Int.fdiv (2 * x - n * fixPi) (2 ^ 129)
  let q := -Int.fdiv (r * r) (2 ^ 256)
  let s := if (n + turn) % 2 = 0 then fixSeries 2 q 48 2 r else fixSeries 2 q 48 1 (2 ^ 256)
  if (n + turn) % 4 < 2 then s else -s

/-- A value too small to differ from its sine, or too large to be an angle. -/
def outOfTrig : F64 → Bool
  | .num _ m e => decide (m = 0 ∨ bitLen m + e < -120 ∨ 90 < bitLen m + e)
  | _ => true

/-- Sine; beyond 2^90, where a binary64 tells no angle apart, not a number. -/
def f64Sin (x : F64) : F64 :=
  if outOfTrig x then (if f64Le (f64Abs x) (f64OfInt 1) then x else .nan)
  else let v := fixSin 0 (fixOf x); roundF64 (decide (v < 0)) v.natAbs (-256)

/-- Cosine, likewise. -/
def f64Cos (x : F64) : F64 :=
  if outOfTrig x then (if f64Le (f64Abs x) (f64OfInt 1) then f64OfInt 1 else .nan)
  else let v := fixSin 1 (fixOf x); roundF64 (decide (v < 0)) v.natAbs (-256)

/-- The angle from 0 to π whose cosine is `c` (units of 2^-256), by halving the interval. -/
def fixAcos (c : Int) : Nat → Int → Int → Int
  | 0, lo, _ => lo
  | k + 1, lo, hi => let m := (lo + hi) / 2; if c ≤ fixSin 1 m then fixAcos c k m hi else fixAcos c k lo m

/-- Arc cosine; outside -1 to 1 not a number. -/
def f64Acos (x : F64) : F64 :=
  if f64Le (f64Abs x) (f64OfInt 1) then roundF64 false (fixAcos (Int.fdiv (fixOf x) (2 ^ 128)) 160 0 fixPi).natAbs (-384) else .nan

/-- Exponential. -/
def f64Exp (x : F64) : F64 :=
  if f64Lt (f64Abs x) (f64OfInt 2000) then
    let v := fixOf x
    let n := Int.fdiv (2 * v + fixLn2) (2 * fixLn2)
    roundF64 false (fixSeries 1 (Int.fdiv (v - n * fixLn2) (2 ^ 128)) 64 1 (2 ^ 256)).natAbs (n - 256)
  else if f64Lt x f64Zero then f64Zero
  else if f64Lt f64Zero x then .inf false
  else .nan

/-- A binary32 word that is finite. -/
def finite32 (n : Nat) : Bool := decide (bits n 30 23 ≠ 255)

/-! Placement of links (R272, Table 7-8). -/

/-- A point or vector in FP64. -/
structure P3 where
  x : F64
  y : F64
  z : F64
  deriving DecidableEq, Repr

/-- A frame: rows of the rotation and the origin. -/
structure Frame3 where
  r0 : P3
  r1 : P3
  r2 : P3
  t : P3
  deriving DecidableEq, Repr

/-- Sum of three products, left to right. -/
def dot3 (a b : P3) : F64 := f64Add (f64Add (f64Mul a.x b.x) (f64Mul a.y b.y)) (f64Mul a.z b.z)

/-- Sum of vectors. -/
def p3Add (a b : P3) : P3 := ⟨f64Add a.x b.x, f64Add a.y b.y, f64Add a.z b.z⟩

/-- Difference of vectors. -/
def p3Sub (a b : P3) : P3 := ⟨f64Sub a.x b.x, f64Sub a.y b.y, f64Sub a.z b.z⟩

/-- Length of a vector. -/
def p3Norm (a : P3) : F64 := f64Sqrt (dot3 a a)

/-- Columns of a rotation. -/
def colOf (f : Frame3) : Nat → P3
  | 0 => ⟨f.r0.x, f.r1.x, f.r2.x⟩
  | 1 => ⟨f.r0.y, f.r1.y, f.r2.y⟩
  | _ => ⟨f.r0.z, f.r1.z, f.r2.z⟩

/-- A point of frame `f` in the frame outside it. -/
def framePoint (f : Frame3) (p : P3) : P3 :=
  p3Add ⟨dot3 f.r0 p, dot3 f.r1 p, dot3 f.r2 p⟩ f.t

/-- Frame `g`, given in `f`, in the frame outside `f`. -/
def frameMul (f g : Frame3) : Frame3 :=
  let row := fun r => (⟨dot3 r (colOf g 0), dot3 r (colOf g 1), dot3 r (colOf g 2)⟩ : P3)
  { r0 := row f.r0, r1 := row f.r1, r2 := row f.r2, t := framePoint f g.t }

/-- Frame of an origin and a rotation vector (Table 7-8): Rodrigues' formula. -/
def frameOfVector (t v : P3) : Frame3 :=
  let th := p3Norm v
  let one := f64OfInt 1
  let z := f64Zero
  if f64Lt z th then
    let k : P3 := ⟨f64Div v.x th, f64Div v.y th, f64Div v.z th⟩
    let s := f64Sin th
    let c := f64Cos th
    let w := f64Sub one c
    let e := fun a b => f64Mul (f64Mul a b) w
    { r0 := ⟨f64Add c (e k.x k.x), f64Sub (e k.x k.y) (f64Mul k.z s), f64Add (e k.x k.z) (f64Mul k.y s)⟩
      r1 := ⟨f64Add (e k.y k.x) (f64Mul k.z s), f64Add c (e k.y k.y), f64Sub (e k.y k.z) (f64Mul k.x s)⟩
      r2 := ⟨f64Sub (e k.z k.x) (f64Mul k.y s), f64Add (e k.z k.y) (f64Mul k.x s), f64Add c (e k.z k.z)⟩
      t := t }
  else { r0 := ⟨one, z, z⟩, r1 := ⟨z, one, z⟩, r2 := ⟨z, z, one⟩, t := t }

/-- Six FP64 words as an origin and a rotation vector. -/
def frameOfWords (ws : List (BitVec 64)) : Frame3 :=
  let g := fun i => f64OfBits (ws.getD i 0)
  frameOfVector ⟨g 0, g 1, g 2⟩ ⟨g 3, g 4, g 5⟩

/-- The transform of a joint at value `q` (rad or mm): modified Denavit–Hartenberg, with the motion in theta or d. -/
def frameOfJoint (j : ModelJoint) (q : F64) : Frame3 :=
  let al := f64OfBits j.alpha
  let th := if j.prismatic then f64OfBits j.theta else f64Add (f64OfBits j.theta) q
  let dd := if j.prismatic then f64Add (f64OfBits j.dOff) q else f64OfBits j.dOff
  let ca := f64Cos al
  let sa := f64Sin al
  let ct := f64Cos th
  let st := f64Sin th
  { r0 := ⟨ct, f64Neg st, f64Zero⟩
    r1 := ⟨f64Mul st ca, f64Mul ct ca, f64Neg sa⟩
    r2 := ⟨f64Mul st sa, f64Mul ct sa, ca⟩
    t := ⟨f64OfBits j.a, f64Neg (f64Mul sa dd), f64Mul ca dd⟩ }

/-- Joint value in rad or mm from a count and the joint's scale. -/
def jointValue (j : ModelJoint) (count : F64) : F64 := f64Div count (f64OfBits j.scale)

/-- The frames of an arm, base first, then the frame of each joint after its motion, from the joint values. -/
def armFrames (m : ArmModel) (qs : List F64) : List Frame3 :=
  ((m.joints.zip qs).foldl (fun (acc : List Frame3) p =>
    match acc with
    | f :: _ => frameMul f (frameOfJoint p.1 p.2) :: acc
    | [] => acc) [frameOfWords m.base]).reverse

end Sys2Proof.Machine
end

