-- ==== Sys2Proof/Machine/RegMap.lean ====
section
/-!
DEFINITION. The register map: one name per register field of the spec's register tables (chapters 02 to 17), with the
field's byte offset in BAR0, its bits, access code (Table 0-2), change class (Table 0-3), reset value and the strides of
its arrays, and the register file, which holds the fields that differ from their reset values. Written out from the
tables; R445 and Table 15-1 give the block bases.
-/
namespace Sys2Proof.Machine

/-- Every field of the register tables. Block, register and field names as the spec writes them (index letters dropped). -/
inductive RegField where
  | BLF_CFG_PERIOD
  | BLF_CFG_SOURCE
  | BLF_STATUS_STATE
  | BLF_STATUS_JUMP_REFUSED
  | BLF_STATUS_TIME_DIVERGED
  | BLF_STATUS_SOURCE_LOST
  | BLF_STATUS_TT_LATE
  | BLF_STATUS_TT_REJECT
  | BLF_STATUS_EPOCH_SET
  | BLF_STATUS_BUSY
  | BLF_TIME_NS_NS
  | BLF_FRAME_NO_NO
  | BLF_FRAME_SNAP_NO
  | BLF_LATCH_OFFSET
  | BLF_PHASE_PHASE
  | BLF_JUMP_THR_THR_NS
  | BLF_SLEW_MAX_PPM
  | BLF_OFFSET_NS
  | BLF_RATE_PPB
  | BLF_EPOCH_LO_NS
  | BLF_EPOCH_HI_NS
  | BLF_ACQUIRE_GO
  | BLF_PTP_CFG_EN
  | BLF_PTP_CFG_ROLE
  | BLF_PTP_CFG_DELAY
  | BLF_PTP_CFG_TRANSPORT
  | BLF_PTP_CFG_DOMAIN
  | BLF_PTP_CFG_LOG_SYNC
  | BLF_PTP_CFG_LOG_DELAY
  | BLF_PTP_CFG_ONESTEP_CNT
  | BLF_PTP_LAT_RX_NS
  | BLF_PTP_LAT_TX_NS
  | BLF_SOF_TX_NS
  | BLF_SOF_RX_NS
  | BLF_TT_CTRL_MODE
  | BLF_TT_CTRL_POL
  | BLF_TT_CTRL_ARMED
  | BLF_TT_START_NS
  | BLF_TT_PERIOD_NS
  | BLF_TT_WIDTH_NS
  | BLF_TT_DIV_DIV
  | BLF_TT_DIV_PHASE
  | LN_STATUS_STATE
  | LN_STATUS_IN_VOTE
  | LN_STATUS_LANE_DEBUG
  | LN_STATUS_FAULT_LATCH
  | LN_STATUS_LOCKSTEP_MISMATCH
  | LN_STATUS_CMP_TEST_FAIL
  | LN_STATUS_CONFIG_DIVERGE
  | LN_STATUS_ARB_FAULT
  | LN_STATUS_LANE_SILENT
  | LN_STATUS_MEM_UE
  | LN_STATUS_LANE_REJOIN
  | LN_STATUS_TICK_LOST
  | LN_STATUS_INPUT_DISAGREE
  | LN_STATUS_REJOIN_LIMIT
  | LN_CMP_TEST_NEXT_GROUP
  | LN_CMP_TEST_FAIL_GROUP
  | LN_CMP_TEST_PASS_CNT
  | LN_DIGEST_LO_DIGEST
  | LN_DIGEST_HI_DIGEST
  | LN_EXCH_ERR_CRC_P1
  | LN_EXCH_ERR_LATE_P1
  | LN_EXCH_ERR_CRC_P2
  | LN_EXCH_ERR_LATE_P2
  | LN_ARB_ROUNDS
  | LN_ARB_LAST_OUTCOME
  | LN_ARB_LAST_TEST
  | LN_MEM_CE_CNT
  | LN_MEM_SCRUB_PASS
  | LN_REJOIN_FAULTS_60MIN
  | LN_REJOIN_COUNT
  | LN_DISAGREE_INPUT_CNT
  | LN_DISAGREE_SILENT_CNT
  | SAF_DEG_STATUS_ACTIVE
  | SAF_DEG_STATUS_EXPIRED
  | SAF_DEG_STATUS_TIGHTENED
  | SAF_DEG_STATUS_SUPPLY_WARN
  | SAF_DEG_REMAIN_MS
  | SAF_DEG_HEALTHY_MS
  | SAF_FAULT_FIRST_KIND
  | SAF_FAULT_FIRST_INDEX
  | SAF_FAULT_FIRST_EVENT
  | SAF_FAULT_SECOND_KIND
  | SAF_FAULT_SECOND_INDEX
  | SAF_FAULT_SECOND_EVENT
  | SAF_LINK_GOOD
  | SAF_LINK_LINK_FAULT
  | SAF_LANE_OUT_RING_LOST
  | SAF_LANE_OUT_OVERRUN
  | SAF_LANE_OUT_LINK_OUT
  | SAF_BRK_STAT_RELEASED
  | SAF_BRK_STAT_LOCKED
  | SAF_BRK_STAT_BRAKE_FAULT
  | SAF_BRK_STAT_SENSE_FAULT
  | SAF_BRK_STAT_PT_DUE
  | SAF_BRK_STAT_PT_FAIL
  | SAF_BRK_STAT_PT_FAIL_STEP
  | SAF_BRK_STAT_GATE
  | SAF_BRK_STAT_PENDING
  | SAF_BRK_STAT_I_MEAN
  | SAF_PT_AGE_DARK_MIN
  | SAF_PT_AGE_LIGHT_MIN
  | ENT_STAT_LINK0
  | ENT_STAT_LINK1
  | ENT_STAT_BREAK
  | ENT_STAT_BREAK_OK
  | ENT_STAT_BYPASS_CLOSED
  | ENT_STAT_BUSY
  | ENT_STAT_TURN_ID
  | ENT_STAT_HOP0
  | ENT_STAT_HOP1
  | ENT_TRING_NS
  | ENT_BUDGET_B_USED
  | ENT_BUDGET_B_MAX
  | ENT_EVCFG_ERR_THR
  | ENT_P_CNT0_CODE_ERR
  | ENT_P_CNT0_CRC_ERR
  | ENT_P_CNT1_POISON
  | ENT_P_CNT1_LATE
  | ENT_P_CNT2_TURNED
  | ENT_P_CNT2_SYNC_LOSS
  | ENT_P_ERRID_ERR_ID
  | ENT_P_ERRID_ERR_CNT
  | ENT_START_STATE
  | ENT_START_MASTER_ID
  | ENT_START_FOREIGN
  | ENT_START_STARTS
  | ENT_SCHED_SCHED_ID
  | ENT_SCHED_ENTRIES
  | ENT_SCHED_N
  | ENT_GUARD_NS
  | ENT_GUARD_ADMITTED
  | ENT_GUARD_REMOVALS
  | ENT_NODE_NODE_ID
  | ENT_NODE_STATE
  | ENT_NODE_SPARE
  | ENT_NODE_CLAIMED
  | ENT_NODE_MASTER_CAP
  | ENT_NODE_POS
  | ENT_NODE_READMITS
  | ENT_NODE_SYNC_ERR
  | ENT_NODE_GUARD_CNT
  | PLN_CFG_RESERVE
  | PLN_CFG_ZONE_GAP
  | PLN_CFG2_ZONE_WAIT
  | PLN_STATUS_BUSY
  | PLN_STATUS_COMMIT_LATE
  | PLN_STATUS_DECEL_CLAMPED
  | PLN_STATUS_STORE_LOW
  | PLN_STATUS_STORE_DRAIN
  | PLN_STATUS_IK_LOAD
  | PLN_ARM_STAT_STATE
  | PLN_ARM_STAT_QUEUED
  | PLN_ARM_STAT_DECEL_CLAMPED
  | PLN_ARM_STAT_DRAINED
  | PLN_ARM_STAT_STORE_LOW
  | PLN_ARM_STAT_CAPPED
  | PLN_ARM_STAT_COUPLED
  | PLN_ARM_ZONES_HELD
  | PLN_ARM_ZWAIT_REQ
  | PLN_ARM_DEPTH_FRAMES
  | PLN_ZONE_OWNER
  | PLN_ZONE_WAITERS
  | PLN_MST_CFG_SRC
  | PLN_MST_CFG_IDX
  | PLN_MST_DML_CPS2
  | PLN_MST_STAT_VALID
  | PLN_MST_STAT_MASTER_LOST
  | PLN_TRK_MASTER
  | PLN_TRK_UM_PER_CNT
  | PLN_TRK_DIR
  | PLN_VLIM_LO_CNT
  | PLN_VLIM_HI_CNT
  | MIL_STATUS_BUSY
  | MIL_STATUS_ENG_FAULT
  | MIL_STATUS_ANY_MISS
  | MIL_STATUS_TLM_OVERFLOW
  | MIL_STATUS_SPARES
  | MIL_MAP_PHYS
  | MIL_ENG_STAT_STATE
  | MIL_ENG_STAT_CAUSE
  | MIL_ENG_STAT_LOGICAL
  | MIL_ENG_STAT_KAT_PASS
  | MIL_SLOT_STAT_DEADLINE_MISS
  | MIL_SLOT_STAT_MISS_RUN
  | MIL_SLOT_STAT_MISS3
  | MIL_TBL_SEL_JOINT
  | MIL_TBL_SEL_BANK
  | MIL_TBL_SEL_POINT
  | MIL_TBL_E_E
  | MIL_TBL_G_G
  | MIL_TLM_CTRL_EN
  | MIL_TLM_BASE_LO_ADDR
  | MIL_TLM_BASE_HI_ADDR
  | MIL_TLM_SIZE_RECORDS
  | MIL_TLM_WR_IDX
  | MIL_TLM_RD_IDX
  | MIL_TLM_SEL_SRC
  | MIL_TLM_SEL_CHAN
  | MIL_TLM_SEL_VALID
  | MIL_J_CTRL_EN
  | MIL_J_CTRL_OUT_INV
  | MIL_J_CTRL_BANK
  | MIL_J_OBS_F_OBS
  | MIL_J_KVF_V
  | MIL_J_KAF_V
  | MIL_J_KV_V
  | MIL_J_KI_V
  | MIL_J_UMAX_U
  | MIL_J_DUMAX_DU
  | MIL_J_UOFF_U
  | MIL_J_STAT_DEADLINE_MISS
  | MIL_J_STAT_MISS_RUN
  | MIL_J_STAT_MISS3
  | MIL_J_STAT_FROZEN
  | MIL_J_STAT_LIMITED
  | MIL_J_STAT_SEG_BAD
  | MIL_J_STAT_TBL_REJECT
  | MIL_J_STAT_PARAM_REJECT
  | MIL_J_STAT_GRANTED
  | MIL_J_STAT_COAST
  | MIL_J_MISS_CNT
  | MIL_J_EP_V
  | MIL_J_UOUT_U
  | MIL_J_VHAT_V
  | COM_STATUS_ACTIVE
  | COM_STATUS_VOTE_SPLIT
  | COM_STATUS_SENSOR_FALLBACK
  | COM_STATUS_ENVELOPE_EXIT
  | COM_STATUS_COM_OVERRUN
  | COM_STATUS_ARM_STALE
  | COM_STATUS_SEP_REDUCE
  | COM_STATUS_SEP_STOP
  | COM_PASS_NO
  | COM_PAIRS_COUNT
  | COM_PAIRS_CAPSULES
  | COM_LANE_LAST_STATUS
  | COM_LANE_OVERRUN_CNT
  | COM_LANE_OUTLIER_CNT
  | COM_ARM_D_MM
  | COM_ARM_SP_MM
  | COM_ARM_RES_PAIR_IDX
  | COM_ARM_RES_REACTION
  | COM_ARM_RES_FLAGS
  | COM_ARM_RES_AGREE
  | COM_ARM_CNT_STOPS
  | COM_ARM_CNT_REDUCE
  | COM_VOL_PRESENT
  | COM_VOL_FALLBACK
  | COM_VOL_OBSTACLE
  | COM_VOL_SENSOR
  | COM_VOL_V_MMS
  | SAF_SAFE_OK_LEVEL
  | SAF_SAFE_OK_DISC_ANY
  | SAF_SI_STAT_CH1
  | SAF_SI_STAT_CH2
  | SAF_SI_STAT_ACTIVE
  | SAF_SI_STAT_MIXED
  | SAF_SI_STAT_DISC
  | SAF_SI_STAT_DISC_EV
  | SAF_SI_STAT_FUNC
  | SAF_SI_STAT_DISC_CNT
  | SAF_UNIT_STAT_FUNC
  | SAF_UNIT_STAT_TORQUE
  | SAF_UNIT_STAT_BRAKE_REL
  | SAF_UNIT_STAT_SLS_SET
  | SAF_UNIT_STAT_ACK_PEND
  | SAF_UNIT_STAT_SLS_VIOL
  | SAF_UNIT_STAT_SLP_VIOL
  | SAF_UNIT_STAT_RAMP_VIOL
  | SAF_UNIT_STAT_SOS_VIOL
  | SAF_UNIT_STAT_STANDSTILL
  | SAF_UNIT_STAT_DISABLED
  | SAF_UNIT_STAT_CAUSE
  | SAF_PKG_STAT_STATE
  | SAF_PKG_STAT_RESULT
  | SAF_PKG_STAT_ENROLLED
  | SAF_PKG_STAT_KEY_SLOT
  | SAF_PKG_APPLIED_SEQ
  | SAF_PKG_PEND_SEQ
  | SAF_PKG_FAIL_OFFSET
  | SAF_DBG_LANE_LANE
  | SAF_DBG_ADDR_ADDR
  | SAF_DBG_DATA_DATA
  | FBK_CFG_EN
  | FBK_CFG_MODE
  | FBK_CFG_FILT
  | FBK_CFG_REF_MODE
  | FBK_CFG_DIR_SRC
  | FBK_CFG_INV
  | FBK_CFG_Z_AB
  | FBK_OBS_F_OBS
  | FBK_VLOW_V
  | FBK_EIMAX_US
  | FBK_TEETH_N
  | FBK_TEETH_MISS
  | FBK_CPR_N
  | FBK_SER0_LEN
  | FBK_SER0_LEAD
  | FBK_SER0_TRAIL
  | FBK_SER0_GRAY
  | FBK_SER0_DOUBLE
  | FBK_SER0_ERR_BIT
  | FBK_SER0_WARN_BIT
  | FBK_SER0_CRC_LEN
  | FBK_SER0_DLY
  | FBK_SER1_CRC_POLY
  | FBK_SER1_CLK_KHZ
  | FBK_SER2_TM_US
  | FBK_SER2_ACK_MAX
  | FBK_SER2_MAXD
  | FBK_STAT_VALID
  | FBK_STAT_CHAN_FAULT
  | FBK_STAT_LOW
  | FBK_STAT_REF_SEEN
  | FBK_STAT_QUAD_ERR
  | FBK_STAT_REF_ERR
  | FBK_STAT_SER_ERR
  | FBK_STAT_WARN
  | FBK_STAT_FB_CFG_REJECT
  | FBK_STAT_BUSY
  | FBK_ERR_QUAD_CNT
  | FBK_ERR_REF_CNT
  | FBK_ERR_CRC_CNT
  | FBK_ERR_OTHER_CNT
  | FBK_CNT_Y
  | FBK_REFPOS_Y
  | FBK_VEL_V
  | FBK_ACC_A
  | FBK_CTRL_CLR
  | FBK_CTRL_PRESET
  | FBK_PRESET_Y
  | FBK_LDLY_NS
  | STP_CFG_MODE
  | STP_CFG_OUT_FMT
  | STP_CFG_DIR_INV
  | STP_CFG_EN_POL
  | STP_CFG_STEP_POL
  | STP_CFG_STANDBY
  | STP_CFG_STALL_ACT
  | STP_CFG_DEV_EN
  | STP_CFG_REP_SRC
  | STP_TIME_STEP_HI
  | STP_TIME_DIR_SETUP
  | STP_WAKE_WAKE_US
  | STP_WAKE_IDLE_MS
  | STP_RATIO_NUM
  | STP_RATIO_DEN
  | STP_ENC_ENC_NUM
  | STP_ENC_ENC_DEN
  | STP_DEV_DEV_WIN
  | STP_DEV_STALL_FR
  | STP_VLIM_LO_STEPS
  | STP_VLIM_HI_STEPS
  | STP_STALL_STEPS
  | STP_CTRL_RUN
  | STP_CTRL_REARM
  | STP_STAT_HELD
  | STP_STAT_STANDBY_ON
  | STP_STAT_LOST_STEP
  | STP_STAT_STALL
  | STP_STAT_FB_LOST
  | STP_STAT_STEP_LIMIT
  | STP_STAT_VLIM_HIT
  | STP_STAT_REP_OVF
  | STP_STAT_SP_CFG_REJECT
  | STP_STAT_GRANTED
  | STP_STAT_BUSY
  | STP_POS_S
  | STP_DEVV_E
  | STP_LAG_STEPS
  | ADC_CFG_LP
  | ADC_REF_EN
  | ADC_REF_READY
  | ADC_STATUS_BUSY
  | ADC_STATUS_CHK_FAIL
  | ADC_STATUS_TRIG_EARLY
  | ADC_STATUS_SEQ_ACTIVE
  | ADC_STATUS_TRIG_QUEUED
  | ADC_STATUS_CORR_RESTORE
  | ADC_STATUS_SEQ_CFG_REJECT
  | ADC_CNT_TRIG_OVERRUN
  | ADC_CNT_CHK_FAIL_CNT
  | ADC_SNAP_FRAME_NO
  | ADC_SEQ_CTRL_EN
  | ADC_SEQ_CTRL_TRIG_SRC
  | ADC_SEQ_CTRL_GO
  | ADC_SEQ_CTRL_CLR_ON_START
  | ADC_SEQ_CTRL_LEN0
  | ADC_SEQ_CTRL_LEN1
  | ADC_CH_STAT_OVR
  | ADC_CH_STAT_OVR_CNT
  | ADC_CORR_OFFSET
  | ADC_CORR_GAIN
  | ADC_FRAME_MEAN
  | ADC_FRAME_MAX
  | ADC_FRAME_MIN
  | ADC_FRAME_COUNT
  | ADC_SEQ0_E_CHAN
  | ADC_SEQ0_E_OVS
  | ADC_SEQ0_E_SETTLE
  | ADC_SEQ0_E_DEST
  | ADC_SEQ1_E_CHAN
  | ADC_SEQ1_E_OVS
  | ADC_SEQ1_E_SETTLE
  | ADC_SEQ1_E_DEST
  | ADC_UA_SUM_SUM
  | ADC_UA_CNT_COUNT
  | ADC_UA_CNT_FULL
  | ADC_UA_MM_MIN
  | ADC_UA_MM_MAX
  | ADC_UA_CLR_CLR
  | SMY_CTRL_RUN
  | SMY_CTRL_HALT_REQ
  | SMY_CTRL_START
  | SMY_CFG_TRIG_SRC
  | SMY_CFG_FRAC
  | SMY_CFG_ENTRY
  | SMY_BUDGET_CLK
  | SMY_STAT_ACTIVE
  | SMY_STAT_QUEUED
  | SMY_STAT_SAT
  | SMY_STAT_ILLEGAL
  | SMY_STAT_BUDGET_EXCEEDED
  | SMY_STAT_BUSY
  | SMY_STAT_PC
  | SMY_CNT_TRIG_OVERRUN
  | SMY_CNT_RUNS
  | SMY_CYC_LAST
  | SMY_CYC_MAX
  | SMY_PADDR_ADDR
  | SMY_PDATA_WORD
  | SMY_DADDR_ADDR
  | SMY_DADDR_Y
  | SMY_DDATA_WORD
  | SMY_OUT_V
  | SMY_SIG_CODE
  | SMY_SIG_DROPPED
  | RVE_CFG_RUN_MAX_US
  | RVE_STATUS_BUSY
  | RVE_STATUS_OVERLONG
  | RVE_STATUS_POOL_LOW
  | RVE_STATUS_LANE_OVF
  | RVE_STATUS_NO_TASK
  | RVE_CNT_FREE_ITEMS
  | RVE_CNT_TASKS
  | RVE_CNT_ETH_DROP
  | RVE_CNT_POOL_EMPTY
  | RVE_CORE_SLOTS
  | RVE_CORE_TASK
  | RVE_CORE_RUNNING
  | RVE_CORE_RUN_CLK
  | RVE_CORE_DISPLACED
  | RVE_CORE_OVERLONG_CNT
  | RVE_TASK_STAT_STATE
  | RVE_TASK_STAT_KIND
  | RVE_TASK_STAT_PRIO
  | RVE_TASK_STAT_AFFINITY
  | RVE_TASK_STAT_SIGNAL
  | RVE_TASK_STAT_CANCEL_REQ
  | RVE_TASK_STAT_FLOW
  | RVE_TASK_QUEUE_ITEMS
  | RVE_TASK_QUEUE_RUNS
  | RVE_FLOW_CFG_MODE
  | RVE_FLOW_CFG_NEXT
  | RVE_FLOW_STAT_REL
  | RVE_FLOW_STAT_HELD
  | RVE_FLOW_STAT_BLOCKED
  | HST_CFG_POLL_US
  | HST_CFG_HINT_US
  | HST_CFG_HINT_EN
  | HST_DB_BASE_LO_ADDR
  | HST_DB_BASE_HI_ADDR
  | HST_STATUS_BUSY
  | HST_STATUS_LINK_UP
  | HST_STATUS_IN_FLIGHT
  | HST_STATUS_IMM_FLIGHT
  | HST_CNT_REJECTS
  | HST_CNT_REPLAYS
  | HST_EVQ_BASE_LO_ADDR
  | HST_EVQ_BASE_HI_ADDR
  | HST_EVQ_CFG_EN
  | HST_EVQ_CFG_SIZE
  | HST_EVQ_STAT_TAIL
  | HST_EVQ_STAT_LOST
  | HST_SQ_BASE_LO_ADDR
  | HST_SQ_BASE_HI_ADDR
  | HST_SQ_CFG_EN
  | HST_SQ_CFG_SEQ_RESET
  | HST_SQ_CFG_CQ
  | HST_SQ_CFG_SIZE
  | HST_SQ_STAT_HEAD
  | HST_SQ_STAT_Q_ERR
  | HST_SQ_STAT_IN_FLIGHT
  | HST_CQ_BASE_LO_ADDR
  | HST_CQ_BASE_HI_ADDR
  | HST_CQ_CFG_EN
  | HST_CQ_CFG_SIZE
  | HST_CQ_STAT_TAIL
  | HST_CQ_STAT_PHASE
  | HST_CQ_STAT_Q_ERR
  | HST_CQ_STAT_OWED
  | SYS_ID_STEP
  | SYS_ID_PART
  | SYS_ID_VENDOR
  | SYS_SERIAL_LO_SN
  | SYS_SERIAL_HI_SN
  | SYS_FW_VERSION_CODE
  | SYS_ROM_VERSION_CODE
  | SYS_BOOT_COUNT_N
  | SYS_MODE_MODE
  | SYS_MODE_FW_SLOT
  | SYS_MODE_CFG_SLOT
  | SYS_MODE_HOLD_CAUSE
  | SYS_STATUS_LOCK_VIOL
  | SYS_STATUS_BUSY_DROP
  | SYS_STATUS_BUSY_REJECT
  | SYS_STATUS_PAIR_REJECT
  | SYS_STATUS_ACCESS_ERR
  | SYS_STATUS_BOOT_DONE
  | SYS_COMMIT_GO
  | SYS_COMMIT_ABORT
  | SYS_COMMIT_STAT_PENDING
  | SYS_COMMIT_STAT_ARMED
  | SYS_COMMIT_STAT_LATE
  | SYS_COMMIT_STAT_COUNT
  | SYS_COMMIT_FRAME_FRAME
  | SYS_LOCK_LOCK
  | SYS_ACCESS_ALIAS_EN
  | SYS_BUSY_BLF
  | SYS_BUSY_ENT
  | SYS_BUSY_PLN
  | SYS_BUSY_MIL
  | SYS_BUSY_RVE
  | SYS_BUSY_HST
  | SYS_BUSY_ADC
  | SYS_BUSY_SMY
  | SYS_BUSY_PWR
  | SYS_BUSY_GRP
  | SYS_BUSY_PORTS
  | SYS_ERR_CNT0_LOCK_VIOL_CNT
  | SYS_ERR_CNT0_ACCESS_ERR_CNT
  | SYS_ERR_CNT1_BUSY_DROP_CNT
  | SYS_ERR_CNT1_BUSY_REJECT_CNT
  | SYS_ERR_LAST_ADDR
  | SYS_ERR_LAST_CAUSE
  | SYS_ERR_LAST_MASTER
  | SYS_CAPS0_ARMS
  | SYS_CAPS0_JOINTS
  | SYS_CAPS1_LOCAL_AXES
  | SYS_CAPS1_PORTS
  | SYS_CAPS2_DEVICES
  | SYS_CAPS2_DEPTH
  | SYS_CAPS2_UNIT_ADDR
  | SYS_SCRATCH_V
  | SYS_REGDIG_CTRL_GO
  | SYS_REGDIG_CTRL_DONE
  | SYS_REGDIG_LO_CRC
  | SYS_REGDIG_HI_CRC
  | SYS_BLK_BASE
  | SYS_BLK_SIZE
  | SYS_BLK_WORDS
  | CRI_LOG_OLD_SEQ
  | CRI_LOG_NEW_SEQ
  | CRI_LOG_OVW_CNT
  | CRI_STAT_COPYING
  | CRI_STAT_QUEUE_FULL
  | CRI_SRC_CNT_N
  | CRI_SRC_LAST_CODE
  | CRI_SRC_LAST_FRAME
  | GRP_STATUS_BUSY
  | GRP_STATUS_ROLE
  | GRP_STATUS_GSTATE
  | GRP_STATUS_QUARANTINED
  | GRP_STATUS_PARTITION
  | GRP_STATUS_MEMBER_LOST
  | GRP_STATUS_DIGEST_MISMATCH
  | GRP_STATUS_VERSION_MISMATCH
  | GRP_STATUS_FRAME_ALIGNED
  | GRP_STATUS_TIME_SLEW
  | GRP_STATUS_STEWARD_LOST
  | GRP_SELF_SLOT
  | GRP_SELF_LEVELS
  | GRP_SELF_UNIT_ADDR
  | GRP_STEWARD_SLOT
  | GRP_STEWARD_UNIT_ADDR
  | GRP_DEPUTY_SLOT
  | GRP_DEPUTY_NONE
  | GRP_DEPUTY_UNIT_ADDR
  | GRP_PRESENT_MASK
  | GRP_PRESENT_QUAR
  | GRP_PRESENT_ELIGIBLE
  | GRP_CYCLE_FRAME
  | GRP_DIG_LO_D
  | GRP_DIG_HI_D
  | GRP_STW_DIG_LO_D
  | GRP_STW_DIG_HI_D
  | GRP_STW_FW_CODE
  | GRP_CNT0_FRAMES_LOST
  | GRP_CNT0_FRAMES_BAD
  | GRP_CNT1_FORWARDED
  | GRP_CNT1_PARTITIONS
  | GRP_BUDGET_US
  | GRP_CTRL_REJOIN
  | GRP_ID_ID
  | GRP_HIST_G
  | GRP_HIST_SLOT
  | GRP_HIST_REASON
  | GRP_HIST_FRAME
  | GRP_MEM_STAT_PRESENT
  | GRP_MEM_STAT_JOINED
  | GRP_MEM_STAT_QUAR
  | GRP_MEM_STAT_LOST
  | GRP_MEM_STAT_ELIGIBLE
  | GRP_MEM_STAT_TIME_SLEW
  | GRP_MEM_STAT_GSTATE
  | GRP_MEM_STAT_KIND
  | GRP_MEM_ID_LO_ID
  | GRP_MEM_ID_HI_ID
  | GRP_MEM_ADDR_UNIT_ADDR
  | GRP_MEM_ADDR_DEPTH
  | GRP_MEM_DIG_LO_D
  | GRP_MEM_DIG_HI_D
  | GRP_MEM_FW_CODE
  | GRP_MEM_CAPS0_ARMS
  | GRP_MEM_CAPS0_JOINTS
  | GRP_MEM_CAPS1_LOCAL_AXES
  | GRP_MEM_CAPS1_PORTS
  | GRP_MEM_PATH_NS
  | GRP_MEM_CNT_LOST
  | GRP_MEM_CNT_BAD
  | GRP_MEM_LAST_FRAME
  | GRP_MAP_INDEX
  | GRP_MAP_SLOT
  | GRP_MAP_VALID
  | PWR_STATUS_BUSY
  | PWR_STATUS_SHARED_UP
  | PWR_STATUS_LANE_UP
  | PWR_STATUS_CONV_OK
  | PWR_STATUS_RESET_N
  | PWR_STATUS_TEMP_WARN
  | PWR_STATUS_TEMP_LIMIT
  | PWR_STATUS_CLK_FAULT
  | PWR_STATUS_CONV_FAULT
  | PWR_RST_CAUSE_CAUSE
  | PWR_RST_CNT0_DEVICE
  | PWR_RST_CNT0_RESET_PIN
  | PWR_RST_CNT1_LANE
  | PWR_RST_CNT1_SHARED
  | PWR_CLK_STAT_IN_WINDOW
  | PWR_CLK_STAT_REFCLK
  | PWR_CLK_STAT_RC_FAULT
  | PWR_CLK_CNT_FAULTS
  | PWR_THERM_WARN_C
  | PWR_THERM_LIMIT_C
  | PWR_DBG_STAT_UNLOCKED
  | PWR_DBG_STAT_LOCKOUT
  | PWR_DBG_STAT_FAILS
  | PWR_DBG_STAT_LANE_AUTH
  | PWR_OTP_STAT_PROGRAMMED
  | PWR_OTP_STAT_DBG_DISABLE
  | PWR_POWER_MW
  | PWR_RAIL_MV
  | PWR_RAIL_MA
  | PWR_UPTIME_LO_MS
  | PWR_UPTIME_HI_MS
  | PWR_TEMP_MAX_T
  | PWR_TEMP_MAX_SENSOR
  | PWR_CTRL_CLR_LOG
  | PWR_BOOT_MS
  | PWR_RSTLOG_CAUSE
  | PWR_RSTLOG_SCOPE
  | PWR_RSTLOG_UPTIME_S
  | PWR_SUP_STAT_PRESENT
  | PWR_SUP_STAT_WARN
  | PWR_SUP_STAT_IN_RESET
  | PWR_SUP_STAT_CONV_RUN
  | PWR_SUP_STAT_CONV_FAULT
  | PWR_SUP_VIN_MV
  | PWR_SUP_VMIN_MV
  | PWR_SUP_VMAX_MV
  | PWR_SUP_IIN_MA
  | PWR_SUP_PIN_MW
  | PWR_SUP_CNT_WARN
  | PWR_SUP_CNT_RESET
  | PWR_SUP_CONV_MV
  | PWR_SUP_HIST_VMIN
  | PWR_SUP_HIST_VMAX
  | PWR_TEMP_T
  | PWR_TEMP_MAX
  deriving DecidableEq, Repr

/-- Access codes, Table 0-2. -/
inductive Access where
  | rw | ro | rc | wo | wl | w1
  deriving DecidableEq, Repr

/-- Change classes, Table 0-3; `direct` is a field whose Class column reads a dash. -/
inductive ChangeClass where
  | live | committed | stopped | direct
  deriving DecidableEq, Repr

/-- One field's row of its register table. `dims` are (stride in bytes, count) of each array index, outermost first. -/
structure RegDesc where
  base : Nat
  hi : Nat
  lo : Nat
  access : Access
  cls : ChangeClass
  resetValue : Nat
  dims : List (Nat × Nat)
  deriving DecidableEq, Repr

/-- The register tables, one row per field. -/
def RegField.desc : RegField → RegDesc
  | .BLF_CFG_PERIOD => ⟨0x01000, 1, 0, .ro, .direct, 0, []⟩
  | .BLF_CFG_SOURCE => ⟨0x01000, 5, 4, .rw, .committed, 0, []⟩
  | .BLF_STATUS_STATE => ⟨0x01004, 2, 0, .ro, .direct, 0, []⟩
  | .BLF_STATUS_JUMP_REFUSED => ⟨0x01004, 8, 8, .rc, .direct, 0, []⟩
  | .BLF_STATUS_TIME_DIVERGED => ⟨0x01004, 9, 9, .rc, .direct, 0, []⟩
  | .BLF_STATUS_SOURCE_LOST => ⟨0x01004, 10, 10, .rc, .direct, 0, []⟩
  | .BLF_STATUS_TT_LATE => ⟨0x01004, 11, 11, .rc, .direct, 0, []⟩
  | .BLF_STATUS_TT_REJECT => ⟨0x01004, 12, 12, .rc, .direct, 0, []⟩
  | .BLF_STATUS_EPOCH_SET => ⟨0x01004, 16, 16, .rc, .direct, 0, []⟩
  | .BLF_STATUS_BUSY => ⟨0x01004, 31, 31, .ro, .direct, 0, []⟩
  | .BLF_TIME_NS_NS => ⟨0x01008, 31, 0, .ro, .direct, 0, []⟩
  | .BLF_FRAME_NO_NO => ⟨0x0100C, 31, 0, .ro, .direct, 0, []⟩
  | .BLF_FRAME_SNAP_NO => ⟨0x01010, 31, 0, .ro, .direct, 0, []⟩
  | .BLF_LATCH_OFFSET => ⟨0x01014, 12, 0, .rw, .committed, 1000, []⟩
  | .BLF_PHASE_PHASE => ⟨0x01018, 14, 0, .rw, .stopped, 0, []⟩
  | .BLF_JUMP_THR_THR_NS => ⟨0x0101C, 19, 0, .rw, .committed, 1000, []⟩
  | .BLF_SLEW_MAX_PPM => ⟨0x01020, 8, 0, .rw, .committed, 100, []⟩
  | .BLF_OFFSET_NS => ⟨0x01024, 31, 0, .ro, .direct, 0, []⟩
  | .BLF_RATE_PPB => ⟨0x01028, 31, 0, .ro, .direct, 0, []⟩
  | .BLF_EPOCH_LO_NS => ⟨0x01030, 31, 0, .ro, .direct, 0, []⟩
  | .BLF_EPOCH_HI_NS => ⟨0x01034, 31, 0, .ro, .direct, 0, []⟩
  | .BLF_ACQUIRE_GO => ⟨0x01038, 0, 0, .wo, .live, 0, []⟩
  | .BLF_PTP_CFG_EN => ⟨0x01040, 0, 0, .rw, .committed, 0, [(32, 2)]⟩
  | .BLF_PTP_CFG_ROLE => ⟨0x01040, 2, 1, .rw, .committed, 0, [(32, 2)]⟩
  | .BLF_PTP_CFG_DELAY => ⟨0x01040, 3, 3, .rw, .committed, 0, [(32, 2)]⟩
  | .BLF_PTP_CFG_TRANSPORT => ⟨0x01040, 4, 4, .rw, .committed, 0, [(32, 2)]⟩
  | .BLF_PTP_CFG_DOMAIN => ⟨0x01040, 15, 8, .rw, .committed, 0, [(32, 2)]⟩
  | .BLF_PTP_CFG_LOG_SYNC => ⟨0x01040, 18, 16, .rw, .committed, 3, [(32, 2)]⟩
  | .BLF_PTP_CFG_LOG_DELAY => ⟨0x01040, 22, 20, .rw, .committed, 3, [(32, 2)]⟩
  | .BLF_PTP_CFG_ONESTEP_CNT => ⟨0x01040, 31, 24, .rc, .direct, 0, [(32, 2)]⟩
  | .BLF_PTP_LAT_RX_NS => ⟨0x01044, 15, 0, .rw, .committed, 0, [(32, 2)]⟩
  | .BLF_PTP_LAT_TX_NS => ⟨0x01044, 31, 16, .rw, .committed, 0, [(32, 2)]⟩
  | .BLF_SOF_TX_NS => ⟨0x01080, 31, 0, .ro, .direct, 0, [(8, 6)]⟩
  | .BLF_SOF_RX_NS => ⟨0x01084, 31, 0, .ro, .direct, 0, [(8, 6)]⟩
  | .BLF_TT_CTRL_MODE => ⟨0x01100, 1, 0, .rw, .committed, 0, [(32, 8)]⟩
  | .BLF_TT_CTRL_POL => ⟨0x01100, 2, 2, .rw, .committed, 0, [(32, 8)]⟩
  | .BLF_TT_CTRL_ARMED => ⟨0x01100, 4, 4, .ro, .direct, 0, [(32, 8)]⟩
  | .BLF_TT_START_NS => ⟨0x01104, 31, 0, .rw, .committed, 0, [(32, 8)]⟩
  | .BLF_TT_PERIOD_NS => ⟨0x01108, 31, 0, .rw, .committed, 0, [(32, 8)]⟩
  | .BLF_TT_WIDTH_NS => ⟨0x0110C, 23, 0, .rw, .committed, 0, [(32, 8)]⟩
  | .BLF_TT_DIV_DIV => ⟨0x01110, 15, 0, .rw, .committed, 0, [(32, 8)]⟩
  | .BLF_TT_DIV_PHASE => ⟨0x01110, 31, 16, .rw, .committed, 0, [(32, 8)]⟩
  | .LN_STATUS_STATE => ⟨0x02000, 3, 0, .ro, .direct, 0, [(4096, 3)]⟩
  | .LN_STATUS_IN_VOTE => ⟨0x02000, 4, 4, .ro, .direct, 0, [(4096, 3)]⟩
  | .LN_STATUS_LANE_DEBUG => ⟨0x02000, 5, 5, .ro, .direct, 0, [(4096, 3)]⟩
  | .LN_STATUS_FAULT_LATCH => ⟨0x02000, 6, 6, .ro, .direct, 0, [(4096, 3)]⟩
  | .LN_STATUS_LOCKSTEP_MISMATCH => ⟨0x02000, 8, 8, .rc, .direct, 0, [(4096, 3)]⟩
  | .LN_STATUS_CMP_TEST_FAIL => ⟨0x02000, 9, 9, .rc, .direct, 0, [(4096, 3)]⟩
  | .LN_STATUS_CONFIG_DIVERGE => ⟨0x02000, 10, 10, .rc, .direct, 0, [(4096, 3)]⟩
  | .LN_STATUS_ARB_FAULT => ⟨0x02000, 11, 11, .rc, .direct, 0, [(4096, 3)]⟩
  | .LN_STATUS_LANE_SILENT => ⟨0x02000, 12, 12, .rc, .direct, 0, [(4096, 3)]⟩
  | .LN_STATUS_MEM_UE => ⟨0x02000, 13, 13, .rc, .direct, 0, [(4096, 3)]⟩
  | .LN_STATUS_LANE_REJOIN => ⟨0x02000, 14, 14, .rc, .direct, 0, [(4096, 3)]⟩
  | .LN_STATUS_TICK_LOST => ⟨0x02000, 15, 15, .rc, .direct, 0, [(4096, 3)]⟩
  | .LN_STATUS_INPUT_DISAGREE => ⟨0x02000, 16, 16, .rc, .direct, 0, [(4096, 3)]⟩
  | .LN_STATUS_REJOIN_LIMIT => ⟨0x02000, 17, 17, .ro, .direct, 0, [(4096, 3)]⟩
  | .LN_CMP_TEST_NEXT_GROUP => ⟨0x02004, 4, 0, .ro, .direct, 0, [(4096, 3)]⟩
  | .LN_CMP_TEST_FAIL_GROUP => ⟨0x02004, 12, 8, .ro, .direct, 0, [(4096, 3)]⟩
  | .LN_CMP_TEST_PASS_CNT => ⟨0x02004, 31, 16, .ro, .direct, 0, [(4096, 3)]⟩
  | .LN_DIGEST_LO_DIGEST => ⟨0x02008, 31, 0, .ro, .direct, 0, [(4096, 3)]⟩
  | .LN_DIGEST_HI_DIGEST => ⟨0x0200C, 31, 0, .ro, .direct, 0, [(4096, 3)]⟩
  | .LN_EXCH_ERR_CRC_P1 => ⟨0x02010, 7, 0, .rc, .direct, 0, [(4096, 3)]⟩
  | .LN_EXCH_ERR_LATE_P1 => ⟨0x02010, 15, 8, .rc, .direct, 0, [(4096, 3)]⟩
  | .LN_EXCH_ERR_CRC_P2 => ⟨0x02010, 23, 16, .rc, .direct, 0, [(4096, 3)]⟩
  | .LN_EXCH_ERR_LATE_P2 => ⟨0x02010, 31, 24, .rc, .direct, 0, [(4096, 3)]⟩
  | .LN_ARB_ROUNDS => ⟨0x02014, 7, 0, .ro, .direct, 0, [(4096, 3)]⟩
  | .LN_ARB_LAST_OUTCOME => ⟨0x02014, 9, 8, .ro, .direct, 0, [(4096, 3)]⟩
  | .LN_ARB_LAST_TEST => ⟨0x02014, 21, 16, .ro, .direct, 0, [(4096, 3)]⟩
  | .LN_MEM_CE_CNT => ⟨0x02018, 15, 0, .rc, .direct, 0, [(4096, 3)]⟩
  | .LN_MEM_SCRUB_PASS => ⟨0x02018, 31, 16, .ro, .direct, 0, [(4096, 3)]⟩
  | .LN_REJOIN_FAULTS_60MIN => ⟨0x0201C, 1, 0, .ro, .direct, 0, [(4096, 3)]⟩
  | .LN_REJOIN_COUNT => ⟨0x0201C, 31, 16, .ro, .direct, 0, [(4096, 3)]⟩
  | .LN_DISAGREE_INPUT_CNT => ⟨0x02020, 15, 0, .rc, .direct, 0, [(4096, 3)]⟩
  | .LN_DISAGREE_SILENT_CNT => ⟨0x02020, 31, 16, .rc, .direct, 0, [(4096, 3)]⟩
  | .SAF_DEG_STATUS_ACTIVE => ⟨0x05800, 0, 0, .ro, .direct, 0, []⟩
  | .SAF_DEG_STATUS_EXPIRED => ⟨0x05800, 1, 1, .rc, .direct, 0, []⟩
  | .SAF_DEG_STATUS_TIGHTENED => ⟨0x05800, 2, 2, .ro, .direct, 0, []⟩
  | .SAF_DEG_STATUS_SUPPLY_WARN => ⟨0x05800, 5, 3, .ro, .direct, 0, []⟩
  | .SAF_DEG_REMAIN_MS => ⟨0x05804, 31, 0, .ro, .direct, 4294967295, []⟩
  | .SAF_DEG_HEALTHY_MS => ⟨0x05808, 31, 0, .ro, .direct, 0, []⟩
  | .SAF_FAULT_FIRST_KIND => ⟨0x0580C, 2, 0, .ro, .direct, 0, []⟩
  | .SAF_FAULT_FIRST_INDEX => ⟨0x0580C, 12, 8, .ro, .direct, 0, []⟩
  | .SAF_FAULT_FIRST_EVENT => ⟨0x0580C, 31, 16, .ro, .direct, 0, []⟩
  | .SAF_FAULT_SECOND_KIND => ⟨0x05810, 2, 0, .ro, .direct, 0, []⟩
  | .SAF_FAULT_SECOND_INDEX => ⟨0x05810, 12, 8, .ro, .direct, 0, []⟩
  | .SAF_FAULT_SECOND_EVENT => ⟨0x05810, 31, 16, .ro, .direct, 0, []⟩
  | .SAF_LINK_GOOD => ⟨0x05814, 5, 0, .ro, .direct, 0, []⟩
  | .SAF_LINK_LINK_FAULT => ⟨0x05814, 13, 8, .rc, .direct, 0, []⟩
  | .SAF_LANE_OUT_RING_LOST => ⟨0x05818, 2, 0, .rc, .direct, 0, []⟩
  | .SAF_LANE_OUT_OVERRUN => ⟨0x05818, 6, 4, .rc, .direct, 0, []⟩
  | .SAF_LANE_OUT_LINK_OUT => ⟨0x05818, 10, 8, .rc, .direct, 0, []⟩
  | .SAF_BRK_STAT_RELEASED => ⟨0x05840, 0, 0, .ro, .direct, 0, [(4, 16)]⟩
  | .SAF_BRK_STAT_LOCKED => ⟨0x05840, 1, 1, .ro, .direct, 0, [(4, 16)]⟩
  | .SAF_BRK_STAT_BRAKE_FAULT => ⟨0x05840, 2, 2, .rc, .direct, 0, [(4, 16)]⟩
  | .SAF_BRK_STAT_SENSE_FAULT => ⟨0x05840, 3, 3, .rc, .direct, 0, [(4, 16)]⟩
  | .SAF_BRK_STAT_PT_DUE => ⟨0x05840, 4, 4, .ro, .direct, 0, [(4, 16)]⟩
  | .SAF_BRK_STAT_PT_FAIL => ⟨0x05840, 5, 5, .rc, .direct, 0, [(4, 16)]⟩
  | .SAF_BRK_STAT_PT_FAIL_STEP => ⟨0x05840, 8, 6, .ro, .direct, 0, [(4, 16)]⟩
  | .SAF_BRK_STAT_GATE => ⟨0x05840, 11, 9, .ro, .direct, 0, [(4, 16)]⟩
  | .SAF_BRK_STAT_PENDING => ⟨0x05840, 12, 12, .ro, .direct, 0, [(4, 16)]⟩
  | .SAF_BRK_STAT_I_MEAN => ⟨0x05840, 31, 16, .ro, .direct, 0, [(4, 16)]⟩
  | .SAF_PT_AGE_DARK_MIN => ⟨0x05880, 15, 0, .ro, .direct, 65535, [(4, 16)]⟩
  | .SAF_PT_AGE_LIGHT_MIN => ⟨0x05880, 31, 16, .ro, .direct, 65535, [(4, 16)]⟩
  | .ENT_STAT_LINK0 => ⟨0x07000, 0, 0, .ro, .direct, 0, [(256, 3)]⟩
  | .ENT_STAT_LINK1 => ⟨0x07000, 1, 1, .ro, .direct, 0, [(256, 3)]⟩
  | .ENT_STAT_BREAK => ⟨0x07000, 2, 2, .ro, .direct, 0, [(256, 3)]⟩
  | .ENT_STAT_BREAK_OK => ⟨0x07000, 3, 3, .ro, .direct, 0, [(256, 3)]⟩
  | .ENT_STAT_BYPASS_CLOSED => ⟨0x07000, 4, 4, .ro, .direct, 1, [(256, 3)]⟩
  | .ENT_STAT_BUSY => ⟨0x07000, 5, 5, .ro, .direct, 0, [(256, 3)]⟩
  | .ENT_STAT_TURN_ID => ⟨0x07000, 15, 8, .ro, .direct, 255, [(256, 3)]⟩
  | .ENT_STAT_HOP0 => ⟨0x07000, 23, 16, .ro, .direct, 0, [(256, 3)]⟩
  | .ENT_STAT_HOP1 => ⟨0x07000, 31, 24, .ro, .direct, 0, [(256, 3)]⟩
  | .ENT_TRING_NS => ⟨0x07004, 19, 0, .ro, .direct, 0, [(256, 3)]⟩
  | .ENT_BUDGET_B_USED => ⟨0x07008, 11, 0, .ro, .direct, 0, [(256, 3)]⟩
  | .ENT_BUDGET_B_MAX => ⟨0x07008, 27, 16, .ro, .direct, 0, [(256, 3)]⟩
  | .ENT_EVCFG_ERR_THR => ⟨0x0700C, 9, 0, .rw, .live, 16, [(256, 3)]⟩
  | .ENT_P_CNT0_CODE_ERR => ⟨0x07020, 15, 0, .rc, .direct, 0, [(256, 3), (16, 2)]⟩
  | .ENT_P_CNT0_CRC_ERR => ⟨0x07020, 31, 16, .rc, .direct, 0, [(256, 3), (16, 2)]⟩
  | .ENT_P_CNT1_POISON => ⟨0x07024, 15, 0, .rc, .direct, 0, [(256, 3), (16, 2)]⟩
  | .ENT_P_CNT1_LATE => ⟨0x07024, 31, 16, .rc, .direct, 0, [(256, 3), (16, 2)]⟩
  | .ENT_P_CNT2_TURNED => ⟨0x07028, 15, 0, .rc, .direct, 0, [(256, 3), (16, 2)]⟩
  | .ENT_P_CNT2_SYNC_LOSS => ⟨0x07028, 31, 16, .rc, .direct, 0, [(256, 3), (16, 2)]⟩
  | .ENT_P_ERRID_ERR_ID => ⟨0x0702C, 7, 0, .ro, .direct, 255, [(256, 3), (16, 2)]⟩
  | .ENT_P_ERRID_ERR_CNT => ⟨0x0702C, 15, 8, .ro, .direct, 0, [(256, 3), (16, 2)]⟩
  | .ENT_START_STATE => ⟨0x07010, 1, 0, .ro, .direct, 0, [(256, 3)]⟩
  | .ENT_START_MASTER_ID => ⟨0x07010, 15, 8, .ro, .direct, 255, [(256, 3)]⟩
  | .ENT_START_FOREIGN => ⟨0x07010, 23, 16, .rc, .direct, 0, [(256, 3)]⟩
  | .ENT_START_STARTS => ⟨0x07010, 31, 24, .rc, .direct, 0, [(256, 3)]⟩
  | .ENT_SCHED_SCHED_ID => ⟨0x07014, 15, 0, .ro, .direct, 0, [(256, 3)]⟩
  | .ENT_SCHED_ENTRIES => ⟨0x07014, 23, 16, .ro, .direct, 0, [(256, 3)]⟩
  | .ENT_SCHED_N => ⟨0x07014, 31, 24, .ro, .direct, 0, [(256, 3)]⟩
  | .ENT_GUARD_NS => ⟨0x07018, 9, 0, .ro, .direct, 250, [(256, 3)]⟩
  | .ENT_GUARD_ADMITTED => ⟨0x07018, 23, 16, .ro, .direct, 0, [(256, 3)]⟩
  | .ENT_GUARD_REMOVALS => ⟨0x07018, 31, 24, .rc, .direct, 0, [(256, 3)]⟩
  | .ENT_NODE_NODE_ID => ⟨0x07400, 7, 0, .ro, .direct, 255, [(512, 3), (8, 48)]⟩
  | .ENT_NODE_STATE => ⟨0x07400, 10, 8, .ro, .direct, 0, [(512, 3), (8, 48)]⟩
  | .ENT_NODE_SPARE => ⟨0x07400, 11, 11, .ro, .direct, 0, [(512, 3), (8, 48)]⟩
  | .ENT_NODE_CLAIMED => ⟨0x07400, 12, 12, .ro, .direct, 0, [(512, 3), (8, 48)]⟩
  | .ENT_NODE_MASTER_CAP => ⟨0x07400, 13, 13, .ro, .direct, 0, [(512, 3), (8, 48)]⟩
  | .ENT_NODE_POS => ⟨0x07400, 21, 16, .ro, .direct, 0, [(512, 3), (8, 48)]⟩
  | .ENT_NODE_READMITS => ⟨0x07400, 31, 24, .rc, .direct, 0, [(512, 3), (8, 48)]⟩
  | .ENT_NODE_SYNC_ERR => ⟨0x07404, 15, 0, .ro, .direct, 0, [(512, 3), (8, 48)]⟩
  | .ENT_NODE_GUARD_CNT => ⟨0x07404, 31, 16, .rc, .direct, 0, [(512, 3), (8, 48)]⟩
  | .PLN_CFG_RESERVE => ⟨0x10000, 10, 0, .rw, .stopped, 128, []⟩
  | .PLN_CFG_ZONE_GAP => ⟨0x10000, 25, 16, .rw, .stopped, 8, []⟩
  | .PLN_CFG2_ZONE_WAIT => ⟨0x10004, 15, 0, .rw, .committed, 0, []⟩
  | .PLN_STATUS_BUSY => ⟨0x10008, 0, 0, .ro, .direct, 0, []⟩
  | .PLN_STATUS_COMMIT_LATE => ⟨0x10008, 1, 1, .rc, .direct, 0, []⟩
  | .PLN_STATUS_DECEL_CLAMPED => ⟨0x10008, 2, 2, .rc, .direct, 0, []⟩
  | .PLN_STATUS_STORE_LOW => ⟨0x10008, 3, 3, .rc, .direct, 0, []⟩
  | .PLN_STATUS_STORE_DRAIN => ⟨0x10008, 4, 4, .rc, .direct, 0, []⟩
  | .PLN_STATUS_IK_LOAD => ⟨0x10008, 15, 8, .ro, .direct, 0, []⟩
  | .PLN_ARM_STAT_STATE => ⟨0x10100, 3, 0, .ro, .direct, 0, [(16, 36)]⟩
  | .PLN_ARM_STAT_QUEUED => ⟨0x10100, 9, 4, .ro, .direct, 0, [(16, 36)]⟩
  | .PLN_ARM_STAT_DECEL_CLAMPED => ⟨0x10100, 16, 16, .rc, .direct, 0, [(16, 36)]⟩
  | .PLN_ARM_STAT_DRAINED => ⟨0x10100, 17, 17, .rc, .direct, 0, [(16, 36)]⟩
  | .PLN_ARM_STAT_STORE_LOW => ⟨0x10100, 18, 18, .rc, .direct, 0, [(16, 36)]⟩
  | .PLN_ARM_STAT_CAPPED => ⟨0x10100, 19, 19, .ro, .direct, 0, [(16, 36)]⟩
  | .PLN_ARM_STAT_COUPLED => ⟨0x10100, 31, 24, .ro, .direct, 0, [(16, 36)]⟩
  | .PLN_ARM_ZONES_HELD => ⟨0x10104, 31, 0, .ro, .direct, 0, [(16, 36)]⟩
  | .PLN_ARM_ZWAIT_REQ => ⟨0x10108, 31, 0, .ro, .direct, 0, [(16, 36)]⟩
  | .PLN_ARM_DEPTH_FRAMES => ⟨0x1010C, 15, 0, .ro, .direct, 0, [(16, 36)]⟩
  | .PLN_ZONE_OWNER => ⟨0x10400, 5, 0, .ro, .direct, 63, [(4, 32)]⟩
  | .PLN_ZONE_WAITERS => ⟨0x10400, 15, 8, .ro, .direct, 0, [(4, 32)]⟩
  | .PLN_MST_CFG_SRC => ⟨0x10600, 1, 0, .rw, .stopped, 0, [(16, 8)]⟩
  | .PLN_MST_CFG_IDX => ⟨0x10600, 14, 8, .rw, .stopped, 0, [(16, 8)]⟩
  | .PLN_MST_DML_CPS2 => ⟨0x10604, 31, 0, .rw, .stopped, 0, [(16, 8)]⟩
  | .PLN_MST_STAT_VALID => ⟨0x10608, 0, 0, .ro, .direct, 0, [(16, 8)]⟩
  | .PLN_MST_STAT_MASTER_LOST => ⟨0x10608, 1, 1, .rc, .direct, 0, [(16, 8)]⟩
  | .PLN_TRK_MASTER => ⟨0x10800, 2, 0, .rw, .stopped, 0, [(32, 16)]⟩
  | .PLN_TRK_UM_PER_CNT => ⟨0x10804, 31, 0, .rw, .stopped, 0, [(32, 16)]⟩
  | .PLN_TRK_DIR => ⟨0x10808, 31, 0, .rw, .stopped, 0, [(32, 16), (4, 3)]⟩
  | .PLN_VLIM_LO_CNT => ⟨0x11000, 31, 0, .rw, .stopped, 2147483648, [(8, 128)]⟩
  | .PLN_VLIM_HI_CNT => ⟨0x11004, 31, 0, .rw, .stopped, 2147483647, [(8, 128)]⟩
  | .MIL_STATUS_BUSY => ⟨0x14000, 0, 0, .ro, .direct, 0, []⟩
  | .MIL_STATUS_ENG_FAULT => ⟨0x14000, 1, 1, .rc, .direct, 0, []⟩
  | .MIL_STATUS_ANY_MISS => ⟨0x14000, 2, 2, .rc, .direct, 0, []⟩
  | .MIL_STATUS_TLM_OVERFLOW => ⟨0x14000, 3, 3, .rc, .direct, 0, []⟩
  | .MIL_STATUS_SPARES => ⟨0x14000, 5, 4, .ro, .direct, 2, []⟩
  | .MIL_MAP_PHYS => ⟨0x14010, 31, 0, .ro, .direct, 0, [(4, 4)]⟩
  | .MIL_ENG_STAT_STATE => ⟨0x14040, 1, 0, .ro, .direct, 0, [(4, 18)]⟩
  | .MIL_ENG_STAT_CAUSE => ⟨0x14040, 3, 2, .ro, .direct, 0, [(4, 18)]⟩
  | .MIL_ENG_STAT_LOGICAL => ⟨0x14040, 11, 8, .ro, .direct, 0, [(4, 18)]⟩
  | .MIL_ENG_STAT_KAT_PASS => ⟨0x14040, 31, 16, .ro, .direct, 0, [(4, 18)]⟩
  | .MIL_SLOT_STAT_DEADLINE_MISS => ⟨0x14100, 0, 0, .rc, .direct, 0, [(4, 20)]⟩
  | .MIL_SLOT_STAT_MISS_RUN => ⟨0x14100, 2, 1, .ro, .direct, 0, [(4, 20)]⟩
  | .MIL_SLOT_STAT_MISS3 => ⟨0x14100, 3, 3, .rc, .direct, 0, [(4, 20)]⟩
  | .MIL_TBL_SEL_JOINT => ⟨0x14200, 6, 0, .rw, .live, 0, []⟩
  | .MIL_TBL_SEL_BANK => ⟨0x14200, 8, 8, .rw, .live, 0, []⟩
  | .MIL_TBL_SEL_POINT => ⟨0x14200, 21, 16, .rw, .live, 0, []⟩
  | .MIL_TBL_E_E => ⟨0x14204, 31, 0, .rw, .live, 0, []⟩
  | .MIL_TBL_G_G => ⟨0x14208, 31, 0, .rw, .live, 0, []⟩
  | .MIL_TLM_CTRL_EN => ⟨0x14300, 0, 0, .rw, .live, 0, []⟩
  | .MIL_TLM_BASE_LO_ADDR => ⟨0x14304, 31, 6, .rw, .stopped, 0, []⟩
  | .MIL_TLM_BASE_HI_ADDR => ⟨0x14308, 31, 0, .rw, .stopped, 0, []⟩
  | .MIL_TLM_SIZE_RECORDS => ⟨0x1430C, 15, 0, .rw, .stopped, 0, []⟩
  | .MIL_TLM_WR_IDX => ⟨0x14310, 15, 0, .ro, .direct, 0, []⟩
  | .MIL_TLM_RD_IDX => ⟨0x14314, 15, 0, .rw, .live, 0, []⟩
  | .MIL_TLM_SEL_SRC => ⟨0x14380, 7, 0, .rw, .stopped, 0, [(4, 32)]⟩
  | .MIL_TLM_SEL_CHAN => ⟨0x14380, 11, 8, .rw, .stopped, 0, [(4, 32)]⟩
  | .MIL_TLM_SEL_VALID => ⟨0x14380, 15, 15, .rw, .stopped, 0, [(4, 32)]⟩
  | .MIL_J_CTRL_EN => ⟨0x15000, 0, 0, .rw, .stopped, 0, [(64, 128)]⟩
  | .MIL_J_CTRL_OUT_INV => ⟨0x15000, 1, 1, .rw, .committed, 0, [(64, 128)]⟩
  | .MIL_J_CTRL_BANK => ⟨0x15000, 2, 2, .rw, .committed, 0, [(64, 128)]⟩
  | .MIL_J_OBS_F_OBS => ⟨0x15004, 10, 0, .rw, .committed, 400, [(64, 128)]⟩
  | .MIL_J_KVF_V => ⟨0x15008, 31, 0, .rw, .committed, 1065353216, [(64, 128)]⟩
  | .MIL_J_KAF_V => ⟨0x1500C, 31, 0, .rw, .committed, 0, [(64, 128)]⟩
  | .MIL_J_KV_V => ⟨0x15010, 31, 0, .rw, .committed, 0, [(64, 128)]⟩
  | .MIL_J_KI_V => ⟨0x15014, 31, 0, .rw, .committed, 0, [(64, 128)]⟩
  | .MIL_J_UMAX_U => ⟨0x15018, 30, 0, .rw, .committed, 1, [(64, 128)]⟩
  | .MIL_J_DUMAX_DU => ⟨0x1501C, 14, 0, .rw, .committed, 1, [(64, 128)]⟩
  | .MIL_J_UOFF_U => ⟨0x15020, 31, 0, .rw, .committed, 0, [(64, 128)]⟩
  | .MIL_J_STAT_DEADLINE_MISS => ⟨0x15024, 0, 0, .rc, .direct, 0, [(64, 128)]⟩
  | .MIL_J_STAT_MISS_RUN => ⟨0x15024, 2, 1, .ro, .direct, 0, [(64, 128)]⟩
  | .MIL_J_STAT_MISS3 => ⟨0x15024, 3, 3, .rc, .direct, 0, [(64, 128)]⟩
  | .MIL_J_STAT_FROZEN => ⟨0x15024, 4, 4, .ro, .direct, 0, [(64, 128)]⟩
  | .MIL_J_STAT_LIMITED => ⟨0x15024, 5, 5, .ro, .direct, 0, [(64, 128)]⟩
  | .MIL_J_STAT_SEG_BAD => ⟨0x15024, 6, 6, .rc, .direct, 0, [(64, 128)]⟩
  | .MIL_J_STAT_TBL_REJECT => ⟨0x15024, 7, 7, .rc, .direct, 0, [(64, 128)]⟩
  | .MIL_J_STAT_PARAM_REJECT => ⟨0x15024, 8, 8, .rc, .direct, 0, [(64, 128)]⟩
  | .MIL_J_STAT_GRANTED => ⟨0x15024, 9, 9, .ro, .direct, 0, [(64, 128)]⟩
  | .MIL_J_STAT_COAST => ⟨0x15024, 23, 16, .ro, .direct, 0, [(64, 128)]⟩
  | .MIL_J_MISS_CNT => ⟨0x15028, 15, 0, .rc, .direct, 0, [(64, 128)]⟩
  | .MIL_J_EP_V => ⟨0x1502C, 31, 0, .ro, .direct, 0, [(64, 128)]⟩
  | .MIL_J_UOUT_U => ⟨0x15030, 31, 0, .ro, .direct, 0, [(64, 128)]⟩
  | .MIL_J_VHAT_V => ⟨0x15034, 31, 0, .ro, .direct, 0, [(64, 128)]⟩
  | .COM_STATUS_ACTIVE => ⟨0x06000, 0, 0, .ro, .direct, 0, []⟩
  | .COM_STATUS_VOTE_SPLIT => ⟨0x06000, 1, 1, .rc, .direct, 0, []⟩
  | .COM_STATUS_SENSOR_FALLBACK => ⟨0x06000, 2, 2, .rc, .direct, 0, []⟩
  | .COM_STATUS_ENVELOPE_EXIT => ⟨0x06000, 3, 3, .rc, .direct, 0, []⟩
  | .COM_STATUS_COM_OVERRUN => ⟨0x06000, 4, 4, .rc, .direct, 0, []⟩
  | .COM_STATUS_ARM_STALE => ⟨0x06000, 5, 5, .rc, .direct, 0, []⟩
  | .COM_STATUS_SEP_REDUCE => ⟨0x06000, 8, 8, .ro, .direct, 0, []⟩
  | .COM_STATUS_SEP_STOP => ⟨0x06000, 9, 9, .ro, .direct, 0, []⟩
  | .COM_PASS_NO => ⟨0x06004, 31, 0, .ro, .direct, 0, []⟩
  | .COM_PAIRS_COUNT => ⟨0x06008, 13, 0, .ro, .direct, 0, []⟩
  | .COM_PAIRS_CAPSULES => ⟨0x06008, 21, 16, .ro, .direct, 0, []⟩
  | .COM_LANE_LAST_STATUS => ⟨0x06010, 1, 0, .ro, .direct, 2, [(4, 3)]⟩
  | .COM_LANE_OVERRUN_CNT => ⟨0x06010, 15, 8, .rc, .direct, 0, [(4, 3)]⟩
  | .COM_LANE_OUTLIER_CNT => ⟨0x06010, 31, 16, .rc, .direct, 0, [(4, 3)]⟩
  | .COM_ARM_D_MM => ⟨0x06100, 31, 0, .ro, .direct, 2147483647, [(16, 16)]⟩
  | .COM_ARM_SP_MM => ⟨0x06104, 31, 0, .ro, .direct, 0, [(16, 16)]⟩
  | .COM_ARM_RES_PAIR_IDX => ⟨0x06108, 15, 0, .ro, .direct, 65535, [(16, 16)]⟩
  | .COM_ARM_RES_REACTION => ⟨0x06108, 17, 16, .ro, .direct, 0, [(16, 16)]⟩
  | .COM_ARM_RES_FLAGS => ⟨0x06108, 23, 20, .ro, .direct, 0, [(16, 16)]⟩
  | .COM_ARM_RES_AGREE => ⟨0x06108, 26, 24, .ro, .direct, 0, [(16, 16)]⟩
  | .COM_ARM_CNT_STOPS => ⟨0x0610C, 15, 0, .rc, .direct, 0, [(16, 16)]⟩
  | .COM_ARM_CNT_REDUCE => ⟨0x0610C, 31, 16, .rc, .direct, 0, [(16, 16)]⟩
  | .COM_VOL_PRESENT => ⟨0x06300, 0, 0, .ro, .direct, 0, [(4, 32)]⟩
  | .COM_VOL_FALLBACK => ⟨0x06300, 1, 1, .ro, .direct, 0, [(4, 32)]⟩
  | .COM_VOL_OBSTACLE => ⟨0x06300, 2, 2, .ro, .direct, 0, [(4, 32)]⟩
  | .COM_VOL_SENSOR => ⟨0x06300, 15, 8, .ro, .direct, 255, [(4, 32)]⟩
  | .COM_VOL_V_MMS => ⟨0x06300, 31, 16, .ro, .direct, 0, [(4, 32)]⟩
  | .SAF_SAFE_OK_LEVEL => ⟨0x058C0, 2, 0, .ro, .direct, 0, []⟩
  | .SAF_SAFE_OK_DISC_ANY => ⟨0x058C0, 8, 8, .ro, .direct, 0, []⟩
  | .SAF_SI_STAT_CH1 => ⟨0x05900, 0, 0, .ro, .direct, 0, [(4, 24)]⟩
  | .SAF_SI_STAT_CH2 => ⟨0x05900, 1, 1, .ro, .direct, 0, [(4, 24)]⟩
  | .SAF_SI_STAT_ACTIVE => ⟨0x05900, 2, 2, .ro, .direct, 1, [(4, 24)]⟩
  | .SAF_SI_STAT_MIXED => ⟨0x05900, 3, 3, .ro, .direct, 0, [(4, 24)]⟩
  | .SAF_SI_STAT_DISC => ⟨0x05900, 4, 4, .ro, .direct, 0, [(4, 24)]⟩
  | .SAF_SI_STAT_DISC_EV => ⟨0x05900, 5, 5, .rc, .direct, 0, [(4, 24)]⟩
  | .SAF_SI_STAT_FUNC => ⟨0x05900, 7, 6, .ro, .direct, 0, [(4, 24)]⟩
  | .SAF_SI_STAT_DISC_CNT => ⟨0x05900, 31, 16, .rc, .direct, 0, [(4, 24)]⟩
  | .SAF_UNIT_STAT_FUNC => ⟨0x05A00, 2, 0, .ro, .direct, 5, [(4, 32)]⟩
  | .SAF_UNIT_STAT_TORQUE => ⟨0x05A00, 3, 3, .ro, .direct, 0, [(4, 32)]⟩
  | .SAF_UNIT_STAT_BRAKE_REL => ⟨0x05A00, 4, 4, .ro, .direct, 0, [(4, 32)]⟩
  | .SAF_UNIT_STAT_SLS_SET => ⟨0x05A00, 6, 5, .ro, .direct, 0, [(4, 32)]⟩
  | .SAF_UNIT_STAT_ACK_PEND => ⟨0x05A00, 7, 7, .ro, .direct, 0, [(4, 32)]⟩
  | .SAF_UNIT_STAT_SLS_VIOL => ⟨0x05A00, 8, 8, .rc, .direct, 0, [(4, 32)]⟩
  | .SAF_UNIT_STAT_SLP_VIOL => ⟨0x05A00, 9, 9, .rc, .direct, 0, [(4, 32)]⟩
  | .SAF_UNIT_STAT_RAMP_VIOL => ⟨0x05A00, 10, 10, .rc, .direct, 0, [(4, 32)]⟩
  | .SAF_UNIT_STAT_SOS_VIOL => ⟨0x05A00, 11, 11, .rc, .direct, 0, [(4, 32)]⟩
  | .SAF_UNIT_STAT_STANDSTILL => ⟨0x05A00, 12, 12, .ro, .direct, 0, [(4, 32)]⟩
  | .SAF_UNIT_STAT_DISABLED => ⟨0x05A00, 13, 13, .ro, .direct, 1, [(4, 32)]⟩
  | .SAF_UNIT_STAT_CAUSE => ⟨0x05A00, 23, 16, .ro, .direct, 0, [(4, 32)]⟩
  | .SAF_PKG_STAT_STATE => ⟨0x05B00, 2, 0, .ro, .direct, 0, []⟩
  | .SAF_PKG_STAT_RESULT => ⟨0x05B00, 15, 8, .ro, .direct, 0, []⟩
  | .SAF_PKG_STAT_ENROLLED => ⟨0x05B00, 16, 16, .ro, .direct, 0, []⟩
  | .SAF_PKG_STAT_KEY_SLOT => ⟨0x05B00, 19, 17, .ro, .direct, 0, []⟩
  | .SAF_PKG_APPLIED_SEQ => ⟨0x05B04, 31, 0, .ro, .direct, 0, []⟩
  | .SAF_PKG_PEND_SEQ => ⟨0x05B08, 31, 0, .ro, .direct, 0, []⟩
  | .SAF_PKG_FAIL_OFFSET => ⟨0x05B0C, 17, 0, .ro, .direct, 0, []⟩
  | .SAF_DBG_LANE_LANE => ⟨0x05000, 1, 0, .rw, .live, 0, []⟩
  | .SAF_DBG_ADDR_ADDR => ⟨0x05004, 17, 2, .rw, .live, 0, []⟩
  | .SAF_DBG_DATA_DATA => ⟨0x05008, 31, 0, .rw, .live, 0, []⟩
  | .FBK_CFG_EN => ⟨0x18000, 0, 0, .rw, .live, 0, [(256, 16)]⟩
  | .FBK_CFG_MODE => ⟨0x18000, 3, 1, .rw, .stopped, 0, [(256, 16)]⟩
  | .FBK_CFG_FILT => ⟨0x18000, 7, 4, .rw, .stopped, 2, [(256, 16)]⟩
  | .FBK_CFG_REF_MODE => ⟨0x18000, 9, 8, .rw, .committed, 0, [(256, 16)]⟩
  | .FBK_CFG_DIR_SRC => ⟨0x18000, 11, 10, .rw, .stopped, 0, [(256, 16)]⟩
  | .FBK_CFG_INV => ⟨0x18000, 12, 12, .rw, .stopped, 0, [(256, 16)]⟩
  | .FBK_CFG_Z_AB => ⟨0x18000, 14, 13, .rw, .stopped, 0, [(256, 16)]⟩
  | .FBK_OBS_F_OBS => ⟨0x18004, 14, 0, .rw, .committed, 2000, [(256, 16)]⟩
  | .FBK_VLOW_V => ⟨0x18008, 19, 0, .rw, .committed, 20000, [(256, 16)]⟩
  | .FBK_EIMAX_US => ⟨0x1800C, 15, 0, .rw, .committed, 10000, [(256, 16)]⟩
  | .FBK_TEETH_N => ⟨0x18010, 15, 0, .rw, .stopped, 60, [(256, 16)]⟩
  | .FBK_TEETH_MISS => ⟨0x18010, 17, 16, .rw, .stopped, 1, [(256, 16)]⟩
  | .FBK_CPR_N => ⟨0x18014, 31, 0, .rw, .stopped, 4000, [(256, 16)]⟩
  | .FBK_SER0_LEN => ⟨0x18018, 5, 0, .rw, .stopped, 25, [(256, 16)]⟩
  | .FBK_SER0_LEAD => ⟨0x18018, 8, 6, .rw, .stopped, 0, [(256, 16)]⟩
  | .FBK_SER0_TRAIL => ⟨0x18018, 11, 9, .rw, .stopped, 0, [(256, 16)]⟩
  | .FBK_SER0_GRAY => ⟨0x18018, 12, 12, .rw, .stopped, 1, [(256, 16)]⟩
  | .FBK_SER0_DOUBLE => ⟨0x18018, 13, 13, .rw, .stopped, 0, [(256, 16)]⟩
  | .FBK_SER0_ERR_BIT => ⟨0x18018, 14, 14, .rw, .stopped, 1, [(256, 16)]⟩
  | .FBK_SER0_WARN_BIT => ⟨0x18018, 15, 15, .rw, .stopped, 1, [(256, 16)]⟩
  | .FBK_SER0_CRC_LEN => ⟨0x18018, 20, 16, .rw, .stopped, 6, [(256, 16)]⟩
  | .FBK_SER0_DLY => ⟨0x18018, 31, 24, .rw, .stopped, 0, [(256, 16)]⟩
  | .FBK_SER1_CRC_POLY => ⟨0x1801C, 15, 0, .rw, .stopped, 3, [(256, 16)]⟩
  | .FBK_SER1_CLK_KHZ => ⟨0x1801C, 29, 16, .rw, .stopped, 1000, [(256, 16)]⟩
  | .FBK_SER2_TM_US => ⟨0x18020, 6, 0, .rw, .stopped, 20, [(256, 16)]⟩
  | .FBK_SER2_ACK_MAX => ⟨0x18020, 13, 8, .rw, .stopped, 16, [(256, 16)]⟩
  | .FBK_SER2_MAXD => ⟨0x18020, 31, 14, .rw, .committed, 16384, [(256, 16)]⟩
  | .FBK_STAT_VALID => ⟨0x18024, 0, 0, .ro, .direct, 0, [(256, 16)]⟩
  | .FBK_STAT_CHAN_FAULT => ⟨0x18024, 1, 1, .ro, .direct, 0, [(256, 16)]⟩
  | .FBK_STAT_LOW => ⟨0x18024, 2, 2, .ro, .direct, 0, [(256, 16)]⟩
  | .FBK_STAT_REF_SEEN => ⟨0x18024, 3, 3, .rc, .direct, 0, [(256, 16)]⟩
  | .FBK_STAT_QUAD_ERR => ⟨0x18024, 4, 4, .rc, .direct, 0, [(256, 16)]⟩
  | .FBK_STAT_REF_ERR => ⟨0x18024, 5, 5, .rc, .direct, 0, [(256, 16)]⟩
  | .FBK_STAT_SER_ERR => ⟨0x18024, 6, 6, .rc, .direct, 0, [(256, 16)]⟩
  | .FBK_STAT_WARN => ⟨0x18024, 7, 7, .ro, .direct, 0, [(256, 16)]⟩
  | .FBK_STAT_FB_CFG_REJECT => ⟨0x18024, 8, 8, .rc, .direct, 0, [(256, 16)]⟩
  | .FBK_STAT_BUSY => ⟨0x18024, 9, 9, .ro, .direct, 0, [(256, 16)]⟩
  | .FBK_ERR_QUAD_CNT => ⟨0x18028, 7, 0, .rc, .direct, 0, [(256, 16)]⟩
  | .FBK_ERR_REF_CNT => ⟨0x18028, 15, 8, .rc, .direct, 0, [(256, 16)]⟩
  | .FBK_ERR_CRC_CNT => ⟨0x18028, 23, 16, .rc, .direct, 0, [(256, 16)]⟩
  | .FBK_ERR_OTHER_CNT => ⟨0x18028, 31, 24, .rc, .direct, 0, [(256, 16)]⟩
  | .FBK_CNT_Y => ⟨0x1802C, 31, 0, .ro, .direct, 0, [(256, 16)]⟩
  | .FBK_REFPOS_Y => ⟨0x18030, 31, 0, .ro, .direct, 0, [(256, 16)]⟩
  | .FBK_VEL_V => ⟨0x18034, 31, 0, .ro, .direct, 0, [(256, 16)]⟩
  | .FBK_ACC_A => ⟨0x18038, 31, 0, .ro, .direct, 0, [(256, 16)]⟩
  | .FBK_CTRL_CLR => ⟨0x1803C, 0, 0, .wo, .live, 0, [(256, 16)]⟩
  | .FBK_CTRL_PRESET => ⟨0x1803C, 1, 1, .wo, .live, 0, [(256, 16)]⟩
  | .FBK_PRESET_Y => ⟨0x18040, 31, 0, .rw, .committed, 0, [(256, 16)]⟩
  | .FBK_LDLY_NS => ⟨0x18044, 15, 0, .ro, .direct, 0, [(256, 16)]⟩
  | .STP_CFG_MODE => ⟨0x19000, 1, 0, .rw, .stopped, 0, [(128, 16)]⟩
  | .STP_CFG_OUT_FMT => ⟨0x19000, 2, 2, .rw, .stopped, 0, [(128, 16)]⟩
  | .STP_CFG_DIR_INV => ⟨0x19000, 3, 3, .rw, .stopped, 0, [(128, 16)]⟩
  | .STP_CFG_EN_POL => ⟨0x19000, 4, 4, .rw, .stopped, 0, [(128, 16)]⟩
  | .STP_CFG_STEP_POL => ⟨0x19000, 5, 5, .rw, .stopped, 0, [(128, 16)]⟩
  | .STP_CFG_STANDBY => ⟨0x19000, 7, 6, .rw, .committed, 0, [(128, 16)]⟩
  | .STP_CFG_STALL_ACT => ⟨0x19000, 8, 8, .rw, .committed, 1, [(128, 16)]⟩
  | .STP_CFG_DEV_EN => ⟨0x19000, 9, 9, .rw, .committed, 0, [(128, 16)]⟩
  | .STP_CFG_REP_SRC => ⟨0x19000, 15, 12, .rw, .stopped, 0, [(128, 16)]⟩
  | .STP_TIME_STEP_HI => ⟨0x19004, 13, 0, .rw, .stopped, 160, [(128, 16)]⟩
  | .STP_TIME_DIR_SETUP => ⟨0x19004, 29, 16, .rw, .stopped, 160, [(128, 16)]⟩
  | .STP_WAKE_WAKE_US => ⟨0x19008, 9, 0, .rw, .committed, 100, [(128, 16)]⟩
  | .STP_WAKE_IDLE_MS => ⟨0x19008, 25, 16, .rw, .committed, 50, [(128, 16)]⟩
  | .STP_RATIO_NUM => ⟨0x1900C, 15, 0, .rw, .stopped, 1, [(128, 16)]⟩
  | .STP_RATIO_DEN => ⟨0x1900C, 31, 16, .rw, .stopped, 1, [(128, 16)]⟩
  | .STP_ENC_ENC_NUM => ⟨0x19010, 15, 0, .rw, .committed, 1, [(128, 16)]⟩
  | .STP_ENC_ENC_DEN => ⟨0x19010, 31, 16, .rw, .committed, 1, [(128, 16)]⟩
  | .STP_DEV_DEV_WIN => ⟨0x19014, 15, 0, .rw, .committed, 32, [(128, 16)]⟩
  | .STP_DEV_STALL_FR => ⟨0x19014, 23, 16, .rw, .committed, 16, [(128, 16)]⟩
  | .STP_VLIM_LO_STEPS => ⟨0x19018, 31, 0, .rw, .stopped, 2147483648, [(128, 16)]⟩
  | .STP_VLIM_HI_STEPS => ⟨0x1901C, 31, 0, .rw, .stopped, 2147483647, [(128, 16)]⟩
  | .STP_STALL_STEPS => ⟨0x19020, 15, 0, .rw, .committed, 200, [(128, 16)]⟩
  | .STP_CTRL_RUN => ⟨0x19024, 0, 0, .rw, .live, 0, [(128, 16)]⟩
  | .STP_CTRL_REARM => ⟨0x19024, 1, 1, .wo, .live, 0, [(128, 16)]⟩
  | .STP_STAT_HELD => ⟨0x19028, 0, 0, .ro, .direct, 0, [(128, 16)]⟩
  | .STP_STAT_STANDBY_ON => ⟨0x19028, 1, 1, .ro, .direct, 0, [(128, 16)]⟩
  | .STP_STAT_LOST_STEP => ⟨0x19028, 2, 2, .rc, .direct, 0, [(128, 16)]⟩
  | .STP_STAT_STALL => ⟨0x19028, 3, 3, .rc, .direct, 0, [(128, 16)]⟩
  | .STP_STAT_FB_LOST => ⟨0x19028, 4, 4, .rc, .direct, 0, [(128, 16)]⟩
  | .STP_STAT_STEP_LIMIT => ⟨0x19028, 5, 5, .rc, .direct, 0, [(128, 16)]⟩
  | .STP_STAT_VLIM_HIT => ⟨0x19028, 6, 6, .rc, .direct, 0, [(128, 16)]⟩
  | .STP_STAT_REP_OVF => ⟨0x19028, 7, 7, .rc, .direct, 0, [(128, 16)]⟩
  | .STP_STAT_SP_CFG_REJECT => ⟨0x19028, 8, 8, .rc, .direct, 0, [(128, 16)]⟩
  | .STP_STAT_GRANTED => ⟨0x19028, 9, 9, .ro, .direct, 0, [(128, 16)]⟩
  | .STP_STAT_BUSY => ⟨0x19028, 10, 10, .ro, .direct, 0, [(128, 16)]⟩
  | .STP_POS_S => ⟨0x1902C, 31, 0, .ro, .direct, 0, [(128, 16)]⟩
  | .STP_DEVV_E => ⟨0x19030, 31, 0, .ro, .direct, 0, [(128, 16)]⟩
  | .STP_LAG_STEPS => ⟨0x19034, 31, 0, .ro, .direct, 0, [(128, 16)]⟩
  | .ADC_CFG_LP => ⟨0x08000, 0, 0, .rw, .committed, 0, []⟩
  | .ADC_REF_EN => ⟨0x08004, 0, 0, .w1, .direct, 0, []⟩
  | .ADC_REF_READY => ⟨0x08004, 1, 1, .ro, .direct, 0, []⟩
  | .ADC_STATUS_BUSY => ⟨0x08008, 0, 0, .ro, .direct, 0, []⟩
  | .ADC_STATUS_CHK_FAIL => ⟨0x08008, 1, 1, .rc, .direct, 0, []⟩
  | .ADC_STATUS_TRIG_EARLY => ⟨0x08008, 2, 2, .rc, .direct, 0, []⟩
  | .ADC_STATUS_SEQ_ACTIVE => ⟨0x08008, 3, 3, .ro, .direct, 0, []⟩
  | .ADC_STATUS_TRIG_QUEUED => ⟨0x08008, 4, 4, .ro, .direct, 0, []⟩
  | .ADC_STATUS_CORR_RESTORE => ⟨0x08008, 5, 5, .rc, .direct, 0, []⟩
  | .ADC_STATUS_SEQ_CFG_REJECT => ⟨0x08008, 6, 6, .rc, .direct, 0, []⟩
  | .ADC_CNT_TRIG_OVERRUN => ⟨0x0800C, 15, 0, .rc, .direct, 0, []⟩
  | .ADC_CNT_CHK_FAIL_CNT => ⟨0x0800C, 31, 16, .rc, .direct, 0, []⟩
  | .ADC_SNAP_FRAME_NO => ⟨0x08010, 31, 0, .ro, .direct, 0, []⟩
  | .ADC_SEQ_CTRL_EN => ⟨0x08014, 0, 0, .rw, .live, 0, []⟩
  | .ADC_SEQ_CTRL_TRIG_SRC => ⟨0x08014, 4, 1, .rw, .stopped, 0, []⟩
  | .ADC_SEQ_CTRL_GO => ⟨0x08014, 5, 5, .wo, .live, 0, []⟩
  | .ADC_SEQ_CTRL_CLR_ON_START => ⟨0x08014, 6, 6, .rw, .stopped, 0, []⟩
  | .ADC_SEQ_CTRL_LEN0 => ⟨0x08014, 13, 8, .rw, .stopped, 0, []⟩
  | .ADC_SEQ_CTRL_LEN1 => ⟨0x08014, 21, 16, .rw, .stopped, 0, []⟩
  | .ADC_CH_STAT_OVR => ⟨0x08080, 0, 0, .rc, .direct, 0, [(4, 32)]⟩
  | .ADC_CH_STAT_OVR_CNT => ⟨0x08080, 15, 8, .rc, .direct, 0, [(4, 32)]⟩
  | .ADC_CORR_OFFSET => ⟨0x08100, 15, 0, .rw, .live, 0, [(4, 31)]⟩
  | .ADC_CORR_GAIN => ⟨0x08100, 31, 16, .rw, .live, 16384, [(4, 31)]⟩
  | .ADC_FRAME_MEAN => ⟨0x08200, 15, 0, .ro, .direct, 32768, [(8, 32)]⟩
  | .ADC_FRAME_MAX => ⟨0x08200, 31, 16, .ro, .direct, 32768, [(8, 32)]⟩
  | .ADC_FRAME_MIN => ⟨0x08204, 15, 0, .ro, .direct, 32768, [(8, 32)]⟩
  | .ADC_FRAME_COUNT => ⟨0x08204, 31, 16, .ro, .direct, 0, [(8, 32)]⟩
  | .ADC_SEQ0_E_CHAN => ⟨0x08400, 4, 0, .rw, .stopped, 0, [(4, 32)]⟩
  | .ADC_SEQ0_E_OVS => ⟨0x08400, 7, 5, .rw, .stopped, 0, [(4, 32)]⟩
  | .ADC_SEQ0_E_SETTLE => ⟨0x08400, 11, 8, .rw, .stopped, 0, [(4, 32)]⟩
  | .ADC_SEQ0_E_DEST => ⟨0x08400, 16, 12, .rw, .stopped, 0, [(4, 32)]⟩
  | .ADC_SEQ1_E_CHAN => ⟨0x08480, 4, 0, .rw, .stopped, 0, [(4, 32)]⟩
  | .ADC_SEQ1_E_OVS => ⟨0x08480, 7, 5, .rw, .stopped, 0, [(4, 32)]⟩
  | .ADC_SEQ1_E_SETTLE => ⟨0x08480, 11, 8, .rw, .stopped, 0, [(4, 32)]⟩
  | .ADC_SEQ1_E_DEST => ⟨0x08480, 16, 12, .rw, .stopped, 0, [(4, 32)]⟩
  | .ADC_UA_SUM_SUM => ⟨0x08500, 31, 0, .ro, .direct, 0, [(16, 32)]⟩
  | .ADC_UA_CNT_COUNT => ⟨0x08504, 15, 0, .ro, .direct, 0, [(16, 32)]⟩
  | .ADC_UA_CNT_FULL => ⟨0x08504, 16, 16, .ro, .direct, 0, [(16, 32)]⟩
  | .ADC_UA_MM_MIN => ⟨0x08508, 15, 0, .ro, .direct, 32767, [(16, 32)]⟩
  | .ADC_UA_MM_MAX => ⟨0x08508, 31, 16, .ro, .direct, 32768, [(16, 32)]⟩
  | .ADC_UA_CLR_CLR => ⟨0x0850C, 0, 0, .wo, .live, 0, [(16, 32)]⟩
  | .SMY_CTRL_RUN => ⟨0x1A000, 0, 0, .rw, .live, 0, [(1024, 2)]⟩
  | .SMY_CTRL_HALT_REQ => ⟨0x1A000, 1, 1, .wo, .live, 0, [(1024, 2)]⟩
  | .SMY_CTRL_START => ⟨0x1A000, 2, 2, .wo, .live, 0, [(1024, 2)]⟩
  | .SMY_CFG_TRIG_SRC => ⟨0x1A004, 3, 0, .rw, .stopped, 0, [(1024, 2)]⟩
  | .SMY_CFG_FRAC => ⟨0x1A004, 4, 4, .rw, .stopped, 0, [(1024, 2)]⟩
  | .SMY_CFG_ENTRY => ⟨0x1A004, 27, 16, .rw, .stopped, 0, [(1024, 2)]⟩
  | .SMY_BUDGET_CLK => ⟨0x1A008, 15, 0, .rw, .committed, 65535, [(1024, 2)]⟩
  | .SMY_STAT_ACTIVE => ⟨0x1A00C, 0, 0, .ro, .direct, 0, [(1024, 2)]⟩
  | .SMY_STAT_QUEUED => ⟨0x1A00C, 1, 1, .ro, .direct, 0, [(1024, 2)]⟩
  | .SMY_STAT_SAT => ⟨0x1A00C, 2, 2, .rc, .direct, 0, [(1024, 2)]⟩
  | .SMY_STAT_ILLEGAL => ⟨0x1A00C, 3, 3, .rc, .direct, 0, [(1024, 2)]⟩
  | .SMY_STAT_BUDGET_EXCEEDED => ⟨0x1A00C, 4, 4, .rc, .direct, 0, [(1024, 2)]⟩
  | .SMY_STAT_BUSY => ⟨0x1A00C, 6, 6, .ro, .direct, 0, [(1024, 2)]⟩
  | .SMY_STAT_PC => ⟨0x1A00C, 27, 16, .ro, .direct, 0, [(1024, 2)]⟩
  | .SMY_CNT_TRIG_OVERRUN => ⟨0x1A010, 15, 0, .rc, .direct, 0, [(1024, 2)]⟩
  | .SMY_CNT_RUNS => ⟨0x1A010, 31, 16, .ro, .direct, 0, [(1024, 2)]⟩
  | .SMY_CYC_LAST => ⟨0x1A014, 15, 0, .ro, .direct, 0, [(1024, 2)]⟩
  | .SMY_CYC_MAX => ⟨0x1A014, 31, 16, .rc, .direct, 0, [(1024, 2)]⟩
  | .SMY_PADDR_ADDR => ⟨0x1A020, 11, 0, .rw, .stopped, 0, [(1024, 2)]⟩
  | .SMY_PDATA_WORD => ⟨0x1A024, 31, 0, .rw, .stopped, 0, [(1024, 2)]⟩
  | .SMY_DADDR_ADDR => ⟨0x1A028, 11, 0, .rw, .stopped, 0, [(1024, 2)]⟩
  | .SMY_DADDR_Y => ⟨0x1A028, 12, 12, .rw, .stopped, 0, [(1024, 2)]⟩
  | .SMY_DDATA_WORD => ⟨0x1A02C, 15, 0, .rw, .stopped, 0, [(1024, 2)]⟩
  | .SMY_OUT_V => ⟨0x1A080, 31, 0, .ro, .direct, 0, [(1024, 2), (4, 32)]⟩
  | .SMY_SIG_CODE => ⟨0x1A100, 15, 0, .ro, .direct, 0, [(1024, 2)]⟩
  | .SMY_SIG_DROPPED => ⟨0x1A100, 31, 16, .rc, .direct, 0, [(1024, 2)]⟩
  | .RVE_CFG_RUN_MAX_US => ⟨0x09000, 9, 0, .rw, .live, 200, []⟩
  | .RVE_STATUS_BUSY => ⟨0x09004, 0, 0, .ro, .direct, 0, []⟩
  | .RVE_STATUS_OVERLONG => ⟨0x09004, 1, 1, .rc, .direct, 0, []⟩
  | .RVE_STATUS_POOL_LOW => ⟨0x09004, 2, 2, .ro, .direct, 0, []⟩
  | .RVE_STATUS_LANE_OVF => ⟨0x09004, 3, 3, .rc, .direct, 0, []⟩
  | .RVE_STATUS_NO_TASK => ⟨0x09004, 4, 4, .rc, .direct, 0, []⟩
  | .RVE_CNT_FREE_ITEMS => ⟨0x09008, 11, 0, .ro, .direct, 2048, []⟩
  | .RVE_CNT_TASKS => ⟨0x09008, 24, 16, .ro, .direct, 0, []⟩
  | .RVE_CNT_ETH_DROP => ⟨0x0900C, 15, 0, .rc, .direct, 0, []⟩
  | .RVE_CNT_POOL_EMPTY => ⟨0x0900C, 31, 16, .rc, .direct, 0, []⟩
  | .RVE_CORE_SLOTS => ⟨0x09040, 3, 0, .ro, .direct, 0, [(16, 4)]⟩
  | .RVE_CORE_TASK => ⟨0x09040, 15, 8, .ro, .direct, 0, [(16, 4)]⟩
  | .RVE_CORE_RUNNING => ⟨0x09040, 16, 16, .ro, .direct, 0, [(16, 4)]⟩
  | .RVE_CORE_RUN_CLK => ⟨0x09044, 31, 0, .ro, .direct, 0, [(16, 4)]⟩
  | .RVE_CORE_DISPLACED => ⟨0x09048, 15, 0, .rc, .direct, 0, [(16, 4)]⟩
  | .RVE_CORE_OVERLONG_CNT => ⟨0x09048, 31, 16, .rc, .direct, 0, [(16, 4)]⟩
  | .RVE_TASK_STAT_STATE => ⟨0x09100, 2, 0, .ro, .direct, 0, [(8, 256)]⟩
  | .RVE_TASK_STAT_KIND => ⟨0x09100, 3, 3, .ro, .direct, 0, [(8, 256)]⟩
  | .RVE_TASK_STAT_PRIO => ⟨0x09100, 6, 4, .ro, .direct, 0, [(8, 256)]⟩
  | .RVE_TASK_STAT_AFFINITY => ⟨0x09100, 11, 8, .ro, .direct, 0, [(8, 256)]⟩
  | .RVE_TASK_STAT_SIGNAL => ⟨0x09100, 12, 12, .ro, .direct, 0, [(8, 256)]⟩
  | .RVE_TASK_STAT_CANCEL_REQ => ⟨0x09100, 13, 13, .ro, .direct, 0, [(8, 256)]⟩
  | .RVE_TASK_STAT_FLOW => ⟨0x09100, 23, 16, .ro, .direct, 255, [(8, 256)]⟩
  | .RVE_TASK_QUEUE_ITEMS => ⟨0x09104, 11, 0, .ro, .direct, 0, [(8, 256)]⟩
  | .RVE_TASK_QUEUE_RUNS => ⟨0x09104, 31, 16, .ro, .direct, 0, [(8, 256)]⟩
  | .RVE_FLOW_CFG_MODE => ⟨0x09900, 0, 0, .rw, .stopped, 0, [(8, 64)]⟩
  | .RVE_FLOW_CFG_NEXT => ⟨0x09900, 31, 16, .ro, .direct, 0, [(8, 64)]⟩
  | .RVE_FLOW_STAT_REL => ⟨0x09904, 15, 0, .ro, .direct, 0, [(8, 64)]⟩
  | .RVE_FLOW_STAT_HELD => ⟨0x09904, 21, 16, .ro, .direct, 0, [(8, 64)]⟩
  | .RVE_FLOW_STAT_BLOCKED => ⟨0x09904, 31, 22, .ro, .direct, 0, [(8, 64)]⟩
  | .HST_CFG_POLL_US => ⟨0x0A000, 6, 0, .rw, .stopped, 2, []⟩
  | .HST_CFG_HINT_US => ⟨0x0A000, 29, 16, .rw, .live, 100, []⟩
  | .HST_CFG_HINT_EN => ⟨0x0A000, 31, 31, .rw, .live, 0, []⟩
  | .HST_DB_BASE_LO_ADDR => ⟨0x0A004, 31, 6, .rw, .stopped, 0, []⟩
  | .HST_DB_BASE_HI_ADDR => ⟨0x0A008, 31, 0, .rw, .stopped, 0, []⟩
  | .HST_STATUS_BUSY => ⟨0x0A00C, 0, 0, .ro, .direct, 0, []⟩
  | .HST_STATUS_LINK_UP => ⟨0x0A00C, 1, 1, .ro, .direct, 0, []⟩
  | .HST_STATUS_IN_FLIGHT => ⟨0x0A00C, 15, 8, .ro, .direct, 0, []⟩
  | .HST_STATUS_IMM_FLIGHT => ⟨0x0A00C, 20, 16, .ro, .direct, 0, []⟩
  | .HST_CNT_REJECTS => ⟨0x0A010, 15, 0, .rc, .direct, 0, []⟩
  | .HST_CNT_REPLAYS => ⟨0x0A010, 31, 16, .rc, .direct, 0, []⟩
  | .HST_EVQ_BASE_LO_ADDR => ⟨0x0A020, 31, 6, .rw, .stopped, 0, []⟩
  | .HST_EVQ_BASE_HI_ADDR => ⟨0x0A024, 31, 0, .rw, .stopped, 0, []⟩
  | .HST_EVQ_CFG_EN => ⟨0x0A028, 0, 0, .rw, .live, 0, []⟩
  | .HST_EVQ_CFG_SIZE => ⟨0x0A028, 12, 8, .rw, .stopped, 6, []⟩
  | .HST_EVQ_STAT_TAIL => ⟨0x0A02C, 15, 0, .ro, .direct, 0, []⟩
  | .HST_EVQ_STAT_LOST => ⟨0x0A02C, 31, 16, .rc, .direct, 0, []⟩
  | .HST_SQ_BASE_LO_ADDR => ⟨0x0A100, 31, 6, .rw, .stopped, 0, [(16, 16)]⟩
  | .HST_SQ_BASE_HI_ADDR => ⟨0x0A104, 31, 0, .rw, .stopped, 0, [(16, 16)]⟩
  | .HST_SQ_CFG_EN => ⟨0x0A108, 0, 0, .rw, .live, 0, [(16, 16)]⟩
  | .HST_SQ_CFG_SEQ_RESET => ⟨0x0A108, 1, 1, .wo, .live, 0, [(16, 16)]⟩
  | .HST_SQ_CFG_CQ => ⟨0x0A108, 7, 4, .rw, .stopped, 0, [(16, 16)]⟩
  | .HST_SQ_CFG_SIZE => ⟨0x0A108, 11, 8, .rw, .stopped, 4, [(16, 16)]⟩
  | .HST_SQ_STAT_HEAD => ⟨0x0A10C, 11, 0, .ro, .direct, 0, [(16, 16)]⟩
  | .HST_SQ_STAT_Q_ERR => ⟨0x0A10C, 12, 12, .ro, .direct, 0, [(16, 16)]⟩
  | .HST_SQ_STAT_IN_FLIGHT => ⟨0x0A10C, 23, 16, .ro, .direct, 0, [(16, 16)]⟩
  | .HST_CQ_BASE_LO_ADDR => ⟨0x0A200, 31, 6, .rw, .stopped, 0, [(16, 16)]⟩
  | .HST_CQ_BASE_HI_ADDR => ⟨0x0A204, 31, 0, .rw, .stopped, 0, [(16, 16)]⟩
  | .HST_CQ_CFG_EN => ⟨0x0A208, 0, 0, .rw, .live, 0, [(16, 16)]⟩
  | .HST_CQ_CFG_SIZE => ⟨0x0A208, 11, 8, .rw, .stopped, 4, [(16, 16)]⟩
  | .HST_CQ_STAT_TAIL => ⟨0x0A20C, 11, 0, .ro, .direct, 0, [(16, 16)]⟩
  | .HST_CQ_STAT_PHASE => ⟨0x0A20C, 12, 12, .ro, .direct, 1, [(16, 16)]⟩
  | .HST_CQ_STAT_Q_ERR => ⟨0x0A20C, 13, 13, .ro, .direct, 0, [(16, 16)]⟩
  | .HST_CQ_STAT_OWED => ⟨0x0A20C, 27, 16, .ro, .direct, 0, [(16, 16)]⟩
  | .SYS_ID_STEP => ⟨0x00000, 7, 0, .ro, .direct, 176, []⟩
  | .SYS_ID_PART => ⟨0x00000, 23, 8, .ro, .direct, 296, []⟩
  | .SYS_ID_VENDOR => ⟨0x00000, 31, 24, .ro, .direct, 79, []⟩
  | .SYS_SERIAL_LO_SN => ⟨0x00004, 31, 0, .ro, .direct, 0, []⟩
  | .SYS_SERIAL_HI_SN => ⟨0x00008, 31, 0, .ro, .direct, 0, []⟩
  | .SYS_FW_VERSION_CODE => ⟨0x0000C, 31, 0, .ro, .direct, 0, []⟩
  | .SYS_ROM_VERSION_CODE => ⟨0x00010, 31, 0, .ro, .direct, 0, []⟩
  | .SYS_BOOT_COUNT_N => ⟨0x00014, 31, 0, .ro, .direct, 0, []⟩
  | .SYS_MODE_MODE => ⟨0x00018, 2, 0, .ro, .direct, 0, []⟩
  | .SYS_MODE_FW_SLOT => ⟨0x00018, 4, 4, .ro, .direct, 0, []⟩
  | .SYS_MODE_CFG_SLOT => ⟨0x00018, 5, 5, .ro, .direct, 0, []⟩
  | .SYS_MODE_HOLD_CAUSE => ⟨0x00018, 9, 8, .ro, .direct, 0, []⟩
  | .SYS_STATUS_LOCK_VIOL => ⟨0x0001C, 0, 0, .rc, .direct, 0, []⟩
  | .SYS_STATUS_BUSY_DROP => ⟨0x0001C, 1, 1, .rc, .direct, 0, []⟩
  | .SYS_STATUS_BUSY_REJECT => ⟨0x0001C, 2, 2, .rc, .direct, 0, []⟩
  | .SYS_STATUS_PAIR_REJECT => ⟨0x0001C, 3, 3, .rc, .direct, 0, []⟩
  | .SYS_STATUS_ACCESS_ERR => ⟨0x0001C, 4, 4, .rc, .direct, 0, []⟩
  | .SYS_STATUS_BOOT_DONE => ⟨0x0001C, 8, 8, .ro, .direct, 0, []⟩
  | .SYS_COMMIT_GO => ⟨0x00020, 0, 0, .wo, .live, 0, []⟩
  | .SYS_COMMIT_ABORT => ⟨0x00020, 1, 1, .wo, .live, 0, []⟩
  | .SYS_COMMIT_STAT_PENDING => ⟨0x00024, 0, 0, .ro, .direct, 0, []⟩
  | .SYS_COMMIT_STAT_ARMED => ⟨0x00024, 1, 1, .ro, .direct, 0, []⟩
  | .SYS_COMMIT_STAT_LATE => ⟨0x00024, 2, 2, .rc, .direct, 0, []⟩
  | .SYS_COMMIT_STAT_COUNT => ⟨0x00024, 31, 16, .ro, .direct, 0, []⟩
  | .SYS_COMMIT_FRAME_FRAME => ⟨0x00028, 31, 0, .ro, .direct, 0, []⟩
  | .SYS_LOCK_LOCK => ⟨0x0002C, 0, 0, .w1, .direct, 0, []⟩
  | .SYS_ACCESS_ALIAS_EN => ⟨0x00030, 0, 0, .wl, .direct, 1, []⟩
  | .SYS_BUSY_BLF => ⟨0x00034, 0, 0, .ro, .direct, 0, []⟩
  | .SYS_BUSY_ENT => ⟨0x00034, 3, 1, .ro, .direct, 0, []⟩
  | .SYS_BUSY_PLN => ⟨0x00034, 4, 4, .ro, .direct, 0, []⟩
  | .SYS_BUSY_MIL => ⟨0x00034, 5, 5, .ro, .direct, 0, []⟩
  | .SYS_BUSY_RVE => ⟨0x00034, 6, 6, .ro, .direct, 0, []⟩
  | .SYS_BUSY_HST => ⟨0x00034, 7, 7, .ro, .direct, 0, []⟩
  | .SYS_BUSY_ADC => ⟨0x00034, 8, 8, .ro, .direct, 0, []⟩
  | .SYS_BUSY_SMY => ⟨0x00034, 10, 9, .ro, .direct, 0, []⟩
  | .SYS_BUSY_PWR => ⟨0x00034, 11, 11, .ro, .direct, 0, []⟩
  | .SYS_BUSY_GRP => ⟨0x00034, 12, 12, .ro, .direct, 0, []⟩
  | .SYS_BUSY_PORTS => ⟨0x00034, 31, 16, .ro, .direct, 0, []⟩
  | .SYS_ERR_CNT0_LOCK_VIOL_CNT => ⟨0x00038, 15, 0, .rc, .direct, 0, []⟩
  | .SYS_ERR_CNT0_ACCESS_ERR_CNT => ⟨0x00038, 31, 16, .rc, .direct, 0, []⟩
  | .SYS_ERR_CNT1_BUSY_DROP_CNT => ⟨0x0003C, 15, 0, .rc, .direct, 0, []⟩
  | .SYS_ERR_CNT1_BUSY_REJECT_CNT => ⟨0x0003C, 31, 16, .rc, .direct, 0, []⟩
  | .SYS_ERR_LAST_ADDR => ⟨0x00040, 20, 2, .ro, .direct, 0, []⟩
  | .SYS_ERR_LAST_CAUSE => ⟨0x00040, 24, 22, .ro, .direct, 0, []⟩
  | .SYS_ERR_LAST_MASTER => ⟨0x00040, 27, 25, .ro, .direct, 0, []⟩
  | .SYS_CAPS0_ARMS => ⟨0x00044, 15, 0, .ro, .direct, 16, []⟩
  | .SYS_CAPS0_JOINTS => ⟨0x00044, 31, 16, .ro, .direct, 128, []⟩
  | .SYS_CAPS1_LOCAL_AXES => ⟨0x00048, 15, 0, .ro, .direct, 16, []⟩
  | .SYS_CAPS1_PORTS => ⟨0x00048, 31, 16, .ro, .direct, 50, []⟩
  | .SYS_CAPS2_DEVICES => ⟨0x0004C, 7, 0, .ro, .direct, 1, []⟩
  | .SYS_CAPS2_DEPTH => ⟨0x0004C, 15, 8, .ro, .direct, 0, []⟩
  | .SYS_CAPS2_UNIT_ADDR => ⟨0x0004C, 31, 16, .ro, .direct, 0, []⟩
  | .SYS_SCRATCH_V => ⟨0x00050, 31, 0, .wl, .direct, 0, [(4, 4)]⟩
  | .SYS_REGDIG_CTRL_GO => ⟨0x00060, 0, 0, .wo, .live, 0, []⟩
  | .SYS_REGDIG_CTRL_DONE => ⟨0x00060, 1, 1, .ro, .direct, 0, []⟩
  | .SYS_REGDIG_LO_CRC => ⟨0x00064, 31, 0, .ro, .direct, 0, []⟩
  | .SYS_REGDIG_HI_CRC => ⟨0x00068, 31, 0, .ro, .direct, 0, []⟩
  | .SYS_BLK_BASE => ⟨0x00080, 8, 0, .ro, .direct, 0, [(4, 19)]⟩
  | .SYS_BLK_SIZE => ⟨0x00080, 12, 9, .ro, .direct, 0, [(4, 19)]⟩
  | .SYS_BLK_WORDS => ⟨0x00080, 31, 16, .ro, .direct, 0, [(4, 19)]⟩
  | .CRI_LOG_OLD_SEQ => ⟨0x0B000, 31, 0, .ro, .direct, 0, []⟩
  | .CRI_LOG_NEW_SEQ => ⟨0x0B004, 31, 0, .ro, .direct, 0, []⟩
  | .CRI_LOG_OVW_CNT => ⟨0x0B008, 31, 0, .ro, .direct, 0, []⟩
  | .CRI_STAT_COPYING => ⟨0x0B00C, 0, 0, .ro, .direct, 0, []⟩
  | .CRI_STAT_QUEUE_FULL => ⟨0x0B00C, 1, 1, .ro, .direct, 0, []⟩
  | .CRI_SRC_CNT_N => ⟨0x0B400, 31, 0, .ro, .direct, 0, [(4, 256)]⟩
  | .CRI_SRC_LAST_CODE => ⟨0x0B800, 15, 0, .ro, .direct, 0, [(4, 256)]⟩
  | .CRI_SRC_LAST_FRAME => ⟨0x0B800, 31, 16, .ro, .direct, 0, [(4, 256)]⟩
  | .GRP_STATUS_BUSY => ⟨0x0D000, 0, 0, .ro, .direct, 0, []⟩
  | .GRP_STATUS_ROLE => ⟨0x0D000, 3, 1, .ro, .direct, 0, []⟩
  | .GRP_STATUS_GSTATE => ⟨0x0D000, 5, 4, .ro, .direct, 0, []⟩
  | .GRP_STATUS_QUARANTINED => ⟨0x0D000, 8, 8, .ro, .direct, 0, []⟩
  | .GRP_STATUS_PARTITION => ⟨0x0D000, 9, 9, .rc, .direct, 0, []⟩
  | .GRP_STATUS_MEMBER_LOST => ⟨0x0D000, 10, 10, .rc, .direct, 0, []⟩
  | .GRP_STATUS_DIGEST_MISMATCH => ⟨0x0D000, 11, 11, .rc, .direct, 0, []⟩
  | .GRP_STATUS_VERSION_MISMATCH => ⟨0x0D000, 12, 12, .rc, .direct, 0, []⟩
  | .GRP_STATUS_FRAME_ALIGNED => ⟨0x0D000, 13, 13, .rc, .direct, 0, []⟩
  | .GRP_STATUS_TIME_SLEW => ⟨0x0D000, 14, 14, .ro, .direct, 0, []⟩
  | .GRP_STATUS_STEWARD_LOST => ⟨0x0D000, 15, 15, .rc, .direct, 0, []⟩
  | .GRP_SELF_SLOT => ⟨0x0D004, 2, 0, .ro, .direct, 0, []⟩
  | .GRP_SELF_LEVELS => ⟨0x0D004, 6, 4, .ro, .direct, 0, []⟩
  | .GRP_SELF_UNIT_ADDR => ⟨0x0D004, 31, 16, .ro, .direct, 0, []⟩
  | .GRP_STEWARD_SLOT => ⟨0x0D008, 2, 0, .ro, .direct, 0, []⟩
  | .GRP_STEWARD_UNIT_ADDR => ⟨0x0D008, 31, 16, .ro, .direct, 0, []⟩
  | .GRP_DEPUTY_SLOT => ⟨0x0D00C, 2, 0, .ro, .direct, 0, []⟩
  | .GRP_DEPUTY_NONE => ⟨0x0D00C, 7, 7, .ro, .direct, 1, []⟩
  | .GRP_DEPUTY_UNIT_ADDR => ⟨0x0D00C, 31, 16, .ro, .direct, 0, []⟩
  | .GRP_PRESENT_MASK => ⟨0x0D010, 7, 0, .ro, .direct, 0, []⟩
  | .GRP_PRESENT_QUAR => ⟨0x0D010, 15, 8, .ro, .direct, 0, []⟩
  | .GRP_PRESENT_ELIGIBLE => ⟨0x0D010, 23, 16, .ro, .direct, 0, []⟩
  | .GRP_CYCLE_FRAME => ⟨0x0D014, 31, 0, .ro, .direct, 0, []⟩
  | .GRP_DIG_LO_D => ⟨0x0D018, 31, 0, .ro, .direct, 0, []⟩
  | .GRP_DIG_HI_D => ⟨0x0D01C, 31, 0, .ro, .direct, 0, []⟩
  | .GRP_STW_DIG_LO_D => ⟨0x0D020, 31, 0, .ro, .direct, 0, []⟩
  | .GRP_STW_DIG_HI_D => ⟨0x0D024, 31, 0, .ro, .direct, 0, []⟩
  | .GRP_STW_FW_CODE => ⟨0x0D028, 31, 0, .ro, .direct, 0, []⟩
  | .GRP_CNT0_FRAMES_LOST => ⟨0x0D02C, 15, 0, .rc, .direct, 0, []⟩
  | .GRP_CNT0_FRAMES_BAD => ⟨0x0D02C, 31, 16, .rc, .direct, 0, []⟩
  | .GRP_CNT1_FORWARDED => ⟨0x0D030, 15, 0, .rc, .direct, 0, []⟩
  | .GRP_CNT1_PARTITIONS => ⟨0x0D030, 31, 16, .rc, .direct, 0, []⟩
  | .GRP_BUDGET_US => ⟨0x0D034, 15, 0, .ro, .direct, 0, []⟩
  | .GRP_CTRL_REJOIN => ⟨0x0D038, 0, 0, .wo, .live, 0, []⟩
  | .GRP_ID_ID => ⟨0x0D03C, 31, 0, .ro, .direct, 0, []⟩
  | .GRP_HIST_G => ⟨0x0D040, 1, 0, .ro, .direct, 0, [(4, 16)]⟩
  | .GRP_HIST_SLOT => ⟨0x0D040, 6, 4, .ro, .direct, 0, [(4, 16)]⟩
  | .GRP_HIST_REASON => ⟨0x0D040, 15, 8, .ro, .direct, 0, [(4, 16)]⟩
  | .GRP_HIST_FRAME => ⟨0x0D040, 31, 16, .ro, .direct, 0, [(4, 16)]⟩
  | .GRP_MEM_STAT_PRESENT => ⟨0x0D100, 0, 0, .ro, .direct, 0, [(64, 8)]⟩
  | .GRP_MEM_STAT_JOINED => ⟨0x0D100, 1, 1, .ro, .direct, 0, [(64, 8)]⟩
  | .GRP_MEM_STAT_QUAR => ⟨0x0D100, 2, 2, .ro, .direct, 0, [(64, 8)]⟩
  | .GRP_MEM_STAT_LOST => ⟨0x0D100, 3, 3, .rc, .direct, 0, [(64, 8)]⟩
  | .GRP_MEM_STAT_ELIGIBLE => ⟨0x0D100, 4, 4, .ro, .direct, 0, [(64, 8)]⟩
  | .GRP_MEM_STAT_TIME_SLEW => ⟨0x0D100, 5, 5, .ro, .direct, 0, [(64, 8)]⟩
  | .GRP_MEM_STAT_GSTATE => ⟨0x0D100, 7, 6, .ro, .direct, 0, [(64, 8)]⟩
  | .GRP_MEM_STAT_KIND => ⟨0x0D100, 10, 8, .ro, .direct, 0, [(64, 8)]⟩
  | .GRP_MEM_ID_LO_ID => ⟨0x0D104, 31, 0, .ro, .direct, 0, [(64, 8)]⟩
  | .GRP_MEM_ID_HI_ID => ⟨0x0D108, 31, 0, .ro, .direct, 0, [(64, 8)]⟩
  | .GRP_MEM_ADDR_UNIT_ADDR => ⟨0x0D10C, 15, 0, .ro, .direct, 0, [(64, 8)]⟩
  | .GRP_MEM_ADDR_DEPTH => ⟨0x0D10C, 18, 16, .ro, .direct, 0, [(64, 8)]⟩
  | .GRP_MEM_DIG_LO_D => ⟨0x0D110, 31, 0, .ro, .direct, 0, [(64, 8), (8, 3)]⟩
  | .GRP_MEM_DIG_HI_D => ⟨0x0D114, 31, 0, .ro, .direct, 0, [(64, 8), (8, 3)]⟩
  | .GRP_MEM_FW_CODE => ⟨0x0D128, 31, 0, .ro, .direct, 0, [(64, 8)]⟩
  | .GRP_MEM_CAPS0_ARMS => ⟨0x0D12C, 15, 0, .ro, .direct, 0, [(64, 8)]⟩
  | .GRP_MEM_CAPS0_JOINTS => ⟨0x0D12C, 31, 16, .ro, .direct, 0, [(64, 8)]⟩
  | .GRP_MEM_CAPS1_LOCAL_AXES => ⟨0x0D130, 15, 0, .ro, .direct, 0, [(64, 8)]⟩
  | .GRP_MEM_CAPS1_PORTS => ⟨0x0D130, 31, 16, .ro, .direct, 0, [(64, 8)]⟩
  | .GRP_MEM_PATH_NS => ⟨0x0D134, 15, 0, .ro, .direct, 0, [(64, 8)]⟩
  | .GRP_MEM_CNT_LOST => ⟨0x0D138, 15, 0, .rc, .direct, 0, [(64, 8)]⟩
  | .GRP_MEM_CNT_BAD => ⟨0x0D138, 31, 16, .rc, .direct, 0, [(64, 8)]⟩
  | .GRP_MEM_LAST_FRAME => ⟨0x0D13C, 31, 0, .ro, .direct, 0, [(64, 8)]⟩
  | .GRP_MAP_INDEX => ⟨0x0D800, 7, 0, .ro, .direct, 0, [(4, 512)]⟩
  | .GRP_MAP_SLOT => ⟨0x0D800, 10, 8, .ro, .direct, 0, [(4, 512)]⟩
  | .GRP_MAP_VALID => ⟨0x0D800, 31, 31, .ro, .direct, 0, [(4, 512)]⟩
  | .PWR_STATUS_BUSY => ⟨0x0C000, 0, 0, .ro, .direct, 0, []⟩
  | .PWR_STATUS_SHARED_UP => ⟨0x0C000, 1, 1, .ro, .direct, 0, []⟩
  | .PWR_STATUS_LANE_UP => ⟨0x0C000, 4, 2, .ro, .direct, 0, []⟩
  | .PWR_STATUS_CONV_OK => ⟨0x0C000, 7, 5, .ro, .direct, 0, []⟩
  | .PWR_STATUS_RESET_N => ⟨0x0C000, 8, 8, .ro, .direct, 1, []⟩
  | .PWR_STATUS_TEMP_WARN => ⟨0x0C000, 9, 9, .rc, .direct, 0, []⟩
  | .PWR_STATUS_TEMP_LIMIT => ⟨0x0C000, 10, 10, .rc, .direct, 0, []⟩
  | .PWR_STATUS_CLK_FAULT => ⟨0x0C000, 11, 11, .rc, .direct, 0, []⟩
  | .PWR_STATUS_CONV_FAULT => ⟨0x0C000, 12, 12, .rc, .direct, 0, []⟩
  | .PWR_RST_CAUSE_CAUSE => ⟨0x0C004, 3, 0, .ro, .direct, 1, []⟩
  | .PWR_RST_CNT0_DEVICE => ⟨0x0C008, 15, 0, .ro, .direct, 0, []⟩
  | .PWR_RST_CNT0_RESET_PIN => ⟨0x0C008, 31, 16, .ro, .direct, 0, []⟩
  | .PWR_RST_CNT1_LANE => ⟨0x0C00C, 23, 0, .ro, .direct, 0, []⟩
  | .PWR_RST_CNT1_SHARED => ⟨0x0C00C, 31, 24, .ro, .direct, 0, []⟩
  | .PWR_CLK_STAT_IN_WINDOW => ⟨0x0C010, 3, 0, .ro, .direct, 0, []⟩
  | .PWR_CLK_STAT_REFCLK => ⟨0x0C010, 4, 4, .ro, .direct, 0, []⟩
  | .PWR_CLK_STAT_RC_FAULT => ⟨0x0C010, 8, 8, .rc, .direct, 0, []⟩
  | .PWR_CLK_CNT_FAULTS => ⟨0x0C014, 15, 0, .rc, .direct, 0, []⟩
  | .PWR_THERM_WARN_C => ⟨0x0C018, 7, 0, .rw, .live, 120, []⟩
  | .PWR_THERM_LIMIT_C => ⟨0x0C018, 15, 8, .ro, .direct, 135, []⟩
  | .PWR_DBG_STAT_UNLOCKED => ⟨0x0C01C, 0, 0, .ro, .direct, 0, []⟩
  | .PWR_DBG_STAT_LOCKOUT => ⟨0x0C01C, 1, 1, .ro, .direct, 0, []⟩
  | .PWR_DBG_STAT_FAILS => ⟨0x0C01C, 3, 2, .ro, .direct, 0, []⟩
  | .PWR_DBG_STAT_LANE_AUTH => ⟨0x0C01C, 6, 4, .ro, .direct, 0, []⟩
  | .PWR_OTP_STAT_PROGRAMMED => ⟨0x0C020, 5, 0, .ro, .direct, 0, []⟩
  | .PWR_OTP_STAT_DBG_DISABLE => ⟨0x0C020, 8, 8, .ro, .direct, 0, []⟩
  | .PWR_POWER_MW => ⟨0x0C024, 15, 0, .ro, .direct, 0, []⟩
  | .PWR_RAIL_MV => ⟨0x0C028, 15, 0, .ro, .direct, 0, []⟩
  | .PWR_RAIL_MA => ⟨0x0C028, 31, 16, .ro, .direct, 0, []⟩
  | .PWR_UPTIME_LO_MS => ⟨0x0C02C, 31, 0, .ro, .direct, 0, []⟩
  | .PWR_UPTIME_HI_MS => ⟨0x0C030, 31, 0, .ro, .direct, 0, []⟩
  | .PWR_TEMP_MAX_T => ⟨0x0C034, 15, 0, .rc, .direct, 32768, []⟩
  | .PWR_TEMP_MAX_SENSOR => ⟨0x0C034, 19, 16, .rc, .direct, 0, []⟩
  | .PWR_CTRL_CLR_LOG => ⟨0x0C038, 0, 0, .wo, .live, 0, []⟩
  | .PWR_BOOT_MS => ⟨0x0C03C, 15, 0, .ro, .direct, 0, []⟩
  | .PWR_RSTLOG_CAUSE => ⟨0x0C040, 3, 0, .ro, .direct, 0, [(4, 16)]⟩
  | .PWR_RSTLOG_SCOPE => ⟨0x0C040, 6, 4, .ro, .direct, 0, [(4, 16)]⟩
  | .PWR_RSTLOG_UPTIME_S => ⟨0x0C040, 31, 8, .ro, .direct, 0, [(4, 16)]⟩
  | .PWR_SUP_STAT_PRESENT => ⟨0x0C100, 0, 0, .ro, .direct, 0, [(64, 3)]⟩
  | .PWR_SUP_STAT_WARN => ⟨0x0C100, 1, 1, .ro, .direct, 0, [(64, 3)]⟩
  | .PWR_SUP_STAT_IN_RESET => ⟨0x0C100, 2, 2, .ro, .direct, 1, [(64, 3)]⟩
  | .PWR_SUP_STAT_CONV_RUN => ⟨0x0C100, 3, 3, .ro, .direct, 0, [(64, 3)]⟩
  | .PWR_SUP_STAT_CONV_FAULT => ⟨0x0C100, 4, 4, .ro, .direct, 0, [(64, 3)]⟩
  | .PWR_SUP_VIN_MV => ⟨0x0C104, 15, 0, .ro, .direct, 0, [(64, 3)]⟩
  | .PWR_SUP_VMIN_MV => ⟨0x0C108, 15, 0, .rc, .direct, 65535, [(64, 3)]⟩
  | .PWR_SUP_VMAX_MV => ⟨0x0C10C, 15, 0, .rc, .direct, 0, [(64, 3)]⟩
  | .PWR_SUP_IIN_MA => ⟨0x0C110, 15, 0, .ro, .direct, 0, [(64, 3)]⟩
  | .PWR_SUP_PIN_MW => ⟨0x0C114, 15, 0, .ro, .direct, 0, [(64, 3)]⟩
  | .PWR_SUP_CNT_WARN => ⟨0x0C118, 15, 0, .ro, .direct, 0, [(64, 3)]⟩
  | .PWR_SUP_CNT_RESET => ⟨0x0C118, 31, 16, .ro, .direct, 0, [(64, 3)]⟩
  | .PWR_SUP_CONV_MV => ⟨0x0C11C, 15, 0, .ro, .direct, 0, [(64, 3)]⟩
  | .PWR_SUP_HIST_VMIN => ⟨0x0C120, 15, 0, .ro, .direct, 0, [(64, 3), (4, 8)]⟩
  | .PWR_SUP_HIST_VMAX => ⟨0x0C120, 31, 16, .ro, .direct, 0, [(64, 3), (4, 8)]⟩
  | .PWR_TEMP_T => ⟨0x0C200, 15, 0, .ro, .direct, 0, [(4, 16)]⟩
  | .PWR_TEMP_MAX => ⟨0x0C200, 31, 16, .ro, .direct, 32768, [(4, 16)]⟩

/-- Part of the list of all fields, in table order. -/
def allFields0 : List RegField :=
  [.BLF_CFG_PERIOD, .BLF_CFG_SOURCE, .BLF_STATUS_STATE, .BLF_STATUS_JUMP_REFUSED, .BLF_STATUS_TIME_DIVERGED,
   .BLF_STATUS_SOURCE_LOST, .BLF_STATUS_TT_LATE, .BLF_STATUS_TT_REJECT, .BLF_STATUS_EPOCH_SET, .BLF_STATUS_BUSY,
   .BLF_TIME_NS_NS, .BLF_FRAME_NO_NO, .BLF_FRAME_SNAP_NO, .BLF_LATCH_OFFSET, .BLF_PHASE_PHASE,
   .BLF_JUMP_THR_THR_NS, .BLF_SLEW_MAX_PPM, .BLF_OFFSET_NS, .BLF_RATE_PPB, .BLF_EPOCH_LO_NS,
   .BLF_EPOCH_HI_NS, .BLF_ACQUIRE_GO, .BLF_PTP_CFG_EN, .BLF_PTP_CFG_ROLE, .BLF_PTP_CFG_DELAY,
   .BLF_PTP_CFG_TRANSPORT, .BLF_PTP_CFG_DOMAIN, .BLF_PTP_CFG_LOG_SYNC, .BLF_PTP_CFG_LOG_DELAY, .BLF_PTP_CFG_ONESTEP_CNT,
   .BLF_PTP_LAT_RX_NS, .BLF_PTP_LAT_TX_NS, .BLF_SOF_TX_NS, .BLF_SOF_RX_NS, .BLF_TT_CTRL_MODE,
   .BLF_TT_CTRL_POL, .BLF_TT_CTRL_ARMED, .BLF_TT_START_NS, .BLF_TT_PERIOD_NS, .BLF_TT_WIDTH_NS,
   .BLF_TT_DIV_DIV, .BLF_TT_DIV_PHASE, .LN_STATUS_STATE, .LN_STATUS_IN_VOTE, .LN_STATUS_LANE_DEBUG,
   .LN_STATUS_FAULT_LATCH, .LN_STATUS_LOCKSTEP_MISMATCH, .LN_STATUS_CMP_TEST_FAIL, .LN_STATUS_CONFIG_DIVERGE, .LN_STATUS_ARB_FAULT,
   .LN_STATUS_LANE_SILENT, .LN_STATUS_MEM_UE, .LN_STATUS_LANE_REJOIN, .LN_STATUS_TICK_LOST, .LN_STATUS_INPUT_DISAGREE,
   .LN_STATUS_REJOIN_LIMIT, .LN_CMP_TEST_NEXT_GROUP, .LN_CMP_TEST_FAIL_GROUP, .LN_CMP_TEST_PASS_CNT, .LN_DIGEST_LO_DIGEST,
   .LN_DIGEST_HI_DIGEST, .LN_EXCH_ERR_CRC_P1, .LN_EXCH_ERR_LATE_P1, .LN_EXCH_ERR_CRC_P2, .LN_EXCH_ERR_LATE_P2,
   .LN_ARB_ROUNDS, .LN_ARB_LAST_OUTCOME, .LN_ARB_LAST_TEST, .LN_MEM_CE_CNT, .LN_MEM_SCRUB_PASS]

/-- Part of the list of all fields, in table order. -/
def allFields1 : List RegField :=
  [.LN_REJOIN_FAULTS_60MIN, .LN_REJOIN_COUNT, .LN_DISAGREE_INPUT_CNT, .LN_DISAGREE_SILENT_CNT, .SAF_DEG_STATUS_ACTIVE,
   .SAF_DEG_STATUS_EXPIRED, .SAF_DEG_STATUS_TIGHTENED, .SAF_DEG_STATUS_SUPPLY_WARN, .SAF_DEG_REMAIN_MS, .SAF_DEG_HEALTHY_MS,
   .SAF_FAULT_FIRST_KIND, .SAF_FAULT_FIRST_INDEX, .SAF_FAULT_FIRST_EVENT, .SAF_FAULT_SECOND_KIND, .SAF_FAULT_SECOND_INDEX,
   .SAF_FAULT_SECOND_EVENT, .SAF_LINK_GOOD, .SAF_LINK_LINK_FAULT, .SAF_LANE_OUT_RING_LOST, .SAF_LANE_OUT_OVERRUN,
   .SAF_LANE_OUT_LINK_OUT, .SAF_BRK_STAT_RELEASED, .SAF_BRK_STAT_LOCKED, .SAF_BRK_STAT_BRAKE_FAULT, .SAF_BRK_STAT_SENSE_FAULT,
   .SAF_BRK_STAT_PT_DUE, .SAF_BRK_STAT_PT_FAIL, .SAF_BRK_STAT_PT_FAIL_STEP, .SAF_BRK_STAT_GATE, .SAF_BRK_STAT_PENDING,
   .SAF_BRK_STAT_I_MEAN, .SAF_PT_AGE_DARK_MIN, .SAF_PT_AGE_LIGHT_MIN, .ENT_STAT_LINK0, .ENT_STAT_LINK1,
   .ENT_STAT_BREAK, .ENT_STAT_BREAK_OK, .ENT_STAT_BYPASS_CLOSED, .ENT_STAT_BUSY, .ENT_STAT_TURN_ID,
   .ENT_STAT_HOP0, .ENT_STAT_HOP1, .ENT_TRING_NS, .ENT_BUDGET_B_USED, .ENT_BUDGET_B_MAX,
   .ENT_EVCFG_ERR_THR, .ENT_P_CNT0_CODE_ERR, .ENT_P_CNT0_CRC_ERR, .ENT_P_CNT1_POISON, .ENT_P_CNT1_LATE,
   .ENT_P_CNT2_TURNED, .ENT_P_CNT2_SYNC_LOSS, .ENT_P_ERRID_ERR_ID, .ENT_P_ERRID_ERR_CNT, .ENT_START_STATE,
   .ENT_START_MASTER_ID, .ENT_START_FOREIGN, .ENT_START_STARTS, .ENT_SCHED_SCHED_ID, .ENT_SCHED_ENTRIES,
   .ENT_SCHED_N, .ENT_GUARD_NS, .ENT_GUARD_ADMITTED, .ENT_GUARD_REMOVALS, .ENT_NODE_NODE_ID,
   .ENT_NODE_STATE, .ENT_NODE_SPARE, .ENT_NODE_CLAIMED, .ENT_NODE_MASTER_CAP, .ENT_NODE_POS]

/-- Part of the list of all fields, in table order. -/
def allFields2 : List RegField :=
  [.ENT_NODE_READMITS, .ENT_NODE_SYNC_ERR, .ENT_NODE_GUARD_CNT, .PLN_CFG_RESERVE, .PLN_CFG_ZONE_GAP,
   .PLN_CFG2_ZONE_WAIT, .PLN_STATUS_BUSY, .PLN_STATUS_COMMIT_LATE, .PLN_STATUS_DECEL_CLAMPED, .PLN_STATUS_STORE_LOW,
   .PLN_STATUS_STORE_DRAIN, .PLN_STATUS_IK_LOAD, .PLN_ARM_STAT_STATE, .PLN_ARM_STAT_QUEUED, .PLN_ARM_STAT_DECEL_CLAMPED,
   .PLN_ARM_STAT_DRAINED, .PLN_ARM_STAT_STORE_LOW, .PLN_ARM_STAT_CAPPED, .PLN_ARM_STAT_COUPLED, .PLN_ARM_ZONES_HELD,
   .PLN_ARM_ZWAIT_REQ, .PLN_ARM_DEPTH_FRAMES, .PLN_ZONE_OWNER, .PLN_ZONE_WAITERS, .PLN_MST_CFG_SRC,
   .PLN_MST_CFG_IDX, .PLN_MST_DML_CPS2, .PLN_MST_STAT_VALID, .PLN_MST_STAT_MASTER_LOST, .PLN_TRK_MASTER,
   .PLN_TRK_UM_PER_CNT, .PLN_TRK_DIR, .PLN_VLIM_LO_CNT, .PLN_VLIM_HI_CNT, .MIL_STATUS_BUSY,
   .MIL_STATUS_ENG_FAULT, .MIL_STATUS_ANY_MISS, .MIL_STATUS_TLM_OVERFLOW, .MIL_STATUS_SPARES, .MIL_MAP_PHYS,
   .MIL_ENG_STAT_STATE, .MIL_ENG_STAT_CAUSE, .MIL_ENG_STAT_LOGICAL, .MIL_ENG_STAT_KAT_PASS, .MIL_SLOT_STAT_DEADLINE_MISS,
   .MIL_SLOT_STAT_MISS_RUN, .MIL_SLOT_STAT_MISS3, .MIL_TBL_SEL_JOINT, .MIL_TBL_SEL_BANK, .MIL_TBL_SEL_POINT,
   .MIL_TBL_E_E, .MIL_TBL_G_G, .MIL_TLM_CTRL_EN, .MIL_TLM_BASE_LO_ADDR, .MIL_TLM_BASE_HI_ADDR,
   .MIL_TLM_SIZE_RECORDS, .MIL_TLM_WR_IDX, .MIL_TLM_RD_IDX, .MIL_TLM_SEL_SRC, .MIL_TLM_SEL_CHAN,
   .MIL_TLM_SEL_VALID, .MIL_J_CTRL_EN, .MIL_J_CTRL_OUT_INV, .MIL_J_CTRL_BANK, .MIL_J_OBS_F_OBS,
   .MIL_J_KVF_V, .MIL_J_KAF_V, .MIL_J_KV_V, .MIL_J_KI_V, .MIL_J_UMAX_U]

/-- Part of the list of all fields, in table order. -/
def allFields3 : List RegField :=
  [.MIL_J_DUMAX_DU, .MIL_J_UOFF_U, .MIL_J_STAT_DEADLINE_MISS, .MIL_J_STAT_MISS_RUN, .MIL_J_STAT_MISS3,
   .MIL_J_STAT_FROZEN, .MIL_J_STAT_LIMITED, .MIL_J_STAT_SEG_BAD, .MIL_J_STAT_TBL_REJECT, .MIL_J_STAT_PARAM_REJECT,
   .MIL_J_STAT_GRANTED, .MIL_J_STAT_COAST, .MIL_J_MISS_CNT, .MIL_J_EP_V, .MIL_J_UOUT_U,
   .MIL_J_VHAT_V, .COM_STATUS_ACTIVE, .COM_STATUS_VOTE_SPLIT, .COM_STATUS_SENSOR_FALLBACK, .COM_STATUS_ENVELOPE_EXIT,
   .COM_STATUS_COM_OVERRUN, .COM_STATUS_ARM_STALE, .COM_STATUS_SEP_REDUCE, .COM_STATUS_SEP_STOP, .COM_PASS_NO,
   .COM_PAIRS_COUNT, .COM_PAIRS_CAPSULES, .COM_LANE_LAST_STATUS, .COM_LANE_OVERRUN_CNT, .COM_LANE_OUTLIER_CNT,
   .COM_ARM_D_MM, .COM_ARM_SP_MM, .COM_ARM_RES_PAIR_IDX, .COM_ARM_RES_REACTION, .COM_ARM_RES_FLAGS,
   .COM_ARM_RES_AGREE, .COM_ARM_CNT_STOPS, .COM_ARM_CNT_REDUCE, .COM_VOL_PRESENT, .COM_VOL_FALLBACK,
   .COM_VOL_OBSTACLE, .COM_VOL_SENSOR, .COM_VOL_V_MMS, .SAF_SAFE_OK_LEVEL, .SAF_SAFE_OK_DISC_ANY,
   .SAF_SI_STAT_CH1, .SAF_SI_STAT_CH2, .SAF_SI_STAT_ACTIVE, .SAF_SI_STAT_MIXED, .SAF_SI_STAT_DISC,
   .SAF_SI_STAT_DISC_EV, .SAF_SI_STAT_FUNC, .SAF_SI_STAT_DISC_CNT, .SAF_UNIT_STAT_FUNC, .SAF_UNIT_STAT_TORQUE,
   .SAF_UNIT_STAT_BRAKE_REL, .SAF_UNIT_STAT_SLS_SET, .SAF_UNIT_STAT_ACK_PEND, .SAF_UNIT_STAT_SLS_VIOL, .SAF_UNIT_STAT_SLP_VIOL,
   .SAF_UNIT_STAT_RAMP_VIOL, .SAF_UNIT_STAT_SOS_VIOL, .SAF_UNIT_STAT_STANDSTILL, .SAF_UNIT_STAT_DISABLED, .SAF_UNIT_STAT_CAUSE,
   .SAF_PKG_STAT_STATE, .SAF_PKG_STAT_RESULT, .SAF_PKG_STAT_ENROLLED, .SAF_PKG_STAT_KEY_SLOT, .SAF_PKG_APPLIED_SEQ]

/-- Part of the list of all fields, in table order. -/
def allFields4 : List RegField :=
  [.SAF_PKG_PEND_SEQ, .SAF_PKG_FAIL_OFFSET, .SAF_DBG_LANE_LANE, .SAF_DBG_ADDR_ADDR, .SAF_DBG_DATA_DATA,
   .FBK_CFG_EN, .FBK_CFG_MODE, .FBK_CFG_FILT, .FBK_CFG_REF_MODE, .FBK_CFG_DIR_SRC,
   .FBK_CFG_INV, .FBK_CFG_Z_AB, .FBK_OBS_F_OBS, .FBK_VLOW_V, .FBK_EIMAX_US,
   .FBK_TEETH_N, .FBK_TEETH_MISS, .FBK_CPR_N, .FBK_SER0_LEN, .FBK_SER0_LEAD,
   .FBK_SER0_TRAIL, .FBK_SER0_GRAY, .FBK_SER0_DOUBLE, .FBK_SER0_ERR_BIT, .FBK_SER0_WARN_BIT,
   .FBK_SER0_CRC_LEN, .FBK_SER0_DLY, .FBK_SER1_CRC_POLY, .FBK_SER1_CLK_KHZ, .FBK_SER2_TM_US,
   .FBK_SER2_ACK_MAX, .FBK_SER2_MAXD, .FBK_STAT_VALID, .FBK_STAT_CHAN_FAULT, .FBK_STAT_LOW,
   .FBK_STAT_REF_SEEN, .FBK_STAT_QUAD_ERR, .FBK_STAT_REF_ERR, .FBK_STAT_SER_ERR, .FBK_STAT_WARN,
   .FBK_STAT_FB_CFG_REJECT, .FBK_STAT_BUSY, .FBK_ERR_QUAD_CNT, .FBK_ERR_REF_CNT, .FBK_ERR_CRC_CNT,
   .FBK_ERR_OTHER_CNT, .FBK_CNT_Y, .FBK_REFPOS_Y, .FBK_VEL_V, .FBK_ACC_A,
   .FBK_CTRL_CLR, .FBK_CTRL_PRESET, .FBK_PRESET_Y, .FBK_LDLY_NS, .STP_CFG_MODE,
   .STP_CFG_OUT_FMT, .STP_CFG_DIR_INV, .STP_CFG_EN_POL, .STP_CFG_STEP_POL, .STP_CFG_STANDBY,
   .STP_CFG_STALL_ACT, .STP_CFG_DEV_EN, .STP_CFG_REP_SRC, .STP_TIME_STEP_HI, .STP_TIME_DIR_SETUP,
   .STP_WAKE_WAKE_US, .STP_WAKE_IDLE_MS, .STP_RATIO_NUM, .STP_RATIO_DEN, .STP_ENC_ENC_NUM]

/-- Part of the list of all fields, in table order. -/
def allFields5 : List RegField :=
  [.STP_ENC_ENC_DEN, .STP_DEV_DEV_WIN, .STP_DEV_STALL_FR, .STP_VLIM_LO_STEPS, .STP_VLIM_HI_STEPS,
   .STP_STALL_STEPS, .STP_CTRL_RUN, .STP_CTRL_REARM, .STP_STAT_HELD, .STP_STAT_STANDBY_ON,
   .STP_STAT_LOST_STEP, .STP_STAT_STALL, .STP_STAT_FB_LOST, .STP_STAT_STEP_LIMIT, .STP_STAT_VLIM_HIT,
   .STP_STAT_REP_OVF, .STP_STAT_SP_CFG_REJECT, .STP_STAT_GRANTED, .STP_STAT_BUSY, .STP_POS_S,
   .STP_DEVV_E, .STP_LAG_STEPS, .ADC_CFG_LP, .ADC_REF_EN, .ADC_REF_READY,
   .ADC_STATUS_BUSY, .ADC_STATUS_CHK_FAIL, .ADC_STATUS_TRIG_EARLY, .ADC_STATUS_SEQ_ACTIVE, .ADC_STATUS_TRIG_QUEUED,
   .ADC_STATUS_CORR_RESTORE, .ADC_STATUS_SEQ_CFG_REJECT, .ADC_CNT_TRIG_OVERRUN, .ADC_CNT_CHK_FAIL_CNT, .ADC_SNAP_FRAME_NO,
   .ADC_SEQ_CTRL_EN, .ADC_SEQ_CTRL_TRIG_SRC, .ADC_SEQ_CTRL_GO, .ADC_SEQ_CTRL_CLR_ON_START, .ADC_SEQ_CTRL_LEN0,
   .ADC_SEQ_CTRL_LEN1, .ADC_CH_STAT_OVR, .ADC_CH_STAT_OVR_CNT, .ADC_CORR_OFFSET, .ADC_CORR_GAIN,
   .ADC_FRAME_MEAN, .ADC_FRAME_MAX, .ADC_FRAME_MIN, .ADC_FRAME_COUNT, .ADC_SEQ0_E_CHAN,
   .ADC_SEQ0_E_OVS, .ADC_SEQ0_E_SETTLE, .ADC_SEQ0_E_DEST, .ADC_SEQ1_E_CHAN, .ADC_SEQ1_E_OVS,
   .ADC_SEQ1_E_SETTLE, .ADC_SEQ1_E_DEST, .ADC_UA_SUM_SUM, .ADC_UA_CNT_COUNT, .ADC_UA_CNT_FULL,
   .ADC_UA_MM_MIN, .ADC_UA_MM_MAX, .ADC_UA_CLR_CLR, .SMY_CTRL_RUN, .SMY_CTRL_HALT_REQ,
   .SMY_CTRL_START, .SMY_CFG_TRIG_SRC, .SMY_CFG_FRAC, .SMY_CFG_ENTRY, .SMY_BUDGET_CLK]

/-- Part of the list of all fields, in table order. -/
def allFields6 : List RegField :=
  [.SMY_STAT_ACTIVE, .SMY_STAT_QUEUED, .SMY_STAT_SAT, .SMY_STAT_ILLEGAL, .SMY_STAT_BUDGET_EXCEEDED,
   .SMY_STAT_BUSY, .SMY_STAT_PC, .SMY_CNT_TRIG_OVERRUN, .SMY_CNT_RUNS, .SMY_CYC_LAST,
   .SMY_CYC_MAX, .SMY_PADDR_ADDR, .SMY_PDATA_WORD, .SMY_DADDR_ADDR, .SMY_DADDR_Y,
   .SMY_DDATA_WORD, .SMY_OUT_V, .SMY_SIG_CODE, .SMY_SIG_DROPPED, .RVE_CFG_RUN_MAX_US,
   .RVE_STATUS_BUSY, .RVE_STATUS_OVERLONG, .RVE_STATUS_POOL_LOW, .RVE_STATUS_LANE_OVF, .RVE_STATUS_NO_TASK,
   .RVE_CNT_FREE_ITEMS, .RVE_CNT_TASKS, .RVE_CNT_ETH_DROP, .RVE_CNT_POOL_EMPTY, .RVE_CORE_SLOTS,
   .RVE_CORE_TASK, .RVE_CORE_RUNNING, .RVE_CORE_RUN_CLK, .RVE_CORE_DISPLACED, .RVE_CORE_OVERLONG_CNT,
   .RVE_TASK_STAT_STATE, .RVE_TASK_STAT_KIND, .RVE_TASK_STAT_PRIO, .RVE_TASK_STAT_AFFINITY, .RVE_TASK_STAT_SIGNAL,
   .RVE_TASK_STAT_CANCEL_REQ, .RVE_TASK_STAT_FLOW, .RVE_TASK_QUEUE_ITEMS, .RVE_TASK_QUEUE_RUNS, .RVE_FLOW_CFG_MODE,
   .RVE_FLOW_CFG_NEXT, .RVE_FLOW_STAT_REL, .RVE_FLOW_STAT_HELD, .RVE_FLOW_STAT_BLOCKED, .HST_CFG_POLL_US,
   .HST_CFG_HINT_US, .HST_CFG_HINT_EN, .HST_DB_BASE_LO_ADDR, .HST_DB_BASE_HI_ADDR, .HST_STATUS_BUSY,
   .HST_STATUS_LINK_UP, .HST_STATUS_IN_FLIGHT, .HST_STATUS_IMM_FLIGHT, .HST_CNT_REJECTS, .HST_CNT_REPLAYS,
   .HST_EVQ_BASE_LO_ADDR, .HST_EVQ_BASE_HI_ADDR, .HST_EVQ_CFG_EN, .HST_EVQ_CFG_SIZE, .HST_EVQ_STAT_TAIL,
   .HST_EVQ_STAT_LOST, .HST_SQ_BASE_LO_ADDR, .HST_SQ_BASE_HI_ADDR, .HST_SQ_CFG_EN, .HST_SQ_CFG_SEQ_RESET]

/-- Part of the list of all fields, in table order. -/
def allFields7 : List RegField :=
  [.HST_SQ_CFG_CQ, .HST_SQ_CFG_SIZE, .HST_SQ_STAT_HEAD, .HST_SQ_STAT_Q_ERR, .HST_SQ_STAT_IN_FLIGHT,
   .HST_CQ_BASE_LO_ADDR, .HST_CQ_BASE_HI_ADDR, .HST_CQ_CFG_EN, .HST_CQ_CFG_SIZE, .HST_CQ_STAT_TAIL,
   .HST_CQ_STAT_PHASE, .HST_CQ_STAT_Q_ERR, .HST_CQ_STAT_OWED, .SYS_ID_STEP, .SYS_ID_PART,
   .SYS_ID_VENDOR, .SYS_SERIAL_LO_SN, .SYS_SERIAL_HI_SN, .SYS_FW_VERSION_CODE, .SYS_ROM_VERSION_CODE,
   .SYS_BOOT_COUNT_N, .SYS_MODE_MODE, .SYS_MODE_FW_SLOT, .SYS_MODE_CFG_SLOT, .SYS_MODE_HOLD_CAUSE,
   .SYS_STATUS_LOCK_VIOL, .SYS_STATUS_BUSY_DROP, .SYS_STATUS_BUSY_REJECT, .SYS_STATUS_PAIR_REJECT, .SYS_STATUS_ACCESS_ERR,
   .SYS_STATUS_BOOT_DONE, .SYS_COMMIT_GO, .SYS_COMMIT_ABORT, .SYS_COMMIT_STAT_PENDING, .SYS_COMMIT_STAT_ARMED,
   .SYS_COMMIT_STAT_LATE, .SYS_COMMIT_STAT_COUNT, .SYS_COMMIT_FRAME_FRAME, .SYS_LOCK_LOCK, .SYS_ACCESS_ALIAS_EN,
   .SYS_BUSY_BLF, .SYS_BUSY_ENT, .SYS_BUSY_PLN, .SYS_BUSY_MIL, .SYS_BUSY_RVE,
   .SYS_BUSY_HST, .SYS_BUSY_ADC, .SYS_BUSY_SMY, .SYS_BUSY_PWR, .SYS_BUSY_GRP,
   .SYS_BUSY_PORTS, .SYS_ERR_CNT0_LOCK_VIOL_CNT, .SYS_ERR_CNT0_ACCESS_ERR_CNT, .SYS_ERR_CNT1_BUSY_DROP_CNT, .SYS_ERR_CNT1_BUSY_REJECT_CNT,
   .SYS_ERR_LAST_ADDR, .SYS_ERR_LAST_CAUSE, .SYS_ERR_LAST_MASTER, .SYS_CAPS0_ARMS, .SYS_CAPS0_JOINTS,
   .SYS_CAPS1_LOCAL_AXES, .SYS_CAPS1_PORTS, .SYS_CAPS2_DEVICES, .SYS_CAPS2_DEPTH, .SYS_CAPS2_UNIT_ADDR,
   .SYS_SCRATCH_V, .SYS_REGDIG_CTRL_GO, .SYS_REGDIG_CTRL_DONE, .SYS_REGDIG_LO_CRC, .SYS_REGDIG_HI_CRC]

/-- Part of the list of all fields, in table order. -/
def allFields8 : List RegField :=
  [.SYS_BLK_BASE, .SYS_BLK_SIZE, .SYS_BLK_WORDS, .CRI_LOG_OLD_SEQ, .CRI_LOG_NEW_SEQ,
   .CRI_LOG_OVW_CNT, .CRI_STAT_COPYING, .CRI_STAT_QUEUE_FULL, .CRI_SRC_CNT_N, .CRI_SRC_LAST_CODE,
   .CRI_SRC_LAST_FRAME, .GRP_STATUS_BUSY, .GRP_STATUS_ROLE, .GRP_STATUS_GSTATE, .GRP_STATUS_QUARANTINED,
   .GRP_STATUS_PARTITION, .GRP_STATUS_MEMBER_LOST, .GRP_STATUS_DIGEST_MISMATCH, .GRP_STATUS_VERSION_MISMATCH, .GRP_STATUS_FRAME_ALIGNED,
   .GRP_STATUS_TIME_SLEW, .GRP_STATUS_STEWARD_LOST, .GRP_SELF_SLOT, .GRP_SELF_LEVELS, .GRP_SELF_UNIT_ADDR,
   .GRP_STEWARD_SLOT, .GRP_STEWARD_UNIT_ADDR, .GRP_DEPUTY_SLOT, .GRP_DEPUTY_NONE, .GRP_DEPUTY_UNIT_ADDR,
   .GRP_PRESENT_MASK, .GRP_PRESENT_QUAR, .GRP_PRESENT_ELIGIBLE, .GRP_CYCLE_FRAME, .GRP_DIG_LO_D,
   .GRP_DIG_HI_D, .GRP_STW_DIG_LO_D, .GRP_STW_DIG_HI_D, .GRP_STW_FW_CODE, .GRP_CNT0_FRAMES_LOST,
   .GRP_CNT0_FRAMES_BAD, .GRP_CNT1_FORWARDED, .GRP_CNT1_PARTITIONS, .GRP_BUDGET_US, .GRP_CTRL_REJOIN,
   .GRP_ID_ID, .GRP_HIST_G, .GRP_HIST_SLOT, .GRP_HIST_REASON, .GRP_HIST_FRAME,
   .GRP_MEM_STAT_PRESENT, .GRP_MEM_STAT_JOINED, .GRP_MEM_STAT_QUAR, .GRP_MEM_STAT_LOST, .GRP_MEM_STAT_ELIGIBLE,
   .GRP_MEM_STAT_TIME_SLEW, .GRP_MEM_STAT_GSTATE, .GRP_MEM_STAT_KIND, .GRP_MEM_ID_LO_ID, .GRP_MEM_ID_HI_ID,
   .GRP_MEM_ADDR_UNIT_ADDR, .GRP_MEM_ADDR_DEPTH, .GRP_MEM_DIG_LO_D, .GRP_MEM_DIG_HI_D, .GRP_MEM_FW_CODE,
   .GRP_MEM_CAPS0_ARMS, .GRP_MEM_CAPS0_JOINTS, .GRP_MEM_CAPS1_LOCAL_AXES, .GRP_MEM_CAPS1_PORTS, .GRP_MEM_PATH_NS]

/-- Part of the list of all fields, in table order. -/
def allFields9 : List RegField :=
  [.GRP_MEM_CNT_LOST, .GRP_MEM_CNT_BAD, .GRP_MEM_LAST_FRAME, .GRP_MAP_INDEX, .GRP_MAP_SLOT,
   .GRP_MAP_VALID, .PWR_STATUS_BUSY, .PWR_STATUS_SHARED_UP, .PWR_STATUS_LANE_UP, .PWR_STATUS_CONV_OK,
   .PWR_STATUS_RESET_N, .PWR_STATUS_TEMP_WARN, .PWR_STATUS_TEMP_LIMIT, .PWR_STATUS_CLK_FAULT, .PWR_STATUS_CONV_FAULT,
   .PWR_RST_CAUSE_CAUSE, .PWR_RST_CNT0_DEVICE, .PWR_RST_CNT0_RESET_PIN, .PWR_RST_CNT1_LANE, .PWR_RST_CNT1_SHARED,
   .PWR_CLK_STAT_IN_WINDOW, .PWR_CLK_STAT_REFCLK, .PWR_CLK_STAT_RC_FAULT, .PWR_CLK_CNT_FAULTS, .PWR_THERM_WARN_C,
   .PWR_THERM_LIMIT_C, .PWR_DBG_STAT_UNLOCKED, .PWR_DBG_STAT_LOCKOUT, .PWR_DBG_STAT_FAILS, .PWR_DBG_STAT_LANE_AUTH,
   .PWR_OTP_STAT_PROGRAMMED, .PWR_OTP_STAT_DBG_DISABLE, .PWR_POWER_MW, .PWR_RAIL_MV, .PWR_RAIL_MA,
   .PWR_UPTIME_LO_MS, .PWR_UPTIME_HI_MS, .PWR_TEMP_MAX_T, .PWR_TEMP_MAX_SENSOR, .PWR_CTRL_CLR_LOG,
   .PWR_BOOT_MS, .PWR_RSTLOG_CAUSE, .PWR_RSTLOG_SCOPE, .PWR_RSTLOG_UPTIME_S, .PWR_SUP_STAT_PRESENT,
   .PWR_SUP_STAT_WARN, .PWR_SUP_STAT_IN_RESET, .PWR_SUP_STAT_CONV_RUN, .PWR_SUP_STAT_CONV_FAULT, .PWR_SUP_VIN_MV,
   .PWR_SUP_VMIN_MV, .PWR_SUP_VMAX_MV, .PWR_SUP_IIN_MA, .PWR_SUP_PIN_MW, .PWR_SUP_CNT_WARN,
   .PWR_SUP_CNT_RESET, .PWR_SUP_CONV_MV, .PWR_SUP_HIST_VMIN, .PWR_SUP_HIST_VMAX, .PWR_TEMP_T,
   .PWR_TEMP_MAX]

/-- Every field of the register tables. -/
def allFields : List RegField :=
  allFields0 ++ allFields1 ++ allFields2 ++ allFields3 ++ allFields4 ++ allFields5 ++ allFields6 ++ allFields7 ++ allFields8 ++ allFields9

/-- Table 15-1: base (4 KiB units), log2 of the size (4 KiB units) and assigned words of block `b`, the row `SYS_BLKb`. -/
def blockRow : Nat → Nat × Nat × Nat
  | 0 => (0x0, 0, 46)
  | 1 => (0x1, 0, 70)
  | 2 => (0x2, 0, 9)
  | 3 => (0x3, 0, 9)
  | 4 => (0x4, 0, 9)
  | 5 => (0x5, 0, 103)
  | 6 => (0x6, 0, 102)
  | 7 => (0x7, 0, 333)
  | 8 => (0x8, 0, 325)
  | 9 => (0x9, 0, 656)
  | 10 => (0xA, 0, 137)
  | 11 => (0xB, 0, 516)
  | 12 => (0xC, 0, 96)
  | 13 => (0xD, 0, 672)
  | 14 => (0x10, 1, 539)
  | 15 => (0x14, 2, 1876)
  | 16 => (0x18, 0, 288)
  | 17 => (0x19, 0, 224)
  | 18 => (0x1A, 0, 86)
  | _ => (0, 0, 0)

/-- Reset value of element `i` of a field: the Reset column, and where that column refers to the text, what the text
gives: MIL_MAP identity (Table 8-9), logical engine p on P0 to P15, Table 15-1 for SYS_BLKb, per-device constants. -/
def RegField.reset (f : RegField) (i : Nat) : Nat :=
  match f with
  | .MIL_MAP_PHYS => (4 * i) + (4 * i + 1) * 2 ^ 8 + (4 * i + 2) * 2 ^ 16 + (4 * i + 3) * 2 ^ 24
  | .MIL_ENG_STAT_LOGICAL => if i < 16 then i else 0
  | .MIL_ENG_STAT_STATE => if i < 16 then 0 else 1
  | .SYS_SERIAL_LO_SN => Config.serialNumber.toNat % 2 ^ 32
  | .SYS_SERIAL_HI_SN => Config.serialNumber.toNat / 2 ^ 32
  | .SYS_ROM_VERSION_CODE => Config.romVersion.toNat
  | .SYS_BOOT_COUNT_N => Config.bootCount.toNat
  | .SYS_BLK_BASE => (blockRow i).1
  | .SYS_BLK_SIZE => (blockRow i).2.1
  | .SYS_BLK_WORDS => (blockRow i).2.2
  | .PWR_OTP_STAT_PROGRAMMED => Config.otpProgrammed.toNat
  | .PWR_OTP_STAT_DBG_DISABLE => Config.otpDebugDisable.toNat
  | f => f.desc.resetValue

/-- Width of a field in bits. -/
def RegField.width (f : RegField) : Nat := f.desc.hi - f.desc.lo + 1

/-- Number of elements of a field's array (1 for a single field). -/
def RegField.count (f : RegField) : Nat := f.desc.dims.foldl (fun n d => n * d.2) 1

/-- One written field of the register file: element `idx` of `field` holds `value`. -/
structure RegCell where
  field : RegField
  idx : Nat
  value : Nat
  deriving DecidableEq, Repr

/-- The register file: the elements whose value differs from their reset value, ordered by `RegCell.key`. -/
abbrev RegFile := List RegCell

/-- The order of the register file's cells: by element, then by field. -/
def regKey (f : RegField) (i : Nat) : Nat := 1024 * i + f.ctorIdx

/-- The value of element `i` of field `f`: its cell, or its reset value. -/
def RegFile.get : RegFile → RegField → Nat → Nat
  | [], f, i => f.reset i
  | c :: cs, f, i => if c.field = f ∧ c.idx = i then c.value else RegFile.get cs f i

/-- Remove every cell of element `i` of `f`. -/
def RegFile.erase (rs : RegFile) (f : RegField) (i : Nat) : RegFile :=
  rs.filter (fun c => decide (¬ (c.field = f ∧ c.idx = i)))

/-- Insert a cell in key order. -/
def RegFile.insert : RegFile → RegCell → RegFile
  | [], c => [c]
  | b :: cs, c => if regKey c.field c.idx < regKey b.field b.idx then c :: b :: cs else b :: RegFile.insert cs c

/-- Set element `i` of `f` to `v`: a value equal to the reset value leaves no cell. -/
def RegFile.set (rs : RegFile) (f : RegField) (i v : Nat) : RegFile :=
  let rs' := RegFile.erase rs f i
  if v = f.reset i then rs' else RegFile.insert rs' ⟨f, i, v⟩

/-- The canonical form: keys strictly rising and no cell at its reset value. -/
def RegFile.wf : RegFile → Bool
  | [] => true
  | c :: cs => decide (c.value ≠ c.field.reset c.idx) && cs.all (fun b => decide (regKey c.field c.idx < regKey b.field b.idx)) && RegFile.wf cs

end Sys2Proof.Machine
end

