-- ==== Sys2Proof/Machine/SMap.lean ====
section
/-!
DEFINITION. Sparse tables: a list of (index, value) pairs in one canonical form (indices strictly rising, no entry equal to
the value an unlisted index has). Every array of the model's state that is not a register is held this way, so that equal
tables are equal data.
-/
namespace Sys2Proof.Machine

/-- A table from indices to values; the value of an unlisted index is given to each operation. -/
abbrev SMap (α : Type) := List (Nat × α)

/-- The value at index `k`, `z` if none is listed. -/
def SMap.get {α : Type} (z : α) : SMap α → Nat → α
  | [], _ => z
  | e :: m, k => if e.1 = k then e.2 else SMap.get z m k

/-- Remove every entry of index `k`. -/
def SMap.erase {α : Type} (m : SMap α) (k : Nat) : SMap α := m.filter (fun e => decide (e.1 ≠ k))

/-- Insert an entry in index order. -/
def SMap.insert {α : Type} : SMap α → Nat → α → SMap α
  | [], k, v => [(k, v)]
  | e :: m, k, v => if k < e.1 then (k, v) :: e :: m else e :: SMap.insert m k v

/-- Set index `k` to `v`; the unlisted value `z` leaves no entry. -/
def SMap.set {α : Type} [DecidableEq α] (z : α) (m : SMap α) (k : Nat) (v : α) : SMap α :=
  if v = z then SMap.erase m k else SMap.insert (SMap.erase m k) k v

/-- The canonical form. -/
def SMap.wf {α : Type} [DecidableEq α] (z : α) : SMap α → Bool
  | [] => true
  | e :: m => decide (e.2 ≠ z) && m.all (fun f => decide (e.1 < f.1)) && SMap.wf z m

/-- Apply `f` to the value at index `k`. -/
def SMap.modify {α : Type} [DecidableEq α] (z : α) (m : SMap α) (k : Nat) (f : α → α) : SMap α :=
  SMap.set z m k (f (SMap.get z m k))

/-- Set the bytes from index `k` on. -/
def SMap.setBytes (z : Byte) : SMap Byte → Nat → List Byte → SMap Byte
  | m, _, [] => m
  | m, k, b :: bs => SMap.setBytes z (SMap.set z m k b) (k + 1) bs

/-- `n` values from index `k` on. -/
def SMap.slice {α : Type} (z : α) (m : SMap α) : Nat → Nat → List α
  | _, 0 => []
  | k, n + 1 => SMap.get z m k :: SMap.slice z m (k + 1) n

end Sys2Proof.Machine
end

