-- ==== Sys2Proof/Machine/State.lean ====
section
/-!
DEFINITION. The state of the device as plain data: everything the spec gives the block, the queue of waiting commands and the
free-value counter of the model. Each field cites the rule that names it; a field without another remark holds at reset the
value the spec gives for the block after reset. Registers are held in the register file `Dev.regs` (RegMap).
-/
namespace Sys2Proof.Machine

/-- No command of the device faults: the spec gives an effect to every access and every event, and R10 gives unassigned
addresses a value. The type is empty on purpose (safe: nothing can be raised). -/
inductive Fault
  deriving DecidableEq, Repr

/-- Why the model refuses a command. -/
inductive Refusal where
  /-- Raised by the dispatch for a command that has no meaning in the model yet; safe, since nothing is claimed of it. -/
  | notModelled (mnemonic : String)
  deriving DecidableEq, Repr

/-- A write to one register word: the word's byte address in BAR0, the bits written and their value. -/
structure WordWrite where
  addr : Nat
  mask : Nat
  value : Nat
  deriving DecidableEq, Repr

/-- A posted write on its way to the block of BUSY bit `busy` (R451, Table 15-3): one or two words (R446); `gen` is the number of GO
writes before it in bus order (R452). -/
structure Posted where
  busy : Nat
  master : Master
  words : List WordWrite
  gen : Nat
  deriving DecidableEq, Repr

/-- An armed set (R452): the frame at whose tick it applies, and its values, latest value of each field. -/
structure ArmedSet where
  frame : Nat
  cells : List RegCell
  deriving DecidableEq, Repr

/-- Register access: posted writes in flight, Live writes waiting for the tick with their masters, the number of GO writes so far,
the pending set, the sets a GO has requested and those armed (R452), the pair holding registers of R457 by pair (Table 15-4) and the
check of R462 with its snapshot. Reset: all empty. -/
structure SysState where
  posted : List Posted := []
  live : List (Master × RegCell) := []
  gen : Nat := 0
  pending : List RegCell := []
  requested : List (Nat × List RegCell) := []
  armed : List ArmedSet := []
  held : SMap (Option Nat) := []
  regdigAsked : Bool := false
  regdigRunning : Bool := false
  regdigShot : List (Nat × Nat) := []
  deriving DecidableEq, Repr

/-- One event record of the internal log (Table 14-10); PHASE and LOST are zero in the log. -/
structure EventRec where
  code : Nat
  source : Nat
  frame : Nat
  time : Nat
  seq : Nat
  index : Nat
  detail : Nat
  tag : Nat
  deriving DecidableEq, Repr

/-- The internal log (R44, R438): records held, oldest first, the last SEQ given and the last TAG. -/
structure EventLog where
  recs : List EventRec := []
  seq : Nat := 0
  tag : Nat := 0
  deriving DecidableEq, Repr

/-- A PTP message the device sends (Table 2-5). -/
inductive PtpMsg where
  | sync (seq : Nat)
  | followUp (seq : Nat) (origin : Int)
  | delayReq (seq : Nat)
  | pdelayReq (seq : Nat)
  | delayResp (seq : Nat) (receive : Int)
  | pdelayResp (seq : Nat) (receive transmit : Int)
  | announce (clock : PtpClock)
  deriving DecidableEq, Repr

/-- PTP state of one Ethernet port (R62): the Sync awaiting its Follow_Up with its receive stamp, origin and receive stamps
of the last complete Sync, the delay request awaiting its answer with its transmit stamp, twice the measured path delay,
the offset found and not yet delivered (source time minus extended device time), the next SEQ of sent messages, and the best master
heard with the time of its last Sync. -/
structure PtpPort where
  syncWait : Option (Nat × Int) := none
  lastSync : Option (Int × Int) := none
  reqWait : Option (Nat × Int) := none
  delay2 : Option Int := none
  offset : Option Int := none
  syncSeq : Nat := 0
  reqSeq : Nat := 0
  best : Option (PtpClock × Int) := none
  deriving DecidableEq, Repr

/-- One time-triggered output (R69 to R72): the next pulse in extended device time, the end of the running pulse, and the frame whose
frame-locked pulse has started. -/
structure TtOut where
  nextEdge : Option Int := none
  pulseEnd : Option Int := none
  firedIn : Option Nat := none
  deriving DecidableEq, Repr

/-- The time base (chapter 02). `ext` is extended device time in ns and `tickAt` its value at the last tick; rates are in
1/16 ppb and slew amounts in 1/256,000 ns, so that a frame at 1 ppm adds a whole number (R60). `latchNext` holds the latch offsets
committed with the ticks until they are in force (R55), `groupOffset` the offset of a steward frame not yet delivered (R468). -/
structure TimeBase where
  ticking : Bool := false
  ext : Int := 0
  tickAt : Int := 0
  stepNext : Int := 0
  latchNow : Nat := 1000
  latchNext : List (Nat × Nat) := []
  acquired : List Int := []
  confirm : List Int := []
  epochSet : Bool := false
  freq : Int := 0
  target : Int := 0
  rate : Int := 0
  slew : Int := 0
  slewLeft : Int := 0
  ptp0 : PtpPort := {}
  ptp1 : PtpPort := {}
  groupOffset : Option Int := none
  tt : SMap TtOut := []
  deriving DecidableEq, Repr

/-- One pair of contacts (R314 to R316): filtered contacts (true closed), consecutive agreed snapshots that showed the other
value, frames since the first mixed snapshot, the latched discrepancy, and for an ACK input the frames since it went active
and the length of a pulse that has just returned (R313). -/
structure PairDyn where
  f1 : Bool := false
  f2 : Bool := false
  n1 : Nat := 0
  n2 : Nat := 0
  mixed : Option Nat := none
  disc : Bool := false
  ack : Option Nat := none
  ackBack : Option Nat := none
  deriving DecidableEq, Repr

/-- A demand on a unit (R298, Table 10-2): its cause, what it demands as a FUNC code (5 STO, 4 SS1, 3 SS2), the instance that
raised it (an input, a channel, a node), and whether its condition holds now (R312). -/
structure Demand where
  cause : Nat
  kind : Nat
  index : Nat := 0
  active : Bool := true
  deriving DecidableEq, Repr

/-- The measurement of a joint (R306): consecutive frames with agreed positions, the position and the displacement over `w`
frames of the last complete evaluation (`w` 0: none yet), and the frames without one. -/
structure JointDyn where
  run : Nat := 0
  pos : Int := 0
  dp : Int := 0
  w : Nat := 0
  miss : Nat := 0
  deriving DecidableEq, Repr

/-- A unit's functions (R296 to R313). `func` is FUNC of Table 10-1, `relWait` the frames since the drives reported torque
(R311), `stopFr` the frames since a stop was activated with each joint's speed then (joint, displacement, frames), `stillFr`
the run of frames at standstill, `sosFr` the frames in the SOS phase before STO (R300), `noStoFr` the frames in which STO was
demanded and not reported (R310). -/
structure UnitDyn where
  func : Nat := 5
  disabled : Bool := true
  disabledFr : Nat := 0
  torque : Bool := false
  brakeRel : Bool := false
  relWait : Option Nat := none
  enableReq : Bool := false
  demands : List Demand := []
  slsSet : Nat := 0
  slsOver : Nat := 0
  stopFr : Nat := 0
  v0 : List (Nat × Nat × Nat) := []
  stillFr : Nat := 0
  sosPos : List (Nat × Int) := []
  sosFr : Nat := 0
  stoWait : Bool := false
  noStoFr : Nat := 0
  deriving DecidableEq, Repr

/-- A running proof test of a channel (R142): the dark part or the light part, the lanes whose steps remain and have begun, the lane under
test, the frames since its step began, and whether the step, and then its gap, is running. -/
structure ProofTest where
  dark : Bool
  left : List Lane
  ran : List Lane := []
  lane : Option Lane := none
  frames : Nat := 0
  gap : Bool := false
  deriving DecidableEq, Repr

/-- A brake channel (R137, R141 to R148): commanded release, frames released and set, failing-frame runs of the three checks,
the lock, the running test, the ages in frames (none: no pass since reset), the full test the host requested (0 none, 1 light
part due, 2 dark part due), the lanes whose light step is pending, and which tests have set PT_DUE. -/
structure BrakeDyn where
  cmd : Bool := false
  relFr : Nat := 0
  setFr : Nat := 0
  badOn : Nat := 0
  badOff : Nat := 0
  badSum : Nat := 0
  locked : Bool := false
  test : Option ProofTest := none
  lightAge : Option Nat := none
  darkAge : Option Nat := none
  fullTest : Nat := 0
  pendingLanes : List Lane := []
  dueLight : Bool := false
  dueDark : Bool := false
  deriving DecidableEq, Repr

/-- Separation state of an arm (R279, R288, R292): the lane's own stop held and the passes with margin since, reduction active
in the last pass, frames since the last complete positions (none: unbounded), a STALE episode, the positions it was last placed at, the voted
reaction and whether the speed reduction acts, and each lane's run of passes as the arm's outlier. -/
structure ArmSep where
  stopHeld : Nat := 0
  clearRun : Nat := 0
  reduced : Bool := false
  age : Option Nat := none
  staleEpisode : Bool := false
  lastPos : List (Nat × Int) := []
  voted : Nat := 0
  capped : Bool := false
  outlierRun : PerLane Nat := ⟨0, 0, 0⟩
  deriving DecidableEq, Repr

/-- A combined volume (R276, R277): a person or obstacle, its speed where given, and whether it is a fallback volume. -/
structure Volume where
  present : Bool := false
  fallback : Bool := false
  obstacle : Bool := false
  speed : Option Nat := none
  shape : CapsuleMm := {}
  deriving DecidableEq, Repr

/-- The dynamic safety state of a lane, which a donor snapshots for a rejoining lane (R107): filters and discrepancies of the
24 inputs, 8 node pairs and 11 analog inputs, the units, the brake channels, the degraded timer and the tightening ramp, the
separation monitor and its hysteresis. Reset: as each part states; no timer runs. -/
structure SafState where
  inputs : SMap PairDyn := []
  nodePairs : SMap PairDyn := []
  analogs : SMap PairDyn := []
  units : SMap UnitDyn := []
  brakes : SMap BrakeDyn := []
  motionEnable : Bool := false
  degLeft : Option Nat := none
  degExpired : Bool := false
  tight : Bool := false
  tightFr : Nat := 0
  joints : SMap JointDyn := []
  arms : SMap ArmSep := []
  volumes : SMap Volume := []
  fallbackRun : SMap Nat := []
  noResultRun : Nat := 0
  stopOutcome : Bool := false
  deen : Bool := false
  deriving DecidableEq, Repr

/-- The agreed values of a frame in one lane (R90, R92, R279): for each contact whether it is present and its value, the copies
of each ADC item, of each node's safety payload with the node's flag byte as it was received on the lane's own ring, and the
agreed joint positions of this frame and of those before, newest first. -/
structure Agreed where
  frame : Nat := 0
  have1 : Nat := 0
  have2 : Nat := 0
  ch1 : Nat := 0
  ch2 : Nat := 0
  adcMean : SMap (List Int) := []
  adcMax : SMap (List Int) := []
  nodes : SMap (List (Lane × List Byte)) := []
  positions : List (SMap (Option Int)) := []
  deriving DecidableEq, Repr

/-- Self-test arbitration as one lane holds it (R96, R511): the frame it started, its phase (0 idle, 1 challenge, 2 signature,
3 verdict), test index, suspects, its own signature, the lanes it passed and those it gave a verdict on, whether it demands SS1
meanwhile, triggers of this frame (lanes named), the verdicts of the records of frame a+2 once that frame has passed, and the lanes
cleared with the time of the clearing, ns. -/
structure ArbState where
  phase : Nat := 0
  frame : Nat := 0
  test : Nat := 0
  suspects : Nat := 0
  sig : BitVec 64 := 0
  pass : Nat := 0
  given : Nat := 0
  ss1 : Bool := false
  held : Nat := 0
  verdicts : PerLane (Option Nat) := ⟨none, none, none⟩
  cleared : List (Nat × Int) := []
  deriving DecidableEq, Repr

/-- What a donor's snapshot carries (R107): its dynamic safety state, the runs of its agreement items and the agreed positions that the
speeds of R306 still use. -/
structure Snapshot where
  saf : SafState := {}
  runs : SMap (Nat × Nat) := []
  positions : List (SMap (Option Int)) := []
  deriving DecidableEq, Repr

/-- One safety lane (chapters 03, 04, 09, 10). Records received in this frame are held per sender. `pairs` are the fault-status pairs
sampled in this frame (R75, R79), `unseen` a latch no other lane has sampled yet, `tickLost` a loss of the tick not yet made good (R109),
`agreedNow` whether this frame's values are agreed, `outFrame` the lanes counted as outliers in it, `silentBefore` the silent runs up to
the frame before, `digestDone` the result of the last digest pass and `cfgDigest` the one the records carry (R102), `reloadIn` the frame
that placed the lane in RELOAD, `bulkFrame` and `bulkBlocks` the use of its bulk link in this frame (R89). Reset: latch clear, outputs low,
nothing received, image empty. -/
structure LaneState where
  latch : Bool := false
  pairs : PerLane (BitVec 2) := ⟨1, 1, 1⟩
  unseen : Bool := false
  tickLost : Bool := false
  goodTicks : Nat := 0
  gates : Nat := 0
  safeOk : Bool := false
  supplyWarn : Bool := false
  selftested : Bool := false
  bootFw : List Nat := []
  bootCfg : List Nat := []
  bootDone : Bool := false
  overrun : Bool := false
  overrunRun : Nat := 0
  evaluated : Bool := false
  agreedNow : Bool := false
  outFrame : Nat := 0
  si : Nat × Nat := (0, 0)
  adc : List (Int × Int) := []
  frames : PerLane (Option FrameRecord) := ⟨none, none, none⟩
  framesPrev : PerLane (Option FrameRecord) := ⟨none, none, none⟩
  pos : PerLane (Option PositionRecord) := ⟨none, none, none⟩
  results : PerLane (Option ResultRecord) := ⟨none, none, none⟩
  arrived : PerLane Bool := ⟨false, false, false⟩
  silentRun : PerLane Nat := ⟨0, 0, 0⟩
  goodRun : PerLane Nat := ⟨0, 0, 0⟩
  silentBefore : PerLane Nat := ⟨0, 0, 0⟩
  seen : Nat := 0
  leaveAtTick : Bool := false
  decision : Nat := 0
  decisionPrev : Nat := 0
  spoiled : Bool := false
  agreed : Agreed := {}
  outlierRun : SMap (Nat × Nat) := []
  arb : ArbState := {}
  outCause : Nat := 0
  corrMiss : SMap Nat := []
  image : Image := {}
  staging : Option Image := none
  switchAt : Option Nat := none
  diverged : Bool := false
  digestDone : Nat := 0
  cfgDigest : Nat := 0
  bulkFrame : Option Nat := none
  bulkBlocks : Nat := 0
  reloadIn : Option Nat := none
  reloadChunks : Nat := 0
  reloadBlocks : Nat := 0
  reloadTries : Nat := 0
  reloadTimes : List Int := []
  faultTimes : List Int := []
  snapshot : Option Snapshot := none
  snapshotAt : Nat := 0
  snapshotBlocks : Nat := 0
  needImage : Bool := false
  shadowRun : Nat := 0
  serviceFr : Nat := 0
  saf : SafState := {}
  sepPass : Nat := 0
  sepResult : Option ResultRecord := none
  sepDone : Bool := false
  sepOverruns : Nat := 0
  fwVersion : Nat := 0
  deriving DecidableEq, Repr

/-- The faults that still count (R112, R114, R134): kind of Table 4-1 as SAF_FAULT_FIRST codes it, and instance; and the lanes'
continuous three-lane service, frames (R109); the units stopped because an engine has no spare (engine, unit; R131), and those
with a stop request for three missed outputs (R263). -/
structure FaultState where
  counted : List (Nat × Nat) := []
  healthyFr : Nat := 0
  engineUnits : List (Nat × Nat) := []
  missStop : List Nat := []
  deriving DecidableEq, Repr

/-- What enumeration found of a node (Table 6-2). -/
structure NodeIdent where
  vendor : Nat := 0
  product : Nat := 0
  serial : Nat := 0
  profile : Nat := 0
  cfgId : Nat := 0
  fwdNs : Nat := 0
  maxJ : Nat := 0
  masterCap : Bool := false
  rev : Nat := 0
  deriving DecidableEq, Repr

/-- A schedule entry's node on one ring: its measured a and b (R65), the S0 of the last cycle and whether it is the port-1 copy's (R66,
R162), admission and guard runs (R194, R197), join data and extended positions (R164), the payload and flag of its last valid safety
part, a claim (R195) and whether its last safety part still claimed, and of this cycle the timing report with both stamps, or else one
with a special D01 (R162). -/
structure NodeDyn where
  ident : Option NodeIdent := none
  a : Option (Int × Int) := none
  aPrev : Option Int := none
  s0 : Option (Nat × Bool) := none
  reports : Nat := 0
  inGuard : Nat := 0
  outGuard : Nat := 0
  episode : Bool := false
  was : Nat := 0
  high : List (Option Nat) := []
  counts : List (Option Int) := []
  fresh : Bool := false
  valid : Bool := false
  flag : Nat := 0
  payload : List Byte := []
  claim0 : Option (Nat × Nat × Nat) := none
  claim1 : Option (Nat × Nat × Nat) := none
  claimBad : Bool := false
  claiming : Bool := false
  report : Option Nat := none
  special : Option Nat := none
  deriving DecidableEq, Repr

/-- A safety command part in a lane's safety buffer: the flag byte and the payload (R163). -/
structure SafetyPart where
  flag : Nat := 0
  payload : List Byte := []
  deriving DecidableEq, Repr

/-- One Entayr ring (chapters 05, 06): start and enumeration progress, the schedule in force, its nodes, the safety buffer,
the cycle in flight and its returned copies, and the runs of R113, R172 and R176. `schedNext` is a schedule that waits for the restart
(R188), `found` the nodes of the last enumeration by position, `enumSeq` the frame of an enumeration frame not yet judged, `evaluated`
whether the cycle's reports have been, `breakIn` the frame whose cycle declared the break, and `errNow` the ports that showed ERROR
blocks in this frame. Reset: not mastered, nothing known. -/
structure RingState where
  sched : List SchedEntry := []
  schedId : Nat := 0
  schedNext : Option (List SchedEntry × Nat) := none
  found : SMap NodeIdent := []
  nodes : SMap NodeDyn := []
  startDue : Bool := false
  startLeft : Nat := 0
  enumFrames : Nat := 0
  enumLast : Option (Nat × SMap NodeIdent) := none
  enumNow0 : Option (Nat × Bool × SMap NodeIdent) := none
  enumNow1 : Option (Nat × Bool × SMap NodeIdent) := none
  enumSeq : Option Nat := none
  unstable : Bool := false
  nRef : Option Nat := none
  bothDown : Bool := false
  inFlight : Option Nat := none
  launchAt : Int := 0
  back0 : Option Nat := none
  back1 : Option Nat := none
  turned : Bool := false
  untouched : Nat := 0
  wholeHop : Bool := true
  late : Bool := false
  evaluated : Bool := false
  breakIn : Option Nat := none
  closedRun : Nat := 0
  noReturn : Nat := 0
  validRun : Nat := 0
  motionDone : List Nat := []
  dirEntry : Nat := 0
  seqReset : Bool := false
  nodesBoth : Bool := true
  safety : SMap SafetyPart := []
  errWindow : SMap (List Bool) := []
  errQuiet : SMap Nat := []
  errNow : SMap Bool := []
  deriving DecidableEq, Repr

/-- The setpoint part of a window with its escape field, as marshalled for all three rings (R165, R166). -/
structure MotionPart where
  escJoint : Nat := 0
  escValid : Bool := false
  escHi : Nat := 0
  slots : List Nat := []
  deriving DecidableEq, Repr

/-- The motion buffers (R26, R165, R166): the part of each schedule entry, the running escape sequences with the next joint,
the last setpoint sent for each joint, the feedback count taken for each joint in the last cycle (R170), and the last 32-bit count of
each joint, which the next one extends (R164). -/
structure MotionState where
  parts : SMap MotionPart := []
  escape : SMap (Option Nat) := []
  sent : SMap Int := []
  feedback : SMap (Option Int) := []
  counts : SMap (Option Int) := []
  deriving DecidableEq, Repr

/-- One flash slot for firmware: its image, and whether FW_ACTIVATE has made it bootable (R41, R435). -/
structure FwSlot where
  image : FwImage
  bootable : Bool := false
  deriving DecidableEq, Repr

/-- The module's flash: two firmware images and two configurations (R41, R327, R328). It keeps its content through every
reset; a device as delivered holds nothing (DESIGN CHOICE). -/
structure FlashState where
  fw0 : Option FwSlot := none
  fw1 : Option FwSlot := none
  cfg0 : Option Package := none
  cfg1 : Option Package := none
  deriving DecidableEq, Repr

/-- A configuration package on its way: downloaded and being checked (R326), or accepted and waiting for R327. -/
structure PkgState where
  checking : Option Package := none
  waiting : Option Package := none
  deriving DecidableEq, Repr

/-- The instruction in the test access port (R503). -/
inductive TapInstr where
  | idcode | bypass | challenge | response
  deriving DecidableEq, Repr

/-- The power and reset supervisor: what it holds beside its registers (chapter 17). `held` lists the causes that hold lane 0 to
2, or the shared blocks (3), in reset (R491, R507); `unwritten` are the resets whose EV_RESET is still to be written (cause,
scope), oldest first (R493); `hot` the sensors past their limit, `warm` the warning episode (R499); `vmin`, `vmax`, `ms` the
second being measured; the TAP's instruction and the challenge in force (R503); the clock domains found bad (R496), and whether
the RC's loss has stopped timers and measurements; `noMaster`: the device met another master with its own ID and starts no ring until
the next power-up (R182); `vminRead` and `tmaxRead`: the lowest and highest reading start afresh since a read. -/
structure PowerState where
  active : Bool := false
  held : SMap (List Nat) := []
  unwritten : List (Nat × Nat) := []
  hot : List Nat := []
  warm : Bool := false
  vmin : PerLane Nat := ⟨0xFFFF, 0xFFFF, 0xFFFF⟩
  vmax : PerLane Nat := ⟨0, 0, 0⟩
  ms : Nat := 0
  tap : TapInstr := .idcode
  challenge : Option (BitVec 128) := none
  clkBad : List Nat := []
  rcStopped : Bool := false
  noMaster : Bool := false
  vminRead : PerLane Bool := ⟨false, false, false⟩
  tmaxRead : Bool := false
  deriving DecidableEq, Repr

/-- A tracking observer (R252): position, speed and acceleration. -/
structure Obs where
  p : F64 := f64Zero
  v : F64 := f64Zero
  a : F64 := f64Zero
  deriving DecidableEq, Repr

/-- A feedback port (chapter 11): filtered lines, the count (extended over its wrap of 2^32), the last two accepted edges with the
counts of the last (stamps in 1/4 ns), tooth intervals (R341), the count of the last reference checked and its failures in a row,
times of the last channel errors and of the last error of R338, whether this observer step holds one, the observer, the velocity
source (R350: edge intervals, and the steps since it changed), the last absolute word, invalid samples in a row, the requests that
wait for the latch instant (R351, R353), the direction of the index event of this pulse of Z (R339), and the y, p, v and a delivered at
the last latch instant (R352). -/
structure FbPort where
  a : Bool := false
  b : Bool := false
  z : Bool := false
  y : Int := 0
  edge1 : Option (Int × Int) := none
  edge0 : Option (Int × Int) := none
  tooth : Option Int := none
  interval : Option Int := none
  refAt : Option Int := none
  refLate : Bool := false
  refFails : Nat := 0
  errs : List Int := []
  lastQuad : Option Int := none
  stepBad : Bool := false
  obs : Obs := {}
  vei : F64 := f64Zero
  low : Bool := false
  blend : Nat := 16
  xPrev : Option Nat := none
  badRun : Nat := 0
  coast : Nat := 0
  sampled : Bool := false
  clr : Bool := false
  preset : Bool := false
  indexDone : Option Bool := none
  latchedY : Int := 0
  latched : Obs := {}
  deriving DecidableEq, Repr

/-- A step/pulse port (chapter 11): the position, the target and v_ref loaded (R251, R354), the bases of R359, the steps left in this frame and their
direction, steps of this frame, the wake time left in 6.25 ns units, the frames without a step, whether torque was granted at the
last latch, the cause FB_LOST of HELD, REARM waiting, the history of (s, q) of R360 (none for a latch without a check), the accumulator and
queue of R364 and R365, the state of the quadrature output, and the episodes of once-only events. -/
structure StpPort where
  s : Int := 0
  target : Int := 0
  vref : F64 := f64Zero
  sBase : Int := 0
  yBase : Int := 0
  left : Nat := 0
  up : Bool := true
  moved : Nat := 0
  wake : Nat := 0
  idle : Nat := 0
  granted : Bool := false
  fbHeld : Bool := false
  rearm : Bool := false
  hist : List (Option (Int × F64)) := []
  acc : Int := 0
  queue : List Bool := []
  phase : Nat := 0
  vlimEp : Bool := false
  limitEp : Bool := false
  ovfEp : Bool := false
  fbLostEp : Bool := false
  lostEp : Bool := false
  stallEp : Bool := false
  deriving DecidableEq, Repr

/-- The local ports (chapter 11) and the last latch instant in extended device time. Reset: ports off, lines low (R367). -/
structure AxesState where
  fb : SMap FbPort := []
  sp : SMap StpPort := []
  latchAt : Int := 0
  deriving DecidableEq, Repr

/-- A user accumulator beside its SUM, which the register ADC_UAu_SUM holds (R385). -/
structure UserAcc where
  count : Nat := 0
  mn : Int := 32767
  mx : Int := -32768
  full : Bool := false
  deriving DecidableEq, Repr

/-- A frame accumulator and its trackers (R377). -/
structure ChanAcc where
  sum : Int := 0
  count : Nat := 0
  mn : Int := 32767
  mx : Int := -32768
  deriving DecidableEq, Repr

/-- A running user sequence (R382): the next entry of each list, the clock in the frame from which each converter's next entry may
start, and the clock in which the last sample so far is counted. -/
structure SeqRun where
  i0 : Nat := 0
  i1 : Nat := 0
  c0 : Int
  c1 : Int
  last : Int
  deriving DecidableEq, Repr

/-- The ADC (chapter 12): whether the monitor scan runs, the next round of the frame, the frame accumulators, the clock in the frame
through which each converter's samples are recovery samples (R381), whether a round of this frame made its check and one failed,
the episode and its run of frames that passed (R376), ADC_CORRc as it applies to samples (R373), the user accumulators, the running
sequence and the times of triggers that have fired. Reset: off and clear. -/
structure AdcState where
  scanning : Bool := false
  round : Nat := 0
  acc : SMap ChanAcc := []
  rec0 : Option Int := none
  rec1 : Option Int := none
  chkMade : Bool := false
  chkBad : Bool := false
  chkEpisode : Bool := false
  chkGood : Nat := 0
  corr : SMap Nat := []
  ua : SMap UserAcc := []
  run : Option SeqRun := none
  trigs : List Int := []
  deriving DecidableEq, Repr

/-- An address generator (R389): P0 to P3, M0, M1, B and L; L 0 stands for 4,096. -/
structure AddrGen where
  p : SMap (BitVec 12) := []
  m0 : BitVec 12 := 0
  m1 : BitVec 12 := 0
  b : BitVec 12 := 0
  l : BitVec 12 := 0
  deriving DecidableEq, Repr

/-- A signal processor (R387): program and data memories (an unlisted program word is HALT, R396), data registers, accumulators, the
sticky flag SV, search registers and IC, the address generators, the program counter, the clocks of the run, the repetitions due
(R391), the working set of output words (R394), whether this run has written its SIG, BLF_FRAME_NO and source at the start of the
run (R393), the source of the queued trigger, the triggers that have fired (time, source), and whether the feedback-ready trigger of
this frame has fired. Registers of the core have no reset value in the spec and start at 0 (DESIGN CHOICE). -/
structure SmyCore where
  prog : SMap (BitVec 32) := []
  x : SMap (BitVec 16) := []
  y : SMap (BitVec 16) := []
  dr : SMap (BitVec 16) := []
  acc0 : BitVec 40 := 0
  acc1 : BitVec 40 := 0
  sv : Bool := false
  maxv : BitVec 16 := 0
  maxi : BitVec 16 := 0
  minv : BitVec 16 := 0
  mini : BitVec 16 := 0
  ic : BitVec 16 := 0
  gx : AddrGen := {}
  gy : AddrGen := {}
  pc : BitVec 12 := 0
  clocks : Nat := 0
  rep : Option Nat := none
  work : SMap (BitVec 32) := []
  sigDone : Bool := false
  startFrame : Nat := 0
  src : Nat := 0
  queuedSrc : Nat := 0
  trigs : List (Int × Nat) := []
  readyFired : Bool := false
  deriving DecidableEq, Repr

/-- Why a task became ready (R404). -/
inductive WakeReason where
  | first | item | signal | timeout | sleepEnd | yielded
  deriving DecidableEq, Repr

/-- States of a work item (R414): queued in its task's FIFO, in a slot, taken by its task, or ended and held for its flow. -/
inductive ItemState where
  | queued | slotted | running | held
  deriving DecidableEq, Repr

/-- A work item (R400, R416): what it was enqueued with, the pool share its entry came from (0 common, 1 lane, 2 host), its FSEQ,
and how it ended. -/
structure RveItem where
  req : RveRequest
  share : Nat
  fseq : Nat := 0
  state : ItemState := .queued
  displaced : Bool := false
  cancelReq : Bool := false
  status : Nat := 0
  result : Nat := 0
  deriving DecidableEq, Repr

/-- A task beside its registers (R399, R402): its FIFO of items, the item it has taken and not completed, why it became ready, whether it has
run since its creation, and a DELETE that waits for the end of its run. -/
structure RveTask where
  fifo : List Nat := []
  item : Option Nat := none
  reason : WakeReason := .first
  started : Bool := false
  deleteDue : Bool := false
  deriving DecidableEq, Repr

/-- A Planner core as Reeve sees it: its filled slots, first filled first, as tasks; its running task with the time its run began, and
whether that run was found overlong. -/
structure RveCore where
  slots : List Nat := []
  run : Option (Nat × Int) := none
  overlong : Bool := false
  deriving DecidableEq, Repr

/-- An entry of a delay list (R411): expiry frame, order of insertion, task. -/
structure DelayEntry where
  expiry : Nat
  order : Nat
  task : Nat
  deriving DecidableEq, Repr

/-- The scheduler (chapter 13). Reset: every task FREE, every list empty, the pool full (R418). -/
structure RveState where
  tasks : SMap RveTask := []
  items : SMap (Option RveItem) := []
  ready : SMap (List Nat) := []
  cores : SMap RveCore := []
  sleep : List DelayEntry := []
  timeout : List DelayEntry := []
  order : Nat := 0
  laneOvr : PerLane (Option RveRequest) := ⟨none, none, none⟩
  deriving DecidableEq, Repr

/-- Results of the operations of Table 13-3. -/
inductive RveResult where
  | ok | empty | item | signal | range | noTask | busy | poolEmpty | flowFull | cancelled | inProgress | notFound
  | taken (task : Nat) (item : Option Nat) (reason : WakeReason)
  | enqueued (item : Nat)
  deriving DecidableEq, Repr

/-- A completion record of an item (Table 13-5); flow 0xFF is none. -/
structure RveCompletion where
  item : Nat
  task : Nat
  flow : Nat
  fseq : Nat
  status : Nat
  flags : Nat
  tag : Nat
  result : Nat
  deriving DecidableEq, Repr

/-- The fields of a completion entry that its command does not give (Table 14-7); `query` holds bytes 0x10 to 0x3F where the command gives
them itself. -/
structure Cqe where
  status : Nat := 0
  reason : Nat := 0
  result : Nat := 0
  start : Nat := 0
  fin : Nat := 0
  data : List Byte := []
  query : List Byte := []
  deriving DecidableEq, Repr

/-- A part of a command that a Steward forwarded (R482): the level and slot it went to, its forwarding tag, for UNIT_ENABLE the pairs of
a group mask bit and the member's bit, and whether its completion has come. -/
structure FwdPart where
  level : Nat
  slot : Nat
  tag : Nat
  bits : List (Nat × Nat) := []
  done : Bool := false
  deriving DecidableEq, Repr

/-- A command in flight (R428): its queue (16 and above: forwarded to this device by its Steward), RSN (or forwarding tag), opcode,
class, the CRC-32C of its entry, its admission frame, the SQ head after its fetch, the CQ it is owed (none after R437), its axis set if
MOTION, its body, whether a part of it is this device's own and still to do, whether its work has begun, the parts forwarded, and what its parts have
answered. -/
structure HostCmd where
  sq : Nat
  rsn : Nat
  opcode : Nat
  cls : Nat
  crc : Nat := 0
  admitAt : Nat := 0
  sqHead : Nat := 0
  cq : Option Nat := none
  axset : Nat := 0xFF
  body : List Byte := []
  own : Bool := true
  begun : Bool := false
  parts : List FwdPart := []
  answer : Option Cqe := none
  deriving DecidableEq, Repr

/-- A stored completion (R431): RSN, CRC-32C of the submission entry, and the completion entry as first written. -/
structure Stored where
  rsn : Nat
  crc : Nat
  entry : List Byte
  deriving DecidableEq, Repr

/-- The host interface beside its registers (chapter 14): tails of the SQs and heads of the CQs as last read, the completion stores
(newest last), the SQ whose turn it is, the commands in flight in order of admission, the event queue's head and phase, the SEQ last
copied into an event queue, whether the host has entries to be told of and the time of the last message (R436), the image on its way
with its CRC's outcome, the flash slot of the image downloaded since reset, whether its verification runs, whether the package on its way has its CRC, and the time at
which an admitted DEVICE_RESET acts. -/
structure HostState where
  tails : SMap Nat := []
  heads : SMap Nat := []
  store : SMap (List Stored) := []
  turn : Nat := 0
  flight : List HostCmd := []
  evHead : Nat := 0
  evPhase : Bool := true
  copied : Nat := 0
  wrote : Bool := false
  lastMsg : Option Int := none
  fwComing : Option (FwImage × Bool) := none
  fwLoaded : Option Nat := none
  fwVerify : Bool := false
  pkgCrcOk : Bool := true
  resetDue : Option Int := none
  deriving DecidableEq, Repr

/-- A segment of the trajectory store (Table 7-11): its ring entry and the coefficients C0 to C5. -/
structure Seg where
  start : Nat
  dur : Nat
  stopFr : Nat
  last : Bool := false
  super : Bool := false
  seq : Nat := 0
  entry : Nat := 0
  valid : Bool := true
  c : List F64
  deriving DecidableEq, Repr

/-- A piece of a scalar motion over `n` frames: value, and first to third derivative per frame, at its start. -/
structure Piece where
  n : Nat
  s : F64
  v : F64
  a : F64
  j : F64
  deriving DecidableEq, Repr

/-- A MOTION command in an axis set's queue: its queue and RSN, opcode and body, the SPEED_PCT and LIMSET in force for it, the order of
its admission and its time, the frame in which it reached the head of its queue, the frame at which it must start (AT_FRAME, ZONE_GAP),
whether its SYNC group is complete, whether its zones are granted and which of them were free then, the time its zone request began, and
whether its result carries NO_BLEND. -/
structure PlanCmd where
  sq : Nat
  rsn : Nat
  opcode : Nat
  body : List Byte
  pct : Nat
  limset : Nat
  order : Nat
  admitAt : Int := 0
  headAt : Option Nat := none
  startAt : Option Nat := none
  synced : Bool := false
  granted : Bool := false
  took : Nat := 0
  zoneSince : Option Int := none
  noBlend : Bool := false
  deriving DecidableEq, Repr

/-- What a running plan is doing: moving to its end, stopping with a result code, stopping for a feed hold, held at rest, or coupling
a follower. -/
inductive RunMode where
  | moving
  | stopping (code : Nat)
  | holding
  | held
  | coupling
  deriving DecidableEq, Repr

/-- A leg of a plan's path: a leg of the TCP with its length (mm) and turn (rad), or a joint move with the travel of every slot. -/
inductive PlanLeg where
  | cart (len turn : F64)
  | joint (travel : List (Nat × F64))
  deriving DecidableEq, Repr

/-- A plan: per slot the segments in frames from 0, its length, the first frame of its deceleration phase, its path coordinate over the
frames (of a joint move the fraction of its travel, of a TCP path mm, or rad where the TCP only turns), and its legs. -/
structure Plan where
  segs : List (Nat × List Seg) := []
  len : Nat := 0
  decel : Nat := 0
  path : List Seg := []
  gauge : List PlanLeg := []
  deriving DecidableEq, Repr

/-- The running command of an axis set: START_FRAME, END_FRAME once its last segment is written, its result flags, the plan in force
with the target frame of its frame 0 and the frames of it written to the store, the plan's frame from which the command that blends into it
takes over, the number of IK points, for a hold the path it interrupted with the path coordinate reached and the plan's frame at which
the next command takes over, and for a tracking command its start pose in the tracking frame with the frames of its acceleration phase. -/
structure Run where
  cmd : PlanCmd
  start : Nat
  fin : Option Nat := none
  mode : RunMode := .moving
  flags : Nat := 0
  plan : Plan := {}
  zero : Nat
  written : Nat := 0
  till : Option Nat := none
  points : Nat := 0
  hold : Option (Plan × F64 × Option Nat) := none
  track : Option (Frame3 × Nat) := none
  deriving DecidableEq, Repr

/-- An axis set: its queue behind the running command, the running command, the command that blends into it, whether it came to rest by a
drain stop or by a stop function, whether a move asked to blend and found no next command (R222), and the episode of R230. -/
structure ArmPlan where
  queue : List PlanCmd := []
  run : Option Run := none
  next : Option Run := none
  drained : Bool := false
  safety : Bool := false
  missed : Bool := false
  low : Bool := false
  deriving DecidableEq, Repr

/-- Phase of a coupling: before its first frame, engaging, in force, disengaging. -/
inductive CouplePhase where
  | waiting | engaging | inForce | disengaging
  deriving DecidableEq, Repr

/-- A follower's descriptor and state (R239, R241): axis set, master, NUM/DEN with the length L, or the cam with SCALE and OFFSET and the
mark E or D; the first target frame of the phase, the master (whole and fractional) and the follower where the phase began, the master
of the frame before, completed cam cycles, a cam to switch to, the distance over which it is asked to disengage and where that began
(master, follower, slope), the result of the phase with its frame, and whether a stop function decouples it. -/
structure Couple where
  axset : Nat
  master : Nat
  cam : Option Nat := none
  num : Int := 1
  den : Nat := 1
  len : Nat := 1
  mark : Nat := 0
  scale : F64 := f64Zero
  offset : Int := 0
  start : Nat := 0
  phase : CouplePhase := .waiting
  theta0 : Option (Int × F64) := none
  p0 : F64 := f64Zero
  mPrev : Option Int := none
  cycles : Int := 0
  nextCam : Option (Nat × F64 × Int) := none
  leaving : Option Nat := none
  exit : Option ((Int × F64) × F64 × F64) := none
  outcome : Option (Nat × Nat) := none
  forced : Bool := false
  deriving DecidableEq, Repr

/-- What a commit does to an axis set: starts its head command, starts it as a blend, or splices the running plan. -/
inductive CommitKind where
  | start | blend | splice
  deriving DecidableEq, Repr

/-- One axis set's share of a commit (R223): its new running command, the commands the commit answers, the gearing descriptors it
writes, by joint slot, and for a splice the command that still blends into the new plan and the one it ends with a result code. -/
structure CommitPart where
  axset : Nat
  kind : CommitKind
  run : Run
  answer : List (Nat × Nat) := []
  couples : List (Nat × Option Couple) := []
  next : Option Run := none
  drop : Option (PlanCmd × Nat) := none
  deriving DecidableEq, Repr

/-- A commit on its way to the trajectory store: its splice frame, whether it may move to a later one, the SYNC_TAG and COUNT it waits
for, and its shares. -/
structure Commit where
  fs : Nat
  fixed : Bool := false
  group : Option (Nat × Nat) := none
  parts : List CommitPart
  deriving DecidableEq, Repr

/-- A limit set (Table 7-9): VC, AC, DC, JC, VR, AR, JR, the four percentages and BLEND_UM. -/
structure LimitSet where
  vc : F64
  ac : F64
  dc : F64
  jc : F64
  vr : F64
  ar : F64
  jr : F64
  vPct : Nat
  aPct : Nat
  dPct : Nat
  jPct : Nat
  blendUm : Nat
  deriving DecidableEq, Repr

/-- A cam point (R240): M, Y, Y' and Y''. -/
structure CamPoint where
  m : Nat
  y : F64
  y1 : F64
  y2 : F64
  deriving DecidableEq, Repr

/-- The zone table (R214): MARGIN_UM and the boxes as minimum and maximum, µm. -/
structure ZoneTable where
  margin : Nat := 0
  boxes : List (V3 × V3) := []
  deriving DecidableEq, Repr

/-- A master (R238, R242): whole and fractional position for the latch of frame n + 2, speed and acceleration, frames of loss, and whether
its image stands in for it. -/
structure MasterDyn where
  whole : Int := 0
  frac : F64 := f64Zero
  v : F64 := f64Zero
  a : F64 := f64Zero
  lostFr : Nat := 0
  image : Bool := false
  deriving DecidableEq, Repr

/-- A speed cap of the lanes (R226, R299): of the TCP and every joint-frame origin, um/s, and of single joints, counts/s. -/
structure SpeedCap where
  tcp : Option Nat := none
  joints : List (Nat × Nat) := []
  deriving DecidableEq, Repr

/-- The Planner (chapter 07): axis sets, commits under way, tables, zone holders' waiting order, couplings and masters, the next order
number of admission, the cam tables as the bytes of the trajectory store (header, then points), its segment rings by slot (joints 0 to 127, local axes 128 to 143, virtual masters 144 to
147) with the entries written to each, the lanes' caps met so far and the IK solves of this second. -/
structure PlannerState where
  arms : SMap ArmPlan := []
  staged : List Commit := []
  order : Nat := 0
  models : SMap (Option ArmModel) := []
  limits : SMap (List LimitSet) := []
  paths : SMap (List (V3 × V3)) := []
  cams : SMap (List Byte) := []
  zones : ZoneTable := {}
  couples : SMap (Option Couple) := []
  masters : SMap MasterDyn := []
  rings : SMap (List Seg) := []
  entries : SMap Nat := []
  caps : SMap (Option SpeedCap) := []
  ikSolves : Nat := 0
  ikFrames : Nat := 0
  deriving DecidableEq, Repr

/-- A joint slot (R247 to R263): the reference prepared for frame n + 2 with SUPER and the ring entry used, the reference with its
coupling, the observer and whether it has started, the integrator, the last output u, the output this close phase computed and what was sent,
the frame of the last feedback applied, frames since the observer's last update, whether the prepare and close work of this cycle is done, episodes, the bank in
force and the last values for telemetry. -/
structure MilJoint where
  prep : Obs := {}
  super : Bool := false
  segEntry : Nat := 0
  r : F64 := f64Zero
  vref : F64 := f64Zero
  aref : F64 := f64Zero
  obs : Obs := {}
  started : Bool := false
  sigma : F64 := f64Zero
  uPrev : Int := 0
  out : Int := 0
  sent : Int := 0
  fbFrame : Nat := 0
  behind : Nat := 0
  prepared : Bool := false
  closed : Bool := false
  missEp : Bool := false
  segBad : Bool := false
  bank : Nat := 0
  ep : F64 := f64Zero
  vcmd : F64 := f64Zero
  gain : F64 := f64Zero
  y : Int := 0
  missed : Bool := false
  deriving DecidableEq, Repr

/-- A setpoint slot (R251): a local axis or a virtual master, with the step target this close phase computed and the last one loaded. -/
structure MilSlot where
  prep : Obs := {}
  super : Bool := false
  segEntry : Nat := 0
  r : F64 := f64Zero
  vref : F64 := f64Zero
  aref : F64 := f64Zero
  aim : Int := 0
  target : Int := 0
  prepared : Bool := false
  closed : Bool := false
  missEp : Bool := false
  segBad : Bool := false
  missed : Bool := false
  deriving DecidableEq, Repr

/-- The checkpoint of a joint slot (Table 8-3). -/
structure CkptJoint where
  fbFrame : Nat
  missRun : Nat
  coast : Nat
  granted : Bool
  limited : Bool
  obs : Obs
  sigma : F64
  uPrev : Int
  segEntry : Nat
  started : Bool
  deriving DecidableEq, Repr

/-- The checkpoint of a setpoint slot (R265): MISS_RUN, the last reference and step target, SEG_ENTRY. -/
structure CkptSlot where
  missRun : Nat
  target : Int
  ref : Obs
  segEntry : Nat
  deriving DecidableEq, Repr

/-- One checkpoint buffer of a logical engine: the frame it was written in and its slots. -/
structure Ckpt where
  frame : Nat
  joints : List (Nat × CkptJoint)
  slots : List (Nat × CkptSlot)
  deriving DecidableEq, Repr

/-- Telemetry (R269 to R271): samples of the block under way per selection with its MISS bits, records dropped, whether the next record
carries GAP, the record number and the overflow episode. -/
structure Telemetry where
  samples : SMap (List F64) := []
  miss : SMap Nat := []
  frame0 : Nat := 0
  lost : Nat := 0
  seq : Nat := 0
  episode : Bool := false
  running : Bool := false
  deriving DecidableEq, Repr

/-- The loop engines (chapter 08): slots, checkpoint buffers (2e + n modulo 2), physical engines that have passed their start-up test, logical
engines that wait for a spare, logical engines without an engine, gain table points (joint, bank, point as 128 j + 64 b + k) and telemetry. -/
structure MillState where
  joints : SMap MilJoint := []
  slots : SMap MilSlot := []
  ckpt : SMap (Option Ckpt) := []
  tested : List Nat := []
  migrating : List Nat := []
  dead : List Nat := []
  gains : SMap (Nat × Nat) := []
  tlm : Telemetry := {}
  deriving DecidableEq, Repr

/-- What a Steward or Deputy holds of a slot (R470, R474, R477): present, JOINED, in Quarantine, TIME_SLEW and local state of its last
member frame, whether a valid one came in this group cycle, cycles without one, its receive stamp, the T_RX it carried, digests, firmware,
FRAME_NO, and the mean path delay. -/
structure GrpMember where
  present : Bool := false
  joined : Bool := false
  quar : Bool := false
  slew : Bool := false
  state : Nat := 0
  heard : Bool := false
  silent : Nat := 0
  rx : Option Int := none
  seen : Int := 0
  digest : List Nat := []
  fw : Nat := 0
  frame : Nat := 0
  path : Int := 0
  deriving DecidableEq, Repr

/-- A change of G (Table 16-5, GRP_HISTk): the new G, the slot that caused it, the reason, the cycle's FRAME_NO. -/
structure GrpChange where
  g : Nat
  slot : Nat
  reason : Nat
  frame : Nat
  deriving DecidableEq, Repr

/-- A device at one level of its hierarchy (R464 to R478). `role` is coded as GRP_STATUS.ROLE; `g` is G as set or received; `raw` the most
restrictive local state of the group's slots; `stw` the Steward followed, `quiet` the cycles without its frames and `heard` whether one
came in this cycle; `deputy` the Deputy named; `calm` the cycles with every slot present and RUN, `granted` a MOTION_ENABLE granted since
(R476); stamps of R468: receipt of the last steward frame, with its FRAME_NO and T_RX, transmission of the last steward and member frames;
`path` the mean path delay; Quarantine with the cycles that matched (R472, R473); a Steward declared lost, a partition; the correction of the frame number that
waits (R471); the Steward's digest, firmware, PRESENT and QUAR; the frames in which the last cycle start and member frame fell. -/
structure GrpLevel where
  role : Nat := 0
  g : Nat := 0
  raw : Nat := 0
  stw : Option Nat := none
  quiet : Nat := 0
  heard : Bool := false
  deputy : Option Nat := none
  members : SMap GrpMember := []
  calm : Nat := 0
  granted : Bool := false
  rxStw : Option Int := none
  stwFrame : Nat := 0
  seen : Int := 0
  txStw : Int := 0
  txMem : Option Int := none
  path : Int := 0
  quarantined : Bool := false
  matched : Nat := 0
  stewardLost : Bool := false
  partition : Bool := false
  align : Option Int := none
  stwDigest : Nat := 0
  stwFw : Nat := 0
  stwPresent : Nat := 0
  stwQuar : Nat := 0
  cycle : Option Nat := none
  sentIn : Option Nat := none
  deriving DecidableEq, Repr

/-- Groups (chapter 16): the levels, G and Quarantine as the lanes have them in force, those on their way with the frame in which they
enter the evaluation (R475), whether the host has withdrawn motion enable (R474), the next forwarding tag (R482), and the history of G,
newest first. -/
structure GroupState where
  levels : SMap GrpLevel := []
  lanesG : Nat := 0
  lanesQuar : Bool := false
  coming : List (Nat × Nat × Bool) := []
  withdrawn : Bool := false
  tag : Nat := 0
  hist : List GrpChange := []
  deriving DecidableEq, Repr

/-- What the device sends out in a step. -/
inductive Output where
  /-- A PTP message on Ethernet port `port`. -/
  | ptp (port : Nat) (msg : PtpMsg)
  /-- The level of time-triggered output `k` at its land (R69). -/
  | ttLevel (k : Nat) (high : Bool)
  /-- A frame leaves ring port `port` of a ring. -/
  | ringFrame (ring : Lane) (port : Nat) (blocks : List Block)
  /-- The link-fail signal starts or stops on a ring port (R152). -/
  | linkFail (ring : Lane) (port : Nat) (on : Bool)
  /-- The gate lines of lane `lane`: bit k set while BKk is energised (R135). -/
  | gates (lane : Lane) (energised : Nat)
  /-- The level of SAFE_OK of a lane (R319). -/
  | safeOk (lane : Lane) (high : Bool)
  /-- A frame record to the other lanes, with its 2,048 bytes (R84). -/
  | frameRecord (lane : Lane) (r : FrameRecord) (bytes : List Byte)
  /-- A position record to the other lanes, with its 544 bytes (R278). -/
  | positionRecord (lane : Lane) (r : PositionRecord) (bytes : List Byte)
  /-- A result record to the other lanes, with its 512 bytes (R84, R289). -/
  | resultRecord (lane : Lane) (r : ResultRecord) (bytes : List Byte)
  /-- A chunk of the image, `index` 0 to 7 of 32 KiB, from the donor to a lane in RELOAD (R106). -/
  | reloadChunk (donor target : Lane) (index : Nat)
  /-- The snapshot of the donor's dynamic safety state to a rejoining lane (R107). -/
  | snapshot (donor target : Lane)
  /-- The bits the test access port shifts out for an instruction (R503): 24 challenge bytes, or the identification code. -/
  | tapOut (width : Nat) (value : Nat)
  /-- A step of step/pulse port `k` in the positive direction or not, with the level of SPk_DIR and that of the pulse on SPk_STEP (R355, R364). -/
  | step (k : Nat) (up dir pulse : Bool)
  /-- A state change of port `k` in quadrature format: SPk_STEP carries A, SPk_DIR carries B (R364). -/
  | quadState (k : Nat) (a b : Bool)
  /-- A reference pulse on SPk_AUX (R364). -/
  | refPulse (k : Nat)
  /-- The level of SPk_EN, and whether SPk_AUX is active (R357, R358). -/
  | stage (k : Nat) (en aux : Bool)
  /-- What a read returns to its master (R447). -/
  | readData (m : Master) (value : Nat)
  /-- The result of an operation of Table 13-3 to its issuer (none: the host interface), with CANCEL_REQ of its run (R404, R414). -/
  | reeve (core : Option Nat) (result : RveResult) (cancelReq : Bool)
  /-- A completion record of an item to its target (R416). -/
  | rveCompletion (target : RveTarget) (r : RveCompletion)
  /-- A write to host memory (R421). -/
  | hostWrite (addr : Nat) (data : List Byte)
  /-- The MSI-X message (R436). -/
  | msix
  /-- A steward or member frame on Ethernet port 0 (R466): destination and source address, and the 128 bytes of payload; its EtherType is
  0x88B5. -/
  | groupFrame (dst src : Nat) (payload : List Byte)
  /-- A command frame to a member (R467, R482): its slot, which the frame does not carry, addresses and payload as of a group frame, with the
  forwarding tag and the submission entry with the member's index. -/
  | groupCommand (slot dst src : Nat) (payload : List Byte)
  /-- A completion frame to the Steward (R467, R482): addresses and payload as of a group frame, with forwarding tag and completion entry. -/
  | groupCompletion (dst src : Nat) (payload : List Byte)
  deriving DecidableEq, Repr

/-- Everything the device holds but the queue of waiting commands. -/
structure Dev where
  /-- The register file; every field of the register tables. -/
  regs : RegFile := []
  /-- What the device emitted in the present step: frames, host-memory writes, messages, pins that changed. -/
  out : List Output := []
  /-- The model's own counter of free values (not the spec's); reset 0, DESIGN CHOICE. -/
  free : Nat := 0
  /-- Register access and configuration (chapter 15). -/
  sys : SysState := {}
  /-- The internal event log (chapter 14). -/
  log : EventLog := {}
  /-- The time base (chapter 02). -/
  tb : TimeBase := {}
  /-- Lanes A, B and C (chapters 03, 04, 09, 10). -/
  lanes : PerLane LaneState := ⟨{}, {}, {}⟩
  /-- Rings A, B and C (chapters 05, 06). -/
  rings : PerLane RingState := ⟨{}, {}, {}⟩
  /-- The motion buffers shared by the rings (chapter 05). -/
  motion : MotionState := {}
  /-- Frames since the separation monitors began to run, at most 4 (R294). -/
  monitorFr : Nat := 0
  /-- Faults that still count (chapter 04). -/
  fault : FaultState := {}
  /-- Flash (chapters 01, 10, 14). -/
  flash : FlashState := {}
  /-- Owner-key slots of each lane, in the order written, at most four (R325); one-time-programmable. -/
  keys : PerLane (List (BitVec 256)) := ⟨[], [], []⟩
  /-- Package in progress (R326, R327). -/
  pkg : PkgState := {}
  /-- The period that a PERIOD_CHANGE is due to begin (R48). -/
  periodDue : Option Nat := none
  /-- The supervisor (chapter 17). -/
  pwr : PowerState := {}
  /-- Feedback and step/pulse ports (chapter 11). -/
  axes : AxesState := {}
  /-- The ADC (chapter 12). -/
  adc : AdcState := {}
  /-- Signal processor SMY0 (chapter 12). -/
  smy0 : SmyCore := {}
  /-- Signal processor SMY1. -/
  smy1 : SmyCore := {}
  /-- The task scheduler (chapter 13). -/
  rve : RveState := {}
  /-- The host interface (chapter 14). -/
  host : HostState := {}
  /-- The Planner and the trajectory store (chapter 07). -/
  pln : PlannerState := {}
  /-- The loop engines (chapter 08). -/
  mil : MillState := {}
  /-- Groups of devices (chapter 16). -/
  grp : GroupState := {}
  deriving DecidableEq, Repr

/-- The state of the model: the device, and the commands that wait, first in, first out. -/
structure State where
  dev : Dev
  pending : List Instr
  deriving DecidableEq, Repr

/-- The device right after power-on reset: every register at its reset value, every other field at the value the spec
gives after reset; nothing waits. -/
def State.reset : State := { dev := {}, pending := [] }

end Sys2Proof.Machine
end

