-- ==== Sys2Proof/Machine/Ops.lean ====
section
/-!
DEFINITION. The operations every block uses: running a command's effect on the device, reading and writing register fields,
counters, event records, free values, device time, the device mode, the frame period, and the record of counted faults.
-/
namespace Sys2Proof.Machine

/-- Run a command's effect on the device: what the device emits is of this step alone, and the queue is untouched. -/
def State.run (f : Dev → Dev) (s : State) : Host.Outcome State Fault Refusal :=
  .next { s with dev := f { s.dev with out := [] } }

/-- Value of element `i` of a register field. -/
def Dev.rd (d : Dev) (f : RegField) (i : Nat := 0) : Nat := RegFile.get d.regs f i

/-- Set element `i` of a register field; the value is cut to the field's width. -/
def Dev.wr (d : Dev) (f : RegField) (i : Nat) (v : Nat) : Dev :=
  { d with regs := RegFile.set d.regs f i (v % 2 ^ f.width) }

/-- Set a single field. -/
def Dev.put (d : Dev) (f : RegField) (v : Nat) : Dev := d.wr f 0 v

/-- Set a signed field, saturating at its range. -/
def Dev.wrI (d : Dev) (f : RegField) (i : Nat) (v : Int) : Dev := d.wr f i (fieldOf f.width (saturate f.width v))

/-- Value of a signed field (R9). -/
def Dev.rdI (d : Dev) (f : RegField) (i : Nat := 0) : Int := signedOf f.width (d.rd f i)

/-- Set a flag. -/
def Dev.flag (d : Dev) (f : RegField) (i : Nat := 0) : Dev := d.wr f i 1

/-- True while the field is not zero. -/
def Dev.on (d : Dev) (f : RegField) (i : Nat := 0) : Bool := d.rd f i != 0

/-- Set a field, saturating at its greatest value. -/
def Dev.wrSat (d : Dev) (f : RegField) (i : Nat) (v : Nat) : Dev := d.wr f i (min v (2 ^ f.width - 1))

/-- Count one more, saturating at the field's greatest value. -/
def Dev.inc (d : Dev) (f : RegField) (i : Nat := 0) : Dev := d.wrSat f i (d.rd f i + 1)

/-- Count `n` more, saturating. -/
def Dev.incBy (d : Dev) (f : RegField) (i n : Nat) : Dev := d.wrSat f i (d.rd f i + n)

/-- Count one more, wrapping. -/
def Dev.incWrap (d : Dev) (f : RegField) (i : Nat := 0) : Dev := d.wr f i (d.rd f i + 1)

/-- Keep the greatest value seen. -/
def Dev.wrMax (d : Dev) (f : RegField) (i : Nat) (v : Nat) : Dev := d.wrSat f i (max v (d.rd f i))

/-- Set or clear one bit of a field. -/
def Dev.wrBit (d : Dev) (f : RegField) (i b : Nat) (v : Bool) : Dev := d.wr f i (setBit (d.rd f i) b v)

/-- Apply `f` to the device once for each element of a list, in order. -/
def Dev.each {α : Type} (d : Dev) (xs : List α) (f : Dev → α → Dev) : Dev := xs.foldl f d

/-- Apply `f` where the condition holds. -/
def Dev.when (d : Dev) (c : Bool) (f : Dev → Dev) : Dev := if c then f d else d

/-- Emit an output in this step. -/
def Dev.emit (d : Dev) (o : Output) : Dev := { d with out := d.out ++ [o] }

/-- A value the spec leaves open, `w` bits wide, and the device with its free-value counter advanced. -/
def Dev.fresh (d : Dev) (w : Nat) : Nat × Dev := (Config.freeValue d.free % 2 ^ w, { d with free := d.free + 1 })

/-- The frame period in 62.5 us units: 1, 2 or 4 (R47, BLF_CFG.PERIOD). -/
def Dev.periodUnits (d : Dev) : Nat := 2 ^ (d.rd .BLF_CFG_PERIOD % 3)

/-- The frame period in ns (R47). -/
def Dev.frameNs (d : Dev) : Nat := 62500 * d.periodUnits

/-- The frame number BLF_FRAME_NO (R49). -/
def Dev.frameNo (d : Dev) : Nat := d.rd .BLF_FRAME_NO_NO

/-- Device time as BLF_TIME_NS reads it: extended device time on the 8 ns grid, modulo 2^32 (R50). -/
def Dev.timeNs (d : Dev) : Nat := fieldOf 32 (trunc8 d.tb.ext)

/-- Offset within the frame, ns after the tick (R11). -/
def Dev.offset (d : Dev) : Int := d.tb.ext - d.tb.tickAt

/-- Device time reaches offset `ns` of the frame: an activity of Table 1-2 happens at its stated offset (R28). -/
def Dev.reach (d : Dev) (ns : Nat) : Dev :=
  { d with tb := { d.tb with ext := if d.tb.ext < d.tb.tickAt + ns then d.tb.tickAt + ns else d.tb.ext } }

/-- Extended device time of the next tick: the end of the frame, or the first tick of a new period (R48, R50). -/
def Dev.nextTick (d : Dev) : Int :=
  match d.periodDue with
  | some p => (floorDiv d.tb.ext (62500 * 2 ^ p) + 1) * (62500 * 2 ^ p)
  | none => d.tb.tickAt + d.frameNs

/-- One clock of the 125 MHz time base (R50). A clock never passes the next tick: the tick is a command of its own. -/
def Dev.clock (d : Dev) : Dev :=
  if d.tb.ticking ∧ d.tb.ext + 8 < d.nextTick then { d with tb := { d.tb with ext := d.tb.ext + 8 } } else d

/-- The device modes of Table 1-9, coded in SYS_MODE.MODE as Table 14-9. -/
inductive Mode where
  | boot | hold | standstill | run | degraded | safeState
  deriving DecidableEq, Repr

/-- Code of a mode in SYS_MODE.MODE. -/
def modeCode : Mode → Nat
  | .boot => 0
  | .hold => 1
  | .standstill => 2
  | .run => 3
  | .degraded => 4
  | .safeState => 5

/-- The mode the device is in (R40). -/
def Dev.mode (d : Dev) : Mode :=
  match d.rd .SYS_MODE_MODE with
  | 0 => .boot
  | 1 => .hold
  | 2 => .standstill
  | 3 => .run
  | 4 => .degraded
  | _ => .safeState

/-- Enter a mode. -/
def Dev.setMode (d : Dev) (m : Mode) : Dev := d.put .SYS_MODE_MODE (modeCode m)

/-- The first lane in IN_SERVICE in the order A, B, C (R442), Lane A if none is. -/
def Dev.firstLane (d : Dev) : Lane :=
  if d.rd .LN_STATUS_STATE 0 = 5 then .a else if d.rd .LN_STATUS_STATE 1 = 5 then .b
  else if d.rd .LN_STATUS_STATE 2 = 5 then .c else .a

/-- The safety configuration in force: that of the first lane in service. -/
def Dev.cfg (d : Dev) : SafetyConfig := (d.lanes.get d.firstLane).image.params

/-- Group cycle GCYC, frames, of the section of this device's group (R464). -/
def Dev.groupCycle (d : Dev) : Nat := (SMap.get {} d.cfg.groups 0).gcyc

/-- Bytes 0x00 to 0x1B of an event record with FLAGS zero (Table 14-10). -/
def eventBytes (r : EventRec) : List Byte :=
  bytesLE 2 r.code ++ bytesLE 1 r.source ++ bytesLE 1 0 ++ bytesLE 4 r.frame ++ bytesLE 4 r.time ++ bytesLE 4 r.seq ++
    bytesLE 2 r.index ++ bytesLE 10 r.detail

/-- TAG of R440: the first 4 bytes of HMAC-SHA-256 under the event log key. -/
def eventTag (bs : List Byte) : Nat := natLE ((bytesBE 32 (hmacSha256 Config.eventKey bs).toNat).take 4)

/-- SEQ of the oldest record the log holds. -/
def logOldest (l : EventLog) : Nat :=
  match l.recs with
  | [] => 0
  | r :: _ => r.seq

/-- Write an event record: Crier numbers it, signs it and writes it into the internal log, which keeps 4,096 records
(R44, R438 to R442), and the counters of Table 15-7 follow. The event writer is one of the shared blocks: in their reset it
writes nothing (R489, R491). -/
def Dev.record (d : Dev) (code source index detail : Nat) : Dev :=
  if d.rd .PWR_STATUS_SHARED_UP = 0 then d
  else
  let r : EventRec :=
    { code := code, source := source, frame := d.frameNo, time := d.timeNs, seq := (d.log.seq + 1) % 2 ^ 32,
      index := index % 2 ^ 16, detail := detail % 2 ^ 80, tag := 0 }
  let tag := eventTag (eventBytes r ++ bytesLE 4 d.log.tag)
  let full := decide (4096 ≤ d.log.recs.length)
  let recs := (if full then d.log.recs.drop 1 else d.log.recs) ++ [{ r with tag := tag }]
  let log : EventLog := { recs := recs, seq := r.seq, tag := tag }
  ((((({ d with log := log }.put .CRI_LOG_OLD_SEQ (logOldest log)).put .CRI_LOG_NEW_SEQ r.seq).when full
    (fun e => e.inc .CRI_LOG_OVW_CNT)).inc .CRI_SRC_CNT_N source).wr .CRI_SRC_LAST_CODE source code).wr
      .CRI_SRC_LAST_FRAME source d.frameNo

/-- Write the record of an event. -/
def Dev.event (d : Dev) (e : Ev) (source : Nat) (index : Nat := 0) (detail : Nat := 0) : Dev :=
  d.record e.code source index detail

/-! Fault record (R112 to R114, R133, R134). -/

/-- Fault kinds, coded as SAF_FAULT_FIRST.KIND. -/
inductive FaultKind where
  | lane | brk | engine | brake | shared
  deriving DecidableEq, Repr

/-- Code of a fault kind. -/
def faultCode : FaultKind → Nat
  | .lane => 1
  | .brk => 2
  | .engine => 3
  | .brake => 4
  | .shared => 5

/-- Record a fault: the first two that count are kept with their event codes (R133). A fault that is still counted is not recorded again,
unless it is a new one of a lane that had come back (`again`, R132). -/
def countFault (d : Dev) (k : FaultKind) (i : Nat) (e : Ev) (again : Bool := false) : Dev :=
  let c := faultCode k
  if d.fault.counted.contains (c, i) ∧ !again then d
  else
    let d' := { d with fault := { d.fault with counted := d.fault.counted ++ [(c, i)], healthyFr := 0 } }
    if d.rd .SAF_FAULT_FIRST_KIND = 0 then
      ((d'.put .SAF_FAULT_FIRST_KIND c).put .SAF_FAULT_FIRST_INDEX i).put .SAF_FAULT_FIRST_EVENT e.code
    else if d.rd .SAF_FAULT_SECOND_KIND = 0 then
      ((d'.put .SAF_FAULT_SECOND_KIND c).put .SAF_FAULT_SECOND_INDEX i).put .SAF_FAULT_SECOND_EVENT e.code
    else d'

/-- Faults of this kind (and instance, if given) clear; the records clear with the last counted fault (R134). -/
def clearFaults (d : Dev) (k : FaultKind) (i : Option Nat) : Dev :=
  let gone := fun (p : Nat × Nat) => decide (p.1 = faultCode k) && (match i with
    | some n => decide (p.2 = n)
    | none => true)
  let left := d.fault.counted.filter fun p => !gone p
  let d := { d with fault := { d.fault with counted := left } }
  if left = [] then
    (((((d.put .SAF_FAULT_FIRST_KIND 0).put .SAF_FAULT_FIRST_INDEX 0).put .SAF_FAULT_FIRST_EVENT 0).put .SAF_FAULT_SECOND_KIND
      0).put .SAF_FAULT_SECOND_INDEX 0).put .SAF_FAULT_SECOND_EVENT 0
  else d

end Sys2Proof.Machine
end

