-- ==== Sys2Proof/Machine/Flags.lean ====
section
/-!
DEFINITION. The SYS_STATUS flags and what sets them (R14, R18, R446, R455, R457), and the judgement of an access by its master and the
device mode (R448 to R450): a write of a trigger field, and whether a read returns the register's value.
-/
namespace Sys2Proof.Machine

/-- SYS_ERR_LAST.MASTER code of a master (Table 15-6). -/
def masterCode : Master → Nat
  | .hostBar0 => 0
  | .hostBar2 => 1
  | .planner => 2
  | .debug => 3
  | .lane _ => 4

/-- Record in SYS_ERR_LAST the word and the master of the access that set a SYS_STATUS flag. -/
def Dev.errLast (d : Dev) (m : Master) (addr cause : Nat) : Dev :=
  ((d.put .SYS_ERR_LAST_ADDR (addr / 4)).put .SYS_ERR_LAST_CAUSE cause).put .SYS_ERR_LAST_MASTER (masterCode m)

/-- A refused write of a locked or write-once field, or of a safety buffer (R14, R26). -/
def Dev.lockViol (d : Dev) (m : Master) (addr : Nat) : Dev :=
  (((d.flag .SYS_STATUS_LOCK_VIOL).inc .SYS_ERR_CNT0_LOCK_VIOL_CNT).errLast m addr 1).event .LOCK_VIOL srcSystem

/-- A write that met a set BUSY bit (R18). -/
def Dev.busyDrop (d : Dev) (m : Master) (addr : Nat) : Dev :=
  (((d.flag .SYS_STATUS_BUSY_DROP).inc .SYS_ERR_CNT1_BUSY_DROP_CNT).errLast m addr 2).event .BUSY_DROP srcSystem

/-- A refused write of a Stopped-only field of a running block (Table 0-3, R455). -/
def Dev.busyReject (d : Dev) (m : Master) (addr : Nat) : Dev :=
  (((d.flag .SYS_STATUS_BUSY_REJECT).inc .SYS_ERR_CNT1_BUSY_REJECT_CNT).errLast m addr 3).event .BUSY_REJECT srcSystem

/-- An inconsistent pair (R17, R457): the record carries the completing word's address. -/
def Dev.pairReject (d : Dev) (m : Master) (addr : Nat) : Dev :=
  ((d.flag .SYS_STATUS_PAIR_REJECT).errLast m addr 4).event .PAIR_REJECT srcSystem 0 addr

/-- An access of a wrong width or alignment, or one the mode forbids (R446, R448, R460). -/
def Dev.accessErr (d : Dev) (m : Master) (addr : Nat) : Dev :=
  ((d.flag .SYS_STATUS_ACCESS_ERR).inc .SYS_ERR_CNT0_ACCESS_ERR_CNT).errLast m addr 5

/-- A write of a trigger field at byte address `addr` by master `m`: it reaches its block, whose BUSY bit is `busy` (none for
SYS_), unless the shared blocks are in reset, the mode forbids it (R448), the debug port is locked (R449) or an earlier write is in
progress (R18). -/
def Dev.trigger (d : Dev) (m : Master) (addr : Nat) (busy : Option (RegField × Nat)) (f : Dev → Dev) : Dev :=
  let go := match busy with
    | some b => if d.on b.1 b.2 then d.busyDrop m addr else f d
    | none => f d
  if d.rd .PWR_STATUS_SHARED_UP = 0 then d
  else match m with
  | .lane _ => go
  | m =>
    if m = .debug ∧ d.rd .PWR_DBG_STAT_UNLOCKED = 0 then d
    else match d.mode with
      | .boot => d
      | .hold => if addr < 0x1000 ∨ (0xA000 ≤ addr ∧ addr < 0xB000) then go else d.accessErr m addr
      | _ => go

/-- The words that hold a privileged register (R450): SAF_ offsets 0 to 0x7FF and ADC_CORRc. -/
def privileged (addr : Nat) : Bool := decide (0x5000 ≤ addr ∧ addr < 0x5800) || decide (0x8100 ≤ addr ∧ addr < 0x817C)

/-- The words of SYS_ that read in Boot (R448). -/
def bootReadable (addr : Nat) : Bool := decide (addr < 0xC) || decide (0x10 ≤ addr ∧ addr < 0x1C)

/-- What a read of byte address `addr` by `m` returns is the register's value: not where the debug port is locked, the word is
privileged (R449, R450), the shared blocks are in reset, or the device is in Boot, in which only the identity words of SYS_ read
(R448). -/
def Dev.readable (d : Dev) (m : Master) (addr : Nat) : Bool :=
  d.on .PWR_STATUS_SHARED_UP && match m with
  | .lane _ => true
  | m =>
    !(decide (m = .debug) && d.rd .PWR_DBG_STAT_UNLOCKED == 0) && !(privileged addr && !decide (m = .debug)) &&
      (!decide (d.mode = .boot) || bootReadable addr)

end Sys2Proof.Machine
end

