-- ==== Sys2Proof/Machine/Triggers.lean ====
section
/-!
DEFINITION. Trigger sources of the ADC user sequence and of the signal processors (Table 12-5): a source that fires leaves its
trigger for the row that acts on it (ADC_SEQ_TRIGGER, SMY_RUN_START).
-/
namespace Sys2Proof.Machine

/-- Change the ADC. -/
def onAdc (d : Dev) (f : AdcState → AdcState) : Dev := { d with adc := f d.adc }

/-- Signal processor `n`. -/
def smyOf (d : Dev) (n : Nat) : SmyCore := if n = 0 then d.smy0 else d.smy1

/-- Change signal processor `n`. -/
def onSmy (d : Dev) (n : Nat) (f : SmyCore → SmyCore) : Dev :=
  if n = 0 then { d with smy0 := f d.smy0 } else { d with smy1 := f d.smy1 }

/-- A trigger for the user sequence; those of one clock are one trigger (R398). -/
def adcTrigger (d : Dev) : Dev :=
  onAdc d fun x => if x.trigs.contains d.tb.ext then x else { x with trigs := x.trigs ++ [d.tb.ext] }

/-- A trigger for signal processor `n` from source `code`; those of one clock are one trigger (R398). -/
def smyTrigger (d : Dev) (n code : Nat) : Dev :=
  onSmy d n fun c => if c.trigs.any fun p => decide (p.1 = d.tb.ext) then c else { c with trigs := c.trigs ++ [(d.tb.ext, code)] }

/-- The source `code` fires for the user sequence. -/
def fireAdc (d : Dev) (code : Nat) : Dev :=
  if d.on .ADC_SEQ_CTRL_EN ∧ d.rd .ADC_SEQ_CTRL_TRIG_SRC = code then adcTrigger d else d

/-- The source `code` fires for signal processor `n`. -/
def fireSmy (d : Dev) (n code : Nat) : Dev := if d.rd .SMY_CFG_TRIG_SRC n = code then smyTrigger d n code else d

/-- A source with one code for both blocks fires: 1 the frame tick, 2 the tick of an even frame, 3 the latch instant, 4 to 11 the
leading edge of a time-triggered output. -/
def Dev.fire (d : Dev) (code : Nat) : Dev := fireSmy (fireSmy (fireAdc d code) 0 code) 1 code

end Sys2Proof.Machine
end

