-- ==== Sys2Proof/Machine/Adc.lean ====
section
/-!
DEFINITION. The ADC subsystem (R369 to R386, R398): correction, overrange, the monitor scan and its check, frame results, user
sequences and user accumulators. Clocks of the converters are counted in the frame, from the tick; a clock before the frame is
negative.
-/
namespace Sys2Proof.Machine

/-- Nanoseconds per converter clock (R371). -/
def adcClockNs (d : Dev) : Nat := if d.on .ADC_CFG_LP then 100 else 25

/-- Clocks of a round (R375). -/
def roundClocks (d : Dev) : Nat := if d.on .ADC_CFG_LP then 125 else 250

/-- Clocks of a frame. -/
def frameAdcClocks (d : Dev) : Nat := d.frameNs / adcClockNs d

/-- Clocks of a round that the monitor scan uses on converter `v` (Table 12-2). -/
def scanClocks (v : Nat) : Nat := if v = 0 then 85 else 80

/-- sat16 of R372. -/
def sat16 (x : Int) : Int := saturate 16 x

/-- The value of a sample of channel `c` after correction (R372), with whether it is out of range (R381). AIN31 has a fixed factory
correction, which `raw` already carries. -/
def correctSample (d : Dev) (c : Nat) (s : Sample) : Int × Bool :=
  let w := SMap.get 0x40000000 d.adc.corr c
  let exact := if c = 31 then s.raw else floorDiv ((s.raw - signedOf 16 (bits w 15 0)) * (bits w 31 16 : Nat)) (2 ^ 14)
  if s.beyond then (if s.raw < 0 then -32768 else 32767, true) else (sat16 exact, decide (sat16 exact ≠ exact))

/-- The clock through which converter `v` delivers recovery samples. -/
def recoverTo (x : AdcState) (v : Nat) : Option Int := if v = 0 then x.rec0 else x.rec1

/-- Set it. -/
def setRecover (x : AdcState) (v : Nat) (t : Option Int) : AdcState := if v = 0 then { x with rec0 := t } else { x with rec1 := t }

/-- Converter `v` delivers the sample of channel `c` taken at `clock`: an out-of-range sample is flagged and counted and makes the
next three samples of the converter recovery samples (R381). The value is none for a recovery sample. -/
def takeSample (d : Dev) (v : Nat) (clock : Int) (c : Nat) (s : Sample) : Dev × Option Int :=
  let (val, oor) := correctSample d c s
  let recovery : Bool := match recoverTo d.adc v with
    | some t => decide (clock ≤ t)
    | none => false
  let d := if oor then
      onAdc ((d.flag .ADC_CH_STAT_OVR c).inc .ADC_CH_STAT_OVR_CNT c) fun x => setRecover x v (some (clock + 3))
    else d
  (d, if recovery then none else some val)

/-! Monitor scan. -/

/-- A channel's accumulator with one more sample. -/
def addSample (a : ChanAcc) (v : Int) : ChanAcc :=
  { sum := a.sum + v, count := a.count + 1, mn := min a.mn v, mx := max a.mx v }

/-- The channel that converter `v` samples in clock `k` of a round (Table 12-2). -/
def scanChannel (v k : Nat) : Nat := if k < 5 then 31 else 16 * v + (k - 5) / 5

/-- One converter's samples of a round from clock `k` on; the counted check samples are summed. -/
def scanSamples (v : Nat) (start : Int) : List Sample → Nat → Dev × ChanAcc → Dev × ChanAcc
  | [], _, r => r
  | s :: ss, k, (d, chk) =>
    if scanClocks v ≤ k then (d, chk)
    else
      let c := scanChannel v k
      let (d, val) := takeSample d v (start + k) c s
      let r : Dev × ChanAcc := match val with
        | some x =>
          if k % 5 = 0 then (d, chk)
          else
            let d := onAdc d fun a => { a with acc := SMap.modify {} a.acc c fun m => addSample m x }
            (d, if c = 31 then addSample chk x else chk)
        | none => (d, chk)
      scanSamples v start ss (k + 1) r

/-- The level of the check source (R376). -/
def checkLevel (frame : Nat) : Int := 16384 * ((frame % 4 : Nat) : Int) - 24576

/-- A round passes its check (R376): the means are compared as exact quotients. -/
def roundPasses (level : Int) (m0 m1 : ChanAcc) : Bool :=
  decide ((m0.sum - level * m0.count).natAbs ≤ 256 * m0.count) && decide ((m1.sum - level * m1.count).natAbs ≤ 256 * m1.count) &&
    decide ((m0.sum * m1.count - m1.sum * m0.count).natAbs ≤ 64 * m0.count * m1.count)

/-- MONITOR_ROUND: the next round of the frame converts the check channel and the monitor inputs; `s0` and `s1` are the samples of ADC0
and ADC1 in the order of Table 12-2. -/
def execMonitorRound (s0 s1 : List Sample) (s : State) : Host.Outcome State Fault Refusal :=
  s.run fun d =>
    let r := d.adc.round
    let start : Int := r * roundClocks d
    if d.adc.scanning ∧ (r + 1) * roundClocks d ≤ frameAdcClocks d then
      let d := d.reach ((r * roundClocks d + 92) * adcClockNs d)
      let (d, m0) := scanSamples 0 start s0 0 (d, {})
      let (d, m1) := scanSamples 1 start s1 0 (d, {})
      let made := decide (0 < m0.count ∧ 0 < m1.count)
      let bad := made && !roundPasses (checkLevel d.frameNo) m0 m1
      onAdc d fun x => { x with round := r + 1, chkMade := x.chkMade || made, chkBad := x.chkBad || bad }
    else d

/-! Frame results. -/

/-- The frame's check fails if a round failed or none made a check; the event once per episode, which 16 passing frames end. -/
def frameCheck (d : Dev) : Dev :=
  if d.adc.chkBad ∨ !d.adc.chkMade then
    let d := (d.flag .ADC_STATUS_CHK_FAIL).inc .ADC_CNT_CHK_FAIL_CNT
    let d := if d.adc.chkEpisode then d else d.event .ADC_CHK_FAIL srcAdc
    onAdc d fun x => { x with chkEpisode := true, chkGood := 0 }
  else onAdc d fun x => { x with chkGood := x.chkGood + 1, chkEpisode := x.chkEpisode && decide (x.chkGood + 1 < 16) }

/-- Close the result of channel `c` into the snapshot (R377, R378). -/
def closeChannel (valid : Bool) (d : Dev) (c : Nat) : Dev :=
  let a := SMap.get ({} : ChanAcc) d.adc.acc c
  let ok := valid && decide (a.count ≠ 0)
  let d := d.wrI .ADC_FRAME_MEAN c (if ok then Int.tdiv a.sum a.count else -32768)
  let d := d.wrI .ADC_FRAME_MAX c (if ok then a.mx else -32768)
  (d.wrI .ADC_FRAME_MIN c a.mn).wrSat .ADC_FRAME_COUNT c a.count

/-- The corrections in force apply to the samples of the frame that begins (R373). -/
def adcCorrections (d : Dev) : Dev :=
  let corr := (List.range 31).foldl (fun m c =>
    SMap.set 0x40000000 m c (d.rd .ADC_CORR_OFFSET c + 2 ^ 16 * d.rd .ADC_CORR_GAIN c)) []
  onAdc d fun x => { x with corr := corr }

/-- The tick that ends frame `n`: results close, the accumulators clear, the scan starts once the reference is ready, and clocks count
from the new tick (R373 to R378). -/
def adcTick (d : Dev) (n : Nat) : Dev :=
  let d := if d.adc.scanning then frameCheck d else d
  let valid := d.adc.scanning && d.adc.chkMade && !d.adc.chkBad
  let d := (d.each (List.range 32) (closeChannel valid)).put .ADC_SNAP_FRAME_NO n
  let len : Int := frameAdcClocks d
  onAdc d fun x =>
    { x with
      scanning := x.scanning || decide (d.rd .ADC_REF_READY = 1), round := 0, acc := [], chkMade := false, chkBad := false,
      rec0 := x.rec0.map fun t => t - len, rec1 := x.rec1.map fun t => t - len,
      run := x.run.map fun r => { r with c0 := r.c0 - len, c1 := r.c1 - len, last := r.last - len } }

/-! Reference buffer (R374). -/

/-- ADC_REF_EN_WRITE: EN is of access W1. -/
def execAdcRefEnWrite (m : Master) (value : Bool) (s : State) : Host.Outcome State Fault Refusal :=
  s.run fun d => d.trigger m 0x8004 (some (.ADC_STATUS_BUSY, 0)) fun d =>
    if value then d.flag .ADC_REF_EN else if d.on .ADC_REF_EN then d.lockViol m 0x8004 else d

/-- ADC_REF_READY: 200 us after EN the reference is ready. -/
def execAdcRefReady (s : State) : Host.Outcome State Fault Refusal :=
  s.run fun d => if d.on .ADC_REF_EN then d.flag .ADC_REF_READY else d

/-! User sequences (R382 to R384). -/

/-- Entries of the list of converter `v`. -/
def seqLen (d : Dev) (v : Nat) : Nat := min 32 (if v = 0 then d.rd .ADC_SEQ_CTRL_LEN0 else d.rd .ADC_SEQ_CTRL_LEN1)

/-- CHAN, OVS, SETTLE and DEST of entry `e` of the list of converter `v`. -/
def seqEntry (d : Dev) (v e : Nat) : Nat × Nat × Nat × Nat :=
  if v = 0 then (d.rd .ADC_SEQ0_E_CHAN e, d.rd .ADC_SEQ0_E_OVS e, d.rd .ADC_SEQ0_E_SETTLE e, d.rd .ADC_SEQ0_E_DEST e)
  else (d.rd .ADC_SEQ1_E_CHAN e, d.rd .ADC_SEQ1_E_OVS e, d.rd .ADC_SEQ1_E_SETTLE e, d.rd .ADC_SEQ1_E_DEST e)

/-- The lists in use as (converter, entry). -/
def seqAll (d : Dev) : List (Nat × Nat) :=
  (List.range (seqLen d 0)).map (fun e => (0, e)) ++ (List.range (seqLen d 1)).map (fun e => (1, e))

/-- Clear user accumulator `u`. -/
def clearUa (d : Dev) (u : Nat) : Dev :=
  onAdc (d.wr .ADC_UA_SUM_SUM u 0) fun x => { x with ua := SMap.set {} x.ua u {} }

/-- Start the sequence at a trigger at time `t` (R383): its entries begin with the first free clock from there. -/
def startSequence (d : Dev) (t : Int) : Dev :=
  let c : Int := -floorDiv (-(t - d.tb.tickAt)) (adcClockNs d)
  let d := if d.on .ADC_SEQ_CTRL_CLR_ON_START then d.each (seqAll d) fun d p => clearUa d (seqEntry d p.1 p.2).2.2.2 else d
  onAdc (d.flag .ADC_STATUS_SEQ_ACTIVE) fun x => { x with run := some { c0 := c, c1 := c, last := c } }

/-- A trigger at time `t` reaches the sequence (R383, R384). -/
def sequenceTrigger (d : Dev) (t : Int) : Dev :=
  if d.rd .ADC_SEQ_CTRL_EN = 0 then d
  else if d.rd .ADC_REF_READY = 0 then (d.flag .ADC_STATUS_TRIG_EARLY).event .ADC_REF_EARLY srcAdc
  else if d.adc.run.isSome then
    if d.on .ADC_STATUS_TRIG_QUEUED then d.inc .ADC_CNT_TRIG_OVERRUN else d.flag .ADC_STATUS_TRIG_QUEUED
  else startSequence d t

/-- ADC_SEQ_GO: a write of GO; with a source that fired in the same clock it is one trigger (R398). -/
def execAdcSeqGo (m : Master) (s : State) : Host.Outcome State Fault Refusal :=
  s.run fun d => d.trigger m 0x8014 (some (.ADC_STATUS_BUSY, 0)) fun d =>
    sequenceTrigger (onAdc d fun x => { x with trigs := x.trigs.filter fun t => decide (t ≠ d.tb.ext) }) d.tb.ext

/-- ADC_SEQ_TRIGGER: the oldest trigger that its source has fired acts. -/
def execAdcSeqTrigger (s : State) : Host.Outcome State Fault Refusal :=
  s.run fun d =>
    match d.adc.trigs with
    | [] => d
    | t :: rest => sequenceTrigger (onAdc d fun x => { x with trigs := rest }) t

/-- Setting EN is refused (R382). -/
def sequenceRefused (d : Dev) : Bool :=
  decide (seqLen d 0 = 0 ∧ seqLen d 1 = 0) ||
    (seqAll d).any fun p => decide ((seqEntry d p.1 p.2).1 = 31) || decide (6 < (seqEntry d p.1 p.2).2.1)

/-- Write EN; a sequence that runs goes on to its end. -/
def sequenceEnable (d : Dev) (v : Bool) : Dev :=
  if v then
    if d.on .ADC_SEQ_CTRL_EN then d
    else if sequenceRefused d then (d.flag .ADC_STATUS_SEQ_CFG_REJECT).event .ADC_SEQ_REJECT srcAdc
    else d.flag .ADC_SEQ_CTRL_EN
  else d.put .ADC_SEQ_CTRL_EN 0

/-- ADC_SEQ_ENABLE: a write of ADC_SEQ_CTRL.EN. -/
def execAdcSeqEnable (m : Master) (v : Bool) (s : State) : Host.Outcome State Fault Refusal :=
  s.run fun d => d.trigger m 0x8014 (some (.ADC_STATUS_BUSY, 0)) fun d => sequenceEnable d v

/-- The clock at which an entry of `n` samples on converter `v` starts, from clock `c` on: free clocks only, and never across a
round; none if no round leaves that many (R382). -/
def entryStart (d : Dev) (v : Nat) (c : Int) (n : Nat) : Option Int :=
  let p : Int := roundClocks d
  let u : Int := scanClocks v
  if !d.adc.scanning then some c
  else if p - u < n then none
  else
    let r := c % p
    let free := if r < u then c - r + u else c
    if free - free % p + p - free < n then some (free - free % p + p + u) else some free

/-- User accumulator `u` takes one counted sample; full at 65,535 (R385). -/
def addUser (d : Dev) (u : Nat) (v : Int) : Dev :=
  let a := SMap.get ({} : UserAcc) d.adc.ua u
  if 65535 ≤ a.count then d
  else
    let b : UserAcc := { count := a.count + 1, mn := min a.mn v, mx := max a.mx v, full := decide (65535 ≤ a.count + 1) }
    onAdc (d.wr .ADC_UA_SUM_SUM u (fieldOf 32 (d.rdI .ADC_UA_SUM_SUM u + v))) fun x => { x with ua := SMap.set {} x.ua u b }

/-- The samples of an entry from sample `k` on: the first `settle` are discarded. -/
def entrySamples (v : Nat) (start : Int) (ch settle u : Nat) : List Sample → Nat → Dev → Dev
  | [], _, d => d
  | s :: ss, k, d =>
    let (d, val) := takeSample d v (start + k) ch s
    let d : Dev := match val with
      | some x => if k < settle then d else addUser d u x
      | none => d
    entrySamples v start ch settle u ss (k + 1) d

/-- ADC_ENTRY_END: the next entry of converter `v`'s list ends; `samples` are its SETTLE + 2^OVS samples. -/
def execAdcEntryEnd (v : Fin 2) (samples : List Sample) (s : State) : Host.Outcome State Fault Refusal :=
  s.run fun d =>
    match d.adc.run with
    | none => d
    | some r =>
      let i := if v = 0 then r.i0 else r.i1
      let (ch, ovs, settle, u) := seqEntry d v i
      let n := settle + 2 ^ ovs
      match entryStart d v (if v = 0 then r.c0 else r.c1) n with
      | none => d
      | some st =>
        if seqLen d v ≤ i ∨ samples.length ≠ n then d
        else
          let fin := st + n + 7
          let d := d.reach (fin * adcClockNs d).toNat
          let d := entrySamples v st ch settle u samples 0 d
          let r := { r with last := max r.last fin }
          onAdc d fun x =>
            { x with run := some (if v = 0 then { r with i0 := i + 1, c0 := st + n } else { r with i1 := i + 1, c1 := st + n }) }

/-- ADC_SEQ_END: both lists have ended; SEQ_ACTIVE clears, the sequence-end trigger fires, and a queued trigger starts the sequence
again (R382, R384). -/
def execAdcSeqEnd (s : State) : Host.Outcome State Fault Refusal :=
  s.run fun d =>
    match d.adc.run with
    | none => d
    | some r =>
      if r.i0 < seqLen d 0 ∨ r.i1 < seqLen d 1 then d
      else
        let d := d.reach (r.last * adcClockNs d).toNat
        let d := (onAdc d fun x => { x with run := none }).put .ADC_STATUS_SEQ_ACTIVE 0
        let d := fireSmy (fireSmy d 0 12) 1 12
        if d.on .ADC_STATUS_TRIG_QUEUED then startSequence (d.put .ADC_STATUS_TRIG_QUEUED 0) d.tb.ext else d

/-! User accumulators (R385). -/

/-- Copy COUNT, MIN, MAX and FULL of accumulator `u` into the read registers. -/
def copyUa (d : Dev) (u : Nat) : Dev :=
  let a := SMap.get ({} : UserAcc) d.adc.ua u
  (((d.wr .ADC_UA_CNT_COUNT u a.count).wr .ADC_UA_CNT_FULL u (bitOf a.full)).wrI .ADC_UA_MM_MIN u a.mn).wrI .ADC_UA_MM_MAX u a.mx

/-- ADC_UA_SUM_READ: a read of ADC_UAu_SUM copies the set. -/
def execAdcUaSumRead (m : Master) (u : Fin 32) (s : State) : Host.Outcome State Fault Refusal :=
  s.run fun d =>
    if d.readable m (0x8500 + 16 * u) then (copyUa d u).emit (.readData m (d.rd .ADC_UA_SUM_SUM u)) else d.emit (.readData m 0)

/-- ADC_UA_CLR: a write of ADC_UAu_CLR. -/
def execAdcUaClr (m : Master) (u : Fin 32) (s : State) : Host.Outcome State Fault Refusal :=
  s.run fun d => d.trigger m (0x850C + 16 * u) (some (.ADC_STATUS_BUSY, 0)) fun d => clearUa d u

end Sys2Proof.Machine
end

