-- ==== Sys2Proof/Machine/Crc.lean ====
section
/-!
DEFINITION. The check codes of the spec, bit by bit: CRC-16 of Entayr blocks (R155), CRC-24 seals (R163) and the CRC-64 of the
configuration digest (R102). None of these is reflected and none has a final inversion; CRC-32C, which the host structures use, is and has.
-/
namespace Sys2Proof.Machine

/-- One bit of a non-reflected CRC of width `w`: shift left and subtract the polynomial. -/
def crcBit (w poly crc : Nat) : Nat :=
  if crc.testBit (w - 1) then (2 * crc % 2 ^ w) ^^^ poly else 2 * crc % 2 ^ w

/-- `n` bits. -/
def crcBits (w poly : Nat) : Nat → Nat → Nat
  | 0, crc => crc
  | n + 1, crc => crcBits w poly n (crcBit w poly crc)

/-- One byte, most significant bit first. -/
def crcByte (w poly crc : Nat) (b : Byte) : Nat := crcBits w poly 8 (crc ^^^ (b.toNat * 2 ^ (w - 8)))

/-- CRC of a list of bytes from an initial value. -/
def crcBytes (w poly init : Nat) (bs : List Byte) : Nat := bs.foldl (crcByte w poly) init

/-- CRC-16 of a block's data bytes (R155). -/
def crc16 (bs : List Byte) : Nat := crcBytes 16 0x1021 0xFFFF bs

/-- CRC-24 seal of a safety part (R163). -/
def crc24 (bs : List Byte) : Nat := crcBytes 24 0x864CFB 0xB704CE bs

/-- CRC-64 with the ECMA-182 polynomial (R102). -/
def crc64 (bs : List Byte) : Nat := crcBytes 64 0x42F0E1EBA9EA3693 0 bs

/-- One byte of CRC-32C, least significant bit first. -/
def crc32cByte (crc : Nat) (b : Byte) : Nat :=
  let step := fun (c : Nat) => if c % 2 = 1 then c / 2 ^^^ 0x82F63B78 else c / 2
  step (step (step (step (step (step (step (step (crc ^^^ b.toNat))))))))

/-- CRC-32C (Castagnoli), the check of host structures and checkpoints: reflected, with the parameters of its standard definition. -/
def crc32c (bs : List Byte) : Nat := bs.foldl crc32cByte 0xFFFFFFFF ^^^ 0xFFFFFFFF

/-- CRC-64 continued over `n` zero bytes. -/
def crc64Zeros (n crc : Nat) : Nat := if crc = 0 then 0 else crcBits 64 0x42F0E1EBA9EA3693 (8 * n) crc

/-- CRC-64 of a region of `len` bytes that holds the listed bytes at rising offsets and zero elsewhere; `at'` is the offset
reached. -/
def crc64Sparse (len : Nat) : Nat → Nat → List (Nat × Byte) → Nat
  | at', crc, [] => crc64Zeros (len - at') crc
  | at', crc, e :: es =>
    crc64Sparse len (e.1 + 1) (crcByte 64 0x42F0E1EBA9EA3693 (crc64Zeros (e.1 - at') crc) e.2) es

end Sys2Proof.Machine
end

