-- ==== Sys2Proof/Machine/TimeBase.lean ====
section
/-!
DEFINITION. The time base, chapter 02: the tick and the frame counter, the discipline of device time (R56 to R61, R510), PTP on
the Ethernet ports (R62 to R64) and the time-triggered outputs (R69 to R72). Device time is extended device time in ns; how
far real time differs from it is the rate correction, which the model holds as a number.
-/
namespace Sys2Proof.Machine

/-- Discipline states, BLF_STATUS.STATE (Table 2-4). -/
inductive TimeState where
  | free | acquiring | locked | slewing | holdover | diverged
  deriving DecidableEq, Repr

/-- Code of a discipline state. -/
def timeStateCode : TimeState → Nat
  | .free => 0
  | .acquiring => 1
  | .locked => 2
  | .slewing => 3
  | .holdover => 4
  | .diverged => 5

/-- The discipline state (R57). -/
def timeState (d : Dev) : TimeState :=
  match d.rd .BLF_STATUS_STATE with
  | 0 => .free
  | 1 => .acquiring
  | 2 => .locked
  | 3 => .slewing
  | 4 => .holdover
  | _ => .diverged

/-- Enter a discipline state. -/
def setTimeState (d : Dev) (s : TimeState) : Dev := d.put .BLF_STATUS_STATE (timeStateCode s)

/-- BLF_EPOCH, signed 64 bits in two registers. -/
def epoch (d : Dev) : Int := signedOf 64 (d.rd .BLF_EPOCH_LO_NS + 2 ^ 32 * d.rd .BLF_EPOCH_HI_NS)

/-- Load BLF_EPOCH. -/
def setEpoch (d : Dev) (e : Int) : Dev :=
  (d.put .BLF_EPOCH_LO_NS (fieldOf 64 e)).put .BLF_EPOCH_HI_NS (fieldOf 64 e / 2 ^ 32)

/-- BLF_SLEW.MAX_PPM in 1/16 ppb (R60). -/
def maxRate (d : Dev) : Int := 16000 * (d.rd .BLF_SLEW_MAX_PPM : Int)

/-- The largest change of the rate correction from one frame to the next, 1 ppm, in 1/16 ppb (R60). -/
def rateStep : Int := 16000

/-- What a slew term of `v` works off, with the ramp down that must follow it, in 1/256,000 ns at `units` periods of 62.5 us:
units times v + (v - step) + ... while positive. -/
def rampAmount (units : Nat) (v : Int) : Int :=
  let n := (v + rateStep - 1) / rateStep
  units * (n * v - rateStep * (n * (n - 1) / 2))

/-- The largest slew term from which `left` still suffices for the ramp down, among the terms of `n` ramp frames. -/
def rampTerm (units : Nat) (left n : Int) : Int := (left / units + rateStep * (n * (n - 1) / 2)) / n

/-- The next slew term toward `left` remaining (not negative), from the term `v` in force: the greatest within one step of
`v` and within `vmax` that can still ramp down to end at zero (R60). -/
def slewNextUp (units : Nat) (v vmax left : Int) : Int :=
  let hi := min (v + rateStep) vmax
  let lo := v - rateStep
  if hi ≤ lo then lo
  else if rampAmount units (max hi 0) ≤ left then hi
  else
    let n := (max hi 1 + rateStep - 1) / rateStep
    let c0 := rampTerm units left n
    let c1 := rampTerm units left (max (n - 1) 1)
    let c2 := rampTerm units left (max (n - 2) 1)
    let fits := fun c => decide (lo ≤ c ∧ c ≤ hi ∧ rampAmount units (max c 0) ≤ left)
    if fits c0 then c0 else if fits c1 then c1 else if fits c2 then c2 else lo

/-- The next slew term toward `left` remaining, in either direction. -/
def slewNext (units : Nat) (v vmax left : Int) : Int :=
  if 0 ≤ left then slewNextUp units v vmax left else -(slewNextUp units (-v) vmax (-left))

/-- Show the rate correction in force, whole parts per billion (BLF_RATE.PPB). -/
def showRate (d : Dev) : Dev := d.wrI .BLF_RATE_PPB 0 (floorDiv d.tb.rate 16)

/-- A rate correction toward `goal`, by at most 1 ppm from one frame to the next (R60). -/
def rateToward (d : Dev) (goal : Int) : Dev :=
  showRate { d with tb := { d.tb with rate := clampInt (d.tb.rate - rateStep) (d.tb.rate + rateStep) goal } }

/-- The rate correction of the frame that begins at a tick (R57, R60, R510). A frozen rate moves only while it stands above a limit
committed since (log entry 26). -/
def rateTick (d : Dev) : Dev :=
  match timeState d with
  | .slewing =>
    let vmax := max 0 (maxRate d - d.tb.freq.natAbs)
    let v := slewNext d.periodUnits d.tb.slew vmax d.tb.slewLeft
    showRate { d with tb := { d.tb with slew := v, slewLeft := d.tb.slewLeft - v * d.periodUnits, rate := d.tb.freq + v } }
  | .locked => rateToward d d.tb.target
  | .free => rateToward d 0
  | .acquiring | .holdover | .diverged => rateToward d (clampInt (-(maxRate d)) (maxRate d) d.tb.rate)

/-- A committed MAX_PPM limits the frequency term and the target at once (R60, R510). -/
def limitRate (d : Dev) : Dev :=
  let m := maxRate d
  { d with tb := { d.tb with freq := clampInt (-m) m d.tb.freq, target := clampInt (-m) m d.tb.target } }

/-- A period of `units` begins: what a slew has still to work off is counted in whole periods (R48, R60). -/
def slewPeriod (units : Nat) (d : Dev) : Dev := { d with tb := { d.tb with slewLeft := d.tb.slewLeft - d.tb.slewLeft % units } }

/-- Device time of the tick from which the frame counts after a step `o` at the tick of device time `at'`: the grid moves with device
time, whose ticks stay at whole multiples of T_F (R50, R59); after a backward step no tick repeats (log entry 96). -/
def gridTick (at' o : Int) (frameNs : Nat) : Int := if 0 ≤ o then at' + o - (at' + o) % frameNs else at'

/-- The latch offset, 8 ns units, in force `k` frames after this one (R55). -/
def latchIn (d : Dev) (k : Nat) : Nat :=
  match (d.tb.latchNext.filter fun p => decide (p.1 ≤ k)).getLast? with
  | some p => p.2
  | none => d.tb.latchNow

/-- A latch offset committed at this tick is in force from the second tick after it (R55). -/
def latchFrom2 (d : Dev) (v : Nat) : Dev := { d with tb := { d.tb with latchNext := d.tb.latchNext ++ [(2, v)] } }

/-- The tick of a frame: the frame number, device time at the tick, a step of device time that R59 left to this tick, the
rate of the frame, and a latch instant committed two ticks before (R49, R50, R55, R59, R60). -/
def timeTick (d : Dev) : Dev :=
  if d.tb.ticking then
    let at' := d.tb.tickAt + d.frameNs
    let d := d.put .BLF_FRAME_NO_NO ((d.frameNo + 1) % 2 ^ 32)
    rateTick { d with tb := { d.tb with
      tickAt := gridTick at' d.tb.stepNext d.frameNs, ext := at' + d.tb.stepNext, stepNext := 0, latchNow := latchIn d 1,
      latchNext := (d.tb.latchNext.filter fun p => decide (1 < p.1)).map fun p => (p.1 - 1, p.2) } }
  else
    { (d.put .BLF_FRAME_NO_NO 0) with tb := { d.tb with ticking := true, ext := 0, tickAt := 0 } }

/-- Nominal Sync interval of port `p`, ns. -/
def syncNs (d : Dev) (p : Nat) : Nat := 1000000000 / 2 ^ d.rd .BLF_PTP_CFG_LOG_SYNC p

/-- Nominal interval between offsets, ns (R510): the Sync interval of the port in force, or the group cycle. -/
def offsetInterval (d : Dev) : Nat :=
  match d.rd .BLF_CFG_SOURCE with
  | 1 => syncNs d 0
  | 2 => syncNs d 1
  | _ => d.groupCycle * d.frameNs

/-- The servo of R510 for an offset within the jump threshold; in Boot, Hold and Safe state device time is stepped at the
next tick instead and the rate moves to F (R59). -/
def servo (d : Dev) (o : Int) : Dev :=
  let tau : Int := max 1 (offsetInterval d)
  let m := maxRate d
  let rT := clampInt (-m) m (d.tb.freq + floorDiv (o * 16000000000) (2 * tau))
  let f' := clampInt (-m) m (d.tb.freq + floorDiv (o * 1000000000) tau)
  match d.mode with
  | .boot | .hold | .safeState =>
    { d with tb := { d.tb with freq := f', target := f', stepNext := o, confirm := [] } }
  | .standstill | .run | .degraded =>
    { d with tb := { d.tb with freq := f', target := rT, confirm := [] } }

/-- A confirmed offset beyond the threshold: refuse the step and slew, or diverge beyond 1 ms (R59, R60). DIVERGED takes the place of
SLEWING with its event, as Table 2-4 has one event for each entry: JUMP_REFUSED does not set then (log entry 97). -/
def jumpRefused (d : Dev) (o : Int) (allBeyond : Bool) : Dev :=
  let d := { d with tb := { d.tb with confirm := [] } }
  if allBeyond then
    (setTimeState (d.flag .BLF_STATUS_TIME_DIVERGED) .diverged).event .TIME_DIVERGED srcTime
  else
    let d := ((d.flag .BLF_STATUS_JUMP_REFUSED)).event .JUMP_REFUSED srcTime
    let d := setTimeState d .slewing
    { d with tb := { d.tb with slew := d.tb.rate - d.tb.freq, slewLeft := 256000 * o } }

/-- An offset after acquisition or in LOCKED (R59). -/
def lockedOffset (d : Dev) (o : Int) : Dev :=
  if o.natAbs ≤ d.rd .BLF_JUMP_THR_THR_NS then servo d o
  else
    let c := d.tb.confirm ++ [o]
    if c.length < 3 then { d with tb := { d.tb with confirm := c } }
    else jumpRefused d o (c.all (fun x => decide (1000000 < x.natAbs)))

/-- A measurement during a slew, reduced by the part not yet applied; three that confirm re-plan the slew (R60). Amounts in
1/256,000 ns. -/
def slewOffset (d : Dev) (o : Int) : Dev :=
  let r := 256000 * o - d.tb.slewLeft
  if r.natAbs ≤ 256000 * d.rd .BLF_JUMP_THR_THR_NS then { d with tb := { d.tb with confirm := [] } }
  else
    let c := d.tb.confirm ++ [r]
    if c.length < 3 then { d with tb := { d.tb with confirm := c } }
    else if c.all (fun x => decide (256000000000 < x.natAbs)) then
      (setTimeState ({ d with tb := { d.tb with confirm := [] } }.flag .BLF_STATUS_TIME_DIVERGED) .diverged).event
        .TIME_DIVERGED srcTime
    else
      let d := ((d.flag .BLF_STATUS_JUMP_REFUSED)).event .JUMP_REFUSED srcTime
      { d with tb := { d.tb with confirm := [], slewLeft := d.tb.slewLeft + r } }

/-- Median of three. -/
def median3 (a b c : Int) : Int := max (min a b) (min (max a b) c)

/-- The value congruent to `p` modulo `t` nearest to `m`, the lower on a tie (R58). -/
def nearestCongruent (p t m : Int) : Int :=
  let low := m - (m - p) % t
  if 2 * (m - low) ≤ t then low else low + t

/-- Acquisition: three consecutive measurements within 1 us load BLF_EPOCH and leave the residual as the offset, which BLF_OFFSET then
shows (R58; log entry 98). The first entry to LOCKED after an acquisition writes EV_EPOCH_SET. -/
def acquire (d : Dev) (raw : Int) : Dev :=
  match d.tb.acquired ++ [raw] with
  | [a, b, c] =>
    if max a (max b c) - min a (min b c) ≤ 1000 then
      let m := median3 a b c
      let e := nearestCongruent (if d.rd .BLF_CFG_SOURCE = 3 then 0 else 8 * (d.rd .BLF_PHASE_PHASE : Int)) d.frameNs m
      let d := setEpoch { d with tb := { d.tb with acquired := [], confirm := [], epochSet := true, target := d.tb.freq } } e
      let d := ((d.flag .BLF_STATUS_EPOCH_SET).wrI .BLF_OFFSET_NS 0 (m - e)).event .EPOCH_SET srcTime
      lockedOffset (setTimeState d .locked) (m - e)
    else { d with tb := { d.tb with acquired := [b, c] } }
  | xs => { d with tb := { d.tb with acquired := xs } }

/-- Enter ACQUIRING: offsets are collected afresh (Table 2-4). -/
def enterAcquiring (d : Dev) : Dev :=
  setTimeState { d with tb := { d.tb with acquired := [], confirm := [], slewLeft := 0 } } .acquiring

/-- A new offset measurement; `raw` is source time minus extended device time (R56 to R60, R510). -/
def measured (d : Dev) (raw : Int) : Dev :=
  let o := raw - epoch d
  let d := d.wrI .BLF_OFFSET_NS 0 o
  match timeState d with
  | .free => d
  | .acquiring => acquire d raw
  | .locked => lockedOffset d o
  | .slewing => slewOffset d o
  | .holdover => acquire (enterAcquiring d) raw
  | .diverged => d

/-- Source time minus extended device time that the selected source has last delivered and the discipline not yet taken (Table 2-3):
the offset of the selected port's last complete Sync, or of the last steward frame. -/
def sourceOffset (d : Dev) : Option Int :=
  match d.rd .BLF_CFG_SOURCE with
  | 1 => d.tb.ptp0.offset
  | 2 => d.tb.ptp1.offset
  | 3 => d.tb.groupOffset
  | _ => none

/-- The discipline takes what the sources have delivered. -/
def offsetsTaken (d : Dev) : Dev :=
  { d with tb := { d.tb with
    ptp0 := { d.tb.ptp0 with offset := none }, ptp1 := { d.tb.ptp1 with offset := none }, groupOffset := none } }

/-- OFFSET_MEASUREMENT: the selected time source delivers one offset to the discipline; without one, and while free-running, nothing
happens (R56, R59, R62). -/
def execOffsetMeasurement (s : State) : Host.Outcome State Fault Refusal :=
  s.run fun d =>
    match sourceOffset d with
    | some raw => measured (offsetsTaken d) raw
    | none => d

/-- SLEW_END: the slew has worked off the confirmed offset and its term is back at zero; the device returns to LOCKED (R60).
A slew not yet worked off has not ended. -/
def execSlewEnd (s : State) : Host.Outcome State Fault Refusal :=
  s.run fun d =>
    if timeState d = .slewing ∧ d.tb.slewLeft = 0 ∧ d.tb.slew.natAbs ≤ 16000 then
      setTimeState (showRate { d with tb := { d.tb with slew := 0, target := d.tb.freq, rate := d.tb.freq } }) .locked
    else d

/-- SOURCE_LOSS_TIMEOUT: no valid offset for the loss interval (Table 2-4, HOLDOVER). -/
def execSourceLossTimeout (s : State) : Host.Outcome State Fault Refusal :=
  s.run fun d =>
    match timeState d with
    | .acquiring | .locked | .slewing =>
      (setTimeState ({ d with tb := { d.tb with confirm := [], acquired := [] } }.flag .BLF_STATUS_SOURCE_LOST)
        .holdover).event .SOURCE_LOST srcTime
    | .free | .holdover | .diverged => d

/-- The effect of BLF_ACQUIRE.GO: acquisition restarts from any state but FREE (R61). -/
def acquireGo (d : Dev) : Dev := if timeState d = .free then d else enterAcquiring d

/-- A committed time source (R57, R510): F is zero whenever SOURCE changes. An offset that a source delivered before is not of the new
selection and is dropped (log entry 99). -/
def sourceSelected (d : Dev) : Dev :=
  let d := offsetsTaken { d with tb := { d.tb with freq := 0, target := 0 } }
  if d.rd .BLF_CFG_SOURCE = 0 then setTimeState { d with tb := { d.tb with acquired := [], confirm := [], slewLeft := 0 } } .free
  else enterAcquiring d

/-! PTP (R62 to R64). -/

/-- PTP state of a port. -/
def ptpPort (d : Dev) (p : Nat) : PtpPort := if p = 0 then d.tb.ptp0 else d.tb.ptp1

/-- Replace the PTP state of a port. -/
def setPtpPort (d : Dev) (p : Nat) (v : PtpPort) : Dev :=
  if p = 0 then { d with tb := { d.tb with ptp0 := v } } else { d with tb := { d.tb with ptp1 := v } }

/-- A receive stamp of port `p`, corrected (Table 2-6). -/
def ptpRxStamp (d : Dev) (p : Nat) : Int := trunc8 d.tb.ext - 136 - d.rd .BLF_PTP_LAT_RX_NS p

/-- A transmit stamp of port `p`, corrected (Table 2-6). -/
def ptpTxStamp (d : Dev) (p : Nat) : Int := trunc8 d.tb.ext + 88 + d.rd .BLF_PTP_LAT_TX_NS p

/-- Port `p` takes part in PTP and in this domain (R62). -/
def ptpAccepts (d : Dev) (p domain : Nat) : Bool :=
  d.on .BLF_PTP_CFG_EN p && decide (d.rd .BLF_PTP_CFG_DOMAIN p = domain)

/-- The order of the data set comparison of IEEE 1588-2019, most significant first. -/
def ptpRank (c : PtpClock) : List Nat := [c.prio1, c.cls, c.accuracy, c.variance, c.prio2, c.identity, c.steps]

/-- The first list of numbers is smaller, the first difference deciding. -/
def lexLess : List Nat → List Nat → Bool
  | x :: xs, y :: ys => decide (x < y) || (decide (x = y) && lexLess xs ys)
  | _, _ => false

/-- The device's own clock: clockClass 248 on an arbitrary timescale (R63); the other attributes are the standard's defaults. -/
def ownClock : PtpClock :=
  { prio1 := 128, cls := 248, accuracy := 0xFE, variance := 0xFFFF, prio2 := 128, identity := Config.ptpIdentity, steps := 0,
    arbitrary := true }

/-- The best master heard on port `p`, while its last Sync is not older than four Sync intervals. -/
def bestMaster (d : Dev) (p : Nat) : Option PtpClock :=
  match (ptpPort d p).best with
  | some (c, t) => if d.tb.ext ≤ t + 4 * syncNs d p then some c else none
  | none => none

/-- A Sync of master `c` counts: it is the master in force on the port, or a better one (R62). -/
def masterTaken (d : Dev) (p : Nat) (c : PtpClock) : Bool :=
  match bestMaster d p with
  | some b => decide (b.identity = c.identity) || lexLess (ptpRank c) (ptpRank b)
  | none => true

/-- The best master clock algorithm makes port `p` a master: no master better than the device's own clock is heard on it. -/
def bmcaMaster (d : Dev) (p : Nat) : Bool :=
  match bestMaster d p with
  | some b => !lexLess (ptpRank b) (ptpRank ownClock)
  | none => true

/-- Port `p` acts as master (R62, R63): master-only, or BMCA where it is the other port of a boundary clock or the algorithm says so. -/
def ptpIsMaster (d : Dev) (p : Nat) : Bool :=
  d.on .BLF_PTP_CFG_EN p &&
    (decide (d.rd .BLF_PTP_CFG_ROLE p = 1) ||
      (decide (d.rd .BLF_PTP_CFG_ROLE p = 2) && (decide (d.rd .BLF_CFG_SOURCE = 2 - p) || bmcaMaster d p)))

/-- The clock a master port announces: the grandmaster of the selected port, one step further, or the device's own clock (R63). -/
def announced (d : Dev) : PtpClock :=
  let via := fun (p : Nat) => match bestMaster d p with
    | some b => { b with steps := b.steps + 1 }
    | none => ownClock
  match d.rd .BLF_CFG_SOURCE with
  | 1 => via 0
  | 2 => via 1
  | _ => ownClock

/-- Source time served by a master port (R63). -/
def served (d : Dev) (stamp : Int) : Int := stamp + epoch d

/-- The offset toward a master from a complete Sync and the measured path delay. -/
def ptpOffset (t : PtpPort) : Option Int :=
  match t.lastSync, t.delay2 with
  | some (t1, t2), some dd => some (t1 + floorDiv dd 2 - t2)
  | _, _ => none

/-- PTP_SYNC_RECEIVED: a two-step Sync of the best master `c` is stamped; a one-step Sync is discarded and counted (Table 2-5). -/
def execPtpSyncReceived (port : Fin 2) (twoStep : Bool) (domain seq : Nat) (c : PtpClock) (s : State) :
    Host.Outcome State Fault Refusal :=
  s.run fun d =>
    if ptpAccepts d port domain then
      if !twoStep then d.inc .BLF_PTP_CFG_ONESTEP_CNT port
      else if masterTaken d port c then
        setPtpPort d port { ptpPort d port with syncWait := some (seq, ptpRxStamp d port), best := some (c, d.tb.ext) }
      else d
    else d

/-- PTP_FOLLOW_UP_RECEIVED: the origin stamp completes the Sync of the same number; a port that is no master then delivers one offset
(R62). -/
def execPtpFollowUpReceived (port : Fin 2) (domain seq : Nat) (origin : Int) (s : State) :
    Host.Outcome State Fault Refusal :=
  s.run fun d =>
    match ptpAccepts d port domain, (ptpPort d port).syncWait with
    | true, some (n, t2) =>
      if n = seq then
        let t := { ptpPort d port with syncWait := none, lastSync := some (origin, t2) }
        setPtpPort d port { t with offset := if ptpIsMaster d port then none else ptpOffset t }
      else d
    | _, _ => d

/-- PTP_DELAY_RESP_RECEIVED: the answer of the port's delay mechanism completes a delay measurement. End to end: `receive` is
the master's receive stamp of the request; peer: `receive` and `transmit` are the peer's stamps (R62). -/
def execPtpDelayRespReceived (port : Fin 2) (domain seq : Nat) (receive transmit : Int) (s : State) :
    Host.Outcome State Fault Refusal :=
  s.run fun d =>
    match ptpAccepts d port domain, (ptpPort d port).reqWait with
    | true, some (n, t3) =>
      let t := ptpPort d port
      if n = seq then
        if d.on .BLF_PTP_CFG_DELAY port then
          let rtt := ptpRxStamp d port - t3 - (transmit - receive)
          setPtpPort d port { t with reqWait := none, delay2 := some rtt }
        else
          match t.lastSync with
          | some (t1, t2) =>
            setPtpPort d port { t with reqWait := none, delay2 := some ((t2 - t1) + (receive - t3)) }
          | none => setPtpPort d port { t with reqWait := none }
      else d
    | _, _ => d

/-- PTP_DELAY_REQ_RECEIVED: a master port answers an end-to-end request with its receive stamp; a port with the peer mechanism
answers with both stamps, whatever its role (R62, R63). -/
def execPtpDelayReqReceived (port : Fin 2) (domain seq : Nat) (s : State) : Host.Outcome State Fault Refusal :=
  s.run fun d =>
    if ptpAccepts d port domain then
      if d.on .BLF_PTP_CFG_DELAY port then
        d.emit (.ptp port (.pdelayResp seq (served d (ptpRxStamp d port)) (served d (ptpTxStamp d port))))
      else if ptpIsMaster d port then d.emit (.ptp port (.delayResp seq (served d (ptpRxStamp d port))))
      else d
    else d

/-- PTP_SYNC_TRANSMIT: a master port announces its clock and sends Sync and Follow_Up with its transmit stamp (R62, R63). -/
def execPtpSyncTransmit (port : Fin 2) (s : State) : Host.Outcome State Fault Refusal :=
  s.run fun d =>
    if ptpIsMaster d port then
      let t := ptpPort d port
      let d := ((d.emit (.ptp port (.announce (announced d)))).emit (.ptp port (.sync t.syncSeq))).emit (.ptp port (.followUp t.syncSeq (served d (ptpTxStamp d port))))
      setPtpPort d port { t with syncSeq := (t.syncSeq + 1) % 2 ^ 16 }
    else d

/-- PTP_DELAY_REQ_TRANSMIT: a port sends its request of the delay mechanism and keeps the transmit stamp; a master port with
the end-to-end mechanism sends none (R62). -/
def execPtpDelayReqTransmit (port : Fin 2) (s : State) : Host.Outcome State Fault Refusal :=
  s.run fun d =>
    let t := ptpPort d port
    let sent := fun (msg : PtpMsg) =>
      setPtpPort (d.emit (.ptp port msg)) port
        { t with reqWait := some (t.reqSeq, ptpTxStamp d port), reqSeq := (t.reqSeq + 1) % 2 ^ 16 }
    if d.on .BLF_PTP_CFG_EN port then
      if d.on .BLF_PTP_CFG_DELAY port then sent (.pdelayReq t.reqSeq)
      else if ptpIsMaster d port then d
      else sent (.delayReq t.reqSeq)
    else d

/-! Time-triggered outputs (R69 to R72). -/

/-- State of output `k`. -/
def ttOut (d : Dev) (k : Nat) : TtOut := SMap.get {} d.tb.tt k

/-- Replace the state of output `k`. -/
def setTtOut (d : Dev) (k : Nat) (t : TtOut) : Dev := { d with tb := { d.tb with tt := SMap.set {} d.tb.tt k t } }

/-- The level of output `k` at its land: active during a pulse, by POL (R69). -/
def ttLevel (d : Dev) (k : Nat) : Bool := ((ttOut d k).pulseEnd.isSome) != d.on .BLF_TT_CTRL_POL k

/-- The values of output `k` are inconsistent (R70). -/
def ttRefused (frameNs : Nat) (mode width period start phase div : Nat) : Bool :=
  decide (width = 0) ||
  (decide (mode = 2) && (decide (period < 64) || decide (period ≤ width))) ||
  (decide (mode = 3) && (decide (frameNs ≤ start) || decide (frameNs ≤ width) || decide (div < phase)))

/-- START against device time, as a signed 32-bit difference (R71). -/
def ttAhead (d : Dev) (k : Nat) : Int :=
  signedOf 32 (fieldOf 32 ((d.rd .BLF_TT_START_NS k : Int) - d.timeNs))

/-- Arm output `k` with the values in force (R71). A START equal to device time is not ahead of it, hence late (log entry 100). -/
def ttArm (d : Dev) (k : Nat) : Dev :=
  let now := trunc8 d.tb.ext
  let ahead := ttAhead d k
  let future := decide (0 < ahead ∧ ahead ≤ 2 ^ 31 - 8)
  match d.rd .BLF_TT_CTRL_MODE k with
  | 1 =>
    if future then (setTtOut d k { ttOut d k with nextEdge := some (now + ahead) }).wr .BLF_TT_CTRL_ARMED k 1
    else (((setTtOut d k { ttOut d k with nextEdge := none }).wr .BLF_TT_CTRL_ARMED k 0).flag .BLF_STATUS_TT_LATE).event
      .TT_LATE srcTime k
  | 2 =>
    let p : Int := max 1 (d.rd .BLF_TT_PERIOD_NS k)
    let first := if future then now + ahead else now + ahead + p * (floorDiv (-ahead) p + 1)
    (setTtOut d k { ttOut d k with nextEdge := some first }).wr .BLF_TT_CTRL_ARMED k 0
  | _ => (setTtOut d k { ttOut d k with nextEdge := none }).wr .BLF_TT_CTRL_ARMED k 0

/-- New values of output `k` are in force: it is armed; Off ends a running pulse, and a level that changes appears at the land (R69). -/
def ttTake (before : Bool) (d : Dev) (k : Nat) : Dev :=
  let d := ttArm d k
  let d := setTtOut d k { ttOut d k with firedIn := none, pulseEnd := if d.rd .BLF_TT_CTRL_MODE k = 0 then none else (ttOut d k).pulseEnd }
  d.when (ttLevel d k != before) fun d => d.emit (.ttLevel k (ttLevel d k))

/-- Start a pulse of output `k` due at time `t` (R69): at `t`, or at once where a step of device time has passed it (R72); the level goes
active for WIDTH. In Quarantine it stays inactive (R472). -/
def ttPulse (d : Dev) (k : Nat) (t : Int) (next : Option Int) : Dev :=
  let d := { d with tb := { d.tb with ext := max d.tb.ext t } }
  if d.on .GRP_STATUS_QUARANTINED then setTtOut d k { ttOut d k with nextEdge := next }
  else
    let d := setTtOut d k { ttOut d k with
      nextEdge := next, pulseEnd := some (trunc8 (trunc8 d.tb.ext + d.rd .BLF_TT_WIDTH_NS k)) }
    (d.fire (4 + k)).emit (.ttLevel k (ttLevel d k))

/-- TT_PULSE_START: output `k` starts the pulse its mode has due (R69, R72). Where no pulse is due nothing happens. -/
def execTtPulseStart (k : Fin 8) (s : State) : Host.Outcome State Fault Refusal :=
  s.run fun d =>
    match d.rd .BLF_TT_CTRL_MODE k, (ttOut d k).nextEdge with
    | 1, some t => (ttPulse d k (trunc8 t) none).wr .BLF_TT_CTRL_ARMED k 0
    | 2, some t => ttPulse d k (trunc8 t) (some (t + d.rd .BLF_TT_PERIOD_NS k))
    | 3, _ =>
      if d.tb.ticking ∧ d.frameNo % (d.rd .BLF_TT_DIV_DIV k + 1) = d.rd .BLF_TT_DIV_PHASE k ∧ (ttOut d k).firedIn ≠ some d.frameNo then
        let d := setTtOut d k { ttOut d k with firedIn := some d.frameNo }
        ttPulse d k (trunc8 (d.tb.tickAt + d.rd .BLF_TT_START_NS k)) none
      else d
    | _, _ => d

/-- TT_PULSE_END: the pulse of output `k` ends after WIDTH (R69). -/
def execTtPulseEnd (k : Fin 8) (s : State) : Host.Outcome State Fault Refusal :=
  s.run fun d =>
    match (ttOut d k).pulseEnd with
    | some t =>
      let d := setTtOut { d with tb := { d.tb with ext := max d.tb.ext t } } k { ttOut d k with pulseEnd := none }
      d.emit (.ttLevel k (ttLevel d k))
    | none => d

end Sys2Proof.Machine
end

