-- ==== Sys2Proof/Machine/Rings.lean ====
section
/-!
DEFINITION. The Entayr rings, chapters 05 and 06: blocks and their classes, the cycle, start, enumeration and directory frames,
the reading of a returned copy, link and bypass events, enumeration, the schedule checks and the admission of nodes.
The joints of the schedule's drives are numbered in entry order (see the assumption log).
-/
namespace Sys2Proof.Machine

/-- The state of ring `l`. -/
def ringOf (d : Dev) (l : Lane) : RingState := d.rings.get l

/-- Replace the state of ring `l`. -/
def setRing (d : Dev) (l : Lane) (r : RingState) : Dev := { d with rings := d.rings.set l r }

/-- Change the state of ring `l`. -/
def onRing (d : Dev) (l : Lane) (f : RingState → RingState) : Dev := setRing d l (f (ringOf d l))

/-- The node of schedule entry `e` on ring `l`. -/
def nodeOf (d : Dev) (l : Lane) (e : Nat) : NodeDyn := SMap.get {} (ringOf d l).nodes e

/-- Change the node of entry `e` on ring `l`. -/
def onNode (d : Dev) (l : Lane) (e : Nat) (f : NodeDyn → NodeDyn) : Dev :=
  onRing d l fun r => { r with nodes := SMap.modify {} r.nodes e f }

/-- Register element of ring `l`, port `q` (Table 5-12). -/
def portIx (l : Lane) (q : Nat) : Nat := 2 * l.idx + q

/-- Register element of ring `l`, entry `e` (Table 6-10). -/
def nodeIx (l : Lane) (e : Nat) : Nat := 48 * l.idx + e

/-- Entry states, ENT_x_NODEe.STATE (Table 6-10). -/
def nodeState (d : Dev) (l : Lane) (e : Nat) : Nat := d.rd .ENT_NODE_STATE (nodeIx l e)

/-- Set an entry's state. -/
def setNodeState (d : Dev) (l : Lane) (e s : Nat) : Dev := d.wr .ENT_NODE_STATE (nodeIx l e) s

/-! Blocks (R155 to R157). -/

/-- The classes of R156. -/
inductive BlockClass where
  | good | empty | poisoned | error
  deriving DecidableEq, Repr

/-- The class of a received block (R156). -/
def blockClass (b : Block) : BlockClass :=
  let c := crc16 b.data
  if b.nonData ∨ 0 < b.codeErr then .error
  else if b.crc.toNat = c then .good
  else if b.crc.toNat = c ^^^ 0xA5A5 then .empty
  else if b.crc.toNat = c ^^^ 0xFFFF then .poisoned
  else .error

/-- A block sent GOOD. -/
def goodBlock (data : List Byte) : Block := { data := data, crc := BitVec.ofNat 16 (crc16 data) }

/-- A block launched EMPTY, all data bytes zero (R157). -/
def emptyBlock : Block :=
  { data := List.replicate 8 0, crc := BitVec.ofNat 16 (crc16 (List.replicate 8 0) ^^^ 0xA5A5) }

/-- Cut bytes into `n` blocks of 8, padded with zero. -/
def toBlocks : Nat → List Byte → List Block
  | 0, _ => []
  | n + 1, bs => goodBlock ((bs ++ List.replicate 8 0).take 8) :: toBlocks n (bs.drop 8)

/-! The schedule (R160, R188). -/

/-- Blocks of the safety command part. -/
def commandBlocks (e : SchedEntry) : Nat := (e.pc + 4 + 7) / 8
/-- Blocks of the setpoint part. -/
def setpointBlocks (e : SchedEntry) : Nat := (2 * e.joints + 7) / 8
/-- Blocks of the safety status part. -/
def statusBlocks (e : SchedEntry) : Nat := (e.ps + 4 + 7) / 8
/-- Blocks of the feedback part. -/
def feedbackBlocks (e : SchedEntry) : Nat := (3 * e.joints + 7) / 8

/-- Blocks of a window (Table 5-5): control, safety command, setpoints, timing report, safety status, feedback. -/
def windowBlocks (e : SchedEntry) : Nat := 2 + commandBlocks e + setpointBlocks e + statusBlocks e + feedbackBlocks e

/-- Blocks B of the cycle frame: two header blocks, the windows, the trailer. -/
def frameBlocks (s : List SchedEntry) : Nat := s.foldl (fun m e => max m (e.w + windowBlocks e)) 2 + 1

/-- First device joint of entry `e`: the entries' axes are numbered in entry order. -/
def jointBase (s : List SchedEntry) (e : Nat) : Nat := (s.take e).foldl (fun n x => n + x.joints) 0

/-- The schedule entry and axis of device joint `j`. -/
def jointHome : List SchedEntry → Nat → Nat → Option (Nat × Nat)
  | [], _, _ => none
  | x :: xs, e, j => if j < x.joints then some (e, j) else jointHome xs (e + 1) (j - x.joints)

/-- Entry index of a node ID. -/
def entryOfNode (s : List SchedEntry) (id : Nat) : Option Nat := s.findIdx? (fun x => decide (x.id = id))

/-- The indices of a schedule's entries. -/
def entryIxs (s : List SchedEntry) : List Nat := List.range s.length

/-- Entry `e` of a schedule. -/
def entryAt (s : List SchedEntry) (e : Nat) : SchedEntry := s.getD e {}

/-- SCHED_ID of a configuration digest (R188). -/
def schedIdOf (digest : Nat) : Nat :=
  let x := digest % 2 ^ 16
  if x = 0 then 1 else if x = 0xFFFF then 0xFFFE else x

/-- Forwarding delays that the enumerated nodes before position `p`, or after it, reported, links counted as 0 ns: the smaller sum, toward the
nearer device port (R509, third row). -/
def enumeratedMin (found : SMap NodeIdent) (p : Nat) : Nat :=
  let sum := fun (keep : Nat → Bool) => found.foldl (fun n x => if keep x.1 then n + x.2.fwdNs else n) 0
  min (sum fun q => decide (0 < q ∧ q < p)) (sum fun q => decide (p < q))

/-- The identity of a node is the one an entry expects (R187, R188). -/
def identMatches (x : SchedEntry) (i : NodeIdent) : Bool :=
  decide (x.vendor = i.vendor ∧ x.product = i.product ∧ (x.serial = 0 ∨ x.serial = i.serial))

/-- The entry in force on ring `l` under which the node of entry `x` is known: of a schedule not yet in force the one at its position with
its identity. -/
def knownEntry (d : Dev) (l : Lane) (s : List SchedEntry) (e : Nat) : Option Nat :=
  let r := ringOf d l
  let x := entryAt s e
  if s = r.sched then some e
  else if x.pos = 0 then none
  else (entryIxs r.sched).find? fun k => decide (d.rd .ENT_NODE_POS (nodeIx l k) = x.pos) && match (nodeOf d l k).ident with
    | some i => identMatches x i
    | none => false

/-- 640 ns for each node between an entry's position and the nearer end of its schedule (R509, fourth row). -/
def scheduledMin (s : List SchedEntry) (pos : Nat) : Int :=
  let np := s.foldl (fun m y => max m y.pos) 0
  640 * ((min pos (np + 1 - pos) : Nat) - 1 : Int)

/-- min(a_i, b_i) of entry `e` of schedule `s` on ring `l`, ns, by the table of R509. -/
def earliestPass (d : Dev) (l : Lane) (s : List SchedEntry) (e : Nat) : Int :=
  let x := entryAt s e
  match (knownEntry d l s e).bind fun k => (nodeOf d l k).a with
  | some (a, b) => min a b
  | none =>
    if x.pos = 0 then 0
    else match SMap.get none ((ringOf d l).found.map fun p => (p.1, some p.2)) x.pos with
      | some i => if identMatches x i then enumeratedMin (ringOf d l).found x.pos else scheduledMin s x.pos
      | none => scheduledMin s x.pos

/-- R32 for a window that begins at block `w` and passes at `first` after launch: at least 1.0 us after the latch instant. -/
def windowOk (latch w : Nat) (first : Int) : Bool := decide (8 * (latch : Int) + 1000 ≤ 3200 + first + 80 * w)

/-- The ring time R173 uses: measured, or 640 ns for each scheduled node position. -/
def ringTime (d : Dev) (l : Lane) (s : List SchedEntry) : Nat :=
  let t := d.rd .ENT_TRING_NS l.idx
  if t = 0 then 640 * (s.filter (fun x => decide (0 < x.pos))).length else t

/-- R173: the cycle of `b` blocks completes by the completion limit. -/
def budgetOk (frameNs t b : Nat) : Bool := decide (3200 + t + 80 * b + 6500 ≤ frameNs)

/-- A latch offset meets R54 and, with the schedule in force on every ring, R32 and R173 (R509). -/
def latchOk (d : Dev) (latch : Nat) : Bool :=
  decide (500 ≤ latch ∧ latch ≤ 5000) &&
    Lane.all.all fun l =>
      let s := (ringOf d l).sched
      (s.isEmpty || budgetOk d.frameNs (ringTime d l s) (frameBlocks s)) &&
        (entryIxs s).all fun e => windowOk latch (entryAt s e).w (earliestPass d l s e)

/-- Two windows overlap (R188). -/
def windowsOverlap : List SchedEntry → Bool
  | [] => false
  | x :: xs => xs.any (fun y => decide (x.w < y.w + windowBlocks y ∧ y.w < x.w + windowBlocks x)) || windowsOverlap xs

/-- A schedule is acceptable on ring `l` (R188, R32, R85, R173, R509). -/
def scheduleOk (d : Dev) (l : Lane) (frameNs latch : Nat) (s : List SchedEntry) : Bool :=
  decide (s.length ≤ 48) && !windowsOverlap s &&
  s.all (fun x => decide (2 ≤ x.w ∧ (x.pos = 0 → 7 ≤ x.ps))) &&
  decide (s.foldl (fun n x => n + x.ps) 0 ≤ 1852) &&
  budgetOk frameNs (ringTime d l s) (frameBlocks s) &&
  (entryIxs s).all fun e => windowOk latch (entryAt s e).w (earliestPass d l s e)

/-! Frames the device launches. -/

/-- Header block 0 (Table 5-4): `typ` TYPE, `dir` the port of the copy. -/
def header0 (d : Dev) (l : Lane) (typ dir : Nat) (reset : Bool) : Block :=
  goodBlock ([BitVec.ofNat 8 typ, BitVec.ofNat 8 (l.idx + 4 * dir)] ++ bytesLE 2 d.frameNo ++
    [0, BitVec.ofNat 8 (d.rd .BLF_CFG_PERIOD + 4 * bitOf (decide (d.mode = .hold)) + 8 * bitOf reset), 0])

/-- Header block 1 (Table 5-4). -/
def header1 (d : Dev) (schedId : Nat) : Block :=
  goodBlock (bytesLE 4 d.frameNo ++ bytesLE 2 schedId ++ bytesLE 2 (latchIn d 2))

/-- End block (Table 5-4) as launched. -/
def endBlock : Block := goodBlock [0, 0xFF, 0xFF, 0, 0, 0]

/-- The 3-byte seal of a safety part (R163). -/
def sealOf (frame node laneId : Nat) (flag : Nat) (payload : List Byte) : Nat :=
  crc24 (bytesLE 4 frame ++ bytesLE 1 node ++ bytesLE 1 laneId ++ bytesLE 1 flag ++ payload)

/-- LANE_ID of Table 3-2. -/
def laneId (l : Lane) : Nat := 0x0A + l.idx

/-- A safety part of `n` blocks: flag byte, payload, zero padding, seal (R163). -/
def safetyPart (n frame node lid flag : Nat) (payload : List Byte) : List Block :=
  let body := bytesLE 1 flag ++ payload
  toBlocks n ((body ++ List.replicate (8 * n - 3) 0).take (8 * n - 3) ++ bytesLE 3 (sealOf frame node lid flag payload))

/-- The safe pattern of R79 step 5 for a node of this profile and payload length. -/
def safePayload (profile pc : Nat) : List Byte := List.replicate pc (if profile = 1 then 0x33 else 0)

/-- What safety buffer `l` carries for entry `e`: lane `l`'s own content while it is IN_SERVICE, else the safe pattern with its
LANE_STATE, FAULTED once its latch is set (R73, R79). -/
def bufferPart (d : Dev) (l : Lane) (s : List SchedEntry) (e : Nat) : SafetyPart :=
  let x := entryAt s e
  let ln := d.lanes.get l
  if d.rd .LN_STATUS_STATE l.idx = 5 ∧ ln.latch = false then
    SMap.get { flag := 5, payload := safePayload x.profile x.pc } (ringOf d l).safety e
  else { flag := if ln.latch then 7 else d.rd .LN_STATUS_STATE l.idx, payload := safePayload x.profile x.pc }

/-- The control block of entry `e` (Table 5-6): leads once a_i is known, FB_HIGH while JOINING or REMOVED, the escape field. -/
def controlBlock (d : Dev) (l : Lane) (e : Nat) (a b : Int) : Block :=
  let st := nodeState d l e
  let off : Int := 8 * (latchIn d 1 : Int) + d.frameNs - 3200
  let m := SMap.get {} d.motion.parts e
  let esc := m.escValid && (decide (st = 3) || decide (st = 4))
  goodBlock (bytesLE 8 (fieldOf 20 (off - a) + fieldOf 20 (off - b) * 2 ^ 20 +
    (if esc then m.escJoint else 0) * 2 ^ 40 + bitOf (decide (st = 2 ∨ st = 5)) * 2 ^ 43 + bitOf esc * 2 ^ 47 +
    (if esc then m.escHi else 0) * 2 ^ 48))

/-- The blocks of entry `e`'s window at launch: out-parts GOOD for an admitted node, EMPTY before admission and after removal,
in-parts EMPTY (R157, R194, R197). In Hold mode every node is fed the safe state (R189). -/
def windowAt (d : Dev) (l : Lane) (s : List SchedEntry) (e : Nat) : List Block :=
  let x := entryAt s e
  let st := nodeState d l e
  let admitted := decide (st = 3 ∨ st = 4)
  let p := bufferPart d l s e
  let control := match (nodeOf d l e).a with
    | some (a, b) => controlBlock d l e a b
    | none => emptyBlock
  let cmd := if admitted then safetyPart (commandBlocks x) d.frameNo x.id (laneId l) p.flag p.payload
    else List.replicate (commandBlocks x) emptyBlock
  let m := SMap.get {} d.motion.parts e
  let set := if admitted then toBlocks (setpointBlocks x) (m.slots.flatMap (bytesLE 2))
    else List.replicate (setpointBlocks x) emptyBlock
  [control] ++ cmd ++ set ++ List.replicate (1 + statusBlocks x + feedbackBlocks x) emptyBlock

/-- Block `i` of the frame: the window that covers it, else EMPTY. -/
def blockAt (d : Dev) (l : Lane) (s : List SchedEntry) (i : Nat) : Block :=
  match (entryIxs s).find? (fun e => decide ((entryAt s e).w ≤ i ∧ i < (entryAt s e).w + windowBlocks (entryAt s e))) with
  | some e => (windowAt d l s e).getD (i - (entryAt s e).w) emptyBlock
  | none => emptyBlock

/-- The cycle frame (R158). -/
def cycleFrame (d : Dev) (l : Lane) (dir : Nat) : List Block :=
  let r := ringOf d l
  [header0 d l 1 dir r.seqReset, header1 d r.schedId] ++
    ((List.range (frameBlocks r.sched - 3)).map fun i => blockAt d l r.sched (i + 2)) ++ [endBlock]

/-- The start frame (R180, R184). -/
def startFrame (d : Dev) (l : Lane) (dir : Nat) : List Block :=
  [header0 d l 2 dir false, goodBlock (bytesLE 4 d.frameNo ++ bytesLE 2 0 ++ bytesLE 2 (latchIn d 0)), endBlock]

/-- The enumeration frame as launched (Table 6-2): counts zero, every slot EMPTY. -/
def enumFrame (d : Dev) (l : Lane) (dir : Nat) : List Block :=
  [header0 d l 3 dir false, goodBlock (List.replicate 8 0)] ++ List.replicate 96 emptyBlock ++ [endBlock]

/-- The directory frame (R190, Table 6-3) for the entry whose turn it is. -/
def directoryFrame (d : Dev) (l : Lane) (dir : Nat) : List Block :=
  let r := ringOf d l
  let e := r.dirEntry
  let x := entryAt r.sched e
  let claimed := d.on .ENT_NODE_CLAIMED (nodeIx l e)
  let serial := match claimed, (nodeOf d l e).ident with
    | true, some i => i.serial
    | _, _ => x.serial
  let flags := bitOf (decide (x.pos = 0)) + 2 * bitOf claimed + 4 * bitOf (decide (e + 1 = r.sched.length))
  [header0 d l 4 dir false,
   goodBlock (bytesLE 2 r.schedId ++ bytesLE 1 e ++ bytesLE 1 (d.rd .ENT_SCHED_N l.idx) ++ bytesLE 2 (frameBlocks r.sched) ++
     bytesLE 1 flags ++ bytesLE 1 x.id),
   goodBlock (bytesLE 2 x.w ++ bytesLE 1 x.pos ++ bytesLE 1 x.joints ++ bytesLE 1 (x.pc - 1) ++ bytesLE 1 (x.ps - 1) ++
     bytesLE 1 x.profile ++ [0]),
   goodBlock (bytesLE 2 x.vendor ++ bytesLE 2 x.product ++ bytesLE 3 serial ++ [0]),
   endBlock]

/-- Ring port `q` is up (R152). -/
def portUp (d : Dev) (l : Lane) (q : Nat) : Bool := if q = 0 then d.on .ENT_STAT_LINK0 l.idx else d.on .ENT_STAT_LINK1 l.idx

/-- Send a frame out of port `q`; nothing is launched on a port that is down (R152). -/
def sendOn (d : Dev) (l : Lane) (q : Nat) (f : Nat → List Block) : Dev :=
  if portUp d l q then d.emit (.ringFrame l q (f q)) else d

/-- The corrected launch stamp of the cycle on port `q` (Table 2-6). -/
def stampLaunch (d : Dev) (l : Lane) (q : Nat) : Dev :=
  if portUp d l q then d.wr .BLF_SOF_TX_NS (portIx l q) (fieldOf 32 (trunc8 (d.tb.tickAt + 3200) + 104)) else d

/-- Launch on one ring: a start frame, an enumeration frame, or the cycle frame and its directory frame (R158, R184, R186,
R190). A ring without a master in the device stays silent (R154). -/
def launchRing (d : Dev) (l : Lane) : Dev :=
  let r := ringOf d l
  match d.rd .ENT_START_STATE l.idx with
  | 1 =>
    let d := onRing (sendOn (sendOn d l 0 (startFrame d l)) l 1 (startFrame d l)) l fun r => { r with seqReset := false }
    if r.startLeft ≤ 1 then
      (onRing d l fun r => { r with startLeft := 0, enumFrames := 0, enumLast := none }).wr .ENT_START_STATE l.idx 2
    else onRing d l fun r => { r with startLeft := r.startLeft - 1 }
  | 2 =>
    let d' := sendOn (sendOn d l 0 (enumFrame d l)) l 1 (enumFrame d l)
    onRing d' l fun r => { r with
      enumFrames := r.enumFrames + 1, enumNow0 := none, enumNow1 := none, enumSeq := some d.frameNo, seqReset := false }
  | 3 =>
    let d' := sendOn (sendOn d l 0 (cycleFrame d l)) l 1 (cycleFrame d l)
    let d' := stampLaunch (stampLaunch d' l 0) l 1
    let d' := if r.sched = [] then d' else sendOn (sendOn d' l 0 (directoryFrame d l)) l 1 (directoryFrame d l)
    let n := r.sched.length
    onRing d' l fun r => { r with
      inFlight := some d.frameNo, back0 := none, back1 := none, turned := false, untouched := 0, wholeHop := true,
      nodesBoth := true, motionDone := [], seqReset := false, evaluated := false,
      dirEntry := if n = 0 then 0 else (r.dirEntry + 1) % n,
      nodes := (entryIxs r.sched).foldl (fun m e => SMap.modify {} m e fun x => { x with
        report := none, special := none, valid := false, claim0 := none, claim1 := none, claimBad := false }) r.nodes }
  | _ => onRing d l fun r => { r with seqReset := false }

/-- CYCLE_LAUNCH: at 3.2 us each ring MAC launches on both ports of its ring (R28, R158). -/
def execCycleLaunch (s : State) : Host.Outcome State Fault Refusal :=
  s.run fun d =>
    if d.tb.ticking then
      let d := d.reach 3200
      ({ d with motion := { d.motion with feedback := [] } }).each Lane.all launchRing
    else d

/-! Reading a returned copy. -/

/-- The blocks of a part, `n` from index `i`. -/
def partBlocks (bs : List Block) (i n : Nat) : List Block := (bs.drop i).take n

/-- Every block of a part is of class GOOD and none is missing. -/
def allGood (n : Nat) (bs : List Block) : Bool := decide (bs.length = n) && bs.all (fun b => decide (blockClass b = .good))

/-- The data bytes of a part. -/
def partData (bs : List Block) : List Byte := bs.flatMap (·.data)

/-- `n` values of `k` bytes each, least significant byte first. -/
def splitLE (k : Nat) : Nat → List Byte → List Nat
  | 0, _ => []
  | n + 1, bs => natLE (bs.take k) :: splitLE k n (bs.drop k)

/-- Extend a 24-bit count from the previous value (R164). -/
def extendCount (prev : Int) (low : Nat) : Int :=
  let c := signedOf 24 (fieldOf 24 ((low : Int) - prev))
  signedOf 32 (fieldOf 32 (prev + c))

/-- Take the count of joint `j` in this cycle if no copy has given it yet: `low` extends the device's last count; where the device holds
none, `start` is the count that the ring has from the join data (R164, R170). -/
def takeCount (d : Dev) (j low : Nat) (start : Option Int) : Dev :=
  match SMap.get none d.motion.feedback j with
  | some _ => d
  | none =>
    let c := match SMap.get none d.motion.counts j with
      | some p => some (extendCount p low)
      | none => start
    { d with motion := { d.motion with feedback := SMap.set none d.motion.feedback j c, counts := SMap.set none d.motion.counts j c } }

/-- The feedback part of entry `e` in a copy whose control block and feedback part returned GOOD (R164): high values of a
node not yet admitted, or the low bits that extend each joint's count; the first low value after admission takes its start
value from the last high value. -/
def takeFeedback (d : Dev) (l : Lane) (e : Nat) (vals : List Nat) : Dev :=
  let st := nodeState d l e
  if st = 2 ∨ st = 5 then onNode d l e fun n => { n with high := vals.map some }
  else if st = 3 ∨ st = 4 then
    let n := nodeOf d l e
    let counts := vals.mapIdx fun k low =>
      match n.fresh, n.high.getD k none, n.counts.getD k none with
      | true, some h, _ => some (extendCount (signedOf 32 (256 * h)) low)
      | true, none, _ => none
      | false, _, some p => some (extendCount p low)
      | false, _, none => none
    let d := onNode d l e fun n => { n with counts := counts, fresh := false }
    let base := jointBase (ringOf d l).sched e
    d.each vals.zipIdx fun d p => takeCount d (base + p.2) p.1 (counts.getD p.2 none)
  else d

/-- The safety status part of entry `e` (R163, R170, R195): valid if GOOD with a correct seal; a claim on an unclaimed spare
entry is kept per direction. -/
def takeSafety (d : Dev) (l : Lane) (e : Nat) (frame : Nat) (dir : Bool) (data : List Byte) : Dev :=
  let x := entryAt (ringOf d l).sched e
  let flag := (data.getD 0 0).toNat
  let payload := (data.drop 1).take x.ps
  let sealRx := natLE (data.drop (data.length - 3))
  let ok := decide (sealRx = sealOf frame x.id (laneId l) flag payload)
  let claims := flag.testBit 7
  let d := if x.pos = 0 ∧ ok then onNode d l e fun n => { n with claiming := claims } else d
  if x.pos = 0 ∧ d.rd .ENT_NODE_CLAIMED (nodeIx l e) = 0 then
    let c := (natLE (payload.take 2), natLE ((payload.drop 2).take 2), natLE ((payload.drop 4).take 3))
    if ok && claims then
      onNode d l e fun n => if dir then { n with claim1 := some c } else { n with claim0 := some c }
    else if claims then onNode d l e fun n => { n with claimBad := true }
    else d
  else if ok ∧ !(decide (x.pos = 0) && claims) ∧ (nodeOf d l e).valid = false then
    onNode d l e fun n => { n with valid := true, flag := flag, payload := payload }
  else d

/-- One entry's window in a returned copy (R162 to R164, R170). -/
def takeWindow (d : Dev) (l : Lane) (frame : Nat) (dir : Bool) (bs : List Block) (e : Nat) : Dev :=
  let x := entryAt (ringOf d l).sched e
  let iRep := x.w + 1 + commandBlocks x + setpointBlocks x
  let ctrl := partBlocks bs x.w 1
  let rep := partBlocks bs iRep 1
  let saf := partBlocks bs (iRep + 1) (statusBlocks x)
  let fb := partBlocks bs (iRep + 1 + statusBlocks x) (feedbackBlocks x)
  let removed := decide (nodeState d l e = 5)
  let d := if allGood 1 rep then
      let v := natLE (partData rep)
      let d01 := bits v 42 24
      let d := onNode d l e fun n => if d01 = 0x40000 ∨ d01 = 0x40001 then { n with special := some v } else { n with report := some v }
      if v.testBit 63 ∧ (SMap.get none d.motion.escape e).isNone ∧ (nodeState d l e = 3 ∨ nodeState d l e = 4) then
        { d with motion := { d.motion with escape := SMap.set none d.motion.escape e (some 0) } }
      else d
    else d
  let d := if allGood (statusBlocks x) saf ∧ removed = false then takeSafety d l e frame dir (partData saf) else d
  if allGood 1 ctrl ∧ 0 < x.joints ∧ allGood (feedbackBlocks x) fb then takeFeedback d l e (splitLE 3 x.joints (partData fb))
  else d

/-- The node of entry `e` is admitted on some ring. -/
def admittedAnywhere (d : Dev) (e : Nat) : Bool := Lane.all.any fun l => decide (nodeState d l e = 3 ∨ nodeState d l e = 4)

/-- Admit the node of entry `e` (R194): its parts go GOOD from the next cycle, an escape sequence starts, and its join data give
the start value of its positions, on the first ring that admits it also for the motion feedback. -/
def admitNode (d : Dev) (l : Lane) (e : Nat) : Dev :=
  let n := nodeOf d l e
  let s := (ringOf d l).sched
  let joints := (List.range (entryAt s e).joints).map fun k => jointBase s e + k
  let d := if admittedAnywhere d e then d
    else { d with motion := { d.motion with counts := joints.foldl (fun m j => SMap.set none m j none) d.motion.counts } }
  let d := setNodeState d l e 3
  let d := if n.was = 4 ∨ n.was = 5 then d.inc .ENT_NODE_READMITS (nodeIx l e) else d
  let d := onNode d l e fun n => { n with fresh := true, inGuard := 0, outGuard := 0, episode := false, was := 0 }
  let d := { d with motion := { d.motion with escape := SMap.set none d.motion.escape e (some 0) } }
  d.event .NODE_ADMIT (srcRing l) (entryAt s e).id

/-- Count the ADMITTED nodes of a ring (ENT_x_GUARD.ADMITTED). -/
def countAdmitted (d : Dev) (l : Lane) : Dev :=
  d.wr .ENT_GUARD_ADMITTED l.idx
    ((entryIxs (ringOf d l).sched).filter (fun e => decide (nodeState d l e = 3 ∨ nodeState d l e = 4))).length

/-- Set an entry MISMATCH (R187, R188, R509). -/
def mismatch (d : Dev) (l : Lane) (e : Nat) : Dev :=
  (setNodeState d l e 6).event .NODE_MISMATCH (srcRing l) (entryAt (ringOf d l).sched e).id

/-- Sync error `err` of entry `e` while it is not admitted: it is admitted after 16 measurements within the guard in a row, which count once
its reports have given a_i in 2 consecutive cycles (`ready`, R194), or after REMOVED (Table 6-5); never while it still claims (R195). -/
def judgeOutside (d : Dev) (l : Lane) (e : Nat) (inG ready : Bool) : Dev :=
  let run := if inG ∧ (nodeState d l e = 5 ∨ ready) then (nodeOf d l e).inGuard + 1 else 0
  let d := onNode d l e fun n => { n with inGuard := run }
  if 16 ≤ run ∧ !(nodeOf d l e).claiming then admitNode d l e else d

/-- The guard has failed: the inputs of the cycle are invalid, the entry shows GUARD, and the event is written once per episode. -/
def guardFailed (d : Dev) (l : Lane) (e : Nat) : Dev :=
  let first := !(nodeOf d l e).episode
  let d := setNodeState (onNode d l e fun n => { n with outGuard := n.outGuard + 1, episode := true, valid := false }) l e 4
  d.when first fun d => d.event .SYNC_GUARD (srcRing l) (entryAt (ringOf d l).sched e).id

/-- Remove the node of entry `e` from the next cycle on. -/
def removeNode (d : Dev) (l : Lane) (e : Nat) : Dev :=
  let d := setNodeState (onNode d l e fun n => { n with inGuard := 0, was := 5, fresh := true }) l e 5
  (d.inc .ENT_GUARD_REMOVALS l.idx).event .NODE_REMOVED (srcRing l) (entryAt (ringOf d l).sched e).id

/-- Sync error `err` of an admitted entry (Table 6-5). -/
def judgeInside (d : Dev) (l : Lane) (e : Nat) (err : Int) (inG : Bool) : Dev :=
  if !inG then (guardFailed d l e).when (decide (1000 ≤ err.natAbs)) fun d => removeNode d l e
  else if nodeState d l e = 4 then
    (setNodeState (onNode d l e fun n => { n with outGuard := 0, episode := false }) l e 3).inc .ENT_NODE_READMITS (nodeIx l e)
  else d

/-- The consequences of sync error `err` of entry `e` (Table 6-5) and the admission count of R194. -/
def judgeSync (d : Dev) (l : Lane) (e : Nat) (err : Int) (ready : Bool) : Dev :=
  let inG := decide (err.natAbs ≤ d.rd .ENT_GUARD_NS l.idx)
  let d := d.wrI .ENT_NODE_SYNC_ERR (nodeIx l e) err
  let d := if inG then d else d.inc .ENT_NODE_GUARD_CNT (nodeIx l e)
  match nodeState d l e with
  | 2 | 5 => judgeOutside d l e inG ready
  | 3 | 4 => judgeInside d l e err inG
  | _ => d

/-- A cycle gives no sync error of entry `e`: what counts consecutive measurements starts again, and in GUARD the inputs stay invalid. -/
def notMeasured (d : Dev) (l : Lane) (e : Nat) : Dev :=
  let st := nodeState d l e
  onNode d l e fun n => { n with inGuard := 0, outGuard := 0, valid := n.valid && decide (st ≠ 4) }

/-- Node ns over which one frame passed at the node, from the stamps of a report and those of the cycle before (R66): stamps of the same
port are compared; where the cycle before gave none, the nominal rate stands in (log entry 90). -/
def frameStamps (tf : Int) (before : Option (Nat × Bool)) (s0 : Nat) (d01 : Option Int) (port1 : Bool) : Int :=
  let diff := fun (x : Int) (p : Nat) => max 1 ((x - p) % 2 ^ 24)
  match before, d01 with
  | some (p, true), some dd => diff (s0 + dd) p
  | some (p, false), some _ => diff s0 p
  | some (p, q), none => if q = port1 then diff s0 p else tf
  | none, _ => tf

/-- a_i and b_i of a node with forwarding delay `f`, from the stamps of one cycle (R65, R66). -/
def passTimes (t tf ds d01 : Int) (f : Nat) : Int × Int :=
  let delta := roundDiv (d01 * tf) ds.toNat
  let a := floorDiv (t - f - delta) 2
  (a, a + delta)

/-- The sync error of R66: the latch of frame n follows the arrival of cycle n - 1, of the copy whose stamp the node reported then. -/
def syncError (d : Dev) (n : NodeDyn) (ds : Int) (lat : Nat) : Option Int :=
  match n.s0, n.a with
  | some (_, port1), some (a, b) =>
    if lat = 0xFFFFF then none
    else some (3200 - d.frameNs + (if port1 then b else a) + roundDiv (lat * d.frameNs) ds.toNat - 8 * (d.tb.latchNow : Int))
  | _, _ => none

/-- Evaluate R65 and R66 for entry `e` from its report of this cycle and the ring time `t`, 0 while none has been measured. A report with one
stamp keeps the last a_i (R162). -/
def evalNode (d : Dev) (l : Lane) (t : Nat) (e : Nat) : Dev :=
  let n := nodeOf d l e
  let v? := match n.report with
    | some v => some v
    | none => n.special
  match v?, n.ident with
  | some v, some ident =>
    let raw := bits v 42 24
    let port1 := decide (raw = 0x40001)
    let d01 := if port1 ∨ raw = 0x40000 then none else some (signedOf 19 raw)
    let ds := frameStamps d.frameNs n.s0 (bits v 23 0) d01 port1
    let err := syncError d n ds (bits v 62 43)
    let ab : Option (Int × Int) := match d01 with
      | some x => if 0 < t then some (passTimes t d.frameNs ds x ident.fwdNs) else none
      | none => none
    let d := onNode d l e fun n => { n with
      a := match ab with
        | some p => some p
        | none => n.a
      s0 := some (bits v 23 0, port1)
      reports := if ab.isSome then min 2 (n.reports + 1) else if 2 ≤ n.reports then 2 else 0 }
    let st := nodeState d l e
    let d := if st = 1 ∨ (st = 0 ∧ d.on .ENT_NODE_CLAIMED (nodeIx l e)) then setNodeState d l e 2 else d
    let w := (entryAt (ringOf d l).sched e).w
    let late := match n.a, ab with
      | none, some (a, b) => !(windowOk d.tb.latchNow w (min a b) && windowOk (latchIn d 2) w (min a b))
      | _, _ => false
    if late then mismatch d l e
    else match err with
      | some x => judgeSync d l e x (decide (2 ≤ n.reports))
      | none => notMeasured d l e
  | _, _ => notMeasured (onNode d l e fun n => { n with s0 := none, reports := if 2 ≤ n.reports then 2 else 0 }) l e

/-- The enumerated node with the identity of a claim, by position (R187). -/
def claimant (d : Dev) (l : Lane) (c : Nat × Nat × Nat) : Option (Nat × NodeIdent) :=
  (ringOf d l).found.find? fun p => decide (p.2.vendor = c.1 ∧ p.2.product = c.2.1 ∧ p.2.serial = c.2.2)

/-- Claims of this cycle (R195, R196): equal in both copies are accepted, differing or unsealed ones are refused. A claimant that was
enumerated brings its forwarding delay, and an entry with more joints than it accepts is a mismatch (R188); one that was not brings
none, and its delay counts as 0 (log entry 104). -/
def judgeClaim (d : Dev) (l : Lane) (e : Nat) : Dev :=
  let x := entryAt (ringOf d l).sched e
  let n := nodeOf d l e
  let refuse := d.event .CLAIM_CONFLICT (srcRing l) x.id
  if x.pos ≠ 0 ∨ d.on .ENT_NODE_CLAIMED (nodeIx l e) ∨ nodeState d l e = 6 then d
  else match n.claimBad, n.claim0, n.claim1 with
    | true, _, _ => refuse
    | false, some c0, some c1 =>
      let i : NodeIdent := match claimant d l c0 with
        | some p => p.2
        | none => { vendor := c0.1, product := c0.2.1, serial := c0.2.2, maxJ := 8 }
      if c0 ≠ c1 ∨ identMatches x i = false then refuse
      else if i.maxJ < x.joints then mismatch d l e
      else
        let d := match claimant d l c0 with
          | some p => (d.wr .ENT_NODE_POS (nodeIx l e) p.1).wr .ENT_NODE_MASTER_CAP (nodeIx l e) (bitOf p.2.masterCap)
          | none => d
        let d := onNode d l e fun n => { n with ident := some i }
        (setNodeState (d.wr .ENT_NODE_CLAIMED (nodeIx l e) 1) l e 2).event .NODE_CLAIM (srcRing l) x.id
    | false, _, _ => d

/-- The largest B that the measured ring time allows, and BREAK_OK (R172, R173). -/
def showBudget (d : Dev) (l : Lane) : Dev :=
  let t := d.rd .ENT_TRING_NS l.idx
  let d := d.wrSat .ENT_BUDGET_B_MAX l.idx ((d.frameNs - 6500 - 3200 - t) / 80)
  d.wr .ENT_STAT_BREAK_OK l.idx (bitOf (budgetOk d.frameNs (2 * t) (frameBlocks (ringOf d l).sched)))

/-- Measured t_ring, and what follows from it (R65, R172, R173). -/
def setRingTime (d : Dev) (l : Lane) (t : Nat) : Dev := showBudget (d.wr .ENT_TRING_NS l.idx t) l

/-- The DETAIL of link, bypass and error-rate records (R176), whose layout the spec leaves open (log entry 102): ring and port, `q` 2 for
both, and the six counters of R175 as they stand, 12 bits each. -/
def linkDetail (d : Dev) (l : Lane) (q : Nat) : Nat :=
  let ports := if q < 2 then [q] else [0, 1]
  let fields : List RegField := [.ENT_P_CNT0_CODE_ERR, .ENT_P_CNT0_CRC_ERR, .ENT_P_CNT1_POISON, .ENT_P_CNT1_LATE, .ENT_P_CNT2_TURNED,
    .ENT_P_CNT2_SYNC_LOSS]
  let count := fun (f : RegField) => min 4095 ((ports.map fun p => d.rd f (portIx l p)).foldl (· + ·) 0)
  l.idx + 16 * q + 256 * (fields.zipIdx.map fun p => count p.1 * 4096 ^ p.2).foldl (· + ·) 0

/-- Count the code-group errors and the ERROR and POISONED blocks of a returned copy (R175), and mark the port for R176. -/
def countBlocks (d : Dev) (l : Lane) (q : Nat) (bs : List Block) : Dev :=
  let err := (bs.filter (fun b => decide (blockClass b = .error))).length
  let poi := (bs.filter (fun b => decide (blockClass b = .poisoned))).length
  let code := bs.foldl (fun n b => n + b.codeErr) 0
  let d := ((d.incBy .ENT_P_CNT0_CODE_ERR (portIx l q) code).incBy .ENT_P_CNT0_CRC_ERR (portIx l q) err).incBy .ENT_P_CNT1_POISON
    (portIx l q) poi
  d.when (decide (0 < err)) fun d => onRing d l fun r => { r with errNow := SMap.set false r.errNow q true }

/-- A frame ends for the error rate of port `q` (R176): ERROR blocks in ERR_THR or more of the last 1,000 frames write the event once, and
again after a full 1,000 frames below. -/
def errorFrame (l : Lane) (d : Dev) (q : Nat) : Dev :=
  let thr := d.rd .ENT_EVCFG_ERR_THR l.idx
  let win := ((SMap.get [] (ringOf d l).errWindow q) ++ [SMap.get false (ringOf d l).errNow q])
  let win := if 1000 < win.length then win.drop 1 else win
  let above := decide (0 < thr ∧ thr ≤ (win.filter id).length)
  let quiet := SMap.get 1000 (ringOf d l).errQuiet q
  let d := onRing d l fun r => { r with
    errNow := SMap.set false r.errNow q false
    errWindow := SMap.set [] r.errWindow q win
    errQuiet := SMap.set 1000 r.errQuiet q (if above then 0 else min 1000 (quiet + 1)) }
  d.when (above && decide (1000 ≤ quiet)) fun d => d.event .ENT_ERR_RATE (srcRing l) q (linkDetail d l q)

/-- Declare ring `l` broken (R172): the fault counts once; each turned copy of the cycle that shows the break writes its record. -/
def ringBreak (d : Dev) (l : Lane) (turnId : Nat) : Dev :=
  let was := d.on .ENT_STAT_BREAK l.idx
  let frame := (ringOf d l).inFlight
  let more := decide ((ringOf d l).breakIn.isSome ∧ (ringOf d l).breakIn = frame)
  let d := (onRing d l fun r => { r with closedRun := 0, breakIn := if was then r.breakIn else frame }).wr .ENT_STAT_BREAK l.idx 1
  let d := d.when (!was || more) fun d => d.event .RING_BREAK (srcRing l) l.idx turnId
  d.when (!was) fun d => countFault d .brk l.idx .RING_BREAK

/-- The cycle of ring `l` is back, as far as it comes back: every entry's report and claims are judged, once (R65, R66, R194 to R197). -/
def closeCycle (d : Dev) (l : Lane) : Dev :=
  if (ringOf d l).evaluated then d
  else
    let d := onRing d l fun r => { r with evaluated := true }
    let t := d.rd .ENT_TRING_NS l.idx
    countAdmitted (d.each (entryIxs (ringOf d l).sched) fun d e => judgeClaim (evalNode d l t e) l e) l

/-- Ring time of a copy, ns: its corrected return stamp minus the corrected launch stamp (R65, Table 2-6). -/
def transit (d : Dev) (c : ReturnedCopy) : Nat :=
  let launch := d.tb.tickAt + 3200
  ((trunc8 (launch + c.afterLaunch) - 184) - (trunc8 launch + 104)).toNat

/-- What the end block of a copy says, if it came GOOD (Table 5-4): HOP, TURN_ID, ERR_ID and ERR_CNT. -/
def takeTail (d : Dev) (l : Lane) (q : Nat) (dir : Bool) (b : Block) : Dev :=
  if blockClass b ≠ .good then onRing d l fun r => { r with wholeHop := false }
  else
    let hop := (b.data.getD 0 0).toNat
    let errCnt := (b.data.getD 3 0).toNat
    let d := if dir then d.wr .ENT_STAT_HOP1 l.idx hop else d.wr .ENT_STAT_HOP0 l.idx hop
    let d := d.wr .ENT_STAT_TURN_ID l.idx (b.data.getD 1 0).toNat
    let d := onRing d l fun r => { r with wholeHop := r.wholeHop && decide (hop = d.rd .ENT_SCHED_N l.idx) }
    if errCnt = 0 then d
    else (d.wr .ENT_P_ERRID_ERR_ID (portIx l q) (b.data.getD 2 0).toNat).wr .ENT_P_ERRID_ERR_CNT (portIx l q) errCnt

/-- A copy of the current cycle that returned in time (R162 to R172). With both copies back the cycle is judged. -/
def takeCopy (d : Dev) (l : Lane) (c : ReturnedCopy) : Dev :=
  let q := c.port.val
  let h0 := (c.blocks.getD 0 emptyBlock).data
  let ringByte := (h0.getD 1 0).toNat
  let dir := ringByte.testBit 2
  let turned := ringByte.testBit 3
  let d := d.wr .BLF_SOF_RX_NS (portIx l q) (fieldOf 32 (trunc8 (d.tb.tickAt + 3200 + c.afterLaunch) - 184))
  let d := d.wr .ENT_START_MASTER_ID l.idx (h0.getD 4 0).toNat
  let d := takeTail d l q dir (c.blocks.getLastD emptyBlock)
  let d := onRing d l fun r => { r with
    back0 := if dir then r.back0 else some (transit d c)
    back1 := if dir then some (transit d c) else r.back1
    turned := r.turned || turned
    untouched := if turned then r.untouched else r.untouched + 1 }
  let d := d.when turned fun d => ringBreak (d.inc .ENT_P_CNT2_TURNED (portIx l q)) l (d.rd .ENT_STAT_TURN_ID l.idx)
  let frame := (ringOf d l).inFlight.getD 0
  let d := d.each (entryIxs (ringOf d l).sched) fun d e => takeWindow d l frame dir c.blocks e
  match (ringOf d l).back0, (ringOf d l).back1 with
  | some t0, some t1 => closeCycle (if (ringOf d l).turned then d else setRingTime d l ((t0 + t1) / 2)) l
  | _, _ => d

/-- What a frame that comes back is, against the frame of type `typ` with `n` blocks launched in frame `f`: that frame, whole and in time; a
copy of it, or of one launched before, that is late; a frame of another master, whose MASTER_ID is not 0 or whose SEQ the device has
not sent yet (R182); or none of these, such as a directory frame, a cut copy (R177), or one whose header block 0 is not GOOD and
therefore cannot be told (log entry 103). -/
inductive CopyKind where
  | own | late | foreign | other
  deriving DecidableEq, Repr

/-- The kind of a frame that comes back. -/
def copyKind (d : Dev) (f typ n : Nat) (c : ReturnedCopy) : CopyKind :=
  let h := c.blocks.getD 0 emptyBlock
  let behind := (f + 2 ^ 32 - natLE ((h.data.drop 2).take 2)) % 2 ^ 16
  if blockClass h ≠ .good then .other
  else if (h.data.getD 4 0).toNat ≠ 0 ∨ 2 ^ 15 ≤ behind then .foreign
  else if (h.data.getD 0 0).toNat ≠ typ then .other
  else if behind ≠ 0 ∨ d.frameNs - 6500 < c.endOffset then .late
  else if c.blocks.length ≠ n then .other
  else .own

/-- The device ceases to be master of ring `l`, with what was in flight. -/
def stopMaster (d : Dev) (l : Lane) : Dev :=
  (onRing d l fun r => { r with inFlight := none, enumSeq := none, startLeft := 0, startDue := false }).wr .ENT_START_STATE l.idx 0

/-- A frame of another master on a ring the device masters is discarded and counted (R183); from a master with the device's own ID 0 the
device stops mastering, and it starts no ring until the next power-up (R182). -/
def foreignFrame (d : Dev) (l : Lane) (master : Nat) : Dev :=
  let d := (d.wr .ENT_START_MASTER_ID l.idx master).inc .ENT_START_FOREIGN l.idx
  if master = 0 then stopMaster { d with pwr := { d.pwr with noMaster := true } } l else d

/-- A frame returns on ring `l` while a cycle is in flight (R170, R172, R175, R182). -/
def returnCopy (d : Dev) (l : Lane) (c : ReturnedCopy) : Dev :=
  let q := c.port.val
  match (ringOf d l).inFlight with
  | some f =>
    let d := countBlocks d l q c.blocks
    match copyKind d f 1 (frameBlocks (ringOf d l).sched) c with
    | .own => takeCopy d l c
    | .late => d.inc .ENT_P_CNT1_LATE (portIx l q)
    | .foreign => foreignFrame d l ((c.blocks.getD 0 emptyBlock).data.getD 4 0).toNat
    | .other => d
  | none => d

/-- CYCLE_RETURN: a copy of the cycle returns on ring `l` (R170). -/
def execCycleReturn (l : Lane) (c : ReturnedCopy) (s : State) : Host.Outcome State Fault Refusal :=
  s.run fun d => if d.rd .ENT_START_STATE l.idx = 3 then returnCopy d l c else d

/-- LATE_COPY_RECEIVED: a copy that arrives after its limit is discarded and counted (R170, R177). -/
def execLateCopyReceived (l : Lane) (port : Fin 2) (s : State) : Host.Outcome State Fault Refusal :=
  s.run fun d => d.inc .ENT_P_CNT1_LATE (portIx l port)

/-! Links, bypass and foreign masters. -/

/-- Set the up bit of a port. -/
def setPort (d : Dev) (l : Lane) (q : Nat) (up : Bool) : Dev :=
  if q = 0 then d.wr .ENT_STAT_LINK0 l.idx (bitOf up) else d.wr .ENT_STAT_LINK1 l.idx (bitOf up)

/-- A device port goes down (R152, R176): the link-fail signal replaces idle. -/
def portDown (d : Dev) (l : Lane) (q : Nat) : Dev :=
  if portUp d l q then
    let d := (setPort d l q false).inc .ENT_P_CNT2_SYNC_LOSS (portIx l q)
    let d := d.emit (.linkFail l q true)
    let d := if portUp d l (1 - q) then d else onRing d l fun r => { r with bothDown := true }
    d.event .ENT_LINK_DOWN (srcRing l) q (linkDetail d l q)
  else d

/-- ENT_PORT_DOWN: port `q` loses sync or receives the link-fail signal (R152). -/
def execEntPortDown (l : Lane) (q : Fin 2) (s : State) : Host.Outcome State Fault Refusal :=
  s.run fun d => portDown d l q

/-- ENT_PORT_UP: port `q` has been in sync for 1 ms without link-fail (R152); both ports up again after both were down make
a start sequence due (R183). A port behind a closed bypass switch has no link. -/
def execEntPortUp (l : Lane) (q : Fin 2) (s : State) : Host.Outcome State Fault Refusal :=
  s.run fun d =>
    if portUp d l q ∨ d.on .ENT_STAT_BYPASS_CLOSED l.idx then d
    else
      let d := (setPort d l q true).emit (.linkFail l q false)
      let d := if (ringOf d l).bothDown ∧ portUp d l 0 ∧ portUp d l 1 then
          onRing d l fun r => { r with bothDown := false, startDue := true } else d
      d.event .ENT_LINK_UP (srcRing l) q (linkDetail d l q)

/-- Close the bypass switch of ring `l` (R153): the MAC is off the ring, so its ports go down, and cycles in flight are lost (R177). -/
def closeBypass (d : Dev) (l : Lane) : Dev :=
  if d.on .ENT_STAT_BYPASS_CLOSED l.idx then d
  else
    let down := fun (d : Dev) (q : Nat) =>
      if portUp d l q then
        let d := (setPort d l q false).inc .ENT_P_CNT2_SYNC_LOSS (portIx l q)
        d.event .ENT_LINK_DOWN (srcRing l) q (linkDetail d l q)
      else d
    let d := stopMaster (down (down (d.wr .ENT_STAT_BYPASS_CLOSED l.idx 1) 0) 1) l
    d.event .BYPASS_CLOSED (srcRing l) l.idx (linkDetail d l 2)

/-- BYPASS_OPEN: lane `l` has left reset and its transmitters have sent idle for 100 us (R153); its ports, not yet in sync, send the
link-fail signal (R152), and a start sequence is due (R183). -/
def execBypassOpen (l : Lane) (s : State) : Host.Outcome State Fault Refusal :=
  s.run fun d =>
    if d.on .ENT_STAT_BYPASS_CLOSED l.idx ∧ d.rd .LN_STATUS_STATE l.idx ≠ 0 then
      let d := (onRing d l fun r => { r with startDue := true, bothDown := true }).wr .ENT_STAT_BYPASS_CLOSED l.idx 0
      let d := (d.emit (.linkFail l 0 true)).emit (.linkFail l 1 true)
      d.event .BYPASS_OPEN (srcRing l) l.idx (linkDetail d l 2)
    else d

/-- Every node of ring `l` returns to LISTEN: what was measured and joined is given up (R184, R191). -/
def forgetNodes (d : Dev) (l : Lane) : Dev :=
  let d := d.each (List.range 48) fun d e =>
    (((setNodeState d l e 0).wr .ENT_NODE_CLAIMED (nodeIx l e) 0).wr .ENT_NODE_POS (nodeIx l e) 0).wr .ENT_NODE_MASTER_CAP
      (nodeIx l e) 0
  countAdmitted (onRing d l fun r => { r with nodes := [], inFlight := none, motionDone := [] }) l

/-- Take a schedule into force on ring `l`: its registers and the entries' IDs (Tables 6-9, 6-10). -/
def useSchedule (d : Dev) (l : Lane) (s : List SchedEntry) (id : Nat) : Dev :=
  let d := onRing d l fun r => { r with sched := s, schedId := id, dirEntry := 0, schedNext := none }
  let d := (d.wr .ENT_SCHED_SCHED_ID l.idx id).wr .ENT_SCHED_ENTRIES l.idx s.length
  let d := d.wr .ENT_BUDGET_B_USED l.idx (frameBlocks s)
  let d := d.when (d.on .ENT_TRING_NS l.idx) fun d => showBudget d l
  d.each (List.range 48) fun d e =>
    let used := decide (e < s.length)
    let x := entryAt s e
    (d.wr .ENT_NODE_NODE_ID (nodeIx l e) (if used then x.id else 0xFF)).wr .ENT_NODE_SPARE (nodeIx l e)
      (bitOf (used && decide (x.pos = 0)))

/-- A new schedule of ring `l`: in force at once where the device is not its master, else through the restart that is due (R183, R188). -/
def newSchedule (d : Dev) (l : Lane) (s : List SchedEntry) (id : Nat) : Dev :=
  onRing (if d.rd .ENT_START_STATE l.idx = 0 then useSchedule d l s id else onRing d l fun r => { r with schedNext := some (s, id) }) l
    fun r => { r with startDue := true }

/-- Begin the start sequence of ring `l` (R183, R184): a schedule that waits is in force from here on (R188). Ports that are down together
now make another start due once both are up. -/
def startRing (d : Dev) (l : Lane) : Dev :=
  let d := forgetNodes d l
  let d := match (ringOf d l).schedNext with
    | some p => useSchedule d l p.1 p.2
    | none => d
  let down := !(portUp d l 0 || portUp d l 1)
  let d := onRing d l fun r => { r with startDue := false, startLeft := 4, unstable := false, bothDown := down, enumSeq := none }
  (d.wr .ENT_START_STATE l.idx 1).inc .ENT_START_STARTS l.idx

/-- FOREIGN_FRAME_RECEIVED: while the device masters ring `l`, a frame of another master arrives (R182, R183). -/
def execForeignFrameReceived (l : Lane) (masterId : Fin 256) (s : State) : Host.Outcome State Fault Refusal :=
  s.run fun d => if d.rd .ENT_START_STATE l.idx = 0 then d else foreignFrame d l masterId

/-! Enumeration (R186 to R189). -/

/-- The identity pair of slot `s` of an enumeration frame (Table 6-2); an EMPTY slot holds none. -/
def slotIdent (bs : List Block) (s : Nat) : Option NodeIdent :=
  let b0 := bs.getD (2 * s) emptyBlock
  let b1 := bs.getD (2 * s + 1) emptyBlock
  if blockClass b0 = .good ∧ blockClass b1 = .good then
    some { vendor := natLE (b0.data.take 2), product := natLE ((b0.data.drop 2).take 2),
           serial := natLE ((b0.data.drop 4).take 3), profile := (b0.data.getD 7 0).toNat,
           cfgId := (b1.data.getD 0 0).toNat, fwdNs := natLE ((b1.data.drop 1).take 2), maxJ := (b1.data.getD 3 0).toNat,
           masterCap := (b1.data.getD 4 0).toNat.testBit 0, rev := (b1.data.getD 5 0).toNat }
  else none

/-- The nodes of a copy by its own index: positions for DIR 0, reverse indices for DIR 1. -/
def copyNodes (bs : List Block) (dir : Bool) (count : Nat) : SMap NodeIdent :=
  ((List.range (min count 48)).filterMap fun i =>
    let p := i + 1
    (slotIdent bs (if dir then 49 - p else p)).map fun n => (p, n))

/-- The station count N and the nodes by position, from the copies of one enumeration frame (R187). -/
def enumResult (d : Dev) (l : Lane) : Nat × SMap NodeIdent :=
  let r := ringOf d l
  let place := fun (n : Nat) (c0 c1 : SMap NodeIdent) =>
    c1.foldl (fun m p => SMap.set {} m (n + 1 - p.1) p.2) c0
  match r.enumNow0, r.enumNow1 with
  | some (n, false, c0), _ => (n, c0)
  | none, some (n, false, c1) => (n, place n [] c1)
  | x0, x1 =>
    let s0 := match x0 with
      | some (n, _, _) => n
      | none => 0
    let s1 := match x1 with
      | some (n, _, _) => n
      | none => 0
    let c0 := match x0 with
      | some (_, _, c) => c
      | none => []
    let c1 := match x1 with
      | some (_, _, c) => c
      | none => []
    let sum := s0 + s1
    let np := r.sched.foldl (fun m y => max m y.pos) 0
    let nr : Nat := match r.nRef with
      | some n => n
      | none => if 0 < np ∧ d.mode ≠ .hold ∧ d.mode ≠ .boot then np else sum
    let n : Nat := if nr ≤ sum then sum else nr
    (n, place n c0 c1)

/-- Classify an enumerated node at position `p` against the schedule (R187, R188). -/
def classify (d : Dev) (l : Lane) (p : Nat) (i : NodeIdent) : Dev :=
  let s := (ringOf d l).sched
  match s.findIdx? (fun x => decide (x.pos = p)) with
  | some e =>
    let x := entryAt s e
    let ok := identMatches x i && decide ((i.masterCap = false ∨ i.cfgId = x.id) ∧ x.joints ≤ i.maxJ)
    let d := (d.wr .ENT_NODE_POS (nodeIx l e) p).wr .ENT_NODE_MASTER_CAP (nodeIx l e) (bitOf i.masterCap)
    if ok then
      let d := onNode d l e fun n => { n with ident := some i }
      if nodeState d l e = 0 ∨ nodeState d l e = 6 then setNodeState d l e 1 else d
    else mismatch d l e
  | none => d.event .NODE_UNKNOWN (srcRing l) 0xFF p

/-- The schedule the device builds in Hold mode (R189): one window of 4 blocks for each enumerated node, the pairs of nodes
in descending distance from the nearer end. -/
def holdSchedule (n shift : Nat) (nodes : SMap NodeIdent) : List SchedEntry :=
  let dist := fun p => min (p - 1) (n - p)
  let top := (n - 1) / 2
  let order := (List.range (top + 1)).flatMap fun k =>
    (nodes.filter fun x => decide (dist x.1 = top - k))
  order.mapIdx fun i x =>
    { id := x.1, pos := x.1, vendor := x.2.vendor, product := x.2.product, serial := x.2.serial, profile := x.2.profile,
      joints := 0, pc := 4, ps := 4, w := 2 + 4 * i + shift }

/-- The fewest blocks by which every window of the Hold schedule must move to meet R32 (R189). -/
def holdShift (latch : Nat) (nodes : SMap NodeIdent) (s : List SchedEntry) : Nat :=
  s.foldl (fun m x =>
    let need : Int := 8 * (latch : Int) + 1000 - 3200 - enumeratedMin nodes x.pos
    max m (ceilDiv need.toNat 80 - x.w)) 0

/-- End of enumeration with `n` stations: the nodes are classified, in Hold mode under the device's own schedule, and cycles
begin (R187, R189). -/
def endEnumeration (d : Dev) (l : Lane) (n : Nat) (nodes : SMap NodeIdent) : Dev :=
  let d := onRing (d.wr .ENT_SCHED_N l.idx n) l fun r => { r with found := nodes }
  let d := if d.mode = .hold ∨ d.mode = .boot then
      let s0 := holdSchedule n 0 nodes
      useSchedule d l (holdSchedule n (holdShift d.tb.latchNow nodes s0) nodes) 0
    else d
  let d := d.each nodes fun d x => classify d l x.1 x.2
  (d.wr .ENT_START_STATE l.idx 3).event .ENUM_DONE (srcRing l) l.idx n

/-- The enumeration is unstable: cycles begin with the schedule in force (R187). -/
def endUnstable (d : Dev) (l : Lane) (n : Nat) : Dev :=
  let d := (onRing d l fun r => { r with enumLast := none, unstable := true }).wr .ENT_SCHED_N l.idx n
  let d := d.event .ENUM_UNSTABLE (srcRing l) l.idx
  (d.wr .ENT_START_STATE l.idx 3).event .ENUM_DONE (srcRing l) l.idx n

/-- One enumeration frame is judged, with a result or without: two equal results of consecutive frames end the enumeration, and so do 16
frames without (R187). -/
def judgeEnumeration (d : Dev) (l : Lane) : Dev :=
  let r := ringOf d l
  let res := if r.enumNow0.isSome ∨ r.enumNow1.isSome then some (enumResult d l) else none
  let whole := match r.enumNow0 with
    | some (n, false, _) => some n
    | _ => r.nRef
  let d := onRing d l fun r => { r with nRef := whole, enumSeq := none }
  match res with
  | some x =>
    if r.enumLast = some x then endEnumeration (onRing d l fun r => { r with enumLast := none, unstable := false }) l x.1 x.2
    else if 16 ≤ r.enumFrames then endUnstable d l x.1
    else onRing d l fun r => { r with enumLast := some x }
  | none =>
    if 16 ≤ r.enumFrames then endUnstable d l (d.rd .ENT_SCHED_N l.idx) else onRing d l fun r => { r with enumLast := none }

/-- A copy of the enumeration frame is back; with every copy back the frame is judged. -/
def takeEnumeration (d : Dev) (l : Lane) (c : ReturnedCopy) : Dev :=
  let ringByte := ((c.blocks.getD 0 emptyBlock).data.getD 1 0).toNat
  let h1 := (c.blocks.getD 1 emptyBlock).data
  let dir := ringByte.testBit 2
  let count := (if dir then h1.getD 1 0 else h1.getD 0 0).toNat
  let got := (count, ringByte.testBit 3, copyNodes c.blocks dir count)
  let d := onRing d l fun r => if dir then { r with enumNow1 := some got } else { r with enumNow0 := some got }
  let back := bitOf (ringOf d l).enumNow0.isSome + bitOf (ringOf d l).enumNow1.isSome
  if bitOf (portUp d l 0) + bitOf (portUp d l 1) ≤ back then judgeEnumeration d l else d

/-- ENUMERATION_RETURN: a frame returns while an enumeration frame is on its way (R182, R186, R187). -/
def execEnumerationReturn (l : Lane) (c : ReturnedCopy) (s : State) : Host.Outcome State Fault Refusal :=
  s.run fun d =>
    match d.rd .ENT_START_STATE l.idx, (ringOf d l).enumSeq with
    | 2, some f =>
      let d := countBlocks d l c.port c.blocks
      match copyKind d f 3 99 c with
      | .own => if blockClass (c.blocks.getD 1 emptyBlock) = .good then takeEnumeration d l c else d
      | .late => d.inc .ENT_P_CNT1_LATE (portIx l c.port)
      | .foreign => foreignFrame d l ((c.blocks.getD 0 emptyBlock).data.getD 4 0).toNat
      | .other => d
    | _, _ => d

/-- ENUM_RETRY: 1 s after an unstable enumeration the device repeats it (R187). -/
def execEnumRetry (l : Lane) (s : State) : Host.Outcome State Fault Refusal :=
  s.run fun d =>
    if (ringOf d l).unstable ∧ d.rd .ENT_START_STATE l.idx = 3 then
      (onRing d l fun r => { r with
        unstable := false, enumFrames := 0, enumLast := none, enumNow0 := none, enumNow1 := none, enumSeq := none,
        inFlight := none }).wr .ENT_START_STATE l.idx 2
    else d

end Sys2Proof.Machine
end

