-- ==== Sys2Proof/Machine/Records.lean ====
section
/-!
DEFINITION. The records of the cross-lane exchange as bytes, little-endian, each closed by a CRC-32C: frame record (Table 3-2), result record
(Table 3-3) and position record (Table 9-3).
-/
namespace Sys2Proof.Machine

/-- A signed value as a little-endian field of `n` bytes. -/
def intLE (n : Nat) (v : Int) : List Byte := bytesLE n (fieldOf (8 * n) v)

/-- Bytes cut or filled with zeros to `n`. -/
def padTo (n : Nat) (bs : List Byte) : List Byte := (bs ++ List.replicate n 0).take n

/-- A record's body of `n` bytes with its CRC-32C behind it. -/
def sealed (n : Nat) (bs : List Byte) : List Byte := padTo n bs ++ bytesLE 4 (crc32c (padTo n bs))

/-- NODE_SAFETY of Table 3-2: the safety input bytes of the ring's nodes in schedule order, P_S bytes each. -/
def nodeSafetyBytes (s : List SchedEntry) (xs : List (Nat × List Byte)) : List Byte :=
  (entryIxs s).flatMap fun e => padTo (entryAt s e).ps (SMap.get [] xs e)

/-- The 2,048 bytes of a frame record (Table 3-2); `s` is the schedule of the sender's ring. -/
def frameBytes (s : List SchedEntry) (r : FrameRecord) : List Byte :=
  sealed 2044
    (bytesLE 1 r.laneId ++ bytesLE 1 r.laneState ++ bytesLE 1 r.seen ++ bytesLE 1 r.flags ++ bytesLE 4 r.frameNo ++
      bytesLE 8 r.digest ++ bytesLE 4 r.fwVersion ++ bytesLE 4 r.degRemain ++ bytesLE 4 r.ch1 ++ bytesLE 4 r.ch2 ++
      bytesLE 8 r.nodeValid ++ bytesLE 8 r.decision ++ bytesLE 1 r.arbState ++ bytesLE 1 r.arbTest ++ bytesLE 1 r.arbSuspect ++
      bytesLE 1 r.arbVerdict ++ bytesLE 4 0 ++ bytesLE 8 r.arbSig.toNat ++
      padTo 128 (r.adc.flatMap fun p => intLE 2 p.1 ++ intLE 2 p.2) ++ nodeSafetyBytes s r.nodeSafety)

/-- The 16 bytes of an arm in a result record (Table 3-3). -/
def armBytes (a : ArmResult) : List Byte :=
  intLE 4 a.dMin ++ bytesLE 4 a.sp ++ bytesLE 2 a.pair ++ bytesLE 1 a.reaction ++ bytesLE 1 a.flags ++ bytesLE 4 0

/-- The 512 bytes of a result record (Table 3-3). -/
def resultBytes (r : ResultRecord) : List Byte :=
  sealed 508
    (bytesLE 1 r.laneId ++ bytesLE 1 r.status ++ bytesLE 2 0 ++ bytesLE 4 r.frameNo ++ bytesLE 4 r.passNo ++ bytesLE 2 r.pairsDone ++
      bytesLE 2 0 ++ (List.range 16).flatMap fun a => armBytes (SMap.get {} r.arms a))

/-- The 544 bytes of a position record (Table 9-3). -/
def positionBytes (r : PositionRecord) : List Byte :=
  let at' := fun (j : Nat) => (r.joints.find? fun p => decide (p.1 = j)).map (·.2)
  let valid := (List.range 128).foldl (fun m j => if (at' j).isSome then m + 2 ^ j else m) 0
  sealed 540
    (bytesLE 1 r.laneId ++ bytesLE 3 0 ++ bytesLE 4 r.frameNo ++ bytesLE 16 valid ++
      (List.range 128).flatMap fun j => intLE 4 ((at' j).getD 0))

end Sys2Proof.Machine
end

