-- ==== Sys2Proof/Machine/Lanes.lean ====
section
/-!
DEFINITION. The three lanes, chapter 03 and the fault record of chapter 04: lane states, the fault latch and its fixed reaction
(R79), leaving and entering service, the cross-lane exchange and the agreement of values (R84 to R92, R278, R279), the
comparator test (R80 to R83), the configuration digest (R101 to R105) and debug (R110).
-/
namespace Sys2Proof.Machine

/-- The state of lane `l`. -/
def laneOf (d : Dev) (l : Lane) : LaneState := d.lanes.get l

/-- Replace the state of lane `l`. -/
def setLane (d : Dev) (l : Lane) (x : LaneState) : Dev := { d with lanes := d.lanes.set l x }

/-- Change the state of lane `l`. -/
def onLane (d : Dev) (l : Lane) (f : LaneState → LaneState) : Dev := setLane d l (f (laneOf d l))

/-- Change the dynamic safety state of lane `l`. -/
def onSaf (d : Dev) (l : Lane) (f : SafState → SafState) : Dev := onLane d l fun x => { x with saf := f x.saf }

/-- Lane states of Table 3-1. -/
inductive LaneMode where
  | absent | boot | selftest | resync | shadow | inService | reload | faulted | debug
  deriving DecidableEq, Repr

/-- Code of a lane state. -/
def laneCode : LaneMode → Nat
  | .absent => 0
  | .boot => 1
  | .selftest => 2
  | .resync => 3
  | .shadow => 4
  | .inService => 5
  | .reload => 6
  | .faulted => 7
  | .debug => 8

/-- The lane state in force (R73). -/
def laneMode (d : Dev) (l : Lane) : LaneMode :=
  match d.rd .LN_STATUS_STATE l.idx with
  | 0 => .absent
  | 1 => .boot
  | 2 => .selftest
  | 3 => .resync
  | 4 => .shadow
  | 5 => .inService
  | 6 => .reload
  | 7 => .faulted
  | _ => .debug

/-- Lane `l` is in IN_SERVICE. -/
def inService (d : Dev) (l : Lane) : Bool := decide (d.rd .LN_STATUS_STATE l.idx = 5)

/-- The lanes in IN_SERVICE, in the order A, B, C. -/
def serviceLanes (d : Dev) : List Lane := Lane.all.filter fun l => inService d l

/-- The others treat lane `l` as in service: it is, or its fault latch has set since the last exchange window (R79). -/
def regarded (d : Dev) (l : Lane) : Bool := inService d l || (laneOf d l).unseen

/-- The lanes regarded as in service. -/
def regardedLanes (d : Dev) : List Lane := Lane.all.filter fun l => regarded d l

/-- Lanes removed from voting as suspects of a running arbitration; none where fewer than two lanes would remain to vote (R96). -/
def removedSuspects (d : Dev) : List Lane :=
  let out := (serviceLanes d).filter fun l => (serviceLanes d).any fun m =>
    decide (0 < (laneOf d m).arb.phase) && (laneOf d m).arb.suspects.testBit l.idx && !(laneOf d m).arb.ss1
  if out.length + 2 ≤ (serviceLanes d).length then out else []

/-- The lanes that vote: in IN_SERVICE and not removed by an arbitration (R73, R96). -/
def votingLanes (d : Dev) : List Lane := (serviceLanes d).filter fun l => !(removedSuspects d).contains l

/-- Show which lanes take part in voting (LNx_STATUS.IN_VOTE). -/
def showVote (d : Dev) : Dev :=
  d.each Lane.all fun d l => d.wr .LN_STATUS_IN_VOTE l.idx (bitOf ((votingLanes d).contains l))

/-- Set the gate lines lane `l` energises, at the lands and in the mirrors SAF_BRKk_STAT.GATE. -/
def setGates (d : Dev) (l : Lane) (mask : Nat) : Dev :=
  if (laneOf d l).gates = mask then d
  else
    let d := (onLane d l fun x => { x with gates := mask }).emit (.gates l mask)
    d.each (List.range 16) fun d k => d.wrBit .SAF_BRK_STAT_GATE k l.idx (mask.testBit k)

/-- Set SAFE_OK of lane `l`. -/
def setSafeOk (d : Dev) (l : Lane) (high : Bool) : Dev :=
  if (laneOf d l).safeOk = high then d
  else ((onLane d l fun x => { x with safeOk := high }).wrBit .SAF_SAFE_OK_LEVEL 0 l.idx high).emit (.safeOk l high)

/-- Set the state of a lane: outside IN_SERVICE its gate lines are de-energised and SAFE_OK is low (R73). -/
def setLaneMode (d : Dev) (l : Lane) (m : LaneMode) : Dev :=
  let d := d.wr .LN_STATUS_STATE l.idx (laneCode m)
  let d := onLane d l fun x => { x with serviceFr := 0 }
  showVote (if m = .inService then d else setSafeOk (setGates d l 0) l false)

/-! Safe state. -/

/-- On entry to Safe state the host's motion enable and every enable request are withdrawn (R313). -/
def withdrawEnables (d : Dev) : Dev :=
  d.each Lane.all fun d l => onSaf d l fun x =>
    { x with motionEnable := false,
             units := (List.range 32).foldl (fun m u => SMap.modify {} m u fun y => { y with enableReq := false }) x.units }

/-- Put a demand on unit `u` in one lane's safety state; an equal demand already there becomes active again. -/
def addDemand (x : UnitDyn) (cause kind index : Nat) : UnitDyn :=
  let same := fun (q : Demand) => decide (q.cause = cause ∧ q.index = index)
  if x.demands.any same then
    { x with demands := x.demands.map fun q => if same q then { q with active := true, kind := max q.kind kind } else q }
  else { x with demands := x.demands ++ [{ cause := cause, kind := kind, index := index }] }

/-- Put a demand on unit `u` in every lane in service. -/
def demandAll (d : Dev) (u cause kind index : Nat) : Dev :=
  d.each (serviceLanes d) fun d l => onSaf d l fun x =>
    { x with units := SMap.modify {} x.units u fun y => addDemand y cause kind index }

/-- A unit goes to STO at once: torque and release end (R300, immediate). -/
def stoNow (y : UnitDyn) (cause : Nat) : UnitDyn :=
  { addDemand y cause 5 0 with func := 5, torque := false, brakeRel := false, relWait := none, stoWait := false, sosFr := 0 }

/-- Every running proof test is abandoned: an outcome holds every channel set (Table 4-8). -/
def dropTests (m : SMap BrakeDyn) : SMap BrakeDyn :=
  (List.range 16).foldl (fun m k => SMap.modify {} m k fun b => { b with test := none }) m

/-- Outcome DEEN of Table 4-3: every gate line de-energised, STO for every unit with cause 0x0F, Safe state. -/
def deEnergise (d : Dev) : Dev :=
  let d := d.each Lane.all fun d l => setSafeOk (setGates d l 0) l false
  let d := d.each Lane.all fun d l => onSaf d l fun x =>
    { x with deen := true, brakes := dropTests x.brakes,
             units := (List.range 32).foldl (fun m u => SMap.modify {} m u fun y => stoNow y 0x0F) x.units }
  let d := d.each (List.range 32) fun d u =>
    (((((d.wr .SAF_UNIT_STAT_FUNC u 5).wr .SAF_UNIT_STAT_CAUSE u 0x0F).wr .SAF_UNIT_STAT_TORQUE u 0).wr
      .SAF_UNIT_STAT_BRAKE_REL u 0)).wr .SAF_UNIT_STAT_ACK_PEND u 0
  let d := d.each (List.range 16) fun d k => d.wr .SAF_BRK_STAT_RELEASED k 0
  match d.mode with
  | .boot | .hold => d
  | _ => withdrawEnables (d.setMode .safeState)

/-- Outcome STOP of Table 4-3: SS1 for every unit with this cause; Safe state follows once every unit is in STO (R124, R130,
R132). -/
def stopAll (d : Dev) (cause : Nat) : Dev :=
  d.each (serviceLanes d) fun d l => onSaf d l fun x =>
    { x with stopOutcome := true, brakes := dropTests x.brakes,
             units := (List.range 32).foldl (fun m u => SMap.modify {} m u fun y => addDemand y cause 4 0) x.units }

/-- Enter RESYNC; `image` is whether the donor sends the image first (R107). -/
def enterResync (d : Dev) (l : Lane) (image : Bool) : Dev :=
  let d := onLane d l fun x => { x with
    needImage := image, staging := none, switchAt := none, reloadChunks := 0, reloadBlocks := 0, reloadTries := 0, snapshot := none,
    snapshotBlocks := 0, shadowRun := 0 }
  setLaneMode d l .resync

/-- With fewer than two lanes in service every transfer of an image or a snapshot stops, and its lane waits in RESYNC (R107, R108). -/
def stopTransfers (d : Dev) : Dev :=
  d.each (Lane.all.filter fun l => laneMode d l = .reload || laneMode d l = .resync) fun d l => enterResync d l true

/-- After a lane has left or entered service as the others see it: Run becomes Degraded with two lanes, and fewer than two lanes in service
lead to the de-energised safe state (R117, R122, Table 1-9). -/
def reviewLanes (d : Dev) : Dev :=
  let n := (regardedLanes d).length
  match d.mode with
  | .boot | .hold => d
  | m =>
    if n < 2 then stopTransfers (deEnergise d)
    else if n = 2 ∧ m = .run then d.setMode .degraded
    else d

/-- A time of device time `minutes` ago or later. -/
def within (d : Dev) (minutes : Nat) (t : Int) : Bool := decide (d.tb.ext - t ≤ minutes * 60000000000)

/-- FAULTS_60MIN shows the faults of the last 60 min (R108). -/
def showFaults (d : Dev) (l : Lane) : Dev :=
  d.wr .LN_REJOIN_FAULTS_60MIN l.idx (min 3 (laneOf d l).faultTimes.length)

/-- The faults of a lane older than 60 min no longer count (R108). -/
def ageFaults (d : Dev) (l : Lane) : Dev :=
  let ts := (laneOf d l).faultTimes.filter fun t => within d 60 t
  if ts = (laneOf d l).faultTimes then d else showFaults (onLane d l fun x => { x with faultTimes := ts }) l

/-- Count one more fault of a lane within 60 min (R108): the third keeps it FAULTED until device reset. -/
def lanePenalty (d : Dev) (l : Lane) : Dev :=
  let ts := ((laneOf d l).faultTimes.filter fun t => within d 60 t) ++ [d.tb.ext]
  let d := showFaults (onLane d l fun x => { x with faultTimes := ts }) l
  if 3 ≤ ts.length then d.wr .LN_STATUS_REJOIN_LIMIT l.idx 1 else d

/-- A lane leaves service through a fault of kind LANE with this event code (R112, R131, R132); a lane in DEBUG stays there until its
own reset (R110). Its leaving is known to the others at once, unless they have yet to sample its fault-status pair (`later`, R79). -/
def laneFault (d : Dev) (l : Lane) (m : LaneMode) (e : Ev) (later : Bool := false) : Dev :=
  let was := inService d l
  let m := if laneMode d l = .debug ∧ m ≠ .absent then .debug else m
  let d := onLane (setLaneMode d l m) l fun x => { x with outCause := e.code, leaveAtTick := false }
  let d := lanePenalty (countFault d .lane l.idx e was) l
  if !was then d
  else if later ∧ serviceLanes d ≠ [] then onLane d l fun x => { x with unseen := true }
  else reviewLanes d

/-- The fault latch of lane `l` sets (R79): outputs off, cores held, the event of the cause written once. A latch already set
stays as it is. A reload started in the same frame counts for nothing (R111). -/
def setLatch (d : Dev) (l : Lane) (e : Ev) (index detail : Nat := 0) : Dev :=
  if (laneOf d l).latch then d
  else
    let undo := decide ((laneOf d l).reloadIn = some d.frameNo)
    let d := (onLane d l fun x => { x with
      latch := true, arb := {},
      reloadTimes := if undo then x.reloadTimes.dropLast else x.reloadTimes,
      faultTimes := if undo then x.faultTimes.dropLast else x.faultTimes }).wr .LN_STATUS_FAULT_LATCH l.idx 1
    let d := d.event e (srcLane l) index detail
    laneFault d l .faulted e true

/-- LOCKSTEP_MISMATCH: the comparator reports a mismatch or a code fault in lane `l` (R77, R78). A lane in DEBUG has no
lockstep to compare; a lane that is absent has no cores running. -/
def execLockstepMismatch (l : Lane) (s : State) : Host.Outcome State Fault Refusal :=
  s.run fun d =>
    match laneMode d l with
    | .absent | .debug => d
    | _ => setLatch (d.flag .LN_STATUS_LOCKSTEP_MISMATCH l.idx) l .LOCKSTEP_MISMATCH

/-- MEM_UE: an uncorrectable error in the memory of lane `l` (R74). -/
def execMemUe (l : Lane) (s : State) : Host.Outcome State Fault Refusal :=
  s.run fun d =>
    match laneMode d l with
    | .absent => d
    | _ => setLatch (d.flag .LN_STATUS_MEM_UE l.idx) l .MEM_UE

/-- MEMORY_SCRUB: the background scrub of lane `l` completes; corrected errors are counted, an uncorrectable one sets the latch
(R74). -/
def execMemoryScrub (l : Lane) (corrected : Nat) (uncorrectable : Bool) (s : State) : Host.Outcome State Fault Refusal :=
  s.run fun d =>
    match laneMode d l with
    | .absent => d
    | _ =>
      let d := (d.incBy .LN_MEM_CE_CNT l.idx corrected).incWrap .LN_MEM_SCRUB_PASS l.idx
      if uncorrectable then setLatch (d.flag .LN_STATUS_MEM_UE l.idx) l .MEM_UE else d

/-- The frames between two in-operation comparator tests of a lane: 10 s (R80). -/
def testInterval (d : Dev) : Nat := 160000 / d.periodUnits

/-- O_x of R80. -/
def testOffset (d : Dev) : Lane → Nat
  | .a => 0
  | .b => testInterval d / 4
  | .c => testInterval d / 2

/-- A failed comparator test of group `g` (R82). -/
def cmpTestFail (d : Dev) (l : Lane) (g : Nat) : Dev :=
  setLatch ((d.flag .LN_STATUS_CMP_TEST_FAIL l.idx).wr .LN_CMP_TEST_FAIL_GROUP l.idx g) l .CMP_TEST_FAIL g

/-- CMP_TEST: in the test frame of lane `l` the comparator group of the turn is tested; `ok` is whether the group's pair and the
tree reported the injected mismatch and no other group did (R80 to R83). -/
def execCmpTest (l : Lane) (ok : Bool) (s : State) : Host.Outcome State Fault Refusal :=
  s.run fun d =>
    match laneMode d l with
    | .debug | .absent | .faulted => d
    | _ =>
      if d.tb.ticking ∧ d.frameNo % testInterval d = testOffset d l then
        let d := d.reach 4000
        let g := d.rd .LN_CMP_TEST_NEXT_GROUP l.idx
        if ok then (d.inc .LN_CMP_TEST_PASS_CNT l.idx).wr .LN_CMP_TEST_NEXT_GROUP l.idx ((g + 1) % 32)
        else cmpTestFail d l g
      else d

/-! Debug (R110). -/

/-- DEBUG_ENTER: debug is entered on lane `l` through a debug port unlocked for that lane. -/
def execDebugEnter (l : Lane) (s : State) : Host.Outcome State Fault Refusal :=
  s.run fun d =>
    if (d.rd .PWR_DBG_STAT_LANE_AUTH).testBit l.idx ∧ laneMode d l ≠ .absent ∧ laneMode d l ≠ .debug then
      let d := d.wr .LN_STATUS_LANE_DEBUG l.idx 1
      let d := d.event .LANE_DEBUG (srcLane l)
      laneFault d l .debug .LANE_DEBUG
    else d

/-! The exchange (R84 to R89, R278). -/

/-- Lanes from SELFTEST onward send and receive records (R84); the cores of a latched lane are held in reset (R79). -/
def exchanges (d : Dev) (l : Lane) : Bool :=
  match laneMode d l with
  | .selftest | .resync | .shadow | .inService | .reload | .faulted | .debug => !(laneOf d l).latch
  | .absent | .boot => false

/-- The fault-status pair that lane `m` drives on its outgoing links (R75, R79); without its supply it drives none. -/
def pairOut (d : Dev) (m : Lane) : BitVec 2 :=
  if (laneOf d m).latch then 2 else if laneMode d m = .absent then 0 else 1

/-- At 0.5 us lane `l` samples the fault-status pair of every link into it, as the link carries it: `bent` gives the value on a link that is
itself at fault (R75). A latch that is sampled is known to the others from here on (R79). -/
def samplePairs (d : Dev) (l : Lane) (bent : PerLane (Option (BitVec 2))) : Dev :=
  d.each l.others fun d m =>
    let p := (bent.get m).getD (pairOut d m)
    let d := onLane d l fun x => { x with pairs := x.pairs.set m p }
    if p ≠ 1 ∧ (laneOf d m).unseen then reviewLanes (onLane d m fun x => { x with unseen := false }) else d

/-- NODE_VALID of ring `l`: entries whose node is admitted, within the guard, and gave a valid safety part (R163, R197). -/
def nodeValidMask (d : Dev) (l : Lane) : Nat :=
  (entryIxs (ringOf d l).sched).foldl (fun m e =>
    if (nodeOf d l e).valid ∧ nodeState d l e = 3 then m + 2 ^ e else m) 0

/-- Time left of the degraded timer in ms, 0xFFFF_FFFF when it is not running (Table 3-2). -/
def remainMs (d : Dev) (x : SafState) : Nat :=
  match x.degLeft with
  | some n => n * d.frameNs / 1000000
  | none => 0xFFFFFFFF

/-- The frame record of lane `l` in the present frame (Table 3-2). In Hold mode CFG_DIGEST reads zero (R89). -/
def makeRecord (d : Dev) (l : Lane) : FrameRecord :=
  let x := laneOf d l
  { laneId := laneId l
    laneState := d.rd .LN_STATUS_STATE l.idx
    seen := x.seen
    flags := bitOf x.saf.degLeft.isSome + 2 * bitOf x.supplyWarn + 4 * bitOf x.overrun
    frameNo := d.frameNo
    digest := if d.mode = .hold then 0 else x.cfgDigest
    fwVersion := x.fwVersion
    degRemain := remainMs d x.saf
    ch1 := x.si.1
    ch2 := x.si.2
    nodeValid := nodeValidMask d l
    decision := x.decisionPrev
    arbState := x.arb.phase
    arbTest := x.arb.test
    arbSuspect := x.arb.suspects
    arbVerdict := x.arb.pass + 16 * x.arb.given
    arbSig := x.arb.sig
    adc := x.adc
    nodeSafety := (entryIxs (ringOf d l).sched).filterMap fun e =>
      if (nodeOf d l e).payload = [] then none else some (e, (nodeOf d l e).payload) }

/-- FRAME_RECORD_SEND: at 0.5 us lane `l` sends its frame record to the other lanes (R84); it holds its own record too. The
ADC snapshot it reads is taken by the ADC chapter's rule R379. -/
def sendRecord (d : Dev) (l : Lane) : Dev :=
  if exchanges d l then
    let d := d.reach 500
    let r := makeRecord d l
    (onLane d l fun x => { x with frames := x.frames.set l (some r) }).emit (.frameRecord l r (frameBytes (ringOf d l).sched r))
  else d

/-- First or second other lane in the order A, B, C, as LNx_EXCH_ERR counts them. -/
def firstOther (rx tx : Lane) : Bool := decide (rx.others.head? = some tx)

/-- Count an exchange failure at `rx` from `tx` (R86). -/
def exchangeError (d : Dev) (rx tx : Lane) (crc : Bool) : Dev :=
  match firstOther rx tx, crc with
  | true, true => d.inc .LN_EXCH_ERR_CRC_P1 rx.idx
  | true, false => d.inc .LN_EXCH_ERR_LATE_P1 rx.idx
  | false, true => d.inc .LN_EXCH_ERR_CRC_P2 rx.idx
  | false, false => d.inc .LN_EXCH_ERR_LATE_P2 rx.idx

/-- What a received record is judged by (R86): arrival, identity and frame number. -/
def recordGood (d : Dev) (tx : Lane) (a : Arrival) (id frameNo : Nat) : Bool :=
  decide (a = .good ∧ id = laneId tx ∧ frameNo = d.frameNo)

/-- FRAME_RECORD_RECEIVED: lane `rx` receives a frame record on the link from `tx` (R86). A wrong
FRAME_NO counts as late (DESIGN CHOICE, log 106). -/
def execFrameRecordReceived (rx tx : Lane) (a : Arrival) (r : FrameRecord) (s : State) : Host.Outcome State Fault Refusal :=
  s.run fun d =>
    if exchanges d rx ∧ rx ≠ tx then
      let d := onLane d rx fun x => { x with arrived := x.arrived.set tx true }
      if recordGood d tx a r.laneId r.frameNo then
        onLane d rx fun x => { x with frames := x.frames.set tx (some r) }
      else exchangeError d rx tx (decide (a ≠ .late ∧ ¬ (a = .good ∧ r.laneId = laneId tx)))
    else d

/-- The position record of lane `l` (Table 9-3): extended counts of its own ring for the joints with a valid feedback. -/
def makePositions (d : Dev) (l : Lane) : PositionRecord :=
  let s := (ringOf d l).sched
  { laneId := laneId l
    frameNo := d.frameNo
    joints := (entryIxs s).flatMap fun e =>
      if (nodeOf d l e).valid ∧ nodeState d l e = 3 then
        ((nodeOf d l e).counts.mapIdx fun k c => (jointBase s e + k, c)).filterMap fun p => p.2.map fun c => (p.1, c)
      else [] }

/-- POSITION_RECORD_SEND: at 1.8 us lane `l` sends its position record (R278). -/
def execPositionRecordSend (l : Lane) (s : State) : Host.Outcome State Fault Refusal :=
  s.run fun d =>
    if exchanges d l ∧ d.tb.ticking then
      let d := d.reach 1800
      let r := makePositions d l
      (onLane d l fun x => { x with pos := x.pos.set l (some r) }).emit (.positionRecord l r (positionBytes r))
    else d

/-- POSITION_RECORD_RECEIVED: judged as R86 states (R278). -/
def execPositionRecordReceived (rx tx : Lane) (a : Arrival) (r : PositionRecord) (s : State) :
    Host.Outcome State Fault Refusal :=
  s.run fun d =>
    if exchanges d rx ∧ rx ≠ tx then
      if recordGood d tx a r.laneId r.frameNo then onLane d rx fun x => { x with pos := x.pos.set tx (some r) }
      else exchangeError d rx tx (decide (a ≠ .late ∧ ¬ (a = .good ∧ r.laneId = laneId tx)))
    else d

/-- RESULT_RECORD_RECEIVED: a separation result record of this frame's vote (R86, R94). -/
def execResultRecordReceived (rx tx : Lane) (a : Arrival) (r : ResultRecord) (s : State) :
    Host.Outcome State Fault Refusal :=
  s.run fun d =>
    if exchanges d rx ∧ rx ≠ tx then
      if recordGood d tx a r.laneId r.frameNo then onLane d rx fun x => { x with results := x.results.set tx (some r) }
      else exchangeError d rx tx (decide (a ≠ .late ∧ ¬ (a = .good ∧ r.laneId = laneId tx)))
    else d

/-! Agreement (R90 to R92, R276, R279). -/

/-- A record of a lane in IN_SERVICE whose last evaluation was complete: after an overrun the lane contributes nothing (R87, R88,
R119). -/
def usable (r : FrameRecord) : Bool := decide (r.laneState = 5) && !r.flags.testBit 2

/-- The usable record of lane `m` that lane `l` holds of this frame. -/
def usableOf (d : Dev) (l m : Lane) : Option FrameRecord := ((laneOf d l).frames.get m).filter usable

/-- The records of this frame whose copies count: usable, and the sender not removed as a suspect (R90, R96). -/
def countedRecords (d : Dev) (l : Lane) : List (Lane × FrameRecord) :=
  (Lane.all.filterMap fun m => (usableOf d l m).map fun r => (m, r)).filter fun p => !(removedSuspects d).contains p.1

/-- Majority of three booleans. -/
def majority (a b c : Bool) : Bool := (a && b) || (a && c) || (b && c)

/-- The agreed value of a binary item with its safe value (Table 3-4): none if missing. -/
def agreeBinary (safe : Bool) : List Bool → Option Bool
  | [a, b, c] => some (majority a b c)
  | [a, b] => some (if a = b then a else safe)
  | _ => none

/-! The numbers of the agreement items: contacts ch1 and ch2 of the SI inputs, means and maxima of the ADC, volume slots, joints, and the
bits of the nodes' safety inputs. The spec numbers none of them. -/

/-- Item of the mean of AIN`c`. -/
def itemMean (c : Nat) : Nat := 64 + c
/-- Item of the maximum of AIN`c`. -/
def itemMax (c : Nat) : Nat := 96 + c
/-- Item of volume slot `v`. -/
def itemVolume (v : Nat) : Nat := 128 + v
/-- Item of joint `j`. -/
def itemJoint (j : Nat) : Nat := 160 + j
/-- Item of bit `b` of node `id`'s safety input bytes. -/
def itemNode (id b : Nat) : Nat := 2048 * (id + 1) + b

/-- The entry of the agreement item table for item `i` (R90): an ADC item without an entry is numeric with its channel's tolerance, any
other binary with safe value open. -/
def itemCfg (c : SafetyConfig) (i : Nat) : ItemCfg :=
  SMap.get (if 64 ≤ i ∧ i < 128 then { numeric := true, tol := SMap.get 0 c.adcTol (i % 32) } else {}) c.items i

/-- Median of three integers. -/
def medianInt (a b c : Int) : Int := max (min a b) (min (max a b) c)

/-- The values on which a check of a numeric item is made (Table 3-4): the median, both of two, or none if missing. -/
def agreeNumeric : List Int → List Int
  | [a, b, c] => [medianInt a b c]
  | [a, b] => [a, b]
  | _ => []

/-- The invalid pair of an ADC item (R378): the item is missing. -/
def adcInvalid (p : Int × Int) : Bool := decide (p = (-32768, -32768))

/-- The agreed position of a joint with tolerance `tol` (R279). -/
def agreePosition (tol : Nat) : List Int → Option Int
  | [a, b, c] => some (medianInt a b c)
  | [a, b] => if (a - b).natAbs ≤ tol then some a else none
  | _ => none

/-- Bit `i` of a mask for each copy. -/
def copiesOf (rs : List (Lane × FrameRecord)) (f : FrameRecord → Nat) (i : Nat) : List Bool :=
  rs.map fun p => (f p.2).testBit i

/-- The lane that differs from the majority of three binary copies. -/
def binaryOutlier : List (Lane × Bool) → Option Lane
  | [a, b, c] =>
    if a.2 ≠ b.2 ∧ a.2 ≠ c.2 then some a.1 else if b.2 ≠ a.2 ∧ b.2 ≠ c.2 then some b.1
    else if c.2 ≠ a.2 ∧ c.2 ≠ b.2 then some c.1 else none
  | _ => none

/-- The lanes farther than the tolerance from the median of three numeric copies, or both of two that differ by more. -/
def numericOutliers (tol : Nat) : List (Lane × Int) → List Lane
  | [a, b, c] =>
    let m := medianInt a.2 b.2 c.2
    [a, b, c].filterMap fun p => if tol < (p.2 - m).natAbs then some p.1 else none
  | [a, b] => if tol < (a.2 - b.2).natAbs then [a.1, b.1] else []
  | _ => []

/-- Count the outliers of an item (LNx_DISAGREE.INPUT_CNT counts frames; the first lane in service counts). -/
def countOutliers (d : Dev) (l : Lane) (out : List Lane) : Dev :=
  if l ≠ d.firstLane then d
  else d.each (out.filter fun m => !(laneOf d l).outFrame.testBit m.idx) fun d m =>
    onLane (d.inc .LN_DISAGREE_INPUT_CNT m.idx) l fun x => { x with outFrame := setBit x.outFrame m.idx true }

/-- Note an item's outliers in lane `l` (R91): the counts of the lanes concerned, and the run of a single lane that is alone
the outlier among three copies. From the eighth frame in a row on the lane is named for arbitration by the others, which set
INPUT_DISAGREE; while its cause persists the trigger stands (R111). -/
def noteOutliers (d : Dev) (l : Lane) (item : Nat) (copies : Nat) (out : List Lane) : Dev :=
  let d := countOutliers d l out
  let old := SMap.get (0, 0) (laneOf d l).outlierRun item
  let new : Nat × Nat := match copies, out with
    | 3, [m] => if old.1 = m.idx + 1 then (old.1, min 8 (old.2 + 1)) else (m.idx + 1, 1)
    | _, _ => (0, 0)
  let d := if new = old then d else onLane d l fun x => { x with outlierRun := SMap.set (0, 0) x.outlierRun item new }
  if new.2 = 8 ∧ new.1 ≠ l.idx + 1 then
    let d := if old.2 < 8 then d.flag .LN_STATUS_INPUT_DISAGREE (new.1 - 1) else d
    onLane d l fun x => { x with arb := { x.arb with held := setBit x.arb.held (new.1 - 1) true } }
  else d

/-- The agreed contacts of channel `f` (1 or 2): presence mask and value mask of the 24 inputs. -/
def agreeContacts (rs : List (Lane × FrameRecord)) (f : FrameRecord → Nat) : Nat × Nat :=
  (List.range 24).foldl (fun m i =>
    match agreeBinary false (copiesOf rs f i) with
    | some true => (m.1 + 2 ^ i, m.2 + 2 ^ i)
    | some false => (m.1 + 2 ^ i, m.2)
    | none => m) (0, 0)

/-- The copies of the safety payload of each scheduled node (R90): its entry valid in the sender's NODE_VALID. -/
def nodeCopies (d : Dev) (l : Lane) (rs : List (Lane × FrameRecord)) : SMap (List (Lane × List Byte)) :=
  let s := (ringOf d l).sched
  (entryIxs s).foldl (fun m e =>
    SMap.set [] m (entryAt s e).id (rs.filterMap fun p =>
      if p.2.nodeValid.testBit e then some (p.1, SMap.get [] p.2.nodeSafety e) else none)) []

/-- The copies of joint `j`'s position that count in lane `l` (R90, R279): the sender in service and voting, without an overrun. -/
def positionCopies (d : Dev) (l : Lane) (j : Nat) : List (Lane × Int) :=
  (Lane.all.filter fun m => regarded d m && !(removedSuspects d).contains m &&
      !((laneOf d l).frames.get m).any fun r => !usable r).filterMap fun m =>
    (((laneOf d l).pos.get m).bind fun r => r.joints.find? fun q => decide (q.1 = j)).map fun q => (m, q.2)

/-- POS_TOL of joint `j` in lane `l` (Table 9-5). -/
def posTol (d : Dev) (l : Lane) (j : Nat) : Nat := (SMap.get ({} : JointCfg) (laneOf d l).image.params.joints j).posTol

/-- The agreed joint positions of this frame (R279). -/
def agreePositions (d : Dev) (l : Lane) : SMap (Option Int) :=
  (List.range 128).foldl (fun m j => SMap.set none m j (agreePosition (posTol d l j) ((positionCopies d l j).map Prod.snd))) []

/-- The outliers of a binary item: the lane that differs from the majority of three, or both of two that differ (R91). -/
def binaryOutliers (cs : List (Lane × Bool)) : List Lane :=
  match binaryOutlier cs, cs with
  | some m, _ => [m]
  | none, [a, b] => if a.2 ≠ b.2 then [a.1, b.1] else []
  | none, _ => []

/-- The copies of one ADC value in these records; an invalid pair is no copy (R378). -/
def adcCopies (rs : List (Lane × FrameRecord)) (c : Nat) (f : Int × Int → Int) : List (Lane × Int) :=
  rs.filterMap fun p => match p.2.adc[c]? with
    | some v => if adcInvalid v then none else some (p.1, f v)
    | none => none

/-- The outliers among the safety input bytes of the nodes, bit by bit; the volumes of sensors (profile 3) have a rule of their own
(R91, R276). -/
def judgeNodes (d : Dev) (l : Lane) (rs : List (Lane × FrameRecord)) : Dev :=
  let s := (ringOf d l).sched
  let ns := nodeCopies d l rs
  d.each ((entryIxs s).filter fun e => decide ((entryAt s e).profile ≠ 3)) fun d e =>
    let n := entryAt s e
    let cs := SMap.get [] ns n.id
    d.each (List.range (8 * n.ps)) fun d b =>
      noteOutliers d l (itemNode n.id b) cs.length
        (binaryOutliers (cs.map fun p => (p.1, (p.2.getD (b / 8) 0).toNat.testBit (b % 8))))

/-- The outliers of every item agreed per frame in lane `l` (R91): contacts, ADC means and maxima, node inputs, joint positions. -/
def judgeOutliers (d : Dev) (l : Lane) (rs : List (Lane × FrameRecord)) : Dev :=
  let cfg := (laneOf d l).image.params
  let d := d.each (List.range 24) fun d i =>
    let one := fun (d : Dev) (item : Nat) (f : FrameRecord → Nat) =>
      noteOutliers d l item rs.length (binaryOutliers (rs.map fun p => (p.1, (f p.2).testBit i)))
    one (one d i (·.ch1)) (32 + i) (·.ch2)
  let d := d.each (List.range 32) fun d c =>
    let one := fun (d : Dev) (item : Nat) (f : Int × Int → Int) =>
      let cs := adcCopies rs c f
      noteOutliers d l item cs.length (numericOutliers (itemCfg cfg item).tol cs)
    one (one d (itemMean c) Prod.fst) (itemMax c) Prod.snd
  let d := judgeNodes d l rs
  d.each (List.range 128) fun d j =>
    let cs := positionCopies d l j
    noteOutliers d l (itemJoint j) cs.length (numericOutliers (posTol d l j) cs)

/-- The agreed values of lane `l` in this frame, the positions of earlier frames kept for the speeds of R306. -/
def agreedOf (d : Dev) (l : Lane) (rs : List (Lane × FrameRecord)) : Agreed :=
  let c1 := agreeContacts rs (·.ch1)
  let c2 := agreeContacts rs (·.ch2)
  let adc := fun (c : Nat) (f : Int × Int → Int) => agreeNumeric ((adcCopies rs c f).map Prod.snd)
  { frame := d.frameNo
    have1 := c1.1
    have2 := c2.1
    ch1 := c1.2
    ch2 := c2.2
    adcMean := (List.range 32).foldl (fun m c => SMap.set [] m c (adc c Prod.fst)) []
    adcMax := (List.range 32).foldl (fun m c => SMap.set [] m c (adc c Prod.snd)) []
    nodes := nodeCopies d l rs
    positions := agreePositions d l ::
      (laneOf d l).agreed.positions.take ((laneOf d l).image.params.spdWin + 2) }

/-- Silence in this frame (R87): a missing or invalid record, a fault-status pair sampled other than 0b01, or the OVERRUN flag of a lane
in service (R88). -/
def silentNow (d : Dev) (l m : Lane) : Bool :=
  decide ((laneOf d l).pairs.get m ≠ 1) ||
    match (laneOf d l).frames.get m with
    | none => true
    | some r => decide (r.laneState = 5) && r.flags.testBit 2

/-- SAF_LINK bit of the direction from `tx` to `rx`: A→B, A→C, B→A, B→C, C→A, C→B. -/
def linkBit (tx rx : Lane) : Nat := 2 * tx.idx + (if firstOther tx rx then 0 else 1)

/-- Count silence and link health in lane `l` (R86, R87, R116). The missing record of a lane that sends none is not counted as late (DESIGN
CHOICE, log 106). -/
def judgeLinks (d : Dev) (l : Lane) : Dev :=
  d.each l.others fun d m =>
    let got := ((laneOf d l).frames.get m).isSome
    let d := d.wrBit .SAF_LINK_GOOD 0 (linkBit m l) got
    let d := if got ∨ (laneOf d l).arrived.get m ∨ exchanges d m = false then d else exchangeError d l m false
    let sil := silentNow d l m
    let d := if sil && inService d m then d.inc .LN_DISAGREE_SILENT_CNT m.idx else d
    onLane d l fun x => { x with
      silentBefore := x.silentBefore.set m (x.silentRun.get m)
      silentRun := x.silentRun.set m (if sil then x.silentRun.get m + 1 else 0)
      goodRun := x.goodRun.set m (if got then x.goodRun.get m + 1 else 0) }

/-- Record what lane `l` saw of this frame, for its SEEN field of the next. -/
def seenMask (d : Dev) (l : Lane) : Nat :=
  Lane.all.foldl (fun m k => if ((laneOf d l).frames.get k).isSome then m + 2 ^ k.idx else m) 0

/-! Digest comparison (R103). -/

/-- The lanes whose digests lane `l` compares: those in service at this frame's tick. A lane that left in this frame has its record of the
frame compared still, so every lane finds the same difference. -/
def digestLanes (d : Dev) (l : Lane) : List Lane := Lane.all.filter fun m => regarded d m || (usableOf d l m).isSome

/-- The digest and version code of these lanes as lane `l` holds them in this frame, if it holds them all. -/
def heldDigests (d : Dev) (l : Lane) : Option (List (Lane × Nat × Nat)) :=
  let xs := (digestLanes d l).map fun m => (usableOf d l m).map fun r => (m, r.digest, r.fwVersion)
  if xs.all Option.isSome then some (xs.filterMap id) else none

/-- The lane whose value differs from two equal ones. -/
def minorityOf : List (Lane × Nat × Nat) → Option Lane
  | [a, b, c] =>
    if b.2 = c.2 ∧ a.2 ≠ b.2 then some a.1 else if a.2 = c.2 ∧ b.2 ≠ a.2 then some b.1
    else if a.2 = b.2 ∧ c.2 ≠ a.2 then some c.1 else none
  | _ => none

/-- A minority lane enters RELOAD (Table 3-8, R106); the third time within 60 min it stays FAULTED. A lane whose latch is set
is FAULTED through it and not reloaded (R111). -/
def enterReload (d : Dev) (x : Lane) : Dev :=
  if (laneOf d x).latch ∨ laneMode d x ≠ .inService then d
  else
    let ts := ((laneOf d x).reloadTimes.filter fun t => within d 60 t) ++ [d.tb.ext]
    let d := onLane d x fun y => { y with
      reloadTimes := ts, reloadIn := some d.frameNo, reloadChunks := 0, reloadBlocks := 0, reloadTries := 0, staging := none,
      switchAt := none, needImage := false }
    let d := laneFault d x .reload .CONFIG_DIVERGE
    if 3 ≤ ts.length then (setLaneMode d x .faulted).wr .LN_STATUS_REJOIN_LIMIT x.idx 1
    else if d.on .LN_STATUS_REJOIN_LIMIT x.idx then setLaneMode d x .faulted
    else d

/-- The comparison of the digests in lane `l` (R103, Table 3-8): every lane sets the flag and writes the event once per episode; the outcome
is one for all, so what the first lane has applied the others find applied. -/
def compareDigests (d : Dev) (l : Lane) : Dev :=
  if d.mode = .hold ∨ d.mode = .boot then d
  else match heldDigests d l with
    | none => d
    | some xs =>
      match xs with
      | [] => d
      | x :: rest =>
        if rest.all (fun y => decide (y.2 = x.2)) then onLane d l fun z => { z with diverged := false }
        else if (laneOf d l).diverged then d
        else
          let d := (onLane d l fun z => { z with diverged := true }).flag .LN_STATUS_CONFIG_DIVERGE l.idx
          let d := d.event .CONFIG_DIVERGE (srcLane l)
          match xs with
          | [_, _, _] =>
            match minorityOf xs with
            | some m => enterReload d m
            | none => stopAll d 0x04
          | [_, _] => stopAll d 0x04
          | _ => d

/-- The comparison falls in frame 2m+2, or in 2m+3 if a record was missing there (R103). -/
def digestStep (d : Dev) (l : Lane) : Dev :=
  if d.frameNo % 2 = 0 then
    compareDigests (onLane d l fun x => { x with spoiled := (heldDigests d l).isNone }) l
  else if (laneOf d l).spoiled then compareDigests (onLane d l fun x => { x with spoiled := false }) l
  else d

/-- Lane `l` was in service at this frame's tick and its cores run. -/
def tookPart (d : Dev) (l : Lane) : Bool :=
  !(laneOf d l).latch && (inService d l || ((laneOf d l).frames.get l).any fun r => decide (r.laneState = 5))

/-- The agreed values of lane `l` from the valid records it holds, its own included, and the comparison of the digests (R84,
R90, R103). The triggers of an arbitration are those of this frame. -/
def agreeValues (d : Dev) (l : Lane) : Dev :=
  let d := onLane d l fun x => { x with agreedNow := true, arb := { x.arb with held := 0 } }
  let d := judgeLinks (d.reach 2500) l
  let rs := countedRecords d l
  let d := onLane d l fun x => { x with agreed := agreedOf d l rs, seen := seenMask d l }
  if inService d l then digestStep (judgeOutliers d l rs) l else if tookPart d l then digestStep d l else d

/-- The verdicts of frame a+2 are kept for an outcome applied later (R96). -/
def keepVerdicts (n : Nat) (x : LaneState) : ArbState :=
  if x.arb.phase = 3 ∧ n = (x.arb.frame + 3) % 2 ^ 32 then
    let v := fun (l : Lane) => ((x.frames.get l).filter fun r => decide (r.arbState = 3)).map (·.arbVerdict)
    { x.arb with verdicts := ⟨v .a, v .b, v .c⟩ }
  else x.arb

/-- The lanes' part of a frame tick: records of the frame before are put aside, the contacts are snapshotted, the digest of the last
pass goes into the records of the next two frames, a lane that leaves service at this tick leaves (R23, R84, R102, R115). -/
def laneTick (d : Dev) (l : Lane) (si : Nat × Nat) : Dev :=
  let d := onLane d l fun x => { x with
    arb := keepVerdicts d.frameNo x,
    si := si, framesPrev := x.frames, frames := ⟨none, none, none⟩, pos := ⟨none, none, none⟩,
    results := ⟨none, none, none⟩, arrived := ⟨false, false, false⟩, pairs := ⟨1, 1, 1⟩, evaluated := false, agreedNow := false,
    outFrame := 0, cfgDigest := if d.frameNo % 2 = 0 then x.digestDone else x.cfgDigest,
    decisionPrev := x.decision, tickLost := x.tickLost && decide (x.goodTicks < 15), goodTicks := min 16 (x.goodTicks + 1),
    serviceFr := x.serviceFr + 1 }
  let d := ageFaults d l
  if (laneOf d l).leaveAtTick then
    let d := onLane d l fun x => { x with leaveAtTick := false }
    if inService d l then laneFault d l .faulted .LINK_FAULT else d
  else d

/-! Image digest and switching (R101, R102, R105). -/

/-- CRC-64 of a lane's image (R102). -/
def imageDigest (i : Image) : Nat := crc64Sparse 262144 0 0 i.bytes

/-- DIGEST_PASS: the digest engine of lane `l` completes its pass over the image at 44.96 us of an even frame (R102). -/
def execDigestPass (l : Lane) (s : State) : Host.Outcome State Fault Refusal :=
  s.run fun d =>
    match laneMode d l with
    | .absent | .boot => d
    | _ =>
      if d.tb.ticking ∧ d.frameNo % 2 = 0 then
        let d := d.reach 44960
        let g := imageDigest (laneOf d l).image
        let d := onLane d l fun x => { x with digestDone := g }
        (d.wr .LN_DIGEST_LO_DIGEST l.idx g).wr .LN_DIGEST_HI_DIGEST l.idx (g / 2 ^ 32)
      else d

end Sys2Proof.Machine
end

