-- ==== Sys2Proof/Machine/Separation.lean ====
section
/-!
DEFINITION. The separation monitor, chapter 09: capsule placement and quantisation, person and obstacle volumes, the three distance
algorithms of Table 9-4, the protective separation distance of R287, the reactions of R288, the result record and the vote of
Table 9-8.
-/
namespace Sys2Proof.Machine

/-! Exact distance of two segments (Lane A), and the rounded forms of Lanes B and C (R284, Table 9-4). -/

/-- Difference of points. -/
def v3Sub (a b : V3) : V3 := ⟨a.x - b.x, a.y - b.y, a.z - b.z⟩
/-- Scalar product. -/
def v3Dot (a b : V3) : Int := a.x * b.x + a.y * b.y + a.z * b.z
/-- Multiple. -/
def v3Scale (k : Int) (a : V3) : V3 := ⟨k * a.x, k * a.y, k * a.z⟩
/-- Sum. -/
def v3Add (a b : V3) : V3 := ⟨a.x + b.x, a.y + b.y, a.z + b.z⟩

/-- A ratio limited to 0..1, as numerator and positive denominator. -/
def clampRatio (n dd : Int) : Int × Int :=
  if dd ≤ 0 then (0, 1) else if n < 0 then (0, 1) else if dd < n then (1, 1) else (n, dd)

/-- The parameters of the closest points of two segments, exact rationals: (s, t) as numerator and denominator each. -/
def closestParams (p0 p1 q0 q1 : V3) : (Int × Int) × (Int × Int) :=
  let d1 := v3Sub p1 p0
  let d2 := v3Sub q1 q0
  let r := v3Sub p0 q0
  let a := v3Dot d1 d1
  let e := v3Dot d2 d2
  let f := v3Dot d2 r
  let c := v3Dot d1 r
  let b := v3Dot d1 d2
  if a = 0 ∧ e = 0 then ((0, 1), (0, 1))
  else if a = 0 then ((0, 1), clampRatio f e)
  else if e = 0 then (clampRatio (-c) a, (0, 1))
  else
    let s := clampRatio (b * f - c * e) (a * e - b * b)
    let tn := b * s.1 + f * s.2
    let td := e * s.2
    if tn < 0 then (clampRatio (-c) a, (0, 1))
    else if td < tn then (clampRatio (b - c) a, (1, 1))
    else (s, (tn, td))

/-- Floor of the distance of the points at parameters `s` and `t`. -/
def floorDistAt (p0 p1 q0 q1 : V3) (s t : Int × Int) : Int :=
  let d1 := v3Sub p1 p0
  let d2 := v3Sub q1 q0
  let n := v3Sub (v3Add (v3Scale (s.2 * t.2) (v3Sub p0 q0)) (v3Scale (s.1 * t.2) d1)) (v3Scale (t.1 * s.2) d2)
  let dd := s.2 * t.2
  isqrt (v3Dot n n / (dd * dd)).toNat

/-- A result is reported down to -65,535 mm (R284). -/
def distFloor (d : Int) : Int := max d (-65535)

/-- Lane A: exact closest points, distance rounded down. -/
def distA (a b : CapsuleMm) : Int :=
  let p := closestParams a.p0 a.p1 b.p0 b.p1
  distFloor (floorDistAt a.p0 a.p1 b.p0 b.p1 p.1 p.2 - a.r - b.r)

/-- A parameter rounded to uQ1.20, each from its exact value, halves up (the order and the ties: DESIGN CHOICE, log 117). -/
def roundParam (p : Int × Int) : Int × Int := (roundDiv (p.1 * 2 ^ 20) p.2.toNat, 2 ^ 20)

/-- Lane C: parameters rounded to uQ1.20, 1 mm subtracted. -/
def distC (a b : CapsuleMm) : Int :=
  let p := closestParams a.p0 a.p1 b.p0 b.p1
  distFloor (floorDistAt a.p0 a.p1 b.p0 b.p1 (roundParam p.1) (roundParam p.2) - 1 - a.r - b.r)

/-- Smallest `n` up to 16 with 16 n not below the length whose square is `l2`. -/
def partsOf (l2 : Nat) : Nat :=
  ((List.range 16).find? fun i => decide (l2 ≤ (16 * (i + 1)) * (16 * (i + 1)))).elim 16 (· + 1)

/-- Smallest `k` with k ≥ √(num/den) + √3/2, for `num`, `den` positive: 4·den·(k − √3/2)² ≥ 4·num. -/
def ceilRootPlus (num den : Nat) : Nat :=
  let k0 := isqrt (num / den)
  let fits := fun (k : Nat) =>
    let x : Int := 4 * den * k * k - 4 * num - 3 * den
    decide (0 ≤ x ∧ 48 * (num : Int) * den ≤ x * x)
  if fits k0 then k0 else if fits (k0 + 1) then k0 + 1 else k0 + 2

/-- The spheres of a capsule, 1/16 mm: centres at the parts' midpoints rounded to nearest, radii rounded up (Table 9-4, B). -/
def spheresOf (c : CapsuleMm) : List (V3 × Int) :=
  let dd := v3Sub c.p1 c.p0
  let l2 := (v3Dot dd dd).toNat
  let n := partsOf l2
  let rad := 16 * c.r + ceilRootPlus (64 * l2) (n * n)
  (List.range n).map fun i =>
    let at' := fun (p q : Int) => 16 * p + roundDiv (8 * (2 * (i : Int) + 1) * q) n
    (⟨at' c.p0.x dd.x, at' c.p0.y dd.y, at' c.p0.z dd.z⟩, rad)

/-- Lane B: smallest sphere bound, rounded down. -/
def distB (a b : CapsuleMm) : Int :=
  let sb := spheresOf b
  let all := (spheresOf a).flatMap fun s => sb.map fun t =>
    let v := v3Sub s.1 t.1
    floorDiv ((isqrt (v3Dot v v).toNat : Int) - s.2 - t.2) 16
  distFloor (all.foldl min 0x7FFFFFFF)

/-- The distance algorithm of a lane (Table 9-4). -/
def distLane : Lane → CapsuleMm → CapsuleMm → Int
  | .a => distA
  | .b => distB
  | .c => distC

/-- Point `p` with radius `r` lies inside capsule `e`. -/
def insidePoint (e : CapsuleMm) (p : V3) (r : Int) : Bool :=
  let s := closestParams p p e.p0 e.p1
  let dd := v3Sub e.p1 e.p0
  let n := v3Sub (v3Scale s.2.2 (v3Sub p e.p0)) (v3Scale s.2.1 dd)
  decide (0 ≤ e.r - r ∧ v3Dot n n ≤ (e.r - r) * (e.r - r) * (s.2.2 * s.2.2))

/-- Capsule `c` lies inside envelope `e` (R281). -/
def insideCapsule (e c : CapsuleMm) : Bool := insidePoint e c.p0 c.r && insidePoint e c.p1 c.r

/-! Volumes (R275 to R277). -/

/-- A signed 16-bit value of a payload. -/
def s16At (bs : List Byte) (i : Nat) : Int := signedOf 16 (natLE ((bs.drop i).take 2))

/-- Entry `i` of a sensor payload (Table 9-2), PRESENT or not; an entry not below COUNT is absent (R276). -/
def volumeEntry (bs : List Byte) (i : Nat) : Option Volume :=
  let o := 4 + 20 * i
  let f := (bs.getD o 0).toNat
  if i < (bs.getD 0 0).toNat then
    some { present := f.testBit 0
           obstacle := f.testBit 1
           speed := if f.testBit 2 then some (natLE ((bs.drop (o + 16)).take 2)) else none
           shape := { p0 := ⟨s16At bs (o + 4), s16At bs (o + 6), s16At bs (o + 8)⟩
                      p1 := ⟨s16At bs (o + 10), s16At bs (o + 12), s16At bs (o + 14)⟩
                      r := natLE ((bs.drop (o + 2)).take 2) } }
  else none

/-- A copy of an entry holds a present volume. -/
def isPresent (v : Option Volume) : Bool := v.any (·.present)

/-- Square of a volume's length. -/
def volumeLen2 (v : Volume) : Int := let w := v3Sub v.shape.p1 v.shape.p0; v3Dot w w

/-- Two copies of an entry agree: both absent, or every endpoint and the radius within the tolerance (R276). -/
def volumesAgree (tol : Int) : Option Volume → Option Volume → Bool
  | none, none => true
  | some a, some b =>
    let near := fun (p q : V3) => let w := v3Sub p q; decide (v3Dot w w ≤ tol * tol)
    near a.shape.p0 b.shape.p0 && near a.shape.p1 b.shape.p1 && decide ((a.shape.r - b.shape.r).natAbs ≤ tol)
  | _, _ => false

/-- The combined entry of agreeing copies, first in lane order (R276). It is an obstacle only if every present copy says so (DESIGN CHOICE,
log 117). -/
def combine (tol : Int) (vs : List (Option Volume)) : Volume :=
  let ws := vs.filterMap id
  let first := ws.headD {}
  let r := ws.foldl (fun m v => max m v.shape.r) 0
  let sp := ws.foldl (fun (m : Option Nat) v => match m, v.speed with
    | some x, some y => some (max x y)
    | none, y => y
    | x, none => x) none
  if vs.any isPresent then
    { first with present := true, speed := sp, obstacle := ws.all (fun v => v.obstacle || !v.present)
                 shape := { first.shape with r := r + tol } }
  else {}

/-- The agreeing copies of an entry and the lanes outside them, or none for a fallback (R276). A copy agrees if it agrees with some other
copy (where only two of three pairs agree: DESIGN CHOICE, log 117); copies that all have PRESENT clear agree. -/
def agreeing (tol : Int) (cs : List (Lane × Option Volume)) : Option (List (Option Volume) × List Lane) :=
  if cs.all fun p => !isPresent p.2 then some (cs.map (·.2), [])
  else
    let joins := fun (p : Lane × Option Volume) => cs.any fun q => decide (q.1 ≠ p.1) && volumesAgree tol p.2 q.2
    match cs.filter joins with
    | [] => none
    | ps => some (ps.map (·.2), (cs.filter fun p => !joins p).map (·.1))

/-- The fallback volume of a sensor: its envelope, a present person (R277). -/
def fallbackVolume (c : SensorCfg) : Volume := { present := true, fallback := true, shape := c.env }

/-- The sensor's whole payload gives way to one fallback volume (R277). A COUNT above SLOT_CNT or a volume above VOL_LMAX in any available copy
does it (which copy: DESIGN CHOICE, log 117). -/
def wholeFallback (c : SensorCfg) (copies : List (Lane × List Byte)) : Bool :=
  let healthy := copies.filter fun p => (p.2.getD 1 0).toNat.testBit 0
  let badCount := copies.any fun p => decide (c.slotCnt < (p.2.getD 0 0).toNat)
  let tooLong := copies.any fun p => (List.range c.slotCnt).any fun i => (volumeEntry p.2 i).any fun v =>
    v.present && decide ((c.volLmax : Int) * c.volLmax < volumeLen2 v)
  decide (copies.length < 2) || decide (healthy.length < 2) || badCount || tooLong

/-- The volumes of one sensor by slot, whether a fallback took part, and for each slot the lanes outside the agreeing copies of three
(R276, R277). -/
def sensorVolumes (ag : Agreed) (c : SensorCfg) : List (Nat × Volume) × Bool × List (Nat × List Lane) :=
  let copies := SMap.get [] ag.nodes c.node
  let is := List.range c.slotCnt
  if wholeFallback c copies then
    (is.map (fun i => (c.slotBase + i, if i = 0 then fallbackVolume c else {})), true, is.map fun i => (c.slotBase + i, []))
  else
    let one := fun (i : Nat) =>
      match agreeing c.volTol (copies.map fun p => (p.1, volumeEntry p.2 i)) with
      | some (vs, out) => (combine c.volTol vs, false, if copies.length = 3 then out else [])
      | none => (fallbackVolume c, true, [])
    (is.map fun i => (c.slotBase + i, (one i).1), is.any fun i => (one i).2.1, is.map fun i => (c.slotBase + i, (one i).2.2))

/-! Capsules (R272 to R274, R280). -/

/-- The joint values of an arm from a position table, if every joint has one. -/
def armCounts (m : ArmModel) (ps : SMap (Option Int)) : Option (List (Nat × Int)) :=
  let xs := m.joints.map fun j => (SMap.get none ps j.jointNo).map fun v => (j.jointNo, v)
  if xs.all Option.isSome then some (xs.filterMap id) else none

/-- The frames of an arm at these counts. -/
def framesAt (m : ArmModel) (cs : List (Nat × Int)) : List Frame3 :=
  armFrames m ((m.joints.zip cs).map fun p => jointValue p.1 (f64OfInt p.2.2))

/-- A point given in um in link frame `link` (255 the base), in mm in the cell frame. -/
def placePoint (fs : List Frame3) (link : Nat) (p : V3) : P3 :=
  let f := fs.getD (if link = 255 then 0 else link + 1) (frameOfVector ⟨f64Zero, f64Zero, f64Zero⟩ ⟨f64Zero, f64Zero, f64Zero⟩)
  let mm := fun (v : Int) => f64Div (f64OfInt v) (f64OfInt 1000)
  framePoint f ⟨mm p.x, mm p.y, mm p.z⟩

/-- Quantise a placed point (R274). -/
def quantPoint (p : P3) : V3 := ⟨f64RoundAway p.x, f64RoundAway p.y, f64RoundAway p.z⟩

/-- Quantised radius of a capsule entry (R274). -/
def quantRadius (c : CapsuleCfg) : Int := ceilDiv (c.radiusUm + 1000 * c.inflMm) 1000 + 1

/-- A capsule placed for a pass. -/
structure Placed where
  ix : Nat
  arm : Nat
  shape : CapsuleMm
  speed : Int
  deriving DecidableEq, Repr

/-- Speed of an endpoint between two placements one frame apart, whole mm/s rounded up (R280). -/
def pointSpeed (frameNs : Nat) (a b : P3) : Int :=
  f64Ceil (f64Div (p3Norm (p3Sub b a)) (f64OfRatio frameNs 1000000000))

/-- What a lane knows of an arm in a pass: the positions its capsules are placed at, those of the frame before if agreed, and
whether it is STALE with its age in frames (R279). -/
structure ArmPlace where
  now : Option (List (Nat × Int))
  before : Option (List (Nat × Int))
  stale : Bool
  age : Option Nat
  deriving DecidableEq, Repr

/-- Placement data of arm `a` for the pass that starts now (R279, R294). While its age is unbounded the arm is not placed: no position of
it is known (DESIGN CHOICE, log 117). -/
def armPlace (x : LaneState) (a : Nat) (m : ArmModel) : ArmPlace :=
  let st := SMap.get {} x.saf.arms a
  let now := armCounts m (x.agreed.positions.getD 0 [])
  let bef := armCounts m (x.agreed.positions.getD 1 [])
  match now, bef, st.age with
  | some p, some q, _ => ⟨some p, some q, false, some 0⟩
  | some p, none, some _ => ⟨some p, none, false, some 0⟩
  | some _, none, none => ⟨none, none, true, none⟩
  | none, some q, some _ => ⟨some q, none, true, some 1⟩
  | none, none, some n => ⟨if st.lastPos = [] then none else some st.lastPos, none, true, some (n + 2)⟩
  | none, _, none => ⟨none, none, true, none⟩

/-- The used capsules of an arm, placed and quantised (R273, R274, R279, R280). -/
def placeArm (frameNs : Nat) (cfg : SafetyConfig) (a : Nat) (m : ArmModel) (pl : ArmPlace) : List Placed :=
  let ac := SMap.get {} cfg.arms a
  match pl.now with
  | none => []
  | some cs =>
    let fs := framesAt m cs
    let fb := pl.before.map (framesAt m)
    let grow : Int := match pl.stale, pl.age with
      | true, some n => ceilDiv (ac.vArmMax * n * frameNs) 1000000000
      | _, _ => 0
    cfg.capsules.filterMap fun e =>
      let c := e.2
      if c.used ∧ c.arm = a then
        let p0 := placePoint fs c.link c.p0
        let p1 := placePoint fs c.link c.p1
        let sp : Int := match pl.stale, fb with
          | false, some f => max (pointSpeed frameNs (placePoint f c.link c.p0) p0)
              (pointSpeed frameNs (placePoint f c.link c.p1) p1)
          | _, _ => ac.vArmMax
        some { ix := e.1, arm := a, shape := { p0 := quantPoint p0, p1 := quantPoint p1, r := quantRadius c + grow },
               speed := sp }
      else none

/-! Protective separation distance (R287), in FP64. -/

/-- mm/s or mm as FP64. -/
def fI (n : Int) : F64 := f64OfInt n
/-- Milliseconds in seconds. -/
def fMs (n : Nat) : F64 := f64OfRatio n 1000

/-- T_r of an arm pair: 6 T_F in seconds. -/
def sixFrames (frameNs : Nat) : F64 := f64OfRatio (6 * frameNs) 1000000000

/-- v', S_r, T_s and S_s of an arm at capsule speed `v` and reaction time `tr`. -/
def armTerms (ac : ArmCfg) (v : Int) (tr : F64) : F64 × F64 × F64 × F64 :=
  let v' := f64Add (fI v) (f64Mul (fI ac.aR) tr)
  let sr := f64Add (f64Mul (fI v) tr) (f64Mul (f64Mul (f64OfRatio ac.aR 2) tr) tr)
  let ts := f64Add (fMs ac.tsCMs) (f64Div v' (fI ac.dS))
  let ss := f64Add (f64Mul v' (fMs ac.tsCMs)) (f64Div (f64Mul v' v') (f64Mul (fI 2) (fI ac.dS)))
  (v', sr, ts, ss)

/-- v_h of a volume (R287). -/
def humanSpeed (cfg : SafetyConfig) (v : Volume) : Nat :=
  let s := v.speed.getD 0
  if v.obstacle then max cfg.vObsMin s else max cfg.vHMin s

/-- S_p of a person or obstacle pair, whole mm rounded up. -/
def spVolume (frameNs : Nat) (cfg : SafetyConfig) (ac : ArmCfg) (sc : SensorCfg) (v : Int) (vol : Volume) : Int :=
  let tr := f64Add (fMs sc.tSensMs) (sixFrames frameNs)
  let t := armTerms ac v tr
  let sh := f64Mul (fI (humanSpeed cfg vol)) (f64Add tr t.2.2.1)
  let c : Int := if vol.obstacle then 0 else sc.cMm
  f64Ceil (f64Add (f64Add (f64Add (f64Add (f64Add sh t.2.1) t.2.2.2) (fI c)) (fI sc.zD)) (fI ac.zR))

/-- S_p of an arm pair. -/
def spArms (frameNs : Nat) (a b : ArmCfg) (va vb : Int) : Int :=
  let tr := sixFrames frameNs
  let x := armTerms a va tr
  let y := armTerms b vb tr
  f64Ceil (f64Add (f64Add (f64Add (f64Add (f64Add x.2.1 x.2.2.2) y.2.1) y.2.2.2) (fI a.zR)) (fI b.zR))

/-- One evaluated pair as an arm sees it. -/
structure PairOut where
  pair : Nat
  dist : Int
  sp : Int
  armPair : Bool
  fallback : Bool
  deriving DecidableEq, Repr

/-- An arm pair is excluded (R282). -/
def excludedPair (cfg : SafetyConfig) (a b : Nat) : Bool :=
  cfg.excluded.contains (a, b) || cfg.excluded.contains (b, a)

/-- The pairs of arm `a` in a pass, with distance and S_p (R282, R284, R287). -/
def pairsOf (l : Lane) (frameNs : Nat) (cfg : SafetyConfig) (caps : List Placed) (vols : SMap Volume) (a : Nat) :
    List PairOut :=
  let ac := SMap.get {} cfg.arms a
  let mine := caps.filter fun c => decide (c.arm = a)
  let person := cfg.sensors.flatMap fun s => (List.range s.2.slotCnt).flatMap fun i =>
    let slot := s.2.slotBase + i
    let v := SMap.get {} vols slot
    if v.present then mine.map fun c =>
        { pair := 0x8000 + 32 * c.ix + slot, dist := distLane l c.shape v.shape,
          sp := spVolume frameNs cfg ac s.2 c.speed v, armPair := false, fallback := v.fallback }
    else []
  let arms := mine.flatMap fun c => caps.filterMap fun o =>
    if o.arm = a ∨ excludedPair cfg a o.arm then none
    else
      let lo := if c.ix < o.ix then c else o
      let hi := if c.ix < o.ix then o else c
      let ca := SMap.get {} cfg.arms lo.arm
      let cb := SMap.get {} cfg.arms hi.arm
      some { pair := 144 * lo.ix + hi.ix, dist := distLane l lo.shape hi.shape,
             sp := spArms frameNs ca cb lo.speed hi.speed, armPair := true, fallback := false }
  person ++ arms

/-- The reaction of one pair (Table 9-7); a negative margin stops the arm whatever WARN_MM and HYST_MM are. -/
def pairReaction (ac : ArmCfg) (reduced : Bool) (p : PairOut) : Nat :=
  let m := p.dist - p.sp
  if m < 0 then (if ac.sepSs2 then 2 else 3)
  else if (ac.warnMm : Int) ≤ m ∨ (reduced ∧ (ac.warnMm : Int) - ac.hystMm ≤ m) then 0
  else 1

/-- The critical pair: smallest distance, then smaller index (R288). -/
def criticalPair (ps : List PairOut) : Option PairOut :=
  ps.foldl (fun best p => match best with
    | none => some p
    | some q => if p.dist < q.dist ∨ (p.dist = q.dist ∧ p.pair < q.pair) then some p else some q) none

/-- The result of arm `a` and its new hysteresis state (R288, R289). -/
def armResult (cfg : SafetyConfig) (a : Nat) (st : ArmSep) (pl : ArmPlace) (exit : Bool) (ps : List PairOut) :
    ArmResult × ArmSep :=
  let ac := SMap.get {} cfg.arms a
  let base := ps.foldl (fun r p => max r (pairReaction ac st.reduced p)) 0
  let staleStop := pl.stale && (match pl.age with
    | some n => decide (8 < n)
    | none => true)
  let raw := if exit ∨ staleStop then 3 else base
  let clear := decide (raw < 2) && ps.all fun p => decide ((ac.warnMm : Int) + ac.hystMm ≤ p.dist - p.sp)
  let run := if clear then min 16 (st.clearRun + 1) else 0
  let held := if 2 ≤ raw then max raw st.stopHeld else if run < 16 then st.stopHeld else 0
  let reaction := max raw held
  let crit := criticalPair ps
  let flags := bitOf pl.stale + 2 * bitOf exit + 4 * bitOf (ps.any (·.fallback)) +
    8 * bitOf (match crit with
      | some p => p.armPair
      | none => false)
  let res : ArmResult := match crit with
    | some p => { dMin := p.dist, sp := p.sp.toNat, pair := p.pair, reaction := reaction, flags := flags }
    | none => { reaction := reaction, flags := flags }
  (res, { st with
    stopHeld := held, clearRun := if held = 0 then 0 else run, reduced := decide (reaction = 1), age := pl.age
    lastPos := match pl.now with
      | some p => p
      | none => st.lastPos })

/-- The number of pairs the configuration implies (R282), and of used capsules. -/
def pairCount (cfg : SafetyConfig) : Nat :=
  let used := (cfg.capsules.filter fun e => e.2.used).map fun e => e.2.arm
  let slots := cfg.sensors.foldl (fun n s => n + s.2.slotCnt) 0
  let rec arms : List Nat → Nat
    | [] => 0
    | a :: as => (as.filter fun b => decide (a ≠ b) && !excludedPair cfg a b).length + arms as
  used.length * slots + arms used

/-- The separation monitors run in Standstill, Run and Degraded (R294). -/
def monitorsRun (d : Dev) : Bool :=
  match d.mode with
  | .standstill | .run | .degraded => true
  | .boot | .hold | .safeState => false

/-- Note a sensor's fallback: the flag and the event once per episode of at least 16 passes without (R277). -/
def noteFallback (d : Dev) (l : Lane) (i : Nat) (node : Nat) (fell : Bool) : Dev :=
  let run := SMap.get 16 (laneOf d l).saf.fallbackRun i
  let run' := if fell then 0 else min 16 (run + 1)
  let d := onSaf d l fun x => { x with fallbackRun := SMap.set 16 x.fallbackRun i run' }
  if fell then
    let d := d.flag .COM_STATUS_SENSOR_FALLBACK
    d.when (decide (run = 16) && decide (l = d.firstLane)) fun d => d.event .SENSOR_FALLBACK srcSeparation node
  else d

/-- Show the combined volumes (Table 9-13); a slot of no sensor shows node 0xFF and no volume. -/
def showVolumes (d : Dev) (cfg : SafetyConfig) (vols : SMap Volume) : Dev :=
  d.each (List.range 32) fun d k =>
    let owner := cfg.sensors.find? fun s => decide (s.2.slotBase ≤ k ∧ k < s.2.slotBase + s.2.slotCnt)
    let v := SMap.get {} vols k
    ((((d.wr .COM_VOL_PRESENT k (bitOf v.present)).wr .COM_VOL_FALLBACK k (bitOf v.fallback)).wr .COM_VOL_OBSTACLE k
      (bitOf (v.present && v.obstacle))).wr .COM_VOL_SENSOR k (owner.elim 0xFF (·.2.node))).wr .COM_VOL_V_MMS k
        (if v.present then humanSpeed cfg v else 0)

/-- Show the pairs and the used capsules of a configuration (COM_PAIRS, R282). -/
def showPairs (d : Dev) (cfg : SafetyConfig) : Dev :=
  (d.put .COM_PAIRS_COUNT (pairCount cfg)).put .COM_PAIRS_CAPSULES (min 63 (cfg.capsules.filter fun e => e.2.used).length)

/-- At a tick: the frames that lie in a mode in which the monitors run, and in the frame period, to 4 (R294). Monitors that begin, or do not
run, hold no reaction and no placement (DESIGN CHOICE, log 118). -/
def sepTick (d : Dev) : Dev :=
  let n := if monitorsRun d then min 4 (d.monitorFr + 1) else 0
  let d := { d with monitorFr := n }
  if 2 ≤ n then d else d.each Lane.all fun d l => onSaf d l fun x => { x with arms := [], noResultRun := 0 }

/-- Put an arm's new separation state into the table; what the vote keeps stays. -/
def keepVote (m : SMap ArmSep) (a : Nat) (new : ArmSep) (stale : Bool) : SMap ArmSep :=
  SMap.modify {} m a fun old => { new with staleEpisode := stale, voted := old.voted, capped := old.capped, outlierRun := old.outlierRun }

/-- Start pass k in lane `l` (R285, stages 1 to 3 worked out on the agreed data of frame 2k−1): volumes, placement, envelope
checks, pairs, reactions, and the record that SEP_PASS_END sends. -/
def startPass (d : Dev) (l : Lane) : Dev :=
  let x := laneOf d l
  let cfg := x.image.params
  let tf := d.frameNs
  let sv := cfg.sensors.map fun s => (s, sensorVolumes x.agreed s.2)
  let vols := sv.foldl (fun m p => p.2.1.foldl (fun m q => SMap.set {} m q.1 q.2) m) []
  let places := cfg.armModels.map fun p => (p.1, p.2, armPlace x p.1 p.2)
  let caps := places.flatMap fun p => placeArm tf cfg p.1 p.2.1 p.2.2
  let far := fun (c : CapsuleMm) => [c.p0, c.p1].any fun p =>
    decide (32767 < p.x.natAbs) || decide (32767 < p.y.natAbs) || decide (32767 < p.z.natAbs)
  let armExit := fun (a : Nat) => (caps.filter fun c => decide (c.arm = a)).any fun c =>
    far c.shape || !insideCapsule (SMap.get {} cfg.arms a).env c.shape
  let volExit := fun (s : SensorCfg) => (List.range s.slotCnt).any fun i =>
    let v := SMap.get {} vols (s.slotBase + i)
    v.present && !insideCapsule s.env v.shape
  let leaving := cfg.sensors.filter fun s => volExit s.2
  let armHit := fun (a : Nat) => leaving.any fun s => (caps.filter fun c => decide (c.arm = a)).any fun c =>
    decide (distA c.shape s.2.env ≤ s.2.volTol)
  let outs := places.map fun p =>
    let r := armResult cfg p.1 (SMap.get {} x.saf.arms p.1) p.2.2 (armExit p.1 || armHit p.1)
      (pairsOf l tf cfg caps vols p.1)
    (p.1, p.2.2, r)
  let k := d.frameNo / 2
  let record : ResultRecord := {
    laneId := laneId l, status := 0, frameNo := (d.frameNo + 2) % 2 ^ 32, passNo := k,
    pairsDone := pairCount cfg, arms := (outs.map fun o => (o.1, o.2.2.1)).filter fun p => decide (p.2 ≠ {}) }
  let d := onLane d l fun y => { y with
    sepPass := k, sepResult := some record, sepDone := true
    saf := { y.saf with volumes := vols, arms := outs.foldl (fun m o => keepVote m o.1 o.2.2.2 o.2.1.stale) y.saf.arms } }
  let first := decide (l = d.firstLane)
  let d := d.each sv fun d p =>
    let d := noteFallback d l p.1.1 p.1.2.node p.2.2.1
    d.each p.2.2.2 fun d q => noteOutliers d l (itemVolume q.1) 3 q.2
  let d := d.each outs fun d o =>
    let was := (SMap.get {} x.saf.arms o.1).staleEpisode
    let d := d.when o.2.1.stale fun d => d.flag .COM_STATUS_ARM_STALE
    let d := d.when (o.2.1.stale && !was && first) fun d => d.event .ARM_STALE srcSeparation o.1
    if o.2.2.1.flags.testBit 1 then
      (d.flag .COM_STATUS_ENVELOPE_EXIT).when first fun d => d.event .ENVELOPE_EXIT srcSeparation o.1
    else d
  let d := d.each leaving fun d s => (d.flag .COM_STATUS_ENVELOPE_EXIT).when (first && !(places.any fun p => armHit p.1)) fun d =>
    d.event .ENVELOPE_EXIT srcSeparation s.2.node
  if first then showVolumes d cfg vols else d

/-- SEP_PASS_START: pass k begins in lane `l` at 4.0 us of frame 2k (R33, R285). Outside Standstill, Run and Degraded no pass is
computed; the first is the one whose frame 2k−1 lies in the mode and the period (R294). -/
def execSepPassStart (l : Lane) (s : State) : Host.Outcome State Fault Refusal :=
  s.run fun d =>
    if d.tb.ticking ∧ d.frameNo % 2 = 0 ∧ exchanges d l then
      let d := (d.reach 4000).put .COM_STATUS_ACTIVE (bitOf (monitorsRun d))
      if monitorsRun d ∧ 2 ≤ d.monitorFr then startPass d l
      else onLane d l fun x => { x with sepPass := d.frameNo / 2, sepResult := none, sepDone := false }
    else d

/-- SEP_PASS_END: at 4.0 us of frame 2k+2 lane `l` sends its result record; `done` pairs short of the pass's pairs are an
overrun, the second in a row sets the fault latch (R285). The record of an overrun carries no arm's result (DESIGN CHOICE, log 117). -/
def execSepPassEnd (l : Lane) (complete : Bool) (done : Nat) (s : State) : Host.Outcome State Fault Refusal :=
  s.run fun d =>
    if d.tb.ticking ∧ d.frameNo % 2 = 0 ∧ exchanges d l then
      let d := d.reach 4000
      let x := laneOf d l
      let send := fun (d : Dev) (r : ResultRecord) =>
        ((onLane d l fun y => { y with results := y.results.set l (some r), sepResult := none, sepDone := false }).wr
          .COM_LANE_LAST_STATUS l.idx r.status).emit (.resultRecord l r (resultBytes r))
      match x.sepResult with
      | some r =>
        if complete then send (onLane d l fun y => { y with sepOverruns := 0 }) { r with frameNo := d.frameNo }
        else
          let d := send d { r with status := 1, frameNo := d.frameNo, pairsDone := done, arms := [] }
          let d := (d.inc .COM_LANE_OVERRUN_CNT l.idx).flag .COM_STATUS_COM_OVERRUN
          let d := (onLane d l fun y => { y with sepOverruns := y.sepOverruns + 1 }).event .COM_OVERRUN (srcLane l)
          if 2 ≤ (laneOf d l).sepOverruns then setLatch d l .COM_FAULT else d
      | none => send d { laneId := laneId l, status := 2, frameNo := d.frameNo, passNo := x.sepPass, pairsDone := 0, arms := [] }
    else d

/-! The vote (R290 to R292). -/

/-- The results that count in lane `l` (R290): valid, complete, sender in IN_SERVICE at the frame's tick and voting, without an
overrun (R119). -/
def countedResults (d : Dev) (l : Lane) : List (Lane × ResultRecord) :=
  (Lane.all.filterMap fun m => ((laneOf d l).results.get m).map fun r => (m, r)).filter fun p =>
    decide (p.2.status = 0) && !(removedSuspects d).contains p.1 &&
      match (laneOf d l).frames.get p.1 with
      | some r => usable r
      | none => regarded d p.1

/-- The vote of one arm (Table 9-8). -/
structure ArmVote where
  dist : Option Int
  by' : Option Lane
  reaction : Nat
  split : Bool
  agree : List Lane
  outlier : Option Lane
  deriving DecidableEq, Repr

/-- Result of arm `a` in a record. -/
def resultOf (r : ResultRecord) (a : Nat) : ArmResult := SMap.get {} r.arms a

/-- The lane with the smallest distance among these, first in lane order. -/
def smallestOf (xs : List (Lane × ArmResult)) : Option (Lane × ArmResult) :=
  xs.foldl (fun b p => match b with
    | none => some p
    | some q => if p.2.dMin < q.2.dMin then some p else some q) none

/-- The most restrictive reaction. -/
def worst (xs : List (Lane × ArmResult)) : Nat := xs.foldl (fun m p => max m p.2.reaction) 0

/-- Table 9-8 for one arm with vote tolerance `tol`; `second` is whether one result only also counted in the pass before. -/
def voteArm (tol : Int) (second : Bool) (xs : List (Lane × ArmResult)) : ArmVote :=
  let near := fun (p q : Lane × ArmResult) => decide ((p.2.dMin - q.2.dMin).natAbs ≤ tol)
  let of := fun (ys : List (Lane × ArmResult)) (r : Nat) (split : Bool) (ag : List (Lane × ArmResult)) (out : Option Lane) =>
    let m := smallestOf ys
    { dist := m.map (·.2.dMin), by' := m.map (·.1), reaction := r, split := split, agree := ag.map (·.1), outlier := out :
      ArmVote }
  match xs with
  | [x, y, z] =>
    let xy := near x y
    let xz := near x z
    let yz := near y z
    if (xy && xz) || (xy && yz) || (xz && yz) then of xs (worst xs) false xs none
    else if xy then of [x, y] (worst [x, y]) false [x, y] (some z.1)
    else if xz then of [x, z] (worst [x, z]) false [x, z] (some y.1)
    else if yz then of [y, z] (worst [y, z]) false [y, z] (some x.1)
    else of xs 3 true [] none
  | [x, y] => if near x y then of xs (worst xs) false xs none else of xs 3 true [] none
  | [x] => of xs (if second then 3 else x.2.reaction) false xs none
  | _ => { dist := none, by' := none, reaction := 3, split := false, agree := [], outlier := none }

/-- The lane whose distance lies furthest from the median, the later one on a tie (R291). -/
def furthest (xs : List (Lane × ArmResult)) : Option Lane :=
  match xs with
  | [x, y, z] =>
    let m := medianInt x.2.dMin y.2.dMin z.2.dMin
    let f := fun (p : Lane × ArmResult) => (p.2.dMin - m).natAbs
    some (if f x ≤ f z ∧ f y ≤ f z then z.1 else if f x ≤ f y then y.1 else x.1)
  | _ => none

/-- Name a suspect for arbitration in lane `l` (R96). -/
def nameSuspect (d : Dev) (l m : Lane) : Dev :=
  onLane d l fun x => { x with arb := { x.arb with held := setBit x.arb.held m.idx true } }

/-- The speed reduction acts beside a voted stop if a result that counts for the vote asks for it (Table 9-10, R292). -/
def reduces (v : ArmVote) (xs : List (Lane × ArmResult)) : Bool :=
  decide (v.reaction = 1) || (decide (2 ≤ v.reaction) && xs.any fun q => decide (v.outlier ≠ some q.1 ∧ q.2.reaction = 1))

/-- Count a lane's passes as an outlier, a pass once whatever the number of arms (COM_LANEx.OUTLIER_CNT, R291). -/
def countPassOutliers (d : Dev) (vs : List ArmVote) : Dev :=
  d.each (Lane.all.filter fun m => vs.any fun v => decide (v.outlier = some m)) fun d m => d.inc .COM_LANE_OUTLIER_CNT m.idx

/-- The vote of pass k for every arm in lane `l` (R290, R291); the first lane in service shows the result (Tables 9-11, 9-12). A single
result agrees with itself in AGREE (DESIGN CHOICE, log 117). -/
def votePass (d : Dev) (l : Lane) : Dev :=
  let x := laneOf d l
  let cfg := x.image.params
  let rs := countedResults d l
  let second := decide (0 < x.saf.noResultRun)
  let first := decide (l = d.firstLane)
  let d := onSaf d l fun y => { y with noResultRun := if rs.length = 1 then y.noResultRun + 1 else 0 }
  let d := if first then
      let d := d.put .COM_PASS_NO x.sepPass
      d.each Lane.all fun d m => match x.results.get m with
        | some r => d.wr .COM_LANE_LAST_STATUS m.idx r.status
        | none => d.wr .COM_LANE_LAST_STATUS m.idx 3
    else d
  let voteOf := fun (a : Nat) => voteArm cfg.tolMm second (rs.map fun r => (r.1, resultOf r.2 a))
  let d := d.when first fun d => countPassOutliers d (cfg.armModels.map fun p => voteOf p.1)
  let d := d.each cfg.armModels fun d p =>
    let a := p.1
    let xs := rs.map fun r => (r.1, resultOf r.2 a)
    let v := voteOf a
    let old := SMap.get {} (laneOf d l).saf.arms a
    let runs : PerLane Nat := Lane.all.foldl (fun q m => q.set m
      (if v.outlier = some m then min 8 (old.outlierRun.get m + 1) else 0)) old.outlierRun
    let d := onSaf d l fun y => { y with arms := SMap.modify {} y.arms a fun z =>
      { z with voted := v.reaction, capped := reduces v xs, outlierRun := runs } }
    let d := d.each Lane.all fun d m =>
      if runs.get m = 8 then nameSuspect d l m else d
    let d := if v.split then
        match rs.length with
        | 3 => match furthest xs with
          | some m => nameSuspect d l m
          | none => d
        | 2 => if (serviceLanes d).length = 2 then d.each (serviceLanes d) fun d m => nameSuspect d l m else d
        | _ => d
      else d
    if first then
      let d := d.when v.split fun d => (d.flag .COM_STATUS_VOTE_SPLIT).event .VOTE_SPLIT srcSeparation a
      let src := xs.find? fun q => decide (some q.1 = v.by')
      let d := d.wrI .COM_ARM_D_MM a (v.dist.getD 0x7FFFFFFF)
      let d := d.wr .COM_ARM_SP_MM a (match src with
        | some q => q.2.sp
        | none => 0)
      let d := d.wr .COM_ARM_RES_PAIR_IDX a (match src with
        | some q => q.2.pair
        | none => 0xFFFF)
      let d := d.wr .COM_ARM_RES_REACTION a v.reaction
      let d := d.wr .COM_ARM_RES_FLAGS a (xs.foldl (fun m q => m ||| q.2.flags) 0)
      let d := d.wr .COM_ARM_RES_AGREE a (v.agree.foldl (fun m q => m + 2 ^ q.idx) 0)
      if reduces v xs then d.inc .COM_ARM_CNT_REDUCE a else d
    else d
  if first then
    let arms := (laneOf d l).saf.arms
    (d.put .COM_STATUS_SEP_REDUCE (bitOf (arms.any fun e => e.2.capped))).put .COM_STATUS_SEP_STOP
      (bitOf (arms.any fun e => decide (2 ≤ e.2.voted)))
  else d

end Sys2Proof.Machine
end

