-- ==== Sys2Proof/Machine/SafetyFns.lean ====
section
/-!
DEFINITION. Safety functions and safety inputs, chapter 10: filters, discrepancies and acknowledgements of the inputs (R313 to
R318, R380), the measurement of joints and capsule endpoints (R306), the demands on a unit and how they end (R298, R312), its
stop functions (R300 to R305, R307), enabling and release (R309 to R311), and the commands that a passed time raises.
-/
namespace Sys2Proof.Machine

/-- Unit `u` in a lane's safety state. -/
def unitDyn (x : SafState) (u : Nat) : UnitDyn := SMap.get {} x.units u
/-- Brake channel `k` in a lane's safety state. -/
def brakeDyn (x : SafState) (k : Nat) : BrakeDyn := SMap.get {} x.brakes k
/-- Joint `j` in a lane's safety state. -/
def jointDyn (x : SafState) (j : Nat) : JointDyn := SMap.get {} x.joints j
/-- Arm `a` in a lane's safety state. -/
def armSep (x : SafState) (a : Nat) : ArmSep := SMap.get {} x.arms a
/-- Parameters of brake channel `k`. -/
def brakeCfg (c : SafetyConfig) (k : Nat) : BrakeCfg := SMap.get {} c.brakes k
/-- Parameters of arm `a`. -/
def armCfg (c : SafetyConfig) (a : Nat) : ArmCfg := SMap.get {} c.arms a
/-- Parameters of joint `j`. -/
def jointCfg (c : SafetyConfig) (j : Nat) : JointCfg := SMap.get {} c.joints j

/-! Inputs. Inputs 0 to 23 are SI0 to SI23, 24 to 31 the node input pairs (R318), 32 to 42 the analog inputs of AIN20 to AIN30
(R380). -/

/-- The parameters of every safety input in Hold mode (R42): equivalent, 1 ms filter, 20 ms discrepancy, reported only. -/
def holdInput : InputCfg := { mode := 1, func := 0 }

/-- The parameters of input `i` in a lane (Hold mode: R42). -/
def inputCfg (hold : Bool) (c : SafetyConfig) (i : Nat) : InputCfg :=
  if hold then (if i < 24 then holdInput else {})
  else if i < 24 then SMap.get {} c.inputs i
  else if i < 32 then (SMap.get {} c.nodePairs (i - 24)).input
  else
    let a := SMap.get {} c.analogs (i - 12)
    if a.used then { a.input with mode := 3 } else {}

/-- The dynamic state of input `i`. -/
def pairOf (x : SafState) (i : Nat) : PairDyn :=
  if i < 24 then SMap.get {} x.inputs i else if i < 32 then SMap.get {} x.nodePairs (i - 24) else SMap.get {} x.analogs (i - 32)

/-- Replace the dynamic state of input `i`. -/
def setPair (x : SafState) (i : Nat) (p : PairDyn) : SafState :=
  if i < 24 then { x with inputs := SMap.set {} x.inputs i p }
  else if i < 32 then { x with nodePairs := SMap.set {} x.nodePairs (i - 24) p }
  else { x with analogs := SMap.set {} x.analogs (i - 32) p }

/-- The filtered value of ch2 in its demand state (Table 10-3): closed for an antivalent pair. -/
def demand2 (c : InputCfg) : Bool := decide (c.mode = 2)

/-- ch2 is used in equivalent and antivalent mode. -/
def usesTwo (c : InputCfg) : Bool := decide (c.mode = 1 ∨ c.mode = 2)

/-- The input is active (R314, R316): any used filtered contact away from its normal state, or a latched discrepancy. -/
def pairActive (c : InputCfg) (p : PairDyn) : Bool :=
  decide (c.mode ≠ 0) && (p.disc || !p.f1 || (usesTwo c && (p.f2 == demand2 c)))

/-- The pair is mixed (R316). -/
def pairMixed (c : InputCfg) (p : PairDyn) : Bool := usesTwo c && (p.f1 == (p.f2 == demand2 c))

/-- Both filtered contacts are in their demand state. -/
def pairBothDemand (c : InputCfg) (p : PairDyn) : Bool := usesTwo c && !p.f1 && (p.f2 == demand2 c)

/-- After its filtered contacts are settled at a snapshot: the mixed time starts or ends, a discrepancy with both contacts in
demand clears (R316), and a pulse starts or returns (R313). `was` is whether the input was active before. -/
def settlePair (c : InputCfg) (was : Bool) (p : PairDyn) : PairDyn :=
  let p := { p with mixed := if pairMixed c p then some (p.mixed.getD 0) else none, disc := p.disc && !pairBothDemand c p }
  let now := pairActive c p
  if was = now then p
  else if now then { p with ack := if p.disc then none else some 0 }
  else { p with ackBack := p.ack, ack := none }

/-- N_F of R315 in frames. -/
def filterFrames (units : Nat) (c : InputCfg) : Nat := 4 * c.filtQ / units

/-- One agreed snapshot of a contact (R92, R315): a missing contact takes its demand state at once; otherwise the snapshots that
show another value than the filtered one are counted. -/
def countContact (present value : Bool) (f demand : Bool) (n : Nat) : Bool × Nat :=
  if !present then (demand, 0) else if value = f then (f, 0) else (f, n + 1)

/-- The agreed snapshot of frame n reaches safety input `i` (R92): its filter and discrepancy times advance. -/
def snapshotInput (c : InputCfg) (g : Agreed) (i : Nat) (p : PairDyn) : PairDyn :=
  let a := countContact (g.have1.testBit i) (g.ch1.testBit i) p.f1 false p.n1
  let b := countContact (g.have2.testBit i) (g.ch2.testBit i) p.f2 (demand2 c) p.n2
  let was := pairActive c p
  settlePair c was { p with f1 := a.1, n1 := a.2, f2 := b.1, n2 := b.2, mixed := p.mixed.map (· + 1)
                            ack := p.ack.map (· + 1), ackBack := none }

/-- SI_FILTERED_CHANGE of input `i`: a contact that has shown its new value in the snapshots of frames m to m + N_F takes it
(R315). -/
def filterChange (units : Nat) (c : InputCfg) (p : PairDyn) : PairDyn :=
  let n := filterFrames units c
  let was := pairActive c p
  let t1 := decide (n < p.n1)
  let t2 := decide (n < p.n2)
  if t1 ∨ t2 then
    settlePair c was { p with f1 := p.f1 != t1, n1 := if t1 then 0 else p.n1, f2 := p.f2 != t2, n2 := if t2 then 0 else p.n2 }
  else p

/-- Bit `b` of a payload. -/
def payloadBit (bs : List Byte) (b : Nat) : Bool := (bs.getD (b / 8) 0).toNat.testBit (b % 8)

/-- The agreed value of bit `b` of node `id`'s safety item, none if missing (R90, R318). -/
def nodeBit (c : SafetyConfig) (g : Agreed) (id b : Nat) : Option Bool :=
  agreeBinary (itemCfg c (itemNode id b)).safe ((SMap.get [] g.nodes id).map fun p => payloadBit p.2 b)

/-- The agreed snapshot reaches node input pair `k`: no filter, a missing bit is in its demand state (R318). -/
def snapshotNodePair (sc : SafetyConfig) (c : NodePairCfg) (g : Agreed) (p : PairDyn) : PairDyn :=
  let was := pairActive c.input p
  settlePair c.input was { p with
    f1 := (nodeBit sc g c.node1 c.bit1).getD false, f2 := (nodeBit sc g c.node2 c.bit2).getD (demand2 c.input),
    mixed := p.mixed.map (· + 1), ack := p.ack.map (· + 1), ackBack := none }

/-- The agreed means of AIN`c` that a lane's checks use: none in the frames in which its correction was restored (R373). -/
def adcMeans (x : LaneState) (c : Nat) : List Int := if SMap.get 0 x.corrMiss c = 0 then SMap.get [] x.agreed.adcMean c else []

/-- The agreed maxima of AIN`c`, likewise. -/
def adcMaxima (x : LaneState) (c : Nat) : List Int := if SMap.get 0 x.corrMiss c = 0 then SMap.get [] x.agreed.adcMax c else []

/-- The agreed frame reaches the analog input of AIN(20+k) (R380): closed while every value lies within LO to HI. -/
def snapshotAnalog (c : AnalogCfg) (vs : List Int) (p : PairDyn) : PairDyn :=
  let v := !vs.isEmpty && vs.all fun m => decide (c.lo ≤ m ∧ m ≤ c.hi)
  if v = p.f1 then { p with n1 := 0 }
  else if c.filt ≤ p.n1 + 1 then { p with f1 := v, n1 := 0 } else { p with n1 := p.n1 + 1 }

/-! Joints (R306). -/

/-- Measurement of joint `j` from the agreed positions, newest first, over at most `w` frames. -/
def measureJoint (w : Nat) (ps : List (SMap (Option Int))) (j : Nat) (x : JointDyn) : JointDyn :=
  match SMap.get none (ps.getD 0 []) j with
  | none => { x with run := 0, miss := min 255 (x.miss + 1) }
  | some p =>
    let run := min (w + 1) (x.run + 1)
    match run - 1, SMap.get none (ps.getD (run - 1) []) j with
    | 0, _ => { x with run := 1, miss := min 255 (x.miss + 1) }
    | k + 1, some q => { run := run, pos := p, dp := p - q, w := k + 1, miss := 0 }
    | _ + 1, none => { x with run := run, miss := min 255 (x.miss + 1) }

/-- A joint's speed exceeds `num` counts over `den` seconds per frame period `tf` ns: |dp| / (w tf) > num / den. -/
def fasterThan (tf : Nat) (x : JointDyn) (num den : Nat) : Bool :=
  decide (num * (x.w * tf) < x.dp.natAbs * 1000000000 * den)

/-- The joint has a measurement no older than 2 frames (R306). -/
def hasSpeed (x : JointDyn) : Bool := decide (0 < x.w ∧ x.miss < 3)

/-- The joint numbers of an arm. -/
def armJoints (c : SafetyConfig) (a : Nat) : List Nat := (SMap.get {} c.armModels a).joints.map (·.jointNo)

/-- An arm model is configured (R296). -/
def armUsed (c : SafetyConfig) (a : Nat) : Bool := c.armModels.any fun p => decide (p.1 = a) && !p.2.joints.isEmpty

/-- Unit `u` is configured (R296). -/
def unitUsed (c : SafetyConfig) (u : Nat) : Bool :=
  if u < 16 then armUsed c u else (SMap.get {} c.locals (u - 16)).configured

/-- The joints of unit `u` that the lanes measure: those of an arm. -/
def unitJoints (c : SafetyConfig) (u : Nat) : List Nat := if u < 16 then armJoints c u else []

/-- Every joint of the unit holds |v| ≤ V_ZERO (R302). -/
def standsStill (tf : Nat) (c : SafetyConfig) (x : SafState) (u : Nat) : Bool :=
  (unitJoints c u).all fun j =>
    let m := jointDyn x j
    hasSpeed m && !fasterThan tf m (jointCfg c j).vZero 1

/-! Drives of a unit on the rings. -/

/-- The (entry, axis) pairs of a unit's joints. -/
def unitAxes (c : SafetyConfig) (u : Nat) : List (Nat × Nat) :=
  (unitJoints c u).filterMap fun j => jointHome c.schedule 0 j

/-- Every axis of the unit's drives reports STO engaged, as agreed (R205, R310). A local axis has no drive on the rings. -/
def drivesSto (c : SafetyConfig) (g : Agreed) (u : Nat) : Bool :=
  (unitAxes c u).all fun p => (nodeBit c g (entryAt c.schedule p.1).id p.2).getD false

/-- Torque enabled is reported on every axis in at least two lanes' data (R205, R311): a copy says so of an axis whose STO is not engaged on
a drive with torque enabled on any axis (the payload has no bit per axis: DEDUCED, log 119). -/
def drivesTorque (c : SafetyConfig) (g : Agreed) (u : Nat) : Bool :=
  (unitAxes c u).all fun p =>
    decide (2 ≤ ((SMap.get [] g.nodes (entryAt c.schedule p.1).id).filter fun q =>
      payloadBit q.2 27 && !payloadBit q.2 p.2).length)

/-! The frame's advance of the safety functions on the agreed values. -/

/-- This lane computes safety functions (R93): in service, in SHADOW, and in RESYNC from the tick of its snapshot on, which it brings
forward on the agreed values of the records it receives (R107). -/
def evaluates (d : Dev) (l : Lane) : Bool :=
  match laneMode d l with
  | .inService | .shadow => !(laneOf d l).latch
  | .resync => !(laneOf d l).latch && (laneOf d l).snapshot.isSome
  | .absent | .boot | .selftest | .reload | .faulted | .debug => false

/-- At least two voting lanes demand STO of unit `u`. -/
def stoByTwo (d : Dev) (u : Nat) : Bool :=
  decide (2 ≤ ((serviceLanes d).filter fun m => decide ((unitDyn (laneOf d m).saf u).func = 5)).length)

/-- The timers of a unit advance by one frame. -/
def tickUnit (still stoMissing : Bool) (y : UnitDyn) : UnitDyn :=
  { y with
    stopFr := if y.func = 4 ∨ y.func = 3 then y.stopFr + 1 else y.stopFr
    stillFr := if still then min 256 (y.stillFr + 1) else 0
    sosFr := if y.stoWait then y.sosFr + 1 else y.sosFr
    relWait := y.relWait.map (· + 1)
    disabledFr := if y.disabled then min 255 (y.disabledFr + 1) else 0
    noStoFr := if stoMissing then min 255 (y.noStoFr + 1) else 0 }

/-- The timers of a brake channel advance by one frame. -/
def tickBrake (y : BrakeDyn) : BrakeDyn :=
  { y with
    relFr := if y.cmd then y.relFr + 1 else 0
    setFr := if y.cmd then 0 else y.setFr + 1
    lightAge := y.lightAge.map (· + 1)
    darkAge := y.darkAge.map (· + 1)
    test := y.test.map fun t => if t.lane.isSome then { t with frames := t.frames + 1 } else t }

/-- The channels mapped to unit `u` (R137). -/
def unitBrakes (c : SafetyConfig) (u : Nat) : List Nat :=
  (List.range 16).filter fun k => decide ((brakeCfg c k).unit = some u)

/-- In Hold mode only the inputs are evaluated (R42). -/
def inHold (d : Dev) : Bool := decide (d.mode = .hold)

/-- The agreed values of the frame reach lane `l`'s safety functions: filters, discrepancies, measurements and timers advance
(R92, R306). -/
def advanceSafety (d : Dev) (l : Lane) : Dev :=
  if evaluates d l then
    let x := laneOf d l
    let c := x.image.params
    let hold := inHold d
    let s := (List.range 24).foldl (fun s i => setPair s i (snapshotInput (inputCfg hold c i) x.agreed i (pairOf s i))) x.saf
    if hold then onSaf d l fun _ => s
    else
      let s := c.nodePairs.foldl (fun s p =>
        setPair s (24 + p.1) (snapshotNodePair c p.2 x.agreed (pairOf s (24 + p.1)))) s
      let s := c.analogs.foldl (fun s p =>
        if p.2.used then setPair s (12 + p.1) (snapshotAnalog p.2 (adcMeans x p.1) (pairOf s (12 + p.1))) else s) s
      let js := c.armModels.flatMap fun p => p.2.joints.map (·.jointNo)
      let s := { s with
        joints := js.foldl (fun m j => SMap.modify {} m j (measureJoint c.spdWin x.agreed.positions j)) s.joints }
      let s := { s with
        units := (List.range 32).foldl (fun m u =>
          if unitUsed c u then
            SMap.modify {} m u (tickUnit (standsStill d.frameNs c s u)
              (decide ((unitDyn s u).func = 5) && stoByTwo d u && !drivesSto c x.agreed u))
          else m) s.units }
      let s := { s with
        brakes := (List.range 16).foldl (fun m k =>
          if (brakeCfg c k).unit.isSome then SMap.modify {} m k tickBrake else m) s.brakes }
      onSaf d l fun _ => s
  else d

/-- AGREE_VALUES: at 2.5 us lane `l` computes the agreed values from the valid records it holds, its own included, compares the
digests, and its safety functions take the values (R84, R90, R92, R103). -/
def execAgreeValues (l : Lane) (s : State) : Host.Outcome State Fault Refusal :=
  s.run fun d =>
    if exchanges d l ∧ d.tb.ticking ∧ !(laneOf d l).agreedNow then advanceSafety (agreeValues d l) l else d

/-- Minutes, milliseconds and frames. -/
def msReached (d : Dev) (frames ms : Nat) : Bool := decide (ms * 1000000 ≤ frames * d.frameNs)

/-! Mirrors: the first lane in service writes them from its own state (Tables 10-11, 10-12, 4-10). -/

/-- Show safety input `i`. -/
def showInput (d : Dev) (l : Lane) (i : Nat) : Dev :=
  if 24 ≤ i then d
  else
    let c := inputCfg (inHold d) (laneOf d l).image.params i
    let p := pairOf (laneOf d l).saf i
    (((((d.wr .SAF_SI_STAT_CH1 i (bitOf p.f1)).wr .SAF_SI_STAT_CH2 i (bitOf p.f2)).wr .SAF_SI_STAT_ACTIVE i
      (bitOf (pairActive c p))).wr .SAF_SI_STAT_MIXED i (bitOf (pairMixed c p))).wr .SAF_SI_STAT_DISC i (bitOf p.disc)).wr
        .SAF_SI_STAT_FUNC i c.func

/-- Any input of a lane is in discrepancy. -/
def anyDisc (d : Dev) (l : Lane) : Bool := (List.range 32).any fun i => (pairOf (laneOf d l).saf i).disc

/-- The governing demand of a unit (R298): the most restrictive, the earliest of equals. -/
def governing (y : UnitDyn) : Option Demand :=
  y.demands.foldl (fun b q => match b with
    | none => some q
    | some r => if r.kind < q.kind then some q else some r) none

/-- Demands that an acknowledgement ends (R312). -/
def ackEnds (cause : Nat) : Bool := decide ((1 ≤ cause ∧ cause ≤ 0x0B) ∨ cause = 0x0E)

/-- A demand waits for acknowledgement. -/
def ackPending (y : UnitDyn) : Bool := y.demands.any fun q => ackEnds q.cause && !q.active

/-- Show unit `u`; in the de-energised safe state every unit shows cause 0x0F (R130). -/
def showUnit (d : Dev) (l : Lane) (u : Nat) : Dev :=
  let c := (laneOf d l).image.params
  let y := unitDyn (laneOf d l).saf u
  let d := (d.wr .SAF_UNIT_STAT_FUNC u y.func).wr .SAF_UNIT_STAT_TORQUE u (bitOf y.torque)
  let d := d.wr .SAF_UNIT_STAT_BRAKE_REL u (bitOf ((unitBrakes c u).any fun k => (brakeDyn (laneOf d l).saf k).cmd))
  let d := (d.wr .SAF_UNIT_STAT_SLS_SET u y.slsSet).wr .SAF_UNIT_STAT_ACK_PEND u (bitOf (ackPending y))
  let d := d.wr .SAF_UNIT_STAT_STANDSTILL u (bitOf (decide (unitUsed c u ∧ u < 16 ∧ c.nStill ≤ y.stillFr)))
  let d := d.wr .SAF_UNIT_STAT_DISABLED u (bitOf y.disabled)
  d.wr .SAF_UNIT_STAT_CAUSE u (if (laneOf d l).saf.deen then 0x0F else (governing y).elim 0 (·.cause))

/-- Minutes of an age in frames, saturating; 0xFFFF for none. -/
def ageMinutes (d : Dev) : Option Nat → Nat
  | none => 0xFFFF
  | some n => min 0xFFFF (n * d.frameNs / 60000000000)

/-- Current in uA of code `v` at scale `sc` (R139). -/
def microAmp (sc v : Int) : Int := sc * v

/-- Show brake channel `k`. -/
def showBrake (d : Dev) (l : Lane) (k : Nat) : Dev :=
  let x := laneOf d l
  let y := brakeDyn x.saf k
  let b := brakeCfg x.image.params k
  let d := (d.wr .SAF_BRK_STAT_RELEASED k (bitOf y.cmd)).wr .SAF_BRK_STAT_LOCKED k (bitOf y.locked)
  let d := (d.wr .SAF_BRK_STAT_PT_DUE k (bitOf (y.dueLight || y.dueDark))).wr .SAF_BRK_STAT_PENDING k
    (bitOf (!y.pendingLanes.isEmpty))
  let d := d.wrI .SAF_BRK_STAT_I_MEAN k (match adcMeans x k with
    | [] => 0
    | v :: _ => Int.tdiv (microAmp b.scale v) 1000)
  (d.wr .SAF_PT_AGE_LIGHT_MIN k (ageMinutes d y.lightAge)).wr .SAF_PT_AGE_DARK_MIN k (ageMinutes d y.darkAge)

/-- Apply `f` to the safety state of every evaluating lane, then show the object again. -/
def inLanes (d : Dev) (f : Dev → Lane → Dev) (sh : Dev → Lane → Dev) : Dev :=
  sh (d.each (Lane.all.filter fun l => evaluates d l) f) d.firstLane

/-- SI_FILTERED_CHANGE: contact changes of safety input `i` pass its filter (R315). -/
def execSiFilteredChange (i : Fin 24) (s : State) : Host.Outcome State Fault Refusal :=
  s.run fun d =>
    inLanes d
      (fun d l => onSaf d l fun x =>
        setPair x i (filterChange d.periodUnits (inputCfg (inHold d) (laneOf d l).image.params i) (pairOf x i)))
      (fun d l => showInput d l i)

/-- The pair of input `i` has stayed mixed for SI_DISC (R316). -/
def discReached (d : Dev) (l : Lane) (i : Nat) : Bool :=
  let c := inputCfg (inHold d) (laneOf d l).image.params i
  let p := pairOf (laneOf d l).saf i
  match p.mixed with
  | some n => !p.disc && msReached d n c.discMs
  | none => false

/-- Source and INDEX of an input's events (R442): SI0 to SI23 have their own sources. -/
def inputSource (i : Nat) : Nat := if i < 24 then srcInput i else srcSafety

/-- SI_DISCREPANCY: a pair mixed for SI_DISC or longer latches DISC, which holds the input active (R316). -/
def execSiDiscrepancy (i : Fin 32) (s : State) : Host.Outcome State Fault Refusal :=
  s.run fun d =>
    let latched := discReached d d.firstLane i
    let d := inLanes d
      (fun d l => if discReached d l i then
          onSaf d l fun x => setPair x i { pairOf x i with disc := true, ack := none, ackBack := none }
        else d)
      (fun d l => showInput d l i)
    if latched then
      let d := if i.val < 24 then (d.flag .SAF_SI_STAT_DISC_EV i).inc .SAF_SI_STAT_DISC_CNT i else d
      let d := d.put .SAF_SAFE_OK_DISC_ANY 1
      d.event .SI_DISCREPANCY (inputSource i) (if i.val < 24 then 0 else i)
    else d

/-! Demands (R298, R312). -/

/-- Frames of healthy three-lane service that end a lane fault (R109): 10 min. -/
def healthyFrames (d : Dev) : Nat := 600000000000 / d.frameNs

/-- Three lanes have been in service for 10 min without a fault (R109). -/
def healthy (d : Dev) : Bool := decide ((serviceLanes d).length = 3 ∧ healthyFrames d ≤ d.fault.healthyFr)

/-- Square root free test of the SLP prediction (R305): `rem` the distance left, `dp` the displacement toward the limit. -/
def slpPredicted (tf spdWin : Nat) (j : JointCfg) (rem dp : Int) (w : Nat) : Bool :=
  let v := max dp 0
  let k : Int := 2 * j.dMon * w * w * tf * tf
  decide (rem * k < v * spdWin * (2 * j.dMon * w * tf * tf) + v * v * 1000000000 * 1000000000 + j.sosWin * k)

/-- SLP of a joint: 5 at or beyond a limit, 4 predicted, 0 neither or off (R305). -/
def slpJoint (tf spdWin : Nat) (j : JointCfg) (m : JointDyn) : Nat :=
  if j.slpLo = j.slpHi ∨ m.w = 0 then 0
  else if m.pos ≤ j.slpLo ∨ j.slpHi ≤ m.pos then 5
  else if slpPredicted tf spdWin j (j.slpHi - m.pos) m.dp m.w ∨ slpPredicted tf spdWin j (m.pos - j.slpLo) (-m.dp) m.w then 4
  else 0

/-- SLP of unit `u`. -/
def slpUnit (tf : Nat) (c : SafetyConfig) (x : SafState) (u : Nat) : Nat :=
  (unitJoints c u).foldl (fun r j =>
    let m := jointDyn x j
    max r (if hasSpeed m then slpJoint tf c.spdWin (jointCfg c j) m else 0)) 0

/-- A joint of the unit has no complete evaluation in three consecutive frames (R306). -/
def positionMissing (c : SafetyConfig) (x : SafState) (u : Nat) : Bool :=
  (unitJoints c u).any fun j => decide (3 ≤ (jointDyn x j).miss)

/-- The entries of the schedule that serve unit `u`. -/
def unitEntries (c : SafetyConfig) (u : Nat) : List Nat := (unitAxes c u).foldl (fun es p => if es.contains p.1 then es else es ++ [p.1]) []

/-- The tightening factor of R126 as a ratio: ramp `r` frames, position `t`. -/
def tightFactor (c : SafetyConfig) (x : SafState) (r : Nat) : Nat × Nat :=
  if r = 0 then (if x.tight then (c.degSpeedPct, 100) else (1, 1))
  else (100 * r - (100 - c.degSpeedPct) * min x.tightFr r, 100 * r)

/-- Frames of DEG_RAMP_MS. -/
def rampFrames (d : Dev) (c : SafetyConfig) : Nat := c.degRampMs * 1000000 / d.frameNs

/-- The SPEED_SELECT inputs active for arm `a`, by SLS_SEL. -/
def selectedSets (d : Dev) (l : Lane) (a : Nat) : List Nat :=
  (List.range 43).filterMap fun i =>
    let c := inputCfg (inHold d) (laneOf d l).image.params i
    if c.func = 2 ∧ c.mask.testBit a ∧ pairActive c (pairOf (laneOf d l).saf i) then some c.slsSel else none

/-- SLS set `i` of an arm: V_CART and JV_PCT. -/
def slsSet (ac : ArmCfg) (i : Nat) : Nat × Nat := ac.sls.getD i (0, 0)

/-- The set in force (R304, R317). -/
def slsInForce (ac : ArmCfg) (sel : List Nat) : Nat :=
  let key := fun (i : Nat) =>
    let s := slsSet ac i
    (if s.1 = 0 then 2 ^ 20 else s.1) * 2 ^ 16 + (if s.2 = 0 then 2 ^ 10 else s.2) * 2 ^ 2 + i
  match sel with
  | [] => 0
  | s :: ss => ss.foldl (fun b i => if key i < key b then i else b) s

/-- A capsule endpoint or a joint of arm `a` exceeds the limit of the set in force, scaled by tightening (R304, R306). -/
def slsExceeded (d : Dev) (l : Lane) (a : Nat) (set : Nat) : Bool :=
  let x := laneOf d l
  let c := x.image.params
  let lim := slsSet (armCfg c a) set
  let k := tightFactor c x.saf (rampFrames d c)
  let js := (SMap.get {} c.armModels a).joints.map fun j => (j.jointNo, jointDyn x.saf j.jointNo)
  let joints := decide (lim.2 ≠ 0) && js.any fun p =>
    hasSpeed p.2 && fasterThan d.frameNs p.2 (lim.2 * (jointCfg c p.1).vMax * k.1) (100 * k.2)
  let cart := decide (lim.1 ≠ 0) && js.all (fun p => hasSpeed p.2) &&
    (let m := SMap.get {} c.armModels a
     let now := framesAt m (js.map fun p => (p.1, p.2.pos))
     let bef := framesAt m (js.map fun p => (p.1, p.2.pos - p.2.dp))
     let w := js.foldl (fun n p => min n p.2.w) 64
     let limit := f64OfRatio (lim.1 * k.1) k.2
     c.capsules.any fun e => e.2.used && decide (e.2.arm = a) && [e.2.p0, e.2.p1].any fun p =>
       f64Lt limit (f64Div (p3Norm (p3Sub (placePoint now e.2.link p) (placePoint bef e.2.link p)))
         (f64OfRatio (w * d.frameNs) 1000000000)))
  joints || cart

/-- The group demand on unit `u` (R472, R475): 0 none, 1 SS1, 2 the controlled STO. G acts on the units of the device's own UNIT_MASK,
Quarantine on every unit. -/
def groupDemand (d : Dev) (u : Nat) : Nat :=
  let own := (SMap.get {} d.cfg.groups 0).slots.find? fun s => decide (s.kind = 1 ∧ s.ident = Config.serialNumber.toNat)
  if d.grp.lanesQuar then 2
  else match own with
    | some s => if s.unitMask.testBit u then min 2 d.grp.lanesG else 0
    | none => 0

/-- Whether the condition of a demand on unit `u` holds in lane `l` now (R312). -/
def conditionHolds (d : Dev) (l : Lane) (u : Nat) (q : Demand) : Bool :=
  let x := laneOf d l
  let c := x.image.params
  match q.cause with
  | 0x01 =>
    let i := inputCfg (inHold d) c q.index
    decide (i.func = 1) && i.mask.testBit u && pairActive i (pairOf x.saf q.index)
  | 0x02 => decide ((armSep x.saf u).voted ≠ 0)
  | 0x03 => !healthy d
  | 0x04 =>
    if q.index = 0 then d.fault.counted.any fun p => decide (p.1 = faultCode .lane)
    else if q.index ≤ 16 then
      d.fault.counted.contains (faultCode .brake, q.index - 1) && decide ((brakeDyn x.saf (q.index - 1)).fullTest ≠ 2)
    else if q.index = 255 then x.arb.ss1
    else d.fault.counted.contains (faultCode .engine, q.index - 64)
  | 0x05 => d.fault.missStop.contains u
  | 0x06 => slsExceeded d l u (unitDyn x.saf u).slsSet
  | 0x07 => decide (slpUnit d.frameNs c x.saf u ≠ 0)
  | 0x08 | 0x09 => false
  | 0x0A => positionMissing c x.saf u
  | 0x0B =>
    if q.index = 0 then !drivesSto c x.agreed u
    else if q.index ≤ 64 then (nodeOf d l (q.index - 1)).flag.testBit 0
    else decide (3 ≤ (nodeOf d l (q.index - 65)).outGuard)
  | 0x0E => decide (q.index ≤ groupDemand d u)
  | _ => true

/-- STOP_KIND as a FUNC code: STO, SS1, SS2. -/
def kindCode (stopKind : Nat) : Nat := 5 - min stopKind 2

/-- The demands whose conditions unit `u` meets in this frame, monitoring excepted (R292, R298, R310, R317). -/
def newDemands (d : Dev) (l : Lane) (u : Nat) : List Demand :=
  let x := laneOf d l
  let c := x.image.params
  let inputs := (List.range 43).filterMap fun i =>
    let k := inputCfg (inHold d) c i
    if k.func = 1 ∧ k.mask.testBit u ∧ pairActive k (pairOf x.saf i) then
      some { cause := 0x01, kind := if 16 ≤ u then max 4 (kindCode k.stopKind) else kindCode k.stopKind, index := i : Demand }
    else none
  let sep := if u < 16 ∧ monitorsRun d then
      match (armSep x.saf u).voted with
      | 2 => [{ cause := 0x02, kind := 3 : Demand }]
      | 3 => [{ cause := 0x02, kind := 4 : Demand }]
      | _ => []
    else []
  let engine := (d.fault.engineUnits.filter fun p => decide (p.2 = u)).map fun p =>
    { cause := 0x04, kind := 4, index := 64 + p.1 : Demand }
  let arb := if x.arb.ss1 then [{ cause := 0x04, kind := 4, index := 255 : Demand }] else []
  let miss := if d.fault.missStop.contains u then [{ cause := 0x05, kind := 4 : Demand }] else []
  let drive := (unitEntries c u).flatMap fun e =>
    (if (nodeOf d l e).flag.testBit 0 ∧ (nodeOf d l e).valid then [{ cause := 0x0B, kind := 5, index := 1 + e : Demand }] else []) ++
    (if 3 ≤ (nodeOf d l e).outGuard then [{ cause := 0x0B, kind := 5, index := 65 + e : Demand }] else [])
  let grp := match groupDemand d u with
    | 0 => []
    | 1 => [{ cause := 0x0E, kind := 4, index := 1 : Demand }]
    | _ => [{ cause := 0x0E, kind := 5, index := 2 : Demand }]
  inputs ++ sep ++ engine ++ arb ++ miss ++ drive ++ grp

/-- Put a demand in force, or make an equal one active again. -/
def putDemand (y : UnitDyn) (q : Demand) : UnitDyn := addDemand y q.cause q.kind q.index

/-- Refresh which conditions hold, and end what ends without acknowledgement (R312, R476). -/
def refreshDemands (d : Dev) (l : Lane) (u : Nat) (y : UnitDyn) : UnitDyn :=
  let c := (laneOf d l).image.params
  let qs := y.demands.map fun q => { q with active := conditionHolds d l u q }
  { y with demands := qs.filter fun q =>
      q.active || !((decide (q.cause = 0x01) && !(inputCfg (inHold d) c q.index).ackReq) ||
        (decide (q.cause = 0x02) && (armCfg c u).sepAuto) ||
        (decide (q.cause = 0x0E) && (SMap.get {} c.groups 0).groupAuto)) }

/-! Stop functions (R300 to R303). -/

/-- Causes whose STO is immediate (R300). -/
def immediateSto (q : Demand) : Bool := decide (q.kind = 5) && decide ((6 ≤ q.cause ∧ q.cause ≤ 0x0B) ∨ q.cause = 0x0F)

/-- STO is in force: torque and release end. -/
def enterSto (y : UnitDyn) : UnitDyn :=
  { y with func := 5, torque := false, brakeRel := false, relWait := none, stoWait := false, sosFr := 0, slsOver := 0 }

/-- The positions of the unit's joints now. -/
def unitPositions (c : SafetyConfig) (x : SafState) (u : Nat) : List (Nat × Int) :=
  (unitJoints c u).map fun j => (j, (jointDyn x j).pos)

/-- The speeds of the unit's joints now, as displacement over frames. -/
def unitSpeeds (c : SafetyConfig) (x : SafState) (u : Nat) : List (Nat × Nat × Nat) :=
  (unitJoints c u).map fun j => let m := jointDyn x j; (j, m.dp.natAbs, m.w)

/-- The controlled STO of R300 for unit `u`: an arm with a mapped channel sets its brake and passes through SOS. -/
def beginSto (c : SafetyConfig) (x : SafState) (u : Nat) (y : UnitDyn) : UnitDyn :=
  if y.func = 5 ∨ y.stoWait then y
  else if u < 16 ∧ unitBrakes c u ≠ [] then
    { y with func := 2, stoWait := true, brakeRel := false, relWait := none, sosFr := 0, sosPos := unitPositions c x u }
  else enterSto y

/-- SS1 or SS2 is activated in this frame (R301). -/
def beginStop (c : SafetyConfig) (x : SafState) (u func : Nat) (y : UnitDyn) : UnitDyn :=
  { y with func := func, stopFr := 0, v0 := unitSpeeds c x u, relWait := none, slsOver := 0 }

/-- The set in force limits something: the unit's state without demand is SLS (R304). -/
def freeFunc (c : SafetyConfig) (u set : Nat) : Nat :=
  if u < 16 ∧ slsSet (armCfg c u) set ≠ (0, 0) then 1 else 0

/-- The function state that the demands in force give unit `u` (R298, R300, R312). -/
def applyDemands (c : SafetyConfig) (x : SafState) (u : Nat) (y : UnitDyn) : UnitDyn :=
  if y.func = 5 then y
  else
    match governing y with
    | some q =>
      if q.kind = 5 then (if y.demands.any immediateSto then enterSto y else beginSto c x u y)
      else if y.stoWait ∨ y.func = 4 then y
      else if q.kind = 4 then beginStop c x u 4 y
      else if y.func = 2 ∨ y.func = 3 then y
      else beginStop c x u 3 y
    | none =>
      if y.func = 4 ∨ y.stoWait then y
      else if y.func = 2 ∨ y.func = 3 then
        (if y.enableReq ∧ x.motionEnable then { y with func := freeFunc c u y.slsSet } else y)
      else { y with func := freeFunc c u y.slsSet }

/-- A joint breaks the ramp of R301. -/
def rampBroken (tf : Nat) (c : SafetyConfig) (x : SafState) (u : Nat) (y : UnitDyn) : Bool :=
  let t0 := (armCfg c u).rampT0Ms * 1000000
  y.v0.any fun p =>
    let m := jointDyn x p.1
    let j := jointCfg c p.1
    let w0 : Int := max p.2.2 1
    let lim : Int := (j.vTol : Int) * 1000000000 - j.dMon * ((y.stopFr * tf - t0 : Nat) : Int)
    hasSpeed m && decide ((p.2.1 : Int) * m.w * 1000000000000000000 + lim * m.w * w0 * tf <
      (m.dp.natAbs : Int) * w0 * 1000000000000000000)

/-- A joint leaves the standstill window of R303. -/
def sosBroken (tf : Nat) (c : SafetyConfig) (x : SafState) (y : UnitDyn) : Bool :=
  y.sosPos.any fun p =>
    let m := jointDyn x p.1
    let j := jointCfg c p.1
    hasSpeed m && (decide ((j.sosWin : Int) < (m.pos - p.2).natAbs) || fasterThan tf m j.vZero 1)

/-- The monitoring of unit `u` in this frame (R302 to R306): the demands it raises and the flags it sets, as bits SLS, SLP,
ramp, SOS. -/
def monitor (d : Dev) (l : Lane) (u : Nat) (y : UnitDyn) : UnitDyn × Nat :=
  let x := laneOf d l
  let c := x.image.params
  let tf := d.frameNs
  if 16 ≤ u ∨ y.func = 5 then (y, 0)
  else
    let ramp := decide (y.func = 4 ∨ y.func = 3) && rampBroken tf c x.saf u y
    let sos := decide (y.func = 2) && sosBroken tf c x.saf y
    let slp := slpUnit tf c x.saf u
    let slpUsed := (unitJoints c u).any fun j => let p := jointCfg c j; decide (p.slpLo ≠ p.slpHi)
    let miss := (decide (1 ≤ y.func) || slpUsed) && positionMissing c x.saf u
    let exceeded := decide (y.func = 1) && slsExceeded d l u y.slsSet
    let slsOver := if exceeded then y.slsOver + 1 else 0
    let sls := decide (2 ≤ slsOver)
    let y := { y with slsOver := min slsOver 2 }
    let y := if sls then addDemand y 0x06 (if (armCfg c u).slsReactSto then 5 else 4) 0 else y
    let y := if slp = 0 then y else addDemand y 0x07 slp 0
    let y := if ramp then addDemand y 0x08 5 0 else y
    let y := if sos then addDemand y 0x09 5 0 else y
    let y := if miss then addDemand y 0x0A 5 0 else y
    (y, bitOf sls + 2 * bitOf (decide (slp ≠ 0)) + 4 * bitOf ramp + 8 * bitOf sos)

/-! Enabling (R309, R311). -/

/-- The first condition of R309 that unit `u` does not meet in lane `l`, numbered 1 to 7 in the rule's order; 0 if all hold.
Demands that a new enable request ends (0x0C, 0x0D) are not counted against it (R312). -/
def enableRefusal (d : Dev) (l : Lane) (u : Nat) (requested : Bool) : Nat :=
  let x := laneOf d l
  let c := x.image.params
  let y := unitDyn x.saf u
  let others := y.demands.filter fun q => decide (q.cause ≠ 0x0C ∧ q.cause ≠ 0x0D)
  let arm := armSep x.saf u
  if !monitorsRun d then 1
  else if !(x.saf.motionEnable && requested) then 2
  else if others.any (·.active) then 3
  else if ackPending y then 4
  else if u < 16 ∧ (arm.voted ≠ 0 ∨ arm.staleEpisode ∨ arm.age = none) then 5
  else if (unitBrakes c u).any (fun k => let b := brakeDyn x.saf k; b.locked && decide (b.fullTest ≠ 2)) then 6
  else if !unitUsed c u then 7
  else 0

/-- Grant torque to a disabled unit whose request meets R309; the release of R311 begins. -/
def grantUnit (d : Dev) (l : Lane) (u : Nat) (y : UnitDyn) : UnitDyn :=
  let c := (laneOf d l).image.params
  if y.func = 5 ∧ y.enableReq ∧ y.demands = [] ∧ enableRefusal d l u true = 0 then
    { y with func := freeFunc c u y.slsSet, torque := true, disabled := false, disabledFr := 0
             relWait := if 16 ≤ u then some 0 else none, noStoFr := 0 }
  else y

/-- Step 2 of R311: once the drives report torque the release wait begins. -/
def releaseStep (c : SafetyConfig) (g : Agreed) (u : Nat) (y : UnitDyn) : UnitDyn :=
  if y.torque ∧ !y.brakeRel ∧ y.relWait = none ∧ y.func ≤ 1 ∧ drivesTorque c g u then { y with relWait := some 0 } else y

/-- A unit in STO with its brake set and STO reported is DISABLED (R297). -/
def disabledStep (c : SafetyConfig) (x : LaneState) (u : Nat) (y : UnitDyn) : UnitDyn :=
  if y.func = 5 ∧ !y.disabled ∧ (unitBrakes c u).all (fun k => !(brakeDyn x.saf k).cmd) ∧ drivesSto c x.agreed u then
    { y with disabled := true }
  else y

/-- Change unit `u` in lane `l`. -/
def onUnit (d : Dev) (l : Lane) (u : Nat) (f : UnitDyn → UnitDyn) : Dev :=
  onSaf d l fun x => { x with units := SMap.modify {} x.units u f }

/-- Change brake channel `k` in lane `l`. -/
def onBrake (d : Dev) (l : Lane) (k : Nat) (f : BrakeDyn → BrakeDyn) : Dev :=
  onSaf d l fun x => { x with brakes := SMap.modify {} x.brakes k f }

/-- A demand not in force before that holds the unit's channels set (Table 4-8): STO, an outcome of Table 4-3 or a stop as outcome ARM
does (R146); the SS1 that a running arbitration demands is none yet. -/
def holdsSet (was : List Demand) (q : Demand) : Bool :=
  decide (q.kind = 5 ∨ q.cause = 0x03 ∨ (q.cause = 0x04 ∧ q.index ≠ 255) ∨ q.cause = 0x10) &&
    !was.any fun p => decide (p.cause = q.cause ∧ p.index = q.index)

/-- The running tests of the unit's channels are abandoned: the set wins (Table 4-8). -/
def dropUnitTests (d : Dev) (l : Lane) (u : Nat) : Dev :=
  d.each (unitBrakes (laneOf d l).image.params u) fun d k => onBrake d l k fun b => { b with test := none }

/-- The evaluation of unit `u` in lane `l`: demands, monitoring, function state, enabling and release. -/
def evalUnit (d : Dev) (l : Lane) (u : Nat) : Dev :=
  let x := laneOf d l
  let c := x.image.params
  if !unitUsed c u then d
  else
    let y := unitDyn x.saf u
    let y := { y with slsSet := if u < 16 then slsInForce (armCfg c u) (selectedSets d l u) else 0 }
    let y := refreshDemands d l u y
    let y := (newDemands d l u).foldl putDemand y
    let m := monitor d l u y
    let y := applyDemands c x.saf u m.1
    let y := grantUnit d l u y
    let y := disabledStep c x u (releaseStep c x.agreed u y)
    let was := (unitDyn x.saf u).demands
    let d := onUnit d l u fun _ => y
    let d := d.when (y.demands.any (holdsSet was)) fun d => dropUnitTests d l u
    if l = d.firstLane then
      let d := if y.demands.any (fun q => decide (q.cause = 0x02) && q.active) && !was.any (fun q => decide (q.cause = 0x02) && q.active) then
          (d.inc .COM_ARM_CNT_STOPS u).event .SEP_STOP srcSeparation u
        else d
      let d := d.when (m.2.testBit 0) fun d => d.flag .SAF_UNIT_STAT_SLS_VIOL u
      let d := d.when (m.2.testBit 1) fun d => d.flag .SAF_UNIT_STAT_SLP_VIOL u
      let d := d.when (m.2.testBit 2) fun d => d.flag .SAF_UNIT_STAT_RAMP_VIOL u
      d.when (m.2.testBit 3) fun d => d.flag .SAF_UNIT_STAT_SOS_VIOL u
    else d

/-- Change unit `u` in every evaluating lane in which the condition holds, and show it. -/
def inUnits (d : Dev) (u : Nat) (p : Dev → Lane → UnitDyn → Bool) (f : Dev → Lane → UnitDyn → UnitDyn) : Dev :=
  inLanes d (fun d l => if p d l (unitDyn (laneOf d l).saf u) then onUnit d l u (f d l) else d)
    (fun d l => showUnit d l u)

/-! Acknowledgement (R313). -/

/-- Every ack-ended demand of the unit has its condition gone, and there is one (R312, R313). -/
def canAck (y : UnitDyn) : Bool :=
  let qs := y.demands.filter fun q => ackEnds q.cause
  !qs.isEmpty && qs.all fun q => !q.active

/-- The units of a mask that lane `l` may acknowledge now. -/
def ackUnits (d : Dev) (l : Lane) (mask : Nat) : List Nat :=
  (List.range 32).filter fun u =>
    mask.testBit u && canAck (refreshDemands d l u (unitDyn (laneOf d l).saf u))

/-- Acknowledge unit `u` in lane `l`. -/
def ackUnit (d : Dev) (l : Lane) (u : Nat) : Dev :=
  let y := unitDyn (laneOf d l).saf u
  let d := if y.demands.any (fun q => decide (q.cause = 0x03)) then
      onSaf d l fun x => { x with degExpired := false, degLeft := none } else d
  onUnit d l u fun y => { y with demands := y.demands.filter fun q => !ackEnds q.cause }

/-- After an acknowledgement that ends the demand on every unit, Safe state gives way to Standstill unless it was reached by
de-energising or a SHARED fault (R313). -/
def leaveSafe (d : Dev) : Dev :=
  let x := laneOf d d.firstLane
  if d.mode = .safeState ∧ !x.saf.deen ∧
      (List.range 32).all (fun u => (unitDyn x.saf u).demands.all fun q => decide (q.cause = 0x0C ∨ q.cause = 0x0D)) then
    d.each Lane.all (fun d l => onSaf d l fun x => { x with stopOutcome := false }) |>.setMode .standstill
  else d

/-- ACK_PULSE: the return of an ACK input's pulse. Within ACK_MIN_MS to ACK_MAX_MS it acknowledges the units of its mask whose
ending conditions hold; outside, EV_ACK_BAD is written (R313). -/
def execAckPulse (i : Fin 32) (s : State) : Host.Outcome State Fault Refusal :=
  s.run fun d =>
    let l0 := d.firstLane
    let c0 := (laneOf d l0).image.params
    let good : Dev → Lane → Bool := fun d l =>
      let c := (laneOf d l).image.params
      let k := inputCfg (inHold d) c i
      match (pairOf (laneOf d l).saf i).ackBack with
      | some n => decide (k.func = 3) && msReached d n c.ackMinMs && decide (n * d.frameNs ≤ c.ackMaxMs * 1000000)
      | none => false
    let bad := decide ((inputCfg (inHold d) c0 i).func = 3) && (pairOf (laneOf d l0).saf i).ackBack.isSome && !good d l0
    let d := inLanes d
      (fun d l =>
        let d := if good d l then
            d.each (ackUnits d l (inputCfg (inHold d) (laneOf d l).image.params i).mask) fun d u => ackUnit d l u
          else d
        onSaf d l fun x => setPair x i { pairOf x i with ackBack := none })
      (fun d l => (d.each (List.range 32) fun d u => showUnit d l u))
    if bad then d.event .ACK_BAD (inputSource i) (if i.val < 24 then 0 else i) else leaveSafe d

/-! What a passed time raises. -/

/-- STANDSTILL_REACHED: every joint of the arm has held V_ZERO in N_STILL frames (R302). SS1 leads to the controlled STO with
cause 0x0D, SS2 to SOS. A ramp breach in the same frame goes first (Table 10-10). -/
def execStandstillReached (u : Fin 16) (s : State) : Host.Outcome State Fault Refusal :=
  s.run fun d =>
    inUnits d u
      (fun d l y => decide ((y.func = 4 ∨ y.func = 3) ∧ (laneOf d l).image.params.nStill ≤ y.stillFr) &&
        !rampBroken d.frameNs (laneOf d l).image.params (laneOf d l).saf u y)
      (fun d l y =>
        let c := (laneOf d l).image.params
        let x := (laneOf d l).saf
        if y.func = 4 then beginSto c x u (addDemand y 0x0D 5 0)
        else { y with func := 2, sosPos := unitPositions c x u })

/-- STOP_TIME_LIMIT: STOP_TMAX has passed since the activation without standstill (R302). -/
def execStopTimeLimit (u : Fin 16) (s : State) : Host.Outcome State Fault Refusal :=
  s.run fun d =>
    inUnits d u
      (fun d l y => decide (y.func = 4 ∨ y.func = 3) &&
        msReached d y.stopFr (armCfg (laneOf d l).image.params u).stopTmaxMs)
      (fun d l y =>
        if y.func = 4 then beginSto (laneOf d l).image.params (laneOf d l).saf u (addDemand y 0x0D 5 0)
        else enterSto (addDemand y 0x08 5 0))

/-- STO_DELAY_EXPIRED: STO_DELAY_MS after the brake was set, STO is demanded (R300). -/
def execStoDelayExpired (u : Fin 16) (s : State) : Host.Outcome State Fault Refusal :=
  s.run fun d =>
    inUnits d u
      (fun d l y => y.stoWait && msReached d y.sosFr (armCfg (laneOf d l).image.params u).stoDelayMs)
      (fun _ _ y => enterSto y)

/-- BRK_REL_MS of a unit; a local axis has no value of its own and takes the default of Table 10-6. -/
def brkRelMs (c : SafetyConfig) (u : Nat) : Nat := if u < 16 then (armCfg c u).brkRelMs else ({} : ArmCfg).brkRelMs

/-- LOCAL_SS1_TIMEOUT: LX_SS1_MS after the SS1 of local axis `k`, STO with cause 0x0D (R307). -/
def execLocalSs1Timeout (k : Fin 16) (s : State) : Host.Outcome State Fault Refusal :=
  s.run fun d =>
    inUnits d (16 + k)
      (fun d l y => decide (y.func = 4) && msReached d y.stopFr (SMap.get {} (laneOf d l).image.params.locals k).ss1Ms)
      (fun _ _ y => enterSto (addDemand y 0x0D 5 0))

/-- DRIVE_STO_ACK_TIMEOUT: STO demanded by at least two lanes was not reported within STO_ACK_FR frames (R310). -/
def execDriveStoAckTimeout (u : Fin 16) (s : State) : Host.Outcome State Fault Refusal :=
  s.run fun d =>
    let p := fun (d : Dev) (l : Lane) (y : UnitDyn) =>
      decide ((laneOf d l).image.params.stoAckFr ≤ y.noStoFr) &&
        !(y.demands.any fun q => decide (q.cause = 0x0B ∧ q.index = 0))
    let fired := evaluates d d.firstLane && p d d.firstLane (unitDyn (laneOf d d.firstLane).saf u)
    let d := inUnits d u p (fun _ _ y => enterSto (addDemand y 0x0B 5 0))
    if fired then d.event .DRIVE_STO_FAIL (srcUnit u) else d

end Sys2Proof.Machine
end

