-- ==== Sys2Proof/Machine/Brakes.lean ====
section
/-!
DEFINITION. Brake-by-wire outputs, chapter 04: commanded release and gate lines (R135 to R138), coil current monitoring (R141) and
the proof test (R142 to R148).
-/
namespace Sys2Proof.Machine

/-- The lane under test of a running step, if a step and not its gap runs. -/
def stepLane (y : BrakeDyn) : Option Lane :=
  match y.test with
  | some t => if t.gap then none else t.lane
  | none => none

/-- A light test runs on the channel. -/
def lightRuns (y : BrakeDyn) : Bool :=
  match y.test with
  | some t => !t.dark
  | none => false

/-- The channel's release is granted: by its unit's functions, after a light pass, with no light test running and no lock but
for the dark part of a full test (R137, R141, R143). -/
def releaseWanted (c : SafetyConfig) (x : SafState) (k : Nat) : Bool :=
  let y := brakeDyn x k
  match (brakeCfg c k).unit with
  | some u => (unitDyn x u).brakeRel && y.lightAge.isSome && !lightRuns y && (!y.locked || decide (y.fullTest = 2))
  | none => false

/-- The gate lines lane `l` energises: the released channels, the line under test in a light step, not the one in a dark step
(R142). Outside IN_SERVICE, in Hold mode, and with the device de-energised all are off. -/
def gateMask (d : Dev) (l : Lane) : Nat :=
  let x := laneOf d l
  if !inService d l ∨ x.latch ∨ inHold d ∨ x.saf.deen then 0
  else (List.range 16).foldl (fun m k =>
    let y := brakeDyn x.saf k
    let on := match y.test, stepLane y with
      | some t, some z => if z = l then !t.dark else y.cmd
      | _, _ => y.cmd
    if on then m + 2 ^ k else m) 0

/-- Drive the gate lines of every lane. -/
def driveGates (d : Dev) : Dev := d.each Lane.all fun d l => setGates d l (gateMask d l)

/-- Values are present and all lie within limits, in uA: missing items fail (R379). -/
def allWithin (sc lo hi : Int) (vs : List Int) : Bool :=
  !vs.isEmpty && vs.all fun v => decide (lo ≤ microAmp sc v ∧ microAmp sc v ≤ hi)

/-- A limit without bound. -/
def noLimit : Int := 2 ^ 62

/-- Least and greatest of a list. -/
def spanOf (vs : List Int) : Int × Int := vs.foldl (fun s v => (min s.1 v, max s.2 v)) (noLimit, -noLimit)

/-- The group sum check of Table 4-6, on every combination of the values agreed (R90). -/
def groupSumOk (c : SafetyConfig) (x : LaneState) (j : Nat) : Bool :=
  let g := SMap.get ({} : SenseCfg) c.senses j
  let chans := (List.range 4).map fun i => ((brakeCfg c (4 * j + i)).scale, adcMeans x (4 * j + i))
  let grp := adcMeans x (16 + j)
  if chans.any (fun p => p.2.isEmpty) ∨ grp.isEmpty then false
  else
    let lo := chans.foldl (fun n p => n + (spanOf (p.2.map (microAmp p.1))).1) 0
    let hi := chans.foldl (fun n p => n + (spanOf (p.2.map (microAmp p.1))).2) 0
    let s := spanOf (grp.map (microAmp g.scale))
    decide (hi - s.1 ≤ g.sumTol * 1000 ∧ s.2 - lo ≤ g.sumTol * 1000)

/-- Lock channel `k` set in lane `l` and stop its unit as outcome ARM does (R130, R141). -/
def lockChannel (d : Dev) (l : Lane) (k : Nat) : Dev :=
  let d := onBrake d l k fun b => { b with locked := true, test := none, fullTest := 0 }
  match (brakeCfg (laneOf d l).image.params k).unit with
  | some u => onUnit (dropUnitTests d l u) l u fun y => addDemand y 0x04 4 (1 + k)
  | none => d

/-- The checks of Table 4-6 for channel `k` in lane `l` (R141): a check that fails in 4 consecutive frames locks the channel,
and one that has gone on failing when a full test ends the lock locks it again. -/
def checkBrake (d : Dev) (l : Lane) (k : Nat) : Dev :=
  let x := laneOf d l
  let c := x.image.params
  let b := brakeCfg c k
  let y := brakeDyn x.saf k
  let suspended := match y.test with
    | some t => t.lane.isSome && decide (t.frames ≤ c.ptPulseFr + 1)
    | none => false
  if suspended then d
  else
    let onOk := !y.cmd || !msReached d y.relFr b.relMs || allWithin b.scale (b.iMin * 1000) (b.iMax * 1000) (adcMeans x k)
    let offOk := y.cmd || !msReached d y.setFr b.setMs || allWithin b.scale (-noLimit) (b.iOff * 1000) (adcMaxima x k)
    let sumOk := groupSumOk c x (k / 4)
    let run := fun (ok : Bool) (n : Nat) => if ok then 0 else min 4 (n + 1)
    let y' := { y with badOn := run onOk y.badOn, badOff := run offOk y.badOff, badSum := run sumOk y.badSum }
    let fires := fun (now old : Nat) => decide (now = 4) && (decide (old < 4) || !y.locked)
    let coil := fires y'.badOn y.badOn || fires y'.badOff y.badOff
    let sum := fires y'.badSum y.badSum
    let d := onBrake d l k fun _ => y'
    let d := if coil ∨ sum then lockChannel d l k else d
    if l = d.firstLane then
      let d := if coil then
          countFault ((d.flag .SAF_BRK_STAT_BRAKE_FAULT k).event .BRAKE_FAULT (srcBrake k)) .brake k .BRAKE_FAULT
        else d
      if sum then
        let d := d.each (List.range 4) fun d i => d.flag .SAF_BRK_STAT_SENSE_FAULT (k / 4 * 4 + i)
        countFault (d.event .SENSE_FAULT (srcBrake k)) .brake k .SENSE_FAULT
      else d
    else d

/-- The check of R142 on the running or ended step of channel `k` with the data of this frame: none if no check falls in it. -/
def stepCheck (c : SafetyConfig) (x : LaneState) (k : Nat) (t : ProofTest) : Option Bool :=
  let b := brakeCfg c k
  let n := c.ptPulseFr
  if t.lane.isNone then none
  else if t.dark then
    if 4 ≤ t.frames ∧ t.frames ≤ n + 1 then some (allWithin b.scale (b.iMin * 1000) noLimit (adcMeans x k)) else none
  else if 2 ≤ t.frames ∧ t.frames ≤ n + 3 then some (allWithin b.scale (-noLimit) (b.iOff * 1000) (adcMaxima x k)) else none

/-- Every step has run and its last check is made. -/
def testOver (c : SafetyConfig) (t : ProofTest) : Bool :=
  decide (t.left = []) && t.gap && decide (c.ptPulseFr + (if t.dark then 1 else 3) ≤ t.frames)

/-- A part of the proof test passes (R142, R145, R146): its age restarts; the light part ends the demand of this channel's overdue test and the pending
marks of the lanes it tested (of a test of pending steps alone too: DESIGN CHOICE, log 110), the dark part of a full test ends the lock. -/
def testPass (d : Dev) (l : Lane) (k : Nat) (t : ProofTest) : Dev :=
  let c := (laneOf d l).image.params
  if t.dark then
    let full := decide ((brakeDyn (laneOf d l).saf k).fullTest = 2)
    let d := onBrake d l k fun b =>
      { b with test := none, darkAge := some 0, dueDark := false, locked := b.locked && !full, fullTest := 0 }
    if full ∧ l = d.firstLane then clearFaults d .brake (some k) else d
  else
    let d := onBrake d l k fun b =>
      { b with test := none, lightAge := some 0, dueLight := false, fullTest := if b.fullTest = 1 then 2 else b.fullTest,
               pendingLanes := b.pendingLanes.filter fun z => !t.ran.contains z }
    match (brakeCfg c k).unit with
    | some u => onUnit d l u fun y => { y with demands := y.demands.filter fun q => decide (¬ (q.cause = 0x10 ∧ q.index = k)) }
    | none => d

/-- The proof test of channel `k` meets this frame's data: a failed check is a BRAKE fault (R147), a test with every check made
passes. -/
def settleTest (d : Dev) (l : Lane) (k : Nat) : Dev :=
  let x := laneOf d l
  let c := x.image.params
  match (brakeDyn x.saf k).test with
  | none => d
  | some t =>
    match stepCheck c x k t with
    | some false =>
      let d := lockChannel d l k
      if l = d.firstLane then
        let step := (match t.lane with
          | some z => z.idx
          | none => 0) + (if t.dark then 3 else 0)
        let d := ((d.flag .SAF_BRK_STAT_PT_FAIL k).wr .SAF_BRK_STAT_PT_FAIL_STEP k step).event .PT_FAIL (srcBrake k)
        countFault d .brake k .PT_FAIL
      else d
    | _ => if testOver c t then testPass d l k t else d

/-- The dark test of a channel is abandoned when a lane is out of service, an arbitration runs or the channel is set (R148). -/
def abandonDark (d : Dev) (l : Lane) : Dev :=
  let arb := (serviceLanes d).any fun m => decide (0 < (laneOf d m).arb.phase)
  d.each (List.range 16) fun d k =>
    let x := laneOf d l
    match (brakeDyn x.saf k).test with
    | some t =>
      if t.dark ∧ ((serviceLanes d).length < 3 ∨ arb ∨ !releaseWanted x.image.params x.saf k) then
        onBrake d l k fun b => { b with test := none }
      else d
    | none => d

/-- The commanded release follows what is granted. -/
def commandBrakes (d : Dev) (l : Lane) : Dev :=
  let c := (laneOf d l).image.params
  d.each (List.range 16) fun d k =>
    let w := releaseWanted c (laneOf d l).saf k
    if (brakeDyn (laneOf d l).saf k).cmd = w then d else onBrake d l k fun b => { b with cmd := w, relFr := 0, setFr := 0 }

/-- Change channel `k` in every evaluating lane in which the condition holds, drive the gate lines and show it. -/
def inBrakes (d : Dev) (k : Nat) (p : Dev → Lane → BrakeDyn → Bool) (f : Dev → Lane → BrakeDyn → BrakeDyn) : Dev :=
  let d := inLanes d (fun d l => if p d l (brakeDyn (laneOf d l).saf k) then onBrake d l k (f d l) else d)
    (fun d l => showBrake d l k)
  driveGates d

/-- BRAKE_RELEASE_DELAY: BRK_REL_MS after the drives reported torque, the release of unit `u` is granted (R311). -/
def execBrakeReleaseDelay (u : Fin 32) (s : State) : Host.Outcome State Fault Refusal :=
  s.run fun d =>
    let d := inLanes d
      (fun d l =>
        let y := unitDyn (laneOf d l).saf u
        match y.relWait with
        | some n =>
          if y.torque ∧ y.func ≤ 1 ∧ msReached d n (brkRelMs (laneOf d l).image.params u) then
            commandBrakes (onUnit d l u fun y => { y with brakeRel := true, relWait := none }) l
          else d
        | none => d)
      (fun d l => (d.each (unitBrakes (laneOf d l).image.params u) fun d k => showBrake d l k))
    showUnit (driveGates d) d.firstLane u

/-- Frames of PT_INTERVAL_H. -/
def testFrames (d : Dev) (c : SafetyConfig) : Nat := c.ptIntervalH * 3600000000000 / d.frameNs

/-- Frames of PT_WARN_MIN. -/
def warnFrames (d : Dev) (c : SafetyConfig) : Nat := c.ptWarnMin * 60000000000 / d.frameNs

/-- An age of at least `n` frames; none counts as older than every interval (R143). -/
def agedOf (n : Nat) : Option Nat → Bool
  | none => true
  | some a => decide (n ≤ a)

/-- The pending lanes that are back in service (R145). -/
def pendingBack (d : Dev) (y : BrakeDyn) : List Lane := y.pendingLanes.filter fun z => inService d z

/-- The light test of channel `k` is due in lane `l` and may start (R141, R143, R145). -/
def lightDue (d : Dev) (l : Lane) (k : Nat) : Bool :=
  let x := laneOf d l
  let c := x.image.params
  let y := brakeDyn x.saf k
  (brakeCfg c k).unit.isSome && !y.cmd && msReached d y.setFr (brakeCfg c k).setMs &&
    (decide (y.fullTest = 1) || agedOf (testFrames d c / 8) y.lightAge || !(pendingBack d y).isEmpty)

/-- A lane reports SUPPLY_WARN. -/
def supplyWarned (d : Dev) : Bool := (serviceLanes d).any fun m => (laneOf d m).supplyWarn

/-- The dark test of channel `k` is due in lane `l` and may start (R141, R144). -/
def darkDue (d : Dev) (l : Lane) (k : Nat) : Bool :=
  let x := laneOf d l
  let c := x.image.params
  let y := brakeDyn x.saf k
  (brakeCfg c k).unit.isSome && y.cmd && decide ((serviceLanes d).length = 3) &&
    !((serviceLanes d).any fun m => decide (0 < (laneOf d m).arb.phase)) && !supplyWarned d &&
    (decide (y.fullTest = 2) || agedOf (testFrames d c / 8) y.darkAge)

/-- No channel of the lane is under test: one channel at a time, in ascending order (R142). -/
def testFree (d : Dev) (l : Lane) : Bool := (List.range 16).all fun k => (brakeDyn (laneOf d l).saf k).test.isNone

/-- PT_LIGHT_TEST_START: the light test of channel `k` starts with the steps of the lanes in service, or with the pending steps
alone (R143, R145). -/
def execPtLightTestStart (k : Fin 16) (s : State) : Host.Outcome State Fault Refusal :=
  s.run fun d =>
    inBrakes d k
      (fun d l _ => testFree d l && lightDue d l k && !((List.range k).any fun i => lightDue d l i))
      (fun d l y =>
        let full := decide (y.fullTest = 1) || agedOf (testFrames d (laneOf d l).image.params / 8) y.lightAge
        let steps := if full then serviceLanes d else pendingBack d y
        { y with
          test := some { dark := false, left := steps }
          pendingLanes := y.pendingLanes ++ Lane.all.filter fun z => full && !inService d z && !y.pendingLanes.contains z })

/-- PT_DARK_TEST_START: the dark test of channel `k` starts (R144). -/
def execPtDarkTestStart (k : Fin 16) (s : State) : Host.Outcome State Fault Refusal :=
  s.run fun d =>
    inBrakes d k
      (fun d l _ => testFree d l && darkDue d l k && !((List.range k).any fun i => darkDue d l i))
      (fun _ _ y => { y with test := some { dark := true, left := Lane.all } })

/-- The next step of a test may begin: the first at once, another 8 frames after the end of the one before (R142). -/
def stepReady (c : SafetyConfig) (y : BrakeDyn) : Bool :=
  match y.test with
  | some t => !t.left.isEmpty && (t.lane.isNone || (t.gap && decide (c.ptPulseFr + 8 ≤ t.frames)))
  | none => false

/-- Begin the next step of a test; a lane no longer in service is left pending (R145). -/
def beginStep (d : Dev) (y : BrakeDyn) : BrakeDyn :=
  match y.test with
  | some t =>
    let gone := t.left.filter fun z => !inService d z && !t.dark && !y.pendingLanes.contains z
    match t.left.filter fun z => inService d z with
    | [] => { y with test := some { t with left := [] }, pendingLanes := y.pendingLanes ++ gone }
    | z :: rest =>
      { y with
        test := some { t with lane := some z, left := rest, ran := t.ran ++ [z], frames := 0, gap := false }
        pendingLanes := y.pendingLanes ++ gone }
  | none => y

/-- PT_STEP_START: at a tick the lane of the next step changes its gate line alone (R142). -/
def execPtStepStart (k : Fin 16) (s : State) : Host.Outcome State Fault Refusal :=
  s.run fun d =>
    inBrakes d k (fun d l y => stepReady (laneOf d l).image.params y) (fun d _ y => beginStep d y)

/-- PT_STEP_END: after PT_PULSE_FR frames the line under test returns to the command and the gap follows (R142). -/
def execPtStepEnd (k : Fin 16) (s : State) : Host.Outcome State Fault Refusal :=
  s.run fun d =>
    inBrakes d k
      (fun d l y => match y.test with
        | some t => t.lane.isSome && !t.gap && decide ((laneOf d l).image.params.ptPulseFr ≤ t.frames)
        | none => false)
      (fun _ _ y => { y with test := y.test.map fun t => { t with gap := true } })

/-- The dark age has reached PT_INTERVAL_H − PT_WARN_MIN (R144). -/
def darkOld (d : Dev) (l : Lane) (k : Nat) : Bool :=
  let x := laneOf d l
  let c := x.image.params
  let y := brakeDyn x.saf k
  (brakeCfg c k).unit.isSome && !y.dueDark && agedOf (testFrames d c - warnFrames d c) y.darkAge

/-- The light age of a released channel has reached PT_INTERVAL_H − PT_WARN_MIN (R146). -/
def lightOld (d : Dev) (l : Lane) (k : Nat) : Bool :=
  let x := laneOf d l
  let c := x.image.params
  let y := brakeDyn x.saf k
  (brakeCfg c k).unit.isSome && y.cmd && !y.dueLight && agedOf (testFrames d c - warnFrames d c) y.lightAge

/-- PT_DUE: a test age of channel `k` has reached PT_INTERVAL_H − PT_WARN_MIN (R144, R146). -/
def execPtDue (k : Fin 16) (s : State) : Host.Outcome State Fault Refusal :=
  s.run fun d =>
    let l0 := d.firstLane
    let fired := evaluates d l0 && (darkOld d l0 k || lightOld d l0 k)
    let d := inLanes d
      (fun d l => onBrake d l k fun b => { b with dueDark := b.dueDark || darkOld d l k, dueLight := b.dueLight || lightOld d l k })
      (fun d l => showBrake d l k)
    if fired then d.event .PT_DUE (srcBrake k) else d

/-- PT_INTERVAL_EXPIRED: the light age of a released channel has reached PT_INTERVAL_H; its unit is stopped with SS1 under cause
0x10 (R146). -/
def execPtIntervalExpired (k : Fin 16) (s : State) : Host.Outcome State Fault Refusal :=
  s.run fun d =>
    match (brakeCfg d.cfg k).unit with
    | some u =>
      inLanes d
        (fun d l =>
          let x := laneOf d l
          let y := brakeDyn x.saf k
          if y.cmd && agedOf (testFrames d x.image.params) y.lightAge then
            onUnit (dropUnitTests d l u) l u fun y => applyDemands x.image.params x.saf u (addDemand y 0x10 4 k)
          else d)
        (fun d l => showUnit d l u)
    | none => d

end Sys2Proof.Machine
end

