-- ==== Sys2Proof/Machine/Evaluation.lean ====
section
/-!
DEFINITION. The lane evaluation, chapters 03, 04 and 10: silence and link faults (R87, R115 to R118), the comparison of decisions
(R95), the vote and the safety functions acting through the lane's own outputs (R93), overrun (R119), the safety buffer (R163),
arbitration (R96 to R98, R511), degraded mode (R123 to R127), and the ring's completion limit (R113, R172).
-/
namespace Sys2Proof.Machine

/-! Silence and exchange links. -/

/-- Lane `m` is declared FAULTED by silence: each declaring lane flags it and writes its event (R87). -/
def declareSilent (d : Dev) (m : Lane) : Dev :=
  let judges := (serviceLanes d).filter fun l => decide (l ≠ m)
  let d := d.flag .LN_STATUS_LANE_SILENT m.idx
  let d := d.each judges fun d l => d.event .LANE_SILENT (srcLane l) m.idx
  laneFault d m .faulted .LANE_SILENT

/-- R87 and R118 in lane `l`: a lane that every other lane in service has counted silent in two consecutive frames. -/
def judgeSilence (d : Dev) (l : Lane) : Dev :=
  d.each (l.others.filter fun m => inService d m) fun d m =>
    let judges := (serviceLanes d).filter fun j => decide (j ≠ m)
    if judges.all (fun j => decide (2 ≤ (laneOf d j).silentRun.get m)) then declareSilent d m else d

/-- SEEN of lane `m`'s records of this frame and of the frame before, as lane `l` holds them. -/
def seenTwice (x : LaneState) (m : Lane) : Option (Nat × Nat) :=
  match x.frames.get m, x.framesPrev.get m with
  | some r, some p => some (r.seen, p.seen)
  | _, _ => none

/-- The direction `tx` to `rx` failed (R115): `rx` counted `tx` silent in the two frames before, the third lane did not, and its SEEN fields
in the records that lane `l` holds show that it received `tx` in both. -/
def linkFailed (d : Dev) (l tx rx z : Lane) : Bool :=
  decide (2 ≤ (laneOf d rx).silentBefore.get tx ∧ (laneOf d z).silentBefore.get tx = 0) &&
    match seenTwice (laneOf d l) z with
    | some b => b.1.testBit tx.idx && b.2.testBit tx.idx
    | none => false

/-- R115 in lane `l`, with three lanes in service: the lane at the receiving end of a failed direction leaves service at the next
tick; if both directions of a pair failed, the later of the two. -/
def judgeLinkFaults (d : Dev) (l : Lane) : Dev :=
  if (regardedLanes d).length = 3 then
    let pairs : List (Lane × Lane × Lane) := [(.a, .b, .c), (.a, .c, .b), (.b, .c, .a)]
    d.each pairs fun d p =>
      let fwd := linkFailed d l p.1 p.2.1 p.2.2
      let bwd := linkFailed d l p.2.1 p.1 p.2.2
      let d := if fwd then d.wrBit .SAF_LINK_LINK_FAULT 0 (linkBit p.1 p.2.1) true else d
      let d := if bwd then d.wrBit .SAF_LINK_LINK_FAULT 0 (linkBit p.2.1 p.1) true else d
      if fwd ∨ bwd then
        let y := if fwd then p.2.1 else p.1
        if (laneOf d y).leaveAtTick then d
        else
          let d := onLane d y fun z => { z with leaveAtTick := true }
          (d.wrBit .SAF_LANE_OUT_LINK_OUT 0 y.idx true).event .LINK_FAULT (srcLane y) y.idx
      else d
  else d

/-! Decisions and arbitration triggers. -/

/-- Whether a record of the frame before reached some lanes in service and not others (R95). -/
def unevenSeen (rs : List FrameRecord) : Bool :=
  (List.range 3).any fun i => (rs.any fun r => r.seen.testBit i) && rs.any fun r => !r.seen.testBit i

/-- The lanes a difference of decisions names (R95, R511). -/
def decisionSuspects : List (Lane × Nat) → List Lane
  | [a, b, c] =>
    if a.2 = b.2 ∧ b.2 = c.2 then []
    else if b.2 = c.2 then [a.1] else if a.2 = c.2 then [b.1] else if a.2 = b.2 then [c.1] else [a.1, b.1, c.1]
  | [a, b] => if a.2 = b.2 then [] else [a.1, b.1]
  | _ => []

/-- R95 in lane `l`: its own decisions of the frame before against those in the usable records it holds of the other lanes. Two differing
decisions name both lanes (where a third lane's record is missing too: DESIGN CHOICE, log 107). -/
def compareDecisions (d : Dev) (l : Lane) : Dev :=
  let rs := Lane.all.filterMap fun m => (usableOf d l m).map fun r => (m, r)
  let own := (l, (laneOf d l).decisionPrev)
  let ds := Lane.all.filterMap fun m =>
    if m = l then some own else (rs.find? fun p => decide (p.1 = m)).map fun p => (m, p.2.decision)
  if unevenSeen (rs.map Prod.snd) then d
  else d.each (decisionSuspects ds) fun d m => nameSuspect d l m

/-- DECISION of lane `l`'s evaluation (Table 3-2). -/
def decisionOf (x : LaneState) : Nat :=
  let bits := fun (n off : Nat) (f : Nat → Bool) => (List.range n).foldl (fun m i => if f i then m + 2 ^ (off + i) else m) 0
  bits 16 0 (fun k => (brakeDyn x.saf k).cmd) +
    bits 16 16 (fun a => unitUsed x.image.params a && decide (2 ≤ (unitDyn x.saf a).func)) +
    bits 16 32 (fun a => (armSep x.saf a).capped)

/-! Degraded mode (R123 to R127). -/

/-- Every lane in service uses the smallest remainder among the valid records of lanes in service (R123). -/
def agreeRemain (d : Dev) (l : Lane) : Dev :=
  let x := laneOf d l
  match x.saf.degLeft with
  | none => d
  | some n =>
    let own := n * d.frameNs / 1000000
    let least := (serviceLanes d).foldl (fun m k => match x.frames.get k with
      | some r => min m r.degRemain
      | none => m) own
    if least < own then onSaf d l fun y => { y with degLeft := some (least * 1000000 / d.frameNs) } else d

/-- Tightening is in force (R126). -/
def tightNow (d : Dev) (l : Lane) : Bool :=
  (laneOf d l).saf.degLeft.isSome || (serviceLanes d).any fun m => match (laneOf d l).frames.get m with
    | some r => r.flags.testBit 1
    | none => false

/-- The mirrors of degraded mode (Table 4-9), from the first lane in service. -/
def showDegraded (d : Dev) : Dev :=
  let x := laneOf d d.firstLane
  let d := d.put .SAF_DEG_STATUS_ACTIVE (bitOf x.saf.degLeft.isSome)
  let d := d.put .SAF_DEG_STATUS_TIGHTENED (bitOf x.saf.tight)
  let d := d.put .SAF_DEG_STATUS_SUPPLY_WARN (Lane.all.foldl (fun m k => match x.frames.get k with
    | some r => if r.laneState = 5 ∧ r.flags.testBit 1 then m + 2 ^ k.idx else m
    | none => m) 0)
  let d := d.put .SAF_DEG_REMAIN_MS (remainMs d x.saf)
  d.put .SAF_DEG_HEALTHY_MS (if x.saf.degLeft.isSome then min 600000 (d.fault.healthyFr * d.frameNs / 1000000) else 0)

/-- DEG_TIMER_EXPIRED: the timer has reached zero; SS1 for every unit, Safe state (R124, R132). -/
def execDegTimerExpired (s : State) : Host.Outcome State Fault Refusal :=
  s.run fun d =>
    let x := laneOf d d.firstLane
    if x.saf.degLeft = some 0 ∧ !x.saf.degExpired then
      let d := d.each (serviceLanes d) fun d l => onSaf d l fun y => { y with degExpired := true }
      let d := stopAll d 0x03
      showDegraded ((d.flag .SAF_DEG_STATUS_EXPIRED).event .DEG_EXPIRED srcSafety)
    else d

/-- DEG_TIMER_STOP: three lanes in service for 10 min without a fault end the timer, the LANE faults clear and Degraded gives way
to Run (R109, R114, R124). -/
def execDegTimerStop (s : State) : Host.Outcome State Fault Refusal :=
  s.run fun d =>
    let x := laneOf d d.firstLane
    if x.saf.degLeft.isSome ∧ !x.saf.degExpired ∧ healthy d then
      let d := d.each Lane.all fun d l => onSaf d l fun y => { y with degLeft := none }
      let d := clearFaults d .lane none
      showDegraded (if d.mode = .degraded then d.setMode .run else d)
    else d

/-- TIGHTENING_RAMP_END: the limits reach the target of the running ramp after DEG_RAMP_MS (R126). -/
def execTighteningRampEnd (s : State) : Host.Outcome State Fault Refusal :=
  s.run fun d =>
    d.each (Lane.all.filter fun l => evaluates d l) fun d l =>
      let r := rampFrames d (laneOf d l).image.params
      onSaf d l fun y =>
        if y.tight ∧ r ≤ y.tightFr + 1 then { y with tightFr := r }
        else if !y.tight ∧ y.tightFr ≤ 1 then { y with tightFr := 0 } else y

/-! The correction registers (R373). -/

/-- ADC_CORRc as the image gives it: OFFSET and GAIN of channel `c`. -/
def corrOf (c : SafetyConfig) (ch : Nat) : Nat := SMap.get 0x40000000 c.adcCorr ch

/-- The value of ADC_CORRc. -/
def corrWord (d : Dev) (ch : Nat) : Nat := d.rd .ADC_CORR_OFFSET ch + 2 ^ 16 * d.rd .ADC_CORR_GAIN ch

/-- Write ADC_CORRc. -/
def writeCorr (d : Dev) (ch v : Nat) : Dev := (d.wr .ADC_CORR_OFFSET ch v).wr .ADC_CORR_GAIN ch (v / 2 ^ 16)

/-- Every monitor frame lane `l` reads back every ADC_CORRc; one that differs from the image is rewritten and the channel's items
are missing through the first frame corrected with it. -/
def checkCorr (d : Dev) (l : Lane) : Dev :=
  let c := (laneOf d l).image.params
  d.each (List.range 31) fun d ch =>
    if corrWord d ch = corrOf c ch then d
    else
      let d := (writeCorr d ch (corrOf c ch)).flag .ADC_STATUS_CORR_RESTORE
      let d := d.each Lane.all fun d m => onLane d m fun x => { x with corrMiss := SMap.set 0 x.corrMiss ch 3 }
      d.event .ADC_CORR_RESTORE srcAdc ch

/-! Mode changes that the evaluation brings. -/

/-- Every configured unit is DISABLED, as the first lane in service holds it. -/
def allDisabled (d : Dev) : Bool :=
  let x := laneOf d d.firstLane
  (List.range 32).all fun u => !unitUsed x.image.params u || (unitDyn x.saf u).disabled

/-- Run and Degraded return to Standstill once motion enable is withdrawn and every unit is DISABLED (R311); an outcome STOP ends
in Safe state once every unit is in STO (R124, R130). LANE faults clear after 10 min of three lanes in service (R114). -/
def stepMode (d : Dev) : Dev :=
  let x := laneOf d d.firstLane
  let d := if healthy d then clearFaults d .lane none else d
  match d.mode with
  | .boot | .hold | .safeState => d
  | m =>
    if x.saf.stopOutcome ∧ (List.range 32).all (fun u => decide ((unitDyn x.saf u).func = 5)) then
      withdrawEnables (d.setMode .safeState)
    else if (m = .run ∨ m = .degraded) ∧ !x.saf.motionEnable ∧ allDisabled d then d.setMode .standstill
    else d

/-- SAFE_OK of lane `l` (R43, R319). -/
def safeOkWanted (d : Dev) (l : Lane) : Bool :=
  let x := laneOf d l
  let healthyInputs := !anyDisc d l
  match d.mode with
  | .hold => x.selftested && inService d l && healthyInputs && !x.latch
  | .standstill | .run | .degraded =>
    inService d l && healthyInputs && !x.saf.degExpired && !x.latch && decide (2 ≤ (regardedLanes d).length)
  | .boot | .safeState => false

/-! Rejoin (R107, R108, R113, R116). -/

/-- A FAULTED lane whose cores run starts R107 at step 2 once the cause that put it out of service is gone. -/
def rejoinReady (d : Dev) (l : Lane) : Bool :=
  let x := laneOf d l
  let by_ := fun (e : Ev) => decide (x.outCause = e.code)
  !x.latch && !x.tickLost && !d.on .LN_STATUS_REJOIN_LIMIT l.idx &&
    ((by_ .LANE_SILENT && (serviceLanes d).all fun m => decide ((laneOf d m).silentRun.get l = 0)) ||
      (by_ .LINK_FAULT && l.others.all fun m => decide (16 ≤ x.goodRun.get m)) ||
      (by_ .RING_LOST && decide (16 ≤ (ringOf d l).validRun)) ||
      by_ .TICK_LOST)

/-- Step 4 of R107 in a SHADOW lane: its DECISION and digest against those of the lanes in service. A frame that lacks the record of one of
them is none of the 16. -/
def shadowStep (d : Dev) (l : Lane) : Dev :=
  let x := laneOf d l
  let ms := regardedLanes d
  let rs := ms.filterMap fun m => usableOf d l m
  let dec := rs.all fun r => decide (r.decision = x.decisionPrev)
  let dig := rs.all fun r => decide (r.digest = x.cfgDigest)
  if !(dec && dig) then enterResync d l (!dig)
  else if rs.length < ms.length ∨ ms = [] then onLane d l fun y => { y with shadowRun := 0 }
  else onLane d l fun y => { y with shadowRun := min 16 (y.shadowRun + 1) }

/-! The evaluation. -/

/-- The outputs of lane `l` after its evaluation (R93). -/
def laneOutputs (d : Dev) (l : Lane) : Dev :=
  setSafeOk (setGates d l (gateMask d l)) l (safeOkWanted d l)

/-- The mirrors of the safety functions, from the first lane in service. -/
def showSafety (d : Dev) : Dev :=
  let l := d.firstLane
  let d := d.each (List.range 24) fun d i => showInput d l i
  let d := d.put .SAF_SAFE_OK_DISC_ANY (bitOf (anyDisc d l))
  let d := d.each (List.range 32) fun d u => showUnit d l u
  showDegraded (d.each (List.range 16) fun d k => showBrake d l k)

/-- The safety functions of a lane that evaluates, outside Hold and Boot. -/
def evalFunctions (d : Dev) (l : Lane) : Dev :=
  let d := if d.frameNo % 2 = 0 then checkCorr d l else d
  let d := if d.frameNo % 2 = 0 ∧ monitorsRun d ∧ 4 ≤ d.monitorFr then votePass d l else d
  let d := agreeRemain d l
  let d := onSaf d l fun x => { x with tight := tightNow d l }
  let d := abandonDark d l
  let ks := (List.range 16).filter fun k => (brakeCfg (laneOf d l).image.params k).unit.isSome
  let d := d.each ks fun d k => checkBrake (settleTest d l k) l k
  let d := d.each (List.range 32) fun d u => evalUnit d l u
  let d := commandBrakes d l
  onLane d l fun x => { x with decision := decisionOf x }

/-- The end of the lane evaluation window (Table 2-2). -/
def evaluationEnd (d : Dev) : Nat := d.frameNs - 12500

/-- While an arbitration runs, two lanes left in service with a suspect among them demand SS1 as in the two-lane case (R96, R97); suspects
that have left need no more than their verdicts (R100). -/
def arbDemand (d : Dev) (l : Lane) : Dev :=
  let x := laneOf d l
  if 0 < x.arb.phase ∧ (serviceLanes d).length = 2 ∧ (serviceLanes d).any (fun m => x.arb.suspects.testBit m.idx) then
    showVote (onLane d l fun y => { y with arb := { y.arb with ss1 := true } })
  else d

/-- LANE_EVALUATION of lane `l` (R93). -/
def evaluateLane (d : Dev) (l : Lane) : Dev :=
  let begin' := fun (d : Dev) => onLane (d.reach 4000) l fun x => { x with evaluated := true }
  match laneMode d l with
  | .inService =>
    if (laneOf d l).latch then d
    else
      let d := judgeSilence (begin' d) l
      let d := if inHold d then d else compareDecisions (judgeLinkFaults d l) l
      if !inService d l then d
      else
        let d := if inHold d then d else evalFunctions (arbDemand d l) l
        let d := laneOutputs d l
        if l = d.firstLane then stepMode (showSafety d) else d
  | .shadow => if (laneOf d l).latch then d else shadowStep (if inHold d then begin' d else evalFunctions (begin' d) l) l
  | .resync => if evaluates d l ∧ !inHold d then evalFunctions (begin' d) l else d
  | .faulted => if rejoinReady d l then enterResync d l true else d
  | .absent | .boot | .selftest | .reload | .debug => d

/-- LANE_EVALUATION: lane `l` runs the safety functions, checks and votes on the agreed values and acts through its own outputs, within its
window (R53, R93). -/
def execLaneEvaluation (l : Lane) (s : State) : Host.Outcome State Fault Refusal :=
  s.run fun d =>
    if d.tb.ticking ∧ !(laneOf d l).evaluated ∧ d.offset < evaluationEnd d then evaluateLane d l else d

/-- EVALUATION_WINDOW_END: a lane whose evaluation is not complete has overrun (R119, R120). -/
def execEvaluationWindowEnd (l : Lane) (s : State) : Host.Outcome State Fault Refusal :=
  s.run fun d =>
    if d.tb.ticking ∧ evaluates d l then
      let d := d.reach (evaluationEnd d)
      if (laneOf d l).evaluated then onLane d l fun x => { x with overrun := false, overrunRun := 0 }
      else
        let d := onLane d l fun x => { x with overrun := true, overrunRun := min 2 (x.overrunRun + 1) }
        (d.wrBit .SAF_LANE_OUT_OVERRUN 0 l.idx true).event .LANE_OVERRUN (srcLane l)
    else d

/-! The safety buffer (R73, R117, R119, R163, R189, R300, R308). -/

/-- The nibble of one axis: STO, brake set and stop code of its unit; an axis of no configured unit is held in STO (R163). -/
def axisNibble (c : SafetyConfig) (x : SafState) (u : Option Nat) : Nat :=
  match u with
  | none => 3
  | some u =>
    let y := unitDyn x u
    let rel := match unitBrakes c u with
      | [] => y.brakeRel
      | ks => ks.any fun k => (brakeDyn x k).cmd
    let stop := match y.func with
      | 4 => 1
      | 3 => 2
      | 2 => 3
      | _ => 0
    bitOf (decide (y.func = 5)) + 2 * bitOf (!rel) + 4 * stop

/-- The arm that owns device joint `j`. -/
def armOfJoint (c : SafetyConfig) (j : Nat) : Option Nat :=
  (List.range 16).find? fun a => (armJoints c a).contains j

/-- The safety command payload of schedule entry `e` (Table 6-6): a nibble per axis for a drive, the torque of local axes at
their I/O bits, zero for others. -/
def commandPayload (c : SafetyConfig) (x : SafState) (e : Nat) : List Byte :=
  let n := entryAt c.schedule e
  match n.profile with
  | 1 =>
    let nib := fun (k : Nat) => if k < n.joints then axisNibble c x (armOfJoint c (jointBase c.schedule e + k)) else 0
    (List.range n.pc).map fun i => BitVec.ofNat 8 (nib (2 * i) + 16 * nib (2 * i + 1))
  | 2 =>
    let on := fun (b : Nat) => c.locals.any fun p =>
      p.2.configured && decide (p.2.stoNode = n.id ∧ p.2.stoBit = b) && decide ((unitDyn x (16 + p.1)).func ≠ 5)
    (List.range n.pc).map fun i => BitVec.ofNat 8 ((List.range 8).foldl (fun m b => if on (8 * i + b) then m + 2 ^ b else m) 0)
  | _ => List.replicate n.pc 0

/-- What lane `l` loads for entry `e` of its ring's schedule: a repeat of this cycle's content after a first overrun, the pattern of R79 step
5 from the second on (R119, R120); a lane alone in service demands STO (R117). -/
def loadPart (d : Dev) (l : Lane) (sched : List SchedEntry) (e : Nat) : SafetyPart :=
  let x := laneOf d l
  if x.overrun ∧ x.overrunRun ≤ 1 then { (bufferPart d l sched e) with flag := 5 + 16 }
  else if x.overrun then { flag := 7, payload := safePayload (entryAt sched e).profile (entryAt sched e).pc }
  else if inHold d ∨ x.saf.deen ∨ (regardedLanes d).length < 2 ∨ sched ≠ x.image.params.schedule then
    { flag := 5, payload := safePayload (entryAt sched e).profile (entryAt sched e).pc }
  else { flag := 5, payload := commandPayload x.image.params x.saf e }

/-- SAFETY_BUFFER_LOAD: lane `l` loads its safety buffer for the next cycle. A shared block that writes toward the buffer has no effect on
it and is refused as R14 states for locked fields (R26; the record names the Planner's master and word 0: DESIGN CHOICE, log 108). -/
def execSafetyBufferLoad (l : Lane) (w : BufferWriter) (s : State) : Host.Outcome State Fault Refusal :=
  s.run fun d =>
    match w with
    | .shared => d.lockViol .planner 0
    | .lane =>
      if d.tb.ticking ∧ inService d l ∧ !(laneOf d l).latch then
        let d := d.reach (evaluationEnd d)
        let sched := (ringOf d l).sched
        let buf := (entryIxs sched).foldl (fun m e => SMap.set {} m e (loadPart d l sched e)) []
        onRing d l fun r => { r with safety := buf }
      else d

/-! Arbitration (R96 to R98, R511). -/

/-- The lanes named by the triggers held in lanes in service. -/
def namedSuspects (d : Dev) : List Lane :=
  (serviceLanes d).filter fun m => (serviceLanes d).any fun l => (laneOf d l).arb.held.testBit m.idx

/-- An arbitration runs. -/
def arbRuns (d : Dev) : Bool := (serviceLanes d).any fun l => decide (0 < (laneOf d l).arb.phase)

/-- Lane `m` was cleared less than 60 s ago (Table 3-6). -/
def clearedLately (d : Dev) (m : Lane) : Bool :=
  Lane.all.any fun l => (laneOf d l).arb.cleared.any fun p => decide (p.1 = m.idx ∧ d.tb.ext - p.2 ≤ 60000000000)

/-- A suspect is FAULTED by arbitration. -/
def arbFault (d : Dev) (m : Lane) (detail : Nat) : Dev :=
  let d := (d.flag .LN_STATUS_ARB_FAULT m.idx).wr .LN_ARB_LAST_OUTCOME m.idx 2
  let d := d.each ((serviceLanes d).filter fun l => decide (l ≠ m)) fun d l => d.event .ARB_FAULT (srcLane l) m.idx detail
  laneFault d m .faulted .ARB_FAULT

/-- The runs of outliers that name a suspect of a starting arbitration are served: they begin anew. -/
def serveRuns (d : Dev) (m : Lane) : Dev :=
  d.each Lane.all fun d l => onLane d l fun x => { x with
    outlierRun := x.outlierRun.filter fun p => decide (p.2.1 ≠ m.idx + 1)
    saf := { x.saf with arms := x.saf.arms.map fun p => (p.1, { p.2 with outlierRun := p.2.outlierRun.set m 0 }) } }

/-- Start an arbitration with these suspects; with two lanes in service both are (R96, R98, R511). -/
def startArb (sigs : PerLane (BitVec 64)) (d : Dev) (named : List Lane) : Dev :=
  let n := (serviceLanes d).length
  let ms := if n = 2 then serviceLanes d else named
  let sus := ms.foldl (fun k m => k + 2 ^ m.idx) 0
  let test := d.frameNo % 64
  let d := d.each ms serveRuns
  let d := d.each (serviceLanes d) fun d l =>
    let d := onLane d l fun x => { x with arb := { x.arb with
      phase := 1, frame := d.frameNo, test := test, suspects := sus, sig := sigs.get l, pass := 0, given := 0,
      verdicts := ⟨none, none, none⟩, ss1 := decide (n = 2 ∨ 2 ≤ ms.length) } }
    (d.inc .LN_ARB_ROUNDS l.idx).wr .LN_ARB_LAST_TEST l.idx test
  showVote (d.each Lane.all fun d l => abandonDark d l)

/-- ARB_START: an arbitration starts at the tick of this frame on the triggers of the frame before; every lane in service runs
known-answer test BLF_FRAME_NO modulo 64, whose signatures are `sigs` (R96). A suspect cleared within 60 s is FAULTED at the start, without
a test (Table 3-6). A trigger met while an arbitration runs is raised again while its cause persists (R111). -/
def execArbStart (sigs : PerLane (BitVec 64)) (s : State) : Host.Outcome State Fault Refusal :=
  s.run fun d =>
    let named := namedSuspects d
    if named = [] ∨ arbRuns d ∨ inHold d ∨ (serviceLanes d).length < 2 then d
    else
      let sus := if (serviceLanes d).length = 2 then serviceLanes d else named
      let old := sus.filter fun m => clearedLately d m
      let left := sus.filter fun m => !old.contains m
      let d := d.each Lane.all fun d l => onLane d l fun x => { x with arb := { x.arb with held := 0 } }
      let d := d.each old fun d m => arbFault d m 0
      if left = [] ∨ (serviceLanes d).length < 2 then d else startArb sigs d left

/-- ARB_JUDGE: in frame a+1 lane `l` judges the signature of every other lane (R96). -/
def execArbJudge (l : Lane) (s : State) : Host.Outcome State Fault Refusal :=
  s.run fun d =>
    let x := laneOf d l
    if inService d l ∧ x.arb.phase = 2 then
      let d := d.reach 4000
      let judged := l.others.filter fun m => regarded d m
      let ok := fun (m : Lane) => match x.frames.get m with
        | some r => decide (r.arbState = 2 ∧ r.arbSig = Config.katSignature x.arb.test)
        | none => false
      onLane d l fun y => { y with arb := { y.arb with
        given := judged.foldl (fun k m => k + 2 ^ m.idx) 0
        pass := judged.foldl (fun k m => if ok m then k + 2 ^ m.idx else k) 0 } }
    else d

/-- The verdict word that lane `l` holds of judge `j` from the records of frame a+2: of this frame while it is frame a+2, kept from it later
(R96). -/
def verdictWord (d : Dev) (l j : Lane) : Option Nat :=
  let x := laneOf d l
  if d.frameNo = (x.arb.frame + 2) % 2 ^ 32 then
    ((x.frames.get j).filter fun r => decide (r.arbState = 3)).map (·.arbVerdict)
  else x.arb.verdicts.get j

/-- The verdict of judge `j` on lane `m` as lane `l` holds it: its own, or that of `j`'s record; a verdict not held counts as FAIL. -/
def verdictHeld (d : Dev) (l j m : Lane) : Bool :=
  if j = l then (laneOf d l).arb.pass.testBit m.idx
  else match verdictWord d l j with
    | some v => v.testBit m.idx && v.testBit (4 + m.idx)
    | none => false

/-- Lane `m` fails by the verdict of some judge as some lane in service holds it: where the lanes hold different verdicts the outcome is one
for all (DESIGN CHOICE, log 109). -/
def failsArb (d : Dev) (m : Lane) : Bool :=
  (serviceLanes d).any fun l => (serviceLanes d).any fun j => decide (j ≠ m) && !verdictHeld d l j m

/-- The split of the verdicts on `m`, for the record: bit j set where judge j gave PASS. -/
def splitDetail (d : Dev) (m : Lane) : Nat :=
  (serviceLanes d).foldl (fun n j => if j ≠ m ∧ verdictHeld d j j m then n + 2 ^ j.idx else n) 0

/-- End the arbitration in every lane; `c` adds a cleared lane. -/
def endArb (d : Dev) (c : List (Nat × Int)) : Dev :=
  showVote (d.each Lane.all fun d l => onLane d l fun x => { x with
    arb := { held := x.arb.held, cleared := x.arb.cleared ++ c } })

/-- ARB_OUTCOME: in frame a+2, or the first later evaluation that completes, each lane applies Table 3-6, Table 3-7 or R511 to
the verdicts it holds. If the only suspects have left through a fault of their own, their fault stands and nothing else follows (R100). -/
def execArbOutcome (s : State) : Host.Outcome State Fault Refusal :=
  s.run fun d =>
    let ls := serviceLanes d
    let x := laneOf d d.firstLane
    if x.arb.phase = 3 ∧ ls ≠ [] then
      let d := d.reach 4000
      let sus := ls.filter fun m => x.arb.suspects.testBit m.idx
      if ls.length = 3 then
        match sus with
        | [m] =>
          if failsArb d m then arbFault (endArb d []) m (splitDetail d m)
          else
            let d := endArb d [(m.idx, d.tb.ext)]
            let d := d.each (ls.filter fun l => decide (l ≠ m)) fun d l => d.event .ARB_CLEAR (srcLane l) m.idx
            reviewLanes (enterResync (d.wr .LN_ARB_LAST_OUTCOME m.idx 1) m true)
        | _ =>
          let bad := sus.map fun m => (m, failsArb d m, splitDetail d m)
          let d := d.each ls fun d l => d.wr .LN_ARB_LAST_OUTCOME l.idx 3
          let d := stopAll (endArb d []) 0x04
          d.each bad fun d p => if p.2.1 then arbFault d p.1 p.2.2 else d
      else if ls.length = 2 then
        let bad := ls.filter fun m => failsArb d m
        let d := endArb d []
        if sus = [] then d
        else if bad = [] then stopAll (d.each ls fun d l => d.wr .LN_ARB_LAST_OUTCOME l.idx 3) 0x04
        else d.each bad fun d m => arbFault d m 0
      else endArb d []
    else d

/-! Tick loss (R39). -/

/-- Lane `l` loads the safe pattern of R79 step 5 into its safety buffer (R39). -/
def loadSafe (d : Dev) (l : Lane) : Dev :=
  let sched := (ringOf d l).sched
  onRing d l fun r => { r with safety := (entryIxs sched).foldl (fun m e =>
    SMap.set {} m e { flag := 7, payload := safePayload (entryAt sched e).profile (entryAt sched e).pc }) [] }

/-- A lane that alone has lost the tick: in service, or on its way back to it, it is FAULTED and starts R107 after 16 ticks (R39, R109). -/
def loseTick (d : Dev) (l : Lane) : Dev :=
  let d := onLane (d.flag .LN_STATUS_TICK_LOST l.idx) l fun x => { x with tickLost := true }
  match laneMode d l with
  | .inService | .shadow | .resync | .reload => laneFault d l .faulted .TICK_LOST
  | .absent | .boot | .selftest | .faulted | .debug => setSafeOk (setGates d l 0) l false

/-- TICK_LOST: no tick has reached the lanes of `miss` within 1.5 T_F; each enters its safe state at once, its safety buffer with the safe
pattern. When every lane that runs has lost the tick it is a SHARED fault (R39, R112, R133). -/
def execTickLost (miss : PerLane Bool) (s : State) : Host.Outcome State Fault Refusal :=
  s.run fun d =>
    let up := Lane.all.filter fun l => decide (laneMode d l ≠ .absent ∧ laneMode d l ≠ .boot)
    let lost := up.filter fun l => miss.get l
    let d := d.each lost fun d l =>
      (loadSafe (onLane d l fun x => { x with goodTicks := 0 }) l).event .TICK_LOST (srcLane l)
    if lost = [] then d
    else if lost = up then deEnergise (countFault d .shared 0 .TICK_LOST)
    else d.each lost loseTick

/-! The completion limit of a cycle (R113, R170, R172). -/

/-- The cycle of ring `l` at its completion limit: what has come back is judged; one copy alone is a break, which a turned copy has declared
already (R172). -/
def completeCycle (d : Dev) (l : Lane) : Dev :=
  let r := ringOf d l
  match r.inFlight with
  | none => d
  | some _ =>
    let d := closeCycle d l
    let n := bitOf r.back0.isSome + bitOf r.back1.isSome
    let d := if n = 1 ∧ !r.turned then ringBreak d l (d.rd .ENT_STAT_TURN_ID l.idx) else d
    let d := onRing d l fun r => { r with inFlight := none }
    if n = 0 then
      let d := onRing d l fun r => { r with noReturn := min 2 (r.noReturn + 1), validRun := 0, closedRun := 0 }
      if (ringOf d l).noReturn = 2 ∧ inService d l then
        let d := (d.wrBit .SAF_LANE_OUT_RING_LOST 0 l.idx true).event .RING_LOST (srcLane l)
        laneFault d l .faulted .RING_LOST
      else d
    else
      let d := onRing d l fun r => { r with noReturn := 0, validRun := min 16 (r.validRun + 1) }
      if n = 1 ∨ r.turned ∨ !r.wholeHop ∨ r.untouched ≠ 2 then onRing d l fun r => { r with closedRun := 0 }
      else
        let d := onRing d l fun r => { r with closedRun := min 16 (r.closedRun + 1) }
        if (ringOf d l).closedRun = 16 ∧ d.on .ENT_STAT_BREAK l.idx then
          let d := clearFaults (d.wr .ENT_STAT_BREAK l.idx 0) .brk (some l.idx)
          d.event .RING_CLOSED (srcRing l) l.idx
        else d

/-- Ring `l` at the completion limit of a frame: its cycle or its enumeration frame is judged with what has come back, and the frame counts
for the error rate of both ports (R170, R176, R187). -/
def completeRing (d : Dev) (l : Lane) : Dev :=
  let d := if d.rd .ENT_START_STATE l.idx = 2 ∧ (ringOf d l).enumSeq.isSome then judgeEnumeration d l else completeCycle d l
  [0, 1].foldl (errorFrame l) d

/-- CYCLE_COMPLETION_LIMIT: at T_F − 6.5 us copies not back are late; a ring without a copy in two consecutive frames takes its
lane out of service, a single or turned copy is a break, 16 clean cycles end one (R113, R170, R172). -/
def execCycleCompletionLimit (s : State) : Host.Outcome State Fault Refusal :=
  s.run fun d => if d.tb.ticking then (d.reach (d.frameNs - 6500)).each Lane.all completeRing else d

end Sys2Proof.Machine
end

