-- ==== Sys2Proof/Machine/Packages.lean ====
section
/-!
DEFINITION. The configuration package, chapter 10 R322 to R328: the ranges of Tables 4-2, 4-6, 9-5 and 10-6, the conditions across
fields, the checks of Table 10-8 in their order, and the application of an accepted package. A package's fields and its image's
parameters are held beside the image's bytes (see the log).
-/
namespace Sys2Proof.Machine

/-- A value within bounds. -/
def inRange (lo hi x : Nat) : Bool := decide (lo ≤ x ∧ x ≤ hi)

/-- A signed 32-bit value. -/
def inS32 (x : Int) : Bool := decide (-2 ^ 31 ≤ x ∧ x < 2 ^ 31)

/-- Ranges of a safety input (Tables 10-3 and 10-6, R317, R323). -/
def inputRange (i : InputCfg) : Bool :=
  inRange 0 3 i.mode && inRange 0 3 i.func && inRange 0 2 i.stopKind && inRange 1 3 i.slsSel && decide (i.mask < 2 ^ 32) &&
    inRange 1 64 i.filtQ && inRange 4 500 i.discMs

/-- Ranges of an arm (Tables 9-5 and 10-6). -/
def armRange (a : ArmCfg) : Bool :=
  inRange 0 100 a.rampT0Ms && inRange 10 10000 a.stopTmaxMs && inRange 0 1000 a.stoDelayMs && inRange 0 1000 a.brkRelMs &&
    inRange 50 100 a.slsCapPct && a.sls.all (fun s => inRange 0 10000 s.1 && inRange 0 100 s.2) && inRange 0 100000 a.aR &&
    inRange 0 1000 a.tsCMs && inRange 100 100000 a.dS && inRange 0 500 a.zR && inRange 1 10000 a.vArmMax &&
    inRange 0 5000 a.warnMm && inRange 0 1000 a.hystMm && inRange 10 5000 a.vRed

/-- Ranges of a joint (Tables 9-5 and 10-6). -/
def jointRange (j : JointCfg) : Bool :=
  inRange 1 (2 ^ 31 - 1) j.vMax && inRange 0 (2 ^ 31 - 1) j.vTol && inRange 0 (2 ^ 31 - 1) j.vZero &&
    inRange 1 (2 ^ 31 - 1) j.dMon && inRange 0 (2 ^ 31 - 1) j.sosWin && inS32 j.slpLo && inS32 j.slpHi &&
    inRange 0 65535 j.posTol

/-- A safety arm model's used joints have a finite SCALE other than zero (R272). -/
def modelRange (m : ArmModel) : Bool :=
  m.joints.all fun j => f64Finite (f64OfBits j.scale) && f64Lt f64Zero (f64Abs (f64OfBits j.scale))

/-- A capsule entry's fields hold what Table 9-1 and R273 let them: an arm, a link or the base, and for a used tool capsule the last joint of its
own arm. -/
def capsuleRange (c : SafetyConfig) (e : Nat × CapsuleCfg) : Bool :=
  inRange 0 15 e.2.arm && (inRange 0 7 e.2.link || decide (e.2.link = 255)) && inRange 0 255 e.2.inflMm &&
    (!e.2.used || decide (e.1 < 128) ||
      decide (e.2.arm = e.1 - 128 ∧ e.2.link + 1 = (SMap.get {} c.armModels e.2.arm).joints.length))

/-- Every parameter of the image lies in its range (R272, R273, R286, R323; R47, R54, R197 and Table 12-3 for the others). -/
def imageRange (c : SafetyConfig) : Bool :=
  inRange 0 2 c.period && inRange 500 5000 c.latch && inRange 100 800 c.guardNs && inRange 1 1440 c.degLimitMin &&
  inRange 10 100 c.degSpeedPct && inRange 0 5000 c.degRampMs && inRange 1 24 c.ptIntervalH && inRange 0 120 c.ptWarnMin &&
  inRange 4 32 c.ptPulseFr && inRange 0 3000 c.vHMin && inRange 0 3000 c.vObsMin && inRange 17 200 c.tolMm &&
  inRange 50 1000 c.ackMinMs && inRange 200 5000 c.ackMaxMs && inRange 1 64 c.spdWin && inRange 2 256 c.nStill &&
  inRange 2 64 c.stoAckFr &&
  c.inputs.all (fun p => inputRange p.2) &&
  c.nodePairs.all (fun p => inputRange p.2.input) &&
  c.analogs.all (fun p => inputRange p.2.input && inRange 0 2 p.2.input.func && inRange 1 256 p.2.filt) &&
  c.brakes.all (fun p => inRange 10 500 p.2.relMs && inRange 5 500 p.2.setMs) &&
  c.sensors.all (fun s => inRange 0 200 s.2.tSensMs && inRange 0 2000 s.2.cMm && inRange 0 500 s.2.zD &&
    inRange 0 100 s.2.volTol && inRange 0 4000 s.2.volLmax) &&
  c.armModels.all (fun p => modelRange p.2) && c.capsules.all (capsuleRange c) &&
  c.arms.all (fun p => armRange p.2) && c.joints.all (fun p => jointRange p.2) &&
  c.locals.all (fun p => inRange 1 254 p.2.stoNode && inRange 0 2047 p.2.stoBit && inRange 10 10000 p.2.ss1Ms)

/-- The largest length quantisation can give a capsule of squared length `n` um²: ⌈√n / 1,000 + √3⌉ mm (R283), by search from
below. -/
def capLength (n : Nat) : Nat :=
  let k0 := isqrt n / 1000 + 2
  let fits := fun (k : Nat) =>
    let t := 1000 * k
    decide (n ≤ t * t + 3000000 ∧ 12000000 * (t * t) ≤ (t * t + 3000000 - n) * (t * t + 3000000 - n))
  if fits k0 then k0 else k0 + 1

/-- L_cap of R283, mm. -/
def lCap (c : SafetyConfig) : Nat :=
  c.capsules.foldl (fun m p =>
    let v := v3Sub p.2.p1 p.2.p0
    if p.2.used then max m (capLength (v3Dot v v).toNat) else m) 0

/-- TOL_MM is not too small (R283). -/
def tolOk (c : SafetyConfig) : Bool :=
  let lc := lCap c
  let lv := c.sensors.foldl (fun m s => max m s.2.volLmax) 0
  decide (32 + max 256 lc + max 256 (max lc lv) ≤ 32 * c.tolMm)

/-- An envelope lies within ±32,767 mm (R283). -/
def envOk (e : CapsuleMm) : Bool :=
  [e.p0.x, e.p0.y, e.p0.z, e.p1.x, e.p1.y, e.p1.z].all fun v => decide (v.natAbs + e.r.toNat ≤ 32767)

/-- The sensors' slot ranges do not overlap and end at slot 31 (R283). -/
def slotsOk : List (Nat × SensorCfg) → Bool
  | [] => true
  | s :: ss => inRange 1 12 s.2.slotCnt && decide (s.2.slotBase + s.2.slotCnt ≤ 32) &&
      ss.all (fun t => decide (s.2.slotBase + s.2.slotCnt ≤ t.2.slotBase ∨ t.2.slotBase + t.2.slotCnt ≤ s.2.slotBase)) &&
      slotsOk ss

/-- The refusals of R283. -/
def separationOk (frameNs : Nat) (c : SafetyConfig) : Bool :=
  decide (pairCount c ≤ 12288) && slotsOk c.sensors && tolOk c &&
  c.arms.all (fun p => envOk p.2.env) && c.sensors.all (fun s => envOk s.2.env) &&
  c.excluded.all fun p =>
    let a : ArmCfg := SMap.get {} c.arms p.1
    let b : ArmCfg := SMap.get {} c.arms p.2
    decide (spArms frameNs a b a.vArmMax b.vArmMax ≤ distA a.env b.env)

/-- Earliest passage of entry `x` at package check (R509, fourth row; a spare entry 0). -/
def checkPass (s : List SchedEntry) (x : SchedEntry) : Int :=
  if x.pos = 0 then 0
  else
    let np := s.foldl (fun m y => max m y.pos) 0
    640 * ((min x.pos (np + 1 - x.pos) : Nat) - 1 : Int)

/-- The schedule's conditions at package check (R32, R85, R173, R188, R509). -/
def packageSchedule (frameNs latch : Nat) (s : List SchedEntry) : Bool :=
  decide (s.length ≤ 48) && !windowsOverlap s && s.all (fun x => decide (2 ≤ x.w ∧ (x.pos = 0 → 7 ≤ x.ps))) &&
  decide (s.foldl (fun n x => n + x.ps) 0 ≤ 1852) &&
  budgetOk frameNs (640 * (s.filter fun x => decide (0 < x.pos)).length) (frameBlocks s) &&
  s.all fun x => windowOk latch x.w (checkPass s x)

/-- A demand that local axes do not have: an input with SLS or SS2 whose mask names one (R307). -/
def localsOk (i : InputCfg) : Bool :=
  i.mode = 0 || decide (i.mask < 2 ^ 16) || !(decide (i.func = 2) || (decide (i.func = 1) && decide (i.stopKind = 2)))

/-- No value of a list twice. -/
def noTwice : List Nat → Bool
  | [] => true
  | x :: xs => !xs.contains x && noTwice xs

/-- The used group sections: up to the first whose GROUP_ID is 0 (R464). -/
def groupSections (c : SafetyConfig) : List GroupSection :=
  ((List.range 5).map fun l => SMap.get {} c.groups l).takeWhile fun g => decide (g.groupId ≠ 0)

/-- A member section's group is a KIND 2 slot of the section above it (R465). -/
def groupChain : List GroupSection → Bool
  | g :: h :: rest => h.slots.any (fun s => decide (s.kind = 2 ∧ s.ident % 2 ^ 32 = g.groupId)) && groupChain (h :: rest)
  | _ => true

/-- The refusals of R465. -/
def groupsOk (c : SafetyConfig) : Bool :=
  match groupSections c with
  | [] => true
  | g :: gs =>
    g.slots.any (fun s => decide (s.kind = 1 ∧ s.ident = Config.serialNumber.toNat)) &&
    (g :: gs).all (fun h => decide (h.period = c.period) &&
      decide (h.slots.foldl (fun n s => n + s.axsets) 0 ≤ 256 ∧ h.slots.foldl (fun n s => n + s.units) 0 ≤ 256) &&
      noTwice ((h.slots.filter fun s => decide (s.kind ≠ 0)).map (·.ident))) &&
    groupChain (g :: gs)

/-- The frame period of a code, ns (R47). -/
def periodNs (p : Nat) : Nat := 62500 * 2 ^ (p % 3)

/-- CROSS_CHECK of Table 10-8. -/
def crossCheck (c : SafetyConfig) : Bool :=
  let t := periodNs c.period
  packageSchedule t c.latch c.schedule && separationOk t c && groupsOk c &&
  c.inputs.all (fun p => localsOk p.2) && c.nodePairs.all (fun p => localsOk p.2.input) &&
  c.analogs.all (fun p => localsOk p.2.input && decide (p.2.lo ≤ p.2.hi)) &&
  c.joints.all (fun p => decide (p.2.slpLo ≤ p.2.slpHi)) &&
  c.brakes.all fun p => match p.2.unit with
    | some u => decide (u < 32)
    | none => true

/-- The 256 bytes of a package before its image (Table 10-7), multi-byte keys and hashes most significant byte first. -/
def packageHeader (p : Package) : List Byte :=
  bytesLE 4 p.magic ++ bytesLE 2 p.format ++ bytesLE 2 p.flags ++ bytesLE 8 p.serial ++ bytesLE 4 p.seq ++ bytesLE 4 p.fwMin ++
    bytesLE 4 p.imageLen ++ bytesLE 4 0 ++ bytesLE 8 p.digest ++ bytesBE 32 p.imageHash.toNat ++
    bytesLE 4 p.toolVer ++ bytesLE 4 0 ++ bytesBE 64 p.pubkey.toNat ++ bytesBE 32 p.nextKeyHash.toNat ++
    bytesLE 80 0

/-- SHA-256 of a public key, X then Y (R325). -/
def keyHash (k : BitVec 512) : BitVec 256 := sha256 (bytesBE 64 k.toNat)

/-- The result codes of Table 10-8. -/
inductive PkgResult where
  | applied | pending | badFormat | badSignature | wrongKey | oldSeq | wrongDevice | fwTooOld | range | crossCheck | laneSplit
  | superseded
  deriving DecidableEq, Repr

/-- Code of a result. -/
def pkgCode : PkgResult → Nat
  | .applied => 0x00
  | .pending => 0x01
  | .badFormat => 0x10
  | .badSignature => 0x11
  | .wrongKey => 0x12
  | .oldSeq => 0x13
  | .wrongDevice => 0x14
  | .fwTooOld => 0x15
  | .range => 0x16
  | .crossCheck => 0x17
  | .laneSplit => 0x18
  | .superseded => 0x19

/-- ROTATE of a package. -/
def rotates (p : Package) : Bool := p.flags.testBit 1

/-- The checks of Table 10-8 as one lane makes them, in order: `slots` its owner-key slots, `inForce` PKG_SEQ of the
configuration in force (none at boot, R328), `ref` the version code of the reference image, if there is one. -/
def checkPackage (slots : List (BitVec 256)) (inForce : Option Nat) (ref : Option Nat) (p : Package) : PkgResult :=
  let keyOk := match slots.getLast? with
    | none => true
    | some k => decide (keyHash p.pubkey = k)
  let seqOk := match inForce with
    | none => true
    | some n => decide (n < p.seq)
  let fwOk := match ref with
    | none => decide (p.fwMin = 0)
    | some v => decide (p.fwMin ≤ v)
  if ¬ (p.magic = 0x50434D4E ∧ p.format = 1 ∧ p.imageLen = 262144 ∧ p.zeros = true ∧ p.flags < 4 ∧ p.seq ≠ 0 ∧
      (p.flags.testBit 0 = true ∨ p.serial = 0) ∧ imageDigest p.image = p.digest ∧
      sha256 (denseBytes 262144 0 p.image.bytes) = p.imageHash) then .badFormat
  else if ecdsaVerify p.pubkey (sha256 (packageHeader p ++ denseBytes 262144 0 p.image.bytes)) p.signature = false then .badSignature
  else if keyOk = false ∨ (rotates p = true ∧ 4 ≤ slots.length) then .wrongKey
  else if seqOk = false then .oldSeq
  else if p.flags.testBit 0 ∧ p.serial ≠ Config.serialNumber.toNat then .wrongDevice
  else if fwOk = false then .fwTooOld
  else if imageRange p.image.params = false then .range
  else if crossCheck p.image.params = false then .crossCheck
  else .pending

/-- The signature of a firmware image verifies, and its key hashes to the value in mask ROM (R502). -/
def firmwareSigned (f : FwImage) : Bool :=
  decide (keyHash f.pubkey = Config.romKeyHash) && ecdsaVerify f.pubkey (sha256 (denseBytes f.len 0 f.bytes)) f.signature

/-- A firmware image is valid (R41, R502): bootable in flash, its signature by an Olquamar key. -/
def fwValid (f : FwSlot) : Bool := f.bootable && firmwareSigned f.image

/-- The firmware slots found valid. -/
def validFw (fl : FlashState) : List (Nat × Nat) :=
  (match fl.fw0 with
    | some f => if fwValid f then [(0, f.image.version)] else []
    | none => []) ++
  match fl.fw1 with
    | some f => if fwValid f then [(1, f.image.version)] else []
    | none => []

/-- The slot with the highest number beside it (version code or PKG_SEQ), slot 0 for equal numbers. -/
def bestOf (xs : List (Nat × Nat)) : Option (Nat × Nat) :=
  xs.foldl (fun m x => match m with
    | none => some x
    | some y => if y.2 < x.2 then some x else some y) none

/-- The configuration slots one lane finds valid at boot with firmware version `v` (R328), with PKG_SEQ. -/
def validCfg (fl : FlashState) (slots : List (BitVec 256)) (v : Option Nat) : List (Nat × Nat) :=
  (match fl.cfg0 with
    | some p => if checkPackage slots none v p = .pending then [(0, p.seq)] else []
    | none => []) ++
  match fl.cfg1 with
    | some p => if checkPackage slots none v p = .pending then [(1, p.seq)] else []
    | none => []

/-- The reference image of R326: the running one, or in Hold mode the one R41 would boot at the next reset. -/
def referenceFw (d : Dev) : Option Nat :=
  match d.mode with
  | .boot | .hold => (bestOf (validFw d.flash)).map Prod.snd
  | _ => some (laneOf d d.firstLane).fwVersion

/-- The result of every lane in service (R326): the common one, or LANE_SPLIT. -/
def packageResult (d : Dev) (p : Package) : PkgResult :=
  let inForce := match d.mode with
    | .hold | .boot => none
    | _ => some (d.rd .SAF_PKG_APPLIED_SEQ)
  match (serviceLanes d).map fun l => checkPackage (d.keys.get l) inForce (referenceFw d) p with
  | [] => .laneSplit
  | r :: rs => if rs.all (fun q => decide (q = r)) then r else .laneSplit

/-- Show the owner-key slots (SAF_PKG_STAT), and the cell PWR_OTP_STAT counts. -/
def showKeys (d : Dev) : Dev :=
  let n := d.keys.a.length
  let d := (d.put .SAF_PKG_STAT_ENROLLED (bitOf (decide (0 < n)))).put .SAF_PKG_STAT_KEY_SLOT (n - 1)
  if d.keys.a = [] ∨ d.keys.b = [] ∨ d.keys.c = [] then d else d.wrBit .PWR_OTP_STAT_PROGRAMMED 0 5 true

/-- Write a hash into the next free slot of every lane (R325). -/
def enrol (d : Dev) (h : BitVec 256) : Dev :=
  let add := fun (ks : List (BitVec 256)) => if ks.length < 4 then ks ++ [h] else ks
  showKeys { d with keys := ⟨add d.keys.a, add d.keys.b, add d.keys.c⟩ }

/-- Report a package's result (R326): the register, the event. -/
def reportPackage (d : Dev) (r : PkgResult) : Dev :=
  let st := match r with
    | .applied => 3
    | .pending => 2
    | _ => 4
  ((d.put .SAF_PKG_STAT_STATE st).put .SAF_PKG_STAT_RESULT (pkgCode r)).event .PKG_RESULT srcSafety 0 (pkgCode r)

/-- The flash configuration slot that does not hold the configuration in force (R327). -/
def spareCfg (d : Dev) : Nat :=
  match d.mode with
  | .hold | .boot => if d.flash.cfg0.isNone then 0 else 1 - d.rd .SYS_MODE_CFG_SLOT
  | _ => 1 - d.rd .SYS_MODE_CFG_SLOT

/-- The outcome of the check of the downloaded package (R326, R327): refused, or written to flash and waiting; the first
accepted in Hold mode with no slot written enrols its key (R325). A package that waited is superseded (Table 10-8). -/
def acceptPackage (d : Dev) (p : Package) : Dev × PkgResult :=
  let r := packageResult d p
  let d := { d with pkg := { d.pkg with checking := none } }
  match r with
  | .pending =>
    let d := match d.pkg.waiting with
      | some _ => d.event .PKG_RESULT srcSafety 0 (pkgCode .superseded)
      | none => d
    let d := if d.mode = .hold ∧ d.keys.get d.firstLane = [] then enrol d (keyHash p.pubkey) else d
    let fl := if spareCfg d = 0 then { d.flash with cfg0 := some p } else { d.flash with cfg1 := some p }
    let d := { d with flash := fl, pkg := { d.pkg with waiting := some p } }
    (reportPackage (d.put .SAF_PKG_PEND_SEQ p.seq) .pending, .pending)
  | .range =>
    let (o, d) := d.fresh 18
    (reportPackage (d.put .SAF_PKG_FAIL_OFFSET o) .range, .range)
  | r => (reportPackage d r, r)

/-- Give a configuration's parameters to the blocks that hold them: period and latch offset, guard, schedule of the rings with
a start sequence due (R47, R54, R183, R188, R197). -/
def configure (d : Dev) (p : Package) : Dev :=
  let c := p.image.params
  let d := d.put .BLF_LATCH_OFFSET c.latch
  d.each Lane.all fun d l => newSchedule (d.wr .ENT_GUARD_NS l.idx c.guardNs) l c.schedule (schedIdOf p.digest)

/-- Every unit has been DISABLED for at least 16 frames (R327). -/
def disabledLong (d : Dev) : Bool :=
  let x := laneOf d d.firstLane
  (List.range 32).all fun u => (unitDyn x.saf u).disabled && decide (16 ≤ (unitDyn x.saf u).disabledFr)

/-- The schedule conditions at application, on every ring (R188, R509). -/
def scheduleApplies (d : Dev) (c : SafetyConfig) : Bool :=
  Lane.all.all fun l => scheduleOk d l (periodNs c.period) c.latch c.schedule

/-- PACKAGE_APPLY: at a monitor-frame boundary the waiting package is applied (R105, R325, R327): staged in every lane in service,
which switch at this boundary; a rotated key is written; a new schedule or period restarts the rings (R48, R183). -/
def execPackageApply (s : State) : Host.Outcome State Fault Refusal :=
  s.run fun d =>
    match d.mode, d.pkg.waiting with
    | .boot, _ | .hold, _ | _, none => d
    | m, some p =>
      let c := p.image.params
      let now := (laneOf d d.firstLane).image.params
      let newPeriod := decide (c.period ≠ d.rd .BLF_CFG_PERIOD)
      let newSched := decide (c.schedule ≠ now.schedule)
      if ¬ (d.frameNo % 2 = 0 ∧ disabledLong d = true ∧ 2 ≤ (serviceLanes d).length) then d
      else if (newPeriod ∨ newSched) ∧ m ≠ .standstill then d
      else if newSched ∧ scheduleApplies d c = false then
        reportPackage ({ d with pkg := { d.pkg with waiting := none } }.put .SAF_PKG_PEND_SEQ 0) .crossCheck
      else
        let d := { d with pkg := { d.pkg with waiting := none } }
        let d := d.each (serviceLanes d) fun d l => onLane d l fun x =>
          { x with staging := some p.image, switchAt := some d.frameNo }
        let d := if rotates p then enrol d p.nextKeyHash else d
        let d := (d.put .SAF_PKG_APPLIED_SEQ p.seq).put .SAF_PKG_PEND_SEQ 0
        let d := d.put .SYS_MODE_CFG_SLOT (if d.flash.cfg1 = some p then 1 else 0)
        let d := reportPackage d .applied
        let d := if c.latch = d.rd .BLF_LATCH_OFFSET then d
          else latchFrom2 (d.put .BLF_LATCH_OFFSET c.latch) c.latch
        let d := d.each Lane.all fun d l => d.wr .ENT_GUARD_NS l.idx c.guardNs
        let d := if newSched ∨ newPeriod then configure d p else d
        if newPeriod then
          let d := d.each Lane.all fun d l => (onRing d l fun r => { r with inFlight := none }).wr .ENT_START_STATE l.idx 0
          { d with periodDue := some c.period }
        else d

end Sys2Proof.Machine
end

