-- ==== Sys2Proof/Machine/GroupBase.lean ====
section
/-!
DEFINITION. Groups of devices (chapter 16): sections and levels, the local state of a device, and the bytes of group frames.
-/
namespace Sys2Proof.Machine

/-- Change the group state. -/
def onGrp (d : Dev) (f : GroupState → GroupState) : Dev := { d with grp := f d.grp }

/-- Change level `l`. -/
def onLevel (d : Dev) (l : Nat) (f : GrpLevel → GrpLevel) : Dev := onGrp d fun g => { g with levels := SMap.modify {} g.levels l f }

/-- Level `l`. -/
def levelOf (d : Dev) (l : Nat) : GrpLevel := SMap.get {} d.grp.levels l

/-- Section `l` (R464). -/
def sectionOf (d : Dev) (l : Nat) : GroupSection := SMap.get {} d.cfg.groups l

/-- Number of used sections (R464). -/
def levelsUsed (d : Dev) : Nat := (groupSections d.cfg).length

/-- The device represents its level `l - 1` group at level `l`: it is its Steward (R469). -/
def represents (d : Dev) : Nat → Bool
  | 0 => true
  | l + 1 => decide (4 ≤ (levelOf d l).role)

/-- Level `l` exists for this device: its section is used and it represents the group below. -/
def atLevel (d : Dev) (l : Nat) : Bool := decide (l < levelsUsed d) && represents d l

/-- Slot `m` of section `l`. -/
def slotAt (d : Dev) (l m : Nat) : GroupSlot := (sectionOf d l).slots.getD m {}

/-- The used slots of section `l`. -/
def usedSlots (d : Dev) (l : Nat) : List Nat := (List.range 8).filter fun m => decide ((slotAt d l m).kind ≠ 0)

/-- The device's own slot at level `l`: by serial number, or by the GROUP_ID of the group it represents (Table 16-1). -/
def ownSlot (d : Dev) (l : Nat) : Nat :=
  ((List.range 8).find? fun m => match l with
    | 0 => decide ((slotAt d l m).kind = 1 ∧ (slotAt d l m).ident = Config.serialNumber.toNat)
    | k + 1 => decide ((slotAt d l m).kind = 2 ∧ (slotAt d l m).ident % 2 ^ 32 = (sectionOf d k).groupId)).getD 0

/-- Levels the device stewards. -/
def stewards (d : Dev) : Nat := ((List.range 5).takeWhile fun l => decide (l < levelsUsed d ∧ 4 ≤ (levelOf d l).role)).length

/-- The device is a joined member of a group (R483). -/
def isMember (d : Dev) : Bool :=
  (List.range (levelsUsed d)).any fun l => atLevel d l && (decide ((levelOf d l).role = 2) || decide ((levelOf d l).role = 3))

/-- Member `m` as level `l` records it. -/
def memberOf (d : Dev) (l m : Nat) : GrpMember := SMap.get {} (levelOf d l).members m

/-- Change member `m` of level `l`. -/
def onMember (d : Dev) (l m : Nat) (f : GrpMember → GrpMember) : Dev :=
  onLevel d l fun x => { x with members := SMap.modify {} x.members m f }

/-- A slot is present: the device's own, or one whose member frames carry JOINED (R471). -/
def slotPresent (d : Dev) (l m : Nat) : Bool := decide (m = ownSlot d l) || (memberOf d l m).present

/-- The local state of the device (R474, R477, R478): 2 STO, 1 STOP, 0 RUN. -/
def localState (d : Dev) : Nat :=
  let c := d.cfg
  let x := laneOf d d.firstLane
  let mask := (slotAt d 0 (ownSlot d 0)).unitMask
  let stopped := (List.range 32).any fun u => mask.testBit u && unitUsed c u &&
    (unitDyn x.saf u).demands.any fun q => decide (3 ≤ q.kind ∧ q.cause ≠ 0x0E)
  let y := levelOf d 0
  if d.mode = .safeState then 2 else if stopped ∨ d.grp.withdrawn ∨ y.stewardLost ∨ y.partition then 1 else 0

/-- What the device reports at level `l` (R474): its local state, or that of the group it represents. -/
def groupReported (d : Dev) : Nat → Nat
  | 0 => localState d
  | l + 1 => max (levelOf d l).raw (bitOf ((levelOf d (l + 1)).stewardLost || (levelOf d (l + 1)).partition))

/-- The group digest of section `l`: the CRC-64 of its 384 bytes in lane `x`'s image (R464). -/
def sectionDigest (d : Dev) (l : Nat) (x : Lane) : Nat :=
  let a := 0x800 + 0x180 * l
  crc64Sparse 0x180 0 0 (((laneOf d x).image.bytes.filter fun b => decide (a ≤ b.1 ∧ b.1 < a + 0x180)).map fun b => (b.1 - a, b.2))

/-- The group digest of section `l` as lane `x` sends it; zero outside IN_SERVICE (Table 16-2). -/
def laneDigest (d : Dev) (l : Nat) (x : Lane) : Nat := if inService d x then sectionDigest d l x else 0

/-- The first digest of a list that is not zero. -/
def firstDigest (xs : List Nat) : Nat := (xs.find? fun n => decide (n ≠ 0)).getD 0

/-! Frames (R466, R467, Table 16-2). -/

/-- The source address of the device's group frames: 02-4F and SYS_SERIAL_LO (R466). -/
def groupSource : Nat := 0x024F * 2 ^ 32 + Config.serialNumber.toNat % 2 ^ 32

/-- The FRAME_NO of the group cycle this frame belongs to (R467). -/
def groupFrameNo (d : Dev) (l : Nat) : Nat := d.frameNo - d.frameNo % (max 1 (sectionOf d l).gcyc)

/-- FLAGS of a frame: of a Steward's, whether it acts; of a member's, DEPUTY, QUARANTINED, TIME_SLEW and JOINED. -/
def groupFlags (d : Dev) (l : Nat) : Nat :=
  let x := levelOf d l
  if 4 ≤ x.role then 2 * bitOf (decide (x.role = 5))
  else bitOf (decide (x.role = 3)) + 4 * bitOf x.quarantined +
    8 * bitOf (decide (d.rd .BLF_CFG_SOURCE = 3) && decide (timeState d = .slewing)) + 16 * bitOf (decide (2 ≤ x.role))

/-- GSTATE of a frame: the group state of a Steward, else the local state. -/
def groupState (d : Dev) (l : Nat) : Nat := if 4 ≤ (levelOf d l).role then (levelOf d l).g else groupReported d l

/-- Bytes 0x00 to 0x0F of a frame. -/
def groupHeader (d : Dev) (l kind present quar deputySlot : Nat) : List Byte :=
  bytesLE 1 kind ++ bytesLE 1 l ++ bytesLE 1 (ownSlot d l) ++ bytesLE 1 (groupFlags d l) ++ bytesLE 4 (sectionOf d l).groupId ++
    bytesLE 4 (groupFrameNo d l) ++ bytesLE 1 (groupState d l) ++ bytesLE 1 present ++ bytesLE 1 quar ++ bytesLE 1 deputySlot

/-- The payload of a command (3) or completion (4) frame: header, forwarding tag and the 64-byte entry. -/
def entryPayload (d : Dev) (l kind tag : Nat) (entry : List Byte) : List Byte :=
  groupHeader d l kind 0 0 0 ++ bytesLE 4 tag ++ List.replicate 12 0 ++ (entry ++ List.replicate 64 0).take 64 ++ List.replicate 32 0

/-- The level at which this device is a joined member: where its Steward's commands come from. -/
def memberLevel (d : Dev) : Nat :=
  ((List.range (levelsUsed d)).find? fun l => atLevel d l && (decide ((levelOf d l).role = 2) || decide ((levelOf d l).role = 3))).getD 0

/-- A level above one that this device no longer stewards is no longer its: it starts there in LISTEN when it represents the group again
(R469). -/
def dropAbove (d : Dev) (l : Nat) : Dev := onGrp d fun g => { g with levels := g.levels.filter fun p => decide (p.1 ≤ l) }

end Sys2Proof.Machine
end

