-- ==== Sys2Proof/Machine/HostCore.lean ====
section
/-!
DEFINITION. Commands in flight and their completions: completion entries and the completion store (R428 to R433).
-/
namespace Sys2Proof.Machine

/-- Change the host interface. -/
def onHost (d : Dev) (f : HostState → HostState) : Dev := { d with host := f d.host }

/-- Entries of submission queue `q`. -/
def sqSize (d : Dev) (q : Nat) : Nat := 2 ^ d.rd .HST_SQ_CFG_SIZE q

/-- Entries of completion queue `q`. -/
def cqSize (d : Dev) (q : Nat) : Nat := 2 ^ d.rd .HST_CQ_CFG_SIZE q

/-- A host address from the two words of a base register. -/
def hostBase (lo hi : Nat) : Nat := lo * 64 + hi * 2 ^ 32

/-- The registers that count commands in flight show them. -/
def showFlight (d : Dev) : Dev :=
  let own := d.host.flight.filter fun c => decide (c.sq < 16)
  let d := d.wrSat .HST_STATUS_IN_FLIGHT 0 own.length
  let d := d.wrSat .HST_STATUS_IMM_FLIGHT 0 (own.filter fun c => decide (c.cls = 1)).length
  let d := d.each (List.range 16) fun d q =>
    d.wrSat .HST_SQ_STAT_IN_FLIGHT q (own.filter fun c => decide (c.sq = q)).length
  d.each (List.range 16) fun d q => d.wrSat .HST_CQ_STAT_OWED q (own.filter fun c => decide (c.cq = some q)).length

/-- The 64 bytes of a completion entry, with PHASE and REPLAY clear. -/
def cqeBytes (d : Dev) (c : HostCmd) (e : Cqe) : List Byte :=
  let rest := if e.query = [] then
      bytesLE 4 e.result ++ bytesLE 4 c.admitAt ++ bytesLE 4 e.start ++ bytesLE 4 e.fin ++ e.data
    else e.query
  (bytesLE 4 c.rsn ++ bytesLE 1 c.sq ++ bytesLE 1 c.opcode ++ bytesLE 1 e.status ++ bytesLE 1 0 ++ bytesLE 2 c.sqHead ++
    bytesLE 1 e.reason ++ bytesLE 1 0 ++ bytesLE 4 d.frameNo ++ rest ++ List.replicate 64 0).take 64

/-- Set FLAGS of a completion entry. -/
def withFlags (bs : List Byte) (flags : Nat) : List Byte := bs.set 7 (BitVec.ofNat 8 flags)

/-- Write a completion entry at the tail of CQ `q` (R433), if the queue is on and the link up. -/
def putCqe (d : Dev) (q : Nat) (bs : List Byte) (replay : Bool) : Dev :=
  if d.on .HST_CQ_CFG_EN q ∧ d.on .HST_STATUS_LINK_UP then
    let t := d.rd .HST_CQ_STAT_TAIL q
    let ph := d.rd .HST_CQ_STAT_PHASE q
    let addr := hostBase (d.rd .HST_CQ_BASE_LO_ADDR q) (d.rd .HST_CQ_BASE_HI_ADDR q) + 64 * t
    let d := d.emit (.hostWrite addr (withFlags bs (ph + 2 * bitOf replay)))
    let d := if t + 1 = cqSize d q then (d.wr .HST_CQ_STAT_TAIL q 0).wr .HST_CQ_STAT_PHASE q (1 - ph)
      else d.wr .HST_CQ_STAT_TAIL q (t + 1)
    onHost d fun h => { h with wrote := true }
  else d

/-- The command of a queue with an RSN in flight. -/
def inFlight (d : Dev) (sq rsn : Nat) : Option HostCmd := d.host.flight.find? fun c => decide (c.sq = sq ∧ c.rsn = rsn)

/-- Change a command in flight. -/
def onFlight (d : Dev) (sq rsn : Nat) (f : HostCmd → HostCmd) : Dev :=
  onHost d fun h => { h with flight := h.flight.map fun c => if c.sq = sq ∧ c.rsn = rsn then f c else c }

/-- The answer of a command so far with that of one more part: the first outcome that is not zero stands; bytes of UNIT_ENABLE that
one part leaves 0xFF come from the other. -/
def joinCqe (a : Option Cqe) (e : Cqe) : Cqe :=
  match a with
  | none => e
  | some x =>
    { status := if x.status = 0 then e.status else x.status
      result := if x.result = 0 then e.result else x.result
      start := if x.start = 0 then e.start else x.start
      fin := if x.fin = 0 then e.fin else x.fin
      data := if x.data = [] then e.data else if e.data = [] then x.data
        else (List.range 32).map fun i => let v := x.data.getD i 0xFF; if v = 0xFF then e.data.getD i 0xFF else v
      query := if x.query = [] then e.query else x.query }

/-- A command leaves flight with its completion: its entry is stored and written to its CQ. One that a Steward forwarded is answered with a
completion frame instead. -/
def finish (d : Dev) (c : HostCmd) (e : Cqe) : Dev :=
  let bs := cqeBytes d c e
  let d := onHost d fun h => { h with flight := h.flight.filter fun x => !decide (x.sq = c.sq ∧ x.rsn = c.rsn) }
  if 16 ≤ c.sq then
    showFlight (d.emit (.groupCompletion (sectionOf d (memberLevel d)).mac groupSource (entryPayload d (memberLevel d) 4 c.rsn bs)))
  else
    let d := onHost d fun h =>
      { h with store := SMap.modify [] h.store c.sq fun l =>
          let l := (l.filter fun x => decide (x.rsn ≠ c.rsn)) ++ [{ rsn := c.rsn, crc := c.crc, entry := bs }]
          l.drop (l.length - 4096) }
    let d := match c.cq with
      | some q => putCqe d q bs false
      | none => d
    showFlight d

/-- This device's own part of a command in flight is done; the command completes once every part is (R433, R482). -/
def complete (d : Dev) (sq rsn : Nat) (e : Cqe) : Dev :=
  match inFlight d sq rsn with
  | none => d
  | some c =>
    let e := joinCqe c.answer e
    if c.parts.all (·.done) then finish d c e
    else onFlight d sq rsn fun c => { c with own := false, answer := some e }

/-- The work of a command has begun (R414: RUNNING); its completion comes with a later row. -/
def startCmd (d : Dev) (sq rsn : Nat) : Dev := onFlight d sq rsn fun c => { c with begun := true }

/-- A command in flight with this opcode whose own part is to do and has not begun: a command is carried out once. -/
def flightOp (d : Dev) (sq rsn op : Nat) : Option HostCmd :=
  match inFlight d sq rsn with
  | some c => if c.opcode = op ∧ c.own ∧ !c.begun then some c else none
  | none => none

/-- Byte `i` of a body, and fields of 2, 4 and 8 bytes (R9). -/
def bodyAt (b : List Byte) (i : Nat) : Nat := (b.getD i 0).toNat
/-- 2 bytes. -/
def body16 (b : List Byte) (i : Nat) : Nat := natLE ((b.drop i).take 2)
/-- 4 bytes. -/
def body32 (b : List Byte) (i : Nat) : Nat := natLE ((b.drop i).take 4)
/-- 8 bytes. -/
def body64 (b : List Byte) (i : Nat) : Nat := natLE ((b.drop i).take 8)
/-- 4 bytes, signed. -/
def bodyInt (b : List Byte) (i : Nat) : Int := signedOf 32 (body32 b i)

end Sys2Proof.Machine
end

