-- ==== Sys2Proof/Machine/GroupCore.lean ====
section
/-!
DEFINITION. Groups of devices (chapter 16): what reaches the lanes, the map a Steward presents, forwarding of commands, and the group
registers.
-/
namespace Sys2Proof.Machine

/-- Some level is in Quarantine. -/
def anyQuar (d : Dev) : Bool := (List.range (levelsUsed d)).any fun l => (levelOf d l).quarantined

/-- G and Quarantine reach the lanes as the host's requests do: they enter the evaluation of the second frame from now (R475). -/
def sendLanes (d : Dev) (g : Nat) (quar : Bool) : Dev :=
  onGrp d fun x => { x with coming := x.coming ++ [((d.frameNo + 2) % 2 ^ 32, g, quar)] }

/-- At a tick what is due comes into force in the lanes. -/
def groupDue (d : Dev) : Dev :=
  let due := d.grp.coming.filter fun x => decide (signedOf 32 (fieldOf 32 ((x.1 : Int) - d.frameNo)) ≤ 0)
  match due.getLast? with
  | none => d
  | some y =>
    onGrp d fun x =>
      { x with lanesG := y.2.1, lanesQuar := y.2.2, coming := x.coming.filter fun z => !due.contains z }

/-! The map (R481). -/

/-- Where an index of a Steward's map leads: a part of this device, or of the member in a slot of a level. -/
inductive Target where
  | own (i : Nat)
  | member (level slot idx : Nat)
  deriving DecidableEq, Repr

/-- The slot and index within it of entry `i`, the slots presenting `size` entries each. -/
def locate (size : Nat → Nat) : Nat → Nat → Nat → Option (Nat × Nat)
  | 0, _, _ => none
  | k + 1, m, i => if i < size m then some (m, i) else locate size k (m + 1) (i - size m)

/-- How many axis sets (or units) slot `m` of level `l` presents. -/
def slotSize (d : Dev) (units : Bool) (l m : Nat) : Nat :=
  let s := slotAt d l m
  if s.kind = 0 then 0 else if units then s.units else s.axsets

/-- What entry `i` of the map of the group `n` levels up names. -/
def resolve (d : Dev) (units : Bool) : Nat → Nat → Option Target
  | 0, i => some (.own i)
  | l + 1, i =>
    match locate (slotSize d units l) 8 0 i with
    | none => none
    | some (m, j) => if m = ownSlot d l then resolve d units l j else some (.member l m j)

/-! Forwarding (R482). -/

/-- Replace a byte of a submission entry. -/
def setByteAt (e : List Byte) (i v : Nat) : List Byte := e.set i (BitVec.ofNat 8 v)

/-- Replace a 32-bit word of a submission entry. -/
def setWordAt (e : List Byte) (i v : Nat) : List Byte := e.take i ++ bytesLE 4 v ++ e.drop (i + 4)

/-- Forward an entry to a slot for the command of a queue and RSN: a command frame with a new forwarding tag leaves. -/
def forward (d : Dev) (sq rsn level slot : Nat) (entry : List Byte) (bits : List (Nat × Nat)) : Dev :=
  let tag := d.grp.tag
  let d := onGrp d fun g => { g with tag := (g.tag + 1) % 2 ^ 32 }
  let d := onFlight d sq rsn fun c => { c with parts := c.parts ++ [{ level := level, slot := slot, tag := tag, bits := bits }] }
  (d.inc .GRP_CNT1_FORWARDED).emit (.groupCommand slot (sectionOf d level).mac groupSource (entryPayload d level 3 tag entry))

/-- The part with forwarding tag `tag` has its completion `e` (R482); a forwarded UNIT_ENABLE answers for the group's mask bits. -/
def partDone (d : Dev) (tag : Nat) (e : Cqe) : Dev :=
  match d.host.flight.find? fun c => c.parts.any fun p => decide (p.tag = tag ∧ p.done = false) with
  | none => d
  | some c =>
    let bits := (c.parts.filter fun p => decide (p.tag = tag)).flatMap (·.bits)
    let e := if bits = [] then e
      else { e with data := (List.range 32).map fun i => match bits.find? fun b => decide (b.1 = i) with
               | some b => e.data.getD b.2 0xFF
               | none => 0xFF }
    let parts := c.parts.map fun p => if p.tag = tag then { p with done := true } else p
    let c' : HostCmd := { c with parts := parts, answer := some (joinCqe c.answer e) }
    if !c'.own ∧ c'.parts.all (·.done) then finish d c' (c'.answer.getD {})
    else onFlight d c.sq c.rsn fun _ => c'

/-! Registers (Tables 16-5, 16-6). -/

/-- L_D of the hierarchy in force, us (R480). -/
def budgetUs (d : Dev) : Nat :=
  let n := levelsUsed d
  if n = 0 then 0 else ((4 * n - 1) * (sectionOf d 0).gcyc * d.frameNs / 2 + 5 * d.frameNs) / 1000

/-- Sum over the used slots of level `l`. -/
def slotSum (d : Dev) (l : Nat) (f : GroupSlot → Nat) : Nat := (usedSlots d l).foldl (fun n m => n + f (slotAt d l m)) 0

/-- Devices below slot `m` of level `l`: one for a device; for the member group this device stewards those of its section; of another
member group the section does not say it. -/
def devicesOf (d : Dev) : Nat → Nat → Nat
  | 0, m => if (slotAt d 0 m).kind = 0 then 0 else 1
  | l + 1, m =>
    let s := slotAt d (l + 1) m
    if s.kind = 1 then 1 else if s.kind = 0 then 0
    else if m = ownSlot d (l + 1) then (List.range 8).foldl (fun n k => n + devicesOf d l k) 0
    else Config.groupDevices (s.ident % 2 ^ 32)

/-- Show the member of slot `m` of level `l`. -/
def showMember (l : Nat) (d : Dev) (m : Nat) : Dev :=
  let s := slotAt d l m
  let x := memberOf d l m
  let own := decide (m = ownSlot d l)
  let d := (d.wr .GRP_MEM_STAT_PRESENT m (bitOf (slotPresent d l m && decide (s.kind ≠ 0)))).wr .GRP_MEM_STAT_JOINED m (bitOf (own || x.joined))
  let d := (d.wr .GRP_MEM_STAT_QUAR m (bitOf x.quar)).wr .GRP_MEM_STAT_ELIGIBLE m (bitOf s.eligible)
  let d := (d.wr .GRP_MEM_STAT_TIME_SLEW m (bitOf x.slew)).wr .GRP_MEM_STAT_GSTATE m (if own then groupReported d l else x.state)
  let d := ((d.wr .GRP_MEM_STAT_KIND m s.kind).wr .GRP_MEM_ID_LO_ID m s.ident).wr .GRP_MEM_ID_HI_ID m (s.ident / 2 ^ 32)
  let d := (d.wr .GRP_MEM_ADDR_UNIT_ADDR m (8 * (sectionOf d l).unitAddr + m)).wr .GRP_MEM_ADDR_DEPTH m (if s.kind = 2 then l else 0)
  let d := d.each Lane.all fun d y =>
    let g := if own then laneDigest d l y else x.digest.getD y.idx 0
    (d.wr .GRP_MEM_DIG_LO_D (3 * m + y.idx) g).wr .GRP_MEM_DIG_HI_D (3 * m + y.idx) (g / 2 ^ 32)
  let d := d.wr .GRP_MEM_FW_CODE m (if own then d.rd .SYS_FW_VERSION_CODE else x.fw)
  let d := (d.wr .GRP_MEM_CAPS0_ARMS m s.arms).wr .GRP_MEM_CAPS0_JOINTS m s.joints
  let d := (d.wr .GRP_MEM_CAPS1_LOCAL_AXES m s.localAxes).wr .GRP_MEM_CAPS1_PORTS m s.ports
  (d.wrSat .GRP_MEM_PATH_NS m x.path.toNat).wr .GRP_MEM_LAST_FRAME m x.frame

/-- The member registers of a device that is neither Steward nor Deputy read zero. -/
def clearMember (d : Dev) (m : Nat) : Dev :=
  let d := d.each [RegField.GRP_MEM_STAT_PRESENT, .GRP_MEM_STAT_JOINED, .GRP_MEM_STAT_QUAR, .GRP_MEM_STAT_LOST, .GRP_MEM_STAT_ELIGIBLE,
    .GRP_MEM_STAT_TIME_SLEW, .GRP_MEM_STAT_GSTATE, .GRP_MEM_STAT_KIND, .GRP_MEM_ID_LO_ID, .GRP_MEM_ID_HI_ID, .GRP_MEM_ADDR_UNIT_ADDR,
    .GRP_MEM_ADDR_DEPTH, .GRP_MEM_FW_CODE, .GRP_MEM_CAPS0_ARMS, .GRP_MEM_CAPS0_JOINTS, .GRP_MEM_CAPS1_LOCAL_AXES,
    .GRP_MEM_CAPS1_PORTS, .GRP_MEM_PATH_NS, .GRP_MEM_CNT_LOST, .GRP_MEM_CNT_BAD, .GRP_MEM_LAST_FRAME] fun d f => d.wr f m 0
  d.each (List.range 3) fun d y => (d.wr .GRP_MEM_DIG_LO_D (3 * m + y) 0).wr .GRP_MEM_DIG_HI_D (3 * m + y) 0

/-- One half of GRP_MAP for the highest group stewarded (R481). -/
def showMap (l : Nat) (units : Bool) (d : Dev) (i : Nat) : Dev :=
  let k := if units then 256 + i else i
  match locate (slotSize d units l) 8 0 i with
  | some (m, j) => ((d.wr .GRP_MAP_INDEX k j).wr .GRP_MAP_SLOT k m).wr .GRP_MAP_VALID k 1
  | none => ((d.wr .GRP_MAP_INDEX k 0).wr .GRP_MAP_SLOT k 0).wr .GRP_MAP_VALID k 0

/-- What the host of a Steward sees: the counts of its roster and the map (R481); of any other device, the reset values. -/
def showCaps (d : Dev) : Dev :=
  match stewards d with
  | 0 =>
    let d := d.each [RegField.SYS_CAPS0_ARMS, .SYS_CAPS0_JOINTS, .SYS_CAPS1_LOCAL_AXES, .SYS_CAPS1_PORTS, .SYS_CAPS2_DEVICES,
      .SYS_CAPS2_DEPTH, .SYS_CAPS2_UNIT_ADDR] fun d f => d.put f (f.reset 0)
    d.each (List.range 512) fun d k => ((d.wr .GRP_MAP_INDEX k 0).wr .GRP_MAP_SLOT k 0).wr .GRP_MAP_VALID k 0
  | l + 1 =>
    let d := (d.put .SYS_CAPS0_ARMS (slotSum d l (·.arms))).put .SYS_CAPS0_JOINTS (slotSum d l (·.joints))
    let d := (d.put .SYS_CAPS1_LOCAL_AXES (slotSum d l (·.localAxes))).put .SYS_CAPS1_PORTS (slotSum d l (·.ports))
    let d := d.put .SYS_CAPS2_DEVICES ((List.range 8).foldl (fun n m => n + devicesOf d l m) 0)
    let d := (d.put .SYS_CAPS2_DEPTH (l + 1)).put .SYS_CAPS2_UNIT_ADDR (sectionOf d l).unitAddr
    (d.each (List.range 256) (showMap l false)).each (List.range 256) (showMap l true)

/-- Bits of the slots of section `l` that `p` holds of. -/
def slotBits (d : Dev) (l : Nat) (p : Nat → Bool) : Nat := ((usedSlots d l).filter p).foldl (fun n m => n + 2 ^ m) 0

/-- The group registers show section 0; the member registers the highest group stewarded, or the Deputy's (Tables 16-5, 16-6). -/
def showGroup (d : Dev) : Dev :=
  let x := levelOf d 0
  let g := sectionOf d 0
  let d := (d.put .GRP_STATUS_ROLE x.role).put .GRP_STATUS_GSTATE x.g
  let d := d.put .GRP_STATUS_QUARANTINED (bitOf (anyQuar d))
  let d := d.put .GRP_STATUS_TIME_SLEW (bitOf (decide (d.rd .BLF_CFG_SOURCE = 3) && decide (timeState d = .slewing)))
  let used := decide (0 < levelsUsed d)
  let own := ownSlot d 0
  let d := (d.put .GRP_SELF_SLOT (if used then own else 0)).put .GRP_SELF_LEVELS (stewards d)
  let d := d.put .GRP_SELF_UNIT_ADDR (if used then 8 * g.unitAddr + own else 0)
  let stw := if 4 ≤ x.role then some own else x.stw
  let d := (d.put .GRP_STEWARD_SLOT (stw.getD 0)).put .GRP_STEWARD_UNIT_ADDR (stw.elim 0 fun m => 8 * g.unitAddr + m)
  let d := (d.put .GRP_DEPUTY_SLOT (x.deputy.getD 0)).put .GRP_DEPUTY_NONE (bitOf x.deputy.isNone)
  let d := d.put .GRP_DEPUTY_UNIT_ADDR (x.deputy.elim 0 fun m => 8 * g.unitAddr + m)
  let tracks := decide (3 ≤ x.role)
  let d := d.put .GRP_PRESENT_MASK (if tracks then slotBits d 0 (slotPresent d 0) else x.stwPresent)
  let d := d.put .GRP_PRESENT_QUAR (if tracks then slotBits d 0 (fun m => (memberOf d 0 m).quar) else x.stwQuar)
  let d := d.put .GRP_PRESENT_ELIGIBLE (slotBits d 0 fun m => (slotAt d 0 m).eligible)
  let d := (d.put .GRP_CYCLE_FRAME (x.cycle.getD 0)).put .GRP_ID_ID g.groupId
  let own' := if used then sectionDigest d 0 d.firstLane else 0
  let d := (d.put .GRP_DIG_LO_D own').put .GRP_DIG_HI_D (own' / 2 ^ 32)
  let d := (d.put .GRP_STW_DIG_LO_D x.stwDigest).put .GRP_STW_DIG_HI_D (x.stwDigest / 2 ^ 32)
  let d := (d.put .GRP_STW_FW_CODE x.stwFw).wrSat .GRP_BUDGET_US 0 (budgetUs d)
  let d := d.each d.grp.hist.zipIdx fun d p =>
    (((d.wr .GRP_HIST_G p.2 p.1.g).wr .GRP_HIST_SLOT p.2 p.1.slot).wr .GRP_HIST_REASON p.2 p.1.reason).wr .GRP_HIST_FRAME p.2 p.1.frame
  let d := d.each (List.range 8) (if tracks then showMember (stewards d - 1) else clearMember)
  showCaps d

/-- G of level `l` becomes `g` (R474): the history and EV_GRP_STATE follow a change, and G of the own group reaches the lanes. -/
def setG (d : Dev) (l g slot reason : Nat) : Dev :=
  let d := if g = (levelOf d l).g then d
    else
      let d := onLevel d l fun x => { x with g := g }
      let d := onGrp d fun x =>
        { x with hist := if l = 0 then (({ g := g, slot := slot, reason := reason, frame := d.frameNo % 2 ^ 16 } : GrpChange) :: x.hist).take 16
                   else x.hist }
      d.event .GRP_STATE srcGroup slot l
  if l = 0 then sendLanes d g (anyQuar d) else d

end Sys2Proof.Machine
end

