-- ==== Sys2Proof/Machine/Observer.lean ====
section
/-!
DEFINITION. The tracking observer of the loop engines and feedback ports (R252 to R255), and what is shared by them: the torque
grant of a unit (R261, R299) and decimal constants as FP64.
-/
namespace Sys2Proof.Machine

/-- Pi as binary64. -/
def f64Pi : F64 := f64OfBits 0x400921FB54442D18

/-- A small natural number as FP64. -/
def f64Nat (n : Nat) : F64 := f64OfInt n

/-- A time in ns as seconds. -/
def f64Ns (n : Nat) : F64 := f64OfRatio n 1000000000

/-- The frame period in seconds. -/
def Dev.frameS (d : Dev) : F64 := f64Ns d.frameNs

/-- The gains l1, l2, l3 of R253 for bandwidth `f` Hz and step `t` seconds. -/
def obsGains (f : Nat) (t : F64) : F64 × F64 × F64 :=
  let lam := f64Exp (f64Neg (f64Mul (f64Mul (f64Mul (f64Nat 2) f64Pi) (f64Nat f)) t))
  let one := f64Nat 1
  let m := f64Sub one lam
  let m2 := f64Mul m m
  (f64Sub one (f64Mul (f64Mul lam lam) lam), f64Mul (f64Mul (f64OfRatio 3 2) m2) (f64Add one lam), f64Mul m2 m)

/-- The greatest F_OBS that meets 2π F_OBS T_F ≤ 0.8 and 2,000 Hz at each period (R253). -/
def maxObs (periodUnits : Nat) : Nat := if periodUnits = 1 then 2000 else if periodUnits = 2 then 1018 else 509

/-- One prediction over a step of `t` seconds (R252). -/
def obsPredict (t : F64) (o : Obs) : Obs :=
  { p := f64Add (f64Add o.p (f64Mul t o.v)) (f64Mul (f64Mul (f64OfRatio 1 2) (f64Mul t t)) o.a)
    v := f64Add o.v (f64Mul t o.a)
    a := o.a }

/-- Prediction over `k` steps. -/
def obsPredictN (t : F64) : Nat → Obs → Obs
  | 0, o => o
  | k + 1, o => obsPredictN t k (obsPredict t o)

/-- Correction with measurement `y` (R252). -/
def obsCorrect (g : F64 × F64 × F64) (t : F64) (y : Int) (o : Obs) : Obs :=
  let e := f64Sub (f64OfInt y) o.p
  { p := f64Add o.p (f64Mul g.1 e)
    v := f64Add o.v (f64Div (f64Mul g.2.1 e) t)
    a := f64Add o.a (f64Div (f64Mul g.2.2 e) (f64Mul t t)) }

/-- Restart at `y` (R254). -/
def obsAt (y : Int) : Obs := { p := f64OfInt y }

/-- Lanes in service. -/
def servingLanes (d : Dev) : List Lane := Lane.all.filter fun l => decide (d.rd .LN_STATUS_STATE l.idx = 5)

/-- The torque-granted bit of unit `u` the lanes pass (R261, R299): set unless two lanes in service demand STO for it. -/
def granted (d : Dev) (u : Nat) : Bool :=
  decide (((servingLanes d).filter fun l => decide ((SMap.get ({} : UnitDyn) (d.lanes.get l).saf.units u).func = 5)).length < 2)

end Sys2Proof.Machine
end

