-- ==== Sys2Proof/Machine/PlanMath.lean ====
section
/-!
DEFINITION. The arithmetic of planning: profiles with their phase boundaries on frame ticks (R220, R221), segments and their evaluation
(R228, R247), the drain stop (R231), retiming along a path (R223 to R232), and path geometry (R218, Table 7-4).
-/
namespace Sys2Proof.Machine

/-- Sum of a list. -/
def f64Sum (xs : List F64) : F64 := xs.foldl f64Add f64Zero

/-- A decimal fraction as FP64. -/
def f64Frac (n d : Nat) : F64 := f64OfRatio n d

/-! Profiles (R220, R221). -/

/-- Limits of one scalar motion: speed, acceleration, deceleration and jerk, per second. -/
structure ScalarLimits where
  v : F64
  a : F64
  d : F64
  j : F64

/-- Continuous durations Tj1, Ta1, Tv, Tj2, Ta2 in seconds. -/
structure Durations where
  tj1 : F64
  ta1 : F64
  tv : F64
  tj2 : F64
  ta2 : F64

/-- Tj and Ta of reaching speed `v` at acceleration `a` and jerk `j`; the jerk phases have zero length in a trapezoidal profile. -/
def rampTimes (trap : Bool) (v a j : F64) : F64 × F64 :=
  if trap then (f64Zero, f64Div v a)
  else if f64Le (f64Mul a a) (f64Mul v j) then (f64Div a j, f64Sub (f64Div v a) (f64Div a j))
  else (f64Sqrt (f64Div v j), f64Zero)

/-- Twice Tj plus Ta. -/
def rampTotal (r : F64 × F64) : F64 := f64Add (f64Mul (f64Nat 2) r.1) r.2

/-- The distance that accelerating to `v` and decelerating from it takes. -/
def rampDistance (trap : Bool) (l : ScalarLimits) (v : F64) : F64 :=
  f64Div (f64Mul v (f64Add (rampTotal (rampTimes trap v l.a l.j)) (rampTotal (rampTimes trap v l.d l.j)))) (f64Nat 2)

/-- The greatest peak speed up to `hi` whose ramps fit distance `dist`, by bisection. -/
def peakSpeed (trap : Bool) (l : ScalarLimits) (dist : F64) : Nat → F64 → F64 → F64
  | 0, lo, _ => lo
  | k + 1, lo, hi =>
    let m := f64Div (f64Add lo hi) (f64Nat 2)
    if f64Le (rampDistance trap l m) dist then peakSpeed trap l dist k m hi else peakSpeed trap l dist k lo m

/-- The continuous durations of a motion over `dist` (R221, step 1). -/
def durations (trap : Bool) (l : ScalarLimits) (dist : F64) : Durations :=
  if f64Le dist f64Zero then ⟨f64Zero, f64Zero, f64Zero, f64Zero, f64Zero⟩
  else
    let full := rampDistance trap l l.v
    let v := if f64Le full dist then l.v else peakSpeed trap l dist 80 f64Zero l.v
    let r1 := rampTimes trap v l.a l.j
    let r2 := rampTimes trap v l.d l.j
    let tv := if f64Le full dist then f64Div (f64Sub dist full) l.v else f64Zero
    ⟨r1.1, r1.2, tv, r2.1, r2.2⟩

/-- Length of a motion. -/
def durationTotal (t : Durations) : F64 := f64Add (f64Add (rampTotal (t.tj1, t.ta1)) t.tv) (rampTotal (t.tj2, t.ta2))

/-- Whole frames of phases Tj1, Ta1, Tv, Tj2, Ta2 (R221, step 2). -/
structure PhaseFrames where
  j1 : Nat
  a1 : Nat
  v : Nat
  j2 : Nat
  a2 : Nat

/-- Round every duration, times `scale`, up to whole frames of `tf` seconds. -/
def roundPhases (tf scale : F64) (t : Durations) : PhaseFrames :=
  let up := fun (x : F64) => (f64Ceil (f64Div (f64Mul x scale) tf)).toNat
  ⟨up t.tj1, up t.ta1, up t.tv, up t.tj2, up t.ta2⟩

/-- Frames of the deceleration phase. -/
def PhaseFrames.decel (p : PhaseFrames) : Nat := 2 * p.j2 + p.a2

/-- Frames of the acceleration phase. -/
def PhaseFrames.accel (p : PhaseFrames) : Nat := 2 * p.j1 + p.a1

/-- Frames of the whole motion. -/
def PhaseFrames.total (p : PhaseFrames) : Nat := p.accel + p.v + p.decel

/-- The state of a piece after `k` frames: value and first and second derivative per frame. -/
def pieceAt (p : Piece) (k : F64) : F64 × F64 × F64 :=
  let k2 := f64Mul k k
  (f64Add (f64Add (f64Add p.s (f64Mul p.v k)) (f64Div (f64Mul p.a k2) (f64Nat 2))) (f64Div (f64Mul p.j (f64Mul k2 k)) (f64Nat 6)),
    f64Add (f64Add p.v (f64Mul p.a k)) (f64Div (f64Mul p.j k2) (f64Nat 2)), f64Add p.a (f64Mul p.j k))

/-- Pieces from phases (frames, acceleration at the start or that in force, jerk) and an initial value and speed. -/
def buildPieces : List (Nat × F64 × F64) → F64 → F64 → List Piece
  | [], _, _ => []
  | (n, a, j) :: rest, s, v =>
    if n = 0 then buildPieces rest s v
    else
      let p : Piece := { n := n, s := s, v := v, a := a, j := j }
      let e := pieceAt p (f64Nat n)
      p :: buildPieces rest e.1 e.2.1

/-- The pieces of a motion from 0 to `dist` with rounded phases (R221, step 3), per frame. -/
def profilePieces (dist : F64) (p : PhaseFrames) : List Piece :=
  let acc : F64 := f64Frac p.accel 2
  let dec : F64 := f64Frac p.decel 2
  let v := f64Div dist (f64Add (f64Add acc (f64Nat p.v)) dec)
  let z := f64Zero
  let ramp := fun (j a : Nat) (up : Bool) =>
    let sgn := fun (x : F64) => if up then x else f64Neg x
    if j = 0 then [(a, sgn (f64Div v (f64Nat a)), z)]
    else
      let jk := sgn (f64Div v (f64Mul (f64Nat j) (f64Nat (j + a))))
      let pk := f64Mul jk (f64Nat j)
      [(j, z, jk), (a, pk, z), (j, pk, f64Neg jk)]
  buildPieces (ramp p.j1 p.a1 true ++ [(p.v, z, z)] ++ ramp p.j2 p.a2 false) z z

/-- The state of a motion `k` frames from its start; at its last state beyond its end. -/
def piecesAt : List Piece → F64 → F64 × F64 × F64
  | [], _ => (f64Zero, f64Zero, f64Zero)
  | [p], k => pieceAt p (f64Min k (f64Nat p.n))
  | p :: ps, k => if f64Lt k (f64Nat p.n) then pieceAt p k else piecesAt ps (f64Sub k (f64Nat p.n))

/-- Frames that a list of pieces covers. -/
def piecesLen (ps : List Piece) : Nat := (ps.map (·.n)).foldl (· + ·) 0

/-! Segments. -/

/-- Value and first and second derivative in τ of a segment's polynomial: C0 + q(τ) by Horner's rule (R247). -/
def segPoly (c : List F64) (t : F64) : F64 × F64 × F64 :=
  let g := fun i => c.getD i f64Zero
  let ma := fun (x y : F64) => f64Add (f64Mul x t) y
  let q := ma (ma (ma (ma (ma (g 5) (g 4)) (g 3)) (g 2)) (g 1)) f64Zero
  let k := fun (n : Nat) (i : Nat) => f64Mul (f64Nat n) (g i)
  (f64Add (g 0) q, ma (ma (ma (ma (k 5 5) (k 4 4)) (k 3 3)) (k 2 2)) (g 1), ma (ma (ma (k 20 5) (k 12 4)) (k 6 3)) (k 2 2))

/-- τ of frame `f` in a segment, frames compared as signed 32-bit differences. -/
def segTau (s : Seg) (f : Nat) : F64 := f64OfRatio (signedOf 32 (fieldOf 32 ((f : Int) - s.start))) s.dur

/-- The target frames a segment covers: from FRAME_START for DUR frames. -/
def segCovers (s : Seg) (f : Nat) : Bool :=
  let k := signedOf 32 (fieldOf 32 ((f : Int) - s.start))
  decide (0 ≤ k ∧ k < s.dur)

/-- Position in counts, and velocity and acceleration per second, of a segment at frame `f` (R228). -/
def segAt (tf : F64) (s : Seg) (f : Nat) : F64 × F64 × F64 :=
  let (p, v, a) := segPoly s.c (segTau s f)
  let t := f64Mul (f64Nat s.dur) tf
  (p, f64Div v t, f64Div a (f64Mul t t))

/-- The end state of a segment, at τ = 1. -/
def segEnd (tf : F64) (s : Seg) : F64 × F64 × F64 :=
  let (p, v, a) := segPoly s.c (f64Nat 1)
  let t := f64Mul (f64Nat s.dur) tf
  (p, f64Div v t, f64Div a (f64Mul t t))

/-- The quintic over one unit of τ that joins two states given per τ. -/
def hermite (x y : F64 × F64 × F64) : List F64 :=
  let (p0, v0, a0) := x
  let (p1, v1, a1) := y
  let d := f64Sub p1 p0
  let k := fun (n m : Nat) (z : F64) => f64Mul (f64Frac n m) z
  [p0, v0, k 1 2 a0,
    f64Add (f64Sub (f64Sub (f64Sub (k 10 1 d) (k 6 1 v0)) (k 4 1 v1)) (k 3 2 a0)) (k 1 2 a1),
    f64Sub (f64Add (f64Add (f64Add (f64Neg (k 15 1 d)) (k 8 1 v0)) (k 7 1 v1)) (k 3 2 a0)) a1,
    f64Add (f64Sub (f64Sub (f64Sub (k 6 1 d) (k 3 1 v0)) (k 3 1 v1)) (k 1 2 a0)) (k 1 2 a1)]

/-- A state per frame as one per τ of a segment of `n` frames. -/
def perTau (n : Nat) (x : F64 × F64 × F64) : F64 × F64 × F64 :=
  (x.1, f64Mul x.2.1 (f64Nat n), f64Mul x.2.2 (f64Mul (f64Nat n) (f64Nat n)))

/-- Segments of at most 256 frames of one slot that moves from `q0` by `dq` times a motion's value (R229), from frame `f` on. -/
def pieceSegs (q0 dq : F64) (seq : Nat) (p : Piece) (f : Nat) : Nat → Nat → List Seg
  | 0, _ => []
  | fuel + 1, k =>
    if p.n ≤ k then []
    else
      let n := min 256 (p.n - k)
      let (s, v, a) := perTau n (pieceAt p (f64Nat k))
      let j := f64Mul p.j (f64Nat (n * n * n))
      let c := [f64Add q0 (f64Mul dq s), f64Mul dq v, f64Div (f64Mul dq a) (f64Nat 2), f64Div (f64Mul dq j) (f64Nat 6), f64Zero,
        f64Zero]
      { start := (f + k) % 2 ^ 32, dur := n, stopFr := 1, seq := seq, c := c } :: pieceSegs q0 dq seq p f fuel (k + n)

/-- Segments of one slot for a whole motion. -/
def motionSegs (q0 dq : F64) (seq : Nat) : List Piece → Nat → List Seg
  | [], _ => []
  | p :: ps, f => pieceSegs q0 dq seq p f (p.n + 1) 0 ++ motionSegs q0 dq seq ps (f + p.n)

/-- Mark the last segment of a list LAST. -/
def markLast : List Seg → List Seg
  | [] => []
  | [s] => [{ s with last := true }]
  | s :: ss => s :: markLast ss

/-! Drain stop (R231). -/

/-- The state `t` seconds into a drain stop of `tt` seconds from velocity `v` and acceleration `a`: distance, velocity,
acceleration. -/
def drainAt (v a tt t : F64) : F64 × F64 × F64 :=
  let c3 := f64Add (f64Mul (f64Nat 4) v) (f64Mul a tt)
  let c4 := f64Add (f64Mul (f64Nat 3) v) (f64Mul a tt)
  let w := f64Div (f64Sub tt t) tt
  let w2 := f64Mul w w
  let w3 := f64Mul w2 w
  let vel := f64Sub (f64Mul c3 w3) (f64Mul c4 (f64Mul w3 w))
  let acc := f64Neg (f64Div (f64Sub (f64Mul (f64Nat 3) (f64Mul c3 w2)) (f64Mul (f64Nat 4) (f64Mul c4 w3))) tt)
  let left := f64Mul tt (f64Sub (f64Div (f64Mul c3 (f64Mul w3 w)) (f64Nat 4)) (f64Div (f64Mul c4 (f64Mul w3 w2)) (f64Nat 5)))
  let all := f64Div (f64Add (f64Mul (f64Nat 8) (f64Mul v tt)) (f64Mul a (f64Mul tt tt))) (f64Nat 20)
  (f64Sub all left, vel, acc)

/-- The distance a drain stop covers. -/
def drainDistance (v a tt : F64) : F64 :=
  f64Div (f64Add (f64Mul (f64Nat 8) (f64Mul v tt)) (f64Mul a (f64Mul tt tt))) (f64Nat 20)

/-- A drain stop of `tt` seconds keeps acceleration and jerk within `la` and `lj`: at its start and where each is extreme. An acceleration
under way at its start decays and is no deceleration of the stop. -/
def drainWithin (la lj v a tt : F64) : Bool :=
  let c3 := f64Add (f64Mul (f64Nat 4) v) (f64Mul a tt)
  let c4 := f64Add (f64Mul (f64Nat 3) v) (f64Mul a tt)
  let acc := fun (w : F64) =>
    f64Div (f64Sub (f64Mul (f64Nat 3) (f64Mul c3 (f64Mul w w))) (f64Mul (f64Nat 4) (f64Mul c4 (f64Mul w (f64Mul w w))))) tt
  let jerk := fun (w : F64) =>
    f64Div (f64Sub (f64Mul (f64Nat 6) (f64Mul c3 w)) (f64Mul (f64Nat 12) (f64Mul c4 (f64Mul w w)))) (f64Mul tt tt)
  let inside := fun (n : Nat) (lim : F64) (f : F64 → F64) =>
    let w := f64Div (f64Mul (f64Nat n) c3) (f64Mul (f64Nat 4) c4)
    !(f64Le f64Zero w && f64Le w (f64Nat 1)) || f64Le (f64Abs (f w)) lim
  let one := f64Nat 1
  f64Le (f64Abs (acc one)) (f64Max la (f64Abs a)) && f64Le (f64Abs (jerk one)) lj && inside 2 la acc && inside 1 lj jerk

/-- The smallest STOP_FR from 1 to 65,535 for which `p` holds, `p` holding of every larger one; none if it holds of none. -/
def leastStop (p : Nat → Bool) : Nat → Nat → Nat → Option Nat
  | 0, _, hi => if p hi then some hi else none
  | k + 1, lo, hi =>
    if hi ≤ lo then (if p hi then some hi else none)
    else
      let m := (lo + hi) / 2
      if p m then leastStop p k lo m else leastStop p k (m + 1) hi

/-- The smallest number from `lo` to `hi` for which `p` holds, `p` holding of every larger one. -/
def leastFrom (p : Nat → Bool) (k lo hi : Nat) : Option Nat := if p lo then some lo else leastStop p k (lo + 1) hi

/-! Changes of a plan (R223 to R226, R232). -/

/-- Limits per frame of `tf` seconds, slowed by a time-scaling factor. -/
def ScalarLimits.perFrame (l : ScalarLimits) (tf scale : F64) : ScalarLimits :=
  let t := f64Div tf scale
  let t2 := f64Mul t t
  { v := f64Mul l.v t, a := f64Mul l.a t2, d := f64Mul l.d t2, j := f64Mul l.j (f64Mul t2 t) }

/-- A value with the slack of FP64 rounding. -/
def slack (x : F64) : F64 := f64Mul x (f64Frac 1048577 1048576)

/-- Within 2^-20. -/
def tiny (x : F64) : Bool := f64Le (f64Abs x) (f64Frac 1 1048576)

/-- Value, speed and acceleration after time `t` at jerk `j`. -/
def jerked (x : F64 × F64 × F64) (t j : F64) : F64 × F64 × F64 :=
  let t2 := f64Mul t t
  (f64Add (f64Add (f64Add x.1 (f64Mul x.2.1 t)) (f64Div (f64Mul x.2.2 t2) (f64Nat 2))) (f64Div (f64Mul j (f64Mul t2 t)) (f64Nat 6)),
    f64Add (f64Add x.2.1 (f64Mul x.2.2 t)) (f64Div (f64Mul j t2) (f64Nat 2)), f64Add x.2.2 (f64Mul j t))

/-- The change from speed `v` and acceleration `a` to speed `v1` and none in the least time: three phases as time and jerk, the acceleration
moving at the jerk limit (R224). -/
def changeTimes (l : ScalarLimits) (v a v1 : F64) : List (F64 × F64) :=
  let two := f64Nat 2
  let rises := f64Le (f64Add v (f64Div (f64Mul a (f64Abs a)) (f64Mul two l.j))) v1
  let sgn := fun (x : F64) => if rises then x else f64Neg x
  let lim := if rises then l.a else l.d
  let a0 := sgn a
  let dv := sgn (f64Sub v1 v)
  let a2 := f64Mul a0 a0
  let peak := f64Sqrt (f64Max f64Zero (f64Add (f64Mul l.j dv) (f64Div a2 two)))
  let down := sgn (f64Neg l.j)
  if f64Le peak lim then [(f64Div (f64Sub peak a0) l.j, sgn l.j), (f64Zero, f64Zero), (f64Div peak l.j, down)]
  else if f64Le a0 lim then
    let hold := f64Div (f64Sub dv (f64Div (f64Sub (f64Mul two (f64Mul lim lim)) a2) (f64Mul two l.j))) lim
    [(f64Div (f64Sub lim a0) l.j, sgn l.j), (hold, f64Zero), (f64Div lim l.j, down)]
  else [(f64Div (f64Sub a0 lim) l.j, down), (f64Div (f64Sub dv (f64Div a2 (f64Mul two l.j))) lim, f64Zero), (f64Div lim l.j, down)]

/-- The distance that phases cover from speed `v` and acceleration `a`. -/
def phasesDistance (v a : F64) (ps : List (F64 × F64)) : F64 :=
  (ps.foldl (fun x p => jerked x p.1 p.2) (f64Zero, v, a)).1

/-- The distance in which a motion stops. -/
def stopDistance (l : ScalarLimits) (v a : F64) : F64 := phasesDistance v a (changeTimes l v a f64Zero)

/-- The smallest deceleration up to `hi` that stops within `dist`, by bisection. -/
def leastDecel (l : ScalarLimits) (v a dist : F64) : Nat → F64 → F64 → F64
  | 0, _, hi => hi
  | k + 1, lo, hi =>
    let m := f64Div (f64Add lo hi) (f64Nat 2)
    if f64Le (stopDistance { l with d := m } v a) dist then leastDecel l v a dist k lo m else leastDecel l v a dist k m hi

/-- d_req (R225): the smallest deceleration that stops within `dist` at the jerk limit; none if no deceleration up to `hi` does. -/
def requiredDecel (l : ScalarLimits) (v a dist hi : F64) : Option F64 :=
  if f64Le (stopDistance { l with d := hi } v a) (slack dist) then some (leastDecel l v a (slack dist) 60 f64Zero hi) else none

/-- The distance of a change to speed `v1` under `first` and a stop from there under `l`. -/
def runDistance (first l : ScalarLimits) (v a v1 : F64) : F64 :=
  f64Add (phasesDistance v a (changeTimes first v a v1)) (f64Div (f64Mul v1 (rampTotal (rampTimes false v1 l.d l.j))) (f64Nat 2))

/-- The greatest speed up to `hi` from which a motion still stops within `dist`, by bisection. -/
def cruiseSpeed (first l : ScalarLimits) (v a dist : F64) : Nat → F64 → F64 → F64
  | 0, lo, _ => lo
  | k + 1, lo, hi =>
    let m := f64Div (f64Add lo hi) (f64Nat 2)
    if f64Le (runDistance first l v a m) dist then cruiseSpeed first l v a dist k m hi else cruiseSpeed first l v a dist k lo m

/-- Whole frames of a time, at least `least`. -/
def framesUp (least : Nat) (t : F64) : Nat := max least (f64Ceil t).toNat

/-- Phases of whole frames in which the acceleration moves from `a` to `p`, to `q` and to zero. -/
def kneePhases (a p q : F64) (n : Nat × Nat × Nat) : List (Nat × F64 × F64) :=
  let slope := fun (x y : F64) (k : Nat) => if k = 0 then f64Zero else f64Div (f64Sub y x) (f64Nat k)
  [(n.1, a, slope a p n.1), (n.2.1, p, slope p q n.2.1), (n.2.2, q, slope q f64Zero n.2.2)]

/-- Distance and speed at the end of phases of whole frames. -/
def phasesEnd (v : F64) (ps : List (Nat × F64 × F64)) : F64 × F64 :=
  ps.foldl (fun x p => let y := jerked (x.1, x.2, p.2.1) (f64Nat p.1) p.2.2; (y.1, y.2.1)) (f64Zero, v)

/-- The acceleration reached in a change of speed over phases of whole frames. -/
def kneeOf (v a v1 : F64) (n : Nat × Nat × Nat) : F64 :=
  f64Div (f64Sub (f64Sub v1 v) (f64Mul a (f64Frac n.1 2))) (f64Add (f64Nat n.2.1) (f64Frac (n.1 + n.2.2) 2))

/-- A stop in phases of whole frames that covers exactly `dist` (R221, R225). -/
def exactStop (v a dist : F64) (n : Nat × Nat × Nat) : List (Nat × F64 × F64) :=
  let e := fun (p q : F64) => phasesEnd v (kneePhases a p q n)
  let z := e f64Zero f64Zero
  let col := fun (x : F64 × F64) => (f64Sub x.1 z.1, f64Sub x.2 z.2)
  let x := col (e (f64Nat 1) f64Zero)
  let y := col (e f64Zero (f64Nat 1))
  let s := f64Sub dist z.1
  let w := f64Neg z.2
  let det := f64Sub (f64Mul x.1 y.2) (f64Mul y.1 x.2)
  kneePhases a (f64Div (f64Sub (f64Mul s y.2) (f64Mul y.1 w)) det) (f64Div (f64Sub (f64Mul x.1 w) (f64Mul s x.2)) det) n

/-- Whole frames of a change of speed. -/
def changeFrames (l : ScalarLimits) (v a v1 : F64) (least : Nat) : Nat × Nat × Nat :=
  match changeTimes l v a v1 with
  | [x, y, z] => (framesUp 1 x.1, framesUp least y.1, framesUp 1 z.1)
  | _ => (1, least, 1)

/-- The phases of a motion from speed `v` and acceleration `a` to rest after exactly `dist`: a change to the cruising speed under `first`, and
cruise and deceleration under `l`, every phase of whole frames and its rates set by the rounded durations as in R221. With the first frame
of the deceleration. -/
def runPhases (first l : ScalarLimits) (v a dist : F64) : List (Nat × F64 × F64) × Nat :=
  let v1 := cruiseSpeed first l v a dist 60 f64Zero l.v
  let rises := f64Le v v1
  let lim := if rises then first.a else first.d
  let dec := rampTimes false v1 l.d l.j
  let m1 := framesUp 1 dec.1
  let m2 := framesUp 0 dec.2
  let solve := fun (e : Nat) =>
    let n := changeFrames first v a v1 0
    let n := (n.1 + e, n.2.1, n.2.2 + e)
    let s := fun (u : F64) => (phasesEnd v (kneePhases a (kneeOf v a u n) (kneeOf v a u n) n)).1
    let s0 := s f64Zero
    let dec := f64Frac (2 * m1 + m2) 2
    let nv := if f64Lt f64Zero v1 then framesUp 0 (f64Div (f64Sub dist (f64Add (s v1) (f64Mul v1 dec))) v1) else 0
    let u := f64Div (f64Sub dist s0) (f64Add (f64Sub (s (f64Nat 1)) s0) (f64Add (f64Nat nv) dec))
    (n, nv, u, kneeOf v a u n)
  let ok := fun (e : Nat) =>
    let (n, _, u, p) := solve e
    let jerk := fun (x : F64) (k : Nat) => f64Le (f64Abs x) (slack (f64Mul first.j (f64Nat k)))
    f64Le f64Zero u && f64Le (f64Abs p) (slack (f64Max lim (f64Abs a))) && jerk (f64Sub p a) n.1 && jerk p n.2.2
  let (n, nv, u, p) := solve (((0 :: (List.range 13).map (2 ^ ·)).find? ok).getD 0)
  if f64Le v1 f64Zero ∨ f64Le u f64Zero then (exactStop v a dist (changeFrames first v a f64Zero 1), 0)
  else
    let j := f64Div u (f64Nat (m1 * (m1 + m2)))
    let d := f64Neg (f64Mul j (f64Nat m1))
    (kneePhases a p p n ++ [(nv, f64Zero, f64Zero), (m1, f64Zero, f64Neg j), (m2, d, f64Zero), (m1, d, j)], n.1 + n.2.1 + n.2.2 + nv)

/-- The phases of a stop in the least time. -/
def stopPhases (l : ScalarLimits) (v a : F64) : List (Nat × F64 × F64) :=
  if v = f64Zero ∧ a = f64Zero then []
  else
    let n := changeFrames l v a f64Zero 0
    let p := kneeOf v a f64Zero n
    kneePhases a p p n

/-- What a change of a motion is bound to: the limits of the change of speed and those of the motion after it, per frame, and whether it comes
to rest at once. -/
structure Change where
  first : ScalarLimits
  then' : ScalarLimits
  rest : Bool

/-- The new motion from value `s`, speed `v` and acceleration `a`, at rest at the latest after `dist` (R225): its pieces, the first frame of its
deceleration, and whether d_req governs, at the jerk limit or, where that cannot stop in time, at the jerk of the plan in force, whose peak
deceleration and jerk are `hi`. None if no such motion is found: the plan in force stands. -/
def changed (c : Change) (s v a dist : F64) (hi : F64 × F64) : Option (List Piece × Nat × Bool) :=
  let top := f64Max c.first.d hi.1
  let out := fun (ps : List (Nat × F64 × F64)) => buildPieces ps s v
  let within := fun (l : ScalarLimits) (d : F64) => { l with d := f64Max l.d d }
  let fast := fun (l : ScalarLimits) => { l with j := f64Max l.j hi.2 }
  let go := fun (first then' : ScalarLimits) (d : F64) (late : Bool) =>
    let clamps := late || f64Lt (slack first.d) d
    let first := within first d
    let stop := stopPhases first v a
    if c.rest ∧ f64Le (phasesEnd v stop).1 (slack dist) then (out stop, 0, clamps)
    else if c.rest then (out (exactStop v a dist (changeFrames first v a f64Zero 1)), 0, clamps)
    else
      let r := runPhases first (within then' d) v a dist
      (out r.1, r.2, clamps)
  match requiredDecel c.first v a dist top with
  | some d => some (go c.first c.then' d false)
  | none => (requiredDecel (fast c.first) v a dist top).map fun d => go (fast c.first) (fast c.then') d true

/-- The state of a plan of one slot at path time `k` frames: the segment in which it lies, its end state beyond. Per frame. -/
def planAt : List Seg → F64 → F64 × F64 × F64
  | [], _ => (f64Zero, f64Zero, f64Zero)
  | s :: ss, k =>
    let rel := f64Sub k (f64Nat s.start)
    if f64Lt rel (f64Nat s.dur) ∨ ss.isEmpty then
      let (p, v, a) := segPoly s.c (f64Min (f64Nat 1) (f64Div rel (f64Nat s.dur)))
      (p, f64Div v (f64Nat s.dur), f64Div a (f64Nat (s.dur * s.dur)))
    else planAt ss k

/-- The path time at which a rising path coordinate reaches `s`, by bisection. -/
def pathTime (path : List Seg) (s : F64) : Nat → F64 → F64 → F64
  | 0, _, hi => hi
  | k + 1, lo, hi =>
    let m := f64Div (f64Add lo hi) (f64Nat 2)
    if f64Le s (planAt path m).1 then pathTime path s k lo m else pathTime path s k m hi

/-- The peak deceleration and jerk of a path coordinate from path time `k` on, per frame (R225). -/
def peaksFrom (path : List Seg) (k : F64) : F64 × F64 :=
  (path.filter fun g => f64Lt k (f64Nat (g.start + g.dur))).foldl (fun b g =>
    let n := f64Nat (g.dur * g.dur)
    let x := (segPoly g.c f64Zero).2.2
    let y := (segPoly g.c (f64Nat 1)).2.2
    (f64Max b.1 (f64Div (f64Max (f64Neg x) (f64Neg y)) n), f64Max b.2 (f64Div (f64Abs (f64Sub y x)) (f64Mul n (f64Nat g.dur))))) (f64Zero, f64Zero)

/-- The state of a slot of a plan where the plan's path coordinate has state `t`: along the same path (R226, R232). Where the coordinate stands
still, the slope is that of its surroundings. -/
def alongPath (path segs : List Seg) (len : Nat) (t : F64 × F64 × F64) : F64 × F64 × F64 :=
  let top := f64Nat len
  let k := pathTime path t.1 64 f64Zero top
  let x := planAt segs k
  let y := planAt path k
  if tiny (f64Mul y.2.1 (f64Nat (2 ^ 20))) then
    let lo := f64Max f64Zero (f64Sub k (f64Nat 8))
    let hi := f64Min top (f64Add k (f64Nat 8))
    let ds := f64Sub (planAt path hi).1 (planAt path lo).1
    let q := if f64Lt f64Zero ds then f64Div (f64Sub (planAt segs hi).1 (planAt segs lo).1) ds else f64Zero
    (x.1, f64Mul q t.2.1, f64Mul q t.2.2)
  else
    let q := f64Div x.2.1 y.2.1
    let q2 := f64Div (f64Sub x.2.2 (f64Mul q y.2.2)) (f64Mul y.2.1 y.2.1)
    (x.1, f64Mul q t.2.1, f64Add (f64Mul q2 (f64Mul t.2.1 t.2.1)) (f64Mul q t.2.2))

/-- Frames of an IK interval (R216). -/
def ikFrames (periodUnits : Nat) : Nat := 8 / periodUnits

/-- Node frames of a splice of `n` frames: every IK interval, and the end. -/
def nodeFrames (k n : Nat) : List Nat := ((List.range (n / k + 1)).map (fun i => k * i)).filter (fun x => decide (x < n)) ++ [n]

/-- Segments between node frames of one slot, from states per frame at the nodes. -/
def nodeSegs (seq f : Nat) : List (Nat × (F64 × F64 × F64)) → List Seg
  | (k0, x) :: (k1, y) :: rest =>
    let n := k1 - k0
    { start := (f + k0) % 2 ^ 32, dur := n, stopFr := 1, seq := seq, c := hermite (perTau n x) (perTau n y) } ::
      nodeSegs seq f ((k1, y) :: rest)
  | _ => []

/-! Geometry. -/

/-- Identity frame with an origin. -/
def frameAt (f : Frame3) (t : P3) : Frame3 := { f with t := t }

/-- Inverse of a frame. -/
def frameInv (f : Frame3) : Frame3 :=
  let r0 := colOf f 0
  let r1 := colOf f 1
  let r2 := colOf f 2
  { r0 := r0, r1 := r1, r2 := r2, t := ⟨f64Neg (dot3 r0 f.t), f64Neg (dot3 r1 f.t), f64Neg (dot3 r2 f.t)⟩ }

/-- The rotation vector of a frame's rotation. -/
def rotationVector (f : Frame3) : P3 :=
  let two := f64Nat 2
  let c := f64Clamp (f64Neg (f64Nat 1)) (f64Nat 1) (f64Div (f64Sub (f64Add (f64Add f.r0.x f.r1.y) f.r2.z) (f64Nat 1)) two)
  let th := f64Acos c
  let s := f64Mul two (f64Sin th)
  if f64Lt f64Zero (f64Abs s) then
    let k := fun (x : F64) => f64Div (f64Mul x th) s
    ⟨k (f64Sub f.r2.y f.r1.z), k (f64Sub f.r0.z f.r2.x), k (f64Sub f.r1.x f.r0.y)⟩
  else ⟨f64Zero, f64Zero, f64Zero⟩

/-- A vector times a factor. -/
def p3Scale (k : F64) (v : P3) : P3 := ⟨f64Mul k v.x, f64Mul k v.y, f64Mul k v.z⟩

/-- Cross product. -/
def p3Cross (a b : P3) : P3 :=
  ⟨f64Sub (f64Mul a.y b.z) (f64Mul a.z b.y), f64Sub (f64Mul a.z b.x) (f64Mul a.x b.z), f64Sub (f64Mul a.x b.y) (f64Mul a.y b.x)⟩

/-- Thousandths as whole units: um to mm, urad to rad by a divisor. -/
def p3OfInts (v : V3) (d : Nat) : P3 := ⟨f64OfRatio v.x d, f64OfRatio v.y d, f64OfRatio v.z d⟩

/-- The rotation vector from one orientation to another, in the first; none between equal orientations. -/
def turnVector (x y : Frame3) : P3 :=
  let z : P3 := ⟨f64Zero, f64Zero, f64Zero⟩
  if x.r0 = y.r0 ∧ x.r1 = y.r1 ∧ x.r2 = y.r2 then z else rotationVector (frameMul (frameInv (frameAt x z)) (frameAt y z))

/-- The pose between two poses at fraction `u`: origin on the line, rotation about the relative rotation vector. -/
def poseBetween (x y : Frame3) (u : F64) : Frame3 :=
  let w := turnVector x y
  let r := frameMul (frameAt x ⟨f64Zero, f64Zero, f64Zero⟩) (frameOfVector ⟨f64Zero, f64Zero, f64Zero⟩ (p3Scale u w))
  frameAt r (p3Add x.t (p3Scale u (p3Sub y.t x.t)))

/-- A circle through three points: centre, radius vector to the start, direction of travel there, and the angle to the end. -/
structure Arc where
  centre : P3
  u : P3
  w : P3
  angle : F64

/-- The arc from `a` through `b` to `c`; none if the points lie on a line. -/
def arcOf (a b c : P3) : Option Arc :=
  let ab := p3Sub b a
  let ac := p3Sub c a
  let n := p3Cross ab ac
  let n2 := dot3 n n
  if f64Lt f64Zero n2 then
    let t := p3Add (p3Scale (dot3 ac ac) (p3Cross n ab)) (p3Scale (dot3 ab ab) (p3Cross ac n))
    let r := p3Scale (f64Div (f64Nat 1) (f64Mul (f64Nat 2) n2)) t
    let centre := p3Add a r
    let u := p3Sub a centre
    let w := p3Scale (f64Div (f64Nat 1) (f64Sqrt n2)) (p3Cross n u)
    let e := p3Sub c centre
    let r2 := dot3 u u
    let th := f64Acos (f64Clamp (f64Neg (f64Nat 1)) (f64Nat 1) (f64Div (dot3 u e) r2))
    let angle := if f64Lt (dot3 w e) f64Zero then f64Sub (f64Mul (f64Nat 2) f64Pi) th else th
    some ⟨centre, u, w, angle⟩
  else none

/-- Point of an arc at an angle from its start. -/
def arcPoint (x : Arc) (th : F64) : P3 := p3Add x.centre (p3Add (p3Scale (f64Cos th) x.u) (p3Scale (f64Sin th) x.w))

/-- Distance of a point from a box, squared (mm). -/
def boxDistance2 (lo hi p : P3) : F64 :=
  let g := fun (l h x : F64) => f64Max f64Zero (f64Max (f64Sub l x) (f64Sub x h))
  let x := g lo.x hi.x p.x
  let y := g lo.y hi.y p.y
  let z := g lo.z hi.z p.z
  f64Sum [f64Mul x x, f64Mul y y, f64Mul z z]

end Sys2Proof.Machine
end

