-- ==== Sys2Proof/Machine/PlanCore.lean ====
section
/-!
DEFINITION. What every Planner command uses: axis sets and their joints, limits and Hedge, the trajectory store's rings, queues,
completions, zones and commits (R208 to R213, R223, R228 to R231, R235 to R237).
-/
namespace Sys2Proof.Machine

/-- Change the Planner. -/
def onPln (d : Dev) (f : PlannerState → PlannerState) : Dev := { d with pln := f d.pln }

/-- Axis set `a`. -/
def armOf (d : Dev) (a : Nat) : ArmPlan := SMap.get {} d.pln.arms a

/-- Change axis set `a`. -/
def onArm (d : Dev) (a : Nat) (f : ArmPlan → ArmPlan) : Dev := onPln d fun p => { p with arms := SMap.modify {} p.arms a f }

/-- The arm model of arm `a`, if loaded. -/
def modelOf (d : Dev) (a : Nat) : Option ArmModel := if a < 16 then SMap.get none d.pln.models a else none

/-- The slots of axis set `a`: its joints in model order, or its own ring (Table 7-1, Table 7-10). -/
def slotsOf (d : Dev) (a : Nat) : List Nat :=
  if a < 16 then (match modelOf d a with
    | some m => m.joints.map (·.jointNo)
    | none => [])
  else if a < 36 then [112 + a]
  else []

/-- The arm whose model names joint `j` (R244). -/
def armOfSlot (d : Dev) (j : Nat) : Option Nat :=
  if j < 128 then (List.range 16).find? fun a => (slotsOf d a).contains j else if j < 148 then some (j - 112) else none

/-- Limit set `i` of axis set `a`. -/
def limitSetOf (d : Dev) (a i : Nat) : Option LimitSet := (SMap.get [] d.pln.limits a)[i]?

/-- A percentage of a value. -/
def pctOf (p : Nat) (x : F64) : F64 := f64Div (f64Mul x (f64Nat p)) (f64Nat 100)

/-- Limits of slot `s` of axis set `a` under a limit set and a SPEED_PCT, in counts: percentages of the arm model's joint limits
(Table 7-9), or VC, AC, DC and JC in counts for a local axis or virtual master. -/
def slotLimits (d : Dev) (a s : Nat) (l : LimitSet) (pct : Nat) : ScalarLimits :=
  match (modelOf d a).bind fun m => m.joints.find? fun j => decide (j.jointNo = s) with
  | some j =>
    let k := f64Abs (f64OfBits j.scale)
    { v := pctOf pct (pctOf l.vPct (f64Mul k (f64OfBits j.vmax))), a := pctOf l.aPct (f64Mul k (f64OfBits j.amax))
      d := pctOf l.dPct (f64Mul k (f64OfBits j.amax)), j := pctOf l.jPct (f64Mul k (f64OfBits j.jmax)) }
  | none => { v := pctOf pct l.vc, a := l.ac, d := l.dc, j := l.jc }

/-- The arm model's own limits of a slot (VMAX, AMAX, JMAX) in counts; of a local axis or virtual master none. -/
def modelLimits (d : Dev) (a s : Nat) : Option (F64 × F64 × F64) :=
  match (modelOf d a).bind fun m => m.joints.find? fun j => decide (j.jointNo = s) with
  | some j =>
    let k := f64Abs (f64OfBits j.scale)
    some (f64Mul k (f64OfBits j.vmax), f64Mul k (f64OfBits j.amax), f64Mul k (f64OfBits j.jmax))
  | none => none

/-- The Hedge limits of slot `s` (R227); a virtual master has none. -/
def hedgeOf (d : Dev) (s : Nat) : Option (Int × Int) :=
  if s < 128 then some (d.rdI .PLN_VLIM_LO_CNT s, d.rdI .PLN_VLIM_HI_CNT s)
  else if s < 144 then some (d.rdI .STP_VLIM_LO_STEPS (s - 128), d.rdI .STP_VLIM_HI_STEPS (s - 128))
  else none

/-- A position lies in the Hedge range of slot `s`. -/
def inHedge (d : Dev) (s : Nat) (p : F64) : Bool :=
  match hedgeOf d s with
  | some (lo, hi) => f64Le (f64OfInt lo) p && f64Le p (f64OfInt hi)
  | none => f64Finite p

/-! The trajectory store. -/

/-- The ring of slot `s`, oldest entry first. -/
def segsOf (d : Dev) (s : Nat) : List Seg := SMap.get [] d.pln.rings s

/-- Frames from `g` to `f`, compared as signed 32-bit differences (R213). -/
def frameDiff (f g : Nat) : Int := signedOf 32 (fieldOf 32 ((f : Int) - g))

/-- Frame `k` after `f`. -/
def frameAdd (f : Nat) (k : Int) : Nat := fieldOf 32 ((f : Int) + k)

/-- The committed segment that covers target frame `f`, the latest written first. -/
def coverOf (d : Dev) (s f : Nat) : Option Seg := (segsOf d s).reverse.find? fun g => segCovers g f

/-- The frame after a segment. -/
def segStop (g : Seg) : Nat := frameAdd g.start g.dur

/-- The reference position a slot holds (R247). -/
def heldPos (d : Dev) (s : Nat) : F64 :=
  if s < 128 then (SMap.get ({} : MilJoint) d.mil.joints s).r else (SMap.get ({} : MilSlot) d.mil.slots (s - 128)).r

/-- The coupling of slot `s`, if any. -/
def coupleOf (d : Dev) (s : Nat) : Option Couple := SMap.get none d.pln.couples s

/-- The planned position of slot `s` at rest: the end of its last segment while the loop engines have not passed it, else what they
hold; of a coupled follower its superposed part. -/
def restPos (d : Dev) (s : Nat) : F64 :=
  match (segsOf d s).getLast? with
  | some g =>
    if (coupleOf d s).isSome then (segEnd d.frameS g).1
    else if frameDiff (segStop g) d.frameNo ≤ 1 then heldPos d s else (segEnd d.frameS g).1
  | none => if (coupleOf d s).isSome then f64Zero else heldPos d s

/-- Target frames covered by committed segments of an axis set, counted from the current frame (R230). -/
def depthOf (d : Dev) (a : Nat) : Nat :=
  match slotsOf d a with
  | [] => 0
  | s :: _ => match (segsOf d s).getLast? with
    | some g => (frameDiff (segStop g) d.frameNo).toNat
    | none => 0

/-- Write a segment at the next entry of slot `s`'s ring of 1,024 (R228). -/
def writeSeg (d : Dev) (s : Nat) (g : Seg) : Dev :=
  let n := SMap.get 0 d.pln.entries s
  let l := segsOf d s ++ [{ g with entry := n % 1024, super := (coupleOf d s).isSome }]
  onPln d fun p => { p with rings := SMap.set [] p.rings s (l.drop (l.length - 1024)), entries := SMap.set 0 p.entries s ((n + 1) % 1024) }

/-- Replace what slot `s`'s ring holds from frame `fs` on. -/
def cutRing (d : Dev) (fs s : Nat) : Dev :=
  onPln d fun p =>
    { p with rings := SMap.modify [] p.rings s fun l => l.filter fun g => decide (frameDiff g.start fs < 0) }

/-- Frames of a tracking command's path that may be committed (R219). -/
def trackDepth (d : Dev) : Nat := 32 + ikFrames d.periodUnits

/-- FRAME of a Cartesian command (Table 7-4): 3 is the tracking frame. -/
def frameOfCmd (c : PlanCmd) : Nat := if c.opcode = 0x13 then bodyAt c.body 0x16 else bodyAt c.body 0x28

/-- A Cartesian command. -/
def isCart (op : Nat) : Bool := decide (op = 0x11 ∨ op = 0x12 ∨ op = 0x13)

/-- A move. -/
def isMove (op : Nat) : Bool := decide (op = 0x10) || isCart op

/-- A command in the tracking frame. -/
def tracks (c : PlanCmd) : Bool := isCart c.opcode && decide (frameOfCmd c = 3)

/-- Write the segments of a running command for which `due` holds into the store; END_FRAME is known once the last segment is written
(R236), or where the next command takes over. -/
def writeDue (d : Dev) (r : Run) (due : Seg → Bool) : Dev × Run :=
  let mine := fun (g : Seg) => decide (r.written ≤ g.start) && due g && (match r.till with
    | some b => decide (g.start < b)
    | none => true)
  let upto := match r.plan.segs with
    | [] => r.plan.len
    | q :: _ => (q.2.filter mine).foldl (fun m g => max m (g.start + g.dur)) r.written
  (d.each r.plan.segs fun d q => d.each (q.2.filter mine) fun d g => writeSeg d q.1 { g with start := frameAdd r.zero g.start },
    { r with written := upto
             fin := match r.till with
               | some b => some (frameAdd r.zero b)
               | none => if r.plan.len ≤ upto then some (frameAdd r.zero r.plan.len) else none })

/-- Write the next segments of a running command, up to the depth it keeps (R230): those that begin within RESERVE and a segment's length
after frame `fs`, or that end within 32 + K_IK frames of now for a tracking command (R219). -/
def feedRun (d : Dev) (r : Run) (fs : Nat) : Dev × Run :=
  let from' : Int := max 0 (frameDiff fs d.frameNo)
  writeDue d r fun g =>
    if tracks r.cmd then decide (frameDiff (frameAdd r.zero (g.start + g.dur)) d.frameNo ≤ trackDepth d)
    else decide (frameDiff (frameAdd r.zero g.start) d.frameNo < from' + d.rd .PLN_CFG_RESERVE + 256)

/-- Write every segment of a running command that begins before frame `fs`. -/
def feedUntil (d : Dev) (r : Run) (fs : Nat) : Dev × Run := writeDue d r fun g => decide (frameDiff (frameAdd r.zero g.start) fs < 0)

/-! Zones. -/

/-- ZONE_REQ and ZONE_REL of a command (Table 7-3). -/
def zoneReq (c : PlanCmd) : Nat := body32 c.body 4
/-- ZONE_REL. -/
def zoneRel (c : PlanCmd) : Nat := body32 c.body 8

/-- Zones axis set `a` holds, as a mask. -/
def zonesHeld (d : Dev) (a : Nat) : Nat :=
  (List.range 32).foldl (fun m z => if d.rd .PLN_ZONE_OWNER z = a then m + 2 ^ z else m) 0

/-- Zones a command of axis set `a` needs and the axis set does not hold. -/
def zonesMissing (d : Dev) (a : Nat) (c : PlanCmd) : Nat :=
  (List.range 32).foldl (fun m z => if (zoneReq c).testBit z ∧ d.rd .PLN_ZONE_OWNER z ≠ a then m + 2 ^ z else m) 0

/-- SYNC, with the tag and COUNT of a command (Table 7-3); a COUNT outside 2 to 16 asks for no partners. -/
def syncOf (c : PlanCmd) : Option (Nat × Nat) :=
  let n := bodyAt c.body 0xE % 32
  if (bodyAt c.body 3).testBit 6 ∧ 2 ≤ n ∧ n ≤ 16 then some (body16 c.body 0xC, n) else none

/-- AT_FRAME. -/
def atFrame (c : PlanCmd) : Bool := (bodyAt c.body 3).testBit 5

/-- The command of an axis set that waits for zones (R235). -/
def waiting (d : Dev) (a : Nat) : Option PlanCmd :=
  match (armOf d a).run, (armOf d a).queue with
  | none, c :: _ => if c.zoneSince.isSome ∧ !c.granted then some c else none
  | _, _ => none

/-- The axis sets that hold a zone axis set `a` would wait for. -/
def waitsFor (d : Dev) (a : Nat) (c : PlanCmd) : List Nat :=
  (List.range 32).filterMap fun z =>
    if (zonesMissing d a c).testBit z ∧ d.rd .PLN_ZONE_OWNER z ≠ 0x3F then some (d.rd .PLN_ZONE_OWNER z) else none

/-- Axis set `t` is reached from those in `xs` by waits, in `fuel` steps (R235). -/
def reaches (d : Dev) (t : Nat) : Nat → List Nat → Bool
  | 0, _ => false
  | k + 1, xs =>
    xs.contains t || (let ys := xs.flatMap fun x => match waiting d x with
        | some c => waitsFor d x c
        | none => []
      !ys.isEmpty && reaches d t k ys.dedup)

/-! Views (Table 7-14, Table 7-15). -/

/-- STATE of an axis set. -/
def stateOf (d : Dev) (a : Nat) : Nat :=
  let x := armOf d a
  let coupled := (slotsOf d a).any fun s => (coupleOf d s).isSome
  match x.run with
  | some r => match r.mode with
    | .moving => 1
    | .stopping code => if code = 3 then 6 else 5
    | .holding => 5
    | .held => 2
    | .coupling => 8
  | none =>
    match x.queue with
    | c :: _ =>
      if c.zoneSince.isSome ∧ !c.granted then 3
      else if (syncOf c).isSome ∧ !c.synced then 4
      else if coupled then 8 else if x.drained then 6 else 0
    | [] => if x.safety then 7 else if x.drained then 6 else if coupled then 8 else 0

/-- The registers that show axis set `a`. -/
def showArm (d : Dev) (a : Nat) : Dev :=
  let x := armOf d a
  let d := (d.wr .PLN_ARM_STAT_STATE a (stateOf d a)).wrSat .PLN_ARM_STAT_QUEUED a x.queue.length
  let d := d.wr .PLN_ARM_STAT_CAPPED a (bitOf (SMap.get none d.pln.caps a).isSome)
  let mask := ((slotsOf d a).zipIdx.filter fun p => (coupleOf d p.1).isSome).foldl (fun m p => m + 2 ^ p.2) 0
  let d := (d.wr .PLN_ARM_STAT_COUPLED a mask).wr .PLN_ARM_ZONES_HELD a (zonesHeld d a)
  let d := d.wr .PLN_ARM_ZWAIT_REQ a (match waiting d a with
    | some c => zonesMissing d a c
    | none => 0)
  d.wrSat .PLN_ARM_DEPTH_FRAMES a (depthOf d a)

/-- Every axis set and zone is shown. -/
def showPlan (d : Dev) : Dev :=
  let d := d.each (List.range 36) showArm
  d.each (List.range 32) fun d z =>
    d.wrSat .PLN_ZONE_WAITERS z ((List.range 16).filter fun a => match waiting d a with
      | some c => (zonesMissing d a c).testBit z
      | none => false).length

/-! Queues and completions. -/

/-- Result codes of Table 7-12. -/
inductive PlanResult where
  | ok | aborted | safetyStop | drained | ikFail | hedgeLimit | zoneViolation | zoneDeadlock | zoneTimeout | tooLate
  | pathTooLong | notAtRest | camNotAtDwell | camMismatch | notHeld | tableInUse | tableBad | cancelled
  deriving DecidableEq, Repr

/-- Code of a result. -/
def PlanResult.code : PlanResult → Nat
  | .ok => 0x00
  | .aborted => 0x01
  | .safetyStop => 0x02
  | .drained => 0x03
  | .ikFail => 0x04
  | .hedgeLimit => 0x05
  | .zoneViolation => 0x06
  | .zoneDeadlock => 0x07
  | .zoneTimeout => 0x08
  | .tooLate => 0x09
  | .pathTooLong => 0x0A
  | .notAtRest => 0x0B
  | .camNotAtDwell => 0x0C
  | .camMismatch => 0x0D
  | .notHeld => 0x0E
  | .tableInUse => 0x0F
  | .tableBad => 0x10
  | .cancelled => 0x11

/-- A command ends without motion with a result. -/
def endCmd (d : Dev) (c : PlanCmd) (r : PlanResult) : Dev := complete d c.sq c.rsn { status := 0, result := r.code }

/-- A running command ends: START_FRAME, END_FRAME and P of its completion (Table 7-7 of R433). Result flags accompany codes 0 to 3. -/
def endRun (d : Dev) (r : Run) (code fin : Nat) : Dev :=
  complete d r.cmd.sq r.cmd.rsn
    { status := 0, result := if code ≤ 3 then code + r.flags else code, start := r.start, fin := fin, data := bytesLE 4 r.points }

/-- What happens when a command reaches the head of its queue (R213, R235): its request for zones begins, or is refused if it would
close a cycle of waits; the next command then follows. -/
def headReached (d : Dev) (a : Nat) : Nat → Dev
  | 0 => d
  | fuel + 1 =>
    match (armOf d a).run, (armOf d a).queue with
    | none, c :: rest =>
      if c.headAt.isSome then d
      else
        let c := { c with headAt := some d.frameNo }
        if zonesMissing d a c = 0 then onArm d a fun x => { x with queue := { c with granted := true } :: rest }
        else if reaches d a 17 (waitsFor d a c) then
          headReached (endCmd (onArm d a fun x => { x with queue := rest }) c .zoneDeadlock) a fuel
        else onArm d a fun x => { x with queue := { c with zoneSince := some d.tb.ext } :: rest }
    | _, _ => d

/-- A command's key: its queue and RSN. -/
def PlanCmd.key (c : PlanCmd) : Nat × Nat := (c.sq, c.rsn)

/-- The head command leaves its queue with a result, and the next one follows. -/
def failHead (d : Dev) (a : Nat) (r : PlanResult) : Dev :=
  match (armOf d a).queue with
  | c :: rest =>
    let d := onPln d fun p => { p with staged := p.staged.filter fun k => !k.parts.any fun q => decide (q.run.cmd.key = c.key) }
    showPlan (headReached (endCmd (onArm d a fun x => { x with queue := rest }) c r) a 33)
  | [] => d

/-- A MOTION command enters its axis set's queue (R211); it carries NO_BLEND if the move before it found nothing to blend into (R222). -/
def enqueuePlan (d : Dev) (a sq rsn op : Nat) (body : List Byte) : Dev :=
  let c : PlanCmd :=
    { sq := sq, rsn := rsn, opcode := op, body := body, pct := bodyAt body 2, limset := bodyAt body 1 % 16, order := d.pln.order
      admitAt := d.tb.ext, noBlend := (armOf d a).missed }
  let d := onPln d fun p => { p with order := p.order + 1 }
  showPlan (headReached (onArm d a fun x => { x with queue := x.queue ++ [c], missed := false }) a 33)

/-- Zones that a grant of axis set `b` took while they were free are free again (R237). -/
def giveBack (d : Dev) (b : Nat) (c : PlanCmd) : Dev :=
  d.each ((List.range 32).filter fun z => c.took.testBit z) fun d z =>
    if d.rd .PLN_ZONE_OWNER z = b then d.wr .PLN_ZONE_OWNER z 0x3F else d

/-- Commits that start or blend a command of axis set `a` are dropped: its queue is planned again. -/
def unplan (d : Dev) (a : Nat) : Dev :=
  onPln d fun p => { p with staged := p.staged.filter fun k => !k.parts.any fun s => decide (s.axset = a ∧ s.kind ≠ .splice) }

/-- Flush an axis set's queue with a result (R232); commits of what is flushed are dropped, and zones granted to it are free again (R243). -/
def flushQueue (d : Dev) (a : Nat) (r : PlanResult) : Dev :=
  let q := (armOf d a).queue
  (onArm (unplan d a) a fun x => { x with queue := [] }).each q fun d c => endCmd (giveBack d a c) c r

/-! Lane decisions the Planner follows. -/

/-- A stop function is active for unit `u` in the DECISION of at least two lanes in service (R232, Table 3-2). -/
def stopActive (d : Dev) (u : Nat) : Bool :=
  decide (2 ≤ ((servingLanes d).filter fun l => decide (2 ≤ (unitDyn (laneOf d l).saf u).func)).length)

/-- The unit of an axis set: an arm or a local axis; a virtual master has none. -/
def unitOfSet (a : Nat) : Option Nat := if a < 32 then some a else none

/-- A stop function is active for axis set `a`. -/
def setStopped (d : Dev) (a : Nat) : Bool :=
  match unitOfSet a with
  | some u => stopActive d u
  | none => false

/-- The speed caps the lanes pass for axis set `a` (R126, R226, R299): SLS_CAP_PCT of both SLS limits in force as they move, their target
while tightening is in force, and V_RED while reduction is voted; the lowest governs. SLS sets and reduction are an arm's: no rule has
the lanes pass a cap for a local axis. -/
def capOf (d : Dev) (a : Nat) : Option SpeedCap :=
  if 16 ≤ a then none
  else
    let x := laneOf d d.firstLane
    let c := x.image.params
    let ac := armCfg c a
    let lim := slsSet ac (unitDyn x.saf a).slsSet
    let k := tightFactor c x.saf (rampFrames d c)
    let now := fun (unit : Nat) => unit * ac.slsCapPct * k.1 / (100 * k.2)
    let goal := fun (unit : Nat) => unit * c.degSpeedPct / 100
    let both := fun (unit : Nat) => if x.saf.tight then min (now unit) (goal unit) else now unit
    let sls := if lim.1 = 0 then [] else [both (1000 * lim.1)]
    let red := if (armSep x.saf a).capped then [1000 * ac.vRed] else []
    let joints := if lim.2 = 0 then [] else (slotsOf d a).map fun j => (j, both (lim.2 * (jointCfg c j).vMax) / 100)
    if lim = (0, 0) ∧ red = [] then none else some { tcp := (sls ++ red).min?, joints := joints }

/-! Commits (R223). -/

/-- The earliest splice frame a commit that arrives now may name. -/
def earliest (d : Dev) : Nat := frameAdd d.frameNo (if d.offset < 8000 then 2 else 3)

/-- Stage a commit; an axis set's earlier commit that has not reached the store is replaced. -/
def stage (d : Dev) (c : Commit) : Dev :=
  onPln d fun p =>
    { p with staged := (p.staged.filter fun k => !k.parts.any fun q => c.parts.any fun s => decide (s.axset = q.axset)) ++ [c] }

/-- A splice of axis set `a` that has not reached the store yet. -/
def stagedSplice (d : Dev) (a : Nat) : Option CommitPart :=
  (d.pln.staged.flatMap (·.parts)).find? fun q => decide (q.axset = a ∧ q.kind = .splice)

/-- An earlier frame or a later one: the later. -/
def laterFrame (f g : Nat) : Nat := if frameDiff f g < 0 then g else f

/-- STOP_FR of a set of end states (R231): the smallest drain stop of every slot together that keeps deceleration and jerk within stop set
15, ending inside the Hedge. The speed to which an acceleration at the segment's end still carries a drain stop grows with its time, so
that no longer stop would keep it lower (log 116). -/
def stopFr (d : Dev) (a : Nat) (ends : List (Nat × (F64 × F64 × F64))) : Option Nat :=
  match limitSetOf d a 15 with
  | none => none
  | some l =>
    let t := fun (n : Nat) => f64Mul (f64Nat n) d.frameS
    let es := ends.map fun e => (e, slotLimits d a e.1 l 100)
    match leastStop (fun n => es.all fun e => drainWithin e.2.d e.2.j e.1.2.2.1 e.1.2.2.2 (t n)) 17 1 65535 with
    | some n => if es.all fun e => inHedge d e.1.1 (f64Add e.1.2.1 (drainDistance e.1.2.2.1 e.1.2.2.2 (t n))) then some n else none
    | none => none

/-- Give every segment of a plan its STOP_FR; none if a drain stop would end outside the Hedge. -/
def withStops (d : Dev) (a : Nat) (segs : List (Nat × List Seg)) : Option (List (Nat × List Seg)) :=
  let n := match segs with
    | [] => 0
    | q :: _ => q.2.length
  let stops := (List.range n).map fun i =>
    stopFr d a (segs.filterMap fun q => q.2[i]?.map fun g => (q.1, segEnd d.frameS g))
  if stops.all (·.isSome) then
    some (segs.map fun q => (q.1, (q.2.zip stops).map fun p => { p.1 with stopFr := p.2.getD 1 }))
  else none

/-- Drop what is staged for axis set `a`. -/
def unstage (d : Dev) (a : Nat) : Dev :=
  onPln d fun p => { p with staged := p.staged.filter fun k => !k.parts.any fun s => decide (s.axset = a) }

/-- Withdraw the grants that wait for axis set `a` to release zones (R237): the grantees' segments from `fs` on go, and they wait
again. -/
def withdrawGrants (d : Dev) (a fs : Nat) (rel : Nat) : Dev :=
  d.each (List.range 16) fun d b =>
    let x := armOf d b
    let hit := fun (c : PlanCmd) => b ≠ a ∧ c.granted ∧ zonesMissing d b c &&& rel ≠ 0
    let again := fun (c : PlanCmd) => { c with granted := false, startAt := none, took := 0 }
    match x.run, x.queue with
    | some r, q =>
      if hit r.cmd then
        let d := d.each (slotsOf d b) fun d s => cutRing d fs s
        onArm (giveBack d b r.cmd) b fun x => { x with run := none, queue := again r.cmd :: q }
      else d
    | none, c :: q => if hit c then onArm (giveBack (unstage d b) b c) b fun x => { x with queue := again c :: q } else d
    | none, [] => d

/-- Release zones of axis set `a` (R236): a granted command takes the zone it requested, else it is free. -/
def releaseZones (d : Dev) (a mask : Nat) : Dev :=
  d.each (List.range 32) fun d z =>
    if mask.testBit z ∧ d.rd .PLN_ZONE_OWNER z = a then
      let takes := (List.range 16).find? fun b =>
        let c := match (armOf d b).run with
          | some r => some r.cmd
          | none => (armOf d b).queue.head?
        match c with
        | some c => decide (b ≠ a) && c.granted && (zoneReq c).testBit z
        | none => false
      d.wr .PLN_ZONE_OWNER z (takes.getD 0x3F)
    else d

/-- The frame at which the holder of zone `z` releases it, once its last segment is written (R236); `some none`: it is free. -/
def zoneFree (d : Dev) (z : Nat) : Option (Option Nat) :=
  let o := d.rd .PLN_ZONE_OWNER z
  if o = 0x3F then some none
  else match (armOf d o).run with
    | some r => if r.mode = .moving ∧ (zoneRel r.cmd).testBit z then r.fin.map some else none
    | none => none

/-- The zones arm `a` waits for may be granted now: no earlier request names one of them, none is promised to another arm, and each is
free or its release is known (R235, R236). With the earliest frame the grantee may start at, if a release sets one. -/
def grantable (d : Dev) (a : Nat) (c : PlanCmd) : Option (Option Nat) :=
  let miss := zonesMissing d a c
  let others := (List.range 16).filter fun b => decide (b ≠ a)
  let earlier := others.any fun b => match waiting d b with
    | some e => decide (e.order < c.order) && decide (zoneReq e &&& zoneReq c ≠ 0)
    | none => false
  let promised := others.any fun b =>
    let e := match (armOf d b).run with
      | some r => some r.cmd
      | none => (armOf d b).queue.head?
    match e with
    | some e => e.granted && decide (zonesMissing d b e &&& miss ≠ 0)
    | none => false
  let frees := ((List.range 32).filter fun z => miss.testBit z).map (zoneFree d)
  let ends := frees.filterMap fun f => f.bind id
  let gap := d.rd .PLN_CFG_ZONE_GAP
  let after := ends.foldl (fun m f => match m with
    | none => some (frameAdd f gap)
    | some g => some (laterFrame g (frameAdd f gap))) (none : Option Nat)
  let fits : Bool := match after, atFrame c with
    | some f, true => decide (0 ≤ frameDiff (body32 c.body 0xC) f)
    | _, _ => true
  if earlier ∨ promised ∨ frees.any (·.isNone) ∨ !fits then none else some after

/-- The zones arm `a` waits for are granted, all at once (R235): free ones are its own from now on; what is staged for it starts no earlier
than ZONE_GAP after the release it waits for, nor before the earliest frame (R236). -/
def grantZones (d : Dev) (a : Nat) : Dev :=
  match waiting d a with
  | none => d
  | some c => match grantable d a c with
    | none => d
    | some after =>
      let miss := zonesMissing d a c
      let free := (List.range 32).filter fun z => miss.testBit z && decide (d.rd .PLN_ZONE_OWNER z = 0x3F)
      let d := d.each free fun d z => d.wr .PLN_ZONE_OWNER z a
      let d := onArm d a fun x => { x with queue := match x.queue with
        | q :: rest =>
          { q with granted := true, took := free.foldl (fun m z => m + 2 ^ z) 0, startAt := if atFrame q then q.startAt else after } :: rest
        | [] => [] }
      let e := earliest d
      let start := match after with
        | some f => laterFrame f e
        | none => e
      onPln d fun p => { p with staged := p.staged.map fun k =>
        if k.fixed ∨ !k.parts.any (fun q => decide (q.axset = a ∧ q.kind = .start)) then k else { k with fs := laterFrame k.fs start } }

/-- The blending command of an axis set has begun by frame `f`. -/
def blendBegun (x : ArmPlan) (f : Nat) : Bool :=
  match x.run, x.next with
  | some r, some n => r.till.isSome && decide (0 ≤ frameDiff f n.zero)
  | _, _ => false

/-- An accepted share of a commit takes effect from its splice frame on. A command that the splice puts back into the queue, ends, or lets
blend on follows what the share says. -/
def applyPart (d : Dev) (fs : Nat) (p : CommitPart) : Dev :=
  let a := p.axset
  let x := armOf d a
  let d := d.each p.couples fun d q =>
    let d := onPln d fun s => { s with couples := SMap.set none s.couples q.1 (q.2.map fun c => { c with start := fs }) }
    match q.2 with
    | some c => if c.phase = .waiting ∧ (coupleOf d q.1).isSome then onPln d fun s => { s with rings := SMap.set [] s.rings q.1 [] } else d
    | none => d
  let cut := fun (d : Dev) => d.each (p.run.plan.segs.map Prod.fst) fun d s => cutRing d fs s
  match p.kind with
  | .start =>
    let (d, r) := feedRun (cut d) { p.run with start := fs, zero := fs } fs
    onArm d a fun x => { x with run := some r, queue := x.queue.drop 1, drained := false }
  | .blend =>
    let (d, q) := match x.run with
      | some q => let (d, q) := feedUntil d { q with till := some (frameDiff fs q.zero).toNat } fs; (d, some q)
      | none => (d, none)
    let (d, r) := feedRun (cut d) { p.run with start := fs, zero := fs } fs
    onArm d a fun x => { x with next := some r, queue := x.queue.drop 1, run := q }
  | .splice =>
    let passes := match x.run with
      | some r => match r.fin with
        | some f => decide (frameDiff fs f ≤ 0)
        | none => true
      | none => false
    let d := cut d
    let d := if passes then withdrawGrants d a fs (match x.run with
        | some r => zoneRel r.cmd
        | none => 0) else d
    let (d, r) := feedRun d p.run fs
    let (d, n) := match p.next with
      | some n => if r.till.isSome then (let (d, n) := feedRun d n fs; (d, some n)) else (d, some n)
      | none => (d, none)
    let inNext := x.next.any fun n => decide (n.cmd.key = p.run.cmd.key)
    let d := if inNext then onArm d a fun x => { x with next := some r }
      else onArm d a fun x => { x with run := some r, next := n }
    match p.drop with
    | some q => complete d q.1.sq q.1.rsn { status := 0, result := q.2 }
    | none => d

/-- The completions an accepted share answers: OVERRIDE and STOP_ARM report f_s as START_FRAME (Table 14-7). -/
def answerPart (d : Dev) (fs : Nat) (p : CommitPart) : Dev :=
  d.each p.answer fun d q => complete d q.1 q.2 { status := 0, result := 0, start := fs }

/-- A commit that names too early a splice frame is refused (R223): it is planned again for a later one, unless its start frame is
fixed, when its commands end TOO_LATE; a tracking command and a splice are planned again by their own commands. -/
def refuseCommit (d : Dev) (c : Commit) : Dev :=
  let d := d.flag .PLN_STATUS_COMMIT_LATE
  if c.parts.all fun p => decide (p.kind = .start) then
    if c.fixed then d.each c.parts fun d p => failHead d p.axset .tooLate
    else if c.parts.any fun p => p.run.track.isSome then d
    else onPln d fun p => { p with staged := { c with fs := earliest d } :: p.staged }
  else d

/-- The commit can go to the store: every command of its SYNC group is planned (R213), and a command that starts has its zones (R235). -/
def commitReady (d : Dev) (c : Commit) : Bool :=
  (match c.group with
    | some g => decide (g.2 ≤ c.parts.length)
    | none => true) &&
  c.parts.all fun p => match (armOf d p.axset).queue with
    | q :: _ => p.kind ≠ .start || decide (q.key ≠ p.run.cmd.key) || q.granted || decide (zonesMissing d p.axset q = 0)
    | [] => true

/-- A commit takes effect: every share at the same splice frame. -/
def applyCommit (d : Dev) (c : Commit) : Dev :=
  let d := onPln d fun p => { p with staged := p.staged.filter fun k => decide (k ≠ c) }
  (d.each c.parts fun d p => applyPart d c.fs p).each c.parts fun d p => answerPart d c.fs p

/-- Moving axis sets whose depth falls below 32 frames (R230): an episode sets the flags and writes one event. -/
def storeLow (d : Dev) : Dev :=
  d.each (List.range 36) fun d a =>
    let moves : Bool := match (armOf d a).run with
      | some r => decide (r.mode ≠ .held ∧ r.mode ≠ .coupling ∧ 0 ≤ frameDiff d.frameNo r.zero) && !r.plan.segs.isEmpty
      | none => false
    let low := moves && decide (depthOf d a < 32)
    let d := if low ∧ !(armOf d a).low then
        ((d.flag .PLN_ARM_STAT_STORE_LOW a).flag .PLN_STATUS_STORE_LOW).event .STORE_LOW srcPlanner a
      else d
    if low = (armOf d a).low then d else onArm d a fun x => { x with low := low }

/-- Once a release is known, the arms that wait for it are granted their zones, and what is staged for them goes into the same commit
(R236). -/
def grantWaiting (d : Dev) : Dev :=
  d.each (List.range 16) fun d a =>
    if (waiting d a).isNone then d
    else
      let d := grantZones d a
      if (waiting d a).isSome then d
      else match d.pln.staged.find? fun k => decide (k.group = none) && k.parts.any fun q => decide (q.axset = a ∧ q.kind = .start) with
        | some k => if frameDiff k.fs (earliest d) < 0 then d else applyCommit d k
        | none => d

/-- PLANNER_COMMIT: the first commit that is ready reaches the store; with none, running commands feed their next segments. Zones whose
release it makes known are granted in the same commit (R223, R230, R236). -/
def execPlannerCommit (s : State) : Host.Outcome State Fault Refusal :=
  s.run fun d =>
    let d := match d.pln.staged.find? (commitReady d) with
      | some c => if frameDiff c.fs (earliest d) < 0 then
          refuseCommit (onPln d fun p => { p with staged := p.staged.filter fun k => decide (k ≠ c) }) c
        else applyCommit d c
      | none =>
        d.each (List.range 36) fun d a =>
          let feeds := fun (r : Run) => decide (r.mode ≠ .held ∧ r.mode ≠ .coupling)
          let d := match (armOf d a).run with
            | some r => if feeds r then let (d, r) := feedRun d r d.frameNo; onArm d a fun x => { x with run := some r } else d
            | none => d
          match (armOf d a).run, (armOf d a).next with
          | some r, some n => if feeds r ∧ feeds n ∧ r.till.isSome then
              let (d, n) := feedRun d n d.frameNo; onArm d a fun x => { x with next := some n } else d
          | _, _ => d
    showPlan (storeLow (grantWaiting d))

end Sys2Proof.Machine
end

