-- ==== Sys2Proof/Machine/PlanIk.lean ====
section
/-!
DEFINITION. Kinematics of the Planner (R216, R217): joint frames, the Jacobian, the solver of inverse kinematics, and joint states along a
path of poses.
-/
namespace Sys2Proof.Machine

/-! Linear algebra on lists. -/

/-- Sum of products. -/
def dotL (x y : List F64) : F64 := f64Sum (List.zipWith f64Mul x y)

/-- Sum of two vectors. -/
def addL (x y : List F64) : List F64 := List.zipWith f64Add x y

/-- A vector times a factor. -/
def scaleL (k : F64) (x : List F64) : List F64 := x.map (f64Mul k)

/-- Gram matrix of vectors, with `damp` on its diagonal. -/
def gramL (xs : List (List F64)) (damp : F64) : List (List F64) :=
  xs.zipIdx.map fun p => xs.zipIdx.map fun q => if p.2 = q.2 then f64Add (dotL p.1 q.1) damp else dotL p.1 q.1

/-- Rows and columns exchanged, for vectors of `n` entries. -/
def transposeL (n : Nat) (xs : List (List F64)) : List (List F64) := (List.range n).map fun i => xs.map fun x => x.getD i f64Zero

/-- What one elimination step leaves of a row below the pivot row `p`. -/
def eliminate (p r : List F64) : List F64 :=
  let k := f64Div (r.headD f64Zero) (p.headD f64Zero)
  List.zipWith (fun x y => f64Sub x (f64Mul k y)) r.tail p.tail

/-- Solution of linear equations given as rows with the right side last, of a positive definite matrix, by elimination. -/
def solveRows : Nat → List (List F64) → List F64
  | n + 1, p :: rest =>
    let xs := solveRows n (rest.map (eliminate p))
    let b := p.getLastD f64Zero
    f64Div (f64Sub b (dotL p.tail.dropLast xs)) (p.headD f64Zero) :: xs
  | _, _ => []

/-- Every pivot of a symmetric matrix is positive: the matrix is positive definite. -/
def pivotsPositive : Nat → List (List F64) → Bool
  | n + 1, p :: rest => f64Lt f64Zero (p.headD f64Zero) && pivotsPositive n (rest.map (eliminate p))
  | _, _ => true

/-- The joint rates nearest to a twist `e` of six entries for Jacobian columns `cols`, damped by the square `damp`: least squares, and the
shortest of all solutions where there are more joints than six. -/
def leastSquares (damp : F64) (cols : List (List F64)) (e : List F64) : List F64 :=
  let solve := fun (rows : List (List F64)) (b : List F64) => solveRows rows.length (List.zipWith (fun r x => r ++ [x]) rows b)
  if cols.length ≤ 6 then solve (gramL cols damp) (cols.map fun c => dotL c e)
  else
    let rows := transposeL 6 cols
    let y := solve (gramL rows damp) e
    cols.map fun c => dotL c y

/-- The twist of joint rates. -/
def twistOf (cols : List (List F64)) (q : List F64) : List F64 := (transposeL 6 cols).map fun r => dotL r q

/-- The part of joint rates that moves no pose: the spare freedom. -/
def spare (cols : List (List F64)) (q : List F64) : List F64 :=
  List.zipWith f64Sub q (leastSquares f64Zero cols (twistOf cols q))

/-- The smallest singular value of a Jacobian is not below 10^-4 (R217). -/
def regular (cols : List (List F64)) : Bool :=
  let xs := if cols.length ≤ 6 then cols else transposeL 6 cols
  pivotsPositive xs.length (gramL xs (f64Neg (f64Frac 1 100000000)))

/-! Arms. -/

/-- Joint values of arm `a`, in model order, from positions in counts. -/
def jointValues (m : ArmModel) (ps : List (Nat × F64)) : List F64 :=
  m.joints.map fun j => jointValue j (match ps.find? fun p => decide (p.1 = j.jointNo) with
    | some p => p.2
    | none => f64Zero)

/-- Counts of joint values, or of their rates. -/
def jointCounts (m : ArmModel) (qs : List F64) : List F64 := List.zipWith (fun j q => f64Mul q (f64OfBits j.scale)) m.joints qs

/-- The TCP of an arm (Table 7-8). -/
def tcpFrame (m : ArmModel) (qs : List F64) : Frame3 :=
  match (armFrames m qs).getLast? with
  | some f => frameMul f (frameOfWords m.tool)
  | none => frameOfWords m.tool

/-- The TCP and every joint-frame origin. -/
def armPoints (m : ArmModel) (qs : List F64) : List P3 :=
  ((armFrames m qs).drop 1).map (fun f => f.t) ++ [(tcpFrame m qs).t]

/-- Three entries. -/
def listP3 (v : P3) : List F64 := [v.x, v.y, v.z]

/-- What a unit rate of each joint gives a point: its velocity and, in rad, its turn (the columns of a Jacobian). -/
def pointColumns (m : ArmModel) (qs : List F64) (p : P3) : List (List F64) :=
  (m.joints.zip ((armFrames m qs).drop 1)).map fun x =>
    let z := colOf x.2 2
    if x.1.prismatic then listP3 z ++ [f64Zero, f64Zero, f64Zero] else listP3 (p3Cross z (p3Sub p x.2.t)) ++ listP3 z

/-- The Jacobian of the TCP, by columns. -/
def jacobian (m : ArmModel) (qs : List F64) : List (List F64) := pointColumns m qs (tcpFrame m qs).t

/-- Greatest speed of the TCP and of every joint-frame origin at joint values and rates (R226); the origin of joint i moves with the joints
up to i. -/
def armSpeed (m : ArmModel) (qs rates : List F64) : F64 :=
  let n := m.joints.length
  (armPoints m qs).zipIdx.foldl (fun b p =>
    let v := twistOf (pointColumns m qs p.1) (rates.zipIdx.map fun r => if r.2 ≤ p.2 ∨ p.2 = n then r.1 else f64Zero)
    f64Max b (f64Sqrt (f64Sum ((v.take 3).map fun x => f64Mul x x)))) f64Zero

/-- Angle between two orientations, rad. -/
def angleOf (x y : Frame3) : F64 := p3Norm (turnVector x y)

/-- A pose within the solver's tolerance of another (R217): 0.01 mm and 0.1 mrad. -/
def nearPose (x y : Frame3) : Bool :=
  f64Le (p3Norm (p3Sub x.t y.t)) (f64Frac 1 100) && f64Le (angleOf x y) (f64Frac 1 10000)

/-- A vector of a frame in the frame outside it. -/
def outward (f : Frame3) (v : P3) : P3 := framePoint (frameAt f ⟨f64Zero, f64Zero, f64Zero⟩) v

/-- What takes one pose to another: a displacement and a turn. -/
def poseError (x y : Frame3) : List F64 := listP3 (p3Sub y.t x.t) ++ listP3 (outward x (turnVector x y))

/-- The way of every joint to the middle of its Hedge range, in joint values (R217). -/
def toMiddle (d : Dev) (m : ArmModel) (qs : List F64) : List F64 :=
  List.zipWith (fun j q => match hedgeOf d j.jointNo with
    | some (lo, hi) => f64Sub (jointValue j (f64OfRatio (lo + hi) 2)) q
    | none => f64Zero) m.joints qs

/-- One iteration towards a pose: damped least squares, with the spare freedom towards the middle of the Hedge ranges where there are more
joints than the path's six degrees of freedom. -/
def ikStep (d : Dev) (m : ArmModel) (damp : F64) (goal : Frame3) (qs : List F64) : List F64 :=
  let cols := jacobian m qs
  let q := addL qs (leastSquares damp cols (poseError (tcpFrame m qs) goal))
  if cols.length ≤ 6 then q else addL q (spare cols (scaleL (f64OfBits Config.ikCentring) (toMiddle d m qs)))

/-- Up to `k` iterations, stopping at the tolerance; none if it is not reached. -/
def ikNumerical (d : Dev) (m : ArmModel) (damp : F64) (goal : Frame3) : Nat → List F64 → Option (List F64)
  | 0, qs => if nearPose (tcpFrame m qs) goal then some qs else none
  | k + 1, qs => if nearPose (tcpFrame m qs) goal then some qs else ikNumerical d m damp goal k (ikStep d m damp goal qs)

/-- `k` iterations without damping, which run into the exact solution on the branch of their start. -/
def ikExact (d : Dev) (m : ArmModel) (goal : Frame3) : Nat → List F64 → List F64
  | 0, qs => qs
  | k + 1, qs => ikExact d m goal k (ikStep d m f64Zero goal qs)

/-- The solution branch of joint values (R217). -/
def branchOf (m : ArmModel) (qs : List F64) : Nat :=
  Config.ikBranch m.ikKind (m.joints.flatMap fun j => [j.a, j.alpha, j.dOff, j.theta]) (qs.map f64ToBits)

/-- The solution of a pose from the previous IK point (R217): by IK_KIND; none if there is none within the tolerance, or the Jacobian is
singular there. -/
def ikSolve (d : Dev) (m : ArmModel) (goal : Frame3) (qs : List F64) : Option (List F64) :=
  let damp := f64OfBits Config.ikDamping
  let x := if m.ikKind = 0 then ikNumerical d m (f64Mul damp damp) goal 8 qs
    else
      let q := ikExact d m goal 32 qs
      if nearPose (tcpFrame m q) goal then some q else none
  match x with
  | some q => if regular (jacobian m q) then some q else none
  | none => none

/-! Joint states along a path (R216). -/

/-- A pose of a path with its velocity and turning rate per frame, in the cell frame. -/
structure PathPoint where
  pose : Frame3
  lin : P3
  rot : P3

/-- Solutions at node frames after a start, each seeded with the one before. -/
def ikChain (d : Dev) (m : ArmModel) (path : Nat → PathPoint) : List Nat → List F64 → Option (List (Nat × List F64))
  | [], _ => some []
  | n :: ns, q => match ikSolve d m (path n).pose q with
    | none => none
    | some q' => (ikChain d m path ns q').map ((n, q') :: ·)

/-- Every element that has two neighbours, with them. -/
def inner {α β : Type} (f : α → α → α → β) : List α → List β
  | x :: y :: z :: rest => f x y z :: inner f (y :: z :: rest)
  | _ => []

/-- The mean rate of change of vectors between two nodes, per frame. -/
def rateL (x y : Nat × List F64) : List F64 := scaleL (f64Frac 1 (y.1 - x.1)) (List.zipWith f64Sub y.2 x.2)

/-- Joint states per slot at node frames: counts, counts/s and counts/s². -/
abbrev JointPath := List (Nat × List (Nat × (F64 × F64 × F64)))

/-- Joint values, rates and accelerations per frame of an arm as states of its slots. -/
def slotStates (m : ArmModel) (tf : F64) (q v a : List F64) : List (Nat × (F64 × F64 × F64)) :=
  let c := (jointCounts m q).zip ((jointCounts m v).zip (jointCounts m a))
  List.zipWith (fun j x => (j.jointNo, x.1, f64Div x.2.1 tf, f64Div x.2.2 (f64Mul tf tf))) m.joints c

/-- The joint states of a path at its node frames (R216): positions by the solver, rates from the Jacobian, accelerations from the change
of the rates between the neighbouring nodes. The first node has the state given, per frame; the last is at rest. None if a point has no
solution. -/
def jointPath (d : Dev) (m : ArmModel) (path : Nat → PathPoint) (nodes : List Nat) (q0 v0 a0 : List F64) : Option JointPath :=
  match nodes with
  | [] => some []
  | n0 :: ns => (ikChain d m path ns q0).map fun qs =>
    let qs := (n0, q0) :: qs
    let zero := q0.map fun _ => f64Zero
    let mids := inner (fun x y z =>
      let cols := jacobian m y.2
      let p := path y.1
      let v := leastSquares f64Zero cols (listP3 p.lin ++ listP3 p.rot)
      (y.1, if cols.length ≤ 6 then v else addL v (spare cols (rateL x z)))) qs
    let last := if ns.isEmpty then [] else [(ns.getLastD n0, zero)]
    let vs := (n0, v0) :: mids ++ last
    let as' := a0 :: inner (fun x _ z => rateL x z) vs ++ [zero]
    (qs.zip (vs.zip as')).map fun x => (x.1.1, slotStates m d.frameS x.1.2 x.2.1.2 x.2.2)

end Sys2Proof.Machine
end

