-- ==== Sys2Proof/Machine/PlanMoves.lean ====
section
/-!
DEFINITION. Planning of moves: MOVE_J, MOVE_L, MOVE_C and MOVE_P (R216 to R222, R227 to R229, R234).
-/
namespace Sys2Proof.Machine

/-! What a plan does. -/

/-- State of a plan's slot at frame `k`, per frame: position, velocity, acceleration; at rest at its end beyond it. -/
def planState (p : Plan) (segs : List Seg) (k : Nat) : F64 × F64 × F64 :=
  let x := planAt segs (f64Nat k)
  if p.len ≤ k then (x.1, f64Zero, f64Zero) else x

/-- The state at the end of a frame's left side, where a phase ends with an acceleration of its own (R220, trapezoidal). -/
def planLeft : List Seg → F64 → F64 × F64 × F64
  | [], _ => (f64Zero, f64Zero, f64Zero)
  | s :: ss, k =>
    let rel := f64Sub k (f64Nat s.start)
    if f64Le rel (f64Nat s.dur) ∨ ss.isEmpty then
      let (p, v, a) := segPoly s.c (f64Min (f64Nat 1) (f64Div rel (f64Nat s.dur)))
      (p, f64Div v (f64Nat s.dur), f64Div a (f64Nat (s.dur * s.dur)))
    else planLeft ss k

/-- Positions of all slots of a plan at frame `k`. -/
def planPos (p : Plan) (k : Nat) : List (Nat × F64) := p.segs.map fun q => (q.1, (planState p q.2 k).1)

/-- Frames of an IK interval of the device (R216). -/
def kIk (d : Dev) : Nat := ikFrames d.periodUnits

/-- IK-rate samples of a plan, its end included. -/
def samples (d : Dev) (len : Nat) : List Nat := nodeFrames (kIk d) len

/-- Velocities of all slots of a plan at frame `k`, per frame. -/
def planVel (p : Plan) (k : Nat) : List (Nat × F64) := p.segs.map fun q => (q.1, (planState p q.2 k).2.1)

/-- Consecutive pairs. -/
def pairsIn {α : Type} : List α → List (α × α)
  | x :: y :: rest => (x, y) :: pairsIn (y :: rest)
  | _ => []

/-- The greatest of a list of values. -/
def greatest (xs : List F64) : F64 := xs.foldl f64Max f64Zero

/-- The greatest ratio of a speed to its cap, of joint states of axis set `a` (counts, counts/s) under the caps the lanes pass (R226). -/
def capRatio (d : Dev) (a : Nat) (x : List (Nat × (F64 × F64))) : F64 :=
  match capOf d a with
  | none => f64Zero
  | some cap =>
    let tcp := match modelOf d a, cap.tcp with
      | some m, some um =>
        f64Div (armSpeed m (jointValues m (x.map fun q => (q.1, q.2.1))) (jointValues m (x.map fun q => (q.1, q.2.2))))
          (f64OfRatio (max um 1) 1000)
      | _, _ => f64Zero
    (x.map fun q => match cap.joints.find? fun j => decide (j.1 = q.1) with
      | some j => f64Div (f64Abs q.2.2) (f64Nat (max j.2 1))
      | none => f64Zero).foldl f64Max tcp

/-- The ratio of a plan's speeds to their caps at its frame `k`. -/
def planRatio (d : Dev) (a : Nat) (p : Plan) (k : Nat) : F64 :=
  capRatio d a ((planPos p k).zip (planVel p k) |>.map fun q => (q.1.1, q.1.2, f64Div q.2.2 d.frameS))

/-- The factor by which a plan exceeds the caps at its IK-rate samples from frame `k` on; 1 where it does not. -/
def planOver (d : Dev) (a : Nat) (p : Plan) (k : Nat) : F64 :=
  if (capOf d a).isNone then f64Nat 1
  else f64Max (f64Nat 1) (greatest (((samples d p.len).filter fun n => decide (k ≤ n)).map (planRatio d a p)))

/-- A point keeps MARGIN_UM from every zone that the arm neither holds nor requests (R234). -/
def clearOfZones (d : Dev) (a : Nat) (c : PlanCmd) (p : P3) : Bool :=
  let margin := f64OfRatio d.pln.zones.margin 1000
  let mine := zonesHeld d a ||| zoneReq c
  d.pln.zones.boxes.zipIdx.all fun z =>
    mine.testBit z.2 || f64Le (f64Mul margin margin) (boxDistance2 (p3OfInts z.1.1 1000) (p3OfInts z.1.2 1000) p)

/-- Every IK-rate sample of a plan keeps clear of the zones. -/
def planClear (d : Dev) (a : Nat) (c : PlanCmd) (p : Plan) : Bool :=
  match modelOf d a with
  | some m => (samples d p.len).all fun k => (armPoints m (jointValues m (planPos p k))).all (clearOfZones d a c)
  | none => true

/-! Readiness. -/

/-- The time of frame `f`'s tick in extended device time, the period in force lasting. -/
def frameTime (d : Dev) (f : Nat) : Int := d.tb.tickAt + frameDiff f d.frameNo * d.frameNs

/-- The fields of a MOTION command that admission does not check and planning does (R210): BLEND, PROFILE and SPEED_PCT of a move, SYNC with
AT_FRAME, COUNT, FRAME, a tracking frame without a master, points outside the path, a DEN or L of 0. -/
def badFields (d : Dev) (a : Nat) (c : PlanCmd) : Bool :=
  let b := c.body
  let f := bodyAt b 3
  let n := bodyAt b 0xE % 32
  (f.testBit 5 && f.testBit 6) || (f.testBit 6 && !decide (2 ≤ n ∧ n ≤ 16)) ||
    (isMove c.opcode && !decide (bodyAt b 1 / 64 ≤ 1 ∧ bodyAt b 1 / 16 % 4 ≤ 1 ∧ 1 ≤ c.pct ∧ c.pct ≤ 100)) ||
    (isCart c.opcode && decide (3 < frameOfCmd c)) || (tracks c && !d.on .PLN_MST_CFG_SRC (d.rd .PLN_TRK_MASTER a)) ||
    match c.opcode with
    | 0x13 => decide (body16 b 0x14 < body16 b 0x12 ∨ (SMap.get [] d.pln.paths (bodyAt b 0x10)).length ≤ body16 b 0x14)
    | 0x18 => decide (body32 b 0x18 = 0 ∨ body32 b 0x1C = 0)
    | _ => false

/-- The running move of axis set `a` may blend into its head command `c` (R222). A command with SYNC waits for its partners (R213) and one
with AT_FRAME starts at its own frame, so the first never blends and the second only where START is the blend's first frame. -/
def mayBlend (d : Dev) (a : Nat) (r : Run) (c : PlanCmd) : Bool :=
  let first := frameAdd r.zero r.plan.decel
  decide (r.mode = .moving) && decide (bodyAt r.cmd.body 1 / 64 = 1) && isMove r.cmd.opcode && isMove c.opcode &&
    (isCart r.cmd.opcode == isCart c.opcode) && !tracks r.cmd && !tracks c && !c.noBlend && decide (zonesMissing d a c = 0) &&
    (!atFrame c || decide (body32 c.body 0xC = first)) && !(bodyAt c.body 3).testBit 6 &&
    decide (c.admitAt + 2000000 ≤ frameTime d first)

/-- A command waits neither for its SYNC group nor for its AT_FRAME start (R213). -/
def settled (c : PlanCmd) : Bool := (c.synced || (syncOf c).isNone) && (!atFrame c || c.startAt.isSome)

/-- The head command of axis set `a`, if it has opcode `op` and may be planned now, with the running move it blends with (R211, R213, R222,
R235): no stop function is active; it is settled, or waits for zones, when it is previewed; or its fields are bad. -/
def planReady (d : Dev) (a op : Nat) : Option (PlanCmd × Option Run) :=
  let x := armOf d a
  match x.queue with
  | [] => none
  | c :: _ =>
    if c.opcode ≠ op ∨ setStopped d a then none
    else match x.run with
      | none => if settled c ∨ (waiting d a).isSome ∨ badFields d a c then some (c, none) else none
      | some r => if x.next.isNone ∧ mayBlend d a r c then some (c, some r) else none

/-- Planned end position of slot `s` of axis set `a`: the end of its running or blending plan, else where it rests. -/
def plannedEnd (d : Dev) (a s : Nat) : F64 :=
  let last := fun (r : Run) => (r.plan.segs.find? fun q => decide (q.1 = s)).bind fun q => q.2.getLast?.map fun g => (segEnd d.frameS g).1
  match (armOf d a).next.bind last with
  | some p => p
  | none => match (armOf d a).run.bind last with
    | some p => p
    | none => restPos d s

/-- The target frame at which a command may start (R213, R223, R236). -/
def firstFrame (d : Dev) (c : PlanCmd) : Nat :=
  match c.startAt with
  | some f => if atFrame c then f else laterFrame f (earliest d)
  | none => earliest d

/-- Stage a planned command as a start, at its fixed frame if it has one (R213); a member of a SYNC group joins the group's commit, which
starts no earlier than any member may. A command that still waits, where its start decides its plan, has only been previewed (R235). -/
def stageStart (d : Dev) (a : Nat) (c : PlanCmd) (p : Plan) (flags points : Nat) (track : Option (Frame3 × Nat))
    (couples : List (Nat × Option Couple)) : Dev :=
  if !settled c ∨ (track.isSome ∧ (waiting d a).isSome) then d
  else
    let flags := flags + (if c.noBlend then 64 else 0)
    let fs := firstFrame d c
    let mode := if couples.isEmpty then RunMode.moving else RunMode.coupling
    let part : CommitPart :=
      { axset := a, kind := .start, couples := couples,
        run := { cmd := c, start := fs, zero := fs, plan := p, flags := flags, points := points, mode := mode, track := track } }
    match syncOf c with
    | some g =>
      match d.pln.staged.find? fun k => decide (k.group = some g) with
      | some k =>
        let parts := (k.parts.filter fun q => decide (q.axset ≠ a)) ++ [part]
        onPln d fun s =>
          { s with staged := (s.staged.filter fun q => decide (q ≠ k)) ++ [{ k with parts := parts, fs := laterFrame k.fs fs }] }
      | none => stage d { fs := fs, group := some g, parts := [part] }
    | none => stage d { fs := fs, fixed := atFrame c, parts := [part] }

/-- Stage a blend at frame `fs`. -/
def stageBlend (d : Dev) (a : Nat) (c : PlanCmd) (fs : Nat) (p : Plan) (flags points : Nat) : Dev :=
  stage d
    { fs := fs, fixed := true
      parts := [{ axset := a, kind := .blend, run := { cmd := c, start := fs, zero := fs, plan := p, flags := flags, points := points } }] }

/-- Give the head command NO_BLEND: it is planned when the running move has ended. -/
def denyBlend (d : Dev) (a : Nat) : Dev :=
  onArm d a fun x => { x with queue := match x.queue with
    | c :: rest => { c with noBlend := true } :: rest
    | [] => [] }

/-! Joint moves. -/

/-- The targets of a MOVE_J (Table 7-4), by slot: absolute, or relative to the planned end position. -/
def jointTargets (d : Dev) (a : Nat) (c : PlanCmd) : List (Nat × F64) :=
  (slotsOf d a).zipIdx.map fun p =>
    let t := f64OfInt (bodyInt c.body (0x10 + 4 * p.2))
    (p.1, if (bodyAt c.body 3).testBit 0 then f64Add (plannedEnd d a p.1) t else t)

/-- The phases of a joint move (R220, R221): those of the joint that needs the longest time. -/
def jointPhases (d : Dev) (a : Nat) (c : PlanCmd) (scale : F64) (ts : List (Nat × F64)) : Option PhaseFrames :=
  (limitSetOf d a c.limset).map fun l =>
    let trap := decide (bodyAt c.body 1 / 16 % 4 = 1)
    let ds := ts.map fun t => durations trap (slotLimits d a t.1 l c.pct) (f64Abs (f64Sub t.2 (plannedEnd d a t.1)))
    let longest := ds.foldl (fun b x => if f64Lt (durationTotal b) (durationTotal x) then x else b)
      ⟨f64Zero, f64Zero, f64Zero, f64Zero, f64Zero⟩
    roundPhases d.frameS scale longest

/-- Where the path coordinate of the move that runs ends. -/
def pathEnd (prev : Option Run) : F64 :=
  match prev with
  | some r => (planState r.plan r.plan.path r.plan.len).1
  | none => f64Zero

/-- The plan of a joint move with given phases (R229: one segment per phase, or per 256 frames of one). -/
def jointPlan (d : Dev) (a : Nat) (c : PlanCmd) (prev : Option Run) (ph : PhaseFrames) (ts : List (Nat × F64)) : Plan :=
  let ps := profilePieces (f64Nat 1) ph
  { segs := ts.map fun t =>
      let p0 := plannedEnd d a t.1
      (t.1, markLast (motionSegs p0 (f64Sub t.2 p0) c.rsn ps 0))
    len := ph.total, decel := ph.total - ph.decel
    path := markLast (motionSegs (pathEnd prev) (f64Nat 1) c.rsn ps 0)
    gauge := [.joint (ts.map fun t => (t.1, f64Abs (f64Sub t.2 (plannedEnd d a t.1))))] }

/-- Boundaries of a plan's segments. -/
def planCuts (p : Plan) : List Nat :=
  match p.segs with
  | q :: _ => q.2.map (·.start) ++ [p.len]
  | [] => []

/-- Cuts of a blend of overlap `o`, up to a boundary of the second plan, at most 256 frames apart. -/
def blendCuts (p q : Plan) (o : Nat) : List Nat :=
  let upto := if q.len ≤ o then o else (planCuts q).foldl (fun m b => if o ≤ b ∧ b < m then b else m) q.len
  let cs := (planCuts p).filterMap fun b => if p.len - o < b ∧ b ≤ p.len then some (b - (p.len - o)) else none
  let all := [0, o, upto] ++ cs ++ (planCuts q) ++ (List.range (upto / 256 + 1)).map (256 * ·)
  (List.range (upto + 1)).filter fun k => all.contains k

/-- The state of a plan's slot on the left or right side of frame `k`, at rest beyond its end. -/
def sideState (p : Plan) (s : List Seg) (left : Bool) (k : Nat) : F64 × F64 × F64 :=
  if p.len < k ∨ (p.len = k ∧ !left) then ((planState p s p.len).1, f64Zero, f64Zero)
  else if left then planLeft s (f64Nat k) else planAt s (f64Nat k)

/-- The superposition of the end of plan `p` and plan `q`, which starts where `p` ends, over overlap `o`, on the left or right side of
frame `k`. -/
def superposed (p q : Plan) (sp sq : List Seg) (o : Nat) (left : Bool) (k : Nat) : F64 × F64 × F64 :=
  let x := sideState p sp left (p.len - o + k)
  let y := sideState q sq left k
  (f64Add x.1 (f64Sub y.1 (planState p sp p.len).1), f64Add x.2.1 y.2.1, f64Add x.2.2 y.2.2)

/-- The segments of one slot of two moves that blend over `o` frames, from the first frame of the blend on. -/
def blendSegs (p q : Plan) (o seq : Nat) (sp sq : List Seg) : List Seg :=
  let cuts := blendCuts p q o
  markLast (((pairsIn cuts).map fun k =>
    let n := k.2 - k.1
    ({ start := k.1, dur := n, stopFr := 1, seq := seq,
       c := hermite (perTau n (superposed p q sp sq o false k.1)) (perTau n (superposed p q sp sq o true k.2)) } : Seg)) ++
    sq.filter fun g => decide (cuts.foldl max 0 ≤ g.start))

/-- The plan of the second of two moves that blend over `o` frames, of slots `segs` (R222). -/
def blendPlan (p q : Plan) (o seq : Nat) (segs : List (Nat × List Seg)) : Plan :=
  { segs := segs, len := max q.len o, decel := if q.len < o then o else q.decel
    path := blendSegs p q o seq p.path q.path, gauge := p.gauge ++ q.gauge }

/-- Two joint moves that blend: joint profiles superposed. -/
def blendJoints (p q : Plan) (o seq : Nat) : Plan :=
  blendPlan p q o seq ((p.segs.zip q.segs).map fun s => (s.1.1, blendSegs p q o seq s.1.2 s.2.2))

/-- Every joint of a blend stays within the arm model's limits (R222). -/
def blendWithin (d : Dev) (a : Nat) (p : Plan) : Bool :=
  let tf := d.frameS
  p.segs.all fun q => match modelLimits d a q.1 with
    | none => true
    | some (vm, am, jm) => q.2.all fun g =>
      let t := f64Mul (f64Nat g.dur) tf
      let at' := fun (x : F64) => segPoly g.c x
      [f64Zero, f64Frac 1 2, f64Nat 1].all (fun x =>
        let (_, v, acc) := at' x
        f64Le (f64Abs (f64Div v t)) vm && f64Le (f64Abs (f64Div acc (f64Mul t t))) am) &&
      f64Le (f64Abs (f64Div (f64Sub (at' (f64Nat 1)).2.2 (at' f64Zero).2.2) (f64Mul t (f64Mul t t)))) jm

/-- The longest overlap up to `o` frames for which `ok` holds; 0 if none (R222). -/
def longestOverlap (ok : Nat → Bool) : Nat → Nat
  | 0 => 0
  | o + 1 => if ok (o + 1) then o + 1 else longestOverlap ok o

/-- Stage the second of two moves as a blend at its overlap `o`, or give it NO_BLEND (R222); an AT_FRAME start leaves no overlap but the
full one. -/
def blendOrDeny (d : Dev) (a : Nat) (c : PlanCmd) (r : Run) (o : Nat) (b : Plan) (ok : Bool) (flags points : Nat) : Dev :=
  match if o = 0 ∨ !ok ∨ (atFrame c ∧ o ≠ r.plan.len - r.plan.decel) then none else withStops d a b.segs with
  | none => denyBlend d a
  | some segs => stageBlend d a c (frameAdd r.zero (r.plan.len - o)) { b with segs := segs } flags points

/-- MOVE_J: the head command of axis set `a` is planned and staged, or ends without motion (R220 to R222, R227, R234). The second of two
moves starts at the first tick of the first one's deceleration, or later, frame by frame, until the blend keeps the limits. -/
def execMoveJ (a : Fin 36) (s : State) : Host.Outcome State Fault Refusal :=
  s.run fun d =>
    match planReady d a 0x10 with
    | none => d
    | some (c, prev) =>
      if badFields d a c then failHead d a .tableBad
      else
      let ts := jointTargets d a c
      match jointPhases d a c (f64Nat 1) ts with
      | none => d
      | some ph =>
        let free := jointPlan d a c prev ph ts
        let ph := (jointPhases d a c (planOver d a free 0) ts).getD ph
        let plan := jointPlan d a c prev ph ts
        if !(ts.all fun t => inHedge d t.1 t.2) then failHead d a .hedgeLimit
        else if !planClear d a c plan then failHead d a .zoneViolation
        else match prev with
          | none => match withStops d a plan.segs with
            | none => failHead d a .hedgeLimit
            | some segs => stageStart d a c { plan with segs := segs } 0 0 none []
          | some r =>
            let blended := fun (o : Nat) => blendJoints r.plan plan o c.rsn
            let o := longestOverlap (fun o => blendWithin d a (blended o) && f64Le (planOver d a (blended o) 0) (f64Nat 1))
              (r.plan.len - r.plan.decel)
            blendOrDeny d a c r o (blended o) (planClear d a c (blended o)) 0 0

/-! Cartesian moves. -/

/-- A leg of a TCP path: a line with its orientation, or an arc at constant orientation. -/
inductive Leg where
  | line (x y : Frame3)
  | arc (c : Arc) (r : Frame3)

/-- Length of a leg, mm. -/
def Leg.len : Leg → F64
  | .line x y => p3Norm (p3Sub y.t x.t)
  | .arc c _ => f64Mul c.angle (p3Norm c.u)

/-- Angle a leg turns the orientation through. -/
def Leg.turn : Leg → F64
  | .line x y => angleOf x y
  | .arc _ _ => f64Zero

/-- The path coordinate of a leg: its length, or its angle where it has none. -/
def Leg.measure (l : Leg) : F64 := if f64Lt f64Zero l.len then l.len else l.turn

/-- The pose at fraction `u` of a leg: orientation follows the path length proportionally (R220). -/
def Leg.pose (l : Leg) (u : F64) : Frame3 :=
  match l with
  | .line x y => poseBetween x y u
  | .arc c r => frameAt r (arcPoint c (f64Mul u c.angle))

/-- The pose at path coordinate `s`. -/
def legsPose : List Leg → F64 → Frame3
  | [], _ => frameOfVector ⟨f64Zero, f64Zero, f64Zero⟩ ⟨f64Zero, f64Zero, f64Zero⟩
  | [l], s => l.pose (if f64Lt f64Zero l.measure then f64Min (f64Nat 1) (f64Div s l.measure) else f64Nat 1)
  | l :: ls, s => if f64Lt s l.measure then l.pose (f64Div s l.measure) else legsPose ls (f64Sub s l.measure)

/-- The limits one leg sets its path coordinate under limit set `l` and SPEED_PCT (R220): VC, AC, DC and JC of a path, slowed where VR, AR and
JR bind, AR serving as the deceleration of the orientation (R226); of a joint move those of every joint over its travel. -/
def legLimits (d : Dev) (a : Nat) (l : LimitSet) (pct : Nat) : PlanLeg → List ScalarLimits
  | .cart len turn =>
    let rot : ScalarLimits := { v := pctOf pct l.vr, a := l.ar, d := l.ar, j := l.jr }
    if !f64Lt f64Zero len then [rot]
    else
      let k := fun (x : F64) => f64Div (f64Mul x len) turn
      { v := pctOf pct l.vc, a := l.ac, d := l.dc, j := l.jc } ::
        (if f64Lt f64Zero turn then [{ v := k rot.v, a := k rot.a, d := k rot.d, j := k rot.j }] else [])
  | .joint travel =>
    (travel.filter fun t => f64Lt f64Zero t.2).map fun t =>
      let x := slotLimits d a t.1 l pct
      { v := f64Div x.v t.2, a := f64Div x.a t.2, d := f64Div x.d t.2, j := f64Div x.j t.2 }

/-- The lower of two sets of limits. -/
def lowerLimits (x y : ScalarLimits) : ScalarLimits := { v := f64Min x.v y.v, a := f64Min x.a y.a, d := f64Min x.d y.d, j := f64Min x.j y.j }

/-- The limits of the path coordinate over all legs of a plan. -/
def pathLimits (d : Dev) (a : Nat) (l : LimitSet) (pct : Nat) (gauge : List PlanLeg) : ScalarLimits :=
  match gauge.flatMap (legLimits d a l pct) with
  | [] => { v := pctOf pct l.vc, a := l.ac, d := l.dc, j := l.jc }
  | x :: xs => xs.foldl lowerLimits x

/-- Length and turn of every leg of a path. -/
def gaugeOf (legs : List Leg) : List PlanLeg := legs.map fun l => .cart l.len l.turn

/-- Velocity and turning rate of a leg at fraction `u`, per unit of its path coordinate, in the cell frame. -/
def Leg.rates (l : Leg) (u : F64) : P3 × P3 :=
  let k := f64Div (f64Nat 1) l.measure
  match l with
  | .line x y => (p3Scale k (p3Sub y.t x.t), p3Scale k (outward x (turnVector x y)))
  | .arc c _ =>
    let th := f64Mul u c.angle
    (p3Scale (f64Div (f64Nat 1) (p3Norm c.u)) (p3Sub (p3Scale (f64Cos th) c.w) (p3Scale (f64Sin th) c.u)), ⟨f64Zero, f64Zero, f64Zero⟩)

/-- The pose at path coordinate `s` with its rates at path speed `v`. -/
def legsPoint : List Leg → F64 → F64 → PathPoint
  | [], s, _ => ⟨legsPose [] s, ⟨f64Zero, f64Zero, f64Zero⟩, ⟨f64Zero, f64Zero, f64Zero⟩⟩
  | l :: ls, s, v =>
    if f64Lt s l.measure ∨ ls.isEmpty then
      let r := if f64Lt f64Zero l.measure then l.rates (f64Min (f64Nat 1) (f64Div s l.measure))
        else (⟨f64Zero, f64Zero, f64Zero⟩, ⟨f64Zero, f64Zero, f64Zero⟩)
      ⟨legsPose (l :: ls) s, p3Scale v r.1, p3Scale v r.2⟩
    else legsPoint ls (f64Sub s l.measure) v

/-- The identity frame. -/
def idFrame : Frame3 := frameOfVector ⟨f64Zero, f64Zero, f64Zero⟩ ⟨f64Zero, f64Zero, f64Zero⟩

/-- The frame a command's coordinates are given in (Table 7-4): cell, arm base, tool at the start, or tracking frame, whose motion
is added apart. -/
def coordFrame (m : ArmModel) (start : Frame3) : Nat → Frame3
  | 1 => frameOfWords m.base
  | 2 => start
  | _ => idFrame

/-- A target pose: position in um and rotation vector in urad, in frame `f`; with REL relative to the pose `start` along the axes of
that frame. -/
def targetPose (f start : Frame3) (rel : Bool) (pos : V3) (rot : V3) : Frame3 :=
  let p := frameOfVector (p3OfInts pos 1000) (p3OfInts rot 1000000)
  if rel then
    let z : P3 := ⟨f64Zero, f64Zero, f64Zero⟩
    let fr := frameAt f z
    let turn := frameMul (frameMul fr (frameAt p z)) (frameInv fr)
    frameAt (frameMul turn (frameAt start z)) (p3Add start.t (framePoint fr p.t))
  else frameMul f p

/-- Three s32 of a body. -/
def bodyV3 (b : List Byte) (i : Nat) : V3 := ⟨bodyInt b i, bodyInt b (i + 4), bodyInt b (i + 8)⟩

/-- The TCP path of a Cartesian command from its start pose (R218, Table 7-4). Points on one line give MOVE_C a straight path. -/
def cmdLegs (d : Dev) (m : ArmModel) (start : Frame3) (c : PlanCmd) : List Leg :=
  let f := coordFrame m start (frameOfCmd c)
  let rel := (bodyAt c.body 3).testBit 0
  match c.opcode with
  | 0x11 => [.line start (targetPose f start rel (bodyV3 c.body 0x10) (bodyV3 c.body 0x1C))]
  | 0x12 =>
    let p := fun i => (targetPose f start rel (bodyV3 c.body i) ⟨0, 0, 0⟩).t
    match arcOf start.t (p 0x10) (p 0x1C) with
    | some x => [.arc x start]
    | none => [.line start (frameAt start (p 0x10)), .line (frameAt start (p 0x10)) (frameAt start (p 0x1C))]
  | _ =>
    let first := body16 c.body 0x12
    let pts := ((SMap.get [] d.pln.paths (bodyAt c.body 0x10)).take (body16 c.body 0x14 + 1)).drop first
    let poses := pts.map fun q => targetPose f start rel q.1 q.2
    (pairsIn (start :: poses)).map fun q => Leg.line q.1 q.2

/-- Master `i` predicted for target frame `f` from its latest observer state (R219), counts. -/
def masterAt (d : Dev) (i f : Nat) : F64 :=
  let x := SMap.get ({} : MasterDyn) d.pln.masters i
  let t := f64Mul (f64OfInt (frameDiff f (frameAdd d.frameNo 2))) d.frameS
  f64Add (f64Add (f64OfInt x.whole) x.frac) (f64Add (f64Mul x.v t) (f64Mul (f64Frac 1 2) (f64Mul x.a (f64Mul t t))))

/-- The displacement of the tracking frame of arm `a` at target frame `f`, mm (R219). -/
def trackShift (d : Dev) (a f : Nat) : P3 :=
  let um := f64OfRatio (d.rdI .PLN_TRK_UM_PER_CNT a) 65536
  let mm := f64Div (f64Mul um (masterAt d (d.rd .PLN_TRK_MASTER a) f)) (f64Nat 1000)
  let g := fun i => f64OfRatio (d.rdI .PLN_TRK_DIR (3 * a + i)) (2 ^ 30)
  p3Scale mm ⟨g 0, g 1, g 2⟩

/-- The velocity of the tracking frame of arm `a` at target frame `f`, mm per frame: the predicted speed of its master. -/
def trackRate (d : Dev) (a f : Nat) : P3 :=
  let x := SMap.get ({} : MasterDyn) d.pln.masters (d.rd .PLN_TRK_MASTER a)
  let t := f64Mul (f64OfInt (frameDiff f (frameAdd d.frameNo 2))) d.frameS
  let um := f64OfRatio (d.rdI .PLN_TRK_UM_PER_CNT a) 65536
  let mm := f64Div (f64Mul um (f64Mul (f64Add x.v (f64Mul x.a t)) d.frameS)) (f64Nat 1000)
  let g := fun i => f64OfRatio (d.rdI .PLN_TRK_DIR (3 * a + i)) (2 ^ 30)
  p3Scale mm ⟨g 0, g 1, g 2⟩

/-- How a tracking command follows its frame (R219): the target frame at which it starts and the frames over which it takes up the frame's
speed; the plan's frame 0, its path coordinate and the first frame of its deceleration. -/
structure TrackLaw where
  start : Nat
  rise : Nat
  zero : Nat
  path : List Seg
  decel : Nat

/-- The displacement of a tracking command at the plan's frame `n`, and its rate (R219): that of the tracking frame; the TCP takes up the
frame's speed in its acceleration phase and gives it up in its deceleration phase, in step with its own path speed, and lags in neither
of the frames between. -/
def trackPoint (d : Dev) (a : Nat) (x : TrackLaw) (n : Nat) : P3 × P3 :=
  let at' := fun (f : Nat) => (trackShift d a f, trackRate d a f)
  let f := frameAdd x.zero n
  let since := frameDiff f x.start
  if since < x.rise then
    let len := f64Nat x.rise
    let c := hermite (f64Zero, len, f64Zero) (f64Zero, f64Zero, f64Zero)
    let (u, v, _) := segPoly c (f64Div (f64OfInt since) len)
    let (s, r) := at' f
    let r0 := (at' x.start).2
    (p3Sub s (p3Scale u r0), p3Sub r (p3Scale (f64Div v len) r0))
  else if x.decel < n then
    let (s0, v0, _) := planAt x.path (f64Nat x.decel)
    let (s1, v1, _) := planAt x.path (f64Nat n)
    let (s, r) := at' (frameAdd x.zero x.decel)
    if f64Lt f64Zero v0 then (p3Add s (p3Scale (f64Div (f64Sub s1 s0) v0) r), p3Scale (f64Div v1 v0) r) else (s, p3Scale f64Zero r)
  else at' f

/-- The pose of arm `a` at a plan's frame. -/
def planPose (m : ArmModel) (p : Plan) (k : Nat) : Frame3 := tcpFrame m (jointValues m (planPos p k))

/-- The pose of an arm at a plan's frame with its rates per frame. -/
def planPoint (m : ArmModel) (p : Plan) (k : Nat) : PathPoint :=
  let q := jointValues m (planPos p k)
  let t := twistOf (jacobian m q) (jointValues m (planVel p k))
  let g := fun i => t.getD i f64Zero
  ⟨tcpFrame m q, ⟨g 0, g 1, g 2⟩, ⟨g 3, g 4, g 5⟩⟩

/-- The path of the second of two Cartesian moves that blend over `o` frames: path positions superposed about the corner (R222). -/
def blendPoint (m : ArmModel) (p : Plan) (o : Nat) (own : Nat → PathPoint) (k : Nat) : PathPoint :=
  if o ≤ k then own k
  else
    let z : P3 := ⟨f64Zero, f64Zero, f64Zero⟩
    let corner := planPose m p p.len
    let x := planPoint m p (p.len - o + k)
    let y := own k
    let turn := frameMul (frameAt x.pose z) (frameInv (frameAt corner z))
    { pose := frameAt (frameMul turn (frameAt y.pose z)) (p3Add x.pose.t (p3Sub y.pose.t corner.t))
      lin := p3Add x.lin y.lin
      rot := p3Add x.rot (outward turn y.rot) }

/-- The blend passes within BLEND_UM of the corner point. -/
def blendNear (d : Dev) (m : ArmModel) (p : Plan) (o : Nat) (um : Nat) (own : Nat → PathPoint) : Bool :=
  let corner := (planPose m p p.len).t
  let lim := f64OfRatio um 1000
  (nodeFrames (kIk d) o).any fun k => f64Le (p3Norm (p3Sub (blendPoint m p o own k).pose.t corner)) lim

/-- IK points keep every joint within the arm model's limits (R218): speed, acceleration and jerk between points. -/
def pointsWithin (d : Dev) (a : Nat) (xs : JointPath) : Bool :=
  (xs.all fun x => x.2.all fun q => match modelLimits d a q.1 with
    | some (vm, am, _) => f64Le (f64Abs q.2.2.1) vm && f64Le (f64Abs q.2.2.2) am
    | none => true) &&
  (pairsIn xs).all fun x => (x.1.2.zip x.2.2).all fun q => match modelLimits d a q.1.1 with
    | some (_, _, jm) =>
      f64Le (f64Abs (f64Div (f64Sub q.2.2.2.2 q.1.2.2.2) (f64Mul (f64Nat (x.2.1 - x.1.1)) d.frameS))) jm
    | none => true

/-- IK points meet the caps (R226). -/
def pointsCapped (d : Dev) (a : Nat) (xs : JointPath) : Bool :=
  (capOf d a).isNone || xs.all fun x => f64Le (capRatio d a (x.2.map fun q => (q.1, q.2.1, q.2.2.1))) (f64Nat 1)

/-- The segments between IK points (R229: K_IK frames each, except the last). -/
def pointSegs (d : Dev) (ss : List Nat) (seq : Nat) (xs : JointPath) : List (Nat × List Seg) :=
  ss.map fun s =>
    let st := fun (x : Nat × List (Nat × (F64 × F64 × F64))) => match x.2.find? fun q => decide (q.1 = s) with
      | some q => (x.1, (q.2.1, f64Mul q.2.2.1 d.frameS, f64Mul q.2.2.2 (f64Mul d.frameS d.frameS)))
      | none => (x.1, (f64Zero, f64Zero, f64Zero))
    (s, markLast (nodeSegs seq 0 (xs.map st)))

/-- The preview's Hedge and zone checks at every IK point (R218, R227, R234): the result that ends the command, if any. -/
def previewFails (d : Dev) (a : Nat) (m : ArmModel) (c : PlanCmd) (xs : JointPath) : Option PlanResult :=
  if xs.any fun x => x.2.any fun q => !inHedge d q.1 q.2.1 then some .hedgeLimit
  else if xs.any fun x => !(armPoints m (jointValues m (x.2.map fun q => (q.1, q.2.1)))).all (clearOfZones d a c) then some .zoneViolation
  else none

/-- The IK points count toward IK_LOAD. -/
def countIk (d : Dev) (n : Nat) : Dev := onPln d fun p => { p with ikSolves := p.ikSolves + n }

/-- A time-scaling factor by its number: 1 and on in steps of 2^-10. -/
def scaleOf (k : Nat) : F64 := f64Frac (1024 + k) 1024

/-- The scalar motion of a Cartesian command along its path: phases and pieces of the path coordinate. -/
def cartPhases (d : Dev) (a : Nat) (c : PlanCmd) (scale : F64) (legs : List Leg) : Option (PhaseFrames × List Piece) :=
  (limitSetOf d a c.limset).map fun l =>
    let trap := decide (bodyAt c.body 1 / 16 % 4 = 1)
    let total := f64Sum (legs.map Leg.measure)
    let ph := roundPhases d.frameS scale (durations trap (pathLimits d a l c.pct (gaugeOf legs)) total)
    (ph, profilePieces total ph)

/-- A Cartesian command as it is planned: the arm and its model, the command, its legs, the move it blends with and the first frame. -/
structure CartJob where
  axset : Nat
  model : ArmModel
  cmd : PlanCmd
  legs : List Leg
  prev : Option Run
  first : Nat
  ends : List (Nat × F64)

/-- A planned Cartesian motion: its phases, the pieces of its path coordinate and its IK points. -/
structure CartMotion where
  ph : PhaseFrames
  pieces : List Piece
  xs : JointPath

/-- Its path from frame to frame, with an overlap of `o` frames (R219, R222). -/
def CartJob.path (j : CartJob) (d : Dev) (ph : PhaseFrames) (ps : List Piece) (o : Nat) (n : Nat) : PathPoint :=
  let own := fun (n : Nat) => let x := piecesAt ps (f64Nat n); legsPoint j.legs x.1 x.2.1
  match j.prev with
  | some r => blendPoint j.model r.plan o own n
  | none =>
    if tracks j.cmd then
      let b := own n
      let t := trackPoint d j.axset ⟨j.first, ph.accel, j.first, motionSegs f64Zero (f64Nat 1) 0 ps 0, ph.total - ph.decel⟩ n
      ⟨frameAt b.pose (p3Add b.pose.t t.1), p3Add b.lin t.2, b.rot⟩
    else own n

/-- The motion slowed by factor number `k`, with an overlap of `o` frames; none if an IK point has no solution (R216, R217). It starts
exactly in the planned state (R229). -/
def CartJob.motion (j : CartJob) (d : Dev) (k o : Nat) : Option CartMotion :=
  match cartPhases d j.axset j.cmd (scaleOf k) j.legs with
  | none => none
  | some (ph, ps) =>
    let m := j.model
    let zero := m.joints.map fun _ => f64Zero
    let start : List F64 × List F64 × List F64 := match j.prev with
      | some r =>
        let st := fun (f : F64 × F64 × F64 → F64) =>
          jointValues m (r.plan.segs.map fun (q : Nat × List Seg) => (q.1, f (planState r.plan q.2 (r.plan.len - o))))
        (st Prod.fst, st (fun x => x.2.1), st (fun x => x.2.2))
      | none => (jointValues m j.ends, zero, zero)
    (jointPath d m (j.path d ph ps o) (samples d (max ph.total o)) start.1 start.2.1 start.2.2).map fun xs => ⟨ph, ps, xs⟩

/-- The path lasts longer than 60 s at factor number `k` (R218). -/
def CartJob.tooLong (j : CartJob) (d : Dev) (k : Nat) : Bool :=
  match cartPhases d j.axset j.cmd (scaleOf k) j.legs with
  | some (ph, _) => decide (60000000000 < ph.total * d.frameNs)
  | none => true

/-- The smallest factor number from `lo` on at which a check of the motion holds, or at which it lasts too long (R218). -/
def CartJob.slowed (j : CartJob) (d : Dev) (o lo : Nat) (ok : JointPath → Bool) : Nat :=
  (leastFrom (fun k => j.tooLong d k || (match j.motion d k o with
    | some x => ok x.xs
    | none => true)) 31 lo (2 ^ 30)).getD (2 ^ 30)

/-- The branch that CONF names is that of the arm's position, or CONF does not apply (R217): a path starts on the branch of its start. -/
def confOk (m : ArmModel) (c : PlanCmd) (ends : List (Nat × F64)) : Bool :=
  let f := bodyAt c.body 3
  decide (m.ikKind = 0) || !f.testBit 1 || decide (branchOf m (jointValues m ends) = f / 4 % 8)

/-- The plan of a motion with an overlap of `o` frames. -/
def CartJob.plan (j : CartJob) (d : Dev) (x : CartMotion) (o : Nat) : Plan :=
  let segs := pointSegs d (slotsOf d j.axset) j.cmd.rsn x.xs
  let own : Plan :=
    { segs := segs, len := x.ph.total, decel := x.ph.total - x.ph.decel
      path := markLast (motionSegs (pathEnd j.prev) (f64Nat 1) j.cmd.rsn x.pieces 0), gauge := gaugeOf j.legs }
  match j.prev with
  | some r => blendPlan r.plan own o j.cmd.rsn segs
  | none => own

/-- The job of a Cartesian command that is ready: from the planned end of every slot, in the frame its coordinates are given in; of a tracking
command with its start pose in the tracking frame. -/
def cartJob (d : Dev) (a : Nat) (m : ArmModel) (c : PlanCmd) (prev : Option Run) : CartJob × Frame3 :=
  let ends := (slotsOf d a).map fun s => (s, plannedEnd d a s)
  let tcp := tcpFrame m (jointValues m ends)
  let first := match prev with
    | some r => frameAdd r.zero r.plan.decel
    | none => firstFrame d c
  let start := if tracks c then frameAt tcp (p3Sub tcp.t (trackShift d a first)) else tcp
  ({ axset := a, model := m, cmd := c, legs := cmdLegs d m start c, prev := prev, first := first, ends := ends }, start)

/-- A tracking command that runs is predicted again from its next IK point on (R219), from its planned state there. -/
def planAgain (d : Dev) (a : Nat) (m : ArmModel) (r : Run) : Dev :=
  match r.track with
  | none => d
  | some (start, rise) =>
    let k := kIk d
    let e := frameDiff (earliest d) r.zero
    let k0 := if e ≤ 0 then 0 else ceilDiv e.toNat k * k
    let legs := cmdLegs d m start r.cmd
    let law : TrackLaw := ⟨r.start, rise, r.zero, r.plan.path, r.plan.decel⟩
    let path := fun (n : Nat) =>
      let x := planState r.plan r.plan.path n
      let b := legsPoint legs x.1 x.2.1
      let t := trackPoint d a law n
      (⟨frameAt b.pose (p3Add b.pose.t t.1), p3Add b.lin t.2, b.rot⟩ : PathPoint)
    let st := fun (f : F64 × F64 × F64 → F64) => jointValues m (r.plan.segs.map fun q => (q.1, f (planState r.plan q.2 k0)))
    let nodes := (samples d r.plan.len).filter fun n => decide (k0 ≤ n)
    if r.plan.len ≤ k0 then d
    else match jointPath d m path nodes (st Prod.fst) (st fun x => x.2.1) (st fun x => x.2.2) with
      | none => d
      | some xs =>
        if (previewFails d a m r.cmd xs).isSome then d
        else
          let later := pointSegs d (slotsOf d a) r.cmd.rsn xs
          let segs := (r.plan.segs.zip later).map fun q => (q.1.1, (q.1.2.filter fun g => decide (g.start < k0)) ++ q.2.2)
          match withStops d a segs with
          | none => d
          | some segs =>
            let r' := { r with plan := { r.plan with segs := segs }, written := k0, fin := none }
            countIk (stage d { fs := frameAdd r.zero k0, fixed := true, parts := [{ axset := a, kind := .splice, run := r' }] }) xs.length

/-- A Cartesian command is planned (R216 to R219, R222, R227, R234): its preview ends it without motion, or it is staged, slowed by the
smallest factor that keeps the joint limits, and by the caps. A tracking command that runs is predicted again. -/
def planCart (d : Dev) (a op : Nat) : Dev :=
  match modelOf d a with
  | none => d
  | some m =>
    match planReady d a op with
    | none => match (armOf d a).run with
      | some r => if r.cmd.opcode = op ∧ tracks r.cmd ∧ r.mode = .moving then planAgain d a m r else d
      | none => d
    | some (c, prev) =>
      if badFields d a c then failHead d a .tableBad
      else
        let (job, start) := cartJob d a m c prev
        let lone := { job with prev := none }
        if job.tooLong d 0 then failHead d a .pathTooLong
        else if !confOk m c job.ends then failHead d a .ikFail
        else match lone.motion d 0 0, limitSetOf d a c.limset with
          | some free, some l =>
            match previewFails d a m c free.xs with
            | some r => failHead (countIk d free.xs.length) a r
            | none =>
              let k := lone.slowed d 0 0 (pointsWithin d a)
              let kc := lone.slowed d 0 k fun xs => pointsWithin d a xs && pointsCapped d a xs
              let flags := if k = 0 then 0 else 32
              if lone.tooLong d kc then failHead (countIk d free.xs.length) a .pathTooLong
              else match prev with
                | none => match lone.motion d kc 0 with
                  | none => failHead d a .ikFail
                  | some x =>
                    let d := countIk d x.xs.length
                    let p := lone.plan d x 0
                    match withStops d a p.segs with
                    | none => failHead d a .hedgeLimit
                    | some segs =>
                      let track := if tracks c then some (start, x.ph.accel) else none
                      stageStart d a c { p with segs := segs } flags x.xs.length track []
                | some r =>
                  let fits := fun (o : Nat) => match job.motion d kc o with
                    | some x =>
                      blendNear d m r.plan o l.blendUm (fun n => let s := piecesAt x.pieces (f64Nat n); legsPoint job.legs s.1 s.2.1) &&
                        pointsWithin d a x.xs && pointsCapped d a x.xs
                    | none => false
                  let o := longestOverlap fits (r.plan.len - r.plan.decel)
                  match job.motion d kc o with
                  | none => denyBlend d a
                  | some x =>
                    blendOrDeny (countIk d x.xs.length) a c r o (job.plan d x o) (previewFails d a m c x.xs).isNone flags x.xs.length
          | none, _ => failHead d a .ikFail
          | _, none => d

/-- MOVE_L: a straight line of the TCP (R218). -/
def execMoveL (a : Fin 16) (s : State) : Host.Outcome State Fault Refusal := s.run fun d => planCart d a 0x11

/-- MOVE_C: a circular arc of the TCP through a via point, at constant orientation (R218). -/
def execMoveC (a : Fin 16) (s : State) : Host.Outcome State Fault Refusal := s.run fun d => planCart d a 0x12

/-- MOVE_P: the TCP through the points of a path table (R218). -/
def execMoveP (a : Fin 16) (s : State) : Host.Outcome State Fault Refusal := s.run fun d => planCart d a 0x13

end Sys2Proof.Machine
end

