-- ==== Sys2Proof/Machine/PlanControl.lean ====
section
/-!
DEFINITION. Changes of a plan and what moves the queues on: OVERRIDE, stops, holds, caps (R224 to R226, R232, R233), couplings (R239,
R241), zones, SYNC and AT_FRAME starts, end frames (R212, R213, R235 to R237).
-/
namespace Sys2Proof.Machine

/-! Cams (R240). -/

/-- An FP64 of a table, as its word. -/
def wordAt (b : List Byte) (i : Nat) : BitVec 64 := BitVec.ofNat 64 (body64 b i)

/-- An FP64 of a table. -/
def fpAt (b : List Byte) (i : Nat) : F64 := f64OfBits (wordAt b i)

/-- Cam points after the 16-byte header (R240: M, Y, Y' and Y''), 32 bytes each. -/
def camOfBytes (b : List Byte) : List CamPoint :=
  (List.range ((b.length - 16) / 32)).map fun i =>
    let o := 16 + 32 * i
    { m := body32 b o, y := fpAt b (o + 8), y1 := fpAt b (o + 16), y2 := fpAt b (o + 24) }

/-- The cam points of table `i`. -/
def camOf (d : Dev) (i : Nat) : List CamPoint := camOfBytes (SMap.get [] d.pln.cams i)

/-! Parts of plans. -/

/-- State per frame of a segment `k` frames from its start. -/
def segState (g : Seg) (k : Nat) : F64 × F64 × F64 :=
  let (p, v, a) := segPoly g.c (f64Frac k g.dur)
  (p, f64Div v (f64Nat g.dur), f64Div a (f64Nat (g.dur * g.dur)))

/-- Frames `i` to `j` of a segment. -/
def segPart (g : Seg) (i j : Nat) : Seg :=
  { g with start := g.start + i, dur := j - i, last := g.last && decide (j = g.dur)
           c := hermite (perTau (j - i) (segState g i)) (perTau (j - i) (segState g j)) }

/-- Segments up to frame `b`. -/
def segsUntil (b : Nat) (l : List Seg) : List Seg :=
  (l.filter fun g => decide (g.start < b)).map fun g => if b < g.start + g.dur then segPart g 0 (b - g.start) else g

/-- Segments from frame `b` on, counted from there. -/
def segsFrom (b : Nat) (l : List Seg) : List Seg :=
  (l.filter fun g => decide (b < g.start + g.dur)).map fun g =>
    let h := if g.start < b then segPart g (b - g.start) g.dur else g
    { h with start := h.start - b }

/-- A plan from frame `b` on. -/
def planFrom (p : Plan) (b : Nat) : Plan :=
  { p with segs := p.segs.map fun q => (q.1, segsFrom b q.2)
           len := p.len - b, decel := p.decel - b, path := segsFrom b p.path }

/-- Two plans that blend as one: the second takes over at frame `b` of the first. -/
def joined (p q : Plan) (b : Nat) : Plan :=
  let join := fun (x y : List Seg) => segsUntil b x ++ y.map fun g => { g with start := g.start + b }
  { segs := (p.segs.zip q.segs).map fun s => (s.1.1, join s.1.2 s.2.2), len := b + q.len, decel := b + q.decel
    path := join p.path q.path, gauge := q.gauge }

/-! Splices. -/

/-- What a splice starts from: the command it concerns, the plan in force (with that of the command that blends into it, and the frame at which
that one takes over), the splice frame, and the state of the path coordinate there. -/
structure SpliceBase where
  run : Run
  next : Option Run
  base : Plan
  split : Option Nat
  fs : Nat
  frame : Nat
  state : F64 × F64 × F64

/-- A command as a splice that has not reached the store yet leaves it: one splice carries both changes (R243). -/
def carried (d : Dev) (a : Nat) (r : Run) : Run :=
  match stagedSplice d a with
  | some q =>
    match (q.run :: q.next.toList).find? fun x => decide (x.cmd.key = r.cmd.key) with
    | some x => { r with cmd := x.cmd, flags := x.flags }
    | none => r
  | none => r

/-- What a splice at the earliest frame starts from: the running command, with the one that blends into it, or that one alone once its blend
has begun. -/
def spliceBase (d : Dev) (a : Nat) : Option SpliceBase :=
  let x := armOf d a
  let start := fun (r : Run) (n : Option Run) (p : Plan) (b : Option Nat) =>
    let e := earliest d
    let fs := if frameDiff e r.zero < 0 then r.zero else e
    let k := (frameDiff fs r.zero).toNat
    some { run := carried d a r, next := n.map (carried d a), base := p, split := b, fs := fs, frame := k, state := planState p p.path k }
  match x.run, x.next with
  | none, _ => none
  | some r, none => start r none r.plan none
  | some r, some n => match r.till with
    | none => start r (some n) r.plan none
    | some b => if blendBegun x (earliest d) then start n none n.plan none else start r (some n) (joined r.plan n.plan b) (some b)

/-- What an axis set does, a splice on its way to the store included. -/
def setMode (d : Dev) (a : Nat) : Option RunMode :=
  let last := fun (r : Run) (n : Option Run) => match n with
    | some n => if r.till.isSome then n.mode else r.mode
    | none => r.mode
  match stagedSplice d a, (armOf d a).run with
  | some q, some _ => some (last q.run q.next)
  | none, some r => some (last r (armOf d a).next)
  | _, none => none

/-- The limits of the path coordinate for the commands a splice concerns: the lower of two commands that blend. -/
def SpliceBase.limits (x : SpliceBase) (d : Dev) (a : Nat) : Option ScalarLimits :=
  let one := fun (r : Run) => (limitSetOf d a r.cmd.limset).map fun l => pathLimits d a l r.cmd.pct x.base.gauge
  match x.split, x.next with
  | some _, some n => match one x.run, one n with
    | some p, some q => some (lowerLimits p q)
    | _, _ => none
  | _, _ => one x.run

/-- The greatest speed of the path coordinate, per frame, at which every point of the remaining path meets the caps (R226). -/
def SpliceBase.capSpeed (x : SpliceBase) (d : Dev) (a : Nat) : Option F64 :=
  if (capOf d a).isNone then none
  else
    (((samples d x.base.len).filter fun k => decide (x.frame ≤ k)).filterMap fun k =>
      let v := (planState x.base x.base.path k).2.1
      let r := planRatio d a x.base k
      if tiny (f64Mul v (f64Nat (2 ^ 20))) ∨ !f64Lt f64Zero r then none else some (f64Div v r)).foldl (fun m v => match m with
        | some w => some (f64Min v w)
        | none => some v) none

/-- The path coordinate of the nearer stop point (R225): the target, or the last sample of the remaining path before a Hedge limit. -/
def SpliceBase.reach (x : SpliceBase) (d : Dev) : F64 :=
  let ks := (samples d x.base.len).filter fun k => decide (x.frame ≤ k)
  let inside := ks.takeWhile fun k => (planPos x.base k).all fun q => inHedge d q.1 q.2
  if inside.length = ks.length then (planState x.base x.base.path x.base.len).1
  else f64Max x.state.1 (planState x.base x.base.path (inside.getLastD x.frame)).1

/-- A new motion of a splice along the path in force: its pieces, the first frame of its deceleration and whether R225 clamps it. A change with
stop set 15 slows with its limits; the others change with those of the command. -/
def SpliceBase.motion (x : SpliceBase) (d : Dev) (a : Nat) (stopSet rest : Bool) (scale : F64) : Option (List Piece × Nat × Bool) :=
  match x.limits d a, limitSetOf d a 15 with
  | some l, some l15 =>
    let own := l.perFrame d.frameS scale
    let own := match x.capSpeed d a with
      | some v => { own with v := f64Min own.v v }
      | none => own
    let first := if stopSet then (pathLimits d a l15 100 x.base.gauge).perFrame d.frameS scale else own
    changed ⟨first, own, rest⟩ x.state.1 x.state.2.1 x.state.2.2 (f64Sub (x.reach d) x.state.1)
      (peaksFrom x.base.path (f64Nat x.frame))
  | _, _ => none

/-- Frames of a spliced plan at which its segments meet (R229): every IK interval, or of a single joint move its phases and every 256 frames. -/
def spliceNodes (d : Dev) (p : Plan) (ps : List Piece) (cut : Option Nat) : List Nat :=
  let n := piecesLen ps
  match p.gauge with
  | [.joint _] =>
    let ends := ps.foldl (fun l q => l ++ [l.getLastD 0 + q.n]) [0]
    (List.range (n + 1)).filter fun k => ends.contains k || decide (k % 256 = 0) || decide (some k = cut)
  | _ => (List.range (n + 1)).filter fun k => (samples d n).contains k || decide (some k = cut)

/-- Joint states of a motion along the path of a plan at its nodes, counts per second; at rest at the end. -/
def alongStates (d : Dev) (p : Plan) (ps : List Piece) (js : List Nat) : JointPath :=
  let n := piecesLen ps
  js.map fun k => (k, p.segs.map fun q =>
    let t := piecesAt ps (f64Nat k)
    let x := alongPath p.path q.2 p.len (if k = n then (t.1, f64Zero, f64Zero) else t)
    (q.1, x.1, f64Div x.2.1 d.frameS, f64Div x.2.2 (f64Mul d.frameS d.frameS)))

/-- A spliced plan: the new plan, the path coordinate at which it ends, the frame at which the blending command takes over, and whether it is
clamped (R225) and scaled to the arm model's limits (R218). -/
structure Spliced where
  plan : Plan
  ends : F64
  cut : Option Nat
  clamped : Bool
  scaled : Bool

/-- The splice along the path in force (R223 to R226, R232). Where no new motion is found, the plan in force stands. -/
def SpliceBase.splice (x : SpliceBase) (d : Dev) (a : Nat) (stopSet rest : Bool) : Option Spliced :=
  let motion := fun (k : Nat) => x.motion d a stopSet rest (scaleOf k)
  let nodesOf := fun (ps : List Piece) (cut : Option Nat) => alongStates d x.base ps (spliceNodes d x.base ps cut)
  let fits := fun (k : Nat) => match motion k with
    | some m => pointsWithin d a (nodesOf m.1 none)
    | none => true
  let k := if rest then 0 else (leastFrom fits 20 0 (2 ^ 20)).getD 0
  let at' := fun (b : Nat) => (planState x.base x.base.path b).1
  match motion k with
  | none =>
    let p := planFrom x.base x.frame
    some { plan := p, ends := at' x.base.len, cut := x.split.map (· - x.frame), clamped := true, scaled := false }
  | some (ps, dec, clamped) =>
    let n := piecesLen ps
    let ends := if n = 0 then x.state.1 else (piecesAt ps (f64Nat n)).1
    let cut := match x.split with
      | some b => if f64Lt ends (at' b) then none else leastStop (fun k => f64Le (at' b) (piecesAt ps (f64Nat k)).1) 32 0 n
      | none => none
    let segs := pointSegs d (x.base.segs.map Prod.fst) x.run.cmd.rsn (nodesOf ps cut)
    (withStops d a segs).map fun segs =>
      { plan := { segs := segs, len := n, decel := dec, path := motionSegs f64Zero (f64Nat 1) 0 ps 0, gauge := x.base.gauge }
        ends := ends, cut := cut, clamped := clamped, scaled := decide (0 < k) }

/-- DECEL_CLAMPED (R225). -/
def clampFlags (d : Dev) (a : Nat) : Dev :=
  ((d.flag .PLN_ARM_STAT_DECEL_CLAMPED a).flag .PLN_STATUS_DECEL_CLAMPED).event .DECEL_CLAMPED srcPlanner a

/-- Add a result flag once. -/
def withFlag (flags bitNo : Nat) : Nat := if flags.testBit bitNo then flags else flags + 2 ^ bitNo

/-- Decouple every follower of axis set `a` (R233, R239): the descriptors of a stop function. -/
def forcedOut (d : Dev) (a : Nat) : List (Nat × Option Couple) :=
  (slotsOf d a).filterMap fun s => (coupleOf d s).map fun c =>
    (s, if c.phase = .waiting then none
        else some { c with leaving := some (match c.cam with
            | some i => (camOf d i).foldl (fun _ p => p.m) 1
            | none => c.len), forced := true, nextCam := none, outcome := none })

/-- The commands a staged splice of axis set `a` will answer. -/
def stagedAnswers (d : Dev) (a : Nat) : List (Nat × Nat) :=
  match stagedSplice d a with
  | some q => q.answer
  | none => []

/-- What becomes of a command a splice changes: moving on, stopping with a result, or coming to a hold. -/
def stageSplice (d : Dev) (a : Nat) (x : SpliceBase) (stopSet : Bool) (mode : RunMode) (change : PlanCmd → PlanCmd)
    (answer : List (Nat × Nat)) (couples : List (Nat × Option Couple)) : Dev :=
  match x.splice d a stopSet (decide (mode ≠ .moving)) with
  | none => d
  | some p =>
    let flags := fun (last : Bool) (n : Nat) =>
      let n := if p.clamped ∧ last then withFlag n 7 else n
      if p.scaled then withFlag n 5 else n
    let put := fun (last : Bool) (r : Run) (q : Plan) (z : Nat) (m : RunMode) (held : Option (Plan × F64 × Option Nat)) =>
      { r with cmd := change r.cmd, plan := q, zero := z, written := 0, fin := none, till := none, mode := m, flags := flags last r.flags
               hold := if m = .holding then held else none, track := if m = .moving ∧ r.mode = .moving then r.track else none }
    let code := match mode with
      | .stopping c => some c
      | _ => none
    let parts : CommitPart := match x.next, p.cut with
      | some n, some c =>
        let r := put false x.run p.plan x.fs .moving none
        { axset := a, kind := .splice, run := { r with till := some c }
          next := some (put true n (planFrom p.plan c) (frameAdd x.fs c) mode (some (n.plan, p.ends, none))) }
      | n, _ =>
        { axset := a, kind := .splice, run := put true x.run p.plan x.fs mode (some (x.base, p.ends, x.split))
          next := if code.isSome then none else n, drop := code.bind fun c => n.map fun n => (n.cmd, c) }
    let d := if p.clamped then clampFlags d a else d
    let d := d.each answer fun d q => startCmd d q.1 q.2
    stage d { fs := x.fs, fixed := true, parts := [{ parts with answer := answer, couples := couples }] }

/-- An IMMEDIATE Planner command completes at once. -/
def answerNow (d : Dev) (sq rsn : Nat) (r : PlanResult) : Dev := complete d sq rsn { status := 0, result := r.code }

/-- OVERRIDE commands whose splice a stop replaces complete ABORTED (R243); the other commands that splice would answer. -/
def abortOverrides (d : Dev) (a : Nat) : Dev × List (Nat × Nat) :=
  let isOverride := fun (q : Nat × Nat) => (inFlight d q.1 q.2).any fun c => decide (c.opcode = 0x20)
  let all := stagedAnswers d a
  (d.each (all.filter isOverride) fun d q => answerNow d q.1 q.2 .aborted, all.filter fun q => !isOverride q)

/-- A running command of axis set `a` ends where it stands (no motion is under way), with the command that would blend into it, and the next
one follows. -/
def endHere (d : Dev) (a code : Nat) : Dev :=
  let x := armOf d a
  match x.run with
  | none => d
  | some r =>
    let d := endRun (onArm d a fun y => { y with run := none, next := none, safety := decide (code = 2) }) r code d.frameNo
    let d := match x.next with
      | some n => complete d n.cmd.sq n.cmd.rsn { status := 0, result := code }
      | none => d
    headReached d a 33

/-- OVERRIDE (R224, R225): SPEED_PCT and LIMSET apply to every queued command, and to the running one by a splice. With a stop on its way it
ends ABORTED (R243); during a drain stop or a hold it applies to what follows. -/
def execOverride (sq : Fin 17) (rsn : Word32) (s : State) : Host.Outcome State Fault Refusal :=
  s.run fun d =>
    match flightOp d sq rsn.toNat 0x20 with
    | none => d
    | some c =>
      let a := bodyAt c.body 0
      let change := fun (p : PlanCmd) =>
        { p with pct := if (bodyAt c.body 1).testBit 0 then bodyAt c.body 2 else p.pct
                 limset := if (bodyAt c.body 1).testBit 1 then bodyAt c.body 3 else p.limset }
      let queued := fun (d : Dev) => onArm (unplan d a) a fun x => { x with queue := x.queue.map change }
      let ok := fun (d : Dev) => answerNow d c.sq c.rsn .ok
      let changeRun := fun (r : Run) => { r with cmd := change r.cmd }
      let changeHeld := fun (d : Dev) =>
        let d := onArm d a fun x => { x with run := x.run.map changeRun, next := x.next.map changeRun }
        onPln d fun p => { p with staged := p.staged.map fun k => { k with parts := k.parts.map fun q =>
          if q.axset = a then { q with run := changeRun q.run, next := q.next.map changeRun } else q } }
      showPlan (match setMode d a with
        | none => ok (queued d)
        | some .moving => match spliceBase d a with
          | some x =>
            let d := queued d
            stageSplice d a { x with run := changeRun x.run, next := x.next.map changeRun } false .moving change
              (stagedAnswers d a ++ [(c.sq, c.rsn)]) []
          | none => d
        | some (.stopping code) => if code = 3 then ok (queued d) else answerNow d c.sq c.rsn .aborted
        | some .coupling => ok (queued d)
        | some _ => ok (changeHeld (queued d)))

/-- What a stop does to couplings of axis set `a` while a coupling command runs: not yet begun, it ends; engaging, it disengages. -/
def dropCouples (d : Dev) (cs : List (Nat × Option Couple)) : Dev :=
  d.each cs fun d q => onPln d fun p =>
    { p with couples := SMap.set none p.couples q.1 (q.2.map fun c => { c with start := earliest d }) }

/-- Stop axis set `a` along its path with stop set 15 (R232): in mode `mode`, answering what the splice it replaces would have answered, and
`answer`. -/
def stopSplice (d : Dev) (a : Nat) (mode : RunMode) (answer : List (Nat × Nat)) (couples : List (Nat × Option Couple)) : Dev :=
  match spliceBase d a with
  | none => d
  | some x =>
    let (d, rest) := if mode = .holding then (d, stagedAnswers d a) else abortOverrides d a
    stageSplice d a x true mode id (rest ++ answer) couples

/-- STOP_AND_FLUSH: STOP_ARM KIND 0 (R232). -/
def execStopAndFlush (sq : Fin 17) (rsn : Word32) (s : State) : Host.Outcome State Fault Refusal :=
  s.run fun d =>
    match flightOp d sq rsn.toNat 0x21 with
    | none => d
    | some c =>
      if bodyAt c.body 1 ≠ 0 then d
      else
        let a := bodyAt c.body 0
        let ok := fun (d : Dev) => answerNow d c.sq c.rsn .ok
        let d := flushQueue d a .aborted
        showPlan (match setMode d a with
          | none => ok d
          | some .held => ok (endHere d a 1)
          | some .coupling => ok (endHere (dropCouples d (forcedOut d a)) a 1)
          | some (.stopping _) => ok d
          | some _ => stopSplice d a (.stopping 1) [(c.sq, c.rsn)] [])

/-- FEED_HOLD: STOP_ARM KIND 1 (R232). -/
def execFeedHold (sq : Fin 17) (rsn : Word32) (s : State) : Host.Outcome State Fault Refusal :=
  s.run fun d =>
    match flightOp d sq rsn.toNat 0x21 with
    | none => d
    | some c =>
      if bodyAt c.body 1 ≠ 1 then d
      else
        let a := bodyAt c.body 0
        showPlan (if setMode d a = some .moving then stopSplice d a .holding [(c.sq, c.rsn)] []
          else answerNow d c.sq c.rsn .ok)

/-- RESUME: STOP_ARM KIND 2 (R232): the arm accelerates along the same path from rest, with the limits of the running command. -/
def execResume (sq : Fin 17) (rsn : Word32) (s : State) : Host.Outcome State Fault Refusal :=
  s.run fun d =>
    match flightOp d sq rsn.toNat 0x21 with
    | none => d
    | some c =>
      if bodyAt c.body 1 ≠ 2 then d
      else
        let a := bodyAt c.body 0
        showPlan (match setMode d a, (armOf d a).run.bind fun r => r.hold.map fun h => (r, h) with
          | some .held, some (r, base, at', split) =>
            let k := pathTime base.path at' 64 f64Zero (f64Nat base.len)
            stageSplice d a
              { run := r, next := (armOf d a).next, base := base, split := split, fs := earliest d, frame := (f64Floor k).toNat
                state := (at', f64Zero, f64Zero) } false .moving id [(c.sq, c.rsn)] []
          | _, _ => answerNow d c.sq c.rsn .notHeld)

/-- A cap is above another, or ended. -/
def capRaised (old new : Option SpeedCap) : Bool :=
  match old, new with
  | some o, some n =>
    (match o.tcp, n.tcp with
      | some x, some y => decide (x < y)
      | some _, none => true
      | none, _ => false) || o.joints.any fun p => match n.joints.find? fun q => decide (q.1 = p.1) with
        | some q => decide (p.2 < q.2)
        | none => true
  | some _, none => true
  | none, _ => false

/-- SPEED_CAP: the caps the lanes pass for axis set `a` take effect (R226): planned speeds above them are slowed with stop set 15; a higher
cap or its end returns to the commanded speeds with the running limit set. -/
def execSpeedCap (a : Fin 32) (s : State) : Host.Outcome State Fault Refusal :=
  s.run fun d =>
    let new := capOf d a
    let old := SMap.get none d.pln.caps a
    let d := onPln d fun p => { p with caps := SMap.set none p.caps a new }
    showPlan (match setMode d a, spliceBase d a with
      | some .moving, some x =>
        let fast := f64Lt (slack (f64Nat 1)) (planOver d a x.base x.frame)
        if fast ∨ capRaised old new then stageSplice d a x fast .moving id (stagedAnswers d a) [] else d
      | _, _ => d)

/-- SAFETY_STOP_DECISION: a stop function is active for axis set `a` (R232, R233): its queue is flushed with SAFETY_STOP, its motion stops
along its path, and its followers are decoupled at the same frame. -/
def execSafetyStopDecision (a : Fin 32) (s : State) : Host.Outcome State Fault Refusal :=
  s.run fun d =>
    if !setStopped d a then d
    else
      let d := flushQueue d a .safetyStop
      let out := forcedOut d a
      showPlan (match setMode d a with
        | none => onArm (dropCouples d out) a fun x => { x with safety := true }
        | some .held => endHere (dropCouples d out) a 2
        | some .coupling => endHere (dropCouples d out) a 2
        | some (.stopping code) =>
          if code = 2 then d
          else if code = 3 then onArm (dropCouples d out) a fun x => { x with safety := true }
          else stopSplice d a (.stopping 2) [] out
        | some _ => stopSplice d a (.stopping 2) [] out)

/-! Couplings (R239, R241). -/

/-- The slot a coupling command names. -/
def coupleSlot (d : Dev) (a : Nat) (c : PlanCmd) : Option Nat := (slotsOf d a)[bodyAt c.body 0x11]?

/-- Slot `s` is uncoupled and its reference at rest. -/
def slotAtRest (d : Dev) (s : Nat) : Bool :=
  (coupleOf d s).isNone &&
    (if s < 128 then (let x := SMap.get ({} : MilJoint) d.mil.joints s; tiny x.vref && tiny x.aref)
     else (let x := SMap.get ({} : MilSlot) d.mil.slots (s - 128); tiny x.vref && tiny x.aref))

/-- Master `m` is lost and its image has come to rest (R242). -/
def imageAtRest (d : Dev) (m : Nat) : Bool :=
  let x := SMap.get ({} : MasterDyn) d.pln.masters m
  decide (0 < x.lostFr) && decide (x.v = f64Zero)

/-- A coupling command starts: its descriptors go to the store with its commit. -/
def startCouple (d : Dev) (a : Nat) (c : PlanCmd) (s : Nat) (x : Couple) : Dev := stageStart d a c {} 0 0 none [(s, some x)]

/-- The coupling of slot `s` ends without motion, and its command completes. -/
def endCouple (d : Dev) (a s : Nat) : Dev :=
  failHead (onPln d fun p => { p with couples := SMap.set none p.couples s none }) a .ok

/-- GEAR_IN (R239): the follower must be at rest. -/
def execGearIn (a : Fin 36) (s : State) : Host.Outcome State Fault Refusal :=
  s.run fun d =>
    match planReady d a 0x18 with
    | some (c, none) =>
      if badFields d a c then failHead d a .tableBad
      else match coupleSlot d a c with
      | none => d
      | some j =>
        if !slotAtRest d j then failHead d a .notAtRest
        else startCouple d a c j
          { axset := a, master := bodyAt c.body 0x10, num := bodyInt c.body 0x14, den := body32 c.body 0x18, len := body32 c.body 0x1C }
    | _ => d

/-- GEAR_OUT (R239, R242): a geared follower disengages over L master counts. -/
def execGearOut (a : Fin 36) (s : State) : Host.Outcome State Fault Refusal :=
  s.run fun d =>
    match planReady d a 0x19 with
    | some (c, none) =>
      if badFields d a c then failHead d a .tableBad
      else match (coupleSlot d a c).bind fun j => (coupleOf d j).map fun x => (j, x) with
      | none => failHead d a .ok
      | some (j, x) =>
        if x.cam.isSome then failHead d a .ok
        else if imageAtRest d x.master then endCouple d a j
        else startCouple d a c j { x with leaving := some (body32 c.body 0x1C), outcome := none }
    | _ => d

/-- CAM_IN (R241): a follower engages when the master passes E; with NEXT a running cam is switched at the end of its cycle. -/
def execCamIn (a : Fin 36) (s : State) : Host.Outcome State Fault Refusal :=
  s.run fun d =>
    match planReady d a 0x1A with
    | some (c, none) =>
      if badFields d a c then failHead d a .tableBad
      else match coupleSlot d a c with
      | none => d
      | some j =>
        let cam := bodyAt c.body 0x12
        let scale := f64OfRatio (bodyInt c.body 0x18) 65536
        let offset := bodyInt c.body 0x1C
        if (bodyAt c.body 0x13).testBit 0 then
          match coupleOf d j with
          | some x =>
            match x.cam.bind fun i => (camOf d i).getLast?, (camOf d cam).head? with
            | some l, some f =>
              if l.y1 = f.y1 ∧ l.y2 = f.y2 ∧ l.y = f.y ∧ x.phase = .inForce then
                startCouple d a c j { x with nextCam := some (cam, scale, offset), outcome := none }
              else failHead d a .camMismatch
            | _, _ => failHead d a .camMismatch
          | none => failHead d a .camMismatch
        else if !slotAtRest d j then failHead d a .notAtRest
        else startCouple d a c j
          { axset := a, master := bodyAt c.body 0x10, cam := some cam, mark := body32 c.body 0x14, scale := scale, offset := offset }
    | _ => d

/-- CAM_OUT (R241): a follower disengages when the master passes D. -/
def execCamOut (a : Fin 36) (s : State) : Host.Outcome State Fault Refusal :=
  s.run fun d =>
    match planReady d a 0x1B with
    | some (c, none) =>
      if badFields d a c then failHead d a .tableBad
      else match (coupleSlot d a c).bind fun j => (coupleOf d j).map fun x => (j, x) with
      | none => failHead d a .ok
      | some (j, x) =>
        if x.cam.isNone then failHead d a .ok
        else if imageAtRest d x.master then endCouple d a j
        else startCouple d a c j { x with leaving := some 0, mark := body32 c.body 0x14, outcome := none }
    | _ => d

/-! Zones, SYNC, AT_FRAME, end frames. -/

/-- ZONE_RELEASE (R236): an arm at rest releases zones at once; with AT_FRAME or SYNC at its start frame, with its group (R213). -/
def execZoneRelease (a : Fin 16) (s : State) : Host.Outcome State Fault Refusal :=
  s.run fun d =>
    match planReady d a 0x1C with
    | some (c, none) =>
      if badFields d a c then failHead d a .tableBad
      else if (waiting d a).isSome then d
      else if atFrame c ∨ (syncOf c).isSome then stageStart d a c {} 0 0 none []
      else
        let d := releaseZones (onArm d a fun x => { x with queue := x.queue.drop 1 }) a (zoneRel c)
        let flags := if c.noBlend then 64 else 0
        showPlan (headReached (complete d c.sq c.rsn { status := 0, result := flags, fin := d.frameNo }) a 33)
    | _ => d

/-- ZONE_GRANT: the zones arm `a` waits for are granted, all at once, in admission order (R235, R236). -/
def execZoneGrant (a : Fin 16) (s : State) : Host.Outcome State Fault Refusal :=
  s.run fun d => if (waiting d a).isSome then showPlan (grantZones d a) else d

/-- ZONE_TIMEOUT: a request has waited longer than PLN_CFG.ZONE_WAIT (R235). -/
def execZoneTimeout (a : Fin 16) (s : State) : Host.Outcome State Fault Refusal :=
  s.run fun d =>
    match waiting d a with
    | some c =>
      let ms := d.rd .PLN_CFG2_ZONE_WAIT
      match c.zoneSince with
      | some t => if ms ≠ 0 ∧ t + 1000000 * ms < d.tb.ext then failHead d a .zoneTimeout else d
      | none => d
    | none => d

/-- The head commands of a SYNC group that wait for it, with their zones (R213). -/
def syncHeads (d : Dev) (tag : Nat) : List (Nat × PlanCmd) :=
  (List.range 36).filterMap fun a => match (armOf d a).run, (armOf d a).queue with
    | none, c :: _ =>
      if (syncOf c).map Prod.fst = some tag ∧ !c.synced ∧ (c.granted ∨ zonesMissing d a c = 0) then some (a, c) else none
    | _, _ => none

/-- SYNC_START: COUNT commands with one SYNC_TAG stand at the heads of their queues, and start together (R213). -/
def execSyncStart (tag : BitVec 16) (s : State) : Host.Outcome State Fault Refusal :=
  s.run fun d =>
    let hs := syncHeads d tag.toNat
    let due := hs.filter fun p => match syncOf p.2 with
      | some g => decide (g.2 ≤ (hs.filter fun q => decide (syncOf q.2 = some g)).length)
      | none => false
    showPlan (d.each due fun d p => onArm d p.1 fun x => { x with queue := match x.queue with
      | c :: rest => { c with synced := true } :: rest
      | [] => [] })

/-- AT_FRAME_START: a command with AT_FRAME at the head of its queue keeps its target frame, or ends TOO_LATE if that lay less than 32
frames ahead when it reached the head (R213). -/
def execAtFrameStart (a : Fin 36) (s : State) : Host.Outcome State Fault Refusal :=
  s.run fun d =>
    match (armOf d a).run, (armOf d a).queue with
    | none, c :: rest =>
      match c.headAt with
      | some h =>
        if !atFrame c ∨ c.startAt.isSome then d
        else
          let f := body32 c.body 0xC
          if frameDiff f h < 32 then failHead d a .tooLate
          else showPlan (onArm d a fun x => { x with queue := { c with startAt := some f } :: rest })
      | none => d
    | _, _ => d

/-- A move that asked to blend and ended at rest: the next command's result carries NO_BLEND (R222), the first to be admitted where none
waits. -/
def missBlend (r : Run) (x : ArmPlan) : ArmPlan :=
  if isMove r.cmd.opcode ∧ bodyAt r.cmd.body 1 / 64 = 1 then
    match x.queue with
    | c :: rest => { x with queue := { c with noBlend := true } :: rest }
    | [] => { x with missed := true }
  else x

/-- The coupling a coupling command acts on, with its outcome. -/
def coupleDone (d : Dev) (a : Nat) (r : Run) : Option (Nat × Couple × Nat × Nat) :=
  (coupleSlot d a r.cmd).bind fun j => (coupleOf d j).bind fun x => x.outcome.map fun o => (j, x, o.1, o.2)

/-- A coupling command's phase has ended (R212, R241): its outcome is taken, and the coupling stands or goes. -/
def endCoupling (d : Dev) (a : Nat) (r : Run) : Dev :=
  match coupleDone d a r with
  | none => d
  | some (j, x, code, f) =>
    if frameDiff d.frameNo f < 0 then d
    else
      let keep := match x.phase with
        | .waiting => none
        | .disengaging => if code = 0 then none else some { x with phase := CouplePhase.inForce, outcome := none }
        | _ => some { x with outcome := none }
      let d := onPln d fun p => { p with couples := SMap.set none p.couples j keep }
      let d := onArm d a fun y => { y with run := none }
      let d := if code = 0 then releaseZones d a (zoneRel r.cmd) else d
      headReached (endRun d r code f) a 33

/-- COMMAND_END_FRAME: the running command of axis set `a` has reached its end frame (R212, R236). -/
def execCommandEndFrame (a : Fin 36) (s : State) : Host.Outcome State Fault Refusal :=
  s.run fun d =>
    let x := armOf d a
    match x.run with
    | none => d
    | some r =>
      showPlan (if r.mode = .coupling then endCoupling d a r
        else match r.fin with
          | none => d
          | some f =>
            if frameDiff d.frameNo f < 0 then d
            else match r.mode with
              | .moving =>
                let d := onArm d a fun y =>
                  if r.till.isSome then { y with run := y.next, next := none } else missBlend r { y with run := none }
                headReached (endRun (releaseZones d a (zoneRel r.cmd)) r 0 f) a 33
              | .stopping code =>
                let d := onArm d a fun y => { y with run := none, safety := y.safety || decide (code = 2), drained := decide (code = 3) }
                headReached (endRun d r code f) a 33
              | .holding => onArm d a fun y => { y with run := some { r with mode := .held } }
              | _ => d)

/-! What other blocks ask of the Planner. -/

/-- The store of axis set `a` has drained (R231): its running command comes to rest at frame `fin` and ends DRAINED there. A command whose blend
had begun is the one that drains; one whose blend had not begun is planned again. A splice on its way is dropped, and what it answers is
answered: an override applies to the next command (R243). -/
def planDrained (d : Dev) (a fin : Nat) : Dev :=
  let x := armOf d a
  let d := d.each (stagedAnswers d a) fun d q => answerNow d q.1 q.2 .ok
  let d := unstage d a
  let drain := fun (r : Run) => { r with mode := .stopping 3, fin := some fin, till := none, hold := none }
  match x.run, x.next with
  | none, _ => d
  | some r, none => onArm d a fun y => { y with run := some (drain r) }
  | some r, some n =>
    if blendBegun x d.frameNo then
      endRun (releaseZones (onArm d a fun y => { y with run := some (drain n), next := none }) a (zoneRel r.cmd)) r 0 n.zero
    else onArm d a fun y => { y with run := some (drain r), next := none, queue := { n.cmd with headAt := none } :: y.queue }

/-- Cancel of a MOTION command (R243, R434): removed while it waits in its queue, with its commit, and its grant passes to the next waiter;
false once it runs. -/
def cancelPlan (d : Dev) (sq rsn : Nat) : Option Dev :=
  let mine := fun (c : PlanCmd) => decide (c.key = (sq, rsn))
  match (List.range 36).find? fun a => (armOf d a).queue.any mine with
  | none => none
  | some a =>
    let d := onPln d fun p => { p with staged := p.staged.filter fun k => !k.parts.any fun q => mine q.run.cmd && decide (q.kind ≠ .splice) }
    let d := d.each ((armOf d a).queue.filter mine) fun d c => giveBack d a c
    let d := onArm d a fun x => { x with queue := x.queue.filter fun c => !mine c }
    some (showPlan (grantWaiting (headReached d a 33)))

/-- A change of the frame period (R243): all queues are flushed with ABORTED, zones released, couplings ended, the store cleared. -/
def planPeriod (d : Dev) : Dev :=
  let d := d.each (List.range 36) fun d a =>
    let x := armOf d a
    let d := flushQueue d a .aborted
    let d := onArm d a fun y => { y with run := none, next := none, missed := false }
    d.each (x.run.toList ++ x.next.toList) fun d r => endRun d r 1 d.frameNo
  let d := d.each (List.range 32) fun d z => d.wr .PLN_ZONE_OWNER z 0x3F
  showPlan (onPln d fun p => { p with staged := [], couples := [], rings := [], entries := [] })

/-- A master in use takes feedback port `k` (R353): a follower or a tracking command uses it. -/
def portUsed (d : Dev) (k : Nat) : Bool :=
  let isPort := fun (m : Nat) => decide (d.rd .PLN_MST_CFG_SRC m = 1 ∧ d.rd .PLN_MST_CFG_IDX m = k)
  (d.pln.couples.any fun p => match p.2 with
    | some c => isPort c.master
    | none => false) ||
  (List.range 16).any fun a => match (armOf d a).run with
    | some r => tracks r.cmd && isPort (d.rd .PLN_TRK_MASTER a)
    | none => false

end Sys2Proof.Machine
end

