-- ==== Sys2Proof/Machine/PlanTables.lean ====
section
/-!
DEFINITION. Tables of the Planner (R214, R215), QUERY_ARM (R209, R433) and the Planner's admission checks (R209, R210).
-/
namespace Sys2Proof.Machine

/-! Tables. -/

/-- A finite value above zero. -/
def positive (x : F64) : Bool := f64Finite x && f64Lt f64Zero x

/-- Three s32 of a table. -/
def v3At (b : List Byte) (i : Nat) : V3 := ⟨bodyInt b i, bodyInt b (i + 4), bodyInt b (i + 8)⟩

/-- An arm model from its 752 bytes (Table 7-8). -/
def modelOfBytes (b : List Byte) : ArmModel :=
  { ikKind := bodyAt b 1
    base := (List.range 6).map fun i => wordAt b (8 + 8 * i)
    tool := (List.range 6).map fun i => wordAt b (0x38 + 8 * i)
    joints := (List.range (min 8 (bodyAt b 0))).map fun i =>
      let o := 0x70 + 80 * i
      { prismatic := decide (bodyAt b o = 1), jointNo := bodyAt b (o + 1), a := wordAt b (o + 8), alpha := wordAt b (o + 16)
        dOff := wordAt b (o + 24), theta := wordAt b (o + 32), scale := wordAt b (o + 40), vmax := wordAt b (o + 48)
        amax := wordAt b (o + 56), jmax := wordAt b (o + 64) } }

/-- Within 1 µm of zero, mm (R215). -/
def within1um (w : BitVec 64) : Bool := f64Le (f64Abs (f64OfBits w)) (f64Frac 1 1000)

/-- An angle within 1 µrad of a multiple of π. -/
def alongAxis (w : BitVec 64) : Bool := f64Le (f64Abs (f64Sin (f64OfBits w))) (f64Frac 1 1000000)

/-- An angle within 1 µrad of an odd multiple of π/2. -/
def acrossAxis (w : BitVec 64) : Bool := f64Le (f64Abs (f64Cos (f64OfBits w))) (f64Frac 1 1000000)

/-- The DH values have the structure IK_KIND names (R215): six revolute joints of which the axes of the last three meet in one point; four
joints on parallel axes, three of them revolute and one prismatic, the last two in line; three prismatic joints at right angles, those
after them revolute. -/
def hasStructure (m : ArmModel) : Bool :=
  let js := m.joints
  match m.ikKind, js with
  | 0, _ => true
  | 1, [_, _, _, _, j4, j5] =>
    (js.all fun j => !j.prismatic) && within1um j4.a && within1um j5.a && within1um j4.dOff && !alongAxis j4.alpha && !alongAxis j5.alpha
  | 2, [j0, j1, j2, j3] =>
    !j0.prismatic && !j1.prismatic && decide (j2.prismatic ≠ j3.prismatic) && alongAxis j1.alpha && alongAxis j2.alpha &&
      alongAxis j3.alpha && within1um j3.a
  | 3, j0 :: j1 :: j2 :: rest =>
    j0.prismatic && j1.prismatic && j2.prismatic && (rest.all fun j => !j.prismatic) && acrossAxis j1.alpha && acrossAxis j2.alpha &&
      acrossAxis j1.theta
  | _, _ => false

/-- The checks of R215 for the model of arm `i`. -/
def modelGood (d : Dev) (i : Nat) (b : List Byte) : Bool :=
  let m := modelOfBytes b
  let others := ((List.range 16).filter fun a => decide (a ≠ i)).flatMap fun a => slotsOf d a
  decide (1 ≤ bodyAt b 0 ∧ bodyAt b 0 ≤ 8) && decide (m.ikKind ≤ 3) &&
    (m.joints.all fun j =>
      decide (j.jointNo < 128) && !others.contains j.jointNo && f64Finite (f64OfBits j.scale) &&
        f64Lt f64Zero (f64Abs (f64OfBits j.scale)) && positive (f64OfBits j.vmax) && positive (f64OfBits j.amax) &&
        positive (f64OfBits j.jmax)) &&
    hasStructure m

/-- A limit set from its 64 bytes (Table 7-9). -/
def limitsOfBytes (b : List Byte) : LimitSet :=
  { vc := fpAt b 0, ac := fpAt b 8, dc := fpAt b 16, jc := fpAt b 24, vr := fpAt b 0x20, ar := fpAt b 0x28, jr := fpAt b 0x30
    vPct := bodyAt b 0x38, aPct := bodyAt b 0x39, dPct := bodyAt b 0x3A, jPct := bodyAt b 0x3B, blendUm := body32 b 0x3C }

/-- No limit is zero or less (R215), and percentages lie in 1 to 100. -/
def limitsGood (l : LimitSet) : Bool :=
  [l.vc, l.ac, l.dc, l.jc, l.vr, l.ar, l.jr].all positive && [l.vPct, l.aPct, l.dPct, l.jPct].all fun p => decide (1 ≤ p ∧ p ≤ 100)

/-- Master positions rise strictly from 0 (R215). -/
def camGood (ps : List CamPoint) : Bool :=
  (match ps.head? with
    | some p => decide (p.m = 0)
    | none => false) && (pairsIn ps).all fun q => decide (q.1.m < q.2.m)

/-- The zone table from its bytes (R214). -/
def zonesOfBytes (b : List Byte) : ZoneTable :=
  { margin := body32 b 4, boxes := (List.range (min 32 (body32 b 0))).map fun i => (v3At b (8 + 24 * i), v3At b (20 + 24 * i)) }

/-- No box has a minimum above its maximum (R215), and the count is 1 to 32. -/
def zonesGood (b : List Byte) : Bool :=
  decide (1 ≤ body32 b 0 ∧ body32 b 0 ≤ 32) &&
    (zonesOfBytes b).boxes.all fun q => decide (q.1.x ≤ q.2.x ∧ q.1.y ≤ q.2.y ∧ q.1.z ≤ q.2.z)

/-- Every command queued, running or blending in axis set `a`. -/
def armCmds (d : Dev) (a : Nat) : List PlanCmd :=
  let x := armOf d a
  (match x.run with
    | some r => [r.cmd]
    | none => []) ++ (match x.next with
    | some r => [r.cmd]
    | none => []) ++ x.queue

/-- A follower is coupled to cam `i`, or a queued command names it. -/
def camUsed (d : Dev) (i : Nat) : Bool :=
  (d.pln.couples.any fun p => match p.2 with
    | some c => decide (c.cam = some i) || (match c.nextCam with
      | some n => decide (n.1 = i)
      | none => false)
    | none => false) ||
  (List.range 36).any fun a => (armCmds d a).any fun c => decide (c.opcode = 0x1A ∧ bodyAt c.body 0x12 = i)

/-- The table may not be replaced now (Table 7-7). -/
def tableInUse (d : Dev) (kind i : Nat) : Bool :=
  match kind with
  | 1 => !(armCmds d i).isEmpty || decide (stateOf d i ≠ 0)
  | 2 => !(armCmds d i).isEmpty
  | 3 => (List.range 16).any fun a => (armCmds d a).any fun c => decide (c.opcode = 0x13 ∧ bodyAt c.body 0x10 = i)
  | 4 => camUsed d i
  | 5 => (List.range 32).any (fun z => decide (d.rd .PLN_ZONE_OWNER z ≠ 0x3F)) || (List.range 16).any fun a => (waiting d a).isSome
  | _ => false

/-- LEN and content of a table are good (R214, R215, Table 7-7). -/
def tableGood (d : Dev) (kind i : Nat) (b : List Byte) : Bool :=
  match kind with
  | 1 => decide (i < 16 ∧ b.length = 752) && modelGood d i b
  | 2 => decide (i < 36 ∧ b.length = 1024) && (List.range 16).all fun s => limitsGood (limitsOfBytes (b.drop (64 * s)))
  | 3 => decide (i < 16 ∧ b.length % 24 = 0 ∧ 48 ≤ b.length ∧ b.length ≤ 98304)
  | 4 => decide (i < 64 ∧ (b.length - 16) % 32 = 0 ∧ 80 ≤ b.length ∧ b.length ≤ 65552) && camGood (camOfBytes b)
  | 5 => decide (i = 0 ∧ b.length = 776) && zonesGood b
  | _ => false

/-- A table takes effect. -/
def putTable (d : Dev) (kind i : Nat) (b : List Byte) : Dev :=
  onPln d fun p => match kind with
    | 1 => { p with models := SMap.set none p.models i (some (modelOfBytes b)) }
    | 2 => { p with limits := SMap.set [] p.limits i ((List.range 16).map fun s => limitsOfBytes (b.drop (64 * s))) }
    | 3 => { p with paths := SMap.set [] p.paths i ((List.range (b.length / 24)).map fun k => (v3At b (24 * k), v3At b (24 * k + 12))) }
    | 4 => { p with cams := SMap.set [] p.cams i b }
    | _ => { p with zones := zonesOfBytes b }

/-- LOAD_TABLE: the table named by a command in flight, as its bytes read from host memory (R214, R215). -/
def execLoadTable (sq : Fin 17) (rsn : Word32) (bytes : List Byte) (s : State) : Host.Outcome State Fault Refusal :=
  s.run fun d =>
    match flightOp d sq rsn.toNat 0x28 with
    | none => d
    | some c =>
      let kind := bodyAt c.body 0
      let i := bodyAt c.body 1
      if tableInUse d kind i then answerNow d c.sq c.rsn .tableInUse
      else if bytes.length = body32 c.body 4 ∧ crc32c bytes = body32 c.body 0x10 ∧ tableGood d kind i bytes then
        answerNow (showPlan (putTable d kind i bytes)) c.sq c.rsn .ok
      else answerNow d c.sq c.rsn .tableBad

/-- QUERY_ARM: the state of an axis set in the completion (R209, R433). -/
def execQueryArm (sq : Fin 17) (rsn : Word32) (s : State) : Host.Outcome State Fault Refusal :=
  s.run fun d =>
    match flightOp d sq rsn.toNat 0x30 with
    | none => d
    | some c =>
      let a := bodyAt c.body 0
      let d := showArm d a
      let stat := d.rd .PLN_ARM_STAT_STATE a + 2 ^ 4 * d.rd .PLN_ARM_STAT_QUEUED a + 2 ^ 16 * d.rd .PLN_ARM_STAT_DECEL_CLAMPED a +
        2 ^ 17 * d.rd .PLN_ARM_STAT_DRAINED a + 2 ^ 18 * d.rd .PLN_ARM_STAT_STORE_LOW a + 2 ^ 19 * d.rd .PLN_ARM_STAT_CAPPED a +
        2 ^ 24 * d.rd .PLN_ARM_STAT_COUPLED a
      let ends := (List.range 8).flatMap fun i => match (slotsOf d a)[i]? with
        | some j => bytesLE 4 (fieldOf 32 (saturate 32 (f64RoundAway (plannedEnd d a j))))
        | none => bytesLE 4 0
      complete d c.sq c.rsn
        { status := 0, query := bytesLE 4 stat ++ bytesLE 4 (d.rd .PLN_ARM_ZONES_HELD a) ++ bytesLE 4 (d.rd .PLN_ARM_ZWAIT_REQ a) ++
            bytesLE 4 (d.rd .PLN_ARM_DEPTH_FRAMES a) ++ ends }

/-! Admission. -/

/-- Assigned bytes of a command's body, as offset and size (Tables 7-3 to 7-5, 14-4). -/
def assigned (op : Nat) : List (Nat × Nat) :=
  match op with
  | 0x10 => [(0, 48)]
  | 0x11 => [(0, 0x29)]
  | 0x12 => [(0, 0x29)]
  | 0x13 => [(0, 0x11), (0x12, 5)]
  | 0x18 => [(0, 0x12), (0x14, 12)]
  | 0x19 => [(0, 0x12), (0x1C, 4)]
  | 0x1A => [(0, 0x20)]
  | 0x1B => [(0, 0x12), (0x14, 4)]
  | 0x1C => [(0, 0x10)]
  | 0x20 => [(0, 4)]
  | 0x21 => [(0, 2)]
  | 0x28 => [(0, 2), (4, 16)]
  | 0x30 => [(0, 1)]
  | 0x01 => [(0, 1), (4, 4)]
  | 0x03 => [(8, 8)]
  | 0x04 => [(4, 6), (0x10, 8)]
  | 0x08 => [(0, 1)]
  | 0x09 => [(0, 5), (8, 1)]
  | 0x0A => [(0, 1)]
  | 0x40 => [(4, 16)]
  | 0x42 => [(8, 12)]
  | 0x43 => [(0, 4)]
  | _ => []

/-- Every byte that no table assigns is zero (R209, R426). -/
def unassignedZero (op : Nat) (b : List Byte) : Bool :=
  (List.range 48).all fun i => (assigned op).any (fun r => decide (r.1 ≤ i ∧ i < r.1 + r.2)) || decide (bodyAt b i = 0)

/-- AXSET of a Planner command. -/
def axsetOf (b : List Byte) : Nat := bodyAt b 0

/-- The axis set exists and is enabled (Table 7-6). -/
def axsetGood (d : Dev) (a : Nat) : Bool :=
  if a < 16 then (modelOf d a).isSome else if a < 32 then d.on .STP_CTRL_RUN (a - 16) else decide (a < 36)

/-- Master `m` is configured. -/
def masterSet (d : Dev) (m : Nat) : Bool := decide (m < 8) && d.on .PLN_MST_CFG_SRC m

/-- The reserved bits of a MOTION command are zero (R209, Tables 7-3 and 7-4): FLAGS bit 7, START where neither AT_FRAME nor SYNC gives it a
content and above COUNT with SYNC, and CFLAGS above NEXT. -/
def reservedZero (op : Nat) (b : List Byte) : Bool :=
  let fl := bodyAt b 3
  !fl.testBit 7 && (fl.testBit 5 || (if fl.testBit 6 then decide (bodyAt b 0xE / 32 = 0 ∧ bodyAt b 0xF = 0) else decide (body32 b 0xC = 0))) &&
    (decide (op ≠ 0x1A) || decide (bodyAt b 0x13 ≤ 1))

/-- Tables and masters a MOTION command names are there (Table 7-6). -/
def tablesSet (d : Dev) (op : Nat) (b : List Byte) : Bool :=
  match op with
    | 0x13 => !(SMap.get [] d.pln.paths (bodyAt b 0x10)).isEmpty
    | 0x18 => masterSet d (bodyAt b 0x10)
    | 0x19 => masterSet d (bodyAt b 0x10)
    | 0x1A => masterSet d (bodyAt b 0x10) && !(camOf d (bodyAt b 0x12)).isEmpty
    | 0x1B => masterSet d (bodyAt b 0x10)
    | _ => true

/-- The Planner's admission checks for a command, in the order of Table 7-6: the reason code of R428, 0 if it passes. -/
def planAdmission (d : Dev) (op : Nat) (b : List Byte) : Nat :=
  let a := axsetOf b
  let motion := decide (0x10 ≤ op ∧ op ≤ 0x1C)
  let imm := decide (op = 0x20 ∨ op = 0x21)
  let zones := body32 b 4 ||| body32 b 8
  if !unassignedZero op b then 3
  else if op = 0x28 then 0
  else if !axsetGood d a then 4
  else if motion ∧ 32 ≤ (armOf d a).queue.length then 5
  else if motion ∧ ((limitSetOf d a (bodyAt b 1 % 16)).isNone ∨ bodyAt b 1 % 16 = 15 ∨ bodyAt b 1 / 16 % 4 = 2) then 6
  else if op = 0x20 ∧ (bodyAt b 1).testBit 1 ∧ ((limitSetOf d a (bodyAt b 3)).isNone ∨ bodyAt b 3 = 15) then 6
  else if motion ∧ !tablesSet d op b then 7
  else if motion ∧ zones ≠ 0 ∧ (16 ≤ a ∨ 2 ^ d.pln.zones.boxes.length ≤ zones) then 8
  else if motion ∧ !reservedZero op b then 3
  else if isCart op ∧ 16 ≤ a then 3
  else if (0x18 ≤ op ∧ op ≤ 0x1B) ∧ (slotsOf d a).length ≤ bodyAt b 0x11 then 3
  else if op = 0x20 ∧ (bodyAt b 1 / 4 ≠ 0 ∨ ((bodyAt b 1).testBit 0 ∧ !decide (1 ≤ bodyAt b 2 ∧ bodyAt b 2 ≤ 100))) then 3
  else if op = 0x21 ∧ 2 < bodyAt b 1 then 3
  else if (motion ∨ imm) ∧ d.mode ≠ .run ∧ d.mode ≠ .degraded then 9
  else if motion ∧ d.on .GRP_STATUS_QUARANTINED then 9
  else 0

end Sys2Proof.Machine
end

