-- ==== Sys2Proof/Machine/Power.lean ====
section
/-!
DEFINITION. The power and reset supervisor, chapter 17: supplies and converters (R486 to R490), resets and their history (R491 to
R493), clocks (R496), temperatures (R498, R499), and the debug port's unlock (R503, R504).
-/
namespace Sys2Proof.Machine

/-- Change the supervisor's own state. -/
def onPwr (d : Dev) (f : PowerState → PowerState) : Dev := { d with pwr := f d.pwr }

/-- Register fields of the PWR_ block. -/
def isPwr (f : RegField) : Bool := decide (0xC000 ≤ f.desc.base ∧ f.desc.base < 0xD000)

/-- Causes that hold lane 0 to 2 or the shared blocks (3) in reset. -/
def heldBy (d : Dev) (i : Nat) : List Nat := SMap.get [] d.pwr.held i

/-- Add or remove a cause. -/
def setHeld (d : Dev) (i cause : Nat) (on : Bool) : Dev :=
  let rest := (heldBy d i).filter fun c => decide (c ≠ cause)
  onPwr d fun p => { p with held := SMap.set [] p.held i (if on then rest ++ [cause] else rest) }

/-- Seconds since the last device reset release. -/
def uptimeS (d : Dev) : Nat := (d.rd .PWR_UPTIME_LO_MS + 2 ^ 32 * d.rd .PWR_UPTIME_HI_MS) / 1000

/-- Enter a reset into the history, newest first (R493); `scope` 0 device, 1 to 3 a lane, 4 shared. -/
def logReset (d : Dev) (cause scope : Nat) : Dev :=
  let up := uptimeS d
  let d := d.each ((List.range 15).map fun k => 14 - k) fun d k =>
    ((d.wr .PWR_RSTLOG_CAUSE (k + 1) (d.rd .PWR_RSTLOG_CAUSE k)).wr .PWR_RSTLOG_SCOPE (k + 1) (d.rd .PWR_RSTLOG_SCOPE k)).wr
      .PWR_RSTLOG_UPTIME_S (k + 1) (d.rd .PWR_RSTLOG_UPTIME_S k)
  let d := ((d.wr .PWR_RSTLOG_CAUSE 0 cause).wr .PWR_RSTLOG_SCOPE 0 scope).wrSat .PWR_RSTLOG_UPTIME_S 0 up
  onPwr d fun p => { p with unwritten := (p.unwritten ++ [(cause, scope)]).drop (p.unwritten.length + 1 - 16) }

/-- Count one more in byte `x` of PWR_RST_CNT1.LANE, saturating. -/
def countLaneReset (d : Dev) (x : Nat) : Dev :=
  let v := d.rd .PWR_RST_CNT1_LANE
  if v / 256 ^ x % 256 = 255 then d else d.put .PWR_RST_CNT1_LANE (v + 256 ^ x)

/-- The outputs of the lanes go to their reset level. -/
def lanesOff (d : Dev) : Dev := d.each Lane.all fun d l => setSafeOk (setGates d l 0) l false

/-- A device reset (R491): everything but the supervisor, flash, one-time-programmable cells and the boot count goes to its
state after reset; the debug port locks (R503); a stopped converter may start again (R488). -/
def deviceReset (d : Dev) (cause : Nat) : Dev :=
  let d := (logReset (lanesOff d) cause 0).inc .PWR_RST_CNT0_DEVICE
  let d := if cause = 2 then d.inc .PWR_RST_CNT0_RESET_PIN else d
  let d := d.each Lane.all fun d l => setHeld (d.wr .PWR_SUP_STAT_CONV_FAULT l.idx 0) l.idx 5 false
  let d : Dev := { regs := d.regs.filter fun c => isPwr c.field || decide (c.field = .SYS_BOOT_COUNT_N), out := d.out,
                   free := d.free, flash := d.flash, keys := d.keys, pwr := d.pwr }
  let d := ((d.put .PWR_RST_CAUSE_CAUSE cause).put .PWR_STATUS_SHARED_UP 0).put .PWR_STATUS_LANE_UP 0
  let d := ((d.put .PWR_STATUS_BUSY 0).put .PWR_UPTIME_LO_MS 0).put .PWR_UPTIME_HI_MS 0
  let d := (((d.put .PWR_BOOT_MS 0).put .PWR_DBG_STAT_UNLOCKED 0).put .PWR_DBG_STAT_LOCKOUT 0).put .PWR_DBG_STAT_FAILS 0
  showKeys (onPwr (d.put .PWR_DBG_STAT_LANE_AUTH 0) fun p => { p with challenge := none })

/-- What a lane keeps through its own reset: the times of its faults and reloads (R106, R108). -/
def freshLane (x : LaneState) : LaneState := { faultTimes := x.faultTimes, reloadTimes := x.reloadTimes }

/-- A reset of lane `l` (R491): logged and counted, a lane that was up stops, its bypass switch closes (R153), its outputs go off
(R73) and a lane in service is a LANE fault (R128). Causes 0xA and 0xB hold nothing. -/
def laneReset (d : Dev) (l : Lane) (cause : Nat) (e : Ev) : Dev :=
  if (heldBy d l.idx).contains cause then d
  else
    let d := countLaneReset (logReset d cause (1 + l.idx)) l.idx
    let d := if cause = 0xA ∨ cause = 0xB then d else setHeld d l.idx cause true
    if (d.rd .PWR_STATUS_LANE_UP).testBit l.idx then
      let d := (d.wrBit .PWR_STATUS_LANE_UP 0 l.idx false).wrBit .PWR_DBG_STAT_LANE_AUTH 0 l.idx false
      let d := (d.wr .LN_STATUS_FAULT_LATCH l.idx 0).wr .LN_STATUS_LANE_DEBUG l.idx 0
      let d := if inService d l then laneFault d l .absent e else setLaneMode d l .absent
      let d := if (laneOf d l).unseen then reviewLanes (onLane d l fun x => { x with unseen := false }) else d
      closeBypass (onLane d l freshLane) l
    else d

/-- Register fields of the shared blocks that act on commands of their own: BLF_TT, and ADC_, RVE_, HST_, CRI_, GRP_, PLN_, MIL_, FBK_, STP_
and SMY_. -/
def isShared (f : RegField) : Bool :=
  let a := f.desc.base
  decide ((0x1100 ≤ a ∧ a < 0x2000) ∨ (0x8000 ≤ a ∧ a < 0xC000) ∨ 0xD000 ≤ a)

/-- The shared blocks in reset: what they hold is at its reset value, so that none of them acts (R25, R491). What the lanes use of the time base,
and the lanes' mirrors, stay; no tick moves them. -/
def sharedBlocksReset (d : Dev) : Dev :=
  { d with
    regs := d.regs.filter fun c => !isShared c.field
    sys := {}, log := {}, host := {}, pln := {}, mil := {}, axes := {}, adc := {}, smy0 := {}, smy1 := {}, rve := {}, grp := {}
    tb := { d.tb with ticking := false, tt := [] } }

/-- A reset of the shared blocks alone (R491): the tick stops (R39). It ends only through a device reset. -/
def sharedReset (d : Dev) (cause : Nat) : Dev :=
  if (heldBy d 3).contains cause then d
  else
    let d := (setHeld (logReset d cause 4) 3 cause true).inc .PWR_RST_CNT1_SHARED
    sharedBlocksReset (d.put .PWR_STATUS_SHARED_UP 0)

/-- A cause that held the shared blocks has cleared; with the last the whole device is reset (R491). -/
def sharedClear (d : Dev) (cause : Nat) : Dev :=
  if (heldBy d 3).contains cause then
    let d := setHeld d 3 cause false
    if heldBy d 3 = [] then deviceReset d cause else d
  else d

/-! Supplies and converters. -/

/-- SUPERVISOR_POWER_ON: an input has reached 18 V; the supervisor starts with every block in reset (R489). -/
def execSupervisorPowerOn (present : PerLane Bool) (s : State) : Host.Outcome State Fault Refusal :=
  s.run fun d =>
    if d.pwr.active ∨ (Lane.all.all fun l => !present.get l) then d
    else
      let d := logReset (onPwr d fun _ => { active := true }) 1 0
      showKeys (d.each Lane.all fun d l => d.wr .PWR_SUP_STAT_PRESENT l.idx (bitOf (present.get l)))

/-- SUPERVISOR_POWER_LOSS: every input is below 18 V; the device is without power and the reset history is lost (R490, R493). -/
def execSupervisorPowerLoss (s : State) : Host.Outcome State Fault Refusal :=
  s.run fun d =>
    let d := lanesOff d
    { regs := d.regs.filter fun c => decide (c.field = .SYS_BOOT_COUNT_N), out := d.out, free := d.free, flash := d.flash,
      keys := d.keys }

/-- Converter `l` runs. -/
def convRuns (d : Dev) (l : Lane) : Bool := d.on .PWR_SUP_STAT_CONV_RUN l.idx

/-- Converter `l` is in regulation. -/
def convOk (d : Dev) (l : Lane) : Bool := (d.rd .PWR_STATUS_CONV_OK).testBit l.idx

/-- The lane's supply reset is released: its input is above 31.5 V. -/
def supplyRelease (d : Dev) (l : Lane) : Dev := setHeld (d.wr .PWR_SUP_STAT_IN_RESET l.idx 0) l.idx 4 false

/-- CONVERTER_START: the input has stayed above 31.5 V for 1 ms (R488). A converter stopped by a fault stays stopped. -/
def execConverterStart (l : Lane) (s : State) : Host.Outcome State Fault Refusal :=
  s.run fun d =>
    if d.pwr.active ∧ !convRuns d l ∧ d.rd .PWR_SUP_STAT_CONV_FAULT l.idx = 0 then
      supplyRelease ((d.wr .PWR_SUP_STAT_CONV_RUN l.idx 1).wr .PWR_SUP_STAT_PRESENT l.idx 1) l
    else d

/-- CONVERTER_REGULATION: converter `l` is in regulation (R488). -/
def execConverterRegulation (l : Lane) (s : State) : Host.Outcome State Fault Refusal :=
  s.run fun d => if convRuns d l then d.wrBit .PWR_STATUS_CONV_OK 0 l.idx true else d

/-- Converter `l` stops; the last one to stop resets the device (R490). -/
def stopConverter (d : Dev) (l : Lane) : Dev :=
  let d := (d.wr .PWR_SUP_STAT_CONV_RUN l.idx 0).wrBit .PWR_STATUS_CONV_OK 0 l.idx false
  if (Lane.all.all fun m => !convRuns d m) ∧ d.on .PWR_STATUS_SHARED_UP then deviceReset d 0xC else d

/-- SUPPLY_RESET: VIN_x is below 30.5 V (R128, R490). -/
def supplyReset (d : Dev) (l : Lane) : Dev :=
  if (heldBy d l.idx).contains 4 then d
  else
    let d := ((d.wr .PWR_SUP_STAT_IN_RESET l.idx 1).inc .PWR_SUP_CNT_RESET l.idx).event .SUPPLY_RESET srcPower l.idx
    laneReset d l 4 .SUPPLY_RESET

/-- CONVERTER_STOP: VIN_x is below 26.0 V (R490); the lane is then in supply reset. -/
def execConverterStop (l : Lane) (s : State) : Host.Outcome State Fault Refusal :=
  s.run fun d => if convRuns d l then stopConverter (supplyReset d l) l else d

/-- CONV_FAULT: the converter's output has left its tolerance; it stops and its lane is held in reset (R488). -/
def execConvFault (l : Lane) (s : State) : Host.Outcome State Fault Refusal :=
  s.run fun d =>
    if convRuns d l then
      let d := (d.wr .PWR_SUP_STAT_CONV_FAULT l.idx 1).flag .PWR_STATUS_CONV_FAULT
      stopConverter (laneReset (d.event .CONV_FAULT srcPower l.idx) l 5 .CONV_FAULT) l
    else d

/-- SUPPLY_WARN: VIN_x is below 33.5 V (R128). -/
def execSupplyWarn (l : Lane) (s : State) : Host.Outcome State Fault Refusal :=
  s.run fun d =>
    if d.pwr.active ∧ d.rd .PWR_SUP_STAT_WARN l.idx = 0 then
      let d := onLane ((d.wr .PWR_SUP_STAT_WARN l.idx 1).inc .PWR_SUP_CNT_WARN l.idx) l fun x => { x with supplyWarn := true }
      d.event .SUPPLY_WARN srcPower l.idx
    else d

/-- SUPPLY_OK: VIN_x has risen above 34.5 V (R128). -/
def execSupplyOk (l : Lane) (s : State) : Host.Outcome State Fault Refusal :=
  s.run fun d =>
    if d.on .PWR_SUP_STAT_WARN l.idx then
      (onLane (d.wr .PWR_SUP_STAT_WARN l.idx 0) l fun x => { x with supplyWarn := false }).event .SUPPLY_OK srcPower l.idx
    else d

/-- SUPPLY_RESET: VIN_x is below 30.5 V; lane x is reset within 10 us. -/
def execSupplyReset (l : Lane) (s : State) : Host.Outcome State Fault Refusal :=
  s.run fun d => if d.pwr.active then supplyReset d l else d

/-- SUPPLY_RESET_RELEASE: VIN_x has risen above 31.5 V (R128, R491). -/
def execSupplyResetRelease (l : Lane) (s : State) : Host.Outcome State Fault Refusal :=
  s.run fun d => if d.pwr.active then supplyRelease d l else d

/-! Releases. -/

/-- DEVICE_RESET_RELEASE: a converter has been in regulation for 2 ms and the shared clocks are good; the shared blocks leave
reset, the boot is counted, and the resets of the history write their events (R489, R493). -/
def execDeviceResetRelease (s : State) : Host.Outcome State Fault Refusal :=
  s.run fun d =>
    if d.pwr.active ∧ d.rd .PWR_STATUS_SHARED_UP = 0 ∧ Lane.all.any (fun l => convOk d l) ∧ heldBy d 3 = [] then
      let d := (d.put .PWR_STATUS_SHARED_UP 1).put .PWR_STATUS_RESET_N 1
      let d := (d.wrBit .PWR_CLK_STAT_IN_WINDOW 0 3 true).incWrap .SYS_BOOT_COUNT_N
      let d := (d.put .PWR_UPTIME_LO_MS 0).put .PWR_UPTIME_HI_MS 0
      let d := d.each d.pwr.unwritten fun d r => d.event .RESET srcPower 0 (r.1 + 256 * r.2)
      onPwr d fun p => { p with unwritten := [] }
    else d

/-- LANE_RESET_RELEASE: lane `l` leaves reset and enters BOOT (R489, Table 17-3); its mask ROM switches the reference buffer on (R374). -/
def execLaneResetRelease (l : Lane) (s : State) : Host.Outcome State Fault Refusal :=
  s.run fun d =>
    if d.on .PWR_STATUS_SHARED_UP ∧ convOk d l ∧ heldBy d l.idx = [] ∧ laneMode d l = .absent then
      let d := ((d.wrBit .PWR_STATUS_LANE_UP 0 l.idx true).wrBit .PWR_CLK_STAT_IN_WINDOW 0 l.idx true).flag .ADC_REF_EN
      let d := onLane d l fun x => { freshLane x with supplyWarn := d.on .PWR_SUP_STAT_WARN l.idx }
      setLaneMode d l .boot
    else d

/-- RESET_N_ASSERT: RESET_N has been low for 10 us (R491, R492). -/
def execResetNAssert (s : State) : Host.Outcome State Fault Refusal :=
  s.run fun d => if d.pwr.active then (deviceReset d 2).put .PWR_STATUS_RESET_N 0 else d

/-- TRST_N_ASSERT: only the test access port is reset (R492). -/
def execTrstNAssert (s : State) : Host.Outcome State Fault Refusal :=
  s.run fun d => onPwr d fun p => { p with tap := .idcode }

/-- CLR_LOG: a write of PWR_CTRL.CLR_LOG clears the reset history (Table 17-13). -/
def clearLog (d : Dev) : Dev :=
  let d := d.each (List.range 16) fun d k =>
    ((d.wr .PWR_RSTLOG_CAUSE k 0).wr .PWR_RSTLOG_SCOPE k 0).wr .PWR_RSTLOG_UPTIME_S k 0
  onPwr d fun p => { p with unwritten := [] }

/-- CLR_LOG: the write by a master. -/
def execClrLog (m : Master) (s : State) : Host.Outcome State Fault Refusal :=
  s.run fun d => d.trigger m 0xC038 (some (.PWR_STATUS_BUSY, 0)) clearLog

/-! Clocks (R495, R496). -/

/-- The lane whose clocks domain `k` of Table 17-5 belongs to. -/
def laneOfDomain (k : Nat) : Option Lane :=
  if k = 2 ∨ k = 5 then some .a else if k = 3 ∨ k = 6 then some .b else if k = 4 ∨ k = 7 then some .c else none

/-- Domains fed by XIN_S. -/
def sharedDomain (k : Nat) : Bool := [1, 8, 10, 11].contains k

/-- CLK_FAULT: the clock of domain `k` is lost: its input has left its window (`input`), or a PLL has lost lock. The scope of
Table 17-3 is reset; without PCIE_REFCLK the link is down, which is an event of its own (R437, R495). -/
def execClkFault (k : Fin 13) (input : Bool) (s : State) : Host.Outcome State Fault Refusal :=
  s.run fun d =>
    if !d.pwr.active ∨ d.pwr.rcStopped ∨ d.pwr.clkBad.contains k.val then d
    else
      let d := ((d.flag .PWR_STATUS_CLK_FAULT).inc .PWR_CLK_CNT_FAULTS).event .CLK_FAULT srcPower k
      let d := onPwr d fun p => { p with clkBad := p.clkBad ++ [k.val] }
      match laneOfDomain k with
      | some l => laneReset (if input then d.wrBit .PWR_CLK_STAT_IN_WINDOW 0 l.idx false else d) l 6 .CLK_FAULT
      | none =>
        if sharedDomain k then sharedReset (if input then d.wrBit .PWR_CLK_STAT_IN_WINDOW 0 3 false else d) 7
        else if k.val = 9 then d.put .PWR_CLK_STAT_REFCLK 0
        else d

/-- CLK_OK: the clock of domain `k` has been back and locked for 1 ms; its reset is released once no clock of the scope is
bad. -/
def execClkOk (k : Fin 13) (s : State) : Host.Outcome State Fault Refusal :=
  s.run fun d =>
    if !d.pwr.active ∨ d.pwr.rcStopped ∨ !d.pwr.clkBad.contains k.val then d
    else
      let d := (onPwr d fun p => { p with clkBad := p.clkBad.filter fun j => decide (j ≠ k.val) }).event .CLK_OK srcPower k
      match laneOfDomain k with
      | some l =>
        if d.pwr.clkBad.any (fun j => decide (laneOfDomain j = some l)) then d
        else setHeld (d.wrBit .PWR_CLK_STAT_IN_WINDOW 0 l.idx true) l.idx 6 false
      | none =>
        if sharedDomain k then
          if d.pwr.clkBad.any sharedDomain then d else sharedClear (d.wrBit .PWR_CLK_STAT_IN_WINDOW 0 3 true) 7
        else if k.val = 9 then d.put .PWR_CLK_STAT_REFCLK 1
        else d

/-- RC_FAULT: the RC oscillator has left ±5 % of XIN_S: timers, measurements and the monitoring of the clocks stop (R496). -/
def execRcFault (s : State) : Host.Outcome State Fault Refusal :=
  s.run fun d =>
    if !d.pwr.active ∨ d.pwr.rcStopped then d
    else
      let d := ((d.flag .PWR_CLK_STAT_RC_FAULT).inc .PWR_CLK_CNT_FAULTS).event .CLK_FAULT srcPower 12
      onPwr d fun p => { p with rcStopped := true }

/-! Temperatures and measurements (R486, R497 to R499). -/

/-- TEMP_WARN: sensor `t` is at or above WARN_C; once per episode (R499). -/
def execTempWarn (t : Fin 16) (s : State) : Host.Outcome State Fault Refusal :=
  s.run fun d =>
    if !d.pwr.active ∨ d.pwr.warm then d
    else ((onPwr d fun p => { p with warm := true }).flag .PWR_STATUS_TEMP_WARN).event .TEMP_WARN srcPower t

/-- The lane of a lane-class sensor (Table 17-7). -/
def laneOfSensor (t : Nat) : Option Lane := if t < 9 then some (Lane.ofIdx (t % 3)) else none

/-- TEMP_LIMIT: sensor `t` is at 135 degrees; its lane, or the shared blocks, are reset (R499). -/
def execTempLimit (t : Fin 16) (s : State) : Host.Outcome State Fault Refusal :=
  s.run fun d =>
    if !d.pwr.active ∨ d.pwr.hot.contains t.val then d
    else
      let d := ((onPwr d fun p => { p with hot := p.hot ++ [t.val] }).flag .PWR_STATUS_TEMP_LIMIT).event .TEMP_LIMIT srcPower t
      match laneOfSensor t with
      | some l => laneReset d l 8 .TEMP_LIMIT
      | none => sharedReset d 9

/-- Sensors that have come down to 125 degrees release their reset. -/
def coolDown (d : Dev) : Dev :=
  let hot := d.pwr.hot.filter fun t => decide (125 * 8 < d.rdI .PWR_TEMP_T t)
  let d := onPwr d fun p => { p with hot := hot }
  let d := d.each Lane.all fun d l =>
    if hot.any (fun t => decide (laneOfSensor t = some l)) then d else setHeld d l.idx 8 false
  if hot.any (fun t => decide (9 ≤ t)) then d else sharedClear d 9

/-- One supply's readings (Table 17-14). -/
def measureSupply (m : Measurement) (d : Dev) (l : Lane) : Dev :=
  let x := l.idx
  let v := min (m.vin.get l) 0xFFFF
  let d := (d.wr .PWR_SUP_VIN_MV x v).wr .PWR_SUP_STAT_PRESENT x (bitOf (decide (1800 ≤ v)))
  let low := if d.pwr.vminRead.get l then v else min v (d.rd .PWR_SUP_VMIN_MV x)
  let d := (d.wr .PWR_SUP_VMIN_MV x low).wrMax .PWR_SUP_VMAX_MV x v
  let d := (d.wrSat .PWR_SUP_IIN_MA x (m.iin.get l)).wrSat .PWR_SUP_PIN_MW x (m.pin.get l)
  let d := d.wrSat .PWR_SUP_CONV_MV x (m.conv.get l)
  onPwr d fun p =>
    { p with vminRead := p.vminRead.set l false, vmin := p.vmin.set l (min v (p.vmin.get l)), vmax := p.vmax.set l (max v (p.vmax.get l)) }

/-- One sensor's reading (Tables 17-13, 17-14). -/
def measureTemp (d : Dev) (p : Nat × Int) : Dev :=
  let d := d.wrI .PWR_TEMP_T p.1 p.2
  let d := if d.rdI .PWR_TEMP_MAX p.1 < p.2 then d.wrI .PWR_TEMP_MAX p.1 p.2 else d
  if d.pwr.tmaxRead ∨ d.rdI .PWR_TEMP_MAX_T < p.2 then
    onPwr ((d.wrI .PWR_TEMP_MAX_T 0 p.2).put .PWR_TEMP_MAX_SENSOR p.1) fun x => { x with tmaxRead := false }
  else d

/-- The history of a supply moves on by one second (Table 17-14). -/
def shiftHistory (d : Dev) (l : Lane) : Dev :=
  let d := d.each ((List.range 7).map fun k => 6 - k) fun d k =>
    (d.wr .PWR_SUP_HIST_VMIN (8 * l.idx + k + 1) (d.rd .PWR_SUP_HIST_VMIN (8 * l.idx + k))).wr .PWR_SUP_HIST_VMAX
      (8 * l.idx + k + 1) (d.rd .PWR_SUP_HIST_VMAX (8 * l.idx + k))
  (d.wr .PWR_SUP_HIST_VMIN (8 * l.idx) (d.pwr.vmin.get l)).wr .PWR_SUP_HIST_VMAX (8 * l.idx) (d.pwr.vmax.get l)

/-- SUPERVISOR_MEASUREMENT: every 1 ms (R486, R497 to R499): readings, uptime, the end of the warning episode and of thermal
resets. -/
def execSupervisorMeasurement (m : Measurement) (s : State) : Host.Outcome State Fault Refusal :=
  s.run fun d =>
    if !d.pwr.active ∨ d.pwr.rcStopped then d
    else
      let d := d.each Lane.all (measureSupply m)
      let d := d.each ((m.temps.take 16).mapIdx fun t v => (t, v)) measureTemp
      let d := ((d.wrSat .PWR_POWER_MW 0 m.powerMw).wrSat .PWR_RAIL_MV 0 m.railMv).wrSat .PWR_RAIL_MA 0 m.railMa
      let d := onPwr d fun p => { p with ms := p.ms + 1 }
      let d := if d.pwr.ms = 1000 then
          onPwr (d.each Lane.all shiftHistory) fun p =>
            { p with ms := 0, vmin := ⟨0xFFFF, 0xFFFF, 0xFFFF⟩, vmax := ⟨0, 0, 0⟩ }
        else d
      let d := if d.on .PWR_STATUS_SHARED_UP then
          let n := d.rd .PWR_UPTIME_LO_MS + 2 ^ 32 * d.rd .PWR_UPTIME_HI_MS + 1
          (d.put .PWR_UPTIME_LO_MS n).put .PWR_UPTIME_HI_MS (n / 2 ^ 32)
        else d
      let cool := (List.range 16).all fun t => decide (d.rdI .PWR_TEMP_T t ≤ 8 * ((d.rd .PWR_THERM_WARN_C : Int) - 10))
      coolDown (if cool then onPwr d fun p => { p with warm := false } else d)

/-! Debug unlock (R503, R504). -/

/-- CHALLENGE: the debugger reads the serial number and a fresh nonce from the supervisor's random source (R503). -/
def execChallenge (s : State) : Host.Outcome State Fault Refusal :=
  s.run fun d =>
    if !d.pwr.active ∨ d.on .PWR_DBG_STAT_LOCKOUT then d
    else if d.on .PWR_OTP_STAT_DBG_DISABLE then
      (onPwr d fun p => { p with tap := .challenge }).emit (.tapOut 192 0)
    else
      let (n, d) := d.fresh 128
      let d := onPwr d fun p => { p with tap := .challenge, challenge := some (BitVec.ofNat 128 n) }
      d.emit (.tapOut 192 (Config.serialNumber.toNat + 2 ^ 64 * n))

/-- INDEX of a debug scope, and the scope byte's place in it. -/
def scopeIx : DebugScope → Nat
  | .port => 0
  | .lane l => 1 + l.idx

/-- The scope byte of R503. -/
def scopeByte : DebugScope → Nat
  | .port => 0x53
  | .lane l => 0x41 + l.idx

/-- The response to a challenge of nonce `n` (R503): the first 16 bytes of HMAC-SHA-256 over the 24 challenge bytes and the scope byte, under
the scope's key; it is shifted with its first byte lowest, as the challenge is. -/
def debugResponse (sc : DebugScope) (n : BitVec 128) : BitVec 128 :=
  let bs := bytesLE 8 Config.serialNumber.toNat ++ bytesLE 16 n.toNat ++ bytesLE 1 (scopeByte sc)
  BitVec.ofNat 128 (natLE ((bytesBE 32 (hmacSha256 (Config.debugKey (scopeIx sc)) bs).toNat).take 16))

/-- RESPONSE: judged by R503 and R504; `late` is whether more than 10 s have passed since the challenge was read. -/
def execResponse (sc : DebugScope) (value : BitVec 128) (late : Bool) (s : State) : Host.Outcome State Fault Refusal :=
  s.run fun d =>
    if !d.pwr.active ∨ d.on .PWR_DBG_STAT_LOCKOUT then d
    else
      let d := onPwr d fun p => { p with tap := .response }
      if d.on .PWR_OTP_STAT_DBG_DISABLE then d
      else
        let right : Bool := match d.pwr.challenge with
          | none => false
          | some n => decide (value = debugResponse sc n)
        let allowed := decide (sc = .port) || d.on .PWR_DBG_STAT_UNLOCKED
        if right ∧ allowed ∧ !late then
          let d := match sc with
            | .port => d.put .PWR_DBG_STAT_UNLOCKED 1
            | .lane l => d.wrBit .PWR_DBG_STAT_LANE_AUTH 0 l.idx true
          d.event .DBG_UNLOCK srcPower (scopeIx sc)
        else
          let d := (d.inc .PWR_DBG_STAT_FAILS).event .DBG_FAIL srcPower (scopeIx sc)
          if d.rd .PWR_DBG_STAT_FAILS = 3 then (d.put .PWR_DBG_STAT_LOCKOUT 1).event .DBG_LOCKOUT srcPower (scopeIx sc) else d

/-- IDCODE: the identification code is shifted out (R503); its value is not stated. -/
def execIdcode (s : State) : Host.Outcome State Fault Refusal :=
  s.run fun d => (onPwr d fun p => { p with tap := .idcode }).emit (.tapOut 32 Config.idcode.toNat)

/-- BYPASS: the bypass register is selected (R503). -/
def execBypass (s : State) : Host.Outcome State Fault Refusal :=
  s.run fun d => onPwr d fun p => { p with tap := .bypass }

end Sys2Proof.Machine
end

