-- ==== Sys2Proof/Machine/HostIf.lean ====
section
/-!
DEFINITION. The host interface: doorbell reads, fetch and judgement of submission entries, device commands, the event queue, the MSI-X
hint and link resets (R420 to R444).
-/
namespace Sys2Proof.Machine

/-! Doorbells (R424, R425). -/

/-- One queue index of the doorbell block: stored, or outside its queue, which flags the queue. -/
def readTail (block : List Word32) (d : Dev) (q : Nat) : Dev :=
  if d.on .HST_SQ_CFG_EN q ∧ d.rd .HST_SQ_STAT_Q_ERR q = 0 then
    let t := (block.getD q 0).toNat % 4096
    if t < sqSize d q then onHost d fun h => { h with tails := SMap.set 0 h.tails q t }
    else (d.flag .HST_SQ_STAT_Q_ERR q).event .HST_QUEUE_ERR srcHost q
  else d

/-- The head of a CQ as the host has consumed it. -/
def readHead (block : List Word32) (d : Dev) (q : Nat) : Dev :=
  if d.on .HST_CQ_CFG_EN q ∧ d.rd .HST_CQ_STAT_Q_ERR q = 0 then
    let t := (block.getD (16 + q) 0).toNat % 4096
    if t < cqSize d q then onHost d fun h => { h with heads := SMap.set 0 h.heads q t }
    else (d.flag .HST_CQ_STAT_Q_ERR q).event .HST_QUEUE_ERR srcHost q
  else d

/-- Records the event queue holds when full, plus one. -/
def evSize (d : Dev) : Nat := 2 ^ d.rd .HST_EVQ_CFG_SIZE

/-- The host has consumed every entry and record written. -/
def allConsumed (d : Dev) : Bool :=
  ((List.range 16).all fun q => !d.on .HST_CQ_CFG_EN q || decide (SMap.get 0 d.host.heads q = d.rd .HST_CQ_STAT_TAIL q)) &&
    (!d.on .HST_EVQ_CFG_EN || decide (d.host.evHead = d.rd .HST_EVQ_STAT_TAIL))

/-- DOORBELL_POLL: the device reads bytes 0x00 to 0x83 of the doorbell block, given as 33 words (R424, R425, R436, R438). -/
def execDoorbellPoll (block : List Word32) (s : State) : Host.Outcome State Fault Refusal :=
  s.run fun d =>
    if d.rd .HST_STATUS_LINK_UP = 0 then d
    else
      let d := (d.each (List.range 16) (readTail block)).each (List.range 16) (readHead block)
      let d := if d.on .HST_EVQ_CFG_EN then onHost d fun h => { h with evHead := (block.getD 32 0).toNat % 65536 % evSize d } else d
      if allConsumed d then onHost d fun h => { h with wrote := false } else d

/-! Judgement (R426 to R431, R481 to R483). -/

/-- CLASS of an opcode (Tables 7-2 and 14-3). -/
def classOf (op : Nat) : Option Nat :=
  if (0x10 ≤ op ∧ op ≤ 0x13) ∨ (0x18 ≤ op ∧ op ≤ 0x1C) then some 0
  else if op = 0x20 ∨ op = 0x21 ∨ op = 0x01 ∨ op = 0x08 ∨ op = 0x09 ∨ op = 0x0A then some 1
  else if op = 0x28 then some 2
  else if op = 0x30 ∨ op = 0x02 ∨ op = 0x03 ∨ op = 0x04 then some 3
  else if 0x40 ≤ op ∧ op ≤ 0x43 then some 4
  else none

/-- Commands admitted in Hold mode (R45, R428). -/
def holdListed (op : Nat) : Bool :=
  decide (op = 0x02 ∨ op = 0x03 ∨ op = 0x04 ∨ op = 0x40 ∨ op = 0x41 ∨ op = 0x42 ∨ op = 0x43)

/-- The opcode names an axis set in body byte 0 (Tables 7-3, 7-5). -/
def namesAxset (op : Nat) : Bool := decide (classOf op = some 0 ∨ op = 0x20 ∨ op = 0x21 ∨ op = 0x30)

/-- The byte of a submission entry that holds the index a Steward maps: AXSET, or INDEX of an arm model or limit sets. -/
def indexByte (op : Nat) (e : List Byte) : Option Nat :=
  if namesAxset op then some 16 else if op = 0x28 ∧ (bodyAt e 16 = 1 ∨ bodyAt e 16 = 2) then some 17 else none

/-- Commands in flight that count: the host's own. -/
def ownFlight (d : Dev) : List HostCmd := d.host.flight.filter fun c => decide (c.sq < 16)

/-- The class share of Table 14-6 is full. -/
def shareFull (d : Dev) (cls axset : Nat) : Bool :=
  let n := ((ownFlight d).filter fun c => decide (c.cls = cls ∧ (cls = 0 → c.axset = axset))).length
  match cls with
  | 0 => decide (32 ≤ n)
  | 1 => decide (16 ≤ n)
  | 2 => decide (4 ≤ n)
  | 3 => decide (16 ≤ n)
  | _ => decide (1 ≤ n)

/-- The checks of R435, of reserved body bytes (R426) and of the ranges of Table 14-4; 0 if none applies. -/
def deviceReason (d : Dev) (op : Nat) (b : List Byte) : Nat :=
  if !unassignedZero op b then 0x03
  else
    let bad := match op with
      | 0x01 => decide (15 < bodyAt b 0)
      | 0x04 => decide (body16 b 8 = 0 ∨ 4096 < body16 b 8)
      | 0x08 => decide (1 < bodyAt b 0)
      | 0x09 => decide (1 < bodyAt b 4 ∨ (stewards d = 0 ∧ bodyAt b 8 ≠ 0) ∨ 7 < bodyAt b 8)
      | 0x0A => decide (15 < bodyAt b 0)
      | 0x40 => decide (30 * 2 ^ 20 < body32 b 4)
      | _ => false
    if (op = 0x08 ∨ op = 0x09 ∨ op = 0x0A) ∧ (d.mode = .boot ∨ d.mode = .hold) then 0x09
    else if bad then 0x03
    else if op = 0x41 ∧ d.host.fwLoaded = none then 0x11
    else if op = 0x43 ∧ body32 b 0 ≠ d.rd .SYS_BOOT_COUNT_N then 0x10
    else if op = 0x43 ∧ !allDisabled d then 0x11
    else 0

/-- The Planner's checks where a Steward answers for a member: against its last member frame (R482). -/
def memberReason (d : Dev) (op level slot : Nat) (b : List Byte) : Nat :=
  let m := memberOf d level slot
  if !unassignedZero op b then 0x03
  else if classOf op = some 0 ∧ (!m.present ∨ m.quar) then 0x09
  else if classOf op = some 0 ∧ m.state ≠ 0 then 0x0E
  else 0

/-- Checks 10 to 12 of Table 14-5: the reason, 0 if admitted. -/
def blockReason (d : Dev) (op : Nat) (e : List Byte) : Nat :=
  match indexByte op e with
  | none => if op = 0x28 then planAdmission d op (e.drop 16) else deviceReason d op (e.drop 16)
  | some i =>
    match resolve d false (stewards d) (bodyAt e i) with
    | none => if !unassignedZero op (e.drop 16) then 0x03 else 0x04
    | some (.own j) =>
      let b := (setByteAt e i j).drop 16
      let r := planAdmission d op b
      if r = 0 ∧ classOf op = some 0 ∧ setStopped d j then 0x0E else r
    | some (.member l m _) => memberReason d op l m (e.drop 16)

/-- The outcome of a fetched entry (Table 14-5, R431). -/
inductive Verdict where
  | rejected (reason : Nat)
  | dup
  | replay (entry : List Byte)
  | admitted (cls : Nat)
  deriving DecidableEq, Repr

/-- Judge entry `e` of SQ `q` by Table 14-5, first check first. -/
def judge (d : Dev) (q : Nat) (e : List Byte) : Verdict :=
  let op := bodyAt e 0
  let rsn := body32 e 4
  match classOf op with
  | none => .rejected 0x01
  | some cls =>
    if bodyAt e 1 ≠ cls then .rejected 0x02
    else if 2 ≤ bodyAt e 2 ∨ bodyAt e 3 ≠ 0 ∨ body32 e 0xC ≠ 0 then .rejected 0x03
    else if (inFlight d q rsn).isSome then .dup
    else match (SMap.get [] d.host.store q).find? fun s => decide (s.rsn = rsn) with
      | some s => if s.crc = crc32c e then .replay s.entry else .rejected 0x0D
      | none =>
        if bodyAt e 2 = 1 ∧ 0 < signedOf 32 (fieldOf 32 ((d.frameNo : Int) - body32 e 8)) then .rejected 0x0F
        else if d.mode = .hold ∧ !holdListed op then .rejected 0x0A
        else if isMember d ∧ cls ≤ 2 ∧ op ≠ 0x01 then .rejected 0x12
        else if 128 ≤ (ownFlight d).length ∨ (112 ≤ (ownFlight d).length ∧ cls ≠ 1) then .rejected 0x0B
        else if shareFull d cls (bodyAt e 16) then .rejected 0x0C
        else match blockReason d op e with
          | 0 => .admitted cls
          | r => .rejected r

/-! Routing an admitted command (R430, R481, R482). -/

/-- The mask bits of a UNIT_ENABLE with what they name: group bit and unit. -/
def unitTargets (d : Dev) (b : List Byte) : List (Nat × Target) :=
  ((List.range 32).filter fun u => (body32 b 0).testBit u).filterMap fun u =>
    (resolve d true (stewards d) (32 * bodyAt b 8 + u)).map fun t => (u, t)

/-- Forward the bits of a UNIT_ENABLE that name member `l`, `m` in one block of 32 units. -/
def forwardUnits (sq rsn : Nat) (e : List Byte) (ts : List (Nat × Target)) (d : Dev) (k : Nat × Nat × Nat) : Dev :=
  let bits := ts.filterMap fun p => match p.2 with
    | .member l m i => if l = k.1 ∧ m = k.2.1 ∧ i / 32 = k.2.2 then some (p.1, i % 32) else none
    | .own _ => none
  if bits = [] then d
  else
    let mask := bits.foldl (fun n b => n + 2 ^ b.2) 0
    forward d sq rsn k.1 k.2.1 (setByteAt (setWordAt e 16 mask) 24 k.2.2) bits

/-- Every member slot of every group stewarded, this device's own slots apart. -/
def memberSlots (d : Dev) : List (Nat × Nat) :=
  (List.range (stewards d)).flatMap fun l => ((usedSlots d l).filter fun m => decide (m ≠ ownSlot d l)).map fun m => (l, m)

/-- Send an admitted command where it is to run: this device's own part stays for its row, other parts are forwarded. -/
def route (d : Dev) (sq rsn op : Nat) (e : List Byte) : Dev :=
  let toMembers := fun (d : Dev) => onFlight d sq rsn fun c => { c with own := false }
  match indexByte op e with
  | some i =>
    match resolve d false (stewards d) (bodyAt e i) with
    | some (.member l m j) => toMembers (forward d sq rsn l m (setByteAt e i j) [])
    | some (.own j) =>
      let b := (setByteAt e i j).drop 16
      let d := onFlight d sq rsn fun c => { c with body := b }
      if classOf op = some 0 then enqueuePlan d j sq rsn op b else d
    | none => d
  | none =>
    if stewards d = 0 then d
    else if op = 0x08 then d.each (memberSlots d) fun d p => forward d sq rsn p.1 p.2 e []
    else if op = 0x09 then
      let ts := unitTargets d (e.drop 16)
      d.each ((memberSlots d).flatMap fun p => (List.range 8).map fun k => (p.1, p.2, k)) (forwardUnits sq rsn e ts)
    else if op = 0x01 then
      match inFlight d (bodyAt e 16) (body32 e 20) with
      | some t =>
        let left := t.parts.filter fun p => !p.done
        if left = [] then d
        else
          let d := d.each left fun d p => forward d sq rsn p.level p.slot (setWordAt (setByteAt e 16 16) 20 p.tag) []
          if t.own then d else toMembers d
      | none => d
    else d

/-! Fetch (R427). -/

/-- Entries between `head` and `tail` of a ring of `n`. -/
def ringUsed (n head tail : Nat) : Nat := (tail + n - head) % n

/-- Completion entries CQ `q` has free and not owed to a command in flight. -/
def cqRoom (d : Dev) (q : Nat) : Nat :=
  cqSize d q - 1 - ringUsed (cqSize d q) (SMap.get 0 d.host.heads q) (d.rd .HST_CQ_STAT_TAIL q) -
    (d.host.flight.filter fun c => decide (c.cq = some q)).length

/-- SQ `q` has an entry that may be fetched. -/
def fetchable (d : Dev) (q : Nat) : Bool :=
  let c := d.rd .HST_SQ_CFG_CQ q
  d.on .HST_SQ_CFG_EN q && !d.on .HST_SQ_STAT_Q_ERR q && decide (d.rd .HST_SQ_STAT_HEAD q ≠ SMap.get 0 d.host.tails q) &&
    d.on .HST_CQ_CFG_EN c && !d.on .HST_CQ_STAT_Q_ERR c && decide (1 ≤ cqRoom d c)

/-- The SQ fetched from next: in turn, ascending. -/
def nextSq (d : Dev) : Option Nat := ((List.range 16).map fun i => (d.host.turn + i) % 16).find? (fetchable d)

/-- Write the completion entry of an outcome that is no admission (R428): nothing is executed, nothing stored. -/
def answerEntry (d : Dev) (c : HostCmd) (cq : Nat) (e : Cqe) : Dev := putCqe d cq (cqeBytes d c e) false

/-- SUBMISSION_FETCH: the next entry, `entry`, of the SQ whose turn it is: fetched, judged, and admitted or answered at once (R426 to R431,
R482, R483). -/
def execSubmissionFetch (entry : List Byte) (s : State) : Host.Outcome State Fault Refusal :=
  s.run fun d =>
    if d.rd .HST_STATUS_LINK_UP = 0 then d
    else match nextSq d with
    | none => d
    | some q =>
      let e := (entry ++ List.replicate 64 0).take 64
      let head := (d.rd .HST_SQ_STAT_HEAD q + 1) % sqSize d q
      let d := onHost (d.wr .HST_SQ_STAT_HEAD q head) fun h => { h with turn := (q + 1) % 16 }
      let cq := d.rd .HST_SQ_CFG_CQ q
      let op := bodyAt e 0
      let rsn := body32 e 4
      let c : HostCmd :=
        { sq := q, rsn := rsn, opcode := op, cls := (classOf op).getD 0, crc := crc32c e, admitAt := d.frameNo, sqHead := head
          cq := some cq, axset := if classOf op = some 0 then bodyAt e 16 else 0xFF, body := e.drop 16 }
      match judge d q e with
      | .rejected r => answerEntry (d.inc .HST_CNT_REJECTS) c cq { status := 1, reason := r, result := if r = 0x0E then 2 else 0 }
      | .dup => answerEntry (d.inc .HST_CNT_REPLAYS) c cq { status := 5 }
      | .replay bs => putCqe (d.inc .HST_CNT_REPLAYS) cq (bs.take 8 ++ bytesLE 2 head ++ bs.drop 10) true
      | .admitted _ => showFlight (route (onHost d fun h => { h with flight := h.flight ++ [c] }) q rsn op e)

/-! Device commands (Table 14-3, R434, R435). -/

/-- CANCEL: cancels one command by SQ and RSN (R434). A command whose work has not begun is removed; one that is carried out goes on, CANCEL
itself among them (R414). -/
def execCancel (sq : Fin 17) (rsn : Word32) (s : State) : Host.Outcome State Fault Refusal :=
  s.run fun d =>
    match flightOp d sq rsn.toNat 0x01 with
    | none => d
    | some c =>
      let q := bodyAt c.body 0
      let r := body32 c.body 4
      match inFlight d q r with
      | none => complete d sq rsn.toNat { result := 2 }
      | some t =>
        let gone := fun (d : Dev) => complete (complete d q r { status := 2, result := 0x11 }) sq rsn.toNat { result := 0 }
        match cancelPlan d q r with
        | some d => gone d
        | none => if t.cls = 0 ∨ t.begun ∨ !t.own ∨ (q = sq ∧ r = rsn.toNat) then complete d sq rsn.toNat { result := 1 } else gone d

/-- A fault record as a word (SAF_FAULT_FIRST, SAF_FAULT_SECOND). -/
def faultWord (d : Dev) (k i e : RegField) : Nat := d.rd k + 2 ^ 8 * d.rd i + 2 ^ 16 * d.rd e

/-- Table 14-9. -/
def statusData (d : Dev) : List Byte :=
  bytesLE 1 (modeCode d.mode) ++ (Lane.all.flatMap fun l => bytesLE 1 (d.rd .LN_STATUS_STATE l.idx)) ++
    bytesLE 1 (d.rd .SAF_SAFE_OK_LEVEL) ++ bytesLE 3 0 ++ bytesLE 4 (d.rd .SAF_DEG_REMAIN_MS) ++
    bytesLE 4 (faultWord d .SAF_FAULT_FIRST_KIND .SAF_FAULT_FIRST_INDEX .SAF_FAULT_FIRST_EVENT) ++
    bytesLE 4 (faultWord d .SAF_FAULT_SECOND_KIND .SAF_FAULT_SECOND_INDEX .SAF_FAULT_SECOND_EVENT) ++
    bytesLE 4 (d.rd .SAF_PKG_APPLIED_SEQ) ++ bytesLE 4 (d.rd .SYS_FW_VERSION_CODE) ++ bytesLE 4 (d.rd .SYS_BOOT_COUNT_N) ++
    bytesLE 4 d.log.seq ++ bytesLE 4 d.frameNo ++ bytesLE 8 0

/-- GET_STATUS (Table 14-9). -/
def execGetStatus (sq : Fin 17) (rsn : Word32) (s : State) : Host.Outcome State Fault Refusal :=
  s.run fun d =>
    match flightOp d sq rsn.toNat 0x02 with
    | none => d
    | some _ => complete d sq rsn.toNat { query := statusData d }

/-- Entry `e` of ring `l` in the buffer of GET_TOPOLOGY (R426). -/
def topologyEntry (d : Dev) (l : Lane) (e : Nat) : List Byte :=
  let r := d.rings.get l
  let k := 48 * l.idx + e
  match r.sched[e]? with
  | none => List.replicate 32 0
  | some c =>
    let id := ((SMap.get {} r.nodes e).ident).getD {}
    bytesLE 1 (d.rd .ENT_NODE_NODE_ID k) ++ bytesLE 1 (d.rd .ENT_NODE_STATE k) ++ bytesLE 1 (d.rd .ENT_NODE_POS k) ++ bytesLE 1 c.profile ++
      bytesLE 2 id.vendor ++ bytesLE 2 id.product ++ bytesLE 3 id.serial ++ bytesLE 1 c.joints ++ bytesLE 2 id.fwdNs ++
      bytesLE 1 (bitOf id.masterCap) ++ bytesLE 1 id.rev ++ bytesLE 2 (d.rd .ENT_NODE_SYNC_ERR k) ++
      bytesLE 2 (d.rd .ENT_NODE_GUARD_CNT k) ++ List.replicate 10 0

/-- GET_TOPOLOGY: the node tables of the three rings go to the host's buffer (R426). -/
def execGetTopology (sq : Fin 17) (rsn : Word32) (s : State) : Host.Outcome State Fault Refusal :=
  s.run fun d =>
    match flightOp d sq rsn.toNat 0x03 with
    | none => d
    | some c =>
      let bs := Lane.all.flatMap fun l => (List.range 48).flatMap (topologyEntry d l)
      let ns := Lane.all.flatMap fun l => bytesLE 1 (d.rd .ENT_SCHED_N l.idx)
      complete (d.emit (.hostWrite (body64 c.body 8) bs)) sq rsn.toNat
        { query := ns ++ bytesLE 1 0 ++ bytesLE 2 (d.rd .ENT_SCHED_SCHED_ID 0) ++ List.replicate 42 0 }

/-- The 32 bytes of a log record (Table 14-10). -/
def recordBytes (r : EventRec) : List Byte := eventBytes r ++ bytesLE 4 r.tag

/-- Difference of sequence numbers, signed 32-bit (R443). -/
def seqDiff (a b : Nat) : Int := signedOf 32 (fieldOf 32 ((a : Int) - b))

/-- READ_LOG: records from FIRST_SEQ on, at most COUNT (R443). -/
def execReadLog (sq : Fin 17) (rsn : Word32) (s : State) : Host.Outcome State Fault Refusal :=
  s.run fun d =>
    match flightOp d sq rsn.toNat 0x04 with
    | none => d
    | some c =>
      let xs := (d.log.recs.filter fun r => decide (0 ≤ seqDiff r.seq (body32 c.body 4))).take (body16 c.body 8)
      let d := d.each xs.zipIdx fun d p => d.emit (.hostWrite (body64 c.body 0x10 + 32 * p.2) (recordBytes p.1))
      complete d sq rsn.toNat
        { data := bytesLE 4 (logOldest d.log) ++ bytesLE 4 d.log.seq ++ bytesLE 4 (d.rd .CRI_LOG_OVW_CNT) ++ bytesLE 2 xs.length }

/-- MOTION_ENABLE: grants or withdraws the host's motion enable (R40, R309, R311, R474, R476). -/
def execMotionEnable (sq : Fin 17) (rsn : Word32) (s : State) : Host.Outcome State Fault Refusal :=
  s.run fun d =>
    match flightOp d sq rsn.toNat 0x08 with
    | none => d
    | some c =>
      let go := decide (bodyAt c.body 0 = 1)
      let d := d.each (serviceLanes d) fun d l => onSaf d l fun x => { x with motionEnable := go }
      let d := onGrp d fun g => { g with withdrawn := !go }
      let d := if go then
          let d := d.each (List.range (stewards d)) fun d l => onLevel d l fun x => { x with granted := x.granted || decide (2 ≤ x.calm) }
          if d.mode = .standstill then d.setMode (if (serviceLanes d).length = 3 then .run else .degraded) else d
        else d.each ((List.range 32).filter (unitUsed d.cfg)) fun d u => demandAll d u 0x0C 5 0
      complete d sq rsn.toNat {}

/-- One unit of a UNIT_ENABLE: its outcome byte, and the request or the demand in every lane in service (R309, R311, R312). -/
def requestUnit (d : Dev) (u : Nat) (on : Bool) : Dev × Nat :=
  if on then
    let k := enableRefusal d d.firstLane u true
    if k = 0 then
      (d.each (serviceLanes d) fun d l => onUnit d l u fun y =>
        { y with enableReq := true, demands := y.demands.filter fun q => decide (q.cause ≠ 0x0C ∧ q.cause ≠ 0x0D) }, 0)
    else (d, k)
  else
    let d := d.each (serviceLanes d) fun d l => onUnit d l u fun y => { y with enableReq := false }
    (if unitUsed d.cfg u then demandAll d u 0x0C 5 0 else d, 0)

/-- UNIT_ENABLE: requests enable or disable of units (R309, R311, R433, R481). -/
def execUnitEnable (sq : Fin 17) (rsn : Word32) (s : State) : Host.Outcome State Fault Refusal :=
  s.run fun d =>
    match flightOp d sq rsn.toNat 0x09 with
    | none => d
    | some c =>
      let own := (unitTargets d c.body).filterMap fun p => match p.2 with
        | .own i => if i < 32 then some (p.1, i) else none
        | .member _ _ _ => none
      let r := own.foldl (fun (x : Dev × SMap Nat) p =>
        let y := requestUnit x.1 p.2 (decide (bodyAt c.body 4 = 1))
        (y.1, SMap.set 0xFF x.2 p.1 y.2)) (d, [])
      complete r.1 sq rsn.toNat { data := (List.range 32).flatMap fun i => bytesLE 1 (SMap.get 0xFF r.2 i) }

/-- BRAKE_TEST: requests the full proof test of one brake channel (R141). -/
def execBrakeTest (sq : Fin 17) (rsn : Word32) (s : State) : Host.Outcome State Fault Refusal :=
  s.run fun d =>
    match flightOp d sq rsn.toNat 0x0A with
    | none => d
    | some c =>
      let d := d.each (serviceLanes d) fun d l => onBrake d l (bodyAt c.body 0) fun b => { b with fullTest := 1 }
      complete d sq rsn.toNat {}

/-- The firmware slot that is not in use. -/
def spareFw (d : Dev) : Nat := 1 - d.rd .SYS_MODE_FW_SLOT

/-- Change a firmware slot of flash. -/
def onFw (d : Dev) (slot : Nat) (f : Option FwSlot → Option FwSlot) : Dev :=
  { d with flash := if slot = 0 then { d.flash with fw0 := f d.flash.fw0 } else { d.flash with fw1 := f d.flash.fw1 } }

/-- FW_DOWNLOAD: the device begins to write image `image`, read from host memory with or without its CRC, into the slot not in use; what
that slot held is bootable no longer (R435). -/
def execFwDownload (sq : Fin 17) (rsn : Word32) (image : FwImage) (crcOk : Bool) (s : State) : Host.Outcome State Fault Refusal :=
  s.run fun d =>
    match flightOp d sq rsn.toNat 0x40 with
    | none => d
    | some _ =>
      let d := onFw (startCmd d sq rsn.toNat) (spareFw d) fun x => x.map fun y => { y with bootable := false }
      onHost d fun h => { h with fwComing := some (image, crcOk) }

/-- The first command in flight with an opcode. -/
def flightFirst (d : Dev) (op : Nat) : Option HostCmd := d.host.flight.find? fun c => decide (c.opcode = op) && c.own

/-- FW_DOWNLOAD_WRITTEN: the image is in flash, or its CRC is wrong, or flash failed (R433, R435). -/
def execFwDownloadWritten (flashFault : Bool) (s : State) : Host.Outcome State Fault Refusal :=
  s.run fun d =>
    match flightFirst d 0x40, d.host.fwComing with
    | some c, some (image, crcOk) =>
      let d := onHost d fun h => { h with fwComing := none }
      if !crcOk then complete d c.sq c.rsn { status := 3, result := 1 }
      else if flashFault then complete (onFw d (spareFw d) fun _ => none) c.sq c.rsn { status := 3, result := 2 }
      else
        let d := onFw d (spareFw d) fun _ => some { image := image }
        complete (onHost d fun h => { h with fwLoaded := some (spareFw d) }) c.sq c.rsn {}
    | _, _ => d

/-- FW_ACTIVATE: the three lanes begin to verify the downloaded image (R435); its completion comes with FW_ACTIVATE_VERIFIED. -/
def execFwActivate (sq : Fin 17) (rsn : Word32) (s : State) : Host.Outcome State Fault Refusal :=
  s.run fun d =>
    match flightOp d sq rsn.toNat 0x41 with
    | none => d
    | some _ => onHost (startCmd d sq rsn.toNat) fun h => { h with fwVerify := true }

/-- FW_ACTIVATE_VERIFIED: the lanes mark the image bootable, or refuse it (R433, R435, R502). -/
def execFwActivateVerified (s : State) : Host.Outcome State Fault Refusal :=
  s.run fun d =>
    match d.host.fwVerify, flightFirst d 0x41, d.host.fwLoaded with
    | true, some c, some slot =>
      let d := onHost d fun h => { h with fwVerify := false }
      let x := if slot = 0 then d.flash.fw0 else d.flash.fw1
      match x with
      | some y =>
        if firmwareSigned y.image then
          complete (onFw d slot fun _ => some { y with bootable := true }) c.sq c.rsn {}
        else complete d c.sq c.rsn { status := 3, result := 1 }
      | none => complete d c.sq c.rsn { status := 3, result := 1 }
    | _, _, _ => d

/-- PKG_DOWNLOAD: package `p`, read from host memory with or without its CRC, goes to the lanes' staging regions (R326). -/
def execPkgDownload (sq : Fin 17) (rsn : Word32) (p : Package) (crcOk : Bool) (s : State) : Host.Outcome State Fault Refusal :=
  s.run fun d =>
    match flightOp d sq rsn.toNat 0x42 with
    | none => d
    | some _ =>
      let d := startCmd { d.put .SAF_PKG_STAT_STATE 1 with pkg := { d.pkg with checking := some p } } sq rsn.toNat
      onHost d fun h => { h with pkgCrcOk := crcOk }

/-- PKG_CHECK_DONE: the lanes have checked the downloaded package; its result is in the completion, in SAF_PKG_STAT and in EV_PKG_RESULT
(R326, Table 10-8). -/
def execPkgCheckDone (s : State) : Host.Outcome State Fault Refusal :=
  s.run fun d =>
    match d.pkg.checking, flightFirst d 0x42 with
    | some p, some c =>
      let r := if d.host.pkgCrcOk then acceptPackage d p
        else (reportPackage { d with pkg := { d.pkg with checking := none } } .badFormat, .badFormat)
      complete r.1 c.sq c.rsn { result := pkgCode r.2 }
    | _, _ => d

/-- DEVICE_RESET: its completion is written; the reset follows after 1 ms (R435). -/
def execDeviceReset (sq : Fin 17) (rsn : Word32) (s : State) : Host.Outcome State Fault Refusal :=
  s.run fun d =>
    match flightOp d sq rsn.toNat 0x43 with
    | none => d
    | some _ => onHost (complete d sq rsn.toNat {}) fun h => { h with resetDue := some (d.tb.ext + 1000000) }

/-- DEVICE_RESET_EXECUTE: 1 ms after the completion of DEVICE_RESET the device resets, with cause 0x3 (R435, R491). -/
def execDeviceResetExecute (s : State) : Host.Outcome State Fault Refusal :=
  s.run fun d =>
    match d.host.resetDue with
    | some t => if t ≤ d.tb.ext ∨ !d.tb.ticking then deviceReset d 3 else d
    | none => d

/-! Queues (R423, R425, R432). -/

/-- HST_SQq_CFG.EN takes a value: refused while its CQ is off; set from clear it returns the queue to head 0, and with SEQ_RESET clears its
completion store. -/
def sqEnable (d : Dev) (m : Master) (q : Nat) (en seqReset : Bool) : Dev :=
  if !en then d.wr .HST_SQ_CFG_EN q 0
  else if d.on .HST_SQ_CFG_EN q then d
  else if !d.on .HST_CQ_CFG_EN (d.rd .HST_SQ_CFG_CQ q) then d.busyReject m (0xA108 + 16 * q)
  else
    let d := ((d.wr .HST_SQ_CFG_EN q 1).wr .HST_SQ_STAT_HEAD q 0).wr .HST_SQ_STAT_Q_ERR q 0
    onHost d fun h =>
      { h with tails := SMap.set 0 h.tails q 0, store := if seqReset then SMap.set [] h.store q [] else h.store }

/-- SQ_ENABLE: a write of HST_SQq_CFG.EN with SEQ_RESET (R423, R425, R432). -/
def execSqEnable (m : Master) (q : Fin 16) (en seqReset : Bool) (s : State) : Host.Outcome State Fault Refusal :=
  s.run fun d => d.trigger m (0xA108 + 16 * q) (some (.HST_STATUS_BUSY, 0)) fun d => sqEnable d m q en seqReset

/-- HST_CQq_CFG.EN takes a value: clearing it is refused while an enabled SQ names the CQ or commands from such an SQ are in flight. -/
def cqEnable (d : Dev) (m : Master) (q : Nat) (en : Bool) : Dev :=
  let named := (List.range 16).any fun k => d.on .HST_SQ_CFG_EN k && decide (d.rd .HST_SQ_CFG_CQ k = q)
  let owed := d.host.flight.any fun c => decide (c.cq = some q)
  if !en then if named ∨ owed then d.busyReject m (0xA208 + 16 * q) else d.wr .HST_CQ_CFG_EN q 0
  else if d.on .HST_CQ_CFG_EN q then d
  else
    let d := (((d.wr .HST_CQ_CFG_EN q 1).wr .HST_CQ_STAT_TAIL q 0).wr .HST_CQ_STAT_PHASE q 1).wr .HST_CQ_STAT_Q_ERR q 0
    onHost d fun h => { h with heads := SMap.set 0 h.heads q 0 }

/-- CQ_ENABLE: a write of HST_CQq_CFG.EN (R423, R425). -/
def execCqEnable (m : Master) (q : Fin 16) (en : Bool) (s : State) : Host.Outcome State Fault Refusal :=
  s.run fun d => d.trigger m (0xA208 + 16 * q) (some (.HST_STATUS_BUSY, 0)) fun d => cqEnable d m q en

/-- HST_EVQ_CFG.EN takes a value: set from clear, copying starts at slot 0 with PHASE 1 (R438). -/
def evqEnable (d : Dev) (en : Bool) : Dev :=
  if !en then d.put .HST_EVQ_CFG_EN 0
  else if d.on .HST_EVQ_CFG_EN then d
  else onHost ((d.put .HST_EVQ_CFG_EN 1).put .HST_EVQ_STAT_TAIL 0) fun h => { h with evHead := 0, evPhase := true }

/-- EVQ_ENABLE: a write of HST_EVQ_CFG.EN (R438). -/
def execEvqEnable (m : Master) (en : Bool) (s : State) : Host.Outcome State Fault Refusal :=
  s.run fun d => d.trigger m 0xA028 (some (.HST_STATUS_BUSY, 0)) fun d => evqEnable d en

/-- The next record to copy: the first held that is newer than the last copied. -/
def nextRecord (d : Dev) : Option EventRec := d.log.recs.find? fun r => decide (0 < seqDiff r.seq d.host.copied)

/-- The event queue is full. -/
def evFull (d : Dev) : Bool := decide ((d.rd .HST_EVQ_STAT_TAIL + 1) % evSize d = d.host.evHead)

/-- EVENT_COPY: Crier copies the next record into the event queue while it has room; LOST marks a gap (R438, R439). -/
def execEventCopy (s : State) : Host.Outcome State Fault Refusal :=
  s.run fun d =>
    if d.on .HST_EVQ_CFG_EN ∧ d.on .HST_STATUS_LINK_UP ∧ !evFull d then
      match nextRecord d with
      | none => d
      | some r =>
        let gap := (seqDiff r.seq d.host.copied - 1).toNat
        let t := d.rd .HST_EVQ_STAT_TAIL
        let bs := (recordBytes r).set 3 (BitVec.ofNat 8 (bitOf d.host.evPhase + 2 * bitOf (decide (0 < gap))))
        let d := d.emit (.hostWrite (hostBase (d.rd .HST_EVQ_BASE_LO_ADDR) (d.rd .HST_EVQ_BASE_HI_ADDR) + 32 * t) bs)
        let wrap := decide (t + 1 = evSize d)
        let d := (d.put .HST_EVQ_STAT_TAIL (if wrap then 0 else t + 1)).incBy .HST_EVQ_STAT_LOST 0 gap
        onHost d fun h => { h with copied := r.seq, wrote := true, evPhase := if wrap then !h.evPhase else h.evPhase }
    else d

/-- MSIX_HINT: the message, if entries or records wait, the hint is on and HINT_US has passed since the last (R436). -/
def execMsixHint (unmasked : Bool) (s : State) : Host.Outcome State Fault Refusal :=
  s.run fun d =>
    let due : Bool := match d.host.lastMsg with
      | none => true
      | some t => decide (t + 1000 * d.rd .HST_CFG_HINT_US ≤ d.tb.ext)
    if d.on .HST_CFG_HINT_EN ∧ d.host.wrote ∧ due ∧ unmasked ∧ d.on .HST_STATUS_LINK_UP then
      onHost (d.emit .msix) fun h => { h with wrote := false, lastMsg := some d.tb.ext }
    else d

/-! Link resets (R437). -/

/-- A field of HST_. -/
def isHst (f : RegField) : Bool := decide (0xA000 ≤ f.desc.base ∧ f.desc.base < 0xB000)

/-- HST_LINK_DOWN: a function-level reset, a hot reset or a loss of the link resets the HST_ registers, with what waits to be written to them,
and disables every queue; commands in flight run on without a CQ (R437). -/
def execHstLinkDown (s : State) : Host.Outcome State Fault Refusal :=
  s.run fun d =>
    let d := { d with
      regs := d.regs.filter fun c => !isHst c.field
      sys := { d.sys with live := d.sys.live.filter fun p => !isHst p.2.field, posted := d.sys.posted.filter fun p => decide (p.busy ≠ 7) } }
    let d := onHost d fun h =>
      { h with tails := [], heads := [], turn := 0, evHead := 0, evPhase := true, wrote := false
               flight := h.flight.map fun c => { c with cq := none } }
    showFlight (d.event .HST_LINK_DOWN srcHost)

/-- HST_LINK_UP: the link trains (R437). -/
def execHstLinkUp (s : State) : Host.Outcome State Fault Refusal :=
  s.run fun d => if d.on .HST_STATUS_LINK_UP then d else (d.put .HST_STATUS_LINK_UP 1).event .HST_LINK_UP srcHost

end Sys2Proof.Machine
end

