-- ==== Sys2Proof/Machine/Groups.lean ====
section
/-!
DEFINITION. The group protocol: cycle starts, member frames, election, loss and partition, Quarantine, alignment of the frame number, and
commands between a Steward and its members (R464 to R485).
-/
namespace Sys2Proof.Machine

/-- A time stamp as 8 bytes of extended device time. -/
def stampBytes (t : Int) : List Byte := bytesLE 8 (fieldOf 64 t)

/-- The payload of a steward (1) or member (2) frame (Table 16-2). -/
def framePayload (d : Dev) (l kind present quar deputySlot : Nat) (tPrev : Int) (rx : List Int) : List Byte :=
  groupHeader d l kind present quar deputySlot ++ stampBytes tPrev ++ (Lane.all.flatMap fun x => bytesLE 8 (laneDigest d l x)) ++
    bytesLE 4 (d.rd .SYS_FW_VERSION_CODE) ++ bytesLE 4 0 ++ ((List.range 8).flatMap fun i => stampBytes (rx.getD i 0)) ++ bytesLE 8 0

/-- A partition is assumed (R478): flagged, counted and logged; G is STOP. -/
def assumePartition (d : Dev) (l : Nat) : Dev :=
  if (levelOf d l).partition then d
  else
    let d := ((d.flag .GRP_STATUS_PARTITION).inc .GRP_CNT1_PARTITIONS).event .GRP_PARTITION srcGroup (ownSlot d l) l
    let d := onLevel d l fun x => { x with partition := true }
    setG d l (max 1 (levelOf d l).g) (ownSlot d l) 2

/-! Cycle start (R467, R470, R474, R476). -/

/-- The group's roster at a cycle start: cycles without a frame of each other slot, and the frame of this cycle awaited. -/
def countMember (l : Nat) (d : Dev) (m : Nat) : Dev :=
  let x := memberOf d l m
  let d := if x.heard ∨ !x.present then d else (d.inc .GRP_MEM_CNT_LOST m).inc .GRP_CNT0_FRAMES_LOST
  onMember d l m fun x => { x with heard := false, silent := if x.heard then 0 else x.silent + 1 }

/-- The most restrictive local state of the slots, a slot not present counting as STOP; a slot in Quarantine does not enter (R472, R474). -/
def rawState (d : Dev) (l : Nat) : Nat × Nat × Nat :=
  (usedSlots d l).foldl (fun (b : Nat × Nat × Nat) m =>
    let own := decide (m = ownSlot d l)
    let (g, why) : Nat × Nat :=
      if own then (groupReported d l, 0) else if !(memberOf d l m).present then (1, 1)
      else if (memberOf d l m).quar then (0, 0) else ((memberOf d l m).state, 0)
    if b.1 < g then (g, m, why) else b) (0, ownSlot d l, 0)

/-- G of the parent group, when the group is itself a member (R474). -/
def parentG (d : Dev) (l : Nat) : Nat := if atLevel d (l + 1) ∧ 2 ≤ (levelOf d (l + 1)).role then (levelOf d (l + 1)).g else 0

/-- The Deputy: the lowest eligible present slot other than the Steward (R470). -/
def pickDeputy (d : Dev) (l : Nat) : Option Nat :=
  (usedSlots d l).find? fun m => decide (m ≠ ownSlot d l) && (slotAt d l m).eligible && slotPresent d l m

/-- A Steward's cycle start: Deputy, G and the steward frame. -/
def stewardCycle (d : Dev) (l : Nat) : Dev :=
  let (raw, slot, why) := rawState d l
  let all := (usedSlots d l).all (slotPresent d l)
  let d := onLevel d l fun x =>
    { x with raw := raw, calm := if all ∧ raw = 0 then x.calm + 1 else 0, granted := x.granted && decide (raw = 0) && all }
  let dep := pickDeputy d l
  let d := if dep = (levelOf d l).deputy then d
    else (onLevel d l fun x => { x with deputy := dep }).event .GRP_DEPUTY srcGroup (dep.getD (ownSlot d l)) l
  let x := levelOf d l
  let p := parentG d l
  let lower := decide (2 ≤ x.calm) && x.granted && !x.partition
  let held := max raw p
  let d := if lower then setG d l held (if held = p ∧ 0 < p then ownSlot d l else slot) (if held = 0 then 3 else 4)
    else
      let g := max (max x.g held) (bitOf x.partition)
      setG d l g slot (if x.partition ∧ g = 1 then 2 else if raw = g then why else 4)
  let d := if lower ∧ held = 0 then onLevel d l fun x => { x with granted := false } else d
  let x := levelOf d l
  let rx := (List.range 8).map fun m => ((memberOf d l m).rx).getD 0
  let bs := framePayload d l 1 (slotBits d l (slotPresent d l)) (slotBits d l fun m => (memberOf d l m).quar)
    (match x.deputy with
      | some m => m
      | none => 128) x.txStw rx
  let d := d.emit (.groupFrame (sectionOf d l).mac groupSource bs)
  onLevel d l fun x => { x with txStw := ptpTxStamp d 0 }

/-- GROUP_CYCLE_START at level `l`: at a tick whose BLF_FRAME_NO is a multiple of GCYC the cycles without frames are counted, and at 10.0 us a
Steward sets G and sends its steward frame (R467 to R470, R474, R476). -/
def execGroupCycleStart (l : Fin 5) (s : State) : Host.Outcome State Fault Refusal :=
  s.run fun d =>
    let x := levelOf d l
    if !atLevel d l ∨ !d.tb.ticking ∨ d.frameNo % (max 1 (sectionOf d l).gcyc) ≠ 0 ∨ x.cycle = some d.frameNo then d
    else
      let d := d.reach 10000
      let d := onLevel d l fun x => { x with cycle := some d.frameNo, role := if x.role = 0 then 1 else x.role }
      let d := if 3 ≤ x.role then d.each ((usedSlots d l).filter fun m => decide (m ≠ ownSlot d l)) (countMember l) else d
      let d := if 4 ≤ x.role then d
        else
          let d := if !x.heard ∧ 2 ≤ x.role then d.inc .GRP_CNT0_FRAMES_LOST else d
          onLevel d l fun x => { x with heard := false, quiet := if x.heard then 0 else x.quiet + 1 }
      showGroup (if 4 ≤ x.role then stewardCycle d l else d)

/-! Member frames (R467, R470, R474). -/

/-- MEMBER_FRAME_SEND at level `l`: at 10.0 us of frame GCYC/2 of the cycle a device that is not Steward sends its member frame (R467, R469). -/
def execMemberFrameSend (l : Fin 5) (s : State) : Host.Outcome State Fault Refusal :=
  s.run fun d =>
    let x := levelOf d l
    let g := max 1 (sectionOf d l).gcyc
    if !atLevel d l ∨ !d.tb.ticking ∨ d.frameNo % g ≠ g / 2 ∨ x.sentIn = some d.frameNo ∨ x.role = 0 ∨ 4 ≤ x.role then d
    else
      let d := d.reach 10000
      let bs := framePayload d l 2 0 0 0 (x.txMem.getD 0) [x.rxStw.getD 0]
      let d := d.emit (.groupFrame (sectionOf d l).mac groupSource bs)
      onLevel d l fun x => { x with sentIn := some d.frameNo, txMem := some (ptpTxStamp d 0) }

/-! Arriving frames (R467). -/

/-- The level of a GROUP_ID. -/
def levelOfGroup (d : Dev) (id : Nat) : Option Nat := (List.range (levelsUsed d)).find? fun l => decide ((sectionOf d l).groupId = id)

/-- LEVEL of a sender agrees with the KIND of its slot: a device sends at its level 0, a group's Steward above it. -/
def levelGood (d : Dev) (l slot level : Nat) : Bool :=
  match (slotAt d l slot).kind with
  | 1 => decide (level = 0)
  | 2 => decide (1 ≤ level ∧ level ≤ 4)
  | _ => false

/-- The level at which a frame is accepted; a frame with a wrong GROUP_ID, LEVEL or length is discarded and counted. -/
def acceptFrame (d : Dev) (groupId slot level length : Nat) : Dev × Option Nat :=
  match levelOfGroup d groupId with
  | none => (d.inc .GRP_CNT0_FRAMES_BAD, none)
  | some l =>
    if length = 128 ∧ slot < 8 ∧ levelGood d l slot level then (d, if atLevel d l ∧ slot ≠ ownSlot d l then some l else none)
    else
      let d := d.inc .GRP_CNT0_FRAMES_BAD
      (if 3 ≤ (levelOf d l).role ∧ slot < 8 then d.inc .GRP_MEM_CNT_BAD slot else d, none)

/-- The mean path delay and the offset of four stamps: T1, T4 of the other clock, T2, T3 of the own (R468). -/
def fourStamps (t1 t2 t3 t4 : Int) : Int × Int := (floorDiv ((t2 - t1) + (t4 - t3)) 2, floorDiv ((t1 - t2) + (t4 - t3)) 2)

/-- Time from a steward frame (R468): with SOURCE 3 the stamps of consecutive cycles give one offset, which waits for the discipline (R56). The
stamps of a cycle in which either frame was lost give none: the steward frame before this one must be of the cycle before, and T_RX must have
changed. -/
def stewardTime (d : Dev) (l : Nat) (f : GroupFrame) : Dev :=
  let x := levelOf d l
  let stamp := ptpRxStamp d 0
  let t4 := f.tRx.getD (ownSlot d l) 0
  let next := decide (f.frameNo = (x.stwFrame + (sectionOf d l).gcyc) % 2 ^ 32)
  let d := match x.rxStw, x.txMem with
    | some t2, some t3 =>
      if t4 = 0 ∨ t4 = x.seen ∨ !next then d
      else
        let (path, raw) := fourStamps f.tPrev t2 t3 t4
        let d := onLevel d l fun x => { x with path := path }
        if d.rd .BLF_CFG_SOURCE = 3 then { d with tb := { d.tb with groupOffset := some raw } } else d
    | _, _ => d
  onLevel d l fun x => { x with rxStw := some stamp, stwFrame := f.frameNo, seen := t4 }

/-- Frames by which this device's count must advance to equal the Steward's: the frame was sent at 10.0 us of the cycle's first frame and took
the mean path delay (R467, R471). -/
def frameLag (d : Dev) (l : Nat) (f : GroupFrame) : Int :=
  let lag := floorDiv (10000 + max 0 (levelOf d l).path) d.frameNs
  signedOf 32 (fieldOf 32 ((f.frameNo : Int) + lag - d.frameNo))

/-- A device joins its group (R471): its time base LOCKED and its frame number the Steward's. -/
def joinCheck (d : Dev) (l : Nat) : Dev :=
  let x := levelOf d l
  if x.role = 1 ∧ x.align = none ∧ x.stw.isSome ∧ d.rd .BLF_CFG_SOURCE = 3 ∧ timeState d = .locked then
    (onLevel d l fun x => { x with role := if x.deputy = some (ownSlot d l) then 3 else 2 }).event .GRP_JOIN srcGroup (ownSlot d l) l
  else d

/-- Output `k` goes to its inactive level, where it stays in Quarantine (R472). -/
def ttQuiet (d : Dev) (k : Nat) : Dev :=
  if (ttOut d k).pulseEnd.isSome then
    let d := setTtOut d k { ttOut d k with pulseEnd := none }
    d.emit (.ttLevel k (ttLevel d k))
  else d

/-- The Quarantine checks of a joined member (R472, R473). -/
def quarantineCheck (d : Dev) (l : Nat) (f : GroupFrame) : Dev :=
  let ref := firstDigest f.digest
  let digests := (f.digest ++ Lane.all.map (laneDigest d l)).filter fun n => decide (n ≠ 0)
  let badDigest := digests.any fun n => decide (n ≠ ref)
  let badFw := decide (f.fw ≠ d.rd .SYS_FW_VERSION_CODE)
  let badFrame := decide (f.frameNo ≠ groupFrameNo d l)
  let named := f.quar.testBit (ownSlot d l)
  let d := if badDigest then d.flag .GRP_STATUS_DIGEST_MISMATCH else d
  let d := if badFw then d.flag .GRP_STATUS_VERSION_MISMATCH else d
  let bad := badDigest || badFw || badFrame
  let x := levelOf d l
  if x.quarantined then onLevel d l fun x => { x with matched := if bad then 0 else x.matched + 1 }
  else if bad ∨ named then
    let d := onLevel d l fun x => { x with quarantined := true, matched := 0 }
    let d := d.each (List.range 8) ttQuiet
    sendLanes (d.event .GRP_QUARANTINE srcGroup (ownSlot d l) l) (levelOf d 0).g true
  else d

/-- A joined member's G and Deputy from a steward frame (R470, R475). -/
def followSteward (d : Dev) (l : Nat) (f : GroupFrame) : Dev :=
  let dep := if f.deputySlot.testBit 7 then none else some (f.deputySlot % 8)
  let own := ownSlot d l
  let d := onLevel d l fun x =>
    { x with deputy := dep, g := f.gstate, stewardLost := false, stwDigest := firstDigest f.digest, stwFw := f.fw, stwPresent := f.present
             stwQuar := f.quar, role := if x.role = 2 ∧ dep = some own then 3 else if x.role = 3 ∧ dep ≠ some own then 2 else x.role }
  let d := if 2 ≤ (levelOf d l).role then quarantineCheck d l f else d
  if l = 0 ∧ 2 ≤ (levelOf d 0).role then sendLanes d f.gstate (anyQuar d) else d

/-- STEWARD_FRAME_RECEIVED: a member takes a steward frame for time, G and the Quarantine checks; a Steward that hears a foreign one keeps or
yields its role (R468 to R472, R475, R478). -/
def execStewardFrameReceived (f : GroupFrame) (s : State) : Host.Outcome State Fault Refusal :=
  s.run fun d =>
    let (d, lv) := acceptFrame d f.groupId f.slot f.level f.length
    match lv with
    | none => d
    | some l =>
      let x := levelOf d l
      if 4 ≤ x.role ∧ ownSlot d l < f.slot then
        showGroup (onLevel d l fun x => { x with partition := false })
      else
        let d := if 4 ≤ x.role then dropAbove (onLevel d l fun x => { x with role := 1, partition := false, members := [], stw := none }) l
          else d
        let x := levelOf d l
        let other := match x.stw with
          | some m => decide (m < f.slot) && (x.heard || decide (x.quiet = 0))
          | none => false
        if other then d
        else
          let d := stewardTime d l f
          let lag := frameLag d l f
          let d := onLevel d l fun x =>
            { x with stw := some f.slot, heard := true, quiet := 0, align := if lag = 0 then none else some lag }
          showGroup (followSteward (joinCheck d l) l f)

/-- MEMBER_FRAME_RECEIVED: a Steward or Deputy records a member's local state, digests and stamps (R467, R468, R470, R471). -/
def execMemberFrameReceived (f : GroupFrame) (s : State) : Host.Outcome State Fault Refusal :=
  s.run fun d =>
    let (d, lv) := acceptFrame d f.groupId f.slot f.level f.length
    match lv with
    | none => d
    | some l =>
      let x := levelOf d l
      if x.role < 3 then d
      else
        let stamp := ptpRxStamp d 0
        let d := onMember d l f.slot fun m =>
          let path := match m.rx with
            | some t4 =>
              if f.tRx.getD 0 0 = 0 ∨ f.tRx.getD 0 0 = m.seen ∨ f.frameNo ≠ (m.frame + (sectionOf d l).gcyc) % 2 ^ 32 then m.path
              else (fourStamps x.txStw (f.tRx.getD 0 0) f.tPrev t4).1
            | none => m.path
          { m with present := f.flags.testBit 4, joined := f.flags.testBit 4, quar := f.flags.testBit 2, slew := f.flags.testBit 3
                   state := f.gstate, heard := true, silent := 0, rx := some stamp, digest := f.digest, fw := f.fw, frame := f.frameNo
                   path := path, seen := f.tRx.getD 0 0 }
        showGroup d

/-! Commands between Steward and members (R482). -/

/-- What a forwarded command gets that can no longer run as judged: a result code of Table 7-12, or nothing. -/
def changedSince (d : Dev) (op : Nat) (b : List Byte) : Option Nat :=
  if classOf op ≠ some 0 then none
  else if setStopped d (axsetOf b) then some 0x02
  else if planAdmission d op b ≠ 0 then some 0x01
  else none

/-- GROUP_COMMAND_FRAME: a member executes a command its Steward forwarded, without judging it again; a Steward of the group below sends it on
(R482). -/
def execGroupCommandFrame (f : GroupEntry) (s : State) : Host.Outcome State Fault Refusal :=
  s.run fun d =>
    let (d, lv) := acceptFrame d f.groupId f.slot f.level f.length
    match lv with
    | none => d
    | some l =>
      let x := levelOf d l
      if (x.role ≠ 2 ∧ x.role ≠ 3) ∨ x.stw ≠ some f.slot then d
      else
        let e := (f.entry ++ List.replicate 64 0).take 64
        let op := bodyAt e 0
        let tag := f.tag.toNat
        match classOf op, inFlight d 16 tag with
        | some cls, none =>
          let c : HostCmd := { sq := 16, rsn := tag, opcode := op, cls := cls, admitAt := d.frameNo, body := e.drop 16 }
          let d := (onHost d fun h => { h with flight := h.flight ++ [c] }).inc .GRP_CNT1_FORWARDED
          match (if stewards d = 0 then changedSince d op (e.drop 16) else none) with
          | some r => complete d 16 tag { result := r }
          | none => route d 16 tag op e
        | _, _ => d

/-- GROUP_COMPLETION_FRAME: the Steward receives the completion of a command, or a part of one, that it forwarded (R482). -/
def execGroupCompletionFrame (f : GroupEntry) (s : State) : Host.Outcome State Fault Refusal :=
  s.run fun d =>
    let (d, lv) := acceptFrame d f.groupId f.slot f.level f.length
    match lv with
    | none => d
    | some l =>
      if (levelOf d l).role < 4 then d
      else
        let e := f.entry
        let status := bodyAt e 6
        let query := decide (bodyAt e 5 = 0x30)
        partDone d f.tag.toNat
          { status := status, reason := bodyAt e 0xA, result := if query then 0 else body32 e 0x10, start := if query then 0 else body32 e 0x18
            fin := if query then 0 else body32 e 0x1C, data := if query then [] else e.drop 0x20
            query := if query then e.drop 0x10 else [] }

/-! Election and loss (R469, R477, R478). -/

/-- STEWARD_ELECTION at level `l`: a listening eligible device that has heard no steward frame for (1 + slot) × LOSS_CYC cycles becomes Steward
(R469). -/
def execStewardElection (l : Fin 5) (s : State) : Host.Outcome State Fault Refusal :=
  s.run fun d =>
    let x := levelOf d l
    let own := ownSlot d l
    if atLevel d l ∧ x.role = 1 ∧ (slotAt d l own).eligible ∧ (1 + own) * (sectionOf d l).lossCyc ≤ x.quiet then
      let d := onLevel d l fun x => { x with role := 4, stw := none, stewardLost := false, align := none, members := [] }
      showGroup (d.event .GRP_STEWARD srcGroup own l)
    else d

/-- Commands forwarded to a lost slot complete FLUSHED (Table 16-4). -/
def flushSlot (d : Dev) (l m : Nat) : Dev :=
  let tags := d.host.flight.flatMap fun c => (c.parts.filter fun p => decide (p.level = l ∧ p.slot = m) && !p.done).map (·.tag)
  d.each tags fun d t => partDone d t { status := 4 }

/-- GRP_MEMBER_LOST: slot `m` of level `l` has sent no valid member frame for LOSS_CYC cycles (R477); the loss of the Deputy is a partition (R478). -/
def execGrpMemberLost (l : Fin 5) (m : Fin 8) (s : State) : Host.Outcome State Fault Refusal :=
  s.run fun d =>
    let x := levelOf d l
    if atLevel d l ∧ 4 ≤ x.role ∧ (memberOf d l m).present ∧ (sectionOf d l).lossCyc ≤ (memberOf d l m).silent then
      let d := onMember d l m fun y => { y with present := false, joined := false }
      let d := ((d.flag .GRP_STATUS_MEMBER_LOST).flag .GRP_MEM_STAT_LOST m).event .GRP_MEMBER_LOST srcGroup m l
      let d := flushSlot d l m
      showGroup (if x.deputy = some m.val then assumePartition d l else d)
    else d

/-- GRP_STEWARD_LOST: no steward frame for LOSS_CYC cycles (R477): local state STOP; the Deputy assumes a partition and acts as Steward (R478). -/
def execGrpStewardLost (l : Fin 5) (s : State) : Host.Outcome State Fault Refusal :=
  s.run fun d =>
    let x := levelOf d l
    if atLevel d l ∧ (x.role = 2 ∨ x.role = 3) ∧ !x.stewardLost ∧ (sectionOf d l).lossCyc ≤ x.quiet then
      let d := onLevel d l fun x => { x with stewardLost := true, stw := none }
      let d := (d.flag .GRP_STATUS_STEWARD_LOST).event .GRP_STEWARD_LOST srcGroup (x.stw.getD 0) l
      let d := if x.role = 3 then assumePartition (onLevel d l fun x => { x with role := 5, stewardLost := false }) l
        else onLevel d l fun x => { x with g := max 1 x.g }
      showGroup (if l.val = 0 then sendLanes d (levelOf d 0).g (anyQuar d) else d)
    else d

/-- GRP_FRAME_ALIGN at level `l`: at a tick with every unit DISABLED the frame number takes the Steward's count, and the rings carry SEQ_RESET (R49,
R167, R471). -/
def execGrpFrameAlign (l : Fin 5) (s : State) : Host.Outcome State Fault Refusal :=
  s.run fun d =>
    match (levelOf d l).align with
    | none => d
    | some n =>
      if atLevel d l ∧ allDisabled d ∧ d.tb.ticking then
        let d := d.put .BLF_FRAME_NO_NO (fieldOf 32 ((d.frameNo : Int) + n))
        let d := d.each Lane.all fun d x => onRing d x fun r => { r with seqReset := true }
        let d := onLevel d l fun x => { x with align := none }
        let d := (d.flag .GRP_STATUS_FRAME_ALIGNED).event .GRP_FRAME_ALIGN srcGroup (ownSlot d l) l
        showGroup (joinCheck d l)
      else d

/-! Leaving Quarantine (R473). -/

/-- Level `l` leaves Quarantine once 2 consecutive cycles have matched and every unit is DISABLED. -/
def leaveQuarantine (d : Dev) (l : Nat) : Dev :=
  let x := levelOf d l
  if x.quarantined ∧ 2 ≤ x.matched ∧ allDisabled d then
    let d := onLevel d l fun x => { x with quarantined := false, matched := 0 }
    let d := d.event .GRP_QUARANTINE_END srcGroup (ownSlot d l) l
    showGroup (sendLanes d (levelOf d 0).g (anyQuar d))
  else d

/-- GRP_QUARANTINE_END at level `l` (R473). -/
def execGrpQuarantineEnd (l : Fin 5) (s : State) : Host.Outcome State Fault Refusal := s.run fun d => leaveQuarantine d l

/-- A write of GRP_CTRL.REJOIN: the check of R473 is made at once, at every level. -/
def rejoin (d : Dev) : Dev := d.each (List.range 5) leaveQuarantine

/-- GRP_REJOIN: a write of GRP_CTRL.REJOIN (R473). -/
def execGrpRejoin (m : Master) (s : State) : Host.Outcome State Fault Refusal :=
  s.run fun d => d.trigger m 0xD038 (some (.GRP_STATUS_BUSY, 0)) rejoin

/-- A member that restarts its rings returns to LISTEN (Table 16-4). -/
def groupRestart (d : Dev) : Dev :=
  dropAbove (onLevel d 0 fun x => { x with role := min x.role 1, stw := none, members := [], align := none }) 0

end Sys2Proof.Machine
end

