-- ==== Sys2Proof/Machine/LocalAxes.lean ====
section
/-!
DEFINITION. Local axes, chapter 11: feedback ports (edges, references, serial encoders, the observer, velocity sources, channel
faults, R333 to R353) and step/pulse ports (targets, step timing, standby, lost steps, repetition, R354 to R368). Time stamps
and instants are in quarter nanoseconds where the 6.25 ns clock of the sensor domain matters.
-/
namespace Sys2Proof.Machine

/-- Feedback port `k`. -/
def fbOf (d : Dev) (k : Nat) : FbPort := SMap.get {} d.axes.fb k

/-- Change feedback port `k`. -/
def onFb (d : Dev) (k : Nat) (f : FbPort → FbPort) : Dev :=
  { d with axes := { d.axes with fb := SMap.modify {} d.axes.fb k f } }

/-- Step/pulse port `k`. -/
def spOf (d : Dev) (k : Nat) : StpPort := SMap.get {} d.axes.sp k

/-- Change step/pulse port `k`. -/
def onSp (d : Dev) (k : Nat) (f : StpPort → StpPort) : Dev :=
  { d with axes := { d.axes with sp := SMap.modify {} d.axes.sp k f } }

/-- Port `k` is enabled and counts edges. -/
def fbCounts (d : Dev) (k : Nat) : Bool := d.on .FBK_CFG_EN k && (d.rd .FBK_CFG_MODE k = 1 || d.rd .FBK_CFG_MODE k = 2)

/-- Port `k` is enabled with a serial encoder. -/
def fbAbsolute (d : Dev) (k : Nat) : Bool := d.on .FBK_CFG_EN k && (d.rd .FBK_CFG_MODE k = 3 || d.rd .FBK_CFG_MODE k = 4)

/-- Device time in quarter nanoseconds. -/
def nowQ (d : Dev) : Int := 4 * d.tb.ext

/-- A millisecond in quarter nanoseconds. -/
def msQ : Int := 4000000

/-! Channel errors (R351). -/

/-- Declare a channel fault: the flag and the event; VALID clears at the next latch instant. -/
def chanFault (d : Dev) (k : Nat) : Dev :=
  if d.on .FBK_STAT_CHAN_FAULT k then d else (d.wr .FBK_STAT_CHAN_FAULT k 1).event .CHAN_FAULT (srcFeedback k) k

/-- A channel error at time `t`: the fifth within 1 ms is a channel fault. -/
def chanError (d : Dev) (k : Nat) (t : Int) : Dev :=
  let es := (fbOf d k).errs ++ [t]
  let d := onFb d k fun p => { p with errs := es.drop (es.length - 4) }
  match es with
  | [t0, _, _, _, t4] => if t4 - t0 ≤ msQ then chanFault d k else d
  | _ => d

/-- A reference check of port `k` has failed or passed (R339, R342, R351). -/
def refCheck (d : Dev) (k : Nat) (ok : Bool) (t : Int) : Dev :=
  if ok then onFb d k fun p => { p with refFails := 0 }
  else
    let d := onFb d k fun p => { p with refFails := p.refFails + 1 }
    let d := chanError ((d.flag .FBK_STAT_REF_ERR k).inc .FBK_ERR_REF_CNT k) k t
    if 3 ≤ (fbOf d k).refFails then chanFault d k else d

/-- A reference event at count `y` (R339, R342); `period` is CPR or TEETH, `reversal` whether a difference of 0 is no error. -/
def reference (d : Dev) (k : Nat) (y : Int) (t : Int) (period : Nat) (reversal : Bool) : Dev :=
  match d.rd .FBK_CFG_REF_MODE k with
  | 0 | 3 => d
  | m =>
    let d := (d.flag .FBK_STAT_REF_SEEN k).wr .FBK_REFPOS_Y k (fieldOf 32 y)
    let was := (fbOf d k).refAt
    let d := onFb d k fun p => { p with refAt := some y, refLate := false }
    match m, was with
    | 2, some y0 => refCheck d k (decide ((y - y0).natAbs = period) || (reversal && decide (y = y0))) t
    | _, _ => d

/-! Repetition (R364, R365). -/

/-- One count of source `k`, in the positive direction or not, at a port that repeats it. -/
def repeatCount (up : Bool) (d : Dev) (j : Nat) : Dev :=
  let den : Int := d.rd .STP_RATIO_DEN j
  let num : Int := d.rd .STP_RATIO_NUM j
  let a := (spOf d j).acc + (if up then num else -num)
  let (a, out) : Int × Option Bool := if den ≤ a then (a - den, some true) else if a < 0 then (a + den, some false) else (a, none)
  let d := onSp d j fun p => { p with acc := a }
  match out with
  | none => d
  | some b =>
    if (spOf d j).queue.length < 255 then onSp d j fun p => { p with queue := p.queue ++ [b], ovfEp := false }
    else
      let d := d.flag .STP_STAT_REP_OVF j
      if (spOf d j).ovfEp then d else (onSp d j fun p => { p with ovfEp := true }).event .REP_OVF (srcStep j) j

/-- The ports that repeat feedback port `k` and run. -/
def repeaters (d : Dev) (k : Nat) : List Nat :=
  (List.range 16).filter fun j => d.on .STP_CTRL_RUN j && decide (d.rd .STP_CFG_MODE j = 2 ∧ d.rd .STP_CFG_REP_SRC j = k)

/-- `n` counts of source `k` reach the ports that repeat it; none while it has a channel fault (R366). -/
def repeatCounts (d : Dev) (k : Nat) (n : Int) : Dev :=
  if d.on .FBK_STAT_CHAN_FAULT k then d
  else d.each (repeaters d k) fun d j => d.each (List.range n.natAbs) fun d _ => repeatCount (decide (0 < n)) d j

/-- The outputs of the step/pulse ports stay low in Boot and Hold mode and in the Safe state reached by DEEN (R367); in Quarantine they emit
no steps (R472). -/
def portsDark (d : Dev) : Bool :=
  d.on .GRP_STATUS_QUARANTINED ||
  match d.mode with
  | .boot | .hold => true
  | _ => (d.lanes.get d.firstLane).saf.deen

/-- A reference event of source `k` at the ports that repeat it one to one (R364). -/
def repeatReference (d : Dev) (k : Nat) : Dev :=
  if d.on .FBK_STAT_CHAN_FAULT k ∨ portsDark d then d
  else d.each (repeaters d k) fun d j =>
    if d.rd .STP_RATIO_NUM j = d.rd .STP_RATIO_DEN j then d.emit (.refPulse j) else d

/-! Edges (R333 to R342). -/

/-- Add `n` counts at stamp `t`: the count, the two last edges, a latched count that the edge's stamp precedes or meets (R334), and the
repeating ports. -/
def addCounts (d : Dev) (k : Nat) (n : Int) (t : Int) : Dev :=
  let d := onFb d k fun p => { p with y := p.y + n, edge0 := p.edge1, edge1 := some (t, n) }
  let d := if t ≤ 4 * d.axes.latchAt then
      (onFb d k fun p => { p with latchedY := p.latchedY + n }).wr .FBK_CNT_Y k (fieldOf 32 ((fbOf d k).latchedY + n)) else d
  repeatCounts d k n

/-- The count of a change of (A, B), +1 along 00, 10, 11, 01 (R337). -/
def quadCount (a b a' b' : Bool) : Int :=
  let ix := fun (x y : Bool) => match x, y with
    | false, false => 0
    | true, false => 1
    | true, true => 2
    | false, true => 3
  match (ix a' b' + 4 - ix a b) % 4 with
  | 1 => 1
  | 3 => -1
  | _ => 0

/-- A and B have changed in one sample (R338). -/
def quadError (d : Dev) (k : Nat) (t : Int) : Dev :=
  let again := match (fbOf d k).lastQuad with
    | some t0 => decide (t - t0 ≤ msQ)
    | none => false
  let d := onFb d k fun p => { p with lastQuad := some t, stepBad := true }
  let d := (d.flag .FBK_STAT_QUAD_ERR k).inc .FBK_ERR_QUAD_CNT k
  let d := if again then d else d.event .QUAD_ERR (srcFeedback k) k
  chanError d k t

/-- An index event of R339: the first count in its direction at which Z is high and (A, B) equals Z_AB; it ends with Z low. -/
def indexEvent (d : Dev) (k : Nat) (up : Bool) (t : Int) : Dev :=
  if (fbOf d k).indexDone = some up then d
  else
    let d := onFb d k fun p => { p with indexDone := some up }
    repeatReference (reference d k (fbOf d k).y t (d.rd .FBK_CPR_N k) true) k

/-- An edge in quadrature mode (R337 to R339). -/
def quadEdge (d : Dev) (k : Nat) (old : FbPort) (a b z : Bool) (t : Int) : Dev :=
  let d := if z then d else onFb d k fun p => { p with indexDone := none }
  if a ≠ old.a ∧ b ≠ old.b then quadError d k t
  else
    let c := quadCount old.a old.b a b
    if c = 0 then d
    else
      let d := addCounts d k (if d.on .FBK_CFG_INV k then -c else c) t
      if z ∧ bitOf a + 2 * bitOf b = d.rd .FBK_CFG_Z_AB k then indexEvent d k (decide (0 < c)) t else d

/-- A rising edge of A in pulse train mode (R340 to R342). -/
def toothEdge (d : Dev) (k : Nat) (b : Bool) (t : Int) : Dev :=
  let p := fbOf d k
  let miss := d.rd .FBK_TEETH_MISS k
  let teeth := d.rd .FBK_TEETH_N k
  let pos := match d.rd .FBK_CFG_DIR_SRC k with
    | 0 => true
    | 1 => false
    | _ => b
  let sign : Int := if pos != d.on .FBK_CFG_INV k then 1 else -1
  let delta := p.tooth.map fun t0 => t - t0
  let tested := match delta, p.interval with
    | some x, some prev => if prev ≤ 4000 * (d.rd .FBK_EIMAX_US k : Int) then some (x, prev) else none
    | _, _ => none
  let gap := match tested with
    | some (x, prev) => decide (0 < miss) && decide ((2 * (miss : Int) + 1) * prev ≤ 2 * x)
    | none => false
  let extra := match tested with
    | some (x, prev) => decide (miss = 0) && decide (4 * x ≤ 3 * prev)
    | none => false
  if extra then repeatReference (reference d k p.y t teeth false) k
  else
    let n : Int := if gap then sign * (miss + 1) else sign
    let d := addCounts (onFb d k fun q => { q with tooth := some t, interval := delta }) k n t
    let y := (fbOf d k).y
    if gap then repeatReference (reference d k y t teeth false) k
    else match d.rd .FBK_CFG_REF_MODE k, p.refAt with
      | 2, some y0 =>
        if (teeth : Int) + 1 ≤ (y - y0).natAbs ∧ !p.refLate then
          refCheck (onFb d k fun q => { q with refLate := true }) k false t
        else d
      | _, _ => d

/-- FB_EDGE: the filtered lines of feedback port `k` take new levels; `stamp` is the time of the edge in 1/4 ns (R333, R334). -/
def execFbEdge (k : Fin 16) (a b z : Bool) (stamp : Int) (s : State) : Host.Outcome State Fault Refusal :=
  s.run fun d =>
    if fbCounts d k then
      let old := fbOf d k
      let d := onFb d k fun p => { p with a := a, b := b, z := z }
      if d.rd .FBK_CFG_MODE k = 1 then quadEdge d k old a b z stamp
      else if a ∧ !old.a then toothEdge d k b stamp else d
    else d

/-! Observer and velocity (R348 to R350). -/

/-- v_ei at time `t`, by the first row of R349's table that fits; an extra tooth counts nothing and is no edge of it. -/
def edgeVelocity (p : FbPort) (eimaxUs : Nat) (t : Int) : F64 :=
  match p.edge1, p.edge0 with
  | some (t1, n1), some (t0, n0) =>
    if decide (0 < n1) ≠ decide (0 < n0) then f64Zero
    else if t - t1 ≤ t1 - t0 then f64OfRatio (n1 * 4000000000) (t1 - t0).toNat
    else if t - t1 ≤ 4000 * (eimaxUs : Int) then f64OfRatio ((if 0 < n1 then 1 else -1) * 4000000000) (t - t1).toNat
    else f64Zero
  | _, _ => f64Zero

/-- The velocity source after a step (R350): edge intervals below V_LOW, the observer from 1.25 V_LOW on. -/
def chooseSource (vlow : Nat) (p : FbPort) : FbPort :=
  let m := f64Abs p.obs.v
  let low := if f64Le (f64OfRatio (5 * vlow) 4) m then false else if f64Lt m (f64Nat vlow) then true else p.low
  { p with low := low, blend := if low ≠ p.low then 1 else min 16 (p.blend + 1) }

/-- v_rep (R350): the source in force, reached linearly over 16 steps after a change. -/
def reported (p : FbPort) : F64 :=
  let new := if p.low then p.vei else p.obs.v
  let old := if p.low then p.obs.v else p.vei
  if 16 ≤ p.blend then new else f64Add old (f64Mul (f64OfRatio p.blend 16) (f64Sub new old))

/-- The step of the observer of an incremental port, s (R348). -/
def fbStepS : F64 := f64OfRatio 125 160000000

/-- Deliver p, v and a at the latch instant of port `k` (R352). -/
def showMotion (d : Dev) (k : Nat) : Dev :=
  let p := fbOf d k
  let a := if p.low then f64Zero else p.obs.a
  let d := onFb d k fun q => { q with latched := ⟨p.obs.p, reported p, a⟩ }
  (d.wr .FBK_VEL_V k (f64ToBits32 (reported p))).wr .FBK_ACC_A k (f64ToBits32 a)

/-- FB_OBSERVER_STEP: step `i` of the frame of an incremental port (R348, R349); step 0 falls at the latch instant and gives the state
delivered there (R352). A step whose interval holds an error of R338 coasts. -/
def execFbObserverStep (k : Fin 16) (i : Fin 320) (s : State) : Host.Outcome State Fault Refusal :=
  s.run fun d =>
    if fbCounts d k then
      let t := 4 * d.axes.latchAt + 3125 * (i.val : Int)
      let ts := fbStepS
      let p := fbOf d k
      let o := obsPredict ts p.obs
      let o := if p.stepBad then o else obsCorrect (obsGains (d.rd .FBK_OBS_F_OBS k) ts) ts p.y o
      let p := chooseSource (d.rd .FBK_VLOW_V k) { p with obs := o, stepBad := false, vei := edgeVelocity p (d.rd .FBK_EIMAX_US k) t }
      let d := (onFb d k fun _ => p).wr .FBK_STAT_LOW k (bitOf p.low)
      if i.val = 0 then showMotion d k else d
    else d

/-! Serial encoders (R343 to R347). -/

/-- Transfer time of an absolute port in quarter ns (R347). -/
def transferQ (d : Dev) (k : Nat) : Nat :=
  let len := d.rd .FBK_SER0_LEN k
  let f := d.rd .FBK_SER1_CLK_KHZ k
  let w := d.rd .FBK_SER0_LEAD k + len + d.rd .FBK_SER0_TRAIL k
  if d.rd .FBK_CFG_MODE k = 3 then
    let n := 1 + w + (if d.on .FBK_SER0_DOUBLE k then 1 + w else 0)
    ceilDiv (n * 4000000) f + 25 * d.rd .FBK_SER0_DLY k
  else
    let n := d.rd .FBK_SER2_ACK_MAX k + 3 + len + d.rd .FBK_SER0_ERR_BIT k + d.rd .FBK_SER0_WARN_BIT k + d.rd .FBK_SER0_CRC_LEN k
    ceilDiv (n * 4000000) f + 4000

/-- The transfer of port `k` fits the frame (R347) with latch offset `latch`, 8 ns units, and period `frameNs`. -/
def transferFits (d : Dev) (k latch frameNs : Nat) : Bool :=
  let t := transferQ d k
  decide (32 * latch + t + 28000 ≤ 4 * frameNs ∧ t + 4000 * d.rd .FBK_SER2_TM_US k ≤ 4 * frameNs)

/-- The configuration of an enabled port meets R336, R347 and R348; `fobs` is its observer bandwidth. -/
def fbConfigOk (d : Dev) (k fobs latch frameNs : Nat) : Bool :=
  match d.rd .FBK_CFG_MODE k with
  | 0 => true
  | 1 | 2 => decide (20 ≤ fobs ∧ fobs ≤ 20000)
  | 3 | 4 =>
    let f := d.rd .FBK_SER1_CLK_KHZ k
    decide (20 ≤ fobs ∧ fobs ≤ maxObs (frameNs / 62500)) && decide (100 ≤ f ∧ f ≤ (if d.rd .FBK_CFG_MODE k = 3 then 4000 else 10000)) &&
      transferFits d k latch frameNs
  | _ => false

/-- Flag a refused feedback configuration. -/
def fbReject (d : Dev) (k : Nat) : Dev := (d.flag .FBK_STAT_FB_CFG_REJECT k).event .FB_CFG_REJECT (srcFeedback k) k

/-- The latch offset in force, ns. -/
def latchNs (d : Dev) : Nat := 8 * d.tb.latchNow

/-- An absolute sample of this frame is invalid (R343 to R346, R351): flag, channel error, the observer coasts. -/
def badSample (d : Dev) (k : Nat) (crc : Bool) : Dev :=
  let d := (d.flag .FBK_STAT_SER_ERR k).inc (if crc then .FBK_ERR_CRC_CNT else .FBK_ERR_OTHER_CNT) k
  let d := onFb d k fun p => { p with badRun := p.badRun + 1, coast := p.coast + 1, obs := obsPredict d.frameS p.obs }
  let d := chanError (d.wr .FBK_STAT_VALID k 0) k (nowQ d)
  if 3 ≤ (fbOf d k).badRun then chanFault d k else d

/-- Deliver the count and the state of port `k` at the latch instant (R352). -/
def showPort (d : Dev) (k : Nat) : Dev :=
  let d := onFb d k fun q => { q with latchedY := q.y }
  showMotion (d.wr .FBK_CNT_Y k (fieldOf 32 (fbOf d k).y)) k

/-- A valid position word `x` of `len` bits (R346): extended to the count, the observer corrected. -/
def goodWord (d : Dev) (k len x : Nat) : Dev :=
  let p := fbOf d k
  let y := match p.xPrev with
    | none => (x : Int)
    | some x0 => if len = 32 then (x : Int) else p.y + signedOf len ((x + 2 ^ len - x0 % 2 ^ len) % 2 ^ len)
  let y := if len = 32 ∧ p.xPrev.isSome then p.y + signedOf 32 ((x + 2 ^ 32 - fieldOf 32 p.y) % 2 ^ 32) else y
  let jump := match p.xPrev with
    | none => false
    | some x0 => decide (d.rd .FBK_SER2_MAXD k < (signedOf len ((x + 2 ^ len - x0 % 2 ^ len) % 2 ^ len)).natAbs)
  if jump then badSample d k false
  else
    let t := d.frameS
    let o := if p.xPrev.isNone then obsAt y else obsCorrect (obsGains (d.rd .FBK_OBS_F_OBS k) t) t y (obsPredict t p.obs)
    let d := onFb d k fun q => { q with y := y, xPrev := some x, badRun := 0, coast := 0, obs := o }
    showPort (d.wr .FBK_STAT_VALID k (bitOf (d.rd .FBK_STAT_CHAN_FAULT k = 0))) k

/-- The position word of an SSI reading: the LEN bits before the TRAIL bits (R343). -/
def ssiWord (d : Dev) (k w : Nat) : Nat := w / 2 ^ d.rd .FBK_SER0_TRAIL k % 2 ^ d.rd .FBK_SER0_LEN k

/-- Gray code to binary. -/
def grayDecode : Nat → Nat → Nat
  | 0, x => x
  | n + 1, x => x ^^^ grayDecode n (x / 2)

/-- The port samples in this frame: enabled in the mode, its configuration fits (R347), its transfer not yet taken. -/
def sampleDue (d : Dev) (k mode : Nat) : Bool :=
  d.on .FBK_CFG_EN k && decide (d.rd .FBK_CFG_MODE k = mode) && !(fbOf d k).sampled

/-- SSI_TRANSFER_DONE: the transfer of port `k` completes: `idleHigh` is whether the data line was high at the first clock edge,
`w1` the W bits read, `sep` and `w2` the separator and the second reading of DOUBLE (R343, R346). A separator of 1 counts with the double-read
mismatches (DESIGN CHOICE, log 120). -/
def execSsiTransferDone (k : Fin 16) (idleHigh : Bool) (w1 : Nat) (sep : Bool) (w2 : Nat) (s : State) :
    Host.Outcome State Fault Refusal :=
  s.run fun d =>
    if sampleDue d k 3 then
      let d := onFb d k fun p => { p with sampled := true }
      let len := d.rd .FBK_SER0_LEN k
      let x := if d.on .FBK_SER0_GRAY k then grayDecode len (ssiWord d k w1) else ssiWord d k w1
      if !transferFits d k d.tb.latchNow d.frameNs then badSample d k false
      else if !idleHigh then badSample d k false
      else if d.on .FBK_SER0_DOUBLE k ∧ (sep ∨ ssiWord d k w1 ≠ ssiWord d k w2) then badSample d k true
      else goodWord d k len x
    else d

/-- CRC of R345 over `n` bits of `w`, MSB first, polynomial of degree `len`. -/
def serCrc (len poly : Nat) : Nat → Nat → Nat → Nat
  | 0, _, crc => crc
  | n + 1, w, crc =>
    let top := crc / 2 ^ (len - 1) % 2
    let sh := 2 * crc % 2 ^ len
    serCrc len poly n w (if top ≠ w / 2 ^ n % 2 then sh ^^^ (poly % 2 ^ len) else sh)

/-- BISS_CYCLE_DONE: the BiSS-C cycle of port `k` completes: whether the start bit came in time, the measured line delay in ns, the
position bits, nE, nW and the CRC received (R344 to R346). -/
def execBissCycleDone (k : Fin 16) (start : Bool) (delayNs pos : Nat) (nE nW : Bool) (crc : Nat) (s : State) :
    Host.Outcome State Fault Refusal :=
  s.run fun d =>
    if sampleDue d k 4 then
      let d := onFb d k fun p => { p with sampled := true }
      if !transferFits d k d.tb.latchNow d.frameNs ∨ !start then badSample (d.wr .FBK_STAT_WARN k 0) k false
      else
        let d := d.wrSat .FBK_LDLY_NS k delayNs
        let len := d.rd .FBK_SER0_LEN k
        let x := pos % 2 ^ len
        let e := d.on .FBK_SER0_ERR_BIT k
        let w := d.on .FBK_SER0_WARN_BIT k
        let w1 := if e then 2 * x + bitOf nE else x
        let w2 := if w then 2 * w1 + bitOf nW else w1
        let n := d.rd .FBK_SER0_CRC_LEN k
        let d := d.wr .FBK_STAT_WARN k (bitOf (w && !nW))
        let good := decide (n = 0) ||
          decide (crc % 2 ^ n + serCrc n (d.rd .FBK_SER1_CRC_POLY k) (len + bitOf e + bitOf w) w2 0 = 2 ^ n - 1)
        if !good then badSample d k true
        else if e ∧ !nE then badSample d k false
        else goodWord d k len x
    else d

/-! Requests of a feedback port (R351, R353). -/

/-- A write of FBK_k_CTRL.CLR waits for the next latch instant. -/
def fbClear (d : Dev) (k : Nat) : Dev := onFb d k fun p => { p with clr := true }

/-- FB_CLR: the write by a master (R351). -/
def execFbClr (m : Master) (k : Fin 16) (s : State) : Host.Outcome State Fault Refusal :=
  s.run fun d => d.trigger m (0x1803C + 256 * k) (some (.FBK_STAT_BUSY, k)) fun d => fbClear d k

/-- A write of FBK_k_CTRL.PRESET (R353): refused in an absolute mode or while a master in use takes the port (`used`). -/
def fbPreset (d : Dev) (m : Master) (k : Nat) (used : Bool) : Dev :=
  if d.rd .FBK_CFG_MODE k = 3 ∨ d.rd .FBK_CFG_MODE k = 4 ∨ used then d.busyReject m (0x1803C + 256 * k)
  else onFb d k fun p => { p with preset := true }

/-- The port is enabled: it starts with no edge, no word and a clear observer at its count. -/
def fbEnable (d : Dev) (k : Nat) : Dev := onFb d k fun p => { a := p.a, b := p.b, z := p.z, y := p.y, obs := obsAt p.y }

/-- What waits for the latch instant of port `k` happens: CLR without an error in the last 1 ms, PRESET (R351, R353, R368). PRESET shifts the last
reference's count with y, so that the next check counts as before (DESIGN CHOICE, log 120). -/
def latchRequests (d : Dev) (k : Nat) : Dev :=
  let p := fbOf d k
  let quiet := p.errs.all fun t => decide (msQ < nowQ d - t)
  let d := if p.clr ∧ quiet then
      (onFb d k fun q => { q with obs := obsAt q.y, refAt := none, refLate := false, refFails := 0, xPrev := none, badRun := 0, coast := 0 }).wr
        .FBK_STAT_CHAN_FAULT k 0
    else d
  let d := if p.preset then
      let delta := signedOf 32 (d.rd .FBK_PRESET_Y k) - (fbOf d k).y
      let d := onFb d k fun q => { q with y := q.y + delta, refAt := q.refAt.map (· + delta), obs := { q.obs with p := f64Add q.obs.p (f64OfInt delta) } }
      onSp d k fun q => { q with yBase := q.yBase + delta }
    else d
  onFb d k fun q => { q with clr := false, preset := false, sampled := false }

/-- The latch instant at feedback port `k` (R334, R352): the state of an incremental port is predicted to it from its last step; step 0 then
corrects it. -/
def latchFeedback (d : Dev) (k : Nat) : Dev :=
  let d := latchRequests d k
  if fbCounts d k then
    let d := showPort (d.wr .FBK_STAT_VALID k (bitOf (d.rd .FBK_STAT_CHAN_FAULT k = 0))) k
    onFb d k fun q => { q with latched := { q.latched with p := (obsPredict fbStepS q.obs).p } }
  else if fbAbsolute d k then
    if d.on .FBK_STAT_CHAN_FAULT k then d.wr .FBK_STAT_VALID k 0 else d
  else d.wr .FBK_STAT_VALID k 0

/-! Step/pulse ports. -/

/-- P of R355 in 6.25 ns units. -/
def stepSpace (d : Dev) (k : Nat) : Nat := max (2 * d.rd .STP_TIME_STEP_HI k) (d.rd .STP_TIME_DIR_SETUP k) + 1

/-- The frame period in 6.25 ns units. -/
def frameClocks (d : Dev) : Nat := 10000 * d.periodUnits

/-- A target clamped to the Hedge limits (R354). -/
def hedge (d : Dev) (k : Nat) (t : Int) : Dev × Int :=
  let c := clampInt (d.rdI .STP_VLIM_LO_STEPS k) (d.rdI .STP_VLIM_HI_STEPS k) t
  if c = t then (onSp d k fun p => { p with vlimEp := false }, t)
  else
    let d := d.flag .STP_STAT_VLIM_HIT k
    let d := if (spOf d k).vlimEp then d else (onSp d k fun p => { p with vlimEp := true }).event .VLIM_HIT (srcStep k) k
    (d, c)

/-- Load the target of port `k` for the coming latch instants, with its v_ref (R251, R354). -/
def loadTarget (d : Dev) (k : Nat) (t : Int) (v : F64) : Dev :=
  let (d, c) := hedge d k t
  onSp d k fun p => { p with target := c, vref := v }

/-- q of R359, in steps. -/
def encoderSteps (d : Dev) (k : Nat) : F64 :=
  let p := spOf d k
  let dy := signedOf 32 (fieldOf 32 ((fbOf d k).y - p.yBase))
  f64Add (f64Div (f64Mul (f64OfInt dy) (f64Nat (d.rd .STP_ENC_ENC_NUM k))) (f64Nat (d.rd .STP_ENC_ENC_DEN k))) (f64OfInt p.sBase)

/-- The stage lines of port `k`: SPk_EN at its level by EN_POL, SPk_AUX. -/
def stageLines (d : Dev) (k : Nat) (en aux : Bool) : Dev := d.emit (.stage k (en != d.on .STP_CFG_EN_POL k) aux)

/-- A step leaves port `k`: SPk_DIR high for the positive direction unless DIR_INV (the level that means positive: DESIGN CHOICE, log 120), the
pulse high unless STEP_POL. -/
def stepOut (d : Dev) (k : Nat) (up : Bool) : Dev := d.emit (.step k up (up != d.on .STP_CFG_DIR_INV k) (!d.on .STP_CFG_STEP_POL k))

/-- The next state of a quadrature output, along 00, 10, 11, 01 as R337 reads (A, B), DIR_INV on SPk_DIR (R364). -/
def quadOut (d : Dev) (k : Nat) (up : Bool) : Dev :=
  let n := ((spOf d k).phase + (if up then 1 else 3)) % 4
  (onSp d k fun p => { p with phase := n }).emit
    (.quadState k (decide (n = 1 ∨ n = 2)) (decide (2 ≤ n) != d.on .STP_CFG_DIR_INV k))

/-- The action of STALL_ACT (R361). -/
def stallAct (d : Dev) (k : Nat) (fb : Bool) : Dev :=
  if d.on .STP_CFG_STALL_ACT k then (onSp d k fun p => { p with fbHeld := fb }).wr .STP_STAT_HELD k 1 else d

/-- The stall of R360: the port moved `least` steps since `old`, the encoder less than a quarter of it. -/
def stalled (s : Int) (q : F64) (least : Nat) (old : Option (Int × F64)) : Bool :=
  match old with
  | some (s0, q0) => decide (least ≤ (s - s0).natAbs) && f64Lt (f64Abs (f64Sub q q0)) (f64OfRatio least 4)
  | none => false

/-- The checks of R360 at a latch instant. The flags are set at every check that fails; the events are written when a check begins to fail
(DESIGN CHOICE, log 120). -/
def checkSteps (d : Dev) (k : Nat) : Dev :=
  if d.rd .STP_CFG_DEV_EN k = 0 then d
  else if d.on .FBK_STAT_CHAN_FAULT k then
    let d := d.flag .STP_STAT_FB_LOST k
    if (spOf d k).fbLostEp then d
    else stallAct ((onSp d k fun p => { p with fbLostEp := true }).event .FB_LOST (srcStep k) k) k true
  else
    let d := onSp d k fun p => { p with fbLostEp := false }
    if d.rd .FBK_STAT_VALID k = 0 then onSp d k fun p => { p with hist := (none :: p.hist).take 256 }
    else
      let p := spOf d k
      let q := encoderSteps d k
      let e := f64Sub (f64OfInt p.s) q
      let d := d.wr .STP_DEVV_E k (f64ToBits32 e)
      let lost := f64Lt (f64Nat (d.rd .STP_DEV_DEV_WIN k)) (f64Abs e)
      let n := d.rd .STP_DEV_STALL_FR k
      let least := d.rd .STP_STALL_STEPS k
      let stall := stalled p.s q least (p.hist.getD (n - 1) none) && decide (0 < n)
      let d := onSp d k fun p => { p with hist := (some (p.s, q) :: p.hist).take 256, lostEp := lost, stallEp := stall }
      let d := d.when lost fun d => (d.flag .STP_STAT_LOST_STEP k).when (!p.lostEp) fun d => d.event .LOST_STEP (srcStep k) k
      let d := d.when stall fun d => (d.flag .STP_STAT_STALL k).when (!p.stallEp) fun d => d.event .STALL (srcStep k) k
      if lost || stall then stallAct d k false else d

/-- Rebase port `k` at its target, a repeating port at its own position (R357, R363). -/
def rebase (d : Dev) (k : Nat) : Dev :=
  onSp d k fun p =>
    let t := if d.rd .STP_CFG_MODE k = 1 then p.target else p.s
    { p with s := t, sBase := t, yBase := (fbOf d k).y, hist := [], left := 0, lostEp := false, stallEp := false }

/-- REARM at the latch instant (R363): no effect while FB_LOST persists or nothing is held. -/
def latchRearm (d : Dev) (k : Nat) (heldBefore : Bool) (heldNew : Bool) : Dev :=
  let p := spOf d k
  if !p.rearm then d
  else
    let d := onSp d k fun q => { q with rearm := false }
    if !heldBefore ∨ heldNew ∨ (p.fbHeld ∧ d.on .FBK_STAT_CHAN_FAULT k) then d
    else rebase ((onSp d k fun q => { q with fbHeld := false }).wr .STP_STAT_HELD k 0) k

/-- The wake time that remains at this latch instant as t0, and what then is left (R355, R358), in 6.25 ns units. -/
def wakeAt (frame wake : Nat) : Nat × Nat := if frame ≤ wake then (frame, wake - frame) else (wake, 0)

/-- Plan the steps of the frame (R354, R355, R358). -/
def planSteps (d : Dev) (k : Nat) : Dev :=
  let (d, t) := hedge d k (spOf d k).target
  let p := spOf d k
  let diff := t - p.s
  let leaves := decide (diff ≠ 0) && d.on .STP_STAT_STANDBY_ON k
  let d := if leaves then stageLines (d.wr .STP_STAT_STANDBY_ON k 0) k true false else d
  let wake := if leaves then 160 * d.rd .STP_WAKE_WAKE_US k else p.wake
  let w := wakeAt (frameClocks d) wake
  let dmax := (frameClocks d - w.1) / stepSpace d k
  let n := min diff.natAbs dmax
  let carried : Int := if 0 < diff then diff - n else diff + n
  let d := onSp d k fun q => { q with left := n, up := decide (0 < diff), wake := w.2, idle := if q.moved = 0 then q.idle + 1 else 0,
                                      moved := 0 }
  let d := d.wrI .STP_LAG_STEPS k carried
  if carried = 0 then onSp d k fun q => { q with limitEp := false }
  else
    let d := d.flag .STP_STAT_STEP_LIMIT k
    if (spOf d k).limitEp then d else (onSp d k fun q => { q with limitEp := true }).event .STEP_LIMIT (srcStep k) k

/-- The latch instant at step/pulse port `k` (R354 to R363). A repeating port has no target and takes no grant; its position is compared as any
other (DESIGN CHOICE, log 120). -/
def latchStep (d : Dev) (k : Nat) : Dev :=
  let g := granted d (16 + k)
  let d := d.wr .STP_STAT_GRANTED k (bitOf g)
  if d.on .STP_CTRL_RUN k ∧ d.rd .STP_CFG_MODE k = 1 then
    let was := (spOf d k).granted
    let d := onSp d k fun p => { p with granted := g }
    let d := if g ≠ was then stageLines d k g false else d
    let held := d.on .STP_STAT_HELD k
    let d := if g ∧ !was then rebase d k else d
    let d := checkSteps d k
    let d := latchRearm d k held (!held && d.on .STP_STAT_HELD k)
    let d := if g ∧ d.rd .STP_STAT_HELD k = 0 then planSteps d k
      else onSp d k fun p => { p with left := 0, idle := if p.moved = 0 then p.idle + 1 else 0, moved := 0 }
    d.wrI .STP_POS_S k (spOf d k).s
  else if d.on .STP_CTRL_RUN k then
    let held := d.on .STP_STAT_HELD k
    let d := checkSteps d k
    let d := latchRearm d k held (!held && d.on .STP_STAT_HELD k)
    d.wrI .STP_POS_S k (spOf d k).s
  else d

/-- STEP_PULSE: the next scheduled step edge of port `k` (R355); none in Quarantine (R472). -/
def execStepPulse (k : Fin 16) (s : State) : Host.Outcome State Fault Refusal :=
  s.run fun d =>
    let p := spOf d k
    if d.on .STP_CTRL_RUN k ∧ p.granted ∧ d.rd .STP_STAT_HELD k = 0 ∧ 0 < p.left ∧ portsDark d = false then
      let d := onSp d k fun q => { q with left := q.left - 1, moved := q.moved + 1, idle := 0, s := if q.up then q.s + 1 else q.s - 1 }
      stepOut d k p.up
    else d

/-- STEP_STANDBY: after IDLE_MS without a step the port applies its standby lines (R358). -/
def execStepStandby (k : Fin 16) (s : State) : Host.Outcome State Fault Refusal :=
  s.run fun d =>
    let p := spOf d k
    if d.on .STP_CTRL_RUN k ∧ d.rd .STP_STAT_STANDBY_ON k = 0 ∧ p.left = 0 ∧
        1000000 * d.rd .STP_WAKE_IDLE_MS k ≤ p.idle * d.frameNs then
      match d.rd .STP_CFG_STANDBY k with
      | 1 => stageLines (d.wr .STP_STAT_STANDBY_ON k 1) k false false
      | 2 => stageLines (d.wr .STP_STAT_STANDBY_ON k 1) k false true
      | _ => d
    else d

/-- RUN may be set (R356, R366): the mode, the timing, the ratio and the source. -/
def runAllowed (d : Dev) (k : Nat) : Bool :=
  let src := d.rd .STP_CFG_REP_SRC k
  let fits := decide (stepSpace d k ≤ frameClocks d)
  match d.rd .STP_CFG_MODE k with
  | 1 => fits
  | 2 =>
    (fits || d.on .STP_CFG_OUT_FMT k) && fbCounts d src &&
      decide (1 ≤ d.rd .STP_RATIO_NUM k ∧ d.rd .STP_RATIO_NUM k ≤ d.rd .STP_RATIO_DEN k)
  | 0 => true
  | _ => false

/-- RUN of port `k` takes a new value (R354, R356, R359, R366). -/
def stpRun (d : Dev) (k : Nat) (v : Bool) : Dev :=
  if v then
    if d.on .STP_CTRL_RUN k then d
    else if runAllowed d k then
      onSp (d.wr .STP_CTRL_RUN k 1) k fun p =>
        { s := p.s, sBase := p.s, target := p.target, vref := p.vref, yBase := (fbOf d k).y }
    else (d.flag .STP_STAT_SP_CFG_REJECT k).event .SP_CFG_REJECT (srcStep k) k
  else if d.on .STP_CTRL_RUN k then
    stageLines (onSp (d.wr .STP_CTRL_RUN k 0) k fun p => { p with left := 0, granted := false, queue := [] }) k false false
  else d

/-- STP_RUN_SET: a write of STP_k_CTRL.RUN (R356, R366). -/
def execStpRunSet (m : Master) (k : Fin 16) (v : Bool) (s : State) : Host.Outcome State Fault Refusal :=
  s.run fun d => d.trigger m (0x19024 + 128 * k) (some (.STP_STAT_BUSY, k)) fun d => stpRun d k v

/-- A write of STP_k_CTRL.REARM waits for the next latch instant (R363). -/
def stpRearm (d : Dev) (k : Nat) : Dev := onSp d k fun p => { p with rearm := true }

/-- REARM: the write by a master. -/
def execRearm (m : Master) (k : Fin 16) (s : State) : Host.Outcome State Fault Refusal :=
  s.run fun d => d.trigger m (0x19024 + 128 * k) (some (.STP_STAT_BUSY, k)) fun d => stpRearm d k

/-- REP_OUTPUT: the oldest queued count of a repeating port is issued (R364, R365); none while the source has a channel fault
(R366) or HELD stands (R361). -/
def execRepOutput (k : Fin 16) (s : State) : Host.Outcome State Fault Refusal :=
  s.run fun d =>
    if d.on .STP_CTRL_RUN k ∧ d.rd .STP_CFG_MODE k = 2 ∧ d.rd .FBK_STAT_CHAN_FAULT (d.rd .STP_CFG_REP_SRC k) = 0 ∧
        d.rd .STP_STAT_HELD k = 0 ∧ portsDark d = false then
      match (spOf d k).queue with
      | [] => d
      | b :: rest =>
        let d := onSp d k fun p => { p with queue := rest, s := if b then p.s + 1 else p.s - 1 }
        if d.on .STP_CFG_OUT_FMT k then quadOut d k b else stepOut d k b
    else d

/-- The latch instant at the local ports (R55, R334, R352, R354). -/
def latchPorts (d : Dev) : Dev :=
  let d := { d with axes := { d.axes with latchAt := d.tb.ext } }
  (d.each (List.range 16) latchFeedback).each (List.range 16) latchStep

/-- A change of the frame period (R348, R356, R368): F_OBS of an absolute port is limited to the new bound, observers restart at their
counts; a port whose P exceeds the new period stops. -/
def axesPeriod (d : Dev) : Dev :=
  let d := d.each (List.range 16) fun d k =>
    let top := maxObs d.periodUnits
    if (d.rd .FBK_CFG_MODE k = 3 ∨ d.rd .FBK_CFG_MODE k = 4) ∧ top < d.rd .FBK_OBS_F_OBS k then fbReject (d.wr .FBK_OBS_F_OBS k top) k
    else d
  let d := d.each (List.range 16) fun d k =>
    if d.on .FBK_CFG_EN k then onFb d k fun p => { p with obs := obsAt p.y, coast := 0 } else d
  d.each (List.range 16) fun d k =>
    let d := onSp d k fun p => { p with granted := false }
    if d.on .STP_CTRL_RUN k ∧ frameClocks d < stepSpace d k ∧
        (d.rd .STP_CFG_MODE k = 1 ∨ (d.rd .STP_CFG_MODE k = 2 ∧ d.rd .STP_CFG_OUT_FMT k = 0)) then
      ((stpRun d k false).flag .STP_STAT_SP_CFG_REJECT k).event .SP_CFG_REJECT (srcStep k) k
    else d

end Sys2Proof.Machine
end

