-- ==== Sys2Proof/Machine/MillLaw.lean ====
section
/-!
DEFINITION. The laws the loop engines evaluate: references from the trajectory store (R247, R248, R231), masters (R238, R242), couplings
(R239 to R241, R250), gains (R256) and the control law (R258 to R261).
-/
namespace Sys2Proof.Machine

/-- Change the loop engines. -/
def onMil (d : Dev) (f : MillState → MillState) : Dev := { d with mil := f d.mil }

/-- Joint slot `j`. -/
def mjOf (d : Dev) (j : Nat) : MilJoint := SMap.get {} d.mil.joints j

/-- Change joint slot `j`. -/
def onMj (d : Dev) (j : Nat) (f : MilJoint → MilJoint) : Dev := onMil d fun m => { m with joints := SMap.modify {} m.joints j f }

/-- Setpoint slot `k`: local axis 0 to 15, virtual master 16 to 19. -/
def msOf (d : Dev) (k : Nat) : MilSlot := SMap.get {} d.mil.slots k

/-- Change setpoint slot `k`. -/
def onMs (d : Dev) (k : Nat) (f : MilSlot → MilSlot) : Dev := onMil d fun m => { m with slots := SMap.modify {} m.slots k f }

/-- Slot numbers run over joints 0 to 127, local axes 128 to 143 and virtual masters 144 to 147. A joint slot works while enabled and
named by an arm model (R244); a local axis while its port runs. -/
def slotActive (d : Dev) (s : Nat) : Bool :=
  if s < 128 then d.on .MIL_J_CTRL_EN s && (armOfSlot d s).isSome
  else if s < 144 then d.on .STP_CTRL_RUN (s - 128)
  else decide (s < 148)

/-- The logical engine of a slot (Table 8-1). -/
def engineOf (s : Nat) : Nat := if s < 128 then s / 8 else if s < 144 then s - 128 else s - 144

/-- The slots of logical engine `e`. -/
def engineSlots (e : Nat) : List Nat := (List.range 8).map (8 * e + ·) ++ [128 + e] ++ (if e < 4 then [144 + e] else [])

/-- Torque is granted to the unit of slot `s` (R261); a virtual master needs none. -/
def slotGranted (d : Dev) (s : Nat) : Bool :=
  if s < 128 then (match armOfSlot d s with
    | some a => granted d a
    | none => false)
  else if s < 144 then granted d (16 + (s - 128))
  else true

/-! References. -/

/-- A segment is bad (R248). -/
def segIsBad (g : Seg) : Bool :=
  let sum := f64Sum ((g.c.drop 1).map f64Abs)
  !g.valid || decide (g.dur = 0 ∨ 256 < g.dur) || !g.c.all f64Finite || !f64Lt sum (f64OfInt (2 ^ 40))

/-- The reference of a drain stop from the end of a segment, `k` frames after it (R231). -/
def drainRef (tf : F64) (g : Seg) (k : Nat) : F64 × F64 × F64 :=
  let (p, v, a) := segEnd tf g
  let t := f64Mul (f64Nat g.stopFr) tf
  if g.stopFr ≤ k then (f64Add p (drainDistance v a t), f64Zero, f64Zero)
  else
    let x := drainAt v a t (f64Mul (f64Nat k) tf)
    (f64Add p x.1, x.2.1, x.2.2)

/-- What a slot finds in its ring for target frame `f`: a segment, the drain stop after the last good one (with the frames since its
end), or nothing that concerns the frame. `bad` says that a bad segment was met. -/
inductive RingFind where
  | seg (g : Seg)
  | after (g : Seg) (k : Nat) (bad : Bool)
  | nothing

/-- Look up target frame `f` in a slot's ring (R247, R248). A segment flagged SUPER counts only while the slot is coupled. -/
def findSeg (d : Dev) (s f : Nat) : RingFind :=
  let coupled := (coupleOf d s).isSome
  let ring := (segsOf d s).filter fun g => g.super == coupled
  let afterEnd := fun (l : List Seg) (bad : Bool) => match l.getLast? with
    | some g => let k := frameDiff f (segStop g); if 0 ≤ k then RingFind.after g k.toNat bad else .nothing
    | none => .nothing
  match ring.reverse.find? fun g => segCovers g f || (segIsBad g && decide (g.start = f)) with
  | some g => if segIsBad g then afterEnd (ring.filter fun h => !segIsBad h && decide (frameDiff h.start g.start < 0)) true else .seg g
  | none => afterEnd (ring.filter fun h => !segIsBad h) (ring.getLast?.any segIsBad)

/-- The reference a slot prepares for target frame `f`, with its ring entry and whether the segment was bad. Past the end of a motion the
slot holds `hold`, the position it holds or follows. -/
def slotRef (d : Dev) (s f : Nat) (hold : F64) : Obs × Option Nat × Bool :=
  let rest : Obs := ⟨hold, f64Zero, f64Zero⟩
  match findSeg d s f with
  | .seg g => let (p, v, a) := segAt d.frameS g f; (⟨p, v, a⟩, some g.entry, false)
  | .after g k bad =>
    let still := if g.last ∧ !bad then 0 else g.stopFr
    if k < still + 4 ∨ (coupleOf d s).isSome then
      (if g.last ∧ !bad then (⟨(segEnd d.frameS g).1, f64Zero, f64Zero⟩, none, bad)
       else let (p, v, a) := drainRef d.frameS g k; (⟨p, v, a⟩, none, bad))
    else (rest, none, bad)
  | .nothing => (if (coupleOf d s).isSome then {} else rest, none, false)

/-! Masters. -/

/-- The source of master `m` in this frame: valid, whole count, fraction, speed, acceleration for the latch of frame n + 2 (R238). -/
def masterSource (d : Dev) (m : Nat) : Option (Int × F64 × F64 × F64) :=
  let i := d.rd .PLN_MST_CFG_IDX m
  let t := d.frameS
  let ahead := fun (v a : F64) => f64Add (f64Mul (f64Mul (f64Nat 2) t) v) (f64Mul (f64Mul (f64Nat 2) (f64Mul t t)) a)
  match d.rd .PLN_MST_CFG_SRC m with
  | 1 =>
    let p := fbOf d i
    if i < 16 ∧ d.on .FBK_STAT_VALID i then some (p.latchedY, ahead p.latched.v p.latched.a, p.latched.v, p.latched.a) else none
  | 2 =>
    let x := mjOf d i
    if x.started ∧ x.behind = 0 ∧ d.rd .MIL_J_STAT_COAST i = 0 ∧ x.fbFrame = d.frameNo then some (x.y, ahead x.obs.v x.obs.a, x.obs.v, x.obs.a)
    else none
  | 3 =>
    let x := msOf d (16 + i)
    let lost := stateOf d (32 + i) = 6 || d.mil.dead.contains i || d.rd .MIL_SLOT_STAT_MISS_RUN (16 + i) = 3
    if i < 4 ∧ !lost then
      let w := f64Floor x.r
      some (w, f64Sub x.r (f64OfInt w), x.vref, x.aref)
    else none
  | _ => none

/-- A master goes on as its image: its last velocity for 2 frames, then a deceleration to rest at DML (R242). -/
def imageStep (t dml : F64) (x : MasterDyn) : MasterDyn :=
  let n := x.lostFr + 1
  let dv := f64Min (f64Mul dml t) (f64Abs x.v)
  let v' := if n ≤ 2 then x.v else if f64Lt x.v f64Zero then f64Add x.v dv else f64Sub x.v dv
  let mean := f64Div (f64Add x.v v') (f64Nat 2)
  let f := f64Add x.frac (f64Mul mean t)
  let w := f64Floor f
  { x with whole := x.whole + w, frac := f64Sub f (f64OfInt w), v := v', a := f64Zero, lostFr := n, image := x.image || decide (3 ≤ n) }

/-- A follower is coupled to master `m`. -/
def masterUsed (d : Dev) (m : Nat) : Bool := d.pln.couples.any fun p => match p.2 with
  | some c => decide (c.master = m)
  | none => false

/-- Every configured master in this frame (R238, R242). -/
def stepMasters (d : Dev) : Dev :=
  d.each (List.range 8) fun d m =>
    if d.rd .PLN_MST_CFG_SRC m = 0 then d
    else
      let x := SMap.get ({} : MasterDyn) d.pln.masters m
      let put := fun (d : Dev) (y : MasterDyn) => onPln d fun p => { p with masters := SMap.set {} p.masters m y }
      let src := masterSource d m
      let d := d.wr .PLN_MST_STAT_VALID m (bitOf src.isSome)
      match src with
      | some (w, f, v, a) =>
        if x.image ∧ masterUsed d m then put d (imageStep d.frameS (f64Nat (d.rd .PLN_MST_DML_CPS2 m)) x)
        else
          let whole := f64Floor f
          put d { whole := w + whole, frac := f64Sub f (f64OfInt whole), v := v, a := a }
      | none =>
        let d := if x.lostFr = 0 then (d.flag .PLN_MST_STAT_MASTER_LOST m).event .MASTER_LOST srcPlanner m else d
        put d (imageStep d.frameS (f64Nat (d.rd .PLN_MST_DML_CPS2 m)) x)

/-! Couplings. -/

/-- F, F' and F'' of R239. -/
def rampF (x : F64) : F64 × F64 × F64 :=
  let x2 := f64Mul x x
  let x3 := f64Mul x2 x
  let k := fun (n : Nat) (y : F64) => f64Mul (f64Nat n) y
  (f64Add (f64Sub (f64Mul (f64Frac 5 2) (f64Mul x2 x2)) (k 3 (f64Mul x3 x2))) (f64Mul x3 x3),
    f64Add (f64Sub (k 10 x3) (k 15 (f64Mul x2 x2))) (k 6 (f64Mul x3 x2)), f64Add (f64Sub (k 30 x2) (k 60 x3)) (k 30 (f64Mul x2 x2)))

/-- Master travel since `t0`, as whole counts and fraction. -/
def travel (x : MasterDyn) (t0 : Int × F64) : Int × F64 := (x.whole - t0.1, f64Sub x.frac t0.2)

/-- Travel in FP64. -/
def travelF (t : Int × F64) : F64 := f64Add (f64OfInt t.1) t.2

/-- NUM × n / DEN with whole and remainder kept apart (R239). -/
def gearTimes (num : Int) (den : Nat) (n : Int) : F64 :=
  let q := Int.fdiv (num * n) den
  f64Add (f64OfInt q) (f64OfRatio (num * n - q * den) (max den 1))

/-- Fraction of an engagement: travel over L, limited to 0 to 1. -/
def engaged (t : Int × F64) (l : Nat) : F64 := f64Clamp f64Zero (f64Nat 1) (f64Div (travelF t) (f64Nat (max l 1)))

/-- The follower law of a gear: engaging, or in force (R239, R250). -/
def gearLaw (c : Couple) (m : MasterDyn) (t0 : Int × F64) : Obs :=
  let t := travel m t0
  let g := f64OfRatio c.num c.den
  if c.phase = .engaging then
    let (f, f1, f2) := rampF (engaged t c.len)
    { p := f64Add c.p0 (f64Mul (gearTimes c.num c.den c.len) f)
      v := f64Mul (f64Mul g m.v) f1
      a := f64Add (f64Mul (f64Mul g m.a) f1) (f64Div (f64Mul g (f64Mul (f64Mul m.v m.v) f2)) (f64Nat (max c.len 1))) }
  else
    { p := f64Add c.p0 (f64Add (gearTimes c.num (2 * c.den) (2 * t.1 - c.len)) (f64Mul g t.2)), v := f64Mul g m.v, a := f64Mul g m.a }

/-- Period of a cam: the master position of its last point (R240). -/
def camPeriod (ps : List CamPoint) : Nat := ps.foldl (fun _ p => p.m) 0

/-- Y, Y' and Y'' of a cam at master position `m` in its period, with fraction (R240). -/
def camAt : List CamPoint → Int → F64 → F64 × F64 × F64
  | x :: y :: rest, m, f =>
    if m < y.m ∨ rest.isEmpty then
      let w := f64Nat (y.m - x.m)
      let u := f64Div (f64Add (f64OfInt (m - x.m)) f) w
      let c := hermite (x.y, f64Mul x.y1 w, f64Mul x.y2 (f64Mul w w)) (y.y, f64Mul y.y1 w, f64Mul y.y2 (f64Mul w w))
      let (p, v, a) := segPoly c u
      (p, f64Div v w, f64Div a (f64Mul w w))
    else camAt (y :: rest) m f
  | [x], _, _ => (x.y, x.y1, x.y2)
  | [], _, _ => (f64Zero, f64Zero, f64Zero)

/-- The follower law of a cam (R240, R250), master positions counted from `origin`. -/
def camLaw (ps : List CamPoint) (c : Couple) (m : MasterDyn) (origin : Int) : Obs :=
  let p : Int := max (camPeriod ps) 1
  let w := m.whole - origin
  let (y, y1, y2) := camAt ps (w % p) m.frac
  let rise := f64Sub (camAt ps (camPeriod ps) f64Zero).1 (camAt ps 0 f64Zero).1
  { p := f64Add (f64Add (f64OfInt c.offset) (f64Mul c.scale y)) (f64Mul (f64Mul rise c.scale) (f64OfInt (w / p - c.cycles)))
    v := f64Mul (f64Mul c.scale y1) m.v
    a := f64Mul c.scale (f64Add (f64Mul y2 (f64Mul m.v m.v)) (f64Mul y1 m.a)) }

/-- The master passed mark `e` of a cam between two positions: `e` lies between them modulo the period, in either direction. -/
def passes (p e : Nat) (old new : Int) : Bool :=
  let p : Int := max p 1
  decide ((old - e) / p ≠ (new - e) / p ∨ (new - e) % p = 0)

/-- The exit law (R239): F′ falls from 1 to 0 over `l` from where the exit began. -/
def exitLaw (m : MasterDyn) (l : Nat) (x : (Int × F64) × F64 × F64) : Obs × Bool :=
  let t := travel m x.1
  let u := engaged t l
  let (f, f1, f2) := rampF u
  let g := x.2.2
  let lf := f64Nat (max l 1)
  let one := f64Nat 1
  ({ p := f64Add x.2.1 (f64Mul (f64Mul g lf) (f64Sub u f))
     v := f64Mul (f64Mul g m.v) (f64Sub one f1)
     a := f64Sub (f64Mul (f64Mul g m.a) (f64Sub one f1)) (f64Div (f64Mul g (f64Mul (f64Mul m.v m.v) f2)) lf) }, f64Le one u)

/-- The coupling law in force at this frame. -/
def coupleLaw (d : Dev) (c : Couple) (m : MasterDyn) : Obs :=
  let t0 := c.theta0.getD (0, f64Zero)
  match c.cam with
  | some i => camLaw (camOf d i) c m t0.1
  | none => gearLaw c m t0

/-- Slope of a follower over its master now. -/
def coupleSlope (d : Dev) (c : Couple) (m : MasterDyn) : F64 :=
  let t0 := c.theta0.getD (0, f64Zero)
  match c.cam with
  | some i => let ps := camOf d i; f64Mul c.scale (camAt ps ((m.whole - t0.1) % (max (camPeriod ps) 1 : Nat)) m.frac).2.1
  | none => let g := f64OfRatio c.num c.den; if c.phase = .engaging then f64Mul g (rampF (engaged (travel m t0) c.len)).2.1 else g

/-- A coupling that waits begins (R239, R241): a gear at its first target frame, a cam when the master passes E at a dwell. -/
def beginCouple (d : Dev) (c : Couple) (m : MasterDyn) (f : Nat) (p0 : F64) : Couple × Obs :=
  let rest : Obs := ⟨p0, f64Zero, f64Zero⟩
  match c.cam with
  | none => ({ c with phase := .engaging, theta0 := some (m.whole, m.frac), p0 := p0 }, rest)
  | some i =>
    let ps := camOf d i
    let p := camPeriod ps
    if !(match c.mPrev with
      | some o => passes p c.mark o m.whole
      | none => decide ((m.whole - c.mark) % (max p 1 : Nat) = 0)) then ({ c with mPrev := some m.whole }, rest)
    else
      let (y, y1, y2) := camAt ps (c.mark % max p 1 : Nat) f64Zero
      let want := f64Add (f64OfInt c.offset) (f64Mul c.scale y)
      if y1 = f64Zero ∧ y2 = f64Zero ∧ f64Le (f64Abs (f64Sub p0 want)) (f64Nat 1) then
        let c := { c with phase := .inForce, theta0 := some (0, f64Zero), cycles := m.whole / (max p 1 : Nat), mPrev := some m.whole
                          outcome := some (0, f) }
        (c, camLaw ps c m 0)
      else ({ c with outcome := some (0x0C, f) }, rest)

/-- A cam in force at the end of its cycle takes the next one (R241). -/
def switchCam (d : Dev) (c : Couple) (m : MasterDyn) (f : Nat) : Couple :=
  match c.cam, c.nextCam with
  | some i, some (k, scale, offset) =>
    let p : Int := max (camPeriod (camOf d i)) 1
    let o := (c.theta0.getD (0, f64Zero)).1
    match c.mPrev with
    | some w =>
      if (w - o) / p ≠ (m.whole - o) / p then
        { c with cam := some k, scale := scale, offset := offset, nextCam := none, cycles := 0, outcome := some (0, f)
                 theta0 := some (o + (max (w - o) (m.whole - o)) / p * p, f64Zero) }
      else c
    | none => c
  | _, _ => c

/-- A coupling asked to end begins its exit (R239, R241): a gear, or any follower a stop function decouples, over its distance; a cam
when the master passes D, which must be a dwell. -/
def leaveCouple (d : Dev) (c : Couple) (m : MasterDyn) (f : Nat) : Couple :=
  match c.leaving with
  | none => c
  | some l =>
    if frameDiff f c.start < 0 then c
    else
      let law := coupleLaw d c m
      match c.cam, c.forced with
      | some i, false =>
        let ps := camOf d i
        let p := camPeriod ps
        let o := (c.theta0.getD (0, f64Zero)).1
        if !passes p c.mark ((c.mPrev.getD m.whole) - o) (m.whole - o) then c
        else
          let (_, y1, y2) := camAt ps (c.mark % max p 1 : Nat) f64Zero
          if y1 = f64Zero ∧ y2 = f64Zero then
            { c with phase := .disengaging, exit := some ((m.whole, m.frac), law.p, f64Zero), outcome := some (0, f) }
          else { c with leaving := none, outcome := some (0x0C, f) }
      | _, _ => { c with phase := .disengaging, len := l, exit := some ((m.whole, m.frac), law.p, coupleSlope d c m) }

/-- The coupling of slot `s` at target frame `f` (R250): its output, and its state after the frame. -/
def stepCouple (d : Dev) (c : Couple) (f : Nat) (p0 : F64) : Couple × Obs :=
  let m := SMap.get ({} : MasterDyn) d.pln.masters c.master
  let rest : Obs := ⟨p0, f64Zero, f64Zero⟩
  match c.phase with
  | .waiting => if c.outcome.isSome ∨ frameDiff f c.start < 0 then (c, rest) else beginCouple d c m f p0
  | .disengaging =>
    match c.exit with
    | some x => let (o, done) := exitLaw m c.len x; (if done ∧ c.outcome.isNone then { c with outcome := some (0, f) } else c, o)
    | none => (c, rest)
  | ph =>
    let c := switchCam d c m f
    let done := decide (ph = .engaging) && f64Le (f64Nat 1) (engaged (travel m (c.theta0.getD (0, f64Zero))) c.len)
    let c := if done then { c with phase := .inForce, outcome := some (0, f) } else c
    ({ leaveCouple d c m f with mPrev := some m.whole }, coupleLaw d c m)

/-- A coupling that a stop function ended has run its exit, and nothing superposed on it moves any more (R233): it goes. -/
def exitOver (d : Dev) (c : Couple) : Bool :=
  c.forced && decide (c.phase = .disengaging) && c.outcome.isSome && (armOf d c.axset).run.isNone

/-- The reference of slot `s` for target frame `f` with its coupling (R250). -/
def totalRef (d : Dev) (s f : Nat) (prep : Obs) (super : Bool) (r : F64) : Dev × Obs :=
  match coupleOf d s with
  | none => (d, prep)
  | some c =>
    let base := if super then f64Sub r prep.p else r
    let (c, o) := stepCouple d c f base
    let d := onPln d fun p => { p with couples := SMap.set none p.couples s (if exitOver d c then none else some c) }
    (d, if super then ⟨f64Add o.p prep.p, f64Add o.v prep.v, f64Add o.a prep.a⟩ else o)

/-! Gains and the control law. -/

/-- Point `k` of bank `b` of joint `j`: E and G. -/
def gainPoint (d : Dev) (j b k : Nat) : Nat × Nat := SMap.get (0, 0) d.mil.gains (128 * j + 64 * b + k)

/-- A bank is valid (R256). -/
def bankGood (d : Dev) (j b : Nat) : Bool :=
  let ps := (List.range 64).map (gainPoint d j b)
  decide ((gainPoint d j b 0).1 = 0) && ((pairsIn ps).all fun q => decide (q.1.1 < q.2.1)) &&
    ps.all fun q => finite32 q.2 && f64Le f64Zero (f64OfBits32 q.2) && f64Le (f64OfBits32 q.2) (f64Nat 10000)

/-- The position gain at error magnitude `e` (R256). -/
def gainLookup : List (Nat × Nat) → F64 → F64
  | [], _ => f64Zero
  | [p], _ => f64OfBits32 p.2
  | p :: q :: rest, e =>
    if f64Lt e (f64Nat q.1) then
      let g := f64OfBits32 p.2
      f64Add g (f64Div (f64Mul (f64Sub (f64OfBits32 q.2) g) (f64Sub e (f64Nat p.1))) (f64Nat (q.1 - p.1)))
    else gainLookup (q :: rest) e

/-- What the control law gives. -/
structure LawOut where
  sigma : F64
  u : Int
  ep : F64
  vcmd : F64
  gain : F64
  frozen : Bool
  limited : Bool

/-- The control law of joint `j` (R255, R258 to R260). -/
def controlLaw (d : Dev) (j : Nat) (x : MilJoint) : LawOut :=
  let t := d.frameS
  let two := f64Nat 2
  let fp := fun (f : RegField) => f64OfBits32 (d.rd f j)
  let p2 := f64Add (f64Add x.obs.p (f64Mul (f64Mul two t) x.obs.v)) (f64Mul (f64Mul (f64Mul two t) t) x.obs.a)
  let v2 := f64Add x.obs.v (f64Mul (f64Mul two t) x.obs.a)
  let ep := f64Sub x.r p2
  let gain := gainLookup ((List.range 64).map (gainPoint d j x.bank)) (f64Abs ep)
  let vcmd := f64Add (f64Mul (fp .MIL_J_KVF_V) x.vref) (f64Mul gain ep)
  let ev := f64Sub vcmd v2
  let sig1 := f64Add x.sigma (f64Mul ev t)
  let uraw := f64Add (f64Add (f64Mul (fp .MIL_J_KV_V) (f64Add ev (f64Mul (fp .MIL_J_KI_V) sig1))) (f64Mul (fp .MIL_J_KAF_V) x.aref))
    (f64OfInt (d.rdI .MIL_J_UOFF_U j))
  let umax : Int := d.rd .MIL_J_UMAX_U j
  let du : Int := d.rd .MIL_J_DUMAX_DU j
  let lo := f64OfInt (max (-umax) (x.uPrev - du))
  let hi := f64OfInt (min umax (x.uPrev + du))
  let ulim := f64Min (f64Max uraw lo) hi
  let excess := f64Sub uraw ulim
  let zero := decide (f64Abs excess = f64Zero)
  let go := zero || f64Lt (f64Mul excess ev) f64Zero
  { sigma := if go then sig1 else x.sigma, u := f64RoundAway ulim, ep := ep, vcmd := vcmd, gain := gain, frozen := !go, limited := !zero }

end Sys2Proof.Machine
end

