-- ==== Sys2Proof/Machine/Recovery.lean ====
section
/-!
DEFINITION. Boot and recovery, chapters 01, 03 and 06: image verification and the end of Boot (R41, R328), SELFTEST (R512), the
self-reset and the exit from debug (R79, R110), reload (R106), resynchronisation and rejoin (R107, R108), the switch of images
(R105), and the start sequence of a ring (R183, R184).
-/
namespace Sys2Proof.Machine

/-! Boot. -/

/-- Put a lane on an image and a firmware version; the lanes write every ADC_CORRc with it (R373). -/
def loadImage (d : Dev) (l : Lane) (i : Image) : Dev :=
  let d := onLane d l fun x => { x with image := i }
  (showPairs d i.params).each (List.range 31) fun d c => writeCorr d c (corrOf i.params c)

/-- The lane's mask ROM starts SELFTEST (R73, R512). -/
def enterSelftest (d : Dev) (l : Lane) : Dev := setLaneMode d l .selftest

/-- Boot ends in Hold (R41, R42); `cause` as SYS_MODE.HOLD_CAUSE. -/
def enterHold (d : Dev) (cause : Nat) : Dev := (d.setMode .hold).put .SYS_MODE_HOLD_CAUSE cause

/-- The configuration in flash slot `k`. -/
def cfgSlot (d : Dev) (k : Nat) : Option Package := if k = 0 then d.flash.cfg0 else d.flash.cfg1

/-- The version code in firmware slot `k`. -/
def fwOfSlot (d : Dev) (k : Nat) : Nat :=
  match (if k = 0 then d.flash.fw0 else d.flash.fw1) with
  | some f => f.image.version
  | none => 0

/-- Boot ends with firmware slot `f` and configuration slot `k`: Standstill, the lanes on the image, the rings on the
schedule (R40, R41, R328). A package with ROTATE that is applied here, as one accepted in Hold is, writes the next key (R325): since the key in
force has signed it, it has not done so before. -/
def enterStandstill (d : Dev) (f k : Nat) : Dev :=
  match cfgSlot d k with
  | none => enterHold d 2
  | some p =>
    let v := fwOfSlot d f
    let d := ((d.setMode .standstill).put .SYS_MODE_FW_SLOT f).put .SYS_MODE_CFG_SLOT k
    let d := (d.put .SYS_FW_VERSION_CODE v).put .SAF_PKG_APPLIED_SEQ p.seq
    let d := (d.put .SAF_PKG_STAT_STATE 3).put .SAF_PKG_STAT_RESULT 0
    let d := if rotates p then enrol d p.nextKeyHash else d
    let d := d.each Lane.all fun d l => loadImage (onLane d l fun x => { x with fwVersion := v }) l p.image
    let d := configure { d with tb := { d.tb with latchNow := p.image.params.latch } } p
    if p.image.params.period = 0 then d
    else
      let d := d.each Lane.all fun d l => (onRing d l fun r => { r with inFlight := none }).wr .ENT_START_STATE l.idx 0
      { d with periodDue := some p.image.params.period }

/-- What every lane found: the slots on all three lists. -/
def commonOf (f : Lane → List Nat) (xs : List (Nat × Nat)) : List (Nat × Nat) :=
  xs.filter fun x => Lane.all.all fun l => (f l).contains x.1

/-- A lane that has passed SELFTEST leaves it once Boot has ended (R73, R107, R512): in Hold and from Boot's own image it enters service,
otherwise RESYNC; a lane past the limit of R108 stays FAULTED. -/
def leaveSelftest (d : Dev) (l : Lane) : Dev :=
  if laneMode d l ≠ .selftest ∨ !(laneOf d l).selftested ∨ d.mode = .boot then d
  else
    let first := (laneOf d l).bootDone ∧ (laneOf d l).image.params = d.cfg ∧ (laneOf d l).outCause = 0
    if d.on .LN_STATUS_REJOIN_LIMIT l.idx then setLaneMode d l .faulted
    else if d.mode = .hold ∨ (d.mode = .standstill ∧ first) then setLaneMode d l .inService
    else enterResync d l true

/-- Boot ends (R41, R328): the firmware image valid for all three lanes and of the higher version code, if the lanes select one
and the same; the configuration valid for all three and of the higher PKG_SEQ. Lanes that have passed SELFTEST meanwhile go on. -/
def endBoot (d : Dev) : Dev :=
  let fw := validFw d.flash
  let pick := fun (l : Lane) => bestOf (fw.filter fun x => (laneOf d l).bootFw.contains x.1)
  let cfgs := (match d.flash.cfg0 with
      | some p => [(0, p.seq)]
      | none => []) ++ (match d.flash.cfg1 with
      | some p => [(1, p.seq)]
      | none => [])
  let d := (d.put .SYS_STATUS_BOOT_DONE 1).wrSat .PWR_BOOT_MS 0 (d.tb.ext / 1000000).toNat
  let d := match bestOf (commonOf (fun l => (laneOf d l).bootFw) fw), bestOf (commonOf (fun l => (laneOf d l).bootCfg) cfgs) with
    | none, _ => enterHold d 1
    | some f, c =>
      if Lane.all.all fun l => decide (pick l = some f) then
        match c with
        | none => enterHold d 2
        | some k => enterStandstill d f.1 k.1
      else enterHold d 3
  d.each Lane.all leaveSelftest

/-- Boot ends once every lane has verified its images and every physical engine has passed its known-answer test or is faulted (R41, R246). -/
def tryEndBoot (d : Dev) : Dev :=
  let tested := (List.range 18).all fun p => d.mil.tested.contains p || decide (d.rd .MIL_ENG_STAT_STATE p = 2)
  if d.mode = .boot ∧ (Lane.all.all fun m => (laneOf d m).bootDone) ∧ tested then endBoot d else d

/-- IMAGE_VERIFY_DONE: lane `l` in BOOT has verified both flash images and both configuration slots with its own code (R41,
R328, R502); it goes on to SELFTEST (R512). The last of the three ends Boot. After Boot the lane verifies the image in use by the
lanes in service (R107). -/
def execImageVerifyDone (l : Lane) (s : State) : Host.Outcome State Fault Refusal :=
  s.run fun d =>
    if laneMode d l ≠ .boot then d
    else
      let fw := validFw d.flash
      let ref := match d.mode with
        | .boot => (bestOf fw).map Prod.snd
        | _ => some (d.rd .SYS_FW_VERSION_CODE)
      let cfg := validCfg d.flash (d.keys.get l) ref
      let d := onLane d l fun x => { x with bootFw := fw.map Prod.fst, bootCfg := cfg.map Prod.fst, bootDone := true }
      match d.mode with
      | .boot =>
        tryEndBoot (enterSelftest d l)
      | .hold => enterSelftest d l
      | _ =>
        if (fw.map Prod.fst).contains (d.rd .SYS_MODE_FW_SLOT) then
          enterSelftest (onLane d l fun x => { x with fwVersion := d.rd .SYS_FW_VERSION_CODE }) l
        else d

/-- BOOT_TIMEOUT: 2 s after reset release a lane that is not done verifying counts as having found no valid image, and Boot ends
(R41). -/
def execBootTimeout (s : State) : Host.Outcome State Fault Refusal :=
  s.run fun d =>
    if d.mode = .boot ∧ d.on .PWR_STATUS_SHARED_UP then
      tryEndBoot (d.each Lane.all fun d l =>
        if (laneOf d l).bootDone then d else onLane d l fun x => { x with bootFw := [], bootCfg := [], bootDone := true })
    else d

/-- SELFTEST_DONE: lane `l` has passed SELFTEST with the comparator test of all 32 groups (R73, R80, R83, R107, R512); while Boot still waits
for another lane it stays in SELFTEST. -/
def execSelftestDone (l : Lane) (s : State) : Host.Outcome State Fault Refusal :=
  s.run fun d =>
    if laneMode d l = .selftest ∧ !(laneOf d l).latch then
      let d := onLane d l fun x => { x with selftested := true }
      leaveSelftest (d.wr .LN_CMP_TEST_NEXT_GROUP l.idx 0) l
    else d

/-- SELFTEST_TIMEOUT: 20 ms without passing set the fault latch as a failed comparator test (R512). -/
def execSelftestTimeout (l : Lane) (s : State) : Host.Outcome State Fault Refusal :=
  s.run fun d =>
    if laneMode d l = .selftest ∧ !(laneOf d l).selftested then
      setLatch (d.flag .LN_STATUS_CMP_TEST_FAIL l.idx) l .CMP_TEST_FAIL
    else d

/-! Self-reset and debug exit. -/

/-- A lane's own reset, released at once (Table 17-3): it boots from mask ROM. -/
def selfReset (d : Dev) (l : Lane) (cause : Nat) (e : Ev) : Dev :=
  let d := laneReset d l cause e
  if d.on .PWR_STATUS_SHARED_UP ∧ convOk d l ∧ heldBy d l.idx = [] then
    let d := onLane (d.wrBit .PWR_STATUS_LANE_UP 0 l.idx true) l fun x => { x with supplyWarn := d.on .PWR_SUP_STAT_WARN l.idx }
    setLaneMode d l .boot
  else d

/-- FAULT_LATCH_TIMEOUT: 10 ms with its latch set, lane `l` resets itself (R79, cause 0xA); a lane past the limit of R108 stays
FAULTED until device reset. -/
def execFaultLatchTimeout (l : Lane) (s : State) : Host.Outcome State Fault Refusal :=
  s.run fun d =>
    if (laneOf d l).latch ∧ !d.on .LN_STATUS_REJOIN_LIMIT l.idx then
      onLane (selfReset d l 0xA .LOCKSTEP_MISMATCH) l fun x => { x with outCause := 1 }
    else d

/-- DEBUG_EXIT: a lane leaves DEBUG through its own reset (R110, cause 0xB). -/
def execDebugExit (l : Lane) (s : State) : Host.Outcome State Fault Refusal :=
  s.run fun d =>
    if laneMode d l = .debug then onLane (selfReset d l 0xB .LANE_DEBUG) l fun x => { x with outCause := 1 } else d

/-! Reload and resynchronisation. -/

/-- The donor of lane `x` (R106): the first lane in service other than it. -/
def donorOf (d : Dev) (x : Lane) : Option Lane := (serviceLanes d).find? fun l => decide (l ≠ x)

/-- At least two lanes are in service, which a transfer and a rejoin need (R107, R108). -/
def canHelp (d : Dev) : Bool := decide (2 ≤ (serviceLanes d).length)

/-- Lane `x` waits for an image. -/
def wantsImage (d : Dev) (x : Lane) : Bool :=
  laneMode d x = .reload || (laneMode d x = .resync && (laneOf d x).needImage)

/-- The bulk phase of a frame toward lane `x` is open: the donor in service has completed its evaluation of the frame, and the phase's
window of 5.0 to 49.0 us has not passed (R89). -/
def bulkOpen (d : Dev) (donor : Lane) : Bool := (laneOf d donor).evaluated && decide (d.offset ≤ 49000)

/-- RELOAD_CHUNK_SEND: the donor sends one 32 KiB chunk of its image to lane `x`, one a frame (R89, R106). -/
def execReloadChunkSend (x : Lane) (s : State) : Host.Outcome State Fault Refusal :=
  s.run fun d =>
    match donorOf d x with
    | none => d
    | some l =>
      let n := (laneOf d x).reloadChunks
      if !wantsImage d x ∨ !canHelp d ∨ !bulkOpen d l ∨ 8 ≤ n ∨ (laneOf d x).bulkFrame = some d.frameNo then d
      else
        let d := onLane (d.reach 5000) x fun y => { y with
          reloadChunks := n + 1
          bulkFrame := some d.frameNo
          bulkBlocks := 0
          reloadBlocks := if n = 0 then 0 else y.reloadBlocks
          staging := if n = 0 then some (laneOf d l).image else y.staging }
        d.emit (.reloadChunk l x n)

/-- The bytes of a 4 KiB block of a staged image that did not arrive are not those of the donor: they stay zero. -/
def dropBlock (i : Image) (k : Nat) : Image :=
  { i with bytes := i.bytes.filter fun b => decide (¬ (4096 * k ≤ b.1 ∧ b.1 < 4096 * (k + 1))) }

/-- BULK_BLOCK_RECEIVED: a 4 KiB block arrives at lane `x` with its CRC right or wrong, at most 32 KiB a frame (R89): of the image while one
is on its way, else of the snapshot, which the donor sends in the two bulk phases after its tick (R107). -/
def execBulkBlockReceived (x : Lane) (good : Bool) (s : State) : Host.Outcome State Fault Refusal :=
  s.run fun d =>
    let y := laneOf d x
    let used := if y.bulkFrame = some d.frameNo then y.bulkBlocks else 0
    if !canHelp d ∨ 8 ≤ used then d
    else if wantsImage d x ∧ y.reloadBlocks < 8 * y.reloadChunks then
      onLane d x fun y => { y with
        reloadBlocks := y.reloadBlocks + 1
        bulkFrame := some d.frameNo
        bulkBlocks := used + 1
        staging := if good then y.staging else y.staging.map fun i => dropBlock i y.reloadBlocks }
    else if laneMode d x = .resync ∧ !y.needImage ∧ y.snapshot.isSome ∧ y.snapshotBlocks < 16 ∧
        ((donorOf d x).any fun l => bulkOpen d l) then
      onLane (d.reach 5000) x fun y => { y with
        bulkFrame := some d.frameNo
        bulkBlocks := used + 1
        snapshotBlocks := if good then y.snapshotBlocks + 1 else y.snapshotBlocks
        snapshot := if good then y.snapshot else none }
    else d

/-- RELOAD_VERIFY: in the frame after its last chunk lane `x` computes the CRC-64 of its staging region (R106): equal to the digest of the
lanes in service, it will switch at the next monitor-frame boundary; else the reload is repeated once, and a second failure leaves it
FAULTED. A transfer that has lost its donor counts as no failure (R107). -/
def execReloadVerify (x : Lane) (s : State) : Host.Outcome State Fault Refusal :=
  s.run fun d =>
    let y := laneOf d x
    match y.staging, donorOf d x with
    | some i, some l =>
      if wantsImage d x ∧ canHelp d ∧ y.reloadBlocks = 64 ∧ y.switchAt = none ∧ y.bulkFrame ≠ some d.frameNo then
        if imageDigest i = imageDigest (laneOf d l).image then
          onLane d x fun y => { y with switchAt := some ((d.frameNo + 2 - d.frameNo % 2) % 2 ^ 32) }
        else if y.reloadTries = 0 then
          onLane d x fun y => { y with reloadTries := 1, reloadChunks := 0, reloadBlocks := 0, staging := none }
        else
          let d := onLane d x fun y => { y with staging := none, reloadChunks := 0, reloadBlocks := 0 }
          (setLaneMode d x .faulted).wr .LN_STATUS_REJOIN_LIMIT x.idx 1
      else d
    | _, _ => d

/-- IMAGE_SWITCH: at an agreed monitor-frame boundary the lanes with a staged image switch to it and write ADC_CORRc (R105, R106,
R373); a lane in RELOAD goes on to RESYNC and writes EV_LANE_RELOADED. -/
def execImageSwitch (s : State) : Host.Outcome State Fault Refusal :=
  s.run fun d =>
    d.each Lane.all fun d l =>
      let x := laneOf d l
      match x.staging, x.switchAt with
      | some i, some n =>
        if n = d.frameNo ∧ d.tb.ticking then
          let d := loadImage (onLane d l fun y => { y with staging := none, switchAt := none }) l i
          match laneMode d l with
          | .reload =>
            let v := match donorOf d l with
              | some m => (laneOf d m).fwVersion
              | none => x.fwVersion
            let d := enterResync (onLane d l fun y => { y with fwVersion := v }) l false
            d.event .LANE_RELOADED (srcLane l)
          | .resync => onLane d l fun y => { y with needImage := false }
          | _ => d
        else d
      | _, _ => d

/-- RESYNC_SNAPSHOT: at a monitor-frame boundary the donor takes a snapshot of its dynamic safety state at the tick for lane `x` (R107). Lane
`x` brings it forward by its own evaluation on the agreed values of the frames from this tick on; its state is of use to it only once the
whole snapshot has arrived. -/
def execResyncSnapshot (x : Lane) (s : State) : Host.Outcome State Fault Refusal :=
  s.run fun d =>
    match donorOf d x with
    | some l =>
      if laneMode d x = .resync ∧ !(laneOf d x).needImage ∧ canHelp d ∧ d.frameNo % 2 = 0 ∧ d.tb.ticking ∧
          !(laneOf d l).agreedNow ∧ !(laneOf d x).agreedNow ∧
          ((laneOf d x).snapshot.isNone ∨ (laneOf d x).snapshotAt ≠ d.frameNo) then
        let z := laneOf d l
        (onLane d x fun y => { y with
          snapshot := some { saf := z.saf, runs := z.outlierRun, positions := z.agreed.positions }, snapshotBlocks := 0,
          snapshotAt := d.frameNo, agreed := { y.agreed with positions := z.agreed.positions }, saf := z.saf, outlierRun := z.outlierRun, decision := z.decision, decisionPrev := z.decisionPrev }).emit (.snapshot l x)
      else d
    | none => d

/-- SNAPSHOT_LOAD: at the following monitor-frame boundary lane `x`, which holds the whole snapshot, enters SHADOW with the state that its
own evaluation of the frames since has brought forward to that boundary (R107). -/
def execSnapshotLoad (x : Lane) (s : State) : Host.Outcome State Fault Refusal :=
  s.run fun d =>
    let y := laneOf d x
    if laneMode d x = .resync ∧ y.snapshot.isSome ∧ y.snapshotBlocks = 16 ∧ canHelp d ∧ !y.agreedNow ∧
        d.frameNo = (y.snapshotAt + 2) % 2 ^ 32 then
      let d := onLane d x fun y => { y with snapshot := none, snapshotBlocks := 0, shadowRun := 0 }
      setLaneMode d x .shadow
    else d

/-- LANE_REJOIN: after 16 matching frames in SHADOW lane `x` enters service at the next monitor-frame boundary (R107, R108). -/
def execLaneRejoin (x : Lane) (s : State) : Host.Outcome State Fault Refusal :=
  s.run fun d =>
    if laneMode d x = .shadow ∧ 16 ≤ (laneOf d x).shadowRun ∧ d.frameNo % 2 = 0 ∧ canHelp d then
      let d := onLane (setLaneMode d x .inService) x fun y => { y with outCause := 0, shadowRun := 0 }
      let d := ((d.flag .LN_STATUS_LANE_REJOIN x.idx).inc .LN_REJOIN_COUNT x.idx)
      d.event .LANE_REJOIN (srcLane x)
    else d

/-- FRAME_RECORD_SEND: at 0.5 us lane `l` reads the ADC's frame snapshot, samples the fault-status pairs of its incoming links and sends its
frame record (R79, R84, R379); a snapshot of another frame than the last gives the invalid pair. -/
def execFrameRecordSend (l : Lane) (bent : PerLane (Option (BitVec 2))) (s : State) : Host.Outcome State Fault Refusal :=
  s.run fun d =>
    let pair := fun (c : Nat) =>
      if (laneOf d l).corrMiss.any (fun p => decide (p.1 = c)) ∨ (d.rd .ADC_SNAP_FRAME_NO + 1) % 2 ^ 32 ≠ d.frameNo then
        (-32768, -32768)
      else (d.rdI .ADC_FRAME_MEAN c, d.rdI .ADC_FRAME_MAX c)
    if d.tb.ticking ∧ exchanges d l then
      sendRecord (samplePairs (onLane (d.reach 500) l fun x => { x with adc := (List.range 32).map pair }) l bent) l
    else d

/-! Start of a ring. -/

/-- START_SEQUENCE: a due start sequence of ring `l` begins: start frames in 4 consecutive frames on both ports (R183, R184). Every
unit is DISABLED after it (R297). -/
def execStartSequence (l : Lane) (s : State) : Host.Outcome State Fault Refusal :=
  s.run fun d =>
    if (ringOf d l).startDue ∧ !d.pwr.noMaster ∧ d.rd .ENT_STAT_BYPASS_CLOSED l.idx = 0 ∧ d.tb.ticking ∧ d.periodDue = none then
      let d := startRing d l
      d.each (serviceLanes d) fun d m => onSaf d m fun x =>
        { x with units := (List.range 32).foldl (fun u k => SMap.modify {} u k fun y =>
            if y.disabled then y
            else { y with func := 5, torque := false, brakeRel := false, relWait := none, stoWait := false, disabled := true,
                          disabledFr := 0, enableReq := false }) x.units }
    else d

end Sys2Proof.Machine
end

