-- ==== Sys2Proof/Machine/Mill.lean ====
section
/-!
DEFINITION. The loop engines, chapter 08: prepare and close phases, deadlines, marshalling, engine faults and migration, telemetry and the
gain table port; the drain of the trajectory store (R231).
-/
namespace Sys2Proof.Machine

/-- A slot's logical engine works: neither waiting for a spare nor without an engine. -/
def engineRuns (d : Dev) (e : Nat) : Bool := !d.mil.migrating.contains e && !d.mil.dead.contains e

/-- All slots. -/
def allSlots : List Nat := List.range 148

/-! Prepare phase. -/

/-- The prepare work of slot `s` for target frame `f` (R247, R248). -/
def prepareSlot (d : Dev) (f s : Nat) : Dev :=
  let bad := fun (d : Dev) (was now : Bool) => if now ∧ !was then d.event .SEG_BAD srcLoop s else d
  if s < 128 then
    let x := mjOf d s
    let hold := if slotGranted d s then x.r else f64OfInt x.y
    let (p, e, b) := slotRef d s f hold
    let d := bad (if b then d.flag .MIL_J_STAT_SEG_BAD s else d) x.segBad b
    onMj d s fun y => { y with prep := p, super := (coupleOf d s).isSome, segEntry := e.getD y.segEntry, segBad := b, prepared := true }
  else
    let k := s - 128
    let x := msOf d k
    let hold := if s < 144 ∧ !slotGranted d s then f64OfInt (spOf d k).s else x.r
    let (p, e, b) := slotRef d s f hold
    let d := bad d x.segBad b
    onMs d k fun y => { y with prep := p, super := (coupleOf d s).isSome, segEntry := e.getD y.segEntry, segBad := b, prepared := true }

/-- The checkpoint of logical engine `e` in frame `n` (R265). -/
def checkpoint (d : Dev) (n e : Nat) : Dev :=
  let js := ((List.range 8).map (8 * e + ·)).filter (slotActive d)
  let ks := ([128 + e] ++ (if e < 4 then [144 + e] else [])).filter (slotActive d)
  let c : Ckpt :=
    { frame := n
      joints := js.map fun j =>
        let x := mjOf d j
        (j, { fbFrame := x.fbFrame, missRun := d.rd .MIL_J_STAT_MISS_RUN j, coast := d.rd .MIL_J_STAT_COAST j
              granted := d.on .MIL_J_STAT_GRANTED j, limited := d.on .MIL_J_STAT_LIMITED j, obs := x.obs, sigma := x.sigma
              uPrev := x.uPrev, segEntry := x.segEntry, started := x.started })
      slots := ks.map fun s =>
        let x := msOf d (s - 128)
        (s, { missRun := d.rd .MIL_SLOT_STAT_MISS_RUN (s - 128), target := x.target, ref := ⟨x.r, x.vref, x.aref⟩, segEntry := x.segEntry }) }
  onMil d fun m => { m with ckpt := SMap.set none m.ckpt (2 * e + n % 2) (some c) }

/-- PREPARE_PHASE: from 8.0 us to T_F − 14.5 us each engine writes its checkpoint and each active slot prepares its reference for frame n + 2
(R53, R247, R248, R265); `late` are slots whose work is not complete at the window's end. An engine that completes none writes none. -/
def execPreparePhase (late : List (Fin 148)) (s : State) : Host.Outcome State Fault Refusal :=
  s.run fun d =>
    if !d.tb.ticking ∨ (d.frameNs - 14500 : Int) ≤ d.offset then d
    else
      let d := d.reach 8000
      let f := frameAdd d.frameNo 2
      let missing := late.map (·.val)
      let go := allSlots.filter fun s => slotActive d s && engineRuns d (engineOf s) && !missing.contains s
      let writes := (List.range 16).filter fun e =>
        engineRuns d e && ((engineSlots e).any go.contains || !(engineSlots e).any (slotActive d))
      let d := d.each writes fun d e => checkpoint d d.frameNo e
      showPlan (storeLow (d.each go fun d s => prepareSlot d f s))

/-! Engine faults. -/

/-- The physical engine that carries logical engine `e` (MIL_MAPi). -/
def physOf (d : Dev) (e : Nat) : Nat := d.rd .MIL_MAP_PHYS (e / 4) / 2 ^ (8 * (e % 4)) % 256

/-- Healthy spares. -/
def spares (d : Dev) : List Nat := (List.range 18).filter fun p => decide (d.rd .MIL_ENG_STAT_STATE p = 1)

/-- The arms and local axes logical engine `e` serves. -/
def engineUnitsOf (d : Dev) (e : Nat) : List Nat :=
  let js := ((List.range 8).map (8 * e + ·)).filter (slotActive d)
  (js.filterMap (armOfSlot d)).dedup ++ (if slotActive d (128 + e) then [16 + e] else [])

/-- Physical engine `p` is faulted (R264, R267): it stops at once, so that outputs of its slots that have not left are lost; an active one
leaves its logical engine to a spare, or without an engine. The spec names no event for the fault of a spare or of an engine without a
successor: EV_ENGINE_SPARED stands for them too (log 111). -/
def engineFault (d : Dev) (p cause : Nat) : Dev :=
  let st := d.rd .MIL_ENG_STAT_STATE p
  if st = 2 then d
  else
    let d := ((d.wr .MIL_ENG_STAT_STATE p 2).wr .MIL_ENG_STAT_CAUSE p cause).flag .MIL_STATUS_ENG_FAULT
    let d := countFault (d.put .MIL_STATUS_SPARES (spares d).length) .engine p .ENGINE_SPARED
    if st = 1 then d
    else
      let e := d.rd .MIL_ENG_STAT_LOGICAL p
      let d := d.each (engineSlots e) fun d s =>
        if s < 128 then onMj d s fun x => { x with prepared := false, closed := false }
        else onMs d (s - 128) fun x => { x with prepared := false, closed := false }
      if d.mil.migrating.length < (spares d).length then onMil d fun m => { m with migrating := m.migrating ++ [e] }
      else
        let us := (engineUnitsOf d e).map fun u => (e, u)
        let d := onMil d fun m => { m with dead := m.dead ++ [e] }
        { d with fault := { d.fault with engineUnits := d.fault.engineUnits ++ us } }

/-- ENGINE_FAULT: an uncorrectable error of the local memory of engine `p`, or a failed start-up test (`kat`) (R246, R264). -/
def execEngineFault (p : Fin 18) (kat : Bool) (s : State) : Host.Outcome State Fault Refusal :=
  s.run fun d => tryEndBoot (engineFault d p (if kat then 3 else 1))

/-- SPARE_KAT: engine `p` has run its known-answer test (R246): every engine at start-up, a spare in every frame. -/
def execSpareKat (p : Fin 18) (pass : Bool) (s : State) : Host.Outcome State Fault Refusal :=
  s.run fun d =>
    let st := d.rd .MIL_ENG_STAT_STATE p
    if st = 1 ∨ (st = 0 ∧ d.mode = .boot) then
      tryEndBoot (if pass then onMil (d.inc .MIL_ENG_STAT_KAT_PASS p) fun m => { m with tested := m.tested.insert p.val }
        else engineFault d p 3)
    else d

/-- Take slots back from a checkpoint; in the first close phase each observer is predicted over n − FRAME_FB frames (R266). -/
def restore (d : Dev) (c : Ckpt) : Dev :=
  let d := d.each c.joints fun d q =>
    let d := d.wr .MIL_J_STAT_COAST q.1 q.2.coast
    onMj d q.1 fun x =>
      { x with obs := q.2.obs, sigma := q.2.sigma, uPrev := q.2.uPrev, fbFrame := q.2.fbFrame, segEntry := q.2.segEntry, started := q.2.started
               behind := (frameDiff d.frameNo q.2.fbFrame - 1).toNat }
  d.each c.slots fun d q => onMs d (q.1 - 128) fun x => { x with target := q.2.target, segEntry := q.2.segEntry }

/-- ENGINE_MIGRATION: at the next prepare phase the healthy spare with the lower number takes logical engine `e` from its newer checkpoint
(the older if `bad`: the newer fails its CRC) (R266, R268). -/
def execEngineMigration (e : Fin 16) (bad : Bool) (s : State) : Host.Outcome State Fault Refusal :=
  s.run fun d =>
    if d.mil.migrating.min? = some e.val then
      match spares d with
      | [] => d
      | p :: _ =>
        let d := d.reach 8000
        let b0 := SMap.get none d.mil.ckpt (2 * e.val)
        let b1 := SMap.get none d.mil.ckpt (2 * e.val + 1)
        let (newer, older) := match b0, b1 with
          | some x, some y => if 0 < frameDiff x.frame y.frame then (b0, b1) else (b1, b0)
          | some _, none => (b0, b1)
          | none, _ => (b1, b0)
        let d := onMil d fun m => { m with migrating := m.migrating.filter fun x => decide (x ≠ e.val) }
        let d := match if bad then older else newer with
          | some c => restore d c
          | none => d
        let w := d.rd .MIL_MAP_PHYS (e.val / 4)
        let sh := 2 ^ (8 * (e.val % 4))
        let d := d.wr .MIL_MAP_PHYS (e.val / 4) (w - w / sh % 256 * sh + p * sh)
        let d := ((d.wr .MIL_ENG_STAT_STATE p 0).wr .MIL_ENG_STAT_LOGICAL p e.val).flag .MIL_STATUS_ENG_FAULT
        (d.put .MIL_STATUS_SPARES (spares d).length).event .ENGINE_SPARED (srcEngine p) p
    else d

/-- A whole window missed: an engine with active slots completed none of them (R264). -/
def wholeMissed (d : Dev) (done : Nat → Bool) : Dev :=
  d.each (List.range 16) fun d e =>
    let act := (engineSlots e).filter (slotActive d)
    if engineRuns d e ∧ !act.isEmpty ∧ act.all (fun s => !done s) then engineFault d (physOf d e) 2 else d

/-- A slot has prepared in this cycle. -/
def isPrepared (d : Dev) (s : Nat) : Bool := if s < 128 then (mjOf d s).prepared else (msOf d (s - 128)).prepared

/-- A slot has completed its close work in this cycle. -/
def isClosed (d : Dev) (s : Nat) : Bool := if s < 128 then (mjOf d s).closed else (msOf d (s - 128)).closed

/-- PREPARE_WINDOW_END: the window is over; a slot not prepared will miss, and an engine that prepared nothing is faulted (R262, R264). -/
def execPrepareWindowEnd (s : State) : Host.Outcome State Fault Refusal :=
  s.run fun d =>
    if !d.tb.ticking then d
    else let d := d.reach (d.frameNs - 14500); wholeMissed d (isPrepared d)

/-! Close phase. -/

/-- The feedback of joint `j` in this cycle (R252): its part arrived and the guard of R197 did not withdraw its node. -/
def feedbackOf (d : Dev) (j : Nat) : Option Int :=
  let ok := Lane.all.any fun l => match jointHome (ringOf d l).sched 0 j with
    | some (e, _) => decide (nodeState d l e = 3)
    | none => false
  if ok then SMap.get none d.motion.feedback j else none

/-- The node of joint `j` is held at its last setpoints by the guard of R197. -/
def guardHeld (d : Dev) (j : Nat) : Bool :=
  Lane.all.any fun l => match jointHome (ringOf d l).sched 0 j with
    | some (e, _) => decide (nodeState d l e = 4)
    | none => false

/-- The observer of joint `j` after cycle n (R252 to R254). -/
def observeJoint (d : Dev) (j : Nat) : Dev :=
  let x := mjOf d j
  let t := d.frameS
  let o := obsPredictN t (x.behind + 1) x.obs
  match feedbackOf d j with
  | some y =>
    let coast := d.rd .MIL_J_STAT_COAST j
    let again := decide (16 < coast) || !x.started
    let d := if x.started ∧ 16 < coast then d.event .OBS_RESTART srcLoop j else d
    let d := d.wr .MIL_J_STAT_COAST j 0
    let g := obsGains (d.rd .MIL_J_OBS_F_OBS j) t
    onMj d j fun x =>
      { x with obs := if again then obsAt y else obsCorrect g t y o, sigma := if again then f64Zero else x.sigma, started := true
               fbFrame := d.frameNo, behind := 0, y := y }
  | none => onMj (d.wrSat .MIL_J_STAT_COAST j (d.rd .MIL_J_STAT_COAST j + 1)) j fun x => { x with obs := o, behind := 0 }

/-- The reference of slot `s` with its coupling for target frame `f` (R250). -/
def referSlot (d : Dev) (f s : Nat) : Dev :=
  if s < 128 then
    let x := mjOf d s
    let (d, o) := totalRef d s f x.prep x.super x.r
    onMj d s fun x => { x with r := o.p, vref := o.v, aref := o.a }
  else
    let x := msOf d (s - 128)
    let (d, o) := totalRef d s f x.prep x.super x.r
    onMs d (s - 128) fun x => { x with r := o.p, vref := o.v, aref := o.a }

/-- The output of joint `j` (R258 to R261): without torque granted the integrator is 0 and the output ramps to 0; with it the control law, or
the last output while the guard of R197 holds the node. -/
def outputJoint (d : Dev) (j : Nat) : Dev :=
  let x := mjOf d j
  let g := slotGranted d j
  let d := d.wr .MIL_J_STAT_GRANTED j (bitOf g)
  let done := fun (d : Dev) (u : Int) =>
    let out := if d.on .MIL_J_CTRL_OUT_INV j then -u else u
    onMj (d.wr .MIL_J_VHAT_V j (f64ToBits32 x.obs.v)) j fun y => { y with uPrev := u, out := out, closed := true }
  if !g then
    let du : Int := d.rd .MIL_J_DUMAX_DU j
    let d := (d.wr .MIL_J_STAT_FROZEN j 0).wr .MIL_J_STAT_LIMITED j 0
    done (onMj d j fun y => { y with sigma := f64Zero }) (x.uPrev - clampInt (-du) du x.uPrev)
  else if guardHeld d j then done d x.uPrev
  else
    let o := controlLaw d j x
    let d := (d.wr .MIL_J_STAT_FROZEN j (bitOf o.frozen)).wr .MIL_J_STAT_LIMITED j (bitOf o.limited)
    let d := d.wr .MIL_J_EP_V j (f64ToBits32 o.ep)
    done (onMj d j fun y => { y with sigma := o.sigma, ep := o.ep, vcmd := o.vcmd, gain := o.gain }) o.u

/-- The result of a setpoint slot (R251): a local axis rounds to the nearest step, halves away from zero. -/
def closeSlot (d : Dev) (s : Nat) : Dev :=
  onMs d (s - 128) fun x => { x with aim := if s < 144 then f64RoundAway x.r else x.aim, closed := true }

/-- CLOSE_PHASE: with the cycle of frame n returned, observers, masters, couplings and outputs for the latch of frame n + 2 (R250 to R261,
R238 to R242); `late` are slots whose output is not complete at the window's end. -/
def execClosePhase (late : List (Fin 148)) (s : State) : Host.Outcome State Fault Refusal :=
  s.run fun d =>
    if !d.tb.ticking then d
    else
      let d := d.reach (d.frameNs - 6500)
      let f := frameAdd d.frameNo 2
      let missing := late.map (·.val)
      let go := allSlots.filter fun s => slotActive d s && engineRuns d (engineOf s) && !missing.contains s && isPrepared d s
      let js := go.filter fun s => decide (s < 128)
      let lost := (allSlots.filter fun s => decide (s < 128)).filter fun s => slotActive d s && !js.contains s && (feedbackOf d s).isNone
      let d := d.each lost fun d j => d.wrSat .MIL_J_STAT_COAST j (d.rd .MIL_J_STAT_COAST j + 1)
      let d := d.each js observeJoint
      let vms := go.filter fun s => decide (144 ≤ s)
      let d := d.each vms fun d s => referSlot d f s
      let d := stepMasters d
      let d := d.each (go.filter fun s => decide (s < 144)) fun d s => referSlot d f s
      let d := d.each js outputJoint
      showPlan (d.each (go.filter fun s => decide (128 ≤ s)) closeSlot)

/-! Misses. -/

/-- Slot `s` misses a frame (R262, R263). -/
def missSlot (d : Dev) (s : Nat) : Dev :=
  let d := d.flag .MIL_STATUS_ANY_MISS
  let stop := fun (d : Dev) (u : Option Nat) => match u with
    | some u => if d.fault.missStop.contains u then d else { d with fault := { d.fault with missStop := d.fault.missStop ++ [u] } }
    | none => d
  if s < 128 then
    let run := d.rd .MIL_J_STAT_MISS_RUN s
    let d := ((d.flag .MIL_J_STAT_DEADLINE_MISS s).inc .MIL_J_MISS_CNT s).wrSat .MIL_J_STAT_MISS_RUN s (run + 1)
    let d := if (mjOf d s).missEp then d else d.event .DEADLINE_MISS srcLoop s
    let d := onMj d s fun x => { x with missEp := true, behind := x.behind + 1, missed := true }
    if run = 2 then stop ((d.flag .MIL_J_STAT_MISS3 s).event .DEADLINE_MISS3 srcLoop s) (armOfSlot d s) else d
  else
    let k := s - 128
    let run := d.rd .MIL_SLOT_STAT_MISS_RUN k
    let d := (d.flag .MIL_SLOT_STAT_DEADLINE_MISS k).wrSat .MIL_SLOT_STAT_MISS_RUN k (run + 1)
    let d := if (msOf d k).missEp then d else d.event .DEADLINE_MISS srcLoop s
    let d := onMs d k fun x => { x with missEp := true, missed := true }
    if run = 2 then stop ((d.flag .MIL_SLOT_STAT_MISS3 k).event .DEADLINE_MISS3 srcLoop s) (if s < 144 then some (16 + k) else none) else d

/-- Slot `s` completed its frame. -/
def hitSlot (d : Dev) (s : Nat) : Dev :=
  if s < 128 then onMj (d.wr .MIL_J_STAT_MISS_RUN s 0) s fun x => { x with missEp := false, missed := false }
  else onMs (d.wr .MIL_SLOT_STAT_MISS_RUN (s - 128) 0) (s - 128) fun x => { x with missEp := false, missed := false }

/-- The value of telemetry channel `ch` of source `src` (Table 8-6). -/
def tlmValue (d : Dev) (src ch : Nat) : F64 :=
  if src < 128 then
    let x := mjOf d src
    match ch with
    | 0 => x.r
    | 1 => x.obs.p
    | 2 => x.obs.v
    | 3 => x.obs.a
    | 4 => x.ep
    | 5 => x.vcmd
    | 6 => x.sigma
    | 7 => f64OfInt x.uPrev
    | 8 => f64OfInt x.y
    | 9 => x.gain
    | _ => f64Zero
  else if src < 144 then
    let p := fbOf d (src - 128)
    match ch with
    | 0 => (msOf d (src - 128)).r
    | 1 => p.latched.p
    | 2 => p.latched.v
    | 8 => f64OfInt p.latchedY
    | _ => f64Zero
  else f64Zero

/-- Valid selections, ascending. -/
def tlmSels (d : Dev) : List Nat := (List.range 32).filter fun k => d.on .MIL_TLM_SEL_VALID k

/-- Change telemetry. -/
def onTlm (d : Dev) (f : Telemetry → Telemetry) : Dev := onMil d fun m => { m with tlm := f m.tlm }

/-- The samples of frame `n` join the block that began at a multiple of 8 (R270, R271). -/
def sampleTlm (d : Dev) (n : Nat) : Dev :=
  if !d.on .MIL_TLM_CTRL_EN then d
  else
    let i := n % 8
    let d := if i = 0 then onTlm d fun t => { t with samples := [], miss := [], frame0 := n, running := true } else d
    if !d.mil.tlm.running then d
    else d.each (tlmSels d) fun d k =>
      let src := d.rd .MIL_TLM_SEL_SRC k
      let v := tlmValue d src (d.rd .MIL_TLM_SEL_CHAN k)
      let m := if src < 128 then (mjOf d src).missed else (msOf d (src - 128)).missed
      onTlm d fun t =>
        { t with samples := SMap.modify [] t.samples k fun l => l ++ [v], miss := SMap.modify 0 t.miss k fun b => b + bitOf m * 2 ^ i }

/-- The output of slot `s` leaves with the marshalling that follows its close window: what the slot computed, after a miss the previous output
again, and 0 of a joint whose slot does no work (R244, R262). -/
def passOutput (d : Dev) (s : Nat) : Dev :=
  if s < 128 then
    let x := mjOf d s
    let out := if !slotActive d s then 0 else if x.closed then x.out else x.sent
    let d := if out = x.sent then d else d.wr .MIL_J_UOUT_U s (fieldOf 32 out)
    if slotActive d s then (if out = x.sent then d else onMj d s fun y => { y with sent := out })
    else if x = {} then d
    else onMj d s fun y =>
      { y with sent := 0, out := 0, uPrev := 0, prepared := false, closed := false, behind := if y.started then y.behind + 1 else y.behind }
  else if (msOf d (s - 128)).closed then onMs d (s - 128) fun x => { x with target := x.aim }
  else d

/-- CLOSE_WINDOW_END: at 2.0 us of frame n + 1 a slot without its output misses frame n (R262 to R264). -/
def execCloseWindowEnd (s : State) : Host.Outcome State Fault Refusal :=
  s.run fun d =>
    if !d.tb.ticking then d
    else
      let d := d.reach 2000
      let done := isClosed d
      let d := d.each (allSlots.filter (slotActive d)) fun d s => if done s then hitSlot d s else missSlot d s
      let d := wholeMissed (d.each allSlots passOutput) done
      let d := sampleTlm d (frameAdd d.frameNo (-1))
      onMil d fun m =>
        { m with joints := m.joints.filterMap fun p =>
                   let x := { p.2 with prepared := false, closed := false }
                   if x = {} then none else some (p.1, x)
                 slots := m.slots.filterMap fun p =>
                   let x := { p.2 with prepared := false, closed := false }
                   if x = {} then none else some (p.1, x) }

/-! Marshalling. -/

/-- The escape joint of entry `e` in this cycle and the sequence after it (R166). -/
def escapeOf (d : Dev) (e j : Nat) : Nat × Option Nat :=
  match SMap.get none d.motion.escape e with
  | some k => (k, if k + 1 < j then some (k + 1) else none)
  | none => (d.frameNo % j, none)

/-- The setpoint part of entry `e` of schedule `sch` (R165, R166); in Quarantine the differences are zero (R472). -/
def marshalEntry (sch : List SchedEntry) (d : Dev) (e : Nat) : Dev :=
  let n := (entryAt sch e).joints
  if n = 0 then { d with motion := { d.motion with parts := SMap.set {} d.motion.parts e {} } }
  else
    let base := jointBase sch e
    let (esc, next) := escapeOf d e n
    let due := fun (j : Nat) =>
      let x := mjOf d j
      if !slotActive d j then 0 else if x.closed then x.out else x.sent
    let val := fun k => if d.on .GRP_STATUS_QUARANTINED then SMap.get 0 d.motion.sent (base + k) else due (base + k)
    let slot := fun k =>
      if k = esc then fieldOf 16 (val k) else fieldOf 16 (val k - SMap.get 0 d.motion.sent (base + k))
    let part : MotionPart :=
      { escJoint := esc, escValid := true, escHi := fieldOf 16 (Int.fdiv (val esc) 65536), slots := (List.range n).map slot }
    { d with motion :=
        { d.motion with parts := SMap.set {} d.motion.parts e part, escape := SMap.set none d.motion.escape e next
                        sent := (List.range n).foldl (fun m k => SMap.set 0 m (base + k) (val k)) d.motion.sent } }

/-- The schedule the motion buffers follow: that of the first ring with one. -/
def motionSched (d : Dev) : List SchedEntry :=
  match Lane.all.find? fun l => !(ringOf d l).sched.isEmpty with
  | some l => (ringOf d l).sched
  | none => []

/-- MARSHALLING: from 2.0 to 3.2 us the outputs are coded into the motion buffers and step targets loaded into the step ports (R165, R166, R251,
R354). -/
def execMarshalling (s : State) : Host.Outcome State Fault Refusal :=
  s.run fun d =>
    if !d.tb.ticking ∨ 3200 ≤ d.offset then d
    else
      let d := d.reach 2000
      let sch := motionSched d
      let reset := Lane.all.any fun l => (ringOf d l).seqReset
      let d := if reset then
          { d with motion := { d.motion with escape := (entryIxs sch).foldl (fun m e => SMap.set none m e (some 0)) d.motion.escape } }
        else d
      let d := d.each (entryIxs sch) (marshalEntry sch)
      d.each ((List.range 16).filter fun k => slotActive d (128 + k)) fun d k =>
        let x := msOf d k
        loadTarget d k (if x.closed then x.aim else x.target) x.vref

/-! Drain. -/

/-- STORE_DRAIN: axis set `a` moves and has reached the end of its last committed segment without LAST (R231): the loop engines run the
drain stop; a drain only of what is superposed leaves couplings in force. -/
def execStoreDrain (a : Fin 36) (s : State) : Host.Outcome State Fault Refusal :=
  s.run fun d =>
    match (armOf d a).run, (slotsOf d a).head?.bind fun j => (segsOf d j).getLast? with
    | some r, some g =>
      if (r.mode = .held ∨ r.mode = .coupling ∨ r.mode = .stopping 3) ∨ g.last ∨ frameDiff (frameAdd d.frameNo 2) (segStop g) < 0 then d
      else
        let d := ((d.flag .PLN_ARM_STAT_DRAINED a).flag .PLN_STATUS_STORE_DRAIN).event .STORE_DRAIN srcPlanner a
        showPlan (planDrained d a (frameAdd (segStop g) g.stopFr))
    | _, _ => d

/-! Telemetry records. -/

/-- 2^e as FP64. -/
def pow2 (e : Int) : F64 := roundF64 false 1 e

/-- The block of eight samples (Table 8-7, R270). -/
def tlmBlock (k miss : Nat) (xs : List F64) : List Byte :=
  let m := greatest (xs.map f64Abs)
  let fits := fun (e : Int) => f64Lt m (f64Mul (f64Nat 4096) (pow2 e))
  let e : Int := if m = f64Zero then -128 else match (List.range 255).find? fun i => fits ((i : Int) - 127) with
    | some i => (i : Int) - 127
    | none => 127
  let mant := fun (x : F64) => if m = f64Zero then 0 else min 4095 (f64Floor (f64Div (f64Abs x) (pow2 e))).toNat
  let signs := xs.zipIdx.foldl (fun n p => if f64Lt p.1 f64Zero then n + 2 ^ p.2 else n) 0
  let bits96 := xs.zipIdx.foldl (fun n p => n + mant p.1 * 2 ^ (12 * p.2)) 0
  bytesLE 1 (fieldOf 8 e) ++ bytesLE 1 signs ++ bytesLE 12 bits96 ++ bytesLE 1 k ++ bytesLE 1 miss

/-- TELEMETRY_RECORD: the record of a complete block of 8 frames is written, or dropped when the ring is full (R271). -/
def execTelemetryRecord (s : State) : Host.Outcome State Fault Refusal :=
  s.run fun d =>
    let t := d.mil.tlm
    let ks := tlmSels d
    if !d.on .MIL_TLM_CTRL_EN ∨ ks.isEmpty ∨ !(ks.all fun k => decide ((SMap.get [] t.samples k).length = 8)) then d
    else
      let wr := d.rd .MIL_TLM_WR_IDX
      let next := if d.rd .MIL_TLM_SIZE_RECORDS ≤ wr + 1 then 0 else wr + 1
      let d := onTlm d fun t => { t with samples := [], miss := [], running := false, seq := (t.seq + 1) % 2 ^ 32 }
      if next = d.rd .MIL_TLM_RD_IDX then
        let d := d.flag .MIL_STATUS_TLM_OVERFLOW
        let d := if t.episode then d else d.event .TLM_OVERFLOW srcLoop
        onTlm d fun t => { t with lost := t.lost + 1, episode := true, seq := (t.seq + 2 ^ 32 - 1) % 2 ^ 32 }
      else
        let head := bytesLE 4 t.frame0 ++ bytesLE 1 ks.length ++ bytesLE 1 (bitOf (decide (0 < t.lost))) ++ bytesLE 2 (min t.lost 65535) ++
          bytesLE 4 t.seq ++ bytesLE 4 0
        let body := ks.flatMap fun k => tlmBlock k (SMap.get 0 t.miss k) (SMap.get [] t.samples k)
        let base := hostBase (d.rd .MIL_TLM_BASE_LO_ADDR) (d.rd .MIL_TLM_BASE_HI_ADDR)
        let d := d.emit (.hostWrite (base + wr * (16 + 16 * ks.length)) (head ++ body))
        onTlm (d.put .MIL_TLM_WR_IDX next) fun t => { t with lost := 0, episode := false }

/-- Telemetry is switched on: SEQ and LOST clear (Table 8-10). -/
def tlmEnable (d : Dev) : Dev := onTlm d fun _ => {}

/-! Gain table port, commits and the frame period. -/

/-- A write of MIL_TBL_G (R257): a point of the bank not in force is stored, and POINT advances. -/
def gainWrite (d : Dev) (m : Master) (v : Nat) : Dev :=
  let j := d.rd .MIL_TBL_SEL_JOINT
  let b := d.rd .MIL_TBL_SEL_BANK
  let k := d.rd .MIL_TBL_SEL_POINT
  if b = (mjOf d j).bank then d.busyReject m 0x14208
  else
    let d := (d.put .MIL_TBL_G_G v).put .MIL_TBL_SEL_POINT ((k + 1) % 64)
    onMil d fun x => { x with gains := SMap.set (0, 0) x.gains (128 * j + 64 * b + k) (d.rd .MIL_TBL_E_E, v) }

/-- GAIN_TABLE_WRITE: the write by a master (R257). -/
def execGainTableWrite (m : Master) (v : Word32) (s : State) : Host.Outcome State Fault Refusal :=
  s.run fun d => d.trigger m 0x14208 (some (.MIL_STATUS_BUSY, 0)) fun d => gainWrite d m v.toNat

/-- The pending parameters of joint `j` are good (R253, R260); `v` reads a field as it would stand after the commit. -/
def millParamsOk (d : Dev) (v : RegField → Nat) : Bool :=
  let fp := fun (f : RegField) => f64OfBits32 (v f)
  let fs := [RegField.MIL_J_KVF_V, .MIL_J_KAF_V, .MIL_J_KV_V, .MIL_J_KI_V]
  fs.all (fun f => finite32 (v f)) && f64Le f64Zero (fp .MIL_J_KV_V) && f64Le f64Zero (fp .MIL_J_KI_V) && f64Le f64Zero (fp .MIL_J_KAF_V) &&
    f64Le f64Zero (fp .MIL_J_KVF_V) && f64Le (fp .MIL_J_KVF_V) (f64Frac 3 2) &&
    decide ((signedOf 32 (v .MIL_J_UOFF_U)).natAbs ≤ v .MIL_J_UMAX_U) && decide (1 ≤ v .MIL_J_UMAX_U ∧ 1 ≤ v .MIL_J_DUMAX_DU) &&
    decide (20 ≤ v .MIL_J_OBS_F_OBS ∧ v .MIL_J_OBS_F_OBS ≤ maxObs d.periodUnits)

/-- PARAM_REJECT of joint `j` (R253, R260). -/
def paramReject (d : Dev) (j : Nat) : Dev := (d.flag .MIL_J_STAT_PARAM_REJECT j).event .MIL_PARAM_REJECT srcLoop j

/-- A new BANK of joint `j` applies (R257): a valid bank is in force from now on; the field keeps the old one otherwise. -/
def switchBank (d : Dev) (j b : Nat) : Dev :=
  if bankGood d j b then onMj (d.wr .MIL_J_CTRL_BANK j b) j fun x => { x with bank := b }
  else (d.flag .MIL_J_STAT_TBL_REJECT j).event .MIL_TBL_REJECT srcLoop j

/-- A change of the frame period (R253, R268): slots restart as at reset, and F_OBS is limited. -/
def millPeriod (d : Dev) : Dev :=
  let d := d.each (List.range 128) fun d j =>
    let d := (d.wr .MIL_J_STAT_MISS_RUN j 0).wr .MIL_J_STAT_COAST j 0
    let top := maxObs d.periodUnits
    if top < d.rd .MIL_J_OBS_F_OBS j then paramReject (d.wr .MIL_J_OBS_F_OBS j top) j else d
  let d := d.each (List.range 20) fun d k => d.wr .MIL_SLOT_STAT_MISS_RUN k 0
  onMil d fun m =>
    { m with joints := m.joints.filterMap fun p =>
               let x : MilJoint := { r := p.2.r, y := p.2.y, bank := p.2.bank, obs := obsAt p.2.y, started := p.2.started }
               if x = {} then none else some (p.1, x)
             slots := m.slots.filterMap fun p =>
               let x : MilSlot := { r := p.2.r, target := p.2.target }
               if x = {} then none else some (p.1, x)
             ckpt := [] }

/-- FB_PRESET: a write of FBK_k_CTRL.PRESET (R353). -/
def execFbPreset (m : Master) (k : Fin 16) (s : State) : Host.Outcome State Fault Refusal :=
  s.run fun d => d.trigger m (0x1803C + 256 * k) (some (.FBK_STAT_BUSY, k)) fun d => fbPreset d m k (portUsed d k)

end Sys2Proof.Machine
end

