-- ==== Sys2Proof/Machine/Operands.lean ====
section
/-!
DEFINITION. The operand forms of a register access: the fields of a word (R445), the words of an access (R446), the pairs of Table 15-4,
the word and bit of the alias window (R460), and a written word laid over a field.
-/
namespace Sys2Proof.Machine

/-! The fields of a word (R445). -/

/-- The element of an array of strides and counts `dims`, outermost first, that lies `off` bytes from its base. -/
def elementAt : List (Nat × Nat) → Nat → Option Nat
  | [], off => if off = 0 then some 0 else none
  | p :: ds, off =>
    if off / p.1 < p.2 then (elementAt ds (off % p.1)).map fun i => off / p.1 * ds.foldl (fun n q => n * q.2) 1 + i else none

/-- The element of field `f` in the word at `addr`. -/
def RegField.at (f : RegField) (addr : Nat) : Option Nat :=
  if f.desc.base ≤ addr then elementAt f.desc.dims (addr - f.desc.base) else none

/-- The fields of the word at `addr`: none where it is unassigned (R10). -/
def wordFields (addr : Nat) : List (RegField × Nat) := allFields.filterMap fun f => (f.at addr).map fun i => (f, i)

/-- The places of a field's bits within its word. -/
def RegField.mask (f : RegField) : Nat := (2 ^ f.width - 1) * 2 ^ f.desc.lo

/-- An access of `width` bits at `addr` is one R446 serves. -/
def accessOk (addr width : Nat) : Bool := decide ((width = 32 ∧ addr % 4 = 0) ∨ (width = 64 ∧ addr % 8 = 0))

/-- The words of an access that R446 serves, lower word first. -/
def accessWords (addr width : Nat) : List Nat := if width = 64 then [addr, addr + 4] else [addr]

/-! Pairs (R457, Table 15-4). -/

/-- The words of pair `p`: LO and HI of joint `p`, or of local axis `p - 128`. -/
def pairFields (p : Nat) : RegField × RegField × Nat :=
  if p < 128 then (.PLN_VLIM_LO_CNT, .PLN_VLIM_HI_CNT, p) else (.STP_VLIM_LO_STEPS, .STP_VLIM_HI_STEPS, p - 128)

/-- Byte address of the first word of pair `p`. -/
def pairAddr (p : Nat) : Nat := if p < 128 then 0x11000 + 8 * p else 0x19018 + 128 * (p - 128)

/-- The pair and which of its words a field is: `true` the completing word. -/
def pairOfField (f : RegField) (i : Nat) : Option (Nat × Bool) :=
  match f with
  | .PLN_VLIM_LO_CNT => some (i, false)
  | .PLN_VLIM_HI_CNT => some (i, true)
  | .STP_VLIM_LO_STEPS => some (128 + i, false)
  | .STP_VLIM_HI_STEPS => some (128 + i, true)
  | _ => none

/-- The bits `mask` of the word, `value`, laid over a field's value. -/
def laidIn (f : RegField) (old mask value : Nat) : Nat :=
  let m := mask / 2 ^ f.desc.lo % 2 ^ f.width
  (old &&& ((2 ^ f.width - 1) ^^^ m)) ||| (value / 2 ^ f.desc.lo % 2 ^ f.width &&& m)

/-- The word an alias word lies in. -/
def aliasWord (offset : Nat) : Nat := offset / 4 / 32 * 4

/-- The bit of its word that an alias word serves. -/
def aliasBit (offset : Nat) : Nat := offset / 4 % 32

end Sys2Proof.Machine
end

