-- ==== Sys2Proof/Machine/Reeve.lean ====
section
/-!
DEFINITION. The task scheduler (R399 to R419): tasks, work items, ready lists and slots, flows, delay lists, cancels and completions.
-/
namespace Sys2Proof.Machine

/-- Change the scheduler. -/
def onRve (d : Dev) (f : RveState → RveState) : Dev := { d with rve := f d.rve }

/-- Task `t`. -/
def taskOf (d : Dev) (t : Nat) : RveTask := SMap.get {} d.rve.tasks t

/-- Change task `t`; QUEUE.ITEMS shows its FIFO. -/
def onTask (d : Dev) (t : Nat) (f : RveTask → RveTask) : Dev :=
  let d := onRve d fun x => { x with tasks := SMap.modify {} x.tasks t f }
  d.wr .RVE_TASK_QUEUE_ITEMS t (taskOf d t).fifo.length

/-- Task states as Table 13-1 codes them. -/
inductive TaskState where
  | free | idle | ready | slotted | running | waiting | sleeping
  deriving DecidableEq, Repr

/-- Code of a task state. -/
def taskCode : TaskState → Nat
  | .free => 0
  | .idle => 1
  | .ready => 2
  | .slotted => 3
  | .running => 4
  | .waiting => 5
  | .sleeping => 6

/-- Task `t` is in a state. -/
def inState (d : Dev) (t : Nat) (x : TaskState) : Bool := decide (d.rd .RVE_TASK_STAT_STATE t = taskCode x)

/-- Enter a state. -/
def setState (d : Dev) (t : Nat) (x : TaskState) : Dev := d.wr .RVE_TASK_STAT_STATE t (taskCode x)

/-- Item `i`. -/
def itemOf (d : Dev) (i : Nat) : Option RveItem := SMap.get none d.rve.items i

/-- Change item `i`. -/
def onItem (d : Dev) (i : Nat) (f : RveItem → RveItem) : Dev :=
  onRve d fun x => { x with items := SMap.modify none x.items i fun o => o.map f }

/-- Core `c`. -/
def coreOf (d : Dev) (c : Nat) : RveCore := SMap.get {} d.rve.cores c

/-- Change core `c`; RVE_COREc.SLOTS shows its slots. -/
def onCore (d : Dev) (c : Nat) (f : RveCore → RveCore) : Dev :=
  let d := onRve d fun x => { x with cores := SMap.modify {} x.cores c f }
  d.wr .RVE_CORE_SLOTS c (coreOf d c).slots.length

/-- Ready list of a priority, oldest first. -/
def readyList (d : Dev) (p : Nat) : List Nat := SMap.get [] d.rve.ready p

/-- Replace it. -/
def setReady (d : Dev) (p : Nat) (l : List Nat) : Dev := onRve d fun x => { x with ready := SMap.set [] x.ready p l }

/-- Task `t` becomes ready for a reason, at the tail of its list. -/
def makeReady (d : Dev) (t : Nat) (r : WakeReason) : Dev :=
  let p := d.rd .RVE_TASK_STAT_PRIO t
  let d := onTask (setState d t .ready) t fun x => { x with reason := r }
  setReady d p (readyList d p ++ [t])

/-- Task `t` leaves its ready list. -/
def leaveReady (d : Dev) (t : Nat) : Dev :=
  let p := d.rd .RVE_TASK_STAT_PRIO t
  setReady d p ((readyList d p).filter fun u => decide (u ≠ t))

/-- Task `t` loses its delay entries. -/
def dropDelays (d : Dev) (t : Nat) : Dev :=
  onRve d fun x =>
    { x with
      sleep := x.sleep.filter fun e => decide (e.task ≠ t), timeout := x.timeout.filter fun e => decide (e.task ≠ t) }

/-! The pool (R400, R418). -/

/-- Entries of a share in use. -/
def shareUsed (d : Dev) (s : Nat) : Nat :=
  (d.rve.items.filter fun e => match e.2 with
    | some i => decide (i.share = s)
    | none => false).length

/-- Entries of a share: common, lane reserve, host reserve. -/
def shareSize : Nat → Nat
  | 0 => 1856
  | 1 => 64
  | _ => 128

/-- The share from which a source takes an entry now. -/
def takeShare (d : Dev) (src : RveSource) : Option Nat :=
  let first : Nat := match src with
    | .lane _ => 1
    | .host => 2
    | _ => 0
  if shareUsed d first < shareSize first then some first
  else if shareUsed d 0 < shareSize 0 then some 0 else none

/-- Show the pool. -/
def showPool (d : Dev) : Dev :=
  let used := shareUsed d 0 + shareUsed d 1 + shareUsed d 2
  (d.put .RVE_CNT_FREE_ITEMS (2048 - used)).put .RVE_STATUS_POOL_LOW (bitOf (decide (1856 < shareUsed d 0 + 64)))

/-! Flows (R409, R410). -/

/-- FSEQ - REL of an item of flow `f`. -/
def flowAhead (d : Dev) (f fseq : Nat) : Nat := (fseq + 2 ^ 16 - d.rd .RVE_FLOW_STAT_REL f) % 2 ^ 16

/-- The item is of flow `f`. -/
def ofFlow (f : Nat) (i : RveItem) : Bool := match i.req.flow with
  | some g => decide (g.val = f)
  | none => false

/-- Items of flow `f` that satisfy `p`. -/
def flowItems (d : Dev) (f : Nat) (p : RveItem → Bool) : List Nat :=
  (d.rve.items.filter fun e => match e.2 with
    | some i => ofFlow f i && p i
    | none => false).map Prod.fst

/-- Show the counts of a flow: items HELD, and items that the limit of 32 keeps queued. -/
def showFlow (d : Dev) (f : Nat) : Dev :=
  let blocked := if d.on .RVE_FLOW_CFG_MODE f then 0
    else (flowItems d f fun i => decide (i.state = .queued ∧ 32 ≤ flowAhead d f i.fseq)).length
  (d.wrSat .RVE_FLOW_STAT_HELD f (flowItems d f fun i => decide (i.state = .held)).length).wrSat .RVE_FLOW_STAT_BLOCKED f blocked

/-- An item may enter a slot: within 32 of REL in an ORDERED flow; in a SERIAL one the oldest item, alone (R409). An item cancelled while it was
queued is HELD beside it, since the flow would else never go on (DESIGN CHOICE, log 122). -/
def itemEligible (d : Dev) (i : Nat) : Bool :=
  match itemOf d i with
  | none => false
  | some x => match x.req.flow with
    | none => true
    | some f =>
      if d.on .RVE_FLOW_CFG_MODE f then
        decide (flowAhead d f x.fseq = 0 ∧ flowItems d f (fun y => decide (y.state = .slotted ∨ y.state = .running)) = [])
      else decide (flowAhead d f x.fseq < 32)

/-! Arrival, and completion (R410, R416). -/

/-- A work item that has entered the pool is queued: it wakes an IDLE or WAITING task. -/
def wakeByItem (d : Dev) (t : Nat) : Dev :=
  if inState d t .idle then makeReady d t .item
  else if inState d t .waiting then makeReady (dropDelays d t) t .item
  else d

/-- Put a request into pool entry `i` of a share. -/
def putItem (d : Dev) (i share : Nat) (q : RveRequest) : Dev :=
  let t := q.task.val
  let fseq := match q.flow with
    | some f => d.rd .RVE_FLOW_CFG_NEXT f
    | none => 0
  let d := match q.flow with
    | some f => d.incWrap .RVE_FLOW_CFG_NEXT f
    | none => d
  let d := onRve d fun x => { x with items := SMap.set none x.items i (some { req := q, share := share, fseq := fseq }) }
  let d := onTask d t fun x => { x with fifo := x.fifo ++ [i] }
  let d := match q.flow with
    | some f => showFlow d f
    | none => d
  wakeByItem (showPool d) t

/-- A freed entry serves a lane's override (R418). -/
def serveOverride (d : Dev) (i : Nat) : Dev :=
  match Lane.all.find? fun l => (d.rve.laneOvr.get l).isSome with
  | none => d
  | some l =>
    match d.rve.laneOvr.get l, takeShare d (.lane l) with
    | some q, some s =>
      let d := onRve d fun x => { x with laneOvr := x.laneOvr.set l none }
      if inState d q.task .free then d else putItem d i s q
    | _, _ => d

/-- Release item `i`: its completion is written to its target and its entry returns to the pool. -/
def releaseItem (d : Dev) (i : Nat) : Dev :=
  match itemOf d i with
  | none => d
  | some x =>
    let flow := match x.req.flow with
      | some f => f.val
      | none => 0xFF
    let r : RveCompletion :=
      { item := i, task := x.req.task, flow := flow, fseq := x.fseq, status := x.status
        flags := bitOf x.cancelReq + 2 * bitOf x.displaced, tag := x.req.tag.toNat
        result := if x.status = 0 ∨ x.status = 2 then x.result else 0 }
    let d := if x.req.target = .nothing then d else d.emit (.rveCompletion x.req.target r)
    let d := onRve d fun y => { y with items := SMap.set none y.items i none }
    let d := match x.req.flow with
      | some f => showFlow (d.incWrap .RVE_FLOW_STAT_REL f) f
      | none => d
    serveOverride (showPool d) i

/-- Item `i` ends with a status: released at once without a flow or as the oldest of its flow, held otherwise (R410). -/
def endItem (d : Dev) (i status result : Nat) : Dev :=
  match itemOf d i with
  | none => d
  | some x =>
    let d := onItem d i fun y => { y with state := .held, status := status, result := result }
    match x.req.flow with
    | none => releaseItem d i
    | some f => if flowAhead d f x.fseq = 0 then releaseItem d i else showFlow d f

/-- FLOW_RELEASE: flow `f` releases its next item, if that item has ended. -/
def execFlowRelease (f : Fin 64) (s : State) : Host.Outcome State Fault Refusal :=
  s.run fun d =>
    match flowItems d f (fun i => decide (i.state = .held ∧ flowAhead d f i.fseq = 0)) with
    | [] => d
    | i :: _ => releaseItem d i

/-! Enqueueing. -/

/-- Answer the issuer of an operation. -/
def answer (d : Dev) (c : Option Nat) (r : RveResult) : Dev :=
  let req := match c with
    | some c => match (coreOf d c).run with
      | some p => d.on .RVE_TASK_STAT_CANCEL_REQ p.1
      | none => false
    | none => false
  d.emit (.reeve c r req)

/-- The core that a source answers to. -/
def sourceCore : RveSource → Option Nat
  | .core c => some c.val
  | _ => none

/-- A request from a source takes pool entry `i` (R400, R409); no limit blocks a lane while the lane reserve holds entries (R418). -/
def enqueue (d : Dev) (src : RveSource) (q : RveRequest) (i : Nat) : Dev :=
  let reply := fun (d : Dev) r => match src with
    | .core c => answer d (some c.val) r
    | .host => answer d none r
    | _ => d
  let full : Bool := match q.flow with
    | some f => decide (1024 ≤ flowAhead d f (d.rd .RVE_FLOW_CFG_NEXT f) + 1)
    | none => false
  let laneFree : Bool := match src with
    | .lane _ => decide (shareUsed d 1 < shareSize 1)
    | _ => false
  if inState d q.task .free then reply d .noTask
  else if full ∧ !laneFree then reply d .flowFull
  else
    match takeShare d src with
    | some s => if (itemOf d i).isSome then d else reply (putItem d i s q) (.enqueued i)
    | none =>
      match src with
      | .lane l => (onRve d fun x => { x with laneOvr := x.laneOvr.set l (some q) }).flag .RVE_STATUS_LANE_OVF
      | .eth _ => d.inc .RVE_CNT_ETH_DROP
      | _ => reply (d.inc .RVE_CNT_POOL_EMPTY) .poolEmpty

/-- ENQUEUE: `i` is the pool entry it takes. -/
def execEnqueue (src : RveSource) (q : RveRequest) (i : Fin 2048) (s : State) : Host.Outcome State Fault Refusal :=
  s.run fun d => enqueue d src q i

/-- MAINTENANCE_PACKET_RECEIVED: a packet of an Ethernet port becomes a work item, or is dropped and counted (R400, R418). -/
def execMaintenancePacketReceived (port : Fin 2) (q : RveRequest) (i : Fin 2048) (s : State) : Host.Outcome State Fault Refusal :=
  s.run fun d => enqueue d (.eth port) q i

/-! Slots (R405 to R407). -/

/-- Cores that task `t` may run on. -/
def coresFor (d : Dev) (t : Nat) : List Nat := (List.range 4).filter fun c => bit (d.rd .RVE_TASK_STAT_AFFINITY t) c

/-- A ready task has work that may enter a slot now. -/
def taskEligible (d : Dev) (t : Nat) : Bool :=
  let x := taskOf d t
  match x.item, x.fifo with
  | none, i :: _ => itemEligible d i || decide (x.reason ≠ .item ∧ x.reason ≠ .first)
  | _, _ => true

/-- The core with the fewest filled slots among those with a free one; the lowest-numbered of equals. -/
def roomiest (d : Dev) (cs : List Nat) : Option Nat :=
  (cs.filter fun c => decide ((coreOf d c).slots.length < 8)).foldl (fun best c => match best with
    | none => some c
    | some b => if (coreOf d c).slots.length < (coreOf d b).slots.length then some c else some b) none

/-- The lowest priority (greatest number) among the slots of core `c`. -/
def lowestPrio (d : Dev) (c : Nat) : Nat := ((coreOf d c).slots.map fun t => d.rd .RVE_TASK_STAT_PRIO t).foldl max 0

/-- The core from which task `t` displaces an entry: its priority is above the lowest of every eligible core (R406). -/
def displaceFrom (d : Dev) (t : Nat) (cs : List Nat) : Option Nat :=
  if cs.all fun c => decide (d.rd .RVE_TASK_STAT_PRIO t < lowestPrio d c) then
    cs.foldl (fun best c => match best with
      | none => some c
      | some b => if lowestPrio d b < lowestPrio d c then some c else some b) none
  else none

/-- Put task `t` into a slot of core `c`, with the item it will run. -/
def fillSlot (d : Dev) (t c : Nat) : Dev :=
  let d := setState (leaveReady d t) t .slotted
  let x := taskOf d t
  let d := match x.item, x.fifo with
    | none, i :: rest =>
      if itemEligible d i then
        let flow := (itemOf d i).bind fun y => y.req.flow
        let d := onItem (onTask d t fun y => { y with item := some i, fifo := rest }) i fun y => { y with state := .slotted }
        match flow with
        | some f => showFlow d f
        | none => d
      else d
    | _, _ => d
  onCore d c fun y => { y with slots := y.slots ++ [t] }

/-- A displaced task's item: a slotted one goes back to the head of the task's FIFO, one in progress stays with its task. -/
def unslotItem (d : Dev) (t : Nat) : Dev :=
  match (taskOf d t).item with
  | none => d
  | some i =>
    match itemOf d i with
    | some x => if x.state = .slotted then
        onItem (onTask d t fun y => { y with item := none, fifo := i :: y.fifo }) i fun y =>
          { y with state := .queued, displaced := true }
      else onItem d i fun y => { y with displaced := true }
    | none => d

/-- Empty the slot that task `t` holds. -/
def emptySlot (d : Dev) (t : Nat) : Dev :=
  d.each (List.range 4) fun d c =>
    if (coreOf d c).slots.contains t then onCore d c fun y => { y with slots := y.slots.filter fun u => decide (u ≠ t) } else d

/-- Displace the lowest-priority entry of core `c` that was filled last; its task returns to the head of its ready list. -/
def displace (d : Dev) (c : Nat) : Dev :=
  let p := lowestPrio d c
  match ((coreOf d c).slots.filter fun t => decide (d.rd .RVE_TASK_STAT_PRIO t = p)).getLast? with
  | none => d
  | some t =>
    let d := setState (unslotItem (emptySlot d t) t) t .ready
    (setReady d p (t :: readyList d p)).inc .RVE_CORE_DISPLACED c

/-- Place ready task `t` if a core takes it. -/
def placeTask (d : Dev) (t : Nat) : Option Dev :=
  let cs := coresFor d t
  if !taskEligible d t ∨ cs = [] then none
  else
    match roomiest d cs with
    | some c => some (fillSlot d t c)
    | none =>
      match displaceFrom d t cs with
      | some c => some (fillSlot (displace d c) t c)
      | none => none

/-- The ready tasks, highest priority and oldest first. -/
def readyOrder (d : Dev) : List Nat := (List.range 8).flatMap (readyList d)

/-- SLOT_PREFETCH: the first ready task in order that a core takes enters a slot (R405, R406). -/
def execSlotPrefetch (s : State) : Host.Outcome State Fault Refusal :=
  s.run fun d => ((readyOrder d).findSome? (placeTask d)).getD d

/-! Runs (R402 to R408). -/

/-- The slot that TAKE starts: highest priority, first filled. -/
def bestSlot (d : Dev) (c : Nat) : Option Nat :=
  (coreOf d c).slots.foldl (fun best t => match best with
    | none => some t
    | some b => if d.rd .RVE_TASK_STAT_PRIO t < d.rd .RVE_TASK_STAT_PRIO b then some t else some b) none

/-- TAKE. -/
def execTake (c : Fin 4) (s : State) : Host.Outcome State Fault Refusal :=
  s.run fun d =>
    if (coreOf d c).run.isSome then d
    else
      match bestSlot d c with
      | none => answer d (some c.val) .empty
      | some t =>
        let x := taskOf d t
        let reason := if x.started then x.reason else .first
        let d := onTask (setState (emptySlot d t) t .running) t fun y => { y with started := true }
        let d := if x.reason = .signal then d.wr .RVE_TASK_STAT_SIGNAL t 0 else d
        let d := match x.item with
          | some i => onItem d i fun y => { y with state := .running }
          | none => d
        let d := ((d.incWrap .RVE_TASK_QUEUE_RUNS t).wr .RVE_CORE_TASK c t).wr .RVE_CORE_RUNNING c 1
        let d := (onCore d c fun y => { y with run := some (t, d.tb.ext), overlong := false }).wr .RVE_CORE_RUN_CLK c 0
        answer d (some c.val) (.taken t x.item reason)

/-- Clocks of the run of core `c` at 600 MHz. -/
def runClocks (d : Dev) (c : Nat) : Nat :=
  match (coreOf d c).run with
  | some p => ((d.tb.ext - p.2) * 3 / 5).toNat
  | none => d.rd .RVE_CORE_RUN_CLK c

/-- The run of core `c` ends. -/
def endRunOf (d : Dev) (c t : Nat) : Dev :=
  let d := (d.wrSat .RVE_CORE_RUN_CLK c (runClocks d c)).wr .RVE_CORE_RUNNING c 0
  (onCore d c fun y => { y with run := none }).wr .RVE_TASK_STAT_CANCEL_REQ t 0

/-- Task `t` is deleted (R417). -/
def deleteTask (d : Dev) (t : Nat) : Dev :=
  let x := taskOf d t
  let waits := inState d t .waiting && d.rve.timeout.any fun e => decide (e.task = t)
  let d := setState (leaveReady (emptySlot (dropDelays d t) t) t) t .free
  let d := match x.item with
    | some i => endItem d i (if waits then 3 else 4) 0
    | none => d
  let d := d.each x.fifo fun d i => endItem d i 4 0
  let d := onTask d t fun _ => {}
  let d := ((d.wr .RVE_TASK_STAT_KIND t 0).wr .RVE_TASK_STAT_PRIO t 0).wr .RVE_TASK_STAT_AFFINITY t 0
  let d := ((d.wr .RVE_TASK_STAT_SIGNAL t 0).wr .RVE_TASK_STAT_CANCEL_REQ t 0).wr .RVE_TASK_STAT_FLOW t 0xFF
  (d.wr .RVE_TASK_QUEUE_RUNS t 0).put .RVE_CNT_TASKS (d.rd .RVE_CNT_TASKS - 1)

/-- A task leaves RUNNING: a DELETE that waited takes effect, else it goes where `f` says. -/
def leaveRunning (d : Dev) (c t : Nat) (f : Dev → Dev) : Dev :=
  let d := endRunOf d c t
  if (taskOf d t).deleteDue then deleteTask d t else f d

/-- Run `f` on the task that core `c` runs. -/
def whenRunning (d : Dev) (c : Nat) (f : Dev → Nat → Dev) : Dev :=
  match (coreOf d c).run with
  | some p => f d p.1
  | none => d

/-- DONE: STATUS success or failure, and RESULT. -/
def execDone (c : Fin 4) (success : Bool) (result : BitVec 32) (s : State) : Host.Outcome State Fault Refusal :=
  s.run fun d => whenRunning d c fun d t =>
    let d := answer d (some c.val) .ok
    let d := match (taskOf d t).item with
      | some i =>
        let d := onItem d i fun y => { y with cancelReq := d.on .RVE_TASK_STAT_CANCEL_REQ t }
        endItem (onTask d t fun y => { y with item := none }) i (if success then 0 else 2) result.toNat
      | none => d
    leaveRunning d c t fun d =>
      if (taskOf d t).fifo ≠ [] then makeReady d t .item
      else if d.on .RVE_TASK_STAT_SIGNAL t then makeReady d t .signal
      else setState d t .idle

/-- YIELD. -/
def execYield (c : Fin 4) (s : State) : Host.Outcome State Fault Refusal :=
  s.run fun d => whenRunning d c fun d t =>
    leaveRunning (answer d (some c.val) .ok) c t fun d => makeReady d t .yielded

/-- Insert an entry into a delay list, sorted by expiry as a signed 32-bit difference to frame `now`, then by insertion. -/
def insertDelay (now : Nat) (e : DelayEntry) : List DelayEntry → List DelayEntry
  | [] => [e]
  | x :: xs =>
    if signedOf 32 (fieldOf 32 ((e.expiry : Int) - now)) < signedOf 32 (fieldOf 32 ((x.expiry : Int) - now)) then e :: x :: xs
    else x :: insertDelay now e xs

/-- WAIT: a pending signal or a queued item returns at once; else the THREAD waits (R403, R412). -/
def execWait (c : Fin 4) (timeout : BitVec 16) (s : State) : Host.Outcome State Fault Refusal :=
  s.run fun d => whenRunning d c fun d t =>
    if d.rd .RVE_TASK_STAT_KIND t = 0 then d
    else if d.on .RVE_TASK_STAT_SIGNAL t then answer (d.wr .RVE_TASK_STAT_SIGNAL t 0) (some c.val) .signal
    else if (taskOf d t).fifo ≠ [] then answer d (some c.val) .item
    else
      leaveRunning (answer d (some c.val) .ok) c t fun d =>
        let d := setState d t .waiting
        if timeout = 0 then d
        else onRve d fun x =>
          { x with
            timeout := insertDelay d.frameNo ⟨(d.frameNo + timeout.toNat) % 2 ^ 32, x.order, t⟩ x.timeout, order := x.order + 1 }

/-- SLEEP: enters the sleep list; an expiry not later than the present frame makes the task ready at once (R412). -/
def execSleep (c : Fin 4) (arg : SleepArg) (s : State) : Host.Outcome State Fault Refusal :=
  s.run fun d => whenRunning d c fun d t =>
    let ahead : Int := match arg with
      | .frames n => n
      | .until f => signedOf 32 (fieldOf 32 ((f.toNat : Int) - d.frameNo))
    let bad : Bool := match arg with
      | .frames n => decide (n = 0 ∨ 2 ^ 31 ≤ n)
      | .until _ => decide (ahead = -2147483648)
    if d.rd .RVE_TASK_STAT_KIND t = 0 then d
    else if bad then answer d (some c.val) .range
    else
      leaveRunning (answer d (some c.val) .ok) c t fun d =>
        if ahead ≤ 0 then makeReady d t .sleepEnd
        else onRve (setState d t .sleeping) fun x =>
          { x with sleep := insertDelay d.frameNo ⟨fieldOf 32 (d.frameNo + ahead), x.order, t⟩ x.sleep, order := x.order + 1 }

/-- SIGNAL: the pending signal of task `t` is set; it wakes an IDLE or WAITING task. -/
def execSignal (c : Fin 4) (t : Fin 256) (s : State) : Host.Outcome State Fault Refusal :=
  s.run fun d =>
    if inState d t .free then answer d (some c.val) .noTask
    else
      let d := answer (d.wr .RVE_TASK_STAT_SIGNAL t 1) (some c.val) .ok
      if inState d t .idle then makeReady d t .signal
      else if inState d t .waiting then makeReady (dropDelays d t) t .signal
      else d

/-- CREATE: task `t` with its attributes (R399, R418). -/
def execCreate (c : Fin 4) (t : Fin 256) (thread : Bool) (prio : Fin 8) (affinity : BitVec 4) (flow : Option (Fin 64))
    (s : State) : Host.Outcome State Fault Refusal :=
  s.run fun d =>
    if d.rd .PWR_STATUS_SHARED_UP = 0 then d
    else if 256 ≤ d.rd .RVE_CNT_TASKS then answer (d.flag .RVE_STATUS_NO_TASK) (some c.val) .noTask
    else if inState d t .free then
      let d := ((setState d t .idle).wr .RVE_TASK_STAT_KIND t (bitOf thread)).wr .RVE_TASK_STAT_PRIO t prio
      let d := (d.wr .RVE_TASK_STAT_AFFINITY t affinity.toNat).wr .RVE_TASK_STAT_FLOW t (match flow with
        | some f => f.val
        | none => 0xFF)
      answer (d.put .RVE_CNT_TASKS (d.rd .RVE_CNT_TASKS + 1)) (some c.val) .ok
    else answer d (some c.val) .busy

/-- DELETE: a RUNNING task is deleted when it leaves RUNNING. -/
def execDelete (c : Fin 4) (t : Fin 256) (s : State) : Host.Outcome State Fault Refusal :=
  s.run fun d =>
    if inState d t .free then answer d (some c.val) .noTask
    else if inState d t .running then answer (onTask d t fun x => { x with deleteDue := true }) (some c.val) .ok
    else answer (deleteTask d t) (some c.val) .ok

/-! Cancels (R414, R415). -/

/-- Cancel item `i`, by its state. -/
def cancelItem (d : Dev) (i : Nat) : Dev × RveResult :=
  match itemOf d i with
  | none => (d, .notFound)
  | some x =>
    let t := x.req.task.val
    match x.state with
    | .held => (d, .notFound)
    | .queued => (endItem (onTask d t fun y => { y with fifo := y.fifo.filter fun j => decide (j ≠ i) }) i 1 0, .cancelled)
    | .slotted =>
      let d := onTask (emptySlot d t) t fun y => { y with item := none }
      let d := if (taskOf d t).fifo ≠ [] then makeReady d t .item
        else if d.on .RVE_TASK_STAT_SIGNAL t then makeReady d t .signal
        else setState d t .idle
      (endItem d i 1 0, .cancelled)
    | .running =>
      if inState d t .waiting then (endItem (onTask d t fun y => { y with item := none }) i 1 0, .cancelled)
      else (d.wr .RVE_TASK_STAT_CANCEL_REQ t 1, .inProgress)

/-- RVE_CANCEL: by a Planner core, or by the host interface. -/
def execRveCancel (c : Option (Fin 4)) (i : Fin 2048) (s : State) : Host.Outcome State Fault Refusal :=
  s.run fun d =>
    let (d, r) := cancelItem d i
    answer d (c.map Fin.val) r

/-! Delay lists (R411 to R413). -/

/-- The entry has expired at frame `now`. -/
def expired (now : Nat) (e : DelayEntry) : Bool := decide (signedOf 32 (fieldOf 32 ((e.expiry : Int) - now)) ≤ 0)

/-- Merge two lists of (entry, reason) in order of expiry, then of insertion. -/
def mergeDelays (now : Nat) : Nat → List DelayEntry → List DelayEntry → List (Nat × WakeReason)
  | 0, _, _ => []
  | _ + 1, [], ts => ts.map fun e => (e.task, .timeout)
  | _ + 1, ss, [] => ss.map fun e => (e.task, .sleepEnd)
  | k + 1, s :: ss, t :: ts =>
    let a := signedOf 32 (fieldOf 32 ((s.expiry : Int) - now))
    let b := signedOf 32 (fieldOf 32 ((t.expiry : Int) - now))
    if a < b ∨ (a = b ∧ s.order < t.order) then (s.task, .sleepEnd) :: mergeDelays now k ss (t :: ts)
    else (t.task, .timeout) :: mergeDelays now k (s :: ss) ts

/-- DELAY_EXPIRY: every expired entry makes its task ready. -/
def execDelayExpiry (s : State) : Host.Outcome State Fault Refusal :=
  s.run fun d =>
    let now := d.frameNo
    let ss := d.rve.sleep.filter (expired now)
    let ts := d.rve.timeout.filter (expired now)
    let d := onRve d fun x =>
      { x with sleep := x.sleep.filter fun e => !expired now e, timeout := x.timeout.filter fun e => !expired now e }
    d.each (mergeDelays now 513 ss ts) fun d p => makeReady d p.1 p.2

/-- A change of the frame period: remaining frames are multiplied by old T_F / new T_F and rounded up (R413). `now` is the frame of
the first new tick. -/
def rescaleDelays (d : Dev) (now old new : Nat) : Dev :=
  let f := fun (e : DelayEntry) =>
    { e with expiry := (now + ceilDiv ((signedOf 32 (fieldOf 32 ((e.expiry : Int) - now))).toNat * old) new) % 2 ^ 32 }
  onRve d fun x => { x with sleep := x.sleep.map f, timeout := x.timeout.map f }

/-- RVE_OVERLONG: the run of core `c` lasts longer than RUN_MAX_US (R408); once per run. -/
def execRveOverlong (c : Fin 4) (s : State) : Host.Outcome State Fault Refusal :=
  s.run fun d =>
    match (coreOf d c).run with
    | none => d
    | some p =>
      if (coreOf d c).overlong then d
      else
        let due := p.2 + 1000 * d.rd .RVE_CFG_RUN_MAX_US
        let d := { d with tb := { d.tb with ext := max d.tb.ext due } }
        let d := ((d.flag .RVE_STATUS_OVERLONG).inc .RVE_CORE_OVERLONG_CNT c).wr .RVE_CORE_TASK c p.1
        (onCore d c fun y => { y with overlong := true }).event .RVE_OVERLONG srcScheduler p.1

end Sys2Proof.Machine
end

