-- ==== Sys2Proof/Machine/SmithyCode.lean ====
section
/-!
DEFINITION. The encoding of signal processor instructions (R390, Table 12-4): one 32-bit word, opcode in bits [31:26]. A word with an
opcode not in the table, with an unassigned bit set, or with address mode 7 is no instruction. Words are numbers below 2^32.
-/
namespace Sys2Proof.Machine

/-- An instruction word from its opcode and its fields at their places. -/
def smyWord (op : Nat) (fields : Nat) : Nat := op * 2 ^ 26 + fields

/-- S at bit 25 and A at bit 24. -/
def fieldSA (s a : Bool) : Nat := bitOf s * 2 ^ 25 + bitOf a * 2 ^ 24

/-- MS at bit 7 and the address in the X field or the Y field as it says; the other field is unassigned. -/
def fieldMem (ms : Bool) (ad : BitVec 5) : Nat := if ms then ad.toNat * 2 ^ 14 + 2 ^ 7 else ad.toNat * 2 ^ 19

/-- The word of an instruction. -/
def smyEncode : SmyInstr → Nat
  | .nop => smyWord 0x00 0
  | .mac s a xa ya => smyWord 0x01 (fieldSA s a + xa.toNat * 2 ^ 19 + ya.toNat * 2 ^ 14)
  | .msu s a xa ya => smyWord 0x02 (fieldSA s a + xa.toNat * 2 ^ 19 + ya.toNat * 2 ^ 14)
  | .mpy s a xa ya => smyWord 0x03 (fieldSA s a + xa.toNat * 2 ^ 19 + ya.toNat * 2 ^ 14)
  | .macd s a xa dm => smyWord 0x04 (fieldSA s a + xa.toNat * 2 ^ 19 + dm.toNat * 2 ^ 8)
  | .lda a ms ad => smyWord 0x05 (fieldSA false a + fieldMem ms ad)
  | .ada s a ms ad => smyWord 0x06 (fieldSA s a + fieldMem ms ad)
  | .sta s a ms rnd ad => smyWord 0x07 (fieldSA s a + fieldMem ms ad + bitOf rnd * 2 ^ 6)
  | .ldd dd ms ad => smyWord 0x08 (fieldMem ms ad + dd.toNat * 2 ^ 11)
  | .std dd ms ad => smyWord 0x09 (fieldMem ms ad + dd.toNat * 2 ^ 11)
  | .ldi dd imm => smyWord 0x0A (dd.toNat * 2 ^ 16 + imm.toNat)
  | .sha s a sh => smyWord 0x0B (fieldSA s a + sh.toNat)
  | .mvad s a dd rnd => smyWord 0x0C (fieldSA s a + dd.toNat * 2 ^ 11 + bitOf rnd * 2 ^ 6)
  | .adda s a sub => smyWord 0x0D (fieldSA s a + bitOf sub * 2 ^ 7)
  | .clra a => smyWord 0x0E (fieldSA false a)
  | .mvs dd sel => smyWord 0x0F (dd.toNat * 2 ^ 11 + sel.toNat)
  | .srch ms ad => smyWord 0x10 (fieldMem ms ad)
  | .srcl => smyWord 0x11 0
  | .rep (.imm n) => smyWord 0x12 n.toNat
  | .rep (.reg dm) => smyWord 0x12 (2 ^ 12 + dm.toNat * 2 ^ 8)
  | .jmp addr => smyWord 0x14 addr.toNat
  | .br a cond addr => smyWord 0x15 (fieldSA false a + cond.toNat * 2 ^ 14 + addr.toNat)
  | .djnz dd addr => smyWord 0x16 (dd.toNat * 2 ^ 16 + addr.toNat)
  | .ldp tgt imm => smyWord 0x18 (tgt.toNat * 2 ^ 12 + imm.toNat)
  | .in a clr port => smyWord 0x19 (fieldSA false a + bitOf clr * 2 ^ 11 + port.toNat)
  | .out s a src dd k => smyWord 0x1A (fieldSA s a + bitOf src * 2 ^ 8 + dd.toNat * 2 ^ 11 + k.toNat)
  | .trig t => smyWord 0x1B (bitOf t)
  | .sig imm => smyWord 0x1C imm.toNat
  | .halt => smyWord 0x3F 0

/-- Mode 7 of an address field is illegal (R389). -/
def modeOk (ad : BitVec 5) : Bool := decide (ad.toNat % 8 ≠ 7)

/-- No instruction names an address in mode 7. -/
def smyWf : SmyInstr → Bool
  | .mac _ _ xa ya => modeOk xa && modeOk ya
  | .msu _ _ xa ya => modeOk xa && modeOk ya
  | .mpy _ _ xa ya => modeOk xa && modeOk ya
  | .macd _ _ xa _ => modeOk xa
  | .lda _ _ ad => modeOk ad
  | .ada _ _ _ ad => modeOk ad
  | .sta _ _ _ _ ad => modeOk ad
  | .ldd _ _ ad => modeOk ad
  | .std _ _ ad => modeOk ad
  | .srch _ ad => modeOk ad
  | .nop | .ldi _ _ | .sha _ _ _ | .mvad _ _ _ _ | .adda _ _ _ | .clra _ | .mvs _ _ | .srcl | .rep _ | .jmp _ | .br _ _ _
  | .djnz _ _ | .ldp _ _ | .in _ _ _ | .out _ _ _ _ _ | .trig _ | .sig _ | .halt => true

/-- Field of `n` bits at bit `lo` of a word. -/
def fld (n lo w : Nat) : BitVec n := BitVec.ofNat n (w / 2 ^ lo)

/-- Bit `i` of a word. -/
def fbit (i w : Nat) : Bool := decide (w / 2 ^ i % 2 = 1)

/-- The address field that MS selects. -/
def memField (w : Nat) : BitVec 5 := if fbit 7 w then fld 5 14 w else fld 5 19 w

/-- The instruction that the opcode and the assigned fields of a word name, if the opcode is in the table. -/
def smyFields (w : Nat) : Option SmyInstr :=
  let s := fbit 25 w
  let a := fbit 24 w
  let xa := fld 5 19 w
  let ya := fld 5 14 w
  let dd := fld 3 11 w
  let dm := fld 3 8 w
  let ms := fbit 7 w
  let ad := memField w
  let rnd := fbit 6 w
  match w / 2 ^ 26 with
  | 0x00 => some .nop
  | 0x01 => some (.mac s a xa ya)
  | 0x02 => some (.msu s a xa ya)
  | 0x03 => some (.mpy s a xa ya)
  | 0x04 => some (.macd s a xa dm)
  | 0x05 => some (.lda a ms ad)
  | 0x06 => some (.ada s a ms ad)
  | 0x07 => some (.sta s a ms rnd ad)
  | 0x08 => some (.ldd dd ms ad)
  | 0x09 => some (.std dd ms ad)
  | 0x0A => some (.ldi (fld 3 16 w) (fld 16 0 w))
  | 0x0B => some (.sha s a (fld 6 0 w))
  | 0x0C => some (.mvad s a dd rnd)
  | 0x0D => some (.adda s a ms)
  | 0x0E => some (.clra a)
  | 0x0F => some (.mvs dd (fld 2 0 w))
  | 0x10 => some (.srch ms ad)
  | 0x11 => some .srcl
  | 0x12 => some (.rep (if fbit 12 w then .reg dm else .imm (fld 12 0 w)))
  | 0x14 => some (.jmp (fld 12 0 w))
  | 0x15 => some (.br a (fld 2 14 w) (fld 12 0 w))
  | 0x16 => some (.djnz (fld 3 16 w) (fld 12 0 w))
  | 0x18 => some (.ldp (fld 4 12 w) (fld 12 0 w))
  | 0x19 => some (.in a (fbit 11 w) (fld 10 0 w))
  | 0x1A => some (.out s a (fbit 8 w) dd (fld 5 0 w))
  | 0x1B => some (.trig (fbit 0 w))
  | 0x1C => some (.sig (fld 16 0 w))
  | 0x3F => some .halt
  | _ => none

/-- Decode a word: its fields name an instruction, no bit beside them is set, and no address is in mode 7. -/
def smyDecode (w : Nat) : Option SmyInstr :=
  match smyFields w with
  | some i => if smyEncode i = w ∧ smyWf i then some i else none
  | none => none

end Sys2Proof.Machine
end

