-- ==== Sys2Proof/Machine/Smithy.lean ====
section
/-!
DEFINITION. The signal processors (R387 to R398): address generators, accumulator arithmetic, the instructions of Table 12-4, runs and
the program and data ports. A command that executes an instruction is the event that core `n` executes it: it has its effect where
the core runs and the instruction stands at its program counter, and none otherwise.
-/
namespace Sys2Proof.Machine

/-! Arithmetic (R388). -/

/-- Accumulator `a` as an integer. -/
def accOf (c : SmyCore) (a : Bool) : Int := (if a then c.acc1 else c.acc0).toInt

/-- Replace accumulator `a`. -/
def setAcc (c : SmyCore) (a : Bool) (v : BitVec 40) : SmyCore := if a then { c with acc1 := v } else { c with acc0 := v }

/-- Write an exact result: limited to 32 bits with S, wrapped in 40 bits without; either sets SV where it changes the value. -/
def writeAcc (s a : Bool) (x : Int) (c : SmyCore) : SmyCore :=
  let y := if s then clampInt (-2147483648) 2147483647 x else (BitVec.ofInt 40 x).toInt
  setAcc { c with sv := c.sv || decide (y ≠ x) } a (BitVec.ofInt 40 y)

/-- The product of two words, doubled with FRAC. -/
def product (frac : Bool) (x y : BitVec 16) : Int := if frac then 2 * (x.toInt * y.toInt) else x.toInt * y.toInt

/-- The high word of accumulator `a` as STA and MVAD take it, and the core with SV. -/
def highWord (s a rnd : Bool) (c : SmyCore) : BitVec 16 × SmyCore :=
  let v := accOf c a + (if rnd then 32768 else 0)
  if s ∧ 2147483647 < v then (0x7FFF#16, { c with sv := true })
  else if s ∧ v < -2147483648 then (0x8000#16, { c with sv := true })
  else (BitVec.ofInt 16 (Int.fdiv v 65536), c)

/-! Address generators (R389). -/

/-- L as a length. -/
def bufLen (g : AddrGen) : Nat := if g.l = 0 then 4096 else g.l.toNat

/-- A pointer moved by `k`, brought back into the circular buffer modulo L. A buffer may lie across the end of the memory, where addresses go
on at 0 (DESIGN CHOICE, log 121). -/
def circular (g : AddrGen) (p : BitVec 12) (k : Int) : BitVec 12 :=
  let off := (p - g.b).toNat
  let at' : Int := if off < bufLen g then off else (p.toNat : Int) - g.b.toNat
  BitVec.ofInt 12 ((g.b.toNat : Int) + (at' + k) % bufLen g)

/-- The pointer after an access in a mode. -/
def nextPointer (g : AddrGen) (mode : Nat) (p : BitVec 12) : BitVec 12 :=
  match mode with
  | 1 => p + 1
  | 2 => p - 1
  | 3 => p + g.m0
  | 4 => p + g.m1
  | 5 => circular g p 1
  | 6 => circular g p g.m0.toInt
  | _ => p

/-- Use an address field: the address, and the generator afterwards. -/
def useAddr (g : AddrGen) (ad : BitVec 5) : BitVec 12 × AddrGen :=
  let i := ad.toNat / 8
  let p := SMap.get 0 g.p i
  (p, { g with p := SMap.set 0 g.p i (nextPointer g (ad.toNat % 8) p) })

/-- Read a word of X memory through an address field. -/
def readX (ad : BitVec 5) (c : SmyCore) : BitVec 16 × SmyCore :=
  let (p, g) := useAddr c.gx ad
  (SMap.get 0 c.x p.toNat, { c with gx := g })

/-- Read a word of Y memory. -/
def readY (ad : BitVec 5) (c : SmyCore) : BitVec 16 × SmyCore :=
  let (p, g) := useAddr c.gy ad
  (SMap.get 0 c.y p.toNat, { c with gy := g })

/-- Read the memory side MS. -/
def readMem (ms : Bool) (ad : BitVec 5) (c : SmyCore) : BitVec 16 × SmyCore := if ms then readY ad c else readX ad c

/-- Write the memory side MS. -/
def writeMem (ms : Bool) (ad : BitVec 5) (v : BitVec 16) (c : SmyCore) : SmyCore :=
  if ms then
    let (p, g) := useAddr c.gy ad
    { c with gy := g, y := SMap.set 0 c.y p.toNat v }
  else
    let (p, g) := useAddr c.gx ad
    { c with gx := g, x := SMap.set 0 c.x p.toNat v }

/-- Data register `d`. -/
def dataReg (c : SmyCore) (d : BitVec 3) : BitVec 16 := SMap.get 0 c.dr d.toNat

/-- Set it. -/
def setDataReg (c : SmyCore) (d : BitVec 3) (v : BitVec 16) : SmyCore := { c with dr := SMap.set 0 c.dr d.toNat v }

/-! Effects of the instructions that may be repeated. -/

/-- MAC, MSU and MPY: `k` times the accumulator plus `m` times the product of an X and a Y word. -/
def multiply (frac s a : Bool) (k m : Int) (xa ya : BitVec 5) (c : SmyCore) : SmyCore :=
  let (x, c) := readX xa c
  let (y, c) := readY ya c
  writeAcc s a (k * accOf c a + m * product frac x y) c

/-- MACD. -/
def multiplyReg (frac s a : Bool) (xa : BitVec 5) (dm : BitVec 3) (c : SmyCore) : SmyCore :=
  let (x, c) := readX xa c
  writeAcc s a (accOf c a + product frac (dataReg c dm) x) c

/-- LDA. -/
def loadAcc (a ms : Bool) (ad : BitVec 5) (c : SmyCore) : SmyCore :=
  let (v, c) := readMem ms ad c
  setAcc c a (BitVec.ofInt 40 (v.toInt * 65536))

/-- ADA. -/
def addAcc (s a ms : Bool) (ad : BitVec 5) (c : SmyCore) : SmyCore :=
  let (v, c) := readMem ms ad c
  writeAcc s a (accOf c a + v.toInt * 65536) c

/-- STA. -/
def storeAcc (s a ms rnd : Bool) (ad : BitVec 5) (c : SmyCore) : SmyCore :=
  let (v, c) := highWord s a rnd c
  writeMem ms ad v c

/-- LDD. -/
def loadReg (dd : BitVec 3) (ms : Bool) (ad : BitVec 5) (c : SmyCore) : SmyCore :=
  let (v, c) := readMem ms ad c
  setDataReg c dd v

/-- STD. -/
def storeReg (dd : BitVec 3) (ms : Bool) (ad : BitVec 5) (c : SmyCore) : SmyCore := writeMem ms ad (dataReg c dd) c

/-- SHA: by the signed count, a right shift rounding toward minus infinity. -/
def shiftAcc (s a : Bool) (sh : BitVec 6) (c : SmyCore) : SmyCore :=
  let k := sh.toInt
  writeAcc s a (if 0 ≤ k then accOf c a * 2 ^ k.toNat else Int.fdiv (accOf c a) (2 ^ (-k).toNat)) c

/-- SRCH (R392). -/
def searchStep (ms : Bool) (ad : BitVec 5) (c : SmyCore) : SmyCore :=
  let (v, c) := readMem ms ad c
  let c := if c.maxv.toInt < v.toInt then { c with maxv := v, maxi := c.ic } else c
  let c := if v.toInt < c.minv.toInt then { c with minv := v, mini := c.ic } else c
  { c with ic := c.ic + 1 }

/-! Runs (R394 to R396). -/

/-- BUSY of core `n`. -/
def smyBusy (n : Nat) : Option (RegField × Nat) := some (.SMY_STAT_BUSY, n)

/-- Start a run at ENTRY from source `src`. -/
def startRun (d : Dev) (n src : Nat) : Dev :=
  onSmy (d.wr .SMY_STAT_ACTIVE n 1) n fun c =>
    { c with
      sv := false, pc := BitVec.ofNat 12 (d.rd .SMY_CFG_ENTRY n), clocks := 0, rep := none, sigDone := false,
      startFrame := d.frameNo, src := src }

/-- A trigger from `src` reaches core `n` (R395). -/
def runTrigger (d : Dev) (n src : Nat) : Dev :=
  if d.on .SMY_STAT_QUEUED n then d.inc .SMY_CNT_TRIG_OVERRUN n
  else if d.on .SMY_STAT_ACTIVE n then onSmy (d.wr .SMY_STAT_QUEUED n 1) n fun c => { c with queuedSrc := src }
  else if d.on .SMY_CTRL_RUN n then startRun d n src
  else d

/-- The run of core `n` ends: its clocks and SV are reported. -/
def smyEndRun (d : Dev) (n : Nat) : Dev :=
  let c := smyOf d n
  let d := d.wr .SMY_STAT_ACTIVE n 0
  let d := if c.sv then d.wr .SMY_STAT_SAT n 1 else d
  let d := (d.wrSat .SMY_CYC_LAST n c.clocks).wrMax .SMY_CYC_MAX n c.clocks
  onSmy d n fun c => { c with rep := none }

/-- SMY_RUN_START: the queued trigger starts the next run; else the oldest trigger that a source has fired acts; else, for source 14,
feedback is ready at T_F - 7.0 us (R395, Table 12-5). -/
def execSmyRunStart (n : Fin 2) (s : State) : Host.Outcome State Fault Refusal :=
  s.run fun d =>
    let c := smyOf d n
    if d.on .SMY_STAT_QUEUED n ∧ d.rd .SMY_STAT_ACTIVE n = 0 then
      if d.on .SMY_CTRL_RUN n then startRun (d.wr .SMY_STAT_QUEUED n 0) n c.queuedSrc else d
    else
      match c.trigs with
      | p :: rest => runTrigger (onSmy d n fun c => { c with trigs := rest }) n p.2
      | [] =>
        if d.rd .SMY_CFG_TRIG_SRC n = 14 ∧ d.tb.ticking ∧ !c.readyFired then
          runTrigger (onSmy (d.reach (d.frameNs - 7000)) n fun c => { c with readyFired := true }) n 14
        else d

/-- SMY_START: a write of START. -/
def execSmyStart (m : Master) (n : Fin 2) (s : State) : Host.Outcome State Fault Refusal :=
  s.run fun d => d.trigger m (0x1A000 + 0x400 * n) (smyBusy n) fun d => runTrigger d n 0

/-- SMY_HALT_REQ: the run ends at the instruction boundary, without publishing. -/
def execSmyHaltReq (m : Master) (n : Fin 2) (s : State) : Host.Outcome State Fault Refusal :=
  s.run fun d => d.trigger m (0x1A000 + 0x400 * n) (smyBusy n) fun d => if d.on .SMY_STAT_ACTIVE n then smyEndRun d n else d

/-- SMY_BUDGET_EXCEEDED: at an instruction boundary the clocks of the run exceed the budget. -/
def execSmyBudgetExceeded (n : Fin 2) (s : State) : Host.Outcome State Fault Refusal :=
  s.run fun d =>
    if d.on .SMY_STAT_ACTIVE n ∧ d.rd .SMY_BUDGET_CLK n < (smyOf d n).clocks then
      ((smyEndRun d n).wr .SMY_STAT_BUDGET_EXCEEDED n 1).event .SMY_BUDGET (srcSmithy n)
    else d

/-! Program and data ports (R396). -/

/-- The block runs, for its Stopped-only fields. -/
def smyRunning (d : Dev) (n : Nat) : Bool := d.on .SMY_CTRL_RUN n || d.on .SMY_STAT_ACTIVE n

/-- Read through a port; the address advances. -/
def portRead (d : Dev) (n : Nat) (data : Bool) : Dev × Nat :=
  let c := smyOf d n
  if data then
    let i := d.rd .SMY_DADDR_ADDR n
    let v := SMap.get 0 (if d.on .SMY_DADDR_Y n then c.y else c.x) i
    (d.wr .SMY_DADDR_ADDR n (i + 1), v.toNat)
  else
    let i := d.rd .SMY_PADDR_ADDR n
    (d.wr .SMY_PADDR_ADDR n (i + 1), (SMap.get 0xFC000000#32 c.prog i).toNat)

/-- Write through a port; the address advances. A running core refuses a write that would change the word (R396); a refused write is no access. -/
def portWrite (d : Dev) (m : Master) (n : Nat) (data : Bool) (v : Word32) : Dev :=
  let addr := 0x1A000 + 0x400 * n + (if data then 0x2C else 0x24)
  let now := (portRead d n data).2
  let v := if data then v.toNat % 65536 else v.toNat
  if smyRunning d n then (if v = now then (portRead d n data).1 else d.busyReject m addr)
  else
    let d := if data then
        let i := d.rd .SMY_DADDR_ADDR n
        let w := BitVec.ofNat 16 v
        onSmy d n fun c => if d.on .SMY_DADDR_Y n then { c with y := SMap.set 0 c.y i w } else { c with x := SMap.set 0 c.x i w }
      else onSmy d n fun c => { c with prog := SMap.set 0xFC000000#32 c.prog (d.rd .SMY_PADDR_ADDR n) (BitVec.ofNat 32 v) }
    (portRead d n data).1

/-- SMY_PORT_ACCESS: an access to SMY_n_PDATA, or with `data` to SMY_n_DDATA: a write of the value given, or a read. -/
def execSmyPortAccess (m : Master) (n : Fin 2) (data : Bool) (write : Option Word32) (s : State) :
    Host.Outcome State Fault Refusal :=
  s.run fun d =>
    let addr := 0x1A000 + 0x400 * n + (if data then 0x2C else 0x24)
    match write with
    | some v => d.trigger m addr (smyBusy n) fun d => portWrite d m n data v
    | none =>
      if d.readable m addr then
        let (d, v) := portRead d n data
        d.emit (.readData m v)
      else d.emit (.readData m 0)

/-! Execution. -/

/-- What may follow REP (R391). -/
def repeatable : SmyInstr → Bool
  | .nop | .mac _ _ _ _ | .msu _ _ _ _ | .mpy _ _ _ _ | .macd _ _ _ _ | .lda _ _ _ | .ada _ _ _ _ | .sta _ _ _ _ _
  | .ldd _ _ _ | .std _ _ _ | .sha _ _ _ | .srch _ _ => true
  | .ldi _ _ | .mvad _ _ _ _ | .adda _ _ _ | .clra _ | .mvs _ _ | .srcl | .rep _ | .jmp _ | .br _ _ _ | .djnz _ _ | .ldp _ _
  | .in _ _ _ | .out _ _ _ _ _ | .trig _ | .sig _ | .halt => false

/-- The word at the program counter. -/
def smyFetch (c : SmyCore) : Nat := (SMap.get 0xFC000000#32 c.prog c.pc.toNat).toNat

/-- Core `n` is in a run within its budget. -/
def smyGoes (d : Dev) (n : Nat) : Bool := d.on .SMY_STAT_ACTIVE n && decide ((smyOf d n).clocks ≤ d.rd .SMY_BUDGET_CLK n)

/-- Core `n` executes instruction `i` next. -/
def smyAt (d : Dev) (n : Nat) (i : SmyInstr) : Bool :=
  smyGoes d n && decide (smyDecode (smyFetch (smyOf d n)) = some i) && ((smyOf d n).rep.isNone || repeatable i)

/-- `f` applied `k` times. -/
def times (f : SmyCore → SmyCore) : Nat → SmyCore → SmyCore
  | 0, c => c
  | k + 1, c => times f k (f c)

/-- Execute an instruction that may be repeated: as often as REP said, without interruption, one clock each (R391). -/
def repeatStep (f : SmyCore → SmyCore) (c : SmyCore) : SmyCore :=
  let k := c.rep.getD 1
  let c := times f k c
  { c with pc := c.pc + 1, clocks := c.clocks + k, rep := none }

/-- Execute an instruction of `k` clocks that goes on to the next word. -/
def plainStep (k : Nat) (f : SmyCore → SmyCore) (c : SmyCore) : SmyCore :=
  let c := f c
  { c with pc := c.pc + 1, clocks := c.clocks + k }

/-- Where core `n` executes `i`, change the device by `f`. -/
def whenAt (d : Dev) (n : Nat) (i : SmyInstr) (f : Dev → Dev) : Dev := if smyAt d n i then f d else d

/-- Where core `n` executes `i`, an instruction that may be repeated with effect `f`. -/
def runRepeat (n : Nat) (i : SmyInstr) (f : Bool → SmyCore → SmyCore) (s : State) : Host.Outcome State Fault Refusal :=
  s.run fun d => whenAt d n i fun d => onSmy d n (repeatStep (f (d.on .SMY_CFG_FRAC n)))

/-- Where core `n` executes `i`, an instruction of one clock with effect `f` on the core. -/
def runPlain (n : Nat) (i : SmyInstr) (f : SmyCore → SmyCore) (s : State) : Host.Outcome State Fault Refusal :=
  s.run fun d => whenAt d n i fun d => onSmy d n (plainStep 1 f)

/-- NOP. -/
def execNop (n : Fin 2) (s : State) : Host.Outcome State Fault Refusal := runRepeat n .nop (fun _ c => c) s

/-- MAC: ACC + X × Y. -/
def execMac (n : Fin 2) (sb a : Bool) (xa ya : BitVec 5) (s : State) : Host.Outcome State Fault Refusal :=
  runRepeat n (.mac sb a xa ya) (fun frac => multiply frac sb a 1 1 xa ya) s

/-- MSU: ACC - X × Y. -/
def execMsu (n : Fin 2) (sb a : Bool) (xa ya : BitVec 5) (s : State) : Host.Outcome State Fault Refusal :=
  runRepeat n (.msu sb a xa ya) (fun frac => multiply frac sb a 1 (-1) xa ya) s

/-- MPY: X × Y. -/
def execMpy (n : Fin 2) (sb a : Bool) (xa ya : BitVec 5) (s : State) : Host.Outcome State Fault Refusal :=
  runRepeat n (.mpy sb a xa ya) (fun frac => multiply frac sb a 0 1 xa ya) s

/-- MACD: ACC + Dm × X. -/
def execMacd (n : Fin 2) (sb a : Bool) (xa : BitVec 5) (dm : BitVec 3) (s : State) : Host.Outcome State Fault Refusal :=
  runRepeat n (.macd sb a xa dm) (fun frac => multiplyReg frac sb a xa dm) s

/-- LDA: memory into the high word, sign-extended. -/
def execLda (n : Fin 2) (a ms : Bool) (ad : BitVec 5) (s : State) : Host.Outcome State Fault Refusal :=
  runRepeat n (.lda a ms ad) (fun _ => loadAcc a ms ad) s

/-- ADA: memory added into the high word. -/
def execAda (n : Fin 2) (sb a ms : Bool) (ad : BitVec 5) (s : State) : Host.Outcome State Fault Refusal :=
  runRepeat n (.ada sb a ms ad) (fun _ => addAcc sb a ms ad) s

/-- STA: the high word to memory. -/
def execSta (n : Fin 2) (sb a ms rnd : Bool) (ad : BitVec 5) (s : State) : Host.Outcome State Fault Refusal :=
  runRepeat n (.sta sb a ms rnd ad) (fun _ => storeAcc sb a ms rnd ad) s

/-- LDD: memory to a data register. -/
def execLdd (n : Fin 2) (dd : BitVec 3) (ms : Bool) (ad : BitVec 5) (s : State) : Host.Outcome State Fault Refusal :=
  runRepeat n (.ldd dd ms ad) (fun _ => loadReg dd ms ad) s

/-- STD: a data register to memory. -/
def execStd (n : Fin 2) (dd : BitVec 3) (ms : Bool) (ad : BitVec 5) (s : State) : Host.Outcome State Fault Refusal :=
  runRepeat n (.std dd ms ad) (fun _ => storeReg dd ms ad) s

/-- LDI: an immediate to a data register. -/
def execLdi (n : Fin 2) (dd : BitVec 3) (imm : BitVec 16) (s : State) : Host.Outcome State Fault Refusal :=
  runPlain n (.ldi dd imm) (fun c => setDataReg c dd imm) s

/-- SHA: an arithmetic shift. -/
def execSha (n : Fin 2) (sb a : Bool) (sh : BitVec 6) (s : State) : Host.Outcome State Fault Refusal :=
  runRepeat n (.sha sb a sh) (fun _ => shiftAcc sb a sh) s

/-- MVAD: the high word to a data register. -/
def execMvad (n : Fin 2) (sb a : Bool) (dd : BitVec 3) (rnd : Bool) (s : State) : Host.Outcome State Fault Refusal :=
  runPlain n (.mvad sb a dd rnd) (fun c => setDataReg (highWord sb a rnd c).2 dd (highWord sb a rnd c).1) s

/-- ADDA: the other accumulator added, or with SUB subtracted. -/
def execAdda (n : Fin 2) (sb a sub : Bool) (s : State) : Host.Outcome State Fault Refusal :=
  runPlain n (.adda sb a sub) (fun c => writeAcc sb a (if sub then accOf c a - accOf c (!a) else accOf c a + accOf c (!a)) c) s

/-- CLRA. -/
def execClra (n : Fin 2) (a : Bool) (s : State) : Host.Outcome State Fault Refusal :=
  runPlain n (.clra a) (fun c => setAcc c a 0) s

/-- MVS: MAXV, MAXI, MINV or MINI to a data register. -/
def execMvs (n : Fin 2) (dd : BitVec 3) (sel : BitVec 2) (s : State) : Host.Outcome State Fault Refusal :=
  runPlain n (.mvs dd sel) (fun c => setDataReg c dd (match sel.toNat with
    | 0 => c.maxv
    | 1 => c.maxi
    | 2 => c.minv
    | _ => c.mini)) s

/-- SRCH: a search step. -/
def execSrch (n : Fin 2) (ms : Bool) (ad : BitVec 5) (s : State) : Host.Outcome State Fault Refusal :=
  runRepeat n (.srch ms ad) (fun _ => searchStep ms ad) s

/-- SRCL: the search registers and IC. -/
def execSrcl (n : Fin 2) (s : State) : Host.Outcome State Fault Refusal :=
  runPlain n .srcl (fun c => { c with maxv := 0x8000#16, minv := 0x7FFF#16, maxi := 0, mini := 0, ic := 0 }) s

/-- REP: the next instruction is to be repeated; a count of 0 skips it, one above 4,096 is limited and sets SV (R391). -/
def execRep (n : Fin 2) (r : RepCount) (s : State) : Host.Outcome State Fault Refusal :=
  s.run fun d => whenAt d n (.rep r) fun d => onSmy d n fun c =>
    let k := match r with
      | .imm v => v.toNat + 1
      | .reg dm => (dataReg c dm).toNat
    let c := { c with clocks := c.clocks + 1, sv := c.sv || decide (4096 < k) }
    if k = 0 then { c with pc := c.pc + 2 } else { c with pc := c.pc + 1, rep := some (min k 4096) }

/-- JMP. -/
def execJmp (n : Fin 2) (addr : BitVec 12) (s : State) : Host.Outcome State Fault Refusal :=
  s.run fun d => whenAt d n (.jmp addr) fun d => onSmy d n fun c => { c with pc := addr, clocks := c.clocks + 2 }

/-- Go to `addr` in two clocks if taken, else on in one. -/
def branch (taken : Bool) (addr : BitVec 12) (c : SmyCore) : SmyCore :=
  if taken then { c with pc := addr, clocks := c.clocks + 2 } else { c with pc := c.pc + 1, clocks := c.clocks + 1 }

/-- The condition of BR (R388). -/
def branchTaken (cond : BitVec 2) (a : Bool) (c : SmyCore) : Bool :=
  match cond.toNat with
  | 0 => decide (accOf c a = 0)
  | 1 => decide (accOf c a < 0)
  | 2 => decide (0 < accOf c a)
  | _ => c.sv

/-- BR. -/
def execBr (n : Fin 2) (a : Bool) (cond : BitVec 2) (addr : BitVec 12) (s : State) : Host.Outcome State Fault Refusal :=
  s.run fun d => whenAt d n (.br a cond addr) fun d => onSmy d n fun c => branch (branchTaken cond a c) addr c

/-- DJNZ. -/
def execDjnz (n : Fin 2) (dd : BitVec 3) (addr : BitVec 12) (s : State) : Host.Outcome State Fault Refusal :=
  s.run fun d => whenAt d n (.djnz dd addr) fun d => onSmy d n fun c =>
    let v := dataReg c dd - 1
    branch (decide (v ≠ 0)) addr (setDataReg c dd v)

/-- Set a pointer of a generator. -/
def setPointer (g : AddrGen) (i : Nat) (v : BitVec 12) : AddrGen := { g with p := SMap.set 0 g.p i v }

/-- LDP: load an address generator register (Table 12-4). -/
def loadPointer (tgt : BitVec 4) (v : BitVec 12) (c : SmyCore) : SmyCore :=
  match tgt.toNat with
  | 0 => { c with gx := setPointer c.gx 0 v }
  | 1 => { c with gx := setPointer c.gx 1 v }
  | 2 => { c with gx := setPointer c.gx 2 v }
  | 3 => { c with gx := setPointer c.gx 3 v }
  | 4 => { c with gy := setPointer c.gy 0 v }
  | 5 => { c with gy := setPointer c.gy 1 v }
  | 6 => { c with gy := setPointer c.gy 2 v }
  | 7 => { c with gy := setPointer c.gy 3 v }
  | 8 => { c with gx := { c.gx with m0 := v } }
  | 9 => { c with gx := { c.gx with m1 := v } }
  | 10 => { c with gy := { c.gy with m0 := v } }
  | 11 => { c with gy := { c.gy with m1 := v } }
  | 12 => { c with gx := { c.gx with b := v } }
  | 13 => { c with gx := { c.gx with l := v } }
  | 14 => { c with gy := { c.gy with b := v } }
  | _ => { c with gy := { c.gy with l := v } }

/-- LDP. -/
def execLdp (n : Fin 2) (tgt : BitVec 4) (imm : BitVec 12) (s : State) : Host.Outcome State Fault Refusal :=
  runPlain n (.ldp tgt imm) (loadPointer tgt imm) s

/-- A value truncated toward zero to 32 bits, saturating; 0 for one that is no number. -/
def f64ToS32 (x : F64) : Int :=
  match x with
  | .num s m e => saturate 32 (signedM s (if 0 ≤ e then m * 2 ^ e.toNat else m / 2 ^ (-e).toNat))
  | .inf s => if s then -2147483648 else 2147483647
  | .nan => 0

/-- The input word of a port (Table 12-6). -/
def inputWord (d : Dev) (n port : Nat) : Int :=
  if port < 0x080 then
    let a := SMap.get ({} : UserAcc) d.adc.ua (port / 4)
    match port % 4 with
    | 0 => d.rdI .ADC_UA_SUM_SUM (port / 4)
    | 1 => a.count
    | 2 => a.mn
    | _ => a.mx
  else if port < 0x100 then
    let c := (port - 0x080) / 4
    match port % 4 with
    | 0 => d.rdI .ADC_FRAME_MEAN c
    | 1 => d.rdI .ADC_FRAME_MIN c
    | 2 => d.rdI .ADC_FRAME_MAX c
    | _ => d.rd .ADC_FRAME_COUNT c
  else if port < 0x180 then
    let k := (port - 0x100) / 8
    let o := (SMap.get ({} : FbPort) d.axes.fb k).latched
    match port % 8 with
    | 0 => d.rdI .FBK_CNT_Y k
    | 1 => d.rd .FBK_STAT_VALID k
    | 2 => f64ToS32 o.p
    | 3 => f64ToS32 o.v
    | 4 => f64ToS32 o.a
    | _ => 0
  else if port = 0x180 then signedOf 32 (smyOf d n).startFrame
  else if port = 0x181 then (smyOf d n).src
  else if 0x190 ≤ port ∧ port < 0x1B0 then d.rdI .SMY_OUT_V (32 * (1 - n) + (port - 0x190))
  else 0

/-- IN: an input word as it stands; with CLR a user accumulator is cleared after (R393). -/
def execIn (n : Fin 2) (a clr : Bool) (port : BitVec 10) (s : State) : Host.Outcome State Fault Refusal :=
  s.run fun d => whenAt d n (.in a clr port) fun d =>
    let v := inputWord d n port.toNat
    let d := if clr ∧ port.toNat < 0x080 then clearUa d (port.toNat / 4) else d
    onSmy d n (plainStep 2 fun c => setAcc c a (BitVec.ofInt 40 v))

/-- OUT: an output word of the working set (R394), limited by S; R388 has SV set by accumulators and high-word stores only. A word that a run does
not write keeps the value of an earlier run (DESIGN CHOICE, log 121). -/
def outWord (sb a src : Bool) (dd : BitVec 3) (k : BitVec 5) (c : SmyCore) : SmyCore :=
  let v := accOf c a
  let y := if sb then clampInt (-2147483648) 2147483647 v else v
  if src then { c with work := SMap.set 0 c.work k.toNat ((dataReg c dd).signExtend 32) }
  else { c with work := SMap.set 0 c.work k.toNat (BitVec.ofInt 32 y) }

/-- OUT. -/
def execOut (n : Fin 2) (sb a src : Bool) (dd : BitVec 3) (k : BitVec 5) (s : State) : Host.Outcome State Fault Refusal :=
  runPlain n (.out sb a src dd k) (outWord sb a src dd k) s

/-- TRIG: 0 the ADC user sequence, 1 the other core. -/
def execTrig (n : Fin 2) (t : Bool) (s : State) : Host.Outcome State Fault Refusal :=
  s.run fun d => whenAt d n (.trig t) fun d =>
    onSmy (if t then fireSmy d (1 - n) 13 else fireAdc d (12 + n)) n (plainStep 1 fun c => c)

/-- SIG: the first of a run is written as EV_SMY_SIGNAL, further ones are counted (R395). -/
def execSig (n : Fin 2) (imm : BitVec 16) (s : State) : Host.Outcome State Fault Refusal :=
  s.run fun d => whenAt d n (.sig imm) fun d =>
    let d := if (smyOf d n).sigDone then d.inc .SMY_SIG_DROPPED n
      else (d.wr .SMY_SIG_CODE n imm.toNat).event .SMY_SIGNAL (srcSmithy n) 0 imm.toNat
    onSmy d n (plainStep 1 fun c => { c with sigDone := true })

/-- HALT: the run ends and publishes its output words (R394). -/
def execHalt (n : Fin 2) (s : State) : Host.Outcome State Fault Refusal :=
  s.run fun d => whenAt d n .halt fun d =>
    let d := onSmy d n fun c => { c with clocks := c.clocks + 1 }
    let d := d.each (List.range 32) fun d k => d.wr .SMY_OUT_V (32 * n + k) (SMap.get 0 (smyOf d n).work k).toNat
    smyEndRun (d.incWrap .SMY_CNT_RUNS n) n

/-- The word at the program counter of core `n` is illegal: no instruction, or one that may not follow REP (R390, R391). -/
def illegalAt (d : Dev) (n : Nat) : Bool :=
  smyGoes d n && (match smyDecode (smyFetch (smyOf d n)) with
    | none => true
    | some i => (smyOf d n).rep.isSome && !repeatable i)

/-- ILLEGAL_INSTRUCTION: the run ends without publishing (R396). -/
def execIllegalInstruction (n : Fin 2) (s : State) : Host.Outcome State Fault Refusal :=
  s.run fun d =>
    if illegalAt d n then
      let d := (d.wr .SMY_STAT_ILLEGAL n 1).wr .SMY_STAT_PC n (smyOf d n).pc.toNat
      (smyEndRun d n).event .SMY_ILLEGAL (srcSmithy n)
    else d

end Sys2Proof.Machine
end

