-- ==== Sys2Proof/Machine/RegAccess.lean ====
section
/-!
DEFINITION. Register access, chapter 15: which fields a word holds, what a read returns and clears, how a write is judged by access code,
change class, lock, BUSY and pair rules, the sets of COMMIT, the bit-alias window, the register check and the debug window.
-/
namespace Sys2Proof.Machine

/-- Change the register-access state. -/
def onSys (d : Dev) (f : SysState → SysState) : Dev := { d with sys := f d.sys }

/-! BUSY (R451, Table 15-3). -/

/-- The 45 BUSY bits: BLF, ENT A to C, PLN, MIL, RVE, HST, GRP, FBK0 to FBK15, STP0 to STP15, ADC, SMY0, SMY1, PWR. -/
def busyBit (b : Nat) : RegField × Nat :=
  if b = 0 then (.BLF_STATUS_BUSY, 0) else if b < 4 then (.ENT_STAT_BUSY, b - 1) else if b = 4 then (.PLN_STATUS_BUSY, 0)
  else if b = 5 then (.MIL_STATUS_BUSY, 0) else if b = 6 then (.RVE_STATUS_BUSY, 0) else if b = 7 then (.HST_STATUS_BUSY, 0)
  else if b = 8 then (.GRP_STATUS_BUSY, 0) else if b < 25 then (.FBK_STAT_BUSY, b - 9) else if b < 41 then (.STP_STAT_BUSY, b - 25)
  else if b = 41 then (.ADC_STATUS_BUSY, 0) else if b < 44 then (.SMY_STAT_BUSY, b - 42) else (.PWR_STATUS_BUSY, 0)

/-- The BUSY bit of the block at `addr`: none for SYS_, and for the blocks that hold no field software writes through a posted write
(SAF_, LNx_, COM_, CRI_). -/
def busyOf (addr : Nat) : Option Nat :=
  match addr / 0x1000 with
  | 0x1 => some 0
  | 0x7 => some (1 + (if addr < 0x7400 then (addr - 0x7000) / 0x100 else (addr - 0x7400) / 0x200))
  | 0x8 => some 41
  | 0x9 => some 6
  | 0xA => some 7
  | 0xC => some 44
  | 0xD => some 8
  | 0x10 | 0x11 => some 4
  | 0x14 | 0x15 | 0x16 | 0x17 => some 5
  | 0x18 => some (9 + (addr - 0x18000) / 0x100)
  | 0x19 => some (25 + (addr - 0x19000) / 0x80)
  | 0x1A => some (42 + (addr - 0x1A000) / 0x400)
  | _ => none

/-! Reads (R447, R459). -/

/-- The word of the image that the debug window shows (R329). -/
def debugWord (d : Dev) : Nat :=
  let a := 4 * d.rd .SAF_DBG_ADDR_ADDR
  let im := fun (l : Lane) => natLE (SMap.slice 0 (d.lanes.get l).image.bytes a 4)
  match d.rd .SAF_DBG_LANE_LANE with
  | 0 => im .a
  | 1 => im .b
  | 2 => im .c
  | _ => 0

/-- What a read of element `i` of `f` returns: the value in force, zero of a WO field, and the fields that copy other state. -/
def fieldView (d : Dev) (f : RegField) (i : Nat) : Nat :=
  match f with
  | .BLF_TIME_NS_NS => d.timeNs
  | .SYS_COMMIT_STAT_PENDING => bitOf (!d.sys.pending.isEmpty)
  | .SYS_COMMIT_STAT_ARMED => bitOf (!d.sys.armed.isEmpty)
  | .SYS_BUSY_BLF => d.rd .BLF_STATUS_BUSY
  | .SYS_BUSY_ENT => d.rd .ENT_STAT_BUSY 0 + 2 * d.rd .ENT_STAT_BUSY 1 + 4 * d.rd .ENT_STAT_BUSY 2
  | .SYS_BUSY_PLN => d.rd .PLN_STATUS_BUSY
  | .SYS_BUSY_MIL => d.rd .MIL_STATUS_BUSY
  | .SYS_BUSY_RVE => d.rd .RVE_STATUS_BUSY
  | .SYS_BUSY_HST => d.rd .HST_STATUS_BUSY
  | .SYS_BUSY_ADC => d.rd .ADC_STATUS_BUSY
  | .SYS_BUSY_SMY => d.rd .SMY_STAT_BUSY 0 + 2 * d.rd .SMY_STAT_BUSY 1
  | .SYS_BUSY_PWR => d.rd .PWR_STATUS_BUSY
  | .SYS_BUSY_GRP => d.rd .GRP_STATUS_BUSY
  | .SYS_BUSY_PORTS => (List.range 16).foldl (fun n k => n + (if d.on .FBK_STAT_BUSY k ∨ d.on .STP_STAT_BUSY k then 2 ^ k else 0)) 0
  | .CRI_STAT_COPYING => bitOf (d.on .HST_EVQ_CFG_EN && (nextRecord d).isSome)
  | .CRI_STAT_QUEUE_FULL => bitOf (d.on .HST_EVQ_CFG_EN && (nextRecord d).isSome && evFull d)
  | .RVE_CORE_RUN_CLK => min (runClocks d i) (2 ^ RegField.RVE_CORE_RUN_CLK.width - 1)
  | .SMY_PDATA_WORD => (portRead d i false).2
  | .SMY_DDATA_WORD => (portRead d i true).2
  | .SAF_DBG_DATA_DATA => debugWord d
  | f => if f.desc.access = .wo then 0 else d.rd f i

/-- The value of the word at `addr`. -/
def wordView (d : Dev) (addr : Nat) : Nat := (wordFields addr).foldl (fun n p => n + fieldView d p.1 p.2 * 2 ^ p.1.desc.lo) 0

/-- A read clears an RC field (Table 0-2). The lowest and highest reading since the last read start afresh (Tables 17-13, 17-14). -/
def clearField (d : Dev) (f : RegField) (i : Nat) : Dev :=
  let d := d.wr f i 0
  match f with
  | .PWR_SUP_VMIN_MV =>
    { d with pwr := { d.pwr with vminRead := d.pwr.vminRead.set (if i = 0 then .a else if i = 1 then .b else .c) true } }
  | .PWR_TEMP_MAX_T => { d with pwr := { d.pwr with tmaxRead := true } }
  | _ => d

/-- What a read of the word does before its value is taken: the accumulator set is copied (R385). -/
def beforeRead (d : Dev) (addr : Nat) : Dev :=
  match RegField.ADC_UA_SUM_SUM.at addr with
  | some u => copyUa d u
  | none => d

/-- The address of the debug window advances by one word (R329). -/
def debugAdvance (d : Dev) : Dev := d.put .SAF_DBG_ADDR_ADDR (d.rd .SAF_DBG_ADDR_ADDR + 1)

/-- What a read of the word does once its value is taken: TIME_NS copies the frame number (R51), a port advances (R396), the debug window
advances (R329), and the RC fields returned non-zero clear (R459), except for the debug port. -/
def afterRead (d : Dev) (m : Master) (addr : Nat) : Dev :=
  let ps := wordFields addr
  let d := d.each ps fun d p => match p.1 with
    | .BLF_TIME_NS_NS => d.put .BLF_FRAME_SNAP_NO d.frameNo
    | .SMY_PDATA_WORD => (portRead d p.2 false).1
    | .SMY_DDATA_WORD => (portRead d p.2 true).1
    | .SAF_DBG_DATA_DATA => debugAdvance d
    | _ => d
  if m = .debug then d
  else d.each ps fun d p => if p.1.desc.access = .rc ∧ d.on p.1 p.2 then clearField d p.1 p.2 else d

/-- Read the words at `addrs` in one clock: the value, lowest word first. -/
def readWords (d : Dev) (m : Master) (addrs : List Nat) : Dev × Nat :=
  let ok := addrs.filter fun a => d.readable m a
  let d := d.each ok beforeRead
  let v := addrs.zipIdx.foldl (fun n p => n + (if ok.contains p.1 then wordView d p.1 else 0) * 2 ^ (32 * p.2)) 0
  (d.each ok fun d a => afterRead d m a, v)

/-- The master reaches the register space (R449): the shared blocks are out of reset, and the debug port is not locked. -/
def reaches' (d : Dev) (m : Master) : Bool :=
  d.on .PWR_STATUS_SHARED_UP && !(decide (m = .debug) && d.rd .PWR_DBG_STAT_UNLOCKED == 0)

/-- READ_CLEAR: a read of BAR0, of 32 or 64 bits (R446, R447, R459). -/
def execReadClear (m : Master) (addr width : Nat) (s : State) : Host.Outcome State Fault Refusal :=
  s.run fun d =>
    if !reaches' d m then d.emit (.readData m 0)
    else if accessOk addr width then
      let r := readWords d m (accessWords addr width)
      r.1.emit (.readData m r.2)
    else (d.accessErr m addr).emit (.readData m 0)

/-- TIME_NS_READ: a read of BLF_TIME_NS copies BLF_FRAME_NO into BLF_FRAME_SNAP in the same clock (R51). -/
def execTimeNsRead (m : Master) (s : State) : Host.Outcome State Fault Refusal :=
  s.run fun d =>
    if d.readable m RegField.BLF_TIME_NS_NS.desc.base then
      (d.put .BLF_FRAME_SNAP_NO d.frameNo).emit (.readData m d.timeNs)
    else d.emit (.readData m 0)

/-! COMMIT (R452, R453). -/

/-- The latest value of a field in a set: `z` if the set holds none. -/
def setValue (xs : List RegCell) (f : RegField) (i : Nat) (z : Nat) : Nat :=
  match xs.find? fun c => decide (c.field = f ∧ c.idx = i) with
  | some c => c.value
  | none => z

/-- Put a value into a set: the latest value of its field. -/
def setPut (xs : List RegCell) (c : RegCell) : List RegCell :=
  (xs.filter fun x => !decide (x.field = c.field ∧ x.idx = c.idx)) ++ [c]

/-- GO: the pending set waits to be armed, and a new, empty one opens. -/
def commitGo (d : Dev) : Dev :=
  onSys d fun x => { x with requested := x.requested ++ [(x.gen, x.pending)], gen := x.gen + 1, pending := [] }

/-- ABORT: the pending set is discarded; a set armed, or asked to arm, stays. -/
def commitAbort (d : Dev) : Dev := onSys d fun x => { x with pending := [] }

/-- A posted write that carries a value of a Committed field. -/
def carriesCommitted (p : Posted) : Bool :=
  p.words.any fun w => (wordFields w.addr).any fun q => decide (q.1.desc.cls = .committed) && decide (w.mask &&& q.1.mask ≠ 0)

/-- The oldest requested set arms once no Committed write before its GO is in flight: for the next tick, or, from T_F - 2.0 us on, for the
one after it, with LATE. -/
def commitArm (d : Dev) : Dev :=
  match d.sys.requested with
  | [] => d
  | q :: rest =>
    if d.sys.posted.any fun p => decide (p.gen ≤ q.1) && carriesCommitted p then d
    else
      let late := decide ((d.frameNs : Int) - 2000 ≤ d.offset)
      let n := (d.frameNo + (if late then 2 else 1)) % 2 ^ 32
      let d := if late then d.flag .SYS_COMMIT_STAT_LATE else d
      onSys d fun x => { x with requested := rest, armed := x.armed ++ [⟨n, q.2⟩] }

/-- COMMIT_GO: a write of 1 to SYS_COMMIT.GO (R452). -/
def execCommitGo (m : Master) (s : State) : Host.Outcome State Fault Refusal := s.run fun d => d.trigger m 0x20 none commitGo

/-- COMMIT_ARM: the requested set arms (R452). -/
def execCommitArm (s : State) : Host.Outcome State Fault Refusal := s.run commitArm

/-- COMMIT_ABORT: a write of 1 to SYS_COMMIT.ABORT (R453). -/
def execCommitAbort (m : Master) (s : State) : Host.Outcome State Fault Refusal := s.run fun d => d.trigger m 0x20 none commitAbort

/-! Stopped-only fields: when the block runs (R455). -/

/-- A follower or a tracking arm uses master `m` (Table 7-13). -/
def masterBusy (d : Dev) (m : Nat) : Bool :=
  masterUsed d m || (List.range 16).any fun a => match (armOf d a).run with
    | some r => tracks r.cmd && decide (d.rd .PLN_TRK_MASTER a = m)
    | none => false

/-- A queue is enabled (R424). -/
def queueOn (d : Dev) : Bool :=
  d.on .HST_EVQ_CFG_EN || (List.range 16).any fun q => d.on .HST_SQ_CFG_EN q || d.on .HST_CQ_CFG_EN q

/-- The block runs, as its chapter defines running for this field. -/
def blockRuns (d : Dev) (f : RegField) (i : Nat) : Bool :=
  match f with
  | .BLF_PHASE_PHASE => decide (d.mode = .run ∨ d.mode = .degraded)
  | .PLN_CFG_RESERVE | .PLN_CFG_ZONE_GAP => (List.range 36).any fun a => decide (stateOf d a ≠ 0)
  | .PLN_MST_CFG_SRC | .PLN_MST_CFG_IDX | .PLN_MST_DML_CPS2 => masterBusy d i
  | .PLN_TRK_MASTER | .PLN_TRK_UM_PER_CNT => masterBusy d (d.rd .PLN_TRK_MASTER i)
  | .PLN_TRK_DIR => masterBusy d (d.rd .PLN_TRK_MASTER (i / 3))
  | .PLN_VLIM_LO_CNT | .PLN_VLIM_HI_CNT => match armOfSlot d i with
    | some a => decide (stateOf d a ≠ 0)
    | none => false
  | .STP_VLIM_LO_STEPS | .STP_VLIM_HI_STEPS => decide (stateOf d (16 + i) ≠ 0)
  | .MIL_J_CTRL_EN => match armOfSlot d i with
    | some a => granted d a
    | none => false
  | .MIL_TLM_BASE_LO_ADDR | .MIL_TLM_BASE_HI_ADDR | .MIL_TLM_SIZE_RECORDS | .MIL_TLM_SEL_SRC | .MIL_TLM_SEL_CHAN | .MIL_TLM_SEL_VALID =>
    d.on .MIL_TLM_CTRL_EN
  | .RVE_FLOW_CFG_MODE => (List.range 256).any fun t => d.on .RVE_TASK_STAT_STATE t
  | .HST_CFG_POLL_US | .HST_DB_BASE_LO_ADDR | .HST_DB_BASE_HI_ADDR => queueOn d
  | .HST_EVQ_BASE_LO_ADDR | .HST_EVQ_BASE_HI_ADDR | .HST_EVQ_CFG_SIZE => d.on .HST_EVQ_CFG_EN
  | .HST_SQ_BASE_LO_ADDR | .HST_SQ_BASE_HI_ADDR | .HST_SQ_CFG_CQ | .HST_SQ_CFG_SIZE => d.on .HST_SQ_CFG_EN i
  | .HST_CQ_BASE_LO_ADDR | .HST_CQ_BASE_HI_ADDR | .HST_CQ_CFG_SIZE => d.on .HST_CQ_CFG_EN i
  | f => match f.desc.base / 0x1000 with
    | 0x8 => d.on .ADC_SEQ_CTRL_EN
    | 0x18 => d.on .FBK_CFG_EN i
    | 0x19 => d.on .STP_CTRL_RUN i
    | 0x1A => smyRunning d i
    | _ => false

/-- A value the field's row says is refused. -/
def valueRefused (f : RegField) (v : Nat) : Bool :=
  match f with
  | .PLN_CFG_RESERVE => decide (v < 32 ∨ 1024 < v)
  | .FBK_CFG_DIR_SRC | .STP_CFG_MODE => decide (v = 3)
  | .PWR_THERM_WARN_C => decide (v < 90 ∨ 120 < v)
  | _ => false

/-! Pairs (R457, Table 15-4). -/

/-- The first word of a pair reaches its block: it is held; a running block refuses a change of the value in force (R455). -/
def pairFirst (d : Dev) (m : Master) (p v : Nat) : Dev :=
  let (lo, _, i) := pairFields p
  if blockRuns d lo i then (if v = d.rd lo i then d else d.busyReject m (pairAddr p))
  else onSys d fun x => { x with held := SMap.set none x.held p (some v) }

/-- The completing word reaches its block: the pair is checked and applies whole, or is refused; the holding register empties. -/
def pairComplete (d : Dev) (m : Master) (p v : Nat) : Dev :=
  let (lo, hi, i) := pairFields p
  let first := (SMap.get none d.sys.held p).getD (d.rd lo i)
  if blockRuns d hi i then (if v = d.rd hi i ∧ first = d.rd lo i then d else d.busyReject m (pairAddr p + 4))
  else
    let d := onSys d fun x => { x with held := SMap.set none x.held p none }
    if signedOf 32 first ≤ signedOf 32 v then (d.wr lo i first).wr hi i v else d.pairReject m (pairAddr p + 4)

/-- The BUSY bit of pair `p`. -/
def pairBusy (p : Nat) : Option (RegField × Nat) := if p < 128 then some (.PLN_STATUS_BUSY, 0) else some (.STP_STAT_BUSY, p - 128)

/-- PAIR_FIRST_WORD_WRITE: a write of the first word of pair `p` (R457). -/
def execPairFirstWordWrite (m : Master) (p : Fin 144) (value : Word32) (s : State) : Host.Outcome State Fault Refusal :=
  s.run fun d => d.trigger m (pairAddr p) (pairBusy p) fun d => pairFirst d m p value.toNat

/-- PAIR_COMPLETING_WRITE: a write of the completing word of pair `p` (R457). -/
def execPairCompletingWrite (m : Master) (p : Fin 144) (value : Word32) (s : State) : Host.Outcome State Fault Refusal :=
  s.run fun d => d.trigger m (pairAddr p + 4) (pairBusy p) fun d => pairComplete d m p value.toNat

/-! The debug window (R329). -/

/-- A write through the debug window: it takes effect only in a lane in DEBUG. It acts when it reaches the window, since each access
advances the address that the next one uses, although SAF_DBG_DATA is of class Live (log entry 101). -/
def debugWrite (d : Dev) (m : Master) (v : Nat) : Dev :=
  let a := 4 * d.rd .SAF_DBG_ADDR_ADDR
  let put := fun (l : Lane) =>
    if laneMode d l = .debug then
      onLane d l fun x => { x with image := { x.image with bytes := SMap.setBytes 0 x.image.bytes a (bytesLE 4 v) } }
    else d.lockViol m 0x5008
  debugAdvance (match d.rd .SAF_DBG_LANE_LANE with
    | 0 => put .a
    | 1 => put .b
    | 2 => put .c
    | _ => d)

/-- The masters that reach privileged registers (R449). -/
def privilegedMaster : Master → Bool
  | .lane _ => true
  | .debug => true
  | _ => false

/-- DBG_WINDOW_ACCESS: an access to SAF_DBG_DATA (R329). -/
def execDbgWindowAccess (m : Master) (write : Bool) (value : Word32) (s : State) : Host.Outcome State Fault Refusal :=
  s.run fun d =>
    if write then
      if privilegedMaster m then d.trigger m 0x5008 none fun d => debugWrite d m value.toNat else d
    else if d.readable m 0x5008 then (debugAdvance d).emit (.readData m (debugWord d))
    else d.emit (.readData m 0)

/-! Locks (R458). -/

/-- A write of SYS_LOCK.LOCK, of access W1. -/
def lockWrite (d : Dev) (m : Master) (v : Bool) : Dev :=
  if v then d.flag .SYS_LOCK_LOCK else if d.on .SYS_LOCK_LOCK then d.lockViol m 0x2C else d

/-- LOCK_WRITE: a write of SYS_LOCK.LOCK. -/
def execLockWrite (m : Master) (value : Bool) (s : State) : Host.Outcome State Fault Refusal :=
  s.run fun d => d.trigger m 0x2C none fun d => lockWrite d m value

/-! The register check (R462). -/

/-- GO of SYS_REGDIG_CTRL: ignored while a computation runs. -/
def regdigGo (d : Dev) : Dev :=
  if d.sys.regdigAsked ∨ d.sys.regdigRunning then d
  else onSys (d.put .SYS_REGDIG_CTRL_DONE 0) fun x => { x with regdigAsked := true }

/-- REGDIG_GO: a write of 1 to SYS_REGDIG_CTRL.GO. -/
def execRegdigGo (m : Master) (s : State) : Host.Outcome State Fault Refusal := s.run fun d => d.trigger m 0x60 none regdigGo

/-- What the check takes of a word: the values in force of its RW, WL and W1 fields. -/
def digestWord (d : Dev) (addr : Nat) : Nat :=
  (wordFields addr).foldl (fun n p => match p.1.desc.access with
    | .rw | .wl | .w1 => n + fieldView d p.1 p.2 * 2 ^ p.1.desc.lo
    | .ro | .rc | .wo => n) 0

/-- REGDIG_SNAPSHOT: at the tick after GO the register values are taken: every non-privileged word that is not zero. -/
def execRegdigSnapshot (s : State) : Host.Outcome State Fault Refusal :=
  s.run fun d =>
    if d.sys.regdigAsked then
      let shot := (List.range 0x6C00).filterMap fun k =>
        let v := digestWord d (4 * k)
        if privileged (4 * k) ∨ v = 0 then none else some (4 * k, v)
      onSys d fun x => { x with regdigAsked := false, regdigRunning := true, regdigShot := shot }
    else d

/-- Place of a non-privileged word in the sequence of all of them: the privileged words before it are left out. -/
def digestPlace (addr : Nat) : Nat := if addr < 0x5000 then addr else if addr < 0x8100 then addr - 0x800 else addr - 0x87C

/-- CRC-64 (R102) over every non-privileged word of BAR0 in ascending order. -/
def regDigest (shot : List (Nat × Nat)) : Nat :=
  crc64Sparse (0x200000 - 0x87C) 0 0 (shot.flatMap fun w => (bytesLE 4 w.2).zipIdx.map fun b => (digestPlace w.1 + b.2, b.1))

/-- REGDIG_DONE: the result is stored and DONE sets. -/
def execRegdigDone (s : State) : Host.Outcome State Fault Refusal :=
  s.run fun d =>
    if d.sys.regdigRunning then
      let g := regDigest d.sys.regdigShot
      let d := ((d.put .SYS_REGDIG_LO_CRC g).put .SYS_REGDIG_HI_CRC (g / 2 ^ 32)).put .SYS_REGDIG_CTRL_DONE 1
      onSys d fun x => { x with regdigRunning := false, regdigShot := [] }
    else d

/-! Writes. -/

/-- A Live write: it waits for the next tick; the later of two to one field takes effect (R16, R456). -/
def liveWrite (d : Dev) (m : Master) (c : RegCell) : Dev :=
  onSys d fun x => { x with live := (x.live.filter fun y => !decide (y.2.field = c.field ∧ y.2.idx = c.idx)) ++ [(m, c)] }

/-- The value a Live field has, with what waits for the tick. -/
def liveValue (d : Dev) (f : RegField) (i : Nat) : Nat := setValue (d.sys.live.map fun y => y.2) f i (d.rd f i)

/-- A Committed write: into the pending set, or, if a GO followed it in bus order, into the set that GO has requested. -/
def committedWrite (d : Dev) (gen : Nat) (c : RegCell) : Dev :=
  onSys d fun x =>
    if x.requested.any fun q => decide (q.1 = gen) then
      { x with requested := x.requested.map fun q => if q.1 = gen then (q.1, setPut q.2 c) else q }
    else { x with pending := setPut x.pending c }

/-- The value a Committed field has, with what is pending (R460). -/
def pendingValue (d : Dev) (f : RegField) (i : Nat) : Nat := setValue d.sys.pending f i (d.rd f i)

/-- The action of a trigger field. -/
def triggerField (d : Dev) (m : Master) (f : RegField) (i : Nat) : Dev :=
  match f with
  | .BLF_ACQUIRE_GO => acquireGo d
  | .FBK_CTRL_CLR => fbClear d i
  | .FBK_CTRL_PRESET => fbPreset d m i (portUsed d i)
  | .STP_CTRL_REARM => stpRearm d i
  | .ADC_SEQ_CTRL_GO => adcTrigger d
  | .ADC_UA_CLR_CLR => clearUa d i
  | .SMY_CTRL_HALT_REQ => if d.on .SMY_STAT_ACTIVE i then smyEndRun d i else d
  | .SMY_CTRL_START => smyTrigger d i 0
  | .SYS_COMMIT_GO => commitGo d
  | .SYS_COMMIT_ABORT => commitAbort d
  | .SYS_REGDIG_CTRL_GO => regdigGo d
  | .GRP_CTRL_REJOIN => rejoin d
  | .PWR_CTRL_CLR_LOG => clearLog d
  | _ => d

/-- A trigger field is written with 1: GO and ABORT of SYS_COMMIT act as R452 and R453 state; every other is of class Live and acts at the
next tick (R13, R456; log entry 11). -/
def triggerWrite (d : Dev) (m : Master) (f : RegField) (i : Nat) : Dev :=
  match f with
  | .SYS_COMMIT_GO | .SYS_COMMIT_ABORT => triggerField d m f i
  | _ => liveWrite d m ⟨f, i, 1⟩

/-- A Stopped-only field of a block that does not run takes a value. -/
def stoppedWrite (d : Dev) (m : Master) (f : RegField) (i v : Nat) : Dev :=
  match f with
  | .SMY_PDATA_WORD => portWrite d m i false (BitVec.ofNat 32 v)
  | .SMY_DDATA_WORD => portWrite d m i true (BitVec.ofNat 32 v)
  | f => if valueRefused f v then d else d.wr f i v

/-- One field of a written word is judged by its access code and change class (Tables 0-2, 0-3); the flag says that a Stopped-only field of
a running block kept its value. -/
def writeField (m : Master) (gen addr mask value : Nat) (r : Dev × Bool) (p : RegField × Nat) : Dev × Bool :=
  let (d, busy) := r
  let (f, i) := p
  if mask &&& f.mask = 0 then r
  else
    match f.desc.access with
    | .ro | .rc => r
    | .wo =>
      let abort := decide (f = .SYS_COMMIT_GO) && (mask &&& value).testBit 1
      (if laidIn f 0 mask value = 0 ∨ abort then d else triggerWrite d m f i, busy)
    | .w1 =>
      let v := laidIn f (d.rd f i) mask value
      (if v = d.rd f i then d else if d.rd f i = f.reset i then d.wr f i v else d.lockViol m addr, busy)
    | .wl =>
      (if d.on .SYS_LOCK_LOCK then d.lockViol m addr else d.wr f i (laidIn f (d.rd f i) mask value), busy)
    | .rw =>
      match f.desc.cls with
      | .live =>
        if f = .SAF_DBG_DATA_DATA then (debugWrite d m (laidIn f (debugWord d) mask value), busy)
        else (liveWrite d m ⟨f, i, laidIn f (liveValue d f i) mask value⟩, busy)
      | .committed => (committedWrite d gen ⟨f, i, laidIn f (pendingValue d f i) mask value⟩, busy)
      | .stopped =>
        match pairOfField f i with
        | some (q, false) => (pairFirst d m q (laidIn f ((SMap.get none d.sys.held q).getD (d.rd f i)) mask value), busy)
        | some (q, true) => (pairComplete d m q (laidIn f (d.rd f i) mask value), busy)
        | none =>
          let now := fieldView d f i
          let v := laidIn f now mask value
          if f = .SMY_PDATA_WORD ∨ f = .SMY_DDATA_WORD then (stoppedWrite d m f i v, busy)
          else if v = now then r
          else if blockRuns d f i then (d, true)
          else (stoppedWrite d m f i v, busy)
      | .direct => (d.wr f i (laidIn f (d.rd f i) mask value), busy)

/-- A written word reaches its block: each field by its own class (R455). -/
def writeWord (m : Master) (gen : Nat) (d : Dev) (w : WordWrite) : Dev :=
  let r := (wordFields w.addr).foldl (writeField m gen w.addr w.mask w.value) (d, false)
  if r.2 then r.1.busyReject m w.addr else r.1

/-- The write reaches the registers of its words: not the privileged ones of another master, nor unassigned addresses (R10, R450). -/
def reachable (m : Master) (w : WordWrite) : Bool :=
  (!privileged w.addr || privilegedMaster m) && !(wordFields w.addr).isEmpty

/-- Words written in one access: at once where the block has no BUSY bit, else a posted write, which a set BUSY bit drops (R18, R451). -/
def postWords (d : Dev) (m : Master) (ws : List WordWrite) : Dev :=
  match ws with
  | [] => d
  | w :: _ =>
    match busyOf w.addr with
    | none => ws.foldl (writeWord m d.sys.gen) d
    | some b =>
      let q := busyBit b
      if d.on q.1 q.2 then d.busyDrop m w.addr
      else onSys (d.wr q.1 q.2 1) fun x => { x with posted := x.posted ++ [⟨b, m, ws, x.gen⟩] }

/-- The mode forbids a write of this word by this master (R448): the flag of Hold. -/
def holdForbids (d : Dev) (m : Master) (addr : Nat) : Bool :=
  match m with
  | .lane _ => false
  | _ => decide (d.mode = .hold) && !(decide (addr < 0x1000) || decide (0xA000 ≤ addr ∧ addr < 0xB000))

/-- The write of a master is ignored whatever its address: in Boot, but for the lane cores (R448). -/
def bootIgnores (d : Dev) (m : Master) : Bool :=
  match m with
  | .lane _ => false
  | _ => decide (d.mode = .boot)

/-- A served write of words, by the mode (R448, R450). -/
def serveWrite (d : Dev) (m : Master) (ws : List WordWrite) : Dev :=
  let ws := ws.filter fun w => !privileged w.addr || privilegedMaster m
  match ws with
  | [] => d
  | w :: _ => if holdForbids d m w.addr then d.accessErr m w.addr else postWords d m (ws.filter (reachable m))

/-- REGISTER_WRITE: a write of BAR0, of 32 or 64 bits (R13, R446 to R451). -/
def execRegisterWrite (m : Master) (addr width value : Nat) (s : State) : Host.Outcome State Fault Refusal :=
  s.run fun d =>
    if !reaches' d m ∨ bootIgnores d m then d
    else if accessOk addr width then
      serveWrite d m ((accessWords addr width).zipIdx.map fun p => ⟨p.1, 0xFFFFFFFF, value / 2 ^ (32 * p.2) % 2 ^ 32⟩)
    else d.accessErr m addr

/-- POSTED_WRITE_COMPLETE: the posted write of BUSY bit `b` completes in its block, and the bit clears (R451). -/
def execPostedWriteComplete (b : Fin 45) (s : State) : Host.Outcome State Fault Refusal :=
  s.run fun d =>
    match d.sys.posted.find? fun p => decide (p.busy = b.val) with
    | none => d
    | some p =>
      let d := onSys d fun x => { x with posted := x.posted.erase p }
      let d := d.wr (busyBit b).1 (busyBit b).2 0
      p.words.foldl (writeWord p.master p.gen) d

/-! The bit-alias window (R460). -/

/-- An alias access that R446 and R460 serve: aligned, 32 bits, window enabled, inside it. -/
def aliasOk (d : Dev) (offset width : Nat) : Bool :=
  d.on .SYS_ACCESS_ALIAS_EN && decide (width = 32 ∧ offset % 4 = 0 ∧ offset < 0x200000)

/-- ALIAS_READ: bit 0 returns the aliased bit; an RC bit clears, and only it, but not for the debug port (R459, R460). -/
def execAliasRead (m : Master) (offset width : Nat) (s : State) : Host.Outcome State Fault Refusal :=
  s.run fun d =>
    if !reaches' d m then d.emit (.readData m 0)
    else if aliasOk d offset width then
      let a := aliasWord offset
      let b := aliasBit offset
      if d.readable m a then
        let d := beforeRead d a
        let d := if a = RegField.BLF_TIME_NS_NS.desc.base then d.put .BLF_FRAME_SNAP_NO d.frameNo else d
        let v := bitOf ((wordView d a).testBit b)
        let d := d.each (wordFields a) fun d p =>
          if p.1.desc.access = .rc ∧ m ≠ .debug ∧ p.1.mask.testBit b ∧ v = 1 then d.wrBit p.1 p.2 (b - p.1.desc.lo) false else d
        d.emit (.readData m v)
      else d.emit (.readData m 0)
    else (d.accessErr m (aliasWord offset)).emit (.readData m 0)

/-- ALIAS_WRITE: a write of one bit, judged as a write of its block (R460). -/
def execAliasWrite (m : Master) (offset width value : Nat) (s : State) : Host.Outcome State Fault Refusal :=
  s.run fun d =>
    if !reaches' d m ∨ bootIgnores d m then d
    else if aliasOk d offset width then
      serveWrite d m [⟨aliasWord offset, 2 ^ aliasBit offset, value % 2 * 2 ^ aliasBit offset⟩]
    else d.accessErr m (aliasWord offset)

/-- ACQUIRE_GO: a write of BLF_ACQUIRE.GO restarts acquisition (R61). -/
def execAcquireGo (m : Master) (s : State) : Host.Outcome State Fault Refusal :=
  s.run fun d => d.trigger m RegField.BLF_ACQUIRE_GO.desc.base (some (.BLF_STATUS_BUSY, 0)) acquireGo

end Sys2Proof.Machine
end

