-- ==== Sys2Proof/Machine/Frame.lean ====
section
/-!
DEFINITION. What happens at the ticks and at the latch instant of the frame: the frame tick, the application of a committed set, a change
of the frame period, and the common latch instant (R28, R48, R49, R55, R454).
-/
namespace Sys2Proof.Machine

/-! Live writes (R16, R456). -/

/-- One Live value takes effect, or one Live trigger acts. A queue enabled with SEQ_RESET written beside it clears its completion store. -/
def applyLive (resets : List Nat) (d : Dev) (p : Master × RegCell) : Dev :=
  let (m, c) := p
  let on := decide (c.value = 1)
  match c.field with
  | .STP_CTRL_RUN => stpRun d c.idx on
  | .FBK_CFG_EN =>
    let fresh := on && !d.on .FBK_CFG_EN c.idx
    (d.wr .FBK_CFG_EN c.idx c.value).when fresh fun d => fbEnable d c.idx
  | .ADC_SEQ_CTRL_EN => sequenceEnable d on
  | .MIL_TLM_CTRL_EN =>
    let fresh := on && !d.on .MIL_TLM_CTRL_EN
    (d.put .MIL_TLM_CTRL_EN c.value).when fresh tlmEnable
  | .MIL_TBL_G_G => gainWrite d m c.value
  | .HST_SQ_CFG_EN => sqEnable d m c.idx on (resets.contains c.idx)
  | .HST_SQ_CFG_SEQ_RESET => d
  | .HST_CQ_CFG_EN => cqEnable d m c.idx on
  | .HST_EVQ_CFG_EN => evqEnable d on
  | f =>
    if f.desc.access = .wo then triggerField d m f c.idx
    else if valueRefused f c.value then d else d.wr f c.idx c.value

/-- The Live values written since the last tick take effect. -/
def applyLives (d : Dev) : Dev :=
  let xs := d.sys.live
  let resets := (xs.filter fun p => decide (p.2.field = .HST_SQ_CFG_SEQ_RESET)).map fun p => p.2.idx
  (onSys d fun x => { x with live := [] }).each xs (applyLive resets)

/-! The tick (R49). -/

/-- What a tick does in the safety state of a lane: the degraded-mode timer counts down (R123), a tightening ramp moves (R126), channels
with a restored correction come nearer to their end (R373), an arbitration goes to its next frame (R96). -/
def laneTimers (d : Dev) (l : Lane) : Dev :=
  let r := rampFrames d (laneOf d l).image.params
  let d := onSaf d l fun y =>
    { y with
      degLeft := y.degLeft.map fun n => n - 1
      tightFr := if y.tight ∧ y.tightFr + 1 < r then y.tightFr + 1 else if !y.tight ∧ 1 < y.tightFr then y.tightFr - 1 else y.tightFr }
  onLane d l fun x =>
    { x with
      corrMiss := (x.corrMiss.map fun p => (p.1, p.2 - 1)).filter fun p => decide (0 < p.2)
      arb := { x.arb with phase := if x.arb.phase = 0 then 0 else min 3 (x.arb.phase + 1) } }

/-- Frames of DEG_LIMIT_MIN. -/
def degFrames (d : Dev) (c : SafetyConfig) : Nat := c.degLimitMin * 60000000000 / d.frameNs

/-- The degraded-mode timer starts at the first tick with exactly two lanes in service and no timer running, in Standstill, Run or
Degraded (R123). -/
def startDegraded (d : Dev) : Dev :=
  let ls := serviceLanes d
  let idle := ls.all fun l => (laneOf d l).saf.degLeft.isNone
  match d.mode with
  | .standstill | .run | .degraded =>
    if ls.length = 2 ∧ idle then
      d.each ls fun d l => onSaf d l fun y => { y with degLeft := some (degFrames d (laneOf d l).image.params) }
    else d
  | .boot | .hold | .safeState => d

/-- Frames of uninterrupted service of all three lanes without a fault (R109). -/
def countHealthy (d : Dev) : Dev :=
  { d with fault := { d.fault with healthyFr := if (serviceLanes d).length = 3 then d.fault.healthyFr + 1 else 0 } }

/-- IK_LOAD: once a second, the IK solves of the last second as a percentage of 16 arms at 2 kHz (R216, Table 7-13). -/
def ikLoad (d : Dev) : Dev :=
  if 1000000000 ≤ (d.pln.ikFrames + 1) * d.frameNs then
    onPln (d.wrSat .PLN_STATUS_IK_LOAD 0 (d.pln.ikSolves * 100 / 32000)) fun p => { p with ikSolves := 0, ikFrames := 0 }
  else onPln d fun p => { p with ikFrames := p.ikFrames + 1 }

/-- The ADC's part of a tick; at the first tick after reset no frame ends (R375, R377). -/
def adcAtTick (d : Dev) (ran : Bool) (ending : Nat) : Dev :=
  if ran then adcTick d ending else onAdc d fun x => { x with scanning := x.scanning || d.on .ADC_REF_READY }

/-- The trigger sources of a tick fire (Table 12-5). -/
def fireTick (d : Dev) : Dev :=
  let d := d.fire 1
  let d := if d.frameNo % 2 = 0 then d.fire 2 else d
  let d := onSmy d 0 fun c => { c with readyFired := false }
  onSmy d 1 fun c => { c with readyFired := false }

/-- What groups bring into force at a tick, and their registers (chapter 16). -/
def groupTick (d : Dev) : Dev := if 0 < levelsUsed d then showGroup (groupDue d) else d

/-- Every block's part of a tick; `contacts` gives each lane's snapshot of ch1 and ch2 of the safety inputs. -/
def tick (contacts : PerLane (Nat × Nat)) (d : Dev) : Dev :=
  let ending := d.frameNo
  let ran := d.tb.ticking
  let d := adcAtTick (timeTick d) ran ending
  let up := Lane.all.filter fun l => decide (laneMode d l ≠ .absent)
  let d := d.each up fun d l => laneTimers (laneTick d l (contacts.get l)) l
  let d := sepTick (countHealthy (startDegraded d))
  showPlan (groupTick (ikLoad (fireTick (adcCorrections (applyLives d)))))

/-- FRAME_TICK: the tick that ends a frame and begins the next (R49). None occurs while the shared blocks are in reset or a change of the
frame period waits for its first tick (R48). -/
def execFrameTick (contacts : PerLane (Nat × Nat)) (s : State) : Host.Outcome State Fault Refusal :=
  s.run fun d => if d.on .PWR_STATUS_SHARED_UP ∧ d.periodDue = none then tick contacts d else d

/-! The application of a set (R452 to R454). -/

/-- The elements of `fs` that a set names. -/
def setIndices (xs : List RegCell) (fs : List RegField) : List Nat :=
  ((xs.filter fun c => fs.contains c.field).map fun c => c.idx).dedup

/-- The value element `i` of `f` would have once the set applies. -/
def would (d : Dev) (xs : List RegCell) (f : RegField) (i : Nat) : Nat := setValue xs f i (d.rd f i)

/-- Every value of the set for element `i` of the fields `fs` applies. -/
def takeValues (d : Dev) (xs : List RegCell) (fs : List RegField) (i : Nat) : Dev :=
  d.each (xs.filter fun c => fs.contains c.field && decide (c.idx = i)) fun d c => d.wr c.field c.idx c.value

/-- The values of an output (Table 2-11). -/
def ttFields : List RegField :=
  [.BLF_TT_CTRL_MODE, .BLF_TT_CTRL_POL, .BLF_TT_START_NS, .BLF_TT_PERIOD_NS, .BLF_TT_WIDTH_NS, .BLF_TT_DIV_DIV, .BLF_TT_DIV_PHASE]

/-- The share of output `k`: an output whose values change is checked, and armed or refused (R70, R71). -/
def applyTt (xs : List RegCell) (d : Dev) (k : Nat) : Dev :=
  let v := fun f => would d xs f k
  if ttFields.all fun f => decide (v f = d.rd f k) then d
  else if ttRefused d.frameNs (v .BLF_TT_CTRL_MODE) (v .BLF_TT_WIDTH_NS) (v .BLF_TT_PERIOD_NS) (v .BLF_TT_START_NS) (v .BLF_TT_DIV_PHASE)
      (v .BLF_TT_DIV_DIV) then (d.flag .BLF_STATUS_TT_REJECT).event .TT_REJECT srcTime k
  else ttTake (ttLevel d k) (takeValues d xs ttFields k) k

/-- The values of a PTP port that apply as they are; ROLE 3 and DOMAIN above 127 are refused (Table 2-9). -/
def ptpFields : List RegField :=
  [.BLF_PTP_CFG_EN, .BLF_PTP_CFG_DELAY, .BLF_PTP_CFG_TRANSPORT, .BLF_PTP_CFG_LOG_SYNC, .BLF_PTP_CFG_LOG_DELAY, .BLF_PTP_LAT_RX_NS,
    .BLF_PTP_LAT_TX_NS]

/-- The share of PTP port `p`. -/
def applyPtp (xs : List RegCell) (d : Dev) (p : Nat) : Dev :=
  let d := takeValues d xs ptpFields p
  let d := if would d xs .BLF_PTP_CFG_ROLE p = 3 then d else takeValues d xs [.BLF_PTP_CFG_ROLE] p
  if 127 < would d xs .BLF_PTP_CFG_DOMAIN p then d else takeValues d xs [.BLF_PTP_CFG_DOMAIN] p

/-- A new latch offset that meets R54 is in force from the second tick after this one (R55). -/
def applyLatch (xs : List RegCell) (d : Dev) : Dev :=
  let v := would d xs .BLF_LATCH_OFFSET 0
  if v ≠ d.rd .BLF_LATCH_OFFSET ∧ latchOk d v then latchFrom2 (d.put .BLF_LATCH_OFFSET v) v else d

/-- The share of the time base (R54, R56, R59, R60, R70). -/
def applyTimeBase (xs : List RegCell) (d : Dev) : Dev :=
  let d := applyLatch xs d
  let d := d.put .BLF_JUMP_THR_THR_NS (max 100 (min 1000000 (would d xs .BLF_JUMP_THR_THR_NS 0)))
  let d := limitRate (d.put .BLF_SLEW_MAX_PPM (max 50 (min 500 (would d xs .BLF_SLEW_MAX_PPM 0))))
  let d := d.each (List.range 2) (applyPtp xs)
  let src := would d xs .BLF_CFG_SOURCE 0
  let d := if src = d.rd .BLF_CFG_SOURCE then d else sourceSelected (d.put .BLF_CFG_SOURCE src)
  d.each (setIndices xs ttFields) (applyTt xs)

/-- The values of a joint's parameters (Table 8-11); BANK is judged by R257. -/
def jointFields : List RegField :=
  [.MIL_J_CTRL_OUT_INV, .MIL_J_OBS_F_OBS, .MIL_J_KVF_V, .MIL_J_KAF_V, .MIL_J_KV_V, .MIL_J_KI_V, .MIL_J_UMAX_U, .MIL_J_DUMAX_DU,
    .MIL_J_UOFF_U]

/-- The share of joint `j`: every pending value is refused if a check fails (R253, R260); a new BANK is validated (R257). -/
def applyJoint (xs : List RegCell) (d : Dev) (j : Nat) : Dev :=
  if millParamsOk d fun f => would d xs f j then
    let d := takeValues d xs jointFields j
    let b := would d xs .MIL_J_CTRL_BANK j
    if b = d.rd .MIL_J_CTRL_BANK j then d else switchBank d j b
  else paramReject d j

/-- The Committed values of a feedback port (Table 11-4). -/
def portFields : List RegField :=
  [.FBK_CFG_REF_MODE, .FBK_OBS_F_OBS, .FBK_VLOW_V, .FBK_EIMAX_US, .FBK_SER2_MAXD, .FBK_PRESET_Y]

/-- The share of feedback port `k`: every commit checks its configuration; its new values are refused if it fails (R336, R347, R348). -/
def applyPort (xs : List RegCell) (d : Dev) (k : Nat) : Dev :=
  if fbConfigOk d k (would d xs .FBK_OBS_F_OBS k) (d.rd .BLF_LATCH_OFFSET) d.frameNs then takeValues d xs portFields k
  else fbReject d k

/-- The Committed values of a step port (Table 11-5). -/
def stepFields : List RegField :=
  [.STP_CFG_STALL_ACT, .STP_CFG_DEV_EN, .STP_WAKE_WAKE_US, .STP_WAKE_IDLE_MS, .STP_ENC_ENC_NUM, .STP_ENC_ENC_DEN, .STP_DEV_DEV_WIN,
    .STP_DEV_STALL_FR, .STP_STALL_STEPS]

/-- The share of step port `k`; STANDBY 3 is refused. -/
def applyStep (xs : List RegCell) (d : Dev) (k : Nat) : Dev :=
  let d := takeValues d xs stepFields k
  if would d xs .STP_CFG_STANDBY k = 3 then d else takeValues d xs [.STP_CFG_STANDBY] k

/-- Every block applies its share of the set. -/
def applySet (d : Dev) (xs : List RegCell) : Dev :=
  let d := applyTimeBase xs d
  let d := takeValues d xs [.PLN_CFG2_ZONE_WAIT, .ADC_CFG_LP] 0
  let d := d.each (setIndices xs (.MIL_J_CTRL_BANK :: jointFields)) (applyJoint xs)
  let d := d.each (List.range 16) (applyPort xs)
  let d := d.each (setIndices xs (.STP_CFG_STANDBY :: stepFields)) (applyStep xs)
  d.each (List.range 2) fun d n => takeValues d xs [.SMY_BUDGET_CLK] n

/-- An armed set whose tick has come. -/
def setDue (d : Dev) (a : ArmedSet) : Bool := decide (signedOf 32 (fieldOf 32 ((a.frame : Int) - d.frameNo)) ≤ 0)

/-- The values of several sets applied together: the later value of a field governs (R453). -/
def mergeSets (xs : List ArmedSet) : List RegCell := xs.foldl (fun ys a => a.cells.foldl setPut ys) []

/-- The sets due apply, and COMMIT_FRAME and COUNT show it. -/
def commitApply (d : Dev) : Dev :=
  let due := d.sys.armed.filter fun a => setDue d a
  if due.isEmpty then d
  else
    let d := onSys d fun x => { x with armed := x.armed.filter fun a => !setDue d a }
    let d := applySet d (mergeSets due)
    (d.put .SYS_COMMIT_FRAME_FRAME d.frameNo).put .SYS_COMMIT_STAT_COUNT (d.rd .SYS_COMMIT_STAT_COUNT + due.length)

/-- COMMIT_APPLY: at its tick the armed set is checked and applied (R452, R454). -/
def execCommitApply (s : State) : Host.Outcome State Fault Refusal := s.run commitApply

/-! A change of the frame period (R48). -/

/-- Timers that count frames go on over the same time. -/
def rescaleTimers (d : Dev) (old new : Nat) : Dev :=
  let d := { d with fault := { d.fault with healthyFr := d.fault.healthyFr * old / new } }
  d.each Lane.all fun d l => onSaf d l fun y => { y with degLeft := y.degLeft.map fun n => n * old / new }

/-- The first tick at the new period `p`: at the next extended device time that is a multiple of it; the rings and groups restart, the
Planner, the loop engines, the local axes and the scheduler change over, and sets armed before apply at this tick (R48, R463). -/
def changePeriod (contacts : PerLane (Nat × Nat)) (p : Nat) (d : Dev) : Dev :=
  let old := d.periodUnits
  let t := d.nextTick
  let d := ({ d with periodDue := none }.put .BLF_CFG_PERIOD p)
  let d := tick contacts { d with tb := { d.tb with tickAt := t - d.frameNs }, monitorFr := 0 }
  let d := rescaleTimers (rescaleDelays d d.frameNo old d.periodUnits) old d.periodUnits
  let d := groupRestart (axesPeriod (millPeriod (planPeriod (slewPeriod d.periodUnits d))))
  let d := onSys d fun x => { x with armed := x.armed.map fun a => { a with frame := d.frameNo } }
  let d := d.each Lane.all fun d l => onRing d l fun r => { r with startDue := true }
  d.event .PERIOD_CHANGED srcTime

/-- PERIOD_CHANGE: the change that a new configuration has brought about takes effect (R47, R48). -/
def execPeriodChange (contacts : PerLane (Nat × Nat)) (s : State) : Host.Outcome State Fault Refusal :=
  s.run fun d =>
    match d.periodDue with
    | some p => if d.on .PWR_STATUS_SHARED_UP then changePeriod contacts p d else d
    | none => d

/-! The latch instant (R55). -/

/-- LATCH_INSTANT: the local ports latch outputs and sample inputs, step ports compute their steps, and the latch trigger fires (R55,
Table 12-5). -/
def execLatchInstant (s : State) : Host.Outcome State Fault Refusal :=
  s.run fun d => if d.tb.ticking then (latchPorts (d.reach (latchNs d))).fire 3 else d

end Sys2Proof.Machine
end

