-- ==== Sys2Proof/Machine/Dispatch.lean ====
section
/-!
DEFINITION. One arm for each command of the table: its meaning, with the queue's rest.
-/
namespace Sys2Proof.Machine

/-- The effect of a command on everything but the queue. -/
def exec (i : Instr) (s : State) : Host.Outcome State Fault Refusal :=
  match i with
  | .registerWrite m addr width value => Sys2Proof.Machine.execRegisterWrite m addr width value s
  | .readClear m addr width => Sys2Proof.Machine.execReadClear m addr width s
  | .timeNsRead m => Sys2Proof.Machine.execTimeNsRead m s
  | .postedWriteComplete b => Sys2Proof.Machine.execPostedWriteComplete b s
  | .commitGo m => Sys2Proof.Machine.execCommitGo m s
  | .commitArm => Sys2Proof.Machine.execCommitArm s
  | .commitApply => Sys2Proof.Machine.execCommitApply s
  | .commitAbort m => Sys2Proof.Machine.execCommitAbort m s
  | .pairFirstWordWrite m p value => Sys2Proof.Machine.execPairFirstWordWrite m p value s
  | .pairCompletingWrite m p value => Sys2Proof.Machine.execPairCompletingWrite m p value s
  | .lockWrite m value => Sys2Proof.Machine.execLockWrite m value s
  | .adcRefEnWrite m value => Sys2Proof.Machine.execAdcRefEnWrite m value s
  | .aliasRead m offset width => Sys2Proof.Machine.execAliasRead m offset width s
  | .aliasWrite m offset width value => Sys2Proof.Machine.execAliasWrite m offset width value s
  | .regdigGo m => Sys2Proof.Machine.execRegdigGo m s
  | .regdigSnapshot => Sys2Proof.Machine.execRegdigSnapshot s
  | .regdigDone => Sys2Proof.Machine.execRegdigDone s
  | .dbgWindowAccess m write value => Sys2Proof.Machine.execDbgWindowAccess m write value s
  | .frameTick contacts => Sys2Proof.Machine.execFrameTick contacts s
  | .tickLost miss => Sys2Proof.Machine.execTickLost miss s
  | .periodChange contacts => Sys2Proof.Machine.execPeriodChange contacts s
  | .latchInstant => Sys2Proof.Machine.execLatchInstant s
  | .offsetMeasurement => Sys2Proof.Machine.execOffsetMeasurement s
  | .slewEnd => Sys2Proof.Machine.execSlewEnd s
  | .sourceLossTimeout => Sys2Proof.Machine.execSourceLossTimeout s
  | .acquireGo m => Sys2Proof.Machine.execAcquireGo m s
  | .ptpSyncReceived port twoStep domain seq c => Sys2Proof.Machine.execPtpSyncReceived port twoStep domain seq c s
  | .ptpFollowUpReceived port domain seq origin => Sys2Proof.Machine.execPtpFollowUpReceived port domain seq origin s
  | .ptpDelayRespReceived port domain seq receive transmit => Sys2Proof.Machine.execPtpDelayRespReceived port domain seq receive transmit s
  | .ptpDelayReqReceived port domain seq => Sys2Proof.Machine.execPtpDelayReqReceived port domain seq s
  | .ptpSyncTransmit port => Sys2Proof.Machine.execPtpSyncTransmit port s
  | .ttPulseStart k => Sys2Proof.Machine.execTtPulseStart k s
  | .ttPulseEnd k => Sys2Proof.Machine.execTtPulseEnd k s
  | .closePhase late => Sys2Proof.Machine.execClosePhase late s
  | .closeWindowEnd => Sys2Proof.Machine.execCloseWindowEnd s
  | .marshalling => Sys2Proof.Machine.execMarshalling s
  | .preparePhase late => Sys2Proof.Machine.execPreparePhase late s
  | .prepareWindowEnd => Sys2Proof.Machine.execPrepareWindowEnd s
  | .storeDrain a => Sys2Proof.Machine.execStoreDrain a s
  | .spareKat p pass => Sys2Proof.Machine.execSpareKat p pass s
  | .engineFault p kat => Sys2Proof.Machine.execEngineFault p kat s
  | .engineMigration e bad => Sys2Proof.Machine.execEngineMigration e bad s
  | .telemetryRecord => Sys2Proof.Machine.execTelemetryRecord s
  | .gainTableWrite m v => Sys2Proof.Machine.execGainTableWrite m v s
  | .cycleLaunch => Sys2Proof.Machine.execCycleLaunch s
  | .cycleReturn l c => Sys2Proof.Machine.execCycleReturn l c s
  | .cycleCompletionLimit => Sys2Proof.Machine.execCycleCompletionLimit s
  | .lateCopyReceived l port => Sys2Proof.Machine.execLateCopyReceived l port s
  | .entPortDown l q => Sys2Proof.Machine.execEntPortDown l q s
  | .entPortUp l q => Sys2Proof.Machine.execEntPortUp l q s
  | .bypassOpen l => Sys2Proof.Machine.execBypassOpen l s
  | .startSequence l => Sys2Proof.Machine.execStartSequence l s
  | .foreignFrameReceived l masterId => Sys2Proof.Machine.execForeignFrameReceived l masterId s
  | .enumerationReturn l c => Sys2Proof.Machine.execEnumerationReturn l c s
  | .enumRetry l => Sys2Proof.Machine.execEnumRetry l s
  | .frameRecordSend l bent => Sys2Proof.Machine.execFrameRecordSend l bent s
  | .frameRecordReceived rx tx a r => Sys2Proof.Machine.execFrameRecordReceived rx tx a r s
  | .positionRecordSend l => Sys2Proof.Machine.execPositionRecordSend l s
  | .positionRecordReceived rx tx a r => Sys2Proof.Machine.execPositionRecordReceived rx tx a r s
  | .resultRecordReceived rx tx a r => Sys2Proof.Machine.execResultRecordReceived rx tx a r s
  | .bulkBlockReceived x good => Sys2Proof.Machine.execBulkBlockReceived x good s
  | .agreeValues l => Sys2Proof.Machine.execAgreeValues l s
  | .laneEvaluation l => Sys2Proof.Machine.execLaneEvaluation l s
  | .evaluationWindowEnd l => Sys2Proof.Machine.execEvaluationWindowEnd l s
  | .safetyBufferLoad l w => Sys2Proof.Machine.execSafetyBufferLoad l w s
  | .lockstepMismatch l => Sys2Proof.Machine.execLockstepMismatch l s
  | .faultLatchTimeout l => Sys2Proof.Machine.execFaultLatchTimeout l s
  | .memUe l => Sys2Proof.Machine.execMemUe l s
  | .memoryScrub l corrected uncorrectable => Sys2Proof.Machine.execMemoryScrub l corrected uncorrectable s
  | .cmpTest l ok => Sys2Proof.Machine.execCmpTest l ok s
  | .digestPass l => Sys2Proof.Machine.execDigestPass l s
  | .arbStart sigs => Sys2Proof.Machine.execArbStart sigs s
  | .arbJudge l => Sys2Proof.Machine.execArbJudge l s
  | .arbOutcome => Sys2Proof.Machine.execArbOutcome s
  | .reloadChunkSend x => Sys2Proof.Machine.execReloadChunkSend x s
  | .reloadVerify x => Sys2Proof.Machine.execReloadVerify x s
  | .imageSwitch => Sys2Proof.Machine.execImageSwitch s
  | .resyncSnapshot x => Sys2Proof.Machine.execResyncSnapshot x s
  | .snapshotLoad x => Sys2Proof.Machine.execSnapshotLoad x s
  | .laneRejoin x => Sys2Proof.Machine.execLaneRejoin x s
  | .debugEnter l => Sys2Proof.Machine.execDebugEnter l s
  | .degTimerExpired => Sys2Proof.Machine.execDegTimerExpired s
  | .degTimerStop => Sys2Proof.Machine.execDegTimerStop s
  | .tighteningRampEnd => Sys2Proof.Machine.execTighteningRampEnd s
  | .sepPassStart l => Sys2Proof.Machine.execSepPassStart l s
  | .sepPassEnd l complete done => Sys2Proof.Machine.execSepPassEnd l complete done s
  | .siFilteredChange ch => Sys2Proof.Machine.execSiFilteredChange ch s
  | .siDiscrepancy ch => Sys2Proof.Machine.execSiDiscrepancy ch s
  | .ackPulse ch => Sys2Proof.Machine.execAckPulse ch s
  | .standstillReached u => Sys2Proof.Machine.execStandstillReached u s
  | .stopTimeLimit u => Sys2Proof.Machine.execStopTimeLimit u s
  | .stoDelayExpired u => Sys2Proof.Machine.execStoDelayExpired u s
  | .brakeReleaseDelay u => Sys2Proof.Machine.execBrakeReleaseDelay u s
  | .localSs1Timeout k => Sys2Proof.Machine.execLocalSs1Timeout k s
  | .driveStoAckTimeout u => Sys2Proof.Machine.execDriveStoAckTimeout u s
  | .ptLightTestStart k => Sys2Proof.Machine.execPtLightTestStart k s
  | .ptDarkTestStart k => Sys2Proof.Machine.execPtDarkTestStart k s
  | .ptStepStart k => Sys2Proof.Machine.execPtStepStart k s
  | .ptStepEnd k => Sys2Proof.Machine.execPtStepEnd k s
  | .ptDue k => Sys2Proof.Machine.execPtDue k s
  | .ptIntervalExpired k => Sys2Proof.Machine.execPtIntervalExpired k s
  | .pkgCheckDone => Sys2Proof.Machine.execPkgCheckDone s
  | .packageApply => Sys2Proof.Machine.execPackageApply s
  | .imageVerifyDone l => Sys2Proof.Machine.execImageVerifyDone l s
  | .bootTimeout => Sys2Proof.Machine.execBootTimeout s
  | .selftestDone l => Sys2Proof.Machine.execSelftestDone l s
  | .selftestTimeout l => Sys2Proof.Machine.execSelftestTimeout l s
  | .supervisorPowerOn present => Sys2Proof.Machine.execSupervisorPowerOn present s
  | .converterStart l => Sys2Proof.Machine.execConverterStart l s
  | .converterRegulation l => Sys2Proof.Machine.execConverterRegulation l s
  | .converterStop l => Sys2Proof.Machine.execConverterStop l s
  | .convFault l => Sys2Proof.Machine.execConvFault l s
  | .deviceResetRelease => Sys2Proof.Machine.execDeviceResetRelease s
  | .laneResetRelease l => Sys2Proof.Machine.execLaneResetRelease l s
  | .supplyWarn l => Sys2Proof.Machine.execSupplyWarn l s
  | .supplyOk l => Sys2Proof.Machine.execSupplyOk l s
  | .supplyReset l => Sys2Proof.Machine.execSupplyReset l s
  | .supplyResetRelease l => Sys2Proof.Machine.execSupplyResetRelease l s
  | .resetNAssert => Sys2Proof.Machine.execResetNAssert s
  | .trstNAssert => Sys2Proof.Machine.execTrstNAssert s
  | .clkFault k input => Sys2Proof.Machine.execClkFault k input s
  | .clkOk k => Sys2Proof.Machine.execClkOk k s
  | .tempWarn t => Sys2Proof.Machine.execTempWarn t s
  | .tempLimit t => Sys2Proof.Machine.execTempLimit t s
  | .supervisorMeasurement m => Sys2Proof.Machine.execSupervisorMeasurement m s
  | .clrLog m => Sys2Proof.Machine.execClrLog m s
  | .challenge => Sys2Proof.Machine.execChallenge s
  | .response sc value late => Sys2Proof.Machine.execResponse sc value late s
  | .idcode => Sys2Proof.Machine.execIdcode s
  | .bypass => Sys2Proof.Machine.execBypass s
  | .fbEdge k a b z stamp => Sys2Proof.Machine.execFbEdge k a b z stamp s
  | .fbObserverStep k ch => Sys2Proof.Machine.execFbObserverStep k ch s
  | .ssiTransferDone k idleHigh w1 sep w2 => Sys2Proof.Machine.execSsiTransferDone k idleHigh w1 sep w2 s
  | .bissCycleDone k start delayNs pos nE nW crc => Sys2Proof.Machine.execBissCycleDone k start delayNs pos nE nW crc s
  | .fbClr m k => Sys2Proof.Machine.execFbClr m k s
  | .fbPreset m k => Sys2Proof.Machine.execFbPreset m k s
  | .stepPulse k => Sys2Proof.Machine.execStepPulse k s
  | .stepStandby k => Sys2Proof.Machine.execStepStandby k s
  | .stpRunSet m k v => Sys2Proof.Machine.execStpRunSet m k v s
  | .rearm m k => Sys2Proof.Machine.execRearm m k s
  | .repOutput k => Sys2Proof.Machine.execRepOutput k s
  | .adcRefReady => Sys2Proof.Machine.execAdcRefReady s
  | .monitorRound s0 s1 => Sys2Proof.Machine.execMonitorRound s0 s1 s
  | .adcSeqGo m => Sys2Proof.Machine.execAdcSeqGo m s
  | .adcSeqTrigger => Sys2Proof.Machine.execAdcSeqTrigger s
  | .adcSeqEnable m v => Sys2Proof.Machine.execAdcSeqEnable m v s
  | .adcEntryEnd v samples => Sys2Proof.Machine.execAdcEntryEnd v samples s
  | .adcSeqEnd => Sys2Proof.Machine.execAdcSeqEnd s
  | .adcUaSumRead m u => Sys2Proof.Machine.execAdcUaSumRead m u s
  | .adcUaClr m u => Sys2Proof.Machine.execAdcUaClr m u s
  | .smyRunStart n => Sys2Proof.Machine.execSmyRunStart n s
  | .smyStart m n => Sys2Proof.Machine.execSmyStart m n s
  | .smyHaltReq m n => Sys2Proof.Machine.execSmyHaltReq m n s
  | .smyBudgetExceeded n => Sys2Proof.Machine.execSmyBudgetExceeded n s
  | .smyPortAccess m n data write => Sys2Proof.Machine.execSmyPortAccess m n data write s
  | .nop n => Sys2Proof.Machine.execNop n s
  | .mac n sb a xa ya => Sys2Proof.Machine.execMac n sb a xa ya s
  | .msu n sb a xa ya => Sys2Proof.Machine.execMsu n sb a xa ya s
  | .mpy n sb a xa ya => Sys2Proof.Machine.execMpy n sb a xa ya s
  | .macd n sb a xa dm => Sys2Proof.Machine.execMacd n sb a xa dm s
  | .lda n a ms ad => Sys2Proof.Machine.execLda n a ms ad s
  | .ada n sb a ms ad => Sys2Proof.Machine.execAda n sb a ms ad s
  | .sta n sb a ms rnd ad => Sys2Proof.Machine.execSta n sb a ms rnd ad s
  | .ldd n dd ms ad => Sys2Proof.Machine.execLdd n dd ms ad s
  | .std n dd ms ad => Sys2Proof.Machine.execStd n dd ms ad s
  | .ldi n dd imm => Sys2Proof.Machine.execLdi n dd imm s
  | .sha n sb a sh => Sys2Proof.Machine.execSha n sb a sh s
  | .mvad n sb a dd rnd => Sys2Proof.Machine.execMvad n sb a dd rnd s
  | .adda n sb a sub => Sys2Proof.Machine.execAdda n sb a sub s
  | .clra n a => Sys2Proof.Machine.execClra n a s
  | .mvs n dd sel => Sys2Proof.Machine.execMvs n dd sel s
  | .srch n ms ad => Sys2Proof.Machine.execSrch n ms ad s
  | .srcl n => Sys2Proof.Machine.execSrcl n s
  | .rep n r => Sys2Proof.Machine.execRep n r s
  | .jmp n addr => Sys2Proof.Machine.execJmp n addr s
  | .br n a cond addr => Sys2Proof.Machine.execBr n a cond addr s
  | .djnz n dd addr => Sys2Proof.Machine.execDjnz n dd addr s
  | .ldp n tgt imm => Sys2Proof.Machine.execLdp n tgt imm s
  | .smyIn n a clr port => Sys2Proof.Machine.execIn n a clr port s
  | .smyOut n sb a src dd k => Sys2Proof.Machine.execOut n sb a src dd k s
  | .trig n t => Sys2Proof.Machine.execTrig n t s
  | .sig n imm => Sys2Proof.Machine.execSig n imm s
  | .halt n => Sys2Proof.Machine.execHalt n s
  | .illegalInstruction n => Sys2Proof.Machine.execIllegalInstruction n s
  | .take c => Sys2Proof.Machine.execTake c s
  | .done c success result => Sys2Proof.Machine.execDone c success result s
  | .yield c => Sys2Proof.Machine.execYield c s
  | .wait c timeout => Sys2Proof.Machine.execWait c timeout s
  | .sleep c arg => Sys2Proof.Machine.execSleep c arg s
  | .signal c t => Sys2Proof.Machine.execSignal c t s
  | .enqueue src q ch => Sys2Proof.Machine.execEnqueue src q ch s
  | .rveCancel c ch => Sys2Proof.Machine.execRveCancel c ch s
  | .create c t thread prio affinity flow => Sys2Proof.Machine.execCreate c t thread prio affinity flow s
  | .delete c t => Sys2Proof.Machine.execDelete c t s
  | .slotPrefetch => Sys2Proof.Machine.execSlotPrefetch s
  | .flowRelease f => Sys2Proof.Machine.execFlowRelease f s
  | .delayExpiry => Sys2Proof.Machine.execDelayExpiry s
  | .rveOverlong c => Sys2Proof.Machine.execRveOverlong c s
  | .doorbellPoll block => Sys2Proof.Machine.execDoorbellPoll block s
  | .submissionFetch entry => Sys2Proof.Machine.execSubmissionFetch entry s
  | .moveJ a => Sys2Proof.Machine.execMoveJ a s
  | .moveL a => Sys2Proof.Machine.execMoveL a s
  | .moveC a => Sys2Proof.Machine.execMoveC a s
  | .moveP a => Sys2Proof.Machine.execMoveP a s
  | .gearIn a => Sys2Proof.Machine.execGearIn a s
  | .gearOut a => Sys2Proof.Machine.execGearOut a s
  | .camIn a => Sys2Proof.Machine.execCamIn a s
  | .camOut a => Sys2Proof.Machine.execCamOut a s
  | .zoneRelease a => Sys2Proof.Machine.execZoneRelease a s
  | .override sq rsn => Sys2Proof.Machine.execOverride sq rsn s
  | .stopAndFlush sq rsn => Sys2Proof.Machine.execStopAndFlush sq rsn s
  | .feedHold sq rsn => Sys2Proof.Machine.execFeedHold sq rsn s
  | .resume sq rsn => Sys2Proof.Machine.execResume sq rsn s
  | .loadTable sq rsn bytes => Sys2Proof.Machine.execLoadTable sq rsn bytes s
  | .queryArm sq rsn => Sys2Proof.Machine.execQueryArm sq rsn s
  | .plannerCommit => Sys2Proof.Machine.execPlannerCommit s
  | .zoneGrant a => Sys2Proof.Machine.execZoneGrant a s
  | .zoneTimeout a => Sys2Proof.Machine.execZoneTimeout a s
  | .syncStart tag => Sys2Proof.Machine.execSyncStart tag s
  | .atFrameStart a => Sys2Proof.Machine.execAtFrameStart a s
  | .commandEndFrame a => Sys2Proof.Machine.execCommandEndFrame a s
  | .speedCap a => Sys2Proof.Machine.execSpeedCap a s
  | .safetyStopDecision a => Sys2Proof.Machine.execSafetyStopDecision a s
  | .cancel sq rsn => Sys2Proof.Machine.execCancel sq rsn s
  | .getStatus sq rsn => Sys2Proof.Machine.execGetStatus sq rsn s
  | .getTopology sq rsn => Sys2Proof.Machine.execGetTopology sq rsn s
  | .readLog sq rsn => Sys2Proof.Machine.execReadLog sq rsn s
  | .motionEnable sq rsn => Sys2Proof.Machine.execMotionEnable sq rsn s
  | .unitEnable sq rsn => Sys2Proof.Machine.execUnitEnable sq rsn s
  | .brakeTest sq rsn => Sys2Proof.Machine.execBrakeTest sq rsn s
  | .fwDownload sq rsn image crcOk => Sys2Proof.Machine.execFwDownload sq rsn image crcOk s
  | .fwActivate sq rsn => Sys2Proof.Machine.execFwActivate sq rsn s
  | .pkgDownload sq rsn p crcOk => Sys2Proof.Machine.execPkgDownload sq rsn p crcOk s
  | .deviceReset sq rsn => Sys2Proof.Machine.execDeviceReset sq rsn s
  | .deviceResetExecute => Sys2Proof.Machine.execDeviceResetExecute s
  | .sqEnable m q en seqReset => Sys2Proof.Machine.execSqEnable m q en seqReset s
  | .cqEnable m q en => Sys2Proof.Machine.execCqEnable m q en s
  | .evqEnable m en => Sys2Proof.Machine.execEvqEnable m en s
  | .eventCopy => Sys2Proof.Machine.execEventCopy s
  | .msixHint unmasked => Sys2Proof.Machine.execMsixHint unmasked s
  | .hstLinkDown => Sys2Proof.Machine.execHstLinkDown s
  | .hstLinkUp => Sys2Proof.Machine.execHstLinkUp s
  | .groupCycleStart l => Sys2Proof.Machine.execGroupCycleStart l s
  | .memberFrameSend l => Sys2Proof.Machine.execMemberFrameSend l s
  | .stewardFrameReceived f => Sys2Proof.Machine.execStewardFrameReceived f s
  | .memberFrameReceived f => Sys2Proof.Machine.execMemberFrameReceived f s
  | .groupCommandFrame f => Sys2Proof.Machine.execGroupCommandFrame f s
  | .groupCompletionFrame f => Sys2Proof.Machine.execGroupCompletionFrame f s
  | .stewardElection l => Sys2Proof.Machine.execStewardElection l s
  | .grpMemberLost l m => Sys2Proof.Machine.execGrpMemberLost l m s
  | .grpStewardLost l => Sys2Proof.Machine.execGrpStewardLost l s
  | .grpFrameAlign l => Sys2Proof.Machine.execGrpFrameAlign l s
  | .grpQuarantineEnd l => Sys2Proof.Machine.execGrpQuarantineEnd l s
  | .grpRejoin m => Sys2Proof.Machine.execGrpRejoin m s
  | .supervisorPowerLoss => Sys2Proof.Machine.execSupervisorPowerLoss s
  | .rcFault => Sys2Proof.Machine.execRcFault s
  | .debugExit l => Sys2Proof.Machine.execDebugExit l s
  | .ptpDelayReqTransmit port => Sys2Proof.Machine.execPtpDelayReqTransmit port s
  | .maintenancePacketReceived port q ch => Sys2Proof.Machine.execMaintenancePacketReceived port q ch s
  | .fwActivateVerified => Sys2Proof.Machine.execFwActivateVerified s
  | .fwDownloadWritten flashFault => Sys2Proof.Machine.execFwDownloadWritten flashFault s

end Sys2Proof.Machine
end

