-- ==== Sys2Proof/Machine/Step.lean ====
section
/-!
DEFINITION. One step: the command at the front of the queue, or, while none waits, one clock of the time base.
-/
namespace Sys2Proof.Machine

/-- Nothing waits: one 125 MHz clock passes and nothing is emitted (R50). DESIGN CHOICE, safe to extend: log entry 1. -/
def idle (s : State) : Host.Outcome State Fault Refusal := s.run Dev.clock

/-- Take the command at the front of the queue and run its effect with the queue's rest. -/
def step (s : State) : Host.Outcome State Fault Refusal :=
  match s.pending with
  | [] => idle s
  | c :: rest => exec c { s with pending := rest }

/-- `s` with the command that a word spells put at the front of its queue; unchanged where it spells none. -/
def State.withFetchWord (s : State) (nbits w : Nat) : State :=
  match decodeTableWord nbits w with
  | some c => { s with pending := c :: s.pending }
  | none => s

end Sys2Proof.Machine
end

