-- ==== Sys2Proof/Safety.lean ====
section
/-!
DEFINITION. The terms claims are stated in: what a command may touch and what it leaves alone, the canonical form of the register
file, and when a lane's outputs are in their safe state.
-/
namespace Sys2Proof.Machine

/-- The parts of the device beside its register file and its outputs of the step. -/
inductive Part where
  | free | sys | log | tb | lanes | rings | motion | monitorFr | fault | flash | keys | pkg | periodDue | pwr | axes | adc | smy0 | smy1
  | rve | host | pln | mil | grp
  deriving DecidableEq, Repr

/-- Two devices agree in a part. -/
def Part.same (p : Part) (d e : Dev) : Prop :=
  match p with
  | .free => e.free = d.free
  | .sys => e.sys = d.sys
  | .log => e.log = d.log
  | .tb => e.tb = d.tb
  | .lanes => e.lanes = d.lanes
  | .rings => e.rings = d.rings
  | .motion => e.motion = d.motion
  | .monitorFr => e.monitorFr = d.monitorFr
  | .fault => e.fault = d.fault
  | .flash => e.flash = d.flash
  | .keys => e.keys = d.keys
  | .pkg => e.pkg = d.pkg
  | .periodDue => e.periodDue = d.periodDue
  | .pwr => e.pwr = d.pwr
  | .axes => e.axes = d.axes
  | .adc => e.adc = d.adc
  | .smy0 => e.smy0 = d.smy0
  | .smy1 => e.smy1 = d.smy1
  | .rve => e.rve = d.rve
  | .host => e.host = d.host
  | .pln => e.pln = d.pln
  | .mil => e.mil = d.mil
  | .grp => e.grp = d.grp

/-- What a command leaves alone: every register but those of the fields listed as a whole and the elements listed one by one, and every
part of the device but those listed. -/
structure SameBut (d e : Dev) (fields : List RegField) (elements : List (RegField × Nat)) (parts : List Part) : Prop where
  regs : ∀ f i, f ∉ fields → (f, i) ∉ elements → e.rd f i = d.rd f i
  rest : ∀ p, p ∉ parts → p.same d e

/-- The register elements an event record of a source changes (Table 15-7). -/
def recordRegs (source : Nat) : List (RegField × Nat) :=
  [(.CRI_LOG_OLD_SEQ, 0), (.CRI_LOG_NEW_SEQ, 0), (.CRI_LOG_OVW_CNT, 0), (.CRI_SRC_CNT_N, source), (.CRI_SRC_LAST_CODE, source),
   (.CRI_SRC_LAST_FRAME, source)]

/-- The register file is in its canonical form: equal register files are equal data. -/
def Dev.regsOk (d : Dev) : Prop := RegFile.wf d.regs = true

/-- A command completes: it answers a next state in which the queue is as it was and `post` holds of the device. -/
def Answers (c : Instr) (s : State) (post : Dev → Prop) : Prop := ∃ t, exec c s = .next t ∧ t.pending = s.pending ∧ post t.dev

/-- A command completes and nothing changes but the registers and parts listed. -/
def Touches (c : Instr) (s : State) (fields : List RegField) (elements : List (RegField × Nat)) (parts : List Part) : Prop :=
  Answers c s fun e => SameBut s.dev e fields elements parts

/-- A command completes, nothing changes but the registers and parts listed, and `post` holds of the device. -/
def Completes (c : Instr) (s : State) (elements : List (RegField × Nat)) (parts : List Part) (post : Dev → Prop) : Prop :=
  Answers c s fun e => SameBut s.dev e [] elements parts ∧ post e

/-- The fields an event record may change, whatever its source. -/
def recordFields : List RegField :=
  [.CRI_LOG_OLD_SEQ, .CRI_LOG_NEW_SEQ, .CRI_LOG_OVW_CNT, .CRI_SRC_CNT_N, .CRI_SRC_LAST_CODE, .CRI_SRC_LAST_FRAME]

/-- A lane's outputs are in their safe state: no gate is energised and SAFE_OK is low (R135, R319). -/
def LaneState.safe (x : LaneState) : Prop := x.gates = 0 ∧ x.safeOk = false

/-- Lane `l` is out of service through its fault latch: outputs safe, the latch shown, state FAULTED (R79). -/
def Dev.latchedOut (d : Dev) (l : Lane) : Prop :=
  (d.lanes.get l).latch = true ∧ (d.lanes.get l).safe ∧ d.rd .LN_STATUS_FAULT_LATCH l.idx = 1 ∧ d.rd .LN_STATUS_STATE l.idx = 7

/-- Every lane's outputs are in their safe state. -/
def Dev.safe (d : Dev) : Prop := ∀ l : Lane, (d.lanes.get l).safe

/-- The Live writes that wait are of fields that a write reaches: RW fields of class Live and triggers (R13, R456). -/
abbrev Dev.liveOk (d : Dev) : Prop :=
  ∀ p ∈ d.sys.live, (p.2.field.desc.access = .rw ∧ p.2.field.desc.cls = .live) ∨ p.2.field.desc.access = .wo

/-- Every lane outside IN_SERVICE has its outputs in their safe state (R73), and no Live write that waits can change a lane's state, which software
cannot write. -/
def Dev.safeOutside (d : Dev) : Prop :=
  (∀ l : Lane, d.rd .LN_STATUS_STATE l.idx ≠ 5 → (d.lanes.get l).safe) ∧ d.liveOk

/-- The newest event record of the log carries a code, a source, an index and a detail. -/
def Dev.logged (d : Dev) (e : Ev) (source : Nat) (index : Nat := 0) (detail : Nat := 0) : Prop :=
  d.log.recs.getLast?.map (fun r => (r.code, r.source, r.index, r.detail)) = some (e.code, source, index, detail)

/-- A write by `m` of the word at `addr` is served (R448, R449): the shared blocks run, the debug port is unlocked, and the mode allows it;
the lane cores write in every mode. -/
def Dev.served (d : Dev) (m : Master) (addr : Nat) : Prop :=
  d.rd .PWR_STATUS_SHARED_UP ≠ 0 ∧ (m = .debug → d.rd .PWR_DBG_STAT_UNLOCKED ≠ 0) ∧
    ((∃ l, m = .lane l) ∨ (d.mode ≠ .boot ∧ (d.mode = .hold → addr < 0x1000 ∨ (0xA000 ≤ addr ∧ addr < 0xB000))))

/-- A write by `m` is ignored whatever its address (R448, R449): the shared blocks are in reset, the debug port is locked, or the device is in
Boot. -/
def Dev.ignores (d : Dev) (m : Master) : Prop :=
  d.rd .PWR_STATUS_SHARED_UP = 0 ∨ (m = .debug ∧ d.rd .PWR_DBG_STAT_UNLOCKED = 0) ∨ ((∀ l, m ≠ .lane l) ∧ d.mode = .boot)

/-- Hold mode refuses a write by `m` of the word at `addr` (R448). -/
def Dev.refusesInHold (d : Dev) (m : Master) (addr : Nat) : Prop :=
  d.rd .PWR_STATUS_SHARED_UP ≠ 0 ∧ (m = .debug → d.rd .PWR_DBG_STAT_UNLOCKED ≠ 0) ∧ (∀ l, m ≠ .lane l) ∧ d.mode = .hold ∧
    ¬ (addr < 0x1000 ∨ (0xA000 ≤ addr ∧ addr < 0xB000))

/-- A write by `m` of the word at `addr` is served and its block is not busy. -/
def Dev.takes (d : Dev) (m : Master) (addr : Nat) (busy : RegField × Nat) : Prop := d.served m addr ∧ d.rd busy.1 busy.2 = 0

/-- The registers a refused access changes beside its flag and counter. -/
def errRegs : List (RegField × Nat) := [(.SYS_ERR_LAST_ADDR, 0), (.SYS_ERR_LAST_CAUSE, 0), (.SYS_ERR_LAST_MASTER, 0)]

/-- SYS_ERR_LAST names the word, the cause and the master of an access (Table 15-6). -/
def Dev.errNames (d : Dev) (m : Master) (addr cause : Nat) : Prop :=
  d.rd .SYS_ERR_LAST_ADDR = addr / 4 % 2 ^ 19 ∧ d.rd .SYS_ERR_LAST_CAUSE = cause ∧ d.rd .SYS_ERR_LAST_MASTER = masterCode m

/-- One more, up to the greatest value of a field: what a saturating counter reads after a count. -/
def Dev.countUp (d : Dev) (f : RegField) (i : Nat := 0) : Nat := min (d.rd f i + 1) (2 ^ f.width - 1)

/-- The registers that show commands in flight and the completion queues (Table 14-14). -/
def flightFields : List RegField :=
  [.HST_STATUS_IN_FLIGHT, .HST_STATUS_IMM_FLIGHT, .HST_SQ_STAT_IN_FLIGHT, .HST_CQ_STAT_OWED, .HST_CQ_STAT_TAIL, .HST_CQ_STAT_PHASE]

/-- Command `c` of device `d` has completed in `e` with the entry `x` (R432, R433): it has left flight, its entry is stored, and it was written
to its queue if the queue is on and the link up; a command a Steward forwarded is answered with a completion frame (R482). -/
def Dev.completed (d e : Dev) (c : HostCmd) (x : Cqe) : Prop :=
  inFlight e c.sq c.rsn = none ∧
  (c.sq < 16 → ∃ y ∈ SMap.get [] e.host.store c.sq, y.rsn = c.rsn ∧ y.crc = c.crc ∧ y.entry = cqeBytes d c x) ∧
  (∀ q, c.sq < 16 → c.cq = some q → d.rd .HST_CQ_CFG_EN q ≠ 0 → d.rd .HST_STATUS_LINK_UP ≠ 0 →
    .hostWrite (hostBase (d.rd .HST_CQ_BASE_LO_ADDR q) (d.rd .HST_CQ_BASE_HI_ADDR q) + 64 * d.rd .HST_CQ_STAT_TAIL q)
      (withFlags (cqeBytes d c x) (d.rd .HST_CQ_STAT_PHASE q)) ∈ e.out) ∧
  (16 ≤ c.sq → .groupCompletion (sectionOf d (memberLevel d)).mac groupSource (entryPayload d (memberLevel d) 4 c.rsn (cqeBytes d c x)) ∈
    e.out)

/-- Command `c`, of opcode `op`, is in flight and this device alone has to answer it. -/
def Dev.owes (d : Dev) (sq rsn op : Nat) (c : HostCmd) : Prop :=
  flightOp d sq rsn op = some c ∧ c.parts.all (·.done) = true ∧ c.answer = none

/-- `e` is what a device reset by `cause` leaves of `d` (R491, R493, R503): every register outside PWR_ is at its reset value but the boot count
and what shows the key slots, every block is as after reset, flash, key slots and the supervisor stay, the reset is logged and counted, and
the debug port is locked. -/
def Dev.resetFrom (d e : Dev) (cause : Nat) : Prop :=
  (∀ f i, isPwr f = false → f ∉ [.SYS_BOOT_COUNT_N, .SAF_PKG_STAT_KEY_SLOT, .SAF_PKG_STAT_ENROLLED] → e.rd f i = f.reset i) ∧
  e.rd .SYS_BOOT_COUNT_N = d.rd .SYS_BOOT_COUNT_N ∧ e.flash = d.flash ∧ e.keys = d.keys ∧
  e.lanes = ⟨{}, {}, {}⟩ ∧ e.rings = ⟨{}, {}, {}⟩ ∧ e.sys = {} ∧ e.log = {} ∧ e.tb = {} ∧ e.motion = {} ∧ e.fault = {} ∧ e.pkg = {} ∧
  e.periodDue = none ∧ e.axes = {} ∧ e.adc = {} ∧ e.smy0 = {} ∧ e.smy1 = {} ∧ e.rve = {} ∧ e.host = {} ∧ e.pln = {} ∧ e.mil = {} ∧ e.grp = {} ∧
  e.rd .PWR_STATUS_SHARED_UP = 0 ∧ e.rd .PWR_STATUS_LANE_UP = 0 ∧ e.rd .PWR_RST_CAUSE_CAUSE = cause ∧
  e.rd .PWR_RST_CNT0_DEVICE = d.countUp .PWR_RST_CNT0_DEVICE ∧ e.rd .PWR_RSTLOG_CAUSE = cause ∧ e.rd .PWR_RSTLOG_SCOPE = 0 ∧
  e.rd .PWR_DBG_STAT_UNLOCKED = 0 ∧ e.rd .PWR_DBG_STAT_LANE_AUTH = 0 ∧ e.pwr.challenge = none

/-- The commands that write one trigger, lock, enable or pair word by master `m`: the word's address and the BUSY bit of its block. -/
inductive TriggerWrite (m : Master) : Instr → Nat → Option (RegField × Nat) → Prop where
  | commitGo : TriggerWrite m (.commitGo m) 0x20 none
  | commitAbort : TriggerWrite m (.commitAbort m) 0x20 none
  | lock (v : Bool) : TriggerWrite m (.lockWrite m v) 0x2C none
  | regdig : TriggerWrite m (.regdigGo m) 0x60 none
  | acquire : TriggerWrite m (.acquireGo m) 0x1038 (some (.BLF_STATUS_BUSY, 0))
  | pairFirst (p : Fin 144) (v : Word32) : TriggerWrite m (.pairFirstWordWrite m p v) (pairAddr p) (pairBusy p)
  | pairSecond (p : Fin 144) (v : Word32) : TriggerWrite m (.pairCompletingWrite m p v) (pairAddr p + 4) (pairBusy p)
  | adcRef (v : Bool) : TriggerWrite m (.adcRefEnWrite m v) 0x8004 (some (.ADC_STATUS_BUSY, 0))
  | adcGo : TriggerWrite m (.adcSeqGo m) 0x8014 (some (.ADC_STATUS_BUSY, 0))
  | adcEnable (v : Bool) : TriggerWrite m (.adcSeqEnable m v) 0x8014 (some (.ADC_STATUS_BUSY, 0))
  | adcClr (u : Fin 32) : TriggerWrite m (.adcUaClr m u) (0x850C + 16 * u) (some (.ADC_STATUS_BUSY, 0))
  | grpRejoin : TriggerWrite m (.grpRejoin m) 0xD038 (some (.GRP_STATUS_BUSY, 0))
  | sq (q : Fin 16) (en r : Bool) : TriggerWrite m (.sqEnable m q en r) (0xA108 + 16 * q) (some (.HST_STATUS_BUSY, 0))
  | cq (q : Fin 16) (en : Bool) : TriggerWrite m (.cqEnable m q en) (0xA208 + 16 * q) (some (.HST_STATUS_BUSY, 0))
  | evq (en : Bool) : TriggerWrite m (.evqEnable m en) 0xA028 (some (.HST_STATUS_BUSY, 0))
  | fbClr (k : Fin 16) : TriggerWrite m (.fbClr m k) (0x1803C + 256 * k) (some (.FBK_STAT_BUSY, k.val))
  | fbPreset (k : Fin 16) : TriggerWrite m (.fbPreset m k) (0x1803C + 256 * k) (some (.FBK_STAT_BUSY, k.val))
  | stpRun (k : Fin 16) (v : Bool) : TriggerWrite m (.stpRunSet m k v) (0x19024 + 128 * k) (some (.STP_STAT_BUSY, k.val))
  | rearm (k : Fin 16) : TriggerWrite m (.rearm m k) (0x19024 + 128 * k) (some (.STP_STAT_BUSY, k.val))
  | gains (v : Word32) : TriggerWrite m (.gainTableWrite m v) 0x14208 (some (.MIL_STATUS_BUSY, 0))
  | clrLog : TriggerWrite m (.clrLog m) 0xC038 (some (.PWR_STATUS_BUSY, 0))
  | smyStart (n : Fin 2) : TriggerWrite m (.smyStart m n) (0x1A000 + 0x400 * n) (some (.SMY_STAT_BUSY, n.val))
  | smyHalt (n : Fin 2) : TriggerWrite m (.smyHaltReq m n) (0x1A000 + 0x400 * n) (some (.SMY_STAT_BUSY, n.val))

/-- Among the local ports only feedback port `k` differs. -/
def Dev.onlyFb (d e : Dev) (k : Nat) : Prop :=
  e.axes.latchAt = d.axes.latchAt ∧ e.axes.sp = d.axes.sp ∧ ∀ j, j ≠ k → fbOf e j = fbOf d j

/-- Among the local ports only step/pulse port `k` differs. -/
def Dev.onlySp (d e : Dev) (k : Nat) : Prop :=
  e.axes.latchAt = d.axes.latchAt ∧ e.axes.fb = d.axes.fb ∧ ∀ j, j ≠ k → spOf e j = spOf d j

/-- The part of the device that is signal processor `n`. -/
def corePart (n : Nat) : Part := if n = 0 then .smy0 else .smy1

/-- A command completes, nothing changes but signal processor `n`, nothing is emitted, and `post` holds of the core afterwards. -/
def CoreGoes (c : Instr) (s : State) (n : Nat) (post : SmyCore → Prop) : Prop :=
  Completes c s [] [corePart n] fun e => e.out = [] ∧ post (smyOf e n)

/-- A write of the exact result `x` to accumulator `a` (R388): limited to 32 bits with the saturation bit, wrapped in 40 bits without; SV sets
where that changed the value; the other accumulator stays. -/
def SmyCore.accGets (c e : SmyCore) (sb a : Bool) (x : Int) : Prop :=
  accOf e a = (if sb then max (-2147483648) (min 2147483647 x) else signedOf 40 (fieldOf 40 x)) ∧ accOf e (!a) = accOf c (!a) ∧
    e.sv = (c.sv || decide (accOf e a ≠ x))

/-- The generator of memory side `ms`: 0 X, 1 Y. -/
def SmyCore.gen (c : SmyCore) (ms : Bool) : AddrGen := if ms then c.gy else c.gx

/-- Word `i` of memory side `ms`. -/
def SmyCore.word (c : SmyCore) (ms : Bool) (i : Nat) : BitVec 16 := SMap.get 0 (if ms then c.y else c.x) i

/-- The word an address field reads on side `ms`. -/
def SmyCore.operand (c : SmyCore) (ms : Bool) (ad : BitVec 5) : BitVec 16 := c.word ms (useAddr (c.gen ms) ad).1.toNat

/-- Beside the accumulators, SV and the clocks, only the generator of side `ms` has moved, by address field `ad`, and the program counter has
gone on by one word. -/
def SmyCore.movedOne (c e : SmyCore) (ms : Bool) (ad : BitVec 5) : Prop :=
  e = { c with
    acc0 := e.acc0, acc1 := e.acc1, sv := e.sv, gx := if ms then c.gx else (useAddr c.gx ad).2
    gy := if ms then (useAddr c.gy ad).2 else c.gy, pc := c.pc + 1, clocks := c.clocks + 1 }

/-- The instructions that may follow REP, each with the command that executes it and its effect on the core (R391). -/
inductive Repeats (n : Fin 2) (frac : Bool) : Instr → SmyInstr → (SmyCore → SmyCore) → Prop where
  | nop : Repeats n frac (.nop n) .nop id
  | mac (sb a : Bool) (xa ya : BitVec 5) : Repeats n frac (.mac n sb a xa ya) (.mac sb a xa ya) (multiply frac sb a 1 1 xa ya)
  | msu (sb a : Bool) (xa ya : BitVec 5) : Repeats n frac (.msu n sb a xa ya) (.msu sb a xa ya) (multiply frac sb a 1 (-1) xa ya)
  | mpy (sb a : Bool) (xa ya : BitVec 5) : Repeats n frac (.mpy n sb a xa ya) (.mpy sb a xa ya) (multiply frac sb a 0 1 xa ya)
  | macd (sb a : Bool) (xa : BitVec 5) (dm : BitVec 3) : Repeats n frac (.macd n sb a xa dm) (.macd sb a xa dm) (multiplyReg frac sb a xa dm)
  | lda (a ms : Bool) (ad : BitVec 5) : Repeats n frac (.lda n a ms ad) (.lda a ms ad) (loadAcc a ms ad)
  | ada (sb a ms : Bool) (ad : BitVec 5) : Repeats n frac (.ada n sb a ms ad) (.ada sb a ms ad) (addAcc sb a ms ad)
  | sta (sb a ms rnd : Bool) (ad : BitVec 5) : Repeats n frac (.sta n sb a ms rnd ad) (.sta sb a ms rnd ad) (storeAcc sb a ms rnd ad)
  | ldd (dd : BitVec 3) (ms : Bool) (ad : BitVec 5) : Repeats n frac (.ldd n dd ms ad) (.ldd dd ms ad) (loadReg dd ms ad)
  | std (dd : BitVec 3) (ms : Bool) (ad : BitVec 5) : Repeats n frac (.std n dd ms ad) (.std dd ms ad) (storeReg dd ms ad)
  | sha (sb a : Bool) (sh : BitVec 6) : Repeats n frac (.sha n sb a sh) (.sha sb a sh) (shiftAcc sb a sh)
  | srch (ms : Bool) (ad : BitVec 5) : Repeats n frac (.srch n ms ad) (.srch ms ad) (searchStep ms ad)

/-- The run of Planner core `c` has a cancel request, which every operation of that run returns (R414). -/
def Dev.cancelAsked (d : Dev) (c : Nat) : Bool := match (coreOf d c).run with
  | some p => d.on .RVE_TASK_STAT_CANCEL_REQ p.1
  | none => false

/-- Task `t` has become READY for reason `r`, at the tail of the ready list of its priority (R405). -/
def Dev.readied (d e : Dev) (t : Nat) (r : WakeReason) : Prop :=
  e.rd .RVE_TASK_STAT_STATE t = 2 ∧ (taskOf e t).reason = r ∧
    readyList e (d.rd .RVE_TASK_STAT_PRIO t) = readyList d (d.rd .RVE_TASK_STAT_PRIO t) ++ [t]

/-- Item `i` has been released in `e` with a status and a result: its entry is free and its completion record is written to its target
(R416, Table 13-5). -/
def Dev.itemReleased (e : Dev) (i : Nat) (x : RveItem) (status result : Nat) (cancel : Bool) : Prop :=
  itemOf e i = none ∧ (x.req.target ≠ .nothing → .rveCompletion x.req.target
    { item := i, task := x.req.task, flow := (x.req.flow.map Fin.val).getD 0xFF, fseq := x.fseq, status := status
      flags := bitOf cancel + 2 * bitOf x.displaced, tag := x.req.tag.toNat
      result := if status = 0 ∨ status = 2 then result else 0 } ∈ e.out)

/-- No lane's decision waits in an override entry (R418). -/
def Dev.noOverride (d : Dev) : Prop := ∀ l, d.rve.laneOvr.get l = none

/-- The registers that show the Planner's axis sets and zones (Tables 7-14, 7-15). -/
def planViews : List RegField :=
  [.PLN_ARM_STAT_STATE, .PLN_ARM_STAT_QUEUED, .PLN_ARM_STAT_CAPPED, .PLN_ARM_STAT_COUPLED, .PLN_ARM_ZONES_HELD, .PLN_ARM_ZWAIT_REQ,
   .PLN_ARM_DEPTH_FRAMES, .PLN_ZONE_WAITERS]

/-- MOTION command `c` is the command `h` in flight, and this device alone has to answer it. -/
def Dev.pays (d : Dev) (c : PlanCmd) (h : HostCmd) : Prop :=
  inFlight d c.sq c.rsn = some h ∧ h.parts.all (·.done) = true ∧ h.answer = none

/-- The one command of axis set `a`'s queue has ended without motion: its queue is empty and `h` is answered with a result code. -/
def Dev.headEnds (d e : Dev) (a : Nat) (h : HostCmd) (code : Nat) : Prop :=
  (armOf e a).queue = [] ∧ (armOf e a).run = (armOf d a).run ∧ d.completed e h { result := code }

/-- Commit `k` waits for the store in place of any earlier one of its axis sets, and nothing else of the Planner has changed (R223). -/
def Dev.staged (d e : Dev) (k : Commit) : Prop :=
  e.pln = { d.pln with
    staged := (d.pln.staged.filter fun j => !j.parts.any fun q => k.parts.any fun s => decide (s.axset = q.axset)) ++ [k] }

/-- Axis set `a` is idle: nothing runs, blends or waits in its queue. -/
def Dev.idleSet (d : Dev) (a : Nat) : Prop := (armOf d a).run = none ∧ (armOf d a).next = none ∧ (armOf d a).queue = []

/-- The registers that show a device its group and a Steward its roster (Tables 16-5, 16-6, R481). -/
def groupViews : List RegField :=
  [.GRP_STATUS_ROLE, .GRP_STATUS_GSTATE, .GRP_STATUS_QUARANTINED, .GRP_STATUS_TIME_SLEW, .GRP_SELF_SLOT, .GRP_SELF_LEVELS,
   .GRP_SELF_UNIT_ADDR, .GRP_STEWARD_SLOT, .GRP_STEWARD_UNIT_ADDR, .GRP_DEPUTY_SLOT, .GRP_DEPUTY_NONE, .GRP_DEPUTY_UNIT_ADDR,
   .GRP_PRESENT_MASK, .GRP_PRESENT_QUAR, .GRP_PRESENT_ELIGIBLE, .GRP_CYCLE_FRAME, .GRP_ID_ID, .GRP_DIG_LO_D, .GRP_DIG_HI_D,
   .GRP_STW_DIG_LO_D, .GRP_STW_DIG_HI_D, .GRP_STW_FW_CODE, .GRP_BUDGET_US, .GRP_HIST_G, .GRP_HIST_SLOT, .GRP_HIST_REASON,
   .GRP_HIST_FRAME, .GRP_MEM_STAT_PRESENT, .GRP_MEM_STAT_JOINED, .GRP_MEM_STAT_QUAR, .GRP_MEM_STAT_LOST, .GRP_MEM_STAT_ELIGIBLE,
   .GRP_MEM_STAT_TIME_SLEW, .GRP_MEM_STAT_GSTATE, .GRP_MEM_STAT_KIND, .GRP_MEM_ID_LO_ID, .GRP_MEM_ID_HI_ID, .GRP_MEM_ADDR_UNIT_ADDR,
   .GRP_MEM_ADDR_DEPTH, .GRP_MEM_DIG_LO_D, .GRP_MEM_DIG_HI_D, .GRP_MEM_FW_CODE, .GRP_MEM_CAPS0_ARMS, .GRP_MEM_CAPS0_JOINTS,
   .GRP_MEM_CAPS1_LOCAL_AXES, .GRP_MEM_CAPS1_PORTS, .GRP_MEM_PATH_NS, .GRP_MEM_CNT_LOST, .GRP_MEM_CNT_BAD, .GRP_MEM_LAST_FRAME,
   .GRP_MAP_INDEX, .GRP_MAP_SLOT, .GRP_MAP_VALID, .SYS_CAPS0_ARMS, .SYS_CAPS0_JOINTS, .SYS_CAPS1_LOCAL_AXES, .SYS_CAPS1_PORTS,
   .SYS_CAPS2_DEVICES, .SYS_CAPS2_DEPTH, .SYS_CAPS2_UNIT_ADDR]

/-- A frame of group `id` from slot `m`, with LEVEL `v` and a length, is one that this device accepts at its level `l` (R467). -/
def Dev.hears (d : Dev) (id m v length l : Nat) : Prop :=
  levelOfGroup d id = some l ∧ length = 128 ∧ m < 8 ∧ levelGood d l m v = true ∧ atLevel d l = true ∧ m ≠ ownSlot d l

/-- A group cycle that has not begun at level `l` begins in this frame (R467). -/
def Dev.cycleDue (d : Dev) (l : Nat) : Prop :=
  atLevel d l = true ∧ d.tb.ticking = true ∧ d.frameNo % (max 1 (sectionOf d l).gcyc) = 0 ∧ (levelOf d l).cycle ≠ some d.frameNo

/-- Level `l` may leave Quarantine: 2 cycles have matched and every unit is DISABLED (R473). -/
def Dev.mayLeave (d : Dev) (l : Nat) : Prop :=
  (levelOf d l).quarantined = true ∧ 2 ≤ (levelOf d l).matched ∧ allDisabled d = true

end Sys2Proof.Machine
end

