-- ==== Sys2Proof/Certificates/Slice0/Obligations.lean ====
section
/-!
DEFINITION. The statements for the provers. In each, `s` is any state and `s.dev` the device before the command; `Completes`, `Touches` and
`Answers` (Safety.lean) say that the command answers a next state, what it leaves alone, and what holds of the device afterwards. A
rounding, an order or a value that the spec leaves open is the model's own (the log entry named).
-/
open Sys2Proof Sys2Proof.Machine
open Sys2Proof.Machine.RegField


/-! The machine as a whole. -/

/-- A step takes the command at the front of the queue and is that command's effect with the queue's rest; while nothing waits one clock of the 125
MHz time base passes (the model's choice, log entry 1), and nothing else happens. Every command, whichever of the constructors of Instr it is,
completes in every state, without a condition on the state or the operands: its effect is a next state with the queue as it was. Choices of the model
in it: log entry 1. -/
def Obligations.StepRunsFrontCommand : Prop :=
  (∀ (s : State) (c : Instr) (rest : List Instr), s.pending = c :: rest → step s = exec c { s with pending := rest }) ∧
  (∀ s : State, s.pending = [] → ∃ t, step s = .next t ∧ t.pending = [] ∧ t.dev.out = [] ∧ SameBut s.dev t.dev [] [] [.tb] ∧
    t.dev.tb = { s.dev.tb with
      ext := if s.dev.tb.ticking = true ∧ s.dev.tb.ext + 8 < s.dev.nextTick then s.dev.tb.ext + 8 else s.dev.tb.ext }) ∧
  (∀ (i : Instr) (s : State), ∃ t, Sys2Proof.Machine.exec i s = .next t ∧ t.pending = s.pending)

/-- After reset every register reads its reset value, the register file and the lanes are as every step keeps them, the device is in Boot with the
shared blocks and the lanes in reset, no tick has occurred, every output is safe and nothing waits. Choices of the model in it: log entries 4 and 5.
-/
def Obligations.ResetState : Prop :=
  (∀ f i, State.reset.dev.rd f i = f.reset i) ∧ State.reset.dev.regsOk ∧ State.reset.dev.safeOutside ∧ State.reset.dev.safe ∧
    State.reset.pending = [] ∧ State.reset.dev.out = [] ∧ State.reset.dev.mode = .boot ∧ State.reset.dev.rd PWR_STATUS_SHARED_UP = 0 ∧
    State.reset.dev.rd PWR_STATUS_LANE_UP = 0 ∧ (∀ l, laneMode State.reset.dev l = .absent) ∧ State.reset.dev.frameNo = 0 ∧
    State.reset.dev.timeNs = 0 ∧ State.reset.dev.tb.ticking = false ∧ State.reset.dev.frameNs = 62500 ∧ timeState State.reset.dev = .free ∧
    State.reset.dev.log.recs = [] ∧ State.reset.dev.rd BLF_LATCH_OFFSET = 1000 ∧ State.reset.dev.rd GRP_DEPUTY_NONE = 1

/-- Every step keeps the register file in its canonical form, so that equal registers are equal data. -/
def Obligations.RegisterFileStaysCanonical : Prop :=
  ∀ s t : State, s.dev.regsOk → step s = .next t → t.dev.regsOk

/-- Every step keeps the outputs of every lane outside IN_SERVICE in their safe state: gate lines de-energised, SAFE_OK low (R73). -/
def Obligations.LanesOutsideServiceStaySafe : Prop :=
  ∀ s t : State, s.dev.safeOutside → step s = .next t → t.dev.safeOutside

/-- The encoding of signal processor instructions (R389, R390, Table 12-4): every well-formed instruction decodes from its word, which has 32 bits and
its opcode in [31:26]; two words spelled out from Table 12-4 decode to the MAC and the REP they stand for. -/
def Obligations.SmithyEncodingRoundTrip : Prop :=
  (∀ i : SmyInstr, smyWf i = true → smyDecode (smyEncode i) = some i) ∧ (∀ i : SmyInstr, smyEncode i < 2 ^ 32) ∧
  (∀ (w : Nat) (i : SmyInstr), smyDecode w = some i → smyEncode i = w ∧ smyWf i = true) ∧
  smyDecode 0b000001_1_1_00101_00101_00000000000000 = some (.mac true true 5 5) ∧
  smyDecode 0b010010_0000000000000_0_000000001111 = some (.rep (.imm 15)) ∧ smyDecode 0b000001_1_1_00111_00101_00000000000000 = none
/-! Time base (chapter 02). -/

/-- What an offset measurement does in each state of the discipline, the end of a slew, the loss of the source, and a new acquisition (Table 2-4, R56
to R61, R510); amounts of a slew are in 1/256,000 ns and divisions round down (log entry 26). Choices of the model in it: log entries 3, 24 to 27, 97
and 98; entry 3 is each clause where nothing happens because the event cannot occur. -/
def Obligations.TimeDiscipline : Prop :=
  (∀ s : State, sourceOffset s.dev = none → Completes .offsetMeasurement s [] [] fun e => e.out = []) ∧
  (∀ (s : State) (raw : Int), sourceOffset s.dev = some raw → timeState s.dev = .free ∨ timeState s.dev = .diverged →
    Completes .offsetMeasurement s [(BLF_OFFSET_NS, 0)] [.tb] fun e => e.rdI BLF_OFFSET_NS = saturate 32 (raw - epoch s.dev) ∧
      sourceOffset e = none ∧ e.tb = (offsetsTaken s.dev).tb) ∧
  (∀ (s : State) (raw : Int), sourceOffset s.dev = some raw → timeState s.dev = .acquiring → s.dev.tb.acquired.length < 2 →
    Completes .offsetMeasurement s [(BLF_OFFSET_NS, 0)] [.tb] fun e =>
      e.tb = { (offsetsTaken s.dev).tb with acquired := s.dev.tb.acquired ++ [raw] }) ∧
  (∀ (s : State) (raw a b : Int), sourceOffset s.dev = some raw → timeState s.dev = .acquiring → s.dev.tb.acquired = [a, b] →
    1000 < max a (max b raw) - min a (min b raw) →
    Completes .offsetMeasurement s [(BLF_OFFSET_NS, 0)] [.tb] fun e => e.tb = { (offsetsTaken s.dev).tb with acquired := [b, raw] }) ∧
  (∀ (s : State) (raw a b : Int), sourceOffset s.dev = some raw → timeState s.dev = .acquiring → s.dev.tb.acquired = [a, b] →
    max a (max b raw) - min a (min b raw) ≤ 1000 → s.dev.rd PWR_STATUS_SHARED_UP ≠ 0 →
    Completes .offsetMeasurement s
      ([(BLF_OFFSET_NS, 0), (BLF_EPOCH_LO_NS, 0), (BLF_EPOCH_HI_NS, 0), (BLF_STATUS_EPOCH_SET, 0), (BLF_STATUS_STATE, 0)] ++ recordRegs srcTime)
      [.tb, .log] fun e =>
        let p : Int := if s.dev.rd BLF_CFG_SOURCE = 3 then 0 else 8 * (s.dev.rd BLF_PHASE_PHASE : Int)
        timeState e = .locked ∧ e.rd BLF_STATUS_EPOCH_SET = 1 ∧
          e.rd BLF_EPOCH_LO_NS = fieldOf 64 (nearestCongruent p s.dev.frameNs (median3 a b raw)) % 2 ^ 32 ∧
          e.rd BLF_EPOCH_HI_NS = fieldOf 64 (nearestCongruent p s.dev.frameNs (median3 a b raw)) / 2 ^ 32 ∧
          e.rdI BLF_OFFSET_NS = saturate 32 (median3 a b raw - nearestCongruent p s.dev.frameNs (median3 a b raw)) ∧
          e.logged .EPOCH_SET srcTime ∧ e.tb.ext = s.dev.tb.ext ∧ e.tb.tickAt = s.dev.tb.tickAt) ∧
  (∀ (s : State) (raw : Int), sourceOffset s.dev = some raw → timeState s.dev = .locked →
    (raw - epoch s.dev).natAbs ≤ s.dev.rd BLF_JUMP_THR_THR_NS → s.dev.mode = .boot ∨ s.dev.mode = .hold ∨ s.dev.mode = .safeState →
    Completes .offsetMeasurement s [(BLF_OFFSET_NS, 0)] [.tb] fun e =>
      let f := clampInt (-(maxRate s.dev)) (maxRate s.dev)
        (s.dev.tb.freq + floorDiv ((raw - epoch s.dev) * 1000000000) (max 1 (offsetInterval s.dev : Int)))
      e.tb = { (offsetsTaken s.dev).tb with freq := f, target := f, stepNext := raw - epoch s.dev, confirm := [] }) ∧
  (∀ (s : State) (raw : Int), sourceOffset s.dev = some raw → timeState s.dev = .locked →
    (raw - epoch s.dev).natAbs ≤ s.dev.rd BLF_JUMP_THR_THR_NS →
    s.dev.mode = .standstill ∨ s.dev.mode = .run ∨ s.dev.mode = .degraded →
    Completes .offsetMeasurement s [(BLF_OFFSET_NS, 0)] [.tb] fun e =>
      let f := clampInt (-(maxRate s.dev)) (maxRate s.dev)
        (s.dev.tb.freq + floorDiv ((raw - epoch s.dev) * 1000000000) (max 1 (offsetInterval s.dev : Int)))
      let r := clampInt (-(maxRate s.dev)) (maxRate s.dev)
        (s.dev.tb.freq + floorDiv ((raw - epoch s.dev) * 16000000000) (2 * max 1 (offsetInterval s.dev : Int)))
      e.tb = { (offsetsTaken s.dev).tb with freq := f, target := r, confirm := [] }) ∧
  (∀ (s : State) (raw : Int), sourceOffset s.dev = some raw → timeState s.dev = .locked →
    s.dev.rd BLF_JUMP_THR_THR_NS < (raw - epoch s.dev).natAbs → s.dev.tb.confirm.length < 2 →
    Completes .offsetMeasurement s [(BLF_OFFSET_NS, 0)] [.tb] fun e =>
      e.tb = { (offsetsTaken s.dev).tb with confirm := s.dev.tb.confirm ++ [raw - epoch s.dev] }) ∧
  (∀ (s : State) (raw a b : Int), sourceOffset s.dev = some raw → timeState s.dev = .locked →
    s.dev.rd BLF_JUMP_THR_THR_NS < (raw - epoch s.dev).natAbs → s.dev.tb.confirm = [a, b] →
    1000000 < a.natAbs ∧ 1000000 < b.natAbs ∧ 1000000 < (raw - epoch s.dev).natAbs → s.dev.rd PWR_STATUS_SHARED_UP ≠ 0 →
    Completes .offsetMeasurement s
      ([(BLF_OFFSET_NS, 0), (BLF_STATUS_TIME_DIVERGED, 0), (BLF_STATUS_STATE, 0)] ++ recordRegs srcTime) [.tb, .log] fun e =>
        timeState e = .diverged ∧ e.rd BLF_STATUS_TIME_DIVERGED = 1 ∧ e.logged .TIME_DIVERGED srcTime ∧
          e.tb = { (offsetsTaken s.dev).tb with confirm := [] }) ∧
  (∀ (s : State) (raw a b : Int), sourceOffset s.dev = some raw → timeState s.dev = .locked →
    s.dev.rd BLF_JUMP_THR_THR_NS < (raw - epoch s.dev).natAbs → s.dev.tb.confirm = [a, b] →
    ¬ (1000000 < a.natAbs ∧ 1000000 < b.natAbs ∧ 1000000 < (raw - epoch s.dev).natAbs) → s.dev.rd PWR_STATUS_SHARED_UP ≠ 0 →
    Completes .offsetMeasurement s
      ([(BLF_OFFSET_NS, 0), (BLF_STATUS_JUMP_REFUSED, 0), (BLF_STATUS_STATE, 0)] ++ recordRegs srcTime) [.tb, .log] fun e =>
        timeState e = .slewing ∧ e.rd BLF_STATUS_JUMP_REFUSED = 1 ∧ e.logged .JUMP_REFUSED srcTime ∧
          e.tb = { (offsetsTaken s.dev).tb with confirm := [], slew := s.dev.tb.rate - s.dev.tb.freq, slewLeft := 256000 * (raw - epoch s.dev) }) ∧
  (∀ (s : State) (raw : Int), sourceOffset s.dev = some raw → timeState s.dev = .slewing →
    (256000 * (raw - epoch s.dev) - s.dev.tb.slewLeft).natAbs ≤ 256000 * s.dev.rd BLF_JUMP_THR_THR_NS →
    Completes .offsetMeasurement s [(BLF_OFFSET_NS, 0)] [.tb] fun e => e.tb = { (offsetsTaken s.dev).tb with confirm := [] }) ∧
  (∀ (s : State) (raw : Int), sourceOffset s.dev = some raw → timeState s.dev = .slewing → s.dev.tb.confirm.length < 2 →
    256000 * s.dev.rd BLF_JUMP_THR_THR_NS < (256000 * (raw - epoch s.dev) - s.dev.tb.slewLeft).natAbs →
    Completes .offsetMeasurement s [(BLF_OFFSET_NS, 0)] [.tb] fun e => e.tb = { (offsetsTaken s.dev).tb with
      confirm := s.dev.tb.confirm ++ [256000 * (raw - epoch s.dev) - s.dev.tb.slewLeft] }) ∧
  (∀ (s : State) (raw a b : Int), sourceOffset s.dev = some raw → timeState s.dev = .slewing → s.dev.tb.confirm = [a, b] →
    256000 * s.dev.rd BLF_JUMP_THR_THR_NS < (256000 * (raw - epoch s.dev) - s.dev.tb.slewLeft).natAbs →
    a.natAbs ≤ 256000000000 → s.dev.rd PWR_STATUS_SHARED_UP ≠ 0 →
    Completes .offsetMeasurement s ([(BLF_OFFSET_NS, 0), (BLF_STATUS_JUMP_REFUSED, 0)] ++ recordRegs srcTime) [.tb, .log] fun e =>
      timeState e = .slewing ∧ e.rd BLF_STATUS_JUMP_REFUSED = 1 ∧ e.logged .JUMP_REFUSED srcTime ∧
        e.tb = { (offsetsTaken s.dev).tb with confirm := [], slewLeft := 256000 * (raw - epoch s.dev) }) ∧
  (∀ (s : State) (raw : Int), sourceOffset s.dev = some raw → timeState s.dev = .holdover →
    Completes .offsetMeasurement s [(BLF_OFFSET_NS, 0), (BLF_STATUS_STATE, 0)] [.tb] fun e =>
      timeState e = .acquiring ∧ e.tb = { (offsetsTaken s.dev).tb with acquired := [raw], confirm := [], slewLeft := 0 }) ∧
  (∀ s : State, timeState s.dev = .slewing → s.dev.tb.slewLeft = 0 → s.dev.tb.slew.natAbs ≤ 16000 →
    Completes .slewEnd s [(BLF_STATUS_STATE, 0), (BLF_RATE_PPB, 0)] [.tb] fun e =>
      timeState e = .locked ∧ e.tb = { s.dev.tb with slew := 0, target := s.dev.tb.freq, rate := s.dev.tb.freq }) ∧
  (∀ s : State, timeState s.dev ≠ .slewing ∨ s.dev.tb.slewLeft ≠ 0 → Completes .slewEnd s [] [] fun e => e.out = []) ∧
  (∀ s : State, timeState s.dev = .acquiring ∨ timeState s.dev = .locked ∨ timeState s.dev = .slewing →
    s.dev.rd PWR_STATUS_SHARED_UP ≠ 0 →
    Completes .sourceLossTimeout s ([(BLF_STATUS_STATE, 0), (BLF_STATUS_SOURCE_LOST, 0)] ++ recordRegs srcTime) [.tb, .log] fun e =>
      timeState e = .holdover ∧ e.rd BLF_STATUS_SOURCE_LOST = 1 ∧ e.logged .SOURCE_LOST srcTime ∧
        e.tb = { s.dev.tb with confirm := [], acquired := [] }) ∧
  (∀ s : State, timeState s.dev = .free ∨ timeState s.dev = .holdover ∨ timeState s.dev = .diverged →
    Completes .sourceLossTimeout s [] [] fun e => e.out = []) ∧
  (∀ (s : State) (m : Master), s.dev.takes m 0x1038 (BLF_STATUS_BUSY, 0) → timeState s.dev = .free →
    Completes (.acquireGo m) s [] [] fun e => e.out = []) ∧
  (∀ (s : State) (m : Master), s.dev.takes m 0x1038 (BLF_STATUS_BUSY, 0) → timeState s.dev ≠ .free →
    Completes (.acquireGo m) s [(BLF_STATUS_STATE, 0)] [.tb] fun e =>
      timeState e = .acquiring ∧ e.tb = { s.dev.tb with acquired := [], confirm := [], slewLeft := 0 })

/-- PTP messages of a port (R62, R63, Tables 2-5 and 2-6): the stamps taken, the offset and the path delay formed from them, what a master port sends,
and a port that is not enabled sends and accepts nothing. Choices of the model in it: log entries 3, 24 and 105; entry 3 is each clause where nothing
happens because the event cannot occur. -/
def Obligations.PtpMessages : Prop :=
  (∀ (s : State) (p : Fin 2) (two : Bool) (dom seq : Nat) (x y : Int) (c : PtpClock), s.dev.rd BLF_PTP_CFG_EN p = 0 →
    Completes (.ptpSyncReceived p two dom seq c) s [] [] (fun e => e.out = []) ∧
    Completes (.ptpFollowUpReceived p dom seq x) s [] [] (fun e => e.out = []) ∧
    Completes (.ptpDelayRespReceived p dom seq x y) s [] [] (fun e => e.out = []) ∧
    Completes (.ptpDelayReqReceived p dom seq) s [] [] (fun e => e.out = []) ∧
    Completes (.ptpSyncTransmit p) s [] [] (fun e => e.out = []) ∧
    Completes (.ptpDelayReqTransmit p) s [] [] (fun e => e.out = [])) ∧
  (∀ (s : State) (p : Fin 2) (dom seq : Nat) (c : PtpClock), ptpAccepts s.dev p dom = true →
    Completes (.ptpSyncReceived p false dom seq c) s [(BLF_PTP_CFG_ONESTEP_CNT, p)] [] fun e =>
      e.rd BLF_PTP_CFG_ONESTEP_CNT p = s.dev.countUp BLF_PTP_CFG_ONESTEP_CNT p) ∧
  (∀ (s : State) (p : Fin 2) (dom seq : Nat) (c : PtpClock), ptpAccepts s.dev p dom = true → masterTaken s.dev p c = true →
    Completes (.ptpSyncReceived p true dom seq c) s [] [.tb] fun e =>
      ptpPort e p = { ptpPort s.dev p with
        syncWait := some (seq, trunc8 s.dev.tb.ext - 136 - s.dev.rd BLF_PTP_LAT_RX_NS p), best := some (c, s.dev.tb.ext) }) ∧
  (∀ (s : State) (p : Fin 2) (dom seq : Nat) (c : PtpClock), masterTaken s.dev p c = false →
    Completes (.ptpSyncReceived p true dom seq c) s [] [] fun e => e.out = []) ∧
  (∀ (s : State) (p : Fin 2) (dom seq : Nat) (t1 t2 : Int), ptpAccepts s.dev p dom = true →
    (ptpPort s.dev p).syncWait = some (seq, t2) →
    Completes (.ptpFollowUpReceived p dom seq t1) s [] [.tb] fun e =>
      (ptpPort e p).syncWait = none ∧ (ptpPort e p).lastSync = some (t1, t2) ∧
        (ptpIsMaster s.dev p = true → (ptpPort e p).offset = none) ∧
        ∀ dd, ptpIsMaster s.dev p = false → (ptpPort s.dev p).delay2 = some dd →
          (ptpPort e p).offset = some (t1 + floorDiv dd 2 - t2) ∧
            (s.dev.rd BLF_CFG_SOURCE = p + 1 → sourceOffset e = some (t1 + floorDiv dd 2 - t2))) ∧
  (∀ (s : State) (p : Fin 2) (dom seq : Nat) (rx tx t3 : Int), ptpAccepts s.dev p dom = true →
    (ptpPort s.dev p).reqWait = some (seq, t3) → s.dev.rd BLF_PTP_CFG_DELAY p ≠ 0 →
    Completes (.ptpDelayRespReceived p dom seq rx tx) s [] [.tb] fun e =>
      (ptpPort e p).delay2 = some (trunc8 s.dev.tb.ext - 136 - s.dev.rd BLF_PTP_LAT_RX_NS p - t3 - (tx - rx))) ∧
  (∀ (s : State) (p : Fin 2) (dom seq : Nat) (rx tx t1 t2 t3 : Int), ptpAccepts s.dev p dom = true →
    (ptpPort s.dev p).reqWait = some (seq, t3) → s.dev.rd BLF_PTP_CFG_DELAY p = 0 → (ptpPort s.dev p).lastSync = some (t1, t2) →
    Completes (.ptpDelayRespReceived p dom seq rx tx) s [] [.tb] fun e =>
      (ptpPort e p).delay2 = some ((t2 - t1) + (rx - t3))) ∧
  (∀ (s : State) (p : Fin 2) (dom seq : Nat), ptpAccepts s.dev p dom = true → s.dev.rd BLF_PTP_CFG_DELAY p ≠ 0 →
    Completes (.ptpDelayReqReceived p dom seq) s [] [] fun e =>
      e.out = [.ptp p (.pdelayResp seq (ptpRxStamp s.dev p + epoch s.dev) (ptpTxStamp s.dev p + epoch s.dev))]) ∧
  (∀ (s : State) (p : Fin 2) (dom seq : Nat), ptpAccepts s.dev p dom = true → s.dev.rd BLF_PTP_CFG_DELAY p = 0 →
    ptpIsMaster s.dev p = true →
    Completes (.ptpDelayReqReceived p dom seq) s [] [] fun e =>
      e.out = [.ptp p (.delayResp seq (ptpRxStamp s.dev p + epoch s.dev))]) ∧
  (∀ (s : State) (p : Fin 2), ptpIsMaster s.dev p = true →
    Completes (.ptpSyncTransmit p) s [] [.tb] fun e =>
      e.out = [.ptp p (.announce (announced s.dev)), .ptp p (.sync (ptpPort s.dev p).syncSeq),
        .ptp p (.followUp (ptpPort s.dev p).syncSeq (trunc8 s.dev.tb.ext + 88 + s.dev.rd BLF_PTP_LAT_TX_NS p + epoch s.dev))] ∧
      (ptpPort e p).syncSeq = ((ptpPort s.dev p).syncSeq + 1) % 2 ^ 16) ∧
  (∀ (s : State) (p : Fin 2), s.dev.rd BLF_PTP_CFG_EN p ≠ 0 → ptpIsMaster s.dev p = false →
    Completes (.ptpDelayReqTransmit p) s [] [.tb] fun e =>
      e.out = [.ptp p (if s.dev.rd BLF_PTP_CFG_DELAY p = 0 then .delayReq (ptpPort s.dev p).reqSeq else .pdelayReq (ptpPort s.dev p).reqSeq)] ∧
      (ptpPort e p).reqWait = some ((ptpPort s.dev p).reqSeq, trunc8 s.dev.tb.ext + 88 + s.dev.rd BLF_PTP_LAT_TX_NS p))

/-- Pulses of the time-triggered outputs (R69, R72, R472). A pulse of a one-shot or periodic output starts at its time on the 8 ns grid with its land
active, ends after WIDTH, a one-shot disarms, a periodic output arms its next pulse; in Quarantine no pulse starts. Choices of the model in it: log
entry 3; entry 3 is each clause where nothing happens because the event cannot occur. -/
def Obligations.TimeTriggeredPulses : Prop :=
  (∀ (s : State) (k : Fin 8) (t : Int), s.dev.rd BLF_TT_CTRL_MODE k = 1 → (ttOut s.dev k).nextEdge = some t →
    s.dev.rd GRP_STATUS_QUARANTINED = 0 →
    Touches (.ttPulseStart k) s [] [(BLF_TT_CTRL_ARMED, k)] [.tb, .adc, .smy0, .smy1] ∧
    Answers (.ttPulseStart k) s fun e => e.rd BLF_TT_CTRL_ARMED k = 0 ∧
      ttOut e k = { ttOut s.dev k with
        nextEdge := none, pulseEnd := some (trunc8 (trunc8 (max s.dev.tb.ext (trunc8 t)) + s.dev.rd BLF_TT_WIDTH_NS k)) } ∧
      e.out = [.ttLevel k (decide (s.dev.rd BLF_TT_CTRL_POL k = 0))]) ∧
  (∀ (s : State) (k : Fin 8) (t : Int), s.dev.rd BLF_TT_CTRL_MODE k = 2 → (ttOut s.dev k).nextEdge = some t →
    s.dev.rd GRP_STATUS_QUARANTINED = 0 →
    Answers (.ttPulseStart k) s fun e =>
      ttOut e k = { ttOut s.dev k with
        nextEdge := some (t + s.dev.rd BLF_TT_PERIOD_NS k)
        pulseEnd := some (trunc8 (trunc8 (max s.dev.tb.ext (trunc8 t)) + s.dev.rd BLF_TT_WIDTH_NS k)) } ∧
      e.out = [.ttLevel k (decide (s.dev.rd BLF_TT_CTRL_POL k = 0))]) ∧
  (∀ (s : State) (k : Fin 8), s.dev.rd BLF_TT_CTRL_MODE k = 3 → s.dev.tb.ticking = true → s.dev.rd GRP_STATUS_QUARANTINED = 0 →
    s.dev.frameNo % (s.dev.rd BLF_TT_DIV_DIV k + 1) = s.dev.rd BLF_TT_DIV_PHASE k → (ttOut s.dev k).firedIn ≠ some s.dev.frameNo →
    Answers (.ttPulseStart k) s fun e => (ttOut e k).firedIn = some s.dev.frameNo ∧
      (ttOut e k).pulseEnd = some (trunc8 (trunc8 (max s.dev.tb.ext (trunc8 (s.dev.tb.tickAt + s.dev.rd BLF_TT_START_NS k))) +
        s.dev.rd BLF_TT_WIDTH_NS k)) ∧
      e.out = [.ttLevel k (decide (s.dev.rd BLF_TT_CTRL_POL k = 0))]) ∧
  (∀ (s : State) (k : Fin 8) (t : Int), s.dev.rd BLF_TT_CTRL_MODE k = 2 → (ttOut s.dev k).nextEdge = some t →
    s.dev.rd GRP_STATUS_QUARANTINED ≠ 0 →
    Completes (.ttPulseStart k) s [] [.tb] fun e => e.out = [] ∧ (ttOut e k).pulseEnd = (ttOut s.dev k).pulseEnd) ∧
  (∀ (s : State) (k : Fin 8) (t : Int), (ttOut s.dev k).pulseEnd = some t →
    Completes (.ttPulseEnd k) s [] [.tb] fun e =>
      (ttOut e k).pulseEnd = none ∧ (ttOut e k).nextEdge = (ttOut s.dev k).nextEdge ∧
        e.out = [.ttLevel k (decide (s.dev.rd BLF_TT_CTRL_POL k ≠ 0))])

/-! The lanes (chapter 03). -/

/-- The causes of the fault latch (R74, R77 to R79, R82): each sets its flag and, in a lane that is not latched, latches it out of service with the
event of the cause as the newest record; a latched lane keeps its state. Choices of the model in it: log entries 3, 29 and 112; entry 3 is each clause
where nothing happens because the event cannot occur. -/
def Obligations.FaultLatchCauses : Prop :=
  (∀ (s : State) (l : Lane), laneMode s.dev l ≠ .absent → laneMode s.dev l ≠ .debug → (laneOf s.dev l).latch = false →
    s.dev.rd PWR_STATUS_SHARED_UP ≠ 0 →
    Answers (.lockstepMismatch l) s fun e => e.rd LN_STATUS_LOCKSTEP_MISMATCH l.idx = 1 ∧ e.latchedOut l ∧
      e.logged .LOCKSTEP_MISMATCH (srcLane l)) ∧
  (∀ (s : State) (l : Lane), laneMode s.dev l ≠ .absent → laneMode s.dev l ≠ .debug → (laneOf s.dev l).latch = true →
    Completes (.lockstepMismatch l) s [(LN_STATUS_LOCKSTEP_MISMATCH, l.idx)] [] fun e => e.rd LN_STATUS_LOCKSTEP_MISMATCH l.idx = 1) ∧
  (∀ (s : State) (l : Lane), laneMode s.dev l = .absent ∨ laneMode s.dev l = .debug →
    Completes (.lockstepMismatch l) s [] [] fun e => e.out = []) ∧
  (∀ (s : State) (l : Lane), laneMode s.dev l ≠ .absent → laneMode s.dev l ≠ .debug → (laneOf s.dev l).latch = false →
    s.dev.rd PWR_STATUS_SHARED_UP ≠ 0 →
    Answers (.memUe l) s fun e => e.rd LN_STATUS_MEM_UE l.idx = 1 ∧ e.latchedOut l ∧ e.logged .MEM_UE (srcLane l)) ∧
  (∀ (s : State) (l : Lane), laneMode s.dev l = .debug → (laneOf s.dev l).latch = false → s.dev.rd PWR_STATUS_SHARED_UP ≠ 0 →
    Answers (.memUe l) s fun e => e.rd LN_STATUS_MEM_UE l.idx = 1 ∧ (laneOf e l).latch = true ∧ (e.lanes.get l).safe ∧
      laneMode e l = .debug ∧ e.logged .MEM_UE (srcLane l)) ∧
  (∀ (s : State) (l : Lane) (n : Nat), laneMode s.dev l ≠ .absent →
    Completes (.memoryScrub l n false) s [(LN_MEM_CE_CNT, l.idx), (LN_MEM_SCRUB_PASS, l.idx)] [] fun e =>
      e.rd LN_MEM_CE_CNT l.idx = min (s.dev.rd LN_MEM_CE_CNT l.idx + n) (2 ^ LN_MEM_CE_CNT.width - 1) % 2 ^ LN_MEM_CE_CNT.width ∧
        e.rd LN_MEM_SCRUB_PASS l.idx = (s.dev.rd LN_MEM_SCRUB_PASS l.idx + 1) % 2 ^ LN_MEM_SCRUB_PASS.width) ∧
  (∀ (s : State) (l : Lane) (n : Nat), laneMode s.dev l ≠ .absent → laneMode s.dev l ≠ .debug → (laneOf s.dev l).latch = false →
    s.dev.rd PWR_STATUS_SHARED_UP ≠ 0 →
    Answers (.memoryScrub l n true) s fun e => e.rd LN_STATUS_MEM_UE l.idx = 1 ∧ e.latchedOut l ∧ e.logged .MEM_UE (srcLane l)) ∧
  (∀ (s : State) (l : Lane), laneMode s.dev l ≠ .absent → laneMode s.dev l ≠ .debug → laneMode s.dev l ≠ .faulted →
    s.dev.tb.ticking = true → s.dev.frameNo % testInterval s.dev = testOffset s.dev l →
    Completes (.cmpTest l true) s [(LN_CMP_TEST_PASS_CNT, l.idx), (LN_CMP_TEST_NEXT_GROUP, l.idx)] [.tb] fun e =>
      e.rd LN_CMP_TEST_NEXT_GROUP l.idx = (s.dev.rd LN_CMP_TEST_NEXT_GROUP l.idx + 1) % 32) ∧
  (∀ (s : State) (l : Lane), laneMode s.dev l ≠ .absent → laneMode s.dev l ≠ .debug → laneMode s.dev l ≠ .faulted →
    s.dev.tb.ticking = true → s.dev.frameNo % testInterval s.dev = testOffset s.dev l → (laneOf s.dev l).latch = false →
    s.dev.rd LN_CMP_TEST_NEXT_GROUP l.idx < 32 → s.dev.rd PWR_STATUS_SHARED_UP ≠ 0 →
    Answers (.cmpTest l false) s fun e => e.rd LN_STATUS_CMP_TEST_FAIL l.idx = 1 ∧
      e.rd LN_CMP_TEST_FAIL_GROUP l.idx = s.dev.rd LN_CMP_TEST_NEXT_GROUP l.idx ∧ e.latchedOut l ∧
        e.logged .CMP_TEST_FAIL (srcLane l) (s.dev.rd LN_CMP_TEST_NEXT_GROUP l.idx)) ∧
  (∀ (s : State) (l : Lane) (ok : Bool), laneMode s.dev l = .absent ∨ laneMode s.dev l = .debug ∨ laneMode s.dev l = .faulted →
    Completes (.cmpTest l ok) s [] [] fun e => e.out = [])

/-- Records of the exchange (R84, R86, R278): a good record is held for its sender in the lane it reached, and no other lane changes; a record that
fails a check is discarded and counted; a lane that does not exchange takes none. Choices of the model in it: log entries 3, 29 and 106; entry 3 is
each clause where nothing happens because the event cannot occur. -/
def Obligations.ExchangeRecords : Prop :=
  (∀ (s : State) (rx tx : Lane) (r : FrameRecord), exchanges s.dev rx = true → rx ≠ tx → r.laneId = laneId tx →
    r.frameNo = s.dev.frameNo →
    Completes (.frameRecordReceived rx tx .good r) s [] [.lanes] fun e =>
      (laneOf e rx).frames.get tx = some r ∧ (laneOf e rx).arrived.get tx = true ∧ ∀ k, k ≠ rx → laneOf e k = laneOf s.dev k) ∧
  (∀ (s : State) (rx tx : Lane) (r : FrameRecord), exchanges s.dev rx = true → rx ≠ tx →
    Completes (.frameRecordReceived rx tx .badCrc r) s
      [(if firstOther rx tx then LN_EXCH_ERR_CRC_P1 else LN_EXCH_ERR_CRC_P2, rx.idx)] [.lanes] fun e =>
      (laneOf e rx).frames = (laneOf s.dev rx).frames ∧ (∀ k, k ≠ rx → laneOf e k = laneOf s.dev k)) ∧
  (∀ (s : State) (rx tx : Lane) (r : FrameRecord), exchanges s.dev rx = true → rx ≠ tx → r.laneId = laneId tx →
    r.frameNo ≠ s.dev.frameNo →
    Completes (.frameRecordReceived rx tx .good r) s
      [(if firstOther rx tx then LN_EXCH_ERR_LATE_P1 else LN_EXCH_ERR_LATE_P2, rx.idx)] [.lanes] fun e =>
      (laneOf e rx).frames = (laneOf s.dev rx).frames) ∧
  (∀ (s : State) (rx tx : Lane) (r : PositionRecord), exchanges s.dev rx = true → rx ≠ tx → r.laneId = laneId tx →
    r.frameNo = s.dev.frameNo →
    Completes (.positionRecordReceived rx tx .good r) s [] [.lanes] fun e => (laneOf e rx).pos.get tx = some r) ∧
  (∀ (s : State) (rx tx : Lane) (r : ResultRecord), exchanges s.dev rx = true → rx ≠ tx → r.laneId = laneId tx →
    r.frameNo = s.dev.frameNo →
    Completes (.resultRecordReceived rx tx .good r) s [] [.lanes] fun e => (laneOf e rx).results.get tx = some r) ∧
  (∀ (s : State) (rx tx : Lane) (a : Arrival) (r : FrameRecord) (p : PositionRecord) (q : ResultRecord), exchanges s.dev rx = false →
    Completes (.frameRecordReceived rx tx a r) s [] [] (fun e => e.out = []) ∧
    Completes (.positionRecordReceived rx tx a p) s [] [] (fun e => e.out = []) ∧
    Completes (.resultRecordReceived rx tx a q) s [] [] (fun e => e.out = [])) ∧
  (∀ (s : State) (l : Lane), exchanges s.dev l = true → s.dev.tb.ticking = true →
    Completes (.positionRecordSend l) s [] [.lanes, .tb] fun e =>
      ∃ r : PositionRecord, e.out = [.positionRecord l r (positionBytes r)] ∧ r.laneId = laneId l ∧ r.frameNo = s.dev.frameNo ∧
        (laneOf e l).pos.get l = some r) ∧
  (∀ (s : State) (l : Lane) (bent : PerLane (Option (BitVec 2))), exchanges s.dev l = true → s.dev.tb.ticking = true →
    (∀ m : Lane, m ≠ l → (laneOf s.dev m).unseen = false) →
    Completes (.frameRecordSend l bent) s [] [.lanes, .tb] fun e =>
      (∀ m : Lane, m ≠ l → (laneOf e l).pairs.get m = (bent.get m).getD (pairOut s.dev m)) ∧
      ∃ r : FrameRecord, e.out = [.frameRecord l r (frameBytes (ringOf s.dev l).sched r)] ∧ r.laneId = laneId l ∧
        r.frameNo = s.dev.frameNo ∧ r.laneState = s.dev.rd LN_STATUS_STATE l.idx ∧ r.seen = (laneOf s.dev l).seen ∧
          r.decision = (laneOf s.dev l).decisionPrev ∧ (laneOf e l).frames.get l = some r) ∧
  (∀ (s : State) (l m : Lane) (bent : PerLane (Option (BitVec 2))), exchanges s.dev l = true → s.dev.tb.ticking = true → m ≠ l →
    (laneOf s.dev m).latch = true → bent.get m = none →
    Answers (.frameRecordSend l bent) s fun e => (laneOf e m).unseen = false ∧ (laneOf e l).pairs.get m = 2) ∧
  (∀ (s : State) (l : Lane) (bent : PerLane (Option (BitVec 2))), exchanges s.dev l = false →
    Completes (.frameRecordSend l bent) s [] [] fun e => e.out = [])

/-- Boot and recovery of a lane (R41, R73, R79, R106, R107, R512): what each step of the path back to service does and what it needs. Choices of the
model in it: log entries 3, 30, 31, 113 and 133; entry 3 is each clause where nothing happens because the event cannot occur. -/
def Obligations.LaneRecovery : Prop :=
  (∀ (s : State) (l : Lane), laneMode s.dev l = .boot → s.dev.mode = .hold →
    Answers (.imageVerifyDone l) s fun e => laneMode e l = .selftest ∧ (laneOf e l).bootDone = true) ∧
  (∀ (s : State) (l : Lane), laneMode s.dev l ≠ .boot → Completes (.imageVerifyDone l) s [] [] fun e => e.out = []) ∧
  (∀ s : State, s.dev.mode = .boot → s.dev.rd PWR_STATUS_SHARED_UP ≠ 0 → s.dev.flash.fw0 = none → s.dev.flash.fw1 = none →
    (∀ p, p < 18 → p ∈ s.dev.mil.tested) →
    Answers .bootTimeout s fun e => e.mode = .hold ∧ e.rd SYS_MODE_HOLD_CAUSE = 1 ∧ e.rd SYS_STATUS_BOOT_DONE = 1) ∧
  (∀ s : State, s.dev.mode ≠ .boot → Completes .bootTimeout s [] [] fun e => e.out = []) ∧
  (∀ (s : State) (p : Fin 18), s.dev.mode = .boot → p.val ∉ s.dev.mil.tested → s.dev.rd MIL_ENG_STAT_STATE p ≠ 2 →
    Completes .bootTimeout s [] [.lanes] fun e => e.mode = .boot ∧ e.out = []) ∧
  (∀ (s : State) (l : Lane), laneMode s.dev l = .selftest → (laneOf s.dev l).latch = false → s.dev.mode = .hold →
    s.dev.rd LN_STATUS_REJOIN_LIMIT l.idx = 0 →
    Answers (.selftestDone l) s fun e => laneMode e l = .inService ∧ (laneOf e l).selftested = true ∧ e.rd LN_CMP_TEST_NEXT_GROUP l.idx = 0) ∧
  (∀ (s : State) (l : Lane), laneMode s.dev l = .selftest → (laneOf s.dev l).latch = false →
    s.dev.mode = .run ∨ s.dev.mode = .degraded → s.dev.rd LN_STATUS_REJOIN_LIMIT l.idx = 0 →
    Answers (.selftestDone l) s fun e => laneMode e l = .resync ∧ (laneOf e l).needImage = true ∧ (e.lanes.get l).safe) ∧
  (∀ (s : State) (l : Lane), laneMode s.dev l = .selftest → (laneOf s.dev l).latch = false → s.dev.mode = .boot →
    Completes (.selftestDone l) s [(LN_CMP_TEST_NEXT_GROUP, l.idx)] [.lanes] fun e =>
      laneMode e l = .selftest ∧ (laneOf e l).selftested = true ∧ e.rd LN_CMP_TEST_NEXT_GROUP l.idx = 0) ∧
  (∀ (s : State) (l : Lane), laneMode s.dev l = .selftest → (laneOf s.dev l).selftested = false → (laneOf s.dev l).latch = false →
    s.dev.rd PWR_STATUS_SHARED_UP ≠ 0 →
    Answers (.selftestTimeout l) s fun e => e.rd LN_STATUS_CMP_TEST_FAIL l.idx = 1 ∧ e.latchedOut l ∧ e.logged .CMP_TEST_FAIL (srcLane l)) ∧
  (∀ (s : State) (l : Lane), (laneOf s.dev l).latch = true → s.dev.rd LN_STATUS_REJOIN_LIMIT l.idx = 0 →
    s.dev.rd PWR_STATUS_SHARED_UP ≠ 0 → convOk s.dev l = true → heldBy s.dev l.idx = [] →
    (s.dev.rd PWR_STATUS_LANE_UP).testBit l.idx = true →
    Answers (.faultLatchTimeout l) s fun e => laneMode e l = .boot ∧ (laneOf e l).latch = false ∧ (e.lanes.get l).safe) ∧
  (∀ (s : State) (l : Lane), (laneOf s.dev l).latch = true → s.dev.rd LN_STATUS_REJOIN_LIMIT l.idx ≠ 0 →
    Completes (.faultLatchTimeout l) s [] [] fun e => e.out = []) ∧
  (∀ (s : State) (x l : Lane), wantsImage s.dev x = true → canHelp s.dev = true → donorOf s.dev x = some l →
    (laneOf s.dev x).reloadChunks < 8 → bulkOpen s.dev l = true → (laneOf s.dev x).bulkFrame ≠ some s.dev.frameNo →
    Completes (.reloadChunkSend x) s [] [.lanes, .tb] fun e =>
      e.out = [.reloadChunk l x (laneOf s.dev x).reloadChunks] ∧ (laneOf e x).reloadChunks = (laneOf s.dev x).reloadChunks + 1 ∧
        (laneOf e x).bulkFrame = some s.dev.frameNo) ∧
  (∀ (s : State) (x : Lane), (laneOf s.dev x).bulkFrame = some s.dev.frameNo →
    Completes (.reloadChunkSend x) s [] [] fun e => e.out = []) ∧
  (∀ (s : State) (x : Lane), wantsImage s.dev x = true → (laneOf s.dev x).reloadBlocks < 8 * (laneOf s.dev x).reloadChunks →
    canHelp s.dev = true → ((laneOf s.dev x).bulkFrame = some s.dev.frameNo → (laneOf s.dev x).bulkBlocks < 8) →
    Completes (.bulkBlockReceived x true) s [] [.lanes] fun e =>
      (laneOf e x).reloadBlocks = (laneOf s.dev x).reloadBlocks + 1 ∧ (laneOf e x).staging = (laneOf s.dev x).staging) ∧
  (∀ (s : State) (x l : Lane) (i : Image), (laneOf s.dev x).staging = some i → donorOf s.dev x = some l → wantsImage s.dev x = true →
    (laneOf s.dev x).reloadBlocks = 64 → (laneOf s.dev x).switchAt = none → canHelp s.dev = true →
    (laneOf s.dev x).bulkFrame ≠ some s.dev.frameNo → imageDigest i = imageDigest (laneOf s.dev l).image →
    Completes (.reloadVerify x) s [] [.lanes] fun e =>
      (laneOf e x).switchAt = some ((s.dev.frameNo + 2 - s.dev.frameNo % 2) % 2 ^ 32)) ∧
  (∀ (s : State) (x l : Lane) (i : Image), (laneOf s.dev x).staging = some i → donorOf s.dev x = some l → wantsImage s.dev x = true →
    (laneOf s.dev x).reloadBlocks = 64 → (laneOf s.dev x).switchAt = none → canHelp s.dev = true →
    (laneOf s.dev x).bulkFrame ≠ some s.dev.frameNo → imageDigest i ≠ imageDigest (laneOf s.dev l).image →
    (laneOf s.dev x).reloadTries = 0 →
    Completes (.reloadVerify x) s [] [.lanes] fun e =>
      (laneOf e x).reloadTries = 1 ∧ (laneOf e x).staging = none ∧ (laneOf e x).reloadChunks = 0) ∧
  (∀ (s : State) (l : Lane) (i : Image), (laneOf s.dev l).staging = some i → (laneOf s.dev l).switchAt = some s.dev.frameNo →
    s.dev.tb.ticking = true → laneMode s.dev l = .inService →
    Answers .imageSwitch s fun e => (laneOf e l).image = i ∧ (laneOf e l).staging = none ∧ (laneOf e l).switchAt = none) ∧
  (∀ (s : State) (x l : Lane), donorOf s.dev x = some l → laneMode s.dev x = .resync → (laneOf s.dev x).needImage = false →
    canHelp s.dev = true → s.dev.frameNo % 2 = 0 → s.dev.tb.ticking = true → (laneOf s.dev x).snapshot = none →
    (laneOf s.dev l).agreedNow = false → (laneOf s.dev x).agreedNow = false →
    Completes (.resyncSnapshot x) s [] [.lanes] fun e =>
      e.out = [.snapshot l x] ∧ (laneOf e x).saf = (laneOf s.dev l).saf ∧ (laneOf e x).snapshotAt = s.dev.frameNo ∧
        ∃ q, (laneOf e x).snapshot = some q ∧ q.saf = (laneOf s.dev l).saf ∧ q.runs = (laneOf s.dev l).outlierRun) ∧
  (∀ (s : State) (x : Lane), laneMode s.dev x = .resync → (laneOf s.dev x).snapshot.isSome = true →
    (laneOf s.dev x).snapshotBlocks = 16 → canHelp s.dev = true → (laneOf s.dev x).agreedNow = false →
    s.dev.frameNo = ((laneOf s.dev x).snapshotAt + 2) % 2 ^ 32 →
    Answers (.snapshotLoad x) s fun e => laneMode e x = .shadow ∧ (laneOf e x).saf = (laneOf s.dev x).saf ∧
      (laneOf e x).snapshot = none ∧ (e.lanes.get x).safe) ∧
  (∀ (s : State) (x : Lane), laneMode s.dev x = .shadow → 16 ≤ (laneOf s.dev x).shadowRun → s.dev.frameNo % 2 = 0 →
    canHelp s.dev = true → s.dev.rd PWR_STATUS_SHARED_UP ≠ 0 →
    Answers (.laneRejoin x) s fun e => laneMode e x = .inService ∧ e.rd LN_STATUS_LANE_REJOIN x.idx = 1 ∧ e.logged .LANE_REJOIN (srcLane x)) ∧
  (∀ (s : State) (x : Lane), laneMode s.dev x = .shadow → (laneOf s.dev x).shadowRun < 16 →
    Completes (.laneRejoin x) s [] [] fun e => e.out = [])

/-! Evaluation, arbitration and degraded mode (chapters 03, 04). -/

/-- The evaluation of a lane acts through the lane's own outputs (R42, R43, R93): in Hold mode a lane in service keeps every gate line off and drives
SAFE_OK as R43 gives it; a latched lane, and a lane in a state without evaluation, does nothing. The window's end finds a lane whose evaluation is not
complete in overrun (R119). Choices of the model in it: log entry 3; entry 3 is each clause where nothing happens because the event cannot occur. -/
def Obligations.LaneEvaluationDrivesOutputs : Prop :=
  (∀ (s : State) (l : Lane), s.dev.tb.ticking = true → laneMode s.dev l = .inService → (laneOf s.dev l).latch = false → s.dev.mode = .hold →
    (laneOf s.dev l).evaluated = false → s.dev.offset < evaluationEnd s.dev → (∀ j m : Lane, (laneOf s.dev j).silentRun.get m < 2) →
    Answers (.laneEvaluation l) s fun e => (laneOf e l).evaluated = true ∧ (laneOf e l).gates = 0 ∧
      (laneOf e l).safeOk = ((laneOf s.dev l).selftested && !anyDisc s.dev l) ∧ e.mode = .hold) ∧
  (∀ (s : State) (l : Lane), laneMode s.dev l = .inService ∨ laneMode s.dev l = .shadow → (laneOf s.dev l).latch = true →
    Completes (.laneEvaluation l) s [] [] fun e => e.out = []) ∧
  (∀ (s : State) (l : Lane), laneMode s.dev l = .absent ∨ laneMode s.dev l = .boot ∨ laneMode s.dev l = .selftest ∨
      laneMode s.dev l = .reload ∨ laneMode s.dev l = .debug ∨
      (laneMode s.dev l = .resync ∧ (evaluates s.dev l = false ∨ s.dev.mode = .hold)) →
    Completes (.laneEvaluation l) s [] [] fun e => e.out = []) ∧
  (∀ (s : State) (l : Lane), (laneOf s.dev l).evaluated = true ∨ evaluationEnd s.dev ≤ s.dev.offset →
    Completes (.laneEvaluation l) s [] [] fun e => e.out = []) ∧
  (∀ (s : State) (l : Lane), s.dev.tb.ticking = true → laneMode s.dev l = .inService → (laneOf s.dev l).latch = false → s.dev.mode ≠ .hold →
    (laneOf s.dev l).evaluated = false → s.dev.offset < evaluationEnd s.dev → (∀ j m : Lane, (laneOf s.dev j).silentRun.get m < 2) →
    Answers (.laneEvaluation l) s fun e => (laneOf e l).evaluated = true ∧ (laneOf e l).gates = gateMask e l) ∧
  (∀ (s : State) (l : Lane), s.dev.tb.ticking = true → laneMode s.dev l = .faulted → rejoinReady s.dev l = true →
    (laneOf s.dev l).evaluated = false → s.dev.offset < evaluationEnd s.dev →
    Answers (.laneEvaluation l) s fun e => laneMode e l = .resync ∧ (laneOf e l).needImage = true) ∧
  (∀ (s : State) (l : Lane), s.dev.tb.ticking = true → evaluates s.dev l = true → (laneOf s.dev l).evaluated = true →
    Completes (.evaluationWindowEnd l) s [] [.lanes, .tb] fun e => (laneOf e l).overrun = false ∧ (laneOf e l).overrunRun = 0) ∧
  (∀ (s : State) (l : Lane), s.dev.tb.ticking = true → evaluates s.dev l = true → (laneOf s.dev l).evaluated = false →
    s.dev.rd PWR_STATUS_SHARED_UP ≠ 0 →
    Completes (.evaluationWindowEnd l) s ([(SAF_LANE_OUT_OVERRUN, 0)] ++ recordRegs (srcLane l)) [.lanes, .tb, .log] fun e =>
      (laneOf e l).overrun = true ∧ (laneOf e l).overrunRun = min 2 ((laneOf s.dev l).overrunRun + 1) ∧
        e.logged .LANE_OVERRUN (srcLane l)) ∧
  (∀ (s : State) (l : Lane), evaluates s.dev l = false → Completes (.evaluationWindowEnd l) s [] [] fun e => e.out = [])

/-- What a lane in service loads into its safety buffer (R73, R117, R119, R163): the commands of its own safety functions, after a first overrun the
content of the cycle before with REPEAT, otherwise the safe pattern of R79, from the second overrun on as the lane were FAULTED; a shared block cannot
write the buffer (R26). Choices of the model in it: log entries 3 and 108; entry 3 is each clause where nothing happens because the event cannot
occur. -/
def Obligations.SafetyBufferContent : Prop :=
  (∀ (s : State) (l : Lane) (k : Nat), s.dev.tb.ticking = true → inService s.dev l = true → (laneOf s.dev l).latch = false →
    k < (ringOf s.dev l).sched.length → (laneOf s.dev l).overrun = false → s.dev.mode ≠ .hold → (laneOf s.dev l).saf.deen = false →
    2 ≤ (regardedLanes s.dev).length → (ringOf s.dev l).sched = (laneOf s.dev l).image.params.schedule →
    Completes (.safetyBufferLoad l .lane) s [] [.rings, .tb] fun e =>
      SMap.get {} (ringOf e l).safety k = { flag := 5, payload := commandPayload (laneOf s.dev l).image.params (laneOf s.dev l).saf k }) ∧
  (∀ (s : State) (l : Lane) (k : Nat), s.dev.tb.ticking = true → inService s.dev l = true → (laneOf s.dev l).latch = false →
    k < (ringOf s.dev l).sched.length → (laneOf s.dev l).overrun = false →
    s.dev.mode = .hold ∨ (laneOf s.dev l).saf.deen = true ∨ (regardedLanes s.dev).length < 2 →
    Completes (.safetyBufferLoad l .lane) s [] [.rings, .tb] fun e =>
      SMap.get {} (ringOf e l).safety k =
        { flag := 5, payload := safePayload (entryAt (ringOf s.dev l).sched k).profile (entryAt (ringOf s.dev l).sched k).pc }) ∧
  (∀ (s : State) (l : Lane) (k : Nat), s.dev.tb.ticking = true → inService s.dev l = true → (laneOf s.dev l).latch = false →
    k < (ringOf s.dev l).sched.length → (laneOf s.dev l).overrun = true → (laneOf s.dev l).overrunRun ≤ 1 →
    Completes (.safetyBufferLoad l .lane) s [] [.rings, .tb] fun e =>
      SMap.get {} (ringOf e l).safety k = { bufferPart s.dev l (ringOf s.dev l).sched k with flag := 5 + 16 }) ∧
  (∀ (s : State) (l : Lane) (k : Nat), s.dev.tb.ticking = true → inService s.dev l = true → (laneOf s.dev l).latch = false →
    k < (ringOf s.dev l).sched.length → (laneOf s.dev l).overrun = true → 2 ≤ (laneOf s.dev l).overrunRun →
    Completes (.safetyBufferLoad l .lane) s [] [.rings, .tb] fun e =>
      SMap.get {} (ringOf e l).safety k =
        { flag := 7, payload := safePayload (entryAt (ringOf s.dev l).sched k).profile (entryAt (ringOf s.dev l).sched k).pc }) ∧
  (∀ (s : State) (l : Lane), inService s.dev l = false ∨ (laneOf s.dev l).latch = true →
    Completes (.safetyBufferLoad l .lane) s [] [] fun e => e.out = []) ∧
  (∀ (s : State) (l : Lane), s.dev.rd PWR_STATUS_SHARED_UP ≠ 0 →
    Completes (.safetyBufferLoad l .shared) s
      ([(SYS_STATUS_LOCK_VIOL, 0), (SYS_ERR_CNT0_LOCK_VIOL_CNT, 0)] ++ errRegs ++ recordRegs srcSystem) [.log] fun e =>
        e.rd SYS_STATUS_LOCK_VIOL = 1 ∧ e.logged .LOCK_VIOL srcSystem)

/-- Self-test arbitration (R96, R97, R511, Tables 3-5 and 3-6): the start with its suspect, a suspect cleared less than 60 s ago, no trigger; the
judgement of a lane by another; and the outcome with three lanes in service, FAULTED after a FAIL verdict, else back through resynchronisation;
without a suspect in service nothing follows (R100). Choices of the model in it: log entries 3, 29 and 109; entry 3 is each clause where nothing
happens because the event cannot occur. -/
def Obligations.ArbitrationSteps : Prop :=
  (∀ (s : State) (sigs : PerLane (BitVec 64)) (m : Lane), namedSuspects s.dev = [m] → arbRuns s.dev = false → s.dev.mode ≠ .hold →
    (serviceLanes s.dev).length = 3 → clearedLately s.dev m = false →
    Answers (.arbStart sigs) s fun e => (∀ l : Lane, (laneOf e l).arb.phase = 1 ∧ (laneOf e l).arb.suspects = 2 ^ m.idx ∧
      (laneOf e l).arb.test = s.dev.frameNo % 64 ∧ (laneOf e l).arb.sig = sigs.get l ∧ (laneOf e l).arb.ss1 = false ∧
        e.rd LN_STATUS_IN_VOTE l.idx = bitOf (decide (l ≠ m)))) ∧
  (∀ (s : State) (sigs : PerLane (BitVec 64)) (m : Lane), namedSuspects s.dev = [m] → arbRuns s.dev = false → s.dev.mode ≠ .hold →
    (serviceLanes s.dev).length = 3 → clearedLately s.dev m = true →
    Answers (.arbStart sigs) s fun e => laneMode e m = .faulted ∧ e.rd LN_STATUS_ARB_FAULT m.idx = 1 ∧ (e.lanes.get m).safe) ∧
  (∀ (s : State) (sigs : PerLane (BitVec 64)) (l m : Lane), serviceLanes s.dev = Lane.all.filter (fun k => decide (k = l ∨ k = m)) → l ≠ m →
    namedSuspects s.dev ≠ [] → arbRuns s.dev = false → s.dev.mode ≠ .hold → clearedLately s.dev m = true →
    Answers (.arbStart sigs) s fun e => laneMode e m = .faulted ∧ e.rd LN_STATUS_ARB_FAULT m.idx = 1 ∧ (e.lanes.get m).safe) ∧
  (∀ (s : State) (sigs : PerLane (BitVec 64)), namedSuspects s.dev = [] ∨ s.dev.mode = .hold →
    Completes (.arbStart sigs) s [] [] fun e => e.out = []) ∧
  (∀ (s : State) (l : Lane), inService s.dev l = true → (laneOf s.dev l).arb.phase = 2 →
    Completes (.arbJudge l) s [] [.lanes, .tb] fun e => ∀ m : Lane, m ≠ l → inService s.dev m = true →
      (laneOf e l).arb.given.testBit m.idx = true ∧
      (laneOf e l).arb.pass.testBit m.idx = match (laneOf s.dev l).frames.get m with
        | some r => decide (r.arbState = 2 ∧ r.arbSig = Config.katSignature (laneOf s.dev l).arb.test)
        | none => false) ∧
  (∀ (s : State) (l : Lane), (laneOf s.dev l).arb.phase ≠ 2 → Completes (.arbJudge l) s [] [] fun e => e.out = []) ∧
  (∀ (s : State) (m : Lane), (laneOf s.dev s.dev.firstLane).arb.phase = 3 → (serviceLanes s.dev).length = 3 →
    (laneOf s.dev s.dev.firstLane).arb.suspects = 2 ^ m.idx → failsArb s.dev m = true →
    Answers .arbOutcome s fun e => laneMode e m = .faulted ∧ e.rd LN_STATUS_ARB_FAULT m.idx = 1 ∧ e.rd LN_ARB_LAST_OUTCOME m.idx = 2 ∧
      (e.lanes.get m).safe ∧ ∀ l : Lane, (laneOf e l).arb.phase = 0) ∧
  (∀ (s : State) (m : Lane), (laneOf s.dev s.dev.firstLane).arb.phase = 3 → (serviceLanes s.dev).length = 3 →
    (laneOf s.dev s.dev.firstLane).arb.suspects = 2 ^ m.idx → failsArb s.dev m = false →
    Answers .arbOutcome s fun e => laneMode e m = .resync ∧ e.rd LN_ARB_LAST_OUTCOME m.idx = 1 ∧ (e.lanes.get m).safe ∧
      ∀ l : Lane, (laneOf e l).arb.phase = 0) ∧
  (∀ s : State, (laneOf s.dev s.dev.firstLane).arb.phase = 3 → (serviceLanes s.dev).length = 2 →
    (∀ m ∈ serviceLanes s.dev, (laneOf s.dev s.dev.firstLane).arb.suspects.testBit m.idx = false) →
    Answers .arbOutcome s fun e => (∀ l : Lane, (laneOf e l).arb.phase = 0 ∧ laneMode e l = laneMode s.dev l ∧
      (laneOf e l).saf = (laneOf s.dev l).saf) ∧ e.mode = s.dev.mode)

/-- Self-test arbitration with two lanes in service (R98, Table 3-7): both are suspects and keep voting; each judges the other; two PASS verdicts
identify no lane and the device performs SS1; one FAIL faults the lane it concerns, a second lane fault, which de-energises the device; two FAIL
verdicts de-energise both lanes. (A lane cleared less than 60 s before is faulted without a test, Table 3-6: ArbitrationSteps.) -/
def Obligations.ArbitrationOfTwoLanes : Prop :=
  (∀ (s : State) (sigs : PerLane (BitVec 64)) (l m : Lane), l ≠ m → serviceLanes s.dev = Lane.all.filter (fun k => decide (k = l ∨ k = m)) →
    namedSuspects s.dev ≠ [] → arbRuns s.dev = false → s.dev.mode ≠ .hold → clearedLately s.dev l = false → clearedLately s.dev m = false →
    Answers (.arbStart sigs) s fun e => ∀ k : Lane, k = l ∨ k = m → (laneOf e k).arb.phase = 1 ∧
      (laneOf e k).arb.suspects = 2 ^ l.idx + 2 ^ m.idx ∧ (laneOf e k).arb.ss1 = true ∧ e.rd LN_STATUS_IN_VOTE k.idx = 1) ∧
  (∀ (s : State) (l m : Lane), l ≠ m → serviceLanes s.dev = Lane.all.filter (fun k => decide (k = l ∨ k = m)) →
    (laneOf s.dev l).arb.phase = 2 →
    Completes (.arbJudge l) s [] [.lanes, .tb] fun e => (laneOf e l).arb.given.testBit m.idx = true ∧
      (laneOf e l).arb.pass.testBit m.idx = match (laneOf s.dev l).frames.get m with
        | some r => decide (r.arbState = 2 ∧ r.arbSig = Config.katSignature (laneOf s.dev l).arb.test)
        | none => false) ∧
  (∀ (s : State) (l : Lane), (laneOf s.dev s.dev.firstLane).arb.phase = 3 → (serviceLanes s.dev).length = 2 →
    (∀ m ∈ serviceLanes s.dev, failsArb s.dev m = false) → l ∈ serviceLanes s.dev →
    (∃ m ∈ serviceLanes s.dev, (laneOf s.dev s.dev.firstLane).arb.suspects.testBit m.idx = true) →
    Answers .arbOutcome s fun e => (laneOf e l).saf.stopOutcome = true ∧ laneMode e l = .inService ∧ e.rd LN_ARB_LAST_OUTCOME l.idx = 3 ∧
      ∀ u : Fin 32, ∃ q ∈ (unitDyn (laneOf e l).saf u).demands, 4 ≤ q.kind ∧ q.active = true) ∧
  (∀ (s : State) (l m : Lane), (laneOf s.dev s.dev.firstLane).arb.phase = 3 → l ≠ m →
    serviceLanes s.dev = Lane.all.filter (fun k => decide (k = l ∨ k = m)) → failsArb s.dev l = true → failsArb s.dev m = false →
    (∃ k ∈ serviceLanes s.dev, (laneOf s.dev s.dev.firstLane).arb.suspects.testBit k.idx = true) →
    (∀ k : Lane, (laneOf s.dev k).unseen = false) → s.dev.mode ≠ .boot → s.dev.mode ≠ .hold →
    Answers .arbOutcome s fun e => laneMode e l = .faulted ∧ e.rd LN_STATUS_ARB_FAULT l.idx = 1 ∧ e.safe ∧ e.mode = .safeState) ∧
  (∀ (s : State) (l m : Lane), (laneOf s.dev s.dev.firstLane).arb.phase = 3 → l ≠ m →
    serviceLanes s.dev = Lane.all.filter (fun k => decide (k = l ∨ k = m)) → failsArb s.dev l = true → failsArb s.dev m = true →
    (∃ k ∈ serviceLanes s.dev, (laneOf s.dev s.dev.firstLane).arb.suspects.testBit k.idx = true) →
    Answers .arbOutcome s fun e => (e.lanes.get l).safe ∧ (e.lanes.get m).safe)


/-- Degraded mode and its timer (R109, R114, R124, R126, R132), and the loss of the tick and of a ring (R39, R113): each lane that has lost its tick
is in its safe state at once, and if every running lane has, the whole device is; a ring whose cycle did not return in two consecutive frames takes
its lane out of service. Choices of the model in it: log entries 2 and 3. -/
def Obligations.DegradedTimerAndLosses : Prop :=
  (∀ (s : State) (l : Lane), (laneOf s.dev s.dev.firstLane).saf.degLeft = some 0 →
    (laneOf s.dev s.dev.firstLane).saf.degExpired = false → s.dev.rd PWR_STATUS_SHARED_UP ≠ 0 → inService s.dev l = true →
    Answers .degTimerExpired s fun e => e.rd SAF_DEG_STATUS_EXPIRED = 1 ∧ e.logged .DEG_EXPIRED srcSafety ∧
      (laneOf e l).saf.degExpired = true ∧ (laneOf e l).saf.stopOutcome = true ∧
        ∀ u, u < 32 → ∃ q ∈ (unitDyn (laneOf e l).saf u).demands, q.cause = 0x03 ∧ 4 ≤ q.kind ∧ q.active = true) ∧
  (∀ s : State, (laneOf s.dev s.dev.firstLane).saf.degLeft ≠ some 0 → Completes .degTimerExpired s [] [] fun e => e.out = []) ∧
  (∀ s : State, (laneOf s.dev s.dev.firstLane).saf.degLeft.isSome = true → (laneOf s.dev s.dev.firstLane).saf.degExpired = false →
    healthy s.dev = true →
    Answers .degTimerStop s fun e => (∀ l : Lane, (laneOf e l).saf.degLeft = none) ∧ (∀ p ∈ e.fault.counted, p.1 ≠ 1) ∧
      e.rd SAF_DEG_STATUS_ACTIVE = 0 ∧ (s.dev.mode = .degraded → e.mode = .run)) ∧
  (∀ s : State, healthy s.dev = false → Completes .degTimerStop s [] [] fun e => e.out = []) ∧
  (∀ (s : State) (l : Lane), evaluates s.dev l = true → (laneOf s.dev l).saf.tight = true →
    rampFrames s.dev (laneOf s.dev l).image.params ≤ (laneOf s.dev l).saf.tightFr + 1 →
    Touches .tighteningRampEnd s [] [] [.lanes] ∧
    Answers .tighteningRampEnd s fun e => (laneOf e l).saf.tightFr = rampFrames s.dev (laneOf s.dev l).image.params) ∧
  (∀ (s : State) (miss : PerLane Bool) (l : Lane), inService s.dev l = true → miss.get l = true →
    (∀ k : Lane, k ≠ l → miss.get k = false) → (∃ k : Lane, k ≠ l ∧ laneMode s.dev k = .inService) →
    Answers (.tickLost miss) s fun e => laneMode e l = .faulted ∧ e.rd LN_STATUS_TICK_LOST l.idx = 1 ∧ (e.lanes.get l).safe) ∧
  (∀ s : State, (∃ k : Lane, laneMode s.dev k ≠ .absent ∧ laneMode s.dev k ≠ .boot) →
    Answers (.tickLost ⟨true, true, true⟩) s fun e => e.safe ∧
      (s.dev.mode ≠ .boot ∧ s.dev.mode ≠ .hold → e.mode = .safeState)) ∧
  (∀ (s : State) (miss : PerLane Bool) (l : Lane), laneMode s.dev l = .shadow ∨ laneMode s.dev l = .resync ∨ laneMode s.dev l = .reload →
    miss.get l = true → (∃ k : Lane, miss.get k = false ∧ laneMode s.dev k ≠ .absent ∧ laneMode s.dev k ≠ .boot) →
    Answers (.tickLost miss) s fun e => laneMode e l = .faulted ∧ e.rd LN_STATUS_TICK_LOST l.idx = 1) ∧
  (∀ s : State, Completes (.tickLost ⟨false, false, false⟩) s [] [] fun e => e.out = []) ∧
  (∀ (s : State) (l : Lane) (n : Nat), s.dev.tb.ticking = true → s.dev.rd ENT_START_STATE l.idx ≠ 2 →
    (ringOf s.dev l).inFlight = some n → (ringOf s.dev l).back0 = none →
    (ringOf s.dev l).back1 = none → 1 ≤ (ringOf s.dev l).noReturn → inService s.dev l = true →
    Answers .cycleCompletionLimit s fun e => laneMode e l = .faulted ∧ (e.lanes.get l).safe ∧
      (e.rd SAF_LANE_OUT_RING_LOST).testBit l.idx = true ∧ (ringOf e l).inFlight = none) ∧
  (∀ (s : State) (l : Lane) (n a b : Nat), s.dev.tb.ticking = true → s.dev.rd ENT_START_STATE l.idx ≠ 2 →
    (ringOf s.dev l).inFlight = some n → (ringOf s.dev l).back0 = some a →
    (ringOf s.dev l).back1 = some b → (ringOf s.dev l).turned = false → (ringOf s.dev l).wholeHop = true → (ringOf s.dev l).untouched = 2 →
    (ringOf s.dev l).closedRun < 15 →
    Answers .cycleCompletionLimit s fun e => (ringOf e l).closedRun = (ringOf s.dev l).closedRun + 1 ∧ (ringOf e l).noReturn = 0 ∧
      (ringOf e l).inFlight = none) ∧
  (∀ s : State, s.dev.tb.ticking = false → Completes .cycleCompletionLimit s [] [] fun e => e.out = [])

/-! Safety inputs and functions (chapter 10). -/

/-- Safety inputs (R84, R90, R313, R315, R316): the agreed values of a frame, the change a filter lets through, a discrepancy that latches, and an
acknowledgement. Choices of the model in it: log entries 3, 32, 37 and 114; entry 3 is each clause where nothing happens because the event cannot
occur. -/
def Obligations.SafetyInputSteps : Prop :=
  (∀ (s : State) (l : Lane), exchanges s.dev l = true → s.dev.tb.ticking = true →
    Answers (.agreeValues l) s fun e => (laneOf e l).agreed.frame = s.dev.frameNo ∧
      (laneOf e l).agreed.ch1 = (agreeContacts (countedRecords s.dev l) (·.ch1)).2 ∧
        (laneOf e l).agreed.ch2 = (agreeContacts (countedRecords s.dev l) (·.ch2)).2) ∧
  (∀ (s : State) (l : Lane), exchanges s.dev l = false → Completes (.agreeValues l) s [] [] fun e => e.out = []) ∧
  (∀ (s : State) (i : Fin 24) (l : Lane), evaluates s.dev l = true →
    Touches (.siFilteredChange i) s [] [(SAF_SI_STAT_CH1, i), (SAF_SI_STAT_CH2, i), (SAF_SI_STAT_ACTIVE, i), (SAF_SI_STAT_MIXED, i),
      (SAF_SI_STAT_DISC, i), (SAF_SI_STAT_FUNC, i)] [.lanes] ∧
    Answers (.siFilteredChange i) s fun e =>
      let c := inputCfg (inHold s.dev) (laneOf s.dev l).image.params i
      let p := pairOf (laneOf s.dev l).saf i
      (pairOf (laneOf e l).saf i).f1 = (p.f1 != decide (4 * c.filtQ / s.dev.periodUnits < p.n1)) ∧
        (pairOf (laneOf e l).saf i).f2 = (p.f2 != decide (4 * c.filtQ / s.dev.periodUnits < p.n2)) ∧
          ∀ j, j ≠ i.val → pairOf (laneOf e l).saf j = pairOf (laneOf s.dev l).saf j) ∧
  (∀ (s : State) (i : Fin 32), evaluates s.dev s.dev.firstLane = true → discReached s.dev s.dev.firstLane i = true →
    s.dev.rd PWR_STATUS_SHARED_UP ≠ 0 →
    Answers (.siDiscrepancy i) s fun e => (pairOf (laneOf e s.dev.firstLane).saf i).disc = true ∧ e.rd SAF_SAFE_OK_DISC_ANY = 1 ∧
      (i.val < 24 → e.rd SAF_SI_STAT_DISC_EV i = 1) ∧ e.logged .SI_DISCREPANCY (inputSource i) (if i.val < 24 then 0 else i)) ∧
  (∀ (s : State) (i : Fin 32) (l : Lane) (u n : Nat), evaluates s.dev l = true → u < 32 →
    (pairOf (laneOf s.dev l).saf i).ackBack = some n → (inputCfg (inHold s.dev) (laneOf s.dev l).image.params i).func = 3 →
    msReached s.dev n (laneOf s.dev l).image.params.ackMinMs = true →
    n * s.dev.frameNs ≤ (laneOf s.dev l).image.params.ackMaxMs * 1000000 →
    (inputCfg (inHold s.dev) (laneOf s.dev l).image.params i).mask.testBit u = true →
    canAck (refreshDemands s.dev l u (unitDyn (laneOf s.dev l).saf u)) = true →
    Answers (.ackPulse i) s fun e => (∀ q ∈ (unitDyn (laneOf e l).saf u).demands, ackEnds q.cause = false) ∧
      (pairOf (laneOf e l).saf i).ackBack = none)

/-- The stop functions of a unit run on into STO (R300, R302, R307, R310): standstill, the time limit, the STO delay, the SS1 time of a local axis and
a drive that does not report STO. Choices of the model in it: log entry 3; entry 3 is each clause where nothing happens because the event cannot
occur. -/
def Obligations.StopFunctionsEndInSto : Prop :=
  (∀ (s : State) (u : Fin 16) (l : Lane), evaluates s.dev l = true → (unitDyn (laneOf s.dev l).saf u).func = 4 →
    (laneOf s.dev l).image.params.nStill ≤ (unitDyn (laneOf s.dev l).saf u).stillFr →
    rampBroken s.dev.frameNs (laneOf s.dev l).image.params (laneOf s.dev l).saf u (unitDyn (laneOf s.dev l).saf u) = false →
    (unitDyn (laneOf s.dev l).saf u).stoWait = false →
    Answers (.standstillReached u) s fun e =>
      let y := unitDyn (laneOf e l).saf u
      y.brakeRel = false ∧ (if unitBrakes (laneOf s.dev l).image.params u = [] then y.func = 5 ∧ y.torque = false
        else y.func = 2 ∧ y.stoWait = true ∧ y.sosFr = 0)) ∧
  (∀ (s : State) (u : Fin 16) (l : Lane), evaluates s.dev l = true → (unitDyn (laneOf s.dev l).saf u).func = 3 →
    (laneOf s.dev l).image.params.nStill ≤ (unitDyn (laneOf s.dev l).saf u).stillFr →
    rampBroken s.dev.frameNs (laneOf s.dev l).image.params (laneOf s.dev l).saf u (unitDyn (laneOf s.dev l).saf u) = false →
    Answers (.standstillReached u) s fun e => (unitDyn (laneOf e l).saf u).func = 2 ∧
      (unitDyn (laneOf e l).saf u).torque = (unitDyn (laneOf s.dev l).saf u).torque) ∧
  (∀ (s : State) (u : Fin 16) (l : Lane), evaluates s.dev l = true → (unitDyn (laneOf s.dev l).saf u).func = 3 →
    msReached s.dev (unitDyn (laneOf s.dev l).saf u).stopFr (armCfg (laneOf s.dev l).image.params u).stopTmaxMs = true →
    Answers (.stopTimeLimit u) s fun e => (unitDyn (laneOf e l).saf u).func = 5 ∧ (unitDyn (laneOf e l).saf u).torque = false ∧
      (unitDyn (laneOf e l).saf u).brakeRel = false) ∧
  (∀ (s : State) (u : Fin 16) (l : Lane), evaluates s.dev l = true → (unitDyn (laneOf s.dev l).saf u).stoWait = true →
    msReached s.dev (unitDyn (laneOf s.dev l).saf u).sosFr (armCfg (laneOf s.dev l).image.params u).stoDelayMs = true →
    Answers (.stoDelayExpired u) s fun e => (unitDyn (laneOf e l).saf u).func = 5 ∧ (unitDyn (laneOf e l).saf u).torque = false ∧
      (unitDyn (laneOf e l).saf u).stoWait = false) ∧
  (∀ (s : State) (k : Fin 16) (l : Lane), evaluates s.dev l = true → (unitDyn (laneOf s.dev l).saf (16 + k)).func = 4 →
    msReached s.dev (unitDyn (laneOf s.dev l).saf (16 + k)).stopFr (SMap.get {} (laneOf s.dev l).image.params.locals k).ss1Ms = true →
    Answers (.localSs1Timeout k) s fun e => (unitDyn (laneOf e l).saf (16 + k)).func = 5 ∧
      (unitDyn (laneOf e l).saf (16 + k)).torque = false ∧ ∃ q ∈ (unitDyn (laneOf e l).saf (16 + k)).demands, q.cause = 0x0D ∧ 5 ≤ q.kind) ∧
  (∀ (s : State) (u : Fin 16), evaluates s.dev s.dev.firstLane = true →
    (laneOf s.dev s.dev.firstLane).image.params.stoAckFr ≤ (unitDyn (laneOf s.dev s.dev.firstLane).saf u).noStoFr →
    (unitDyn (laneOf s.dev s.dev.firstLane).saf u).demands = [] → s.dev.rd PWR_STATUS_SHARED_UP ≠ 0 →
    Answers (.driveStoAckTimeout u) s fun e => (unitDyn (laneOf e s.dev.firstLane).saf u).func = 5 ∧
      (unitDyn (laneOf e s.dev.firstLane).saf u).demands = [{ cause := 0x0B, kind := 5 }] ∧ e.logged .DRIVE_STO_FAIL (srcUnit u)) ∧
  (∀ (s : State) (u : Fin 16), (∀ l : Lane, (unitDyn (laneOf s.dev l).saf u).stoWait = false) →
    Answers (.stoDelayExpired u) s fun e => ∀ l : Lane, (laneOf e l).saf = (laneOf s.dev l).saf)

/-- Brakes and their proof test (R137, R142 to R146, R311). Choices of the model in it: log entries 3, 34 and 110; entry 3 is each clause where
nothing happens because the event cannot occur. -/
def Obligations.BrakeReleaseAndProofTest : Prop :=
  (∀ (s : State) (u : Fin 32) (l : Lane) (n : Nat), evaluates s.dev l = true → (unitDyn (laneOf s.dev l).saf u).relWait = some n →
    (unitDyn (laneOf s.dev l).saf u).torque = true → (unitDyn (laneOf s.dev l).saf u).func ≤ 1 →
    msReached s.dev n (brkRelMs (laneOf s.dev l).image.params u) = true →
    Answers (.brakeReleaseDelay u) s fun e => (unitDyn (laneOf e l).saf u).brakeRel = true ∧ (unitDyn (laneOf e l).saf u).relWait = none ∧
      ∀ m : Lane, (laneOf e m).gates = gateMask e m) ∧
  (∀ (s : State) (k : Fin 16) (l : Lane), evaluates s.dev l = true → testFree s.dev l = true → lightDue s.dev l k = true →
    (∀ i, i < k.val → lightDue s.dev l i = false) → agedOf (testFrames s.dev (laneOf s.dev l).image.params / 8)
      (brakeDyn (laneOf s.dev l).saf k).lightAge = true →
    Answers (.ptLightTestStart k) s fun e =>
      (brakeDyn (laneOf e l).saf k).test = some { dark := false, left := serviceLanes s.dev } ∧
        ∀ m : Lane, (laneOf e m).gates = gateMask e m) ∧
  (∀ (s : State) (k : Fin 16) (l : Lane), evaluates s.dev l = true → testFree s.dev l = true → darkDue s.dev l k = true →
    (∀ i, i < k.val → darkDue s.dev l i = false) →
    Answers (.ptDarkTestStart k) s fun e => (brakeDyn (laneOf e l).saf k).test = some { dark := true, left := [.a, .b, .c] }) ∧
  (∀ (s : State) (k : Fin 16) (l z : Lane) (t : ProofTest) (rest : List Lane), evaluates s.dev l = true →
    (brakeDyn (laneOf s.dev l).saf k).test = some t → t.lane = none → t.left = z :: rest → (∀ m ∈ t.left, inService s.dev m = true) →
    Answers (.ptStepStart k) s fun e =>
      (brakeDyn (laneOf e l).saf k).test = some { t with lane := some z, left := rest, ran := t.ran ++ [z], frames := 0, gap := false } ∧
        (laneOf e l).gates = gateMask e l) ∧
  (∀ (s : State) (k : Fin 16) (l z : Lane) (t : ProofTest), evaluates s.dev l = true → (brakeDyn (laneOf s.dev l).saf k).test = some t →
    t.lane = some z → t.gap = false → (laneOf s.dev l).image.params.ptPulseFr ≤ t.frames →
    Answers (.ptStepEnd k) s fun e => (brakeDyn (laneOf e l).saf k).test = some { t with gap := true } ∧
      (laneOf e l).gates = gateMask e l) ∧
  (∀ (s : State) (k : Fin 16), evaluates s.dev s.dev.firstLane = true → darkOld s.dev s.dev.firstLane k = true →
    s.dev.rd PWR_STATUS_SHARED_UP ≠ 0 →
    Answers (.ptDue k) s fun e => (brakeDyn (laneOf e s.dev.firstLane).saf k).dueDark = true ∧ e.rd SAF_BRK_STAT_PT_DUE k = 1 ∧
      e.logged .PT_DUE (srcBrake k)) ∧
  (∀ (s : State) (k : Fin 16) (u : Nat) (l : Lane), (brakeCfg s.dev.cfg k).unit = some u → evaluates s.dev l = true →
    (brakeDyn (laneOf s.dev l).saf k).cmd = true →
    agedOf (testFrames s.dev (laneOf s.dev l).image.params) (brakeDyn (laneOf s.dev l).saf k).lightAge = true →
    Answers (.ptIntervalExpired k) s fun e =>
      ∃ q ∈ (unitDyn (laneOf e l).saf u).demands, q.cause = 0x10 ∧ q.index = k ∧ 4 ≤ q.kind ∧ q.active = true)

/-- Separation monitor passes (R285, R294): a pass begins in every even frame, its result is sent complete, as an overrun or as not computed, and the
second overrun in a row sets the fault latch. Choices of the model in it: log entries 3, 40 and 117; entry 3 is each clause where nothing happens
because the event cannot occur. -/
def Obligations.SeparationPasses : Prop :=
  (∀ (s : State) (l : Lane), s.dev.tb.ticking = true → s.dev.frameNo % 2 = 0 → exchanges s.dev l = true →
    monitorsRun s.dev = false ∨ s.dev.monitorFr < 2 →
    Completes (.sepPassStart l) s [(COM_STATUS_ACTIVE, 0)] [.lanes, .tb] fun e => e.rd COM_STATUS_ACTIVE = bitOf (monitorsRun s.dev) ∧
      (laneOf e l).sepPass = s.dev.frameNo / 2 ∧ (laneOf e l).sepResult = none) ∧
  (∀ (s : State) (l : Lane), s.dev.tb.ticking = true → s.dev.frameNo % 2 = 0 → exchanges s.dev l = true → monitorsRun s.dev = true →
    2 ≤ s.dev.monitorFr →
    Answers (.sepPassStart l) s fun e => e.rd COM_STATUS_ACTIVE = 1 ∧ (laneOf e l).sepPass = s.dev.frameNo / 2 ∧
      ∃ r, (laneOf e l).sepResult = some r ∧ r.laneId = laneId l ∧ r.status = 0 ∧ r.passNo = s.dev.frameNo / 2) ∧
  (∀ (s : State) (l : Lane), s.dev.frameNo % 2 = 1 → Completes (.sepPassStart l) s [] [] fun e => e.out = []) ∧
  (∀ (s : State) (l : Lane) (n : Nat) (r : ResultRecord), s.dev.tb.ticking = true → s.dev.frameNo % 2 = 0 → exchanges s.dev l = true →
    (laneOf s.dev l).sepResult = some r →
    Completes (.sepPassEnd l true n) s [(COM_LANE_LAST_STATUS, l.idx)] [.lanes, .tb] fun e =>
      e.out = [.resultRecord l { r with frameNo := s.dev.frameNo } (resultBytes { r with frameNo := s.dev.frameNo })] ∧
        (laneOf e l).sepOverruns = 0 ∧ (laneOf e l).results.get l = some { r with frameNo := s.dev.frameNo }) ∧
  (∀ (s : State) (l : Lane) (n : Nat) (c : Bool), s.dev.tb.ticking = true → s.dev.frameNo % 2 = 0 → exchanges s.dev l = true →
    (laneOf s.dev l).sepResult = none →
    Completes (.sepPassEnd l c n) s [(COM_LANE_LAST_STATUS, l.idx)] [.lanes, .tb] fun e =>
      e.rd COM_LANE_LAST_STATUS l.idx = 2 ∧ ∃ r : ResultRecord, e.out = [.resultRecord l r (resultBytes r)] ∧ r.status = 2) ∧
  (∀ (s : State) (l : Lane) (n : Nat) (r : ResultRecord), s.dev.tb.ticking = true → s.dev.frameNo % 2 = 0 → exchanges s.dev l = true →
    laneMode s.dev l ≠ .debug → (laneOf s.dev l).sepResult = some r → (laneOf s.dev l).sepOverruns = 1 →
    s.dev.rd PWR_STATUS_SHARED_UP ≠ 0 →
    Answers (.sepPassEnd l false n) s fun e => e.rd COM_STATUS_COM_OVERRUN = 1 ∧ e.latchedOut l ∧ e.logged .COM_FAULT (srcLane l))

/-! The Entayr rings (chapters 05, 06). -/

/-- Launch and return of the cycle (R28, R152, R158, R170, R172, R175, R182, R184): each ring that is up launches what its state asks for on both
ports that are up, a copy that is late is counted and nothing else, a copy in time is read, and a frame of another master is counted and ends the
mastering of the ring where its MASTER_ID is 0. Choices of the model in it: log entries 3, 89, 90, 102 and 103; entry 3 is each clause where nothing
happens because the event cannot occur. -/
def Obligations.CycleLaunchAndReturn : Prop :=
  (∀ (s : State) (l : Lane) (q : Nat), s.dev.tb.ticking = true → s.dev.rd ENT_START_STATE l.idx = 3 → q < 2 → portUp s.dev l q = true →
    Answers .cycleLaunch s fun e => .ringFrame l q (cycleFrame s.dev l q) ∈ e.out ∧
      ((ringOf s.dev l).sched ≠ [] → .ringFrame l q (directoryFrame s.dev l q) ∈ e.out) ∧
      (ringOf e l).inFlight = some s.dev.frameNo ∧ (ringOf e l).back0 = none ∧ (ringOf e l).back1 = none) ∧
  (∀ (s : State) (l : Lane) (q : Nat), s.dev.tb.ticking = true → s.dev.rd ENT_START_STATE l.idx = 1 → q < 2 → portUp s.dev l q = true →
    Answers .cycleLaunch s fun e => .ringFrame l q (startFrame s.dev l q) ∈ e.out ∧
      (ringOf e l).startLeft = (ringOf s.dev l).startLeft - 1 ∧
      e.rd ENT_START_STATE l.idx = if (ringOf s.dev l).startLeft ≤ 1 then 2 else 1) ∧
  (∀ (s : State) (l : Lane) (q : Nat), s.dev.tb.ticking = true → s.dev.rd ENT_START_STATE l.idx = 2 → q < 2 → portUp s.dev l q = true →
    Answers .cycleLaunch s fun e => .ringFrame l q (enumFrame s.dev l q) ∈ e.out ∧
      (ringOf e l).enumFrames = (ringOf s.dev l).enumFrames + 1) ∧
  (∀ (s : State) (l : Lane) (q : Nat) (bs : List Block), s.dev.rd ENT_START_STATE l.idx = 0 ∨ portUp s.dev l q = false → q < 2 →
    Answers .cycleLaunch s fun e => .ringFrame l q bs ∉ e.out) ∧
  (∀ s : State, s.dev.tb.ticking = true → Touches .cycleLaunch s [BLF_SOF_TX_NS, ENT_START_STATE] [] [.motion, .rings, .tb]) ∧
  (∀ s : State, s.dev.tb.ticking = false → Completes .cycleLaunch s [] [] fun e => e.out = []) ∧
  (∀ (s : State) (l : Lane) (c : ReturnedCopy), s.dev.rd ENT_START_STATE l.idx ≠ 3 ∨ (ringOf s.dev l).inFlight = none →
    Completes (.cycleReturn l c) s [] [] fun e => e.out = []) ∧
  (∀ (s : State) (l : Lane) (c : ReturnedCopy) (f : Nat), s.dev.rd ENT_START_STATE l.idx = 3 → (ringOf s.dev l).inFlight = some f →
    copyKind s.dev f 1 (frameBlocks (ringOf s.dev l).sched) c = .late →
    Completes (.cycleReturn l c) s [(ENT_P_CNT0_CODE_ERR, portIx l c.port), (ENT_P_CNT0_CRC_ERR, portIx l c.port),
        (ENT_P_CNT1_POISON, portIx l c.port), (ENT_P_CNT1_LATE, portIx l c.port)] [.rings] fun e =>
      e.out = [] ∧ e.rd ENT_P_CNT1_LATE (portIx l c.port) = s.dev.countUp ENT_P_CNT1_LATE (portIx l c.port)) ∧
  (∀ (s : State) (l : Lane) (c : ReturnedCopy) (f : Nat), s.dev.rd ENT_START_STATE l.idx = 3 → (ringOf s.dev l).inFlight = some f →
    copyKind s.dev f 1 (frameBlocks (ringOf s.dev l).sched) c = .own →
    Answers (.cycleReturn l c) s fun e =>
      let dir := ((c.blocks.getD 0 emptyBlock).data.getD 1 0).toNat.testBit 2
      let turned := ((c.blocks.getD 0 emptyBlock).data.getD 1 0).toNat.testBit 3
      (if dir then (ringOf e l).back1 else (ringOf e l).back0) = some (transit s.dev c) ∧
      (blockClass (c.blocks.getLastD emptyBlock) = .good → e.rd (if dir then ENT_STAT_HOP1 else ENT_STAT_HOP0) l.idx =
        ((c.blocks.getLastD emptyBlock).data.getD 0 0).toNat % 2 ^ ENT_STAT_HOP0.width) ∧
      e.rd BLF_SOF_RX_NS (portIx l c.port) = fieldOf 32 (trunc8 (s.dev.tb.tickAt + 3200 + c.afterLaunch) - 184) ∧
      (turned = true → e.rd ENT_STAT_BREAK l.idx = 1 ∧ e.rd ENT_P_CNT2_TURNED (portIx l c.port) =
        s.dev.countUp ENT_P_CNT2_TURNED (portIx l c.port))) ∧
  (∀ (s : State) (l : Lane) (c : ReturnedCopy) (f : Nat), s.dev.rd ENT_START_STATE l.idx = 3 → (ringOf s.dev l).inFlight = some f →
    copyKind s.dev f 1 (frameBlocks (ringOf s.dev l).sched) c = .foreign →
    Answers (.cycleReturn l c) s fun e =>
      let master := ((c.blocks.getD 0 emptyBlock).data.getD 4 0).toNat
      e.out = [] ∧ e.rd ENT_START_MASTER_ID l.idx = master ∧
      e.rd ENT_START_FOREIGN l.idx = s.dev.countUp ENT_START_FOREIGN l.idx ∧
      (if master = 0 then e.rd ENT_START_STATE l.idx = 0 ∧ e.pwr.noMaster = true ∧ (ringOf e l).inFlight = none
        else e.rd ENT_START_STATE l.idx = 3 ∧ e.pwr = s.dev.pwr)) ∧
  (∀ (s : State) (l : Lane) (c : ReturnedCopy) (f : Nat), s.dev.rd ENT_START_STATE l.idx = 3 → (ringOf s.dev l).inFlight = some f →
    copyKind s.dev f 1 (frameBlocks (ringOf s.dev l).sched) c = .other →
    Completes (.cycleReturn l c) s [(ENT_P_CNT0_CODE_ERR, portIx l c.port), (ENT_P_CNT0_CRC_ERR, portIx l c.port),
        (ENT_P_CNT1_POISON, portIx l c.port)] [.rings] fun e => e.out = []) ∧
  (∀ (s : State) (l : Lane) (port : Fin 2),
    Completes (.lateCopyReceived l port) s [(ENT_P_CNT1_LATE, portIx l port)] [] fun e =>
      e.rd ENT_P_CNT1_LATE (portIx l port) = s.dev.countUp ENT_P_CNT1_LATE (portIx l port))

/-- The ring of a device when ports go down and come up, the bypass switch opens, a start sequence begins and a foreign master is heard (R152, R153,
R176, R183, R184, R191, R297). Choices of the model in it: log entries 3, 89, 102 and 131; entry 3 is each clause where nothing happens because the
event cannot occur. -/
def Obligations.RingPortsAndStart : Prop :=
  (∀ (s : State) (l : Lane) (q : Fin 2), portUp s.dev l q = true → s.dev.rd PWR_STATUS_SHARED_UP ≠ 0 →
    Completes (.entPortDown l q) s
      ([(if q.val = 0 then ENT_STAT_LINK0 else ENT_STAT_LINK1, l.idx), (ENT_P_CNT2_SYNC_LOSS, portIx l q)] ++ recordRegs (srcRing l))
      [.rings, .log] fun e =>
        portUp e l q = false ∧ e.out = [.linkFail l q true] ∧
        e.rd ENT_P_CNT2_SYNC_LOSS (portIx l q) =
          s.dev.countUp ENT_P_CNT2_SYNC_LOSS (portIx l q) ∧
        e.logged .ENT_LINK_DOWN (srcRing l) q (linkDetail e l q % 2 ^ 80) ∧
        (portUp s.dev l (1 - q.val) = false → (ringOf e l).bothDown = true)) ∧
  (∀ (s : State) (l : Lane) (q : Fin 2), portUp s.dev l q = false → Completes (.entPortDown l q) s [] [] fun e => e.out = []) ∧
  (∀ (s : State) (l : Lane) (q : Fin 2), portUp s.dev l q = false → s.dev.rd ENT_STAT_BYPASS_CLOSED l.idx = 0 →
    s.dev.rd PWR_STATUS_SHARED_UP ≠ 0 →
    Completes (.entPortUp l q) s ([(if q.val = 0 then ENT_STAT_LINK0 else ENT_STAT_LINK1, l.idx)] ++ recordRegs (srcRing l))
      [.rings, .log] fun e =>
        portUp e l q = true ∧ e.out = [.linkFail l q false] ∧ e.logged .ENT_LINK_UP (srcRing l) q (linkDetail e l q % 2 ^ 80) ∧
        (ringOf e l).startDue = ((ringOf s.dev l).startDue || ((ringOf s.dev l).bothDown && portUp s.dev l (1 - q.val)))) ∧
  (∀ (s : State) (l : Lane) (q : Fin 2), portUp s.dev l q = true ∨ s.dev.rd ENT_STAT_BYPASS_CLOSED l.idx ≠ 0 →
    Completes (.entPortUp l q) s [] [] fun e => e.out = []) ∧
  (∀ (s : State) (l : Lane), s.dev.rd ENT_STAT_BYPASS_CLOSED l.idx ≠ 0 → s.dev.rd LN_STATUS_STATE l.idx ≠ 0 →
    s.dev.rd PWR_STATUS_SHARED_UP ≠ 0 →
    Completes (.bypassOpen l) s ([(ENT_STAT_BYPASS_CLOSED, l.idx)] ++ recordRegs (srcRing l)) [.rings, .log] fun e =>
      e.rd ENT_STAT_BYPASS_CLOSED l.idx = 0 ∧ (ringOf e l).startDue = true ∧ (ringOf e l).bothDown = true ∧
        e.out = [.linkFail l 0 true, .linkFail l 1 true] ∧
        e.logged .BYPASS_OPEN (srcRing l) l.idx (linkDetail s.dev l 2 % 2 ^ 80)) ∧
  (∀ (s : State) (l : Lane), s.dev.rd ENT_STAT_BYPASS_CLOSED l.idx = 0 ∨ s.dev.rd LN_STATUS_STATE l.idx = 0 →
    Completes (.bypassOpen l) s [] [] fun e => e.out = []) ∧
  (∀ (s : State) (l : Lane), (ringOf s.dev l).startDue = true → s.dev.rd ENT_STAT_BYPASS_CLOSED l.idx = 0 → s.dev.tb.ticking = true →
    s.dev.periodDue = none → s.dev.pwr.noMaster = false →
    Touches (.startSequence l) s
      [ENT_NODE_STATE, ENT_NODE_CLAIMED, ENT_NODE_POS, ENT_NODE_MASTER_CAP, ENT_GUARD_ADMITTED, ENT_START_STATE, ENT_START_STARTS,
        ENT_SCHED_SCHED_ID, ENT_SCHED_ENTRIES, ENT_BUDGET_B_USED, ENT_BUDGET_B_MAX, ENT_STAT_BREAK_OK, ENT_NODE_NODE_ID,
        ENT_NODE_SPARE] [] [.rings, .lanes] ∧
    ((ringOf s.dev l).schedNext = none → Touches (.startSequence l) s
      [ENT_NODE_STATE, ENT_NODE_CLAIMED, ENT_NODE_POS, ENT_NODE_MASTER_CAP, ENT_GUARD_ADMITTED, ENT_START_STATE, ENT_START_STARTS] []
      [.rings, .lanes]) ∧
    Answers (.startSequence l) s fun e => e.rd ENT_START_STATE l.idx = 1 ∧ (ringOf e l).startLeft = 4 ∧ (ringOf e l).startDue = false ∧
      (ringOf e l).nodes = [] ∧ (∀ k, k < 48 → nodeState e l k = 0 ∧ e.rd ENT_NODE_CLAIMED (nodeIx l k) = 0) ∧
      e.rd ENT_START_STARTS l.idx = s.dev.countUp ENT_START_STARTS l.idx ∧
      ∀ m ∈ serviceLanes s.dev, ∀ u, u < 32 → (SMap.get {} (laneOf e m).saf.units u).disabled = true) ∧
  (∀ (s : State) (l : Lane) (sched : List SchedEntry) (id : Nat), (ringOf s.dev l).startDue = true →
    s.dev.rd ENT_STAT_BYPASS_CLOSED l.idx = 0 → s.dev.tb.ticking = true → s.dev.periodDue = none → s.dev.pwr.noMaster = false →
    (ringOf s.dev l).schedNext = some (sched, id) →
    Answers (.startSequence l) s fun e => (ringOf e l).sched = sched ∧ (ringOf e l).schedNext = none ∧
      e.rd ENT_SCHED_SCHED_ID l.idx = id % 2 ^ ENT_SCHED_SCHED_ID.width ∧
      e.rd ENT_SCHED_ENTRIES l.idx = sched.length % 2 ^ ENT_SCHED_ENTRIES.width) ∧
  (∀ (s : State) (l : Lane), (ringOf s.dev l).startDue = false ∨ s.dev.rd ENT_STAT_BYPASS_CLOSED l.idx ≠ 0 ∨
      s.dev.pwr.noMaster = true →
    Completes (.startSequence l) s [] [] fun e => e.out = []) ∧
  (∀ (s : State) (l : Lane) (m : Fin 256), s.dev.rd ENT_START_STATE l.idx ≠ 0 → m.val ≠ 0 →
    Completes (.foreignFrameReceived l m) s [(ENT_START_MASTER_ID, l.idx), (ENT_START_FOREIGN, l.idx)] [] fun e =>
      e.rd ENT_START_MASTER_ID l.idx = m.val ∧
        e.rd ENT_START_FOREIGN l.idx = s.dev.countUp ENT_START_FOREIGN l.idx) ∧
  (∀ (s : State) (l : Lane), s.dev.rd ENT_START_STATE l.idx ≠ 0 →
    Completes (.foreignFrameReceived l 0) s [(ENT_START_MASTER_ID, l.idx), (ENT_START_FOREIGN, l.idx), (ENT_START_STATE, l.idx)]
      [.rings, .pwr] fun e => e.rd ENT_START_MASTER_ID l.idx = 0 ∧ e.rd ENT_START_STATE l.idx = 0 ∧ e.pwr.noMaster = true ∧
        (ringOf e l).inFlight = none ∧ (ringOf e l).startDue = false ∧
        e.rd ENT_START_FOREIGN l.idx = s.dev.countUp ENT_START_FOREIGN l.idx) ∧
  (∀ (s : State) (l : Lane) (m : Fin 256), s.dev.rd ENT_START_STATE l.idx = 0 →
    Completes (.foreignFrameReceived l m) s [] [] fun e => e.out = [])

/-- Enumeration (R186, R187): a copy that returns is kept until the copies of one frame are back; two equal results in a row end the enumeration, 16
frames without end it unstable, and an unstable one is repeated. `d1` is the device with the copy kept. Choices of the model in it: log entry 3; entry
3 is each clause where nothing happens because the event cannot occur. -/
def Obligations.EnumerationEnds : Prop :=
  (∀ (s : State) (l : Lane) (c : ReturnedCopy) (f : Nat), s.dev.rd ENT_START_STATE l.idx = 2 → (ringOf s.dev l).enumSeq = some f →
    let seen : List (RegField × Nat) := [(ENT_P_CNT0_CODE_ERR, portIx l c.port), (ENT_P_CNT0_CRC_ERR, portIx l c.port),
      (ENT_P_CNT1_POISON, portIx l c.port)]
    let h0 := (c.blocks.getD 0 emptyBlock).data
    let h1 := (c.blocks.getD 1 emptyBlock).data
    let dir := (h0.getD 1 0).toNat.testBit 2
    let count := (if dir then h1.getD 1 0 else h1.getD 0 0).toNat
    let got := (count, (h0.getD 1 0).toNat.testBit 3, copyNodes c.blocks dir count)
    let d1 := onRing (countBlocks s.dev l c.port c.blocks) l fun r =>
      if dir then { r with enumNow1 := some got } else { r with enumNow0 := some got }
    let back := bitOf (ringOf d1 l).enumNow0.isSome + bitOf (ringOf d1 l).enumNow1.isSome
    let sent := bitOf (portUp s.dev l 0) + bitOf (portUp s.dev l 1)
    let own := copyKind s.dev f 3 99 c = .own ∧ blockClass (c.blocks.getD 1 emptyBlock) = .good
    (own → back < sent → Completes (.enumerationReturn l c) s seen [.rings] fun e => e.rings = d1.rings) ∧
    (own → sent ≤ back → (ringOf s.dev l).enumLast = some (enumResult d1 l) → s.dev.rd PWR_STATUS_SHARED_UP ≠ 0 →
      Answers (.enumerationReturn l c) s fun e => e.rd ENT_START_STATE l.idx = 3 ∧
        e.rd ENT_SCHED_N l.idx = (enumResult d1 l).1 % 2 ^ ENT_SCHED_N.width ∧ (ringOf e l).unstable = false ∧
        e.logged .ENUM_DONE (srcRing l) l.idx ((enumResult d1 l).1 % 2 ^ 80)) ∧
    (own → sent ≤ back → (ringOf s.dev l).enumLast ≠ some (enumResult d1 l) → 16 ≤ (ringOf s.dev l).enumFrames →
      s.dev.rd PWR_STATUS_SHARED_UP ≠ 0 →
      Completes (.enumerationReturn l c) s (seen ++ [(ENT_SCHED_N, l.idx), (ENT_START_STATE, l.idx)] ++ recordRegs (srcRing l))
        [.rings, .log] fun e => e.rd ENT_START_STATE l.idx = 3 ∧ (ringOf e l).unstable = true ∧ (ringOf e l).enumLast = none ∧
        e.rd ENT_SCHED_N l.idx = (enumResult d1 l).1 % 2 ^ ENT_SCHED_N.width ∧
        e.logged .ENUM_DONE (srcRing l) l.idx ((enumResult d1 l).1 % 2 ^ 80)) ∧
    (own → sent ≤ back → (ringOf s.dev l).enumLast ≠ some (enumResult d1 l) → (ringOf s.dev l).enumFrames < 16 →
      Completes (.enumerationReturn l c) s seen [.rings] fun e =>
        (ringOf e l).enumLast = some (enumResult d1 l) ∧ (ringOf e l).enumSeq = none) ∧
    (copyKind s.dev f 3 99 c = .late → Completes (.enumerationReturn l c) s (seen ++ [(ENT_P_CNT1_LATE, portIx l c.port)]) [.rings]
      fun e => e.rd ENT_P_CNT1_LATE (portIx l c.port) = s.dev.countUp ENT_P_CNT1_LATE (portIx l c.port)) ∧
    (copyKind s.dev f 3 99 c = .other → Completes (.enumerationReturn l c) s seen [.rings] fun e => e.out = [])) ∧
  (∀ (s : State) (l : Lane) (c : ReturnedCopy), s.dev.rd ENT_START_STATE l.idx ≠ 2 ∨ (ringOf s.dev l).enumSeq = none →
    Completes (.enumerationReturn l c) s [] [] fun e => e.out = []) ∧
  (∀ (s : State) (l : Lane), (ringOf s.dev l).unstable = true → s.dev.rd ENT_START_STATE l.idx = 3 →
    Completes (.enumRetry l) s [(ENT_START_STATE, l.idx)] [.rings] fun e => e.rd ENT_START_STATE l.idx = 2 ∧
      (ringOf e l).unstable = false ∧ (ringOf e l).enumFrames = 0 ∧ (ringOf e l).enumSeq = none ∧ (ringOf e l).inFlight = none) ∧
  (∀ (s : State) (l : Lane), (ringOf s.dev l).unstable = false ∨ s.dev.rd ENT_START_STATE l.idx ≠ 3 →
    Completes (.enumRetry l) s [] [] fun e => e.out = [])

/-! Register access (chapter 15). -/

/-- A write of a trigger word is ignored where its master reaches nothing, refused with ACCESS_ERR where Hold mode forbids it, and dropped with
BUSY_DROP and its event where its block is busy (R18, R448, R449); a served write of COMMIT closes the pending set with GO and empties it with ABORT
(R452, R453). Choices of the model in it: log entry 12. -/
def Obligations.TriggerWritesByModeAndBusy : Prop :=
  (∀ (s : State) (m : Master) (c : Instr) (addr : Nat) (busy : Option (RegField × Nat)), TriggerWrite m c addr busy →
      (s.dev.ignores m → Completes c s [] [] fun e => e.out = []) ∧
      (s.dev.refusesInHold m addr →
        Completes c s ([(SYS_STATUS_ACCESS_ERR, 0), (SYS_ERR_CNT0_ACCESS_ERR_CNT, 0)] ++ errRegs) [] fun e =>
          e.rd SYS_STATUS_ACCESS_ERR = 1 ∧ e.rd SYS_ERR_CNT0_ACCESS_ERR_CNT = s.dev.countUp SYS_ERR_CNT0_ACCESS_ERR_CNT ∧
            e.errNames m addr 5) ∧
      (∀ q, busy = some q → s.dev.served m addr → s.dev.rd q.1 q.2 ≠ 0 →
        Completes c s ([(SYS_STATUS_BUSY_DROP, 0), (SYS_ERR_CNT1_BUSY_DROP_CNT, 0)] ++ errRegs ++ recordRegs srcSystem) [.log] fun e =>
          e.rd SYS_STATUS_BUSY_DROP = 1 ∧ e.rd SYS_ERR_CNT1_BUSY_DROP_CNT = s.dev.countUp SYS_ERR_CNT1_BUSY_DROP_CNT ∧
            e.errNames m addr 2 ∧ e.logged .BUSY_DROP srcSystem)) ∧
  (∀ (s : State) (m : Master), s.dev.served m 0x20 → ∃ t, Sys2Proof.Machine.exec (.commitGo m) s = .next t ∧ t.pending = s.pending ∧
    t.dev.sys.requested = s.dev.sys.requested ++ [(s.dev.sys.gen, s.dev.sys.pending)] ∧ t.dev.sys.pending = []) ∧
  (∀ (s : State) (m : Master), s.dev.served m 0x20 → ∃ t, Sys2Proof.Machine.exec (.commitAbort m) s = .next t ∧ t.pending = s.pending ∧
    t.dev.sys.requested = s.dev.sys.requested ∧ t.dev.sys.pending = [])

/-- COMMIT and the tick of a set (R452 to R454): GO closes the pending set and opens an empty one, the requested set arms for the tick of the next
frame, or of the one after it from T_F - 2.0 us on, with LATE, and ABORT discards the pending set only; nothing happens while none is due; the sets
due apply together, COMMIT_FRAME and COUNT show it, a value that no rule refuses is in force, JUMP_THR and SLEW are held within their limits, and a
latch that R54 or R32 refuses stays. Choices of the model in it: log entries 3, 20 and 94; entry 3 is each clause where nothing happens because the
event cannot occur. -/
def Obligations.CommittedSets : Prop :=
  (∀ (s : State) (m : Master), s.dev.served m 0x20 →
    Completes (.commitGo m) s [] [.sys] fun e => e.sys = { s.dev.sys with
      requested := s.dev.sys.requested ++ [(s.dev.sys.gen, s.dev.sys.pending)], gen := s.dev.sys.gen + 1, pending := [] }) ∧
  (∀ (s : State) (m : Master), s.dev.served m 0x20 →
    Completes (.commitAbort m) s [] [.sys] fun e => e.sys = { s.dev.sys with pending := [] }) ∧
  (∀ (s : State) (m : Master) (addr v b : Nat), addr % 4 = 0 → s.dev.served m addr → wordFields addr ≠ [] →
    (privileged addr = true → privilegedMaster m = true) → busyOf addr = some b → s.dev.rd (busyBit b).1 (busyBit b).2 ≠ 0 →
    Answers (.registerWrite m addr 32 v) s fun e => e.sys = s.dev.sys) ∧
  (∀ s : State, s.dev.sys.requested = [] → Completes .commitArm s [] [] fun e => e.out = []) ∧
  (∀ (s : State) (g : Nat) (xs : List RegCell) (rest : List (Nat × List RegCell)), s.dev.sys.requested = (g, xs) :: rest →
    (∃ p ∈ s.dev.sys.posted, p.gen ≤ g ∧ carriesCommitted p = true) → Completes .commitArm s [] [] fun e => e.out = []) ∧
  (∀ (s : State) (g : Nat) (xs : List RegCell) (rest : List (Nat × List RegCell)), s.dev.sys.requested = (g, xs) :: rest →
    (∀ p ∈ s.dev.sys.posted, p.gen ≤ g → carriesCommitted p = false) → s.dev.offset < (s.dev.frameNs : Int) - 2000 →
    Completes .commitArm s [] [.sys] fun e => e.sys = { s.dev.sys with
      requested := rest, armed := s.dev.sys.armed ++ [⟨(s.dev.frameNo + 1) % 2 ^ 32, xs⟩] }) ∧
  (∀ (s : State) (g : Nat) (xs : List RegCell) (rest : List (Nat × List RegCell)), s.dev.sys.requested = (g, xs) :: rest →
    (∀ p ∈ s.dev.sys.posted, p.gen ≤ g → carriesCommitted p = false) → (s.dev.frameNs : Int) - 2000 ≤ s.dev.offset →
    Completes .commitArm s [(SYS_COMMIT_STAT_LATE, 0)] [.sys] fun e => e.rd SYS_COMMIT_STAT_LATE = 1 ∧
      e.sys = { s.dev.sys with requested := rest, armed := s.dev.sys.armed ++ [⟨(s.dev.frameNo + 2) % 2 ^ 32, xs⟩] }) ∧
  (∀ s : State, (∀ a ∈ s.dev.sys.armed, setDue s.dev a = false) → Completes .commitApply s [] [] fun e => e.out = []) ∧
  (∀ s : State, (∃ a ∈ s.dev.sys.armed, setDue s.dev a = true) →
    let due := s.dev.sys.armed.filter fun a => setDue s.dev a
    let xs := mergeSets due
    Answers .commitApply s fun e =>
      e.rd SYS_COMMIT_FRAME_FRAME = s.dev.frameNo % 2 ^ 32 ∧
      e.rd SYS_COMMIT_STAT_COUNT = (s.dev.rd SYS_COMMIT_STAT_COUNT + due.length) % 2 ^ 16 ∧
      e.sys = { s.dev.sys with armed := s.dev.sys.armed.filter fun a => !setDue s.dev a } ∧
      e.rd BLF_JUMP_THR_THR_NS = max 100 (min 1000000 (would s.dev xs BLF_JUMP_THR_THR_NS 0)) % 2 ^ BLF_JUMP_THR_THR_NS.width ∧
      e.rd BLF_SLEW_MAX_PPM = max 50 (min 500 (would s.dev xs BLF_SLEW_MAX_PPM 0)) % 2 ^ BLF_SLEW_MAX_PPM.width ∧
      (∀ n, n < 2 → (∃ c ∈ xs, c.field = SMY_BUDGET_CLK ∧ c.idx = n) →
        e.rd SMY_BUDGET_CLK n = setValue xs.reverse SMY_BUDGET_CLK n 0 % 2 ^ SMY_BUDGET_CLK.width) ∧
      (latchOk s.dev (would s.dev xs BLF_LATCH_OFFSET 0) = false → e.rd BLF_LATCH_OFFSET = s.dev.rd BLF_LATCH_OFFSET) ∧
      (latchOk s.dev (would s.dev xs BLF_LATCH_OFFSET 0) = true → would s.dev xs BLF_LATCH_OFFSET 0 ≠ s.dev.rd BLF_LATCH_OFFSET →
        e.rd BLF_LATCH_OFFSET = would s.dev xs BLF_LATCH_OFFSET 0 % 2 ^ BLF_LATCH_OFFSET.width ∧
          (2, would s.dev xs BLF_LATCH_OFFSET 0) ∈ e.tb.latchNext))

/-- The pairs of Table 15-4 (R457), while the owning axis does not run: a first word is held and does not act; a completing word takes the held value,
or the first word in force, and both take effect if LO <= HI, signed; otherwise the old pair stays, PAIR_REJECT sets and the record names the
completing word. While it runs, a change is refused with BUSY_REJECT (R455). Choices of the model in it: log entry 12. -/
def Obligations.PairsAreCheckedWhole : Prop :=
  (∀ (s : State) (m : Master) (p : Fin 144) (v : Word32), s.dev.served m (pairAddr p) →
    (∀ q, pairBusy p = some q → s.dev.rd q.1 q.2 = 0) → blockRuns s.dev (pairFields p).1 (pairFields p).2.2 = false →
    Completes (.pairFirstWordWrite m p v) s [] [.sys] fun e =>
      e.sys = { s.dev.sys with held := SMap.set none s.dev.sys.held p (some v.toNat) }) ∧
  (∀ (s : State) (m : Master) (p : Fin 144) (v : Word32), s.dev.served m (pairAddr p + 4) →
    (∀ q, pairBusy p = some q → s.dev.rd q.1 q.2 = 0) → blockRuns s.dev (pairFields p).2.1 (pairFields p).2.2 = false →
    let lo := (pairFields p).1
    let hi := (pairFields p).2.1
    let i := (pairFields p).2.2
    let first := (SMap.get none s.dev.sys.held p).getD (s.dev.rd lo i)
    (signedOf 32 first ≤ v.toInt →
      Completes (.pairCompletingWrite m p v) s [(lo, i), (hi, i)] [.sys] fun e =>
        e.rd lo i = first % 2 ^ 32 ∧ e.rd hi i = v.toNat ∧
          e.sys = { s.dev.sys with held := SMap.set none s.dev.sys.held p none }) ∧
    (v.toInt < signedOf 32 first →
      Completes (.pairCompletingWrite m p v) s ([(SYS_STATUS_PAIR_REJECT, 0)] ++ errRegs ++ recordRegs srcSystem) [.sys, .log] fun e =>
        e.rd SYS_STATUS_PAIR_REJECT = 1 ∧ e.logged .PAIR_REJECT srcSystem 0 (pairAddr p + 4) ∧ e.errNames m (pairAddr p + 4) 4 ∧
          e.sys = { s.dev.sys with held := SMap.set none s.dev.sys.held p none })) ∧
  (∀ (s : State) (m : Master) (p : Fin 144) (v : Word32), s.dev.served m (pairAddr p) →
    (∀ q, pairBusy p = some q → s.dev.rd q.1 q.2 = 0) → blockRuns s.dev (pairFields p).1 (pairFields p).2.2 = true →
    v.toNat ≠ s.dev.rd (pairFields p).1 (pairFields p).2.2 →
    Completes (.pairFirstWordWrite m p v) s
      ([(SYS_STATUS_BUSY_REJECT, 0), (SYS_ERR_CNT1_BUSY_REJECT_CNT, 0)] ++ errRegs ++ recordRegs srcSystem) [.log] fun e =>
        e.rd SYS_STATUS_BUSY_REJECT = 1 ∧ e.logged .BUSY_REJECT srcSystem ∧ e.errNames m (pairAddr p) 3)

/-- The lock of SYS_ (R458): LOCK sets with a 1 and stays, a 0 before then is ignored, a later 1 is ignored without a flag and a later 0 refused with
LOCK_VIOL; ALIAS_EN and the scratch words take a write in its clock while the lock is open and refuse it, with LOCK_VIOL and its record, while it is
set; a write of ALIAS_EN after one of LOCK is refused. -/
def Obligations.LockClosesItsFields : Prop :=
  (∀ (s : State) (m : Master), s.dev.served m 0x2C →
    Completes (.lockWrite m true) s [(SYS_LOCK_LOCK, 0)] [] fun e => e.rd SYS_LOCK_LOCK = 1) ∧
  (∀ (s : State) (m : Master), s.dev.served m 0x2C → s.dev.rd SYS_LOCK_LOCK = 0 →
    Completes (.lockWrite m false) s [] [] fun e => e.out = []) ∧
  (∀ (s : State) (m : Master), s.dev.served m 0x2C → s.dev.rd SYS_LOCK_LOCK ≠ 0 →
    Completes (.lockWrite m false) s ([(SYS_STATUS_LOCK_VIOL, 0), (SYS_ERR_CNT0_LOCK_VIOL_CNT, 0)] ++ errRegs ++ recordRegs srcSystem) [.log]
      fun e => e.rd SYS_STATUS_LOCK_VIOL = 1 ∧ e.rd SYS_ERR_CNT0_LOCK_VIOL_CNT = s.dev.countUp SYS_ERR_CNT0_LOCK_VIOL_CNT ∧
        e.errNames m 0x2C 1 ∧ e.logged .LOCK_VIOL srcSystem) ∧
  (∀ (s : State) (m : Master) (n : Fin 4) (v : Nat), s.dev.served m (0x50 + 4 * n) → s.dev.rd SYS_LOCK_LOCK = 0 →
    Completes (.registerWrite m (0x50 + 4 * n) 32 v) s [(SYS_SCRATCH_V, n.val)] [] fun e => e.rd SYS_SCRATCH_V n = v % 2 ^ 32) ∧
  (∀ (s : State) (m : Master) (n : Fin 4) (v : Nat), s.dev.served m (0x50 + 4 * n) → s.dev.rd SYS_LOCK_LOCK ≠ 0 →
    Completes (.registerWrite m (0x50 + 4 * n) 32 v) s
      ([(SYS_STATUS_LOCK_VIOL, 0), (SYS_ERR_CNT0_LOCK_VIOL_CNT, 0)] ++ errRegs ++ recordRegs srcSystem) [.log]
      fun e => e.rd SYS_STATUS_LOCK_VIOL = 1 ∧ e.errNames m (0x50 + 4 * n) 1 ∧ e.logged .LOCK_VIOL srcSystem) ∧
  (∀ (s : State) (m : Master) (v : Nat), s.dev.served m 0x30 →
    (s.dev.rd SYS_LOCK_LOCK = 0 →
      Completes (.registerWrite m 0x30 32 v) s [(SYS_ACCESS_ALIAS_EN, 0)] [] fun e => e.rd SYS_ACCESS_ALIAS_EN = v % 2) ∧
    (s.dev.rd SYS_LOCK_LOCK ≠ 0 →
      Completes (.registerWrite m 0x30 32 v) s
        ([(SYS_STATUS_LOCK_VIOL, 0), (SYS_ERR_CNT0_LOCK_VIOL_CNT, 0)] ++ errRegs ++ recordRegs srcSystem) [.log]
        fun e => e.rd SYS_STATUS_LOCK_VIOL = 1 ∧ e.errNames m 0x30 1 ∧ e.logged .LOCK_VIOL srcSystem)) ∧
  (∀ (s : State) (m m' : Master) (v : Nat), s.dev.served m 0x2C → s.dev.served m' 0x30 → ∃ t, exec (.lockWrite m true) s = .next t ∧
    Completes (.registerWrite m' 0x30 32 v) t
      ([(SYS_STATUS_LOCK_VIOL, 0), (SYS_ERR_CNT0_LOCK_VIOL_CNT, 0)] ++ errRegs ++ recordRegs srcSystem) [.log]
      fun e => e.rd SYS_ACCESS_ALIAS_EN = s.dev.rd SYS_ACCESS_ALIAS_EN ∧ e.rd SYS_STATUS_LOCK_VIOL = 1 ∧ e.logged .LOCK_VIOL srcSystem)

/-- The register check (R462): GO clears DONE, and is ignored while a computation runs; the snapshot is taken once, of every word it covers; the
CRC-64 of the snapshot shows with DONE. Choices of the model in it: log entries 3, 12 and 15; entry 3 is each clause where nothing happens because the
event cannot occur. -/
def Obligations.RegisterCheck : Prop :=
  (∀ (s : State) (m : Master), s.dev.served m 0x60 → s.dev.sys.regdigAsked = false → s.dev.sys.regdigRunning = false →
    Completes (.regdigGo m) s [(SYS_REGDIG_CTRL_DONE, 0)] [.sys] fun e => e.rd SYS_REGDIG_CTRL_DONE = 0 ∧
      e.sys = { s.dev.sys with regdigAsked := true }) ∧
  (∀ (s : State) (m : Master), s.dev.served m 0x60 → s.dev.sys.regdigAsked = true ∨ s.dev.sys.regdigRunning = true →
    Completes (.regdigGo m) s [] [] fun e => e.out = []) ∧
  (∀ s : State, s.dev.sys.regdigAsked = true →
    Completes .regdigSnapshot s [] [.sys] fun e => e.sys.regdigAsked = false ∧ e.sys.regdigRunning = true ∧
      ∀ a v, (a, v) ∈ e.sys.regdigShot ↔ a < 0x1B000 ∧ a % 4 = 0 ∧ privileged a = false ∧ v = digestWord s.dev a ∧ v ≠ 0) ∧
  (∀ s : State, s.dev.sys.regdigAsked = false → Completes .regdigSnapshot s [] [] fun e => e.out = []) ∧
  (∀ s : State, s.dev.sys.regdigRunning = true →
    Completes .regdigDone s [(SYS_REGDIG_LO_CRC, 0), (SYS_REGDIG_HI_CRC, 0), (SYS_REGDIG_CTRL_DONE, 0)] [.sys] fun e =>
      e.rd SYS_REGDIG_CTRL_DONE = 1 ∧ e.rd SYS_REGDIG_LO_CRC = regDigest s.dev.sys.regdigShot % 2 ^ 32 ∧
        e.rd SYS_REGDIG_HI_CRC = regDigest s.dev.sys.regdigShot / 2 ^ 32 % 2 ^ 32 ∧ e.sys.regdigRunning = false) ∧
  (∀ s : State, s.dev.sys.regdigRunning = false → Completes .regdigDone s [] [] fun e => e.out = [])

/-- A read (R10, R51, R446, R447, R459, R460): a word that the master may read answers its fields, its RC fields clear unless the debug port reads,
and nothing else changes; TIME_NS takes the frame number along; any other access answers zero; an alias word answers its bit. Choices of the model in
it: log entries 13 and 16. -/
def Obligations.ReadsAnswerAndClear : Prop :=
  (∀ (s : State) (m : Master) (addr : Nat), s.dev.readable m addr = true → addr % 4 = 0 → (m = .debug → s.dev.rd PWR_DBG_STAT_UNLOCKED ≠ 0) →
    (∀ p ∈ wordFields addr, p.1 ∉ [BLF_TIME_NS_NS, SMY_PDATA_WORD, SMY_DDATA_WORD, SAF_DBG_DATA_DATA, ADC_UA_SUM_SUM]) →
    Completes (.readClear m addr 32) s (wordFields addr) [.pwr] fun e =>
      e.out = [.readData m (wordView s.dev addr)] ∧
      ∀ p ∈ wordFields addr, e.rd p.1 p.2 = if p.1.desc.access = .rc ∧ m ≠ .debug then 0 else s.dev.rd p.1 p.2) ∧
  (∀ (s : State) (m : Master) (addr : Nat), s.dev.readable m addr = true → addr % 8 = 0 → (m = .debug → s.dev.rd PWR_DBG_STAT_UNLOCKED ≠ 0) →
    s.dev.readable m (addr + 4) = true →
    (∀ p ∈ wordFields addr ++ wordFields (addr + 4), p.1 ∉ [BLF_TIME_NS_NS, SMY_PDATA_WORD, SMY_DDATA_WORD, SAF_DBG_DATA_DATA, ADC_UA_SUM_SUM]) →
    Completes (.readClear m addr 64) s (wordFields addr ++ wordFields (addr + 4)) [.pwr] fun e =>
      e.out = [.readData m (wordView s.dev addr + wordView s.dev (addr + 4) * 2 ^ 32)]) ∧
  (∀ (s : State) (m : Master) (addr : Nat), s.dev.readable m addr = false → addr % 4 = 0 →
    Completes (.readClear m addr 32) s [] [] fun e => e.out = [.readData m 0]) ∧
  (∀ (s : State) (m : Master) (addr width : Nat), accessOk addr width = false → s.dev.rd PWR_STATUS_SHARED_UP ≠ 0 →
    (m = .debug → s.dev.rd PWR_DBG_STAT_UNLOCKED ≠ 0) →
    Completes (.readClear m addr width) s ([(SYS_STATUS_ACCESS_ERR, 0), (SYS_ERR_CNT0_ACCESS_ERR_CNT, 0)] ++ errRegs) [] fun e =>
      e.out = [.readData m 0] ∧ e.rd SYS_STATUS_ACCESS_ERR = 1 ∧ e.errNames m addr 5) ∧
  (∀ (s : State) (m : Master), s.dev.readable m 0x1008 = true →
    Completes (.timeNsRead m) s [(BLF_FRAME_SNAP_NO, 0)] [] fun e =>
      e.out = [.readData m s.dev.timeNs] ∧ e.rd BLF_FRAME_SNAP_NO = s.dev.frameNo % 2 ^ 32) ∧
  (∀ (s : State) (m : Master), s.dev.readable m 0x1008 = false → Completes (.timeNsRead m) s [] [] fun e => e.out = [.readData m 0]) ∧
  (∀ (s : State) (m : Master) (offset width : Nat), s.dev.rd PWR_STATUS_SHARED_UP ≠ 0 → (m = .debug → s.dev.rd PWR_DBG_STAT_UNLOCKED ≠ 0) →
    s.dev.rd SYS_ACCESS_ALIAS_EN = 0 ∨ width ≠ 32 ∨ offset % 4 ≠ 0 →
    Completes (.aliasRead m offset width) s ([(SYS_STATUS_ACCESS_ERR, 0), (SYS_ERR_CNT0_ACCESS_ERR_CNT, 0)] ++ errRegs) [] fun e =>
      e.out = [.readData m 0] ∧ e.rd SYS_STATUS_ACCESS_ERR = 1) ∧
  (∀ (s : State) (m : Master) (offset : Nat), s.dev.readable m (aliasWord offset) = true → (m = .debug → s.dev.rd PWR_DBG_STAT_UNLOCKED ≠ 0) →
    s.dev.rd SYS_ACCESS_ALIAS_EN ≠ 0 → offset % 4 = 0 → offset < 0x200000 →
    (∀ p ∈ wordFields (aliasWord offset), p.1 ∉ [BLF_TIME_NS_NS, ADC_UA_SUM_SUM]) →
    Completes (.aliasRead m offset 32) s (wordFields (aliasWord offset)) [] fun e =>
      e.out = [.readData m (bitOf ((wordView s.dev (aliasWord offset)).testBit (aliasBit offset)))] ∧
      ∀ p ∈ wordFields (aliasWord offset), e.rd p.1 p.2 =
        if p.1.desc.access = .rc ∧ m ≠ .debug ∧ p.1.mask.testBit (aliasBit offset) ∧
            (wordView s.dev (aliasWord offset)).testBit (aliasBit offset)
        then setBit (s.dev.rd p.1 p.2) (aliasBit offset - p.1.desc.lo) false % 2 ^ p.1.width else s.dev.rd p.1 p.2)

/-- A write (R10, R18, R26, R446, R448, R450, R451, R455, R456, R460): a wrong width is refused, an unassigned or privileged word takes nothing, a
block with a clear BUSY bit takes the write and sets it, and a set one drops it; a word or a bit of the alias region reads as the value in force,
whatever write waits. Choices of the model in it: log entries 3, 13 and 14; entry 3 is each clause where nothing happens because the event cannot
occur. -/
def Obligations.WritesArePosted : Prop :=
  (∀ (s : State) (m : Master) (addr width v : Nat), s.dev.ignores m → Completes (.registerWrite m addr width v) s [] [] fun e => e.out = []) ∧
  (∀ (s : State) (m : Master) (addr width v : Nat), accessOk addr width = false → s.dev.rd PWR_STATUS_SHARED_UP ≠ 0 →
    (m = .debug → s.dev.rd PWR_DBG_STAT_UNLOCKED ≠ 0) → s.dev.mode ≠ .boot →
    Completes (.registerWrite m addr width v) s ([(SYS_STATUS_ACCESS_ERR, 0), (SYS_ERR_CNT0_ACCESS_ERR_CNT, 0)] ++ errRegs) [] fun e =>
      e.rd SYS_STATUS_ACCESS_ERR = 1 ∧ e.errNames m addr 5) ∧
  (∀ (s : State) (m : Master) (addr v : Nat), addr % 4 = 0 → s.dev.served m addr →
    wordFields addr = [] ∨ (privileged addr = true ∧ privilegedMaster m = false) →
    Completes (.registerWrite m addr 32 v) s [] [] fun e => e.out = []) ∧
  (∀ (s : State) (m : Master) (addr v b : Nat), addr % 4 = 0 → s.dev.served m addr → wordFields addr ≠ [] →
    (privileged addr = true → privilegedMaster m = true) → busyOf addr = some b → s.dev.rd (busyBit b).1 (busyBit b).2 = 0 →
    Completes (.registerWrite m addr 32 v) s [busyBit b] [.sys] fun e => e.rd (busyBit b).1 (busyBit b).2 = 1 ∧
      e.sys = { s.dev.sys with posted := s.dev.sys.posted ++ [⟨b, m, [⟨addr, 0xFFFFFFFF, v % 2 ^ 32⟩], s.dev.sys.gen⟩] }) ∧
  (∀ (s : State) (m : Master) (addr v b : Nat), addr % 4 = 0 → s.dev.served m addr → wordFields addr ≠ [] →
    (privileged addr = true → privilegedMaster m = true) → busyOf addr = some b → s.dev.rd (busyBit b).1 (busyBit b).2 ≠ 0 →
    Completes (.registerWrite m addr 32 v) s ([(SYS_STATUS_BUSY_DROP, 0), (SYS_ERR_CNT1_BUSY_DROP_CNT, 0)] ++ errRegs ++ recordRegs srcSystem)
      [.log] fun e => e.rd SYS_STATUS_BUSY_DROP = 1 ∧ e.errNames m addr 2 ∧ e.logged .BUSY_DROP srcSystem) ∧
  (∀ (s : State) (m : Master) (offset v : Nat), s.dev.served m (aliasWord offset) → s.dev.rd SYS_ACCESS_ALIAS_EN ≠ 0 → offset % 4 = 0 →
    offset < 0x200000 → aliasWord offset ∈ [0x50, 0x54, 0x58, 0x5C] → s.dev.rd SYS_LOCK_LOCK = 0 →
    Completes (.aliasWrite m offset 32 v) s [(SYS_SCRATCH_V, (aliasWord offset - 0x50) / 4)] [] fun e =>
      ∀ k, k < 32 → (e.rd SYS_SCRATCH_V ((aliasWord offset - 0x50) / 4)).testBit k =
        if k = aliasBit offset then v.testBit 0 else (s.dev.rd SYS_SCRATCH_V ((aliasWord offset - 0x50) / 4)).testBit k) ∧
  (∀ (s : State) (m : Master) (offset width v : Nat), s.dev.rd PWR_STATUS_SHARED_UP ≠ 0 → (m = .debug → s.dev.rd PWR_DBG_STAT_UNLOCKED ≠ 0) →
    s.dev.mode ≠ .boot → s.dev.rd SYS_ACCESS_ALIAS_EN = 0 ∨ width ≠ 32 ∨ offset % 4 ≠ 0 →
    Completes (.aliasWrite m offset width v) s ([(SYS_STATUS_ACCESS_ERR, 0), (SYS_ERR_CNT0_ACCESS_ERR_CNT, 0)] ++ errRegs) [] fun e =>
      e.rd SYS_STATUS_ACCESS_ERR = 1) ∧
  (∀ (s : State) (b : Fin 45), (∀ p ∈ s.dev.sys.posted, p.busy ≠ b.val) → Completes (.postedWriteComplete b) s [] [] fun e => e.out = []) ∧
  (∀ (s : State) (m : Master) (addr : Nat), s.dev.readable m addr = true → addr % 4 = 0 → (m = .debug → s.dev.rd PWR_DBG_STAT_UNLOCKED ≠ 0) →
    (∀ p ∈ wordFields addr, p.1 ∉ [BLF_TIME_NS_NS, SMY_PDATA_WORD, SMY_DDATA_WORD, SAF_DBG_DATA_DATA, ADC_UA_SUM_SUM]) →
    ∃ t, Sys2Proof.Machine.exec (.readClear m addr 32) s = .next t ∧ t.pending = s.pending ∧
      t.dev.out = [.readData m (wordView s.dev addr)] ∧ t.dev.sys = s.dev.sys) ∧
  (∀ (s : State) (m : Master) (offset : Nat), s.dev.readable m (aliasWord offset) = true → (m = .debug → s.dev.rd PWR_DBG_STAT_UNLOCKED ≠ 0) →
    s.dev.rd SYS_ACCESS_ALIAS_EN ≠ 0 → offset % 4 = 0 → offset < 0x200000 →
    (∀ p ∈ wordFields (aliasWord offset), p.1 ∉ [BLF_TIME_NS_NS, ADC_UA_SUM_SUM]) →
    ∃ t, Sys2Proof.Machine.exec (.aliasRead m offset 32) s = .next t ∧ t.pending = s.pending ∧
      t.dev.out = [.readData m (bitOf ((wordView s.dev (aliasWord offset)).testBit (aliasBit offset)))] ∧ t.dev.sys = s.dev.sys)

/-- A posted write of one word that holds one field completes (R452, R455, R456, Table 0-3): BUSY clears; a Live value waits for the tick, a Committed
one joins the pending set unless a GO has closed its set, a Stopped-only one acts at once unless the block runs, and a read-only field takes nothing.
Choices of the model in it: log entries 11, 14, 17 and 101. -/
def Obligations.PostedWriteByClass : Prop :=
  ∀ (s : State) (b : Fin 45) (p : Posted) (w : WordWrite) (f : RegField) (i : Nat),
    s.dev.sys.posted.find? (fun q => decide (q.busy = b.val)) = some p → p.words = [w] → wordFields w.addr = [(f, i)] →
    w.mask &&& f.mask ≠ 0 → f ≠ (busyBit b).1 →
    (f.desc.access = .rw → f.desc.cls = .live → f ≠ SAF_DBG_DATA_DATA →
      Completes (.postedWriteComplete b) s [busyBit b] [.sys] fun e => e.rd (busyBit b).1 (busyBit b).2 = 0 ∧
        liveValue e f i = laidIn f (liveValue s.dev f i) w.mask w.value ∧ e.sys.pending = s.dev.sys.pending ∧
          e.sys.posted = s.dev.sys.posted.erase p) ∧
    (f.desc.access = .rw → f.desc.cls = .committed → (∀ q ∈ s.dev.sys.requested, q.1 ≠ p.gen) →
      Completes (.postedWriteComplete b) s [busyBit b] [.sys] fun e => e.rd (busyBit b).1 (busyBit b).2 = 0 ∧
        pendingValue e f i = laidIn f (pendingValue s.dev f i) w.mask w.value ∧ e.sys.live = s.dev.sys.live) ∧
    (f.desc.access = .rw → f.desc.cls = .stopped → pairOfField f i = none → f ≠ SMY_PDATA_WORD → f ≠ SMY_DDATA_WORD →
      fieldView s.dev f i = s.dev.rd f i → laidIn f (s.dev.rd f i) w.mask w.value ≠ s.dev.rd f i →
      blockRuns s.dev f i = true → s.dev.rd PWR_STATUS_SHARED_UP ≠ 0 →
      Completes (.postedWriteComplete b) s
        ([busyBit b, (SYS_STATUS_BUSY_REJECT, 0), (SYS_ERR_CNT1_BUSY_REJECT_CNT, 0)] ++ errRegs ++ recordRegs srcSystem) [.sys, .log] fun e =>
          e.rd (busyBit b).1 (busyBit b).2 = 0 ∧ e.rd SYS_STATUS_BUSY_REJECT = 1 ∧ e.errNames p.master w.addr 3 ∧
            e.logged .BUSY_REJECT srcSystem) ∧
    (f.desc.access = .rw → f.desc.cls = .stopped → pairOfField f i = none → f ≠ SMY_PDATA_WORD → f ≠ SMY_DDATA_WORD →
      fieldView s.dev f i = s.dev.rd f i → blockRuns s.dev f i = false → valueRefused f (laidIn f (s.dev.rd f i) w.mask w.value) = false →
      Completes (.postedWriteComplete b) s [busyBit b, (f, i)] [.sys] fun e => e.rd (busyBit b).1 (busyBit b).2 = 0 ∧
        e.rd f i = laidIn f (s.dev.rd f i) w.mask w.value % 2 ^ f.width) ∧
    (f.desc.access = .wo → f ≠ SYS_COMMIT_GO → f ≠ SYS_COMMIT_ABORT → laidIn f 0 w.mask w.value ≠ 0 →
      Completes (.postedWriteComplete b) s [busyBit b] [.sys] fun e => e.rd (busyBit b).1 (busyBit b).2 = 0 ∧ liveValue e f i = 1 ∧
        e.sys.pending = s.dev.sys.pending) ∧
    (f.desc.access = .ro ∨ f.desc.access = .rc →
      Completes (.postedWriteComplete b) s [busyBit b] [.sys] fun e => e.rd (busyBit b).1 (busyBit b).2 = 0)

/-- Debug of a lane is entered only through a port unlocked for that lane, and takes the lane out of service (R110); a lane leaves it through its own
reset. The digest of a pass is the CRC-64 of R102 over the lane's image, shown in LNx_DIGEST. The debug window (R329, R449): a read answers the word
of the lane's image and advances the address; a write takes effect in a lane in DEBUG alone, is refused with LOCK_VIOL elsewhere, and a master without
privilege reaches neither. Choices of the model in it: log entries 3, 92 and 101; entry 3 is each clause where nothing happens because the event
cannot occur. -/
def Obligations.LaneDebugAndWindow : Prop :=
  (∀ (s : State) (l : Lane), (s.dev.rd PWR_DBG_STAT_LANE_AUTH).testBit l.idx = true → laneMode s.dev l ≠ .absent →
    laneMode s.dev l ≠ .debug → s.dev.rd PWR_STATUS_SHARED_UP ≠ 0 →
    Answers (.debugEnter l) s fun e => laneMode e l = .debug ∧ e.rd LN_STATUS_LANE_DEBUG l.idx = 1 ∧ (e.lanes.get l).safe ∧
      e.logged .LANE_DEBUG (srcLane l)) ∧
  (∀ (s : State) (l : Lane), (s.dev.rd PWR_DBG_STAT_LANE_AUTH).testBit l.idx = false →
    Completes (.debugEnter l) s [] [] fun e => e.out = []) ∧
  (∀ (s : State) (l : Lane), laneMode s.dev l = .debug → s.dev.rd PWR_STATUS_SHARED_UP ≠ 0 → convOk s.dev l = true →
    heldBy s.dev l.idx = [] → (s.dev.rd PWR_STATUS_LANE_UP).testBit l.idx = true →
    Answers (.debugExit l) s fun e => laneMode e l = .boot ∧ (e.lanes.get l).safe) ∧
  (∀ (s : State) (l : Lane), laneMode s.dev l ≠ .debug → Completes (.debugExit l) s [] [] fun e => e.out = []) ∧
  (∀ (s : State) (l : Lane), laneMode s.dev l ≠ .absent → laneMode s.dev l ≠ .boot → s.dev.tb.ticking = true → s.dev.frameNo % 2 = 0 →
    Completes (.digestPass l) s [(LN_DIGEST_LO_DIGEST, l.idx), (LN_DIGEST_HI_DIGEST, l.idx)] [.lanes, .tb] fun e =>
      let g := crc64Sparse 262144 0 0 (laneOf s.dev l).image.bytes
      e.rd LN_DIGEST_LO_DIGEST l.idx = g % 2 ^ 32 ∧ e.rd LN_DIGEST_HI_DIGEST l.idx = g / 2 ^ 32 % 2 ^ 32 ∧
        e.lanes = (onLane s.dev l fun x => { x with digestDone := g }).lanes ∧
        e.tb = { s.dev.tb with ext := max s.dev.tb.ext (s.dev.tb.tickAt + 44960) }) ∧
  (∀ (s : State) (l : Lane), laneMode s.dev l = .absent ∨ laneMode s.dev l = .boot ∨ s.dev.tb.ticking = false ∨ s.dev.frameNo % 2 = 1 →
    Completes (.digestPass l) s [] [] fun e => e.out = []) ∧
  (∀ (s : State) (m : Master) (v : Word32), s.dev.readable m 0x5008 = true →
    Completes (.dbgWindowAccess m false v) s [(SAF_DBG_ADDR_ADDR, 0)] [] fun e =>
      e.out = [.readData m (debugWord s.dev)] ∧
        e.rd SAF_DBG_ADDR_ADDR = (s.dev.rd SAF_DBG_ADDR_ADDR + 1) % 2 ^ SAF_DBG_ADDR_ADDR.width) ∧
  (∀ (s : State) (m : Master) (v : Word32), s.dev.readable m 0x5008 = false →
    Completes (.dbgWindowAccess m false v) s [] [] fun e => e.out = [.readData m 0]) ∧
  (∀ (s : State) (m : Master) (v : Word32), privilegedMaster m = false →
    Completes (.dbgWindowAccess m true v) s [] [] fun e => e.out = []) ∧
  (∀ (s : State) (m : Master) (v : Word32) (l : Lane), privilegedMaster m = true → s.dev.served m 0x5008 →
    s.dev.rd SAF_DBG_LANE_LANE = l.idx → laneMode s.dev l = .debug →
    Completes (.dbgWindowAccess m true v) s [(SAF_DBG_ADDR_ADDR, 0)] [.lanes] fun e =>
      (laneOf e l).image.bytes = SMap.setBytes 0 (laneOf s.dev l).image.bytes (4 * s.dev.rd SAF_DBG_ADDR_ADDR) (bytesLE 4 v.toNat) ∧
        (laneOf e l).image.params = (laneOf s.dev l).image.params ∧ ∀ k, k ≠ l → laneOf e k = laneOf s.dev k) ∧
  (∀ (s : State) (m : Master) (v : Word32) (l : Lane), privilegedMaster m = true → s.dev.served m 0x5008 →
    s.dev.rd SAF_DBG_LANE_LANE = l.idx → laneMode s.dev l ≠ .debug →
    Completes (.dbgWindowAccess m true v) s
      ([(SAF_DBG_ADDR_ADDR, 0), (SYS_STATUS_LOCK_VIOL, 0), (SYS_ERR_CNT0_LOCK_VIOL_CNT, 0)] ++ errRegs ++ recordRegs srcSystem) [.log] fun e =>
        e.rd SYS_STATUS_LOCK_VIOL = 1 ∧ e.logged .LOCK_VIOL srcSystem)

/-- The ticks (R28, R48, R49, R55): a tick advances the frame number and the time of the tick by one period and takes the Live values written since
the last; the first after reset begins frame 0; none occurs in reset or while a change of period waits. The change takes effect at the next multiple
of the new period and makes a start sequence due on every ring. The latch instant is reached in its frame. A requested set arms for a later tick, at
which it is taken (R452, R454), and TIME_NS reads the device time (R51). Choices of the model in it: log entries 2, 3, 11, 20, 21 and 96; entry 3 is
each clause where nothing happens because the event cannot occur. -/
def Obligations.TicksAndPeriodChange : Prop :=
  (∀ (s : State) (c : PerLane (Nat × Nat)), s.dev.rd PWR_STATUS_SHARED_UP ≠ 0 → s.dev.periodDue = none → s.dev.tb.ticking = true →
    s.dev.liveOk →
    Answers (.frameTick c) s fun e => e.frameNo = (s.dev.frameNo + 1) % 2 ^ 32 ∧ e.tb.ticking = true ∧
      e.tb.tickAt = gridTick (s.dev.tb.tickAt + s.dev.frameNs) s.dev.tb.stepNext s.dev.frameNs ∧
      e.tb.ext = s.dev.tb.tickAt + s.dev.frameNs + s.dev.tb.stepNext ∧ e.tb.stepNext = 0 ∧ e.tb.latchNow = latchIn s.dev 1 ∧
      e.sys.live = [] ∧ e.rd ADC_SNAP_FRAME_NO = s.dev.frameNo % 2 ^ 32) ∧
  (∀ (s : State) (c : PerLane (Nat × Nat)), s.dev.rd PWR_STATUS_SHARED_UP ≠ 0 → s.dev.periodDue = none → s.dev.tb.ticking = false →
    s.dev.liveOk →
    Answers (.frameTick c) s fun e => e.frameNo = 0 ∧ e.tb.ticking = true ∧ e.tb.tickAt = 0 ∧ e.tb.ext = 0 ∧ e.sys.live = []) ∧
  (∀ (s : State) (c : PerLane (Nat × Nat)), s.dev.rd PWR_STATUS_SHARED_UP = 0 ∨ s.dev.periodDue ≠ none →
    Completes (.frameTick c) s [] [] fun e => e.out = []) ∧
  (∀ (s : State) (c : PerLane (Nat × Nat)) (p : Nat), s.dev.periodDue = some p → p < 3 → s.dev.rd PWR_STATUS_SHARED_UP ≠ 0 →
    s.dev.tb.ticking = true → s.dev.liveOk →
    Answers (.periodChange c) s fun e => e.periodDue = none ∧ e.rd BLF_CFG_PERIOD = p ∧
      e.tb.tickAt = gridTick s.dev.nextTick s.dev.tb.stepNext (62500 * 2 ^ p) ∧
      e.tb.tickAt % (62500 * 2 ^ p) = 0 ∧ (∀ l : Lane, (ringOf e l).startDue = true) ∧ e.logged .PERIOD_CHANGED srcTime) ∧
  (∀ (s : State) (c : PerLane (Nat × Nat)), s.dev.periodDue = none ∨ s.dev.rd PWR_STATUS_SHARED_UP = 0 →
    Completes (.periodChange c) s [] [] fun e => e.out = []) ∧
  (∀ s : State, s.dev.tb.ticking = true →
    Answers .latchInstant s fun e =>
      e.tb = { s.dev.tb with ext := max s.dev.tb.ext (s.dev.tb.tickAt + 8 * s.dev.tb.latchNow) }) ∧
  (∀ s : State, s.dev.tb.ticking = false → Completes .latchInstant s [] [] fun e => e.out = []) ∧
  (∀ (s : State) (g : Nat) (xs : List RegCell) (rest : List (Nat × List RegCell)), s.dev.sys.requested = (g, xs) :: rest →
    (∀ p ∈ s.dev.sys.posted, p.gen ≤ g → carriesCommitted p = false) →
    ∃ t, Sys2Proof.Machine.exec .commitArm s = .next t ∧ t.pending = s.pending ∧ t.dev.sys.requested = rest ∧
      t.dev.sys.armed.length = s.dev.sys.armed.length + 1 ∧ t.dev.sys.armed.getLast?.map (·.cells) = some xs) ∧
  (∀ s : State, (∃ a ∈ s.dev.sys.armed, setDue s.dev a = true) →
    ∃ t, Sys2Proof.Machine.exec .commitApply s = .next t ∧ t.pending = s.pending ∧
      t.dev.sys.armed = s.dev.sys.armed.filter (fun a => !setDue s.dev a) ∧ t.dev.rd SYS_COMMIT_FRAME_FRAME = s.dev.frameNo % 2 ^ 32) ∧
  (∀ (s : State) (m : Master), s.dev.readable m 0x1008 = true →
    ∃ t, Sys2Proof.Machine.exec (.timeNsRead m) s = .next t ∧ t.pending = s.pending ∧ t.dev.out = [.readData m s.dev.timeNs])

/-! The ADC subsystem (chapter 12). -/

/-- The user sequence (R382 to R385, R398): a trigger starts it, is queued once, is counted beyond that, or comes too early; EN is refused for a list
that breaks R382; its samples are summed; its end is reached when both lists have ended. Choices of the model in it: log entries 3, 11 and 47; entry 3
is each clause where nothing happens because the event cannot occur. -/
def Obligations.AdcSequence : Prop :=
  (∀ (s : State) (m : Master) (t : Int) (rest : List Int), s.dev.takes m 0x8014 (ADC_STATUS_BUSY, 0) →
    s.dev.rd ADC_SEQ_CTRL_EN ≠ 0 → s.dev.rd ADC_REF_READY ≠ 0 → s.dev.adc.run = none → s.dev.rd ADC_SEQ_CTRL_CLR_ON_START = 0 →
    let start := fun (t : Int) (e : Dev) => e.rd ADC_STATUS_SEQ_ACTIVE = 1 ∧ ∃ r, e.adc.run = some r ∧
      r.c0 = -floorDiv (-(t - s.dev.tb.tickAt)) (adcClockNs s.dev) ∧ r.c1 = r.c0 ∧ r.last = r.c0 ∧ r.i0 = 0 ∧ r.i1 = 0
    Completes (.adcSeqGo m) s [(ADC_STATUS_SEQ_ACTIVE, 0)] [.adc] (start s.dev.tb.ext) ∧
    (s.dev.adc.trigs = t :: rest →
      Completes .adcSeqTrigger s [(ADC_STATUS_SEQ_ACTIVE, 0)] [.adc] fun e => start t e ∧ e.adc.trigs = rest)) ∧
  (∀ (s : State) (m : Master) (t : Int) (rest : List Int), s.dev.takes m 0x8014 (ADC_STATUS_BUSY, 0) →
    s.dev.rd ADC_SEQ_CTRL_EN ≠ 0 → s.dev.rd ADC_REF_READY ≠ 0 → s.dev.adc.run.isSome = true → s.dev.rd ADC_STATUS_TRIG_QUEUED = 0 →
    Completes (.adcSeqGo m) s [(ADC_STATUS_TRIG_QUEUED, 0)] [.adc] (fun e => e.rd ADC_STATUS_TRIG_QUEUED = 1 ∧ e.adc.run = s.dev.adc.run) ∧
    (s.dev.adc.trigs = t :: rest →
      Completes .adcSeqTrigger s [(ADC_STATUS_TRIG_QUEUED, 0)] [.adc] fun e => e.rd ADC_STATUS_TRIG_QUEUED = 1 ∧ e.adc.trigs = rest)) ∧
  (∀ (s : State) (m : Master) (t : Int) (rest : List Int), s.dev.takes m 0x8014 (ADC_STATUS_BUSY, 0) →
    s.dev.rd ADC_SEQ_CTRL_EN ≠ 0 → s.dev.rd ADC_REF_READY ≠ 0 → s.dev.adc.run.isSome = true → s.dev.rd ADC_STATUS_TRIG_QUEUED ≠ 0 →
    Completes (.adcSeqGo m) s [(ADC_CNT_TRIG_OVERRUN, 0)] [.adc] (fun e =>
      e.rd ADC_CNT_TRIG_OVERRUN = s.dev.countUp ADC_CNT_TRIG_OVERRUN) ∧
    (s.dev.adc.trigs = t :: rest → Completes .adcSeqTrigger s [(ADC_CNT_TRIG_OVERRUN, 0)] [.adc] fun e =>
      e.rd ADC_CNT_TRIG_OVERRUN = s.dev.countUp ADC_CNT_TRIG_OVERRUN)) ∧
  (∀ (s : State) (m : Master), s.dev.takes m 0x8014 (ADC_STATUS_BUSY, 0) → s.dev.rd ADC_SEQ_CTRL_EN ≠ 0 → s.dev.rd ADC_REF_READY = 0 →
    Completes (.adcSeqGo m) s ([(ADC_STATUS_TRIG_EARLY, 0)] ++ recordRegs srcAdc) [.adc, .log] fun e =>
      e.rd ADC_STATUS_TRIG_EARLY = 1 ∧ e.logged .ADC_REF_EARLY srcAdc ∧ e.adc.run = s.dev.adc.run) ∧
  (∀ s : State, s.dev.adc.trigs = [] → Completes .adcSeqTrigger s [] [] fun e => e.out = []) ∧
  (∀ (s : State) (m : Master), s.dev.takes m 0x8014 (ADC_STATUS_BUSY, 0) → s.dev.rd ADC_SEQ_CTRL_EN = 0 → sequenceRefused s.dev = false →
    Completes (.adcSeqEnable m true) s [(ADC_SEQ_CTRL_EN, 0)] [] fun e => e.rd ADC_SEQ_CTRL_EN = 1) ∧
  (∀ (s : State) (m : Master), s.dev.takes m 0x8014 (ADC_STATUS_BUSY, 0) → s.dev.rd ADC_SEQ_CTRL_EN = 0 → sequenceRefused s.dev = true →
    Completes (.adcSeqEnable m true) s ([(ADC_STATUS_SEQ_CFG_REJECT, 0)] ++ recordRegs srcAdc) [.log] fun e =>
      e.rd ADC_STATUS_SEQ_CFG_REJECT = 1 ∧ e.logged .ADC_SEQ_REJECT srcAdc) ∧
  (∀ (s : State) (m : Master), s.dev.takes m 0x8014 (ADC_STATUS_BUSY, 0) →
    Completes (.adcSeqEnable m false) s [(ADC_SEQ_CTRL_EN, 0)] [] fun e => e.rd ADC_SEQ_CTRL_EN = 0) ∧
  (∀ (s : State) (v : Fin 2) (r : SeqRun) (x : Sample) (val : Int) (st : Int),
    let i := if v = 0 then r.i0 else r.i1
    let ch := (seqEntry s.dev v i).1
    let u := (seqEntry s.dev v i).2.2.2
    let a := SMap.get ({} : UserAcc) s.dev.adc.ua u
    s.dev.adc.run = some r → (seqEntry s.dev v i).2.1 = 0 → (seqEntry s.dev v i).2.2.1 = 0 → i < seqLen s.dev v →
    entryStart s.dev v (if v = 0 then r.c0 else r.c1) 1 = some st → correctSample s.dev ch x = (val, false) →
    recoverTo s.dev.adc v = none → a.count < 65535 →
    Completes (.adcEntryEnd v [x]) s [(ADC_UA_SUM_SUM, u)] [.adc, .tb] fun e =>
      e.rd ADC_UA_SUM_SUM u = fieldOf 32 (s.dev.rdI ADC_UA_SUM_SUM u + val) ∧
      SMap.get ({} : UserAcc) e.adc.ua u =
        { count := a.count + 1, mn := min a.mn val, mx := max a.mx val, full := decide (65535 ≤ a.count + 1) } ∧
      e.adc.run = some (if v = 0 then { r with last := max r.last (st + 8), i0 := i + 1, c0 := st + 1 }
        else { r with last := max r.last (st + 8), i1 := i + 1, c1 := st + 1 })) ∧
  (∀ (s : State) (v : Fin 2) (xs : List Sample), Touches (.adcEntryEnd v xs) s [ADC_UA_SUM_SUM, ADC_CH_STAT_OVR, ADC_CH_STAT_OVR_CNT] []
    [.adc, .tb]) ∧
  (∀ (s : State) (v : Fin 2) (xs : List Sample), s.dev.adc.run = none → Completes (.adcEntryEnd v xs) s [] [] fun e => e.out = []) ∧
  (∀ (s : State) (r : SeqRun), s.dev.adc.run = some r → seqLen s.dev 0 ≤ r.i0 → seqLen s.dev 1 ≤ r.i1 →
    s.dev.rd ADC_STATUS_TRIG_QUEUED = 0 →
    Completes .adcSeqEnd s [(ADC_STATUS_SEQ_ACTIVE, 0)] [.adc, .tb, .smy0, .smy1] fun e =>
      e.rd ADC_STATUS_SEQ_ACTIVE = 0 ∧ e.adc = { s.dev.adc with run := none }) ∧
  (∀ (s : State) (r : SeqRun), s.dev.adc.run = some r → seqLen s.dev 0 ≤ r.i0 → seqLen s.dev 1 ≤ r.i1 →
    s.dev.rd ADC_STATUS_TRIG_QUEUED ≠ 0 →
    Answers .adcSeqEnd s fun e => e.rd ADC_STATUS_SEQ_ACTIVE = 1 ∧ e.rd ADC_STATUS_TRIG_QUEUED = 0 ∧ e.adc.run.isSome = true) ∧
  (∀ (s : State) (r : SeqRun), s.dev.adc.run = some r → r.i0 < seqLen s.dev 0 ∨ r.i1 < seqLen s.dev 1 →
    Completes .adcSeqEnd s [] [] fun e => e.out = [])

/-- The monitor scan, the reference and the user accumulators (R373 to R376, R385): a round whose check samples are at the check level passes, one
whose samples on ADC0 lie further off than 256 fails; EN of the reference is written once; a read of a sum copies the set, CLR clears it. Choices of
the model in it: log entries 3, 23 and 45; entry 3 is each clause where nothing happens because the event cannot occur. -/
def Obligations.AdcMonitorAndAccumulators : Prop :=
  (∀ (s : State) (s0 s1 : List Sample), Touches (.monitorRound s0 s1) s [ADC_CH_STAT_OVR, ADC_CH_STAT_OVR_CNT] [] [.adc, .tb]) ∧
  (∀ (s : State) (s0 s1 : List Sample), s.dev.adc.scanning = false → Completes (.monitorRound s0 s1) s [] [] fun e => e.out = []) ∧
  (∀ (s : State) (s0 s1 : List Sample), s.dev.adc.scanning = true → (s.dev.adc.round + 1) * roundClocks s.dev ≤ frameAdcClocks s.dev →
    s.dev.adc.rec0 = none → s.dev.adc.rec1 = none → s0.take 5 = List.replicate 5 ⟨checkLevel s.dev.frameNo, false⟩ →
    s1.take 5 = List.replicate 5 ⟨checkLevel s.dev.frameNo, false⟩ →
    Answers (.monitorRound s0 s1) s fun e => e.adc.round = s.dev.adc.round + 1 ∧ e.adc.chkMade = true ∧ e.adc.chkBad = s.dev.adc.chkBad) ∧
  (∀ (s : State) (s0 s1 : List Sample) (x : Int), s.dev.adc.scanning = true →
    (s.dev.adc.round + 1) * roundClocks s.dev ≤ frameAdcClocks s.dev →
    s.dev.adc.rec0 = none → s.dev.adc.rec1 = none → s0.take 5 = List.replicate 5 ⟨x, false⟩ → -32768 ≤ x → x ≤ 32767 →
    256 < (x - checkLevel s.dev.frameNo).natAbs → s1.take 5 = List.replicate 5 ⟨checkLevel s.dev.frameNo, false⟩ →
    Answers (.monitorRound s0 s1) s fun e => e.adc.round = s.dev.adc.round + 1 ∧ e.adc.chkBad = true) ∧
  (∀ (s : State) (m : Master), s.dev.takes m 0x8004 (ADC_STATUS_BUSY, 0) →
    Completes (.adcRefEnWrite m true) s [(ADC_REF_EN, 0)] [] fun e => e.rd ADC_REF_EN = 1) ∧
  (∀ (s : State) (m : Master), s.dev.takes m 0x8004 (ADC_STATUS_BUSY, 0) → s.dev.rd ADC_REF_EN ≠ 0 →
    Completes (.adcRefEnWrite m false) s ([(SYS_STATUS_LOCK_VIOL, 0), (SYS_ERR_CNT0_LOCK_VIOL_CNT, 0)] ++ errRegs ++ recordRegs srcSystem)
      [.log] fun e => e.rd ADC_REF_EN = s.dev.rd ADC_REF_EN ∧ e.rd SYS_STATUS_LOCK_VIOL = 1 ∧ e.logged .LOCK_VIOL srcSystem) ∧
  (∀ (s : State) (m : Master), s.dev.takes m 0x8004 (ADC_STATUS_BUSY, 0) → s.dev.rd ADC_REF_EN = 0 →
    Completes (.adcRefEnWrite m false) s [] [] fun e => e.out = []) ∧
  (∀ s : State, s.dev.rd ADC_REF_EN ≠ 0 → Completes .adcRefReady s [(ADC_REF_READY, 0)] [] fun e => e.rd ADC_REF_READY = 1) ∧
  (∀ s : State, s.dev.rd ADC_REF_EN = 0 → Completes .adcRefReady s [] [] fun e => e.out = []) ∧
  (∀ (s : State) (m : Master) (u : Fin 32), s.dev.readable m (0x8500 + 16 * u) = true →
    Completes (.adcUaSumRead m u) s [(ADC_UA_CNT_COUNT, u), (ADC_UA_CNT_FULL, u), (ADC_UA_MM_MIN, u), (ADC_UA_MM_MAX, u)] [] fun e =>
      let a := SMap.get ({} : UserAcc) s.dev.adc.ua u
      e.out = [.readData m (s.dev.rd ADC_UA_SUM_SUM u)] ∧ e.rd ADC_UA_CNT_COUNT u = a.count % 2 ^ 16 ∧
        e.rd ADC_UA_CNT_FULL u = bitOf a.full ∧ e.rdI ADC_UA_MM_MIN u = saturate 16 a.mn ∧ e.rdI ADC_UA_MM_MAX u = saturate 16 a.mx) ∧
  (∀ (s : State) (m : Master) (u : Fin 32), s.dev.readable m (0x8500 + 16 * u) = false →
    Completes (.adcUaSumRead m u) s [] [] fun e => e.out = [.readData m 0]) ∧
  (∀ (s : State) (m : Master) (u : Fin 32), s.dev.takes m (0x850C + 16 * u) (ADC_STATUS_BUSY, 0) →
    Completes (.adcUaClr m u) s [(ADC_UA_SUM_SUM, u)] [.adc] fun e =>
      e.rd ADC_UA_SUM_SUM u = 0 ∧ SMap.get ({} : UserAcc) e.adc.ua u = {})

/-! Mill, the loop engines (chapter 08). -/

/-- Prepare and close phases of the loop engines and marshalling (R165, R166, R247, R252, R258 to R263): an active slot whose engine works prepares;
with feedback the observer takes it and COAST clears, without it COAST counts; an output without torque ramps to 0 by DUMAX, one held by the guard
repeats; at the window's end an output that is there leaves and a missing one is counted as a miss, the one sent last standing; the setpoint part of a
schedule entry carries the low 16 bits of the difference of each joint's output to the one sent last, whole for the escape joint (joints numbered in
entry order, a log entry). Choices of the model in it: log entries 8, 44, 66, 67, 91 and 129. -/
def Obligations.MillPhasesAndMarshalling : Prop :=
  (∀ (s : State) (late : List (Fin 148)) (j : Nat), s.dev.tb.ticking = true → j < 128 → slotActive s.dev j = true →
    engineRuns s.dev (j / 8) = true → (∀ x ∈ late, x.val ≠ j) → s.dev.offset < (s.dev.frameNs : Int) - 14500 →
    Answers (.preparePhase late) s fun e => (mjOf e j).prepared = true ∧ (mjOf e j).uPrev = (mjOf s.dev j).uPrev ∧
      (mjOf e j).obs = (mjOf s.dev j).obs) ∧
  (∀ (s : State) (late : List (Fin 148)) (j : Fin 148), s.dev.tb.ticking = true → j ∈ late → j.val < 128 →
    Answers (.preparePhase late) s fun e => mjOf e j = mjOf s.dev j) ∧
  (∀ (s : State) (late : List (Fin 148)), s.dev.tb.ticking = false →
    Completes (.preparePhase late) s [] [] (fun e => e.out = []) ∧ Completes (.closePhase late) s [] [] (fun e => e.out = []) ∧
    Completes .prepareWindowEnd s [] [] (fun e => e.out = []) ∧ Completes .closeWindowEnd s [] [] (fun e => e.out = []) ∧
    Completes .marshalling s [] [] (fun e => e.out = [])) ∧
  (∀ (s : State) (late : List (Fin 148)), (s.dev.frameNs : Int) - 14500 ≤ s.dev.offset →
    Completes (.preparePhase late) s [] [] fun e => e.out = []) ∧
  (∀ s : State, 3200 ≤ s.dev.offset → Completes .marshalling s [] [] fun e => e.out = []) ∧
  (∀ s : State, s.dev.tb.ticking = true → (∀ k, k < 16 → engineRuns s.dev k = true →
      (∃ x ∈ engineSlots k, slotActive s.dev x = true) → ∃ x ∈ engineSlots k, slotActive s.dev x = true ∧ isPrepared s.dev x = true) →
    Completes .prepareWindowEnd s [] [.tb] fun e => e.out = []) ∧
  (∀ (s : State) (k : Nat), s.dev.tb.ticking = true → k < 16 → engineRuns s.dev k = true →
    (∃ x ∈ engineSlots k, slotActive s.dev x = true) → (∀ x ∈ engineSlots k, slotActive s.dev x = true → isPrepared s.dev x = false) →
    s.dev.rd MIL_ENG_STAT_STATE (physOf s.dev k) ≠ 2 → (∀ i, i < 16 → s.dev.rd MIL_ENG_STAT_LOGICAL (physOf s.dev i) = i) →
    Answers .prepareWindowEnd s fun e => e.rd MIL_ENG_STAT_STATE (physOf s.dev k) = 2 ∧ e.rd MIL_ENG_STAT_CAUSE (physOf s.dev k) = 2 ∧
      e.rd MIL_STATUS_ENG_FAULT = 1) ∧
  (∀ (s : State) (j : Nat), s.dev.tb.ticking = true → j < 128 → slotActive s.dev j = true → engineRuns s.dev (j / 8) = true →
    isPrepared s.dev j = true →
    Answers (.closePhase []) s fun e =>
      (mjOf e j).closed = true ∧
      (∀ y, feedbackOf s.dev j = some y → e.rd MIL_J_STAT_COAST j = 0 ∧ (mjOf e j).y = y ∧ (mjOf e j).fbFrame = s.dev.frameNo ∧
        (mjOf e j).started = true) ∧
      (feedbackOf s.dev j = none → e.rd MIL_J_STAT_COAST j = s.dev.countUp MIL_J_STAT_COAST j) ∧
      (let du : Int := s.dev.rd MIL_J_DUMAX_DU j
        let u : Int := if slotGranted s.dev j then (mjOf s.dev j).uPrev else (mjOf s.dev j).uPrev - clampInt (-du) du (mjOf s.dev j).uPrev
        (guardHeld s.dev j = true ∨ slotGranted s.dev j = false) → (mjOf e j).uPrev = u ∧
          (mjOf e j).out = (if s.dev.rd MIL_J_CTRL_OUT_INV j = 0 then u else -u) ∧
          (slotGranted s.dev j = false → (mjOf e j).sigma = f64Zero)) ∧
      (mjOf e j).sent = (mjOf s.dev j).sent ∧ e.rd MIL_J_UOUT_U j = s.dev.rd MIL_J_UOUT_U j ∧
      e.rd MIL_J_STAT_GRANTED j = bitOf (slotGranted s.dev j)) ∧
  (∀ (s : State) (j : Nat), s.dev.tb.ticking = true → j < 128 → slotActive s.dev j = true → (mjOf s.dev j).closed = false →
    Answers .closeWindowEnd s fun e => e.rd MIL_J_STAT_DEADLINE_MISS j = 1 ∧ e.rd MIL_STATUS_ANY_MISS = 1 ∧
      e.rd MIL_J_MISS_CNT j = s.dev.countUp MIL_J_MISS_CNT j ∧ e.rd MIL_J_STAT_MISS_RUN j = s.dev.countUp MIL_J_STAT_MISS_RUN j ∧
      (mjOf e j).sent = (mjOf s.dev j).sent ∧ e.rd MIL_J_UOUT_U j = s.dev.rd MIL_J_UOUT_U j ∧
      (s.dev.rd MIL_J_STAT_MISS_RUN j = 2 → e.rd MIL_J_STAT_MISS3 j = 1)) ∧
  (∀ (s : State) (j : Nat), s.dev.tb.ticking = true → j < 128 → slotActive s.dev j = true → (mjOf s.dev j).closed = true →
    Answers .closeWindowEnd s fun e => e.rd MIL_J_STAT_MISS_RUN j = 0 ∧ e.rd MIL_J_MISS_CNT j = s.dev.rd MIL_J_MISS_CNT j ∧
      (mjOf e j).closed = false ∧ (mjOf e j).sent = (mjOf s.dev j).out ∧
      e.rd MIL_J_UOUT_U j = if (mjOf s.dev j).out = (mjOf s.dev j).sent then s.dev.rd MIL_J_UOUT_U j else fieldOf 32 (mjOf s.dev j).out) ∧
  (∀ (s : State) (k : Nat), s.dev.tb.ticking = true → k < (motionSched s.dev).length → 0 < (entryAt (motionSched s.dev) k).joints →
    s.dev.rd GRP_STATUS_QUARANTINED = 0 → (∀ l : Lane, (ringOf s.dev l).seqReset = false) → s.dev.offset < 3200 →
    let n := (entryAt (motionSched s.dev) k).joints
    let base := jointBase (motionSched s.dev) k
    let esc := (escapeOf s.dev k n).1
    let x := fun i => mjOf s.dev (base + i)
    let val := fun i => if slotActive s.dev (base + i) = false then 0 else if (x i).closed then (x i).out else (x i).sent
    Answers .marshalling s fun e =>
      SMap.get {} e.motion.parts k =
        { escJoint := esc, escValid := true, escHi := fieldOf 16 (Int.fdiv (val esc) 65536)
          slots := (List.range n).map fun i =>
            if i = esc then fieldOf 16 (val i) else fieldOf 16 (val i - SMap.get 0 s.dev.motion.sent (base + i)) } ∧
      (∀ i, i < n → SMap.get 0 e.motion.sent (base + i) = val i) ∧
      SMap.get none e.motion.escape k = (escapeOf s.dev k n).2)

/-- Engine faults, spares, migration, the gain table port, the drain of the store and telemetry (R231, R246, R257, R264 to R267, R271, R353). Choices
of the model in it: log entries 3, 11, 56, 68, 69, 111 and 127; entry 3 is each clause where nothing happens because the event cannot occur. -/
def Obligations.MillEnginesAndPorts : Prop :=
  (∀ (s : State) (p : Fin 18) (kat : Bool), s.dev.rd MIL_ENG_STAT_STATE p ≠ 2 →
    (s.dev.mode ≠ .boot → Touches (.engineFault p kat) s [SAF_FAULT_FIRST_KIND, SAF_FAULT_FIRST_INDEX, SAF_FAULT_FIRST_EVENT,
      SAF_FAULT_SECOND_KIND, SAF_FAULT_SECOND_INDEX, SAF_FAULT_SECOND_EVENT]
      [(MIL_ENG_STAT_STATE, p), (MIL_ENG_STAT_CAUSE, p), (MIL_STATUS_ENG_FAULT, 0), (MIL_STATUS_SPARES, 0)] [.fault, .mil]) ∧
    Answers (.engineFault p kat) s fun e => e.rd MIL_ENG_STAT_STATE p = 2 ∧ e.rd MIL_ENG_STAT_CAUSE p = (if kat then 3 else 1) ∧
      e.rd MIL_STATUS_ENG_FAULT = 1 ∧ e.rd MIL_STATUS_SPARES = (spares e).length % 4 ∧ (3, p.val) ∈ e.fault.counted ∧
      (s.dev.rd MIL_ENG_STAT_STATE p ≠ 1 → ∀ j ∈ engineSlots (s.dev.rd MIL_ENG_STAT_LOGICAL p), isClosed e j = false)) ∧
  (∀ (s : State) (p : Fin 18) (kat : Bool), s.dev.rd MIL_ENG_STAT_STATE p = 2 → s.dev.mode ≠ .boot →
    Completes (.engineFault p kat) s [] [] fun e => e.out = []) ∧
  (∀ (s : State) (p : Fin 18), s.dev.rd MIL_ENG_STAT_STATE p = 1 ∨ (s.dev.rd MIL_ENG_STAT_STATE p = 0 ∧ s.dev.mode = .boot) →
    (s.dev.mode ≠ .boot → Completes (.spareKat p true) s [(MIL_ENG_STAT_KAT_PASS, p)] [.mil] fun e =>
      e.mil = { s.dev.mil with tested := s.dev.mil.tested.insert p.val }) ∧
    Answers (.spareKat p true) s fun e => e.rd MIL_ENG_STAT_KAT_PASS p = s.dev.countUp MIL_ENG_STAT_KAT_PASS p ∧ p.val ∈ e.mil.tested) ∧
  (∀ (s : State) (p : Fin 18), s.dev.rd MIL_ENG_STAT_STATE p = 1 ∨ (s.dev.rd MIL_ENG_STAT_STATE p = 0 ∧ s.dev.mode = .boot) →
    Answers (.spareKat p false) s fun e => e.rd MIL_ENG_STAT_STATE p = 2 ∧ e.rd MIL_ENG_STAT_CAUSE p = 3 ∧ e.rd MIL_STATUS_ENG_FAULT = 1) ∧
  (∀ (s : State) (p : Fin 18) (ok : Bool), s.dev.rd MIL_ENG_STAT_STATE p ≠ 1 → s.dev.rd MIL_ENG_STAT_STATE p ≠ 0 ∨ s.dev.mode ≠ .boot →
    Completes (.spareKat p ok) s [] [] fun e => e.out = []) ∧
  (∀ (s : State) (k : Fin 16) (bad : Bool) (p : Nat) (rest : List Nat), s.dev.mil.migrating.min? = some k.val → spares s.dev = p :: rest →
    s.dev.rd PWR_STATUS_SHARED_UP ≠ 0 →
    Answers (.engineMigration k bad) s fun e => e.rd MIL_ENG_STAT_STATE p = 0 ∧ e.rd MIL_ENG_STAT_LOGICAL p = k.val ∧
      physOf e k = p ∧ k.val ∉ e.mil.migrating ∧ e.logged .ENGINE_SPARED (srcEngine p) p) ∧
  (∀ (s : State) (k : Fin 16) (bad : Bool), s.dev.mil.migrating.min? ≠ some k.val ∨ spares s.dev = [] →
    Completes (.engineMigration k bad) s [] [] fun e => e.out = []) ∧
  (∀ (s : State) (m : Master) (v : Word32), s.dev.takes m 0x14208 (MIL_STATUS_BUSY, 0) →
    s.dev.rd MIL_TBL_SEL_BANK ≠ (mjOf s.dev (s.dev.rd MIL_TBL_SEL_JOINT)).bank →
    Completes (.gainTableWrite m v) s [(MIL_TBL_G_G, 0), (MIL_TBL_SEL_POINT, 0)] [.mil] fun e =>
      e.rd MIL_TBL_G_G = v.toNat ∧ e.rd MIL_TBL_SEL_POINT = (s.dev.rd MIL_TBL_SEL_POINT + 1) % 64 ∧
        SMap.get (0, 0) e.mil.gains
          (128 * s.dev.rd MIL_TBL_SEL_JOINT + 64 * s.dev.rd MIL_TBL_SEL_BANK + s.dev.rd MIL_TBL_SEL_POINT) = (s.dev.rd MIL_TBL_E_E, v.toNat)) ∧
  (∀ (s : State) (m : Master) (v : Word32), s.dev.takes m 0x14208 (MIL_STATUS_BUSY, 0) →
    s.dev.rd MIL_TBL_SEL_BANK = (mjOf s.dev (s.dev.rd MIL_TBL_SEL_JOINT)).bank →
    Completes (.gainTableWrite m v) s ([(SYS_STATUS_BUSY_REJECT, 0), (SYS_ERR_CNT1_BUSY_REJECT_CNT, 0)] ++ errRegs ++ recordRegs srcSystem)
      [.log] fun e => e.rd SYS_STATUS_BUSY_REJECT = 1 ∧ e.logged .BUSY_REJECT srcSystem) ∧
  (∀ (s : State) (m : Master) (k : Fin 16), s.dev.takes m (0x1803C + 256 * k) (FBK_STAT_BUSY, k) → s.dev.rd FBK_CFG_MODE k ≠ 3 →
    s.dev.rd FBK_CFG_MODE k ≠ 4 → portUsed s.dev k = false →
    Completes (.fbPreset m k) s [] [.axes] fun e => fbOf e k = { fbOf s.dev k with preset := true }) ∧
  (∀ (s : State) (m : Master) (k : Fin 16), s.dev.takes m (0x1803C + 256 * k) (FBK_STAT_BUSY, k) →
    s.dev.rd FBK_CFG_MODE k = 3 ∨ s.dev.rd FBK_CFG_MODE k = 4 ∨ portUsed s.dev k = true →
    Completes (.fbPreset m k) s ([(SYS_STATUS_BUSY_REJECT, 0), (SYS_ERR_CNT1_BUSY_REJECT_CNT, 0)] ++ errRegs ++ recordRegs srcSystem)
      [.log] fun e => e.rd SYS_STATUS_BUSY_REJECT = 1 ∧ e.logged .BUSY_REJECT srcSystem) ∧
  (∀ (s : State) (a : Fin 36) (r : Run) (g : Seg), (armOf s.dev a).run = some r →
    ((slotsOf s.dev a).head?.bind fun j => (segsOf s.dev j).getLast?) = some g → r.mode ≠ .held → r.mode ≠ .coupling →
    r.mode ≠ .stopping 3 → g.last = false → 0 ≤ frameDiff (frameAdd s.dev.frameNo 2) (segStop g) →
    let drain := fun (r : Run) => { r with mode := .stopping 3, fin := some (frameAdd (segStop g) g.stopFr), till := none, hold := none }
    Answers (.storeDrain a) s (fun e => e.rd PLN_ARM_STAT_DRAINED a = 1 ∧ e.rd PLN_STATUS_STORE_DRAIN = 1 ∧
      ((armOf s.dev a).next = none → (armOf e a).run = some (drain r)) ∧
      (∀ n, (armOf s.dev a).next = some n → (armOf e a).next = none ∧
        (armOf e a).run = some (drain (if blendBegun (armOf s.dev a) s.dev.frameNo then n else r)))) ∧
    ((armOf s.dev a).next = none → stagedAnswers s.dev a = [] → s.dev.rd PWR_STATUS_SHARED_UP ≠ 0 →
      Answers (.storeDrain a) s fun e => e.rd PLN_ARM_STAT_STATE a = 6 ∧ e.logged .STORE_DRAIN srcPlanner a)) ∧
  (∀ (s : State) (a : Fin 36) (r : Run), (armOf s.dev a).run = some r → r.mode = .held ∨ r.mode = .coupling ∨ r.mode = .stopping 3 →
    Completes (.storeDrain a) s [] [] fun e => e.out = []) ∧
  (∀ (s : State) (a : Fin 36), (armOf s.dev a).run = none → Completes (.storeDrain a) s [] [] fun e => e.out = []) ∧
  (∀ s : State, s.dev.rd MIL_TLM_CTRL_EN = 0 ∨ tlmSels s.dev = [] → Completes .telemetryRecord s [] [] fun e => e.out = []) ∧
  (∀ s : State, s.dev.rd MIL_TLM_CTRL_EN ≠ 0 → tlmSels s.dev ≠ [] →
    (∀ k ∈ tlmSels s.dev, (SMap.get [] s.dev.mil.tlm.samples k).length = 8) →
    let wr := s.dev.rd MIL_TLM_WR_IDX
    let next := if s.dev.rd MIL_TLM_SIZE_RECORDS ≤ wr + 1 then 0 else wr + 1
    (next ≠ s.dev.rd MIL_TLM_RD_IDX →
      Completes .telemetryRecord s [(MIL_TLM_WR_IDX, 0)] [.mil] fun e => e.rd MIL_TLM_WR_IDX = next % 2 ^ MIL_TLM_WR_IDX.width ∧
        e.mil.tlm.lost = 0 ∧ ∃ bs : List Byte, bs.length = 16 + 16 * (tlmSels s.dev).length ∧
          e.out = [.hostWrite (hostBase (s.dev.rd MIL_TLM_BASE_LO_ADDR) (s.dev.rd MIL_TLM_BASE_HI_ADDR) +
            wr * (16 + 16 * (tlmSels s.dev).length)) bs]) ∧
    (next = s.dev.rd MIL_TLM_RD_IDX →
      Answers .telemetryRecord s fun e => e.rd MIL_STATUS_TLM_OVERFLOW = 1 ∧ e.mil.tlm.lost = s.dev.mil.tlm.lost + 1 ∧ e.out = [] ∧
        e.rd MIL_TLM_WR_IDX = s.dev.rd MIL_TLM_WR_IDX))

/-! The host interface (chapter 14). -/

/-- Doorbells and the fetch of submission entries (R424 to R432): a tail outside its queue flags the queue; an entry the checks of Table 14-5 reject
is answered at once, counted and not executed, one in flight or completed is counted as a replay, and an admitted device command enters flight. The
head moves on each time. Choices of the model in it: log entries 3, 70 and 71; entry 3 is each clause where nothing happens because the event cannot
occur. -/
def Obligations.DoorbellAndFetch : Prop :=
  (∀ (s : State) (b : List Word32), s.dev.rd HST_STATUS_LINK_UP = 0 → Completes (.doorbellPoll b) s [] [] fun e => e.out = []) ∧
  (∀ (s : State) (b : List Word32) (q : Nat), s.dev.rd HST_STATUS_LINK_UP ≠ 0 → q < 16 → s.dev.rd HST_SQ_CFG_EN q ≠ 0 →
    s.dev.rd HST_SQ_STAT_Q_ERR q = 0 → (b.getD q 0).toNat % 4096 < sqSize s.dev q →
    Answers (.doorbellPoll b) s fun e => SMap.get 0 e.host.tails q = (b.getD q 0).toNat % 4096 ∧ e.rd HST_SQ_STAT_Q_ERR q = 0) ∧
  (∀ (s : State) (b : List Word32) (q : Nat), s.dev.rd HST_STATUS_LINK_UP ≠ 0 → q < 16 → s.dev.rd HST_SQ_CFG_EN q ≠ 0 →
    s.dev.rd HST_SQ_STAT_Q_ERR q = 0 → sqSize s.dev q ≤ (b.getD q 0).toNat % 4096 →
    Answers (.doorbellPoll b) s fun e => SMap.get 0 e.host.tails q = SMap.get 0 s.dev.host.tails q ∧ e.rd HST_SQ_STAT_Q_ERR q = 1) ∧
  (∀ (s : State) (b : List Word32), Touches (.doorbellPoll b) s ([HST_SQ_STAT_Q_ERR, HST_CQ_STAT_Q_ERR] ++ recordFields) [] [.host, .log]) ∧
  (∀ (s : State) (entry : List Byte), s.dev.rd HST_STATUS_LINK_UP = 0 ∨ nextSq s.dev = none →
    Completes (.submissionFetch entry) s [] [] fun e => e.out = []) ∧
  (∀ (s : State) (entry : List Byte) (q : Nat), s.dev.rd HST_STATUS_LINK_UP ≠ 0 → nextSq s.dev = some q → entry.length = 64 →
    let head := (s.dev.rd HST_SQ_STAT_HEAD q + 1) % sqSize s.dev q
    let cq := s.dev.rd HST_SQ_CFG_CQ q
    let at0 := onHost (s.dev.wr HST_SQ_STAT_HEAD q head) fun h => { h with turn := (q + 1) % 16 }
    let shown := [(HST_SQ_STAT_HEAD, q), (HST_CQ_STAT_TAIL, cq), (HST_CQ_STAT_PHASE, cq)]
    (∀ r, judge at0 q entry = .rejected r →
      Completes (.submissionFetch entry) s ([(HST_CNT_REJECTS, 0)] ++ shown) [.host] fun e =>
        e.rd HST_CNT_REJECTS = s.dev.countUp HST_CNT_REJECTS ∧ e.rd HST_SQ_STAT_HEAD q = head % 2 ^ 12 ∧
          e.host.flight = s.dev.host.flight ∧ e.host.store = s.dev.host.store ∧ e.host.turn = (q + 1) % 16) ∧
    (judge at0 q entry = .dup →
      Completes (.submissionFetch entry) s ([(HST_CNT_REPLAYS, 0)] ++ shown) [.host] fun e =>
        e.rd HST_CNT_REPLAYS = s.dev.countUp HST_CNT_REPLAYS ∧ e.host.flight = s.dev.host.flight ∧ e.host.store = s.dev.host.store) ∧
    (∀ bs, judge at0 q entry = .replay bs → s.dev.rd HST_CQ_CFG_EN cq ≠ 0 →
      Completes (.submissionFetch entry) s ([(HST_CNT_REPLAYS, 0)] ++ shown) [.host] fun e =>
        e.rd HST_CNT_REPLAYS = s.dev.countUp HST_CNT_REPLAYS ∧ e.host.flight = s.dev.host.flight ∧
          e.out = [.hostWrite (hostBase (s.dev.rd HST_CQ_BASE_LO_ADDR cq) (s.dev.rd HST_CQ_BASE_HI_ADDR cq) + 64 * s.dev.rd HST_CQ_STAT_TAIL cq)
            (withFlags (bs.take 8 ++ bytesLE 2 head ++ bs.drop 10) (s.dev.rd HST_CQ_STAT_PHASE cq + 2))]) ∧
    (∀ cls, judge at0 q entry = .admitted cls → indexByte (bodyAt entry 0) entry = none → stewards s.dev = 0 →
      Touches (.submissionFetch entry) s
        [HST_SQ_STAT_HEAD, HST_STATUS_IN_FLIGHT, HST_STATUS_IMM_FLIGHT, HST_SQ_STAT_IN_FLIGHT, HST_CQ_STAT_OWED] [] [.host] ∧
      Answers (.submissionFetch entry) s fun e =>
        e.host.flight = s.dev.host.flight ++ [({
          sq := q, rsn := body32 entry 4, opcode := bodyAt entry 0, cls := cls, crc := crc32c entry
          admitAt := s.dev.frameNo, sqHead := head, cq := some cq, axset := 0xFF, body := entry.drop 16 } : HostCmd)] ∧ e.out = []) ∧
    (∀ cls j, judge at0 q entry = .admitted cls → stewards s.dev = 0 → indexByte (bodyAt entry 0) entry = some 16 →
      classOf (bodyAt entry 0) = some 0 → j = bodyAt entry 16 → (armOf s.dev j).run.isSome = true →
      Answers (.submissionFetch entry) s fun e =>
        (armOf e j).queue = (armOf s.dev j).queue ++ [({
          sq := q, rsn := body32 entry 4, opcode := bodyAt entry 0, body := entry.drop 16, pct := bodyAt entry 18
          limset := bodyAt entry 17 % 16, order := s.dev.pln.order, admitAt := s.dev.tb.ext } : PlanCmd)] ∧
        (inFlight e q (body32 entry 4)).isSome = true))

/-- Device commands that report (R426, R433, R434, R443): each completes with what Tables 14-8 and 14-9 give; CANCEL ends a command that waits in the
Planner's queue or whose work has not begun, and no other. Choices of the model in it: log entries 6 and 70. -/
def Obligations.ReportingCommands : Prop :=
  (∀ (s : State) (sq : Fin 17) (rsn : Word32) (c : HostCmd), s.dev.owes sq rsn.toNat 0x02 c →
    Touches (.getStatus sq rsn) s flightFields [] [.host] ∧
    Answers (.getStatus sq rsn) s fun e => s.dev.completed e c { query := statusData s.dev }) ∧
  (∀ (s : State) (sq : Fin 17) (rsn : Word32) (c : HostCmd), s.dev.owes sq rsn.toNat 0x03 c →
    Touches (.getTopology sq rsn) s flightFields [] [.host] ∧
    Answers (.getTopology sq rsn) s fun e =>
      .hostWrite (body64 c.body 8) (Lane.all.flatMap fun l => (List.range 48).flatMap (topologyEntry s.dev l)) ∈ e.out ∧
      s.dev.completed e c {
        query := (Lane.all.flatMap fun l => bytesLE 1 (s.dev.rd ENT_SCHED_N l.idx)) ++ bytesLE 1 0 ++
          bytesLE 2 (s.dev.rd ENT_SCHED_SCHED_ID 0) ++ List.replicate 42 0 }) ∧
  (∀ (s : State) (sq : Fin 17) (rsn : Word32) (c : HostCmd), s.dev.owes sq rsn.toNat 0x04 c →
    let xs := (s.dev.log.recs.filter fun r => decide (0 ≤ seqDiff r.seq (body32 c.body 4))).take (body16 c.body 8)
    Touches (.readLog sq rsn) s flightFields [] [.host] ∧
    Answers (.readLog sq rsn) s fun e =>
      (∀ i r, xs[i]? = some r → .hostWrite (body64 c.body 0x10 + 32 * i) (recordBytes r) ∈ e.out) ∧
      s.dev.completed e c {
        data := bytesLE 4 (logOldest s.dev.log) ++ bytesLE 4 s.dev.log.seq ++ bytesLE 4 (s.dev.rd CRI_LOG_OVW_CNT) ++
          bytesLE 2 xs.length }) ∧
  (∀ (s : State) (sq : Fin 17) (rsn : Word32) (c : HostCmd), s.dev.owes sq rsn.toNat 0x01 c →
    inFlight s.dev (bodyAt c.body 0) (body32 c.body 4) = none →
    Touches (.cancel sq rsn) s flightFields [] [.host] ∧
    Answers (.cancel sq rsn) s fun e => s.dev.completed e c { result := 2 }) ∧
  (∀ (s : State) (sq : Fin 17) (rsn : Word32) (c t : HostCmd), s.dev.owes sq rsn.toNat 0x01 c →
    inFlight s.dev (bodyAt c.body 0) (body32 c.body 4) = some t → cancelPlan s.dev (bodyAt c.body 0) (body32 c.body 4) = none →
    t.cls = 0 ∨ t.begun = true ∨ t.own = false ∨ (bodyAt c.body 0 = sq ∧ body32 c.body 4 = rsn.toNat) →
    Touches (.cancel sq rsn) s flightFields [] [.host] ∧
    Answers (.cancel sq rsn) s fun e => s.dev.completed e c { result := 1 }) ∧
  (∀ (s : State) (sq : Fin 17) (rsn : Word32) (c t : HostCmd), s.dev.owes sq rsn.toNat 0x01 c →
    inFlight s.dev (bodyAt c.body 0) (body32 c.body 4) = some t → cancelPlan s.dev (bodyAt c.body 0) (body32 c.body 4) = none →
    t.cls ≠ 0 → t.begun = false → t.own = true → t.parts = [] → t.answer = none → ¬ (bodyAt c.body 0 = sq ∧ body32 c.body 4 = rsn.toNat) →
    Touches (.cancel sq rsn) s flightFields [] [.host] ∧
    Answers (.cancel sq rsn) s fun e => s.dev.completed e t { status := 2, result := 0x11 } ∧ inFlight e sq rsn.toNat = none) ∧
  (∀ (s : State) (sq : Fin 17) (rsn : Word32) (c t : HostCmd) (a : Nat), s.dev.owes sq rsn.toNat 0x01 c →
    inFlight s.dev (bodyAt c.body 0) (body32 c.body 4) = some t → t.parts = [] →
    (List.range 36).find? (fun a => (armOf s.dev a).queue.any fun x => decide (x.sq = bodyAt c.body 0 ∧ x.rsn = body32 c.body 4)) = some a →
    Answers (.cancel sq rsn) s fun e => inFlight e (bodyAt c.body 0) (body32 c.body 4) = none ∧
      ∀ x ∈ (armOf e a).queue, ¬ (x.sq = bodyAt c.body 0 ∧ x.rsn = body32 c.body 4)) ∧
  (∀ (s : State) (sq : Fin 17) (rsn : Word32), flightOp s.dev sq rsn.toNat 0x01 = none →
    Completes (.cancel sq rsn) s [] [] fun e => e.out = []) ∧
  (∀ (s : State) (sq : Fin 17) (rsn : Word32), flightOp s.dev sq rsn.toNat 0x02 = none →
    Completes (.getStatus sq rsn) s [] [] fun e => e.out = []) ∧
  (∀ (s : State) (sq : Fin 17) (rsn : Word32), flightOp s.dev sq rsn.toNat 0x03 = none →
    Completes (.getTopology sq rsn) s [] [] fun e => e.out = []) ∧
  (∀ (s : State) (sq : Fin 17) (rsn : Word32), flightOp s.dev sq rsn.toNat 0x04 = none →
    Completes (.readLog sq rsn) s [] [] fun e => e.out = [])

/-- Device commands that act (R141, R309, R311, R326, R435): motion enable, unit enable, brake test, firmware and package download, device reset.
Choices of the model in it: log entries 38, 39 and 72; entry 3 is each clause where nothing happens because the event cannot occur. -/
def Obligations.ActingCommands : Prop :=
  (∀ (s : State) (sq : Fin 17) (rsn : Word32) (c : HostCmd) (l : Lane), s.dev.owes sq rsn.toNat 0x08 c → l ∈ serviceLanes s.dev →
    bodyAt c.body 0 = 1 →
    Answers (.motionEnable sq rsn) s fun e => (laneOf e l).saf.motionEnable = true ∧ e.grp.withdrawn = false ∧ s.dev.completed e c {} ∧
      e.mode = if s.dev.mode = .standstill then (if (serviceLanes s.dev).length = 3 then .run else .degraded) else s.dev.mode) ∧
  (∀ (s : State) (sq : Fin 17) (rsn : Word32) (c : HostCmd) (l : Lane), s.dev.owes sq rsn.toNat 0x08 c → l ∈ serviceLanes s.dev →
    bodyAt c.body 0 ≠ 1 →
    Answers (.motionEnable sq rsn) s fun e => (laneOf e l).saf.motionEnable = false ∧ e.grp.withdrawn = true ∧ s.dev.completed e c {} ∧
      e.mode = s.dev.mode) ∧
  (∀ (s : State) (sq : Fin 17) (rsn : Word32) (c : HostCmd) (i u : Nat) (l : Lane), s.dev.owes sq rsn.toNat 0x09 c → l ∈ serviceLanes s.dev →
    unitTargets s.dev c.body = [(i, .own u)] → i < 32 → u < 32 → bodyAt c.body 4 = 1 →
    let k := enableRefusal s.dev s.dev.firstLane u true
    Answers (.unitEnable sq rsn) s fun e =>
      s.dev.completed e c { data := (List.range 32).flatMap fun j => bytesLE 1 (if j = i then k else 0xFF) } ∧
      (unitDyn (laneOf e l).saf u).enableReq = (decide (k = 0) || (unitDyn (laneOf s.dev l).saf u).enableReq)) ∧
  (∀ (s : State) (sq : Fin 17) (rsn : Word32) (c : HostCmd) (i u : Nat) (l : Lane), s.dev.owes sq rsn.toNat 0x09 c → l ∈ serviceLanes s.dev →
    unitTargets s.dev c.body = [(i, .own u)] → i < 32 → u < 32 → bodyAt c.body 4 ≠ 1 →
    Answers (.unitEnable sq rsn) s fun e =>
      s.dev.completed e c { data := (List.range 32).flatMap fun j => bytesLE 1 (if j = i then 0 else 0xFF) } ∧
      (unitDyn (laneOf e l).saf u).enableReq = false) ∧
  (∀ (s : State) (sq : Fin 17) (rsn : Word32) (c : HostCmd) (l : Lane), s.dev.owes sq rsn.toNat 0x0A c → l ∈ serviceLanes s.dev →
    Answers (.brakeTest sq rsn) s fun e => s.dev.completed e c {} ∧
      (SMap.get {} (laneOf e l).saf.brakes (bodyAt c.body 0)).fullTest = 1) ∧
  (∀ (s : State) (sq : Fin 17) (rsn : Word32) (c : HostCmd) (img : FwImage) (ok : Bool), s.dev.owes sq rsn.toNat 0x40 c →
    Completes (.fwDownload sq rsn img ok) s [] [.flash, .host] fun e => e.host = { (startCmd s.dev sq rsn.toNat).host with fwComing := some (img, ok) } ∧
      (if spareFw s.dev = 0 then e.flash.fw0.all (fun y => !y.bootable) ∧ e.flash.fw1 = s.dev.flash.fw1
        else e.flash.fw1.all (fun y => !y.bootable) ∧ e.flash.fw0 = s.dev.flash.fw0)) ∧
  (∀ (s : State) (c : HostCmd) (img : FwImage) (bad : Bool), flightFirst s.dev 0x40 = some c → c.parts = [] → c.answer = none →
    inFlight s.dev c.sq c.rsn = some c → s.dev.host.fwComing = some (img, false) →
    Answers (.fwDownloadWritten bad) s fun e => s.dev.completed e c { status := 3, result := 1 } ∧ e.flash = s.dev.flash ∧
      e.host.fwComing = none) ∧
  (∀ (s : State) (c : HostCmd) (img : FwImage), flightFirst s.dev 0x40 = some c → c.parts = [] → c.answer = none →
    inFlight s.dev c.sq c.rsn = some c → s.dev.host.fwComing = some (img, true) →
    Answers (.fwDownloadWritten true) s (fun e => s.dev.completed e c { status := 3, result := 2 }) ∧
    Answers (.fwDownloadWritten false) s fun e => s.dev.completed e c {} ∧ e.host.fwLoaded = some (spareFw s.dev) ∧
      (if spareFw s.dev = 0 then e.flash.fw0 else e.flash.fw1) = some { image := img }) ∧
  (∀ (s : State) (bad : Bool), s.dev.host.fwComing = none → Completes (.fwDownloadWritten bad) s [] [] fun e => e.out = []) ∧
  (∀ (s : State) (sq : Fin 17) (rsn : Word32) (c : HostCmd), s.dev.owes sq rsn.toNat 0x41 c →
    Completes (.fwActivate sq rsn) s [] [.host] fun e => e.host = { (startCmd s.dev sq rsn.toNat).host with fwVerify := true }) ∧
  (∀ (s : State) (c : HostCmd) (slot : Nat) (y : FwSlot), s.dev.host.fwVerify = true → flightFirst s.dev 0x41 = some c → c.parts = [] →
    c.answer = none → inFlight s.dev c.sq c.rsn = some c → s.dev.host.fwLoaded = some slot →
    (if slot = 0 then s.dev.flash.fw0 else s.dev.flash.fw1) = some y →
    Answers .fwActivateVerified s fun e => e.host.fwVerify = false ∧
      if firmwareSigned y.image then
        s.dev.completed e c {} ∧ (if slot = 0 then e.flash.fw0 else e.flash.fw1) = some { y with bootable := true }
      else s.dev.completed e c { status := 3, result := 1 } ∧ e.flash = s.dev.flash) ∧
  (∀ s : State, s.dev.host.fwVerify = false → Completes .fwActivateVerified s [] [] fun e => e.out = []) ∧
  (∀ (s : State) (sq : Fin 17) (rsn : Word32) (c : HostCmd) (p : Package) (ok : Bool), s.dev.owes sq rsn.toNat 0x42 c →
    Completes (.pkgDownload sq rsn p ok) s [(SAF_PKG_STAT_STATE, 0)] [.pkg, .host] fun e => e.rd SAF_PKG_STAT_STATE = 1 ∧
      e.pkg.checking = some p ∧ e.host = { (startCmd s.dev sq rsn.toNat).host with pkgCrcOk := ok }) ∧
  (∀ (s : State) (p : Package) (c : HostCmd), s.dev.pkg.checking = some p → flightFirst s.dev 0x42 = some c → c.parts = [] →
    c.answer = none → inFlight s.dev c.sq c.rsn = some c → s.dev.rd PWR_STATUS_SHARED_UP ≠ 0 →
    (s.dev.host.pkgCrcOk = false → Answers .pkgCheckDone s fun e => e.rd SAF_PKG_STAT_STATE = 4 ∧ e.rd SAF_PKG_STAT_RESULT = 0x10 ∧
      e.logged .PKG_RESULT srcSafety 0 0x10 ∧ s.dev.completed e c { result := 0x10 } ∧ e.flash = s.dev.flash) ∧
    (s.dev.host.pkgCrcOk = true → ∀ r, packageResult s.dev p = r → r ≠ .pending →
      Answers .pkgCheckDone s fun e => e.rd SAF_PKG_STAT_RESULT = pkgCode r % 2 ^ SAF_PKG_STAT_RESULT.width ∧ e.pkg.checking = none ∧
        e.flash = s.dev.flash ∧ e.keys = s.dev.keys ∧ s.dev.completed e c { result := pkgCode r }) ∧
    (s.dev.host.pkgCrcOk = true → packageResult s.dev p = .pending →
      Answers .pkgCheckDone s fun e => e.rd SAF_PKG_STAT_STATE = 2 ∧ e.rd SAF_PKG_PEND_SEQ = p.seq % 2 ^ SAF_PKG_PEND_SEQ.width ∧
        e.pkg.waiting = some p ∧ (e.flash.cfg0 = some p ∨ e.flash.cfg1 = some p) ∧ s.dev.completed e c { result := 0x01 })) ∧
  (∀ s : State, s.dev.pkg.checking = none → Completes .pkgCheckDone s [] [] fun e => e.out = []) ∧
  (∀ (s : State) (sq : Fin 17) (rsn : Word32) (c : HostCmd), s.dev.owes sq rsn.toNat 0x43 c →
    Touches (.deviceReset sq rsn) s flightFields [] [.host] ∧
    Answers (.deviceReset sq rsn) s fun e => s.dev.completed e c {} ∧ e.host.resetDue = some (s.dev.tb.ext + 1000000)) ∧
  (∀ (s : State) (t : Int), s.dev.host.resetDue = some t → s.dev.tb.ext < t → s.dev.tb.ticking = true →
    Completes .deviceResetExecute s [] [] fun e => e.out = []) ∧
  (∀ s : State, s.dev.host.resetDue = none → Completes .deviceResetExecute s [] [] fun e => e.out = [])

/-- Enabling of queues, the event queue, the hint and link resets (R423, R425, R432, R436 to R439). Choices of the model in it: log entries 3, 11, 71,
74; entry 3 is each clause where nothing happens because the event cannot occur. -/
def Obligations.QueuesAndLink : Prop :=
  (∀ (s : State) (m : Master) (q : Fin 16) (r : Bool), s.dev.takes m (0xA108 + 16 * q) (HST_STATUS_BUSY, 0) → s.dev.rd HST_SQ_CFG_EN q = 0 →
    s.dev.rd HST_CQ_CFG_EN (s.dev.rd HST_SQ_CFG_CQ q) ≠ 0 →
    Completes (.sqEnable m q true r) s [(HST_SQ_CFG_EN, q), (HST_SQ_STAT_HEAD, q), (HST_SQ_STAT_Q_ERR, q)] [.host] fun e =>
      e.rd HST_SQ_CFG_EN q = 1 ∧ e.rd HST_SQ_STAT_HEAD q = 0 ∧ e.rd HST_SQ_STAT_Q_ERR q = 0 ∧ SMap.get 0 e.host.tails q = 0 ∧
        SMap.get [] e.host.store q = if r then [] else SMap.get [] s.dev.host.store q) ∧
  (∀ (s : State) (m : Master) (q : Fin 16) (r : Bool), s.dev.takes m (0xA108 + 16 * q) (HST_STATUS_BUSY, 0) → s.dev.rd HST_SQ_CFG_EN q = 0 →
    s.dev.rd HST_CQ_CFG_EN (s.dev.rd HST_SQ_CFG_CQ q) = 0 →
    Completes (.sqEnable m q true r) s ([(SYS_STATUS_BUSY_REJECT, 0), (SYS_ERR_CNT1_BUSY_REJECT_CNT, 0)] ++ errRegs ++ recordRegs srcSystem)
      [.log] fun e => e.rd SYS_STATUS_BUSY_REJECT = 1 ∧ e.logged .BUSY_REJECT srcSystem) ∧
  (∀ (s : State) (m : Master) (q : Fin 16) (r : Bool), s.dev.takes m (0xA108 + 16 * q) (HST_STATUS_BUSY, 0) →
    Completes (.sqEnable m q false r) s [(HST_SQ_CFG_EN, q)] [] fun e => e.rd HST_SQ_CFG_EN q = 0) ∧
  (∀ (s : State) (m : Master) (q : Fin 16), s.dev.takes m (0xA208 + 16 * q) (HST_STATUS_BUSY, 0) → s.dev.rd HST_CQ_CFG_EN q = 0 →
    Completes (.cqEnable m q true) s [(HST_CQ_CFG_EN, q), (HST_CQ_STAT_TAIL, q), (HST_CQ_STAT_PHASE, q), (HST_CQ_STAT_Q_ERR, q)] [.host]
      fun e => e.rd HST_CQ_CFG_EN q = 1 ∧ e.rd HST_CQ_STAT_TAIL q = 0 ∧ e.rd HST_CQ_STAT_PHASE q = 1 ∧ e.rd HST_CQ_STAT_Q_ERR q = 0 ∧
        SMap.get 0 e.host.heads q = 0) ∧
  (∀ (s : State) (m : Master) (q : Fin 16), s.dev.takes m (0xA208 + 16 * q) (HST_STATUS_BUSY, 0) →
    (∃ k, k < 16 ∧ s.dev.rd HST_SQ_CFG_EN k ≠ 0 ∧ s.dev.rd HST_SQ_CFG_CQ k = q.val) ∨ (∃ c ∈ s.dev.host.flight, c.cq = some q.val) →
    Completes (.cqEnable m q false) s ([(SYS_STATUS_BUSY_REJECT, 0), (SYS_ERR_CNT1_BUSY_REJECT_CNT, 0)] ++ errRegs ++ recordRegs srcSystem)
      [.log] fun e => e.rd HST_CQ_CFG_EN q = s.dev.rd HST_CQ_CFG_EN q ∧ e.logged .BUSY_REJECT srcSystem) ∧
  (∀ (s : State) (m : Master) (q : Fin 16), s.dev.takes m (0xA208 + 16 * q) (HST_STATUS_BUSY, 0) →
    (∀ k, k < 16 → s.dev.rd HST_SQ_CFG_EN k = 0 ∨ s.dev.rd HST_SQ_CFG_CQ k ≠ q.val) → (∀ c ∈ s.dev.host.flight, c.cq ≠ some q.val) →
    Completes (.cqEnable m q false) s [(HST_CQ_CFG_EN, q)] [] fun e => e.rd HST_CQ_CFG_EN q = 0) ∧
  (∀ (s : State) (m : Master), s.dev.takes m 0xA028 (HST_STATUS_BUSY, 0) → s.dev.rd HST_EVQ_CFG_EN = 0 →
    Completes (.evqEnable m true) s [(HST_EVQ_CFG_EN, 0), (HST_EVQ_STAT_TAIL, 0)] [.host] fun e => e.rd HST_EVQ_CFG_EN = 1 ∧
      e.rd HST_EVQ_STAT_TAIL = 0 ∧ e.host = { s.dev.host with evHead := 0, evPhase := true }) ∧
  (∀ (s : State) (m : Master), s.dev.takes m 0xA028 (HST_STATUS_BUSY, 0) →
    Completes (.evqEnable m false) s [(HST_EVQ_CFG_EN, 0)] [] fun e => e.rd HST_EVQ_CFG_EN = 0) ∧
  (∀ (s : State) (r : EventRec), s.dev.rd HST_EVQ_CFG_EN ≠ 0 → s.dev.rd HST_STATUS_LINK_UP ≠ 0 → evFull s.dev = false →
    nextRecord s.dev = some r →
    let t := s.dev.rd HST_EVQ_STAT_TAIL
    let gap := (seqDiff r.seq s.dev.host.copied - 1).toNat
    Completes .eventCopy s [(HST_EVQ_STAT_TAIL, 0), (HST_EVQ_STAT_LOST, 0)] [.host] fun e =>
      e.out = [.hostWrite (hostBase (s.dev.rd HST_EVQ_BASE_LO_ADDR) (s.dev.rd HST_EVQ_BASE_HI_ADDR) + 32 * t)
        ((recordBytes r).set 3 (BitVec.ofNat 8 (bitOf s.dev.host.evPhase + 2 * bitOf (decide (0 < gap)))))] ∧
      e.rd HST_EVQ_STAT_TAIL = (if t + 1 = evSize s.dev then 0 else (t + 1) % 2 ^ 16) ∧ e.host.copied = r.seq ∧ e.host.wrote = true ∧
      e.host.evPhase = if t + 1 = evSize s.dev then !s.dev.host.evPhase else s.dev.host.evPhase) ∧
  (∀ s : State, s.dev.rd HST_EVQ_CFG_EN = 0 ∨ s.dev.rd HST_STATUS_LINK_UP = 0 ∨ evFull s.dev = true ∨ nextRecord s.dev = none →
    Completes .eventCopy s [] [] fun e => e.out = []) ∧
  (∀ s : State, s.dev.rd HST_CFG_HINT_EN ≠ 0 → s.dev.host.wrote = true → s.dev.host.lastMsg = none → s.dev.rd HST_STATUS_LINK_UP ≠ 0 →
    Completes (.msixHint true) s [] [.host] fun e => e.out = [.msix] ∧
      e.host = { s.dev.host with wrote := false, lastMsg := some s.dev.tb.ext }) ∧
  (∀ (s : State) (u : Bool) (t : Int), s.dev.rd HST_CFG_HINT_EN = 0 ∨ s.dev.host.wrote = false ∨ u = false ∨
      (s.dev.host.lastMsg = some t ∧ s.dev.tb.ext < t + 1000 * s.dev.rd HST_CFG_HINT_US) →
    Completes (.msixHint u) s [] [] fun e => e.out = []) ∧
  (∀ s : State, s.dev.rd PWR_STATUS_SHARED_UP ≠ 0 →
    Answers .hstLinkDown s fun e => e.rd HST_STATUS_LINK_UP = 0 ∧ (∀ q, e.rd HST_SQ_CFG_EN q = 0 ∧ e.rd HST_CQ_CFG_EN q = 0) ∧
      e.rd HST_EVQ_CFG_EN = 0 ∧ (∀ c ∈ e.host.flight, c.cq = none) ∧ e.host.flight.length = s.dev.host.flight.length ∧
      e.logged .HST_LINK_DOWN srcHost ∧
      ∀ f i, isHst f = false → (f, i) ∉ recordRegs srcHost → e.rd f i = s.dev.rd f i) ∧
  (∀ s : State, s.dev.rd HST_STATUS_LINK_UP = 0 → s.dev.rd PWR_STATUS_SHARED_UP ≠ 0 →
    Completes .hstLinkUp s ([(HST_STATUS_LINK_UP, 0)] ++ recordRegs srcHost) [.log] fun e => e.rd HST_STATUS_LINK_UP = 1 ∧
      e.logged .HST_LINK_UP srcHost) ∧
  (∀ s : State, s.dev.rd HST_STATUS_LINK_UP ≠ 0 → Completes .hstLinkUp s [] [] fun e => e.out = [])

/-! Power, resets, clocks and the debug port (chapter 17). -/

/-- Supplies and converters (R128, R486, R488 to R490): the supervisor starts with the first input and stops with the last; a converter starts, comes
into regulation and stops; the last to stop resets the device; a supply warning and a supply reset are flagged, counted and logged. Choices of the
model in it: log entries 3, 86; entry 3 is each clause where nothing happens because the event cannot occur. -/
def Obligations.SuppliesAndConverters : Prop :=
  (∀ (s : State) (p : PerLane Bool) (l : Lane), s.dev.pwr.active = false → p.get l = true →
    Answers (.supervisorPowerOn p) s fun e => e.pwr.active = true ∧ e.pwr.unwritten = [(1, 0)] ∧ e.rd PWR_RSTLOG_CAUSE = 1 ∧
      e.rd PWR_RSTLOG_SCOPE = 0 ∧ ∀ m : Lane, e.rd PWR_SUP_STAT_PRESENT m.idx = bitOf (p.get m)) ∧
  (∀ (s : State) (p : PerLane Bool), s.dev.pwr.active = true ∨ (∀ l, p.get l = false) →
    Completes (.supervisorPowerOn p) s [] [] fun e => e.out = []) ∧
  (∀ s : State, Answers .supervisorPowerLoss s fun e =>
    (∀ f i, e.rd f i = if f = SYS_BOOT_COUNT_N then s.dev.rd f i else f.reset i) ∧ e.pwr = {} ∧ e.flash = s.dev.flash ∧ e.keys = s.dev.keys ∧
      e.safe ∧ e.log = {}) ∧
  (∀ (s : State) (l : Lane), s.dev.pwr.active = true → s.dev.rd PWR_SUP_STAT_CONV_RUN l.idx = 0 → s.dev.rd PWR_SUP_STAT_CONV_FAULT l.idx = 0 →
    Completes (.converterStart l) s [(PWR_SUP_STAT_CONV_RUN, l.idx), (PWR_SUP_STAT_PRESENT, l.idx), (PWR_SUP_STAT_IN_RESET, l.idx)] [.pwr]
      fun e => e.rd PWR_SUP_STAT_CONV_RUN l.idx = 1 ∧ e.rd PWR_SUP_STAT_IN_RESET l.idx = 0 ∧ 4 ∉ heldBy e l.idx) ∧
  (∀ (s : State) (l : Lane), s.dev.pwr.active = false ∨ s.dev.rd PWR_SUP_STAT_CONV_RUN l.idx ≠ 0 ∨ s.dev.rd PWR_SUP_STAT_CONV_FAULT l.idx ≠ 0 →
    Completes (.converterStart l) s [] [] fun e => e.out = []) ∧
  (∀ (s : State) (l : Lane), s.dev.rd PWR_SUP_STAT_CONV_RUN l.idx ≠ 0 →
    Completes (.converterRegulation l) s [(PWR_STATUS_CONV_OK, 0)] [] fun e => convOk e l = true ∧ ∀ m, m ≠ l → convOk e m = convOk s.dev m) ∧
  (∀ (s : State) (l : Lane), s.dev.rd PWR_SUP_STAT_CONV_RUN l.idx = 0 →
    Completes (.converterRegulation l) s [] [] (fun e => e.out = []) ∧ Completes (.converterStop l) s [] [] (fun e => e.out = []) ∧
    Completes (.convFault l) s [] [] (fun e => e.out = [])) ∧
  (∀ (s : State) (l m : Lane), s.dev.rd PWR_SUP_STAT_CONV_RUN l.idx ≠ 0 → m ≠ l → s.dev.rd PWR_SUP_STAT_CONV_RUN m.idx ≠ 0 →
    (Answers (.converterStop l) s fun e => e.rd PWR_SUP_STAT_CONV_RUN l.idx = 0 ∧ convOk e l = false ∧ 4 ∈ heldBy e l.idx ∧
      e.rd PWR_SUP_STAT_CONV_RUN m.idx = s.dev.rd PWR_SUP_STAT_CONV_RUN m.idx) ∧
    (Answers (.convFault l) s fun e => e.rd PWR_SUP_STAT_CONV_RUN l.idx = 0 ∧ convOk e l = false ∧ 5 ∈ heldBy e l.idx ∧
      e.rd PWR_SUP_STAT_CONV_FAULT l.idx = 1 ∧ e.rd PWR_STATUS_CONV_FAULT = 1)) ∧
  (∀ (s : State) (l : Lane), s.dev.rd PWR_SUP_STAT_CONV_RUN l.idx ≠ 0 → (∀ m, m ≠ l → s.dev.rd PWR_SUP_STAT_CONV_RUN m.idx = 0) →
    s.dev.rd PWR_STATUS_SHARED_UP ≠ 0 →
    Answers (.converterStop l) s (fun e => s.dev.resetFrom e 0xC) ∧ Answers (.convFault l) s (fun e => s.dev.resetFrom e 0xC)) ∧
  (∀ (s : State) (l : Lane), s.dev.pwr.active = true → s.dev.rd PWR_SUP_STAT_WARN l.idx = 0 → s.dev.rd PWR_STATUS_SHARED_UP ≠ 0 →
    Completes (.supplyWarn l) s ([(PWR_SUP_STAT_WARN, l.idx), (PWR_SUP_CNT_WARN, l.idx)] ++ recordRegs srcPower) [.lanes, .log] fun e =>
      e.rd PWR_SUP_STAT_WARN l.idx = 1 ∧ e.rd PWR_SUP_CNT_WARN l.idx = s.dev.countUp PWR_SUP_CNT_WARN l.idx ∧
        laneOf e l = { laneOf s.dev l with supplyWarn := true } ∧ (∀ m, m ≠ l → laneOf e m = laneOf s.dev m) ∧
          e.logged .SUPPLY_WARN srcPower l.idx) ∧
  (∀ (s : State) (l : Lane), s.dev.pwr.active = false ∨ s.dev.rd PWR_SUP_STAT_WARN l.idx ≠ 0 →
    Completes (.supplyWarn l) s [] [] fun e => e.out = []) ∧
  (∀ (s : State) (l : Lane), s.dev.rd PWR_SUP_STAT_WARN l.idx ≠ 0 → s.dev.rd PWR_STATUS_SHARED_UP ≠ 0 →
    Completes (.supplyOk l) s ([(PWR_SUP_STAT_WARN, l.idx)] ++ recordRegs srcPower) [.lanes, .log] fun e =>
      e.rd PWR_SUP_STAT_WARN l.idx = 0 ∧ laneOf e l = { laneOf s.dev l with supplyWarn := false } ∧ e.logged .SUPPLY_OK srcPower l.idx) ∧
  (∀ (s : State) (l : Lane), s.dev.rd PWR_SUP_STAT_WARN l.idx = 0 → Completes (.supplyOk l) s [] [] fun e => e.out = []) ∧
  (∀ (s : State) (l : Lane), s.dev.pwr.active = true → 4 ∉ heldBy s.dev l.idx → (s.dev.rd PWR_STATUS_LANE_UP).testBit l.idx = true →
    Answers (.supplyReset l) s fun e => e.rd PWR_SUP_STAT_IN_RESET l.idx = 1 ∧
      e.rd PWR_SUP_CNT_RESET l.idx = s.dev.countUp PWR_SUP_CNT_RESET l.idx ∧ 4 ∈ heldBy e l.idx ∧ laneMode e l = .absent ∧
      (e.lanes.get l).safe ∧ (e.rd PWR_STATUS_LANE_UP).testBit l.idx = false ∧ e.rd ENT_STAT_BYPASS_CLOSED l.idx ≠ 0 ∧
      e.rd PWR_RSTLOG_CAUSE = 4 ∧ e.rd PWR_RSTLOG_SCOPE = 1 + l.idx) ∧
  (∀ (s : State) (l : Lane), s.dev.pwr.active = false ∨ 4 ∈ heldBy s.dev l.idx → Completes (.supplyReset l) s [] [] fun e => e.out = []) ∧
  (∀ (s : State) (l : Lane), s.dev.pwr.active = true →
    Completes (.supplyResetRelease l) s [(PWR_SUP_STAT_IN_RESET, l.idx)] [.pwr] fun e => e.rd PWR_SUP_STAT_IN_RESET l.idx = 0 ∧
      heldBy e l.idx = (heldBy s.dev l.idx).filter fun c => decide (c ≠ 4))

/-- Resets and their release (R435, R489, R491 to R493, Table 17-13): what a device reset leaves, when the shared blocks and a lane leave reset, and
the clearing of the history. Choices of the model in it: log entries 3, 73, 85 and 132; entry 3 is each clause where nothing happens because the event
cannot occur. -/
def Obligations.ResetsAndReleases : Prop :=
  (∀ s : State, s.dev.pwr.active = true → Answers .resetNAssert s fun e => s.dev.resetFrom e 2 ∧ e.rd PWR_STATUS_RESET_N = 0 ∧
    e.rd PWR_RST_CNT0_RESET_PIN = s.dev.countUp PWR_RST_CNT0_RESET_PIN) ∧
  (∀ s : State, s.dev.pwr.active = false → Completes .resetNAssert s [] [] fun e => e.out = []) ∧
  (∀ (s : State) (t : Int), s.dev.host.resetDue = some t → t ≤ s.dev.tb.ext ∨ s.dev.tb.ticking = false →
    Answers .deviceResetExecute s fun e => s.dev.resetFrom e 3) ∧
  (∀ (s : State) (l : Lane), s.dev.pwr.active = true → s.dev.rd PWR_STATUS_SHARED_UP = 0 → convOk s.dev l = true → heldBy s.dev 3 = [] →
    Touches .deviceResetRelease s ([PWR_STATUS_SHARED_UP, PWR_STATUS_RESET_N, PWR_CLK_STAT_IN_WINDOW, SYS_BOOT_COUNT_N, PWR_UPTIME_LO_MS,
      PWR_UPTIME_HI_MS] ++ recordFields) [] [.pwr, .log] ∧
    Answers .deviceResetRelease s fun e => e.rd PWR_STATUS_SHARED_UP = 1 ∧ e.rd PWR_STATUS_RESET_N = 1 ∧
      e.rd SYS_BOOT_COUNT_N = (s.dev.rd SYS_BOOT_COUNT_N + 1) % 2 ^ 32 ∧ e.rd PWR_UPTIME_LO_MS = 0 ∧ e.rd PWR_UPTIME_HI_MS = 0 ∧
      e.pwr = { s.dev.pwr with unwritten := [] } ∧
      ∀ r, s.dev.pwr.unwritten.getLast? = some r → e.logged .RESET srcPower 0 ((r.1 + 256 * r.2) % 2 ^ 80)) ∧
  (∀ s : State, s.dev.pwr.active = false ∨ s.dev.rd PWR_STATUS_SHARED_UP ≠ 0 ∨ (∀ l, convOk s.dev l = false) ∨ heldBy s.dev 3 ≠ [] →
    Completes .deviceResetRelease s [] [] fun e => e.out = []) ∧
  (∀ (s : State) (l : Lane), s.dev.rd PWR_STATUS_SHARED_UP ≠ 0 → convOk s.dev l = true → heldBy s.dev l.idx = [] → laneMode s.dev l = .absent →
    Touches (.laneResetRelease l) s [LN_STATUS_IN_VOTE, SAF_SAFE_OK_LEVEL, SAF_BRK_STAT_GATE]
      [(PWR_STATUS_LANE_UP, 0), (PWR_CLK_STAT_IN_WINDOW, 0), (LN_STATUS_STATE, l.idx), (ADC_REF_EN, 0)] [.lanes] ∧
    Answers (.laneResetRelease l) s fun e => laneMode e l = .boot ∧ (e.lanes.get l).safe ∧ (e.rd PWR_STATUS_LANE_UP).testBit l.idx = true ∧
      (laneOf e l).faultTimes = (laneOf s.dev l).faultTimes ∧ (laneOf e l).bootDone = false ∧ e.rd ADC_REF_EN = 1 ∧
      (laneOf e l).supplyWarn = decide (s.dev.rd PWR_SUP_STAT_WARN l.idx ≠ 0)) ∧
  (∀ (s : State) (l : Lane), s.dev.rd PWR_STATUS_SHARED_UP = 0 ∨ convOk s.dev l = false ∨ heldBy s.dev l.idx ≠ [] ∨ laneMode s.dev l ≠ .absent →
    Completes (.laneResetRelease l) s [] [] fun e => e.out = []) ∧
  (∀ s : State, Completes .trstNAssert s [] [.pwr] fun e => e.pwr = { s.dev.pwr with tap := .idcode }) ∧
  (∀ (s : State) (m : Master), s.dev.takes m 0xC038 (PWR_STATUS_BUSY, 0) →
    Touches (.clrLog m) s [PWR_RSTLOG_CAUSE, PWR_RSTLOG_SCOPE, PWR_RSTLOG_UPTIME_S] [] [.pwr] ∧
    Answers (.clrLog m) s fun e => e.pwr = { s.dev.pwr with unwritten := [] } ∧
      ∀ k, k < 16 → e.rd PWR_RSTLOG_CAUSE k = 0 ∧ e.rd PWR_RSTLOG_SCOPE k = 0 ∧ e.rd PWR_RSTLOG_UPTIME_S k = 0)

/-- Clocks, temperatures and measurements (R486, R495 to R499, Tables 17-3 and 17-5): a lost clock resets its scope, the reference clock of PCIe
nothing; a clock that is back releases it; the RC oscillator's fault stops the supervisor's measurements; a sensor at its limit resets. Choices of the
model in it: log entries 3, 87 and 132; entry 3 is each clause where nothing happens because the event cannot occur. -/
def Obligations.ClocksAndTemperatures : Prop :=
  (∀ (s : State) (k : Fin 13) (b : Bool) (l : Lane), s.dev.pwr.active = true → s.dev.pwr.rcStopped = false → k.val ∉ s.dev.pwr.clkBad →
    laneOfDomain k = some l → (s.dev.rd PWR_STATUS_LANE_UP).testBit l.idx = true → 6 ∉ heldBy s.dev l.idx →
    Answers (.clkFault k b) s fun e => e.rd PWR_STATUS_CLK_FAULT = 1 ∧ e.rd PWR_CLK_CNT_FAULTS = s.dev.countUp PWR_CLK_CNT_FAULTS ∧
      k.val ∈ e.pwr.clkBad ∧ 6 ∈ heldBy e l.idx ∧ laneMode e l = .absent ∧ (e.lanes.get l).safe ∧ e.rd PWR_RSTLOG_CAUSE = 6) ∧
  (∀ (s : State) (k : Fin 13) (b : Bool), s.dev.pwr.active = true → s.dev.pwr.rcStopped = false → k.val ∉ s.dev.pwr.clkBad →
    sharedDomain k = true → 7 ∉ heldBy s.dev 3 →
    Answers (.clkFault k b) s fun e => e.rd PWR_STATUS_CLK_FAULT = 1 ∧ e.rd PWR_STATUS_SHARED_UP = 0 ∧ e.tb.ticking = false ∧
      7 ∈ heldBy e 3 ∧ e.rd PWR_RST_CNT1_SHARED = s.dev.countUp PWR_RST_CNT1_SHARED ∧ e.rd PWR_RSTLOG_CAUSE = 7 ∧ e.rd PWR_RSTLOG_SCOPE = 4) ∧
  (∀ (s : State) (b : Bool), s.dev.pwr.active = true → s.dev.pwr.rcStopped = false → 9 ∉ s.dev.pwr.clkBad →
    s.dev.rd PWR_STATUS_SHARED_UP ≠ 0 →
    Completes (.clkFault 9 b) s ([(PWR_STATUS_CLK_FAULT, 0), (PWR_CLK_CNT_FAULTS, 0), (PWR_CLK_STAT_REFCLK, 0)] ++ recordRegs srcPower)
      [.pwr, .log] fun e => e.rd PWR_CLK_STAT_REFCLK = 0 ∧ e.logged .CLK_FAULT srcPower 9 ∧
        e.pwr = { s.dev.pwr with clkBad := s.dev.pwr.clkBad ++ [9] }) ∧
  (∀ (s : State) (k : Fin 13) (b : Bool), s.dev.pwr.active = false ∨ s.dev.pwr.rcStopped = true ∨ k.val ∈ s.dev.pwr.clkBad →
    Completes (.clkFault k b) s [] [] fun e => e.out = []) ∧
  (∀ (s : State) (k : Fin 13) (l : Lane), s.dev.pwr.active = true → s.dev.pwr.rcStopped = false → k.val ∈ s.dev.pwr.clkBad →
    laneOfDomain k = some l → (∀ j ∈ s.dev.pwr.clkBad, j ≠ k.val → laneOfDomain j ≠ some l) → s.dev.rd PWR_STATUS_SHARED_UP ≠ 0 →
    Completes (.clkOk k) s ([(PWR_CLK_STAT_IN_WINDOW, 0)] ++ recordRegs srcPower) [.pwr, .log] fun e =>
      6 ∉ heldBy e l.idx ∧ k.val ∉ e.pwr.clkBad ∧ e.logged .CLK_OK srcPower k) ∧
  (∀ (s : State) (k : Fin 13), s.dev.pwr.active = true → s.dev.pwr.rcStopped = false → k.val ∈ s.dev.pwr.clkBad → sharedDomain k = true →
    (∀ j ∈ s.dev.pwr.clkBad, j ≠ k.val → sharedDomain j = false) → heldBy s.dev 3 = [7] →
    Answers (.clkOk k) s fun e => s.dev.resetFrom e 7 ∧ heldBy e 3 = []) ∧
  (∀ (s : State) (k : Fin 13), s.dev.pwr.active = false ∨ s.dev.pwr.rcStopped = true ∨ k.val ∉ s.dev.pwr.clkBad → Completes (.clkOk k) s [] [] fun e => e.out = []) ∧
  (∀ s : State, s.dev.pwr.active = true → s.dev.pwr.rcStopped = false → s.dev.rd PWR_STATUS_SHARED_UP ≠ 0 →
    Completes .rcFault s ([(PWR_CLK_STAT_RC_FAULT, 0), (PWR_CLK_CNT_FAULTS, 0)] ++ recordRegs srcPower) [.pwr, .log] fun e =>
      e.rd PWR_CLK_STAT_RC_FAULT = 1 ∧ e.pwr = { s.dev.pwr with rcStopped := true } ∧ e.logged .CLK_FAULT srcPower 12) ∧
  (∀ s : State, s.dev.pwr.active = false ∨ s.dev.pwr.rcStopped = true → Completes .rcFault s [] [] fun e => e.out = []) ∧
  (∀ (s : State) (t : Fin 16), s.dev.pwr.active = true → s.dev.pwr.warm = false → s.dev.rd PWR_STATUS_SHARED_UP ≠ 0 →
    Completes (.tempWarn t) s ([(PWR_STATUS_TEMP_WARN, 0)] ++ recordRegs srcPower) [.pwr, .log] fun e => e.rd PWR_STATUS_TEMP_WARN = 1 ∧
      e.pwr = { s.dev.pwr with warm := true } ∧ e.logged .TEMP_WARN srcPower t) ∧
  (∀ (s : State) (t : Fin 16), s.dev.pwr.active = false ∨ s.dev.pwr.warm = true → Completes (.tempWarn t) s [] [] fun e => e.out = []) ∧
  (∀ (s : State) (t : Fin 16) (l : Lane), s.dev.pwr.active = true → t.val ∉ s.dev.pwr.hot → laneOfSensor t = some l →
    8 ∉ heldBy s.dev l.idx → (s.dev.rd PWR_STATUS_LANE_UP).testBit l.idx = true →
    Answers (.tempLimit t) s fun e => e.rd PWR_STATUS_TEMP_LIMIT = 1 ∧ t.val ∈ e.pwr.hot ∧ 8 ∈ heldBy e l.idx ∧ laneMode e l = .absent ∧
      (e.lanes.get l).safe ∧ e.rd PWR_RSTLOG_CAUSE = 8) ∧
  (∀ (s : State) (t : Fin 16), s.dev.pwr.active = true → t.val ∉ s.dev.pwr.hot → laneOfSensor t = none → 9 ∉ heldBy s.dev 3 →
    Answers (.tempLimit t) s fun e => e.rd PWR_STATUS_TEMP_LIMIT = 1 ∧ e.rd PWR_STATUS_SHARED_UP = 0 ∧ e.tb.ticking = false ∧ 9 ∈ heldBy e 3) ∧
  (∀ (s : State) (t : Fin 16), s.dev.pwr.active = false ∨ t.val ∈ s.dev.pwr.hot → Completes (.tempLimit t) s [] [] fun e => e.out = []) ∧
  (∀ (s : State) (m : Measurement) (l : Lane), s.dev.pwr.active = true → s.dev.pwr.rcStopped = false → 9 ∉ heldBy s.dev 3 →
    Answers (.supervisorMeasurement m) s fun e => e.rd PWR_SUP_VIN_MV l.idx = min (m.vin.get l) 0xFFFF ∧
      e.rd PWR_SUP_STAT_PRESENT l.idx = bitOf (decide (1800 ≤ min (m.vin.get l) 0xFFFF)) ∧
      e.rd PWR_POWER_MW = min m.powerMw (2 ^ PWR_POWER_MW.width - 1) ∧ e.rd PWR_RAIL_MV = min m.railMv (2 ^ PWR_RAIL_MV.width - 1) ∧
      (∀ t v, t < 16 → m.temps[t]? = some v → e.rdI PWR_TEMP_T t = saturate 16 v) ∧
      (s.dev.rd PWR_STATUS_SHARED_UP ≠ 0 →
        e.rd PWR_UPTIME_LO_MS = (s.dev.rd PWR_UPTIME_LO_MS + 2 ^ 32 * s.dev.rd PWR_UPTIME_HI_MS + 1) % 2 ^ 32)) ∧
  (∀ (s : State) (m : Measurement), s.dev.pwr.active = false ∨ s.dev.pwr.rcStopped = true →
    Completes (.supervisorMeasurement m) s [] [] fun e => e.out = [])

/-- The debug port (R503, R504): a challenge shifts out the serial number and a nonce; the right response to it, in time, unlocks the port, and then a
lane; any other counts as a failure, and the third locks the port out; a port disabled by the one-time-programmable cell stays locked. The nonce is a
free value. Choices of the model in it: log entries 3, 6, 7 and 84; entry 3 is each clause where nothing happens because the event cannot occur. -/
def Obligations.DebugUnlock : Prop :=
  (∀ s : State, s.dev.pwr.active = true → s.dev.rd PWR_DBG_STAT_LOCKOUT = 0 → s.dev.rd PWR_OTP_STAT_DBG_DISABLE = 0 →
    Completes .challenge s [] [.pwr, .free] fun e => ∃ n : Nat, n < 2 ^ 128 ∧
      e.pwr = { s.dev.pwr with tap := .challenge, challenge := some (BitVec.ofNat 128 n) } ∧
      e.out = [.tapOut 192 (Config.serialNumber.toNat + 2 ^ 64 * n)]) ∧
  (∀ s : State, s.dev.pwr.active = true → s.dev.rd PWR_DBG_STAT_LOCKOUT = 0 → s.dev.rd PWR_OTP_STAT_DBG_DISABLE ≠ 0 →
    Completes .challenge s [] [.pwr] fun e => e.pwr.challenge = s.dev.pwr.challenge ∧ e.out = [.tapOut 192 0]) ∧
  (∀ (s : State) (sc : DebugScope) (v : BitVec 128) (late : Bool), s.dev.pwr.active = false ∨ s.dev.rd PWR_DBG_STAT_LOCKOUT ≠ 0 →
    Completes .challenge s [] [] (fun e => e.out = []) ∧ Completes (.response sc v late) s [] [] (fun e => e.out = [])) ∧
  (∀ (s : State) (n : BitVec 128), s.dev.pwr.active = true → s.dev.rd PWR_DBG_STAT_LOCKOUT = 0 → s.dev.rd PWR_OTP_STAT_DBG_DISABLE = 0 →
    s.dev.pwr.challenge = some n → s.dev.rd PWR_STATUS_SHARED_UP ≠ 0 →
    Completes (.response .port (debugResponse .port n) false) s ([(PWR_DBG_STAT_UNLOCKED, 0)] ++ recordRegs srcPower)
      [.pwr, .log] fun e => e.rd PWR_DBG_STAT_UNLOCKED = 1 ∧ e.logged .DBG_UNLOCK srcPower 0) ∧
  (∀ (s : State) (n : BitVec 128) (l : Lane), s.dev.pwr.active = true → s.dev.rd PWR_DBG_STAT_LOCKOUT = 0 →
    s.dev.rd PWR_OTP_STAT_DBG_DISABLE = 0 → s.dev.pwr.challenge = some n → s.dev.rd PWR_STATUS_SHARED_UP ≠ 0 →
    s.dev.rd PWR_DBG_STAT_UNLOCKED ≠ 0 →
    Completes (.response (.lane l) (debugResponse (.lane l) n) false) s
      ([(PWR_DBG_STAT_LANE_AUTH, 0)] ++ recordRegs srcPower) [.pwr, .log] fun e =>
        (e.rd PWR_DBG_STAT_LANE_AUTH).testBit l.idx = true ∧ e.logged .DBG_UNLOCK srcPower (1 + l.idx)) ∧
  (∀ (s : State) (sc : DebugScope) (v : BitVec 128) (late : Bool), s.dev.pwr.active = true → s.dev.rd PWR_DBG_STAT_LOCKOUT = 0 →
    s.dev.rd PWR_OTP_STAT_DBG_DISABLE = 0 → s.dev.rd PWR_STATUS_SHARED_UP ≠ 0 →
    late = true ∨ s.dev.pwr.challenge = none ∨ (sc ≠ .port ∧ s.dev.rd PWR_DBG_STAT_UNLOCKED = 0) ∨
      (∃ n, s.dev.pwr.challenge = some n ∧ v ≠ debugResponse sc n) →
    Completes (.response sc v late) s ([(PWR_DBG_STAT_FAILS, 0), (PWR_DBG_STAT_LOCKOUT, 0)] ++ recordRegs srcPower) [.pwr, .log] fun e =>
      e.rd PWR_DBG_STAT_FAILS = s.dev.countUp PWR_DBG_STAT_FAILS ∧
      (s.dev.rd PWR_DBG_STAT_FAILS = 2 → e.rd PWR_DBG_STAT_LOCKOUT = 1 ∧ e.logged .DBG_LOCKOUT srcPower (scopeIx sc)) ∧
      (s.dev.rd PWR_DBG_STAT_FAILS < 2 → e.rd PWR_DBG_STAT_LOCKOUT = 0 ∧ e.logged .DBG_FAIL srcPower (scopeIx sc))) ∧
  (∀ (s : State) (sc : DebugScope) (v : BitVec 128) (late : Bool), s.dev.pwr.active = true → s.dev.rd PWR_DBG_STAT_LOCKOUT = 0 →
    s.dev.rd PWR_OTP_STAT_DBG_DISABLE ≠ 0 → Completes (.response sc v late) s [] [.pwr] fun e => e.pwr = { s.dev.pwr with tap := .response }) ∧
  (∀ s : State, Completes .idcode s [] [.pwr] fun e => e.out = [.tapOut 32 Config.idcode.toNat] ∧ e.pwr = { s.dev.pwr with tap := .idcode }) ∧
  (∀ s : State, Completes .bypass s [] [.pwr] fun e => e.pwr = { s.dev.pwr with tap := .bypass })

/-- A waiting package applies at the boundary of a monitor frame (R105, R325, R327): all lanes in service are staged to switch at this boundary, and
its registers show it; one whose schedule no longer fits is refused; otherwise nothing happens. Choices of the model in it: log entries 3 and 92;
entry 3 is each clause where nothing happens because the event cannot occur. -/
def Obligations.PackageApplies : Prop :=
  (∀ s : State, s.dev.mode = .boot ∨ s.dev.mode = .hold ∨ s.dev.pkg.waiting = none ∨ s.dev.frameNo % 2 ≠ 0 ∨ disabledLong s.dev = false ∨
      (serviceLanes s.dev).length < 2 →
    Completes .packageApply s [] [] fun e => e.out = []) ∧
  (∀ (s : State) (p : Package) (l : Lane), s.dev.mode = .standstill → s.dev.pkg.waiting = some p → s.dev.frameNo % 2 = 0 →
    disabledLong s.dev = true → 2 ≤ (serviceLanes s.dev).length → l ∈ serviceLanes s.dev → s.dev.rd PWR_STATUS_SHARED_UP ≠ 0 →
    p.image.params.schedule ≠ (laneOf s.dev s.dev.firstLane).image.params.schedule → scheduleApplies s.dev p.image.params = false →
    Completes .packageApply s ([(SAF_PKG_PEND_SEQ, 0), (SAF_PKG_STAT_STATE, 0), (SAF_PKG_STAT_RESULT, 0)] ++ recordRegs srcSafety) [.pkg, .log]
      fun e => e.rd SAF_PKG_PEND_SEQ = 0 ∧ e.rd SAF_PKG_STAT_STATE = 4 ∧ e.rd SAF_PKG_STAT_RESULT = 0x17 ∧ e.pkg.waiting = none ∧
        e.logged .PKG_RESULT srcSafety 0 0x17) ∧
  (∀ (s : State) (p : Package) (l : Lane), s.dev.mode = .standstill ∨ s.dev.mode = .run ∨ s.dev.mode = .degraded ∨ s.dev.mode = .safeState →
    s.dev.pkg.waiting = some p → s.dev.frameNo % 2 = 0 → disabledLong s.dev = true → 2 ≤ (serviceLanes s.dev).length →
    l ∈ serviceLanes s.dev → s.dev.rd PWR_STATUS_SHARED_UP ≠ 0 → p.image.params.period = s.dev.rd BLF_CFG_PERIOD →
    p.image.params.schedule = (laneOf s.dev s.dev.firstLane).image.params.schedule → p.image.params.latch = s.dev.rd BLF_LATCH_OFFSET →
    rotates p = false →
    Completes .packageApply s ([(SAF_PKG_APPLIED_SEQ, 0), (SAF_PKG_PEND_SEQ, 0), (SYS_MODE_CFG_SLOT, 0), (SAF_PKG_STAT_STATE, 0),
      (SAF_PKG_STAT_RESULT, 0), (ENT_GUARD_NS, 0), (ENT_GUARD_NS, 1), (ENT_GUARD_NS, 2)] ++ recordRegs srcSafety) [.lanes, .pkg, .log] fun e =>
        (∀ m : Lane, e.rd ENT_GUARD_NS m.idx = p.image.params.guardNs % 2 ^ ENT_GUARD_NS.width) ∧
        (laneOf e l).staging = some p.image ∧ (laneOf e l).switchAt = some s.dev.frameNo ∧ e.pkg.waiting = none ∧
          e.rd SAF_PKG_APPLIED_SEQ = p.seq % 2 ^ 32 ∧ e.rd SAF_PKG_PEND_SEQ = 0 ∧ e.rd SAF_PKG_STAT_STATE = 3 ∧ e.rd SAF_PKG_STAT_RESULT = 0 ∧
          e.logged .PKG_RESULT srcSafety 0 0) ∧
  (∀ (s : State) (p : Package) (l : Lane), s.dev.mode = .standstill → s.dev.pkg.waiting = some p → s.dev.frameNo % 2 = 0 →
    disabledLong s.dev = true → 2 ≤ (serviceLanes s.dev).length → l ∈ serviceLanes s.dev →
    p.image.params.period ≠ s.dev.rd BLF_CFG_PERIOD → scheduleApplies s.dev p.image.params = true →
    Answers .packageApply s fun e => (laneOf e l).switchAt = some s.dev.frameNo ∧ e.periodDue = some p.image.params.period ∧
      ∀ m : Lane, e.rd ENT_START_STATE m.idx = 0 ∧ (ringOf e m).inFlight = none ∧ (ringOf e m).startDue = true)

/-! Local axes (chapter 11). -/

/-- Edges at a feedback port (R334, R336 to R342): in quadrature mode one line's change counts forward along 00, 10, 11, 01 and backward the other
way, INV turns it, and both lines at once are an error and no count; in pulse train mode a rising edge of A counts by DIR_SRC, a gap of MISS teeth
counts MISS + 1, an extra tooth counts nothing and marks the reference. An edge stamped at or before the latch instant enters the latched count. The
index counts once in a direction until Z has been low, and ports that repeat one to one pass it on. Choices of the model in it: log entries 3, 41 and
42; entry 3 is each clause where nothing happens because the event cannot occur. -/
def Obligations.FeedbackEdges : Prop :=
  (∀ (s : State) (k : Fin 16) (a b z : Bool) (t : Int), s.dev.rd FBK_CFG_EN k = 0 ∨ (s.dev.rd FBK_CFG_MODE k ≠ 1 ∧ s.dev.rd FBK_CFG_MODE k ≠ 2) →
    Completes (.fbEdge k a b z t) s [] [] fun e => e.out = []) ∧
  (∀ (s : State) (k : Fin 16) (a b z : Bool) (t : Int), s.dev.rd FBK_CFG_EN k ≠ 0 → s.dev.rd FBK_CFG_MODE k = 1 →
    a ≠ (fbOf s.dev k).a → b ≠ (fbOf s.dev k).b →
    Completes (.fbEdge k a b z t) s
      ([(FBK_STAT_QUAD_ERR, k.val), (FBK_ERR_QUAD_CNT, k.val), (FBK_STAT_CHAN_FAULT, k.val)] ++ recordRegs (srcFeedback k)) [.axes, .log] fun e =>
        s.dev.onlyFb e k ∧ e.rd FBK_STAT_QUAD_ERR k = 1 ∧ e.rd FBK_ERR_QUAD_CNT k = s.dev.countUp FBK_ERR_QUAD_CNT k ∧
        (fbOf e k).y = (fbOf s.dev k).y ∧ (fbOf e k).a = a ∧ (fbOf e k).b = b ∧ (fbOf e k).stepBad = true) ∧
  (∀ (s : State) (k : Fin 16) (a b z : Bool) (t : Int), s.dev.rd FBK_CFG_EN k ≠ 0 → s.dev.rd FBK_CFG_MODE k = 1 →
    (a ≠ (fbOf s.dev k).a ∧ b = (fbOf s.dev k).b) ∨ (a = (fbOf s.dev k).a ∧ b ≠ (fbOf s.dev k).b) →
    let forward := decide (a ≠ (fbOf s.dev k).a) == decide ((fbOf s.dev k).a = (fbOf s.dev k).b)
    let n : Int := if forward == decide (s.dev.rd FBK_CFG_INV k = 0) then 1 else -1
    Touches (.fbEdge k a b z t) s ([STP_STAT_REP_OVF] ++ recordFields)
      [(FBK_CNT_Y, k.val), (FBK_STAT_REF_SEEN, k.val), (FBK_REFPOS_Y, k.val), (FBK_STAT_REF_ERR, k.val), (FBK_ERR_REF_CNT, k.val),
       (FBK_STAT_CHAN_FAULT, k.val)] [.axes, .log] ∧
    Answers (.fbEdge k a b z t) s fun e => (fbOf e k).y = (fbOf s.dev k).y + n ∧ (fbOf e k).edge1 = some (t, n) ∧
      (fbOf e k).edge0 = (fbOf s.dev k).edge1 ∧ (∀ j, j ≠ k.val → fbOf e j = fbOf s.dev j) ∧
      e.rd FBK_CNT_Y k = (if t ≤ 4 * s.dev.axes.latchAt then fieldOf 32 ((fbOf s.dev k).latchedY + n) else s.dev.rd FBK_CNT_Y k) ∧
      (z = true → bitOf a + 2 * bitOf b = s.dev.rd FBK_CFG_Z_AB k → s.dev.rd FBK_CFG_REF_MODE k = 1 →
        ((fbOf s.dev k).indexDone ≠ some forward → e.rd FBK_STAT_REF_SEEN k = 1 ∧
          e.rd FBK_REFPOS_Y k = fieldOf 32 ((fbOf s.dev k).y + n) ∧ (fbOf e k).indexDone = some forward ∧
          (s.dev.rd FBK_STAT_CHAN_FAULT k = 0 → portsDark s.dev = false →
            e.out = ((repeaters s.dev k).filter fun j => s.dev.rd STP_RATIO_NUM j = s.dev.rd STP_RATIO_DEN j).map .refPulse)) ∧
        ((fbOf s.dev k).indexDone = some forward → e.rd FBK_STAT_REF_SEEN k = s.dev.rd FBK_STAT_REF_SEEN k ∧
          e.rd FBK_REFPOS_Y k = s.dev.rd FBK_REFPOS_Y k ∧ e.out = [])) ∧
      (z = false → (fbOf e k).indexDone = none ∧ e.out = [])) ∧
  (∀ (s : State) (k : Fin 16) (b z : Bool) (t : Int), s.dev.rd FBK_CFG_EN k ≠ 0 → s.dev.rd FBK_CFG_MODE k = 2 →
    (fbOf s.dev k).a = false → (fbOf s.dev k).tooth = none →
    let up : Bool := match s.dev.rd FBK_CFG_DIR_SRC k with
      | 0 => true
      | 1 => false
      | _ => b
    let n : Int := if up == decide (s.dev.rd FBK_CFG_INV k = 0) then 1 else -1
    Answers (.fbEdge k true b z t) s fun e => (fbOf e k).y = (fbOf s.dev k).y + n ∧ (fbOf e k).tooth = some t) ∧
  (∀ (s : State) (k : Fin 16) (b z : Bool) (t t0 p : Int), s.dev.rd FBK_CFG_EN k ≠ 0 → s.dev.rd FBK_CFG_MODE k = 2 →
    s.dev.rd FBK_CFG_DIR_SRC k = 0 → s.dev.rd FBK_CFG_INV k = 0 → (fbOf s.dev k).a = false → (fbOf s.dev k).tooth = some t0 →
    (fbOf s.dev k).interval = some p → p ≤ 4000 * (s.dev.rd FBK_EIMAX_US k : Int) →
    let miss : Nat := s.dev.rd FBK_TEETH_MISS k
    (0 < miss → (2 * (miss : Int) + 1) * p ≤ 2 * (t - t0) →
      Answers (.fbEdge k true b z t) s fun e => (fbOf e k).y = (fbOf s.dev k).y + (miss + 1) ∧
        (s.dev.rd FBK_CFG_REF_MODE k = 1 → e.rd FBK_STAT_REF_SEEN k = 1 ∧
          e.rd FBK_REFPOS_Y k = fieldOf 32 ((fbOf s.dev k).y + (miss + 1)))) ∧
    (0 < miss → 2 * (t - t0) < (2 * (miss : Int) + 1) * p →
      Answers (.fbEdge k true b z t) s fun e => (fbOf e k).y = (fbOf s.dev k).y + 1) ∧
    (miss = 0 → 4 * (t - t0) ≤ 3 * p →
      Answers (.fbEdge k true b z t) s fun e => (fbOf e k).y = (fbOf s.dev k).y ∧ (fbOf e k).tooth = some t0 ∧
        (s.dev.rd FBK_CFG_REF_MODE k = 1 → e.rd FBK_STAT_REF_SEEN k = 1)) ∧
    (miss = 0 → 3 * p < 4 * (t - t0) →
      Answers (.fbEdge k true b z t) s fun e => (fbOf e k).y = (fbOf s.dev k).y + 1 ∧ (fbOf e k).tooth = some t)) ∧
  (∀ (s : State) (k : Fin 16) (a b z : Bool) (t : Int), s.dev.rd FBK_CFG_EN k ≠ 0 → s.dev.rd FBK_CFG_MODE k = 2 →
    a = false ∨ (fbOf s.dev k).a = true →
    Completes (.fbEdge k a b z t) s [] [.axes] fun e => e.out = [] ∧ s.dev.onlyFb e k ∧
      fbOf e k = { fbOf s.dev k with a := a, b := b, z := z })

/-- The observer and the serial encoders of a feedback port (R343 to R348, R351): a step predicts and corrects with the count, unless an error of R338
makes it coast; a transfer that does not fit, an idle line low, a missing start bit or a wrong double reading is a bad sample, counted and not VALID;
the first good word is the count, a later one extends it by its change, and a change beyond MAXD is bad. Choices of the model in it: log entries 3, 8,
41 and 120; entry 3 is each clause where nothing happens because the event cannot occur. -/
def Obligations.ObserverAndEncoders : Prop :=
  (∀ (s : State) (k : Fin 16) (i : Fin 320), s.dev.rd FBK_CFG_EN k ≠ 0 → s.dev.rd FBK_CFG_MODE k = 1 ∨ s.dev.rd FBK_CFG_MODE k = 2 →
    let ts := f64OfRatio 125 160000000
    let o := obsPredict ts (fbOf s.dev k).obs
    Completes (.fbObserverStep k i) s ([(FBK_STAT_LOW, k.val)] ++ if i.val = 0 then [(FBK_VEL_V, k.val), (FBK_ACC_A, k.val)] else []) [.axes] fun e => e.out = [] ∧ s.dev.onlyFb e k ∧
      (fbOf e k).y = (fbOf s.dev k).y ∧ (fbOf e k).stepBad = false ∧ e.rd FBK_STAT_LOW k = bitOf (fbOf e k).low ∧
      ((fbOf e k).obs = if (fbOf s.dev k).stepBad then o
        else obsCorrect (obsGains (s.dev.rd FBK_OBS_F_OBS k) ts) ts (fbOf s.dev k).y o) ∧
      (i.val = 0 → e.rd FBK_VEL_V k = f64ToBits32 (reported (fbOf e k)) ∧
        e.rd FBK_ACC_A k = f64ToBits32 (if (fbOf e k).low then f64Zero else (fbOf e k).obs.a))) ∧
  (∀ (s : State) (k : Fin 16) (i : Fin 320), s.dev.rd FBK_CFG_EN k = 0 ∨ (s.dev.rd FBK_CFG_MODE k ≠ 1 ∧ s.dev.rd FBK_CFG_MODE k ≠ 2) →
    Completes (.fbObserverStep k i) s [] [] fun e => e.out = []) ∧
  (∀ (s : State) (k : Fin 16) (h : Bool) (w1 w2 : Nat) (sep : Bool), sampleDue s.dev k 3 = false →
    Completes (.ssiTransferDone k h w1 sep w2) s [] [] fun e => e.out = []) ∧
  (∀ (s : State) (k : Fin 16) (st : Bool) (dl pos crc : Nat) (nE nW : Bool), sampleDue s.dev k 4 = false →
    Completes (.bissCycleDone k st dl pos nE nW crc) s [] [] fun e => e.out = []) ∧
  (∀ (s : State) (k : Fin 16) (h : Bool) (w1 w2 : Nat) (sep : Bool), sampleDue s.dev k 3 = true →
    transferFits s.dev k s.dev.tb.latchNow s.dev.frameNs = false ∨ h = false →
    Completes (.ssiTransferDone k h w1 sep w2) s
      ([(FBK_STAT_SER_ERR, k.val), (FBK_ERR_OTHER_CNT, k.val), (FBK_STAT_VALID, k.val), (FBK_STAT_CHAN_FAULT, k.val)] ++
        recordRegs (srcFeedback k)) [.axes, .log] fun e =>
      s.dev.onlyFb e k ∧ e.rd FBK_STAT_SER_ERR k = 1 ∧ e.rd FBK_STAT_VALID k = 0 ∧
      e.rd FBK_ERR_OTHER_CNT k = s.dev.countUp FBK_ERR_OTHER_CNT k ∧ (fbOf e k).y = (fbOf s.dev k).y ∧
      (fbOf e k).coast = (fbOf s.dev k).coast + 1 ∧ (fbOf e k).sampled = true ∧
      (2 ≤ (fbOf s.dev k).badRun → e.rd FBK_STAT_CHAN_FAULT k ≠ 0)) ∧
  (∀ (s : State) (k : Fin 16) (w1 w2 : Nat) (sep : Bool), sampleDue s.dev k 3 = true →
    transferFits s.dev k s.dev.tb.latchNow s.dev.frameNs = true → s.dev.rd FBK_SER0_DOUBLE k ≠ 0 → sep = true ∨ ssiWord s.dev k w1 ≠ ssiWord s.dev k w2 →
    Answers (.ssiTransferDone k true w1 sep w2) s fun e => e.rd FBK_STAT_SER_ERR k = 1 ∧ e.rd FBK_STAT_VALID k = 0 ∧
      e.rd FBK_ERR_CRC_CNT k = s.dev.countUp FBK_ERR_CRC_CNT k ∧ (fbOf e k).y = (fbOf s.dev k).y) ∧
  (∀ (s : State) (k : Fin 16) (w : Nat), sampleDue s.dev k 3 = true → transferFits s.dev k s.dev.tb.latchNow s.dev.frameNs = true →
    s.dev.rd FBK_SER0_GRAY k = 0 →
    let len := s.dev.rd FBK_SER0_LEN k
    let x := w / 2 ^ s.dev.rd FBK_SER0_TRAIL k % 2 ^ len
    ((fbOf s.dev k).xPrev = none →
      Completes (.ssiTransferDone k true w false w) s
        [(FBK_CNT_Y, k.val), (FBK_VEL_V, k.val), (FBK_ACC_A, k.val), (FBK_STAT_VALID, k.val)] [.axes] fun e =>
        s.dev.onlyFb e k ∧ fieldOf 32 (fbOf e k).y = x % 2 ^ 32 ∧ e.rd FBK_CNT_Y k = x % 2 ^ 32 ∧ (fbOf e k).xPrev = some x ∧
        (fbOf e k).coast = 0 ∧ e.rd FBK_STAT_VALID k = bitOf (s.dev.rd FBK_STAT_CHAN_FAULT k = 0)) ∧
    (∀ x0, (fbOf s.dev k).xPrev = some x0 → len < 32 →
      let step := signedOf len ((x + 2 ^ len - x0 % 2 ^ len) % 2 ^ len)
      (step.natAbs ≤ s.dev.rd FBK_SER2_MAXD k →
        Answers (.ssiTransferDone k true w false w) s fun e => (fbOf e k).y = (fbOf s.dev k).y + step ∧ (fbOf e k).xPrev = some x) ∧
      (s.dev.rd FBK_SER2_MAXD k < step.natAbs →
        Answers (.ssiTransferDone k true w false w) s fun e => (fbOf e k).y = (fbOf s.dev k).y ∧ e.rd FBK_STAT_SER_ERR k = 1 ∧
          e.rd FBK_ERR_OTHER_CNT k = s.dev.countUp FBK_ERR_OTHER_CNT k ∧ (fbOf e k).xPrev = some x0))) ∧
  (∀ (s : State) (k : Fin 16) (dl pos crc : Nat) (nE nW : Bool), sampleDue s.dev k 4 = true →
    Answers (.bissCycleDone k false dl pos nE nW crc) s fun e => e.rd FBK_STAT_SER_ERR k = 1 ∧ e.rd FBK_STAT_VALID k = 0 ∧
      e.rd FBK_STAT_WARN k = 0 ∧
      e.rd FBK_ERR_OTHER_CNT k = s.dev.countUp FBK_ERR_OTHER_CNT k ∧ (fbOf e k).y = (fbOf s.dev k).y) ∧
  (∀ (s : State) (k : Fin 16) (dl pos crc : Nat) (nE nW : Bool), sampleDue s.dev k 4 = true →
    transferFits s.dev k s.dev.tb.latchNow s.dev.frameNs = true →
    let len := s.dev.rd FBK_SER0_LEN k
    let err := s.dev.rd FBK_SER0_ERR_BIT k ≠ 0
    let warn := s.dev.rd FBK_SER0_WARN_BIT k ≠ 0
    let word := (if err then [nE] else []) ++ if warn then [nW] else []
    let bits := word.foldl (fun w b => 2 * w + bitOf b) (pos % 2 ^ len)
    let n := s.dev.rd FBK_SER0_CRC_LEN k
    let crcOk := n = 0 ∨ crc % 2 ^ n + serCrc n (s.dev.rd FBK_SER1_CRC_POLY k) (len + word.length) bits 0 = 2 ^ n - 1
    (crcOk → (err → nE = true) → (fbOf s.dev k).xPrev = none →
      Answers (.bissCycleDone k true dl pos nE nW crc) s fun e => fieldOf 32 (fbOf e k).y = pos % 2 ^ len % 2 ^ 32 ∧
        e.rd FBK_CNT_Y k = pos % 2 ^ len % 2 ^ 32 ∧ e.rd FBK_STAT_VALID k = bitOf (s.dev.rd FBK_STAT_CHAN_FAULT k = 0) ∧
        e.rd FBK_LDLY_NS k = min dl (2 ^ FBK_LDLY_NS.width - 1) ∧ (warn → e.rd FBK_STAT_WARN k = bitOf (nW = false))) ∧
    (¬ crcOk → Answers (.bissCycleDone k true dl pos nE nW crc) s fun e => e.rd FBK_STAT_SER_ERR k = 1 ∧ e.rd FBK_STAT_VALID k = 0 ∧
      e.rd FBK_ERR_CRC_CNT k = s.dev.countUp FBK_ERR_CRC_CNT k ∧ (fbOf e k).y = (fbOf s.dev k).y) ∧
    (crcOk → err → nE = false → Answers (.bissCycleDone k true dl pos nE nW crc) s fun e => e.rd FBK_STAT_SER_ERR k = 1 ∧
      e.rd FBK_STAT_VALID k = 0 ∧ e.rd FBK_ERR_OTHER_CNT k = s.dev.countUp FBK_ERR_OTHER_CNT k ∧ (fbOf e k).y = (fbOf s.dev k).y))

/-- Step/pulse ports (R351, R354 to R358, R363 to R366): a scheduled step moves the position by one in the frame's direction; standby applies its
lines after IDLE_MS; a queued count is issued oldest first, none while the source has a channel fault; RUN is taken only with a timing that fits the
frame and a source and ratio a repeating port may have, and its refusal is flagged and logged; CLR and REARM wait for the next latch instant. Choices
of the model in it: log entries 3, 11, 41, 43 and 120; entry 3 is each clause where nothing happens because the event cannot occur. -/
def Obligations.StepPorts : Prop :=
  (∀ (s : State) (k : Fin 16), s.dev.rd STP_CTRL_RUN k ≠ 0 → (spOf s.dev k).granted = true → s.dev.rd STP_STAT_HELD k = 0 →
    0 < (spOf s.dev k).left → portsDark s.dev = false →
    Completes (.stepPulse k) s [] [.axes] fun e => s.dev.onlySp e k ∧
      e.out = [.step k (spOf s.dev k).up ((spOf s.dev k).up != s.dev.on STP_CFG_DIR_INV k) (!s.dev.on STP_CFG_STEP_POL k)] ∧
      spOf e k = { spOf s.dev k with
        left := (spOf s.dev k).left - 1, moved := (spOf s.dev k).moved + 1, idle := 0,
        s := (spOf s.dev k).s + if (spOf s.dev k).up then 1 else -1 }) ∧
  (∀ (s : State) (k : Fin 16), s.dev.rd STP_CTRL_RUN k = 0 ∨ (spOf s.dev k).granted = false ∨ s.dev.rd STP_STAT_HELD k ≠ 0 ∨
      (spOf s.dev k).left = 0 ∨ portsDark s.dev = true →
    Completes (.stepPulse k) s [] [] fun e => e.out = []) ∧
  (∀ (s : State) (k : Fin 16), s.dev.rd STP_CTRL_RUN k ≠ 0 → s.dev.rd STP_STAT_STANDBY_ON k = 0 → (spOf s.dev k).left = 0 →
    1000000 * s.dev.rd STP_WAKE_IDLE_MS k ≤ (spOf s.dev k).idle * s.dev.frameNs →
    s.dev.rd STP_CFG_STANDBY k = 1 ∨ s.dev.rd STP_CFG_STANDBY k = 2 →
    Completes (.stepStandby k) s [(STP_STAT_STANDBY_ON, k.val)] [] fun e => e.rd STP_STAT_STANDBY_ON k = 1 ∧
      e.out = [.stage k (s.dev.on STP_CFG_EN_POL k) (decide (s.dev.rd STP_CFG_STANDBY k = 2))]) ∧
  (∀ (s : State) (k : Fin 16), s.dev.rd STP_CTRL_RUN k = 0 ∨ s.dev.rd STP_STAT_STANDBY_ON k ≠ 0 ∨ 0 < (spOf s.dev k).left ∨
      (spOf s.dev k).idle * s.dev.frameNs < 1000000 * s.dev.rd STP_WAKE_IDLE_MS k ∨
      (s.dev.rd STP_CFG_STANDBY k ≠ 1 ∧ s.dev.rd STP_CFG_STANDBY k ≠ 2) →
    Completes (.stepStandby k) s [] [] fun e => e.out = []) ∧
  (∀ (s : State) (k : Fin 16) (b : Bool) (q : List Bool), s.dev.rd STP_CTRL_RUN k ≠ 0 → s.dev.rd STP_CFG_MODE k = 2 →
    s.dev.rd FBK_STAT_CHAN_FAULT (s.dev.rd STP_CFG_REP_SRC k) = 0 → s.dev.rd STP_STAT_HELD k = 0 → portsDark s.dev = false →
    (spOf s.dev k).queue = b :: q →
    let p : StpPort := { spOf s.dev k with queue := q, s := (spOf s.dev k).s + if b then 1 else -1 }
    let n := ((spOf s.dev k).phase + (if b then 1 else 3)) % 4
    (s.dev.rd STP_CFG_OUT_FMT k = 0 → Completes (.repOutput k) s [] [.axes] fun e => s.dev.onlySp e k ∧ spOf e k = p ∧
      e.out = [.step k b (b != s.dev.on STP_CFG_DIR_INV k) (!s.dev.on STP_CFG_STEP_POL k)]) ∧
    (s.dev.rd STP_CFG_OUT_FMT k ≠ 0 → Completes (.repOutput k) s [] [.axes] fun e => s.dev.onlySp e k ∧ spOf e k = { p with phase := n } ∧
      e.out = [.quadState k (decide (n = 1 ∨ n = 2)) ((n = 2 ∨ n = 3 : Bool) != s.dev.on STP_CFG_DIR_INV k)])) ∧
  (∀ (s : State) (k : Fin 16), s.dev.rd STP_CTRL_RUN k = 0 ∨ s.dev.rd STP_CFG_MODE k ≠ 2 ∨
      s.dev.rd FBK_STAT_CHAN_FAULT (s.dev.rd STP_CFG_REP_SRC k) ≠ 0 ∨ s.dev.rd STP_STAT_HELD k ≠ 0 ∨ portsDark s.dev = true ∨
      (spOf s.dev k).queue = [] →
    Completes (.repOutput k) s [] [] fun e => e.out = []) ∧
  (∀ (s : State) (m : Master) (k : Fin 16), s.dev.takes m (0x19024 + 128 * k) (STP_STAT_BUSY, k) → s.dev.rd STP_CTRL_RUN k = 0 →
    let src := s.dev.rd STP_CFG_REP_SRC k
    let fits := max (2 * s.dev.rd STP_TIME_STEP_HI k) (s.dev.rd STP_TIME_DIR_SETUP k) + 1 ≤ 10000 * s.dev.periodUnits
    let good := s.dev.rd STP_CFG_MODE k = 0 ∨ (s.dev.rd STP_CFG_MODE k = 1 ∧ fits) ∨
      (s.dev.rd STP_CFG_MODE k = 2 ∧ (fits ∨ s.dev.rd STP_CFG_OUT_FMT k ≠ 0) ∧ s.dev.rd FBK_CFG_EN src ≠ 0 ∧
        (s.dev.rd FBK_CFG_MODE src = 1 ∨ s.dev.rd FBK_CFG_MODE src = 2) ∧ 1 ≤ s.dev.rd STP_RATIO_NUM k ∧
        s.dev.rd STP_RATIO_NUM k ≤ s.dev.rd STP_RATIO_DEN k)
    (good → Completes (.stpRunSet m k true) s [(STP_CTRL_RUN, k.val)] [.axes] fun e => e.out = [] ∧ s.dev.onlySp e k ∧
      e.rd STP_CTRL_RUN k = 1 ∧ spOf e k = { s := (spOf s.dev k).s, sBase := (spOf s.dev k).s, target := (spOf s.dev k).target
                                             vref := (spOf s.dev k).vref, yBase := (fbOf s.dev k).y }) ∧
    (¬ good → Completes (.stpRunSet m k true) s ([(STP_STAT_SP_CFG_REJECT, k.val)] ++ recordRegs (srcStep k)) [.log] fun e =>
      e.out = [] ∧ e.rd STP_STAT_SP_CFG_REJECT k = 1 ∧ e.rd STP_CTRL_RUN k = 0 ∧ e.logged .SP_CFG_REJECT (srcStep k) k) ∧
    Completes (.stpRunSet m k false) s [] [] fun e => e.out = []) ∧
  (∀ (s : State) (m : Master) (k : Fin 16), s.dev.takes m (0x19024 + 128 * k) (STP_STAT_BUSY, k) → s.dev.rd STP_CTRL_RUN k ≠ 0 →
    (Completes (.stpRunSet m k false) s [(STP_CTRL_RUN, k.val)] [.axes] fun e => s.dev.onlySp e k ∧ e.out = [.stage k (s.dev.on STP_CFG_EN_POL k) false] ∧
      e.rd STP_CTRL_RUN k = 0 ∧ spOf e k = { spOf s.dev k with left := 0, granted := false, queue := [] }) ∧
    Completes (.stpRunSet m k true) s [] [] fun e => e.out = []) ∧
  (∀ (s : State) (m : Master) (k : Fin 16), s.dev.takes m (0x19024 + 128 * k) (STP_STAT_BUSY, k) →
    Completes (.rearm m k) s [] [.axes] fun e => e.out = [] ∧ s.dev.onlySp e k ∧ spOf e k = { spOf s.dev k with rearm := true }) ∧
  (∀ (s : State) (m : Master) (k : Fin 16), s.dev.takes m (0x1803C + 256 * k) (FBK_STAT_BUSY, k) →
    Completes (.fbClr m k) s [] [.axes] fun e => e.out = [] ∧ s.dev.onlyFb e k ∧ fbOf e k = { fbOf s.dev k with clr := true })
/-! The signal processors (chapter 12). `smyAt s.dev n i` says that core `n` is in a run within its budget, that the word at its program counter
decodes to `i`, and that no repetition forbids it. -/

/-- Arithmetic of the signal processors (R388 to R391, Table 12-4): with no repetition due, MAC, MSU, MPY, MACD, ADA and SHA write the exact result
limited or wrapped to their accumulator, LDA, ADDA and CLRA theirs; addresses move as Table of R389 says; nothing else of the core changes but SV, the
clocks and the program counter. Choices of the model in it: log entries 49 and 121. -/
def Obligations.SmithyArithmetic : Prop :=
  (∀ (g : AddrGen) (ad : BitVec 5),
    let i := ad.toNat / 8
    let p := SMap.get 0 g.p i
    let q := SMap.get 0 (useAddr g ad).2.p i
    let len : Nat := if g.l = 0 then 4096 else g.l.toNat
    (useAddr g ad).1 = p ∧ (∀ j, j ≠ i → SMap.get 0 (useAddr g ad).2.p j = SMap.get 0 g.p j) ∧
    (useAddr g ad).2 = { g with p := (useAddr g ad).2.p } ∧
    (ad.toNat % 8 = 0 → q = p) ∧ (ad.toNat % 8 = 1 → q = p + 1) ∧ (ad.toNat % 8 = 2 → q = p - 1) ∧ (ad.toNat % 8 = 3 → q = p + g.m0) ∧
    (ad.toNat % 8 = 4 → q = p + g.m1) ∧
    (ad.toNat % 8 = 5 → g.b.toNat ≤ p.toNat → p.toNat < g.b.toNat + len → g.b.toNat + len ≤ 4096 →
      q.toNat = if p.toNat + 1 = g.b.toNat + len then g.b.toNat else p.toNat + 1) ∧
    (ad.toNat % 8 = 6 → g.b.toNat + len ≤ 4096 →
      (q.toNat : Int) = g.b.toNat + ((p.toNat : Int) + g.m0.toInt - g.b.toNat) % len)) ∧
  ∀ (s : State) (n : Fin 2) (sb a ms sub : Bool) (xa ya : BitVec 5) (dm : BitVec 3) (sh : BitVec 6), (smyOf s.dev n).rep = none →
    let c := smyOf s.dev n
    let p : Int := (c.operand false xa).toInt * (c.operand true ya).toInt * if s.dev.rd SMY_CFG_FRAC n = 0 then 1 else 2
    let r : Int := (dataReg c dm).toInt * (c.operand false xa).toInt * if s.dev.rd SMY_CFG_FRAC n = 0 then 1 else 2
    let both := fun e : SmyCore => e = { c with
      acc0 := e.acc0, acc1 := e.acc1, sv := e.sv, gx := (useAddr c.gx xa).2, gy := (useAddr c.gy ya).2, pc := c.pc + 1, clocks := c.clocks + 1 }
    let alone := fun e : SmyCore => e = { c with acc0 := e.acc0, acc1 := e.acc1, sv := e.sv, pc := c.pc + 1, clocks := c.clocks + 1 }
    (smyAt s.dev n (.mac sb a xa ya) = true → CoreGoes (.mac n sb a xa ya) s n fun e => c.accGets e sb a (accOf c a + p) ∧ both e) ∧
    (smyAt s.dev n (.msu sb a xa ya) = true → CoreGoes (.msu n sb a xa ya) s n fun e => c.accGets e sb a (accOf c a - p) ∧ both e) ∧
    (smyAt s.dev n (.mpy sb a xa ya) = true → CoreGoes (.mpy n sb a xa ya) s n fun e => c.accGets e sb a p ∧ both e) ∧
    (smyAt s.dev n (.macd sb a xa dm) = true →
      CoreGoes (.macd n sb a xa dm) s n fun e => c.accGets e sb a (accOf c a + r) ∧ c.movedOne e false xa) ∧
    (smyAt s.dev n (.lda a ms xa) = true →
      CoreGoes (.lda n a ms xa) s n fun e => accOf e a = (c.operand ms xa).toInt * 65536 ∧ accOf e (!a) = accOf c (!a) ∧ e.sv = c.sv ∧
        c.movedOne e ms xa) ∧
    (smyAt s.dev n (.ada sb a ms xa) = true →
      CoreGoes (.ada n sb a ms xa) s n fun e => c.accGets e sb a (accOf c a + (c.operand ms xa).toInt * 65536) ∧ c.movedOne e ms xa) ∧
    (smyAt s.dev n (.sha sb a sh) = true → CoreGoes (.sha n sb a sh) s n fun e =>
      c.accGets e sb a (if 0 ≤ sh.toInt then accOf c a * 2 ^ sh.toInt.toNat else Int.fdiv (accOf c a) (2 ^ (-sh.toInt).toNat)) ∧ alone e) ∧
    (smyAt s.dev n (.adda sb a sub) = true →
      CoreGoes (.adda n sb a sub) s n fun e => c.accGets e sb a (accOf c a + if sub then -accOf c (!a) else accOf c (!a)) ∧ alone e) ∧
    (smyAt s.dev n (.clra a) = true →
      CoreGoes (.clra n a) s n fun e => accOf e a = 0 ∧ accOf e (!a) = accOf c (!a) ∧ e.sv = c.sv ∧ alone e) ∧
    (smyAt s.dev n .nop = true → CoreGoes (.nop n) s n fun e => e = { c with pc := c.pc + 1, clocks := c.clocks + 1 })

/-- Moves, stores, search and input and output of the signal processors (R388, R392 to R395, Table 12-4): what each reads and writes, and that nothing
else of the core changes; a store changes one word of one memory. Choices of the model in it: log entries 3, 49 and 121; entry 3 is each clause where
nothing happens because the event cannot occur. -/
def Obligations.SmithyMovesAndSearch : Prop :=
  ∀ (s : State) (n : Fin 2) (sb a ms rnd : Bool) (ad : BitVec 5) (dd : BitVec 3) (imm : BitVec 16) (sel : BitVec 2) (tgt : BitVec 4)
    (v : BitVec 12) (port : BitVec 10) (clr src : Bool) (k : BitVec 5), (smyOf s.dev n).rep = none →
    let c := smyOf s.dev n
    let x := accOf c a + if rnd then 32768 else 0
    let beyond := sb = true ∧ (2147483647 < x ∨ x < -2147483648)
    let high : BitVec 16 := if sb = true ∧ 2147483647 < x then 0x7FFF else if sb = true ∧ x < -2147483648 then 0x8000 else BitVec.ofInt 16 (Int.fdiv x 65536)
    let addr := (useAddr (c.gen ms) ad).1.toNat
    let stored := fun (e : SmyCore) (w : BitVec 16) =>
      (∀ i, e.word ms i = if i = addr then w else c.word ms i) ∧ (∀ i, e.word (!ms) i = c.word (!ms) i) ∧ e.gen ms = (useAddr (c.gen ms) ad).2 ∧
        e = { c with x := e.x, y := e.y, gx := if ms then c.gx else e.gx, gy := if ms then e.gy else c.gy, sv := e.sv, pc := c.pc + 1
                     clocks := c.clocks + 1 }
    let set := fun (e : SmyCore) (d : BitVec 3) (w : BitVec 16) => ∀ j, dataReg e j = if j = d then w else dataReg c j
    let kept := fun e : SmyCore => e = { c with dr := e.dr, sv := e.sv, pc := c.pc + 1, clocks := c.clocks + 1 }
    (smyAt s.dev n (.sta sb a ms rnd ad) = true →
      CoreGoes (.sta n sb a ms rnd ad) s n fun e => stored e high ∧ e.sv = (c.sv || decide beyond)) ∧
    (smyAt s.dev n (.std dd ms ad) = true → CoreGoes (.std n dd ms ad) s n fun e => stored e (dataReg c dd) ∧ e.sv = c.sv) ∧
    (smyAt s.dev n (.ldd dd ms ad) = true → CoreGoes (.ldd n dd ms ad) s n fun e => set e dd (c.operand ms ad) ∧
      e.gen ms = (useAddr (c.gen ms) ad).2 ∧
      e = { c with dr := e.dr, gx := if ms then c.gx else e.gx, gy := if ms then e.gy else c.gy, pc := c.pc + 1, clocks := c.clocks + 1 }) ∧
    (smyAt s.dev n (.ldi dd imm) = true → CoreGoes (.ldi n dd imm) s n fun e => set e dd imm ∧ e.sv = c.sv ∧ kept e) ∧
    (smyAt s.dev n (.mvad sb a dd rnd) = true →
      CoreGoes (.mvad n sb a dd rnd) s n fun e => set e dd high ∧ e.sv = (c.sv || decide beyond) ∧ kept e) ∧
    (smyAt s.dev n (.mvs dd sel) = true → CoreGoes (.mvs n dd sel) s n fun e => e.sv = c.sv ∧ kept e ∧
      set e dd (if sel = 0 then c.maxv else if sel = 1 then c.maxi else if sel = 2 then c.minv else c.mini)) ∧
    (smyAt s.dev n (.srch ms ad) = true → CoreGoes (.srch n ms ad) s n fun e =>
      let w := c.operand ms ad
      (e.maxv, e.maxi) = (if c.maxv.toInt < w.toInt then (w, c.ic) else (c.maxv, c.maxi)) ∧
      (e.minv, e.mini) = (if w.toInt < c.minv.toInt then (w, c.ic) else (c.minv, c.mini)) ∧ e.gen ms = (useAddr (c.gen ms) ad).2 ∧
      e = { c with
        maxv := e.maxv, maxi := e.maxi, minv := e.minv, mini := e.mini, ic := c.ic + 1, gx := if ms then c.gx else e.gx
        gy := if ms then e.gy else c.gy, pc := c.pc + 1, clocks := c.clocks + 1 }) ∧
    (smyAt s.dev n .srcl = true → CoreGoes (.srcl n) s n fun e =>
      e = { c with maxv := 0x8000, minv := 0x7FFF, maxi := 0, mini := 0, ic := 0, pc := c.pc + 1, clocks := c.clocks + 1 }) ∧
    (smyAt s.dev n (.ldp tgt v) = true → CoreGoes (.ldp n tgt v) s n fun e =>
      (∀ i, i < 4 → SMap.get 0 e.gx.p i = if tgt.toNat = i then v else SMap.get 0 c.gx.p i) ∧
      (∀ i, i < 4 → SMap.get 0 e.gy.p i = if tgt.toNat = 4 + i then v else SMap.get 0 c.gy.p i) ∧
      e.gx.m0 = (if tgt = 8 then v else c.gx.m0) ∧ e.gx.m1 = (if tgt = 9 then v else c.gx.m1) ∧ e.gy.m0 = (if tgt = 10 then v else c.gy.m0) ∧
      e.gy.m1 = (if tgt = 11 then v else c.gy.m1) ∧ e.gx.b = (if tgt = 12 then v else c.gx.b) ∧ e.gx.l = (if tgt = 13 then v else c.gx.l) ∧
      e.gy.b = (if tgt = 14 then v else c.gy.b) ∧ e.gy.l = (if tgt = 15 then v else c.gy.l) ∧
      e = { c with gx := e.gx, gy := e.gy, pc := c.pc + 1, clocks := c.clocks + 1 }) ∧
    (smyAt s.dev n (.out sb a src dd k) = true → CoreGoes (.smyOut n sb a src dd k) s n fun e =>
      (∀ i, i ≠ k.toNat → SMap.get 0 e.work i = SMap.get 0 c.work i) ∧
      SMap.get 0 e.work k.toNat = (if src then (dataReg c dd).signExtend 32
        else BitVec.ofInt 32 (if sb then max (-2147483648) (min 2147483647 (accOf c a)) else accOf c a)) ∧
      e = { c with work := e.work, pc := c.pc + 1, clocks := c.clocks + 1 }) ∧
    (smyAt s.dev n (.in a clr port) = true →
      let u := port.toNat / 4
      let clears := clr = true ∧ port.toNat < 0x080
      Completes (.smyIn n a clr port) s (if clears then [(ADC_UA_SUM_SUM, u)] else []) ([corePart n] ++ if clears then [.adc] else []) fun e =>
        e.out = [] ∧ accOf (smyOf e n) a = signedOf 40 (fieldOf 40 (inputWord s.dev n port.toNat)) ∧
        accOf (smyOf e n) (!a) = accOf c (!a) ∧ smyOf e n = { c with
          acc0 := (smyOf e n).acc0, acc1 := (smyOf e n).acc1, pc := c.pc + 1, clocks := c.clocks + 2 } ∧
        (clears → e.rd ADC_UA_SUM_SUM u = 0 ∧ SMap.get {} e.adc.ua u = {} ∧ e.adc = { s.dev.adc with ua := e.adc.ua } ∧
          ∀ j, j ≠ u → SMap.get {} e.adc.ua j = SMap.get {} s.dev.adc.ua j))

/-- Control of the signal processors (R390, R391, R394 to R396): a repeated instruction acts as often as REP said in one step; branches, REP, TRIG,
SIG and HALT; an instruction that may follow REP and does not stand at the program counter has no effect; an illegal one ends the run. Choices of the
model in it: log entries 3, 49; entry 3 is each clause where nothing happens because the event cannot occur. -/
def Obligations.SmithyControlAndRepeat : Prop :=
  (∀ (s : State) (n : Fin 2) (c : Instr) (i : SmyInstr) (f : SmyCore → SmyCore), Repeats n (s.dev.on SMY_CFG_FRAC n) c i f →
    (smyAt s.dev n i = true → CoreGoes c s n fun e =>
      let k := (smyOf s.dev n).rep.getD 1
      e = { times f k (smyOf s.dev n) with pc := (smyOf s.dev n).pc + 1, clocks := (smyOf s.dev n).clocks + k, rep := none }) ∧
    (smyAt s.dev n i = false → Completes c s [] [] fun e => e.out = [])) ∧
  (∀ (s : State) (n : Fin 2) (r : RepCount), smyAt s.dev n (.rep r) = true → CoreGoes (.rep n r) s n fun e =>
    let c := smyOf s.dev n
    let k := match r with
      | .imm v => v.toNat + 1
      | .reg dm => (dataReg c dm).toNat
    e = { c with
      pc := c.pc + (if k = 0 then 2 else 1), rep := if k = 0 then none else some (min k 4096), clocks := c.clocks + 1
      sv := c.sv || decide (4096 < k) }) ∧
  (∀ (s : State) (n : Fin 2) (addr : BitVec 12), smyAt s.dev n (.jmp addr) = true → CoreGoes (.jmp n addr) s n fun e =>
    e = { smyOf s.dev n with pc := addr, clocks := (smyOf s.dev n).clocks + 2 }) ∧
  (∀ (s : State) (n : Fin 2) (a : Bool) (cond : BitVec 2) (addr : BitVec 12), smyAt s.dev n (.br a cond addr) = true →
    CoreGoes (.br n a cond addr) s n fun e =>
      let c := smyOf s.dev n
      let x := accOf c a
      let taken := (cond = 0 ∧ x = 0) ∨ (cond = 1 ∧ x < 0) ∨ (cond = 2 ∧ 0 < x) ∨ (cond = 3 ∧ c.sv = true)
      (taken → e = { c with pc := addr, clocks := c.clocks + 2 }) ∧ (¬ taken → e = { c with pc := c.pc + 1, clocks := c.clocks + 1 })) ∧
  (∀ (s : State) (n : Fin 2) (dd : BitVec 3) (addr : BitVec 12), smyAt s.dev n (.djnz dd addr) = true →
    CoreGoes (.djnz n dd addr) s n fun e =>
      let c := smyOf s.dev n
      let taken := dataReg c dd ≠ 1
      (∀ j, dataReg e j = if j = dd then dataReg c dd - 1 else dataReg c j) ∧
      e = { c with dr := e.dr, pc := if taken then addr else c.pc + 1, clocks := c.clocks + if taken then 2 else 1 }) ∧
  (∀ (s : State) (n : Fin 2), smyAt s.dev n (.trig false) = true → Completes (.trig n false) s [] [.adc, corePart n] fun e =>
    smyOf e n = { smyOf s.dev n with pc := (smyOf s.dev n).pc + 1, clocks := (smyOf s.dev n).clocks + 1 } ∧
    (s.dev.rd ADC_SEQ_CTRL_EN ≠ 0 → s.dev.rd ADC_SEQ_CTRL_TRIG_SRC = 12 + n.val → s.dev.tb.ext ∈ e.adc.trigs) ∧
    (s.dev.rd ADC_SEQ_CTRL_EN = 0 ∨ s.dev.rd ADC_SEQ_CTRL_TRIG_SRC ≠ 12 + n.val → e.adc = s.dev.adc)) ∧
  (∀ (s : State) (n : Fin 2), smyAt s.dev n (.trig true) = true → Completes (.trig n true) s [] [.smy0, .smy1] fun e =>
    smyOf e n = { smyOf s.dev n with pc := (smyOf s.dev n).pc + 1, clocks := (smyOf s.dev n).clocks + 1 } ∧
    smyOf e (1 - n.val) = if s.dev.rd SMY_CFG_TRIG_SRC (1 - n.val) = 13
      then { smyOf s.dev (1 - n.val) with trigs := (smyOf s.dev (1 - n.val)).trigs ++ [(s.dev.tb.ext, 13)] }
      else smyOf s.dev (1 - n.val)) ∧
  (∀ (s : State) (n : Fin 2) (imm : BitVec 16), smyAt s.dev n (.sig imm) = true → (smyOf s.dev n).sigDone = false →
    s.dev.rd PWR_STATUS_SHARED_UP ≠ 0 →
    Completes (.sig n imm) s ([(SMY_SIG_CODE, n.val)] ++ recordRegs (srcSmithy n)) [.log, corePart n] fun e =>
      e.out = [] ∧ e.rd SMY_SIG_CODE n = imm.toNat ∧ e.logged .SMY_SIGNAL (srcSmithy n) 0 imm.toNat ∧
      smyOf e n = { smyOf s.dev n with sigDone := true, pc := (smyOf s.dev n).pc + 1, clocks := (smyOf s.dev n).clocks + 1 }) ∧
  (∀ (s : State) (n : Fin 2) (imm : BitVec 16), smyAt s.dev n (.sig imm) = true → (smyOf s.dev n).sigDone = true →
    Completes (.sig n imm) s [(SMY_SIG_DROPPED, n.val)] [corePart n] fun e =>
      e.out = [] ∧ e.rd SMY_SIG_DROPPED n = s.dev.countUp SMY_SIG_DROPPED n) ∧
  (∀ (s : State) (n : Fin 2), smyAt s.dev n .halt = true →
    Completes (.halt n) s
      ((List.range 32).map (fun k => (SMY_OUT_V, 32 * n.val + k)) ++ [(SMY_CNT_RUNS, n.val), (SMY_STAT_ACTIVE, n.val),
        (SMY_STAT_SAT, n.val), (SMY_CYC_LAST, n.val), (SMY_CYC_MAX, n.val)]) [corePart n] fun e =>
      e.out = [] ∧ (∀ k, k < 32 → e.rd SMY_OUT_V (32 * n + k) = (SMap.get 0 (smyOf s.dev n).work k).toNat) ∧
      e.rd SMY_CNT_RUNS n = (s.dev.rd SMY_CNT_RUNS n + 1) % 2 ^ SMY_CNT_RUNS.width ∧ e.rd SMY_STAT_ACTIVE n = 0 ∧
      e.rd SMY_CYC_LAST n = min ((smyOf s.dev n).clocks + 1) (2 ^ SMY_CYC_LAST.width - 1) ∧
      (if (smyOf s.dev n).sv then e.rd SMY_STAT_SAT n = 1 else e.rd SMY_STAT_SAT n = s.dev.rd SMY_STAT_SAT n)) ∧
  (∀ (s : State) (n : Fin 2) (i : SmyInstr), smyGoes s.dev n = true →
    smyDecode (smyFetch (smyOf s.dev n)) = none ∨ (smyDecode (smyFetch (smyOf s.dev n)) = some i ∧ (smyOf s.dev n).rep ≠ none ∧ repeatable i = false) →
    s.dev.rd PWR_STATUS_SHARED_UP ≠ 0 →
    Completes (.illegalInstruction n) s
      ([(SMY_STAT_ILLEGAL, n.val), (SMY_STAT_PC, n.val), (SMY_STAT_ACTIVE, n.val), (SMY_STAT_SAT, n.val), (SMY_CYC_LAST, n.val),
        (SMY_CYC_MAX, n.val)] ++ recordRegs (srcSmithy n)) [.log, corePart n] fun e =>
      e.out = [] ∧ e.rd SMY_STAT_ILLEGAL n = 1 ∧ e.rd SMY_STAT_PC n = (smyOf s.dev n).pc.toNat ∧ e.rd SMY_STAT_ACTIVE n = 0 ∧
      e.logged .SMY_ILLEGAL (srcSmithy n)) ∧
  (∀ (s : State) (n : Fin 2) (i : SmyInstr), smyGoes s.dev n = false ∨ (smyDecode (smyFetch (smyOf s.dev n)) = some i ∧
      ((smyOf s.dev n).rep = none ∨ repeatable i = true)) →
    Completes (.illegalInstruction n) s [] [] fun e => e.out = [])

/-- Runs and ports of the signal processors (R395, R396): a trigger starts a run at ENTRY while RUN is set, waits while a run is active, and is
counted while one waits; HALT_REQ and the budget end a run without publishing; a port read answers the addressed word and advances the address, a port
write of a stopped core stores it, and a running core refuses one that would change the word. Choices of the model in it: log entries 3, 12, 48 and
49; entry 3 is each clause where nothing happens because the event cannot occur. -/
def Obligations.SmithyRuns : Prop :=
  (∀ (s : State) (m : Master) (n : Fin 2), s.dev.takes m (0x1A000 + 0x400 * n) (SMY_STAT_BUSY, n) →
    let c := smyOf s.dev n
    (s.dev.rd SMY_STAT_QUEUED n = 0 → s.dev.rd SMY_STAT_ACTIVE n = 0 → s.dev.rd SMY_CTRL_RUN n ≠ 0 →
      Completes (.smyStart m n) s [(SMY_STAT_ACTIVE, n.val)] [corePart n] fun e => e.out = [] ∧ e.rd SMY_STAT_ACTIVE n = 1 ∧
        smyOf e n = { c with
          sv := false, pc := BitVec.ofNat 12 (s.dev.rd SMY_CFG_ENTRY n), clocks := 0, rep := none, sigDone := false
          startFrame := s.dev.frameNo, src := 0 }) ∧
    (s.dev.rd SMY_STAT_QUEUED n = 0 → s.dev.rd SMY_STAT_ACTIVE n = 0 → s.dev.rd SMY_CTRL_RUN n = 0 →
      Completes (.smyStart m n) s [] [] fun e => e.out = []) ∧
    (s.dev.rd SMY_STAT_ACTIVE n ≠ 0 → s.dev.rd SMY_STAT_QUEUED n = 0 →
      Completes (.smyStart m n) s [(SMY_STAT_QUEUED, n.val)] [corePart n] fun e => e.out = [] ∧ e.rd SMY_STAT_QUEUED n = 1 ∧
        smyOf e n = { c with queuedSrc := 0 }) ∧
    (s.dev.rd SMY_STAT_QUEUED n ≠ 0 →
      Completes (.smyStart m n) s [(SMY_CNT_TRIG_OVERRUN, n.val)] [] fun e => e.out = [] ∧
        e.rd SMY_CNT_TRIG_OVERRUN n = s.dev.countUp SMY_CNT_TRIG_OVERRUN n) ∧
    (s.dev.rd SMY_STAT_ACTIVE n ≠ 0 →
      Completes (.smyHaltReq m n) s
        [(SMY_STAT_ACTIVE, n.val), (SMY_STAT_SAT, n.val), (SMY_CYC_LAST, n.val), (SMY_CYC_MAX, n.val)] [corePart n] fun e =>
        e.out = [] ∧ e.rd SMY_STAT_ACTIVE n = 0 ∧ smyOf e n = { c with rep := none } ∧
        e.rd SMY_CYC_LAST n = min c.clocks (2 ^ SMY_CYC_LAST.width - 1)) ∧
    (s.dev.rd SMY_STAT_ACTIVE n = 0 → Completes (.smyHaltReq m n) s [] [] fun e => e.out = [])) ∧
  (∀ (s : State) (n : Fin 2), s.dev.rd SMY_STAT_QUEUED n ≠ 0 → s.dev.rd SMY_STAT_ACTIVE n = 0 → s.dev.rd SMY_CTRL_RUN n ≠ 0 →
    Completes (.smyRunStart n) s [(SMY_STAT_QUEUED, n.val), (SMY_STAT_ACTIVE, n.val)] [corePart n] fun e =>
      e.rd SMY_STAT_QUEUED n = 0 ∧ e.rd SMY_STAT_ACTIVE n = 1 ∧ (smyOf e n).src = (smyOf s.dev n).queuedSrc ∧
      (smyOf e n).pc = BitVec.ofNat 12 (s.dev.rd SMY_CFG_ENTRY n) ∧ (smyOf e n).clocks = 0 ∧ (smyOf e n).sv = false) ∧
  (∀ (s : State) (n : Fin 2) (t : Int) (code : Nat) (rest : List (Int × Nat)), s.dev.rd SMY_STAT_QUEUED n = 0 →
    (smyOf s.dev n).trigs = (t, code) :: rest →
    (s.dev.rd SMY_STAT_ACTIVE n = 0 → s.dev.rd SMY_CTRL_RUN n ≠ 0 →
      Completes (.smyRunStart n) s [(SMY_STAT_ACTIVE, n.val)] [corePart n] fun e => e.rd SMY_STAT_ACTIVE n = 1 ∧
        (smyOf e n).src = code ∧ (smyOf e n).trigs = rest ∧ (smyOf e n).pc = BitVec.ofNat 12 (s.dev.rd SMY_CFG_ENTRY n)) ∧
    (s.dev.rd SMY_STAT_ACTIVE n ≠ 0 →
      Completes (.smyRunStart n) s [(SMY_STAT_QUEUED, n.val)] [corePart n] fun e => e.rd SMY_STAT_QUEUED n = 1 ∧
        smyOf e n = { smyOf s.dev n with trigs := rest, queuedSrc := code })) ∧
  (∀ (s : State) (n : Fin 2), s.dev.rd SMY_STAT_ACTIVE n ≠ 0 → s.dev.rd SMY_BUDGET_CLK n < (smyOf s.dev n).clocks →
    s.dev.rd PWR_STATUS_SHARED_UP ≠ 0 →
    Completes (.smyBudgetExceeded n) s
      ([(SMY_STAT_BUDGET_EXCEEDED, n.val), (SMY_STAT_ACTIVE, n.val), (SMY_STAT_SAT, n.val), (SMY_CYC_LAST, n.val), (SMY_CYC_MAX, n.val)] ++
        recordRegs (srcSmithy n)) [.log, corePart n] fun e =>
      e.rd SMY_STAT_BUDGET_EXCEEDED n = 1 ∧ e.rd SMY_STAT_ACTIVE n = 0 ∧ e.logged .SMY_BUDGET (srcSmithy n)) ∧
  (∀ (s : State) (n : Fin 2), s.dev.rd SMY_STAT_ACTIVE n = 0 ∨ (smyOf s.dev n).clocks ≤ s.dev.rd SMY_BUDGET_CLK n →
    Completes (.smyBudgetExceeded n) s [] [] fun e => e.out = []) ∧
  (∀ (s : State) (m : Master) (n : Fin 2), s.dev.readable m (0x1A000 + 0x400 * n + 0x24) = true →
    Completes (.smyPortAccess m n false none) s [(SMY_PADDR_ADDR, n.val)] [] fun e =>
      e.rd SMY_PADDR_ADDR n = (s.dev.rd SMY_PADDR_ADDR n + 1) % 2 ^ SMY_PADDR_ADDR.width ∧
      e.out = [.readData m (SMap.get 0xFC000000#32 (smyOf s.dev n).prog (s.dev.rd SMY_PADDR_ADDR n)).toNat]) ∧
  (∀ (s : State) (m : Master) (n : Fin 2), s.dev.readable m (0x1A000 + 0x400 * n + 0x2C) = true →
    Completes (.smyPortAccess m n true none) s [(SMY_DADDR_ADDR, n.val)] [] fun e =>
      e.rd SMY_DADDR_ADDR n = (s.dev.rd SMY_DADDR_ADDR n + 1) % 2 ^ SMY_DADDR_ADDR.width ∧
      e.out = [.readData m ((smyOf s.dev n).word (s.dev.on SMY_DADDR_Y n) (s.dev.rd SMY_DADDR_ADDR n)).toNat]) ∧
  (∀ (s : State) (m : Master) (n : Fin 2) (data : Bool), s.dev.readable m (0x1A000 + 0x400 * n + if data then 0x2C else 0x24) = false →
    Completes (.smyPortAccess m n data none) s [] [] fun e => e.out = [.readData m 0]) ∧
  (∀ (s : State) (m : Master) (n : Fin 2) (v : Word32), s.dev.takes m (0x1A000 + 0x400 * n + 0x24) (SMY_STAT_BUSY, n) →
    let i := s.dev.rd SMY_PADDR_ADDR n
    (s.dev.rd SMY_CTRL_RUN n = 0 → s.dev.rd SMY_STAT_ACTIVE n = 0 →
      Completes (.smyPortAccess m n false (some v)) s [(SMY_PADDR_ADDR, n.val)] [corePart n] fun e => e.out = [] ∧
        e.rd SMY_PADDR_ADDR n = (i + 1) % 2 ^ SMY_PADDR_ADDR.width ∧ smyOf e n = { smyOf s.dev n with prog := (smyOf e n).prog } ∧
        ∀ j, SMap.get 0xFC000000#32 (smyOf e n).prog j = if j = i then v else SMap.get 0xFC000000#32 (smyOf s.dev n).prog j) ∧
    (s.dev.rd SMY_CTRL_RUN n ≠ 0 ∨ s.dev.rd SMY_STAT_ACTIVE n ≠ 0 → v ≠ SMap.get 0xFC000000#32 (smyOf s.dev n).prog i →
      Completes (.smyPortAccess m n false (some v)) s
        ([(SYS_STATUS_BUSY_REJECT, 0), (SYS_ERR_CNT1_BUSY_REJECT_CNT, 0)] ++ errRegs ++ recordRegs srcSystem) [.log] fun e =>
        e.out = [] ∧ e.rd SYS_STATUS_BUSY_REJECT = 1 ∧ e.rd SYS_ERR_CNT1_BUSY_REJECT_CNT = s.dev.countUp SYS_ERR_CNT1_BUSY_REJECT_CNT ∧
        e.errNames m (0x1A000 + 0x400 * n + 0x24) 3) ∧
    (s.dev.rd SMY_CTRL_RUN n ≠ 0 ∨ s.dev.rd SMY_STAT_ACTIVE n ≠ 0 → v = SMap.get 0xFC000000#32 (smyOf s.dev n).prog i →
      Completes (.smyPortAccess m n false (some v)) s [(SMY_PADDR_ADDR, n.val)] [] fun e => e.out = [] ∧
        e.rd SMY_PADDR_ADDR n = (i + 1) % 2 ^ SMY_PADDR_ADDR.width)) ∧
  (∀ (s : State) (m : Master) (n : Fin 2) (v : Word32), s.dev.takes m (0x1A000 + 0x400 * n + 0x2C) (SMY_STAT_BUSY, n) →
    let i := s.dev.rd SMY_DADDR_ADDR n
    let side := s.dev.on SMY_DADDR_Y n
    (s.dev.rd SMY_CTRL_RUN n = 0 → s.dev.rd SMY_STAT_ACTIVE n = 0 →
      Completes (.smyPortAccess m n true (some v)) s [(SMY_DADDR_ADDR, n.val)] [corePart n] fun e => e.out = [] ∧
        e.rd SMY_DADDR_ADDR n = (i + 1) % 2 ^ SMY_DADDR_ADDR.width ∧
        smyOf e n = { smyOf s.dev n with x := (smyOf e n).x, y := (smyOf e n).y } ∧
        (∀ j, (smyOf e n).word side j = if j = i then BitVec.ofNat 16 v.toNat else (smyOf s.dev n).word side j) ∧
        ∀ j, (smyOf e n).word (!side) j = (smyOf s.dev n).word (!side) j) ∧
    (s.dev.rd SMY_CTRL_RUN n ≠ 0 ∨ s.dev.rd SMY_STAT_ACTIVE n ≠ 0 → BitVec.ofNat 16 v.toNat = (smyOf s.dev n).word side i →
      Completes (.smyPortAccess m n true (some v)) s [(SMY_DADDR_ADDR, n.val)] [] fun e => e.out = [] ∧
        e.rd SMY_DADDR_ADDR n = (i + 1) % 2 ^ SMY_DADDR_ADDR.width) ∧
    (s.dev.rd SMY_CTRL_RUN n ≠ 0 ∨ s.dev.rd SMY_STAT_ACTIVE n ≠ 0 → BitVec.ofNat 16 v.toNat ≠ (smyOf s.dev n).word side i →
      Completes (.smyPortAccess m n true (some v)) s
        ([(SYS_STATUS_BUSY_REJECT, 0), (SYS_ERR_CNT1_BUSY_REJECT_CNT, 0)] ++ errRegs ++ recordRegs srcSystem) [.log] fun e =>
        e.out = [] ∧ e.rd SYS_STATUS_BUSY_REJECT = 1 ∧ e.errNames m (0x1A000 + 0x400 * n + 0x2C) 3))
/-! Reeve, the task scheduler (chapter 13). STATE is coded as Table 13-1: 0 FREE, 1 IDLE, 2 READY, 3 SLOTTED, 4 RUNNING, 5 WAITING, 6 SLEEPING. -/

/-- The life of a task (R399, R402, R403, R405 to R408, R411, R412, R417): CREATE, SIGNAL, slots and TAKE, YIELD, WAIT and SLEEP, expiry, an overlong
run and DELETE move tasks between the states of Table 13-2, and each operation answers its core. Choices of the model in it: log entries 3, 50 and 51;
entry 3 is each clause where nothing happens because the event cannot occur. -/
def Obligations.ReeveTasks : Prop :=
  (∀ (s : State) (c : Fin 4) (t : Fin 256) (thread : Bool) (prio : Fin 8) (aff : BitVec 4) (flow : Option (Fin 64)),
    s.dev.rd PWR_STATUS_SHARED_UP ≠ 0 →
    (s.dev.rd RVE_CNT_TASKS < 256 → s.dev.rd RVE_TASK_STAT_STATE t = 0 →
      Completes (.create c t thread prio aff flow) s
        [(RVE_TASK_STAT_STATE, t.val), (RVE_TASK_STAT_KIND, t.val), (RVE_TASK_STAT_PRIO, t.val), (RVE_TASK_STAT_AFFINITY, t.val),
         (RVE_TASK_STAT_FLOW, t.val), (RVE_CNT_TASKS, 0)] [] fun e =>
        e.out = [.reeve (some c.val) .ok (s.dev.cancelAsked c)] ∧ e.rd RVE_TASK_STAT_STATE t = 1 ∧ e.rd RVE_TASK_STAT_KIND t = bitOf thread ∧
        e.rd RVE_TASK_STAT_PRIO t = prio.val ∧ e.rd RVE_TASK_STAT_AFFINITY t = aff.toNat ∧
        e.rd RVE_TASK_STAT_FLOW t = (flow.map Fin.val).getD 0xFF ∧ e.rd RVE_CNT_TASKS = s.dev.rd RVE_CNT_TASKS + 1) ∧
    (s.dev.rd RVE_CNT_TASKS < 256 → s.dev.rd RVE_TASK_STAT_STATE t ≠ 0 →
      Completes (.create c t thread prio aff flow) s [] [] fun e => e.out = [.reeve (some c.val) .busy (s.dev.cancelAsked c)]) ∧
    (256 ≤ s.dev.rd RVE_CNT_TASKS →
      Completes (.create c t thread prio aff flow) s [(RVE_STATUS_NO_TASK, 0)] [] fun e =>
        e.rd RVE_STATUS_NO_TASK = 1 ∧ e.out = [.reeve (some c.val) .noTask (s.dev.cancelAsked c)])) ∧
  (∀ (s : State) (c : Fin 4) (t : Fin 256),
    (s.dev.rd RVE_TASK_STAT_STATE t = 0 →
      Completes (.signal c t) s [] [] fun e => e.out = [.reeve (some c.val) .noTask (s.dev.cancelAsked c)]) ∧
    (s.dev.rd RVE_TASK_STAT_STATE t = 1 →
      Completes (.signal c t) s [(RVE_TASK_STAT_SIGNAL, t.val), (RVE_TASK_STAT_STATE, t.val), (RVE_TASK_QUEUE_ITEMS, t.val)] [.rve] fun e =>
        e.out = [.reeve (some c.val) .ok (s.dev.cancelAsked c)] ∧ e.rd RVE_TASK_STAT_SIGNAL t = 1 ∧ s.dev.readied e t .signal) ∧
    (s.dev.rd RVE_TASK_STAT_STATE t = 5 →
      Completes (.signal c t) s [(RVE_TASK_STAT_SIGNAL, t.val), (RVE_TASK_STAT_STATE, t.val), (RVE_TASK_QUEUE_ITEMS, t.val)] [.rve] fun e =>
        e.out = [.reeve (some c.val) .ok (s.dev.cancelAsked c)] ∧ e.rd RVE_TASK_STAT_SIGNAL t = 1 ∧ s.dev.readied e t .signal ∧
        ∀ x ∈ e.rve.timeout, x.task ≠ t) ∧
    (2 ≤ s.dev.rd RVE_TASK_STAT_STATE t → s.dev.rd RVE_TASK_STAT_STATE t ≠ 5 →
      Completes (.signal c t) s [(RVE_TASK_STAT_SIGNAL, t.val)] [] fun e =>
        e.out = [.reeve (some c.val) .ok (s.dev.cancelAsked c)] ∧ e.rd RVE_TASK_STAT_SIGNAL t = 1)) ∧
  (∀ (s : State) (p t i c : Nat) (r q : List Nat) (x : RveItem), p < 8 → c < 4 → readyList s.dev p = t :: r →
    (∀ k, k < p → readyList s.dev k = []) → s.dev.rd RVE_TASK_STAT_PRIO t = p → (taskOf s.dev t).item = none → (taskOf s.dev t).fifo = i :: q →
    itemOf s.dev i = some x → x.req.flow = none → bit (s.dev.rd RVE_TASK_STAT_AFFINITY t) c = true → (coreOf s.dev c).slots.length < 8 →
    (∀ k, k < 4 → bit (s.dev.rd RVE_TASK_STAT_AFFINITY t) k = true → (coreOf s.dev c).slots.length < (coreOf s.dev k).slots.length ∨
      ((coreOf s.dev c).slots.length = (coreOf s.dev k).slots.length ∧ c ≤ k)) →
    Answers .slotPrefetch s fun e => e.rd RVE_TASK_STAT_STATE t = 3 ∧ (taskOf e t).item = some i ∧ (taskOf e t).fifo = q ∧
      (coreOf e c).slots = (coreOf s.dev c).slots ++ [t] ∧ e.rd RVE_CORE_SLOTS c = (coreOf s.dev c).slots.length + 1 ∧
      t ∉ readyList e p ∧ itemOf e i = some { x with state := .slotted }) ∧
  (∀ (s : State) (p t c u : Nat) (r rest : List Nat), p < 8 → readyList s.dev p = t :: r → (∀ k, k < p → readyList s.dev k = []) →
    s.dev.rd RVE_TASK_STAT_PRIO t = p → taskEligible s.dev t = true → c < 4 →
    (∀ k, k < 4 → (bit (s.dev.rd RVE_TASK_STAT_AFFINITY t) k = true ↔ k = c)) → (coreOf s.dev c).slots = rest ++ [u] → rest.length = 7 → u ∉ rest →
    (taskOf s.dev u).item = none → (∀ v ∈ rest, s.dev.rd RVE_TASK_STAT_PRIO v ≤ s.dev.rd RVE_TASK_STAT_PRIO u) →
    p < s.dev.rd RVE_TASK_STAT_PRIO u →
    Answers .slotPrefetch s fun e => e.rd RVE_TASK_STAT_STATE t = 3 ∧ e.rd RVE_TASK_STAT_STATE u = 2 ∧ (coreOf e c).slots = rest ++ [t] ∧
      readyList e (s.dev.rd RVE_TASK_STAT_PRIO u) = u :: readyList s.dev (s.dev.rd RVE_TASK_STAT_PRIO u) ∧
      e.rd RVE_CORE_DISPLACED c = s.dev.countUp RVE_CORE_DISPLACED c) ∧
  (∀ s : State, (∀ k, k < 8 → readyList s.dev k = []) → Completes .slotPrefetch s [] [] fun e => e.out = []) ∧
  (∀ (s : State) (c : Fin 4), (coreOf s.dev c).run = none → (coreOf s.dev c).slots = [] →
    Completes (.take c) s [] [] fun e => e.out = [.reeve (some c.val) .empty false]) ∧
  (∀ (s : State) (c : Fin 4) (t : Fin 256) (before after : List Nat), (coreOf s.dev c).run = none → (coreOf s.dev c).slots = before ++ t.val :: after →
    (∀ u ∈ before, s.dev.rd RVE_TASK_STAT_PRIO t < s.dev.rd RVE_TASK_STAT_PRIO u) →
    (∀ u ∈ after, s.dev.rd RVE_TASK_STAT_PRIO t ≤ s.dev.rd RVE_TASK_STAT_PRIO u) →
    Touches (.take c) s [RVE_CORE_SLOTS]
      [(RVE_TASK_STAT_STATE, t.val), (RVE_TASK_STAT_SIGNAL, t.val), (RVE_TASK_QUEUE_ITEMS, t.val), (RVE_TASK_QUEUE_RUNS, t.val), (RVE_CORE_TASK, c.val),
       (RVE_CORE_RUNNING, c.val), (RVE_CORE_RUN_CLK, c.val)] [.rve] ∧
    Answers (.take c) s fun e => e.rd RVE_TASK_STAT_STATE t = 4 ∧ e.rd RVE_CORE_RUNNING c = 1 ∧ e.rd RVE_CORE_TASK c = t.val ∧
      (taskOf e t).started = true ∧ (coreOf e c).run = some (t.val, s.dev.tb.ext) ∧ t.val ∉ (coreOf e c).slots ∧
      e.rd RVE_TASK_QUEUE_RUNS t = (s.dev.rd RVE_TASK_QUEUE_RUNS t + 1) % 2 ^ RVE_TASK_QUEUE_RUNS.width ∧
      ((taskOf s.dev t).reason = .signal → e.rd RVE_TASK_STAT_SIGNAL t = 0) ∧
      e.out = [.reeve (some c.val) (.taken t.val (taskOf s.dev t).item
        (if (taskOf s.dev t).started then (taskOf s.dev t).reason else .first)) (s.dev.on RVE_TASK_STAT_CANCEL_REQ t)]) ∧
  (∀ (s : State) (c : Fin 4) (p : Nat × Int), (coreOf s.dev c).run = some p → Completes (.take c) s [] [] fun e => e.out = []) ∧
  (∀ (s : State) (c : Fin 4) (timeout : BitVec 16) (arg : SleepArg), (coreOf s.dev c).run = none →
    Completes (.yield c) s [] [] (fun e => e.out = []) ∧ Completes (.wait c timeout) s [] [] (fun e => e.out = []) ∧
    Completes (.sleep c arg) s [] [] (fun e => e.out = []) ∧ Completes (.rveOverlong c) s [] [] (fun e => e.out = [])) ∧
  (∀ (s : State) (c : Fin 4) (t : Fin 256) (t0 : Int) (timeout : BitVec 16) (arg : SleepArg), (coreOf s.dev c).run = some (t.val, t0) →
    (taskOf s.dev t).deleteDue = false →
    let req := s.dev.on RVE_TASK_STAT_CANCEL_REQ t
    let touched := [(RVE_TASK_STAT_STATE, t.val), (RVE_TASK_QUEUE_ITEMS, t.val), (RVE_CORE_RUNNING, c.val), (RVE_CORE_RUN_CLK, c.val),
      (RVE_CORE_SLOTS, c.val), (RVE_TASK_STAT_CANCEL_REQ, t.val)]
    let stopped := fun e : Dev => e.rd RVE_CORE_RUNNING c = 0 ∧ (coreOf e c).run = none ∧ e.rd RVE_TASK_STAT_CANCEL_REQ t = 0
    let ahead : Int := match arg with
      | .frames n => n
      | .until f => signedOf 32 (fieldOf 32 ((f.toNat : Int) - s.dev.frameNo))
    let refused : Bool := match arg with
      | .frames n => decide (n = 0 ∨ 2 ^ 31 ≤ n)
      | .until _ => decide (ahead = -2147483648)
    (Completes (.yield c) s touched [.rve] fun e => e.out = [.reeve (some c.val) .ok req] ∧ stopped e ∧ s.dev.readied e t .yielded) ∧
    (s.dev.rd RVE_TASK_STAT_KIND t = 0 → Completes (.wait c timeout) s [] [] (fun e => e.out = []) ∧
      Completes (.sleep c arg) s [] [] (fun e => e.out = [])) ∧
    (s.dev.rd RVE_TASK_STAT_KIND t ≠ 0 → s.dev.rd RVE_TASK_STAT_SIGNAL t ≠ 0 →
      Completes (.wait c timeout) s [(RVE_TASK_STAT_SIGNAL, t.val)] [] fun e =>
        e.rd RVE_TASK_STAT_SIGNAL t = 0 ∧ e.out = [.reeve (some c.val) .signal req]) ∧
    (s.dev.rd RVE_TASK_STAT_KIND t ≠ 0 → s.dev.rd RVE_TASK_STAT_SIGNAL t = 0 → (taskOf s.dev t).fifo ≠ [] →
      Completes (.wait c timeout) s [] [] fun e => e.out = [.reeve (some c.val) .item req]) ∧
    (s.dev.rd RVE_TASK_STAT_KIND t ≠ 0 → s.dev.rd RVE_TASK_STAT_SIGNAL t = 0 → (taskOf s.dev t).fifo = [] →
      Completes (.wait c timeout) s touched [.rve] fun e => e.out = [.reeve (some c.val) .ok req] ∧ stopped e ∧
        e.rd RVE_TASK_STAT_STATE t = 5 ∧ e.rve.sleep = s.dev.rve.sleep ∧
        (if timeout = 0 then e.rve.timeout = s.dev.rve.timeout
          else ∃ x ∈ e.rve.timeout, x.task = t.val ∧ x.expiry = (s.dev.frameNo + timeout.toNat) % 2 ^ 32)) ∧
    (s.dev.rd RVE_TASK_STAT_KIND t ≠ 0 → refused = true → Completes (.sleep c arg) s [] [] fun e => e.out = [.reeve (some c.val) .range req]) ∧
    (s.dev.rd RVE_TASK_STAT_KIND t ≠ 0 → refused = false → Completes (.sleep c arg) s touched [.rve] fun e =>
      e.out = [.reeve (some c.val) .ok req] ∧ stopped e ∧ (ahead ≤ 0 → s.dev.readied e t .sleepEnd) ∧
      (0 < ahead → e.rd RVE_TASK_STAT_STATE t = 6 ∧
        ∃ x ∈ e.rve.sleep, x.task = t.val ∧ x.expiry = fieldOf 32 (s.dev.frameNo + ahead)))) ∧
  (∀ s : State, (s.dev.rve.sleep.filter (expired s.dev.frameNo)).length + (s.dev.rve.timeout.filter (expired s.dev.frameNo)).length ≤ 512 →
    Touches .delayExpiry s [RVE_TASK_STAT_STATE, RVE_TASK_QUEUE_ITEMS] [] [.rve] ∧
    Answers .delayExpiry s fun e => e.out = [] ∧
      e.rve.sleep = s.dev.rve.sleep.filter (fun x => !expired s.dev.frameNo x) ∧
      e.rve.timeout = s.dev.rve.timeout.filter (fun x => !expired s.dev.frameNo x) ∧
      ∀ x, x ∈ s.dev.rve.sleep ∨ x ∈ s.dev.rve.timeout → expired s.dev.frameNo x = true → e.rd RVE_TASK_STAT_STATE x.task = 2) ∧
  (∀ (s : State) (c : Fin 4) (t : Fin 256) (t0 : Int), (coreOf s.dev c).run = some (t.val, t0) → s.dev.rd PWR_STATUS_SHARED_UP ≠ 0 →
    ((coreOf s.dev c).overlong = true → Completes (.rveOverlong c) s [] [] fun e => e.out = []) ∧
    ((coreOf s.dev c).overlong = false →
      Completes (.rveOverlong c) s ([(RVE_STATUS_OVERLONG, 0), (RVE_CORE_OVERLONG_CNT, c.val), (RVE_CORE_TASK, c.val), (RVE_CORE_SLOTS, c.val)] ++
        recordRegs srcScheduler) [.rve, .tb, .log] fun e => e.out = [] ∧ e.rd RVE_STATUS_OVERLONG = 1 ∧ e.rd RVE_CORE_TASK c = t.val ∧
        e.rd RVE_CORE_OVERLONG_CNT c = s.dev.countUp RVE_CORE_OVERLONG_CNT c ∧ e.logged .RVE_OVERLONG srcScheduler t ∧
        (coreOf e c).run = some (t.val, t0) ∧ (coreOf e c).overlong = true)) ∧
  (∀ (s : State) (c : Fin 4) (t : Fin 256),
    (s.dev.rd RVE_TASK_STAT_STATE t = 0 →
      Completes (.delete c t) s [] [] fun e => e.out = [.reeve (some c.val) .noTask (s.dev.cancelAsked c)]) ∧
    (s.dev.rd RVE_TASK_STAT_STATE t = 4 →
      Completes (.delete c t) s [(RVE_TASK_QUEUE_ITEMS, t.val)] [.rve] fun e => e.out = [.reeve (some c.val) .ok (s.dev.cancelAsked c)] ∧
        taskOf e t = { taskOf s.dev t with deleteDue := true }) ∧
    (s.dev.rd RVE_TASK_STAT_STATE t ≠ 0 → s.dev.rd RVE_TASK_STAT_STATE t ≠ 4 →
      Answers (.delete c t) s fun e => (∃ q, .reeve (some c.val) .ok q ∈ e.out) ∧ e.rd RVE_TASK_STAT_STATE t = 0 ∧ taskOf e t = {} ∧
        e.rd RVE_TASK_STAT_FLOW t = 0xFF ∧ e.rd RVE_TASK_STAT_SIGNAL t = 0 ∧ e.rd RVE_TASK_QUEUE_ITEMS t = 0 ∧
        e.rd RVE_CNT_TASKS = (s.dev.rd RVE_CNT_TASKS - 1) % 2 ^ RVE_CNT_TASKS.width ∧ (∀ k, k < 4 → t.val ∉ (coreOf e k).slots) ∧
        (∀ x, x ∈ e.rve.sleep ∨ x ∈ e.rve.timeout → x.task ≠ t) ∧
        ∀ (i : Nat) (x : RveItem), itemOf s.dev i = some x → x.req.flow = none → s.dev.noOverride →
          ((taskOf s.dev t).item = none → (taskOf s.dev t).fifo = [i] → e.itemReleased i x 4 0 x.cancelReq) ∧
          ((taskOf s.dev t).item = some i → (taskOf s.dev t).fifo = [] →
            e.itemReleased i x (if s.dev.rd RVE_TASK_STAT_STATE t = 5 ∧ (s.dev.rve.timeout.any fun w => w.task == t.val) then 3 else 4) 0
              x.cancelReq)))

/-- Work items (R400, R409, R410, R414 to R418): ENQUEUE takes a pool entry of its source's share, numbers it in its flow and wakes its task, or is
refused or kept as Table 13-7 says, no flow limit blocking a lane that its reserve serves; DONE ends the run and releases or holds the item; a flow
releases its items in order; CANCEL acts by the item's state. Choices of the model in it: log entries 3, 50 and 122; entry 3 is each clause where
nothing happens because the event cannot occur. -/
def Obligations.ReeveItems : Prop :=
  (∀ (s : State) (src : RveSource) (q : RveRequest) (i : Fin 2048),
    Touches (.enqueue src q i) s
      [RVE_STATUS_POOL_LOW, RVE_STATUS_LANE_OVF, RVE_CNT_FREE_ITEMS, RVE_CNT_ETH_DROP, RVE_CNT_POOL_EMPTY, RVE_FLOW_CFG_NEXT, RVE_FLOW_STAT_HELD,
        RVE_FLOW_STAT_BLOCKED] [(RVE_TASK_QUEUE_ITEMS, q.task.val), (RVE_TASK_STAT_STATE, q.task.val)] [.rve]) ∧
  (∀ (s : State) (c : Fin 4) (q : RveRequest) (i : Fin 2048),
    let req := s.dev.cancelAsked c
    (s.dev.rd RVE_TASK_STAT_STATE q.task = 0 → Completes (.enqueue (.core c) q i) s [] [] fun e => e.out = [.reeve (some c.val) .noTask req]) ∧
    (∀ f, s.dev.rd RVE_TASK_STAT_STATE q.task ≠ 0 → q.flow = some f → 1024 ≤ flowAhead s.dev f (s.dev.rd RVE_FLOW_CFG_NEXT f) + 1 →
      Completes (.enqueue (.core c) q i) s [] [] fun e => e.out = [.reeve (some c.val) .flowFull req]) ∧
    (s.dev.rd RVE_TASK_STAT_STATE q.task ≠ 0 → q.flow = none → shareUsed s.dev 0 < 1856 → itemOf s.dev i = none →
      Answers (.enqueue (.core c) q i) s fun e => e.out = [.reeve (some c.val) (.enqueued i) req] ∧
        itemOf e i = some { req := q, share := 0 } ∧ (taskOf e q.task).fifo = (taskOf s.dev q.task).fifo ++ [i.val] ∧
        (s.dev.rd RVE_TASK_STAT_STATE q.task = 1 ∨ s.dev.rd RVE_TASK_STAT_STATE q.task = 5 → s.dev.readied e q.task .item) ∧
        (s.dev.rd RVE_TASK_STAT_STATE q.task ≠ 1 → s.dev.rd RVE_TASK_STAT_STATE q.task ≠ 5 →
          e.rd RVE_TASK_STAT_STATE q.task = s.dev.rd RVE_TASK_STAT_STATE q.task)) ∧
    (∀ f, s.dev.rd RVE_TASK_STAT_STATE q.task ≠ 0 → q.flow = some f → flowAhead s.dev f (s.dev.rd RVE_FLOW_CFG_NEXT f) + 1 < 1024 →
      shareUsed s.dev 0 < 1856 → itemOf s.dev i = none →
      Answers (.enqueue (.core c) q i) s fun e => e.out = [.reeve (some c.val) (.enqueued i) req] ∧
        itemOf e i = some { req := q, share := 0, fseq := s.dev.rd RVE_FLOW_CFG_NEXT f } ∧
        e.rd RVE_FLOW_CFG_NEXT f = (s.dev.rd RVE_FLOW_CFG_NEXT f + 1) % 2 ^ RVE_FLOW_CFG_NEXT.width) ∧
    (s.dev.rd RVE_TASK_STAT_STATE q.task ≠ 0 → q.flow = none → 1856 ≤ shareUsed s.dev 0 →
      Completes (.enqueue (.core c) q i) s [(RVE_CNT_POOL_EMPTY, 0)] [] fun e => e.out = [.reeve (some c.val) .poolEmpty req] ∧
        e.rd RVE_CNT_POOL_EMPTY = s.dev.countUp RVE_CNT_POOL_EMPTY) ∧
    (∀ l f, s.dev.rd RVE_TASK_STAT_STATE q.task ≠ 0 → q.flow = some f → shareUsed s.dev 1 < 64 → itemOf s.dev i = none →
      Answers (.enqueue (.lane l) q i) s fun e => e.out = [] ∧
        itemOf e i = some { req := q, share := 1, fseq := s.dev.rd RVE_FLOW_CFG_NEXT f })) ∧
  (∀ (s : State) (q : RveRequest) (i : Fin 2048) (l : Lane) (port : Fin 2), s.dev.rd RVE_TASK_STAT_STATE q.task ≠ 0 → q.flow = none →
    (shareUsed s.dev 2 < 128 → itemOf s.dev i = none →
      Answers (.enqueue .host q i) s fun e => e.out = [.reeve none (.enqueued i) false] ∧ itemOf e i = some { req := q, share := 2 }) ∧
    (shareUsed s.dev 1 < 64 → itemOf s.dev i = none →
      Answers (.enqueue (.lane l) q i) s fun e => e.out = [] ∧ itemOf e i = some { req := q, share := 1 }) ∧
    (64 ≤ shareUsed s.dev 1 → 1856 ≤ shareUsed s.dev 0 →
      Completes (.enqueue (.lane l) q i) s [(RVE_STATUS_LANE_OVF, 0)] [.rve] fun e => e.out = [] ∧ e.rd RVE_STATUS_LANE_OVF = 1 ∧
        e.rve = { s.dev.rve with laneOvr := s.dev.rve.laneOvr.set l (some q) }) ∧
    (shareUsed s.dev 0 < 1856 → itemOf s.dev i = none →
      Answers (.maintenancePacketReceived port q i) s fun e => e.out = [] ∧ itemOf e i = some { req := q, share := 0 } ∧
        (taskOf e q.task).fifo = (taskOf s.dev q.task).fifo ++ [i.val]) ∧
    (1856 ≤ shareUsed s.dev 0 →
      Completes (.maintenancePacketReceived port q i) s [(RVE_CNT_ETH_DROP, 0)] [] fun e => e.out = [] ∧
        e.rd RVE_CNT_ETH_DROP = s.dev.countUp RVE_CNT_ETH_DROP)) ∧
  (∀ (s : State) (c : Fin 4) (ok : Bool) (result : BitVec 32), (coreOf s.dev c).run = none →
    Completes (.done c ok result) s [] [] fun e => e.out = []) ∧
  (∀ (s : State) (c : Fin 4) (t : Fin 256) (t0 : Int) (i : Nat) (x : RveItem) (ok : Bool) (result : BitVec 32),
    (coreOf s.dev c).run = some (t.val, t0) → (taskOf s.dev t).deleteDue = false → (taskOf s.dev t).item = some i → itemOf s.dev i = some x →
    let asked := s.dev.on RVE_TASK_STAT_CANCEL_REQ t
    let status := if ok then 0 else 2
    let ended := fun e : Dev => .reeve (some c.val) .ok asked ∈ e.out ∧ e.rd RVE_CORE_RUNNING c = 0 ∧ (coreOf e c).run = none ∧
      (taskOf e t).item = none ∧ e.rd RVE_TASK_STAT_CANCEL_REQ t = 0
    (x.req.flow = none → s.dev.noOverride →
      Answers (.done c ok result) s fun e => ended e ∧ e.itemReleased i x status result.toNat asked ∧
        ((taskOf s.dev t).fifo ≠ [] → s.dev.readied e t .item) ∧
        ((taskOf s.dev t).fifo = [] → s.dev.rd RVE_TASK_STAT_SIGNAL t ≠ 0 → s.dev.readied e t .signal) ∧
        ((taskOf s.dev t).fifo = [] → s.dev.rd RVE_TASK_STAT_SIGNAL t = 0 → e.rd RVE_TASK_STAT_STATE t = 1)) ∧
    (∀ f, x.req.flow = some f → flowAhead s.dev f x.fseq ≠ 0 →
      Answers (.done c ok result) s fun e => ended e ∧
        itemOf e i = some { x with state := .held, status := status, result := result.toNat, cancelReq := asked } ∧
        e.rd RVE_FLOW_STAT_REL f = s.dev.rd RVE_FLOW_STAT_REL f) ∧
    (∀ f, x.req.flow = some f → flowAhead s.dev f x.fseq = 0 → s.dev.noOverride →
      Answers (.done c ok result) s fun e => ended e ∧ e.itemReleased i x status result.toNat asked ∧
        e.rd RVE_FLOW_STAT_REL f = (s.dev.rd RVE_FLOW_STAT_REL f + 1) % 2 ^ RVE_FLOW_STAT_REL.width)) ∧
  (∀ (s : State) (f : Fin 64), flowItems s.dev f (fun i => decide (i.state = .held ∧ flowAhead s.dev f i.fseq = 0)) = [] →
    Completes (.flowRelease f) s [] [] fun e => e.out = []) ∧
  (∀ (s : State) (f : Fin 64) (i : Nat) (r : List Nat) (x : RveItem),
    flowItems s.dev f (fun i => decide (i.state = .held ∧ flowAhead s.dev f i.fseq = 0)) = i :: r → itemOf s.dev i = some x → x.req.flow = some f →
    s.dev.noOverride →
    Completes (.flowRelease f) s
      [(RVE_FLOW_STAT_REL, f.val), (RVE_FLOW_STAT_HELD, f.val), (RVE_FLOW_STAT_BLOCKED, f.val), (RVE_CNT_FREE_ITEMS, 0), (RVE_STATUS_POOL_LOW, 0)]
      [.rve] fun e => e.itemReleased i x x.status x.result x.cancelReq ∧
        e.rd RVE_FLOW_STAT_REL f = (s.dev.rd RVE_FLOW_STAT_REL f + 1) % 2 ^ RVE_FLOW_STAT_REL.width) ∧
  (∀ (s : State) (c : Option (Fin 4)) (i : Fin 2048),
    let req := (c.map fun k => s.dev.cancelAsked k).getD false
    (itemOf s.dev i = none → Completes (.rveCancel c i) s [] [] fun e => e.out = [.reeve (c.map Fin.val) .notFound req]) ∧
    (∀ x, itemOf s.dev i = some x → x.state = .held →
      Completes (.rveCancel c i) s [] [] fun e => e.out = [.reeve (c.map Fin.val) .notFound req]) ∧
    (∀ x, itemOf s.dev i = some x → x.state = .queued → x.req.flow = none → s.dev.noOverride →
      Answers (.rveCancel c i) s fun e => .reeve (c.map Fin.val) .cancelled req ∈ e.out ∧ e.itemReleased i x 1 0 x.cancelReq ∧
        (taskOf e x.req.task).fifo = (taskOf s.dev x.req.task).fifo.filter fun j => decide (j ≠ i.val)) ∧
    (∀ x, itemOf s.dev i = some x → x.state = .slotted → x.req.flow = none → s.dev.noOverride →
      Answers (.rveCancel c i) s fun e => .reeve (c.map Fin.val) .cancelled req ∈ e.out ∧ e.itemReleased i x 1 0 x.cancelReq ∧
        (∀ k, k < 4 → x.req.task.val ∉ (coreOf e k).slots) ∧
        (if (taskOf s.dev x.req.task).fifo ≠ [] then s.dev.readied e x.req.task .item
          else if s.dev.rd RVE_TASK_STAT_SIGNAL x.req.task ≠ 0 then s.dev.readied e x.req.task .signal
          else e.rd RVE_TASK_STAT_STATE x.req.task = 1)) ∧
    (∀ x, itemOf s.dev i = some x → x.state = .running → s.dev.rd RVE_TASK_STAT_STATE x.req.task ≠ 5 →
      Completes (.rveCancel c i) s [(RVE_TASK_STAT_CANCEL_REQ, x.req.task.val)] [] fun e =>
        e.rd RVE_TASK_STAT_CANCEL_REQ x.req.task = 1 ∧ ∃ q, e.out = [.reeve (c.map Fin.val) .inProgress q]) ∧
    (∀ x, itemOf s.dev i = some x → x.state = .running → s.dev.rd RVE_TASK_STAT_STATE x.req.task = 5 → x.req.flow = none → s.dev.noOverride →
      Answers (.rveCancel c i) s fun e => .reeve (c.map Fin.val) .cancelled req ∈ e.out ∧ e.itemReleased i x 1 0 x.cancelReq ∧
        (taskOf e x.req.task).item = none))
/-! The Planner (chapter 07). `planReady s.dev a op = some (c, none)` says that the head command `c` of axis set `a` has opcode `op` and may be
planned now, with nothing running. -/

/-- Planning of moves (R210, R211, R216 to R222, R227, R228, R234): a joint move is planned from the planned end of every slot to its target with the
phases of the joint that needs the longest time, and its commit staged for the earliest frame, or as a blend of the longest overlap that keeps the
limits; a target outside Hedge ends it, and fields that no motion has; a Cartesian move ends PATH_TOO_LONG, IK_FAIL or as its preview finds, or is
staged with the joint states of its IK points, slowed by the smallest factors that keep the joint limits and the caps; a command that is not ready
plans nothing. Choices of the model in it: log entries 3, 8, 52, 53, 55, 57, 59, 60, 116, 123 and 124; entry 3 is each clause where nothing happens
because the event cannot occur. -/
def Obligations.PlannerMoves : Prop :=
  (∀ (s : State) (a : Fin 36), planReady s.dev a 0x10 = none → Completes (.moveJ a) s [] [] fun e => e.out = []) ∧
  (∀ (s : State) (a : Fin 36) (c : PlanCmd),
    planReady s.dev a 0x10 = some (c, none) → badFields s.dev a c = false → syncOf c = none → c.startAt = none → atFrame c = false →
    capOf s.dev a = none → (∀ t ∈ jointTargets s.dev a c, inHedge s.dev t.1 t.2 = true) →
    ∀ ph, jointPhases s.dev a c (f64Nat 1) (jointTargets s.dev a c) = some ph →
    let plan := jointPlan s.dev a c none ph (jointTargets s.dev a c)
    planClear s.dev a c plan = true → ∀ segs, withStops s.dev a plan.segs = some segs →
    Completes (.moveJ a) s [] [.pln] fun e => e.out = [] ∧ s.dev.staged e {
      fs := earliest s.dev
      parts := [{
        axset := a, kind := .start
        run := { cmd := c, start := earliest s.dev, zero := earliest s.dev, flags := if c.noBlend then 64 else 0
                 plan := { plan with segs := segs } } }] }) ∧
  (∀ (s : State) (a : Fin 36) (c : PlanCmd) (h : HostCmd), planReady s.dev a 0x10 = some (c, none) → (armOf s.dev a).queue = [c] → s.dev.pays c h →
    (badFields s.dev a c = true → Touches (.moveJ a) s (planViews ++ flightFields) [] [.pln, .host] ∧
      Answers (.moveJ a) s fun e => s.dev.headEnds e a h 0x10) ∧
    (badFields s.dev a c = false → (limitSetOf s.dev a c.limset).isSome = true → (∃ t ∈ jointTargets s.dev a c, inHedge s.dev t.1 t.2 = false) →
      Touches (.moveJ a) s (planViews ++ flightFields) [] [.pln, .host] ∧ Answers (.moveJ a) s fun e => s.dev.headEnds e a h 5)) ∧
  (∀ (s : State) (a : Fin 36) (c : PlanCmd) (r : Run), planReady s.dev a 0x10 = some (c, some r) → badFields s.dev a c = false →
    capOf s.dev a = none → (∀ t ∈ jointTargets s.dev a c, inHedge s.dev t.1 t.2 = true) →
    ∀ ph, jointPhases s.dev a c (f64Nat 1) (jointTargets s.dev a c) = some ph →
    let plan := jointPlan s.dev a c (some r) ph (jointTargets s.dev a c)
    let blend := fun (o : Nat) => blendJoints r.plan plan o c.rsn
    let top := r.plan.len - r.plan.decel
    planClear s.dev a c plan = true →
    (∀ o, 0 < o → o ≤ top → blendWithin s.dev a (blend o) = true →
      (∀ k, k ≤ top → o < k → blendWithin s.dev a (blend k) = false) → (atFrame c = true → o = top) → planClear s.dev a c (blend o) = true →
      ∀ segs, withStops s.dev a (blend o).segs = some segs →
      Completes (.moveJ a) s [] [.pln] fun e => e.out = [] ∧ s.dev.staged e {
        fs := frameAdd r.zero (r.plan.len - o), fixed := true
        parts := [{
          axset := a, kind := .blend
          run := { cmd := c, start := frameAdd r.zero (r.plan.len - o), zero := frameAdd r.zero (r.plan.len - o)
                   plan := { blend o with segs := segs } } }] }) ∧
    ((∀ k, k ≤ top → 0 < k → blendWithin s.dev a (blend k) = false) →
      Completes (.moveJ a) s [] [.pln] fun e => e.out = [] ∧ e.pln = { s.dev.pln with arms := e.pln.arms } ∧
        (armOf e a).queue.head? = some { c with noBlend := true })) ∧
  (∀ (s : State) (a : Fin 16) (cmd : Instr) (op : Nat),
    (cmd = .moveL a ∧ op = 0x11) ∨ (cmd = .moveC a ∧ op = 0x12) ∨ (cmd = .moveP a ∧ op = 0x13) →
    modelOf s.dev a = none ∨ (planReady s.dev a op = none ∧
      (armOf s.dev a).run.all (fun r => r.cmd.opcode != op || !tracks r.cmd || r.mode != .moving) = true) →
    Completes cmd s [] [] fun e => e.out = []) ∧
  (∀ (s : State) (a : Fin 16) (m : ArmModel) (cmd : Instr) (op : Nat) (c : PlanCmd), modelOf s.dev a = some m →
    (cmd = .moveL a ∧ op = 0x11) ∨ (cmd = .moveC a ∧ op = 0x12) ∨ (cmd = .moveP a ∧ op = 0x13) →
    planReady s.dev a op = some (c, none) →
    let job := (cartJob s.dev a m c none).1
    let ended := fun (h : HostCmd) (code : Nat) => Touches cmd s (planViews ++ flightFields) [] [.pln, .host] ∧
      Answers cmd s fun e => s.dev.headEnds e a h code
    (∀ h, (armOf s.dev a).queue = [c] → s.dev.pays c h →
      (badFields s.dev a c = true → ended h 0x10) ∧
      (badFields s.dev a c = false → job.tooLong s.dev 0 = true → ended h 0xA) ∧
      (badFields s.dev a c = false → job.tooLong s.dev 0 = false → confOk m c job.ends = false ∨ (job.motion s.dev 0 0).isNone = true →
        ended h 4) ∧
      (badFields s.dev a c = false → job.tooLong s.dev 0 = false → confOk m c job.ends = true → (limitSetOf s.dev a c.limset).isSome = true →
        ∀ x, job.motion s.dev 0 0 = some x → ∀ r, previewFails s.dev a m c x.xs = some r → ended h r.code)) ∧
    (badFields s.dev a c = false → syncOf c = none → c.startAt = none → atFrame c = false → waiting s.dev a = none → job.tooLong s.dev 0 = false →
      confOk m c job.ends = true → (limitSetOf s.dev a c.limset).isSome = true → ∀ free, job.motion s.dev 0 0 = some free →
      previewFails s.dev a m c free.xs = none →
      let k := job.slowed s.dev 0 0 (pointsWithin s.dev a)
      let kc := job.slowed s.dev 0 k fun xs => pointsWithin s.dev a xs && pointsCapped s.dev a xs
      job.tooLong s.dev kc = false → ∀ x, job.motion s.dev kc 0 = some x → ∀ segs, withStops s.dev a (job.plan s.dev x 0).segs = some segs →
      let counted : Dev := { s.dev with pln := { s.dev.pln with ikSolves := s.dev.pln.ikSolves + x.xs.length } }
      Completes cmd s [] [.pln] fun e => e.out = [] ∧ counted.staged e {
          fs := earliest s.dev
          parts := [{
            axset := a, kind := .start
            run := { cmd := c, start := earliest s.dev, zero := earliest s.dev, points := x.xs.length
                     flags := (if k = 0 then 0 else 32) + if c.noBlend then 64 else 0, plan := { job.plan s.dev x 0 with segs := segs }
                     track := if tracks c then some ((cartJob s.dev a m c none).2, x.ph.accel) else none } }] }))

/-- Couplings, zones, starts and ends of Planner commands (R212, R213, R235 to R237, R239, R241): GEAR_IN and CAM_IN of a follower at rest and
GEAR_OUT and CAM_OUT of a coupled one are staged with their descriptor, and end at once otherwise; zones are granted together, released, or waited for
no longer than ZONE_WAIT; SYNC groups and AT_FRAME starts are settled; a command ends at its end frame with its result. Choices of the model in it:
log entries 3, 59, 62 and 64; entry 3 is each clause where nothing happens because the event cannot occur. -/
def Obligations.PlannerCouplingsAndZones : Prop :=
  (∀ (s : State) (a : Fin 36) (c : PlanCmd) (j : Nat) (h : HostCmd), coupleSlot s.dev a c = some j → badFields s.dev a c = false →
    syncOf c = none → c.startAt = none → atFrame c = false →
    let coupled := fun (cmd : Instr) (x : Couple) => Completes cmd s [] [.pln] fun e => e.out = [] ∧ s.dev.staged e {
      fs := earliest s.dev
      parts := [{
        axset := a, kind := .start, couples := [(j, some x)]
        run := { cmd := c, start := earliest s.dev, zero := earliest s.dev, mode := .coupling, flags := if c.noBlend then 64 else 0 } }] }
    (planReady s.dev a 0x18 = some (c, none) → slotAtRest s.dev j = true → coupled (.gearIn a) {
      axset := a, master := bodyAt c.body 0x10, num := bodyInt c.body 0x14, den := body32 c.body 0x18, len := body32 c.body 0x1C }) ∧
    (planReady s.dev a 0x18 = some (c, none) → slotAtRest s.dev j = false → (armOf s.dev a).queue = [c] → s.dev.pays c h →
      Answers (.gearIn a) s fun e => s.dev.headEnds e a h 0xB) ∧
    (∀ x, planReady s.dev a 0x19 = some (c, none) → coupleOf s.dev j = some x → x.cam = none → imageAtRest s.dev x.master = false →
      coupled (.gearOut a) { x with leaving := some (body32 c.body 0x1C), outcome := none }) ∧
    (planReady s.dev a 0x1A = some (c, none) → (bodyAt c.body 0x13).testBit 0 = false → slotAtRest s.dev j = true → coupled (.camIn a) {
      axset := a, master := bodyAt c.body 0x10, cam := some (bodyAt c.body 0x12), mark := body32 c.body 0x14
      scale := f64OfRatio (bodyInt c.body 0x18) 65536, offset := bodyInt c.body 0x1C }) ∧
    (∀ x i l f, planReady s.dev a 0x1A = some (c, none) → (bodyAt c.body 0x13).testBit 0 = true → coupleOf s.dev j = some x → x.cam = some i →
      x.phase = .inForce → (camOf s.dev i).getLast? = some l → (camOf s.dev (bodyAt c.body 0x12)).head? = some f →
      l.y = f.y → l.y1 = f.y1 → l.y2 = f.y2 → coupled (.camIn a)
        { x with nextCam := some (bodyAt c.body 0x12, f64OfRatio (bodyInt c.body 0x18) 65536, bodyInt c.body 0x1C), outcome := none }) ∧
    (planReady s.dev a 0x1A = some (c, none) → (bodyAt c.body 0x13).testBit 0 = true → coupleOf s.dev j = none → (armOf s.dev a).queue = [c] →
      s.dev.pays c h → Answers (.camIn a) s fun e => s.dev.headEnds e a h 0xD) ∧
    (∀ x i, planReady s.dev a 0x1B = some (c, none) → coupleOf s.dev j = some x → x.cam = some i → imageAtRest s.dev x.master = false →
      coupled (.camOut a) { x with leaving := some 0, mark := body32 c.body 0x14, outcome := none }) ∧
    (coupleOf s.dev j = none → (armOf s.dev a).queue = [c] → s.dev.pays c h →
      (planReady s.dev a 0x19 = some (c, none) → Answers (.gearOut a) s fun e => s.dev.headEnds e a h 0) ∧
      (planReady s.dev a 0x1B = some (c, none) → Answers (.camOut a) s fun e => s.dev.headEnds e a h 0)) ∧
    (∀ x, coupleOf s.dev j = some x → imageAtRest s.dev x.master = true → (armOf s.dev a).queue = [c] → s.dev.pays c h →
      (planReady s.dev a 0x19 = some (c, none) → x.cam = none →
        Answers (.gearOut a) s fun e => s.dev.headEnds e a h 0 ∧ coupleOf e j = none) ∧
      (planReady s.dev a 0x1B = some (c, none) → x.cam ≠ none →
        Answers (.camOut a) s fun e => s.dev.headEnds e a h 0 ∧ coupleOf e j = none))) ∧
  (∀ (s : State) (a : Fin 36), planReady s.dev a 0x18 = none → Completes (.gearIn a) s [] [] fun e => e.out = []) ∧
  (∀ (s : State) (a : Fin 36), planReady s.dev a 0x19 = none → Completes (.gearOut a) s [] [] fun e => e.out = []) ∧
  (∀ (s : State) (a : Fin 36), planReady s.dev a 0x1A = none → Completes (.camIn a) s [] [] fun e => e.out = []) ∧
  (∀ (s : State) (a : Fin 36), planReady s.dev a 0x1B = none → Completes (.camOut a) s [] [] fun e => e.out = []) ∧
  (∀ (s : State) (a : Fin 16), planReady s.dev a 0x1C = none → Completes (.zoneRelease a) s [] [] fun e => e.out = []) ∧
  (∀ (s : State) (a : Fin 16) (c : PlanCmd) (h : HostCmd), planReady s.dev a 0x1C = some (c, none) → (armOf s.dev a).queue = [c] →
    s.dev.pays c h → badFields s.dev a c = false → waiting s.dev a = none → atFrame c = false → syncOf c = none →
    (∀ b, b < 16 → b ≠ a.val → s.dev.idleSet b) →
    Touches (.zoneRelease a) s (planViews ++ flightFields ++ [PLN_ZONE_OWNER]) [] [.pln, .host] ∧
    Answers (.zoneRelease a) s fun e => (armOf e a).queue = [] ∧ s.dev.completed e h { result := if c.noBlend then 64 else 0, fin := s.dev.frameNo } ∧
      ∀ z, z < 32 → e.rd PLN_ZONE_OWNER z =
        if (zoneRel c).testBit z ∧ s.dev.rd PLN_ZONE_OWNER z = a then 0x3F else s.dev.rd PLN_ZONE_OWNER z) ∧
  (∀ (s : State) (a : Fin 16) (c : PlanCmd) (f : Nat), planReady s.dev a 0x1C = some (c, none) → badFields s.dev a c = false →
    waiting s.dev a = none → atFrame c = true → syncOf c = none → c.startAt = some f →
    Completes (.zoneRelease a) s [] [.pln] fun e => e.out = [] ∧ s.dev.staged e {
      fs := f, fixed := true
      parts := [{ axset := a, kind := .start, run := { cmd := c, start := f, zero := f, flags := if c.noBlend then 64 else 0 } }] }) ∧
  (∀ (s : State) (a : Fin 16), waiting s.dev a = none → Completes (.zoneGrant a) s [] [] (fun e => e.out = []) ∧
    Completes (.zoneTimeout a) s [] [] (fun e => e.out = [])) ∧
  (∀ (s : State) (a : Fin 16) (c : PlanCmd), waiting s.dev a = some c → (∀ b, b < 16 → b ≠ a.val → s.dev.idleSet b) →
    (∀ z, z < 32 → (zoneReq c).testBit z = true → s.dev.rd PLN_ZONE_OWNER z = a ∨ s.dev.rd PLN_ZONE_OWNER z = 0x3F) →
    Touches (.zoneGrant a) s (planViews ++ [PLN_ZONE_OWNER]) [] [.pln] ∧
    Answers (.zoneGrant a) s fun e => e.out = [] ∧ (armOf e a).queue.head?.map (·.granted) = some true ∧
      ∀ z, z < 32 → e.rd PLN_ZONE_OWNER z = if (zoneReq c).testBit z then a.val else s.dev.rd PLN_ZONE_OWNER z) ∧
  (∀ (s : State) (a : Fin 16) (c : PlanCmd) (h : HostCmd) (t : Int), waiting s.dev a = some c → c.zoneSince = some t →
    let due := s.dev.rd PLN_CFG2_ZONE_WAIT ≠ 0 ∧ t + 1000000 * s.dev.rd PLN_CFG2_ZONE_WAIT < s.dev.tb.ext
    (¬ due → Completes (.zoneTimeout a) s [] [] fun e => e.out = []) ∧
    (due → (armOf s.dev a).queue = [c] → s.dev.pays c h →
      Touches (.zoneTimeout a) s (planViews ++ flightFields) [] [.pln, .host] ∧ Answers (.zoneTimeout a) s fun e => s.dev.headEnds e a h 8)) ∧
  (∀ (s : State) (tag : BitVec 16),
    Touches (.syncStart tag) s planViews [] [.pln] ∧
    Answers (.syncStart tag) s fun e => e.out = [] ∧ ∀ (a : Nat) (c : PlanCmd) (g : Nat × Nat),
      (a, c) ∈ syncHeads s.dev tag.toNat → syncOf c = some g →
      g.2 ≤ ((syncHeads s.dev tag.toNat).filter fun q => decide (syncOf q.2 = some g)).length →
      (armOf e a).queue.head? = some { c with synced := true }) ∧
  (∀ (s : State) (a : Fin 36) (c : PlanCmd) (rest : List PlanCmd) (f : Nat), (armOf s.dev a).run = none → (armOf s.dev a).queue = c :: rest →
    c.headAt = some f →
    (atFrame c = false ∨ c.startAt.isSome = true → Completes (.atFrameStart a) s [] [] fun e => e.out = []) ∧
    (atFrame c = true → c.startAt = none → 32 ≤ frameDiff (body32 c.body 0xC) f →
      Touches (.atFrameStart a) s planViews [] [.pln] ∧
      Answers (.atFrameStart a) s fun e => e.out = [] ∧ (armOf e a).queue = { c with startAt := some (body32 c.body 0xC) } :: rest) ∧
    (∀ h, atFrame c = true → c.startAt = none → frameDiff (body32 c.body 0xC) f < 32 → rest = [] → s.dev.pays c h →
      Answers (.atFrameStart a) s fun e => s.dev.headEnds e a h 9)) ∧
  (∀ (s : State) (a : Fin 36), (armOf s.dev a).run = none → Completes (.commandEndFrame a) s [] [] fun e => e.out = []) ∧
  (∀ (s : State) (a : Fin 36) (r : Run) (f : Nat) (h : HostCmd), (armOf s.dev a).run = some r → (armOf s.dev a).next = none →
    (armOf s.dev a).queue = [] → r.fin = some f → s.dev.pays r.cmd h →
    (frameDiff s.dev.frameNo f < 0 → r.mode ≠ .coupling → Touches (.commandEndFrame a) s planViews [] []) ∧
    (0 ≤ frameDiff s.dev.frameNo f → r.mode = .moving →
      Touches (.commandEndFrame a) s (planViews ++ flightFields ++ [PLN_ZONE_OWNER]) [] [.pln, .host] ∧
      Answers (.commandEndFrame a) s fun e => (armOf e a).run = none ∧
        s.dev.completed e h { result := r.flags, start := r.start, fin := f, data := bytesLE 4 r.points }) ∧
    (∀ code, 0 ≤ frameDiff s.dev.frameNo f → r.mode = .stopping code →
      Answers (.commandEndFrame a) s fun e => (armOf e a).run = none ∧
        (armOf e a).safety = ((armOf s.dev a).safety || decide (code = 2)) ∧ (armOf e a).drained = decide (code = 3) ∧
        s.dev.completed e h
          { result := if code ≤ 3 then code + r.flags else code, start := r.start, fin := f, data := bytesLE 4 r.points }) ∧
    (0 ≤ frameDiff s.dev.frameNo f → r.mode = .holding →
      Touches (.commandEndFrame a) s planViews [] [.pln] ∧
      Answers (.commandEndFrame a) s fun e => e.out = [] ∧ (armOf e a).run = some { r with mode := .held })) ∧
  (∀ (s : State) (a : Fin 36) (r n : Run) (f : Nat) (h : HostCmd), (armOf s.dev a).run = some r → (armOf s.dev a).next = some n →
    r.till.isSome = true → r.fin = some f → r.mode = .moving → 0 ≤ frameDiff s.dev.frameNo f → s.dev.pays r.cmd h →
    Answers (.commandEndFrame a) s fun e => (armOf e a).run = some n ∧ (armOf e a).next = none ∧ (armOf e a).queue = (armOf s.dev a).queue ∧
      s.dev.completed e h { result := r.flags, start := r.start, fin := f, data := bytesLE 4 r.points })

/-- Changes of a plan, tables and commits (R214, R215, R223 to R226, R232, R433): OVERRIDE, stops, holds, RESUME and caps act at once on an axis set
that is idle, and splice the running plan, along its path, at the earliest frame; a table replaces one not in use; QUERY_ARM answers the state shown;
a commit in time starts its command, a late one is flagged and planned again. Choices of the model in it: log entries 3, 52 to 54, 56, 61, 63 to 65,
115, 116, 124 and 126; entry 3 is each clause where nothing happens because the event cannot occur. -/
def Obligations.PlannerChanges : Prop :=
  (∀ (s : State) (sq : Fin 17) (rsn : Word32) (c : HostCmd), s.dev.owes sq rsn.toNat 0x20 c →
    let a := bodyAt c.body 0
    (armOf s.dev a).run = none →
    Touches (.override sq rsn) s (planViews ++ flightFields) [] [.pln, .host] ∧
    Answers (.override sq rsn) s fun e => s.dev.completed e c {} ∧
      (armOf e a).queue = (armOf s.dev a).queue.map fun p =>
        { p with
          pct := if (bodyAt c.body 1).testBit 0 then bodyAt c.body 2 else p.pct
          limset := if (bodyAt c.body 1).testBit 1 then bodyAt c.body 3 else p.limset }) ∧
  (∀ (s : State) (sq : Fin 17) (rsn : Word32) (c : HostCmd), s.dev.owes sq rsn.toNat 0x21 c →
    let a := bodyAt c.body 0
    (bodyAt c.body 1 ≠ 0 → Completes (.stopAndFlush sq rsn) s [] [] fun e => e.out = []) ∧
    (bodyAt c.body 1 ≠ 1 → Completes (.feedHold sq rsn) s [] [] fun e => e.out = []) ∧
    (bodyAt c.body 1 ≠ 2 → Completes (.resume sq rsn) s [] [] fun e => e.out = []) ∧
    (∀ p h, bodyAt c.body 1 = 0 → (armOf s.dev a).run = none → (armOf s.dev a).next = none → (armOf s.dev a).queue = [p] → s.dev.pays p h →
      h.sq ≠ c.sq →
      Touches (.stopAndFlush sq rsn) s (planViews ++ flightFields ++ [PLN_ZONE_OWNER]) [] [.pln, .host] ∧
      Answers (.stopAndFlush sq rsn) s fun e => (armOf e a).queue = [] ∧ inFlight e c.sq c.rsn = none ∧ inFlight e p.sq p.rsn = none ∧
        (h.sq < 16 → ∃ y ∈ SMap.get [] e.host.store h.sq, y.rsn = h.rsn ∧ y.entry = cqeBytes s.dev h { result := 1 })) ∧
    (bodyAt c.body 1 = 1 → (armOf s.dev a).run = none →
      Touches (.feedHold sq rsn) s (planViews ++ flightFields) [] [.host] ∧ Answers (.feedHold sq rsn) s fun e => s.dev.completed e c {}) ∧
    (bodyAt c.body 1 = 2 → (armOf s.dev a).run = none →
      Touches (.resume sq rsn) s (planViews ++ flightFields) [] [.host] ∧
      Answers (.resume sq rsn) s fun e => s.dev.completed e c { result := 0xE })) ∧
  (∀ (s : State) (cmd : Instr) (sq : Fin 17) (rsn : Word32) (c : HostCmd) (r : Run) (mode : RunMode),
    (cmd = .stopAndFlush sq rsn ∧ mode = .stopping 1 ∧ bodyAt c.body 1 = 0) ∨ (cmd = .feedHold sq rsn ∧ mode = .holding ∧ bodyAt c.body 1 = 1) →
    s.dev.owes sq rsn.toNat 0x21 c →
    let a := bodyAt c.body 0
    (armOf s.dev a).run = some r → r.mode = .moving → (armOf s.dev a).next = none → (armOf s.dev a).queue = [] → stagedSplice s.dev a = none →
    ∀ x, spliceBase s.dev a = some x → ∀ p, x.splice s.dev a true true = some p → p.clamped = false →
    Touches cmd s planViews [] [.pln, .host] ∧
    Answers cmd s fun e => e.out = [] ∧ inFlight e c.sq c.rsn = (inFlight s.dev c.sq c.rsn).map (fun y => { y with begun := true }) ∧
      ({ fs := x.fs, fixed := true
         parts := [{
           axset := a, kind := .splice, answer := [(c.sq, c.rsn)]
           run := { r with plan := p.plan, zero := x.fs, written := 0, fin := none, till := none, mode := mode, track := none
                           flags := if p.scaled then withFlag r.flags 5 else r.flags
                           hold := if mode = .holding then some (x.base, p.ends, x.split) else none } }] } : Commit) ∈ e.pln.staged) ∧
  (∀ (s : State) (sq : Fin 17) (rsn : Word32) (c : HostCmd) (r : Run) (base : Plan) (at' : F64),
    s.dev.owes sq rsn.toNat 0x21 c → bodyAt c.body 1 = 2 →
    let a := bodyAt c.body 0
    let k := pathTime base.path at' 64 f64Zero (f64Nat base.len)
    (armOf s.dev a).run = some r → r.mode = .held → r.hold = some (base, at', none) → (armOf s.dev a).next = none → stagedSplice s.dev a = none →
    let x : SpliceBase := ⟨r, none, base, none, earliest s.dev, (f64Floor k).toNat, (at', f64Zero, f64Zero)⟩
    ∀ p, x.splice s.dev a false false = some p → p.clamped = false →
    Touches (.resume sq rsn) s planViews [] [.pln, .host] ∧
    Answers (.resume sq rsn) s fun e => e.out = [] ∧
      inFlight e c.sq c.rsn = (inFlight s.dev c.sq c.rsn).map (fun y => { y with begun := true }) ∧ s.dev.staged e {
        fs := earliest s.dev, fixed := true
        parts := [{
          axset := a, kind := .splice, answer := [(c.sq, c.rsn)]
          run := { r with plan := p.plan, zero := earliest s.dev, written := 0, fin := none, till := none, mode := .moving, hold := none
                          flags := if p.scaled then withFlag r.flags 5 else r.flags, track := none } }] }) ∧
  (∀ (s : State) (a : Fin 32),
    let caps := SMap.set none s.dev.pln.caps a (capOf s.dev a)
    let shown : Dev := { s.dev with pln := { s.dev.pln with caps := caps } }
    ((armOf s.dev a).run = none →
      Touches (.speedCap a) s planViews [] [.pln] ∧
      Answers (.speedCap a) s fun e => e.out = [] ∧ e.pln = { s.dev.pln with caps := caps } ∧
        e.rd PLN_ARM_STAT_CAPPED a = bitOf (capOf s.dev a).isSome) ∧
    (∀ r, (armOf s.dev a).run = some r → r.mode = .moving → (armOf s.dev a).next = none → stagedSplice s.dev a = none →
      ∀ x, spliceBase s.dev a = some x → f64Lt (slack (f64Nat 1)) (planOver s.dev a x.base x.frame) = true →
      ∀ p, x.splice s.dev a true false = some p → p.clamped = false →
      Touches (.speedCap a) s planViews [] [.pln] ∧
      Answers (.speedCap a) s fun e => e.out = [] ∧ shown.staged e {
        fs := x.fs, fixed := true
        parts := [{
          axset := a, kind := .splice
          run := { r with plan := p.plan, zero := x.fs, written := 0, fin := none, till := none, hold := none
                          flags := if p.scaled then withFlag r.flags 5 else r.flags } }] })) ∧
  (∀ (s : State) (a : Fin 32), setStopped s.dev a = false → Completes (.safetyStopDecision a) s [] [] fun e => e.out = []) ∧
  (∀ (s : State) (a : Fin 32) (p : PlanCmd) (h : HostCmd), setStopped s.dev a = true → (armOf s.dev a).run = none →
    (armOf s.dev a).next = none → (armOf s.dev a).queue = [p] → s.dev.pays p h → (∀ j ∈ slotsOf s.dev a, coupleOf s.dev j = none) →
    Touches (.safetyStopDecision a) s (planViews ++ flightFields ++ [PLN_ZONE_OWNER]) [] [.pln, .host] ∧
    Answers (.safetyStopDecision a) s fun e => s.dev.headEnds e a h 2 ∧ (armOf e a).safety = true) ∧
  (∀ (s : State) (sq : Fin 17) (rsn : Word32) (bytes : List Byte) (c : HostCmd), s.dev.owes sq rsn.toNat 0x28 c →
    let kind := bodyAt c.body 0
    let i := bodyAt c.body 1
    let good := bytes.length = body32 c.body 4 ∧ crc32c bytes = body32 c.body 0x10 ∧ tableGood s.dev kind i bytes = true
    (tableInUse s.dev kind i = true → Touches (.loadTable sq rsn bytes) s flightFields [] [.host] ∧
      Answers (.loadTable sq rsn bytes) s fun e => s.dev.completed e c { result := 0xF }) ∧
    (tableInUse s.dev kind i = false → ¬ good → Touches (.loadTable sq rsn bytes) s flightFields [] [.host] ∧
      Answers (.loadTable sq rsn bytes) s fun e => s.dev.completed e c { result := 0x10 }) ∧
    (tableInUse s.dev kind i = false → good → Touches (.loadTable sq rsn bytes) s (planViews ++ flightFields) [] [.pln, .host] ∧
      Answers (.loadTable sq rsn bytes) s fun e => s.dev.completed e c {} ∧
        e.pln = { s.dev.pln with
          models := if kind = 1 then e.pln.models else s.dev.pln.models, limits := if kind = 2 then e.pln.limits else s.dev.pln.limits
          paths := if kind = 3 then e.pln.paths else s.dev.pln.paths, cams := if kind = 4 then e.pln.cams else s.dev.pln.cams
          zones := if kind = 5 then zonesOfBytes bytes else s.dev.pln.zones } ∧
        (kind = 1 → SMap.get none e.pln.models i = some (modelOfBytes bytes)) ∧
        (kind = 2 → SMap.get [] e.pln.limits i = (List.range 16).map fun k => limitsOfBytes (bytes.drop (64 * k))) ∧
        (kind = 3 → SMap.get [] e.pln.paths i =
          (List.range (bytes.length / 24)).map fun k => (v3At bytes (24 * k), v3At bytes (24 * k + 12))) ∧
        (kind = 4 → SMap.get [] e.pln.cams i = bytes))) ∧
  (∀ (s : State) (sq : Fin 17) (rsn : Word32) (c : HostCmd), s.dev.owes sq rsn.toNat 0x30 c →
    let a := bodyAt c.body 0
    Touches (.queryArm sq rsn) s (planViews ++ flightFields) [] [.host] ∧
    Answers (.queryArm sq rsn) s fun e => e.rd PLN_ARM_STAT_STATE a = stateOf s.dev a ∧ e.rd PLN_ARM_ZONES_HELD a = zonesHeld s.dev a ∧
      s.dev.completed e c {
        query := bytesLE 4 (e.rd PLN_ARM_STAT_STATE a + 2 ^ 4 * e.rd PLN_ARM_STAT_QUEUED a + 2 ^ 16 * e.rd PLN_ARM_STAT_DECEL_CLAMPED a +
            2 ^ 17 * e.rd PLN_ARM_STAT_DRAINED a + 2 ^ 18 * e.rd PLN_ARM_STAT_STORE_LOW a + 2 ^ 19 * e.rd PLN_ARM_STAT_CAPPED a +
            2 ^ 24 * e.rd PLN_ARM_STAT_COUPLED a) ++
          bytesLE 4 (e.rd PLN_ARM_ZONES_HELD a) ++ bytesLE 4 (e.rd PLN_ARM_ZWAIT_REQ a) ++ bytesLE 4 (e.rd PLN_ARM_DEPTH_FRAMES a) ++
          (List.range 8).flatMap fun i => match (slotsOf s.dev a)[i]? with
            | some j => bytesLE 4 (fieldOf 32 (saturate 32 (f64RoundAway (plannedEnd s.dev a j))))
            | none => bytesLE 4 0 }) ∧
  (∀ (s : State) (k : Commit) (p : CommitPart), s.dev.pln.staged = [k] → commitReady s.dev k = true → k.parts = [p] → p.kind = .start →
    p.couples = [] → p.answer = [] → p.axset < 36 →
    let shown := planViews ++ [PLN_ARM_STAT_STORE_LOW, PLN_STATUS_STORE_LOW, PLN_ZONE_OWNER] ++ recordFields
    (0 ≤ frameDiff k.fs (earliest s.dev) →
      Touches .plannerCommit s shown [] [.pln, .log] ∧
      Answers .plannerCommit s fun e => e.out = [] ∧ e.pln.staged = [] ∧ (armOf e p.axset).queue = (armOf s.dev p.axset).queue.drop 1 ∧
        (armOf e p.axset).drained = false ∧ ∃ r, (armOf e p.axset).run = some r ∧ r.cmd = p.run.cmd ∧ r.start = k.fs ∧ r.zero = k.fs ∧
          r.plan = p.run.plan ∧ r.mode = p.run.mode) ∧
    (frameDiff k.fs (earliest s.dev) < 0 → k.fixed = false → p.run.track = none → (∀ b, b < 16 → (waiting s.dev b).isNone = true) →
      Touches .plannerCommit s (shown ++ [PLN_STATUS_COMMIT_LATE]) [] [.pln, .log] ∧
      Answers .plannerCommit s fun e => e.out = [] ∧ e.rd PLN_STATUS_COMMIT_LATE = 1 ∧ e.pln.staged = [{ k with fs := earliest s.dev }]) ∧
    (∀ c h, frameDiff k.fs (earliest s.dev) < 0 → k.fixed = true → (armOf s.dev p.axset).queue = [c] → s.dev.pays c h →
      Answers .plannerCommit s fun e => e.rd PLN_STATUS_COMMIT_LATE = 1 ∧ e.pln.staged = [] ∧ s.dev.headEnds e p.axset h 9)) ∧
  (∀ s : State, s.dev.pln.staged = [] → (∀ b, b < 16 → (waiting s.dev b).isNone = true) →
    (∀ a, a < 36 → (armOf s.dev a).next = none ∧ (armOf s.dev a).run = none ∧ (armOf s.dev a).low = false) →
    Touches .plannerCommit s planViews [] [] ∧ Answers .plannerCommit s fun e => e.out = [])

/-! Groups (chapter 16). -/

/-- Cycles and frames of a group (R467, R469 to R472, R474, R476). At a cycle start a member counts a missing steward frame; a Steward sends its
steward frame of 128 bytes, sets G no less restrictive than every present local state, a missing slot, its parent group, or G before unless R476
lowers it; a member frame goes out in the middle of the cycle; frames of a wrong GROUP_ID or length are counted; a steward frame is followed, with
Quarantine for another FRAME_NO, another firmware or a QUAR bit; the stamps of consecutive cycles give path delay and offset (R468); a Steward keeps
its role against a higher slot and yields to a lower one (R478); a Steward or Deputy records member frames. Choices of the model in it: log entries 3,
75 to 79, 82, 130 and 134; entry 3 is each clause where nothing happens because the event cannot occur. -/
def Obligations.GroupFrames : Prop :=
  (∀ (s : State) (l : Fin 5), ¬ s.dev.cycleDue l → Completes (.groupCycleStart l) s [] [] fun e => e.out = []) ∧
  (∀ (s : State) (l : Fin 5), s.dev.cycleDue l → (levelOf s.dev l).role ≤ 2 →
    Touches (.groupCycleStart l) s (groupViews ++ [GRP_CNT0_FRAMES_LOST]) [] [.tb, .grp] ∧
    Answers (.groupCycleStart l) s fun e => e.out = [] ∧
      levelOf e l = { levelOf s.dev l with
        cycle := some s.dev.frameNo, role := max 1 (levelOf s.dev l).role, heard := false
        quiet := if (levelOf s.dev l).heard then 0 else (levelOf s.dev l).quiet + 1 } ∧
      e.rd GRP_CNT0_FRAMES_LOST = if (levelOf s.dev l).heard = false ∧ (levelOf s.dev l).role = 2 then s.dev.countUp GRP_CNT0_FRAMES_LOST
        else s.dev.rd GRP_CNT0_FRAMES_LOST) ∧
  (∀ (s : State) (l : Fin 5), s.dev.cycleDue l → 4 ≤ (levelOf s.dev l).role →
    Touches (.groupCycleStart l) s (groupViews ++ recordFields ++ [GRP_CNT0_FRAMES_LOST]) [] [.tb, .log, .grp] ∧
    Answers (.groupCycleStart l) s fun e =>
      (∃ bs, e.out = [.groupFrame (sectionOf s.dev l).mac groupSource bs] ∧ bs.length = 128 ∧ bs.head? = some 1 ∧
        bs = framePayload e l 1 (slotBits e l (slotPresent e l)) (slotBits e l fun m => (memberOf e l m).quar)
          ((levelOf e l).deputy.getD 128) (levelOf s.dev l).txStw ((List.range 8).map fun m => (memberOf e l m).rx.getD 0)) ∧
      (levelOf e l).cycle = some s.dev.frameNo ∧
      (∀ m ∈ usedSlots s.dev l, m ≠ ownSlot s.dev l → memberOf e l m = { memberOf s.dev l m with
        heard := false, silent := if (memberOf s.dev l m).heard then 0 else (memberOf s.dev l m).silent + 1 }) ∧
      (∀ m ∈ usedSlots s.dev l, m ≠ ownSlot s.dev l → (memberOf s.dev l m).present = true → (memberOf s.dev l m).quar = false →
        (memberOf s.dev l m).state ≤ (levelOf e l).g) ∧
      (∀ m ∈ usedSlots s.dev l, m ≠ ownSlot s.dev l → (memberOf s.dev l m).present = false → 1 ≤ (levelOf e l).g) ∧
      (ownSlot s.dev l ∈ usedSlots s.dev l → groupReported s.dev l ≤ (levelOf e l).g) ∧ parentG s.dev l ≤ (levelOf e l).g ∧
      ((levelOf e l).g < (levelOf s.dev l).g → (levelOf s.dev l).granted = true ∧ (levelOf s.dev l).partition = false ∧
        1 ≤ (levelOf s.dev l).calm ∧ (usedSlots s.dev l).all (slotPresent s.dev l) = true ∧ (rawState s.dev l).1 = 0)) ∧
  (∀ (s : State) (l : Fin 5), atLevel s.dev l = false ∨ s.dev.tb.ticking = false ∨
      s.dev.frameNo % max 1 (sectionOf s.dev l).gcyc ≠ max 1 (sectionOf s.dev l).gcyc / 2 ∨ (levelOf s.dev l).sentIn = some s.dev.frameNo ∨
      (levelOf s.dev l).role = 0 ∨ 4 ≤ (levelOf s.dev l).role →
    Completes (.memberFrameSend l) s [] [] fun e => e.out = []) ∧
  (∀ (s : State) (l : Fin 5), atLevel s.dev l = true → s.dev.tb.ticking = true →
    s.dev.frameNo % max 1 (sectionOf s.dev l).gcyc = max 1 (sectionOf s.dev l).gcyc / 2 → (levelOf s.dev l).sentIn ≠ some s.dev.frameNo →
    1 ≤ (levelOf s.dev l).role → (levelOf s.dev l).role ≤ 3 →
    Completes (.memberFrameSend l) s [] [.tb, .grp] fun e => (levelOf e l).sentIn = some s.dev.frameNo ∧
      ∃ bs, e.out = [.groupFrame (sectionOf s.dev l).mac groupSource bs] ∧ bs.length = 128 ∧
        bs = framePayload s.dev l 2 0 0 0 ((levelOf s.dev l).txMem.getD 0) [(levelOf s.dev l).rxStw.getD 0] ∧
        bs.take 13 = bytesLE 1 2 ++ bytesLE 1 l ++ bytesLE 1 (ownSlot s.dev l) ++
          bytesLE 1 (bitOf (decide ((levelOf s.dev l).role = 3)) + 4 * bitOf (levelOf s.dev l).quarantined +
            8 * bitOf (decide (s.dev.rd BLF_CFG_SOURCE = 3) && decide (timeState s.dev = .slewing)) +
            16 * bitOf (decide (2 ≤ (levelOf s.dev l).role))) ++
          bytesLE 4 (sectionOf s.dev l).groupId ++ bytesLE 4 (groupFrameNo s.dev l) ++ bytesLE 1 (groupReported s.dev l)) ∧
  (∀ (s : State) (f : GroupFrame) (x : GroupEntry), levelOfGroup s.dev f.groupId = none → levelOfGroup s.dev x.groupId = none →
    ∀ c ∈ [Instr.stewardFrameReceived f, .memberFrameReceived f, .groupCommandFrame x, .groupCompletionFrame x],
      Completes c s [(GRP_CNT0_FRAMES_BAD, 0)] [] fun e => e.out = [] ∧ e.rd GRP_CNT0_FRAMES_BAD = s.dev.countUp GRP_CNT0_FRAMES_BAD) ∧
  (∀ (s : State) (f : GroupFrame) (x : GroupEntry) (l : Nat), levelOfGroup s.dev f.groupId = some l → levelOfGroup s.dev x.groupId = some l →
    f.length ≠ 128 ∨ levelGood s.dev l f.slot f.level = false → x.length ≠ 128 ∨ levelGood s.dev l x.slot x.level = false →
    (levelOf s.dev l).role < 3 →
    ∀ c ∈ [Instr.stewardFrameReceived f, .memberFrameReceived f, .groupCommandFrame x, .groupCompletionFrame x],
      Completes c s [(GRP_CNT0_FRAMES_BAD, 0)] [] fun e => e.out = [] ∧ e.rd GRP_CNT0_FRAMES_BAD = s.dev.countUp GRP_CNT0_FRAMES_BAD) ∧
  (∀ (s : State) (f : GroupFrame) (l : Nat), levelOfGroup s.dev f.groupId = some l → f.length ≠ 128 → f.slot < 8 →
    3 ≤ (levelOf s.dev l).role → ∀ c ∈ [Instr.stewardFrameReceived f, .memberFrameReceived f],
      Completes c s [(GRP_CNT0_FRAMES_BAD, 0), (GRP_MEM_CNT_BAD, f.slot)] [] fun e => e.out = [] ∧
        e.rd GRP_CNT0_FRAMES_BAD = s.dev.countUp GRP_CNT0_FRAMES_BAD ∧
        e.rd GRP_MEM_CNT_BAD f.slot = s.dev.countUp GRP_MEM_CNT_BAD f.slot) ∧
  (∀ (s : State) (f : GroupFrame) (l : Nat), s.dev.hears f.groupId f.slot f.level f.length l → 1 ≤ (levelOf s.dev l).role →
    (levelOf s.dev l).role ≤ 3 →
    (∀ m, (levelOf s.dev l).stw = some m → f.slot ≤ m ∨ ((levelOf s.dev l).heard = false ∧ (levelOf s.dev l).quiet ≠ 0)) →
    Touches (.stewardFrameReceived f) s
      (groupViews ++ recordFields ++ [GRP_STATUS_DIGEST_MISMATCH, GRP_STATUS_VERSION_MISMATCH]) [] [.tb, .log, .grp] ∧
    Answers (.stewardFrameReceived f) s fun e =>
      let x := levelOf e l
      ((∀ k, k < 8 → (ttOut s.dev k).pulseEnd = none) → e.out = []) ∧
      (∀ t2 t3 t4, (levelOf s.dev l).rxStw = some t2 → (levelOf s.dev l).txMem = some t3 → f.tRx.getD (ownSlot s.dev l) 0 = t4 → t4 ≠ 0 →
        t4 ≠ (levelOf s.dev l).seen → f.frameNo = ((levelOf s.dev l).stwFrame + (sectionOf s.dev l).gcyc) % 2 ^ 32 →
        x.path = (fourStamps f.tPrev t2 t3 t4).1 ∧
        (s.dev.rd BLF_CFG_SOURCE = 3 → e.tb.groupOffset = some (fourStamps f.tPrev t2 t3 t4).2)) ∧
      x.stw = some f.slot ∧ x.heard = true ∧ x.quiet = 0 ∧ x.g = f.gstate ∧ x.stewardLost = false ∧ x.stwFw = f.fw ∧
      x.deputy = (if f.deputySlot.testBit 7 then none else some (f.deputySlot % 8)) ∧
      x.rxStw = some (ptpRxStamp s.dev 0) ∧ x.align = (if frameLag e l f = 0 then none else some (frameLag e l f)) ∧
      (2 ≤ (levelOf s.dev l).role → x.role = if x.deputy = some (ownSlot s.dev l) then 3 else 2) ∧
      (2 ≤ (levelOf s.dev l).role → (levelOf s.dev l).quarantined = false →
        f.frameNo ≠ groupFrameNo s.dev l ∨ f.fw ≠ s.dev.rd SYS_FW_VERSION_CODE ∨ f.quar.testBit (ownSlot s.dev l) = true →
        s.dev.rd PWR_STATUS_SHARED_UP ≠ 0 → x.quarantined = true ∧ e.rd GRP_STATUS_QUARANTINED = 1 ∧
          e.logged .GRP_QUARANTINE srcGroup (ownSlot s.dev l) l ∧ (∀ k, k < 8 → (ttOut e k).pulseEnd = none) ∧
          (f.fw ≠ s.dev.rd SYS_FW_VERSION_CODE → e.rd GRP_STATUS_VERSION_MISMATCH = 1))) ∧
  (∀ (s : State) (f : GroupFrame) (l : Nat), s.dev.hears f.groupId f.slot f.level f.length l → 4 ≤ (levelOf s.dev l).role →
    ownSlot s.dev l < f.slot →
    Touches (.stewardFrameReceived f) s groupViews [] [.grp] ∧
    Answers (.stewardFrameReceived f) s fun e => levelOf e l = { levelOf s.dev l with partition := false }) ∧
  (∀ (s : State) (f : GroupFrame) (l : Nat), s.dev.hears f.groupId f.slot f.level f.length l → 4 ≤ (levelOf s.dev l).role →
    f.slot < ownSlot s.dev l →
    Touches (.stewardFrameReceived f) s (groupViews ++ recordFields) [] [.tb, .log, .grp] ∧
    Answers (.stewardFrameReceived f) s fun e =>
      let x := levelOf e l
      x.stw = some f.slot ∧ x.g = f.gstate ∧ x.partition = false ∧ x.members = [] ∧ x.role ≤ 3 ∧ 1 ≤ x.role ∧
      (∀ k, l < k → levelOf e k = levelOf { s.dev with grp := {} } k)) ∧
  (∀ (s : State) (f : GroupFrame) (l : Nat), s.dev.hears f.groupId f.slot f.level f.length l → (levelOf s.dev l).role < 3 →
    Completes (.memberFrameReceived f) s [] [] fun e => e.out = []) ∧
  (∀ (s : State) (f : GroupFrame) (l : Nat), s.dev.hears f.groupId f.slot f.level f.length l → 3 ≤ (levelOf s.dev l).role →
    Touches (.memberFrameReceived f) s groupViews [] [.grp] ∧
    Answers (.memberFrameReceived f) s fun e => e.out = [] ∧
      let m := memberOf e l f.slot
      m.present = f.flags.testBit 4 ∧ m.joined = f.flags.testBit 4 ∧ m.quar = f.flags.testBit 2 ∧ m.slew = f.flags.testBit 3 ∧
      m.state = f.gstate ∧ m.heard = true ∧ m.silent = 0 ∧ m.rx = some (ptpRxStamp s.dev 0) ∧ m.digest = f.digest ∧ m.fw = f.fw ∧
      m.frame = f.frameNo ∧ ∀ k, k ≠ f.slot → memberOf e l k = memberOf s.dev l k)

/-- Commands, election, losses, partition, alignment and Quarantine of a group (R469, R471, R473, R477, R478, R482, Table 16-4): a forwarded command
runs without a second judgement and a changed condition answers it; a completion frame completes the Steward's command; a listening eligible device
that hears no Steward becomes Steward; a lost member is flagged and its commands end FLUSHED; a member without Steward takes STOP and a Deputy acts;
the frame number takes the Steward's count; Quarantine ends after 2 matching cycles, or at once by REJOIN. Choices of the model in it: log entries 3
and 78 to 82; entry 3 is each clause where nothing happens because the event cannot occur. -/
def Obligations.GroupCommandsAndLosses : Prop :=
  (∀ (s : State) (f : GroupEntry) (l : Nat), s.dev.hears f.groupId f.slot f.level f.length l →
    ((levelOf s.dev l).role ≠ 2 ∧ (levelOf s.dev l).role ≠ 3) ∨ (levelOf s.dev l).stw ≠ some f.slot →
    Completes (.groupCommandFrame f) s [] [] fun e => e.out = []) ∧
  (∀ (s : State) (f : GroupEntry) (l op cls : Nat), s.dev.hears f.groupId f.slot f.level f.length l →
    (levelOf s.dev l).role = 2 ∨ (levelOf s.dev l).role = 3 → (levelOf s.dev l).stw = some f.slot → f.entry.length = 64 →
    op = bodyAt f.entry 0 → classOf op = some cls → inFlight s.dev 16 f.tag.toNat = none → stewards s.dev = 0 →
    let c : HostCmd :=
      { sq := 16, rsn := f.tag.toNat, opcode := op, cls := cls, admitAt := s.dev.frameNo, body := f.entry.drop 16 }
    (cls ≠ 0 → indexByte op f.entry = none →
      Completes (.groupCommandFrame f) s [(GRP_CNT1_FORWARDED, 0)] [.host] fun e => e.out = [] ∧
        e.rd GRP_CNT1_FORWARDED = s.dev.countUp GRP_CNT1_FORWARDED ∧ e.host = { s.dev.host with flight := s.dev.host.flight ++ [c] }) ∧
    (cls = 0 → setStopped s.dev (axsetOf (f.entry.drop 16)) = true →
      Touches (.groupCommandFrame f) s (flightFields ++ [GRP_CNT1_FORWARDED]) [] [.host] ∧
      Answers (.groupCommandFrame f) s fun e => s.dev.completed e c { result := 2 } ∧
        e.rd GRP_CNT1_FORWARDED = s.dev.countUp GRP_CNT1_FORWARDED ∧ e.host.flight = s.dev.host.flight)) ∧
  (∀ (s : State) (f : GroupEntry) (l : Nat) (c : HostCmd) (p : FwdPart), s.dev.hears f.groupId f.slot f.level f.length l →
    4 ≤ (levelOf s.dev l).role →
    s.dev.host.flight.find? (fun c => c.parts.any fun p => decide (p.tag = f.tag.toNat ∧ p.done = false)) = some c → c.parts = [p] →
    p.bits = [] → c.own = false → c.answer = none → bodyAt f.entry 5 ≠ 0x30 →
    Touches (.groupCompletionFrame f) s flightFields [] [.host] ∧
    Answers (.groupCompletionFrame f) s fun e => s.dev.completed e c
      { status := bodyAt f.entry 6, reason := bodyAt f.entry 0xA, result := body32 f.entry 0x10, start := body32 f.entry 0x18
        fin := body32 f.entry 0x1C, data := f.entry.drop 0x20 }) ∧
  (∀ (s : State) (l : Fin 5), (levelOf s.dev l).role ≠ 1 ∨ (levelOf s.dev l).quiet < (sectionOf s.dev l).lossCyc →
    Completes (.stewardElection l) s [] [] fun e => e.out = []) ∧
  (∀ (s : State) (l : Fin 5), atLevel s.dev l = true → (levelOf s.dev l).role = 1 →
    (slotAt s.dev l (ownSlot s.dev l)).eligible = true →
    (1 + ownSlot s.dev l) * (sectionOf s.dev l).lossCyc ≤ (levelOf s.dev l).quiet → s.dev.rd PWR_STATUS_SHARED_UP ≠ 0 →
    Touches (.stewardElection l) s (groupViews ++ recordFields) [] [.log, .grp] ∧
    Answers (.stewardElection l) s fun e => e.logged .GRP_STEWARD srcGroup (ownSlot s.dev l) l ∧
      levelOf e l = { levelOf s.dev l with role := 4, stw := none, stewardLost := false, align := none, members := [] }) ∧
  (∀ (s : State) (l : Fin 5) (m : Fin 8), (levelOf s.dev l).role < 4 ∨ (memberOf s.dev l m).present = false ∨
      (memberOf s.dev l m).silent < (sectionOf s.dev l).lossCyc →
    Completes (.grpMemberLost l m) s [] [] fun e => e.out = []) ∧
  (∀ (s : State) (l : Fin 5) (m : Fin 8), atLevel s.dev l = true → 4 ≤ (levelOf s.dev l).role → (memberOf s.dev l m).present = true →
    (sectionOf s.dev l).lossCyc ≤ (memberOf s.dev l m).silent → s.dev.rd PWR_STATUS_SHARED_UP ≠ 0 →
    Touches (.grpMemberLost l m) s
      (groupViews ++ recordFields ++ flightFields ++ [GRP_STATUS_MEMBER_LOST, GRP_STATUS_PARTITION, GRP_CNT1_PARTITIONS]) [] [.log, .host, .grp] ∧
    Answers (.grpMemberLost l m) s fun e =>
      memberOf e l m = { memberOf s.dev l m with present := false, joined := false } ∧ e.rd GRP_STATUS_MEMBER_LOST = 1 ∧
      (l.val = 0 → e.rd GRP_MEM_STAT_LOST m = 1) ∧
      ((levelOf s.dev l).deputy ≠ some m.val → e.logged .GRP_MEMBER_LOST srcGroup m l) ∧
      ((levelOf s.dev l).deputy = some m.val → (levelOf s.dev l).partition = false → (levelOf e l).partition = true ∧
        1 ≤ (levelOf e l).g ∧ e.rd GRP_STATUS_PARTITION = 1 ∧ e.rd GRP_CNT1_PARTITIONS = s.dev.countUp GRP_CNT1_PARTITIONS) ∧
      (∀ c p, s.dev.host.flight = [c] → c.parts = [p] → p.level = l.val → p.slot = m.val → p.done = false → p.bits = [] → c.own = false →
        c.answer = none → s.dev.completed e c { status := 4 })) ∧
  (∀ (s : State) (l : Fin 5), (levelOf s.dev l).role < 2 ∨ 3 < (levelOf s.dev l).role ∨ (levelOf s.dev l).stewardLost = true ∨
      (levelOf s.dev l).quiet < (sectionOf s.dev l).lossCyc →
    Completes (.grpStewardLost l) s [] [] fun e => e.out = []) ∧
  (∀ (s : State) (l : Fin 5), atLevel s.dev l = true → (levelOf s.dev l).stewardLost = false →
    (sectionOf s.dev l).lossCyc ≤ (levelOf s.dev l).quiet → s.dev.rd PWR_STATUS_SHARED_UP ≠ 0 →
    ((levelOf s.dev l).role = 2 →
      Touches (.grpStewardLost l) s (groupViews ++ recordFields ++ [GRP_STATUS_STEWARD_LOST]) [] [.log, .grp] ∧
      Answers (.grpStewardLost l) s fun e => e.rd GRP_STATUS_STEWARD_LOST = 1 ∧
        e.logged .GRP_STEWARD_LOST srcGroup ((levelOf s.dev l).stw.getD 0) l ∧
        levelOf e l = { levelOf s.dev l with stewardLost := true, stw := none, g := max 1 (levelOf s.dev l).g }) ∧
    ((levelOf s.dev l).role = 3 → (levelOf s.dev l).partition = false →
      Touches (.grpStewardLost l) s
        (groupViews ++ recordFields ++ [GRP_STATUS_STEWARD_LOST, GRP_STATUS_PARTITION, GRP_CNT1_PARTITIONS]) [] [.log, .grp] ∧
      Answers (.grpStewardLost l) s fun e => e.rd GRP_STATUS_STEWARD_LOST = 1 ∧ e.rd GRP_STATUS_PARTITION = 1 ∧
        e.rd GRP_CNT1_PARTITIONS = s.dev.countUp GRP_CNT1_PARTITIONS ∧
        levelOf e l = { levelOf s.dev l with role := 5, partition := true, stw := none, g := max 1 (levelOf s.dev l).g })) ∧
  (∀ (s : State) (l : Fin 5), (levelOf s.dev l).align = none ∨ allDisabled s.dev = false ∨ s.dev.tb.ticking = false →
    Completes (.grpFrameAlign l) s [] [] fun e => e.out = []) ∧
  (∀ (s : State) (l : Fin 5) (n : Int), atLevel s.dev l = true → (levelOf s.dev l).align = some n → allDisabled s.dev = true →
    s.dev.tb.ticking = true → s.dev.rd PWR_STATUS_SHARED_UP ≠ 0 →
    Touches (.grpFrameAlign l) s (groupViews ++ recordFields ++ [BLF_FRAME_NO_NO, GRP_STATUS_FRAME_ALIGNED]) [] [.rings, .log, .grp] ∧
    Answers (.grpFrameAlign l) s fun e => e.rd BLF_FRAME_NO_NO = fieldOf 32 ((s.dev.frameNo : Int) + n) ∧
      e.rd GRP_STATUS_FRAME_ALIGNED = 1 ∧ (levelOf e l).align = none ∧ (∀ x : Lane, (e.rings.get x).seqReset = true) ∧
      (s.dev.rd BLF_CFG_SOURCE ≠ 3 ∨ timeState s.dev ≠ .locked → (levelOf e l).role = (levelOf s.dev l).role ∧
        e.logged .GRP_FRAME_ALIGN srcGroup (ownSlot s.dev l) l) ∧
      ((levelOf s.dev l).role = 1 → (levelOf s.dev l).stw ≠ none → s.dev.rd BLF_CFG_SOURCE = 3 → timeState s.dev = .locked →
        (levelOf e l).role = (if (levelOf s.dev l).deputy = some (ownSlot s.dev l) then 3 else 2) ∧
        e.logged .GRP_JOIN srcGroup (ownSlot s.dev l) l)) ∧
  (∀ (s : State) (l : Fin 5), ¬ s.dev.mayLeave l → Completes (.grpQuarantineEnd l) s [] [] fun e => e.out = []) ∧
  (∀ (s : State) (l : Fin 5), s.dev.mayLeave l → s.dev.rd PWR_STATUS_SHARED_UP ≠ 0 →
    Touches (.grpQuarantineEnd l) s (groupViews ++ recordFields) [] [.log, .grp] ∧
    Answers (.grpQuarantineEnd l) s fun e => e.logged .GRP_QUARANTINE_END srcGroup (ownSlot s.dev l) l ∧
      levelOf e l = { levelOf s.dev l with quarantined := false, matched := 0 } ∧
      ((s.dev.frameNo + 2) % 2 ^ 32, (levelOf s.dev 0).g, anyQuar e) ∈ e.grp.coming) ∧
  (∀ (s : State) (m : Master), s.dev.takes m 0xD038 (GRP_STATUS_BUSY, 0) →
    Touches (.grpRejoin m) s (groupViews ++ recordFields) [] [.log, .grp] ∧
    Answers (.grpRejoin m) s fun e => ∀ l : Fin 5, (s.dev.mayLeave l → (levelOf e l).quarantined = false ∧ (levelOf e l).matched = 0) ∧
      (¬ s.dev.mayLeave l → levelOf e l = levelOf s.dev l))
end

