-- ==== Sys2Proof/Laws/Tables.lean ====
section
/-!
SUPPORT. The register file and the sparse tables: reading after writing, and the canonical form that every operation keeps.
-/
namespace Sys2Proof.Machine

/-! The register file. -/

theorem RegFile.get_erase_same (rs : RegFile) (f : RegField) (i : Nat) : RegFile.get (RegFile.erase rs f i) f i = f.reset i := by
  induction rs with
  | nil => rfl
  | cons c cs ih =>
    unfold RegFile.erase at ih ⊢
    by_cases h : c.field = f ∧ c.idx = i
    · simpa [List.filter_cons, h] using ih
    · simp only [List.filter_cons, h, not_false_eq_true, decide_true, if_true, RegFile.get, if_false]
      exact ih

theorem RegFile.get_erase_other (rs : RegFile) (f g : RegField) (i j : Nat) (h : ¬ (g = f ∧ j = i)) :
    RegFile.get (RegFile.erase rs f i) g j = RegFile.get rs g j := by
  induction rs with
  | nil => rfl
  | cons c cs ih =>
    unfold RegFile.erase at ih ⊢
    by_cases hc : c.field = f ∧ c.idx = i
    · have : ¬ (c.field = g ∧ c.idx = j) := fun e => h ⟨e.1.symm.trans hc.1, e.2.symm.trans hc.2⟩
      simp only [List.filter_cons, hc, and_self, not_true_eq_false, decide_false, Bool.false_eq_true, if_false, RegFile.get]
      rw [if_neg (by rw [← hc.1, ← hc.2]; exact this)]
      exact ih
    · simp only [List.filter_cons, hc, not_false_eq_true, decide_true, if_true, RegFile.get, ih]

theorem RegFile.get_insert (rs : RegFile) (f g : RegField) (i j v : Nat)
    (h : ∀ c ∈ rs, ¬ (c.field = f ∧ c.idx = i)) :
    RegFile.get (RegFile.insert rs ⟨f, i, v⟩) g j = if g = f ∧ j = i then v else RegFile.get rs g j := by
  induction rs with
  | nil => simp [RegFile.insert, RegFile.get, eq_comm]
  | cons c cs ih =>
    have hc := h c (by simp)
    have ih := ih (fun b hb => h b (by simp [hb]))
    unfold RegFile.insert
    split
    · simp [RegFile.get, eq_comm]
    · simp only [RegFile.get, ih]
      by_cases hg : g = f ∧ j = i
      · obtain ⟨rfl, rfl⟩ := hg
        simp [hc]
      · simp [hg]

/-- Reading the register file after a write gives the value written at that element and the old value elsewhere. -/
theorem RegFile.get_set (rs : RegFile) (f g : RegField) (i j v : Nat) :
    RegFile.get (RegFile.set rs f i v) g j = if g = f ∧ j = i then v else RegFile.get rs g j := by
  unfold RegFile.set
  by_cases hv : v = f.reset i
  · simp only [hv, if_true]
    by_cases hg : g = f ∧ j = i
    · obtain ⟨rfl, rfl⟩ := hg
      simp [RegFile.get_erase_same]
    · simp [hg, RegFile.get_erase_other _ _ _ _ _ hg]
  · simp only [hv, if_false]
    rw [RegFile.get_insert (RegFile.erase rs f i) f g i j v (fun c hc => of_decide_eq_true (List.mem_filter.1 hc).2)]
    by_cases hg : g = f ∧ j = i
    · simp [hg]
    · simp [hg, RegFile.get_erase_other _ _ _ _ _ hg]

theorem RegFile.mem_insert (rs : RegFile) (b c : RegCell) : b ∈ RegFile.insert rs c ↔ b = c ∨ b ∈ rs := by
  induction rs with
  | nil => simp [RegFile.insert]
  | cons a as ih =>
    unfold RegFile.insert
    split
    · simp
    · simp only [List.mem_cons, ih]; tauto

theorem RegFile.wf_cons {c : RegCell} {cs : RegFile} :
    RegFile.wf (c :: cs) = true ↔ c.value ≠ c.field.reset c.idx ∧
      (∀ b ∈ cs, regKey c.field c.idx < regKey b.field b.idx) ∧ RegFile.wf cs = true := by
  simp [RegFile.wf, List.all_eq_true, and_assoc]

theorem RegFile.erase_wf {rs : RegFile} (h : RegFile.wf rs = true) (f : RegField) (i : Nat) : RegFile.wf (RegFile.erase rs f i) = true := by
  induction rs with
  | nil => rfl
  | cons c cs ih =>
    rw [RegFile.wf_cons] at h
    have ih := ih h.2.2
    unfold RegFile.erase at ih ⊢
    rw [List.filter_cons]
    split
    · rw [RegFile.wf_cons]
      exact ⟨h.1, fun b hb => h.2.1 b (List.mem_filter.1 hb).1, ih⟩
    · exact ih

theorem regField_idx_lt (f : RegField) : f.ctorIdx < 1024 := by
  cases f <;> decide

theorem regKey_inj {f g : RegField} {i j : Nat} (h : regKey f i = regKey g j) : f = g ∧ i = j := by
  unfold regKey at h
  have hf := regField_idx_lt f
  have hg := regField_idx_lt g
  have hi : i = j := by omega
  have hc : f.ctorIdx = g.ctorIdx := by omega
  refine ⟨?_, hi⟩
  have e1 : RegField.ofNat f.ctorIdx = f := RegField.ofNat_ctorIdx f
  have e2 : RegField.ofNat g.ctorIdx = g := RegField.ofNat_ctorIdx g
  rw [← e1, ← e2, hc]

theorem RegFile.insert_wf {rs : RegFile} (h : RegFile.wf rs = true) (c : RegCell) (hv : c.value ≠ c.field.reset c.idx)
    (hn : ∀ b ∈ rs, ¬ (b.field = c.field ∧ b.idx = c.idx)) : RegFile.wf (RegFile.insert rs c) = true := by
  induction rs with
  | nil => simp [RegFile.insert, RegFile.wf, hv]
  | cons b bs ih =>
    rw [RegFile.wf_cons] at h
    have ih := ih h.2.2 (fun a ha => hn a (by simp [ha]))
    unfold RegFile.insert
    split
    · rename_i hlt
      rw [RegFile.wf_cons, RegFile.wf_cons]
      refine ⟨hv, ?_, h⟩
      intro a ha
      rcases List.mem_cons.1 ha with rfl | ha
      · exact hlt
      · exact hlt.trans (h.2.1 a ha)
    · rename_i hge
      rw [RegFile.wf_cons]
      refine ⟨h.1, ?_, ih⟩
      intro a ha
      rcases (RegFile.mem_insert _ _ _).1 ha with rfl | ha
      · have hne : regKey b.field b.idx ≠ regKey a.field a.idx := fun e => hn b (by simp) (regKey_inj e)
        omega
      · exact h.2.1 a ha

/-- A write keeps the canonical form of the register file. -/
theorem RegFile.set_wf {rs : RegFile} (h : RegFile.wf rs = true) (f : RegField) (i v : Nat) : RegFile.wf (RegFile.set rs f i v) = true := by
  unfold RegFile.set
  by_cases hv : v = f.reset i
  · simpa [hv] using RegFile.erase_wf h f i
  · simp only [hv, if_false]
    refine RegFile.insert_wf (RegFile.erase_wf h f i) _ hv ?_
    intro b hb
    exact of_decide_eq_true (List.mem_filter.1 hb).2

/-! Sparse tables. -/

theorem SMap.get_erase_same {α : Type} (z : α) (m : SMap α) (k : Nat) : SMap.get z (SMap.erase m k) k = z := by
  induction m with
  | nil => rfl
  | cons e m ih =>
    unfold SMap.erase at ih ⊢
    by_cases h : e.1 = k
    · simpa [List.filter_cons, h] using ih
    · simpa [List.filter_cons, h, SMap.get] using ih

theorem SMap.get_erase_other {α : Type} (z : α) (m : SMap α) {k j : Nat} (h : j ≠ k) :
    SMap.get z (SMap.erase m k) j = SMap.get z m j := by
  induction m with
  | nil => rfl
  | cons e m ih =>
    unfold SMap.erase at ih ⊢
    by_cases hk : e.1 = k
    · have : ¬ e.1 = j := fun x => h (x.symm.trans hk)
      simpa [List.filter_cons, hk, SMap.get, Ne.symm h] using ih
    · simp only [List.filter_cons, hk, ne_eq, not_false_eq_true, decide_true, if_true, SMap.get]
      split
      · rfl
      · simpa using ih

theorem SMap.get_insert {α : Type} (z : α) (m : SMap α) (k j : Nat) (v : α) (h : ∀ e ∈ m, e.1 ≠ k) :
    SMap.get z (SMap.insert m k v) j = if j = k then v else SMap.get z m j := by
  induction m with
  | nil => simp [SMap.insert, SMap.get, eq_comm]
  | cons e m ih =>
    have he := h e (by simp)
    have ih := ih (fun b hb => h b (by simp [hb]))
    unfold SMap.insert
    split
    · simp [SMap.get, eq_comm]
    · simp only [SMap.get, ih]
      by_cases hj : j = k
      · subst hj; simp [he]
      · simp [hj]

/-- Reading a table after a write gives the value written at that index and the old value elsewhere. -/
theorem SMap.get_set {α : Type} [DecidableEq α] (z : α) (m : SMap α) (k j : Nat) (v : α) :
    SMap.get z (SMap.set z m k v) j = if j = k then v else SMap.get z m j := by
  unfold SMap.set
  by_cases hv : v = z
  · simp only [hv, if_true]
    by_cases hj : j = k
    · subst hj; simp [SMap.get_erase_same]
    · simp [hj, SMap.get_erase_other z m hj]
  · simp only [hv, if_false]
    rw [SMap.get_insert _ _ _ _ _ (by intro e he; simpa [SMap.erase] using (List.mem_filter.1 he).2)]
    by_cases hj : j = k
    · simp [hj]
    · simp [hj, SMap.get_erase_other z m hj]

theorem SMap.get_set_same {α : Type} [DecidableEq α] (z : α) (m : SMap α) (k : Nat) (v : α) :
    SMap.get z (SMap.set z m k v) k = v := by simp [SMap.get_set]

theorem SMap.wf_cons {α : Type} [DecidableEq α] {z : α} {e : Nat × α} {m : SMap α} :
    SMap.wf z (e :: m) = true ↔ e.2 ≠ z ∧ (∀ f ∈ m, e.1 < f.1) ∧ SMap.wf z m = true := by
  simp [SMap.wf, List.all_eq_true, and_assoc]

theorem SMap.erase_wf {α : Type} [DecidableEq α] {z : α} {m : SMap α} (h : SMap.wf z m = true) (k : Nat) :
    SMap.wf z (SMap.erase m k) = true := by
  induction m with
  | nil => rfl
  | cons e m ih =>
    rw [SMap.wf_cons] at h
    have ih := ih h.2.2
    unfold SMap.erase at ih ⊢
    rw [List.filter_cons]
    split
    · rw [SMap.wf_cons]
      exact ⟨h.1, fun b hb => h.2.1 b (List.mem_filter.1 hb).1, ih⟩
    · exact ih

theorem SMap.mem_insert {α : Type} (m : SMap α) (k : Nat) (v : α) (b : Nat × α) : b ∈ SMap.insert m k v ↔ b = (k, v) ∨ b ∈ m := by
  induction m with
  | nil => simp [SMap.insert]
  | cons a as ih =>
    unfold SMap.insert
    split
    · simp
    · simp only [List.mem_cons, ih]; tauto

theorem SMap.insert_wf {α : Type} [DecidableEq α] {z : α} {m : SMap α} (h : SMap.wf z m = true) (k : Nat) (v : α) (hv : v ≠ z)
    (hn : ∀ e ∈ m, e.1 ≠ k) : SMap.wf z (SMap.insert m k v) = true := by
  induction m with
  | nil => simp [SMap.insert, SMap.wf, hv]
  | cons b bs ih =>
    rw [SMap.wf_cons] at h
    have ih := ih h.2.2 (fun a ha => hn a (by simp [ha]))
    unfold SMap.insert
    split
    · rename_i hlt
      rw [SMap.wf_cons, SMap.wf_cons]
      refine ⟨hv, ?_, h⟩
      intro a ha
      rcases List.mem_cons.1 ha with rfl | ha
      · exact hlt
      · exact hlt.trans (h.2.1 a ha)
    · rename_i hge
      rw [SMap.wf_cons]
      refine ⟨h.1, ?_, ih⟩
      intro a ha
      rcases (SMap.mem_insert _ _ _ _).1 ha with rfl | ha
      · have := hn b (by simp)
        show b.1 < k
        omega
      · exact h.2.1 a ha

/-- A write keeps the canonical form of a table. -/
theorem SMap.set_wf {α : Type} [DecidableEq α] {z : α} {m : SMap α} (h : SMap.wf z m = true) (k : Nat) (v : α) :
    SMap.wf z (SMap.set z m k v) = true := by
  unfold SMap.set
  by_cases hv : v = z
  · simpa [hv] using SMap.erase_wf h k
  · simp only [hv, if_false]
    refine SMap.insert_wf (SMap.erase_wf h k) _ _ hv ?_
    intro b hb
    simpa [SMap.erase] using (List.mem_filter.1 hb).2

/-- Applying a function at an index keeps the canonical form. -/
theorem SMap.modify_wf {α : Type} [DecidableEq α] {z : α} {m : SMap α} (h : SMap.wf z m = true) (k : Nat) (f : α → α) :
    SMap.wf z (SMap.modify z m k f) = true := SMap.set_wf h k _

/-- Writing bytes keeps the canonical form. -/
theorem SMap.setBytes_wf {z : Byte} (bs : List Byte) : ∀ {m : SMap Byte} (k : Nat), SMap.wf z m = true →
    SMap.wf z (SMap.setBytes z m k bs) = true := by
  induction bs with
  | nil => intro m k h; exact h
  | cons b bs ih => intro m k h; exact ih (k + 1) (SMap.set_wf h k b)

end Sys2Proof.Machine
end

