-- ==== Sys2Proof/Laws/Widths.lean ====
section
/-!
SUPPORT. The width of each register field in bits, as a number.
-/
namespace Sys2Proof.Machine

@[simp] theorem RegField.width_BLF_CFG_PERIOD : RegField.width .BLF_CFG_PERIOD = 2 := rfl
@[simp] theorem RegField.width_BLF_CFG_SOURCE : RegField.width .BLF_CFG_SOURCE = 2 := rfl
@[simp] theorem RegField.width_BLF_STATUS_STATE : RegField.width .BLF_STATUS_STATE = 3 := rfl
@[simp] theorem RegField.width_BLF_STATUS_JUMP_REFUSED : RegField.width .BLF_STATUS_JUMP_REFUSED = 1 := rfl
@[simp] theorem RegField.width_BLF_STATUS_TIME_DIVERGED : RegField.width .BLF_STATUS_TIME_DIVERGED = 1 := rfl
@[simp] theorem RegField.width_BLF_STATUS_SOURCE_LOST : RegField.width .BLF_STATUS_SOURCE_LOST = 1 := rfl
@[simp] theorem RegField.width_BLF_STATUS_TT_LATE : RegField.width .BLF_STATUS_TT_LATE = 1 := rfl
@[simp] theorem RegField.width_BLF_STATUS_TT_REJECT : RegField.width .BLF_STATUS_TT_REJECT = 1 := rfl
@[simp] theorem RegField.width_BLF_STATUS_EPOCH_SET : RegField.width .BLF_STATUS_EPOCH_SET = 1 := rfl
@[simp] theorem RegField.width_BLF_STATUS_BUSY : RegField.width .BLF_STATUS_BUSY = 1 := rfl
@[simp] theorem RegField.width_BLF_TIME_NS_NS : RegField.width .BLF_TIME_NS_NS = 32 := rfl
@[simp] theorem RegField.width_BLF_FRAME_NO_NO : RegField.width .BLF_FRAME_NO_NO = 32 := rfl
@[simp] theorem RegField.width_BLF_FRAME_SNAP_NO : RegField.width .BLF_FRAME_SNAP_NO = 32 := rfl
@[simp] theorem RegField.width_BLF_LATCH_OFFSET : RegField.width .BLF_LATCH_OFFSET = 13 := rfl
@[simp] theorem RegField.width_BLF_PHASE_PHASE : RegField.width .BLF_PHASE_PHASE = 15 := rfl
@[simp] theorem RegField.width_BLF_JUMP_THR_THR_NS : RegField.width .BLF_JUMP_THR_THR_NS = 20 := rfl
@[simp] theorem RegField.width_BLF_SLEW_MAX_PPM : RegField.width .BLF_SLEW_MAX_PPM = 9 := rfl
@[simp] theorem RegField.width_BLF_OFFSET_NS : RegField.width .BLF_OFFSET_NS = 32 := rfl
@[simp] theorem RegField.width_BLF_RATE_PPB : RegField.width .BLF_RATE_PPB = 32 := rfl
@[simp] theorem RegField.width_BLF_EPOCH_LO_NS : RegField.width .BLF_EPOCH_LO_NS = 32 := rfl
@[simp] theorem RegField.width_BLF_EPOCH_HI_NS : RegField.width .BLF_EPOCH_HI_NS = 32 := rfl
@[simp] theorem RegField.width_BLF_ACQUIRE_GO : RegField.width .BLF_ACQUIRE_GO = 1 := rfl
@[simp] theorem RegField.width_BLF_PTP_CFG_EN : RegField.width .BLF_PTP_CFG_EN = 1 := rfl
@[simp] theorem RegField.width_BLF_PTP_CFG_ROLE : RegField.width .BLF_PTP_CFG_ROLE = 2 := rfl
@[simp] theorem RegField.width_BLF_PTP_CFG_DELAY : RegField.width .BLF_PTP_CFG_DELAY = 1 := rfl
@[simp] theorem RegField.width_BLF_PTP_CFG_TRANSPORT : RegField.width .BLF_PTP_CFG_TRANSPORT = 1 := rfl
@[simp] theorem RegField.width_BLF_PTP_CFG_DOMAIN : RegField.width .BLF_PTP_CFG_DOMAIN = 8 := rfl
@[simp] theorem RegField.width_BLF_PTP_CFG_LOG_SYNC : RegField.width .BLF_PTP_CFG_LOG_SYNC = 3 := rfl
@[simp] theorem RegField.width_BLF_PTP_CFG_LOG_DELAY : RegField.width .BLF_PTP_CFG_LOG_DELAY = 3 := rfl
@[simp] theorem RegField.width_BLF_PTP_CFG_ONESTEP_CNT : RegField.width .BLF_PTP_CFG_ONESTEP_CNT = 8 := rfl
@[simp] theorem RegField.width_BLF_PTP_LAT_RX_NS : RegField.width .BLF_PTP_LAT_RX_NS = 16 := rfl
@[simp] theorem RegField.width_BLF_PTP_LAT_TX_NS : RegField.width .BLF_PTP_LAT_TX_NS = 16 := rfl
@[simp] theorem RegField.width_BLF_SOF_TX_NS : RegField.width .BLF_SOF_TX_NS = 32 := rfl
@[simp] theorem RegField.width_BLF_SOF_RX_NS : RegField.width .BLF_SOF_RX_NS = 32 := rfl
@[simp] theorem RegField.width_BLF_TT_CTRL_MODE : RegField.width .BLF_TT_CTRL_MODE = 2 := rfl
@[simp] theorem RegField.width_BLF_TT_CTRL_POL : RegField.width .BLF_TT_CTRL_POL = 1 := rfl
@[simp] theorem RegField.width_BLF_TT_CTRL_ARMED : RegField.width .BLF_TT_CTRL_ARMED = 1 := rfl
@[simp] theorem RegField.width_BLF_TT_START_NS : RegField.width .BLF_TT_START_NS = 32 := rfl
@[simp] theorem RegField.width_BLF_TT_PERIOD_NS : RegField.width .BLF_TT_PERIOD_NS = 32 := rfl
@[simp] theorem RegField.width_BLF_TT_WIDTH_NS : RegField.width .BLF_TT_WIDTH_NS = 24 := rfl
@[simp] theorem RegField.width_BLF_TT_DIV_DIV : RegField.width .BLF_TT_DIV_DIV = 16 := rfl
@[simp] theorem RegField.width_BLF_TT_DIV_PHASE : RegField.width .BLF_TT_DIV_PHASE = 16 := rfl
@[simp] theorem RegField.width_LN_STATUS_STATE : RegField.width .LN_STATUS_STATE = 4 := rfl
@[simp] theorem RegField.width_LN_STATUS_IN_VOTE : RegField.width .LN_STATUS_IN_VOTE = 1 := rfl
@[simp] theorem RegField.width_LN_STATUS_LANE_DEBUG : RegField.width .LN_STATUS_LANE_DEBUG = 1 := rfl
@[simp] theorem RegField.width_LN_STATUS_FAULT_LATCH : RegField.width .LN_STATUS_FAULT_LATCH = 1 := rfl
@[simp] theorem RegField.width_LN_STATUS_LOCKSTEP_MISMATCH : RegField.width .LN_STATUS_LOCKSTEP_MISMATCH = 1 := rfl
@[simp] theorem RegField.width_LN_STATUS_CMP_TEST_FAIL : RegField.width .LN_STATUS_CMP_TEST_FAIL = 1 := rfl
@[simp] theorem RegField.width_LN_STATUS_CONFIG_DIVERGE : RegField.width .LN_STATUS_CONFIG_DIVERGE = 1 := rfl
@[simp] theorem RegField.width_LN_STATUS_ARB_FAULT : RegField.width .LN_STATUS_ARB_FAULT = 1 := rfl
@[simp] theorem RegField.width_LN_STATUS_LANE_SILENT : RegField.width .LN_STATUS_LANE_SILENT = 1 := rfl
@[simp] theorem RegField.width_LN_STATUS_MEM_UE : RegField.width .LN_STATUS_MEM_UE = 1 := rfl
@[simp] theorem RegField.width_LN_STATUS_LANE_REJOIN : RegField.width .LN_STATUS_LANE_REJOIN = 1 := rfl
@[simp] theorem RegField.width_LN_STATUS_TICK_LOST : RegField.width .LN_STATUS_TICK_LOST = 1 := rfl
@[simp] theorem RegField.width_LN_STATUS_INPUT_DISAGREE : RegField.width .LN_STATUS_INPUT_DISAGREE = 1 := rfl
@[simp] theorem RegField.width_LN_STATUS_REJOIN_LIMIT : RegField.width .LN_STATUS_REJOIN_LIMIT = 1 := rfl
@[simp] theorem RegField.width_LN_CMP_TEST_NEXT_GROUP : RegField.width .LN_CMP_TEST_NEXT_GROUP = 5 := rfl
@[simp] theorem RegField.width_LN_CMP_TEST_FAIL_GROUP : RegField.width .LN_CMP_TEST_FAIL_GROUP = 5 := rfl
@[simp] theorem RegField.width_LN_CMP_TEST_PASS_CNT : RegField.width .LN_CMP_TEST_PASS_CNT = 16 := rfl
@[simp] theorem RegField.width_LN_DIGEST_LO_DIGEST : RegField.width .LN_DIGEST_LO_DIGEST = 32 := rfl
@[simp] theorem RegField.width_LN_DIGEST_HI_DIGEST : RegField.width .LN_DIGEST_HI_DIGEST = 32 := rfl
@[simp] theorem RegField.width_LN_EXCH_ERR_CRC_P1 : RegField.width .LN_EXCH_ERR_CRC_P1 = 8 := rfl
@[simp] theorem RegField.width_LN_EXCH_ERR_LATE_P1 : RegField.width .LN_EXCH_ERR_LATE_P1 = 8 := rfl
@[simp] theorem RegField.width_LN_EXCH_ERR_CRC_P2 : RegField.width .LN_EXCH_ERR_CRC_P2 = 8 := rfl
@[simp] theorem RegField.width_LN_EXCH_ERR_LATE_P2 : RegField.width .LN_EXCH_ERR_LATE_P2 = 8 := rfl
@[simp] theorem RegField.width_LN_ARB_ROUNDS : RegField.width .LN_ARB_ROUNDS = 8 := rfl
@[simp] theorem RegField.width_LN_ARB_LAST_OUTCOME : RegField.width .LN_ARB_LAST_OUTCOME = 2 := rfl
@[simp] theorem RegField.width_LN_ARB_LAST_TEST : RegField.width .LN_ARB_LAST_TEST = 6 := rfl
@[simp] theorem RegField.width_LN_MEM_CE_CNT : RegField.width .LN_MEM_CE_CNT = 16 := rfl
@[simp] theorem RegField.width_LN_MEM_SCRUB_PASS : RegField.width .LN_MEM_SCRUB_PASS = 16 := rfl
@[simp] theorem RegField.width_LN_REJOIN_FAULTS_60MIN : RegField.width .LN_REJOIN_FAULTS_60MIN = 2 := rfl
@[simp] theorem RegField.width_LN_REJOIN_COUNT : RegField.width .LN_REJOIN_COUNT = 16 := rfl
@[simp] theorem RegField.width_LN_DISAGREE_INPUT_CNT : RegField.width .LN_DISAGREE_INPUT_CNT = 16 := rfl
@[simp] theorem RegField.width_LN_DISAGREE_SILENT_CNT : RegField.width .LN_DISAGREE_SILENT_CNT = 16 := rfl
@[simp] theorem RegField.width_SAF_DEG_STATUS_ACTIVE : RegField.width .SAF_DEG_STATUS_ACTIVE = 1 := rfl
@[simp] theorem RegField.width_SAF_DEG_STATUS_EXPIRED : RegField.width .SAF_DEG_STATUS_EXPIRED = 1 := rfl
@[simp] theorem RegField.width_SAF_DEG_STATUS_TIGHTENED : RegField.width .SAF_DEG_STATUS_TIGHTENED = 1 := rfl
@[simp] theorem RegField.width_SAF_DEG_STATUS_SUPPLY_WARN : RegField.width .SAF_DEG_STATUS_SUPPLY_WARN = 3 := rfl
@[simp] theorem RegField.width_SAF_DEG_REMAIN_MS : RegField.width .SAF_DEG_REMAIN_MS = 32 := rfl
@[simp] theorem RegField.width_SAF_DEG_HEALTHY_MS : RegField.width .SAF_DEG_HEALTHY_MS = 32 := rfl
@[simp] theorem RegField.width_SAF_FAULT_FIRST_KIND : RegField.width .SAF_FAULT_FIRST_KIND = 3 := rfl
@[simp] theorem RegField.width_SAF_FAULT_FIRST_INDEX : RegField.width .SAF_FAULT_FIRST_INDEX = 5 := rfl
@[simp] theorem RegField.width_SAF_FAULT_FIRST_EVENT : RegField.width .SAF_FAULT_FIRST_EVENT = 16 := rfl
@[simp] theorem RegField.width_SAF_FAULT_SECOND_KIND : RegField.width .SAF_FAULT_SECOND_KIND = 3 := rfl
@[simp] theorem RegField.width_SAF_FAULT_SECOND_INDEX : RegField.width .SAF_FAULT_SECOND_INDEX = 5 := rfl
@[simp] theorem RegField.width_SAF_FAULT_SECOND_EVENT : RegField.width .SAF_FAULT_SECOND_EVENT = 16 := rfl
@[simp] theorem RegField.width_SAF_LINK_GOOD : RegField.width .SAF_LINK_GOOD = 6 := rfl
@[simp] theorem RegField.width_SAF_LINK_LINK_FAULT : RegField.width .SAF_LINK_LINK_FAULT = 6 := rfl
@[simp] theorem RegField.width_SAF_LANE_OUT_RING_LOST : RegField.width .SAF_LANE_OUT_RING_LOST = 3 := rfl
@[simp] theorem RegField.width_SAF_LANE_OUT_OVERRUN : RegField.width .SAF_LANE_OUT_OVERRUN = 3 := rfl
@[simp] theorem RegField.width_SAF_LANE_OUT_LINK_OUT : RegField.width .SAF_LANE_OUT_LINK_OUT = 3 := rfl
@[simp] theorem RegField.width_SAF_BRK_STAT_RELEASED : RegField.width .SAF_BRK_STAT_RELEASED = 1 := rfl
@[simp] theorem RegField.width_SAF_BRK_STAT_LOCKED : RegField.width .SAF_BRK_STAT_LOCKED = 1 := rfl
@[simp] theorem RegField.width_SAF_BRK_STAT_BRAKE_FAULT : RegField.width .SAF_BRK_STAT_BRAKE_FAULT = 1 := rfl
@[simp] theorem RegField.width_SAF_BRK_STAT_SENSE_FAULT : RegField.width .SAF_BRK_STAT_SENSE_FAULT = 1 := rfl
@[simp] theorem RegField.width_SAF_BRK_STAT_PT_DUE : RegField.width .SAF_BRK_STAT_PT_DUE = 1 := rfl
@[simp] theorem RegField.width_SAF_BRK_STAT_PT_FAIL : RegField.width .SAF_BRK_STAT_PT_FAIL = 1 := rfl
@[simp] theorem RegField.width_SAF_BRK_STAT_PT_FAIL_STEP : RegField.width .SAF_BRK_STAT_PT_FAIL_STEP = 3 := rfl
@[simp] theorem RegField.width_SAF_BRK_STAT_GATE : RegField.width .SAF_BRK_STAT_GATE = 3 := rfl
@[simp] theorem RegField.width_SAF_BRK_STAT_PENDING : RegField.width .SAF_BRK_STAT_PENDING = 1 := rfl
@[simp] theorem RegField.width_SAF_BRK_STAT_I_MEAN : RegField.width .SAF_BRK_STAT_I_MEAN = 16 := rfl
@[simp] theorem RegField.width_SAF_PT_AGE_DARK_MIN : RegField.width .SAF_PT_AGE_DARK_MIN = 16 := rfl
@[simp] theorem RegField.width_SAF_PT_AGE_LIGHT_MIN : RegField.width .SAF_PT_AGE_LIGHT_MIN = 16 := rfl
@[simp] theorem RegField.width_ENT_STAT_LINK0 : RegField.width .ENT_STAT_LINK0 = 1 := rfl
@[simp] theorem RegField.width_ENT_STAT_LINK1 : RegField.width .ENT_STAT_LINK1 = 1 := rfl
@[simp] theorem RegField.width_ENT_STAT_BREAK : RegField.width .ENT_STAT_BREAK = 1 := rfl
@[simp] theorem RegField.width_ENT_STAT_BREAK_OK : RegField.width .ENT_STAT_BREAK_OK = 1 := rfl
@[simp] theorem RegField.width_ENT_STAT_BYPASS_CLOSED : RegField.width .ENT_STAT_BYPASS_CLOSED = 1 := rfl
@[simp] theorem RegField.width_ENT_STAT_BUSY : RegField.width .ENT_STAT_BUSY = 1 := rfl
@[simp] theorem RegField.width_ENT_STAT_TURN_ID : RegField.width .ENT_STAT_TURN_ID = 8 := rfl
@[simp] theorem RegField.width_ENT_STAT_HOP0 : RegField.width .ENT_STAT_HOP0 = 8 := rfl
@[simp] theorem RegField.width_ENT_STAT_HOP1 : RegField.width .ENT_STAT_HOP1 = 8 := rfl
@[simp] theorem RegField.width_ENT_TRING_NS : RegField.width .ENT_TRING_NS = 20 := rfl
@[simp] theorem RegField.width_ENT_BUDGET_B_USED : RegField.width .ENT_BUDGET_B_USED = 12 := rfl
@[simp] theorem RegField.width_ENT_BUDGET_B_MAX : RegField.width .ENT_BUDGET_B_MAX = 12 := rfl
@[simp] theorem RegField.width_ENT_EVCFG_ERR_THR : RegField.width .ENT_EVCFG_ERR_THR = 10 := rfl
@[simp] theorem RegField.width_ENT_P_CNT0_CODE_ERR : RegField.width .ENT_P_CNT0_CODE_ERR = 16 := rfl
@[simp] theorem RegField.width_ENT_P_CNT0_CRC_ERR : RegField.width .ENT_P_CNT0_CRC_ERR = 16 := rfl
@[simp] theorem RegField.width_ENT_P_CNT1_POISON : RegField.width .ENT_P_CNT1_POISON = 16 := rfl
@[simp] theorem RegField.width_ENT_P_CNT1_LATE : RegField.width .ENT_P_CNT1_LATE = 16 := rfl
@[simp] theorem RegField.width_ENT_P_CNT2_TURNED : RegField.width .ENT_P_CNT2_TURNED = 16 := rfl
@[simp] theorem RegField.width_ENT_P_CNT2_SYNC_LOSS : RegField.width .ENT_P_CNT2_SYNC_LOSS = 16 := rfl
@[simp] theorem RegField.width_ENT_P_ERRID_ERR_ID : RegField.width .ENT_P_ERRID_ERR_ID = 8 := rfl
@[simp] theorem RegField.width_ENT_P_ERRID_ERR_CNT : RegField.width .ENT_P_ERRID_ERR_CNT = 8 := rfl
@[simp] theorem RegField.width_ENT_START_STATE : RegField.width .ENT_START_STATE = 2 := rfl
@[simp] theorem RegField.width_ENT_START_MASTER_ID : RegField.width .ENT_START_MASTER_ID = 8 := rfl
@[simp] theorem RegField.width_ENT_START_FOREIGN : RegField.width .ENT_START_FOREIGN = 8 := rfl
@[simp] theorem RegField.width_ENT_START_STARTS : RegField.width .ENT_START_STARTS = 8 := rfl
@[simp] theorem RegField.width_ENT_SCHED_SCHED_ID : RegField.width .ENT_SCHED_SCHED_ID = 16 := rfl
@[simp] theorem RegField.width_ENT_SCHED_ENTRIES : RegField.width .ENT_SCHED_ENTRIES = 8 := rfl
@[simp] theorem RegField.width_ENT_SCHED_N : RegField.width .ENT_SCHED_N = 8 := rfl
@[simp] theorem RegField.width_ENT_GUARD_NS : RegField.width .ENT_GUARD_NS = 10 := rfl
@[simp] theorem RegField.width_ENT_GUARD_ADMITTED : RegField.width .ENT_GUARD_ADMITTED = 8 := rfl
@[simp] theorem RegField.width_ENT_GUARD_REMOVALS : RegField.width .ENT_GUARD_REMOVALS = 8 := rfl
@[simp] theorem RegField.width_ENT_NODE_NODE_ID : RegField.width .ENT_NODE_NODE_ID = 8 := rfl
@[simp] theorem RegField.width_ENT_NODE_STATE : RegField.width .ENT_NODE_STATE = 3 := rfl
@[simp] theorem RegField.width_ENT_NODE_SPARE : RegField.width .ENT_NODE_SPARE = 1 := rfl
@[simp] theorem RegField.width_ENT_NODE_CLAIMED : RegField.width .ENT_NODE_CLAIMED = 1 := rfl
@[simp] theorem RegField.width_ENT_NODE_MASTER_CAP : RegField.width .ENT_NODE_MASTER_CAP = 1 := rfl
@[simp] theorem RegField.width_ENT_NODE_POS : RegField.width .ENT_NODE_POS = 6 := rfl
@[simp] theorem RegField.width_ENT_NODE_READMITS : RegField.width .ENT_NODE_READMITS = 8 := rfl
@[simp] theorem RegField.width_ENT_NODE_SYNC_ERR : RegField.width .ENT_NODE_SYNC_ERR = 16 := rfl
@[simp] theorem RegField.width_ENT_NODE_GUARD_CNT : RegField.width .ENT_NODE_GUARD_CNT = 16 := rfl
@[simp] theorem RegField.width_PLN_CFG_RESERVE : RegField.width .PLN_CFG_RESERVE = 11 := rfl
@[simp] theorem RegField.width_PLN_CFG_ZONE_GAP : RegField.width .PLN_CFG_ZONE_GAP = 10 := rfl
@[simp] theorem RegField.width_PLN_CFG2_ZONE_WAIT : RegField.width .PLN_CFG2_ZONE_WAIT = 16 := rfl
@[simp] theorem RegField.width_PLN_STATUS_BUSY : RegField.width .PLN_STATUS_BUSY = 1 := rfl
@[simp] theorem RegField.width_PLN_STATUS_COMMIT_LATE : RegField.width .PLN_STATUS_COMMIT_LATE = 1 := rfl
@[simp] theorem RegField.width_PLN_STATUS_DECEL_CLAMPED : RegField.width .PLN_STATUS_DECEL_CLAMPED = 1 := rfl
@[simp] theorem RegField.width_PLN_STATUS_STORE_LOW : RegField.width .PLN_STATUS_STORE_LOW = 1 := rfl
@[simp] theorem RegField.width_PLN_STATUS_STORE_DRAIN : RegField.width .PLN_STATUS_STORE_DRAIN = 1 := rfl
@[simp] theorem RegField.width_PLN_STATUS_IK_LOAD : RegField.width .PLN_STATUS_IK_LOAD = 8 := rfl
@[simp] theorem RegField.width_PLN_ARM_STAT_STATE : RegField.width .PLN_ARM_STAT_STATE = 4 := rfl
@[simp] theorem RegField.width_PLN_ARM_STAT_QUEUED : RegField.width .PLN_ARM_STAT_QUEUED = 6 := rfl
@[simp] theorem RegField.width_PLN_ARM_STAT_DECEL_CLAMPED : RegField.width .PLN_ARM_STAT_DECEL_CLAMPED = 1 := rfl
@[simp] theorem RegField.width_PLN_ARM_STAT_DRAINED : RegField.width .PLN_ARM_STAT_DRAINED = 1 := rfl
@[simp] theorem RegField.width_PLN_ARM_STAT_STORE_LOW : RegField.width .PLN_ARM_STAT_STORE_LOW = 1 := rfl
@[simp] theorem RegField.width_PLN_ARM_STAT_CAPPED : RegField.width .PLN_ARM_STAT_CAPPED = 1 := rfl
@[simp] theorem RegField.width_PLN_ARM_STAT_COUPLED : RegField.width .PLN_ARM_STAT_COUPLED = 8 := rfl
@[simp] theorem RegField.width_PLN_ARM_ZONES_HELD : RegField.width .PLN_ARM_ZONES_HELD = 32 := rfl
@[simp] theorem RegField.width_PLN_ARM_ZWAIT_REQ : RegField.width .PLN_ARM_ZWAIT_REQ = 32 := rfl
@[simp] theorem RegField.width_PLN_ARM_DEPTH_FRAMES : RegField.width .PLN_ARM_DEPTH_FRAMES = 16 := rfl
@[simp] theorem RegField.width_PLN_ZONE_OWNER : RegField.width .PLN_ZONE_OWNER = 6 := rfl
@[simp] theorem RegField.width_PLN_ZONE_WAITERS : RegField.width .PLN_ZONE_WAITERS = 8 := rfl
@[simp] theorem RegField.width_PLN_MST_CFG_SRC : RegField.width .PLN_MST_CFG_SRC = 2 := rfl
@[simp] theorem RegField.width_PLN_MST_CFG_IDX : RegField.width .PLN_MST_CFG_IDX = 7 := rfl
@[simp] theorem RegField.width_PLN_MST_DML_CPS2 : RegField.width .PLN_MST_DML_CPS2 = 32 := rfl
@[simp] theorem RegField.width_PLN_MST_STAT_VALID : RegField.width .PLN_MST_STAT_VALID = 1 := rfl
@[simp] theorem RegField.width_PLN_MST_STAT_MASTER_LOST : RegField.width .PLN_MST_STAT_MASTER_LOST = 1 := rfl
@[simp] theorem RegField.width_PLN_TRK_MASTER : RegField.width .PLN_TRK_MASTER = 3 := rfl
@[simp] theorem RegField.width_PLN_TRK_UM_PER_CNT : RegField.width .PLN_TRK_UM_PER_CNT = 32 := rfl
@[simp] theorem RegField.width_PLN_TRK_DIR : RegField.width .PLN_TRK_DIR = 32 := rfl
@[simp] theorem RegField.width_PLN_VLIM_LO_CNT : RegField.width .PLN_VLIM_LO_CNT = 32 := rfl
@[simp] theorem RegField.width_PLN_VLIM_HI_CNT : RegField.width .PLN_VLIM_HI_CNT = 32 := rfl
@[simp] theorem RegField.width_MIL_STATUS_BUSY : RegField.width .MIL_STATUS_BUSY = 1 := rfl
@[simp] theorem RegField.width_MIL_STATUS_ENG_FAULT : RegField.width .MIL_STATUS_ENG_FAULT = 1 := rfl
@[simp] theorem RegField.width_MIL_STATUS_ANY_MISS : RegField.width .MIL_STATUS_ANY_MISS = 1 := rfl
@[simp] theorem RegField.width_MIL_STATUS_TLM_OVERFLOW : RegField.width .MIL_STATUS_TLM_OVERFLOW = 1 := rfl
@[simp] theorem RegField.width_MIL_STATUS_SPARES : RegField.width .MIL_STATUS_SPARES = 2 := rfl
@[simp] theorem RegField.width_MIL_MAP_PHYS : RegField.width .MIL_MAP_PHYS = 32 := rfl
@[simp] theorem RegField.width_MIL_ENG_STAT_STATE : RegField.width .MIL_ENG_STAT_STATE = 2 := rfl
@[simp] theorem RegField.width_MIL_ENG_STAT_CAUSE : RegField.width .MIL_ENG_STAT_CAUSE = 2 := rfl
@[simp] theorem RegField.width_MIL_ENG_STAT_LOGICAL : RegField.width .MIL_ENG_STAT_LOGICAL = 4 := rfl
@[simp] theorem RegField.width_MIL_ENG_STAT_KAT_PASS : RegField.width .MIL_ENG_STAT_KAT_PASS = 16 := rfl
@[simp] theorem RegField.width_MIL_SLOT_STAT_DEADLINE_MISS : RegField.width .MIL_SLOT_STAT_DEADLINE_MISS = 1 := rfl
@[simp] theorem RegField.width_MIL_SLOT_STAT_MISS_RUN : RegField.width .MIL_SLOT_STAT_MISS_RUN = 2 := rfl
@[simp] theorem RegField.width_MIL_SLOT_STAT_MISS3 : RegField.width .MIL_SLOT_STAT_MISS3 = 1 := rfl
@[simp] theorem RegField.width_MIL_TBL_SEL_JOINT : RegField.width .MIL_TBL_SEL_JOINT = 7 := rfl
@[simp] theorem RegField.width_MIL_TBL_SEL_BANK : RegField.width .MIL_TBL_SEL_BANK = 1 := rfl
@[simp] theorem RegField.width_MIL_TBL_SEL_POINT : RegField.width .MIL_TBL_SEL_POINT = 6 := rfl
@[simp] theorem RegField.width_MIL_TBL_E_E : RegField.width .MIL_TBL_E_E = 32 := rfl
@[simp] theorem RegField.width_MIL_TBL_G_G : RegField.width .MIL_TBL_G_G = 32 := rfl
@[simp] theorem RegField.width_MIL_TLM_CTRL_EN : RegField.width .MIL_TLM_CTRL_EN = 1 := rfl
@[simp] theorem RegField.width_MIL_TLM_BASE_LO_ADDR : RegField.width .MIL_TLM_BASE_LO_ADDR = 26 := rfl
@[simp] theorem RegField.width_MIL_TLM_BASE_HI_ADDR : RegField.width .MIL_TLM_BASE_HI_ADDR = 32 := rfl
@[simp] theorem RegField.width_MIL_TLM_SIZE_RECORDS : RegField.width .MIL_TLM_SIZE_RECORDS = 16 := rfl
@[simp] theorem RegField.width_MIL_TLM_WR_IDX : RegField.width .MIL_TLM_WR_IDX = 16 := rfl
@[simp] theorem RegField.width_MIL_TLM_RD_IDX : RegField.width .MIL_TLM_RD_IDX = 16 := rfl
@[simp] theorem RegField.width_MIL_TLM_SEL_SRC : RegField.width .MIL_TLM_SEL_SRC = 8 := rfl
@[simp] theorem RegField.width_MIL_TLM_SEL_CHAN : RegField.width .MIL_TLM_SEL_CHAN = 4 := rfl
@[simp] theorem RegField.width_MIL_TLM_SEL_VALID : RegField.width .MIL_TLM_SEL_VALID = 1 := rfl
@[simp] theorem RegField.width_MIL_J_CTRL_EN : RegField.width .MIL_J_CTRL_EN = 1 := rfl
@[simp] theorem RegField.width_MIL_J_CTRL_OUT_INV : RegField.width .MIL_J_CTRL_OUT_INV = 1 := rfl
@[simp] theorem RegField.width_MIL_J_CTRL_BANK : RegField.width .MIL_J_CTRL_BANK = 1 := rfl
@[simp] theorem RegField.width_MIL_J_OBS_F_OBS : RegField.width .MIL_J_OBS_F_OBS = 11 := rfl
@[simp] theorem RegField.width_MIL_J_KVF_V : RegField.width .MIL_J_KVF_V = 32 := rfl
@[simp] theorem RegField.width_MIL_J_KAF_V : RegField.width .MIL_J_KAF_V = 32 := rfl
@[simp] theorem RegField.width_MIL_J_KV_V : RegField.width .MIL_J_KV_V = 32 := rfl
@[simp] theorem RegField.width_MIL_J_KI_V : RegField.width .MIL_J_KI_V = 32 := rfl
@[simp] theorem RegField.width_MIL_J_UMAX_U : RegField.width .MIL_J_UMAX_U = 31 := rfl
@[simp] theorem RegField.width_MIL_J_DUMAX_DU : RegField.width .MIL_J_DUMAX_DU = 15 := rfl
@[simp] theorem RegField.width_MIL_J_UOFF_U : RegField.width .MIL_J_UOFF_U = 32 := rfl
@[simp] theorem RegField.width_MIL_J_STAT_DEADLINE_MISS : RegField.width .MIL_J_STAT_DEADLINE_MISS = 1 := rfl
@[simp] theorem RegField.width_MIL_J_STAT_MISS_RUN : RegField.width .MIL_J_STAT_MISS_RUN = 2 := rfl
@[simp] theorem RegField.width_MIL_J_STAT_MISS3 : RegField.width .MIL_J_STAT_MISS3 = 1 := rfl
@[simp] theorem RegField.width_MIL_J_STAT_FROZEN : RegField.width .MIL_J_STAT_FROZEN = 1 := rfl
@[simp] theorem RegField.width_MIL_J_STAT_LIMITED : RegField.width .MIL_J_STAT_LIMITED = 1 := rfl
@[simp] theorem RegField.width_MIL_J_STAT_SEG_BAD : RegField.width .MIL_J_STAT_SEG_BAD = 1 := rfl
@[simp] theorem RegField.width_MIL_J_STAT_TBL_REJECT : RegField.width .MIL_J_STAT_TBL_REJECT = 1 := rfl
@[simp] theorem RegField.width_MIL_J_STAT_PARAM_REJECT : RegField.width .MIL_J_STAT_PARAM_REJECT = 1 := rfl
@[simp] theorem RegField.width_MIL_J_STAT_GRANTED : RegField.width .MIL_J_STAT_GRANTED = 1 := rfl
@[simp] theorem RegField.width_MIL_J_STAT_COAST : RegField.width .MIL_J_STAT_COAST = 8 := rfl
@[simp] theorem RegField.width_MIL_J_MISS_CNT : RegField.width .MIL_J_MISS_CNT = 16 := rfl
@[simp] theorem RegField.width_MIL_J_EP_V : RegField.width .MIL_J_EP_V = 32 := rfl
@[simp] theorem RegField.width_MIL_J_UOUT_U : RegField.width .MIL_J_UOUT_U = 32 := rfl
@[simp] theorem RegField.width_MIL_J_VHAT_V : RegField.width .MIL_J_VHAT_V = 32 := rfl
@[simp] theorem RegField.width_COM_STATUS_ACTIVE : RegField.width .COM_STATUS_ACTIVE = 1 := rfl
@[simp] theorem RegField.width_COM_STATUS_VOTE_SPLIT : RegField.width .COM_STATUS_VOTE_SPLIT = 1 := rfl
@[simp] theorem RegField.width_COM_STATUS_SENSOR_FALLBACK : RegField.width .COM_STATUS_SENSOR_FALLBACK = 1 := rfl
@[simp] theorem RegField.width_COM_STATUS_ENVELOPE_EXIT : RegField.width .COM_STATUS_ENVELOPE_EXIT = 1 := rfl
@[simp] theorem RegField.width_COM_STATUS_COM_OVERRUN : RegField.width .COM_STATUS_COM_OVERRUN = 1 := rfl
@[simp] theorem RegField.width_COM_STATUS_ARM_STALE : RegField.width .COM_STATUS_ARM_STALE = 1 := rfl
@[simp] theorem RegField.width_COM_STATUS_SEP_REDUCE : RegField.width .COM_STATUS_SEP_REDUCE = 1 := rfl
@[simp] theorem RegField.width_COM_STATUS_SEP_STOP : RegField.width .COM_STATUS_SEP_STOP = 1 := rfl
@[simp] theorem RegField.width_COM_PASS_NO : RegField.width .COM_PASS_NO = 32 := rfl
@[simp] theorem RegField.width_COM_PAIRS_COUNT : RegField.width .COM_PAIRS_COUNT = 14 := rfl
@[simp] theorem RegField.width_COM_PAIRS_CAPSULES : RegField.width .COM_PAIRS_CAPSULES = 6 := rfl
@[simp] theorem RegField.width_COM_LANE_LAST_STATUS : RegField.width .COM_LANE_LAST_STATUS = 2 := rfl
@[simp] theorem RegField.width_COM_LANE_OVERRUN_CNT : RegField.width .COM_LANE_OVERRUN_CNT = 8 := rfl
@[simp] theorem RegField.width_COM_LANE_OUTLIER_CNT : RegField.width .COM_LANE_OUTLIER_CNT = 16 := rfl
@[simp] theorem RegField.width_COM_ARM_D_MM : RegField.width .COM_ARM_D_MM = 32 := rfl
@[simp] theorem RegField.width_COM_ARM_SP_MM : RegField.width .COM_ARM_SP_MM = 32 := rfl
@[simp] theorem RegField.width_COM_ARM_RES_PAIR_IDX : RegField.width .COM_ARM_RES_PAIR_IDX = 16 := rfl
@[simp] theorem RegField.width_COM_ARM_RES_REACTION : RegField.width .COM_ARM_RES_REACTION = 2 := rfl
@[simp] theorem RegField.width_COM_ARM_RES_FLAGS : RegField.width .COM_ARM_RES_FLAGS = 4 := rfl
@[simp] theorem RegField.width_COM_ARM_RES_AGREE : RegField.width .COM_ARM_RES_AGREE = 3 := rfl
@[simp] theorem RegField.width_COM_ARM_CNT_STOPS : RegField.width .COM_ARM_CNT_STOPS = 16 := rfl
@[simp] theorem RegField.width_COM_ARM_CNT_REDUCE : RegField.width .COM_ARM_CNT_REDUCE = 16 := rfl
@[simp] theorem RegField.width_COM_VOL_PRESENT : RegField.width .COM_VOL_PRESENT = 1 := rfl
@[simp] theorem RegField.width_COM_VOL_FALLBACK : RegField.width .COM_VOL_FALLBACK = 1 := rfl
@[simp] theorem RegField.width_COM_VOL_OBSTACLE : RegField.width .COM_VOL_OBSTACLE = 1 := rfl
@[simp] theorem RegField.width_COM_VOL_SENSOR : RegField.width .COM_VOL_SENSOR = 8 := rfl
@[simp] theorem RegField.width_COM_VOL_V_MMS : RegField.width .COM_VOL_V_MMS = 16 := rfl
@[simp] theorem RegField.width_SAF_SAFE_OK_LEVEL : RegField.width .SAF_SAFE_OK_LEVEL = 3 := rfl
@[simp] theorem RegField.width_SAF_SAFE_OK_DISC_ANY : RegField.width .SAF_SAFE_OK_DISC_ANY = 1 := rfl
@[simp] theorem RegField.width_SAF_SI_STAT_CH1 : RegField.width .SAF_SI_STAT_CH1 = 1 := rfl
@[simp] theorem RegField.width_SAF_SI_STAT_CH2 : RegField.width .SAF_SI_STAT_CH2 = 1 := rfl
@[simp] theorem RegField.width_SAF_SI_STAT_ACTIVE : RegField.width .SAF_SI_STAT_ACTIVE = 1 := rfl
@[simp] theorem RegField.width_SAF_SI_STAT_MIXED : RegField.width .SAF_SI_STAT_MIXED = 1 := rfl
@[simp] theorem RegField.width_SAF_SI_STAT_DISC : RegField.width .SAF_SI_STAT_DISC = 1 := rfl
@[simp] theorem RegField.width_SAF_SI_STAT_DISC_EV : RegField.width .SAF_SI_STAT_DISC_EV = 1 := rfl
@[simp] theorem RegField.width_SAF_SI_STAT_FUNC : RegField.width .SAF_SI_STAT_FUNC = 2 := rfl
@[simp] theorem RegField.width_SAF_SI_STAT_DISC_CNT : RegField.width .SAF_SI_STAT_DISC_CNT = 16 := rfl
@[simp] theorem RegField.width_SAF_UNIT_STAT_FUNC : RegField.width .SAF_UNIT_STAT_FUNC = 3 := rfl
@[simp] theorem RegField.width_SAF_UNIT_STAT_TORQUE : RegField.width .SAF_UNIT_STAT_TORQUE = 1 := rfl
@[simp] theorem RegField.width_SAF_UNIT_STAT_BRAKE_REL : RegField.width .SAF_UNIT_STAT_BRAKE_REL = 1 := rfl
@[simp] theorem RegField.width_SAF_UNIT_STAT_SLS_SET : RegField.width .SAF_UNIT_STAT_SLS_SET = 2 := rfl
@[simp] theorem RegField.width_SAF_UNIT_STAT_ACK_PEND : RegField.width .SAF_UNIT_STAT_ACK_PEND = 1 := rfl
@[simp] theorem RegField.width_SAF_UNIT_STAT_SLS_VIOL : RegField.width .SAF_UNIT_STAT_SLS_VIOL = 1 := rfl
@[simp] theorem RegField.width_SAF_UNIT_STAT_SLP_VIOL : RegField.width .SAF_UNIT_STAT_SLP_VIOL = 1 := rfl
@[simp] theorem RegField.width_SAF_UNIT_STAT_RAMP_VIOL : RegField.width .SAF_UNIT_STAT_RAMP_VIOL = 1 := rfl
@[simp] theorem RegField.width_SAF_UNIT_STAT_SOS_VIOL : RegField.width .SAF_UNIT_STAT_SOS_VIOL = 1 := rfl
@[simp] theorem RegField.width_SAF_UNIT_STAT_STANDSTILL : RegField.width .SAF_UNIT_STAT_STANDSTILL = 1 := rfl
@[simp] theorem RegField.width_SAF_UNIT_STAT_DISABLED : RegField.width .SAF_UNIT_STAT_DISABLED = 1 := rfl
@[simp] theorem RegField.width_SAF_UNIT_STAT_CAUSE : RegField.width .SAF_UNIT_STAT_CAUSE = 8 := rfl
@[simp] theorem RegField.width_SAF_PKG_STAT_STATE : RegField.width .SAF_PKG_STAT_STATE = 3 := rfl
@[simp] theorem RegField.width_SAF_PKG_STAT_RESULT : RegField.width .SAF_PKG_STAT_RESULT = 8 := rfl
@[simp] theorem RegField.width_SAF_PKG_STAT_ENROLLED : RegField.width .SAF_PKG_STAT_ENROLLED = 1 := rfl
@[simp] theorem RegField.width_SAF_PKG_STAT_KEY_SLOT : RegField.width .SAF_PKG_STAT_KEY_SLOT = 3 := rfl
@[simp] theorem RegField.width_SAF_PKG_APPLIED_SEQ : RegField.width .SAF_PKG_APPLIED_SEQ = 32 := rfl
@[simp] theorem RegField.width_SAF_PKG_PEND_SEQ : RegField.width .SAF_PKG_PEND_SEQ = 32 := rfl
@[simp] theorem RegField.width_SAF_PKG_FAIL_OFFSET : RegField.width .SAF_PKG_FAIL_OFFSET = 18 := rfl
@[simp] theorem RegField.width_SAF_DBG_LANE_LANE : RegField.width .SAF_DBG_LANE_LANE = 2 := rfl
@[simp] theorem RegField.width_SAF_DBG_ADDR_ADDR : RegField.width .SAF_DBG_ADDR_ADDR = 16 := rfl
@[simp] theorem RegField.width_SAF_DBG_DATA_DATA : RegField.width .SAF_DBG_DATA_DATA = 32 := rfl
@[simp] theorem RegField.width_FBK_CFG_EN : RegField.width .FBK_CFG_EN = 1 := rfl
@[simp] theorem RegField.width_FBK_CFG_MODE : RegField.width .FBK_CFG_MODE = 3 := rfl
@[simp] theorem RegField.width_FBK_CFG_FILT : RegField.width .FBK_CFG_FILT = 4 := rfl
@[simp] theorem RegField.width_FBK_CFG_REF_MODE : RegField.width .FBK_CFG_REF_MODE = 2 := rfl
@[simp] theorem RegField.width_FBK_CFG_DIR_SRC : RegField.width .FBK_CFG_DIR_SRC = 2 := rfl
@[simp] theorem RegField.width_FBK_CFG_INV : RegField.width .FBK_CFG_INV = 1 := rfl
@[simp] theorem RegField.width_FBK_CFG_Z_AB : RegField.width .FBK_CFG_Z_AB = 2 := rfl
@[simp] theorem RegField.width_FBK_OBS_F_OBS : RegField.width .FBK_OBS_F_OBS = 15 := rfl
@[simp] theorem RegField.width_FBK_VLOW_V : RegField.width .FBK_VLOW_V = 20 := rfl
@[simp] theorem RegField.width_FBK_EIMAX_US : RegField.width .FBK_EIMAX_US = 16 := rfl
@[simp] theorem RegField.width_FBK_TEETH_N : RegField.width .FBK_TEETH_N = 16 := rfl
@[simp] theorem RegField.width_FBK_TEETH_MISS : RegField.width .FBK_TEETH_MISS = 2 := rfl
@[simp] theorem RegField.width_FBK_CPR_N : RegField.width .FBK_CPR_N = 32 := rfl
@[simp] theorem RegField.width_FBK_SER0_LEN : RegField.width .FBK_SER0_LEN = 6 := rfl
@[simp] theorem RegField.width_FBK_SER0_LEAD : RegField.width .FBK_SER0_LEAD = 3 := rfl
@[simp] theorem RegField.width_FBK_SER0_TRAIL : RegField.width .FBK_SER0_TRAIL = 3 := rfl
@[simp] theorem RegField.width_FBK_SER0_GRAY : RegField.width .FBK_SER0_GRAY = 1 := rfl
@[simp] theorem RegField.width_FBK_SER0_DOUBLE : RegField.width .FBK_SER0_DOUBLE = 1 := rfl
@[simp] theorem RegField.width_FBK_SER0_ERR_BIT : RegField.width .FBK_SER0_ERR_BIT = 1 := rfl
@[simp] theorem RegField.width_FBK_SER0_WARN_BIT : RegField.width .FBK_SER0_WARN_BIT = 1 := rfl
@[simp] theorem RegField.width_FBK_SER0_CRC_LEN : RegField.width .FBK_SER0_CRC_LEN = 5 := rfl
@[simp] theorem RegField.width_FBK_SER0_DLY : RegField.width .FBK_SER0_DLY = 8 := rfl
@[simp] theorem RegField.width_FBK_SER1_CRC_POLY : RegField.width .FBK_SER1_CRC_POLY = 16 := rfl
@[simp] theorem RegField.width_FBK_SER1_CLK_KHZ : RegField.width .FBK_SER1_CLK_KHZ = 14 := rfl
@[simp] theorem RegField.width_FBK_SER2_TM_US : RegField.width .FBK_SER2_TM_US = 7 := rfl
@[simp] theorem RegField.width_FBK_SER2_ACK_MAX : RegField.width .FBK_SER2_ACK_MAX = 6 := rfl
@[simp] theorem RegField.width_FBK_SER2_MAXD : RegField.width .FBK_SER2_MAXD = 18 := rfl
@[simp] theorem RegField.width_FBK_STAT_VALID : RegField.width .FBK_STAT_VALID = 1 := rfl
@[simp] theorem RegField.width_FBK_STAT_CHAN_FAULT : RegField.width .FBK_STAT_CHAN_FAULT = 1 := rfl
@[simp] theorem RegField.width_FBK_STAT_LOW : RegField.width .FBK_STAT_LOW = 1 := rfl
@[simp] theorem RegField.width_FBK_STAT_REF_SEEN : RegField.width .FBK_STAT_REF_SEEN = 1 := rfl
@[simp] theorem RegField.width_FBK_STAT_QUAD_ERR : RegField.width .FBK_STAT_QUAD_ERR = 1 := rfl
@[simp] theorem RegField.width_FBK_STAT_REF_ERR : RegField.width .FBK_STAT_REF_ERR = 1 := rfl
@[simp] theorem RegField.width_FBK_STAT_SER_ERR : RegField.width .FBK_STAT_SER_ERR = 1 := rfl
@[simp] theorem RegField.width_FBK_STAT_WARN : RegField.width .FBK_STAT_WARN = 1 := rfl
@[simp] theorem RegField.width_FBK_STAT_FB_CFG_REJECT : RegField.width .FBK_STAT_FB_CFG_REJECT = 1 := rfl
@[simp] theorem RegField.width_FBK_STAT_BUSY : RegField.width .FBK_STAT_BUSY = 1 := rfl
@[simp] theorem RegField.width_FBK_ERR_QUAD_CNT : RegField.width .FBK_ERR_QUAD_CNT = 8 := rfl
@[simp] theorem RegField.width_FBK_ERR_REF_CNT : RegField.width .FBK_ERR_REF_CNT = 8 := rfl
@[simp] theorem RegField.width_FBK_ERR_CRC_CNT : RegField.width .FBK_ERR_CRC_CNT = 8 := rfl
@[simp] theorem RegField.width_FBK_ERR_OTHER_CNT : RegField.width .FBK_ERR_OTHER_CNT = 8 := rfl
@[simp] theorem RegField.width_FBK_CNT_Y : RegField.width .FBK_CNT_Y = 32 := rfl
@[simp] theorem RegField.width_FBK_REFPOS_Y : RegField.width .FBK_REFPOS_Y = 32 := rfl
@[simp] theorem RegField.width_FBK_VEL_V : RegField.width .FBK_VEL_V = 32 := rfl
@[simp] theorem RegField.width_FBK_ACC_A : RegField.width .FBK_ACC_A = 32 := rfl
@[simp] theorem RegField.width_FBK_CTRL_CLR : RegField.width .FBK_CTRL_CLR = 1 := rfl
@[simp] theorem RegField.width_FBK_CTRL_PRESET : RegField.width .FBK_CTRL_PRESET = 1 := rfl
@[simp] theorem RegField.width_FBK_PRESET_Y : RegField.width .FBK_PRESET_Y = 32 := rfl
@[simp] theorem RegField.width_FBK_LDLY_NS : RegField.width .FBK_LDLY_NS = 16 := rfl
@[simp] theorem RegField.width_STP_CFG_MODE : RegField.width .STP_CFG_MODE = 2 := rfl
@[simp] theorem RegField.width_STP_CFG_OUT_FMT : RegField.width .STP_CFG_OUT_FMT = 1 := rfl
@[simp] theorem RegField.width_STP_CFG_DIR_INV : RegField.width .STP_CFG_DIR_INV = 1 := rfl
@[simp] theorem RegField.width_STP_CFG_EN_POL : RegField.width .STP_CFG_EN_POL = 1 := rfl
@[simp] theorem RegField.width_STP_CFG_STEP_POL : RegField.width .STP_CFG_STEP_POL = 1 := rfl
@[simp] theorem RegField.width_STP_CFG_STANDBY : RegField.width .STP_CFG_STANDBY = 2 := rfl
@[simp] theorem RegField.width_STP_CFG_STALL_ACT : RegField.width .STP_CFG_STALL_ACT = 1 := rfl
@[simp] theorem RegField.width_STP_CFG_DEV_EN : RegField.width .STP_CFG_DEV_EN = 1 := rfl
@[simp] theorem RegField.width_STP_CFG_REP_SRC : RegField.width .STP_CFG_REP_SRC = 4 := rfl
@[simp] theorem RegField.width_STP_TIME_STEP_HI : RegField.width .STP_TIME_STEP_HI = 14 := rfl
@[simp] theorem RegField.width_STP_TIME_DIR_SETUP : RegField.width .STP_TIME_DIR_SETUP = 14 := rfl
@[simp] theorem RegField.width_STP_WAKE_WAKE_US : RegField.width .STP_WAKE_WAKE_US = 10 := rfl
@[simp] theorem RegField.width_STP_WAKE_IDLE_MS : RegField.width .STP_WAKE_IDLE_MS = 10 := rfl
@[simp] theorem RegField.width_STP_RATIO_NUM : RegField.width .STP_RATIO_NUM = 16 := rfl
@[simp] theorem RegField.width_STP_RATIO_DEN : RegField.width .STP_RATIO_DEN = 16 := rfl
@[simp] theorem RegField.width_STP_ENC_ENC_NUM : RegField.width .STP_ENC_ENC_NUM = 16 := rfl
@[simp] theorem RegField.width_STP_ENC_ENC_DEN : RegField.width .STP_ENC_ENC_DEN = 16 := rfl
@[simp] theorem RegField.width_STP_DEV_DEV_WIN : RegField.width .STP_DEV_DEV_WIN = 16 := rfl
@[simp] theorem RegField.width_STP_DEV_STALL_FR : RegField.width .STP_DEV_STALL_FR = 8 := rfl
@[simp] theorem RegField.width_STP_VLIM_LO_STEPS : RegField.width .STP_VLIM_LO_STEPS = 32 := rfl
@[simp] theorem RegField.width_STP_VLIM_HI_STEPS : RegField.width .STP_VLIM_HI_STEPS = 32 := rfl
@[simp] theorem RegField.width_STP_STALL_STEPS : RegField.width .STP_STALL_STEPS = 16 := rfl
@[simp] theorem RegField.width_STP_CTRL_RUN : RegField.width .STP_CTRL_RUN = 1 := rfl
@[simp] theorem RegField.width_STP_CTRL_REARM : RegField.width .STP_CTRL_REARM = 1 := rfl
@[simp] theorem RegField.width_STP_STAT_HELD : RegField.width .STP_STAT_HELD = 1 := rfl
@[simp] theorem RegField.width_STP_STAT_STANDBY_ON : RegField.width .STP_STAT_STANDBY_ON = 1 := rfl
@[simp] theorem RegField.width_STP_STAT_LOST_STEP : RegField.width .STP_STAT_LOST_STEP = 1 := rfl
@[simp] theorem RegField.width_STP_STAT_STALL : RegField.width .STP_STAT_STALL = 1 := rfl
@[simp] theorem RegField.width_STP_STAT_FB_LOST : RegField.width .STP_STAT_FB_LOST = 1 := rfl
@[simp] theorem RegField.width_STP_STAT_STEP_LIMIT : RegField.width .STP_STAT_STEP_LIMIT = 1 := rfl
@[simp] theorem RegField.width_STP_STAT_VLIM_HIT : RegField.width .STP_STAT_VLIM_HIT = 1 := rfl
@[simp] theorem RegField.width_STP_STAT_REP_OVF : RegField.width .STP_STAT_REP_OVF = 1 := rfl
@[simp] theorem RegField.width_STP_STAT_SP_CFG_REJECT : RegField.width .STP_STAT_SP_CFG_REJECT = 1 := rfl
@[simp] theorem RegField.width_STP_STAT_GRANTED : RegField.width .STP_STAT_GRANTED = 1 := rfl
@[simp] theorem RegField.width_STP_STAT_BUSY : RegField.width .STP_STAT_BUSY = 1 := rfl
@[simp] theorem RegField.width_STP_POS_S : RegField.width .STP_POS_S = 32 := rfl
@[simp] theorem RegField.width_STP_DEVV_E : RegField.width .STP_DEVV_E = 32 := rfl
@[simp] theorem RegField.width_STP_LAG_STEPS : RegField.width .STP_LAG_STEPS = 32 := rfl
@[simp] theorem RegField.width_ADC_CFG_LP : RegField.width .ADC_CFG_LP = 1 := rfl
@[simp] theorem RegField.width_ADC_REF_EN : RegField.width .ADC_REF_EN = 1 := rfl
@[simp] theorem RegField.width_ADC_REF_READY : RegField.width .ADC_REF_READY = 1 := rfl
@[simp] theorem RegField.width_ADC_STATUS_BUSY : RegField.width .ADC_STATUS_BUSY = 1 := rfl
@[simp] theorem RegField.width_ADC_STATUS_CHK_FAIL : RegField.width .ADC_STATUS_CHK_FAIL = 1 := rfl
@[simp] theorem RegField.width_ADC_STATUS_TRIG_EARLY : RegField.width .ADC_STATUS_TRIG_EARLY = 1 := rfl
@[simp] theorem RegField.width_ADC_STATUS_SEQ_ACTIVE : RegField.width .ADC_STATUS_SEQ_ACTIVE = 1 := rfl
@[simp] theorem RegField.width_ADC_STATUS_TRIG_QUEUED : RegField.width .ADC_STATUS_TRIG_QUEUED = 1 := rfl
@[simp] theorem RegField.width_ADC_STATUS_CORR_RESTORE : RegField.width .ADC_STATUS_CORR_RESTORE = 1 := rfl
@[simp] theorem RegField.width_ADC_STATUS_SEQ_CFG_REJECT : RegField.width .ADC_STATUS_SEQ_CFG_REJECT = 1 := rfl
@[simp] theorem RegField.width_ADC_CNT_TRIG_OVERRUN : RegField.width .ADC_CNT_TRIG_OVERRUN = 16 := rfl
@[simp] theorem RegField.width_ADC_CNT_CHK_FAIL_CNT : RegField.width .ADC_CNT_CHK_FAIL_CNT = 16 := rfl
@[simp] theorem RegField.width_ADC_SNAP_FRAME_NO : RegField.width .ADC_SNAP_FRAME_NO = 32 := rfl
@[simp] theorem RegField.width_ADC_SEQ_CTRL_EN : RegField.width .ADC_SEQ_CTRL_EN = 1 := rfl
@[simp] theorem RegField.width_ADC_SEQ_CTRL_TRIG_SRC : RegField.width .ADC_SEQ_CTRL_TRIG_SRC = 4 := rfl
@[simp] theorem RegField.width_ADC_SEQ_CTRL_GO : RegField.width .ADC_SEQ_CTRL_GO = 1 := rfl
@[simp] theorem RegField.width_ADC_SEQ_CTRL_CLR_ON_START : RegField.width .ADC_SEQ_CTRL_CLR_ON_START = 1 := rfl
@[simp] theorem RegField.width_ADC_SEQ_CTRL_LEN0 : RegField.width .ADC_SEQ_CTRL_LEN0 = 6 := rfl
@[simp] theorem RegField.width_ADC_SEQ_CTRL_LEN1 : RegField.width .ADC_SEQ_CTRL_LEN1 = 6 := rfl
@[simp] theorem RegField.width_ADC_CH_STAT_OVR : RegField.width .ADC_CH_STAT_OVR = 1 := rfl
@[simp] theorem RegField.width_ADC_CH_STAT_OVR_CNT : RegField.width .ADC_CH_STAT_OVR_CNT = 8 := rfl
@[simp] theorem RegField.width_ADC_CORR_OFFSET : RegField.width .ADC_CORR_OFFSET = 16 := rfl
@[simp] theorem RegField.width_ADC_CORR_GAIN : RegField.width .ADC_CORR_GAIN = 16 := rfl
@[simp] theorem RegField.width_ADC_FRAME_MEAN : RegField.width .ADC_FRAME_MEAN = 16 := rfl
@[simp] theorem RegField.width_ADC_FRAME_MAX : RegField.width .ADC_FRAME_MAX = 16 := rfl
@[simp] theorem RegField.width_ADC_FRAME_MIN : RegField.width .ADC_FRAME_MIN = 16 := rfl
@[simp] theorem RegField.width_ADC_FRAME_COUNT : RegField.width .ADC_FRAME_COUNT = 16 := rfl
@[simp] theorem RegField.width_ADC_SEQ0_E_CHAN : RegField.width .ADC_SEQ0_E_CHAN = 5 := rfl
@[simp] theorem RegField.width_ADC_SEQ0_E_OVS : RegField.width .ADC_SEQ0_E_OVS = 3 := rfl
@[simp] theorem RegField.width_ADC_SEQ0_E_SETTLE : RegField.width .ADC_SEQ0_E_SETTLE = 4 := rfl
@[simp] theorem RegField.width_ADC_SEQ0_E_DEST : RegField.width .ADC_SEQ0_E_DEST = 5 := rfl
@[simp] theorem RegField.width_ADC_SEQ1_E_CHAN : RegField.width .ADC_SEQ1_E_CHAN = 5 := rfl
@[simp] theorem RegField.width_ADC_SEQ1_E_OVS : RegField.width .ADC_SEQ1_E_OVS = 3 := rfl
@[simp] theorem RegField.width_ADC_SEQ1_E_SETTLE : RegField.width .ADC_SEQ1_E_SETTLE = 4 := rfl
@[simp] theorem RegField.width_ADC_SEQ1_E_DEST : RegField.width .ADC_SEQ1_E_DEST = 5 := rfl
@[simp] theorem RegField.width_ADC_UA_SUM_SUM : RegField.width .ADC_UA_SUM_SUM = 32 := rfl
@[simp] theorem RegField.width_ADC_UA_CNT_COUNT : RegField.width .ADC_UA_CNT_COUNT = 16 := rfl
@[simp] theorem RegField.width_ADC_UA_CNT_FULL : RegField.width .ADC_UA_CNT_FULL = 1 := rfl
@[simp] theorem RegField.width_ADC_UA_MM_MIN : RegField.width .ADC_UA_MM_MIN = 16 := rfl
@[simp] theorem RegField.width_ADC_UA_MM_MAX : RegField.width .ADC_UA_MM_MAX = 16 := rfl
@[simp] theorem RegField.width_ADC_UA_CLR_CLR : RegField.width .ADC_UA_CLR_CLR = 1 := rfl
@[simp] theorem RegField.width_SMY_CTRL_RUN : RegField.width .SMY_CTRL_RUN = 1 := rfl
@[simp] theorem RegField.width_SMY_CTRL_HALT_REQ : RegField.width .SMY_CTRL_HALT_REQ = 1 := rfl
@[simp] theorem RegField.width_SMY_CTRL_START : RegField.width .SMY_CTRL_START = 1 := rfl
@[simp] theorem RegField.width_SMY_CFG_TRIG_SRC : RegField.width .SMY_CFG_TRIG_SRC = 4 := rfl
@[simp] theorem RegField.width_SMY_CFG_FRAC : RegField.width .SMY_CFG_FRAC = 1 := rfl
@[simp] theorem RegField.width_SMY_CFG_ENTRY : RegField.width .SMY_CFG_ENTRY = 12 := rfl
@[simp] theorem RegField.width_SMY_BUDGET_CLK : RegField.width .SMY_BUDGET_CLK = 16 := rfl
@[simp] theorem RegField.width_SMY_STAT_ACTIVE : RegField.width .SMY_STAT_ACTIVE = 1 := rfl
@[simp] theorem RegField.width_SMY_STAT_QUEUED : RegField.width .SMY_STAT_QUEUED = 1 := rfl
@[simp] theorem RegField.width_SMY_STAT_SAT : RegField.width .SMY_STAT_SAT = 1 := rfl
@[simp] theorem RegField.width_SMY_STAT_ILLEGAL : RegField.width .SMY_STAT_ILLEGAL = 1 := rfl
@[simp] theorem RegField.width_SMY_STAT_BUDGET_EXCEEDED : RegField.width .SMY_STAT_BUDGET_EXCEEDED = 1 := rfl
@[simp] theorem RegField.width_SMY_STAT_BUSY : RegField.width .SMY_STAT_BUSY = 1 := rfl
@[simp] theorem RegField.width_SMY_STAT_PC : RegField.width .SMY_STAT_PC = 12 := rfl
@[simp] theorem RegField.width_SMY_CNT_TRIG_OVERRUN : RegField.width .SMY_CNT_TRIG_OVERRUN = 16 := rfl
@[simp] theorem RegField.width_SMY_CNT_RUNS : RegField.width .SMY_CNT_RUNS = 16 := rfl
@[simp] theorem RegField.width_SMY_CYC_LAST : RegField.width .SMY_CYC_LAST = 16 := rfl
@[simp] theorem RegField.width_SMY_CYC_MAX : RegField.width .SMY_CYC_MAX = 16 := rfl
@[simp] theorem RegField.width_SMY_PADDR_ADDR : RegField.width .SMY_PADDR_ADDR = 12 := rfl
@[simp] theorem RegField.width_SMY_PDATA_WORD : RegField.width .SMY_PDATA_WORD = 32 := rfl
@[simp] theorem RegField.width_SMY_DADDR_ADDR : RegField.width .SMY_DADDR_ADDR = 12 := rfl
@[simp] theorem RegField.width_SMY_DADDR_Y : RegField.width .SMY_DADDR_Y = 1 := rfl
@[simp] theorem RegField.width_SMY_DDATA_WORD : RegField.width .SMY_DDATA_WORD = 16 := rfl
@[simp] theorem RegField.width_SMY_OUT_V : RegField.width .SMY_OUT_V = 32 := rfl
@[simp] theorem RegField.width_SMY_SIG_CODE : RegField.width .SMY_SIG_CODE = 16 := rfl
@[simp] theorem RegField.width_SMY_SIG_DROPPED : RegField.width .SMY_SIG_DROPPED = 16 := rfl
@[simp] theorem RegField.width_RVE_CFG_RUN_MAX_US : RegField.width .RVE_CFG_RUN_MAX_US = 10 := rfl
@[simp] theorem RegField.width_RVE_STATUS_BUSY : RegField.width .RVE_STATUS_BUSY = 1 := rfl
@[simp] theorem RegField.width_RVE_STATUS_OVERLONG : RegField.width .RVE_STATUS_OVERLONG = 1 := rfl
@[simp] theorem RegField.width_RVE_STATUS_POOL_LOW : RegField.width .RVE_STATUS_POOL_LOW = 1 := rfl
@[simp] theorem RegField.width_RVE_STATUS_LANE_OVF : RegField.width .RVE_STATUS_LANE_OVF = 1 := rfl
@[simp] theorem RegField.width_RVE_STATUS_NO_TASK : RegField.width .RVE_STATUS_NO_TASK = 1 := rfl
@[simp] theorem RegField.width_RVE_CNT_FREE_ITEMS : RegField.width .RVE_CNT_FREE_ITEMS = 12 := rfl
@[simp] theorem RegField.width_RVE_CNT_TASKS : RegField.width .RVE_CNT_TASKS = 9 := rfl
@[simp] theorem RegField.width_RVE_CNT_ETH_DROP : RegField.width .RVE_CNT_ETH_DROP = 16 := rfl
@[simp] theorem RegField.width_RVE_CNT_POOL_EMPTY : RegField.width .RVE_CNT_POOL_EMPTY = 16 := rfl
@[simp] theorem RegField.width_RVE_CORE_SLOTS : RegField.width .RVE_CORE_SLOTS = 4 := rfl
@[simp] theorem RegField.width_RVE_CORE_TASK : RegField.width .RVE_CORE_TASK = 8 := rfl
@[simp] theorem RegField.width_RVE_CORE_RUNNING : RegField.width .RVE_CORE_RUNNING = 1 := rfl
@[simp] theorem RegField.width_RVE_CORE_RUN_CLK : RegField.width .RVE_CORE_RUN_CLK = 32 := rfl
@[simp] theorem RegField.width_RVE_CORE_DISPLACED : RegField.width .RVE_CORE_DISPLACED = 16 := rfl
@[simp] theorem RegField.width_RVE_CORE_OVERLONG_CNT : RegField.width .RVE_CORE_OVERLONG_CNT = 16 := rfl
@[simp] theorem RegField.width_RVE_TASK_STAT_STATE : RegField.width .RVE_TASK_STAT_STATE = 3 := rfl
@[simp] theorem RegField.width_RVE_TASK_STAT_KIND : RegField.width .RVE_TASK_STAT_KIND = 1 := rfl
@[simp] theorem RegField.width_RVE_TASK_STAT_PRIO : RegField.width .RVE_TASK_STAT_PRIO = 3 := rfl
@[simp] theorem RegField.width_RVE_TASK_STAT_AFFINITY : RegField.width .RVE_TASK_STAT_AFFINITY = 4 := rfl
@[simp] theorem RegField.width_RVE_TASK_STAT_SIGNAL : RegField.width .RVE_TASK_STAT_SIGNAL = 1 := rfl
@[simp] theorem RegField.width_RVE_TASK_STAT_CANCEL_REQ : RegField.width .RVE_TASK_STAT_CANCEL_REQ = 1 := rfl
@[simp] theorem RegField.width_RVE_TASK_STAT_FLOW : RegField.width .RVE_TASK_STAT_FLOW = 8 := rfl
@[simp] theorem RegField.width_RVE_TASK_QUEUE_ITEMS : RegField.width .RVE_TASK_QUEUE_ITEMS = 12 := rfl
@[simp] theorem RegField.width_RVE_TASK_QUEUE_RUNS : RegField.width .RVE_TASK_QUEUE_RUNS = 16 := rfl
@[simp] theorem RegField.width_RVE_FLOW_CFG_MODE : RegField.width .RVE_FLOW_CFG_MODE = 1 := rfl
@[simp] theorem RegField.width_RVE_FLOW_CFG_NEXT : RegField.width .RVE_FLOW_CFG_NEXT = 16 := rfl
@[simp] theorem RegField.width_RVE_FLOW_STAT_REL : RegField.width .RVE_FLOW_STAT_REL = 16 := rfl
@[simp] theorem RegField.width_RVE_FLOW_STAT_HELD : RegField.width .RVE_FLOW_STAT_HELD = 6 := rfl
@[simp] theorem RegField.width_RVE_FLOW_STAT_BLOCKED : RegField.width .RVE_FLOW_STAT_BLOCKED = 10 := rfl
@[simp] theorem RegField.width_HST_CFG_POLL_US : RegField.width .HST_CFG_POLL_US = 7 := rfl
@[simp] theorem RegField.width_HST_CFG_HINT_US : RegField.width .HST_CFG_HINT_US = 14 := rfl
@[simp] theorem RegField.width_HST_CFG_HINT_EN : RegField.width .HST_CFG_HINT_EN = 1 := rfl
@[simp] theorem RegField.width_HST_DB_BASE_LO_ADDR : RegField.width .HST_DB_BASE_LO_ADDR = 26 := rfl
@[simp] theorem RegField.width_HST_DB_BASE_HI_ADDR : RegField.width .HST_DB_BASE_HI_ADDR = 32 := rfl
@[simp] theorem RegField.width_HST_STATUS_BUSY : RegField.width .HST_STATUS_BUSY = 1 := rfl
@[simp] theorem RegField.width_HST_STATUS_LINK_UP : RegField.width .HST_STATUS_LINK_UP = 1 := rfl
@[simp] theorem RegField.width_HST_STATUS_IN_FLIGHT : RegField.width .HST_STATUS_IN_FLIGHT = 8 := rfl
@[simp] theorem RegField.width_HST_STATUS_IMM_FLIGHT : RegField.width .HST_STATUS_IMM_FLIGHT = 5 := rfl
@[simp] theorem RegField.width_HST_CNT_REJECTS : RegField.width .HST_CNT_REJECTS = 16 := rfl
@[simp] theorem RegField.width_HST_CNT_REPLAYS : RegField.width .HST_CNT_REPLAYS = 16 := rfl
@[simp] theorem RegField.width_HST_EVQ_BASE_LO_ADDR : RegField.width .HST_EVQ_BASE_LO_ADDR = 26 := rfl
@[simp] theorem RegField.width_HST_EVQ_BASE_HI_ADDR : RegField.width .HST_EVQ_BASE_HI_ADDR = 32 := rfl
@[simp] theorem RegField.width_HST_EVQ_CFG_EN : RegField.width .HST_EVQ_CFG_EN = 1 := rfl
@[simp] theorem RegField.width_HST_EVQ_CFG_SIZE : RegField.width .HST_EVQ_CFG_SIZE = 5 := rfl
@[simp] theorem RegField.width_HST_EVQ_STAT_TAIL : RegField.width .HST_EVQ_STAT_TAIL = 16 := rfl
@[simp] theorem RegField.width_HST_EVQ_STAT_LOST : RegField.width .HST_EVQ_STAT_LOST = 16 := rfl
@[simp] theorem RegField.width_HST_SQ_BASE_LO_ADDR : RegField.width .HST_SQ_BASE_LO_ADDR = 26 := rfl
@[simp] theorem RegField.width_HST_SQ_BASE_HI_ADDR : RegField.width .HST_SQ_BASE_HI_ADDR = 32 := rfl
@[simp] theorem RegField.width_HST_SQ_CFG_EN : RegField.width .HST_SQ_CFG_EN = 1 := rfl
@[simp] theorem RegField.width_HST_SQ_CFG_SEQ_RESET : RegField.width .HST_SQ_CFG_SEQ_RESET = 1 := rfl
@[simp] theorem RegField.width_HST_SQ_CFG_CQ : RegField.width .HST_SQ_CFG_CQ = 4 := rfl
@[simp] theorem RegField.width_HST_SQ_CFG_SIZE : RegField.width .HST_SQ_CFG_SIZE = 4 := rfl
@[simp] theorem RegField.width_HST_SQ_STAT_HEAD : RegField.width .HST_SQ_STAT_HEAD = 12 := rfl
@[simp] theorem RegField.width_HST_SQ_STAT_Q_ERR : RegField.width .HST_SQ_STAT_Q_ERR = 1 := rfl
@[simp] theorem RegField.width_HST_SQ_STAT_IN_FLIGHT : RegField.width .HST_SQ_STAT_IN_FLIGHT = 8 := rfl
@[simp] theorem RegField.width_HST_CQ_BASE_LO_ADDR : RegField.width .HST_CQ_BASE_LO_ADDR = 26 := rfl
@[simp] theorem RegField.width_HST_CQ_BASE_HI_ADDR : RegField.width .HST_CQ_BASE_HI_ADDR = 32 := rfl
@[simp] theorem RegField.width_HST_CQ_CFG_EN : RegField.width .HST_CQ_CFG_EN = 1 := rfl
@[simp] theorem RegField.width_HST_CQ_CFG_SIZE : RegField.width .HST_CQ_CFG_SIZE = 4 := rfl
@[simp] theorem RegField.width_HST_CQ_STAT_TAIL : RegField.width .HST_CQ_STAT_TAIL = 12 := rfl
@[simp] theorem RegField.width_HST_CQ_STAT_PHASE : RegField.width .HST_CQ_STAT_PHASE = 1 := rfl
@[simp] theorem RegField.width_HST_CQ_STAT_Q_ERR : RegField.width .HST_CQ_STAT_Q_ERR = 1 := rfl
@[simp] theorem RegField.width_HST_CQ_STAT_OWED : RegField.width .HST_CQ_STAT_OWED = 12 := rfl
@[simp] theorem RegField.width_SYS_ID_STEP : RegField.width .SYS_ID_STEP = 8 := rfl
@[simp] theorem RegField.width_SYS_ID_PART : RegField.width .SYS_ID_PART = 16 := rfl
@[simp] theorem RegField.width_SYS_ID_VENDOR : RegField.width .SYS_ID_VENDOR = 8 := rfl
@[simp] theorem RegField.width_SYS_SERIAL_LO_SN : RegField.width .SYS_SERIAL_LO_SN = 32 := rfl
@[simp] theorem RegField.width_SYS_SERIAL_HI_SN : RegField.width .SYS_SERIAL_HI_SN = 32 := rfl
@[simp] theorem RegField.width_SYS_FW_VERSION_CODE : RegField.width .SYS_FW_VERSION_CODE = 32 := rfl
@[simp] theorem RegField.width_SYS_ROM_VERSION_CODE : RegField.width .SYS_ROM_VERSION_CODE = 32 := rfl
@[simp] theorem RegField.width_SYS_BOOT_COUNT_N : RegField.width .SYS_BOOT_COUNT_N = 32 := rfl
@[simp] theorem RegField.width_SYS_MODE_MODE : RegField.width .SYS_MODE_MODE = 3 := rfl
@[simp] theorem RegField.width_SYS_MODE_FW_SLOT : RegField.width .SYS_MODE_FW_SLOT = 1 := rfl
@[simp] theorem RegField.width_SYS_MODE_CFG_SLOT : RegField.width .SYS_MODE_CFG_SLOT = 1 := rfl
@[simp] theorem RegField.width_SYS_MODE_HOLD_CAUSE : RegField.width .SYS_MODE_HOLD_CAUSE = 2 := rfl
@[simp] theorem RegField.width_SYS_STATUS_LOCK_VIOL : RegField.width .SYS_STATUS_LOCK_VIOL = 1 := rfl
@[simp] theorem RegField.width_SYS_STATUS_BUSY_DROP : RegField.width .SYS_STATUS_BUSY_DROP = 1 := rfl
@[simp] theorem RegField.width_SYS_STATUS_BUSY_REJECT : RegField.width .SYS_STATUS_BUSY_REJECT = 1 := rfl
@[simp] theorem RegField.width_SYS_STATUS_PAIR_REJECT : RegField.width .SYS_STATUS_PAIR_REJECT = 1 := rfl
@[simp] theorem RegField.width_SYS_STATUS_ACCESS_ERR : RegField.width .SYS_STATUS_ACCESS_ERR = 1 := rfl
@[simp] theorem RegField.width_SYS_STATUS_BOOT_DONE : RegField.width .SYS_STATUS_BOOT_DONE = 1 := rfl
@[simp] theorem RegField.width_SYS_COMMIT_GO : RegField.width .SYS_COMMIT_GO = 1 := rfl
@[simp] theorem RegField.width_SYS_COMMIT_ABORT : RegField.width .SYS_COMMIT_ABORT = 1 := rfl
@[simp] theorem RegField.width_SYS_COMMIT_STAT_PENDING : RegField.width .SYS_COMMIT_STAT_PENDING = 1 := rfl
@[simp] theorem RegField.width_SYS_COMMIT_STAT_ARMED : RegField.width .SYS_COMMIT_STAT_ARMED = 1 := rfl
@[simp] theorem RegField.width_SYS_COMMIT_STAT_LATE : RegField.width .SYS_COMMIT_STAT_LATE = 1 := rfl
@[simp] theorem RegField.width_SYS_COMMIT_STAT_COUNT : RegField.width .SYS_COMMIT_STAT_COUNT = 16 := rfl
@[simp] theorem RegField.width_SYS_COMMIT_FRAME_FRAME : RegField.width .SYS_COMMIT_FRAME_FRAME = 32 := rfl
@[simp] theorem RegField.width_SYS_LOCK_LOCK : RegField.width .SYS_LOCK_LOCK = 1 := rfl
@[simp] theorem RegField.width_SYS_ACCESS_ALIAS_EN : RegField.width .SYS_ACCESS_ALIAS_EN = 1 := rfl
@[simp] theorem RegField.width_SYS_BUSY_BLF : RegField.width .SYS_BUSY_BLF = 1 := rfl
@[simp] theorem RegField.width_SYS_BUSY_ENT : RegField.width .SYS_BUSY_ENT = 3 := rfl
@[simp] theorem RegField.width_SYS_BUSY_PLN : RegField.width .SYS_BUSY_PLN = 1 := rfl
@[simp] theorem RegField.width_SYS_BUSY_MIL : RegField.width .SYS_BUSY_MIL = 1 := rfl
@[simp] theorem RegField.width_SYS_BUSY_RVE : RegField.width .SYS_BUSY_RVE = 1 := rfl
@[simp] theorem RegField.width_SYS_BUSY_HST : RegField.width .SYS_BUSY_HST = 1 := rfl
@[simp] theorem RegField.width_SYS_BUSY_ADC : RegField.width .SYS_BUSY_ADC = 1 := rfl
@[simp] theorem RegField.width_SYS_BUSY_SMY : RegField.width .SYS_BUSY_SMY = 2 := rfl
@[simp] theorem RegField.width_SYS_BUSY_PWR : RegField.width .SYS_BUSY_PWR = 1 := rfl
@[simp] theorem RegField.width_SYS_BUSY_GRP : RegField.width .SYS_BUSY_GRP = 1 := rfl
@[simp] theorem RegField.width_SYS_BUSY_PORTS : RegField.width .SYS_BUSY_PORTS = 16 := rfl
@[simp] theorem RegField.width_SYS_ERR_CNT0_LOCK_VIOL_CNT : RegField.width .SYS_ERR_CNT0_LOCK_VIOL_CNT = 16 := rfl
@[simp] theorem RegField.width_SYS_ERR_CNT0_ACCESS_ERR_CNT : RegField.width .SYS_ERR_CNT0_ACCESS_ERR_CNT = 16 := rfl
@[simp] theorem RegField.width_SYS_ERR_CNT1_BUSY_DROP_CNT : RegField.width .SYS_ERR_CNT1_BUSY_DROP_CNT = 16 := rfl
@[simp] theorem RegField.width_SYS_ERR_CNT1_BUSY_REJECT_CNT : RegField.width .SYS_ERR_CNT1_BUSY_REJECT_CNT = 16 := rfl
@[simp] theorem RegField.width_SYS_ERR_LAST_ADDR : RegField.width .SYS_ERR_LAST_ADDR = 19 := rfl
@[simp] theorem RegField.width_SYS_ERR_LAST_CAUSE : RegField.width .SYS_ERR_LAST_CAUSE = 3 := rfl
@[simp] theorem RegField.width_SYS_ERR_LAST_MASTER : RegField.width .SYS_ERR_LAST_MASTER = 3 := rfl
@[simp] theorem RegField.width_SYS_CAPS0_ARMS : RegField.width .SYS_CAPS0_ARMS = 16 := rfl
@[simp] theorem RegField.width_SYS_CAPS0_JOINTS : RegField.width .SYS_CAPS0_JOINTS = 16 := rfl
@[simp] theorem RegField.width_SYS_CAPS1_LOCAL_AXES : RegField.width .SYS_CAPS1_LOCAL_AXES = 16 := rfl
@[simp] theorem RegField.width_SYS_CAPS1_PORTS : RegField.width .SYS_CAPS1_PORTS = 16 := rfl
@[simp] theorem RegField.width_SYS_CAPS2_DEVICES : RegField.width .SYS_CAPS2_DEVICES = 8 := rfl
@[simp] theorem RegField.width_SYS_CAPS2_DEPTH : RegField.width .SYS_CAPS2_DEPTH = 8 := rfl
@[simp] theorem RegField.width_SYS_CAPS2_UNIT_ADDR : RegField.width .SYS_CAPS2_UNIT_ADDR = 16 := rfl
@[simp] theorem RegField.width_SYS_SCRATCH_V : RegField.width .SYS_SCRATCH_V = 32 := rfl
@[simp] theorem RegField.width_SYS_REGDIG_CTRL_GO : RegField.width .SYS_REGDIG_CTRL_GO = 1 := rfl
@[simp] theorem RegField.width_SYS_REGDIG_CTRL_DONE : RegField.width .SYS_REGDIG_CTRL_DONE = 1 := rfl
@[simp] theorem RegField.width_SYS_REGDIG_LO_CRC : RegField.width .SYS_REGDIG_LO_CRC = 32 := rfl
@[simp] theorem RegField.width_SYS_REGDIG_HI_CRC : RegField.width .SYS_REGDIG_HI_CRC = 32 := rfl
@[simp] theorem RegField.width_SYS_BLK_BASE : RegField.width .SYS_BLK_BASE = 9 := rfl
@[simp] theorem RegField.width_SYS_BLK_SIZE : RegField.width .SYS_BLK_SIZE = 4 := rfl
@[simp] theorem RegField.width_SYS_BLK_WORDS : RegField.width .SYS_BLK_WORDS = 16 := rfl
@[simp] theorem RegField.width_CRI_LOG_OLD_SEQ : RegField.width .CRI_LOG_OLD_SEQ = 32 := rfl
@[simp] theorem RegField.width_CRI_LOG_NEW_SEQ : RegField.width .CRI_LOG_NEW_SEQ = 32 := rfl
@[simp] theorem RegField.width_CRI_LOG_OVW_CNT : RegField.width .CRI_LOG_OVW_CNT = 32 := rfl
@[simp] theorem RegField.width_CRI_STAT_COPYING : RegField.width .CRI_STAT_COPYING = 1 := rfl
@[simp] theorem RegField.width_CRI_STAT_QUEUE_FULL : RegField.width .CRI_STAT_QUEUE_FULL = 1 := rfl
@[simp] theorem RegField.width_CRI_SRC_CNT_N : RegField.width .CRI_SRC_CNT_N = 32 := rfl
@[simp] theorem RegField.width_CRI_SRC_LAST_CODE : RegField.width .CRI_SRC_LAST_CODE = 16 := rfl
@[simp] theorem RegField.width_CRI_SRC_LAST_FRAME : RegField.width .CRI_SRC_LAST_FRAME = 16 := rfl
@[simp] theorem RegField.width_GRP_STATUS_BUSY : RegField.width .GRP_STATUS_BUSY = 1 := rfl
@[simp] theorem RegField.width_GRP_STATUS_ROLE : RegField.width .GRP_STATUS_ROLE = 3 := rfl
@[simp] theorem RegField.width_GRP_STATUS_GSTATE : RegField.width .GRP_STATUS_GSTATE = 2 := rfl
@[simp] theorem RegField.width_GRP_STATUS_QUARANTINED : RegField.width .GRP_STATUS_QUARANTINED = 1 := rfl
@[simp] theorem RegField.width_GRP_STATUS_PARTITION : RegField.width .GRP_STATUS_PARTITION = 1 := rfl
@[simp] theorem RegField.width_GRP_STATUS_MEMBER_LOST : RegField.width .GRP_STATUS_MEMBER_LOST = 1 := rfl
@[simp] theorem RegField.width_GRP_STATUS_DIGEST_MISMATCH : RegField.width .GRP_STATUS_DIGEST_MISMATCH = 1 := rfl
@[simp] theorem RegField.width_GRP_STATUS_VERSION_MISMATCH : RegField.width .GRP_STATUS_VERSION_MISMATCH = 1 := rfl
@[simp] theorem RegField.width_GRP_STATUS_FRAME_ALIGNED : RegField.width .GRP_STATUS_FRAME_ALIGNED = 1 := rfl
@[simp] theorem RegField.width_GRP_STATUS_TIME_SLEW : RegField.width .GRP_STATUS_TIME_SLEW = 1 := rfl
@[simp] theorem RegField.width_GRP_STATUS_STEWARD_LOST : RegField.width .GRP_STATUS_STEWARD_LOST = 1 := rfl
@[simp] theorem RegField.width_GRP_SELF_SLOT : RegField.width .GRP_SELF_SLOT = 3 := rfl
@[simp] theorem RegField.width_GRP_SELF_LEVELS : RegField.width .GRP_SELF_LEVELS = 3 := rfl
@[simp] theorem RegField.width_GRP_SELF_UNIT_ADDR : RegField.width .GRP_SELF_UNIT_ADDR = 16 := rfl
@[simp] theorem RegField.width_GRP_STEWARD_SLOT : RegField.width .GRP_STEWARD_SLOT = 3 := rfl
@[simp] theorem RegField.width_GRP_STEWARD_UNIT_ADDR : RegField.width .GRP_STEWARD_UNIT_ADDR = 16 := rfl
@[simp] theorem RegField.width_GRP_DEPUTY_SLOT : RegField.width .GRP_DEPUTY_SLOT = 3 := rfl
@[simp] theorem RegField.width_GRP_DEPUTY_NONE : RegField.width .GRP_DEPUTY_NONE = 1 := rfl
@[simp] theorem RegField.width_GRP_DEPUTY_UNIT_ADDR : RegField.width .GRP_DEPUTY_UNIT_ADDR = 16 := rfl
@[simp] theorem RegField.width_GRP_PRESENT_MASK : RegField.width .GRP_PRESENT_MASK = 8 := rfl
@[simp] theorem RegField.width_GRP_PRESENT_QUAR : RegField.width .GRP_PRESENT_QUAR = 8 := rfl
@[simp] theorem RegField.width_GRP_PRESENT_ELIGIBLE : RegField.width .GRP_PRESENT_ELIGIBLE = 8 := rfl
@[simp] theorem RegField.width_GRP_CYCLE_FRAME : RegField.width .GRP_CYCLE_FRAME = 32 := rfl
@[simp] theorem RegField.width_GRP_DIG_LO_D : RegField.width .GRP_DIG_LO_D = 32 := rfl
@[simp] theorem RegField.width_GRP_DIG_HI_D : RegField.width .GRP_DIG_HI_D = 32 := rfl
@[simp] theorem RegField.width_GRP_STW_DIG_LO_D : RegField.width .GRP_STW_DIG_LO_D = 32 := rfl
@[simp] theorem RegField.width_GRP_STW_DIG_HI_D : RegField.width .GRP_STW_DIG_HI_D = 32 := rfl
@[simp] theorem RegField.width_GRP_STW_FW_CODE : RegField.width .GRP_STW_FW_CODE = 32 := rfl
@[simp] theorem RegField.width_GRP_CNT0_FRAMES_LOST : RegField.width .GRP_CNT0_FRAMES_LOST = 16 := rfl
@[simp] theorem RegField.width_GRP_CNT0_FRAMES_BAD : RegField.width .GRP_CNT0_FRAMES_BAD = 16 := rfl
@[simp] theorem RegField.width_GRP_CNT1_FORWARDED : RegField.width .GRP_CNT1_FORWARDED = 16 := rfl
@[simp] theorem RegField.width_GRP_CNT1_PARTITIONS : RegField.width .GRP_CNT1_PARTITIONS = 16 := rfl
@[simp] theorem RegField.width_GRP_BUDGET_US : RegField.width .GRP_BUDGET_US = 16 := rfl
@[simp] theorem RegField.width_GRP_CTRL_REJOIN : RegField.width .GRP_CTRL_REJOIN = 1 := rfl
@[simp] theorem RegField.width_GRP_ID_ID : RegField.width .GRP_ID_ID = 32 := rfl
@[simp] theorem RegField.width_GRP_HIST_G : RegField.width .GRP_HIST_G = 2 := rfl
@[simp] theorem RegField.width_GRP_HIST_SLOT : RegField.width .GRP_HIST_SLOT = 3 := rfl
@[simp] theorem RegField.width_GRP_HIST_REASON : RegField.width .GRP_HIST_REASON = 8 := rfl
@[simp] theorem RegField.width_GRP_HIST_FRAME : RegField.width .GRP_HIST_FRAME = 16 := rfl
@[simp] theorem RegField.width_GRP_MEM_STAT_PRESENT : RegField.width .GRP_MEM_STAT_PRESENT = 1 := rfl
@[simp] theorem RegField.width_GRP_MEM_STAT_JOINED : RegField.width .GRP_MEM_STAT_JOINED = 1 := rfl
@[simp] theorem RegField.width_GRP_MEM_STAT_QUAR : RegField.width .GRP_MEM_STAT_QUAR = 1 := rfl
@[simp] theorem RegField.width_GRP_MEM_STAT_LOST : RegField.width .GRP_MEM_STAT_LOST = 1 := rfl
@[simp] theorem RegField.width_GRP_MEM_STAT_ELIGIBLE : RegField.width .GRP_MEM_STAT_ELIGIBLE = 1 := rfl
@[simp] theorem RegField.width_GRP_MEM_STAT_TIME_SLEW : RegField.width .GRP_MEM_STAT_TIME_SLEW = 1 := rfl
@[simp] theorem RegField.width_GRP_MEM_STAT_GSTATE : RegField.width .GRP_MEM_STAT_GSTATE = 2 := rfl
@[simp] theorem RegField.width_GRP_MEM_STAT_KIND : RegField.width .GRP_MEM_STAT_KIND = 3 := rfl
@[simp] theorem RegField.width_GRP_MEM_ID_LO_ID : RegField.width .GRP_MEM_ID_LO_ID = 32 := rfl
@[simp] theorem RegField.width_GRP_MEM_ID_HI_ID : RegField.width .GRP_MEM_ID_HI_ID = 32 := rfl
@[simp] theorem RegField.width_GRP_MEM_ADDR_UNIT_ADDR : RegField.width .GRP_MEM_ADDR_UNIT_ADDR = 16 := rfl
@[simp] theorem RegField.width_GRP_MEM_ADDR_DEPTH : RegField.width .GRP_MEM_ADDR_DEPTH = 3 := rfl
@[simp] theorem RegField.width_GRP_MEM_DIG_LO_D : RegField.width .GRP_MEM_DIG_LO_D = 32 := rfl
@[simp] theorem RegField.width_GRP_MEM_DIG_HI_D : RegField.width .GRP_MEM_DIG_HI_D = 32 := rfl
@[simp] theorem RegField.width_GRP_MEM_FW_CODE : RegField.width .GRP_MEM_FW_CODE = 32 := rfl
@[simp] theorem RegField.width_GRP_MEM_CAPS0_ARMS : RegField.width .GRP_MEM_CAPS0_ARMS = 16 := rfl
@[simp] theorem RegField.width_GRP_MEM_CAPS0_JOINTS : RegField.width .GRP_MEM_CAPS0_JOINTS = 16 := rfl
@[simp] theorem RegField.width_GRP_MEM_CAPS1_LOCAL_AXES : RegField.width .GRP_MEM_CAPS1_LOCAL_AXES = 16 := rfl
@[simp] theorem RegField.width_GRP_MEM_CAPS1_PORTS : RegField.width .GRP_MEM_CAPS1_PORTS = 16 := rfl
@[simp] theorem RegField.width_GRP_MEM_PATH_NS : RegField.width .GRP_MEM_PATH_NS = 16 := rfl
@[simp] theorem RegField.width_GRP_MEM_CNT_LOST : RegField.width .GRP_MEM_CNT_LOST = 16 := rfl
@[simp] theorem RegField.width_GRP_MEM_CNT_BAD : RegField.width .GRP_MEM_CNT_BAD = 16 := rfl
@[simp] theorem RegField.width_GRP_MEM_LAST_FRAME : RegField.width .GRP_MEM_LAST_FRAME = 32 := rfl
@[simp] theorem RegField.width_GRP_MAP_INDEX : RegField.width .GRP_MAP_INDEX = 8 := rfl
@[simp] theorem RegField.width_GRP_MAP_SLOT : RegField.width .GRP_MAP_SLOT = 3 := rfl
@[simp] theorem RegField.width_GRP_MAP_VALID : RegField.width .GRP_MAP_VALID = 1 := rfl
@[simp] theorem RegField.width_PWR_STATUS_BUSY : RegField.width .PWR_STATUS_BUSY = 1 := rfl
@[simp] theorem RegField.width_PWR_STATUS_SHARED_UP : RegField.width .PWR_STATUS_SHARED_UP = 1 := rfl
@[simp] theorem RegField.width_PWR_STATUS_LANE_UP : RegField.width .PWR_STATUS_LANE_UP = 3 := rfl
@[simp] theorem RegField.width_PWR_STATUS_CONV_OK : RegField.width .PWR_STATUS_CONV_OK = 3 := rfl
@[simp] theorem RegField.width_PWR_STATUS_RESET_N : RegField.width .PWR_STATUS_RESET_N = 1 := rfl
@[simp] theorem RegField.width_PWR_STATUS_TEMP_WARN : RegField.width .PWR_STATUS_TEMP_WARN = 1 := rfl
@[simp] theorem RegField.width_PWR_STATUS_TEMP_LIMIT : RegField.width .PWR_STATUS_TEMP_LIMIT = 1 := rfl
@[simp] theorem RegField.width_PWR_STATUS_CLK_FAULT : RegField.width .PWR_STATUS_CLK_FAULT = 1 := rfl
@[simp] theorem RegField.width_PWR_STATUS_CONV_FAULT : RegField.width .PWR_STATUS_CONV_FAULT = 1 := rfl
@[simp] theorem RegField.width_PWR_RST_CAUSE_CAUSE : RegField.width .PWR_RST_CAUSE_CAUSE = 4 := rfl
@[simp] theorem RegField.width_PWR_RST_CNT0_DEVICE : RegField.width .PWR_RST_CNT0_DEVICE = 16 := rfl
@[simp] theorem RegField.width_PWR_RST_CNT0_RESET_PIN : RegField.width .PWR_RST_CNT0_RESET_PIN = 16 := rfl
@[simp] theorem RegField.width_PWR_RST_CNT1_LANE : RegField.width .PWR_RST_CNT1_LANE = 24 := rfl
@[simp] theorem RegField.width_PWR_RST_CNT1_SHARED : RegField.width .PWR_RST_CNT1_SHARED = 8 := rfl
@[simp] theorem RegField.width_PWR_CLK_STAT_IN_WINDOW : RegField.width .PWR_CLK_STAT_IN_WINDOW = 4 := rfl
@[simp] theorem RegField.width_PWR_CLK_STAT_REFCLK : RegField.width .PWR_CLK_STAT_REFCLK = 1 := rfl
@[simp] theorem RegField.width_PWR_CLK_STAT_RC_FAULT : RegField.width .PWR_CLK_STAT_RC_FAULT = 1 := rfl
@[simp] theorem RegField.width_PWR_CLK_CNT_FAULTS : RegField.width .PWR_CLK_CNT_FAULTS = 16 := rfl
@[simp] theorem RegField.width_PWR_THERM_WARN_C : RegField.width .PWR_THERM_WARN_C = 8 := rfl
@[simp] theorem RegField.width_PWR_THERM_LIMIT_C : RegField.width .PWR_THERM_LIMIT_C = 8 := rfl
@[simp] theorem RegField.width_PWR_DBG_STAT_UNLOCKED : RegField.width .PWR_DBG_STAT_UNLOCKED = 1 := rfl
@[simp] theorem RegField.width_PWR_DBG_STAT_LOCKOUT : RegField.width .PWR_DBG_STAT_LOCKOUT = 1 := rfl
@[simp] theorem RegField.width_PWR_DBG_STAT_FAILS : RegField.width .PWR_DBG_STAT_FAILS = 2 := rfl
@[simp] theorem RegField.width_PWR_DBG_STAT_LANE_AUTH : RegField.width .PWR_DBG_STAT_LANE_AUTH = 3 := rfl
@[simp] theorem RegField.width_PWR_OTP_STAT_PROGRAMMED : RegField.width .PWR_OTP_STAT_PROGRAMMED = 6 := rfl
@[simp] theorem RegField.width_PWR_OTP_STAT_DBG_DISABLE : RegField.width .PWR_OTP_STAT_DBG_DISABLE = 1 := rfl
@[simp] theorem RegField.width_PWR_POWER_MW : RegField.width .PWR_POWER_MW = 16 := rfl
@[simp] theorem RegField.width_PWR_RAIL_MV : RegField.width .PWR_RAIL_MV = 16 := rfl
@[simp] theorem RegField.width_PWR_RAIL_MA : RegField.width .PWR_RAIL_MA = 16 := rfl
@[simp] theorem RegField.width_PWR_UPTIME_LO_MS : RegField.width .PWR_UPTIME_LO_MS = 32 := rfl
@[simp] theorem RegField.width_PWR_UPTIME_HI_MS : RegField.width .PWR_UPTIME_HI_MS = 32 := rfl
@[simp] theorem RegField.width_PWR_TEMP_MAX_T : RegField.width .PWR_TEMP_MAX_T = 16 := rfl
@[simp] theorem RegField.width_PWR_TEMP_MAX_SENSOR : RegField.width .PWR_TEMP_MAX_SENSOR = 4 := rfl
@[simp] theorem RegField.width_PWR_CTRL_CLR_LOG : RegField.width .PWR_CTRL_CLR_LOG = 1 := rfl
@[simp] theorem RegField.width_PWR_BOOT_MS : RegField.width .PWR_BOOT_MS = 16 := rfl
@[simp] theorem RegField.width_PWR_RSTLOG_CAUSE : RegField.width .PWR_RSTLOG_CAUSE = 4 := rfl
@[simp] theorem RegField.width_PWR_RSTLOG_SCOPE : RegField.width .PWR_RSTLOG_SCOPE = 3 := rfl
@[simp] theorem RegField.width_PWR_RSTLOG_UPTIME_S : RegField.width .PWR_RSTLOG_UPTIME_S = 24 := rfl
@[simp] theorem RegField.width_PWR_SUP_STAT_PRESENT : RegField.width .PWR_SUP_STAT_PRESENT = 1 := rfl
@[simp] theorem RegField.width_PWR_SUP_STAT_WARN : RegField.width .PWR_SUP_STAT_WARN = 1 := rfl
@[simp] theorem RegField.width_PWR_SUP_STAT_IN_RESET : RegField.width .PWR_SUP_STAT_IN_RESET = 1 := rfl
@[simp] theorem RegField.width_PWR_SUP_STAT_CONV_RUN : RegField.width .PWR_SUP_STAT_CONV_RUN = 1 := rfl
@[simp] theorem RegField.width_PWR_SUP_STAT_CONV_FAULT : RegField.width .PWR_SUP_STAT_CONV_FAULT = 1 := rfl
@[simp] theorem RegField.width_PWR_SUP_VIN_MV : RegField.width .PWR_SUP_VIN_MV = 16 := rfl
@[simp] theorem RegField.width_PWR_SUP_VMIN_MV : RegField.width .PWR_SUP_VMIN_MV = 16 := rfl
@[simp] theorem RegField.width_PWR_SUP_VMAX_MV : RegField.width .PWR_SUP_VMAX_MV = 16 := rfl
@[simp] theorem RegField.width_PWR_SUP_IIN_MA : RegField.width .PWR_SUP_IIN_MA = 16 := rfl
@[simp] theorem RegField.width_PWR_SUP_PIN_MW : RegField.width .PWR_SUP_PIN_MW = 16 := rfl
@[simp] theorem RegField.width_PWR_SUP_CNT_WARN : RegField.width .PWR_SUP_CNT_WARN = 16 := rfl
@[simp] theorem RegField.width_PWR_SUP_CNT_RESET : RegField.width .PWR_SUP_CNT_RESET = 16 := rfl
@[simp] theorem RegField.width_PWR_SUP_CONV_MV : RegField.width .PWR_SUP_CONV_MV = 16 := rfl
@[simp] theorem RegField.width_PWR_SUP_HIST_VMIN : RegField.width .PWR_SUP_HIST_VMIN = 16 := rfl
@[simp] theorem RegField.width_PWR_SUP_HIST_VMAX : RegField.width .PWR_SUP_HIST_VMAX = 16 := rfl
@[simp] theorem RegField.width_PWR_TEMP_T : RegField.width .PWR_TEMP_T = 16 := rfl
@[simp] theorem RegField.width_PWR_TEMP_MAX : RegField.width .PWR_TEMP_MAX = 16 := rfl

end Sys2Proof.Machine
end

