-- ==== Sys2Proof/Laws/State.lean ====
section
/-!
SUPPORT. The small lemmas of the state: what each update of a register, an output or a part of the device reads as afterwards. Every
register update is brought to `Dev.wr`, so that no later proof unfolds a record update.
-/
namespace Sys2Proof.Machine

/-! Register updates in terms of `Dev.wr`. -/

@[simp] theorem Dev.put_eq (d : Dev) (f : RegField) (v : Nat) : d.put f v = d.wr f 0 v := rfl
@[simp] theorem Dev.flag_eq (d : Dev) (f : RegField) (i : Nat) : d.flag f i = d.wr f i 1 := rfl
@[simp] theorem Dev.wrSat_eq (d : Dev) (f : RegField) (i v : Nat) : d.wrSat f i v = d.wr f i (min v (2 ^ f.width - 1)) := rfl
@[simp] theorem Dev.inc_eq (d : Dev) (f : RegField) (i : Nat) : d.inc f i = d.wr f i (min (d.rd f i + 1) (2 ^ f.width - 1)) := rfl
@[simp] theorem Dev.incBy_eq (d : Dev) (f : RegField) (i n : Nat) :
    d.incBy f i n = d.wr f i (min (d.rd f i + n) (2 ^ f.width - 1)) := rfl
@[simp] theorem Dev.incWrap_eq (d : Dev) (f : RegField) (i : Nat) : d.incWrap f i = d.wr f i (d.rd f i + 1) := rfl
@[simp] theorem Dev.wrBit_eq (d : Dev) (f : RegField) (i b : Nat) (v : Bool) : d.wrBit f i b v = d.wr f i (setBit (d.rd f i) b v) := rfl
@[simp] theorem Dev.wrMax_eq (d : Dev) (f : RegField) (i v : Nat) :
    d.wrMax f i v = d.wr f i (min (max v (d.rd f i)) (2 ^ f.width - 1)) := rfl
@[simp] theorem Dev.wrI_eq (d : Dev) (f : RegField) (i : Nat) (v : Int) :
    d.wrI f i v = d.wr f i (fieldOf f.width (saturate f.width v)) := rfl
@[simp] theorem Dev.setMode_eq (d : Dev) (m : Mode) : d.setMode m = d.wr .SYS_MODE_MODE 0 (modeCode m) := rfl
@[simp] theorem Dev.event_eq (d : Dev) (e : Ev) (source index detail : Nat) :
    d.event e source index detail = d.record e.code source index detail := rfl

/-- Reading a register element after a write. -/
@[simp] theorem Dev.rd_wr (d : Dev) (f g : RegField) (i j v : Nat) :
    (d.wr f i v).rd g j = if g = f ∧ j = i then v % 2 ^ f.width else d.rd g j := RegFile.get_set d.regs f g i j _

/-- The register file of a device read as its registers. -/
@[simp] theorem Dev.get_regs (d : Dev) (f : RegField) (i : Nat) : RegFile.get d.regs f i = d.rd f i := rfl

/-- Reading a register depends on the register file alone. -/
@[simp] theorem Dev.rd_mk (regs out free sys log tb lanes rings motion monitorFr fault flash keys pkg periodDue pwr axes adc smy0 smy1 rve host pln mil grp) (f : RegField) (i : Nat) :
    (Dev.mk regs out free sys log tb lanes rings motion monitorFr fault flash keys pkg periodDue pwr axes adc smy0 smy1 rve host pln mil grp).rd f i = RegFile.get regs f i := rfl

/-! A register write changes no other part. -/

@[simp] theorem Dev.wr_out (d : Dev) (f : RegField) (i v : Nat) : (d.wr f i v).out = d.out := rfl
@[simp] theorem Dev.wr_free (d : Dev) (f : RegField) (i v : Nat) : (d.wr f i v).free = d.free := rfl
@[simp] theorem Dev.wr_sys (d : Dev) (f : RegField) (i v : Nat) : (d.wr f i v).sys = d.sys := rfl
@[simp] theorem Dev.wr_log (d : Dev) (f : RegField) (i v : Nat) : (d.wr f i v).log = d.log := rfl
@[simp] theorem Dev.wr_tb (d : Dev) (f : RegField) (i v : Nat) : (d.wr f i v).tb = d.tb := rfl
@[simp] theorem Dev.wr_lanes (d : Dev) (f : RegField) (i v : Nat) : (d.wr f i v).lanes = d.lanes := rfl
@[simp] theorem Dev.wr_rings (d : Dev) (f : RegField) (i v : Nat) : (d.wr f i v).rings = d.rings := rfl
@[simp] theorem Dev.wr_motion (d : Dev) (f : RegField) (i v : Nat) : (d.wr f i v).motion = d.motion := rfl
@[simp] theorem Dev.wr_monitorFr (d : Dev) (f : RegField) (i v : Nat) : (d.wr f i v).monitorFr = d.monitorFr := rfl
@[simp] theorem Dev.wr_fault (d : Dev) (f : RegField) (i v : Nat) : (d.wr f i v).fault = d.fault := rfl
@[simp] theorem Dev.wr_flash (d : Dev) (f : RegField) (i v : Nat) : (d.wr f i v).flash = d.flash := rfl
@[simp] theorem Dev.wr_keys (d : Dev) (f : RegField) (i v : Nat) : (d.wr f i v).keys = d.keys := rfl
@[simp] theorem Dev.wr_pkg (d : Dev) (f : RegField) (i v : Nat) : (d.wr f i v).pkg = d.pkg := rfl
@[simp] theorem Dev.wr_periodDue (d : Dev) (f : RegField) (i v : Nat) : (d.wr f i v).periodDue = d.periodDue := rfl
@[simp] theorem Dev.wr_pwr (d : Dev) (f : RegField) (i v : Nat) : (d.wr f i v).pwr = d.pwr := rfl
@[simp] theorem Dev.wr_axes (d : Dev) (f : RegField) (i v : Nat) : (d.wr f i v).axes = d.axes := rfl
@[simp] theorem Dev.wr_adc (d : Dev) (f : RegField) (i v : Nat) : (d.wr f i v).adc = d.adc := rfl
@[simp] theorem Dev.wr_smy0 (d : Dev) (f : RegField) (i v : Nat) : (d.wr f i v).smy0 = d.smy0 := rfl
@[simp] theorem Dev.wr_smy1 (d : Dev) (f : RegField) (i v : Nat) : (d.wr f i v).smy1 = d.smy1 := rfl
@[simp] theorem Dev.wr_rve (d : Dev) (f : RegField) (i v : Nat) : (d.wr f i v).rve = d.rve := rfl
@[simp] theorem Dev.wr_host (d : Dev) (f : RegField) (i v : Nat) : (d.wr f i v).host = d.host := rfl
@[simp] theorem Dev.wr_pln (d : Dev) (f : RegField) (i v : Nat) : (d.wr f i v).pln = d.pln := rfl
@[simp] theorem Dev.wr_mil (d : Dev) (f : RegField) (i v : Nat) : (d.wr f i v).mil = d.mil := rfl
@[simp] theorem Dev.wr_grp (d : Dev) (f : RegField) (i v : Nat) : (d.wr f i v).grp = d.grp := rfl

/-! An output changes no register and no part but the outputs. -/

@[simp] theorem Dev.emit_rd (d : Dev) (o : Output) (f : RegField) (i : Nat) : (d.emit o).rd f i = d.rd f i := rfl
@[simp] theorem Dev.emit_out (d : Dev) (o : Output) : (d.emit o).out = d.out ++ [o] := rfl
@[simp] theorem Dev.emit_free (d : Dev) (o : Output) : (d.emit o).free = d.free := rfl
@[simp] theorem Dev.emit_sys (d : Dev) (o : Output) : (d.emit o).sys = d.sys := rfl
@[simp] theorem Dev.emit_log (d : Dev) (o : Output) : (d.emit o).log = d.log := rfl
@[simp] theorem Dev.emit_tb (d : Dev) (o : Output) : (d.emit o).tb = d.tb := rfl
@[simp] theorem Dev.emit_lanes (d : Dev) (o : Output) : (d.emit o).lanes = d.lanes := rfl
@[simp] theorem Dev.emit_rings (d : Dev) (o : Output) : (d.emit o).rings = d.rings := rfl
@[simp] theorem Dev.emit_motion (d : Dev) (o : Output) : (d.emit o).motion = d.motion := rfl
@[simp] theorem Dev.emit_monitorFr (d : Dev) (o : Output) : (d.emit o).monitorFr = d.monitorFr := rfl
@[simp] theorem Dev.emit_fault (d : Dev) (o : Output) : (d.emit o).fault = d.fault := rfl
@[simp] theorem Dev.emit_flash (d : Dev) (o : Output) : (d.emit o).flash = d.flash := rfl
@[simp] theorem Dev.emit_keys (d : Dev) (o : Output) : (d.emit o).keys = d.keys := rfl
@[simp] theorem Dev.emit_pkg (d : Dev) (o : Output) : (d.emit o).pkg = d.pkg := rfl
@[simp] theorem Dev.emit_periodDue (d : Dev) (o : Output) : (d.emit o).periodDue = d.periodDue := rfl
@[simp] theorem Dev.emit_pwr (d : Dev) (o : Output) : (d.emit o).pwr = d.pwr := rfl
@[simp] theorem Dev.emit_axes (d : Dev) (o : Output) : (d.emit o).axes = d.axes := rfl
@[simp] theorem Dev.emit_adc (d : Dev) (o : Output) : (d.emit o).adc = d.adc := rfl
@[simp] theorem Dev.emit_smy0 (d : Dev) (o : Output) : (d.emit o).smy0 = d.smy0 := rfl
@[simp] theorem Dev.emit_smy1 (d : Dev) (o : Output) : (d.emit o).smy1 = d.smy1 := rfl
@[simp] theorem Dev.emit_rve (d : Dev) (o : Output) : (d.emit o).rve = d.rve := rfl
@[simp] theorem Dev.emit_host (d : Dev) (o : Output) : (d.emit o).host = d.host := rfl
@[simp] theorem Dev.emit_pln (d : Dev) (o : Output) : (d.emit o).pln = d.pln := rfl
@[simp] theorem Dev.emit_mil (d : Dev) (o : Output) : (d.emit o).mil = d.mil := rfl
@[simp] theorem Dev.emit_grp (d : Dev) (o : Output) : (d.emit o).grp = d.grp := rfl

/-! An event record changes the log and the counters of Table 15-7 alone. -/

@[simp] theorem mem_recordRegs (f : RegField) (i source : Nat) :
    (f, i) ∈ recordRegs source ↔ f = .CRI_LOG_OLD_SEQ ∧ i = 0 ∨ f = .CRI_LOG_NEW_SEQ ∧ i = 0 ∨ f = .CRI_LOG_OVW_CNT ∧ i = 0 ∨
      f = .CRI_SRC_CNT_N ∧ i = source ∨ f = .CRI_SRC_LAST_CODE ∧ i = source ∨ f = .CRI_SRC_LAST_FRAME ∧ i = source := by
  simp [recordRegs]

@[simp] theorem Dev.when_true (d : Dev) (f : Dev → Dev) : d.when true f = f d := rfl
@[simp] theorem Dev.when_false (d : Dev) (f : Dev → Dev) : d.when false f = d := rfl

@[simp] theorem Dev.record_out (d : Dev) (c s i x : Nat) : (d.record c s i x).out = d.out := by
  unfold Dev.record Dev.when; split <;> [rfl; (dsimp only; split <;> rfl)]
@[simp] theorem Dev.record_free (d : Dev) (c s i x : Nat) : (d.record c s i x).free = d.free := by
  unfold Dev.record Dev.when; split <;> [rfl; (dsimp only; split <;> rfl)]
@[simp] theorem Dev.record_sys (d : Dev) (c s i x : Nat) : (d.record c s i x).sys = d.sys := by
  unfold Dev.record Dev.when; split <;> [rfl; (dsimp only; split <;> rfl)]
@[simp] theorem Dev.record_tb (d : Dev) (c s i x : Nat) : (d.record c s i x).tb = d.tb := by
  unfold Dev.record Dev.when; split <;> [rfl; (dsimp only; split <;> rfl)]
@[simp] theorem Dev.record_lanes (d : Dev) (c s i x : Nat) : (d.record c s i x).lanes = d.lanes := by
  unfold Dev.record Dev.when; split <;> [rfl; (dsimp only; split <;> rfl)]
@[simp] theorem Dev.record_rings (d : Dev) (c s i x : Nat) : (d.record c s i x).rings = d.rings := by
  unfold Dev.record Dev.when; split <;> [rfl; (dsimp only; split <;> rfl)]
@[simp] theorem Dev.record_motion (d : Dev) (c s i x : Nat) : (d.record c s i x).motion = d.motion := by
  unfold Dev.record Dev.when; split <;> [rfl; (dsimp only; split <;> rfl)]
@[simp] theorem Dev.record_monitorFr (d : Dev) (c s i x : Nat) : (d.record c s i x).monitorFr = d.monitorFr := by
  unfold Dev.record Dev.when; split <;> [rfl; (dsimp only; split <;> rfl)]
@[simp] theorem Dev.record_fault (d : Dev) (c s i x : Nat) : (d.record c s i x).fault = d.fault := by
  unfold Dev.record Dev.when; split <;> [rfl; (dsimp only; split <;> rfl)]
@[simp] theorem Dev.record_flash (d : Dev) (c s i x : Nat) : (d.record c s i x).flash = d.flash := by
  unfold Dev.record Dev.when; split <;> [rfl; (dsimp only; split <;> rfl)]
@[simp] theorem Dev.record_keys (d : Dev) (c s i x : Nat) : (d.record c s i x).keys = d.keys := by
  unfold Dev.record Dev.when; split <;> [rfl; (dsimp only; split <;> rfl)]
@[simp] theorem Dev.record_pkg (d : Dev) (c s i x : Nat) : (d.record c s i x).pkg = d.pkg := by
  unfold Dev.record Dev.when; split <;> [rfl; (dsimp only; split <;> rfl)]
@[simp] theorem Dev.record_periodDue (d : Dev) (c s i x : Nat) : (d.record c s i x).periodDue = d.periodDue := by
  unfold Dev.record Dev.when; split <;> [rfl; (dsimp only; split <;> rfl)]
@[simp] theorem Dev.record_pwr (d : Dev) (c s i x : Nat) : (d.record c s i x).pwr = d.pwr := by
  unfold Dev.record Dev.when; split <;> [rfl; (dsimp only; split <;> rfl)]
@[simp] theorem Dev.record_axes (d : Dev) (c s i x : Nat) : (d.record c s i x).axes = d.axes := by
  unfold Dev.record Dev.when; split <;> [rfl; (dsimp only; split <;> rfl)]
@[simp] theorem Dev.record_adc (d : Dev) (c s i x : Nat) : (d.record c s i x).adc = d.adc := by
  unfold Dev.record Dev.when; split <;> [rfl; (dsimp only; split <;> rfl)]
@[simp] theorem Dev.record_smy0 (d : Dev) (c s i x : Nat) : (d.record c s i x).smy0 = d.smy0 := by
  unfold Dev.record Dev.when; split <;> [rfl; (dsimp only; split <;> rfl)]
@[simp] theorem Dev.record_smy1 (d : Dev) (c s i x : Nat) : (d.record c s i x).smy1 = d.smy1 := by
  unfold Dev.record Dev.when; split <;> [rfl; (dsimp only; split <;> rfl)]
@[simp] theorem Dev.record_rve (d : Dev) (c s i x : Nat) : (d.record c s i x).rve = d.rve := by
  unfold Dev.record Dev.when; split <;> [rfl; (dsimp only; split <;> rfl)]
@[simp] theorem Dev.record_host (d : Dev) (c s i x : Nat) : (d.record c s i x).host = d.host := by
  unfold Dev.record Dev.when; split <;> [rfl; (dsimp only; split <;> rfl)]
@[simp] theorem Dev.record_pln (d : Dev) (c s i x : Nat) : (d.record c s i x).pln = d.pln := by
  unfold Dev.record Dev.when; split <;> [rfl; (dsimp only; split <;> rfl)]
@[simp] theorem Dev.record_mil (d : Dev) (c s i x : Nat) : (d.record c s i x).mil = d.mil := by
  unfold Dev.record Dev.when; split <;> [rfl; (dsimp only; split <;> rfl)]
@[simp] theorem Dev.record_grp (d : Dev) (c s i x : Nat) : (d.record c s i x).grp = d.grp := by
  unfold Dev.record Dev.when; split <;> [rfl; (dsimp only; split <;> rfl)]

/-- An event record leaves every register but those of Table 15-7. -/
@[simp] theorem Dev.record_rd (d : Dev) (c s i x : Nat) (f : RegField) (j : Nat) (h : (f, j) ∉ recordRegs s) :
    (d.record c s i x).rd f j = d.rd f j := by
  simp only [mem_recordRegs, not_or] at h
  obtain ⟨h1, h2, h3, h4, h5, h6⟩ := h
  unfold Dev.record Dev.when
  split
  · rfl
  · dsimp only
    split <;> simp [h1, h2, h3, h4, h5, h6]

/-- While the shared blocks run, an event leaves its record as the newest of the log. -/
theorem Dev.record_last (d : Dev) (c s i x : Nat) (h : d.rd .PWR_STATUS_SHARED_UP ≠ 0) :
    ∃ r, (d.record c s i x).log.recs.getLast? = some r ∧ r.code = c ∧ r.source = s ∧ r.index = i % 2 ^ 16 ∧ r.detail = x % 2 ^ 80 ∧
      r.frame = d.frameNo ∧ r.time = d.timeNs ∧ r.seq = (d.log.seq + 1) % 2 ^ 32 := by
  unfold Dev.record Dev.when
  rw [if_neg h]
  dsimp only
  split <;> refine ⟨_, List.getLast?_concat .., rfl, rfl, rfl, rfl, rfl, rfl, rfl⟩

/-- While the shared blocks run, an event is logged. -/
theorem Dev.record_logged (d : Dev) (e : Ev) (s i x : Nat) (h : d.rd .PWR_STATUS_SHARED_UP ≠ 0) (hi : i < 2 ^ 16) (hx : x < 2 ^ 80) :
    (d.record e.code s i x).logged e s i x := by
  obtain ⟨r, hr, hc, hs, hi', hx', -⟩ := d.record_last e.code s i x h
  rw [Nat.mod_eq_of_lt hi] at hi'
  rw [Nat.mod_eq_of_lt hx] at hx'
  simp [Dev.logged, hr, hc, hs, hi', hx']

/-! One lane of three. -/

@[simp] theorem PerLane.get_set_same {α : Type} (p : PerLane α) (l : Lane) (v : α) : (p.set l v).get l = v := by cases l <;> rfl

theorem PerLane.get_set {α : Type} (p : PerLane α) (l k : Lane) (v : α) : (p.set l v).get k = if k = l then v else p.get k := by
  cases l <;> cases k <;> rfl

@[simp] theorem PerLane.get_set_other {α : Type} (p : PerLane α) {l k : Lane} (v : α) (h : k ≠ l) : (p.set l v).get k = p.get k := by
  rw [PerLane.get_set, if_neg h]

theorem Lane.idx_inj {l k : Lane} : l.idx = k.idx ↔ l = k := by cases l <;> cases k <;> decide

theorem Lane.idx_lt (l : Lane) : l.idx < 3 := by cases l <;> decide

end Sys2Proof.Machine
end

