-- ==== Sys2Proof/Laws/Ops.lean ====
section
/-!
SUPPORT. What each shared operation can do, said once: running a command, a step, frames and how they compose, event records, the flags of
SYS_STATUS, the judgement of a trigger write, the fault record, and what keeps the register file canonical and the lanes safe.
-/
namespace Sys2Proof.Machine

/-! Running a command. -/

/-- A command that runs answers a next state: its effect on the device with the outputs of the step cleared, and the queue untouched. -/
theorem State.run_eq (s : State) (f : Dev → Dev) : s.run f = .next ⟨f { s.dev with out := [] }, s.pending⟩ := rfl

/-- A step with a command in front. -/
theorem step_cons (d : Dev) (c : Instr) (rest : List Instr) : step ⟨d, c :: rest⟩ = exec c ⟨d, rest⟩ := rfl

/-- A step with nothing in front: one clock of the time base. -/
theorem step_nil (d : Dev) : step ⟨d, []⟩ = .next ⟨Dev.clock { d with out := [] }, []⟩ := rfl

/-- A clock changes the time base alone. -/
theorem Dev.clock_cases (d : Dev) : d.clock = d ∨ d.clock = { d with tb := { d.tb with ext := d.tb.ext + 8 } } := by
  unfold Dev.clock
  split
  · exact .inr rfl
  · exact .inl rfl

/-! Frames. -/

theorem Part.same_refl (p : Part) (d : Dev) : p.same d d := by cases p <;> rfl

theorem Part.same_trans {p : Part} {a b c : Dev} (h : p.same a b) (k : p.same b c) : p.same a c := by
  cases p <;> exact Eq.trans k h

theorem SameBut.refl (d : Dev) (fs : List RegField) (es : List (RegField × Nat)) (ps : List Part) : SameBut d d fs es ps :=
  ⟨fun _ _ _ _ => rfl, fun p _ => p.same_refl d⟩

theorem SameBut.trans {a b c : Dev} {fs : List RegField} {es : List (RegField × Nat)} {ps : List Part} (h : SameBut a b fs es ps)
    (k : SameBut b c fs es ps) : SameBut a c fs es ps :=
  ⟨fun f i hf he => (k.regs f i hf he).trans (h.regs f i hf he), fun p hp => Part.same_trans (h.rest p hp) (k.rest p hp)⟩

/-- A frame may name more than what changes. -/
theorem SameBut.mono {a b : Dev} {fs fs' : List RegField} {es es' : List (RegField × Nat)} {ps ps' : List Part} (h : SameBut a b fs es ps)
    (hf : fs ⊆ fs') (he : ∀ x ∈ es, x ∈ es' ∨ x.1 ∈ fs') (hp : ps ⊆ ps') : SameBut a b fs' es' ps' :=
  ⟨fun f i h1 h2 => h.regs f i (fun m => h1 (hf m)) (fun m => (he _ m).elim h2 h1), fun p h1 => h.rest p fun m => h1 (hp m)⟩

/-- Clearing the outputs of the step changes no register and no part. -/
theorem SameBut.of_cleared {d e : Dev} {fs : List RegField} {es : List (RegField × Nat)} {ps : List Part}
    (h : SameBut { d with out := [] } e fs es ps) : SameBut d e fs es ps :=
  ⟨fun f i hf he => h.regs f i hf he, fun p hp => by have := h.rest p hp; cases p <;> exact this⟩

theorem Answers.of_run {c : Instr} {s : State} {post : Dev → Prop} {f : Dev → Dev} (h : exec c s = s.run f)
    (hp : post (f { s.dev with out := [] })) : Answers c s post := ⟨_, h, rfl, hp⟩

theorem Touches.of_run {c : Instr} {s : State} {fs : List RegField} {es : List (RegField × Nat)} {ps : List Part} {f : Dev → Dev}
    (h : exec c s = s.run f) (hs : SameBut { s.dev with out := [] } (f { s.dev with out := [] }) fs es ps) : Touches c s fs es ps :=
  ⟨_, h, rfl, hs.of_cleared⟩

theorem Completes.of_run {c : Instr} {s : State} {es : List (RegField × Nat)} {ps : List Part} {post : Dev → Prop} {f : Dev → Dev}
    (h : exec c s = s.run f) (hs : SameBut { s.dev with out := [] } (f { s.dev with out := [] }) [] es ps)
    (hp : post (f { s.dev with out := [] })) : Completes c s es ps post := ⟨_, h, rfl, hs.of_cleared, hp⟩

/-- A register write changes one element. -/
theorem Dev.wr_sameBut (d : Dev) (f : RegField) (i v : Nat) : SameBut d (d.wr f i v) [] [(f, i)] [] :=
  ⟨fun g j _ h => by rw [Dev.rd_wr]; exact if_neg fun ⟨a, b⟩ => h (by simp [a, b]), fun p _ => by cases p <;> rfl⟩

/-- An output changes no register and no part. -/
theorem Dev.emit_sameBut (d : Dev) (o : Output) : SameBut d (d.emit o) [] [] [] :=
  ⟨fun _ _ _ _ => rfl, fun p _ => by cases p <;> rfl⟩

/-- An event record changes the log and the registers of Table 15-7. -/
theorem Dev.record_sameBut (d : Dev) (c s i x : Nat) : SameBut d (d.record c s i x) [] (recordRegs s) [.log] :=
  ⟨fun g j _ h => d.record_rd c s i x g j h, fun p h => by cases p <;> first | (simp [Part.same]; done) | exact absurd (by simp) h⟩

theorem Dev.event_sameBut (d : Dev) (e : Ev) (s i x : Nat) : SameBut d (d.event e s i x) [] (recordRegs s) [.log] :=
  d.record_sameBut e.code s i x

/-- While the shared blocks are in reset an event leaves nothing (R489). -/
theorem Dev.record_down (d : Dev) (c s i x : Nat) (h : d.rd .PWR_STATUS_SHARED_UP = 0) : d.record c s i x = d := by
  unfold Dev.record; exact if_pos h

/-! What the derived values read. -/

@[simp] theorem Dev.mode_wr (d : Dev) (f : RegField) (i v : Nat) (h : f ≠ .SYS_MODE_MODE) : (d.wr f i v).mode = d.mode := by
  unfold Dev.mode; simp [h.symm]

@[simp] theorem Dev.mode_setMode (d : Dev) (m : Mode) : (d.setMode m).mode = m := by
  cases m <;> simp [Dev.mode, modeCode]

@[simp] theorem Dev.frameNo_wr (d : Dev) (f : RegField) (i v : Nat) (h : f ≠ .BLF_FRAME_NO_NO) : (d.wr f i v).frameNo = d.frameNo := by
  unfold Dev.frameNo; simp [h.symm]

@[simp] theorem Dev.frameNs_wr (d : Dev) (f : RegField) (i v : Nat) (h : f ≠ .BLF_CFG_PERIOD) : (d.wr f i v).frameNs = d.frameNs := by
  unfold Dev.frameNs Dev.periodUnits; simp [h.symm]

@[simp] theorem Dev.timeNs_wr (d : Dev) (f : RegField) (i v : Nat) : (d.wr f i v).timeNs = d.timeNs := rfl

theorem Dev.frameNs_values (d : Dev) : d.frameNs = 62500 ∨ d.frameNs = 125000 ∨ d.frameNs = 250000 := by
  unfold Dev.frameNs Dev.periodUnits
  have : d.rd .BLF_CFG_PERIOD % 3 < 3 := Nat.mod_lt _ (by decide)
  generalize d.rd .BLF_CFG_PERIOD % 3 = n at this
  match n, this with
  | 0, _ => exact .inl rfl
  | 1, _ => exact .inr (.inl rfl)
  | 2, _ => exact .inr (.inr rfl)

/-! The flags of SYS_STATUS. -/

/-- The registers an access flag changes beside its flag and counter, and those of the record. -/
theorem Dev.errLast_sameBut (d : Dev) (m : Master) (addr cause : Nat) : SameBut d (d.errLast m addr cause) [] errRegs [] :=
  ⟨fun g j _ h => by simp only [errRegs, List.mem_cons, Prod.mk.injEq, not_or] at h; simp [Dev.errLast, h], fun p _ => by cases p <;> rfl⟩

/-! The judgement of a trigger write. -/

/-- A served trigger write whose block is not busy has its effect; on a busy block it is dropped (R18). -/
theorem Dev.trigger_served {d : Dev} {m : Master} {addr : Nat} (busy : Option (RegField × Nat)) (f : Dev → Dev) (h : d.served m addr) :
    d.trigger m addr busy f = match busy with
      | some b => if d.on b.1 b.2 then d.busyDrop m addr else f d
      | none => f d := by
  obtain ⟨h1, h2, h3⟩ := h
  unfold Dev.trigger
  rw [if_neg h1]
  cases m with
  | lane l => rfl
  | debug =>
    obtain ⟨l, h⟩ | ⟨hb, hh⟩ := h3
    · cases h
    · refine (if_neg (by simpa using h2 rfl)).trans ?_
      cases hm : d.mode <;> simp_all <;> rfl
  | hostBar0 | hostBar2 | planner =>
    obtain ⟨l, h⟩ | ⟨hb, hh⟩ := h3
    · cases h
    · refine (if_neg (by simp)).trans ?_
      cases hm : d.mode <;> simp_all <;> rfl

/-- A trigger write that the machine ignores changes nothing. -/
theorem Dev.trigger_ignored {d : Dev} {m : Master} (addr : Nat) (busy : Option (RegField × Nat)) (f : Dev → Dev) (h : d.ignores m) :
    d.trigger m addr busy f = d := by
  unfold Dev.trigger
  by_cases h1 : d.rd .PWR_STATUS_SHARED_UP = 0
  · exact if_pos h1
  · rw [if_neg h1]
    obtain h | ⟨rfl, h⟩ | ⟨h, hb⟩ := h
    · exact absurd h h1
    · exact if_pos ⟨rfl, h⟩
    · cases m with
      | lane l => exact absurd rfl (h l)
      | _ => simp [hb]

/-- A trigger write that Hold refuses sets ACCESS_ERR alone. -/
theorem Dev.trigger_hold {d : Dev} {m : Master} {addr : Nat} (busy : Option (RegField × Nat)) (f : Dev → Dev) (h : d.refusesInHold m addr) :
    d.trigger m addr busy f = d.accessErr m addr := by
  obtain ⟨h1, h2, h3, h4, h5⟩ := h
  unfold Dev.trigger
  rw [if_neg h1]
  cases m with
  | lane l => exact absurd rfl (h3 l)
  | debug => refine (if_neg (by simpa using h2 rfl)).trans ?_; simp [h4, h5]
  | _ => refine (if_neg (by simp)).trans ?_; simp [h4, h5]

/-! The fault record. -/

/-- A fault that counts already, and is no new one of a lane that had come back, changes nothing. -/
theorem countFault_again {d : Dev} {k : FaultKind} {i : Nat} (e : Ev) (h : (faultCode k, i) ∈ d.fault.counted) : countFault d k i e = d :=
  if_pos ⟨List.contains_iff_mem.2 h, rfl⟩

/-- A fault that is recorded is counted. -/
theorem countFault_counted (d : Dev) (k : FaultKind) (i : Nat) (e : Ev) (again : Bool) :
    (faultCode k, i) ∈ (countFault d k i e again).fault.counted := by
  by_cases h : (faultCode k, i) ∈ d.fault.counted ∧ again = false
  · rw [show countFault d k i e again = d from if_pos ⟨List.contains_iff_mem.2 h.1, by simp [h.2]⟩]
    exact h.1
  · unfold countFault
    simp only [List.contains_iff_mem, Bool.not_eq_true', h, if_false]
    split_ifs <;> simp

/-! What keeps the register file canonical. -/

theorem Dev.wr_regsOk {d : Dev} (h : d.regsOk) (f : RegField) (i v : Nat) : (d.wr f i v).regsOk := RegFile.set_wf h f i _

theorem Dev.emit_regsOk {d : Dev} (h : d.regsOk) (o : Output) : (d.emit o).regsOk := h

theorem Dev.when_regsOk {d : Dev} (h : d.regsOk) (c : Bool) {f : Dev → Dev} (hf : ∀ e : Dev, e.regsOk → (f e).regsOk) :
    (d.when c f).regsOk := by
  cases c
  · exact h
  · exact hf d h

theorem Dev.each_regsOk {α : Type} {f : Dev → α → Dev} (hf : ∀ e x, Dev.regsOk e → (f e x).regsOk) (xs : List α) :
    ∀ {d : Dev}, d.regsOk → (d.each xs f).regsOk := by
  induction xs with
  | nil => exact fun h => h
  | cons x xs ih => exact fun h => ih (hf _ x h)

theorem Dev.record_regsOk {d : Dev} (h : d.regsOk) (c s i x : Nat) : (d.record c s i x).regsOk := by
  unfold Dev.record
  split
  · exact h
  · refine Dev.wr_regsOk (Dev.wr_regsOk (Dev.wr_regsOk (Dev.when_regsOk (Dev.wr_regsOk (Dev.wr_regsOk ?_ _ _ _) _ _ _) _ ?_) _ _ _) _ _ _) _ _ _
    · exact h
    · exact fun e he => Dev.wr_regsOk he _ _ _

/-! What keeps the lanes outside service safe. -/

theorem Dev.wr_safeOutside {d : Dev} (h : d.safeOutside) (f : RegField) (i v : Nat) (hf : f ≠ .LN_STATUS_STATE) : (d.wr f i v).safeOutside :=
  ⟨fun l hl => h.1 l (by simpa [hf.symm] using hl), h.2⟩

theorem Dev.emit_safeOutside {d : Dev} (h : d.safeOutside) (o : Output) : (d.emit o).safeOutside := h

theorem Dev.record_safeOutside {d : Dev} (h : d.safeOutside) (c s i x : Nat) : (d.record c s i x).safeOutside :=
  ⟨fun l hl => by rw [Dev.record_lanes]; exact h.1 l (by rwa [Dev.record_rd _ _ _ _ _ _ _ (by simp)] at hl), by unfold Dev.liveOk; rw [Dev.record_sys]; exact h.2⟩

end Sys2Proof.Machine
end

