-- ==== Sys2Proof/Machine/Store.lean ====
section
/-!
DEFINITION. The trajectory store as bytes (R214, R228, R256): the rings, gain tables and cams that State holds, at the offsets of Table 7-10
in the layout of Table 7-11.
-/
namespace Sys2Proof.Machine

/-- Bytes of the trajectory store: 16 MiB. -/
def storeSize : Nat := 2 ^ 24

/-- A segment as its 64-byte entry, little-endian (Table 7-11). -/
def segBytes (g : Seg) : List Byte :=
  bytesLE 4 g.start ++ bytesLE 2 g.dur ++ bytesLE 2 g.stopFr ++ bytesLE 1 (bitOf g.valid + 2 * bitOf g.last + 4 * bitOf g.super) ++
    bytesLE 3 0 ++ bytesLE 4 g.seq ++ (List.range 6).flatMap fun i => bytesLE 8 (f64ToBits (g.c.getD i f64Zero)).toNat

/-- Entry `e` of the ring of slot `s`: zeros, and so not VALID, where no segment of the plan in force stands. -/
def ringEntry (d : Dev) (s e : Nat) : List Byte :=
  match (segsOf d s).reverse.find? fun g => decide (g.entry = e) with
  | some g => segBytes g
  | none => []

/-- The byte of the store at an offset (Table 7-10): rings of joints, local axes and virtual masters in the order of their slots, gain tables,
cam points and cam headers. None where the spec gives no layout: the reserved range, and the gearing descriptors and follower state,
which State holds as records. -/
def storeByte (d : Dev) (o : Nat) : Option Byte :=
  if o < 0x940000 then some ((ringEntry d (o / 0x10000) (o % 0x10000 / 64)).getD (o % 64) 0)
  else if o < 0x960000 then
    let k := o - 0x940000
    let p := SMap.get (0, 0) d.mil.gains (k / 8)
    some ((bytesLE 4 p.1 ++ bytesLE 4 p.2).getD (k % 8) 0)
  else if o < 0xA00000 then none
  else if o < 0xE00000 then
    let k := o - 0xA00000
    some (((SMap.get [] d.pln.cams (k / 0x10000)).drop 16).getD (k % 0x10000) 0)
  else if o < 0xE00400 then
    let k := o - 0xE00000
    some ((SMap.get [] d.pln.cams (k / 16)).getD (k % 16) 0)
  else none

end Sys2Proof.Machine
end

