-- ==== Sys2Proof/WellFormed.lean ====
section
/-!
DEFINITION. Which commands are well formed: their operands are ones a sender can send (addresses inside BAR0 and BAR2, values of the
access width, structures of the length their table gives, a record from another lane). A meaning is defined on every command; this file
says which of them stand for an event of the device.
-/
namespace Sys2Proof

/-- Widths of a bus access. -/
def busWidth (w : Nat) : Bool := decide (w = 8 ∨ w = 16 ∨ w = 32 ∨ w = 64)

/-- BAR0 is reached by every master but the host through BAR2 (R449), at byte offsets 0 to 0x001F_FFFF (R445). -/
def bar0Access (m : Master) (addr width : Nat) : Bool := decide (m ≠ .hostBar2 ∧ addr < 0x200000) && busWidth width

/-- BAR2 is reached by the host (R449, R460). -/
def bar2Access (m : Master) (offset width : Nat) : Bool := decide (m = .hostBar2 ∧ offset < 0x200000) && busWidth width

/-- A value of a bus width. -/
def fits (value width : Nat) : Bool := decide (value < 2 ^ width)

/-- Contacts of the 24 safety inputs (R23). -/
def contactsOk (c : PerLane (Nat × Nat)) : Bool := Lane.all.all fun l => decide ((c.get l).1 < 2 ^ 24 ∧ (c.get l).2 < 2 ^ 24)

/-- The command's operands are ones a sender can send. -/
def Instr.wellFormed : Instr → Bool
  | .registerWrite m addr width value => bar0Access m addr width && fits value width
  | .readClear m addr width => bar0Access m addr width
  | .aliasRead m offset width => bar2Access m offset width
  | .aliasWrite m offset width value => bar2Access m offset width && fits value width
  | .frameTick contacts => contactsOk contacts
  | .periodChange contacts => contactsOk contacts
  | .frameRecordReceived rx tx _ _ => decide (rx ≠ tx)
  | .positionRecordReceived rx tx _ _ => decide (rx ≠ tx)
  | .resultRecordReceived rx tx _ _ => decide (rx ≠ tx)
  | .doorbellPoll block => decide (block.length = 64)
  | .submissionFetch entry => decide (entry.length = 64)
  | .supervisorMeasurement m => decide (m.temps.length = 16)
  | _ => true

end Sys2Proof
end

