-- ==== Sys2Proof/Tests/Slice0.lean ====
section
/-!
SUPPORT. Tests of the model and, for every statement with hypotheses, states and operands that meet them, clause by clause.
-/
namespace Sys2Proof.Tests
set_option Elab.async false
open Sys2Proof Sys2Proof.Machine Sys2Proof.Machine.RegField

/-- A device after reset with registers written: field, index, value. -/
def dev (r : List (RegField × Nat × Nat)) : Dev := r.foldl (fun d x => d.wr x.1 x.2.1 x.2.2) State.reset.dev

/-- The same with the shared blocks out of reset. -/
def up (r : List (RegField × Nat × Nat)) : Dev := dev ((PWR_STATUS_SHARED_UP, 0, 1) :: r)

/-- A state with nothing waiting. -/
def stOf (d : Dev) : State := { dev := d, pending := [] }

/-- Whether a write by the host of the word at `addr` is served while the lanes run. -/
def servedB (d : Dev) : Bool := d.on PWR_STATUS_SHARED_UP && decide (2 ≤ d.rd SYS_MODE_MODE)

theorem served_of {d : Dev} {addr : Nat} (h : servedB d = true) : d.served .hostBar0 addr := by
  simp only [servedB, Bool.and_eq_true, decide_eq_true_eq] at h
  refine ⟨by simpa [Dev.on] using h.1, by simp, .inr ?_⟩
  have : d.mode ≠ .boot ∧ d.mode ≠ .hold := by
    unfold Dev.mode; obtain ⟨-, h⟩ := h
    constructor <;> split <;> first | omega | simp
  exact ⟨this.1, fun e => absurd e this.2⟩

theorem takes_of {d : Dev} {addr : Nat} {busy : RegField × Nat} (h : (servedB d && decide (d.rd busy.1 busy.2 = 0)) = true) :
    d.takes .hostBar0 addr busy := by
  rw [Bool.and_eq_true, decide_eq_true_eq] at h
  exact ⟨served_of h.1, h.2⟩

theorem witness_TimeDiscipline :
    (∃ (s : State), sourceOffset s.dev = none) ∧
    (∃ (s : State) (raw : Int), sourceOffset s.dev = some raw ∧ (timeState s.dev = .free ∨ timeState s.dev = .diverged)) ∧
    (∃ (s : State) (raw : Int), sourceOffset s.dev = some raw ∧ (timeState s.dev = .free ∨ timeState s.dev = .diverged)) ∧
    (∃ (s : State) (raw : Int), sourceOffset s.dev = some raw ∧ timeState s.dev = .acquiring ∧ s.dev.tb.acquired.length < 2) ∧
    (∃ (s : State) (raw a b : Int), sourceOffset s.dev = some raw ∧ timeState s.dev = .acquiring ∧ s.dev.tb.acquired = [a, b] ∧
      1000 < max a (max b raw) - min a (min b raw)) ∧
    (∃ (s : State) (raw a b : Int), sourceOffset s.dev = some raw ∧ timeState s.dev = .acquiring ∧ s.dev.tb.acquired = [a, b] ∧
      max a (max b raw) - min a (min b raw) ≤ 1000 ∧ s.dev.rd PWR_STATUS_SHARED_UP ≠ 0) ∧
    (∃ (s : State) (raw a b : Int), sourceOffset s.dev = some raw ∧ timeState s.dev = .acquiring ∧ s.dev.tb.acquired = [a, b] ∧
      max a (max b raw) - min a (min b raw) ≤ 1000 ∧ s.dev.rd PWR_STATUS_SHARED_UP ≠ 0) ∧
    (∃ (s : State) (raw : Int), sourceOffset s.dev = some raw ∧ timeState s.dev = .locked ∧
      (raw - epoch s.dev).natAbs ≤ s.dev.rd BLF_JUMP_THR_THR_NS ∧ (s.dev.mode = .boot ∨ s.dev.mode = .hold ∨ s.dev.mode = .safeState)) ∧
    (∃ (s : State) (raw : Int), sourceOffset s.dev = some raw ∧ timeState s.dev = .locked ∧
      (raw - epoch s.dev).natAbs ≤ s.dev.rd BLF_JUMP_THR_THR_NS ∧ (s.dev.mode = .standstill ∨ s.dev.mode = .run ∨ s.dev.mode = .degraded)) ∧
    (∃ (s : State) (raw : Int), sourceOffset s.dev = some raw ∧ timeState s.dev = .locked ∧
      s.dev.rd BLF_JUMP_THR_THR_NS < (raw - epoch s.dev).natAbs ∧ s.dev.tb.confirm.length < 2) ∧
    (∃ (s : State) (raw a b : Int), sourceOffset s.dev = some raw ∧ timeState s.dev = .locked ∧
      s.dev.rd BLF_JUMP_THR_THR_NS < (raw - epoch s.dev).natAbs ∧ s.dev.tb.confirm = [a, b] ∧ 1000000 < a.natAbs ∧ 1000000 < b.natAbs ∧
      1000000 < (raw - epoch s.dev).natAbs ∧ s.dev.rd PWR_STATUS_SHARED_UP ≠ 0) ∧
    (∃ (s : State) (raw a b : Int), sourceOffset s.dev = some raw ∧ timeState s.dev = .locked ∧
      s.dev.rd BLF_JUMP_THR_THR_NS < (raw - epoch s.dev).natAbs ∧ s.dev.tb.confirm = [a, b] ∧
      (¬ (1000000 < a.natAbs ∧ 1000000 < b.natAbs ∧ 1000000 < (raw - epoch s.dev).natAbs)) ∧ s.dev.rd PWR_STATUS_SHARED_UP ≠ 0) ∧
    (∃ (s : State) (raw : Int), sourceOffset s.dev = some raw ∧ timeState s.dev = .slewing ∧
      (256000 * (raw - epoch s.dev) - s.dev.tb.slewLeft).natAbs ≤ 256000 * s.dev.rd BLF_JUMP_THR_THR_NS) ∧
    (∃ (s : State) (raw : Int), sourceOffset s.dev = some raw ∧ timeState s.dev = .slewing ∧ s.dev.tb.confirm.length < 2 ∧
      256000 * s.dev.rd BLF_JUMP_THR_THR_NS < (256000 * (raw - epoch s.dev) - s.dev.tb.slewLeft).natAbs) ∧
    (∃ (s : State) (raw a b : Int), sourceOffset s.dev = some raw ∧ timeState s.dev = .slewing ∧ s.dev.tb.confirm = [a, b] ∧
      256000 * s.dev.rd BLF_JUMP_THR_THR_NS < (256000 * (raw - epoch s.dev) - s.dev.tb.slewLeft).natAbs ∧ a.natAbs ≤ 256000000000 ∧
      s.dev.rd PWR_STATUS_SHARED_UP ≠ 0) ∧
    (∃ (s : State) (raw : Int), sourceOffset s.dev = some raw ∧ timeState s.dev = .holdover) ∧
    (∃ (s : State), timeState s.dev = .slewing ∧ s.dev.tb.slewLeft = 0 ∧ s.dev.tb.slew.natAbs ≤ 16000) ∧
    (∃ (s : State), (timeState s.dev ≠ .slewing ∨ s.dev.tb.slewLeft ≠ 0)) ∧
    (∃ (s : State), (timeState s.dev = .acquiring ∨ timeState s.dev = .locked ∨ timeState s.dev = .slewing) ∧
      s.dev.rd PWR_STATUS_SHARED_UP ≠ 0) ∧
    (∃ (s : State), (timeState s.dev = .free ∨ timeState s.dev = .holdover ∨ timeState s.dev = .diverged)) ∧
    (∃ (s : State) (m : Master), s.dev.takes m 0x1038 (BLF_STATUS_BUSY, 0) ∧ timeState s.dev = .free) ∧
    (∃ (s : State) (m : Master), s.dev.takes m 0x1038 (BLF_STATUS_BUSY, 0) ∧ timeState s.dev ≠ .free) :=
  ⟨⟨stOf (up []), by decide +kernel⟩,
   ⟨stOf ({ up [(BLF_CFG_SOURCE, 0, 1)] with tb := { ptp0 := { offset := some (5) } } }), 5, by decide +kernel⟩,
   ⟨stOf ({ up [(BLF_CFG_SOURCE, 0, 1), (BLF_STATUS_STATE, 0, 5)] with tb := { ptp0 := { offset := some (-7) } } }), -7, by decide +kernel⟩,
   ⟨stOf ({ up [(BLF_CFG_SOURCE, 0, 1), (BLF_STATUS_STATE, 0, 1)] with tb := { ptp0 := { offset := some (5) }, acquired := [4] } }), 5,
     by decide +kernel⟩,
   ⟨stOf ({ up [(BLF_CFG_SOURCE, 0, 1), (BLF_STATUS_STATE, 0, 1)] with tb := { ptp0 := { offset := some (1001) }, acquired := [0, 500] } }),
     1001, 0, 500, by decide +kernel⟩,
   ⟨stOf ({ up [(BLF_CFG_SOURCE, 0, 1), (BLF_STATUS_STATE, 0, 1), (BLF_PHASE_PHASE, 0, 3)] with tb := { ptp0 := { offset := some (1000) }, acquired := [0, 500] } }),
     1000, 0, 500, by decide +kernel⟩,
   ⟨stOf ({ up [(BLF_CFG_SOURCE, 0, 3), (BLF_STATUS_STATE, 0, 1)] with tb := { groupOffset := some (500), acquired := [-100, 500] } }),
     500, -100, 500, by decide +kernel⟩,
   ⟨stOf ({ up [(BLF_CFG_SOURCE, 0, 1), (BLF_STATUS_STATE, 0, 2), (BLF_JUMP_THR_THR_NS, 0, 1000), (SYS_MODE_MODE, 0, 1)] with tb := { ptp0 := { offset := some (1000) }, confirm := [3000] } }),
     1000, by decide +kernel⟩,
   ⟨stOf ({ up [(BLF_CFG_SOURCE, 0, 1), (BLF_STATUS_STATE, 0, 2), (BLF_JUMP_THR_THR_NS, 0, 1000), (SYS_MODE_MODE, 0, 3)] with tb := { ptp0 := { offset := some (-1000) }, confirm := [3000] } }),
     -1000, by decide +kernel⟩,
   ⟨stOf ({ up [(BLF_CFG_SOURCE, 0, 1), (BLF_STATUS_STATE, 0, 2), (BLF_JUMP_THR_THR_NS, 0, 1000)] with tb := { ptp0 := { offset := some (1001) }, confirm := [3000] } }),
     1001, by decide +kernel⟩,
   ⟨stOf ({ up [(BLF_CFG_SOURCE, 0, 1), (BLF_STATUS_STATE, 0, 2), (BLF_JUMP_THR_THR_NS, 0, 1000)] with tb := { ptp0 := { offset := some (1000001) }, confirm := [1000001, 1000001] } }),
     1000001, 1000001, 1000001, by decide +kernel⟩,
   ⟨stOf ({ up [(BLF_CFG_SOURCE, 0, 1), (BLF_STATUS_STATE, 0, 2), (BLF_JUMP_THR_THR_NS, 0, 1000)] with tb := { ptp0 := { offset := some (1000000) }, confirm := [1000001, 1000001] } }),
     1000000, 1000001, 1000001, by decide +kernel⟩,
   ⟨stOf ({ up [(BLF_CFG_SOURCE, 0, 1), (BLF_STATUS_STATE, 0, 3), (BLF_JUMP_THR_THR_NS, 0, 1000)] with tb := { ptp0 := { offset := some (6000) }, slewLeft := 256000 * 5000, slew := 16 } }),
     6000, by decide +kernel⟩,
   ⟨stOf ({ up [(BLF_CFG_SOURCE, 0, 1), (BLF_STATUS_STATE, 0, 3), (BLF_JUMP_THR_THR_NS, 0, 1000)] with tb := { ptp0 := { offset := some (6001) }, slewLeft := 256000 * 5000, slew := 16, confirm := [3] } }),
     6001, by decide +kernel⟩,
   ⟨stOf ({ up [(BLF_CFG_SOURCE, 0, 1), (BLF_STATUS_STATE, 0, 3), (BLF_JUMP_THR_THR_NS, 0, 1000)] with tb := { ptp0 := { offset := some (6001) }, slewLeft := 256000 * 5000, slew := 16, confirm := [256000000000, 5] } }),
     6001, 256000000000, 5, by decide +kernel⟩,
   ⟨stOf ({ up [(BLF_CFG_SOURCE, 0, 1), (BLF_STATUS_STATE, 0, 4)] with tb := { ptp0 := { offset := some (6) } } }), 6, by decide +kernel⟩,
   ⟨stOf ({ up [(BLF_STATUS_STATE, 0, 3)] with tb := { slew := 16000, freq := 32, rate := 16032 } }), by decide +kernel⟩,
   ⟨stOf ({ up [(BLF_STATUS_STATE, 0, 3)] with tb := { slewLeft := 1 } }), by decide +kernel⟩,
   ⟨stOf (up [(BLF_STATUS_STATE, 0, 3)]), by decide +kernel⟩,
   ⟨stOf (up [(BLF_STATUS_STATE, 0, 4)]), by decide +kernel⟩,
   ⟨stOf (up [(SYS_MODE_MODE, 0, 3)]), .hostBar0, ⟨takes_of (by decide +kernel), by decide +kernel⟩⟩,
   ⟨stOf (up [(SYS_MODE_MODE, 0, 3), (BLF_STATUS_STATE, 0, 5)]), .hostBar0, ⟨takes_of (by decide +kernel), by decide +kernel⟩⟩⟩

theorem witness_PtpMessages :
    (∃ (s : State) (p : Fin 2), s.dev.rd BLF_PTP_CFG_EN p = 0) ∧
    (∃ (s : State) (p : Fin 2) (dom : Nat), ptpAccepts s.dev p dom = true) ∧
    (∃ (s : State) (p : Fin 2) (dom : Nat) (c : PtpClock), ptpAccepts s.dev p dom = true ∧ masterTaken s.dev p c = true) ∧
    (∃ (s : State) (p : Fin 2) (c : PtpClock), masterTaken s.dev p c = false) ∧
    (∃ (s : State) (p : Fin 2) (dom seq : Nat) (t2 : Int), ptpAccepts s.dev p dom = true ∧ (ptpPort s.dev p).syncWait = some (seq, t2)) ∧
    (∃ (s : State) (p : Fin 2) (dom seq : Nat) (t3 : Int), ptpAccepts s.dev p dom = true ∧ (ptpPort s.dev p).reqWait = some (seq, t3) ∧
      s.dev.rd BLF_PTP_CFG_DELAY p ≠ 0) ∧
    (∃ (s : State) (p : Fin 2) (dom seq : Nat) (t1 t2 t3 : Int), ptpAccepts s.dev p dom = true ∧ (ptpPort s.dev p).reqWait = some (seq, t3) ∧
      s.dev.rd BLF_PTP_CFG_DELAY p = 0 ∧ (ptpPort s.dev p).lastSync = some (t1, t2)) ∧
    (∃ (s : State) (p : Fin 2) (dom : Nat), ptpAccepts s.dev p dom = true ∧ s.dev.rd BLF_PTP_CFG_DELAY p ≠ 0) ∧
    (∃ (s : State) (p : Fin 2) (dom : Nat), ptpAccepts s.dev p dom = true ∧ s.dev.rd BLF_PTP_CFG_DELAY p = 0 ∧ ptpIsMaster s.dev p = true) ∧
    (∃ (s : State) (p : Fin 2), ptpIsMaster s.dev p = true) ∧
    (∃ (s : State) (p : Fin 2), s.dev.rd BLF_PTP_CFG_EN p ≠ 0 ∧ ptpIsMaster s.dev p = false) :=
  ⟨⟨stOf (up []), 0, by decide +kernel⟩,
   ⟨stOf (up [(BLF_PTP_CFG_EN, 0, 1), (BLF_CFG_SOURCE, 0, 1)]), 0, 0, by decide +kernel⟩,
   ⟨stOf (up [(BLF_PTP_CFG_EN, 0, 1), (BLF_CFG_SOURCE, 0, 1)]), 0, 0, {}, by decide +kernel⟩,
   ⟨stOf ({ up [(BLF_PTP_CFG_EN, 0, 1), (BLF_CFG_SOURCE, 0, 1)] with tb := { ext := 5000, ptp0 := { best := some ({ identity := 7 }, 0) } } }),
     0, { identity := 8, prio1 := 200 }, by decide +kernel⟩,
   ⟨stOf ({ up [(BLF_PTP_CFG_EN, 0, 1), (BLF_CFG_SOURCE, 0, 1)] with tb := { ptp0 := { syncWait := some (9, 1000), delay2 := some 200 } } }),
     0, 0, 9, 1000, by decide +kernel⟩,
   ⟨stOf ({ up [(BLF_PTP_CFG_EN, 0, 1), (BLF_CFG_SOURCE, 0, 1), (BLF_PTP_CFG_DELAY, 0, 1)] with tb := { ext := 5003, ptp0 := { reqWait := some (9, 1000) } } }),
     0, 0, 9, 1000, by decide +kernel⟩,
   ⟨stOf ({ up [(BLF_PTP_CFG_EN, 0, 1), (BLF_CFG_SOURCE, 0, 1)] with tb := { ext := 5003, ptp0 := { reqWait := some (9, 1000), lastSync := some (500, 700) } } }),
     0, 0, 9, 500, 700, 1000, by decide +kernel⟩,
   ⟨stOf (up [(BLF_PTP_CFG_EN, 1, 1), (BLF_CFG_SOURCE, 0, 1), (BLF_PTP_CFG_DELAY, 1, 1)]), 1, 0, by decide +kernel⟩,
   ⟨stOf (up [(BLF_PTP_CFG_EN, 1, 1), (BLF_PTP_CFG_ROLE, 1, 1), (BLF_CFG_SOURCE, 0, 3)]), 1, 0, by decide +kernel⟩,
   ⟨stOf ({ up [(BLF_PTP_CFG_EN, 1, 1), (BLF_PTP_CFG_ROLE, 1, 1), (BLF_CFG_SOURCE, 0, 3)] with tb := { ptp1 := { syncSeq := 65535 } } }),
     1, by decide +kernel⟩,
   ⟨stOf ({ up [(BLF_PTP_CFG_EN, 0, 1), (BLF_CFG_SOURCE, 0, 1)] with tb := { ptp0 := { reqSeq := 65535 } } }), 0, by decide +kernel⟩⟩

theorem witness_TimeTriggeredPulses :
    (∃ (s : State) (k : Fin 8) (t : Int), s.dev.rd BLF_TT_CTRL_MODE k = 1 ∧ (ttOut s.dev k).nextEdge = some t ∧
      s.dev.rd GRP_STATUS_QUARANTINED = 0) ∧
    (∃ (s : State) (k : Fin 8) (t : Int), s.dev.rd BLF_TT_CTRL_MODE k = 2 ∧ (ttOut s.dev k).nextEdge = some t ∧
      s.dev.rd GRP_STATUS_QUARANTINED = 0) ∧
    (∃ (s : State) (k : Fin 8), s.dev.rd BLF_TT_CTRL_MODE k = 3 ∧ s.dev.tb.ticking = true ∧ s.dev.rd GRP_STATUS_QUARANTINED = 0 ∧
      s.dev.frameNo % (s.dev.rd BLF_TT_DIV_DIV k + 1) = s.dev.rd BLF_TT_DIV_PHASE k ∧ (ttOut s.dev k).firedIn ≠ some s.dev.frameNo) ∧
    (∃ (s : State) (k : Fin 8) (t : Int), s.dev.rd BLF_TT_CTRL_MODE k = 2 ∧ (ttOut s.dev k).nextEdge = some t ∧
      s.dev.rd GRP_STATUS_QUARANTINED ≠ 0) ∧
    (∃ (s : State) (k : Fin 8) (t : Int), (ttOut s.dev k).pulseEnd = some t) :=
  ⟨⟨stOf ({ up [(BLF_TT_CTRL_MODE, 0, 1), (BLF_TT_CTRL_ARMED, 0, 1), (BLF_TT_WIDTH_NS, 0, 100)] with tb := { tt := [(0, { nextEdge := some 4005 })] } }),
     0, 4005, by decide +kernel⟩,
   ⟨stOf ({ up [(BLF_TT_CTRL_MODE, 7, 2), (BLF_TT_PERIOD_NS, 7, 1000), (BLF_TT_WIDTH_NS, 7, 100)] with tb := { tt := [(7, { nextEdge := some 4005 })] } }),
     7, 4005, by decide +kernel⟩,
   ⟨stOf ({ up [(BLF_TT_CTRL_MODE, 0, 3), (BLF_TT_WIDTH_NS, 0, 100), (BLF_TT_DIV_DIV, 0, 3), (BLF_TT_DIV_PHASE, 0, 2), (BLF_FRAME_NO_NO, 0, 6)] with tb := { ticking := true, tickAt := 800, tt := [(0, { firedIn := some 2 })] } }),
     0, by decide +kernel⟩,
   ⟨stOf ({ up [(BLF_TT_CTRL_MODE, 7, 2), (GRP_STATUS_QUARANTINED, 0, 1)] with tb := { tt := [(7, { nextEdge := some 4005 })] } }), 7,
     4005, by decide +kernel⟩,
   ⟨stOf ({ up [(BLF_TT_CTRL_POL, 7, 1)] with tb := { tt := [(7, { pulseEnd := some 4008 })] } }), 7, 4008, by decide +kernel⟩⟩

/-- A frame record of a lane for a frame. -/
def frameRec (id frame : Nat) : FrameRecord :=
  { laneId := id, laneState := 5, seen := 7, flags := 0, frameNo := frame, digest := 0, fwVersion := 0, degRemain := 0, ch1 := 0, ch2 := 0,
    nodeValid := 0, decision := 0, arbState := 0, arbTest := 0, arbSuspect := 0, arbVerdict := 0, arbSig := 0, adc := [], nodeSafety := [] }

/-- A result record of a lane for a frame. -/
def resultRec (id frame : Nat) : ResultRecord := { laneId := id, status := 0, frameNo := frame, passNo := 1, pairsDone := 0, arms := [] }

theorem witness_FaultLatchCauses :
    (∃ (s : State) (l : Lane), laneMode s.dev l ≠ .absent ∧ laneMode s.dev l ≠ .debug ∧ (laneOf s.dev l).latch = false ∧
      s.dev.rd PWR_STATUS_SHARED_UP ≠ 0) ∧
    (∃ (s : State) (l : Lane), laneMode s.dev l ≠ .absent ∧ laneMode s.dev l ≠ .debug ∧ (laneOf s.dev l).latch = true) ∧
    (∃ (s : State) (l : Lane), (laneMode s.dev l = .absent ∨ laneMode s.dev l = .debug)) ∧
    (∃ (s : State) (l : Lane), (laneMode s.dev l = .absent ∨ laneMode s.dev l = .debug)) ∧
    (∃ (s : State) (l : Lane), laneMode s.dev l ≠ .absent ∧ laneMode s.dev l ≠ .debug ∧ (laneOf s.dev l).latch = false ∧
      s.dev.rd PWR_STATUS_SHARED_UP ≠ 0) ∧
    (∃ (s : State) (l : Lane), laneMode s.dev l = .debug ∧ (laneOf s.dev l).latch = false ∧ s.dev.rd PWR_STATUS_SHARED_UP ≠ 0) ∧
    (∃ (s : State) (l : Lane), laneMode s.dev l ≠ .absent) ∧
    (∃ (s : State) (l : Lane), laneMode s.dev l ≠ .absent ∧ laneMode s.dev l ≠ .debug ∧ (laneOf s.dev l).latch = false ∧
      s.dev.rd PWR_STATUS_SHARED_UP ≠ 0) ∧
    (∃ (s : State) (l : Lane), laneMode s.dev l ≠ .absent ∧ laneMode s.dev l ≠ .debug ∧ laneMode s.dev l ≠ .faulted ∧
      s.dev.tb.ticking = true ∧ s.dev.frameNo % testInterval s.dev = testOffset s.dev l) ∧
    (∃ (s : State) (l : Lane), laneMode s.dev l ≠ .absent ∧ laneMode s.dev l ≠ .debug ∧ laneMode s.dev l ≠ .faulted ∧
      s.dev.tb.ticking = true ∧ s.dev.frameNo % testInterval s.dev = testOffset s.dev l ∧ (laneOf s.dev l).latch = false ∧
      s.dev.rd LN_CMP_TEST_NEXT_GROUP l.idx < 32 ∧ s.dev.rd PWR_STATUS_SHARED_UP ≠ 0) ∧
    (∃ (s : State) (l : Lane), (laneMode s.dev l = .absent ∨ laneMode s.dev l = .debug ∨ laneMode s.dev l = .faulted)) :=
  ⟨⟨stOf (up [(LN_STATUS_STATE, 2, 5)]), .c, by decide +kernel⟩,
   ⟨stOf ({ up [(LN_STATUS_STATE, 2, 7)] with lanes := ⟨{}, {}, { latch := true }⟩ }), .c, by decide +kernel⟩,
   ⟨stOf (up []), .a, by decide +kernel⟩,
   ⟨stOf (up [(LN_STATUS_STATE, 1, 8)]), .b, by decide +kernel⟩,
   ⟨stOf (up [(LN_STATUS_STATE, 1, 6)]), .b, by decide +kernel⟩,
   ⟨stOf (up [(LN_STATUS_STATE, 1, 8)]), .b, by decide +kernel⟩,
   ⟨stOf (up [(LN_STATUS_STATE, 1, 5), (LN_MEM_CE_CNT, 1, 255), (LN_MEM_SCRUB_PASS, 1, 65535)]), .b, by decide +kernel⟩,
   ⟨stOf (up [(LN_STATUS_STATE, 0, 1)]), .a, by decide +kernel⟩,
   ⟨stOf ({ up [(LN_STATUS_STATE, 1, 4), (LN_CMP_TEST_NEXT_GROUP, 1, 31), (BLF_FRAME_NO_NO, 0, 40000)] with tb := { ticking := true } }),
     .b, by decide +kernel⟩,
   ⟨stOf ({ up [(LN_STATUS_STATE, 2, 4), (LN_CMP_TEST_NEXT_GROUP, 2, 31), (BLF_FRAME_NO_NO, 0, 80000)] with tb := { ticking := true } }),
     .c, by decide +kernel⟩,
   ⟨stOf (up [(LN_STATUS_STATE, 0, 7)]), .a, by decide +kernel⟩⟩

theorem witness_ExchangeRecords :
    (∃ (s : State) (rx tx : Lane) (r : FrameRecord), exchanges s.dev rx = true ∧ rx ≠ tx ∧ r.laneId = laneId tx ∧ r.frameNo = s.dev.frameNo) ∧
    (∃ (s : State) (rx tx : Lane), exchanges s.dev rx = true ∧ rx ≠ tx) ∧
    (∃ (s : State) (rx tx : Lane) (r : FrameRecord), exchanges s.dev rx = true ∧ rx ≠ tx ∧ r.laneId = laneId tx ∧ r.frameNo ≠ s.dev.frameNo) ∧
    (∃ (s : State) (rx tx : Lane) (r : PositionRecord), exchanges s.dev rx = true ∧ rx ≠ tx ∧ r.laneId = laneId tx ∧
      r.frameNo = s.dev.frameNo) ∧
    (∃ (s : State) (rx tx : Lane) (r : ResultRecord), exchanges s.dev rx = true ∧ rx ≠ tx ∧ r.laneId = laneId tx ∧ r.frameNo = s.dev.frameNo) ∧
    (∃ (s : State) (rx : Lane), exchanges s.dev rx = false) ∧
    (∃ (s : State) (l : Lane), exchanges s.dev l = true ∧ s.dev.tb.ticking = true) ∧
    (∃ (s : State) (l : Lane), exchanges s.dev l = true ∧ s.dev.tb.ticking = true ∧ (∀ m : Lane, m ≠ l → (laneOf s.dev m).unseen = false)) ∧
    (∃ (s : State) (l m : Lane) (bent : PerLane (Option (BitVec 2))), exchanges s.dev l = true ∧ s.dev.tb.ticking = true ∧ m ≠ l ∧
      (laneOf s.dev m).latch = true ∧ bent.get m = none) ∧
    (∃ (s : State) (l : Lane), exchanges s.dev l = false) :=
  ⟨⟨stOf (up [(LN_STATUS_STATE, 0, 5), (BLF_FRAME_NO_NO, 0, 9)]), .a, .c, frameRec 12 9, by decide +kernel⟩,
   ⟨stOf (up [(LN_STATUS_STATE, 0, 5), (BLF_FRAME_NO_NO, 0, 9)]), .a, .c, by decide +kernel⟩,
   ⟨stOf (up [(LN_STATUS_STATE, 1, 5), (BLF_FRAME_NO_NO, 0, 9)]), .b, .c, frameRec 12 8, by decide +kernel⟩,
   ⟨stOf (up [(LN_STATUS_STATE, 1, 2), (BLF_FRAME_NO_NO, 0, 9)]), .b, .a, ⟨10, 9, []⟩, by decide +kernel⟩,
   ⟨stOf (up [(LN_STATUS_STATE, 1, 7), (BLF_FRAME_NO_NO, 0, 9)]), .b, .a, resultRec 10 9, by decide +kernel⟩,
   ⟨stOf (up [(LN_STATUS_STATE, 1, 1)]), .b, by decide +kernel⟩,
   ⟨stOf ({ up [(LN_STATUS_STATE, 1, 4), (BLF_FRAME_NO_NO, 0, 9)] with tb := { ticking := true } }), .b, by decide +kernel⟩,
   ⟨stOf ({ up [(LN_STATUS_STATE, 1, 4), (BLF_FRAME_NO_NO, 0, 9)] with tb := { ticking := true } }), .b,
     ⟨by decide +kernel, by decide +kernel, fun m => by cases m <;> decide +kernel⟩⟩,
   ⟨stOf ({ up [(LN_STATUS_STATE, 0, 5), (LN_STATUS_STATE, 1, 4), (LN_STATUS_STATE, 2, 7), (SYS_MODE_MODE, 0, 3), (BLF_FRAME_NO_NO, 0, 9)] with lanes := ⟨{}, {}, { latch := true, unseen := true }⟩, tb := { ticking := true } }),
     .b, .c, ⟨none, none, none⟩, by decide +kernel⟩,
   ⟨stOf (up [(LN_STATUS_STATE, 1, 1)]), .b, by decide +kernel⟩⟩

theorem witness_LaneRecovery :
    (∃ (s : State) (l : Lane), laneMode s.dev l = .boot ∧ s.dev.mode = .hold) ∧
    (∃ (s : State) (l : Lane), laneMode s.dev l ≠ .boot) ∧
    (∃ (s : State), s.dev.mode = .boot ∧ s.dev.rd PWR_STATUS_SHARED_UP ≠ 0 ∧ s.dev.flash.fw0 = none ∧ s.dev.flash.fw1 = none ∧
      (∀ p, p < 18 → p ∈ s.dev.mil.tested)) ∧
    (∃ (s : State), s.dev.mode ≠ .boot) ∧
    (∃ (s : State) (p : Fin 18), s.dev.mode = .boot ∧ p.val ∉ s.dev.mil.tested ∧ s.dev.rd MIL_ENG_STAT_STATE p ≠ 2) ∧
    (∃ (s : State) (l : Lane), laneMode s.dev l = .selftest ∧ (laneOf s.dev l).latch = false ∧ s.dev.mode = .boot) ∧
    (∃ (s : State) (l : Lane), laneMode s.dev l = .selftest ∧ (laneOf s.dev l).latch = false ∧ s.dev.mode = .hold ∧
      s.dev.rd LN_STATUS_REJOIN_LIMIT l.idx = 0) ∧
    (∃ (s : State) (l : Lane), laneMode s.dev l = .selftest ∧ (laneOf s.dev l).latch = false ∧ (s.dev.mode = .run ∨ s.dev.mode = .degraded) ∧
      s.dev.rd LN_STATUS_REJOIN_LIMIT l.idx = 0) ∧
    (∃ (s : State) (l : Lane), laneMode s.dev l = .selftest ∧ (laneOf s.dev l).latch = false ∧ (s.dev.mode = .run ∨ s.dev.mode = .degraded) ∧
      s.dev.rd LN_STATUS_REJOIN_LIMIT l.idx = 0) ∧
    (∃ (s : State) (l : Lane), laneMode s.dev l = .selftest ∧ (laneOf s.dev l).selftested = false ∧ (laneOf s.dev l).latch = false ∧
      s.dev.rd PWR_STATUS_SHARED_UP ≠ 0) ∧
    (∃ (s : State) (l : Lane), (laneOf s.dev l).latch = true ∧ s.dev.rd LN_STATUS_REJOIN_LIMIT l.idx = 0 ∧ s.dev.rd PWR_STATUS_SHARED_UP ≠ 0 ∧
      convOk s.dev l = true ∧ heldBy s.dev l.idx = [] ∧ (s.dev.rd PWR_STATUS_LANE_UP).testBit l.idx = true) ∧
    (∃ (s : State) (l : Lane), (laneOf s.dev l).latch = true ∧ s.dev.rd LN_STATUS_REJOIN_LIMIT l.idx ≠ 0) ∧
    (∃ (s : State) (x l : Lane), wantsImage s.dev x = true ∧ canHelp s.dev = true ∧ donorOf s.dev x = some l ∧
      (laneOf s.dev x).reloadChunks < 8 ∧ bulkOpen s.dev l = true ∧ (laneOf s.dev x).bulkFrame ≠ some s.dev.frameNo) ∧
    (∃ (s : State) (x : Lane), wantsImage s.dev x = true ∧ (laneOf s.dev x).reloadBlocks < 8 * (laneOf s.dev x).reloadChunks ∧
      canHelp s.dev = true ∧ ((laneOf s.dev x).bulkFrame = some s.dev.frameNo → (laneOf s.dev x).bulkBlocks < 8)) ∧
    (∃ (s : State) (x l : Lane) (i : Image), (laneOf s.dev x).staging = some i ∧ donorOf s.dev x = some l ∧ wantsImage s.dev x = true ∧
      (laneOf s.dev x).reloadBlocks = 64 ∧ (laneOf s.dev x).switchAt = none ∧ canHelp s.dev = true ∧
      (laneOf s.dev x).bulkFrame ≠ some s.dev.frameNo ∧ imageDigest i = imageDigest (laneOf s.dev l).image) ∧
    (∃ (s : State) (x l : Lane) (i : Image), (laneOf s.dev x).staging = some i ∧ donorOf s.dev x = some l ∧ wantsImage s.dev x = true ∧
      (laneOf s.dev x).reloadBlocks = 64 ∧ (laneOf s.dev x).switchAt = none ∧ canHelp s.dev = true ∧
      (laneOf s.dev x).bulkFrame ≠ some s.dev.frameNo ∧ imageDigest i ≠ imageDigest (laneOf s.dev l).image ∧
      (laneOf s.dev x).reloadTries = 0) ∧
    (∃ (s : State) (l : Lane) (i : Image), (laneOf s.dev l).staging = some i ∧ (laneOf s.dev l).switchAt = some s.dev.frameNo ∧
      s.dev.tb.ticking = true ∧ laneMode s.dev l = .inService) ∧
    (∃ (s : State) (x l : Lane), donorOf s.dev x = some l ∧ laneMode s.dev x = .resync ∧ (laneOf s.dev x).needImage = false ∧
      canHelp s.dev = true ∧ s.dev.frameNo % 2 = 0 ∧ s.dev.tb.ticking = true ∧ (laneOf s.dev x).snapshot = none ∧
      (laneOf s.dev l).agreedNow = false ∧ (laneOf s.dev x).agreedNow = false) ∧
    (∃ (s : State) (x : Lane), laneMode s.dev x = .resync ∧ (laneOf s.dev x).snapshot.isSome = true ∧ (laneOf s.dev x).snapshotBlocks = 16 ∧
      canHelp s.dev = true ∧ (laneOf s.dev x).agreedNow = false ∧ s.dev.frameNo = ((laneOf s.dev x).snapshotAt + 2) % 2 ^ 32) ∧
    (∃ (s : State) (x : Lane), laneMode s.dev x = .shadow ∧ 16 ≤ (laneOf s.dev x).shadowRun ∧ s.dev.frameNo % 2 = 0 ∧ canHelp s.dev = true ∧
      s.dev.rd PWR_STATUS_SHARED_UP ≠ 0) ∧
    (∃ (s : State) (x : Lane), laneMode s.dev x = .shadow ∧ (laneOf s.dev x).shadowRun < 16) ∧
    (∃ (s : State) (x : Lane), (laneOf s.dev x).bulkFrame = some s.dev.frameNo) :=
  ⟨⟨stOf (up [(LN_STATUS_STATE, 1, 1), (SYS_MODE_MODE, 0, 1)]), .b, by decide +kernel⟩,
   ⟨stOf (up [(LN_STATUS_STATE, 1, 2), (SYS_MODE_MODE, 0, 1)]), .b, by decide +kernel⟩,
   ⟨stOf ({ up [] with mil := { tested := List.range 18 } }), by decide +kernel⟩,
   ⟨stOf (up [(SYS_MODE_MODE, 0, 1)]), by decide +kernel⟩,
   ⟨stOf ({ up [] with mil := { tested := List.range 16 } }), 17, by decide +kernel⟩,
   ⟨stOf (up [(LN_STATUS_STATE, 1, 2)]), .b, by decide +kernel⟩,
   ⟨stOf (up [(LN_STATUS_STATE, 1, 2), (SYS_MODE_MODE, 0, 1)]), .b, by decide +kernel⟩,
   ⟨stOf (up [(LN_STATUS_STATE, 1, 2), (SYS_MODE_MODE, 0, 3)]), .b, by decide +kernel⟩,
   ⟨stOf (up [(LN_STATUS_STATE, 1, 2), (SYS_MODE_MODE, 0, 4)]), .b, by decide +kernel⟩,
   ⟨stOf (up [(LN_STATUS_STATE, 1, 2), (SYS_MODE_MODE, 0, 3)]), .b, by decide +kernel⟩,
   ⟨stOf ({ up [(LN_STATUS_STATE, 2, 7), (PWR_STATUS_CONV_OK, 0, 4), (PWR_STATUS_LANE_UP, 0, 4)] with lanes := ⟨{}, {}, { latch := true }⟩ }),
     .c, by decide +kernel⟩,
   ⟨stOf ({ up [(LN_STATUS_STATE, 2, 7), (LN_STATUS_REJOIN_LIMIT, 2, 1)] with lanes := ⟨{}, {}, { latch := true }⟩ }), .c,
     by decide +kernel⟩,
   ⟨stOf ({ up [(LN_STATUS_STATE, 0, 5), (LN_STATUS_STATE, 1, 5), (LN_STATUS_STATE, 2, 6)] with lanes := ⟨{ evaluated := true }, {}, { reloadChunks := 7, bulkFrame := some 3 }⟩ }),
     .c, .a, by decide +kernel⟩,
   ⟨stOf ({ up [(LN_STATUS_STATE, 0, 5), (LN_STATUS_STATE, 1, 5), (LN_STATUS_STATE, 2, 6)] with lanes := ⟨{}, {}, { reloadChunks := 8, reloadBlocks := 62, bulkFrame := some 0, bulkBlocks := 7 }⟩ }),
     .c, by decide +kernel⟩,
   ⟨stOf ({ up [(LN_STATUS_STATE, 0, 5), (LN_STATUS_STATE, 1, 5), (LN_STATUS_STATE, 2, 6)] with lanes := ⟨{}, {}, { reloadBlocks := 64, staging := some {} }⟩ }),
     .c, .a, {},
     ⟨by decide +kernel, by decide +kernel, by decide +kernel, by decide +kernel, ⟨by decide +kernel, by decide +kernel, by decide +kernel, rfl⟩⟩⟩,
   ⟨stOf ({ up [(LN_STATUS_STATE, 0, 5), (LN_STATUS_STATE, 1, 5), (LN_STATUS_STATE, 2, 6)] with lanes := ⟨{}, {}, { reloadBlocks := 64, staging := some { bytes := [(262143, 1)] } }⟩ }),
     .c, .a, { bytes := [(262143, 1)] }, by decide +kernel⟩,
   ⟨stOf ({ up [(LN_STATUS_STATE, 2, 5), (BLF_FRAME_NO_NO, 0, 8)] with tb := { ticking := true }, lanes := ⟨{}, {}, { staging := some { bytes := [(0, 1)] }, switchAt := some 8 }⟩ }),
     .c, { bytes := [(0, 1)] }, by decide +kernel⟩,
   ⟨stOf ({ up [(LN_STATUS_STATE, 0, 5), (LN_STATUS_STATE, 1, 5), (LN_STATUS_STATE, 2, 3), (BLF_FRAME_NO_NO, 0, 8)] with tb := { ticking := true } }),
     .c, .a, by decide +kernel⟩,
   ⟨stOf ({ up [(LN_STATUS_STATE, 0, 5), (LN_STATUS_STATE, 1, 5), (LN_STATUS_STATE, 2, 3), (BLF_FRAME_NO_NO, 0, 10)] with tb := { ticking := true }, lanes := ⟨{}, {}, { snapshot := some {}, snapshotAt := 8, snapshotBlocks := 16 }⟩ }),
     .c, by decide +kernel⟩,
   ⟨stOf ({ up [(LN_STATUS_STATE, 0, 5), (LN_STATUS_STATE, 1, 5), (LN_STATUS_STATE, 2, 4), (BLF_FRAME_NO_NO, 0, 10)] with tb := { ticking := true }, lanes := ⟨{}, {}, { shadowRun := 16 }⟩ }),
     .c, by decide +kernel⟩,
   ⟨stOf ({ up [(LN_STATUS_STATE, 2, 4)] with lanes := ⟨{}, {}, { shadowRun := 15 }⟩ }), .c, by decide +kernel⟩,
   ⟨stOf ({ up [(LN_STATUS_STATE, 0, 5), (LN_STATUS_STATE, 1, 5), (LN_STATUS_STATE, 2, 6), (BLF_FRAME_NO_NO, 0, 5)] with lanes := ⟨{ evaluated := true }, {}, { reloadChunks := 7, bulkFrame := some 5 }⟩ }),
     .c, by decide +kernel⟩⟩

/-- Lane A in service while ticks run. -/
def laneA (r : List (RegField × Nat × Nat)) (x : LaneState) : Dev :=
  { up ((LN_STATUS_STATE, 0, 5) :: r) with tb := { ticking := true }, lanes := ⟨x, {}, {}⟩ }

/-- Three lanes in service while ticks run, alike. -/
def lanesABC (r : List (RegField × Nat × Nat)) (x : LaneState) : Dev :=
  { up ([(LN_STATUS_STATE, 0, 5), (LN_STATUS_STATE, 1, 5), (LN_STATUS_STATE, 2, 5)] ++ r) with
    tb := { ticking := true }, lanes := ⟨x, x, x⟩ }

theorem witness_LaneEvaluationDrivesOutputs :
    (∃ (s : State) (l : Lane), s.dev.tb.ticking = true ∧ laneMode s.dev l = .inService ∧ (laneOf s.dev l).latch = false ∧ s.dev.mode = .hold ∧
      (laneOf s.dev l).evaluated = false ∧ s.dev.offset < evaluationEnd s.dev ∧ (∀ j m : Lane, (laneOf s.dev j).silentRun.get m < 2)) ∧
    (∃ (s : State) (l : Lane), s.dev.tb.ticking = true ∧ laneMode s.dev l = .inService ∧ (laneOf s.dev l).latch = false ∧ s.dev.mode = .hold ∧
      (laneOf s.dev l).evaluated = false ∧ s.dev.offset < evaluationEnd s.dev ∧ (∀ j m : Lane, (laneOf s.dev j).silentRun.get m < 2) ∧
      anyDisc s.dev l = true) ∧
    (∃ (s : State) (l : Lane), (laneMode s.dev l = .inService ∨ laneMode s.dev l = .shadow) ∧ (laneOf s.dev l).latch = true) ∧
    (∃ (s : State) (l : Lane), (laneMode s.dev l = .absent ∨ laneMode s.dev l = .boot ∨ laneMode s.dev l = .selftest ∨ laneMode s.dev l = .reload ∨ laneMode s.dev l = .debug ∨ (laneMode s.dev l = .resync ∧ (evaluates s.dev l = false ∨ s.dev.mode = .hold)))) ∧
    (∃ (s : State) (l : Lane), (laneMode s.dev l = .absent ∨ laneMode s.dev l = .boot ∨ laneMode s.dev l = .selftest ∨ laneMode s.dev l = .reload ∨ laneMode s.dev l = .debug ∨ (laneMode s.dev l = .resync ∧ (evaluates s.dev l = false ∨ s.dev.mode = .hold)))) ∧
    (∃ (s : State) (l : Lane), ((laneOf s.dev l).evaluated = true ∨ evaluationEnd s.dev ≤ s.dev.offset)) ∧
    (∃ (s : State) (l : Lane), ((laneOf s.dev l).evaluated = true ∨ evaluationEnd s.dev ≤ s.dev.offset)) ∧
    (∃ (s : State) (l : Lane), s.dev.tb.ticking = true ∧ laneMode s.dev l = .inService ∧ (laneOf s.dev l).latch = false ∧ s.dev.mode ≠ .hold ∧
      (laneOf s.dev l).evaluated = false ∧ s.dev.offset < evaluationEnd s.dev ∧ (∀ j m : Lane, (laneOf s.dev j).silentRun.get m < 2)) ∧
    (∃ (s : State) (l : Lane), s.dev.tb.ticking = true ∧ laneMode s.dev l = .faulted ∧ rejoinReady s.dev l = true ∧
      (laneOf s.dev l).evaluated = false ∧ s.dev.offset < evaluationEnd s.dev) ∧
    (∃ (s : State) (l : Lane), s.dev.tb.ticking = true ∧ evaluates s.dev l = true ∧ (laneOf s.dev l).evaluated = true) ∧
    (∃ (s : State) (l : Lane), s.dev.tb.ticking = true ∧ evaluates s.dev l = true ∧ (laneOf s.dev l).evaluated = false ∧
      s.dev.rd PWR_STATUS_SHARED_UP ≠ 0) ∧
    (∃ (s : State) (l : Lane), evaluates s.dev l = false) :=
  ⟨⟨stOf (laneA [(SYS_MODE_MODE, 0, 1)] { selftested := true }), .a,
     ⟨by decide +kernel, by decide +kernel, by decide +kernel, by decide +kernel, ⟨by decide +kernel, by decide +kernel, fun j m => by cases j <;> cases m <;> decide +kernel⟩⟩⟩,
   ⟨stOf (laneA [(SYS_MODE_MODE, 0, 1)] { selftested := true, gates := 3, saf := { inputs := [(4, { disc := true })] } }), .a,
     ⟨by decide +kernel, by decide +kernel, by decide +kernel, by decide +kernel, ⟨by decide +kernel, by decide +kernel, fun j m => by cases j <;> cases m <;> decide +kernel, by decide +kernel⟩⟩⟩,
   ⟨stOf (laneA [] { latch := true }), .a, by decide +kernel⟩,
   ⟨stOf (up []), .a, by decide +kernel⟩,
   ⟨stOf (up [(LN_STATUS_STATE, 1, 3)]), .b, by decide +kernel⟩,
   ⟨stOf (laneA [(SYS_MODE_MODE, 0, 3)] { evaluated := true }), .a, by decide +kernel⟩,
   ⟨stOf ({ laneA [(SYS_MODE_MODE, 0, 3)] {} with tb := { ticking := true, ext := 50000 } }), .a, by decide +kernel⟩,
   ⟨stOf (lanesABC [(SYS_MODE_MODE, 0, 3)] { image := { params := { brakes := [(15, { unit := some 31 })] } }, saf := { units := [(31, { func := 1, torque := true, brakeRel := true, disabled := false })], brakes := [(15, { lightAge := some 5 })] } }),
     .b,
     ⟨by decide +kernel, by decide +kernel, by decide +kernel, by decide +kernel, ⟨by decide +kernel, by decide +kernel, fun j m => by cases j <;> cases m <;> decide +kernel⟩⟩⟩,
   ⟨stOf ({ up [(LN_STATUS_STATE, 2, 7)] with tb := { ticking := true }, lanes := ⟨{}, {}, { outCause := Ev.TICK_LOST.code, goodTicks := 16 }⟩ }),
     .c, by decide +kernel⟩,
   ⟨stOf (laneA [] { evaluated := true, overrun := true, overrunRun := 1 }), .a, by decide +kernel⟩,
   ⟨stOf (laneA [] { overrunRun := 1 }), .a, by decide +kernel⟩,
   ⟨stOf (up [(LN_STATUS_STATE, 0, 6)]), .a, by decide +kernel⟩⟩

theorem witness_SafetyBufferContent :
    (∃ (s : State) (l : Lane) (k : Nat), s.dev.tb.ticking = true ∧ inService s.dev l = true ∧ (laneOf s.dev l).latch = false ∧
      k < (ringOf s.dev l).sched.length ∧ (laneOf s.dev l).overrun = false ∧ s.dev.mode ≠ .hold ∧ (laneOf s.dev l).saf.deen = false ∧
      2 ≤ (regardedLanes s.dev).length ∧ (ringOf s.dev l).sched = (laneOf s.dev l).image.params.schedule) ∧
    (∃ (s : State) (l : Lane) (k : Nat), s.dev.tb.ticking = true ∧ inService s.dev l = true ∧ (laneOf s.dev l).latch = false ∧
      k < (ringOf s.dev l).sched.length ∧ (laneOf s.dev l).overrun = false ∧
      (s.dev.mode = .hold ∨ (laneOf s.dev l).saf.deen = true ∨ (regardedLanes s.dev).length < 2)) ∧
    (∃ (s : State) (l : Lane) (k : Nat), s.dev.tb.ticking = true ∧ inService s.dev l = true ∧ (laneOf s.dev l).latch = false ∧
      k < (ringOf s.dev l).sched.length ∧ (laneOf s.dev l).overrun = false ∧
      (s.dev.mode = .hold ∨ (laneOf s.dev l).saf.deen = true ∨ (regardedLanes s.dev).length < 2)) ∧
    (∃ (s : State) (l : Lane) (k : Nat), s.dev.tb.ticking = true ∧ inService s.dev l = true ∧ (laneOf s.dev l).latch = false ∧
      k < (ringOf s.dev l).sched.length ∧ (laneOf s.dev l).overrun = false ∧
      (s.dev.mode = .hold ∨ (laneOf s.dev l).saf.deen = true ∨ (regardedLanes s.dev).length < 2)) ∧
    (∃ (s : State) (l : Lane) (k : Nat), s.dev.tb.ticking = true ∧ inService s.dev l = true ∧ (laneOf s.dev l).latch = false ∧
      k < (ringOf s.dev l).sched.length ∧ (laneOf s.dev l).overrun = true ∧ (laneOf s.dev l).overrunRun ≤ 1) ∧
    (∃ (s : State) (l : Lane), (inService s.dev l = false ∨ (laneOf s.dev l).latch = true)) ∧
    (∃ (s : State) (l : Lane), (inService s.dev l = false ∨ (laneOf s.dev l).latch = true)) ∧
    (∃ (s : State) (l : Lane) (k : Nat), s.dev.tb.ticking = true ∧ inService s.dev l = true ∧ (laneOf s.dev l).latch = false ∧
      k < (ringOf s.dev l).sched.length ∧ (laneOf s.dev l).overrun = true ∧ 2 ≤ (laneOf s.dev l).overrunRun) ∧
    (∃ (s : State), s.dev.rd PWR_STATUS_SHARED_UP ≠ 0) :=
  ⟨⟨stOf ({ lanesABC [(SYS_MODE_MODE, 0, 3)] { image := { params := { schedule := [{ joints := 1, pc := 2 }] } } } with rings := ⟨{}, {}, { sched := [{ joints := 1, pc := 2 }] }⟩ }),
     .c, 0, by decide +kernel⟩,
   ⟨stOf ({ lanesABC [(SYS_MODE_MODE, 0, 1)] {} with rings := ⟨{}, {}, { sched := [{}, { profile := 1, pc := 3 }] }⟩ }), .c, 1,
     by decide +kernel⟩,
   ⟨stOf ({ lanesABC [(SYS_MODE_MODE, 0, 3)] { saf := { deen := true } } with rings := ⟨{}, {}, { sched := [{}, { profile := 0, pc := 3 }] }⟩ }),
     .c, 1, by decide +kernel⟩,
   ⟨stOf ({ laneA [(SYS_MODE_MODE, 0, 3)] {} with rings := ⟨{ sched := [{ pc := 3 }] }, {}, {}⟩ }), .a, 0, by decide +kernel⟩,
   ⟨stOf ({ lanesABC [(SYS_MODE_MODE, 0, 3)] { overrun := true, overrunRun := 1 } with rings := ⟨{}, {}, { sched := [{ pc := 3 }], safety := [(0, { flag := 5, payload := [9] })] }⟩ }),
     .c, 0, by decide +kernel⟩,
   ⟨stOf (laneA [] { latch := true }), .a, by decide +kernel⟩,
   ⟨stOf (up []), .a, by decide +kernel⟩,
   ⟨stOf ({ lanesABC [(SYS_MODE_MODE, 0, 3)] { overrun := true, overrunRun := 2 } with rings := ⟨{}, {}, { sched := [{ pc := 3 }] }⟩ }),
     .c, 0, by decide +kernel⟩,
   ⟨stOf (up [(LN_STATUS_STATE, 0, 5)]), by decide +kernel⟩⟩

theorem witness_ArbitrationSteps :
    (∃ (s : State) (m : Lane), namedSuspects s.dev = [m] ∧ arbRuns s.dev = false ∧ s.dev.mode ≠ .hold ∧ (serviceLanes s.dev).length = 3 ∧
      clearedLately s.dev m = false) ∧
    (∃ (s : State) (m : Lane), namedSuspects s.dev = [m] ∧ arbRuns s.dev = false ∧ s.dev.mode ≠ .hold ∧ (serviceLanes s.dev).length = 3 ∧
      clearedLately s.dev m = true) ∧
    (∃ (s : State), (namedSuspects s.dev = [] ∨ s.dev.mode = .hold)) ∧
    (∃ (s : State) (l : Lane), inService s.dev l = true ∧ (laneOf s.dev l).arb.phase = 2) ∧
    (∃ (s : State) (l : Lane), (laneOf s.dev l).arb.phase ≠ 2) ∧
    (∃ (s : State) (m : Lane), (laneOf s.dev s.dev.firstLane).arb.phase = 3 ∧ (serviceLanes s.dev).length = 3 ∧
      (laneOf s.dev s.dev.firstLane).arb.suspects = 2 ^ m.idx ∧ failsArb s.dev m = true) ∧
    (∃ (s : State) (m : Lane), (laneOf s.dev s.dev.firstLane).arb.phase = 3 ∧ (serviceLanes s.dev).length = 3 ∧
      (laneOf s.dev s.dev.firstLane).arb.suspects = 2 ^ m.idx ∧ failsArb s.dev m = false) ∧
    (∃ (s : State) (l m : Lane), (serviceLanes s.dev = Lane.all.filter (fun k => decide (k = l ∨ k = m))) ∧ l ≠ m ∧ namedSuspects s.dev ≠ [] ∧
      arbRuns s.dev = false ∧ s.dev.mode ≠ .hold ∧ clearedLately s.dev m = true) ∧
    (∃ (s : State), (laneOf s.dev s.dev.firstLane).arb.phase = 3 ∧ (serviceLanes s.dev).length = 2 ∧
      (∀ m ∈ serviceLanes s.dev, (laneOf s.dev s.dev.firstLane).arb.suspects.testBit m.idx = false)) :=
  ⟨⟨stOf ({ lanesABC [(SYS_MODE_MODE, 0, 3), (BLF_FRAME_NO_NO, 0, 65)] {} with lanes := ⟨{ arb := { held := 4 } }, {}, {}⟩ }), .c,
     by decide +kernel⟩,
   ⟨stOf ({ lanesABC [(SYS_MODE_MODE, 0, 3)] {} with lanes := ⟨{ arb := { held := 4, cleared := [(2, -60000000000)] } }, {}, {}⟩ }), .c,
     by decide +kernel⟩,
   ⟨stOf (up []), by decide +kernel⟩,
   ⟨stOf (lanesABC [] { arb := { phase := 2 } }), .a, by decide +kernel⟩,
   ⟨stOf (laneA [] { arb := { phase := 3 } }), .a, by decide +kernel⟩,
   ⟨stOf (lanesABC [] { arb := { phase := 3, suspects := 2 } }), .b, by decide +kernel⟩,
   ⟨stOf (lanesABC [(BLF_FRAME_NO_NO, 0, 2)] { arb := { phase := 3, suspects := 2, pass := 7, given := 7 }, frames := ⟨some { frameRec 10 0 with arbState := 3, arbVerdict := 0x7F }, some { frameRec 11 0 with arbState := 3, arbVerdict := 0x7F }, some { frameRec 12 0 with arbState := 3, arbVerdict := 0x7F }⟩ }),
     .b, by decide +kernel⟩,
   ⟨stOf ({ up [(SYS_MODE_MODE, 0, 3), (LN_STATUS_STATE, 0, 5), (LN_STATUS_STATE, 2, 5)] with tb := { ticking := true }, lanes := ⟨{ arb := { held := 4, cleared := [(2, 0)] } }, {}, {}⟩ }),
     .a, .c, by decide +kernel⟩,
   ⟨stOf ({ up [(SYS_MODE_MODE, 0, 3), (LN_STATUS_STATE, 0, 5), (LN_STATUS_STATE, 2, 5)] with tb := { ticking := true }, lanes := ⟨{ arb := { phase := 3, suspects := 2 } }, {}, { arb := { phase := 3, suspects := 2 } }⟩ }),
     by decide +kernel⟩⟩

theorem witness_ArbitrationOfTwoLanes :
    (∃ (s : State) (l m : Lane), l ≠ m ∧ (serviceLanes s.dev = Lane.all.filter (fun k => decide (k = l ∨ k = m))) ∧ namedSuspects s.dev ≠ [] ∧
      arbRuns s.dev = false ∧ s.dev.mode ≠ .hold ∧ clearedLately s.dev l = false ∧ clearedLately s.dev m = false) ∧
    (∃ (s : State) (l m : Lane), l ≠ m ∧ (serviceLanes s.dev = Lane.all.filter (fun k => decide (k = l ∨ k = m))) ∧
      (laneOf s.dev l).arb.phase = 2) ∧
    (∃ (s : State) (l : Lane), (laneOf s.dev s.dev.firstLane).arb.phase = 3 ∧ (serviceLanes s.dev).length = 2 ∧
      (∀ m ∈ serviceLanes s.dev, failsArb s.dev m = false) ∧ l ∈ serviceLanes s.dev ∧
      (∃ m ∈ serviceLanes s.dev, (laneOf s.dev s.dev.firstLane).arb.suspects.testBit m.idx = true)) ∧
    (∃ (s : State) (l m : Lane), (laneOf s.dev s.dev.firstLane).arb.phase = 3 ∧ l ≠ m ∧
      (serviceLanes s.dev = Lane.all.filter (fun k => decide (k = l ∨ k = m))) ∧ failsArb s.dev l = true ∧ failsArb s.dev m = false ∧
      (∃ k ∈ serviceLanes s.dev, (laneOf s.dev s.dev.firstLane).arb.suspects.testBit k.idx = true) ∧
      (∀ k : Lane, (laneOf s.dev k).unseen = false) ∧ s.dev.mode ≠ .boot ∧ s.dev.mode ≠ .hold) ∧
    (∃ (s : State) (l m : Lane), (laneOf s.dev s.dev.firstLane).arb.phase = 3 ∧ l ≠ m ∧
      (serviceLanes s.dev = Lane.all.filter (fun k => decide (k = l ∨ k = m))) ∧ failsArb s.dev l = true ∧ failsArb s.dev m = true ∧
      (∃ k ∈ serviceLanes s.dev, (laneOf s.dev s.dev.firstLane).arb.suspects.testBit k.idx = true)) :=
  ⟨⟨stOf ({ up [(SYS_MODE_MODE, 0, 3), (LN_STATUS_STATE, 0, 5), (LN_STATUS_STATE, 2, 5)] with tb := { ticking := true }, lanes := ⟨{ arb := { held := 4 } }, {}, {}⟩ }),
     .a, .c, by decide +kernel⟩,
   ⟨stOf ({ up [(SYS_MODE_MODE, 0, 3), (LN_STATUS_STATE, 0, 5), (LN_STATUS_STATE, 2, 5)] with tb := { ticking := true }, lanes := ⟨{ arb := { phase := 2 }, frames := ⟨none, none, some { frameRec 12 0 with arbState := 2 }⟩ }, {}, {}⟩ }),
     .a, .c, by decide +kernel⟩,
   ⟨stOf ({ up [(BLF_FRAME_NO_NO, 0, 2), (LN_STATUS_STATE, 0, 5), (LN_STATUS_STATE, 1, 5)] with tb := { ticking := true }, lanes := ⟨{ arb := { phase := 3, suspects := 2, pass := 7, given := 7 }, frames := ⟨some { frameRec 10 0 with arbState := 3, arbVerdict := 0x7F }, some { frameRec 11 0 with arbState := 3, arbVerdict := 0x7F }, none⟩ }, { arb := { phase := 3, suspects := 2, pass := 7, given := 7 }, frames := ⟨some { frameRec 10 0 with arbState := 3, arbVerdict := 0x7F }, some { frameRec 11 0 with arbState := 3, arbVerdict := 0x7F }, none⟩ }, {}⟩ }),
     .b, by decide +kernel⟩,
   ⟨stOf ({ up [(SYS_MODE_MODE, 0, 3), (BLF_FRAME_NO_NO, 0, 2), (LN_STATUS_STATE, 0, 5), (LN_STATUS_STATE, 2, 5)] with tb := { ticking := true }, lanes := ⟨{ gates := 5, safeOk := true, arb := { phase := 3, suspects := 5, pass := 7, given := 7 }, frames := ⟨some { frameRec 10 0 with arbState := 3, arbVerdict := 0x7F }, none, some { frameRec 12 0 with arbState := 3, arbVerdict := 0x76 }⟩ }, {}, { gates := 5, safeOk := true, arb := { phase := 3, suspects := 5, pass := 6, given := 7 }, frames := ⟨some { frameRec 10 0 with arbState := 3, arbVerdict := 0x7F }, none, some { frameRec 12 0 with arbState := 3, arbVerdict := 0x76 }⟩ }⟩ }),
     .a, .c,
     ⟨by decide +kernel, by decide +kernel, by decide +kernel, by decide +kernel, ⟨by decide +kernel, by decide +kernel, fun k => by cases k <;> decide +kernel, by decide +kernel⟩⟩⟩,
   ⟨stOf ({ up [(SYS_MODE_MODE, 0, 3), (LN_STATUS_STATE, 0, 5), (LN_STATUS_STATE, 2, 5)] with tb := { ticking := true }, lanes := ⟨{ gates := 5, safeOk := true, arb := { phase := 3, suspects := 5, pass := 0, given := 7 } }, {}, { gates := 5, safeOk := true, arb := { phase := 3, suspects := 5, pass := 0, given := 7 } }⟩ }),
     .a, .c, by decide +kernel⟩⟩

theorem witness_DegradedTimerAndLosses :
    (∃ (s : State) (l : Lane), (laneOf s.dev s.dev.firstLane).saf.degLeft = some 0 ∧ (laneOf s.dev s.dev.firstLane).saf.degExpired = false ∧
      s.dev.rd PWR_STATUS_SHARED_UP ≠ 0 ∧ inService s.dev l = true) ∧
    (∃ (s : State), (laneOf s.dev s.dev.firstLane).saf.degLeft ≠ some 0) ∧
    (∃ (s : State), (laneOf s.dev s.dev.firstLane).saf.degLeft.isSome = true ∧ (laneOf s.dev s.dev.firstLane).saf.degExpired = false ∧
      healthy s.dev = true) ∧
    (∃ (s : State), healthy s.dev = false) ∧
    (∃ (s : State) (l : Lane), evaluates s.dev l = true ∧ (laneOf s.dev l).saf.tight = true ∧
      rampFrames s.dev (laneOf s.dev l).image.params ≤ (laneOf s.dev l).saf.tightFr + 1) ∧
    (∃ (s : State) (miss : PerLane Bool) (l : Lane), inService s.dev l = true ∧ miss.get l = true ∧ (∀ k : Lane, k ≠ l → miss.get k = false) ∧
      (∃ k : Lane, k ≠ l ∧ laneMode s.dev k = .inService)) ∧
    (∃ (s : State), (∃ k : Lane, laneMode s.dev k ≠ .absent ∧ laneMode s.dev k ≠ .boot)) ∧
    (∃ (s : State) (l : Lane) (n : Nat), s.dev.tb.ticking = true ∧ s.dev.rd ENT_START_STATE l.idx ≠ 2 ∧ (ringOf s.dev l).inFlight = some n ∧
      (ringOf s.dev l).back0 = none ∧ (ringOf s.dev l).back1 = none ∧ 1 ≤ (ringOf s.dev l).noReturn ∧ inService s.dev l = true) ∧
    (∃ (s : State) (l : Lane) (n a b : Nat), s.dev.tb.ticking = true ∧ s.dev.rd ENT_START_STATE l.idx ≠ 2 ∧
      (ringOf s.dev l).inFlight = some n ∧ (ringOf s.dev l).back0 = some a ∧ (ringOf s.dev l).back1 = some b ∧
      (ringOf s.dev l).turned = false ∧ (ringOf s.dev l).wholeHop = true ∧ (ringOf s.dev l).untouched = 2 ∧ (ringOf s.dev l).closedRun < 15) ∧
    (∃ (s : State), s.dev.tb.ticking = false) ∧
    (∃ (s : State) (miss : PerLane Bool) (l : Lane), (laneMode s.dev l = .shadow ∨ laneMode s.dev l = .resync ∨ laneMode s.dev l = .reload) ∧
      miss.get l = true ∧ (∃ k : Lane, miss.get k = false ∧ laneMode s.dev k ≠ .absent ∧ laneMode s.dev k ≠ .boot)) :=
  ⟨⟨stOf (lanesABC [(SYS_MODE_MODE, 0, 4)] { saf := { degLeft := some 0 } }), .c, by decide +kernel⟩,
   ⟨stOf (lanesABC [(SYS_MODE_MODE, 0, 4)] { saf := { degLeft := some 1 } }), by decide +kernel⟩,
   ⟨stOf ({ lanesABC [(SYS_MODE_MODE, 0, 4), (SAF_DEG_STATUS_ACTIVE, 0, 1)] { saf := { degLeft := some 1 } } with fault := { counted := [(1, 2)], healthyFr := 9600000 } }),
     by decide +kernel⟩,
   ⟨stOf (lanesABC [(SYS_MODE_MODE, 0, 4)] { saf := { degLeft := some 1 } }), by decide +kernel⟩,
   ⟨stOf (lanesABC [(SYS_MODE_MODE, 0, 4)] { saf := { degLeft := some 1, tight := true, tightFr := 7999 } }), .c, by decide +kernel⟩,
   ⟨stOf (lanesABC [(SYS_MODE_MODE, 0, 3)] { gates := 5, safeOk := true }), ⟨false, true, false⟩, .b,
     ⟨by decide +kernel, by decide +kernel, fun k => by cases k <;> decide +kernel, .a, by decide +kernel⟩⟩,
   ⟨stOf (lanesABC [(SYS_MODE_MODE, 0, 3)] { gates := 5, safeOk := true }), ⟨.a, by decide +kernel⟩⟩,
   ⟨stOf ({ lanesABC [(SYS_MODE_MODE, 0, 3)] { gates := 5, safeOk := true } with rings := ⟨{}, { inFlight := some 8, noReturn := 1 }, {}⟩ }),
     .b, 8, by decide +kernel⟩,
   ⟨stOf ({ lanesABC [(SYS_MODE_MODE, 0, 3)] {} with rings := ⟨{}, { inFlight := some 8, back0 := some 100, back1 := some 200, untouched := 2, closedRun := 14, noReturn := 1 }, {}⟩ }),
     .b, 8, 100, 200, by decide +kernel⟩,
   ⟨stOf (up []), by decide +kernel⟩,
   ⟨stOf ({ up [(SYS_MODE_MODE, 0, 3), (LN_STATUS_STATE, 0, 5), (LN_STATUS_STATE, 1, 5), (LN_STATUS_STATE, 2, 6)] with tb := { ticking := true } }),
     ⟨true, false, true⟩, .c, ⟨by decide +kernel, by decide +kernel, .b, by decide +kernel⟩⟩⟩

theorem witness_SafetyInputSteps :
    (∃ (s : State) (l : Lane), exchanges s.dev l = true ∧ s.dev.tb.ticking = true) ∧
    (∃ (s : State) (l : Lane), exchanges s.dev l = false) ∧
    (∃ (s : State) (l : Lane), evaluates s.dev l = true) ∧
    (∃ (s : State) (i : Fin 32), evaluates s.dev s.dev.firstLane = true ∧ discReached s.dev s.dev.firstLane i = true ∧
      s.dev.rd PWR_STATUS_SHARED_UP ≠ 0) ∧
    (∃ (s : State) (i : Fin 32), evaluates s.dev s.dev.firstLane = true ∧ discReached s.dev s.dev.firstLane i = true ∧
      s.dev.rd PWR_STATUS_SHARED_UP ≠ 0) ∧
    (∃ (s : State) (i : Fin 32) (l : Lane) (u n : Nat), evaluates s.dev l = true ∧ u < 32 ∧ (pairOf (laneOf s.dev l).saf i).ackBack = some n ∧
      ((inputCfg (inHold s.dev) (laneOf s.dev l).image.params i).func = 3) ∧ msReached s.dev n (laneOf s.dev l).image.params.ackMinMs = true ∧
      n * s.dev.frameNs ≤ (laneOf s.dev l).image.params.ackMaxMs * 1000000 ∧
      (inputCfg (inHold s.dev) (laneOf s.dev l).image.params i).mask.testBit u = true ∧
      canAck (refreshDemands s.dev l u (unitDyn (laneOf s.dev l).saf u)) = true) :=
  ⟨⟨stOf ({ lanesABC [(SYS_MODE_MODE, 0, 3), (BLF_FRAME_NO_NO, 0, 9)] { frames := ⟨some { frameRec 10 9 with ch1 := 1 }, some { frameRec 11 9 with ch1 := 3 }, some { frameRec 12 9 with ch1 := 1 }⟩ } with free := 0 }),
     .b, by decide +kernel⟩,
   ⟨stOf (up [(LN_STATUS_STATE, 1, 1)]), .b, by decide +kernel⟩,
   ⟨stOf (lanesABC [(SYS_MODE_MODE, 0, 3)] { saf := { inputs := [(23, { n1 := 17, n2 := 16 })] } }), .b, by decide +kernel⟩,
   ⟨stOf (lanesABC [(SYS_MODE_MODE, 0, 3)] { saf := { nodePairs := [(7, { mixed := some 320 })] } }), 31, by decide +kernel⟩,
   ⟨stOf (lanesABC [(SYS_MODE_MODE, 0, 3)] { saf := { inputs := [(23, { mixed := some 320 })] } }), 23, by decide +kernel⟩,
   ⟨stOf (lanesABC [(SYS_MODE_MODE, 0, 3)] { image := { params := { inputs := [(2, { func := 3, mask := 2 })] } }, saf := { inputs := [(2, { ackBack := some 32000 })], units := [(1, { demands := [{ cause := 1, kind := 5, active := false }] })] } }),
     2, .b, 1, 32000, by decide +kernel⟩⟩

theorem witness_StopFunctionsEndInSto :
    (∃ (s : State) (u : Fin 16) (l : Lane), evaluates s.dev l = true ∧ ((unitDyn (laneOf s.dev l).saf u).func = 4) ∧
      (laneOf s.dev l).image.params.nStill ≤ (unitDyn (laneOf s.dev l).saf u).stillFr ∧
      rampBroken s.dev.frameNs (laneOf s.dev l).image.params (laneOf s.dev l).saf u (unitDyn (laneOf s.dev l).saf u) = false ∧
      (unitDyn (laneOf s.dev l).saf u).stoWait = false) ∧
    (∃ (s : State) (u : Fin 16) (l : Lane), evaluates s.dev l = true ∧ ((unitDyn (laneOf s.dev l).saf u).func = 4) ∧
      (laneOf s.dev l).image.params.nStill ≤ (unitDyn (laneOf s.dev l).saf u).stillFr ∧
      rampBroken s.dev.frameNs (laneOf s.dev l).image.params (laneOf s.dev l).saf u (unitDyn (laneOf s.dev l).saf u) = false ∧
      (unitDyn (laneOf s.dev l).saf u).stoWait = false) ∧
    (∃ (s : State) (u : Fin 16) (l : Lane), evaluates s.dev l = true ∧ ((unitDyn (laneOf s.dev l).saf u).func = 3) ∧
      (laneOf s.dev l).image.params.nStill ≤ (unitDyn (laneOf s.dev l).saf u).stillFr ∧
      rampBroken s.dev.frameNs (laneOf s.dev l).image.params (laneOf s.dev l).saf u (unitDyn (laneOf s.dev l).saf u) = false) ∧
    (∃ (s : State) (u : Fin 16) (l : Lane), evaluates s.dev l = true ∧ ((unitDyn (laneOf s.dev l).saf u).func = 3) ∧
      msReached s.dev (unitDyn (laneOf s.dev l).saf u).stopFr (armCfg (laneOf s.dev l).image.params u).stopTmaxMs = true) ∧
    (∃ (s : State) (u : Fin 16) (l : Lane), evaluates s.dev l = true ∧ (unitDyn (laneOf s.dev l).saf u).stoWait = true ∧
      msReached s.dev (unitDyn (laneOf s.dev l).saf u).sosFr (armCfg (laneOf s.dev l).image.params u).stoDelayMs = true) ∧
    (∃ (s : State) (k : Fin 16) (l : Lane), evaluates s.dev l = true ∧ ((unitDyn (laneOf s.dev l).saf (16 + k)).func = 4) ∧
      msReached s.dev (unitDyn (laneOf s.dev l).saf (16 + k)).stopFr (SMap.get {} (laneOf s.dev l).image.params.locals k).ss1Ms = true) ∧
    (∃ (s : State) (u : Fin 16), evaluates s.dev s.dev.firstLane = true ∧
      (laneOf s.dev s.dev.firstLane).image.params.stoAckFr ≤ (unitDyn (laneOf s.dev s.dev.firstLane).saf u).noStoFr ∧
      (unitDyn (laneOf s.dev s.dev.firstLane).saf u).demands = [] ∧ s.dev.rd PWR_STATUS_SHARED_UP ≠ 0) ∧
    (∃ (s : State) (u : Fin 16), (∀ l : Lane, (unitDyn (laneOf s.dev l).saf u).stoWait = false)) :=
  ⟨⟨stOf (lanesABC [(SYS_MODE_MODE, 0, 3)] { saf := { units := [(15, { func := 4, stillFr := 16, torque := true, brakeRel := true })] } }),
     15, .b, by decide +kernel⟩,
   ⟨stOf (lanesABC [(SYS_MODE_MODE, 0, 3)] { image := { params := { brakes := [(3, { unit := some 15 })] } }, saf := { units := [(15, { func := 4, stillFr := 16, torque := true, brakeRel := true })] } }),
     15, .b, by decide +kernel⟩,
   ⟨stOf (lanesABC [(SYS_MODE_MODE, 0, 3)] { saf := { units := [(15, { func := 3, stillFr := 16, torque := true, brakeRel := true })] } }),
     15, .b, by decide +kernel⟩,
   ⟨stOf (lanesABC [(SYS_MODE_MODE, 0, 3)] { saf := { units := [(15, { func := 3, stopFr := 16000, torque := true, brakeRel := true })] } }),
     15, .b, by decide +kernel⟩,
   ⟨stOf (lanesABC [(SYS_MODE_MODE, 0, 3)] { saf := { units := [(15, { func := 2, sosFr := 1600, stoWait := true, torque := true })] } }),
     15, .b, by decide +kernel⟩,
   ⟨stOf (lanesABC [(SYS_MODE_MODE, 0, 3)] { saf := { units := [(31, { func := 4, stopFr := 8000, torque := true })] } }), 15, .b,
     by decide +kernel⟩,
   ⟨stOf (lanesABC [(SYS_MODE_MODE, 0, 3)] { saf := { units := [(15, { noStoFr := 8 })] } }), 15, by decide +kernel⟩,
   ⟨stOf (lanesABC [(SYS_MODE_MODE, 0, 3)] {}), 15, fun l => by cases l <;> decide +kernel⟩⟩

theorem witness_BrakeReleaseAndProofTest :
    (∃ (s : State) (u : Fin 32) (l : Lane) (n : Nat), evaluates s.dev l = true ∧ (unitDyn (laneOf s.dev l).saf u).relWait = some n ∧
      (unitDyn (laneOf s.dev l).saf u).torque = true ∧ ((unitDyn (laneOf s.dev l).saf u).func ≤ 1) ∧
      msReached s.dev n (brkRelMs (laneOf s.dev l).image.params u) = true) ∧
    (∃ (s : State) (k : Fin 16) (l : Lane), evaluates s.dev l = true ∧ testFree s.dev l = true ∧ lightDue s.dev l k = true ∧
      (∀ i, i < k.val → lightDue s.dev l i = false) ∧
      agedOf (testFrames s.dev (laneOf s.dev l).image.params / 8) (brakeDyn (laneOf s.dev l).saf k).lightAge = true) ∧
    (∃ (s : State) (k : Fin 16) (l : Lane), evaluates s.dev l = true ∧ testFree s.dev l = true ∧ darkDue s.dev l k = true ∧
      (∀ i, i < k.val → darkDue s.dev l i = false)) ∧
    (∃ (s : State) (k : Fin 16) (l z : Lane) (t : ProofTest) (rest : List Lane), evaluates s.dev l = true ∧
      (brakeDyn (laneOf s.dev l).saf k).test = some t ∧ t.lane = none ∧ t.left = z :: rest ∧ (∀ m ∈ t.left, inService s.dev m = true)) ∧
    (∃ (s : State) (k : Fin 16) (l z : Lane) (t : ProofTest), evaluates s.dev l = true ∧ (brakeDyn (laneOf s.dev l).saf k).test = some t ∧
      t.lane = some z ∧ t.gap = false ∧ (laneOf s.dev l).image.params.ptPulseFr ≤ t.frames) ∧
    (∃ (s : State) (k : Fin 16), evaluates s.dev s.dev.firstLane = true ∧ darkOld s.dev s.dev.firstLane k = true ∧
      s.dev.rd PWR_STATUS_SHARED_UP ≠ 0) ∧
    (∃ (s : State) (k : Fin 16) (u : Nat) (l : Lane), (brakeCfg s.dev.cfg k).unit = some u ∧ evaluates s.dev l = true ∧
      (brakeDyn (laneOf s.dev l).saf k).cmd = true ∧
      agedOf (testFrames s.dev (laneOf s.dev l).image.params) (brakeDyn (laneOf s.dev l).saf k).lightAge = true) :=
  ⟨⟨stOf (lanesABC [(SYS_MODE_MODE, 0, 3)] { image := { params := { brakes := [(3, { unit := some 31 })] } }, saf := { units := [(31, { func := 1, relWait := some 800, torque := true, disabled := false })] } }),
     31, .b, 800, by decide +kernel⟩,
   ⟨stOf (lanesABC [(SYS_MODE_MODE, 0, 3)] { image := { params := { brakes := [(15, { unit := some 31 })] } }, saf := { brakes := [(15, { setFr := 320 })] } }),
     15, .b, by decide +kernel⟩,
   ⟨stOf (lanesABC [(SYS_MODE_MODE, 0, 3)] { image := { params := { brakes := [(15, { unit := some 31 })] } }, saf := { brakes := [(15, { cmd := true })] } }),
     15, .b, by decide +kernel⟩,
   ⟨stOf (lanesABC [(SYS_MODE_MODE, 0, 3)] { saf := { brakes := [(15, { test := some { dark := true, left := [.b, .c] } })] } }), 15, .b,
     .b, { dark := true, left := [.b, .c] }, [.c], by decide +kernel⟩,
   ⟨stOf (lanesABC [(SYS_MODE_MODE, 0, 3)] { saf := { brakes := [(15, { test := some { dark := true, left := [.c], lane := some .b, frames := 8 } })] } }),
     15, .b, .b, { dark := true, left := [.c], lane := some .b, frames := 8 }, by decide +kernel⟩,
   ⟨stOf (lanesABC [(SYS_MODE_MODE, 0, 3)] { image := { params := { brakes := [(15, { unit := some 31 })] } }, saf := { brakes := [(15, { cmd := true })] } }),
     15, by decide +kernel⟩,
   ⟨stOf (lanesABC [(SYS_MODE_MODE, 0, 3)] { image := { params := { brakes := [(15, { unit := some 31 })] } }, saf := { brakes := [(15, { cmd := true })] } }),
     15, 31, .b, by decide +kernel⟩⟩

theorem witness_SeparationPasses :
    (∃ (s : State) (l : Lane), s.dev.tb.ticking = true ∧ s.dev.frameNo % 2 = 0 ∧ exchanges s.dev l = true ∧
      (monitorsRun s.dev = false ∨ s.dev.monitorFr < 2)) ∧
    (∃ (s : State) (l : Lane), s.dev.tb.ticking = true ∧ s.dev.frameNo % 2 = 0 ∧ exchanges s.dev l = true ∧
      (monitorsRun s.dev = false ∨ s.dev.monitorFr < 2)) ∧
    (∃ (s : State) (l : Lane), s.dev.tb.ticking = true ∧ s.dev.frameNo % 2 = 0 ∧ exchanges s.dev l = true ∧ monitorsRun s.dev = true ∧
      2 ≤ s.dev.monitorFr) ∧
    (∃ (s : State), s.dev.frameNo % 2 = 1) ∧
    (∃ (s : State) (l : Lane) (r : ResultRecord), s.dev.tb.ticking = true ∧ s.dev.frameNo % 2 = 0 ∧ exchanges s.dev l = true ∧
      (laneOf s.dev l).sepResult = some r) ∧
    (∃ (s : State) (l : Lane), s.dev.tb.ticking = true ∧ s.dev.frameNo % 2 = 0 ∧ exchanges s.dev l = true ∧
      (laneOf s.dev l).sepResult = none) ∧
    (∃ (s : State) (l : Lane) (r : ResultRecord), s.dev.tb.ticking = true ∧ s.dev.frameNo % 2 = 0 ∧ exchanges s.dev l = true ∧
      laneMode s.dev l ≠ .debug ∧ (laneOf s.dev l).sepResult = some r ∧ (laneOf s.dev l).sepOverruns = 1 ∧ s.dev.rd PWR_STATUS_SHARED_UP ≠ 0) :=
  ⟨⟨stOf ({ lanesABC [(SYS_MODE_MODE, 0, 1), (BLF_FRAME_NO_NO, 0, 8)] {} with free := 0 }), .b, by decide +kernel⟩,
   ⟨stOf ({ lanesABC [(SYS_MODE_MODE, 0, 3), (BLF_FRAME_NO_NO, 0, 8)] {} with monitorFr := 1 }), .b, by decide +kernel⟩,
   ⟨stOf ({ lanesABC [(SYS_MODE_MODE, 0, 3), (BLF_FRAME_NO_NO, 0, 8)] {} with monitorFr := 2 }), .b, by decide +kernel⟩,
   ⟨stOf (lanesABC [(SYS_MODE_MODE, 0, 3), (BLF_FRAME_NO_NO, 0, 9)] {}), by decide +kernel⟩,
   ⟨stOf (lanesABC [(SYS_MODE_MODE, 0, 3), (BLF_FRAME_NO_NO, 0, 8)] { sepResult := some (resultRec 11 0), sepOverruns := 1 }), .b,
     resultRec 11 0, by decide +kernel⟩,
   ⟨stOf (lanesABC [(SYS_MODE_MODE, 0, 3), (BLF_FRAME_NO_NO, 0, 8)] { sepOverruns := 1 }), .b, by decide +kernel⟩,
   ⟨stOf (lanesABC [(SYS_MODE_MODE, 0, 3), (BLF_FRAME_NO_NO, 0, 8)] { sepResult := some (resultRec 11 0), sepOverruns := 1 }), .b,
     resultRec 11 0, by decide +kernel⟩⟩

/-- A copy whose header block 0 starts with these bytes and whose end block starts with `hop`. -/
def copyOf (port : Fin 2) (endOffset : Nat) (h0 : List Byte) (hop : Byte) : ReturnedCopy :=
  { port := port, afterLaunch := 2000, endOffset := endOffset, blocks := [goodBlock h0, goodBlock [2, 1, 0, 0, 0, 0], goodBlock [hop, 0xFF, 0xFF, 0, 0, 0]] }

/-- A copy of an enumeration frame whose header block 0 starts with these bytes. -/
def enumOf (port : Fin 2) (h0 : List Byte) : ReturnedCopy :=
  { port := port, afterLaunch := 2000, endOffset := 100,
    blocks := [goodBlock h0, goodBlock [2, 1, 0, 0, 0, 0]] ++ List.replicate 96 emptyBlock ++ [endBlock] }

theorem witness_CycleLaunchAndReturn :
    (∃ (s : State) (l : Lane) (q : Nat), s.dev.tb.ticking = true ∧ s.dev.rd ENT_START_STATE l.idx = 3 ∧ q < 2 ∧ portUp s.dev l q = true) ∧
    (∃ (s : State) (l : Lane) (q : Nat), s.dev.tb.ticking = true ∧ s.dev.rd ENT_START_STATE l.idx = 1 ∧ q < 2 ∧ portUp s.dev l q = true) ∧
    (∃ (s : State) (l : Lane) (q : Nat), s.dev.tb.ticking = true ∧ s.dev.rd ENT_START_STATE l.idx = 2 ∧ q < 2 ∧ portUp s.dev l q = true) ∧
    (∃ (s : State) (l : Lane) (q : Nat), (s.dev.rd ENT_START_STATE l.idx = 0 ∨ portUp s.dev l q = false) ∧ q < 2) ∧
    (∃ (s : State) (l : Lane) (q : Nat), (s.dev.rd ENT_START_STATE l.idx = 0 ∨ portUp s.dev l q = false) ∧ q < 2) ∧
    (∃ (s : State), s.dev.tb.ticking = true) ∧
    (∃ (s : State), s.dev.tb.ticking = false) ∧
    (∃ (s : State) (l : Lane), (s.dev.rd ENT_START_STATE l.idx ≠ 3 ∨ (ringOf s.dev l).inFlight = none)) ∧
    (∃ (s : State) (l : Lane) (c : ReturnedCopy) (f : Nat), s.dev.rd ENT_START_STATE l.idx = 3 ∧ (ringOf s.dev l).inFlight = some f ∧
      copyKind s.dev f 1 (frameBlocks (ringOf s.dev l).sched) c = .late) ∧
    (∃ (s : State) (l : Lane) (c : ReturnedCopy) (f : Nat), s.dev.rd ENT_START_STATE l.idx = 3 ∧ (ringOf s.dev l).inFlight = some f ∧
      copyKind s.dev f 1 (frameBlocks (ringOf s.dev l).sched) c = .late) ∧
    (∃ (s : State) (l : Lane) (c : ReturnedCopy) (f : Nat), s.dev.rd ENT_START_STATE l.idx = 3 ∧ (ringOf s.dev l).inFlight = some f ∧
      copyKind s.dev f 1 (frameBlocks (ringOf s.dev l).sched) c = .own) ∧
    (∃ (s : State) (l : Lane) (c : ReturnedCopy) (f : Nat), s.dev.rd ENT_START_STATE l.idx = 3 ∧ (ringOf s.dev l).inFlight = some f ∧
      copyKind s.dev f 1 (frameBlocks (ringOf s.dev l).sched) c = .own) ∧
    (∃ (s : State) (l : Lane) (c : ReturnedCopy) (f : Nat), s.dev.rd ENT_START_STATE l.idx = 3 ∧ (ringOf s.dev l).inFlight = some f ∧
      copyKind s.dev f 1 (frameBlocks (ringOf s.dev l).sched) c = .foreign) ∧
    (∃ (s : State) (l : Lane) (c : ReturnedCopy) (f : Nat), s.dev.rd ENT_START_STATE l.idx = 3 ∧ (ringOf s.dev l).inFlight = some f ∧
      copyKind s.dev f 1 (frameBlocks (ringOf s.dev l).sched) c = .foreign) ∧
    (∃ (s : State) (l : Lane) (c : ReturnedCopy) (f : Nat), s.dev.rd ENT_START_STATE l.idx = 3 ∧ (ringOf s.dev l).inFlight = some f ∧
      copyKind s.dev f 1 (frameBlocks (ringOf s.dev l).sched) c = .other) ∧
    (∃ (s : State) (l : Lane) (c : ReturnedCopy) (f : Nat), s.dev.rd ENT_START_STATE l.idx = 3 ∧ (ringOf s.dev l).inFlight = some f ∧
      copyKind s.dev f 1 (frameBlocks (ringOf s.dev l).sched) c = .other) :=
  ⟨⟨stOf ({ up [(ENT_START_STATE, 1, 3), (ENT_STAT_LINK1, 1, 1), (BLF_FRAME_NO_NO, 0, 70000)] with tb := { ticking := true }, rings := ⟨{}, { sched := [{ pc := 3, w := 4 }] }, {}⟩ }),
     .b, 1, by decide +kernel⟩,
   ⟨stOf ({ up [(ENT_START_STATE, 1, 1), (ENT_STAT_LINK0, 1, 1)] with tb := { ticking := true }, rings := ⟨{}, { startLeft := 1 }, {}⟩ }),
     .b, 0, by decide +kernel⟩,
   ⟨stOf ({ up [(ENT_START_STATE, 1, 2), (ENT_STAT_LINK0, 1, 1)] with tb := { ticking := true }, rings := ⟨{}, { enumFrames := 15 }, {}⟩ }),
     .b, 0, by decide +kernel⟩,
   ⟨stOf ({ up [(ENT_START_STATE, 1, 3), (ENT_STAT_LINK1, 1, 1)] with tb := { ticking := true } }), .b, 0, by decide +kernel⟩,
   ⟨stOf ({ up [(ENT_STAT_LINK1, 1, 1)] with tb := { ticking := true } }), .b, 1, by decide +kernel⟩,
   ⟨stOf ({ up [(ENT_START_STATE, 1, 3), (ENT_STAT_LINK1, 1, 1)] with tb := { ticking := true }, rings := ⟨{}, { sched := [{ pc := 3, w := 4 }] }, {}⟩ }),
     by decide +kernel⟩,
   ⟨stOf (up []), by decide +kernel⟩,
   ⟨stOf (up [(ENT_START_STATE, 1, 3)]), .b, by decide +kernel⟩,
   ⟨stOf ({ up [(ENT_START_STATE, 1, 3)] with rings := ⟨{}, { inFlight := some 65537 }, {}⟩ }), .b, copyOf 0 100 [1, 0, 0, 0] 3, 65537,
     by decide +kernel⟩,
   ⟨stOf ({ up [(ENT_START_STATE, 1, 3), (ENT_P_CNT1_LATE, 3, 65535)] with rings := ⟨{}, { inFlight := some 65537 }, {}⟩ }), .b,
     copyOf 1 56001 [1, 0, 1, 0] 3, 65537, by decide +kernel⟩,
   ⟨stOf ({ up [(ENT_START_STATE, 1, 3)] with rings := ⟨{}, { inFlight := some 65537 }, {}⟩ }), .b, copyOf 1 56000 [1, 12, 1, 0] 3, 65537,
     by decide +kernel⟩,
   ⟨stOf ({ up [(ENT_START_STATE, 1, 3)] with rings := ⟨{}, { inFlight := some 65536 }, {}⟩ }), .b, copyOf 0 56000 [1, 0, 0, 0] 3, 65536,
     by decide +kernel⟩,
   ⟨stOf ({ up [(ENT_START_STATE, 1, 3)] with rings := ⟨{}, { inFlight := some 65537 }, {}⟩ }), .b, copyOf 0 100 [1, 0, 1, 0, 7] 3, 65537,
     by decide +kernel⟩,
   ⟨stOf ({ up [(ENT_START_STATE, 1, 3)] with rings := ⟨{}, { inFlight := some 65537 }, {}⟩ }), .b, copyOf 0 100 [1, 0, 2, 0] 3, 65537,
     by decide +kernel⟩,
   ⟨stOf ({ up [(ENT_START_STATE, 1, 3)] with rings := ⟨{}, { inFlight := some 65537 }, {}⟩ }), .b, copyOf 0 100 [6, 0, 1, 0] 3, 65537,
     by decide +kernel⟩,
   ⟨stOf ({ up [(ENT_START_STATE, 1, 3)] with rings := ⟨{}, { inFlight := some 65537, sched := [{ pc := 3, w := 4 }] }, {}⟩ }), .b,
     copyOf 0 100 [1, 0, 1, 0] 3, 65537, by decide +kernel⟩⟩

theorem witness_RingPortsAndStart :
    (∃ (s : State) (l : Lane) (q : Fin 2), portUp s.dev l q = true ∧ s.dev.rd PWR_STATUS_SHARED_UP ≠ 0) ∧
    (∃ (s : State) (l : Lane) (q : Fin 2), portUp s.dev l q = false) ∧
    (∃ (s : State) (l : Lane) (q : Fin 2), portUp s.dev l q = false ∧ s.dev.rd ENT_STAT_BYPASS_CLOSED l.idx = 0 ∧
      s.dev.rd PWR_STATUS_SHARED_UP ≠ 0) ∧
    (∃ (s : State) (l : Lane) (q : Fin 2), (portUp s.dev l q = true ∨ s.dev.rd ENT_STAT_BYPASS_CLOSED l.idx ≠ 0)) ∧
    (∃ (s : State) (l : Lane), s.dev.rd ENT_STAT_BYPASS_CLOSED l.idx ≠ 0 ∧ s.dev.rd LN_STATUS_STATE l.idx ≠ 0 ∧
      s.dev.rd PWR_STATUS_SHARED_UP ≠ 0) ∧
    (∃ (s : State) (l : Lane), (s.dev.rd ENT_STAT_BYPASS_CLOSED l.idx = 0 ∨ s.dev.rd LN_STATUS_STATE l.idx = 0)) ∧
    (∃ (s : State) (l : Lane), (ringOf s.dev l).startDue = true ∧ s.dev.rd ENT_STAT_BYPASS_CLOSED l.idx = 0 ∧ s.dev.tb.ticking = true ∧
      s.dev.periodDue = none ∧ s.dev.pwr.noMaster = false) ∧
    (∃ (s : State) (l : Lane), (ringOf s.dev l).startDue = true ∧ s.dev.rd ENT_STAT_BYPASS_CLOSED l.idx = 0 ∧ s.dev.tb.ticking = true ∧
      s.dev.periodDue = none ∧ s.dev.pwr.noMaster = false ∧ (ringOf s.dev l).schedNext = none) ∧
    (∃ (s : State) (l : Lane) (sched : List SchedEntry) (id : Nat), (ringOf s.dev l).startDue = true ∧
      s.dev.rd ENT_STAT_BYPASS_CLOSED l.idx = 0 ∧ s.dev.tb.ticking = true ∧ s.dev.periodDue = none ∧ s.dev.pwr.noMaster = false ∧
      (ringOf s.dev l).schedNext = some (sched, id)) ∧
    (∃ (s : State) (l : Lane), (ringOf s.dev l).startDue = true ∧ s.dev.rd ENT_STAT_BYPASS_CLOSED l.idx = 0 ∧ s.dev.tb.ticking = true ∧
      s.dev.periodDue = none ∧ s.dev.pwr.noMaster = false) ∧
    (∃ (s : State) (l : Lane), ((ringOf s.dev l).startDue = false ∨ s.dev.rd ENT_STAT_BYPASS_CLOSED l.idx ≠ 0 ∨ s.dev.pwr.noMaster = true)) ∧
    (∃ (s : State) (l : Lane) (m : Fin 256), s.dev.rd ENT_START_STATE l.idx ≠ 0 ∧ m.val ≠ 0) ∧
    (∃ (s : State) (l : Lane), s.dev.rd ENT_START_STATE l.idx ≠ 0) ∧
    (∃ (s : State) (l : Lane), s.dev.rd ENT_START_STATE l.idx = 0) :=
  ⟨⟨stOf (up [(ENT_STAT_LINK0, 2, 1), (ENT_P_CNT2_SYNC_LOSS, 4, 65535)]), .c, 0, by decide +kernel⟩,
   ⟨stOf (up [(ENT_STAT_LINK0, 2, 1)]), .c, 1, by decide +kernel⟩,
   ⟨stOf ({ up [(ENT_STAT_LINK0, 2, 1), (ENT_STAT_BYPASS_CLOSED, 2, 0)] with rings := ⟨{}, {}, { bothDown := true }⟩ }), .c, 1,
     by decide +kernel⟩,
   ⟨stOf (up [(ENT_STAT_LINK0, 2, 1), (ENT_STAT_BYPASS_CLOSED, 2, 1)]), .c, 1, by decide +kernel⟩,
   ⟨stOf (up [(LN_STATUS_STATE, 2, 7), (ENT_STAT_BYPASS_CLOSED, 2, 1)]), .c, by decide +kernel⟩,
   ⟨stOf (up [(ENT_STAT_BYPASS_CLOSED, 2, 1)]), .c, by decide +kernel⟩,
   ⟨stOf ({ up [(LN_STATUS_STATE, 2, 5), (ENT_STAT_BYPASS_CLOSED, 2, 0), (ENT_TRING_NS, 2, 500), (ENT_NODE_STATE, 143, 3), (ENT_NODE_CLAIMED, 143, 1)] with tb := { ticking := true }, rings := ⟨{}, {}, { startDue := true, schedNext := some ([{ pc := 3, w := 4 }], 70) }⟩, lanes := ⟨{}, {}, { saf := { units := [(3, { disabled := false })] } }⟩ }),
     .c, by decide +kernel⟩,
   ⟨stOf ({ up [(LN_STATUS_STATE, 2, 5), (ENT_STAT_BYPASS_CLOSED, 2, 0), (ENT_NODE_STATE, 143, 3), (ENT_NODE_CLAIMED, 143, 1)] with tb := { ticking := true }, rings := ⟨{}, {}, { startDue := true }⟩, lanes := ⟨{}, {}, { saf := { units := [(3, { disabled := false })] } }⟩ }),
     .c, by decide +kernel⟩,
   ⟨stOf ({ up [(LN_STATUS_STATE, 2, 5), (ENT_STAT_BYPASS_CLOSED, 2, 0)] with tb := { ticking := true }, rings := ⟨{}, {}, { startDue := true, schedNext := some ([{ pc := 3, w := 4 }], 70) }⟩ }),
     .c, [{ pc := 3, w := 4 }], 70, by decide +kernel⟩,
   ⟨stOf ({ up [(LN_STATUS_STATE, 2, 5), (ENT_STAT_BYPASS_CLOSED, 2, 0), (ENT_NODE_STATE, 143, 3), (ENT_NODE_CLAIMED, 143, 1)] with tb := { ticking := true }, rings := ⟨{}, {}, { startDue := true }⟩, lanes := ⟨{}, {}, { saf := { units := [(3, { disabled := false })] } }⟩ }),
     .c, by decide +kernel⟩,
   ⟨stOf (up []), .c, by decide +kernel⟩,
   ⟨stOf (up [(ENT_START_STATE, 2, 3)]), .c, 255, by decide +kernel⟩,
   ⟨stOf ({ up [(ENT_START_STATE, 2, 3)] with rings := ⟨{}, {}, { inFlight := some 3, startDue := true }⟩ }), .c, by decide +kernel⟩,
   ⟨stOf (up []), .c, by decide +kernel⟩⟩

theorem witness_EnumerationEnds :
    (∃ (s : State) (l : Lane), (ringOf s.dev l).unstable = true ∧ s.dev.rd ENT_START_STATE l.idx = 3) ∧
    (∃ (s : State) (l : Lane), ((ringOf s.dev l).unstable = false ∨ s.dev.rd ENT_START_STATE l.idx ≠ 3)) ∧
    (∃ (s : State) (l : Lane) (c : ReturnedCopy) (f : Nat), s.dev.rd ENT_START_STATE l.idx = 2 ∧ (ringOf s.dev l).enumSeq = some f ∧
      (let own := copyKind s.dev f 3 99 c = .own ∧ blockClass (c.blocks.getD 1 emptyBlock) = .good; own) ∧
      (let h0 := (c.blocks.getD 0 emptyBlock).data; let h1 := (c.blocks.getD 1 emptyBlock).data; let dir := (h0.getD 1 0).toNat.testBit 2; let count := (if dir then h1.getD 1 0 else h1.getD 0 0).toNat; let got := (count, (h0.getD 1 0).toNat.testBit 3, copyNodes c.blocks dir count); let d1 := onRing (countBlocks s.dev l c.port c.blocks) l fun r => if dir then { r with enumNow1 := some got } else { r with enumNow0 := some got }; let back := bitOf (ringOf d1 l).enumNow0.isSome + bitOf (ringOf d1 l).enumNow1.isSome; let sent := bitOf (portUp s.dev l 0) + bitOf (portUp s.dev l 1); back < sent)) ∧
    (∃ (s : State) (l : Lane) (c : ReturnedCopy) (f : Nat), s.dev.rd ENT_START_STATE l.idx = 2 ∧ (ringOf s.dev l).enumSeq = some f ∧
      (let own := copyKind s.dev f 3 99 c = .own ∧ blockClass (c.blocks.getD 1 emptyBlock) = .good; own) ∧
      (let h0 := (c.blocks.getD 0 emptyBlock).data; let h1 := (c.blocks.getD 1 emptyBlock).data; let dir := (h0.getD 1 0).toNat.testBit 2; let count := (if dir then h1.getD 1 0 else h1.getD 0 0).toNat; let got := (count, (h0.getD 1 0).toNat.testBit 3, copyNodes c.blocks dir count); let d1 := onRing (countBlocks s.dev l c.port c.blocks) l fun r => if dir then { r with enumNow1 := some got } else { r with enumNow0 := some got }; let back := bitOf (ringOf d1 l).enumNow0.isSome + bitOf (ringOf d1 l).enumNow1.isSome; let sent := bitOf (portUp s.dev l 0) + bitOf (portUp s.dev l 1); sent ≤ back) ∧
      (let h0 := (c.blocks.getD 0 emptyBlock).data; let h1 := (c.blocks.getD 1 emptyBlock).data; let dir := (h0.getD 1 0).toNat.testBit 2; let count := (if dir then h1.getD 1 0 else h1.getD 0 0).toNat; let got := (count, (h0.getD 1 0).toNat.testBit 3, copyNodes c.blocks dir count); let d1 := onRing (countBlocks s.dev l c.port c.blocks) l fun r => if dir then { r with enumNow1 := some got } else { r with enumNow0 := some got }; (ringOf s.dev l).enumLast = some (enumResult d1 l)) ∧
      s.dev.rd PWR_STATUS_SHARED_UP ≠ 0) ∧
    (∃ (s : State) (l : Lane) (c : ReturnedCopy) (f : Nat), s.dev.rd ENT_START_STATE l.idx = 2 ∧ (ringOf s.dev l).enumSeq = some f ∧
      (let own := copyKind s.dev f 3 99 c = .own ∧ blockClass (c.blocks.getD 1 emptyBlock) = .good; own) ∧
      (let h0 := (c.blocks.getD 0 emptyBlock).data; let h1 := (c.blocks.getD 1 emptyBlock).data; let dir := (h0.getD 1 0).toNat.testBit 2; let count := (if dir then h1.getD 1 0 else h1.getD 0 0).toNat; let got := (count, (h0.getD 1 0).toNat.testBit 3, copyNodes c.blocks dir count); let d1 := onRing (countBlocks s.dev l c.port c.blocks) l fun r => if dir then { r with enumNow1 := some got } else { r with enumNow0 := some got }; let back := bitOf (ringOf d1 l).enumNow0.isSome + bitOf (ringOf d1 l).enumNow1.isSome; let sent := bitOf (portUp s.dev l 0) + bitOf (portUp s.dev l 1); sent ≤ back) ∧
      (let h0 := (c.blocks.getD 0 emptyBlock).data; let h1 := (c.blocks.getD 1 emptyBlock).data; let dir := (h0.getD 1 0).toNat.testBit 2; let count := (if dir then h1.getD 1 0 else h1.getD 0 0).toNat; let got := (count, (h0.getD 1 0).toNat.testBit 3, copyNodes c.blocks dir count); let d1 := onRing (countBlocks s.dev l c.port c.blocks) l fun r => if dir then { r with enumNow1 := some got } else { r with enumNow0 := some got }; (ringOf s.dev l).enumLast ≠ some (enumResult d1 l)) ∧
      16 ≤ (ringOf s.dev l).enumFrames ∧ s.dev.rd PWR_STATUS_SHARED_UP ≠ 0) ∧
    (∃ (s : State) (l : Lane) (c : ReturnedCopy) (f : Nat), s.dev.rd ENT_START_STATE l.idx = 2 ∧ (ringOf s.dev l).enumSeq = some f ∧
      (let own := copyKind s.dev f 3 99 c = .own ∧ blockClass (c.blocks.getD 1 emptyBlock) = .good; own) ∧
      (let h0 := (c.blocks.getD 0 emptyBlock).data; let h1 := (c.blocks.getD 1 emptyBlock).data; let dir := (h0.getD 1 0).toNat.testBit 2; let count := (if dir then h1.getD 1 0 else h1.getD 0 0).toNat; let got := (count, (h0.getD 1 0).toNat.testBit 3, copyNodes c.blocks dir count); let d1 := onRing (countBlocks s.dev l c.port c.blocks) l fun r => if dir then { r with enumNow1 := some got } else { r with enumNow0 := some got }; let back := bitOf (ringOf d1 l).enumNow0.isSome + bitOf (ringOf d1 l).enumNow1.isSome; let sent := bitOf (portUp s.dev l 0) + bitOf (portUp s.dev l 1); sent ≤ back) ∧
      (let h0 := (c.blocks.getD 0 emptyBlock).data; let h1 := (c.blocks.getD 1 emptyBlock).data; let dir := (h0.getD 1 0).toNat.testBit 2; let count := (if dir then h1.getD 1 0 else h1.getD 0 0).toNat; let got := (count, (h0.getD 1 0).toNat.testBit 3, copyNodes c.blocks dir count); let d1 := onRing (countBlocks s.dev l c.port c.blocks) l fun r => if dir then { r with enumNow1 := some got } else { r with enumNow0 := some got }; (ringOf s.dev l).enumLast ≠ some (enumResult d1 l)) ∧
      (ringOf s.dev l).enumFrames < 16) ∧
    (∃ (s : State) (l : Lane) (c : ReturnedCopy) (f : Nat), s.dev.rd ENT_START_STATE l.idx = 2 ∧ (ringOf s.dev l).enumSeq = some f ∧
      copyKind s.dev f 3 99 c = .late) ∧
    (∃ (s : State) (l : Lane) (c : ReturnedCopy) (f : Nat), s.dev.rd ENT_START_STATE l.idx = 2 ∧ (ringOf s.dev l).enumSeq = some f ∧
      copyKind s.dev f 3 99 c = .other) ∧
    (∃ (s : State) (l : Lane), (s.dev.rd ENT_START_STATE l.idx ≠ 2 ∨ (ringOf s.dev l).enumSeq = none)) :=
  ⟨⟨stOf ({ up [(ENT_START_STATE, 2, 3)] with rings := ⟨{}, {}, { unstable := true, enumFrames := 16, inFlight := some 3 }⟩ }), .c,
     by decide +kernel⟩,
   ⟨stOf (up [(ENT_START_STATE, 2, 3)]), .c, by decide +kernel⟩,
   ⟨stOf ({ up [(ENT_START_STATE, 2, 2), (ENT_STAT_LINK0, 2, 1), (ENT_STAT_LINK1, 2, 1)] with rings := ⟨{}, {}, { enumFrames := 1, enumSeq := some 7 }⟩ }),
     .c, enumOf 0 [3, 0, 7, 0], 7, by decide +kernel⟩,
   ⟨stOf ({ up [(ENT_START_STATE, 2, 2), (ENT_STAT_LINK0, 2, 1)] with rings := ⟨{}, {}, { enumFrames := 2, enumLast := some (2, []), enumSeq := some 7 }⟩ }),
     .c, enumOf 0 [3, 0, 7, 0], 7, by decide +kernel⟩,
   ⟨stOf ({ up [(ENT_START_STATE, 2, 2), (ENT_STAT_LINK0, 2, 1)] with rings := ⟨{}, {}, { enumFrames := 16, enumLast := some (1, []), enumSeq := some 7 }⟩ }),
     .c, enumOf 0 [3, 0, 7, 0], 7, by decide +kernel⟩,
   ⟨stOf ({ up [(ENT_START_STATE, 2, 2), (ENT_STAT_LINK1, 2, 1)] with rings := ⟨{}, {}, { enumFrames := 15, enumSeq := some 7 }⟩ }), .c,
     enumOf 0 [3, 4, 7, 0], 7, by decide +kernel⟩,
   ⟨stOf ({ up [(ENT_START_STATE, 2, 2), (ENT_STAT_LINK1, 2, 1)] with rings := ⟨{}, {}, { enumFrames := 15, enumSeq := some 7 }⟩ }), .c,
     enumOf 0 [3, 4, 6, 0], 7, by decide +kernel⟩,
   ⟨stOf ({ up [(ENT_START_STATE, 2, 2), (ENT_STAT_LINK1, 2, 1)] with rings := ⟨{}, {}, { enumFrames := 15, enumSeq := some 7 }⟩ }), .c,
     copyOf 0 100 [3, 4, 7, 0] 3, 7, by decide +kernel⟩,
   ⟨stOf (up [(ENT_START_STATE, 2, 3)]), .c, by decide +kernel⟩⟩

theorem witness_TriggerWritesByModeAndBusy :
    (∃ (s : State) (m : Master) (c : Instr) (addr : Nat) (busy : Option (RegField × Nat)), TriggerWrite m c addr busy ∧ s.dev.ignores m) ∧
    (∃ (s : State) (m : Master) (c : Instr) (addr : Nat) (busy : Option (RegField × Nat)), TriggerWrite m c addr busy ∧
      s.dev.refusesInHold m addr) ∧
    (∃ (s : State) (m : Master) (c : Instr) (addr : Nat) (busy : Option (RegField × Nat)), TriggerWrite m c addr busy ∧ s.dev.served m addr ∧
      s.dev.rd PWR_STATUS_BUSY ≠ 0) ∧
    (∃ (s : State) (m : Master) (c : Instr) (addr : Nat) (busy : Option (RegField × Nat)), TriggerWrite m c addr busy ∧ s.dev.served m addr ∧
      s.dev.rd STP_STAT_BUSY 15 ≠ 0) ∧
    (∃ (s : State) (m : Master), s.dev.served m 0x20) ∧
    (∃ (s : State) (m : Master), s.dev.served m 0x20) :=
  ⟨⟨stOf (dev []), .hostBar0, .acquireGo .hostBar0, 0x1038, some (BLF_STATUS_BUSY, 0), ⟨.acquire, .inl (by decide +kernel)⟩⟩,
   ⟨stOf (up [(SYS_MODE_MODE, 0, 1)]), .hostBar0, .acquireGo .hostBar0, 0x1038, some (BLF_STATUS_BUSY, 0),
     ⟨.acquire, by decide +kernel, by decide +kernel, by simp, by decide +kernel⟩⟩,
   ⟨stOf (up [(SYS_MODE_MODE, 0, 3), (PWR_STATUS_BUSY, 0, 1)]), .hostBar0, .clrLog .hostBar0, 0xC038, some (PWR_STATUS_BUSY, 0),
     ⟨.clrLog, served_of (by decide +kernel), by decide +kernel⟩⟩,
   ⟨stOf (up [(SYS_MODE_MODE, 0, 3), (STP_STAT_BUSY, 15, 1)]), .hostBar0, .pairFirstWordWrite .hostBar0 143 5, pairAddr 143, pairBusy 143,
     ⟨.pairFirst 143 5, served_of (by decide +kernel), by decide +kernel⟩⟩,
   ⟨stOf ({ up [(SYS_MODE_MODE, 0, 3)] with sys := { gen := 3, pending := [⟨BLF_SLEW_MAX_PPM, 0, 60⟩] } }), .hostBar0,
     served_of (by decide +kernel)⟩,
   ⟨stOf ({ up [(SYS_MODE_MODE, 0, 3)] with sys := { gen := 3, pending := [⟨BLF_SLEW_MAX_PPM, 0, 60⟩] } }), .hostBar0,
     served_of (by decide +kernel)⟩⟩

theorem witness_CommittedSets :
    (∃ (s : State) (m : Master), s.dev.served m 0x20) ∧
    (∃ (s : State) (m : Master), s.dev.served m 0x20) ∧
    (∃ (s : State), s.dev.sys.requested = []) ∧
    (∃ (s : State) (g : Nat) (xs : List RegCell) (rest : List (Nat × List RegCell)), s.dev.sys.requested = (g, xs) :: rest ∧
      (∃ p ∈ s.dev.sys.posted, p.gen ≤ g ∧ carriesCommitted p = true)) ∧
    (∃ (s : State) (g : Nat) (xs : List RegCell) (rest : List (Nat × List RegCell)), s.dev.sys.requested = (g, xs) :: rest ∧
      (∀ p ∈ s.dev.sys.posted, p.gen ≤ g → carriesCommitted p = false) ∧ s.dev.offset < (s.dev.frameNs : Int) - 2000) ∧
    (∃ (s : State) (g : Nat) (xs : List RegCell) (rest : List (Nat × List RegCell)), s.dev.sys.requested = (g, xs) :: rest ∧
      (∀ p ∈ s.dev.sys.posted, p.gen ≤ g → carriesCommitted p = false) ∧ (s.dev.frameNs : Int) - 2000 ≤ s.dev.offset) ∧
    (∃ (s : State), (∀ a ∈ s.dev.sys.armed, setDue s.dev a = false)) ∧
    (∃ (s : State), (∃ a ∈ s.dev.sys.armed, setDue s.dev a = true)) ∧
    (∃ (s : State), (∃ a ∈ s.dev.sys.armed, setDue s.dev a = true)) ∧
    (∃ (s : State) (m : Master) (addr b : Nat), addr % 4 = 0 ∧ s.dev.served m addr ∧ wordFields addr ≠ [] ∧
      (privileged addr = true → privilegedMaster m = true) ∧ busyOf addr = some b ∧ s.dev.rd (busyBit b).1 (busyBit b).2 ≠ 0) :=
  ⟨⟨stOf ({ up [(SYS_MODE_MODE, 0, 3)] with sys := { gen := 3, pending := [⟨BLF_SLEW_MAX_PPM, 0, 60⟩] } }), .hostBar0,
     served_of (by decide +kernel)⟩,
   ⟨stOf ({ up [(SYS_MODE_MODE, 0, 3)] with sys := { gen := 3, pending := [⟨BLF_SLEW_MAX_PPM, 0, 60⟩], armed := [⟨4, [⟨BLF_SLEW_MAX_PPM, 0, 70⟩]⟩] } }),
     .hostBar0, served_of (by decide +kernel)⟩,
   ⟨stOf (up []), by decide +kernel⟩,
   ⟨stOf ({ up [] with sys := { requested := [(2, [⟨BLF_SLEW_MAX_PPM, 0, 60⟩])], posted := [⟨0, .hostBar0, [⟨0x1020, 0xFFFFFFFF, 70⟩], 2⟩] } }),
     2, [⟨BLF_SLEW_MAX_PPM, 0, 60⟩], [], by decide +kernel⟩,
   ⟨stOf ({ up [(BLF_FRAME_NO_NO, 0, 0xFFFFFFFF)] with sys := { requested := [(2, [⟨BLF_SLEW_MAX_PPM, 0, 60⟩])], posted := [⟨0, .hostBar0, [⟨0x1018, 0xFFFFFFFF, 70⟩], 2⟩] }, tb := { ticking := true, ext := 60499 } }),
     2, [⟨BLF_SLEW_MAX_PPM, 0, 60⟩], [], by decide +kernel⟩,
   ⟨stOf ({ up [(BLF_FRAME_NO_NO, 0, 0xFFFFFFFF)] with sys := { requested := [(2, [⟨BLF_SLEW_MAX_PPM, 0, 60⟩])] }, tb := { ticking := true, ext := 60500 } }),
     2, [⟨BLF_SLEW_MAX_PPM, 0, 60⟩], [], by decide +kernel⟩,
   ⟨stOf ({ up [(BLF_FRAME_NO_NO, 0, 7)] with sys := { armed := [⟨8, [⟨BLF_SLEW_MAX_PPM, 0, 60⟩]⟩] } }), by decide +kernel⟩,
   ⟨stOf ({ up [(BLF_FRAME_NO_NO, 0, 8)] with sys := { armed := [⟨8, [⟨BLF_SLEW_MAX_PPM, 0, 600⟩, ⟨BLF_LATCH_OFFSET, 0, 5000⟩, ⟨SMY_BUDGET_CLK, 1, 77⟩]⟩, ⟨9, []⟩] } }),
     by decide +kernel⟩,
   ⟨stOf ({ up [(BLF_FRAME_NO_NO, 0, 8)] with sys := { armed := [⟨8, [⟨BLF_JUMP_THR_THR_NS, 0, 5⟩, ⟨BLF_LATCH_OFFSET, 0, 5001⟩]⟩, ⟨7, [⟨BLF_JUMP_THR_THR_NS, 0, 300⟩]⟩] } }),
     by decide +kernel⟩,
   ⟨stOf (up [(SYS_MODE_MODE, 0, 3), (BLF_STATUS_BUSY, 0, 1)]), .hostBar0, 0x1020, 0,
     ⟨by decide +kernel, served_of (by decide +kernel), by decide +kernel⟩⟩⟩

theorem witness_PairsAreCheckedWhole :
    (∃ (s : State) (m : Master) (p : Fin 144), s.dev.served m (pairAddr p) ∧ (∀ q, pairBusy p = some q → s.dev.rd q.1 q.2 = 0) ∧
      blockRuns s.dev (pairFields p).1 (pairFields p).2.2 = false) ∧
    (∃ (s : State) (m : Master) (p : Fin 144) (v : Word32), s.dev.served m (pairAddr p + 4) ∧
      (∀ q, pairBusy p = some q → s.dev.rd q.1 q.2 = 0) ∧ blockRuns s.dev (pairFields p).2.1 (pairFields p).2.2 = false ∧
      (let lo := (pairFields p).1; let i := (pairFields p).2.2; let first := (SMap.get none s.dev.sys.held p).getD (s.dev.rd lo i); signedOf 32 first ≤ v.toInt)) ∧
    (∃ (s : State) (m : Master) (p : Fin 144) (v : Word32), s.dev.served m (pairAddr p + 4) ∧
      (∀ q, pairBusy p = some q → s.dev.rd q.1 q.2 = 0) ∧ blockRuns s.dev (pairFields p).2.1 (pairFields p).2.2 = false ∧
      (let lo := (pairFields p).1; let i := (pairFields p).2.2; let first := (SMap.get none s.dev.sys.held p).getD (s.dev.rd lo i); v.toInt < signedOf 32 first)) ∧
    (∃ (s : State) (m : Master) (p : Fin 144) (v : Word32), s.dev.served m (pairAddr p) ∧ (∀ q, pairBusy p = some q → s.dev.rd q.1 q.2 = 0) ∧
      blockRuns s.dev (pairFields p).1 (pairFields p).2.2 = true ∧ v.toNat ≠ s.dev.rd (pairFields p).1 (pairFields p).2.2) :=
  ⟨⟨stOf (up [(SYS_MODE_MODE, 0, 3)]), .hostBar0, 143,
     ⟨served_of (by decide +kernel), by intro q h; cases h; decide +kernel, by decide +kernel⟩⟩,
   ⟨stOf ({ up [(SYS_MODE_MODE, 0, 3)] with sys := { held := [(127, some 0xFFFFFFFE)] } }), .hostBar0, 127, 0xFFFFFFFE,
     ⟨served_of (by decide +kernel), by intro q h; cases h; decide +kernel, by decide +kernel⟩⟩,
   ⟨stOf ({ up [(SYS_MODE_MODE, 0, 3)] with sys := { held := [(128, some 0xFFFFFFFE)] } }), .hostBar0, 128, 0xFFFFFFFD,
     ⟨served_of (by decide +kernel), by intro q h; cases h; decide +kernel, by decide +kernel⟩⟩,
   ⟨stOf ({ up [(SYS_MODE_MODE, 0, 3), (PLN_ARM_STAT_STATE, 31, 1)] with pln := { arms := [(31, { run := some { cmd := { sq := 0, rsn := 0, opcode := 0x13, body := [], pct := 100, limset := 0, order := 0 }, start := 0, zero := 0 } })] } }),
     .hostBar0, 143, 1, ⟨served_of (by decide +kernel), by intro q h; cases h; decide +kernel, by decide +kernel⟩⟩⟩

theorem witness_LockClosesItsFields :
    (∃ (s : State) (m : Master), s.dev.served m 0x2C) ∧
    (∃ (s : State) (m : Master), s.dev.served m 0x2C ∧ s.dev.rd SYS_LOCK_LOCK = 0) ∧
    (∃ (s : State) (m : Master), s.dev.served m 0x2C ∧ s.dev.rd SYS_LOCK_LOCK ≠ 0) ∧
    (∃ (s : State) (m : Master) (n : Fin 4), s.dev.served m (0x50 + 4 * n) ∧ s.dev.rd SYS_LOCK_LOCK = 0) ∧
    (∃ (s : State) (m : Master) (n : Fin 4), s.dev.served m (0x50 + 4 * n) ∧ s.dev.rd SYS_LOCK_LOCK ≠ 0) ∧
    (∃ (s : State) (m : Master), s.dev.served m 0x30 ∧ s.dev.rd SYS_LOCK_LOCK = 0) ∧
    (∃ (s : State) (m : Master), s.dev.served m 0x30 ∧ s.dev.rd SYS_LOCK_LOCK ≠ 0) ∧
    (∃ (s : State) (m m' : Master), s.dev.served m 0x2C ∧ s.dev.served m' 0x30) :=
  ⟨⟨stOf (up [(SYS_MODE_MODE, 0, 3)]), .hostBar0, served_of (by decide +kernel)⟩,
   ⟨stOf (up [(SYS_MODE_MODE, 0, 3)]), .hostBar0, ⟨served_of (by decide +kernel), by decide +kernel⟩⟩,
   ⟨stOf (up [(SYS_MODE_MODE, 0, 3), (SYS_LOCK_LOCK, 0, 1)]), .hostBar0, ⟨served_of (by decide +kernel), by decide +kernel⟩⟩,
   ⟨stOf (up [(SYS_MODE_MODE, 0, 3)]), .hostBar0, 3, ⟨served_of (by decide +kernel), by decide +kernel⟩⟩,
   ⟨stOf (up [(SYS_MODE_MODE, 0, 3), (SYS_LOCK_LOCK, 0, 1)]), .hostBar0, 3, ⟨served_of (by decide +kernel), by decide +kernel⟩⟩,
   ⟨stOf (up [(SYS_MODE_MODE, 0, 3), (SYS_ACCESS_ALIAS_EN, 0, 1)]), .hostBar0, ⟨served_of (by decide +kernel), by decide +kernel⟩⟩,
   ⟨stOf (up [(SYS_MODE_MODE, 0, 3), (SYS_LOCK_LOCK, 0, 1)]), .hostBar0, ⟨served_of (by decide +kernel), by decide +kernel⟩⟩,
   ⟨stOf (up [(SYS_MODE_MODE, 0, 3), (SYS_ACCESS_ALIAS_EN, 0, 1)]), .hostBar0, .hostBar0,
     ⟨served_of (by decide +kernel), served_of (by decide +kernel)⟩⟩⟩

theorem witness_RegisterCheck :
    (∃ (s : State) (m : Master), s.dev.served m 0x60 ∧ s.dev.sys.regdigAsked = false ∧ s.dev.sys.regdigRunning = false) ∧
    (∃ (s : State) (m : Master), s.dev.served m 0x60 ∧ (s.dev.sys.regdigAsked = true ∨ s.dev.sys.regdigRunning = true)) ∧
    (∃ (s : State), s.dev.sys.regdigAsked = true) ∧
    (∃ (s : State), s.dev.sys.regdigAsked = false) ∧
    (∃ (s : State), s.dev.sys.regdigRunning = true) ∧
    (∃ (s : State), s.dev.sys.regdigRunning = false) :=
  ⟨⟨stOf (up [(SYS_MODE_MODE, 0, 3), (SYS_REGDIG_CTRL_DONE, 0, 1)]), .hostBar0, ⟨served_of (by decide +kernel), by decide +kernel⟩⟩,
   ⟨stOf ({ up [(SYS_MODE_MODE, 0, 3)] with sys := { regdigRunning := true } }), .hostBar0,
     ⟨served_of (by decide +kernel), by decide +kernel⟩⟩,
   ⟨stOf ({ up [(SYS_MODE_MODE, 0, 3)] with sys := { regdigAsked := true } }), by decide +kernel⟩,
   ⟨stOf (up []), by decide +kernel⟩,
   ⟨stOf ({ up [] with sys := { regdigRunning := true, regdigShot := [(0x50, 7)] } }), by decide +kernel⟩,
   ⟨stOf (up []), by decide +kernel⟩⟩

theorem witness_ReadsAnswerAndClear :
    (∃ (s : State) (m : Master) (addr : Nat), s.dev.readable m addr = true ∧ addr % 4 = 0 ∧
      (m = .debug → s.dev.rd PWR_DBG_STAT_UNLOCKED ≠ 0) ∧
      (∀ p ∈ wordFields addr, p.1 ∉ [BLF_TIME_NS_NS, SMY_PDATA_WORD, SMY_DDATA_WORD, SAF_DBG_DATA_DATA, ADC_UA_SUM_SUM])) ∧
    (∃ (s : State) (m : Master) (addr : Nat), s.dev.readable m addr = true ∧ addr % 4 = 0 ∧
      (m = .debug → s.dev.rd PWR_DBG_STAT_UNLOCKED ≠ 0) ∧
      (∀ p ∈ wordFields addr, p.1 ∉ [BLF_TIME_NS_NS, SMY_PDATA_WORD, SMY_DDATA_WORD, SAF_DBG_DATA_DATA, ADC_UA_SUM_SUM])) ∧
    (∃ (s : State) (m : Master) (addr : Nat), s.dev.readable m addr = true ∧ addr % 4 = 0 ∧
      (m = .debug → s.dev.rd PWR_DBG_STAT_UNLOCKED ≠ 0) ∧
      (∀ p ∈ wordFields addr, p.1 ∉ [BLF_TIME_NS_NS, SMY_PDATA_WORD, SMY_DDATA_WORD, SAF_DBG_DATA_DATA, ADC_UA_SUM_SUM])) ∧
    (∃ (s : State) (m : Master) (addr : Nat), s.dev.readable m addr = true ∧ addr % 8 = 0 ∧
      (m = .debug → s.dev.rd PWR_DBG_STAT_UNLOCKED ≠ 0) ∧ s.dev.readable m (addr + 4) = true ∧
      (∀ p ∈ wordFields addr ++ wordFields (addr + 4), p.1 ∉ [BLF_TIME_NS_NS, SMY_PDATA_WORD, SMY_DDATA_WORD, SAF_DBG_DATA_DATA, ADC_UA_SUM_SUM])) ∧
    (∃ (s : State) (m : Master) (addr : Nat), s.dev.readable m addr = false ∧ addr % 4 = 0) ∧
    (∃ (s : State) (m : Master) (addr width : Nat), accessOk addr width = false ∧ s.dev.rd PWR_STATUS_SHARED_UP ≠ 0 ∧
      (m = .debug → s.dev.rd PWR_DBG_STAT_UNLOCKED ≠ 0)) ∧
    (∃ (s : State) (m : Master), s.dev.readable m 0x1008 = true) ∧
    (∃ (s : State) (m : Master), s.dev.readable m 0x1008 = false) ∧
    (∃ (s : State) (m : Master) (offset width : Nat), s.dev.rd PWR_STATUS_SHARED_UP ≠ 0 ∧ (m = .debug → s.dev.rd PWR_DBG_STAT_UNLOCKED ≠ 0) ∧
      (s.dev.rd SYS_ACCESS_ALIAS_EN = 0 ∨ width ≠ 32 ∨ offset % 4 ≠ 0)) ∧
    (∃ (s : State) (m : Master) (offset : Nat), s.dev.readable m (aliasWord offset) = true ∧
      (m = .debug → s.dev.rd PWR_DBG_STAT_UNLOCKED ≠ 0) ∧ s.dev.rd SYS_ACCESS_ALIAS_EN ≠ 0 ∧ offset % 4 = 0 ∧ offset < 0x200000 ∧
      (∀ p ∈ wordFields (aliasWord offset), p.1 ∉ [BLF_TIME_NS_NS, ADC_UA_SUM_SUM])) ∧
    (∃ (s : State) (m : Master) (offset : Nat), s.dev.readable m (aliasWord offset) = true ∧
      (m = .debug → s.dev.rd PWR_DBG_STAT_UNLOCKED ≠ 0) ∧ s.dev.rd SYS_ACCESS_ALIAS_EN ≠ 0 ∧ offset % 4 = 0 ∧ offset < 0x200000 ∧
      (∀ p ∈ wordFields (aliasWord offset), p.1 ∉ [BLF_TIME_NS_NS, ADC_UA_SUM_SUM])) :=
  ⟨⟨stOf (up [(SYS_MODE_MODE, 0, 3), (SYS_STATUS_BUSY_DROP, 0, 1), (SYS_STATUS_LOCK_VIOL, 0, 1)]), .hostBar0, 0x10, by decide +kernel⟩,
   ⟨stOf (up [(SYS_MODE_MODE, 0, 3), (PWR_SUP_VMIN_MV, 2, 40000)]), .hostBar0, 0xC188, by decide +kernel⟩,
   ⟨stOf (up [(SYS_MODE_MODE, 0, 3), (PWR_DBG_STAT_UNLOCKED, 0, 1), (SYS_STATUS_BUSY_DROP, 0, 1)]), .debug, 0x10, by decide +kernel⟩,
   ⟨stOf (up [(SYS_MODE_MODE, 0, 3), (SYS_SCRATCH_V, 0, 5), (SYS_SCRATCH_V, 1, 6)]), .hostBar0, 0x50, by decide +kernel⟩,
   ⟨stOf (up [(SYS_MODE_MODE, 0, 3)]), .hostBar0, 0x5000, by decide +kernel⟩,
   ⟨stOf (up [(SYS_MODE_MODE, 0, 3)]), .hostBar0, 0x12, 32, by decide +kernel⟩,
   ⟨stOf ({ up [(SYS_MODE_MODE, 0, 3), (BLF_FRAME_NO_NO, 0, 9)] with tb := { ext := 805 } }), .hostBar0, by decide +kernel⟩,
   ⟨stOf (up []), .hostBar0, by decide +kernel⟩,
   ⟨stOf (up [(SYS_MODE_MODE, 0, 3)]), .hostBar0, 2, 32, by decide +kernel⟩,
   ⟨stOf (up [(SYS_MODE_MODE, 0, 3), (SYS_ACCESS_ALIAS_EN, 0, 1), (SYS_STATUS_BUSY_DROP, 0, 1), (SYS_STATUS_LOCK_VIOL, 0, 1)]), .hostBar0,
     512 + 4, by decide +kernel⟩,
   ⟨stOf (up [(SYS_MODE_MODE, 0, 3), (SYS_ACCESS_ALIAS_EN, 0, 1), (SYS_SCRATCH_V, 0, 0x80000000)]), .hostBar0, 2560 + 124,
     by decide +kernel⟩⟩

theorem witness_WritesArePosted :
    (∃ (s : State) (m : Master), s.dev.ignores m) ∧
    (∃ (s : State) (m : Master) (addr width : Nat), accessOk addr width = false ∧ s.dev.rd PWR_STATUS_SHARED_UP ≠ 0 ∧
      (m = .debug → s.dev.rd PWR_DBG_STAT_UNLOCKED ≠ 0) ∧ s.dev.mode ≠ .boot) ∧
    (∃ (s : State) (m : Master) (addr : Nat), addr % 4 = 0 ∧ s.dev.served m addr ∧
      (wordFields addr = [] ∨ (privileged addr = true ∧ privilegedMaster m = false))) ∧
    (∃ (s : State) (m : Master) (addr : Nat), addr % 4 = 0 ∧ s.dev.served m addr ∧
      (wordFields addr = [] ∨ (privileged addr = true ∧ privilegedMaster m = false))) ∧
    (∃ (s : State) (m : Master) (addr b : Nat), addr % 4 = 0 ∧ s.dev.served m addr ∧ wordFields addr ≠ [] ∧
      (privileged addr = true → privilegedMaster m = true) ∧ busyOf addr = some b ∧ s.dev.rd (busyBit b).1 (busyBit b).2 = 0) ∧
    (∃ (s : State) (m : Master) (addr b : Nat), addr % 4 = 0 ∧ s.dev.served m addr ∧ wordFields addr ≠ [] ∧
      (privileged addr = true → privilegedMaster m = true) ∧ busyOf addr = some b ∧ s.dev.rd (busyBit b).1 (busyBit b).2 ≠ 0) ∧
    (∃ (s : State) (m : Master) (offset : Nat), s.dev.served m (aliasWord offset) ∧ s.dev.rd SYS_ACCESS_ALIAS_EN ≠ 0 ∧ offset % 4 = 0 ∧
      offset < 0x200000 ∧ aliasWord offset ∈ [0x50, 0x54, 0x58, 0x5C] ∧ s.dev.rd SYS_LOCK_LOCK = 0) ∧
    (∃ (s : State) (m : Master) (offset width : Nat), s.dev.rd PWR_STATUS_SHARED_UP ≠ 0 ∧ (m = .debug → s.dev.rd PWR_DBG_STAT_UNLOCKED ≠ 0) ∧
      s.dev.mode ≠ .boot ∧ (s.dev.rd SYS_ACCESS_ALIAS_EN = 0 ∨ width ≠ 32 ∨ offset % 4 ≠ 0)) ∧
    (∃ (s : State) (b : Fin 45), (∀ p ∈ s.dev.sys.posted, p.busy ≠ b.val)) ∧
    (∃ (s : State) (m : Master) (addr : Nat), s.dev.readable m addr = true ∧ addr % 4 = 0 ∧
      (m = .debug → s.dev.rd PWR_DBG_STAT_UNLOCKED ≠ 0) ∧
      (∀ p ∈ wordFields addr, p.1 ∉ [BLF_TIME_NS_NS, SMY_PDATA_WORD, SMY_DDATA_WORD, SAF_DBG_DATA_DATA, ADC_UA_SUM_SUM])) ∧
    (∃ (s : State) (m : Master) (offset : Nat), s.dev.readable m (aliasWord offset) = true ∧
      (m = .debug → s.dev.rd PWR_DBG_STAT_UNLOCKED ≠ 0) ∧ s.dev.rd SYS_ACCESS_ALIAS_EN ≠ 0 ∧ offset % 4 = 0 ∧ offset < 0x200000 ∧
      (∀ p ∈ wordFields (aliasWord offset), p.1 ∉ [BLF_TIME_NS_NS, ADC_UA_SUM_SUM])) :=
  ⟨⟨stOf (up []), .hostBar0, .inr (.inr ⟨by simp, by decide +kernel⟩)⟩,
   ⟨stOf (up [(SYS_MODE_MODE, 0, 3)]), .hostBar0, 0x1024, 64, by decide +kernel⟩,
   ⟨stOf (up [(SYS_MODE_MODE, 0, 3)]), .hostBar0, 0x8104, ⟨by decide +kernel, served_of (by decide +kernel), by decide +kernel⟩⟩,
   ⟨stOf (up [(SYS_MODE_MODE, 0, 3)]), .hostBar0, 0x1AFFC, ⟨by decide +kernel, served_of (by decide +kernel), by decide +kernel⟩⟩,
   ⟨stOf (up [(SYS_MODE_MODE, 0, 3)]), .hostBar0, 0x1020, 0, ⟨by decide +kernel, served_of (by decide +kernel), by decide +kernel⟩⟩,
   ⟨stOf (up [(SYS_MODE_MODE, 0, 3), (BLF_STATUS_BUSY, 0, 1)]), .hostBar0, 0x1020, 0,
     ⟨by decide +kernel, served_of (by decide +kernel), by decide +kernel⟩⟩,
   ⟨stOf (up [(SYS_MODE_MODE, 0, 3), (SYS_ACCESS_ALIAS_EN, 0, 1), (SYS_SCRATCH_V, 3, 6)]), .hostBar0, 2560 + 128 * 3 + 124,
     ⟨served_of (by decide +kernel), by decide +kernel⟩⟩,
   ⟨stOf (up [(SYS_MODE_MODE, 0, 3)]), .hostBar0, 2, 32, by decide +kernel⟩,
   ⟨stOf ({ up [(BLF_STATUS_BUSY, 0, 1)] with sys := { posted := [⟨0, .hostBar0, [⟨0x1020, 0xFFFFFFFF, 5⟩], 0⟩] } }), 1, by decide +kernel⟩,
   ⟨stOf ({ up [(SYS_MODE_MODE, 0, 3), (SYS_STATUS_BUSY_DROP, 0, 1), (SYS_STATUS_LOCK_VIOL, 0, 1)] with sys := { posted := [⟨0, .hostBar0, [⟨0x10, 0xFFFFFFFF, 70⟩], 2⟩] } }),
     .hostBar0, 0x10, by decide +kernel⟩,
   ⟨stOf (up [(SYS_MODE_MODE, 0, 3), (SYS_ACCESS_ALIAS_EN, 0, 1), (SYS_SCRATCH_V, 0, 0x80000000)]), .hostBar0, 2560 + 124,
     by decide +kernel⟩⟩

theorem witness_PostedWriteByClass :
    (∃ (s : State) (b : Fin 45) (p : Posted) (w : WordWrite) (f : RegField) (i : Nat), (s.dev.sys.posted.find? (fun q => decide (q.busy = b.val)) = some p) ∧
      p.words = [w] ∧ wordFields w.addr = [(f, i)] ∧ w.mask &&& f.mask ≠ 0 ∧ f ≠ (busyBit b).1 ∧ f.desc.access = .rw ∧ f.desc.cls = .live ∧
      f ≠ SAF_DBG_DATA_DATA) ∧
    (∃ (s : State) (b : Fin 45) (p : Posted) (w : WordWrite) (f : RegField) (i : Nat), (s.dev.sys.posted.find? (fun q => decide (q.busy = b.val)) = some p) ∧
      p.words = [w] ∧ wordFields w.addr = [(f, i)] ∧ w.mask &&& f.mask ≠ 0 ∧ f ≠ (busyBit b).1 ∧ f.desc.access = .rw ∧
      f.desc.cls = .committed ∧ (∀ q ∈ s.dev.sys.requested, q.1 ≠ p.gen)) ∧
    (∃ (s : State) (b : Fin 45) (p : Posted) (w : WordWrite) (f : RegField) (i : Nat), (s.dev.sys.posted.find? (fun q => decide (q.busy = b.val)) = some p) ∧
      p.words = [w] ∧ wordFields w.addr = [(f, i)] ∧ w.mask &&& f.mask ≠ 0 ∧ f ≠ (busyBit b).1 ∧ f.desc.access = .rw ∧ f.desc.cls = .stopped ∧
      pairOfField f i = none ∧ f ≠ SMY_PDATA_WORD ∧ f ≠ SMY_DDATA_WORD ∧ fieldView s.dev f i = s.dev.rd f i ∧
      laidIn f (s.dev.rd f i) w.mask w.value ≠ s.dev.rd f i ∧ blockRuns s.dev f i = true ∧ s.dev.rd PWR_STATUS_SHARED_UP ≠ 0) ∧
    (∃ (s : State) (b : Fin 45) (p : Posted) (w : WordWrite) (f : RegField) (i : Nat), (s.dev.sys.posted.find? (fun q => decide (q.busy = b.val)) = some p) ∧
      p.words = [w] ∧ wordFields w.addr = [(f, i)] ∧ w.mask &&& f.mask ≠ 0 ∧ f ≠ (busyBit b).1 ∧ f.desc.access = .rw ∧ f.desc.cls = .stopped ∧
      pairOfField f i = none ∧ f ≠ SMY_PDATA_WORD ∧ f ≠ SMY_DDATA_WORD ∧ fieldView s.dev f i = s.dev.rd f i ∧ blockRuns s.dev f i = false ∧
      valueRefused f (laidIn f (s.dev.rd f i) w.mask w.value) = false) ∧
    (∃ (s : State) (b : Fin 45) (p : Posted) (w : WordWrite) (f : RegField) (i : Nat), (s.dev.sys.posted.find? (fun q => decide (q.busy = b.val)) = some p) ∧
      p.words = [w] ∧ wordFields w.addr = [(f, i)] ∧ w.mask &&& f.mask ≠ 0 ∧ f ≠ (busyBit b).1 ∧ (f.desc.access = .ro ∨ f.desc.access = .rc)) ∧
    (∃ (s : State) (b : Fin 45) (p : Posted) (w : WordWrite) (f : RegField) (i : Nat), (s.dev.sys.posted.find? (fun q => decide (q.busy = b.val)) = some p) ∧
      p.words = [w] ∧ wordFields w.addr = [(f, i)] ∧ w.mask &&& f.mask ≠ 0 ∧ f ≠ (busyBit b).1 ∧ f.desc.access = .wo ∧ f ≠ SYS_COMMIT_GO ∧
      f ≠ SYS_COMMIT_ABORT ∧ laidIn f 0 w.mask w.value ≠ 0) :=
  ⟨⟨stOf ({ up [(SYS_MODE_MODE, 0, 3), (RVE_STATUS_BUSY, 0, 1)] with sys := { posted := [⟨6, .hostBar0, [⟨0x9000, 0xFFFFFFFF, 300⟩], 0⟩] } }),
     6, ⟨6, .hostBar0, [⟨0x9000, 0xFFFFFFFF, 300⟩], 0⟩, ⟨0x9000, 0xFFFFFFFF, 300⟩, RVE_CFG_RUN_MAX_US, 0, by decide +kernel⟩,
   ⟨stOf ({ up [(SYS_MODE_MODE, 0, 3), (BLF_STATUS_BUSY, 0, 1)] with sys := { posted := [⟨0, .hostBar0, [⟨0x1020, 0xFFFFFFFF, 300⟩], 0⟩] } }),
     0, ⟨0, .hostBar0, [⟨0x1020, 0xFFFFFFFF, 300⟩], 0⟩, ⟨0x1020, 0xFFFFFFFF, 300⟩, BLF_SLEW_MAX_PPM, 0, by decide +kernel⟩,
   ⟨stOf ({ up [(SYS_MODE_MODE, 0, 3), (HST_STATUS_BUSY, 0, 1), (HST_EVQ_CFG_EN, 0, 1)] with sys := { posted := [⟨7, .hostBar0, [⟨0xA024, 1, 1⟩], 0⟩] } }),
     7, ⟨7, .hostBar0, [⟨0xA024, 1, 1⟩], 0⟩, ⟨0xA024, 1, 1⟩, HST_EVQ_BASE_HI_ADDR, 0, by decide +kernel⟩,
   ⟨stOf ({ up [(SYS_MODE_MODE, 0, 3), (HST_STATUS_BUSY, 0, 1)] with sys := { posted := [⟨7, .hostBar0, [⟨0xA024, 1, 1⟩], 0⟩] } }), 7,
     ⟨7, .hostBar0, [⟨0xA024, 1, 1⟩], 0⟩, ⟨0xA024, 1, 1⟩, HST_EVQ_BASE_HI_ADDR, 0, by decide +kernel⟩,
   ⟨stOf ({ up [(SYS_MODE_MODE, 0, 3), (PWR_STATUS_BUSY, 0, 1)] with sys := { posted := [⟨44, .hostBar0, [⟨0xC024, 0xFFFFFFFF, 300⟩], 0⟩] } }),
     44, ⟨44, .hostBar0, [⟨0xC024, 0xFFFFFFFF, 300⟩], 0⟩, ⟨0xC024, 0xFFFFFFFF, 300⟩, PWR_POWER_MW, 0, by decide +kernel⟩,
   ⟨stOf ({ up [(SYS_MODE_MODE, 0, 3), (BLF_STATUS_BUSY, 0, 1)] with sys := { posted := [⟨0, .hostBar0, [⟨0x1038, 0xFFFFFFFF, 1⟩], 0⟩] } }),
     0, ⟨0, .hostBar0, [⟨0x1038, 0xFFFFFFFF, 1⟩], 0⟩, ⟨0x1038, 0xFFFFFFFF, 1⟩, BLF_ACQUIRE_GO, 0, by decide +kernel⟩⟩

theorem witness_LaneDebugAndWindow :
    (∃ (s : State) (l : Lane), (s.dev.rd PWR_DBG_STAT_LANE_AUTH).testBit l.idx = true ∧ laneMode s.dev l ≠ .absent ∧
      laneMode s.dev l ≠ .debug ∧ s.dev.rd PWR_STATUS_SHARED_UP ≠ 0) ∧
    (∃ (s : State) (l : Lane), (s.dev.rd PWR_DBG_STAT_LANE_AUTH).testBit l.idx = false) ∧
    (∃ (s : State) (l : Lane), laneMode s.dev l = .debug ∧ s.dev.rd PWR_STATUS_SHARED_UP ≠ 0 ∧ convOk s.dev l = true ∧
      heldBy s.dev l.idx = [] ∧ (s.dev.rd PWR_STATUS_LANE_UP).testBit l.idx = true) ∧
    (∃ (s : State) (l : Lane), laneMode s.dev l ≠ .debug) ∧
    (∃ (s : State) (l : Lane), laneMode s.dev l ≠ .absent ∧ laneMode s.dev l ≠ .boot ∧ s.dev.tb.ticking = true ∧ s.dev.frameNo % 2 = 0) ∧
    (∃ (s : State) (l : Lane), (laneMode s.dev l = .absent ∨ laneMode s.dev l = .boot ∨ s.dev.tb.ticking = false ∨ s.dev.frameNo % 2 = 1)) ∧
    (∃ (s : State) (m : Master), s.dev.readable m 0x5008 = true) ∧
    (∃ (s : State) (m : Master), s.dev.readable m 0x5008 = false) ∧
    (∃ (m : Master), privilegedMaster m = false) ∧
    (∃ (s : State) (m : Master) (l : Lane), privilegedMaster m = true ∧ s.dev.served m 0x5008 ∧ s.dev.rd SAF_DBG_LANE_LANE = l.idx ∧
      laneMode s.dev l = .debug) ∧
    (∃ (s : State) (m : Master) (l : Lane), privilegedMaster m = true ∧ s.dev.served m 0x5008 ∧ s.dev.rd SAF_DBG_LANE_LANE = l.idx ∧
      laneMode s.dev l ≠ .debug) :=
  ⟨⟨stOf (up [(PWR_DBG_STAT_LANE_AUTH, 0, 4), (LN_STATUS_STATE, 2, 5)]), .c, by decide +kernel⟩,
   ⟨stOf (up [(PWR_DBG_STAT_LANE_AUTH, 0, 4), (LN_STATUS_STATE, 1, 5)]), .b, by decide +kernel⟩,
   ⟨stOf (up [(LN_STATUS_STATE, 1, 8), (PWR_STATUS_CONV_OK, 0, 2), (PWR_STATUS_LANE_UP, 0, 2)]), .b, by decide +kernel⟩,
   ⟨stOf (up [(LN_STATUS_STATE, 1, 7)]), .b, by decide +kernel⟩,
   ⟨stOf ({ up [(LN_STATUS_STATE, 1, 7), (BLF_FRAME_NO_NO, 0, 6)] with tb := { ticking := true, tickAt := 375000, ext := 375000 } }), .b,
     by decide +kernel⟩,
   ⟨stOf ({ up [(LN_STATUS_STATE, 1, 7), (BLF_FRAME_NO_NO, 0, 7)] with tb := { ticking := true, tickAt := 375000, ext := 375000 } }), .b,
     by decide +kernel⟩,
   ⟨stOf (up [(SYS_MODE_MODE, 0, 3), (PWR_DBG_STAT_UNLOCKED, 0, 1), (SAF_DBG_ADDR_ADDR, 0, 65535)]), .debug, by decide +kernel⟩,
   ⟨stOf (up [(SYS_MODE_MODE, 0, 3)]), .hostBar0, by decide +kernel⟩,
   ⟨.hostBar0, by decide +kernel⟩,
   ⟨stOf (up [(SYS_MODE_MODE, 0, 3), (PWR_DBG_STAT_UNLOCKED, 0, 1), (SAF_DBG_ADDR_ADDR, 0, 65535), (SAF_DBG_LANE_LANE, 0, 1), (LN_STATUS_STATE, 1, 8)]),
     .debug, .b, ⟨by decide +kernel, ⟨by decide +kernel, by decide +kernel, .inr (by decide +kernel)⟩, by decide +kernel⟩⟩,
   ⟨stOf (up [(SYS_MODE_MODE, 0, 3), (PWR_DBG_STAT_UNLOCKED, 0, 1), (SAF_DBG_ADDR_ADDR, 0, 65535), (SAF_DBG_LANE_LANE, 0, 1), (LN_STATUS_STATE, 1, 5)]),
     .debug, .b, ⟨by decide +kernel, ⟨by decide +kernel, by decide +kernel, .inr (by decide +kernel)⟩, by decide +kernel⟩⟩⟩

theorem witness_TicksAndPeriodChange :
    (∃ (s : State), s.dev.rd PWR_STATUS_SHARED_UP ≠ 0 ∧ s.dev.periodDue = none ∧ s.dev.tb.ticking = true ∧ s.dev.liveOk) ∧
    (∃ (s : State), s.dev.rd PWR_STATUS_SHARED_UP ≠ 0 ∧ s.dev.periodDue = none ∧ s.dev.tb.ticking = false ∧ s.dev.liveOk) ∧
    (∃ (s : State), (s.dev.rd PWR_STATUS_SHARED_UP = 0 ∨ s.dev.periodDue ≠ none)) ∧
    (∃ (s : State) (p : Nat), s.dev.periodDue = some p ∧ p < 3 ∧ s.dev.rd PWR_STATUS_SHARED_UP ≠ 0 ∧ s.dev.tb.ticking = true ∧ s.dev.liveOk) ∧
    (∃ (s : State), (s.dev.periodDue = none ∨ s.dev.rd PWR_STATUS_SHARED_UP = 0)) ∧
    (∃ (s : State), s.dev.tb.ticking = true) ∧
    (∃ (s : State), s.dev.tb.ticking = false) ∧
    (∃ (s : State) (g : Nat) (xs : List RegCell) (rest : List (Nat × List RegCell)), s.dev.sys.requested = (g, xs) :: rest ∧
      (∀ p ∈ s.dev.sys.posted, p.gen ≤ g → carriesCommitted p = false)) ∧
    (∃ (s : State), (∃ a ∈ s.dev.sys.armed, setDue s.dev a = true)) ∧
    (∃ (s : State) (m : Master), s.dev.readable m 0x1008 = true) :=
  ⟨⟨stOf ({ up [(BLF_FRAME_NO_NO, 0, 0xFFFFFFFF), (BLF_CFG_PERIOD, 0, 1)] with tb := { ticking := true, tickAt := 125000, ext := 200000, stepNext := 7 }, sys := { live := [(.hostBar0, ⟨RVE_CFG_RUN_MAX_US, 0, 300⟩)] } }),
     by decide +kernel⟩,
   ⟨stOf (up [(BLF_FRAME_NO_NO, 0, 5)]), by decide +kernel⟩,
   ⟨stOf ({ up [] with periodDue := some 1 }), by decide +kernel⟩,
   ⟨stOf ({ up [(SYS_MODE_MODE, 0, 2)] with periodDue := some 2, tb := { ticking := true, tickAt := 62500, ext := 70000, stepNext := 300 } }),
     2, by decide +kernel⟩,
   ⟨stOf (up []), by decide +kernel⟩,
   ⟨stOf ({ up [] with tb := { ticking := true, tickAt := 62500, ext := 70000 } }), by decide +kernel⟩,
   ⟨stOf (up []), by decide +kernel⟩,
   ⟨stOf ({ up [(BLF_FRAME_NO_NO, 0, 0xFFFFFFFF)] with sys := { requested := [(2, [⟨BLF_SLEW_MAX_PPM, 0, 60⟩])] }, tb := { ticking := true, ext := 60500 } }),
     2, [⟨BLF_SLEW_MAX_PPM, 0, 60⟩], [], by decide +kernel⟩,
   ⟨stOf ({ up [(BLF_FRAME_NO_NO, 0, 8)] with sys := { armed := [⟨8, [⟨BLF_SLEW_MAX_PPM, 0, 600⟩]⟩, ⟨9, []⟩] } }), by decide +kernel⟩,
   ⟨stOf ({ up [(SYS_MODE_MODE, 0, 3), (BLF_FRAME_NO_NO, 0, 9)] with tb := { ext := 805 } }), .hostBar0, by decide +kernel⟩⟩

theorem witness_AdcSequence :
    (∃ (s : State) (m : Master) (t : Int) (rest : List Int), s.dev.takes m 0x8014 (ADC_STATUS_BUSY, 0) ∧ s.dev.rd ADC_SEQ_CTRL_EN ≠ 0 ∧
      s.dev.rd ADC_REF_READY ≠ 0 ∧ s.dev.adc.run = none ∧ s.dev.rd ADC_SEQ_CTRL_CLR_ON_START = 0 ∧ s.dev.adc.trigs = t :: rest) ∧
    (∃ (s : State) (m : Master), s.dev.takes m 0x8014 (ADC_STATUS_BUSY, 0) ∧ s.dev.rd ADC_SEQ_CTRL_EN ≠ 0 ∧ s.dev.rd ADC_REF_READY ≠ 0 ∧
      s.dev.adc.run.isSome = true ∧ s.dev.rd ADC_STATUS_TRIG_QUEUED = 0) ∧
    (∃ (s : State) (m : Master), s.dev.takes m 0x8014 (ADC_STATUS_BUSY, 0) ∧ s.dev.rd ADC_SEQ_CTRL_EN ≠ 0 ∧ s.dev.rd ADC_REF_READY ≠ 0 ∧
      s.dev.adc.run.isSome = true ∧ s.dev.rd ADC_STATUS_TRIG_QUEUED ≠ 0) ∧
    (∃ (s : State) (m : Master), s.dev.takes m 0x8014 (ADC_STATUS_BUSY, 0) ∧ s.dev.rd ADC_SEQ_CTRL_EN ≠ 0 ∧ s.dev.rd ADC_REF_READY = 0) ∧
    (∃ (s : State), s.dev.adc.trigs = []) ∧
    (∃ (s : State) (m : Master), s.dev.takes m 0x8014 (ADC_STATUS_BUSY, 0) ∧ s.dev.rd ADC_SEQ_CTRL_EN = 0 ∧ sequenceRefused s.dev = false) ∧
    (∃ (s : State) (m : Master), s.dev.takes m 0x8014 (ADC_STATUS_BUSY, 0) ∧ s.dev.rd ADC_SEQ_CTRL_EN = 0 ∧ sequenceRefused s.dev = true) ∧
    (∃ (s : State) (m : Master), s.dev.takes m 0x8014 (ADC_STATUS_BUSY, 0)) ∧
    (∃ (s : State) (v : Fin 2) (r : SeqRun) (x : Sample) (val : Int) (st : Int), s.dev.adc.run = some r ∧
      (let i := if v = 0 then r.i0 else r.i1; (seqEntry s.dev v i).2.1 = 0) ∧
      (let i := if v = 0 then r.i0 else r.i1; (seqEntry s.dev v i).2.2.1 = 0) ∧ (let i := if v = 0 then r.i0 else r.i1; i < seqLen s.dev v) ∧
      entryStart s.dev v (if v = 0 then r.c0 else r.c1) 1 = some st ∧
      (let i := if v = 0 then r.i0 else r.i1; let ch := (seqEntry s.dev v i).1; correctSample s.dev ch x = (val, false)) ∧
      recoverTo s.dev.adc v = none ∧
      (let i := if v = 0 then r.i0 else r.i1; let u := (seqEntry s.dev v i).2.2.2; let a := SMap.get ({} : UserAcc) s.dev.adc.ua u; a.count < 65535)) ∧
    (∃ (s : State), s.dev.adc.run = none) ∧
    (∃ (s : State) (r : SeqRun), s.dev.adc.run = some r ∧ seqLen s.dev 0 ≤ r.i0 ∧ seqLen s.dev 1 ≤ r.i1 ∧
      s.dev.rd ADC_STATUS_TRIG_QUEUED = 0) ∧
    (∃ (s : State) (r : SeqRun), s.dev.adc.run = some r ∧ seqLen s.dev 0 ≤ r.i0 ∧ seqLen s.dev 1 ≤ r.i1 ∧
      s.dev.rd ADC_STATUS_TRIG_QUEUED ≠ 0) ∧
    (∃ (s : State) (r : SeqRun), s.dev.adc.run = some r ∧ (r.i0 < seqLen s.dev 0 ∨ r.i1 < seqLen s.dev 1)) :=
  ⟨⟨stOf ({ up [(SYS_MODE_MODE, 0, 3), (ADC_SEQ_CTRL_EN, 0, 1), (ADC_REF_READY, 0, 1)] with adc := { trigs := [80, 200] }, tb := { ticking := true, ext := 62600, tickAt := 62500 } }),
     .hostBar0, 80, [200], ⟨takes_of (by decide +kernel), by decide +kernel⟩⟩,
   ⟨stOf ({ up [(SYS_MODE_MODE, 0, 3), (ADC_SEQ_CTRL_EN, 0, 1), (ADC_REF_READY, 0, 1)] with adc := { trigs := [80, 200], run := some { c0 := 5, c1 := 5, last := 5 } } }),
     .hostBar0, ⟨takes_of (by decide +kernel), by decide +kernel⟩⟩,
   ⟨stOf ({ up [(SYS_MODE_MODE, 0, 3), (ADC_SEQ_CTRL_EN, 0, 1), (ADC_REF_READY, 0, 1), (ADC_STATUS_TRIG_QUEUED, 0, 1), (ADC_CNT_TRIG_OVERRUN, 0, 65535)] with adc := { trigs := [80, 200], run := some { c0 := 5, c1 := 5, last := 5 } } }),
     .hostBar0, ⟨takes_of (by decide +kernel), by decide +kernel⟩⟩,
   ⟨stOf (up [(SYS_MODE_MODE, 0, 3), (ADC_SEQ_CTRL_EN, 0, 1)]), .hostBar0, ⟨takes_of (by decide +kernel), by decide +kernel⟩⟩,
   ⟨stOf (up []), by decide +kernel⟩,
   ⟨stOf (up [(SYS_MODE_MODE, 0, 3), (ADC_SEQ_CTRL_LEN1, 0, 32), (ADC_SEQ1_E_CHAN, 31, 30), (ADC_SEQ1_E_OVS, 31, 6)]), .hostBar0,
     ⟨takes_of (by decide +kernel), by decide +kernel⟩⟩,
   ⟨stOf (up [(SYS_MODE_MODE, 0, 3), (ADC_SEQ_CTRL_LEN1, 0, 32), (ADC_SEQ1_E_CHAN, 31, 31)]), .hostBar0,
     ⟨takes_of (by decide +kernel), by decide +kernel⟩⟩,
   ⟨stOf (up [(SYS_MODE_MODE, 0, 3), (ADC_SEQ_CTRL_EN, 0, 1)]), .hostBar0, takes_of (by decide +kernel)⟩,
   ⟨stOf ({ up [(ADC_SEQ_CTRL_LEN1, 0, 1), (ADC_SEQ1_E_CHAN, 0, 30), (ADC_SEQ1_E_DEST, 0, 31), (ADC_UA_SUM_SUM, 31, 0xFFFFFFF0)] with adc := { run := some { c0 := 5, c1 := 9, last := 5 }, ua := [(31, { count := 65534, mn := -20, mx := 3 })] } }),
     1, { c0 := 5, c1 := 9, last := 5 }, { raw := 30 }, 30, 9, by decide +kernel⟩,
   ⟨stOf (up []), by decide +kernel⟩,
   ⟨stOf ({ up [(ADC_STATUS_SEQ_ACTIVE, 0, 1)] with adc := { run := some { c0 := 5, c1 := 9, last := 15 } } }),
     { c0 := 5, c1 := 9, last := 15 }, by decide +kernel⟩,
   ⟨stOf ({ up [(ADC_STATUS_SEQ_ACTIVE, 0, 1), (ADC_STATUS_TRIG_QUEUED, 0, 1)] with adc := { run := some { c0 := 5, c1 := 9, last := 15 } } }),
     { c0 := 5, c1 := 9, last := 15 }, by decide +kernel⟩,
   ⟨stOf ({ up [(ADC_STATUS_SEQ_ACTIVE, 0, 1), (ADC_SEQ_CTRL_LEN1, 0, 1)] with adc := { run := some { c0 := 5, c1 := 9, last := 15 } } }),
     { c0 := 5, c1 := 9, last := 15 }, by decide +kernel⟩⟩

theorem witness_AdcMonitorAndAccumulators :
    (∃ (s : State), s.dev.adc.scanning = false) ∧
    (∃ (s : State) (s0 s1 : List Sample), s.dev.adc.scanning = true ∧ (s.dev.adc.round + 1) * roundClocks s.dev ≤ frameAdcClocks s.dev ∧
      s.dev.adc.rec0 = none ∧ s.dev.adc.rec1 = none ∧ s0.take 5 = List.replicate 5 ⟨checkLevel s.dev.frameNo, false⟩ ∧
      s1.take 5 = List.replicate 5 ⟨checkLevel s.dev.frameNo, false⟩) ∧
    (∃ (s : State) (s0 s1 : List Sample) (x : Int), s.dev.adc.scanning = true ∧
      (s.dev.adc.round + 1) * roundClocks s.dev ≤ frameAdcClocks s.dev ∧ s.dev.adc.rec0 = none ∧ s.dev.adc.rec1 = none ∧
      s0.take 5 = List.replicate 5 ⟨x, false⟩ ∧ -32768 ≤ x ∧ x ≤ 32767 ∧ 256 < (x - checkLevel s.dev.frameNo).natAbs ∧
      s1.take 5 = List.replicate 5 ⟨checkLevel s.dev.frameNo, false⟩) ∧
    (∃ (s : State) (m : Master), s.dev.takes m 0x8004 (ADC_STATUS_BUSY, 0)) ∧
    (∃ (s : State) (m : Master), s.dev.takes m 0x8004 (ADC_STATUS_BUSY, 0) ∧ s.dev.rd ADC_REF_EN ≠ 0) ∧
    (∃ (s : State) (m : Master), s.dev.takes m 0x8004 (ADC_STATUS_BUSY, 0) ∧ s.dev.rd ADC_REF_EN = 0) ∧
    (∃ (s : State), s.dev.rd ADC_REF_EN ≠ 0) ∧
    (∃ (s : State), s.dev.rd ADC_REF_EN = 0) ∧
    (∃ (s : State) (m : Master) (u : Fin 32), s.dev.readable m (0x8500 + 16 * u) = true) ∧
    (∃ (s : State) (m : Master) (u : Fin 32), s.dev.readable m (0x8500 + 16 * u) = false) ∧
    (∃ (s : State) (m : Master) (u : Fin 32), s.dev.takes m (0x850C + 16 * u) (ADC_STATUS_BUSY, 0)) :=
  ⟨⟨stOf (up []), by decide +kernel⟩,
   ⟨stOf ({ up [(BLF_FRAME_NO_NO, 0, 3)] with adc := { scanning := true, round := 9 } }), List.replicate 85 ⟨24576, false⟩,
     List.replicate 80 ⟨24576, false⟩, by decide +kernel⟩,
   ⟨stOf ({ up [(BLF_FRAME_NO_NO, 0, 3)] with adc := { scanning := true, round := 9 } }), List.replicate 85 ⟨24833, false⟩,
     List.replicate 80 ⟨24576, false⟩, 24833, by decide +kernel⟩,
   ⟨stOf (up [(SYS_MODE_MODE, 0, 3)]), .hostBar0, takes_of (by decide +kernel)⟩,
   ⟨stOf (up [(SYS_MODE_MODE, 0, 3), (ADC_REF_EN, 0, 1)]), .hostBar0, ⟨takes_of (by decide +kernel), by decide +kernel⟩⟩,
   ⟨stOf (up [(SYS_MODE_MODE, 0, 3)]), .hostBar0, ⟨takes_of (by decide +kernel), by decide +kernel⟩⟩,
   ⟨stOf (up [(ADC_REF_EN, 0, 1)]), by decide +kernel⟩,
   ⟨stOf (up []), by decide +kernel⟩,
   ⟨stOf ({ up [(SYS_MODE_MODE, 0, 3), (ADC_UA_SUM_SUM, 31, 7)] with adc := { ua := [(31, { count := 65535, mn := -20, mx := 3, full := true })] } }),
     .hostBar0, 31, by decide +kernel⟩,
   ⟨stOf (up []), .hostBar0, 31, by decide +kernel⟩,
   ⟨stOf ({ up [(SYS_MODE_MODE, 0, 3), (ADC_UA_SUM_SUM, 31, 7)] with adc := { ua := [(31, { count := 65535, mn := -20, mx := 3, full := true })] } }),
     .hostBar0, 31, takes_of (by decide +kernel)⟩⟩

/-- A device whose arm 15 has the one joint `j`, switched on, while ticks run. -/
def jointOn (j : Nat) (r : List (RegField × Nat × Nat)) : Dev :=
  { up ((MIL_J_CTRL_EN, j, 1) :: r) with tb := { ticking := true }, pln := { models := [(15, some { joints := [{ jointNo := j }] })] } }

theorem witness_MillPhasesAndMarshalling :
    (∃ (s : State) (late : List (Fin 148)) (j : Nat), s.dev.tb.ticking = true ∧ j < 128 ∧ slotActive s.dev j = true ∧
      engineRuns s.dev (j / 8) = true ∧ (∀ x ∈ late, x.val ≠ j) ∧ s.dev.offset < (s.dev.frameNs : Int) - 14500) ∧
    (∃ (s : State) (late : List (Fin 148)) (j : Fin 148), s.dev.tb.ticking = true ∧ j ∈ late ∧ j.val < 128) ∧
    (∃ (s : State), s.dev.tb.ticking = false) ∧
    (∃ (s : State), s.dev.tb.ticking = true ∧
      (∀ k, k < 16 → engineRuns s.dev k = true → (∃ x ∈ engineSlots k, slotActive s.dev x = true) → ∃ x ∈ engineSlots k, slotActive s.dev x = true ∧ isPrepared s.dev x = true)) ∧
    (∃ (s : State) (k : Nat), s.dev.tb.ticking = true ∧ k < 16 ∧ engineRuns s.dev k = true ∧
      (∃ x ∈ engineSlots k, slotActive s.dev x = true) ∧ (∀ x ∈ engineSlots k, slotActive s.dev x = true → isPrepared s.dev x = false) ∧
      s.dev.rd MIL_ENG_STAT_STATE (physOf s.dev k) ≠ 2 ∧ (∀ i, i < 16 → s.dev.rd MIL_ENG_STAT_LOGICAL (physOf s.dev i) = i)) ∧
    (∃ (s : State) (j : Nat), s.dev.tb.ticking = true ∧ j < 128 ∧ slotActive s.dev j = true ∧ engineRuns s.dev (j / 8) = true ∧
      isPrepared s.dev j = true) ∧
    (∃ (s : State) (j : Nat), s.dev.tb.ticking = true ∧ j < 128 ∧ slotActive s.dev j = true ∧ engineRuns s.dev (j / 8) = true ∧
      isPrepared s.dev j = true) ∧
    (∃ (s : State) (j : Nat), s.dev.tb.ticking = true ∧ j < 128 ∧ slotActive s.dev j = true ∧ engineRuns s.dev (j / 8) = true ∧
      isPrepared s.dev j = true ∧ feedbackOf s.dev j = some 77) ∧
    (∃ (s : State) (j : Nat), s.dev.tb.ticking = true ∧ j < 128 ∧ slotActive s.dev j = true ∧ (mjOf s.dev j).closed = false) ∧
    (∃ (s : State) (j : Nat), s.dev.tb.ticking = true ∧ j < 128 ∧ slotActive s.dev j = true ∧ (mjOf s.dev j).closed = true) ∧
    (∃ (s : State) (k : Nat), s.dev.tb.ticking = true ∧ k < (motionSched s.dev).length ∧ 0 < (entryAt (motionSched s.dev) k).joints ∧
      s.dev.rd GRP_STATUS_QUARANTINED = 0 ∧ (∀ l : Lane, (ringOf s.dev l).seqReset = false) ∧ s.dev.offset < 3200) ∧
    (∃ (s : State), (s.dev.frameNs : Int) - 14500 ≤ s.dev.offset) ∧
    (∃ (s : State), 3200 ≤ s.dev.offset) :=
  ⟨⟨stOf (jointOn 127 []), [126], 127, by decide +kernel⟩,
   ⟨stOf (jointOn 127 []), [127], 127, by decide +kernel⟩,
   ⟨stOf (up []), by decide +kernel⟩,
   ⟨stOf ({ jointOn 127 [] with mil := { joints := [(127, { prepared := true })], slots := [(16, { prepared := true }), (17, { prepared := true }), (18, { prepared := true }), (19, { prepared := true })] } }),
     by decide +kernel⟩,
   ⟨stOf (jointOn 127 []), 15, by decide +kernel⟩,
   ⟨stOf ({ jointOn 127 [(MIL_J_DUMAX_DU, 127, 100), (MIL_J_STAT_COAST, 127, 255)] with mil := { joints := [(127, { prepared := true, uPrev := -250 })] } }),
     127, by decide +kernel⟩,
   ⟨stOf ({ jointOn 1 [(MIL_J_CTRL_OUT_INV, 1, 1), (ENT_NODE_STATE, 0, 4), (MIL_J_STAT_COAST, 1, 255)] with mil := { joints := [(1, { prepared := true, uPrev := -250 })] }, rings := ⟨{ sched := [{ joints := 2 }] }, {}, {}⟩, motion := { feedback := [(1, some 77)] } }),
     1, by decide +kernel⟩,
   ⟨stOf ({ jointOn 1 [(ENT_NODE_STATE, 0, 3), (MIL_J_STAT_COAST, 1, 255)] with mil := { joints := [(1, { prepared := true, uPrev := -250 })] }, rings := ⟨{ sched := [{ joints := 2 }] }, {}, {}⟩, motion := { feedback := [(1, some 77)] } }),
     1, by decide +kernel⟩,
   ⟨stOf (jointOn 127 [(MIL_J_STAT_MISS_RUN, 127, 2)]), 127, by decide +kernel⟩,
   ⟨stOf ({ jointOn 127 [(MIL_J_STAT_MISS_RUN, 127, 2)] with mil := { joints := [(127, { closed := true, out := -5, sent := 8 })] } }),
     127, by decide +kernel⟩,
   ⟨stOf ({ up [(BLF_FRAME_NO_NO, 0, 5)] with tb := { ticking := true }, rings := ⟨{ sched := [{ joints := 2 }, { joints := 3 }] }, {}, {}⟩, mil := { joints := [(2, { sent := -70000 }), (4, { sent := -70000 })] }, motion := { sent := [(2, 5), (4, -70001)] } }),
     1,
     ⟨by decide +kernel, by decide +kernel, by decide +kernel, by decide +kernel, fun m => by cases m <;> decide +kernel, by decide +kernel⟩⟩,
   ⟨stOf ({ up [] with tb := { ticking := true, ext := 48000 } }), by decide +kernel⟩,
   ⟨stOf ({ up [] with tb := { ticking := true, ext := 3200 } }), by decide +kernel⟩⟩

theorem witness_MillEnginesAndPorts :
    (∃ (s : State) (p : Fin 18), s.dev.rd MIL_ENG_STAT_STATE p ≠ 2 ∧ s.dev.mode ≠ .boot) ∧
    (∃ (s : State) (p : Fin 18), s.dev.rd MIL_ENG_STAT_STATE p ≠ 2) ∧
    (∃ (s : State) (p : Fin 18), s.dev.rd MIL_ENG_STAT_STATE p = 2 ∧ s.dev.mode ≠ .boot) ∧
    (∃ (s : State) (p : Fin 18), (s.dev.rd MIL_ENG_STAT_STATE p = 1 ∨ (s.dev.rd MIL_ENG_STAT_STATE p = 0 ∧ s.dev.mode = .boot)) ∧
      s.dev.mode ≠ .boot) ∧
    (∃ (s : State) (p : Fin 18), (s.dev.rd MIL_ENG_STAT_STATE p = 1 ∨ (s.dev.rd MIL_ENG_STAT_STATE p = 0 ∧ s.dev.mode = .boot))) ∧
    (∃ (s : State) (p : Fin 18), (s.dev.rd MIL_ENG_STAT_STATE p = 1 ∨ (s.dev.rd MIL_ENG_STAT_STATE p = 0 ∧ s.dev.mode = .boot))) ∧
    (∃ (s : State) (p : Fin 18), (s.dev.rd MIL_ENG_STAT_STATE p = 1 ∨ (s.dev.rd MIL_ENG_STAT_STATE p = 0 ∧ s.dev.mode = .boot))) ∧
    (∃ (s : State) (p : Fin 18), s.dev.rd MIL_ENG_STAT_STATE p ≠ 1 ∧ (s.dev.rd MIL_ENG_STAT_STATE p ≠ 0 ∨ s.dev.mode ≠ .boot)) ∧
    (∃ (s : State) (k : Fin 16) (p : Nat) (rest : List Nat), s.dev.mil.migrating.min? = some k.val ∧ spares s.dev = p :: rest ∧
      s.dev.rd PWR_STATUS_SHARED_UP ≠ 0) ∧
    (∃ (s : State) (k : Fin 16), (s.dev.mil.migrating.min? ≠ some k.val ∨ spares s.dev = [])) ∧
    (∃ (s : State) (m : Master), s.dev.takes m 0x14208 (MIL_STATUS_BUSY, 0) ∧
      s.dev.rd MIL_TBL_SEL_BANK ≠ (mjOf s.dev (s.dev.rd MIL_TBL_SEL_JOINT)).bank) ∧
    (∃ (s : State) (m : Master), s.dev.takes m 0x14208 (MIL_STATUS_BUSY, 0) ∧
      s.dev.rd MIL_TBL_SEL_BANK = (mjOf s.dev (s.dev.rd MIL_TBL_SEL_JOINT)).bank) ∧
    (∃ (s : State) (m : Master) (k : Fin 16), s.dev.takes m (0x1803C + 256 * k) (FBK_STAT_BUSY, k) ∧ s.dev.rd FBK_CFG_MODE k ≠ 3 ∧
      s.dev.rd FBK_CFG_MODE k ≠ 4 ∧ portUsed s.dev k = false) ∧
    (∃ (s : State) (m : Master) (k : Fin 16), s.dev.takes m (0x1803C + 256 * k) (FBK_STAT_BUSY, k) ∧
      (s.dev.rd FBK_CFG_MODE k = 3 ∨ s.dev.rd FBK_CFG_MODE k = 4 ∨ portUsed s.dev k = true)) ∧
    (∃ (s : State) (a : Fin 36) (r : Run) (g : Seg), (armOf s.dev a).run = some r ∧
      (((slotsOf s.dev a).head?.bind fun j => (segsOf s.dev j).getLast?) = some g) ∧ r.mode ≠ .held ∧ r.mode ≠ .coupling ∧
      r.mode ≠ .stopping 3 ∧ g.last = false ∧ 0 ≤ frameDiff (frameAdd s.dev.frameNo 2) (segStop g)) ∧
    (∃ (s : State) (a : Fin 36) (r : Run) (g : Seg), (armOf s.dev a).run = some r ∧
      (((slotsOf s.dev a).head?.bind fun j => (segsOf s.dev j).getLast?) = some g) ∧ r.mode ≠ .held ∧ r.mode ≠ .coupling ∧
      r.mode ≠ .stopping 3 ∧ g.last = false ∧ 0 ≤ frameDiff (frameAdd s.dev.frameNo 2) (segStop g)) ∧
    (∃ (s : State) (a : Fin 36) (r : Run) (g : Seg), (armOf s.dev a).run = some r ∧
      (((slotsOf s.dev a).head?.bind fun j => (segsOf s.dev j).getLast?) = some g) ∧ r.mode ≠ .held ∧ r.mode ≠ .coupling ∧
      r.mode ≠ .stopping 3 ∧ g.last = false ∧ 0 ≤ frameDiff (frameAdd s.dev.frameNo 2) (segStop g)) ∧
    (∃ (s : State) (a : Fin 36) (r : Run) (g : Seg), (armOf s.dev a).run = some r ∧
      (((slotsOf s.dev a).head?.bind fun j => (segsOf s.dev j).getLast?) = some g) ∧ r.mode ≠ .held ∧ r.mode ≠ .coupling ∧
      r.mode ≠ .stopping 3 ∧ g.last = false ∧ 0 ≤ frameDiff (frameAdd s.dev.frameNo 2) (segStop g)) ∧
    (∃ (s : State) (a : Fin 36) (r : Run), (armOf s.dev a).run = some r ∧ (r.mode = .held ∨ r.mode = .coupling ∨ r.mode = .stopping 3)) ∧
    (∃ (s : State) (a : Fin 36), (armOf s.dev a).run = none) ∧
    (∃ (s : State), (s.dev.rd MIL_TLM_CTRL_EN = 0 ∨ tlmSels s.dev = [])) ∧
    (∃ (s : State), s.dev.rd MIL_TLM_CTRL_EN ≠ 0 ∧ tlmSels s.dev ≠ [] ∧
      (∀ k ∈ tlmSels s.dev, (SMap.get [] s.dev.mil.tlm.samples k).length = 8) ∧
      (let wr := s.dev.rd MIL_TLM_WR_IDX; let next := if s.dev.rd MIL_TLM_SIZE_RECORDS ≤ wr + 1 then 0 else wr + 1; next ≠ s.dev.rd MIL_TLM_RD_IDX)) ∧
    (∃ (s : State), s.dev.rd MIL_TLM_CTRL_EN ≠ 0 ∧ tlmSels s.dev ≠ [] ∧
      (∀ k ∈ tlmSels s.dev, (SMap.get [] s.dev.mil.tlm.samples k).length = 8) ∧
      (let wr := s.dev.rd MIL_TLM_WR_IDX; let next := if s.dev.rd MIL_TLM_SIZE_RECORDS ≤ wr + 1 then 0 else wr + 1; next = s.dev.rd MIL_TLM_RD_IDX)) :=
  ⟨⟨stOf (up [(SYS_MODE_MODE, 0, 3)]), 15, by decide +kernel⟩,
   ⟨stOf ({ up [(MIL_ENG_STAT_LOGICAL, 15, 3)] with mil := { slots := [(3, { closed := true })], joints := [(31, { closed := true })] } }),
     15, by decide +kernel⟩,
   ⟨stOf (up [(SYS_MODE_MODE, 0, 3), (MIL_ENG_STAT_STATE, 17, 2)]), 17, by decide +kernel⟩,
   ⟨stOf (up [(SYS_MODE_MODE, 0, 3), (MIL_ENG_STAT_STATE, 17, 1), (MIL_ENG_STAT_KAT_PASS, 17, 65535)]), 17, by decide +kernel⟩,
   ⟨stOf (up [(MIL_ENG_STAT_KAT_PASS, 15, 3)]), 15, by decide +kernel⟩,
   ⟨stOf (up [(MIL_ENG_STAT_STATE, 17, 1)]), 17, by decide +kernel⟩,
   ⟨stOf (up [(MIL_ENG_STAT_STATE, 15, 0)]), 15, by decide +kernel⟩,
   ⟨stOf (up [(SYS_MODE_MODE, 0, 3)]), 15, by decide +kernel⟩,
   ⟨stOf ({ up [(MIL_ENG_STAT_STATE, 16, 2), (MIL_ENG_STAT_STATE, 17, 1)] with mil := { migrating := [15, 14] } }), 14, 17, [],
     by decide +kernel⟩,
   ⟨stOf ({ up [(MIL_ENG_STAT_STATE, 17, 1)] with mil := { migrating := [15, 14] } }), 15, by decide +kernel⟩,
   ⟨stOf (up [(SYS_MODE_MODE, 0, 3), (MIL_TBL_SEL_JOINT, 0, 127), (MIL_TBL_SEL_BANK, 0, 1), (MIL_TBL_SEL_POINT, 0, 63), (MIL_TBL_E_E, 0, 9)]),
     .hostBar0, ⟨takes_of (by decide +kernel), by decide +kernel⟩⟩,
   ⟨stOf (up [(SYS_MODE_MODE, 0, 3), (MIL_TBL_SEL_JOINT, 0, 127), (MIL_TBL_SEL_POINT, 0, 63)]), .hostBar0,
     ⟨takes_of (by decide +kernel), by decide +kernel⟩⟩,
   ⟨stOf (up [(SYS_MODE_MODE, 0, 3), (FBK_CFG_MODE, 15, 1)]), .hostBar0, 15, ⟨takes_of (by decide +kernel), by decide +kernel⟩⟩,
   ⟨stOf (up [(SYS_MODE_MODE, 0, 3), (FBK_CFG_MODE, 15, 4)]), .hostBar0, 15, ⟨takes_of (by decide +kernel), by decide +kernel⟩⟩,
   ⟨stOf ({ up [(BLF_FRAME_NO_NO, 0, 100)] with pln := { arms := [(35, { run := some { cmd := { sq := 0, rsn := 0, opcode := 0x13, body := [], pct := 100, limset := 0, order := 0 }, start := 0, zero := 0 } })], rings := [(147, [{ start := 90, dur := 12, stopFr := 4, c := [] }])] } }),
     35, { cmd := { sq := 0, rsn := 0, opcode := 0x13, body := [], pct := 100, limset := 0, order := 0 }, start := 0, zero := 0 },
     { start := 90, dur := 12, stopFr := 4, c := [] }, by decide +kernel⟩,
   ⟨stOf ({ up [(BLF_FRAME_NO_NO, 0, 100)] with pln := { arms := [(35, { run := some { cmd := { sq := 0, rsn := 0, opcode := 0x13, body := [], pct := 100, limset := 0, order := 0 }, start := 0, zero := 0 }, next := some { cmd := { sq := 1, rsn := 4, opcode := 0x13, body := [], pct := 50, limset := 0, order := 0 }, start := 120, zero := 0 } })], rings := [(147, [{ start := 90, dur := 12, stopFr := 4, c := [] }])] } }),
     35, { cmd := { sq := 0, rsn := 0, opcode := 0x13, body := [], pct := 100, limset := 0, order := 0 }, start := 0, zero := 0 },
     { start := 90, dur := 12, stopFr := 4, c := [] }, by decide +kernel⟩,
   ⟨stOf ({ up [(BLF_FRAME_NO_NO, 0, 100)] with pln := { arms := [(35, { run := some { cmd := { sq := 0, rsn := 0, opcode := 0x13, body := [], pct := 100, limset := 0, order := 0 }, start := 0, zero := 0 }, next := some { cmd := { sq := 1, rsn := 4, opcode := 0x13, body := [], pct := 50, limset := 0, order := 0 }, start := 99, zero := 0 } })], rings := [(147, [{ start := 90, dur := 12, stopFr := 4, c := [] }])] } }),
     35, { cmd := { sq := 0, rsn := 0, opcode := 0x13, body := [], pct := 100, limset := 0, order := 0 }, start := 0, zero := 0 },
     { start := 90, dur := 12, stopFr := 4, c := [] }, by decide +kernel⟩,
   ⟨stOf ({ up [(BLF_FRAME_NO_NO, 0, 100)] with pln := { arms := [(35, { run := some { cmd := { sq := 0, rsn := 0, opcode := 0x13, body := [], pct := 100, limset := 0, order := 0 }, start := 0, zero := 0 } })], rings := [(147, [{ start := 90, dur := 12, stopFr := 4, c := [] }])] } }),
     35, { cmd := { sq := 0, rsn := 0, opcode := 0x13, body := [], pct := 100, limset := 0, order := 0 }, start := 0, zero := 0 },
     { start := 90, dur := 12, stopFr := 4, c := [] }, by decide +kernel⟩,
   ⟨stOf ({ up [(BLF_FRAME_NO_NO, 0, 100)] with pln := { arms := [(35, { run := some { cmd := { sq := 0, rsn := 0, opcode := 0x13, body := [], pct := 100, limset := 0, order := 0 }, start := 0, zero := 0, mode := .stopping 3 } })] } }),
     35,
     { cmd := { sq := 0, rsn := 0, opcode := 0x13, body := [], pct := 100, limset := 0, order := 0 }, start := 0, zero := 0, mode := .stopping 3 },
     by decide +kernel⟩,
   ⟨stOf (up []), 35, by decide +kernel⟩,
   ⟨stOf (up []), by decide +kernel⟩,
   ⟨stOf ({ up [(MIL_TLM_CTRL_EN, 0, 1), (MIL_TLM_SEL_VALID, 31, 1), (MIL_TLM_SIZE_RECORDS, 0, 8), (MIL_TLM_WR_IDX, 0, 7), (MIL_TLM_RD_IDX, 0, 3)] with mil := { tlm := { samples := [(31, List.replicate 8 f64Zero)], lost := 3 } } }),
     by decide +kernel⟩,
   ⟨stOf ({ up [(MIL_TLM_CTRL_EN, 0, 1), (MIL_TLM_SEL_VALID, 31, 1), (MIL_TLM_SIZE_RECORDS, 0, 8), (MIL_TLM_WR_IDX, 0, 7), (MIL_TLM_RD_IDX, 0, 0)] with mil := { tlm := { samples := [(31, List.replicate 8 f64Zero)], lost := 3 } } }),
     by decide +kernel⟩⟩

/-- A command of SQ 1 in flight, owed to CQ 2. -/
def hostCmd (op cls : Nat) (body : List Byte) : HostCmd := { sq := 1, rsn := 7, opcode := op, cls := cls, crc := 9, cq := some 2, body := body }

/-- Queues 1 and 2 are on and the link is up. -/
def linked (r : List (RegField × Nat × Nat)) : Dev :=
  up ([(SYS_MODE_MODE, 0, 3), (HST_STATUS_LINK_UP, 0, 1), (HST_SQ_CFG_EN, 1, 1), (HST_SQ_CFG_CQ, 1, 2), (HST_SQ_CFG_SIZE, 1, 4),
    (HST_CQ_CFG_EN, 2, 1), (HST_CQ_CFG_SIZE, 2, 4), (HST_CQ_STAT_TAIL, 2, 15), (HST_CQ_STAT_PHASE, 2, 1)] ++ r)

/-- The same with a command in flight. -/
def flying (r : List (RegField × Nat × Nat)) (c : HostCmd) : Dev := { linked r with host := { flight := [c] } }

/-- The same with the lanes in service. -/
def serving (r : List (RegField × Nat × Nat)) (c : HostCmd) : Dev :=
  flying ([(LN_STATUS_STATE, 0, 5), (LN_STATUS_STATE, 1, 5), (LN_STATUS_STATE, 2, 5)] ++ r) c

theorem witness_DoorbellAndFetch :
    (∃ (s : State), s.dev.rd HST_STATUS_LINK_UP = 0) ∧
    (∃ (s : State) (b : List Word32) (q : Nat), s.dev.rd HST_STATUS_LINK_UP ≠ 0 ∧ q < 16 ∧ s.dev.rd HST_SQ_CFG_EN q ≠ 0 ∧
      s.dev.rd HST_SQ_STAT_Q_ERR q = 0 ∧ (b.getD q 0).toNat % 4096 < sqSize s.dev q) ∧
    (∃ (s : State) (b : List Word32) (q : Nat), s.dev.rd HST_STATUS_LINK_UP ≠ 0 ∧ q < 16 ∧ s.dev.rd HST_SQ_CFG_EN q ≠ 0 ∧
      s.dev.rd HST_SQ_STAT_Q_ERR q = 0 ∧ sqSize s.dev q ≤ (b.getD q 0).toNat % 4096) ∧
    (∃ (s : State), (s.dev.rd HST_STATUS_LINK_UP = 0 ∨ nextSq s.dev = none)) ∧
    (∃ (s : State), (s.dev.rd HST_STATUS_LINK_UP = 0 ∨ nextSq s.dev = none)) ∧
    (∃ (s : State) (entry : List Byte) (q : Nat), s.dev.rd HST_STATUS_LINK_UP ≠ 0 ∧ nextSq s.dev = some q ∧ entry.length = 64 ∧
      (judge (onHost (s.dev.wr HST_SQ_STAT_HEAD q 0) fun h => { h with turn := 2 }) q entry = .rejected 0x01)) ∧
    (∃ (s : State) (entry : List Byte) (q : Nat), s.dev.rd HST_STATUS_LINK_UP ≠ 0 ∧ nextSq s.dev = some q ∧ entry.length = 64 ∧
      (judge (onHost (s.dev.wr HST_SQ_STAT_HEAD q 0) fun h => { h with turn := 2 }) q entry = .dup)) ∧
    (∃ (s : State) (entry : List Byte) (q : Nat), s.dev.rd HST_STATUS_LINK_UP ≠ 0 ∧ nextSq s.dev = some q ∧ entry.length = 64 ∧
      (judge (onHost (s.dev.wr HST_SQ_STAT_HEAD q 0) fun h => { h with turn := 2 }) q entry = .replay (List.replicate 64 3))) ∧
    (∃ (s : State) (entry : List Byte) (q : Nat), s.dev.rd HST_STATUS_LINK_UP ≠ 0 ∧ nextSq s.dev = some q ∧ entry.length = 64 ∧
      (judge (onHost (s.dev.wr HST_SQ_STAT_HEAD q 0) fun h => { h with turn := 2 }) q entry = .admitted 3) ∧ stewards s.dev = 0) ∧
    (∃ (s : State) (entry : List Byte) (q : Nat), s.dev.rd HST_STATUS_LINK_UP ≠ 0 ∧ nextSq s.dev = some q ∧ entry.length = 64 ∧
      (judge (onHost (s.dev.wr HST_SQ_STAT_HEAD q 0) fun h => { h with turn := 2 }) q entry = .admitted 0) ∧
      indexByte (bodyAt entry 0) entry = some 16 ∧ (armOf s.dev (bodyAt entry 16)).run.isSome = true) :=
  ⟨⟨stOf (up []), by decide +kernel⟩,
   ⟨stOf (linked []), [0, 4096 + 15], 1, by decide +kernel⟩,
   ⟨stOf (linked []), [0, 16], 1, by decide +kernel⟩,
   ⟨stOf (up []), by decide +kernel⟩,
   ⟨stOf (linked []), by decide +kernel⟩,
   ⟨stOf ({ linked [(HST_SQ_STAT_HEAD, 1, 15)] with host := { heads := [(2, 3)], tails := [(1, 3)] } }), List.replicate 64 (0 : Byte), 1,
     by decide +kernel⟩,
   ⟨stOf ({ linked [(HST_SQ_STAT_HEAD, 1, 15)] with host := { heads := [(2, 3)], tails := [(1, 3)], flight := [hostCmd 0x02 3 []] } }),
     [2, 3, 0, 0, 7] ++ List.replicate 59 (0 : Byte), 1, by decide +kernel⟩,
   ⟨stOf ({ linked [(HST_SQ_STAT_HEAD, 1, 15)] with host := { heads := [(2, 3)], tails := [(1, 3)], store := [(1, [⟨7, crc32c ([2, 3, 0, 0, 7] ++ List.replicate 59 (0 : Byte)), List.replicate 64 (3 : Byte)⟩])] } }),
     [2, 3, 0, 0, 7] ++ List.replicate 59 (0 : Byte), 1, by decide +kernel⟩,
   ⟨stOf ({ linked [(HST_SQ_STAT_HEAD, 1, 15)] with host := { heads := [(2, 3)], tails := [(1, 3)] } }),
     [2, 3, 0, 0, 7] ++ List.replicate 59 (0 : Byte), 1, by decide +kernel⟩,
   ⟨stOf ({ linked [(HST_SQ_STAT_HEAD, 1, 15)] with host := { heads := [(2, 3)], tails := [(1, 3)] }, pln := { limits := [(35, [⟨f64Zero, f64Zero, f64Zero, f64Zero, f64Zero, f64Zero, f64Zero, 0, 0, 0, 0, 0⟩])], arms := [(35, { run := some { cmd := { sq := 0, rsn := 0, opcode := 0x10, body := [], pct := 100, limset := 0, order := 0 }, start := 0, zero := 0 } })] } }),
     [0x10, 0, 0, 0, 7, 0, 0, 0, 0, 0, 0, 0, 0, 0, 0, 0, 35, 0, 100] ++ List.replicate 45 (0 : Byte), 1, by decide +kernel⟩⟩

theorem witness_ReportingCommands :
    (∃ (s : State) (sq : Fin 17) (rsn : Word32) (c : HostCmd), s.dev.owes sq rsn.toNat 0x02 c) ∧
    (∃ (s : State) (sq : Fin 17) (rsn : Word32) (c : HostCmd), s.dev.owes sq rsn.toNat 0x03 c) ∧
    (∃ (s : State) (sq : Fin 17) (rsn : Word32) (c : HostCmd), s.dev.owes sq rsn.toNat 0x04 c) ∧
    (∃ (s : State) (sq : Fin 17) (rsn : Word32) (c : HostCmd), s.dev.owes sq rsn.toNat 0x01 c ∧
      inFlight s.dev (bodyAt c.body 0) (body32 c.body 4) = none) ∧
    (∃ (s : State) (sq : Fin 17) (rsn : Word32) (c t : HostCmd), s.dev.owes sq rsn.toNat 0x01 c ∧
      inFlight s.dev (bodyAt c.body 0) (body32 c.body 4) = some t ∧ cancelPlan s.dev (bodyAt c.body 0) (body32 c.body 4) = none ∧
      (t.cls = 0 ∨ t.begun = true ∨ t.own = false ∨ (bodyAt c.body 0 = sq ∧ body32 c.body 4 = rsn.toNat))) ∧
    (∃ (s : State) (sq : Fin 17) (rsn : Word32) (c t : HostCmd), s.dev.owes sq rsn.toNat 0x01 c ∧
      inFlight s.dev (bodyAt c.body 0) (body32 c.body 4) = some t ∧ cancelPlan s.dev (bodyAt c.body 0) (body32 c.body 4) = none ∧ t.cls ≠ 0 ∧
      t.begun = false ∧ t.own = true ∧ t.parts = [] ∧ t.answer = none ∧ (¬ (bodyAt c.body 0 = sq ∧ body32 c.body 4 = rsn.toNat))) ∧
    (∃ (s : State) (sq : Fin 17) (rsn : Word32) (c t : HostCmd) (a : Nat), s.dev.owes sq rsn.toNat 0x01 c ∧
      inFlight s.dev (bodyAt c.body 0) (body32 c.body 4) = some t ∧ t.parts = [] ∧
      ((List.range 36).find? (fun a => (armOf s.dev a).queue.any fun x => decide (x.sq = bodyAt c.body 0 ∧ x.rsn = body32 c.body 4)) = some a)) ∧
    (∃ (s : State) (sq : Fin 17) (rsn : Word32), flightOp s.dev sq rsn.toNat 0x01 = none) ∧
    (∃ (s : State) (sq : Fin 17) (rsn : Word32), flightOp s.dev sq rsn.toNat 0x02 = none) ∧
    (∃ (s : State) (sq : Fin 17) (rsn : Word32), flightOp s.dev sq rsn.toNat 0x03 = none) ∧
    (∃ (s : State) (sq : Fin 17) (rsn : Word32), flightOp s.dev sq rsn.toNat 0x04 = none) :=
  ⟨⟨stOf (flying [] (hostCmd 0x02 3 [])), 1, 7, hostCmd 0x02 3 [], by unfold Dev.owes; decide +kernel⟩,
   ⟨stOf (flying [] (hostCmd 0x03 3 [0, 0, 0, 0, 0, 0, 0, 0, 1])), 1, 7, hostCmd 0x03 3 [0, 0, 0, 0, 0, 0, 0, 0, 1],
     by unfold Dev.owes; decide +kernel⟩,
   ⟨stOf ({ flying [] (hostCmd 0x04 3 [0, 0, 0, 0, 1, 0, 0, 0, 2]) with log := { recs := [⟨1, 2, 3, 4, 1, 0, 0, 0⟩, ⟨1, 2, 3, 4, 2, 0, 0, 0⟩, ⟨1, 2, 3, 4, 3, 0, 0, 0⟩], seq := 3 } }),
     1, 7, hostCmd 0x04 3 [0, 0, 0, 0, 1, 0, 0, 0, 2], by unfold Dev.owes; decide +kernel⟩,
   ⟨stOf (flying [] (hostCmd 0x01 1 [1, 0, 0, 0, 8])), 1, 7, hostCmd 0x01 1 [1, 0, 0, 0, 8],
     ⟨by unfold Dev.owes; decide +kernel, by decide +kernel⟩⟩,
   ⟨stOf ({ linked [] with host := { flight := [hostCmd 0x01 1 [1, 0, 0, 0, 8], { hostCmd 0x02 3 [] with rsn := 8, begun := true }] } }),
     1, 7, hostCmd 0x01 1 [1, 0, 0, 0, 8], { hostCmd 0x02 3 [] with rsn := 8, begun := true },
     ⟨by unfold Dev.owes; decide +kernel, by decide +kernel⟩⟩,
   ⟨stOf ({ linked [] with host := { flight := [hostCmd 0x01 1 [1, 0, 0, 0, 8], { hostCmd 0x02 3 [] with rsn := 8 }] } }), 1, 7,
     hostCmd 0x01 1 [1, 0, 0, 0, 8], { hostCmd 0x02 3 [] with rsn := 8 }, ⟨by unfold Dev.owes; decide +kernel, by decide +kernel⟩⟩,
   ⟨stOf ({ linked [] with host := { flight := [hostCmd 0x01 1 [1, 0, 0, 0, 8], { hostCmd 0x10 0 [35] with rsn := 8 }] }, pln := { arms := [(35, { queue := [{ sq := 1, rsn := 8, opcode := 0x10, body := [35], pct := 100, limset := 0, order := 0 }] })] } }),
     1, 7, hostCmd 0x01 1 [1, 0, 0, 0, 8], { hostCmd 0x10 0 [35] with rsn := 8 }, 35,
     ⟨by unfold Dev.owes; decide +kernel, by decide +kernel⟩⟩,
   ⟨stOf (up []), 0, 0, by decide +kernel⟩,
   ⟨stOf (up []), 0, 0, by decide +kernel⟩,
   ⟨stOf (up []), 0, 0, by decide +kernel⟩,
   ⟨stOf (up []), 0, 0, by decide +kernel⟩⟩

theorem witness_ActingCommands :
    (∃ (s : State) (sq : Fin 17) (rsn : Word32) (c : HostCmd) (l : Lane), s.dev.owes sq rsn.toNat 0x08 c ∧ l ∈ serviceLanes s.dev ∧
      bodyAt c.body 0 = 1) ∧
    (∃ (s : State) (sq : Fin 17) (rsn : Word32) (c : HostCmd) (l : Lane), s.dev.owes sq rsn.toNat 0x08 c ∧ l ∈ serviceLanes s.dev ∧
      bodyAt c.body 0 ≠ 1) ∧
    (∃ (s : State) (sq : Fin 17) (rsn : Word32) (c : HostCmd) (i u : Nat) (l : Lane), s.dev.owes sq rsn.toNat 0x09 c ∧
      l ∈ serviceLanes s.dev ∧ unitTargets s.dev c.body = [(i, .own u)] ∧ i < 32 ∧ u < 32 ∧ bodyAt c.body 4 = 1) ∧
    (∃ (s : State) (sq : Fin 17) (rsn : Word32) (c : HostCmd) (i u : Nat) (l : Lane), s.dev.owes sq rsn.toNat 0x09 c ∧
      l ∈ serviceLanes s.dev ∧ unitTargets s.dev c.body = [(i, .own u)] ∧ i < 32 ∧ u < 32 ∧ bodyAt c.body 4 ≠ 1) ∧
    (∃ (s : State) (sq : Fin 17) (rsn : Word32) (c : HostCmd) (l : Lane), s.dev.owes sq rsn.toNat 0x0A c ∧ l ∈ serviceLanes s.dev) ∧
    (∃ (s : State) (sq : Fin 17) (rsn : Word32) (c : HostCmd), s.dev.owes sq rsn.toNat 0x40 c) ∧
    (∃ (s : State) (c : HostCmd) (img : FwImage), flightFirst s.dev 0x40 = some c ∧ c.parts = [] ∧ c.answer = none ∧
      inFlight s.dev c.sq c.rsn = some c ∧ s.dev.host.fwComing = some (img, false)) ∧
    (∃ (s : State) (c : HostCmd) (img : FwImage), flightFirst s.dev 0x40 = some c ∧ c.parts = [] ∧ c.answer = none ∧
      inFlight s.dev c.sq c.rsn = some c ∧ s.dev.host.fwComing = some (img, true)) ∧
    (∃ (s : State), s.dev.host.fwComing = none) ∧
    (∃ (s : State) (sq : Fin 17) (rsn : Word32) (c : HostCmd), s.dev.owes sq rsn.toNat 0x41 c) ∧
    (∃ (s : State) (c : HostCmd) (slot : Nat) (y : FwSlot), s.dev.host.fwVerify = true ∧ flightFirst s.dev 0x41 = some c ∧ c.parts = [] ∧
      c.answer = none ∧ inFlight s.dev c.sq c.rsn = some c ∧ s.dev.host.fwLoaded = some slot ∧
      (if slot = 0 then s.dev.flash.fw0 else s.dev.flash.fw1) = some y) ∧
    (∃ (s : State), s.dev.host.fwVerify = false) ∧
    (∃ (s : State) (sq : Fin 17) (rsn : Word32) (c : HostCmd), s.dev.owes sq rsn.toNat 0x42 c) ∧
    (∃ (s : State) (p : Package) (c : HostCmd), s.dev.pkg.checking = some p ∧ flightFirst s.dev 0x42 = some c ∧ c.parts = [] ∧
      c.answer = none ∧ inFlight s.dev c.sq c.rsn = some c ∧ s.dev.rd PWR_STATUS_SHARED_UP ≠ 0 ∧ s.dev.host.pkgCrcOk = false) ∧
    (∃ (s : State) (p : Package) (c : HostCmd), s.dev.pkg.checking = some p ∧ flightFirst s.dev 0x42 = some c ∧ c.parts = [] ∧
      c.answer = none ∧ inFlight s.dev c.sq c.rsn = some c ∧ s.dev.rd PWR_STATUS_SHARED_UP ≠ 0 ∧ s.dev.host.pkgCrcOk = true ∧
      packageResult s.dev p = .laneSplit) ∧
    (∃ (s : State), s.dev.pkg.checking = none) ∧
    (∃ (s : State) (sq : Fin 17) (rsn : Word32) (c : HostCmd), s.dev.owes sq rsn.toNat 0x43 c) ∧
    (∃ (s : State) (t : Int), s.dev.host.resetDue = some t ∧ s.dev.tb.ext < t ∧ s.dev.tb.ticking = true) ∧
    (∃ (s : State), s.dev.host.resetDue = none) :=
  ⟨⟨stOf (serving [(SYS_MODE_MODE, 0, 2)] (hostCmd 0x08 1 [1])), 1, 7, hostCmd 0x08 1 [1], .b,
     ⟨by unfold Dev.owes; decide +kernel, by decide +kernel⟩⟩,
   ⟨stOf (serving [] (hostCmd 0x08 1 [0])), 1, 7, hostCmd 0x08 1 [0], .b, ⟨by unfold Dev.owes; decide +kernel, by decide +kernel⟩⟩,
   ⟨stOf (serving [] (hostCmd 0x09 1 [0, 0, 0, 128, 1])), 1, 7, hostCmd 0x09 1 [0, 0, 0, 128, 1], 31, 31, .b,
     ⟨by unfold Dev.owes; decide +kernel, by decide +kernel⟩⟩,
   ⟨stOf (serving [] (hostCmd 0x09 1 [0, 0, 0, 128, 0])), 1, 7, hostCmd 0x09 1 [0, 0, 0, 128, 0], 31, 31, .b,
     ⟨by unfold Dev.owes; decide +kernel, by decide +kernel⟩⟩,
   ⟨stOf (serving [] (hostCmd 0x0A 1 [15])), 1, 7, hostCmd 0x0A 1 [15], .b, ⟨by unfold Dev.owes; decide +kernel, by decide +kernel⟩⟩,
   ⟨stOf ({ flying [] (hostCmd 0x40 4 []) with flash := { fw1 := some ⟨{ version := 1, len := 1 }, true⟩ } }), 1, 7, hostCmd 0x40 4 [],
     by unfold Dev.owes; decide +kernel⟩,
   ⟨stOf ({ linked [] with host := { flight := [hostCmd 0x40 4 []], fwComing := some ({ version := 1, len := 2 }, false) } }),
     hostCmd 0x40 4 [], { version := 1, len := 2 }, by decide +kernel⟩,
   ⟨stOf ({ linked [] with host := { flight := [hostCmd 0x40 4 []], fwComing := some ({ version := 1, len := 2 }, true) } }),
     hostCmd 0x40 4 [], { version := 1, len := 2 }, by decide +kernel⟩,
   ⟨stOf (up []), by decide +kernel⟩,
   ⟨stOf (flying [] (hostCmd 0x41 4 [])), 1, 7, hostCmd 0x41 4 [], by unfold Dev.owes; decide +kernel⟩,
   ⟨stOf ({ linked [] with host := { flight := [hostCmd 0x41 4 []], fwVerify := true, fwLoaded := some 1 }, flash := { fw1 := some ⟨{ version := 1, len := 1 }, false⟩ } }),
     hostCmd 0x41 4 [], 1, ⟨{ version := 1, len := 1 }, false⟩, by decide +kernel⟩,
   ⟨stOf (up []), by decide +kernel⟩,
   ⟨stOf (flying [] (hostCmd 0x42 4 [])), 1, 7, hostCmd 0x42 4 [], by unfold Dev.owes; decide +kernel⟩,
   ⟨stOf ({ linked [] with host := { flight := [hostCmd 0x42 4 []], pkgCrcOk := false }, pkg := { checking := some {} } }), {},
     hostCmd 0x42 4 [], by decide +kernel⟩,
   ⟨stOf ({ linked [] with host := { flight := [hostCmd 0x42 4 []] }, pkg := { checking := some {} } }), {}, hostCmd 0x42 4 [],
     by decide +kernel⟩,
   ⟨stOf (up []), by decide +kernel⟩,
   ⟨stOf (flying [] (hostCmd 0x43 4 [])), 1, 7, hostCmd 0x43 4 [], by unfold Dev.owes; decide +kernel⟩,
   ⟨stOf ({ up [] with host := { resetDue := some 1000000 }, tb := { ticking := true, ext := 999999 } }), 1000000, by decide +kernel⟩,
   ⟨stOf (up []), by decide +kernel⟩⟩

theorem witness_QueuesAndLink :
    (∃ (s : State) (m : Master) (q : Fin 16), s.dev.takes m (0xA108 + 16 * q) (HST_STATUS_BUSY, 0) ∧ s.dev.rd HST_SQ_CFG_EN q = 0 ∧
      s.dev.rd HST_CQ_CFG_EN (s.dev.rd HST_SQ_CFG_CQ q) ≠ 0) ∧
    (∃ (s : State) (m : Master) (q : Fin 16), s.dev.takes m (0xA108 + 16 * q) (HST_STATUS_BUSY, 0) ∧ s.dev.rd HST_SQ_CFG_EN q = 0 ∧
      s.dev.rd HST_CQ_CFG_EN (s.dev.rd HST_SQ_CFG_CQ q) ≠ 0) ∧
    (∃ (s : State) (m : Master) (q : Fin 16), s.dev.takes m (0xA108 + 16 * q) (HST_STATUS_BUSY, 0) ∧ s.dev.rd HST_SQ_CFG_EN q = 0 ∧
      s.dev.rd HST_CQ_CFG_EN (s.dev.rd HST_SQ_CFG_CQ q) = 0) ∧
    (∃ (s : State) (m : Master) (q : Fin 16), s.dev.takes m (0xA108 + 16 * q) (HST_STATUS_BUSY, 0)) ∧
    (∃ (s : State) (m : Master) (q : Fin 16), s.dev.takes m (0xA208 + 16 * q) (HST_STATUS_BUSY, 0) ∧ s.dev.rd HST_CQ_CFG_EN q = 0) ∧
    (∃ (s : State) (m : Master) (q : Fin 16), s.dev.takes m (0xA208 + 16 * q) (HST_STATUS_BUSY, 0) ∧
      ((∃ k, k < 16 ∧ s.dev.rd HST_SQ_CFG_EN k ≠ 0 ∧ s.dev.rd HST_SQ_CFG_CQ k = q.val) ∨ (∃ c ∈ s.dev.host.flight, c.cq = some q.val))) ∧
    (∃ (s : State) (m : Master) (q : Fin 16), s.dev.takes m (0xA208 + 16 * q) (HST_STATUS_BUSY, 0) ∧
      ((∃ k, k < 16 ∧ s.dev.rd HST_SQ_CFG_EN k ≠ 0 ∧ s.dev.rd HST_SQ_CFG_CQ k = q.val) ∨ (∃ c ∈ s.dev.host.flight, c.cq = some q.val))) ∧
    (∃ (s : State) (m : Master) (q : Fin 16), s.dev.takes m (0xA208 + 16 * q) (HST_STATUS_BUSY, 0) ∧
      (∀ k, k < 16 → s.dev.rd HST_SQ_CFG_EN k = 0 ∨ s.dev.rd HST_SQ_CFG_CQ k ≠ q.val) ∧ (∀ c ∈ s.dev.host.flight, c.cq ≠ some q.val)) ∧
    (∃ (s : State) (m : Master), s.dev.takes m 0xA028 (HST_STATUS_BUSY, 0) ∧ s.dev.rd HST_EVQ_CFG_EN = 0) ∧
    (∃ (s : State) (m : Master), s.dev.takes m 0xA028 (HST_STATUS_BUSY, 0)) ∧
    (∃ (s : State) (r : EventRec), s.dev.rd HST_EVQ_CFG_EN ≠ 0 ∧ s.dev.rd HST_STATUS_LINK_UP ≠ 0 ∧ evFull s.dev = false ∧
      nextRecord s.dev = some r) ∧
    (∃ (s : State) (r : EventRec), s.dev.rd HST_EVQ_CFG_EN ≠ 0 ∧ s.dev.rd HST_STATUS_LINK_UP ≠ 0 ∧ evFull s.dev = false ∧
      nextRecord s.dev = some r) ∧
    (∃ (s : State), (s.dev.rd HST_EVQ_CFG_EN = 0 ∨ s.dev.rd HST_STATUS_LINK_UP = 0 ∨ evFull s.dev = true ∨ nextRecord s.dev = none)) ∧
    (∃ (s : State), s.dev.rd HST_CFG_HINT_EN ≠ 0 ∧ s.dev.host.wrote = true ∧ s.dev.host.lastMsg = none ∧ s.dev.rd HST_STATUS_LINK_UP ≠ 0) ∧
    (∃ (s : State) (u : Bool) (t : Int), (s.dev.rd HST_CFG_HINT_EN = 0 ∨ s.dev.host.wrote = false ∨ u = false ∨ (s.dev.host.lastMsg = some t ∧ s.dev.tb.ext < t + 1000 * s.dev.rd HST_CFG_HINT_US))) ∧
    (∃ (s : State), s.dev.rd PWR_STATUS_SHARED_UP ≠ 0) ∧
    (∃ (s : State), s.dev.rd HST_STATUS_LINK_UP = 0 ∧ s.dev.rd PWR_STATUS_SHARED_UP ≠ 0) ∧
    (∃ (s : State), s.dev.rd HST_STATUS_LINK_UP ≠ 0) :=
  ⟨⟨stOf ({ linked [(HST_SQ_CFG_EN, 15, 0), (HST_SQ_CFG_CQ, 15, 2), (HST_SQ_STAT_Q_ERR, 15, 1)] with host := { tails := [(15, 3)], store := [(15, [⟨7, 8, []⟩])] } }),
     .hostBar0, 15, ⟨takes_of (by decide +kernel), by decide +kernel⟩⟩,
   ⟨stOf ({ linked [(HST_SQ_CFG_CQ, 15, 2)] with host := { tails := [(15, 3)], store := [(15, [⟨7, 8, []⟩])] } }), .hostBar0, 15,
     ⟨takes_of (by decide +kernel), by decide +kernel⟩⟩,
   ⟨stOf (linked [(HST_SQ_CFG_CQ, 15, 3)]), .hostBar0, 15, ⟨takes_of (by decide +kernel), by decide +kernel⟩⟩,
   ⟨stOf (linked []), .hostBar0, 1, takes_of (by decide +kernel)⟩,
   ⟨stOf ({ linked [(HST_CQ_STAT_Q_ERR, 15, 1), (HST_CQ_STAT_TAIL, 15, 3)] with host := { heads := [(15, 3)] } }), .hostBar0, 15,
     ⟨takes_of (by decide +kernel), by decide +kernel⟩⟩,
   ⟨stOf (linked []), .hostBar0, 2, ⟨takes_of (by decide +kernel), .inl ⟨1, by decide +kernel⟩⟩⟩,
   ⟨stOf ({ linked [(HST_SQ_CFG_EN, 1, 0)] with host := { flight := [hostCmd 0x02 3 []] } }), .hostBar0, 2,
     ⟨takes_of (by decide +kernel), .inr (by decide +kernel)⟩⟩,
   ⟨stOf (linked [(HST_SQ_CFG_EN, 1, 0)]), .hostBar0, 2, ⟨takes_of (by decide +kernel), by decide +kernel⟩⟩,
   ⟨stOf ({ linked [(HST_EVQ_STAT_TAIL, 0, 5)] with host := { evHead := 4, evPhase := false } }), .hostBar0,
     ⟨takes_of (by decide +kernel), by decide +kernel⟩⟩,
   ⟨stOf (linked [(HST_EVQ_CFG_EN, 0, 1)]), .hostBar0, takes_of (by decide +kernel)⟩,
   ⟨stOf ({ linked [(HST_EVQ_CFG_EN, 0, 1), (HST_EVQ_CFG_SIZE, 0, 4), (HST_EVQ_STAT_TAIL, 0, 15)] with host := { evHead := 4, copied := 1 }, log := { recs := [⟨1, 2, 3, 4, 1, 0, 0, 0⟩, ⟨1, 2, 3, 4, 5, 0, 0, 0⟩], seq := 5 } }),
     ⟨1, 2, 3, 4, 5, 0, 0, 0⟩, by decide +kernel⟩,
   ⟨stOf ({ linked [(HST_EVQ_CFG_EN, 0, 1), (HST_EVQ_CFG_SIZE, 0, 4), (HST_EVQ_STAT_TAIL, 0, 14)] with host := { evHead := 4, copied := 1 }, log := { recs := [⟨1, 2, 3, 4, 2, 0, 0, 0⟩, ⟨1, 2, 3, 4, 5, 0, 0, 0⟩], seq := 5 } }),
     ⟨1, 2, 3, 4, 2, 0, 0, 0⟩, by decide +kernel⟩,
   ⟨stOf (linked []), by decide +kernel⟩,
   ⟨stOf ({ linked [(HST_CFG_HINT_EN, 0, 1)] with host := { wrote := true } }), by decide +kernel⟩,
   ⟨stOf ({ linked [(HST_CFG_HINT_EN, 0, 1), (HST_CFG_HINT_US, 0, 50)] with host := { wrote := true, lastMsg := some 10 }, tb := { ext := 50009 } }),
     true, 10, by decide +kernel⟩,
   ⟨stOf ({ flying [] (hostCmd 0x02 3 []) with free := 0 }), by decide +kernel⟩,
   ⟨stOf (up []), by decide +kernel⟩,
   ⟨stOf (linked []), by decide +kernel⟩⟩

/-- The supervisor runs and all three lanes are in service. -/
def powered (r : List (RegField × Nat × Nat)) (p : PowerState) : Dev :=
  { up ([(PWR_STATUS_LANE_UP, 0, 7), (PWR_STATUS_CONV_OK, 0, 7), (PWR_SUP_STAT_CONV_RUN, 0, 1), (PWR_SUP_STAT_CONV_RUN, 1, 1),
      (LN_STATUS_STATE, 0, 5), (LN_STATUS_STATE, 1, 5), (LN_STATUS_STATE, 2, 5), (SYS_MODE_MODE, 0, 3)] ++ r) with pwr := { p with active := true } }

/-- The same with the debug port's cell given. -/
def cellOf (v : Nat) (r : List (RegField × Nat × Nat)) (p : PowerState) : Dev :=
  { powered r p with regs := ⟨PWR_OTP_STAT_DBG_DISABLE, 0, v⟩ :: (powered r p).regs }

/-- A configuration whose package waits, in a device with all lanes in service. -/
def waits (r : List (RegField × Nat × Nat)) (m : Nat) (c : SafetyConfig) : Dev :=
  { up ([(SYS_MODE_MODE, 0, m), (LN_STATUS_STATE, 0, 5), (LN_STATUS_STATE, 1, 5), (LN_STATUS_STATE, 2, 5), (BLF_FRAME_NO_NO, 0, 8)] ++ r) with
    pkg := { waiting := some { image := { params := c } } },
    lanes :=
      let x : LaneState := { saf := { units := (List.range 32).map fun u => (u, { disabled := true, disabledFr := 16 }) } }
      ⟨x, x, x⟩ }

theorem witness_SuppliesAndConverters :
    (∃ (s : State) (p : PerLane Bool) (l : Lane), s.dev.pwr.active = false ∧ p.get l = true) ∧
    (∃ (s : State) (p : PerLane Bool), (s.dev.pwr.active = true ∨ (∀ l, p.get l = false))) ∧
    (∃ (s : State) (p : PerLane Bool), (s.dev.pwr.active = true ∨ (∀ l, p.get l = false))) ∧
    (∃ (s : State) (l : Lane), s.dev.pwr.active = true ∧ s.dev.rd PWR_SUP_STAT_CONV_RUN l.idx = 0 ∧
      s.dev.rd PWR_SUP_STAT_CONV_FAULT l.idx = 0) ∧
    (∃ (s : State) (l : Lane), (s.dev.pwr.active = false ∨ s.dev.rd PWR_SUP_STAT_CONV_RUN l.idx ≠ 0 ∨ s.dev.rd PWR_SUP_STAT_CONV_FAULT l.idx ≠ 0)) ∧
    (∃ (s : State) (l : Lane), (s.dev.pwr.active = false ∨ s.dev.rd PWR_SUP_STAT_CONV_RUN l.idx ≠ 0 ∨ s.dev.rd PWR_SUP_STAT_CONV_FAULT l.idx ≠ 0)) ∧
    (∃ (s : State) (l : Lane), (s.dev.pwr.active = false ∨ s.dev.rd PWR_SUP_STAT_CONV_RUN l.idx ≠ 0 ∨ s.dev.rd PWR_SUP_STAT_CONV_FAULT l.idx ≠ 0)) ∧
    (∃ (s : State) (l : Lane), s.dev.rd PWR_SUP_STAT_CONV_RUN l.idx ≠ 0) ∧
    (∃ (s : State) (l : Lane), s.dev.rd PWR_SUP_STAT_CONV_RUN l.idx = 0) ∧
    (∃ (s : State) (l m : Lane), s.dev.rd PWR_SUP_STAT_CONV_RUN l.idx ≠ 0 ∧ m ≠ l ∧ s.dev.rd PWR_SUP_STAT_CONV_RUN m.idx ≠ 0) ∧
    (∃ (s : State) (l : Lane), s.dev.rd PWR_SUP_STAT_CONV_RUN l.idx ≠ 0 ∧ (∀ m, m ≠ l → s.dev.rd PWR_SUP_STAT_CONV_RUN m.idx = 0) ∧
      s.dev.rd PWR_STATUS_SHARED_UP ≠ 0) ∧
    (∃ (s : State) (l : Lane), s.dev.pwr.active = true ∧ s.dev.rd PWR_SUP_STAT_WARN l.idx = 0 ∧ s.dev.rd PWR_STATUS_SHARED_UP ≠ 0) ∧
    (∃ (s : State) (l : Lane), (s.dev.pwr.active = false ∨ s.dev.rd PWR_SUP_STAT_WARN l.idx ≠ 0)) ∧
    (∃ (s : State) (l : Lane), (s.dev.pwr.active = false ∨ s.dev.rd PWR_SUP_STAT_WARN l.idx ≠ 0)) ∧
    (∃ (s : State) (l : Lane), s.dev.rd PWR_SUP_STAT_WARN l.idx ≠ 0 ∧ s.dev.rd PWR_STATUS_SHARED_UP ≠ 0) ∧
    (∃ (s : State) (l : Lane), s.dev.rd PWR_SUP_STAT_WARN l.idx = 0) ∧
    (∃ (s : State) (l : Lane), s.dev.pwr.active = true ∧ 4 ∉ heldBy s.dev l.idx ∧ (s.dev.rd PWR_STATUS_LANE_UP).testBit l.idx = true) ∧
    (∃ (s : State) (l : Lane), (s.dev.pwr.active = false ∨ 4 ∈ heldBy s.dev l.idx)) ∧
    (∃ (s : State) (l : Lane), (s.dev.pwr.active = false ∨ 4 ∈ heldBy s.dev l.idx)) ∧
    (∃ (s : State), s.dev.pwr.active = true) :=
  ⟨⟨stOf (dev []), ⟨false, true, false⟩, .b, by decide +kernel⟩,
   ⟨stOf (powered [] {}), ⟨true, true, true⟩, .inl (by decide +kernel)⟩,
   ⟨stOf (dev []), ⟨false, false, false⟩, .inr (fun l => by cases l <;> decide +kernel)⟩,
   ⟨stOf ({ dev [] with pwr := { active := true, held := [(2, [4])] } }), .c, by decide +kernel⟩,
   ⟨stOf (dev []), .c, by decide +kernel⟩,
   ⟨stOf (powered [] {}), .b, by decide +kernel⟩,
   ⟨stOf (powered [(PWR_SUP_STAT_CONV_FAULT, 2, 1)] {}), .c, by decide +kernel⟩,
   ⟨stOf (powered [(PWR_STATUS_CONV_OK, 0, 5)] {}), .b, by decide +kernel⟩,
   ⟨stOf (powered [] {}), .c, by decide +kernel⟩,
   ⟨stOf (powered [] {}), .a, .b, by decide +kernel⟩,
   ⟨stOf (powered [(PWR_SUP_STAT_CONV_RUN, 1, 0)] {}), .a,
     ⟨by decide +kernel, fun m hm => by cases m <;> first | exact absurd rfl hm | decide +kernel, by decide +kernel⟩⟩,
   ⟨stOf (powered [(PWR_SUP_CNT_WARN, 2, 255)] {}), .c, by decide +kernel⟩,
   ⟨stOf (powered [(PWR_SUP_STAT_WARN, 2, 1)] {}), .c, by decide +kernel⟩,
   ⟨stOf (dev []), .c, by decide +kernel⟩,
   ⟨stOf (powered [(PWR_SUP_STAT_WARN, 2, 1)] {}), .c, by decide +kernel⟩,
   ⟨stOf (powered [] {}), .c, by decide +kernel⟩,
   ⟨stOf (powered [] {}), .c, by decide +kernel⟩,
   ⟨stOf (powered [] { held := [(2, [4])] }), .c, by decide +kernel⟩,
   ⟨stOf (dev []), .c, by decide +kernel⟩,
   ⟨stOf (powered [(PWR_SUP_STAT_IN_RESET, 2, 1)] { held := [(2, [4, 6])] }), by decide +kernel⟩⟩

theorem witness_ResetsAndReleases :
    (∃ (s : State), s.dev.pwr.active = true) ∧
    (∃ (s : State), s.dev.pwr.active = false) ∧
    (∃ (s : State) (t : Int), s.dev.host.resetDue = some t ∧ (t ≤ s.dev.tb.ext ∨ s.dev.tb.ticking = false)) ∧
    (∃ (s : State) (t : Int), s.dev.host.resetDue = some t ∧ (t ≤ s.dev.tb.ext ∨ s.dev.tb.ticking = false)) ∧
    (∃ (s : State) (l : Lane), s.dev.pwr.active = true ∧ s.dev.rd PWR_STATUS_SHARED_UP = 0 ∧ convOk s.dev l = true ∧ heldBy s.dev 3 = []) ∧
    (∃ (s : State), (s.dev.pwr.active = false ∨ s.dev.rd PWR_STATUS_SHARED_UP ≠ 0 ∨ (∀ l, convOk s.dev l = false) ∨ heldBy s.dev 3 ≠ [])) ∧
    (∃ (s : State), (s.dev.pwr.active = false ∨ s.dev.rd PWR_STATUS_SHARED_UP ≠ 0 ∨ (∀ l, convOk s.dev l = false) ∨ heldBy s.dev 3 ≠ [])) ∧
    (∃ (s : State), (s.dev.pwr.active = false ∨ s.dev.rd PWR_STATUS_SHARED_UP ≠ 0 ∨ (∀ l, convOk s.dev l = false) ∨ heldBy s.dev 3 ≠ [])) ∧
    (∃ (s : State), (s.dev.pwr.active = false ∨ s.dev.rd PWR_STATUS_SHARED_UP ≠ 0 ∨ (∀ l, convOk s.dev l = false) ∨ heldBy s.dev 3 ≠ [])) ∧
    (∃ (s : State) (l : Lane), s.dev.rd PWR_STATUS_SHARED_UP ≠ 0 ∧ convOk s.dev l = true ∧ heldBy s.dev l.idx = [] ∧
      laneMode s.dev l = .absent) ∧
    (∃ (s : State) (l : Lane), (s.dev.rd PWR_STATUS_SHARED_UP = 0 ∨ convOk s.dev l = false ∨ heldBy s.dev l.idx ≠ [] ∨ laneMode s.dev l ≠ .absent)) ∧
    (∃ (s : State) (l : Lane), (s.dev.rd PWR_STATUS_SHARED_UP = 0 ∨ convOk s.dev l = false ∨ heldBy s.dev l.idx ≠ [] ∨ laneMode s.dev l ≠ .absent)) ∧
    (∃ (s : State) (m : Master), s.dev.takes m 0xC038 (PWR_STATUS_BUSY, 0)) :=
  ⟨⟨stOf (powered [] {}), by decide +kernel⟩,
   ⟨stOf (dev []), by decide +kernel⟩,
   ⟨stOf ({ up [] with host := { resetDue := some 10 }, tb := { ticking := true, ext := 10 } }), 10,
     ⟨by decide +kernel, .inl (by decide +kernel)⟩⟩,
   ⟨stOf ({ up [] with host := { resetDue := some 10 }, tb := { ticking := false } }), 10, ⟨by decide +kernel, .inr (by decide +kernel)⟩⟩,
   ⟨stOf ({ dev [(PWR_STATUS_CONV_OK, 0, 4)] with pwr := { active := true, unwritten := [(1, 0)] } }), .c, by decide +kernel⟩,
   ⟨stOf (dev []), .inl (by decide +kernel)⟩,
   ⟨stOf (powered [] {}), .inr (.inl (by decide +kernel))⟩,
   ⟨stOf ({ dev [] with pwr := { active := true } }), .inr (.inr (.inl (fun l => by cases l <;> decide +kernel)))⟩,
   ⟨stOf ({ dev [(PWR_STATUS_CONV_OK, 0, 4)] with pwr := { active := true, held := [(3, [7])] } }), .inr (.inr (.inr (by decide +kernel)))⟩,
   ⟨stOf (powered [(PWR_STATUS_LANE_UP, 0, 3), (LN_STATUS_STATE, 2, 0)] {}), .c, by decide +kernel⟩,
   ⟨stOf (dev []), .c, by decide +kernel⟩,
   ⟨stOf (powered [] {}), .c, by decide +kernel⟩,
   ⟨stOf ({ powered [(PWR_RSTLOG_CAUSE, 15, 3), (PWR_RSTLOG_CAUSE, 0, 3)] { unwritten := [(1, 0)] } with free := 3 }), .hostBar0,
     takes_of (by decide +kernel)⟩⟩

theorem witness_ClocksAndTemperatures :
    (∃ (s : State) (k : Fin 13) (l : Lane), s.dev.pwr.active = true ∧ s.dev.pwr.rcStopped = false ∧ k.val ∉ s.dev.pwr.clkBad ∧
      laneOfDomain k = some l ∧ (s.dev.rd PWR_STATUS_LANE_UP).testBit l.idx = true ∧ 6 ∉ heldBy s.dev l.idx) ∧
    (∃ (s : State) (k : Fin 13), s.dev.pwr.active = true ∧ s.dev.pwr.rcStopped = false ∧ k.val ∉ s.dev.pwr.clkBad ∧ sharedDomain k = true ∧
      7 ∉ heldBy s.dev 3) ∧
    (∃ (s : State) (k : Fin 13), s.dev.pwr.active = true ∧ s.dev.pwr.rcStopped = false ∧ k.val ∉ s.dev.pwr.clkBad ∧ sharedDomain k = true ∧
      7 ∉ heldBy s.dev 3) ∧
    (∃ (s : State), s.dev.pwr.active = true ∧ s.dev.pwr.rcStopped = false ∧ 9 ∉ s.dev.pwr.clkBad ∧ s.dev.rd PWR_STATUS_SHARED_UP ≠ 0) ∧
    (∃ (s : State) (k : Fin 13), (s.dev.pwr.active = false ∨ s.dev.pwr.rcStopped = true ∨ k.val ∈ s.dev.pwr.clkBad)) ∧
    (∃ (s : State) (k : Fin 13), (s.dev.pwr.active = false ∨ s.dev.pwr.rcStopped = true ∨ k.val ∈ s.dev.pwr.clkBad)) ∧
    (∃ (s : State) (k : Fin 13), (s.dev.pwr.active = false ∨ s.dev.pwr.rcStopped = true ∨ k.val ∈ s.dev.pwr.clkBad)) ∧
    (∃ (s : State) (k : Fin 13) (l : Lane), s.dev.pwr.active = true ∧ s.dev.pwr.rcStopped = false ∧ k.val ∈ s.dev.pwr.clkBad ∧
      laneOfDomain k = some l ∧ (∀ j ∈ s.dev.pwr.clkBad, j ≠ k.val → laneOfDomain j ≠ some l) ∧ s.dev.rd PWR_STATUS_SHARED_UP ≠ 0) ∧
    (∃ (s : State) (k : Fin 13), s.dev.pwr.active = true ∧ s.dev.pwr.rcStopped = false ∧ k.val ∈ s.dev.pwr.clkBad ∧ sharedDomain k = true ∧
      (∀ j ∈ s.dev.pwr.clkBad, j ≠ k.val → sharedDomain j = false) ∧ heldBy s.dev 3 = [7]) ∧
    (∃ (s : State) (k : Fin 13), (s.dev.pwr.active = false ∨ s.dev.pwr.rcStopped = true ∨ k.val ∉ s.dev.pwr.clkBad)) ∧
    (∃ (s : State), s.dev.pwr.active = true ∧ s.dev.pwr.rcStopped = false ∧ s.dev.rd PWR_STATUS_SHARED_UP ≠ 0) ∧
    (∃ (s : State), (s.dev.pwr.active = false ∨ s.dev.pwr.rcStopped = true)) ∧
    (∃ (s : State), s.dev.pwr.active = true ∧ s.dev.pwr.warm = false ∧ s.dev.rd PWR_STATUS_SHARED_UP ≠ 0) ∧
    (∃ (s : State), (s.dev.pwr.active = false ∨ s.dev.pwr.warm = true)) ∧
    (∃ (s : State) (t : Fin 16) (l : Lane), s.dev.pwr.active = true ∧ t.val ∉ s.dev.pwr.hot ∧ laneOfSensor t = some l ∧
      8 ∉ heldBy s.dev l.idx ∧ (s.dev.rd PWR_STATUS_LANE_UP).testBit l.idx = true) ∧
    (∃ (s : State) (t : Fin 16), s.dev.pwr.active = true ∧ t.val ∉ s.dev.pwr.hot ∧ laneOfSensor t = none ∧ 9 ∉ heldBy s.dev 3) ∧
    (∃ (s : State) (t : Fin 16), (s.dev.pwr.active = false ∨ t.val ∈ s.dev.pwr.hot)) ∧
    (∃ (s : State), s.dev.pwr.active = true ∧ s.dev.pwr.rcStopped = false ∧ 9 ∉ heldBy s.dev 3) ∧
    (∃ (s : State), (s.dev.pwr.active = false ∨ s.dev.pwr.rcStopped = true)) :=
  ⟨⟨stOf (powered [] {}), 7, .c, by decide +kernel⟩,
   ⟨stOf (powered [] {}), 11, by decide +kernel⟩,
   ⟨stOf (powered [] {}), 1, by decide +kernel⟩,
   ⟨stOf (powered [] {}), by decide +kernel⟩,
   ⟨stOf (dev []), 12, by decide +kernel⟩,
   ⟨stOf (powered [] { clkBad := [12] }), 12, by decide +kernel⟩,
   ⟨stOf (powered [] { rcStopped := true }), 12, by decide +kernel⟩,
   ⟨stOf (powered [] { clkBad := [7, 5], held := [(2, [6, 4])] }), 7, .c, by decide +kernel⟩,
   ⟨stOf (powered [] { clkBad := [11], held := [(3, [7])] }), 11, by decide +kernel⟩,
   ⟨stOf (powered [] { rcStopped := true }), 12, by decide +kernel⟩,
   ⟨stOf (powered [] {}), by decide +kernel⟩,
   ⟨stOf (powered [] { rcStopped := true }), by decide +kernel⟩,
   ⟨stOf (powered [] {}), by decide +kernel⟩,
   ⟨stOf (powered [] { warm := true }), by decide +kernel⟩,
   ⟨stOf (powered [] {}), 8, .c, by decide +kernel⟩,
   ⟨stOf (powered [] {}), 15, by decide +kernel⟩,
   ⟨stOf (powered [] { hot := [15] }), 15, by decide +kernel⟩,
   ⟨stOf (powered [(PWR_UPTIME_LO_MS, 0, 4294967295)] {}), by decide +kernel⟩,
   ⟨stOf (powered [] { rcStopped := true }), by decide +kernel⟩⟩

theorem witness_DebugUnlock :
    (∃ (s : State), s.dev.pwr.active = true ∧ s.dev.rd PWR_DBG_STAT_LOCKOUT = 0 ∧ s.dev.rd PWR_OTP_STAT_DBG_DISABLE = 0) ∧
    (∃ (s : State), s.dev.pwr.active = true ∧ s.dev.rd PWR_DBG_STAT_LOCKOUT = 0 ∧ s.dev.rd PWR_OTP_STAT_DBG_DISABLE ≠ 0) ∧
    (∃ (s : State), (s.dev.pwr.active = false ∨ s.dev.rd PWR_DBG_STAT_LOCKOUT ≠ 0)) ∧
    (∃ (s : State) (n : BitVec 128), s.dev.pwr.active = true ∧ s.dev.rd PWR_DBG_STAT_LOCKOUT = 0 ∧ s.dev.rd PWR_OTP_STAT_DBG_DISABLE = 0 ∧
      s.dev.pwr.challenge = some n ∧ s.dev.rd PWR_STATUS_SHARED_UP ≠ 0) ∧
    (∃ (s : State) (n : BitVec 128), s.dev.pwr.active = true ∧ s.dev.rd PWR_DBG_STAT_LOCKOUT = 0 ∧ s.dev.rd PWR_OTP_STAT_DBG_DISABLE = 0 ∧
      s.dev.pwr.challenge = some n ∧ s.dev.rd PWR_STATUS_SHARED_UP ≠ 0 ∧ s.dev.rd PWR_DBG_STAT_UNLOCKED ≠ 0) ∧
    (∃ (s : State) (sc : DebugScope) (v : BitVec 128) (late : Bool), s.dev.pwr.active = true ∧ s.dev.rd PWR_DBG_STAT_LOCKOUT = 0 ∧
      s.dev.rd PWR_OTP_STAT_DBG_DISABLE = 0 ∧ s.dev.rd PWR_STATUS_SHARED_UP ≠ 0 ∧
      (late = true ∨ s.dev.pwr.challenge = none ∨ (sc ≠ .port ∧ s.dev.rd PWR_DBG_STAT_UNLOCKED = 0) ∨ (∃ n, s.dev.pwr.challenge = some n ∧ v ≠ debugResponse sc n))) ∧
    (∃ (s : State) (sc : DebugScope) (v : BitVec 128) (late : Bool), s.dev.pwr.active = true ∧ s.dev.rd PWR_DBG_STAT_LOCKOUT = 0 ∧
      s.dev.rd PWR_OTP_STAT_DBG_DISABLE = 0 ∧ s.dev.rd PWR_STATUS_SHARED_UP ≠ 0 ∧
      (late = true ∨ s.dev.pwr.challenge = none ∨ (sc ≠ .port ∧ s.dev.rd PWR_DBG_STAT_UNLOCKED = 0) ∨ (∃ n, s.dev.pwr.challenge = some n ∧ v ≠ debugResponse sc n))) ∧
    (∃ (s : State) (sc : DebugScope) (v : BitVec 128) (late : Bool), s.dev.pwr.active = true ∧ s.dev.rd PWR_DBG_STAT_LOCKOUT = 0 ∧
      s.dev.rd PWR_OTP_STAT_DBG_DISABLE = 0 ∧ s.dev.rd PWR_STATUS_SHARED_UP ≠ 0 ∧
      (late = true ∨ s.dev.pwr.challenge = none ∨ (sc ≠ .port ∧ s.dev.rd PWR_DBG_STAT_UNLOCKED = 0) ∨ (∃ n, s.dev.pwr.challenge = some n ∧ v ≠ debugResponse sc n))) ∧
    (∃ (s : State), s.dev.pwr.active = true ∧ s.dev.rd PWR_DBG_STAT_LOCKOUT = 0 ∧ s.dev.rd PWR_OTP_STAT_DBG_DISABLE ≠ 0) :=
  ⟨⟨stOf (cellOf 0 [] {}), by decide +kernel⟩,
   ⟨stOf (cellOf 1 [] {}), by decide +kernel⟩,
   ⟨stOf (cellOf 0 [(PWR_DBG_STAT_LOCKOUT, 0, 1)] {}), by decide +kernel⟩,
   ⟨stOf (cellOf 0 [] { challenge := some 5 }), 5, by decide +kernel⟩,
   ⟨stOf (cellOf 0 [(PWR_DBG_STAT_UNLOCKED, 0, 1)] { challenge := some 5 }), 5, by decide +kernel⟩,
   ⟨stOf (cellOf 0 [(PWR_DBG_STAT_FAILS, 0, 2)] { challenge := some 5 }), .port, 0, true,
     ⟨by decide +kernel, by decide +kernel, by decide +kernel, by decide +kernel, .inl rfl⟩⟩,
   ⟨stOf (cellOf 0 [(PWR_DBG_STAT_FAILS, 0, 1)] { challenge := none }), .lane .c, 0, false,
     ⟨by decide +kernel, by decide +kernel, by decide +kernel, by decide +kernel, .inr (.inl (by decide +kernel))⟩⟩,
   ⟨stOf (cellOf 0 [] { challenge := some 5 }), .lane .c, 0, false,
     ⟨by decide +kernel, by decide +kernel, by decide +kernel, by decide +kernel, .inr (.inr (.inl (by decide +kernel)))⟩⟩,
   ⟨stOf (cellOf 1 [] {}), by decide +kernel⟩⟩

theorem witness_PackageApplies :
    (∃ (s : State), (s.dev.mode = .boot ∨ s.dev.mode = .hold ∨ s.dev.pkg.waiting = none ∨ s.dev.frameNo % 2 ≠ 0 ∨ disabledLong s.dev = false ∨ (serviceLanes s.dev).length < 2)) ∧
    (∃ (s : State) (p : Package) (l : Lane), s.dev.mode = .standstill ∧ s.dev.pkg.waiting = some p ∧ s.dev.frameNo % 2 = 0 ∧
      disabledLong s.dev = true ∧ 2 ≤ (serviceLanes s.dev).length ∧ l ∈ serviceLanes s.dev ∧ s.dev.rd PWR_STATUS_SHARED_UP ≠ 0 ∧
      p.image.params.schedule ≠ (laneOf s.dev s.dev.firstLane).image.params.schedule ∧ scheduleApplies s.dev p.image.params = false) ∧
    (∃ (s : State) (p : Package) (l : Lane), (s.dev.mode = .standstill ∨ s.dev.mode = .run ∨ s.dev.mode = .degraded ∨ s.dev.mode = .safeState) ∧
      s.dev.pkg.waiting = some p ∧ s.dev.frameNo % 2 = 0 ∧ disabledLong s.dev = true ∧ 2 ≤ (serviceLanes s.dev).length ∧
      l ∈ serviceLanes s.dev ∧ s.dev.rd PWR_STATUS_SHARED_UP ≠ 0 ∧ p.image.params.period = s.dev.rd BLF_CFG_PERIOD ∧
      p.image.params.schedule = (laneOf s.dev s.dev.firstLane).image.params.schedule ∧ p.image.params.latch = s.dev.rd BLF_LATCH_OFFSET ∧
      rotates p = false) ∧
    (∃ (s : State) (p : Package) (l : Lane), s.dev.mode = .standstill ∧ s.dev.pkg.waiting = some p ∧ s.dev.frameNo % 2 = 0 ∧
      disabledLong s.dev = true ∧ 2 ≤ (serviceLanes s.dev).length ∧ l ∈ serviceLanes s.dev ∧ p.image.params.period ≠ s.dev.rd BLF_CFG_PERIOD ∧
      scheduleApplies s.dev p.image.params = true) :=
  ⟨⟨stOf (dev []), by decide +kernel⟩,
   ⟨stOf (waits [] 2 { schedule := [{ pos := 0, ps := 1, w := 1 }] }),
     { image := { params := { schedule := [{ pos := 0, ps := 1, w := 1 }] } } }, .c, by decide +kernel⟩,
   ⟨stOf (waits [] 3 {}), { image := { params := {} } }, .c, by decide +kernel⟩,
   ⟨stOf (waits [] 2 { period := 1 }), { image := { params := { period := 1 } } }, .c, by decide +kernel⟩⟩

/-- Port `k` with its registers and its state. -/
def fbPort (r : List (RegField × Nat × Nat)) (k : Nat) (p : FbPort) : Dev :=
  { up r with axes := { fb := [(k, p)], latchAt := 100 } }

/-- The same for a step port. -/
def spPort (r : List (RegField × Nat × Nat)) (k : Nat) (p : StpPort) : Dev :=
  { up ((SYS_MODE_MODE, 0, 3) :: r) with axes := { sp := [(k, p)], fb := [(3, { y := 9 })] } }

/-- A serial port whose transfer fits the frame. -/
def serial (m : Nat) (r : List (RegField × Nat × Nat)) (p : FbPort) : Dev :=
  fbPort ([(FBK_CFG_EN, 15, 1), (FBK_CFG_MODE, 15, m), (FBK_SER0_LEN, 15, 12), (FBK_SER1_CLK_KHZ, 15, 4000)] ++ r) 15 p

theorem witness_FeedbackEdges :
    (∃ (s : State) (k : Fin 16), (s.dev.rd FBK_CFG_EN k = 0 ∨ (s.dev.rd FBK_CFG_MODE k ≠ 1 ∧ s.dev.rd FBK_CFG_MODE k ≠ 2))) ∧
    (∃ (s : State) (k : Fin 16), (s.dev.rd FBK_CFG_EN k = 0 ∨ (s.dev.rd FBK_CFG_MODE k ≠ 1 ∧ s.dev.rd FBK_CFG_MODE k ≠ 2))) ∧
    (∃ (s : State) (k : Fin 16) (a b : Bool), s.dev.rd FBK_CFG_EN k ≠ 0 ∧ s.dev.rd FBK_CFG_MODE k = 1 ∧ a ≠ (fbOf s.dev k).a ∧
      b ≠ (fbOf s.dev k).b) ∧
    (∃ (s : State) (k : Fin 16) (a b : Bool), s.dev.rd FBK_CFG_EN k ≠ 0 ∧ s.dev.rd FBK_CFG_MODE k = 1 ∧
      ((a ≠ (fbOf s.dev k).a ∧ b = (fbOf s.dev k).b) ∨ (a = (fbOf s.dev k).a ∧ b ≠ (fbOf s.dev k).b))) ∧
    (∃ (s : State) (k : Fin 16) (a b : Bool), s.dev.rd FBK_CFG_EN k ≠ 0 ∧ s.dev.rd FBK_CFG_MODE k = 1 ∧
      ((a ≠ (fbOf s.dev k).a ∧ b = (fbOf s.dev k).b) ∨ (a = (fbOf s.dev k).a ∧ b ≠ (fbOf s.dev k).b))) ∧
    (∃ (s : State) (k : Fin 16), s.dev.rd FBK_CFG_EN k ≠ 0 ∧ s.dev.rd FBK_CFG_MODE k = 2 ∧ (fbOf s.dev k).a = false ∧
      (fbOf s.dev k).tooth = none) ∧
    (∃ (s : State) (k : Fin 16), s.dev.rd FBK_CFG_EN k ≠ 0 ∧ s.dev.rd FBK_CFG_MODE k = 2 ∧ (fbOf s.dev k).a = false ∧
      (fbOf s.dev k).tooth = none) ∧
    (∃ (s : State) (k : Fin 16) (t t0 p : Int), s.dev.rd FBK_CFG_EN k ≠ 0 ∧ s.dev.rd FBK_CFG_MODE k = 2 ∧ s.dev.rd FBK_CFG_DIR_SRC k = 0 ∧
      s.dev.rd FBK_CFG_INV k = 0 ∧ (fbOf s.dev k).a = false ∧ (fbOf s.dev k).tooth = some t0 ∧ (fbOf s.dev k).interval = some p ∧
      p ≤ 4000 * (s.dev.rd FBK_EIMAX_US k : Int) ∧ (let miss : Nat := s.dev.rd FBK_TEETH_MISS k; 0 < miss) ∧
      (let miss : Nat := s.dev.rd FBK_TEETH_MISS k; (2 * (miss : Int) + 1) * p ≤ 2 * (t - t0))) ∧
    (∃ (s : State) (k : Fin 16) (t t0 p : Int), s.dev.rd FBK_CFG_EN k ≠ 0 ∧ s.dev.rd FBK_CFG_MODE k = 2 ∧ s.dev.rd FBK_CFG_DIR_SRC k = 0 ∧
      s.dev.rd FBK_CFG_INV k = 0 ∧ (fbOf s.dev k).a = false ∧ (fbOf s.dev k).tooth = some t0 ∧ (fbOf s.dev k).interval = some p ∧
      p ≤ 4000 * (s.dev.rd FBK_EIMAX_US k : Int) ∧ (let miss : Nat := s.dev.rd FBK_TEETH_MISS k; 0 < miss) ∧
      (let miss : Nat := s.dev.rd FBK_TEETH_MISS k; 2 * (t - t0) < (2 * (miss : Int) + 1) * p)) ∧
    (∃ (s : State) (k : Fin 16) (t t0 p : Int), s.dev.rd FBK_CFG_EN k ≠ 0 ∧ s.dev.rd FBK_CFG_MODE k = 2 ∧ s.dev.rd FBK_CFG_DIR_SRC k = 0 ∧
      s.dev.rd FBK_CFG_INV k = 0 ∧ (fbOf s.dev k).a = false ∧ (fbOf s.dev k).tooth = some t0 ∧ (fbOf s.dev k).interval = some p ∧
      p ≤ 4000 * (s.dev.rd FBK_EIMAX_US k : Int) ∧ (let miss : Nat := s.dev.rd FBK_TEETH_MISS k; miss = 0) ∧ 4 * (t - t0) ≤ 3 * p) ∧
    (∃ (s : State) (k : Fin 16) (t t0 p : Int), s.dev.rd FBK_CFG_EN k ≠ 0 ∧ s.dev.rd FBK_CFG_MODE k = 2 ∧ s.dev.rd FBK_CFG_DIR_SRC k = 0 ∧
      s.dev.rd FBK_CFG_INV k = 0 ∧ (fbOf s.dev k).a = false ∧ (fbOf s.dev k).tooth = some t0 ∧ (fbOf s.dev k).interval = some p ∧
      p ≤ 4000 * (s.dev.rd FBK_EIMAX_US k : Int) ∧ (let miss : Nat := s.dev.rd FBK_TEETH_MISS k; miss = 0) ∧ 3 * p < 4 * (t - t0)) ∧
    (∃ (s : State) (k : Fin 16) (a : Bool), s.dev.rd FBK_CFG_EN k ≠ 0 ∧ s.dev.rd FBK_CFG_MODE k = 2 ∧ (a = false ∨ (fbOf s.dev k).a = true)) ∧
    (∃ (s : State) (k : Fin 16) (a b : Bool), s.dev.rd FBK_CFG_EN k ≠ 0 ∧ s.dev.rd FBK_CFG_MODE k = 1 ∧
      ((a ≠ (fbOf s.dev k).a ∧ b = (fbOf s.dev k).b) ∨ (a = (fbOf s.dev k).a ∧ b ≠ (fbOf s.dev k).b))) ∧
    (∃ (s : State) (k : Fin 16) (a b : Bool), s.dev.rd FBK_CFG_EN k ≠ 0 ∧ s.dev.rd FBK_CFG_MODE k = 1 ∧
      ((a ≠ (fbOf s.dev k).a ∧ b = (fbOf s.dev k).b) ∨ (a = (fbOf s.dev k).a ∧ b ≠ (fbOf s.dev k).b))) ∧
    (∃ (s : State) (k : Fin 16) (a b : Bool), s.dev.rd FBK_CFG_EN k ≠ 0 ∧ s.dev.rd FBK_CFG_MODE k = 1 ∧
      ((a ≠ (fbOf s.dev k).a ∧ b = (fbOf s.dev k).b) ∨ (a = (fbOf s.dev k).a ∧ b ≠ (fbOf s.dev k).b))) :=
  ⟨⟨stOf (up [(FBK_CFG_MODE, 15, 1)]), 15, by decide +kernel⟩,
   ⟨stOf (up [(FBK_CFG_EN, 15, 1), (FBK_CFG_MODE, 15, 3)]), 15, by decide +kernel⟩,
   ⟨stOf (fbPort [(FBK_CFG_EN, 15, 1), (FBK_CFG_MODE, 15, 1)] 15 { y := 7, errs := [1, 2, 3, 4] }), 15, true, true, by decide +kernel⟩,
   ⟨stOf (fbPort [(FBK_CFG_EN, 15, 1), (FBK_CFG_MODE, 15, 1), (FBK_CFG_REF_MODE, 15, 1), (FBK_CFG_Z_AB, 15, 1), (STP_CTRL_RUN, 3, 1), (STP_CFG_MODE, 3, 2), (STP_CFG_REP_SRC, 3, 15)] 15 { y := -1, edge1 := some (1, 1) }),
     15, true, false, by decide +kernel⟩,
   ⟨stOf (fbPort [(FBK_CFG_EN, 15, 1), (FBK_CFG_MODE, 15, 1), (FBK_CFG_REF_MODE, 15, 2), (FBK_CFG_INV, 15, 1), (FBK_CFG_Z_AB, 15, 1)] 15 { y := -1, a := true, b := true, refAt := some 5 }),
     15, true, false, by decide +kernel⟩,
   ⟨stOf (fbPort [(FBK_CFG_EN, 15, 1), (FBK_CFG_MODE, 15, 2), (FBK_CFG_DIR_SRC, 15, 2), (FBK_CFG_INV, 15, 1)] 15 {}), 15,
     by decide +kernel⟩,
   ⟨stOf (fbPort [(FBK_CFG_EN, 15, 1), (FBK_CFG_MODE, 15, 2), (FBK_CFG_DIR_SRC, 15, 1)] 15 {}), 15, by decide +kernel⟩,
   ⟨stOf (fbPort [(FBK_CFG_EN, 15, 1), (FBK_CFG_MODE, 15, 2), (FBK_TEETH_MISS, 15, 2), (FBK_EIMAX_US, 15, 100), (FBK_CFG_REF_MODE, 15, 1)] 15 { y := 3, tooth := some 100, interval := some 100 }),
     15, 350, 100, 100, by decide +kernel⟩,
   ⟨stOf (fbPort [(FBK_CFG_EN, 15, 1), (FBK_CFG_MODE, 15, 2), (FBK_TEETH_MISS, 15, 2), (FBK_EIMAX_US, 15, 100), (FBK_CFG_REF_MODE, 15, 1)] 15 { y := 3, tooth := some 100, interval := some 100 }),
     15, 349, 100, 100, by decide +kernel⟩,
   ⟨stOf (fbPort [(FBK_CFG_EN, 15, 1), (FBK_CFG_MODE, 15, 2), (FBK_TEETH_MISS, 15, 0), (FBK_EIMAX_US, 15, 100), (FBK_CFG_REF_MODE, 15, 1)] 15 { y := 3, tooth := some 100, interval := some 100 }),
     15, 175, 100, 100, by decide +kernel⟩,
   ⟨stOf (fbPort [(FBK_CFG_EN, 15, 1), (FBK_CFG_MODE, 15, 2), (FBK_TEETH_MISS, 15, 0), (FBK_EIMAX_US, 15, 100), (FBK_CFG_REF_MODE, 15, 1)] 15 { y := 3, tooth := some 100, interval := some 100 }),
     15, 176, 100, 100, by decide +kernel⟩,
   ⟨stOf (fbPort [(FBK_CFG_EN, 15, 1), (FBK_CFG_MODE, 15, 2)] 15 { a := true }), 15, true, by decide +kernel⟩,
   ⟨stOf (fbPort [(FBK_CFG_EN, 15, 1), (FBK_CFG_MODE, 15, 1), (FBK_CFG_REF_MODE, 15, 1), (FBK_CFG_Z_AB, 15, 1), (SYS_MODE_MODE, 0, 3), (STP_CTRL_RUN, 3, 1), (STP_CFG_MODE, 3, 2), (STP_CFG_REP_SRC, 3, 15), (STP_RATIO_NUM, 3, 1), (STP_RATIO_DEN, 3, 1)] 15 { y := -1, edge1 := some (1, 1), indexDone := some false }),
     15, true, false, by decide +kernel⟩,
   ⟨stOf (fbPort [(FBK_CFG_EN, 15, 1), (FBK_CFG_MODE, 15, 1), (FBK_CFG_REF_MODE, 15, 1), (FBK_CFG_Z_AB, 15, 1), (SYS_MODE_MODE, 0, 3), (STP_CTRL_RUN, 3, 1), (STP_CFG_MODE, 3, 2), (STP_CFG_REP_SRC, 3, 15), (STP_RATIO_NUM, 3, 1), (STP_RATIO_DEN, 3, 1)] 15 { y := -1, indexDone := some true }),
     15, true, false, by decide +kernel⟩,
   ⟨stOf (fbPort [(FBK_CFG_EN, 15, 1), (FBK_CFG_MODE, 15, 1), (FBK_CFG_Z_AB, 15, 2)] 15 { y := -1, latchedY := 8, indexDone := some true }),
     15, false, true, by decide +kernel⟩⟩

theorem witness_ObserverAndEncoders :
    (∃ (s : State) (k : Fin 16), s.dev.rd FBK_CFG_EN k ≠ 0 ∧ (s.dev.rd FBK_CFG_MODE k = 1 ∨ s.dev.rd FBK_CFG_MODE k = 2)) ∧
    (∃ (s : State) (k : Fin 16), s.dev.rd FBK_CFG_EN k ≠ 0 ∧ (s.dev.rd FBK_CFG_MODE k = 1 ∨ s.dev.rd FBK_CFG_MODE k = 2)) ∧
    (∃ (s : State) (k : Fin 16), (s.dev.rd FBK_CFG_EN k = 0 ∨ (s.dev.rd FBK_CFG_MODE k ≠ 1 ∧ s.dev.rd FBK_CFG_MODE k ≠ 2))) ∧
    (∃ (s : State) (k : Fin 16), sampleDue s.dev k 3 = false) ∧
    (∃ (s : State) (k : Fin 16), sampleDue s.dev k 4 = false) ∧
    (∃ (s : State) (k : Fin 16) (h : Bool), sampleDue s.dev k 3 = true ∧
      (transferFits s.dev k s.dev.tb.latchNow s.dev.frameNs = false ∨ h = false)) ∧
    (∃ (s : State) (k : Fin 16) (h : Bool), sampleDue s.dev k 3 = true ∧
      (transferFits s.dev k s.dev.tb.latchNow s.dev.frameNs = false ∨ h = false)) ∧
    (∃ (s : State) (k : Fin 16) (w1 w2 : Nat) (sep : Bool), sampleDue s.dev k 3 = true ∧
      transferFits s.dev k s.dev.tb.latchNow s.dev.frameNs = true ∧ s.dev.rd FBK_SER0_DOUBLE k ≠ 0 ∧
      (sep = true ∨ ssiWord s.dev k w1 ≠ ssiWord s.dev k w2)) ∧
    (∃ (s : State) (k : Fin 16) (w1 w2 : Nat) (sep : Bool), sampleDue s.dev k 3 = true ∧
      transferFits s.dev k s.dev.tb.latchNow s.dev.frameNs = true ∧ s.dev.rd FBK_SER0_DOUBLE k ≠ 0 ∧
      (sep = true ∨ ssiWord s.dev k w1 ≠ ssiWord s.dev k w2)) ∧
    (∃ (s : State) (k : Fin 16), sampleDue s.dev k 3 = true ∧ transferFits s.dev k s.dev.tb.latchNow s.dev.frameNs = true ∧
      s.dev.rd FBK_SER0_GRAY k = 0 ∧ (fbOf s.dev k).xPrev = none) ∧
    (∃ (s : State) (k : Fin 16), sampleDue s.dev k 3 = true ∧ transferFits s.dev k s.dev.tb.latchNow s.dev.frameNs = true ∧
      s.dev.rd FBK_SER0_GRAY k = 0 ∧ (fbOf s.dev k).xPrev = none) ∧
    (∃ (s : State) (k : Fin 16), sampleDue s.dev k 3 = true ∧ transferFits s.dev k s.dev.tb.latchNow s.dev.frameNs = true ∧
      s.dev.rd FBK_SER0_GRAY k = 0 ∧ (fbOf s.dev k).xPrev = some 1 ∧
      (signedOf 12 ((4095 + 2 ^ 12 - 1 % 2 ^ 12) % 2 ^ 12)).natAbs ≤ s.dev.rd FBK_SER2_MAXD k) ∧
    (∃ (s : State) (k : Fin 16), sampleDue s.dev k 3 = true ∧ transferFits s.dev k s.dev.tb.latchNow s.dev.frameNs = true ∧
      s.dev.rd FBK_SER0_GRAY k = 0 ∧ (fbOf s.dev k).xPrev = some 1 ∧
      s.dev.rd FBK_SER2_MAXD k < (signedOf 12 ((4095 + 2 ^ 12 - 1 % 2 ^ 12) % 2 ^ 12)).natAbs) ∧
    (∃ (s : State) (k : Fin 16), sampleDue s.dev k 4 = true) ∧
    (∃ (s : State) (k : Fin 16) (pos crc : Nat) (nE nW : Bool), sampleDue s.dev k 4 = true ∧
      transferFits s.dev k s.dev.tb.latchNow s.dev.frameNs = true ∧
      (let len := s.dev.rd FBK_SER0_LEN k; let err := s.dev.rd FBK_SER0_ERR_BIT k ≠ 0; let warn := s.dev.rd FBK_SER0_WARN_BIT k ≠ 0; let word := (if err then [nE] else []) ++ if warn then [nW] else []; let bits := word.foldl (fun w b => 2 * w + bitOf b) (pos % 2 ^ len); let n := s.dev.rd FBK_SER0_CRC_LEN k; let crcOk := n = 0 ∨ crc % 2 ^ n + serCrc n (s.dev.rd FBK_SER1_CRC_POLY k) (len + word.length) bits 0 = 2 ^ n - 1; crcOk) ∧
      (let err := s.dev.rd FBK_SER0_ERR_BIT k ≠ 0; (err → nE = true)) ∧ (fbOf s.dev k).xPrev = none) ∧
    (∃ (s : State) (k : Fin 16) (pos crc : Nat) (nE nW : Bool), sampleDue s.dev k 4 = true ∧
      transferFits s.dev k s.dev.tb.latchNow s.dev.frameNs = true ∧
      (let len := s.dev.rd FBK_SER0_LEN k; let err := s.dev.rd FBK_SER0_ERR_BIT k ≠ 0; let warn := s.dev.rd FBK_SER0_WARN_BIT k ≠ 0; let word := (if err then [nE] else []) ++ if warn then [nW] else []; let bits := word.foldl (fun w b => 2 * w + bitOf b) (pos % 2 ^ len); let n := s.dev.rd FBK_SER0_CRC_LEN k; let crcOk := n = 0 ∨ crc % 2 ^ n + serCrc n (s.dev.rd FBK_SER1_CRC_POLY k) (len + word.length) bits 0 = 2 ^ n - 1; ¬ crcOk)) ∧
    (∃ (s : State) (k : Fin 16) (pos crc : Nat) (nE nW : Bool), sampleDue s.dev k 4 = true ∧
      transferFits s.dev k s.dev.tb.latchNow s.dev.frameNs = true ∧
      (let len := s.dev.rd FBK_SER0_LEN k; let err := s.dev.rd FBK_SER0_ERR_BIT k ≠ 0; let warn := s.dev.rd FBK_SER0_WARN_BIT k ≠ 0; let word := (if err then [nE] else []) ++ if warn then [nW] else []; let bits := word.foldl (fun w b => 2 * w + bitOf b) (pos % 2 ^ len); let n := s.dev.rd FBK_SER0_CRC_LEN k; let crcOk := n = 0 ∨ crc % 2 ^ n + serCrc n (s.dev.rd FBK_SER1_CRC_POLY k) (len + word.length) bits 0 = 2 ^ n - 1; crcOk) ∧
      (let err := s.dev.rd FBK_SER0_ERR_BIT k ≠ 0; err) ∧ nE = false) :=
  ⟨⟨stOf (fbPort [(FBK_CFG_EN, 15, 1), (FBK_CFG_MODE, 15, 2)] 15 { y := 4, stepBad := true }), 15, by decide +kernel⟩,
   ⟨stOf (fbPort [(FBK_CFG_EN, 15, 1), (FBK_CFG_MODE, 15, 1)] 15 { y := 4 }), 15, by decide +kernel⟩,
   ⟨stOf (fbPort [(FBK_CFG_EN, 15, 1), (FBK_CFG_MODE, 15, 4)] 15 { y := 4 }), 15, by decide +kernel⟩,
   ⟨stOf (serial 3 [] { sampled := true }), 15, by decide +kernel⟩,
   ⟨stOf (serial 3 [] {}), 15, by decide +kernel⟩,
   ⟨stOf (serial 3 [] { badRun := 2, y := 5 }), 15, false, by decide +kernel⟩,
   ⟨stOf (serial 3 [(FBK_SER1_CLK_KHZ, 15, 100)] { badRun := 1, y := 5 }), 15, true, by decide +kernel⟩,
   ⟨stOf (serial 3 [(FBK_SER0_DOUBLE, 15, 1)] { y := 5 }), 15, 1, 2, false, by decide +kernel⟩,
   ⟨stOf (serial 3 [(FBK_SER0_DOUBLE, 15, 1)] { y := 5 }), 15, 1, 1, true, by decide +kernel⟩,
   ⟨stOf (serial 3 [(FBK_SER0_GRAY, 15, 0), (FBK_SER0_TRAIL, 15, 1), (FBK_SER0_DOUBLE, 15, 1)] { y := 5 }), 15, by decide +kernel⟩,
   ⟨stOf (serial 3 [(FBK_SER0_GRAY, 15, 0), (FBK_SER0_LEN, 15, 32), (FBK_STAT_CHAN_FAULT, 15, 1)] { y := 5 }), 15, by decide +kernel⟩,
   ⟨stOf (serial 3 [(FBK_SER0_GRAY, 15, 0), (FBK_SER2_MAXD, 15, 2)] { y := 5, xPrev := some 1 }), 15, by decide +kernel⟩,
   ⟨stOf (serial 3 [(FBK_SER0_GRAY, 15, 0), (FBK_SER2_MAXD, 15, 1)] { y := 5, xPrev := some 1 }), 15, by decide +kernel⟩,
   ⟨stOf (serial 4 [] { y := 5 }), 15, by decide +kernel⟩,
   ⟨stOf (serial 4 [(FBK_SER0_ERR_BIT, 15, 1), (FBK_SER0_WARN_BIT, 15, 1), (FBK_SER0_CRC_LEN, 15, 6), (FBK_SER1_CRC_POLY, 15, 3)] {}), 15,
     1, 63 - serCrc 6 3 14 6 0, true, false, by decide +kernel⟩,
   ⟨stOf (serial 4 [(FBK_SER0_ERR_BIT, 15, 1), (FBK_SER0_WARN_BIT, 15, 1), (FBK_SER0_CRC_LEN, 15, 6), (FBK_SER1_CRC_POLY, 15, 3)] {}), 15,
     1, 62 - serCrc 6 3 14 6 0, true, false, by decide +kernel⟩,
   ⟨stOf (serial 4 [(FBK_SER0_ERR_BIT, 15, 1), (FBK_SER0_CRC_LEN, 15, 0)] { y := 6 }), 15, 1, 5, false, false, by decide +kernel⟩⟩

theorem witness_StepPorts :
    (∃ (s : State) (k : Fin 16), s.dev.rd STP_CTRL_RUN k ≠ 0 ∧ (spOf s.dev k).granted = true ∧ s.dev.rd STP_STAT_HELD k = 0 ∧
      0 < (spOf s.dev k).left ∧ portsDark s.dev = false) ∧
    (∃ (s : State) (k : Fin 16), (s.dev.rd STP_CTRL_RUN k = 0 ∨ (spOf s.dev k).granted = false ∨ s.dev.rd STP_STAT_HELD k ≠ 0 ∨ (spOf s.dev k).left = 0 ∨ portsDark s.dev = true)) ∧
    (∃ (s : State) (k : Fin 16), s.dev.rd STP_CTRL_RUN k ≠ 0 ∧ s.dev.rd STP_STAT_STANDBY_ON k = 0 ∧ (spOf s.dev k).left = 0 ∧
      1000000 * s.dev.rd STP_WAKE_IDLE_MS k ≤ (spOf s.dev k).idle * s.dev.frameNs ∧
      (s.dev.rd STP_CFG_STANDBY k = 1 ∨ s.dev.rd STP_CFG_STANDBY k = 2)) ∧
    (∃ (s : State) (k : Fin 16), (s.dev.rd STP_CTRL_RUN k = 0 ∨ s.dev.rd STP_STAT_STANDBY_ON k ≠ 0 ∨ 0 < (spOf s.dev k).left ∨ (spOf s.dev k).idle * s.dev.frameNs < 1000000 * s.dev.rd STP_WAKE_IDLE_MS k ∨ (s.dev.rd STP_CFG_STANDBY k ≠ 1 ∧ s.dev.rd STP_CFG_STANDBY k ≠ 2))) ∧
    (∃ (s : State) (k : Fin 16) (b : Bool) (q : List Bool), s.dev.rd STP_CTRL_RUN k ≠ 0 ∧ s.dev.rd STP_CFG_MODE k = 2 ∧
      s.dev.rd FBK_STAT_CHAN_FAULT (s.dev.rd STP_CFG_REP_SRC k) = 0 ∧ s.dev.rd STP_STAT_HELD k = 0 ∧ portsDark s.dev = false ∧
      (spOf s.dev k).queue = b :: q ∧ s.dev.rd STP_CFG_OUT_FMT k = 0) ∧
    (∃ (s : State) (k : Fin 16) (b : Bool) (q : List Bool), s.dev.rd STP_CTRL_RUN k ≠ 0 ∧ s.dev.rd STP_CFG_MODE k = 2 ∧
      s.dev.rd FBK_STAT_CHAN_FAULT (s.dev.rd STP_CFG_REP_SRC k) = 0 ∧ s.dev.rd STP_STAT_HELD k = 0 ∧ portsDark s.dev = false ∧
      (spOf s.dev k).queue = b :: q ∧ s.dev.rd STP_CFG_OUT_FMT k ≠ 0) ∧
    (∃ (s : State) (k : Fin 16), (s.dev.rd STP_CTRL_RUN k = 0 ∨ s.dev.rd STP_CFG_MODE k ≠ 2 ∨ s.dev.rd FBK_STAT_CHAN_FAULT (s.dev.rd STP_CFG_REP_SRC k) ≠ 0 ∨ s.dev.rd STP_STAT_HELD k ≠ 0 ∨ portsDark s.dev = true ∨ (spOf s.dev k).queue = [])) ∧
    (∃ (s : State) (m : Master) (k : Fin 16), s.dev.takes m (0x19024 + 128 * k) (STP_STAT_BUSY, k) ∧ s.dev.rd STP_CTRL_RUN k = 0 ∧
      (let src := s.dev.rd STP_CFG_REP_SRC k; let fits := max (2 * s.dev.rd STP_TIME_STEP_HI k) (s.dev.rd STP_TIME_DIR_SETUP k) + 1 ≤ 10000 * s.dev.periodUnits; let good := s.dev.rd STP_CFG_MODE k = 0 ∨ (s.dev.rd STP_CFG_MODE k = 1 ∧ fits) ∨ (s.dev.rd STP_CFG_MODE k = 2 ∧ (fits ∨ s.dev.rd STP_CFG_OUT_FMT k ≠ 0) ∧ s.dev.rd FBK_CFG_EN src ≠ 0 ∧ (s.dev.rd FBK_CFG_MODE src = 1 ∨ s.dev.rd FBK_CFG_MODE src = 2) ∧ 1 ≤ s.dev.rd STP_RATIO_NUM k ∧ s.dev.rd STP_RATIO_NUM k ≤ s.dev.rd STP_RATIO_DEN k); good)) ∧
    (∃ (s : State) (m : Master) (k : Fin 16), s.dev.takes m (0x19024 + 128 * k) (STP_STAT_BUSY, k) ∧ s.dev.rd STP_CTRL_RUN k = 0 ∧
      (let src := s.dev.rd STP_CFG_REP_SRC k; let fits := max (2 * s.dev.rd STP_TIME_STEP_HI k) (s.dev.rd STP_TIME_DIR_SETUP k) + 1 ≤ 10000 * s.dev.periodUnits; let good := s.dev.rd STP_CFG_MODE k = 0 ∨ (s.dev.rd STP_CFG_MODE k = 1 ∧ fits) ∨ (s.dev.rd STP_CFG_MODE k = 2 ∧ (fits ∨ s.dev.rd STP_CFG_OUT_FMT k ≠ 0) ∧ s.dev.rd FBK_CFG_EN src ≠ 0 ∧ (s.dev.rd FBK_CFG_MODE src = 1 ∨ s.dev.rd FBK_CFG_MODE src = 2) ∧ 1 ≤ s.dev.rd STP_RATIO_NUM k ∧ s.dev.rd STP_RATIO_NUM k ≤ s.dev.rd STP_RATIO_DEN k); ¬ good)) ∧
    (∃ (s : State) (m : Master) (k : Fin 16), s.dev.takes m (0x19024 + 128 * k) (STP_STAT_BUSY, k) ∧ s.dev.rd STP_CTRL_RUN k = 0) ∧
    (∃ (s : State) (m : Master) (k : Fin 16), s.dev.takes m (0x19024 + 128 * k) (STP_STAT_BUSY, k) ∧ s.dev.rd STP_CTRL_RUN k ≠ 0) ∧
    (∃ (s : State) (m : Master) (k : Fin 16), s.dev.takes m (0x19024 + 128 * k) (STP_STAT_BUSY, k)) ∧
    (∃ (s : State) (m : Master) (k : Fin 16), s.dev.takes m (0x1803C + 256 * k) (FBK_STAT_BUSY, k)) :=
  ⟨⟨stOf (spPort [(STP_CTRL_RUN, 15, 1)] 15 { granted := true, left := 1, up := false }), 15, by decide +kernel⟩,
   ⟨stOf (spPort [(STP_CTRL_RUN, 15, 1)] 15 { granted := true, left := 0, up := false }), 15, by decide +kernel⟩,
   ⟨stOf (spPort [(STP_CTRL_RUN, 15, 1), (STP_CFG_STANDBY, 15, 2), (STP_WAKE_IDLE_MS, 15, 1)] 15 { idle := 16 }), 15, by decide +kernel⟩,
   ⟨stOf (spPort [(STP_CTRL_RUN, 15, 1), (STP_CFG_STANDBY, 15, 2), (STP_WAKE_IDLE_MS, 15, 1)] 15 { idle := 15 }), 15, by decide +kernel⟩,
   ⟨stOf (spPort [(STP_CTRL_RUN, 15, 1), (STP_CFG_MODE, 15, 2)] 15 { queue := [false, true] }), 15, false, [true], by decide +kernel⟩,
   ⟨stOf (spPort [(STP_CTRL_RUN, 15, 1), (STP_CFG_MODE, 15, 2), (STP_CFG_OUT_FMT, 15, 1), (STP_CFG_DIR_INV, 15, 1)] 15 { queue := [false, true] }),
     15, false, [true], by decide +kernel⟩,
   ⟨stOf (spPort [(STP_CTRL_RUN, 15, 1), (STP_CFG_MODE, 15, 2)] 15 {}), 15, by decide +kernel⟩,
   ⟨stOf (spPort [(STP_CFG_MODE, 15, 2), (STP_CFG_REP_SRC, 15, 3), (FBK_CFG_EN, 3, 1), (FBK_CFG_MODE, 3, 1), (STP_CFG_OUT_FMT, 15, 1), (STP_TIME_STEP_HI, 15, 65535), (STP_RATIO_NUM, 15, 1), (STP_RATIO_DEN, 15, 1)] 15 { s := 5 }),
     .hostBar0, 15, ⟨takes_of (by decide +kernel), by decide +kernel⟩⟩,
   ⟨stOf (spPort [(STP_CFG_MODE, 15, 2), (STP_CFG_REP_SRC, 15, 3), (FBK_CFG_EN, 3, 1), (FBK_CFG_MODE, 3, 3)] 15 { s := 5 }), .hostBar0, 15,
     ⟨takes_of (by decide +kernel), by decide +kernel⟩⟩,
   ⟨stOf (spPort [] 15 { s := 5 }), .hostBar0, 15, ⟨takes_of (by decide +kernel), by decide +kernel⟩⟩,
   ⟨stOf (spPort [(STP_CTRL_RUN, 15, 1)] 15 { granted := true, left := 3 }), .hostBar0, 15,
     ⟨takes_of (by decide +kernel), by decide +kernel⟩⟩,
   ⟨stOf (spPort [(STP_CTRL_RUN, 15, 1)] 15 { granted := true, left := 3 }), .hostBar0, 15, takes_of (by decide +kernel)⟩,
   ⟨stOf (fbPort [(SYS_MODE_MODE, 0, 3)] 15 {}), .hostBar0, 15, takes_of (by decide +kernel)⟩⟩

/-- A core in a run at word 3, where instruction `i` stands. -/
def coreAt (i : SmyInstr) (c : SmyCore) : SmyCore := { c with pc := 3, prog := [(3, BitVec.ofNat 32 (smyEncode i))] }

/-- Core 1 in a run of such a core. -/
def runs (r : List (RegField × Nat × Nat)) (c : SmyCore) : Dev :=
  { up ([(SYS_MODE_MODE, 0, 3), (SMY_STAT_ACTIVE, 1, 1), (SMY_CTRL_RUN, 1, 1), (SMY_BUDGET_CLK, 1, 1000)] ++ r) with smy1 := c }

/-- Memories, accumulators and pointers with something in them. -/
def full : SmyCore :=
  { x := [(5, 0x7FFF), (9, 3)], y := [(6, 0x8000), (4095, 7)], dr := [(1, 1), (3, 0x8000)], acc0 := 0x7F12345678#40, acc1 := 0x80FFFF0000#40,
    gx := { p := [(0, 5), (1, 9), (3, 4095)], m0 := 2, b := 4, l := 3 }, gy := { p := [(0, 6), (2, 4095)], m1 := 0xFFF },
    maxv := 5, minv := 0xFFF0, ic := 7, clocks := 1000, work := [(4, 9)] }

theorem witness_SmithyArithmetic :
    (∃ (ad : BitVec 5), ad.toNat % 8 = 0) ∧
    (∃ (ad : BitVec 5), ad.toNat % 8 = 1) ∧
    (∃ (ad : BitVec 5), ad.toNat % 8 = 2) ∧
    (∃ (ad : BitVec 5), ad.toNat % 8 = 3) ∧
    (∃ (ad : BitVec 5), ad.toNat % 8 = 4) ∧
    (∃ (g : AddrGen) (ad : BitVec 5), ad.toNat % 8 = 5 ∧ (let i := ad.toNat / 8; let p := SMap.get 0 g.p i; g.b.toNat ≤ p.toNat) ∧
      (let i := ad.toNat / 8; let p := SMap.get 0 g.p i; let len : Nat := if g.l = 0 then 4096 else g.l.toNat; p.toNat < g.b.toNat + len) ∧
      (let len : Nat := if g.l = 0 then 4096 else g.l.toNat; g.b.toNat + len ≤ 4096)) ∧
    (∃ (g : AddrGen) (ad : BitVec 5), ad.toNat % 8 = 5 ∧ (let i := ad.toNat / 8; let p := SMap.get 0 g.p i; g.b.toNat ≤ p.toNat) ∧
      (let i := ad.toNat / 8; let p := SMap.get 0 g.p i; let len : Nat := if g.l = 0 then 4096 else g.l.toNat; p.toNat < g.b.toNat + len) ∧
      (let len : Nat := if g.l = 0 then 4096 else g.l.toNat; g.b.toNat + len ≤ 4096)) ∧
    (∃ (g : AddrGen) (ad : BitVec 5), ad.toNat % 8 = 6 ∧ (let len : Nat := if g.l = 0 then 4096 else g.l.toNat; g.b.toNat + len ≤ 4096)) ∧
    (∃ (s : State) (n : Fin 2) (sb a : Bool) (xa ya : BitVec 5), (smyOf s.dev n).rep = none ∧ smyAt s.dev n (.mac sb a xa ya) = true) ∧
    (∃ (s : State) (n : Fin 2) (sb a : Bool) (xa ya : BitVec 5), (smyOf s.dev n).rep = none ∧ smyAt s.dev n (.mac sb a xa ya) = true) ∧
    (∃ (s : State) (n : Fin 2) (sb a : Bool) (xa ya : BitVec 5), (smyOf s.dev n).rep = none ∧ smyAt s.dev n (.msu sb a xa ya) = true) ∧
    (∃ (s : State) (n : Fin 2) (sb a : Bool) (xa ya : BitVec 5), (smyOf s.dev n).rep = none ∧ smyAt s.dev n (.mpy sb a xa ya) = true) ∧
    (∃ (s : State) (n : Fin 2) (sb a : Bool) (xa : BitVec 5) (dm : BitVec 3), (smyOf s.dev n).rep = none ∧
      smyAt s.dev n (.macd sb a xa dm) = true) ∧
    (∃ (s : State) (n : Fin 2) (a ms : Bool) (xa : BitVec 5), (smyOf s.dev n).rep = none ∧ smyAt s.dev n (.lda a ms xa) = true) ∧
    (∃ (s : State) (n : Fin 2) (sb a ms : Bool) (xa : BitVec 5), (smyOf s.dev n).rep = none ∧ smyAt s.dev n (.ada sb a ms xa) = true) ∧
    (∃ (s : State) (n : Fin 2) (sb a : Bool) (sh : BitVec 6), (smyOf s.dev n).rep = none ∧ smyAt s.dev n (.sha sb a sh) = true) ∧
    (∃ (s : State) (n : Fin 2) (sb a : Bool) (sh : BitVec 6), (smyOf s.dev n).rep = none ∧ smyAt s.dev n (.sha sb a sh) = true) ∧
    (∃ (s : State) (n : Fin 2) (sb a sub : Bool), (smyOf s.dev n).rep = none ∧ smyAt s.dev n (.adda sb a sub) = true) ∧
    (∃ (s : State) (n : Fin 2) (a : Bool), (smyOf s.dev n).rep = none ∧ smyAt s.dev n (.clra a) = true) ∧
    (∃ (s : State) (n : Fin 2), (smyOf s.dev n).rep = none ∧ smyAt s.dev n .nop = true) :=
  ⟨⟨24, by decide +kernel⟩,
   ⟨25, by decide +kernel⟩,
   ⟨26, by decide +kernel⟩,
   ⟨27, by decide +kernel⟩,
   ⟨28, by decide +kernel⟩,
   ⟨{ p := [(3, 4095)], b := 4090, l := 6 }, 29, by decide +kernel⟩,
   ⟨{ p := [(3, 4095)], b := 0, l := 0 }, 29, by decide +kernel⟩,
   ⟨{ p := [(3, 4090)], b := 4090, l := 6, m0 := 4090 }, 30, by decide +kernel⟩,
   ⟨stOf (runs [] (coreAt (.mac true true 5 6) full)), 1, true, true, 5, 6, by decide +kernel⟩,
   ⟨stOf (runs [(SMY_CFG_FRAC, 1, 0)] (coreAt (.mac true false 5 20) full)), 1, true, false, 5, 20, by decide +kernel⟩,
   ⟨stOf (runs [(SMY_CFG_FRAC, 1, 1)] (coreAt (.msu false true 5 6) full)), 1, false, true, 5, 6, by decide +kernel⟩,
   ⟨stOf (runs [] (coreAt (.mpy true true 5 6) full)), 1, true, true, 5, 6, by decide +kernel⟩,
   ⟨stOf (runs [] (coreAt (.macd true false 9 3) full)), 1, true, false, 9, 3, by decide +kernel⟩,
   ⟨stOf (runs [] (coreAt (.lda false true 20) full)), 1, false, true, 20, by decide +kernel⟩,
   ⟨stOf (runs [] (coreAt (.ada true false false 0) full)), 1, true, false, false, 0, by decide +kernel⟩,
   ⟨stOf (runs [] (coreAt (.sha false true 0x20) full)), 1, false, true, 0x20, by decide +kernel⟩,
   ⟨stOf (runs [] (coreAt (.sha false false 31) full)), 1, false, false, 31, by decide +kernel⟩,
   ⟨stOf (runs [] (coreAt (.adda false false true) full)), 1, false, false, true, by decide +kernel⟩,
   ⟨stOf (runs [] (coreAt (.clra true) full)), 1, true, by decide +kernel⟩,
   ⟨stOf (runs [] (coreAt .nop full)), 1, by decide +kernel⟩⟩

theorem witness_SmithyMovesAndSearch :
    (∃ (s : State) (n : Fin 2) (sb a ms rnd : Bool) (ad : BitVec 5), (smyOf s.dev n).rep = none ∧ smyAt s.dev n (.sta sb a ms rnd ad) = true) ∧
    (∃ (s : State) (n : Fin 2) (ms : Bool) (ad : BitVec 5) (dd : BitVec 3), (smyOf s.dev n).rep = none ∧
      smyAt s.dev n (.std dd ms ad) = true) ∧
    (∃ (s : State) (n : Fin 2) (ms : Bool) (ad : BitVec 5) (dd : BitVec 3), (smyOf s.dev n).rep = none ∧
      smyAt s.dev n (.ldd dd ms ad) = true) ∧
    (∃ (s : State) (n : Fin 2) (dd : BitVec 3) (imm : BitVec 16), (smyOf s.dev n).rep = none ∧ smyAt s.dev n (.ldi dd imm) = true) ∧
    (∃ (s : State) (n : Fin 2) (sb a rnd : Bool) (dd : BitVec 3), (smyOf s.dev n).rep = none ∧ smyAt s.dev n (.mvad sb a dd rnd) = true) ∧
    (∃ (s : State) (n : Fin 2) (dd : BitVec 3) (sel : BitVec 2), (smyOf s.dev n).rep = none ∧ smyAt s.dev n (.mvs dd sel) = true) ∧
    (∃ (s : State) (n : Fin 2) (dd : BitVec 3) (sel : BitVec 2), (smyOf s.dev n).rep = none ∧ smyAt s.dev n (.mvs dd sel) = true) ∧
    (∃ (s : State) (n : Fin 2) (ms : Bool) (ad : BitVec 5), (smyOf s.dev n).rep = none ∧ smyAt s.dev n (.srch ms ad) = true) ∧
    (∃ (s : State) (n : Fin 2) (ms : Bool) (ad : BitVec 5), (smyOf s.dev n).rep = none ∧ smyAt s.dev n (.srch ms ad) = true) ∧
    (∃ (s : State) (n : Fin 2), (smyOf s.dev n).rep = none ∧ smyAt s.dev n .srcl = true) ∧
    (∃ (s : State) (n : Fin 2) (tgt : BitVec 4) (v : BitVec 12), (smyOf s.dev n).rep = none ∧ smyAt s.dev n (.ldp tgt v) = true) ∧
    (∃ (s : State) (n : Fin 2) (tgt : BitVec 4) (v : BitVec 12), (smyOf s.dev n).rep = none ∧ smyAt s.dev n (.ldp tgt v) = true) ∧
    (∃ (s : State) (n : Fin 2) (sb a : Bool) (dd : BitVec 3) (src : Bool) (k : BitVec 5), (smyOf s.dev n).rep = none ∧
      smyAt s.dev n (.out sb a src dd k) = true) ∧
    (∃ (s : State) (n : Fin 2) (a : Bool) (port : BitVec 10) (clr : Bool), (smyOf s.dev n).rep = none ∧
      smyAt s.dev n (.in a clr port) = true) ∧
    (∃ (s : State) (n : Fin 2) (a : Bool) (port : BitVec 10) (clr : Bool), (smyOf s.dev n).rep = none ∧
      smyAt s.dev n (.in a clr port) = true) :=
  ⟨⟨stOf (runs [] (coreAt (.sta true true true true 0) full)), 1, true, true, true, true, 0, by decide +kernel⟩,
   ⟨stOf (runs [] (coreAt (.std 3 false 9) full)), 1, false, 9, 3, by decide +kernel⟩,
   ⟨stOf (runs [] (coreAt (.ldd 3 true 17) full)), 1, true, 17, 3, by decide +kernel⟩,
   ⟨stOf (runs [] (coreAt (.ldi 7 0xFFFF) full)), 1, 7, 0xFFFF, by decide +kernel⟩,
   ⟨stOf (runs [] (coreAt (.mvad true false 7 true) full)), 1, true, false, true, 7, by decide +kernel⟩,
   ⟨stOf (runs [] (coreAt (.mvs 2 3) full)), 1, 2, 3, by decide +kernel⟩,
   ⟨stOf (runs [] (coreAt (.mvs 2 1) full)), 1, 2, 1, by decide +kernel⟩,
   ⟨stOf (runs [] (coreAt (.srch true 0) full)), 1, true, 0, by decide +kernel⟩,
   ⟨stOf (runs [] (coreAt (.srch false 0) full)), 1, false, 0, by decide +kernel⟩,
   ⟨stOf (runs [] (coreAt .srcl full)), 1, by decide +kernel⟩,
   ⟨stOf (runs [] (coreAt (.ldp 15 77) full)), 1, 15, 77, by decide +kernel⟩,
   ⟨stOf (runs [] (coreAt (.ldp 7 77) full)), 1, 7, 77, by decide +kernel⟩,
   ⟨stOf (runs [] (coreAt (.out true true false 0 31) full)), 1, true, true, 0, false, 31, by decide +kernel⟩,
   ⟨stOf (runs [(ADC_UA_SUM_SUM, 31, 9)] (coreAt (.in true true 127) full)), 1, true, 127, true, by decide +kernel⟩,
   ⟨stOf (runs [(ADC_FRAME_MEAN, 31, 70000)] (coreAt (.in false true 252) full)), 1, false, 252, true, by decide +kernel⟩⟩

theorem witness_SmithyControlAndRepeat :
    (∃ (s : State) (n : Fin 2) (c : Instr) (i : SmyInstr) (f : SmyCore → SmyCore), Repeats n (s.dev.on SMY_CFG_FRAC n) c i f ∧
      smyAt s.dev n i = true) ∧
    (∃ (s : State) (n : Fin 2) (c : Instr) (i : SmyInstr) (f : SmyCore → SmyCore), Repeats n (s.dev.on SMY_CFG_FRAC n) c i f ∧
      smyAt s.dev n i = false) ∧
    (∃ (s : State) (n : Fin 2) (r : RepCount), smyAt s.dev n (.rep r) = true) ∧
    (∃ (s : State) (n : Fin 2) (r : RepCount), smyAt s.dev n (.rep r) = true) ∧
    (∃ (s : State) (n : Fin 2) (r : RepCount), smyAt s.dev n (.rep r) = true) ∧
    (∃ (s : State) (n : Fin 2) (addr : BitVec 12), smyAt s.dev n (.jmp addr) = true) ∧
    (∃ (s : State) (n : Fin 2) (a : Bool) (cond : BitVec 2) (addr : BitVec 12), smyAt s.dev n (.br a cond addr) = true) ∧
    (∃ (s : State) (n : Fin 2) (a : Bool) (cond : BitVec 2) (addr : BitVec 12), smyAt s.dev n (.br a cond addr) = true) ∧
    (∃ (s : State) (n : Fin 2) (dd : BitVec 3) (addr : BitVec 12), smyAt s.dev n (.djnz dd addr) = true) ∧
    (∃ (s : State) (n : Fin 2) (dd : BitVec 3) (addr : BitVec 12), smyAt s.dev n (.djnz dd addr) = true) ∧
    (∃ (s : State) (n : Fin 2), smyAt s.dev n (.trig false) = true) ∧
    (∃ (s : State) (n : Fin 2), smyAt s.dev n (.trig false) = true) ∧
    (∃ (s : State) (n : Fin 2), smyAt s.dev n (.trig true) = true) ∧
    (∃ (s : State) (n : Fin 2) (imm : BitVec 16), smyAt s.dev n (.sig imm) = true ∧ (smyOf s.dev n).sigDone = false ∧
      s.dev.rd PWR_STATUS_SHARED_UP ≠ 0) ∧
    (∃ (s : State) (n : Fin 2) (imm : BitVec 16), smyAt s.dev n (.sig imm) = true ∧ (smyOf s.dev n).sigDone = true) ∧
    (∃ (s : State) (n : Fin 2), smyAt s.dev n .halt = true) ∧
    (∃ (s : State) (n : Fin 2) (i : SmyInstr), smyGoes s.dev n = true ∧
      (smyDecode (smyFetch (smyOf s.dev n)) = none ∨ (smyDecode (smyFetch (smyOf s.dev n)) = some i ∧ (smyOf s.dev n).rep ≠ none ∧ repeatable i = false)) ∧
      s.dev.rd PWR_STATUS_SHARED_UP ≠ 0) ∧
    (∃ (s : State) (n : Fin 2) (i : SmyInstr), smyGoes s.dev n = true ∧
      (smyDecode (smyFetch (smyOf s.dev n)) = none ∨ (smyDecode (smyFetch (smyOf s.dev n)) = some i ∧ (smyOf s.dev n).rep ≠ none ∧ repeatable i = false)) ∧
      s.dev.rd PWR_STATUS_SHARED_UP ≠ 0) ∧
    (∃ (s : State) (n : Fin 2) (i : SmyInstr), (smyGoes s.dev n = false ∨ (smyDecode (smyFetch (smyOf s.dev n)) = some i ∧ ((smyOf s.dev n).rep = none ∨ repeatable i = true)))) ∧
    (∃ (s : State) (n : Fin 2) (i : SmyInstr), (smyGoes s.dev n = false ∨ (smyDecode (smyFetch (smyOf s.dev n)) = some i ∧ ((smyOf s.dev n).rep = none ∨ repeatable i = true)))) :=
  ⟨⟨stOf (runs [] { coreAt (.mac false true 5 17) full with rep := some 3 }), 1, .mac 1 false true 5 17, .mac false true 5 17,
     multiply false false true 1 1 5 17, ⟨.mac false true 5 17, by decide +kernel⟩⟩,
   ⟨stOf (runs [] (coreAt .nop full)), 1, .mac 1 false true 5 17, .mac false true 5 17, multiply false false true 1 1 5 17,
     ⟨.mac false true 5 17, by decide +kernel⟩⟩,
   ⟨stOf (runs [] (coreAt (.rep (.reg 3)) full)), 1, .reg 3, by decide +kernel⟩,
   ⟨stOf (runs [] (coreAt (.rep (.reg 2)) full)), 1, .reg 2, by decide +kernel⟩,
   ⟨stOf (runs [] (coreAt (.rep (.imm 4095)) full)), 1, .imm 4095, by decide +kernel⟩,
   ⟨stOf (runs [] (coreAt (.jmp 4095) full)), 1, 4095, by decide +kernel⟩,
   ⟨stOf (runs [] (coreAt (.br true 1 4095) full)), 1, true, 1, 4095, by decide +kernel⟩,
   ⟨stOf (runs [] (coreAt (.br true 2 4095) full)), 1, true, 2, 4095, by decide +kernel⟩,
   ⟨stOf (runs [] (coreAt (.djnz 1 4095) full)), 1, 1, 4095, by decide +kernel⟩,
   ⟨stOf (runs [] (coreAt (.djnz 2 4095) full)), 1, 2, 4095, by decide +kernel⟩,
   ⟨stOf (runs [(ADC_SEQ_CTRL_EN, 0, 1), (ADC_SEQ_CTRL_TRIG_SRC, 0, 13)] (coreAt (.trig false) full)), 1, by decide +kernel⟩,
   ⟨stOf (runs [(ADC_SEQ_CTRL_EN, 0, 1), (ADC_SEQ_CTRL_TRIG_SRC, 0, 12)] (coreAt (.trig false) full)), 1, by decide +kernel⟩,
   ⟨stOf (runs [(SMY_CFG_TRIG_SRC, 0, 13)] (coreAt (.trig true) full)), 1, by decide +kernel⟩,
   ⟨stOf (runs [] (coreAt (.sig 65535) full)), 1, 65535, by decide +kernel⟩,
   ⟨stOf (runs [(SMY_SIG_DROPPED, 1, 65535)] { coreAt (.sig 65535) full with sigDone := true }), 1, 65535, by decide +kernel⟩,
   ⟨stOf (runs [(SMY_CNT_RUNS, 1, 4294967295)] { coreAt .halt full with sv := true }), 1, by decide +kernel⟩,
   ⟨stOf (runs [] { full with prog := [(0, 0x04380000)] }), 1, .nop, ⟨by decide +kernel, .inl (by decide +kernel), by decide +kernel⟩⟩,
   ⟨stOf (runs [] { coreAt .halt full with rep := some 1 }), 1, .halt, ⟨by decide +kernel, .inr (by decide +kernel), by decide +kernel⟩⟩,
   ⟨stOf (up []), 1, .halt, by decide +kernel⟩,
   ⟨stOf (runs [] (coreAt .halt full)), 1, .halt, by decide +kernel⟩⟩

theorem witness_SmithyRuns :
    (∃ (s : State) (m : Master) (n : Fin 2), s.dev.takes m (0x1A000 + 0x400 * n) (SMY_STAT_BUSY, n) ∧ s.dev.rd SMY_STAT_QUEUED n = 0 ∧
      s.dev.rd SMY_STAT_ACTIVE n = 0 ∧ s.dev.rd SMY_CTRL_RUN n ≠ 0) ∧
    (∃ (s : State) (m : Master) (n : Fin 2), s.dev.takes m (0x1A000 + 0x400 * n) (SMY_STAT_BUSY, n) ∧ s.dev.rd SMY_STAT_QUEUED n = 0 ∧
      s.dev.rd SMY_STAT_ACTIVE n = 0 ∧ s.dev.rd SMY_CTRL_RUN n = 0) ∧
    (∃ (s : State) (m : Master) (n : Fin 2), s.dev.takes m (0x1A000 + 0x400 * n) (SMY_STAT_BUSY, n) ∧ s.dev.rd SMY_STAT_ACTIVE n ≠ 0 ∧
      s.dev.rd SMY_STAT_QUEUED n = 0) ∧
    (∃ (s : State) (m : Master) (n : Fin 2), s.dev.takes m (0x1A000 + 0x400 * n) (SMY_STAT_BUSY, n) ∧ s.dev.rd SMY_STAT_QUEUED n ≠ 0) ∧
    (∃ (s : State) (m : Master) (n : Fin 2), s.dev.takes m (0x1A000 + 0x400 * n) (SMY_STAT_BUSY, n) ∧ s.dev.rd SMY_STAT_ACTIVE n ≠ 0) ∧
    (∃ (s : State) (m : Master) (n : Fin 2), s.dev.takes m (0x1A000 + 0x400 * n) (SMY_STAT_BUSY, n) ∧ s.dev.rd SMY_STAT_ACTIVE n = 0) ∧
    (∃ (s : State) (n : Fin 2), s.dev.rd SMY_STAT_QUEUED n ≠ 0 ∧ s.dev.rd SMY_STAT_ACTIVE n = 0 ∧ s.dev.rd SMY_CTRL_RUN n ≠ 0) ∧
    (∃ (s : State) (n : Fin 2) (t : Int) (code : Nat) (rest : List (Int × Nat)), s.dev.rd SMY_STAT_QUEUED n = 0 ∧
      (smyOf s.dev n).trigs = (t, code) :: rest ∧ s.dev.rd SMY_STAT_ACTIVE n = 0 ∧ s.dev.rd SMY_CTRL_RUN n ≠ 0) ∧
    (∃ (s : State) (n : Fin 2) (t : Int) (code : Nat) (rest : List (Int × Nat)), s.dev.rd SMY_STAT_QUEUED n = 0 ∧
      (smyOf s.dev n).trigs = (t, code) :: rest ∧ s.dev.rd SMY_STAT_ACTIVE n ≠ 0) ∧
    (∃ (s : State) (n : Fin 2), s.dev.rd SMY_STAT_ACTIVE n ≠ 0 ∧ s.dev.rd SMY_BUDGET_CLK n < (smyOf s.dev n).clocks ∧
      s.dev.rd PWR_STATUS_SHARED_UP ≠ 0) ∧
    (∃ (s : State) (n : Fin 2), (s.dev.rd SMY_STAT_ACTIVE n = 0 ∨ (smyOf s.dev n).clocks ≤ s.dev.rd SMY_BUDGET_CLK n)) ∧
    (∃ (s : State) (m : Master) (n : Fin 2), s.dev.readable m (0x1A000 + 0x400 * n + 0x24) = true) ∧
    (∃ (s : State) (m : Master) (n : Fin 2), s.dev.readable m (0x1A000 + 0x400 * n + 0x2C) = true) ∧
    (∃ (s : State) (m : Master) (n : Fin 2) (data : Bool), s.dev.readable m (0x1A000 + 0x400 * n + if data then 0x2C else 0x24) = false) ∧
    (∃ (s : State) (m : Master) (n : Fin 2), s.dev.takes m (0x1A000 + 0x400 * n + 0x24) (SMY_STAT_BUSY, n) ∧ s.dev.rd SMY_CTRL_RUN n = 0 ∧
      s.dev.rd SMY_STAT_ACTIVE n = 0) ∧
    (∃ (s : State) (m : Master) (n : Fin 2) (v : Word32), s.dev.takes m (0x1A000 + 0x400 * n + 0x24) (SMY_STAT_BUSY, n) ∧
      (s.dev.rd SMY_CTRL_RUN n ≠ 0 ∨ s.dev.rd SMY_STAT_ACTIVE n ≠ 0) ∧
      (let i := s.dev.rd SMY_PADDR_ADDR n; v ≠ SMap.get 0xFC000000#32 (smyOf s.dev n).prog i)) ∧
    (∃ (s : State) (m : Master) (n : Fin 2), s.dev.takes m (0x1A000 + 0x400 * n + 0x2C) (SMY_STAT_BUSY, n) ∧ s.dev.rd SMY_CTRL_RUN n = 0 ∧
      s.dev.rd SMY_STAT_ACTIVE n = 0) ∧
    (∃ (s : State) (m : Master) (n : Fin 2) (v : Word32), s.dev.takes m (0x1A000 + 0x400 * n + 0x24) (SMY_STAT_BUSY, n) ∧
      (s.dev.rd SMY_CTRL_RUN n ≠ 0 ∨ s.dev.rd SMY_STAT_ACTIVE n ≠ 0) ∧
      (let i := s.dev.rd SMY_PADDR_ADDR n; v = SMap.get 0xFC000000#32 (smyOf s.dev n).prog i)) ∧
    (∃ (s : State) (m : Master) (n : Fin 2) (v : Word32), s.dev.takes m (0x1A000 + 0x400 * n + 0x2C) (SMY_STAT_BUSY, n) ∧
      (s.dev.rd SMY_CTRL_RUN n ≠ 0 ∨ s.dev.rd SMY_STAT_ACTIVE n ≠ 0) ∧
      (let i := s.dev.rd SMY_DADDR_ADDR n; let side := s.dev.on SMY_DADDR_Y n; BitVec.ofNat 16 v.toNat = (smyOf s.dev n).word side i)) ∧
    (∃ (s : State) (m : Master) (n : Fin 2) (v : Word32), s.dev.takes m (0x1A000 + 0x400 * n + 0x2C) (SMY_STAT_BUSY, n) ∧
      (s.dev.rd SMY_CTRL_RUN n ≠ 0 ∨ s.dev.rd SMY_STAT_ACTIVE n ≠ 0) ∧
      (let i := s.dev.rd SMY_DADDR_ADDR n; let side := s.dev.on SMY_DADDR_Y n; BitVec.ofNat 16 v.toNat ≠ (smyOf s.dev n).word side i)) ∧
    (∃ (s : State) (m : Master) (n : Fin 2), s.dev.takes m (0x1A000 + 0x400 * n) (SMY_STAT_BUSY, n) ∧ s.dev.rd SMY_STAT_QUEUED n ≠ 0) :=
  ⟨⟨stOf (runs [(SMY_STAT_ACTIVE, 1, 0), (SMY_CFG_ENTRY, 1, 4095)] full), .hostBar0, 1, ⟨takes_of (by decide +kernel), by decide +kernel⟩⟩,
   ⟨stOf (runs [(SMY_STAT_ACTIVE, 1, 0), (SMY_CTRL_RUN, 1, 0)] full), .hostBar0, 1, ⟨takes_of (by decide +kernel), by decide +kernel⟩⟩,
   ⟨stOf (runs [] full), .hostBar0, 1, ⟨takes_of (by decide +kernel), by decide +kernel⟩⟩,
   ⟨stOf (runs [(SMY_STAT_QUEUED, 1, 1), (SMY_CNT_TRIG_OVERRUN, 1, 65535)] full), .hostBar0, 1,
     ⟨takes_of (by decide +kernel), by decide +kernel⟩⟩,
   ⟨stOf (runs [] { full with sv := true }), .hostBar0, 1, ⟨takes_of (by decide +kernel), by decide +kernel⟩⟩,
   ⟨stOf (runs [(SMY_STAT_ACTIVE, 1, 0)] full), .hostBar0, 1, ⟨takes_of (by decide +kernel), by decide +kernel⟩⟩,
   ⟨stOf (runs [(SMY_STAT_ACTIVE, 1, 0), (SMY_STAT_QUEUED, 1, 1)] { full with queuedSrc := 9 }), 1, by decide +kernel⟩,
   ⟨stOf (runs [(SMY_STAT_ACTIVE, 1, 0)] { full with trigs := [(5, 3), (6, 4)] }), 1, 5, 3, [(6, 4)], by decide +kernel⟩,
   ⟨stOf (runs [] { full with trigs := [(5, 3), (6, 4)] }), 1, 5, 3, [(6, 4)], by decide +kernel⟩,
   ⟨stOf (runs [] { full with clocks := 1001 }), 1, by decide +kernel⟩,
   ⟨stOf (runs [] full), 1, by decide +kernel⟩,
   ⟨stOf (runs [(SMY_PADDR_ADDR, 1, 4095)] full), .hostBar0, 1, by decide +kernel⟩,
   ⟨stOf (runs [(SMY_DADDR_ADDR, 1, 4095), (SMY_DADDR_Y, 1, 1)] full), .hostBar0, 1, by decide +kernel⟩,
   ⟨stOf (up [(SYS_MODE_MODE, 0, 0), (PWR_STATUS_SHARED_UP, 0, 0)]), .hostBar0, 1, true, by decide +kernel⟩,
   ⟨stOf (runs [(SMY_STAT_ACTIVE, 1, 0), (SMY_CTRL_RUN, 1, 0), (SMY_PADDR_ADDR, 1, 4095)] full), .hostBar0, 1,
     ⟨takes_of (by decide +kernel), by decide +kernel⟩⟩,
   ⟨stOf (runs [] full), .hostBar0, 1, 5, ⟨takes_of (by decide +kernel), by decide +kernel⟩⟩,
   ⟨stOf (runs [(SMY_STAT_ACTIVE, 1, 0), (SMY_CTRL_RUN, 1, 0), (SMY_DADDR_ADDR, 1, 4095), (SMY_DADDR_Y, 1, 1)] full), .hostBar0, 1,
     ⟨takes_of (by decide +kernel), by decide +kernel⟩⟩,
   ⟨stOf (runs [(SMY_PADDR_ADDR, 1, 4095)] full), .hostBar0, 1, 0xFC000000, ⟨takes_of (by decide +kernel), by decide +kernel⟩⟩,
   ⟨stOf (runs [(SMY_DADDR_ADDR, 1, 4095), (SMY_DADDR_Y, 1, 1)] full), .hostBar0, 1, 0x10007,
     ⟨takes_of (by decide +kernel), by decide +kernel⟩⟩,
   ⟨stOf (runs [(SMY_DADDR_ADDR, 1, 4095), (SMY_DADDR_Y, 1, 1)] full), .hostBar0, 1, 8, ⟨takes_of (by decide +kernel), by decide +kernel⟩⟩,
   ⟨stOf (runs [(SMY_STAT_ACTIVE, 1, 0), (SMY_STAT_QUEUED, 1, 1)] full), .hostBar0, 1, ⟨takes_of (by decide +kernel), by decide +kernel⟩⟩⟩

/-- The scheduler with registers and lists given. -/
def sched (r : List (RegField × Nat × Nat)) (x : RveState) : Dev := { up ((SYS_MODE_MODE, 0, 3) :: r) with rve := x }

/-- Core 3 runs task 9. -/
def running9 (r : List (RegField × Nat × Nat)) (x : RveState) : Dev :=
  sched ([(RVE_TASK_STAT_STATE, 9, 4), (RVE_TASK_STAT_KIND, 9, 1), (RVE_TASK_STAT_PRIO, 9, 2), (RVE_CORE_RUNNING, 3, 1), (RVE_CORE_TASK, 3, 9),
    (RVE_TASK_STAT_CANCEL_REQ, 9, 1)] ++ r) { x with cores := [(3, { run := some (9, 5) })] }

/-- A request for task 9 whose completion the host takes. -/
def reqOf (f : Option (Fin 64)) : RveRequest := { task := 9, flow := f, target := .host, tag := 77 }

/-- An item for task 9. -/
def itemIn (f : Option (Fin 64)) (q : Nat) (x : ItemState) : RveItem := { req := reqOf f, share := 0, fseq := q, state := x, status := 2, result := 3 }

/-- Items, all of the common share. -/
def manyItems (n share : Nat) : SMap (Option RveItem) := (List.range n).map fun i => (i, some { req := reqOf none, share := share })

theorem witness_ReeveTasks :
    (∃ (s : State) (t : Fin 256), s.dev.rd PWR_STATUS_SHARED_UP ≠ 0 ∧ s.dev.rd RVE_CNT_TASKS < 256 ∧ s.dev.rd RVE_TASK_STAT_STATE t = 0) ∧
    (∃ (s : State) (t : Fin 256), s.dev.rd PWR_STATUS_SHARED_UP ≠ 0 ∧ s.dev.rd RVE_CNT_TASKS < 256 ∧ s.dev.rd RVE_TASK_STAT_STATE t ≠ 0) ∧
    (∃ (s : State), s.dev.rd PWR_STATUS_SHARED_UP ≠ 0 ∧ 256 ≤ s.dev.rd RVE_CNT_TASKS) ∧
    (∃ (s : State) (t : Fin 256), s.dev.rd RVE_TASK_STAT_STATE t = 0) ∧
    (∃ (s : State) (t : Fin 256), s.dev.rd RVE_TASK_STAT_STATE t = 1) ∧
    (∃ (s : State) (t : Fin 256), s.dev.rd RVE_TASK_STAT_STATE t = 5) ∧
    (∃ (s : State) (t : Fin 256), 2 ≤ s.dev.rd RVE_TASK_STAT_STATE t ∧ s.dev.rd RVE_TASK_STAT_STATE t ≠ 5) ∧
    (∃ (s : State) (p t i c : Nat) (r q : List Nat) (x : RveItem), p < 8 ∧ c < 4 ∧ readyList s.dev p = t :: r ∧
      (∀ k, k < p → readyList s.dev k = []) ∧ s.dev.rd RVE_TASK_STAT_PRIO t = p ∧ (taskOf s.dev t).item = none ∧
      (taskOf s.dev t).fifo = i :: q ∧ itemOf s.dev i = some x ∧ x.req.flow = none ∧ bit (s.dev.rd RVE_TASK_STAT_AFFINITY t) c = true ∧
      (coreOf s.dev c).slots.length < 8 ∧
      (∀ k, k < 4 → bit (s.dev.rd RVE_TASK_STAT_AFFINITY t) k = true → (coreOf s.dev c).slots.length < (coreOf s.dev k).slots.length ∨ ((coreOf s.dev c).slots.length = (coreOf s.dev k).slots.length ∧ c ≤ k))) ∧
    (∃ (s : State) (p t c u : Nat) (r rest : List Nat), p < 8 ∧ readyList s.dev p = t :: r ∧ (∀ k, k < p → readyList s.dev k = []) ∧
      s.dev.rd RVE_TASK_STAT_PRIO t = p ∧ taskEligible s.dev t = true ∧ c < 4 ∧
      (∀ k, k < 4 → (bit (s.dev.rd RVE_TASK_STAT_AFFINITY t) k = true ↔ k = c)) ∧ (coreOf s.dev c).slots = rest ++ [u] ∧ rest.length = 7 ∧
      u ∉ rest ∧ (taskOf s.dev u).item = none ∧ (∀ v ∈ rest, s.dev.rd RVE_TASK_STAT_PRIO v ≤ s.dev.rd RVE_TASK_STAT_PRIO u) ∧
      p < s.dev.rd RVE_TASK_STAT_PRIO u) ∧
    (∃ (s : State), (∀ k, k < 8 → readyList s.dev k = [])) ∧
    (∃ (s : State) (c : Fin 4), (coreOf s.dev c).run = none ∧ (coreOf s.dev c).slots = []) ∧
    (∃ (s : State) (c : Fin 4) (t : Fin 256) (before after : List Nat), (coreOf s.dev c).run = none ∧
      (coreOf s.dev c).slots = before ++ t.val :: after ∧ (∀ u ∈ before, s.dev.rd RVE_TASK_STAT_PRIO t < s.dev.rd RVE_TASK_STAT_PRIO u) ∧
      (∀ u ∈ after, s.dev.rd RVE_TASK_STAT_PRIO t ≤ s.dev.rd RVE_TASK_STAT_PRIO u)) ∧
    (∃ (s : State) (c : Fin 4) (p : Nat × Int), (coreOf s.dev c).run = some p) ∧
    (∃ (s : State) (c : Fin 4), (coreOf s.dev c).run = none) ∧
    (∃ (s : State) (c : Fin 4) (t : Fin 256) (t0 : Int), (coreOf s.dev c).run = some (t.val, t0) ∧ (taskOf s.dev t).deleteDue = false) ∧
    (∃ (s : State) (c : Fin 4) (t : Fin 256) (t0 : Int), (coreOf s.dev c).run = some (t.val, t0) ∧ (taskOf s.dev t).deleteDue = false ∧
      s.dev.rd RVE_TASK_STAT_KIND t = 0) ∧
    (∃ (s : State) (c : Fin 4) (t : Fin 256) (t0 : Int), (coreOf s.dev c).run = some (t.val, t0) ∧ (taskOf s.dev t).deleteDue = false ∧
      s.dev.rd RVE_TASK_STAT_KIND t ≠ 0 ∧ s.dev.rd RVE_TASK_STAT_SIGNAL t ≠ 0) ∧
    (∃ (s : State) (c : Fin 4) (t : Fin 256) (t0 : Int), (coreOf s.dev c).run = some (t.val, t0) ∧ (taskOf s.dev t).deleteDue = false ∧
      s.dev.rd RVE_TASK_STAT_KIND t ≠ 0 ∧ s.dev.rd RVE_TASK_STAT_SIGNAL t = 0 ∧ (taskOf s.dev t).fifo ≠ []) ∧
    (∃ (s : State) (c : Fin 4) (t : Fin 256) (t0 : Int), (coreOf s.dev c).run = some (t.val, t0) ∧ (taskOf s.dev t).deleteDue = false ∧
      s.dev.rd RVE_TASK_STAT_KIND t ≠ 0 ∧ s.dev.rd RVE_TASK_STAT_SIGNAL t = 0 ∧ (taskOf s.dev t).fifo = []) ∧
    (∃ (s : State) (c : Fin 4) (t : Fin 256) (t0 : Int) (arg : SleepArg), (coreOf s.dev c).run = some (t.val, t0) ∧
      (taskOf s.dev t).deleteDue = false ∧ s.dev.rd RVE_TASK_STAT_KIND t ≠ 0 ∧
      (let ahead : Int := match arg with | .frames n => n | .until f => signedOf 32 (fieldOf 32 ((f.toNat : Int) - s.dev.frameNo)); let refused : Bool := match arg with | .frames n => decide (n = 0 ∨ 2 ^ 31 ≤ n) | .until _ => decide (ahead = -2147483648); refused = true)) ∧
    (∃ (s : State) (c : Fin 4) (t : Fin 256) (t0 : Int) (arg : SleepArg), (coreOf s.dev c).run = some (t.val, t0) ∧
      (taskOf s.dev t).deleteDue = false ∧ s.dev.rd RVE_TASK_STAT_KIND t ≠ 0 ∧
      (let ahead : Int := match arg with | .frames n => n | .until f => signedOf 32 (fieldOf 32 ((f.toNat : Int) - s.dev.frameNo)); let refused : Bool := match arg with | .frames n => decide (n = 0 ∨ 2 ^ 31 ≤ n) | .until _ => decide (ahead = -2147483648); refused = true)) ∧
    (∃ (s : State) (c : Fin 4) (t : Fin 256) (t0 : Int) (arg : SleepArg), (coreOf s.dev c).run = some (t.val, t0) ∧
      (taskOf s.dev t).deleteDue = false ∧ s.dev.rd RVE_TASK_STAT_KIND t ≠ 0 ∧
      (let ahead : Int := match arg with | .frames n => n | .until f => signedOf 32 (fieldOf 32 ((f.toNat : Int) - s.dev.frameNo)); let refused : Bool := match arg with | .frames n => decide (n = 0 ∨ 2 ^ 31 ≤ n) | .until _ => decide (ahead = -2147483648); refused = false)) ∧
    (∃ (s : State) (c : Fin 4) (t : Fin 256) (t0 : Int) (arg : SleepArg), (coreOf s.dev c).run = some (t.val, t0) ∧
      (taskOf s.dev t).deleteDue = false ∧ s.dev.rd RVE_TASK_STAT_KIND t ≠ 0 ∧
      (let ahead : Int := match arg with | .frames n => n | .until f => signedOf 32 (fieldOf 32 ((f.toNat : Int) - s.dev.frameNo)); let refused : Bool := match arg with | .frames n => decide (n = 0 ∨ 2 ^ 31 ≤ n) | .until _ => decide (ahead = -2147483648); refused = false)) ∧
    (∃ (s : State), (s.dev.rve.sleep.filter (expired s.dev.frameNo)).length + (s.dev.rve.timeout.filter (expired s.dev.frameNo)).length ≤ 512) ∧
    (∃ (s : State) (c : Fin 4) (t : Fin 256) (t0 : Int), (coreOf s.dev c).run = some (t.val, t0) ∧ s.dev.rd PWR_STATUS_SHARED_UP ≠ 0 ∧
      (coreOf s.dev c).overlong = true) ∧
    (∃ (s : State) (c : Fin 4) (t : Fin 256) (t0 : Int), (coreOf s.dev c).run = some (t.val, t0) ∧ s.dev.rd PWR_STATUS_SHARED_UP ≠ 0 ∧
      (coreOf s.dev c).overlong = false) ∧
    (∃ (s : State) (t : Fin 256), s.dev.rd RVE_TASK_STAT_STATE t = 0) ∧
    (∃ (s : State) (t : Fin 256), s.dev.rd RVE_TASK_STAT_STATE t = 4) ∧
    (∃ (s : State) (t : Fin 256), s.dev.rd RVE_TASK_STAT_STATE t ≠ 0 ∧ s.dev.rd RVE_TASK_STAT_STATE t ≠ 4) ∧
    (∃ (s : State) (t : Fin 256), s.dev.rd RVE_TASK_STAT_STATE t ≠ 0 ∧ s.dev.rd RVE_TASK_STAT_STATE t ≠ 4) :=
  ⟨⟨stOf (running9 [(RVE_CNT_TASKS, 0, 255)] {}), 255, by decide +kernel⟩,
   ⟨stOf (running9 [(RVE_CNT_TASKS, 0, 255)] {}), 9, by decide +kernel⟩,
   ⟨stOf (running9 [(RVE_CNT_TASKS, 0, 256)] {}), by decide +kernel⟩,
   ⟨stOf (running9 [] {}), 8, by decide +kernel⟩,
   ⟨stOf (sched [(RVE_TASK_STAT_STATE, 8, 1), (RVE_TASK_STAT_PRIO, 8, 7)] { ready := [(7, [3])] }), 8, by decide +kernel⟩,
   ⟨stOf (sched [(RVE_TASK_STAT_STATE, 8, 5), (RVE_TASK_STAT_PRIO, 8, 7)] { ready := [(7, [3])], timeout := [⟨5, 1, 8⟩, ⟨6, 2, 9⟩] }), 8,
     by decide +kernel⟩,
   ⟨stOf (running9 [] {}), 9, by decide +kernel⟩,
   ⟨stOf (sched [(RVE_TASK_STAT_STATE, 8, 2), (RVE_TASK_STAT_PRIO, 8, 7), (RVE_TASK_STAT_AFFINITY, 8, 10)] { ready := [(7, [8, 3])], tasks := [(8, { fifo := [2047, 4], reason := .item })], items := [(2047, some (itemIn none 0 .queued))], cores := [(0, {}), (1, { slots := [1, 2, 3, 4, 5, 6, 7] }), (3, { slots := [11, 12, 13, 14, 15, 16, 17] })] }),
     7, 8, 2047, 1, [3], [4], itemIn none 0 .queued, by decide +kernel⟩,
   ⟨stOf (sched [(RVE_TASK_STAT_STATE, 8, 2), (RVE_TASK_STAT_PRIO, 8, 6), (RVE_TASK_STAT_PRIO, 7, 7), (RVE_TASK_STAT_PRIO, 6, 7), (RVE_TASK_STAT_AFFINITY, 8, 2)] { ready := [(6, [8, 3]), (7, [20])], tasks := [(8, { fifo := [2047, 4], reason := .item })], items := [(2047, some (itemIn none 0 .queued))], cores := [(0, {}), (1, { slots := [0, 1, 2, 3, 4, 5, 6, 7] })] }),
     6, 8, 1, 7, [3], [0, 1, 2, 3, 4, 5, 6], by decide +kernel⟩,
   ⟨stOf (sched [] {}), by decide +kernel⟩,
   ⟨stOf (sched [] {}), 3, by decide +kernel⟩,
   ⟨stOf (sched [(RVE_TASK_STAT_STATE, 9, 3), (RVE_TASK_STAT_SIGNAL, 9, 1), (RVE_TASK_STAT_PRIO, 9, 2), (RVE_TASK_STAT_PRIO, 8, 3), (RVE_TASK_STAT_PRIO, 7, 2), (RVE_TASK_QUEUE_RUNS, 9, 65535)] { tasks := [(9, { item := some 5, reason := .signal })], items := [(5, some (itemIn none 0 .slotted))], cores := [(3, { slots := [8, 9, 7] })] }),
     3, 9, [8], [7], by decide +kernel⟩,
   ⟨stOf (running9 [] {}), 3, (9, 5), by decide +kernel⟩,
   ⟨stOf (sched [] {}), 3, by decide +kernel⟩,
   ⟨stOf (running9 [] { ready := [(2, [4])] }), 3, 9, 5, by decide +kernel⟩,
   ⟨stOf (running9 [(RVE_TASK_STAT_KIND, 9, 0)] {}), 3, 9, 5, by decide +kernel⟩,
   ⟨stOf (running9 [(RVE_TASK_STAT_SIGNAL, 9, 1)] {}), 3, 9, 5, by decide +kernel⟩,
   ⟨stOf (running9 [] { tasks := [(9, { fifo := [4] })] }), 3, 9, 5, by decide +kernel⟩,
   ⟨stOf (running9 [(BLF_FRAME_NO_NO, 0, 4294967295)] { timeout := [⟨5, 1, 3⟩] }), 3, 9, 5, by decide +kernel⟩,
   ⟨stOf (running9 [] {}), 3, 9, 5, .frames 0, by decide +kernel⟩,
   ⟨stOf (running9 [] {}), 3, 9, 5, .until 2147483648, by decide +kernel⟩,
   ⟨stOf (running9 [] { sleep := [⟨5, 1, 3⟩] }), 3, 9, 5, .frames 2147483647, by decide +kernel⟩,
   ⟨stOf (running9 [] {}), 3, 9, 5, .until 0, by decide +kernel⟩,
   ⟨stOf (sched [(BLF_FRAME_NO_NO, 0, 3)] { sleep := [⟨4294967295, 1, 7⟩, ⟨4, 2, 8⟩], timeout := [⟨3, 3, 9⟩] }), by decide +kernel⟩,
   ⟨stOf ({ running9 [] {} with rve := { cores := [(3, { run := some (9, 5), overlong := true })] } }), 3, 9, 5, by decide +kernel⟩,
   ⟨stOf (running9 [(RVE_CORE_OVERLONG_CNT, 3, 65535)] {}), 3, 9, 5, by decide +kernel⟩,
   ⟨stOf (running9 [] {}), 7, by decide +kernel⟩,
   ⟨stOf (running9 [] {}), 9, by decide +kernel⟩,
   ⟨stOf (sched [(RVE_CNT_TASKS, 0, 5), (RVE_TASK_STAT_STATE, 9, 5), (RVE_TASK_STAT_PRIO, 9, 2), (RVE_TASK_STAT_FLOW, 9, 3)] { tasks := [(9, { fifo := [4] })], items := [(4, some (itemIn none 0 .queued))], timeout := [⟨5, 1, 9⟩] }),
     9, by decide +kernel⟩,
   ⟨stOf (sched [(RVE_CNT_TASKS, 0, 5), (RVE_TASK_STAT_STATE, 9, 5), (RVE_TASK_STAT_PRIO, 9, 2)] { tasks := [(9, { item := some 5 })], items := [(5, some (itemIn none 0 .running))], timeout := [⟨5, 1, 9⟩] }),
     9, by decide +kernel⟩⟩

theorem witness_ReeveItems :
    (∃ (s : State) (q : RveRequest), s.dev.rd RVE_TASK_STAT_STATE q.task = 0) ∧
    (∃ (s : State), (reqOf (some 63)).flow = some 63 ∧ 1024 ≤ flowAhead s.dev 63 (s.dev.rd RVE_FLOW_CFG_NEXT 63) + 1) ∧
    (∃ (s : State) (q : RveRequest) (i : Fin 2048), s.dev.rd RVE_TASK_STAT_STATE q.task ≠ 0 ∧ q.flow = none ∧ shareUsed s.dev 0 < 1856 ∧
      itemOf s.dev i = none) ∧
    (∃ (s : State) (q : RveRequest) (i : Fin 2048), s.dev.rd RVE_TASK_STAT_STATE q.task ≠ 0 ∧ q.flow = none ∧ shareUsed s.dev 0 < 1856 ∧
      itemOf s.dev i = none) ∧
    (∃ (s : State), (reqOf (some 63)).flow = some 63 ∧ flowAhead s.dev 63 (s.dev.rd RVE_FLOW_CFG_NEXT 63) + 1 < 1024) ∧
    (∃ (s : State) (q : RveRequest), s.dev.rd RVE_TASK_STAT_STATE q.task ≠ 0 ∧ q.flow = none ∧ 1856 ≤ shareUsed s.dev 0) ∧
    (∃ (s : State) (q : RveRequest) (i : Fin 2048), s.dev.rd RVE_TASK_STAT_STATE q.task ≠ 0 ∧ q.flow = none ∧ shareUsed s.dev 2 < 128 ∧
      itemOf s.dev i = none) ∧
    (∃ (s : State) (q : RveRequest) (i : Fin 2048), s.dev.rd RVE_TASK_STAT_STATE q.task ≠ 0 ∧ q.flow = none ∧ shareUsed s.dev 1 < 64 ∧
      itemOf s.dev i = none) ∧
    (∃ (s : State) (q : RveRequest), s.dev.rd RVE_TASK_STAT_STATE q.task ≠ 0 ∧ q.flow = none ∧ 64 ≤ shareUsed s.dev 1 ∧
      1856 ≤ shareUsed s.dev 0) ∧
    (∃ (s : State) (q : RveRequest) (i : Fin 2048), s.dev.rd RVE_TASK_STAT_STATE q.task ≠ 0 ∧ q.flow = none ∧ shareUsed s.dev 0 < 1856 ∧
      itemOf s.dev i = none) ∧
    (∃ (s : State) (q : RveRequest), s.dev.rd RVE_TASK_STAT_STATE q.task ≠ 0 ∧ q.flow = none ∧ 1856 ≤ shareUsed s.dev 0) ∧
    (∃ (s : State) (c : Fin 4), (coreOf s.dev c).run = none) ∧
    (∃ (s : State) (c : Fin 4) (t : Fin 256) (t0 : Int) (i : Nat) (x : RveItem), (coreOf s.dev c).run = some (t.val, t0) ∧
      (taskOf s.dev t).deleteDue = false ∧ (taskOf s.dev t).item = some i ∧ itemOf s.dev i = some x ∧ x.req.flow = none ∧ s.dev.noOverride) ∧
    (∃ (s : State) (c : Fin 4) (t : Fin 256) (t0 : Int) (i : Nat) (x : RveItem), (coreOf s.dev c).run = some (t.val, t0) ∧
      (taskOf s.dev t).deleteDue = false ∧ (taskOf s.dev t).item = some i ∧ itemOf s.dev i = some x ∧ x.req.flow = none ∧ s.dev.noOverride) ∧
    (∃ (s : State) (c : Fin 4) (t : Fin 256) (t0 : Int) (i : Nat) (x : RveItem), (coreOf s.dev c).run = some (t.val, t0) ∧
      (taskOf s.dev t).deleteDue = false ∧ (taskOf s.dev t).item = some i ∧ itemOf s.dev i = some x ∧
      (itemIn (some 63) 1 .running).req.flow = some 63 ∧ flowAhead s.dev 63 1 ≠ 0) ∧
    (∃ (s : State) (c : Fin 4) (t : Fin 256) (t0 : Int) (i : Nat) (x : RveItem), (coreOf s.dev c).run = some (t.val, t0) ∧
      (taskOf s.dev t).deleteDue = false ∧ (taskOf s.dev t).item = some i ∧ itemOf s.dev i = some x ∧
      (itemIn (some 63) 65535 .running).req.flow = some 63 ∧ flowAhead s.dev 63 65535 = 0 ∧ s.dev.noOverride) ∧
    (∃ (s : State) (f : Fin 64), (flowItems s.dev f (fun i => decide (i.state = .held ∧ flowAhead s.dev f i.fseq = 0)) = [])) ∧
    (∃ (s : State) (f : Fin 64) (i : Nat) (r : List Nat) (x : RveItem), (flowItems s.dev f (fun i => decide (i.state = .held ∧ flowAhead s.dev f i.fseq = 0)) = i :: r) ∧
      itemOf s.dev i = some x ∧ x.req.flow = some f ∧ s.dev.noOverride) ∧
    (∃ (s : State) (i : Fin 2048), itemOf s.dev i = none) ∧
    (∃ (s : State), itemOf s.dev 2047 = some (itemIn none 0 .held)) ∧
    (∃ (s : State), itemOf s.dev 2047 = some (itemIn none 0 .queued) ∧ s.dev.noOverride) ∧
    (∃ (s : State), itemOf s.dev 2047 = some (itemIn none 0 .slotted) ∧ s.dev.noOverride) ∧
    (∃ (s : State), itemOf s.dev 2047 = some (itemIn none 0 .running) ∧ s.dev.rd RVE_TASK_STAT_STATE 9 ≠ 5) ∧
    (∃ (s : State), itemOf s.dev 2047 = some (itemIn none 0 .running) ∧ s.dev.rd RVE_TASK_STAT_STATE 9 = 5 ∧ s.dev.noOverride) :=
  ⟨⟨stOf (running9 [(RVE_TASK_STAT_STATE, 9, 0)] {}), reqOf none, by decide +kernel⟩,
   ⟨stOf (running9 [(RVE_FLOW_CFG_NEXT, 63, 1022), (RVE_FLOW_STAT_REL, 63, 65535)] {}), by decide +kernel⟩,
   ⟨stOf (sched [(RVE_TASK_STAT_STATE, 9, 1), (RVE_TASK_STAT_PRIO, 9, 2)] {}), reqOf none, 2047, by decide +kernel⟩,
   ⟨stOf (running9 [] {}), reqOf none, 2047, by decide +kernel⟩,
   ⟨stOf (running9 [(RVE_FLOW_CFG_NEXT, 63, 65535), (RVE_FLOW_STAT_REL, 63, 64513)] {}), by decide +kernel⟩,
   ⟨stOf (running9 [] { items := manyItems 1856 0 }), reqOf none, by decide +kernel⟩,
   ⟨stOf (running9 [] {}), reqOf none, 2047, by decide +kernel⟩,
   ⟨stOf (running9 [] {}), reqOf none, 2047, by decide +kernel⟩,
   ⟨stOf (running9 [] { items := manyItems 1856 0 ++ (List.range 64).map fun i => (1856 + i, some { req := reqOf none, share := 1 }) }),
     reqOf none, by decide +kernel⟩,
   ⟨stOf (running9 [] {}), reqOf none, 2047, by decide +kernel⟩,
   ⟨stOf (running9 [] { items := manyItems 1856 0 }), reqOf none, by decide +kernel⟩,
   ⟨stOf (sched [] {}), 3, by decide +kernel⟩,
   ⟨stOf (running9 [] { tasks := [(9, { item := some 5, fifo := [6] })], items := [(5, some (itemIn none 0 .running))] }), 3, 9, 5, 5,
     itemIn none 0 .running,
     ⟨by decide +kernel, by decide +kernel, by decide +kernel, by decide +kernel, ⟨by decide +kernel, fun l => by cases l <;> decide +kernel⟩⟩⟩,
   ⟨stOf (running9 [(RVE_TASK_STAT_SIGNAL, 9, 1)] { tasks := [(9, { item := some 5 })], items := [(5, some (itemIn none 0 .running))] }),
     3, 9, 5, 5, itemIn none 0 .running,
     ⟨by decide +kernel, by decide +kernel, by decide +kernel, by decide +kernel, ⟨by decide +kernel, fun l => by cases l <;> decide +kernel⟩⟩⟩,
   ⟨stOf (running9 [] { tasks := [(9, { item := some 5 })], items := [(5, some (itemIn (some 63) 1 .running))] }), 3, 9, 5, 5,
     itemIn (some 63) 1 .running, by decide +kernel⟩,
   ⟨stOf (running9 [(RVE_FLOW_STAT_REL, 63, 65535)] { tasks := [(9, { item := some 5 })], items := [(5, some (itemIn (some 63) 65535 .running))] }),
     3, 9, 5, 5, itemIn (some 63) 65535 .running,
     ⟨by decide +kernel, by decide +kernel, by decide +kernel, by decide +kernel, ⟨by decide +kernel, by decide +kernel, fun l => by cases l <;> decide +kernel⟩⟩⟩,
   ⟨stOf (sched [] {}), 63, by decide +kernel⟩,
   ⟨stOf (sched [(RVE_FLOW_STAT_REL, 63, 65535)] { items := [(5, some (itemIn (some 63) 65535 .held))] }), 63, 5, [],
     itemIn (some 63) 65535 .held, ⟨by decide +kernel, by decide +kernel, by decide +kernel, fun l => by cases l <;> decide +kernel⟩⟩,
   ⟨stOf (running9 [] {}), 2047, by decide +kernel⟩,
   ⟨stOf (running9 [] { items := [(2047, some (itemIn none 0 .held))] }), by decide +kernel⟩,
   ⟨stOf (running9 [] { tasks := [(9, { fifo := [3, 2047, 4] })], items := [(2047, some (itemIn none 0 .queued))] }),
     ⟨by decide +kernel, fun l => by cases l <;> decide +kernel⟩⟩,
   ⟨stOf (sched [(RVE_TASK_STAT_STATE, 9, 3), (RVE_TASK_STAT_SIGNAL, 9, 1), (RVE_TASK_STAT_PRIO, 9, 3)] { tasks := [(9, { item := some 2047 })], items := [(2047, some (itemIn none 0 .slotted))], cores := [(2, { slots := [1, 9] })] }),
     ⟨by decide +kernel, fun l => by cases l <;> decide +kernel⟩⟩,
   ⟨stOf (running9 [] { tasks := [(9, { item := some 2047 })], items := [(2047, some (itemIn none 0 .running))] }), by decide +kernel⟩,
   ⟨stOf (running9 [(RVE_TASK_STAT_STATE, 9, 5)] { tasks := [(9, { item := some 2047 })], items := [(2047, some (itemIn none 0 .running))] }),
     ⟨by decide +kernel, by decide +kernel, fun l => by cases l <;> decide +kernel⟩⟩⟩

/-- Bytes of a body, by place. -/
def bodyOf (l : List (Nat × Byte)) : List Byte := (List.range 48).map fun i => (l.lookup i).getD 0

/-- A command of queue 1 at the head of its axis set. -/
def motion (op : Nat) (l : List (Nat × Byte)) : PlanCmd :=
  { sq := 1, rsn := 7, opcode := op, body := bodyOf l, pct := 100, limset := 0, order := 3, headAt := some 0 }

/-- Its command in flight. -/
def flightOf (op : Nat) (l : List (Nat × Byte)) : HostCmd := hostCmd op 0 (bodyOf l)

/-- Limits far above what the small motions below need. -/
def wide : LimitSet :=
  ⟨f64Nat 1000000000, f64Nat 1000000000000, f64Nat 1000000000000, f64Nat 1000000000000000000, f64Nat 1000000000, f64Nat 1000000000000,
    f64Nat 1000000000000000000, 100, 100, 100, 100, 1000⟩

/-- A Planner with the wide limits in every axis set named here. -/
def planning (r : List (RegField × Nat × Nat)) (fl : List HostCmd) (x : PlannerState) : Dev :=
  { linked r with
    host := { flight := fl }
    pln := { x with limits := [(0, List.replicate 16 wide), (16, List.replicate 16 wide), (31, List.replicate 16 wide), (32, List.replicate 16 wide)] } }

/-- An axis set whose head command is this one. -/
def headed (a : Nat) (c : PlanCmd) : SMap ArmPlan := [(a, { queue := [c] })]

/-- A move of 100 counts over 20 frames. -/
def twenty : Plan :=
  let go := fun (k : Nat) => [{ start := 0, dur := 20, stopFr := 1, last := true
                                c := [f64Zero, f64Zero, f64Zero, f64Nat (10 * k), f64Neg (f64Nat (15 * k)), f64Nat (6 * k)] : Seg }]
  { segs := [(144, go 100)], len := 20, decel := 15, path := go 1, gauge := [.joint [(144, f64Nat 100)]] }

/-- A command in that move. -/
def moving20 (l : List (Nat × Byte)) : Run := { cmd := motion 0x10 l, start := 0, zero := 0, plan := twenty }

/-- The joint move of axis set 32. -/
def jointMove : Dev := planning [] [] { arms := headed 32 (motion 0x10 [(0, 32), (16, 100)]) }

/-- A move that asks to blend, with one behind it. -/
def blendMove : Dev :=
  { planning [] [] { arms := [(32, { run := some { moving20 [(0, 32), (1, 64)] with zero := 90 }, queue := [motion 0x10 [(0, 32), (1, 64), (16, 200)]] })] }
    with tb := { ext := 0 } }
/-- The second move. -/
def blendCmd : PlanCmd := motion 0x10 [(0, 32), (1, 64), (16, 200)]
/-- The first. -/
def blendRun : Run := { moving20 [(0, 32), (1, 64)] with zero := 90 }
/-- Arm 0 without joints. -/
def noJoints (fl : List HostCmd) (x : List ArmPlan) : Dev := planning [] fl { models := [(0, some {})], arms := x.map fun y => (0, y) }
/-- Its move. -/
def noRun : Run := { blendRun with plan := { len := 20, decel := 15 } }

/-- An arm whose one joint has limits that no blend keeps. -/
def stiff : Dev :=
  let m : ArmModel := { joints := [{
    prismatic := true, jointNo := 5, a := 0, alpha := 0, dOff := 0, theta := 0, scale := 0x3FF0000000000000, vmax := 1, amax := 1, jmax := 1 }] }
  { planning [(PLN_VLIM_HI_CNT, 5, 1000000)] []
      { models := [(0, some m)], arms := [(0, { run := some { blendRun with plan := { twenty with segs := twenty.segs.map fun q => (5, q.2) } }
                                                queue := [blendCmd] })] } with tb := { ext := 0 } }

/-- A local axis whose target lies beyond Hedge. -/
def beyond : Dev :=
  planning [(STP_VLIM_HI_STEPS, 0, 50)] [flightOf 0x10 [(0, 16), (16, 100)]] { arms := headed 16 (motion 0x10 [(0, 16), (16, 100)]) }
/-- An arm without joints, moved by a number of micrometres. -/
def cartMove (op : Nat) (um : List (Nat × Byte)) (l : LimitSet) : Dev :=
  let d := planning [] [flightOf op um] { models := [(0, some {})], arms := headed 0 (motion op um) }
  { d with pln := { d.pln with limits := [(0, List.replicate 16 l)] } }

/-- An arm of one joint that moves 100 counts in 20 frames, with a speed limit for it. -/
def capped : Dev :=
  let m : ArmModel := { joints := [{
    prismatic := true, jointNo := 5, a := 0, alpha := 0, dOff := 0, theta := 0, scale := 0x3FF0000000000000, vmax := 0x7E37E43C8800759C
    amax := 0x7E37E43C8800759C, jmax := 0x7E37E43C8800759C }] }
  let c : SafetyConfig := { arms := [(0, { sls := [(0, 50)] })], joints := [(5, { vMax := 210526 })] }
  let lane : LaneState := { image := { params := c } }
  { planning [(PLN_VLIM_HI_CNT, 5, 1000000), (BLF_FRAME_NO_NO, 0, 5)] []
      { models := [(0, some m)], arms := [(0, { run := some { moving20 [] with plan := { twenty with segs := twenty.segs.map fun q => (5, q.2) } } })] }
    with lanes := ⟨lane, lane, lane⟩ }

/-- That move with a request to hold. -/
def holding5 : Dev := planning [(BLF_FRAME_NO_NO, 0, 5)] [flightOf 0x21 [(0, 32), (1, 1)]] { arms := [(32, { run := some (moving20 [(0, 32)]) })] }
/-- The move held half way. -/
def heldRun : Run := { moving20 [(0, 32)] with mode := .held, hold := some (twenty, f64Frac 1 2, none) }
/-- With a request to resume. -/
def held50 : Dev := planning [(BLF_FRAME_NO_NO, 0, 50)] [flightOf 0x21 [(0, 32), (1, 2)]] { arms := [(32, { run := some heldRun })] }

/-- A run of an arm without joints. -/
def idleRun : Run := { moving20 [] with plan := { len := 20, decel := 15 } }
/-- With a request to hold. -/
def idle5 : Dev := noJoints [flightOf 0x21 [(1, 1)]] [{ run := some idleRun }]
/-- Held, with a request to resume. -/
def idleHeld : Dev :=
  noJoints [flightOf 0x21 [(1, 2)]] [{ run := some { idleRun with mode := .held, hold := some (idleRun.plan, f64Zero, none) } }]
/-- The limited arm with no path. -/
def slow0 : Dev :=
  { capped with pln := { capped.pln with
      arms := [(0, { run := some { moving20 [] with plan := { twenty with segs := twenty.segs.map fun q => (5, q.2), path := [], gauge := [] } } })] } }

/-- A cam as its bytes. -/
def camBytes (l : List CamPoint) : List Byte :=
  List.replicate 16 0 ++ l.flatMap fun p =>
    bytesLE 4 p.m ++ bytesLE 4 0 ++ bytesLE 8 (f64ToBits p.y).toNat ++ bytesLE 8 (f64ToBits p.y1).toNat ++ bytesLE 8 (f64ToBits p.y2).toNat

/-- A joint move that a commit starts. -/
def startPart : CommitPart := { axset := 32, kind := .start, run := { moving20 [(0, 32)] with start := 9, zero := 9 } }

theorem witness_PlannerMoves :
    (∃ (s : State) (a : Fin 36), planReady s.dev a 0x10 = none) ∧
    (∃ (s : State) (a : Fin 36) (c : PlanCmd), planReady s.dev a 0x10 = some (c, none) ∧ badFields s.dev a c = false ∧ syncOf c = none ∧
      c.startAt = none ∧ atFrame c = false ∧ capOf s.dev a = none ∧ (∀ t ∈ jointTargets s.dev a c, inHedge s.dev t.1 t.2 = true)) ∧
    (∃ (s : State) (a : Fin 36) (c : PlanCmd) (h : HostCmd), planReady s.dev a 0x10 = some (c, none) ∧ (armOf s.dev a).queue = [c] ∧
      s.dev.pays c h ∧ badFields s.dev a c = true) ∧
    (∃ (s : State) (a : Fin 36) (c : PlanCmd) (h : HostCmd), planReady s.dev a 0x10 = some (c, none) ∧ (armOf s.dev a).queue = [c] ∧
      s.dev.pays c h ∧ badFields s.dev a c = false ∧ (limitSetOf s.dev a c.limset).isSome = true ∧
      (∃ t ∈ jointTargets s.dev a c, inHedge s.dev t.1 t.2 = false)) ∧
    (∃ (s : State) (a : Fin 36) (c : PlanCmd) (r : Run), planReady s.dev a 0x10 = some (c, some r) ∧ badFields s.dev a c = false ∧
      capOf s.dev a = none ∧ (∀ t ∈ jointTargets s.dev a c, inHedge s.dev t.1 t.2 = true)) ∧
    (∃ (s : State) (a : Fin 16) (cmd : Instr) (op : Nat), ((cmd = .moveL a ∧ op = 0x11) ∨ (cmd = .moveC a ∧ op = 0x12) ∨ (cmd = .moveP a ∧ op = 0x13)) ∧
      (modelOf s.dev a = none ∨ (planReady s.dev a op = none ∧ (armOf s.dev a).run.all (fun r => r.cmd.opcode != op || !tracks r.cmd || r.mode != .moving) = true))) ∧
    (∃ (s : State) (a : Fin 16) (m : ArmModel) (cmd : Instr) (op : Nat) (c : PlanCmd), modelOf s.dev a = some m ∧
      ((cmd = .moveL a ∧ op = 0x11) ∨ (cmd = .moveC a ∧ op = 0x12) ∨ (cmd = .moveP a ∧ op = 0x13)) ∧ planReady s.dev a op = some (c, none) ∧
      ((armOf s.dev 0).queue = [c] ∧ s.dev.pays c (flightOf 0x12 [(39, 9), (40, 9)]) ∧ badFields s.dev 0 c = true)) ∧
    (∃ (s : State) (a : Fin 16) (m : ArmModel) (cmd : Instr) (op : Nat) (c : PlanCmd), modelOf s.dev a = some m ∧
      ((cmd = .moveL a ∧ op = 0x11) ∨ (cmd = .moveC a ∧ op = 0x12) ∨ (cmd = .moveP a ∧ op = 0x13)) ∧ planReady s.dev a op = some (c, none) ∧
      ((armOf s.dev 0).queue = [c] ∧ s.dev.pays c (flightOf 0x11 [(16, 0xA0), (17, 0x86), (18, 1)]) ∧ (cartJob s.dev 0 m c none).1.tooLong s.dev 0 = true)) ∧
    (∃ (s : State) (a : Fin 16) (m : ArmModel) (cmd : Instr) (op : Nat) (c : PlanCmd), modelOf s.dev a = some m ∧
      ((cmd = .moveL a ∧ op = 0x11) ∨ (cmd = .moveC a ∧ op = 0x12) ∨ (cmd = .moveP a ∧ op = 0x13)) ∧ planReady s.dev a op = some (c, none) ∧
      ((armOf s.dev 0).queue = [c] ∧ s.dev.pays c (flightOf 0x11 [(16, 20)]) ∧ (cartJob s.dev 0 m c none).1.tooLong s.dev 0 = false ∧ ((cartJob s.dev 0 m c none).1.motion s.dev 0 0).isNone = true)) ∧
    (∃ (s : State) (a : Fin 16) (m : ArmModel) (cmd : Instr) (op : Nat) (c : PlanCmd), modelOf s.dev a = some m ∧
      ((cmd = .moveL a ∧ op = 0x11) ∨ (cmd = .moveC a ∧ op = 0x12) ∨ (cmd = .moveP a ∧ op = 0x13)) ∧ planReady s.dev a op = some (c, none) ∧
      ((armOf s.dev 0).queue = [c] ∧ s.dev.pays c (flightOf 0x11 [(16, 5)]) ∧ badFields s.dev 0 c = false ∧ (cartJob s.dev 0 m c none).1.tooLong s.dev 0 = false ∧ confOk m c (cartJob s.dev 0 m c none).1.ends = true ∧ (((cartJob s.dev 0 m c none).1.motion s.dev 0 0).any fun x => (previewFails s.dev 0 m c x.xs).isSome) = true)) ∧
    (∃ (s : State) (a : Fin 16) (m : ArmModel) (cmd : Instr) (op : Nat) (c : PlanCmd), modelOf s.dev a = some m ∧
      ((cmd = .moveL a ∧ op = 0x11) ∨ (cmd = .moveC a ∧ op = 0x12) ∨ (cmd = .moveP a ∧ op = 0x13)) ∧ planReady s.dev a op = some (c, none) ∧
      badFields s.dev a c = false ∧ syncOf c = none ∧ c.startAt = none ∧ atFrame c = false ∧ waiting s.dev a = none ∧
      (let job := (cartJob s.dev a m c none).1; job.tooLong s.dev 0 = false) ∧
      (let job := (cartJob s.dev a m c none).1; confOk m c job.ends = true) ∧ (limitSetOf s.dev a c.limset).isSome = true ∧
      ((cartJob s.dev 0 m c none).1.tooLong s.dev ((cartJob s.dev 0 m c none).1.slowed s.dev 0 ((cartJob s.dev 0 m c none).1.slowed s.dev 0 0 (pointsWithin s.dev 0)) fun xs => pointsWithin s.dev 0 xs && pointsCapped s.dev 0 xs) = false) ∧
      ((((cartJob s.dev 0 m c none).1.motion s.dev 0 0).any fun x => (previewFails s.dev 0 m c x.xs).isNone && (withStops s.dev 0 ((cartJob s.dev 0 m c none).1.plan s.dev x 0).segs).isSome) = true)) :=
  ⟨⟨stOf (up []), 35, by decide +kernel⟩,
   ⟨stOf (noJoints [] [{ queue := [motion 0x10 []] }]), 0, motion 0x10 [], by decide +kernel⟩,
   ⟨stOf (planning [] [flightOf 0x10 [(0, 32), (1, 128)]] { arms := headed 32 (motion 0x10 [(0, 32), (1, 128)]) }), 32,
     motion 0x10 [(0, 32), (1, 128)], flightOf 0x10 [(0, 32), (1, 128)],
     ⟨by decide +kernel, by decide +kernel, by unfold Dev.pays; decide +kernel, by decide +kernel⟩⟩,
   ⟨stOf (beyond), 16, motion 0x10 [(0, 16), (16, 100)], flightOf 0x10 [(0, 16), (16, 100)],
     ⟨by decide +kernel, by decide +kernel, by unfold Dev.pays; decide +kernel, by decide +kernel⟩⟩,
   ⟨stOf (noJoints [] [{ run := some noRun, queue := [blendCmd] }]), 0, blendCmd, noRun, by decide +kernel⟩,
   ⟨stOf (up []), 15, .moveP 15, 0x13, ⟨.inr (.inr ⟨rfl, rfl⟩), by decide +kernel⟩⟩,
   ⟨stOf (cartMove 0x12 [(39, 9), (40, 9)] wide), 0, {}, .moveC 0, 0x12, motion 0x12 [(39, 9), (40, 9)],
     ⟨by decide +kernel, .inr (.inl ⟨rfl, rfl⟩), by decide +kernel, by decide +kernel, by unfold Dev.pays; decide +kernel, by decide +kernel⟩⟩,
   ⟨stOf (cartMove 0x11 [(16, 0xA0), (17, 0x86), (18, 1)] { wide with vc := f64Nat 1 }), 0, {}, .moveL 0, 0x11,
     motion 0x11 [(16, 0xA0), (17, 0x86), (18, 1)],
     ⟨by decide +kernel, .inl ⟨rfl, rfl⟩, by decide +kernel, by decide +kernel, by unfold Dev.pays; decide +kernel, by decide +kernel⟩⟩,
   ⟨stOf (cartMove 0x11 [(16, 20)] wide), 0, {}, .moveL 0, 0x11, motion 0x11 [(16, 20)],
     ⟨by decide +kernel, .inl ⟨rfl, rfl⟩, by decide +kernel, by decide +kernel, by unfold Dev.pays; decide +kernel, by decide +kernel⟩⟩,
   ⟨stOf ((fun (d : Dev) => { d with pln := { d.pln with zones := { margin := 1000000, boxes := [(⟨0, 0, 0⟩, ⟨1, 1, 1⟩)] } } }) (cartMove 0x11 [(16, 5)] wide)),
     0, {}, .moveL 0, 0x11, motion 0x11 [(16, 5)],
     ⟨by decide +kernel, .inl ⟨rfl, rfl⟩, by decide +kernel, by decide +kernel, by unfold Dev.pays; decide +kernel, by decide +kernel⟩⟩,
   ⟨stOf (cartMove 0x11 [(16, 5)] wide), 0, {}, .moveL 0, 0x11, motion 0x11 [(16, 5)],
     ⟨by decide +kernel, .inl ⟨rfl, rfl⟩, by decide +kernel⟩⟩⟩

theorem witness_PlannerCouplingsAndZones :
    (∃ (s : State) (a : Fin 36) (c : PlanCmd) (j : Nat), coupleSlot s.dev a c = some j ∧ badFields s.dev a c = false ∧ syncOf c = none ∧
      c.startAt = none ∧ atFrame c = false ∧ planReady s.dev a 0x18 = some (c, none) ∧ slotAtRest s.dev j = true) ∧
    (∃ (s : State) (a : Fin 36) (c : PlanCmd) (j : Nat) (h : HostCmd), coupleSlot s.dev a c = some j ∧ badFields s.dev a c = false ∧
      syncOf c = none ∧ c.startAt = none ∧ atFrame c = false ∧ planReady s.dev a 0x18 = some (c, none) ∧ slotAtRest s.dev j = false ∧
      (armOf s.dev a).queue = [c] ∧ s.dev.pays c h) ∧
    (∃ (s : State) (a : Fin 36) (c : PlanCmd) (j : Nat), coupleSlot s.dev a c = some j ∧ badFields s.dev a c = false ∧ syncOf c = none ∧
      c.startAt = none ∧ atFrame c = false ∧ planReady s.dev a 0x19 = some (c, none) ∧
      coupleOf s.dev j = some { axset := 35, master := 7, phase := .inForce } ∧ imageAtRest s.dev 7 = false) ∧
    (∃ (s : State) (a : Fin 36) (c : PlanCmd) (j : Nat), coupleSlot s.dev a c = some j ∧ badFields s.dev a c = false ∧ syncOf c = none ∧
      c.startAt = none ∧ atFrame c = false ∧ planReady s.dev a 0x1A = some (c, none) ∧ (bodyAt c.body 0x13).testBit 0 = false ∧
      slotAtRest s.dev j = true) ∧
    (∃ (s : State) (a : Fin 36) (c : PlanCmd) (j : Nat), coupleSlot s.dev a c = some j ∧ badFields s.dev a c = false ∧ syncOf c = none ∧
      c.startAt = none ∧ atFrame c = false ∧ planReady s.dev a 0x1A = some (c, none) ∧ (bodyAt c.body 0x13).testBit 0 = true ∧
      coupleOf s.dev j = some { axset := 35, master := 7, cam := some 2, phase := .inForce } ∧
      (((camOf s.dev 2).getLast?.any fun l => (camOf s.dev (bodyAt c.body 0x12)).head?.any fun f => decide (l.y = f.y ∧ l.y1 = f.y1 ∧ l.y2 = f.y2)) = true)) ∧
    (∃ (s : State) (a : Fin 36) (c : PlanCmd) (j : Nat) (h : HostCmd), coupleSlot s.dev a c = some j ∧ badFields s.dev a c = false ∧
      syncOf c = none ∧ c.startAt = none ∧ atFrame c = false ∧ planReady s.dev a 0x1A = some (c, none) ∧
      (bodyAt c.body 0x13).testBit 0 = true ∧ coupleOf s.dev j = none ∧ (armOf s.dev a).queue = [c] ∧ s.dev.pays c h) ∧
    (∃ (s : State) (a : Fin 36) (c : PlanCmd) (j : Nat), coupleSlot s.dev a c = some j ∧ badFields s.dev a c = false ∧ syncOf c = none ∧
      c.startAt = none ∧ atFrame c = false ∧ planReady s.dev a 0x1B = some (c, none) ∧
      coupleOf s.dev j = some { axset := 35, master := 7, cam := some 2, phase := .inForce } ∧ imageAtRest s.dev 7 = false) ∧
    (∃ (s : State) (a : Fin 36) (c : PlanCmd) (j : Nat) (h : HostCmd), coupleSlot s.dev a c = some j ∧ badFields s.dev a c = false ∧
      syncOf c = none ∧ c.startAt = none ∧ atFrame c = false ∧ coupleOf s.dev j = none ∧ (armOf s.dev a).queue = [c] ∧ s.dev.pays c h ∧
      planReady s.dev a 0x19 = some (c, none)) ∧
    (∃ (s : State) (a : Fin 36) (c : PlanCmd) (j : Nat) (h : HostCmd), coupleSlot s.dev a c = some j ∧ badFields s.dev a c = false ∧
      syncOf c = none ∧ c.startAt = none ∧ atFrame c = false ∧
      coupleOf s.dev j = some { axset := 35, master := 7, cam := some 2, phase := .inForce } ∧ imageAtRest s.dev 7 = true ∧
      (armOf s.dev a).queue = [c] ∧ s.dev.pays c h ∧ planReady s.dev a 0x1B = some (c, none)) ∧
    (∃ (s : State) (a : Fin 36), planReady s.dev a 0x18 = none) ∧
    (∃ (s : State) (a : Fin 36), planReady s.dev a 0x19 = none) ∧
    (∃ (s : State) (a : Fin 36), planReady s.dev a 0x1A = none) ∧
    (∃ (s : State) (a : Fin 36), planReady s.dev a 0x1B = none) ∧
    (∃ (s : State) (a : Fin 16), planReady s.dev a 0x1C = none) ∧
    (∃ (s : State) (a : Fin 16) (c : PlanCmd) (h : HostCmd), planReady s.dev a 0x1C = some (c, none) ∧ (armOf s.dev a).queue = [c] ∧
      s.dev.pays c h ∧ badFields s.dev a c = false ∧ waiting s.dev a = none ∧ atFrame c = false ∧ syncOf c = none ∧
      (∀ b, b < 16 → b ≠ a.val → s.dev.idleSet b)) ∧
    (∃ (s : State) (a : Fin 16), waiting s.dev a = none) ∧
    (∃ (s : State) (a : Fin 16) (c : PlanCmd), waiting s.dev a = some c ∧ (∀ b, b < 16 → b ≠ a.val → s.dev.idleSet b) ∧
      (∀ z, z < 32 → (zoneReq c).testBit z = true → s.dev.rd PLN_ZONE_OWNER z = a ∨ s.dev.rd PLN_ZONE_OWNER z = 0x3F)) ∧
    (∃ (s : State) (a : Fin 16) (c : PlanCmd) (t : Int), waiting s.dev a = some c ∧ c.zoneSince = some t ∧
      (let due := s.dev.rd PLN_CFG2_ZONE_WAIT ≠ 0 ∧ t + 1000000 * s.dev.rd PLN_CFG2_ZONE_WAIT < s.dev.tb.ext; ¬ due)) ∧
    (∃ (s : State) (a : Fin 16) (c : PlanCmd) (h : HostCmd) (t : Int), waiting s.dev a = some c ∧ c.zoneSince = some t ∧
      (let due := s.dev.rd PLN_CFG2_ZONE_WAIT ≠ 0 ∧ t + 1000000 * s.dev.rd PLN_CFG2_ZONE_WAIT < s.dev.tb.ext; due) ∧
      (armOf s.dev a).queue = [c] ∧ s.dev.pays c h) ∧
    (∃ (s : State) (tag : BitVec 16), (3, motion 0x10 [(3, 64), (12, 9), (14, 2)]) ∈ syncHeads s.dev tag.toNat ∧
      syncOf (motion 0x10 [(3, 64), (12, 9), (14, 2)]) = some (9, 2) ∧
      (2 ≤ ((syncHeads s.dev tag.toNat).filter fun q => decide (syncOf q.2 = some (9, 2))).length)) ∧
    (∃ (s : State) (a : Fin 36) (c : PlanCmd) (rest : List PlanCmd) (f : Nat), (armOf s.dev a).run = none ∧
      (armOf s.dev a).queue = c :: rest ∧ c.headAt = some f ∧ (atFrame c = false ∨ c.startAt.isSome = true)) ∧
    (∃ (s : State) (a : Fin 36) (c : PlanCmd) (rest : List PlanCmd) (f : Nat), (armOf s.dev a).run = none ∧
      (armOf s.dev a).queue = c :: rest ∧ c.headAt = some f ∧ atFrame c = true ∧ c.startAt = none ∧ 32 ≤ frameDiff (body32 c.body 0xC) f) ∧
    (∃ (s : State) (a : Fin 36) (c : PlanCmd) (rest : List PlanCmd) (f : Nat), (armOf s.dev a).run = none ∧
      (armOf s.dev a).queue = c :: rest ∧ c.headAt = some f ∧ atFrame c = true ∧ c.startAt = none ∧ frameDiff (body32 c.body 0xC) f < 32 ∧
      rest = [] ∧ s.dev.pays c (flightOf 0x10 [(3, 32), (12, 31)])) ∧
    (∃ (s : State) (a : Fin 36), (armOf s.dev a).run = none) ∧
    (∃ (s : State) (a : Fin 36) (r : Run) (f : Nat) (h : HostCmd), (armOf s.dev a).run = some r ∧ (armOf s.dev a).next = none ∧
      (armOf s.dev a).queue = [] ∧ r.fin = some f ∧ s.dev.pays r.cmd h ∧ frameDiff s.dev.frameNo f < 0 ∧ r.mode ≠ .coupling) ∧
    (∃ (s : State) (a : Fin 36) (r : Run) (f : Nat) (h : HostCmd), (armOf s.dev a).run = some r ∧ (armOf s.dev a).next = none ∧
      (armOf s.dev a).queue = [] ∧ r.fin = some f ∧ s.dev.pays r.cmd h ∧ 0 ≤ frameDiff s.dev.frameNo f ∧ r.mode = .moving) ∧
    (∃ (s : State) (a : Fin 36) (r : Run) (f : Nat) (h : HostCmd), (armOf s.dev a).run = some r ∧ (armOf s.dev a).next = none ∧
      (armOf s.dev a).queue = [] ∧ r.fin = some f ∧ s.dev.pays r.cmd h ∧ 0 ≤ frameDiff s.dev.frameNo f ∧ r.mode = .stopping 2) ∧
    (∃ (s : State) (a : Fin 36) (r : Run) (f : Nat) (h : HostCmd), (armOf s.dev a).run = some r ∧ (armOf s.dev a).next = none ∧
      (armOf s.dev a).queue = [] ∧ r.fin = some f ∧ s.dev.pays r.cmd h ∧ 0 ≤ frameDiff s.dev.frameNo f ∧ r.mode = .stopping 6) ∧
    (∃ (s : State) (a : Fin 36) (r : Run) (f : Nat) (h : HostCmd), (armOf s.dev a).run = some r ∧ (armOf s.dev a).next = none ∧
      (armOf s.dev a).queue = [] ∧ r.fin = some f ∧ s.dev.pays r.cmd h ∧ 0 ≤ frameDiff s.dev.frameNo f ∧ r.mode = .holding) ∧
    (∃ (s : State) (a : Fin 16) (c : PlanCmd) (f : Nat), planReady s.dev a 0x1C = some (c, none) ∧ badFields s.dev a c = false ∧
      waiting s.dev a = none ∧ atFrame c = true ∧ syncOf c = none ∧ c.startAt = some f) ∧
    (∃ (s : State) (a : Fin 36) (r n : Run) (f : Nat) (h : HostCmd), (armOf s.dev a).run = some r ∧ (armOf s.dev a).next = some n ∧
      r.till.isSome = true ∧ r.fin = some f ∧ r.mode = .moving ∧ 0 ≤ frameDiff s.dev.frameNo f ∧ s.dev.pays r.cmd h) :=
  ⟨⟨stOf (planning [] [] { arms := headed 35 (motion 0x18 [(0, 35), (16, 7), (20, 255), (24, 3), (28, 9)]) }), 35,
     motion 0x18 [(0, 35), (16, 7), (20, 255), (24, 3), (28, 9)], 147, by decide +kernel⟩,
   ⟨stOf ({ planning [] [flightOf 0x18 [(0, 35), (24, 3), (28, 9)]] { arms := headed 35 (motion 0x18 [(0, 35), (24, 3), (28, 9)]) } with mil := { slots := [(19, { vref := f64Nat 1 })] } }),
     35, motion 0x18 [(0, 35), (24, 3), (28, 9)], 147, flightOf 0x18 [(0, 35), (24, 3), (28, 9)],
     ⟨by decide +kernel, by decide +kernel, by decide +kernel, by decide +kernel, ⟨by decide +kernel, by decide +kernel, by decide +kernel, by decide +kernel, by unfold Dev.pays; decide +kernel⟩⟩⟩,
   ⟨stOf (planning [] [] { arms := headed 35 (motion 0x19 [(0, 35), (28, 9)]), couples := [(147, some { axset := 35, master := 7, phase := .inForce })] }),
     35, motion 0x19 [(0, 35), (28, 9)], 147, by decide +kernel⟩,
   ⟨stOf (planning [] [] { arms := headed 35 (motion 0x1A [(0, 35), (18, 63), (28, 9), (24, 1)]) }), 35,
     motion 0x1A [(0, 35), (18, 63), (28, 9), (24, 1)], 147, by decide +kernel⟩,
   ⟨stOf (planning [] [] { arms := headed 35 (motion 0x1A [(0, 35), (18, 63), (19, 1)]), couples := [(147, some { axset := 35, master := 7, cam := some 2, phase := .inForce })], cams := [(2, camBytes [⟨0, f64Zero, f64Zero, f64Zero⟩, ⟨9, f64Nat 3, f64Zero, f64Nat 1⟩]), (63, camBytes [⟨0, f64Nat 3, f64Zero, f64Nat 1⟩])] }),
     35, motion 0x1A [(0, 35), (18, 63), (19, 1)], 147, by decide +kernel⟩,
   ⟨stOf (planning [] [flightOf 0x1A [(0, 35), (19, 1)]] { arms := headed 35 (motion 0x1A [(0, 35), (19, 1)]) }), 35,
     motion 0x1A [(0, 35), (19, 1)], 147, flightOf 0x1A [(0, 35), (19, 1)],
     ⟨by decide +kernel, by decide +kernel, by decide +kernel, by decide +kernel, ⟨by decide +kernel, by decide +kernel, by decide +kernel, by decide +kernel, ⟨by decide +kernel, by unfold Dev.pays; decide +kernel⟩⟩⟩⟩,
   ⟨stOf (planning [] [] { arms := headed 35 (motion 0x1B [(0, 35), (20, 9)]), couples := [(147, some { axset := 35, master := 7, cam := some 2, phase := .inForce })] }),
     35, motion 0x1B [(0, 35), (20, 9)], 147, by decide +kernel⟩,
   ⟨stOf (planning [] [flightOf 0x19 [(0, 35)]] { arms := headed 35 (motion 0x19 [(0, 35)]) }), 35, motion 0x19 [(0, 35)], 147,
     flightOf 0x19 [(0, 35)],
     ⟨by decide +kernel, by decide +kernel, by decide +kernel, by decide +kernel, ⟨by decide +kernel, by decide +kernel, by decide +kernel, by unfold Dev.pays; decide +kernel, by decide +kernel⟩⟩⟩,
   ⟨stOf (planning [] [flightOf 0x1B [(0, 35)]] { arms := headed 35 (motion 0x1B [(0, 35)]), couples := [(147, some { axset := 35, master := 7, cam := some 2, phase := .inForce })], masters := [(7, { lostFr := 3 })] }),
     35, motion 0x1B [(0, 35)], 147, flightOf 0x1B [(0, 35)],
     ⟨by decide +kernel, by decide +kernel, by decide +kernel, by decide +kernel, ⟨by decide +kernel, by decide +kernel, by decide +kernel, by decide +kernel, by unfold Dev.pays; decide +kernel, by decide +kernel⟩⟩⟩,
   ⟨stOf (up []), 35, by decide +kernel⟩,
   ⟨stOf (up []), 35, by decide +kernel⟩,
   ⟨stOf (up []), 35, by decide +kernel⟩,
   ⟨stOf (up []), 35, by decide +kernel⟩,
   ⟨stOf (up []), 15, by decide +kernel⟩,
   ⟨stOf (planning [(PLN_ZONE_OWNER, 31, 15), (PLN_ZONE_OWNER, 30, 15), (PLN_ZONE_OWNER, 3, 2)] [flightOf 0x1C [(11, 128)]] { arms := headed 15 (motion 0x1C [(11, 128)]) }),
     15, motion 0x1C [(11, 128)], flightOf 0x1C [(11, 128)],
     ⟨by decide +kernel, by decide +kernel, by unfold Dev.pays; decide +kernel, by decide +kernel, by decide +kernel, by decide +kernel, by decide +kernel, by unfold Dev.idleSet; decide +kernel⟩⟩,
   ⟨stOf (up []), 15, by decide +kernel⟩,
   ⟨stOf (planning [(PLN_ZONE_OWNER, 30, 15), (PLN_ZONE_OWNER, 3, 2)] [] { arms := headed 15 { motion 0x10 [(7, 192)] with zoneSince := some 5 } }),
     15, { motion 0x10 [(7, 192)] with zoneSince := some 5 },
     ⟨by decide +kernel, by unfold Dev.idleSet; decide +kernel, by decide +kernel⟩⟩,
   ⟨stOf ({ planning [(PLN_CFG2_ZONE_WAIT, 0, 2)] [] { arms := headed 15 { motion 0x10 [(7, 192)] with zoneSince := some 5 } } with tb := { ext := 2000005 } }),
     15, { motion 0x10 [(7, 192)] with zoneSince := some 5 }, 5, by decide +kernel⟩,
   ⟨stOf ({ planning [(PLN_CFG2_ZONE_WAIT, 0, 2)] [flightOf 0x10 [(7, 192)]] { arms := headed 15 { motion 0x10 [(7, 192)] with zoneSince := some 5 } } with tb := { ext := 2000006 } }),
     15, { motion 0x10 [(7, 192)] with zoneSince := some 5 }, flightOf 0x10 [(7, 192)], 5,
     ⟨by decide +kernel, by decide +kernel, by decide +kernel, by decide +kernel, by unfold Dev.pays; decide +kernel⟩⟩,
   ⟨stOf (planning [] [] { arms := [(3, { queue := [motion 0x10 [(3, 64), (12, 9), (14, 2)]] }), (35, { queue := [{ motion 0x10 [(3, 64), (12, 9), (14, 2)] with rsn := 8 }] })] }),
     9, by decide +kernel⟩,
   ⟨stOf (planning [] [] { arms := headed 35 (motion 0x10 []) }), 35, motion 0x10 [], [], 0, by decide +kernel⟩,
   ⟨stOf (planning [] [] { arms := [(35, { queue := [motion 0x10 [(3, 32), (12, 32)], motion 0x11 []] })] }), 35,
     motion 0x10 [(3, 32), (12, 32)], [motion 0x11 []], 0, by decide +kernel⟩,
   ⟨stOf (planning [] [flightOf 0x10 [(3, 32), (12, 31)]] { arms := headed 35 (motion 0x10 [(3, 32), (12, 31)]) }), 35,
     motion 0x10 [(3, 32), (12, 31)], [], 0,
     ⟨by decide +kernel, by decide +kernel, by decide +kernel, by decide +kernel, ⟨by decide +kernel, by decide +kernel, by decide +kernel, by unfold Dev.pays; decide +kernel⟩⟩⟩,
   ⟨stOf (up []), 35, by decide +kernel⟩,
   ⟨stOf (planning [(BLF_FRAME_NO_NO, 0, 19)] [flightOf 0x10 []] { arms := [(32, { run := some { moving20 [] with fin := some 20 } })] }),
     32, { moving20 [] with fin := some 20 }, 20, flightOf 0x10 [],
     ⟨by decide +kernel, by decide +kernel, by decide +kernel, by decide +kernel, by unfold Dev.pays; decide +kernel, by decide +kernel⟩⟩,
   ⟨stOf (planning [(BLF_FRAME_NO_NO, 0, 20), (PLN_ZONE_OWNER, 0, 4)] [flightOf 0x10 [(8, 255)]] { arms := [(4, { run := some { moving20 [(8, 255)] with fin := some 20, flags := 32, points := 7 } })] }),
     4, { moving20 [(8, 255)] with fin := some 20, flags := 32, points := 7 }, 20, flightOf 0x10 [(8, 255)],
     ⟨by decide +kernel, by decide +kernel, by decide +kernel, by decide +kernel, by unfold Dev.pays; decide +kernel, by decide +kernel⟩⟩,
   ⟨stOf (planning [(BLF_FRAME_NO_NO, 0, 20)] [flightOf 0x10 []] { arms := [(32, { run := some { moving20 [] with fin := some 20, mode := .stopping 2, flags := 32 } })] }),
     32, { moving20 [] with fin := some 20, mode := .stopping 2, flags := 32 }, 20, flightOf 0x10 [],
     ⟨by decide +kernel, by decide +kernel, by decide +kernel, by decide +kernel, by unfold Dev.pays; decide +kernel, by decide +kernel⟩⟩,
   ⟨stOf (planning [(BLF_FRAME_NO_NO, 0, 20)] [flightOf 0x10 []] { arms := [(32, { run := some { moving20 [] with fin := some 20, mode := .stopping 6, flags := 32 } })] }),
     32, { moving20 [] with fin := some 20, mode := .stopping 6, flags := 32 }, 20, flightOf 0x10 [],
     ⟨by decide +kernel, by decide +kernel, by decide +kernel, by decide +kernel, by unfold Dev.pays; decide +kernel, by decide +kernel⟩⟩,
   ⟨stOf (planning [(BLF_FRAME_NO_NO, 0, 20)] [flightOf 0x10 []] { arms := [(32, { run := some { moving20 [] with fin := some 20, mode := .holding } })] }),
     32, { moving20 [] with fin := some 20, mode := .holding }, 20, flightOf 0x10 [],
     ⟨by decide +kernel, by decide +kernel, by decide +kernel, by decide +kernel, by unfold Dev.pays; decide +kernel, by decide +kernel⟩⟩,
   ⟨stOf (planning [] [] { arms := headed 15 { motion 0x1C [(3, 32), (12, 9)] with startAt := some 9, noBlend := true } }), 15,
     { motion 0x1C [(3, 32), (12, 9)] with startAt := some 9, noBlend := true }, 9, by decide +kernel⟩,
   ⟨stOf (planning [(BLF_FRAME_NO_NO, 0, 20)] [flightOf 0x10 []] { arms := [(32, { run := some { moving20 [] with fin := some 15, till := some 15 }, next := some { moving20 [] with zero := 15 } })] }),
     32, { moving20 [] with fin := some 15, till := some 15 }, { moving20 [] with zero := 15 }, 15, flightOf 0x10 [],
     ⟨by decide +kernel, by decide +kernel, by decide +kernel, by decide +kernel, ⟨by decide +kernel, by decide +kernel, by unfold Dev.pays; decide +kernel⟩⟩⟩⟩

theorem witness_PlannerChanges :
    (∃ (s : State) (sq : Fin 17) (rsn : Word32) (c : HostCmd), s.dev.owes sq rsn.toNat 0x20 c ∧
      (let a := bodyAt c.body 0; (armOf s.dev a).run = none)) ∧
    (∃ (s : State) (sq : Fin 17) (rsn : Word32) (c : HostCmd), s.dev.owes sq rsn.toNat 0x21 c ∧ bodyAt c.body 1 ≠ 0) ∧
    (∃ (s : State) (sq : Fin 17) (rsn : Word32) (c : HostCmd), s.dev.owes sq rsn.toNat 0x21 c ∧ bodyAt c.body 1 ≠ 1) ∧
    (∃ (s : State) (sq : Fin 17) (rsn : Word32) (c : HostCmd), s.dev.owes sq rsn.toNat 0x21 c ∧ bodyAt c.body 1 ≠ 2) ∧
    (∃ (s : State) (sq : Fin 17) (rsn : Word32) (c : HostCmd), s.dev.owes sq rsn.toNat 0x21 c ∧
      (bodyAt c.body 1 = 0 ∧ (armOf s.dev (bodyAt c.body 0)).run = none ∧ (armOf s.dev (bodyAt c.body 0)).next = none ∧ (armOf s.dev (bodyAt c.body 0)).queue = [{ motion 0x10 [(0, 35)] with sq := 3, rsn := 9 }] ∧ s.dev.pays { motion 0x10 [(0, 35)] with sq := 3, rsn := 9 } { flightOf 0x10 [(0, 35)] with sq := 3, rsn := 9 })) ∧
    (∃ (s : State) (sq : Fin 17) (rsn : Word32) (c : HostCmd), s.dev.owes sq rsn.toNat 0x21 c ∧ bodyAt c.body 1 = 1 ∧
      (let a := bodyAt c.body 0; (armOf s.dev a).run = none)) ∧
    (∃ (s : State) (sq : Fin 17) (rsn : Word32) (c : HostCmd), s.dev.owes sq rsn.toNat 0x21 c ∧ bodyAt c.body 1 = 2 ∧
      (let a := bodyAt c.body 0; (armOf s.dev a).run = none)) ∧
    (∃ (s : State) (cmd : Instr) (sq : Fin 17) (rsn : Word32) (c : HostCmd) (r : Run) (mode : RunMode), ((cmd = .stopAndFlush sq rsn ∧ mode = .stopping 1 ∧ bodyAt c.body 1 = 0) ∨ (cmd = .feedHold sq rsn ∧ mode = .holding ∧ bodyAt c.body 1 = 1)) ∧
      s.dev.owes sq rsn.toNat 0x21 c ∧ (let a := bodyAt c.body 0; (armOf s.dev a).run = some r) ∧ r.mode = .moving ∧
      (let a := bodyAt c.body 0; (armOf s.dev a).next = none) ∧ (let a := bodyAt c.body 0; (armOf s.dev a).queue = []) ∧
      (let a := bodyAt c.body 0; stagedSplice s.dev a = none) ∧
      (((spliceBase idle5 0).any fun x => (x.splice idle5 0 true true).any fun p => !p.clamped) = true)) ∧
    (∃ (s : State) (sq : Fin 17) (rsn : Word32) (c : HostCmd) (r : Run) (base : Plan) (at' : F64), s.dev.owes sq rsn.toNat 0x21 c ∧
      bodyAt c.body 1 = 2 ∧ (let a := bodyAt c.body 0; (armOf s.dev a).run = some r) ∧ r.mode = .held ∧ r.hold = some (base, at', none) ∧
      (let a := bodyAt c.body 0; (armOf s.dev a).next = none) ∧ (let a := bodyAt c.body 0; stagedSplice s.dev a = none) ∧
      (((SpliceBase.splice ⟨{ idleRun with mode := .held, hold := some (idleRun.plan, f64Zero, none) }, none, idleRun.plan, none, earliest idleHeld, (f64Floor (pathTime [] f64Zero 64 f64Zero (f64Nat 20))).toNat, (f64Zero, f64Zero, f64Zero)⟩ idleHeld 0 false false).any fun p => !p.clamped) = true)) ∧
    (∃ (s : State) (a : Fin 32), (armOf s.dev a).run = none) ∧
    (∃ (s : State), (((armOf s.dev 0).run.any fun r => decide (r.mode = .moving)) = true) ∧ (armOf s.dev 0).next = none ∧
      stagedSplice s.dev 0 = none ∧
      (((spliceBase s.dev 0).any fun x => f64Lt (slack (f64Nat 1)) (planOver s.dev 0 x.base x.frame) && ((x.splice s.dev 0 true false).any fun p => !p.clamped)) = true)) ∧
    (∃ (s : State) (a : Fin 32), setStopped s.dev a = false) ∧
    (∃ (s : State) (a : Fin 32) (p : PlanCmd) (h : HostCmd), setStopped s.dev a = true ∧ (armOf s.dev a).run = none ∧
      (armOf s.dev a).next = none ∧ (armOf s.dev a).queue = [p] ∧ s.dev.pays p h ∧ (∀ j ∈ slotsOf s.dev a, coupleOf s.dev j = none)) ∧
    (∃ (s : State) (sq : Fin 17) (rsn : Word32) (c : HostCmd), s.dev.owes sq rsn.toNat 0x28 c ∧
      (let kind := bodyAt c.body 0; let i := bodyAt c.body 1; tableInUse s.dev kind i = true)) ∧
    (∃ (s : State) (sq : Fin 17) (rsn : Word32) (bytes : List Byte) (c : HostCmd), s.dev.owes sq rsn.toNat 0x28 c ∧
      (let kind := bodyAt c.body 0; let i := bodyAt c.body 1; tableInUse s.dev kind i = false) ∧
      (let kind := bodyAt c.body 0; let i := bodyAt c.body 1; let good := bytes.length = body32 c.body 4 ∧ crc32c bytes = body32 c.body 0x10 ∧ tableGood s.dev kind i bytes = true; ¬ good)) ∧
    (∃ (s : State) (sq : Fin 17) (rsn : Word32) (bytes : List Byte) (c : HostCmd), s.dev.owes sq rsn.toNat 0x28 c ∧
      (let kind := bodyAt c.body 0; let i := bodyAt c.body 1; tableInUse s.dev kind i = false) ∧
      (let kind := bodyAt c.body 0; let i := bodyAt c.body 1; let good := bytes.length = body32 c.body 4 ∧ crc32c bytes = body32 c.body 0x10 ∧ tableGood s.dev kind i bytes = true; good)) ∧
    (∃ (s : State) (sq : Fin 17) (rsn : Word32) (c : HostCmd), s.dev.owes sq rsn.toNat 0x30 c) ∧
    (∃ (s : State) (k : Commit) (p : CommitPart), s.dev.pln.staged = [k] ∧ commitReady s.dev k = true ∧ k.parts = [p] ∧ p.kind = .start ∧
      p.couples = [] ∧ p.answer = [] ∧ p.axset < 36 ∧ 0 ≤ frameDiff k.fs (earliest s.dev)) ∧
    (∃ (s : State) (k : Commit) (p : CommitPart), s.dev.pln.staged = [k] ∧ commitReady s.dev k = true ∧ k.parts = [p] ∧ p.kind = .start ∧
      p.couples = [] ∧ p.answer = [] ∧ p.axset < 36 ∧ frameDiff k.fs (earliest s.dev) < 0 ∧ k.fixed = false ∧ p.run.track = none ∧
      (∀ b, b < 16 → (waiting s.dev b).isNone = true)) ∧
    (∃ (s : State) (k : Commit) (p : CommitPart), s.dev.pln.staged = [k] ∧ commitReady s.dev k = true ∧ k.parts = [p] ∧ p.kind = .start ∧
      p.couples = [] ∧ p.answer = [] ∧ p.axset < 36 ∧ frameDiff 9 (earliest s.dev) < 0 ∧ (armOf s.dev 32).queue = [motion 0x10 [(0, 32)]] ∧
      s.dev.pays (motion 0x10 [(0, 32)]) (flightOf 0x10 [(0, 32)])) ∧
    (∃ (s : State), s.dev.pln.staged = [] ∧ (∀ b, b < 16 → (waiting s.dev b).isNone = true) ∧
      (∀ a, a < 36 → (armOf s.dev a).next = none ∧ (armOf s.dev a).run = none ∧ (armOf s.dev a).low = false)) :=
  ⟨⟨stOf (planning [] [flightOf 0x20 [(0, 35), (1, 3), (2, 50), (3, 4)]] { arms := headed 35 (motion 0x10 []) }), 1, 7,
     flightOf 0x20 [(0, 35), (1, 3), (2, 50), (3, 4)], ⟨by unfold Dev.owes; decide +kernel, by decide +kernel⟩⟩,
   ⟨stOf (planning [] [flightOf 0x21 [(0, 35), (1, 1)]] {}), 1, 7, flightOf 0x21 [(0, 35), (1, 1)],
     ⟨by unfold Dev.owes; decide +kernel, by decide +kernel⟩⟩,
   ⟨stOf (planning [] [flightOf 0x21 [(0, 35), (1, 2)]] {}), 1, 7, flightOf 0x21 [(0, 35), (1, 2)],
     ⟨by unfold Dev.owes; decide +kernel, by decide +kernel⟩⟩,
   ⟨stOf (planning [] [flightOf 0x21 [(0, 35)]] {}), 1, 7, flightOf 0x21 [(0, 35)],
     ⟨by unfold Dev.owes; decide +kernel, by decide +kernel⟩⟩,
   ⟨stOf (planning [] [flightOf 0x21 [(0, 35)], { flightOf 0x10 [(0, 35)] with sq := 3, rsn := 9 }] { arms := headed 35 { motion 0x10 [(0, 35)] with sq := 3, rsn := 9 } }),
     1, 7, flightOf 0x21 [(0, 35)], ⟨by unfold Dev.owes; decide +kernel, by unfold Dev.pays; decide +kernel⟩⟩,
   ⟨stOf (planning [] [flightOf 0x21 [(0, 35), (1, 1)]] {}), 1, 7, flightOf 0x21 [(0, 35), (1, 1)],
     ⟨by unfold Dev.owes; decide +kernel, by decide +kernel⟩⟩,
   ⟨stOf (planning [] [flightOf 0x21 [(0, 35), (1, 2)]] {}), 1, 7, flightOf 0x21 [(0, 35), (1, 2)],
     ⟨by unfold Dev.owes; decide +kernel, by decide +kernel⟩⟩,
   ⟨stOf (idle5), .feedHold 1 7, 1, 7, flightOf 0x21 [(1, 1)], idleRun, .holding,
     ⟨.inr ⟨rfl, rfl, by decide +kernel⟩, by unfold Dev.owes; decide +kernel, by decide +kernel⟩⟩,
   ⟨stOf (idleHeld), 1, 7, flightOf 0x21 [(1, 2)], { idleRun with mode := .held, hold := some (idleRun.plan, f64Zero, none) },
     idleRun.plan, f64Zero, ⟨by unfold Dev.owes; decide +kernel, by decide +kernel⟩⟩,
   ⟨stOf (planning [] [] {}), 31, by decide +kernel⟩,
   ⟨stOf (slow0), by decide +kernel⟩,
   ⟨stOf (planning [] [] {}), 31, by decide +kernel⟩,
   ⟨stOf ({ planning [(LN_STATUS_STATE, 0, 5), (LN_STATUS_STATE, 1, 5)] [flightOf 0x10 [(0, 31)]] { arms := headed 31 (motion 0x10 [(0, 31)]) } with tb := {} }),
     31, motion 0x10 [(0, 31)], flightOf 0x10 [(0, 31)],
     ⟨by decide +kernel, by decide +kernel, by decide +kernel, by decide +kernel, by unfold Dev.pays; decide +kernel, by decide +kernel⟩⟩,
   ⟨stOf (planning [] [flightOf 0x28 [(0, 2), (1, 35)]] { arms := headed 35 (motion 0x10 []) }), 1, 7, flightOf 0x28 [(0, 2), (1, 35)],
     ⟨by unfold Dev.owes; decide +kernel, by decide +kernel⟩⟩,
   ⟨stOf (planning [] [flightOf 0x28 [(0, 3), (1, 15), (4, 48)]] {}), 1, 7, List.replicate 48 0, flightOf 0x28 [(0, 3), (1, 15), (4, 48)],
     ⟨by unfold Dev.owes; decide +kernel, by decide +kernel⟩⟩,
   ⟨stOf (planning [] [hostCmd 0x28 3 ([3, 15, 0, 0] ++ bytesLE 4 48 ++ List.replicate 8 0 ++ bytesLE 4 (crc32c (List.replicate 48 (1 : Byte))))] {}),
     1, 7, List.replicate 48 1,
     hostCmd 0x28 3 ([3, 15, 0, 0] ++ bytesLE 4 48 ++ List.replicate 8 0 ++ bytesLE 4 (crc32c (List.replicate 48 (1 : Byte)))),
     ⟨by unfold Dev.owes; decide +kernel, by decide +kernel⟩⟩,
   ⟨stOf (planning [] [flightOf 0x30 [(0, 32)]] { arms := [(32, { run := some (moving20 []) })] }), 1, 7, flightOf 0x30 [(0, 32)],
     by unfold Dev.owes; decide +kernel⟩,
   ⟨stOf (planning [(BLF_FRAME_NO_NO, 0, 5)] [] { arms := headed 32 (motion 0x10 [(0, 32)]), staged := [{ fs := 9, parts := [startPart] }] }),
     { fs := 9, parts := [startPart] }, startPart, by decide +kernel⟩,
   ⟨stOf (planning [(BLF_FRAME_NO_NO, 0, 8)] [] { arms := headed 32 (motion 0x10 [(0, 32)]), staged := [{ fs := 9, parts := [startPart] }] }),
     { fs := 9, parts := [startPart] }, startPart, by decide +kernel⟩,
   ⟨stOf (planning [(BLF_FRAME_NO_NO, 0, 8)] [flightOf 0x10 [(0, 32)]] { arms := headed 32 (motion 0x10 [(0, 32)]), staged := [{ fs := 9, fixed := true, parts := [startPart] }] }),
     { fs := 9, fixed := true, parts := [startPart] }, startPart,
     ⟨by decide +kernel, by decide +kernel, by decide +kernel, by decide +kernel, ⟨by decide +kernel, by decide +kernel, by decide +kernel, by decide +kernel, ⟨by decide +kernel, by unfold Dev.pays; decide +kernel⟩⟩⟩⟩,
   ⟨stOf (planning [] [] {}), ⟨by decide +kernel, by decide +kernel, fun _ _ => ⟨rfl, rfl, rfl⟩⟩⟩⟩

/-- A section of four slots of groups; this device takes the first. -/
def sec : GroupSection :=
  { groupId := 77, slots := (List.range 4).map fun m => { kind := 2, eligible := true, ident := 100 + m, units := 4, axsets := 4, arms := 1 } }

/-- A device in that group, at this level 0. -/
def grouped (r : List (RegField × Nat × Nat)) (x : GrpLevel) : Dev :=
  let y : LaneState := { image := { params := { groups := [(0, sec)] } } }
  { linked ([(LN_STATUS_STATE, 0, 5), (LN_STATUS_STATE, 1, 5), (LN_STATUS_STATE, 2, 5)] ++ r) with
    lanes := ⟨y, y, y⟩, grp := { levels := [(0, x)] }, tb := { ticking := true } }

/-- A Steward of its own group that also stewards the group above, where slot 1 is its. -/
def yielding : Dev :=
  let z : GroupSection := { groupId := 99, slots := [{ kind := 2, eligible := true, ident := 50 }, { kind := 2, eligible := true, ident := 77 }] }
  let y : LaneState := { image := { params := { groups := [(0, sec), (1, z)] } } }
  { grouped [] {} with
    lanes := ⟨y, y, y⟩, grp := { levels := [(0, { role := 4 }), (1, { role := 4, partition := true }), (2, { role := 1, quiet := 3 })] } }

/-- Members 1 to 3 of it as a Steward records them. -/
def roster (x : GrpMember) : SMap GrpMember := [(1, x), (2, x), (3, { x with present := true, state := 2, heard := true })]

/-- A command frame's entry. -/
def forwarded (op : Nat) : List Byte := [BitVec.ofNat 8 op] ++ List.replicate 15 0 ++ [31] ++ List.replicate 47 0

theorem witness_GroupFrames :
    (∃ (s : State) (l : Fin 5), (¬ s.dev.cycleDue l)) ∧
    (∃ (s : State) (l : Fin 5), s.dev.cycleDue l ∧ (levelOf s.dev l).role ≤ 2) ∧
    (∃ (s : State) (l : Fin 5), s.dev.cycleDue l ∧ (levelOf s.dev l).role ≤ 2) ∧
    (∃ (s : State) (l : Fin 5), s.dev.cycleDue l ∧ 4 ≤ (levelOf s.dev l).role) ∧
    (∃ (s : State) (l : Fin 5), s.dev.cycleDue l ∧ 4 ≤ (levelOf s.dev l).role) ∧
    (∃ (s : State) (l : Fin 5), s.dev.cycleDue l ∧ 4 ≤ (levelOf s.dev l).role) ∧
    (∃ (s : State) (l : Fin 5), (atLevel s.dev l = false ∨ s.dev.tb.ticking = false ∨ s.dev.frameNo % max 1 (sectionOf s.dev l).gcyc ≠ max 1 (sectionOf s.dev l).gcyc / 2 ∨ (levelOf s.dev l).sentIn = some s.dev.frameNo ∨ (levelOf s.dev l).role = 0 ∨ 4 ≤ (levelOf s.dev l).role)) ∧
    (∃ (s : State) (l : Fin 5), atLevel s.dev l = true ∧ s.dev.tb.ticking = true ∧
      s.dev.frameNo % max 1 (sectionOf s.dev l).gcyc = max 1 (sectionOf s.dev l).gcyc / 2 ∧ (levelOf s.dev l).sentIn ≠ some s.dev.frameNo ∧
      1 ≤ (levelOf s.dev l).role ∧ (levelOf s.dev l).role ≤ 3) ∧
    (∃ (s : State) (f : GroupFrame) (x : GroupEntry), levelOfGroup s.dev f.groupId = none ∧ levelOfGroup s.dev x.groupId = none) ∧
    (∃ (s : State) (f : GroupFrame) (x : GroupEntry) (l : Nat), levelOfGroup s.dev f.groupId = some l ∧
      levelOfGroup s.dev x.groupId = some l ∧ (f.length ≠ 128 ∨ levelGood s.dev l f.slot f.level = false) ∧
      (x.length ≠ 128 ∨ levelGood s.dev l x.slot x.level = false) ∧ (levelOf s.dev l).role < 3) ∧
    (∃ (s : State) (f : GroupFrame) (l : Nat), s.dev.hears f.groupId f.slot f.level f.length l ∧ 1 ≤ (levelOf s.dev l).role ∧
      (levelOf s.dev l).role ≤ 3 ∧
      (∀ m, (levelOf s.dev l).stw = some m → f.slot ≤ m ∨ ((levelOf s.dev l).heard = false ∧ (levelOf s.dev l).quiet ≠ 0))) ∧
    (∃ (s : State) (f : GroupFrame) (l : Nat), s.dev.hears f.groupId f.slot f.level f.length l ∧ 1 ≤ (levelOf s.dev l).role ∧
      (levelOf s.dev l).role ≤ 3 ∧
      (∀ m, (levelOf s.dev l).stw = some m → f.slot ≤ m ∨ ((levelOf s.dev l).heard = false ∧ (levelOf s.dev l).quiet ≠ 0))) ∧
    (∃ (s : State) (f : GroupFrame) (l : Nat), s.dev.hears f.groupId f.slot f.level f.length l ∧ 4 ≤ (levelOf s.dev l).role ∧
      ownSlot s.dev l < f.slot) ∧
    (∃ (s : State) (f : GroupFrame) (l : Nat), s.dev.hears f.groupId f.slot f.level f.length l ∧ (levelOf s.dev l).role < 3) ∧
    (∃ (s : State) (f : GroupFrame) (l : Nat), s.dev.hears f.groupId f.slot f.level f.length l ∧ 3 ≤ (levelOf s.dev l).role) ∧
    (∃ (s : State) (f : GroupFrame) (l : Nat), levelOfGroup s.dev f.groupId = some l ∧ f.length ≠ 128 ∧ f.slot < 8 ∧
      3 ≤ (levelOf s.dev l).role) ∧
    (∃ (s : State) (f : GroupFrame) (l : Nat), s.dev.hears f.groupId f.slot f.level f.length l ∧ 1 ≤ (levelOf s.dev l).role ∧
      (levelOf s.dev l).role ≤ 3 ∧
      (∀ m, (levelOf s.dev l).stw = some m → f.slot ≤ m ∨ ((levelOf s.dev l).heard = false ∧ (levelOf s.dev l).quiet ≠ 0))) ∧
    (∃ (s : State) (f : GroupFrame) (l : Nat), s.dev.hears f.groupId f.slot f.level f.length l ∧ 4 ≤ (levelOf s.dev l).role ∧
      f.slot < ownSlot s.dev l) :=
  ⟨⟨stOf (grouped [(BLF_FRAME_NO_NO, 0, 5)] {}), 0, by unfold Dev.cycleDue; decide +kernel⟩,
   ⟨stOf (grouped [(BLF_FRAME_NO_NO, 0, 8)] { role := 2, cycle := some 4 }), 0,
     ⟨by unfold Dev.cycleDue; decide +kernel, by decide +kernel⟩⟩,
   ⟨stOf (grouped [(BLF_FRAME_NO_NO, 0, 8)] { heard := true }), 0, ⟨by unfold Dev.cycleDue; decide +kernel, by decide +kernel⟩⟩,
   ⟨stOf (grouped [(BLF_FRAME_NO_NO, 0, 8)] { role := 4, members := roster { present := true } }), 0,
     ⟨by unfold Dev.cycleDue; decide +kernel, by decide +kernel⟩⟩,
   ⟨stOf (grouped [(BLF_FRAME_NO_NO, 0, 8)] { role := 4, g := 2, calm := 1, granted := true, members := [(1, { present := true, heard := true }), (2, { present := true }), (3, { present := true })] }),
     0, ⟨by unfold Dev.cycleDue; decide +kernel, by decide +kernel⟩⟩,
   ⟨stOf (grouped [(BLF_FRAME_NO_NO, 0, 8)] { role := 5, partition := true }), 0,
     ⟨by unfold Dev.cycleDue; decide +kernel, by decide +kernel⟩⟩,
   ⟨stOf (grouped [(BLF_FRAME_NO_NO, 0, 6)] { role := 4 }), 0, by decide +kernel⟩,
   ⟨stOf (grouped [(BLF_FRAME_NO_NO, 0, 6), (BLF_CFG_SOURCE, 0, 3), (BLF_STATUS_STATE, 0, 3)] { role := 3, quarantined := true, sentIn := some 2 }),
     0, by decide +kernel⟩,
   ⟨stOf (up []), {}, {}, by decide +kernel⟩,
   ⟨stOf (grouped [] { role := 2 }), { groupId := 77, length := 127 }, { groupId := 77, length := 64 }, 0, by decide +kernel⟩,
   ⟨stOf (grouped [(BLF_FRAME_NO_NO, 0, 8), (BLF_CFG_SOURCE, 0, 3), (BLF_STATUS_STATE, 0, 2)] { role := 2, stw := some 3, rxStw := some 5, txMem := some 9 }),
     { groupId := 77, slot := 3, level := 1, frameNo := 12, gstate := 1, deputySlot := 0, fw := 9, tRx := [7], digest := [0, 5, 6] }, 0,
     ⟨by unfold Dev.hears; decide +kernel, by decide +kernel⟩⟩,
   ⟨stOf (grouped [(BLF_FRAME_NO_NO, 0, 8), (BLF_CFG_SOURCE, 0, 3), (BLF_STATUS_STATE, 0, 2)] { role := 1 }),
     { groupId := 77, slot := 3, level := 1, frameNo := 8, gstate := 1, deputySlot := 128 }, 0,
     ⟨by unfold Dev.hears; decide +kernel, by decide +kernel⟩⟩,
   ⟨stOf (grouped [] { role := 4, partition := true }), { groupId := 77, slot := 3, level := 4 }, 0,
     ⟨by unfold Dev.hears; decide +kernel, by decide +kernel⟩⟩,
   ⟨stOf (grouped [] { role := 2 }), { groupId := 77, slot := 3, level := 1 }, 0, ⟨by unfold Dev.hears; decide +kernel, by decide +kernel⟩⟩,
   ⟨stOf (grouped [] { role := 3, members := [(3, { rx := some 100, path := 4 })] }),
     { groupId := 77, slot := 3, level := 1, flags := 0x1C, gstate := 2, tRx := [50], tPrev := 60, digest := [1, 2, 3], fw := 8, frameNo := 9 },
     0, ⟨by unfold Dev.hears; decide +kernel, by decide +kernel⟩⟩,
   ⟨stOf (grouped [] { role := 3 }), { groupId := 77, slot := 3, length := 127 }, 0, by decide +kernel⟩,
   ⟨stOf (grouped [(BLF_FRAME_NO_NO, 0, 8), (BLF_CFG_SOURCE, 0, 3), (BLF_STATUS_STATE, 0, 2)] { role := 2, stw := some 3, rxStw := some 5, txMem := some 9, stwFrame := 4 }),
     { groupId := 77, slot := 3, level := 1, frameNo := 8, gstate := 1, deputySlot := 0, fw := 9, tRx := [7], digest := [0, 5, 6] }, 0,
     ⟨by unfold Dev.hears; decide +kernel, by decide +kernel⟩⟩,
   ⟨stOf (yielding), { groupId := 99, slot := 0, level := 4 }, 1, ⟨by unfold Dev.hears; decide +kernel, by decide +kernel⟩⟩⟩

theorem witness_GroupCommandsAndLosses :
    (∃ (s : State) (f : GroupEntry) (l : Nat), s.dev.hears f.groupId f.slot f.level f.length l ∧
      (((levelOf s.dev l).role ≠ 2 ∧ (levelOf s.dev l).role ≠ 3) ∨ (levelOf s.dev l).stw ≠ some f.slot)) ∧
    (∃ (s : State) (f : GroupEntry) (l op cls : Nat), s.dev.hears f.groupId f.slot f.level f.length l ∧
      ((levelOf s.dev l).role = 2 ∨ (levelOf s.dev l).role = 3) ∧ (levelOf s.dev l).stw = some f.slot ∧ f.entry.length = 64 ∧
      op = bodyAt f.entry 0 ∧ classOf op = some cls ∧ inFlight s.dev 16 f.tag.toNat = none ∧ stewards s.dev = 0 ∧ cls ≠ 0 ∧
      indexByte op f.entry = none) ∧
    (∃ (s : State) (f : GroupEntry) (l op cls : Nat), s.dev.hears f.groupId f.slot f.level f.length l ∧
      ((levelOf s.dev l).role = 2 ∨ (levelOf s.dev l).role = 3) ∧ (levelOf s.dev l).stw = some f.slot ∧ f.entry.length = 64 ∧
      op = bodyAt f.entry 0 ∧ classOf op = some cls ∧ inFlight s.dev 16 f.tag.toNat = none ∧ stewards s.dev = 0 ∧ cls = 0 ∧
      setStopped s.dev (axsetOf (f.entry.drop 16)) = true) ∧
    (∃ (s : State) (f : GroupEntry) (l : Nat) (c : HostCmd) (p : FwdPart), s.dev.hears f.groupId f.slot f.level f.length l ∧
      4 ≤ (levelOf s.dev l).role ∧
      (s.dev.host.flight.find? (fun c => c.parts.any fun p => decide (p.tag = f.tag.toNat ∧ p.done = false)) = some c) ∧ c.parts = [p] ∧
      p.bits = [] ∧ c.own = false ∧ c.answer = none ∧ bodyAt f.entry 5 ≠ 0x30) ∧
    (∃ (s : State) (l : Fin 5), ((levelOf s.dev l).role ≠ 1 ∨ (levelOf s.dev l).quiet < (sectionOf s.dev l).lossCyc)) ∧
    (∃ (s : State) (l : Fin 5), atLevel s.dev l = true ∧ (levelOf s.dev l).role = 1 ∧ (slotAt s.dev l (ownSlot s.dev l)).eligible = true ∧
      (1 + ownSlot s.dev l) * (sectionOf s.dev l).lossCyc ≤ (levelOf s.dev l).quiet ∧ s.dev.rd PWR_STATUS_SHARED_UP ≠ 0) ∧
    (∃ (s : State) (l : Fin 5) (m : Fin 8), ((levelOf s.dev l).role < 4 ∨ (memberOf s.dev l m).present = false ∨ (memberOf s.dev l m).silent < (sectionOf s.dev l).lossCyc)) ∧
    (∃ (s : State) (l : Fin 5) (m : Fin 8), atLevel s.dev l = true ∧ 4 ≤ (levelOf s.dev l).role ∧ (memberOf s.dev l m).present = true ∧
      (sectionOf s.dev l).lossCyc ≤ (memberOf s.dev l m).silent ∧ s.dev.rd PWR_STATUS_SHARED_UP ≠ 0 ∧
      s.dev.host.flight = [{ hostCmd 0x09 1 [] with own := false, parts := [{ level := 0, slot := 3, tag := 5 }] }] ∧
      (levelOf s.dev l).deputy = some 3) ∧
    (∃ (s : State) (l : Fin 5) (m : Fin 8), atLevel s.dev l = true ∧ 4 ≤ (levelOf s.dev l).role ∧ (memberOf s.dev l m).present = true ∧
      (sectionOf s.dev l).lossCyc ≤ (memberOf s.dev l m).silent ∧ s.dev.rd PWR_STATUS_SHARED_UP ≠ 0 ∧ (levelOf s.dev l).deputy ≠ some 3) ∧
    (∃ (s : State) (l : Fin 5), ((levelOf s.dev l).role < 2 ∨ 3 < (levelOf s.dev l).role ∨ (levelOf s.dev l).stewardLost = true ∨ (levelOf s.dev l).quiet < (sectionOf s.dev l).lossCyc)) ∧
    (∃ (s : State) (l : Fin 5), atLevel s.dev l = true ∧ (levelOf s.dev l).stewardLost = false ∧
      (sectionOf s.dev l).lossCyc ≤ (levelOf s.dev l).quiet ∧ s.dev.rd PWR_STATUS_SHARED_UP ≠ 0 ∧ (levelOf s.dev l).role = 2) ∧
    (∃ (s : State) (l : Fin 5), atLevel s.dev l = true ∧ (levelOf s.dev l).stewardLost = false ∧
      (sectionOf s.dev l).lossCyc ≤ (levelOf s.dev l).quiet ∧ s.dev.rd PWR_STATUS_SHARED_UP ≠ 0 ∧ (levelOf s.dev l).role = 3 ∧
      (levelOf s.dev l).partition = false) ∧
    (∃ (s : State) (l : Fin 5), ((levelOf s.dev l).align = none ∨ allDisabled s.dev = false ∨ s.dev.tb.ticking = false)) ∧
    (∃ (s : State) (l : Fin 5) (n : Int), atLevel s.dev l = true ∧ (levelOf s.dev l).align = some n ∧ allDisabled s.dev = true ∧
      s.dev.tb.ticking = true ∧ s.dev.rd PWR_STATUS_SHARED_UP ≠ 0) ∧
    (∃ (s : State) (l : Fin 5) (n : Int), atLevel s.dev l = true ∧ (levelOf s.dev l).align = some n ∧ allDisabled s.dev = true ∧
      s.dev.tb.ticking = true ∧ s.dev.rd PWR_STATUS_SHARED_UP ≠ 0 ∧ (levelOf s.dev l).role = 1 ∧ (levelOf s.dev l).stw ≠ none ∧
      s.dev.rd BLF_CFG_SOURCE = 3 ∧ timeState s.dev = .locked) ∧
    (∃ (s : State) (l : Fin 5), (¬ s.dev.mayLeave l)) ∧
    (∃ (s : State) (l : Fin 5), s.dev.mayLeave l ∧ s.dev.rd PWR_STATUS_SHARED_UP ≠ 0) ∧
    (∃ (s : State) (m : Master), s.dev.takes m 0xD038 (GRP_STATUS_BUSY, 0)) :=
  ⟨⟨stOf (grouped [] { role := 2, stw := some 2 }), { groupId := 77, slot := 3, level := 1 }, 0,
     ⟨by unfold Dev.hears; decide +kernel, by decide +kernel⟩⟩,
   ⟨stOf (grouped [] { role := 2, stw := some 3 }), { groupId := 77, slot := 3, level := 1, tag := 5, entry := forwarded 0x02 }, 0, 2, 3,
     ⟨by unfold Dev.hears; decide +kernel, by decide +kernel⟩⟩,
   ⟨stOf ({ grouped [] { role := 3, stw := some 3 } with tb := { ticking := true, ext := 9 } }),
     { groupId := 77, slot := 3, level := 1, tag := 5, entry := forwarded 0x10 }, 0, 16, 0,
     ⟨by unfold Dev.hears; decide +kernel, by decide +kernel⟩⟩,
   ⟨stOf ({ grouped [] { role := 4 } with host := { flight := [{ hostCmd 0x09 1 [] with own := false, parts := [{ level := 0, slot := 3, tag := 5 }] }] } }),
     { groupId := 77, slot := 3, level := 1, tag := 5, entry := (List.range 64).map fun i => BitVec.ofNat 8 i }, 0,
     { hostCmd 0x09 1 [] with own := false, parts := [{ level := 0, slot := 3, tag := 5 }] }, { level := 0, slot := 3, tag := 5 },
     ⟨by unfold Dev.hears; decide +kernel, by decide +kernel⟩⟩,
   ⟨stOf (grouped [] { role := 1, quiet := 1 }), 0, by decide +kernel⟩,
   ⟨stOf (grouped [] { role := 1, quiet := 2, align := some 3, members := roster {} }), 0, by decide +kernel⟩,
   ⟨stOf (grouped [] { role := 4, members := [(3, { present := true, silent := 1 })] }), 0, 3, by decide +kernel⟩,
   ⟨stOf ({ grouped [] { role := 4, deputy := some 3, members := [(3, { present := true, silent := 2 })] } with host := { flight := [{ hostCmd 0x09 1 [] with own := false, parts := [{ level := 0, slot := 3, tag := 5 }] }] } }),
     0, 3, by decide +kernel⟩,
   ⟨stOf (grouped [] { role := 4, members := [(3, { present := true, silent := 2 })] }), 0, 3, by decide +kernel⟩,
   ⟨stOf (grouped [] { role := 2, quiet := 1 }), 0, by decide +kernel⟩,
   ⟨stOf (grouped [] { role := 2, quiet := 2, stw := some 3 }), 0, by decide +kernel⟩,
   ⟨stOf (grouped [] { role := 3, quiet := 2, stw := some 3 }), 0, by decide +kernel⟩,
   ⟨stOf (grouped [] { role := 1, align := none }), 0, by decide +kernel⟩,
   ⟨stOf (grouped [(BLF_FRAME_NO_NO, 0, 4294967295)] { role := 1, align := some 5 }), 0, 5, by decide +kernel⟩,
   ⟨stOf (grouped [(BLF_CFG_SOURCE, 0, 3), (BLF_STATUS_STATE, 0, 2)] { role := 1, align := some 5, stw := some 3, deputy := some 0 }), 0,
     5, by decide +kernel⟩,
   ⟨stOf (grouped [] { quarantined := true, matched := 1 }), 0, by unfold Dev.mayLeave; decide +kernel⟩,
   ⟨stOf (grouped [] { quarantined := true, matched := 2, g := 2 }), 0, ⟨by unfold Dev.mayLeave; decide +kernel, by decide +kernel⟩⟩,
   ⟨stOf (grouped [] { quarantined := true, matched := 2 }), .hostBar0, takes_of (by decide +kernel)⟩⟩

/-! The machine as a whole: the cases of its statements. -/

theorem witness_StepRunsFrontCommand :
    (∃ (s : State) (c : Instr) (rest : List Instr), s.pending = c :: rest) ∧ (∃ (s : State), s.pending = []) :=
  ⟨⟨{ stOf (up []) with pending := [.tickLost ⟨true, false, false⟩, .frameTick ⟨(0, 0), (0, 0), (0, 0)⟩] }, _, _, rfl⟩, ⟨State.reset, rfl⟩⟩

/-- The first command of a state's queue, and the state after its step. -/
def next (s : State) : State := match step s with | .next t => t | _ => s

theorem witness_RegisterFileStaysCanonical : ∃ s t : State, s.dev.regsOk ∧ step s = .next t :=
  ⟨{ stOf (up [(SYS_MODE_MODE, 0, 3)]) with pending := [.registerWrite .hostBar0 0x1014 32 1250] }, _,
   ⟨by unfold Dev.regsOk; decide +kernel, rfl⟩⟩

theorem witness_LanesOutsideServiceStaySafe : ∃ s t : State, s.dev.safeOutside ∧ step s = .next t :=
  ⟨{ stOf (up [(SYS_MODE_MODE, 0, 3), (LN_STATUS_STATE, 1, 5)]) with pending := [.registerWrite .hostBar0 0x1014 32 1250] }, _,
   ⟨by unfold Dev.safeOutside; exact ⟨fun l => by cases l <;> (unfold LaneState.safe; decide +kernel), by decide +kernel⟩, rfl⟩⟩

theorem witness_SmithyEncodingRoundTrip :
    (∃ i : SmyInstr, smyWf i = true) ∧ (∃ (w : Nat) (i : SmyInstr), smyDecode w = some i) :=
  ⟨⟨.mac true true 5 5, by decide⟩, ⟨0x4800000F, .rep (.imm 15), by decide +kernel⟩⟩

/-! Ill-formed commands: one for each check, and the same command well formed. -/

theorem test_wellFormed_registerWrite :
    [Instr.registerWrite .hostBar2 0x1014 32 5, .registerWrite .hostBar0 0x200000 32 5, .registerWrite .hostBar0 0x1014 7 5,
      .registerWrite .hostBar0 0x1014 8 256, .registerWrite .hostBar0 0x1014 32 5].map Instr.wellFormed = [false, false, false, false, true] := by
  decide +kernel

theorem test_wellFormed_readClear :
    [Instr.readClear .hostBar2 0x1004 32, .readClear .debug 0x200000 32, .readClear .debug 0x1004 12, .readClear .debug 0x1004 32].map
      Instr.wellFormed = [false, false, false, true] := by
  decide +kernel

theorem test_wellFormed_aliasRead :
    [Instr.aliasRead .hostBar0 0x200B0 32, .aliasRead .hostBar2 0x200000 32, .aliasRead .hostBar2 0x200B0 24, .aliasRead .hostBar2 0x200B0 32].map
      Instr.wellFormed = [false, false, false, true] := by
  decide +kernel

theorem test_wellFormed_aliasWrite :
    [Instr.aliasWrite .planner 0x200B0 32 1, .aliasWrite .hostBar2 0x200000 32 1, .aliasWrite .hostBar2 0x200B0 0 0,
      .aliasWrite .hostBar2 0x200B0 8 256, .aliasWrite .hostBar2 0x200B0 32 1].map Instr.wellFormed = [false, false, false, false, true] := by
  decide +kernel

theorem test_wellFormed_contacts :
    [Instr.frameTick ⟨(0, 0), (2 ^ 24, 0), (0, 0)⟩, .frameTick ⟨(0, 0), (0, 0), (0, 2 ^ 24)⟩, .periodChange ⟨(2 ^ 24, 0), (0, 0), (0, 0)⟩,
      .periodChange ⟨(0, 0), (0, 2 ^ 24), (0, 0)⟩, .frameTick ⟨(2 ^ 24 - 1, 0), (0, 5), (0, 0)⟩, .periodChange ⟨(0, 0), (0, 0), (7, 7)⟩].map
      Instr.wellFormed = [false, false, false, false, true, true] := by
  decide +kernel

theorem test_wellFormed_records :
    [Instr.frameRecordReceived .b .b .good (frameRec 1 4), .positionRecordReceived .c .c .good ⟨2, 4, []⟩,
      .resultRecordReceived .a .a .good (resultRec 0 4), .frameRecordReceived .a .b .good (frameRec 1 4), .positionRecordReceived .b .c .good ⟨2, 4, []⟩,
      .resultRecordReceived .c .a .good (resultRec 0 4)].map Instr.wellFormed = [false, false, false, true, true, true] := by
  decide +kernel

theorem test_wellFormed_structures :
    [Instr.doorbellPoll (List.replicate 63 0), .submissionFetch (List.replicate 65 0), .supervisorMeasurement { temps := [20] },
      .doorbellPoll (List.replicate 64 0), .submissionFetch (List.replicate 64 0),
      .supervisorMeasurement { temps := List.replicate 16 20 }].map Instr.wellFormed = [false, false, false, true, true, true] := by
  decide +kernel

/-- A next move that no overlap lets begin early: the move in force decelerates from its first frame. -/
theorem witness_PlannerMoves_noBlend :
    ∃ (s : State) (a : Fin 36) (c : PlanCmd) (r : Run), planReady s.dev a 0x10 = some (c, some r) ∧ badFields s.dev a c = false ∧
      capOf s.dev a = none ∧ (∀ t ∈ jointTargets s.dev a c, inHedge s.dev t.1 t.2 = true) ∧
      ((jointPhases s.dev a c (f64Nat 1) (jointTargets s.dev a c)).any fun ph =>
        planClear s.dev a c (jointPlan s.dev a c (some r) ph (jointTargets s.dev a c))) = true ∧
      ∀ ph, jointPhases s.dev a c (f64Nat 1) (jointTargets s.dev a c) = some ph → ∀ k, k ≤ r.plan.len - r.plan.decel → 0 < k →
        blendWithin s.dev a (blendJoints r.plan (jointPlan s.dev a c (some r) ph (jointTargets s.dev a c)) k c.rsn) = false :=
  let r : Run := { noRun with plan := { len := 20, decel := 20 } }
  ⟨stOf (noJoints [] [{ run := some r, queue := [blendCmd] }]), 0, blendCmd, r, by decide +kernel, by decide +kernel, by decide +kernel,
    by decide +kernel, by decide +kernel, fun _ _ k h h' => absurd h' (by simp only [r, Nat.sub_self] at h; omega)⟩

/-! Single values and single steps; each expected result is the spec's own. -/

/-- The two words of section 12: MAC with S = 1 on ACC1, PX0 and PY0 in mode 5, and REP with N = 15. -/
theorem test_smithy_words : smyEncode (.mac true true 5 5) = 0x07294000 ∧ smyEncode (.rep (.imm 15)) = 0x4800000F := by
  decide +kernel

/-- The two codes of section 14. -/
theorem test_event_codes : Ev.NODE_ADMIT.code = 0x060C ∧ Ev.LANE_REJOIN.code = 0x0309 := by
  decide +kernel

/-- The worked move of chapter 7: 250 mm at 800 mm/s, 4000 mm/s² and 60000 mm/s³ takes 9270 frames of 62.5 µs, the phases 1067, 2134, 734. -/
theorem test_linear_move :
    (let t := durations false ⟨f64Nat 800, f64Nat 4000, f64Nat 4000, f64Nat 60000⟩ (f64Nat 250)
     let p := roundPhases (f64Frac 625 10000000) (f64Nat 1) t
     (p.j1, p.a1, p.v, p.j2, p.a2, p.total)) = (1067, 2134, 734, 1067, 2134, 9270) := by
  decide +kernel

/-- The worked example of chapter 15, step 1: the write of BLF_LATCH is posted and sets BLF_STATUS.BUSY. -/
theorem test_latch_write_is_posted :
    (next { stOf (up [(SYS_MODE_MODE, 0, 3)]) with pending := [.registerWrite .hostBar0 0x1014 32 1250] }).dev.rd BLF_STATUS_BUSY 0 = 1 := by
  decide +kernel

/-- Step 6 of the same example: the read of the alias word 0x200B0 returns BLF_STATUS.TT_REJECT and clears that bit only. -/
theorem test_alias_read_clears_one_bit :
    (let t := next { stOf (up [(SYS_MODE_MODE, 0, 3), (SYS_ACCESS_ALIAS_EN, 0, 1), (BLF_STATUS_TT_REJECT, 0, 1), (BLF_STATUS_JUMP_REFUSED, 0, 1)])
        with pending := [.aliasRead .hostBar2 0x200B0 32] }
     (t.dev.rd BLF_STATUS_TT_REJECT 0, t.dev.rd BLF_STATUS_JUMP_REFUSED 0)) = (0, 1) := by
  decide +kernel

/-- The worked transfer of chapter 11: 25 SSI bits at 1 MHz take 26 µs, and the transfer fits a frame of 62.5 µs at the latch of 8.0 µs. -/
theorem test_ssi_transfer :
    (let d := up [(FBK_CFG_MODE, 2, 3), (FBK_SER0_LEN, 2, 25), (FBK_SER1_CLK_KHZ, 2, 1000), (FBK_SER2_TM_US, 2, 20)]
     (transferQ d 2, transferFits d 2 1000 62500)) = (104000, true) := by
  decide +kernel

/-- An idle clock of 125 MHz advances the tick time base by 8 ns. -/
theorem test_idle_clock : (next (stOf { up [] with tb := { ticking := true, ext := 16 } })).dev.tb.ext = 24 := by
  decide +kernel

end Sys2Proof.Tests
end

section
/-!
SUPPORT. Frames built one update at a time, the device as a command finds it, and what stays of one lane or one ring of three.
-/
namespace Sys2Proof.Machine
open RegField

/-! The device as a command finds it. -/

/-- The device with the outputs of the step cleared, on which `State.run` runs a command's effect. -/
def Dev.cleared (d : Dev) : Dev := { d with out := [] }

@[simp] theorem Dev.cleared_rd (d : Dev) (f : RegField) (i : Nat) : d.cleared.rd f i = d.rd f i := rfl
@[simp] theorem Dev.cleared_out (d : Dev) : d.cleared.out = [] := rfl
@[simp] theorem Dev.cleared_tb (d : Dev) : d.cleared.tb = d.tb := rfl
@[simp] theorem Dev.cleared_pwr (d : Dev) : d.cleared.pwr = d.pwr := rfl
@[simp] theorem Dev.cleared_motion (d : Dev) : d.cleared.motion = d.motion := rfl
@[simp] theorem Dev.cleared_mil (d : Dev) : d.cleared.mil = d.mil := rfl
@[simp] theorem Dev.cleared_flash (d : Dev) : d.cleared.flash = d.flash := rfl
@[simp] theorem Dev.cleared_mode (d : Dev) : d.cleared.mode = d.mode := rfl
@[simp] theorem Dev.cleared_frameNo (d : Dev) : d.cleared.frameNo = d.frameNo := rfl
@[simp] theorem laneOf_cleared (d : Dev) (l : Lane) : laneOf d.cleared l = laneOf d l := rfl
@[simp] theorem laneMode_cleared (d : Dev) (l : Lane) : laneMode d.cleared l = laneMode d l := rfl
@[simp] theorem ringOf_cleared (d : Dev) (l : Lane) : ringOf d.cleared l = ringOf d l := rfl

theorem SameBut.cleared (d : Dev) : SameBut d d.cleared [] [] [] := ⟨fun _ _ _ _ => rfl, fun p _ => by cases p <;> rfl⟩

theorem Answers.of_effect {c : Instr} {s : State} {post : Dev → Prop} {f : Dev → Dev} (h : exec c s = s.run f)
    (hp : post (f s.dev.cleared)) : Answers c s post := .of_run h hp

theorem Completes.of_effect {c : Instr} {s : State} {es : List (RegField × Nat)} {ps : List Part} {post : Dev → Prop} {f : Dev → Dev}
    (h : exec c s = s.run f) (hs : SameBut s.dev.cleared (f s.dev.cleared) [] es ps) (hp : post (f s.dev.cleared)) :
    Completes c s es ps post := .of_run h hs hp

/-- A command completes with the device `e` that its effect comes to. -/
theorem Answers.of_result {c : Instr} {s : State} {post : Dev → Prop} {f : Dev → Dev} {e : Dev} (h : exec c s = s.run f)
    (he : f s.dev.cleared = e) (hp : post e) : Answers c s post := .of_effect h (he ▸ hp)

theorem Completes.of_result {c : Instr} {s : State} {es : List (RegField × Nat)} {ps : List Part} {post : Dev → Prop} {f : Dev → Dev}
    {e : Dev} (h : exec c s = s.run f) (he : f s.dev.cleared = e) (hs : SameBut s.dev.cleared e [] es ps) (hp : post e) :
    Completes c s es ps post := .of_effect h (he ▸ hs) (he ▸ hp)

/-- A command whose event cannot occur completes with the device as it was and nothing emitted (log entry 3). -/
theorem Completes.of_unchanged {c : Instr} {s : State} {f : Dev → Dev} (h : exec c s = s.run f) (hf : f s.dev.cleared = s.dev.cleared) :
    Completes c s [] [] fun e => e.out = [] :=
  .of_result h hf (.refl _ _ _ _) rfl

/-! Frames, one update at a time. -/

section Frames
variable {a d e : Dev} {fs : List RegField} {es : List (RegField × Nat)} {ps : List Part}

theorem SameBut.rd_eq (h : SameBut a d fs es ps) (f : RegField) (i : Nat) (hf : f ∉ fs) (he : (f, i) ∉ es) : d.rd f i = a.rd f i :=
  h.regs f i hf he

/-- A frame goes on over what changes no more than it names. -/
theorem SameBut.next {fs' : List RegField} {es' : List (RegField × Nat)} {ps' : List Part} (h : SameBut a d fs es ps)
    (k : SameBut d e fs' es' ps') (hf : fs' ⊆ fs) (he : ∀ x ∈ es', x ∈ es ∨ x.1 ∈ fs) (hp : ps' ⊆ ps) : SameBut a e fs es ps :=
  h.trans (k.mono hf he hp)

theorem SameBut.wr (h : SameBut a d fs es ps) (f : RegField) (i v : Nat) (hf : (f, i) ∈ es ∨ f ∈ fs) : SameBut a (d.wr f i v) fs es ps :=
  h.next (d.wr_sameBut f i v) (by simp) (by simpa using hf) (by simp)

theorem SameBut.emit (h : SameBut a d fs es ps) (o : Output) : SameBut a (d.emit o) fs es ps :=
  h.next (d.emit_sameBut o) (by simp) (by simp) (by simp)

theorem SameBut.event (h : SameBut a d fs es ps) (x : Ev) (s i n : Nat) (hr : ∀ y ∈ recordRegs s, y ∈ es ∨ y.1 ∈ fs) (hl : .log ∈ ps) :
    SameBut a (d.event x s i n) fs es ps :=
  h.next (d.event_sameBut x s i n) (by simp) hr (by simpa using hl)

theorem SameBut.each {α : Type} {f : Dev → α → Dev} {xs : List α} (hf : ∀ b, ∀ x ∈ xs, SameBut b (f b x) fs es ps)
    (h : SameBut a d fs es ps) : SameBut a (d.each xs f) fs es ps := by
  induction xs generalizing d with
  | nil => exact h
  | cons x xs ih => exact ih (fun b y hy => hf b y (.tail _ hy)) (h.trans (hf d x (.head _)))

theorem SameBut.when (h : SameBut a d fs es ps) (c : Bool) {f : Dev → Dev} (hf : SameBut d (f d) fs es ps) :
    SameBut a (d.when c f) fs es ps := by
  cases c
  · exact h
  · exact h.trans hf

/-- Parts that a frame names may take any value. -/
theorem SameBut.lanes (h : SameBut a d fs es ps) (x : PerLane LaneState) (hp : .lanes ∈ ps) : SameBut a { d with lanes := x } fs es ps :=
  ⟨h.regs, fun p hn => by cases p with | lanes => exact absurd hp hn | _ => exact h.rest _ hn⟩

theorem SameBut.rings (h : SameBut a d fs es ps) (x : PerLane RingState) (hp : .rings ∈ ps) : SameBut a { d with rings := x } fs es ps :=
  ⟨h.regs, fun p hn => by cases p with | rings => exact absurd hp hn | _ => exact h.rest _ hn⟩

theorem SameBut.motion (h : SameBut a d fs es ps) (x : MotionState) (hp : .motion ∈ ps) : SameBut a { d with motion := x } fs es ps :=
  ⟨h.regs, fun p hn => by cases p with | motion => exact absurd hp hn | _ => exact h.rest _ hn⟩

theorem SameBut.tb (h : SameBut a d fs es ps) (x : TimeBase) (hp : .tb ∈ ps) : SameBut a { d with tb := x } fs es ps :=
  ⟨h.regs, fun p hn => by cases p with | tb => exact absurd hp hn | _ => exact h.rest _ hn⟩

theorem SameBut.pwr (h : SameBut a d fs es ps) (x : PowerState) (hp : .pwr ∈ ps) : SameBut a { d with pwr := x } fs es ps :=
  ⟨h.regs, fun p hn => by cases p with | pwr => exact absurd hp hn | _ => exact h.rest _ hn⟩

theorem SameBut.fault (h : SameBut a d fs es ps) (x : FaultState) (hp : .fault ∈ ps) : SameBut a { d with fault := x } fs es ps :=
  ⟨h.regs, fun p hn => by cases p with | fault => exact absurd hp hn | _ => exact h.rest _ hn⟩

theorem SameBut.onLane (h : SameBut a d fs es ps) (l : Lane) (f : LaneState → LaneState) (hp : .lanes ∈ ps) :
    SameBut a (onLane d l f) fs es ps := h.lanes _ hp

theorem SameBut.onRing (h : SameBut a d fs es ps) (l : Lane) (f : RingState → RingState) (hp : .rings ∈ ps) :
    SameBut a (onRing d l f) fs es ps := h.rings _ hp

theorem SameBut.reach (h : SameBut a d fs es ps) (ns : Nat) (hp : .tb ∈ ps) : SameBut a (d.reach ns) fs es ps := h.tb _ hp

theorem SameBut.mode_eq (h : SameBut a d fs es ps) (hf : SYS_MODE_MODE ∉ fs) (he : (SYS_MODE_MODE, 0) ∉ es) : d.mode = a.mode := by
  unfold Dev.mode; rw [h.regs _ _ hf he]

theorem SameBut.frameNo_eq (h : SameBut a d fs es ps) (hf : BLF_FRAME_NO_NO ∉ fs) (he : (BLF_FRAME_NO_NO, 0) ∉ es) :
    d.frameNo = a.frameNo := h.regs _ _ hf he

theorem SameBut.laneOf_eq (h : SameBut a d fs es ps) (hp : .lanes ∉ ps) (l : Lane) : laneOf d l = laneOf a l :=
  congrArg (PerLane.get · l) (h.rest .lanes hp)

end Frames

/-! One lane, one ring. -/

@[simp] theorem PerLane.set_get {α : Type} (p : PerLane α) (l : Lane) : p.set l (p.get l) = p := by cases l <;> rfl

@[simp] theorem laneOf_setLane (d : Dev) (l k : Lane) (x : LaneState) : laneOf (setLane d l x) k = if k = l then x else laneOf d k :=
  PerLane.get_set _ _ _ _

@[simp] theorem laneOf_onLane (d : Dev) (l k : Lane) (f : LaneState → LaneState) :
    laneOf (onLane d l f) k = if k = l then f (laneOf d l) else laneOf d k := PerLane.get_set _ _ _ _

@[simp] theorem laneOf_wr (d : Dev) (f : RegField) (i v : Nat) (k : Lane) : laneOf (d.wr f i v) k = laneOf d k := rfl
@[simp] theorem laneOf_emit (d : Dev) (o : Output) (k : Lane) : laneOf (d.emit o) k = laneOf d k := rfl
@[simp] theorem laneOf_record (d : Dev) (c s i x : Nat) (k : Lane) : laneOf (d.record c s i x) k = laneOf d k := by
  simp [laneOf]
@[simp] theorem laneOf_reach (d : Dev) (ns : Nat) (k : Lane) : laneOf (d.reach ns) k = laneOf d k := rfl
@[simp] theorem laneOf_onRing (d : Dev) (l : Lane) (f : RingState → RingState) (k : Lane) : laneOf (onRing d l f) k = laneOf d k := rfl

@[simp] theorem onLane_rd (d : Dev) (l : Lane) (f : LaneState → LaneState) (g : RegField) (i : Nat) : (onLane d l f).rd g i = d.rd g i := rfl
@[simp] theorem onLane_out (d : Dev) (l : Lane) (f : LaneState → LaneState) : (onLane d l f).out = d.out := rfl
@[simp] theorem onLane_mode (d : Dev) (l : Lane) (f : LaneState → LaneState) : (onLane d l f).mode = d.mode := rfl
@[simp] theorem onLane_tb (d : Dev) (l : Lane) (f : LaneState → LaneState) : (onLane d l f).tb = d.tb := rfl
@[simp] theorem onLane_log (d : Dev) (l : Lane) (f : LaneState → LaneState) : (onLane d l f).log = d.log := rfl
@[simp] theorem laneMode_onLane (d : Dev) (l : Lane) (f : LaneState → LaneState) (k : Lane) : laneMode (onLane d l f) k = laneMode d k := rfl
@[simp] theorem laneMode_emit (d : Dev) (o : Output) (k : Lane) : laneMode (d.emit o) k = laneMode d k := rfl
@[simp] theorem laneMode_reach (d : Dev) (ns : Nat) (k : Lane) : laneMode (d.reach ns) k = laneMode d k := rfl
@[simp] theorem Dev.reach_rd (d : Dev) (ns : Nat) (f : RegField) (i : Nat) : (d.reach ns).rd f i = d.rd f i := rfl
@[simp] theorem Dev.reach_out (d : Dev) (ns : Nat) : (d.reach ns).out = d.out := rfl
@[simp] theorem Dev.reach_mode (d : Dev) (ns : Nat) : (d.reach ns).mode = d.mode := rfl

@[simp] theorem ringOf_setRing (d : Dev) (l k : Lane) (r : RingState) : ringOf (setRing d l r) k = if k = l then r else ringOf d k :=
  PerLane.get_set _ _ _ _

@[simp] theorem ringOf_onRing (d : Dev) (l k : Lane) (f : RingState → RingState) :
    ringOf (onRing d l f) k = if k = l then f (ringOf d l) else ringOf d k := PerLane.get_set _ _ _ _

@[simp] theorem ringOf_wr (d : Dev) (f : RegField) (i v : Nat) (k : Lane) : ringOf (d.wr f i v) k = ringOf d k := rfl
@[simp] theorem ringOf_emit (d : Dev) (o : Output) (k : Lane) : ringOf (d.emit o) k = ringOf d k := rfl
@[simp] theorem ringOf_record (d : Dev) (c s i x : Nat) (k : Lane) : ringOf (d.record c s i x) k = ringOf d k := by
  simp [ringOf]
@[simp] theorem onRing_rd (d : Dev) (l : Lane) (f : RingState → RingState) (g : RegField) (i : Nat) : (onRing d l f).rd g i = d.rd g i := rfl
@[simp] theorem onRing_out (d : Dev) (l : Lane) (f : RingState → RingState) : (onRing d l f).out = d.out := rfl

/-- What `p` shows of every lane is as it was. -/
structure LanesKeep {α : Type} (p : LaneState → α) (d e : Dev) : Prop where
  keep : ∀ k, p (laneOf e k) = p (laneOf d k)

/-- What `p` shows of every ring is as it was. -/
structure RingsKeep {α : Type} (p : RingState → α) (d e : Dev) : Prop where
  keep : ∀ k, p (ringOf e k) = p (ringOf d k)

section Keep
variable {α β : Type} {p : LaneState → α} {q : RingState → α} {a d e : Dev}

theorem LanesKeep.refl (p : LaneState → α) (d : Dev) : LanesKeep p d d := ⟨fun _ => rfl⟩

theorem LanesKeep.trans (h : LanesKeep p a d) (k : LanesKeep p d e) : LanesKeep p a e := ⟨fun l => (k.keep l).trans (h.keep l)⟩

/-- What no update touches of the lanes stays. -/
theorem LanesKeep.of_eq (h : LanesKeep p a d) (k : e.lanes = d.lanes) : LanesKeep p a e :=
  ⟨fun l => (congrArg (fun x => p (x.get l)) k).trans (h.keep l)⟩

theorem LanesKeep.of_sameBut {fs : List RegField} {es : List (RegField × Nat)} {ps : List Part} (h : LanesKeep p a d)
    (k : SameBut d e fs es ps) (hp : .lanes ∉ ps) : LanesKeep p a e := h.of_eq (k.rest .lanes hp)

theorem LanesKeep.wr (h : LanesKeep p a d) (f : RegField) (i v : Nat) : LanesKeep p a (d.wr f i v) := h.of_eq rfl

theorem LanesKeep.event (h : LanesKeep p a d) (x : Ev) (s i n : Nat) : LanesKeep p a (d.event x s i n) :=
  h.of_sameBut (d.event_sameBut x s i n) (by simp)

theorem LanesKeep.onLane (h : LanesKeep p a d) (l : Lane) (f : LaneState → LaneState) (hf : ∀ x, p (f x) = p x) :
    LanesKeep p a (onLane d l f) := ⟨fun k => by
  rw [← h.keep k, laneOf_onLane]
  split
  · subst k; exact hf _
  · rfl⟩

theorem LanesKeep.each {γ : Type} {f : Dev → γ → Dev} {xs : List γ} (hf : ∀ b x, LanesKeep p b (f b x)) (h : LanesKeep p a d) :
    LanesKeep p a (d.each xs f) := by
  induction xs generalizing d with
  | nil => exact h
  | cons x xs ih => exact ih (h.trans (hf d x))

theorem LanesKeep.when (h : LanesKeep p a d) (c : Bool) {f : Dev → Dev} (hf : LanesKeep p d (f d)) : LanesKeep p a (d.when c f) := by
  cases c
  · exact h
  · exact h.trans hf

theorem RingsKeep.refl (q : RingState → α) (d : Dev) : RingsKeep q d d := ⟨fun _ => rfl⟩

theorem RingsKeep.trans (h : RingsKeep q a d) (k : RingsKeep q d e) : RingsKeep q a e := ⟨fun l => (k.keep l).trans (h.keep l)⟩

theorem RingsKeep.of_eq (h : RingsKeep q a d) (k : e.rings = d.rings) : RingsKeep q a e :=
  ⟨fun l => (congrArg (fun x => q (x.get l)) k).trans (h.keep l)⟩

theorem RingsKeep.onRing (h : RingsKeep q a d) (l : Lane) (f : RingState → RingState) (hf : ∀ x, q (f x) = q x) :
    RingsKeep q a (onRing d l f) := ⟨fun k => by
  rw [← h.keep k, ringOf_onRing]
  split
  · subst k; exact hf _
  · rfl⟩

end Keep

end Sys2Proof.Machine
end

section
/-!
SUPPORT. The shared operations of the lanes: the outputs of a lane, its state, the fault record and the reviews that follow a fault.
-/
namespace Sys2Proof.Machine
open RegField

/-- The registers that show a lane's state and its outputs. -/
@[simp] def laneFields : List RegField := [LN_STATUS_STATE, LN_STATUS_IN_VOTE, SAF_BRK_STAT_GATE, SAF_SAFE_OK_LEVEL]

/-! The outputs of a lane. -/

theorem showGates_sameBut (d : Dev) (l : Lane) (mask : Nat) :
    SameBut d (d.each (List.range 16) fun d k => d.wrBit SAF_BRK_STAT_GATE k l.idx (mask.testBit k)) [SAF_BRK_STAT_GATE] [] [] :=
  .each (fun b k _ => (SameBut.refl b _ _ _).wr _ _ _ (by simp)) (.refl _ _ _ _)

theorem setGates_sameBut (d : Dev) (l : Lane) (mask : Nat) : SameBut d (setGates d l mask) [SAF_BRK_STAT_GATE] [] [.lanes] := by
  unfold setGates
  split
  · exact .refl _ _ _ _
  · exact SameBut.next (((SameBut.refl d _ _ _).onLane l _ (by simp)).emit _) (showGates_sameBut ..) (by simp) (by simp) (by simp)

theorem setSafeOk_sameBut (d : Dev) (l : Lane) (high : Bool) : SameBut d (setSafeOk d l high) [SAF_SAFE_OK_LEVEL] [] [.lanes] := by
  unfold setSafeOk
  split
  · exact .refl _ _ _ _
  · exact (((SameBut.refl d _ _ _).onLane l _ (by simp)).wr _ _ _ (by simp)).emit _

@[simp] theorem setGates_laneOf (d : Dev) (l : Lane) (mask : Nat) (k : Lane) :
    laneOf (setGates d l mask) k = if k = l then { laneOf d l with gates := mask } else laneOf d k := by
  unfold setGates
  split
  · next h => split <;> [(subst k; rw [← h]); rfl]
  · exact ((showGates_sameBut ..).laneOf_eq (by simp) k).trans (by simp)

@[simp] theorem setSafeOk_laneOf (d : Dev) (l : Lane) (high : Bool) (k : Lane) :
    laneOf (setSafeOk d l high) k = if k = l then { laneOf d l with safeOk := high } else laneOf d k := by
  unfold setSafeOk
  split
  · next h => split <;> [(subst k; rw [← h]); rfl]
  · simp

@[simp] theorem setGates_rd (d : Dev) (l : Lane) (mask : Nat) (f : RegField) (i : Nat) (hf : f ≠ SAF_BRK_STAT_GATE) :
    (setGates d l mask).rd f i = d.rd f i := (setGates_sameBut d l mask).rd_eq f i (by simpa using hf) (by simp)

@[simp] theorem setSafeOk_rd (d : Dev) (l : Lane) (high : Bool) (f : RegField) (i : Nat) (hf : f ≠ SAF_SAFE_OK_LEVEL) :
    (setSafeOk d l high).rd f i = d.rd f i := (setSafeOk_sameBut d l high).rd_eq f i (by simpa using hf) (by simp)

/-! The state of a lane. -/

theorem showVote_sameBut (d : Dev) : SameBut d (showVote d) [LN_STATUS_IN_VOTE] [] [] :=
  .each (fun b k _ => (SameBut.refl b _ _ _).wr _ _ _ (by simp)) (.refl _ _ _ _)

@[simp] theorem showVote_laneOf (d : Dev) (k : Lane) : laneOf (showVote d) k = laneOf d k := (showVote_sameBut d).laneOf_eq (by simp) k

@[simp] theorem showVote_rd (d : Dev) (f : RegField) (i : Nat) (hf : f ≠ LN_STATUS_IN_VOTE) : (showVote d).rd f i = d.rd f i :=
  (showVote_sameBut d).rd_eq f i (by simpa using hf) (by simp)

theorem setLaneMode_sameBut (d : Dev) (l : Lane) (m : LaneMode) : SameBut d (setLaneMode d l m) laneFields [] [.lanes] := by
  have h : SameBut d (onLane (d.wr LN_STATUS_STATE l.idx (laneCode m)) l fun x => { x with serviceFr := 0 }) laneFields [] [.lanes] :=
    ((SameBut.refl d _ _ _).wr _ _ _ (by simp)).onLane l _ (by simp)
  unfold setLaneMode
  refine SameBut.next ?_ (showVote_sameBut _) (by simp) (by simp) (by simp)
  split
  · exact h
  · exact (h.next (setGates_sameBut ..) (by simp) (by simp) (by simp)).next (setSafeOk_sameBut ..) (by simp) (by simp) (by simp)

/-- The lanes after `setLaneMode`: outside IN_SERVICE the outputs of the lane are off (R73). -/
@[simp] theorem setLaneMode_laneOf (d : Dev) (l : Lane) (m : LaneMode) (k : Lane) :
    laneOf (setLaneMode d l m) k = if k = l then
      if m = .inService then { laneOf d l with serviceFr := 0 } else { laneOf d l with serviceFr := 0, gates := 0, safeOk := false }
      else laneOf d k := by
  unfold setLaneMode
  by_cases hk : k = l <;> by_cases hm : m = .inService <;> simp [hk, hm]

@[simp] theorem setLaneMode_rd (d : Dev) (l : Lane) (m : LaneMode) (f : RegField) (i : Nat) (hf : f ∉ laneFields) :
    (setLaneMode d l m).rd f i = d.rd f i := (setLaneMode_sameBut d l m).rd_eq f i hf (by simp)

@[simp] theorem setLaneMode_state (d : Dev) (l : Lane) (m : LaneMode) (i : Nat) :
    (setLaneMode d l m).rd LN_STATUS_STATE i = if i = l.idx then laneCode m else d.rd LN_STATUS_STATE i := by
  have h : laneCode m % 16 = laneCode m := by cases m <;> rfl
  unfold setLaneMode
  by_cases hm : m = .inService
  · subst hm; simp [laneCode]
  · simp [hm, h]

/-- The state in force is the one whose code STATE holds. -/
theorem laneMode_eq {d : Dev} {l : Lane} {m : LaneMode} (h : d.rd LN_STATUS_STATE l.idx = laneCode m) : laneMode d l = m := by
  unfold laneMode
  rw [h]
  cases m <;> rfl

theorem inService_iff {d : Dev} {l : Lane} : inService d l = true ↔ laneMode d l = .inService := by
  refine ⟨fun h => laneMode_eq (by simpa [inService, laneCode] using h), fun h => ?_⟩
  unfold laneMode at h
  split at h <;> simp_all [inService]

@[simp] theorem laneMode_setLaneMode (d : Dev) (l : Lane) (m : LaneMode) : laneMode (setLaneMode d l m) l = m := laneMode_eq (by simp)

theorem setLaneMode_safe (d : Dev) (l : Lane) {m : LaneMode} (hm : m ≠ .inService) : (laneOf (setLaneMode d l m) l).safe := by
  simp [hm, LaneState.safe]

theorem SameBut.laneMode_eq {a d : Dev} {fs : List RegField} {es : List (RegField × Nat)} {ps : List Part} (h : SameBut a d fs es ps)
    (l : Lane) (hf : LN_STATUS_STATE ∉ fs) (he : (LN_STATUS_STATE, l.idx) ∉ es) : laneMode d l = laneMode a l := by
  unfold laneMode; rw [h.rd_eq _ _ hf he]

/-! RESYNC. -/

theorem enterResync_sameBut (d : Dev) (l : Lane) (image : Bool) : SameBut d (enterResync d l image) laneFields [] [.lanes] :=
  SameBut.next ((SameBut.refl d _ _ _).onLane l _ (by simp)) (setLaneMode_sameBut ..) (by simp) (by simp) (by simp)

@[simp] theorem laneMode_enterResync (d : Dev) (l : Lane) (image : Bool) : laneMode (enterResync d l image) l = .resync := by
  simp [enterResync]

theorem enterResync_safe (d : Dev) (l : Lane) (image : Bool) : (laneOf (enterResync d l image) l).safe := setLaneMode_safe _ _ (by simp)

@[simp] theorem enterResync_needImage (d : Dev) (l : Lane) (image : Bool) : (laneOf (enterResync d l image) l).needImage = image := by
  simp [enterResync]

theorem enterResync_laneOf_other (d : Dev) (image : Bool) {l k : Lane} (h : k ≠ l) : laneOf (enterResync d l image) k = laneOf d k := by
  simp [enterResync, h]

/-! The fault record (R112, R133). -/

/-- The registers that show the first two faults that count. -/
@[simp] def faultFields : List RegField :=
  [SAF_FAULT_FIRST_KIND, SAF_FAULT_FIRST_INDEX, SAF_FAULT_FIRST_EVENT, SAF_FAULT_SECOND_KIND, SAF_FAULT_SECOND_INDEX, SAF_FAULT_SECOND_EVENT]

theorem countFault_sameBut (d : Dev) (k : FaultKind) (i : Nat) (e : Ev) (again : Bool) :
    SameBut d (countFault d k i e again) faultFields [] [.fault] := by
  have h : SameBut d { d with fault := { d.fault with counted := d.fault.counted ++ [(faultCode k, i)], healthyFr := 0 } } faultFields []
      [.fault] := (SameBut.refl d _ _ _).fault _ (by simp)
  unfold countFault
  extract_lets
  split
  · exact .refl _ _ _ _
  · split
    · exact ((h.wr _ _ _ (by simp)).wr _ _ _ (by simp)).wr _ _ _ (by simp)
    · split
      · exact ((h.wr _ _ _ (by simp)).wr _ _ _ (by simp)).wr _ _ _ (by simp)
      · exact h

theorem clearFaults_sameBut (d : Dev) (k : FaultKind) (i : Option Nat) : SameBut d (clearFaults d k i) faultFields [] [.fault] := by
  unfold clearFaults
  extract_lets _ left _ d1
  have h : SameBut d d1 faultFields [] [.fault] := (SameBut.refl d _ _ _).fault _ (by simp)
  split
  · exact (((((h.wr _ _ _ (by simp)).wr _ _ _ (by simp)).wr _ _ _ (by simp)).wr _ _ _ (by simp)).wr _ _ _ (by simp)).wr _ _ _ (by simp)
  · exact h

/-! A fault of a lane. -/

/-- The registers that count the faults of a lane (R108). -/
@[simp] def penaltyFields : List RegField := [LN_REJOIN_FAULTS_60MIN, LN_STATUS_REJOIN_LIMIT]

theorem lanePenalty_sameBut (d : Dev) (l : Lane) : SameBut d (lanePenalty d l) penaltyFields [] [.lanes] := by
  unfold lanePenalty showFaults
  dsimp only
  split
  · exact (((SameBut.refl d _ _ _).onLane l _ (by simp)).wr _ _ _ (by simp)).wr _ _ _ (by simp)
  · exact ((SameBut.refl d _ _ _).onLane l _ (by simp)).wr _ _ _ (by simp)

/-- A penalty adds to the fault times of its lane alone. -/
theorem lanePenalty_laneOf (d : Dev) (l k : Lane) : laneOf (lanePenalty d l) k =
    if k = l then { laneOf d l with faultTimes := ((laneOf d l).faultTimes.filter fun t => within d 60 t) ++ [d.tb.ext] }
    else laneOf d k := by
  unfold lanePenalty showFaults
  dsimp only
  split <;> simp

/-- The registers that the safe state of the whole device shows. -/
@[simp] def deenFields : List RegField :=
  [SAF_BRK_STAT_GATE, SAF_SAFE_OK_LEVEL, SAF_UNIT_STAT_FUNC, SAF_UNIT_STAT_CAUSE, SAF_UNIT_STAT_TORQUE, SAF_UNIT_STAT_BRAKE_REL,
   SAF_UNIT_STAT_ACK_PEND, SAF_BRK_STAT_RELEASED, SYS_MODE_MODE]

theorem onSaf_sameBut (d : Dev) (l : Lane) (f : SafState → SafState) : SameBut d (onSaf d l f) [] [] [.lanes] :=
  (SameBut.refl d _ _ _).onLane l _ (by simp)

theorem withdrawEnables_sameBut (d : Dev) : SameBut d (withdrawEnables d) [] [] [.lanes] :=
  .each (fun _ _ _ => onSaf_sameBut ..) (.refl _ _ _ _)

theorem deEnergise_sameBut (d : Dev) : SameBut d (deEnergise d) deenFields [] [.lanes] := by
  have outputs (b : Dev) (l : Lane) : SameBut b (setSafeOk (setGates b l 0) l false) deenFields [] [.lanes] :=
    ((SameBut.refl b _ _ _).next (setGates_sameBut ..) (by simp) (by simp) (by simp)).next (setSafeOk_sameBut ..) (by simp) (by simp) (by simp)
  have h := SameBut.each (fun b l (_ : l ∈ Lane.all) => outputs b l) (SameBut.refl d _ _ _)
  unfold deEnergise
  extract_lets d1 d2 d3 d4
  have h4 : SameBut d d4 deenFields [] [.lanes] := by
    refine .each (fun b k _ => (SameBut.refl b _ _ _).wr _ _ _ (by simp)) (.each (fun b u _ => ?_) (.each (fun b l _ => ?_) h))
    · exact (((((SameBut.refl b _ _ _).wr _ _ _ (by simp)).wr _ _ _ (by simp)).wr _ _ _ (by simp)).wr _ _ _ (by simp)).wr _ _ _ (by simp)
    · exact (onSaf_sameBut ..).mono (by simp) (by simp) (by simp)
  split
  · exact h4
  · exact h4
  · exact (h4.wr _ _ _ (by simp)).next (withdrawEnables_sameBut _) (by simp) (by simp) (by simp)

/-- The registers that a review of the lanes may change. -/
@[simp] def reviewFields : List RegField := deenFields ++ [LN_STATUS_STATE, LN_STATUS_IN_VOTE]

theorem stopTransfers_sameBut (d : Dev) : SameBut d (stopTransfers d) reviewFields [] [.lanes] :=
  .each (fun b l _ => (enterResync_sameBut b l true).mono (by simp) (by simp) (by simp)) (.refl _ _ _ _)

theorem reviewLanes_sameBut (d : Dev) : SameBut d (reviewLanes d) reviewFields [] [.lanes] := by
  unfold reviewLanes
  dsimp only
  split
  · exact .refl _ _ _ _
  · exact .refl _ _ _ _
  · split
    · exact ((deEnergise_sameBut d).mono (by simp) (by simp) (by simp)).trans (stopTransfers_sameBut _)
    · split
      · exact (SameBut.refl d _ _ _).wr _ _ _ (by simp)
      · exact .refl _ _ _ _

/-- The registers that a fault of a lane may change. -/
@[simp] def laneFaultFields : List RegField := reviewFields ++ faultFields ++ penaltyFields

/-- What a fault does to the lane itself, before the others take notice. -/
def laneFaultOwn (d : Dev) (l : Lane) (m : LaneMode) (e : Ev) (again : Bool) : Dev :=
  lanePenalty (countFault (onLane (setLaneMode d l m) l fun x => { x with outCause := e.code, leaveAtTick := false }) .lane l.idx e again) l

theorem laneFaultOwn_sameBut (d : Dev) (l : Lane) (m : LaneMode) (e : Ev) (again : Bool) :
    SameBut d (laneFaultOwn d l m e again) laneFaultFields [] [.lanes, .fault] := by
  have h : SameBut d (setLaneMode d l m) laneFaultFields [] [.lanes, .fault] :=
    (setLaneMode_sameBut d l m).mono (by simp) (by simp) (by simp)
  exact ((h.onLane l _ (by simp)).next (countFault_sameBut ..) (by simp) (by simp) (by simp)).next (lanePenalty_sameBut ..) (by simp) (by simp)
    (by simp)

theorem laneFault_sameBut (d : Dev) (l : Lane) (m : LaneMode) (e : Ev) (later : Bool) :
    SameBut d (laneFault d l m e later) laneFaultFields [] [.lanes, .fault] := by
  have h (n : LaneMode) (b : Bool) := laneFaultOwn_sameBut d l n e b
  unfold laneFault
  extract_lets was n d1 d2
  split
  · exact h n was
  · split
    · exact (h n was).onLane l _ (by simp)
    · exact (h n was).next (reviewLanes_sameBut _) (by simp) (by simp) (by simp)

/-- A lane out of service that faults stays out, in the state of the fault; nothing else follows. -/
theorem laneFault_out {d : Dev} {l : Lane} (m : LaneMode) (e : Ev) (later : Bool) (h : inService d l = false) (hd : laneMode d l ≠ .debug) :
    laneFault d l m e later = laneFaultOwn d l m e false := by
  unfold laneFault laneFaultOwn
  simp [h, hd]

@[simp] theorem laneMode_laneFaultOwn (d : Dev) (l : Lane) (m : LaneMode) (e : Ev) (again : Bool) :
    (laneFaultOwn d l m e again).rd LN_STATUS_STATE l.idx = laneCode m := by
  unfold laneFaultOwn
  rw [(lanePenalty_sameBut ..).rd_eq _ _ (by simp) (by simp), (countFault_sameBut ..).rd_eq _ _ (by simp) (by simp)]
  simp

/-- A lane that faults keeps its latch, and its outputs are off. -/
theorem laneFaultOwn_laneOf (d : Dev) (l : Lane) {m : LaneMode} (e : Ev) (again : Bool) (hm : m ≠ .inService) :
    (laneOf (laneFaultOwn d l m e again) l).latch = (laneOf d l).latch ∧ (laneOf (laneFaultOwn d l m e again) l).safe := by
  unfold laneFaultOwn LaneState.safe
  simp [lanePenalty_laneOf, (countFault_sameBut ..).laneOf_eq, hm]

end Sys2Proof.Machine
end

section
/-!
SUPPORT. Boot, the end of SELFTEST and a lane's own reset, step by step.
-/
namespace Sys2Proof.Machine
open RegField

/-- What a device does for every lane in turn, seen from lane `l`: what the turns of the other lanes keep (`R`) holds before and after the
turn of `l`. -/
theorem Dev.each_all_split {R : Dev → Dev → Prop} (hr : ∀ d, R d d) (ht : ∀ {a b c}, R a b → R b c → R a c) {f : Dev → Lane → Dev} {l : Lane}
    (h : ∀ b k, k ≠ l → R b (f b k)) (d : Dev) : ∃ p, R d p ∧ R (f p l) (d.each Lane.all f) := by
  cases l
  · exact ⟨d, hr d, ht (h _ .b (by decide)) (h _ .c (by decide))⟩
  · exact ⟨f d .a, h _ _ (by decide), h _ .c (by decide)⟩
  · exact ⟨f (f d .a) .b, ht (h _ .a (by decide)) (h _ .b (by decide)), hr _⟩

/-! Boot (R41). -/

theorem exec_imageVerifyDone (l : Lane) (s : State) : exec (.imageVerifyDone l) s = execImageVerifyDone l s := rfl
theorem exec_bootTimeout (s : State) : exec .bootTimeout s = execBootTimeout s := rfl
theorem exec_selftestDone (l : Lane) (s : State) : exec (.selftestDone l) s = execSelftestDone l s := rfl
theorem exec_selftestTimeout (l : Lane) (s : State) : exec (.selftestTimeout l) s = execSelftestTimeout l s := rfl
theorem exec_faultLatchTimeout (l : Lane) (s : State) : exec (.faultLatchTimeout l) s = execFaultLatchTimeout l s := rfl

/-- A lane that is not done verifying when Boot times out counts as having found no valid image. -/
def expireBoot (d : Dev) (l : Lane) : Dev :=
  if (laneOf d l).bootDone then d else onLane d l fun x => { x with bootFw := [], bootCfg := [], bootDone := true }

theorem execBootTimeout_eq (s : State) : execBootTimeout s = s.run fun d =>
    if d.mode = .boot ∧ d.on PWR_STATUS_SHARED_UP then tryEndBoot (d.each Lane.all expireBoot) else d := rfl

theorem expireBoot_sameBut (d : Dev) (l : Lane) : SameBut d (expireBoot d l) [] [] [.lanes] := by
  unfold expireBoot
  split
  · exact .refl _ _ _ _
  · exact (SameBut.refl d _ _ _).onLane l _ (by simp)

theorem expireBoot_bootDone (d : Dev) (l : Lane) : (laneOf (expireBoot d l) l).bootDone = true := by
  unfold expireBoot
  split
  · assumption
  · simp

theorem expireBoot_laneOf_other (d : Dev) {l k : Lane} (h : k ≠ l) : laneOf (expireBoot d k) l = laneOf d l := by
  unfold expireBoot
  split
  · rfl
  · simp [h.symm]

theorem expireBoot_each_bootDone (d : Dev) (l : Lane) : (laneOf (d.each Lane.all expireBoot) l).bootDone = true := by
  obtain ⟨p, -, h⟩ := Dev.each_all_split (R := fun a b => laneOf b l = laneOf a l) (fun _ => rfl) (fun h k => k.trans h)
    (fun b k hk => expireBoot_laneOf_other b hk) d
  rw [h, expireBoot_bootDone]

theorem expireBoot_each_sameBut (d : Dev) : SameBut d (d.each Lane.all expireBoot) [] [] [.lanes] :=
  .each (fun _ _ _ => expireBoot_sameBut ..) (.refl _ _ _ _)

theorem leaveSelftest_sameBut (d : Dev) (l : Lane) : SameBut d (leaveSelftest d l) laneFields [] [.lanes] := by
  unfold leaveSelftest
  split
  · exact .refl _ _ _ _
  · extract_lets first
    split
    · exact setLaneMode_sameBut ..
    · split
      · exact setLaneMode_sameBut ..
      · exact enterResync_sameBut ..

/-- Without a firmware image in flash Boot ends in Hold with cause 1 (R41). -/
theorem endBoot_noFirmware {d : Dev} (h0 : d.flash.fw0 = none) (h1 : d.flash.fw1 = none) :
    (endBoot d).mode = .hold ∧ (endBoot d).rd SYS_MODE_HOLD_CAUSE = 1 ∧ (endBoot d).rd SYS_STATUS_BOOT_DONE = 1 := by
  have hv : validFw d.flash = [] := by simp [validFw, h0, h1]
  have h (b : Dev) : SameBut b (b.each Lane.all leaveSelftest) laneFields [] [.lanes] :=
    .each (fun _ _ _ => leaveSelftest_sameBut ..) (.refl _ _ _ _)
  unfold endBoot
  simp only [hv, commonOf, List.filter_nil, bestOf, List.foldl_nil]
  refine ⟨?_, ?_, ?_⟩
  · rw [(h _).mode_eq (by simp) (by simp)]; simp [enterHold, Dev.mode, modeCode]
  · rw [(h _).rd_eq _ _ (by simp) (by simp)]; simp [enterHold]
  · rw [(h _).rd_eq _ _ (by simp) (by simp)]; simp [enterHold]

theorem tryEndBoot_ends {d : Dev} (hm : d.mode = .boot) (hb : ∀ l, (laneOf d l).bootDone = true) (ht : ∀ p, p < 18 → p ∈ d.mil.tested) :
    tryEndBoot d = endBoot d := by
  unfold tryEndBoot
  exact if_pos ⟨hm, List.all_eq_true.2 fun m _ => hb m, List.all_eq_true.2 fun p hp => by simp [ht p (List.mem_range.1 hp)]⟩

/-- While a physical engine has neither passed its known-answer test nor is faulted, Boot waits (R41, R246). -/
theorem tryEndBoot_waits {d : Dev} {p : Nat} (hp : p < 18) (ht : p ∉ d.mil.tested) (hs : d.rd MIL_ENG_STAT_STATE p ≠ 2) :
    tryEndBoot d = d := by
  unfold tryEndBoot
  refine if_neg fun ⟨_, _, h⟩ => ?_
  have := List.all_eq_true.1 h p (List.mem_range.2 hp)
  simp [ht, hs] at this

/-! SELFTEST (R73, R107, R512). -/

section Selftest
variable {d : Dev} {l : Lane}

theorem leaveSelftest_inHold (h : laneMode d l = .selftest) (ht : (laneOf d l).selftested = true) (hm : d.mode = .hold)
    (hr : d.rd LN_STATUS_REJOIN_LIMIT l.idx = 0) : leaveSelftest d l = setLaneMode d l .inService := by
  simp [leaveSelftest, h, ht, hm, hr, Dev.on]

theorem leaveSelftest_inMotion (h : laneMode d l = .selftest) (ht : (laneOf d l).selftested = true)
    (hm : d.mode = .run ∨ d.mode = .degraded) (hr : d.rd LN_STATUS_REJOIN_LIMIT l.idx = 0) : leaveSelftest d l = enterResync d l true := by
  obtain hm | hm := hm <;> simp [leaveSelftest, h, ht, hm, hr, Dev.on]

theorem leaveSelftest_inBoot (hm : d.mode = .boot) : leaveSelftest d l = d := by
  simp [leaveSelftest, hm]

/-- The fault latch of a lane out of service sets: the cause is logged, the lane is FAULTED with its outputs off (R79). -/
theorem setLatch_out {e : Ev} {index detail : Nat} (hs : laneMode d l ≠ .inService) (hd : laneMode d l ≠ .debug) (hl : (laneOf d l).latch = false)
    (hu : d.rd PWR_STATUS_SHARED_UP ≠ 0) (hi : index < 2 ^ 16) (hx : detail < 2 ^ 80) :
    (setLatch d l e index detail).latchedOut l ∧ (setLatch d l e index detail).logged e (srcLane l) index detail ∧
      (setLatch d l e index detail).rd LN_STATUS_CMP_TEST_FAIL l.idx = d.rd LN_STATUS_CMP_TEST_FAIL l.idx := by
  unfold setLatch
  rw [if_neg (by simp [hl])]
  extract_lets undo d1 d2
  have h1 : SameBut d d1 [] [(LN_STATUS_FAULT_LATCH, l.idx)] [.lanes] := ((SameBut.refl d _ _ _).onLane l _ (by simp)).wr _ _ _ (by simp)
  have h2 : SameBut d1 d2 [] (recordRegs (srcLane l)) [.log] := d1.event_sameBut ..
  have hm : laneMode d2 l = laneMode d l := (h2.laneMode_eq l (by simp) (by simp)).trans (h1.laneMode_eq l (by simp) (by simp))
  rw [laneFault_out _ _ _ (by rwa [← Bool.not_eq_true, inService_iff, hm]) (by rwa [hm])]
  have h3 := laneFaultOwn_sameBut d2 l .faulted e false
  have hlane := laneFaultOwn_laneOf d2 l (m := .faulted) e false (by simp)
  refine ⟨⟨?_, hlane.2, ?_, ?_⟩, ?_, ?_⟩
  · refine hlane.1.trans ?_
    rw [h2.laneOf_eq (by simp)]
    simp [d1]
  · rw [h3.rd_eq _ _ (by simp) (by simp), h2.rd_eq _ _ (by simp) (by simp)]
    simp [d1]
  · simp [laneCode]
  · unfold Dev.logged
    rw [show (laneFaultOwn d2 l .faulted e false).log = d2.log from h3.rest .log (by simp)]
    exact d1.record_logged e _ _ _ (by rwa [h1.rd_eq _ _ (by simp) (by simp)]) hi hx
  · rw [h3.rd_eq _ _ (by simp) (by simp), h2.rd_eq _ _ (by simp) (by simp), h1.rd_eq _ _ (by simp) (by simp)]

end Selftest

end Sys2Proof.Machine
end

section
/-!
SUPPORT. A lane's own reset (R79, R491): what it is allowed to change on its way, and the state it ends in.
-/
namespace Sys2Proof.Machine
open RegField

@[simp] theorem recordFields_eq : recordFields =
    [CRI_LOG_OLD_SEQ, CRI_LOG_NEW_SEQ, CRI_LOG_OVW_CNT, CRI_SRC_CNT_N, CRI_SRC_LAST_CODE, CRI_SRC_LAST_FRAME] := rfl

theorem mem_recordFields {s : Nat} {x : RegField × Nat} (h : x ∈ recordRegs s) : x.1 ∈ recordFields := by
  obtain ⟨f, i⟩ := x
  rw [mem_recordRegs] at h
  rcases h with ⟨rfl, -⟩ | ⟨rfl, -⟩ | ⟨rfl, -⟩ | ⟨rfl, -⟩ | ⟨rfl, -⟩ | ⟨rfl, -⟩ <;> simp

/-- A frame that names the fields of Table 15-7 goes on over an event record. -/
theorem SameBut.eventIn {a d : Dev} {fs : List RegField} {es : List (RegField × Nat)} {ps : List Part} (h : SameBut a d fs es ps) (x : Ev)
    (s i n : Nat) (hf : recordFields ⊆ fs) (hl : .log ∈ ps) : SameBut a (d.event x s i n) fs es ps :=
  h.event x s i n (fun _ hy => .inr (hf (mem_recordFields hy))) hl

/-! The bypass switch (R153). -/

theorem stopMaster_sameBut (d : Dev) (l : Lane) : SameBut d (stopMaster d l) [] [(ENT_START_STATE, l.idx)] [.rings] :=
  ((SameBut.refl d _ _ _).onRing l _ (by simp)).wr _ _ _ (by simp)

theorem setPort_sameBut (d : Dev) (l : Lane) (q : Nat) (up : Bool) : SameBut d (setPort d l q up) [ENT_STAT_LINK0, ENT_STAT_LINK1] [] [] := by
  unfold setPort
  split
  · exact (SameBut.refl d _ _ _).wr _ _ _ (by simp)
  · exact (SameBut.refl d _ _ _).wr _ _ _ (by simp)

/-- The registers that the closing of a bypass switch may change. -/
@[simp] def bypassFields : List RegField :=
  [ENT_STAT_BYPASS_CLOSED, ENT_STAT_LINK0, ENT_STAT_LINK1, ENT_P_CNT2_SYNC_LOSS, ENT_START_STATE] ++ recordFields

theorem closeBypass_sameBut (d : Dev) (l : Lane) : SameBut d (closeBypass d l) bypassFields [] [.rings, .log] := by
  have portLost (b : Dev) (q : Nat) : SameBut b (if portUp b l q then
      ((setPort b l q false).inc ENT_P_CNT2_SYNC_LOSS (portIx l q)).event .ENT_LINK_DOWN (srcRing l) q
        (linkDetail ((setPort b l q false).inc ENT_P_CNT2_SYNC_LOSS (portIx l q)) l q) else b) bypassFields [] [.rings, .log] := by
    split
    · exact (((setPort_sameBut b l q false).mono (by simp) (by simp) (by simp)).wr _ _ _ (by simp)).eventIn _ _ _ _
        (by simp) (by simp)
    · exact .refl _ _ _ _
  unfold closeBypass
  split
  · exact .refl _ _ _ _
  · extract_lets down d1
    have h : SameBut d (d.wr ENT_STAT_BYPASS_CLOSED l.idx 1) bypassFields [] [.rings, .log] := (SameBut.refl d _ _ _).wr _ _ _ (by simp)
    exact (((h.trans (portLost _ 0)).trans (portLost _ 1)).next (stopMaster_sameBut _ l) (by simp) (by simp) (by simp)).eventIn _ _ _ _
      (by simp) (by simp)

/-! The reset history (R493). -/

/-- The registers of the reset history. -/
@[simp] def resetLogFields : List RegField := [PWR_RSTLOG_CAUSE, PWR_RSTLOG_SCOPE, PWR_RSTLOG_UPTIME_S]

/-- The entries of the reset history move down by one. -/
def shiftResets (d : Dev) : Dev :=
  d.each ((List.range 15).map fun k => 14 - k) fun d k =>
    ((d.wr PWR_RSTLOG_CAUSE (k + 1) (d.rd PWR_RSTLOG_CAUSE k)).wr PWR_RSTLOG_SCOPE (k + 1) (d.rd PWR_RSTLOG_SCOPE k)).wr
      PWR_RSTLOG_UPTIME_S (k + 1) (d.rd PWR_RSTLOG_UPTIME_S k)

theorem shiftResets_sameBut (d : Dev) : SameBut d (shiftResets d) resetLogFields [] [] :=
  .each (fun b _ _ => (((SameBut.refl b _ _ _).wr _ _ _ (by simp)).wr _ _ _ (by simp)).wr _ _ _ (by simp)) (.refl _ _ _ _)

theorem logReset_sameBut (d : Dev) (cause scope : Nat) : SameBut d (logReset d cause scope) resetLogFields [] [.pwr] :=
  (((((shiftResets_sameBut d).mono (by simp) (by simp) (by simp)).wr _ _ _ (by simp)).wr _ _ _ (by simp)).wr _ _ _ (by simp)).pwr _ (by simp)

/-- The reset history is not what holds a lane in reset. -/
theorem logReset_held (d : Dev) (cause scope : Nat) : (logReset d cause scope).pwr.held = d.pwr.held := by
  have h : (shiftResets d).pwr = d.pwr := (shiftResets_sameBut d).rest .pwr (by simp)
  change (shiftResets d).pwr.held = _
  rw [h]

theorem countLaneReset_sameBut (d : Dev) (x : Nat) : SameBut d (countLaneReset d x) [PWR_RST_CNT1_LANE] [] [] := by
  unfold countLaneReset
  extract_lets
  split
  · exact .refl _ _ _ _
  · exact (SameBut.refl d _ _ _).wr _ _ _ (by simp)

/-! The reset of a lane. -/

/-- The registers that the reset of a lane may change. -/
@[simp] def laneResetFields : List RegField :=
  [PWR_RST_CNT1_LANE, PWR_STATUS_LANE_UP, PWR_DBG_STAT_LANE_AUTH, LN_STATUS_FAULT_LATCH, LN_STATUS_LANE_DEBUG] ++ resetLogFields ++
    laneFaultFields ++ bypassFields

/-- The causes 0xA and 0xB hold a lane in reset no longer than the reset itself takes (R491). -/
def momentary (cause : Nat) : Prop := cause = 0xA ∨ cause = 0xB

/-- A reset of a lane that is up by a momentary cause: nothing else that could hold it in reset changes, and the lane is as after reset. -/
theorem laneReset_momentary {d : Dev} {l : Lane} {cause : Nat} {e : Ev} (hc : momentary cause) (hh : heldBy d l.idx = [])
    (hu : (d.rd PWR_STATUS_LANE_UP).testBit l.idx = true) :
    SameBut d (laneReset d l cause e) laneResetFields [] [.lanes, .fault, .rings, .log, .pwr] ∧ heldBy (laneReset d l cause e) l.idx = [] ∧
      (laneOf (laneReset d l cause e) l).latch = false := by
  unfold laneReset
  rw [if_neg (by simp [hh])]
  extract_lets d1 d2 d3 d4 d5 d6
  have h1 : SameBut d d1 (PWR_RST_CNT1_LANE :: resetLogFields) [] [.pwr] :=
    ((logReset_sameBut ..).mono (by simp) (by simp) (by simp)).next (countLaneReset_sameBut ..) (by simp) (by simp) (by simp)
  have held1 : d1.pwr.held = d.pwr.held :=
    (congrArg PowerState.held ((countLaneReset_sameBut ..).rest .pwr (by simp))).trans (logReset_held ..)
  have hd2 : d2 = d1 := if_pos hc
  rw [if_pos (by rwa [hd2, h1.rd_eq _ _ (by simp) (by simp)])]
  have h3 : SameBut d1 d4 laneResetFields [] [.lanes, .fault, .rings, .log] :=
    hd2 ▸ ((((SameBut.refl d2 _ _ _).wr _ _ _ (by simp)).wr _ _ _ (by simp)).wr _ _ _ (by simp)).wr _ _ _ (by simp)
  have h4 : SameBut d1 d5 laneResetFields [] [.lanes, .fault, .rings, .log] := by
    unfold d5
    split
    · exact h3.next (laneFault_sameBut ..) (by simp) (by simp) (by simp)
    · exact h3.next (setLaneMode_sameBut ..) (by simp) (by simp) (by simp)
  have h5 : SameBut d1 d6 laneResetFields [] [.lanes, .fault, .rings, .log] := by
    unfold d6
    split
    · exact (h4.onLane l _ (by simp)).next (reviewLanes_sameBut _) (by simp) (by simp) (by simp)
    · exact h4
  have h6 : SameBut d1 (closeBypass (onLane d6 l freshLane) l) laneResetFields [] [.lanes, .fault, .rings, .log] :=
    (h5.onLane l _ (by simp)).next (closeBypass_sameBut ..) (by simp) (by simp) (by simp)
  refine ⟨(h1.mono (by simp) (by simp) (by simp)).next h6 (by simp) (by simp) (by simp), ?_, ?_⟩
  · unfold heldBy at hh ⊢
    rw [show (closeBypass (onLane d6 l freshLane) l).pwr = d1.pwr from h6.rest .pwr (by simp), held1, hh]
  · rw [(closeBypass_sameBut ..).laneOf_eq (by simp)]
    simp [freshLane]

/-- A lane that nothing holds in reset boots from its own reset, its latch clear and its outputs safe. -/
theorem selfReset_boots {d : Dev} {l : Lane} {cause : Nat} {e : Ev} (hc : momentary cause) (hs : d.rd PWR_STATUS_SHARED_UP ≠ 0)
    (hv : convOk d l = true) (hh : heldBy d l.idx = []) (hu : (d.rd PWR_STATUS_LANE_UP).testBit l.idx = true) :
    laneMode (selfReset d l cause e) l = .boot ∧ (laneOf (selfReset d l cause e) l).latch = false ∧ (laneOf (selfReset d l cause e) l).safe := by
  obtain ⟨h, hheld, hlatch⟩ := laneReset_momentary (e := e) hc hh hu
  unfold selfReset
  extract_lets d1 d2
  have hv1 : convOk d1 l = true := by
    unfold convOk at hv ⊢
    rwa [show d1.rd PWR_STATUS_CONV_OK = d.rd PWR_STATUS_CONV_OK from h.rd_eq _ _ (by simp) (by simp)]
  have hs1 : d1.on PWR_STATUS_SHARED_UP = true := by
    simpa [Dev.on, show d1.rd PWR_STATUS_SHARED_UP = d.rd PWR_STATUS_SHARED_UP from h.rd_eq _ _ (by simp) (by simp)] using hs
  rw [if_pos ⟨hs1, hv1, hheld⟩]
  refine ⟨laneMode_setLaneMode .., ?_, setLaneMode_safe _ _ (by simp)⟩
  simpa [d1, d2] using hlatch

end Sys2Proof.Machine
end

section
/-!
The path of a lane back to service: boot, SELFTEST, its own reset, reload, resynchronisation and rejoin (R41, R73, R79, R106, R107, R512).
-/
namespace Sys2Proof.Machine
open RegField

theorem exec_reloadChunkSend (x : Lane) (s : State) : exec (.reloadChunkSend x) s = execReloadChunkSend x s := rfl
theorem exec_bulkBlockReceived (x : Lane) (g : Bool) (s : State) : exec (.bulkBlockReceived x g) s = execBulkBlockReceived x g s := rfl
theorem exec_reloadVerify (x : Lane) (s : State) : exec (.reloadVerify x) s = execReloadVerify x s := rfl
theorem exec_imageSwitch (s : State) : exec .imageSwitch s = execImageSwitch s := rfl
theorem exec_resyncSnapshot (x : Lane) (s : State) : exec (.resyncSnapshot x) s = execResyncSnapshot x s := rfl
theorem exec_snapshotLoad (x : Lane) (s : State) : exec (.snapshotLoad x) s = execSnapshotLoad x s := rfl
theorem exec_laneRejoin (x : Lane) (s : State) : exec (.laneRejoin x) s = execLaneRejoin x s := rfl

@[simp] theorem donorOf_cleared (d : Dev) (x : Lane) : donorOf d.cleared x = donorOf d x := rfl
@[simp] theorem canHelp_cleared (d : Dev) : canHelp d.cleared = canHelp d := rfl
@[simp] theorem wantsImage_cleared (d : Dev) (x : Lane) : wantsImage d.cleared x = wantsImage d x := rfl
@[simp] theorem bulkOpen_cleared (d : Dev) (l : Lane) : bulkOpen d.cleared l = bulkOpen d l := rfl

/-! Boot and SELFTEST. -/

section Boot
variable {s : State} {l : Lane}

theorem imageVerifyDone_inHold (h : laneMode s.dev l = .boot) (hm : s.dev.mode = .hold) :
    Answers (.imageVerifyDone l) s fun e => laneMode e l = .selftest ∧ (laneOf e l).bootDone = true := by
  refine .of_effect (exec_imageVerifyDone l s) ?_
  simp [h, hm, enterSelftest]

theorem imageVerifyDone_outsideBoot (h : laneMode s.dev l ≠ .boot) :
    Completes (.imageVerifyDone l) s [] [] fun e => e.out = [] :=
  .of_unchanged (exec_imageVerifyDone l s) (if_pos h)

theorem bootTimeout_noFirmware (hm : s.dev.mode = .boot) (hu : s.dev.rd PWR_STATUS_SHARED_UP ≠ 0) (h0 : s.dev.flash.fw0 = none)
    (h1 : s.dev.flash.fw1 = none) (ht : ∀ p, p < 18 → p ∈ s.dev.mil.tested) :
    Answers .bootTimeout s fun e => e.mode = .hold ∧ e.rd SYS_MODE_HOLD_CAUSE = 1 ∧ e.rd SYS_STATUS_BOOT_DONE = 1 := by
  refine .of_effect ((exec_bootTimeout s).trans (execBootTimeout_eq s)) ?_
  have h := expireBoot_each_sameBut s.dev.cleared
  have hflash : (s.dev.cleared.each Lane.all expireBoot).flash = s.dev.flash := h.rest .flash (by simp)
  have hmil : (s.dev.cleared.each Lane.all expireBoot).mil = s.dev.mil := h.rest .mil (by simp)
  rw [if_pos ⟨hm, by simpa [Dev.on] using hu⟩,
    tryEndBoot_ends ((h.mode_eq (by simp) (by simp)).trans hm) (expireBoot_each_bootDone _) (by rwa [hmil])]
  exact endBoot_noFirmware (by rwa [hflash]) (by rwa [hflash])

theorem bootTimeout_afterBoot (h : s.dev.mode ≠ .boot) : Completes .bootTimeout s [] [] fun e => e.out = [] :=
  .of_unchanged (exec_bootTimeout s) (if_neg fun hc => h hc.1)

theorem Dev.each_out {α : Type} {f : Dev → α → Dev} (hf : ∀ d x, (f d x).out = d.out) (d : Dev) (xs : List α) : (d.each xs f).out = d.out := by
  induction xs generalizing d with
  | nil => rfl
  | cons x xs ih => exact (ih (f d x)).trans (hf d x)

theorem expireBoot_out (d : Dev) (l : Lane) : (expireBoot d l).out = d.out := by
  unfold expireBoot
  split <;> rfl

theorem bootTimeout_waits {p : Fin 18} (hm : s.dev.mode = .boot) (ht : p.val ∉ s.dev.mil.tested) (hs : s.dev.rd MIL_ENG_STAT_STATE p ≠ 2) :
    Completes .bootTimeout s [] [.lanes] fun e => e.mode = .boot ∧ e.out = [] := by
  have h := expireBoot_each_sameBut s.dev.cleared
  have hmil : (s.dev.cleared.each Lane.all expireBoot).mil = s.dev.mil := h.rest .mil (by simp)
  have hwait := tryEndBoot_waits (d := s.dev.cleared.each Lane.all expireBoot) p.isLt (by rwa [hmil])
    (by rwa [h.rd_eq _ _ (by simp) (by simp)])
  by_cases hu : s.dev.rd PWR_STATUS_SHARED_UP = 0
  · exact .of_result ((exec_bootTimeout s).trans (execBootTimeout_eq s)) (if_neg fun hc => by simp [Dev.on, hu] at hc) (.refl _ _ _ _)
      ⟨hm, rfl⟩
  · exact .of_result ((exec_bootTimeout s).trans (execBootTimeout_eq s)) ((if_pos ⟨hm, by simpa [Dev.on] using hu⟩).trans hwait) h
      ⟨(h.mode_eq (by simp) (by simp)).trans hm, Dev.each_out expireBoot_out _ _⟩

/-- The device when lane `l` has passed SELFTEST, before it leaves it. -/
def selftestPassed (d : Dev) (l : Lane) : Dev := (onLane d l fun x => { x with selftested := true }).wr LN_CMP_TEST_NEXT_GROUP l.idx 0

theorem execSelftestDone_eq (l : Lane) (s : State) : execSelftestDone l s = s.run fun d =>
    if laneMode d l = .selftest ∧ !(laneOf d l).latch then leaveSelftest (selftestPassed d l) l else d := rfl

theorem selftestPassed_sameBut (d : Dev) (l : Lane) : SameBut d (selftestPassed d l) [] [(LN_CMP_TEST_NEXT_GROUP, l.idx)] [.lanes] :=
  ((SameBut.refl d _ _ _).onLane l _ (by simp)).wr _ _ _ (by simp)

theorem selftestPassed_laneOf (d : Dev) (l : Lane) : laneOf (selftestPassed d l) l = { laneOf d l with selftested := true } := by
  simp [selftestPassed]

theorem selftestPassed_nextGroup (d : Dev) (l : Lane) : (selftestPassed d l).rd LN_CMP_TEST_NEXT_GROUP l.idx = 0 := by
  simp [selftestPassed]

section
variable (h : laneMode s.dev l = .selftest) (hl : (laneOf s.dev l).latch = false)
include h hl

theorem selftestDone_inHold (hm : s.dev.mode = .hold) (hr : s.dev.rd LN_STATUS_REJOIN_LIMIT l.idx = 0) :
    Answers (.selftestDone l) s fun e =>
      laneMode e l = .inService ∧ (laneOf e l).selftested = true ∧ e.rd LN_CMP_TEST_NEXT_GROUP l.idx = 0 := by
  have hp := selftestPassed_sameBut s.dev.cleared l
  have hx := selftestPassed_laneOf s.dev.cleared l
  refine .of_result ((exec_selftestDone l s).trans (execSelftestDone_eq l s)) ((if_pos ⟨h, by simp [hl]⟩).trans
    (leaveSelftest_inHold ((hp.laneMode_eq l (by simp) (by simp)).trans h) (by rw [hx]) ((hp.mode_eq (by simp) (by simp)).trans hm)
      ((hp.rd_eq _ _ (by simp) (by simp)).trans hr))) ⟨by simp, by simp [hx], ?_⟩
  simpa using selftestPassed_nextGroup s.dev.cleared l

theorem selftestDone_inMotion (hm : s.dev.mode = .run ∨ s.dev.mode = .degraded) (hr : s.dev.rd LN_STATUS_REJOIN_LIMIT l.idx = 0) :
    Answers (.selftestDone l) s fun e => laneMode e l = .resync ∧ (laneOf e l).needImage = true ∧ (e.lanes.get l).safe := by
  have hp := selftestPassed_sameBut s.dev.cleared l
  have hx := selftestPassed_laneOf s.dev.cleared l
  exact .of_result ((exec_selftestDone l s).trans (execSelftestDone_eq l s)) ((if_pos ⟨h, by simp [hl]⟩).trans
    (leaveSelftest_inMotion ((hp.laneMode_eq l (by simp) (by simp)).trans h) (by rw [hx]) (by rwa [hp.mode_eq (by simp) (by simp)])
      ((hp.rd_eq _ _ (by simp) (by simp)).trans hr)))
    ⟨laneMode_enterResync .., enterResync_needImage .., enterResync_safe ..⟩

theorem selftestDone_inBoot (hm : s.dev.mode = .boot) :
    Completes (.selftestDone l) s [(LN_CMP_TEST_NEXT_GROUP, l.idx)] [.lanes] fun e =>
      laneMode e l = .selftest ∧ (laneOf e l).selftested = true ∧ e.rd LN_CMP_TEST_NEXT_GROUP l.idx = 0 := by
  have hp := selftestPassed_sameBut s.dev.cleared l
  exact .of_result ((exec_selftestDone l s).trans (execSelftestDone_eq l s)) ((if_pos ⟨h, by simp [hl]⟩).trans
    (leaveSelftest_inBoot ((hp.mode_eq (by simp) (by simp)).trans hm))) hp
    ⟨(hp.laneMode_eq l (by simp) (by simp)).trans h, by rw [selftestPassed_laneOf], selftestPassed_nextGroup ..⟩

end

theorem selftestTimeout_latches (h : laneMode s.dev l = .selftest) (ht : (laneOf s.dev l).selftested = false)
    (hl : (laneOf s.dev l).latch = false) (hu : s.dev.rd PWR_STATUS_SHARED_UP ≠ 0) :
    Answers (.selftestTimeout l) s fun e =>
      e.rd LN_STATUS_CMP_TEST_FAIL l.idx = 1 ∧ e.latchedOut l ∧ e.logged .CMP_TEST_FAIL (srcLane l) := by
  have hmode : laneMode (s.dev.cleared.flag LN_STATUS_CMP_TEST_FAIL l.idx) l = .selftest :=
    (((SameBut.refl s.dev.cleared [LN_STATUS_CMP_TEST_FAIL] [] []).wr _ _ _ (by simp)).laneMode_eq l (by simp) (by simp)).trans h
  obtain ⟨hout, hlog, hflag⟩ := setLatch_out (e := .CMP_TEST_FAIL) (index := 0) (detail := 0) (by rw [hmode]; simp) (by rw [hmode]; simp)
    (by simpa using hl)
    (by simpa using hu) (by decide) (by decide)
  exact .of_result (exec_selftestTimeout l s) (if_pos ⟨h, by simp [ht]⟩) ⟨hflag.trans (by simp), hout, hlog⟩

end Boot

/-! The lane's own reset. -/

section SelfReset
variable {s : State} {l : Lane}

theorem faultLatchTimeout_boots (hl : (laneOf s.dev l).latch = true) (hr : s.dev.rd LN_STATUS_REJOIN_LIMIT l.idx = 0)
    (hu : s.dev.rd PWR_STATUS_SHARED_UP ≠ 0) (hv : convOk s.dev l = true) (hh : heldBy s.dev l.idx = [])
    (hup : (s.dev.rd PWR_STATUS_LANE_UP).testBit l.idx = true) :
    Answers (.faultLatchTimeout l) s fun e => laneMode e l = .boot ∧ (laneOf e l).latch = false ∧ (e.lanes.get l).safe := by
  obtain ⟨hmode, hlatch, hsafe⟩ := selfReset_boots (d := s.dev.cleared) (l := l) (cause := 0xA) (e := .LOCKSTEP_MISMATCH) (.inl rfl) hu hv hh hup
  refine .of_result (exec_faultLatchTimeout l s) (if_pos ⟨hl, by simp [Dev.on, hr]⟩) ⟨hmode, by simpa using hlatch, ?_⟩
  change (laneOf (onLane _ l _) l).safe
  simpa [LaneState.safe] using hsafe

theorem faultLatchTimeout_pastLimit (hr : s.dev.rd LN_STATUS_REJOIN_LIMIT l.idx ≠ 0) :
    Completes (.faultLatchTimeout l) s [] [] fun e => e.out = [] :=
  .of_unchanged (exec_faultLatchTimeout l s) (if_neg fun hc => by simp [Dev.on, hr] at hc)

end SelfReset

/-! Reload (R89, R105, R106). -/

section Reload
variable {s : State} {x l : Lane}

theorem reloadChunkSend_sends (hw : wantsImage s.dev x = true) (hc : canHelp s.dev = true) (hd : donorOf s.dev x = some l)
    (hn : (laneOf s.dev x).reloadChunks < 8) (ho : bulkOpen s.dev l = true) (hb : (laneOf s.dev x).bulkFrame ≠ some s.dev.frameNo) :
    Completes (.reloadChunkSend x) s [] [.lanes, .tb] fun e =>
      e.out = [.reloadChunk l x (laneOf s.dev x).reloadChunks] ∧ (laneOf e x).reloadChunks = (laneOf s.dev x).reloadChunks + 1 ∧
        (laneOf e x).bulkFrame = some s.dev.frameNo := by
  have hd' : donorOf s.dev.cleared x = some l := hd
  have hgo : ¬ (!wantsImage s.dev.cleared x ∨ !canHelp s.dev.cleared ∨ !bulkOpen s.dev.cleared l ∨
      8 ≤ (laneOf s.dev.cleared x).reloadChunks ∨ (laneOf s.dev.cleared x).bulkFrame = some s.dev.cleared.frameNo) := by
    simp [hw, hc, ho, hb, hn]
  refine .of_effect (exec_reloadChunkSend x s) ?_ ?_ <;> simp only [hd'] <;> rw [if_neg hgo]
  · exact (((SameBut.refl _ _ _ _).reach _ (by simp)).onLane x _ (by simp)).emit _
  · simp

theorem reloadChunkSend_sent (hb : (laneOf s.dev x).bulkFrame = some s.dev.frameNo) :
    Completes (.reloadChunkSend x) s [] [] fun e => e.out = [] := by
  refine .of_unchanged (exec_reloadChunkSend x s) ?_
  dsimp only
  split
  · rfl
  · exact if_pos (.inr (.inr (.inr (.inr hb))))

theorem bulkBlockReceived_ofImage (hw : wantsImage s.dev x = true) (hn : (laneOf s.dev x).reloadBlocks < 8 * (laneOf s.dev x).reloadChunks)
    (hc : canHelp s.dev = true) (hb : (laneOf s.dev x).bulkFrame = some s.dev.frameNo → (laneOf s.dev x).bulkBlocks < 8) :
    Completes (.bulkBlockReceived x true) s [] [.lanes] fun e =>
      (laneOf e x).reloadBlocks = (laneOf s.dev x).reloadBlocks + 1 ∧ (laneOf e x).staging = (laneOf s.dev x).staging := by
  have hused : ¬ (!canHelp s.dev ∨ 8 ≤ if (laneOf s.dev x).bulkFrame = some s.dev.frameNo then (laneOf s.dev x).bulkBlocks else 0) := by
    split <;> simp_all
  exact .of_result (exec_bulkBlockReceived x true s) ((if_neg hused).trans (if_pos ⟨hw, hn⟩))
    ((SameBut.refl _ _ _ _).onLane x _ (by simp)) (by simp)

section
variable {i : Image} (hi : (laneOf s.dev x).staging = some i) (hd : donorOf s.dev x = some l) (hw : wantsImage s.dev x = true)
  (hn : (laneOf s.dev x).reloadBlocks = 64) (hs : (laneOf s.dev x).switchAt = none) (hc : canHelp s.dev = true)
  (hb : (laneOf s.dev x).bulkFrame ≠ some s.dev.frameNo)
include hi hd hw hn hs hc hb

theorem reloadVerify_equal (hg : imageDigest i = imageDigest (laneOf s.dev l).image) :
    Completes (.reloadVerify x) s [] [.lanes] fun e =>
      (laneOf e x).switchAt = some ((s.dev.frameNo + 2 - s.dev.frameNo % 2) % 2 ^ 32) := by
  have hi' : (laneOf s.dev.cleared x).staging = some i := hi
  have hd' : donorOf s.dev.cleared x = some l := hd
  have hg' : imageDigest i = imageDigest (laneOf s.dev.cleared l).image := hg
  refine .of_effect (exec_reloadVerify x s) ?_ ?_ <;> simp only [hi', hd'] <;> rw [if_pos ⟨hw, hc, hn, hs, hb⟩, if_pos hg']
  · exact (SameBut.refl _ _ _ _).onLane x _ (by simp)
  · simp

theorem reloadVerify_repeats (hg : imageDigest i ≠ imageDigest (laneOf s.dev l).image) (ht : (laneOf s.dev x).reloadTries = 0) :
    Completes (.reloadVerify x) s [] [.lanes] fun e =>
      (laneOf e x).reloadTries = 1 ∧ (laneOf e x).staging = none ∧ (laneOf e x).reloadChunks = 0 := by
  have hi' : (laneOf s.dev.cleared x).staging = some i := hi
  have hd' : donorOf s.dev.cleared x = some l := hd
  have hg' : ¬ imageDigest i = imageDigest (laneOf s.dev.cleared l).image := hg
  have ht' : (laneOf s.dev.cleared x).reloadTries = 0 := ht
  refine .of_effect (exec_reloadVerify x s) ?_ ?_ <;> simp only [hi', hd'] <;> rw [if_pos ⟨hw, hc, hn, hs, hb⟩, if_neg hg', if_pos ht']
  · exact (SameBut.refl _ _ _ _).onLane x _ (by simp)
  · simp

end

/-- The turn of lane `l` at an agreed switch of images. -/
def switchImage (d : Dev) (l : Lane) : Dev :=
  match (laneOf d l).staging, (laneOf d l).switchAt with
  | some i, some n =>
    if n = d.frameNo ∧ d.tb.ticking then
      let e := loadImage (onLane d l fun y => { y with staging := none, switchAt := none }) l i
      match laneMode e l with
      | .reload =>
        let v := match donorOf e l with
          | some m => (laneOf e m).fwVersion
          | none => (laneOf d l).fwVersion
        (enterResync (onLane e l fun y => { y with fwVersion := v }) l false).event .LANE_RELOADED (srcLane l)
      | .resync => onLane e l fun y => { y with needImage := false }
      | _ => e
    else d
  | _, _ => d

theorem execImageSwitch_eq (s : State) : execImageSwitch s = s.run fun d => d.each Lane.all switchImage := rfl

/-- The registers that a load of an image writes. -/
@[simp] def imageFields : List RegField := [COM_PAIRS_COUNT, COM_PAIRS_CAPSULES, ADC_CORR_OFFSET, ADC_CORR_GAIN]

theorem writeCorr_sameBut (d : Dev) (ch v : Nat) : SameBut d (writeCorr d ch v) [ADC_CORR_OFFSET, ADC_CORR_GAIN] [] [] :=
  ((SameBut.refl d _ _ _).wr _ _ _ (by simp)).wr _ _ _ (by simp)

theorem showImage_sameBut (d : Dev) (c : SafetyConfig) :
    SameBut d ((showPairs d c).each (List.range 31) fun d ch => writeCorr d ch (corrOf c ch)) imageFields [] [] :=
  .each (fun _ _ _ => (writeCorr_sameBut ..).mono (by simp) (by simp) (by simp))
    (((SameBut.refl d _ _ _).wr _ _ _ (by simp)).wr _ _ _ (by simp))

theorem loadImage_sameBut (d : Dev) (l : Lane) (i : Image) : SameBut d (loadImage d l i) imageFields [] [.lanes] :=
  ((SameBut.refl d _ _ _).onLane l _ (by simp)).next (showImage_sameBut ..) (by simp) (by simp) (by simp)

theorem loadImage_laneOf (d : Dev) (l k : Lane) (i : Image) :
    laneOf (loadImage d l i) k = if k = l then { laneOf d l with image := i } else laneOf d k :=
  ((showImage_sameBut ..).laneOf_eq (by simp) k).trans (by simp)

/-- What decides whether lane `l` switches its image now, and the state it is in, is as it was. -/
structure SameSwitch (l : Lane) (d e : Dev) : Prop where
  frameNo : e.frameNo = d.frameNo
  tb : e.tb = d.tb
  lane : laneOf e l = laneOf d l
  mode : laneMode e l = laneMode d l

theorem SameSwitch.refl (l : Lane) (d : Dev) : SameSwitch l d d := ⟨rfl, rfl, rfl, rfl⟩

theorem SameSwitch.trans {a b c : Dev} (h : SameSwitch l a b) (k : SameSwitch l b c) : SameSwitch l a c :=
  ⟨k.frameNo.trans h.frameNo, k.tb.trans h.tb, k.lane.trans h.lane, k.mode.trans h.mode⟩

theorem switchImage_sameBut (d : Dev) (l : Lane) :
    SameBut d (switchImage d l) (imageFields ++ laneFields ++ recordFields) [] [.lanes, .log] := by
  unfold switchImage
  split
  · split
    · extract_lets e v
      have he : SameBut d e (imageFields ++ laneFields ++ recordFields) [] [.lanes, .log] :=
        ((SameBut.refl d _ _ _).onLane l _ (by simp)).next (loadImage_sameBut ..) (by simp) (by simp) (by simp)
      split
      · exact ((he.onLane l _ (by simp)).next (enterResync_sameBut ..) (by simp) (by simp) (by simp)).eventIn _ _ _ _ (by simp) (by simp)
      · exact he.onLane l _ (by simp)
      · exact he
    · exact .refl _ _ _ _
  · exact .refl _ _ _ _

theorem enterResync_state (d : Dev) (image : Bool) {l k : Lane} (h : k ≠ l) : laneMode (enterResync d l image) k = laneMode d k := by
  unfold laneMode enterResync
  simp [Lane.idx_inj, h]

/-- The turn of another lane. -/
theorem switchImage_other (d : Dev) {l k : Lane} (h : k ≠ l) : SameSwitch l d (switchImage d k) := by
  have hb := switchImage_sameBut d k
  refine ⟨hb.frameNo_eq (by simp) (by simp), hb.rest .tb (by simp), ?_, ?_⟩
  · unfold switchImage
    split
    · split
      · extract_lets e v
        have he : laneOf e l = laneOf d l := by simp [e, loadImage_laneOf, h.symm]
        split
        · rw [Dev.event_eq, laneOf_record, enterResync_laneOf_other _ _ h.symm]
          simpa [h.symm] using he
        · simpa [h.symm] using he
        · exact he
      · rfl
    · rfl
  · unfold switchImage
    split
    · split
      · extract_lets e v
        have he : laneMode e l = laneMode d l := (loadImage_sameBut ..).laneMode_eq l (by simp) (by simp)
        split
        · rw [((SameBut.refl _ _ _ _).eventIn _ _ _ _ (List.Subset.refl recordFields) (List.mem_singleton.2 rfl)).laneMode_eq l (by simp)
            (List.not_mem_nil), enterResync_state _ _ h.symm]
          exact he
        · exact he
        · exact he
      · rfl
    · rfl

/-- The turn of a lane in service whose switch is due. -/
theorem switchImage_due {d : Dev} {i : Image} (hi : (laneOf d l).staging = some i) (hs : (laneOf d l).switchAt = some d.frameNo)
    (ht : d.tb.ticking = true) (hm : laneMode d l = .inService) :
    laneOf (switchImage d l) l = { laneOf d l with image := i, staging := none, switchAt := none } := by
  have he : laneMode (loadImage (onLane d l fun y => { y with staging := none, switchAt := none }) l i) l = .inService :=
    ((loadImage_sameBut ..).laneMode_eq l (by simp) (by simp)).trans hm
  unfold switchImage
  simp only [hi, hs, ht, and_self, if_true, he]
  simp [loadImage_laneOf]

theorem imageSwitch_inService {i : Image} (hi : (laneOf s.dev l).staging = some i) (hs : (laneOf s.dev l).switchAt = some s.dev.frameNo)
    (ht : s.dev.tb.ticking = true) (hm : laneMode s.dev l = .inService) :
    Answers .imageSwitch s fun e => (laneOf e l).image = i ∧ (laneOf e l).staging = none ∧ (laneOf e l).switchAt = none := by
  obtain ⟨p, hp, he⟩ := Dev.each_all_split (SameSwitch.refl l) SameSwitch.trans (fun b k hk => switchImage_other b hk) s.dev.cleared
  have hdue := switchImage_due (d := p) (by rw [hp.lane]; exact hi) (by rw [hp.lane, hp.frameNo]; exact hs) (by rw [hp.tb]; exact ht)
    (hp.mode.trans hm)
  refine .of_effect ((exec_imageSwitch s).trans (execImageSwitch_eq s)) ?_
  rw [he.lane, hdue]
  exact ⟨rfl, rfl, rfl⟩

end Reload
/-! Resynchronisation and rejoin (R107). -/

section Resync
variable {s : State} {x l : Lane}

theorem resyncSnapshot_taken (hd : donorOf s.dev x = some l) (hm : laneMode s.dev x = .resync) (hn : (laneOf s.dev x).needImage = false)
    (hc : canHelp s.dev = true) (hf : s.dev.frameNo % 2 = 0) (ht : s.dev.tb.ticking = true) (hq : (laneOf s.dev x).snapshot = none)
    (hal : (laneOf s.dev l).agreedNow = false) (hax : (laneOf s.dev x).agreedNow = false) :
    Completes (.resyncSnapshot x) s [] [.lanes] fun e =>
      e.out = [.snapshot l x] ∧ (laneOf e x).saf = (laneOf s.dev l).saf ∧ (laneOf e x).snapshotAt = s.dev.frameNo ∧
        ∃ q, (laneOf e x).snapshot = some q ∧ q.saf = (laneOf s.dev l).saf ∧ q.runs = (laneOf s.dev l).outlierRun := by
  have hd' : donorOf s.dev.cleared x = some l := hd
  have hgo : laneMode s.dev.cleared x = .resync ∧ !(laneOf s.dev.cleared x).needImage ∧ canHelp s.dev.cleared ∧
      s.dev.cleared.frameNo % 2 = 0 ∧ s.dev.cleared.tb.ticking ∧ !(laneOf s.dev.cleared l).agreedNow ∧ !(laneOf s.dev.cleared x).agreedNow ∧
      ((laneOf s.dev.cleared x).snapshot.isNone ∨ (laneOf s.dev.cleared x).snapshotAt ≠ s.dev.cleared.frameNo) := by
    simp [hm, hn, hc, hf, ht, hq, hal, hax]
  refine .of_effect (exec_resyncSnapshot x s) ?_ ?_ <;> simp only [hd'] <;> rw [if_pos hgo]
  · exact ((SameBut.refl _ _ _ _).onLane x _ (by simp)).emit _
  · simp

theorem snapshotLoad_shadows (hm : laneMode s.dev x = .resync) (hq : (laneOf s.dev x).snapshot.isSome = true)
    (hn : (laneOf s.dev x).snapshotBlocks = 16) (hc : canHelp s.dev = true) (ha : (laneOf s.dev x).agreedNow = false)
    (hf : s.dev.frameNo = ((laneOf s.dev x).snapshotAt + 2) % 2 ^ 32) :
    Answers (.snapshotLoad x) s fun e => laneMode e x = .shadow ∧ (laneOf e x).saf = (laneOf s.dev x).saf ∧
      (laneOf e x).snapshot = none ∧ (e.lanes.get x).safe :=
  .of_result (exec_snapshotLoad x s) (if_pos ⟨hm, hq, hn, hc, by simp [ha], hf⟩)
    ⟨laneMode_setLaneMode .., by simp, by simp, setLaneMode_safe _ _ (by simp)⟩

/-- The device when lane `x` enters service after 16 matching frames, before the event is written. -/
def rejoined (d : Dev) (x : Lane) : Dev :=
  ((onLane (setLaneMode d x .inService) x fun y => { y with outCause := 0, shadowRun := 0 }).flag LN_STATUS_LANE_REJOIN x.idx).inc
    LN_REJOIN_COUNT x.idx

theorem laneRejoin_entersService (hm : laneMode s.dev x = .shadow) (hr : 16 ≤ (laneOf s.dev x).shadowRun) (hf : s.dev.frameNo % 2 = 0)
    (hc : canHelp s.dev = true) (hu : s.dev.rd PWR_STATUS_SHARED_UP ≠ 0) :
    Answers (.laneRejoin x) s fun e => laneMode e x = .inService ∧ e.rd LN_STATUS_LANE_REJOIN x.idx = 1 ∧ e.logged .LANE_REJOIN (srcLane x) := by
  have hrec := (rejoined s.dev.cleared x).event_sameBut .LANE_REJOIN (srcLane x) 0 0
  refine .of_result (e := (rejoined s.dev.cleared x).event .LANE_REJOIN (srcLane x)) (exec_laneRejoin x s) (if_pos ⟨hm, hr, hf, hc⟩)
    ⟨laneMode_eq ?_, ?_, Dev.record_logged _ _ _ _ _ ?_ (by decide) (by decide)⟩
  · rw [hrec.rd_eq _ _ (by simp) (by simp)]; simp [rejoined]
  · rw [hrec.rd_eq _ _ (by simp) (by simp)]; simp [rejoined]
  · simpa [rejoined] using hu

theorem laneRejoin_early (hr : (laneOf s.dev x).shadowRun < 16) : Completes (.laneRejoin x) s [] [] fun e => e.out = [] :=
  .of_unchanged (exec_laneRejoin x s) (if_neg fun hc => absurd hc.2.1 (by simpa using hr))

end Resync

/-- Settles O11: each clause is the lemma above about the step of the path that it names. -/
theorem laneRecovery : Obligations.LaneRecovery :=
  ⟨fun _ _ => imageVerifyDone_inHold, fun _ _ => imageVerifyDone_outsideBoot, fun _ => bootTimeout_noFirmware, fun _ => bootTimeout_afterBoot,
   fun _ _ => bootTimeout_waits, fun _ _ => selftestDone_inHold, fun _ _ => selftestDone_inMotion, fun _ _ => selftestDone_inBoot,
   fun _ _ => selftestTimeout_latches, fun _ _ => faultLatchTimeout_boots, fun _ _ _ => faultLatchTimeout_pastLimit,
   fun _ _ _ => reloadChunkSend_sends, fun _ _ => reloadChunkSend_sent, fun _ _ => bulkBlockReceived_ofImage, fun _ _ _ _ => reloadVerify_equal,
   fun _ _ _ _ => reloadVerify_repeats, fun _ _ _ => imageSwitch_inService, fun _ _ _ => resyncSnapshot_taken, fun _ _ => snapshotLoad_shadows,
   fun _ _ => laneRejoin_entersService, fun _ _ _ => laneRejoin_early⟩

end Sys2Proof.Machine
end

section
/-!
SUPPORT. What the evaluation of a lane leaves alone: the parts of a lane that no step of it touches, and the mode and outputs that the mirrors
and the mode change after it keep.
-/
namespace Sys2Proof.Machine
open RegField

theorem Dev.each_fixed {α : Type} {f : Dev → α → Dev} {d : Dev} {xs : List α} (h : ∀ x ∈ xs, f d x = d) : d.each xs f = d := by
  induction xs with
  | nil => rfl
  | cons x xs ih =>
    change (f d x).each xs f = d
    rw [h x (.head _)]
    exact ih fun y hy => h y (.tail _ hy)

/-- A lane but for what an evaluation judges and decides: its safety state, its decision, its part in an arbitration, the channels missing
after a restored correction, and whether it leaves at the next tick. -/
def LaneState.apart (x : LaneState) : LaneState := { x with saf := {}, decision := 0, arb := {}, corrMiss := [], leaveAtTick := false }

/-- Of every lane nothing has changed but what an evaluation judges and decides. -/
abbrev KeepsApart (d e : Dev) : Prop := LanesKeep LaneState.apart d e

theorem KeepsApart.onSaf {a d : Dev} (h : KeepsApart a d) (l : Lane) (f : SafState → SafState) : KeepsApart a (onSaf d l f) :=
  h.onLane l _ fun _ => rfl

theorem KeepsApart.countFault {a d : Dev} (h : KeepsApart a d) (k : FaultKind) (i : Nat) (e : Ev) (again : Bool) :
    KeepsApart a (countFault d k i e again) := h.of_sameBut (countFault_sameBut ..) (by simp)

/-! The steps of the evaluation, in its order. -/

section Steps
variable (d : Dev) (l : Lane)

theorem nameSuspect_apart (m : Lane) : KeepsApart d (nameSuspect d l m) := (LanesKeep.refl _ d).onLane l _ fun _ => rfl

theorem judgeLinkFaults_apart : KeepsApart d (judgeLinkFaults d l) := by
  unfold judgeLinkFaults
  split
  · refine LanesKeep.each (fun b p => ?_) (.refl _ d)
    extract_lets fwd bwd b1 b2 y b3
    have h2 : KeepsApart b b2 := (LanesKeep.refl _ b).of_eq (by unfold b2 b1; split <;> split <;> rfl)
    split
    · split
      · exact h2
      · have h3 : KeepsApart b b3 := h2.onLane y _ fun _ => rfl
        exact (h3.wr ..).event ..
    · exact h2
  · exact .refl _ d

theorem compareDecisions_apart : KeepsApart d (compareDecisions d l) := by
  unfold compareDecisions
  extract_lets
  split
  · exact .refl _ d
  · exact .each (fun b m => nameSuspect_apart b l m) (.refl _ d)

theorem arbDemand_apart : KeepsApart d (arbDemand d l) := by
  unfold arbDemand
  extract_lets
  split
  · refine LanesKeep.of_sameBut ?_ (showVote_sameBut _) (by simp)
    exact (LanesKeep.refl _ d).onLane l _ fun _ => rfl
  · exact .refl _ d

theorem checkCorr_apart : KeepsApart d (checkCorr d l) := by
  unfold checkCorr
  refine .each (fun b ch => ?_) (.refl _ d)
  split
  · exact .refl _ b
  · extract_lets b1 b2
    have h1 : KeepsApart b b1 := (LanesKeep.refl _ b).of_eq rfl
    have h2 : KeepsApart b b2 := .each (fun e m => LanesKeep.onLane (.refl _ e) m _ fun _ => rfl) h1
    exact h2.event ..

theorem agreeRemain_apart : KeepsApart d (agreeRemain d l) := by
  unfold agreeRemain
  extract_lets
  split
  · exact .refl _ d
  · extract_lets
    split
    · exact KeepsApart.onSaf (.refl _ d) l _
    · exact .refl _ d

theorem abandonDark_apart : KeepsApart d (abandonDark d l) := by
  unfold abandonDark
  refine .each (fun b k => ?_) (.refl _ d)
  extract_lets
  split
  · split
    · exact KeepsApart.onSaf (.refl _ b) l _
    · exact .refl _ b
  · exact .refl _ b

theorem dropUnitTests_apart (u : Nat) : KeepsApart d (dropUnitTests d l u) :=
  .each (fun b _ => KeepsApart.onSaf (.refl _ b) l _) (.refl _ d)

theorem lockChannel_apart (k : Nat) : KeepsApart d (lockChannel d l k) := by
  unfold lockChannel
  extract_lets e
  have he : KeepsApart d e := KeepsApart.onSaf (.refl _ d) l _
  split
  · exact KeepsApart.onSaf (he.trans (dropUnitTests_apart ..)) l _
  · exact he

theorem testPass_apart (k : Nat) (t : ProofTest) : KeepsApart d (testPass d l k t) := by
  unfold testPass
  extract_lets c full e1 e2
  have h1 : KeepsApart d e1 := KeepsApart.onSaf (.refl _ d) l _
  have h2 : KeepsApart d e2 := KeepsApart.onSaf (.refl _ d) l _
  split
  · split
    · exact h1.of_sameBut (clearFaults_sameBut ..) (by simp)
    · exact h1
  · split
    · exact KeepsApart.onSaf h2 l _
    · exact h2

theorem settleTest_apart (k : Nat) : KeepsApart d (settleTest d l k) := by
  unfold settleTest
  extract_lets x c d1
  split
  · exact .refl _ d
  · split
    · have h1 : KeepsApart d d1 := lockChannel_apart d l k
      split
      · exact KeepsApart.countFault (LanesKeep.event (LanesKeep.wr (LanesKeep.wr h1 _ _ _) _ _ _) _ _ _ _) _ _ _ _
      · exact h1
    · split
      · exact testPass_apart ..
      · exact .refl _ d

theorem checkBrake_apart (k : Nat) : KeepsApart d (checkBrake d l k) := by
  unfold checkBrake
  extract_lets x c b y suspended onOk offOk sumOk run y' fires coil sum d1 d2 d3 d4
  split
  · exact .refl _ d
  · have h1 : KeepsApart d d1 := KeepsApart.onSaf (.refl _ d) l _
    have h2 : KeepsApart d d2 := by
      unfold d2
      split
      · exact h1.trans (lockChannel_apart ..)
      · exact h1
    have h3 : KeepsApart d d3 := by
      unfold d3
      split
      · exact KeepsApart.countFault (LanesKeep.event (LanesKeep.wr h2 _ _ _) _ _ _ _) _ _ _ _
      · exact h2
    split
    · split
      · exact KeepsApart.countFault (LanesKeep.event (.each (fun e _ => (LanesKeep.refl _ e).wr _ _ _) h3) _ _ _ _) _ _ _ _
      · exact h3
    · exact h2

theorem evalUnit_apart (u : Nat) : KeepsApart d (evalUnit d l u) := by
  unfold evalUnit
  extract_lets x c y1 y2 y3 y4 m y5 y6 y7 was d1 d2 d3 d4 d5 d6
  split
  · exact .refl _ d
  · have h2 : KeepsApart d d2 := .when (KeepsApart.onSaf (.refl _ d) l _) _ (dropUnitTests_apart ..)
    have h3 : KeepsApart d d3 := by
      unfold d3
      split
      · exact (h2.wr _ _ _).event ..
      · exact h2
    have flag (b : Dev) (f : RegField) (h : KeepsApart d b) (on : Bool) : KeepsApart d (b.when on fun b => b.flag f u) :=
      h.when _ ((LanesKeep.refl _ b).wr _ _ _)
    split
    · exact flag _ _ (flag _ _ (flag _ _ (flag _ _ h3 _) _) _) _
    · exact h2

theorem commandBrakes_apart : KeepsApart d (commandBrakes d l) := by
  unfold commandBrakes
  extract_lets
  refine .each (fun b k => ?_) (.refl _ d)
  extract_lets
  split
  · exact .refl _ b
  · exact KeepsApart.onSaf (.refl _ b) l _

theorem countPassOutliers_apart (vs : List ArmVote) : KeepsApart d (countPassOutliers d vs) :=
  .each (fun b _ => (LanesKeep.refl _ b).wr _ _ _) (.refl _ d)

theorem votePass_apart : KeepsApart d (votePass d l) := by
  unfold votePass
  extract_lets x cfg rs second first d1 d1' d2 voteOf d3 d4 arms
  have h1 : KeepsApart d d1 := KeepsApart.onSaf (.refl _ d) l _
  have h2 : KeepsApart d d2 := by
    unfold d2
    split
    · refine .each (fun b m => ?_) (h1.wr _ _ _)
      split <;> exact (LanesKeep.refl _ b).wr _ _ _
    · exact h1
  have h3 : KeepsApart d d3 := h2.when _ (countPassOutliers_apart ..)
  have h4 : KeepsApart d d4 := by
    refine .each (fun b p => ?_) h3
    extract_lets a xs v old runs e1 e2 e3 e4 src e5 e6 e7 e8 e9 e10
    have k1 : KeepsApart b e1 := KeepsApart.onSaf (.refl _ b) l _
    have k2 : KeepsApart b e2 := by
      refine .each (fun e m => ?_) k1
      split
      · exact nameSuspect_apart ..
      · exact .refl _ e
    have k3 : KeepsApart b e3 := by
      unfold e3
      split
      · split
        · split
          · exact k2.trans (nameSuspect_apart ..)
          · exact k2
        · split
          · exact .each (fun e m => nameSuspect_apart ..) k2
          · exact k2
        · exact k2
      · exact k2
    split
    · have k10 : KeepsApart b e10 :=
        (k3.when _ (((LanesKeep.refl _ e3).wr ..).event ..)).of_eq rfl
      split
      · exact k10.wr ..
      · exact k10
    · exact k3
  split
  · exact (h4.wr ..).wr ..
  · exact h4

theorem evalFunctions_apart : KeepsApart d (evalFunctions d l) := by
  unfold evalFunctions
  extract_lets d1 d2 d3 d4 d5 ks d6 d7 d8
  have h1 : KeepsApart d d1 := by
    unfold d1
    split
    · exact checkCorr_apart d l
    · exact .refl _ d
  have h2 : KeepsApart d d2 := by
    unfold d2
    split
    · exact h1.trans (votePass_apart ..)
    · exact h1
  have h4 : KeepsApart d d4 := KeepsApart.onSaf (h2.trans (agreeRemain_apart ..)) l _
  have h6 : KeepsApart d d6 :=
    .each (fun b k => (settleTest_apart b l k).trans (checkBrake_apart ..)) (h4.trans (abandonDark_apart ..))
  have h8 : KeepsApart d d8 := (LanesKeep.each (fun b u => evalUnit_apart b l u) h6).trans (commandBrakes_apart ..)
  exact h8.onLane l _ fun _ => rfl

end Steps
end Sys2Proof.Machine
end

section
/-!
The evaluation of a lane acts through the lane's own outputs, and an evaluation that is not complete is an overrun (R42, R43, R93, R119).
-/
namespace Sys2Proof.Machine
open RegField

theorem exec_laneEvaluation (l : Lane) (s : State) : exec (.laneEvaluation l) s = execLaneEvaluation l s := rfl
theorem exec_evaluationWindowEnd (l : Lane) (s : State) : exec (.evaluationWindowEnd l) s = execEvaluationWindowEnd l s := rfl

/-! The mirrors and the mode after an evaluation. -/

theorem SameBut.inHold_eq {a d : Dev} {fs : List RegField} {es : List (RegField × Nat)} {ps : List Part} (h : SameBut a d fs es ps)
    (hf : SYS_MODE_MODE ∉ fs) (he : (SYS_MODE_MODE, 0) ∉ es) : inHold d = inHold a := by
  unfold inHold; rw [h.mode_eq hf he]

theorem SameBut.inService_eq {a d : Dev} {fs : List RegField} {es : List (RegField × Nat)} {ps : List Part} (h : SameBut a d fs es ps)
    (l : Lane) (hf : LN_STATUS_STATE ∉ fs) (he : (LN_STATUS_STATE, l.idx) ∉ es) : inService d l = inService a l := by
  unfold inService; rw [h.rd_eq _ _ hf he]

/-- The registers that mirror the safety functions. -/
@[simp] def mirrorFields : List RegField :=
  [SAF_SI_STAT_CH1, SAF_SI_STAT_CH2, SAF_SI_STAT_ACTIVE, SAF_SI_STAT_MIXED, SAF_SI_STAT_DISC, SAF_SI_STAT_FUNC, SAF_SAFE_OK_DISC_ANY,
   SAF_UNIT_STAT_FUNC, SAF_UNIT_STAT_TORQUE, SAF_UNIT_STAT_BRAKE_REL, SAF_UNIT_STAT_SLS_SET, SAF_UNIT_STAT_ACK_PEND,
   SAF_UNIT_STAT_STANDSTILL, SAF_UNIT_STAT_DISABLED, SAF_UNIT_STAT_CAUSE, SAF_BRK_STAT_RELEASED, SAF_BRK_STAT_LOCKED,
   SAF_BRK_STAT_PT_DUE, SAF_BRK_STAT_PENDING, SAF_BRK_STAT_I_MEAN, SAF_PT_AGE_LIGHT_MIN, SAF_PT_AGE_DARK_MIN, SAF_DEG_STATUS_ACTIVE,
   SAF_DEG_STATUS_TIGHTENED, SAF_DEG_STATUS_SUPPLY_WARN, SAF_DEG_REMAIN_MS, SAF_DEG_HEALTHY_MS]

theorem showInput_sameBut (d : Dev) (l : Lane) (i : Nat) : SameBut d (showInput d l i) mirrorFields [] [] := by
  unfold showInput
  split
  · exact .refl _ _ _ _
  · exact ((((((SameBut.refl d _ _ _).wr _ _ _ (by simp)).wr _ _ _ (by simp)).wr _ _ _ (by simp)).wr _ _ _ (by simp)).wr _ _ _ (by simp)).wr
      _ _ _ (by simp)

theorem showUnit_sameBut (d : Dev) (l : Lane) (u : Nat) : SameBut d (showUnit d l u) mirrorFields [] [] :=
  ((((((((SameBut.refl d _ _ _).wr _ _ _ (by simp)).wr _ _ _ (by simp)).wr _ _ _ (by simp)).wr _ _ _ (by simp)).wr _ _ _ (by simp)).wr
    _ _ _ (by simp)).wr _ _ _ (by simp)).wr _ _ _ (by simp)

theorem showBrake_sameBut (d : Dev) (l : Lane) (k : Nat) : SameBut d (showBrake d l k) mirrorFields [] [] :=
  (((((((SameBut.refl d _ _ _).wr _ _ _ (by simp)).wr _ _ _ (by simp)).wr _ _ _ (by simp)).wr _ _ _ (by simp)).wr _ _ _ (by simp)).wr
    _ _ _ (by simp)).wr _ _ _ (by simp)

theorem showDegraded_sameBut (d : Dev) : SameBut d (showDegraded d) mirrorFields [] [] :=
  (((((SameBut.refl d _ _ _).wr _ _ _ (by simp)).wr _ _ _ (by simp)).wr _ _ _ (by simp)).wr _ _ _ (by simp)).wr _ _ _ (by simp)

theorem showSafety_sameBut (d : Dev) : SameBut d (showSafety d) mirrorFields [] [] := by
  have h1 : SameBut d (d.each (List.range 24) fun e i => showInput e d.firstLane i) mirrorFields [] [] :=
    .each (fun _ _ _ => showInput_sameBut ..) (.refl _ _ _ _)
  exact (SameBut.each (fun _ _ _ => showBrake_sameBut ..) (.each (fun _ _ _ => showUnit_sameBut ..) (h1.wr _ _ _ (by simp)))).trans
    (showDegraded_sameBut _)

/-- The outputs of a lane, whether its evaluation is complete, and what its gate lines follow of its own state. -/
def LaneState.drive (x : LaneState) : Bool × Nat × Bool × Bool × Bool × SMap BrakeDyn :=
  (x.evaluated, x.gates, x.safeOk, x.latch, x.saf.deen, x.saf.brakes)

theorem LaneState.drive_eq {x y : LaneState} (h : x.drive = y.drive) : x.evaluated = y.evaluated ∧ x.gates = y.gates ∧ x.safeOk = y.safeOk ∧
    x.latch = y.latch ∧ x.saf.deen = y.saf.deen ∧ x.saf.brakes = y.saf.brakes := by
  simpa [drive] using h

theorem withdrawEnables_drive (d : Dev) : LanesKeep LaneState.drive d (withdrawEnables d) := by
  unfold withdrawEnables onSaf
  exact .each (fun b l => LanesKeep.onLane (.refl _ b) l _ fun x => by simp only [LaneState.drive]) (.refl _ d)

/-- A change of mode that an evaluation brings leads neither to Hold nor out of it, and drives no output. -/
theorem stepMode_keeps (d : Dev) : inHold (stepMode d) = inHold d ∧ (inHold d = true → (stepMode d).mode = d.mode) ∧
    (∀ l, inService (stepMode d) l = inService d l) ∧ LanesKeep LaneState.drive d (stepMode d) := by
  unfold stepMode
  extract_lets x e
  have he : SameBut d e faultFields [] [.fault] := by
    unfold e
    split
    · exact clearFaults_sameBut ..
    · exact .refl _ _ _ _
  have hl : LanesKeep LaneState.drive d e := (LanesKeep.refl _ d).of_sameBut he (by simp)
  have hh : inHold e = inHold d := he.inHold_eq (by simp) (by simp)
  have hs (l : Lane) : inService e l = inService d l := he.inService_eq l (by simp) (by simp)
  have stays : inHold e = inHold d ∧ (inHold d = true → e.mode = d.mode) ∧ (∀ l, inService e l = inService d l) ∧
      LanesKeep LaneState.drive d e := ⟨hh, fun _ => he.mode_eq (by simp) (by simp), hs, hl⟩
  split
  · exact stays
  · exact stays
  · exact stays
  · next hb hn hss =>
    have hnot : inHold d = false := by rw [← hh]; simpa [inHold] using hn
    have moves (m : Mode) (hm : m ≠ .hold) : inHold (e.setMode m) = inHold d ∧ (inHold d = true → (e.setMode m).mode = d.mode) ∧
        (∀ l, inService (e.setMode m) l = inService d l) ∧ LanesKeep LaneState.drive d (e.setMode m) :=
      ⟨by rw [hnot, inHold, Dev.mode_setMode]; exact decide_eq_false hm, by simp [hnot],
        fun l => by rw [← hs l]; simp [inService], hl.of_eq rfl⟩
    split
    · obtain ⟨m1, m2, m3, m4⟩ := moves .safeState (by simp)
      have hw := withdrawEnables_sameBut (e.setMode .safeState)
      exact ⟨(hw.inHold_eq (by simp) (by simp)).trans m1, by simp [hnot], fun l => (hw.inService_eq l (by simp) (by simp)).trans (m3 l),
        m4.trans (withdrawEnables_drive _)⟩
    · split
      · exact moves .standstill (by simp)
      · exact stays

/-- The end of an evaluation: the first lane in service shows the safety functions, and the mode follows. -/
def showEvaluation (d : Dev) (l : Lane) : Dev := if l = d.firstLane then stepMode (showSafety d) else d

theorem showEvaluation_keeps (d : Dev) (l : Lane) : inHold (showEvaluation d l) = inHold d ∧
    (inHold d = true → (showEvaluation d l).mode = d.mode) ∧ inService (showEvaluation d l) l = inService d l ∧
    (laneOf (showEvaluation d l) l).drive = (laneOf d l).drive := by
  unfold showEvaluation
  split
  · have hm := showSafety_sameBut d
    obtain ⟨h1, h2, h3, h4⟩ := stepMode_keeps (showSafety d)
    have hh := hm.inHold_eq (by simp) (by simp)
    exact ⟨h1.trans hh, fun h => (h2 (hh.trans h)).trans (hm.mode_eq (by simp) (by simp)), (h3 l).trans (hm.inService_eq l (by simp) (by simp)),
      (h4.keep l).trans (by rw [hm.laneOf_eq (by simp)])⟩
  · exact ⟨rfl, fun _ => rfl, rfl, rfl⟩

/-! The evaluation of a lane in service. -/

/-- The device when the evaluation of lane `l` begins. -/
def begunEvaluation (d : Dev) (l : Lane) : Dev := onLane (d.reach 4000) l fun x => { x with evaluated := true }

theorem begunEvaluation_sameBut (d : Dev) (l : Lane) : SameBut d (begunEvaluation d l) [] [] [.lanes, .tb] :=
  ((SameBut.refl d _ _ _).reach _ (by simp)).onLane l _ (by simp)

theorem begunEvaluation_laneOf (d : Dev) (l k : Lane) :
    laneOf (begunEvaluation d l) k = if k = l then { laneOf d l with evaluated := true } else laneOf d k := by
  simp [begunEvaluation]

/-- A lane in service is judge of every other, so none is declared silent whose silence it has not counted twice (R87). -/
theorem judgeSilence_quiet {d : Dev} {l : Lane} (hs : inService d l = true) (hq : ∀ m, (laneOf d l).silentRun.get m < 2) :
    judgeSilence d l = d := by
  refine Dev.each_fixed fun m hm => if_neg fun hall => ?_
  have hne : l ≠ m := by
    rintro rfl
    have := (List.mem_filter.1 hm).1
    cases l <;> simp [Lane.others] at this
  have hl : l ∈ (serviceLanes d).filter fun j => decide (j ≠ m) :=
    List.mem_filter.2 ⟨List.mem_filter.2 ⟨by cases l <;> simp [Lane.all], hs⟩, by simpa using hne⟩
  have := of_decide_eq_true (List.all_eq_true.1 hall l hl)
  exact absurd this (Nat.not_le.2 (hq m))

theorem judgeLinkFaults_sameBut (d : Dev) (l : Lane) :
    SameBut d (judgeLinkFaults d l) ([SAF_LINK_LINK_FAULT, SAF_LANE_OUT_LINK_OUT] ++ recordFields) [] [.lanes, .log] := by
  unfold judgeLinkFaults
  split
  · refine .each (fun b p _ => ?_) (.refl _ _ _ _)
    extract_lets fwd bwd b1 b2 y b3
    have h1 : SameBut b b1 ([SAF_LINK_LINK_FAULT, SAF_LANE_OUT_LINK_OUT] ++ recordFields) [] [.lanes, .log] := by
      unfold b1
      split
      · exact (SameBut.refl b _ _ _).wr _ _ _ (by simp)
      · exact .refl _ _ _ _
    have h2 : SameBut b b2 ([SAF_LINK_LINK_FAULT, SAF_LANE_OUT_LINK_OUT] ++ recordFields) [] [.lanes, .log] := by
      unfold b2
      split
      · exact h1.wr _ _ _ (by simp)
      · exact h1
    have h3 : SameBut b b3 ([SAF_LINK_LINK_FAULT, SAF_LANE_OUT_LINK_OUT] ++ recordFields) [] [.lanes, .log] := h2.onLane y _ (by simp)
    split
    · split
      · exact h2
      · exact (h3.wr _ _ _ (by simp)).eventIn _ _ _ _ (by simp) (by simp)
    · exact h2
  · exact .refl _ _ _ _

theorem compareDecisions_sameBut (d : Dev) (l : Lane) : SameBut d (compareDecisions d l) [] [] [.lanes] := by
  unfold compareDecisions
  extract_lets
  split
  · exact .refl _ _ _ _
  · exact .each (fun b m _ => (SameBut.refl b _ _ _).onLane l _ (by simp)) (.refl _ _ _ _)

/-- What lane `l` judges and computes in an evaluation outside Hold. -/
def judgedEvaluation (d : Dev) (l : Lane) : Dev := evalFunctions (arbDemand (compareDecisions (judgeLinkFaults d l) l) l) l

theorem judgedEvaluation_apart (d : Dev) (l : Lane) : KeepsApart d (judgedEvaluation d l) :=
  (((judgeLinkFaults_apart d l).trans (compareDecisions_apart ..)).trans (arbDemand_apart ..)).trans (evalFunctions_apart ..)

section InService
variable {d : Dev} {l : Lane} (hm : laneMode d l = .inService) (hl : (laneOf d l).latch = false)
  (hq : ∀ m, (laneOf d l).silentRun.get m < 2)
include hm hl hq

/-- The evaluation of a lane in service that finds no lane silent, in Hold. -/
theorem evaluateLane_inHold (hh : inHold d = true) : evaluateLane d l = showEvaluation (laneOutputs (begunEvaluation d l) l) l := by
  have hb := begunEvaluation_sameBut d l
  have hs : inService (begunEvaluation d l) l = true := (hb.inService_eq l (by simp) (by simp)).trans (inService_iff.2 hm)
  have hh' : inHold (begunEvaluation d l) = true := (hb.inHold_eq (by simp) (by simp)).trans hh
  have hquiet := judgeSilence_quiet hs (by simpa [begunEvaluation_laneOf] using hq)
  unfold evaluateLane
  rw [begunEvaluation] at hs hh' hquiet
  simp only [hm, hl, hquiet, hs, hh', Bool.false_eq_true, Bool.not_true, if_false, if_true]
  rfl

/-- The evaluation of a lane in service that finds no lane silent, outside Hold. -/
theorem evaluateLane_outsideHold (hh : inHold d = false) :
    evaluateLane d l = showEvaluation (laneOutputs (judgedEvaluation (begunEvaluation d l) l) l) l := by
  have hb := begunEvaluation_sameBut d l
  have hs : inService (begunEvaluation d l) l = true := (hb.inService_eq l (by simp) (by simp)).trans (inService_iff.2 hm)
  have hh' : inHold (begunEvaluation d l) = false := (hb.inHold_eq (by simp) (by simp)).trans hh
  have hquiet := judgeSilence_quiet hs (by simpa [begunEvaluation_laneOf] using hq)
  have hj := (judgeLinkFaults_sameBut (begunEvaluation d l) l).next (compareDecisions_sameBut _ l) (by simp) (by simp) (by simp)
  have hs2 := (hj.inService_eq l (by simp) (by simp)).trans hs
  have hh2 := (hj.inHold_eq (by simp) (by simp)).trans hh'
  unfold evaluateLane
  rw [begunEvaluation] at hh' hquiet hs2 hh2
  simp only [hm, hl, hquiet, hs2, hh2, hh', Bool.false_eq_true, Bool.not_true, if_false]
  rfl

end InService

/-- The outputs of lane `l` after `laneOutputs`, whatever the mirrors and the mode do afterwards. -/
theorem showEvaluation_laneOutputs (d : Dev) (l : Lane) :
    (laneOf (showEvaluation (laneOutputs d l) l) l).evaluated = (laneOf d l).evaluated ∧
      (laneOf (showEvaluation (laneOutputs d l) l) l).gates = gateMask d l ∧
      (laneOf (showEvaluation (laneOutputs d l) l) l).safeOk = safeOkWanted d l ∧
      gateMask (showEvaluation (laneOutputs d l) l) l = gateMask d l ∧
      (inHold d = true → (showEvaluation (laneOutputs d l) l).mode = d.mode) := by
  have ho : SameBut d (laneOutputs d l) [SAF_BRK_STAT_GATE, SAF_SAFE_OK_LEVEL] [] [.lanes] :=
    ((setGates_sameBut ..).mono (by simp) (by simp) (by simp)).next (setSafeOk_sameBut ..) (by simp) (by simp) (by simp)
  have hlane : laneOf (laneOutputs d l) l = { laneOf d l with gates := gateMask d l, safeOk := safeOkWanted d l } := by
    simp [laneOutputs]
  have hh := ho.inHold_eq (by simp) (by simp)
  obtain ⟨kHold, kMode, kService, kDrive⟩ := showEvaluation_keeps (laneOutputs d l) l
  obtain ⟨hev, hg, hok, hlatch, hdeen, hbrakes⟩ := LaneState.drive_eq kDrive
  refine ⟨by rw [hev, hlane], by rw [hg, hlane], by rw [hok, hlane], ?_, fun h => (kMode (hh.trans h)).trans (ho.mode_eq (by simp) (by simp))⟩
  unfold gateMask brakeDyn
  simp only [hlatch, hdeen, hbrakes, kHold, kService, hh, ho.inService_eq l (by simp) (by simp), hlane]

section Evaluation
variable {s : State} {l : Lane}

theorem gateMask_inHold {d : Dev} (h : inHold d = true) (l : Lane) : gateMask d l = 0 := by
  simp [gateMask, h]

/-- SAFE_OK of a lane whose latch is clear, in service in Hold (R43). -/
theorem safeOkWanted_inHold {d : Dev} (h : d.mode = .hold) (hs : inService d l = true) (hl : (laneOf d l).latch = false) :
    safeOkWanted d l = ((laneOf d l).selftested && !anyDisc d l) := by
  simp [safeOkWanted, h, hs, hl]

section InService
variable (ht : s.dev.tb.ticking = true) (hm : laneMode s.dev l = .inService) (hl : (laneOf s.dev l).latch = false)
  (he : (laneOf s.dev l).evaluated = false) (ho : s.dev.offset < evaluationEnd s.dev)
  (hq : ∀ j m : Lane, (laneOf s.dev j).silentRun.get m < 2)
include ht hm hl he ho hq

theorem laneEvaluation_inHold (hh : s.dev.mode = .hold) :
    Answers (.laneEvaluation l) s fun e => (laneOf e l).evaluated = true ∧ (laneOf e l).gates = 0 ∧
      (laneOf e l).safeOk = ((laneOf s.dev l).selftested && !anyDisc s.dev l) ∧ e.mode = .hold := by
  have hb := begunEvaluation_sameBut s.dev.cleared l
  have hlane := begunEvaluation_laneOf s.dev.cleared l l
  have hmode : (begunEvaluation s.dev.cleared l).mode = .hold := (hb.mode_eq (by simp) (by simp)).trans hh
  have hhold : inHold (begunEvaluation s.dev.cleared l) = true := by simp [inHold, hmode]
  obtain ⟨hev, hg, hok, -, hstay⟩ := showEvaluation_laneOutputs (begunEvaluation s.dev.cleared l) l
  refine .of_result (exec_laneEvaluation l s) ((if_pos ⟨ht, by simp [he], ho⟩).trans
    (evaluateLane_inHold hm hl (hq l) (by simp [inHold, hh]))) ⟨?_, ?_, ?_, (hstay hhold).trans hmode⟩
  · simp [hev, hlane]
  · rw [hg, gateMask_inHold hhold]
  · rw [hok, safeOkWanted_inHold hmode ((hb.inService_eq l (by simp) (by simp)).trans (inService_iff.2 hm)) (by simpa [hlane] using hl)]
    simp [anyDisc, hlane]

theorem laneEvaluation_outsideHold (hh : s.dev.mode ≠ .hold) :
    Answers (.laneEvaluation l) s fun e => (laneOf e l).evaluated = true ∧ (laneOf e l).gates = gateMask e l := by
  obtain ⟨hev, hg, -, hmask, -⟩ := showEvaluation_laneOutputs (judgedEvaluation (begunEvaluation s.dev.cleared l) l) l
  have hkeep := congrArg LaneState.evaluated ((judgedEvaluation_apart (begunEvaluation s.dev.cleared l) l).keep l)
  refine .of_result (exec_laneEvaluation l s) ((if_pos ⟨ht, by simp [he], ho⟩).trans
    (evaluateLane_outsideHold hm hl (hq l) (by simp [inHold, hh]))) ⟨?_, hg.trans hmask.symm⟩
  rw [hev]
  refine hkeep.trans ?_
  simp [LaneState.apart, begunEvaluation_laneOf]

end InService

theorem laneEvaluation_latched (hm : laneMode s.dev l = .inService ∨ laneMode s.dev l = .shadow) (hl : (laneOf s.dev l).latch = true) :
    Completes (.laneEvaluation l) s [] [] fun e => e.out = [] := by
  have hstay : evaluateLane s.dev.cleared l = s.dev.cleared := by
    obtain hm | hm := hm <;> simp [evaluateLane, hm, hl]
  exact .of_unchanged (exec_laneEvaluation l s) ((congrArg (ite _ · _) hstay).trans (ite_self _))

theorem laneEvaluation_withoutEvaluation (hm : laneMode s.dev l = .absent ∨ laneMode s.dev l = .boot ∨ laneMode s.dev l = .selftest ∨
      laneMode s.dev l = .reload ∨ laneMode s.dev l = .debug ∨
      (laneMode s.dev l = .resync ∧ (evaluates s.dev l = false ∨ s.dev.mode = .hold))) :
    Completes (.laneEvaluation l) s [] [] fun e => e.out = [] := by
  have hstay : evaluateLane s.dev.cleared l = s.dev.cleared := by
    obtain hm | hm | hm | hm | hm | ⟨hm, hev | hh⟩ := hm
    · simp [evaluateLane, hm]
    · simp [evaluateLane, hm]
    · simp [evaluateLane, hm]
    · simp [evaluateLane, hm]
    · simp [evaluateLane, hm]
    · have hev' : evaluates s.dev.cleared l = false := hev
      simp [evaluateLane, hm, hev']
    · simp [evaluateLane, hm, inHold, hh]
  exact .of_unchanged (exec_laneEvaluation l s) ((congrArg (ite _ · _) hstay).trans (ite_self _))

theorem laneEvaluation_overOrPast (h : (laneOf s.dev l).evaluated = true ∨ evaluationEnd s.dev ≤ s.dev.offset) :
    Completes (.laneEvaluation l) s [] [] fun e => e.out = [] := by
  refine .of_unchanged (exec_laneEvaluation l s) (if_neg fun ⟨_, hev, ho⟩ => ?_)
  obtain h | h := h
  · simp [h] at hev
  · exact absurd ho (Int.not_lt.2 h)

theorem laneEvaluation_rejoins (ht : s.dev.tb.ticking = true) (hm : laneMode s.dev l = .faulted) (hr : rejoinReady s.dev l = true)
    (he : (laneOf s.dev l).evaluated = false) (ho : s.dev.offset < evaluationEnd s.dev) :
    Answers (.laneEvaluation l) s fun e => laneMode e l = .resync ∧ (laneOf e l).needImage = true := by
  have hr' : rejoinReady s.dev.cleared l = true := hr
  have hgo : evaluateLane s.dev.cleared l = enterResync s.dev.cleared l true := by simp [evaluateLane, hm, hr']
  exact .of_result (exec_laneEvaluation l s) ((if_pos ⟨ht, by simp [he], ho⟩).trans hgo)
    ⟨laneMode_enterResync .., enterResync_needImage ..⟩

/-! The end of the evaluation window (R119). -/

theorem evaluationWindowEnd_complete (ht : s.dev.tb.ticking = true) (hv : evaluates s.dev l = true)
    (he : (laneOf s.dev l).evaluated = true) :
    Completes (.evaluationWindowEnd l) s [] [.lanes, .tb] fun e => (laneOf e l).overrun = false ∧ (laneOf e l).overrunRun = 0 :=
  .of_result (exec_evaluationWindowEnd l s) ((if_pos ⟨ht, hv⟩).trans (if_pos he))
    (((SameBut.refl _ _ _ _).reach _ (by simp)).onLane l _ (by simp)) (by simp)

/-- The device at the end of the window when the evaluation of lane `l` is not complete, before the event is written. -/
def overrunLane (d : Dev) (l : Lane) : Dev :=
  (onLane (d.reach (evaluationEnd d)) l fun x => { x with overrun := true, overrunRun := min 2 (x.overrunRun + 1) }).wrBit SAF_LANE_OUT_OVERRUN
    0 l.idx true

theorem evaluationWindowEnd_overrun (ht : s.dev.tb.ticking = true) (hv : evaluates s.dev l = true)
    (he : (laneOf s.dev l).evaluated = false) (hu : s.dev.rd PWR_STATUS_SHARED_UP ≠ 0) :
    Completes (.evaluationWindowEnd l) s ([(SAF_LANE_OUT_OVERRUN, 0)] ++ recordRegs (srcLane l)) [.lanes, .tb, .log] fun e =>
      (laneOf e l).overrun = true ∧ (laneOf e l).overrunRun = min 2 ((laneOf s.dev l).overrunRun + 1) ∧
        e.logged .LANE_OVERRUN (srcLane l) := by
  have hrun : SameBut s.dev.cleared (overrunLane s.dev.cleared l) [] ([(SAF_LANE_OUT_OVERRUN, 0)] ++ recordRegs (srcLane l)) [.lanes, .tb, .log] :=
    (((SameBut.refl _ _ _ _).reach _ (by simp)).onLane l _ (by simp)).wr _ _ _ (by simp)
  refine .of_result (e := (overrunLane s.dev.cleared l).event .LANE_OVERRUN (srcLane l)) (exec_evaluationWindowEnd l s)
    ((if_pos ⟨ht, hv⟩).trans (if_neg (by simp [he])))
    (hrun.event _ _ _ _ (fun y hy => .inl (List.mem_append_right _ hy)) (by simp))
    ⟨by simp [overrunLane], by simp [overrunLane], Dev.record_logged _ _ _ _ _ ?_ (by decide) (by decide)⟩
  simpa [overrunLane] using hu

theorem evaluationWindowEnd_withoutEvaluation (hv : evaluates s.dev l = false) :
    Completes (.evaluationWindowEnd l) s [] [] fun e => e.out = [] :=
  .of_unchanged (exec_evaluationWindowEnd l s) (if_neg fun hc => absurd (hc.2.symm.trans hv) (by decide))

end Evaluation

/-- Settles O12: each clause is the lemma above about the evaluation, or about the end of its window, that it names. -/
theorem laneEvaluationDrivesOutputs : Obligations.LaneEvaluationDrivesOutputs :=
  ⟨fun _ _ ht hm hl hh he ho hq => laneEvaluation_inHold ht hm hl he ho hq hh, fun _ _ => laneEvaluation_latched,
   fun _ _ => laneEvaluation_withoutEvaluation, fun _ _ => laneEvaluation_overOrPast,
   fun _ _ ht hm hl hh he ho hq => laneEvaluation_outsideHold ht hm hl he ho hq hh, fun _ _ => laneEvaluation_rejoins,
   fun _ _ => evaluationWindowEnd_complete, fun _ _ => evaluationWindowEnd_overrun, fun _ _ => evaluationWindowEnd_withoutEvaluation⟩

end Sys2Proof.Machine
end

section
/-!
SUPPORT. What the reading of a returned copy and the judgement of its cycle may change: the nodes of the rings, the motion feedback, the
registers that show both, and the log.
-/
namespace Sys2Proof.Machine
open RegField

/-- The registers that show the nodes of a ring and what its cycle measures. -/
@[simp] def cycleFields : List RegField :=
  [ENT_NODE_STATE, ENT_NODE_READMITS, ENT_NODE_SYNC_ERR, ENT_NODE_GUARD_CNT, ENT_NODE_POS, ENT_NODE_MASTER_CAP, ENT_NODE_CLAIMED,
   ENT_GUARD_REMOVALS, ENT_GUARD_ADMITTED, ENT_TRING_NS, ENT_BUDGET_B_MAX, ENT_STAT_BREAK_OK] ++ recordFields

/-- A ring but for its nodes and whether its cycle has been judged. -/
def RingState.apart (r : RingState) : RingState := { r with nodes := [], evaluated := false }

/-- Nothing has changed but what a returned cycle tells about nodes and motion. -/
structure TellsNodes (d e : Dev) : Prop where
  frame : SameBut d e cycleFields [] [.rings, .motion, .log]
  rings : RingsKeep RingState.apart d e

section TellsNodes
variable {a d e : Dev}

theorem TellsNodes.refl (d : Dev) : TellsNodes d d := ⟨.refl _ _ _ _, .refl _ _⟩

theorem TellsNodes.trans (h : TellsNodes a d) (k : TellsNodes d e) : TellsNodes a e := ⟨h.frame.trans k.frame, h.rings.trans k.rings⟩

theorem TellsNodes.wr (h : TellsNodes a d) (f : RegField) (i v : Nat) (hf : f ∈ cycleFields) : TellsNodes a (d.wr f i v) :=
  ⟨h.frame.wr f i v (.inr hf), h.rings.of_eq rfl⟩

theorem TellsNodes.event (h : TellsNodes a d) (x : Ev) (s i n : Nat) : TellsNodes a (d.event x s i n) :=
  ⟨h.frame.eventIn x s i n (by simp) (by simp), h.rings.of_eq (by simp)⟩

theorem TellsNodes.motion (h : TellsNodes a d) (x : MotionState) : TellsNodes a { d with motion := x } :=
  ⟨h.frame.motion x (by simp), h.rings.of_eq rfl⟩

theorem TellsNodes.onNode (h : TellsNodes a d) (l : Lane) (e : Nat) (f : NodeDyn → NodeDyn) : TellsNodes a (onNode d l e f) :=
  ⟨h.frame.onRing l _ (by simp), h.rings.onRing l _ fun _ => rfl⟩

theorem TellsNodes.each {α : Type} {f : Dev → α → Dev} {xs : List α} (hf : ∀ b x, TellsNodes b (f b x)) (h : TellsNodes a d) :
    TellsNodes a (d.each xs f) := by
  induction xs generalizing d with
  | nil => exact h
  | cons x xs ih => exact ih (h.trans (hf d x))

theorem TellsNodes.when (h : TellsNodes a d) (c : Bool) {f : Dev → Dev} (hf : TellsNodes d (f d)) : TellsNodes a (d.when c f) := by
  cases c
  · exact h
  · exact h.trans hf

theorem TellsNodes.ite (c : Prop) [Decidable c] (h : TellsNodes a d) (k : TellsNodes a e) : TellsNodes a (if c then d else e) := by
  split
  · exact h
  · exact k

end TellsNodes

section Judge
variable (d : Dev) (l : Lane) (e : Nat)

theorem setNodeState_tells {a d : Dev} (h : TellsNodes a d) (l : Lane) (e s : Nat) : TellsNodes a (setNodeState d l e s) := h.wr _ _ _ (by simp)

/-! The reading of a copy. -/

theorem takeCount_tells (j low : Nat) (start : Option Int) : TellsNodes d (takeCount d j low start) := by
  unfold takeCount
  split
  · exact .refl d
  · exact (TellsNodes.refl d).motion _

theorem takeFeedback_tells (vals : List Nat) : TellsNodes d (takeFeedback d l e vals) := by
  unfold takeFeedback
  extract_lets st n counts d1 base
  have h1 : TellsNodes d d1 := (TellsNodes.refl d).onNode ..
  refine .ite _ ((TellsNodes.refl d).onNode ..) (.ite _ (.each (fun b p => takeCount_tells ..) h1) (.refl d))

theorem takeSafety_tells (frame : Nat) (dir : Bool) (data : List Byte) : TellsNodes d (takeSafety d l e frame dir data) := by
  unfold takeSafety
  extract_lets x flag payload sealRx ok claims d1 c
  have h1 : TellsNodes d d1 := .ite _ ((TellsNodes.refl d).onNode ..) (.refl d)
  exact .ite _ (.ite _ (h1.onNode ..) (.ite _ (h1.onNode ..) h1)) (.ite _ (h1.onNode ..) h1)

theorem takeWindow_tells (frame : Nat) (dir : Bool) (bs : List Block) : TellsNodes d (takeWindow d l frame dir bs e) := by
  unfold takeWindow
  extract_lets x iRep ctrl rep saf fb removed v d01 d1 _ d2 d3
  have h1 : TellsNodes d d1 := (TellsNodes.refl d).onNode ..
  have h2 : TellsNodes d d2 := .ite _ (.ite _ (h1.motion _) h1) (.refl d)
  have h3 : TellsNodes d d3 := .ite _ (h2.trans (takeSafety_tells ..)) h2
  exact .ite _ (h3.trans (takeFeedback_tells ..)) h3

/-! The judgement of a cycle. -/

theorem admitNode_tells : TellsNodes d (admitNode d l e) := by
  unfold admitNode
  extract_lets n s joints _ d1 d2 d3 d4 _ d5
  have h1 : TellsNodes d d1 := .ite _ (.refl d) ((TellsNodes.refl d).motion _)
  have h2 : TellsNodes d d2 := setNodeState_tells h1 ..
  have h3 : TellsNodes d d3 := .ite _ (h2.wr _ _ _ (by simp)) h2
  have h4 : TellsNodes d d4 := h3.onNode ..
  have h5 : TellsNodes d d5 := h4.motion _
  exact h5.event ..

theorem countAdmitted_tells : TellsNodes d (countAdmitted d l) := (TellsNodes.refl d).wr _ _ _ (by simp)

theorem mismatch_tells : TellsNodes d (mismatch d l e) := (setNodeState_tells (.refl d) ..).event ..

theorem judgeOutside_tells (inG ready : Bool) : TellsNodes d (judgeOutside d l e inG ready) := by
  unfold judgeOutside
  extract_lets run d1
  have h1 : TellsNodes d d1 := (TellsNodes.refl d).onNode ..
  exact .ite _ (h1.trans (admitNode_tells ..)) h1

theorem guardFailed_tells : TellsNodes d (guardFailed d l e) := by
  unfold guardFailed
  extract_lets first d1
  have h1 : TellsNodes d d1 := setNodeState_tells ((TellsNodes.refl d).onNode ..) ..
  exact h1.when _ ((TellsNodes.refl _).event ..)

theorem removeNode_tells : TellsNodes d (removeNode d l e) := by
  unfold removeNode
  extract_lets d1
  have h1 : TellsNodes d d1 := setNodeState_tells ((TellsNodes.refl d).onNode ..) ..
  exact (h1.wr _ _ _ (by simp)).event ..

theorem judgeInside_tells (err : Int) (inG : Bool) : TellsNodes d (judgeInside d l e err inG) := by
  unfold judgeInside
  exact .ite _ (.when (guardFailed_tells ..) _ (removeNode_tells ..))
    (.ite _ ((setNodeState_tells ((TellsNodes.refl d).onNode ..) ..).wr _ _ _ (by simp)) (.refl d))

theorem judgeSync_tells (err : Int) (ready : Bool) : TellsNodes d (judgeSync d l e err ready) := by
  unfold judgeSync
  extract_lets inG d1 d2
  have h1 : TellsNodes d d1 := (TellsNodes.refl d).wr _ _ _ (by simp)
  have h2 : TellsNodes d d2 := .ite _ h1 (h1.wr _ _ _ (by simp))
  split
  · exact h2.trans (judgeOutside_tells ..)
  · exact h2.trans (judgeOutside_tells ..)
  · exact h2.trans (judgeInside_tells ..)
  · exact h2.trans (judgeInside_tells ..)
  · exact h2

theorem notMeasured_tells : TellsNodes d (notMeasured d l e) := (TellsNodes.refl d).onNode ..

theorem evalNode_tells (t : Nat) : TellsNodes d (evalNode d l t e) := by
  unfold evalNode
  extract_lets n v?
  split
  · next v ident _ _ =>
    extract_lets raw port1 d01 ds err ab d1 st d2 w late
    have h1 : TellsNodes d d1 := (TellsNodes.refl d).onNode ..
    have h2 : TellsNodes d d2 := .ite _ (setNodeState_tells h1 ..) h1
    refine .ite _ (h2.trans (mismatch_tells ..)) ?_
    clear_value err
    cases err with
    | some x => exact h2.trans (judgeSync_tells ..)
    | none => exact h2.trans (notMeasured_tells ..)
  · exact ((TellsNodes.refl d).onNode ..).trans (notMeasured_tells ..)

theorem judgeClaim_tells : TellsNodes d (judgeClaim d l e) := by
  unfold judgeClaim
  extract_lets x n refuse
  have hr : TellsNodes d refuse := (TellsNodes.refl d).event ..
  refine .ite _ (.refl d) ?_
  split
  · exact hr
  · next c0 c1 _ _ _ =>
    extract_lets i d1 d2
    have h1 : TellsNodes d d1 := by
      unfold d1
      split
      · exact ((TellsNodes.refl d).wr _ _ _ (by simp)).wr _ _ _ (by simp)
      · exact .refl d
    have h2 : TellsNodes d d2 := h1.onNode ..
    exact .ite _ hr (.ite _ (mismatch_tells ..) ((setNodeState_tells (h2.wr _ _ _ (by simp)) ..).event ..))
  · exact .refl d

theorem setRingTime_tells (t : Nat) : TellsNodes d (setRingTime d l t) :=
  (((TellsNodes.refl d).wr _ _ _ (by simp)).wr _ _ _ (by simp)).wr _ _ _ (by simp)

theorem closeCycle_tells : TellsNodes d (closeCycle d l) := by
  unfold closeCycle
  extract_lets d1 t
  have h1 : TellsNodes d d1 := ⟨(SameBut.refl d _ _ _).onRing l _ (by simp), (RingsKeep.refl _ d).onRing l _ fun _ => rfl⟩
  exact .ite _ (.refl d) ((TellsNodes.each (fun b k => (evalNode_tells b l k t).trans (judgeClaim_tells ..)) h1).trans (countAdmitted_tells ..))

end Judge

end Sys2Proof.Machine
end

section
/-!
SUPPORT. The launch of a cycle (R28, R158, R170, R184): what a ring launches, and that it depends on nothing that the launch of the other
rings changes.
-/
namespace Sys2Proof.Machine
open RegField

/-- Ring `l` would launch in `e` what it would in `d`, and `e` has sent on ring `l` what `d` has. -/
structure SameLaunch (l : Lane) (d e : Dev) : Prop where
  rd : ∀ f i, f ≠ BLF_SOF_TX_NS → (f = ENT_START_STATE → i = l.idx) → e.rd f i = d.rd f i
  ring : ringOf e l = ringOf d l
  lanes : e.lanes = d.lanes
  parts : e.motion.parts = d.motion.parts
  latchNow : e.tb.latchNow = d.tb.latchNow
  latchNext : e.tb.latchNext = d.tb.latchNext
  sent : ∀ q bs, .ringFrame l q bs ∈ e.out ↔ .ringFrame l q bs ∈ d.out

section SameLaunch
variable {l : Lane} {a d e : Dev}

theorem SameLaunch.refl (l : Lane) (d : Dev) : SameLaunch l d d := ⟨fun _ _ _ _ => rfl, rfl, rfl, rfl, rfl, rfl, fun _ _ => .rfl⟩

theorem SameLaunch.trans (h : SameLaunch l a d) (k : SameLaunch l d e) : SameLaunch l a e :=
  ⟨fun f i hf hi => (k.rd f i hf hi).trans (h.rd f i hf hi), k.ring.trans h.ring, k.lanes.trans h.lanes, k.parts.trans h.parts,
    k.latchNow.trans h.latchNow, k.latchNext.trans h.latchNext, fun q bs => (k.sent q bs).trans (h.sent q bs)⟩

theorem SameLaunch.onRing (h : SameLaunch l a d) {k : Lane} (hk : k ≠ l) (f : RingState → RingState) : SameLaunch l a (onRing d k f) :=
  h.trans ⟨fun _ _ _ _ => rfl, by simp [hk.symm], rfl, rfl, rfl, rfl, fun _ _ => .rfl⟩

theorem SameLaunch.sendOn (h : SameLaunch l a d) {k : Lane} (hk : k ≠ l) (q : Nat) (f : Nat → List Block) :
    SameLaunch l a (sendOn d k q f) := by
  unfold Machine.sendOn
  split
  · exact h.trans ⟨fun _ _ _ _ => rfl, rfl, rfl, rfl, rfl, rfl, fun _ _ => by simp [hk.symm]⟩
  · exact h

theorem SameLaunch.stamp (h : SameLaunch l a d) (k : Lane) (q : Nat) : SameLaunch l a (stampLaunch d k q) := by
  unfold stampLaunch
  split
  · exact h.trans ⟨fun f i hf _ => by simp [hf], rfl, rfl, rfl, rfl, rfl, fun _ _ => .rfl⟩
  · exact h

theorem SameLaunch.startState (h : SameLaunch l a d) {k : Lane} (hk : k ≠ l) (v : Nat) : SameLaunch l a (d.wr ENT_START_STATE k.idx v) :=
  h.trans ⟨fun f i _ hi => by
    have hn : ¬ (f = ENT_START_STATE ∧ i = k.idx) := fun ⟨hf, hik⟩ => hk (Lane.idx_inj.mp (hik.symm.trans (hi hf)))
    simp [hn], rfl, rfl, rfl, rfl, rfl, fun _ _ => .rfl⟩

/-! What a ring launches. -/

theorem SameLaunch.frameNo (h : SameLaunch l d e) : e.frameNo = d.frameNo := h.rd _ _ (by simp) (by simp)

theorem SameLaunch.mode (h : SameLaunch l d e) : e.mode = d.mode := by
  unfold Dev.mode; rw [h.rd _ _ (by simp) (by simp)]

theorem SameLaunch.startState_eq (h : SameLaunch l d e) : e.rd ENT_START_STATE l.idx = d.rd ENT_START_STATE l.idx :=
  h.rd _ _ (by simp) (by simp)

theorem SameLaunch.portUp (h : SameLaunch l d e) (q : Nat) : portUp e l q = portUp d l q := by
  simp only [Machine.portUp, Dev.on, h.rd ENT_STAT_LINK0 l.idx (by simp) (by simp), h.rd ENT_STAT_LINK1 l.idx (by simp) (by simp)]

theorem SameLaunch.latchIn (h : SameLaunch l d e) (k : Nat) : latchIn e k = latchIn d k := by
  simp only [Machine.latchIn, h.latchNow, h.latchNext]

theorem SameLaunch.nodeState (h : SameLaunch l d e) (n : Nat) : nodeState e l n = nodeState d l n := h.rd _ _ (by simp) (by simp)

theorem SameLaunch.nodeOf (h : SameLaunch l d e) (n : Nat) : nodeOf e l n = nodeOf d l n := by simp only [Machine.nodeOf, h.ring]

theorem SameLaunch.header0 (h : SameLaunch l d e) (typ dir : Nat) (reset : Bool) : header0 e l typ dir reset = header0 d l typ dir reset := by
  simp only [Machine.header0, h.mode, h.frameNo, h.rd BLF_CFG_PERIOD 0 (by simp) (by simp)]

theorem SameLaunch.bufferPart (h : SameLaunch l d e) (s : List SchedEntry) (n : Nat) : bufferPart e l s n = bufferPart d l s n := by
  simp only [Machine.bufferPart, h.lanes, h.ring, h.rd LN_STATUS_STATE l.idx (by simp) (by simp)]

theorem SameLaunch.controlBlock (h : SameLaunch l d e) (n : Nat) (x y : Int) : controlBlock e l n x y = controlBlock d l n x y := by
  simp only [Machine.controlBlock, Dev.frameNs, Dev.periodUnits, h.nodeState, h.latchIn, h.parts, h.rd BLF_CFG_PERIOD 0 (by simp) (by simp)]

theorem SameLaunch.windowAt (h : SameLaunch l d e) (s : List SchedEntry) (n : Nat) : windowAt e l s n = windowAt d l s n := by
  simp only [Machine.windowAt, h.nodeState, h.bufferPart, h.nodeOf, h.controlBlock, h.frameNo, h.parts]

theorem SameLaunch.cycleFrame (h : SameLaunch l d e) : cycleFrame e l = cycleFrame d l := by
  funext q
  simp only [Machine.cycleFrame, header1, blockAt, h.header0, h.frameNo, h.latchIn, h.ring, h.windowAt]

theorem SameLaunch.startFrame (h : SameLaunch l d e) : startFrame e l = startFrame d l := by
  funext q
  simp only [Machine.startFrame, h.header0, h.frameNo, h.latchIn]

theorem SameLaunch.enumFrame (h : SameLaunch l d e) : enumFrame e l = enumFrame d l := by
  funext q
  simp only [Machine.enumFrame, h.header0]

theorem SameLaunch.directoryFrame (h : SameLaunch l d e) : directoryFrame e l = directoryFrame d l := by
  funext q
  simp only [Machine.directoryFrame, Dev.on, h.header0, h.ring, h.nodeOf, h.rd ENT_NODE_CLAIMED _ (by simp) (by simp),
    h.rd ENT_SCHED_N l.idx (by simp) (by simp)]

end SameLaunch

/-! The launch of one ring. -/

/-- A ring sends a frame on each of its two ports that is up. -/
def sendBoth (d : Dev) (l : Lane) (f : Nat → List Block) : Dev := sendOn (sendOn d l 0 f) l 1 f

/-- A ring that launches a cycle over `n` entries awaits the copies of the frame that now begins. -/
def RingState.await (r : RingState) (frame n : Nat) : RingState := { r with
  inFlight := some frame, back0 := none, back1 := none, turned := false, untouched := 0, wholeHop := true,
  nodesBoth := true, motionDone := [], seqReset := false, evaluated := false,
  dirEntry := if n = 0 then 0 else (r.dirEntry + 1) % n,
  nodes := (entryIxs r.sched).foldl (fun m e => SMap.modify {} m e fun x => { x with
    report := none, special := none, valid := false, claim0 := none, claim1 := none, claimBad := false }) r.nodes }

/-- A ring sends the start frame once more; after the last one it enumerates. -/
def sendStart (d : Dev) (l : Lane) : Dev :=
  let e := onRing (sendBoth d l (startFrame d l)) l fun r => { r with seqReset := false }
  if (ringOf d l).startLeft ≤ 1 then
    (onRing e l fun r => { r with startLeft := 0, enumFrames := 0, enumLast := none }).wr ENT_START_STATE l.idx 2
  else onRing e l fun r => { r with startLeft := r.startLeft - 1 }

/-- A ring sends an enumeration frame. -/
def sendEnum (d : Dev) (l : Lane) : Dev :=
  onRing (sendBoth d l (enumFrame d l)) l fun r => { r with
    enumFrames := r.enumFrames + 1, enumNow0 := none, enumNow1 := none, enumSeq := some d.frameNo, seqReset := false }

/-- A ring sends the cycle frame, and the directory frame behind it when it has a schedule. -/
def sendCycle (d : Dev) (l : Lane) : Dev :=
  let e := stampLaunch (stampLaunch (sendBoth d l (cycleFrame d l)) l 0) l 1
  onRing (if (ringOf d l).sched = [] then e else sendBoth e l (directoryFrame d l)) l fun r =>
    r.await d.frameNo (ringOf d l).sched.length

theorem sendOn_sent (d : Dev) (l : Lane) (q p : Nat) (f : Nat → List Block) (bs : List Block) :
    .ringFrame l q bs ∈ (sendOn d l p f).out ↔ .ringFrame l q bs ∈ d.out ∨ (q = p ∧ portUp d l p = true ∧ bs = f p) := by
  unfold sendOn
  split <;> simp [*]

@[simp] theorem sendOn_rd (d : Dev) (l : Lane) (p : Nat) (g : Nat → List Block) (f : RegField) (i : Nat) :
    (sendOn d l p g).rd f i = d.rd f i := by
  unfold sendOn
  split <;> simp

@[simp] theorem ringOf_sendOn (d : Dev) (l : Lane) (p : Nat) (f : Nat → List Block) (k : Lane) : ringOf (sendOn d l p f) k = ringOf d k := by
  unfold sendOn
  split <;> simp

@[simp] theorem sendBoth_rd (d : Dev) (l : Lane) (g : Nat → List Block) (f : RegField) (i : Nat) : (sendBoth d l g).rd f i = d.rd f i := by
  simp [sendBoth]

@[simp] theorem ringOf_sendBoth (d : Dev) (l : Lane) (f : Nat → List Block) (k : Lane) : ringOf (sendBoth d l f) k = ringOf d k := by
  simp [sendBoth]

theorem portUp_congr {d e : Dev} (h : ∀ f i, f ≠ BLF_SOF_TX_NS → e.rd f i = d.rd f i) (l : Lane) (q : Nat) : portUp e l q = portUp d l q := by
  simp only [portUp, Dev.on, h ENT_STAT_LINK0 l.idx (by simp), h ENT_STAT_LINK1 l.idx (by simp)]

/-- What has been sent on a ring once it sent `f` on both ports: what had been sent, and `f` on each port that is up. -/
theorem sendBoth_sent (d : Dev) (l : Lane) (q : Nat) (f : Nat → List Block) (bs : List Block) :
    .ringFrame l q bs ∈ (sendBoth d l f).out ↔ .ringFrame l q bs ∈ d.out ∨ (q < 2 ∧ portUp d l q = true ∧ bs = f q) := by
  have hp : portUp (sendOn d l 0 f) l 1 = portUp d l 1 := portUp_congr (fun f i _ => sendOn_rd d l 0 _ f i) l 1
  have hq : q < 2 ↔ q = 0 ∨ q = 1 := by omega
  rw [sendBoth, sendOn_sent, sendOn_sent, hp, hq]
  constructor
  · rintro ((h | ⟨rfl, h⟩) | ⟨rfl, h⟩)
    · exact .inl h
    · exact .inr ⟨.inl rfl, h⟩
    · exact .inr ⟨.inr rfl, h⟩
  · rintro (h | ⟨rfl | rfl, h⟩)
    · exact .inl (.inl h)
    · exact .inl (.inr ⟨rfl, h⟩)
    · exact .inr ⟨rfl, h⟩

theorem stampLaunch_rd (d : Dev) (l : Lane) (q : Nat) (f : RegField) (i : Nat) (hf : f ≠ BLF_SOF_TX_NS) :
    (stampLaunch d l q).rd f i = d.rd f i := by
  unfold stampLaunch
  split <;> simp [hf]

@[simp] theorem stampLaunch_out (d : Dev) (l : Lane) (q : Nat) : (stampLaunch d l q).out = d.out := by
  unfold stampLaunch
  split <;> rfl

@[simp] theorem ringOf_stampLaunch (d : Dev) (l : Lane) (q : Nat) (k : Lane) : ringOf (stampLaunch d l q) k = ringOf d k := by
  unfold stampLaunch
  split <;> rfl

section LaunchRing
variable {d : Dev} {l : Lane}

theorem launchRing_start (h : d.rd ENT_START_STATE l.idx = 1) : launchRing d l = sendStart d l := by
  unfold launchRing; rw [h]; rfl

theorem launchRing_enum (h : d.rd ENT_START_STATE l.idx = 2) : launchRing d l = sendEnum d l := by
  unfold launchRing; rw [h]; rfl

theorem launchRing_cycle (h : d.rd ENT_START_STATE l.idx = 3) : launchRing d l = sendCycle d l := by
  unfold launchRing; rw [h]; rfl

theorem launchRing_idle (h1 : d.rd ENT_START_STATE l.idx ≠ 1) (h2 : d.rd ENT_START_STATE l.idx ≠ 2) (h3 : d.rd ENT_START_STATE l.idx ≠ 3) :
    launchRing d l = onRing d l fun r => { r with seqReset := false } := by
  unfold launchRing
  split
  · contradiction
  · contradiction
  · contradiction
  · rfl

/-- A launch of ring `l` is one of four. -/
theorem launchRing_cases (d : Dev) (l : Lane) : (d.rd ENT_START_STATE l.idx = 1 ∧ launchRing d l = sendStart d l) ∨
    (d.rd ENT_START_STATE l.idx = 2 ∧ launchRing d l = sendEnum d l) ∨ (d.rd ENT_START_STATE l.idx = 3 ∧ launchRing d l = sendCycle d l) ∨
    launchRing d l = onRing d l fun r => { r with seqReset := false } := by
  by_cases h1 : d.rd ENT_START_STATE l.idx = 1
  · exact .inl ⟨h1, launchRing_start h1⟩
  by_cases h2 : d.rd ENT_START_STATE l.idx = 2
  · exact .inr (.inl ⟨h2, launchRing_enum h2⟩)
  by_cases h3 : d.rd ENT_START_STATE l.idx = 3
  · exact .inr (.inr (.inl ⟨h3, launchRing_cycle h3⟩))
  · exact .inr (.inr (.inr (launchRing_idle h1 h2 h3)))

theorem SameLaunch.sendBoth {a d : Dev} (h : SameLaunch l a d) {k : Lane} (hk : k ≠ l) (f : Nat → List Block) :
    SameLaunch l a (sendBoth d k f) := (h.sendOn hk 0 f).sendOn hk 1 f

/-- The launch of another ring leaves what ring `l` launches and has launched. -/
theorem launchRing_other (d : Dev) {k : Lane} (hk : k ≠ l) : SameLaunch l d (launchRing d k) := by
  have h := SameLaunch.refl l d
  rcases launchRing_cases d k with ⟨-, e⟩ | ⟨-, e⟩ | ⟨-, e⟩ | e <;> rw [e]
  · have h1 := (h.sendBoth hk (Machine.startFrame d k)).onRing hk fun r => { r with seqReset := false }
    unfold sendStart
    split
    · exact (h1.onRing hk _).startState hk 2
    · exact h1.onRing hk _
  · exact (h.sendBoth hk _).onRing hk _
  · have h1 := ((h.sendBoth hk (Machine.cycleFrame d k)).stamp k 0).stamp k 1
    unfold sendCycle
    split
    · exact h1.onRing hk _
    · exact (h1.sendBoth hk _).onRing hk _
  · exact h.onRing hk _

theorem sendOn_sameBut (d : Dev) (l : Lane) (q : Nat) (f : Nat → List Block) : SameBut d (sendOn d l q f) [] [] [] := by
  unfold sendOn
  split
  · exact d.emit_sameBut _
  · exact .refl _ _ _ _

theorem sendBoth_sameBut (d : Dev) (l : Lane) (f : Nat → List Block) : SameBut d (sendBoth d l f) [] [] [] :=
  (sendOn_sameBut ..).trans (sendOn_sameBut ..)

theorem stampLaunch_sameBut (d : Dev) (l : Lane) (q : Nat) : SameBut d (stampLaunch d l q) [BLF_SOF_TX_NS] [] [] := by
  unfold stampLaunch
  split
  · exact (SameBut.refl d _ _ _).wr _ _ _ (by simp)
  · exact .refl _ _ _ _

/-- What the launch of a ring may change. -/
theorem launchRing_sameBut (d : Dev) (l : Lane) : SameBut d (launchRing d l) [BLF_SOF_TX_NS, ENT_START_STATE] [] [.rings] := by
  have both (f : Nat → List Block) : SameBut d (sendBoth d l f) [BLF_SOF_TX_NS, ENT_START_STATE] [] [.rings] :=
    (sendBoth_sameBut d l f).mono (by simp) (by simp) (by simp)
  rcases launchRing_cases d l with ⟨-, e⟩ | ⟨-, e⟩ | ⟨-, e⟩ | e <;> rw [e]
  · have h1 := (both (startFrame d l)).onRing l (fun r => { r with seqReset := false }) (by simp)
    unfold sendStart
    split
    · exact (h1.onRing l _ (by simp)).wr _ _ _ (by simp)
    · exact h1.onRing l _ (by simp)
  · exact (both _).onRing l _ (by simp)
  · have h1 := ((both (cycleFrame d l)).next (stampLaunch_sameBut _ l 0) (by simp) (by simp) (by simp)).next (stampLaunch_sameBut _ l 1)
      (by simp) (by simp) (by simp)
    unfold sendCycle
    split
    · exact h1.onRing l _ (by simp)
    · exact (h1.next (sendBoth_sameBut _ l (directoryFrame d l)) (by simp) (by simp) (by simp)).onRing l _ (by simp)
  · exact (SameBut.refl d _ _ _).onRing l _ (by simp)

/-- What a ring has sent once it launched a cycle. -/
theorem sendCycle_sent (d : Dev) (l : Lane) (q : Nat) (bs : List Block) : .ringFrame l q bs ∈ (sendCycle d l).out ↔
    .ringFrame l q bs ∈ d.out ∨ (q < 2 ∧ portUp d l q = true ∧
      (bs = cycleFrame d l q ∨ ((ringOf d l).sched ≠ [] ∧ bs = directoryFrame d l q))) := by
  have hp : portUp (stampLaunch (stampLaunch (sendBoth d l (cycleFrame d l)) l 0) l 1) l q = portUp d l q :=
    portUp_congr (fun f i hf => by simp [stampLaunch_rd, hf]) l q
  unfold sendCycle
  split
  · next hs => simp [sendBoth_sent, hs]
  · next hs =>
    rw [onRing_out, sendBoth_sent, hp]
    simp only [stampLaunch_out, sendBoth_sent, ne_eq, hs, not_false_eq_true, true_and, or_assoc, and_or_left]

theorem sendStart_sent (d : Dev) (l : Lane) (q : Nat) (bs : List Block) : .ringFrame l q bs ∈ (sendStart d l).out ↔
    .ringFrame l q bs ∈ d.out ∨ (q < 2 ∧ portUp d l q = true ∧ bs = startFrame d l q) := by
  unfold sendStart
  split <;> simp [sendBoth_sent]

theorem sendEnum_sent (d : Dev) (l : Lane) (q : Nat) (bs : List Block) : .ringFrame l q bs ∈ (sendEnum d l).out ↔
    .ringFrame l q bs ∈ d.out ∨ (q < 2 ∧ portUp d l q = true ∧ bs = enumFrame d l q) := sendBoth_sent ..

/-- A ring sends only while its start state is not 0, and only on a port that is up. -/
theorem launchRing_sent {q : Nat} {bs : List Block} (h : .ringFrame l q bs ∈ (launchRing d l).out) :
    .ringFrame l q bs ∈ d.out ∨ (d.rd ENT_START_STATE l.idx ≠ 0 ∧ portUp d l q = true) := by
  rcases launchRing_cases d l with ⟨hs, e⟩ | ⟨hs, e⟩ | ⟨hs, e⟩ | e <;> rw [e] at h
  · exact ((sendStart_sent ..).mp h).imp_right fun ⟨_, hp, _⟩ => ⟨by simp [hs], hp⟩
  · exact ((sendEnum_sent ..).mp h).imp_right fun ⟨_, hp, _⟩ => ⟨by simp [hs], hp⟩
  · exact ((sendCycle_sent ..).mp h).imp_right fun ⟨_, hp, _⟩ => ⟨by simp [hs], hp⟩
  · exact .inl h

end LaunchRing

/-! The launch of the cycle. -/

/-- The device as a cycle's launch finds its rings. -/
def launchStart (d : Dev) : Dev := { d.reach 3200 with motion := { d.motion with feedback := [] } }

theorem execCycleLaunch_eq (s : State) : exec .cycleLaunch s = s.run fun d =>
    if d.tb.ticking then (launchStart d).each Lane.all launchRing else d := rfl

theorem launchStart_sameLaunch (d : Dev) (l : Lane) : SameLaunch l d (launchStart d) :=
  ⟨fun _ _ _ _ => rfl, rfl, rfl, rfl, rfl, rfl, fun _ _ => .rfl⟩

section CycleLaunch
variable {s : State} {l : Lane} {q : Nat}

/-- What ring `l` does at the launch, it does on a device that shows it what the device showed before. -/
theorem cycleLaunch_answers (l : Lane) (ht : s.dev.tb.ticking = true) {post : Dev → Prop}
    (h : ∀ p e, SameLaunch l s.dev.cleared p → SameLaunch l (launchRing p l) e → post e) : Answers .cycleLaunch s post := by
  obtain ⟨p, h1, h2⟩ := Dev.each_all_split (SameLaunch.refl l) SameLaunch.trans (fun b k hk => launchRing_other b hk)
    (launchStart s.dev.cleared)
  exact .of_result (execCycleLaunch_eq s) (if_pos ht) (h p _ ((launchStart_sameLaunch ..).trans h1) h2)

theorem cycleLaunch_cycle (ht : s.dev.tb.ticking = true) (hs : s.dev.rd ENT_START_STATE l.idx = 3) (hq : q < 2)
    (hp : portUp s.dev l q = true) : Answers .cycleLaunch s fun e => .ringFrame l q (cycleFrame s.dev l q) ∈ e.out ∧
      ((ringOf s.dev l).sched ≠ [] → .ringFrame l q (directoryFrame s.dev l q) ∈ e.out) ∧
      (ringOf e l).inFlight = some s.dev.frameNo ∧ (ringOf e l).back0 = none ∧ (ringOf e l).back1 = none := by
  refine cycleLaunch_answers l ht fun p e h k => ?_
  rw [launchRing_cycle (h.startState_eq.trans hs)] at k
  have hup : portUp p l q = true := (h.portUp q).trans hp
  have hr : ringOf e l = (ringOf p l).await p.frameNo (ringOf p l).sched.length := by
    rw [k.ring, sendCycle]
    split <;> simp
  have hf : p.frameNo = s.dev.frameNo := h.frameNo
  refine ⟨(k.sent ..).mpr ((sendCycle_sent ..).mpr (.inr ⟨hq, hup, .inl ?_⟩)),
    fun hn => (k.sent ..).mpr ((sendCycle_sent ..).mpr (.inr ⟨hq, hup, .inr ⟨?_, ?_⟩⟩)), ?_⟩
  · exact congrFun h.cycleFrame.symm q
  · exact h.ring ▸ hn
  · exact congrFun h.directoryFrame.symm q
  · rw [hr, hf]; exact ⟨rfl, rfl, rfl⟩

theorem sendStart_left (d : Dev) (l : Lane) : (ringOf (sendStart d l) l).startLeft = (ringOf d l).startLeft - 1 ∧
    (d.rd ENT_START_STATE l.idx = 1 → (sendStart d l).rd ENT_START_STATE l.idx = if (ringOf d l).startLeft ≤ 1 then 2 else 1) := by
  unfold sendStart
  by_cases hn : (ringOf d l).startLeft ≤ 1
  · have h0 : (ringOf d l).startLeft - 1 = 0 := by omega
    simp [hn, h0]
  · simp [hn]

theorem cycleLaunch_start (ht : s.dev.tb.ticking = true) (hs : s.dev.rd ENT_START_STATE l.idx = 1) (hq : q < 2)
    (hp : portUp s.dev l q = true) : Answers .cycleLaunch s fun e => .ringFrame l q (startFrame s.dev l q) ∈ e.out ∧
      (ringOf e l).startLeft = (ringOf s.dev l).startLeft - 1 ∧
      e.rd ENT_START_STATE l.idx = if (ringOf s.dev l).startLeft ≤ 1 then 2 else 1 := by
  refine cycleLaunch_answers l ht fun p e h k => ?_
  have hsp : p.rd ENT_START_STATE l.idx = 1 := h.startState_eq.trans hs
  rw [launchRing_start hsp] at k
  have hr : ringOf p l = ringOf s.dev l := h.ring
  obtain ⟨hleft, hstate⟩ := sendStart_left p l
  refine ⟨(k.sent ..).mpr ((sendStart_sent ..).mpr (.inr ⟨hq, (h.portUp q).trans hp, congrFun h.startFrame.symm q⟩)), ?_, ?_⟩
  · rw [k.ring, hleft, hr]
  · rw [k.startState_eq, hstate hsp, hr]

theorem cycleLaunch_enum (ht : s.dev.tb.ticking = true) (hs : s.dev.rd ENT_START_STATE l.idx = 2) (hq : q < 2)
    (hp : portUp s.dev l q = true) : Answers .cycleLaunch s fun e => .ringFrame l q (enumFrame s.dev l q) ∈ e.out ∧
      (ringOf e l).enumFrames = (ringOf s.dev l).enumFrames + 1 := by
  refine cycleLaunch_answers l ht fun p e h k => ?_
  rw [launchRing_enum (h.startState_eq.trans hs)] at k
  have hr : ringOf p l = ringOf s.dev l := h.ring
  refine ⟨(k.sent ..).mpr ((sendEnum_sent ..).mpr (.inr ⟨hq, (h.portUp q).trans hp, congrFun h.enumFrame.symm q⟩)), ?_⟩
  simp [k.ring, sendEnum, hr]

theorem cycleLaunch_notTicking (ht : s.dev.tb.ticking = false) : Completes .cycleLaunch s [] [] fun e => e.out = [] :=
  .of_unchanged (execCycleLaunch_eq s) (if_neg (by simp [ht]))

theorem cycleLaunch_silent (h : s.dev.rd ENT_START_STATE l.idx = 0 ∨ portUp s.dev l q = false) (bs : List Block) :
    Answers .cycleLaunch s fun e => .ringFrame l q bs ∉ e.out := by
  by_cases ht : s.dev.tb.ticking = true
  · refine cycleLaunch_answers l ht fun p e hp k hmem => ?_
    have hstate : p.rd ENT_START_STATE l.idx = s.dev.rd ENT_START_STATE l.idx := hp.startState_eq
    have hup : portUp p l q = portUp s.dev l q := hp.portUp q
    rcases launchRing_sent ((k.sent q bs).mp hmem) with hbefore | ⟨hs, hu⟩
    · exact absurd ((hp.sent q bs).mp hbefore) (by simp)
    · rcases h with h | h
      · exact hs (hstate.trans h)
      · simp [hup, h] at hu
  · exact .of_result (execCycleLaunch_eq s) (if_neg ht) (by simp)

theorem cycleLaunch_touches (ht : s.dev.tb.ticking = true) :
    Touches .cycleLaunch s [BLF_SOF_TX_NS, ENT_START_STATE] [] [.motion, .rings, .tb] := by
  have h0 : SameBut s.dev (launchStart s.dev.cleared) [BLF_SOF_TX_NS, ENT_START_STATE] [] [.motion, .rings, .tb] :=
    (((SameBut.cleared s.dev).mono (by simp) (by simp) (by simp)).reach 3200 (by simp)).motion _ (by simp)
  exact .of_result (execCycleLaunch_eq s) (if_pos ht)
    (.each (fun b k _ => (launchRing_sameBut b k).mono (by simp) (by simp) (by simp)) h0)

end CycleLaunch
end Sys2Proof.Machine
end

section
/-!
SUPPORT. The copies of a cycle frame that come back to the device (R152, R172, R175, R182): what is counted of each, and what each of the four
kinds of copy does.
-/
namespace Sys2Proof.Machine
open RegField

theorem exec_cycleReturn (l : Lane) (c : ReturnedCopy) (s : State) : exec (.cycleReturn l c) s = execCycleReturn l c s := rfl
theorem exec_lateCopyReceived (l : Lane) (port : Fin 2) (s : State) : exec (.lateCopyReceived l port) s = execLateCopyReceived l port s := rfl

@[simp] theorem onRing_pwr (d : Dev) (l : Lane) (f : RingState → RingState) : (onRing d l f).pwr = d.pwr := rfl

/-! What is counted of a copy. -/

/-- The counters of the blocks that come in at a port. -/
@[simp] def blockCounters (l : Lane) (q : Nat) : List (RegField × Nat) :=
  [(ENT_P_CNT0_CODE_ERR, portIx l q), (ENT_P_CNT0_CRC_ERR, portIx l q), (ENT_P_CNT1_POISON, portIx l q)]

section CountBlocks
variable (d : Dev) (l : Lane) (q : Nat) (bs : List Block)

theorem countBlocks_sameBut : SameBut d (countBlocks d l q bs) [] (blockCounters l q) [.rings] := by
  unfold countBlocks
  extract_lets err poi code d1
  have h1 : SameBut d d1 [] (blockCounters l q) [.rings] :=
    (((SameBut.refl d _ _ _).wr _ _ _ (by simp)).wr _ _ _ (by simp)).wr _ _ _ (by simp)
  exact h1.when _ ((SameBut.refl d1 _ _ _).onRing l _ (by simp))

@[simp] theorem countBlocks_out : (countBlocks d l q bs).out = d.out := by
  unfold countBlocks
  extract_lets err poi code d1
  unfold Dev.when
  split <;> rfl

theorem countBlocks_sched : (ringOf (countBlocks d l q bs) l).sched = (ringOf d l).sched := by
  unfold countBlocks
  extract_lets err poi code d1
  unfold Dev.when
  split <;> simp [d1]

end CountBlocks

/-! The four kinds of copies. -/

theorem copyKind_congr {d e : Dev} (h : e.frameNs = d.frameNs) (f typ n : Nat) (c : ReturnedCopy) :
    copyKind e f typ n c = copyKind d f typ n c := by simp only [copyKind, h]

/-- What a copy of each kind does. -/
def answerCopy (d : Dev) (l : Lane) (c : ReturnedCopy) : CopyKind → Dev
  | .own => takeCopy d l c
  | .late => d.inc ENT_P_CNT1_LATE (portIx l c.port)
  | .foreign => foreignFrame d l ((c.blocks.getD 0 emptyBlock).data.getD 4 0).toNat
  | .other => d

theorem returnCopy_eq {d : Dev} {l : Lane} {c : ReturnedCopy} {f : Nat} (hf : (ringOf d l).inFlight = some f) :
    returnCopy d l c = answerCopy (countBlocks d l c.port c.blocks) l c (copyKind d f 1 (frameBlocks (ringOf d l).sched) c) := by
  have hns : (countBlocks d l c.port c.blocks).frameNs = d.frameNs := by
    simp only [Dev.frameNs, Dev.periodUnits, (countBlocks_sameBut d l c.port c.blocks).rd_eq BLF_CFG_PERIOD 0 (by simp) (by simp)]
  unfold returnCopy
  rw [hf]
  simp only [countBlocks_sched, copyKind_congr hns]
  cases copyKind d f 1 (frameBlocks (ringOf d l).sched) c <;> rfl

/-! A copy in time is read. -/

/-- When the two copies of the cycle came back. -/
def RingState.copies (r : RingState) : Option Nat × Option Nat := (r.back0, r.back1)

/-- The registers that the tail of a copy is shown in. -/
@[simp] def tailFields : List RegField := [ENT_STAT_HOP0, ENT_STAT_HOP1, ENT_STAT_TURN_ID, ENT_P_ERRID_ERR_ID, ENT_P_ERRID_ERR_CNT]

section TakeCopy
variable (d : Dev) (l : Lane)

theorem takeTail_sameBut (q : Nat) (dir : Bool) (b : Block) : SameBut d (takeTail d l q dir b) tailFields [] [.rings] := by
  unfold takeTail
  split
  · exact (SameBut.refl d _ _ _).onRing l _ (by simp)
  · extract_lets hop errCnt d1 d2 d3
    have h1 : SameBut d d1 tailFields [] [.rings] := by
      unfold d1
      split <;> exact (SameBut.refl d _ _ _).wr _ _ _ (by simp)
    have h3 : SameBut d d3 tailFields [] [.rings] := (h1.wr _ _ _ (by simp)).onRing l _ (by simp)
    split
    · exact h3
    · exact (h3.wr _ _ _ (by simp)).wr _ _ _ (by simp)

/-- The hop count of a good tail is shown (R152). -/
theorem takeTail_hop (q : Nat) (dir : Bool) {b : Block} (h : blockClass b = .good) :
    (takeTail d l q dir b).rd (if dir then ENT_STAT_HOP1 else ENT_STAT_HOP0) l.idx = (b.data.getD 0 0).toNat % 2 ^ ENT_STAT_HOP0.width := by
  unfold takeTail
  rw [if_neg (by simp [h])]
  extract_lets hop errCnt d1 d2 d3
  have h1 : d3.rd (if dir then ENT_STAT_HOP1 else ENT_STAT_HOP0) l.idx = hop % 2 ^ ENT_STAT_HOP0.width := by
    cases dir <;> simp [d3, d2, d1]
  split
  · exact h1
  · cases dir <;> simpa [hop] using h1

/-- The registers of a broken ring. -/
@[simp] def breakFields : List RegField := [ENT_STAT_BREAK, ENT_P_CNT2_TURNED] ++ faultFields ++ recordFields

/-- A copy that was turned shows a break of the ring. -/
def noteTurned (q : Nat) : Dev := ringBreak (d.inc ENT_P_CNT2_TURNED (portIx l q)) l (d.rd ENT_STAT_TURN_ID l.idx)

/-- What a break of the ring does once BREAK is shown. -/
theorem ringBreak_after (t : Nat) : ∃ e, e.rd ENT_STAT_BREAK l.idx = 1 ∧ SameBut d e [ENT_STAT_BREAK] [] [.rings] ∧
    RingsKeep RingState.copies d e ∧ SameBut e (ringBreak d l t) (faultFields ++ recordFields) [] [.log, .fault] := by
  unfold ringBreak
  extract_lets was frame more d1 d2
  have hk : RingsKeep RingState.copies d d1 := ⟨fun k => by
    simp only [d1, ringOf_wr, ringOf_onRing, RingState.copies]
    split <;> simp [*]⟩
  refine ⟨d1, by simp [d1], ((SameBut.refl d _ _ _).onRing l _ (by simp)).wr _ _ _ (by simp), hk, ?_⟩
  have h2 : SameBut d1 d2 (faultFields ++ recordFields) [] [.log, .fault] :=
    (SameBut.refl _ _ _ _).when _ ((SameBut.refl d1 _ _ _).eventIn _ _ _ _ (by simp) (by simp))
  exact h2.when _ ((countFault_sameBut ..).mono (by simp) (by simp) (by simp))

theorem noteTurned_sameBut (q : Nat) : SameBut d (noteTurned d l q) breakFields [] [.rings, .log, .fault] := by
  obtain ⟨e, -, h1, -, h2⟩ := ringBreak_after (d.inc ENT_P_CNT2_TURNED (portIx l q)) l (d.rd ENT_STAT_TURN_ID l.idx)
  have h0 : SameBut d (d.inc ENT_P_CNT2_TURNED (portIx l q)) breakFields [] [.rings, .log, .fault] :=
    (SameBut.refl d _ _ _).wr _ _ _ (by simp)
  exact (h0.next h1 (by simp) (by simp) (by simp)).next h2 (by simp) (by simp) (by simp)

theorem noteTurned_copies (q : Nat) : RingsKeep RingState.copies d (noteTurned d l q) := by
  obtain ⟨e, -, -, h1, h2⟩ := ringBreak_after (d.inc ENT_P_CNT2_TURNED (portIx l q)) l (d.rd ENT_STAT_TURN_ID l.idx)
  have h0 : RingsKeep RingState.copies d (d.inc ENT_P_CNT2_TURNED (portIx l q)) := (RingsKeep.refl _ d).of_eq rfl
  exact (h0.trans h1).of_eq (h2.rest .rings (by simp))

/-- A break of the ring and the turned copy are shown (R175). -/
theorem noteTurned_shown (q : Nat) : (noteTurned d l q).rd ENT_STAT_BREAK l.idx = 1 ∧
    (noteTurned d l q).rd ENT_P_CNT2_TURNED (portIx l q) = d.countUp ENT_P_CNT2_TURNED (portIx l q) := by
  obtain ⟨e, hb, h1, -, h2⟩ := ringBreak_after (d.inc ENT_P_CNT2_TURNED (portIx l q)) l (d.rd ENT_STAT_TURN_ID l.idx)
  refine ⟨(h2.rd_eq _ _ (by simp) (by simp)).trans hb, ?_⟩
  rw [noteTurned, h2.rd_eq _ _ (by simp) (by simp), h1.rd_eq _ _ (by simp) (by simp)]
  simp [Dev.countUp]

variable (c : ReturnedCopy)

/-- The ring byte of a copy: its direction, and whether it was turned. -/
def ringByte : Nat := ((c.blocks.getD 0 emptyBlock).data.getD 1 0).toNat

/-- The time of a copy, its master and its tail are noted. -/
def noteCopy : Dev :=
  let dir := (ringByte c).testBit 2
  let d := d.wr BLF_SOF_RX_NS (portIx l c.port) (fieldOf 32 (trunc8 (d.tb.tickAt + 3200 + c.afterLaunch) - 184))
  let d := d.wr ENT_START_MASTER_ID l.idx ((c.blocks.getD 0 emptyBlock).data.getD 4 0).toNat
  let d := takeTail d l c.port dir (c.blocks.getLastD emptyBlock)
  onRing d l fun r => { r with
    back0 := if dir then r.back0 else some (transit d c)
    back1 := if dir then some (transit d c) else r.back1
    turned := r.turned || (ringByte c).testBit 3
    untouched := if (ringByte c).testBit 3 then r.untouched else r.untouched + 1 }

/-- The windows of a copy are read, and the cycle is judged once both copies are back. -/
def readCopy : Dev :=
  let frame := (ringOf d l).inFlight.getD 0
  let d := d.each (entryIxs (ringOf d l).sched) fun d e => takeWindow d l frame ((ringByte c).testBit 2) c.blocks e
  match (ringOf d l).back0, (ringOf d l).back1 with
  | some t0, some t1 => closeCycle (if (ringOf d l).turned then d else setRingTime d l ((t0 + t1) / 2)) l
  | _, _ => d

theorem takeCopy_eq : takeCopy d l c =
    readCopy ((noteCopy d l c).when ((ringByte c).testBit 3) fun d => noteTurned d l c.port) l c := rfl

theorem readCopy_tells : TellsNodes d (readCopy d l c) := by
  unfold readCopy
  extract_lets frame d1
  have h1 : TellsNodes d d1 := .each (fun b e => takeWindow_tells ..) (.refl d)
  split
  · exact (h1.ite _ (h1.trans (setRingTime_tells ..))).trans (closeCycle_tells ..)
  · exact h1

/-! What `noteCopy` notes. -/

theorem noteCopy_sameBut : SameBut d (noteCopy d l c) (BLF_SOF_RX_NS :: ENT_START_MASTER_ID :: tailFields) [] [.rings] := by
  unfold noteCopy
  extract_lets dir d1 d2 d3
  have h2 : SameBut d d2 (BLF_SOF_RX_NS :: ENT_START_MASTER_ID :: tailFields) [] [.rings] :=
    ((SameBut.refl d _ _ _).wr _ _ _ (by simp)).wr _ _ _ (by simp)
  exact (h2.next (takeTail_sameBut ..) (by simp) (by simp) (by simp)).onRing l _ (by simp)

theorem noteCopy_arrival : (noteCopy d l c).rd BLF_SOF_RX_NS (portIx l c.port) =
    fieldOf 32 (trunc8 (d.tb.tickAt + 3200 + c.afterLaunch) - 184) := by
  unfold noteCopy
  extract_lets dir d1 d2 d3
  have h3 : d3.rd BLF_SOF_RX_NS (portIx l c.port) = d2.rd BLF_SOF_RX_NS (portIx l c.port) :=
    (takeTail_sameBut ..).rd_eq _ _ (by simp) (by simp)
  have hw : fieldOf 32 (trunc8 (d.tb.tickAt + 3200 + c.afterLaunch) - 184) % 2 ^ 32 =
      fieldOf 32 (trunc8 (d.tb.tickAt + 3200 + c.afterLaunch) - 184) := by unfold fieldOf; omega
  rw [onRing_rd, h3]
  simpa [d2, d1] using hw

theorem noteCopy_back : (if (ringByte c).testBit 2 then (ringOf (noteCopy d l c) l).back1 else (ringOf (noteCopy d l c) l).back0) =
    some (transit d c) := by
  unfold noteCopy
  extract_lets dir d1 d2 d3
  have htb : d3.tb = d.tb := (takeTail_sameBut ..).rest .tb (by simp)
  cases hd : (ringByte c).testBit 2 <;> simp [dir, hd, transit, htb]

theorem noteCopy_hop (h : blockClass (c.blocks.getLastD emptyBlock) = .good) :
    (noteCopy d l c).rd (if (ringByte c).testBit 2 then ENT_STAT_HOP1 else ENT_STAT_HOP0) l.idx =
      ((c.blocks.getLastD emptyBlock).data.getD 0 0).toNat % 2 ^ ENT_STAT_HOP0.width := takeTail_hop _ l c.port _ h

/-! What stays of it to the end of `takeCopy`. -/

theorem takeCopy_sameBut : SameBut (noteCopy d l c) (takeCopy d l c) (cycleFields ++ breakFields) [] [.rings, .motion, .log, .fault] := by
  have h : SameBut (noteCopy d l c) ((noteCopy d l c).when ((ringByte c).testBit 3) fun d => noteTurned d l c.port)
      (cycleFields ++ breakFields) [] [.rings, .motion, .log, .fault] :=
    (SameBut.refl _ _ _ _).when _ ((noteTurned_sameBut ..).mono (by simp) (by simp) (by simp))
  exact h.next (readCopy_tells ..).frame (by simp) (by simp) (by simp)

theorem takeCopy_copies : RingsKeep RingState.copies (noteCopy d l c) (takeCopy d l c) := by
  have h1 : RingsKeep RingState.copies (noteCopy d l c) ((noteCopy d l c).when ((ringByte c).testBit 3) fun d => noteTurned d l c.port) := by
    cases (ringByte c).testBit 3
    · exact .refl _ _
    · exact noteTurned_copies ..
  have h2 := (readCopy_tells ((noteCopy d l c).when ((ringByte c).testBit 3) fun d => noteTurned d l c.port) l c).rings
  have h3 : RingsKeep RingState.copies ((noteCopy d l c).when ((ringByte c).testBit 3) fun d => noteTurned d l c.port) (takeCopy d l c) :=
    ⟨fun k => by have h := congrArg RingState.copies (h2.keep k); exact h⟩
  exact h1.trans h3

theorem takeCopy_turned (h : (ringByte c).testBit 3 = true) : (takeCopy d l c).rd ENT_STAT_BREAK l.idx = 1 ∧
    (takeCopy d l c).rd ENT_P_CNT2_TURNED (portIx l c.port) = d.countUp ENT_P_CNT2_TURNED (portIx l c.port) := by
  rw [takeCopy_eq, h, Dev.when_true]
  have hr := (readCopy_tells (noteTurned (noteCopy d l c) l c.port) l c).frame
  have hn := (noteCopy_sameBut d l c).rd_eq ENT_P_CNT2_TURNED (portIx l c.port) (by simp) (by simp)
  obtain ⟨hbreak, hturned⟩ := noteTurned_shown (noteCopy d l c) l c.port
  exact ⟨(hr.rd_eq _ _ (by simp) (by simp)).trans hbreak,
    (hr.rd_eq _ _ (by simp) (by simp)).trans (hturned.trans (by rw [Dev.countUp, hn, Dev.countUp]))⟩

end TakeCopy

section Kinds
variable {s : State} {l : Lane} {c : ReturnedCopy} {f : Nat}

theorem cycleReturn_ignored (h : s.dev.rd ENT_START_STATE l.idx ≠ 3 ∨ (ringOf s.dev l).inFlight = none) :
    Completes (.cycleReturn l c) s [] [] fun e => e.out = [] := by
  refine .of_unchanged (exec_cycleReturn ..) ?_
  rcases h with h | h
  · exact if_neg h
  · have hr : returnCopy s.dev.cleared l c = s.dev.cleared := by
      unfold returnCopy
      rw [ringOf_cleared, h]
    simp only [hr, ite_self]

/-- A copy that a ring awaits is counted, then answered by its kind. -/
theorem cycleReturn_effect (hs : s.dev.rd ENT_START_STATE l.idx = 3) (hf : (ringOf s.dev l).inFlight = some f) {k : CopyKind}
    (hk : copyKind s.dev f 1 (frameBlocks (ringOf s.dev l).sched) c = k) :
    (if s.dev.cleared.rd ENT_START_STATE l.idx = 3 then returnCopy s.dev.cleared l c else s.dev.cleared) =
      answerCopy (countBlocks s.dev.cleared l c.port c.blocks) l c k := by
  rw [Dev.cleared_rd, if_pos hs, returnCopy_eq (d := s.dev.cleared) hf, ← hk]
  rfl

theorem cycleReturn_late (hs : s.dev.rd ENT_START_STATE l.idx = 3) (hf : (ringOf s.dev l).inFlight = some f)
    (hk : copyKind s.dev f 1 (frameBlocks (ringOf s.dev l).sched) c = .late) :
    Completes (.cycleReturn l c) s [(ENT_P_CNT0_CODE_ERR, portIx l c.port), (ENT_P_CNT0_CRC_ERR, portIx l c.port),
        (ENT_P_CNT1_POISON, portIx l c.port), (ENT_P_CNT1_LATE, portIx l c.port)] [.rings] fun e =>
      e.out = [] ∧ e.rd ENT_P_CNT1_LATE (portIx l c.port) = s.dev.countUp ENT_P_CNT1_LATE (portIx l c.port) := by
  have h1 := countBlocks_sameBut s.dev.cleared l c.port c.blocks
  refine .of_result (exec_cycleReturn ..) (cycleReturn_effect hs hf hk) ((h1.mono (by simp) (by simp) (by simp)).wr _ _ _ (by simp)) ⟨?_, ?_⟩
  · simp [answerCopy]
  · have hl := h1.rd_eq ENT_P_CNT1_LATE (portIx l c.port) (by simp) (by simp)
    simp [answerCopy, hl, Dev.countUp]

theorem cycleReturn_other (hs : s.dev.rd ENT_START_STATE l.idx = 3) (hf : (ringOf s.dev l).inFlight = some f)
    (hk : copyKind s.dev f 1 (frameBlocks (ringOf s.dev l).sched) c = .other) :
    Completes (.cycleReturn l c) s [(ENT_P_CNT0_CODE_ERR, portIx l c.port), (ENT_P_CNT0_CRC_ERR, portIx l c.port),
        (ENT_P_CNT1_POISON, portIx l c.port)] [.rings] fun e => e.out = [] :=
  .of_result (exec_cycleReturn ..) (cycleReturn_effect hs hf hk) (countBlocks_sameBut ..) (by simp [answerCopy])

theorem foreignFrame_keepsMastering (d : Dev) (l : Lane) {m : Nat} (hm : m ≠ 0) : foreignFrame d l m =
    (d.wr ENT_START_MASTER_ID l.idx m).inc ENT_START_FOREIGN l.idx := if_neg hm

theorem cycleReturn_foreign (hs : s.dev.rd ENT_START_STATE l.idx = 3) (hf : (ringOf s.dev l).inFlight = some f)
    (hk : copyKind s.dev f 1 (frameBlocks (ringOf s.dev l).sched) c = .foreign) :
    Answers (.cycleReturn l c) s fun e =>
      let master := ((c.blocks.getD 0 emptyBlock).data.getD 4 0).toNat
      e.out = [] ∧ e.rd ENT_START_MASTER_ID l.idx = master ∧
      e.rd ENT_START_FOREIGN l.idx = s.dev.countUp ENT_START_FOREIGN l.idx ∧
      (if master = 0 then e.rd ENT_START_STATE l.idx = 0 ∧ e.pwr.noMaster = true ∧ (ringOf e l).inFlight = none
        else e.rd ENT_START_STATE l.idx = 3 ∧ e.pwr = s.dev.pwr) := by
  refine .of_result (exec_cycleReturn ..) (cycleReturn_effect hs hf hk) ?_
  have h1 := countBlocks_sameBut s.dev.cleared l c.port c.blocks
  have hForeign := h1.rd_eq ENT_START_FOREIGN l.idx (by simp) (by simp)
  have hState := h1.rd_eq ENT_START_STATE l.idx (by simp) (by simp)
  have hPwr : (countBlocks s.dev.cleared l c.port c.blocks).pwr = s.dev.pwr := h1.rest .pwr (by simp)
  have hOut := countBlocks_out s.dev.cleared l c.port c.blocks
  unfold answerCopy
  generalize countBlocks s.dev.cleared l c.port c.blocks = d at *
  have hm : ((c.blocks.getD 0 emptyBlock).data.getD 4 0).toNat < 2 ^ 8 := BitVec.isLt _
  generalize ((c.blocks.getD 0 emptyBlock).data.getD 4 0).toNat = m at *
  by_cases h0 : m = 0
  · simp [h0, foreignFrame, stopMaster, hOut, hForeign, Dev.countUp]
  · simpa [h0, foreignFrame_keepsMastering, hOut, hForeign, hState, hs, hPwr, Dev.countUp] using hm

theorem cycleReturn_own (hs : s.dev.rd ENT_START_STATE l.idx = 3) (hf : (ringOf s.dev l).inFlight = some f)
    (hk : copyKind s.dev f 1 (frameBlocks (ringOf s.dev l).sched) c = .own) :
    Answers (.cycleReturn l c) s fun e =>
      let dir := ((c.blocks.getD 0 emptyBlock).data.getD 1 0).toNat.testBit 2
      let turned := ((c.blocks.getD 0 emptyBlock).data.getD 1 0).toNat.testBit 3
      (if dir then (ringOf e l).back1 else (ringOf e l).back0) = some (transit s.dev c) ∧
      (blockClass (c.blocks.getLastD emptyBlock) = .good → e.rd (if dir then ENT_STAT_HOP1 else ENT_STAT_HOP0) l.idx =
        ((c.blocks.getLastD emptyBlock).data.getD 0 0).toNat % 2 ^ ENT_STAT_HOP0.width) ∧
      e.rd BLF_SOF_RX_NS (portIx l c.port) = fieldOf 32 (trunc8 (s.dev.tb.tickAt + 3200 + c.afterLaunch) - 184) ∧
      (turned = true → e.rd ENT_STAT_BREAK l.idx = 1 ∧ e.rd ENT_P_CNT2_TURNED (portIx l c.port) =
        s.dev.countUp ENT_P_CNT2_TURNED (portIx l c.port)) := by
  refine .of_result (exec_cycleReturn ..) (cycleReturn_effect hs hf hk) ?_
  have h1 := countBlocks_sameBut s.dev.cleared l c.port c.blocks
  have htb : (countBlocks s.dev.cleared l c.port c.blocks).tb = s.dev.tb := h1.rest .tb (by simp)
  unfold answerCopy
  have hturn : (countBlocks s.dev.cleared l c.port c.blocks).countUp ENT_P_CNT2_TURNED (portIx l c.port) =
      s.dev.countUp ENT_P_CNT2_TURNED (portIx l c.port) := by
    simp [Dev.countUp, h1.rd_eq ENT_P_CNT2_TURNED (portIx l c.port) (by simp) (by simp)]
  generalize countBlocks s.dev.cleared l c.port c.blocks = d at *
  have ht : transit d c = transit s.dev c := by simp only [transit, htb]
  have hkeep := takeCopy_sameBut d l c
  obtain ⟨hback0, hback1⟩ := Prod.mk.inj ((takeCopy_copies d l c).keep l)
  refine ⟨?_, fun hg => ?_, ?_, fun hturned => ?_⟩
  · exact hback0 ▸ hback1 ▸ ht ▸ noteCopy_back d l c
  · refine (hkeep.rd_eq _ _ ?_ (by simp)).trans (noteCopy_hop d l c hg)
    split <;> simp
  · exact (hkeep.rd_eq _ _ (by simp) (by simp)).trans (htb ▸ noteCopy_arrival d l c)
  · exact hturn ▸ takeCopy_turned d l c hturned

theorem lateCopyReceived_counted (port : Fin 2) :
    Completes (.lateCopyReceived l port) s [(ENT_P_CNT1_LATE, portIx l port)] [] fun e =>
      e.rd ENT_P_CNT1_LATE (portIx l port) = s.dev.countUp ENT_P_CNT1_LATE (portIx l port) :=
  .of_effect (exec_lateCopyReceived ..) ((SameBut.refl _ _ _ _).wr _ _ _ (by simp)) (by simp [Dev.countUp])

end Kinds

/-- Settles O21: what ring `l` does at the launch is the launch of that one ring (`cycleLaunch_answers`), and what a returned copy does follows
its kind. -/
theorem cycleLaunchAndReturn : Obligations.CycleLaunchAndReturn :=
  ⟨fun _ _ _ ht hs hq hp => cycleLaunch_cycle ht hs hq hp, fun _ _ _ ht hs hq hp => cycleLaunch_start ht hs hq hp,
    fun _ _ _ ht hs hq hp => cycleLaunch_enum ht hs hq hp, fun _ _ _ bs h _ => cycleLaunch_silent h bs, fun _ ht => cycleLaunch_touches ht,
    fun _ ht => cycleLaunch_notTicking ht, fun _ _ _ h => cycleReturn_ignored h, fun _ _ _ _ hs hf hk => cycleReturn_late hs hf hk,
    fun _ _ _ _ hs hf hk => cycleReturn_own hs hf hk, fun _ _ _ _ hs hf hk => cycleReturn_foreign hs hf hk,
    fun _ _ _ _ hs hf hk => cycleReturn_other hs hf hk, fun _ _ port => lateCopyReceived_counted port⟩

end Sys2Proof.Machine
end

section
/-!
SUPPORT. A step of the machine: the clock of an idle step, and that every command completes.
-/
namespace Sys2Proof.Machine

/-- Every arm of `exec` is the run of an effect on the device (`State.run`), so a command of any constructor completes with the queue as it was. -/
theorem exec_next (i : Instr) (s : State) : ∃ t, exec i s = .next t ∧ t.pending = s.pending := by
  cases i <;> exact ⟨_, rfl, rfl⟩

theorem step_front {s : State} {c : Instr} {rest : List Instr} (h : s.pending = c :: rest) :
    step s = exec c { s with pending := rest } := by
  unfold step
  rw [h]

theorem step_idle {s : State} (h : s.pending = []) : step s = .next ⟨s.dev.cleared.clock, s.pending⟩ := by
  unfold step
  rw [h]
  simp only [idle, State.run_eq, h]
  rfl

theorem Dev.clock_eq (d : Dev) : d.clock = { d with tb := { d.tb with
    ext := if d.tb.ticking = true ∧ d.tb.ext + 8 < d.nextTick then d.tb.ext + 8 else d.tb.ext } } := by
  unfold Dev.clock
  split <;> rfl

/-- Settles O1: a step with a command in front is `exec` of it (`step_front`), an idle step is one clock (`step_idle`, `Dev.clock_eq`), and
every command completes (`exec_next`). -/
theorem stepRunsFrontCommand : Obligations.StepRunsFrontCommand := by
  refine ⟨fun s c rest h => step_front h, fun s h => ⟨_, step_idle h, h, ?_⟩, exec_next⟩
  rw [Dev.clock_eq]
  exact ⟨rfl, (SameBut.cleared s.dev).mono (by simp) (by simp) (by simp) |>.tb _ (by simp), rfl⟩

end Sys2Proof.Machine
end

section
/-!
SUPPORT. The time-triggered outputs (R69 to R72): the state of an output, what a trigger source may change, and a pulse.
-/
namespace Sys2Proof.Machine
open RegField

/-! The state of an output. -/

@[simp] theorem ttOut_setTtOut (d : Dev) (k j : Nat) (t : TtOut) : ttOut (setTtOut d k t) j = if j = k then t else ttOut d j :=
  SMap.get_set ..

/-- Device time reaches `t`, or stays where it has passed it (R72). -/
def Dev.upTo (d : Dev) (t : Int) : Dev := { d with tb := { d.tb with ext := max d.tb.ext t } }

@[simp] theorem Dev.upTo_rd (d : Dev) (t : Int) (f : RegField) (i : Nat) : (d.upTo t).rd f i = d.rd f i := rfl
@[simp] theorem Dev.upTo_out (d : Dev) (t : Int) : (d.upTo t).out = d.out := rfl
@[simp] theorem ttOut_upTo (d : Dev) (t : Int) (k : Nat) : ttOut (d.upTo t) k = ttOut d k := rfl

theorem ttOut_of_tb {d e : Dev} (h : e.tb = d.tb) (k : Nat) : ttOut e k = ttOut d k := by unfold ttOut; rw [h]

@[simp] theorem ttOut_cleared (d : Dev) (k : Nat) : ttOut d.cleared k = ttOut d k := rfl
@[simp] theorem ttOut_wr (d : Dev) (f : RegField) (i v k : Nat) : ttOut (d.wr f i v) k = ttOut d k := rfl
@[simp] theorem ttOut_emit (d : Dev) (o : Output) (k : Nat) : ttOut (d.emit o) k = ttOut d k := rfl
@[simp] theorem setTtOut_rd (d : Dev) (k : Nat) (t : TtOut) (f : RegField) (i : Nat) : (setTtOut d k t).rd f i = d.rd f i := rfl
@[simp] theorem setTtOut_out (d : Dev) (k : Nat) (t : TtOut) : (setTtOut d k t).out = d.out := rfl

/-- The land is at its active level while a pulse runs (R69). -/
theorem ttLevel_active {d : Dev} {k : Nat} {t : Int} (h : (ttOut d k).pulseEnd = some t) :
    ttLevel d k = decide (d.rd BLF_TT_CTRL_POL k = 0) := by
  by_cases hp : d.rd BLF_TT_CTRL_POL k = 0 <;> simp [ttLevel, Dev.on, h, hp]

theorem ttLevel_inactive {d : Dev} {k : Nat} (h : (ttOut d k).pulseEnd = none) :
    ttLevel d k = decide (d.rd BLF_TT_CTRL_POL k ≠ 0) := by
  by_cases hp : d.rd BLF_TT_CTRL_POL k = 0 <;> simp [ttLevel, Dev.on, h, hp]

/-! What a trigger source may change. -/

section Frames
variable {a d : Dev} {fs : List RegField} {es : List (RegField × Nat)} {ps : List Part}

theorem SameBut.adc (h : SameBut a d fs es ps) (x : AdcState) (hp : .adc ∈ ps) : SameBut a { d with adc := x } fs es ps :=
  ⟨h.regs, fun p hn => by cases p with | adc => exact absurd hp hn | _ => exact h.rest _ hn⟩

theorem SameBut.smy0 (h : SameBut a d fs es ps) (x : SmyCore) (hp : .smy0 ∈ ps) : SameBut a { d with smy0 := x } fs es ps :=
  ⟨h.regs, fun p hn => by cases p with | smy0 => exact absurd hp hn | _ => exact h.rest _ hn⟩

theorem SameBut.smy1 (h : SameBut a d fs es ps) (x : SmyCore) (hp : .smy1 ∈ ps) : SameBut a { d with smy1 := x } fs es ps :=
  ⟨h.regs, fun p hn => by cases p with | smy1 => exact absurd hp hn | _ => exact h.rest _ hn⟩

theorem SameBut.upTo (h : SameBut a d fs es ps) (t : Int) (hp : .tb ∈ ps) : SameBut a (d.upTo t) fs es ps := h.tb _ hp

theorem SameBut.setTtOut (h : SameBut a d fs es ps) (k : Nat) (t : TtOut) (hp : .tb ∈ ps) :
    SameBut a (Machine.setTtOut d k t) fs es ps := h.tb _ hp

theorem SameBut.fireAdc (h : SameBut a d fs es ps) (code : Nat) (hp : .adc ∈ ps) : SameBut a (Machine.fireAdc d code) fs es ps := by
  unfold Machine.fireAdc
  split
  · exact h.adc _ hp
  · exact h

theorem SameBut.fireSmy (h : SameBut a d fs es ps) (n code : Nat) (h0 : .smy0 ∈ ps) (h1 : .smy1 ∈ ps) :
    SameBut a (Machine.fireSmy d n code) fs es ps := by
  unfold Machine.fireSmy smyTrigger onSmy
  split
  · split
    · exact h.smy0 _ h0
    · exact h.smy1 _ h1
  · exact h

theorem SameBut.fire (h : SameBut a d fs es ps) (code : Nat) (hp : .adc ∈ ps) (h0 : .smy0 ∈ ps) (h1 : .smy1 ∈ ps) :
    SameBut a (d.fire code) fs es ps := ((h.fireAdc code hp).fireSmy 0 code h0 h1).fireSmy 1 code h0 h1

end Frames

theorem Dev.fire_sameBut (d : Dev) (code : Nat) : SameBut d (d.fire code) [] [] [.adc, .smy0, .smy1] :=
  (SameBut.refl _ _ _ _).fire code (by simp) (by simp) (by simp)

@[simp] theorem ttOut_fire (d : Dev) (code k : Nat) : ttOut (d.fire code) k = ttOut d k :=
  ttOut_of_tb ((d.fire_sameBut code).rest .tb (by simp)) k

@[simp] theorem Dev.fire_rd (d : Dev) (code : Nat) (f : RegField) (i : Nat) : (d.fire code).rd f i = d.rd f i :=
  (d.fire_sameBut code).rd_eq f i (by simp) (by simp)

@[simp] theorem fireAdc_out (d : Dev) (code : Nat) : (fireAdc d code).out = d.out := by
  unfold fireAdc; split <;> rfl

@[simp] theorem fireSmy_out (d : Dev) (n code : Nat) : (fireSmy d n code).out = d.out := by
  unfold fireSmy smyTrigger onSmy; split_ifs <;> rfl

@[simp] theorem Dev.fire_out (d : Dev) (code : Nat) : (d.fire code).out = d.out := by simp [Dev.fire]

/-! What a completed command leaves alone, and what it answers. -/

theorem Completes.touches {c : Instr} {s : State} {es : List (RegField × Nat)} {ps : List Part} {post : Dev → Prop}
    (h : Completes c s es ps post) : Touches c s [] es ps :=
  let ⟨t, ht, hq, hs, _⟩ := h
  ⟨t, ht, hq, hs⟩

theorem Completes.answers {c : Instr} {s : State} {es : List (RegField × Nat)} {ps : List Part} {post : Dev → Prop}
    (h : Completes c s es ps post) : Answers c s post :=
  let ⟨t, ht, hq, _, hp⟩ := h
  ⟨t, ht, hq, hp⟩

/-! A pulse. -/

section Pulse
variable {d : Dev} {k : Nat}

theorem ttPulse_sameBut (d : Dev) (k : Nat) (t : Int) (next : Option Int) :
    SameBut d (ttPulse d k t next) [] [] [.tb, .adc, .smy0, .smy1] := by
  have h := (SameBut.refl d [] [] [.tb, .adc, .smy0, .smy1]).upTo t (by simp)
  unfold ttPulse
  dsimp only
  split
  · exact h.setTtOut k _ (by simp)
  · exact ((h.setTtOut k _ (by simp)).fire _ (by simp) (by simp) (by simp)).emit _

/-- In Quarantine the pulse is passed over: device time reaches it and the next one is armed (R472). -/
theorem ttPulse_quarantined (h : d.rd GRP_STATUS_QUARANTINED ≠ 0) (t : Int) (next : Option Int) :
    ttPulse d k t next = setTtOut (d.upTo t) k { ttOut d k with nextEdge := next } := if_pos (bne_iff_ne.2 h)

/-- The output with a pulse begun at `t`, or at once where device time has passed it. -/
def pulsed (d : Dev) (k : Nat) (t : Int) (next : Option Int) : TtOut :=
  { ttOut d k with nextEdge := next, pulseEnd := some (trunc8 (trunc8 (max d.tb.ext t) + d.rd BLF_TT_WIDTH_NS k)) }

/-- The device at the start of that pulse. -/
def pulseBegun (d : Dev) (k : Nat) (t : Int) (next : Option Int) : Dev := setTtOut (d.upTo t) k (pulsed d k t next)

/-- Outside Quarantine the pulse fires its trigger source (R398) and shows at the land. -/
theorem ttPulse_begun (h : d.rd GRP_STATUS_QUARANTINED = 0) (t : Int) (next : Option Int) :
    ttPulse d k t next = ((pulseBegun d k t next).fire (4 + k)).emit (.ttLevel k (decide (d.rd BLF_TT_CTRL_POL k = 0))) := by
  have hlevel : ttLevel (pulseBegun d k t next) k = decide (d.rd BLF_TT_CTRL_POL k = 0) :=
    ttLevel_active (d := pulseBegun d k t next) (by simp [pulseBegun, pulsed]; rfl)
  rw [← hlevel]
  unfold ttPulse
  rw [if_neg (by simpa [Dev.on] using h)]
  rfl

theorem ttPulse_starts (h : d.rd GRP_STATUS_QUARANTINED = 0) (t : Int) (next : Option Int) :
    ttOut (ttPulse d k t next) k = pulsed d k t next ∧
      (ttPulse d k t next).out = d.out ++ [.ttLevel k (decide (d.rd BLF_TT_CTRL_POL k = 0))] := by
  rw [ttPulse_begun h]
  simp [pulseBegun]

end Pulse

/-! The commands. -/

section Commands
variable {s : State} {k : Fin 8} {t : Int}

theorem exec_ttPulseStart (k : Fin 8) (s : State) : exec (.ttPulseStart k) s = execTtPulseStart k s := rfl
theorem exec_ttPulseEnd (k : Fin 8) (s : State) : exec (.ttPulseEnd k) s = execTtPulseEnd k s := rfl

theorem ttPulseStart_oneShot (hm : s.dev.rd BLF_TT_CTRL_MODE k = 1) (ht : (ttOut s.dev k).nextEdge = some t)
    (hq : s.dev.rd GRP_STATUS_QUARANTINED = 0) :
    Completes (.ttPulseStart k) s [(BLF_TT_CTRL_ARMED, k)] [.tb, .adc, .smy0, .smy1] fun e => e.rd BLF_TT_CTRL_ARMED k = 0 ∧
      ttOut e k = pulsed s.dev k (trunc8 t) none ∧ e.out = [.ttLevel k (decide (s.dev.rd BLF_TT_CTRL_POL k = 0))] := by
  obtain ⟨hout, hland⟩ := ttPulse_starts (d := s.dev.cleared) (k := k) hq (trunc8 t) none
  refine .of_result (exec_ttPulseStart ..) (e := (ttPulse s.dev.cleared k (trunc8 t) none).wr BLF_TT_CTRL_ARMED k 0)
    (by simp only [Dev.cleared_rd, ttOut_cleared, hm, ht]) ?_ ⟨by simp, hout, hland⟩
  exact SameBut.wr ((ttPulse_sameBut ..).mono (by simp) (by simp) (by simp)) _ _ _ (by simp)

theorem ttPulseStart_periodic (hm : s.dev.rd BLF_TT_CTRL_MODE k = 2) (ht : (ttOut s.dev k).nextEdge = some t)
    (hq : s.dev.rd GRP_STATUS_QUARANTINED = 0) :
    Answers (.ttPulseStart k) s fun e => ttOut e k = pulsed s.dev k (trunc8 t) (some (t + s.dev.rd BLF_TT_PERIOD_NS k)) ∧
      e.out = [.ttLevel k (decide (s.dev.rd BLF_TT_CTRL_POL k = 0))] :=
  .of_result (exec_ttPulseStart ..) (e := ttPulse s.dev.cleared k (trunc8 t) (some (t + s.dev.rd BLF_TT_PERIOD_NS k)))
    (by simp only [Dev.cleared_rd, ttOut_cleared, hm, ht]) (ttPulse_starts (d := s.dev.cleared) hq ..)

/-- The device whose output `k` has taken its frame-locked pulse of this frame. -/
def frameFired (d : Dev) (k : Nat) : Dev := setTtOut d k { ttOut d k with firedIn := some d.frameNo }

theorem ttPulseStart_frameLocked (hm : s.dev.rd BLF_TT_CTRL_MODE k = 3) (htick : s.dev.tb.ticking = true)
    (hq : s.dev.rd GRP_STATUS_QUARANTINED = 0)
    (hf : s.dev.frameNo % (s.dev.rd BLF_TT_DIV_DIV k + 1) = s.dev.rd BLF_TT_DIV_PHASE k)
    (hn : (ttOut s.dev k).firedIn ≠ some s.dev.frameNo) :
    Answers (.ttPulseStart k) s fun e => (ttOut e k).firedIn = some s.dev.frameNo ∧
      (ttOut e k).pulseEnd = some (trunc8 (trunc8 (max s.dev.tb.ext (trunc8 (s.dev.tb.tickAt + s.dev.rd BLF_TT_START_NS k))) +
        s.dev.rd BLF_TT_WIDTH_NS k)) ∧
      e.out = [.ttLevel k (decide (s.dev.rd BLF_TT_CTRL_POL k = 0))] := by
  obtain ⟨hout, hland⟩ := ttPulse_starts (d := frameFired s.dev.cleared k) (k := k) hq
    (trunc8 (s.dev.tb.tickAt + s.dev.rd BLF_TT_START_NS k)) none
  refine .of_result (exec_ttPulseStart ..)
    (e := ttPulse (frameFired s.dev.cleared k) k (trunc8 (s.dev.tb.tickAt + s.dev.rd BLF_TT_START_NS k)) none) ?_ ⟨?_, ?_, hland⟩
  · simp only [Dev.cleared_rd, hm]
    exact if_pos ⟨htick, hf, hn⟩
  · rw [hout]
    simp [pulsed, frameFired]
  · rw [hout]
    rfl

theorem ttPulseStart_quarantined (hm : s.dev.rd BLF_TT_CTRL_MODE k = 2) (ht : (ttOut s.dev k).nextEdge = some t)
    (hq : s.dev.rd GRP_STATUS_QUARANTINED ≠ 0) :
    Completes (.ttPulseStart k) s [] [.tb] fun e => e.out = [] ∧ (ttOut e k).pulseEnd = (ttOut s.dev k).pulseEnd := by
  have he := ttPulse_quarantined (d := s.dev.cleared) (k := k) hq (trunc8 t) (some (t + s.dev.rd BLF_TT_PERIOD_NS k))
  refine .of_result (exec_ttPulseStart ..) (.trans (by simp only [Dev.cleared_rd, ttOut_cleared, hm, ht]) he) ?_ (by simp)
  exact ((SameBut.refl _ _ _ _).upTo _ (by simp)).setTtOut _ _ (by simp)

/-- The device as the pulse of output `k` ends at `t`. -/
def pulseOver (d : Dev) (k : Nat) (t : Int) : Dev := setTtOut (d.upTo t) k { ttOut d k with pulseEnd := none }

theorem ttPulseEnd_ends (ht : (ttOut s.dev k).pulseEnd = some t) :
    Completes (.ttPulseEnd k) s [] [.tb] fun e =>
      (ttOut e k).pulseEnd = none ∧ (ttOut e k).nextEdge = (ttOut s.dev k).nextEdge ∧
        e.out = [.ttLevel k (decide (s.dev.rd BLF_TT_CTRL_POL k ≠ 0))] := by
  have hland : ttLevel (pulseOver s.dev.cleared k t) k = decide (s.dev.rd BLF_TT_CTRL_POL k ≠ 0) := ttLevel_inactive (by simp [pulseOver])
  refine .of_result (exec_ttPulseEnd ..) (e := (pulseOver s.dev.cleared k t).emit (.ttLevel k (decide (s.dev.rd BLF_TT_CTRL_POL k ≠ 0)))) ?_ ?_
    (by simp [pulseOver])
  · rw [← hland]
    simp only [ttOut_cleared, ht]
    rfl
  · exact (((SameBut.refl _ _ _ _).upTo _ (by simp)).setTtOut _ _ (by simp)).emit _

end Commands

/-- Settles O8: what each mode of an output has due (`ttPulseStart_oneShot`, `_periodic`, `_frameLocked`), and the end of a pulse. -/
theorem timeTriggeredPulses : Obligations.TimeTriggeredPulses :=
  ⟨fun _ _ _ hm ht hq => ⟨(ttPulseStart_oneShot hm ht hq).touches, (ttPulseStart_oneShot hm ht hq).answers⟩,
    fun _ _ _ hm ht hq => ttPulseStart_periodic hm ht hq,
    fun _ _ hm htick hq hf hn => ttPulseStart_frameLocked hm htick hq hf hn, fun _ _ _ hm ht hq => ttPulseStart_quarantined hm ht hq,
    fun _ _ _ ht => ttPulseEnd_ends ht⟩

end Sys2Proof.Machine
end

section
/-!
SUPPORT. PTP on the Ethernet ports (R62, R63, Tables 2-5 and 2-6): the state of a port, and what each message does.
-/
namespace Sys2Proof.Machine
open RegField

/-! The state of a port. -/

@[simp] theorem ptpPort_setPtpPort (d : Dev) (p : Nat) (v : PtpPort) : ptpPort (setPtpPort d p v) p = v := by
  unfold ptpPort setPtpPort
  split <;> rfl

@[simp] theorem setPtpPort_rd (d : Dev) (p : Nat) (v : PtpPort) (f : RegField) (i : Nat) : (setPtpPort d p v).rd f i = d.rd f i := by
  unfold setPtpPort
  split <;> rfl

@[simp] theorem setPtpPort_out (d : Dev) (p : Nat) (v : PtpPort) : (setPtpPort d p v).out = d.out := by
  unfold setPtpPort
  split <;> rfl

theorem SameBut.setPtpPort {a d : Dev} {fs : List RegField} {es : List (RegField × Nat)} {ps : List Part} (h : SameBut a d fs es ps)
    (p : Nat) (v : PtpPort) (hp : .tb ∈ ps) : SameBut a (Machine.setPtpPort d p v) fs es ps := by
  unfold Machine.setPtpPort
  split <;> exact h.tb _ hp

/-- A port whose number selects it as the source delivers its offset to the discipline (Table 2-3). -/
theorem sourceOffset_selectedPort {d : Dev} {p : Fin 2} (h : d.rd BLF_CFG_SOURCE = p + 1) : sourceOffset d = (ptpPort d p).offset := by
  unfold sourceOffset
  rw [h]
  match p with
  | 0 => rfl
  | 1 => rfl

@[simp] theorem ptpPort_cleared (d : Dev) (p : Nat) : ptpPort d.cleared p = ptpPort d p := rfl
@[simp] theorem ptpAccepts_cleared (d : Dev) (p domain : Nat) : ptpAccepts d.cleared p domain = ptpAccepts d p domain := rfl
@[simp] theorem ptpIsMaster_cleared (d : Dev) (p : Nat) : ptpIsMaster d.cleared p = ptpIsMaster d p := rfl
@[simp] theorem masterTaken_cleared (d : Dev) (p : Nat) (c : PtpClock) : masterTaken d.cleared p c = masterTaken d p c := rfl

section Port
variable {s : State} {p : Fin 2} {dom seq : Nat}

theorem exec_ptpSyncReceived (p : Fin 2) (two : Bool) (dom seq : Nat) (c : PtpClock) (s : State) :
    exec (.ptpSyncReceived p two dom seq c) s = execPtpSyncReceived p two dom seq c s := rfl
theorem exec_ptpFollowUpReceived (p : Fin 2) (dom seq : Nat) (t1 : Int) (s : State) :
    exec (.ptpFollowUpReceived p dom seq t1) s = execPtpFollowUpReceived p dom seq t1 s := rfl
theorem exec_ptpDelayRespReceived (p : Fin 2) (dom seq : Nat) (rx tx : Int) (s : State) :
    exec (.ptpDelayRespReceived p dom seq rx tx) s = execPtpDelayRespReceived p dom seq rx tx s := rfl
theorem exec_ptpDelayReqReceived (p : Fin 2) (dom seq : Nat) (s : State) :
    exec (.ptpDelayReqReceived p dom seq) s = execPtpDelayReqReceived p dom seq s := rfl
theorem exec_ptpSyncTransmit (p : Fin 2) (s : State) : exec (.ptpSyncTransmit p) s = execPtpSyncTransmit p s := rfl
theorem exec_ptpDelayReqTransmit (p : Fin 2) (s : State) : exec (.ptpDelayReqTransmit p) s = execPtpDelayReqTransmit p s := rfl

/-! A port that is not enabled. -/

theorem ptpAccepts_disabled {d : Dev} {p : Nat} (h : d.rd BLF_PTP_CFG_EN p = 0) (dom : Nat) : ptpAccepts d p dom = false := by
  simp [ptpAccepts, Dev.on, h]

theorem ptpIsMaster_disabled {d : Dev} {p : Nat} (h : d.rd BLF_PTP_CFG_EN p = 0) : ptpIsMaster d p = false := by
  simp [ptpIsMaster, Dev.on, h]

theorem ptp_disabled (h : s.dev.rd BLF_PTP_CFG_EN p = 0) (two : Bool) (dom seq : Nat) (x y : Int) (c : PtpClock) :
    Completes (.ptpSyncReceived p two dom seq c) s [] [] (fun e => e.out = []) ∧
    Completes (.ptpFollowUpReceived p dom seq x) s [] [] (fun e => e.out = []) ∧
    Completes (.ptpDelayRespReceived p dom seq x y) s [] [] (fun e => e.out = []) ∧
    Completes (.ptpDelayReqReceived p dom seq) s [] [] (fun e => e.out = []) ∧
    Completes (.ptpSyncTransmit p) s [] [] (fun e => e.out = []) ∧
    Completes (.ptpDelayReqTransmit p) s [] [] (fun e => e.out = []) := by
  have hacc : ptpAccepts s.dev p dom = false := ptpAccepts_disabled h dom
  refine ⟨?sync, ?followUp, ?resp, ?req, ?sendSync, ?sendReq⟩
  case sync => exact .of_unchanged (exec_ptpSyncReceived ..) (by simp [hacc])
  case followUp => exact .of_unchanged (exec_ptpFollowUpReceived ..) (by simp [hacc])
  case resp => exact .of_unchanged (exec_ptpDelayRespReceived ..) (by simp [hacc])
  case req => exact .of_unchanged (exec_ptpDelayReqReceived ..) (by simp [hacc])
  case sendSync => exact .of_unchanged (exec_ptpSyncTransmit ..) (by simp [ptpIsMaster_disabled h])
  case sendReq => exact .of_unchanged (exec_ptpDelayReqTransmit ..) (by simp [Dev.on, h])

/-! Sync and Follow_Up. -/

theorem ptpSync_oneStep (c : PtpClock) (ha : ptpAccepts s.dev p dom = true) :
    Completes (.ptpSyncReceived p false dom seq c) s [(BLF_PTP_CFG_ONESTEP_CNT, p)] [] fun e =>
      e.rd BLF_PTP_CFG_ONESTEP_CNT p = s.dev.countUp BLF_PTP_CFG_ONESTEP_CNT p :=
  .of_result (exec_ptpSyncReceived ..) (e := s.dev.cleared.inc BLF_PTP_CFG_ONESTEP_CNT p) (by simp [ha])
    ((SameBut.refl _ _ _ _).wr _ _ _ (by simp)) (by simp [Dev.countUp])

theorem ptpSync_stamped {c : PtpClock} (ha : ptpAccepts s.dev p dom = true) (hm : masterTaken s.dev p c = true) :
    Completes (.ptpSyncReceived p true dom seq c) s [] [.tb] fun e =>
      ptpPort e p = { ptpPort s.dev p with syncWait := some (seq, ptpRxStamp s.dev p), best := some (c, s.dev.tb.ext) } :=
  .of_result (exec_ptpSyncReceived ..)
    (e := setPtpPort s.dev.cleared p { ptpPort s.dev p with syncWait := some (seq, ptpRxStamp s.dev p), best := some (c, s.dev.tb.ext) })
    (by simp only [ptpAccepts_cleared, ha, masterTaken_cleared, hm]; rfl) ((SameBut.refl _ _ _ _).setPtpPort _ _ (by simp)) (by simp)

theorem ptpSync_worseMaster {c : PtpClock} (hm : masterTaken s.dev p c = false) :
    Completes (.ptpSyncReceived p true dom seq c) s [] [] fun e => e.out = [] :=
  .of_unchanged (exec_ptpSyncReceived ..) (by simp [hm])

/-- The port with the Sync stamped `t2` complete by its origin stamp `t1`. -/
def syncComplete (d : Dev) (p : Nat) (t1 t2 : Int) : PtpPort :=
  { ptpPort d p with
    syncWait := none, lastSync := some (t1, t2)
    offset := if ptpIsMaster d p then none else ptpOffset { ptpPort d p with syncWait := none, lastSync := some (t1, t2) } }

theorem ptpFollowUp_completes {t1 t2 : Int} (ha : ptpAccepts s.dev p dom = true) (hw : (ptpPort s.dev p).syncWait = some (seq, t2)) :
    Completes (.ptpFollowUpReceived p dom seq t1) s [] [.tb] fun e =>
      (ptpPort e p).syncWait = none ∧ (ptpPort e p).lastSync = some (t1, t2) ∧
        (ptpIsMaster s.dev p = true → (ptpPort e p).offset = none) ∧
        ∀ dd, ptpIsMaster s.dev p = false → (ptpPort s.dev p).delay2 = some dd →
          (ptpPort e p).offset = some (t1 + floorDiv dd 2 - t2) ∧
            (s.dev.rd BLF_CFG_SOURCE = p + 1 → sourceOffset e = some (t1 + floorDiv dd 2 - t2)) := by
  have hport : ptpPort (setPtpPort s.dev.cleared p (syncComplete s.dev p t1 t2)) p = syncComplete s.dev p t1 t2 := ptpPort_setPtpPort ..
  refine .of_result (exec_ptpFollowUpReceived ..) (e := setPtpPort s.dev.cleared p (syncComplete s.dev p t1 t2)) ?_
    ((SameBut.refl _ _ _ _).setPtpPort _ _ (by simp)) ⟨?_, ?_, fun hm => ?_, fun dd hm hd => ?_⟩
  · simp only [ptpAccepts_cleared, ha, ptpPort_cleared, hw, if_true, ptpIsMaster_cleared]
    rfl
  · rw [hport]; rfl
  · rw [hport]; rfl
  · rw [hport]; exact if_pos hm
  · have hoff : (syncComplete s.dev p t1 t2).offset = some (t1 + floorDiv dd 2 - t2) := by simp [syncComplete, ptpOffset, hm, hd]
    refine ⟨by rw [hport, hoff], fun hsel => ?_⟩
    rw [sourceOffset_selectedPort (by simpa using hsel), hport, hoff]

/-! Delay requests and their answers. -/

theorem ptpDelayResp_peer {rx tx t3 : Int} (ha : ptpAccepts s.dev p dom = true) (hw : (ptpPort s.dev p).reqWait = some (seq, t3))
    (hd : s.dev.rd BLF_PTP_CFG_DELAY p ≠ 0) :
    Completes (.ptpDelayRespReceived p dom seq rx tx) s [] [.tb] fun e =>
      (ptpPort e p).delay2 = some (ptpRxStamp s.dev p - t3 - (tx - rx)) :=
  .of_result (exec_ptpDelayRespReceived ..)
    (e := setPtpPort s.dev.cleared p { ptpPort s.dev p with reqWait := none, delay2 := some (ptpRxStamp s.dev p - t3 - (tx - rx)) })
    (by simp only [ptpAccepts_cleared, ha, ptpPort_cleared, hw, if_true]; exact if_pos (bne_iff_ne.2 hd))
    ((SameBut.refl _ _ _ _).setPtpPort _ _ (by simp)) (by simp)

theorem ptpDelayResp_endToEnd {rx tx t1 t2 t3 : Int} (ha : ptpAccepts s.dev p dom = true)
    (hw : (ptpPort s.dev p).reqWait = some (seq, t3)) (hd : s.dev.rd BLF_PTP_CFG_DELAY p = 0)
    (hs : (ptpPort s.dev p).lastSync = some (t1, t2)) :
    Completes (.ptpDelayRespReceived p dom seq rx tx) s [] [.tb] fun e => (ptpPort e p).delay2 = some ((t2 - t1) + (rx - t3)) :=
  .of_result (exec_ptpDelayRespReceived ..)
    (e := setPtpPort s.dev.cleared p { ptpPort s.dev p with reqWait := none, delay2 := some ((t2 - t1) + (rx - t3)) })
    (by simp only [ptpAccepts_cleared, ha, ptpPort_cleared, hw, if_true, hs]; exact if_neg (by simp [Dev.on, hd]))
    ((SameBut.refl _ _ _ _).setPtpPort _ _ (by simp)) (by simp)

theorem ptpDelayReq_peer (ha : ptpAccepts s.dev p dom = true) (hd : s.dev.rd BLF_PTP_CFG_DELAY p ≠ 0) :
    Completes (.ptpDelayReqReceived p dom seq) s [] [] fun e =>
      e.out = [.ptp p (.pdelayResp seq (served s.dev (ptpRxStamp s.dev p)) (served s.dev (ptpTxStamp s.dev p)))] :=
  .of_result (exec_ptpDelayReqReceived ..)
    (e := s.dev.cleared.emit (.ptp p (.pdelayResp seq (served s.dev (ptpRxStamp s.dev p)) (served s.dev (ptpTxStamp s.dev p)))))
    (by simp only [ptpAccepts_cleared, ha, if_true]; exact if_pos (bne_iff_ne.2 hd)) ((SameBut.refl _ _ _ _).emit _) (by simp)

theorem ptpDelayReq_endToEnd (ha : ptpAccepts s.dev p dom = true) (hd : s.dev.rd BLF_PTP_CFG_DELAY p = 0)
    (hm : ptpIsMaster s.dev p = true) :
    Completes (.ptpDelayReqReceived p dom seq) s [] [] fun e =>
      e.out = [.ptp p (.delayResp seq (served s.dev (ptpRxStamp s.dev p)))] :=
  .of_result (exec_ptpDelayReqReceived ..) (e := s.dev.cleared.emit (.ptp p (.delayResp seq (served s.dev (ptpRxStamp s.dev p)))))
    (by simp only [ptpAccepts_cleared, ha, if_true, ptpIsMaster_cleared, hm]; exact if_neg (by simp [Dev.on, hd]))
    ((SameBut.refl _ _ _ _).emit _) (by simp)

/-! What a port sends. -/

/-- What a master port sends each Sync interval. -/
def syncMessages (d : Dev) (p : Nat) : List Output :=
  [.ptp p (.announce (announced d)), .ptp p (.sync (ptpPort d p).syncSeq),
    .ptp p (.followUp (ptpPort d p).syncSeq (served d (ptpTxStamp d p)))]

theorem ptpSyncTransmit_master (hm : ptpIsMaster s.dev p = true) :
    Completes (.ptpSyncTransmit p) s [] [.tb] fun e =>
      e.out = syncMessages s.dev p ∧ (ptpPort e p).syncSeq = ((ptpPort s.dev p).syncSeq + 1) % 2 ^ 16 := by
  refine .of_result (exec_ptpSyncTransmit ..) (if_pos hm) ?_ ⟨?_, by simp⟩
  · exact ((((SameBut.refl _ _ _ _).emit _).emit _).emit _).setPtpPort _ _ (by simp)
  · simp only [setPtpPort_out]
    rfl

/-- The device with the request `msg` of port `p` sent and its transmit stamp kept. -/
def requestSent (d : Dev) (p : Nat) (msg : PtpMsg) : Dev :=
  setPtpPort (d.emit (.ptp p msg)) p
    { ptpPort d p with reqWait := some ((ptpPort d p).reqSeq, ptpTxStamp d p), reqSeq := ((ptpPort d p).reqSeq + 1) % 2 ^ 16 }

theorem ptpDelayReqTransmit_sends (he : s.dev.rd BLF_PTP_CFG_EN p ≠ 0) (hm : ptpIsMaster s.dev p = false) :
    Completes (.ptpDelayReqTransmit p) s [] [.tb] fun e =>
      e.out = [.ptp p (if s.dev.rd BLF_PTP_CFG_DELAY p = 0 then .delayReq (ptpPort s.dev p).reqSeq else .pdelayReq (ptpPort s.dev p).reqSeq)] ∧
      (ptpPort e p).reqWait = some ((ptpPort s.dev p).reqSeq, ptpTxStamp s.dev p) := by
  refine .of_result (exec_ptpDelayReqTransmit ..) (e := requestSent s.dev.cleared p
    (if s.dev.rd BLF_PTP_CFG_DELAY p = 0 then .delayReq (ptpPort s.dev p).reqSeq else .pdelayReq (ptpPort s.dev p).reqSeq)) ?_
    (((SameBut.refl _ _ _ _).emit _).setPtpPort _ _ (by simp)) ⟨by simp [requestSent], by simp [requestSent]; rfl⟩
  by_cases hd : s.dev.rd BLF_PTP_CFG_DELAY p = 0 <;> simp [Dev.on, he, hd, hm, requestSent]

end Port

/-- Settles O7: each message of a port is the lemma above that its kind, the port's role and its delay mechanism name. -/
theorem ptpMessages : Obligations.PtpMessages :=
  ⟨fun _ _ two dom seq x y c h => ptp_disabled h two dom seq x y c, fun _ _ _ _ c ha => ptpSync_oneStep c ha,
    fun _ _ _ _ _ ha hm => ptpSync_stamped ha hm, fun _ _ _ _ _ hm => ptpSync_worseMaster hm,
    fun _ _ _ _ _ _ ha hw => ptpFollowUp_completes ha hw, fun _ _ _ _ _ _ _ ha hw hd => ptpDelayResp_peer ha hw hd,
    fun _ _ _ _ _ _ _ _ _ ha hw hd hs => ptpDelayResp_endToEnd ha hw hd hs, fun _ _ _ _ ha hd => ptpDelayReq_peer ha hd,
    fun _ _ _ _ ha hd hm => ptpDelayReq_endToEnd ha hd hm, fun _ _ hm => ptpSyncTransmit_master hm,
    fun _ _ he hm => ptpDelayReqTransmit_sends he hm⟩

end Sys2Proof.Machine
end

section
/-!
SUPPORT. The discipline of device time (Table 2-4, R56 to R61, R510): what the state and the time base read as after an update, and what
each operation of the discipline comes to.
-/
namespace Sys2Proof.Machine
open RegField

/-! Signed fields. -/

theorem fieldOf_lt (w : Nat) (x : Int) : fieldOf w x < 2 ^ w := by
  have h0 : (0 : Int) < 2 ^ w := by positivity
  have h1 := Int.emod_lt_of_pos x h0
  have h2 := Int.emod_nonneg x h0.ne'
  unfold fieldOf
  zify
  rwa [Int.toNat_of_nonneg h2]

theorem saturate_range {w : Nat} (x : Int) : -(2 ^ (w - 1)) ≤ saturate w x ∧ saturate w x < 2 ^ (w - 1) := by
  have hpos : (0 : Int) < 2 ^ (w - 1) := by positivity
  unfold saturate clampInt
  push_cast
  split_ifs <;> omega

/-- A field holds every number of its range. -/
theorem signedOf_fieldOf {w : Nat} {y : Int} (hw : 0 < w) (hl : -(2 ^ (w - 1)) ≤ y) (hh : y < 2 ^ (w - 1)) :
    signedOf w (fieldOf w y) = y := by
  have hdouble : (2 : Int) ^ w = 2 * 2 ^ (w - 1) := by rw [← pow_succ', Nat.sub_add_cancel hw]
  have hcast : ((fieldOf w y : Nat) : Int) = y % 2 ^ w := Int.toNat_of_nonneg (Int.emod_nonneg _ (by positivity))
  have hmod : y % 2 ^ w = if 0 ≤ y then y else y + 2 ^ w := by
    split_ifs with h
    · exact Int.emod_eq_of_lt h (by omega)
    · rw [← Int.add_emod_right]
      exact Int.emod_eq_of_lt (by omega) (by omega)
  have hhalf : fieldOf w y < 2 ^ (w - 1) ↔ 0 ≤ y := by
    zify
    rw [hcast, hmod]
    split_ifs <;> omega
  unfold signedOf
  rw [Nat.mod_eq_of_lt (fieldOf_lt w y), hcast, hmod]
  simp only [hhalf]
  split_ifs <;> omega

/-- A signed register reads the number written, limited to its range (R9). -/
theorem Dev.rdI_wrI (d : Dev) (f : RegField) (i : Nat) (v : Int) (hw : 0 < f.width) : (d.wrI f i v).rdI f i = saturate f.width v := by
  obtain ⟨hl, hh⟩ := saturate_range (w := f.width) v
  unfold Dev.rdI
  rw [Dev.wrI_eq, Dev.rd_wr, if_pos ⟨rfl, rfl⟩, Nat.mod_eq_of_lt (fieldOf_lt _ _), signedOf_fieldOf hw hl hh]

theorem Dev.rdI_of_rd {d e : Dev} {f : RegField} {i : Nat} (h : e.rd f i = d.rd f i) : e.rdI f i = d.rdI f i := congrArg _ h

/-! The time base of a device. -/

/-- The device with another time base. -/
def Dev.withTb (d : Dev) (x : TimeBase) : Dev := { d with tb := x }

@[simp] theorem Dev.withTb_rd (d : Dev) (x : TimeBase) (f : RegField) (i : Nat) : (d.withTb x).rd f i = d.rd f i := rfl
@[simp] theorem Dev.withTb_tb (d : Dev) (x : TimeBase) : (d.withTb x).tb = x := rfl
@[simp] theorem Dev.withTb_log (d : Dev) (x : TimeBase) : (d.withTb x).log = d.log := rfl
@[simp] theorem Dev.withTb_rdI (d : Dev) (x : TimeBase) (f : RegField) (i : Nat) : (d.withTb x).rdI f i = d.rdI f i := rfl

theorem SameBut.withTb {a d : Dev} {fs : List RegField} {es : List (RegField × Nat)} {ps : List Part} (h : SameBut a d fs es ps)
    (x : TimeBase) (hp : .tb ∈ ps) : SameBut a (d.withTb x) fs es ps := h.tb x hp

/-! The state of the discipline. -/

theorem timeState_of_rd {d e : Dev} (h : e.rd BLF_STATUS_STATE = d.rd BLF_STATUS_STATE) : timeState e = timeState d := by
  unfold timeState
  rw [h]

@[simp] theorem timeState_cleared (d : Dev) : timeState d.cleared = timeState d := rfl
@[simp] theorem timeState_withTb (d : Dev) (x : TimeBase) : timeState (d.withTb x) = timeState d := rfl

@[simp] theorem timeState_wr (d : Dev) (f : RegField) (i v : Nat) (h : f ≠ BLF_STATUS_STATE) : timeState (d.wr f i v) = timeState d :=
  timeState_of_rd (by simp [h.symm])

@[simp] theorem timeState_record (d : Dev) (c s i x : Nat) : timeState (d.record c s i x) = timeState d :=
  timeState_of_rd (by simp)

@[simp] theorem setTimeState_eq (d : Dev) (x : TimeState) : setTimeState d x = d.wr BLF_STATUS_STATE 0 (timeStateCode x) := rfl

@[simp] theorem timeState_entered (d : Dev) (x : TimeState) : timeState (d.wr BLF_STATUS_STATE 0 (timeStateCode x)) = x := by
  cases x <;> simp [timeState, timeStateCode]

/-! Records of the time base. -/

theorem Dev.logged_of_log {d e : Dev} (h : e.log = d.log) {x : Ev} {source index detail : Nat} (hd : d.logged x source index detail) :
    e.logged x source index detail := by
  unfold Dev.logged
  rw [h]
  exact hd

theorem Dev.event_logged (d : Dev) (x : Ev) (source : Nat) (h : d.rd PWR_STATUS_SHARED_UP ≠ 0) : (d.event x source).logged x source :=
  d.record_logged x source 0 0 h (by decide) (by decide)

/-! An offset is taken and shown. -/

/-- The device with its sources' offsets taken and the offset of `raw` shown in BLF_OFFSET. -/
def offsetShown (d : Dev) (raw : Int) : Dev := (offsetsTaken d).wrI BLF_OFFSET_NS 0 (raw - epoch d)

section Shown
variable {d : Dev} {raw : Int}

@[simp] theorem offsetShown_rd (d : Dev) (raw : Int) (f : RegField) (i : Nat) (h : f ≠ BLF_OFFSET_NS) :
    (offsetShown d raw).rd f i = d.rd f i := by
  simp only [offsetShown, Dev.wrI_eq, Dev.rd_wr, h, false_and, if_false]
  rfl

@[simp] theorem offsetShown_tb (d : Dev) (raw : Int) : (offsetShown d raw).tb = (offsetsTaken d).tb := rfl

@[simp] theorem offsetsTaken_slewLeft (d : Dev) : (offsetsTaken d).tb.slewLeft = d.tb.slewLeft := rfl

theorem offsetShown_sameBut (d : Dev) (raw : Int) : SameBut d (offsetShown d raw) [] [(BLF_OFFSET_NS, 0)] [.tb] :=
  ((SameBut.refl _ _ _ _).tb _ (by simp)).wr _ _ _ (by simp)

@[simp] theorem timeState_offsetShown (d : Dev) (raw : Int) : timeState (offsetShown d raw) = timeState d :=
  timeState_of_rd (by simp)

@[simp] theorem offsetShown_mode (d : Dev) (raw : Int) : (offsetShown d raw).mode = d.mode := Dev.mode_wr _ _ _ _ (by decide)

@[simp] theorem offsetShown_frameNs (d : Dev) (raw : Int) : (offsetShown d raw).frameNs = d.frameNs := Dev.frameNs_wr _ _ _ _ (by decide)

@[simp] theorem maxRate_offsetShown (d : Dev) (raw : Int) : maxRate (offsetShown d raw) = maxRate d := by simp [maxRate]

@[simp] theorem groupCycle_offsetShown (d : Dev) (raw : Int) : (offsetShown d raw).groupCycle = d.groupCycle := by
  simp only [Dev.groupCycle, Dev.cfg, Dev.firstLane, offsetShown_rd _ _ LN_STATUS_STATE _ (by decide)]
  rfl

@[simp] theorem offsetInterval_offsetShown (d : Dev) (raw : Int) : offsetInterval (offsetShown d raw) = offsetInterval d := by
  simp [offsetInterval, syncNs]

/-- No source holds an offset once the discipline has taken them. -/
theorem sourceOffset_offsetShown (d : Dev) (raw : Int) : sourceOffset (offsetShown d raw) = none := by
  unfold sourceOffset
  split <;> rfl

theorem offsetShown_offset (d : Dev) (raw : Int) : (offsetShown d raw).rdI BLF_OFFSET_NS = saturate 32 (raw - epoch d) :=
  Dev.rdI_wrI _ _ _ _ (by decide)

/-! What the discipline does with it, by its state. -/

/-- What the discipline in state `x` does with an offset `o` that it has taken and shown. -/
def disciplined (x : TimeState) (d : Dev) (raw o : Int) : Dev :=
  match x with
  | .free => d
  | .acquiring => acquire d raw
  | .locked => lockedOffset d o
  | .slewing => slewOffset d o
  | .holdover => acquire (enterAcquiring d) raw
  | .diverged => d

theorem measured_eq (d : Dev) (raw : Int) :
    measured (offsetsTaken d) raw = disciplined (timeState d) (offsetShown d raw) raw (raw - epoch d) := by
  rw [← timeState_offsetShown d raw]
  rfl

end Shown

/-! LOCKED: the servo, and a jump that confirms (R59). -/

section Locked
variable {d : Dev} {o : Int}

/-- The frequency term after an offset `o` within the jump threshold (R510). -/
def servoFreq (d : Dev) (o : Int) : Int :=
  clampInt (-(maxRate d)) (maxRate d) (d.tb.freq + floorDiv (o * 1000000000) (max 1 (offsetInterval d : Int)))

/-- The rate correction that such an offset aims at (R510). -/
def servoTarget (d : Dev) (o : Int) : Int :=
  clampInt (-(maxRate d)) (maxRate d) (d.tb.freq + floorDiv (o * 16000000000) (2 * max 1 (offsetInterval d : Int)))

@[simp] theorem servoFreq_offsetShown (d : Dev) (raw o : Int) : servoFreq (offsetShown d raw) o = servoFreq d o := by
  unfold servoFreq
  rw [maxRate_offsetShown, offsetInterval_offsetShown]
  rfl

@[simp] theorem servoTarget_offsetShown (d : Dev) (raw o : Int) : servoTarget (offsetShown d raw) o = servoTarget d o := by
  unfold servoTarget
  rw [maxRate_offsetShown, offsetInterval_offsetShown]
  rfl

theorem servo_steps (h : d.mode = .boot ∨ d.mode = .hold ∨ d.mode = .safeState) (o : Int) :
    servo d o = d.withTb { d.tb with freq := servoFreq d o, target := servoFreq d o, stepNext := o, confirm := [] } := by
  unfold servo
  rcases h with h | h | h <;> rw [h] <;> rfl

theorem servo_follows (h : d.mode = .standstill ∨ d.mode = .run ∨ d.mode = .degraded) (o : Int) :
    servo d o = d.withTb { d.tb with freq := servoFreq d o, target := servoTarget d o, confirm := [] } := by
  unfold servo
  rcases h with h | h | h <;> rw [h] <;> rfl

theorem lockedOffset_within (h : o.natAbs ≤ d.rd BLF_JUMP_THR_THR_NS) : lockedOffset d o = servo d o := if_pos h

theorem lockedOffset_waits (h : d.rd BLF_JUMP_THR_THR_NS < o.natAbs) (hc : d.tb.confirm.length < 2) :
    lockedOffset d o = d.withTb { d.tb with confirm := d.tb.confirm ++ [o] } := by
  unfold lockedOffset
  rw [if_neg (by omega)]
  exact if_pos (by simp; omega)

theorem lockedOffset_confirms {a b : Int} (h : d.rd BLF_JUMP_THR_THR_NS < o.natAbs) (hc : d.tb.confirm = [a, b]) :
    lockedOffset d o = jumpRefused d o (decide (1000000 < a.natAbs ∧ 1000000 < b.natAbs ∧ 1000000 < o.natAbs)) := by
  unfold lockedOffset
  rw [if_neg (by omega), hc]
  simp

/-- An offset that no two others confirm leaves device time and changes the time base alone. -/
theorem lockedOffset_unconfirmed (hc : d.tb.confirm.length < 2) (o : Int) :
    ∃ x, lockedOffset d o = d.withTb x ∧ x.ext = d.tb.ext ∧ x.tickAt = d.tb.tickAt := by
  by_cases h : o.natAbs ≤ d.rd BLF_JUMP_THR_THR_NS
  · rw [lockedOffset_within h]
    cases hm : d.mode with
    | boot | hold | safeState => exact ⟨_, servo_steps (by simp [hm]) o, rfl, rfl⟩
    | standstill | run | degraded => exact ⟨_, servo_follows (by simp [hm]) o, rfl, rfl⟩
  · exact ⟨_, lockedOffset_waits (by omega) hc, rfl, rfl⟩

/-- The device that has left LOCKED or SLEWING for DIVERGED. -/
def timeDiverged (d : Dev) : Dev :=
  (setTimeState ((d.withTb { d.tb with confirm := [] }).flag BLF_STATUS_TIME_DIVERGED) .diverged).event .TIME_DIVERGED srcTime

theorem timeDiverged_sameBut (d : Dev) :
    SameBut d (timeDiverged d) [] ([(BLF_STATUS_TIME_DIVERGED, 0), (BLF_STATUS_STATE, 0)] ++ recordRegs srcTime) [.tb, .log] :=
  ((((SameBut.refl _ _ _ _).withTb _ (by simp)).wr _ _ _ (by simp)).wr _ _ _ (by simp)).event _ _ _ _ (by simp +contextual) (by simp)

theorem timeDiverged_effect (hu : d.rd PWR_STATUS_SHARED_UP ≠ 0) :
    timeState (timeDiverged d) = .diverged ∧ (timeDiverged d).rd BLF_STATUS_TIME_DIVERGED = 1 ∧
      (timeDiverged d).logged .TIME_DIVERGED srcTime ∧ (timeDiverged d).tb = { d.tb with confirm := [] } :=
  ⟨by simp [timeDiverged], by simp [timeDiverged], Dev.event_logged _ _ _ (by simpa using hu), by simp [timeDiverged]⟩

/-- The device with a jump refused and reported. -/
def jumpReported (d : Dev) : Dev := (d.flag BLF_STATUS_JUMP_REFUSED).event .JUMP_REFUSED srcTime

theorem jumpReported_sameBut (d : Dev) :
    SameBut d (jumpReported d) [] ((BLF_STATUS_JUMP_REFUSED, 0) :: recordRegs srcTime) [.log] :=
  ((SameBut.refl _ _ _ _).wr _ _ _ (by simp)).event _ _ _ _ (by simp +contextual) (by simp)

@[simp] theorem jumpReported_tb (d : Dev) : (jumpReported d).tb = d.tb := by simp [jumpReported]
@[simp] theorem jumpReported_flag (d : Dev) : (jumpReported d).rd BLF_STATUS_JUMP_REFUSED = 1 := by simp [jumpReported]
@[simp] theorem timeState_jumpReported (d : Dev) : timeState (jumpReported d) = timeState d := by simp [jumpReported]

theorem jumpReported_logged (h : d.rd PWR_STATUS_SHARED_UP ≠ 0) : (jumpReported d).logged .JUMP_REFUSED srcTime :=
  Dev.event_logged _ _ _ (by simpa using h)

theorem jumpRefused_diverges (d : Dev) (o : Int) : jumpRefused d o true = timeDiverged d := rfl

/-- The device as it enters SLEWING with a jump reported. -/
def slewEntered (d : Dev) : Dev := setTimeState (jumpReported (d.withTb { d.tb with confirm := [] })) .slewing

theorem slewEntered_tb (d : Dev) : (slewEntered d).tb = { d.tb with confirm := [] } := jumpReported_tb _

/-- The device that has begun to slew by `o` from the rate in force (R60). -/
def slewBegun (d : Dev) (o : Int) : Dev :=
  (slewEntered d).withTb { d.tb with confirm := [], slew := d.tb.rate - d.tb.freq, slewLeft := 256000 * o }

theorem jumpRefused_slews (d : Dev) (o : Int) : jumpRefused d o false = slewBegun d o :=
  calc jumpRefused d o false
      = (slewEntered d).withTb { (slewEntered d).tb with
          slew := (slewEntered d).tb.rate - (slewEntered d).tb.freq, slewLeft := 256000 * o } := rfl
    _ = slewBegun d o := by rw [slewEntered_tb]; rfl

theorem slewBegun_sameBut (d : Dev) (o : Int) :
    SameBut d (slewBegun d o) [] ([(BLF_STATUS_JUMP_REFUSED, 0), (BLF_STATUS_STATE, 0)] ++ recordRegs srcTime) [.tb, .log] :=
  ((((SameBut.refl _ _ _ _).withTb _ (by simp)).next (jumpReported_sameBut _) (by simp) (by simp +contextual) (by simp)).wr _ _ _
    (by simp)).withTb _ (by simp)

theorem slewBegun_effect (hu : d.rd PWR_STATUS_SHARED_UP ≠ 0) (o : Int) :
    timeState (slewBegun d o) = .slewing ∧ (slewBegun d o).rd BLF_STATUS_JUMP_REFUSED = 1 ∧ (slewBegun d o).logged .JUMP_REFUSED srcTime ∧
      (slewBegun d o).tb = { d.tb with confirm := [], slew := d.tb.rate - d.tb.freq, slewLeft := 256000 * o } :=
  ⟨by simp [slewBegun, slewEntered], by simp [slewBegun, slewEntered], Dev.logged_of_log rfl (jumpReported_logged (d := d.withTb _) hu), rfl⟩

end Locked

/-! SLEWING: a measurement against what the slew has still to work off (R60). -/

section Slewing
variable {d : Dev} {o : Int}

theorem slewOffset_within (h : (256000 * o - d.tb.slewLeft).natAbs ≤ 256000 * d.rd BLF_JUMP_THR_THR_NS) :
    slewOffset d o = d.withTb { d.tb with confirm := [] } := if_pos h

theorem slewOffset_waits (h : 256000 * d.rd BLF_JUMP_THR_THR_NS < (256000 * o - d.tb.slewLeft).natAbs) (hc : d.tb.confirm.length < 2) :
    slewOffset d o = d.withTb { d.tb with confirm := d.tb.confirm ++ [256000 * o - d.tb.slewLeft] } := by
  unfold slewOffset
  dsimp only
  rw [if_neg (by omega)]
  exact if_pos (by simp; omega)

/-- The device that has planned its slew anew, to work off `o`. -/
def slewReplanned (d : Dev) (o : Int) : Dev := (jumpReported d).withTb { d.tb with confirm := [], slewLeft := 256000 * o }

theorem slewOffset_replans {a b : Int} (h : 256000 * d.rd BLF_JUMP_THR_THR_NS < (256000 * o - d.tb.slewLeft).natAbs)
    (hc : d.tb.confirm = [a, b]) (ha : a.natAbs ≤ 256000000000) : slewOffset d o = slewReplanned d o :=
  calc slewOffset d o
      = (jumpReported d).withTb { (jumpReported d).tb with
          confirm := [], slewLeft := (jumpReported d).tb.slewLeft + (256000 * o - d.tb.slewLeft) } := by
        unfold slewOffset
        dsimp only
        rw [if_neg (by omega), hc, if_neg (by simp), if_neg (by simp; omega)]
        rfl
    _ = slewReplanned d o := by rw [jumpReported_tb, add_sub_cancel]; rfl

theorem slewReplanned_sameBut (d : Dev) (o : Int) :
    SameBut d (slewReplanned d o) [] ((BLF_STATUS_JUMP_REFUSED, 0) :: recordRegs srcTime) [.tb, .log] :=
  ((jumpReported_sameBut d).mono (by simp) (by simp +contextual) (by simp)).withTb _ (by simp)

end Slewing

/-! ACQUIRING: three measurements that agree load BLF_EPOCH (R58). -/

section Acquiring
variable {d : Dev} {raw : Int}

theorem acquire_collects (h : d.tb.acquired.length < 2) (raw : Int) :
    acquire d raw = d.withTb { d.tb with acquired := d.tb.acquired ++ [raw] } := by
  unfold acquire
  match ha : d.tb.acquired, h with
  | [], _ => rfl
  | [a], _ => rfl

theorem acquire_apart {a b : Int} (ha : d.tb.acquired = [a, b]) (hd : 1000 < max a (max b raw) - min a (min b raw)) :
    acquire d raw = d.withTb { d.tb with acquired := [b, raw] } := by
  unfold acquire
  rw [ha]
  exact if_neg (by omega)

/-- The phase of the tick that the epoch keeps (R58). -/
def epochPhase (d : Dev) : Int := if d.rd BLF_CFG_SOURCE = 3 then 0 else 8 * (d.rd BLF_PHASE_PHASE : Int)

/-- The device with the epoch `e` in force and its offsets collected no longer. -/
def epochSetTo (d : Dev) (e : Int) : Dev :=
  (setEpoch (d.withTb { d.tb with acquired := [], confirm := [], epochSet := true, target := d.tb.freq }) e).flag BLF_STATUS_EPOCH_SET

/-- The device that has acquired with the median `m` and the epoch `e`. -/
def epochLoaded (d : Dev) (m e : Int) : Dev :=
  setTimeState (((epochSetTo d e).wrI BLF_OFFSET_NS 0 (m - e)).event .EPOCH_SET srcTime) .locked

theorem acquire_agrees {a b m e : Int} (ha : d.tb.acquired = [a, b]) (hd : max a (max b raw) - min a (min b raw) ≤ 1000)
    (hm : median3 a b raw = m) (he : nearestCongruent (epochPhase d) d.frameNs m = e) :
    acquire d raw = lockedOffset (epochLoaded d m e) (m - e) := by
  subst he hm
  unfold acquire
  rw [ha]
  exact if_pos hd

theorem epochLoaded_sameBut (d : Dev) (m e : Int) : SameBut d (epochLoaded d m e) []
    ([(BLF_OFFSET_NS, 0), (BLF_EPOCH_LO_NS, 0), (BLF_EPOCH_HI_NS, 0), (BLF_STATUS_EPOCH_SET, 0), (BLF_STATUS_STATE, 0)] ++ recordRegs srcTime)
    [.tb, .log] :=
  SameBut.wr (.event (.wr (.wr (.wr (.wr (.withTb (.refl _ _ _ _) _ (by simp)) _ _ _ (by simp)) _ _ _ (by simp)) _ _ _ (by simp)) _ _ _ (by simp))
    _ _ _ _ (by simp +contextual) (by simp)) _ _ _ (by simp)

theorem epochLoaded_effect (hu : d.rd PWR_STATUS_SHARED_UP ≠ 0) (m e : Int) :
    timeState (epochLoaded d m e) = .locked ∧ (epochLoaded d m e).rd BLF_STATUS_EPOCH_SET = 1 ∧
      (epochLoaded d m e).rd BLF_EPOCH_LO_NS = fieldOf 64 e % 2 ^ 32 ∧ (epochLoaded d m e).rd BLF_EPOCH_HI_NS = fieldOf 64 e / 2 ^ 32 ∧
      (epochLoaded d m e).rdI BLF_OFFSET_NS = saturate 32 (m - e) ∧ (epochLoaded d m e).logged .EPOCH_SET srcTime ∧
      (epochLoaded d m e).tb = { d.tb with acquired := [], confirm := [], epochSet := true, target := d.tb.freq } := by
  have hhigh : fieldOf 64 e / 2 ^ 32 < 2 ^ 32 := Nat.div_lt_of_lt_mul (fieldOf_lt 64 e)
  refine ⟨by simp [epochLoaded], by simp [epochLoaded, epochSetTo], by simp [epochLoaded, epochSetTo, setEpoch], ?_, ?_, ?_,
    by simp [epochLoaded, epochSetTo, setEpoch]⟩
  · simpa [epochLoaded, epochSetTo, setEpoch] using hhigh
  · exact (Dev.rdI_of_rd (by simp [epochLoaded])).trans (Dev.rdI_wrI (epochSetTo d e) BLF_OFFSET_NS 0 (m - e) (by decide))
  · exact Dev.logged_of_log rfl (Dev.event_logged _ _ _ (by simpa [epochSetTo, setEpoch] using hu))

end Acquiring

/-! The end of a slew, the loss of the source, and a new acquisition. -/

/-- The device whose slew has ended. -/
def slewEnded (d : Dev) : Dev :=
  setTimeState (showRate (d.withTb { d.tb with slew := 0, target := d.tb.freq, rate := d.tb.freq })) .locked

/-- The device in HOLDOVER with the loss of its source reported. -/
def sourceLost (d : Dev) : Dev :=
  (setTimeState ((d.withTb { d.tb with confirm := [], acquired := [] }).flag BLF_STATUS_SOURCE_LOST) .holdover).event .SOURCE_LOST srcTime

section Commands
variable {s : State} {raw : Int} {es : List (RegField × Nat)} {ps : List Part} {post : Dev → Prop} {e : Dev}

theorem exec_offsetMeasurement (s : State) : exec .offsetMeasurement s = execOffsetMeasurement s := rfl
theorem exec_slewEnd (s : State) : exec .slewEnd s = execSlewEnd s := rfl
theorem exec_sourceLossTimeout (s : State) : exec .sourceLossTimeout s = execSourceLossTimeout s := rfl
theorem exec_acquireGo (m : Master) (s : State) : exec (.acquireGo m) s = execAcquireGo m s := rfl

theorem slewEnd_ends (ht : timeState s.dev = .slewing) (hl : s.dev.tb.slewLeft = 0) (hv : s.dev.tb.slew.natAbs ≤ 16000) :
    Completes .slewEnd s [(BLF_STATUS_STATE, 0), (BLF_RATE_PPB, 0)] [.tb] fun e =>
      timeState e = .locked ∧ e.tb = { s.dev.tb with slew := 0, target := s.dev.tb.freq, rate := s.dev.tb.freq } :=
  .of_result (exec_slewEnd s) (e := slewEnded s.dev.cleared) (if_pos ⟨ht, hl, hv⟩)
    ((((SameBut.refl _ _ _ _).withTb _ (by simp)).wr _ _ _ (by simp)).wr _ _ _ (by simp)) ⟨timeState_entered .., rfl⟩

theorem slewEnd_notEnded (h : timeState s.dev ≠ .slewing ∨ s.dev.tb.slewLeft ≠ 0) : Completes .slewEnd s [] [] fun e => e.out = [] :=
  .of_unchanged (exec_slewEnd s) (if_neg fun hc => h.elim (· hc.1) (· hc.2.1))

theorem sourceLossTimeout_holdover (h : timeState s.dev = .acquiring ∨ timeState s.dev = .locked ∨ timeState s.dev = .slewing)
    (hu : s.dev.rd PWR_STATUS_SHARED_UP ≠ 0) :
    Completes .sourceLossTimeout s ([(BLF_STATUS_STATE, 0), (BLF_STATUS_SOURCE_LOST, 0)] ++ recordRegs srcTime) [.tb, .log] fun e =>
      timeState e = .holdover ∧ e.rd BLF_STATUS_SOURCE_LOST = 1 ∧ e.logged .SOURCE_LOST srcTime ∧
        e.tb = { s.dev.tb with confirm := [], acquired := [] } := by
  refine .of_result (exec_sourceLossTimeout s) (e := sourceLost s.dev.cleared) ?_ ?_
    ⟨by simp [sourceLost], by simp [sourceLost], Dev.event_logged _ _ _ (by simpa using hu), by simp [sourceLost]⟩
  · rcases h with h | h | h <;> simp only [timeState_cleared, h] <;> rfl
  · exact (((SameBut.withTb (.refl _ _ _ _) _ (by simp)).wr _ _ _ (by simp)).wr _ _ _ (by simp)).event _ _ _ _ (by simp +contextual) (by simp)

theorem sourceLossTimeout_ignored (h : timeState s.dev = .free ∨ timeState s.dev = .holdover ∨ timeState s.dev = .diverged) :
    Completes .sourceLossTimeout s [] [] fun e => e.out = [] :=
  .of_unchanged (exec_sourceLossTimeout s) (by rcases h with h | h | h <;> simp only [timeState_cleared, h])

/-- A write of BLF_ACQUIRE.GO that is taken has the effect of a new acquisition (R61). -/
theorem acquireGo_taken {m : Master} (h : s.dev.takes m 0x1038 (BLF_STATUS_BUSY, 0)) (f : Dev → Dev) :
    s.dev.cleared.trigger m 0x1038 (some (BLF_STATUS_BUSY, 0)) f = f s.dev.cleared := by
  obtain ⟨hserved, hbusy⟩ := h
  rw [Dev.trigger_served (d := s.dev.cleared) _ f hserved]
  exact if_neg (by simpa [Dev.on] using hbusy)

theorem acquireGo_free {m : Master} (h : s.dev.takes m 0x1038 (BLF_STATUS_BUSY, 0)) (ht : timeState s.dev = .free) :
    Completes (.acquireGo m) s [] [] fun e => e.out = [] :=
  .of_unchanged (exec_acquireGo m s) ((acquireGo_taken h acquireGo).trans (if_pos ht))

theorem acquireGo_acquires {m : Master} (h : s.dev.takes m 0x1038 (BLF_STATUS_BUSY, 0)) (ht : timeState s.dev ≠ .free) :
    Completes (.acquireGo m) s [(BLF_STATUS_STATE, 0)] [.tb] fun e =>
      timeState e = .acquiring ∧ e.tb = { s.dev.tb with acquired := [], confirm := [], slewLeft := 0 } :=
  .of_result (exec_acquireGo m s) (e := enterAcquiring s.dev.cleared) ((acquireGo_taken h acquireGo).trans (if_neg ht))
    ((SameBut.withTb (.refl _ _ _ _) _ (by simp)).wr _ _ _ (by simp)) ⟨timeState_entered .., rfl⟩

/-! Measurements. -/

theorem offsetMeasurement_none (h : sourceOffset s.dev = none) : Completes .offsetMeasurement s [] [] fun e => e.out = [] :=
  .of_unchanged (exec_offsetMeasurement s) (by rw [show sourceOffset s.dev.cleared = none from h])

/-- A measurement comes to what the discipline does, in its state `x`, from the device that has taken and shown the offset. -/
theorem Completes.of_offset {x : TimeState} (hs : sourceOffset s.dev = some raw) (hx : timeState s.dev = x)
    (he : disciplined x (offsetShown s.dev.cleared raw) raw (raw - epoch s.dev) = e)
    (hf : SameBut (offsetShown s.dev.cleared raw) e [] es ps) (ho : (BLF_OFFSET_NS, 0) ∈ es) (hb : .tb ∈ ps) (hp : post e) :
    Completes .offsetMeasurement s es ps post := by
  subst hx he
  refine .of_result (exec_offsetMeasurement s) ?_
    (((offsetShown_sameBut s.dev.cleared raw).mono (by simp) (by simpa using ho) (by simpa using hb)).trans hf) hp
  rw [show sourceOffset s.dev.cleared = some raw from hs]
  exact measured_eq s.dev.cleared raw

theorem offsetMeasurement_idle (hs : sourceOffset s.dev = some raw) (ht : timeState s.dev = .free ∨ timeState s.dev = .diverged) :
    Completes .offsetMeasurement s [(BLF_OFFSET_NS, 0)] [.tb] fun e => e.rdI BLF_OFFSET_NS = saturate 32 (raw - epoch s.dev) ∧
      sourceOffset e = none ∧ e.tb = (offsetsTaken s.dev).tb := by
  have hd : disciplined (timeState s.dev) (offsetShown s.dev.cleared raw) raw (raw - epoch s.dev) = offsetShown s.dev.cleared raw := by
    rcases ht with ht | ht <;> rw [ht] <;> rfl
  exact .of_offset hs rfl hd (.refl _ _ _ _) (by simp) (by simp) ⟨offsetShown_offset .., sourceOffset_offsetShown .., rfl⟩

/-- A measurement of which only the time base takes note. -/
theorem offsetMeasurement_noted {x : TimeState} {y : TimeBase} (hs : sourceOffset s.dev = some raw) (hx : timeState s.dev = x)
    (he : disciplined x (offsetShown s.dev.cleared raw) raw (raw - epoch s.dev) = (offsetShown s.dev.cleared raw).withTb y) :
    Completes .offsetMeasurement s [(BLF_OFFSET_NS, 0)] [.tb] fun e => e.tb = y :=
  .of_offset hs hx he ((SameBut.refl _ _ _ _).withTb _ (by simp)) (by simp) (by simp) rfl

theorem offsetMeasurement_collected (hs : sourceOffset s.dev = some raw) (ht : timeState s.dev = .acquiring)
    (ha : s.dev.tb.acquired.length < 2) :
    Completes .offsetMeasurement s [(BLF_OFFSET_NS, 0)] [.tb] fun e =>
      e.tb = { (offsetsTaken s.dev).tb with acquired := s.dev.tb.acquired ++ [raw] } :=
  offsetMeasurement_noted hs ht (acquire_collects (d := offsetShown s.dev.cleared raw) ha raw)

theorem offsetMeasurement_apart {a b : Int} (hs : sourceOffset s.dev = some raw) (ht : timeState s.dev = .acquiring)
    (ha : s.dev.tb.acquired = [a, b]) (hd : 1000 < max a (max b raw) - min a (min b raw)) :
    Completes .offsetMeasurement s [(BLF_OFFSET_NS, 0)] [.tb] fun e =>
      e.tb = { (offsetsTaken s.dev).tb with acquired := [b, raw] } :=
  offsetMeasurement_noted hs ht (acquire_apart (d := offsetShown s.dev.cleared raw) ha hd)

theorem offsetMeasurement_acquired {a b m c : Int} (hs : sourceOffset s.dev = some raw) (ht : timeState s.dev = .acquiring)
    (ha : s.dev.tb.acquired = [a, b]) (hd : max a (max b raw) - min a (min b raw) ≤ 1000) (hu : s.dev.rd PWR_STATUS_SHARED_UP ≠ 0)
    (hm : median3 a b raw = m) (hc : nearestCongruent (epochPhase s.dev) s.dev.frameNs m = c) :
    Completes .offsetMeasurement s
      ([(BLF_OFFSET_NS, 0), (BLF_EPOCH_LO_NS, 0), (BLF_EPOCH_HI_NS, 0), (BLF_STATUS_EPOCH_SET, 0), (BLF_STATUS_STATE, 0)] ++ recordRegs srcTime)
      [.tb, .log] fun e =>
        timeState e = .locked ∧ e.rd BLF_STATUS_EPOCH_SET = 1 ∧ e.rd BLF_EPOCH_LO_NS = fieldOf 64 c % 2 ^ 32 ∧
          e.rd BLF_EPOCH_HI_NS = fieldOf 64 c / 2 ^ 32 ∧ e.rdI BLF_OFFSET_NS = saturate 32 (m - c) ∧ e.logged .EPOCH_SET srcTime ∧
          e.tb.ext = s.dev.tb.ext ∧ e.tb.tickAt = s.dev.tb.tickAt := by
  have hc' : nearestCongruent (epochPhase (offsetShown s.dev.cleared raw)) (offsetShown s.dev.cleared raw).frameNs m = c := by
    rw [← hc]
    simp [epochPhase]
    rfl
  obtain ⟨hstate, hset, hlo, hhi, hoff, hlog, htb⟩ :=
    epochLoaded_effect (d := offsetShown s.dev.cleared raw) (by simpa using hu) m c
  obtain ⟨y, hy, hext, htick⟩ := lockedOffset_unconfirmed (d := epochLoaded (offsetShown s.dev.cleared raw) m c) (by simp [htb]) (m - c)
  refine .of_offset hs ht ((acquire_agrees (d := offsetShown s.dev.cleared raw) ha hd hm hc').trans hy)
    ((epochLoaded_sameBut ..).withTb _ (by simp)) (by simp) (by simp) ⟨hstate, hset, hlo, hhi, hoff, hlog, ?_, ?_⟩
  · rw [Dev.withTb_tb, hext, htb]; rfl
  · rw [Dev.withTb_tb, htick, htb]; rfl

section Locked
variable (hs : sourceOffset s.dev = some raw) (ht : timeState s.dev = .locked)
include hs ht

theorem offsetMeasurement_steps (ho : (raw - epoch s.dev).natAbs ≤ s.dev.rd BLF_JUMP_THR_THR_NS)
    (hm : s.dev.mode = .boot ∨ s.dev.mode = .hold ∨ s.dev.mode = .safeState) :
    Completes .offsetMeasurement s [(BLF_OFFSET_NS, 0)] [.tb] fun e =>
      e.tb = { (offsetsTaken s.dev).tb with
        freq := servoFreq s.dev (raw - epoch s.dev), target := servoFreq s.dev (raw - epoch s.dev), stepNext := raw - epoch s.dev
        confirm := [] } := by
  refine offsetMeasurement_noted hs ht ((lockedOffset_within (by simpa using ho)).trans ((servo_steps (by simpa using hm) _).trans ?_))
  rw [servoFreq_offsetShown]
  rfl

theorem offsetMeasurement_follows (ho : (raw - epoch s.dev).natAbs ≤ s.dev.rd BLF_JUMP_THR_THR_NS)
    (hm : s.dev.mode = .standstill ∨ s.dev.mode = .run ∨ s.dev.mode = .degraded) :
    Completes .offsetMeasurement s [(BLF_OFFSET_NS, 0)] [.tb] fun e =>
      e.tb = { (offsetsTaken s.dev).tb with
        freq := servoFreq s.dev (raw - epoch s.dev), target := servoTarget s.dev (raw - epoch s.dev), confirm := [] } := by
  refine offsetMeasurement_noted hs ht ((lockedOffset_within (by simpa using ho)).trans ((servo_follows (by simpa using hm) _).trans ?_))
  rw [servoFreq_offsetShown, servoTarget_offsetShown]
  rfl

theorem offsetMeasurement_waits (ho : s.dev.rd BLF_JUMP_THR_THR_NS < (raw - epoch s.dev).natAbs) (hc : s.dev.tb.confirm.length < 2) :
    Completes .offsetMeasurement s [(BLF_OFFSET_NS, 0)] [.tb] fun e =>
      e.tb = { (offsetsTaken s.dev).tb with confirm := s.dev.tb.confirm ++ [raw - epoch s.dev] } :=
  offsetMeasurement_noted hs ht (lockedOffset_waits (d := offsetShown s.dev.cleared raw) (by simpa using ho) hc)

theorem offsetMeasurement_diverges {a b : Int} (ho : s.dev.rd BLF_JUMP_THR_THR_NS < (raw - epoch s.dev).natAbs)
    (hc : s.dev.tb.confirm = [a, b]) (hb : 1000000 < a.natAbs ∧ 1000000 < b.natAbs ∧ 1000000 < (raw - epoch s.dev).natAbs)
    (hu : s.dev.rd PWR_STATUS_SHARED_UP ≠ 0) :
    Completes .offsetMeasurement s
      ([(BLF_OFFSET_NS, 0), (BLF_STATUS_TIME_DIVERGED, 0), (BLF_STATUS_STATE, 0)] ++ recordRegs srcTime) [.tb, .log] fun e =>
        timeState e = .diverged ∧ e.rd BLF_STATUS_TIME_DIVERGED = 1 ∧ e.logged .TIME_DIVERGED srcTime ∧
          e.tb = { (offsetsTaken s.dev).tb with confirm := [] } := by
  have he := lockedOffset_confirms (d := offsetShown s.dev.cleared raw) (by simpa using ho) hc
  rw [decide_eq_true hb, jumpRefused_diverges] at he
  exact .of_offset hs ht he ((timeDiverged_sameBut _).mono (by simp) (by simp +contextual) (by simp)) (by simp) (by simp)
    (timeDiverged_effect (by simpa using hu))

theorem offsetMeasurement_slews {a b : Int} (ho : s.dev.rd BLF_JUMP_THR_THR_NS < (raw - epoch s.dev).natAbs)
    (hc : s.dev.tb.confirm = [a, b]) (hb : ¬ (1000000 < a.natAbs ∧ 1000000 < b.natAbs ∧ 1000000 < (raw - epoch s.dev).natAbs))
    (hu : s.dev.rd PWR_STATUS_SHARED_UP ≠ 0) :
    Completes .offsetMeasurement s
      ([(BLF_OFFSET_NS, 0), (BLF_STATUS_JUMP_REFUSED, 0), (BLF_STATUS_STATE, 0)] ++ recordRegs srcTime) [.tb, .log] fun e =>
        timeState e = .slewing ∧ e.rd BLF_STATUS_JUMP_REFUSED = 1 ∧ e.logged .JUMP_REFUSED srcTime ∧
          e.tb = { (offsetsTaken s.dev).tb with
            confirm := [], slew := s.dev.tb.rate - s.dev.tb.freq, slewLeft := 256000 * (raw - epoch s.dev) } := by
  have he := lockedOffset_confirms (d := offsetShown s.dev.cleared raw) (by simpa using ho) hc
  rw [decide_eq_false hb, jumpRefused_slews] at he
  exact .of_offset hs ht he ((slewBegun_sameBut ..).mono (by simp) (by simp +contextual) (by simp)) (by simp) (by simp)
    (slewBegun_effect (by simpa using hu) _)

end Locked

section Slewing
variable (hs : sourceOffset s.dev = some raw) (ht : timeState s.dev = .slewing)
include hs ht

theorem offsetMeasurement_slewKept
    (ho : (256000 * (raw - epoch s.dev) - s.dev.tb.slewLeft).natAbs ≤ 256000 * s.dev.rd BLF_JUMP_THR_THR_NS) :
    Completes .offsetMeasurement s [(BLF_OFFSET_NS, 0)] [.tb] fun e => e.tb = { (offsetsTaken s.dev).tb with confirm := [] } :=
  offsetMeasurement_noted hs ht (slewOffset_within (d := offsetShown s.dev.cleared raw) (by simpa using ho))

theorem offsetMeasurement_slewWaits (hc : s.dev.tb.confirm.length < 2)
    (ho : 256000 * s.dev.rd BLF_JUMP_THR_THR_NS < (256000 * (raw - epoch s.dev) - s.dev.tb.slewLeft).natAbs) :
    Completes .offsetMeasurement s [(BLF_OFFSET_NS, 0)] [.tb] fun e => e.tb = { (offsetsTaken s.dev).tb with
      confirm := s.dev.tb.confirm ++ [256000 * (raw - epoch s.dev) - s.dev.tb.slewLeft] } :=
  offsetMeasurement_noted hs ht (slewOffset_waits (d := offsetShown s.dev.cleared raw) (by simpa using ho) hc)

theorem offsetMeasurement_slewReplanned {a b : Int} (hc : s.dev.tb.confirm = [a, b])
    (ho : 256000 * s.dev.rd BLF_JUMP_THR_THR_NS < (256000 * (raw - epoch s.dev) - s.dev.tb.slewLeft).natAbs)
    (ha : a.natAbs ≤ 256000000000) (hu : s.dev.rd PWR_STATUS_SHARED_UP ≠ 0) :
    Completes .offsetMeasurement s ([(BLF_OFFSET_NS, 0), (BLF_STATUS_JUMP_REFUSED, 0)] ++ recordRegs srcTime) [.tb, .log] fun e =>
      timeState e = .slewing ∧ e.rd BLF_STATUS_JUMP_REFUSED = 1 ∧ e.logged .JUMP_REFUSED srcTime ∧
        e.tb = { (offsetsTaken s.dev).tb with confirm := [], slewLeft := 256000 * (raw - epoch s.dev) } := by
  refine .of_offset hs ht (slewOffset_replans (d := offsetShown s.dev.cleared raw) (by simpa using ho) hc ha)
    ((slewReplanned_sameBut ..).mono (by simp) (by simp +contextual) (by simp)) (by simp) (by simp) ⟨?_, ?_, ?_, rfl⟩
  · simpa [slewReplanned] using ht
  · simp [slewReplanned]
  · exact Dev.logged_of_log rfl (jumpReported_logged (d := offsetShown s.dev.cleared raw) (by simpa using hu))

end Slewing

theorem offsetMeasurement_reacquires (hs : sourceOffset s.dev = some raw) (ht : timeState s.dev = .holdover) :
    Completes .offsetMeasurement s [(BLF_OFFSET_NS, 0), (BLF_STATUS_STATE, 0)] [.tb] fun e =>
      timeState e = .acquiring ∧ e.tb = { (offsetsTaken s.dev).tb with acquired := [raw], confirm := [], slewLeft := 0 } :=
  .of_offset hs ht (acquire_collects (d := enterAcquiring (offsetShown s.dev.cleared raw)) Nat.two_pos raw)
    (((SameBut.withTb (.refl _ _ _ _) _ (by simp)).wr _ _ _ (by simp)).withTb _ (by simp)) (by simp) (by simp)
    ⟨(timeState_withTb ..).trans (timeState_entered ..), rfl⟩

end Commands

/-- Settles O6: each clause is the lemma above about the measurement in the state it names, or about the other event of the discipline. -/
theorem timeDiscipline : Obligations.TimeDiscipline :=
  ⟨fun _ h => offsetMeasurement_none h, fun _ _ hs ht => offsetMeasurement_idle hs ht,
    fun _ _ hs ht ha => offsetMeasurement_collected hs ht ha, fun _ _ _ _ hs ht ha hd => offsetMeasurement_apart hs ht ha hd,
    fun _ _ _ _ hs ht ha hd hu => offsetMeasurement_acquired hs ht ha hd hu rfl rfl,
    fun _ _ hs ht ho hm => offsetMeasurement_steps hs ht ho hm, fun _ _ hs ht ho hm => offsetMeasurement_follows hs ht ho hm,
    fun _ _ hs ht ho hc => offsetMeasurement_waits hs ht ho hc, fun _ _ _ _ hs ht ho hc hb hu => offsetMeasurement_diverges hs ht ho hc hb hu,
    fun _ _ _ _ hs ht ho hc hb hu => offsetMeasurement_slews hs ht ho hc hb hu, fun _ _ hs ht ho => offsetMeasurement_slewKept hs ht ho,
    fun _ _ hs ht hc ho => offsetMeasurement_slewWaits hs ht hc ho,
    fun _ _ _ _ hs ht hc ho ha hu => offsetMeasurement_slewReplanned hs ht hc ho ha hu,
    fun _ _ hs ht => offsetMeasurement_reacquires hs ht, fun _ ht hl hv => slewEnd_ends ht hl hv, fun _ h => slewEnd_notEnded h,
    fun _ h hu => sourceLossTimeout_holdover h hu, fun _ h => sourceLossTimeout_ignored h, fun _ _ h ht => acquireGo_free h ht,
    fun _ _ h ht => acquireGo_acquires h ht⟩

end Sys2Proof.Machine
end

section
/-!
SUPPORT. What the rule of R73 watches: each lane's state and outputs, and the Live writes that wait. An operation that changes none of it
says so by a lemma of its own; the rule is then kept for free.
-/
namespace Sys2Proof.Machine
open RegField

/-- What the rule of R73 speaks of: each lane's state and outputs, and the Live writes that wait. -/
structure Watch where
  state : Lane → Nat
  gates : Lane → Nat
  safeOk : Lane → Bool
  live : List (Master × RegCell)

/-- The watch over a register file, the lanes and the registers' own state. -/
def watchOf (regs : RegFile) (lanes : PerLane LaneState) (sys : SysState) : Watch :=
  ⟨fun l => RegFile.get regs LN_STATUS_STATE l.idx, fun l => (lanes.get l).gates, fun l => (lanes.get l).safeOk, sys.live⟩

def Dev.watch (d : Dev) : Watch := watchOf d.regs d.lanes d.sys

/-- A lane outside IN_SERVICE has its outputs off, and every Live write that waits is of a field that a write reaches. -/
def Watch.ok (w : Watch) : Prop :=
  (∀ l, w.state l ≠ 5 → w.gates l = 0 ∧ w.safeOk l = false) ∧
    ∀ p ∈ w.live, (p.2.field.desc.access = .rw ∧ p.2.field.desc.cls = .live) ∨ p.2.field.desc.access = .wo

theorem Dev.safeOutside_iff (d : Dev) : d.safeOutside ↔ d.watch.ok := Iff.rfl

@[simp] theorem watchOf_parts (d : Dev) : watchOf d.regs d.lanes d.sys = d.watch := (rfl)

@[simp] theorem Dev.mk_watch (regs out free sys log tb lanes rings motion monitorFr fault flash keys pkg periodDue pwr axes adc smy0 smy1
    rve host pln mil grp) :
    (Dev.mk regs out free sys log tb lanes rings motion monitorFr fault flash keys pkg periodDue pwr axes adc smy0 smy1 rve host pln mil
        grp).watch = watchOf regs lanes sys := (rfl)

theorem watchOf_wr (d : Dev) (f i v lanes sys) (hf : f ≠ LN_STATUS_STATE) :
    watchOf (d.wr f i v).regs lanes sys = watchOf d.regs lanes sys := by
  have h (l : Lane) : RegFile.get (d.wr f i v).regs LN_STATUS_STATE l.idx = RegFile.get d.regs LN_STATUS_STATE l.idx :=
    (Dev.rd_wr ..).trans (if_neg fun h => hf h.1.symm)
  simp only [watchOf, h]

@[simp] theorem watchOf_wr' (d : Dev) (f i v lanes sys) (hf : f ≠ LN_STATUS_STATE) :
    watchOf (d.wr f i v).regs lanes sys = watchOf d.regs lanes sys := watchOf_wr d f i v _ _ hf

@[simp] theorem watchOf_emit (d : Dev) (o lanes sys) : watchOf (d.emit o).regs lanes sys = watchOf d.regs lanes sys := (rfl)

@[simp] theorem Dev.watch_ite (c : Prop) [Decidable c] (d e : Dev) :
    (if c then d else e).watch = if c then d.watch else e.watch := apply_ite ..

@[simp] theorem Dev.wr_watch (d : Dev) (f i v) (hf : f ≠ LN_STATUS_STATE) : (d.wr f i v).watch = d.watch := watchOf_wr d f i v _ _ hf

@[simp] theorem Dev.emit_watch (d : Dev) (o : Output) : (d.emit o).watch = d.watch := (rfl)

@[simp] theorem Dev.each_watch {α : Type} {f : Dev → α → Dev} (hf : ∀ b x, (f b x).watch = b.watch) (d : Dev) (xs : List α) :
    (d.each xs f).watch = d.watch := by
  induction xs generalizing d with
  | nil => rfl
  | cons x xs ih => exact (ih _).trans (hf _ _)

@[simp] theorem Dev.when_watch {f : Dev → Dev} (d : Dev) (c : Bool) (hf : (f d).watch = d.watch) : (d.when c f).watch = d.watch := by
  cases c
  · rfl
  · exact hf

@[simp] theorem Dev.record_watch (d : Dev) (c s i x) : (d.record c s i x).watch = d.watch := by
  have h (l : Lane) : RegFile.get (d.record c s i x).regs LN_STATUS_STATE l.idx = RegFile.get d.regs LN_STATUS_STATE l.idx :=
    d.record_rd c s i x _ _ (by simp)
  unfold Dev.watch watchOf
  simp only [h, Dev.record_lanes, Dev.record_sys]

@[simp] theorem watchOf_record (d : Dev) (c s i x lanes sys) : watchOf (d.record c s i x).regs lanes sys = watchOf d.regs lanes sys := by
  have h (l : Lane) : RegFile.get (d.record c s i x).regs LN_STATUS_STATE l.idx = RegFile.get d.regs LN_STATUS_STATE l.idx :=
    d.record_rd c s i x _ _ (by simp)
  unfold watchOf
  simp only [h]

@[simp] theorem onLane_watch (d l f) (hf : ∀ x : LaneState, (f x).gates = x.gates ∧ (f x).safeOk = x.safeOk) :
    (onLane d l f).watch = d.watch := by
  have h (k : Lane) : (laneOf (onLane d l f) k).gates = (laneOf d k).gates ∧ (laneOf (onLane d l f) k).safeOk = (laneOf d k).safeOk := by
    rw [laneOf_onLane]
    split
    · subst k; exact hf _
    · exact ⟨rfl, rfl⟩
  unfold laneOf at h
  unfold Dev.watch watchOf
  simp only [fun k => (h k).1, fun k => (h k).2]
  rfl

@[simp] theorem Dev.trigger_watch (d m addr busy) {f : Dev → Dev} (hf : (f d).watch = d.watch) :
    (Dev.trigger d m addr busy f).watch = d.watch := by
  unfold Dev.trigger
  extract_lets go
  have hgo : go.watch = d.watch := by
    unfold go
    split
    · split
      · simp [Dev.busyDrop, Dev.errLast]
      · exact hf
    · exact hf
  have herr : (d.accessErr m addr).watch = d.watch := by simp [Dev.accessErr, Dev.errLast]
  split
  · rfl
  · split
    · exact hgo
    · split
      · rfl
      · split
        · rfl
        · split <;> [exact hgo; exact herr]
        · exact hgo

@[simp] theorem onSys_watch (d f) (hf : ∀ x : SysState, (f x).live = x.live) : (onSys d f).watch = d.watch := by
  unfold Dev.watch watchOf onSys
  simp [hf]

theorem laneState_ne {f : RegField} (h : f.desc.access ≠ .ro) : f ≠ LN_STATUS_STATE := fun hf => h (hf ▸ rfl)

/-- A command's outcome meets the rule. -/
def OutcomeOk (o : Host.Outcome State Fault Refusal) : Prop := ∀ t, o = .next t → t.dev.watch.ok

theorem OutcomeOk.run {s : State} {f : Dev → Dev} (hf : ∀ d : Dev, d.watch.ok → (f d).watch.ok) (h : s.dev.watch.ok) :
    OutcomeOk (s.run f) :=
  fun _ e => by cases e; exact hf _ h

theorem OutcomeOk.steady {s : State} {f : Dev → Dev} (h : s.dev.watch.ok) (hf : ∀ d : Dev, (f d).watch = d.watch) : OutcomeOk (s.run f) :=
  .run (fun d hd => by rwa [hf d]) h

@[simp] theorem Dev.reach_watch (d : Dev) (ns) : (d.reach ns).watch = d.watch := (rfl)

@[simp] theorem Dev.fresh_watch (d : Dev) (w) : (d.fresh w).2.watch = d.watch := (rfl)

/-- What changes neither a lane nor the registers' own state, and no lane's STATE, keeps what is watched. -/
theorem SameBut.watch_eq {d e : Dev} {fs : List RegField} {es : List (RegField × Nat)} {ps : List Part} (h : SameBut d e fs es ps)
    (hf : LN_STATUS_STATE ∉ fs) (he : ∀ i, (LN_STATUS_STATE, i) ∉ es) (hl : .lanes ∉ ps) (hs : .sys ∉ ps) : e.watch = d.watch := by
  have hr (l : Lane) : RegFile.get e.regs LN_STATUS_STATE l.idx = RegFile.get d.regs LN_STATUS_STATE l.idx := h.regs _ _ hf (he _)
  have hlanes : e.lanes = d.lanes := h.rest .lanes hl
  have hsys : e.sys = d.sys := h.rest .sys hs
  unfold Dev.watch watchOf
  simp only [hr, hlanes, hsys]

@[simp] theorem countFault_watch (d k i e again) : (countFault d k i e again).watch = d.watch :=
  (countFault_sameBut d k i e again).watch_eq (by simp) (by simp) (by simp) (by simp)

@[simp] theorem clearFaults_watch (d k i) : (clearFaults d k i).watch = d.watch :=
  (clearFaults_sameBut d k i).watch_eq (by simp) (by simp) (by simp) (by simp)

theorem Dev.each_watch_mem {α : Type} {f : Dev → α → Dev} {xs : List α} (hf : ∀ b, ∀ x ∈ xs, (f b x).watch = b.watch) (d : Dev) :
    (d.each xs f).watch = d.watch := by
  induction xs generalizing d with
  | nil => rfl
  | cons x xs ih => exact (ih (fun b y hy => hf b y (.tail _ hy)) _).trans (hf _ _ (.head _))

end Sys2Proof.Machine
end

section
/-!
SUPPORT. The operations that leave what the rule of R73 watches, in the order of the model.
-/
namespace Sys2Proof.Machine
open RegField

@[simp] theorem Dev.errLast_watch (d m addr cause) : (Dev.errLast d m addr cause).watch = d.watch := by simp [Dev.errLast]

@[simp] theorem Dev.lockViol_watch (d m addr) : (Dev.lockViol d m addr).watch = d.watch := by simp [Dev.lockViol]

@[simp] theorem Dev.busyDrop_watch (d m addr) : (Dev.busyDrop d m addr).watch = d.watch := by simp [Dev.busyDrop]

@[simp] theorem Dev.busyReject_watch (d m addr) : (Dev.busyReject d m addr).watch = d.watch := by simp [Dev.busyReject]

@[simp] theorem Dev.pairReject_watch (d m addr) : (Dev.pairReject d m addr).watch = d.watch := by simp [Dev.pairReject]

@[simp] theorem Dev.accessErr_watch (d m addr) : (Dev.accessErr d m addr).watch = d.watch := by simp [Dev.accessErr]

@[simp] theorem onAdc_watch (d f) : (onAdc d f).watch = d.watch := (rfl)

@[simp] theorem onSmy_watch (d n f) : (onSmy d n f).watch = d.watch := by simp [onSmy]

@[simp] theorem adcTrigger_watch (d) : (adcTrigger d).watch = d.watch := (rfl)

@[simp] theorem smyTrigger_watch (d n code) : (smyTrigger d n code).watch = d.watch := by simp [smyTrigger]

@[simp] theorem fireAdc_watch (d code) : (fireAdc d code).watch = d.watch := by simp [fireAdc]

@[simp] theorem fireSmy_watch (d n code) : (fireSmy d n code).watch = d.watch := by simp [fireSmy]

@[simp] theorem Dev.fire_watch (d code) : (Dev.fire d code).watch = d.watch := by simp [Dev.fire]

@[simp] theorem takeSample_watch (d v clock c s) : (takeSample d v clock c s).1.watch = d.watch := by simp [takeSample]

@[simp] theorem scanSamples_watch (v start ss k r) : (scanSamples v start ss k r).1.watch = r.1.watch := by
  induction ss generalizing k r with
  | nil => rfl
  | cons s ss ih =>
    unfold scanSamples
    split
    · rfl
    · refine (ih ..).trans ?_
      dsimp only
      repeat' split
      all_goals simp

@[simp] theorem frameCheck_watch (d) : (frameCheck d).watch = d.watch := by simp [frameCheck]

@[simp] theorem closeChannel_watch (valid d c) : (closeChannel valid d c).watch = d.watch := by simp [closeChannel]

@[simp] theorem adcCorrections_watch (d) : (adcCorrections d).watch = d.watch := (rfl)

@[simp] theorem adcTick_watch (d n) : (adcTick d n).watch = d.watch := by simp [adcTick]

@[simp] theorem clearUa_watch (d u) : (clearUa d u).watch = d.watch := by simp [clearUa]

@[simp] theorem startSequence_watch (d t) : (startSequence d t).watch = d.watch := by simp [startSequence]

@[simp] theorem sequenceTrigger_watch (d t) : (sequenceTrigger d t).watch = d.watch := by simp [sequenceTrigger]

@[simp] theorem sequenceEnable_watch (d v) : (sequenceEnable d v).watch = d.watch := by simp [sequenceEnable]

@[simp] theorem addUser_watch (d u v) : (addUser d u v).watch = d.watch := by simp [addUser]

@[simp] theorem entrySamples_watch (v start ch settle u ss k d) : (entrySamples v start ch settle u ss k d).watch = d.watch := by
  induction ss generalizing k d with
  | nil => rfl
  | cons s ss ih =>
    unfold entrySamples
    refine (ih ..).trans ?_
    split <;> simp

@[simp] theorem copyUa_watch (d u) : (copyUa d u).watch = d.watch := by simp [copyUa]

@[simp] theorem setTimeState_watch (d s) : (setTimeState d s).watch = d.watch := by simp [setTimeState]

@[simp] theorem setEpoch_watch (d e) : (setEpoch d e).watch = d.watch := by simp [setEpoch]

@[simp] theorem showRate_watch (d) : (showRate d).watch = d.watch := by simp [showRate]

@[simp] theorem rateToward_watch (d goal) : (rateToward d goal).watch = d.watch := by simp [rateToward]

@[simp] theorem rateTick_watch (d) : (rateTick d).watch = d.watch := by
  unfold rateTick
  split <;> simp

@[simp] theorem limitRate_watch (d) : (limitRate d).watch = d.watch := (rfl)

@[simp] theorem slewPeriod_watch (units d) : (slewPeriod units d).watch = d.watch := (rfl)

@[simp] theorem latchFrom2_watch (d v) : (latchFrom2 d v).watch = d.watch := (rfl)

@[simp] theorem timeTick_watch (d) : (timeTick d).watch = d.watch := by simp [timeTick]

@[simp] theorem servo_watch (d o) : (servo d o).watch = d.watch := by
  unfold servo
  split <;> simp

@[simp] theorem jumpRefused_watch (d o allBeyond) : (jumpRefused d o allBeyond).watch = d.watch := by simp [jumpRefused]

@[simp] theorem lockedOffset_watch (d o) : (lockedOffset d o).watch = d.watch := by simp [lockedOffset]

@[simp] theorem slewOffset_watch (d o) : (slewOffset d o).watch = d.watch := by simp [slewOffset]

@[simp] theorem acquire_watch (d raw) : (acquire d raw).watch = d.watch := by
  unfold acquire
  split <;> simp

@[simp] theorem enterAcquiring_watch (d) : (enterAcquiring d).watch = d.watch := by simp [enterAcquiring]

@[simp] theorem measured_watch (d raw) : (measured d raw).watch = d.watch := by
  unfold measured
  dsimp only
  split <;> simp

@[simp] theorem offsetsTaken_watch (d) : (offsetsTaken d).watch = d.watch := (rfl)

@[simp] theorem acquireGo_watch (d) : (acquireGo d).watch = d.watch := by simp [acquireGo]

@[simp] theorem sourceSelected_watch (d) : (sourceSelected d).watch = d.watch := by simp [sourceSelected]

@[simp] theorem setPtpPort_watch (d p v) : (setPtpPort d p v).watch = d.watch := by simp [setPtpPort]

@[simp] theorem setTtOut_watch (d k t) : (setTtOut d k t).watch = d.watch := (rfl)

@[simp] theorem ttArm_watch (d k) : (ttArm d k).watch = d.watch := by
  unfold ttArm
  split <;> simp

@[simp] theorem ttTake_watch (before d k) : (ttTake before d k).watch = d.watch := by simp [ttTake]

@[simp] theorem ttPulse_watch (d k t next) : (ttPulse d k t next).watch = d.watch := by simp [ttPulse]

@[simp] theorem setRing_watch (d l r) : (setRing d l r).watch = d.watch := (rfl)

@[simp] theorem onRing_watch (d l f) : (onRing d l f).watch = d.watch := (rfl)

@[simp] theorem onNode_watch (d l e f) : (onNode d l e f).watch = d.watch := (rfl)

@[simp] theorem setNodeState_watch (d l e s) : (setNodeState d l e s).watch = d.watch := by simp [setNodeState]

@[simp] theorem sendOn_watch (d l q f) : (sendOn d l q f).watch = d.watch := by simp [sendOn]

@[simp] theorem stampLaunch_watch (d l q) : (stampLaunch d l q).watch = d.watch := by simp [stampLaunch]

@[simp] theorem launchRing_watch (d l) : (launchRing d l).watch = d.watch := by
  unfold launchRing
  split <;> simp

@[simp] theorem takeCount_watch (d j low start) : (takeCount d j low start).watch = d.watch := by
  unfold takeCount
  split <;> simp

@[simp] theorem takeFeedback_watch (d l e vals) : (takeFeedback d l e vals).watch = d.watch := by simp [takeFeedback]

@[simp] theorem takeSafety_watch (d l e frame dir data) : (takeSafety d l e frame dir data).watch = d.watch := by simp [takeSafety]

@[simp] theorem takeWindow_watch (d l frame dir bs e) : (takeWindow d l frame dir bs e).watch = d.watch := by simp [takeWindow]

@[simp] theorem admitNode_watch (d l e) : (admitNode d l e).watch = d.watch := by simp [admitNode]

@[simp] theorem countAdmitted_watch (d l) : (countAdmitted d l).watch = d.watch := by simp [countAdmitted]

@[simp] theorem mismatch_watch (d l e) : (mismatch d l e).watch = d.watch := by simp [mismatch]

@[simp] theorem judgeOutside_watch (d l e inG ready) : (judgeOutside d l e inG ready).watch = d.watch := by simp [judgeOutside]

@[simp] theorem guardFailed_watch (d l e) : (guardFailed d l e).watch = d.watch := by simp [guardFailed]

@[simp] theorem removeNode_watch (d l e) : (removeNode d l e).watch = d.watch := by simp [removeNode]

@[simp] theorem judgeInside_watch (d l e err inG) : (judgeInside d l e err inG).watch = d.watch := by simp [judgeInside]

@[simp] theorem judgeSync_watch (d l e err ready) : (judgeSync d l e err ready).watch = d.watch := by
  unfold judgeSync
  dsimp only
  split <;> simp

@[simp] theorem notMeasured_watch (d l e) : (notMeasured d l e).watch = d.watch := (rfl)

@[simp] theorem evalNode_watch (d l t e) : (evalNode d l t e).watch = d.watch :=
  (evalNode_tells d l e t).frame.watch_eq (by simp) (by simp) (by simp) (by simp)

@[simp] theorem judgeClaim_watch (d l e) : (judgeClaim d l e).watch = d.watch := by
  unfold judgeClaim
  dsimp only
  repeat' split
  all_goals simp

@[simp] theorem showBudget_watch (d l) : (showBudget d l).watch = d.watch :=
  (Dev.wr_watch _ _ _ _ (by simp)).trans (Dev.wr_watch _ _ _ _ (by simp))

@[simp] theorem setRingTime_watch (d l t) : (setRingTime d l t).watch = d.watch := by simp [setRingTime]

@[simp] theorem countBlocks_watch (d l q bs) : (countBlocks d l q bs).watch = d.watch := by simp [countBlocks]

@[simp] theorem errorFrame_watch (l d q) : (errorFrame l d q).watch = d.watch :=
  (Dev.when_watch _ _ (Dev.record_watch ..)).trans (onRing_watch ..)

@[simp] theorem ringBreak_watch (d l turnId) : (ringBreak d l turnId).watch = d.watch := by simp [ringBreak]

@[simp] theorem closeCycle_watch (d l) : (closeCycle d l).watch = d.watch := by simp [closeCycle]

@[simp] theorem takeTail_watch (d l q dir b) : (takeTail d l q dir b).watch = d.watch := by simp [takeTail]

@[simp] theorem takeCopy_watch (d l c) : (takeCopy d l c).watch = d.watch := by
  unfold takeCopy
  dsimp only
  split <;> simp

@[simp] theorem stopMaster_watch (d l) : (stopMaster d l).watch = d.watch := by simp [stopMaster]

@[simp] theorem foreignFrame_watch (d l master) : (foreignFrame d l master).watch = d.watch := by simp [foreignFrame]

@[simp] theorem returnCopy_watch (d l c) : (returnCopy d l c).watch = d.watch := by
  unfold returnCopy
  dsimp only
  repeat' split
  all_goals simp

@[simp] theorem setPort_watch (d l q up) : (setPort d l q up).watch = d.watch := by simp [setPort]

@[simp] theorem portDown_watch (d l q) : (portDown d l q).watch = d.watch := by
  unfold portDown
  dsimp only
  repeat' split
  all_goals simp

@[simp] theorem closeBypass_watch (d l) : (closeBypass d l).watch = d.watch := by
  unfold closeBypass
  dsimp only
  repeat' split
  all_goals simp

@[simp] theorem forgetNodes_watch (d l) : (forgetNodes d l).watch = d.watch := by simp [forgetNodes]

@[simp] theorem useSchedule_watch (d l s id) : (useSchedule d l s id).watch = d.watch := by simp [useSchedule]

@[simp] theorem newSchedule_watch (d l s id) : (newSchedule d l s id).watch = d.watch := by simp [newSchedule]

@[simp] theorem startRing_watch (d l) : (startRing d l).watch = d.watch := by
  unfold startRing
  dsimp only
  split <;> simp

@[simp] theorem classify_watch (d l p i) : (classify d l p i).watch = d.watch := by
  unfold classify
  dsimp only
  split <;> simp

@[simp] theorem endEnumeration_watch (d l n nodes) : (endEnumeration d l n nodes).watch = d.watch := by simp [endEnumeration]

@[simp] theorem endUnstable_watch (d l n) : (endUnstable d l n).watch = d.watch := by simp [endUnstable]

@[simp] theorem judgeEnumeration_watch (d l) : (judgeEnumeration d l).watch = d.watch := by
  unfold judgeEnumeration
  dsimp only
  split <;> simp

@[simp] theorem takeEnumeration_watch (d l c) : (takeEnumeration d l c).watch = d.watch := by simp [takeEnumeration]

@[simp] theorem setLane_watch (d l) (x : LaneState) (hx : x.gates = (laneOf d l).gates ∧ x.safeOk = (laneOf d l).safeOk) :
    (setLane d l x).watch = d.watch := by
  have h (k : Lane) : ((d.lanes.set l x).get k).gates = (d.lanes.get k).gates ∧ ((d.lanes.set l x).get k).safeOk = (d.lanes.get k).safeOk
      := by
    rw [PerLane.get_set]
    split
    · subst k; exact hx
    · exact ⟨rfl, rfl⟩
  simp [Dev.watch, watchOf, setLane, h]

@[simp] theorem onSaf_watch (d l f) : (onSaf d l f).watch = d.watch := by simp [onSaf]

@[simp] theorem showVote_watch (d) : (showVote d).watch = d.watch := by simp [showVote]

@[simp] theorem withdrawEnables_watch (d) : (withdrawEnables d).watch = d.watch := by simp [withdrawEnables]

@[simp] theorem demandAll_watch (d u cause kind index) : (demandAll d u cause kind index).watch = d.watch := by simp [demandAll]

@[simp] theorem stopAll_watch (d cause) : (stopAll d cause).watch = d.watch := by simp [stopAll]

@[simp] theorem showFaults_watch (d l) : (showFaults d l).watch = d.watch := by simp [showFaults]

@[simp] theorem ageFaults_watch (d l) : (ageFaults d l).watch = d.watch := by simp [ageFaults]

@[simp] theorem lanePenalty_watch (d l) : (lanePenalty d l).watch = d.watch := by simp [lanePenalty]

@[simp] theorem sendRecord_watch (d l) : (sendRecord d l).watch = d.watch := by simp [sendRecord]

@[simp] theorem exchangeError_watch (d rx tx crc) : (exchangeError d rx tx crc).watch = d.watch := by
  unfold exchangeError
  split <;> simp

@[simp] theorem countOutliers_watch (d l out) : (countOutliers d l out).watch = d.watch := by simp [countOutliers]

@[simp] theorem noteOutliers_watch (d l item copies out) : (noteOutliers d l item copies out).watch = d.watch := by simp [noteOutliers]

@[simp] theorem judgeNodes_watch (d l rs) : (judgeNodes d l rs).watch = d.watch := by simp [judgeNodes]

@[simp] theorem judgeOutliers_watch (d l rs) : (judgeOutliers d l rs).watch = d.watch := by simp [judgeOutliers]

@[simp] theorem judgeLinks_watch (d l) : (judgeLinks d l).watch = d.watch := by
  unfold judgeLinks
  dsimp only
  refine (Dev.each_watch (fun b x => ?_) ..).trans ?_
  all_goals repeat' split
  all_goals simp

@[simp] theorem noteFallback_watch (d l i node fell) : (noteFallback d l i node fell).watch = d.watch := by simp [noteFallback]

@[simp] theorem showVolumes_watch (d cfg vols) : (showVolumes d cfg vols).watch = d.watch := by simp [showVolumes]

@[simp] theorem showPairs_watch (d cfg) : (showPairs d cfg).watch = d.watch := by simp [showPairs]

@[simp] theorem sepTick_watch (d) : (sepTick d).watch = d.watch := by simp [sepTick]

@[simp] theorem startPass_watch (d l) : (startPass d l).watch = d.watch := by
  unfold startPass
  extract_lets x cfg tf sv vols places caps far armExit volExit leaving armHit outs k record d1 first d2 d3 d4
  have h1 : d1.watch = d.watch := onLane_watch _ _ _ fun _ => ⟨rfl, rfl⟩
  have h2 : d2.watch = d.watch := by
    refine (Dev.each_watch (fun b p => ?_) ..).trans h1
    exact (Dev.each_watch (fun _ _ => noteOutliers_watch ..) ..).trans (noteFallback_watch ..)
  have h3 : d3.watch = d.watch := (Dev.each_watch (fun b o => by simp) ..).trans h2
  have h4 : d4.watch = d.watch := (Dev.each_watch (fun b s => by simp) ..).trans h3
  split
  · exact (showVolumes_watch ..).trans h4
  · exact h4

@[simp] theorem nameSuspect_watch (d l m) : (nameSuspect d l m).watch = d.watch := by simp [nameSuspect]

@[simp] theorem countPassOutliers_watch (d vs) : (countPassOutliers d vs).watch = d.watch := by simp [countPassOutliers]

@[simp] theorem votePass_watch (d l) : (votePass d l).watch = d.watch := by
  unfold votePass
  extract_lets x cfg rs second first d1 d1' d2 voteOf d3 d4 arms
  have h1 : d1.watch = d.watch := by simp [d1]
  have h2 : d2.watch = d.watch := by
    unfold d2
    split
    · exact (Dev.each_watch (fun b m => by split <;> simp) ..).trans (by simp [d1', h1])
    · exact h1
  have h3 : d3.watch = d.watch := by simp [d3, h2]
  have h4 : d4.watch = d.watch := by
    refine (Dev.each_watch (fun b p => ?_) ..).trans h3
    extract_lets a xs v old runs e1 e2 e3 e4 src e5 e6 e7 e8 e9 e10
    have k2 : e2.watch = b.watch := by simp [e2, e1]
    have k3 : e3.watch = b.watch := by
      unfold e3
      repeat' split
      all_goals simp [k2]
    split
    · split <;> simp [e10, e9, e8, e7, e6, e5, e4, k3]
    · exact k3
  split <;> simp [h4]

@[simp] theorem advanceSafety_watch (d l) : (advanceSafety d l).watch = d.watch := by simp [advanceSafety]

@[simp] theorem showInput_watch (d l i) : (showInput d l i).watch = d.watch := by simp [showInput]

@[simp] theorem showUnit_watch (d l u) : (showUnit d l u).watch = d.watch := by simp [showUnit]

@[simp] theorem showBrake_watch (d l k) : (showBrake d l k).watch = d.watch := by simp [showBrake]

@[simp] theorem inLanes_watch (d) {f sh : Dev → Lane → Dev} (hf : ∀ b l, (f b l).watch = b.watch) (hs : ∀ b l, (sh b l).watch = b.watch) :
    (inLanes d f sh).watch = d.watch :=
  (hs _ _).trans (Dev.each_watch hf ..)

@[simp] theorem onUnit_watch (d l u f) : (onUnit d l u f).watch = d.watch := by simp [onUnit]

@[simp] theorem onBrake_watch (d l k f) : (onBrake d l k f).watch = d.watch := by simp [onBrake]

@[simp] theorem dropUnitTests_watch (d l u) : (dropUnitTests d l u).watch = d.watch := by simp [dropUnitTests]

@[simp] theorem evalUnit_watch (d l u) : (evalUnit d l u).watch = d.watch := by simp [evalUnit]

@[simp] theorem inUnits_watch (d u p f) : (inUnits d u p f).watch = d.watch := by simp [inUnits]

@[simp] theorem ackUnit_watch (d l u) : (ackUnit d l u).watch = d.watch := by simp [ackUnit]

@[simp] theorem leaveSafe_watch (d) : (leaveSafe d).watch = d.watch := by simp [leaveSafe]

@[simp] theorem lockChannel_watch (d l k) : (lockChannel d l k).watch = d.watch := by
  unfold lockChannel
  dsimp only
  split <;> simp

@[simp] theorem checkBrake_watch (d l k) : (checkBrake d l k).watch = d.watch := by simp [checkBrake]

@[simp] theorem testPass_watch (d l k t) : (testPass d l k t).watch = d.watch := by
  unfold testPass
  dsimp only
  repeat' split
  all_goals simp

@[simp] theorem settleTest_watch (d l k) : (settleTest d l k).watch = d.watch := by
  unfold settleTest
  dsimp only
  repeat' split
  all_goals simp

@[simp] theorem abandonDark_watch (d l) : (abandonDark d l).watch = d.watch := by
  unfold abandonDark
  dsimp only
  refine (Dev.each_watch (fun b x => ?_) ..).trans ?_
  all_goals repeat' split
  all_goals simp

@[simp] theorem commandBrakes_watch (d l) : (commandBrakes d l).watch = d.watch := by simp [commandBrakes]

@[simp] theorem judgeLinkFaults_watch (d l) : (judgeLinkFaults d l).watch = d.watch := by simp [judgeLinkFaults]

@[simp] theorem compareDecisions_watch (d l) : (compareDecisions d l).watch = d.watch := by simp [compareDecisions]

@[simp] theorem agreeRemain_watch (d l) : (agreeRemain d l).watch = d.watch := by
  unfold agreeRemain
  dsimp only
  split <;> simp

@[simp] theorem showDegraded_watch (d) : (showDegraded d).watch = d.watch := by simp [showDegraded]

@[simp] theorem writeCorr_watch (d ch v) : (writeCorr d ch v).watch = d.watch := by simp [writeCorr]

@[simp] theorem checkCorr_watch (d l) : (checkCorr d l).watch = d.watch := by
  unfold checkCorr
  dsimp only
  refine (Dev.each_watch (fun b x => ?_) ..).trans ?_
  all_goals repeat' split
  all_goals simp

@[simp] theorem stepMode_watch (d) : (stepMode d).watch = d.watch := by
  unfold stepMode
  dsimp only
  split <;> simp

@[simp] theorem showSafety_watch (d) : (showSafety d).watch = d.watch := by simp [showSafety]

@[simp] theorem evalFunctions_watch (d l) : (evalFunctions d l).watch = d.watch := by simp [evalFunctions]

@[simp] theorem arbDemand_watch (d l) : (arbDemand d l).watch = d.watch := by simp [arbDemand]

@[simp] theorem serveRuns_watch (d m) : (serveRuns d m).watch = d.watch := by simp [serveRuns]

@[simp] theorem startArb_watch (sigs d named) : (startArb sigs d named).watch = d.watch := by simp [startArb]

@[simp] theorem endArb_watch (d c) : (endArb d c).watch = d.watch := by simp [endArb]

@[simp] theorem loadSafe_watch (d l) : (loadSafe d l).watch = d.watch := (rfl)

@[simp] theorem showKeys_watch (d) : (showKeys d).watch = d.watch := by simp [showKeys]

@[simp] theorem enrol_watch (d h) : (enrol d h).watch = d.watch := by simp [enrol]

@[simp] theorem reportPackage_watch (d r) : (reportPackage d r).watch = d.watch := by simp [reportPackage]

@[simp] theorem acceptPackage_watch (d p) : (acceptPackage d p).1.watch = d.watch := by
  unfold acceptPackage
  dsimp only
  repeat' split
  all_goals simp

@[simp] theorem configure_watch (d p) : (configure d p).watch = d.watch := by simp [configure]

@[simp] theorem onGrp_watch (d f) : (onGrp d f).watch = d.watch := (rfl)

@[simp] theorem onLevel_watch (d l f) : (onLevel d l f).watch = d.watch := (rfl)

@[simp] theorem onMember_watch (d l m f) : (onMember d l m f).watch = d.watch := (rfl)

@[simp] theorem dropAbove_watch (d l) : (dropAbove d l).watch = d.watch := (rfl)

@[simp] theorem onHost_watch (d f) : (onHost d f).watch = d.watch := (rfl)

@[simp] theorem showFlight_watch (d) : (showFlight d).watch = d.watch := by simp [showFlight]

@[simp] theorem putCqe_watch (d q bs replay) : (putCqe d q bs replay).watch = d.watch := by simp [putCqe]

@[simp] theorem onFlight_watch (d sq rsn f) : (onFlight d sq rsn f).watch = d.watch := (rfl)

@[simp] theorem finish_watch (d c e) : (finish d c e).watch = d.watch := by
  have put (b : Dev) (bs) : (match c.cq with | some q => putCqe b q bs false | none => b).watch = b.watch := by
    split <;> simp
  unfold finish
  dsimp only
  split
  · exact (showFlight_watch _).trans ((Dev.emit_watch ..).trans (onHost_watch ..))
  · exact (showFlight_watch _).trans ((put ..).trans ((onHost_watch ..).trans (onHost_watch ..)))

@[simp] theorem complete_watch (d sq rsn e) : (complete d sq rsn e).watch = d.watch := by
  unfold complete
  split <;> simp

@[simp] theorem startCmd_watch (d sq rsn) : (startCmd d sq rsn).watch = d.watch := (rfl)

@[simp] theorem sendLanes_watch (d g quar) : (sendLanes d g quar).watch = d.watch := (rfl)

@[simp] theorem groupDue_watch (d) : (groupDue d).watch = d.watch := by
  unfold groupDue
  dsimp only
  split <;> simp

@[simp] theorem forward_watch (d sq rsn level slot entry bits) :
    (forward d sq rsn level slot entry bits).watch = d.watch := by simp [forward]

@[simp] theorem partDone_watch (d tag e) : (partDone d tag e).watch = d.watch := by
  unfold partDone
  split <;> simp

@[simp] theorem showMember_watch (l d m) : (showMember l d m).watch = d.watch := by simp [showMember]

@[simp] theorem clearMember_watch (d m) : (clearMember d m).watch = d.watch := by
  refine (Dev.each_watch (fun b x => by simp) ..).trans (Dev.each_watch_mem (fun b f hf => Dev.wr_watch _ _ _ _ ?_) d)
  rintro rfl
  simp at hf

@[simp] theorem showMap_watch (l units d i) : (showMap l units d i).watch = d.watch := by
  unfold showMap
  split <;> split <;> simp

@[simp] theorem showCaps_watch (d) : (showCaps d).watch = d.watch := by
  unfold showCaps
  split
  · refine (Dev.each_watch (fun b x => by simp) ..).trans (Dev.each_watch_mem (fun b f hf => Dev.wr_watch _ _ _ _ ?_) d)
    rintro rfl
    simp at hf
  · simp

@[simp] theorem showGroup_watch (d) : (showGroup d).watch = d.watch := by
  unfold showGroup
  dsimp only
  repeat' split
  all_goals simp

@[simp] theorem setG_watch (d l g slot reason) : (setG d l g slot reason).watch = d.watch := by simp [setG]

@[simp] theorem onPln_watch (d f) : (onPln d f).watch = d.watch := (rfl)

@[simp] theorem onArm_watch (d a f) : (onArm d a f).watch = d.watch := (rfl)

@[simp] theorem writeSeg_watch (d s g) : (writeSeg d s g).watch = d.watch := by simp [writeSeg]

@[simp] theorem cutRing_watch (d fs s) : (cutRing d fs s).watch = d.watch := (rfl)

@[simp] theorem writeDue_watch (d r due) : (writeDue d r due).1.watch = d.watch := by simp [writeDue]

@[simp] theorem feedRun_watch (d r fs) : (feedRun d r fs).1.watch = d.watch := by simp [feedRun]

@[simp] theorem feedUntil_watch (d r fs) : (feedUntil d r fs).1.watch = d.watch := by simp [feedUntil]

@[simp] theorem showArm_watch (d a) : (showArm d a).watch = d.watch := by simp [showArm]

@[simp] theorem showPlan_watch (d) : (showPlan d).watch = d.watch := by simp [showPlan]

@[simp] theorem endCmd_watch (d c r) : (endCmd d c r).watch = d.watch := by simp [endCmd]

@[simp] theorem endRun_watch (d r code fin) : (endRun d r code fin).watch = d.watch := by simp [endRun]

@[simp] theorem headReached_watch (d a n) : (headReached d a n).watch = d.watch := by
  induction n generalizing d with
  | zero => rfl
  | succ n ih =>
    unfold headReached
    repeat' split
    all_goals simp [ih]

@[simp] theorem failHead_watch (d a r) : (failHead d a r).watch = d.watch := by
  unfold failHead
  split <;> simp

@[simp] theorem enqueuePlan_watch (d a sq rsn op body) : (enqueuePlan d a sq rsn op body).watch = d.watch := by simp [enqueuePlan]

@[simp] theorem giveBack_watch (d b c) : (giveBack d b c).watch = d.watch := by simp [giveBack]

@[simp] theorem unplan_watch (d a) : (unplan d a).watch = d.watch := (rfl)

@[simp] theorem flushQueue_watch (d a r) : (flushQueue d a r).watch = d.watch := by simp [flushQueue]

@[simp] theorem stage_watch (d c) : (stage d c).watch = d.watch := (rfl)

@[simp] theorem unstage_watch (d a) : (unstage d a).watch = d.watch := (rfl)

@[simp] theorem withdrawGrants_watch (d a fs rel) : (withdrawGrants d a fs rel).watch = d.watch := by
  refine Dev.each_watch (fun b k => ?_) d _
  dsimp only
  split
  · split <;> simp
  · split <;> simp
  · rfl

@[simp] theorem releaseZones_watch (d a mask) : (releaseZones d a mask).watch = d.watch := by simp [releaseZones]

@[simp] theorem grantZones_watch (d a) : (grantZones d a).watch = d.watch := by
  unfold grantZones
  repeat' split
  all_goals simp

@[simp] theorem applyPart_watch (d fs p) : (applyPart d fs p).watch = d.watch := by
  unfold applyPart
  extract_lets a x d1 cut _ passes e1 e2 inNext
  have h1 : d1.watch = d.watch := Dev.each_watch (fun b q => by dsimp only; repeat' split; all_goals simp) ..
  have hcut (b : Dev) : (cut b).watch = b.watch := by simp [cut]
  have h2 : e2.watch = d.watch := by
    unfold e2
    split <;> simp [e1, h1, hcut]
  clear_value d1 cut e2 inNext
  split
  · simp [h1, hcut]
  · cases x.run <;> simp [h1, hcut]
  · dsimp only
    cases p.next with
    | none => split <;> simp [h2]
    | some n => split <;> simp [h2, apply_ite Prod.fst]

@[simp] theorem answerPart_watch (d fs p) : (answerPart d fs p).watch = d.watch := by simp [answerPart]

@[simp] theorem refuseCommit_watch (d c) : (refuseCommit d c).watch = d.watch := by simp [refuseCommit]

@[simp] theorem applyCommit_watch (d c) : (applyCommit d c).watch = d.watch := by simp [applyCommit]

@[simp] theorem storeLow_watch (d) : (storeLow d).watch = d.watch := by simp [storeLow]

@[simp] theorem grantWaiting_watch (d) : (grantWaiting d).watch = d.watch := by
  unfold grantWaiting
  dsimp only
  refine (Dev.each_watch (fun b x => ?_) ..).trans ?_
  all_goals repeat' split
  all_goals simp

@[simp] theorem stageStart_watch (d a c p flags points track couples) :
    (stageStart d a c p flags points track couples).watch = d.watch := by
  unfold stageStart
  repeat' split
  all_goals simp

@[simp] theorem stageBlend_watch (d a c fs p flags points) : (stageBlend d a c fs p flags points).watch = d.watch := (rfl)

@[simp] theorem denyBlend_watch (d a) : (denyBlend d a).watch = d.watch := (rfl)

@[simp] theorem blendOrDeny_watch (d a c r o b ok flags points) : (blendOrDeny d a c r o b ok flags points).watch = d.watch := by
  unfold blendOrDeny
  split <;> simp

@[simp] theorem countIk_watch (d n) : (countIk d n).watch = d.watch := (rfl)

@[simp] theorem planAgain_watch (d a m r) : (planAgain d a m r).watch = d.watch := by
  unfold planAgain
  dsimp only
  repeat' split
  all_goals simp

@[simp] theorem planCart_watch (d a op) : (planCart d a op).watch = d.watch := by
  unfold planCart
  dsimp only
  repeat' split
  all_goals simp

@[simp] theorem clampFlags_watch (d a) : (clampFlags d a).watch = d.watch := by simp [clampFlags]

@[simp] theorem stageSplice_watch (d a x stopSet mode change answer couples) :
    (stageSplice d a x stopSet mode change answer couples).watch = d.watch := by
  unfold stageSplice
  dsimp only
  split
  · rfl
  · refine (stage_watch ..).trans ((Dev.each_watch (fun _ _ => startCmd_watch ..) ..).trans ?_)
    split <;> simp

@[simp] theorem answerNow_watch (d sq rsn r) : (answerNow d sq rsn r).watch = d.watch := by simp [answerNow]

@[simp] theorem abortOverrides_watch (d a) : (abortOverrides d a).1.watch = d.watch := by simp [abortOverrides]

@[simp] theorem endHere_watch (d a code) : (endHere d a code).watch = d.watch := by
  unfold endHere
  dsimp only
  repeat' split
  all_goals simp

@[simp] theorem dropCouples_watch (d cs) : (dropCouples d cs).watch = d.watch := by simp [dropCouples]

@[simp] theorem stopSplice_watch (d a mode answer couples) : (stopSplice d a mode answer couples).watch = d.watch := by
  unfold stopSplice
  dsimp only
  repeat' split
  all_goals simp

@[simp] theorem startCouple_watch (d a c s x) : (startCouple d a c s x).watch = d.watch := by simp [startCouple]

@[simp] theorem endCouple_watch (d a s) : (endCouple d a s).watch = d.watch := by simp [endCouple]

@[simp] theorem endCoupling_watch (d a r) : (endCoupling d a r).watch = d.watch := by
  unfold endCoupling
  split <;> simp

@[simp] theorem planDrained_watch (d a fin) : (planDrained d a fin).watch = d.watch := by
  unfold planDrained
  dsimp only
  split <;> simp

theorem cancelPlan_watch {d e sq rsn} (h : cancelPlan d sq rsn = some e) : e.watch = d.watch := by
  unfold cancelPlan at h
  dsimp only at h
  split at h
  · cases h
  · obtain rfl := Option.some.inj h
    simp

@[simp] theorem planPeriod_watch (d) : (planPeriod d).watch = d.watch := by simp [planPeriod]

@[simp] theorem putTable_watch (d kind i b) : (putTable d kind i b).watch = d.watch := (rfl)

@[simp] theorem onPwr_watch (d f) : (onPwr d f).watch = d.watch := (rfl)

@[simp] theorem setHeld_watch (d i cause on) : (setHeld d i cause on).watch = d.watch := (rfl)

@[simp] theorem logReset_watch (d cause scope) : (logReset d cause scope).watch = d.watch := by simp [logReset]

@[simp] theorem countLaneReset_watch (d x) : (countLaneReset d x).watch = d.watch := by simp [countLaneReset]

@[simp] theorem supplyRelease_watch (d l) : (supplyRelease d l).watch = d.watch := by simp [supplyRelease]

@[simp] theorem clearLog_watch (d) : (clearLog d).watch = d.watch := by simp [clearLog]

@[simp] theorem measureSupply_watch (m d l) : (measureSupply m d l).watch = d.watch := by simp [measureSupply]

@[simp] theorem measureTemp_watch (d p) : (measureTemp d p).watch = d.watch := by
  unfold measureTemp
  dsimp only
  repeat' split
  all_goals simp

@[simp] theorem shiftHistory_watch (d l) : (shiftHistory d l).watch = d.watch := by simp [shiftHistory]

@[simp] theorem readTail_watch (block d q) : (readTail block d q).watch = d.watch := by simp [readTail]

@[simp] theorem readHead_watch (block d q) : (readHead block d q).watch = d.watch := by simp [readHead]

@[simp] theorem forwardUnits_watch (sq rsn e ts d k) : (forwardUnits sq rsn e ts d k).watch = d.watch := by simp [forwardUnits]

@[simp] theorem route_watch (d sq rsn op e) : (route d sq rsn op e).watch = d.watch := by
  unfold route
  repeat' split
  all_goals simp

@[simp] theorem answerEntry_watch (d c cq e) : (answerEntry d c cq e).watch = d.watch := by simp [answerEntry]

@[simp] theorem requestUnit_watch (d u on) : (requestUnit d u on).1.watch = d.watch := by
  unfold requestUnit
  dsimp only
  repeat' split
  all_goals simp

@[simp] theorem onFw_watch (d slot f) : (onFw d slot f).watch = d.watch := (rfl)

@[simp] theorem sqEnable_watch (d m q en seqReset) : (sqEnable d m q en seqReset).watch = d.watch := by simp [sqEnable]

@[simp] theorem cqEnable_watch (d m q en) : (cqEnable d m q en).watch = d.watch := by simp [cqEnable]

@[simp] theorem evqEnable_watch (d en) : (evqEnable d en).watch = d.watch := by simp [evqEnable]

@[simp] theorem assumePartition_watch (d l) : (assumePartition d l).watch = d.watch := by simp [assumePartition]

@[simp] theorem countMember_watch (l d m) : (countMember l d m).watch = d.watch := by simp [countMember]

@[simp] theorem stewardCycle_watch (d l) : (stewardCycle d l).watch = d.watch := by simp [stewardCycle]

@[simp] theorem acceptFrame_watch (d groupId slot level length) : (acceptFrame d groupId slot level length).1.watch = d.watch := by
  unfold acceptFrame
  repeat' split
  all_goals simp

@[simp] theorem stewardTime_watch (d l f) : (stewardTime d l f).watch = d.watch := by
  unfold stewardTime
  dsimp only
  split <;> simp

@[simp] theorem joinCheck_watch (d l) : (joinCheck d l).watch = d.watch := by simp [joinCheck]

@[simp] theorem ttQuiet_watch (d k) : (ttQuiet d k).watch = d.watch := by simp [ttQuiet]

@[simp] theorem quarantineCheck_watch (d l f) : (quarantineCheck d l f).watch = d.watch := by simp [quarantineCheck]

@[simp] theorem followSteward_watch (d l f) : (followSteward d l f).watch = d.watch := by simp [followSteward]

@[simp] theorem flushSlot_watch (d l m) : (flushSlot d l m).watch = d.watch := by simp [flushSlot]

@[simp] theorem leaveQuarantine_watch (d l) : (leaveQuarantine d l).watch = d.watch := by simp [leaveQuarantine]

@[simp] theorem rejoin_watch (d) : (rejoin d).watch = d.watch := by simp [rejoin]

@[simp] theorem groupRestart_watch (d) : (groupRestart d).watch = d.watch := (rfl)

@[simp] theorem onFb_watch (d k f) : (onFb d k f).watch = d.watch := (rfl)

@[simp] theorem onSp_watch (d k f) : (onSp d k f).watch = d.watch := (rfl)

@[simp] theorem chanFault_watch (d k) : (chanFault d k).watch = d.watch := by simp [chanFault]

@[simp] theorem chanError_watch (d k t) : (chanError d k t).watch = d.watch := by
  unfold chanError
  dsimp only
  split <;> simp

@[simp] theorem refCheck_watch (d k ok t) : (refCheck d k ok t).watch = d.watch := by simp [refCheck]

@[simp] theorem reference_watch (d k y t period reversal) : (reference d k y t period reversal).watch = d.watch := by
  unfold reference
  dsimp only
  repeat' split
  all_goals simp

@[simp] theorem repeatCount_watch (up d j) : (repeatCount up d j).watch = d.watch := by
  unfold repeatCount
  dsimp only
  repeat' split
  all_goals simp

@[simp] theorem repeatCounts_watch (d k n) : (repeatCounts d k n).watch = d.watch := by simp [repeatCounts]

@[simp] theorem repeatReference_watch (d k) : (repeatReference d k).watch = d.watch := by simp [repeatReference]

@[simp] theorem addCounts_watch (d k n t) : (addCounts d k n t).watch = d.watch := by simp [addCounts]

@[simp] theorem quadError_watch (d k t) : (quadError d k t).watch = d.watch := by simp [quadError]

@[simp] theorem indexEvent_watch (d k up t) : (indexEvent d k up t).watch = d.watch := by simp [indexEvent]

@[simp] theorem quadEdge_watch (d k old a b z t) : (quadEdge d k old a b z t).watch = d.watch := by simp [quadEdge]

@[simp] theorem toothEdge_watch (d k b t) : (toothEdge d k b t).watch = d.watch := by
  unfold toothEdge
  dsimp only
  repeat' split
  all_goals simp

@[simp] theorem showMotion_watch (d k) : (showMotion d k).watch = d.watch := by simp [showMotion]

@[simp] theorem fbReject_watch (d k) : (fbReject d k).watch = d.watch := by simp [fbReject]

@[simp] theorem badSample_watch (d k crc) : (badSample d k crc).watch = d.watch := by
  unfold badSample
  split <;> simp

@[simp] theorem showPort_watch (d k) : (showPort d k).watch = d.watch := by simp [showPort]

@[simp] theorem goodWord_watch (d k len x) : (goodWord d k len x).watch = d.watch := by simp [goodWord]

@[simp] theorem fbClear_watch (d k) : (fbClear d k).watch = d.watch := (rfl)

@[simp] theorem fbPreset_watch (d m k used) : (fbPreset d m k used).watch = d.watch := by simp [fbPreset]

@[simp] theorem fbEnable_watch (d k) : (fbEnable d k).watch = d.watch := (rfl)

@[simp] theorem latchRequests_watch (d k) : (latchRequests d k).watch = d.watch := by simp [latchRequests]

@[simp] theorem latchFeedback_watch (d k) : (latchFeedback d k).watch = d.watch := by simp [latchFeedback]

@[simp] theorem hedge_watch (d k t) : (hedge d k t).1.watch = d.watch := by
  unfold hedge
  dsimp only
  repeat' split
  all_goals simp

@[simp] theorem loadTarget_watch (d k t v) : (loadTarget d k t v).watch = d.watch := by simp [loadTarget]

@[simp] theorem stageLines_watch (d k en aux) : (stageLines d k en aux).watch = d.watch := (rfl)

@[simp] theorem stepOut_watch (d k up) : (stepOut d k up).watch = d.watch := (rfl)

@[simp] theorem quadOut_watch (d k up) : (quadOut d k up).watch = d.watch := (rfl)

@[simp] theorem stallAct_watch (d k fb) : (stallAct d k fb).watch = d.watch := by simp [stallAct]

@[simp] theorem checkSteps_watch (d k) : (checkSteps d k).watch = d.watch := by
  unfold checkSteps
  dsimp only
  repeat' split
  all_goals simp

@[simp] theorem rebase_watch (d k) : (rebase d k).watch = d.watch := (rfl)

@[simp] theorem latchRearm_watch (d k heldBefore heldNew) : (latchRearm d k heldBefore heldNew).watch = d.watch := by simp [latchRearm]

@[simp] theorem planSteps_watch (d k) : (planSteps d k).watch = d.watch := by simp [planSteps]

@[simp] theorem latchStep_watch (d k) : (latchStep d k).watch = d.watch := by simp [latchStep]

@[simp] theorem stpRun_watch (d k v) : (stpRun d k v).watch = d.watch := by simp [stpRun]

@[simp] theorem stpRearm_watch (d k) : (stpRearm d k).watch = d.watch := (rfl)

@[simp] theorem latchPorts_watch (d) : (latchPorts d).watch = d.watch := by simp [latchPorts]

@[simp] theorem axesPeriod_watch (d) : (axesPeriod d).watch = d.watch := by simp [axesPeriod]

@[simp] theorem onMil_watch (d f) : (onMil d f).watch = d.watch := (rfl)

@[simp] theorem onMj_watch (d j f) : (onMj d j f).watch = d.watch := (rfl)

@[simp] theorem onMs_watch (d k f) : (onMs d k f).watch = d.watch := (rfl)

@[simp] theorem stepMasters_watch (d) : (stepMasters d).watch = d.watch := by
  unfold stepMasters
  dsimp only
  refine (Dev.each_watch (fun b x => ?_) ..).trans ?_
  all_goals repeat' split
  all_goals simp

@[simp] theorem totalRef_watch (d s f prep super r) : (totalRef d s f prep super r).1.watch = d.watch := by
  unfold totalRef
  split <;> simp

@[simp] theorem loadImage_watch (d l i) : (loadImage d l i).watch = d.watch := by simp [loadImage]

@[simp] theorem enterHold_watch (d cause) : (enterHold d cause).watch = d.watch := by simp [enterHold]

@[simp] theorem enterStandstill_watch (d f k) : (enterStandstill d f k).watch = d.watch := by
  unfold enterStandstill
  split <;> simp

@[simp] theorem prepareSlot_watch (d f s) : (prepareSlot d f s).watch = d.watch := by simp [prepareSlot]

@[simp] theorem checkpoint_watch (d n e) : (checkpoint d n e).watch = d.watch := (rfl)

@[simp] theorem engineFault_watch (d p cause) : (engineFault d p cause).watch = d.watch := by
  unfold engineFault
  dsimp only
  repeat' split
  all_goals simp

@[simp] theorem restore_watch (d c) : (restore d c).watch = d.watch := by
  unfold restore
  dsimp only
  refine (Dev.each_watch (fun b x => ?_) ..).trans ?_
  all_goals simp

@[simp] theorem wholeMissed_watch (d done) : (wholeMissed d done).watch = d.watch := by simp [wholeMissed]

@[simp] theorem observeJoint_watch (d j) : (observeJoint d j).watch = d.watch := by
  unfold observeJoint
  split <;> simp

@[simp] theorem referSlot_watch (d f s) : (referSlot d f s).watch = d.watch := by simp [referSlot]

@[simp] theorem outputJoint_watch (d j) : (outputJoint d j).watch = d.watch := by simp [outputJoint]

@[simp] theorem closeSlot_watch (d s) : (closeSlot d s).watch = d.watch := (rfl)

@[simp] theorem missSlot_watch (d s) : (missSlot d s).watch = d.watch := by
  unfold missSlot
  dsimp only
  repeat' split
  all_goals simp

@[simp] theorem hitSlot_watch (d s) : (hitSlot d s).watch = d.watch := by simp [hitSlot]

@[simp] theorem onTlm_watch (d f) : (onTlm d f).watch = d.watch := (rfl)

@[simp] theorem sampleTlm_watch (d n) : (sampleTlm d n).watch = d.watch := by
  unfold sampleTlm
  split
  · rfl
  · extract_lets i e
    have he : e.watch = d.watch := by simp [e]
    split
    · exact he
    · exact (Dev.each_watch (fun _ _ => onTlm_watch ..) ..).trans he

@[simp] theorem passOutput_watch (d s) : (passOutput d s).watch = d.watch := by simp [passOutput]

@[simp] theorem marshalEntry_watch (sch d e) : (marshalEntry sch d e).watch = d.watch := by simp [marshalEntry]

@[simp] theorem tlmEnable_watch (d) : (tlmEnable d).watch = d.watch := (rfl)

@[simp] theorem gainWrite_watch (d m v) : (gainWrite d m v).watch = d.watch := by simp [gainWrite]

@[simp] theorem paramReject_watch (d j) : (paramReject d j).watch = d.watch := by simp [paramReject]

@[simp] theorem switchBank_watch (d j b) : (switchBank d j b).watch = d.watch := by simp [switchBank]

@[simp] theorem millPeriod_watch (d) : (millPeriod d).watch = d.watch := by simp [millPeriod]

@[simp] theorem onRve_watch (d f) : (onRve d f).watch = d.watch := (rfl)

@[simp] theorem onTask_watch (d t f) : (onTask d t f).watch = d.watch := by simp [onTask]

@[simp] theorem setState_watch (d t x) : (setState d t x).watch = d.watch := by simp [setState]

@[simp] theorem onItem_watch (d i f) : (onItem d i f).watch = d.watch := (rfl)

@[simp] theorem onCore_watch (d c f) : (onCore d c f).watch = d.watch := by simp [onCore]

@[simp] theorem setReady_watch (d p l) : (setReady d p l).watch = d.watch := (rfl)

@[simp] theorem makeReady_watch (d t r) : (makeReady d t r).watch = d.watch := by simp [makeReady]

@[simp] theorem leaveReady_watch (d t) : (leaveReady d t).watch = d.watch := (rfl)

@[simp] theorem dropDelays_watch (d t) : (dropDelays d t).watch = d.watch := (rfl)

@[simp] theorem showPool_watch (d) : (showPool d).watch = d.watch := by simp [showPool]

@[simp] theorem showFlow_watch (d f) : (showFlow d f).watch = d.watch := by simp [showFlow]

@[simp] theorem wakeByItem_watch (d t) : (wakeByItem d t).watch = d.watch := by simp [wakeByItem]

@[simp] theorem putItem_watch (d i share q) : (putItem d i share q).watch = d.watch := by
  unfold putItem
  split <;> simp

@[simp] theorem serveOverride_watch (d i) : (serveOverride d i).watch = d.watch := by
  unfold serveOverride
  repeat' split
  all_goals simp

@[simp] theorem releaseItem_watch (d i) : (releaseItem d i).watch = d.watch := by
  unfold releaseItem
  repeat' split
  all_goals simp

@[simp] theorem endItem_watch (d i status result) : (endItem d i status result).watch = d.watch := by
  unfold endItem
  repeat' split
  all_goals simp

@[simp] theorem answer_watch (d c r) : (answer d c r).watch = d.watch := (rfl)

@[simp] theorem enqueue_watch (d src q i) : (enqueue d src q i).watch = d.watch := by
  unfold enqueue
  dsimp only
  repeat' split
  all_goals simp

@[simp] theorem fillSlot_watch (d t c) : (fillSlot d t c).watch = d.watch := by
  unfold fillSlot
  dsimp only
  repeat' split
  all_goals simp

@[simp] theorem unslotItem_watch (d t) : (unslotItem d t).watch = d.watch := by
  unfold unslotItem
  repeat' split
  all_goals simp

@[simp] theorem emptySlot_watch (d t) : (emptySlot d t).watch = d.watch := by simp [emptySlot]

@[simp] theorem displace_watch (d c) : (displace d c).watch = d.watch := by
  unfold displace
  dsimp only
  split <;> simp

theorem placeTask_watch {d e t} (h : placeTask d t = some e) : e.watch = d.watch := by
  unfold placeTask at h
  dsimp only at h
  split at h
  · cases h
  · split at h
    · cases h
      simp
    · split at h
      · cases h
        simp
      · cases h

@[simp] theorem endRunOf_watch (d c t) : (endRunOf d c t).watch = d.watch := by simp [endRunOf]

@[simp] theorem deleteTask_watch (d t) : (deleteTask d t).watch = d.watch := by
  unfold deleteTask
  dsimp only
  split <;> simp

@[simp] theorem leaveRunning_watch (d c t) {f : Dev → Dev} (hf : ∀ b, (f b).watch = b.watch) : (leaveRunning d c t f).watch = d.watch := by
  simp [leaveRunning, hf]

@[simp] theorem whenRunning_watch (d c) {f : Dev → Nat → Dev} (hf : ∀ n, (f d n).watch = d.watch) :
    (whenRunning d c f).watch = d.watch := by
  unfold whenRunning
  split
  · exact hf _
  · rfl

@[simp] theorem cancelItem_watch (d i) : (cancelItem d i).1.watch = d.watch := by
  unfold cancelItem
  dsimp only
  repeat' split
  all_goals simp

@[simp] theorem rescaleDelays_watch (d now old new) : (rescaleDelays d now old new).watch = d.watch := (rfl)

@[simp] theorem startRun_watch (d n src) : (startRun d n src).watch = d.watch := by simp [startRun]

@[simp] theorem runTrigger_watch (d n src) : (runTrigger d n src).watch = d.watch := by simp [runTrigger]

@[simp] theorem smyEndRun_watch (d n) : (smyEndRun d n).watch = d.watch := by simp [smyEndRun]

@[simp] theorem portRead_watch (d n data) : (portRead d n data).1.watch = d.watch := by
  unfold portRead
  split <;> simp

@[simp] theorem portWrite_watch (d m n data v) : (portWrite d m n data v).watch = d.watch := by simp [portWrite]

@[simp] theorem whenAt_watch (d n i) {f : Dev → Dev} (hf : (f d).watch = d.watch) : (whenAt d n i f).watch = d.watch := by
  simp [whenAt, hf]

@[simp] theorem clearField_watch (d i) {f : RegField} (hf : f ≠ LN_STATUS_STATE) : (clearField d f i).watch = d.watch := by
  unfold clearField
  split <;> simp [hf]

@[simp] theorem beforeRead_watch (d addr) : (beforeRead d addr).watch = d.watch := by
  unfold beforeRead
  split <;> simp

@[simp] theorem debugAdvance_watch (d) : (debugAdvance d).watch = d.watch := by simp [debugAdvance]

@[simp] theorem afterRead_watch (d m addr) : (afterRead d m addr).watch = d.watch := by
  unfold afterRead
  extract_lets ps e
  have he : e.watch = d.watch := Dev.each_watch (fun b p => by split <;> simp) ..
  split
  · exact he
  · refine (Dev.each_watch (fun b p => ?_) ..).trans he
    split
    · next h => exact clearField_watch _ _ (laneState_ne (by simp [h.1]))
    · rfl

@[simp] theorem readWords_watch (d m addrs) : (readWords d m addrs).1.watch = d.watch := by simp [readWords]

@[simp] theorem commitGo_watch (d) : (commitGo d).watch = d.watch := (rfl)

@[simp] theorem commitAbort_watch (d) : (commitAbort d).watch = d.watch := (rfl)

@[simp] theorem commitArm_watch (d) : (commitArm d).watch = d.watch := by
  unfold commitArm
  split <;> simp

@[simp] theorem pairFirst_watch (d m p v) : (pairFirst d m p v).watch = d.watch := by simp [pairFirst]

@[simp] theorem pairComplete_watch (d m p v) : (pairComplete d m p v).watch = d.watch := by
  have hp : (pairFields p).1 ≠ LN_STATUS_STATE ∧ (pairFields p).2.1 ≠ LN_STATUS_STATE := by
    unfold pairFields
    split <;> simp
  unfold pairComplete
  dsimp only
  split
  · simp
  · simp [hp.1, hp.2]

@[simp] theorem debugWrite_watch (d m v) : (debugWrite d m v).watch = d.watch := by
  unfold debugWrite
  split <;> simp

@[simp] theorem lockWrite_watch (d m v) : (lockWrite d m v).watch = d.watch := by simp [lockWrite]

@[simp] theorem regdigGo_watch (d) : (regdigGo d).watch = d.watch := by simp [regdigGo]

@[simp] theorem committedWrite_watch (d gen c) : (committedWrite d gen c).watch = d.watch :=
  onSys_watch d _ fun x => by split <;> rfl

@[simp] theorem stoppedWrite_watch (d m i v) {f : RegField} (hf : f ≠ LN_STATUS_STATE) : (stoppedWrite d m f i v).watch = d.watch := by
  unfold stoppedWrite
  split <;> simp [hf]

@[simp] theorem laneTimers_watch (d l) : (laneTimers d l).watch = d.watch := by simp [laneTimers]

@[simp] theorem startDegraded_watch (d) : (startDegraded d).watch = d.watch := by
  unfold startDegraded
  split <;> simp

@[simp] theorem countHealthy_watch (d) : (countHealthy d).watch = d.watch := (rfl)

@[simp] theorem ikLoad_watch (d) : (ikLoad d).watch = d.watch := by simp [ikLoad]

@[simp] theorem adcAtTick_watch (d ran ending) : (adcAtTick d ran ending).watch = d.watch := by simp [adcAtTick]

@[simp] theorem fireTick_watch (d) : (fireTick d).watch = d.watch := by simp [fireTick]

@[simp] theorem groupTick_watch (d) : (groupTick d).watch = d.watch := by simp [groupTick]

@[simp] theorem takeValues_watch (d xs i) {fs : List RegField} (hf : LN_STATUS_STATE ∉ fs) : (takeValues d xs fs i).watch = d.watch :=
  Dev.each_watch_mem (fun b c hc => Dev.wr_watch _ _ _ _ fun h => hf (by
    have := (List.mem_filter.1 hc).2
    simp_all)) d

@[simp] theorem applyTt_watch (xs d k) : (applyTt xs d k).watch = d.watch := by
  have h (b : Dev) := takeValues_watch b xs k (fs := ttFields) (by simp [ttFields])
  unfold applyTt
  dsimp only
  split
  · rfl
  · split <;> simp [h]

@[simp] theorem applyPtp_watch (xs d p) : (applyPtp xs d p).watch = d.watch := by
  have h (b : Dev) := takeValues_watch b xs p (fs := ptpFields) (by simp [ptpFields])
  simp [applyPtp, h]

@[simp] theorem applyLatch_watch (xs d) : (applyLatch xs d).watch = d.watch := by simp [applyLatch]

@[simp] theorem applyTimeBase_watch (xs d) : (applyTimeBase xs d).watch = d.watch := by
  unfold applyTimeBase
  dsimp only
  split <;> simp

@[simp] theorem applyJoint_watch (xs d j) : (applyJoint xs d j).watch = d.watch := by
  have h (b : Dev) := takeValues_watch b xs j (fs := jointFields) (by simp [jointFields])
  unfold applyJoint
  dsimp only
  split
  · split <;> simp [h]
  · simp

@[simp] theorem applyPort_watch (xs d k) : (applyPort xs d k).watch = d.watch := by
  have h (b : Dev) := takeValues_watch b xs k (fs := portFields) (by simp [portFields])
  unfold applyPort
  split <;> simp [h]

@[simp] theorem applyStep_watch (xs d k) : (applyStep xs d k).watch = d.watch := by
  have h (b : Dev) := takeValues_watch b xs k (fs := stepFields) (by simp [stepFields])
  unfold applyStep
  dsimp only
  split <;> simp [h]

@[simp] theorem applySet_watch (d xs) : (applySet d xs).watch = d.watch := by simp [applySet]

@[simp] theorem commitApply_watch (d) : (commitApply d).watch = d.watch := by simp [commitApply]

@[simp] theorem rescaleTimers_watch (d old new) : (rescaleTimers d old new).watch = d.watch := by simp [rescaleTimers]

end Sys2Proof.Machine
end

section
/-!
SUPPORT. The operations that change a lane's outputs or its state keep the rule of R73.
-/
namespace Sys2Proof.Machine
open RegField

/-! What changes a lane's outputs or its state keeps the rule. -/

@[simp] theorem Watch.ok_ite (c : Prop) [Decidable c] (v w : Watch) : (if c then v else w).ok ↔ if c then v.ok else w.ok := by
  split <;> rfl

theorem Dev.each_ok {α : Type} {f : Dev → α → Dev} (hf : ∀ b x, b.watch.ok → (f b x).watch.ok) {d : Dev} (h : d.watch.ok) (xs : List α) :
    (d.each xs f).watch.ok := by
  induction xs generalizing d with
  | nil => exact h
  | cons x xs ih => exact ih (hf _ _ h)

/-- The rule after a change of lane `l` and of registers: it asks of the lane alone, and of the lane outside IN_SERVICE alone. -/
theorem Watch.ok.of_lane {d e : Dev} {l : Lane} (h : d.watch.ok) (hlive : e.sys.live = d.sys.live)
    (hrest : ∀ k, k ≠ l → e.rd LN_STATUS_STATE k.idx = d.rd LN_STATUS_STATE k.idx ∧ laneOf e k = laneOf d k)
    (hl : e.rd LN_STATUS_STATE l.idx ≠ 5 → (laneOf e l).gates = 0 ∧ (laneOf e l).safeOk = false) : e.watch.ok := by
  obtain ⟨hout, hcells⟩ := h
  refine ⟨fun k hk => ?_, ?_⟩
  · by_cases hkl : k = l
    · subst k; exact hl hk
    · obtain ⟨hstate, hlane⟩ := hrest k hkl
      have hsafe := hout k fun hd => hk (hstate.trans hd)
      exact ⟨(congrArg LaneState.gates hlane).trans hsafe.1, (congrArg LaneState.safeOk hlane).trans hsafe.2⟩
  · rw [show e.watch.live = d.watch.live from hlive]
    exact hcells

theorem Watch.ok.lane {d : Dev} (h : d.watch.ok) {l : Lane} (hl : d.rd LN_STATUS_STATE l.idx ≠ 5) :
    (laneOf d l).gates = 0 ∧ (laneOf d l).safeOk = false := h.1 l hl

theorem setGates_ok {d : Dev} (h : d.watch.ok) (l : Lane) {mask : Nat} (hm : inService d l = true ∨ mask = 0) :
    (setGates d l mask).watch.ok := by
  refine h.of_lane (l := l) (congrArg SysState.live ((setGates_sameBut d l mask).rest .sys (by simp))) (fun k hk => by simp [hk]) fun hs
      => ?_
  rw [setGates_rd _ _ _ _ _ (by simp)] at hs
  have hmask : mask = 0 := hm.resolve_left (by simpa [inService] using hs)
  simp [hmask, (h.lane hs).2]

theorem setSafeOk_ok {d : Dev} (h : d.watch.ok) (l : Lane) {high : Bool} (hm : inService d l = true ∨ high = false) :
    (setSafeOk d l high).watch.ok := by
  refine h.of_lane (l := l) (congrArg SysState.live ((setSafeOk_sameBut d l high).rest .sys (by simp))) (fun k hk => by simp [hk]) fun hs
      => ?_
  rw [setSafeOk_rd _ _ _ _ _ (by simp)] at hs
  have hhigh : high = false := hm.resolve_left (by simpa [inService] using hs)
  simp [hhigh, (h.lane hs).1]

@[simp] theorem setLaneMode_ok {d : Dev} (h : d.watch.ok) (l : Lane) (m : LaneMode) : (setLaneMode d l m).watch.ok := by
  refine h.of_lane (l := l) (congrArg SysState.live ((setLaneMode_sameBut d l m).rest .sys (by simp))) (fun k hk => ?_) fun hs => ?_
  · simp [hk, Lane.idx_inj]
  · have hm : m ≠ .inService := fun hm => hs (by simp [hm, laneCode])
    simp [hm]

@[simp] theorem outputsOff_ok {d : Dev} (h : d.watch.ok) (l : Lane) : (setSafeOk (setGates d l 0) l false).watch.ok :=
  setSafeOk_ok (setGates_ok h l (.inr rfl)) l (.inr rfl)

@[simp] theorem lanesOff_ok {d : Dev} (h : d.watch.ok) : (lanesOff d).watch.ok := Dev.each_ok (fun _ l hb => outputsOff_ok hb l) h _

@[simp] theorem deEnergise_ok {d : Dev} (h : d.watch.ok) : (deEnergise d).watch.ok := by
  have hoff : (d.each Lane.all fun d l => setSafeOk (setGates d l 0) l false).watch.ok := lanesOff_ok h
  unfold deEnergise
  generalize d.each Lane.all (fun d l => setSafeOk (setGates d l 0) l false) = e at hoff
  dsimp only
  split <;> simpa using hoff

@[simp] theorem enterResync_ok {d : Dev} (h : d.watch.ok) (l : Lane) (image : Bool) : (enterResync d l image).watch.ok := by
  unfold enterResync
  simp [h]

@[simp] theorem stopTransfers_ok {d : Dev} (h : d.watch.ok) :
    (stopTransfers d).watch.ok := Dev.each_ok (fun _ l hb => enterResync_ok hb l true) h _

@[simp] theorem reviewLanes_ok {d : Dev} (h : d.watch.ok) : (reviewLanes d).watch.ok := by
  unfold reviewLanes
  dsimp only
  split <;> simp [h]

@[simp] theorem laneFault_ok {d : Dev} (h : d.watch.ok) (l : Lane) (m : LaneMode) (e : Ev) (later : Bool) :
    (laneFault d l m e later).watch.ok := by
  unfold laneFault
  dsimp only
  split_ifs <;> simp [h]

@[simp] theorem setLatch_ok {d : Dev} (h : d.watch.ok) (l : Lane) (e : Ev) (index detail : Nat) :
    (setLatch d l e index detail).watch.ok := by
  unfold setLatch
  split <;> simp [h]

@[simp] theorem cmpTestFail_ok {d : Dev} (h : d.watch.ok) (l : Lane) (g : Nat) : (cmpTestFail d l g).watch.ok := by
  unfold cmpTestFail
  simp [h]

@[simp] theorem samplePairs_ok {d : Dev} (h : d.watch.ok) (l : Lane) (bent : PerLane (Option (BitVec 2))) :
    (samplePairs d l bent).watch.ok :=
  Dev.each_ok (fun b m hb => by dsimp only; split <;> simp [hb]) h _

@[simp] theorem enterReload_ok {d : Dev} (h : d.watch.ok) (x : Lane) : (enterReload d x).watch.ok := by
  have hleft (f : LaneState → LaneState) (hf : ∀ y, (f y).gates = y.gates ∧ (f y).safeOk = y.safeOk) :
      (laneFault (onLane d x f) x .reload .CONFIG_DIVERGE false).watch.ok := by simp [h, hf]
  unfold enterReload
  dsimp only
  split_ifs <;> simp [h, hleft]

@[simp] theorem compareDigests_ok {d : Dev} (h : d.watch.ok) (l : Lane) : (compareDigests d l).watch.ok := by
  unfold compareDigests
  dsimp only
  repeat' split
  all_goals simp [h]

@[simp] theorem digestStep_ok {d : Dev} (h : d.watch.ok) (l : Lane) : (digestStep d l).watch.ok := by
  unfold digestStep
  simp [h]

@[simp] theorem agreeValues_ok {d : Dev} (h : d.watch.ok) (l : Lane) : (agreeValues d l).watch.ok := by
  unfold agreeValues
  simp [h]

@[simp] theorem laneTick_ok {d : Dev} (h : d.watch.ok) (l : Lane) (si : Nat × Nat) : (laneTick d l si).watch.ok := by
  unfold laneTick
  dsimp only
  split_ifs <;> simp [h]

theorem gateMask_outside {d : Dev} {l : Lane} (h : inService d l = false) : gateMask d l = 0 := by simp [gateMask, h]

theorem safeOkWanted_outside {d : Dev} {l : Lane} (h : inService d l = false) : safeOkWanted d l = false := by
  unfold safeOkWanted
  dsimp only
  split <;> simp [h]

theorem setGates_mask_ok {d : Dev} (h : d.watch.ok) (l : Lane) : (setGates d l (gateMask d l)).watch.ok :=
  setGates_ok h l ((Bool.eq_false_or_eq_true _).imp_right gateMask_outside)

@[simp] theorem driveGates_ok {d : Dev} (h : d.watch.ok) : (driveGates d).watch.ok := Dev.each_ok (fun _ l hb => setGates_mask_ok hb l) h _

@[simp] theorem laneOutputs_ok {d : Dev} (h : d.watch.ok) (l : Lane) : (laneOutputs d l).watch.ok := by
  refine setSafeOk_ok (setGates_mask_ok h l) l ((Bool.eq_false_or_eq_true (inService d l)).imp (fun hs => ?_) safeOkWanted_outside)
  rw [← hs]
  unfold inService
  rw [setGates_rd _ _ _ _ _ (by simp)]

@[simp] theorem inBrakes_ok {d : Dev} (h : d.watch.ok) (k : Nat) (p : Dev → Lane → BrakeDyn → Bool) (f : Dev → Lane → BrakeDyn → BrakeDyn) :
    (inBrakes d k p f).watch.ok := by
  unfold inBrakes
  simp [h]

@[simp] theorem declareSilent_ok {d : Dev} (h : d.watch.ok) (m : Lane) : (declareSilent d m).watch.ok := by
  unfold declareSilent
  simp [h]

@[simp] theorem judgeSilence_ok {d : Dev} (h : d.watch.ok) (l : Lane) : (judgeSilence d l).watch.ok :=
  Dev.each_ok (fun b m hb => by dsimp only; split <;> simp [hb]) h _

@[simp] theorem shadowStep_ok {d : Dev} (h : d.watch.ok) (l : Lane) : (shadowStep d l).watch.ok := by
  unfold shadowStep
  simp [h]

@[simp] theorem evaluateLane_ok {d : Dev} (h : d.watch.ok) (l : Lane) : (evaluateLane d l).watch.ok := by
  unfold evaluateLane
  dsimp only
  split <;> simp [h]

@[simp] theorem arbFault_ok {d : Dev} (h : d.watch.ok) (m : Lane) (detail : Nat) : (arbFault d m detail).watch.ok := by
  unfold arbFault
  simp [h]

@[simp] theorem loseTick_ok {d : Dev} (h : d.watch.ok) (l : Lane) : (loseTick d l).watch.ok := by
  unfold loseTick
  dsimp only
  split <;> simp [h]

@[simp] theorem completeCycle_ok {d : Dev} (h : d.watch.ok) (l : Lane) : (completeCycle d l).watch.ok := by
  unfold completeCycle
  dsimp only
  split
  · exact h
  · split_ifs <;> simp [h]

@[simp] theorem completeRing_ok {d : Dev} (h : d.watch.ok) (l : Lane) : (completeRing d l).watch.ok := by
  unfold completeRing
  split <;> simp [h]

/-! Resets, converters and the start of a lane. -/

theorem freshLane_outputs (x : LaneState) : (freshLane x).gates = 0 ∧ (freshLane x).safeOk = false := ⟨rfl, rfl⟩

/-- A lane's state may be replaced by one whose outputs are off. -/
theorem onLane_ok {d : Dev} (h : d.watch.ok) (l : Lane) {f : LaneState → LaneState} (hf : ∀ x, (f x).gates = 0 ∧ (f x).safeOk = false) :
    (onLane d l f).watch.ok :=
  h.of_lane (l := l) rfl (fun k hk => by simp [hk, show (onLane d l f).rd LN_STATUS_STATE k.idx = d.rd LN_STATUS_STATE k.idx from rfl])
    fun _ => by simpa using hf _

/-- With the lanes in their reset state the rule asks of the registers' own state alone. -/
theorem ok_of_resetLanes {d : Dev} (hl : d.lanes = ⟨{}, {}, {}⟩) (hs : d.sys.live = []) : d.watch.ok := by
  refine ⟨fun l _ => ?_, fun p hp => ?_⟩
  · have hg : d.watch.gates l = (d.lanes.get l).gates ∧ d.watch.safeOk l = (d.lanes.get l).safeOk := ⟨rfl, rfl⟩
    rw [hg.1, hg.2, hl]
    cases l <;> exact ⟨rfl, rfl⟩
  · rw [show d.watch.live = [] from hs] at hp
    cases hp

theorem freshLane_ok {d : Dev} (h : d.watch.ok) (l : Lane) : (onLane d l freshLane).watch.ok := onLane_ok h l freshLane_outputs

@[simp] theorem deviceReset_ok (d : Dev) (cause : Nat) : (deviceReset d cause).watch.ok := by
  unfold deviceReset
  dsimp only
  simp only [showKeys_watch]
  exact ok_of_resetLanes rfl rfl

@[simp] theorem laneReset_ok {d : Dev} (h : d.watch.ok) (l : Lane) (cause : Nat) (e : Ev) : (laneReset d l cause e).watch.ok := by
  unfold laneReset
  split
  · exact h
  · extract_lets d1 d2 d3 d4 d5 d6
    have h2 : d2.watch.ok := by simp [d2, d1, h]
    split
    · have h5 : d5.watch.ok := by simp [d5, d4, d3, h2]
      have h6 : d6.watch.ok := by simp [d6, h5]
      rw [closeBypass_watch]
      exact freshLane_ok h6 l
    · exact h2

theorem RegFile.get_filter (rs : RegFile) (p : RegField → Bool) {f : RegField} (hf : p f = true) (i : Nat) :
    RegFile.get (rs.filter fun c => p c.field) f i = RegFile.get rs f i := by
  induction rs with
  | nil => rfl
  | cons c rs ih =>
    by_cases hc : p c.field = true
    · simp [hc, RegFile.get, ih]
    · have hne : ¬ (c.field = f ∧ c.idx = i) := fun he => hc (he.1 ▸ hf)
      simp [hc, RegFile.get, ih, hne]

@[simp] theorem sharedBlocksReset_ok {d : Dev} (h : d.watch.ok) : (sharedBlocksReset d).watch.ok := by
  have hs (l : Lane) : (sharedBlocksReset d).watch.state l = d.watch.state l :=
    RegFile.get_filter _ (fun f => !isShared f) (by decide) _
  exact ⟨fun l hl => h.1 l fun hd => hl ((hs l).trans hd), fun p hp => by cases hp⟩

@[simp] theorem sharedReset_ok {d : Dev} (h : d.watch.ok) (cause : Nat) : (sharedReset d cause).watch.ok := by
  unfold sharedReset
  split <;> simp [h]

@[simp] theorem sharedClear_ok {d : Dev} (h : d.watch.ok) (cause : Nat) : (sharedClear d cause).watch.ok := by
  unfold sharedClear
  simp [h]

@[simp] theorem stopConverter_ok {d : Dev} (h : d.watch.ok) (l : Lane) : (stopConverter d l).watch.ok := by
  unfold stopConverter
  simp [h]

@[simp] theorem supplyReset_ok {d : Dev} (h : d.watch.ok) (l : Lane) : (supplyReset d l).watch.ok := by
  unfold supplyReset
  simp [h]

@[simp] theorem coolDown_ok {d : Dev} (h : d.watch.ok) : (coolDown d).watch.ok := by
  unfold coolDown
  simp [h]

@[simp] theorem enterSelftest_ok {d : Dev} (h : d.watch.ok) (l : Lane) : (enterSelftest d l).watch.ok := setLaneMode_ok h l _

@[simp] theorem leaveSelftest_ok {d : Dev} (h : d.watch.ok) (l : Lane) : (leaveSelftest d l).watch.ok := by
  unfold leaveSelftest
  simp [h]

@[simp] theorem endBoot_ok {d : Dev} (h : d.watch.ok) : (endBoot d).watch.ok := by
  unfold endBoot
  refine Dev.each_ok (fun _ l hb => leaveSelftest_ok hb l) ?_ _
  dsimp only
  repeat' split
  all_goals simp [h]

@[simp] theorem tryEndBoot_ok {d : Dev} (h : d.watch.ok) : (tryEndBoot d).watch.ok := by
  unfold tryEndBoot
  simp [h]

@[simp] theorem selfReset_ok {d : Dev} (h : d.watch.ok) (l : Lane) (cause : Nat) (e : Ev) : (selfReset d l cause e).watch.ok := by
  unfold selfReset
  simp [h]

end Sys2Proof.Machine
end

section
/-!
SUPPORT. Register writes and the frame tick keep the rule of R73.
-/
namespace Sys2Proof.Machine
open RegField

/-! Register writes. A Live write that waits is of a field that a write reaches, so that it never sets a lane's STATE. -/

/-- A field that a waiting Live write may set. -/
def RegField.takesLive (f : RegField) : Prop := (f.desc.access = .rw ∧ f.desc.cls = .live) ∨ f.desc.access = .wo

theorem RegField.takesLive.ne {f : RegField} (h : f.takesLive) : f ≠ LN_STATUS_STATE :=
  laneState_ne fun hro => by rcases h with ⟨hrw, -⟩ | hwo <;> simp_all

theorem onSys_ok {d : Dev} (h : d.watch.ok) {f : SysState → SysState} (hf : ∀ p ∈ (f d.sys).live, p ∈ d.sys.live ∨ p.2.field.takesLive) :
    (onSys d f).watch.ok := ⟨h.1, fun p hp => (hf p hp).elim (h.2 p) id⟩

theorem liveWrite_ok {d : Dev} (h : d.watch.ok) (m : Master) {c : RegCell} (hc : c.field.takesLive) : (liveWrite d m c).watch.ok := by
  refine onSys_ok h fun p hp => ?_
  rcases List.mem_append.mp hp with hold | hnew
  · exact .inl (List.mem_filter.mp hold).1
  · exact .inr ((List.mem_singleton.mp hnew) ▸ hc)

theorem triggerField_ok {d : Dev} (h : d.watch.ok) (m : Master) (f : RegField) (i : Nat) : (triggerField d m f i).watch.ok := by
  unfold triggerField
  split <;> simp [h]

theorem triggerWrite_ok {d : Dev} (h : d.watch.ok) (m : Master) {f : RegField} (i : Nat) (hf : f.takesLive) :
    (triggerWrite d m f i).watch.ok := by
  unfold triggerWrite
  split
  · exact triggerField_ok h ..
  · exact triggerField_ok h ..
  · exact liveWrite_ok h m hf

theorem writeField_ok {r : Dev × Bool} (h : r.1.watch.ok) (m : Master) (gen addr mask value : Nat) (p : RegField × Nat) :
    (writeField m gen addr mask value r p).1.watch.ok := by
  obtain ⟨d, busy⟩ := r
  obtain ⟨f, i⟩ := p
  have hne (ha : f.desc.access ≠ .ro) (v : Nat) : (d.wr f i v).watch.ok := by rwa [Dev.wr_watch _ _ _ _ (laneState_ne ha)]
  unfold writeField
  dsimp only
  split
  · exact h
  · split
    case h_1 | h_2 => exact h
    case h_3 ha =>
      dsimp only
      split
      · exact h
      · exact triggerWrite_ok h m i (.inr ha)
    case h_4 ha =>
      dsimp only
      split_ifs <;> simp [h, hne, ha]
    case h_5 ha =>
      dsimp only
      split_ifs <;> simp [h, hne, ha]
    case h_6 ha =>
      split
      case h_1 hc =>
        split
        · simp [h]
        · exact liveWrite_ok h m (.inl ⟨ha, hc⟩)
      case h_2 hc => simp [h]
      case h_3 hc =>
        split
        · simp [h]
        · simp [h]
        · split_ifs <;> simp [h, laneState_ne, ha]
      case h_4 => exact hne (by simp [ha]) _

theorem writeWord_ok {d : Dev} (h : d.watch.ok) (m : Master) (gen : Nat) (w : WordWrite) : (writeWord m gen d w).watch.ok := by
  have hfold (ps : List (RegField × Nat)) (r : Dev × Bool) (hr : r.1.watch.ok) :
      (ps.foldl (writeField m gen w.addr w.mask w.value) r).1.watch.ok := by
    induction ps generalizing r with
    | nil => exact hr
    | cons p ps ih => exact ih _ (writeField_ok hr ..)
  have hall := hfold (wordFields w.addr) (d, false) h
  unfold writeWord
  dsimp only
  split <;> simpa using hall

theorem writeWords_ok {d : Dev} (h : d.watch.ok) (m : Master) (gen : Nat) (ws : List WordWrite) :
    (ws.foldl (writeWord m gen) d).watch.ok := Dev.each_ok (fun _ w hb => writeWord_ok hb m gen w) h ws

@[simp] theorem busyBit_ne (b : Nat) : (busyBit b).1 ≠ LN_STATUS_STATE := by
  unfold busyBit
  split_ifs <;> simp

theorem postWords_ok {d : Dev} (h : d.watch.ok) (m : Master) (ws : List WordWrite) : (postWords d m ws).watch.ok := by
  unfold postWords
  split
  · exact h
  · split
    · exact writeWords_ok h ..
    · dsimp only
      split
      · simp [h]
      · simp [h]

theorem serveWrite_ok {d : Dev} (h : d.watch.ok) (m : Master) (ws : List WordWrite) : (serveWrite d m ws).watch.ok := by
  unfold serveWrite
  dsimp only
  split
  · exact h
  · split
    · simp [h]
    · exact postWords_ok h ..

theorem applyLive_ok (resets : List Nat) {d : Dev} (h : d.watch.ok) {p : Master × RegCell} (hp : p.2.field.takesLive) :
    (applyLive resets d p).watch.ok := by
  obtain ⟨m, f, i, v⟩ := p
  have hwr : (d.wr f i v).watch.ok := by rwa [Dev.wr_watch _ _ _ _ hp.ne]
  unfold applyLive
  dsimp only
  split
  case h_10 =>
    split_ifs
    · exact triggerField_ok h ..
    · exact h
    · exact hwr
  all_goals simp [h]

theorem applyLives_ok {d : Dev} (h : d.watch.ok) : (applyLives d).watch.ok := by
  have hall (xs : List (Master × RegCell)) (hx : ∀ p ∈ xs, p.2.field.takesLive) (resets : List Nat) (b : Dev) (hb : b.watch.ok) :
      (b.each xs (applyLive resets)).watch.ok := by
    induction xs generalizing b with
    | nil => exact hb
    | cons p xs ih => exact ih (fun q hq => hx q (.tail _ hq)) _ (applyLive_ok resets hb (hx p (.head _)))
  exact hall _ h.2 _ _ (onSys_ok h fun p hp => by cases hp)

/-! The frame tick. -/

theorem tick_ok (contacts : PerLane (Nat × Nat)) {d : Dev} (h : d.watch.ok) : (tick contacts d).watch.ok := by
  have hlanes (xs : List Lane) {b : Dev} (hb : b.watch.ok) :
      (b.each xs fun d l => laneTimers (laneTick d l (contacts.get l)) l).watch.ok :=
    Dev.each_ok (fun e l he => by simp [he]) hb xs
  have hlives {b : Dev} (hb : b.watch.ok) :
      (showPlan (groupTick (ikLoad (fireTick (adcCorrections (applyLives b)))))).watch.ok := by
    simpa using applyLives_ok hb
  unfold tick
  extract_lets ending ran d1 up d2 d3
  have h1 : d1.watch.ok := by simpa [d1] using h
  have h3 : d3.watch.ok := by simpa [d3] using hlanes up h1
  exact hlives h3

theorem changePeriod_ok (contacts : PerLane (Nat × Nat)) (p : Nat) {d : Dev} (h : d.watch.ok) : (changePeriod contacts p d).watch.ok := by
  unfold changePeriod
  extract_lets old t d1 tb d2 d3 d4 d5 d6
  have h1 : d1.watch.ok := by simpa [d1] using h
  have h2 : d2.watch.ok := tick_ok contacts h1
  have h5 : d5.watch.ok := by simpa [d5, d4, d3] using h2
  simpa [d6] using h5

/-! The commands that change a lane's outputs or state, or a register by a write. -/

theorem execRegisterWrite_ok {s : State} (h : s.dev.watch.ok) (m : Master) (addr width value : Nat) :
    OutcomeOk (execRegisterWrite m addr width value s) := .run (h := h) fun d hd => by
  split_ifs
  · exact hd
  · exact serveWrite_ok hd ..
  · simpa using hd

theorem execPostedWriteComplete_ok {s : State} (h : s.dev.watch.ok) (b : Fin 45) : OutcomeOk (execPostedWriteComplete b s) :=
  .run (h := h) fun d hd => by
    split
    · exact hd
    · refine writeWords_ok ?_ ..
      simpa using hd

theorem execAliasRead_ok {s : State} (h : s.dev.watch.ok) (m : Master) (offset width : Nat) :
    OutcomeOk (execAliasRead m offset width s) := by
  have hclear (a b v : Nat) (d : Dev) : (d.each (wordFields a) fun d p =>
      if p.1.desc.access = .rc ∧ m ≠ .debug ∧ p.1.mask.testBit b ∧ v = 1 then d.wrBit p.1 p.2 (b - p.1.desc.lo) false else d).watch =
          d.watch :=
    Dev.each_watch (fun e p => by
      split
      next hrc => exact Dev.wr_watch _ _ _ _ (laneState_ne (by simp [hrc.1]))
      next => rfl) ..
  refine .steady h fun d => ?_
  split_ifs
  · rfl
  · dsimp only
    split
    · rw [Dev.emit_watch, hclear]
      split <;> simp
    · rfl
  · simp

theorem execAliasWrite_ok {s : State} (h : s.dev.watch.ok) (m : Master) (offset width value : Nat) :
    OutcomeOk (execAliasWrite m offset width value s) := .run (h := h) fun d hd => by
  split_ifs
  · exact hd
  · exact serveWrite_ok hd ..
  · simpa using hd

theorem execFrameTick_ok {s : State} (h : s.dev.watch.ok) (contacts : PerLane (Nat × Nat)) : OutcomeOk (execFrameTick contacts s) :=
  .run (h := h) fun d hd => by
    split
    · exact tick_ok contacts hd
    · exact hd

theorem execPeriodChange_ok {s : State} (h : s.dev.watch.ok) (contacts : PerLane (Nat × Nat)) : OutcomeOk (execPeriodChange contacts s) :=
  .run (h := h) fun d hd => by
    split
    · split
      · exact changePeriod_ok contacts _ hd
      · exact hd
    · exact hd

theorem execTickLost_ok {s : State} (h : s.dev.watch.ok) (miss : PerLane Bool) : OutcomeOk (execTickLost miss s) :=
  .run (h := h) fun d hd => by
    have hlose (xs : List Lane) {b : Dev} (hb : b.watch.ok) : (b.each xs loseTick).watch.ok :=
      Dev.each_ok (fun _ l he => loseTick_ok he l) hb xs
    extract_lets up lost d1
    have h1 : d1.watch.ok := by simpa [d1] using hd
    split_ifs
    · exact h1
    · exact deEnergise_ok (by simpa using h1)
    · exact hlose lost h1

end Sys2Proof.Machine
end

section
/-!
SUPPORT. The commands that change a lane's outputs or its state keep the rule of R73.
-/
namespace Sys2Proof.Machine
open RegField

theorem execEngineFault_ok {s : State} (h : s.dev.watch.ok) (p : Fin 18) (kat : Bool) : OutcomeOk (execEngineFault p kat s) :=
  .run (h := h) fun d hd => by
    simp [hd]

theorem execSpareKat_ok {s : State} (h : s.dev.watch.ok) (p : Fin 18) (pass : Bool) : OutcomeOk (execSpareKat p pass s) :=
  .run (h := h) fun d hd => by
    repeat' split
    all_goals simp [hd]

theorem execCycleCompletionLimit_ok {s : State} (h : s.dev.watch.ok) : OutcomeOk (execCycleCompletionLimit s) :=
  .run (h := h) fun d hd => by
    split
    · exact Dev.each_ok (fun _ l hb => completeRing_ok hb l) (by rwa [Dev.reach_watch]) _
    · exact hd

theorem execFrameRecordSend_ok {s : State} (h : s.dev.watch.ok) (l : Lane) (bent : PerLane (Option (BitVec 2))) :
    OutcomeOk (execFrameRecordSend l bent s) :=
  .run (h := h) fun d hd => by
    repeat' split
    all_goals simp [hd]

theorem execAgreeValues_ok {s : State} (h : s.dev.watch.ok) (l : Lane) : OutcomeOk (execAgreeValues l s) :=
  .run (h := h) fun d hd => by
    repeat' split
    all_goals simp [hd]

theorem execLaneEvaluation_ok {s : State} (h : s.dev.watch.ok) (l : Lane) : OutcomeOk (execLaneEvaluation l s) :=
  .run (h := h) fun d hd => by
    repeat' split
    all_goals simp [hd]

theorem execLockstepMismatch_ok {s : State} (h : s.dev.watch.ok) (l : Lane) : OutcomeOk (execLockstepMismatch l s) :=
  .run (h := h) fun d hd => by
    repeat' split
    all_goals simp [hd]

theorem execFaultLatchTimeout_ok {s : State} (h : s.dev.watch.ok) (l : Lane) : OutcomeOk (execFaultLatchTimeout l s) :=
  .run (h := h) fun d hd => by
    repeat' split
    all_goals simp [hd]

theorem execMemUe_ok {s : State} (h : s.dev.watch.ok) (l : Lane) : OutcomeOk (execMemUe l s) :=
  .run (h := h) fun d hd => by
    repeat' split
    all_goals simp [hd]

theorem execMemoryScrub_ok {s : State} (h : s.dev.watch.ok) (l : Lane) (corrected : Nat) (uncorrectable : Bool) :
    OutcomeOk (execMemoryScrub l corrected uncorrectable s) :=
  .run (h := h) fun d hd => by
    repeat' split
    all_goals simp [hd]

theorem execCmpTest_ok {s : State} (h : s.dev.watch.ok) (l : Lane) (ok : Bool) : OutcomeOk (execCmpTest l ok s) :=
  .run (h := h) fun d hd => by
    repeat' split
    all_goals simp [hd]

theorem execArbStart_ok {s : State} (h : s.dev.watch.ok) (sigs : PerLane (BitVec 64)) : OutcomeOk (execArbStart sigs s) :=
  .run (h := h) fun d hd => by
    have hfaults (xs : List Lane) {b : Dev} (hb : b.watch.ok) : (b.each xs fun d m => arbFault d m 0).watch.ok :=
      Dev.each_ok (fun _ m he => arbFault_ok he m 0) hb xs
    extract_lets named sus old left d1 d2
    have h2 : d2.watch.ok := hfaults old (by simpa [d1] using hd)
    split
    · exact hd
    · split <;> simpa using h2

theorem execArbOutcome_ok {s : State} (h : s.dev.watch.ok) : OutcomeOk (execArbOutcome s) :=
  .run (h := h) fun d hd => by
    have hfaults (xs : List Lane) {b : Dev} (hb : b.watch.ok) : (b.each xs fun d m => arbFault d m 0).watch.ok :=
      Dev.each_ok (fun _ m he => arbFault_ok he m 0) hb xs
    have hjudged (xs : List (Lane × Bool × Nat)) {b : Dev} (hb : b.watch.ok) :
        (b.each xs fun d p => if p.2.1 then arbFault d p.1 p.2.2 else d).watch.ok :=
      Dev.each_ok (fun _ p he => by split <;> simp [he]) hb xs
    extract_lets ls x d1 sus bad3 d3 d4 bad2 d2
    have h1 : d1.watch.ok := by simpa [d1] using hd
    have h4 : d4.watch.ok := by simpa [d4, d3] using h1
    have h2 : d2.watch.ok := by simpa [d2] using h1
    clear_value d1 d4 d2 bad3 sus
    split
    · split
      · split
        · split
          · exact arbFault_ok (by simpa using h1) ..
          · exact reviewLanes_ok (enterResync_ok (by simpa using h1) ..)
        · exact hjudged _ h4
      · split
        · split
          · exact h2
          · split
            · simpa using h2
            · exact hfaults _ h2
        · simpa using h1
    · exact hd

theorem execReloadVerify_ok {s : State} (h : s.dev.watch.ok) (x : Lane) : OutcomeOk (execReloadVerify x s) :=
  .run (h := h) fun d hd => by
    dsimp only
    split
    · split
      · split
        · simpa using hd
        · split <;> simp [hd]
      · exact hd
    · exact hd

theorem execImageSwitch_ok {s : State} (h : s.dev.watch.ok) : OutcomeOk (execImageSwitch s) :=
  .run (h := h) fun d hd => by
    refine Dev.each_ok (fun b l hb => ?_) hd _
    dsimp only
    split
    · split
      · split <;> simp [hb]
      · exact hb
    · exact hb

theorem execSnapshotLoad_ok {s : State} (h : s.dev.watch.ok) (x : Lane) : OutcomeOk (execSnapshotLoad x s) :=
  .run (h := h) fun d hd => by
    simp [hd]

theorem execLaneRejoin_ok {s : State} (h : s.dev.watch.ok) (x : Lane) : OutcomeOk (execLaneRejoin x s) :=
  .run (h := h) fun d hd => by
    repeat' split
    all_goals simp [hd]

theorem execDebugEnter_ok {s : State} (h : s.dev.watch.ok) (l : Lane) : OutcomeOk (execDebugEnter l s) :=
  .run (h := h) fun d hd => by
    repeat' split
    all_goals simp [hd]

theorem execDebugExit_ok {s : State} (h : s.dev.watch.ok) (l : Lane) : OutcomeOk (execDebugExit l s) :=
  .run (h := h) fun d hd => by
    repeat' split
    all_goals simp [hd]

theorem execSepPassEnd_ok {s : State} (h : s.dev.watch.ok) (l : Lane) (complete : Bool) (done : Nat) :
    OutcomeOk (execSepPassEnd l complete done s) :=
  .run (h := h) fun d hd => by
    extract_lets d1 x send
    have h1 : d1.watch.ok := hd
    have hsend (b : Dev) (r : ResultRecord) : (send b r).watch = b.watch := by simp [send]
    clear_value d1 send
    split
    · split
      · split
        · rw [hsend]
          simpa using h1
        · extract_lets d2 d3 d4
          have h4 : d4.watch.ok := by simpa [d4, d3, d2, hsend] using h1
          split
          · exact setLatch_ok h4 ..
          · exact h4
      · rwa [hsend]
    · exact hd

theorem execBrakeReleaseDelay_ok {s : State} (h : s.dev.watch.ok) (u : Fin 32) : OutcomeOk (execBrakeReleaseDelay u s) :=
  .run (h := h) fun d hd => by
    rw [showUnit_watch]
    refine driveGates_ok ?_
    rw [inLanes_watch]
    · exact hd
    · intro b l
      dsimp only
      split
      · split <;> simp
      · rfl
    · intro b l
      exact Dev.each_watch (fun _ _ => showBrake_watch ..) ..

theorem execPtLightTestStart_ok {s : State} (h : s.dev.watch.ok) (k : Fin 16) : OutcomeOk (execPtLightTestStart k s) :=
  .run (h := h) fun d hd => by
    simp [hd]

theorem execPtDarkTestStart_ok {s : State} (h : s.dev.watch.ok) (k : Fin 16) : OutcomeOk (execPtDarkTestStart k s) :=
  .run (h := h) fun d hd => by
    simp [hd]

theorem execPtStepStart_ok {s : State} (h : s.dev.watch.ok) (k : Fin 16) : OutcomeOk (execPtStepStart k s) :=
  .run (h := h) fun d hd => by
    simp [hd]

theorem execPtStepEnd_ok {s : State} (h : s.dev.watch.ok) (k : Fin 16) : OutcomeOk (execPtStepEnd k s) :=
  .run (h := h) fun d hd => by
    simp [hd]

theorem execImageVerifyDone_ok {s : State} (h : s.dev.watch.ok) (l : Lane) : OutcomeOk (execImageVerifyDone l s) :=
  .run (h := h) fun d hd => by
    split
    · exact hd
    · extract_lets fw ref cfg d1
      have h1 : d1.watch.ok := by simpa [d1] using hd
      clear_value d1
      split
      · exact tryEndBoot_ok (enterSelftest_ok h1 l)
      · exact enterSelftest_ok h1 l
      · split
        · exact enterSelftest_ok (by simpa using h1) l
        · exact h1

theorem execBootTimeout_ok {s : State} (h : s.dev.watch.ok) : OutcomeOk (execBootTimeout s) :=
  .run (h := h) fun d hd => by
    split
    · refine tryEndBoot_ok ?_
      rw [Dev.each_watch fun b l => by split <;> simp]
      exact hd
    · exact hd

theorem execSelftestDone_ok {s : State} (h : s.dev.watch.ok) (l : Lane) : OutcomeOk (execSelftestDone l s) :=
  .run (h := h) fun d hd => by
    repeat' split
    all_goals simp [hd]

theorem execSelftestTimeout_ok {s : State} (h : s.dev.watch.ok) (l : Lane) : OutcomeOk (execSelftestTimeout l s) :=
  .run (h := h) fun d hd => by
    repeat' split
    all_goals simp [hd]

theorem execConverterStop_ok {s : State} (h : s.dev.watch.ok) (l : Lane) : OutcomeOk (execConverterStop l s) :=
  .run (h := h) fun d hd => by
    repeat' split
    all_goals simp [hd]

theorem execConvFault_ok {s : State} (h : s.dev.watch.ok) (l : Lane) : OutcomeOk (execConvFault l s) :=
  .run (h := h) fun d hd => by
    split
    · exact stopConverter_ok (laneReset_ok (by simpa using hd) ..) l
    · exact hd

theorem execLaneResetRelease_ok {s : State} (h : s.dev.watch.ok) (l : Lane) : OutcomeOk (execLaneResetRelease l s) :=
  .run (h := h) fun d hd => by
    split
    · refine setLaneMode_ok (onLane_ok (by simpa using hd) l fun x => ⟨rfl, rfl⟩) l .boot
    · exact hd

theorem execSupplyReset_ok {s : State} (h : s.dev.watch.ok) (l : Lane) : OutcomeOk (execSupplyReset l s) :=
  .run (h := h) fun d hd => by
    repeat' split
    all_goals simp [hd]

theorem execResetNAssert_ok {s : State} (h : s.dev.watch.ok) : OutcomeOk (execResetNAssert s) :=
  .run (h := h) fun d hd => by
    repeat' split
    all_goals simp [hd]

theorem execClkFault_ok {s : State} (h : s.dev.watch.ok) (k : Fin 13) (input : Bool) : OutcomeOk (execClkFault k input s) :=
  .run (h := h) fun d hd => by
    repeat' split
    all_goals simp [hd]

theorem execClkOk_ok {s : State} (h : s.dev.watch.ok) (k : Fin 13) : OutcomeOk (execClkOk k s) :=
  .run (h := h) fun d hd => by
    repeat' split
    all_goals simp [hd]

theorem execTempLimit_ok {s : State} (h : s.dev.watch.ok) (t : Fin 16) : OutcomeOk (execTempLimit t s) :=
  .run (h := h) fun d hd => by
    repeat' split
    all_goals simp [hd]

theorem execSupervisorMeasurement_ok {s : State} (h : s.dev.watch.ok) (m : Measurement) : OutcomeOk (execSupervisorMeasurement m s) :=
  .run (h := h) fun d hd => by
    split
    · exact hd
    · refine coolDown_ok ?_
      dsimp only
      split_ifs <;> simpa using hd

theorem execDeviceResetExecute_ok {s : State} (h : s.dev.watch.ok) : OutcomeOk (execDeviceResetExecute s) :=
  .run (h := h) fun d hd => by
    repeat' split
    all_goals simp [hd]

theorem execHstLinkDown_ok {s : State} (h : s.dev.watch.ok) : OutcomeOk (execHstLinkDown s) :=
  .run (h := h) fun d hd => by
    have hs (l : Lane) : RegFile.get (d.regs.filter fun c => !isHst c.field) LN_STATUS_STATE l.idx = d.watch.state l :=
      RegFile.get_filter _ (fun f => !isHst f) (by decide) _
    rw [showFlight_watch]
    refine (congrArg Watch.ok ((Dev.record_watch ..).trans (onHost_watch ..))).mpr ?_
    exact ⟨fun l hl => hd.1 l fun he => hl ((hs l).trans he), fun p hp => hd.2 p (List.mem_filter.mp hp).1⟩

theorem execSupervisorPowerLoss_ok {s : State} (h : s.dev.watch.ok) : OutcomeOk (execSupervisorPowerLoss s) :=
  .run (h := h) fun d hd => by
    exact ok_of_resetLanes rfl rfl

/-! The commands that leave what the rule watches, by a case of their own. -/

theorem execTelemetryRecord_ok {s : State} (h : s.dev.watch.ok) : OutcomeOk (execTelemetryRecord s) := .steady h fun d => by
  extract_lets t ks wr next d1 d2 d3 head body base d4
  have h1 : d1.watch = d.watch := onTlm_watch ..
  have h2 : d2.watch = d.watch := (Dev.wr_watch _ _ _ _ (by simp)).trans h1
  have h3 : d3.watch = d.watch := by simp [d3, h2]
  have h4 : d4.watch = d.watch := h1
  have h5 : (d4.put .MIL_TLM_WR_IDX next).watch = d.watch := (Dev.wr_watch _ _ _ _ (by simp)).trans h4
  split
  · rfl
  · split
    · exact (onTlm_watch ..).trans h3
    · exact (onTlm_watch ..).trans h5

theorem execDone_ok {s : State} (h : s.dev.watch.ok) (c : Fin 4) (success : Bool) (result : BitVec 32) :
    OutcomeOk (execDone c success result s) := .steady h fun d => by
  refine whenRunning_watch _ _ fun t => ?_
  dsimp only
  refine (leaveRunning_watch _ _ _ fun b => ?_).trans ?_
  · split_ifs <;> simp
  · split <;> simp

theorem execSlotPrefetch_ok {s : State} (h : s.dev.watch.ok) : OutcomeOk (execSlotPrefetch s) := .steady h fun d => by
  cases hf : (readyOrder d).findSome? (placeTask d) with
  | none => rfl
  | some e =>
    obtain ⟨t, -, ht⟩ := List.exists_of_findSome?_eq_some hf
    exact placeTask_watch ht

theorem execPlannerCommit_ok {s : State} (h : s.dev.watch.ok) : OutcomeOk (execPlannerCommit s) := .steady h fun d => by
  rw [showPlan_watch, storeLow_watch, grantWaiting_watch]
  split
  · split <;> simp
  · refine Dev.each_watch (fun b a => ?_) ..
    extract_lets feeds d1
    have h1 : d1.watch = b.watch := by
      unfold d1
      split
      · split <;> simp
      · rfl
    clear_value d1
    rw [← h1]
    split
    · split <;> simp
    · rfl

theorem execCancel_ok {s : State} (h : s.dev.watch.ok) (sq : Fin 17) (rsn : Word32) : OutcomeOk (execCancel sq rsn s) :=
  .steady h fun d => by
    dsimp only
    split
    · rfl
    · split
      · simp
      · split
        next hc => simp [cancelPlan_watch hc]
        next => split <;> simp

theorem execUnitEnable_ok {s : State} (h : s.dev.watch.ok) (sq : Fin 17) (rsn : Word32) : OutcomeOk (execUnitEnable sq rsn s) :=
  .steady h fun d => by
    have hall (on : Bool) (own : List (Nat × Nat)) (x : Dev × SMap Nat) :
        (own.foldl (fun (x : Dev × SMap Nat) p =>
          let y := requestUnit x.1 p.2 on
          (y.1, SMap.set 0xFF x.2 p.1 y.2)) x).1.watch = x.1.watch := by
      induction own generalizing x with
      | nil => rfl
      | cons p own ih => exact (ih _).trans (requestUnit_watch ..)
    dsimp only
    split
    · rfl
    · rw [complete_watch]
      exact hall _ _ _

theorem execHalt_ok {s : State} (h : s.dev.watch.ok) (n : Fin 2) : OutcomeOk (execHalt n s) := .steady h fun d => by
  have hout (b : Dev) : (b.each (List.range 32) fun d k => d.wr .SMY_OUT_V (32 * n + k) (SMap.get 0 (smyOf d n).work k).toNat).watch =
      b.watch :=
    Dev.each_watch (fun _ _ => Dev.wr_watch _ _ _ _ (by simp)) ..
  have hcount (b : Dev) : (b.incWrap .SMY_CNT_RUNS n).watch = b.watch := Dev.wr_watch _ _ _ _ (by simp)
  refine whenAt_watch _ _ _ ?_
  rw [smyEndRun_watch, hcount, hout, onSmy_watch]

end Sys2Proof.Machine
end

section
/-!
SUPPORT. The other commands, and O4.
-/
namespace Sys2Proof.Machine
open RegField

theorem execReadClear_ok {s : State} (h : s.dev.watch.ok) (m : Master) (addr width : Nat) : OutcomeOk (execReadClear m addr width s) :=
  .steady h fun d => by simp

theorem execTimeNsRead_ok {s : State} (h : s.dev.watch.ok) (m : Master) : OutcomeOk (execTimeNsRead m s) := .steady h fun d => by simp

theorem execCommitGo_ok {s : State} (h : s.dev.watch.ok) (m : Master) : OutcomeOk (execCommitGo m s) := .steady h fun d => by simp

theorem execCommitArm_ok {s : State} (h : s.dev.watch.ok) : OutcomeOk (execCommitArm s) := .steady h fun d => by simp

theorem execCommitApply_ok {s : State} (h : s.dev.watch.ok) : OutcomeOk (execCommitApply s) := .steady h fun d => by simp

theorem execCommitAbort_ok {s : State} (h : s.dev.watch.ok) (m : Master) : OutcomeOk (execCommitAbort m s) := .steady h fun d => by simp

theorem execPairFirstWordWrite_ok {s : State} (h : s.dev.watch.ok) (m : Master) (p : Fin 144) (value : Word32) :
    OutcomeOk (execPairFirstWordWrite m p value s) :=
  .steady h fun d => by simp

theorem execPairCompletingWrite_ok {s : State} (h : s.dev.watch.ok) (m : Master) (p : Fin 144) (value : Word32) :
    OutcomeOk (execPairCompletingWrite m p value s) :=
  .steady h fun d => by simp

theorem execLockWrite_ok {s : State} (h : s.dev.watch.ok) (m : Master) (value : Bool) : OutcomeOk (execLockWrite m value s) :=
  .steady h fun d => by simp

theorem execAdcRefEnWrite_ok {s : State} (h : s.dev.watch.ok) (m : Master) (value : Bool) : OutcomeOk (execAdcRefEnWrite m value s) :=
  .steady h fun d => by simp

theorem execRegdigGo_ok {s : State} (h : s.dev.watch.ok) (m : Master) : OutcomeOk (execRegdigGo m s) := .steady h fun d => by simp

theorem execRegdigSnapshot_ok {s : State} (h : s.dev.watch.ok) : OutcomeOk (execRegdigSnapshot s) := .steady h fun d => by simp

theorem execRegdigDone_ok {s : State} (h : s.dev.watch.ok) : OutcomeOk (execRegdigDone s) := .steady h fun d => by simp

theorem execDbgWindowAccess_ok {s : State} (h : s.dev.watch.ok) (m : Master) (write : Bool) (value : Word32) :
    OutcomeOk (execDbgWindowAccess m write value s) :=
  .steady h fun d => by simp

theorem execLatchInstant_ok {s : State} (h : s.dev.watch.ok) : OutcomeOk (execLatchInstant s) := .steady h fun d => by simp

theorem execOffsetMeasurement_ok {s : State} (h : s.dev.watch.ok) : OutcomeOk (execOffsetMeasurement s) :=
  .steady h fun d => by split <;> simp

theorem execSlewEnd_ok {s : State} (h : s.dev.watch.ok) : OutcomeOk (execSlewEnd s) := .steady h fun d => by simp

theorem execSourceLossTimeout_ok {s : State} (h : s.dev.watch.ok) : OutcomeOk (execSourceLossTimeout s) :=
  .steady h fun d => by split <;> simp

theorem execAcquireGo_ok {s : State} (h : s.dev.watch.ok) (m : Master) : OutcomeOk (execAcquireGo m s) := .steady h fun d => by simp

theorem execPtpSyncReceived_ok {s : State} (h : s.dev.watch.ok) (port : Fin 2) (twoStep : Bool) (domain seq : Nat) (c : PtpClock) :
    OutcomeOk (execPtpSyncReceived port twoStep domain seq c s) :=
  .steady h fun d => by simp

theorem execPtpFollowUpReceived_ok {s : State} (h : s.dev.watch.ok) (port : Fin 2) (domain seq : Nat) (origin : Int) :
    OutcomeOk (execPtpFollowUpReceived port domain seq origin s) :=
  .steady h fun d => by split <;> simp

theorem execPtpDelayRespReceived_ok {s : State} (h : s.dev.watch.ok) (port : Fin 2) (domain seq : Nat) (receive transmit : Int) :
    OutcomeOk (execPtpDelayRespReceived port domain seq receive transmit s) :=
  .steady h fun d => by
    dsimp only
    repeat' split
    all_goals simp

theorem execPtpDelayReqReceived_ok {s : State} (h : s.dev.watch.ok) (port : Fin 2) (domain seq : Nat) :
    OutcomeOk (execPtpDelayReqReceived port domain seq s) :=
  .steady h fun d => by simp

theorem execPtpSyncTransmit_ok {s : State} (h : s.dev.watch.ok) (port : Fin 2) : OutcomeOk (execPtpSyncTransmit port s) :=
  .steady h fun d => by simp

theorem execTtPulseStart_ok {s : State} (h : s.dev.watch.ok) (k : Fin 8) : OutcomeOk (execTtPulseStart k s) :=
  .steady h fun d => by split <;> simp

theorem execTtPulseEnd_ok {s : State} (h : s.dev.watch.ok) (k : Fin 8) : OutcomeOk (execTtPulseEnd k s) :=
  .steady h fun d => by split <;> simp

theorem execClosePhase_ok {s : State} (h : s.dev.watch.ok) (late : List (Fin 148)) : OutcomeOk (execClosePhase late s) :=
  .steady h fun d => by simp

theorem execCloseWindowEnd_ok {s : State} (h : s.dev.watch.ok) : OutcomeOk (execCloseWindowEnd s) := .steady h fun d => by simp

theorem execMarshalling_ok {s : State} (h : s.dev.watch.ok) : OutcomeOk (execMarshalling s) := .steady h fun d => by simp

theorem execPreparePhase_ok {s : State} (h : s.dev.watch.ok) (late : List (Fin 148)) : OutcomeOk (execPreparePhase late s) :=
  .steady h fun d => by simp

theorem execPrepareWindowEnd_ok {s : State} (h : s.dev.watch.ok) : OutcomeOk (execPrepareWindowEnd s) := .steady h fun d => by simp

theorem execStoreDrain_ok {s : State} (h : s.dev.watch.ok) (a : Fin 36) : OutcomeOk (execStoreDrain a s) :=
  .steady h fun d => by split <;> simp

theorem execEngineMigration_ok {s : State} (h : s.dev.watch.ok) (e : Fin 16) (bad : Bool) : OutcomeOk (execEngineMigration e bad s) :=
  .steady h fun d => by
    dsimp only
    repeat' split
    all_goals simp

theorem execGainTableWrite_ok {s : State} (h : s.dev.watch.ok) (m : Master) (v : Word32) : OutcomeOk (execGainTableWrite m v s) :=
  .steady h fun d => by simp

theorem execCycleLaunch_ok {s : State} (h : s.dev.watch.ok) : OutcomeOk (execCycleLaunch s) := .steady h fun d => by simp

theorem execCycleReturn_ok {s : State} (h : s.dev.watch.ok) (l : Lane) (c : ReturnedCopy) : OutcomeOk (execCycleReturn l c s) :=
  .steady h fun d => by simp

theorem execLateCopyReceived_ok {s : State} (h : s.dev.watch.ok) (l : Lane) (port : Fin 2) : OutcomeOk (execLateCopyReceived l port s) :=
  .steady h fun d => by simp

theorem execEntPortDown_ok {s : State} (h : s.dev.watch.ok) (l : Lane) (q : Fin 2) : OutcomeOk (execEntPortDown l q s) :=
  .steady h fun d => by simp

theorem execEntPortUp_ok {s : State} (h : s.dev.watch.ok) (l : Lane) (q : Fin 2) : OutcomeOk (execEntPortUp l q s) :=
  .steady h fun d => by
    dsimp only
    repeat' split
    all_goals simp

theorem execBypassOpen_ok {s : State} (h : s.dev.watch.ok) (l : Lane) : OutcomeOk (execBypassOpen l s) := .steady h fun d => by simp

theorem execStartSequence_ok {s : State} (h : s.dev.watch.ok) (l : Lane) : OutcomeOk (execStartSequence l s) := .steady h fun d => by simp

theorem execForeignFrameReceived_ok {s : State} (h : s.dev.watch.ok) (l : Lane) (masterId : Fin 256) :
    OutcomeOk (execForeignFrameReceived l masterId s) :=
  .steady h fun d => by simp

theorem execEnumerationReturn_ok {s : State} (h : s.dev.watch.ok) (l : Lane) (c : ReturnedCopy) : OutcomeOk (execEnumerationReturn l c s) :=
  .steady h fun d => by
    dsimp only
    repeat' split
    all_goals simp

theorem execEnumRetry_ok {s : State} (h : s.dev.watch.ok) (l : Lane) : OutcomeOk (execEnumRetry l s) := .steady h fun d => by simp

theorem execFrameRecordReceived_ok {s : State} (h : s.dev.watch.ok) (rx tx : Lane) (a : Arrival) (r : FrameRecord) :
    OutcomeOk (execFrameRecordReceived rx tx a r s) :=
  .steady h fun d => by simp

theorem execPositionRecordSend_ok {s : State} (h : s.dev.watch.ok) (l : Lane) : OutcomeOk (execPositionRecordSend l s) :=
  .steady h fun d => by simp

theorem execPositionRecordReceived_ok {s : State} (h : s.dev.watch.ok) (rx tx : Lane) (a : Arrival) (r : PositionRecord) :
    OutcomeOk (execPositionRecordReceived rx tx a r s) :=
  .steady h fun d => by simp

theorem execResultRecordReceived_ok {s : State} (h : s.dev.watch.ok) (rx tx : Lane) (a : Arrival) (r : ResultRecord) :
    OutcomeOk (execResultRecordReceived rx tx a r s) :=
  .steady h fun d => by simp

theorem execBulkBlockReceived_ok {s : State} (h : s.dev.watch.ok) (x : Lane) (good : Bool) : OutcomeOk (execBulkBlockReceived x good s) :=
  .steady h fun d => by simp

theorem execEvaluationWindowEnd_ok {s : State} (h : s.dev.watch.ok) (l : Lane) : OutcomeOk (execEvaluationWindowEnd l s) :=
  .steady h fun d => by
    dsimp only
    repeat' split
    all_goals simp

theorem execSafetyBufferLoad_ok {s : State} (h : s.dev.watch.ok) (l : Lane) (w : BufferWriter) : OutcomeOk (execSafetyBufferLoad l w s) :=
  .steady h fun d => by split <;> simp

theorem execDigestPass_ok {s : State} (h : s.dev.watch.ok) (l : Lane) : OutcomeOk (execDigestPass l s) :=
  .steady h fun d => by split <;> simp

theorem execArbJudge_ok {s : State} (h : s.dev.watch.ok) (l : Lane) : OutcomeOk (execArbJudge l s) := .steady h fun d => by simp

theorem execReloadChunkSend_ok {s : State} (h : s.dev.watch.ok) (x : Lane) : OutcomeOk (execReloadChunkSend x s) :=
  .steady h fun d => by split <;> simp

theorem execResyncSnapshot_ok {s : State} (h : s.dev.watch.ok) (x : Lane) : OutcomeOk (execResyncSnapshot x s) :=
  .steady h fun d => by split <;> simp

theorem execDegTimerExpired_ok {s : State} (h : s.dev.watch.ok) : OutcomeOk (execDegTimerExpired s) := .steady h fun d => by simp

theorem execDegTimerStop_ok {s : State} (h : s.dev.watch.ok) : OutcomeOk (execDegTimerStop s) := .steady h fun d => by simp

theorem execTighteningRampEnd_ok {s : State} (h : s.dev.watch.ok) : OutcomeOk (execTighteningRampEnd s) := .steady h fun d => by simp

theorem execSepPassStart_ok {s : State} (h : s.dev.watch.ok) (l : Lane) : OutcomeOk (execSepPassStart l s) := .steady h fun d => by simp

theorem execSiFilteredChange_ok {s : State} (h : s.dev.watch.ok) (i : Fin 24) : OutcomeOk (execSiFilteredChange i s) :=
  .steady h fun d => by simp

theorem execSiDiscrepancy_ok {s : State} (h : s.dev.watch.ok) (i : Fin 32) : OutcomeOk (execSiDiscrepancy i s) := .steady h fun d => by simp

theorem execAckPulse_ok {s : State} (h : s.dev.watch.ok) (i : Fin 32) : OutcomeOk (execAckPulse i s) := .steady h fun d => by simp

theorem execStandstillReached_ok {s : State} (h : s.dev.watch.ok) (u : Fin 16) : OutcomeOk (execStandstillReached u s) :=
  .steady h fun d => by simp

theorem execStopTimeLimit_ok {s : State} (h : s.dev.watch.ok) (u : Fin 16) : OutcomeOk (execStopTimeLimit u s) := .steady h fun d => by simp

theorem execStoDelayExpired_ok {s : State} (h : s.dev.watch.ok) (u : Fin 16) : OutcomeOk (execStoDelayExpired u s) :=
  .steady h fun d => by simp

theorem execLocalSs1Timeout_ok {s : State} (h : s.dev.watch.ok) (k : Fin 16) : OutcomeOk (execLocalSs1Timeout k s) :=
  .steady h fun d => by simp

theorem execDriveStoAckTimeout_ok {s : State} (h : s.dev.watch.ok) (u : Fin 16) : OutcomeOk (execDriveStoAckTimeout u s) :=
  .steady h fun d => by simp

theorem execPtDue_ok {s : State} (h : s.dev.watch.ok) (k : Fin 16) : OutcomeOk (execPtDue k s) := .steady h fun d => by simp

theorem execPtIntervalExpired_ok {s : State} (h : s.dev.watch.ok) (k : Fin 16) : OutcomeOk (execPtIntervalExpired k s) :=
  .steady h fun d => by split <;> simp

theorem execPkgCheckDone_ok {s : State} (h : s.dev.watch.ok) : OutcomeOk (execPkgCheckDone s) :=
  .steady h fun d => by
    repeat' split
    all_goals simp

theorem execPackageApply_ok {s : State} (h : s.dev.watch.ok) : OutcomeOk (execPackageApply s) := .steady h fun d => by split <;> simp

theorem execSupervisorPowerOn_ok {s : State} (h : s.dev.watch.ok) (present : PerLane Bool) : OutcomeOk (execSupervisorPowerOn present s) :=
  .steady h fun d => by simp

theorem execConverterStart_ok {s : State} (h : s.dev.watch.ok) (l : Lane) : OutcomeOk (execConverterStart l s) := .steady h fun d => by simp

theorem execConverterRegulation_ok {s : State} (h : s.dev.watch.ok) (l : Lane) : OutcomeOk (execConverterRegulation l s) :=
  .steady h fun d => by simp

theorem execDeviceResetRelease_ok {s : State} (h : s.dev.watch.ok) : OutcomeOk (execDeviceResetRelease s) := .steady h fun d => by simp

theorem execSupplyWarn_ok {s : State} (h : s.dev.watch.ok) (l : Lane) : OutcomeOk (execSupplyWarn l s) := .steady h fun d => by simp

theorem execSupplyOk_ok {s : State} (h : s.dev.watch.ok) (l : Lane) : OutcomeOk (execSupplyOk l s) := .steady h fun d => by simp

theorem execSupplyResetRelease_ok {s : State} (h : s.dev.watch.ok) (l : Lane) : OutcomeOk (execSupplyResetRelease l s) :=
  .steady h fun d => by simp

theorem execTrstNAssert_ok {s : State} (h : s.dev.watch.ok) : OutcomeOk (execTrstNAssert s) := .steady h fun _ => (rfl)

theorem execTempWarn_ok {s : State} (h : s.dev.watch.ok) (t : Fin 16) : OutcomeOk (execTempWarn t s) := .steady h fun d => by simp

theorem execClrLog_ok {s : State} (h : s.dev.watch.ok) (m : Master) : OutcomeOk (execClrLog m s) := .steady h fun d => by simp

theorem execChallenge_ok {s : State} (h : s.dev.watch.ok) : OutcomeOk (execChallenge s) := .steady h fun d => by simp

theorem execResponse_ok {s : State} (h : s.dev.watch.ok) (sc : DebugScope) (value : BitVec 128) (late : Bool) :
    OutcomeOk (execResponse sc value late s) :=
  .steady h fun d => by
    repeat' split
    all_goals simp

theorem execIdcode_ok {s : State} (h : s.dev.watch.ok) : OutcomeOk (execIdcode s) := .steady h fun _ => (rfl)

theorem execBypass_ok {s : State} (h : s.dev.watch.ok) : OutcomeOk (execBypass s) := .steady h fun _ => (rfl)

theorem execFbEdge_ok {s : State} (h : s.dev.watch.ok) (k : Fin 16) (a b z : Bool) (stamp : Int) : OutcomeOk (execFbEdge k a b z stamp s) :=
  .steady h fun d => by simp

theorem execFbObserverStep_ok {s : State} (h : s.dev.watch.ok) (k : Fin 16) (i : Fin 320) : OutcomeOk (execFbObserverStep k i s) :=
  .steady h fun d => by simp

theorem execSsiTransferDone_ok {s : State} (h : s.dev.watch.ok) (k : Fin 16) (idleHigh : Bool) (w1 : Nat) (sep : Bool) (w2 : Nat) :
    OutcomeOk (execSsiTransferDone k idleHigh w1 sep w2 s) :=
  .steady h fun d => by simp

theorem execBissCycleDone_ok {s : State} (h : s.dev.watch.ok) (k : Fin 16) (start : Bool) (delayNs pos : Nat) (nE nW : Bool) (crc : Nat) :
    OutcomeOk (execBissCycleDone k start delayNs pos nE nW crc s) :=
  .steady h fun d => by simp

theorem execFbClr_ok {s : State} (h : s.dev.watch.ok) (m : Master) (k : Fin 16) : OutcomeOk (execFbClr m k s) := .steady h fun d => by simp

theorem execFbPreset_ok {s : State} (h : s.dev.watch.ok) (m : Master) (k : Fin 16) : OutcomeOk (execFbPreset m k s) :=
  .steady h fun d => by simp

theorem execStepPulse_ok {s : State} (h : s.dev.watch.ok) (k : Fin 16) : OutcomeOk (execStepPulse k s) := .steady h fun d => by simp

theorem execStepStandby_ok {s : State} (h : s.dev.watch.ok) (k : Fin 16) : OutcomeOk (execStepStandby k s) :=
  .steady h fun d => by split <;> simp

theorem execStpRunSet_ok {s : State} (h : s.dev.watch.ok) (m : Master) (k : Fin 16) (v : Bool) : OutcomeOk (execStpRunSet m k v s) :=
  .steady h fun d => by simp

theorem execRearm_ok {s : State} (h : s.dev.watch.ok) (m : Master) (k : Fin 16) : OutcomeOk (execRearm m k s) := .steady h fun d => by simp

theorem execRepOutput_ok {s : State} (h : s.dev.watch.ok) (k : Fin 16) : OutcomeOk (execRepOutput k s) :=
  .steady h fun d => by
    repeat' split
    all_goals simp

theorem execAdcRefReady_ok {s : State} (h : s.dev.watch.ok) : OutcomeOk (execAdcRefReady s) := .steady h fun d => by simp

theorem execMonitorRound_ok {s : State} (h : s.dev.watch.ok) (s0 s1 : List Sample) : OutcomeOk (execMonitorRound s0 s1 s) :=
  .steady h fun d => by simp

theorem execAdcSeqGo_ok {s : State} (h : s.dev.watch.ok) (m : Master) : OutcomeOk (execAdcSeqGo m s) := .steady h fun d => by simp

theorem execAdcSeqTrigger_ok {s : State} (h : s.dev.watch.ok) : OutcomeOk (execAdcSeqTrigger s) := .steady h fun d => by split <;> simp

theorem execAdcSeqEnable_ok {s : State} (h : s.dev.watch.ok) (m : Master) (v : Bool) : OutcomeOk (execAdcSeqEnable m v s) :=
  .steady h fun d => by simp

theorem execAdcEntryEnd_ok {s : State} (h : s.dev.watch.ok) (v : Fin 2) (samples : List Sample) : OutcomeOk (execAdcEntryEnd v samples s) :=
  .steady h fun d => by
    dsimp only
    repeat' split
    all_goals simp

theorem execAdcSeqEnd_ok {s : State} (h : s.dev.watch.ok) : OutcomeOk (execAdcSeqEnd s) :=
  .steady h fun d => by
    dsimp only
    repeat' split
    all_goals simp

theorem execAdcUaSumRead_ok {s : State} (h : s.dev.watch.ok) (m : Master) (u : Fin 32) : OutcomeOk (execAdcUaSumRead m u s) :=
  .steady h fun d => by simp

theorem execAdcUaClr_ok {s : State} (h : s.dev.watch.ok) (m : Master) (u : Fin 32) : OutcomeOk (execAdcUaClr m u s) :=
  .steady h fun d => by simp

theorem execSmyRunStart_ok {s : State} (h : s.dev.watch.ok) (n : Fin 2) : OutcomeOk (execSmyRunStart n s) :=
  .steady h fun d => by
    dsimp only
    repeat' split
    all_goals simp

theorem execSmyStart_ok {s : State} (h : s.dev.watch.ok) (m : Master) (n : Fin 2) : OutcomeOk (execSmyStart m n s) :=
  .steady h fun d => by simp

theorem execSmyHaltReq_ok {s : State} (h : s.dev.watch.ok) (m : Master) (n : Fin 2) : OutcomeOk (execSmyHaltReq m n s) :=
  .steady h fun d => by simp

theorem execSmyBudgetExceeded_ok {s : State} (h : s.dev.watch.ok) (n : Fin 2) : OutcomeOk (execSmyBudgetExceeded n s) :=
  .steady h fun d => by simp

theorem execSmyPortAccess_ok {s : State} (h : s.dev.watch.ok) (m : Master) (n : Fin 2) (data : Bool) (write : Option Word32) :
    OutcomeOk (execSmyPortAccess m n data write s) :=
  .steady h fun d => by
    dsimp only
    split <;> simp

theorem execRep_ok {s : State} (h : s.dev.watch.ok) (n : Fin 2) (r : RepCount) : OutcomeOk (execRep n r s) := .steady h fun d => by simp

theorem execJmp_ok {s : State} (h : s.dev.watch.ok) (n : Fin 2) (addr : BitVec 12) : OutcomeOk (execJmp n addr s) :=
  .steady h fun d => by simp

theorem execBr_ok {s : State} (h : s.dev.watch.ok) (n : Fin 2) (a : Bool) (cond : BitVec 2) (addr : BitVec 12) :
    OutcomeOk (execBr n a cond addr s) :=
  .steady h fun d => by simp

theorem execDjnz_ok {s : State} (h : s.dev.watch.ok) (n : Fin 2) (dd : BitVec 3) (addr : BitVec 12) : OutcomeOk (execDjnz n dd addr s) :=
  .steady h fun d => by simp

theorem execTrig_ok {s : State} (h : s.dev.watch.ok) (n : Fin 2) (t : Bool) : OutcomeOk (execTrig n t s) := .steady h fun d => by simp

theorem execSig_ok {s : State} (h : s.dev.watch.ok) (n : Fin 2) (imm : BitVec 16) : OutcomeOk (execSig n imm s) :=
  .steady h fun d => by simp

theorem execIllegalInstruction_ok {s : State} (h : s.dev.watch.ok) (n : Fin 2) : OutcomeOk (execIllegalInstruction n s) :=
  .steady h fun d => by simp

theorem execTake_ok {s : State} (h : s.dev.watch.ok) (c : Fin 4) : OutcomeOk (execTake c s) :=
  .steady h fun d => by
    dsimp only
    repeat' split
    all_goals simp

theorem execYield_ok {s : State} (h : s.dev.watch.ok) (c : Fin 4) : OutcomeOk (execYield c s) := .steady h fun d => by simp

theorem execWait_ok {s : State} (h : s.dev.watch.ok) (c : Fin 4) (timeout : BitVec 16) : OutcomeOk (execWait c timeout s) :=
  .steady h fun d => by simp

theorem execSleep_ok {s : State} (h : s.dev.watch.ok) (c : Fin 4) (arg : SleepArg) : OutcomeOk (execSleep c arg s) :=
  .steady h fun d => by simp

theorem execSignal_ok {s : State} (h : s.dev.watch.ok) (c : Fin 4) (t : Fin 256) : OutcomeOk (execSignal c t s) :=
  .steady h fun d => by simp

theorem execEnqueue_ok {s : State} (h : s.dev.watch.ok) (src : RveSource) (q : RveRequest) (i : Fin 2048) :
    OutcomeOk (execEnqueue src q i s) :=
  .steady h fun d => by simp

theorem execRveCancel_ok {s : State} (h : s.dev.watch.ok) (c : Option (Fin 4)) (i : Fin 2048) : OutcomeOk (execRveCancel c i s) :=
  .steady h fun d => by simp

theorem execCreate_ok {s : State} (h : s.dev.watch.ok) (c : Fin 4) (t : Fin 256) (thread : Bool) (prio : Fin 8) (affinity : BitVec 4)
    (flow : Option (Fin 64)) :
    OutcomeOk (execCreate c t thread prio affinity flow s) :=
  .steady h fun d => by simp

theorem execDelete_ok {s : State} (h : s.dev.watch.ok) (c : Fin 4) (t : Fin 256) : OutcomeOk (execDelete c t s) :=
  .steady h fun d => by simp

theorem execFlowRelease_ok {s : State} (h : s.dev.watch.ok) (f : Fin 64) : OutcomeOk (execFlowRelease f s) :=
  .steady h fun d => by split <;> simp

theorem execDelayExpiry_ok {s : State} (h : s.dev.watch.ok) : OutcomeOk (execDelayExpiry s) := .steady h fun d => by simp

theorem execRveOverlong_ok {s : State} (h : s.dev.watch.ok) (c : Fin 4) : OutcomeOk (execRveOverlong c s) :=
  .steady h fun d => by split <;> simp

theorem execDoorbellPoll_ok {s : State} (h : s.dev.watch.ok) (block : List Word32) : OutcomeOk (execDoorbellPoll block s) :=
  .steady h fun d => by simp

theorem execSubmissionFetch_ok {s : State} (h : s.dev.watch.ok) (entry : List Byte) : OutcomeOk (execSubmissionFetch entry s) :=
  .steady h fun d => by
    dsimp only
    repeat' split
    all_goals simp

theorem execMoveJ_ok {s : State} (h : s.dev.watch.ok) (a : Fin 36) : OutcomeOk (execMoveJ a s) :=
  .steady h fun d => by
    dsimp only
    repeat' split
    all_goals simp

theorem execMoveL_ok {s : State} (h : s.dev.watch.ok) (a : Fin 16) : OutcomeOk (execMoveL a s) := .steady h fun d => by simp

theorem execMoveC_ok {s : State} (h : s.dev.watch.ok) (a : Fin 16) : OutcomeOk (execMoveC a s) := .steady h fun d => by simp

theorem execMoveP_ok {s : State} (h : s.dev.watch.ok) (a : Fin 16) : OutcomeOk (execMoveP a s) := .steady h fun d => by simp

theorem execGearIn_ok {s : State} (h : s.dev.watch.ok) (a : Fin 36) : OutcomeOk (execGearIn a s) :=
  .steady h fun d => by
    repeat' split
    all_goals simp

theorem execGearOut_ok {s : State} (h : s.dev.watch.ok) (a : Fin 36) : OutcomeOk (execGearOut a s) :=
  .steady h fun d => by
    repeat' split
    all_goals simp

theorem execCamIn_ok {s : State} (h : s.dev.watch.ok) (a : Fin 36) : OutcomeOk (execCamIn a s) :=
  .steady h fun d => by
    dsimp only
    repeat' split
    all_goals simp

theorem execCamOut_ok {s : State} (h : s.dev.watch.ok) (a : Fin 36) : OutcomeOk (execCamOut a s) :=
  .steady h fun d => by
    repeat' split
    all_goals simp

theorem execZoneRelease_ok {s : State} (h : s.dev.watch.ok) (a : Fin 16) : OutcomeOk (execZoneRelease a s) :=
  .steady h fun d => by split <;> simp

theorem execOverride_ok {s : State} (h : s.dev.watch.ok) (sq : Fin 17) (rsn : Word32) : OutcomeOk (execOverride sq rsn s) :=
  .steady h fun d => by
    dsimp only
    repeat' split
    all_goals simp

theorem execStopAndFlush_ok {s : State} (h : s.dev.watch.ok) (sq : Fin 17) (rsn : Word32) : OutcomeOk (execStopAndFlush sq rsn s) :=
  .steady h fun d => by
    dsimp only
    repeat' split
    all_goals simp

theorem execFeedHold_ok {s : State} (h : s.dev.watch.ok) (sq : Fin 17) (rsn : Word32) : OutcomeOk (execFeedHold sq rsn s) :=
  .steady h fun d => by split <;> simp

theorem execResume_ok {s : State} (h : s.dev.watch.ok) (sq : Fin 17) (rsn : Word32) : OutcomeOk (execResume sq rsn s) :=
  .steady h fun d => by
    dsimp only
    repeat' split
    all_goals simp

theorem execLoadTable_ok {s : State} (h : s.dev.watch.ok) (sq : Fin 17) (rsn : Word32) (bytes : List Byte) :
    OutcomeOk (execLoadTable sq rsn bytes s) :=
  .steady h fun d => by split <;> simp

theorem execQueryArm_ok {s : State} (h : s.dev.watch.ok) (sq : Fin 17) (rsn : Word32) : OutcomeOk (execQueryArm sq rsn s) :=
  .steady h fun d => by split <;> simp

theorem execZoneGrant_ok {s : State} (h : s.dev.watch.ok) (a : Fin 16) : OutcomeOk (execZoneGrant a s) := .steady h fun d => by simp

theorem execZoneTimeout_ok {s : State} (h : s.dev.watch.ok) (a : Fin 16) : OutcomeOk (execZoneTimeout a s) :=
  .steady h fun d => by
    repeat' split
    all_goals simp

theorem execSyncStart_ok {s : State} (h : s.dev.watch.ok) (tag : BitVec 16) : OutcomeOk (execSyncStart tag s) := .steady h fun d => by simp

theorem execAtFrameStart_ok {s : State} (h : s.dev.watch.ok) (a : Fin 36) : OutcomeOk (execAtFrameStart a s) :=
  .steady h fun d => by
    repeat' split
    all_goals simp

theorem execCommandEndFrame_ok {s : State} (h : s.dev.watch.ok) (a : Fin 36) : OutcomeOk (execCommandEndFrame a s) :=
  .steady h fun d => by
    dsimp only
    repeat' split
    all_goals simp

theorem execSpeedCap_ok {s : State} (h : s.dev.watch.ok) (a : Fin 32) : OutcomeOk (execSpeedCap a s) :=
  .steady h fun d => by
    dsimp only
    split <;> simp

theorem execSafetyStopDecision_ok {s : State} (h : s.dev.watch.ok) (a : Fin 32) : OutcomeOk (execSafetyStopDecision a s) :=
  .steady h fun d => by
    dsimp only
    repeat' split
    all_goals simp

theorem execGetStatus_ok {s : State} (h : s.dev.watch.ok) (sq : Fin 17) (rsn : Word32) : OutcomeOk (execGetStatus sq rsn s) :=
  .steady h fun d => by split <;> simp

theorem execGetTopology_ok {s : State} (h : s.dev.watch.ok) (sq : Fin 17) (rsn : Word32) : OutcomeOk (execGetTopology sq rsn s) :=
  .steady h fun d => by split <;> simp

theorem execReadLog_ok {s : State} (h : s.dev.watch.ok) (sq : Fin 17) (rsn : Word32) : OutcomeOk (execReadLog sq rsn s) :=
  .steady h fun d => by split <;> simp

theorem execMotionEnable_ok {s : State} (h : s.dev.watch.ok) (sq : Fin 17) (rsn : Word32) : OutcomeOk (execMotionEnable sq rsn s) :=
  .steady h fun d => by split <;> simp

theorem execBrakeTest_ok {s : State} (h : s.dev.watch.ok) (sq : Fin 17) (rsn : Word32) : OutcomeOk (execBrakeTest sq rsn s) :=
  .steady h fun d => by split <;> simp

theorem execFwDownload_ok {s : State} (h : s.dev.watch.ok) (sq : Fin 17) (rsn : Word32) (image : FwImage) (crcOk : Bool) :
    OutcomeOk (execFwDownload sq rsn image crcOk s) :=
  .steady h fun d => by split <;> simp

theorem execFwActivate_ok {s : State} (h : s.dev.watch.ok) (sq : Fin 17) (rsn : Word32) : OutcomeOk (execFwActivate sq rsn s) :=
  .steady h fun d => by split <;> simp

theorem execPkgDownload_ok {s : State} (h : s.dev.watch.ok) (sq : Fin 17) (rsn : Word32) (p : Package) (crcOk : Bool) :
    OutcomeOk (execPkgDownload sq rsn p crcOk s) :=
  .steady h fun d => by split <;> simp

theorem execDeviceReset_ok {s : State} (h : s.dev.watch.ok) (sq : Fin 17) (rsn : Word32) : OutcomeOk (execDeviceReset sq rsn s) :=
  .steady h fun d => by split <;> simp

theorem execSqEnable_ok {s : State} (h : s.dev.watch.ok) (m : Master) (q : Fin 16) (en seqReset : Bool) :
    OutcomeOk (execSqEnable m q en seqReset s) :=
  .steady h fun d => by simp

theorem execCqEnable_ok {s : State} (h : s.dev.watch.ok) (m : Master) (q : Fin 16) (en : Bool) : OutcomeOk (execCqEnable m q en s) :=
  .steady h fun d => by simp

theorem execEvqEnable_ok {s : State} (h : s.dev.watch.ok) (m : Master) (en : Bool) : OutcomeOk (execEvqEnable m en s) :=
  .steady h fun d => by simp

theorem execEventCopy_ok {s : State} (h : s.dev.watch.ok) : OutcomeOk (execEventCopy s) :=
  .steady h fun d => by
    repeat' split
    all_goals simp

theorem execMsixHint_ok {s : State} (h : s.dev.watch.ok) (unmasked : Bool) : OutcomeOk (execMsixHint unmasked s) :=
  .steady h fun d => by simp

theorem execHstLinkUp_ok {s : State} (h : s.dev.watch.ok) : OutcomeOk (execHstLinkUp s) := .steady h fun d => by simp

theorem execGroupCycleStart_ok {s : State} (h : s.dev.watch.ok) (l : Fin 5) : OutcomeOk (execGroupCycleStart l s) :=
  .steady h fun d => by simp

theorem execMemberFrameSend_ok {s : State} (h : s.dev.watch.ok) (l : Fin 5) : OutcomeOk (execMemberFrameSend l s) :=
  .steady h fun d => by simp

theorem execStewardFrameReceived_ok {s : State} (h : s.dev.watch.ok) (f : GroupFrame) : OutcomeOk (execStewardFrameReceived f s) :=
  .steady h fun d => by
    dsimp only
    split <;> simp

theorem execMemberFrameReceived_ok {s : State} (h : s.dev.watch.ok) (f : GroupFrame) : OutcomeOk (execMemberFrameReceived f s) :=
  .steady h fun d => by
    dsimp only
    split <;> simp

theorem execGroupCommandFrame_ok {s : State} (h : s.dev.watch.ok) (f : GroupEntry) : OutcomeOk (execGroupCommandFrame f s) :=
  .steady h fun d => by
    dsimp only
    repeat' split
    all_goals simp

theorem execGroupCompletionFrame_ok {s : State} (h : s.dev.watch.ok) (f : GroupEntry) : OutcomeOk (execGroupCompletionFrame f s) :=
  .steady h fun d => by
    dsimp only
    split <;> simp

theorem execStewardElection_ok {s : State} (h : s.dev.watch.ok) (l : Fin 5) : OutcomeOk (execStewardElection l s) :=
  .steady h fun d => by simp

theorem execGrpMemberLost_ok {s : State} (h : s.dev.watch.ok) (l : Fin 5) (m : Fin 8) : OutcomeOk (execGrpMemberLost l m s) :=
  .steady h fun d => by simp

theorem execGrpStewardLost_ok {s : State} (h : s.dev.watch.ok) (l : Fin 5) : OutcomeOk (execGrpStewardLost l s) :=
  .steady h fun d => by simp

theorem execGrpFrameAlign_ok {s : State} (h : s.dev.watch.ok) (l : Fin 5) : OutcomeOk (execGrpFrameAlign l s) :=
  .steady h fun d => by split <;> simp

theorem execGrpQuarantineEnd_ok {s : State} (h : s.dev.watch.ok) (l : Fin 5) : OutcomeOk (execGrpQuarantineEnd l s) :=
  .steady h fun d => by simp

theorem execGrpRejoin_ok {s : State} (h : s.dev.watch.ok) (m : Master) : OutcomeOk (execGrpRejoin m s) := .steady h fun d => by simp

theorem execRcFault_ok {s : State} (h : s.dev.watch.ok) : OutcomeOk (execRcFault s) := .steady h fun d => by simp

theorem execPtpDelayReqTransmit_ok {s : State} (h : s.dev.watch.ok) (port : Fin 2) : OutcomeOk (execPtpDelayReqTransmit port s) :=
  .steady h fun d => by simp

theorem execMaintenancePacketReceived_ok {s : State} (h : s.dev.watch.ok) (port : Fin 2) (q : RveRequest) (i : Fin 2048) :
    OutcomeOk (execMaintenancePacketReceived port q i s) :=
  .steady h fun d => by simp

theorem execFwActivateVerified_ok {s : State} (h : s.dev.watch.ok) : OutcomeOk (execFwActivateVerified s) :=
  .steady h fun d => by
    dsimp only
    repeat' split
    all_goals simp

theorem execFwDownloadWritten_ok {s : State} (h : s.dev.watch.ok) (flashFault : Bool) : OutcomeOk (execFwDownloadWritten flashFault s) :=
  .steady h fun d => by split <;> simp

/-! The instructions of the Smithy engines change an engine's core alone. -/

theorem runRepeat_ok {s : State} (h : s.dev.watch.ok) (n : Nat) (i : SmyInstr) (f : Bool → SmyCore → SmyCore) :
    OutcomeOk (runRepeat n i f s) := .steady h fun d => by simp

theorem runPlain_ok {s : State} (h : s.dev.watch.ok) (n : Nat) (i : SmyInstr) (f : SmyCore → SmyCore) : OutcomeOk (runPlain n i f s) :=
  .steady h fun d => by simp

theorem execNop_ok {s : State} (h : s.dev.watch.ok) (n : Fin 2) : OutcomeOk (execNop n s) := runRepeat_ok h _ _ _

theorem execMac_ok {s : State} (h : s.dev.watch.ok) (n : Fin 2) (sb a : Bool) (xa ya : BitVec 5) : OutcomeOk (execMac n sb a xa ya s) :=
  runRepeat_ok h _ _ _

theorem execMsu_ok {s : State} (h : s.dev.watch.ok) (n : Fin 2) (sb a : Bool) (xa ya : BitVec 5) : OutcomeOk (execMsu n sb a xa ya s) :=
  runRepeat_ok h _ _ _

theorem execMpy_ok {s : State} (h : s.dev.watch.ok) (n : Fin 2) (sb a : Bool) (xa ya : BitVec 5) : OutcomeOk (execMpy n sb a xa ya s) :=
  runRepeat_ok h _ _ _

theorem execMacd_ok {s : State} (h : s.dev.watch.ok) (n : Fin 2) (sb a : Bool) (xa : BitVec 5) (dm : BitVec 3) :
    OutcomeOk (execMacd n sb a xa dm s) :=
  runRepeat_ok h _ _ _

theorem execLda_ok {s : State} (h : s.dev.watch.ok) (n : Fin 2) (a ms : Bool) (ad : BitVec 5) : OutcomeOk (execLda n a ms ad s) :=
  runRepeat_ok h _ _ _

theorem execAda_ok {s : State} (h : s.dev.watch.ok) (n : Fin 2) (sb a ms : Bool) (ad : BitVec 5) : OutcomeOk (execAda n sb a ms ad s) :=
  runRepeat_ok h _ _ _

theorem execSta_ok {s : State} (h : s.dev.watch.ok) (n : Fin 2) (sb a ms rnd : Bool) (ad : BitVec 5) :
    OutcomeOk (execSta n sb a ms rnd ad s) :=
  runRepeat_ok h _ _ _

theorem execLdd_ok {s : State} (h : s.dev.watch.ok) (n : Fin 2) (dd : BitVec 3) (ms : Bool) (ad : BitVec 5) :
    OutcomeOk (execLdd n dd ms ad s) :=
  runRepeat_ok h _ _ _

theorem execStd_ok {s : State} (h : s.dev.watch.ok) (n : Fin 2) (dd : BitVec 3) (ms : Bool) (ad : BitVec 5) :
    OutcomeOk (execStd n dd ms ad s) :=
  runRepeat_ok h _ _ _

theorem execLdi_ok {s : State} (h : s.dev.watch.ok) (n : Fin 2) (dd : BitVec 3) (imm : BitVec 16) : OutcomeOk (execLdi n dd imm s) :=
  runPlain_ok h _ _ _

theorem execSha_ok {s : State} (h : s.dev.watch.ok) (n : Fin 2) (sb a : Bool) (sh : BitVec 6) : OutcomeOk (execSha n sb a sh s) :=
  runRepeat_ok h _ _ _

theorem execMvad_ok {s : State} (h : s.dev.watch.ok) (n : Fin 2) (sb a : Bool) (dd : BitVec 3) (rnd : Bool) :
    OutcomeOk (execMvad n sb a dd rnd s) :=
  runPlain_ok h _ _ _

theorem execAdda_ok {s : State} (h : s.dev.watch.ok) (n : Fin 2) (sb a sub : Bool) : OutcomeOk (execAdda n sb a sub s) :=
  runPlain_ok h _ _ _

theorem execClra_ok {s : State} (h : s.dev.watch.ok) (n : Fin 2) (a : Bool) : OutcomeOk (execClra n a s) := runPlain_ok h _ _ _

theorem execMvs_ok {s : State} (h : s.dev.watch.ok) (n : Fin 2) (dd : BitVec 3) (sel : BitVec 2) : OutcomeOk (execMvs n dd sel s) :=
  runPlain_ok h _ _ _

theorem execSrch_ok {s : State} (h : s.dev.watch.ok) (n : Fin 2) (ms : Bool) (ad : BitVec 5) : OutcomeOk (execSrch n ms ad s) :=
  runRepeat_ok h _ _ _

theorem execSrcl_ok {s : State} (h : s.dev.watch.ok) (n : Fin 2) : OutcomeOk (execSrcl n s) := runPlain_ok h _ _ _

theorem execLdp_ok {s : State} (h : s.dev.watch.ok) (n : Fin 2) (tgt : BitVec 4) (imm : BitVec 12) : OutcomeOk (execLdp n tgt imm s) :=
  runPlain_ok h _ _ _

theorem execOut_ok {s : State} (h : s.dev.watch.ok) (n : Fin 2) (sb a src : Bool) (dd : BitVec 3) (k : BitVec 5) :
    OutcomeOk (execOut n sb a src dd k s) :=
  runPlain_ok h _ _ _

theorem execIn_ok {s : State} (h : s.dev.watch.ok) (n : Fin 2) (a clr : Bool) (port : BitVec 10) :
    OutcomeOk (execIn n a clr port s) := .steady h fun d =>
  whenAt_watch _ _ _ (by
    dsimp only
    split <;> simp)

/-! Every command, and every step. -/

/-- Every command keeps the rule of R73. -/
theorem exec_ok {s : State} (h : s.dev.watch.ok) (i : Instr) : OutcomeOk (exec i s) := by
  cases i with
  | registerWrite m addr width value => exact execRegisterWrite_ok h m addr width value
  | readClear m addr width => exact execReadClear_ok h m addr width
  | timeNsRead m => exact execTimeNsRead_ok h m
  | postedWriteComplete b => exact execPostedWriteComplete_ok h b
  | commitGo m => exact execCommitGo_ok h m
  | commitArm => exact execCommitArm_ok h
  | commitApply => exact execCommitApply_ok h
  | commitAbort m => exact execCommitAbort_ok h m
  | pairFirstWordWrite m p value => exact execPairFirstWordWrite_ok h m p value
  | pairCompletingWrite m p value => exact execPairCompletingWrite_ok h m p value
  | lockWrite m value => exact execLockWrite_ok h m value
  | adcRefEnWrite m value => exact execAdcRefEnWrite_ok h m value
  | aliasRead m offset width => exact execAliasRead_ok h m offset width
  | aliasWrite m offset width value => exact execAliasWrite_ok h m offset width value
  | regdigGo m => exact execRegdigGo_ok h m
  | regdigSnapshot => exact execRegdigSnapshot_ok h
  | regdigDone => exact execRegdigDone_ok h
  | dbgWindowAccess m write value => exact execDbgWindowAccess_ok h m write value
  | frameTick contacts => exact execFrameTick_ok h contacts
  | tickLost miss => exact execTickLost_ok h miss
  | periodChange contacts => exact execPeriodChange_ok h contacts
  | latchInstant => exact execLatchInstant_ok h
  | offsetMeasurement => exact execOffsetMeasurement_ok h
  | slewEnd => exact execSlewEnd_ok h
  | sourceLossTimeout => exact execSourceLossTimeout_ok h
  | acquireGo m => exact execAcquireGo_ok h m
  | ptpSyncReceived port twoStep domain seq c => exact execPtpSyncReceived_ok h port twoStep domain seq c
  | ptpFollowUpReceived port domain seq origin => exact execPtpFollowUpReceived_ok h port domain seq origin
  | ptpDelayRespReceived port domain seq receive transmit => exact execPtpDelayRespReceived_ok h port domain seq receive transmit
  | ptpDelayReqReceived port domain seq => exact execPtpDelayReqReceived_ok h port domain seq
  | ptpSyncTransmit port => exact execPtpSyncTransmit_ok h port
  | ttPulseStart k => exact execTtPulseStart_ok h k
  | ttPulseEnd k => exact execTtPulseEnd_ok h k
  | closePhase late => exact execClosePhase_ok h late
  | closeWindowEnd => exact execCloseWindowEnd_ok h
  | marshalling => exact execMarshalling_ok h
  | preparePhase late => exact execPreparePhase_ok h late
  | prepareWindowEnd => exact execPrepareWindowEnd_ok h
  | storeDrain a => exact execStoreDrain_ok h a
  | spareKat p pass => exact execSpareKat_ok h p pass
  | engineFault p kat => exact execEngineFault_ok h p kat
  | engineMigration e bad => exact execEngineMigration_ok h e bad
  | telemetryRecord => exact execTelemetryRecord_ok h
  | gainTableWrite m v => exact execGainTableWrite_ok h m v
  | cycleLaunch => exact execCycleLaunch_ok h
  | cycleReturn l c => exact execCycleReturn_ok h l c
  | cycleCompletionLimit => exact execCycleCompletionLimit_ok h
  | lateCopyReceived l port => exact execLateCopyReceived_ok h l port
  | entPortDown l q => exact execEntPortDown_ok h l q
  | entPortUp l q => exact execEntPortUp_ok h l q
  | bypassOpen l => exact execBypassOpen_ok h l
  | startSequence l => exact execStartSequence_ok h l
  | foreignFrameReceived l masterId => exact execForeignFrameReceived_ok h l masterId
  | enumerationReturn l c => exact execEnumerationReturn_ok h l c
  | enumRetry l => exact execEnumRetry_ok h l
  | frameRecordSend l bent => exact execFrameRecordSend_ok h l bent
  | frameRecordReceived rx tx a r => exact execFrameRecordReceived_ok h rx tx a r
  | positionRecordSend l => exact execPositionRecordSend_ok h l
  | positionRecordReceived rx tx a r => exact execPositionRecordReceived_ok h rx tx a r
  | resultRecordReceived rx tx a r => exact execResultRecordReceived_ok h rx tx a r
  | bulkBlockReceived x good => exact execBulkBlockReceived_ok h x good
  | agreeValues l => exact execAgreeValues_ok h l
  | laneEvaluation l => exact execLaneEvaluation_ok h l
  | evaluationWindowEnd l => exact execEvaluationWindowEnd_ok h l
  | safetyBufferLoad l w => exact execSafetyBufferLoad_ok h l w
  | lockstepMismatch l => exact execLockstepMismatch_ok h l
  | faultLatchTimeout l => exact execFaultLatchTimeout_ok h l
  | memUe l => exact execMemUe_ok h l
  | memoryScrub l corrected uncorrectable => exact execMemoryScrub_ok h l corrected uncorrectable
  | cmpTest l ok => exact execCmpTest_ok h l ok
  | digestPass l => exact execDigestPass_ok h l
  | arbStart sigs => exact execArbStart_ok h sigs
  | arbJudge l => exact execArbJudge_ok h l
  | arbOutcome => exact execArbOutcome_ok h
  | reloadChunkSend x => exact execReloadChunkSend_ok h x
  | reloadVerify x => exact execReloadVerify_ok h x
  | imageSwitch => exact execImageSwitch_ok h
  | resyncSnapshot x => exact execResyncSnapshot_ok h x
  | snapshotLoad x => exact execSnapshotLoad_ok h x
  | laneRejoin x => exact execLaneRejoin_ok h x
  | debugEnter l => exact execDebugEnter_ok h l
  | degTimerExpired => exact execDegTimerExpired_ok h
  | degTimerStop => exact execDegTimerStop_ok h
  | tighteningRampEnd => exact execTighteningRampEnd_ok h
  | sepPassStart l => exact execSepPassStart_ok h l
  | sepPassEnd l complete done => exact execSepPassEnd_ok h l complete done
  | siFilteredChange ch => exact execSiFilteredChange_ok h ch
  | siDiscrepancy ch => exact execSiDiscrepancy_ok h ch
  | ackPulse ch => exact execAckPulse_ok h ch
  | standstillReached u => exact execStandstillReached_ok h u
  | stopTimeLimit u => exact execStopTimeLimit_ok h u
  | stoDelayExpired u => exact execStoDelayExpired_ok h u
  | brakeReleaseDelay u => exact execBrakeReleaseDelay_ok h u
  | localSs1Timeout k => exact execLocalSs1Timeout_ok h k
  | driveStoAckTimeout u => exact execDriveStoAckTimeout_ok h u
  | ptLightTestStart k => exact execPtLightTestStart_ok h k
  | ptDarkTestStart k => exact execPtDarkTestStart_ok h k
  | ptStepStart k => exact execPtStepStart_ok h k
  | ptStepEnd k => exact execPtStepEnd_ok h k
  | ptDue k => exact execPtDue_ok h k
  | ptIntervalExpired k => exact execPtIntervalExpired_ok h k
  | pkgCheckDone => exact execPkgCheckDone_ok h
  | packageApply => exact execPackageApply_ok h
  | imageVerifyDone l => exact execImageVerifyDone_ok h l
  | bootTimeout => exact execBootTimeout_ok h
  | selftestDone l => exact execSelftestDone_ok h l
  | selftestTimeout l => exact execSelftestTimeout_ok h l
  | supervisorPowerOn present => exact execSupervisorPowerOn_ok h present
  | converterStart l => exact execConverterStart_ok h l
  | converterRegulation l => exact execConverterRegulation_ok h l
  | converterStop l => exact execConverterStop_ok h l
  | convFault l => exact execConvFault_ok h l
  | deviceResetRelease => exact execDeviceResetRelease_ok h
  | laneResetRelease l => exact execLaneResetRelease_ok h l
  | supplyWarn l => exact execSupplyWarn_ok h l
  | supplyOk l => exact execSupplyOk_ok h l
  | supplyReset l => exact execSupplyReset_ok h l
  | supplyResetRelease l => exact execSupplyResetRelease_ok h l
  | resetNAssert => exact execResetNAssert_ok h
  | trstNAssert => exact execTrstNAssert_ok h
  | clkFault k input => exact execClkFault_ok h k input
  | clkOk k => exact execClkOk_ok h k
  | tempWarn t => exact execTempWarn_ok h t
  | tempLimit t => exact execTempLimit_ok h t
  | supervisorMeasurement m => exact execSupervisorMeasurement_ok h m
  | clrLog m => exact execClrLog_ok h m
  | challenge => exact execChallenge_ok h
  | response sc value late => exact execResponse_ok h sc value late
  | idcode => exact execIdcode_ok h
  | bypass => exact execBypass_ok h
  | fbEdge k a b z stamp => exact execFbEdge_ok h k a b z stamp
  | fbObserverStep k ch => exact execFbObserverStep_ok h k ch
  | ssiTransferDone k idleHigh w1 sep w2 => exact execSsiTransferDone_ok h k idleHigh w1 sep w2
  | bissCycleDone k start delayNs pos nE nW crc => exact execBissCycleDone_ok h k start delayNs pos nE nW crc
  | fbClr m k => exact execFbClr_ok h m k
  | fbPreset m k => exact execFbPreset_ok h m k
  | stepPulse k => exact execStepPulse_ok h k
  | stepStandby k => exact execStepStandby_ok h k
  | stpRunSet m k v => exact execStpRunSet_ok h m k v
  | rearm m k => exact execRearm_ok h m k
  | repOutput k => exact execRepOutput_ok h k
  | adcRefReady => exact execAdcRefReady_ok h
  | monitorRound s0 s1 => exact execMonitorRound_ok h s0 s1
  | adcSeqGo m => exact execAdcSeqGo_ok h m
  | adcSeqTrigger => exact execAdcSeqTrigger_ok h
  | adcSeqEnable m v => exact execAdcSeqEnable_ok h m v
  | adcEntryEnd v samples => exact execAdcEntryEnd_ok h v samples
  | adcSeqEnd => exact execAdcSeqEnd_ok h
  | adcUaSumRead m u => exact execAdcUaSumRead_ok h m u
  | adcUaClr m u => exact execAdcUaClr_ok h m u
  | smyRunStart n => exact execSmyRunStart_ok h n
  | smyStart m n => exact execSmyStart_ok h m n
  | smyHaltReq m n => exact execSmyHaltReq_ok h m n
  | smyBudgetExceeded n => exact execSmyBudgetExceeded_ok h n
  | smyPortAccess m n data write => exact execSmyPortAccess_ok h m n data write
  | nop n => exact execNop_ok h n
  | mac n sb a xa ya => exact execMac_ok h n sb a xa ya
  | msu n sb a xa ya => exact execMsu_ok h n sb a xa ya
  | mpy n sb a xa ya => exact execMpy_ok h n sb a xa ya
  | macd n sb a xa dm => exact execMacd_ok h n sb a xa dm
  | lda n a ms ad => exact execLda_ok h n a ms ad
  | ada n sb a ms ad => exact execAda_ok h n sb a ms ad
  | sta n sb a ms rnd ad => exact execSta_ok h n sb a ms rnd ad
  | ldd n dd ms ad => exact execLdd_ok h n dd ms ad
  | std n dd ms ad => exact execStd_ok h n dd ms ad
  | ldi n dd imm => exact execLdi_ok h n dd imm
  | sha n sb a sh => exact execSha_ok h n sb a sh
  | mvad n sb a dd rnd => exact execMvad_ok h n sb a dd rnd
  | adda n sb a sub => exact execAdda_ok h n sb a sub
  | clra n a => exact execClra_ok h n a
  | mvs n dd sel => exact execMvs_ok h n dd sel
  | srch n ms ad => exact execSrch_ok h n ms ad
  | srcl n => exact execSrcl_ok h n
  | rep n r => exact execRep_ok h n r
  | jmp n addr => exact execJmp_ok h n addr
  | br n a cond addr => exact execBr_ok h n a cond addr
  | djnz n dd addr => exact execDjnz_ok h n dd addr
  | ldp n tgt imm => exact execLdp_ok h n tgt imm
  | smyIn n a clr port => exact execIn_ok h n a clr port
  | smyOut n sb a src dd k => exact execOut_ok h n sb a src dd k
  | trig n t => exact execTrig_ok h n t
  | sig n imm => exact execSig_ok h n imm
  | halt n => exact execHalt_ok h n
  | illegalInstruction n => exact execIllegalInstruction_ok h n
  | take c => exact execTake_ok h c
  | done c success result => exact execDone_ok h c success result
  | yield c => exact execYield_ok h c
  | wait c timeout => exact execWait_ok h c timeout
  | sleep c arg => exact execSleep_ok h c arg
  | signal c t => exact execSignal_ok h c t
  | enqueue src q ch => exact execEnqueue_ok h src q ch
  | rveCancel c ch => exact execRveCancel_ok h c ch
  | create c t thread prio affinity flow => exact execCreate_ok h c t thread prio affinity flow
  | delete c t => exact execDelete_ok h c t
  | slotPrefetch => exact execSlotPrefetch_ok h
  | flowRelease f => exact execFlowRelease_ok h f
  | delayExpiry => exact execDelayExpiry_ok h
  | rveOverlong c => exact execRveOverlong_ok h c
  | doorbellPoll block => exact execDoorbellPoll_ok h block
  | submissionFetch entry => exact execSubmissionFetch_ok h entry
  | moveJ a => exact execMoveJ_ok h a
  | moveL a => exact execMoveL_ok h a
  | moveC a => exact execMoveC_ok h a
  | moveP a => exact execMoveP_ok h a
  | gearIn a => exact execGearIn_ok h a
  | gearOut a => exact execGearOut_ok h a
  | camIn a => exact execCamIn_ok h a
  | camOut a => exact execCamOut_ok h a
  | zoneRelease a => exact execZoneRelease_ok h a
  | override sq rsn => exact execOverride_ok h sq rsn
  | stopAndFlush sq rsn => exact execStopAndFlush_ok h sq rsn
  | feedHold sq rsn => exact execFeedHold_ok h sq rsn
  | resume sq rsn => exact execResume_ok h sq rsn
  | loadTable sq rsn bytes => exact execLoadTable_ok h sq rsn bytes
  | queryArm sq rsn => exact execQueryArm_ok h sq rsn
  | plannerCommit => exact execPlannerCommit_ok h
  | zoneGrant a => exact execZoneGrant_ok h a
  | zoneTimeout a => exact execZoneTimeout_ok h a
  | syncStart tag => exact execSyncStart_ok h tag
  | atFrameStart a => exact execAtFrameStart_ok h a
  | commandEndFrame a => exact execCommandEndFrame_ok h a
  | speedCap a => exact execSpeedCap_ok h a
  | safetyStopDecision a => exact execSafetyStopDecision_ok h a
  | cancel sq rsn => exact execCancel_ok h sq rsn
  | getStatus sq rsn => exact execGetStatus_ok h sq rsn
  | getTopology sq rsn => exact execGetTopology_ok h sq rsn
  | readLog sq rsn => exact execReadLog_ok h sq rsn
  | motionEnable sq rsn => exact execMotionEnable_ok h sq rsn
  | unitEnable sq rsn => exact execUnitEnable_ok h sq rsn
  | brakeTest sq rsn => exact execBrakeTest_ok h sq rsn
  | fwDownload sq rsn image crcOk => exact execFwDownload_ok h sq rsn image crcOk
  | fwActivate sq rsn => exact execFwActivate_ok h sq rsn
  | pkgDownload sq rsn p crcOk => exact execPkgDownload_ok h sq rsn p crcOk
  | deviceReset sq rsn => exact execDeviceReset_ok h sq rsn
  | deviceResetExecute => exact execDeviceResetExecute_ok h
  | sqEnable m q en seqReset => exact execSqEnable_ok h m q en seqReset
  | cqEnable m q en => exact execCqEnable_ok h m q en
  | evqEnable m en => exact execEvqEnable_ok h m en
  | eventCopy => exact execEventCopy_ok h
  | msixHint unmasked => exact execMsixHint_ok h unmasked
  | hstLinkDown => exact execHstLinkDown_ok h
  | hstLinkUp => exact execHstLinkUp_ok h
  | groupCycleStart l => exact execGroupCycleStart_ok h l
  | memberFrameSend l => exact execMemberFrameSend_ok h l
  | stewardFrameReceived f => exact execStewardFrameReceived_ok h f
  | memberFrameReceived f => exact execMemberFrameReceived_ok h f
  | groupCommandFrame f => exact execGroupCommandFrame_ok h f
  | groupCompletionFrame f => exact execGroupCompletionFrame_ok h f
  | stewardElection l => exact execStewardElection_ok h l
  | grpMemberLost l m => exact execGrpMemberLost_ok h l m
  | grpStewardLost l => exact execGrpStewardLost_ok h l
  | grpFrameAlign l => exact execGrpFrameAlign_ok h l
  | grpQuarantineEnd l => exact execGrpQuarantineEnd_ok h l
  | grpRejoin m => exact execGrpRejoin_ok h m
  | supervisorPowerLoss => exact execSupervisorPowerLoss_ok h
  | rcFault => exact execRcFault_ok h
  | debugExit l => exact execDebugExit_ok h l
  | ptpDelayReqTransmit port => exact execPtpDelayReqTransmit_ok h port
  | maintenancePacketReceived port q ch => exact execMaintenancePacketReceived_ok h port q ch
  | fwActivateVerified => exact execFwActivateVerified_ok h
  | fwDownloadWritten flashFault => exact execFwDownloadWritten_ok h flashFault

theorem Dev.clock_watch (d : Dev) : d.clock.watch = d.watch := by
  rw [d.clock_eq]
  rfl

/-- Settles O4: STATE is written by `setLaneMode` alone, which drives the outputs of a lane it takes out of service to their safe state;
gates and SAFE_OK are driven to another level only for a lane in service. A field that a write reaches, at once or at a tick, is never
STATE, which is what the rule keeps of the Live writes that wait. -/
theorem lanesOutsideServiceStaySafe : Obligations.LanesOutsideServiceStaySafe := by
  unfold Obligations.LanesOutsideServiceStaySafe
  intro s t h hstep
  cases hp : s.pending with
  | nil =>
    rw [step_idle hp] at hstep
    cases hstep
    refine (Dev.safeOutside_iff _).mpr ?_
    rwa [Dev.clock_watch]
  | cons c rest =>
    rw [step_front hp] at hstep
    exact exec_ok (s := { s with pending := rest }) h c t hstep

end Sys2Proof.Machine
end

section
/-!
SUPPORT. What a fault of a lane leaves of it, and the fault latch (R74, R79).
-/
namespace Sys2Proof.Machine
open RegField

/-- What neither a fault of a lane nor a review of the lanes touches of a lane: its latch, its arbitration, the pairs it has sampled and
whether its fault is still unseen. -/
def LaneState.standing (x : LaneState) : Bool × ArbState × PerLane (BitVec 2) × Bool := (x.latch, x.arb, x.pairs, x.unseen)

theorem LaneState.standing_eq {x y : LaneState} (h : x.standing = y.standing) :
    x.latch = y.latch ∧ x.arb = y.arb ∧ x.pairs = y.pairs ∧ x.unseen = y.unseen := by
  simpa [standing] using h

theorem Dev.each_induct {α : Type} {P : Dev → Prop} {f : Dev → α → Dev} {xs : List α} (hf : ∀ b, ∀ x ∈ xs, P b → P (f b x)) {d : Dev}
    (h : P d) :
    P (d.each xs f) := by
  induction xs generalizing d with
  | nil => exact h
  | cons x xs ih => exact ih (fun b y hy => hf b y (.tail _ hy)) (hf d x (.head _) h)

/-- What one element brings about, and no element undoes, holds after a pass over a list with that element. -/
theorem Dev.each_reaches {α : Type} {P : Dev → Prop} {f : Dev → α → Dev} {x : α} {xs : List α} (hx : ∀ b, P (f b x))
    (hk : ∀ b y, P b → P (f b y)) (h : x ∈ xs) (d : Dev) : P (d.each xs f) := by
  induction xs generalizing d with
  | nil => cases h
  | cons y ys ih =>
    rcases List.mem_cons.mp h with rfl | h
    · exact Dev.each_induct (P := P) (d := f d x) (fun b z _ => hk b z) (hx d)
    · exact ih h _

theorem laneMode_congr {d e : Dev} {l : Lane} (h : e.rd LN_STATUS_STATE l.idx = d.rd LN_STATUS_STATE l.idx) :
    laneMode e l = laneMode d l := by
  unfold laneMode
  rw [h]

/-- Less shown is kept with more. -/
theorem LanesKeep.weaken {α β : Type} {p : LaneState → α} {q : LaneState → β} {a b : Dev} (h : LanesKeep p a b)
    (hq : ∀ {x y}, p x = p y → q x = q y) : LanesKeep q a b := ⟨fun k => hq (h.keep k)⟩

section Standing
variable (d : Dev) (l : Lane)

theorem setGates_standing (mask : Nat) : LanesKeep LaneState.standing d (setGates d l mask) := ⟨fun k => by
  rw [setGates_laneOf]
  split <;> [(subst k; rfl); rfl]⟩

theorem setSafeOk_standing (high : Bool) : LanesKeep LaneState.standing d (setSafeOk d l high) := ⟨fun k => by
  rw [setSafeOk_laneOf]
  split <;> [(subst k; rfl); rfl]⟩

theorem setLaneMode_standing (m : LaneMode) : LanesKeep LaneState.standing d (setLaneMode d l m) := ⟨fun k => by
  rw [setLaneMode_laneOf]
  split
  · subst k; split <;> rfl
  · rfl⟩

theorem enterResync_standing (image : Bool) : LanesKeep LaneState.standing d (enterResync d l image) := by
  unfold enterResync
  extract_lets d1
  have h1 : LanesKeep LaneState.standing d d1 := (LanesKeep.refl _ d).onLane l _ fun _ => rfl
  exact h1.trans (setLaneMode_standing ..)

theorem deEnergise_standing : LanesKeep LaneState.standing d (deEnergise d) := by
  have hoff (b : Dev) (k : Lane) : LanesKeep LaneState.standing b (setSafeOk (setGates b k 0) k false) :=
    (setGates_standing b k 0).trans (setSafeOk_standing ..)
  have hsaf (b : Dev) (k : Lane) (f : SafState → SafState) : LanesKeep LaneState.standing b (onSaf b k f) :=
    (LanesKeep.refl _ b).onLane k _ fun _ => rfl
  unfold deEnergise
  extract_lets d1 d2 d3 d4
  have h2 : LanesKeep LaneState.standing d d2 := .each (fun b k => hsaf b k _) (.each hoff (.refl _ d))
  have h4 : LanesKeep LaneState.standing d d4 :=
    .each (fun b k => (LanesKeep.refl _ b).wr _ _ _)
      (.each (fun b u => (((((LanesKeep.refl _ b).wr _ _ _).wr _ _ _).wr _ _ _).wr _ _ _).wr _ _ _) h2)
  split
  · exact h4
  · exact h4
  · exact (h4.wr _ _ _).trans (.each (fun b k => hsaf b k _) (.refl _ _))

theorem stopTransfers_standing : LanesKeep LaneState.standing d (stopTransfers d) :=
  .each (fun b k => enterResync_standing b k true) (.refl _ d)

theorem reviewLanes_standing : LanesKeep LaneState.standing d (reviewLanes d) := by
  unfold reviewLanes
  dsimp only
  split
  · exact .refl _ d
  · exact .refl _ d
  · split
    · exact (deEnergise_standing d).trans (stopTransfers_standing _)
    · split
      · exact (LanesKeep.refl _ d).wr _ _ _
      · exact .refl _ d

theorem laneFaultOwn_standing (m : LaneMode) (e : Ev) (again : Bool) : LanesKeep LaneState.standing d (laneFaultOwn d l m e again) := by
  have h1 : LanesKeep LaneState.standing d (onLane (setLaneMode d l m) l fun x => { x with outCause := e.code, leaveAtTick := false }) :=
    (setLaneMode_standing d l m).onLane l _ fun _ => rfl
  have h2 := h1.of_sameBut (countFault_sameBut _ .lane l.idx e again) (by simp)
  unfold laneFaultOwn
  exact h2.trans ⟨fun k => by
    rw [lanePenalty_laneOf]
    split <;> [(subst k; rfl); rfl]⟩

end Standing

/-! The outputs of a lane that has them off stay off. -/

section Off
variable {d : Dev} {l : Lane}

theorem setLaneMode_safe_of_safe (k : Lane) {m : LaneMode} (hm : m ≠ .inService) (h : (laneOf d l).safe) :
    (laneOf (setLaneMode d k m) l).safe := by
  rw [setLaneMode_laneOf]
  split
  · simp [LaneState.safe]
  · exact h

theorem enterResync_safe_of_safe (k : Lane) (image : Bool) (h : (laneOf d l).safe) : (laneOf (enterResync d k image) l).safe := by
  unfold enterResync
  extract_lets d1
  have h1 : LanesKeep LaneState.safe d d1 := (LanesKeep.refl _ d).onLane k _ fun _ => rfl
  exact setLaneMode_safe_of_safe k (by simp) ((h1.keep l).mpr h)

theorem stopTransfers_safe_of_safe (h : (laneOf d l).safe) : (laneOf (stopTransfers d) l).safe :=
  Dev.each_induct (P := fun b => (laneOf b l).safe) (fun _ k _ hb => enterResync_safe_of_safe k true hb) h

/-- The safe state of the whole device: every lane's outputs are off (R135). -/
theorem deEnergise_safe (d : Dev) (l : Lane) : (laneOf (deEnergise d) l).safe := by
  have hsaf (b : Dev) (k : Lane) (f : SafState → SafState) : LanesKeep LaneState.safe b (onSaf b k f) :=
    (LanesKeep.refl _ b).onLane k _ fun _ => rfl
  unfold deEnergise
  extract_lets d1 d2 d3 d4
  have h1 : (laneOf d1 l).safe := by
    cases l <;> simp [d1, Lane.all, Dev.each, LaneState.safe]
  have h4 : LanesKeep LaneState.safe d1 d4 :=
    .each (fun b k => (LanesKeep.refl _ b).wr _ _ _)
      (.each (fun b u => (((((LanesKeep.refl _ b).wr _ _ _).wr _ _ _).wr _ _ _).wr _ _ _).wr _ _ _)
          (.each (fun b k => hsaf b k _) (.refl _ _)))
  have h5 : LanesKeep LaneState.safe d1 (withdrawEnables (d4.setMode .safeState)) :=
    LanesKeep.trans (h4.wr _ _ _) (.each (fun b k => hsaf b k _) (.refl _ _))
  have hsafe {e : Dev} (he : LanesKeep LaneState.safe d1 e) : (laneOf e l).safe := (he.keep l).mpr h1
  split
  · exact hsafe h4
  · exact hsafe h4
  · exact hsafe h5

theorem reviewLanes_safe_of_safe (h : (laneOf d l).safe) : (laneOf (reviewLanes d) l).safe := by
  unfold reviewLanes
  dsimp only
  split
  · exact h
  · exact h
  · split
    · exact stopTransfers_safe_of_safe (deEnergise_safe d l)
    · split <;> exact h

/-- A review changes the state of no lane but one whose transfer it stops. -/
theorem reviewLanes_state (hr : laneMode d l ≠ .reload) (hs : laneMode d l ≠ .resync) :
    (reviewLanes d).rd LN_STATUS_STATE l.idx = d.rd LN_STATUS_STATE l.idx := by
  have hde : (deEnergise d).rd LN_STATUS_STATE l.idx = d.rd LN_STATUS_STATE l.idx := (deEnergise_sameBut d).rd_eq _ _ (by simp) (by simp)
  have hresync (b : Dev) {k : Lane} (hk : l ≠ k) : (enterResync b k true).rd LN_STATUS_STATE l.idx = b.rd LN_STATUS_STATE l.idx := by
    simp [enterResync, Lane.idx_inj, hk]
  have hm : laneMode (deEnergise d) l = laneMode d l := laneMode_congr hde
  unfold reviewLanes
  dsimp only
  split
  · rfl
  · rfl
  · split
    · refine Dev.each_induct (P := fun b => b.rd LN_STATUS_STATE l.idx = d.rd LN_STATUS_STATE l.idx) (fun b k hk hb => ?_) hde
      refine (hresync b fun hkl => ?_).trans hb
      subst hkl
      simp [hm, hr, hs] at hk
    · split <;> simp

end Off

/-- A lane that faults, and is to stop or to start anew, ends in the state of the fault with its outputs off; a lane in DEBUG stays in
    it. -/
theorem laneFault_lane (d : Dev) (l : Lane) {m : LaneMode} (e : Ev) (later : Bool) (hm : m = .faulted ∨ m = .absent ∨ m = .debug) :
    laneMode (laneFault d l m e later) l = (if laneMode d l = .debug ∧ m ≠ .absent then .debug else m) ∧
      (laneOf (laneFault d l m e later) l).safe := by
  have hown (n : LaneMode) (hn : n = .faulted ∨ n = .absent ∨ n = .debug) (again : Bool) :
      laneMode (laneFaultOwn d l n e again) l = n ∧ (laneOf (laneFaultOwn d l n e again) l).safe :=
    ⟨laneMode_eq (laneMode_laneFaultOwn ..), (laneFaultOwn_laneOf d l e again (by rcases hn with rfl | rfl | rfl <;> simp)).2⟩
  unfold laneFault
  extract_lets was n d1 d2
  have hn : n = .faulted ∨ n = .absent ∨ n = .debug := by unfold n; split <;> simp [hm]
  obtain ⟨hmode, hsafe⟩ : laneMode d2 l = n ∧ (laneOf d2 l).safe := hown n hn was
  split
  · exact ⟨hmode, hsafe⟩
  · split
    · exact ⟨hmode, by simpa [LaneState.safe] using hsafe⟩
    · have hstate : (reviewLanes d2).rd LN_STATUS_STATE l.idx = d2.rd LN_STATUS_STATE l.idx := by
        apply reviewLanes_state <;> rw [hmode] <;> rcases hn with hn | hn | hn <;> simp [hn]
      exact ⟨(laneMode_congr hstate).trans hmode, reviewLanes_safe_of_safe hsafe⟩

/-- A fault leaves every lane's latch and arbitration; a fault that the others see at once also leaves what is still unseen. -/
theorem laneFault_standing (d : Dev) (l : Lane) (m : LaneMode) (e : Ev) : LanesKeep LaneState.standing d (laneFault d l m e) := by
  have hown (n : LaneMode) (again : Bool) := laneFaultOwn_standing d l n e again
  unfold laneFault
  extract_lets was n d1 d2
  split
  · exact hown n was
  · rw [if_neg (by simp)]
    exact (hown n was).trans (reviewLanes_standing d2)

theorem laneFault_latch (d : Dev) (l : Lane) (m : LaneMode) (e : Ev) (later : Bool) :
    LanesKeep LaneState.latch d (laneFault d l m e later) := by
  have hkeep {a b : Dev} (h : LanesKeep LaneState.standing a b) : LanesKeep LaneState.latch a b :=
    h.weaken fun h => (LaneState.standing_eq h).1
  have hown (n : LaneMode) (again : Bool) := hkeep (laneFaultOwn_standing d l n e again)
  unfold laneFault
  extract_lets was n d1 d2
  split
  · exact hown n was
  · split
    · exact LanesKeep.onLane (hown n was) l _ fun _ => rfl
    · exact LanesKeep.trans (hown n was) (hkeep (reviewLanes_standing d2))

/-! The fault latch (R79). -/

/-- The fault latch of a lane sets: the cause is logged, and the lane is FAULTED with its outputs off, or stays in DEBUG. -/
theorem setLatch_lane {d : Dev} {l : Lane} (e : Ev) {index detail : Nat} (hl : (laneOf d l).latch = false)
    (hu : d.rd PWR_STATUS_SHARED_UP ≠ 0)
    (hi : index < 2 ^ 16) (hx : detail < 2 ^ 80) :
    (laneOf (setLatch d l e index detail) l).latch = true ∧ (laneOf (setLatch d l e index detail) l).safe ∧
      (setLatch d l e index detail).rd LN_STATUS_FAULT_LATCH l.idx = 1 ∧
      laneMode (setLatch d l e index detail) l = (if laneMode d l = .debug then .debug else .faulted) ∧
      (setLatch d l e index detail).logged e (srcLane l) index detail ∧
      SameBut d (setLatch d l e index detail) laneFaultFields ((LN_STATUS_FAULT_LATCH, l.idx) :: recordRegs (srcLane l))
        [.lanes, .fault, .log] := by
  unfold setLatch
  rw [if_neg (by simp [hl])]
  extract_lets undo d1 d2
  have h1 : SameBut d d1 [] [(LN_STATUS_FAULT_LATCH, l.idx)] [.lanes] := ((SameBut.refl d _ _ _).onLane l _ (by simp)).wr _ _ _ (by simp)
  have h2 : SameBut d1 d2 [] (recordRegs (srcLane l)) [.log] := d1.event_sameBut ..
  have h3 := laneFault_sameBut d2 l .faulted e true
  have hm : laneMode d2 l = laneMode d l := (h2.laneMode_eq l (by simp) (by simp)).trans (h1.laneMode_eq l (by simp) (by simp))
  obtain ⟨hmode, hsafe⟩ := laneFault_lane d2 l e true (m := .faulted) (.inl rfl)
  refine ⟨?_, hsafe, ?_, ?_, ?_, ?_⟩
  · rw [(laneFault_latch d2 l .faulted e true).keep l, h2.laneOf_eq (by simp)]
    simp [d1]
  · rw [h3.rd_eq _ _ (by simp) (by simp), h2.rd_eq _ _ (by simp) (by simp)]
    simp [d1]
  · simpa [hm] using hmode
  · unfold Dev.logged
    rw [show (laneFault d2 l .faulted e true).log = d2.log from h3.rest .log (by simp)]
    exact d1.record_logged e _ _ _ (by rwa [h1.rd_eq _ _ (by simp) (by simp)]) hi hx
  · refine ((h1.mono ?_ ?_ ?_).next h2 ?_ ?_ ?_).next h3 ?_ ?_ ?_ <;> simp +contextual

theorem setLatch_latched {d : Dev} {l : Lane} (e : Ev) (index detail : Nat) (hl : (laneOf d l).latch = true) :
    setLatch d l e index detail = d := if_pos hl

end Sys2Proof.Machine
end

section
/-!
SUPPORT. The causes of the fault latch, clause by clause, and O9.
-/
namespace Sys2Proof.Machine
open RegField

/-! The commands of the fault latch's causes. -/

theorem exec_lockstepMismatch (l : Lane) (s : State) : exec (.lockstepMismatch l) s = execLockstepMismatch l s := rfl
theorem exec_memUe (l : Lane) (s : State) : exec (.memUe l) s = execMemUe l s := rfl
theorem exec_memoryScrub (l : Lane) (n : Nat) (bad : Bool) (s : State) : exec (.memoryScrub l n bad) s = execMemoryScrub l n bad s := rfl
theorem exec_cmpTest (l : Lane) (ok : Bool) (s : State) : exec (.cmpTest l ok) s = execCmpTest l ok s := rfl

/-- What a latch leaves of the registers: every field that neither the latch, nor a fault, nor an event record writes. -/
theorem setLatch_rd {d : Dev} {l : Lane} (e : Ev) {index detail : Nat} (f : RegField) (i : Nat) (hl : (laneOf d l).latch = false)
    (hu : d.rd PWR_STATUS_SHARED_UP ≠ 0) (hi : index < 2 ^ 16) (hx : detail < 2 ^ 80)
    (hf : f ∉ laneFaultFields ++ (LN_STATUS_FAULT_LATCH :: recordFields)) : (setLatch d l e index detail).rd f i = d.rd f i := by
  obtain ⟨-, -, -, -, -, hsame⟩ := setLatch_lane e hl hu hi hx
  refine hsame.rd_eq f i (fun h => hf (List.mem_append_left _ h)) fun h => hf (List.mem_append_right _ ?_)
  rcases List.mem_cons.mp h with h | h
  · simp [(Prod.mk.inj h).1]
  · exact .tail _ (mem_recordFields h)

theorem laneMode_wr (d : Dev) (f : RegField) (i v : Nat) (l : Lane) (hf : f ≠ LN_STATUS_STATE) : laneMode (d.wr f i v) l = laneMode d l :=
  laneMode_congr (by simp [hf.symm])

/-- STATE holds the code of the state in force, but for DEBUG, which reads as any other code. -/
theorem laneMode_code {d : Dev} {l : Lane} {m : LaneMode} (h : laneMode d l = m) (hm : m ≠ .debug) :
    d.rd LN_STATUS_STATE l.idx = laneCode m := by
  subst h
  unfold laneMode at hm ⊢
  split <;> simp_all [laneCode]

/-- A lane outside DEBUG whose latch sets is latched out, and the cause is the newest record (R79). -/
theorem setLatch_latchedOut {d : Dev} {l : Lane} (e : Ev) {index detail : Nat} (hd : laneMode d l ≠ .debug)
    (hl : (laneOf d l).latch = false)
    (hu : d.rd PWR_STATUS_SHARED_UP ≠ 0) (hi : index < 2 ^ 16) (hx : detail < 2 ^ 80) :
    (setLatch d l e index detail).latchedOut l ∧ (setLatch d l e index detail).logged e (srcLane l) index detail := by
  obtain ⟨hlatch, hsafe, hshown, hmode, hlog, -⟩ := setLatch_lane e hl hu hi hx
  exact ⟨⟨hlatch, hsafe, hshown, laneMode_code (hmode.trans (if_neg hd)) (by simp)⟩, hlog⟩

/-- A cause of the fault latch sets its flag `f`, and the lane latches: the cause is the newest record (R79). -/
theorem flag_setLatch {d : Dev} {l : Lane} (f : RegField) (e : Ev) {index : Nat} (hl : (laneOf d l).latch = false)
    (hu : d.rd PWR_STATUS_SHARED_UP ≠ 0) (hi : index < 2 ^ 16) (hw : f.width = 1)
    (hf : f ∉ PWR_STATUS_SHARED_UP :: (laneFaultFields ++ (LN_STATUS_FAULT_LATCH :: recordFields))) :
    (setLatch (d.flag f l.idx) l e index).rd f l.idx = 1 ∧
      ((laneOf (setLatch (d.flag f l.idx) l e index) l).latch = true ∧ (laneOf (setLatch (d.flag f l.idx) l e index) l).safe ∧
        (setLatch (d.flag f l.idx) l e index).rd LN_STATUS_FAULT_LATCH l.idx = 1 ∧
        laneMode (setLatch (d.flag f l.idx) l e index) l = (if laneMode d l = .debug then .debug else .faulted)) ∧
      (setLatch (d.flag f l.idx) l e index).logged e (srcLane l) index := by
  have hne : f ≠ PWR_STATUS_SHARED_UP := fun h => hf (h ▸ .head _)
  have hst : f ≠ LN_STATUS_STATE := fun h => hf (h ▸ .tail _ (List.mem_append_left _ (by simp)))
  have hu' : (d.flag f l.idx).rd PWR_STATUS_SHARED_UP ≠ 0 := by simpa [hne.symm] using hu
  obtain ⟨hlatch, hsafe, hshown, hmode, hlog, -⟩ := setLatch_lane (d := d.flag f l.idx) e (detail := 0) hl hu' hi (by decide)
  refine ⟨?_, ⟨hlatch, hsafe, hshown, ?_⟩, hlog⟩
  · rw [setLatch_rd (d := d.flag f l.idx) (detail := 0) e f _ hl hu' hi (by decide) fun h => hf (.tail _ h)]
    simp [hw]
  · rwa [show laneMode (d.flag f l.idx) l = laneMode d l from laneMode_wr _ _ _ _ _ hst] at hmode

/-- Outside DEBUG the lane is latched out. -/
theorem flag_setLatch_out {d : Dev} {l : Lane} (f : RegField) (e : Ev) {index : Nat} (hd : laneMode d l ≠ .debug)
    (hl : (laneOf d l).latch = false) (hu : d.rd PWR_STATUS_SHARED_UP ≠ 0) (hi : index < 2 ^ 16) (hw : f.width = 1)
    (hf : f ∉ PWR_STATUS_SHARED_UP :: (laneFaultFields ++ (LN_STATUS_FAULT_LATCH :: recordFields))) :
    (setLatch (d.flag f l.idx) l e index).rd f l.idx = 1 ∧ (setLatch (d.flag f l.idx) l e index).latchedOut l ∧
      (setLatch (d.flag f l.idx) l e index).logged e (srcLane l) index := by
  obtain ⟨hflag, ⟨hlatch, hsafe, hshown, hmode⟩, hlog⟩ := flag_setLatch f e hl hu hi hw hf
  exact ⟨hflag, ⟨hlatch, hsafe, hshown, laneMode_code (hmode.trans (if_neg hd)) (by simp)⟩, hlog⟩

section Causes
variable {s : State} {l : Lane} {n : Nat}

theorem lockstepMismatch_latches (ha : laneMode s.dev l ≠ .absent) (hd : laneMode s.dev l ≠ .debug) (hl : (laneOf s.dev l).latch = false)
    (hu : s.dev.rd PWR_STATUS_SHARED_UP ≠ 0) :
    Answers (.lockstepMismatch l) s fun e => e.rd LN_STATUS_LOCKSTEP_MISMATCH l.idx = 1 ∧ e.latchedOut l ∧
      e.logged .LOCKSTEP_MISMATCH (srcLane l) :=
  .of_result (e := setLatch (s.dev.cleared.flag LN_STATUS_LOCKSTEP_MISMATCH l.idx) l .LOCKSTEP_MISMATCH) (exec_lockstepMismatch l s)
    (by split <;> simp_all) (flag_setLatch_out _ _ hd hl hu (by decide) rfl (by simp))

theorem lockstepMismatch_latched (ha : laneMode s.dev l ≠ .absent) (hd : laneMode s.dev l ≠ .debug) (hl : (laneOf s.dev l).latch = true) :
    Completes (.lockstepMismatch l) s [(LN_STATUS_LOCKSTEP_MISMATCH, l.idx)] [] fun e => e.rd LN_STATUS_LOCKSTEP_MISMATCH l.idx = 1 := by
  refine .of_result (e := s.dev.cleared.flag LN_STATUS_LOCKSTEP_MISMATCH l.idx) (exec_lockstepMismatch l s) ?_
    ((SameBut.refl _ _ _ _).wr _ _ _ (by simp)) (by simp)
  split
  · simp_all
  · simp_all
  · exact setLatch_latched _ _ _ hl

theorem lockstepMismatch_out (h : laneMode s.dev l = .absent ∨ laneMode s.dev l = .debug) :
    Completes (.lockstepMismatch l) s [] [] fun e => e.out = [] :=
  .of_unchanged (exec_lockstepMismatch l s) (by split <;> simp_all)

theorem memUe_latches (ha : laneMode s.dev l ≠ .absent) (hd : laneMode s.dev l ≠ .debug) (hl : (laneOf s.dev l).latch = false)
    (hu : s.dev.rd PWR_STATUS_SHARED_UP ≠ 0) :
    Answers (.memUe l) s fun e => e.rd LN_STATUS_MEM_UE l.idx = 1 ∧ e.latchedOut l ∧ e.logged .MEM_UE (srcLane l) :=
  .of_result (e := setLatch (s.dev.cleared.flag LN_STATUS_MEM_UE l.idx) l .MEM_UE) (exec_memUe l s) (by split <;> simp_all)
    (flag_setLatch_out _ _ hd hl hu (by decide) rfl (by simp))

theorem memUe_inDebug (hd : laneMode s.dev l = .debug) (hl : (laneOf s.dev l).latch = false) (hu : s.dev.rd PWR_STATUS_SHARED_UP ≠ 0) :
    Answers (.memUe l) s fun e => e.rd LN_STATUS_MEM_UE l.idx = 1 ∧ (laneOf e l).latch = true ∧ (e.lanes.get l).safe ∧
      laneMode e l = .debug ∧ e.logged .MEM_UE (srcLane l) := by
  obtain ⟨hflag, ⟨hlatch, hsafe, -, hmode⟩, hlog⟩ :=
    flag_setLatch (d := s.dev.cleared) (index := 0) LN_STATUS_MEM_UE .MEM_UE hl hu (by decide) rfl (by simp)
  exact .of_result (e := setLatch (s.dev.cleared.flag LN_STATUS_MEM_UE l.idx) l .MEM_UE) (exec_memUe l s) (by split <;> simp_all)
    ⟨hflag, hlatch, hsafe, hmode.trans (if_pos hd), hlog⟩

/-- A scrub pass that corrected `n` words, counted. -/
def scrubbed (d : Dev) (l : Lane) (n : Nat) : Dev := (d.incBy LN_MEM_CE_CNT l.idx n).incWrap LN_MEM_SCRUB_PASS l.idx

theorem scrubbed_sameBut (d : Dev) (l : Lane) (n : Nat) :
    SameBut d (scrubbed d l n) [] [(LN_MEM_CE_CNT, l.idx), (LN_MEM_SCRUB_PASS, l.idx)] [] :=
  ((SameBut.refl d _ _ _).wr _ _ _ (by simp)).wr _ _ _ (by simp)

theorem memoryScrub_clean (ha : laneMode s.dev l ≠ .absent) :
    Completes (.memoryScrub l n false) s [(LN_MEM_CE_CNT, l.idx), (LN_MEM_SCRUB_PASS, l.idx)] [] fun e =>
      e.rd LN_MEM_CE_CNT l.idx = min (s.dev.rd LN_MEM_CE_CNT l.idx + n) (2 ^ LN_MEM_CE_CNT.width - 1) % 2 ^ LN_MEM_CE_CNT.width ∧
        e.rd LN_MEM_SCRUB_PASS l.idx = (s.dev.rd LN_MEM_SCRUB_PASS l.idx + 1) % 2 ^ LN_MEM_SCRUB_PASS.width := by
  refine .of_result (e := scrubbed s.dev.cleared l n) (exec_memoryScrub l n false s) ?_ (scrubbed_sameBut ..) (by simp [scrubbed])
  split
  · simp_all
  · rfl

theorem memoryScrub_latches (ha : laneMode s.dev l ≠ .absent) (hd : laneMode s.dev l ≠ .debug) (hl : (laneOf s.dev l).latch = false)
    (hu : s.dev.rd PWR_STATUS_SHARED_UP ≠ 0) :
    Answers (.memoryScrub l n true) s fun e => e.rd LN_STATUS_MEM_UE l.idx = 1 ∧ e.latchedOut l ∧ e.logged .MEM_UE (srcLane l) := by
  have hs := scrubbed_sameBut s.dev.cleared l n
  have hm : laneMode (scrubbed s.dev.cleared l n) l = laneMode s.dev.cleared l := hs.laneMode_eq l (by simp) (by simp)
  refine .of_result (e := setLatch ((scrubbed s.dev.cleared l n).flag LN_STATUS_MEM_UE l.idx) l .MEM_UE) (exec_memoryScrub l n true s) ?_
    (flag_setLatch_out _ _ (by rwa [hm]) hl (by rwa [hs.rd_eq _ _ (by simp) (by simp)]) (by decide) rfl (by simp))
  split
  · simp_all
  · rfl

/-- What a comparator test in lane `l` does (R82): it counts a pass and goes on to the next group, or it fails. -/
def cmpTested (d : Dev) (l : Lane) (ok : Bool) : Dev :=
  if ok then ((d.reach 4000).inc LN_CMP_TEST_PASS_CNT l.idx).wr LN_CMP_TEST_NEXT_GROUP l.idx ((d.rd LN_CMP_TEST_NEXT_GROUP l.idx + 1) % 32)
  else cmpTestFail (d.reach 4000) l (d.rd LN_CMP_TEST_NEXT_GROUP l.idx)

/-- A failed test shows its flag and its group. -/
def failedGroup (d : Dev) (l : Lane) : Dev :=
  ((d.reach 4000).flag LN_STATUS_CMP_TEST_FAIL l.idx).wr LN_CMP_TEST_FAIL_GROUP l.idx (d.rd LN_CMP_TEST_NEXT_GROUP l.idx)

/-- The test is made in a lane whose state tests, in the lane's frame of the interval. -/
theorem cmpTest_due {ok : Bool} (ha : laneMode s.dev l ≠ .absent) (hd : laneMode s.dev l ≠ .debug)
    (hf : laneMode s.dev l ≠ .faulted) (ht : s.dev.tb.ticking = true) (hn : s.dev.frameNo % testInterval s.dev = testOffset s.dev l) :
    ∃ f, exec (.cmpTest l ok) s = s.run f ∧ f s.dev.cleared = cmpTested s.dev.cleared l ok := by
  refine ⟨_, exec_cmpTest l ok s, ?_⟩
  split
  · simp_all
  · simp_all
  · simp_all
  · exact if_pos ⟨ht, hn⟩

theorem cmpTest_passes (ha : laneMode s.dev l ≠ .absent) (hd : laneMode s.dev l ≠ .debug) (hf : laneMode s.dev l ≠ .faulted)
    (ht : s.dev.tb.ticking = true) (hn : s.dev.frameNo % testInterval s.dev = testOffset s.dev l) :
    Completes (.cmpTest l true) s [(LN_CMP_TEST_PASS_CNT, l.idx), (LN_CMP_TEST_NEXT_GROUP, l.idx)] [.tb] fun e =>
      e.rd LN_CMP_TEST_NEXT_GROUP l.idx = (s.dev.rd LN_CMP_TEST_NEXT_GROUP l.idx + 1) % 32 := by
  obtain ⟨f, hx, hr⟩ := cmpTest_due (ok := true) ha hd hf ht hn
  refine .of_result hx hr ((((SameBut.refl _ _ _ _).reach _ (by simp)).wr _ _ _ (by simp)).wr _ _ _ (by simp)) ?_
  simp [cmpTested]

theorem cmpTest_fails (ha : laneMode s.dev l ≠ .absent) (hd : laneMode s.dev l ≠ .debug) (hf : laneMode s.dev l ≠ .faulted)
    (ht : s.dev.tb.ticking = true) (hn : s.dev.frameNo % testInterval s.dev = testOffset s.dev l) (hl : (laneOf s.dev l).latch = false)
    (hg : s.dev.rd LN_CMP_TEST_NEXT_GROUP l.idx < 32) (hu : s.dev.rd PWR_STATUS_SHARED_UP ≠ 0) :
    Answers (.cmpTest l false) s fun e => e.rd LN_STATUS_CMP_TEST_FAIL l.idx = 1 ∧
      e.rd LN_CMP_TEST_FAIL_GROUP l.idx = s.dev.rd LN_CMP_TEST_NEXT_GROUP l.idx ∧ e.latchedOut l ∧
        e.logged .CMP_TEST_FAIL (srcLane l) (s.dev.rd LN_CMP_TEST_NEXT_GROUP l.idx) := by
  obtain ⟨f, hx, hr⟩ := cmpTest_due (ok := false) ha hd hf ht hn
  have hm : laneMode (failedGroup s.dev.cleared l) l = laneMode s.dev l := laneMode_congr (by simp [failedGroup])
  obtain ⟨hlatch, hlog⟩ := setLatch_latchedOut (d := failedGroup s.dev.cleared l) (detail := 0) .CMP_TEST_FAIL (hm ▸ hd) hl
    (by simpa [failedGroup] using hu) (Nat.lt_trans hg (by decide)) (by decide)
  have hkeep (g : RegField) (hf : g ∉ laneFaultFields ++ (LN_STATUS_FAULT_LATCH :: recordFields)) :
      (cmpTested s.dev.cleared l false).rd g l.idx = (failedGroup s.dev.cleared l).rd g l.idx :=
    setLatch_rd (d := failedGroup s.dev.cleared l) (detail := 0) _ g _ hl (by simpa [failedGroup] using hu) (Nat.lt_trans hg (by decide))
      (by decide) hf
  refine .of_result hx hr ⟨?_, ?_, hlatch, hlog⟩
  · rw [hkeep _ (by simp)]
    simp [failedGroup]
  · rw [hkeep _ (by simp)]
    simpa [failedGroup] using hg

theorem cmpTest_out {ok : Bool} (h : laneMode s.dev l = .absent ∨ laneMode s.dev l = .debug ∨ laneMode s.dev l = .faulted) :
    Completes (.cmpTest l ok) s [] [] fun e => e.out = [] :=
  .of_unchanged (exec_cmpTest l ok s) (by split <;> simp_all)

end Causes

/-- Settles O9: each clause is the lemma above about the cause that it names. -/
theorem faultLatchCauses : Obligations.FaultLatchCauses :=
  ⟨fun _ _ => lockstepMismatch_latches, fun _ _ => lockstepMismatch_latched, fun _ _ => lockstepMismatch_out, fun _ _ => memUe_latches,
   fun _ _ => memUe_inDebug, fun _ _ _ => memoryScrub_clean, fun _ _ _ => memoryScrub_latches, fun _ _ => cmpTest_passes,
   fun _ _ => cmpTest_fails, fun _ _ _ => cmpTest_out⟩

end Sys2Proof.Machine
end

section
/-!
SUPPORT. Records of the exchange (R84, R86, R278): what a lane takes and what it sends, and O10.
-/
namespace Sys2Proof.Machine
open RegField

theorem exec_frameRecordReceived (rx tx : Lane) (a : Arrival) (r : FrameRecord) (s : State) :
    exec (.frameRecordReceived rx tx a r) s = execFrameRecordReceived rx tx a r s := rfl
theorem exec_positionRecordReceived (rx tx : Lane) (a : Arrival) (r : PositionRecord) (s : State) :
    exec (.positionRecordReceived rx tx a r) s = execPositionRecordReceived rx tx a r s := rfl
theorem exec_resultRecordReceived (rx tx : Lane) (a : Arrival) (r : ResultRecord) (s : State) :
    exec (.resultRecordReceived rx tx a r) s = execResultRecordReceived rx tx a r s := rfl
theorem exec_positionRecordSend (l : Lane) (s : State) : exec (.positionRecordSend l) s = execPositionRecordSend l s := rfl
theorem exec_frameRecordSend (l : Lane) (bent : PerLane (Option (BitVec 2))) (s : State) :
    exec (.frameRecordSend l bent) s = execFrameRecordSend l bent s := rfl

@[simp] theorem exchanges_cleared (d : Dev) (l : Lane) : exchanges d.cleared l = exchanges d l := rfl
@[simp] theorem pairOut_cleared (d : Dev) (l : Lane) : pairOut d.cleared l = pairOut d l := rfl

/-! Received records. -/

/-- The count of a record that fails a check is the one of its receiver, for its sender and the check. -/
theorem exchangeError_eq (d : Dev) (rx tx : Lane) (crc : Bool) : exchangeError d rx tx crc =
    d.inc (if crc then if firstOther rx tx then LN_EXCH_ERR_CRC_P1 else LN_EXCH_ERR_CRC_P2
      else if firstOther rx tx then LN_EXCH_ERR_LATE_P1 else LN_EXCH_ERR_LATE_P2) rx.idx := by
  unfold exchangeError
  cases firstOther rx tx <;> cases crc <;> rfl

theorem recordGood_iff {d : Dev} {tx : Lane} {a : Arrival} {id n : Nat} :
    recordGood d tx a id n = true ↔ a = .good ∧ id = laneId tx ∧ n = d.frameNo := by
  simp [recordGood]

section Received
variable {s : State} {rx tx : Lane}

theorem frameRecordReceived_held {r : FrameRecord} (hx : exchanges s.dev rx = true) (hne : rx ≠ tx) (hid : r.laneId = laneId tx)
    (hn : r.frameNo = s.dev.frameNo) :
    Completes (.frameRecordReceived rx tx .good r) s [] [.lanes] fun e =>
      (laneOf e rx).frames.get tx = some r ∧ (laneOf e rx).arrived.get tx = true ∧ ∀ k, k ≠ rx → laneOf e k = laneOf s.dev k := by
  refine .of_result (exec_frameRecordReceived rx tx .good r s) ((if_pos ⟨hx, hne⟩).trans (if_pos (recordGood_iff.mpr ⟨rfl, hid, hn⟩)))
    (((SameBut.refl _ _ _ _).onLane rx _ (by simp)).onLane rx _ (by simp)) ?_
  simp +contextual

theorem frameRecordReceived_badCrc {r : FrameRecord} (hx : exchanges s.dev rx = true) (hne : rx ≠ tx) :
    Completes (.frameRecordReceived rx tx .badCrc r) s
      [(if firstOther rx tx then LN_EXCH_ERR_CRC_P1 else LN_EXCH_ERR_CRC_P2, rx.idx)] [.lanes] fun e =>
      (laneOf e rx).frames = (laneOf s.dev rx).frames ∧ (∀ k, k ≠ rx → laneOf e k = laneOf s.dev k) := by
  refine .of_result (exec_frameRecordReceived rx tx .badCrc r s) ((if_pos ⟨hx, hne⟩).trans ((if_neg (by simp [recordGood])).trans
    (exchangeError_eq _ rx tx true))) (((SameBut.refl _ _ _ _).onLane rx _ (by simp)).wr _ _ _ (by simp)) ?_
  simp +contextual

theorem frameRecordReceived_otherFrame {r : FrameRecord} (hx : exchanges s.dev rx = true) (hne : rx ≠ tx) (hid : r.laneId = laneId tx)
    (hn : r.frameNo ≠ s.dev.frameNo) :
    Completes (.frameRecordReceived rx tx .good r) s
      [(if firstOther rx tx then LN_EXCH_ERR_LATE_P1 else LN_EXCH_ERR_LATE_P2, rx.idx)] [.lanes] fun e =>
      (laneOf e rx).frames = (laneOf s.dev rx).frames := by
  refine .of_result (exec_frameRecordReceived rx tx .good r s) ((if_pos ⟨hx, hne⟩).trans
    ((if_neg fun h => hn (recordGood_iff.mp h).2.2).trans ((exchangeError_eq _ rx tx _).trans (by simp only [hid]; rfl))))
    (((SameBut.refl _ _ _ _).onLane rx _ (by simp)).wr _ _ _ (by simp)) ?_
  simp

theorem positionRecordReceived_held {r : PositionRecord} (hx : exchanges s.dev rx = true) (hne : rx ≠ tx) (hid : r.laneId = laneId tx)
    (hn : r.frameNo = s.dev.frameNo) :
    Completes (.positionRecordReceived rx tx .good r) s [] [.lanes] fun e => (laneOf e rx).pos.get tx = some r := by
  refine .of_result (exec_positionRecordReceived rx tx .good r s) ((if_pos ⟨hx, hne⟩).trans (if_pos (recordGood_iff.mpr ⟨rfl, hid, hn⟩)))
    ((SameBut.refl _ _ _ _).onLane rx _ (by simp)) ?_
  simp

theorem resultRecordReceived_held {r : ResultRecord} (hx : exchanges s.dev rx = true) (hne : rx ≠ tx) (hid : r.laneId = laneId tx)
    (hn : r.frameNo = s.dev.frameNo) :
    Completes (.resultRecordReceived rx tx .good r) s [] [.lanes] fun e => (laneOf e rx).results.get tx = some r := by
  refine .of_result (exec_resultRecordReceived rx tx .good r s) ((if_pos ⟨hx, hne⟩).trans (if_pos (recordGood_iff.mpr ⟨rfl, hid, hn⟩)))
    ((SameBut.refl _ _ _ _).onLane rx _ (by simp)) ?_
  simp

/-- A lane that does not exchange takes no record. -/
theorem records_ignored {a : Arrival} {r : FrameRecord} {p : PositionRecord} {q : ResultRecord} (hx : exchanges s.dev rx = false) :
    Completes (.frameRecordReceived rx tx a r) s [] [] (fun e => e.out = []) ∧
    Completes (.positionRecordReceived rx tx a p) s [] [] (fun e => e.out = []) ∧
    Completes (.resultRecordReceived rx tx a q) s [] [] (fun e => e.out = []) :=
  have hno {t : Lane} : ¬ (exchanges s.dev rx = true ∧ rx ≠ t) := fun h => by simp [hx] at h
  ⟨.of_unchanged (exec_frameRecordReceived rx tx a r s) (if_neg hno),
   .of_unchanged (exec_positionRecordReceived rx tx a p s) (if_neg hno),
   .of_unchanged (exec_resultRecordReceived rx tx a q s) (if_neg hno)⟩

end Received

/-! Sent records. -/

section Sent
variable {s : State} {l : Lane}

theorem positionRecordSend_sends (hx : exchanges s.dev l = true) (ht : s.dev.tb.ticking = true) :
    Completes (.positionRecordSend l) s [] [.lanes, .tb] fun e =>
      ∃ r : PositionRecord, e.out = [.positionRecord l r (positionBytes r)] ∧ r.laneId = laneId l ∧ r.frameNo = s.dev.frameNo ∧
        (laneOf e l).pos.get l = some r := by
  refine .of_result (exec_positionRecordSend l s) (if_pos ⟨hx, ht⟩)
    ((((SameBut.refl _ _ _ _).reach _ (by simp)).onLane l _ (by simp)).emit _)
        ⟨makePositions (s.dev.cleared.reach 1800) l, ?_, rfl, rfl, ?_⟩
  · simp
  · simp

theorem others_pair (l : Lane) : ∃ x y : Lane, l.others = [x, y] ∧ x ≠ l ∧ y ≠ l ∧ x ≠ y ∧ ∀ m, m ≠ l → m = x ∨ m = y := by
  cases l
  · exact ⟨.b, .c, rfl, by decide, by decide, by decide, fun m => by cases m <;> simp⟩
  · exact ⟨.a, .c, rfl, by decide, by decide, by decide, fun m => by cases m <;> simp⟩
  · exact ⟨.a, .b, rfl, by decide, by decide, by decide, fun m => by cases m <;> simp⟩

/-- The pair that lane `l` samples of lane `m`: the one that `m` shows, or what a fault of the wires makes of it (R78). -/
def sampled (bent : PerLane (Option (BitVec 2))) (d : Dev) (m : Lane) : BitVec 2 := (bent.get m).getD (pairOut d m)

/-- Lane `l` holds the pair `p` of lane `m`. -/
def takePair (d : Dev) (l m : Lane) (p : BitVec 2) : Dev := onLane d l fun x => { x with pairs := x.pairs.set m p }

/-- A fault of lane `m` is seen. -/
def seeFault (d : Dev) (m : Lane) : Dev := onLane d m fun x => { x with unseen := false }

/-- Lane `l` samples the pair of lane `m`; the first sight of a fault is the moment its review is due. -/
def samplePair (l : Lane) (bent : PerLane (Option (BitVec 2))) (d : Dev) (m : Lane) : Dev :=
  if sampled bent d m ≠ 1 ∧ (laneOf (takePair d l m (sampled bent d m)) m).unseen then
    reviewLanes (seeFault (takePair d l m (sampled bent d m)) m)
  else takePair d l m (sampled bent d m)

theorem samplePairs_eq (d : Dev) (l : Lane) (bent : PerLane (Option (BitVec 2))) :
    samplePairs d l bent = d.each l.others (samplePair l bent) := rfl

theorem takePair_latch (d : Dev) (l m : Lane) (p : BitVec 2) : LanesKeep LaneState.latch d (takePair d l m p) :=
  (LanesKeep.refl _ d).onLane l _ fun _ => rfl

theorem takePair_unseen (d : Dev) (l m : Lane) (p : BitVec 2) : LanesKeep LaneState.unseen d (takePair d l m p) :=
  (LanesKeep.refl _ d).onLane l _ fun _ => rfl

theorem pairOut_congr {d e : Dev} {m : Lane} (hm : laneMode e m = laneMode d m) (hl : (laneOf e m).latch = (laneOf d m).latch) :
    pairOut e m = pairOut d m := by
  unfold pairOut
  rw [hm, hl]

theorem exchanges_congr {d e : Dev} {m : Lane} (hm : laneMode e m = laneMode d m) (hl : (laneOf e m).latch = (laneOf d m).latch) :
    exchanges e m = exchanges d m := by
  unfold exchanges
  rw [hm, hl]

theorem sampled_takePair (bent : PerLane (Option (BitVec 2))) (d : Dev) (l k : Lane) (p : BitVec 2) (m : Lane) :
    sampled bent (takePair d l k p) m = sampled bent d m :=
  congrArg (bent.get m).getD (pairOut_congr rfl ((takePair_latch d l k p).keep m))

/-- A lane whose fault is not unseen is sampled, and nothing else happens. -/
theorem samplePair_quiet {d : Dev} {m : Lane} (bent : PerLane (Option (BitVec 2))) (hu : (laneOf d m).unseen = false) :
    samplePair l bent d m = takePair d l m (sampled bent d m) :=
  if_neg fun h => by rw [(takePair_unseen d l m _).keep m, hu] at h; exact absurd h.2 (by simp)

/-- With no fault unseen, the samples of lane `l` are all that changes. -/
theorem samplePairs_quiet {d : Dev} (bent : PerLane (Option (BitVec 2))) (hu : ∀ m, m ≠ l → (laneOf d m).unseen = false) :
    ∃ x y, samplePairs d l bent = takePair (takePair d l x (sampled bent d x)) l y (sampled bent d y) ∧
      ∀ m, m ≠ l → (laneOf (samplePairs d l bent) l).pairs.get m = sampled bent d m := by
  obtain ⟨x, y, hxy, hx, hy, hne, hall⟩ := others_pair l
  have heq : samplePairs d l bent = takePair (takePair d l x (sampled bent d x)) l y (sampled bent d y) := by
    rw [samplePairs_eq, hxy]
    change samplePair l bent (samplePair l bent d x) y = _
    rw [samplePair_quiet bent (hu x hx), samplePair_quiet bent (((takePair_unseen d l x _).keep y).trans (hu y hy)), sampled_takePair]
  refine ⟨x, y, heq, fun m hm => ?_⟩
  rw [heq]
  rcases hall m hm with rfl | rfl
  · simp [takePair, hne]
  · simp [takePair]

/-- What a lane sends in a frame, when it exchanges: its record, which it holds as its own. -/
theorem sendRecord_exchanges {d : Dev} (hx : exchanges d l = true) : sendRecord d l =
    (onLane (d.reach 500) l fun x => { x with frames := x.frames.set l (some (makeRecord (d.reach 500) l)) }).emit
      (.frameRecord l (makeRecord (d.reach 500) l) (frameBytes (ringOf d l).sched (makeRecord (d.reach 500) l))) := if_pos hx

/-- The results of ADC0 and ADC1 that lane `l` sends, channel by channel. -/
def sentAdc (d : Dev) (l : Lane) (c : Nat) : Int × Int :=
  if (laneOf d l).corrMiss.any (fun p => decide (p.1 = c)) ∨ (d.rd ADC_SNAP_FRAME_NO + 1) % 2 ^ 32 ≠ d.frameNo then (-32768, -32768)
  else (d.rdI ADC_FRAME_MEAN c, d.rdI ADC_FRAME_MAX c)

/-- Lane `l` has taken the results that it sends. -/
def adcTaken (d : Dev) (l : Lane) : Dev := onLane (d.reach 500) l fun x => { x with adc := (List.range 32).map (sentAdc d l) }

theorem execFrameRecordSend_eq (bent : PerLane (Option (BitVec 2))) : exec (.frameRecordSend l bent) s = s.run fun d =>
    if d.tb.ticking ∧ exchanges d l then sendRecord (samplePairs (adcTaken d l) l bent) l else d := rfl

theorem frameRecordSend_sends {bent : PerLane (Option (BitVec 2))} (hx : exchanges s.dev l = true) (ht : s.dev.tb.ticking = true)
    (hu : ∀ m : Lane, m ≠ l → (laneOf s.dev m).unseen = false) :
    Completes (.frameRecordSend l bent) s [] [.lanes, .tb] fun e =>
      (∀ m : Lane, m ≠ l → (laneOf e l).pairs.get m = (bent.get m).getD (pairOut s.dev m)) ∧
      ∃ r : FrameRecord, e.out = [.frameRecord l r (frameBytes (ringOf s.dev l).sched r)] ∧ r.laneId = laneId l ∧
        r.frameNo = s.dev.frameNo ∧ r.laneState = s.dev.rd LN_STATUS_STATE l.idx ∧ r.seen = (laneOf s.dev l).seen ∧
          r.decision = (laneOf s.dev l).decisionPrev ∧ (laneOf e l).frames.get l = some r := by
  have hseen (m : Lane) (hm : m ≠ l) : (laneOf (adcTaken s.dev.cleared l) m).unseen = false := by simpa [adcTaken, hm] using hu m hm
  obtain ⟨x, y, hpairs, hget⟩ := samplePairs_quiet bent hseen
  rw [hpairs] at hget
  have hx' : exchanges (takePair (takePair (adcTaken s.dev.cleared l) l x (sampled bent (adcTaken s.dev.cleared l) x)) l y
      (sampled bent (adcTaken s.dev.cleared l) y)) l = true := by
    rw [← hx]; exact exchanges_congr rfl (by simp [takePair, adcTaken])
  refine .of_result (execFrameRecordSend_eq bent) ((if_pos ⟨ht, hx⟩).trans
      ((congrArg (sendRecord · l) hpairs).trans (sendRecord_exchanges hx')))
    ?_ ⟨fun m hm => ?_, _, rfl, rfl, rfl, rfl, ?_, ?_, ?_⟩
  · have h : SameBut s.dev.cleared (adcTaken s.dev.cleared l) [] [] [.lanes, .tb] :=
      ((SameBut.refl _ _ _ _).reach _ (by simp)).onLane l _ (by simp)
    exact ((((h.onLane l _ (by simp)).onLane l _ (by simp)).reach _ (by simp)).onLane l _ (by simp)).emit _
  · have hsent : pairOut (adcTaken s.dev.cleared l) m = pairOut s.dev m := pairOut_congr rfl (by simp [adcTaken, hm])
    refine Eq.trans ?_ ((hget m hm).trans (congrArg (bent.get m).getD hsent))
    simp
  · simp [makeRecord, adcTaken, takePair]
  · simp [makeRecord, adcTaken, takePair]
  · simp

/-! A fault latch that is first seen. -/

theorem seeFault_latch (d : Dev) (m : Lane) : LanesKeep LaneState.latch d (seeFault d m) := (LanesKeep.refl _ d).onLane m _ fun _ => rfl

theorem samplePair_latch (bent : PerLane (Option (BitVec 2))) (d : Dev) (k : Lane) :
    LanesKeep LaneState.latch d (samplePair l bent d k) := by
  unfold samplePair
  split
  · exact ((takePair_latch d l k _).trans (seeFault_latch _ k)).trans ((reviewLanes_standing _).weaken fun h => (LaneState.standing_eq h).1)
  · exact takePair_latch d l k _

/-- Once lane `l` has sampled lane `m`, whose latch is set, it holds the pair of a fault, and the fault is seen. -/
def SawLatch (l m : Lane) (d : Dev) : Prop := (laneOf d m).unseen = false ∧ (laneOf d l).pairs.get m = 2

theorem reviewLanes_sawLatch {d : Dev} {m : Lane} (h : SawLatch l m d) : SawLatch l m (reviewLanes d) := by
  obtain ⟨-, -, -, hu⟩ := LaneState.standing_eq ((reviewLanes_standing d).keep m)
  obtain ⟨-, -, hp, -⟩ := LaneState.standing_eq ((reviewLanes_standing d).keep l)
  exact ⟨hu.trans h.1, (congrArg (PerLane.get · m) hp).trans h.2⟩

theorem seeFault_sawLatch {d : Dev} {m : Lane} (k : Lane) (h : SawLatch l m d) : SawLatch l m (seeFault d k) := by
  obtain ⟨hu, hp⟩ := h
  constructor
  · unfold seeFault
    rw [laneOf_onLane]
    split
    · rfl
    · exact hu
  · have hk : LanesKeep LaneState.pairs d (seeFault d k) := (LanesKeep.refl _ d).onLane k _ fun _ => rfl
    exact (congrArg (PerLane.get · m) (hk.keep l)).trans hp

theorem takePair_sawLatch {d : Dev} {m k : Lane} (p : BitVec 2) (hk : m ≠ k) (h : SawLatch l m d) : SawLatch l m (takePair d l k p) :=
  ⟨((takePair_unseen d l k p).keep m).trans h.1, by simpa [takePair, hk] using h.2⟩

theorem samplePair_sawLatch_other {d : Dev} {m k : Lane} (bent : PerLane (Option (BitVec 2))) (hk : m ≠ k) (h : SawLatch l m d) :
    SawLatch l m (samplePair l bent d k) := by
  unfold samplePair
  split
  · exact reviewLanes_sawLatch (seeFault_sawLatch k (takePair_sawLatch _ hk h))
  · exact takePair_sawLatch _ hk h

theorem samplePair_sawLatch {d : Dev} {m : Lane} {bent : PerLane (Option (BitVec 2))} (hm : m ≠ l) (hl : (laneOf d m).latch = true)
    (hb : bent.get m = none) : SawLatch l m (samplePair l bent d m) := by
  have hp : sampled bent d m = 2 := by simp [sampled, hb, pairOut, hl]
  have htaken : (laneOf (takePair d l m 2) l).pairs.get m = 2 := by simp [takePair]
  unfold samplePair
  rw [hp]
  split
  · refine reviewLanes_sawLatch ⟨by simp [seeFault], ?_⟩
    simpa [seeFault, hm.symm] using htaken
  · next h =>
    exact ⟨by simpa using h, htaken⟩

theorem samplePairs_sawLatch {d : Dev} {m : Lane} {bent : PerLane (Option (BitVec 2))} (hm : m ≠ l) (hl : (laneOf d m).latch = true)
    (hb : bent.get m = none) : SawLatch l m (samplePairs d l bent) := by
  obtain ⟨x, y, hxy, hx, hy, hne, hall⟩ := others_pair l
  rw [samplePairs_eq, hxy]
  change SawLatch l m (samplePair l bent (samplePair l bent d x) y)
  rcases hall m hm with rfl | rfl
  · exact samplePair_sawLatch_other bent hne (samplePair_sawLatch hm hl hb)
  · exact samplePair_sawLatch hm (((samplePair_latch bent d x).keep m).trans hl) hb

/-- A lane that sends its record changes nothing of a lane but the records held. -/
theorem sendRecord_keeps {α : Type} {p : LaneState → α} (hp : ∀ x f, p { x with frames := f } = p x) (d : Dev) :
    LanesKeep p d (sendRecord d l) := by
  refine ⟨fun k => ?_⟩
  unfold sendRecord
  split
  · simp only [laneOf_emit, laneOf_onLane]
    split
    · subst k; exact hp ..
    · rfl
  · rfl

theorem sendRecord_sawLatch {d : Dev} {m : Lane} (h : SawLatch l m d) : SawLatch l m (sendRecord d l) :=
  have hu : LanesKeep LaneState.unseen d (sendRecord d l) := sendRecord_keeps (fun _ _ => rfl) d
  have hp : LanesKeep LaneState.pairs d (sendRecord d l) := sendRecord_keeps (fun _ _ => rfl) d
  ⟨(hu.keep m).trans h.1, (congrArg (PerLane.get · m) (hp.keep l)).trans h.2⟩

theorem frameRecordSend_seesLatch {m : Lane} {bent : PerLane (Option (BitVec 2))} (hx : exchanges s.dev l = true)
    (ht : s.dev.tb.ticking = true)
    (hm : m ≠ l) (hl : (laneOf s.dev m).latch = true) (hb : bent.get m = none) :
    Answers (.frameRecordSend l bent) s fun e => (laneOf e m).unseen = false ∧ (laneOf e l).pairs.get m = 2 :=
  .of_result (execFrameRecordSend_eq bent) (if_pos ⟨ht, hx⟩) (sendRecord_sawLatch
      (samplePairs_sawLatch hm (by simpa [adcTaken, hm] using hl) hb))

theorem frameRecordSend_silent {bent : PerLane (Option (BitVec 2))} (hx : exchanges s.dev l = false) :
    Completes (.frameRecordSend l bent) s [] [] fun e => e.out = [] :=
  .of_unchanged (execFrameRecordSend_eq bent) (if_neg fun h => by simp [hx] at h)

end Sent

/-- Settles O10: each clause is the lemma above about the record that it names. -/
theorem exchangeRecords : Obligations.ExchangeRecords :=
  ⟨fun _ _ _ _ => frameRecordReceived_held, fun _ _ _ _ => frameRecordReceived_badCrc, fun _ _ _ _ => frameRecordReceived_otherFrame,
   fun _ _ _ _ => positionRecordReceived_held, fun _ _ _ _ => resultRecordReceived_held, fun _ _ _ _ _ _ _ => records_ignored,
   fun _ _ => positionRecordSend_sends, fun _ _ _ => frameRecordSend_sends, fun _ _ _ _ => frameRecordSend_seesLatch,
   fun _ _ _ => frameRecordSend_silent⟩

end Sys2Proof.Machine
end

section
/-!
SUPPORT. A refused access: what it changes and how it shows.
-/
namespace Sys2Proof.Machine
open RegField

/-! A refused access (R448, R449). -/

/-- The elements that a refused access may change. -/
def lockViolRegs : List (RegField × Nat) :=
  [(SYS_STATUS_LOCK_VIOL, 0), (SYS_ERR_CNT0_LOCK_VIOL_CNT, 0)] ++ errRegs ++ recordRegs srcSystem

theorem lockViol_sameBut (d : Dev) (m : Master) (addr : Nat) : SameBut d (d.lockViol m addr) [] lockViolRegs [.log] := by
  have h : SameBut d ((d.flag SYS_STATUS_LOCK_VIOL).inc SYS_ERR_CNT0_LOCK_VIOL_CNT) [] lockViolRegs [.log] :=
    ((SameBut.refl d _ _ _).wr _ _ _ (by simp [lockViolRegs])).wr _ _ _ (by simp [lockViolRegs])
  refine SameBut.event (h.next (Dev.errLast_sameBut ..) (by simp) ?_ (by simp)) _ _ _ _ ?_ (by simp)
  all_goals exact fun x hx => .inl (by simp [lockViolRegs, hx])

theorem lockViol_shown {d : Dev} (m : Master) (addr : Nat) (hu : d.rd PWR_STATUS_SHARED_UP ≠ 0) :
    (d.lockViol m addr).rd SYS_STATUS_LOCK_VIOL = 1 ∧ (d.lockViol m addr).logged .LOCK_VIOL srcSystem := by
  refine ⟨?_, Dev.event_logged _ _ _ ?_⟩
  · unfold Dev.lockViol
    rw [(Dev.event_sameBut ..).rd_eq _ _ (by simp) (by simp), (Dev.errLast_sameBut ..).rd_eq _ _ (by simp) (by simp [errRegs])]
    simp
  · rw [(Dev.errLast_sameBut ..).rd_eq _ _ (by simp) (by simp [errRegs])]
    simpa using hu

end Sys2Proof.Machine
end

section
/-!
SUPPORT. Debug of a lane, its digest and the debug window (R102, R110, R329, R449), clause by clause, and O32.
-/
namespace Sys2Proof.Machine
open RegField

theorem exec_debugEnter (l : Lane) (s : State) : exec (.debugEnter l) s = execDebugEnter l s := rfl
theorem exec_debugExit (l : Lane) (s : State) : exec (.debugExit l) s = execDebugExit l s := rfl
theorem exec_digestPass (l : Lane) (s : State) : exec (.digestPass l) s = execDigestPass l s := rfl
theorem exec_dbgWindowAccess (m : Master) (write : Bool) (v : Word32) (s : State) :
    exec (.dbgWindowAccess m write v) s = execDbgWindowAccess m write v s := rfl

section Debug
variable {s : State} {l : Lane}

/-! Debug of a lane (R110). -/

/-- Lane `l` shows that it is debugged, and the entry is logged. -/
def debugShown (d : Dev) (l : Lane) : Dev := (d.wr LN_STATUS_LANE_DEBUG l.idx 1).event .LANE_DEBUG (srcLane l)

theorem debugEnter_enters (ha : (s.dev.rd PWR_DBG_STAT_LANE_AUTH).testBit l.idx = true) (hm : laneMode s.dev l ≠ .absent)
    (hd : laneMode s.dev l ≠ .debug) (hu : s.dev.rd PWR_STATUS_SHARED_UP ≠ 0) :
    Answers (.debugEnter l) s fun e => laneMode e l = .debug ∧ e.rd LN_STATUS_LANE_DEBUG l.idx = 1 ∧ (e.lanes.get l).safe ∧
      e.logged .LANE_DEBUG (srcLane l) := by
  have hrec := (s.dev.cleared.wr LN_STATUS_LANE_DEBUG l.idx 1).event_sameBut .LANE_DEBUG (srcLane l) 0 0
  have hfault := laneFault_sameBut (debugShown s.dev.cleared l) l .debug .LANE_DEBUG false
  obtain ⟨hmode, hsafe⟩ := laneFault_lane (debugShown s.dev.cleared l) l .LANE_DEBUG false (m := .debug) (.inr (.inr rfl))
  refine .of_result (e := laneFault (debugShown s.dev.cleared l) l .debug .LANE_DEBUG) (exec_debugEnter l s) (if_pos ⟨ha, hm, hd⟩)
    ⟨by simpa using hmode, ?_, hsafe, Dev.logged_of_log (hfault.rest .log (by simp)) (Dev.event_logged _ _ _ (by simpa using hu))⟩
  rw [hfault.rd_eq _ _ (by simp) (by simp), debugShown, hrec.rd_eq _ _ (by simp) (by simp)]
  simp

theorem debugEnter_locked (ha : (s.dev.rd PWR_DBG_STAT_LANE_AUTH).testBit l.idx = false) :
    Completes (.debugEnter l) s [] [] fun e => e.out = [] :=
  .of_unchanged (exec_debugEnter l s) (if_neg fun h => absurd h.1 (by simp [ha]))

theorem debugExit_boots (hm : laneMode s.dev l = .debug) (hu : s.dev.rd PWR_STATUS_SHARED_UP ≠ 0) (hv : convOk s.dev l = true)
    (hh : heldBy s.dev l.idx = []) (hup : (s.dev.rd PWR_STATUS_LANE_UP).testBit l.idx = true) :
    Answers (.debugExit l) s fun e => laneMode e l = .boot ∧ (e.lanes.get l).safe := by
  obtain ⟨hmode, -, hsafe⟩ := selfReset_boots (d := s.dev.cleared) (l := l) (cause := 0xB) (e := .LANE_DEBUG) (.inr rfl) hu hv hh hup
  refine .of_result (exec_debugExit l s) (if_pos hm) ⟨hmode, ?_⟩
  change (laneOf (onLane _ l _) l).safe
  simpa [LaneState.safe] using hsafe

theorem debugExit_notDebugged (hm : laneMode s.dev l ≠ .debug) : Completes (.debugExit l) s [] [] fun e => e.out = [] :=
  .of_unchanged (exec_debugExit l s) (if_neg hm)

/-! The digest (R102). -/

theorem Dev.reach_tb (d : Dev) (ns : Nat) : (d.reach ns).tb = { d.tb with ext := max d.tb.ext (d.tb.tickAt + ns) } := by
  unfold Dev.reach
  dsimp only
  congr 1
  rcases lt_or_ge d.tb.ext (d.tb.tickAt + ns) with h | h
  · rw [if_pos h, max_eq_right h.le]
  · rw [if_neg h.not_gt, max_eq_left h]

/-- Lane `l` has completed a pass over its image, whose digest is `g`. -/
def digested (d : Dev) (l : Lane) (g : Nat) : Dev :=
  ((onLane (d.reach 44960) l fun x => { x with digestDone := g }).wr LN_DIGEST_LO_DIGEST l.idx g).wr LN_DIGEST_HI_DIGEST l.idx (g / 2 ^ 32)

theorem digestPass_shows (ha : laneMode s.dev l ≠ .absent) (hb : laneMode s.dev l ≠ .boot) (ht : s.dev.tb.ticking = true)
    (hn : s.dev.frameNo % 2 = 0) :
    Completes (.digestPass l) s [(LN_DIGEST_LO_DIGEST, l.idx), (LN_DIGEST_HI_DIGEST, l.idx)] [.lanes, .tb] fun e =>
      let g := crc64Sparse 262144 0 0 (laneOf s.dev l).image.bytes
      e.rd LN_DIGEST_LO_DIGEST l.idx = g % 2 ^ 32 ∧ e.rd LN_DIGEST_HI_DIGEST l.idx = g / 2 ^ 32 % 2 ^ 32 ∧
        e.lanes = (onLane s.dev l fun x => { x with digestDone := g }).lanes ∧
        e.tb = { s.dev.tb with ext := max s.dev.tb.ext (s.dev.tb.tickAt + 44960) } := by
  refine .of_result (e := digested s.dev.cleared l (imageDigest (laneOf s.dev l).image)) (exec_digestPass l s) ?_
    (((((SameBut.refl _ _ _ _).reach _ (by simp)).onLane l _ (by simp)).wr _ _ _ (by simp)).wr _ _ _ (by simp))
        ⟨?_, ?_, rfl, Dev.reach_tb s.dev.cleared 44960⟩
  · split
    · simp_all
    · simp_all
    · exact if_pos ⟨ht, hn⟩
  · simp [digested, imageDigest]
  · simp [digested, imageDigest]

theorem digestPass_out (h : laneMode s.dev l = .absent ∨ laneMode s.dev l = .boot ∨ s.dev.tb.ticking = false ∨ s.dev.frameNo % 2 = 1) :
    Completes (.digestPass l) s [] [] fun e => e.out = [] := by
  refine .of_unchanged (exec_digestPass l s) ?_
  split
  · rfl
  · rfl
  · refine if_neg fun hd => ?_
    obtain ⟨ht, hn⟩ : s.dev.tb.ticking = true ∧ s.dev.frameNo % 2 = 0 := hd
    simp_all

end Debug

/-! The debug window (R329, R449). -/

section Window
variable {s : State} {m : Master} {v : Word32} {l : Lane}

theorem dbgWindow_reads (hr : s.dev.readable m 0x5008 = true) :
    Completes (.dbgWindowAccess m false v) s [(SAF_DBG_ADDR_ADDR, 0)] [] fun e =>
      e.out = [.readData m (debugWord s.dev)] ∧ e.rd SAF_DBG_ADDR_ADDR = (s.dev.rd SAF_DBG_ADDR_ADDR + 1) % 2 ^ SAF_DBG_ADDR_ADDR.width :=
        by
  refine .of_result (e := (debugAdvance s.dev.cleared).emit (.readData m (debugWord s.dev.cleared))) (exec_dbgWindowAccess m false v s)
    ((if_neg (by simp)).trans (if_pos hr)) (((SameBut.refl _ _ _ _).wr _ _ _ (by simp)).emit _) ⟨rfl, ?_⟩
  simp [debugAdvance]

theorem dbgWindow_readsZero (hr : s.dev.readable m 0x5008 = false) :
    Completes (.dbgWindowAccess m false v) s [] [] fun e => e.out = [.readData m 0] :=
  .of_result (exec_dbgWindowAccess m false v s) ((if_neg (by simp)).trans (if_neg (Bool.not_eq_true _ ▸ hr)))
      ((SameBut.refl _ _ _ _).emit _) rfl

theorem dbgWindow_unprivileged (hm : privilegedMaster m = false) : Completes (.dbgWindowAccess m true v) s [] [] fun e => e.out = [] :=
  .of_unchanged (exec_dbgWindowAccess m true v s) ((if_pos rfl).trans (if_neg (by simp [hm])))

/-- A word that the window writes lands in the image of the lane it names, if the lane is in DEBUG. -/
def debugPut (d : Dev) (m : Master) (v : Nat) (l : Lane) : Dev :=
  if laneMode d l = .debug then
    onLane d l fun x => { x with
      image := { x.image with bytes := SMap.setBytes 0 x.image.bytes (4 * d.rd SAF_DBG_ADDR_ADDR) (bytesLE 4 v) } }
  else d.lockViol m 0x5008

theorem debugWrite_eq (d : Dev) (m : Master) (v : Nat) (hl : d.rd SAF_DBG_LANE_LANE = l.idx) :
    debugWrite d m v = debugAdvance (debugPut d m v l) := by
  unfold debugWrite
  rw [hl]
  cases l <;> rfl

theorem dbgWindowAccess_served (hm : privilegedMaster m = true) (hs : s.dev.served m 0x5008) (hl : s.dev.rd SAF_DBG_LANE_LANE = l.idx) :
    ∃ f, exec (.dbgWindowAccess m true v) s = s.run f ∧ f s.dev.cleared = debugAdvance (debugPut s.dev.cleared m v.toNat l) :=
  ⟨_, exec_dbgWindowAccess m true v s,
    (if_pos rfl).trans ((if_pos hm).trans ((Dev.trigger_served (d := s.dev.cleared) none _ hs).trans (debugWrite_eq s.dev.cleared m _ hl)))⟩

theorem dbgWindow_writes (hm : privilegedMaster m = true) (hs : s.dev.served m 0x5008) (hl : s.dev.rd SAF_DBG_LANE_LANE = l.idx)
    (hd : laneMode s.dev l = .debug) :
    Completes (.dbgWindowAccess m true v) s [(SAF_DBG_ADDR_ADDR, 0)] [.lanes] fun e =>
      (laneOf e l).image.bytes = SMap.setBytes 0 (laneOf s.dev l).image.bytes (4 * s.dev.rd SAF_DBG_ADDR_ADDR) (bytesLE 4 v.toNat) ∧
        (laneOf e l).image.params = (laneOf s.dev l).image.params ∧ ∀ k, k ≠ l → laneOf e k = laneOf s.dev k := by
  obtain ⟨f, hx, hf⟩ := dbgWindowAccess_served (v := v) hm hs hl
  refine .of_result hx (hf.trans (congrArg debugAdvance (if_pos hd))) (((SameBut.refl _ _ _ _).onLane l _ (by simp)).wr _ _ _ (by simp)) ?_
  simp +contextual [debugAdvance]

theorem dbgWindow_refused (hm : privilegedMaster m = true) (hs : s.dev.served m 0x5008) (hl : s.dev.rd SAF_DBG_LANE_LANE = l.idx)
    (hd : laneMode s.dev l ≠ .debug) :
    Completes (.dbgWindowAccess m true v) s
      ([(SAF_DBG_ADDR_ADDR, 0), (SYS_STATUS_LOCK_VIOL, 0), (SYS_ERR_CNT0_LOCK_VIOL_CNT, 0)] ++ errRegs ++ recordRegs srcSystem) [.log]
          fun e =>
        e.rd SYS_STATUS_LOCK_VIOL = 1 ∧ e.logged .LOCK_VIOL srcSystem := by
  obtain ⟨f, hx, hf⟩ := dbgWindowAccess_served (v := v) hm hs hl
  obtain ⟨hshown, hlog⟩ := lockViol_shown (d := s.dev.cleared) m 0x5008 hs.1
  refine .of_result hx (hf.trans (congrArg debugAdvance (if_neg hd)))
    (((lockViol_sameBut ..).mono (by simp) (fun x hx => .inl (by simp_all [lockViolRegs])) (by simp)).wr _ _ _ (by simp)) ⟨?_, hlog⟩
  simpa [debugAdvance] using hshown

end Window

/-- Settles O32: each clause is the lemma above about the access that it names. -/
theorem laneDebugAndWindow : Obligations.LaneDebugAndWindow :=
  ⟨fun _ _ => debugEnter_enters, fun _ _ => debugEnter_locked, fun _ _ => debugExit_boots, fun _ _ => debugExit_notDebugged,
   fun _ _ => digestPass_shows, fun _ _ => digestPass_out, fun _ _ _ => dbgWindow_reads, fun _ _ _ => dbgWindow_readsZero,
   fun _ _ _ => dbgWindow_unprivileged, fun _ _ _ _ => dbgWindow_writes, fun _ _ _ _ => dbgWindow_refused⟩

end Sys2Proof.Machine
end

section
/-!
SUPPORT. A waiting package at the boundary of a monitor frame (R105, R325, R327), clause by clause, and O46.
-/
namespace Sys2Proof.Machine
open RegField

theorem exec_packageApply (s : State) : exec .packageApply s = execPackageApply s := rfl

theorem SameBut.pkg {a d : Dev} {fs : List RegField} {es : List (RegField × Nat)} {ps : List Part} (h : SameBut a d fs es ps) (x : PkgState)
    (hp : .pkg ∈ ps) : SameBut a { d with pkg := x } fs es ps :=
  ⟨h.regs, fun p hn => by cases p with | pkg => exact absurd hp hn | _ => exact h.rest _ hn⟩

/-! The steps of the command. -/

/-- The package changes the schedule of the device. -/
def changesSchedule (d : Dev) (p : Package) : Bool := decide (p.image.params.schedule ≠ (laneOf d d.firstLane).image.params.schedule)

/-- The package changes the period of the device. -/
def changesPeriod (d : Dev) (p : Package) : Bool := decide (p.image.params.period ≠ d.rd BLF_CFG_PERIOD)

/-- No package waits any more. -/
def packageTaken (d : Dev) : Dev := { d with pkg := { d.pkg with waiting := none } }

/-- All lanes in service are staged to switch at this boundary. -/
def packageStaged (d : Dev) (p : Package) : Dev :=
  (packageTaken d).each (serviceLanes (packageTaken d)) fun d l => onLane d l fun x =>
      { x with staging := some p.image, switchAt := some d.frameNo }

/-- The registers show that the package has applied. -/
def packageShown (d : Dev) (p : Package) : Dev :=
  reportPackage ((((if rotates p then enrol d p.nextKeyHash else d).put SAF_PKG_APPLIED_SEQ p.seq).put SAF_PKG_PEND_SEQ 0).put
      SYS_MODE_CFG_SLOT
    (if (if rotates p then enrol d p.nextKeyHash else d).flash.cfg1 = some p then 1 else 0)) .applied

/-- A change of the latch offset takes effect two frames on. -/
def packageLatch (d : Dev) (p : Package) : Dev :=
  if p.image.params.latch = d.rd BLF_LATCH_OFFSET then d else latchFrom2 (d.put BLF_LATCH_OFFSET p.image.params.latch) p.image.params.latch

/-- Every ring takes the guard time of the package. -/
def packageGuards (d : Dev) (p : Package) : Dev := d.each Lane.all fun d l => d.wr ENT_GUARD_NS l.idx p.image.params.guardNs

/-- The rings stop. -/
def ringsStopped (d : Dev) : Dev := d.each Lane.all fun d l => (onRing d l fun r => { r with inFlight := none }).wr ENT_START_STATE l.idx 0

/-- The rings stop, and the new period is due. -/
def packagePeriod (d : Dev) (p : Package) : Dev := { ringsStopped d with periodDue := some p.image.params.period }

/-- A package that applies. -/
def packageApplied (d : Dev) (p : Package) : Dev :=
  if changesPeriod d p then
    packagePeriod (if changesSchedule d p ∨ changesPeriod d p then
      configure (packageGuards (packageLatch (packageShown (packageStaged d p) p) p) p) p
      else packageGuards (packageLatch (packageShown (packageStaged d p) p) p) p) p
  else if changesSchedule d p ∨ changesPeriod d p then configure (packageGuards (packageLatch (packageShown (packageStaged d p) p) p) p) p
  else packageGuards (packageLatch (packageShown (packageStaged d p) p) p) p

/-- What the command does with a package that waits, in a mode in which packages apply. -/
def packageStep (d : Dev) (p : Package) : Dev :=
  if ¬ (d.frameNo % 2 = 0 ∧ disabledLong d = true ∧ 2 ≤ (serviceLanes d).length) then d
  else if (changesPeriod d p ∨ changesSchedule d p) ∧ d.mode ≠ .standstill then d
  else if changesSchedule d p ∧ scheduleApplies d p.image.params = false then
    reportPackage ((packageTaken d).put SAF_PKG_PEND_SEQ 0) .crossCheck
  else packageApplied d p

section Package
variable {s : State} {p : Package} {l : Lane}

theorem packageApply_step (hb : s.dev.mode ≠ .boot) (hh : s.dev.mode ≠ .hold) (hp : s.dev.pkg.waiting = some p) :
    ∃ f, exec .packageApply s = s.run f ∧ f s.dev.cleared = packageStep s.dev.cleared p := by
  refine ⟨_, exec_packageApply s, ?_⟩
  split
  · simp_all
  · simp_all
  · next hn _ _ => exact absurd (hp.symm.trans hn) (by simp)
  · next q hq _ _ =>
    obtain rfl : p = q := Option.some.inj (hp.symm.trans hq)
    rfl

theorem packageApply_nothing (h : s.dev.mode = .boot ∨ s.dev.mode = .hold ∨ s.dev.pkg.waiting = none ∨ s.dev.frameNo % 2 ≠ 0 ∨
    disabledLong s.dev = false ∨ (serviceLanes s.dev).length < 2) :
    Completes .packageApply s [] [] fun e => e.out = [] := by
  by_cases hb : s.dev.mode = .boot
  · exact .of_unchanged (exec_packageApply s) (by split <;> simp_all)
  by_cases hh : s.dev.mode = .hold
  · exact .of_unchanged (exec_packageApply s) (by split <;> simp_all)
  cases hp : s.dev.pkg.waiting with
  | none =>
    refine .of_unchanged (exec_packageApply s) ?_
    split
    · rfl
    · rfl
    · rfl
    · next q hq _ _ => exact absurd (hp.symm.trans hq) (by simp)
  | some p =>
    obtain ⟨f, hx, hf⟩ := packageApply_step hb hh hp
    refine .of_unchanged hx (hf.trans (if_pos fun hall => ?_))
    obtain ⟨hn, hd, hl⟩ : s.dev.frameNo % 2 = 0 ∧ disabledLong s.dev = true ∧ 2 ≤ (serviceLanes s.dev).length := hall
    rcases h with h | h | h | h | h | h
    · exact hb h
    · exact hh h
    · simp [hp] at h
    · exact h hn
    · simp [hd] at h
    · omega

/-! The result of a package (R327). -/

/-- The state `k` and the result `c` of a package are shown, and the result is logged. -/
def pkgReported (d : Dev) (k c : Nat) : Dev := ((d.put SAF_PKG_STAT_STATE k).put SAF_PKG_STAT_RESULT c).event .PKG_RESULT srcSafety 0 c

theorem reportPackage_applied (d : Dev) : reportPackage d .applied = pkgReported d 3 0 := rfl
theorem reportPackage_crossCheck (d : Dev) : reportPackage d .crossCheck = pkgReported d 4 0x17 := rfl

theorem pkgReported_sameBut (d : Dev) (k c : Nat) :
    SameBut d (pkgReported d k c) [] ([(SAF_PKG_STAT_STATE, 0), (SAF_PKG_STAT_RESULT, 0)] ++ recordRegs srcSafety) [.log] :=
  SameBut.event (((SameBut.refl d _ _ _).wr _ _ _ (by simp)).wr _ _ _ (by simp)) _ _ _ _ (fun _ hy => .inl (List.mem_append_right _ hy))
      (by simp)

theorem pkgReported_shown {d : Dev} {k c : Nat} (hu : d.rd PWR_STATUS_SHARED_UP ≠ 0) (hk : k < 8) (hc : c < 0x20) :
    (pkgReported d k c).rd SAF_PKG_STAT_STATE = k ∧ (pkgReported d k c).rd SAF_PKG_STAT_RESULT = c ∧
      (pkgReported d k c).logged .PKG_RESULT srcSafety 0 c := by
  refine ⟨?_, ?_, Dev.record_logged _ _ _ _ _ (by simpa using hu) (by decide) (Nat.lt_trans hc (by decide))⟩
  · rw [pkgReported, (Dev.event_sameBut ..).rd_eq _ _ (by simp) (by simp)]
    simpa using hk
  · rw [pkgReported, (Dev.event_sameBut ..).rd_eq _ _ (by simp) (by simp)]
    simpa using Nat.lt_trans hc (by decide)

theorem packageApply_refused (hm : s.dev.mode = .standstill) (hp : s.dev.pkg.waiting = some p) (hn : s.dev.frameNo % 2 = 0)
    (hd : disabledLong s.dev = true) (hl : 2 ≤ (serviceLanes s.dev).length) (hu : s.dev.rd PWR_STATUS_SHARED_UP ≠ 0)
    (hc : p.image.params.schedule ≠ (laneOf s.dev s.dev.firstLane).image.params.schedule)
        (hs : scheduleApplies s.dev p.image.params = false) :
    Completes .packageApply s ([(SAF_PKG_PEND_SEQ, 0), (SAF_PKG_STAT_STATE, 0), (SAF_PKG_STAT_RESULT, 0)] ++ recordRegs srcSafety)
        [.pkg, .log]
      fun e => e.rd SAF_PKG_PEND_SEQ = 0 ∧ e.rd SAF_PKG_STAT_STATE = 4 ∧ e.rd SAF_PKG_STAT_RESULT = 0x17 ∧ e.pkg.waiting = none ∧
        e.logged .PKG_RESULT srcSafety 0 0x17 := by
  obtain ⟨f, hx, hf⟩ := packageApply_step (by simp [hm]) (by simp [hm]) hp
  have hstep : packageStep s.dev.cleared p = pkgReported ((packageTaken s.dev.cleared).put SAF_PKG_PEND_SEQ 0) 4 0x17 :=
    (if_neg (not_not.mpr ⟨hn, hd, hl⟩)).trans ((if_neg fun h => h.2 hm).trans (if_pos ⟨decide_eq_true hc, hs⟩))
  have h1 : SameBut s.dev.cleared ((packageTaken s.dev.cleared).put SAF_PKG_PEND_SEQ 0) []
      ([(SAF_PKG_PEND_SEQ, 0), (SAF_PKG_STAT_STATE, 0), (SAF_PKG_STAT_RESULT, 0)] ++ recordRegs srcSafety) [.pkg, .log] :=
    ((SameBut.refl _ _ _ _).pkg _ (by simp)).wr _ _ _ (by simp)
  have h2 := pkgReported_sameBut ((packageTaken s.dev.cleared).put SAF_PKG_PEND_SEQ 0) 4 0x17
  have hu' : ((packageTaken s.dev.cleared).put SAF_PKG_PEND_SEQ 0).rd PWR_STATUS_SHARED_UP ≠ 0 := by
    rwa [h1.rd_eq _ _ (by simp) (by simp)]
  obtain ⟨hstate, hresult, hlog⟩ := pkgReported_shown hu' (k := 4) (c := 0x17) (by decide) (by decide)
  refine .of_result hx (hf.trans hstep) (h1.next h2 (by simp) (fun x hx => .inl (List.mem_cons_of_mem _ hx)) (by simp))
    ⟨?_, hstate, hresult, ?_, hlog⟩
  · rw [h2.rd_eq _ _ (by simp) (by simp)]
    simp
  · exact congrArg PkgState.waiting (h2.rest .pkg (by simp))

/-! The package that applies: what each step changes, and what it shows. -/

theorem packageStaged_sameBut (d : Dev) (p : Package) : SameBut d (packageStaged d p) [] [] [.lanes, .pkg] :=
  .each (fun b l _ => (SameBut.refl b _ _ _).onLane l _ (by simp)) ((SameBut.refl d _ _ _).pkg _ (by simp))

theorem packageStaged_lane {d : Dev} (p : Package) (hl : l ∈ serviceLanes d) :
    (laneOf (packageStaged d p) l).staging = some p.image ∧ (laneOf (packageStaged d p) l).switchAt = some d.frameNo := by
  have h : (laneOf (packageStaged d p) l).staging = some p.image ∧ (laneOf (packageStaged d p) l).switchAt = some
      (packageStaged d p).frameNo := by
    refine Dev.each_reaches (P := fun b => (laneOf b l).staging = some p.image ∧ (laneOf b l).switchAt = some b.frameNo) (fun b => ?_)
      (fun b k hb => ?_) hl _
    · rw [laneOf_onLane, if_pos rfl]
      exact ⟨rfl, rfl⟩
    · rw [laneOf_onLane]
      split
      · exact ⟨rfl, rfl⟩
      · exact hb
  rwa [show (packageStaged d p).frameNo = d.frameNo from (packageStaged_sameBut d p).frameNo_eq (by simp) (by simp)] at h

theorem packageStaged_waiting (d : Dev) (p : Package) : (packageStaged d p).pkg.waiting = none := by
  have h : SameBut (packageTaken d) (packageStaged d p) [] [] [.lanes] :=
    .each (fun b l _ => (SameBut.refl b _ _ _).onLane l _ (by simp)) (.refl _ _ _ _)
  exact congrArg PkgState.waiting (h.rest .pkg (by simp))

/-- The elements that show a package that has applied. -/
def packageRegs : List (RegField × Nat) :=
  [(SAF_PKG_APPLIED_SEQ, 0), (SAF_PKG_PEND_SEQ, 0), (SYS_MODE_CFG_SLOT, 0), (SAF_PKG_STAT_STATE, 0), (SAF_PKG_STAT_RESULT, 0),
      (ENT_GUARD_NS, 0),
   (ENT_GUARD_NS, 1), (ENT_GUARD_NS, 2)] ++ recordRegs srcSafety

theorem packageShown_sameBut (d : Dev) (hr : rotates p = false) : SameBut d (packageShown d p) [] packageRegs [.log] := by
  unfold packageShown
  rw [if_neg (by simp [hr]), reportPackage_applied]
  refine SameBut.next ((((SameBut.refl d _ _ _).wr _ _ _ ?_).wr _ _ _ ?_).wr _ _ _ ?_) (pkgReported_sameBut ..) (by simp) ?_ (by simp)
  · simp [packageRegs]
  · simp [packageRegs]
  · simp [packageRegs]
  · intro x hx
    exact .inl (by simp only [packageRegs, List.mem_append, List.mem_cons] at hx ⊢; tauto)

theorem packageShown_shows {d : Dev} (hr : rotates p = false) (hu : d.rd PWR_STATUS_SHARED_UP ≠ 0) :
    (packageShown d p).rd SAF_PKG_APPLIED_SEQ = p.seq % 2 ^ 32 ∧ (packageShown d p).rd SAF_PKG_PEND_SEQ = 0 ∧
      (packageShown d p).rd SAF_PKG_STAT_STATE = 3 ∧ (packageShown d p).rd SAF_PKG_STAT_RESULT = 0 ∧
      (packageShown d p).logged .PKG_RESULT srcSafety 0 0 := by
  unfold packageShown
  rw [if_neg (by simp [hr]), reportPackage_applied]
  refine ⟨?_, ?_, pkgReported_shown (k := 3) (c := 0) (by simpa using hu) (by decide) (by decide)⟩
  · rw [(pkgReported_sameBut ..).rd_eq _ _ (by simp) (by simp)]
    simp
  · rw [(pkgReported_sameBut ..).rd_eq _ _ (by simp) (by simp)]
    simp

theorem packageGuards_sameBut (d : Dev) (p : Package) :
    SameBut d (packageGuards d p) [] [(ENT_GUARD_NS, 0), (ENT_GUARD_NS, 1), (ENT_GUARD_NS, 2)] [] :=
  .each (fun b l _ => (SameBut.refl b _ _ _).wr _ _ _ (by cases l <;> simp [Lane.idx])) (.refl _ _ _ _)

theorem packageGuards_guard (d : Dev) (p : Package) (m : Lane) :
    (packageGuards d p).rd ENT_GUARD_NS m.idx = p.image.params.guardNs % 2 ^ ENT_GUARD_NS.width := by
  cases m <;> simp [packageGuards, Lane.all, Dev.each, Lane.idx]

theorem packageLatch_same {d : Dev} (h : p.image.params.latch = d.rd BLF_LATCH_OFFSET) : packageLatch d p = d := if_pos h

theorem packageApply_applies (hm : s.dev.mode = .standstill ∨ s.dev.mode = .run ∨ s.dev.mode = .degraded ∨ s.dev.mode = .safeState)
    (hp : s.dev.pkg.waiting = some p) (hn : s.dev.frameNo % 2 = 0) (hd : disabledLong s.dev = true) (h2 : 2 ≤ (serviceLanes s.dev).length)
    (hl : l ∈ serviceLanes s.dev) (hu : s.dev.rd PWR_STATUS_SHARED_UP ≠ 0) (hper : p.image.params.period = s.dev.rd BLF_CFG_PERIOD)
    (hsched : p.image.params.schedule = (laneOf s.dev s.dev.firstLane).image.params.schedule)
    (hlatch : p.image.params.latch = s.dev.rd BLF_LATCH_OFFSET) (hr : rotates p = false) :
    Completes .packageApply s ([(SAF_PKG_APPLIED_SEQ, 0), (SAF_PKG_PEND_SEQ, 0), (SYS_MODE_CFG_SLOT, 0), (SAF_PKG_STAT_STATE, 0),
      (SAF_PKG_STAT_RESULT, 0), (ENT_GUARD_NS, 0), (ENT_GUARD_NS, 1), (ENT_GUARD_NS, 2)] ++ recordRegs srcSafety) [.lanes, .pkg, .log]
          fun e =>
        (∀ m : Lane, e.rd ENT_GUARD_NS m.idx = p.image.params.guardNs % 2 ^ ENT_GUARD_NS.width) ∧
        (laneOf e l).staging = some p.image ∧ (laneOf e l).switchAt = some s.dev.frameNo ∧ e.pkg.waiting = none ∧
          e.rd SAF_PKG_APPLIED_SEQ = p.seq % 2 ^ 32 ∧ e.rd SAF_PKG_PEND_SEQ = 0 ∧ e.rd SAF_PKG_STAT_STATE = 3 ∧ e.rd SAF_PKG_STAT_RESULT
              = 0 ∧
          e.logged .PKG_RESULT srcSafety 0 0 := by
  have hmode : s.dev.mode ≠ .boot ∧ s.dev.mode ≠ .hold := by rcases hm with hm | hm | hm | hm <;> simp [hm]
  have hnew : changesPeriod s.dev.cleared p = false := decide_eq_false (not_not.mpr hper)
  have hnews : changesSchedule s.dev.cleared p = false := decide_eq_false (not_not.mpr hsched)
  have hstaged := packageStaged_sameBut s.dev.cleared p
  have hshown := packageShown_sameBut (packageStaged s.dev.cleared p) hr
  have hguards := packageGuards_sameBut (packageShown (packageStaged s.dev.cleared p) p) p
  obtain ⟨f, hx, hf⟩ := packageApply_step hmode.1 hmode.2 hp
  have hsame : packageLatch (packageShown (packageStaged s.dev.cleared p) p) p = packageShown (packageStaged s.dev.cleared p) p :=
    packageLatch_same (by rw [hshown.rd_eq _ _ (by simp) (by simp [packageRegs]), hstaged.rd_eq _ _ (by simp) (by simp)]; exact hlatch)
  have hstep : packageStep s.dev.cleared p = packageGuards (packageShown (packageStaged s.dev.cleared p) p) p := by
    unfold packageStep packageApplied
    rw [if_neg (not_not.mpr ⟨hn, hd, h2⟩), hsame]
    simp [hnew, hnews]
  obtain ⟨happ, hpend, hstate, hresult, hlog⟩ := packageShown_shows (d := packageStaged s.dev.cleared p) hr
    (by rwa [hstaged.rd_eq _ _ (by simp) (by simp)])
  obtain ⟨hstaging, hswitch⟩ := packageStaged_lane p (show l ∈ serviceLanes s.dev.cleared from hl)
  have hlane : laneOf (packageGuards (packageShown (packageStaged s.dev.cleared p) p) p) l = laneOf (packageStaged s.dev.cleared p) l :=
    (hguards.laneOf_eq (by simp) l).trans (hshown.laneOf_eq (by simp) l)
  refine .of_result hx (hf.trans hstep) ?_ ⟨packageGuards_guard _ p, ?_, ?_, ?_, ?_, ?_, ?_, ?_, ?_⟩
  · refine ((hstaged.mono ?_ ?_ ?_).next hshown ?_ ?_ ?_).next hguards ?_ ?_ ?_ <;> simp +contextual [packageRegs]
  · rw [hlane]; exact hstaging
  · rw [hlane]; exact hswitch
  · rw [show (packageGuards (packageShown (packageStaged s.dev.cleared p) p) p).pkg = _ from hguards.rest .pkg (by simp),
      show (packageShown (packageStaged s.dev.cleared p) p).pkg = _ from hshown.rest .pkg (by simp)]
    exact packageStaged_waiting ..
  · rw [hguards.rd_eq _ _ (by simp) (by simp)]; exact happ
  · rw [hguards.rd_eq _ _ (by simp) (by simp)]; exact hpend
  · rw [hguards.rd_eq _ _ (by simp) (by simp)]; exact hstate
  · rw [hguards.rd_eq _ _ (by simp) (by simp)]; exact hresult
  · exact Dev.logged_of_log (hguards.rest .log (by simp)) hlog

/-! A package that changes the period. -/

/-- All of every lane is as it was. -/
abbrev LanesSame (d e : Dev) : Prop := LanesKeep (fun x => x) d e

theorem LanesSame.laneOf_eq {d e : Dev} (h : LanesSame d e) (k : Lane) : laneOf e k = laneOf d k := h.keep k

theorem useSchedule_lanes (d : Dev) (k : Lane) (sc : List SchedEntry) (id : Nat) : LanesSame d (useSchedule d k sc id) := by
  unfold useSchedule
  extract_lets d1 d2 d3 d4
  have h3 : LanesSame d d3 := .of_eq (.refl _ d) rfl
  have h4 : LanesSame d d4 := h3.when _ ((LanesKeep.refl _ d3).of_eq rfl)
  exact .each (fun b e => ((LanesKeep.refl _ b).wr _ _ _).wr _ _ _) h4

theorem newSchedule_lanes (d : Dev) (k : Lane) (sc : List SchedEntry) (id : Nat) : LanesSame d (newSchedule d k sc id) := by
  unfold newSchedule
  refine LanesKeep.of_eq (d := if d.rd ENT_START_STATE k.idx = 0 then useSchedule d k sc id
    else onRing d k fun r => { r with schedNext := some (sc, id) }) ?_ rfl
  split
  · exact useSchedule_lanes ..
  · exact .of_eq (.refl _ d) rfl

theorem configure_lanes (d : Dev) (p : Package) : LanesSame d (configure d p) :=
  .each (fun b _ => ((LanesKeep.refl _ b).wr _ _ _).trans (newSchedule_lanes ..)) ((LanesKeep.refl _ d).wr _ _ _)

theorem packageGuards_lanes (d : Dev) (p : Package) : LanesSame d (packageGuards d p) :=
  .each (fun b _ => (LanesKeep.refl _ b).wr _ _ _) (.refl _ d)

theorem packageLatch_lanes (d : Dev) (p : Package) : LanesSame d (packageLatch d p) := by
  unfold packageLatch
  split
  · exact .refl _ d
  · exact .of_eq (.refl _ d) rfl

theorem packagePeriod_lanes (d : Dev) (p : Package) : LanesSame d (packagePeriod d p) :=
  have h : LanesSame d (ringsStopped d) := .each (fun b _ => .of_eq (.refl _ b) rfl) (.refl _ d)
  h.of_eq rfl

theorem showKeys_lanes (d : Dev) : LanesSame d (showKeys d) := by
  unfold showKeys
  extract_lets n d1
  split <;> exact .of_eq (.refl _ d) rfl

theorem enrol_lanes (d : Dev) (h : BitVec 256) : LanesSame d (enrol d h) := by
  unfold enrol
  extract_lets add
  refine LanesKeep.trans ?_ (showKeys_lanes _)
  exact .of_eq (.refl _ d) rfl

theorem packageShown_lanes (d : Dev) (p : Package) : LanesSame d (packageShown d p) := by
  unfold packageShown
  rw [reportPackage_applied]
  refine LanesKeep.of_sameBut (LanesKeep.wr (LanesKeep.wr (LanesKeep.wr ?_ _ _ _) _ _ _) _ _ _) (pkgReported_sameBut ..) (by simp)
  split
  · exact enrol_lanes ..
  · exact .refl _ d

theorem RingsKeep.each {α γ : Type} {q : RingState → α} {a d : Dev} {f : Dev → γ → Dev} {xs : List γ} (hf : ∀ b x, RingsKeep q b (f b x))
    (h : RingsKeep q a d) : RingsKeep q a (d.each xs f) := by
  induction xs generalizing d with
  | nil => exact h
  | cons x xs ih => exact ih (h.trans (hf d x))

theorem useSchedule_startDue (d : Dev) (k : Lane) (sc : List SchedEntry) (id : Nat) :
    RingsKeep RingState.startDue d (useSchedule d k sc id) := by
  unfold useSchedule
  extract_lets d1 d2 d3 d4
  have h1 : RingsKeep RingState.startDue d d1 := (RingsKeep.refl _ d).onRing k _ fun _ => rfl
  have h4 : RingsKeep RingState.startDue d d4 := by
    unfold d4 Dev.when
    split <;> exact h1.of_eq rfl
  exact .each (fun b _ => .of_eq (.refl _ b) rfl) h4

/-- Every ring's start sequence is due once its schedule is new. -/
theorem configure_startDue (d : Dev) (p : Package) (m : Lane) : (ringOf (configure d p) m).startDue = true := by
  have hkeep (b : Dev) (k : Lane) (sc : List SchedEntry) (id : Nat) (hb : (ringOf b m).startDue = true) :
      (ringOf (newSchedule b k sc id) m).startDue = true := by
    unfold newSchedule
    rw [ringOf_onRing]
    split
    · rfl
    · split
      · exact ((useSchedule_startDue b k sc id).keep m).trans hb
      · next hmk _ => rwa [ringOf_onRing, if_neg hmk]
  unfold configure
  extract_lets c d1
  have hdue (b : Dev) : (ringOf (newSchedule (b.wr ENT_GUARD_NS m.idx c.guardNs) m c.schedule (schedIdOf p.digest)) m).startDue = true := by
    unfold newSchedule
    rw [ringOf_onRing, if_pos rfl]
  have hstep (b : Dev) (k : Lane) (hb : (ringOf b m).startDue = true) :
      (ringOf (newSchedule (b.wr ENT_GUARD_NS k.idx c.guardNs) k c.schedule (schedIdOf p.digest)) m).startDue = true :=
    hkeep _ k _ _ (by rwa [ringOf_wr])
  clear_value d1
  refine Dev.each_reaches (P := fun b => (ringOf b m).startDue = true) (x := m) ?_ ?_ ?_ d1
  · exact hdue
  · exact hstep
  · cases m <;> decide

theorem packagePeriod_rings (d : Dev) (p : Package) (m : Lane) :
    (packagePeriod d p).rd ENT_START_STATE m.idx = 0 ∧ (ringOf (packagePeriod d p) m).inFlight = none ∧
      (ringOf (packagePeriod d p) m).startDue = (ringOf d m).startDue := by
  change (ringsStopped d).rd ENT_START_STATE m.idx = 0 ∧ (ringOf (ringsStopped d) m).inFlight = none ∧
    (ringOf (ringsStopped d) m).startDue = (ringOf d m).startDue
  cases m <;> simp [ringsStopped, Lane.all, Dev.each, Lane.idx]

theorem packageApply_newPeriod (hm : s.dev.mode = .standstill) (hp : s.dev.pkg.waiting = some p) (hn : s.dev.frameNo % 2 = 0)
    (hd : disabledLong s.dev = true) (h2 : 2 ≤ (serviceLanes s.dev).length) (hl : l ∈ serviceLanes s.dev)
    (hper : p.image.params.period ≠ s.dev.rd BLF_CFG_PERIOD) (hs : scheduleApplies s.dev p.image.params = true) :
    Answers .packageApply s fun e => (laneOf e l).switchAt = some s.dev.frameNo ∧ e.periodDue = some p.image.params.period ∧
      ∀ m : Lane, e.rd ENT_START_STATE m.idx = 0 ∧ (ringOf e m).inFlight = none ∧ (ringOf e m).startDue = true := by
  have hnew : changesPeriod s.dev.cleared p = true := decide_eq_true hper
  obtain ⟨f, hx, hf⟩ := packageApply_step (by simp [hm]) (by simp [hm]) hp
  have hstep : packageStep s.dev.cleared p =
      packagePeriod (configure (packageGuards (packageLatch (packageShown (packageStaged s.dev.cleared p) p) p) p) p) p := by
    unfold packageStep packageApplied
    rw [if_neg (not_not.mpr ⟨hn, hd, h2⟩), if_neg fun h => h.2 hm, if_neg fun h => absurd (h.2.symm.trans hs) (by simp), if_pos hnew,
      if_pos (.inr hnew)]
  have hlane :=
    ((((packageShown_lanes (packageStaged s.dev.cleared p) p).trans (packageLatch_lanes _ p)).trans (packageGuards_lanes _ p)).trans
    (configure_lanes _ p)).trans (packagePeriod_lanes _ p)
  refine .of_result hx (hf.trans hstep) ⟨?_, rfl, fun m => ?_⟩
  · rw [hlane.keep l]
    exact (packageStaged_lane p (show l ∈ serviceLanes s.dev.cleared from hl)).2
  · obtain ⟨hstart, hflight, hdue⟩ :=
      packagePeriod_rings (configure (packageGuards (packageLatch (packageShown (packageStaged s.dev.cleared p) p) p) p) p) p m
    exact ⟨hstart, hflight, hdue.trans (configure_startDue ..)⟩

end Package

/-- Settles O46: each clause is the lemma above about the package that it names. -/
theorem packageApplies : Obligations.PackageApplies :=
  ⟨fun _ => packageApply_nothing, fun _ _ _ hm hp hn hd h2 _ hu hc hs => packageApply_refused hm hp hn hd h2 hu hc hs,
   fun _ _ _ => packageApply_applies, fun _ _ _ => packageApply_newPeriod⟩

end Sys2Proof.Machine
end

section
/-!
SUPPORT. What a fault of a lane does to the lanes in service, and when it de-energises the device (R79, R117).
-/
namespace Sys2Proof.Machine
open RegField

section Service
variable {d : Dev} {l k : Lane}

theorem inService_congr {e : Dev} (h : e.rd LN_STATUS_STATE l.idx = d.rd LN_STATUS_STATE l.idx) : inService e l = inService d l := by
  unfold inService
  rw [h]

theorem serviceLanes_congr {e : Dev} (h : ∀ k, inService e k = inService d k) : serviceLanes e = serviceLanes d := by
  unfold serviceLanes
  rw [funext h]

@[simp] theorem mem_serviceLanes : l ∈ serviceLanes d ↔ inService d l = true := by
  simp [serviceLanes]
  cases l <;> simp [Lane.all]

/-- A review leaves a lane as it was, or stops its transfer. -/
theorem reviewLanes_mode (d : Dev) (l : Lane) : laneMode (reviewLanes d) l = laneMode d l ∨ laneMode (reviewLanes d) l = .resync := by
  have hkeep (b : Dev) (k : Lane) (hb : laneMode b l = laneMode d l ∨ laneMode b l = .resync) :
      laneMode (enterResync b k true) l = laneMode d l ∨ laneMode (enterResync b k true) l = .resync := by
    by_cases hk : l = k
    · subst hk
      exact .inr (laneMode_enterResync ..)
    · have heq : laneMode (enterResync b k true) l = laneMode b l := laneMode_congr (by simp [enterResync, Lane.idx_inj, hk])
      rwa [heq]
  have hde : laneMode (deEnergise d) l = laneMode d l := (deEnergise_sameBut d).laneMode_eq l (by simp) (by simp)
  unfold reviewLanes
  dsimp only
  split
  · exact .inl rfl
  · exact .inl rfl
  · split
    · exact Dev.each_induct (P := fun b => laneMode b l = laneMode d l ∨ laneMode b l = .resync) (fun b k _ => hkeep b k) (.inl hde)
    · split
      · exact .inl (laneMode_congr (by simp [Dev.setMode]))
      · exact .inl rfl

/-- A review puts no lane into service and takes none out of it. -/
theorem reviewLanes_inService (d : Dev) (k : Lane) : inService (reviewLanes d) k = inService d k := by
  cases hk : inService d k with
  | true =>
    have hm := inService_iff.mp hk
    rw [inService_congr (reviewLanes_state (by simp [hm]) (by simp [hm])), hk]
  | false =>
    have hresync (b : Dev) (l : Lane) (hb : inService b k = false) : inService (enterResync b l true) k = false := by
      unfold inService at hb ⊢
      simp only [enterResync, setLaneMode_state]
      split
      · rfl
      · exact hb
    have hde : inService (deEnergise d) k = false := (inService_congr ((deEnergise_sameBut d).rd_eq _ _ (by simp) (by simp))).trans hk
    unfold reviewLanes
    dsimp only
    split
    · exact hk
    · exact hk
    · split
      · exact Dev.each_induct (P := fun b => inService b k = false) (fun b l _ => hresync b l) hde
      · split
        · exact (inService_congr (by simp [Dev.setMode])).trans hk
        · exact hk

theorem laneFaultOwn_state_other {m : LaneMode} (e : Ev) (again : Bool) (hk : k ≠ l) :
    (laneFaultOwn d l m e again).rd LN_STATUS_STATE k.idx = d.rd LN_STATUS_STATE k.idx := by
  unfold laneFaultOwn
  rw [(lanePenalty_sameBut ..).rd_eq _ _ (by simp) (by simp), (countFault_sameBut ..).rd_eq _ _ (by simp) (by simp)]
  simp [Lane.idx_inj, hk]

theorem laneFaultOwn_safe_of_safe {m : LaneMode} (e : Ev) (again : Bool) (hm : m ≠ .inService) (h : (laneOf d k).safe) :
    (laneOf (laneFaultOwn d l m e again) k).safe := by
  by_cases hk : k = l
  · subst hk
    exact (laneFaultOwn_laneOf d k e again hm).2
  · have hl : laneOf (laneFaultOwn d l m e again) k = laneOf d k := by
      unfold laneFaultOwn
      simp [lanePenalty_laneOf, (countFault_sameBut ..).laneOf_eq, hk]
    rw [hl]
    exact h

/-- A fault takes its own lane out of service and no other. -/
theorem laneFault_inService (d : Dev) (l k : Lane) (e : Ev) (later : Bool) :
    inService (laneFault d l .faulted e later) k = (inService d k && decide (k ≠ l)) := by
  by_cases hk : k = l
  · subst hk
    have hm := (laneFault_lane d k e later (.inl rfl)).1
    have hout : inService (laneFault d k .faulted e later) k ≠ true := fun h => by
      rw [inService_iff, hm] at h
      split at h <;> exact absurd h (by simp)
    simpa using hout
  · have hown (n : LaneMode) (b : Bool) : inService (laneFaultOwn d l n e b) k = inService d k :=
      inService_congr (laneFaultOwn_state_other e b hk)
    simp only [hk, ne_eq, not_false_eq_true, decide_true, Bool.and_true]
    unfold laneFault
    extract_lets was n d1 d2
    split
    · exact hown n was
    · split
      · exact hown n was
      · exact (reviewLanes_inService d2 k).trans (hown n was)

theorem laneFault_faulted_of_ne (e : Ev) (later : Bool) (hk : k ≠ l) (h : laneMode d k = .faulted) :
    laneMode (laneFault d l .faulted e later) k = .faulted := by
  have hown (n : LaneMode) (b : Bool) : laneMode (laneFaultOwn d l n e b) k = .faulted :=
    (laneMode_congr (laneFaultOwn_state_other e b hk)).trans h
  unfold laneFault
  extract_lets was n d1 d2
  split
  · exact hown n was
  · split
    · exact hown n was
    · have h2 : laneMode d2 k = .faulted := hown n was
      exact (laneMode_congr (reviewLanes_state (by simp [h2]) (by simp [h2]))).trans h2

theorem laneFault_safe_of_safe (l : Lane) (e : Ev) (later : Bool) (h : (laneOf d k).safe) :
    (laneOf (laneFault d l .faulted e later) k).safe := by
  unfold laneFault
  extract_lets was n d1 d2
  have hn : n ≠ .inService := by unfold n; split <;> simp
  have h2 : (laneOf d2 k).safe := laneFaultOwn_safe_of_safe e was hn h
  split
  · exact h2
  · split
    · by_cases hk : k = l <;> simpa [hk, LaneState.safe] using h2
    · exact reviewLanes_safe_of_safe h2

end Service

/-! Fewer than two lanes in service (R117). -/

theorem deEnergise_mode {d : Dev} (hb : d.mode ≠ .boot) (hh : d.mode ≠ .hold) : (deEnergise d).mode = .safeState := by
  unfold deEnergise
  extract_lets d1 d2 d3 d4
  have h2 : d2.mode = d.mode := by
    refine SameBut.mode_eq (fs := deenFields.erase SYS_MODE_MODE) (es := []) (ps := [.lanes]) ?_ (by simp) (by simp)
    refine .each (fun b l _ => (onSaf_sameBut ..).mono (by simp) (by simp) (by simp)) (.each (fun b l _ => ?_) (.refl _ _ _ _))
    exact ((SameBut.refl b _ _ _).next (setGates_sameBut ..) (by simp) (by simp) (by simp)).next (setSafeOk_sameBut ..) (by simp)
        (by simp) (by simp)
  have h4 : d4.mode = d.mode := by
    refine (SameBut.mode_eq (a := d2) (fs := deenFields.erase SYS_MODE_MODE) (es := []) (ps := []) ?_ (by simp) (by simp)).trans h2
    refine .each (fun b k _ => (SameBut.refl b _ _ _).wr _ _ _ (by simp)) (.each (fun b u _ => ?_) (.refl _ _ _ _))
    exact (((((SameBut.refl b _ _ _).wr _ _ _ (by simp)).wr _ _ _ (by simp)).wr _ _ _ (by simp)).wr _ _ _ (by simp)).wr _ _ _ (by simp)
  split
  · next h => exact absurd (h4.symm.trans h) hb
  · next h => exact absurd (h4.symm.trans h) hh
  · rw [(withdrawEnables_sameBut _).mode_eq (by simp) (by simp)]
    simp [Dev.setMode, Dev.mode, modeCode]

/-- With fewer than two lanes regarded as in service a review de-energises the device. -/
theorem reviewLanes_few {d : Dev} (hn : (regardedLanes d).length < 2) (hb : d.mode ≠ .boot) (hh : d.mode ≠ .hold) :
    (reviewLanes d).safe ∧ (reviewLanes d).mode = .safeState := by
  have hstop : (stopTransfers (deEnergise d)).mode = .safeState :=
    (SameBut.mode_eq (.each (fun b l _ => enterResync_sameBut b l true) (.refl _ _ _ _)) (by simp) (by simp)).trans (deEnergise_mode hb hh)
  have he : reviewLanes d = stopTransfers (deEnergise d) := by
    unfold reviewLanes
    dsimp only
    split
    · next h => exact absurd h hb
    · next h => exact absurd h hh
    · exact if_pos hn
  rw [he]
  exact ⟨fun l => stopTransfers_safe_of_safe (deEnergise_safe d l), hstop⟩

/-- A fault that leaves fewer than two lanes in service, seen by the others at once, de-energises the device. -/
theorem laneFault_few {d : Dev} {l : Lane} (e : Ev) (hl : inService d l = true) (hu : ∀ k, (laneOf d k).unseen = false)
    (hn : (serviceLanes d).length ≤ 2) (hb : d.mode ≠ .boot) (hh : d.mode ≠ .hold) :
    (laneFault d l .faulted e).safe ∧ (laneFault d l .faulted e).mode = .safeState := by
  have heq : laneFault d l .faulted e = reviewLanes (laneFaultOwn d l .faulted e true) := by
    unfold laneFault
    extract_lets was n d1 d2
    have hw : was = true := hl
    have hn : n = .faulted := if_neg (by simp [inService_iff.mp hl])
    have h2 : d2 = laneFaultOwn d l .faulted e true := by
      change laneFaultOwn d l n e was = _
      rw [hn, hw]
    rw [if_neg (by simp [hw]), if_neg (by simp), h2]
  have hmode : (laneFaultOwn d l .faulted e true).mode = d.mode := by
    unfold laneFaultOwn
    rw [(lanePenalty_sameBut ..).mode_eq (by simp) (by simp), (countFault_sameBut ..).mode_eq (by simp) (by simp)]
    exact SameBut.mode_eq ((setLaneMode_sameBut d l .faulted).onLane l _ (by simp)) (by simp) (by simp)
  rw [heq]
  refine reviewLanes_few ?_ (hmode ▸ hb) (hmode ▸ hh)
  have hunseen (k : Lane) : (laneOf (laneFaultOwn d l .faulted e true) k).unseen = false :=
    (LaneState.standing_eq ((laneFaultOwn_standing d l .faulted e true).keep k)).2.2.2.trans (hu k)
  have hin (k : Lane) : inService (laneFaultOwn d l .faulted e true) k = (inService d k && decide (k ≠ l)) := by
    by_cases hk : k = l
    · subst hk
      simp [inService, laneCode]
    · rw [inService_congr (laneFaultOwn_state_other e true hk)]
      simp [hk]
  have hreg (k : Lane) : regarded (laneFaultOwn d l .faulted e true) k = (inService d k && decide (k ≠ l)) := by
    simp [regarded, hunseen, hin]
  have hlist : regardedLanes (laneFaultOwn d l .faulted e true) = (serviceLanes d).filter fun k => decide (k ≠ l) := by
    simp [regardedLanes, serviceLanes, List.filter_filter, hreg, Bool.and_comm]
  rw [hlist]
  have hlt : ((serviceLanes d).filter fun k => decide (k ≠ l)).length < (serviceLanes d).length :=
    List.length_filter_lt_length_iff_exists.mpr ⟨l, mem_serviceLanes.mpr hl, by simp⟩
  omega

end Sys2Proof.Machine
end

section
/-!
SUPPORT. The end of an arbitration with three and with two lanes in service (R96 to R98, Tables 3-6 and 3-7).
-/
namespace Sys2Proof.Machine
open RegField

theorem exec_arbStart (sigs : PerLane (BitVec 64)) (s : State) : exec (.arbStart sigs) s = execArbStart sigs s := rfl
theorem exec_arbJudge (l : Lane) (s : State) : exec (.arbJudge l) s = execArbJudge l s := rfl
theorem exec_arbOutcome (s : State) : exec .arbOutcome s = execArbOutcome s := rfl

/-! A suspect that arbitration faults. -/

/-- Arbitration has faulted lane `m`: it is FAULTED, shows it, and its outputs are off. -/
def Dev.arbFaulted (d : Dev) (m : Lane) : Prop :=
  laneMode d m = .faulted ∧ d.rd LN_STATUS_ARB_FAULT m.idx = 1 ∧ d.rd LN_ARB_LAST_OUTCOME m.idx = 2 ∧ (laneOf d m).safe

/-- The registers of an arbitration's fault. -/
@[simp] def arbFaultFields : List RegField := laneFaultFields ++ recordFields ++ [LN_STATUS_ARB_FAULT, LN_ARB_LAST_OUTCOME]

/-- What arbitration shows of the suspect `m` and records of its fault, before the lane faults. -/
def arbFaultShown (d : Dev) (m : Lane) (detail : Nat) : Dev :=
  let d := (d.flag LN_STATUS_ARB_FAULT m.idx).wr LN_ARB_LAST_OUTCOME m.idx 2
  d.each ((serviceLanes d).filter fun l => decide (l ≠ m)) fun d l => d.event .ARB_FAULT (srcLane l) m.idx detail

theorem arbFault_eq (d : Dev) (m : Lane) (detail : Nat) :
    arbFault d m detail = laneFault (arbFaultShown d m detail) m .faulted .ARB_FAULT := rfl

theorem events_sameBut (d : Dev) (ls : List Lane) (e : Ev) (i n : Nat) :
    SameBut d (d.each ls fun d l => d.event e (srcLane l) i n) recordFields [] [.log] :=
  .each (fun b l _ => (SameBut.refl b _ _ _).eventIn _ _ _ _ (by simp) (by simp)) (.refl _ _ _ _)

theorem arbFaultShown_sameBut (d : Dev) (m : Lane) (detail : Nat) :
    SameBut d (arbFaultShown d m detail) (recordFields ++ [LN_STATUS_ARB_FAULT, LN_ARB_LAST_OUTCOME]) [] [.log] :=
  SameBut.next (((SameBut.refl d _ _ _).wr _ _ _ (by simp)).wr _ _ _ (by simp)) (events_sameBut ..) (by simp) (by simp) (by simp)

theorem arbFault_sameBut (d : Dev) (m : Lane) (detail : Nat) : SameBut d (arbFault d m detail) arbFaultFields [] [.lanes, .fault, .log] :=
  SameBut.next ((arbFaultShown_sameBut d m detail).mono (by simp) (by simp) (by simp)) (laneFault_sameBut ..) (by simp) (by simp) (by simp)

theorem arbFault_standing (d : Dev) (m : Lane) (detail : Nat) : LanesKeep LaneState.standing d (arbFault d m detail) :=
  ((LanesKeep.refl _ d).of_sameBut (arbFaultShown_sameBut d m detail) (by simp)).trans (laneFault_standing ..)

theorem arbFaultShown_inService (d : Dev) (m k : Lane) (detail : Nat) : inService (arbFaultShown d m detail) k = inService d k :=
  inService_congr ((arbFaultShown_sameBut d m detail).rd_eq _ _ (by simp) (by simp))

theorem arbFault_inService (d : Dev) (m k : Lane) (detail : Nat) :
    inService (arbFault d m detail) k = (inService d k && decide (k ≠ m)) := by
  rw [arbFault_eq, laneFault_inService, arbFaultShown_inService]

theorem arbFaultShown_shows (d : Dev) (m : Lane) (detail : Nat) :
    (arbFaultShown d m detail).rd LN_STATUS_ARB_FAULT m.idx = 1 ∧ (arbFaultShown d m detail).rd LN_ARB_LAST_OUTCOME m.idx = 2 := by
  unfold arbFaultShown
  constructor <;> rw [(events_sameBut ..).rd_eq _ _ (by simp) (by simp)] <;> simp

/-- A suspect that is not in DEBUG is FAULTED by arbitration. -/
theorem arbFault_faulted {d : Dev} {m : Lane} (detail : Nat) (hm : laneMode d m ≠ .debug) : (arbFault d m detail).arbFaulted m := by
  have hsame := laneFault_sameBut (arbFaultShown d m detail) m .faulted .ARB_FAULT false
  obtain ⟨hmode, hsafe⟩ := laneFault_lane (arbFaultShown d m detail) m .ARB_FAULT false (.inl rfl)
  obtain ⟨hfault, hlast⟩ := arbFaultShown_shows d m detail
  have hd : laneMode (arbFaultShown d m detail) m ≠ .debug := by
    rwa [(arbFaultShown_sameBut d m detail).laneMode_eq m (by simp) (by simp)]
  rw [if_neg (fun h => hd h.1)] at hmode
  refine ⟨hmode, ?_, ?_, hsafe⟩
  · rw [arbFault_eq, hsame.rd_eq _ _ (by simp) (by simp), hfault]
  · rw [arbFault_eq, hsame.rd_eq _ _ (by simp) (by simp), hlast]

/-- A lane that arbitration has faulted stays so when it faults another. -/
theorem Dev.arbFaulted.arbFault {d : Dev} {m k : Lane} (h : d.arbFaulted m) (hk : m ≠ k) (detail : Nat) :
    (arbFault d k detail).arbFaulted m := by
  obtain ⟨hmode, hfault, hlast, hsafe⟩ := h
  have hsame := laneFault_sameBut (arbFaultShown d k detail) k .faulted .ARB_FAULT false
  have hev (b : Dev) (ls : List Lane) (e : Ev) (i n : Nat) (f : RegField) (j : Nat) (hf : f ∉ recordFields) :
      (b.each ls fun d l => d.event e (srcLane l) i n).rd f j = b.rd f j := (events_sameBut b ls e i n).rd_eq _ _ hf (by simp)
  have hshown := arbFaultShown_sameBut d k detail
  refine ⟨?_, ?_, ?_, ?_⟩
  · rw [arbFault_eq]
    exact laneFault_faulted_of_ne _ _ hk ((hshown.laneMode_eq m (by simp) (by simp)).trans hmode)
  · rw [arbFault_eq, hsame.rd_eq _ _ (by simp) (by simp), arbFaultShown, hev _ _ _ _ _ _ _ (by simp)]
    simp [Lane.idx_inj, hk, hfault]
  · rw [arbFault_eq, hsame.rd_eq _ _ (by simp) (by simp), arbFaultShown, hev _ _ _ _ _ _ _ (by simp)]
    simp [Lane.idx_inj, hk, hlast]
  · rw [arbFault_eq]
    exact laneFault_safe_of_safe _ _ _ (by rw [hshown.laneOf_eq (by simp)]; exact hsafe)

/-- A lane in service stays so, or is FAULTED, when arbitration faults a suspect, and one that is FAULTED stays so. -/
theorem arbFault_stands {d : Dev} (m : Lane) {k : Lane} (detail : Nat) (h : laneMode d k = .inService ∨ laneMode d k = .faulted) :
    laneMode (arbFault d m detail) k = .inService ∨ laneMode (arbFault d m detail) k = .faulted := by
  by_cases hk : k = m
  · subst hk
    exact .inr (arbFault_faulted detail (by rcases h with h | h <;> simp [h])).1
  · rcases h with h | h
    · exact .inl (inService_iff.mp (by simp [arbFault_inService, inService_iff.mpr h, hk]))
    · have hf : laneMode (arbFaultShown d m detail) k = .faulted :=
        ((arbFaultShown_sameBut d m detail).laneMode_eq k (by simp) (by simp)).trans h
      exact .inr (laneFault_faulted_of_ne .ARB_FAULT false hk hf)

/-- Arbitration faults each lane of a list in turn. -/
theorem arbFaults_faulted {d : Dev} {m : Lane} {ls : List Lane} (h : laneMode d m = .inService ∨ laneMode d m = .faulted) (hm : m ∈ ls) :
    (d.each ls fun e k => arbFault e k 0).arbFaulted m := by
  have hkeep (b : Dev) (k : Lane) (hb : b.arbFaulted m) : (arbFault b k 0).arbFaulted m := by
    by_cases hk : m = k
    · subst hk
      exact arbFault_faulted 0 (by simp [hb.1])
    · exact hb.arbFault hk 0
  induction ls generalizing d with
  | nil => cases hm
  | cons k ks ih =>
    rcases List.mem_cons.mp hm with rfl | hm
    · have hfirst : (arbFault d m 0).arbFaulted m := arbFault_faulted 0 (by rcases h with h | h <;> simp [h])
      exact Dev.each_induct (P := fun b => b.arbFaulted m) (d := arbFault d m 0) (fun b k _ => hkeep b k) hfirst
    · exact ih (arbFault_stands k 0 h) hm

/-! The end of an arbitration (R96, R97). -/

theorem endArb_sameBut (d : Dev) (c : List (Nat × Int)) : SameBut d (endArb d c) [LN_STATUS_IN_VOTE] [] [.lanes] :=
  SameBut.next (.each (fun b l _ => (SameBut.refl b _ _ _).onLane l _ (by simp)) (.refl d _ _ _)) (showVote_sameBut _) (by simp)
      (by simp) (by simp)

theorem endArb_laneOf (d : Dev) (c : List (Nat × Int)) (k : Lane) : laneOf (endArb d c) k = { laneOf d k with
    arb := { held := (laneOf d k).arb.held, cleared := (laneOf d k).arb.cleared ++ c } } := by
  cases k <;> simp [endArb, Lane.all, Dev.each]

theorem endArb_inService (d : Dev) (c : List (Nat × Int)) (k : Lane) : inService (endArb d c) k = inService d k :=
  inService_congr ((endArb_sameBut d c).rd_eq _ _ (by simp) (by simp))

/-- No lane takes part in an arbitration. -/
def Dev.arbEnded (d : Dev) : Prop := ∀ l : Lane, (laneOf d l).arb.phase = 0

theorem endArb_ended (d : Dev) (c : List (Nat × Int)) : (endArb d c).arbEnded := fun l => by simp [endArb_laneOf]

theorem Dev.arbEnded.keep {d e : Dev} (h : d.arbEnded) (hk : LanesKeep LaneState.standing d e) : e.arbEnded := fun l => by
  rw [(LaneState.standing_eq (hk.keep l)).2.1]
  exact h l

section Outcome
variable {s : State} {m : Lane}

/-- The suspects of the arbitration, among the lanes in service. -/
def suspectsInService (d : Dev) : List Lane := (serviceLanes d).filter fun m => (laneOf d d.firstLane).arb.suspects.testBit m.idx

/-- The outcome with three lanes in service. -/
def outcomeOfThree (d : Dev) (sus : List Lane) : Dev :=
  match sus with
  | [m] =>
    if failsArb d m then arbFault (endArb d []) m (splitDetail d m)
    else
      let e := endArb d [(m.idx, d.tb.ext)]
      let e := e.each ((serviceLanes d).filter fun l => decide (l ≠ m)) fun e l => e.event .ARB_CLEAR (srcLane l) m.idx
      reviewLanes (enterResync (e.wr LN_ARB_LAST_OUTCOME m.idx 1) m true)
  | _ =>
    let bad := sus.map fun m => (m, failsArb d m, splitDetail d m)
    let e := d.each (serviceLanes d) fun e l => e.wr LN_ARB_LAST_OUTCOME l.idx 3
    (stopAll (endArb e []) 0x04).each bad fun e p => if p.2.1 then arbFault e p.1 p.2.2 else e

/-- The outcome with two lanes in service (Table 3-7). -/
def outcomeOfTwo (d : Dev) (sus : List Lane) : Dev :=
  let bad := (serviceLanes d).filter fun m => failsArb d m
  if sus = [] then endArb d []
  else if bad = [] then stopAll ((endArb d []).each (serviceLanes d) fun e l => e.wr LN_ARB_LAST_OUTCOME l.idx 3) 0x04
  else (endArb d []).each bad fun e m => arbFault e m 0

theorem execArbOutcome_eq (s : State) : exec .arbOutcome s = s.run fun d =>
    if (laneOf d d.firstLane).arb.phase = 3 ∧ serviceLanes d ≠ [] then
      if (serviceLanes d).length = 3 then outcomeOfThree (d.reach 4000) (suspectsInService d)
      else if (serviceLanes d).length = 2 then outcomeOfTwo (d.reach 4000) (suspectsInService d)
      else endArb (d.reach 4000) []
    else d := rfl

theorem arbOutcome_ofThree {post : Dev → Prop} (hp : (laneOf s.dev s.dev.firstLane).arb.phase = 3) (hn : (serviceLanes s.dev).length = 3)
    (h : post (outcomeOfThree (s.dev.cleared.reach 4000) (suspectsInService s.dev))) : Answers .arbOutcome s post := by
  have hne : serviceLanes s.dev ≠ [] := by intro h0; simp [h0] at hn
  exact .of_result (execArbOutcome_eq s) ((if_pos ⟨hp, hne⟩).trans (if_pos hn)) h

theorem arbOutcome_ofTwo {post : Dev → Prop} (hp : (laneOf s.dev s.dev.firstLane).arb.phase = 3) (hn : (serviceLanes s.dev).length = 2)
    (h : post (outcomeOfTwo (s.dev.cleared.reach 4000) (suspectsInService s.dev))) : Answers .arbOutcome s post := by
  have hne : serviceLanes s.dev ≠ [] := by intro h0; simp [h0] at hn
  have h3 : ¬ (serviceLanes s.dev).length = 3 := by omega
  exact .of_result (execArbOutcome_eq s) ((if_pos ⟨hp, hne⟩).trans ((if_neg h3).trans (if_pos hn))) h

end Outcome

/-! The lanes in service, two or three. -/

theorem inService_of_three {d : Dev} (h : (serviceLanes d).length = 3) (k : Lane) : inService d k = true :=
  List.length_filter_eq_length_iff.mp (show (serviceLanes d).length = Lane.all.length from h) k (by cases k <;> simp [Lane.all])

theorem serviceLanes_of_three {d : Dev} (h : (serviceLanes d).length = 3) : serviceLanes d = Lane.all :=
  List.filter_eq_self.mpr fun k _ => inService_of_three h k

section Two
variable {d : Dev} {l m : Lane}

theorem pair_length (hne : l ≠ m) : (Lane.all.filter fun k => decide (k = l ∨ k = m)).length = 2 := by
  cases l <;> cases m <;> simp [Lane.all] at hne ⊢

theorem inService_of_pair (h : serviceLanes d = Lane.all.filter fun k => decide (k = l ∨ k = m)) (k : Lane) :
    inService d k = decide (k = l ∨ k = m) := by
  rw [Bool.eq_iff_iff, ← mem_serviceLanes, h]
  cases k <;> simp [Lane.all]

end Two

theorem reviewLanes_resync {d : Dev} {m : Lane} (h : laneMode d m = .resync) : laneMode (reviewLanes d) m = .resync := by
  rcases reviewLanes_mode d m with hm | hm
  · exact hm.trans h
  · exact hm

section Outcome
variable {s : State} {m : Lane}

theorem suspectsInService_of_three {d : Dev} (hn : (serviceLanes d).length = 3) (hs : (laneOf d d.firstLane).arb.suspects = 2 ^ m.idx) :
    suspectsInService d = [m] := by
  unfold suspectsInService
  rw [serviceLanes_of_three hn, hs]
  cases m <;> decide

theorem arbOutcome_faults (hp : (laneOf s.dev s.dev.firstLane).arb.phase = 3) (hn : (serviceLanes s.dev).length = 3)
    (hs : (laneOf s.dev s.dev.firstLane).arb.suspects = 2 ^ m.idx) (hf : failsArb s.dev m = true) :
    Answers .arbOutcome s fun e => laneMode e m = .faulted ∧ e.rd LN_STATUS_ARB_FAULT m.idx = 1 ∧ e.rd LN_ARB_LAST_OUTCOME m.idx = 2 ∧
      (e.lanes.get m).safe ∧ ∀ l : Lane, (laneOf e l).arb.phase = 0 := by
  refine arbOutcome_ofThree hp hn ?_
  have hf' : failsArb (s.dev.cleared.reach 4000) m = true := hf
  rw [suspectsInService_of_three hn hs]
  simp only [outcomeOfThree, if_pos hf']
  have hm : laneMode (endArb (s.dev.cleared.reach 4000) []) m ≠ .debug := by
    have hin : inService (endArb (s.dev.cleared.reach 4000) []) m = true := (endArb_inService ..).trans (inService_of_three hn m)
    simp [inService_iff.mp hin]
  obtain ⟨hmode, hfault, hlast, hsafe⟩ := arbFault_faulted (splitDetail (s.dev.cleared.reach 4000) m) hm
  have hended := endArb_ended (s.dev.cleared.reach 4000) []
  exact ⟨hmode, hfault, hlast, hsafe, hended.keep (arbFault_standing ..)⟩

/-- What follows for a suspect that no judge fails: it takes part again through RESYNC. -/
def arbCleared (d : Dev) (m : Lane) : Dev :=
  let e := endArb d [(m.idx, d.tb.ext)]
  let e := e.each ((serviceLanes d).filter fun l => decide (l ≠ m)) fun e l => e.event .ARB_CLEAR (srcLane l) m.idx
  reviewLanes (enterResync (e.wr LN_ARB_LAST_OUTCOME m.idx 1) m true)

theorem arbCleared_resync (d : Dev) (m : Lane) : laneMode (arbCleared d m) m = .resync ∧ (arbCleared d m).rd LN_ARB_LAST_OUTCOME m.idx = 1 ∧
    (laneOf (arbCleared d m) m).safe ∧ (arbCleared d m).arbEnded := by
  unfold arbCleared
  extract_lets e0 e1
  have hended : e1.arbEnded := Dev.arbEnded.keep (endArb_ended d _) ((LanesKeep.refl _ _).of_sameBut (events_sameBut ..) (by simp))
  refine ⟨reviewLanes_resync (laneMode_enterResync ..), ?_, reviewLanes_safe_of_safe (enterResync_safe ..), hended.keep ?_⟩
  · rw [(reviewLanes_sameBut _).rd_eq _ _ (by simp) (by simp), (enterResync_sameBut ..).rd_eq _ _ (by simp) (by simp)]
    simp
  · exact LanesKeep.trans (LanesKeep.trans ((LanesKeep.refl _ e1).wr _ _ _) (enterResync_standing ..)) (reviewLanes_standing _)

theorem arbOutcome_clears (hp : (laneOf s.dev s.dev.firstLane).arb.phase = 3) (hn : (serviceLanes s.dev).length = 3)
    (hs : (laneOf s.dev s.dev.firstLane).arb.suspects = 2 ^ m.idx) (hf : failsArb s.dev m = false) :
    Answers .arbOutcome s fun e => laneMode e m = .resync ∧ e.rd LN_ARB_LAST_OUTCOME m.idx = 1 ∧ (e.lanes.get m).safe ∧
      ∀ l : Lane, (laneOf e l).arb.phase = 0 := by
  refine arbOutcome_ofThree hp hn ?_
  have hf' : failsArb (s.dev.cleared.reach 4000) m = false := hf
  rw [suspectsInService_of_three hn hs]
  have he : outcomeOfThree (s.dev.cleared.reach 4000) [m] = arbCleared (s.dev.cleared.reach 4000) m := if_neg (by simp [hf'])
  rw [he]
  exact arbCleared_resync ..

theorem arbOutcome_withoutSuspect (hp : (laneOf s.dev s.dev.firstLane).arb.phase = 3) (hn : (serviceLanes s.dev).length = 2)
    (hs : ∀ m ∈ serviceLanes s.dev, (laneOf s.dev s.dev.firstLane).arb.suspects.testBit m.idx = false) :
    Answers .arbOutcome s fun e => (∀ l : Lane, (laneOf e l).arb.phase = 0 ∧ laneMode e l = laneMode s.dev l ∧
      (laneOf e l).saf = (laneOf s.dev l).saf) ∧ e.mode = s.dev.mode := by
  have hnone : suspectsInService s.dev = [] := List.filter_eq_nil_iff.mpr fun m hm => by simp [hs m hm]
  have he : outcomeOfTwo (s.dev.cleared.reach 4000) (suspectsInService s.dev) = endArb (s.dev.cleared.reach 4000) [] := if_pos hnone
  refine arbOutcome_ofTwo hp hn ?_
  rw [he]
  have hsame := endArb_sameBut (s.dev.cleared.reach 4000) []
  exact ⟨fun l => ⟨by simp [endArb_laneOf], hsame.laneMode_eq l (by simp) (by simp), by simp [endArb_laneOf]⟩, hsame.mode_eq (by simp)
      (by simp)⟩

end Outcome

/-! A stop of every unit (Table 4-3). -/

theorem SMap.get_modify {α : Type} [DecidableEq α] (z : α) (m : SMap α) (k j : Nat) (f : α → α) :
    SMap.get z (SMap.modify z m k f) j = if j = k then f (SMap.get z m j) else SMap.get z m j := by
  unfold SMap.modify
  rw [SMap.get_set]
  split <;> [(subst j; rfl); rfl]

theorem SMap.get_modify_range {α : Type} [DecidableEq α] (z : α) (m : SMap α) (n j : Nat) (f : α → α) :
    SMap.get z ((List.range n).foldl (fun m u => SMap.modify z m u f) m) j = if j < n then f (SMap.get z m j) else SMap.get z m j := by
  induction n with
  | zero => rfl
  | succ n ih =>
    rw [List.range_succ, List.foldl_append, List.foldl_cons, List.foldl_nil, SMap.get_modify, ih]
    rcases Nat.lt_trichotomy j n with h | rfl | h
    · simp [Nat.ne_of_lt h, h, Nat.lt_succ_of_lt h]
    · simp
    · simp [Nat.ne_of_gt h, Nat.not_lt_of_gt h, show ¬ j < n + 1 by omega]

/-- A demand put on a unit is there, active and at least of its kind. -/
theorem addDemand_demands (x : UnitDyn) (cause kind index : Nat) :
    ∃ q ∈ (addDemand x cause kind index).demands, q.cause = cause ∧ kind ≤ q.kind ∧ q.active = true := by
  unfold addDemand
  dsimp only
  split
  · next h =>
    obtain ⟨q, hq, hsame⟩ := List.any_eq_true.mp h
    refine ⟨_, List.mem_map_of_mem hq, ?_⟩
    rw [if_pos hsame]
    exact ⟨(of_decide_eq_true hsame).1, le_max_right .., rfl⟩
  · exact ⟨{ cause := cause, kind := kind, index := index }, by simp, rfl, le_rfl, rfl⟩

/-- What a stop of every unit does to the safety state of a lane in service. -/
def stopUnits (cause : Nat) (x : SafState) : SafState :=
  { x with stopOutcome := true, brakes := dropTests x.brakes,
           units := (List.range 32).foldl (fun m u => SMap.modify {} m u fun y => addDemand y cause 4 0) x.units }

theorem stopAll_eq (d : Dev) (cause : Nat) : stopAll d cause = d.each (serviceLanes d) fun d l => onSaf d l (stopUnits cause) := rfl

/-- Every unit is stopped for this cause. -/
def SafState.stopped (x : SafState) (cause : Nat) : Prop :=
  x.stopOutcome = true ∧ ∀ u, u < 32 → ∃ q ∈ (unitDyn x u).demands, q.cause = cause ∧ 4 ≤ q.kind ∧ q.active = true

theorem stopUnits_stopped (cause : Nat) (x : SafState) : (stopUnits cause x).stopped cause := by
  refine ⟨rfl, fun u hu => ?_⟩
  have h : unitDyn (stopUnits cause x) u = addDemand (unitDyn x u) cause 4 0 := by
    rw [unitDyn, stopUnits, SMap.get_modify_range, if_pos hu, unitDyn]
  rw [h]
  exact addDemand_demands ..

theorem onSaf_saf (d : Dev) (y l : Lane) (f : SafState → SafState) :
    (laneOf (onSaf d y f) l).saf = if l = y then f (laneOf d y).saf else (laneOf d l).saf := by
  by_cases h : l = y <;> simp [onSaf, h]

theorem stopAll_stopped {d : Dev} {l : Lane} (cause : Nat) (hl : inService d l = true) :
    (laneOf (stopAll d cause) l).saf.stopped cause := by
  rw [stopAll_eq]
  refine Dev.each_reaches (P := fun b => (laneOf b l).saf.stopped cause) (x := l) (fun b => ?_) (fun b y hb => ?_)
      (mem_serviceLanes.mpr hl) d
  · rw [onSaf_saf, if_pos rfl]
    exact stopUnits_stopped ..
  · rw [onSaf_saf]
    split
    · exact stopUnits_stopped ..
    · exact hb

theorem stopAll_sameBut (d : Dev) (cause : Nat) : SameBut d (stopAll d cause) [] [] [.lanes] :=
  .each (fun _ _ _ => onSaf_sameBut ..) (.refl _ _ _ _)

/-! The four outcomes with two lanes in service (R98, Table 3-7). -/

section OutcomeOfTwo
variable {s : State} {l m : Lane}

theorem suspectsInService_ne_nil (h : ∃ m ∈ serviceLanes s.dev, (laneOf s.dev s.dev.firstLane).arb.suspects.testBit m.idx = true) :
    suspectsInService s.dev ≠ [] := by
  obtain ⟨m, hm, hs⟩ := h
  exact List.ne_nil_of_mem (List.mem_filter.mpr ⟨hm, hs⟩)

/-- Lane `l` shows the outcome that names no lane. -/
theorem lastOutcome_shown {d : Dev} (ls : List Lane) (hl : l ∈ ls) :
    (d.each ls fun e l => e.wr LN_ARB_LAST_OUTCOME l.idx 3).rd LN_ARB_LAST_OUTCOME l.idx = 3 := by
  refine Dev.each_reaches (P := fun b => b.rd LN_ARB_LAST_OUTCOME l.idx = 3) (x := l) (fun b => by simp) (fun b y hb => ?_) hl d
  by_cases hy : l = y <;> simp [Lane.idx_inj, hy, hb]

theorem arbOutcome_bothPass (hp : (laneOf s.dev s.dev.firstLane).arb.phase = 3) (hn : (serviceLanes s.dev).length = 2)
    (hf : ∀ m ∈ serviceLanes s.dev, failsArb s.dev m = false) (hl : l ∈ serviceLanes s.dev)
    (hs : ∃ m ∈ serviceLanes s.dev, (laneOf s.dev s.dev.firstLane).arb.suspects.testBit m.idx = true) :
    Answers .arbOutcome s fun e => (laneOf e l).saf.stopOutcome = true ∧ laneMode e l = .inService ∧ e.rd LN_ARB_LAST_OUTCOME l.idx = 3 ∧
      ∀ u : Fin 32, ∃ q ∈ (unitDyn (laneOf e l).saf u).demands, 4 ≤ q.kind ∧ q.active = true := by
  let d := s.dev.cleared.reach 4000
  let e := (endArb d []).each (serviceLanes d) fun e l => e.wr LN_ARB_LAST_OUTCOME l.idx 3
  have hbad : ((serviceLanes d).filter fun m => failsArb d m) = [] := List.filter_eq_nil_iff.mpr fun m hm => by
    rw [show failsArb d m = false from hf m hm]
    simp
  have he : outcomeOfTwo d (suspectsInService s.dev) = stopAll e 0x04 := (if_neg (suspectsInService_ne_nil hs)).trans (if_pos hbad)
  have hin : inService e l = true := by
    have hwr : e.rd LN_STATUS_STATE l.idx = (endArb d []).rd LN_STATUS_STATE l.idx :=
      SameBut.rd_eq (fs := [LN_ARB_LAST_OUTCOME]) (es := []) (ps := [])
        (.each (fun b k _ => (SameBut.refl b _ _ _).wr _ _ _ (by simp)) (.refl _ _ _ _)) _ _ (by simp) (by simp)
    rw [inService_congr hwr, endArb_inService]
    exact mem_serviceLanes.mp hl
  refine arbOutcome_ofTwo hp hn ?_
  rw [he]
  obtain ⟨hstop, hdem⟩ := stopAll_stopped 0x04 hin
  have hsame := stopAll_sameBut e 0x04
  refine ⟨hstop, ?_, ?_, fun u => ?_⟩
  · exact (hsame.laneMode_eq l (by simp) (by simp)).trans (inService_iff.mp hin)
  · rw [hsame.rd_eq _ _ (by simp) (by simp)]
    exact lastOutcome_shown _ hl
  · obtain ⟨q, hq, -, hk, ha⟩ := hdem u u.isLt
    exact ⟨q, hq, hk, ha⟩

theorem Dev.each_singleton {α : Type} (d : Dev) (x : α) (f : Dev → α → Dev) : d.each [x] f = f d x := rfl

theorem failing_of_pair {d : Dev} (hne : l ≠ m) (hl : serviceLanes d = Lane.all.filter fun k => decide (k = l ∨ k = m))
    (hf : failsArb d l = true)
    (hg : failsArb d m = false) : ((serviceLanes d).filter fun m => failsArb d m) = [l] := by
  rw [hl]
  cases l <;> cases m <;> simp [Lane.all, hf, hg] at hne ⊢

/-- With two lanes in service the fault of one, seen at once, de-energises the device. -/
theorem arbFault_few {d : Dev} (detail : Nat) (hl : inService d l = true) (hn : (serviceLanes d).length ≤ 2)
    (hu : ∀ k : Lane, (laneOf d k).unseen = false) (hb : d.mode ≠ .boot) (hh : d.mode ≠ .hold) :
    (arbFault d l detail).safe ∧ (arbFault d l detail).mode = .safeState := by
  have hsame := arbFaultShown_sameBut d l detail
  have hmode := hsame.mode_eq (by simp) (by simp)
  have hservice : serviceLanes (arbFaultShown d l detail) = serviceLanes d :=
    serviceLanes_congr fun k => arbFaultShown_inService d l k detail
  rw [arbFault_eq]
  refine laneFault_few _ ?_ (fun k => ?_) (hservice ▸ hn) (hmode ▸ hb) (hmode ▸ hh)
  · rw [arbFaultShown_inService, hl]
  · rw [hsame.laneOf_eq (by simp), hu k]

theorem outcomeOfTwo_oneFails {d : Dev} {sus : List Lane} (hs : sus ≠ []) (hne : l ≠ m)
    (hl : serviceLanes d = Lane.all.filter fun k => decide (k = l ∨ k = m)) (hf : failsArb d l = true) (hg : failsArb d m = false)
    (hu : ∀ k : Lane, (laneOf d k).unseen = false) (hb : d.mode ≠ .boot) (hh : d.mode ≠ .hold) :
    (outcomeOfTwo d sus).arbFaulted l ∧ (outcomeOfTwo d sus).safe ∧ (outcomeOfTwo d sus).mode = .safeState := by
  have hbad := failing_of_pair hne hl hf hg
  have hsus : outcomeOfTwo d sus = (endArb d []).each ((serviceLanes d).filter fun m => failsArb d m) fun e m => arbFault e m 0 :=
    (if_neg hs).trans (if_neg (by rw [hbad]; simp))
  have hmode : (endArb d []).mode = d.mode := (endArb_sameBut d []).mode_eq (by simp) (by simp)
  have hin : inService (endArb d []) l = true := by rw [endArb_inService, inService_of_pair hl]; simp
  have hlen : (serviceLanes (endArb d [])).length ≤ 2 := by
    rw [serviceLanes_congr (endArb_inService d []), hl, pair_length hne]
  rw [hsus, hbad, Dev.each_singleton]
  exact ⟨arbFault_faulted 0 (by simp [inService_iff.mp hin]),
    arbFault_few 0 hin hlen (fun k => by rw [endArb_laneOf]; exact hu k) (by rwa [hmode]) (by rwa [hmode])⟩

theorem arbOutcome_oneFails (hp : (laneOf s.dev s.dev.firstLane).arb.phase = 3) (hne : l ≠ m)
    (hl : serviceLanes s.dev = Lane.all.filter fun k => decide (k = l ∨ k = m)) (hf : failsArb s.dev l = true)
        (hg : failsArb s.dev m = false)
    (hs : ∃ k ∈ serviceLanes s.dev, (laneOf s.dev s.dev.firstLane).arb.suspects.testBit k.idx = true)
    (hu : ∀ k : Lane, (laneOf s.dev k).unseen = false) (hb : s.dev.mode ≠ .boot) (hh : s.dev.mode ≠ .hold) :
    Answers .arbOutcome s fun e => laneMode e l = .faulted ∧ e.rd LN_STATUS_ARB_FAULT l.idx = 1 ∧ e.safe ∧ e.mode = .safeState := by
  refine arbOutcome_ofTwo hp (hl ▸ pair_length hne) ?_
  obtain ⟨⟨hfm, hff, -, -⟩, hsafe, hsm⟩ :=
    outcomeOfTwo_oneFails (d := s.dev.cleared.reach 4000) (suspectsInService_ne_nil hs) hne hl hf hg hu hb hh
  exact ⟨hfm, hff, hsafe, hsm⟩

theorem arbOutcome_bothFail (hp : (laneOf s.dev s.dev.firstLane).arb.phase = 3) (hne : l ≠ m)
    (hl : serviceLanes s.dev = Lane.all.filter fun k => decide (k = l ∨ k = m)) (hf : failsArb s.dev l = true)
        (hg : failsArb s.dev m = true)
    (hs : ∃ k ∈ serviceLanes s.dev, (laneOf s.dev s.dev.firstLane).arb.suspects.testBit k.idx = true) :
    Answers .arbOutcome s fun e => (e.lanes.get l).safe ∧ (e.lanes.get m).safe := by
  let d := s.dev.cleared.reach 4000
  let bad := (serviceLanes d).filter fun m => failsArb d m
  have hbad {k : Lane} (hk : k = l ∨ k = m) (hfk : failsArb s.dev k = true) : k ∈ bad := by
    have hin : k ∈ serviceLanes d := by
      change k ∈ serviceLanes s.dev
      rw [mem_serviceLanes, inService_of_pair hl]
      simpa using hk
    exact List.mem_filter.mpr ⟨hin, hfk⟩
  have hmode {k : Lane} (hk : k = l ∨ k = m) : laneMode (endArb d []) k = .inService := by
    refine inService_iff.mp ((endArb_inService d [] k).trans ?_)
    change inService s.dev k = true
    rw [inService_of_pair hl]
    simpa using hk
  have he : outcomeOfTwo d (suspectsInService s.dev) = (endArb d []).each bad fun e m => arbFault e m 0 :=
    (if_neg (suspectsInService_ne_nil hs)).trans (if_neg (List.ne_nil_of_mem (hbad (.inl rfl) hf)))
  refine arbOutcome_ofTwo hp (hl ▸ pair_length hne) ?_
  rw [he]
  exact ⟨(arbFaults_faulted (.inl (hmode (.inl rfl))) (hbad (.inl rfl) hf)).2.2.2,
    (arbFaults_faulted (.inl (hmode (.inr rfl))) (hbad (.inr rfl) hg)).2.2.2⟩

end OutcomeOfTwo

end Sys2Proof.Machine
end

section
/-!
SUPPORT. The judgement and the start of an arbitration (R96, R98, R511), O14 and O15.
-/
namespace Sys2Proof.Machine
open RegField

/-! The judgement of a lane by another (R96). -/

/-- A bit that is clear is set by adding its weight. -/
theorem testBit_add_two_pow {n b : Nat} (h : n.testBit b = false) (j : Nat) : (n + 2 ^ b).testBit j = (n.testBit j || decide (j = b)) := by
  induction b generalizing n j with
  | zero =>
    have heven : n % 2 = 0 := by simpa [Nat.testBit_zero] using h
    cases j with
    | zero => simp [Nat.testBit_zero, Nat.add_mod, heven]
    | succ j => simp [Nat.testBit_succ, show (n + 1) / 2 = n / 2 by omega]
  | succ b ih =>
    have hhalf : (n + 2 ^ (b + 1)) / 2 = n / 2 + 2 ^ b := by omega
    cases j with
    | zero => simp [Nat.testBit_zero, Nat.pow_succ, Nat.add_mod]
    | succ j => rw [Nat.testBit_succ, hhalf, ih (by rwa [← Nat.testBit_succ]), Nat.testBit_succ]; simp

/-- A word with a bit for each lane of a list that passes. -/
def bitsOf (p : Lane → Bool) (ls : List Lane) : Nat := ls.foldl (fun k m => if p m then k + 2 ^ m.idx else k) 0

theorem others_nodup (l : Lane) : l.others.Nodup := by cases l <;> decide

theorem mem_others {l m : Lane} : m ∈ l.others ↔ m ≠ l := by cases l <;> cases m <;> decide

/-- Lanes added to a word that has none of their bits set those of them that pass. -/
theorem bitsOf_added (p : Lane → Bool) {ls : List Lane} (hn : ls.Nodup) (m : Lane) {n : Nat} (h : ∀ k ∈ ls, n.testBit k.idx = false) :
    (ls.foldl (fun k m => if p m then k + 2 ^ m.idx else k) n).testBit m.idx = (n.testBit m.idx || (decide (m ∈ ls) && p m)) := by
  induction ls generalizing n with
  | nil => simp
  | cons y ys ih =>
    obtain ⟨hy, hn⟩ := List.nodup_cons.mp hn
    have hbit (j : Lane) : (if p y then n + 2 ^ y.idx else n).testBit j.idx = (n.testBit j.idx || (decide (j = y) && p y)) := by
      split
      · next hp => simp [testBit_add_two_pow (h y (.head _)), Lane.idx_inj, hp]
      · next hp => simp [hp]
    rw [List.foldl_cons, ih hn fun k hk => ?_, hbit]
    · by_cases hmy : m = y
      · subst hmy
        simp [hy]
      · simp [hmy]
    · have hky : k ≠ y := fun hky => hy (hky ▸ hk)
      simp [hbit, h k (.tail _ hk), hky]

theorem bitsOf_testBit {l m : Lane} (r p : Lane → Bool) (hm : m ≠ l) (hr : r m = true) :
    (bitsOf p (l.others.filter r)).testBit m.idx = p m := by
  have hmem : m ∈ l.others.filter r := List.mem_filter.mpr ⟨mem_others.mpr hm, hr⟩
  rw [bitsOf, bitsOf_added p ((others_nodup l).filter r) m (by simp)]
  simp [hmem]

/-- The record of lane `m` that lane `x` holds carries the signature expected of the running test. -/
def passesTest (x : LaneState) (m : Lane) : Bool :=
  match x.frames.get m with
  | some r => decide (r.arbState = 2 ∧ r.arbSig = Config.katSignature x.arb.test)
  | none => false

/-- What lane `l` gives and passes of the other lanes. -/
def judgement (d : Dev) (l : Lane) (y : LaneState) : LaneState :=
  { y with arb := { y.arb with
      given := bitsOf (fun _ => true) (l.others.filter fun m => regarded d m)
      pass := bitsOf (passesTest (laneOf d l)) (l.others.filter fun m => regarded d m) } }

theorem execArbJudge_eq (l : Lane) (s : State) : exec (.arbJudge l) s = s.run fun d =>
    if inService d l ∧ (laneOf d l).arb.phase = 2 then onLane (d.reach 4000) l (judgement (d.reach 4000) l) else d := rfl

section Judge
variable {s : State} {l : Lane}

theorem arbJudge_judges (hl : inService s.dev l = true) (hp : (laneOf s.dev l).arb.phase = 2) :
    Completes (.arbJudge l) s [] [.lanes, .tb] fun e => ∀ m : Lane, m ≠ l → inService s.dev m = true →
      (laneOf e l).arb.given.testBit m.idx = true ∧
      (laneOf e l).arb.pass.testBit m.idx = match (laneOf s.dev l).frames.get m with
        | some r => decide (r.arbState = 2 ∧ r.arbSig = Config.katSignature (laneOf s.dev l).arb.test)
        | none => false := by
  have hreg (m : Lane) (hm : inService s.dev m = true) : regarded (s.dev.cleared.reach 4000) m = true := by
    simp [regarded, show inService (s.dev.cleared.reach 4000) m = true from hm]
  refine .of_result (execArbJudge_eq l s) (if_pos ⟨hl, hp⟩)
    (((SameBut.refl _ _ _ _).reach _ (by simp)).onLane l _ (by simp)) fun m hne hm => ?_
  simp only [laneOf_onLane, if_true, judgement]
  exact ⟨bitsOf_testBit _ _ hne (hreg m hm), bitsOf_testBit _ _ hne (hreg m hm)⟩

theorem arbJudge_notDue (hp : (laneOf s.dev l).arb.phase ≠ 2) : Completes (.arbJudge l) s [] [] fun e => e.out = [] :=
  .of_unchanged (execArbJudge_eq l s) (if_neg fun h => hp h.2)

end Judge

/-! The start of an arbitration (R96, R98, R511). -/

/-- The triggers held are taken. -/
def triggersTaken (d : Dev) : Dev := d.each Lane.all fun d l => onLane d l fun x => { x with arb := { x.arb with held := 0 } }

/-- Lane `l` takes part in an arbitration on the suspects `sus` among `n` lanes in service. -/
def enterArb (sigs : PerLane (BitVec 64)) (test sus : Nat) (ss1 : Bool) (d : Dev) (l : Lane) : Dev :=
  let d := onLane d l fun x => { x with arb := { x.arb with
    phase := 1, frame := d.frameNo, test := test, suspects := sus, sig := sigs.get l, pass := 0, given := 0,
    verdicts := ⟨none, none, none⟩, ss1 := ss1 } }
  (d.inc LN_ARB_ROUNDS l.idx).wr LN_ARB_LAST_TEST l.idx test

/-- The suspects of a starting arbitration: both lanes where two are in service. -/
def arbSuspects (d : Dev) (named : List Lane) : List Lane := if (serviceLanes d).length = 2 then serviceLanes d else named

/-- Every lane in service takes part in the arbitration; no vote is shown yet. -/
def arbEntered (sigs : PerLane (BitVec 64)) (d : Dev) (named : List Lane) : Dev :=
  let n := (serviceLanes d).length
  let ms := arbSuspects d named
  let e := d.each ms serveRuns
  let e := e.each (serviceLanes e) (enterArb sigs (d.frameNo % 64) (ms.foldl (fun k m => k + 2 ^ m.idx) 0) (decide (n = 2 ∨ 2 ≤ ms.length)))
  e.each Lane.all abandonDark

theorem startArb_eq (sigs : PerLane (BitVec 64)) (d : Dev) (named : List Lane) :
    startArb sigs d named = showVote (arbEntered sigs d named) := rfl

theorem execArbStart_eq (sigs : PerLane (BitVec 64)) (s : State) : exec (.arbStart sigs) s = s.run fun d =>
    if namedSuspects d = [] ∨ arbRuns d ∨ inHold d ∨ (serviceLanes d).length < 2 then d
    else
      let sus := arbSuspects d (namedSuspects d)
      let old := sus.filter fun m => clearedLately d m
      let left := sus.filter fun m => !old.contains m
      let e := (triggersTaken d).each old fun e m => arbFault e m 0
      if left = [] ∨ (serviceLanes e).length < 2 then e else startArb sigs e left := rfl

/-- Lane `l` takes part in an arbitration with this test, these suspects and its signature. -/
def LaneState.arbitrates (x : LaneState) (test sus : Nat) (sig : BitVec 64) (ss1 : Bool) : Prop :=
  x.arb.phase = 1 ∧ x.arb.suspects = sus ∧ x.arb.test = test ∧ x.arb.sig = sig ∧ x.arb.ss1 = ss1

/-! What entering an arbitration leaves alone. -/

theorem serveRuns_sameBut (d : Dev) (m : Lane) : SameBut d (serveRuns d m) [] [] [.lanes] :=
  .each (fun b l _ => (SameBut.refl b _ _ _).onLane l _ (by simp)) (.refl _ _ _ _)

theorem triggersTaken_sameBut (d : Dev) : SameBut d (triggersTaken d) [] [] [.lanes] :=
  .each (fun b l _ => (SameBut.refl b _ _ _).onLane l _ (by simp)) (.refl _ _ _ _)

theorem abandonDark_sameBut (d : Dev) (l : Lane) : SameBut d (abandonDark d l) [] [] [.lanes] := by
  unfold abandonDark
  refine .each (fun b k _ => ?_) (.refl _ _ _ _)
  extract_lets
  split
  · split
    · exact (onSaf_sameBut ..)
    · exact .refl _ _ _ _
  · exact .refl _ _ _ _

theorem onSaf_arb (d : Dev) (l : Lane) (f : SafState → SafState) : LanesKeep LaneState.arb d (onSaf d l f) :=
  (LanesKeep.refl _ d).onLane l _ fun _ => rfl

theorem abandonDark_arb (d : Dev) (l : Lane) : LanesKeep LaneState.arb d (abandonDark d l) := by
  unfold abandonDark
  refine .each (fun b k => ?_) (.refl _ d)
  extract_lets
  split
  · split
    · exact onSaf_arb ..
    · exact .refl _ b
  · exact .refl _ b

section Enter
variable (sigs : PerLane (BitVec 64)) {d : Dev} (named : List Lane)

theorem enterArb_sameBut (d : Dev) (test sus : Nat) (ss1 : Bool) (l : Lane) :
    SameBut d (enterArb sigs test sus ss1 d l) [LN_ARB_ROUNDS, LN_ARB_LAST_TEST] [] [.lanes] :=
  (((SameBut.refl d _ _ _).onLane l _ (by simp)).wr _ _ _ (by simp)).wr _ _ _ (by simp)

theorem arbEntered_sameBut (d : Dev) : SameBut d (arbEntered sigs d named) [LN_ARB_ROUNDS, LN_ARB_LAST_TEST] [] [.lanes] :=
  .each (fun b l _ => (abandonDark_sameBut b l).mono (by simp) (by simp) (by simp))
    (.each (fun b l _ => enterArb_sameBut sigs b _ _ _ l)
      (.each (fun b m _ => (serveRuns_sameBut b m).mono (by simp) (by simp) (by simp)) (.refl _ _ _ _)))

theorem enterArb_arbitrates (d : Dev) (test sus : Nat) (ss1 : Bool) (l : Lane) :
    (laneOf (enterArb sigs test sus ss1 d l) l).arbitrates test sus (sigs.get l) ss1 := by
  simp [enterArb, LaneState.arbitrates, Dev.inc]

theorem enterArb_laneOf_other (d : Dev) (test sus : Nat) (ss1 : Bool) {l k : Lane} (h : k ≠ l) :
    laneOf (enterArb sigs test sus ss1 d l) k = laneOf d k := by
  simp [enterArb, Dev.inc, h]

/-- A lane in service takes part in a starting arbitration. -/
theorem arbEntered_arbitrates {l : Lane} (hl : inService d l = true) : (laneOf (arbEntered sigs d named) l).arbitrates (d.frameNo % 64)
    ((arbSuspects d named).foldl (fun k m => k + 2 ^ m.idx) 0) (sigs.get l)
    (decide ((serviceLanes d).length = 2 ∨ 2 ≤ (arbSuspects d named).length)) := by
  unfold arbEntered
  extract_lets n ms e0 e1
  have hmem : l ∈ serviceLanes e0 := by
    have hsame : SameBut d e0 [] [] [.lanes] := .each (fun b m _ => serveRuns_sameBut b m) (.refl _ _ _ _)
    exact mem_serviceLanes.mpr ((inService_congr (hsame.rd_eq _ _ (by simp) (by simp))).trans hl)
  have h1 : (laneOf e1 l).arbitrates (d.frameNo % 64) (ms.foldl (fun k m => k + 2 ^ m.idx) 0) (sigs.get l)
      (decide (n = 2 ∨ 2 ≤ ms.length)) := by
    refine Dev.each_reaches (P := fun b => (laneOf b l).arbitrates _ _ _ _) (fun b => enterArb_arbitrates ..) (fun b y hb => ?_) hmem e0
    by_cases hy : l = y
    · subst hy
      exact enterArb_arbitrates ..
    · rwa [enterArb_laneOf_other _ _ _ _ _ hy]
  have h2 : LanesKeep LaneState.arb e1 (e1.each Lane.all abandonDark) := .each (fun b k => abandonDark_arb b k) (.refl _ _)
  unfold LaneState.arbitrates
  rw [h2.keep l]
  exact h1

theorem arbEntered_inService (d : Dev) (l : Lane) : inService (arbEntered sigs d named) l = inService d l :=
  inService_congr ((arbEntered_sameBut sigs named d).rd_eq _ _ (by simp) (by simp))

end Enter

theorem votingLanes_wr (d : Dev) (i v : Nat) : votingLanes (d.wr LN_STATUS_IN_VOTE i v) = votingLanes d := by
  have hin : serviceLanes (d.wr LN_STATUS_IN_VOTE i v) = serviceLanes d := serviceLanes_congr fun k => inService_congr (by simp)
  have hout : removedSuspects (d.wr LN_STATUS_IN_VOTE i v) = removedSuspects d := by
    simp only [removedSuspects, hin, laneOf_wr]
    rfl
  simp only [votingLanes, hin, hout]

theorem showVote_inVote (d : Dev) (l : Lane) : (showVote d).rd LN_STATUS_IN_VOTE l.idx = bitOf ((votingLanes d).contains l) := by
  have hb (b : Bool) : bitOf b % 2 = bitOf b := by cases b <;> rfl
  cases l <;> simp [showVote, Lane.all, Dev.each, votingLanes_wr, Lane.idx, hb]

section Start
variable {s : State} {sigs : PerLane (BitVec 64)} {l m : Lane}

theorem triggersTaken_inService (d : Dev) (k : Lane) : inService (triggersTaken d) k = inService d k :=
  inService_congr ((triggersTaken_sameBut d).rd_eq _ _ (by simp) (by simp))

theorem arbStart_runs {post : Dev → Prop} {sus old left : List Lane} (hn : namedSuspects s.dev ≠ []) (hr : arbRuns s.dev = false)
    (hh : s.dev.mode ≠ .hold) (h2 : 2 ≤ (serviceLanes s.dev).length) (hsus : arbSuspects s.dev (namedSuspects s.dev) = sus)
    (hold : (sus.filter fun m => clearedLately s.dev m) = old) (hleft : (sus.filter fun m => !old.contains m) = left)
    (h : post (if left = [] ∨ (serviceLanes ((triggersTaken s.dev.cleared).each old fun e m => arbFault e m 0)).length < 2 then
        (triggersTaken s.dev.cleared).each old fun e m => arbFault e m 0
      else startArb sigs ((triggersTaken s.dev.cleared).each old fun e m => arbFault e m 0) left)) :
    Answers (.arbStart sigs) s post := by
  subst hsus hold hleft
  refine .of_result (execArbStart_eq sigs s) (if_neg ?_) h
  rintro (h0 | h0 | h0 | h0)
  · exact hn h0
  · rw [show arbRuns s.dev.cleared = false from hr] at h0
    cases h0
  · exact hh (of_decide_eq_true h0)
  · have h1 : (serviceLanes s.dev).length < 2 := h0
    omega

/-- A single suspect of three lanes is removed from voting. -/
theorem votingLanes_suspect {d : Dev} (hn : (serviceLanes d).length = 3) (ha : ∀ k, 0 < (laneOf d k).arb.phase)
    (hs : ∀ k, (laneOf d k).arb.suspects = 2 ^ m.idx) (h1 : ∀ k, (laneOf d k).arb.ss1 = false) (l : Lane) :
    (votingLanes d).contains l = decide (l ≠ m) := by
  have hout : removedSuspects d = [m] := by
    simp only [removedSuspects, serviceLanes_of_three hn, ha, hs, h1]
    cases m <;> decide
  simp only [votingLanes, hout, serviceLanes_of_three hn]
  cases m <;> cases l <;> decide

/-- Where every lane in service takes part in an arbitration that may end in SS1, none is removed from voting. -/
theorem votingLanes_all {d : Dev} (h1 : ∀ k, inService d k = true → (laneOf d k).arb.ss1 = true) : votingLanes d = serviceLanes d := by
  have hnone : ((serviceLanes d).filter fun l => (serviceLanes d).any fun m =>
      decide (0 < (laneOf d m).arb.phase) && (laneOf d m).arb.suspects.testBit l.idx && !(laneOf d m).arb.ss1) = [] := by
    refine List.filter_eq_nil_iff.mpr fun l _ => ?_
    simp only [List.any_eq_true, not_exists, not_and]
    intro k hk
    simp [h1 k (mem_serviceLanes.mp hk)]
  have hout : removedSuspects d = [] := by
    unfold removedSuspects
    rw [hnone]
    exact ite_self _
  simp [votingLanes, hout]

/-- A single suspect of three lanes is tested by every lane and does not vote. -/
theorem startArb_suspect {d : Dev} (h3 : (serviceLanes d).length = 3) (l : Lane) :
    (laneOf (startArb sigs d [m]) l).arbitrates (d.frameNo % 64) (2 ^ m.idx) (sigs.get l) false ∧
      (startArb sigs d [m]).rd LN_STATUS_IN_VOTE l.idx = bitOf (decide (l ≠ m)) := by
  have hsus : arbSuspects d [m] = [m] := if_neg (by rw [h3]; decide)
  have harb (k : Lane) : (laneOf (arbEntered sigs d [m]) k).arbitrates (d.frameNo % 64) (2 ^ m.idx) (sigs.get k) false := by
    simpa [hsus, h3] using arbEntered_arbitrates sigs [m] (inService_of_three h3 k)
  have hlen : (serviceLanes (arbEntered sigs d [m])).length = 3 := by
    rw [serviceLanes_congr (arbEntered_inService sigs [m] d), h3]
  have hvote := votingLanes_suspect hlen (fun k => by simp [(harb k).1]) (fun k => (harb k).2.1) (fun k => (harb k).2.2.2.2) l
  rw [startArb_eq, showVote_laneOf, showVote_inVote, hvote]
  exact ⟨harb l, rfl⟩

/-- Of two lanes in service both are suspects, are tested, and keep their votes. -/
theorem startArb_pair {d : Dev} {named : List Lane} (hne : l ≠ m) (hl : serviceLanes d = Lane.all.filter fun k => decide (k = l ∨ k = m))
    {k : Lane} (hk : k = l ∨ k = m) :
    (laneOf (startArb sigs d named) k).arbitrates (d.frameNo % 64) (2 ^ l.idx + 2 ^ m.idx) (sigs.get k) true ∧
      (startArb sigs d named).rd LN_STATUS_IN_VOTE k.idx = 1 := by
  have h2 : (serviceLanes d).length = 2 := hl ▸ pair_length hne
  have hsus : (arbSuspects d named).foldl (fun n m => n + 2 ^ m.idx) 0 = 2 ^ l.idx + 2 ^ m.idx := by
    rw [arbSuspects, if_pos h2, hl]
    cases l <;> cases m <;> simp [Lane.all, Lane.idx] at hne ⊢
  have harb {k : Lane} (hk : inService d k = true) :
      (laneOf (arbEntered sigs d named) k).arbitrates (d.frameNo % 64) (2 ^ l.idx + 2 ^ m.idx) (sigs.get k) true := by
    simpa [hsus, h2] using arbEntered_arbitrates sigs named hk
  have hin : inService d k = true := by rw [inService_of_pair hl]; simpa using hk
  have hvote : votingLanes (arbEntered sigs d named) = serviceLanes d :=
    (votingLanes_all fun k hk => (harb ((arbEntered_inService sigs named d k).symm.trans hk)).2.2.2.2).trans
      (serviceLanes_congr (arbEntered_inService sigs named d))
  have hcon : (serviceLanes d).contains k = true := List.contains_iff_mem.mpr (mem_serviceLanes.mpr hin)
  rw [startArb_eq, showVote_laneOf, showVote_inVote, hvote, hcon]
  exact ⟨harb hin, rfl⟩

theorem triggersTaken_service (d : Dev) : serviceLanes (triggersTaken d.cleared) = serviceLanes d :=
  serviceLanes_congr (triggersTaken_inService d.cleared)

theorem triggersTaken_frameNo (d : Dev) : (triggersTaken d.cleared).frameNo = d.frameNo :=
  (triggersTaken_sameBut d.cleared).frameNo_eq (by simp) (by simp)

/-- An arbitration whose suspects were not cleared lately starts. -/
theorem arbStart_tests {post : Dev → Prop} {sus : List Lane} (hn : namedSuspects s.dev ≠ []) (hr : arbRuns s.dev = false)
    (hh : s.dev.mode ≠ .hold) (h2 : 2 ≤ (serviceLanes s.dev).length) (hsus : arbSuspects s.dev (namedSuspects s.dev) = sus) (hne : sus ≠ [])
    (hc : ∀ m ∈ sus, clearedLately s.dev m = false) (h : post (startArb sigs (triggersTaken s.dev.cleared) sus)) :
    Answers (.arbStart sigs) s post := by
  have hold : (sus.filter fun m => clearedLately s.dev m) = [] := List.filter_eq_nil_iff.mpr fun m hm => by simp [hc m hm]
  have hleft : (sus.filter fun m => !([] : List Lane).contains m) = sus := by simp
  refine arbStart_runs hn hr hh h2 hsus hold hleft ?_
  change post (if sus = [] ∨ (serviceLanes (triggersTaken s.dev.cleared)).length < 2 then _ else _)
  rw [if_neg (by rw [triggersTaken_service]; exact not_or.mpr ⟨hne, by omega⟩)]
  exact h

theorem arbStart_suspect (hn : namedSuspects s.dev = [m]) (hr : arbRuns s.dev = false) (hh : s.dev.mode ≠ .hold)
    (h3 : (serviceLanes s.dev).length = 3) (hc : clearedLately s.dev m = false) :
    Answers (.arbStart sigs) s fun e => (∀ l : Lane, (laneOf e l).arb.phase = 1 ∧ (laneOf e l).arb.suspects = 2 ^ m.idx ∧
      (laneOf e l).arb.test = s.dev.frameNo % 64 ∧ (laneOf e l).arb.sig = sigs.get l ∧ (laneOf e l).arb.ss1 = false ∧
        e.rd LN_STATUS_IN_VOTE l.idx = bitOf (decide (l ≠ m))) := by
  have hsus : arbSuspects s.dev (namedSuspects s.dev) = [m] := hn ▸ if_neg (by rw [h3]; decide)
  refine arbStart_tests (by simp [hn]) hr hh (by omega) hsus (by simp) (by simp [hc]) fun l => ?_
  obtain ⟨⟨hp, hs, ht, hg, h1⟩, hv⟩ := startArb_suspect (sigs := sigs) (m := m) (by rw [triggersTaken_service, h3]) l
  exact ⟨hp, hs, ht.trans (by rw [triggersTaken_frameNo]), hg, h1, hv⟩

theorem arbStart_clearedLately (hn : namedSuspects s.dev = [m]) (hr : arbRuns s.dev = false) (hh : s.dev.mode ≠ .hold)
    (h3 : (serviceLanes s.dev).length = 3) (hc : clearedLately s.dev m = true) :
    Answers (.arbStart sigs) s fun e => laneMode e m = .faulted ∧ e.rd LN_STATUS_ARB_FAULT m.idx = 1 ∧ (e.lanes.get m).safe := by
  have hin : inService (triggersTaken s.dev.cleared) m = true := (triggersTaken_inService ..).trans (inService_of_three h3 m)
  refine arbStart_runs (sus := [m]) (old := [m]) (left := []) (by simp [hn]) hr hh (by omega) ?_ (by simp [hc]) (by simp) ?_
  · rw [hn]
    exact if_neg (by rw [h3]; decide)
  · rw [if_pos (.inl rfl)]
    obtain ⟨hmode, hfault, -, hsafe⟩ := arbFaults_faulted (m := m) (.inl (inService_iff.mp hin)) (List.mem_singleton.mpr rfl)
    exact ⟨hmode, hfault, hsafe⟩

/-- Faulting lanes puts no lane into service. -/
theorem arbFaults_inService {d : Dev} {ls : List Lane} {k : Lane} (h : inService (d.each ls fun e k => arbFault e k 0) k = true) :
    inService d k = true ∧ k ∉ ls := by
  induction ls generalizing d with
  | nil => exact ⟨h, by simp⟩
  | cons y ys ih =>
    obtain ⟨hin, hys⟩ := ih h
    rw [arbFault_inService] at hin
    simp only [Bool.and_eq_true, decide_eq_true_eq] at hin
    exact ⟨hin.1, by simp [hin.2, hys]⟩

theorem service_single {d : Dev} (h : ∀ k, inService d k = true → k = l) : (serviceLanes d).length < 2 := by
  have hsub : (serviceLanes d).Sublist (Lane.all.filter fun k => decide (k = l)) :=
    List.monotone_filter_right _ fun k hk => by simpa using h k hk
  have hone : (Lane.all.filter fun k => decide (k = l)).length = 1 := by cases l <;> rfl
  exact Nat.lt_of_le_of_lt hsub.length_le (by omega)

theorem arbStart_ofTwo_clearedLately (hl : serviceLanes s.dev = Lane.all.filter fun k => decide (k = l ∨ k = m)) (hne : l ≠ m)
    (hn : namedSuspects s.dev ≠ []) (hr : arbRuns s.dev = false) (hh : s.dev.mode ≠ .hold) (hc : clearedLately s.dev m = true) :
    Answers (.arbStart sigs) s fun e => laneMode e m = .faulted ∧ e.rd LN_STATUS_ARB_FAULT m.idx = 1 ∧ (e.lanes.get m).safe := by
  have h2 : (serviceLanes s.dev).length = 2 := hl ▸ pair_length hne
  have hm : m ∈ serviceLanes s.dev := by rw [mem_serviceLanes, inService_of_pair hl]; simp
  have hold : m ∈ (serviceLanes s.dev).filter fun m => clearedLately s.dev m := List.mem_filter.mpr ⟨hm, hc⟩
  have hin : inService (triggersTaken s.dev.cleared) m = true := (triggersTaken_inService ..).trans (mem_serviceLanes.mp hm)
  have hfew : (serviceLanes ((triggersTaken s.dev.cleared).each ((serviceLanes s.dev).filter fun m => clearedLately s.dev m)
      fun e m => arbFault e m 0)).length < 2 := by
    refine service_single (l := l) fun k hk => ?_
    obtain ⟨hk, hko⟩ := arbFaults_inService hk
    rw [triggersTaken_inService] at hk
    have hpair := (inService_of_pair hl k).symm.trans hk
    rcases of_decide_eq_true hpair with rfl | rfl
    · rfl
    · exact absurd hold hko
  refine arbStart_runs hn hr hh (by omega) (if_pos h2) rfl rfl ?_
  rw [if_pos (.inr hfew)]
  obtain ⟨hmode, hfault, -, hsafe⟩ := arbFaults_faulted (.inl (inService_iff.mp hin)) hold
  exact ⟨hmode, hfault, hsafe⟩

theorem arbStart_ofTwo (hne : l ≠ m) (hl : serviceLanes s.dev = Lane.all.filter fun k => decide (k = l ∨ k = m))
    (hn : namedSuspects s.dev ≠ []) (hr : arbRuns s.dev = false) (hh : s.dev.mode ≠ .hold) (hcl : clearedLately s.dev l = false)
    (hcm : clearedLately s.dev m = false) :
    Answers (.arbStart sigs) s fun e => ∀ k : Lane, k = l ∨ k = m → (laneOf e k).arb.phase = 1 ∧
      (laneOf e k).arb.suspects = 2 ^ l.idx + 2 ^ m.idx ∧ (laneOf e k).arb.ss1 = true ∧ e.rd LN_STATUS_IN_VOTE k.idx = 1 := by
  have h2 : (serviceLanes s.dev).length = 2 := hl ▸ pair_length hne
  have hc (k : Lane) (hk : k ∈ serviceLanes s.dev) : clearedLately s.dev k = false := by
    rw [mem_serviceLanes, inService_of_pair hl] at hk
    rcases of_decide_eq_true hk with rfl | rfl <;> assumption
  refine arbStart_tests hn hr hh (by omega) (if_pos h2) (by intro h0; simp [h0] at h2) hc fun k hk => ?_
  obtain ⟨⟨hp, hs, -, -, h1⟩, hv⟩ := startArb_pair (sigs := sigs) (named := serviceLanes s.dev) hne ((triggersTaken_service _).trans hl) hk
  exact ⟨hp, hs, h1, hv⟩

theorem arbStart_notDue (h : namedSuspects s.dev = [] ∨ s.dev.mode = .hold) : Completes (.arbStart sigs) s [] [] fun e => e.out = [] :=
  .of_unchanged (execArbStart_eq sigs s) (if_pos (h.imp id fun h => .inr (.inl (decide_eq_true h))))

end Start
/-- Settles O14: each clause is the lemma above about the start, the judgement or the outcome that it names. -/
theorem arbitrationSteps : Obligations.ArbitrationSteps :=
  ⟨fun _ _ _ => arbStart_suspect, fun _ _ _ => arbStart_clearedLately, fun _ _ _ _ => arbStart_ofTwo_clearedLately, fun _ _ =>
      arbStart_notDue,
   fun _ _ => arbJudge_judges, fun _ _ => arbJudge_notDue, fun _ _ => arbOutcome_faults, fun _ _ => arbOutcome_clears,
   fun _ => arbOutcome_withoutSuspect⟩

theorem arbJudge_ofTwo {s : State} {l m : Lane} (hne : l ≠ m) (hl : serviceLanes s.dev = Lane.all.filter fun k => decide (k = l ∨ k = m))
    (hp : (laneOf s.dev l).arb.phase = 2) :
    Completes (.arbJudge l) s [] [.lanes, .tb] fun e => (laneOf e l).arb.given.testBit m.idx = true ∧
      (laneOf e l).arb.pass.testBit m.idx = match (laneOf s.dev l).frames.get m with
        | some r => decide (r.arbState = 2 ∧ r.arbSig = Config.katSignature (laneOf s.dev l).arb.test)
        | none => false := by
  have hin (k : Lane) (hk : k = l ∨ k = m) : inService s.dev k = true := by rw [inService_of_pair hl]; simpa using hk
  obtain ⟨t, he, hq, hsame, hpost⟩ := arbJudge_judges (hin l (.inl rfl)) hp
  exact ⟨t, he, hq, hsame, hpost m hne.symm (hin m (.inr rfl))⟩

/-- Settles O15: the start, the judgement and the four outcomes of Table 3-7, each by its lemma above. -/
theorem arbitrationOfTwoLanes : Obligations.ArbitrationOfTwoLanes :=
  ⟨fun _ _ _ _ => arbStart_ofTwo, fun _ _ _ => arbJudge_ofTwo, fun _ _ => arbOutcome_bothPass, fun _ _ _ => arbOutcome_oneFails,
   fun _ _ _ => arbOutcome_bothFail⟩

end Sys2Proof.Machine
end

section
/-!
SUPPORT. What a lane loads into its safety buffer (R26, R73, R117, R119, R163), clause by clause, and O13.
-/
namespace Sys2Proof.Machine
open RegField

theorem exec_safetyBufferLoad (l : Lane) (w : BufferWriter) (s : State) : exec (.safetyBufferLoad l w) s = execSafetyBufferLoad l w s := rfl

/-- A table filled entry by entry holds each entry's value. -/
theorem SMap.get_filled {α : Type} [DecidableEq α] (z : α) (m : SMap α) (n k : Nat) (f : Nat → α) :
    SMap.get z ((List.range n).foldl (fun m e => SMap.set z m e (f e)) m) k = if k < n then f k else SMap.get z m k := by
  induction n with
  | zero => rfl
  | succ n ih =>
    rw [List.range_succ, List.foldl_append, List.foldl_cons, List.foldl_nil, SMap.get_set, ih]
    rcases Nat.lt_trichotomy k n with h | rfl | h
    · simp [Nat.ne_of_lt h, h, Nat.lt_succ_of_lt h]
    · simp
    · simp [Nat.ne_of_gt h, Nat.not_lt_of_gt h, show ¬ k < n + 1 by omega]

/-- The safety buffer of lane `l` filled for its ring's schedule. -/
def loadedBuffer (d : Dev) (l : Lane) (r : RingState) : RingState :=
  { r with safety := (entryIxs (ringOf d l).sched).foldl (fun m e => SMap.set {} m e (loadPart d l (ringOf d l).sched e)) [] }

/-- The device at the end of lane `l`'s evaluation. -/
def evaluatedAt (d : Dev) : Dev := d.reach (evaluationEnd d)

theorem execSafetyBufferLoad_lane (l : Lane) (s : State) : exec (.safetyBufferLoad l .lane) s = s.run fun d =>
    if d.tb.ticking ∧ inService d l ∧ !(laneOf d l).latch then onRing (evaluatedAt d) l (loadedBuffer (evaluatedAt d) l) else d := rfl

section Load
variable {s : State} {l : Lane} {k : Nat}

/-- A lane in service loads its part of each entry. -/
theorem safetyBufferLoad_loads (ht : s.dev.tb.ticking = true) (hi : inService s.dev l = true) (hl : (laneOf s.dev l).latch = false)
    (hk : k < (ringOf s.dev l).sched.length) :
    Completes (.safetyBufferLoad l .lane) s [] [.rings, .tb] fun e =>
      SMap.get {} (ringOf e l).safety k = loadPart s.dev l (ringOf s.dev l).sched k := by
  refine .of_result (execSafetyBufferLoad_lane l s) (if_pos ⟨ht, hi, by simp [hl]⟩)
    (((SameBut.refl _ _ _ _).reach _ (by simp)).onRing l _ (by simp)) ?_
  rw [ringOf_onRing, if_pos rfl, loadedBuffer, entryIxs, SMap.get_filled]
  exact if_pos hk

theorem Completes.imp {c : Instr} {es : List (RegField × Nat)} {ps : List Part} {p q : Dev → Prop} (h : Completes c s es ps p)
    (hpq : ∀ e, p e → q e) : Completes c s es ps q := by
  obtain ⟨t, he, hq, hs, hp⟩ := h
  exact ⟨t, he, hq, hs, hpq _ hp⟩

theorem safetyBufferLoad_commands (ht : s.dev.tb.ticking = true) (hi : inService s.dev l = true) (hl : (laneOf s.dev l).latch = false)
    (hk : k < (ringOf s.dev l).sched.length) (ho : (laneOf s.dev l).overrun = false) (hh : s.dev.mode ≠ .hold)
    (hd : (laneOf s.dev l).saf.deen = false) (hr : 2 ≤ (regardedLanes s.dev).length)
    (hs : (ringOf s.dev l).sched = (laneOf s.dev l).image.params.schedule) :
    Completes (.safetyBufferLoad l .lane) s [] [.rings, .tb] fun e =>
      SMap.get {} (ringOf e l).safety k = { flag := 5, payload := commandPayload (laneOf s.dev l).image.params (laneOf s.dev l).saf k } :=
        by
  refine (safetyBufferLoad_loads ht hi hl hk).imp fun e he => he.trans ?_
  simp [loadPart, ho, inHold, hh, hd, hs, Nat.not_lt.mpr hr]

theorem safetyBufferLoad_stops (ht : s.dev.tb.ticking = true) (hi : inService s.dev l = true) (hl : (laneOf s.dev l).latch = false)
    (hk : k < (ringOf s.dev l).sched.length) (ho : (laneOf s.dev l).overrun = false)
    (h : s.dev.mode = .hold ∨ (laneOf s.dev l).saf.deen = true ∨ (regardedLanes s.dev).length < 2) :
    Completes (.safetyBufferLoad l .lane) s [] [.rings, .tb] fun e => SMap.get {} (ringOf e l).safety k =
      { flag := 5, payload := safePayload (entryAt (ringOf s.dev l).sched k).profile (entryAt (ringOf s.dev l).sched k).pc } := by
  refine (safetyBufferLoad_loads ht hi hl hk).imp fun e he => he.trans ?_
  have hstop : inHold s.dev ∨ (laneOf s.dev l).saf.deen ∨ (regardedLanes s.dev).length < 2 ∨
      (ringOf s.dev l).sched ≠ (laneOf s.dev l).image.params.schedule := by
    rcases h with h | h | h
    · exact .inl (by simp [inHold, h])
    · exact .inr (.inl h)
    · exact .inr (.inr (.inl h))
  unfold loadPart
  extract_lets x
  have hx : x.overrun = false := ho
  rw [if_neg (by simp [hx]), if_neg (by simp [hx]), if_pos hstop]

theorem safetyBufferLoad_repeats (ht : s.dev.tb.ticking = true) (hi : inService s.dev l = true) (hl : (laneOf s.dev l).latch = false)
    (hk : k < (ringOf s.dev l).sched.length) (ho : (laneOf s.dev l).overrun = true) (hr : (laneOf s.dev l).overrunRun ≤ 1) :
    Completes (.safetyBufferLoad l .lane) s [] [.rings, .tb] fun e =>
      SMap.get {} (ringOf e l).safety k = { bufferPart s.dev l (ringOf s.dev l).sched k with flag := 5 + 16 } := by
  refine (safetyBufferLoad_loads ht hi hl hk).imp fun e he => he.trans ?_
  simp [loadPart, ho, hr]

theorem safetyBufferLoad_asFaulted (ht : s.dev.tb.ticking = true) (hi : inService s.dev l = true) (hl : (laneOf s.dev l).latch = false)
    (hk : k < (ringOf s.dev l).sched.length) (ho : (laneOf s.dev l).overrun = true) (hr : 2 ≤ (laneOf s.dev l).overrunRun) :
    Completes (.safetyBufferLoad l .lane) s [] [.rings, .tb] fun e => SMap.get {} (ringOf e l).safety k =
      { flag := 7, payload := safePayload (entryAt (ringOf s.dev l).sched k).profile (entryAt (ringOf s.dev l).sched k).pc } := by
  refine (safetyBufferLoad_loads ht hi hl hk).imp fun e he => he.trans ?_
  have hmany : ¬ (laneOf s.dev l).overrunRun ≤ 1 := by omega
  simp [loadPart, ho, hmany]

theorem safetyBufferLoad_out (h : inService s.dev l = false ∨ (laneOf s.dev l).latch = true) :
    Completes (.safetyBufferLoad l .lane) s [] [] fun e => e.out = [] := by
  refine .of_unchanged (execSafetyBufferLoad_lane l s) (if_neg ?_)
  rintro ⟨-, hi, hl⟩
  rcases h with h | h
  · exact absurd (h.symm.trans hi) (by simp)
  · rw [laneOf_cleared, h] at hl
    cases hl

theorem safetyBufferLoad_shared (hu : s.dev.rd PWR_STATUS_SHARED_UP ≠ 0) :
    Completes (.safetyBufferLoad l .shared) s
      ([(SYS_STATUS_LOCK_VIOL, 0), (SYS_ERR_CNT0_LOCK_VIOL_CNT, 0)] ++ errRegs ++ recordRegs srcSystem) [.log] fun e =>
        e.rd SYS_STATUS_LOCK_VIOL = 1 ∧ e.logged .LOCK_VIOL srcSystem :=
  .of_result (exec_safetyBufferLoad l .shared s) rfl (lockViol_sameBut ..) (lockViol_shown _ _ (by simpa using hu))

end Load

/-- Settles O13: what a lane in service loads in each case, and that a shared block writes nothing, each by its lemma above. -/
theorem safetyBufferContent : Obligations.SafetyBufferContent :=
  ⟨fun _ _ _ => safetyBufferLoad_commands, fun _ _ _ => safetyBufferLoad_stops, fun _ _ _ => safetyBufferLoad_repeats,
   fun _ _ _ => safetyBufferLoad_asFaulted, fun _ _ => safetyBufferLoad_out, fun _ _ => safetyBufferLoad_shared⟩

end Sys2Proof.Machine
end

section
/-!
SUPPORT. Degraded operation, the tightening of limits and the loss of the tick (R39, R109, R114, R124, R126, R132), clause by clause.
-/
namespace Sys2Proof.Machine
open RegField

theorem exec_degTimerExpired (s : State) : exec .degTimerExpired s = execDegTimerExpired s := rfl
theorem exec_degTimerStop (s : State) : exec .degTimerStop s = execDegTimerStop s := rfl
theorem exec_tighteningRampEnd (s : State) : exec .tighteningRampEnd s = execTighteningRampEnd s := rfl
theorem exec_tickLost (miss : PerLane Bool) (s : State) : exec (.tickLost miss) s = execTickLost miss s := rfl
theorem exec_cycleCompletionLimit (s : State) : exec .cycleCompletionLimit s = execCycleCompletionLimit s := rfl

/-- A pass over distinct elements, seen from one of them: what the turns of the others keep holds before and after its own turn. -/
theorem Dev.each_split {α : Type} {R : Dev → Dev → Prop} (hr : ∀ d, R d d) (ht : ∀ {a b c}, R a b → R b c → R a c) {f : Dev → α → Dev}
    {x : α} {xs : List α} (hf : ∀ b y, y ≠ x → R b (f b y)) (hx : x ∈ xs) (hn : xs.Nodup) (d : Dev) :
    ∃ p, R d p ∧ R (f p x) (d.each xs f) := by
  have hall {ys : List α} (h : ∀ y ∈ ys, y ≠ x) (b : Dev) : R b (b.each ys f) := by
    refine Dev.each_induct (P := fun c => R b c) (fun c y hy hc => ht hc (hf c y (h y hy))) (hr b)
  induction xs generalizing d with
  | nil => cases hx
  | cons y ys ih =>
    obtain ⟨hy, hn⟩ := List.nodup_cons.mp hn
    by_cases hyx : y = x
    · subst hyx
      exact ⟨d, hr d, hall (fun z hz hzy => hy (hzy ▸ hz)) _⟩
    · obtain ⟨p, h1, h2⟩ := ih ((List.mem_cons.mp hx).resolve_left (Ne.symm hyx)) hn (f d y)
      exact ⟨p, ht (hf d y hyx) h1, h2⟩

theorem allLanes_nodup : Lane.all.Nodup := by decide

theorem mem_allLanes (l : Lane) : l ∈ Lane.all := by cases l <;> simp [Lane.all]

section Degraded
variable {s : State} {l : Lane}

/-- The lanes in service know that the time of degraded operation is over. -/
def degradedKnown (d : Dev) : Dev := d.each (serviceLanes d) fun d l => onSaf d l fun y => { y with degExpired := true }

/-- They stop every unit. -/
def degradedOver (d : Dev) : Dev := stopAll (degradedKnown d) 0x03

/-- The end of degraded operation is shown and recorded. -/
def degradedOverShown (d : Dev) : Dev := ((degradedOver d).flag SAF_DEG_STATUS_EXPIRED).event .DEG_EXPIRED srcSafety

theorem degradedKnown_sameBut (d : Dev) : SameBut d (degradedKnown d) [] [] [.lanes] :=
  .each (fun _ _ _ => onSaf_sameBut ..) (.refl _ _ _ _)

theorem degradedOver_sameBut (d : Dev) : SameBut d (degradedOver d) [] [] [.lanes] := (degradedKnown_sameBut d).trans (stopAll_sameBut _ _)

theorem stopUnits_degExpired (cause : Nat) (x : SafState) : (stopUnits cause x).degExpired = x.degExpired := by
  simp only [stopUnits]

theorem stopAll_degExpired {d : Dev} (cause : Nat) (h : (laneOf d l).saf.degExpired = true) :
    (laneOf (stopAll d cause) l).saf.degExpired = true := by
  rw [stopAll_eq]
  refine Dev.each_induct (P := fun b => (laneOf b l).saf.degExpired = true) (fun b y _ hb => ?_) h
  rw [onSaf_saf]
  split
  · next hy =>
    subst hy
    rw [stopUnits_degExpired, hb]
  · exact hb

theorem degradedOver_lane {d : Dev} (hl : inService d l = true) :
    (laneOf (degradedOver d) l).saf.degExpired = true ∧ (laneOf (degradedOver d) l).saf.stopped 0x03 := by
  have hin : inService (degradedKnown d) l = true := (inService_congr ((degradedKnown_sameBut d).rd_eq _ _ (by simp) (by simp))).trans hl
  have hexp : (laneOf (degradedKnown d) l).saf.degExpired = true := by
    refine Dev.each_reaches (P := fun b => (laneOf b l).saf.degExpired = true) (x := l) (fun b => ?_) (fun b y hb => ?_)
        (mem_serviceLanes.mpr hl) d
    · rw [onSaf_saf, if_pos rfl]
    · rw [onSaf_saf]
      split <;> [rfl; exact hb]
  exact ⟨stopAll_degExpired 0x03 hexp, stopAll_stopped 0x03 hin⟩

theorem degTimerExpired_stops (hz : (laneOf s.dev s.dev.firstLane).saf.degLeft = some 0)
    (hx : (laneOf s.dev s.dev.firstLane).saf.degExpired = false) (hu : s.dev.rd PWR_STATUS_SHARED_UP ≠ 0) (hl : inService s.dev l = true) :
    Answers .degTimerExpired s fun e => e.rd SAF_DEG_STATUS_EXPIRED = 1 ∧ e.logged .DEG_EXPIRED srcSafety ∧
      (laneOf e l).saf.degExpired = true ∧ (laneOf e l).saf.stopOutcome = true ∧
        ∀ u, u < 32 → ∃ q ∈ (unitDyn (laneOf e l).saf u).demands, q.cause = 0x03 ∧ 4 ≤ q.kind ∧ q.active = true := by
  have hshow := showDegraded_sameBut (degradedOverShown s.dev.cleared)
  have hover := degradedOver_sameBut s.dev.cleared
  obtain ⟨hexp, hstop, hdem⟩ := degradedOver_lane (d := s.dev.cleared) hl
  have hlane : laneOf (showDegraded (degradedOverShown s.dev.cleared)) l = laneOf (degradedOver s.dev.cleared) l :=
    (hshow.laneOf_eq (by simp) l).trans (by simp [degradedOverShown])
  have hgo : (laneOf s.dev s.dev.firstLane).saf.degLeft = some 0 ∧ !(laneOf s.dev s.dev.firstLane).saf.degExpired := ⟨hz, by simp [hx]⟩
  refine .of_result (e := showDegraded (degradedOverShown s.dev.cleared)) (exec_degTimerExpired s) (if_pos hgo) ⟨?_, ?_, ?_⟩
  · rw [hshow.rd_eq _ _ (by simp) (by simp), degradedOverShown, (Dev.event_sameBut ..).rd_eq _ _ (by simp) (by simp)]
    simp
  · refine Dev.logged_of_log (hshow.rest .log (by simp)) (Dev.event_logged _ _ _ ?_)
    simpa [hover.rd_eq] using hu
  · rw [hlane]
    exact ⟨hexp, hstop, hdem⟩

theorem degTimerExpired_notDue (h : (laneOf s.dev s.dev.firstLane).saf.degLeft ≠ some 0) :
    Completes .degTimerExpired s [] [] fun e => e.out = [] :=
  .of_unchanged (exec_degTimerExpired s) (if_neg fun hc => h hc.1)

/-- Degraded operation ends: no lane counts its time, and the lane faults no longer count. -/
def degradedStopped (d : Dev) : Dev := clearFaults (d.each Lane.all fun d l => onSaf d l fun y => { y with degLeft := none }) .lane none

/-- The mode after degraded operation. -/
def degradedLeft (d : Dev) : Dev := if d.mode = .degraded then d.setMode .run else d

theorem degradedStopped_lane (d : Dev) (l : Lane) : (laneOf (degradedStopped d) l).saf.degLeft = none := by
  unfold degradedStopped
  rw [(clearFaults_sameBut ..).laneOf_eq (by simp)]
  refine Dev.each_reaches (P := fun b => (laneOf b l).saf.degLeft = none) (x := l) (fun b => ?_) (fun b y hb => ?_) (mem_allLanes l) d
  · rw [onSaf_saf, if_pos rfl]
  · rw [onSaf_saf]
    split <;> [rfl; exact hb]

theorem degradedStopped_faults (d : Dev) : ∀ p ∈ (degradedStopped d).fault.counted, p.1 ≠ 1 := by
  unfold degradedStopped clearFaults
  intro p hp
  have hleft : p ∈ (d.each Lane.all fun d l => onSaf d l fun y => { y with degLeft := none }).fault.counted.filter fun p =>
      !(decide (p.1 = faultCode .lane) && true) := by
    dsimp only at hp
    split at hp <;> exact hp
  have hcode := (List.mem_filter.mp hleft).2
  rw [Bool.and_true, Bool.not_eq_true', decide_eq_false_iff_not] at hcode
  exact hcode

theorem degradedStopped_sameBut (d : Dev) : SameBut d (degradedStopped d) faultFields [] [.lanes, .fault] :=
  SameBut.next (.each (fun b l _ => (onSaf_sameBut b l _).mono (by simp) (by simp) (by simp)) (.refl _ _ _ _)) (clearFaults_sameBut ..)
    (by simp) (by simp) (by simp)

theorem degradedLeft_sameBut (d : Dev) : SameBut d (degradedLeft d) [SYS_MODE_MODE] [] [] := by
  unfold degradedLeft
  split
  · exact (SameBut.refl _ _ _ _).wr _ _ _ (by simp)
  · exact .refl _ _ _ _

theorem degradedLeft_mode {d : Dev} (h : d.mode = .degraded) : (degradedLeft d).mode = .run := by
  unfold degradedLeft
  rw [if_pos h]
  simp [Dev.setMode, Dev.mode, modeCode]

theorem degTimerStop_stops (hz : (laneOf s.dev s.dev.firstLane).saf.degLeft.isSome = true)
    (hx : (laneOf s.dev s.dev.firstLane).saf.degExpired = false) (hh : healthy s.dev = true) :
    Answers .degTimerStop s fun e => (∀ l : Lane, (laneOf e l).saf.degLeft = none) ∧ (∀ p ∈ e.fault.counted, p.1 ≠ 1) ∧
      e.rd SAF_DEG_STATUS_ACTIVE = 0 ∧ (s.dev.mode = .degraded → e.mode = .run) := by
  have hstop := degradedStopped_sameBut s.dev.cleared
  have hleft := degradedLeft_sameBut (degradedStopped s.dev.cleared)
  have hshow := showDegraded_sameBut (degradedLeft (degradedStopped s.dev.cleared))
  have hlane (l : Lane) : (laneOf (degradedLeft (degradedStopped s.dev.cleared)) l).saf.degLeft = none := by
    rw [hleft.laneOf_eq (by simp)]
    exact degradedStopped_lane ..
  have hgo : (laneOf s.dev s.dev.firstLane).saf.degLeft.isSome ∧ !(laneOf s.dev s.dev.firstLane).saf.degExpired ∧ healthy s.dev :=
    ⟨hz, by simp [hx], hh⟩
  refine .of_result (e := showDegraded (degradedLeft (degradedStopped s.dev.cleared))) (exec_degTimerStop s) (if_pos hgo)
    ⟨fun l => ?_, ?_, ?_, fun hm => ?_⟩
  · rw [hshow.laneOf_eq (by simp)]
    exact hlane l
  · rw [show (showDegraded (degradedLeft (degradedStopped s.dev.cleared))).fault = (degradedStopped s.dev.cleared).fault from
      (hshow.rest .fault (by simp)).trans (hleft.rest .fault (by simp))]
    exact degradedStopped_faults _
  · simp [showDegraded, Dev.put, hlane, bitOf]
  · rw [hshow.mode_eq (by simp) (by simp)]
    exact degradedLeft_mode ((hstop.mode_eq (by simp) (by simp)).trans hm)

theorem degTimerStop_notHealthy (h : healthy s.dev = false) : Completes .degTimerStop s [] [] fun e => e.out = [] :=
  .of_unchanged (exec_degTimerStop s) (if_neg fun hc => by
    rw [show healthy s.dev.cleared = false from h] at hc
    exact absurd hc.2.2 (by simp))

/-! The tightening of limits (R126). -/

/-- The end of a tightening ramp of `r` frames, in one lane's safety state. -/
def rampStep (r : Nat) (y : SafState) : SafState :=
  if y.tight ∧ r ≤ y.tightFr + 1 then { y with tightFr := r }
  else if !y.tight ∧ y.tightFr ≤ 1 then { y with tightFr := 0 } else y

/-- One lane's part of the end of the tightening ramp. -/
def rampEnd (d : Dev) (l : Lane) : Dev := onSaf d l (rampStep (rampFrames d (laneOf d l).image.params))

theorem execTighteningRampEnd_eq (s : State) :
    exec .tighteningRampEnd s = s.run fun d => d.each (Lane.all.filter fun l => evaluates d l) rampEnd := rfl

theorem rampEnd_sameBut (d : Dev) (l : Lane) : SameBut d (rampEnd d l) [] [] [.lanes] := onSaf_sameBut ..

/-- Lane `l` is as it was, and so is every register. -/
structure LaneAlone (l : Lane) (d e : Dev) : Prop where
  lane : laneOf e l = laneOf d l
  rd : ∀ f i, e.rd f i = d.rd f i

theorem LaneAlone.refl (l : Lane) (d : Dev) : LaneAlone l d d := ⟨rfl, fun _ _ => rfl⟩

theorem LaneAlone.trans {l : Lane} {a b c : Dev} (h : LaneAlone l a b) (k : LaneAlone l b c) : LaneAlone l a c :=
  ⟨k.lane.trans h.lane, fun f i => (k.rd f i).trans (h.rd f i)⟩

theorem LaneAlone.onSaf {l k : Lane} (d : Dev) (f : SafState → SafState) (h : k ≠ l) : LaneAlone l d (onSaf d k f) :=
  ⟨by simp [Machine.onSaf, Ne.symm h], fun _ _ => rfl⟩

theorem tighteningRampEnd_ends (he : evaluates s.dev l = true) (ht : (laneOf s.dev l).saf.tight = true)
    (hr : rampFrames s.dev (laneOf s.dev l).image.params ≤ (laneOf s.dev l).saf.tightFr + 1) :
    Touches .tighteningRampEnd s [] [] [.lanes] ∧
    Answers .tighteningRampEnd s fun e => (laneOf e l).saf.tightFr = rampFrames s.dev (laneOf s.dev l).image.params := by
  have hmem : l ∈ Lane.all.filter fun l => evaluates s.dev.cleared l := List.mem_filter.mpr ⟨mem_allLanes l, he⟩
  refine ⟨.of_effect (execTighteningRampEnd_eq s) ?_, .of_effect (execTighteningRampEnd_eq s) ?_⟩
  · exact (SameBut.cleared s.dev |>.mono (by simp) (by simp) (by simp)).trans (.each (fun b k _ => rampEnd_sameBut b k) (.refl _ _ _ _))
  · obtain ⟨p, hp, hpe⟩ :=
    Dev.each_split (LaneAlone.refl l) LaneAlone.trans (f := rampEnd) (x := l) (fun b y hy => LaneAlone.onSaf b _ hy) hmem
      (allLanes_nodup.filter _) s.dev.cleared
    have hframe : rampFrames p (laneOf p l).image.params = rampFrames s.dev (laneOf s.dev l).image.params := by
      rw [hp.lane]
      simp [rampFrames, Dev.frameNs, Dev.periodUnits, hp.rd]
    rw [hpe.lane, rampEnd, onSaf_saf, if_pos rfl, hframe, hp.lane, rampStep]
    exact congrArg SafState.tightFr (if_pos ⟨ht, hr⟩)

end Degraded
/-! The loss of the tick (R39). -/

section TickLost
variable {s : State} {l : Lane} {miss : PerLane Bool}

/-- The lanes that run. -/
def runningLanes (d : Dev) : List Lane := Lane.all.filter fun l => decide (laneMode d l ≠ .absent ∧ laneMode d l ≠ .boot)

/-- Of them, those that no tick has reached. -/
def lostLanes (d : Dev) (miss : PerLane Bool) : List Lane := (runningLanes d).filter fun l => miss.get l

/-- What each lane that has lost the tick does at once. -/
def tickMissed (d : Dev) (l : Lane) : Dev := (loadSafe (onLane d l fun x => { x with goodTicks := 0 }) l).event .TICK_LOST (srcLane l)

theorem execTickLost_eq (miss : PerLane Bool) (s : State) : exec (.tickLost miss) s = s.run fun d =>
    if lostLanes d miss = [] then d.each (lostLanes d miss) tickMissed
    else if lostLanes d miss = runningLanes d then deEnergise (countFault (d.each (lostLanes d miss) tickMissed) .shared 0 .TICK_LOST)
    else (d.each (lostLanes d miss) tickMissed).each (lostLanes d miss) loseTick := rfl

theorem mem_runningLanes {d : Dev} : l ∈ runningLanes d ↔ laneMode d l ≠ .absent ∧ laneMode d l ≠ .boot := by
  rw [runningLanes, List.mem_filter, decide_eq_true_eq]
  exact and_iff_right (mem_allLanes l)

theorem mem_lostLanes {d : Dev} : l ∈ lostLanes d miss ↔ (laneMode d l ≠ .absent ∧ laneMode d l ≠ .boot) ∧ miss.get l = true := by
  rw [lostLanes, List.mem_filter, mem_runningLanes]

theorem tickMissed_sameBut (d : Dev) (l : Lane) : SameBut d (tickMissed d l) recordFields [] [.lanes, .rings, .log] :=
  (((SameBut.refl d _ _ _).onLane l _ (by simp)).onRing l _ (by simp)).eventIn _ _ _ _ (by simp) (by simp)

theorem tickMissed_all_sameBut (d : Dev) (ls : List Lane) : SameBut d (d.each ls tickMissed) recordFields [] [.lanes, .rings, .log] :=
  .each (fun b k _ => tickMissed_sameBut b k) (.refl _ _ _ _)

/-- A lane that takes part, or is on its way back to it, when it loses the tick alone. -/
def onTheWay (m : LaneMode) : Prop := m = .inService ∨ m = .shadow ∨ m = .resync ∨ m = .reload

/-- Lane `l` has lost the tick: it is FAULTED, shows it, and its outputs are off. -/
def Dev.tickLostOut (d : Dev) (l : Lane) : Prop := laneMode d l = .faulted ∧ d.rd LN_STATUS_TICK_LOST l.idx = 1 ∧ (laneOf d l).safe

/-- A fault leaves another lane as it was, or stops its transfer. -/
theorem laneFault_mode_other {d : Dev} {l k : Lane} (e : Ev) (hk : l ≠ k) :
    laneMode (laneFault d k .faulted e) l = laneMode d l ∨ laneMode (laneFault d k .faulted e) l = .resync := by
  have hown (n : LaneMode) (b : Bool) : laneMode (laneFaultOwn d k n e b) l = laneMode d l :=
    laneMode_congr (laneFaultOwn_state_other e b hk)
  unfold laneFault
  extract_lets was n d1 d2
  split
  · exact .inl (hown n was)
  · rw [if_neg (by simp)]
    exact (hown n was) ▸ reviewLanes_mode d2 l

/-- The loss is shown and kept in the lane. -/
def tickLossShown (d : Dev) (l : Lane) : Dev := onLane (d.flag LN_STATUS_TICK_LOST l.idx) l fun x => { x with tickLost := true }

theorem tickLossShown_sameBut (d : Dev) (l : Lane) : SameBut d (tickLossShown d l) [] [(LN_STATUS_TICK_LOST, l.idx)] [.lanes] :=
  ((SameBut.refl d _ _ _).wr _ _ _ (by simp)).onLane l _ (by simp)

theorem tickLossShown_mode (d : Dev) (k l : Lane) : laneMode (tickLossShown d k) l = laneMode d l :=
  (tickLossShown_sameBut d k).laneMode_eq l (by simp) (by simp)

theorem tickLossShown_safe (d : Dev) (k : Lane) : LanesKeep LaneState.safe d (tickLossShown d k) :=
  ((LanesKeep.refl _ d).wr _ _ _).onLane k _ fun _ => rfl

/-- A lane on its way faults; the outputs of any other are switched off. -/
theorem loseTick_cases (d : Dev) (k : Lane) :
    (onTheWay (laneMode d k) ∧ loseTick d k = laneFault (tickLossShown d k) k .faulted .TICK_LOST) ∨
      (¬ onTheWay (laneMode d k) ∧ loseTick d k = setSafeOk (setGates (tickLossShown d k) k 0) k false) := by
  have hmode := tickLossShown_mode d k k
  have heq : loseTick d k = match laneMode (tickLossShown d k) k with
      | .inService | .shadow | .resync | .reload => laneFault (tickLossShown d k) k .faulted .TICK_LOST
      | .absent | .boot | .selftest | .faulted | .debug => setSafeOk (setGates (tickLossShown d k) k 0) k false := rfl
  rw [heq, hmode]
  cases laneMode d k <;> simp [onTheWay]

theorem outputsOff_sameBut (d : Dev) (k : Lane) :
    SameBut d (setSafeOk (setGates d k 0) k false) [SAF_BRK_STAT_GATE, SAF_SAFE_OK_LEVEL] [] [.lanes] :=
  SameBut.next ((setGates_sameBut d k 0).mono (by simp) (by simp) (by simp)) (setSafeOk_sameBut ..) (by simp) (by simp) (by simp)

/-- What switching the outputs of a lane off leaves of a lane that has lost the tick. -/
theorem Dev.tickLostOut.outputsOff {d : Dev} (h : d.tickLostOut l) (k : Lane) : (setSafeOk (setGates d k 0) k false).tickLostOut l := by
  obtain ⟨hmode, hlost, hsafe⟩ := h
  have hsame := outputsOff_sameBut d k
  refine ⟨(hsame.laneMode_eq l (by simp) (by simp)).trans hmode, (hsame.rd_eq _ _ (by simp) (by simp)).trans hlost, ?_⟩
  by_cases hk : l = k
  · simp [hk, LaneState.safe]
  · simpa [hk] using hsafe

/-- A lane on its way, and one that has lost the tick, has lost it after its turn. -/
theorem loseTick_out {d : Dev} (h : onTheWay (laneMode d l) ∨ d.tickLostOut l) : (loseTick d l).tickLostOut l := by
  have hshown : (tickLossShown d l).rd LN_STATUS_TICK_LOST l.idx = 1 := by simp [tickLossShown]
  rcases loseTick_cases d l with ⟨hw, he⟩ | ⟨hw, he⟩
  · have hd : laneMode (tickLossShown d l) l ≠ .debug := by
      rw [tickLossShown_mode]
      rcases hw with hw | hw | hw | hw <;> simp [hw]
    obtain ⟨hmode, hsafe⟩ := laneFault_lane (tickLossShown d l) l .TICK_LOST false (.inl rfl)
    rw [if_neg fun hc => hd hc.1] at hmode
    rw [he]
    exact ⟨hmode, ((laneFault_sameBut ..).rd_eq _ _ (by simp) (by simp)).trans hshown, hsafe⟩
  · obtain ⟨hmode, -, hsafe⟩ := h.resolve_left hw
    rw [he]
    exact Dev.tickLostOut.outputsOff
      (⟨(tickLossShown_mode d l l).trans hmode, hshown, ((tickLossShown_safe d l).keep l).mpr hsafe⟩ : (tickLossShown d l).tickLostOut l) l

/-- The turn of another lane leaves a lane that has lost the tick. -/
theorem Dev.tickLostOut.loseTick {d : Dev} {k : Lane} (h : d.tickLostOut l) (hk : l ≠ k) : (loseTick d k).tickLostOut l := by
  obtain ⟨hmode, hlost, hsafe⟩ := h
  have hshown : (tickLossShown d k).tickLostOut l :=
    ⟨(tickLossShown_mode d k l).trans hmode, by simp [tickLossShown, Lane.idx_inj, hk, hlost], ((tickLossShown_safe d k).keep l).mpr hsafe⟩
  rcases loseTick_cases d k with ⟨-, he⟩ | ⟨-, he⟩ <;> rw [he]
  · obtain ⟨hm, hl, hs⟩ := hshown
    exact ⟨laneFault_faulted_of_ne _ _ hk hm, ((laneFault_sameBut ..).rd_eq _ _ (by simp) (by simp)).trans hl, laneFault_safe_of_safe _ _
        _ hs⟩
  · exact hshown.outputsOff k

/-- The turn of another lane leaves a lane on its way. -/
theorem loseTick_onTheWay {d : Dev} {k : Lane} (h : onTheWay (laneMode d l)) (hk : l ≠ k) : onTheWay (laneMode (loseTick d k) l) := by
  rw [← tickLossShown_mode d k l] at h
  rcases loseTick_cases d k with ⟨-, he⟩ | ⟨-, he⟩ <;> rw [he]
  · rcases laneFault_mode_other (d := tickLossShown d k) .TICK_LOST hk with hm | hm <;> rw [hm]
    · exact h
    · exact .inr (.inr (.inl rfl))
  · rw [(outputsOff_sameBut ..).laneMode_eq l (by simp) (by simp)]
    exact h

/-- Of the lanes that lose the tick, each that was on its way ends FAULTED. -/
theorem loseTicks_out {d : Dev} {ls : List Lane} (h : onTheWay (laneMode d l) ∨ d.tickLostOut l) (hl : l ∈ ls) :
    (d.each ls loseTick).tickLostOut l := by
  have hkeep (b : Dev) (k : Lane) (hb : b.tickLostOut l) : (loseTick b k).tickLostOut l := by
    by_cases hk : l = k
    · subst hk
      exact loseTick_out (.inr hb)
    · exact hb.loseTick hk
  induction ls generalizing d with
  | nil => cases hl
  | cons k ks ih =>
    by_cases hk : l = k
    · subst hk
      exact Dev.each_induct (P := fun b => b.tickLostOut l) (d := loseTick d l) (fun b k _ => hkeep b k) (loseTick_out h)
    · exact ih (h.imp (fun hw => loseTick_onTheWay hw hk) fun ho => ho.loseTick hk) ((List.mem_cons.mp hl).resolve_left hk)

/-- A lane on its way that loses the tick while another that runs has it is FAULTED. -/
theorem tickLost_alone (hw : onTheWay (laneMode s.dev l)) (hl : miss.get l = true)
    (hk : ∃ k : Lane, miss.get k = false ∧ laneMode s.dev k ≠ .absent ∧ laneMode s.dev k ≠ .boot) :
    Answers (.tickLost miss) s fun e => e.tickLostOut l := by
  obtain ⟨k, hkm, hka, hkb⟩ := hk
  have hrun : laneMode s.dev l ≠ .absent ∧ laneMode s.dev l ≠ .boot := by rcases hw with hw | hw | hw | hw <;> simp [hw]
  have hmem : l ∈ lostLanes s.dev.cleared miss := mem_lostLanes.mpr ⟨hrun, hl⟩
  have hsome : lostLanes s.dev.cleared miss ≠ [] := List.ne_nil_of_mem hmem
  have hnotAll : lostLanes s.dev.cleared miss ≠ runningLanes s.dev.cleared := fun h => by
    have hk' : k ∈ lostLanes s.dev.cleared miss := h ▸ mem_runningLanes.mpr ⟨hka, hkb⟩
    simp [(mem_lostLanes.mp hk').2] at hkm
  refine .of_result (execTickLost_eq miss s) ((if_neg hsome).trans (if_neg hnotAll)) (loseTicks_out (.inl ?_) hmem)
  rw [(tickMissed_all_sameBut ..).laneMode_eq l (by simp) (by simp)]
  exact hw

theorem tickLost_inService (hi : inService s.dev l = true) (hl : miss.get l = true) (ho : ∀ k : Lane, k ≠ l → miss.get k = false)
    (hk : ∃ k : Lane, k ≠ l ∧ laneMode s.dev k = .inService) :
    Answers (.tickLost miss) s fun e => laneMode e l = .faulted ∧ e.rd LN_STATUS_TICK_LOST l.idx = 1 ∧ (e.lanes.get l).safe := by
  obtain ⟨k, hkl, hkm⟩ := hk
  exact tickLost_alone (.inl (inService_iff.mp hi)) hl ⟨k, ho k hkl, by simp [hkm], by simp [hkm]⟩

theorem tickLost_onReturn (h : laneMode s.dev l = .shadow ∨ laneMode s.dev l = .resync ∨ laneMode s.dev l = .reload)
    (hl : miss.get l = true)
    (hk : ∃ k : Lane, miss.get k = false ∧ laneMode s.dev k ≠ .absent ∧ laneMode s.dev k ≠ .boot) :
    Answers (.tickLost miss) s fun e => laneMode e l = .faulted ∧ e.rd LN_STATUS_TICK_LOST l.idx = 1 := by
  obtain ⟨t, he, hq, hmode, hlost, -⟩ := tickLost_alone (.inr h) hl hk
  exact ⟨t, he, hq, hmode, hlost⟩

/-- All lanes that run have lost the tick: the device is in its safe state (R39, R112). -/
theorem tickLost_all (h : ∃ k : Lane, laneMode s.dev k ≠ .absent ∧ laneMode s.dev k ≠ .boot) :
    Answers (.tickLost ⟨true, true, true⟩) s fun e => e.safe ∧ (s.dev.mode ≠ .boot ∧ s.dev.mode ≠ .hold → e.mode = .safeState) := by
  obtain ⟨k, hk⟩ := h
  have hall : lostLanes s.dev.cleared ⟨true, true, true⟩ = runningLanes s.dev.cleared :=
    List.filter_eq_self.mpr fun m _ => by cases m <;> rfl
  have hsome : lostLanes s.dev.cleared ⟨true, true, true⟩ ≠ [] := List.ne_nil_of_mem (hall ▸ mem_runningLanes.mpr hk)
  have hmode : (countFault (s.dev.cleared.each (lostLanes s.dev.cleared ⟨true, true, true⟩) tickMissed) .shared 0 .TICK_LOST).mode =
      s.dev.mode :=
    ((countFault_sameBut ..).mode_eq (by simp) (by simp)).trans ((tickMissed_all_sameBut ..).mode_eq (by simp) (by simp))
  exact .of_result (execTickLost_eq _ s) ((if_neg hsome).trans (if_pos hall))
    ⟨fun l => deEnergise_safe _ l, fun ⟨hb, hh⟩ => deEnergise_mode (by rwa [hmode]) (by rwa [hmode])⟩

theorem tickLost_none : Completes (.tickLost ⟨false, false, false⟩) s [] [] fun e => e.out = [] := by
  have hnone : lostLanes s.dev.cleared ⟨false, false, false⟩ = [] := List.filter_eq_nil_iff.mpr fun m _ => by cases m <;> decide
  refine .of_unchanged (execTickLost_eq _ s) ((if_pos hnone).trans ?_)
  rw [hnone]
  rfl

end TickLost

end Sys2Proof.Machine
end

section
/-!
SUPPORT. The completion limit of a cycle (R113, R170, R172), and O16.
-/
namespace Sys2Proof.Machine
open RegField

/-! The completion limit of a cycle (R113, R170, R172). -/

/-- What the completion limit judges of a ring's cycle, and what it counts. -/
def RingState.flight (r : RingState) : Option Nat × Option Nat × Option Nat × Bool × Nat × Bool × Nat × Nat :=
  (r.inFlight, r.back0, r.back1, r.turned, r.untouched, r.wholeHop, r.closedRun, r.noReturn)

/-- The work on another ring leaves ring and lane `l`: its cycle, its start, whether it is in service, its fault and its outputs. -/
structure RingAlone (l : Lane) (d e : Dev) : Prop where
  flight : (ringOf e l).flight = (ringOf d l).flight
  start : e.rd ENT_START_STATE l.idx = d.rd ENT_START_STATE l.idx
  service : inService e l = inService d l
  faulted : laneMode d l = .faulted → laneMode e l = .faulted
  off : (laneOf d l).safe → (laneOf e l).safe
  lost : (d.rd SAF_LANE_OUT_RING_LOST).testBit l.idx = true → (e.rd SAF_LANE_OUT_RING_LOST).testBit l.idx = true

section RingAlone
variable {l k : Lane} {a d e : Dev}

theorem RingAlone.refl (l : Lane) (d : Dev) : RingAlone l d d := ⟨rfl, rfl, rfl, id, id, id⟩

theorem RingAlone.trans (h : RingAlone l a d) (g : RingAlone l d e) : RingAlone l a e :=
  ⟨g.flight.trans h.flight, g.start.trans h.start, g.service.trans h.service, g.faulted ∘ h.faulted, g.off ∘ h.off, g.lost ∘ h.lost⟩

/-- What changes no lane, no state of a lane, no start of ring `l` and nothing of its cycle leaves ring and lane `l`. -/
theorem RingAlone.of_sameBut {fs : List RegField} {es : List (RegField × Nat)} {ps : List Part} (h : SameBut d e fs es ps)
    (hr : (ringOf e l).flight = (ringOf d l).flight) (hm : LN_STATUS_STATE ∉ fs ∧ (LN_STATUS_STATE, l.idx) ∉ es)
    (hs : ENT_START_STATE ∉ fs ∧ (ENT_START_STATE, l.idx) ∉ es) (ho : SAF_LANE_OUT_RING_LOST ∉ fs ∧ (SAF_LANE_OUT_RING_LOST, 0) ∉ es)
    (hl : .lanes ∉ ps) : RingAlone l d e := by
  have hmode : e.rd LN_STATUS_STATE l.idx = d.rd LN_STATUS_STATE l.idx := h.rd_eq _ _ hm.1 hm.2
  refine ⟨hr, h.rd_eq _ _ hs.1 hs.2, inService_congr hmode, (laneMode_congr hmode).trans, fun hsafe => ?_, fun hbit => ?_⟩
  · rwa [h.laneOf_eq hl]
  · rwa [h.rd_eq _ _ ho.1 ho.2]

theorem RingAlone.each {α : Type} {f : Dev → α → Dev} {xs : List α} (hf : ∀ b x, RingAlone l b (f b x)) (h : RingAlone l a d) :
    RingAlone l a (d.each xs f) := Dev.each_induct (P := fun b => RingAlone l a b) (fun b x _ hb => hb.trans (hf b x)) h

theorem RingAlone.wr (h : RingAlone l a d) (f : RegField) (i v : Nat) (hm : f ≠ LN_STATUS_STATE) (hs : f = ENT_START_STATE → i ≠ l.idx)
    (ho : f ≠ SAF_LANE_OUT_RING_LOST) : RingAlone l a (d.wr f i v) := by
  refine h.trans (.of_sameBut (fs := []) (es := [(f, i)]) (ps := []) ((SameBut.refl _ _ _ _).wr _ _ _ (by simp)) rfl ?_ ?_ ?_ (by simp))
  · simp [Ne.symm hm]
  · simp only [List.not_mem_nil, not_false_eq_true, List.mem_singleton, Prod.mk.injEq, true_and, not_and]
    exact fun hf => Ne.symm (hs hf.symm)
  · simp [Ne.symm ho]

theorem RingAlone.event (h : RingAlone l a d) (x : Ev) (s i n : Nat) : RingAlone l a (d.event x s i n) :=
  h.trans (.of_sameBut (fs := recordFields) (es := []) (ps := [.log]) ((SameBut.refl _ _ _ _).eventIn _ _ _ _ (by simp) (by simp)) (by simp)
    (by simp) (by simp) (by simp) (by simp))

theorem RingAlone.onRing (h : RingAlone l a d) (k : Lane) (f : RingState → RingState) (hk : k = l → ∀ r, (f r).flight = r.flight) :
    RingAlone l a (onRing d k f) := by
  refine h.trans (.of_sameBut (fs := []) (es := []) (ps := [.rings]) ((SameBut.refl _ _ _ _).onRing k f (by simp)) ?_ (by simp) (by simp)
    (by simp) (by simp))
  rw [ringOf_onRing]
  split
  · next hlk =>
    subst hlk
    exact hk rfl _
  · rfl

theorem RingAlone.when (h : RingAlone l a d) (c : Bool) {f : Dev → Dev} (hf : RingAlone l d (f d)) : RingAlone l a (d.when c f) := by
  cases c
  · exact h
  · exact h.trans hf

theorem RingAlone.ite (c : Prop) [Decidable c] (h : RingAlone l a d) (g : RingAlone l a e) : RingAlone l a (if c then d else e) := by
  split
  · exact h
  · exact g

theorem RingAlone.of_tells (h : TellsNodes d e) : RingAlone l d e :=
  .of_sameBut h.frame (congrArg RingState.flight (h.rings.keep l) :) (by simp) (by simp) (by simp) (by simp)

theorem RingAlone.of_fault {fs : List RegField} (h : SameBut d e fs [] [.fault]) (hm : LN_STATUS_STATE ∉ fs) (hs : ENT_START_STATE ∉ fs)
    (ho : SAF_LANE_OUT_RING_LOST ∉ fs) : RingAlone l d e :=
  .of_sameBut h (congrArg (fun r => (PerLane.get r l).flight) (h.rest .rings (by simp))) (by simp [hm]) (by simp [hs]) (by simp [ho])
      (by simp)

end RingAlone

/-! What another ring's work at the completion limit leaves. -/

section OtherRing
variable {l k : Lane} (d : Dev)

theorem errorFrame_alone (q : Nat) : RingAlone l d (errorFrame k d q) := by
  unfold errorFrame
  extract_lets thr win0 win above quiet d1
  have h1 : RingAlone l d d1 := (RingAlone.refl l d).onRing k _ fun _ _ => rfl
  exact h1.when _ ((RingAlone.refl l d1).event ..)

theorem errorFrames_alone (qs : List Nat) : RingAlone l d (qs.foldl (errorFrame k) d) :=
  RingAlone.each (f := fun b q => errorFrame k b q) (fun b q => errorFrame_alone b q) (.refl l d)

theorem ringBreak_alone (t : Nat) (hk : k ≠ l) : RingAlone l d (ringBreak d k t) := by
  unfold ringBreak
  extract_lets was frame more d1 d2
  have h1 : RingAlone l d d1 := ((RingAlone.refl l d).onRing k _ fun h => absurd h hk).wr _ _ _ (by simp) (by simp) (by simp)
  have h2 : RingAlone l d d2 := h1.when _ ((RingAlone.refl l d1).event ..)
  exact h2.when _ (.of_fault (countFault_sameBut ..) (by simp) (by simp) (by simp))

theorem laneFault_alone (e : Ev) (hk : k ≠ l) : RingAlone l d (laneFault d k .faulted e) := by
  have hsame := laneFault_sameBut d k .faulted e false
  refine ⟨?_, hsame.rd_eq _ _ (by simp) (by simp), ?_, laneFault_faulted_of_ne _ _ hk.symm, laneFault_safe_of_safe _ _ _, fun h => ?_⟩
  · exact congrArg (fun r => (PerLane.get r l).flight) (hsame.rest .rings (by simp))
  · simp [laneFault_inService, hk.symm]
  · rwa [hsame.rd_eq _ _ (by simp) (by simp)]

theorem showBudget_alone : RingAlone l d (showBudget d k) :=
  ((RingAlone.refl l d).wr _ _ _ (by simp) (by simp) (by simp)).wr _ _ _ (by simp) (by simp) (by simp)

theorem useSchedule_alone (sc : List SchedEntry) (id : Nat) : RingAlone l d (useSchedule d k sc id) := by
  unfold useSchedule
  extract_lets d1 d2 d3 d4
  have h1 : RingAlone l d d1 := (RingAlone.refl l d).onRing k _ fun _ _ => rfl
  have h2 : RingAlone l d d2 := (h1.wr _ _ _ (by simp) (by simp) (by simp)).wr _ _ _ (by simp) (by simp) (by simp)
  have h3 : RingAlone l d d3 := h2.wr _ _ _ (by simp) (by simp) (by simp)
  have h4 : RingAlone l d d4 := h3.when _ (showBudget_alone d3)
  exact .each (fun b e => ((RingAlone.refl l b).wr _ _ _ (by simp) (by simp) (by simp)).wr _ _ _ (by simp) (by simp) (by simp)) h4

theorem classify_tells (p : Nat) (i : NodeIdent) : TellsNodes d (classify d k p i) := by
  unfold classify
  extract_lets sc
  split
  · next e _ =>
    extract_lets x ok d1 d2
    have h1 : TellsNodes d d1 := ((TellsNodes.refl d).wr _ _ _ (by simp)).wr _ _ _ (by simp)
    have h2 : TellsNodes d d2 := h1.onNode ..
    exact .ite _ (.ite _ (setNodeState_tells h2 ..) h2) (h1.trans (mismatch_tells ..))
  · exact (TellsNodes.refl d).event ..

theorem endEnumeration_alone (n : Nat) (nodes : SMap NodeIdent) (hk : k ≠ l) : RingAlone l d (endEnumeration d k n nodes) := by
  unfold endEnumeration
  extract_lets d1 s0 d2 d3
  have h1 : RingAlone l d d1 := ((RingAlone.refl l d).wr _ _ _ (by simp) (by simp) (by simp)).onRing k _ fun _ _ => rfl
  have h2 : RingAlone l d d2 := .ite _ (h1.trans (useSchedule_alone ..)) h1
  have h3 : RingAlone l d d3 := .each (fun b x => .of_tells (classify_tells ..)) h2
  exact (h3.wr _ _ _ (by simp) (fun _ => by simpa [Lane.idx_inj] using hk) (by simp)).event ..

theorem onRing_alone (f : RingState → RingState) (hk : k ≠ l) : RingAlone l d (onRing d k f) :=
  (RingAlone.refl l d).onRing k f fun h => absurd h hk

theorem endUnstable_alone (n : Nat) (hk : k ≠ l) : RingAlone l d (endUnstable d k n) := by
  unfold endUnstable
  extract_lets d1 d2
  have h1 : RingAlone l d d1 := (onRing_alone d _ hk).wr _ _ _ (by simp) (by simp) (by simp)
  have h2 : RingAlone l d d2 := h1.event ..
  exact (h2.wr _ _ _ (by simp) (fun _ => by simpa [Lane.idx_inj] using hk) (by simp)).event ..

theorem judgeEnumeration_alone (hk : k ≠ l) : RingAlone l d (judgeEnumeration d k) := by
  unfold judgeEnumeration
  extract_lets r res whole d1
  have h1 : RingAlone l d d1 := onRing_alone d _ hk
  clear_value res d1
  cases res with
  | some x =>
    refine .ite _ ?_ (.ite _ (h1.trans (endUnstable_alone _ _ hk)) (h1.trans (onRing_alone _ _ hk)))
    exact (h1.trans (onRing_alone _ _ hk)).trans (endEnumeration_alone _ _ _ hk)
  | none => exact .ite _ (h1.trans (endUnstable_alone _ _ hk)) (h1.trans (onRing_alone _ _ hk))

end OtherRing

/-! The completion limit of one ring. -/

/-- The copies of a cycle that have come back. -/
def RingState.copiesBack (r : RingState) : Nat := bitOf r.back0.isSome + bitOf r.back1.isSome

/-- The cycle of ring `l` is judged and over; one copy alone shows a break. -/
def cycleOver (d : Dev) (l : Lane) : Dev :=
  let e := closeCycle d l
  let e := if (ringOf d l).copiesBack = 1 ∧ !(ringOf d l).turned then ringBreak e l (e.rd ENT_STAT_TURN_ID l.idx) else e
  onRing e l fun r => { r with inFlight := none }

/-- A lane whose ring has returned no copy in two consecutive frames leaves service. -/
def ringLost (d : Dev) (l : Lane) : Dev :=
  laneFault ((d.wrBit SAF_LANE_OUT_RING_LOST 0 l.idx true).event .RING_LOST (srcLane l)) l .faulted .RING_LOST

/-- A ring without a copy of its cycle. -/
def cycleNotBack (d : Dev) (l : Lane) : Dev :=
  let e := onRing d l fun r => { r with noReturn := min 2 (r.noReturn + 1), validRun := 0, closedRun := 0 }
  if (ringOf e l).noReturn = 2 ∧ inService e l then ringLost e l else e

/-- A ring is closed again after 16 clean cycles. -/
def ringClosed (d : Dev) (l : Lane) : Dev :=
  (clearFaults (d.wr ENT_STAT_BREAK l.idx 0) .brk (some l.idx)).event .RING_CLOSED (srcRing l) l.idx

/-- A ring with a copy of its cycle; `r` is the ring as the cycle came back. -/
def cycleBack (d : Dev) (l : Lane) (r : RingState) : Dev :=
  let e := onRing d l fun r => { r with noReturn := 0, validRun := min 16 (r.validRun + 1) }
  if r.copiesBack = 1 ∨ r.turned ∨ !r.wholeHop ∨ r.untouched ≠ 2 then onRing e l fun r => { r with closedRun := 0 }
  else
    let e := onRing e l fun r => { r with closedRun := min 16 (r.closedRun + 1) }
    if (ringOf e l).closedRun = 16 ∧ e.on ENT_STAT_BREAK l.idx then ringClosed e l else e

theorem completeCycle_eq {d : Dev} {l : Lane} {n : Nat} (h : (ringOf d l).inFlight = some n) : completeCycle d l =
    if (ringOf d l).copiesBack = 0 then cycleNotBack (cycleOver d l) l else cycleBack (cycleOver d l) l (ringOf d l) := by
  unfold completeCycle
  extract_lets r
  rw [h]
  rfl

theorem completeCycle_idle {d : Dev} {l : Lane} (h : (ringOf d l).inFlight = none) : completeCycle d l = d := by
  unfold completeCycle
  extract_lets r
  rw [h]

theorem setBit_testBit (n b j : Nat) : (setBit n b true).testBit j = (n.testBit j || decide (j = b)) := by
  unfold setBit
  split
  · next h =>
    by_cases hj : j = b
    · simp [hj, h]
    · simp [hj]
  · next h => exact testBit_add_two_pow (by simpa using h) j

/-- RING_LOST has a bit for each lane. -/
theorem ringLost_testBit (d : Dev) (k l : Lane) : ((d.wrBit SAF_LANE_OUT_RING_LOST 0 k.idx true).rd SAF_LANE_OUT_RING_LOST).testBit l.idx =
    ((d.rd SAF_LANE_OUT_RING_LOST).testBit l.idx || decide (l.idx = k.idx)) := by
  have hl : l.idx < 3 := by cases l <;> decide
  rw [Dev.wrBit_eq, Dev.rd_wr, if_pos ⟨rfl, rfl⟩, RegField.width_SAF_LANE_OUT_RING_LOST, Nat.testBit_mod_two_pow, setBit_testBit]
  simp [hl]

section CompleteAlone
variable {l k : Lane} (d : Dev)

theorem cycleOver_alone (hk : k ≠ l) : RingAlone l d (cycleOver d k) := by
  unfold cycleOver
  extract_lets e1 e2
  have h1 : RingAlone l d e1 := .of_tells (closeCycle_tells ..)
  have h2 : RingAlone l d e2 := .ite _ (h1.trans (ringBreak_alone _ _ hk)) h1
  exact h2.trans (onRing_alone _ _ hk)

theorem ringLost_alone (hk : k ≠ l) : RingAlone l d (ringLost d k) := by
  unfold ringLost
  have hbit : RingAlone l d (d.wrBit SAF_LANE_OUT_RING_LOST 0 k.idx true) := by
    have hsame : SameBut d (d.wrBit SAF_LANE_OUT_RING_LOST 0 k.idx true) [] [(SAF_LANE_OUT_RING_LOST, 0)] [] :=
      (SameBut.refl d _ _ _).wr _ _ _ (by simp)
    refine ⟨rfl, hsame.rd_eq _ _ (by simp) (by simp), inService_congr (hsame.rd_eq _ _ (by simp) (by simp)),
      (hsame.laneMode_eq l (by simp) (by simp)).trans, id, fun h => ?_⟩
    rw [ringLost_testBit, h]
    rfl
  exact (hbit.event ..).trans (laneFault_alone _ _ hk)

theorem cycleNotBack_alone (hk : k ≠ l) : RingAlone l d (cycleNotBack d k) := by
  unfold cycleNotBack
  extract_lets e
  have h1 : RingAlone l d e := onRing_alone d _ hk
  exact .ite _ (h1.trans (ringLost_alone _ hk)) h1

theorem ringClosed_alone : RingAlone l d (ringClosed d k) := by
  unfold ringClosed
  have h1 : RingAlone l d (d.wr ENT_STAT_BREAK k.idx 0) := (RingAlone.refl l d).wr _ _ _ (by simp) (by simp) (by simp)
  exact (h1.trans (.of_fault (clearFaults_sameBut ..) (by simp) (by simp) (by simp))).event ..

theorem cycleBack_alone (r : RingState) (hk : k ≠ l) : RingAlone l d (cycleBack d k r) := by
  unfold cycleBack
  extract_lets e e2
  have h1 : RingAlone l d e := onRing_alone d _ hk
  have h2 : RingAlone l d e2 := h1.trans (onRing_alone _ _ hk)
  exact .ite _ (h1.trans (onRing_alone _ _ hk)) (.ite _ (h2.trans (ringClosed_alone _)) h2)

theorem completeCycle_alone (hk : k ≠ l) : RingAlone l d (completeCycle d k) := by
  cases h : (ringOf d k).inFlight with
  | none => rw [completeCycle_idle h]; exact .refl l d
  | some n =>
    rw [completeCycle_eq h]
    have hover := cycleOver_alone d hk
    exact .ite _ (hover.trans (cycleNotBack_alone _ hk)) (hover.trans (cycleBack_alone _ _ hk))

/-- The completion limit of another ring leaves ring and lane `l`. -/
theorem completeRing_alone (hk : k ≠ l) : RingAlone l d (completeRing d k) := by
  unfold completeRing
  extract_lets e
  have h1 : RingAlone l d e := .ite _ (judgeEnumeration_alone d hk) (completeCycle_alone d hk)
  exact h1.trans (errorFrames_alone e [0, 1])

end CompleteAlone

/-! A ring's own completion limit. -/

section CompleteOwn
variable {l : Lane} {d : Dev} {s : State}

theorem completeRing_own (h : d.rd ENT_START_STATE l.idx ≠ 2) : RingAlone l (completeCycle d l) (completeRing d l) := by
  unfold completeRing
  rw [if_neg fun hc => h hc.1]
  exact errorFrames_alone (completeCycle d l) [0, 1]

/-- Nothing comes back of a cycle: nothing is broken, and its flight is over. -/
theorem cycleOver_flight (hb : (ringOf d l).copiesBack = 0 ∨ (ringOf d l).copiesBack = 2) :
    (ringOf (cycleOver d l) l).flight = { ringOf d l with inFlight := none }.flight ∧ inService (cycleOver d l) l = inService d l := by
  have hc : RingAlone l d (closeCycle d l) := .of_tells (closeCycle_tells ..)
  have he : cycleOver d l = onRing (closeCycle d l) l fun r => { r with inFlight := none } := by
    unfold cycleOver
    extract_lets e1 e2
    have h2 : e2 = e1 := if_neg fun h => by rcases hb with hb | hb <;> rw [hb] at h <;> exact absurd h.1 (by decide)
    rw [h2]
  have hf := hc.flight
  simp only [RingState.flight, Prod.mk.injEq] at hf
  obtain ⟨-, h0, h1, ht, hu, hw, hr, hn⟩ := hf
  rw [he, ringOf_onRing, if_pos rfl]
  exact ⟨by simp [RingState.flight, h0, h1, ht, hu, hw, hr, hn], hc.service⟩

/-- A ring that loses its second cycle in a row takes its lane out of service (R113). -/
def Dev.ringOut (d : Dev) (l : Lane) : Prop :=
  laneMode d l = .faulted ∧ (laneOf d l).safe ∧ (d.rd SAF_LANE_OUT_RING_LOST).testBit l.idx = true ∧ (ringOf d l).inFlight = none

/-- RING_LOST is shown and recorded. -/
def ringLossShown (d : Dev) (l : Lane) : Dev := (d.wrBit SAF_LANE_OUT_RING_LOST 0 l.idx true).event .RING_LOST (srcLane l)

theorem ringLost_out (hi : inService d l = true) (hr : (ringOf d l).inFlight = none) : (ringLost d l).ringOut l := by
  have hsame := laneFault_sameBut (ringLossShown d l) l .faulted .RING_LOST false
  obtain ⟨hmode, hsafe⟩ := laneFault_lane (ringLossShown d l) l .RING_LOST false (.inl rfl)
  have hev (f : RegField) (i : Nat) (hf : f ∉ recordFields) :
      (ringLossShown d l).rd f i = (d.wrBit SAF_LANE_OUT_RING_LOST 0 l.idx true).rd f i :=
    SameBut.rd_eq ((SameBut.refl _ recordFields [] [.log]).eventIn _ _ _ _ (by simp) (by simp)) _ _ hf (by simp)
  have hd : laneMode (ringLossShown d l) l ≠ .debug := by
    have hstate : (ringLossShown d l).rd LN_STATUS_STATE l.idx = d.rd LN_STATUS_STATE l.idx := (hev _ _ (by simp)).trans (by simp)
    rw [laneMode_congr hstate, inService_iff.mp hi]
    simp
  rw [if_neg fun hc => hd hc.1] at hmode
  refine ⟨hmode, hsafe, ?_, ?_⟩
  · change ((laneFault (ringLossShown d l) l .faulted .RING_LOST).rd SAF_LANE_OUT_RING_LOST).testBit l.idx = true
    rw [hsame.rd_eq _ _ (by simp) (by simp), hev _ _ (by simp), ringLost_testBit]
    simp
  · change (PerLane.get (laneFault (ringLossShown d l) l .faulted .RING_LOST).rings l).inFlight = none
    rw [show (laneFault (ringLossShown d l) l .faulted .RING_LOST).rings = (ringLossShown d l).rings from hsame.rest .rings (by simp)]
    change (ringOf (ringLossShown d l) l).inFlight = none
    simpa [ringLossShown] using hr

theorem Dev.ringOut.alone {e : Dev} (h : d.ringOut l) (g : RingAlone l d e) : e.ringOut l := by
  obtain ⟨hmode, hsafe, hlost, hflight⟩ := h
  exact ⟨g.faulted hmode, g.off hsafe, g.lost hlost, (congrArg Prod.fst g.flight :).trans hflight⟩

theorem completeCycle_out {n : Nat} (hn : (ringOf d l).inFlight = some n) (h0 : (ringOf d l).back0 = none) (h1 : (ringOf d l).back1 = none)
    (hr : 1 ≤ (ringOf d l).noReturn) (hi : inService d l = true) : (completeCycle d l).ringOut l := by
  have hb : (ringOf d l).copiesBack = 0 := by simp [RingState.copiesBack, h0, h1, bitOf]
  obtain ⟨hf, hs⟩ := cycleOver_flight (d := d) (l := l) (.inl hb)
  simp only [RingState.flight, Prod.mk.injEq] at hf
  obtain ⟨hnone, -, -, -, -, -, -, hrun⟩ := hf
  rw [completeCycle_eq hn, if_pos hb]
  unfold cycleNotBack
  extract_lets e
  have he : ringOf e l = { ringOf (cycleOver d l) l with
      noReturn := min 2 ((ringOf (cycleOver d l) l).noReturn + 1)
      validRun := 0
      closedRun := 0 } := by simp [e]
  have htwo : (ringOf e l).noReturn = 2 := by
    rw [he]
    simp only [hrun]
    omega
  have hin : inService e l = true := hs.trans hi
  rw [if_pos ⟨htwo, hin⟩]
  exact ringLost_out hin (by rw [he]; exact hnone)

/-- A clean cycle counts toward the closing of the ring. -/
theorem completeCycle_clean {n a b : Nat} (hn : (ringOf d l).inFlight = some n) (h0 : (ringOf d l).back0 = some a)
    (h1 : (ringOf d l).back1 = some b) (ht : (ringOf d l).turned = false) (hw : (ringOf d l).wholeHop = true)
    (hu : (ringOf d l).untouched = 2) (hc : (ringOf d l).closedRun < 15) :
    (ringOf (completeCycle d l) l).closedRun = (ringOf d l).closedRun + 1 ∧ (ringOf (completeCycle d l) l).noReturn = 0 ∧
      (ringOf (completeCycle d l) l).inFlight = none := by
  have hb : (ringOf d l).copiesBack = 2 := by simp [RingState.copiesBack, h0, h1, bitOf]
  obtain ⟨hf, -⟩ := cycleOver_flight (d := d) (l := l) (.inr hb)
  simp only [RingState.flight, Prod.mk.injEq] at hf
  obtain ⟨hnone, -, -, -, -, -, hrun, -⟩ := hf
  rw [completeCycle_eq hn, if_neg (by simp [hb])]
  unfold cycleBack
  extract_lets e e2
  have he : ringOf e2 l = { ringOf (cycleOver d l) l with
      noReturn := 0
      validRun := min 16 ((ringOf (cycleOver d l) l).validRun + 1)
      closedRun := min 16 ((ringOf (cycleOver d l) l).closedRun + 1) } := by simp [e2, e]
  have hless : (ringOf e2 l).closedRun = (ringOf d l).closedRun + 1 := by
    rw [he]
    simp only [hrun]
    omega
  rw [if_neg (by simp [hb, ht, hw, hu]), if_neg (by rw [hless]; omega)]
  exact ⟨hless, by rw [he], by rw [he]; exact hnone⟩

/-- The completion limit of all rings, seen from ring `l`. -/
theorem cycleCompletionLimit_seen {post : Dev → Prop} (ht : s.dev.tb.ticking = true) (hst : s.dev.rd ENT_START_STATE l.idx ≠ 2)
    (h : ∀ p e, RingAlone l s.dev p → RingAlone l (completeCycle p l) e → post e) : Answers .cycleCompletionLimit s post := by
  let d := s.dev.cleared.reach (s.dev.cleared.frameNs - 6500)
  have h0 : RingAlone l s.dev d := ⟨rfl, rfl, rfl, id, id, id⟩
  obtain ⟨p, hp, he⟩ :=
    Dev.each_all_split (RingAlone.refl l) RingAlone.trans (f := completeRing) (l := l) (fun b k hk => completeRing_alone b hk) d
  have hsp := h0.trans hp
  exact .of_result (exec_cycleCompletionLimit s) (if_pos ht) (h p _ hsp ((completeRing_own (by rwa [hsp.start])).trans he))

theorem cycleCompletionLimit_ringLost {n : Nat} (ht : s.dev.tb.ticking = true) (hst : s.dev.rd ENT_START_STATE l.idx ≠ 2)
    (hn : (ringOf s.dev l).inFlight = some n) (h0 : (ringOf s.dev l).back0 = none) (h1 : (ringOf s.dev l).back1 = none)
    (hr : 1 ≤ (ringOf s.dev l).noReturn) (hi : inService s.dev l = true) :
    Answers .cycleCompletionLimit s fun e => laneMode e l = .faulted ∧ (e.lanes.get l).safe ∧
      (e.rd SAF_LANE_OUT_RING_LOST).testBit l.idx = true ∧ (ringOf e l).inFlight = none := by
  refine cycleCompletionLimit_seen ht hst fun p e hp he => ?_
  have hf := hp.flight
  simp only [RingState.flight, Prod.mk.injEq] at hf
  obtain ⟨hfn, hf0, hf1, -, -, -, -, hfr⟩ := hf
  exact Dev.ringOut.alone (completeCycle_out (hfn.trans hn) (hf0.trans h0) (hf1.trans h1) (hfr ▸ hr) (hp.service.trans hi)) he

theorem cycleCompletionLimit_clean {n a b : Nat} (ht : s.dev.tb.ticking = true) (hst : s.dev.rd ENT_START_STATE l.idx ≠ 2)
    (hn : (ringOf s.dev l).inFlight = some n) (h0 : (ringOf s.dev l).back0 = some a) (h1 : (ringOf s.dev l).back1 = some b)
    (htu : (ringOf s.dev l).turned = false) (hw : (ringOf s.dev l).wholeHop = true) (hu : (ringOf s.dev l).untouched = 2)
    (hc : (ringOf s.dev l).closedRun < 15) :
    Answers .cycleCompletionLimit s fun e => (ringOf e l).closedRun = (ringOf s.dev l).closedRun + 1 ∧ (ringOf e l).noReturn = 0 ∧
      (ringOf e l).inFlight = none := by
  refine cycleCompletionLimit_seen ht hst fun p e hp he => ?_
  have hf := hp.flight
  have hg := he.flight
  simp only [RingState.flight, Prod.mk.injEq] at hf hg
  obtain ⟨hfn, hf0, hf1, hft, hfu, hfw, hfc, -⟩ := hf
  obtain ⟨hgn, -, -, -, -, -, hgc, hgr⟩ := hg
  obtain ⟨hrun, hret, hnone⟩ :=
    completeCycle_clean (hfn.trans hn) (hf0.trans h0) (hf1.trans h1) (hft.trans htu) (hfw.trans hw) (hfu.trans hu)
    (hfc ▸ hc)
  exact ⟨hgc.trans (hrun.trans (by rw [hfc])), hgr.trans hret, hgn.trans hnone⟩

theorem cycleCompletionLimit_stopped (h : s.dev.tb.ticking = false) : Completes .cycleCompletionLimit s [] [] fun e => e.out = [] :=
  .of_unchanged (exec_cycleCompletionLimit s) (if_neg (by simp [h]))

end CompleteOwn

/-- Settles O16: the timer of degraded operation, the tightening, the loss of the tick and the completion limit, each by its lemma above. -/
theorem degradedTimerAndLosses : Obligations.DegradedTimerAndLosses :=
  ⟨fun _ _ => degTimerExpired_stops, fun _ => degTimerExpired_notDue, fun _ => degTimerStop_stops, fun _ => degTimerStop_notHealthy,
   fun _ _ => tighteningRampEnd_ends, fun _ _ _ => tickLost_inService, fun _ => tickLost_all, fun _ _ _ => tickLost_onReturn,
   fun _ => tickLost_none, fun _ _ _ => cycleCompletionLimit_ringLost, fun _ _ _ _ _ => cycleCompletionLimit_clean,
   fun _ => cycleCompletionLimit_stopped⟩

end Sys2Proof.Machine
end

section
/-!
SUPPORT. A second agreement of a frame (R84), and O17.
-/
namespace Sys2Proof.Machine
open RegField

/-- A lane's record of frame 9 in which contact 0 is closed. -/
def closedRecord (l : Lane) : FrameRecord :=
  { laneId := laneId l, laneState := 5, seen := 7, flags := 0, frameNo := 9, digest := 0, fwVersion := 0, degRemain := 0, ch1 := 1, ch2
      := 0,
    nodeValid := 0, decision := 0, arbState := 0, arbTest := 0, arbSuspect := 0, arbVerdict := 0, arbSig := 0, adc := [], nodeSafety := [] }

/-- A lane that has agreed the values of frame 9 with contact 0 open, and holds records of that frame in which it is closed. -/
def agreedLane : LaneState :=
  { agreedNow := true, agreed := { frame := 9 }, frames := ⟨some (closedRecord .a), some (closedRecord .b), some (closedRecord .c)⟩ }

/-- Three such lanes in service. -/
def agreedBefore : State :=
  { dev := { (((State.reset.dev.wr LN_STATUS_STATE 0 5).wr LN_STATUS_STATE 1 5).wr LN_STATUS_STATE 2 5).wr BLF_FRAME_NO_NO 0 9 with
      tb := { ticking := true }, lanes := ⟨agreedLane, agreedLane, agreedLane⟩ },
    pending := [] }

/-- A lane agrees the values of a frame once: a second AGREE_VALUES in the frame leaves them as they are. -/
theorem agreeValues_again {s : State} {l : Lane} (h : (laneOf s.dev l).agreedNow = true) : exec (.agreeValues l) s = s.run fun d => d := by
  have hskip : ¬ (exchanges s.dev.cleared l = true ∧ s.dev.cleared.tb.ticking = true ∧ !(laneOf s.dev.cleared l).agreedNow) := by simp [h]
  exact congrArg (fun d => Host.Outcome.next { s with dev := d }) (if_neg hskip)

/-- Refutes O17: its first clause has AGREE_VALUES take the values of the records held whenever the lane exchanges, but a lane that has
agreed the values of the frame already keeps them. In `agreedBefore` lane B keeps contact 0 open while the records it holds agree on
    closed. -/
theorem not_safetyInputSteps : ¬ Obligations.SafetyInputSteps := by
  rintro ⟨hagree, -⟩
  obtain ⟨t, hexec, -, -, hch1, -⟩ := hagree agreedBefore .b (by decide +kernel) (by decide +kernel)
  have ht : t.dev = agreedBefore.dev.cleared := by
    rw [agreeValues_again rfl] at hexec
    cases hexec
    rfl
  rw [ht] at hch1
  exact absurd hch1 (by decide +kernel)

end Sys2Proof.Machine
end

section
/-!
SUPPORT. What a pass over the evaluating lanes does to one of them, and the gate lines that follow it (R93, R135, R137).
-/
namespace Sys2Proof.Machine
open RegField

/-- From `d` to `e` nothing but the safety state of lane `k` has changed. -/
def OwnSaf (k : Lane) (d e : Dev) : Prop := ∃ f : SafState → SafState, e = onSaf d k f

section OwnSaf
variable {k l : Lane} {a d e : Dev}

theorem OwnSaf.refl (k : Lane) (d : Dev) : OwnSaf k d d := ⟨id, by cases k <;> rfl⟩

theorem onSaf_onSaf (d : Dev) (k : Lane) (f g : SafState → SafState) : onSaf (onSaf d k f) k g = onSaf d k (g ∘ f) := by
  cases k <;> rfl

theorem OwnSaf.trans (h : OwnSaf k a d) (i : OwnSaf k d e) : OwnSaf k a e := by
  obtain ⟨f, rfl⟩ := h
  obtain ⟨g, rfl⟩ := i
  exact ⟨_, onSaf_onSaf ..⟩

theorem OwnSaf.each {α : Type} {f : Dev → α → Dev} {xs : List α} (hf : ∀ b x, OwnSaf k b (f b x)) (h : OwnSaf k a d) :
    OwnSaf k a (d.each xs f) := Dev.each_induct (fun b x _ hb => hb.trans (hf b x)) h

theorem OwnSaf.sameBut (h : OwnSaf k d e) : SameBut d e [] [] [.lanes] := by
  obtain ⟨f, rfl⟩ := h
  exact onSaf_sameBut ..

theorem onBrake_ownSaf (d : Dev) (k : Lane) (i : Nat) (f : BrakeDyn → BrakeDyn) : OwnSaf k d (onBrake d k i f) := ⟨_, rfl⟩

theorem onUnit_ownSaf (d : Dev) (k : Lane) (u : Nat) (f : UnitDyn → UnitDyn) : OwnSaf k d (onUnit d k u f) := ⟨_, rfl⟩

theorem dropUnitTests_ownSaf (d : Dev) (k : Lane) (u : Nat) : OwnSaf k d (dropUnitTests d k u) :=
  .each (fun b _ => onBrake_ownSaf b k _ _) (.refl k d)

theorem commandBrakes_ownSaf (d : Dev) (k : Lane) : OwnSaf k d (commandBrakes d k) := by
  unfold commandBrakes
  extract_lets
  refine .each (fun b i => ?_) (.refl k d)
  extract_lets
  split
  · exact .refl k b
  · exact onBrake_ownSaf ..

end OwnSaf

/-- A lane but for its safety state. -/
def LaneState.besidesSaf (x : LaneState) : LaneState := { x with saf := {} }

/-- The turns of other lanes, seen from lane `l`: the lane is as it was, and so is every register and all of the other lanes but their
safety state. -/
structure TurnsOfOthers (l : Lane) (d e : Dev) : Prop where
  alone : LaneAlone l d e
  others : LanesKeep LaneState.besidesSaf d e

section TurnsOfOthers
variable {l : Lane} {d e : Dev}

theorem TurnsOfOthers.refl (l : Lane) (d : Dev) : TurnsOfOthers l d d := ⟨.refl l d, .refl _ d⟩

theorem TurnsOfOthers.trans {a b c : Dev} (h : TurnsOfOthers l a b) (k : TurnsOfOthers l b c) : TurnsOfOthers l a c :=
  ⟨h.alone.trans k.alone, h.others.trans k.others⟩

theorem OwnSaf.turn {k : Lane} (h : OwnSaf k d e) (hk : k ≠ l) : TurnsOfOthers l d e := by
  obtain ⟨f, rfl⟩ := h
  exact ⟨.onSaf d f hk, (LanesKeep.refl _ d).onLane k _ fun _ => rfl⟩

variable (h : TurnsOfOthers l d e)
include h

theorem TurnsOfOthers.frameNs_eq : e.frameNs = d.frameNs := by simp [Dev.frameNs, Dev.periodUnits, h.alone.rd]

theorem TurnsOfOthers.inService_eq (m : Lane) : inService e m = inService d m := inService_congr (h.alone.rd _ _)

theorem TurnsOfOthers.serviceLanes_eq : serviceLanes e = serviceLanes d := serviceLanes_congr h.inService_eq

theorem TurnsOfOthers.arb_eq (m : Lane) : (laneOf e m).arb = (laneOf d m).arb := (congrArg LaneState.arb (h.others.keep m) :)

theorem TurnsOfOthers.supplyWarn_eq (m : Lane) : (laneOf e m).supplyWarn = (laneOf d m).supplyWarn :=
  (congrArg LaneState.supplyWarn (h.others.keep m) :)

theorem TurnsOfOthers.msReached_eq (n ms : Nat) : msReached e n ms = msReached d n ms := by simp [msReached, h.frameNs_eq]

theorem TurnsOfOthers.testFrames_eq (c : SafetyConfig) : testFrames e c = testFrames d c := by simp [testFrames, h.frameNs_eq]

theorem TurnsOfOthers.testFree_eq : testFree e l = testFree d l := by simp [testFree, h.alone.lane]

theorem TurnsOfOthers.lightDue_eq (k : Nat) : lightDue e l k = lightDue d l k := by
  simp [lightDue, pendingBack, h.alone.lane, h.msReached_eq, h.testFrames_eq, h.inService_eq]

theorem TurnsOfOthers.darkDue_eq (k : Nat) : darkDue e l k = darkDue d l k := by
  simp [darkDue, supplyWarned, h.alone.lane, h.serviceLanes_eq, h.arb_eq, h.supplyWarn_eq, h.testFrames_eq]

theorem TurnsOfOthers.darkOld_eq (k : Nat) : darkOld e l k = darkOld d l k := by
  simp [darkOld, warnFrames, h.alone.lane, h.frameNs_eq, h.testFrames_eq]

end TurnsOfOthers

/-- The turns of the evaluating lanes, each acting on its own safety state. -/
def lanesActed (d : Dev) (f : Dev → Lane → Dev) : Dev := d.each (Lane.all.filter fun l => evaluates d l) f

section LanesActed
variable {d : Dev} {l : Lane} {f : Dev → Lane → Dev} (hf : ∀ b k, OwnSaf k b (f b k))
include hf

theorem lanesActed_sameBut (d : Dev) : SameBut d (lanesActed d f) [] [] [.lanes] :=
  .each (fun b k _ => (hf b k).sameBut) (.refl _ _ _ _)

/-- An evaluating lane comes out of the pass as its own turn leaves it, begun from the lane as it was. -/
theorem lanesActed_lane (he : evaluates d l = true) : ∃ p, TurnsOfOthers l d p ∧ laneOf (lanesActed d f) l = laneOf (f p l) l := by
  obtain ⟨p, hp, hpe⟩ := Dev.each_split (TurnsOfOthers.refl l) TurnsOfOthers.trans (f := f) (x := l) (fun b k hk => (hf b k).turn hk)
    (List.mem_filter.mpr ⟨mem_allLanes l, he⟩) (allLanes_nodup.filter _) d
  exact ⟨p, hp, hpe.alone.lane⟩

end LanesActed

theorem inLanes_eq (d : Dev) (f sh : Dev → Lane → Dev) : inLanes d f sh = sh (lanesActed d f) d.firstLane := rfl

/-! The gate lines (R135, R142). -/

theorem gateMask_congr {d e : Dev} {l : Lane} (hi : inService e l = inService d l) (hh : inHold e = inHold d)
    (hl : (laneOf e l).latch = (laneOf d l).latch) (hs : (laneOf e l).saf = (laneOf d l).saf) : gateMask e l = gateMask d l := by
  simp only [gateMask, hi, hh, hl, hs]

theorem SameBut.gateMask_eq {d e : Dev} {fs : List RegField} {es : List (RegField × Nat)} {ps : List Part} (h : SameBut d e fs es ps)
    (l : Lane) (hs : LN_STATUS_STATE ∉ fs) (hm : SYS_MODE_MODE ∉ fs) (he : es = []) (hp : .lanes ∉ ps) : gateMask e l = gateMask d l :=
  gateMask_congr (h.inService_eq l hs (by simp [he])) (h.inHold_eq hm (by simp [he])) (by rw [h.laneOf_eq hp]) (by rw [h.laneOf_eq hp])

theorem setGates_gateMask (d : Dev) (k l : Lane) (mask : Nat) : gateMask (setGates d k mask) l = gateMask d l := by
  have h := setGates_sameBut d k mask
  refine gateMask_congr (h.inService_eq l (by simp) (by simp)) (h.inHold_eq (by simp) (by simp)) ?_ ?_
  · rw [setGates_laneOf]
    split <;> [(subst l; rfl); rfl]
  · rw [setGates_laneOf]
    split <;> [(subst l; rfl); rfl]

theorem driveGates_gateMask (d : Dev) (l : Lane) : gateMask (driveGates d) l = gateMask d l :=
  Dev.each_induct (P := fun b => gateMask b l = gateMask d l) (fun b k _ hb => (setGates_gateMask b k l _).trans hb) rfl

theorem driveGates_laneOf (d : Dev) (l : Lane) : laneOf (driveGates d) l = { laneOf d l with gates := gateMask d l } := by
  obtain ⟨p, ⟨hlane, hmask⟩, hend, -⟩ := Dev.each_all_split (l := l) (f := fun d l => setGates d l (gateMask d l))
    (R := fun a b => laneOf b l = laneOf a l ∧ gateMask b l = gateMask a l) (fun _ => ⟨rfl, rfl⟩)
    (fun h k => ⟨k.1.trans h.1, k.2.trans h.2⟩) (fun b k hk => ⟨by simp [hk.symm], setGates_gateMask ..⟩) d
  rw [driveGates, hend, setGates_laneOf, if_pos rfl, hlane, hmask]

theorem driveGates_driven (d : Dev) (l : Lane) : (laneOf (driveGates d) l).gates = gateMask (driveGates d) l := by
  rw [driveGates_laneOf, driveGates_gateMask]

/-! A change of one channel in every evaluating lane. -/

section InBrakes
variable {d : Dev} {l : Lane} {k : Nat} {p : Dev → Lane → BrakeDyn → Bool} {f : Dev → Lane → BrakeDyn → BrakeDyn}

theorem brakeDyn_onBrake (d : Dev) (l : Lane) (k : Nat) (f : BrakeDyn → BrakeDyn) :
    brakeDyn (laneOf (onBrake d l k f) l).saf k = f (brakeDyn (laneOf d l).saf k) := by
  simp [onBrake, onSaf_saf, brakeDyn, SMap.get_modify]

/-- A channel that the change is for is changed from the state it had. -/
theorem inBrakes_brake {P : BrakeDyn → Prop} (he : evaluates d l = true) (h : ∀ b, TurnsOfOthers l d b →
    p b l (brakeDyn (laneOf d l).saf k) = true ∧ P (f b l (brakeDyn (laneOf d l).saf k))) :
    P (brakeDyn (laneOf (inBrakes d k p f) l).saf k) := by
  obtain ⟨b, hb, hlane⟩ := lanesActed_lane (f := fun d l => if p d l (brakeDyn (laneOf d l).saf k) then onBrake d l k (f d l) else d)
    (fun b m => by
      split
      · exact onBrake_ownSaf ..
      · exact .refl m b) he
  rw [inBrakes, inLanes_eq, driveGates_laneOf, (showBrake_sameBut ..).laneOf_eq (by simp), hlane, hb.alone.lane, if_pos (h b hb).1,
    brakeDyn_onBrake, hb.alone.lane]
  exact (h b hb).2

theorem inBrakes_driven (d : Dev) (k : Nat) (p : Dev → Lane → BrakeDyn → Bool) (f : Dev → Lane → BrakeDyn → BrakeDyn) (l : Lane) :
    (laneOf (inBrakes d k p f) l).gates = gateMask (inBrakes d k p f) l := driveGates_driven ..

end InBrakes

end Sys2Proof.Machine
end

section
/-!
SUPPORT. Release of brakes and the steps of their proof test (R137, R142 to R146, R311), clause by clause, and O19.
-/
namespace Sys2Proof.Machine
open RegField

theorem exec_ptLightTestStart (k : Fin 16) (s : State) : exec (.ptLightTestStart k) s = execPtLightTestStart k s := rfl
theorem exec_ptDarkTestStart (k : Fin 16) (s : State) : exec (.ptDarkTestStart k) s = execPtDarkTestStart k s := rfl
theorem exec_ptStepStart (k : Fin 16) (s : State) : exec (.ptStepStart k) s = execPtStepStart k s := rfl
theorem exec_ptStepEnd (k : Fin 16) (s : State) : exec (.ptStepEnd k) s = execPtStepEnd k s := rfl
theorem exec_ptDue (k : Fin 16) (s : State) : exec (.ptDue k) s = execPtDue k s := rfl

/-! The release of a unit's brakes (R311). -/

section Release
variable {d : Dev} {l : Lane} {u n : Nat}

/-- The release is granted. -/
def UnitDyn.released (y : UnitDyn) : UnitDyn := { y with brakeRel := true, relWait := none }

/-- A lane's turn at the end of the release delay of unit `u`. -/
def releaseTurn (u : Nat) (d : Dev) (l : Lane) : Dev :=
  let y := unitDyn (laneOf d l).saf u
  match y.relWait with
  | some n =>
    if y.torque ∧ y.func ≤ 1 ∧ msReached d n (brkRelMs (laneOf d l).image.params u) then
      commandBrakes (onUnit d l u UnitDyn.released) l
    else d
  | none => d

/-- The channels of a unit are shown. -/
def showUnitBrakes (u : Nat) (d : Dev) (l : Lane) : Dev :=
  d.each (unitBrakes (laneOf d l).image.params u) fun d k => showBrake d l k

theorem exec_brakeReleaseDelay (u : Fin 32) (s : State) : exec (.brakeReleaseDelay u) s = s.run fun d =>
    showUnit (driveGates (inLanes d (releaseTurn u) (showUnitBrakes u))) (inLanes d (releaseTurn u) (showUnitBrakes u)).firstLane u := rfl

theorem unitDyn_onUnit (d : Dev) (l : Lane) (u : Nat) (f : UnitDyn → UnitDyn) :
    unitDyn (laneOf (onUnit d l u f) l).saf u = f (unitDyn (laneOf d l).saf u) := by
  simp [onUnit, onSaf_saf, unitDyn, SMap.get_modify]

theorem onBrake_units (d : Dev) (l : Lane) (k : Nat) (f : BrakeDyn → BrakeDyn) :
    LanesKeep (fun x => x.saf.units) d (onBrake d l k f) := by
  unfold onBrake onSaf
  exact (LanesKeep.refl _ d).onLane l _ fun _ => rfl

/-- What is commanded to the brakes leaves the units as they were. -/
theorem commandBrakes_units (d : Dev) (l : Lane) : LanesKeep (fun x => x.saf.units) d (commandBrakes d l) := by
  unfold commandBrakes
  extract_lets
  refine .each (fun b k => ?_) (.refl _ d)
  extract_lets
  split
  · exact .refl _ b
  · exact onBrake_units ..

theorem releaseTurn_ownSaf (u : Nat) (d : Dev) (l : Lane) : OwnSaf l d (releaseTurn u d l) := by
  unfold releaseTurn
  extract_lets y
  split
  · split
    · exact (onUnit_ownSaf ..).trans (commandBrakes_ownSaf ..)
    · exact .refl l d
  · exact .refl l d

theorem releaseTurn_unit (hw : (unitDyn (laneOf d l).saf u).relWait = some n) (ht : (unitDyn (laneOf d l).saf u).torque = true)
    (hf : (unitDyn (laneOf d l).saf u).func ≤ 1) (hm : msReached d n (brkRelMs (laneOf d l).image.params u) = true) :
    unitDyn (laneOf (releaseTurn u d l) l).saf u = (unitDyn (laneOf d l).saf u).released := by
  have hturn : releaseTurn u d l = commandBrakes (onUnit d l u UnitDyn.released) l := by
    unfold releaseTurn
    extract_lets y
    rw [show y.relWait = some n from hw]
    exact if_pos ⟨ht, hf, hm⟩
  rw [hturn, unitDyn, (commandBrakes_units ..).keep l]
  exact unitDyn_onUnit ..

theorem showUnitBrakes_sameBut (u : Nat) (d : Dev) (l : Lane) : SameBut d (showUnitBrakes u d l) mirrorFields [] [] :=
  .each (fun b k _ => showBrake_sameBut b l k) (.refl _ _ _ _)

end Release

section ProofTest
variable {s : State} {l : Lane}

theorem brakeReleaseDelay_releases {u : Fin 32} {n : Nat} (he : evaluates s.dev l = true)
    (hw : (unitDyn (laneOf s.dev l).saf u).relWait = some n) (ht : (unitDyn (laneOf s.dev l).saf u).torque = true)
    (hf : (unitDyn (laneOf s.dev l).saf u).func ≤ 1) (hm : msReached s.dev n (brkRelMs (laneOf s.dev l).image.params u) = true) :
    Answers (.brakeReleaseDelay u) s fun e => (unitDyn (laneOf e l).saf u).brakeRel = true ∧ (unitDyn (laneOf e l).saf u).relWait = none ∧
      ∀ m : Lane, (laneOf e m).gates = gateMask e m := by
  obtain ⟨p, hp, hlane⟩ := lanesActed_lane (d := s.dev.cleared) (releaseTurn_ownSaf u) he
  have hunit : unitDyn (laneOf (lanesActed s.dev.cleared (releaseTurn u)) l).saf u = (unitDyn (laneOf s.dev l).saf u).released := by
    rw [hlane, releaseTurn_unit (n := n)]
    all_goals simp only [hp.alone.lane, hp.msReached_eq, laneOf_cleared]
    all_goals assumption
  have hgates := driveGates_laneOf (inLanes s.dev.cleared (releaseTurn u) (showUnitBrakes u))
  rw [inLanes_eq] at hgates
  refine .of_effect (exec_brakeReleaseDelay u s) ?_
  have hshow := fun b m => showUnit_sameBut b m u
  refine ⟨?_, ?_, fun m => ?_⟩
  · rw [(hshow ..).laneOf_eq (by simp), inLanes_eq, hgates, (showUnitBrakes_sameBut ..).laneOf_eq (by simp), hunit]
    rfl
  · rw [(hshow ..).laneOf_eq (by simp), inLanes_eq, hgates, (showUnitBrakes_sameBut ..).laneOf_eq (by simp), hunit]
    rfl
  · rw [(hshow ..).laneOf_eq (by simp), (hshow ..).gateMask_eq m (by simp) (by simp) rfl (by simp)]
    exact driveGates_driven ..

/-! The start of a test (R143 to R145). -/

theorem earlier_none {p : Nat → Bool} {k : Nat} (h : ∀ i, i < k → p i = false) : ((List.range k).any p) = false :=
  List.any_eq_false.mpr fun i hi => by simp [h i (List.mem_range.mp hi)]

theorem ptLightTestStart_starts {k : Fin 16} (he : evaluates s.dev l = true) (ht : testFree s.dev l = true)
    (hd : lightDue s.dev l k = true) (hfirst : ∀ i, i < k.val → lightDue s.dev l i = false)
    (ha : agedOf (testFrames s.dev (laneOf s.dev l).image.params / 8) (brakeDyn (laneOf s.dev l).saf k).lightAge = true) :
    Answers (.ptLightTestStart k) s fun e =>
      (brakeDyn (laneOf e l).saf k).test = some { dark := false, left := serviceLanes s.dev } ∧
        ∀ m : Lane, (laneOf e m).gates = gateMask e m := by
  refine .of_effect (exec_ptLightTestStart k s) ⟨?_, fun _ => inBrakes_driven ..⟩
  refine inBrakes_brake (P := fun y => y.test = _) he fun b hb => ⟨?_, ?_⟩
  · rw [hb.testFree_eq, hb.lightDue_eq, earlier_none fun i hi => (hb.lightDue_eq i).trans (hfirst i hi)]
    exact Bool.and_eq_true_iff.mpr ⟨Bool.and_eq_true_iff.mpr ⟨ht, hd⟩, rfl⟩
  · have hold : agedOf (testFrames b (laneOf b l).image.params / 8) (brakeDyn (laneOf s.dev l).saf k).lightAge = true := by
      rw [hb.alone.lane, hb.testFrames_eq]
      exact ha
    simp only [laneOf_cleared, hold, Bool.or_true, if_true, hb.serviceLanes_eq]
    rfl

theorem ptDarkTestStart_starts {k : Fin 16} (he : evaluates s.dev l = true) (ht : testFree s.dev l = true)
    (hd : darkDue s.dev l k = true) (hfirst : ∀ i, i < k.val → darkDue s.dev l i = false) :
    Answers (.ptDarkTestStart k) s fun e => (brakeDyn (laneOf e l).saf k).test = some { dark := true, left := [.a, .b, .c] } := by
  refine .of_effect (exec_ptDarkTestStart k s) ?_
  refine inBrakes_brake (P := fun y => y.test = _) he fun b hb => ⟨?_, rfl⟩
  rw [hb.testFree_eq, hb.darkDue_eq, earlier_none fun i hi => (hb.darkDue_eq i).trans (hfirst i hi)]
  exact Bool.and_eq_true_iff.mpr ⟨Bool.and_eq_true_iff.mpr ⟨ht, hd⟩, rfl⟩

/-! The steps of a test (R142). -/

theorem beginStep_test {d : Dev} {y : BrakeDyn} {t : ProofTest} {z : Lane} {rest : List Lane} (hy : y.test = some t)
    (hl : t.left = z :: rest) (hin : ∀ m ∈ t.left, inService d m = true) :
    (beginStep d y).test = some { t with lane := some z, left := rest, ran := t.ran ++ [z], frames := 0, gap := false } := by
  have hall : t.left.filter (fun z => inService d z) = z :: rest := (List.filter_eq_self.mpr hin).trans hl
  unfold beginStep
  simp only [hy, hall]

theorem ptStepStart_begins {k : Fin 16} {z : Lane} {t : ProofTest} {rest : List Lane} (he : evaluates s.dev l = true)
    (ht : (brakeDyn (laneOf s.dev l).saf k).test = some t) (hn : t.lane = none) (hl : t.left = z :: rest)
    (hin : ∀ m ∈ t.left, inService s.dev m = true) :
    Answers (.ptStepStart k) s fun e =>
      (brakeDyn (laneOf e l).saf k).test = some { t with lane := some z, left := rest, ran := t.ran ++ [z], frames := 0, gap := false } ∧
        (laneOf e l).gates = gateMask e l := by
  refine .of_effect (exec_ptStepStart k s) ⟨?_, inBrakes_driven ..⟩
  refine inBrakes_brake (P := fun y => y.test = _) he fun b hb =>
    ⟨?_, beginStep_test ht hl fun m hm => (hb.inService_eq m).trans (hin m hm)⟩
  simp [stepReady, ht, hl, hn]

theorem ptStepEnd_ends {k : Fin 16} {z : Lane} {t : ProofTest} (he : evaluates s.dev l = true)
    (ht : (brakeDyn (laneOf s.dev l).saf k).test = some t) (hz : t.lane = some z) (hg : t.gap = false)
    (hf : (laneOf s.dev l).image.params.ptPulseFr ≤ t.frames) :
    Answers (.ptStepEnd k) s fun e => (brakeDyn (laneOf e l).saf k).test = some { t with gap := true } ∧
      (laneOf e l).gates = gateMask e l := by
  refine .of_effect (exec_ptStepEnd k s) ⟨?_, inBrakes_driven ..⟩
  refine inBrakes_brake (P := fun y => y.test = _) he fun b hb => ⟨?_, by simp [ht]⟩
  simp [ht, hz, hg, hf, hb.alone.lane]

/-! A test that is due (R144, R146). -/

/-- A lane's turn when an age of the proof test of channel `k` is to be announced. -/
def dueTurn (k : Nat) (d : Dev) (l : Lane) : Dev :=
  onBrake d l k fun b => { b with dueDark := b.dueDark || darkOld d l k, dueLight := b.dueLight || lightOld d l k }

theorem ptDue_dark {k : Fin 16} (he : evaluates s.dev s.dev.firstLane = true) (hd : darkOld s.dev s.dev.firstLane k = true)
    (hu : s.dev.rd PWR_STATUS_SHARED_UP ≠ 0) :
    Answers (.ptDue k) s fun e => (brakeDyn (laneOf e s.dev.firstLane).saf k).dueDark = true ∧ e.rd SAF_BRK_STAT_PT_DUE k = 1 ∧
      e.logged .PT_DUE (srcBrake k) := by
  have hown (b : Dev) (m : Lane) : OwnSaf m b (dueTurn k b m) := onBrake_ownSaf ..
  obtain ⟨p, hp, hlane⟩ := lanesActed_lane (d := s.dev.cleared) hown he
  have hdark : (brakeDyn (laneOf (lanesActed s.dev.cleared (dueTurn k)) s.dev.firstLane).saf k).dueDark = true := by
    rw [hlane, dueTurn, brakeDyn_onBrake, hp.darkOld_eq]
    simp [show darkOld s.dev.cleared s.dev.firstLane k = true from hd]
  have hfired : (evaluates s.dev.cleared s.dev.firstLane && (darkOld s.dev.cleared s.dev.firstLane k ||
      lightOld s.dev.cleared s.dev.firstLane k)) = true := by
    simp [show evaluates s.dev.cleared s.dev.firstLane = true from he, show darkOld s.dev.cleared s.dev.firstLane k = true from hd]
  refine .of_result (e := (showBrake (lanesActed s.dev.cleared (dueTurn k)) s.dev.firstLane k).event .PT_DUE (srcBrake k))
    (exec_ptDue k s) (if_pos hfired) ⟨?_, ?_, Dev.event_logged _ _ _ ?_⟩
  · rw [(Dev.event_sameBut ..).laneOf_eq (by simp), (showBrake_sameBut ..).laneOf_eq (by simp)]
    exact hdark
  · rw [(Dev.event_sameBut ..).rd_eq _ _ (by simp) (by simp)]
    simp [showBrake, hdark, bitOf]
  · rw [(showBrake_sameBut ..).rd_eq _ _ (by simp) (by simp), (lanesActed_sameBut hown _).rd_eq _ _ (by simp) (by simp)]
    exact hu

/-- A stop function that begins leaves the demands it follows. -/
theorem applyDemands_demands (c : SafetyConfig) (x : SafState) (u : Nat) (y : UnitDyn) : (applyDemands c x u y).demands = y.demands := by
  unfold applyDemands beginSto beginStop enterSto
  repeat' split
  all_goals rfl

/-- A demand put on a unit is there under its cause and index, active and at least of its kind. -/
theorem addDemand_indexed (x : UnitDyn) (cause kind index : Nat) :
    ∃ q ∈ (addDemand x cause kind index).demands, q.cause = cause ∧ q.index = index ∧ kind ≤ q.kind ∧ q.active = true := by
  unfold addDemand
  dsimp only
  split
  · next h =>
    obtain ⟨q, hq, hsame⟩ := List.any_eq_true.mp h
    refine ⟨_, List.mem_map_of_mem hq, ?_⟩
    rw [if_pos hsame]
    obtain ⟨hc, hi⟩ := of_decide_eq_true hsame
    exact ⟨hc, hi, le_max_right .., rfl⟩
  · exact ⟨{ cause := cause, kind := kind, index := index }, by simp, rfl, rfl, le_rfl, rfl⟩

/-- What the overdue test of channel `k` does to its unit `u` (R146). -/
def overdueUnit (k : Nat) (c : SafetyConfig) (x : SafState) (u : Nat) (y : UnitDyn) : UnitDyn :=
  applyDemands c x u (addDemand y 0x10 4 k)

/-- A lane's turn when the light age of channel `k` of unit `u` has reached its limit. -/
def overdueTurn (k u : Nat) (d : Dev) (l : Lane) : Dev :=
  let x := laneOf d l
  let y := brakeDyn x.saf k
  if y.cmd && agedOf (testFrames d x.image.params) y.lightAge then
    onUnit (dropUnitTests d l u) l u (overdueUnit k x.image.params x.saf u)
  else d

theorem overdueTurn_ownSaf (k u : Nat) (d : Dev) (l : Lane) : OwnSaf l d (overdueTurn k u d l) := by
  unfold overdueTurn
  extract_lets x y
  split
  · exact (dropUnitTests_ownSaf ..).trans (onUnit_ownSaf ..)
  · exact .refl l d

/-- What an overdue test of channel `k` does, by the unit its channel is mapped to. -/
def overdueTest (k : Nat) (d : Dev) : Dev :=
  match (brakeCfg d.cfg k).unit with
  | some u => inLanes d (overdueTurn k u) fun d l => showUnit d l u
  | none => d

theorem exec_ptIntervalExpired (k : Fin 16) (s : State) : exec (.ptIntervalExpired k) s = s.run (overdueTest k) := rfl

theorem ptIntervalExpired_stops {k : Fin 16} {u : Nat} (hk : (brakeCfg s.dev.cfg k).unit = some u) (he : evaluates s.dev l = true)
    (hc : (brakeDyn (laneOf s.dev l).saf k).cmd = true)
    (ha : agedOf (testFrames s.dev (laneOf s.dev l).image.params) (brakeDyn (laneOf s.dev l).saf k).lightAge = true) :
    Answers (.ptIntervalExpired k) s fun e =>
      ∃ q ∈ (unitDyn (laneOf e l).saf u).demands, q.cause = 0x10 ∧ q.index = k ∧ 4 ≤ q.kind ∧ q.active = true := by
  have hgo : overdueTest k s.dev.cleared = inLanes s.dev.cleared (overdueTurn k u) fun d l => showUnit d l u := by
    unfold overdueTest
    rw [show (brakeCfg s.dev.cleared.cfg k).unit = some u from hk]
  obtain ⟨p, hp, hlane⟩ := lanesActed_lane (d := s.dev.cleared) (overdueTurn_ownSaf k u) he
  have hturn : overdueTurn k u p l =
      onUnit (dropUnitTests p l u) l u (overdueUnit k (laneOf p l).image.params (laneOf p l).saf u) := by
    refine if_pos ?_
    rw [hp.alone.lane, hp.testFrames_eq]
    exact Bool.and_eq_true_iff.mpr ⟨hc, ha⟩
  refine .of_result (exec_ptIntervalExpired k s) hgo ?_
  rw [inLanes_eq, (showUnit_sameBut ..).laneOf_eq (by simp), hlane, hturn, unitDyn_onUnit, overdueUnit, applyDemands_demands]
  exact addDemand_indexed ..

end ProofTest

/-- Settles O19: the release of the brakes, the start and the steps of a test, and the tests that are due or overdue, each by its lemma
above. -/
theorem brakeReleaseAndProofTest : Obligations.BrakeReleaseAndProofTest :=
  ⟨fun _ _ _ _ => brakeReleaseDelay_releases, fun _ _ _ => ptLightTestStart_starts, fun _ _ _ => ptDarkTestStart_starts,
   fun _ _ _ _ _ _ => ptStepStart_begins, fun _ _ _ _ _ => ptStepEnd_ends, fun _ _ => ptDue_dark, fun _ _ _ _ => ptIntervalExpired_stops⟩

end Sys2Proof.Machine
end

section
/-!
SUPPORT. What holds a lane in reset, a lane's reset by a cause that holds it, and the reset of the device (R490, R491, R493).
-/
namespace Sys2Proof.Machine
open RegField

/-! The bits of a register field. -/

theorem setBit_false_testBit (n b j : Nat) : (setBit n b false).testBit j = (n.testBit j && decide (j ≠ b)) := by
  unfold setBit
  split
  · next h =>
    by_cases hj : j = b
    · simp [hj, h]
    · simp [hj]
  · next h =>
    have hset : n.testBit b = true := by simpa using h
    have hbits (i : Nat) : (n ^^^ 2 ^ b).testBit i = (n.testBit i && decide (i ≠ b)) := by
      by_cases hi : i = b
      · simp [hi, hset]
      · simp [hi, Ne.symm hi]
    have hsum : (n ^^^ 2 ^ b) + 2 ^ b = n := Nat.eq_of_testBit_eq fun i => by
      rw [testBit_add_two_pow (by simp [hbits]), hbits]
      by_cases hi : i = b
      · simp [hi, hset]
      · simp [hi]
    rw [if_neg (by simp), show n - 2 ^ b = n ^^^ 2 ^ b by omega]
    exact hbits j

/-- A field with a bit for each lane, after a write of one lane's bit. -/
theorem wrBit_lane_testBit (d : Dev) (f : RegField) (k l : Lane) (v : Bool) (hw : 3 ≤ f.width) :
    ((d.wrBit f 0 k.idx v).rd f).testBit l.idx = if l = k then v else (d.rd f).testBit l.idx := by
  have hl : l.idx < f.width := Nat.lt_of_lt_of_le (Lane.idx_lt l) hw
  rw [Dev.wrBit_eq, Dev.rd_wr, if_pos ⟨rfl, rfl⟩, Nat.testBit_mod_two_pow]
  cases v
  · rw [setBit_false_testBit]
    by_cases h : l = k <;> simp [h, hl, Lane.idx_inj]
  · rw [setBit_testBit]
    by_cases h : l = k <;> simp [h, hl, Lane.idx_inj]
    subst h
    exact hl

/-! What holds a lane in reset (R491). -/

theorem heldBy_setHeld (d : Dev) (i cause : Nat) (on : Bool) : heldBy (setHeld d i cause on) i =
    if on then ((heldBy d i).filter fun c => decide (c ≠ cause)) ++ [cause] else (heldBy d i).filter fun c => decide (c ≠ cause) := by
  simp only [heldBy, setHeld, onPwr, SMap.get_set, if_true]

theorem heldBy_congr {d e : Dev} (h : e.pwr.held = d.pwr.held) (i : Nat) : heldBy e i = heldBy d i := by
  unfold heldBy
  rw [h]

theorem SameBut.heldBy_eq {d e : Dev} {fs : List RegField} {es : List (RegField × Nat)} {ps : List Part} (h : SameBut d e fs es ps)
    (hp : .pwr ∉ ps) (i : Nat) : heldBy e i = heldBy d i := heldBy_congr (congrArg PowerState.held (h.rest .pwr hp)) i

theorem SameBut.setHeld {a d : Dev} {fs : List RegField} {es : List (RegField × Nat)} {ps : List Part} (h : SameBut a d fs es ps)
    (i cause : Nat) (on : Bool) (hp : .pwr ∈ ps) : SameBut a (setHeld d i cause on) fs es ps := h.pwr _ hp

/-! The reset of a lane. -/

/-- A reset of lane `l` is entered into the history and counted, and its cause holds the lane. -/
def laneHeld (d : Dev) (l : Lane) (cause : Nat) : Dev :=
  setHeld (countLaneReset (logReset d cause (1 + l.idx)) l.idx) l.idx cause true

/-- A lane that was up goes down, and is ABSENT. -/
def laneDown (d : Dev) (l : Lane) (e : Ev) : Dev :=
  let d := (d.wrBit PWR_STATUS_LANE_UP 0 l.idx false).wrBit PWR_DBG_STAT_LANE_AUTH 0 l.idx false
  let d := (d.wr LN_STATUS_FAULT_LATCH l.idx 0).wr LN_STATUS_LANE_DEBUG l.idx 0
  if inService d l then laneFault d l .absent e else setLaneMode d l .absent

/-- Nothing of it is left unseen, it starts anew from its own state after reset, and its bypass switch closes. -/
def laneCleared (d : Dev) (l : Lane) : Dev :=
  let d := if (laneOf d l).unseen then reviewLanes (onLane d l fun x => { x with unseen := false }) else d
  closeBypass (onLane d l freshLane) l

theorem laneReset_already {d : Dev} {l : Lane} {cause : Nat} (e : Ev) (h : cause ∈ heldBy d l.idx) : laneReset d l cause e = d :=
  if_pos (List.contains_iff_mem.mpr h)

theorem laneReset_holding {d : Dev} {l : Lane} {cause : Nat} (e : Ev) (hc : ¬ momentary cause) (h : cause ∉ heldBy d l.idx) :
    laneReset d l cause e =
      if (d.rd PWR_STATUS_LANE_UP).testBit l.idx then laneCleared (laneDown (laneHeld d l cause) l e) l else laneHeld d l cause := by
  have hup : (laneHeld d l cause).rd PWR_STATUS_LANE_UP = d.rd PWR_STATUS_LANE_UP :=
    ((countLaneReset_sameBut ..).rd_eq _ _ (by simp) (by simp)).trans ((logReset_sameBut ..).rd_eq _ _ (by simp) (by simp))
  have hnot : ¬ (cause = 0xA ∨ cause = 0xB) := hc
  unfold laneReset
  rw [if_neg (by simpa using h)]
  simp only [if_neg hnot]
  rw [← hup]
  rfl

section LaneReset
variable (d : Dev) (l : Lane)

theorem laneHeld_sameBut (cause : Nat) : SameBut d (laneHeld d l cause) (PWR_RST_CNT1_LANE :: resetLogFields) [] [.pwr] :=
  (((logReset_sameBut ..).mono (by simp) (by simp) (by simp)).next (countLaneReset_sameBut ..) (by simp) (by simp) (by simp)).setHeld
    _ _ _ (by simp)

theorem laneHeld_held (cause : Nat) : cause ∈ heldBy (laneHeld d l cause) l.idx := by
  simp [laneHeld, heldBy_setHeld]

theorem logReset_entered (cause scope : Nat) (hc : cause < 16) (hs : scope < 8) :
    (logReset d cause scope).rd PWR_RSTLOG_CAUSE = cause ∧ (logReset d cause scope).rd PWR_RSTLOG_SCOPE = scope := by
  simp [logReset, onPwr, Nat.mod_eq_of_lt, hc, hs]

/-- Of the supervisor's state an entry into the history adds to the resets whose events are still to be written. -/
theorem logReset_pwr (cause scope : Nat) : (logReset d cause scope).pwr =
    { d.pwr with unwritten := (d.pwr.unwritten ++ [(cause, scope)]).drop (d.pwr.unwritten.length + 1 - 16) } := by
  have h : (shiftResets d).pwr = d.pwr := (shiftResets_sameBut d).rest .pwr (by simp)
  rw [← h]
  rfl

theorem laneHeld_entered (cause : Nat) (hc : cause < 16) :
    (laneHeld d l cause).rd PWR_RSTLOG_CAUSE = cause ∧ (laneHeld d l cause).rd PWR_RSTLOG_SCOPE = 1 + l.idx := by
  obtain ⟨hcause, hscope⟩ := logReset_entered d cause (1 + l.idx) hc (by have := Lane.idx_lt l; omega)
  have h (f : RegField) (hf : f ≠ PWR_RST_CNT1_LANE) : (laneHeld d l cause).rd f = (logReset d cause (1 + l.idx)).rd f :=
    (countLaneReset_sameBut ..).rd_eq _ _ (by simpa using hf) (by simp)
  exact ⟨(h _ (by simp)).trans hcause, (h _ (by simp)).trans hscope⟩

/-- The registers that change when a lane goes down. -/
@[simp] def laneDownFields : List RegField :=
  [PWR_STATUS_LANE_UP, PWR_DBG_STAT_LANE_AUTH, LN_STATUS_FAULT_LATCH, LN_STATUS_LANE_DEBUG] ++ laneFaultFields

/-- The reset of a lane as its registers show it, before what follows of a fault. -/
def laneLow (d : Dev) (l : Lane) : Dev :=
  (((d.wrBit PWR_STATUS_LANE_UP 0 l.idx false).wrBit PWR_DBG_STAT_LANE_AUTH 0 l.idx false).wr LN_STATUS_FAULT_LATCH l.idx 0).wr
    LN_STATUS_LANE_DEBUG l.idx 0

theorem laneLow_sameBut : SameBut d (laneLow d l) laneDownFields [] [.lanes, .fault] :=
  ((((SameBut.refl d _ _ _).wr _ _ _ (by simp)).wr _ _ _ (by simp)).wr _ _ _ (by simp)).wr _ _ _ (by simp)

theorem laneDown_eq (e : Ev) : laneDown d l e =
    if inService (laneLow d l) l then laneFault (laneLow d l) l .absent e else setLaneMode (laneLow d l) l .absent := rfl

theorem laneDown_sameBut (e : Ev) : SameBut d (laneDown d l e) laneDownFields [] [.lanes, .fault] := by
  rw [laneDown_eq]
  split
  · exact (laneLow_sameBut d l).next (laneFault_sameBut ..) (by simp) (by simp) (by simp)
  · exact (laneLow_sameBut d l).next (setLaneMode_sameBut ..) (by simp) (by simp) (by simp)

theorem laneDown_absent (e : Ev) : laneMode (laneDown d l e) l = .absent ∧ (laneOf (laneDown d l e) l).safe := by
  rw [laneDown_eq]
  split
  · have h := laneFault_lane (laneLow d l) l e false (m := .absent) (by simp)
    simpa using h
  · exact ⟨laneMode_setLaneMode .., setLaneMode_safe _ _ (by simp)⟩

theorem laneDown_up (e : Ev) : ((laneDown d l e).rd PWR_STATUS_LANE_UP).testBit l.idx = false := by
  have h : (laneDown d l e).rd PWR_STATUS_LANE_UP = (laneLow d l).rd PWR_STATUS_LANE_UP := by
    rw [laneDown_eq]
    split
    · exact (laneFault_sameBut ..).rd_eq _ _ (by simp) (by simp)
    · exact (setLaneMode_sameBut ..).rd_eq _ _ (by simp) (by simp)
  have hlow : (laneLow d l).rd PWR_STATUS_LANE_UP = (d.wrBit PWR_STATUS_LANE_UP 0 l.idx false).rd PWR_STATUS_LANE_UP := by simp [laneLow]
  rw [h, hlow, wrBit_lane_testBit _ _ _ _ _ (by simp), if_pos rfl]

theorem closeBypass_closed : (closeBypass d l).rd ENT_STAT_BYPASS_CLOSED l.idx ≠ 0 := by
  have down (b : Dev) (q : Nat) (hb : b.rd ENT_STAT_BYPASS_CLOSED l.idx = 1) : (if portUp b l q then
      ((setPort b l q false).inc ENT_P_CNT2_SYNC_LOSS (portIx l q)).event .ENT_LINK_DOWN (srcRing l) q
        (linkDetail ((setPort b l q false).inc ENT_P_CNT2_SYNC_LOSS (portIx l q)) l q) else b).rd ENT_STAT_BYPASS_CLOSED l.idx = 1 := by
    split
    · simp [(setPort_sameBut ..).rd_eq, hb]
    · exact hb
  unfold closeBypass
  split
  · next h => simpa [Dev.on] using h
  · extract_lets f
    rw [(Dev.event_sameBut ..).rd_eq _ _ (by simp) (by simp), (stopMaster_sameBut ..).rd_eq _ _ (by simp) (by simp)]
    rw [down _ 1 (down _ 0 (by simp))]
    simp

/-- The registers that may change when a lane that went down starts anew. -/
@[simp] def laneClearedFields : List RegField := reviewFields ++ bypassFields

theorem laneCleared_sameBut : SameBut d (laneCleared d l) laneClearedFields [] [.lanes, .rings, .log] := by
  unfold laneCleared
  extract_lets d1
  have h1 : SameBut d d1 laneClearedFields [] [.lanes, .rings, .log] := by
    unfold d1
    split
    · exact ((SameBut.refl d _ _ _).onLane l _ (by simp)).next (reviewLanes_sameBut _) (by simp) (by simp) (by simp)
    · exact .refl _ _ _ _
  exact (h1.onLane l _ (by simp)).next (closeBypass_sameBut ..) (by simp) (by simp) (by simp)

variable {d l}

/-- A lane that is ABSENT stays so, starts anew with its outputs off, and its bypass switch is closed. -/
theorem laneCleared_absent (h : laneMode d l = .absent) : laneMode (laneCleared d l) l = .absent ∧ (laneOf (laneCleared d l) l).safe ∧
    (laneCleared d l).rd ENT_STAT_BYPASS_CLOSED l.idx ≠ 0 := by
  unfold laneCleared
  extract_lets d1
  have h1 : laneMode d1 l = .absent := by
    unfold d1
    split
    · exact (laneMode_congr (reviewLanes_state (by simp [h]) (by simp [h]))).trans (by simpa using h)
    · exact h
  refine ⟨((closeBypass_sameBut ..).laneMode_eq l (by simp) (by simp)).trans (by simpa using h1), ?_, closeBypass_closed _ _⟩
  rw [(closeBypass_sameBut ..).laneOf_eq (by simp), laneOf_onLane, if_pos rfl]
  exact ⟨rfl, rfl⟩

variable {cause : Nat}

theorem laneReset_sameBut (e : Ev) (hc : ¬ momentary cause) :
    SameBut d (laneReset d l cause e) laneResetFields [] [.lanes, .fault, .rings, .log, .pwr] := by
  by_cases hh : cause ∈ heldBy d l.idx
  · rw [laneReset_already e hh]
    exact .refl _ _ _ _
  · have h1 : SameBut d (laneHeld d l cause) laneResetFields [] [.lanes, .fault, .rings, .log, .pwr] :=
      (laneHeld_sameBut d l cause).mono (by simp) (by simp) (by simp)
    rw [laneReset_holding e hc hh]
    split
    · exact (h1.next (laneDown_sameBut ..) (by simp) (by simp) (by simp)).next (laneCleared_sameBut ..) (by simp) (by simp) (by simp)
    · exact h1

/-- After a reset by a cause that holds the lane, the cause holds it. -/
theorem laneReset_held (e : Ev) (hc : ¬ momentary cause) : cause ∈ heldBy (laneReset d l cause e) l.idx := by
  by_cases hh : cause ∈ heldBy d l.idx
  · rwa [laneReset_already e hh]
  · rw [laneReset_holding e hc hh]
    split
    · rw [(laneCleared_sameBut ..).heldBy_eq (by simp), (laneDown_sameBut ..).heldBy_eq (by simp)]
      exact laneHeld_held ..
    · exact laneHeld_held ..

/-- A lane that was up and that nothing of this cause held: it is ABSENT with its outputs off, down, its bypass switch closed, and the
reset is the newest of the history. -/
theorem laneReset_stops (e : Ev) (hc : ¬ momentary cause) (hn : cause < 16) (hh : cause ∉ heldBy d l.idx)
    (hu : (d.rd PWR_STATUS_LANE_UP).testBit l.idx = true) :
    laneMode (laneReset d l cause e) l = .absent ∧ (laneOf (laneReset d l cause e) l).safe ∧
      ((laneReset d l cause e).rd PWR_STATUS_LANE_UP).testBit l.idx = false ∧
      (laneReset d l cause e).rd ENT_STAT_BYPASS_CLOSED l.idx ≠ 0 ∧
      (laneReset d l cause e).rd PWR_RSTLOG_CAUSE = cause ∧ (laneReset d l cause e).rd PWR_RSTLOG_SCOPE = 1 + l.idx := by
  rw [laneReset_holding e hc hh, if_pos hu]
  obtain ⟨habsent, -⟩ := laneDown_absent (laneHeld d l cause) l e
  obtain ⟨hmode, hsafe, hbypass⟩ := laneCleared_absent habsent
  obtain ⟨hcause, hscope⟩ := laneHeld_entered d l cause hn
  have hlog (f : RegField) (h1 : f ∉ laneClearedFields) (h2 : f ∉ laneDownFields) :
      (laneCleared (laneDown (laneHeld d l cause) l e) l).rd f = (laneHeld d l cause).rd f :=
    ((laneCleared_sameBut ..).rd_eq _ _ h1 (by simp)).trans ((laneDown_sameBut ..).rd_eq _ _ h2 (by simp))
  refine ⟨hmode, hsafe, ?_, hbypass, (hlog _ (by simp) (by simp)).trans hcause, (hlog _ (by simp) (by simp)).trans hscope⟩
  rw [(laneCleared_sameBut ..).rd_eq _ _ (by simp) (by simp)]
  exact laneDown_up ..

end LaneReset

/-! The reset of the device (R491, R493, R503). -/

theorem RegFile.get_filter_out (rs : RegFile) (p : RegField → Bool) {f : RegField} (hf : p f = false) (i : Nat) :
    RegFile.get (rs.filter fun c => p c.field) f i = f.reset i := by
  induction rs with
  | nil => rfl
  | cons c rs ih =>
    by_cases hc : p c.field = true
    · have hne : ¬ (c.field = f ∧ c.idx = i) := fun he => by
        rw [he.1, hf] at hc
        cases hc
      simp [hc, RegFile.get, ih, hne]
    · simp [hc, ih]

theorem showKeys_sameBut (d : Dev) :
    SameBut d (showKeys d) [SAF_PKG_STAT_ENROLLED, SAF_PKG_STAT_KEY_SLOT, PWR_OTP_STAT_PROGRAMMED] [] [] := by
  unfold showKeys
  extract_lets n d1
  have h1 : SameBut d d1 [SAF_PKG_STAT_ENROLLED, SAF_PKG_STAT_KEY_SLOT, PWR_OTP_STAT_PROGRAMMED] [] [] :=
    ((SameBut.refl d _ _ _).wr _ _ _ (by simp)).wr _ _ _ (by simp)
  split
  · exact h1
  · exact h1.wr _ _ _ (by simp)

theorem lanesOff_sameBut (d : Dev) : SameBut d (lanesOff d) [SAF_BRK_STAT_GATE, SAF_SAFE_OK_LEVEL] [] [.lanes] :=
  .each (fun b l _ => ((setGates_sameBut b l 0).mono (by simp) (by simp) (by simp)).next (setSafeOk_sameBut ..) (by simp) (by simp)
    (by simp)) (.refl _ _ _ _)

/-- The reset is entered into the history and counted, and a stopped converter may start again (R488). -/
def resetCounted (d : Dev) (cause : Nat) : Dev :=
  let d := (logReset (lanesOff d) cause 0).inc PWR_RST_CNT0_DEVICE
  let d := if cause = 2 then d.inc PWR_RST_CNT0_RESET_PIN else d
  d.each Lane.all fun d l => setHeld (d.wr PWR_SUP_STAT_CONV_FAULT l.idx 0) l.idx 5 false

/-- The registers that a reset leaves. -/
def keptInReset (f : RegField) : Bool := isPwr f || decide (f = SYS_BOOT_COUNT_N)

/-- What a reset leaves of the device: the supervisor, flash, the key slots and the boot count. -/
def resetKept (d : Dev) : Dev :=
  { regs := d.regs.filter fun c => keptInReset c.field, out := d.out, free := d.free, flash := d.flash, keys := d.keys, pwr := d.pwr }

/-- The reset as the registers show it. -/
def resetShown (d : Dev) (cause : Nat) : Dev :=
  let d := ((d.put PWR_RST_CAUSE_CAUSE cause).put PWR_STATUS_SHARED_UP 0).put PWR_STATUS_LANE_UP 0
  let d := ((d.put PWR_STATUS_BUSY 0).put PWR_UPTIME_LO_MS 0).put PWR_UPTIME_HI_MS 0
  let d := (((d.put PWR_BOOT_MS 0).put PWR_DBG_STAT_UNLOCKED 0).put PWR_DBG_STAT_LOCKOUT 0).put PWR_DBG_STAT_FAILS 0
  onPwr (d.put PWR_DBG_STAT_LANE_AUTH 0) fun p => { p with challenge := none }

theorem deviceReset_eq (d : Dev) (cause : Nat) : deviceReset d cause = showKeys (resetShown (resetKept (resetCounted d cause)) cause) := rfl

section DeviceReset
variable (d : Dev) (cause : Nat)

theorem resetCounted_after : SameBut ((logReset (lanesOff d) cause 0).inc PWR_RST_CNT0_DEVICE) (resetCounted d cause)
    [PWR_RST_CNT0_RESET_PIN, PWR_SUP_STAT_CONV_FAULT] [] [.pwr] := by
  refine .each (fun b l _ => ((SameBut.refl b _ _ _).wr _ _ _ (by simp)).setHeld _ _ _ (by simp)) ?_
  split
  · exact (SameBut.refl _ _ _ _).wr _ _ _ (by simp)
  · exact .refl _ _ _ _

theorem resetCounted_sameBut : SameBut d (resetCounted d cause)
    ([SAF_BRK_STAT_GATE, SAF_SAFE_OK_LEVEL, PWR_RST_CNT0_DEVICE, PWR_RST_CNT0_RESET_PIN, PWR_SUP_STAT_CONV_FAULT] ++ resetLogFields) []
    [.lanes, .pwr] :=
  ((((lanesOff_sameBut d).mono (by simp) (by simp) (by simp)).next (logReset_sameBut ..) (by simp) (by simp) (by simp)).wr _ _ _
    (by simp)).next (resetCounted_after d cause) (by simp) (by simp) (by simp)

theorem resetCounted_entered (hc : cause < 16) : (resetCounted d cause).rd PWR_RSTLOG_CAUSE = cause ∧
    (resetCounted d cause).rd PWR_RSTLOG_SCOPE = 0 ∧ (resetCounted d cause).rd PWR_RST_CNT0_DEVICE = d.countUp PWR_RST_CNT0_DEVICE := by
  have hafter := resetCounted_after d cause
  obtain ⟨hcause, hscope⟩ := logReset_entered (lanesOff d) cause 0 hc (by decide)
  have hcount : (logReset (lanesOff d) cause 0).rd PWR_RST_CNT0_DEVICE = d.rd PWR_RST_CNT0_DEVICE :=
    ((logReset_sameBut ..).rd_eq _ _ (by simp) (by simp)).trans ((lanesOff_sameBut d).rd_eq _ _ (by simp) (by simp))
  refine ⟨?_, ?_, ?_⟩
  · rw [hafter.rd_eq _ _ (by simp) (by simp)]
    simpa using hcause
  · rw [hafter.rd_eq _ _ (by simp) (by simp)]
    simpa using hscope
  · rw [hafter.rd_eq _ _ (by simp) (by simp), Dev.inc_eq, hcount]
    exact (Dev.rd_wr ..).trans (by simp [Dev.countUp])

theorem resetKept_rd {f : RegField} (h : keptInReset f = true) (i : Nat) : (resetKept d).rd f i = d.rd f i :=
  RegFile.get_filter _ keptInReset h i

theorem resetKept_rd_out {f : RegField} (h : keptInReset f = false) (i : Nat) : (resetKept d).rd f i = f.reset i :=
  RegFile.get_filter_out _ keptInReset h i

/-- The registers that show a reset of the device. -/
@[simp] def resetShownFields : List RegField :=
  [PWR_RST_CAUSE_CAUSE, PWR_STATUS_SHARED_UP, PWR_STATUS_LANE_UP, PWR_STATUS_BUSY, PWR_UPTIME_LO_MS, PWR_UPTIME_HI_MS, PWR_BOOT_MS,
   PWR_DBG_STAT_UNLOCKED, PWR_DBG_STAT_LOCKOUT, PWR_DBG_STAT_FAILS, PWR_DBG_STAT_LANE_AUTH]

theorem resetShown_sameBut : SameBut d (resetShown d cause) resetShownFields [] [.pwr] :=
  ((((((((((((SameBut.refl d _ _ _).wr _ _ _ (by simp)).wr _ _ _ (by simp)).wr _ _ _ (by simp)).wr _ _ _ (by simp)).wr _ _ _ (by simp)).wr
    _ _ _ (by simp)).wr _ _ _ (by simp)).wr _ _ _ (by simp)).wr _ _ _ (by simp)).wr _ _ _ (by simp)).wr _ _ _ (by simp)).pwr _ (by simp)

/-- Every register that shows a reset is the supervisor's own. -/
theorem isPwr_of_resetShown {f : RegField} (h : f ∈ resetShownFields) : isPwr f = true :=
  List.all_eq_true.mp (by decide : resetShownFields.all isPwr = true) f h

/-- Of the parts of a device all but the supervisor are, after its reset, as `resetKept` has them. -/
theorem deviceReset_part {p : Part} (hp : p ≠ .pwr) : p.same (resetKept (resetCounted d cause)) (deviceReset d cause) :=
  Part.same_trans ((resetShown_sameBut ..).rest p (by simpa using hp)) ((showKeys_sameBut _).rest p (by simp))

/-- A register that no reset shows is after it as `resetKept` has it. -/
theorem deviceReset_rd {f : RegField} (hs : f ∉ resetShownFields)
    (hk : f ∉ [SAF_PKG_STAT_ENROLLED, SAF_PKG_STAT_KEY_SLOT, PWR_OTP_STAT_PROGRAMMED]) (i : Nat) :
    (deviceReset d cause).rd f i = (resetKept (resetCounted d cause)).rd f i :=
  ((showKeys_sameBut _).rd_eq _ _ hk (by simp)).trans ((resetShown_sameBut ..).rd_eq _ _ hs (by simp))

/-- Every register outside the supervisor is at its reset value, but the boot count and what shows the key slots. -/
theorem deviceReset_rd_reset {f : RegField} (hp : isPwr f = false)
    (hf : f ∉ [SYS_BOOT_COUNT_N, SAF_PKG_STAT_KEY_SLOT, SAF_PKG_STAT_ENROLLED]) (i : Nat) : (deviceReset d cause).rd f i = f.reset i := by
  simp only [List.mem_cons, List.not_mem_nil, or_false, not_or] at hf
  obtain ⟨hboot, hslot, henrolled⟩ := hf
  have hotp : f ≠ PWR_OTP_STAT_PROGRAMMED := by
    rintro rfl
    exact absurd hp (by decide)
  rw [deviceReset_rd d cause (fun h => by rw [isPwr_of_resetShown h] at hp; cases hp) (by simp [hslot, henrolled, hotp])]
  exact resetKept_rd_out _ (by simp [keptInReset, hp, hboot]) i

/-- What shows a reset of the device. -/
theorem deviceReset_shown (hc : cause < 16) : (deviceReset d cause).rd PWR_STATUS_SHARED_UP = 0 ∧
    (deviceReset d cause).rd PWR_STATUS_LANE_UP = 0 ∧ (deviceReset d cause).rd PWR_RST_CAUSE_CAUSE = cause ∧
    (deviceReset d cause).rd PWR_DBG_STAT_UNLOCKED = 0 ∧ (deviceReset d cause).rd PWR_DBG_STAT_LANE_AUTH = 0 ∧
    (deviceReset d cause).pwr.challenge = none := by
  rw [deviceReset_eq, show ∀ b : Dev, (showKeys b).pwr = b.pwr from fun b => (showKeys_sameBut b).rest .pwr (by simp)]
  simp [(showKeys_sameBut _).rd_eq, resetShown, onPwr, Nat.mod_eq_of_lt, hc]

theorem deviceReset_resetFrom (hc : cause < 16) : d.resetFrom (deviceReset d cause) cause := by
  have hcounted := resetCounted_sameBut d cause
  obtain ⟨hcause, hscope, hcount⟩ := resetCounted_entered d cause hc
  obtain ⟨hshared, hlanes, hshown, hlocked, hauth, hchallenge⟩ := deviceReset_shown d cause hc
  have part {p : Part} (hp : p ≠ .pwr) := deviceReset_part d cause hp
  have kept {f : RegField} (hs : f ∉ resetShownFields)
      (hk : f ∉ [SAF_PKG_STAT_ENROLLED, SAF_PKG_STAT_KEY_SLOT, PWR_OTP_STAT_PROGRAMMED]) (h : keptInReset f = true) :
      (deviceReset d cause).rd f = (resetCounted d cause).rd f := (deviceReset_rd d cause hs hk 0).trans (resetKept_rd _ h 0)
  exact ⟨fun f i hp hf => deviceReset_rd_reset d cause hp hf i,
    (kept (by simp) (by simp) (by decide)).trans (hcounted.rd_eq _ _ (by simp) (by simp)),
    (part (p := .flash) (by simp)).trans (hcounted.rest .flash (by simp)), (part (p := .keys) (by simp)).trans (hcounted.rest .keys (by simp)),
    part (p := .lanes) (by simp), part (p := .rings) (by simp), part (p := .sys) (by simp), part (p := .log) (by simp),
    part (p := .tb) (by simp), part (p := .motion) (by simp), part (p := .fault) (by simp), part (p := .pkg) (by simp),
    part (p := .periodDue) (by simp), part (p := .axes) (by simp), part (p := .adc) (by simp), part (p := .smy0) (by simp),
    part (p := .smy1) (by simp), part (p := .rve) (by simp), part (p := .host) (by simp), part (p := .pln) (by simp),
    part (p := .mil) (by simp), part (p := .grp) (by simp), hshared, hlanes, hshown,
    (kept (by simp) (by simp) (by decide)).trans hcount, (kept (by simp) (by simp) (by decide)).trans hcause,
    (kept (by simp) (by simp) (by decide)).trans hscope, hlocked, hauth, hchallenge⟩

variable {d cause}

/-- What a reset leaves is the same of a device that differs in nothing that is left or counted. -/
theorem Dev.resetFrom.of_sameBut {a e : Dev} {fs : List RegField} {es : List (RegField × Nat)} {ps : List Part} (h : d.resetFrom e cause)
    (k : SameBut a d fs es ps) (hb : SYS_BOOT_COUNT_N ∉ fs) (hn : PWR_RST_CNT0_DEVICE ∉ fs) (he : es = []) (hf : .flash ∉ ps)
    (hk : .keys ∉ ps) : a.resetFrom e cause := by
  unfold Dev.resetFrom Dev.countUp at h ⊢
  rwa [k.rd_eq SYS_BOOT_COUNT_N 0 hb (by simp [he]), k.rd_eq PWR_RST_CNT0_DEVICE 0 hn (by simp [he]),
    show d.flash = a.flash from k.rest .flash hf, show d.keys = a.keys from k.rest .keys hk] at h

end DeviceReset

end Sys2Proof.Machine
end

section
/-!
SUPPORT. Supplies and converters (R128, R486, R488 to R490), clause by clause, and O42.
-/
namespace Sys2Proof.Machine
open RegField

theorem exec_supervisorPowerOn (p : PerLane Bool) (s : State) : exec (.supervisorPowerOn p) s = execSupervisorPowerOn p s := rfl
theorem exec_supervisorPowerLoss (s : State) : exec .supervisorPowerLoss s = execSupervisorPowerLoss s := rfl
theorem exec_converterStart (l : Lane) (s : State) : exec (.converterStart l) s = execConverterStart l s := rfl
theorem exec_converterRegulation (l : Lane) (s : State) : exec (.converterRegulation l) s = execConverterRegulation l s := rfl
theorem exec_converterStop (l : Lane) (s : State) : exec (.converterStop l) s = execConverterStop l s := rfl
theorem exec_convFault (l : Lane) (s : State) : exec (.convFault l) s = execConvFault l s := rfl
theorem exec_supplyWarn (l : Lane) (s : State) : exec (.supplyWarn l) s = execSupplyWarn l s := rfl
theorem exec_supplyOk (l : Lane) (s : State) : exec (.supplyOk l) s = execSupplyOk l s := rfl
theorem exec_supplyReset (l : Lane) (s : State) : exec (.supplyReset l) s = execSupplyReset l s := rfl
theorem exec_supplyResetRelease (l : Lane) (s : State) : exec (.supplyResetRelease l) s = execSupplyResetRelease l s := rfl

/-- A saturating counter counts one more. -/
theorem Dev.rd_inc (d : Dev) (f : RegField) (i : Nat) : (d.inc f i).rd f i = d.countUp f i := by
  have hlt : min (d.rd f i + 1) (2 ^ f.width - 1) < 2 ^ f.width :=
    Nat.lt_of_le_of_lt (Nat.min_le_right ..) (Nat.sub_lt (Nat.two_pow_pos _) Nat.one_pos)
  rw [Dev.inc_eq, Dev.rd_wr, if_pos ⟨rfl, rfl⟩, Nat.mod_eq_of_lt hlt, Dev.countUp]

section Supervisor
variable {s : State} {p : PerLane Bool} {l : Lane}

/-! The supervisor (R489, R490). -/

/-- The inputs that are present are shown. -/
def showPresent (p : PerLane Bool) (d : Dev) : Dev := d.each Lane.all fun d l => d.wr PWR_SUP_STAT_PRESENT l.idx (bitOf (p.get l))

/-- The supervisor starts with every block in reset. -/
def poweredOn (p : PerLane Bool) (d : Dev) : Dev := showKeys (showPresent p (logReset (onPwr d fun _ => { active := true }) 1 0))

theorem showPresent_sameBut (p : PerLane Bool) (d : Dev) : SameBut d (showPresent p d) [PWR_SUP_STAT_PRESENT] [] [] :=
  .each (fun b _ _ => (SameBut.refl b _ _ _).wr _ _ _ (by simp)) (.refl _ _ _ _)

theorem showPresent_rd (p : PerLane Bool) (d : Dev) (m : Lane) : (showPresent p d).rd PWR_SUP_STAT_PRESENT m.idx = bitOf (p.get m) := by
  have hbit (b : Bool) : bitOf b % 2 = bitOf b := by cases b <;> rfl
  cases m <;> simp [showPresent, Dev.each, Lane.all, Lane.idx, hbit]

theorem supervisorPowerOn_starts (ha : s.dev.pwr.active = false) (hp : p.get l = true) :
    Answers (.supervisorPowerOn p) s fun e => e.pwr.active = true ∧ e.pwr.unwritten = [(1, 0)] ∧ e.rd PWR_RSTLOG_CAUSE = 1 ∧
      e.rd PWR_RSTLOG_SCOPE = 0 ∧ ∀ m : Lane, e.rd PWR_SUP_STAT_PRESENT m.idx = bitOf (p.get m) := by
  have hkeys := showKeys_sameBut (showPresent p (logReset (onPwr s.dev.cleared fun _ => { active := true }) 1 0))
  have hpresent := showPresent_sameBut p (logReset (onPwr s.dev.cleared fun _ => { active := true }) 1 0)
  obtain ⟨hcause, hscope⟩ := logReset_entered (onPwr s.dev.cleared fun _ => { active := true }) 1 0 (by decide) (by decide)
  have hpwr : (poweredOn p s.dev.cleared).pwr = { active := true, unwritten := [(1, 0)] } :=
    ((hkeys.rest .pwr (by simp)).trans (hpresent.rest .pwr (by simp))).trans (logReset_pwr ..)
  have hnone : ¬ (s.dev.cleared.pwr.active ∨ Lane.all.all fun l => !p.get l) := by
    rintro (h | h)
    · rw [Dev.cleared_pwr, ha] at h
      cases h
    · have := List.all_eq_true.mp h l (mem_allLanes l)
      rw [hp] at this
      cases this
  refine .of_result (e := poweredOn p s.dev.cleared) (exec_supervisorPowerOn p s) (if_neg hnone) ⟨by rw [hpwr], by rw [hpwr], ?_, ?_, fun m => ?_⟩
  · rw [poweredOn, hkeys.rd_eq _ _ (by simp) (by simp), hpresent.rd_eq _ _ (by simp) (by simp)]
    exact hcause
  · rw [poweredOn, hkeys.rd_eq _ _ (by simp) (by simp), hpresent.rd_eq _ _ (by simp) (by simp)]
    exact hscope
  · rw [poweredOn, hkeys.rd_eq _ _ (by simp) (by simp)]
    exact showPresent_rd ..

theorem supervisorPowerOn_ignored (h : s.dev.pwr.active = true ∨ ∀ l, p.get l = false) :
    Completes (.supervisorPowerOn p) s [] [] fun e => e.out = [] := by
  refine .of_unchanged (exec_supervisorPowerOn p s) (if_pos (h.imp id fun h => ?_))
  exact List.all_eq_true.mpr fun l _ => by simp [h l]

theorem supervisorPowerLoss_forgets : Answers .supervisorPowerLoss s fun e =>
    (∀ f i, e.rd f i = if f = SYS_BOOT_COUNT_N then s.dev.rd f i else f.reset i) ∧ e.pwr = {} ∧ e.flash = s.dev.flash ∧
      e.keys = s.dev.keys ∧ e.safe ∧ e.log = {} := by
  have hoff := lanesOff_sameBut s.dev.cleared
  refine .of_effect (exec_supervisorPowerLoss s) ⟨fun f i => ?_, rfl, hoff.rest .flash (by simp), hoff.rest .keys (by simp), fun l => ?_, rfl⟩
  · rw [Dev.rd_mk]
    split
    · next h =>
      subst h
      rw [RegFile.get_filter _ (fun f => decide (f = SYS_BOOT_COUNT_N)) (by simp)]
      exact hoff.rd_eq _ _ (by simp) (by simp)
    · next h => exact RegFile.get_filter_out _ (fun f => decide (f = SYS_BOOT_COUNT_N)) (by simp [h]) i
  · cases l <;> exact ⟨rfl, rfl⟩

end Supervisor

section Converters
variable {s : State} {l m : Lane}

/-! The start and the regulation of a converter (R488). -/

theorem convRuns_iff (d : Dev) (l : Lane) : convRuns d l = true ↔ d.rd PWR_SUP_STAT_CONV_RUN l.idx ≠ 0 := by simp [convRuns, Dev.on]

theorem supplyRelease_sameBut (d : Dev) (l : Lane) : SameBut d (supplyRelease d l) [] [(PWR_SUP_STAT_IN_RESET, l.idx)] [.pwr] :=
  ((SameBut.refl d _ _ _).wr _ _ _ (by simp)).setHeld _ _ _ (by simp)

theorem supplyRelease_releases (d : Dev) (l : Lane) : (supplyRelease d l).rd PWR_SUP_STAT_IN_RESET l.idx = 0 ∧
    heldBy (supplyRelease d l) l.idx = (heldBy d l.idx).filter fun c => decide (c ≠ 4) := by
  constructor
  · change (d.wr PWR_SUP_STAT_IN_RESET l.idx 0).rd PWR_SUP_STAT_IN_RESET l.idx = 0
    simp
  · rw [supplyRelease, heldBy_setHeld]
    rfl

/-- Converter `l` runs on its input. -/
def converterOn (d : Dev) (l : Lane) : Dev := (d.wr PWR_SUP_STAT_CONV_RUN l.idx 1).wr PWR_SUP_STAT_PRESENT l.idx 1

theorem converterOn_sameBut (d : Dev) (l : Lane) :
    SameBut d (converterOn d l) [] [(PWR_SUP_STAT_CONV_RUN, l.idx), (PWR_SUP_STAT_PRESENT, l.idx)] [] :=
  ((SameBut.refl d _ _ _).wr _ _ _ (by simp)).wr _ _ _ (by simp)

theorem converterStart_starts (ha : s.dev.pwr.active = true) (hr : s.dev.rd PWR_SUP_STAT_CONV_RUN l.idx = 0)
    (hf : s.dev.rd PWR_SUP_STAT_CONV_FAULT l.idx = 0) :
    Completes (.converterStart l) s [(PWR_SUP_STAT_CONV_RUN, l.idx), (PWR_SUP_STAT_PRESENT, l.idx), (PWR_SUP_STAT_IN_RESET, l.idx)] [.pwr]
      fun e => e.rd PWR_SUP_STAT_CONV_RUN l.idx = 1 ∧ e.rd PWR_SUP_STAT_IN_RESET l.idx = 0 ∧ 4 ∉ heldBy e l.idx := by
  have hrelease := supplyRelease_sameBut (converterOn s.dev.cleared l) l
  obtain ⟨hout, hheld⟩ := supplyRelease_releases (converterOn s.dev.cleared l) l
  refine .of_result (e := supplyRelease (converterOn s.dev.cleared l) l) (exec_converterStart l s)
    (if_pos ⟨ha, by simpa [convRuns, Dev.on] using hr, hf⟩) ?_ ⟨?_, hout, ?_⟩
  · exact ((converterOn_sameBut ..).mono (by simp) (by simp) (by simp)).next hrelease (by simp) (by simp) (by simp)
  · rw [hrelease.rd_eq _ _ (by simp) (by simp)]
    simp [converterOn]
  · simp [hheld]

theorem converterStart_ignored
    (h : s.dev.pwr.active = false ∨ s.dev.rd PWR_SUP_STAT_CONV_RUN l.idx ≠ 0 ∨ s.dev.rd PWR_SUP_STAT_CONV_FAULT l.idx ≠ 0) :
    Completes (.converterStart l) s [] [] fun e => e.out = [] := by
  refine .of_unchanged (exec_converterStart l s) (if_neg ?_)
  rintro ⟨ha, hr, hf⟩
  rcases h with h | h | h
  · exact absurd (h.symm.trans ha) (by simp)
  · simp [convRuns, Dev.on, h] at hr
  · exact h hf

theorem converterRegulation_regulates (hr : s.dev.rd PWR_SUP_STAT_CONV_RUN l.idx ≠ 0) :
    Completes (.converterRegulation l) s [(PWR_STATUS_CONV_OK, 0)] [] fun e =>
      convOk e l = true ∧ ∀ m, m ≠ l → convOk e m = convOk s.dev m := by
  have hbit (m : Lane) := wrBit_lane_testBit s.dev.cleared PWR_STATUS_CONV_OK l m true (by simp)
  exact .of_result (e := s.dev.cleared.wrBit PWR_STATUS_CONV_OK 0 l.idx true) (exec_converterRegulation l s)
    (if_pos ((convRuns_iff _ _).mpr hr)) ((SameBut.refl _ _ _ _).wr _ _ _ (by simp))
    ⟨(hbit l).trans (if_pos rfl), fun m hm => (hbit m).trans (if_neg hm)⟩

theorem converter_stopped (hr : s.dev.rd PWR_SUP_STAT_CONV_RUN l.idx = 0) :
    Completes (.converterRegulation l) s [] [] (fun e => e.out = []) ∧ Completes (.converterStop l) s [] [] (fun e => e.out = []) ∧
      Completes (.convFault l) s [] [] (fun e => e.out = []) := by
  have hnot : ¬ convRuns s.dev.cleared l = true := fun h => (convRuns_iff _ _).mp h hr
  exact ⟨.of_unchanged (exec_converterRegulation l s) (if_neg hnot), .of_unchanged (exec_converterStop l s) (if_neg hnot),
    .of_unchanged (exec_convFault l s) (if_neg hnot)⟩

/-! The stop of a converter (R488, R490). -/

/-- Converter `l` runs no more. -/
def converterOff (d : Dev) (l : Lane) : Dev := (d.wr PWR_SUP_STAT_CONV_RUN l.idx 0).wrBit PWR_STATUS_CONV_OK 0 l.idx false

theorem converterOff_sameBut (d : Dev) (l : Lane) : SameBut d (converterOff d l) [PWR_SUP_STAT_CONV_RUN, PWR_STATUS_CONV_OK] [] [] :=
  ((SameBut.refl d _ _ _).wr _ _ _ (by simp)).wr _ _ _ (by simp)

theorem converterOff_runs (d : Dev) (l m : Lane) : (converterOff d l).rd PWR_SUP_STAT_CONV_RUN m.idx =
    if m = l then 0 else d.rd PWR_SUP_STAT_CONV_RUN m.idx := by
  simp [converterOff, Lane.idx_inj]

theorem converterOff_notOk (d : Dev) (l : Lane) : convOk (converterOff d l) l = false :=
  (wrBit_lane_testBit _ _ _ _ _ (by simp)).trans (if_pos rfl)

theorem stopConverter_eq (d : Dev) (l : Lane) : stopConverter d l =
    if (Lane.all.all fun m => !convRuns (converterOff d l) m) ∧ (converterOff d l).on PWR_STATUS_SHARED_UP then
      deviceReset (converterOff d l) 0xC else converterOff d l := rfl

theorem stopConverter_another {d : Dev} (hm : m ≠ l) (hr : d.rd PWR_SUP_STAT_CONV_RUN m.idx ≠ 0) :
    stopConverter d l = converterOff d l := by
  rw [stopConverter_eq]
  refine if_neg fun h => ?_
  have hstopped := List.all_eq_true.mp h.1 m (mem_allLanes m)
  have hruns : convRuns (converterOff d l) m = true := by rw [convRuns_iff, converterOff_runs, if_neg hm]; exact hr
  rw [hruns] at hstopped
  cases hstopped

theorem stopConverter_last {d : Dev} (hr : ∀ m, m ≠ l → d.rd PWR_SUP_STAT_CONV_RUN m.idx = 0) (hu : d.rd PWR_STATUS_SHARED_UP ≠ 0) :
    stopConverter d l = deviceReset (converterOff d l) 0xC := by
  rw [stopConverter_eq]
  refine if_pos ⟨List.all_eq_true.mpr fun m _ => ?_, ?_⟩
  · have hstopped : (converterOff d l).rd PWR_SUP_STAT_CONV_RUN m.idx = 0 := by
      rw [converterOff_runs]
      split
      · rfl
      · next h => exact hr m h
    simp [convRuns, Dev.on, hstopped]
  · simpa [Dev.on, (converterOff_sameBut d l).rd_eq] using hu

/-- The registers that a stop of a converter may change before the device may be reset. -/
@[simp] def supplyFields : List RegField :=
  [PWR_SUP_STAT_IN_RESET, PWR_SUP_CNT_RESET, PWR_SUP_STAT_CONV_FAULT, PWR_STATUS_CONV_FAULT] ++ laneResetFields

/-- The supply reset of a lane is shown, counted and logged. -/
def supplyLow (d : Dev) (l : Lane) : Dev :=
  ((d.wr PWR_SUP_STAT_IN_RESET l.idx 1).inc PWR_SUP_CNT_RESET l.idx).event .SUPPLY_RESET srcPower l.idx

theorem supplyLow_sameBut (d : Dev) (l : Lane) :
    SameBut d (supplyLow d l) ([PWR_SUP_STAT_IN_RESET, PWR_SUP_CNT_RESET] ++ recordFields) [] [.log] :=
  (((SameBut.refl d _ _ _).wr _ _ _ (by simp)).wr _ _ _ (by simp)).eventIn _ _ _ _ (by simp) (by simp)

theorem supplyReset_already {d : Dev} (h : 4 ∈ heldBy d l.idx) : supplyReset d l = d := if_pos (List.contains_iff_mem.mpr h)

theorem supplyReset_begins {d : Dev} (h : 4 ∉ heldBy d l.idx) : supplyReset d l = laneReset (supplyLow d l) l 4 .SUPPLY_RESET :=
  if_neg (by simpa using h)

theorem not_momentary_four : ¬ momentary 4 := by simp [momentary]

theorem not_momentary_five : ¬ momentary 5 := by simp [momentary]

theorem supplyReset_sameBut (d : Dev) (l : Lane) : SameBut d (supplyReset d l) supplyFields [] [.lanes, .fault, .rings, .log, .pwr] := by
  by_cases h : 4 ∈ heldBy d l.idx
  · rw [supplyReset_already h]
    exact .refl _ _ _ _
  · rw [supplyReset_begins h]
    exact ((supplyLow_sameBut d l).mono (by simp) (by simp) (by simp)).next (laneReset_sameBut _ not_momentary_four) (by simp) (by simp) (by simp)

theorem supplyReset_held (d : Dev) (l : Lane) : 4 ∈ heldBy (supplyReset d l) l.idx := by
  by_cases h : 4 ∈ heldBy d l.idx
  · rwa [supplyReset_already h]
  · rw [supplyReset_begins h]
    exact laneReset_held _ not_momentary_four

/-- A converter's fault is shown. -/
def convFaulty (d : Dev) (l : Lane) : Dev := (d.wr PWR_SUP_STAT_CONV_FAULT l.idx 1).flag PWR_STATUS_CONV_FAULT

/-- It is logged, and holds the lane in reset. -/
def convFaultReset (d : Dev) (l : Lane) : Dev := laneReset ((convFaulty d l).event .CONV_FAULT srcPower l.idx) l 5 .CONV_FAULT

theorem convFaultReset_after (d : Dev) (l : Lane) :
    SameBut (convFaulty d l) (convFaultReset d l) laneResetFields [] [.lanes, .fault, .rings, .log, .pwr] :=
  ((SameBut.refl _ _ _ _).eventIn _ _ _ _ (by simp) (by simp)).next (laneReset_sameBut _ not_momentary_five) (by simp) (by simp) (by simp)

theorem convFaultReset_sameBut (d : Dev) (l : Lane) :
    SameBut d (convFaultReset d l) supplyFields [] [.lanes, .fault, .rings, .log, .pwr] :=
  (((SameBut.refl d _ _ _).wr _ _ _ (by simp)).wr _ _ _ (by simp)).next (convFaultReset_after d l) (by simp) (by simp) (by simp)

theorem convFaultReset_shown (d : Dev) (l : Lane) : 5 ∈ heldBy (convFaultReset d l) l.idx ∧
    (convFaultReset d l).rd PWR_SUP_STAT_CONV_FAULT l.idx = 1 ∧ (convFaultReset d l).rd PWR_STATUS_CONV_FAULT = 1 := by
  refine ⟨laneReset_held _ not_momentary_five, ?_, ?_⟩
  · rw [(convFaultReset_after d l).rd_eq _ _ (by simp) (by simp)]
    simp [convFaulty]
  · rw [(convFaultReset_after d l).rd_eq _ _ (by simp) (by simp)]
    simp [convFaulty]

theorem execConverterStop_runs (hr : s.dev.rd PWR_SUP_STAT_CONV_RUN l.idx ≠ 0) {post : Dev → Prop}
    (h : post (stopConverter (supplyReset s.dev.cleared l) l)) : Answers (.converterStop l) s post :=
  .of_result (exec_converterStop l s) (if_pos ((convRuns_iff _ _).mpr hr)) h

theorem execConvFault_runs (hr : s.dev.rd PWR_SUP_STAT_CONV_RUN l.idx ≠ 0) {post : Dev → Prop}
    (h : post (stopConverter (convFaultReset s.dev.cleared l) l)) : Answers (.convFault l) s post :=
  .of_result (exec_convFault l s) (if_pos ((convRuns_iff _ _).mpr hr)) h

/-- With another converter running a converter stops, and nothing else changes. -/
theorem stopConverter_stops {d e : Dev} {ps : List Part} (he : SameBut d e supplyFields [] ps) (hm : m ≠ l)
    (hr : d.rd PWR_SUP_STAT_CONV_RUN m.idx ≠ 0) :
    SameBut e (stopConverter e l) [PWR_SUP_STAT_CONV_RUN, PWR_STATUS_CONV_OK] [] [] ∧
      (stopConverter e l).rd PWR_SUP_STAT_CONV_RUN l.idx = 0 ∧ convOk (stopConverter e l) l = false ∧
      (stopConverter e l).rd PWR_SUP_STAT_CONV_RUN m.idx = d.rd PWR_SUP_STAT_CONV_RUN m.idx := by
  have hm' : e.rd PWR_SUP_STAT_CONV_RUN m.idx = d.rd PWR_SUP_STAT_CONV_RUN m.idx := he.rd_eq _ _ (by simp) (by simp)
  rw [stopConverter_another hm (by rwa [hm']), converterOff_runs, converterOff_runs, if_pos rfl, if_neg hm]
  exact ⟨converterOff_sameBut .., rfl, converterOff_notOk .., hm'⟩

theorem converter_stops (hl : s.dev.rd PWR_SUP_STAT_CONV_RUN l.idx ≠ 0) (hm : m ≠ l) (hr : s.dev.rd PWR_SUP_STAT_CONV_RUN m.idx ≠ 0) :
    (Answers (.converterStop l) s fun e => e.rd PWR_SUP_STAT_CONV_RUN l.idx = 0 ∧ convOk e l = false ∧ 4 ∈ heldBy e l.idx ∧
      e.rd PWR_SUP_STAT_CONV_RUN m.idx = s.dev.rd PWR_SUP_STAT_CONV_RUN m.idx) ∧
    (Answers (.convFault l) s fun e => e.rd PWR_SUP_STAT_CONV_RUN l.idx = 0 ∧ convOk e l = false ∧ 5 ∈ heldBy e l.idx ∧
      e.rd PWR_SUP_STAT_CONV_FAULT l.idx = 1 ∧ e.rd PWR_STATUS_CONV_FAULT = 1) := by
  refine ⟨execConverterStop_runs hl ?_, execConvFault_runs hl ?_⟩
  · obtain ⟨hsame, hrun, hok, hother⟩ := stopConverter_stops (supplyReset_sameBut s.dev.cleared l) hm hr
    refine ⟨hrun, hok, ?_, hother⟩
    rw [hsame.heldBy_eq (by simp)]
    exact supplyReset_held ..
  · obtain ⟨hsame, hrun, hok, -⟩ := stopConverter_stops (convFaultReset_sameBut s.dev.cleared l) hm hr
    obtain ⟨hheld, hfault, hflag⟩ := convFaultReset_shown s.dev.cleared l
    refine ⟨hrun, hok, ?_, (hsame.rd_eq _ _ (by simp) (by simp)).trans hfault, (hsame.rd_eq _ _ (by simp) (by simp)).trans hflag⟩
    rwa [hsame.heldBy_eq (by simp)]

/-- The last converter to stop resets the device. -/
theorem stopConverter_resets {d e : Dev} (he : SameBut d e supplyFields [] [.lanes, .fault, .rings, .log, .pwr])
    (hr : ∀ m, m ≠ l → d.rd PWR_SUP_STAT_CONV_RUN m.idx = 0) (hu : d.rd PWR_STATUS_SHARED_UP ≠ 0) : d.resetFrom (stopConverter e l) 0xC := by
  rw [stopConverter_last (fun m hm => (he.rd_eq _ _ (by simp) (by simp)).trans (hr m hm)) (by rwa [he.rd_eq _ _ (by simp) (by simp)])]
  exact ((deviceReset_resetFrom _ _ (by decide)).of_sameBut (converterOff_sameBut e l) (by simp) (by simp) rfl (by simp) (by simp)).of_sameBut
    he (by simp) (by simp) rfl (by simp) (by simp)

theorem converter_stopsLast (hl : s.dev.rd PWR_SUP_STAT_CONV_RUN l.idx ≠ 0)
    (hr : ∀ m, m ≠ l → s.dev.rd PWR_SUP_STAT_CONV_RUN m.idx = 0) (hu : s.dev.rd PWR_STATUS_SHARED_UP ≠ 0) :
    Answers (.converterStop l) s (fun e => s.dev.resetFrom e 0xC) ∧ Answers (.convFault l) s (fun e => s.dev.resetFrom e 0xC) :=
  ⟨execConverterStop_runs hl (stopConverter_resets (d := s.dev.cleared) (supplyReset_sameBut ..) hr hu),
   execConvFault_runs hl (stopConverter_resets (d := s.dev.cleared) (convFaultReset_sameBut ..) hr hu)⟩

end Converters

section Supplies
variable {s : State} {l : Lane}

/-! The warning of a supply (R128). -/

/-- A supply warning is shown, counted and known to its lane. -/
def supplyWarning (d : Dev) (l : Lane) : Dev :=
  onLane ((d.wr PWR_SUP_STAT_WARN l.idx 1).inc PWR_SUP_CNT_WARN l.idx) l fun x => { x with supplyWarn := true }

theorem supplyWarn_warns (ha : s.dev.pwr.active = true) (hw : s.dev.rd PWR_SUP_STAT_WARN l.idx = 0) (hu : s.dev.rd PWR_STATUS_SHARED_UP ≠ 0) :
    Completes (.supplyWarn l) s ([(PWR_SUP_STAT_WARN, l.idx), (PWR_SUP_CNT_WARN, l.idx)] ++ recordRegs srcPower) [.lanes, .log] fun e =>
      e.rd PWR_SUP_STAT_WARN l.idx = 1 ∧ e.rd PWR_SUP_CNT_WARN l.idx = s.dev.countUp PWR_SUP_CNT_WARN l.idx ∧
        laneOf e l = { laneOf s.dev l with supplyWarn := true } ∧ (∀ m, m ≠ l → laneOf e m = laneOf s.dev m) ∧
          e.logged .SUPPLY_WARN srcPower l.idx := by
  have hevent := (supplyWarning s.dev.cleared l).event_sameBut .SUPPLY_WARN srcPower l.idx 0
  refine .of_result (e := (supplyWarning s.dev.cleared l).event .SUPPLY_WARN srcPower l.idx) (exec_supplyWarn l s) (if_pos ⟨ha, hw⟩)
    ?_ ⟨?_, ?_, ?_, fun m hm => ?_, ?_⟩
  · exact ((((SameBut.refl _ _ _ _).wr _ _ _ (by simp)).wr _ _ _ (by simp)).onLane l _ (by simp)).event _ _ _ _
      (fun y hy => .inl (List.mem_append_right _ hy)) (by simp)
  · rw [hevent.rd_eq _ _ (by simp) (by simp)]
    simp [supplyWarning]
  · rw [hevent.rd_eq _ _ (by simp) (by simp)]
    refine (Dev.rd_inc ..).trans ?_
    simp [Dev.countUp]
  · rw [hevent.laneOf_eq (by simp)]
    simp [supplyWarning]
  · rw [hevent.laneOf_eq (by simp)]
    simp [supplyWarning, hm]
  · exact Dev.record_logged _ _ _ _ _ (by simpa [supplyWarning] using hu) (Nat.lt_trans (Lane.idx_lt l) (by decide)) (by decide)

theorem supplyWarn_ignored (h : s.dev.pwr.active = false ∨ s.dev.rd PWR_SUP_STAT_WARN l.idx ≠ 0) :
    Completes (.supplyWarn l) s [] [] fun e => e.out = [] := by
  refine .of_unchanged (exec_supplyWarn l s) (if_neg ?_)
  rintro ⟨ha, hw⟩
  rcases h with h | h
  · exact absurd (h.symm.trans ha) (by simp)
  · exact h hw

/-- A supply warning ends. -/
def supplyWell (d : Dev) (l : Lane) : Dev := onLane (d.wr PWR_SUP_STAT_WARN l.idx 0) l fun x => { x with supplyWarn := false }

theorem supplyOk_ends (hw : s.dev.rd PWR_SUP_STAT_WARN l.idx ≠ 0) (hu : s.dev.rd PWR_STATUS_SHARED_UP ≠ 0) :
    Completes (.supplyOk l) s ([(PWR_SUP_STAT_WARN, l.idx)] ++ recordRegs srcPower) [.lanes, .log] fun e =>
      e.rd PWR_SUP_STAT_WARN l.idx = 0 ∧ laneOf e l = { laneOf s.dev l with supplyWarn := false } ∧ e.logged .SUPPLY_OK srcPower l.idx := by
  have hevent := (supplyWell s.dev.cleared l).event_sameBut .SUPPLY_OK srcPower l.idx 0
  refine .of_result (e := (supplyWell s.dev.cleared l).event .SUPPLY_OK srcPower l.idx) (exec_supplyOk l s)
    (if_pos (by simpa [Dev.on] using hw)) ?_ ⟨?_, ?_, ?_⟩
  · exact (((SameBut.refl _ _ _ _).wr _ _ _ (by simp)).onLane l _ (by simp)).event _ _ _ _
      (fun y hy => .inl (List.mem_append_right _ hy)) (by simp)
  · rw [hevent.rd_eq _ _ (by simp) (by simp)]
    simp [supplyWell]
  · rw [hevent.laneOf_eq (by simp)]
    simp [supplyWell]
  · exact Dev.record_logged _ _ _ _ _ (by simpa [supplyWell] using hu) (Nat.lt_trans (Lane.idx_lt l) (by decide)) (by decide)

theorem supplyOk_ignored (h : s.dev.rd PWR_SUP_STAT_WARN l.idx = 0) : Completes (.supplyOk l) s [] [] fun e => e.out = [] :=
  .of_unchanged (exec_supplyOk l s) (if_neg (by simp [Dev.on, h]))

/-! The reset of a supply (R128, R490). -/

theorem supplyReset_resets (ha : s.dev.pwr.active = true) (hh : 4 ∉ heldBy s.dev l.idx)
    (hu : (s.dev.rd PWR_STATUS_LANE_UP).testBit l.idx = true) :
    Answers (.supplyReset l) s fun e => e.rd PWR_SUP_STAT_IN_RESET l.idx = 1 ∧
      e.rd PWR_SUP_CNT_RESET l.idx = s.dev.countUp PWR_SUP_CNT_RESET l.idx ∧ 4 ∈ heldBy e l.idx ∧ laneMode e l = .absent ∧
      (e.lanes.get l).safe ∧ (e.rd PWR_STATUS_LANE_UP).testBit l.idx = false ∧ e.rd ENT_STAT_BYPASS_CLOSED l.idx ≠ 0 ∧
      e.rd PWR_RSTLOG_CAUSE = 4 ∧ e.rd PWR_RSTLOG_SCOPE = 1 + l.idx := by
  have hlow := supplyLow_sameBut s.dev.cleared l
  have hreset : SameBut (supplyLow s.dev.cleared l) (laneReset (supplyLow s.dev.cleared l) l 4 .SUPPLY_RESET) laneResetFields []
      [.lanes, .fault, .rings, .log, .pwr] := laneReset_sameBut _ not_momentary_four
  obtain ⟨hmode, hsafe, hup, hbypass, hcause, hscope⟩ := laneReset_stops (d := supplyLow s.dev.cleared l) (l := l) .SUPPLY_RESET
    not_momentary_four (by decide) (by rw [hlow.heldBy_eq (by simp)]; exact hh) (by rw [hlow.rd_eq _ _ (by simp) (by simp)]; exact hu)
  refine .of_result (exec_supplyReset l s) ((if_pos ha).trans (supplyReset_begins hh))
    ⟨?_, ?_, laneReset_held _ not_momentary_four, hmode, hsafe, hup, hbypass, hcause, hscope⟩
  · rw [hreset.rd_eq _ _ (by simp) (by simp), supplyLow, (Dev.event_sameBut ..).rd_eq _ _ (by simp) (by simp)]
    simp
  · rw [hreset.rd_eq _ _ (by simp) (by simp), supplyLow, (Dev.event_sameBut ..).rd_eq _ _ (by simp) (by simp), Dev.rd_inc]
    simp [Dev.countUp]

theorem supplyReset_ignored (h : s.dev.pwr.active = false ∨ 4 ∈ heldBy s.dev l.idx) :
    Completes (.supplyReset l) s [] [] fun e => e.out = [] := by
  refine .of_unchanged (exec_supplyReset l s) ?_
  rcases h with h | h
  · exact if_neg (by simp [h])
  · exact (congrArg (ite _ · _) (supplyReset_already (d := s.dev.cleared) h)).trans (ite_self _)

theorem supplyResetRelease_releases (ha : s.dev.pwr.active = true) :
    Completes (.supplyResetRelease l) s [(PWR_SUP_STAT_IN_RESET, l.idx)] [.pwr] fun e => e.rd PWR_SUP_STAT_IN_RESET l.idx = 0 ∧
      heldBy e l.idx = (heldBy s.dev l.idx).filter fun c => decide (c ≠ 4) :=
  .of_result (exec_supplyResetRelease l s) (if_pos ha) (supplyRelease_sameBut ..) (supplyRelease_releases ..)

end Supplies

/-- Settles O42: the supervisor, the converters and the supplies, each clause by its lemma above. -/
theorem suppliesAndConverters : Obligations.SuppliesAndConverters :=
  ⟨fun _ _ _ => supervisorPowerOn_starts, fun _ _ => supervisorPowerOn_ignored, fun _ => supervisorPowerLoss_forgets,
   fun _ _ => converterStart_starts, fun _ _ => converterStart_ignored, fun _ _ => converterRegulation_regulates,
   fun _ _ => converter_stopped, fun _ _ _ => converter_stops, fun _ _ => converter_stopsLast, fun _ _ => supplyWarn_warns,
   fun _ _ => supplyWarn_ignored, fun _ _ => supplyOk_ends, fun _ _ => supplyOk_ignored, fun _ _ => supplyReset_resets,
   fun _ _ => supplyReset_ignored, fun _ _ => supplyResetRelease_releases⟩

end Sys2Proof.Machine
end

section
/-!
SUPPORT. The ports of a ring and its bypass switch (R152, R153, R176): what goes down and comes up, and the record of it.
-/
namespace Sys2Proof.Machine
open RegField

theorem exec_entPortDown (l : Lane) (q : Fin 2) (s : State) : exec (.entPortDown l q) s = execEntPortDown l q s := rfl
theorem exec_entPortUp (l : Lane) (q : Fin 2) (s : State) : exec (.entPortUp l q) s = execEntPortUp l q s := rfl
theorem exec_bypassOpen (l : Lane) (s : State) : exec (.bypassOpen l) s = execBypassOpen l s := rfl

/-- While the shared blocks run, an event is logged with what the record holds of its detail. -/
theorem Dev.event_logged_detail (d : Dev) (x : Ev) (source : Nat) {index : Nat} (detail : Nat) (h : d.rd PWR_STATUS_SHARED_UP ≠ 0)
    (hi : index < 2 ^ 16) : (d.event x source index detail).logged x source index (detail % 2 ^ 80) := by
  obtain ⟨r, hr, hc, hs, hi', hx, -⟩ := d.record_last x.code source index detail h
  rw [Nat.mod_eq_of_lt hi] at hi'
  simp [Dev.logged, hr, hc, hs, hi', hx]

/-- A record of an event adds the log and the registers of Table 15-7 to a frame. -/
theorem SameBut.recorded {a d : Dev} {es : List (RegField × Nat)} {ps : List Part} (h : SameBut a d [] es ps) (x : Ev) (s i n : Nat) :
    SameBut a (d.event x s i n) [] (es ++ recordRegs s) (ps ++ [.log]) :=
  (h.mono (List.Subset.refl _) (fun _ hx => .inl (List.mem_append_left _ hx)) (List.subset_append_left ..)).event _ _ _ _
    (fun _ hx => .inl (List.mem_append_right _ hx)) (by simp)

theorem SameBut.ringOf_eq {a d : Dev} {fs : List RegField} {es : List (RegField × Nat)} {ps : List Part} (h : SameBut a d fs es ps)
    (hp : .rings ∉ ps) (l : Lane) : ringOf d l = ringOf a l := congrArg (PerLane.get · l) (h.rest .rings hp)

/-! The up bit of a port. -/

/-- The field of the up bit of a port. -/
def linkField (q : Nat) : RegField := if q = 0 then ENT_STAT_LINK0 else ENT_STAT_LINK1

@[simp] theorem linkField_width (q : Nat) : (linkField q).width = 1 := by
  unfold linkField
  split <;> rfl

@[simp] theorem linkField_ne {f : RegField} (h0 : f ≠ ENT_STAT_LINK0) (h1 : f ≠ ENT_STAT_LINK1) (q : Nat) : linkField q ≠ f := by
  unfold linkField
  split
  · exact h0.symm
  · exact h1.symm

@[simp] theorem ne_linkField {f : RegField} (h0 : f ≠ ENT_STAT_LINK0) (h1 : f ≠ ENT_STAT_LINK1) (q : Nat) : f ≠ linkField q :=
  (linkField_ne h0 h1 q).symm

/-- The two ports of a ring have fields of their own. -/
theorem linkField_other (q : Fin 2) : linkField (1 - q.val) ≠ linkField q := by
  match q with
  | 0 => decide
  | 1 => decide

theorem portUp_eq (d : Dev) (l : Lane) (q : Nat) : portUp d l q = d.on (linkField q) l.idx := by
  unfold portUp linkField
  split <;> rfl

theorem setPort_eq (d : Dev) (l : Lane) (q : Nat) (up : Bool) : setPort d l q up = d.wr (linkField q) l.idx (bitOf up) := by
  unfold setPort linkField
  split <;> rfl

theorem SameBut.portUp_eq {a d : Dev} {fs : List RegField} {es : List (RegField × Nat)} {ps : List Part} {l : Lane} {q : Nat}
    (h : SameBut a d fs es ps) (hf : linkField q ∉ fs) (he : (linkField q, l.idx) ∉ es) : portUp d l q = portUp a l q := by
  rw [Machine.portUp_eq, Machine.portUp_eq, Dev.on, Dev.on, h.rd_eq _ _ hf he]

@[simp] theorem portUp_record (d : Dev) (c s i n : Nat) (l : Lane) (q : Nat) : portUp (d.record c s i n) l q = portUp d l q :=
  (d.record_sameBut c s i n).portUp_eq (by simp) (by simp)

@[simp] theorem portUp_emit (d : Dev) (o : Output) (l : Lane) (q : Nat) : portUp (d.emit o) l q = portUp d l q := rfl

@[simp] theorem portUp_onRing (d : Dev) (k : Lane) (f : RingState → RingState) (l : Lane) (q : Nat) :
    portUp (onRing d k f) l q = portUp d l q := rfl

theorem portUp_wr (d : Dev) {f : RegField} (h0 : f ≠ ENT_STAT_LINK0) (h1 : f ≠ ENT_STAT_LINK1) (i v : Nat) (l : Lane) (q : Nat) :
    portUp (d.wr f i v) l q = portUp d l q := (d.wr_sameBut f i v).portUp_eq (by simp) (by simp [h0, h1])

@[simp] theorem ringOf_setPort (d : Dev) (l : Lane) (q : Nat) (up : Bool) (k : Lane) : ringOf (setPort d l q up) k = ringOf d k := by
  rw [setPort_eq, ringOf_wr]

@[simp] theorem setPort_out (d : Dev) (l : Lane) (q : Nat) (up : Bool) : (setPort d l q up).out = d.out := by rw [setPort_eq, Dev.wr_out]

@[simp] theorem portUp_setPort (d : Dev) (l : Lane) (q : Nat) (up : Bool) : portUp (setPort d l q up) l q = up := by
  rw [portUp_eq, setPort_eq]
  cases up <;> simp [Dev.on, bitOf]

@[simp] theorem portUp_setPort_other (d : Dev) (l : Lane) (q : Fin 2) (up : Bool) :
    portUp (setPort d l q up) l (1 - q.val) = portUp d l (1 - q.val) :=
  setPort_eq d l q up ▸ (d.wr_sameBut ..).portUp_eq (by simp) (by simp [linkField_other])

/-- Both ports of a ring are up if either is and the other is. -/
theorem portsUp_iff (d : Dev) (l : Lane) (q : Fin 2) :
    portUp d l 0 = true ∧ portUp d l 1 = true ↔ portUp d l q = true ∧ portUp d l (1 - q.val) = true := by
  match q with
  | 0 => exact .rfl
  | 1 => exact and_comm

/-! The detail of a link record. -/

/-- The counters of R175 that a link record holds. -/
@[simp] def linkCounters : List RegField :=
  [ENT_P_CNT0_CODE_ERR, ENT_P_CNT0_CRC_ERR, ENT_P_CNT1_POISON, ENT_P_CNT1_LATE, ENT_P_CNT2_TURNED, ENT_P_CNT2_SYNC_LOSS]

theorem linkDetail_congr {d e : Dev} (h : ∀ f ∈ linkCounters, ∀ i, e.rd f i = d.rd f i) (l : Lane) (q : Nat) :
    linkDetail e l q = linkDetail d l q := by
  unfold linkDetail
  extract_lets ports fields countOfE countOfD
  have hcount : ∀ p ∈ fields.zipIdx, countOfE p.1 * 4096 ^ p.2 = countOfD p.1 * 4096 ^ p.2 := fun p hp => by
    simp only [countOfE, countOfD, h p.1 (List.fst_mem_of_mem_zipIdx hp)]
  rw [List.map_congr_left hcount]

/-- A record leaves the counters that a link record holds. -/
@[simp] theorem linkDetail_record (d : Dev) (c s i n : Nat) (l : Lane) (q : Nat) :
    linkDetail (d.record c s i n) l q = linkDetail d l q := by
  refine linkDetail_congr (fun f hf j => (d.record_sameBut c s i n).rd_eq f j (by simp) fun hr => ?_) l q
  exact (by decide : ∀ f ∈ linkCounters, f ∉ recordFields) f hf (mem_recordFields hr)

/-- A port's link record holds the counters as they stand once it is written. -/
theorem linkRecord_logged (d : Dev) (x : Ev) (l : Lane) (q : Fin 2) (h : d.rd PWR_STATUS_SHARED_UP ≠ 0) :
    (d.event x (srcRing l) q (linkDetail d l q)).logged x (srcRing l) q
      (linkDetail (d.event x (srcRing l) q (linkDetail d l q)) l q % 2 ^ 80) := by
  rw [show linkDetail (d.event x (srcRing l) q (linkDetail d l q)) l q = linkDetail d l q from linkDetail_record ..]
  exact Dev.event_logged_detail _ _ _ _ h (by omega)

/-! A port goes down (R152, R176). -/

/-- The ring remembers that both its ports are down. -/
def noteBothDown (d : Dev) (l : Lane) (q : Nat) : Dev :=
  if portUp d l (1 - q) then d else onRing d l fun r => { r with bothDown := true }

theorem noteBothDown_sameBut (d : Dev) (l : Lane) (q : Nat) : SameBut d (noteBothDown d l q) [] [] [.rings] := by
  unfold noteBothDown
  split
  · exact .refl _ _ _ _
  · exact (SameBut.refl _ _ _ _).onRing l _ (by simp)

@[simp] theorem noteBothDown_out (d : Dev) (l : Lane) (q : Nat) : (noteBothDown d l q).out = d.out := by
  unfold noteBothDown
  split <;> rfl

theorem noteBothDown_notes {d : Dev} {l : Lane} {q : Nat} (h : portUp d l (1 - q) = false) :
    (ringOf (noteBothDown d l q) l).bothDown = true := by
  simp [noteBothDown, h]

/-- A port that goes down, up to the record of it: its link-fail signal replaces idle. -/
def linkLost (d : Dev) (l : Lane) (q : Nat) : Dev :=
  noteBothDown (((setPort d l q false).inc ENT_P_CNT2_SYNC_LOSS (portIx l q)).emit (.linkFail l q true)) l q

theorem portDown_eq {d : Dev} {l : Lane} {q : Nat} (h : portUp d l q = true) : portDown d l q =
    (linkLost d l q).event .ENT_LINK_DOWN (srcRing l) q (linkDetail (linkLost d l q) l q) := if_pos h

section LinkLost
variable (d : Dev) (l : Lane) (q : Nat)

theorem linkLost_sameBut : SameBut d (linkLost d l q) [] [(linkField q, l.idx), (ENT_P_CNT2_SYNC_LOSS, portIx l q)] [.rings] := by
  have h : SameBut d (setPort d l q false) [] [(linkField q, l.idx), (ENT_P_CNT2_SYNC_LOSS, portIx l q)] [.rings] :=
    setPort_eq d l q false ▸ (SameBut.refl _ _ _ _).wr _ _ _ (by simp)
  exact ((h.wr _ _ _ (by simp)).emit _).next (noteBothDown_sameBut _ l q) (by simp) (by simp) (by simp)

theorem linkLost_out : (linkLost d l q).out = d.out ++ [.linkFail l q true] := by simp [linkLost]

theorem linkLost_down : portUp (linkLost d l q) l q = false := by
  rw [linkLost, (noteBothDown_sameBut ..).portUp_eq (by simp) (by simp)]
  simp [portUp_wr]

theorem linkLost_counts :
    (linkLost d l q).rd ENT_P_CNT2_SYNC_LOSS (portIx l q) = d.countUp ENT_P_CNT2_SYNC_LOSS (portIx l q) := by
  rw [linkLost, (noteBothDown_sameBut ..).rd_eq _ _ (by simp) (by simp), Dev.emit_rd, Dev.rd_inc]
  simp [Dev.countUp, setPort_eq]

end LinkLost

theorem linkLost_bothDown {d : Dev} {l : Lane} {q : Fin 2} (h : portUp d l (1 - q.val) = false) :
    (ringOf (linkLost d l q) l).bothDown = true := noteBothDown_notes (by simpa [portUp_wr] using h)

/-! A port comes up (R152, R183). -/

/-- A start sequence is due where both ports are up again after both were down. -/
def noteBothUp (d : Dev) (l : Lane) : Dev :=
  if (ringOf d l).bothDown ∧ portUp d l 0 ∧ portUp d l 1 then onRing d l fun r => { r with bothDown := false, startDue := true } else d

theorem noteBothUp_sameBut (d : Dev) (l : Lane) : SameBut d (noteBothUp d l) [] [] [.rings] := by
  unfold noteBothUp
  split
  · exact (SameBut.refl _ _ _ _).onRing l _ (by simp)
  · exact .refl _ _ _ _

@[simp] theorem noteBothUp_out (d : Dev) (l : Lane) : (noteBothUp d l).out = d.out := by
  unfold noteBothUp
  split <;> rfl

theorem noteBothUp_startDue {d : Dev} {l : Lane} {q : Fin 2} (h : portUp d l q = true) : (ringOf (noteBothUp d l) l).startDue =
    ((ringOf d l).startDue || ((ringOf d l).bothDown && portUp d l (1 - q.val))) := by
  simp only [noteBothUp, portsUp_iff d l q, h, true_and]
  split
  · next hboth => simp [hboth]
  · next hnot =>
    have hno : ((ringOf d l).bothDown && portUp d l (1 - q.val)) = false := by simpa using hnot
    rw [hno, Bool.or_false]

/-- A port that comes up, up to the record of it: idle replaces its link-fail signal. -/
def linkFound (d : Dev) (l : Lane) (q : Nat) : Dev := noteBothUp ((setPort d l q true).emit (.linkFail l q false)) l

section LinkFound
variable (d : Dev) (l : Lane)

theorem linkFound_sameBut (q : Nat) : SameBut d (linkFound d l q) [] [(linkField q, l.idx)] [.rings] := by
  have h : SameBut d (setPort d l q true) [] [(linkField q, l.idx)] [.rings] :=
    setPort_eq d l q true ▸ (SameBut.refl _ _ _ _).wr _ _ _ (by simp)
  exact (h.emit _).next (noteBothUp_sameBut _ l) (by simp) (by simp) (by simp)

theorem linkFound_out (q : Nat) : (linkFound d l q).out = d.out ++ [.linkFail l q false] := by simp [linkFound]

theorem linkFound_up (q : Nat) : portUp (linkFound d l q) l q = true := by
  rw [linkFound, (noteBothUp_sameBut ..).portUp_eq (by simp) (by simp)]
  simp

theorem linkFound_startDue (q : Fin 2) : (ringOf (linkFound d l q) l).startDue =
    ((ringOf d l).startDue || ((ringOf d l).bothDown && portUp d l (1 - q.val))) := by
  rw [linkFound, noteBothUp_startDue (q := q) (by simp)]
  simp

end LinkFound

/-! The bypass switch opens (R153, R183). -/

/-- A bypass switch that opens, up to the record of it: both ports, not yet in sync, send the link-fail signal. -/
def bypassOpened (d : Dev) (l : Lane) : Dev :=
  (((onRing d l fun r => { r with startDue := true, bothDown := true }).wr ENT_STAT_BYPASS_CLOSED l.idx 0).emit (.linkFail l 0 true)).emit
    (.linkFail l 1 true)

theorem bypassOpened_sameBut (d : Dev) (l : Lane) : SameBut d (bypassOpened d l) [] [(ENT_STAT_BYPASS_CLOSED, l.idx)] [.rings] :=
  ((((SameBut.refl _ _ _ _).onRing l _ (by simp)).wr _ _ _ (by simp)).emit _).emit _

theorem bypassOpened_detail (d : Dev) (l : Lane) (q : Nat) : linkDetail (bypassOpened d l) l q = linkDetail d l q :=
  linkDetail_congr (fun f hf i => (bypassOpened_sameBut d l).rd_eq f i (by simp) fun h =>
    (by decide : ENT_STAT_BYPASS_CLOSED ∉ linkCounters) ((Prod.mk.inj (List.mem_singleton.mp h)).1 ▸ hf)) l q

/-! The commands. -/

section Commands
variable {s : State} {l : Lane} {q : Fin 2}

theorem entPortDown_goesDown (hp : portUp s.dev l q = true) (hu : s.dev.rd PWR_STATUS_SHARED_UP ≠ 0) :
    Completes (.entPortDown l q) s
      ([(if q.val = 0 then ENT_STAT_LINK0 else ENT_STAT_LINK1, l.idx), (ENT_P_CNT2_SYNC_LOSS, portIx l q)] ++ recordRegs (srcRing l))
      [.rings, .log] fun e =>
        portUp e l q = false ∧ e.out = [.linkFail l q true] ∧
        e.rd ENT_P_CNT2_SYNC_LOSS (portIx l q) =
          s.dev.countUp ENT_P_CNT2_SYNC_LOSS (portIx l q) ∧
        e.logged .ENT_LINK_DOWN (srcRing l) q (linkDetail e l q % 2 ^ 80) ∧
        (portUp s.dev l (1 - q.val) = false → (ringOf e l).bothDown = true) := by
  have hlost := linkLost_sameBut s.dev.cleared l q
  have hup : (linkLost s.dev.cleared l q).rd PWR_STATUS_SHARED_UP ≠ 0 := by
    rwa [hlost.rd_eq _ _ (by simp) (by simp)]
  refine .of_result (exec_entPortDown ..) (portDown_eq hp) ?_ ⟨?_, ?_, ?_, ?_, fun hother => ?_⟩
  · exact hlost.recorded ..
  · simpa using linkLost_down s.dev.cleared l q
  · simpa using linkLost_out s.dev.cleared l q
  · rw [(Dev.event_sameBut ..).rd_eq _ _ (by simp) (by simp)]
    exact linkLost_counts s.dev.cleared l q
  · exact linkRecord_logged _ _ l q hup
  · rw [(Dev.event_sameBut ..).ringOf_eq (by simp)]
    exact linkLost_bothDown hother

theorem entPortDown_ignored (h : portUp s.dev l q = false) : Completes (.entPortDown l q) s [] [] fun e => e.out = [] :=
  .of_unchanged (exec_entPortDown ..) (if_neg (ne_true_of_eq_false h))

theorem entPortUp_comesUp (hp : portUp s.dev l q = false) (hb : s.dev.rd ENT_STAT_BYPASS_CLOSED l.idx = 0)
    (hu : s.dev.rd PWR_STATUS_SHARED_UP ≠ 0) :
    Completes (.entPortUp l q) s ([(if q.val = 0 then ENT_STAT_LINK0 else ENT_STAT_LINK1, l.idx)] ++ recordRegs (srcRing l))
      [.rings, .log] fun e =>
        portUp e l q = true ∧ e.out = [.linkFail l q false] ∧ e.logged .ENT_LINK_UP (srcRing l) q (linkDetail e l q % 2 ^ 80) ∧
        (ringOf e l).startDue = ((ringOf s.dev l).startDue || ((ringOf s.dev l).bothDown && portUp s.dev l (1 - q.val))) := by
  have hfound := linkFound_sameBut s.dev.cleared l q
  have hup : (linkFound s.dev.cleared l q).rd PWR_STATUS_SHARED_UP ≠ 0 := by
    rwa [hfound.rd_eq _ _ (by simp) (by simp)]
  refine .of_result (e := (linkFound s.dev.cleared l q).event .ENT_LINK_UP (srcRing l) q (linkDetail (linkFound s.dev.cleared l q) l q))
    (exec_entPortUp ..) (if_neg ?_) ?_ ⟨?_, ?_, ?_, ?_⟩
  · rintro (h | h)
    · exact ne_true_of_eq_false hp h
    · simp [Dev.on, hb] at h
  · exact hfound.recorded ..
  · simpa using linkFound_up s.dev.cleared l q
  · simpa using linkFound_out s.dev.cleared l q
  · exact linkRecord_logged _ _ l q hup
  · rw [(Dev.event_sameBut ..).ringOf_eq (by simp)]
    exact linkFound_startDue s.dev.cleared l q

theorem entPortUp_ignored (h : portUp s.dev l q = true ∨ s.dev.rd ENT_STAT_BYPASS_CLOSED l.idx ≠ 0) :
    Completes (.entPortUp l q) s [] [] fun e => e.out = [] :=
  .of_unchanged (exec_entPortUp ..) (if_pos (h.imp_right fun hb => by simpa [Dev.on] using hb))

theorem bypassOpen_opens (hb : s.dev.rd ENT_STAT_BYPASS_CLOSED l.idx ≠ 0) (hl : s.dev.rd LN_STATUS_STATE l.idx ≠ 0)
    (hu : s.dev.rd PWR_STATUS_SHARED_UP ≠ 0) :
    Completes (.bypassOpen l) s ([(ENT_STAT_BYPASS_CLOSED, l.idx)] ++ recordRegs (srcRing l)) [.rings, .log] fun e =>
      e.rd ENT_STAT_BYPASS_CLOSED l.idx = 0 ∧ (ringOf e l).startDue = true ∧ (ringOf e l).bothDown = true ∧
        e.out = [.linkFail l 0 true, .linkFail l 1 true] ∧
        e.logged .BYPASS_OPEN (srcRing l) l.idx (linkDetail s.dev l 2 % 2 ^ 80) := by
  have hopened := bypassOpened_sameBut s.dev.cleared l
  have hup : (bypassOpened s.dev.cleared l).rd PWR_STATUS_SHARED_UP ≠ 0 := by rwa [hopened.rd_eq _ _ (by simp) (by simp)]
  refine .of_result
    (e := (bypassOpened s.dev.cleared l).event .BYPASS_OPEN (srcRing l) l.idx (linkDetail (bypassOpened s.dev.cleared l) l 2))
    (exec_bypassOpen l s) (if_pos ⟨by simpa [Dev.on] using hb, hl⟩) ?_ ⟨?_, ?_, ?_, ?_, ?_⟩
  · exact hopened.recorded ..
  · simp [bypassOpened]
  · simp [bypassOpened]
  · simp [bypassOpened]
  · simp [bypassOpened]
  · rw [bypassOpened_detail]
    exact Dev.event_logged_detail _ _ _ _ hup (Nat.lt_trans (Lane.idx_lt l) (by decide))

theorem bypassOpen_ignored (h : s.dev.rd ENT_STAT_BYPASS_CLOSED l.idx = 0 ∨ s.dev.rd LN_STATUS_STATE l.idx = 0) :
    Completes (.bypassOpen l) s [] [] fun e => e.out = [] := by
  refine .of_unchanged (exec_bypassOpen l s) (if_neg ?_)
  rintro ⟨hclosed, hstate⟩
  rcases h with h | h
  · simp [Dev.on, h] at hclosed
  · exact hstate h

end Commands

end Sys2Proof.Machine
end

section
/-!
SUPPORT. The start of a ring and the frame of a foreign master (R182 to R184, R188, R191, R297), and O22.
-/
namespace Sys2Proof.Machine
open RegField

theorem exec_startSequence (l : Lane) (s : State) : exec (.startSequence l) s = execStartSequence l s := rfl
theorem exec_foreignFrameReceived (l : Lane) (m : Fin 256) (s : State) :
    exec (.foreignFrameReceived l m) s = execForeignFrameReceived l m s := rfl

/-! The nodes return to LISTEN (R184, R191). -/

/-- The registers that show what has been learnt of the nodes. -/
@[simp] def nodeFields : List RegField := [ENT_NODE_STATE, ENT_NODE_CLAIMED, ENT_NODE_POS, ENT_NODE_MASTER_CAP]

/-- The registers of entry `e` are as of a node that listens. -/
def entryForgotten (l : Lane) (d : Dev) (e : Nat) : Dev :=
  (((setNodeState d l e 0).wr ENT_NODE_CLAIMED (nodeIx l e) 0).wr ENT_NODE_POS (nodeIx l e) 0).wr ENT_NODE_MASTER_CAP (nodeIx l e) 0

/-- The ring keeps nothing of its nodes. -/
def ringForgotten (r : RingState) : RingState := { r with nodes := [], inFlight := none, motionDone := [] }

/-- Entry `k` of ring `l` listens and is not claimed. -/
def Dev.listens (d : Dev) (l : Lane) (k : Nat) : Prop := nodeState d l k = 0 ∧ d.rd ENT_NODE_CLAIMED (nodeIx l k) = 0

theorem Dev.listens.entryForgotten {d : Dev} {l : Lane} {k : Nat} (h : d.listens l k) (e : Nat) : (entryForgotten l d e).listens l k := by
  obtain ⟨hstate, hclaimed⟩ := h
  rw [nodeState] at hstate
  simp [Machine.entryForgotten, Dev.listens, nodeState, setNodeState, hstate, hclaimed]

theorem Dev.listens.of_sameBut {a b : Dev} {fs : List RegField} {es : List (RegField × Nat)} {ps : List Part} {l : Lane}
    {k : Nat} (h : a.listens l k)
    (hs : SameBut a b fs es ps) (hf : ∀ f ∈ nodeFields, f ∉ fs) (he : ∀ f ∈ nodeFields, ∀ i, (f, i) ∉ es) : b.listens l k := by
  obtain ⟨hstate, hclaimed⟩ := h
  exact ⟨(hs.rd_eq _ _ (hf _ (by simp)) (he _ (by simp) _)).trans hstate,
    (hs.rd_eq _ _ (hf _ (by simp)) (he _ (by simp) _)).trans hclaimed⟩

section Forget
variable (d : Dev) (l : Lane)

theorem forgetNodes_eq : forgetNodes d l = countAdmitted (onRing (d.each (List.range 48) (entryForgotten l)) l ringForgotten) l := rfl

theorem entryForgotten_sameBut (e : Nat) : SameBut d (entryForgotten l d e) nodeFields [] [] :=
  ((((SameBut.refl _ _ _ _).wr _ _ _ (by simp)).wr _ _ _ (by simp)).wr _ _ _ (by simp)).wr _ _ _ (by simp)

theorem entriesForgotten_sameBut (es : List Nat) : SameBut d (d.each es (entryForgotten l)) nodeFields [] [] :=
  .each (fun b e _ => entryForgotten_sameBut b l e) (.refl _ _ _ _)

theorem entryForgotten_listens (e : Nat) : (entryForgotten l d e).listens l e := by
  simp [entryForgotten, Dev.listens, nodeState, setNodeState]

theorem forgetNodes_sameBut : SameBut d (forgetNodes d l) (nodeFields ++ [ENT_GUARD_ADMITTED]) [] [.rings] :=
  (((entriesForgotten_sameBut d l _).mono (by simp) (by simp) (by simp)).onRing l _ (by simp)).wr _ _ _ (by simp)

theorem forgetNodes_listens {k : Nat} (hk : k < 48) : (forgetNodes d l).listens l k :=
  have h : (d.each (List.range 48) (entryForgotten l)).listens l k :=
    Dev.each_reaches (P := fun b => b.listens l k) (fun b => entryForgotten_listens b l k) (fun _ e hb => hb.entryForgotten e)
      (List.mem_range.mpr hk) d
  h.of_sameBut (((SameBut.refl _ [ENT_GUARD_ADMITTED] [] [.rings]).onRing l ringForgotten (by simp)).wr _ _ _ (by simp)) (by simp) (by simp)

theorem forgetNodes_ring : ringOf (forgetNodes d l) l = ringForgotten (ringOf d l) := by
  rw [forgetNodes_eq, countAdmitted, ringOf_wr, ringOf_onRing, if_pos rfl, (entriesForgotten_sameBut d l _).ringOf_eq (by simp)]

end Forget

/-! A schedule that waits comes into force (R188). -/

/-- The registers that show a schedule and what follows from it. -/
@[simp] def scheduleFields : List RegField :=
  [ENT_SCHED_SCHED_ID, ENT_SCHED_ENTRIES, ENT_BUDGET_B_USED, ENT_BUDGET_B_MAX, ENT_STAT_BREAK_OK, ENT_NODE_NODE_ID, ENT_NODE_SPARE]

/-- A schedule that is in force, up to the budget and the IDs of its entries. -/
def scheduleShown (d : Dev) (l : Lane) (sched : List SchedEntry) (id : Nat) : Dev :=
  ((onRing d l fun r => { r with sched := sched, schedId := id, dirEntry := 0, schedNext := none }).wr ENT_SCHED_SCHED_ID l.idx id).wr
    ENT_SCHED_ENTRIES l.idx sched.length

section UseSchedule
variable (d : Dev) (l : Lane) (sched : List SchedEntry) (id : Nat)

theorem showBudget_sameBut : SameBut d (showBudget d l) [ENT_BUDGET_B_MAX, ENT_STAT_BREAK_OK] [] [] :=
  ((SameBut.refl _ _ _ _).wr _ _ _ (by simp)).wr _ _ _ (by simp)

theorem scheduleShown_sameBut : SameBut d (scheduleShown d l sched id) [ENT_SCHED_SCHED_ID, ENT_SCHED_ENTRIES] [] [.rings] :=
  (((SameBut.refl _ _ _ _).onRing l _ (by simp)).wr _ _ _ (by simp)).wr _ _ _ (by simp)

/-- Once a schedule is shown, its use touches no ring. -/
theorem useSchedule_afterShown : SameBut (scheduleShown d l sched id) (useSchedule d l sched id)
    [ENT_BUDGET_B_USED, ENT_BUDGET_B_MAX, ENT_STAT_BREAK_OK, ENT_NODE_NODE_ID, ENT_NODE_SPARE] [] [] := by
  refine .each (fun b e _ => ((SameBut.refl _ _ _ _).wr _ _ _ (by simp)).wr _ _ _ (by simp)) (.when ?_ _ ?_)
  · exact (SameBut.refl _ _ _ _).wr _ _ _ (by simp)
  · exact (showBudget_sameBut _ l).mono (by simp) (by simp) (by simp)

theorem useSchedule_sameBut : SameBut d (useSchedule d l sched id) scheduleFields [] [.rings] :=
  ((scheduleShown_sameBut d l sched id).mono (by simp) (by simp) (by simp)).next (useSchedule_afterShown d l sched id) (by simp)
    (by simp) (by simp)

theorem useSchedule_ring : ringOf (useSchedule d l sched id) l =
    { ringOf d l with sched := sched, schedId := id, dirEntry := 0, schedNext := none } := by
  rw [(useSchedule_afterShown d l sched id).ringOf_eq (by simp)]
  simp [scheduleShown]

theorem useSchedule_shows : (useSchedule d l sched id).rd ENT_SCHED_SCHED_ID l.idx = id % 2 ^ ENT_SCHED_SCHED_ID.width ∧
    (useSchedule d l sched id).rd ENT_SCHED_ENTRIES l.idx = sched.length % 2 ^ ENT_SCHED_ENTRIES.width := by
  have h := useSchedule_afterShown d l sched id
  rw [h.rd_eq _ _ (by simp) (by simp), h.rd_eq _ _ (by simp) (by simp)]
  simp [scheduleShown]

end UseSchedule

/-- The schedule that waits, if one does, comes into force. -/
def takeNext (d : Dev) (l : Lane) : Dev :=
  match (ringOf d l).schedNext with
  | some p => useSchedule d l p.1 p.2
  | none => d

theorem takeNext_none {d : Dev} {l : Lane} (h : (ringOf d l).schedNext = none) : takeNext d l = d := by rw [takeNext, h]

theorem takeNext_some {d : Dev} {l : Lane} {p : List SchedEntry × Nat} (h : (ringOf d l).schedNext = some p) :
    takeNext d l = useSchedule d l p.1 p.2 := by rw [takeNext, h]

theorem takeNext_sameBut (d : Dev) (l : Lane) : SameBut d (takeNext d l) scheduleFields [] [.rings] := by
  cases h : (ringOf d l).schedNext with
  | none =>
    rw [takeNext_none h]
    exact .refl _ _ _ _
  | some p =>
    rw [takeNext_some h]
    exact useSchedule_sameBut ..

theorem takeNext_nodes (d : Dev) (l : Lane) : (ringOf (takeNext d l) l).nodes = (ringOf d l).nodes := by
  cases h : (ringOf d l).schedNext with
  | none => rw [takeNext_none h]
  | some p => rw [takeNext_some h, useSchedule_ring]

/-! The start of a ring (R183, R184). -/

/-- The ring begins to send start frames. -/
def beginStart (d : Dev) (l : Lane) : Dev :=
  ((onRing d l fun r => { r with
    startDue := false, startLeft := 4, unstable := false, bothDown := !(portUp d l 0 || portUp d l 1), enumSeq := none }).wr
      ENT_START_STATE l.idx 1).inc ENT_START_STARTS l.idx

/-- The registers that a start changes where no schedule waits. -/
@[simp] def startFields : List RegField := nodeFields ++ [ENT_GUARD_ADMITTED, ENT_START_STATE, ENT_START_STARTS]

section Start
variable (d : Dev) (l : Lane)

theorem startRing_eq : startRing d l = beginStart (takeNext (forgetNodes d l) l) l := rfl

theorem beginStart_sameBut : SameBut d (beginStart d l) [ENT_START_STATE, ENT_START_STARTS] [] [.rings] :=
  (((SameBut.refl _ _ _ _).onRing l _ (by simp)).wr _ _ _ (by simp)).wr _ _ _ (by simp)

theorem beginStart_ring : ringOf (beginStart d l) l = { ringOf d l with
    startDue := false, startLeft := 4, unstable := false, bothDown := !(portUp d l 0 || portUp d l 1), enumSeq := none } := by
  simp [beginStart]

theorem beginStart_shows : (beginStart d l).rd ENT_START_STATE l.idx = 1 ∧
    (beginStart d l).rd ENT_START_STARTS l.idx = d.countUp ENT_START_STARTS l.idx := by
  simp [beginStart, Dev.countUp]

theorem forgetNodes_next : (ringOf (forgetNodes d l) l).schedNext = (ringOf d l).schedNext := by
  rw [forgetNodes_ring, ringForgotten]

theorem startRing_sameBut : SameBut d (startRing d l) (startFields ++ scheduleFields) [] [.rings] := by
  have hforget := (forgetNodes_sameBut d l).mono (fs' := startFields ++ scheduleFields) (by simp) (fun _ => .inl) (List.Subset.refl _)
  exact (hforget.next (takeNext_sameBut _ l) (by simp) (by simp) (by simp)).next (beginStart_sameBut _ l) (by simp) (by simp) (by simp)

theorem startRing_sameBut_ofNone {d : Dev} {l : Lane} (h : (ringOf d l).schedNext = none) :
    SameBut d (startRing d l) startFields [] [.rings] := by
  rw [startRing_eq, takeNext_none ((forgetNodes_next d l).trans h)]
  exact ((forgetNodes_sameBut d l).mono (by simp) (by simp) (by simp)).next (beginStart_sameBut _ l) (by simp) (by simp) (by simp)

theorem startRing_shows : (startRing d l).rd ENT_START_STATE l.idx = 1 ∧
    (startRing d l).rd ENT_START_STARTS l.idx = d.countUp ENT_START_STARTS l.idx := by
  have hcount : (takeNext (forgetNodes d l) l).countUp ENT_START_STARTS l.idx = d.countUp ENT_START_STARTS l.idx := by
    rw [Dev.countUp, (takeNext_sameBut _ l).rd_eq _ _ (by simp) (by simp), (forgetNodes_sameBut d l).rd_eq _ _ (by simp) (by simp),
      Dev.countUp]
  exact hcount ▸ beginStart_shows _ l

theorem startRing_ring : (ringOf (startRing d l) l).startLeft = 4 ∧ (ringOf (startRing d l) l).startDue = false ∧
    (ringOf (startRing d l) l).nodes = [] := by
  rw [startRing_eq, beginStart_ring]
  refine ⟨rfl, rfl, (takeNext_nodes ..).trans ?_⟩
  rw [forgetNodes_ring, ringForgotten]

theorem startRing_listens {k : Nat} (hk : k < 48) : (startRing d l).listens l k :=
  ((forgetNodes_listens d l hk).of_sameBut (takeNext_sameBut _ l) (by simp) (by simp)).of_sameBut (beginStart_sameBut _ l) (by simp)
    (by simp)

theorem startRing_schedule {d : Dev} {l : Lane} {sched : List SchedEntry} {id : Nat} (h : (ringOf d l).schedNext = some (sched, id)) :
    (ringOf (startRing d l) l).sched = sched ∧ (ringOf (startRing d l) l).schedNext = none ∧
      (startRing d l).rd ENT_SCHED_SCHED_ID l.idx = id % 2 ^ ENT_SCHED_SCHED_ID.width ∧
      (startRing d l).rd ENT_SCHED_ENTRIES l.idx = sched.length % 2 ^ ENT_SCHED_ENTRIES.width := by
  rw [startRing_eq, takeNext_some ((forgetNodes_next d l).trans h), beginStart_ring, useSchedule_ring,
    (beginStart_sameBut ..).rd_eq _ _ (by simp) (by simp), (beginStart_sameBut ..).rd_eq _ _ (by simp) (by simp)]
  exact ⟨rfl, rfl, useSchedule_shows ..⟩

end Start

/-! Every unit is DISABLED (R297). -/

/-- A unit that is DISABLED; one that was so keeps its time. -/
def disableUnit (y : UnitDyn) : UnitDyn :=
  if y.disabled then y
  else { y with func := 5, torque := false, brakeRel := false, relWait := none, stoWait := false, disabled := true, disabledFr := 0,
                enableReq := false }

/-- A safety state whose units are all DISABLED. -/
def disableUnits (x : SafState) : SafState := { x with units := (List.range 32).foldl (fun u k => SMap.modify {} u k disableUnit) x.units }

/-- The units are DISABLED in the safety state of every lane in service. -/
def unitsDisabled (d : Dev) : Dev := d.each (serviceLanes d) fun d m => onSaf d m disableUnits

theorem disableUnit_disabled (y : UnitDyn) : (disableUnit y).disabled = true := by
  unfold disableUnit
  split
  · assumption
  · rfl

theorem disableUnits_disabled (x : SafState) {u : Nat} (hu : u < 32) : (SMap.get {} (disableUnits x).units u).disabled = true := by
  rw [disableUnits, SMap.get_modify_range, if_pos hu]
  exact disableUnit_disabled _

theorem unitsDisabled_sameBut (d : Dev) : SameBut d (unitsDisabled d) [] [] [.lanes] :=
  .each (fun _ _ _ => onSaf_sameBut ..) (.refl _ _ _ _)

theorem unitsDisabled_disabled {d : Dev} {m : Lane} (hm : m ∈ serviceLanes d) {u : Nat} (hu : u < 32) :
    (SMap.get {} (laneOf (unitsDisabled d) m).saf.units u).disabled = true := by
  refine Dev.each_reaches (P := fun b => (SMap.get {} (laneOf b m).saf.units u).disabled = true) (fun b => ?_) (fun b k hb => ?_) hm d
  · rw [onSaf_saf, if_pos rfl]
    exact disableUnits_disabled _ hu
  · rw [onSaf_saf]
    split
    · exact disableUnits_disabled _ hu
    · exact hb

/-! The start sequence. -/

/-- The start sequence of a ring is due and may begin (R183). -/
def Dev.startsNow (d : Dev) (l : Lane) : Prop :=
  (ringOf d l).startDue = true ∧ d.rd ENT_STAT_BYPASS_CLOSED l.idx = 0 ∧ d.tb.ticking = true ∧ d.periodDue = none ∧ d.pwr.noMaster = false

section StartSequence
variable {s : State} {l : Lane}

theorem startSequence_effect (h : s.dev.startsNow l) : ∃ f, exec (.startSequence l) s = s.run f ∧
    f s.dev.cleared = unitsDisabled (startRing s.dev.cleared l) := by
  obtain ⟨hdue, hopen, hticks, hperiod, hmaster⟩ := h
  exact ⟨_, exec_startSequence l s, if_pos ⟨hdue, by simp [hmaster], hopen, hticks, hperiod⟩⟩

theorem startSequence_answers (h : s.dev.startsNow l) {post : Dev → Prop} (hp : post (unitsDisabled (startRing s.dev.cleared l))) :
    Answers (.startSequence l) s post := by
  obtain ⟨f, hx, hf⟩ := startSequence_effect h
  exact .of_result hx hf hp

theorem startSequence_touches (h : s.dev.startsNow l) : Touches (.startSequence l) s
    [ENT_NODE_STATE, ENT_NODE_CLAIMED, ENT_NODE_POS, ENT_NODE_MASTER_CAP, ENT_GUARD_ADMITTED, ENT_START_STATE, ENT_START_STARTS,
      ENT_SCHED_SCHED_ID, ENT_SCHED_ENTRIES, ENT_BUDGET_B_USED, ENT_BUDGET_B_MAX, ENT_STAT_BREAK_OK, ENT_NODE_NODE_ID,
      ENT_NODE_SPARE] [] [.rings, .lanes] :=
  have hstart := (startRing_sameBut s.dev.cleared l).mono (ps' := [.rings, .lanes]) (List.Subset.refl _) (fun _ => .inl) (by simp)
  startSequence_answers h (SameBut.of_cleared (hstart.next (unitsDisabled_sameBut _) (by simp) (by simp) (by simp)))

theorem startSequence_touches_ofNone (h : s.dev.startsNow l) (hn : (ringOf s.dev l).schedNext = none) : Touches (.startSequence l) s
    [ENT_NODE_STATE, ENT_NODE_CLAIMED, ENT_NODE_POS, ENT_NODE_MASTER_CAP, ENT_GUARD_ADMITTED, ENT_START_STATE, ENT_START_STARTS] []
    [.rings, .lanes] :=
  have hstart := (startRing_sameBut_ofNone (d := s.dev.cleared) hn).mono (ps' := [.rings, .lanes]) (List.Subset.refl _) (fun _ => .inl)
    (by simp)
  startSequence_answers h (SameBut.of_cleared (hstart.next (unitsDisabled_sameBut _) (by simp) (by simp) (by simp)))

theorem startSequence_starts (h : s.dev.startsNow l) : Answers (.startSequence l) s fun e =>
    e.rd ENT_START_STATE l.idx = 1 ∧ (ringOf e l).startLeft = 4 ∧ (ringOf e l).startDue = false ∧
      (ringOf e l).nodes = [] ∧ (∀ k, k < 48 → nodeState e l k = 0 ∧ e.rd ENT_NODE_CLAIMED (nodeIx l k) = 0) ∧
      e.rd ENT_START_STARTS l.idx = s.dev.countUp ENT_START_STARTS l.idx ∧
      ∀ m ∈ serviceLanes s.dev, ∀ u, u < 32 → (SMap.get {} (laneOf e m).saf.units u).disabled = true := by
  have hunits := unitsDisabled_sameBut (startRing s.dev.cleared l)
  have hring := hunits.ringOf_eq (by simp) l
  obtain ⟨hstate, hstarts⟩ := startRing_shows s.dev.cleared l
  obtain ⟨hleft, hdue, hnodes⟩ := startRing_ring s.dev.cleared l
  have hservice : serviceLanes (startRing s.dev.cleared l) = serviceLanes s.dev :=
    serviceLanes_congr fun _ => inService_congr ((startRing_sameBut s.dev.cleared l).rd_eq _ _ (by simp) (by simp))
  refine startSequence_answers h ⟨?_, ?_, ?_, ?_, fun k hk => ?_, ?_, fun m hm u hu => ?_⟩
  · exact (hunits.rd_eq _ _ (by simp) (by simp)).trans hstate
  · rwa [hring]
  · rwa [hring]
  · rwa [hring]
  · exact (startRing_listens s.dev.cleared l hk).of_sameBut hunits (by simp) (by simp)
  · exact (hunits.rd_eq _ _ (by simp) (by simp)).trans hstarts
  · exact unitsDisabled_disabled (hservice ▸ hm) hu

theorem startSequence_schedule (h : s.dev.startsNow l) {sched : List SchedEntry} {id : Nat}
    (hn : (ringOf s.dev l).schedNext = some (sched, id)) :
    Answers (.startSequence l) s fun e => (ringOf e l).sched = sched ∧ (ringOf e l).schedNext = none ∧
      e.rd ENT_SCHED_SCHED_ID l.idx = id % 2 ^ ENT_SCHED_SCHED_ID.width ∧
      e.rd ENT_SCHED_ENTRIES l.idx = sched.length % 2 ^ ENT_SCHED_ENTRIES.width := by
  have hunits := unitsDisabled_sameBut (startRing s.dev.cleared l)
  refine startSequence_answers h ?_
  rw [hunits.ringOf_eq (by simp), hunits.rd_eq _ _ (by simp) (by simp), hunits.rd_eq _ _ (by simp) (by simp)]
  exact startRing_schedule (d := s.dev.cleared) hn

theorem startSequence_ignored (h : (ringOf s.dev l).startDue = false ∨ s.dev.rd ENT_STAT_BYPASS_CLOSED l.idx ≠ 0 ∨
    s.dev.pwr.noMaster = true) : Completes (.startSequence l) s [] [] fun e => e.out = [] := by
  refine .of_unchanged (exec_startSequence l s) (if_neg ?_)
  rintro ⟨hdue, hmaster, hopen, -⟩
  rcases h with h | h | h
  · exact ne_true_of_eq_false h hdue
  · exact h hopen
  · simp [h] at hmaster

end StartSequence

/-! A frame of a foreign master (R182, R183). -/

section Foreign
variable {s : State} {l : Lane} {m : Fin 256}

/-- The device gives up ring `l` and masters none until the next power-up. -/
theorem foreignFrame_ownId (d : Dev) (l : Lane) : foreignFrame d l 0 =
    stopMaster { (d.wr ENT_START_MASTER_ID l.idx 0).inc ENT_START_FOREIGN l.idx with pwr := { d.pwr with noMaster := true } } l := rfl

theorem foreignFrameReceived_counts (hs : s.dev.rd ENT_START_STATE l.idx ≠ 0) (hm : m.val ≠ 0) :
    Completes (.foreignFrameReceived l m) s [(ENT_START_MASTER_ID, l.idx), (ENT_START_FOREIGN, l.idx)] [] fun e =>
      e.rd ENT_START_MASTER_ID l.idx = m.val ∧ e.rd ENT_START_FOREIGN l.idx = s.dev.countUp ENT_START_FOREIGN l.idx := by
  refine .of_result (exec_foreignFrameReceived ..) ((if_neg hs).trans (foreignFrame_keepsMastering _ l hm)) ?_ ⟨?_, ?_⟩
  · exact ((SameBut.refl _ _ _ _).wr _ _ _ (by simp)).wr _ _ _ (by simp)
  · simp [Nat.mod_eq_of_lt m.isLt]
  · simp [Dev.countUp]

theorem foreignFrameReceived_givesUp (hs : s.dev.rd ENT_START_STATE l.idx ≠ 0) :
    Completes (.foreignFrameReceived l 0) s [(ENT_START_MASTER_ID, l.idx), (ENT_START_FOREIGN, l.idx), (ENT_START_STATE, l.idx)]
      [.rings, .pwr] fun e => e.rd ENT_START_MASTER_ID l.idx = 0 ∧ e.rd ENT_START_STATE l.idx = 0 ∧ e.pwr.noMaster = true ∧
        (ringOf e l).inFlight = none ∧ (ringOf e l).startDue = false ∧
        e.rd ENT_START_FOREIGN l.idx = s.dev.countUp ENT_START_FOREIGN l.idx := by
  refine .of_result (exec_foreignFrameReceived ..) ((if_neg hs).trans (foreignFrame_ownId _ l)) ?_ ?_
  · exact ((((SameBut.refl _ _ _ _).wr _ _ _ (by simp)).wr _ _ _ (by simp)).pwr _ (by simp)).next (stopMaster_sameBut _ l)
      (by simp) (by simp) (by simp)
  · simp [stopMaster, Dev.countUp]

theorem foreignFrameReceived_ignored (hs : s.dev.rd ENT_START_STATE l.idx = 0) :
    Completes (.foreignFrameReceived l m) s [] [] fun e => e.out = [] :=
  .of_unchanged (exec_foreignFrameReceived ..) (if_pos hs)

end Foreign

/-- Settles O22: the ports, the bypass switch, the start sequence and the foreign master, each clause by its lemma above. -/
theorem ringPortsAndStart : Obligations.RingPortsAndStart :=
  ⟨fun _ _ _ => entPortDown_goesDown, fun _ _ _ => entPortDown_ignored, fun _ _ _ => entPortUp_comesUp, fun _ _ _ => entPortUp_ignored,
   fun _ _ => bypassOpen_opens, fun _ _ => bypassOpen_ignored,
   fun _ _ hdue hopen hticks hperiod hmaster =>
    have h := ⟨hdue, hopen, hticks, hperiod, hmaster⟩
    ⟨startSequence_touches h, startSequence_touches_ofNone h, startSequence_starts h⟩,
   fun _ _ _ _ hdue hopen hticks hperiod hmaster => startSequence_schedule ⟨hdue, hopen, hticks, hperiod, hmaster⟩,
   fun _ _ => startSequence_ignored, fun _ _ _ => foreignFrameReceived_counts, fun _ _ => foreignFrameReceived_givesUp,
   fun _ _ _ => foreignFrameReceived_ignored⟩

end Sys2Proof.Machine
end

section
/-!
SUPPORT. The copies of an enumeration frame that come back, how an enumeration ends and when it is repeated (R175, R186, R187), and O23.
-/
namespace Sys2Proof.Machine
open RegField

theorem exec_enumerationReturn (l : Lane) (c : ReturnedCopy) (s : State) :
    exec (.enumerationReturn l c) s = execEnumerationReturn l c s := rfl
theorem exec_enumRetry (l : Lane) (s : State) : exec (.enumRetry l) s = execEnumRetry l s := rfl

/-! A copy is kept until the copies of its frame are back (R186). -/

/-- What a copy of an enumeration frame tells: the stations it has counted, whether it was turned, and its nodes by its own index. -/
def copyTells (c : ReturnedCopy) : Nat × Bool × SMap NodeIdent :=
  let dir := (ringByte c).testBit 2
  let h1 := (c.blocks.getD 1 emptyBlock).data
  let count := (if dir then h1.getD 1 0 else h1.getD 0 0).toNat
  (count, (ringByte c).testBit 3, copyNodes c.blocks dir count)

/-- A ring that keeps what a copy tells for the copy's direction. -/
def withCopy (c : ReturnedCopy) (r : RingState) : RingState :=
  if (ringByte c).testBit 2 then { r with enumNow1 := some (copyTells c) } else { r with enumNow0 := some (copyTells c) }

/-- The blocks of a copy are counted, and the copy is kept. -/
def keepCopy (d : Dev) (l : Lane) (c : ReturnedCopy) : Dev := onRing (countBlocks d l c.port c.blocks) l (withCopy c)

/-- The copies of an enumeration frame that a ring keeps. -/
def copiesBack (r : RingState) : Nat := bitOf r.enumNow0.isSome + bitOf r.enumNow1.isSome

/-- The copies of an enumeration frame that are awaited: one for each port that is up. -/
def copiesSent (d : Dev) (l : Lane) : Nat := bitOf (portUp d l 0) + bitOf (portUp d l 1)

/-- How far a ring's enumeration has come: the last result and the frames sent. -/
def RingState.enumProgress (r : RingState) : Option (Nat × SMap NodeIdent) × Nat := (r.enumLast, r.enumFrames)

section KeepCopy
variable (d : Dev) (l : Lane) (c : ReturnedCopy)

theorem withCopy_progress (r : RingState) : (withCopy c r).enumProgress = r.enumProgress := by
  unfold withCopy
  split <;> rfl

theorem withCopy_kept (r : RingState) : (withCopy c r).enumNow0.isSome ∨ (withCopy c r).enumNow1.isSome := by
  unfold withCopy
  split
  · exact .inr rfl
  · exact .inl rfl

theorem countBlocks_cleared (q : Nat) (bs : List Block) : countBlocks d.cleared l q bs = (countBlocks d l q bs).cleared := by
  unfold countBlocks Dev.when
  dsimp only
  split <;> rfl

theorem countBlocks_progress (q : Nat) (bs : List Block) : RingsKeep RingState.enumProgress d (countBlocks d l q bs) := by
  unfold countBlocks
  extract_lets err poi code d1
  have h1 : RingsKeep RingState.enumProgress d d1 := .of_eq (.refl _ d) rfl
  unfold Dev.when
  split
  · exact h1.onRing l _ fun _ => rfl
  · exact h1

/-- What is counted of a copy does not bear on its kind. -/
theorem copyKind_countBlocks (q : Nat) (bs : List Block) (f typ n : Nat) :
    copyKind (countBlocks d l q bs) f typ n c = copyKind d f typ n c :=
  copyKind_congr (by simp only [Dev.frameNs, Dev.periodUnits,
    (countBlocks_sameBut d l q bs).rd_eq BLF_CFG_PERIOD 0 (by simp) (by simp)]) f typ n c

theorem keepCopy_cleared : keepCopy d.cleared l c = (keepCopy d l c).cleared := by
  rw [keepCopy, countBlocks_cleared]
  rfl

theorem keepCopy_sameBut : SameBut d (keepCopy d l c) [] (blockCounters l c.port) [.rings] :=
  (countBlocks_sameBut ..).onRing l _ (by simp)

theorem keepCopy_progress : (ringOf (keepCopy d l c) l).enumProgress = (ringOf d l).enumProgress :=
  ((countBlocks_progress d l c.port c.blocks).onRing l _ (withCopy_progress c)).keep l

theorem keepCopy_kept : (ringOf (keepCopy d l c) l).enumNow0.isSome ∨ (ringOf (keepCopy d l c) l).enumNow1.isSome := by
  rw [keepCopy, ringOf_onRing, if_pos rfl]
  exact withCopy_kept ..

theorem keepCopy_sent : copiesSent (keepCopy d l c) l = copiesSent d l := by
  have h (q : Nat) : portUp (keepCopy d l c) l q = portUp d l q := (keepCopy_sameBut d l c).portUp_eq (by simp) (by simp)
  simp only [copiesSent, h]

/-- With every copy back the frame is judged. -/
theorem takeEnumeration_eq : takeEnumeration (countBlocks d l c.port c.blocks) l c =
    if copiesSent (keepCopy d l c) l ≤ copiesBack (ringOf (keepCopy d l c) l) then judgeEnumeration (keepCopy d l c) l
    else keepCopy d l c := rfl

end KeepCopy

/-! The judgement of a frame with a result (R187). -/

/-- The station count that a whole copy of direction 0 shows; without one, the count of before. -/
def wholeCount (r : RingState) : Option Nat :=
  match r.enumNow0 with
  | some (n, false, _) => some n
  | _ => r.nRef

/-- The frame on its way has been judged. -/
def frameJudged (d : Dev) (l : Lane) : Dev := onRing d l fun r => { r with nRef := wholeCount r, enumSeq := none }

/-- The result of the frame before has come a second time. -/
def resultConfirmed (d : Dev) (l : Lane) : Dev := onRing d l fun r => { r with enumLast := none, unstable := false }

theorem frameJudged_sameBut (d : Dev) (l : Lane) : SameBut d (frameJudged d l) [] [] [.rings] :=
  (SameBut.refl _ _ _ _).onRing l _ (by simp)

/-- The last copy of a frame is kept and the frame judged. -/
theorem judgedCopy_sameBut (d : Dev) (l : Lane) (c : ReturnedCopy) :
    SameBut d.cleared (frameJudged (keepCopy d l c).cleared l) [] (blockCounters l c.port) [.rings] := by
  rw [← keepCopy_cleared]
  exact (keepCopy_sameBut ..).next (frameJudged_sameBut ..) (by simp) (by simp) (by simp)

theorem judgedCopy_sharedUp {d : Dev} {l : Lane} {c : ReturnedCopy} (h : d.rd PWR_STATUS_SHARED_UP ≠ 0) :
    (frameJudged (keepCopy d l c).cleared l).rd PWR_STATUS_SHARED_UP ≠ 0 := by
  rwa [(judgedCopy_sameBut d l c).rd_eq _ _ (by simp) (by simp)]

/-- A frame of which a copy is back has a result: a second equal one ends the enumeration, 16 frames without end it unstable. -/
theorem judgeEnumeration_eq {d : Dev} {l : Lane} (h : (ringOf d l).enumNow0.isSome ∨ (ringOf d l).enumNow1.isSome) :
    judgeEnumeration d l =
    if (ringOf d l).enumLast = some (enumResult d l) then
      endEnumeration (resultConfirmed (frameJudged d l) l) l (enumResult d l).1 (enumResult d l).2
    else if 16 ≤ (ringOf d l).enumFrames then endUnstable (frameJudged d l) l (enumResult d l).1
    else onRing (frameJudged d l) l fun r => { r with enumLast := some (enumResult d l) } := by
  simp only [judgeEnumeration, if_pos h]
  rfl

/-! An enumeration ends (R187). -/

/-- Cycles begin, and the end of the enumeration is on record. -/
def enumDone (d : Dev) (l : Lane) (n : Nat) : Dev := (d.wr ENT_START_STATE l.idx 3).event .ENUM_DONE (srcRing l) l.idx n

/-- The nodes of `n` stations have been found; in Hold mode the device's own schedule is in force (R189). -/
def nodesFound (d : Dev) (l : Lane) (n : Nat) (nodes : SMap NodeIdent) : Dev :=
  let d := onRing (d.wr ENT_SCHED_N l.idx n) l fun r => { r with found := nodes }
  if d.mode = .hold ∨ d.mode = .boot then
    useSchedule d l (holdSchedule n (holdShift d.tb.latchNow nodes (holdSchedule n 0 nodes)) nodes) 0
  else d

/-- An unstable enumeration has found `n` stations. -/
def unstableFound (d : Dev) (l : Lane) (n : Nat) : Dev :=
  ((onRing d l fun r => { r with enumLast := none, unstable := true }).wr ENT_SCHED_N l.idx n).event .ENUM_UNSTABLE (srcRing l) l.idx

section Ends
variable (d : Dev) (l : Lane) (n : Nat) (nodes : SMap NodeIdent)

theorem endEnumeration_eq :
    endEnumeration d l n nodes = enumDone ((nodesFound d l n nodes).each nodes fun d x => classify d l x.1 x.2) l n := rfl

theorem endUnstable_eq : endUnstable d l n = enumDone (unstableFound d l n) l n := rfl

theorem enumDone_sameBut : SameBut d (enumDone d l n) [] ([(ENT_START_STATE, l.idx)] ++ recordRegs (srcRing l)) [.log] :=
  ((SameBut.refl d [] [(ENT_START_STATE, l.idx)] []).wr _ _ _ (by simp)).recorded ..

theorem enumDone_state : (enumDone d l n).rd ENT_START_STATE l.idx = 3 := by simp [enumDone]

theorem enumDone_logged {d : Dev} (h : d.rd PWR_STATUS_SHARED_UP ≠ 0) :
    (enumDone d l n).logged .ENUM_DONE (srcRing l) l.idx (n % 2 ^ 80) :=
  Dev.event_logged_detail _ _ _ _ (by simpa using h) (Nat.lt_trans (Lane.idx_lt l) (by decide))

theorem nodesFound_sameBut : SameBut (d.wr ENT_SCHED_N l.idx n) (nodesFound d l n nodes) scheduleFields [] [.rings] := by
  unfold nodesFound
  extract_lets d1
  have h1 : SameBut (d.wr ENT_SCHED_N l.idx n) d1 scheduleFields [] [.rings] := (SameBut.refl _ _ _ _).onRing l _ (by simp)
  split
  · exact h1.trans (useSchedule_sameBut ..)
  · exact h1

theorem nodesFound_unstable : (ringOf (nodesFound d l n nodes) l).unstable = (ringOf d l).unstable := by
  unfold nodesFound
  extract_lets d1
  have h1 : (ringOf d1 l).unstable = (ringOf d l).unstable := by simp [d1]
  split
  · rw [useSchedule_ring]
    exact h1
  · exact h1

theorem classifyAll_tells : TellsNodes d (d.each nodes fun d x => classify d l x.1 x.2) :=
  .each (fun b x => classify_tells b x.1 x.2) (.refl d)

theorem endEnumeration_shows {d : Dev} (h : d.rd PWR_STATUS_SHARED_UP ≠ 0) :
    (endEnumeration d l n nodes).rd ENT_START_STATE l.idx = 3 ∧
      (endEnumeration d l n nodes).rd ENT_SCHED_N l.idx = n % 2 ^ ENT_SCHED_N.width ∧
      (ringOf (endEnumeration d l n nodes) l).unstable = (ringOf d l).unstable ∧
      (endEnumeration d l n nodes).logged .ENUM_DONE (srcRing l) l.idx (n % 2 ^ 80) := by
  have hfound := nodesFound_sameBut d l n nodes
  have htells := classifyAll_tells (nodesFound d l n nodes) l nodes
  rw [endEnumeration_eq]
  refine ⟨enumDone_state .., ?_, ?_, enumDone_logged l n ?_⟩
  · rw [(enumDone_sameBut ..).rd_eq _ _ (by simp) (by simp), htells.frame.rd_eq _ _ (by simp) (by simp),
      hfound.rd_eq _ _ (by simp) (by simp)]
    simp
  · rw [(enumDone_sameBut ..).ringOf_eq (by simp)]
    exact (congrArg RingState.unstable (htells.rings.keep l)).trans (nodesFound_unstable ..)
  · rw [htells.frame.rd_eq _ _ (by simp) (by simp), hfound.rd_eq _ _ (by simp) (by simp)]
    simpa using h

theorem unstableFound_sameBut :
    SameBut d (unstableFound d l n) [] ([(ENT_SCHED_N, l.idx)] ++ recordRegs (srcRing l)) [.rings, .log] :=
  SameBut.recorded (ps := [.rings]) (((SameBut.refl _ _ _ _).onRing l _ (by simp)).wr _ _ _ (by simp)) ..

theorem endUnstable_sameBut : SameBut d (endUnstable d l n) []
    ([(ENT_SCHED_N, l.idx), (ENT_START_STATE, l.idx)] ++ recordRegs (srcRing l)) [.rings, .log] :=
  ((unstableFound_sameBut d l n).mono (List.Subset.refl _) (fun _ hx => .inl (List.cons_subset_cons _ (List.subset_cons_self ..) hx))
    (List.Subset.refl _)).next (enumDone_sameBut ..) (by simp) (fun _ hx => .inl (.tail _ hx)) (by simp)

theorem endUnstable_shows {d : Dev} (h : d.rd PWR_STATUS_SHARED_UP ≠ 0) :
    (endUnstable d l n).rd ENT_START_STATE l.idx = 3 ∧ (ringOf (endUnstable d l n) l).unstable = true ∧
      (ringOf (endUnstable d l n) l).enumLast = none ∧ (endUnstable d l n).rd ENT_SCHED_N l.idx = n % 2 ^ ENT_SCHED_N.width ∧
      (endUnstable d l n).logged .ENUM_DONE (srcRing l) l.idx (n % 2 ^ 80) := by
  have hring : ringOf (endUnstable d l n) l = { ringOf d l with enumLast := none, unstable := true } := by
    rw [endUnstable_eq, (enumDone_sameBut ..).ringOf_eq (by simp)]
    simp [unstableFound]
  rw [hring, endUnstable_eq]
  refine ⟨enumDone_state .., rfl, rfl, ?_, enumDone_logged l n ?_⟩
  · rw [(enumDone_sameBut ..).rd_eq _ _ (by simp) (by simp), unstableFound, (Dev.event_sameBut ..).rd_eq _ _ (by simp) (by simp)]
    simp
  · rwa [(unstableFound_sameBut ..).rd_eq _ _ (by simp) (by simp)]

end Ends

/-! The commands. -/

/-- What a copy of each kind does while an enumeration frame is on its way; all but a copy of that frame do what they do to a cycle. -/
def answerEnumeration (d : Dev) (l : Lane) (c : ReturnedCopy) : CopyKind → Dev
  | .own => if blockClass (c.blocks.getD 1 emptyBlock) = .good then takeEnumeration d l c else d
  | k => answerCopy d l c k

section EnumerationReturn
variable {s : State} {l : Lane} {c : ReturnedCopy} {f : Nat}

theorem enumerationReturn_ignored (h : s.dev.rd ENT_START_STATE l.idx ≠ 2 ∨ (ringOf s.dev l).enumSeq = none) :
    Completes (.enumerationReturn l c) s [] [] fun e => e.out = [] := by
  refine .of_unchanged (exec_enumerationReturn ..) ?_
  dsimp only
  split
  · next hs hf =>
    rcases h with h | h
    · exact absurd hs h
    · cases h.symm.trans hf
  · rfl

section OnItsWay
variable (hs : s.dev.rd ENT_START_STATE l.idx = 2) (hf : (ringOf s.dev l).enumSeq = some f)
include hs hf

/-- A copy that comes back while an enumeration frame is on its way is counted, then answered by its kind. -/
theorem enumerationReturn_effect {k : CopyKind} (hk : copyKind s.dev f 3 99 c = k) : ∃ g, exec (.enumerationReturn l c) s = s.run g ∧
    g s.dev.cleared = answerEnumeration (countBlocks s.dev.cleared l c.port c.blocks) l c k := by
  refine ⟨_, exec_enumerationReturn .., ?_⟩
  have hkind : copyKind (countBlocks s.dev.cleared l c.port c.blocks) f 3 99 c = k := (copyKind_countBlocks ..).trans hk
  simp only [Dev.cleared_rd, hs, ringOf_cleared, hf, hkind]
  cases k <;> rfl

theorem enumerationReturn_late (hk : copyKind s.dev f 3 99 c = .late) :
    Completes (.enumerationReturn l c) s (blockCounters l c.port ++ [(ENT_P_CNT1_LATE, portIx l c.port)]) [.rings]
      fun e => e.rd ENT_P_CNT1_LATE (portIx l c.port) = s.dev.countUp ENT_P_CNT1_LATE (portIx l c.port) := by
  obtain ⟨g, hx, hg⟩ := enumerationReturn_effect hs hf hk
  have hcount := countBlocks_sameBut s.dev.cleared l c.port c.blocks
  refine .of_result hx hg ((hcount.mono (by simp) (by simp) (by simp)).wr _ _ _ (by simp)) ?_
  refine (Dev.rd_inc ..).trans ?_
  rw [Dev.countUp, hcount.rd_eq _ _ (by simp) (by simp)]
  rfl

theorem enumerationReturn_other (hk : copyKind s.dev f 3 99 c = .other) :
    Completes (.enumerationReturn l c) s (blockCounters l c.port) [.rings] fun e => e.out = [] := by
  obtain ⟨g, hx, hg⟩ := enumerationReturn_effect hs hf hk
  exact .of_result hx hg (countBlocks_sameBut ..) (countBlocks_out ..)

section Own
variable (hown : copyKind s.dev f 3 99 c = .own ∧ blockClass (c.blocks.getD 1 emptyBlock) = .good)
include hown

/-- A copy of the frame on its way is kept, and with every copy back the frame is judged. -/
theorem enumerationReturn_own : ∃ g, exec (.enumerationReturn l c) s = s.run g ∧ g s.dev.cleared =
    if copiesSent s.dev l ≤ copiesBack (ringOf (keepCopy s.dev l c) l) then judgeEnumeration (keepCopy s.dev l c).cleared l
    else (keepCopy s.dev l c).cleared := by
  obtain ⟨hk, hgood⟩ := hown
  obtain ⟨g, hx, hg⟩ := enumerationReturn_effect hs hf hk
  refine ⟨g, hx, hg.trans ((if_pos hgood).trans ?_)⟩
  rw [takeEnumeration_eq, keepCopy_sent, keepCopy_cleared]
  rfl

theorem enumerationReturn_awaitsCopies (hb : copiesBack (ringOf (keepCopy s.dev l c) l) < copiesSent s.dev l) :
    Completes (.enumerationReturn l c) s (blockCounters l c.port) [.rings] fun e => e.rings = (keepCopy s.dev l c).rings := by
  obtain ⟨g, hx, hg⟩ := enumerationReturn_own hs hf hown
  refine .of_result hx (hg.trans (if_neg (Nat.not_le.mpr hb))) ?_ rfl
  rw [← keepCopy_cleared]
  exact keepCopy_sameBut ..

variable (hb : copiesSent s.dev l ≤ copiesBack (ringOf (keepCopy s.dev l c) l))
include hb

/-- The frame is judged by its result against that of the frame before. -/
theorem enumerationReturn_judged : ∃ g, exec (.enumerationReturn l c) s = s.run g ∧ g s.dev.cleared =
    if (ringOf s.dev l).enumLast = some (enumResult (keepCopy s.dev l c) l) then
      endEnumeration (resultConfirmed (frameJudged (keepCopy s.dev l c).cleared l) l) l
        (enumResult (keepCopy s.dev l c) l).1 (enumResult (keepCopy s.dev l c) l).2
    else if 16 ≤ (ringOf s.dev l).enumFrames then
      endUnstable (frameJudged (keepCopy s.dev l c).cleared l) l (enumResult (keepCopy s.dev l c) l).1
    else onRing (frameJudged (keepCopy s.dev l c).cleared l) l fun r => { r with enumLast := some (enumResult (keepCopy s.dev l c) l) } := by
  obtain ⟨g, hx, hg⟩ := enumerationReturn_own hs hf hown
  obtain ⟨hlast, hframes⟩ := Prod.mk.inj (keepCopy_progress s.dev l c)
  refine ⟨g, hx, hg.trans ((if_pos hb).trans ?_)⟩
  rw [← hlast, ← hframes]
  exact judgeEnumeration_eq (keepCopy_kept s.dev l c)

theorem enumerationReturn_ends (hlast : (ringOf s.dev l).enumLast = some (enumResult (keepCopy s.dev l c) l))
    (hu : s.dev.rd PWR_STATUS_SHARED_UP ≠ 0) : Answers (.enumerationReturn l c) s fun e => e.rd ENT_START_STATE l.idx = 3 ∧
      e.rd ENT_SCHED_N l.idx = (enumResult (keepCopy s.dev l c) l).1 % 2 ^ ENT_SCHED_N.width ∧ (ringOf e l).unstable = false ∧
      e.logged .ENUM_DONE (srcRing l) l.idx ((enumResult (keepCopy s.dev l c) l).1 % 2 ^ 80) := by
  obtain ⟨g, hx, hg⟩ := enumerationReturn_judged hs hf hown hb
  obtain ⟨hstate, hcount, hstable, hlogged⟩ := endEnumeration_shows l (enumResult (keepCopy s.dev l c) l).1
    (enumResult (keepCopy s.dev l c) l).2 (d := resultConfirmed (frameJudged (keepCopy s.dev l c).cleared l) l) (judgedCopy_sharedUp hu)
  exact .of_result hx (hg.trans (if_pos hlast)) ⟨hstate, hcount, hstable.trans (by simp [resultConfirmed]), hlogged⟩

section NoSecond
variable (hlast : (ringOf s.dev l).enumLast ≠ some (enumResult (keepCopy s.dev l c) l))
include hlast

theorem enumerationReturn_endsUnstable (hframes : 16 ≤ (ringOf s.dev l).enumFrames) (hu : s.dev.rd PWR_STATUS_SHARED_UP ≠ 0) :
    Completes (.enumerationReturn l c) s
      (blockCounters l c.port ++ [(ENT_SCHED_N, l.idx), (ENT_START_STATE, l.idx)] ++ recordRegs (srcRing l)) [.rings, .log] fun e =>
        e.rd ENT_START_STATE l.idx = 3 ∧ (ringOf e l).unstable = true ∧ (ringOf e l).enumLast = none ∧
        e.rd ENT_SCHED_N l.idx = (enumResult (keepCopy s.dev l c) l).1 % 2 ^ ENT_SCHED_N.width ∧
        e.logged .ENUM_DONE (srcRing l) l.idx ((enumResult (keepCopy s.dev l c) l).1 % 2 ^ 80) := by
  obtain ⟨g, hx, hg⟩ := enumerationReturn_judged hs hf hown hb
  refine .of_result hx (hg.trans ((if_neg hlast).trans (if_pos hframes))) ?_ (endUnstable_shows _ _ (judgedCopy_sharedUp hu))
  rw [List.append_assoc]
  exact ((judgedCopy_sameBut s.dev l c).mono (List.Subset.refl _) (fun _ hx => .inl (List.mem_append_left _ hx)) (by simp)).next
    (endUnstable_sameBut ..) (List.Subset.refl _) (fun _ hx => .inl (List.mem_append_right _ hx)) (List.Subset.refl _)

theorem enumerationReturn_goesOn (hframes : (ringOf s.dev l).enumFrames < 16) :
    Completes (.enumerationReturn l c) s (blockCounters l c.port) [.rings] fun e =>
      (ringOf e l).enumLast = some (enumResult (keepCopy s.dev l c) l) ∧ (ringOf e l).enumSeq = none := by
  obtain ⟨g, hx, hg⟩ := enumerationReturn_judged hs hf hown hb
  refine .of_result hx (hg.trans ((if_neg hlast).trans (if_neg (Nat.not_le.mpr hframes)))) ?_ (by simp [frameJudged])
  exact (judgedCopy_sameBut s.dev l c).onRing l _ (by simp)

end NoSecond
end Own
end OnItsWay
end EnumerationReturn

section EnumRetry
variable {s : State} {l : Lane}

theorem enumRetry_repeats (hun : (ringOf s.dev l).unstable = true) (hs : s.dev.rd ENT_START_STATE l.idx = 3) :
    Completes (.enumRetry l) s [(ENT_START_STATE, l.idx)] [.rings] fun e => e.rd ENT_START_STATE l.idx = 2 ∧
      (ringOf e l).unstable = false ∧ (ringOf e l).enumFrames = 0 ∧ (ringOf e l).enumSeq = none ∧ (ringOf e l).inFlight = none :=
  .of_result (exec_enumRetry l s) (if_pos ⟨hun, hs⟩) (((SameBut.refl _ _ _ _).onRing l _ (by simp)).wr _ _ _ (by simp)) (by simp)

theorem enumRetry_ignored (h : (ringOf s.dev l).unstable = false ∨ s.dev.rd ENT_START_STATE l.idx ≠ 3) :
    Completes (.enumRetry l) s [] [] fun e => e.out = [] := by
  refine .of_unchanged (exec_enumRetry l s) (if_neg ?_)
  rintro ⟨hun, hs⟩
  rcases h with h | h
  · exact ne_true_of_eq_false h hun
  · exact h hs

end EnumRetry

/-- Settles O23: a copy of the frame on its way is kept (`keepCopy`), the frame is judged once its copies are back
(`enumerationReturn_judged`), and each outcome is a branch of the judgement. -/
theorem enumerationEnds : Obligations.EnumerationEnds :=
  ⟨fun _ _ _ _ hs hf =>
    ⟨enumerationReturn_awaitsCopies hs hf, enumerationReturn_ends hs hf, enumerationReturn_endsUnstable hs hf,
     enumerationReturn_goesOn hs hf, enumerationReturn_late hs hf, enumerationReturn_other hs hf⟩,
   fun _ _ _ => enumerationReturn_ignored, fun _ _ => enumRetry_repeats, fun _ _ => enumRetry_ignored⟩

end Sys2Proof.Machine
end

section
/-!
SUPPORT. The Planner's state, rule by rule: axis sets, couplings and commands in flight after an update, the frames of what a Planner
command calls, and what of a device a completion is made from (R209, R432, R433).
-/
namespace Sys2Proof.Machine
open RegField

/-! The device as a Planner command finds it, and the parts it changes. -/

@[simp] theorem Dev.cleared_host (d : Dev) : d.cleared.host = d.host := rfl
@[simp] theorem armOf_cleared (d : Dev) (a : Nat) : armOf d.cleared a = armOf d a := rfl
@[simp] theorem coupleOf_cleared (d : Dev) (j : Nat) : coupleOf d.cleared j = coupleOf d j := rfl

section Frames
variable {a d : Dev} {fs : List RegField} {es : List (RegField × Nat)} {ps : List Part}

theorem SameBut.onPln (h : SameBut a d fs es ps) (f : PlannerState → PlannerState) (hp : .pln ∈ ps) : SameBut a (onPln d f) fs es ps :=
  ⟨h.regs, fun p hn => by cases p with | pln => exact absurd hp hn | _ => exact h.rest _ hn⟩

theorem SameBut.onArm (h : SameBut a d fs es ps) (i : Nat) (f : ArmPlan → ArmPlan) (hp : .pln ∈ ps) : SameBut a (onArm d i f) fs es ps :=
  h.onPln _ hp

theorem SameBut.onHost (h : SameBut a d fs es ps) (f : HostState → HostState) (hp : .host ∈ ps) : SameBut a (onHost d f) fs es ps :=
  ⟨h.regs, fun p hn => by cases p with | host => exact absurd hp hn | _ => exact h.rest _ hn⟩

theorem SameBut.onMil (h : SameBut a d fs es ps) (f : MillState → MillState) (hp : .mil ∈ ps) : SameBut a (onMil d f) fs es ps :=
  ⟨h.regs, fun p hn => by cases p with | mil => exact absurd hp hn | _ => exact h.rest _ hn⟩

theorem SameBut.pln_eq (h : SameBut a d fs es ps) (hp : .pln ∉ ps) : d.pln = a.pln := h.rest .pln hp

theorem SameBut.host_eq (h : SameBut a d fs es ps) (hp : .host ∉ ps) : d.host = a.host := h.rest .host hp

/-- A step of an effect that shows no more than the whole effect does. -/
theorem SameBut.showing {d e : Dev} {fs gs : List RegField} {ps qs : List Part} (h : SameBut d e gs [] qs) (hf : gs ⊆ fs) (hp : qs ⊆ ps) :
    SameBut d e fs [] ps := h.mono hf (by simp) hp

end Frames

/-- Beside what a frame names nothing has changed, and nothing was emitted. -/
structure Silent (d e : Dev) (fs : List RegField) (ps : List Part) : Prop where
  frame : SameBut d e fs [] ps
  out : e.out = d.out

section Silent
variable {a d e : Dev} {fs gs : List RegField} {ps qs : List Part}

theorem Silent.refl (d : Dev) (fs : List RegField) (ps : List Part) : Silent d d fs ps := ⟨.refl _ _ _ _, rfl⟩

theorem Silent.trans (h : Silent a d fs ps) (k : Silent d e fs ps) : Silent a e fs ps := ⟨h.frame.trans k.frame, k.out.trans h.out⟩

theorem Silent.mono (h : Silent d e gs qs) (hf : gs ⊆ fs) (hp : qs ⊆ ps) : Silent d e fs ps := ⟨h.frame.showing hf hp, h.out⟩

theorem Silent.wr (h : Silent a d fs ps) (f : RegField) (i v : Nat) (hf : f ∈ fs) : Silent a (d.wr f i v) fs ps :=
  ⟨h.frame.wr f i v (.inr hf), h.out⟩

theorem Silent.onPln (h : Silent a d fs ps) (f : PlannerState → PlannerState) (hp : .pln ∈ ps) : Silent a (onPln d f) fs ps :=
  ⟨h.frame.onPln f hp, h.out⟩

theorem Silent.onArm (h : Silent a d fs ps) (i : Nat) (f : ArmPlan → ArmPlan) (hp : .pln ∈ ps) : Silent a (onArm d i f) fs ps :=
  h.onPln _ hp

theorem Silent.each {α : Type} {f : Dev → α → Dev} {xs : List α} (hf : ∀ b, ∀ x ∈ xs, Silent b (f b x) fs ps) (h : Silent a d fs ps) :
    Silent a (d.each xs f) fs ps := by
  induction xs generalizing d with
  | nil => exact h
  | cons x xs ih => exact ih (fun b y hy => hf b y (.tail _ hy)) (h.trans (hf d x (.head _)))

theorem Silent.pln_eq (h : Silent d e fs ps) (hp : .pln ∉ ps) : e.pln = d.pln := h.frame.rest .pln hp

theorem Silent.host_eq (h : Silent d e fs ps) (hp : .host ∉ ps) : e.host = d.host := h.frame.rest .host hp

theorem Silent.rd_eq (h : Silent d e fs ps) (f : RegField) (i : Nat) (hf : f ∉ fs) : e.rd f i = d.rd f i := h.frame.regs f i hf (by simp)

end Silent

/-! Axis sets and couplings. -/

theorem armOf_congr {d e : Dev} (h : e.pln = d.pln) (a : Nat) : armOf e a = armOf d a := by rw [armOf, h, armOf]

@[simp] theorem armOf_onArm (d : Dev) (a b : Nat) (f : ArmPlan → ArmPlan) :
    armOf (onArm d a f) b = if b = a then f (armOf d b) else armOf d b := SMap.get_modify ..

theorem armOf_onArm_same (d : Dev) (a : Nat) (f : ArmPlan → ArmPlan) : armOf (onArm d a f) a = f (armOf d a) := by simp

@[simp] theorem onArm_rd (d : Dev) (a : Nat) (f : ArmPlan → ArmPlan) (g : RegField) (i : Nat) : (onArm d a f).rd g i = d.rd g i := rfl
@[simp] theorem onPln_rd (d : Dev) (f : PlannerState → PlannerState) (g : RegField) (i : Nat) : (onPln d f).rd g i = d.rd g i := rfl
@[simp] theorem onHost_rd (d : Dev) (f : HostState → HostState) (g : RegField) (i : Nat) : (onHost d f).rd g i = d.rd g i := rfl
@[simp] theorem onPln_pln (d : Dev) (f : PlannerState → PlannerState) : (onPln d f).pln = f d.pln := rfl

/-! Commands in flight. -/

theorem inFlight_congr {d e : Dev} (h : e.host = d.host) (sq rsn : Nat) : inFlight e sq rsn = inFlight d sq rsn := by
  rw [inFlight, h, inFlight]

theorem inFlight_key {d : Dev} {sq rsn : Nat} {c : HostCmd} (h : inFlight d sq rsn = some c) : c.sq = sq ∧ c.rsn = rsn := by
  simpa using List.find?_some h

theorem flightOp_inFlight {d : Dev} {sq rsn op : Nat} {c : HostCmd} (h : flightOp d sq rsn op = some c) : inFlight d sq rsn = some c := by
  unfold flightOp at h
  split at h
  · split at h
    · obtain rfl := Option.some.inj h
      assumption
    · cases h
  · cases h

/-- A command in flight of which this device alone has to answer: its completion is this device's entry. -/
structure Dev.due (d : Dev) (h : HostCmd) : Prop where
  flight : inFlight d h.sq h.rsn = some h
  parts : h.parts.all (·.done) = true
  answer : h.answer = none

theorem Dev.pays.due {d : Dev} {c : PlanCmd} {h : HostCmd} (hp : d.pays c h) : d.due h := by
  obtain ⟨hf, hparts, ha⟩ := hp
  obtain ⟨hsq, hrsn⟩ := inFlight_key hf
  exact ⟨hsq ▸ hrsn ▸ hf, hparts, ha⟩

theorem Dev.pays.key {d : Dev} {c : PlanCmd} {h : HostCmd} (hp : d.pays c h) : h.sq = c.sq ∧ h.rsn = c.rsn := inFlight_key hp.1

theorem Dev.owes.due {d : Dev} {sq rsn op : Nat} {c : HostCmd} (hp : d.owes sq rsn op c) : d.due c := by
  obtain ⟨hf, hparts, ha⟩ := hp
  have hf := flightOp_inFlight hf
  obtain ⟨hsq, hrsn⟩ := inFlight_key hf
  exact ⟨hsq ▸ hrsn ▸ hf, hparts, ha⟩

theorem Dev.due.congr {d e : Dev} {h : HostCmd} (hd : d.due h) (hh : e.host = d.host) : e.due h :=
  ⟨(inFlight_congr hh _ _).trans hd.flight, hd.parts, hd.answer⟩

/-! Completions. -/

theorem showFlight_silent (d : Dev) : Silent d (showFlight d) flightFields [] := by
  refine .each (fun b _ _ => (Silent.refl b _ _).wr _ _ _ (by simp [flightFields])) (.each (fun b _ _ => (Silent.refl b _ _).wr _ _ _
    (by simp [flightFields])) ?_)
  exact ((Silent.refl d _ _).wr _ _ _ (by simp [flightFields])).wr _ _ _ (by simp [flightFields])

/-- An entry leaves for completion queue `q` at its tail, with its phase. -/
def cqWrite (d : Dev) (q : Nat) (bs : List Byte) (replay : Bool) : Output :=
  .hostWrite (hostBase (d.rd HST_CQ_BASE_LO_ADDR q) (d.rd HST_CQ_BASE_HI_ADDR q) + 64 * d.rd HST_CQ_STAT_TAIL q)
    (withFlags bs (d.rd HST_CQ_STAT_PHASE q + 2 * bitOf replay))

theorem cqWrite_first (d : Dev) (q : Nat) (bs : List Byte) : cqWrite d q bs false =
    .hostWrite (hostBase (d.rd HST_CQ_BASE_LO_ADDR q) (d.rd HST_CQ_BASE_HI_ADDR q) + 64 * d.rd HST_CQ_STAT_TAIL q)
      (withFlags bs (d.rd HST_CQ_STAT_PHASE q)) := rfl

/-- What writing an entry does: nothing while the queue is off or the link down, else the entry leaves and the tail moves on. -/
theorem putCqe_cases (d : Dev) (q : Nat) (bs : List Byte) (replay : Bool) :
    (¬ (d.rd HST_CQ_CFG_EN q ≠ 0 ∧ d.rd HST_STATUS_LINK_UP ≠ 0) ∧ putCqe d q bs replay = d) ∨
    ∃ e : Dev, Silent (d.emit (cqWrite d q bs replay)) e flightFields [] ∧
      putCqe d q bs replay = onHost e fun h => { h with wrote := true } := by
  unfold putCqe
  by_cases hon : d.on HST_CQ_CFG_EN q ∧ d.on HST_STATUS_LINK_UP
  · rw [if_pos hon]
    refine .inr ⟨_, ?_, rfl⟩
    split
    · exact ((Silent.refl _ _ _).wr _ _ _ (by simp [flightFields])).wr _ _ _ (by simp [flightFields])
    · exact (Silent.refl _ _ _).wr _ _ _ (by simp [flightFields])
  · rw [if_neg hon]
    exact .inl ⟨by simpa [Dev.on] using hon, rfl⟩

theorem putCqe_sameBut (d : Dev) (q : Nat) (bs : List Byte) (replay : Bool) : SameBut d (putCqe d q bs replay) flightFields [] [.host] := by
  obtain ⟨-, h⟩ | ⟨e, he, h⟩ := putCqe_cases d q bs replay <;> rw [h]
  · exact .refl _ _ _ _
  · exact (((SameBut.refl d _ _ _).emit _).trans (he.frame.showing (List.Subset.refl _) (by simp))).onHost _ (by simp)

theorem putCqe_keeps (d : Dev) (q : Nat) (bs : List Byte) (replay : Bool) :
    (putCqe d q bs replay).host.flight = d.host.flight ∧ (putCqe d q bs replay).host.store = d.host.store := by
  obtain ⟨-, h⟩ | ⟨e, he, h⟩ := putCqe_cases d q bs replay <;> rw [h]
  · exact ⟨rfl, rfl⟩
  · have hh : e.host = d.host := he.host_eq (by simp)
    change e.host.flight = _ ∧ e.host.store = _
    rw [hh]
    exact ⟨rfl, rfl⟩

/-- An entry is written to a queue that is on while the link is up. -/
theorem putCqe_written {d : Dev} {q : Nat} (bs : List Byte) (replay : Bool) (hen : d.rd HST_CQ_CFG_EN q ≠ 0) (hup : d.rd HST_STATUS_LINK_UP ≠ 0) :
    cqWrite d q bs replay ∈ (putCqe d q bs replay).out := by
  obtain ⟨hoff, -⟩ | ⟨e, he, h⟩ := putCqe_cases d q bs replay
  · exact absurd ⟨hen, hup⟩ hoff
  · rw [h]
    change _ ∈ e.out
    simp [he.out]

/-- A device with the commands of one key gone from flight. -/
def landed (d : Dev) (c : HostCmd) : Dev :=
  onHost d fun h => { h with flight := h.flight.filter fun x => !decide (x.sq = c.sq ∧ x.rsn = c.rsn) }

@[simp] theorem landed_rd (d : Dev) (c : HostCmd) (f : RegField) (i : Nat) : (landed d c).rd f i = d.rd f i := onHost_rd ..
@[simp] theorem landed_store (d : Dev) (c : HostCmd) : (landed d c).host.store = d.host.store := rfl

/-- The entries of a completion store with a new one, the newest 4,096 (R431). -/
def withEntry (c : HostCmd) (bs : List Byte) (l : List Stored) : List Stored :=
  let l := (l.filter fun x => decide (x.rsn ≠ c.rsn)) ++ [{ rsn := c.rsn, crc := c.crc, entry := bs }]
  l.drop (l.length - 4096)

theorem mem_withEntry (c : HostCmd) (bs : List Byte) (l : List Stored) :
    ({ rsn := c.rsn, crc := c.crc, entry := bs } : Stored) ∈ withEntry c bs l := by
  unfold withEntry
  dsimp only
  rw [List.drop_append_of_le_length (by simp)]
  simp

/-- The host interface with another completion store. -/
def HostState.withStore (h : HostState) (m : SMap (List Stored)) : HostState := { h with store := m }

@[simp] theorem HostState.withStore_store (h : HostState) (m : SMap (List Stored)) : (h.withStore m).store = m := rfl
@[simp] theorem HostState.withStore_flight (h : HostState) (m : SMap (List Stored)) : (h.withStore m).flight = h.flight := rfl

/-- A device with a completion in its store. -/
def stored (d : Dev) (c : HostCmd) (bs : List Byte) : Dev :=
  onHost d fun h => h.withStore (SMap.modify [] h.store c.sq (withEntry c bs))

theorem stored_host (d : Dev) (c : HostCmd) (bs : List Byte) :
    (stored d c bs).host = d.host.withStore (SMap.modify [] d.host.store c.sq (withEntry c bs)) := rfl

@[simp] theorem stored_rd (d : Dev) (c : HostCmd) (bs : List Byte) (f : RegField) (i : Nat) : (stored d c bs).rd f i = d.rd f i :=
  onHost_rd ..

theorem stored_get (d : Dev) (c : HostCmd) (bs : List Byte) (q : Nat) :
    SMap.get [] (stored d c bs).host.store q =
      if q = c.sq then withEntry c bs (SMap.get [] d.host.store q) else SMap.get [] d.host.store q := by
  rw [stored_host, HostState.withStore_store, SMap.get_modify]

/-- The completion frame that answers a forwarded command. -/
def groupAnswer (d : Dev) (c : HostCmd) (bs : List Byte) : Output :=
  .groupCompletion (sectionOf d (memberLevel d)).mac groupSource (entryPayload d (memberLevel d) 4 c.rsn bs)

theorem finish_forwarded {d : Dev} {c : HostCmd} (h : 16 ≤ c.sq) (x : Cqe) :
    finish d c x = showFlight ((landed d c).emit (groupAnswer (landed d c) c (cqeBytes d c x))) := if_pos h

/-- The answer to a command of this device's own queues on its way to the host. -/
def answered (d : Dev) (c : HostCmd) (bs : List Byte) : Dev :=
  match c.cq with
  | some q => putCqe (stored (landed d c) c bs) q bs false
  | none => stored (landed d c) c bs

theorem finish_own {d : Dev} {c : HostCmd} (h : c.sq < 16) (x : Cqe) : finish d c x = showFlight (answered d c (cqeBytes d c x)) := by
  refine (if_neg (Nat.not_le.mpr h)).trans (congrArg showFlight ?_)
  unfold answered
  cases c.cq <;> rfl

theorem landed_sameBut (d : Dev) (c : HostCmd) : SameBut d (landed d c) flightFields [] [.host] := (SameBut.refl d _ _ _).onHost _ (by simp)

theorem answered_sameBut (d : Dev) (c : HostCmd) (bs : List Byte) : SameBut d (answered d c bs) flightFields [] [.host] := by
  have h : SameBut d (stored (landed d c) c bs) flightFields [] [.host] := (landed_sameBut d c).onHost _ (by simp)
  unfold answered
  split
  · exact h.trans (putCqe_sameBut ..)
  · exact h

theorem answered_host (d : Dev) (c : HostCmd) (bs : List Byte) :
    (answered d c bs).host.flight = (landed d c).host.flight ∧ (answered d c bs).host.store = (stored (landed d c) c bs).host.store := by
  have hs : (stored (landed d c) c bs).host.flight = (landed d c).host.flight := by rw [stored_host, HostState.withStore_flight]
  unfold answered
  split
  · obtain ⟨hf, ht⟩ := putCqe_keeps (stored (landed d c) c bs) (by assumption) bs false
    exact ⟨hf.trans hs, ht⟩
  · exact ⟨hs, rfl⟩

theorem finish_sameBut (d : Dev) (c : HostCmd) (x : Cqe) : SameBut d (finish d c x) flightFields [] [.host] := by
  rcases Nat.lt_or_ge c.sq 16 with h | h
  · rw [finish_own h]
    exact (answered_sameBut ..).trans ((showFlight_silent _).frame.showing (List.Subset.refl _) (by simp))
  · rw [finish_forwarded h]
    exact ((landed_sameBut d c).emit _).trans ((showFlight_silent _).frame.showing (List.Subset.refl _) (by simp))

theorem finish_flight (d : Dev) (c : HostCmd) (x : Cqe) :
    (finish d c x).host.flight = d.host.flight.filter fun x => !decide (x.sq = c.sq ∧ x.rsn = c.rsn) := by
  rcases Nat.lt_or_ge c.sq 16 with h | h
  · rw [finish_own h, (showFlight_silent _).host_eq (by simp), (answered_host ..).1]; rfl
  · rw [finish_forwarded h, (showFlight_silent _).host_eq (by simp)]; rfl

theorem finish_store {d : Dev} {c : HostCmd} (h : c.sq < 16) (x : Cqe) (q : Nat) :
    SMap.get [] (finish d c x).host.store q =
      if q = c.sq then withEntry c (cqeBytes d c x) (SMap.get [] d.host.store q) else SMap.get [] d.host.store q := by
  rw [finish_own h, (showFlight_silent _).host_eq (by simp), (answered_host ..).2, stored_get, landed_store]

/-- What other queues have stored stays. -/
theorem finish_store_other {d : Dev} {c : HostCmd} {q : Nat} (h : q ≠ c.sq) (x : Cqe) :
    SMap.get [] (finish d c x).host.store q = SMap.get [] d.host.store q := by
  rcases Nat.lt_or_ge c.sq 16 with h16 | h16
  · rw [finish_store h16, if_neg h]
  · rw [finish_forwarded h16, (showFlight_silent _).host_eq (by simp)]
    rfl

/-- The commands of other keys stay in flight. -/
theorem finish_inFlight (d : Dev) (c : HostCmd) (x : Cqe) (sq rsn : Nat) :
    inFlight (finish d c x) sq rsn = if sq = c.sq ∧ rsn = c.rsn then none else inFlight d sq rsn := by
  unfold inFlight
  rw [finish_flight, List.find?_filter]
  split
  · next h =>
    obtain ⟨rfl, rfl⟩ := h
    exact List.find?_eq_none.mpr fun y _ => by simp; tauto
  · next h =>
    congr 1
    funext y
    by_cases hy : y.sq = sq ∧ y.rsn = rsn
    · obtain ⟨rfl, rfl⟩ := hy
      simp [h]
    · simp [hy]

/-- A command that has landed is completed with its entry (R432, R433, R482). -/
theorem finish_completed (d : Dev) (c : HostCmd) (x : Cqe) : d.completed (finish d c x) c x := by
  refine ⟨?_, fun h => ?_, fun q h hq hen hup => ?_, fun h => ?_⟩
  · simp [finish_inFlight]
  · refine ⟨{ rsn := c.rsn, crc := c.crc, entry := cqeBytes d c x }, ?_, rfl, rfl, rfl⟩
    rw [finish_store h, if_pos rfl]
    exact mem_withEntry ..
  · rw [finish_own h, (showFlight_silent _).out, answered, hq]
    have hw := putCqe_written (d := stored (landed d c) c (cqeBytes d c x)) (cqeBytes d c x) false (by simpa using hen) (by simpa using hup)
    rw [cqWrite_first] at hw
    simpa only [stored_rd, landed_rd] using hw
  · rw [finish_forwarded h, (showFlight_silent _).out]
    exact List.mem_append_right _ (List.mem_singleton.mpr rfl)

theorem complete_sameBut (d : Dev) (sq rsn : Nat) (x : Cqe) : SameBut d (complete d sq rsn x) flightFields [] [.host] := by
  unfold complete
  split
  · exact .refl _ _ _ _
  · dsimp only
    split
    · exact finish_sameBut ..
    · exact (SameBut.refl d _ _ _).onHost _ (by simp)

@[simp] theorem complete_pln (d : Dev) (sq rsn : Nat) (x : Cqe) : (complete d sq rsn x).pln = d.pln :=
  (complete_sameBut d sq rsn x).pln_eq (by simp)

theorem complete_due {d : Dev} {h : HostCmd} (hd : d.due h) (x : Cqe) : complete d h.sq h.rsn x = finish d h x := by
  unfold complete
  rw [hd.flight]
  simp only [hd.answer, hd.parts, joinCqe, if_true]

end Sys2Proof.Machine
end

section
/-!
SUPPORT. What a completion is made from, and the shared operations of the Planner's queues: the views, a head command that ends, and zones
(R209 to R213, R235 to R237, R432, R433, R482).
-/
namespace Sys2Proof.Machine
open RegField

/-! What a completion is made from. -/

/-- The registers a completion is made from. -/
def answerRegs : List RegField :=
  [LN_STATUS_STATE, SYS_MODE_MODE, BLF_CFG_SOURCE, BLF_STATUS_STATE, BLF_FRAME_NO_NO, HST_CQ_CFG_EN, HST_STATUS_LINK_UP, HST_CQ_BASE_LO_ADDR,
   HST_CQ_BASE_HI_ADDR, HST_CQ_STAT_TAIL, HST_CQ_STAT_PHASE]

/-- Two devices give a command the same answer. -/
structure SameAnswer (d e : Dev) : Prop where
  regs : ∀ f ∈ answerRegs, ∀ i, e.rd f i = d.rd f i
  grp : e.grp = d.grp
  lanes : e.lanes = d.lanes

theorem SameAnswer.of_sameBut {d e : Dev} {fs : List RegField} {ps : List Part} (h : SameBut d e fs [] ps) (hf : answerRegs.Disjoint fs)
    (hg : .grp ∉ ps) (hl : .lanes ∉ ps) : SameAnswer d e :=
  ⟨fun f hm i => h.regs f i (fun k => hf hm k) (by simp), h.rest .grp hg, h.rest .lanes hl⟩

section SameAnswer
variable {d e : Dev} (h : SameAnswer d e)
include h

theorem SameAnswer.rd (f : RegField) (i : Nat) (hf : f ∈ answerRegs) : e.rd f i = d.rd f i := h.regs f hf i

theorem SameAnswer.frameNo : e.frameNo = d.frameNo := h.rd _ _ (by simp [answerRegs])

theorem SameAnswer.mode : e.mode = d.mode := by simp only [Dev.mode, h.rd SYS_MODE_MODE 0 (by simp [answerRegs])]

theorem SameAnswer.timeState : timeState e = timeState d := by
  simp only [Machine.timeState, h.rd BLF_STATUS_STATE 0 (by simp [answerRegs])]

theorem SameAnswer.firstLane : e.firstLane = d.firstLane := by
  simp only [Dev.firstLane, h.rd LN_STATUS_STATE _ (by simp [answerRegs])]

theorem SameAnswer.laneOf (l : Lane) : laneOf e l = laneOf d l := by rw [Machine.laneOf, h.lanes, Machine.laneOf]

theorem SameAnswer.cfg : e.cfg = d.cfg := by rw [Dev.cfg, h.firstLane, h.lanes, Dev.cfg]

theorem SameAnswer.levelOf (l : Nat) : levelOf e l = levelOf d l := by rw [Machine.levelOf, h.grp, Machine.levelOf]

theorem SameAnswer.sectionOf (l : Nat) : sectionOf e l = sectionOf d l := by rw [Machine.sectionOf, h.cfg, Machine.sectionOf]

theorem SameAnswer.levelsUsed : levelsUsed e = levelsUsed d := by rw [Machine.levelsUsed, h.cfg, Machine.levelsUsed]

theorem SameAnswer.atLevel (l : Nat) : atLevel e l = atLevel d l := by
  have hr : represents e l = represents d l := by cases l <;> simp only [represents, h.levelOf]
  rw [Machine.atLevel, h.levelsUsed, hr, Machine.atLevel]

theorem SameAnswer.slotAt (l m : Nat) : slotAt e l m = slotAt d l m := by rw [Machine.slotAt, h.sectionOf, Machine.slotAt]

theorem SameAnswer.ownSlot (l : Nat) : ownSlot e l = ownSlot d l := by
  unfold Machine.ownSlot
  simp only [h.slotAt, h.sectionOf]

theorem SameAnswer.localState : localState e = localState d := by
  unfold Machine.localState
  simp only [h.cfg, h.laneOf, h.firstLane, h.slotAt, h.ownSlot, h.levelOf, h.mode, h.grp]

theorem SameAnswer.groupReported (l : Nat) : groupReported e l = groupReported d l := by
  cases l <;> simp only [Machine.groupReported, h.localState, h.levelOf]

theorem SameAnswer.groupFlags (l : Nat) : groupFlags e l = groupFlags d l := by
  unfold Machine.groupFlags
  simp only [h.levelOf, h.timeState, h.rd BLF_CFG_SOURCE 0 (by simp [answerRegs])]

theorem SameAnswer.memberLevel : memberLevel e = memberLevel d := by
  unfold Machine.memberLevel
  simp only [h.levelsUsed, h.atLevel, h.levelOf]

theorem SameAnswer.entryPayload (l kind tag : Nat) (bs : List Byte) : entryPayload e l kind tag bs = entryPayload d l kind tag bs := by
  simp only [Machine.entryPayload, groupHeader, groupFrameNo, groupState, h.ownSlot, h.groupFlags, h.sectionOf, h.levelOf, h.groupReported,
    h.frameNo]

theorem SameAnswer.cqeBytes (c : HostCmd) (x : Cqe) : cqeBytes e c x = cqeBytes d c x := by
  unfold Machine.cqeBytes
  rw [h.frameNo]

/-- What completes on a device completes on one that gives the same answer. -/
theorem SameAnswer.completed {b : Dev} {c : HostCmd} {x : Cqe} (k : e.completed b c x) : d.completed b c x := by
  obtain ⟨hland, hstore, hwrite, hframe⟩ := k
  refine ⟨hland, by simpa only [h.cqeBytes] using hstore, fun q hs hq hen hup => ?_, fun hs => ?_⟩
  · have hr {f : RegField} {i : Nat} (hf : f ∈ answerRegs) := h.rd f i hf
    have := hwrite q hs hq (by rwa [hr (by simp [answerRegs])]) (by rwa [hr (by simp [answerRegs])])
    rwa [h.cqeBytes, hr (by simp [answerRegs]), hr (by simp [answerRegs]), hr (by simp [answerRegs]), hr (by simp [answerRegs])] at this
  · simpa only [h.cqeBytes, h.sectionOf, h.memberLevel, h.entryPayload] using hframe hs

end SameAnswer

/-- A command that has completed stays so while no more completes and nothing emitted is taken back. -/
theorem Dev.completed.keep {d e b : Dev} {c : HostCmd} {x : Cqe} (k : d.completed e c x) (hh : b.host = e.host) (ho : e.out ⊆ b.out) :
    d.completed b c x := by
  obtain ⟨hland, hstore, hwrite, hframe⟩ := k
  exact ⟨(inFlight_congr hh _ _).trans hland, hh ▸ hstore, fun q hs hq hen hup => ho (hwrite q hs hq hen hup), fun hs => ho (hframe hs)⟩

theorem Dev.completed.silent {d e b : Dev} {c : HostCmd} {x : Cqe} {fs : List RegField} {ps : List Part} (k : d.completed e c x)
    (h : Silent e b fs ps) (hp : .host ∉ ps) : d.completed b c x := k.keep (h.host_eq hp) (h.out.symm ▸ List.Subset.refl _)

/-! Views (Tables 7-14, 7-15). -/

theorem showArm_silent (d : Dev) (a : Nat) : Silent d (showArm d a) planViews [] := by
  have h {b : Dev} (hb : Silent d b planViews []) {f : RegField} (i v : Nat) (hf : f ∈ planViews) : Silent d (b.wr f i v) planViews [] :=
    hb.wr f i v hf
  exact h (h (h (h (h (h (h (.refl _ _ _) _ _ (by simp [planViews])) _ _ (by simp [planViews])) _ _ (by simp [planViews])) _ _
    (by simp [planViews])) _ _ (by simp [planViews])) _ _ (by simp [planViews])) _ _ (by simp [planViews])

theorem showPlan_silent (d : Dev) : Silent d (showPlan d) planViews [] :=
  .each (fun b _ _ => (Silent.refl b _ _).wr _ _ _ (by simp [planViews])) (.each (fun b x _ => showArm_silent b x) (.refl _ _ _))

@[simp] theorem showPlan_pln (d : Dev) : (showPlan d).pln = d.pln := (showPlan_silent d).pln_eq (by simp)
@[simp] theorem showPlan_host (d : Dev) : (showPlan d).host = d.host := (showPlan_silent d).host_eq (by simp)
@[simp] theorem showPlan_out (d : Dev) : (showPlan d).out = d.out := (showPlan_silent d).out
@[simp] theorem armOf_showPlan (d : Dev) (a : Nat) : armOf (showPlan d) a = armOf d a := armOf_congr (showPlan_pln d) a

theorem showPlan_rd (d : Dev) (f : RegField) (i : Nat) (hf : f ∉ planViews) : (showPlan d).rd f i = d.rd f i :=
  (showPlan_silent d).rd_eq f i hf

/-! Commands that end. -/

@[simp] theorem armOf_complete (d : Dev) (sq rsn : Nat) (x : Cqe) (a : Nat) : armOf (complete d sq rsn x) a = armOf d a :=
  armOf_congr (complete_pln ..) a

@[simp] theorem armOf_endCmd (d : Dev) (c : PlanCmd) (r : PlanResult) (a : Nat) : armOf (endCmd d c r) a = armOf d a := armOf_complete ..

@[simp] theorem endCmd_pln (d : Dev) (c : PlanCmd) (r : PlanResult) : (endCmd d c r).pln = d.pln := complete_pln ..

theorem endCmd_sameBut (d : Dev) (c : PlanCmd) (r : PlanResult) : SameBut d (endCmd d c r) flightFields [] [.host] := complete_sameBut ..

/-- A command of the device's own completes with the entry it is given. -/
theorem complete_completed {d : Dev} {c : PlanCmd} {h : HostCmd} (hp : d.pays c h) (x : Cqe) : d.completed (complete d c.sq c.rsn x) h x := by
  obtain ⟨hsq, hrsn⟩ := hp.key
  rw [← hsq, ← hrsn, complete_due hp.due]
  exact finish_completed ..

theorem endCmd_completed {d : Dev} {c : PlanCmd} {h : HostCmd} (hp : d.pays c h) (r : PlanResult) :
    d.completed (endCmd d c r) h { result := r.code } := complete_completed hp _

theorem Dev.pays.congr {d e : Dev} {c : PlanCmd} {h : HostCmd} (hp : d.pays c h) (hh : e.host = d.host) : e.pays c h :=
  ⟨(inFlight_congr hh _ _).trans hp.1, hp.2⟩

/-- A queue without a command has no head to judge. -/
theorem headReached_empty {d : Dev} {a : Nat} (h : (armOf d a).queue = []) (n : Nat) : headReached d a n = d := by
  cases n with
  | zero => rfl
  | succ n =>
    unfold headReached
    rw [h]
    cases (armOf d a).run <;> rfl

/-- While a command runs no head is judged. -/
theorem headReached_running {d : Dev} {a : Nat} {r : Run} (h : (armOf d a).run = some r) (n : Nat) : headReached d a n = d := by
  cases n with
  | zero => rfl
  | succ n =>
    unfold headReached
    rw [h]

theorem headReached_sameBut (d : Dev) (a n : Nat) : SameBut d (headReached d a n) flightFields [] [.pln, .host] := by
  induction n generalizing d with
  | zero => exact .refl _ _ _ _
  | succ n ih =>
    have hq (b : Dev) (f : ArmPlan → ArmPlan) : SameBut b (onArm b a f) flightFields [] [.pln, .host] :=
      (SameBut.refl b _ _ _).onArm _ _ (by simp)
    unfold headReached
    split
    · dsimp only
      split
      · exact .refl _ _ _ _
      · split
        · exact hq ..
        · split
          · exact ((hq ..).trans ((endCmd_sameBut ..).showing (List.Subset.refl _) (by simp))).trans (ih _)
          · exact hq ..
    · exact .refl _ _ _ _

/-- A device whose axis set `a` has lost the head of its queue, with the commits that would have carried it. -/
def headGone (d : Dev) (a : Nat) (c : PlanCmd) (rest : List PlanCmd) : Dev :=
  onArm (onPln d fun p => { p with staged := p.staged.filter fun k => !k.parts.any fun q => decide (q.run.cmd.key = c.key) }) a fun x =>
    { x with queue := rest }

theorem failHead_cons {d : Dev} {a : Nat} {c : PlanCmd} {rest : List PlanCmd} (hq : (armOf d a).queue = c :: rest) (r : PlanResult) :
    failHead d a r = showPlan (headReached (endCmd (headGone d a c rest) c r) a 33) := by
  unfold failHead
  rw [hq]
  rfl

theorem headGone_silent (d : Dev) (a : Nat) (c : PlanCmd) (rest : List PlanCmd) : Silent d (headGone d a c rest) [] [.pln] :=
  ((Silent.refl d _ _).onPln _ (by simp)).onArm _ _ (by simp)

theorem headGone_arm (d : Dev) (a : Nat) (c : PlanCmd) (rest : List PlanCmd) :
    armOf (headGone d a c rest) a = { armOf d a with queue := rest } := armOf_onArm_same ..

/-- The one command of a queue ends without motion. -/
theorem failHead_last {d : Dev} {a : Nat} {c : PlanCmd} (hq : (armOf d a).queue = [c]) (r : PlanResult) :
    failHead d a r = showPlan (endCmd (headGone d a c []) c r) := by
  rw [failHead_cons hq, headReached_empty]
  rw [armOf_endCmd, headGone_arm]

theorem failHead_sameBut (d : Dev) (a : Nat) (r : PlanResult) : SameBut d (failHead d a r) (planViews ++ flightFields) [] [.pln, .host] := by
  cases hq : (armOf d a).queue with
  | nil => unfold failHead; rw [hq]; exact .refl _ _ _ _
  | cons c rest =>
    rw [failHead_cons hq]
    have hshow := (showPlan_silent (headReached (endCmd (headGone d a c rest) c r) a 33)).frame
    exact ((((headGone_silent d a c rest).frame.showing (by simp) (by simp)).trans ((endCmd_sameBut ..).showing (by simp) (by simp))).trans
      ((headReached_sameBut ..).showing (by simp) (by simp))).trans (hshow.showing (by simp) (by simp))

/-- The one command of a queue ends without motion, with its completion. -/
theorem failHead_headEnds {d : Dev} {a : Nat} {c : PlanCmd} {h : HostCmd} (hq : (armOf d a).queue = [c]) (hp : d.pays c h) (r : PlanResult) :
    d.headEnds (failHead d a r) a h r.code := by
  rw [failHead_last hq]
  have hgone := headGone_silent d a c []
  refine ⟨?_, ?_, ?_⟩
  · rw [armOf_showPlan, armOf_endCmd, headGone_arm]
  · rw [armOf_showPlan, armOf_endCmd, headGone_arm]
  · have hs : SameAnswer d (headGone d a c []) := .of_sameBut hgone.frame (by simp) (by simp) (by simp)
    exact (hs.completed (endCmd_completed (hp.congr (hgone.host_eq (by simp))) r)).silent (showPlan_silent _) (by simp)

theorem failHead_pln {d : Dev} {a : Nat} {c : PlanCmd} (hq : (armOf d a).queue = [c]) (r : PlanResult) :
    (failHead d a r).pln = (headGone d a c []).pln := by
  rw [failHead_last hq, showPlan_pln, endCmd_pln]

theorem Dev.headEnds.of_same {d e b : Dev} {a : Nat} {h : HostCmd} {code : Nat} (k : e.headEnds b a h code) (hs : SameAnswer d e)
    (hr : (armOf e a).run = (armOf d a).run) : d.headEnds b a h code := ⟨k.1, k.2.1.trans hr, hs.completed k.2.2⟩

/-! What a command does to the device it finds. -/

/-- Command `c` takes device `d`, its outputs cleared, to `e`. -/
def Effect (c : Instr) (d e : Dev) : Prop := ∃ f : Dev → Dev, (∀ s, exec c s = s.run f) ∧ f d = e

section Effect
variable {cmd : Instr} {s : State} {e : Dev} {fs : List RegField} {es : List (RegField × Nat)} {ps : List Part} {post : Dev → Prop}

theorem Effect.congr {d b : Dev} (h : Effect cmd d e) (he : e = b) : Effect cmd d b := he ▸ h

theorem Effect.answers (h : Effect cmd s.dev.cleared e) (hp : post e) : Answers cmd s post := by
  obtain ⟨f, hx, hf⟩ := h
  exact .of_result (hx s) hf hp

theorem Effect.touches (h : Effect cmd s.dev.cleared e) (hs : SameBut s.dev.cleared e fs es ps) : Touches cmd s fs es ps :=
  h.answers hs.of_cleared

theorem Effect.completes (h : Effect cmd s.dev.cleared e) (hs : SameBut s.dev.cleared e [] es ps) (hp : post e) : Completes cmd s es ps post :=
  h.answers ⟨hs.of_cleared, hp⟩

/-- A command that can do nothing leaves the device as it was (log entry 3). -/
theorem Effect.unchanged (h : Effect cmd s.dev.cleared s.dev.cleared) : Completes cmd s [] [] fun e => e.out = [] :=
  h.completes (.refl _ _ _ _) rfl

/-- What a command stages is all it changes (R223). -/
theorem Effect.stages {d : Dev} {k : Commit} (h : Effect cmd s.dev.cleared (stage d k)) (hd : Silent s.dev.cleared d [] [.pln]) :
    Completes cmd s [] [.pln] fun e => e.out = [] ∧ d.staged e k :=
  h.completes (hd.frame.onPln _ (by simp)) ⟨hd.out, rfl⟩

variable {a : Nat} {c : PlanCmd} {h : HostCmd} {r : PlanResult}

/-- The head command of an axis set ends without motion: nothing else changes, and its completion carries the result. -/
theorem Effect.endsHead {d : Dev} (hx : Effect cmd s.dev.cleared (failHead d a r)) (hd : Silent s.dev.cleared d [] [.pln])
    (ha : armOf d a = armOf s.dev a) (hq : (armOf s.dev a).queue = [c]) (hp : s.dev.pays c h) :
    Touches cmd s (planViews ++ flightFields) [] [.pln, .host] ∧ Answers cmd s fun e => s.dev.headEnds e a h r.code := by
  have hpays : d.pays c h := Dev.pays.congr (d := s.dev) hp (hd.host_eq (by simp))
  have hsame : SameAnswer s.dev d := .of_sameBut hd.frame.of_cleared (by simp) (by simp) (by simp)
  exact ⟨hx.touches ((hd.frame.showing (by simp) (by simp)).trans (failHead_sameBut d a r)),
    hx.answers ((failHead_headEnds (ha ▸ hq) hpays r).of_same hsame (congrArg _ ha))⟩

end Effect

end Sys2Proof.Machine
end

section
/-!
SUPPORT. Planning of moves (O56): the commit a planned command stages, the longest overlap of a blend, and the outcomes of a Cartesian move
(R210, R211, R216 to R222, R227, R228, R234).
-/
namespace Sys2Proof.Machine
open RegField

/-! What planning reads of a device, and what is cleared of it, are apart. -/

section Cleared
variable (d : Dev) (a : Nat)

@[simp] theorem planReady_cleared (op : Nat) : planReady d.cleared a op = planReady d a op := rfl
@[simp] theorem badFields_cleared (c : PlanCmd) : badFields d.cleared a c = badFields d a c := rfl
@[simp] theorem limitSetOf_cleared (i : Nat) : limitSetOf d.cleared a i = limitSetOf d a i := rfl
@[simp] theorem capOf_cleared : capOf d.cleared a = capOf d a := rfl
@[simp] theorem inHedge_cleared (j : Nat) (x : F64) : inHedge d.cleared j x = inHedge d j x := rfl
@[simp] theorem jointTargets_cleared (c : PlanCmd) : jointTargets d.cleared a c = jointTargets d a c := rfl
@[simp] theorem jointPhases_cleared (c : PlanCmd) (k : F64) (ts : List (Nat × F64)) :
    jointPhases d.cleared a c k ts = jointPhases d a c k ts := rfl
@[simp] theorem jointPlan_cleared (c : PlanCmd) (prev : Option Run) (ph : PhaseFrames) (ts : List (Nat × F64)) :
    jointPlan d.cleared a c prev ph ts = jointPlan d a c prev ph ts := rfl
@[simp] theorem planClear_cleared (c : PlanCmd) (p : Plan) : planClear d.cleared a c p = planClear d a c p := rfl
@[simp] theorem withStops_cleared (segs : List (Nat × List Seg)) : withStops d.cleared a segs = withStops d a segs := rfl
@[simp] theorem blendWithin_cleared (p : Plan) : blendWithin d.cleared a p = blendWithin d a p := rfl
@[simp] theorem pointsWithin_cleared : pointsWithin d.cleared a = pointsWithin d a := rfl
@[simp] theorem pointsCapped_cleared : pointsCapped d.cleared a = pointsCapped d a := rfl
@[simp] theorem modelOf_cleared : modelOf d.cleared a = modelOf d a := rfl
@[simp] theorem cartJob_cleared (m : ArmModel) (c : PlanCmd) (prev : Option Run) : cartJob d.cleared a m c prev = cartJob d a m c prev := rfl
@[simp] theorem previewFails_cleared (m : ArmModel) (c : PlanCmd) (xs : JointPath) :
    previewFails d.cleared a m c xs = previewFails d a m c xs := rfl
@[simp] theorem cartPhases_cleared (c : PlanCmd) (k : F64) (ls : List Leg) : cartPhases d.cleared a c k ls = cartPhases d a c k ls := rfl
@[simp] theorem samples_cleared (len : Nat) : samples d.cleared len = samples d len := rfl
@[simp] theorem frameS_cleared : d.cleared.frameS = d.frameS := rfl
@[simp] theorem cartPath_cleared (j : CartJob) (ph : PhaseFrames) (ps : List Piece) (o : Nat) : j.path d.cleared ph ps o = j.path d ph ps o :=
  rfl
@[simp] theorem tooLong_cleared (j : CartJob) (k : Nat) : j.tooLong d.cleared k = j.tooLong d k := rfl
@[simp] theorem cartPlan_cleared (j : CartJob) (x : CartMotion) (o : Nat) : j.plan d.cleared x o = j.plan d x o := rfl

@[simp] theorem ikChain_cleared (m : ArmModel) (path : Nat → PathPoint) (ns : List Nat) (q : List F64) :
    ikChain d.cleared m path ns q = ikChain d m path ns q := by
  induction ns generalizing q with
  | nil => rfl
  | cons n ns ih =>
    unfold ikChain
    simp only [ih]
    rfl

@[simp] theorem jointPath_cleared (m : ArmModel) (path : Nat → PathPoint) (ns : List Nat) (q v x : List F64) :
    jointPath d.cleared m path ns q v x = jointPath d m path ns q v x := by
  cases ns with
  | nil => rfl
  | cons n ns =>
    unfold jointPath
    simp only [ikChain_cleared, frameS_cleared]

@[simp] theorem motion_cleared (j : CartJob) (k o : Nat) : j.motion d.cleared k o = j.motion d k o := by
  unfold CartJob.motion
  simp only [cartPhases_cleared, samples_cleared, cartPath_cleared, jointPath_cleared]

@[simp] theorem slowed_cleared (j : CartJob) (o lo : Nat) (ok : JointPath → Bool) : j.slowed d.cleared o lo ok = j.slowed d o lo ok := by
  unfold CartJob.slowed
  simp only [tooLong_cleared, motion_cleared]

end Cleared

/-! Commits on their way to the store. -/

theorem settled_of_noSync {c : PlanCmd} (h : syncOf c = none) (hf : atFrame c = false ∨ c.startAt.isSome = true) : settled c = true := by
  rcases hf with hf | hf <;> simp [settled, h, hf]

theorem firstFrame_free (d : Dev) {c : PlanCmd} (h : c.startAt = none) : firstFrame d c = earliest d := by rw [firstFrame, h]

/-- A command without a SYNC group is staged by itself, at its fixed frame if it has one. -/
theorem stageStart_single {d : Dev} {a : Nat} {c : PlanCmd} {track : Option (Frame3 × Nat)} (p : Plan) (flags points : Nat)
    (couples : List (Nat × Option Couple)) (hs : settled c = true) (hw : track = none ∨ waiting d a = none) (hg : syncOf c = none) :
    stageStart d a c p flags points track couples = stage d {
      fs := firstFrame d c, fixed := atFrame c
      parts := [{
        axset := a, kind := .start, couples := couples
        run := { cmd := c, start := firstFrame d c, zero := firstFrame d c, plan := p, flags := flags + if c.noBlend then 64 else 0
                 points := points, mode := if couples.isEmpty then .moving else .coupling, track := track } }] } := by
  have hgo : ¬ (!settled c ∨ (track.isSome ∧ (waiting d a).isSome)) := by rcases hw with hw | hw <;> simp [hs, hw]
  unfold stageStart
  rw [if_neg hgo]
  dsimp only
  rw [hg]

/-! Overlaps. -/

theorem longestOverlap_of_max {ok : Nat → Bool} {o top : Nat} (h0 : 0 < o) (ht : o ≤ top) (ho : ok o = true)
    (hmax : ∀ k, k ≤ top → o < k → ok k = false) : longestOverlap ok top = o := by
  induction top with
  | zero => exact absurd ht (Nat.not_le.mpr h0)
  | succ n ih =>
    unfold longestOverlap
    rcases Nat.lt_or_eq_of_le ht with h | h
    · rw [if_neg (by simp [hmax (n + 1) (Nat.le_refl _) h])]
      exact ih (Nat.lt_succ_iff.mp h) fun k hk => hmax k (Nat.le_succ_of_le hk)
    · rw [← h, if_pos ho]

theorem longestOverlap_none {ok : Nat → Bool} {top : Nat} (h : ∀ k, k ≤ top → 0 < k → ok k = false) : longestOverlap ok top = 0 := by
  induction top with
  | zero => rfl
  | succ n ih =>
    unfold longestOverlap
    rw [if_neg (by simp [h (n + 1) (Nat.le_refl _) (Nat.succ_pos n)])]
    exact ih fun k hk => h k (Nat.le_succ_of_le hk)

/-! Joint moves. -/

/-- Without a cap no plan is over it. -/
theorem planOver_uncapped {d : Dev} {a : Nat} (h : capOf d a = none) (p : Plan) (k : Nat) : planOver d a p k = f64Nat 1 := by
  rw [planOver, h]
  rfl

theorem one_le_one : f64Le (f64Nat 1) (f64Nat 1) = true := by decide

theorem planReady_queue {d : Dev} {a op : Nat} {c : PlanCmd} {prev : Option Run} (h : planReady d a op = some (c, prev)) :
    ∃ rest, (armOf d a).queue = c :: rest := by
  unfold planReady at h
  dsimp only at h
  split at h
  · cases h
  · next c' rest hq =>
    refine ⟨rest, ?_⟩
    split at h
    · cases h
    · split at h
      · split at h
        · cases h; exact hq
        · cases h
      · split at h
        · cases h; exact hq
        · cases h

theorem exec_moveJ (a : Fin 36) (s : State) : exec (.moveJ a) s = execMoveJ a s := rfl

section MoveJ
variable {d : Dev} {a : Fin 36} {c : PlanCmd} {prev : Option Run}

theorem moveJ_notReady (h : planReady d a 0x10 = none) : Effect (.moveJ a) d d := by
  refine ⟨_, exec_moveJ a, ?_⟩
  rw [h]

theorem moveJ_badFields (hr : planReady d a 0x10 = some (c, prev)) (hb : badFields d a c = true) :
    Effect (.moveJ a) d (failHead d a .tableBad) := by
  refine ⟨_, exec_moveJ a, ?_⟩
  rw [hr]
  exact if_pos hb

theorem moveJ_outsideHedge (hr : planReady d a 0x10 = some (c, prev)) (hb : badFields d a c = false)
    (hl : (limitSetOf d a c.limset).isSome = true) (ho : ∃ t ∈ jointTargets d a c, inHedge d t.1 t.2 = false) :
    Effect (.moveJ a) d (failHead d a .hedgeLimit) := by
  have ho : ((jointTargets d a c).all fun t => inHedge d t.1 t.2) = false := by
    obtain ⟨t, ht, hout⟩ := ho
    exact List.all_eq_false.mpr ⟨t, ht, by simp [hout]⟩
  obtain ⟨l, hl⟩ := Option.isSome_iff_exists.mp hl
  refine ⟨_, exec_moveJ a, ?_⟩
  rw [hr]
  simp only [hb, jointPhases, hl, Option.map_some, ho, Bool.not_false, if_true, Bool.false_eq_true, if_false]

section Planned
variable {ph : PhaseFrames} {segs : List (Nat × List Seg)} (hb : badFields d a c = false) (hcap : capOf d a = none)
  (hin : ∀ t ∈ jointTargets d a c, inHedge d t.1 t.2 = true)
  (hph : jointPhases d a c (f64Nat 1) (jointTargets d a c) = some ph)
include hb hcap hin hph

theorem moveJ_starts (hr : planReady d a 0x10 = some (c, none))
    (hclear : planClear d a c (jointPlan d a c none ph (jointTargets d a c)) = true)
    (hsegs : withStops d a (jointPlan d a c none ph (jointTargets d a c)).segs = some segs) :
    Effect (.moveJ a) d (stageStart d a c { jointPlan d a c none ph (jointTargets d a c) with segs := segs } 0 0 none []) := by
  have hin : ((jointTargets d a c).all fun t => inHedge d t.1 t.2) = true := List.all_eq_true.mpr hin
  refine ⟨_, exec_moveJ a, ?_⟩
  rw [hr]
  simp only [hb, hph, planOver_uncapped hcap, Option.getD_some, hin, hclear, hsegs, Bool.not_true, Bool.false_eq_true, if_false]

/-- Of the plan `q` after run `r`, the blend at the longest overlap that keeps the limits, if it is clear of the zones. -/
theorem moveJ_blends {r : Run} (hr : planReady d a 0x10 = some (c, some r))
    (hclear : planClear d a c (jointPlan d a c (some r) ph (jointTargets d a c)) = true) :
    Effect (.moveJ a) d (
      let blend := fun (o : Nat) => blendJoints r.plan (jointPlan d a c (some r) ph (jointTargets d a c)) o c.rsn
      let o := longestOverlap (fun o => blendWithin d a (blend o)) (r.plan.len - r.plan.decel)
      blendOrDeny d a c r o (blend o) (planClear d a c (blend o)) 0 0) := by
  have hin : ((jointTargets d a c).all fun t => inHedge d t.1 t.2) = true := List.all_eq_true.mpr hin
  refine ⟨_, exec_moveJ a, ?_⟩
  rw [hr]
  simp only [hb, hph, planOver_uncapped hcap, Option.getD_some, hin, hclear, Bool.not_true, Bool.false_eq_true, if_false, one_le_one,
    Bool.and_true]

end Planned

end MoveJ

theorem blendOrDeny_none {d : Dev} {a : Nat} {c : PlanCmd} {r : Run} (b : Plan) (ok : Bool) (flags points : Nat) :
    blendOrDeny d a c r 0 b ok flags points = denyBlend d a := by
  unfold blendOrDeny
  rw [if_pos (.inl rfl)]

/-- A head command without a blend is marked so. -/
theorem denyBlend_head {d : Dev} {a : Nat} {c : PlanCmd} {rest : List PlanCmd} (hq : (armOf d a).queue = c :: rest) :
    (armOf (denyBlend d a) a).queue.head? = some { c with noBlend := true } := by
  rw [denyBlend, armOf_onArm_same, hq]
  rfl

theorem blendOrDeny_staged {d : Dev} {a : Nat} {c : PlanCmd} {r : Run} {o : Nat} {b : Plan} {segs : List (Nat × List Seg)}
    (flags points : Nat) (h0 : 0 < o) (hf : atFrame c = true → o = r.plan.len - r.plan.decel) (hs : withStops d a b.segs = some segs) :
    blendOrDeny d a c r o b true flags points =
      stageBlend d a c (frameAdd r.zero (r.plan.len - o)) { b with segs := segs } flags points := by
  have hgo : ¬ (o = 0 ∨ !true ∨ (atFrame c ∧ o ≠ r.plan.len - r.plan.decel)) := by
    rintro (h | h | ⟨h1, h2⟩)
    · omega
    · cases h
    · exact h2 (hf h1)
  unfold blendOrDeny
  rw [if_neg hgo, hs]

/-! Cartesian moves. -/

/-- MOVE_L, MOVE_C and MOVE_P are planned alike, each by its opcode. -/
theorem cart_effect {a : Fin 16} {cmd : Instr} {op : Nat}
    (h : (cmd = .moveL a ∧ op = 0x11) ∨ (cmd = .moveC a ∧ op = 0x12) ∨ (cmd = .moveP a ∧ op = 0x13)) (d : Dev) :
    Effect cmd d (planCart d a op) := by
  rcases h with ⟨rfl, rfl⟩ | ⟨rfl, rfl⟩ | ⟨rfl, rfl⟩ <;> exact ⟨fun d => planCart d a _, fun _ => rfl, rfl⟩

theorem planCart_noModel {d : Dev} {a : Nat} (op : Nat) (h : modelOf d a = none) : planCart d a op = d := by
  unfold planCart
  rw [h]

/-- Without a command to plan, a run of another opcode, outside the tracking frame or no longer moving is not predicted again. -/
theorem planCart_notReady {d : Dev} {a op : Nat} (hr : planReady d a op = none)
    (h : (armOf d a).run.all (fun r => r.cmd.opcode != op || !tracks r.cmd || r.mode != .moving) = true) : planCart d a op = d := by
  unfold planCart
  split
  · rfl
  · rw [hr]
    cases hrun : (armOf d a).run with
    | none => rfl
    | some r =>
      have hstay : ¬ (r.cmd.opcode = op ∧ tracks r.cmd ∧ r.mode = .moving) := by
        rintro ⟨h1, h2, h3⟩
        simp [hrun, h1, h2, h3] at h
      exact if_neg hstay

section Cart
variable {d : Dev} {a op : Nat} {m : ArmModel} {c : PlanCmd} (hm : modelOf d a = some m) (hr : planReady d a op = some (c, none))
include hm hr

theorem planCart_badFields (hb : badFields d a c = true) : planCart d a op = failHead d a .tableBad := by
  unfold planCart
  simp only [hm, hr, hb, if_true]

variable (hb : badFields d a c = false)
include hb

theorem planCart_tooLong (ht : (cartJob d a m c none).1.tooLong d 0 = true) : planCart d a op = failHead d a .pathTooLong := by
  unfold planCart
  simp only [hm, hr, hb, Bool.false_eq_true, if_false]
  simp only [ht, if_true]

variable (ht : (cartJob d a m c none).1.tooLong d 0 = false)
include ht

theorem planCart_otherBranch (hc : confOk m c (cartJob d a m c none).1.ends = false) : planCart d a op = failHead d a .ikFail := by
  unfold planCart
  simp only [hm, hr, hb, Bool.false_eq_true, if_false]
  simp only [ht, hc, Bool.not_false, Bool.false_eq_true, if_true, if_false]

variable (hc : confOk m c (cartJob d a m c none).1.ends = true)
include hc

theorem planCart_unsolved (hx : (cartJob d a m c none).1.motion d 0 0 = none) : planCart d a op = failHead d a .ikFail := by
  have hx : CartJob.motion { (cartJob d a m c none).1 with prev := none } d 0 0 = none := hx
  unfold planCart
  simp only [hm, hr, hb, Bool.false_eq_true, if_false]
  simp only [ht, hc, hx, Bool.not_true, Bool.false_eq_true, if_false]

variable {l : LimitSet} {free : CartMotion} (hl : limitSetOf d a c.limset = some l) (hx : (cartJob d a m c none).1.motion d 0 0 = some free)
include hl hx

theorem planCart_previewEnds {r : PlanResult} (hp : previewFails d a m c free.xs = some r) :
    planCart d a op = failHead (countIk d free.xs.length) a r := by
  have hx : CartJob.motion { (cartJob d a m c none).1 with prev := none } d 0 0 = some free := hx
  unfold planCart
  simp only [hm, hr, hb, Bool.false_eq_true, if_false]
  simp only [ht, hc, hx, hl, hp, Bool.not_true, Bool.false_eq_true, if_false]

/-- The number of the smallest factor that keeps the joint limits, and the one from there on that keeps the caps too (R218, R226). -/
def CartJob.slow (j : CartJob) (d : Dev) (a : Nat) : Nat := j.slowed d 0 0 (pointsWithin d a)
def CartJob.slowCapped (j : CartJob) (d : Dev) (a : Nat) : Nat :=
  j.slowed d 0 (j.slow d a) fun xs => pointsWithin d a xs && pointsCapped d a xs

omit hm hr hb ht hc hl hx in
@[simp] theorem slow_cleared (j : CartJob) : j.slow d.cleared a = j.slow d a := by
  rw [CartJob.slow, CartJob.slow, slowed_cleared, pointsWithin_cleared]

omit hm hr hb ht hc hl hx in
@[simp] theorem slowCapped_cleared (j : CartJob) : j.slowCapped d.cleared a = j.slowCapped d a := by
  rw [CartJob.slowCapped, CartJob.slowCapped, slowed_cleared, slow_cleared, pointsWithin_cleared, pointsCapped_cleared]

theorem planCart_starts {x : CartMotion} {segs : List (Nat × List Seg)} (hp : previewFails d a m c free.xs = none)
    (hk : (cartJob d a m c none).1.tooLong d ((cartJob d a m c none).1.slowCapped d a) = false)
    (hkx : (cartJob d a m c none).1.motion d ((cartJob d a m c none).1.slowCapped d a) 0 = some x)
    (hs : withStops d a ((cartJob d a m c none).1.plan d x 0).segs = some segs) :
    planCart d a op = stageStart (countIk d x.xs.length) a c { (cartJob d a m c none).1.plan d x 0 with segs := segs }
      (if (cartJob d a m c none).1.slow d a = 0 then 0 else 32) x.xs.length
      (if tracks c then some ((cartJob d a m c none).2, x.ph.accel) else none) [] := by
  generalize hj : cartJob d a m c none = js at *
  obtain ⟨job, start⟩ := js
  have hlone : ({ job with prev := none } : CartJob) = job := by
    have : job.prev = none := congrArg (fun q => q.1.prev) hj.symm
    cases job
    simp_all
  have hs' : withStops (countIk d x.xs.length) a (job.plan (countIk d x.xs.length) x 0).segs = some segs := hs
  unfold CartJob.slowCapped CartJob.slow at hk hkx
  unfold planCart
  simp only [hm, hr, hb, hj, hlone, ht, hc, hx, hl, hp, hk, hkx, hs', Bool.not_true, Bool.false_eq_true, if_false]
  rfl

end Cart

end Sys2Proof.Machine
end

section
/-!
SUPPORT. Planning of moves settled (O56), clause by clause.
-/
namespace Sys2Proof.Machine
open RegField

section Moves
variable {s : State} {c : PlanCmd}

/-- A move on the device as its command found it ends with its head command. -/
theorem endsHead_here {cmd : Instr} {a : Nat} {h : HostCmd} {r : PlanResult} (hx : Effect cmd s.dev.cleared (failHead s.dev.cleared a r))
    (hq : (armOf s.dev a).queue = [c]) (hp : s.dev.pays c h) :
    Touches cmd s (planViews ++ flightFields) [] [.pln, .host] ∧ Answers cmd s fun e => s.dev.headEnds e a h r.code :=
  hx.endsHead (.refl _ _ _) rfl hq hp

/-- A command staged as a start, from the device as it was found. -/
theorem stages_start {cmd : Instr} {a : Nat} {d : Dev} {p : Plan} {flags points : Nat} {track : Option (Frame3 × Nat)}
    {couples : List (Nat × Option Couple)} (hx : Effect cmd s.dev.cleared (stageStart d a c p flags points track couples))
    (hd : Silent s.dev.cleared d [] [.pln]) (hs : settled c = true) (hw : track = none ∨ waiting d a = none) (hg : syncOf c = none) :
    Completes cmd s [] [.pln] fun e => e.out = [] ∧ d.staged e {
      fs := firstFrame d c, fixed := atFrame c
      parts := [{
        axset := a, kind := .start, couples := couples
        run := { cmd := c, start := firstFrame d c, zero := firstFrame d c, plan := p, flags := flags + if c.noBlend then 64 else 0
                 points := points, mode := if couples.isEmpty then .moving else .coupling, track := track } }] } :=
  (hx.congr (stageStart_single p flags points couples hs hw hg)).stages hd

/-- A joint move that starts at rest is staged for the earliest frame. -/
theorem moveJ_start_staged {a : Fin 36} {ph : PhaseFrames} {segs : List (Nat × List Seg)} (hr : planReady s.dev a 0x10 = some (c, none))
    (hb : badFields s.dev a c = false) (hg : syncOf c = none) (hst : c.startAt = none) (hf : atFrame c = false) (hcap : capOf s.dev a = none)
    (hin : ∀ t ∈ jointTargets s.dev a c, inHedge s.dev t.1 t.2 = true)
    (hph : jointPhases s.dev a c (f64Nat 1) (jointTargets s.dev a c) = some ph)
    (hclear : planClear s.dev a c (jointPlan s.dev a c none ph (jointTargets s.dev a c)) = true)
    (hsegs : withStops s.dev a (jointPlan s.dev a c none ph (jointTargets s.dev a c)).segs = some segs) :
    Completes (.moveJ a) s [] [.pln] fun e => e.out = [] ∧ s.dev.staged e {
      fs := earliest s.dev
      parts := [{
        axset := a, kind := .start
        run := { cmd := c, start := earliest s.dev, zero := earliest s.dev, flags := if c.noBlend then 64 else 0
                 plan := { jointPlan s.dev a c none ph (jointTargets s.dev a c) with segs := segs } } }] } := by
  have hx := moveJ_starts (d := s.dev.cleared) (by rwa [badFields_cleared]) (by rwa [capOf_cleared]) (by simpa only [jointTargets_cleared])
    (by rwa [jointTargets_cleared, jointPhases_cleared]) (by rwa [planReady_cleared])
    (by rwa [jointTargets_cleared, jointPlan_cleared, planClear_cleared])
    (by rwa [jointTargets_cleared, jointPlan_cleared, withStops_cleared])
  rw [jointTargets_cleared, jointPlan_cleared] at hx
  have h := stages_start hx (.refl _ _ _) (settled_of_noSync hg (.inl hf)) (.inl rfl) hg
  rw [firstFrame_free _ hst, hf, Nat.zero_add] at h
  exact h

theorem moveJ_ends {a : Fin 36} {h : HostCmd} (hr : planReady s.dev a 0x10 = some (c, none)) (hq : (armOf s.dev a).queue = [c])
    (hp : s.dev.pays c h) :
    (badFields s.dev a c = true → Touches (.moveJ a) s (planViews ++ flightFields) [] [.pln, .host] ∧
      Answers (.moveJ a) s fun e => s.dev.headEnds e a h 0x10) ∧
    (badFields s.dev a c = false → (limitSetOf s.dev a c.limset).isSome = true → (∃ t ∈ jointTargets s.dev a c, inHedge s.dev t.1 t.2 = false) →
      Touches (.moveJ a) s (planViews ++ flightFields) [] [.pln, .host] ∧ Answers (.moveJ a) s fun e => s.dev.headEnds e a h 5) := by
  have hr : planReady s.dev.cleared a 0x10 = some (c, none) := by rwa [planReady_cleared]
  rw [← badFields_cleared, ← limitSetOf_cleared]
  exact ⟨fun hb => endsHead_here (r := .tableBad) (moveJ_badFields hr hb) hq hp,
    fun hb hl ho => endsHead_here (r := .hedgeLimit) (moveJ_outsideHedge hr hb hl
      (by simpa only [jointTargets_cleared, inHedge_cleared] using ho)) hq hp⟩

section Blended
variable {a : Fin 36} {r : Run} {ph : PhaseFrames}

/-- The blend of a joint move after run `r` at an overlap. -/
def jointBlend (d : Dev) (a : Nat) (c : PlanCmd) (r : Run) (ph : PhaseFrames) (o : Nat) : Plan :=
  blendJoints r.plan (jointPlan d a c (some r) ph (jointTargets d a c)) o c.rsn

variable (hr : planReady s.dev a 0x10 = some (c, some r)) (hb : badFields s.dev a c = false) (hcap : capOf s.dev a = none)
  (hin : ∀ t ∈ jointTargets s.dev a c, inHedge s.dev t.1 t.2 = true)
  (hph : jointPhases s.dev a c (f64Nat 1) (jointTargets s.dev a c) = some ph)
  (hclear : planClear s.dev a c (jointPlan s.dev a c (some r) ph (jointTargets s.dev a c)) = true)
include hr hb hcap hin hph hclear

theorem moveJ_blend_effect {o : Nat}
    (ho : longestOverlap (fun o => blendWithin s.dev a (jointBlend s.dev a c r ph o)) (r.plan.len - r.plan.decel) = o) :
    Effect (.moveJ a) s.dev.cleared
      (blendOrDeny s.dev.cleared a c r o (jointBlend s.dev a c r ph o) (planClear s.dev a c (jointBlend s.dev a c r ph o)) 0 0) := by
  subst ho
  have hx := moveJ_blends (d := s.dev.cleared) (by rwa [badFields_cleared]) (by rwa [capOf_cleared]) (by simpa only [jointTargets_cleared])
    (by rwa [jointTargets_cleared, jointPhases_cleared]) (by rwa [planReady_cleared])
    (by rwa [jointTargets_cleared, jointPlan_cleared, planClear_cleared])
  simpa only [jointBlend, jointTargets_cleared, jointPlan_cleared, planClear_cleared, blendWithin_cleared] using hx

theorem moveJ_blend_staged {o : Nat} (h0 : 0 < o) (ht : o ≤ r.plan.len - r.plan.decel)
    (hw : blendWithin s.dev a (jointBlend s.dev a c r ph o) = true)
    (hmax : ∀ k, k ≤ r.plan.len - r.plan.decel → o < k → blendWithin s.dev a (jointBlend s.dev a c r ph k) = false)
    (hf : atFrame c = true → o = r.plan.len - r.plan.decel) (hcl : planClear s.dev a c (jointBlend s.dev a c r ph o) = true)
    {segs : List (Nat × List Seg)} (hsegs : withStops s.dev a (jointBlend s.dev a c r ph o).segs = some segs) :
    Completes (.moveJ a) s [] [.pln] fun e => e.out = [] ∧ s.dev.staged e {
      fs := frameAdd r.zero (r.plan.len - o), fixed := true
      parts := [{
        axset := a, kind := .blend
        run := { cmd := c, start := frameAdd r.zero (r.plan.len - o), zero := frameAdd r.zero (r.plan.len - o)
                 plan := { jointBlend s.dev a c r ph o with segs := segs } } }] } := by
  have hx := moveJ_blend_effect hr hb hcap hin hph hclear (longestOverlap_of_max h0 ht hw hmax)
  rw [hcl] at hx
  exact (hx.congr (blendOrDeny_staged 0 0 h0 hf (by rwa [withStops_cleared]))).stages (.refl _ _ _)

theorem moveJ_blend_denied (hnone : ∀ k, k ≤ r.plan.len - r.plan.decel → 0 < k → blendWithin s.dev a (jointBlend s.dev a c r ph k) = false) :
    Completes (.moveJ a) s [] [.pln] fun e => e.out = [] ∧ e.pln = { s.dev.pln with arms := e.pln.arms } ∧
      (armOf e a).queue.head? = some { c with noBlend := true } := by
  have hx := moveJ_blend_effect hr hb hcap hin hph hclear (longestOverlap_none hnone)
  obtain ⟨rest, hq⟩ := planReady_queue hr
  exact (hx.congr (blendOrDeny_none _ _ 0 0)).completes ((SameBut.refl _ _ _ _).onArm _ _ (by simp))
    ⟨rfl, rfl, denyBlend_head (d := s.dev.cleared) hq⟩

end Blended

/-! Cartesian moves. -/

section CartMoves
variable {a : Fin 16} {m : ArmModel} {cmd : Instr} {op : Nat}

theorem cart_plansNothing (hcmd : (cmd = .moveL a ∧ op = 0x11) ∨ (cmd = .moveC a ∧ op = 0x12) ∨ (cmd = .moveP a ∧ op = 0x13))
    (h : modelOf s.dev a = none ∨ (planReady s.dev a op = none ∧
      (armOf s.dev a).run.all (fun r => r.cmd.opcode != op || !tracks r.cmd || r.mode != .moving) = true)) :
    Completes cmd s [] [] fun e => e.out = [] := by
  have hx := cart_effect hcmd s.dev.cleared
  rcases h with h | ⟨hr, h⟩
  · exact (hx.congr (planCart_noModel op (by rwa [modelOf_cleared]))).unchanged
  · exact (hx.congr (planCart_notReady (by rwa [planReady_cleared]) (by rwa [armOf_cleared]))).unchanged

variable (hm : modelOf s.dev a = some m) (hr : planReady s.dev a op = some (c, none))
  (hx : Effect cmd s.dev.cleared (planCart s.dev.cleared a op))
include hm hr hx

/-- A Cartesian move without a run before it that fails ends with its result, whichever step of its planning finds so. -/
theorem cart_ends {h : HostCmd} (hq : (armOf s.dev a).queue = [c]) (hp : s.dev.pays c h) :
    let job := (cartJob s.dev.cleared a m c none).1
    let ended := fun (code : Nat) => Touches cmd s (planViews ++ flightFields) [] [.pln, .host] ∧ Answers cmd s fun e => s.dev.headEnds e a h code
    (badFields s.dev a c = true → ended 0x10) ∧
    (badFields s.dev a c = false → job.tooLong s.dev 0 = true → ended 0xA) ∧
    (badFields s.dev a c = false → job.tooLong s.dev 0 = false → confOk m c job.ends = false ∨ (job.motion s.dev 0 0).isNone = true → ended 4) ∧
    (badFields s.dev a c = false → job.tooLong s.dev 0 = false → confOk m c job.ends = true → (limitSetOf s.dev a c.limset).isSome = true →
      ∀ x, job.motion s.dev 0 0 = some x → ∀ r, previewFails s.dev a m c x.xs = some r → ended r.code) := by
  intro job ended
  have hend (r : PlanResult) (hf : planCart s.dev.cleared a op = failHead s.dev.cleared a r) : ended r.code := endsHead_here (hx.congr hf) hq hp
  rw [← modelOf_cleared] at hm
  rw [← planReady_cleared] at hr
  rw [← badFields_cleared, ← limitSetOf_cleared, ← tooLong_cleared, ← motion_cleared]
  refine ⟨fun hb => hend .tableBad (planCart_badFields hm hr hb), fun hb ht => hend .pathTooLong (planCart_tooLong hm hr hb ht),
    fun hb ht hc => ?_, fun hb ht hc hl x hmo r hf => ?_⟩
  · by_cases hc' : confOk m c job.ends = false
    · exact hend .ikFail (planCart_otherBranch hm hr hb ht hc')
    · have hmo := Option.isNone_iff_eq_none.mp (hc.resolve_left hc')
      exact hend .ikFail (planCart_unsolved hm hr hb ht (Bool.eq_true_of_not_eq_false hc') hmo)
  · obtain ⟨l, hl⟩ := Option.isSome_iff_exists.mp hl
    rw [← previewFails_cleared] at hf
    exact (hx.congr (planCart_previewEnds hm hr hb ht hc hl hmo hf)).endsHead ((Silent.refl _ _ _).onPln _ (by simp)) rfl hq hp

theorem cart_start_staged (hb : badFields s.dev a c = false) (hg : syncOf c = none) (hst : c.startAt = none) (hf : atFrame c = false)
    (hw : waiting s.dev a = none) (ht : (cartJob s.dev a m c none).1.tooLong s.dev 0 = false)
    (hc : confOk m c (cartJob s.dev a m c none).1.ends = true) (hl : (limitSetOf s.dev a c.limset).isSome = true) {free : CartMotion}
    (hfree : (cartJob s.dev a m c none).1.motion s.dev 0 0 = some free) (hpre : previewFails s.dev a m c free.xs = none)
    (hk : (cartJob s.dev a m c none).1.tooLong s.dev ((cartJob s.dev a m c none).1.slowCapped s.dev a) = false) {x : CartMotion}
    (hkx : (cartJob s.dev a m c none).1.motion s.dev ((cartJob s.dev a m c none).1.slowCapped s.dev a) 0 = some x)
    {segs : List (Nat × List Seg)} (hsegs : withStops s.dev a ((cartJob s.dev a m c none).1.plan s.dev x 0).segs = some segs) :
    Completes cmd s [] [.pln] fun e => e.out = [] ∧ (countIk s.dev x.xs.length).staged e {
      fs := earliest s.dev
      parts := [{
        axset := a, kind := .start
        run := { cmd := c, start := earliest s.dev, zero := earliest s.dev, points := x.xs.length
                 flags := (if (cartJob s.dev a m c none).1.slow s.dev a = 0 then 0 else 32) + if c.noBlend then 64 else 0
                 plan := { (cartJob s.dev a m c none).1.plan s.dev x 0 with segs := segs }
                 track := if tracks c then some ((cartJob s.dev a m c none).2, x.ph.accel) else none } }] } := by
  obtain ⟨l, hl⟩ := Option.isSome_iff_exists.mp hl
  rw [← slowCapped_cleared] at hk hkx
  rw [← tooLong_cleared] at ht hk
  rw [← motion_cleared] at hfree hkx
  rw [← previewFails_cleared] at hpre
  rw [← cartPlan_cleared, ← withStops_cleared] at hsegs
  rw [← modelOf_cleared] at hm
  rw [← planReady_cleared] at hr
  rw [← badFields_cleared] at hb
  rw [← limitSetOf_cleared] at hl
  rw [← cartJob_cleared] at *
  have hs := planCart_starts hm hr hb ht hc hl hfree hpre hk hkx hsegs
  rw [cartPlan_cleared, slow_cleared] at hs
  have h := stages_start (hx.congr hs) ((Silent.refl _ _ _).onPln _ (by simp)) (settled_of_noSync hg (.inl hf)) (.inr hw) hg
  rw [firstFrame_free _ hst, hf] at h
  exact h

end CartMoves

end Moves

/-- Settles O56: each move is planned by its own branches (`moveJ_start_staged`, `moveJ_blend_staged`, `cart_start_staged` and their
failures); what it stages is all it changes, and a head command that ends changes the queue, its completion and what shows them. -/
theorem plannerMoves : Obligations.PlannerMoves := by
  refine ⟨fun s a hr => (moveJ_notReady (by rwa [planReady_cleared])).unchanged,
    fun s a c hr hb hg hst hf hcap hin ph hph hclear segs hsegs => moveJ_start_staged hr hb hg hst hf hcap hin hph hclear hsegs,
    fun s a c h hr hq hp => moveJ_ends hr hq hp, ?_, fun s a cmd op hcmd h => cart_plansNothing hcmd h, ?_⟩
  · intro s a c r hr hb hcap hin ph hph plan blend top hclear
    exact ⟨fun o h0 ht hw hmax hf hcl segs hsegs => moveJ_blend_staged hr hb hcap hin hph hclear h0 ht hw hmax hf hcl hsegs,
      fun hnone => moveJ_blend_denied hr hb hcap hin hph hclear hnone⟩
  · intro s a m cmd op c hm hcmd hr job ended
    have hx := cart_effect hcmd s.dev.cleared
    exact ⟨fun h hq hp => cart_ends hm hr hx hq hp, fun hb hg hst hf hw ht hc hl free hfree hpre hk x hkx segs hsegs =>
      cart_start_staged hm hr hx hb hg hst hf hw ht hc hl hfree hpre hk hkx hsegs⟩


end Sys2Proof.Machine
end

section
/-!
SUPPORT. Gearing and camming (O57): how GEAR_IN, GEAR_OUT, CAM_IN and CAM_OUT start, and how they end without motion (R237, R239, R241,
R242).
-/
namespace Sys2Proof.Machine
open RegField

section Cleared
variable (d : Dev)

@[simp] theorem coupleSlot_cleared (a : Nat) (c : PlanCmd) : coupleSlot d.cleared a c = coupleSlot d a c := rfl
@[simp] theorem slotAtRest_cleared (j : Nat) : slotAtRest d.cleared j = slotAtRest d j := rfl
@[simp] theorem imageAtRest_cleared (m : Nat) : imageAtRest d.cleared m = imageAtRest d m := rfl
@[simp] theorem camOf_cleared (i : Nat) : camOf d.cleared i = camOf d i := rfl

end Cleared

/-- The coupling a GEAR_IN command asks for. -/
def gearCouple (a : Nat) (c : PlanCmd) : Couple :=
  { axset := a, master := bodyAt c.body 0x10, num := bodyInt c.body 0x14, den := body32 c.body 0x18, len := body32 c.body 0x1C }

/-- The coupling a CAM_IN command asks for. -/
def camCouple (a : Nat) (c : PlanCmd) : Couple :=
  { axset := a, master := bodyAt c.body 0x10, cam := some (bodyAt c.body 0x12), mark := body32 c.body 0x14
    scale := f64OfRatio (bodyInt c.body 0x18) 65536, offset := bodyInt c.body 0x1C }

section Couplings
variable {d : Dev} {a : Fin 36} {c : PlanCmd} {j : Nat} {x : Couple}

theorem exec_gearIn (a : Fin 36) (s : State) : exec (.gearIn a) s = execGearIn a s := rfl
theorem exec_gearOut (a : Fin 36) (s : State) : exec (.gearOut a) s = execGearOut a s := rfl
theorem exec_camIn (a : Fin 36) (s : State) : exec (.camIn a) s = execCamIn a s := rfl
theorem exec_camOut (a : Fin 36) (s : State) : exec (.camOut a) s = execCamOut a s := rfl

theorem gearIn_notReady (h : planReady d a 0x18 = none) : Effect (.gearIn a) d d := ⟨_, exec_gearIn a, by rw [h]⟩
theorem gearOut_notReady (h : planReady d a 0x19 = none) : Effect (.gearOut a) d d := ⟨_, exec_gearOut a, by rw [h]⟩
theorem camIn_notReady (h : planReady d a 0x1A = none) : Effect (.camIn a) d d := ⟨_, exec_camIn a, by rw [h]⟩
theorem camOut_notReady (h : planReady d a 0x1B = none) : Effect (.camOut a) d d := ⟨_, exec_camOut a, by rw [h]⟩

section Follower
variable (hj : coupleSlot d a c = some j) (hb : badFields d a c = false)
include hj hb

theorem gearIn_starts (hr : planReady d a 0x18 = some (c, none)) (h : slotAtRest d j = true) :
    Effect (.gearIn a) d (startCouple d a c j (gearCouple a c)) := by
  refine ⟨_, exec_gearIn a, ?_⟩
  simp only [hr, hb, hj, h, Bool.not_true, Bool.false_eq_true, if_false, gearCouple]

theorem gearIn_moving (hr : planReady d a 0x18 = some (c, none)) (h : slotAtRest d j = false) :
    Effect (.gearIn a) d (failHead d a .notAtRest) := by
  refine ⟨_, exec_gearIn a, ?_⟩
  simp only [hr, hb, hj, h, Bool.not_false, Bool.false_eq_true, if_true, if_false]

theorem gearOut_starts (hr : planReady d a 0x19 = some (c, none)) (hx : coupleOf d j = some x) (hc : x.cam = none)
    (hm : imageAtRest d x.master = false) :
    Effect (.gearOut a) d (startCouple d a c j { x with leaving := some (body32 c.body 0x1C), outcome := none }) := by
  refine ⟨_, exec_gearOut a, ?_⟩
  simp only [hr, hb, hj, hx, hc, hm, Option.bind_some, Option.map_some, Option.isSome_none, Bool.false_eq_true, if_false]

theorem gearOut_uncoupled (hr : planReady d a 0x19 = some (c, none)) (hx : coupleOf d j = none) :
    Effect (.gearOut a) d (failHead d a .ok) := by
  refine ⟨_, exec_gearOut a, ?_⟩
  simp only [hr, hb, hj, hx, Option.bind_some, Option.map_none, Bool.false_eq_true, if_false]

theorem gearOut_atRest (hr : planReady d a 0x19 = some (c, none)) (hx : coupleOf d j = some x) (hc : x.cam = none)
    (hm : imageAtRest d x.master = true) : Effect (.gearOut a) d (endCouple d a j) := by
  refine ⟨_, exec_gearOut a, ?_⟩
  simp only [hr, hb, hj, hx, hc, hm, Option.bind_some, Option.map_some, Option.isSome_none, Bool.false_eq_true, if_true, if_false]

theorem camIn_starts (hr : planReady d a 0x1A = some (c, none)) (hn : (bodyAt c.body 0x13).testBit 0 = false) (h : slotAtRest d j = true) :
    Effect (.camIn a) d (startCouple d a c j (camCouple a c)) := by
  refine ⟨_, exec_camIn a, ?_⟩
  simp only [hr, hb, hj, hn, h, Bool.not_true, Bool.false_eq_true, if_false, camCouple]

theorem camIn_switches {i : Nat} {l f : CamPoint} (hr : planReady d a 0x1A = some (c, none)) (hn : (bodyAt c.body 0x13).testBit 0 = true)
    (hx : coupleOf d j = some x) (hc : x.cam = some i) (hp : x.phase = .inForce) (hl : (camOf d i).getLast? = some l)
    (hf : (camOf d (bodyAt c.body 0x12)).head? = some f) (hy : l.y = f.y) (hy1 : l.y1 = f.y1) (hy2 : l.y2 = f.y2) :
    Effect (.camIn a) d (startCouple d a c j
      { x with nextCam := some (bodyAt c.body 0x12, f64OfRatio (bodyInt c.body 0x18) 65536, bodyInt c.body 0x1C), outcome := none }) := by
  refine ⟨_, exec_camIn a, ?_⟩
  simp only [hr, hb, hj, hn, hx, hc, hp, hl, hf, hy, hy1, hy2, Option.bind_some, and_self, Bool.false_eq_true, if_true, if_false]

theorem camIn_uncoupled (hr : planReady d a 0x1A = some (c, none)) (hn : (bodyAt c.body 0x13).testBit 0 = true) (hx : coupleOf d j = none) :
    Effect (.camIn a) d (failHead d a .camMismatch) := by
  refine ⟨_, exec_camIn a, ?_⟩
  simp only [hr, hb, hj, hn, hx, Bool.false_eq_true, if_true, if_false]

theorem camOut_starts {i : Nat} (hr : planReady d a 0x1B = some (c, none)) (hx : coupleOf d j = some x) (hc : x.cam = some i)
    (hm : imageAtRest d x.master = false) :
    Effect (.camOut a) d (startCouple d a c j { x with leaving := some 0, mark := body32 c.body 0x14, outcome := none }) := by
  refine ⟨_, exec_camOut a, ?_⟩
  simp only [hr, hb, hj, hx, hc, hm, Option.bind_some, Option.map_some, Option.isNone_some, Bool.false_eq_true, if_false]

theorem camOut_uncoupled (hr : planReady d a 0x1B = some (c, none)) (hx : coupleOf d j = none) :
    Effect (.camOut a) d (failHead d a .ok) := by
  refine ⟨_, exec_camOut a, ?_⟩
  simp only [hr, hb, hj, hx, Option.bind_some, Option.map_none, Bool.false_eq_true, if_false]

theorem camOut_atRest (hr : planReady d a 0x1B = some (c, none)) (hx : coupleOf d j = some x) (hc : x.cam ≠ none)
    (hm : imageAtRest d x.master = true) : Effect (.camOut a) d (endCouple d a j) := by
  refine ⟨_, exec_camOut a, ?_⟩
  simp only [hr, hb, hj, hx, Option.isNone_eq_false_iff.mpr (Option.isSome_iff_ne_none.mpr hc), hm, Option.bind_some, Option.map_some,
    Bool.false_eq_true, if_true, if_false]

end Follower

end Couplings

/-- A device whose slot `j` has lost its coupling. -/
def uncoupled (d : Dev) (j : Nat) : Dev := onPln d fun p => { p with couples := SMap.set none p.couples j none }

section Started
variable {s : State} {a : Nat} {c : PlanCmd} {cmd : Instr} {j : Nat}

/-- A coupling command is staged with the descriptor it starts. -/
theorem stages_couple {x : Couple} (hx : Effect cmd s.dev.cleared (startCouple s.dev.cleared a c j x)) (hg : syncOf c = none)
    (hst : c.startAt = none) (hf : atFrame c = false) :
    Completes cmd s [] [.pln] fun e => e.out = [] ∧ s.dev.staged e {
      fs := earliest s.dev
      parts := [{
        axset := a, kind := .start, couples := [(j, some x)]
        run := { cmd := c, start := earliest s.dev, zero := earliest s.dev, mode := .coupling, flags := if c.noBlend then 64 else 0 } }] } := by
  have h := stages_start hx (.refl _ _ _) (settled_of_noSync hg (.inl hf)) (.inl rfl) hg
  rw [firstFrame_free _ hst, hf, Nat.zero_add] at h
  exact h

variable {h : HostCmd} (hq : (armOf s.dev a).queue = [c]) (hp : s.dev.pays c h)
include hq hp

theorem answers_headEnds {r : PlanResult} (hx : Effect cmd s.dev.cleared (failHead s.dev.cleared a r)) :
    Answers cmd s fun e => s.dev.headEnds e a h r.code := (endsHead_here hx hq hp).2

/-- A coupling whose master is lost and at rest ends at once, and with it its command. -/
theorem answers_endCouple (hx : Effect cmd s.dev.cleared (endCouple s.dev.cleared a j)) :
    Answers cmd s fun e => s.dev.headEnds e a h 0 ∧ coupleOf e j = none := by
  have hd : Silent s.dev.cleared (uncoupled s.dev.cleared j) [] [.pln] := (Silent.refl _ _ _).onPln _ (by simp)
  have hq : (armOf (uncoupled s.dev.cleared j) a).queue = [c] := hq
  have hends : (uncoupled s.dev.cleared j).headEnds (endCouple s.dev.cleared a j) a h 0 :=
    failHead_headEnds hq (Dev.pays.congr (d := s.dev) hp (hd.host_eq (by simp))) .ok
  have hsame : SameAnswer s.dev (uncoupled s.dev.cleared j) := .of_sameBut hd.frame.of_cleared (by simp) (by simp) (by simp)
  refine hx.answers ⟨hends.of_same hsame rfl, ?_⟩
  have hpln := failHead_pln hq .ok
  rw [coupleOf, endCouple, ← uncoupled, hpln]
  exact (SMap.get_set_same none s.dev.pln.couples j (none : Option Couple) :)

end Started

end Sys2Proof.Machine
end

section
/-!
SUPPORT. Zones, synchronised and timed starts, and commands at their end frames (O57; R212, R213, R235, R236).
-/
namespace Sys2Proof.Machine
open RegField

section Cleared
variable (d : Dev) (a : Nat)

@[simp] theorem waiting_cleared : waiting d.cleared a = waiting d a := rfl
@[simp] theorem syncHeads_cleared (tag : Nat) : syncHeads d.cleared tag = syncHeads d tag := rfl
@[simp] theorem frameNo_cleared : d.cleared.frameNo = d.frameNo := rfl

end Cleared

/-! Masks of zones. -/

/-- The bits of a mask summed over the numbers below `n` that have a property. -/
theorem foldl_mask (p : Nat → Prop) [DecidablePred p] (n : Nat) :
    (List.range n).foldl (fun m z => if p z then m + 2 ^ z else m) 0 < 2 ^ n ∧
      ∀ z, ((List.range n).foldl (fun m z => if p z then m + 2 ^ z else m) 0).testBit z = decide (z < n ∧ p z) := by
  induction n with
  | zero => exact ⟨by simp, fun z => by simp⟩
  | succ n ih =>
    obtain ⟨hlt, hbit⟩ := ih
    rw [List.range_succ, List.foldl_append, List.foldl_cons, List.foldl_nil]
    have hpow : 2 ^ (n + 1) = 2 ^ n + 2 ^ n := by omega
    have hlast {z : Nat} (hz : z ≠ n) : z < n ↔ z ≤ n := by omega
    split
    · next hn =>
      refine ⟨by omega, fun z => ?_⟩
      rw [testBit_add_two_pow (Nat.testBit_lt_two_pow hlt), hbit]
      by_cases hz : z = n
      · simp [hz, hn]
      · simp [hz, hlast]
    · next hn =>
      refine ⟨by omega, fun z => ?_⟩
      rw [hbit]
      by_cases hz : z = n
      · simp [hz, hn]
      · simp [hz, hlast]

theorem zonesMissing_testBit (d : Dev) (a : Nat) (c : PlanCmd) (z : Nat) :
    (zonesMissing d a c).testBit z = decide (z < 32 ∧ (zoneReq c).testBit z = true ∧ d.rd PLN_ZONE_OWNER z ≠ a) :=
  (foldl_mask (fun z => (zoneReq c).testBit z = true ∧ d.rd PLN_ZONE_OWNER z ≠ a) 32).2 z

/-! Passes over the elements of one register. -/

/-- A pass that judges each element of a register by itself, as long as what else it goes by stays. -/
theorem Dev.each_elements {f : Dev → Nat → Dev} {g : RegField} {K : Dev → Prop} {F : Nat → Nat → Nat}
    (hk : ∀ b x, K b → K (f b x)) (hf : ∀ b x, K b → ∀ z, (f b x).rd g z = if z = x then F x (b.rd g x) else b.rd g z) {xs : List Nat}
    (hn : xs.Nodup) {d : Dev} (hd : K d) (z : Nat) :
    (d.each xs f).rd g z = if z ∈ xs then F z (d.rd g z) else d.rd g z := by
  induction xs generalizing d with
  | nil => simp [Dev.each]
  | cons x xs ih =>
    obtain ⟨hx, hn⟩ := List.nodup_cons.mp hn
    have h : (Dev.each (f d x) xs f).rd g z = _ := ih hn (hk d x hd)
    rw [hf d x hd] at h
    change (Dev.each (f d x) xs f).rd g z = _
    rw [h]
    by_cases hz : z = x
    · simp [hz, hx]
    · simp [hz]

/-! Zones released and granted. -/

theorem waiting_idle {d : Dev} {a : Nat} (h : d.idleSet a) : waiting d a = none := by
  obtain ⟨hrun, -, hq⟩ := h
  rw [waiting, hrun, hq]

theorem waiting_head {d : Dev} {a : Nat} {c : PlanCmd} (h : waiting d a = some c) :
    (armOf d a).run = none ∧ ∃ rest, (armOf d a).queue = c :: rest := by
  unfold waiting at h
  split at h
  · next hrun hq =>
    split at h
    · obtain rfl := Option.some.inj h
      exact ⟨hrun, _, hq⟩
    · cases h
  · cases h

theorem releaseZones_silent (d : Dev) (a mask : Nat) : Silent d (releaseZones d a mask) [PLN_ZONE_OWNER] [] := by
  refine .each (fun b z _ => ?_) (.refl _ _ _)
  dsimp only
  split
  · exact (Silent.refl _ _ _).wr _ _ _ (by simp)
  · exact .refl _ _ _

@[simp] theorem armOf_releaseZones (d : Dev) (a mask b : Nat) : armOf (releaseZones d a mask) b = armOf d b :=
  armOf_congr ((releaseZones_silent d a mask).pln_eq (by simp)) b

/-- The axis set whose command was granted zone `z` and takes it from axis set `a`. -/
def zoneTaker (d : Dev) (a z : Nat) : Option Nat :=
  (List.range 16).find? fun b =>
    match (match (armOf d b).run with
      | some r => some r.cmd
      | none => (armOf d b).queue.head?) with
    | some c => decide (b ≠ a) && c.granted && (zoneReq c).testBit z
    | none => false

theorem releaseZones_each (d : Dev) (a mask : Nat) : releaseZones d a mask = d.each (List.range 32) fun d z =>
    if mask.testBit z ∧ d.rd PLN_ZONE_OWNER z = a then d.wr PLN_ZONE_OWNER z ((zoneTaker d a z).getD 0x3F) else d := rfl

theorem zoneTaker_idle {d : Dev} {a : Nat} (h : ∀ b, b < 16 → b ≠ a → d.idleSet b) (z : Nat) : zoneTaker d a z = none := by
  refine List.find?_eq_none.mpr fun b hb => ?_
  by_cases hba : b = a
  · split <;> simp [hba]
  · obtain ⟨hrun, -, hq⟩ := h b (List.mem_range.mp hb) hba
    rw [hrun, hq]
    simp

theorem Dev.idleSet.congr {d e : Dev} {a : Nat} (h : d.idleSet a) (he : e.pln = d.pln) : e.idleSet a := by
  rwa [Dev.idleSet, armOf_congr he]

/-- With no other axis set busy a released zone is free. -/
theorem releaseZones_owner {d : Dev} {a : Nat} (mask : Nat) (h : ∀ b, b < 16 → b ≠ a → d.idleSet b) {z : Nat} (hz : z < 32) :
    (releaseZones d a mask).rd PLN_ZONE_OWNER z =
      if mask.testBit z ∧ d.rd PLN_ZONE_OWNER z = a then 0x3F else d.rd PLN_ZONE_OWNER z := by
  have hr := Dev.each_elements (g := PLN_ZONE_OWNER) (K := fun b => b.pln = d.pln) (F := fun z o => if mask.testBit z ∧ o = a then 0x3F else o)
    (f := fun d z => if mask.testBit z ∧ d.rd PLN_ZONE_OWNER z = a then d.wr PLN_ZONE_OWNER z ((zoneTaker d a z).getD 0x3F) else d)
    (fun b x hb => by split <;> exact hb) (fun b x hb z => ?_) (List.nodup_range (n := 32)) rfl z
  · rwa [if_pos (List.mem_range.mpr hz), ← releaseZones_each] at hr
  · have htaker : zoneTaker b a x = none := zoneTaker_idle (fun i hi hia => (h i hi hia).congr hb) x
    rw [htaker]
    split
    · simp
    · split
      · next hz => rw [hz]
      · rfl

/-- Zones that are free and that no other axis set waits for are granted without a release to wait for. -/
theorem grantable_free {d : Dev} {a : Nat} {c : PlanCmd} (h : ∀ b, b < 16 → b ≠ a → d.idleSet b)
    (hz : ∀ z, z < 32 → (zoneReq c).testBit z = true → d.rd PLN_ZONE_OWNER z = a ∨ d.rd PLN_ZONE_OWNER z = 0x3F) :
    grantable d a c = some none := by
  have hothers {b : Nat} (hb : b ∈ (List.range 16).filter fun b => decide (b ≠ a)) : d.idleSet b := by
    obtain ⟨hlt, hne⟩ := List.mem_filter.mp hb
    exact h b (List.mem_range.mp hlt) (of_decide_eq_true hne)
  have hfrees : ((List.range 32).filter fun z => (zonesMissing d a c).testBit z).map (zoneFree d) =
      ((List.range 32).filter fun z => (zonesMissing d a c).testBit z).map fun _ => some none := by
    refine List.map_congr_left fun z hm => ?_
    obtain ⟨hlt, hreq, hown⟩ := by simpa [zonesMissing_testBit] using (List.mem_filter.mp hm).2
    exact if_pos ((hz z hlt hreq).resolve_left hown)
  unfold grantable
  dsimp only
  rw [List.any_eq_false.mpr fun b hb => by rw [waiting_idle (hothers hb)]; simp,
    List.any_eq_false.mpr fun b hb => by rw [(hothers hb).1, (hothers hb).2.2]; simp, hfrees]
  simp

/-- Owners of zones are no part of the Planner's state. -/
theorem zonesWritten_pln (d : Dev) (a : Nat) (zs : List Nat) : (d.each zs fun d z => d.wr PLN_ZONE_OWNER z a).pln = d.pln :=
  Silent.pln_eq (fs := [PLN_ZONE_OWNER]) (ps := []) (.each (fun _ _ _ => (Silent.refl _ _ _).wr _ _ _ (by simp)) (.refl _ _ _)) (by simp)

theorem grantZones_silent (d : Dev) (a : Nat) : Silent d (grantZones d a) [PLN_ZONE_OWNER] [.pln] := by
  unfold grantZones
  split
  · exact .refl _ _ _
  · split
    · exact .refl _ _ _
    · exact ((Silent.each (fun b z _ => (Silent.refl _ _ _).wr _ _ _ (by simp)) (.refl _ _ _)).onArm _ _ (by simp)).onPln _ (by simp)

/-- The free zones an arm takes with a grant. -/
def zonesTaken (d : Dev) (a : Nat) (c : PlanCmd) : List Nat :=
  (List.range 32).filter fun z => (zonesMissing d a c).testBit z && decide (d.rd PLN_ZONE_OWNER z = 0x3F)

theorem mem_zonesTaken {d : Dev} {a : Nat} {c : PlanCmd} {z : Nat} (ha : a < 16) (hz : z < 32) :
    z ∈ zonesTaken d a c ↔ (zoneReq c).testBit z = true ∧ d.rd PLN_ZONE_OWNER z = 0x3F := by
  have hfree : d.rd PLN_ZONE_OWNER z = 0x3F → d.rd PLN_ZONE_OWNER z ≠ a := by omega
  simp [zonesTaken, zonesMissing_testBit, hz]
  tauto

section Grant
variable {d : Dev} {a : Nat} {c : PlanCmd} (hw : waiting d a = some c) (hg : grantable d a c = some none)
include hw hg

/-- A grant is a write of the free zones, a mark on the head of the queue and a later start of what is staged. -/
theorem grantZones_does : ∃ (f : ArmPlan → ArmPlan) (g : PlannerState → PlannerState),
    grantZones d a = onPln (onArm (d.each (zonesTaken d a c) fun d z => d.wr PLN_ZONE_OWNER z a) a f) g ∧
    (∀ x, x.queue ≠ [] → (f x).queue.head?.map (·.granted) = some true) ∧ ∀ p, (g p).arms = p.arms := by
  unfold grantZones
  rw [hw]
  dsimp only
  rw [hg]
  refine ⟨_, _, rfl, fun x hx => ?_, fun p => rfl⟩
  obtain ⟨q, rest, hq⟩ := List.exists_cons_of_ne_nil hx
  simp only [hq, List.head?_cons, Option.map_some]

theorem grantZones_granted : (armOf (grantZones d a) a).queue.head?.map (·.granted) = some true := by
  obtain ⟨f, g, he, hf, hg⟩ := grantZones_does hw hg
  obtain ⟨-, rest, hq⟩ := waiting_head hw
  rw [he, armOf, onPln_pln, hg, ← armOf, armOf_onArm_same]
  exact hf _ (by rw [armOf_congr (zonesWritten_pln ..), hq]; simp)

/-- A requested zone that was free belongs to the arm. -/
theorem grantZones_owner (ha : a < 16) {z : Nat} (hz : z < 32) : (grantZones d a).rd PLN_ZONE_OWNER z =
    if (zoneReq c).testBit z = true ∧ d.rd PLN_ZONE_OWNER z = 0x3F then a else d.rd PLN_ZONE_OWNER z := by
  obtain ⟨f, g, he, -⟩ := grantZones_does hw hg
  have hr := Dev.each_elements (g := PLN_ZONE_OWNER) (K := fun _ => True) (F := fun _ _ => a) (f := fun d z => d.wr PLN_ZONE_OWNER z a)
    (xs := zonesTaken d a c) (fun _ _ _ => trivial)
    (fun b x _ z => by simp [Nat.mod_eq_of_lt (show a < 64 by omega)]) (List.nodup_range.filter _) (d := d) trivial z
  rw [he, onPln_rd, onArm_rd, hr]
  simp only [mem_zonesTaken ha hz]

end Grant

/-! Commands of the zones (R235, R236). -/

section Zones
variable {d : Dev} {a : Fin 16} {c : PlanCmd}

theorem exec_zoneRelease (a : Fin 16) (s : State) : exec (.zoneRelease a) s = execZoneRelease a s := rfl
theorem exec_zoneGrant (a : Fin 16) (s : State) : exec (.zoneGrant a) s = execZoneGrant a s := rfl
theorem exec_zoneTimeout (a : Fin 16) (s : State) : exec (.zoneTimeout a) s = execZoneTimeout a s := rfl

theorem zoneRelease_notReady (h : planReady d a 0x1C = none) : Effect (.zoneRelease a) d d := ⟨_, exec_zoneRelease a, by rw [h]⟩

section Release
variable (hr : planReady d a 0x1C = some (c, none)) (hb : badFields d a c = false) (hw : waiting d a = none)
include hr hb hw

/-- A release at its start frame is staged like a start. -/
theorem zoneRelease_starts (hf : atFrame c = true) : Effect (.zoneRelease a) d (stageStart d a c {} 0 0 none []) := by
  refine ⟨_, exec_zoneRelease a, ?_⟩
  simp only [hr, hb, hw, hf, Option.isSome_none, true_or, Bool.false_eq_true, if_true, if_false]

/-- The device of an arm at rest whose command released its zones at once. -/
def zonesReleased (d : Dev) (a : Nat) (c : PlanCmd) : Dev := releaseZones (onArm d a fun x => { x with queue := x.queue.drop 1 }) a (zoneRel c)

theorem zoneRelease_atOnce (hf : atFrame c = false) (hg : syncOf c = none) : Effect (.zoneRelease a) d (
    showPlan (headReached (complete (zonesReleased d a c) c.sq c.rsn
      { status := 0, result := if c.noBlend then 64 else 0, fin := (zonesReleased d a c).frameNo }) a 33)) := by
  refine ⟨_, exec_zoneRelease a, ?_⟩
  simp only [hr, hb, hw, hf, hg, Option.isSome_none, or_self, Bool.false_eq_true, if_false]
  rfl

end Release

theorem zonesReleased_silent (d : Dev) (a : Nat) (c : PlanCmd) : Silent d (zonesReleased d a c) [PLN_ZONE_OWNER] [.pln] :=
  ((Silent.refl d _ _).onArm _ _ (by simp)).trans ((releaseZones_silent ..).mono (List.Subset.refl _) (by simp))

theorem zonesReleased_owner {d : Dev} {a : Nat} (c : PlanCmd) (h : ∀ b, b < 16 → b ≠ a → d.idleSet b) {z : Nat} (hz : z < 32) :
    (zonesReleased d a c).rd PLN_ZONE_OWNER z =
      if (zoneRel c).testBit z ∧ d.rd PLN_ZONE_OWNER z = a then 0x3F else d.rd PLN_ZONE_OWNER z := by
  rw [zonesReleased, releaseZones_owner _ (fun b hb hne => ?_) hz]
  · rfl
  · rw [Dev.idleSet, armOf_onArm, if_neg hne]
    exact h b hb hne

theorem zoneGrant_grants (hw : waiting d a = some c) : Effect (.zoneGrant a) d (showPlan (grantZones d a)) := by
  refine ⟨_, exec_zoneGrant a, ?_⟩
  rw [hw]
  rfl

theorem zoneGrant_nobodyWaits (hw : waiting d a = none) : Effect (.zoneGrant a) d d := by
  refine ⟨_, exec_zoneGrant a, ?_⟩
  rw [hw]
  rfl

theorem zoneTimeout_nobodyWaits (hw : waiting d a = none) : Effect (.zoneTimeout a) d d := ⟨_, exec_zoneTimeout a, by rw [hw]⟩

theorem zoneTimeout_judges {t : Int} (hw : waiting d a = some c) (ht : c.zoneSince = some t) : Effect (.zoneTimeout a) d (
    if d.rd PLN_CFG2_ZONE_WAIT ≠ 0 ∧ t + 1000000 * d.rd PLN_CFG2_ZONE_WAIT < d.tb.ext then failHead d a .zoneTimeout else d) := by
  refine ⟨_, exec_zoneTimeout a, ?_⟩
  simp only [hw, ht]

end Zones

/-! Synchronised and timed starts (R213). -/

theorem mem_syncHeads {d : Dev} {tag a : Nat} {c : PlanCmd} (h : (a, c) ∈ syncHeads d tag) :
    ∃ rest, (armOf d a).queue = c :: rest := by
  obtain ⟨b, -, hb⟩ := List.mem_filterMap.mp h
  split at hb
  · next hq =>
    split at hb
    · cases hb
      exact ⟨_, hq⟩
    · cases hb
  · cases hb

/-- An axis set with the head of its queue marked to start with its group. -/
def headSynced (x : ArmPlan) : ArmPlan :=
  { x with queue := match x.queue with
    | c :: rest => { c with synced := true } :: rest
    | [] => [] }

/-- The members of complete groups among the heads that wait. -/
def syncDue (d : Dev) (tag : Nat) : List (Nat × PlanCmd) :=
  (syncHeads d tag).filter fun p => match syncOf p.2 with
    | some g => decide (g.2 ≤ ((syncHeads d tag).filter fun q => decide (syncOf q.2 = some g)).length)
    | none => false

theorem exec_syncStart (tag : BitVec 16) (s : State) : exec (.syncStart tag) s = execSyncStart tag s := rfl

theorem syncStart_marks (d : Dev) (tag : BitVec 16) :
    Effect (.syncStart tag) d (showPlan (d.each (syncDue d tag.toNat) fun d p => onArm d p.1 headSynced)) := by
  refine ⟨_, exec_syncStart tag, ?_⟩
  dsimp only
  unfold syncDue headSynced
  rfl

theorem headSynced_head {x : ArmPlan} {c : PlanCmd} (h : x.queue.head? = some c ∨ x.queue.head? = some { c with synced := true }) :
    (headSynced x).queue.head? = some { c with synced := true } := by
  unfold headSynced
  cases hq : x.queue with
  | nil => simp [hq] at h
  | cons q rest => rcases h with h | h <;> simp_all

/-- The heads a pass marks are marked after it, however often it comes by. -/
theorem each_headSynced {xs : List (Nat × PlanCmd)} {a : Nat} {c : PlanCmd} (hm : (a, c) ∈ xs) {d : Dev}
    (h : (armOf d a).queue.head? = some c ∨ (armOf d a).queue.head? = some { c with synced := true }) :
    (armOf (d.each xs fun d p => onArm d p.1 headSynced) a).queue.head? = some { c with synced := true } := by
  have hkeep (b : Dev) (i : Nat) (h : (armOf b a).queue.head? = some { c with synced := true }) :
      (armOf (onArm b i headSynced) a).queue.head? = some { c with synced := true } := by
    rw [armOf_onArm]
    split
    · exact headSynced_head (.inr h)
    · exact h
  induction xs generalizing d with
  | nil => cases hm
  | cons p xs ih =>
    change (armOf (Dev.each (onArm d p.1 headSynced) xs fun d p => onArm d p.1 headSynced) a).queue.head? = _
    rcases List.mem_cons.mp hm with rfl | hm
    · refine Dev.each_induct (P := fun b => (armOf b a).queue.head? = some { c with synced := true }) (fun b y _ => hkeep b y.1) ?_
      rw [armOf_onArm_same]
      exact headSynced_head h
    · refine ih hm ?_
      rw [armOf_onArm]
      split
      · exact .inr (headSynced_head h)
      · exact h

theorem syncDue_marked {d : Dev} {tag a : Nat} {c : PlanCmd} {g : Nat × Nat} (hm : (a, c) ∈ syncHeads d tag) (hg : syncOf c = some g)
    (hn : g.2 ≤ ((syncHeads d tag).filter fun q => decide (syncOf q.2 = some g)).length) :
    (armOf (d.each (syncDue d tag) fun d p => onArm d p.1 headSynced) a).queue.head? = some { c with synced := true } := by
  obtain ⟨rest, hq⟩ := mem_syncHeads hm
  refine each_headSynced (List.mem_filter.mpr ⟨hm, ?_⟩) (.inl (by rw [hq]; rfl))
  rw [hg]
  exact decide_eq_true hn

section AtFrame
variable {d : Dev} {a : Fin 36} {c : PlanCmd} {rest : List PlanCmd} {f : Nat}

theorem exec_atFrameStart (a : Fin 36) (s : State) : exec (.atFrameStart a) s = execAtFrameStart a s := rfl

variable (hrun : (armOf d a).run = none) (hq : (armOf d a).queue = c :: rest) (hh : c.headAt = some f)
include hrun hq hh

theorem atFrameStart_none (h : atFrame c = false ∨ c.startAt.isSome = true) : Effect (.atFrameStart a) d d := by
  refine ⟨_, exec_atFrameStart a, ?_⟩
  dsimp only
  rw [hrun, hq]
  dsimp only
  rw [hh]
  exact if_pos (by simpa using h)

variable (hf : atFrame c = true) (hs : c.startAt = none)
include hf hs

theorem atFrameStart_keeps (h : 32 ≤ frameDiff (body32 c.body 0xC) f) : Effect (.atFrameStart a) d (
    showPlan (onArm d a fun x => { x with queue := { c with startAt := some (body32 c.body 0xC) } :: rest })) := by
  refine ⟨_, exec_atFrameStart a, ?_⟩
  dsimp only
  rw [hrun, hq]
  dsimp only
  rw [hh]
  simp only [hf, hs, not_lt.mpr h, Bool.not_true, Option.isSome_none, Bool.false_eq_true, or_self, if_false]

theorem atFrameStart_tooLate (h : frameDiff (body32 c.body 0xC) f < 32) : Effect (.atFrameStart a) d (failHead d a .tooLate) := by
  refine ⟨_, exec_atFrameStart a, ?_⟩
  dsimp only
  rw [hrun, hq]
  dsimp only
  rw [hh]
  simp only [hf, hs, h, Bool.not_true, Option.isSome_none, Bool.false_eq_true, or_self, if_true, if_false]

end AtFrame

end Sys2Proof.Machine
end

section
/-!
SUPPORT. Commands at their end frames (R212, R236), and the couplings, zones, starts and ends of Planner commands settled (O57).
-/
namespace Sys2Proof.Machine
open RegField

/-- A command that completes on a device which answers like the one found, with no head left to judge. -/
theorem completed_shown {d e : Dev} {a : Nat} {c : PlanCmd} {h : HostCmd} {x : Cqe} {fs : List RegField} (hs : Silent d e fs [.pln])
    (hd : answerRegs.Disjoint fs) (hp : d.pays c h)
    (hstay : headReached (complete e c.sq c.rsn x) a 33 = complete e c.sq c.rsn x) :
    d.completed (showPlan (headReached (complete e c.sq c.rsn x) a 33)) h x := by
  rw [hstay]
  have hsame : SameAnswer d e := .of_sameBut hs.frame hd (by simp) (by simp)
  exact (hsame.completed (complete_completed (hp.congr (hs.host_eq (by simp))) x)).silent (showPlan_silent _) (by simp)

/-- An axis set whose command has ended: what blends with it runs on, or the next command is told that it could not blend. -/
def armEnded (r : Run) (y : ArmPlan) : ArmPlan := if r.till.isSome then { y with run := y.next, next := none } else missBlend r { y with run := none }

theorem armEnded_idle {r : Run} {y : ArmPlan} (hn : y.next = none) (hq : y.queue = []) : (armEnded r y).run = none ∧ (armEnded r y).queue = [] := by
  unfold armEnded missBlend
  split
  · exact ⟨hn, hq⟩
  · split
    · dsimp only
      rw [hq]
      exact ⟨rfl, rfl⟩
    · exact ⟨rfl, hq⟩

theorem armEnded_blended {r : Run} {y : ArmPlan} (h : r.till.isSome = true) : armEnded r y = { y with run := y.next, next := none } := if_pos h

/-- An axis set whose stop has ended, in a safety stop or drained if it was such a stop. -/
def armStopped (code : Nat) (y : ArmPlan) : ArmPlan :=
  { y with run := none, safety := y.safety || decide (code = 2), drained := decide (code = 3) }

section EndFrame
variable {d : Dev} {a : Fin 36} {r : Run} {f : Nat}

theorem exec_commandEndFrame (a : Fin 36) (s : State) : exec (.commandEndFrame a) s = execCommandEndFrame a s := rfl

theorem commandEndFrame_idle (hrun : (armOf d a).run = none) : Effect (.commandEndFrame a) d d := by
  refine ⟨_, exec_commandEndFrame a, ?_⟩
  dsimp only
  rw [hrun]

variable (hrun : (armOf d a).run = some r) (hf : r.fin = some f)
include hrun hf

theorem commandEndFrame_early (h : frameDiff d.frameNo f < 0) (hm : r.mode ≠ .coupling) : Effect (.commandEndFrame a) d (showPlan d) := by
  refine ⟨_, exec_commandEndFrame a, ?_⟩
  dsimp only
  rw [hrun]
  simp only [hf, h, hm, if_true, if_false]

variable (h : 0 ≤ frameDiff d.frameNo f)
include h

theorem commandEndFrame_moving (hm : r.mode = .moving) : Effect (.commandEndFrame a) d (
    showPlan (headReached (endRun (releaseZones (onArm d a (armEnded r)) a (zoneRel r.cmd)) r 0 f) a 33)) := by
  refine ⟨_, exec_commandEndFrame a, ?_⟩
  dsimp only
  rw [hrun]
  simp only [hf, hm, not_lt.mpr h, if_false, reduceCtorEq]
  rfl

theorem commandEndFrame_stopping {code : Nat} (hm : r.mode = .stopping code) : Effect (.commandEndFrame a) d (
    showPlan (headReached (endRun (onArm d a (armStopped code)) r code f) a 33)) := by
  refine ⟨_, exec_commandEndFrame a, ?_⟩
  dsimp only
  rw [hrun]
  simp only [hf, hm, not_lt.mpr h, if_false, reduceCtorEq]
  rfl

theorem commandEndFrame_holding (hm : r.mode = .holding) : Effect (.commandEndFrame a) d (
    showPlan (onArm d a fun y => { y with run := some { r with mode := .held } })) := by
  refine ⟨_, exec_commandEndFrame a, ?_⟩
  dsimp only
  rw [hrun]
  simp only [hf, hm, not_lt.mpr h, if_false, reduceCtorEq]

end EndFrame

section Ended
variable {s : State} {a : Fin 36} {r : Run} {f : Nat} {h : HostCmd} (hrun : (armOf s.dev a).run = some r) (hf : r.fin = some f)
  (hp : s.dev.pays r.cmd h)

/-- The result and data a run's completion carries. -/
def runCqe (r : Run) (result f : Nat) : Cqe := { result := result, start := r.start, fin := f, data := bytesLE 4 r.points }

theorem endRun_eq (d : Dev) (r : Run) (code f : Nat) :
    endRun d r code f = complete d r.cmd.sq r.cmd.rsn (runCqe r (if code ≤ 3 then code + r.flags else code) f) := rfl

theorem endRun_ok (d : Dev) (r : Run) (f : Nat) : endRun d r 0 f = complete d r.cmd.sq r.cmd.rsn (runCqe r r.flags f) := by
  rw [endRun_eq, if_pos (Nat.zero_le 3), Nat.zero_add]

/-- The device found, with the arm whose command ended and its zones. -/
def moveEnded (d : Dev) (a : Nat) (r : Run) : Dev := releaseZones (onArm d a (armEnded r)) a (zoneRel r.cmd)

theorem moveEnded_silent (d : Dev) (a : Nat) (r : Run) : Silent d (moveEnded d a r) [PLN_ZONE_OWNER] [.pln] :=
  ((Silent.refl d _ _).onArm _ _ (by simp)).trans ((releaseZones_silent ..).mono (List.Subset.refl _) (by simp))

theorem moveEnded_arm (d : Dev) (a : Nat) (r : Run) : armOf (moveEnded d a r) a = armEnded r (armOf d a) := by
  rw [moveEnded, armOf_releaseZones, armOf_onArm_same]

include hrun hf

theorem commandEnd_early (hd : frameDiff s.dev.frameNo f < 0) (hm : r.mode ≠ .coupling) : Touches (.commandEndFrame a) s planViews [] [] := by
  rw [← frameNo_cleared] at hd
  exact (commandEndFrame_early (by rwa [armOf_cleared]) hf hd hm).touches (showPlan_silent _).frame

theorem commandEnd_held (hd : 0 ≤ frameDiff s.dev.frameNo f) (hm : r.mode = .holding) :
    Touches (.commandEndFrame a) s planViews [] [.pln] ∧
      Answers (.commandEndFrame a) s fun e => e.out = [] ∧ (armOf e a).run = some { r with mode := .held } := by
  rw [← frameNo_cleared] at hd
  have hx := commandEndFrame_holding (by rwa [armOf_cleared]) hf hd hm
  refine ⟨hx.touches (((SameBut.refl _ _ _ _).onArm _ _ (by simp)).trans ((showPlan_silent _).frame.showing (List.Subset.refl _) (by simp))),
    hx.answers ⟨by rw [showPlan_out]; rfl, ?_⟩⟩
  rw [armOf_showPlan, armOf_onArm_same]

include hp

theorem commandEnd_moved (hn : (armOf s.dev a).next = none) (hq : (armOf s.dev a).queue = []) (hd : 0 ≤ frameDiff s.dev.frameNo f)
    (hm : r.mode = .moving) :
    Touches (.commandEndFrame a) s (planViews ++ flightFields ++ [PLN_ZONE_OWNER]) [] [.pln, .host] ∧
      Answers (.commandEndFrame a) s fun e => (armOf e a).run = none ∧ s.dev.completed e h (runCqe r r.flags f) := by
  rw [← frameNo_cleared] at hd
  have hx := commandEndFrame_moving (by rwa [armOf_cleared]) hf hd hm
  rw [endRun_ok, ← moveEnded] at hx
  have hmoved := moveEnded_silent s.dev.cleared a r
  obtain ⟨hidle, hempty⟩ := armEnded_idle (r := r) hn hq
  rw [← armOf_cleared, ← moveEnded_arm] at hidle hempty
  have hstay := headReached_empty (d := complete (moveEnded s.dev.cleared a r) r.cmd.sq r.cmd.rsn (runCqe r r.flags f)) (a := a)
    (by rwa [armOf_complete]) 33
  refine ⟨hx.touches ?_, hx.answers ⟨?_, ?_⟩⟩
  · rw [hstay]
    exact ((hmoved.frame.showing (by simp) (by simp)).trans ((complete_sameBut ..).showing (by simp) (by simp))).trans
      ((showPlan_silent _).frame.showing (by simp) (by simp))
  · rwa [hstay, armOf_showPlan, armOf_complete]
  · exact completed_shown (d := s.dev.cleared) hmoved (by simp [answerRegs]) hp hstay

theorem commandEnd_stopped {code : Nat} (hq : (armOf s.dev a).queue = []) (hd : 0 ≤ frameDiff s.dev.frameNo f) (hm : r.mode = .stopping code) :
    Answers (.commandEndFrame a) s fun e => (armOf e a).run = none ∧
      (armOf e a).safety = ((armOf s.dev a).safety || decide (code = 2)) ∧ (armOf e a).drained = decide (code = 3) ∧
      s.dev.completed e h (runCqe r (if code ≤ 3 then code + r.flags else code) f) := by
  rw [← frameNo_cleared] at hd
  have hx := commandEndFrame_stopping (by rwa [armOf_cleared]) hf hd hm
  rw [endRun_eq] at hx
  have harm : armOf (onArm s.dev.cleared a (armStopped code)) a = armStopped code (armOf s.dev a) := armOf_onArm_same ..
  have hstay := headReached_empty (d := complete (onArm s.dev.cleared a (armStopped code)) r.cmd.sq r.cmd.rsn
    (runCqe r (if code ≤ 3 then code + r.flags else code) f)) (a := a) (by rw [armOf_complete, harm]; exact hq) 33
  have hdone := completed_shown (d := s.dev.cleared) ((Silent.refl _ [] _).onArm _ _ (by simp)) (by simp) hp hstay
  refine hx.answers ?_
  rw [hstay] at hdone ⊢
  rw [armOf_showPlan, armOf_complete, harm]
  exact ⟨rfl, rfl, rfl, hdone⟩

theorem commandEnd_blended {n : Run} (hn : (armOf s.dev a).next = some n) (ht : r.till.isSome = true) (hm : r.mode = .moving)
    (hd : 0 ≤ frameDiff s.dev.frameNo f) :
    Answers (.commandEndFrame a) s fun e => (armOf e a).run = some n ∧ (armOf e a).next = none ∧
      (armOf e a).queue = (armOf s.dev a).queue ∧ s.dev.completed e h (runCqe r r.flags f) := by
  rw [← frameNo_cleared] at hd
  have hx := commandEndFrame_moving (by rwa [armOf_cleared]) hf hd hm
  rw [endRun_ok, ← moveEnded] at hx
  have harm := moveEnded_arm s.dev.cleared a r
  rw [armEnded_blended ht, armOf_cleared, hn] at harm
  have hstay := headReached_running (d := complete (moveEnded s.dev.cleared a r) r.cmd.sq r.cmd.rsn (runCqe r r.flags f)) (a := a) (r := n)
    (by rw [armOf_complete, harm]) 33
  have hdone := completed_shown (d := s.dev.cleared) (moveEnded_silent ..) (by simp [answerRegs]) hp hstay
  refine hx.answers ?_
  rw [hstay] at hdone ⊢
  rw [armOf_showPlan, armOf_complete, harm]
  exact ⟨rfl, rfl, rfl, hdone⟩

end Ended

/-! Zones, starts and couplings of a state. -/

section Settled
variable {s : State}

theorem zoneRelease_staged {a : Fin 16} {c : PlanCmd} {f : Nat} (hr : planReady s.dev a 0x1C = some (c, none))
    (hb : badFields s.dev a c = false) (hw : waiting s.dev a = none) (hf : atFrame c = true) (hg : syncOf c = none)
    (hst : c.startAt = some f) :
    Completes (.zoneRelease a) s [] [.pln] fun e => e.out = [] ∧ s.dev.staged e {
      fs := f, fixed := true
      parts := [{ axset := a, kind := .start, run := { cmd := c, start := f, zero := f, flags := if c.noBlend then 64 else 0 } }] } := by
  have hx := zoneRelease_starts (d := s.dev.cleared) (by rwa [planReady_cleared]) (by rwa [badFields_cleared]) (by rwa [waiting_cleared]) hf
  have h := stages_start hx (.refl _ _ _) (settled_of_noSync hg (.inr (by rw [hst]; rfl))) (.inl rfl) hg
  have hfirst : firstFrame s.dev.cleared c = f := by simp only [firstFrame, hst, hf, if_true]
  rw [hfirst, hf, Nat.zero_add] at h
  exact h

theorem zoneRelease_done {a : Fin 16} {c : PlanCmd} {h : HostCmd} (hr : planReady s.dev a 0x1C = some (c, none))
    (hq : (armOf s.dev a).queue = [c]) (hp : s.dev.pays c h) (hb : badFields s.dev a c = false) (hw : waiting s.dev a = none)
    (hf : atFrame c = false) (hg : syncOf c = none) (hidle : ∀ b, b < 16 → b ≠ a.val → s.dev.idleSet b) :
    Touches (.zoneRelease a) s (planViews ++ flightFields ++ [PLN_ZONE_OWNER]) [] [.pln, .host] ∧
    Answers (.zoneRelease a) s fun e => (armOf e a).queue = [] ∧ s.dev.completed e h { result := if c.noBlend then 64 else 0, fin := s.dev.frameNo } ∧
      ∀ z, z < 32 → e.rd PLN_ZONE_OWNER z =
        if (zoneRel c).testBit z ∧ s.dev.rd PLN_ZONE_OWNER z = a then 0x3F else s.dev.rd PLN_ZONE_OWNER z := by
  have hx := zoneRelease_atOnce (d := s.dev.cleared) (by rwa [planReady_cleared]) (by rwa [badFields_cleared]) (by rwa [waiting_cleared]) hf hg
  have hgone := zonesReleased_silent s.dev.cleared a c
  have hframe : (zonesReleased s.dev.cleared a c).frameNo = s.dev.frameNo := hgone.rd_eq _ _ (by simp)
  rw [hframe] at hx
  have hempty : (armOf (zonesReleased s.dev.cleared a c) a).queue = [] := by
    rw [zonesReleased, armOf_releaseZones, armOf_onArm_same, armOf_cleared, hq]
    rfl
  have hstay := headReached_empty (d := complete (zonesReleased s.dev.cleared a c) c.sq c.rsn
    { status := 0, result := if c.noBlend then 64 else 0, fin := s.dev.frameNo }) (a := a) (by rwa [armOf_complete]) 33
  have hdone := completed_shown (d := s.dev.cleared) hgone (by simp [answerRegs]) hp hstay
  rw [hstay] at hx hdone
  have hcomplete := complete_sameBut (zonesReleased s.dev.cleared a c) c.sq c.rsn
    { status := 0, result := if c.noBlend then 64 else 0, fin := s.dev.frameNo }
  refine ⟨hx.touches (((hgone.frame.showing (by simp) (by simp)).trans (hcomplete.showing (by simp) (by simp))).trans
      ((showPlan_silent _).frame.showing (by simp) (by simp))), hx.answers ⟨?_, hdone, fun z hz => ?_⟩⟩
  · rwa [armOf_showPlan, armOf_complete]
  · rw [showPlan_rd _ _ _ (by simp [planViews]), hcomplete.rd_eq _ _ (by simp [flightFields]) (by simp)]
    exact zonesReleased_owner (d := s.dev.cleared) c hidle hz

theorem zoneGrant_done {a : Fin 16} {c : PlanCmd} (hw : waiting s.dev a = some c) (hidle : ∀ b, b < 16 → b ≠ a.val → s.dev.idleSet b)
    (hz : ∀ z, z < 32 → (zoneReq c).testBit z = true → s.dev.rd PLN_ZONE_OWNER z = a ∨ s.dev.rd PLN_ZONE_OWNER z = 0x3F) :
    Touches (.zoneGrant a) s (planViews ++ [PLN_ZONE_OWNER]) [] [.pln] ∧
    Answers (.zoneGrant a) s fun e => e.out = [] ∧ (armOf e a).queue.head?.map (·.granted) = some true ∧
      ∀ z, z < 32 → e.rd PLN_ZONE_OWNER z = if (zoneReq c).testBit z = true then a.val else s.dev.rd PLN_ZONE_OWNER z := by
  rw [← waiting_cleared] at hw
  have hg : grantable s.dev.cleared a c = some none := grantable_free hidle hz
  have hx := zoneGrant_grants hw
  have hgrant := grantZones_silent s.dev.cleared a
  refine ⟨hx.touches ((hgrant.frame.showing (by simp) (by simp)).trans ((showPlan_silent _).frame.showing (by simp) (by simp))),
    hx.answers ⟨by rw [showPlan_out, hgrant.out]; rfl, ?_, fun z hz32 => ?_⟩⟩
  · rw [armOf_showPlan]
    exact grantZones_granted hw hg
  · rw [showPlan_rd _ _ _ (by simp [planViews]), grantZones_owner hw hg a.isLt hz32]
    change (if _ then _ else s.dev.rd PLN_ZONE_OWNER z) = _
    by_cases hreq : (zoneReq c).testBit z = true
    · rcases hz z hz32 hreq with ho | ho
      · simp [hreq, ho]
      · simp [hreq, ho]
    · simp [hreq]

theorem zoneTimeout_done {a : Fin 16} {c : PlanCmd} {h : HostCmd} {t : Int} (hw : waiting s.dev a = some c) (ht : c.zoneSince = some t) :
    let due := s.dev.rd PLN_CFG2_ZONE_WAIT ≠ 0 ∧ t + 1000000 * s.dev.rd PLN_CFG2_ZONE_WAIT < s.dev.tb.ext
    (¬ due → Completes (.zoneTimeout a) s [] [] fun e => e.out = []) ∧
    (due → (armOf s.dev a).queue = [c] → s.dev.pays c h →
      Touches (.zoneTimeout a) s (planViews ++ flightFields) [] [.pln, .host] ∧ Answers (.zoneTimeout a) s fun e => s.dev.headEnds e a h 8) := by
  intro due
  rw [← waiting_cleared] at hw
  have hx := zoneTimeout_judges hw ht
  refine ⟨fun hn => (hx.congr (if_neg hn)).unchanged, fun hd hq hp => ?_⟩
  exact endsHead_here (r := .zoneTimeout) (hx.congr (if_pos hd)) hq hp

theorem syncStart_done (tag : BitVec 16) :
    Touches (.syncStart tag) s planViews [] [.pln] ∧
    Answers (.syncStart tag) s fun e => e.out = [] ∧ ∀ (a : Nat) (c : PlanCmd) (g : Nat × Nat),
      (a, c) ∈ syncHeads s.dev tag.toNat → syncOf c = some g →
      g.2 ≤ ((syncHeads s.dev tag.toNat).filter fun q => decide (syncOf q.2 = some g)).length →
      (armOf e a).queue.head? = some { c with synced := true } := by
  have hx := syncStart_marks s.dev.cleared tag
  have hmark : Silent s.dev.cleared (s.dev.cleared.each (syncDue s.dev.cleared tag.toNat) fun d p => onArm d p.1 headSynced) [] [.pln] :=
    .each (fun b p _ => (Silent.refl b _ _).onArm _ _ (by simp)) (.refl _ _ _)
  refine ⟨hx.touches ((hmark.frame.showing (by simp) (by simp)).trans ((showPlan_silent _).frame.showing (by simp) (by simp))),
    hx.answers ⟨by rw [showPlan_out, hmark.out]; rfl, fun a c g hm hg hn => ?_⟩⟩
  rw [armOf_showPlan]
  rw [← syncHeads_cleared] at hm hn
  exact syncDue_marked hm hg hn

theorem atFrameStart_done {a : Fin 36} {c : PlanCmd} {rest : List PlanCmd} {f : Nat} (hrun : (armOf s.dev a).run = none)
    (hq : (armOf s.dev a).queue = c :: rest) (hh : c.headAt = some f) :
    (atFrame c = false ∨ c.startAt.isSome = true → Completes (.atFrameStart a) s [] [] fun e => e.out = []) ∧
    (atFrame c = true → c.startAt = none → 32 ≤ frameDiff (body32 c.body 0xC) f →
      Touches (.atFrameStart a) s planViews [] [.pln] ∧
      Answers (.atFrameStart a) s fun e => e.out = [] ∧ (armOf e a).queue = { c with startAt := some (body32 c.body 0xC) } :: rest) ∧
    (∀ h, atFrame c = true → c.startAt = none → frameDiff (body32 c.body 0xC) f < 32 → rest = [] → s.dev.pays c h →
      Answers (.atFrameStart a) s fun e => s.dev.headEnds e a h 9) := by
  have hq' := hq
  rw [← armOf_cleared] at hrun hq
  refine ⟨fun h => (atFrameStart_none hrun hq hh h).unchanged, fun hf hs hd => ?_, fun h hf hs hd hrest hp => ?_⟩
  · have hx := atFrameStart_keeps hrun hq hh hf hs hd
    refine ⟨hx.touches (((SameBut.refl _ _ _ _).onArm _ _ (by simp)).trans ((showPlan_silent _).frame.showing (by simp) (by simp))),
      hx.answers ⟨by rw [showPlan_out]; rfl, ?_⟩⟩
    rw [armOf_showPlan, armOf_onArm_same]
  · exact answers_headEnds (r := .tooLate) (hrest ▸ hq') hp (atFrameStart_tooLate hrun hq hh hf hs hd)

/-- What a coupling command stages: its descriptor, from the earliest frame. -/
def couplingStaged (s : State) (a : Nat) (c : PlanCmd) (j : Nat) (cmd : Instr) (x : Couple) : Prop :=
  Completes cmd s [] [.pln] fun e => e.out = [] ∧ s.dev.staged e {
    fs := earliest s.dev
    parts := [{
      axset := a, kind := .start, couples := [(j, some x)]
      run := { cmd := c, start := earliest s.dev, zero := earliest s.dev, mode := .coupling, flags := if c.noBlend then 64 else 0 } }] }

section Couple
variable {a : Fin 36} {c : PlanCmd} {j : Nat} (hj : coupleSlot s.dev a c = some j) (hb : badFields s.dev a c = false)
include hj hb

theorem couplings_staged (hg : syncOf c = none) (hst : c.startAt = none) (hf : atFrame c = false) :
    (planReady s.dev a 0x18 = some (c, none) → slotAtRest s.dev j = true → couplingStaged s a c j (.gearIn a) (gearCouple a c)) ∧
    (∀ x, planReady s.dev a 0x19 = some (c, none) → coupleOf s.dev j = some x → x.cam = none → imageAtRest s.dev x.master = false →
      couplingStaged s a c j (.gearOut a) { x with leaving := some (body32 c.body 0x1C), outcome := none }) ∧
    (planReady s.dev a 0x1A = some (c, none) → (bodyAt c.body 0x13).testBit 0 = false → slotAtRest s.dev j = true →
      couplingStaged s a c j (.camIn a) (camCouple a c)) ∧
    (∀ x i l f, planReady s.dev a 0x1A = some (c, none) → (bodyAt c.body 0x13).testBit 0 = true → coupleOf s.dev j = some x → x.cam = some i →
      x.phase = .inForce → (camOf s.dev i).getLast? = some l → (camOf s.dev (bodyAt c.body 0x12)).head? = some f →
      l.y = f.y → l.y1 = f.y1 → l.y2 = f.y2 → couplingStaged s a c j (.camIn a)
        { x with nextCam := some (bodyAt c.body 0x12, f64OfRatio (bodyInt c.body 0x18) 65536, bodyInt c.body 0x1C), outcome := none }) ∧
    (∀ x i, planReady s.dev a 0x1B = some (c, none) → coupleOf s.dev j = some x → x.cam = some i → imageAtRest s.dev x.master = false →
      couplingStaged s a c j (.camOut a) { x with leaving := some 0, mark := body32 c.body 0x14, outcome := none }) := by
  have hstage {cmd : Instr} {x : Couple} (hx : Effect cmd s.dev.cleared (startCouple s.dev.cleared a c j x)) : couplingStaged s a c j cmd x :=
    stages_couple hx hg hst hf
  rw [← coupleSlot_cleared] at hj
  rw [← badFields_cleared] at hb
  simp only [← planReady_cleared s.dev, ← slotAtRest_cleared s.dev, ← coupleOf_cleared s.dev, ← imageAtRest_cleared s.dev,
    ← camOf_cleared s.dev]
  exact ⟨fun hr h => hstage (gearIn_starts hj hb hr h), fun x hr hx hc hm => hstage (gearOut_starts hj hb hr hx hc hm),
    fun hr hn h => hstage (camIn_starts hj hb hr hn h),
    fun x i l f hr hn hx hc hp hl hf hy hy1 hy2 => hstage (camIn_switches hj hb hr hn hx hc hp hl hf hy hy1 hy2),
    fun x i hr hx hc hm => hstage (camOut_starts hj hb hr hx hc hm)⟩

variable {h : HostCmd} (hq : (armOf s.dev a).queue = [c]) (hp : s.dev.pays c h)
include hq hp

theorem gearIn_refused (hr : planReady s.dev a 0x18 = some (c, none)) (hrest : slotAtRest s.dev j = false) :
    Answers (.gearIn a) s fun e => s.dev.headEnds e a h 0xB := by
  rw [← slotAtRest_cleared] at hrest
  exact answers_headEnds (r := .notAtRest) hq hp (gearIn_moving (by rwa [coupleSlot_cleared]) (by rwa [badFields_cleared])
    (by rwa [planReady_cleared]) hrest)

theorem camIn_refused (hr : planReady s.dev a 0x1A = some (c, none)) (hn : (bodyAt c.body 0x13).testBit 0 = true)
    (hx : coupleOf s.dev j = none) : Answers (.camIn a) s fun e => s.dev.headEnds e a h 0xD := by
  rw [← coupleOf_cleared] at hx
  exact answers_headEnds (r := .camMismatch) hq hp (camIn_uncoupled (by rwa [coupleSlot_cleared]) (by rwa [badFields_cleared])
    (by rwa [planReady_cleared]) hn hx)

theorem couplingOut_uncoupled (hx : coupleOf s.dev j = none) :
    (planReady s.dev a 0x19 = some (c, none) → Answers (.gearOut a) s fun e => s.dev.headEnds e a h 0) ∧
    (planReady s.dev a 0x1B = some (c, none) → Answers (.camOut a) s fun e => s.dev.headEnds e a h 0) := by
  rw [← coupleSlot_cleared] at hj
  rw [← badFields_cleared] at hb
  rw [← coupleOf_cleared] at hx
  simp only [← planReady_cleared s.dev]
  exact ⟨fun hr => answers_headEnds (r := .ok) hq hp (gearOut_uncoupled hj hb hr hx),
    fun hr => answers_headEnds (r := .ok) hq hp (camOut_uncoupled hj hb hr hx)⟩

theorem couplingOut_atRest {x : Couple} (hx : coupleOf s.dev j = some x) (hm : imageAtRest s.dev x.master = true) :
    (planReady s.dev a 0x19 = some (c, none) → x.cam = none →
      Answers (.gearOut a) s fun e => s.dev.headEnds e a h 0 ∧ coupleOf e j = none) ∧
    (planReady s.dev a 0x1B = some (c, none) → x.cam ≠ none →
      Answers (.camOut a) s fun e => s.dev.headEnds e a h 0 ∧ coupleOf e j = none) := by
  rw [← coupleSlot_cleared] at hj
  rw [← badFields_cleared] at hb
  rw [← coupleOf_cleared] at hx
  rw [← imageAtRest_cleared] at hm
  simp only [← planReady_cleared s.dev]
  exact ⟨fun hr hc => answers_endCouple hq hp (gearOut_atRest hj hb hr hx hc hm),
    fun hr hc => answers_endCouple hq hp (camOut_atRest hj hb hr hx hc hm)⟩

end Couple

end Settled

/-- Settles O57: couplings by what they stage and how they end (`couplings_staged`, `answers_endCouple`), zones by their owners after a pass
over them (`releaseZones_owner`, `grantZones_owner`), starts by the marks they leave, ends by the arm that is left (`armEnded`,
`armStopped`). -/
theorem plannerCouplingsAndZones : Obligations.PlannerCouplingsAndZones := by
  refine ⟨?_, fun s a h => (gearIn_notReady (by rwa [planReady_cleared])).unchanged,
    fun s a h => (gearOut_notReady (by rwa [planReady_cleared])).unchanged, fun s a h => (camIn_notReady (by rwa [planReady_cleared])).unchanged,
    fun s a h => (camOut_notReady (by rwa [planReady_cleared])).unchanged, fun s a h => (zoneRelease_notReady (by rwa [planReady_cleared])).unchanged,
    fun s a c h hr hq hp hb hw hf hg hidle => zoneRelease_done hr hq hp hb hw hf hg hidle,
    fun s a c f hr hb hw hf hg hst => zoneRelease_staged hr hb hw hf hg hst, ?_,
    fun s a c hw hidle hz => zoneGrant_done hw hidle hz, fun s a c h t hw ht => zoneTimeout_done hw ht, fun s tag => syncStart_done tag,
    fun s a c rest f hrun hq hh => atFrameStart_done hrun hq hh,
    fun s a hrun => (commandEndFrame_idle (by rwa [armOf_cleared])).unchanged, ?_, ?_⟩
  · intro s a c j h hj hb hg hst hf coupled
    obtain ⟨hgin, hgout, hcin, hswitch, hcout⟩ := couplings_staged hj hb hg hst hf
    exact ⟨hgin, fun hr hrest hq hp => gearIn_refused hj hb hq hp hr hrest, hgout, hcin, hswitch,
      fun hr hn hx hq hp => camIn_refused hj hb hq hp hr hn hx, hcout, fun hx hq hp => couplingOut_uncoupled hj hb hq hp hx,
      fun x hx hm hq hp => couplingOut_atRest hj hb hq hp hx hm⟩
  · intro s a hw
    rw [← waiting_cleared] at hw
    exact ⟨(zoneGrant_nobodyWaits hw).unchanged, (zoneTimeout_nobodyWaits hw).unchanged⟩
  · intro s a r f h hrun hn hq hf hp
    exact ⟨commandEnd_early hrun hf, commandEnd_moved hrun hf hp hn hq, fun code => commandEnd_stopped hrun hf hp hq,
      commandEnd_held hrun hf⟩
  · intro s a r n f h hrun hn ht hf hm hd hp
    exact commandEnd_blended hrun hf hp hn ht hm hd

end Sys2Proof.Machine
end

section
/-!
SUPPORT. Changes of a plan (O58): overrides, stops, holds and caps of an axis set that is idle, and the splice of one that moves (R223 to
R226, R232, R233, R243).
-/
namespace Sys2Proof.Machine
open RegField

section Cleared
variable (d : Dev) (a : Nat)

@[simp] theorem flightOp_cleared (sq rsn op : Nat) : flightOp d.cleared sq rsn op = flightOp d sq rsn op := rfl
@[simp] theorem setStopped_cleared : setStopped d.cleared a = setStopped d a := rfl
@[simp] theorem spliceBase_cleared : spliceBase d.cleared a = spliceBase d a := rfl
@[simp] theorem stagedSplice_cleared : stagedSplice d.cleared a = stagedSplice d a := rfl
@[simp] theorem splice_cleared (x : SpliceBase) (stopSet rest : Bool) : x.splice d.cleared a stopSet rest = x.splice d a stopSet rest := rfl

end Cleared

/-! What an axis set does. -/

theorem setMode_idle {d : Dev} {a : Nat} (h : (armOf d a).run = none) : setMode d a = none := by
  unfold setMode
  rw [h]
  cases stagedSplice d a <;> rfl

theorem setMode_lone {d : Dev} {a : Nat} {r : Run} (hr : (armOf d a).run = some r) (hn : (armOf d a).next = none)
    (hs : stagedSplice d a = none) : setMode d a = some r.mode := by
  unfold setMode
  rw [hr, hs, hn]

/-- What a splice of a run starts from that blends with nothing and that no splice on its way changes. -/
def loneBase (d : Dev) (r : Run) : SpliceBase :=
  let fs := if frameDiff (earliest d) r.zero < 0 then r.zero else earliest d
  let k := (frameDiff fs r.zero).toNat
  { run := r, next := none, base := r.plan, split := none, fs := fs, frame := k, state := planState r.plan r.plan.path k }

theorem carried_none {d : Dev} {a : Nat} (hs : stagedSplice d a = none) (r : Run) : carried d a r = r := by
  unfold carried
  rw [hs]

theorem spliceBase_lone {d : Dev} {a : Nat} {r : Run} (hr : (armOf d a).run = some r) (hn : (armOf d a).next = none)
    (hs : stagedSplice d a = none) : spliceBase d a = some (loneBase d r) := by
  unfold spliceBase
  dsimp only
  rw [hr, hn]
  dsimp only
  rw [carried_none hs]
  rfl

theorem stagedAnswers_none {d : Dev} {a : Nat} (hs : stagedSplice d a = none) : stagedAnswers d a = [] := by
  unfold stagedAnswers
  rw [hs]

theorem abortOverrides_none {d : Dev} {a : Nat} (hs : stagedSplice d a = none) : abortOverrides d a = (d, []) := by
  unfold abortOverrides
  rw [stagedAnswers_none hs]
  rfl

/-! Commands that begin. -/

theorem startCmd_sameBut (d : Dev) (sq rsn : Nat) : SameBut d (startCmd d sq rsn) [] [] [.host] := by
  unfold startCmd onFlight
  exact (SameBut.refl d _ _ _).onHost _ (by simp)

theorem startCmd_inFlight (d : Dev) (sq rsn : Nat) :
    inFlight (startCmd d sq rsn) sq rsn = (inFlight d sq rsn).map fun y => { y with begun := true } := by
  have hkey : ((fun c : HostCmd => decide (c.sq = sq ∧ c.rsn = rsn)) ∘ fun c : HostCmd =>
      if c.sq = sq ∧ c.rsn = rsn then { c with begun := true } else c) = fun c : HostCmd => decide (c.sq = sq ∧ c.rsn = rsn) := by
    funext c
    by_cases h : c.sq = sq ∧ c.rsn = rsn
    · simp [h]
    · simp [if_neg h]
  have hfind : inFlight (startCmd d sq rsn) sq rsn =
      (inFlight d sq rsn).map fun c => if c.sq = sq ∧ c.rsn = rsn then { c with begun := true } else c := by
    unfold inFlight startCmd onFlight onHost
    rw [List.find?_map, hkey]
  rw [hfind]
  cases h : inFlight d sq rsn with
  | none => rfl
  | some c =>
    simp only [Option.map_some, Option.some.injEq]
    exact if_pos (inFlight_key h)

/-! Splices of a run that blends with nothing. -/

theorem SameBut.staged {a d : Dev} {fs : List RegField} {es : List (RegField × Nat)} {ps : List Part} (h : SameBut a d fs es ps) (k : Commit)
    (hp : .pln ∈ ps) : SameBut a (stage d k) fs es ps := h.onPln _ hp

/-- A run as a splice leaves it. -/
def splicedRun (x : SpliceBase) (p : Spliced) (mode : RunMode) : Run :=
  { x.run with
    plan := p.plan, zero := x.fs, written := 0, fin := none, till := none, mode := mode
    flags := if p.scaled then withFlag x.run.flags 5 else x.run.flags
    hold := if mode = .holding then some (x.base, p.ends, x.split) else none
    track := if mode = .moving ∧ x.run.mode = .moving then x.run.track else none }

theorem stageSplice_lone {d : Dev} {a : Nat} {x : SpliceBase} {stopSet rest : Bool} {mode : RunMode} {p : Spliced}
    (answer : List (Nat × Nat)) (couples : List (Nat × Option Couple)) (hrest : decide (mode ≠ .moving) = rest) (hn : x.next = none)
    (hp : x.splice d a stopSet rest = some p) (hc : p.clamped = false) :
    stageSplice d a x stopSet mode id answer couples = stage (d.each answer fun d q => startCmd d q.1 q.2) {
      fs := x.fs, fixed := true
      parts := [{ axset := a, kind := .splice, answer := answer, couples := couples, run := splicedRun x p mode }] } := by
  unfold stageSplice
  rw [hrest, hp]
  simp only [hn, hc, Bool.false_eq_true, false_and, if_false, Option.map_none, ite_self]
  cases mode <;> rfl

/-! Queues that are flushed. -/

/-- A device whose axis set `a` has lost its queue and what was staged for it, the zones that were granted to it still out. -/
def flushed (d : Dev) (a : Nat) : Dev := onArm (unplan d a) a fun x => { x with queue := [] }

theorem flushed_silent (d : Dev) (a : Nat) : Silent d (flushed d a) [] [.pln] :=
  ((Silent.refl d _ _).onPln _ (by simp)).onArm _ _ (by simp)

theorem flushed_arm (d : Dev) (a : Nat) : armOf (flushed d a) a = { armOf d a with queue := [] } := armOf_onArm_same ..

theorem flushed_stagedSplice {d : Dev} {a : Nat} (h : stagedSplice d a = none) : stagedSplice (flushed d a) a = none := by
  refine List.find?_eq_none.mpr fun q hq => ?_
  obtain ⟨k, hk, hq⟩ := List.mem_flatMap.mp hq
  exact List.find?_eq_none.mp h q (List.mem_flatMap.mpr ⟨k, (List.mem_filter.mp hk).1, hq⟩)

theorem flushQueue_empty {d : Dev} {a : Nat} (h : (armOf d a).queue = []) (r : PlanResult) : flushQueue d a r = flushed d a := by
  unfold flushQueue
  rw [h]
  rfl

theorem giveBack_silent (d : Dev) (a : Nat) (c : PlanCmd) : Silent d (giveBack d a c) [PLN_ZONE_OWNER] [] := by
  refine .each (fun b z _ => ?_) (.refl _ _ _)
  split
  · exact (Silent.refl _ _ _).wr _ _ _ (by simp)
  · exact .refl _ _ _

theorem flushQueue_one {d : Dev} {a : Nat} {p : PlanCmd} (h : (armOf d a).queue = [p]) (r : PlanResult) :
    flushQueue d a r = endCmd (giveBack (flushed d a) a p) p r := by
  unfold flushQueue
  rw [h]
  rfl

section FlushedOne
variable {d : Dev} {a : Nat} {p : PlanCmd}

theorem flushedOne_silent (d : Dev) (a : Nat) (p : PlanCmd) : Silent d (giveBack (flushed d a) a p) [PLN_ZONE_OWNER] [.pln] :=
  ((flushed_silent d a).mono (by simp) (List.Subset.refl _)).trans ((giveBack_silent ..).mono (List.Subset.refl _) (by simp))

theorem flushedOne_arm (d : Dev) (a : Nat) (p : PlanCmd) : armOf (giveBack (flushed d a) a p) a = { armOf d a with queue := [] } := by
  rw [armOf_congr ((giveBack_silent ..).pln_eq (by simp)), flushed_arm]

end FlushedOne

section Spliced
variable (d : Dev) (a b : Nat) (x : SpliceBase) (stopSet rest : Bool)

theorem splice_onArm (f : ArmPlan → ArmPlan) : x.splice (onArm d a f) b stopSet rest = x.splice d b stopSet rest := rfl

theorem splice_unplan : x.splice (unplan d a) b stopSet rest = x.splice d b stopSet rest := rfl

theorem splice_flushed : x.splice (flushed d a) b stopSet rest = x.splice d b stopSet rest := by
  rw [flushed, splice_onArm, splice_unplan]

end Spliced

/-! Completions of commands whose own work is at once. -/

theorem answerNow_eq {d : Dev} {sq rsn op : Nat} {c : HostCmd} (ho : d.owes sq rsn op c) {e : Dev} (hh : e.host = d.host) (r : PlanResult) :
    answerNow e c.sq c.rsn r = finish e c { result := r.code } := complete_due (ho.due.congr hh) _

theorem answerNow_completed {d e : Dev} {sq rsn op : Nat} {c : HostCmd} {fs : List RegField} {ps : List Part} (ho : d.owes sq rsn op c)
    (hs : SameBut d e fs [] ps) (hd : answerRegs.Disjoint fs) (hp : Part.host ∉ ps ∧ Part.grp ∉ ps ∧ Part.lanes ∉ ps) (r : PlanResult) :
    d.completed (answerNow e c.sq c.rsn r) c { result := r.code } := by
  rw [answerNow_eq ho (hs.host_eq hp.1)]
  exact (SameAnswer.of_sameBut hs hd hp.2.1 hp.2.2).completed (finish_completed ..)

theorem answerNow_sameBut (d : Dev) (sq rsn : Nat) (r : PlanResult) : SameBut d (answerNow d sq rsn r) flightFields [] [.host] :=
  complete_sameBut ..

@[simp] theorem answerNow_pln (d : Dev) (sq rsn : Nat) (r : PlanResult) : (answerNow d sq rsn r).pln = d.pln := complete_pln ..
@[simp] theorem armOf_answerNow (d : Dev) (sq rsn : Nat) (r : PlanResult) (a : Nat) : armOf (answerNow d sq rsn r) a = armOf d a :=
  armOf_complete ..

end Sys2Proof.Machine
end

section
/-!
SUPPORT. Overrides, stops, holds and caps by their commands (O58; R223 to R226, R232, R233).
-/
namespace Sys2Proof.Machine
open RegField

/-! Commands of the immediate queue, each by what it does to the axis set it names. -/

section Immediate
variable {d : Dev} {sq : Fin 17} {rsn : Word32} {c : HostCmd}

theorem exec_override (sq : Fin 17) (rsn : Word32) (s : State) : exec (.override sq rsn) s = execOverride sq rsn s := rfl
theorem exec_stopAndFlush (sq : Fin 17) (rsn : Word32) (s : State) : exec (.stopAndFlush sq rsn) s = execStopAndFlush sq rsn s := rfl
theorem exec_feedHold (sq : Fin 17) (rsn : Word32) (s : State) : exec (.feedHold sq rsn) s = execFeedHold sq rsn s := rfl
theorem exec_resume (sq : Fin 17) (rsn : Word32) (s : State) : exec (.resume sq rsn) s = execResume sq rsn s := rfl
theorem exec_speedCap (a : Fin 32) (s : State) : exec (.speedCap a) s = execSpeedCap a s := rfl
theorem exec_safetyStopDecision (a : Fin 32) (s : State) : exec (.safetyStopDecision a) s = execSafetyStopDecision a s := rfl

/-- A queued command with the speed and limit set an OVERRIDE names. -/
def overridden (c : HostCmd) (p : PlanCmd) : PlanCmd :=
  { p with
    pct := if (bodyAt c.body 1).testBit 0 then bodyAt c.body 2 else p.pct
    limset := if (bodyAt c.body 1).testBit 1 then bodyAt c.body 3 else p.limset }

/-- A device whose queued commands of axis set `a` an OVERRIDE has changed. -/
def queueChanged (d : Dev) (a : Nat) (c : HostCmd) : Dev := onArm (unplan d a) a fun x => { x with queue := x.queue.map (overridden c) }

theorem override_idle (ho : flightOp d sq rsn.toNat 0x20 = some c) (hr : (armOf d (bodyAt c.body 0)).run = none) :
    Effect (.override sq rsn) d (showPlan (answerNow (queueChanged d (bodyAt c.body 0) c) c.sq c.rsn .ok)) := by
  refine ⟨_, exec_override sq rsn, ?_⟩
  dsimp only
  rw [ho]
  dsimp only
  rw [setMode_idle hr]
  rfl

/-- What the splice of a RESUME starts from: the path at rest at coordinate `at'`. -/
def heldBase (d : Dev) (a : Nat) (r : Run) (base : Plan) (at' : F64) : SpliceBase :=
  ⟨r, (armOf d a).next, base, none, earliest d, (f64Floor (pathTime base.path at' 64 f64Zero (f64Nat base.len))).toNat, (at', f64Zero, f64Zero)⟩

@[simp] theorem heldBase_cleared (d : Dev) (a : Nat) (r : Run) (base : Plan) (at' : F64) :
    heldBase d.cleared a r base at' = heldBase d a r base at' := rfl

section StopArm
variable (ho : flightOp d sq rsn.toNat 0x21 = some c)
include ho

theorem stopAndFlush_otherKind (hk : bodyAt c.body 1 ≠ 0) : Effect (.stopAndFlush sq rsn) d d := by
  refine ⟨_, exec_stopAndFlush sq rsn, ?_⟩
  dsimp only
  rw [ho]
  exact if_pos hk

theorem feedHold_otherKind (hk : bodyAt c.body 1 ≠ 1) : Effect (.feedHold sq rsn) d d := by
  refine ⟨_, exec_feedHold sq rsn, ?_⟩
  dsimp only
  rw [ho]
  exact if_pos hk

theorem resume_otherKind (hk : bodyAt c.body 1 ≠ 2) : Effect (.resume sq rsn) d d := by
  refine ⟨_, exec_resume sq rsn, ?_⟩
  dsimp only
  rw [ho]
  exact if_pos hk

theorem stopAndFlush_idle (hk : bodyAt c.body 1 = 0) (hr : (armOf (flushQueue d (bodyAt c.body 0) .aborted) (bodyAt c.body 0)).run = none) :
    Effect (.stopAndFlush sq rsn) d (showPlan (answerNow (flushQueue d (bodyAt c.body 0) .aborted) c.sq c.rsn .ok)) := by
  refine ⟨_, exec_stopAndFlush sq rsn, ?_⟩
  dsimp only
  rw [ho]
  simp only [hk, ne_eq, not_true, if_false, setMode_idle hr]

theorem stopAndFlush_moving (hk : bodyAt c.body 1 = 0) (hm : setMode (flushQueue d (bodyAt c.body 0) .aborted) (bodyAt c.body 0) = some .moving) :
    Effect (.stopAndFlush sq rsn) d (
      showPlan (stopSplice (flushQueue d (bodyAt c.body 0) .aborted) (bodyAt c.body 0) (.stopping 1) [(c.sq, c.rsn)] [])) := by
  refine ⟨_, exec_stopAndFlush sq rsn, ?_⟩
  dsimp only
  rw [ho]
  simp only [hk, ne_eq, not_true, if_false, hm]

theorem feedHold_idle (hk : bodyAt c.body 1 = 1) (hr : (armOf d (bodyAt c.body 0)).run = none) :
    Effect (.feedHold sq rsn) d (showPlan (answerNow d c.sq c.rsn .ok)) := by
  refine ⟨_, exec_feedHold sq rsn, ?_⟩
  dsimp only
  rw [ho]
  simp only [hk, ne_eq, not_true, if_false, setMode_idle hr, reduceCtorEq]

theorem feedHold_moving (hk : bodyAt c.body 1 = 1) (hm : setMode d (bodyAt c.body 0) = some .moving) :
    Effect (.feedHold sq rsn) d (showPlan (stopSplice d (bodyAt c.body 0) .holding [(c.sq, c.rsn)] [])) := by
  refine ⟨_, exec_feedHold sq rsn, ?_⟩
  dsimp only
  rw [ho]
  simp only [hk, ne_eq, not_true, if_false, hm, if_true]

theorem resume_idle (hk : bodyAt c.body 1 = 2) (hr : (armOf d (bodyAt c.body 0)).run = none) :
    Effect (.resume sq rsn) d (showPlan (answerNow d c.sq c.rsn .notHeld)) := by
  refine ⟨_, exec_resume sq rsn, ?_⟩
  dsimp only
  rw [ho]
  simp only [hk, ne_eq, not_true, if_false, setMode_idle hr]

theorem resume_held {r : Run} {base : Plan} {at' : F64} (hk : bodyAt c.body 1 = 2) (hm : setMode d (bodyAt c.body 0) = some .held)
    (hr : (armOf d (bodyAt c.body 0)).run = some r) (hh : r.hold = some (base, at', none)) :
    Effect (.resume sq rsn) d (showPlan (
      stageSplice d (bodyAt c.body 0) (heldBase d (bodyAt c.body 0) r base at') false .moving id [(c.sq, c.rsn)] [])) := by
  refine ⟨_, exec_resume sq rsn, ?_⟩
  dsimp only
  rw [ho]
  simp only [hk, ne_eq, not_true, if_false, hm, hr, hh, Option.bind_some, Option.map_some, heldBase]

end StopArm

end Immediate

section Axis
variable {d : Dev} {a : Fin 32}

/-- A device that knows the cap now in force for axis set `a`. -/
def capKnown (d : Dev) (a : Nat) : Dev := onPln d fun p => { p with caps := SMap.set none p.caps a (capOf d a) }

theorem capKnown_silent (d : Dev) (a : Nat) (fs : List RegField) : Silent d (capKnown d a) fs [.pln] :=
  (Silent.refl d _ _).onPln _ (by simp)

theorem splice_capKnown (d : Dev) (a b : Nat) (x : SpliceBase) (stopSet rest : Bool) :
    x.splice (capKnown d a) b stopSet rest = x.splice d b stopSet rest := rfl

theorem speedCap_idle (hr : (armOf d a).run = none) : Effect (.speedCap a) d (showPlan (capKnown d a)) := by
  have hm : setMode (capKnown d a) a = none := setMode_idle hr
  refine ⟨_, exec_speedCap a, ?_⟩
  dsimp only
  rw [← capKnown, hm]

theorem speedCap_fast {x : SpliceBase} (hm : setMode d a = some .moving) (hx : spliceBase d a = some x)
    (hf : f64Lt (slack (f64Nat 1)) (planOver d a x.base x.frame) = true) :
    Effect (.speedCap a) d (showPlan (stageSplice (capKnown d a) a x true .moving id (stagedAnswers (capKnown d a) a) [])) := by
  have hm : setMode (capKnown d a) a = some .moving := hm
  have hx : spliceBase (capKnown d a) a = some x := hx
  have hf : f64Lt (slack (f64Nat 1)) (planOver (capKnown d a) a x.base x.frame) = true := hf
  refine ⟨_, exec_speedCap a, ?_⟩
  dsimp only
  rw [← capKnown, hm, hx]
  simp only [hf, true_or, if_true]

theorem safetyStopDecision_off (h : setStopped d a = false) : Effect (.safetyStopDecision a) d d := by
  refine ⟨_, exec_safetyStopDecision a, ?_⟩
  dsimp only
  rw [h]
  rfl

theorem safetyStopDecision_idle (h : setStopped d a = true) (hr : (armOf (flushQueue d a .safetyStop) a).run = none)
    (hc : forcedOut (flushQueue d a .safetyStop) a = []) :
    Effect (.safetyStopDecision a) d (showPlan (onArm (flushQueue d a .safetyStop) a fun x => { x with safety := true })) := by
  refine ⟨_, exec_safetyStopDecision a, ?_⟩
  dsimp only
  rw [h]
  simp only [Bool.not_true, Bool.false_eq_true, if_false, setMode_idle hr, hc]
  rfl

end Axis

end Sys2Proof.Machine
end

section
/-!
SUPPORT. Changes of a plan for a state (O58): what the commands on an idle axis set answer, and the commits of the splices.
-/
namespace Sys2Proof.Machine
open RegField

theorem Answers.imp {cmd : Instr} {s : State} {p q : Dev → Prop} (h : Answers cmd s p) (hpq : ∀ e, p e → q e) : Answers cmd s q := by
  obtain ⟨t, ht, hpend, hp⟩ := h
  exact ⟨t, ht, hpend, hpq _ hp⟩

section Changes
variable {s : State} {sq : Fin 17} {rsn : Word32} {c : HostCmd}

/-- A command that completes at once on what it changed of the Planner. -/
theorem answers_shown {cmd : Instr} {op : Nat} {e : Dev} {r : PlanResult} {fs : List RegField} {ps : List Part}
    (ho : s.dev.owes sq rsn.toNat op c) (hx : Effect cmd s.dev.cleared (showPlan (answerNow e c.sq c.rsn r)))
    (hs : SameBut s.dev.cleared e fs [] ps) (hd : answerRegs.Disjoint fs) (hp : Part.host ∉ ps ∧ Part.grp ∉ ps ∧ Part.lanes ∉ ps) :
    Touches cmd s (fs ++ (planViews ++ flightFields)) [] (ps ++ [.host]) ∧
      Answers cmd s fun e' => s.dev.completed e' c { result := r.code } ∧ e'.pln = e.pln := by
  refine ⟨hx.touches ?_, hx.answers ⟨?_, by simp⟩⟩
  · exact ((hs.showing (by simp) (by simp)).trans ((answerNow_sameBut ..).showing (by simp) (by simp))).trans
      ((showPlan_silent _).frame.showing (by simp) (by simp))
  · have hdone := answerNow_completed (d := s.dev.cleared) ho hs hd hp r
    exact hdone.silent (showPlan_silent _) (by simp)

theorem override_answers (ho : s.dev.owes sq rsn.toNat 0x20 c) (hr : (armOf s.dev (bodyAt c.body 0)).run = none) :
    Touches (.override sq rsn) s (planViews ++ flightFields) [] [.pln, .host] ∧
    Answers (.override sq rsn) s fun e => s.dev.completed e c {} ∧
      (armOf e (bodyAt c.body 0)).queue = (armOf s.dev (bodyAt c.body 0)).queue.map (overridden c) := by
  have hx := override_idle (d := s.dev.cleared) (by rw [flightOp_cleared]; exact ho.1) (by rwa [armOf_cleared])
  have hq : SameBut s.dev.cleared (queueChanged s.dev.cleared (bodyAt c.body 0) c) [] [] [.pln] :=
    ((SameBut.refl _ _ _ _).onPln _ (by simp)).onArm _ _ (by simp)
  obtain ⟨ht, ha⟩ := answers_shown ho hx hq (by simp) (by simp)
  refine ⟨ht, ha.imp fun e he => ⟨he.1, ?_⟩⟩
  rw [armOf_congr he.2, queueChanged, armOf_onArm_same]
  rfl

section StopArm
variable (ho : s.dev.owes sq rsn.toNat 0x21 c)
include ho

theorem stopArm_otherKind :
    (bodyAt c.body 1 ≠ 0 → Completes (.stopAndFlush sq rsn) s [] [] fun e => e.out = []) ∧
    (bodyAt c.body 1 ≠ 1 → Completes (.feedHold sq rsn) s [] [] fun e => e.out = []) ∧
    (bodyAt c.body 1 ≠ 2 → Completes (.resume sq rsn) s [] [] fun e => e.out = []) := by
  have hf : flightOp s.dev.cleared sq rsn.toNat 0x21 = some c := by rw [flightOp_cleared]; exact ho.1
  exact ⟨fun hk => (stopAndFlush_otherKind hf hk).unchanged, fun hk => (feedHold_otherKind hf hk).unchanged,
    fun hk => (resume_otherKind hf hk).unchanged⟩

theorem feedHold_answers (hk : bodyAt c.body 1 = 1) (hr : (armOf s.dev (bodyAt c.body 0)).run = none) :
    Touches (.feedHold sq rsn) s (planViews ++ flightFields) [] [.host] ∧ Answers (.feedHold sq rsn) s fun e => s.dev.completed e c {} := by
  have hx := feedHold_idle (d := s.dev.cleared) (by rw [flightOp_cleared]; exact ho.1) hk (by rwa [armOf_cleared])
  obtain ⟨ht, ha⟩ := answers_shown ho hx (.refl _ [] _ []) (by simp) (by simp)
  exact ⟨ht, ha.imp fun e he => he.1⟩

theorem resume_answers (hk : bodyAt c.body 1 = 2) (hr : (armOf s.dev (bodyAt c.body 0)).run = none) :
    Touches (.resume sq rsn) s (planViews ++ flightFields) [] [.host] ∧
      Answers (.resume sq rsn) s fun e => s.dev.completed e c { result := 0xE } := by
  have hx := resume_idle (d := s.dev.cleared) (by rw [flightOp_cleared]; exact ho.1) hk (by rwa [armOf_cleared])
  obtain ⟨ht, ha⟩ := answers_shown ho hx (.refl _ [] _ []) (by simp) (by simp)
  exact ⟨ht, ha.imp fun e he => he.1⟩

theorem stopAndFlush_answers {p : PlanCmd} {h : HostCmd} (hk : bodyAt c.body 1 = 0) (hr : (armOf s.dev (bodyAt c.body 0)).run = none)
    (hq : (armOf s.dev (bodyAt c.body 0)).queue = [p]) (hp : s.dev.pays p h) (hne : h.sq ≠ c.sq) :
    Touches (.stopAndFlush sq rsn) s (planViews ++ flightFields ++ [PLN_ZONE_OWNER]) [] [.pln, .host] ∧
    Answers (.stopAndFlush sq rsn) s fun e => (armOf e (bodyAt c.body 0)).queue = [] ∧ inFlight e c.sq c.rsn = none ∧
      inFlight e p.sq p.rsn = none ∧
      (h.sq < 16 → ∃ y ∈ SMap.get [] e.host.store h.sq, y.rsn = h.rsn ∧ y.entry = cqeBytes s.dev h { result := 1 }) := by
  have hflush := flushQueue_one (d := s.dev.cleared) hq .aborted
  generalize hg : giveBack (flushed s.dev.cleared (bodyAt c.body 0)) (bodyAt c.body 0) p = g at hflush
  have hsil : Silent s.dev.cleared g [PLN_ZONE_OWNER] [.pln] := hg ▸ flushedOne_silent _ _ _
  have harm : armOf g (bodyAt c.body 0) = { armOf s.dev (bodyAt c.body 0) with queue := [] } := hg ▸ flushedOne_arm _ _ _
  have hx := stopAndFlush_idle (d := s.dev.cleared) (by rw [flightOp_cleared]; exact ho.1) hk (by rw [hflush, armOf_endCmd, harm]; exact hr)
  rw [hflush] at hx
  have hpays : g.pays p h := Dev.pays.congr (d := s.dev) hp (hsil.host_eq (by simp))
  obtain ⟨hsq, hrsn⟩ := hpays.key
  have hend : endCmd g p .aborted = finish g h { result := 1 } := by
    rw [endCmd, ← hsq, ← hrsn]
    exact complete_due hpays.due _
  have hdue : (endCmd g p .aborted).due c := by
    obtain ⟨hflight, hparts, hans⟩ := (ho.due.congr (e := g) (hsil.host_eq (by simp)))
    refine ⟨?_, hparts, hans⟩
    rw [hend, finish_inFlight, if_neg (fun hc => hne hc.1.symm), hflight]
  have hanswer : answerNow (endCmd g p .aborted) c.sq c.rsn .ok = finish (endCmd g p .aborted) c {} := complete_due hdue _
  refine ⟨hx.touches ?_, hx.answers ⟨?_, ?_, ?_, fun h16 => ?_⟩⟩
  · exact (((hsil.frame.showing (by simp) (by simp)).trans ((endCmd_sameBut ..).showing (by simp) (by simp))).trans
      ((answerNow_sameBut ..).showing (by simp) (by simp))).trans ((showPlan_silent _).frame.showing (by simp) (by simp))
  · rw [armOf_showPlan, armOf_answerNow, armOf_endCmd, harm]
  · rw [inFlight_congr (showPlan_host _), hanswer, finish_inFlight, if_pos ⟨rfl, rfl⟩]
  · rw [inFlight_congr (showPlan_host _), hanswer, finish_inFlight, ← hsq, ← hrsn, if_neg (fun hc => hne hc.1), hend, finish_inFlight,
      if_pos ⟨rfl, rfl⟩]
  · rw [showPlan_host, hanswer, finish_store_other hne, hend, finish_store h16, if_pos rfl]
    refine ⟨_, mem_withEntry .., rfl, ?_⟩
    exact (SameAnswer.of_sameBut hsil.frame (by simp [answerRegs]) (by simp) (by simp)).cqeBytes _ _

end StopArm

/-- What the splice of a stop or a hold stages. -/
theorem stages_stop {cmd : Instr} {mode : RunMode} {e : Dev} {r : Run} {x : SpliceBase} {p : Spliced}
    (hx : Effect cmd s.dev.cleared (showPlan (stopSplice e (bodyAt c.body 0) mode [(c.sq, c.rsn)] [])))
    (hsil : Silent s.dev.cleared e [] [.pln]) (hb : spliceBase e (bodyAt c.body 0) = some x) (hs : stagedSplice e (bodyAt c.body 0) = none)
    (hxr : x.run = r) (hn : x.next = none) (hm : mode ≠ .moving)
    (hp : x.splice e (bodyAt c.body 0) true true = some p) (hc : p.clamped = false) :
    Touches cmd s planViews [] [.pln, .host] ∧
    Answers cmd s fun e' => e'.out = [] ∧
      inFlight e' c.sq c.rsn = (inFlight s.dev c.sq c.rsn).map (fun y => { y with begun := true }) ∧
      ({ fs := x.fs, fixed := true
         parts := [{
           axset := bodyAt c.body 0, kind := .splice, answer := [(c.sq, c.rsn)]
           run := { r with plan := p.plan, zero := x.fs, written := 0, fin := none, till := none, mode := mode, track := none
                           flags := if p.scaled then withFlag r.flags 5 else r.flags
                           hold := if mode = .holding then some (x.base, p.ends, x.split) else none } }] } : Commit) ∈ e'.pln.staged := by
  have hstop : stopSplice e (bodyAt c.body 0) mode [(c.sq, c.rsn)] [] =
      stageSplice e (bodyAt c.body 0) x true mode id [(c.sq, c.rsn)] [] := by
    unfold stopSplice
    rw [hb]
    simp only [abortOverrides_none hs, stagedAnswers_none hs, ite_self, List.nil_append]
  rw [hstop, stageSplice_lone _ _ (decide_eq_true hm) hn hp hc] at hx
  change Effect cmd s.dev.cleared (showPlan (stage (startCmd e c.sq c.rsn) _)) at hx
  refine ⟨hx.touches ?_, hx.answers ⟨?_, ?_, ?_⟩⟩
  · exact (((hsil.frame.showing (by simp) (by simp)).trans ((startCmd_sameBut ..).showing (by simp) (by simp))).onPln _ (by simp)).trans
      ((showPlan_silent _).frame.showing (List.Subset.refl _) (by simp))
  · rw [showPlan_out]
    exact hsil.out
  · rw [inFlight_congr (showPlan_host _)]
    refine (startCmd_inFlight e c.sq c.rsn).trans ?_
    rw [inFlight_congr (hsil.host_eq (by simp)), inFlight_congr (Dev.cleared_host _)]
  · rw [showPlan_pln, ← hxr]
    simp only [stage, onPln_pln, splicedRun, hm, false_and, if_false]
    exact List.mem_append_right _ (List.mem_singleton.mpr rfl)

/-- A run that blends with nothing stops, or comes to a hold, along its path. -/
theorem stopArm_moving {cmd : Instr} {r : Run} {mode : RunMode} (hcmd : (cmd = .stopAndFlush sq rsn ∧ mode = .stopping 1 ∧ bodyAt c.body 1 = 0) ∨
      (cmd = .feedHold sq rsn ∧ mode = .holding ∧ bodyAt c.body 1 = 1))
    (ho : s.dev.owes sq rsn.toNat 0x21 c) (hr : (armOf s.dev (bodyAt c.body 0)).run = some r) (hmov : r.mode = .moving)
    (hn : (armOf s.dev (bodyAt c.body 0)).next = none) (hq : (armOf s.dev (bodyAt c.body 0)).queue = [])
    (hs : stagedSplice s.dev (bodyAt c.body 0) = none) {x : SpliceBase} (hx : spliceBase s.dev (bodyAt c.body 0) = some x) {p : Spliced}
    (hp : x.splice s.dev (bodyAt c.body 0) true true = some p) (hc : p.clamped = false) :
    Touches cmd s planViews [] [.pln, .host] ∧
    Answers cmd s fun e' => e'.out = [] ∧
      inFlight e' c.sq c.rsn = (inFlight s.dev c.sq c.rsn).map (fun y => { y with begun := true }) ∧
      ({ fs := x.fs, fixed := true
         parts := [{
           axset := bodyAt c.body 0, kind := .splice, answer := [(c.sq, c.rsn)]
           run := { r with plan := p.plan, zero := x.fs, written := 0, fin := none, till := none, mode := mode, track := none
                           flags := if p.scaled then withFlag r.flags 5 else r.flags
                           hold := if mode = .holding then some (x.base, p.ends, x.split) else none } }] } : Commit) ∈ e'.pln.staged := by
  have hf : flightOp s.dev.cleared sq rsn.toNat 0x21 = some c := by rw [flightOp_cleared]; exact ho.1
  rw [spliceBase_lone hr hn hs] at hx
  obtain rfl := Option.some.inj hx
  rcases hcmd with ⟨rfl, rfl, hk⟩ | ⟨rfl, rfl, hk⟩
  · have hflush : flushQueue s.dev.cleared (bodyAt c.body 0) .aborted = flushed s.dev.cleared (bodyAt c.body 0) := flushQueue_empty (d := s.dev.cleared) hq _
    have hr' : (armOf (flushed s.dev.cleared (bodyAt c.body 0)) (bodyAt c.body 0)).run = some r := by rw [flushed_arm]; exact hr
    have hn' : (armOf (flushed s.dev.cleared (bodyAt c.body 0)) (bodyAt c.body 0)).next = none := by rw [flushed_arm]; exact hn
    have hs' : stagedSplice (flushed s.dev.cleared (bodyAt c.body 0)) (bodyAt c.body 0) = none := flushed_stagedSplice hs
    have hm := setMode_lone hr' hn' hs'
    have hx := stopAndFlush_moving hf hk (by rw [hflush, hm, hmov])
    rw [hflush] at hx
    rw [← splice_cleared, ← splice_flushed _ (bodyAt c.body 0)] at hp
    exact stages_stop hx (flushed_silent ..) (spliceBase_lone hr' hn' hs') hs' rfl rfl (by simp) hp hc
  · rw [← armOf_cleared] at hr hn
    rw [← stagedSplice_cleared] at hs
    rw [← splice_cleared] at hp
    have hx := feedHold_moving hf hk ((setMode_lone hr hn hs).trans (congrArg some hmov))
    exact stages_stop hx (.refl _ _ _) (spliceBase_lone hr hn hs) hs rfl rfl (by simp) hp hc

/-- A held run moves on along the same path. -/
theorem resume_moves {r : Run} {base : Plan} {at' : F64} (ho : s.dev.owes sq rsn.toNat 0x21 c) (hk : bodyAt c.body 1 = 2)
    (hr : (armOf s.dev (bodyAt c.body 0)).run = some r) (hheld : r.mode = .held) (hh : r.hold = some (base, at', none))
    (hn : (armOf s.dev (bodyAt c.body 0)).next = none) (hs : stagedSplice s.dev (bodyAt c.body 0) = none) {p : Spliced}
    (hp : (heldBase s.dev (bodyAt c.body 0) r base at').splice s.dev (bodyAt c.body 0) false false = some p) (hc : p.clamped = false) :
    Touches (.resume sq rsn) s planViews [] [.pln, .host] ∧
    Answers (.resume sq rsn) s fun e => e.out = [] ∧
      inFlight e c.sq c.rsn = (inFlight s.dev c.sq c.rsn).map (fun y => { y with begun := true }) ∧ s.dev.staged e {
        fs := earliest s.dev, fixed := true
        parts := [{
          axset := bodyAt c.body 0, kind := .splice, answer := [(c.sq, c.rsn)]
          run := { r with plan := p.plan, zero := earliest s.dev, written := 0, fin := none, till := none, mode := .moving, hold := none
                          flags := if p.scaled then withFlag r.flags 5 else r.flags, track := none } }] } := by
  rw [← armOf_cleared] at hr hn
  rw [← stagedSplice_cleared] at hs
  rw [← splice_cleared, ← heldBase_cleared] at hp
  have hx := resume_held (d := s.dev.cleared) (by rw [flightOp_cleared]; exact ho.1) hk ((setMode_lone hr hn hs).trans (congrArg some hheld)) hr hh
  rw [stageSplice_lone (rest := false) (mode := .moving) _ _ (by simp) hn hp hc] at hx
  change Effect _ s.dev.cleared (showPlan (stage (startCmd s.dev.cleared c.sq c.rsn) _)) at hx
  refine ⟨hx.touches ?_, hx.answers ⟨?_, ?_, ?_⟩⟩
  · exact (((startCmd_sameBut ..).showing (by simp) (by simp)).onPln _ (by simp)).trans
      ((showPlan_silent _).frame.showing (List.Subset.refl _) (by simp))
  · rw [showPlan_out]
    rfl
  · rw [inFlight_congr (showPlan_host _)]
    exact startCmd_inFlight s.dev.cleared c.sq c.rsn
  · rw [Dev.staged, showPlan_pln]
    simp only [splicedRun, heldBase, hheld, reduceCtorEq, and_false, if_false]
    rfl

end Changes

theorem slotsOf_congr {d e : Dev} (h : e.pln.models = d.pln.models) (a : Nat) : slotsOf e a = slotsOf d a := by
  unfold slotsOf modelOf
  rw [h]

section Axis
variable {s : State} {a : Fin 32}

theorem bitOf_mod (b : Bool) : bitOf b % 2 = bitOf b := by cases b <;> rfl

theorem showArm_capped (d : Dev) (a b : Nat) : (showArm d a).rd PLN_ARM_STAT_CAPPED b =
    if b = a then bitOf (SMap.get none d.pln.caps a).isSome else d.rd PLN_ARM_STAT_CAPPED b := by
  unfold showArm
  simp [bitOf_mod]

theorem showPlan_capped (d : Dev) {a : Nat} (ha : a < 36) :
    (showPlan d).rd PLN_ARM_STAT_CAPPED a = bitOf (SMap.get none d.pln.caps a).isSome := by
  have harms := Dev.each_elements (g := PLN_ARM_STAT_CAPPED) (K := fun b => b.pln = d.pln) (f := showArm) (xs := List.range 36)
    (F := fun z _ => bitOf (SMap.get none d.pln.caps z).isSome) (fun b x hb => ((showArm_silent b x).pln_eq (by simp)).trans hb)
    (fun b x hb z => by rw [showArm_capped, hb]) List.nodup_range rfl a
  rw [if_pos (List.mem_range.mpr ha)] at harms
  refine Eq.trans ?_ harms
  exact Dev.each_induct (P := fun b => b.rd PLN_ARM_STAT_CAPPED a = (d.each (List.range 36) showArm).rd PLN_ARM_STAT_CAPPED a)
    (fun b z _ hb => by simpa using hb) rfl

/-- The device found, with the cap now in force known. -/
theorem speedCap_idle_shows (hr : (armOf s.dev a).run = none) :
    Touches (.speedCap a) s planViews [] [.pln] ∧
    Answers (.speedCap a) s fun e => e.out = [] ∧ e.pln = (capKnown s.dev a).pln ∧ e.rd PLN_ARM_STAT_CAPPED a = bitOf (capOf s.dev a).isSome := by
  have hx := speedCap_idle (d := s.dev.cleared) (a := a) hr
  refine ⟨hx.touches (((SameBut.refl _ _ _ _).onPln _ (by simp)).trans ((showPlan_silent _).frame.showing (List.Subset.refl _) (by simp))),
    hx.answers ⟨by rw [showPlan_out]; rfl, by rw [showPlan_pln]; rfl, ?_⟩⟩
  rw [showPlan_capped _ (by omega)]
  exact congrArg (fun x => bitOf (Option.isSome x)) (SMap.get_set_same none s.dev.pln.caps a.val (capOf s.dev a))

theorem speedCap_splices {r : Run} (hr : (armOf s.dev a).run = some r) (hmov : r.mode = .moving) (hn : (armOf s.dev a).next = none)
    (hs : stagedSplice s.dev a = none) {x : SpliceBase} (hx : spliceBase s.dev a = some x)
    (hf : f64Lt (slack (f64Nat 1)) (planOver s.dev a x.base x.frame) = true) {p : Spliced} (hp : x.splice s.dev a true false = some p)
    (hc : p.clamped = false) :
    Touches (.speedCap a) s planViews [] [.pln] ∧
    Answers (.speedCap a) s fun e => e.out = [] ∧ (capKnown s.dev a).staged e {
      fs := x.fs, fixed := true
      parts := [{
        axset := a, kind := .splice
        run := { r with plan := p.plan, zero := x.fs, written := 0, fin := none, till := none, hold := none
                        flags := if p.scaled then withFlag r.flags 5 else r.flags } }] } := by
  rw [← armOf_cleared] at hr hn
  rw [← stagedSplice_cleared] at hs
  rw [← spliceBase_cleared] at hx
  obtain rfl := Option.some.inj ((spliceBase_lone hr hn hs).symm.trans hx)
  rw [← splice_cleared, ← splice_capKnown _ a] at hp
  have hx := speedCap_fast ((setMode_lone hr hn hs).trans (congrArg some hmov)) hx hf
  rw [stagedAnswers_none (d := capKnown s.dev.cleared a) hs,
    stageSplice_lone (rest := false) (mode := .moving) _ _ (by simp) rfl hp hc] at hx
  change Effect _ s.dev.cleared (showPlan (stage (capKnown s.dev.cleared a) _)) at hx
  refine ⟨hx.touches ?_, hx.answers ⟨by rw [showPlan_out]; rfl, ?_⟩⟩
  · exact ((capKnown_silent ..).frame.staged _ (by simp)).trans ((showPlan_silent _).frame.showing (List.Subset.refl _) (by simp))
  · rw [Dev.staged, showPlan_pln]
    simp only [splicedRun, hmov, loneBase, reduceCtorEq, and_self, if_true, if_false]
    rfl

theorem safetyStop_flushes {p : PlanCmd} {h : HostCmd} (hstop : setStopped s.dev a = true) (hr : (armOf s.dev a).run = none)
    (hq : (armOf s.dev a).queue = [p]) (hp : s.dev.pays p h) (hc : ∀ j ∈ slotsOf s.dev a, coupleOf s.dev j = none) :
    Touches (.safetyStopDecision a) s (planViews ++ flightFields ++ [PLN_ZONE_OWNER]) [] [.pln, .host] ∧
    Answers (.safetyStopDecision a) s fun e => s.dev.headEnds e a h 2 ∧ (armOf e a).safety = true := by
  have hflush : flushQueue s.dev.cleared a .safetyStop = _ := flushQueue_one (d := s.dev.cleared) hq _
  generalize hg : giveBack (flushed s.dev.cleared a) a p = g at hflush
  have hsil : Silent s.dev.cleared g [PLN_ZONE_OWNER] [.pln] := hg ▸ flushedOne_silent _ _ _
  have harm : armOf g a = { armOf s.dev a with queue := [] } := hg ▸ flushedOne_arm _ _ _
  have hnone : forcedOut (flushQueue s.dev.cleared a .safetyStop) a = [] := by
    have hpln : (flushQueue s.dev.cleared a .safetyStop).pln = (flushed s.dev.cleared a).pln := by
      rw [hflush, endCmd_pln, ← hg, (giveBack_silent ..).pln_eq (by simp)]
    refine List.filterMap_eq_nil_iff.mpr fun j hj => ?_
    rw [slotsOf_congr (d := s.dev) (by rw [hpln]; rfl)] at hj
    rw [coupleOf, hpln]
    exact congrArg _ (hc j hj)
  have hx := safetyStopDecision_idle (d := s.dev.cleared) hstop (by rw [hflush, armOf_endCmd, harm]; exact hr) hnone
  rw [hflush] at hx
  have hpays : g.pays p h := Dev.pays.congr (d := s.dev) hp (hsil.host_eq (by simp))
  have hsame : SameAnswer s.dev g := .of_sameBut hsil.frame.of_cleared (by simp [answerRegs]) (by simp) (by simp)
  have hdone := hsame.completed (endCmd_completed hpays .safetyStop)
  refine ⟨hx.touches ?_, hx.answers ⟨⟨?_, ?_, ?_⟩, ?_⟩⟩
  · exact (((hsil.frame.showing (by simp) (by simp)).trans ((endCmd_sameBut ..).showing (by simp) (by simp))).onArm _ _ (by simp)).trans
      ((showPlan_silent _).frame.showing (by simp) (by simp))
  · rw [armOf_showPlan, armOf_onArm_same, armOf_endCmd, harm]
  · rw [armOf_showPlan, armOf_onArm_same, armOf_endCmd, harm]
  · exact (hdone.silent ((Silent.refl _ [] [.pln]).onArm _ _ (by simp)) (by simp)).silent (showPlan_silent _) (by simp)
  · rw [armOf_showPlan, armOf_onArm_same]

end Axis

end Sys2Proof.Machine
end

section
/-!
SUPPORT. Tables and QUERY_ARM (O58; R209, R214, R215, R433).
-/
namespace Sys2Proof.Machine
open RegField

/-! Tables. -/

theorem tableGood_kind {d : Dev} {kind i : Nat} {bs : List Byte} (h : tableGood d kind i bs = true) :
    kind = 1 ∨ kind = 2 ∨ kind = 3 ∨ kind = 4 ∨ kind = 5 := by
  unfold tableGood at h
  split at h
  · exact .inl rfl
  · exact .inr (.inl rfl)
  · exact .inr (.inr (.inl rfl))
  · exact .inr (.inr (.inr (.inl rfl)))
  · exact .inr (.inr (.inr (.inr rfl)))
  · cases h

/-- A table of kind `kind` replaces the one at its index, and no other. -/
structure TablePut (p q : PlannerState) (kind i : Nat) (bs : List Byte) : Prop where
  rest : q = { p with
    models := if kind = 1 then q.models else p.models, limits := if kind = 2 then q.limits else p.limits
    paths := if kind = 3 then q.paths else p.paths, cams := if kind = 4 then q.cams else p.cams
    zones := if kind = 5 then zonesOfBytes bs else p.zones }
  model : kind = 1 → SMap.get none q.models i = some (modelOfBytes bs)
  limits : kind = 2 → SMap.get [] q.limits i = (List.range 16).map fun k => limitsOfBytes (bs.drop (64 * k))
  path : kind = 3 → SMap.get [] q.paths i = (List.range (bs.length / 24)).map fun k => (v3At bs (24 * k), v3At bs (24 * k + 12))
  cam : kind = 4 → SMap.get [] q.cams i = bs

theorem putTable_put {d : Dev} {kind i : Nat} {bs : List Byte} (hk : kind = 1 ∨ kind = 2 ∨ kind = 3 ∨ kind = 4 ∨ kind = 5) :
    TablePut d.pln (putTable d kind i bs).pln kind i bs := by
  rcases hk with rfl | rfl | rfl | rfl | rfl
  · exact ⟨rfl, fun _ => SMap.get_set_same none d.pln.models i (some (modelOfBytes bs)), by simp, by simp, by simp⟩
  · exact ⟨rfl, by simp, fun _ => SMap.get_set_same [] d.pln.limits i ((List.range 16).map fun k => limitsOfBytes (bs.drop (64 * k))), by simp, by simp⟩
  · exact ⟨rfl, by simp, by simp, fun _ => SMap.get_set_same [] d.pln.paths i _, by simp⟩
  · exact ⟨rfl, by simp, by simp, by simp, fun _ => SMap.get_set_same [] d.pln.cams i bs⟩
  · exact ⟨rfl, by simp, by simp, by simp, by simp⟩

/-- LEN, CRC and content of a table are as its command names them. -/
def tableHolds (d : Dev) (c : HostCmd) (bs : List Byte) : Prop :=
  bs.length = body32 c.body 4 ∧ crc32c bs = body32 c.body 0x10 ∧ tableGood d (bodyAt c.body 0) (bodyAt c.body 1) bs = true

section LoadTable
variable {d : Dev} {sq : Fin 17} {rsn : Word32} {bs : List Byte} {c : HostCmd}

theorem exec_loadTable (sq : Fin 17) (rsn : Word32) (bs : List Byte) (s : State) : exec (.loadTable sq rsn bs) s = execLoadTable sq rsn bs s := rfl

variable (ho : flightOp d sq rsn.toNat 0x28 = some c)
include ho

theorem loadTable_inUse (h : tableInUse d (bodyAt c.body 0) (bodyAt c.body 1) = true) :
    Effect (.loadTable sq rsn bs) d (answerNow d c.sq c.rsn .tableInUse) := by
  refine ⟨_, exec_loadTable sq rsn bs, ?_⟩
  dsimp only
  rw [ho]
  exact if_pos h

variable (h : tableInUse d (bodyAt c.body 0) (bodyAt c.body 1) = false)
include h

theorem loadTable_bad (hg : ¬ tableHolds d c bs) : Effect (.loadTable sq rsn bs) d (answerNow d c.sq c.rsn .tableBad) := by
  refine ⟨_, exec_loadTable sq rsn bs, ?_⟩
  dsimp only
  rw [ho]
  exact (if_neg (by simp [h])).trans (if_neg hg)

theorem loadTable_good (hg : tableHolds d c bs) : Effect (.loadTable sq rsn bs) d (
    answerNow (showPlan (putTable d (bodyAt c.body 0) (bodyAt c.body 1) bs)) c.sq c.rsn .ok) := by
  refine ⟨_, exec_loadTable sq rsn bs, ?_⟩
  dsimp only
  rw [ho]
  exact (if_neg (by simp [h])).trans (if_pos hg)

end LoadTable

section
variable {s : State} {sq : Fin 17} {rsn : Word32} {c : HostCmd}

/-- A command that completes at once, with nothing shown after it. -/
theorem answers_atOnce {cmd : Instr} {op : Nat} {e : Dev} {r : PlanResult} {fs : List RegField} {ps : List Part}
    (ho : s.dev.owes sq rsn.toNat op c) (hx : Effect cmd s.dev.cleared (answerNow e c.sq c.rsn r))
    (hs : SameBut s.dev.cleared e fs [] ps) (hd : answerRegs.Disjoint fs) (hp : Part.host ∉ ps ∧ Part.grp ∉ ps ∧ Part.lanes ∉ ps) :
    Touches cmd s (fs ++ flightFields) [] (ps ++ [.host]) ∧
      Answers cmd s fun e' => s.dev.completed e' c { result := r.code } ∧ e'.pln = e.pln :=
  ⟨hx.touches ((hs.showing (by simp) (by simp)).trans ((answerNow_sameBut ..).showing (by simp) (by simp))),
    hx.answers ⟨answerNow_completed (d := s.dev.cleared) ho hs hd hp r, answerNow_pln ..⟩⟩

theorem loadTable_answers {bs : List Byte} (ho : s.dev.owes sq rsn.toNat 0x28 c) :
    (tableInUse s.dev (bodyAt c.body 0) (bodyAt c.body 1) = true → Touches (.loadTable sq rsn bs) s flightFields [] [.host] ∧
      Answers (.loadTable sq rsn bs) s fun e => s.dev.completed e c { result := 0xF }) ∧
    (tableInUse s.dev (bodyAt c.body 0) (bodyAt c.body 1) = false → ¬ tableHolds s.dev c bs →
      Touches (.loadTable sq rsn bs) s flightFields [] [.host] ∧
      Answers (.loadTable sq rsn bs) s fun e => s.dev.completed e c { result := 0x10 }) ∧
    (tableInUse s.dev (bodyAt c.body 0) (bodyAt c.body 1) = false → tableHolds s.dev c bs →
      Touches (.loadTable sq rsn bs) s (planViews ++ flightFields) [] [.pln, .host] ∧
      Answers (.loadTable sq rsn bs) s fun e => s.dev.completed e c {} ∧
        TablePut s.dev.pln e.pln (bodyAt c.body 0) (bodyAt c.body 1) bs) := by
  have hf : flightOp s.dev.cleared sq rsn.toNat 0x28 = some c := by rw [flightOp_cleared]; exact ho.1
  refine ⟨fun h => ?_, fun h hg => ?_, fun h hg => ?_⟩
  · obtain ⟨ht, ha⟩ := answers_atOnce ho (loadTable_inUse (bs := bs) hf h) (.refl _ [] _ []) (by simp) (by simp)
    exact ⟨ht, ha.imp fun e he => he.1⟩
  · obtain ⟨ht, ha⟩ := answers_atOnce ho (loadTable_bad (bs := bs) hf h hg) (.refl _ [] _ []) (by simp) (by simp)
    exact ⟨ht, ha.imp fun e he => he.1⟩
  · have hput : SameBut s.dev.cleared (showPlan (putTable s.dev.cleared (bodyAt c.body 0) (bodyAt c.body 1) bs)) planViews [] [.pln] :=
      ((SameBut.refl _ _ _ _).onPln _ (by simp)).trans ((showPlan_silent _).frame.showing (List.Subset.refl _) (by simp))
    obtain ⟨ht, ha⟩ := answers_atOnce ho (loadTable_good (bs := bs) hf h hg) hput (by simp [answerRegs, planViews]) (by simp)
    refine ⟨ht, ha.imp fun e he => ⟨he.1, ?_⟩⟩
    rw [he.2, showPlan_pln]
    exact putTable_put (d := s.dev.cleared) (tableGood_kind hg.2.2)

end

/-! QUERY_ARM. -/

theorem stateOf_lt (d : Dev) (a : Nat) : stateOf d a < 16 := by
  unfold stateOf
  dsimp only
  repeat' split
  all_goals omega

theorem zonesHeld_lt (d : Dev) (a : Nat) : zonesHeld d a < 2 ^ 32 := (foldl_mask (fun z => d.rd PLN_ZONE_OWNER z = a) 32).1

theorem showArm_state (d : Dev) (a : Nat) : (showArm d a).rd PLN_ARM_STAT_STATE a = stateOf d a := by
  unfold showArm
  simpa using Nat.mod_eq_of_lt (stateOf_lt d a)

theorem showArm_zonesHeld (d : Dev) (a : Nat) : (showArm d a).rd PLN_ARM_ZONES_HELD a = zonesHeld d a := by
  have hsame {e : Dev} (h : ∀ z, e.rd PLN_ZONE_OWNER z = d.rd PLN_ZONE_OWNER z) : zonesHeld e a = zonesHeld d a := by
    unfold zonesHeld
    simp only [h]
  unfold showArm
  simpa [hsame] using zonesHeld_lt d a

theorem plannedEnd_congr {d e : Dev} (hp : e.pln = d.pln) (hm : e.mil = d.mil) (hs : e.frameS = d.frameS) (hn : e.frameNo = d.frameNo)
    (a j : Nat) : plannedEnd e a j = plannedEnd d a j := by
  unfold plannedEnd restPos segsOf coupleOf heldPos armOf
  simp only [hp, hm, hs, hn]

/-- What QUERY_ARM answers: the registers of axis set `a` in `e` and its planned ends in `d`. -/
def queryOf (e d : Dev) (a : Nat) : List Byte :=
  bytesLE 4 (e.rd PLN_ARM_STAT_STATE a + 2 ^ 4 * e.rd PLN_ARM_STAT_QUEUED a + 2 ^ 16 * e.rd PLN_ARM_STAT_DECEL_CLAMPED a +
      2 ^ 17 * e.rd PLN_ARM_STAT_DRAINED a + 2 ^ 18 * e.rd PLN_ARM_STAT_STORE_LOW a + 2 ^ 19 * e.rd PLN_ARM_STAT_CAPPED a +
      2 ^ 24 * e.rd PLN_ARM_STAT_COUPLED a) ++
    bytesLE 4 (e.rd PLN_ARM_ZONES_HELD a) ++ bytesLE 4 (e.rd PLN_ARM_ZWAIT_REQ a) ++ bytesLE 4 (e.rd PLN_ARM_DEPTH_FRAMES a) ++
    (List.range 8).flatMap fun i => match (slotsOf d a)[i]? with
      | some j => bytesLE 4 (fieldOf 32 (saturate 32 (f64RoundAway (plannedEnd d a j))))
      | none => bytesLE 4 0

theorem queryOf_congr {e b d f : Dev} {a : Nat} (hr : ∀ g, g ∉ flightFields → e.rd g a = b.rd g a) (hs : slotsOf d a = slotsOf f a)
    (hp : ∀ j, plannedEnd d a j = plannedEnd f a j) : queryOf e d a = queryOf b f a := by
  unfold queryOf
  simp only [hs, hp, hr _ (show PLN_ARM_STAT_STATE ∉ flightFields by decide), hr _ (show PLN_ARM_STAT_QUEUED ∉ flightFields by decide),
    hr _ (show PLN_ARM_STAT_DECEL_CLAMPED ∉ flightFields by decide), hr _ (show PLN_ARM_STAT_DRAINED ∉ flightFields by decide),
    hr _ (show PLN_ARM_STAT_STORE_LOW ∉ flightFields by decide), hr _ (show PLN_ARM_STAT_CAPPED ∉ flightFields by decide),
    hr _ (show PLN_ARM_STAT_COUPLED ∉ flightFields by decide), hr _ (show PLN_ARM_ZONES_HELD ∉ flightFields by decide),
    hr _ (show PLN_ARM_ZWAIT_REQ ∉ flightFields by decide), hr _ (show PLN_ARM_DEPTH_FRAMES ∉ flightFields by decide)]

section
variable {s : State} {sq : Fin 17} {rsn : Word32} {c : HostCmd}

theorem exec_queryArm (sq : Fin 17) (rsn : Word32) (s : State) : exec (.queryArm sq rsn) s = execQueryArm sq rsn s := rfl

theorem queryArm_completes {d : Dev} (ho : flightOp d sq rsn.toNat 0x30 = some c) : Effect (.queryArm sq rsn) d (
    complete (showArm d (bodyAt c.body 0)) c.sq c.rsn
      { query := queryOf (showArm d (bodyAt c.body 0)) (showArm d (bodyAt c.body 0)) (bodyAt c.body 0) }) := by
  refine ⟨_, exec_queryArm sq rsn, ?_⟩
  dsimp only
  rw [ho]
  dsimp only
  unfold queryOf
  rfl

theorem queryArm_answers (ho : s.dev.owes sq rsn.toNat 0x30 c) :
    Touches (.queryArm sq rsn) s (planViews ++ flightFields) [] [.host] ∧
    Answers (.queryArm sq rsn) s fun e => e.rd PLN_ARM_STAT_STATE (bodyAt c.body 0) = stateOf s.dev (bodyAt c.body 0) ∧
      e.rd PLN_ARM_ZONES_HELD (bodyAt c.body 0) = zonesHeld s.dev (bodyAt c.body 0) ∧
      s.dev.completed e c { query := queryOf e s.dev (bodyAt c.body 0) } := by
  have hx := queryArm_completes (d := s.dev.cleared) (by rw [flightOp_cleared]; exact ho.1)
  have hshow := showArm_silent s.dev.cleared (bodyAt c.body 0)
  generalize hb : showArm s.dev.cleared (bodyAt c.body 0) = b at hx hshow
  have hdue : b.due c := ho.due.congr (hshow.host_eq (by simp))
  have hfin : complete b c.sq c.rsn { query := queryOf b b (bodyAt c.body 0) } = finish b c { query := queryOf b b (bodyAt c.body 0) } :=
    complete_due hdue _
  rw [hfin] at hx
  have hframe := finish_sameBut b c { query := queryOf b b (bodyAt c.body 0) }
  have hrd (g : RegField) (hg : g ∉ flightFields) (i : Nat) := hframe.rd_eq g i hg (by simp)
  have hperiod : b.rd BLF_CFG_PERIOD = s.dev.rd BLF_CFG_PERIOD := hshow.rd_eq _ _ (by simp [planViews])
  have htf : b.frameS = s.dev.frameS := by rw [Dev.frameS, Dev.frameNs, Dev.periodUnits, hperiod, Dev.frameS, Dev.frameNs, Dev.periodUnits]
  have hquery : queryOf b b (bodyAt c.body 0) = queryOf (finish b c { query := queryOf b b (bodyAt c.body 0) }) s.dev (bodyAt c.body 0) :=
    queryOf_congr (fun g hg => (hrd g hg _).symm) (slotsOf_congr (d := s.dev) (by rw [hshow.pln_eq (by simp)]; rfl) _)
      (plannedEnd_congr (d := s.dev) (hshow.pln_eq (by simp)) (hshow.frame.rest .mil (by simp)) htf
        (hshow.rd_eq _ _ (by simp [planViews])) _)
  refine ⟨hx.touches ((hshow.frame.showing (by simp) (by simp)).trans (hframe.showing (by simp) (by simp))), hx.answers ⟨?_, ?_, ?_⟩⟩
  · rw [hrd _ (by simp [flightFields]), ← hb]
    exact showArm_state s.dev.cleared _
  · rw [hrd _ (by simp [flightFields]), ← hb]
    exact showArm_zonesHeld s.dev.cleared _
  · rw [← hquery]
    exact (SameAnswer.of_sameBut hshow.frame.of_cleared (by simp [answerRegs, planViews]) (by simp) (by simp)).completed (finish_completed ..)

end

end Sys2Proof.Machine
end

section
/-!
SUPPORT. Commits on their way to the store (O58; R223, R230, R235, R236): what applying or refusing one does, and the passes over axis sets
after it.
-/
namespace Sys2Proof.Machine
open RegField

@[simp] theorem commitReady_cleared (d : Dev) : commitReady d.cleared = commitReady d := rfl

/-! Segments that reach the store change its rings only. -/

/-- Nothing but the rings of the store and their entries has changed. -/
def RingsOnly (d e : Dev) : Prop := ∃ (rings : PlannerState → SMap (List Seg)) (entries : PlannerState → SMap Nat),
  e = onPln d fun p => { p with rings := rings p, entries := entries p }

theorem RingsOnly.refl (d : Dev) : RingsOnly d d := ⟨fun p => p.rings, fun p => p.entries, rfl⟩

theorem RingsOnly.trans {a d e : Dev} (h : RingsOnly a d) (k : RingsOnly d e) : RingsOnly a e := by
  obtain ⟨r, n, rfl⟩ := h
  obtain ⟨r', n', rfl⟩ := k
  exact ⟨fun p => r' { p with rings := r p, entries := n p }, fun p => n' { p with rings := r p, entries := n p }, rfl⟩

theorem RingsOnly.each {α : Type} {f : Dev → α → Dev} (hf : ∀ b x, RingsOnly b (f b x)) (d : Dev) (xs : List α) : RingsOnly d (d.each xs f) :=
  Dev.each_induct (P := RingsOnly d) (fun b x _ h => h.trans (hf b x)) (.refl d)

theorem writeSeg_rings (d : Dev) (j : Nat) (g : Seg) : RingsOnly d (writeSeg d j g) := by
  unfold writeSeg
  dsimp only
  generalize List.drop _ _ = l
  generalize (SMap.get 0 d.pln.entries j + 1) % 1024 = n
  exact ⟨fun p => SMap.set [] p.rings j l, fun p => SMap.set 0 p.entries j n, rfl⟩

theorem cutRing_rings (d : Dev) (fs j : Nat) : RingsOnly d (cutRing d fs j) := ⟨_, fun p => p.entries, rfl⟩

/-- What a run feeds to the store, and how far it then is. -/
theorem feedRun_rings (d : Dev) (r : Run) (fs : Nat) :
    RingsOnly d (feedRun d r fs).1 ∧ ∃ written fin, (feedRun d r fs).2 = { r with written := written, fin := fin } :=
  ⟨.each (fun b _ => .each (fun b _ => writeSeg_rings b _ _) b _) d _, _, _, rfl⟩

theorem RingsOnly.silent {d e : Dev} (h : RingsOnly d e) (fs : List RegField) : Silent d e fs [.pln] := by
  obtain ⟨r, n, rfl⟩ := h
  exact (Silent.refl d _ _).onPln _ (by simp)

theorem RingsOnly.arm {d e : Dev} (h : RingsOnly d e) (a : Nat) : armOf e a = armOf d a := by
  obtain ⟨r, n, rfl⟩ := h
  rfl

theorem RingsOnly.staged {d e : Dev} (h : RingsOnly d e) : e.pln.staged = d.pln.staged := by
  obtain ⟨r, n, rfl⟩ := h
  rfl

/-- A start that couples nothing and answers nothing: its run takes the place of the head of the queue. -/
theorem applyPart_start {d : Dev} {fs : Nat} {p : CommitPart} (hk : p.kind = .start) (hc : p.couples = []) :
    ∃ e written fin, RingsOnly d e ∧ applyPart d fs p = onArm e p.axset fun x =>
      { x with run := some { p.run with start := fs, zero := fs, written := written, fin := fin }, queue := x.queue.drop 1, drained := false } := by
  have hcut : RingsOnly d (d.each (p.run.plan.segs.map Prod.fst) fun d s => cutRing d fs s) := .each (fun b j => cutRing_rings b fs j) d _
  obtain ⟨hfeed, w, f, hrun⟩ :=
    feedRun_rings (d.each (p.run.plan.segs.map Prod.fst) fun d s => cutRing d fs s) { p.run with start := fs, zero := fs } fs
  refine ⟨_, w, f, hcut.trans hfeed, ?_⟩
  unfold applyPart
  simp only [hk, hc]
  rw [← hrun]
  rfl

/-! Grants in a commit, with nothing else staged. -/

theorem grantZones_staged (d : Dev) (a : Nat) (h : d.pln.staged = []) : (grantZones d a).pln.staged = [] := by
  unfold grantZones
  split
  · exact h
  · split
    · exact h
    · have hnone : ∀ (e : Dev) (f : ArmPlan → ArmPlan) (g : Commit → Commit), e.pln = d.pln →
          (onPln (onArm e a f) fun p => { p with staged := p.staged.map g }).pln.staged = [] := fun e f g he => by
        change e.pln.staged.map g = []
        rw [he, h]
        rfl
      exact hnone _ _ _ (zonesWritten_pln ..)

theorem grantZones_otherArm {d : Dev} {a b : Nat} (h : b ≠ a) : armOf (grantZones d a) b = armOf d b := by
  unfold grantZones
  split
  · rfl
  · split
    · rfl
    · have hother : ∀ (e : Dev) (f : ArmPlan → ArmPlan) (g : Commit → Commit), e.pln = d.pln →
          armOf (onPln (onArm e a f) fun p => { p with staged := p.staged.map g }) b = armOf d b := fun e f g he => by
        change armOf (onArm e a f) b = armOf d b
        rw [armOf_onArm, if_neg h, armOf_congr he]
      exact hother _ _ _ (zonesWritten_pln ..)

theorem waiting_congr {d e : Dev} {a : Nat} (h : armOf e a = armOf d a) : waiting e a = waiting d a := by
  rw [waiting, h, waiting]

/-- The grant of one axis set in a commit. -/
def grantStep (d : Dev) (a : Nat) : Dev :=
  if (waiting d a).isNone then d
  else
    let d := grantZones d a
    if (waiting d a).isSome then d
    else match d.pln.staged.find? fun k => decide (k.group = none) && k.parts.any fun q => decide (q.axset = a ∧ q.kind = .start) with
      | some k => if frameDiff k.fs (earliest d) < 0 then d else applyCommit d k
      | none => d

theorem grantWaiting_each (d : Dev) : grantWaiting d = d.each (List.range 16) grantStep := rfl

theorem grantStep_nobodyWaits {d : Dev} {a : Nat} (h : waiting d a = none) : grantStep d a = d := by
  rw [grantStep, h]
  rfl

theorem grantStep_nothingStaged {d : Dev} {a : Nat} (hs : d.pln.staged = []) (hw : (waiting d a).isNone = false) :
    grantStep d a = grantZones d a := by
  unfold grantStep
  rw [hw]
  simp only [grantZones_staged d a hs, List.find?_nil, ite_self, Bool.false_eq_true, if_false]

theorem grantWaiting_nobodyWaits {d : Dev} (h : ∀ b, b < 16 → waiting d b = none) : grantWaiting d = d := by
  rw [grantWaiting_each]
  exact Dev.each_fixed fun b hb => grantStep_nobodyWaits (h b (List.mem_range.mp hb))

/-- With nothing staged, grants write owners of zones and mark queues, and an axis set that does not wait stays as it was. -/
theorem grantWaiting_nothingStaged {d : Dev} {x : Nat} (hs : d.pln.staged = []) (hw : waiting d x = none) :
    (grantWaiting d).pln.staged = [] ∧ armOf (grantWaiting d) x = armOf d x ∧ Silent d (grantWaiting d) [PLN_ZONE_OWNER] [.pln] := by
  rw [grantWaiting_each]
  refine Dev.each_induct (P := fun b => b.pln.staged = [] ∧ armOf b x = armOf d x ∧ Silent d b [PLN_ZONE_OWNER] [.pln]) ?_
    ⟨hs, rfl, .refl _ _ _⟩
  rintro b a - ⟨hbs, hba, hbd⟩
  rcases hwb : waiting b a with _ | c
  · rw [grantStep_nobodyWaits hwb]
    exact ⟨hbs, hba, hbd⟩
  · have hne : x ≠ a := fun h => by rw [← h, waiting_congr hba, hw] at hwb; cases hwb
    rw [grantStep_nothingStaged hbs (by rw [hwb]; rfl), grantZones_otherArm hne]
    exact ⟨grantZones_staged b a hbs, hba, hbd.trans (grantZones_silent b a)⟩

/-! Depths that fall low (R230). -/

/-- What shows and records a low store. -/
def lowFields : List RegField := [PLN_ARM_STAT_STORE_LOW, PLN_STATUS_STORE_LOW] ++ recordFields

/-- Axis set `a` moves with less than 32 frames in the store. -/
def isLow (d : Dev) (a : Nat) : Bool :=
  let moves : Bool := match (armOf d a).run with
    | some r => decide (r.mode ≠ .held ∧ r.mode ≠ .coupling ∧ 0 ≤ frameDiff d.frameNo r.zero) && !r.plan.segs.isEmpty
    | none => false
  moves && decide (depthOf d a < 32)

/-- The flags and the event of an episode that begins. -/
def lowFlagged (d : Dev) (a : Nat) (begins : Prop) [Decidable begins] : Dev :=
  if begins then ((d.flag PLN_ARM_STAT_STORE_LOW a).flag PLN_STATUS_STORE_LOW).event .STORE_LOW srcPlanner a else d

/-- The check of one axis set's depth. -/
def lowStep (d : Dev) (a : Nat) : Dev :=
  let low := isLow d a
  let d := lowFlagged d a (low ∧ !(armOf d a).low)
  if low = (armOf d a).low then d else onArm d a fun x => { x with low := low }

theorem storeLow_each (d : Dev) : storeLow d = d.each (List.range 36) lowStep := rfl

theorem Silent.event {a d : Dev} {fs : List RegField} {ps : List Part} (h : Silent a d fs ps) (e : Ev) (source index detail : Nat)
    (hf : recordFields ⊆ fs) (hp : .log ∈ ps) : Silent a (d.event e source index detail) fs ps :=
  ⟨h.frame.eventIn e source index detail hf hp, by rw [Dev.event_eq, Dev.record_out, h.out]⟩

theorem lowFlagged_silent (d : Dev) (a : Nat) (begins : Prop) [Decidable begins] : Silent d (lowFlagged d a begins) lowFields [.log] := by
  unfold lowFlagged
  split
  · exact (((Silent.refl d _ _).wr _ _ _ (by simp [lowFields])).wr _ _ _ (by simp [lowFields])).event _ _ _ _
      (List.subset_append_right _ _) (by simp)
  · exact .refl _ _ _

theorem lowStep_does (d : Dev) (a : Nat) : ∃ e, Silent d e lowFields [.log] ∧
    (lowStep d a = e ∨ ∃ low, lowStep d a = onArm e a fun x => { x with low := low }) := by
  refine ⟨_, lowFlagged_silent d a (isLow d a ∧ !(armOf d a).low), ?_⟩
  unfold lowStep
  dsimp only
  split
  · exact .inl rfl
  · exact .inr ⟨_, rfl⟩

/-- An axis set at rest that was not low is left alone. -/
theorem lowStep_atRest {d : Dev} {a : Nat} (hr : (armOf d a).run = none) (hl : (armOf d a).low = false) : lowStep d a = d := by
  unfold lowStep
  simp [hr, hl, lowFlagged, isLow]

/-- An axis set but for the mark of a low store. -/
def ArmPlan.sameButLow (x y : ArmPlan) : Prop := ∃ low, y = { x with low := low }

/-- The check of the depths changes marks and shows them. -/
theorem storeLow_does (d : Dev) : Silent d (storeLow d) lowFields [.pln, .log] ∧ (storeLow d).pln.staged = d.pln.staged ∧
    ∀ a, (armOf d a).sameButLow (armOf (storeLow d) a) := by
  rw [storeLow_each]
  refine Dev.each_induct (P := fun b => Silent d b lowFields [.pln, .log] ∧ b.pln.staged = d.pln.staged ∧
    ∀ a, (armOf d a).sameButLow (armOf b a)) ?_ ⟨.refl _ _ _, rfl, fun a => ⟨(armOf d a).low, rfl⟩⟩
  rintro b i - ⟨hsil, hst, harm⟩
  obtain ⟨e, he, hstep⟩ := lowStep_does b i
  have hpln : e.pln = b.pln := he.pln_eq (by simp)
  have he : Silent d e lowFields [.pln, .log] := hsil.trans (he.mono (List.Subset.refl _) (by simp))
  have harm : ∀ a, (armOf d a).sameButLow (armOf e a) := fun a => by rw [armOf_congr hpln]; exact harm a
  rcases hstep with h | ⟨low, h⟩ <;> rw [h]
  · exact ⟨he, by rw [hpln, hst], harm⟩
  · refine ⟨he.onArm _ _ (by simp), ?_, fun a => ?_⟩
    · change e.pln.staged = _
      rw [hpln, hst]
    · rw [armOf_onArm]
      split
      · obtain ⟨l, hl⟩ := harm a
        exact ⟨low, by rw [hl]⟩
      · exact harm a

end Sys2Proof.Machine
end

section
/-!
SUPPORT. PLANNER_COMMIT, and the changes of plans settled (O58).
-/
namespace Sys2Proof.Machine
open RegField

/-- What a PLANNER_COMMIT may show beside a late commit. -/
def commitFields : List RegField := planViews ++ [PLN_ARM_STAT_STORE_LOW, PLN_STATUS_STORE_LOW, PLN_ZONE_OWNER] ++ recordFields

/-- What follows a commit: grants, the check of the depths and the views. -/
def commitDone (d : Dev) : Dev := showPlan (storeLow (grantWaiting d))

theorem storeLow_shown (d : Dev) : Silent d (showPlan (storeLow d)) commitFields [.pln, .log] ∧
    (showPlan (storeLow d)).pln.staged = d.pln.staged ∧ ∀ a, (armOf d a).sameButLow (armOf (showPlan (storeLow d)) a) := by
  obtain ⟨hsil, hst, harm⟩ := storeLow_does d
  refine ⟨(hsil.mono (by simp [lowFields, commitFields]) (List.Subset.refl _)).trans ((showPlan_silent _).mono (by simp [commitFields]) (by simp)),
    by rw [showPlan_pln, hst], fun a => ?_⟩
  rw [armOf_showPlan]
  exact harm a

theorem commitDone_nobodyWaits {d : Dev} (h : ∀ b, b < 16 → waiting d b = none) : commitDone d = showPlan (storeLow d) := by
  rw [commitDone, grantWaiting_nobodyWaits h]

/-- With nothing left on its way to the store, an axis set that does not wait stays as it was. -/
theorem commitDone_nothingStaged {d : Dev} {x : Nat} (hs : d.pln.staged = []) (hw : waiting d x = none) :
    Silent d (commitDone d) commitFields [.pln, .log] ∧ (commitDone d).pln.staged = [] ∧ (armOf d x).sameButLow (armOf (commitDone d) x) := by
  obtain ⟨hgs, hga, hgsil⟩ := grantWaiting_nothingStaged hs hw
  obtain ⟨hsil, hst, harm⟩ := storeLow_shown (grantWaiting d)
  refine ⟨(hgsil.mono (by simp [commitFields]) (by simp)).trans hsil, hst.trans hgs, ?_⟩
  rw [← hga]
  exact harm x

/-- A device without commit `k`. -/
def dropped (d : Dev) (k : Commit) : Dev := onPln d fun p => { p with staged := p.staged.filter fun j => decide (j ≠ k) }

theorem dropped_staged {d : Dev} {k : Commit} (h : d.pln.staged = [k]) : (dropped d k).pln.staged = [] := by
  change d.pln.staged.filter _ = []
  simp [h]

section Effects
variable {d : Dev} {k : Commit}

theorem exec_plannerCommit (s : State) : exec .plannerCommit s = execPlannerCommit s := rfl

section Ready
variable (hs : d.pln.staged = [k]) (hr : commitReady d k = true)
include hs hr

theorem plannerCommit_applies (h : 0 ≤ frameDiff k.fs (earliest d)) : Effect .plannerCommit d (commitDone (applyCommit d k)) := by
  refine ⟨_, exec_plannerCommit, ?_⟩
  simp only [hs, List.find?_cons, hr, not_lt.mpr h, if_false]
  rfl

theorem plannerCommit_refuses (h : frameDiff k.fs (earliest d) < 0) : Effect .plannerCommit d (commitDone (refuseCommit (dropped d k) k)) := by
  refine ⟨_, exec_plannerCommit, ?_⟩
  simp only [hs, List.find?_cons, hr, h, if_true]
  rfl

end Ready

/-- With nothing staged and every axis set idle there is nothing to feed. -/
theorem plannerCommit_idle (hs : d.pln.staged = []) (hr : ∀ a, a < 36 → (armOf d a).run = none) : Effect .plannerCommit d (commitDone d) := by
  refine ⟨_, exec_plannerCommit, ?_⟩
  simp only [hs, List.find?_nil]
  rw [Dev.each_fixed fun a ha => ?_]
  · rfl
  · rw [hr a (List.mem_range.mp ha)]
    dsimp only
    rw [hr a (List.mem_range.mp ha)]

variable {p : CommitPart}

theorem applyCommit_one (hp : k.parts = [p]) (ha : p.answer = []) : applyCommit d k = applyPart (dropped d k) k.fs p := by
  unfold applyCommit
  rw [hp]
  change answerPart (applyPart (dropped d k) k.fs p) k.fs p = _
  rw [answerPart, ha]
  rfl

/-- A device that has flagged a late commit and dropped it. -/
def lateFlagged (d : Dev) (k : Commit) : Dev := (dropped d k).flag PLN_STATUS_COMMIT_LATE

theorem refuseCommit_again (hp : k.parts = [p]) (hk : p.kind = .start) (hf : k.fixed = false) (ht : p.run.track = none) :
    refuseCommit (dropped d k) k = onPln (lateFlagged d k) fun q => { q with staged := { k with fs := earliest (lateFlagged d k) } :: q.staged } := by
  unfold refuseCommit
  simp only [hp, hk, hf, ht, List.all_cons, List.all_nil, decide_true, Bool.and_true, if_true, Bool.false_eq_true, if_false, List.any_cons,
    List.any_nil, Option.isSome_none, Bool.or_self]
  rfl

theorem refuseCommit_tooLate (hp : k.parts = [p]) (hk : p.kind = .start) (hf : k.fixed = true) :
    refuseCommit (dropped d k) k = failHead (lateFlagged d k) p.axset .tooLate := by
  unfold refuseCommit
  simp only [hp, hk, hf, List.all_cons, List.all_nil, decide_true, Bool.and_true, if_true]
  rfl

end Effects

theorem lateFlagged_silent (d : Dev) (k : Commit) : Silent d (lateFlagged d k) [PLN_STATUS_COMMIT_LATE] [.pln] :=
  ((Silent.refl d _ _).onPln _ (by simp)).wr _ _ _ (by simp)

theorem lateFlagged_rd (d : Dev) (k : Commit) : (lateFlagged d k).rd PLN_STATUS_COMMIT_LATE 0 = 1 := by
  simp [lateFlagged]

theorem lateFlagged_earliest (d : Dev) (k : Commit) : earliest (lateFlagged d k) = earliest d := by
  have hframe : (lateFlagged d k).frameNo = d.frameNo := (lateFlagged_silent d k).rd_eq _ _ (by simp)
  rw [earliest, hframe]
  rfl

theorem waiting_empty {d : Dev} {a : Nat} (h : (armOf d a).queue = []) : waiting d a = none := by
  rw [waiting, h]
  cases (armOf d a).run <;> rfl

section Committed
variable {s : State} {k : Commit} {p : CommitPart} (hs : s.dev.pln.staged = [k]) (hr : commitReady s.dev k = true) (hparts : k.parts = [p])
  (hk : p.kind = .start)
include hs hr hparts hk

/-- A commit in time starts its command. -/
theorem plannerCommit_starts (hc : p.couples = []) (ha : p.answer = []) (h : 0 ≤ frameDiff k.fs (earliest s.dev)) :
    Touches .plannerCommit s commitFields [] [.pln, .log] ∧
    Answers .plannerCommit s fun e => e.out = [] ∧ e.pln.staged = [] ∧ (armOf e p.axset).queue = (armOf s.dev p.axset).queue.drop 1 ∧
      (armOf e p.axset).drained = false ∧ ∃ r, (armOf e p.axset).run = some r ∧ r.cmd = p.run.cmd ∧ r.start = k.fs ∧ r.zero = k.fs ∧
        r.plan = p.run.plan ∧ r.mode = p.run.mode := by
  rw [← commitReady_cleared] at hr
  have hx := plannerCommit_applies (d := s.dev.cleared) hs hr h
  obtain ⟨e, w, f, hrings, happly⟩ := applyPart_start (d := dropped s.dev.cleared k) (fs := k.fs) hk hc
  rw [applyCommit_one hparts ha, happly] at hx
  have hdropped : Silent s.dev.cleared (dropped s.dev.cleared k) commitFields [.pln, .log] := (Silent.refl _ _ _).onPln _ (by simp)
  generalize hb : onArm e p.axset _ = b at hx
  have hsil : Silent s.dev.cleared b commitFields [.pln, .log] :=
    hb ▸ (hdropped.trans ((hrings.silent _).mono (List.Subset.refl _) (by simp))).onArm _ _ (by simp)
  have hbst : b.pln.staged = [] := hb ▸ hrings.staged.trans (dropped_staged (d := s.dev.cleared) hs)
  have hbarm := congrArg (armOf · p.axset) hb
  simp only [armOf_onArm_same, hrings.arm] at hbarm
  have hw : waiting b p.axset = none := by rw [waiting, ← hbarm]
  obtain ⟨hdone, hst, low, harm⟩ := commitDone_nothingStaged hbst hw
  refine ⟨hx.touches (hsil.trans hdone).frame, hx.answers ⟨(hsil.trans hdone).out, hst, ?_, ?_, ?_⟩⟩
  · rw [harm, ← hbarm]
    rfl
  · rw [harm, ← hbarm]
  · rw [harm, ← hbarm]
    exact ⟨_, rfl, rfl, rfl, rfl, rfl, rfl⟩

/-- A commit too late whose frame is free is flagged and planned again. -/
theorem plannerCommit_plansAgain (h : frameDiff k.fs (earliest s.dev) < 0) (hf : k.fixed = false) (ht : p.run.track = none)
    (hw : ∀ b, b < 16 → (waiting s.dev b).isNone = true) :
    Touches .plannerCommit s (commitFields ++ [PLN_STATUS_COMMIT_LATE]) [] [.pln, .log] ∧
    Answers .plannerCommit s fun e => e.out = [] ∧ e.rd PLN_STATUS_COMMIT_LATE = 1 ∧ e.pln.staged = [{ k with fs := earliest s.dev }] := by
  rw [← commitReady_cleared] at hr
  have hx := plannerCommit_refuses (d := s.dev.cleared) hs hr h
  rw [refuseCommit_again hparts hk hf ht, lateFlagged_earliest] at hx
  have hlate := lateFlagged_silent s.dev.cleared k
  generalize hb : onPln (lateFlagged s.dev.cleared k) _ = b at hx
  have hsil : Silent s.dev.cleared b [PLN_STATUS_COMMIT_LATE] [.pln] := hb ▸ hlate.onPln _ (by simp)
  have hbw : ∀ i, i < 16 → waiting b i = none := fun i hi => by
    rw [← hb]
    exact Option.isNone_iff_eq_none.mp (hw i hi)
  have hbst : b.pln.staged = [{ k with fs := earliest s.dev }] := by
    rw [← hb, onPln_pln]
    change { k with fs := earliest s.dev } :: (dropped s.dev.cleared k).pln.staged = _
    rw [dropped_staged (d := s.dev.cleared) hs]
  rw [commitDone_nobodyWaits hbw] at hx
  obtain ⟨hlow, hst, -⟩ := storeLow_shown b
  refine ⟨hx.touches ((hsil.frame.showing (by simp) (by simp)).trans (hlow.frame.showing (by simp) (List.Subset.refl _))),
    hx.answers ⟨hlow.out.trans hsil.out, ?_, hst.trans hbst⟩⟩
  rw [hlow.rd_eq _ _ (by simp [commitFields, planViews, recordFields]), ← hb, onPln_rd, lateFlagged_rd]

/-- A commit too late for its fixed frame ends its command. -/
theorem plannerCommit_tooLate {c : PlanCmd} {h : HostCmd} (hl : frameDiff k.fs (earliest s.dev) < 0) (hf : k.fixed = true)
    (hq : (armOf s.dev p.axset).queue = [c]) (hp : s.dev.pays c h) :
    Answers .plannerCommit s fun e => e.rd PLN_STATUS_COMMIT_LATE = 1 ∧ e.pln.staged = [] ∧ s.dev.headEnds e p.axset h 9 := by
  rw [← commitReady_cleared] at hr
  have hx := plannerCommit_refuses (d := s.dev.cleared) hs hr hl
  rw [refuseCommit_tooLate hparts hk hf] at hx
  have hlate := lateFlagged_silent s.dev.cleared k
  have hqueue : (armOf (lateFlagged s.dev.cleared k) p.axset).queue = [c] := hq
  have hends := failHead_headEnds hqueue (Dev.pays.congr (d := s.dev) hp (hlate.host_eq (by simp))) .tooLate
  have hsame : SameAnswer s.dev (lateFlagged s.dev.cleared k) :=
    .of_sameBut hlate.frame.of_cleared (by simp [answerRegs]) (by simp) (by simp)
  obtain ⟨hgone, hrun, hcompleted⟩ := hends.of_same (d := s.dev) hsame rfl
  have hstaged : (failHead (lateFlagged s.dev.cleared k) p.axset .tooLate).pln.staged = [] := by
    rw [failHead_pln hqueue]
    change (dropped s.dev.cleared k).pln.staged.filter _ = []
    rw [dropped_staged (d := s.dev.cleared) hs]
    rfl
  have hfail := failHead_sameBut (lateFlagged s.dev.cleared k) p.axset .tooLate
  have hw : waiting (failHead (lateFlagged s.dev.cleared k) p.axset .tooLate) p.axset = none := waiting_empty hgone
  obtain ⟨hdone, hst, low, harm⟩ := commitDone_nothingStaged hstaged hw
  refine hx.answers ⟨?_, hst, ?_, ?_, hcompleted.silent hdone (by simp)⟩
  · rw [hdone.rd_eq _ _ (by simp [commitFields, planViews, recordFields]), hfail.rd_eq _ _ (by simp [planViews, flightFields]) (by simp),
      lateFlagged_rd]
  · rw [harm]
    exact hgone
  · rw [harm]
    exact hrun

end Committed

/-- With nothing staged and every axis set idle only the views are written. -/
theorem plannerCommit_rests {s : State} (hs : s.dev.pln.staged = []) (hw : ∀ b, b < 16 → (waiting s.dev b).isNone = true)
    (hi : ∀ a, a < 36 → (armOf s.dev a).next = none ∧ (armOf s.dev a).run = none ∧ (armOf s.dev a).low = false) :
    Touches .plannerCommit s planViews [] [] ∧ Answers .plannerCommit s fun e => e.out = [] := by
  have hx := plannerCommit_idle (d := s.dev.cleared) hs fun a ha => (hi a ha).2.1
  rw [commitDone_nobodyWaits (d := s.dev.cleared) fun b hb => Option.isNone_iff_eq_none.mp (hw b hb), storeLow_each,
    Dev.each_fixed fun a ha => lowStep_atRest (d := s.dev.cleared) (hi a (List.mem_range.mp ha)).2.1 (hi a (List.mem_range.mp ha)).2.2] at hx
  exact ⟨hx.touches (showPlan_silent _).frame, hx.answers (showPlan_out _)⟩

/-- Settles O58: an idle axis set answers at once (`answers_shown`), a moving one stages the splice of its run (`stageSplice_lone`), tables
and queries by what they put and show, and a commit by what it leaves staged (`commitDone_nothingStaged`). -/
theorem plannerChanges : Obligations.PlannerChanges := by
  refine ⟨fun s sq rsn c ho hr => override_answers ho hr, fun s sq rsn c ho => ?_,
    fun s cmd sq rsn c r mode hcmd ho hr hm hn hq hs x hx p hp hc => stopArm_moving hcmd ho hr hm hn hq hs hx hp hc,
    fun s sq rsn c r base at' ho hk hr hheld hh hn hs p hp hc => ?_,
    fun s a => ⟨speedCap_idle_shows, fun r hr hm hn hs x hx hf p hp hc => speedCap_splices hr hm hn hs hx hf hp hc⟩,
    fun s a h => (safetyStopDecision_off (by rwa [setStopped_cleared])).unchanged,
    fun s a p h hstop hr _ hq hp hc => safetyStop_flushes hstop hr hq hp hc, fun s sq rsn bytes c ho => ?_,
    fun s sq rsn c ho => queryArm_answers ho, fun s k p hs hr hparts hk hc ha _ => ?_, fun s hs hw hi => plannerCommit_rests hs hw hi⟩
  · obtain ⟨hstop, hhold, hresume⟩ := stopArm_otherKind ho
    exact ⟨hstop, hhold, hresume, fun p h hk hr _ hq hp hne => stopAndFlush_answers ho hk hr hq hp hne, feedHold_answers ho, resume_answers ho⟩
  · have hbase : (⟨r, none, base, none, earliest s.dev, (f64Floor (pathTime base.path at' 64 f64Zero (f64Nat base.len))).toNat,
        (at', f64Zero, f64Zero)⟩ : SpliceBase) = heldBase s.dev (bodyAt c.body 0) r base at' := by rw [heldBase, hn]
    rw [hbase] at hp
    exact resume_moves ho hk hr hheld hh hn hs hp hc
  · obtain ⟨huse, hbad, hgood⟩ := loadTable_answers (bs := bytes) ho
    refine ⟨huse, hbad, fun h hg => ?_⟩
    obtain ⟨ht, ha⟩ := hgood h hg
    exact ⟨ht, ha.imp fun e he => ⟨he.1, he.2.rest, he.2.model, he.2.limits, he.2.path, he.2.cam⟩⟩
  · exact ⟨plannerCommit_starts hs hr hparts hk hc ha, plannerCommit_plansAgain hs hr hparts hk,
      fun c h hl hf hq hp => plannerCommit_tooLate hs hr hparts hk hl hf hq hp⟩

end Sys2Proof.Machine
end

section
/-!
SUPPORT. Loop engines (O37): the end of Boot leaves them as they are, and what a fault, a known-answer test and a migration change (R41, R246,
R264 to R267).
-/
namespace Sys2Proof.Machine
open RegField

/-! The end of Boot. -/

/-- What the end of Boot may show. -/
def bootFields : List RegField :=
  [SYS_STATUS_BOOT_DONE, PWR_BOOT_MS, SYS_MODE_MODE, SYS_MODE_HOLD_CAUSE, SYS_MODE_FW_SLOT, SYS_MODE_CFG_SLOT, SYS_FW_VERSION_CODE,
   SAF_PKG_APPLIED_SEQ, SAF_PKG_STAT_STATE, SAF_PKG_STAT_RESULT, SAF_PKG_STAT_ENROLLED, SAF_PKG_STAT_KEY_SLOT, PWR_OTP_STAT_PROGRAMMED,
   BLF_LATCH_OFFSET, ENT_GUARD_NS, ENT_START_STATE] ++ imageFields ++ scheduleFields ++ laneFields

/-- The parts the end of Boot may change. -/
def bootParts : List Part := [.tb, .lanes, .rings, .keys, .periodDue]

section Frames
variable {a d : Dev} {fs : List RegField} {es : List (RegField × Nat)} {ps : List Part}

theorem SameBut.keys (h : SameBut a d fs es ps) (x : PerLane (List (BitVec 256))) (hp : .keys ∈ ps) : SameBut a { d with keys := x } fs es ps :=
  ⟨h.regs, fun p hn => by cases p with | keys => exact absurd hp hn | _ => exact h.rest _ hn⟩

theorem SameBut.periodDue (h : SameBut a d fs es ps) (x : Option Nat) (hp : .periodDue ∈ ps) : SameBut a { d with periodDue := x } fs es ps :=
  ⟨h.regs, fun p hn => by cases p with | periodDue => exact absurd hp hn | _ => exact h.rest _ hn⟩

end Frames

theorem enterHold_sameBut (d : Dev) (cause : Nat) : SameBut d (enterHold d cause) [SYS_MODE_MODE, SYS_MODE_HOLD_CAUSE] [] [] :=
  ((SameBut.refl d _ _ _).wr _ _ _ (by simp)).wr _ _ _ (by simp)

theorem enrol_sameBut (d : Dev) (h : BitVec 256) :
    SameBut d (enrol d h) [SAF_PKG_STAT_ENROLLED, SAF_PKG_STAT_KEY_SLOT, PWR_OTP_STAT_PROGRAMMED] [] [.keys] := by
  unfold enrol
  extract_lets add
  exact ((SameBut.refl d _ _ _).keys _ (by simp)).trans ((showKeys_sameBut _).showing (List.Subset.refl _) (by simp))

theorem newSchedule_sameBut (d : Dev) (l : Lane) (sched : List SchedEntry) (id : Nat) :
    SameBut d (newSchedule d l sched id) scheduleFields [] [.rings] := by
  refine SameBut.onRing ?_ l _ (by simp)
  split
  · exact useSchedule_sameBut ..
  · exact (SameBut.refl d _ _ _).onRing l _ (by simp)

theorem configure_sameBut (d : Dev) (p : Package) :
    SameBut d (configure d p) ([BLF_LATCH_OFFSET, ENT_GUARD_NS] ++ scheduleFields) [] [.rings] := by
  refine .each (fun b l _ => ?_) ((SameBut.refl d _ _ _).wr _ _ _ (by simp))
  exact ((SameBut.refl b _ _ _).wr _ _ _ (by simp)).trans ((newSchedule_sameBut ..).mono (by simp) (by simp) (by simp))

theorem enterStandstill_sameBut (d : Dev) (f k : Nat) : SameBut d (enterStandstill d f k) bootFields [] bootParts := by
  unfold enterStandstill
  split
  · exact (enterHold_sameBut ..).mono (by simp [bootFields]) (by simp) (by simp)
  · next p _ =>
    extract_lets v d1 d2 d3 d4 d5 tb d6 d7
    have hw {b : Dev} (hb : SameBut d b bootFields [] bootParts) {g : RegField} (i x : Nat) (hg : g ∈ bootFields) :
        SameBut d (b.wr g i x) bootFields [] bootParts := hb.wr g i x (.inr hg)
    have h1 : SameBut d d1 bootFields [] bootParts :=
      hw (hw (hw (.refl _ _ _ _) _ _ (by simp [bootFields])) _ _ (by simp [bootFields])) _ _ (by simp [bootFields])
    have h3 : SameBut d d3 bootFields [] bootParts :=
      hw (hw (hw (hw h1 _ _ (by simp [bootFields])) _ _ (by simp [bootFields])) _ _ (by simp [bootFields])) _ _ (by simp [bootFields])
    have h4 : SameBut d d4 bootFields [] bootParts := by
      unfold d4
      split
      · exact h3.trans ((enrol_sameBut ..).mono (by simp [bootFields]) (by simp) (by simp [bootParts]))
      · exact h3
    have h5 : SameBut d d5 bootFields [] bootParts := .each (fun b l _ => ((SameBut.refl b _ _ _).onLane l _ (by simp [bootParts])).trans
      ((loadImage_sameBut ..).mono (by simp [bootFields]) (by simp) (by simp [bootParts]))) h4
    have h6 : SameBut d d6 bootFields [] bootParts := (h5.tb _ (by simp [bootParts])).trans
      ((configure_sameBut _ p).showing (by simp [bootFields]) (by simp [bootParts]))
    split
    · exact h6
    · exact (SameBut.each (fun b l _ => ((SameBut.refl b _ _ _).onRing l _ (by simp [bootParts])).wr _ _ _ (.inr (by simp [bootFields])))
        h6).periodDue _ (by simp [bootParts])

theorem endBoot_sameBut (d : Dev) : SameBut d (endBoot d) bootFields [] bootParts := by
  have hhold (b : Dev) (cause : Nat) : SameBut b (enterHold b cause) bootFields [] bootParts :=
    (enterHold_sameBut ..).mono (by simp [bootFields]) (by simp) (by simp)
  refine .each (fun b l _ => (leaveSelftest_sameBut b l).mono (by simp [bootFields]) (by simp) (by simp [bootParts])) ?_
  have hshown : SameBut d ((d.put SYS_STATUS_BOOT_DONE 1).wrSat PWR_BOOT_MS 0 (d.tb.ext / 1000000).toNat) bootFields [] bootParts :=
    ((SameBut.refl d _ _ _).wr _ _ _ (.inr (by simp [bootFields]))).wr _ _ _ (.inr (by simp [bootFields]))
  refine hshown.trans ?_
  split
  · exact hhold ..
  · split
    · split
      · exact hhold ..
      · exact enterStandstill_sameBut ..
    · exact hhold ..

theorem tryEndBoot_sameBut (d : Dev) : SameBut d (tryEndBoot d) bootFields [] bootParts := by
  unfold tryEndBoot
  dsimp only
  split
  · exact endBoot_sameBut d
  · exact .refl _ _ _ _

theorem tryEndBoot_afterBoot {d : Dev} (h : d.mode ≠ .boot) : tryEndBoot d = d := if_neg fun hc => h hc.1

end Sys2Proof.Machine
end

section
/-!
SUPPORT. Faults, known-answer tests and migrations of loop engines (O37; R246, R264 to R267).
-/
namespace Sys2Proof.Machine
open RegField

/-! Slots of an engine. -/

theorem isClosed_congr {d e : Dev} (hj : e.mil.joints = d.mil.joints) (hs : e.mil.slots = d.mil.slots) (j : Nat) :
    isClosed e j = isClosed d j := by
  rw [isClosed, mjOf, msOf, hj, hs, isClosed, mjOf, msOf]

theorem isClosed_onMj (d : Dev) (k : Nat) (f : MilJoint → MilJoint) (j : Nat) :
    isClosed (onMj d k f) j = if j < 128 ∧ j = k then (f (mjOf d k)).closed else isClosed d j := by
  have hmj : mjOf (onMj d k f) j = if j = k then f (mjOf d j) else mjOf d j := SMap.get_modify ..
  have hms : msOf (onMj d k f) (j - 128) = msOf d (j - 128) := rfl
  unfold isClosed
  rw [hmj, hms]
  by_cases hj : j < 128
  · by_cases hk : j = k
    · subst hk
      simp [hj]
    · simp [hk]
  · simp [hj]

theorem isClosed_onMs (d : Dev) (k : Nat) (f : MilSlot → MilSlot) (j : Nat) :
    isClosed (onMs d k f) j = if 128 ≤ j ∧ j - 128 = k then (f (msOf d k)).closed else isClosed d j := by
  have hms : msOf (onMs d k f) (j - 128) = if j - 128 = k then f (msOf d (j - 128)) else msOf d (j - 128) := SMap.get_modify ..
  have hmj : mjOf (onMs d k f) j = mjOf d j := rfl
  unfold isClosed
  rw [hmj, hms]
  by_cases hj : j < 128
  · simp [hj, Nat.not_le.mpr hj]
  · by_cases hk : j - 128 = k <;> simp [hj, hk, Nat.le_of_not_lt hj]

/-- Slot `j` starts its work of a cycle again. -/
def slotReset (d : Dev) (j : Nat) : Dev :=
  if j < 128 then onMj d j fun x => { x with prepared := false, closed := false }
  else onMs d (j - 128) fun x => { x with prepared := false, closed := false }

theorem slotReset_isClosed (d : Dev) (i j : Nat) : isClosed (slotReset d i) j = if j = i then false else isClosed d j := by
  unfold slotReset
  split
  · next hi =>
    rw [isClosed_onMj]
    by_cases hj : j = i
    · simp [hj, hi]
    · simp [hj]
  · next hi =>
    rw [isClosed_onMs]
    by_cases hj : j = i
    · simp [hj, Nat.le_of_not_lt hi]
    · rw [if_neg (by omega), if_neg hj]

theorem slotReset_sameBut (d : Dev) (j : Nat) : SameBut d (slotReset d j) [] [] [.mil] := by
  unfold slotReset
  split <;> exact (SameBut.refl d _ _ _).onMil _ (by simp)

/-- Every slot of an engine starts again. -/
theorem slotsReset_open (d : Dev) {js : List Nat} {j : Nat} (h : j ∈ js) : isClosed (d.each js slotReset) j = false := by
  refine Dev.each_reaches (P := fun b => isClosed b j = false) (fun b => ?_) (fun b i hb => ?_) h d
  · rw [slotReset_isClosed, if_pos rfl]
  · rw [slotReset_isClosed, hb, ite_self]

/-! An engine faults. -/

/-- The registers of engine `p` that its fault changes, and the views. -/
def engineElements (p : Nat) : List (RegField × Nat) :=
  [(MIL_ENG_STAT_STATE, p), (MIL_ENG_STAT_CAUSE, p), (MIL_STATUS_ENG_FAULT, 0), (MIL_STATUS_SPARES, 0)]

/-- Engine `p` shows its fault and its cause. -/
def engineMarked (d : Dev) (p cause : Nat) : Dev :=
  ((d.wr MIL_ENG_STAT_STATE p 2).wr MIL_ENG_STAT_CAUSE p cause).flag MIL_STATUS_ENG_FAULT

/-- Engine `p` is faulted, shown and counted, with its logical engine still its own. -/
def engineLost (d : Dev) (p cause : Nat) : Dev :=
  countFault ((engineMarked d p cause).put MIL_STATUS_SPARES (spares (engineMarked d p cause)).length) .engine p .ENGINE_SPARED

/-- Logical engine `e` waits for a spare, or goes without an engine. -/
def engineLeft (d : Dev) (e : Nat) : Dev :=
  let d := d.each (engineSlots e) slotReset
  if d.mil.migrating.length < (spares d).length then onMil d fun m => { m with migrating := m.migrating ++ [e] }
  else
    let us := (engineUnitsOf d e).map fun u => (e, u)
    let d := onMil d fun m => { m with dead := m.dead ++ [e] }
    { d with fault := { d.fault with engineUnits := d.fault.engineUnits ++ us } }

section Fault
variable {d : Dev} {p cause : Nat}

theorem engineFault_again (h : d.rd MIL_ENG_STAT_STATE p = 2) : engineFault d p cause = d := if_pos h

theorem engineFault_eq (h : d.rd MIL_ENG_STAT_STATE p ≠ 2) : engineFault d p cause =
    if d.rd MIL_ENG_STAT_STATE p = 1 then engineLost d p cause
    else engineLeft (engineLost d p cause) ((engineLost d p cause).rd MIL_ENG_STAT_LOGICAL p) := if_neg h

theorem engineMarked_sameBut (d : Dev) (p cause : Nat) : SameBut d (engineMarked d p cause) [] (engineElements p) [] :=
  (((SameBut.refl d _ _ _).wr _ _ _ (by simp [engineElements])).wr _ _ _ (by simp [engineElements])).wr _ _ _ (by simp [engineElements])

theorem engineLost_sameBut (d : Dev) (p cause : Nat) : SameBut d (engineLost d p cause) faultFields (engineElements p) [.fault, .mil] :=
  (((engineMarked_sameBut d p cause).mono (by simp) (fun _ h => .inl h) (by simp)).wr _ _ _ (by simp [engineElements])).trans
    ((countFault_sameBut ..).mono (List.Subset.refl _) (by simp) (by simp))

theorem engineLost_rd (d : Dev) (p cause : Nat) (f : RegField) (i : Nat) (hf : f ∉ faultFields) : (engineLost d p cause).rd f i =
    ((engineMarked d p cause).put MIL_STATUS_SPARES (spares (engineMarked d p cause)).length).rd f i :=
  (countFault_sameBut ..).rd_eq f i hf (by simp)

theorem engineLost_counted (d : Dev) (p cause : Nat) : (3, p) ∈ (engineLost d p cause).fault.counted := countFault_counted ..

theorem spares_congr {d e : Dev} (h : ∀ q, e.rd MIL_ENG_STAT_STATE q = d.rd MIL_ENG_STAT_STATE q) : spares e = spares d := by
  unfold spares
  simp only [h]

theorem engineLeft_sameBut (d : Dev) (e : Nat) : SameBut d (engineLeft d e) [] [] [.fault, .mil] := by
  have hreset : SameBut d (d.each (engineSlots e) slotReset) [] [] [.fault, .mil] :=
    .each (fun b j _ => (slotReset_sameBut b j).mono (by simp) (by simp) (by simp)) (.refl _ _ _ _)
  unfold engineLeft
  dsimp only
  split
  · exact hreset.onMil _ (by simp)
  · exact (hreset.onMil _ (by simp)).fault _ (by simp)

theorem slotsReset_fault (d : Dev) (js : List Nat) : (d.each js slotReset).fault = d.fault :=
  (SameBut.each (fs := []) (es := []) (ps := [.mil]) (fun b j _ => slotReset_sameBut b j) (.refl d _ _ _)).rest .fault (by simp)

theorem engineLeft_counted (d : Dev) (e : Nat) : (engineLeft d e).fault.counted = d.fault.counted := by
  have hreset := slotsReset_fault d (engineSlots e)
  unfold engineLeft
  dsimp only
  split
  · change (d.each (engineSlots e) slotReset).fault.counted = _
    rw [hreset]
  · change (d.each (engineSlots e) slotReset).fault.counted = _
    rw [hreset]

theorem engineLeft_open (d : Dev) {e j : Nat} (h : j ∈ engineSlots e) : isClosed (engineLeft d e) j = false := by
  have hopen := slotsReset_open d h
  unfold engineLeft
  dsimp only
  generalize d.each (engineSlots e) slotReset = b at hopen ⊢
  split
  · exact (isClosed_congr (d := b) rfl rfl j).trans hopen
  · exact (isClosed_congr (d := b) rfl rfl j).trans hopen

/-- What the fault of an engine leaves: it is shown, with the healthy spares, and counted, and the slots of its logical engine start again. -/
structure EngineFaulted (d e : Dev) (p cause : Nat) : Prop where
  state : e.rd MIL_ENG_STAT_STATE p = 2
  cause : e.rd MIL_ENG_STAT_CAUSE p = cause
  shown : e.rd MIL_STATUS_ENG_FAULT = 1
  spares : e.rd MIL_STATUS_SPARES = (spares e).length % 4
  counted : (3, p) ∈ e.fault.counted
  reset : d.rd MIL_ENG_STAT_STATE p ≠ 1 → ∀ j ∈ engineSlots (d.rd MIL_ENG_STAT_LOGICAL p), isClosed e j = false

/-- What a fault of an engine leaves goes by its registers, the faults counted and the slots. -/
theorem EngineFaulted.mono {e b : Dev} (h : EngineFaulted d e p cause) {fs : List RegField} {ps : List Part} (hb : SameBut e b fs [] ps)
    (hf : [MIL_ENG_STAT_STATE, MIL_ENG_STAT_CAUSE, MIL_STATUS_ENG_FAULT, MIL_STATUS_SPARES].Disjoint fs) (hp : .fault ∉ ps) (hm : .mil ∉ ps) :
    EngineFaulted d b p cause := by
  have hr {f : RegField} (i : Nat) (h : f ∈ [MIL_ENG_STAT_STATE, MIL_ENG_STAT_CAUSE, MIL_STATUS_ENG_FAULT, MIL_STATUS_SPARES]) :
      b.rd f i = e.rd f i := hb.rd_eq f i (fun k => hf h k) (by simp)
  have hfault : b.fault = e.fault := hb.rest .fault hp
  have hmil : b.mil = e.mil := hb.rest .mil hm
  refine ⟨(hr _ (by simp)).trans h.state, (hr _ (by simp)).trans h.cause, (hr _ (by simp)).trans h.shown, ?_, hfault ▸ h.counted, fun hs j hj => ?_⟩
  · rw [hr _ (by simp), h.spares, spares_congr fun q => hr q (by simp)]
  · exact (isClosed_congr (by rw [hmil]) (by rw [hmil]) j).trans (h.reset hs j hj)

theorem engineLost_spares (d : Dev) (p cause : Nat) : spares (engineLost d p cause) = spares (engineMarked d p cause) :=
  spares_congr fun q => by rw [engineLost_rd _ _ _ _ _ (by simp)]; simp

theorem engineFault_faulted (h : d.rd MIL_ENG_STAT_STATE p ≠ 2) (hc : cause < 4) : EngineFaulted d (engineFault d p cause) p cause := by
  have hstate : (engineLost d p cause).rd MIL_ENG_STAT_STATE p = 2 := by
    rw [engineLost_rd _ _ _ _ _ (by simp)]; simp [engineMarked]
  have hcause : (engineLost d p cause).rd MIL_ENG_STAT_CAUSE p = cause := by
    rw [engineLost_rd _ _ _ _ _ (by simp)]; simpa [engineMarked] using Nat.mod_eq_of_lt hc
  have hshown : (engineLost d p cause).rd MIL_STATUS_ENG_FAULT = 1 := by
    rw [engineLost_rd _ _ _ _ _ (by simp)]; simp [engineMarked]
  have hspares : (engineLost d p cause).rd MIL_STATUS_SPARES = (spares (engineLost d p cause)).length % 4 := by
    rw [engineLost_rd _ _ _ _ _ (by simp), engineLost_spares]; simp
  have hlogical : (engineLost d p cause).rd MIL_ENG_STAT_LOGICAL p = d.rd MIL_ENG_STAT_LOGICAL p :=
    (engineLost_sameBut d p cause).rd_eq _ _ (by simp) (by simp [engineElements])
  rw [engineFault_eq h]
  split
  · next h1 => exact ⟨hstate, hcause, hshown, hspares, engineLost_counted .., fun hn => absurd h1 hn⟩
  · have hleft := engineLeft_sameBut (engineLost d p cause) (d.rd MIL_ENG_STAT_LOGICAL p)
    have hr (f : RegField) (i : Nat) := hleft.rd_eq f i (by simp) (by simp)
    rw [hlogical]
    exact ⟨(hr _ _).trans hstate, (hr _ _).trans hcause, (hr _ _).trans hshown,
      by rw [hr, hspares, spares_congr fun q => hr _ q], by rw [engineLeft_counted]; exact engineLost_counted .., fun _ j hj => engineLeft_open _ hj⟩

theorem engineFault_sameBut (d : Dev) (p cause : Nat) : SameBut d (engineFault d p cause) faultFields (engineElements p) [.fault, .mil] := by
  by_cases h : d.rd MIL_ENG_STAT_STATE p = 2
  · rw [engineFault_again h]
    exact .refl _ _ _ _
  · rw [engineFault_eq h]
    split
    · exact engineLost_sameBut ..
    · exact (engineLost_sameBut ..).trans ((engineLeft_sameBut ..).mono (by simp) (by simp) (List.Subset.refl _))

end Fault

end Sys2Proof.Machine
end

section
/-!
SUPPORT. Engines of a state, the gain table port and presets of feedback ports (O37; R246, R257, R264 to R267, R353).
-/
namespace Sys2Proof.Machine
open RegField

/-! Faults and known-answer tests. -/

section Engines
variable {s : State} {p : Fin 18}

theorem exec_engineFault (p : Fin 18) (kat : Bool) (s : State) : exec (.engineFault p kat) s = execEngineFault p kat s := rfl
theorem exec_spareKat (p : Fin 18) (pass : Bool) (s : State) : exec (.spareKat p pass) s = execSpareKat p pass s := rfl

theorem engineFault_effect (d : Dev) (p : Fin 18) (kat : Bool) :
    Effect (.engineFault p kat) d (tryEndBoot (engineFault d p (if kat then 3 else 1))) := ⟨_, exec_engineFault p kat, rfl⟩

theorem engineFault_mode (d : Dev) (p cause : Nat) : (engineFault d p cause).mode = d.mode :=
  (engineFault_sameBut d p cause).mode_eq (by simp) (by simp [engineElements])

/-- What a fault leaves stands whether or not it ends Boot. -/
theorem tryEndBoot_faulted {d e : Dev} {p cause : Nat} (h : EngineFaulted d e p cause) : EngineFaulted d (tryEndBoot e) p cause :=
  h.mono (tryEndBoot_sameBut e) (by simp [bootFields]) (by simp [bootParts]) (by simp [bootParts])

theorem engineFault_answers {kat : Bool} (h : s.dev.rd MIL_ENG_STAT_STATE p ≠ 2) :
    Answers (.engineFault p kat) s fun e => EngineFaulted s.dev e p (if kat then 3 else 1) := by
  have hf : EngineFaulted s.dev.cleared _ p (if kat then 3 else 1) := engineFault_faulted h (by split <;> omega)
  obtain ⟨h1, h2, h3, h4, h5, h6⟩ := tryEndBoot_faulted hf
  exact (engineFault_effect s.dev.cleared p kat).answers ⟨h1, h2, h3, h4, h5, h6⟩

theorem engineFault_touches {kat : Bool} (hm : s.dev.mode ≠ .boot) :
    Touches (.engineFault p kat) s faultFields (engineElements p) [.fault, .mil] := by
  have hx := engineFault_effect s.dev.cleared p kat
  rw [tryEndBoot_afterBoot (by rw [engineFault_mode]; exact hm)] at hx
  exact hx.touches (engineFault_sameBut ..)

theorem engineFault_ignored {kat : Bool} (h : s.dev.rd MIL_ENG_STAT_STATE p = 2) (hm : s.dev.mode ≠ .boot) :
    Completes (.engineFault p kat) s [] [] fun e => e.out = [] := by
  have hx := engineFault_effect s.dev.cleared p kat
  rw [engineFault_again (d := s.dev.cleared) h, tryEndBoot_afterBoot (d := s.dev.cleared) hm] at hx
  exact hx.unchanged

/-- An engine that runs its known-answer test: a spare, or any in Boot. -/
def katRuns (d : Dev) (p : Nat) : Prop := d.rd MIL_ENG_STAT_STATE p = 1 ∨ (d.rd MIL_ENG_STAT_STATE p = 0 ∧ d.mode = .boot)

/-- A device whose engine `p` has passed its test. -/
def katPassed (d : Dev) (p : Nat) : Dev := onMil (d.inc MIL_ENG_STAT_KAT_PASS p) fun m => { m with tested := m.tested.insert p }

theorem spareKat_effect {d : Dev} (pass : Bool) (h : katRuns d p) :
    Effect (.spareKat p pass) d (tryEndBoot (if pass then katPassed d p else engineFault d p 3)) := by
  refine ⟨_, exec_spareKat p pass, ?_⟩
  exact if_pos h

theorem katPassed_sameBut (d : Dev) (p : Nat) : SameBut d (katPassed d p) [] [(MIL_ENG_STAT_KAT_PASS, p)] [.mil] :=
  ((SameBut.refl d _ _ _).wr _ _ _ (by simp)).onMil _ (by simp)

theorem spareKat_passes (h : katRuns s.dev p) :
    (s.dev.mode ≠ .boot → Completes (.spareKat p true) s [(MIL_ENG_STAT_KAT_PASS, p)] [.mil] fun e =>
      e.mil = { s.dev.mil with tested := s.dev.mil.tested.insert p.val }) ∧
    Answers (.spareKat p true) s fun e => e.rd MIL_ENG_STAT_KAT_PASS p = s.dev.countUp MIL_ENG_STAT_KAT_PASS p ∧ p.val ∈ e.mil.tested := by
  have hx : Effect (.spareKat p true) s.dev.cleared (tryEndBoot (katPassed s.dev.cleared p)) := spareKat_effect true h
  refine ⟨fun hm => ?_, hx.answers ⟨?_, ?_⟩⟩
  · have hmode : (katPassed s.dev.cleared p).mode = s.dev.mode := (katPassed_sameBut _ _).mode_eq (by simp) (by simp)
    rw [tryEndBoot_afterBoot (by rwa [hmode])] at hx
    exact hx.completes (katPassed_sameBut ..) rfl
  · rw [(tryEndBoot_sameBut _).rd_eq _ _ (by simp [bootFields]) (by simp)]
    exact Dev.rd_inc ..
  · rw [(tryEndBoot_sameBut _).rest .mil (by simp [bootParts])]
    exact List.mem_insert_self

theorem spareKat_fails (h : katRuns s.dev p) :
    Answers (.spareKat p false) s fun e => e.rd MIL_ENG_STAT_STATE p = 2 ∧ e.rd MIL_ENG_STAT_CAUSE p = 3 ∧ e.rd MIL_STATUS_ENG_FAULT = 1 := by
  have hx : Effect (.spareKat p false) s.dev.cleared (tryEndBoot (engineFault s.dev.cleared p 3)) := spareKat_effect false h
  have hne : s.dev.cleared.rd MIL_ENG_STAT_STATE p ≠ 2 := by
    change s.dev.rd MIL_ENG_STAT_STATE p ≠ 2
    rcases h with h | h <;> omega
  have hf := tryEndBoot_faulted (engineFault_faulted hne (cause := 3) (by omega))
  exact hx.answers ⟨hf.state, hf.cause, hf.shown⟩

theorem spareKat_ignored {pass : Bool} (h : ¬ katRuns s.dev p) : Completes (.spareKat p pass) s [] [] fun e => e.out = [] :=
  .of_unchanged (exec_spareKat p pass s) (if_neg h)

end Engines

/-! Migrations (R266, R268). -/

section Migration
variable {d : Dev} {k : Fin 16}

theorem exec_engineMigration (k : Fin 16) (bad : Bool) (s : State) : exec (.engineMigration k bad) s = execEngineMigration k bad s := rfl

theorem restore_sameBut (d : Dev) (c : Ckpt) : SameBut d (restore d c) [MIL_J_STAT_COAST] [] [.mil] :=
  .each (fun b _ _ => (SameBut.refl b _ _ _).onMil _ (by simp))
    (.each (fun b _ _ => ((SameBut.refl b _ _ _).wr _ _ _ (by simp)).onMil _ (by simp)) (.refl _ _ _ _))

theorem restore_migrating (d : Dev) (c : Ckpt) : (restore d c).mil.migrating = d.mil.migrating := by
  have hslots (b : Dev) : (b.each c.slots fun d q => onMs d (q.1 - 128) fun x =>
      { x with target := q.2.target, segEntry := q.2.segEntry }).mil.migrating = b.mil.migrating := by
    refine Dev.each_induct (P := fun e => e.mil.migrating = b.mil.migrating) ?_ rfl
    exact fun e q _ he => he
  unfold restore
  refine (hslots _).trans (Dev.each_induct (P := fun e => e.mil.migrating = d.mil.migrating) ?_ rfl)
  exact fun e q _ he => he

/-- The newer checkpoint of logical engine `k`, the older one if that is bad. -/
def ckptOf (d : Dev) (k : Nat) (bad : Bool) : Option Ckpt :=
  let b0 := SMap.get none d.mil.ckpt (2 * k)
  let b1 := SMap.get none d.mil.ckpt (2 * k + 1)
  let (newer, older) := match b0, b1 with
    | some x, some y => if 0 < frameDiff x.frame y.frame then (b0, b1) else (b1, b0)
    | some _, none => (b0, b1)
    | none, _ => (b1, b0)
  if bad then older else newer

/-- A device in its prepare phase, with logical engine `k` no longer waiting and its slots taken back from a checkpoint. -/
def ckptTaken (d : Dev) (k : Nat) (bad : Bool) : Dev :=
  let e := onMil (d.reach 8000) fun m => { m with migrating := m.migrating.filter fun x => decide (x ≠ k) }
  match ckptOf (d.reach 8000) k bad with
  | some c => restore e c
  | none => e

/-- Engine `p` carries logical engine `k`. -/
def engineTaken (d : Dev) (k p : Nat) : Dev :=
  let w := d.rd MIL_MAP_PHYS (k / 4)
  let sh := 2 ^ (8 * (k % 4))
  let d := d.wr MIL_MAP_PHYS (k / 4) (w - w / sh % 256 * sh + p * sh)
  ((d.wr MIL_ENG_STAT_STATE p 0).wr MIL_ENG_STAT_LOGICAL p k).flag MIL_STATUS_ENG_FAULT

/-- A device whose spare `p` has taken logical engine `k`. -/
def migrated (d : Dev) (k p : Nat) (bad : Bool) : Dev :=
  let d := engineTaken (ckptTaken d k bad) k p
  (d.put MIL_STATUS_SPARES (spares d).length).event .ENGINE_SPARED (srcEngine p) p

theorem engineMigration_migrates {p : Nat} {rest : List Nat} (bad : Bool) (hk : d.mil.migrating.min? = some k.val) (hs : spares d = p :: rest) :
    Effect (.engineMigration k bad) d (migrated d k p bad) := by
  refine ⟨_, exec_engineMigration k bad, ?_⟩
  refine (if_pos hk).trans ?_
  rw [hs]
  rfl

theorem engineMigration_ignored {s : State} {bad : Bool} (h : s.dev.mil.migrating.min? ≠ some k.val ∨ spares s.dev = []) :
    Completes (.engineMigration k bad) s [] [] fun e => e.out = [] := by
  refine .of_unchanged (exec_engineMigration k bad s) ?_
  by_cases hk : s.dev.mil.migrating.min? = some k.val
  · have hnone : spares s.dev.cleared = [] := h.resolve_left (not_not.mpr hk)
    refine (if_pos hk).trans ?_
    rw [hnone]
  · exact if_neg hk

theorem ckptTaken_sameBut (d : Dev) (k : Nat) (bad : Bool) : SameBut d (ckptTaken d k bad) [MIL_J_STAT_COAST] [] [.tb, .mil] := by
  have hwait : SameBut d (onMil (d.reach 8000) fun m => { m with migrating := m.migrating.filter fun x => decide (x ≠ k) }) [MIL_J_STAT_COAST] []
      [.tb, .mil] := ((SameBut.refl d _ _ _).reach 8000 (by simp)).onMil _ (by simp)
  unfold ckptTaken
  dsimp only
  split
  · exact hwait.trans ((restore_sameBut ..).showing (List.Subset.refl _) (by simp))
  · exact hwait

theorem ckptTaken_migrating (d : Dev) (k : Nat) (bad : Bool) : k ∉ (ckptTaken d k bad).mil.migrating := by
  have hgone : k ∉ d.mil.migrating.filter fun x => decide (x ≠ k) := by simp
  unfold ckptTaken
  dsimp only
  split
  · rw [restore_migrating]
    exact hgone
  · exact hgone

/-- A byte of a map word replaced reads back, and takes nothing from the others that a word could not hold. -/
theorem mapByte_replaced (w p i : Nat) (hp : p < 256) (hi : i < 4) :
    (w - w / 2 ^ (8 * i) % 256 * 2 ^ (8 * i) + p * 2 ^ (8 * i)) % 2 ^ 32 / 2 ^ (8 * i) % 256 = p := by
  interval_cases i <;> norm_num <;> omega

theorem engineTaken_shows (d : Dev) {k p : Nat} (hk : k < 16) (hp : p < 18) :
    (engineTaken d k p).rd MIL_ENG_STAT_STATE p = 0 ∧ (engineTaken d k p).rd MIL_ENG_STAT_LOGICAL p = k ∧ physOf (engineTaken d k p) k = p := by
  refine ⟨by simp [engineTaken], ?_, ?_⟩
  · simp [engineTaken]
    omega
  · have hword := mapByte_replaced (d.rd MIL_MAP_PHYS (k / 4)) p (k % 4) (by omega) (by omega)
    simpa [engineTaken, physOf] using hword

theorem spares_lt {d : Dev} {p : Nat} (h : p ∈ spares d) : p < 18 := List.mem_range.mp (List.mem_filter.mp h).1

theorem engineMigration_answers {s : State} {bad : Bool} {p : Nat} {rest : List Nat} (hk : s.dev.mil.migrating.min? = some k.val)
    (hs : spares s.dev = p :: rest) (hu : s.dev.rd PWR_STATUS_SHARED_UP ≠ 0) :
    Answers (.engineMigration k bad) s fun e => e.rd MIL_ENG_STAT_STATE p = 0 ∧ e.rd MIL_ENG_STAT_LOGICAL p = k.val ∧
      physOf e k = p ∧ k.val ∉ e.mil.migrating ∧ e.logged .ENGINE_SPARED (srcEngine p) p := by
  have hp : p < 18 := spares_lt (d := s.dev) (by rw [hs]; simp)
  have hx := engineMigration_migrates (d := s.dev.cleared) bad hk hs
  obtain ⟨hstate, hlogical, hphys⟩ := engineTaken_shows (ckptTaken s.dev.cleared k bad) k.isLt hp
  have hckpt := ckptTaken_migrating s.dev.cleared k bad
  have hup : (ckptTaken s.dev.cleared k bad).rd PWR_STATUS_SHARED_UP = s.dev.rd PWR_STATUS_SHARED_UP :=
    (ckptTaken_sameBut s.dev.cleared k bad).rd_eq _ _ (by simp) (by simp)
  have hrec : SameBut (engineTaken (ckptTaken s.dev.cleared k bad) k p) (migrated s.dev.cleared k p bad)
      (MIL_STATUS_SPARES :: recordFields) [] [.log] :=
    ((SameBut.refl _ _ _ _).wr _ _ _ (by simp)).eventIn _ _ _ _ (by simp) (by simp)
  have hr (f : RegField) (i : Nat) (hf : f ∉ MIL_STATUS_SPARES :: recordFields) := hrec.rd_eq f i hf (by simp)
  refine hx.answers ⟨?_, ?_, ?_, ?_, Dev.record_logged _ _ _ _ _ ?_ (by omega) (by norm_num)⟩
  · rw [hr _ _ (by simp [recordFields]), hstate]
  · rw [hr _ _ (by simp [recordFields]), hlogical]
  · rw [physOf, hr _ _ (by simp [recordFields]), ← physOf, hphys]
  · rw [hrec.rest .mil (by simp)]
    exact hckpt
  · simpa [engineTaken, hup] using hu

end Migration

end Sys2Proof.Machine
end

section
/-!
SUPPORT. The gain table port, presets, the drain of the store and telemetry (R231, R257, R270, R271, R353), and the statement about engines and
ports settled (O37).
-/
namespace Sys2Proof.Machine
open RegField

/-! Writes of triggers that are taken, and those refused as busy. -/

theorem trigger_taken {d : Dev} {m : Master} {addr : Nat} {busy : RegField × Nat} (h : d.takes m addr busy) (f : Dev → Dev) :
    d.trigger m addr (some busy) f = f d := by
  obtain ⟨hserved, hbusy⟩ := h
  rw [Dev.trigger_served _ f hserved]
  exact if_neg (by simpa [Dev.on] using hbusy)

/-- The registers a write refused as busy changes. -/
def busyRegs : List (RegField × Nat) :=
  [(SYS_STATUS_BUSY_REJECT, 0), (SYS_ERR_CNT1_BUSY_REJECT_CNT, 0)] ++ errRegs ++ recordRegs srcSystem

theorem busyReject_sameBut (d : Dev) (m : Master) (addr : Nat) : SameBut d (d.busyReject m addr) [] busyRegs [.log] := by
  have hcount : SameBut d ((d.flag SYS_STATUS_BUSY_REJECT).inc SYS_ERR_CNT1_BUSY_REJECT_CNT) [] busyRegs [.log] :=
    ((SameBut.refl d _ _ _).wr _ _ _ (by simp [busyRegs])).wr _ _ _ (by simp [busyRegs])
  exact (hcount.trans ((Dev.errLast_sameBut ..).mono (by simp) (fun x hx => .inl (by simp [busyRegs, hx])) (by simp))).event _ _ _ _
    (fun y hy => .inl (by simp [busyRegs, hy])) (by simp)

theorem busyReject_shows {d : Dev} (m : Master) (addr : Nat) (hu : d.rd PWR_STATUS_SHARED_UP ≠ 0) :
    (d.busyReject m addr).rd SYS_STATUS_BUSY_REJECT = 1 ∧ (d.busyReject m addr).logged .BUSY_REJECT srcSystem := by
  refine ⟨?_, Dev.event_logged _ _ _ ?_⟩
  · simp [Dev.busyReject, Dev.errLast]
  · simpa [Dev.busyReject, Dev.errLast] using hu

/-- A trigger write that is refused as busy is flagged, counted and logged, and does nothing else. -/
theorem completes_busyReject {s : State} {cmd : Instr} {m : Master} {addr : Nat} (hx : Effect cmd s.dev.cleared (s.dev.cleared.busyReject m addr))
    (hu : s.dev.rd PWR_STATUS_SHARED_UP ≠ 0) :
    Completes cmd s busyRegs [.log] fun e => e.rd SYS_STATUS_BUSY_REJECT = 1 ∧ e.logged .BUSY_REJECT srcSystem :=
  hx.completes (busyReject_sameBut ..) (busyReject_shows m addr hu)

/-! The gain table port (R257). -/

section Ports
variable {s : State} {m : Master}

/-- A device with a gain in the table and the port at the next point. -/
def gainPut (d : Dev) (v : Nat) : Dev :=
  let i := 128 * d.rd MIL_TBL_SEL_JOINT + 64 * d.rd MIL_TBL_SEL_BANK + d.rd MIL_TBL_SEL_POINT
  let d := (d.put MIL_TBL_G_G v).put MIL_TBL_SEL_POINT ((d.rd MIL_TBL_SEL_POINT + 1) % 64)
  onMil d fun x => { x with gains := SMap.set (0, 0) x.gains i (d.rd MIL_TBL_E_E, v) }

theorem gainPut_sameBut (d : Dev) (v : Nat) : SameBut d (gainPut d v) [] [(MIL_TBL_G_G, 0), (MIL_TBL_SEL_POINT, 0)] [.mil] := by
  unfold gainPut
  exact (((SameBut.refl _ _ _ _).wr _ _ _ (by simp)).wr _ _ _ (by simp)).onMil _ (by simp)

theorem exec_gainTableWrite (m : Master) (v : Word32) (s : State) : exec (.gainTableWrite m v) s = execGainTableWrite m v s := rfl

theorem gainTableWrite_effect {d : Dev} (v : Word32) (h : d.takes m 0x14208 (MIL_STATUS_BUSY, 0)) : Effect (.gainTableWrite m v) d (
    if d.rd MIL_TBL_SEL_BANK = (mjOf d (d.rd MIL_TBL_SEL_JOINT)).bank then d.busyReject m 0x14208 else gainPut d v.toNat) :=
  ⟨_, exec_gainTableWrite m v, trigger_taken h _⟩

theorem gainTableWrite_puts {v : Word32} (h : s.dev.takes m 0x14208 (MIL_STATUS_BUSY, 0))
    (hb : s.dev.rd MIL_TBL_SEL_BANK ≠ (mjOf s.dev (s.dev.rd MIL_TBL_SEL_JOINT)).bank) :
    Completes (.gainTableWrite m v) s [(MIL_TBL_G_G, 0), (MIL_TBL_SEL_POINT, 0)] [.mil] fun e =>
      e.rd MIL_TBL_G_G = v.toNat ∧ e.rd MIL_TBL_SEL_POINT = (s.dev.rd MIL_TBL_SEL_POINT + 1) % 64 ∧
        SMap.get (0, 0) e.mil.gains
          (128 * s.dev.rd MIL_TBL_SEL_JOINT + 64 * s.dev.rd MIL_TBL_SEL_BANK + s.dev.rd MIL_TBL_SEL_POINT) = (s.dev.rd MIL_TBL_E_E, v.toNat) := by
  have hx := (gainTableWrite_effect (d := s.dev.cleared) v h).congr (if_neg hb)
  refine hx.completes ?_ ⟨?_, ?_, ?_⟩
  · exact gainPut_sameBut ..
  · change (((s.dev.cleared.put MIL_TBL_G_G v.toNat).put MIL_TBL_SEL_POINT _).rd MIL_TBL_G_G) = _
    simpa using Nat.mod_eq_of_lt v.isLt
  · change (((s.dev.cleared.put MIL_TBL_G_G v.toNat).put MIL_TBL_SEL_POINT ((s.dev.rd MIL_TBL_SEL_POINT + 1) % 64)).rd MIL_TBL_SEL_POINT) = _
    simp
  · refine (SMap.get_set_same (0, 0) s.dev.mil.gains _ _).trans ?_
    simp

theorem gainTableWrite_refused {v : Word32} (h : s.dev.takes m 0x14208 (MIL_STATUS_BUSY, 0))
    (hb : s.dev.rd MIL_TBL_SEL_BANK = (mjOf s.dev (s.dev.rd MIL_TBL_SEL_JOINT)).bank) :
    Completes (.gainTableWrite m v) s busyRegs [.log] fun e => e.rd SYS_STATUS_BUSY_REJECT = 1 ∧ e.logged .BUSY_REJECT srcSystem :=
  completes_busyReject ((gainTableWrite_effect (d := s.dev.cleared) v h).congr (if_pos hb)) h.1.1

/-! Presets (R353). -/

theorem exec_fbPreset (m : Master) (k : Fin 16) (s : State) : exec (.fbPreset m k) s = execFbPreset m k s := rfl

theorem fbPreset_effect {d : Dev} {k : Fin 16} (h : d.takes m (0x1803C + 256 * k) (FBK_STAT_BUSY, k)) : Effect (.fbPreset m k) d (
    if d.rd FBK_CFG_MODE k = 3 ∨ d.rd FBK_CFG_MODE k = 4 ∨ portUsed d k = true then d.busyReject m (0x1803C + 256 * k)
    else onFb d k fun p => { p with preset := true }) :=
  ⟨_, exec_fbPreset m k, trigger_taken h _⟩

theorem onFb_sameBut (d : Dev) (k : Nat) (f : FbPort → FbPort) : SameBut d (onFb d k f) [] [] [.axes] :=
  ⟨fun _ _ _ _ => rfl, fun p hn => by cases p with | axes => exact absurd (by simp) hn | _ => rfl⟩

theorem fbOf_onFb (d : Dev) (k : Nat) (f : FbPort → FbPort) : fbOf (onFb d k f) k = f (fbOf d k) := by
  rw [fbOf, onFb, SMap.get_modify, if_pos rfl, fbOf]

theorem fbPreset_taken {k : Fin 16} (h : s.dev.takes m (0x1803C + 256 * k) (FBK_STAT_BUSY, k)) (h3 : s.dev.rd FBK_CFG_MODE k ≠ 3)
    (h4 : s.dev.rd FBK_CFG_MODE k ≠ 4) (hu : portUsed s.dev k = false) :
    Completes (.fbPreset m k) s [] [.axes] fun e => fbOf e k = { fbOf s.dev k with preset := true } := by
  have hfree : ¬ (s.dev.rd FBK_CFG_MODE k = 3 ∨ s.dev.rd FBK_CFG_MODE k = 4 ∨ portUsed s.dev k = true) := by simp [h3, h4, hu]
  exact ((fbPreset_effect (d := s.dev.cleared) h).congr (if_neg hfree)).completes (onFb_sameBut ..) (fbOf_onFb ..)

theorem fbPreset_refused {k : Fin 16} (h : s.dev.takes m (0x1803C + 256 * k) (FBK_STAT_BUSY, k))
    (hb : s.dev.rd FBK_CFG_MODE k = 3 ∨ s.dev.rd FBK_CFG_MODE k = 4 ∨ portUsed s.dev k = true) :
    Completes (.fbPreset m k) s busyRegs [.log] fun e => e.rd SYS_STATUS_BUSY_REJECT = 1 ∧ e.logged .BUSY_REJECT srcSystem :=
  completes_busyReject ((fbPreset_effect (d := s.dev.cleared) h).congr (if_pos hb)) h.1.1

end Ports

end Sys2Proof.Machine
end

section
/-!
SUPPORT. The drain of the store (R231), as O37 states it.
-/
namespace Sys2Proof.Machine
open RegField

/-! The drain of the store (R231). -/

section Drain
variable {d : Dev} {a : Fin 36}

/-- A run that comes to rest at frame `fin` for want of segments. -/
def drainRun (fin : Nat) (r : Run) : Run := { r with mode := .stopping 3, fin := some fin, till := none, hold := none }

/-- A device that has flagged and logged the drain of axis set `a`. -/
def drainFlagged (d : Dev) (a : Nat) : Dev :=
  ((d.flag PLN_ARM_STAT_DRAINED a).flag PLN_STATUS_STORE_DRAIN).event .STORE_DRAIN srcPlanner a

theorem exec_storeDrain (a : Fin 36) (s : State) : exec (.storeDrain a) s = execStoreDrain a s := rfl

theorem storeDrain_idle (h : (armOf d a).run = none) : Effect (.storeDrain a) d d := by
  refine ⟨_, exec_storeDrain a, ?_⟩
  dsimp only
  rw [h]

theorem storeDrain_otherMode {r : Run} (h : (armOf d a).run = some r) (hm : r.mode = .held ∨ r.mode = .coupling ∨ r.mode = .stopping 3) :
    Effect (.storeDrain a) d d := by
  refine ⟨_, exec_storeDrain a, ?_⟩
  dsimp only
  rw [h]
  split
  · next r' g hr _ =>
    obtain rfl := Option.some.inj hr
    exact if_pos (.inl hm)
  · rfl

theorem storeDrain_drains {r : Run} {g : Seg} (h : (armOf d a).run = some r)
    (hg : ((slotsOf d a).head?.bind fun j => (segsOf d j).getLast?) = some g) (hm : ¬ (r.mode = .held ∨ r.mode = .coupling ∨ r.mode = .stopping 3))
    (hl : g.last = false) (hf : 0 ≤ frameDiff (frameAdd d.frameNo 2) (segStop g)) :
    Effect (.storeDrain a) d (showPlan (planDrained (drainFlagged d a) a (frameAdd (segStop g) g.stopFr))) := by
  refine ⟨_, exec_storeDrain a, ?_⟩
  dsimp only
  rw [h, hg]
  exact if_neg (by simp only [hm, hl, not_lt.mpr hf, Bool.false_eq_true, or_self, not_false_eq_true])

/-- A device whose splice on its way for axis set `a` is dropped and answered. -/
def spliceDropped (d : Dev) (a : Nat) : Dev := unstage (d.each (stagedAnswers d a) fun d q => answerNow d q.1 q.2 .ok) a

theorem spliceDropped_sameBut (d : Dev) (a : Nat) : SameBut d (spliceDropped d a) flightFields [] [.pln, .host] := by
  have h : SameBut d (d.each (stagedAnswers d a) fun d q => answerNow d q.1 q.2 .ok) flightFields [] [.pln, .host] :=
    .each (fun b q _ => (answerNow_sameBut b q.1 q.2 .ok).showing (List.Subset.refl _) (by simp)) (.refl _ _ _ _)
  unfold spliceDropped unstage
  exact h.onPln _ (by simp)

theorem planDrained_alone {r : Run} {fin : Nat} (hr : (armOf d a).run = some r) (hn : (armOf d a).next = none) :
    planDrained d a fin = onArm (spliceDropped d a) a fun y => { y with run := some (drainRun fin r) } := by
  unfold planDrained
  dsimp only
  rw [hr, hn]
  rfl

/-- A drain as its command blends: the next command drains once its blend has begun, and is planned again before. -/
theorem planDrained_blending {r n : Run} {fin : Nat} (hr : (armOf d a).run = some r) (hn : (armOf d a).next = some n) :
    planDrained d a fin = if blendBegun (armOf d a) (spliceDropped d a).frameNo then
      endRun (releaseZones (onArm (spliceDropped d a) a fun y => { y with run := some (drainRun fin n), next := none }) a (zoneRel r.cmd)) r 0 n.zero
    else onArm (spliceDropped d a) a fun y =>
      { y with run := some (drainRun fin r), next := none, queue := { n.cmd with headAt := none } :: y.queue } := by
  unfold planDrained
  dsimp only
  rw [hr, hn]
  rfl

theorem endRun_sameBut (d : Dev) (r : Run) (code fin : Nat) : SameBut d (endRun d r code fin) flightFields [] [.host] := complete_sameBut ..

theorem planDrained_sameBut {r : Run} (fin : Nat) (hr : (armOf d a).run = some r) :
    SameBut d (planDrained d a fin) (PLN_ZONE_OWNER :: flightFields) [] [.pln, .host] := by
  have hdrop : SameBut d (spliceDropped d a) (PLN_ZONE_OWNER :: flightFields) [] [.pln, .host] :=
    (spliceDropped_sameBut d a).showing (by simp) (List.Subset.refl _)
  cases hn : (armOf d a).next with
  | none =>
    rw [planDrained_alone hr hn]
    exact hdrop.onArm _ _ (by simp)
  | some n =>
    rw [planDrained_blending hr hn]
    split
    · exact ((hdrop.onArm _ _ (by simp)).trans ((releaseZones_silent ..).frame.showing (by simp) (by simp))).trans
        ((endRun_sameBut ..).showing (by simp) (by simp))
    · exact hdrop.onArm _ _ (by simp)

theorem planDrained_arm {r n : Run} {fin : Nat} (hr : (armOf d a).run = some r) (hn : (armOf d a).next = some n) :
    (armOf (planDrained d a fin) a).next = none ∧
      (armOf (planDrained d a fin) a).run = some (drainRun fin (if blendBegun (armOf d a) d.frameNo then n else r)) := by
  have hframe : (spliceDropped d a).frameNo = d.frameNo := (spliceDropped_sameBut d a).frameNo_eq (by simp [flightFields]) (by simp)
  rw [planDrained_blending hr hn, hframe]
  split
  · rw [endRun_eq, armOf_complete, armOf_releaseZones, armOf_onArm_same]
    exact ⟨rfl, rfl⟩
  · rw [armOf_onArm_same]
    exact ⟨rfl, rfl⟩

theorem drainFlagged_sameBut (d : Dev) (a : Nat) :
    SameBut d (drainFlagged d a) ([PLN_ARM_STAT_DRAINED, PLN_STATUS_STORE_DRAIN] ++ recordFields) [] [.log] :=
  (((SameBut.refl d _ _ _).wr _ _ _ (by simp)).wr _ _ _ (by simp)).eventIn _ _ _ _ (List.subset_append_right _ _) (by simp)

theorem drainFlagged_shows (d : Dev) (a : Nat) :
    (drainFlagged d a).rd PLN_ARM_STAT_DRAINED a = 1 ∧ (drainFlagged d a).rd PLN_STATUS_STORE_DRAIN = 1 := by
  have hrec : SameBut ((d.flag PLN_ARM_STAT_DRAINED a).flag PLN_STATUS_STORE_DRAIN) (drainFlagged d a) recordFields [] [.log] :=
    (SameBut.refl _ _ _ _).eventIn _ _ _ _ (List.Subset.refl _) (by simp)
  rw [hrec.rd_eq _ _ (by simp [recordFields]) (by simp), hrec.rd_eq _ _ (by simp [recordFields]) (by simp)]
  simp

theorem stateOf_congr {d e : Dev} (h : e.pln = d.pln) (i : Nat) : stateOf e i = stateOf d i := by
  cases d
  cases e
  cases h
  rfl

theorem showArm_stateAt (d : Dev) (i j : Nat) : (showArm d i).rd PLN_ARM_STAT_STATE j =
    if j = i then stateOf d i else d.rd PLN_ARM_STAT_STATE j := by
  split
  · next h => rw [h, showArm_state]
  · next h =>
    unfold showArm
    simp [h]

theorem showPlan_state (d : Dev) {i : Nat} (hi : i < 36) : (showPlan d).rd PLN_ARM_STAT_STATE i = stateOf d i := by
  have harms := Dev.each_elements (g := PLN_ARM_STAT_STATE) (K := fun b => b.pln = d.pln) (f := showArm) (xs := List.range 36)
    (F := fun z _ => stateOf d z) (fun b x hb => ((showArm_silent b x).pln_eq (by simp)).trans hb)
    (fun b x hb z => by rw [showArm_stateAt, stateOf_congr hb]) List.nodup_range rfl i
  rw [if_pos (List.mem_range.mpr hi)] at harms
  refine Eq.trans ?_ harms
  exact Dev.each_induct (P := fun b => b.rd PLN_ARM_STAT_STATE i = (d.each (List.range 36) showArm).rd PLN_ARM_STAT_STATE i)
    (fun b z _ hb => by simpa using hb) rfl

end Drain

section Drained
variable {s : State} {a : Fin 36} {r : Run} {g : Seg} (hr : (armOf s.dev a).run = some r)
  (hg : ((slotsOf s.dev a).head?.bind fun j => (segsOf s.dev j).getLast?) = some g)
  (hm : ¬ (r.mode = .held ∨ r.mode = .coupling ∨ r.mode = .stopping 3)) (hl : g.last = false)
  (hf : 0 ≤ frameDiff (frameAdd s.dev.frameNo 2) (segStop g))
include hr hg hm hl hf

theorem storeDrain_answers :
    Answers (.storeDrain a) s fun e => e.rd PLN_ARM_STAT_DRAINED a = 1 ∧ e.rd PLN_STATUS_STORE_DRAIN = 1 ∧
      ((armOf s.dev a).next = none → (armOf e a).run = some (drainRun (frameAdd (segStop g) g.stopFr) r)) ∧
      (∀ n, (armOf s.dev a).next = some n → (armOf e a).next = none ∧
        (armOf e a).run = some (drainRun (frameAdd (segStop g) g.stopFr) (if blendBegun (armOf s.dev a) s.dev.frameNo then n else r))) := by
  have hx := storeDrain_drains (d := s.dev.cleared) hr hg hm hl hf
  obtain ⟨hdrained, hstore⟩ := drainFlagged_shows s.dev.cleared a
  have hflag := drainFlagged_sameBut s.dev.cleared a
  have harm : armOf (drainFlagged s.dev.cleared a) a = armOf s.dev a := armOf_congr (d := s.dev) (hflag.pln_eq (by simp)) a
  have hframe : (drainFlagged s.dev.cleared a).frameNo = s.dev.frameNo := hflag.frameNo_eq (by simp [recordFields]) (by simp)
  have hplan := planDrained_sameBut (frameAdd (segStop g) g.stopFr) (harm ▸ hr)
  refine hx.answers ⟨?_, ?_, fun hn => ?_, fun n hn => ?_⟩
  · rw [showPlan_rd _ _ _ (by simp [planViews]), hplan.rd_eq _ _ (by simp [flightFields]) (by simp), hdrained]
  · rw [showPlan_rd _ _ _ (by simp [planViews]), hplan.rd_eq _ _ (by simp [flightFields]) (by simp), hstore]
  · rw [armOf_showPlan, planDrained_alone (harm ▸ hr) (harm ▸ hn), armOf_onArm_same]
  · rw [armOf_showPlan, ← hframe, ← harm]
    exact planDrained_arm (harm ▸ hr) (harm ▸ hn)

theorem storeDrain_shown (hn : (armOf s.dev a).next = none) (hu : s.dev.rd PWR_STATUS_SHARED_UP ≠ 0) :
    Answers (.storeDrain a) s fun e => e.rd PLN_ARM_STAT_STATE a = 6 ∧ e.logged .STORE_DRAIN srcPlanner a := by
  have hx := storeDrain_drains (d := s.dev.cleared) hr hg hm hl hf
  have hflag := drainFlagged_sameBut s.dev.cleared a
  have harm : armOf (drainFlagged s.dev.cleared a) a = armOf s.dev a := armOf_congr (d := s.dev) (hflag.pln_eq (by simp)) a
  have hplan := planDrained_sameBut (frameAdd (segStop g) g.stopFr) (harm ▸ hr)
  refine hx.answers ⟨?_, ?_⟩
  · rw [showPlan_state _ a.isLt, planDrained_alone (harm ▸ hr) (harm ▸ hn), stateOf, armOf_onArm_same]
    rfl
  · refine Dev.logged_of_log (d := drainFlagged s.dev.cleared a) ?_ ?_
    · rw [(showPlan_silent _).frame.rest .log (by simp)]
      exact hplan.rest .log (by simp)
    · exact Dev.record_logged _ _ _ _ _ (by simpa using hu) (by omega) (by norm_num)

end Drained

end Sys2Proof.Machine
end

section
/-!
SUPPORT. Telemetry (R270, R271), and the statement about engines and ports settled (O37).
-/
namespace Sys2Proof.Machine
open RegField

/-! Telemetry (R270, R271). -/

theorem bytesLE_length (k n : Nat) : (bytesLE k n).length = k := by
  induction k generalizing n with
  | zero => rfl
  | succ k ih => rw [bytesLE, List.length_cons, ih]

theorem tlmBlock_length (k miss : Nat) (xs : List F64) : (tlmBlock k miss xs).length = 16 := by
  unfold tlmBlock
  simp only [List.length_append, bytesLE_length]

/-- A telemetry record: its head, and a block of each selection. -/
def tlmBytes (t : Telemetry) (ks : List Nat) : List Byte :=
  bytesLE 4 t.frame0 ++ bytesLE 1 ks.length ++ bytesLE 1 (bitOf (decide (0 < t.lost))) ++ bytesLE 2 (min t.lost 65535) ++
    bytesLE 4 t.seq ++ bytesLE 4 0 ++ ks.flatMap fun k => tlmBlock k (SMap.get 0 t.miss k) (SMap.get [] t.samples k)

theorem tlmBytes_length (t : Telemetry) (ks : List Nat) : (tlmBytes t ks).length = 16 + 16 * ks.length := by
  unfold tlmBytes
  simp only [List.length_append, bytesLE_length, List.length_flatMap, tlmBlock_length, List.map_const', List.sum_replicate, smul_eq_mul]
  omega

section Telemetry
variable {s : State} {d : Dev}

theorem exec_telemetryRecord (s : State) : exec .telemetryRecord s = execTelemetryRecord s := rfl

/-- No record is due: telemetry is off, selects nothing, or its block is not complete. -/
def tlmWaits (d : Dev) : Prop :=
  !d.on MIL_TLM_CTRL_EN ∨ (tlmSels d).isEmpty ∨ !((tlmSels d).all fun k => decide ((SMap.get [] d.mil.tlm.samples k).length = 8))

theorem telemetryRecord_off (h : s.dev.rd MIL_TLM_CTRL_EN = 0 ∨ tlmSels s.dev = []) :
    Completes .telemetryRecord s [] [] fun e => e.out = [] := by
  have hwait : tlmWaits s.dev := by
    rcases h with h | h
    · exact .inl (by simp [Dev.on, h])
    · exact .inr (.inl (by simp [h]))
  exact .of_unchanged (exec_telemetryRecord s) (if_pos hwait)

theorem not_tlmWaits (hen : d.rd MIL_TLM_CTRL_EN ≠ 0) (hsel : tlmSels d ≠ [])
    (hfull : ∀ k ∈ tlmSels d, (SMap.get [] d.mil.tlm.samples k).length = 8) : ¬ tlmWaits d := by
  have hall : ((tlmSels d).all fun k => decide ((SMap.get [] d.mil.tlm.samples k).length = 8)) = true := by simpa using hfull
  simp [tlmWaits, Dev.on, hen, hsel, hall]

/-- Index of the record after the one being written (Table 8-10). -/
def tlmNext (d : Dev) : Nat := if d.rd MIL_TLM_SIZE_RECORDS ≤ d.rd MIL_TLM_WR_IDX + 1 then 0 else d.rd MIL_TLM_WR_IDX + 1

/-- A device whose complete block is closed. -/
def tlmClosed (d : Dev) : Dev := onTlm d fun t => { t with samples := [], miss := [], running := false, seq := (t.seq + 1) % 2 ^ 32 }

/-- A device that flags a full ring, and logs it as its episode begins. -/
def tlmFull (d : Dev) : Dev :=
  let e := (tlmClosed d).flag MIL_STATUS_TLM_OVERFLOW
  if d.mil.tlm.episode then e else e.event .TLM_OVERFLOW srcLoop

/-- A device that drops its record, as the ring is full. -/
def tlmDropped (d : Dev) : Dev :=
  onTlm (tlmFull d) fun t => { t with lost := t.lost + 1, episode := true, seq := (t.seq + 2 ^ 32 - 1) % 2 ^ 32 }

/-- Host address of the record at the write index. -/
def tlmAddr (d : Dev) : Nat :=
  hostBase (d.rd MIL_TLM_BASE_LO_ADDR) (d.rd MIL_TLM_BASE_HI_ADDR) + d.rd MIL_TLM_WR_IDX * (16 + 16 * (tlmSels d).length)

/-- A device that writes its record. -/
def tlmWritten (d : Dev) : Dev :=
  onTlm (((tlmClosed d).emit (.hostWrite (tlmAddr d) (tlmBytes d.mil.tlm (tlmSels d)))).put MIL_TLM_WR_IDX (tlmNext d)) fun t =>
    { t with lost := 0, episode := false }

theorem telemetryRecord_effect (h : ¬ tlmWaits d) :
    Effect .telemetryRecord d (if tlmNext d = d.rd MIL_TLM_RD_IDX then tlmDropped d else tlmWritten d) := by
  refine ⟨_, exec_telemetryRecord, ?_⟩
  exact if_neg h

theorem tlmClosed_sameBut (d : Dev) (es : List (RegField × Nat)) : SameBut d (tlmClosed d) [] es [.mil] := by
  unfold tlmClosed onTlm
  exact (SameBut.refl ..).onMil _ (by simp)

theorem tlmWritten_sameBut (d : Dev) : SameBut d (tlmWritten d) [] [(MIL_TLM_WR_IDX, 0)] [.mil] := by
  unfold tlmWritten onTlm
  exact (((tlmClosed_sameBut d _).emit _).wr _ _ _ (by simp)).onMil _ (by simp)

/-- Beyond the flag, a full ring changes the log at most. -/
theorem tlmFull_sameBut (d : Dev) : SameBut ((tlmClosed d).flag MIL_STATUS_TLM_OVERFLOW) (tlmFull d) recordFields [] [.log] := by
  unfold tlmFull
  dsimp only
  split
  · exact .refl ..
  · exact (SameBut.refl ..).eventIn _ _ _ _ (List.Subset.refl _) (by simp)

theorem tlmFull_out (d : Dev) : (tlmFull d).out = d.out := by
  unfold tlmFull
  dsimp only
  split
  · rfl
  · exact Dev.record_out ..

theorem tlmFull_rd (d : Dev) {f : RegField} (i : Nat) (hf : f ∉ recordFields) :
    (tlmFull d).rd f i = (d.flag MIL_STATUS_TLM_OVERFLOW).rd f i :=
  (tlmFull_sameBut d).rd_eq _ _ hf (by simp)

theorem tlmFull_lost (d : Dev) : (tlmFull d).mil.tlm.lost = d.mil.tlm.lost := by
  rw [(tlmFull_sameBut d).rest .mil (by simp)]
  rfl

section Complete
variable (hen : s.dev.rd MIL_TLM_CTRL_EN ≠ 0) (hsel : tlmSels s.dev ≠ [])
  (hfull : ∀ k ∈ tlmSels s.dev, (SMap.get [] s.dev.mil.tlm.samples k).length = 8)
include hen hsel hfull

theorem telemetryRecord_written (h : tlmNext s.dev ≠ s.dev.rd MIL_TLM_RD_IDX) :
    Completes .telemetryRecord s [(MIL_TLM_WR_IDX, 0)] [.mil] fun e => e.rd MIL_TLM_WR_IDX = tlmNext s.dev % 2 ^ MIL_TLM_WR_IDX.width ∧
      e.mil.tlm.lost = 0 ∧ ∃ bs : List Byte, bs.length = 16 + 16 * (tlmSels s.dev).length ∧ e.out = [.hostWrite (tlmAddr s.dev) bs] := by
  have hx : Effect .telemetryRecord s.dev.cleared (tlmWritten s.dev.cleared) :=
    (telemetryRecord_effect (not_tlmWaits (d := s.dev.cleared) hen hsel hfull)).congr (if_neg h)
  refine hx.completes (tlmWritten_sameBut _) ⟨?_, rfl, tlmBytes s.dev.mil.tlm (tlmSels s.dev), tlmBytes_length .., rfl⟩
  exact (Dev.rd_wr ..).trans (if_pos ⟨rfl, rfl⟩)

theorem telemetryRecord_dropped (h : tlmNext s.dev = s.dev.rd MIL_TLM_RD_IDX) :
    Answers .telemetryRecord s fun e => e.rd MIL_STATUS_TLM_OVERFLOW = 1 ∧ e.mil.tlm.lost = s.dev.mil.tlm.lost + 1 ∧ e.out = [] ∧
      e.rd MIL_TLM_WR_IDX = s.dev.rd MIL_TLM_WR_IDX := by
  have hx : Effect .telemetryRecord s.dev.cleared (tlmDropped s.dev.cleared) :=
    (telemetryRecord_effect (not_tlmWaits (d := s.dev.cleared) hen hsel hfull)).congr (if_pos h)
  refine hx.answers ⟨?_, ?_, tlmFull_out _, ?_⟩
  · exact (tlmFull_rd _ 0 (by simp [recordFields])).trans (by simp)
  · exact congrArg (· + 1) (tlmFull_lost s.dev.cleared)
  · exact (tlmFull_rd _ 0 (by simp [recordFields])).trans (by simp)

end Complete

end Telemetry

/-- Settles O37: each clause is the reasoning rule of its instruction, from the device the instruction leaves (`Effect`). -/
theorem millEnginesAndPorts : Obligations.MillEnginesAndPorts := by
  unfold Obligations.MillEnginesAndPorts
  refine ⟨fun s p kat h => ⟨engineFault_touches, ?_⟩, fun s p kat => engineFault_ignored, fun s p => spareKat_passes, fun s p => spareKat_fails,
    fun s p ok h1 h0 => spareKat_ignored ?_, fun s k bad p rest => engineMigration_answers, fun s k bad => engineMigration_ignored,
    fun s m v => gainTableWrite_puts, fun s m v => gainTableWrite_refused, fun s m k => fbPreset_taken, fun s m k => fbPreset_refused,
    fun s a r g hr hg hheld hcoup hstop hl hf => ?_, fun s a r hr hm => (storeDrain_otherMode (d := s.dev.cleared) hr hm).unchanged,
    fun s a hr => (storeDrain_idle (d := s.dev.cleared) hr).unchanged, fun s => telemetryRecord_off,
    fun s hen hsel hfull => ⟨telemetryRecord_written hen hsel hfull, telemetryRecord_dropped hen hsel hfull⟩⟩
  case refine_1 => exact (engineFault_answers h).imp fun e h => ⟨h.state, h.cause, h.shown, h.spares, h.counted, h.reset⟩
  case refine_2 =>
    rintro (h | ⟨h, hboot⟩)
    · exact h1 h
    · exact h0.elim (absurd h) (absurd hboot)
  case refine_3 =>
    have hm : ¬ (r.mode = .held ∨ r.mode = .coupling ∨ r.mode = .stopping 3) := by simp [hheld, hcoup, hstop]
    exact ⟨storeDrain_answers hr hg hm hl hf, fun hn _ hu => storeDrain_shown hr hg hm hl hf hn hu⟩

end Sys2Proof.Machine
end
